-- ==== Sys2Proof/Word.lean ====
section
/-! DEFINITION. The words of the package: bytes, 32-bit and 64-bit values (R9). -/

namespace Sys2Proof

/-- One byte; byte 0 of a layout is the byte at the lowest address (R9). -/
abbrev Byte := BitVec 8
/-- A field of eight bits. -/
abbrev Word8 := BitVec 8
/-- A 4-byte register or record word. -/
abbrev Word32 := BitVec 32
/-- An 8-byte register or record word. -/
abbrev Word64 := BitVec 64
/-- A layout in ascending byte order. -/
abbrev Bytes := List Byte

end Sys2Proof
end

