-- ==== Sys2Proof/Syntax.lean ====
section
/-! DEFINITION. The commands of the block: one constructor per row of the operation table, and the operand types that
carry what comes from outside the package with an event (R65). -/

namespace Sys2Proof

/-- Where a descriptor comes from: a context's submission ring, or the mailbox of a Hound core (R302, R422). -/
inductive Src where
  | ring (ctx : Nat)
  | mailbox (core : Nat)
deriving DecidableEq, Repr

/-- The path a manager message came on: the management port, with the frame's source address, its EtherType and whether it carries a
tag, or I3C (R451, R452). -/
inductive Path where
  | port (src : BitVec 48) (ether : Nat := 0x88B5) (tagged : Bool := false)
  | i3c
deriving DecidableEq, Repr

/-- The parts that a power-on self-test found failed, bit i for part i (R44, R46). -/
structure Parts where
  arrays : BitVec 256 := 0
  dram : BitVec 24 := 0
  nv : BitVec 8 := 0
  optics : BitVec 4 := 0
  engines : BitVec 24 := 0
  hounds : BitVec 16 := 0
deriving DecidableEq, Repr

/-- What the ECC of a DRAM stack reports: an uncorrectable line, with what it holds (Table 14-3): part of a KV frame, or part of a buffer, or
words or constants; or lines that it has corrected (R443). -/
inductive DramLoc where
  | frame (f : Nat)
  | buffer (b : Nat)
  | program
  | corrected (lines : Nat)
deriving DecidableEq, Repr

/-- One tick's measurement by the Leash (R390, R407): powers in mW, current in mA, energies in 2^-16 µJ, beats per array. -/
structure Measure where
  power : Nat := 0
  arrayPower : Nat := 0
  amps : Nat := 0
  hotArray : Nat := 0
  hotTj : Nat := 0
  hotDie : Nat := 0
  hotStack : Nat := 0
  houndEnergy : List (Nat × Nat) := []
  hintEnergy : Nat := 0
  realBeats : List (Nat × Nat) := []
  trotBeats : List (Nat × Nat) := []
deriving DecidableEq, Repr

/-- One array's mean Tj in °C over an interval of 1,000 ticks (R411). -/
structure BeatSample where
  array : Nat
  tj : Int
deriving DecidableEq, Repr

/-- When the first symbol of a record crossed the plane: so many ticks ago, at this nanosecond of that tick (R65, R66, R387). -/
structure Arrival where
  ago : Nat
  ns : Nat
deriving DecidableEq, Repr

/-- The bytes in error of one line of an NV stack at its first read, and at the second (R221, R244). -/
structure LineReads where
  first : Nat
  again : Nat
deriving DecidableEq, Repr

/-- Why a port goes down: 0 light, with the lanes that have lost it, 1 replay, 2 ACK stall, 3 FEC (R350). -/
structure PortLoss where
  kind : Nat
  lanes : Nat
deriving DecidableEq, Repr

/-- A program's write of 4 or 8 bytes into one of its pages of registers (R421). -/
structure PageWrite where
  size : Nat
  value : Word64
deriving DecidableEq, Repr

/-- One lane's measurement (R463): powers, bias and alarms, and since the last one the bits and the bit errors of codewords that no
FLIT_RECEIVE shows (log entry 31). -/
structure LaneSample where
  lane : Nat
  rx : Nat
  tx : Nat
  bias : Nat
  los : Bool
  txFault : Bool
  bitErrors : Nat
  bits : Nat
deriving DecidableEq, Repr

/-- A data access of a Hound program, at a virtual address less 0x0000_0001_0000_0000, where program memory begins (Table 13-3). -/
inductive Access where
  | store (at_ : Nat) (data : Bytes)
  | load (at_ len : Nat)
deriving DecidableEq, Repr

/-- What a Hound program has stored, and loaded outside its own memory, since its last event (R415, R419). -/
abbrev Stores := List Access

/-- The commands (opcode_table.json). -/
inductive Instr where
  /-- POWER_UP (R474). -/
  | powerUp
  /-- VIN6_LOCKOUT (R474). -/
  | vin6Lockout
  /-- AUX_RAIL_FAULT (R475). -/
  | auxRailFault
  /-- RESET_N_ASSERT (R431). -/
  | resetNAssert
  /-- RESET_N_RELEASE (R473). -/
  | resetNRelease
  /-- PERST_ASSERT (R431). -/
  | perstAssert
  /-- PERST_RELEASE (R473). -/
  | perstRelease
  /-- SELF_TEST_DONE (R46). -/
  | selfTestDone (failed : Parts)
  /-- REFCLK_OK_SET (R57). -/
  | refclkOkSet
  /-- TICK_PHASE_LOCK (R57). -/
  | tickPhaseLock
  /-- TICK_SYNC_MISS (R58). -/
  | tickSyncMiss
  /-- TICK_SYNC_PHASE_ERR (R58). -/
  | tickSyncPhaseErr
  /-- REFCLK_LOST (R61). -/
  | refclkLost (cause : Nat)
  /-- REFCLK_RELOCK (R61). -/
  | refclkRelock
  /-- COUNT_LOAD (R59). -/
  | countLoad
  /-- TIME_EXCHANGE (R62). -/
  | timeExchange (ns : Nat)
  /-- TIME_REQUEST (R387). -/
  | timeRequest (port : Nat) (rec : Bytes) (arrive : Arrival) (departNs : Nat)
  /-- TIME_RESPONSE (R387). -/
  | timeResponse (port : Nat) (rec : Bytes) (arrive : Arrival)
  /-- TICK_CTRL_WRITE (R70). -/
  | tickCtrlWrite (fn : Nat) (value : Word32)
  /-- BAR0_WRITE (R41). -/
  | bar0Write (fn : Nat) (off : Nat) (size : Nat) (value : Word64)
  /-- BAR0_ACCESS_INVALID (R39). -/
  | bar0AccessInvalid (fn : Nat) (off : Nat) (size : Nat)
  /-- BIND (R168). -/
  | bind (fn : Nat) (pen : Nat)
  /-- UNBIND (R172). -/
  | unbind (fn : Nat) (pen : Nat)
  /-- BIND_COMPLETE (R171). -/
  | bindComplete (image : Option Bytes) (placed : Bool)
  /-- UNBIND_COMPLETE (R172). -/
  | unbindComplete
  /-- PEN_ENABLE (R174). -/
  | penEnable (fn : Nat) (pen : Nat) (value : Word32)
  /-- PEN_DISABLE (R174). -/
  | penDisable (fn : Nat) (pen : Nat) (value : Word32)
  /-- PEN_BUDGET_WRITE (R174). -/
  | penBudgetWrite (fn : Nat) (pen : Nat) (off : Nat) (value : Word32)
  /-- PEN_ACTIVATE (R176). -/
  | penActivate (pen : Nat)
  /-- PRED_STEP_REFRESH (R182). -/
  | predStepRefresh
  /-- STEP_SETUP_START (R185). -/
  | stepSetupStart (pen : Nat)
  /-- SETUP_COMPLETE (R185). -/
  | setupComplete (pen : Nat)
  /-- STEP_RELEASE (R186). -/
  | stepRelease (pen : Nat)
  /-- SEGMENT_START (R164). -/
  | segmentStart (pen : Nat) (seg : Nat)
  /-- SEGMENT_SWITCH (R179). -/
  | segmentSwitch (array : Nat)
  /-- STEP_DONE (R188). -/
  | stepDone (pen : Nat)
  /-- MMA (R118). -/
  | mma (array : Nat)
  /-- FUSE2 (R141). -/
  | fuse2 (array : Nat)
  /-- ROWFN (R122). -/
  | rowfn (array : Nat)
  /-- LOADW (R123). -/
  | loadw (array : Nat)
  /-- LOADA (R123). -/
  | loada (array : Nat)
  /-- STORE (R124). -/
  | store (array : Nat)
  /-- STORE_ROWSTATE (R125). -/
  | storeRowstate (array : Nat)
  /-- MASKSET (R127). -/
  | maskset (array : Nat)
  /-- SYNC_DRAIN (R128). -/
  | syncDrain (array : Nat)
  /-- SYNC_BARRIER (R128). -/
  | syncBarrier (array : Nat)
  /-- SYNC_ARRIVE (R128). -/
  | syncArrive (array : Nat)
  /-- SYNC_WAIT (R128). -/
  | syncWait (array : Nat)
  /-- SYNC_LAYER_END (R146). -/
  | syncLayerEnd (array : Nat)
  /-- SYNC_END (R147). -/
  | syncEnd (array : Nat)
  /-- SCORE (R129). -/
  | score (array : Nat)
  /-- BARRIER_COMPLETE (R155). -/
  | barrierComplete (pen : Nat) (barrier : Nat)
  /-- LAYER_DONE (R98). -/
  | layerDone (pen : Nat) (layer : Nat)
  /-- COUNT_RECORD (R201). -/
  | countRecord (pen : Nat) (slot : Nat) (rec : Bytes)
  /-- DISPATCH_MARK (R210). -/
  | dispatchMark (pen : Nat) (slot : Nat) (word : Word64)
  /-- FREE_MARK (R212). -/
  | freeMark (pen : Nat) (slot : Nat) (word : Word64)
  /-- COMBINE_MARK (R213). -/
  | combineMark (pen : Nat) (slot : Nat) (word : Word64)
  /-- DISPATCH_PIECE (R207). -/
  | dispatchPiece (pen : Nat) (off : Nat) (data : Bytes)
  /-- DISPATCH_TAG_RUN (R207). -/
  | dispatchTagRun (pen : Nat) (off : Nat) (data : Bytes)
  /-- COMBINE_STORE (R213). -/
  | combineStore (pen : Nat) (off : Nat) (data : Bytes)
  /-- RECV_GATE_COMPLETE (R210). -/
  | recvGateComplete (pen : Nat) (half : Nat)
  /-- COMB_GATE_COMPLETE (R214). -/
  | combGateComplete (pen : Nat) (half : Nat)
  /-- EXCHANGE_WATCHDOG (R216). -/
  | exchangeWatchdog (pen : Nat)
  /-- IMPRINT_WRITE (R226). -/
  | imprintWrite (ctx : Nat)
  /-- IMPRINT_RETIRE (R228). -/
  | imprintRetire (ctx : Nat)
  /-- IMPRINT_WRITE_DONE (R226). -/
  | imprintWriteDone (stack : Nat) (payload : Option Bytes)
  /-- IMPRINT_AUTH_EXPIRY (R224). -/
  | imprintAuthExpiry
  /-- NV_VERIFY_START (R230). -/
  | nvVerifyStart
  /-- NV_SLOT_VERIFY_DONE (R230). -/
  | nvSlotVerifyDone (slot : Nat) (readable : Bool)
  /-- NV_UNCORRECTABLE (R244). -/
  | nvUncorrectable (slot off : Nat) (reads : LineReads)
  /-- NV_BLOCK_FETCH_DONE (R244). -/
  | nvBlockFetchDone (replica : Nat) (data : Option Bytes)
  /-- NV_REPAIR_START (R245). -/
  | nvRepairStart (slot : Nat)
  /-- NV_REPAIR_DONE (R245). -/
  | nvRepairDone (slot : Nat) (data : Option Bytes)
  /-- NV_STACK_FAILED (R246). -/
  | nvStackFailed (stack : Nat)
  /-- REPLICA_KIND_WRITE (R239). -/
  | replicaKindWrite (fn : Nat) (idx : Nat) (kind : Nat)
  /-- REPLICA_CHECK (R240). -/
  | replicaCheck (idx : Nat) (header : Option Bytes)
  /-- REPLICA_RECHECK (R240). -/
  | replicaRecheck (idx : Nat) (header : Option Bytes)
  /-- REPLICA_HOST_FETCH_DONE (R240). -/
  | replicaHostFetchDone (idx : Nat) (payload : Option Bytes)
  /-- SLOWER_FETCH_DONE (R242). -/
  | slowerFetchDone (pen : Nat) (shard : Nat) (payload : Option Bytes)
  /-- CTX_ENABLE (R258). -/
  | ctxEnable (fn : Nat) (ctx : Nat) (value : Word32)
  /-- CTX_DISABLE (R258). -/
  | ctxDisable (fn : Nat) (ctx : Nat) (value : Word32)
  /-- CTX_CMD_RESET (R280). -/
  | ctxCmdReset (fn : Nat) (ctx : Nat)
  /-- CONTEXT_RESET_DONE (R280). -/
  | contextResetDone (ctx : Nat) (failed : Option Nat)
  /-- FLR_VF (R255). -/
  | flrVf (vf : Nat)
  /-- FLR_PF (R255). -/
  | flrPf
  /-- VF_ENABLE_CLEAR (R255). -/
  | vfEnableClear (numVfs : Nat)
  /-- HOST_LINK_DOWN (R435). -/
  | hostLinkDown (ltssm : Nat)
  /-- RING_WRITE_FAILED (R277). -/
  | ringWriteFailed (ctx : Nat) (ring : Nat)
  /-- DB_SQ_TAIL (R264). -/
  | dbSqTail (fn : Nat) (ctx : Nat) (value : Word32)
  /-- DB_CQ_HEAD (R259). -/
  | dbCqHead (fn : Nat) (ctx : Nat) (value : Word32)
  /-- DB_EQ_HEAD (R268). -/
  | dbEqHead (fn : Nat) (ctx : Nat) (value : Word32)
  /-- DESCRIPTOR_FETCH_DONE (R264). -/
  | descriptorFetchDone (ctx : Nat) (data : Option Bytes)
  /-- ADMIT (R288). -/
  | admitReq (src : Src)
  /-- APPEND (R300). -/
  | append (src : Src)
  /-- CANCEL (R299). -/
  | cancel (src : Src)
  /-- PAUSE (R301). -/
  | pause (src : Src)
  /-- RESUME (R336). -/
  | resume (src : Src)
  /-- HINT (R404). -/
  | hint (ctx : Nat)
  /-- FENCE (R266). -/
  | fence (ctx : Nat)
  /-- FENCE_COMPLETE (R266). -/
  | fenceComplete (ctx : Nat)
  /-- ROLLCALL (R281). -/
  | rollcall (ctx : Nat)
  /-- ROLLCALL_DONE (R281). -/
  | rollcallDone (ctx : Nat)
  /-- SET_SAMPLING (R272). -/
  | setSampling (src : Src)
  /-- IRQ_MODERATION_TIME (R279). -/
  | irqModerationTime (ctx : Nat) (ring : Nat)
  /-- ADMIT_HOLD_EXPIRY (R291). -/
  | admitHoldExpiry (entry : Nat)
  /-- PROMPT_READ_DONE (R290). -/
  | promptReadDone (entry : Nat) (tokens : Option (List Word32))
  /-- APPEND_READ_DONE (R300). -/
  | appendReadDone (entry : Nat) (tokens : Option (List Word32))
  /-- DEADLINE_MISSED (R294). -/
  | deadlineMissed (entry : Nat)
  /-- TTL_EXPIRY (R335). -/
  | ttlExpiry (entry : Nat)
  /-- SLOT_WORD (R304). -/
  | slotWord (pen : Nat) (off : Nat) (word : Word64)
  /-- CANDIDATE_RECORD (R305). -/
  | candidateRecord (pen : Nat) (off : Nat) (rec : Bytes)
  /-- TOKEN_SELECT (R306). -/
  | tokenSelect (pen : Nat) (slot : Nat)
  /-- KV_HOST_COPY_DONE (R337). -/
  | kvHostCopyDone (pen : Nat) (data : Option Bytes)
  /-- KV_COW_COPY_DONE (R329). -/
  | kvCowCopyDone (pen : Nat) (frame : Nat)
  /-- SWAP_RETURN (R339). -/
  | swapReturn (pen : Nat)
  /-- CONTEXT_SWAP (R341). -/
  | contextSwap (pen : Nat)
  /-- PORT_ENABLE (R352). -/
  | portEnable (fn : Nat) (port : Nat) (value : Word32)
  /-- PORT_LIGHT_DETECT (R352). -/
  | portLightDetect (port : Nat)
  /-- PORT_TRAIN_PHASE_DONE (R352). -/
  | portTrainPhaseDone (port : Nat)
  /-- PORT_TRAIN_TIMEOUT (R352). -/
  | portTrainTimeout (port : Nat)
  /-- COLLAR_RECORD (R354). -/
  | collarRecord (port : Nat) (rec : Bytes)
  /-- PORT_DOWN (R350). -/
  | portDown (port : Nat) (cause : PortLoss)
  /-- FLIT_RECEIVE (R349). -/
  | flitReceive (port : Nat) (flit : Bytes) (errs : List Nat)
  /-- PACKET_FORWARD (R359). -/
  | packetForward (port : Nat) (pkt : Bytes)
  /-- PACKET_LOAD (R368). -/
  | packetLoad (port : Nat) (pkt : Bytes)
  /-- PACKET_STORE (R368). -/
  | packetStore (port : Nat) (pkt : Bytes)
  /-- PACKET_ATOMIC (R368). -/
  | packetAtomic (port : Nat) (pkt : Bytes)
  /-- LOAD_RESP (R373). -/
  | loadResp (port : Nat) (pkt : Bytes)
  /-- STORE_ACK (R373). -/
  | storeAck (port : Nat) (pkt : Bytes)
  /-- ATOMIC_RESP (R373). -/
  | atomicResp (port : Nat) (pkt : Bytes)
  /-- FABRIC_FENCE_COMPLETE (R372). -/
  | fabricFenceComplete (srcId : Nat)
  /-- LOAD_TIMEOUT (R377). -/
  | loadTimeout (tag : Nat)
  /-- STORE_TIMEOUT (R377). -/
  | storeTimeout (tag : Nat)
  /-- LIVENESS_PROBE (R383). -/
  | livenessProbe (chip : Nat)
  /-- MEMBER_UNREACHED (R384). -/
  | memberUnreached (pen : Nat) (member : Nat)
  /-- FENCE_NOTICE (R384). -/
  | fenceNotice (port : Nat) (pkt : Bytes)
  /-- PLAN_TAKES_EFFECT (R358). -/
  | planTakesEffect
  /-- PKF_PROBE_GO (R388). -/
  | pkfProbeGo (fn : Nat) (value : Word32)
  /-- PKF_RRC_INVALIDATE (R375). -/
  | pkfRrcInvalidate (fn : Nat) (value : Word32)
  /-- LEASH_TICK (R391). -/
  | leashTick (m : Measure)
  /-- LSH_CAP_NEXT_COMMIT (R394). -/
  | lshCapNextCommit (fn : Nat)
  /-- CAP_SOFT_APPLIED (R396). -/
  | capSoftApplied
  /-- CAP_HARD_APPLIED (R397). -/
  | capHardApplied
  /-- CAP_RELEASE_APPLIED (R396). -/
  | capReleaseApplied
  /-- POWER_EMERGENCY (R398). -/
  | powerEmergency (cond : Nat) (amps : Nat)
  /-- EMERGENCY_END (R398). -/
  | emergencyEnd
  /-- THROTTLE_START (R409). -/
  | throttleStart (array : Nat) (tj : Nat)
  /-- THROTTLE_STEP (R409). -/
  | throttleStep (quadrant : Nat) (tjs : List Nat)
  /-- THERMAL_EMERGENCY (R410). -/
  | thermalEmergency (kind : Nat) (index : Nat) (temp : Nat)
  /-- THERMTRIP (R478). -/
  | thermtrip (die : Nat)
  /-- THERMTRIP_LATCH_CLEAR (R478). -/
  | thermtripLatchClear
  /-- BEAT_RATE_CHECK (R411). -/
  | beatRateCheck (samples : List BeatSample)
  /-- ARRAY_WATCHDOG (R438). -/
  | arrayWatchdog (array : Nat)
  /-- SRAM_UNCORRECTABLE (R438). -/
  | sramUncorrectable (array : Nat)
  /-- ARRAY_SELFTEST_DONE (R439). -/
  | arraySelftestDone (array : Nat) (pass : Bool) (ticks : Nat)
  /-- DRAM_UNCORRECTABLE (R435). -/
  | dramUncorrectable (stack : Nat) (pen : Nat) (loc : DramLoc)
  /-- DRAM_STACK_FAILED (R435). -/
  | dramStackFailed (stack : Nat) (cause : Nat)
  /-- FW_FAULT (R437). -/
  | fwFault (core : Nat) (code : Nat)
  /-- SCENT_QUEUE_DRAIN (R445). -/
  | scentQueueDrain
  /-- SCN_CLEAR_CMD (R449). -/
  | scnClearCmd (fn : Nat)
  /-- SCN_CTRL_WRITE (R446). -/
  | scnCtrlWrite (fn : Nat) (value : Word32)
  /-- CLEAR_AUTH_EXPIRY (R449). -/
  | clearAuthExpiry
  /-- HOUND_BIND (R417). -/
  | houndBind (fn : Nat) (ctx : Nat)
  /-- HOUND_UNBIND (R418). -/
  | houndUnbind (fn : Nat) (ctx : Nat)
  /-- HOUND_IMAGE_LOADED (R417). -/
  | houndImageLoaded (ctx : Nat) (image : Option Bytes)
  /-- HND_MB_CMD_TAIL (R422). -/
  | hndMbCmdTail (core : Nat) (value : Word32) (mem : Stores)
  /-- HND_MB_REPLY_HEAD (R421). -/
  | hndMbReplyHead (core : Nat) (value : Word32) (mem : Stores)
  /-- HND_TQ_HEAD (R424). -/
  | hndTqHead (ctx : Nat) (value : Word32) (mem : Stores)
  /-- HND_FQ_LOAD (R427). -/
  | hndFqLoad (ctx : Nat) (tail : Word32) (mem : Stores)
  /-- HND_FQ_STORE (R427). -/
  | hndFqStore (ctx : Nat) (tail : Word32) (mem : Stores)
  /-- HND_FQ_ATOMIC (R427). -/
  | hndFqAtomic (ctx : Nat) (tail : Word32) (mem : Stores)
  /-- HND_FQ_FENCE (R427). -/
  | hndFqFence (ctx : Nat) (tail : Word32) (mem : Stores)
  /-- ECALL_EXIT (R428). -/
  | ecallExit (core : Nat) (a0 : Word64) (mem : Stores)
  /-- ECALL_WAIT (R428). -/
  | ecallWait (core : Nat) (a0 : Word64) (mem : Stores)
  /-- HOUND_WAKE (R428). -/
  | houndWake (core : Nat)
  /-- HOUND_FAULT (R429). -/
  | houndFault (ctx : Nat) (core : Nat) (kind : Nat) (code : Nat) (pc : Word64) (tval : Word64)
  /-- LEASE (R457). -/
  | lease (path : Path) (msg : Bytes)
  /-- RELEASE (R458). -/
  | release (path : Path) (msg : Bytes)
  /-- LEASE_EXPIRED (R458). -/
  | leaseExpired
  /-- EPOCH (R460). -/
  | epoch (path : Path) (msg : Bytes)
  /-- SET_COUNT (R59). -/
  | setCount (path : Path) (msg : Bytes)
  /-- CAP (R394). -/
  | cap (path : Path) (msg : Bytes)
  /-- PLAN_WRITE (R358). -/
  | planWrite (path : Path) (msg : Bytes)
  /-- PLAN_COMMIT (R358). -/
  | planCommit (path : Path) (msg : Bytes)
  /-- READMIT (R461). -/
  | readmit (path : Path) (msg : Bytes)
  /-- FENCE_GROUP (R384). -/
  | fenceGroup (path : Path) (msg : Bytes)
  /-- GROUP_WRITE (R385). -/
  | groupWrite (path : Path) (msg : Bytes)
  /-- RESUME_GROUP (R385). -/
  | resumeGroup (path : Path) (msg : Bytes)
  /-- MEMBER_LOST (R385). -/
  | memberLost (path : Path) (msg : Bytes)
  /-- IMPRINT_AUTH (R224). -/
  | imprintAuth (path : Path) (msg : Bytes)
  /-- CLEAR_AUTH (R449). -/
  | clearAuth (path : Path) (msg : Bytes)
  /-- LOG_CLEAR (R449). -/
  | logClear (path : Path) (msg : Bytes)
  /-- QUARANTINE (R438). -/
  | quarantine (path : Path) (msg : Bytes)
  /-- ARRAY_RELEASE (R439). -/
  | arrayRelease (path : Path) (msg : Bytes)
  /-- PEN_RESET (R434). -/
  | penReset (path : Path) (msg : Bytes)
  /-- WARM_RESET (R431). -/
  | warmReset (path : Path) (msg : Bytes)
  /-- PORT_REEVAL (R355). -/
  | portReeval (path : Path) (msg : Bytes)
  /-- INSPECT (R464). -/
  | inspect (path : Path) (msg : Bytes)
  /-- STATUS (R454). -/
  | status (path : Path) (msg : Bytes)
  /-- NAMED_TICK_ACTION (R456). -/
  | namedTickAction (op : Nat)
  /-- INSPECT_LEVEL_STEP (R464). -/
  | inspectLevelStep (port : Nat)
  /-- INSPECTION_RECORD (R465). -/
  | inspectionRecord (port : Nat) (rec : Bytes) (rx : List Nat)
  /-- INSPECT_TIMEOUT (R466). -/
  | inspectTimeout (port : Nat)
  /-- I3C_PRIVATE_WRITE (R453). -/
  | i3cPrivateWrite (msg : Bytes)
  /-- I3C_PRIVATE_READ (R453). -/
  | i3cPrivateRead
  /-- ENTDAA (R453). -/
  | entdaa (addr : Nat)
  /-- RSTDAA (R453). -/
  | rstdaa
  /-- GETPID (R453). -/
  | getpid
  /-- GETBCR (R453). -/
  | getbcr
  /-- GETDCR (R453). -/
  | getdcr
  /-- SETMRL (R453). -/
  | setmrl (len : Nat)
  /-- ENEC (R453). -/
  | enec (events : Word8)
  /-- DISEC (R453). -/
  | disec (events : Word8)
  /-- TICK_BOUNDARY (R59). -/
  | tickBoundary
  /-- TICK_SYNC_EDGE (R58). -/
  | tickSyncEdge
  /-- REFCLK_OUT_OF_RANGE (R61). -/
  | refclkOutOfRange
  /-- ENGINE_FAULT (R189). -/
  | engineFault (kind : Nat) (index : Nat)
  /-- LANE_MEASUREMENT_REFRESH (R463). -/
  | laneMeasurementRefresh (samples : List LaneSample)
  /-- HND_RING_BASE_WRITE (R421). -/
  | hndRingBaseWrite (core : Nat) (off : Nat) (write : PageWrite) (mem : Stores)
deriving DecidableEq, Repr

end Sys2Proof
end

