-- ==== Sys2Proof/Config.lean ====
section
/-! DEFINITION. What a part, a firmware image or an implementation fixes, and the free values: opaque constants that
nothing can evaluate (log entries 4 and 10). -/

namespace Sys2Proof.Config

/-- GLB_REV, per part (Table 1-10). -/
opaque glbRev : Word32
/-- GLB_FW_BUILD, per firmware image (R45). -/
opaque fwBuild : Word32
/-- GLB_SERIAL, per part (R45). -/
opaque serial : Word64
/-- PKF_PROTO.MINOR of the running firmware (Table 11-15). -/
opaque protoMinor : BitVec 8
/-- MGT_MAC_ADDR, per part (Table 15-3). -/
opaque macAddr : BitVec 48
/-- The 48-bit provisioned ID that GETPID returns (R453; MIPI I3C gives its layout, the manual no value). -/
opaque i3cPid : BitVec 48
/-- The bus characteristics register that GETBCR returns (R453). -/
opaque i3cBcr : BitVec 8
/-- The device characteristics register that GETDCR returns (R453). -/
opaque i3cDcr : BitVec 8
/-- A byte that the manual calls undefined: the value a location holds in the period that a number names (R158). -/
opaque freeByte : Nat → Nat → Byte
/-- The 8 check bytes of a 64-byte line of NV payload: R221 says what the code corrects and detects, and not which code it is. -/
opaque lineCheck : BitVec 512 → BitVec 64
/-- A 32-bit value that the manual leaves open, drawn afresh for each number (R120 and log entry 10). -/
opaque freeWord : Nat → Word32
/-- A register of a Hound core, by its key, in the period that a number names: what the program's own instructions left there (R415). -/
opaque freeReg : Nat → Nat → BitVec 256
/-- Which of the listed codes records the loss of an NV stack (0), an optical engine (1), a gather engine (2) or a Sled engine (3): R44 and
R436 ask for the record, and no table gives its code. -/
opaque lossCode : Nat → BitVec 16
/-- The FEC that auto-negotiation of the management port agrees (R452). -/
opaque mgtFec : BitVec 8
/-- The STATUS byte of an event record of a code to which the manual gives no status (R275 and log entry 10). -/
opaque eventStatus : Nat → Byte
/-- The package power in mW that the Leash predicts for a quadrant at a VARR in mV, in a tick: the manual gives no prediction (R392). -/
opaque predictPower : Nat → Nat → Nat → Word32
/-- By how much, in 64ths, the Leash moves the gating duty of a quadrant in a tick beyond the least step (R392). -/
opaque gateBy : Nat → Nat → BitVec 6
/-- The gating duty, in 64ths, at which an array carries a trot load in mW (R402). -/
opaque trotDuty : Nat → BitVec 6
/-- The VIN6 current in mA that an array draws as it stops real work in a tick (R402). -/
opaque arrayCurrent : Nat → Nat → BitVec 16

end Sys2Proof.Config
end

