-- ==== Sys2Proof/Machine/Tab.lean ====
section
/-! DEFINITION. Sparse tables in one canonical form: keys strictly rising, no entry equal to the default. The block's
register files, tables and memories are held so, and equal tables are equal data. -/

namespace Sys2Proof

/-- A sparse table from numbers to values; an unlisted key reads as the table's default. -/
abbrev Tab (α : Type) := List (Nat × α)

namespace Machine

/-- The entry at a key, or the default. -/
def tget {α : Type} (d : α) : Tab α → Nat → α
  | [], _ => d
  | (k, v) :: t, n => if n = k then v else tget d t n

/-- Remove what is listed at a key. -/
def tdel {α : Type} : Tab α → Nat → Tab α
  | [], _ => []
  | (k, v) :: t, n => if n = k then tdel t n else (k, v) :: tdel t n

/-- Put an entry at its place in rising key order. -/
def tins {α : Type} (n : Nat) (x : α) : Tab α → Tab α
  | [] => [(n, x)]
  | (k, v) :: t => if n < k then (n, x) :: (k, v) :: t else if n = k then (n, x) :: t else (k, v) :: tins n x t

/-- Write a value at a key; writing the default removes the entry. -/
def tset {α : Type} [DecidableEq α] (d : α) (t : Tab α) (n : Nat) (x : α) : Tab α :=
  if x = d then tdel t n else tins n x t

/-- Apply a function to the value at a key. -/
def tmod {α : Type} [DecidableEq α] (d : α) (t : Tab α) (n : Nat) (f : α → α) : Tab α :=
  tset d t n (f (tget d t n))

/-- Keys strictly above a bound and strictly rising, and no entry equal to the default. -/
def twfFrom {α : Type} [DecidableEq α] (d : α) : Nat → Tab α → Bool
  | _, [] => true
  | lo, (k, v) :: t => decide (lo ≤ k) && decide (v ≠ d) && twfFrom d (k + 1) t

/-- The canonical form of a table. -/
def twf {α : Type} [DecidableEq α] (d : α) (t : Tab α) : Bool := twfFrom d 0 t

/-- Write consecutive values from a key upward. -/
def tsetList {α : Type} [DecidableEq α] (d : α) (t : Tab α) (n : Nat) : List α → Tab α
  | [] => t
  | x :: xs => tsetList d (tset d t n x) (n + 1) xs

/-- Read consecutive values from a key upward. -/
def tgetList {α : Type} (d : α) (t : Tab α) (n : Nat) : Nat → List α
  | 0 => []
  | k + 1 => tget d t n :: tgetList d t (n + 1) k

/-- Apply a function to every listed value, dropping those that become the default. -/
def tmap {α : Type} [DecidableEq α] (d : α) (f : Nat → α → α) (t : Tab α) : Tab α :=
  (t.map fun p => (p.1, f p.1 p.2)).filter fun p => decide (p.2 ≠ d)

/-- The keys whose value satisfies a test, in rising order. -/
def tkeys {α : Type} (p : Nat → α → Bool) (t : Tab α) : List Nat :=
  (t.filter fun e => p e.1 e.2).map Prod.fst

/-- The numbers 0 to n - 1 in rising order. -/
def upto (n : Nat) : List Nat := List.range n

end Machine
end Sys2Proof
end

