-- ==== Sys2Proof/Machine/Bytes.lean ====
section
/-! DEFINITION. Byte order and bit fields (R9): reading and building little-endian layouts, and counting arithmetic. -/

namespace Sys2Proof.Machine

/-- The number whose little-endian bytes are given (R9). -/
def leNat : Bytes → Nat
  | [] => 0
  | b :: t => b.toNat + 256 * leNat t

/-- The k little-endian bytes of a number (R9). -/
def toLE : Nat → Nat → Bytes
  | 0, _ => []
  | k + 1, n => BitVec.ofNat 8 n :: toLE k (n / 256)

/-- The field of n bytes at an offset of a layout. -/
def fieldAt (b : Bytes) (off n : Nat) : Nat := leNat ((b.drop off).take n)

/-- Bits [hi:lo] of a number. -/
def bitsOf (n hi lo : Nat) : Nat := n / 2 ^ lo % 2 ^ (hi + 1 - lo)

/-- Bit i of a number. -/
def bitOf (n i : Nat) : Bool := decide (n / 2 ^ i % 2 = 1)

/-- The smallest integer not below a / b; 0 when b is 0. -/
def ceilDiv (a b : Nat) : Nat := if b = 0 then 0 else (a + b - 1) / b

/-- Round up to a multiple. -/
def roundUp (a m : Nat) : Nat := ceilDiv a m * m

/-- Add to a counter that saturates at a limit. -/
def satAdd (lim a b : Nat) : Nat := min lim (a + b)

/-- Where 32-bit counters saturate (R71, R250, R413, R450). -/
def sat32 : Nat := 0xFFFFFFFE
/-- Where 64-bit counters saturate (R256, R312, R343, R388, R462). -/
def sat64 : Nat := 0xFFFFFFFFFFFFFFFE

/-- One more on a 32-bit counter. -/
def inc32 (a : Nat) : Nat := satAdd sat32 a 1
/-- One more on a 64-bit counter. -/
def inc64 (a : Nat) : Nat := satAdd sat64 a 1

/-- 1 for true, 0 for false: a flag in a register word. -/
def bitN (b : Bool) : Nat := if b then 1 else 0

/-- All the bytes of a list are zero. -/
def allZero (b : Bytes) : Bool := b.all fun x => decide (x = 0)

/-- A range of a layout is zero: the test of a reserved field (R12). -/
def zeroAt (b : Bytes) (off n : Nat) : Bool := allZero ((b.drop off).take n)

/-- Cut a list into pieces of n elements; the fuel bounds the number of pieces. -/
def chunks {α : Type} (n : Nat) : Nat → List α → List (List α)
  | 0, _ => []
  | fuel + 1, l => if l.isEmpty then [] else l.take n :: chunks n fuel (l.drop n)

/-- Zero bytes. -/
def zeros (n : Nat) : Bytes := List.replicate n 0

/-- Insert into a list by a strict order, after every element not behind it: the step of a stable sort. -/
def insertBy {α : Type} (lt : α → α → Bool) (x : α) : List α → List α
  | [] => [x]
  | y :: t => if lt x y then x :: y :: t else y :: insertBy lt x t

/-- A stable insertion sort by a strict order. -/
def sortBy {α : Type} (lt : α → α → Bool) (l : List α) : List α :=
  l.foldl (fun acc x => insertBy lt x acc) []

/-- The element of a list that comes first by a strict order, the earliest on a tie. -/
def firstBy {α : Type} (lt : α → α → Bool) : List α → Option α
  | [] => none
  | x :: t => match firstBy lt t with
    | none => some x
    | some y => if lt y x then some y else some x

/-- The sum of a list of numbers. -/
def sumL (l : List Nat) : Nat := l.foldl (· + ·) 0

end Sys2Proof.Machine
end

