-- ==== Sys2Proof/Machine/Hash.lean ====
section
/-! DEFINITION. The digests of the manual: SHA-256 (FIPS 180-4; R151, R159, R222, R356), HMAC-SHA-256 (FIPS 198-1; Table
15-1) and CRC-32C (Castagnoli polynomial; R220, R348, R367). -/

namespace Sys2Proof.Machine

/-- 2^32. -/
def two32 : Nat := 4294967296

/-- Rotate a 32-bit word right. -/
def rotr (n x : Nat) : Nat := (x >>> n ||| x <<< (32 - n)) % two32

/-- Does no smaller number from 2 on divide n? -/
def isPrime (n : Nat) : Bool := (upto n).all fun d => decide (d < 2 ∨ n % d ≠ 0)

/-- The first 64 primes, from which FIPS 180-4 takes every constant of SHA-256. -/
def primes64 : List Nat := (upto 312).filter fun n => decide (2 ≤ n) && isPrime n

/-- The integer e-th root of n, built from its bit k - 1 downwards on the bits found so far. -/
def rootBits (e n : Nat) : Nat → Nat → Nat
  | 0, r => r
  | k + 1, r => rootBits e n k (if (r + 2 ^ k) ^ e ≤ n then r + 2 ^ k else r)

/-- The first 32 bits of the fraction of the e-th root of a prime below 2^9 (FIPS 180-4, 4.2.2 and 5.3.3). -/
def fracRoot (e q : Nat) : Nat := rootBits e (q * 2 ^ (32 * e)) 37 0 % two32

/-- The 64 round constants (cube roots). -/
def shaK : List Nat := primes64.map (fracRoot 3)

/-- The initial hash value (square roots of the first eight). -/
def shaInit : List Nat := (primes64.take 8).map (fracRoot 2)

/-- The number whose big-endian bytes are given. -/
def beNat (b : Bytes) : Nat := b.foldl (fun a x => a * 256 + x.toNat) 0

/-- The k big-endian bytes of a number. -/
def toBE (k n : Nat) : Bytes := (toLE k n).reverse

/-- Extend the message schedule, newest word first. -/
def shaSched : Nat → List Nat → List Nat
  | 0, w => w
  | k + 1, w =>
    let a := w.getD 1 0
    let b := w.getD 14 0
    let s1 := rotr 17 a ^^^ rotr 19 a ^^^ (a >>> 10)
    let s0 := rotr 7 b ^^^ rotr 18 b ^^^ (b >>> 3)
    shaSched k ((s1 + w.getD 6 0 + s0 + w.getD 15 0) % two32 :: w)

/-- The working words of a compression: the last four values of each of its two recurrences, newest first (a to d, and e to h). -/
structure ShaWork where
  hi : List Nat
  lo : List Nat

/-- The xor of a word turned right by each of the counts. -/
def spins (l : List Nat) (x : Nat) : Nat := l.foldl (fun a n => a ^^^ rotr n x) 0

/-- One round: t1 joins the word of each recurrence that is four rounds old, and the oldest words leave. -/
def shaRound (v : ShaWork) (kw : Nat) : ShaWork :=
  let u := fun i => v.hi.getD i 0
  let l := fun i => v.lo.getD i 0
  let pick := l 2 ^^^ l 0 &&& (l 1 ^^^ l 2)
  let most := u 0 &&& (u 1 ||| u 2) ||| u 1 &&& u 2
  let t1 := l 3 + spins [6, 11, 25] (l 0) + pick + kw
  { hi := (t1 + spins [2, 13, 22] (u 0) + most) % two32 :: v.hi.take 3, lo := (u 3 + t1) % two32 :: v.lo.take 3 }

/-- The compression of one 64-byte block: the eight words found are added to the hash value. -/
def shaBlock (h : List Nat) (blk : Bytes) : List Nat :=
  let w := (shaSched 48 ((chunks 4 16 blk).map beNat).reverse).reverse
  let v := (upto 64).foldl (fun v r => shaRound v (shaK.getD r 0 + w.getD r 0)) { hi := h.take 4, lo := h.drop 4 }
  (upto 8).map fun i => ((v.hi ++ v.lo).getD i 0 + h.getD i 0) % two32

/-- The SHA-256 digest of a byte string (FIPS 180-4): a one bit, zeros and the length in bits fill its last block. -/
def sha256 (m : Bytes) : Bytes :=
  let tail := 0x80#8 :: zeros ((119 - m.length % 64) % 64) ++ toBE 8 (8 * m.length)
  ((chunks 64 ((m.length + tail.length) / 64) (m ++ tail)).foldl shaBlock shaInit).flatMap (toBE 4)

/-- HMAC-SHA-256 with a key of at most 64 bytes (FIPS 198-1). -/
def hmac (key m : Bytes) : Bytes :=
  let k := key ++ zeros (64 - key.length)
  sha256 ((k.map fun b => b ^^^ 0x5c#8) ++ sha256 ((k.map fun b => b ^^^ 0x36#8) ++ m))

/-- Eight shifts of the reflected CRC-32C register. -/
def crcShift : Nat → Nat → Nat
  | 0, c => c
  | k + 1, c => crcShift k (if c % 2 = 1 then (c >>> 1) ^^^ 0x82F63B78 else c >>> 1)

/-- CRC-32C over a byte string (Castagnoli polynomial). -/
def crc32c (m : Bytes) : Nat :=
  (m.foldl (fun c b => crcShift 8 (c ^^^ b.toNat)) 0xFFFFFFFF) ^^^ 0xFFFFFFFF

end Sys2Proof.Machine
end

