-- ==== Sys2Proof/Machine/Fp.lean ====
section
/-! DEFINITION. Narrow arithmetic (chapter 3): the formats of Tables 3-1 to 3-4, exact values, rounding, FP32 operations,
conversion with saturation and flush, scales, and the exponential and row functions of R138 and R139. -/

namespace Sys2Proof.Machine

/-- An exact value: a NaN, an infinity, or (-1)^neg times m times 2^e; m = 0 is a signed zero (R73). -/
inductive Val where
  | nan
  | inf (neg : Bool)
  | fin (neg : Bool) (m : Nat) (e : Int)
deriving DecidableEq, Repr

/-- A floating-point format of Table 3-2: exponent and fraction bits, bias, and what its top codes mean:
0 = infinities and NaNs as IEEE 754, 1 = one NaN code and no infinity (E4M3), 2 = neither. -/
structure FpFmt where
  eb : Nat
  mb : Nat
  bias : Nat
  top : Nat
  nanCode : Nat
deriving DecidableEq, Repr

def fmtBF16 : FpFmt := ⟨8, 7, 127, 0, 0x7FC0⟩
def fmtFP16 : FpFmt := ⟨5, 10, 15, 0, 0x7E00⟩
def fmtFP32 : FpFmt := ⟨8, 23, 127, 0, 0x7FC00000⟩
def fmtE4M3 : FpFmt := ⟨4, 3, 7, 1, 0x7F⟩
def fmtE5M2 : FpFmt := ⟨5, 2, 15, 0, 0x7E⟩
def fmtE3M2 : FpFmt := ⟨3, 2, 3, 2, 0⟩
def fmtE2M3 : FpFmt := ⟨2, 3, 1, 2, 0⟩
def fmtE2M1 : FpFmt := ⟨2, 1, 1, 2, 0⟩

/-- The floating-point format of a format code, none for the integer formats (Table 3-1). -/
def fpOf (code : Nat) : Option FpFmt :=
  match code with
  | 0 => some fmtBF16 | 1 => some fmtFP16 | 2 => some fmtFP32 | 3 => some fmtE4M3
  | 4 => some fmtE5M2 | 5 => some fmtE3M2 | 6 => some fmtE2M3 | 7 => some fmtE2M1
  | _ => none

/-- Bits per element; 0 for T2, which packs five per byte, and for reserved codes (Table 3-1). -/
def elBits (code : Nat) : Nat :=
  match code with
  | 0 => 16 | 1 => 16 | 2 => 32 | 3 => 8 | 4 => 8 | 5 => 6 | 6 => 6 | 7 => 4 | 8 => 8 | 9 => 4 | 10 => 3 | 12 => 2
  | _ => 0

/-- The largest finite code of a format, without the sign (Table 3-2). -/
def maxCode (f : FpFmt) : Nat :=
  match f.top with
  | 0 => (2 ^ f.eb - 1) * 2 ^ f.mb - 1
  | 1 => 2 ^ (f.eb + f.mb) - 2
  | _ => 2 ^ (f.eb + f.mb) - 1

/-- The exponent of the smallest subnormal. -/
def eMin (f : FpFmt) : Int := 1 - (f.bias : Int) - f.mb

/-- The value of a code of a floating-point format (R73). -/
def decodeFp (f : FpFmt) (c : Nat) : Val :=
  let neg := bitOf c (f.eb + f.mb)
  let e := bitsOf c (f.eb + f.mb - 1) f.mb
  let m := c % 2 ^ f.mb
  if f.top = 0 ∧ e = 2 ^ f.eb - 1 then (if m = 0 then .inf neg else .nan)
  else if f.top = 1 ∧ e = 2 ^ f.eb - 1 ∧ m = 2 ^ f.mb - 1 then .nan
  else if e = 0 then .fin neg m (eMin f)
  else .fin neg (m + 2 ^ f.mb) (eMin f + e - 1)

/-- m / 2^s rounded to nearest, ties to even; a negative s multiplies (R77). -/
def rneShift (m : Nat) (s : Int) : Nat :=
  if s ≤ 0 then m * 2 ^ s.natAbs
  else
    let d := 2 ^ s.natAbs
    let q := m / d
    let r := m % d
    if 2 * r > d ∨ (2 * r = d ∧ q % 2 = 1) then q + 1 else q

/-- The code, without the sign, of m times 2^e rounded to nearest in a format, unlimited upward (R77). -/
def roundCode (f : FpFmt) (m : Nat) (e : Int) : Nat :=
  if m = 0 then 0
  else
    let q := max (e + Nat.log2 m - f.mb) (eMin f)
    rneShift m (q - e) + (q - eMin f).toNat * 2 ^ f.mb

/-- m1 times 2^e1 is above m2 times 2^e2. -/
def magGt (m1 : Nat) (e1 : Int) (m2 : Nat) (e2 : Int) : Bool :=
  let lo := min e1 e2
  decide (m1 * 2 ^ (e1 - lo).toNat > m2 * 2 ^ (e2 - lo).toNat)

/-- A converted element: its code, and whether it saturated (R78, R79) or flushed (R80). -/
structure Conv where
  code : Nat
  sat : Bool
  flush : Bool
deriving DecidableEq, Repr

/-- Conversion into a floating-point format narrower than FP32 (R77 to R80). -/
def convertFp (f : FpFmt) (v : Val) : Conv :=
  let sign (n : Bool) (c : Nat) := c + (if n then 2 ^ (f.eb + f.mb) else 0)
  match v with
  | .nan => if f.top = 2 then ⟨0, true, false⟩ else ⟨f.nanCode, false, false⟩
  | .inf n => ⟨sign n (maxCode f), true, false⟩
  | .fin n m e =>
    if m = 0 then ⟨sign n 0, false, false⟩
    else
      match decodeFp f (maxCode f) with
      | .fin _ mm me =>
        if magGt m e mm me then ⟨sign n (maxCode f), true, false⟩
        else
          let c := roundCode f m e
          ⟨sign n c, false, decide (c = 0)⟩
      | _ => ⟨0, false, false⟩

/-- Conversion into an integer format with a symmetric range, the result in two's complement of w bits (R77 to R80, Table 3-4). -/
def convertInt (w lim : Nat) (v : Val) : Conv :=
  let enc (n : Bool) (k : Nat) : Nat := if n then (2 ^ w - k) % 2 ^ w else k
  match v with
  | .nan => ⟨0, true, false⟩
  | .inf n => ⟨enc n lim, true, false⟩
  | .fin n m e =>
    if m = 0 then ⟨0, false, false⟩
    else if magGt m e lim 0 then ⟨enc n lim, true, false⟩
    else
      let k := rneShift m (-e)
      ⟨enc n k, false, decide (k = 0)⟩

/-- A value times a power of two, exactly. -/
def scalePow (v : Val) (k : Int) : Val :=
  match v with
  | .fin n m e => .fin n m (e + k)
  | x => x

/-- Conversion into the format of a code. Under S1 an INT8 element stands for its integer times 2^-6 (R82). -/
def convertTo (code scheme : Nat) (v : Val) : Conv :=
  match fpOf code with
  | some f => convertFp f v
  | none =>
    if code = 8 then convertInt 8 127 (if scheme = 1 then scalePow v 6 else v)
    else convertInt 4 7 v

/-- The exact value of an FP32 pattern. -/
def f32 (w : Word32) : Val := decodeFp fmtFP32 w.toNat

/-- Rounding to FP32 (R77); an overflow is an infinity (R89), a NaN is 0x7FC0_0000 (Table 3-2). -/
def toF32 (v : Val) : Word32 :=
  match v with
  | .nan => 0x7FC00000#32
  | .inf n => if n then 0xFF800000#32 else 0x7F800000#32
  | .fin n m e => BitVec.ofNat 32 (min (roundCode fmtFP32 m e) 0x7F800000 + (if n then 2 ^ 31 else 0))

/-- Signed mantissa of a finite value. -/
def smant (n : Bool) (m : Nat) : Int := if n then -(m : Int) else m

/-- The exact sum of two values (R79); the sum of opposite values is +0. -/
def vadd (a b : Val) : Val :=
  match a, b with
  | .nan, _ => .nan
  | _, .nan => .nan
  | .inf x, .inf y => if x = y then .inf x else .nan
  | .inf x, _ => .inf x
  | _, .inf y => .inf y
  | .fin n1 m1 e1, .fin n2 m2 e2 =>
    if m1 = 0 ∧ m2 = 0 then .fin (n1 && n2) 0 0
    else
      let lo := min e1 e2
      let s := smant n1 m1 * 2 ^ (e1 - lo).toNat + smant n2 m2 * 2 ^ (e2 - lo).toNat
      .fin (decide (s < 0)) s.natAbs lo

/-- The exact product of two values; zero times infinity is a NaN (R79). -/
def vmul (a b : Val) : Val :=
  match a, b with
  | .nan, _ => .nan
  | _, .nan => .nan
  | .inf x, .inf y => .inf (x != y)
  | .inf x, .fin n m _ => if m = 0 then .nan else .inf (x != n)
  | .fin n m _, .inf y => if m = 0 then .nan else .inf (n != y)
  | .fin n1 m1 e1, .fin n2 m2 e2 => .fin (n1 != n2) (m1 * m2) (e1 + e2)

/-- The quotient, exact but for a sticky last bit that keeps every rounding to 26 bits or fewer right. -/
def vdiv (a b : Val) : Val :=
  match a, b with
  | .nan, _ => .nan
  | _, .nan => .nan
  | .inf _, .inf _ => .nan
  | .inf x, .fin n _ _ => .inf (x != n)
  | .fin n _ _, .inf y => .fin (n != y) 0 0
  | .fin n1 m1 e1, .fin n2 m2 e2 =>
    if m2 = 0 then (if m1 = 0 then .nan else .inf (n1 != n2))
    else
      let k := 40 + Nat.log2 m2
      let q := m1 * 2 ^ k / m2
      let r := m1 * 2 ^ k % m2
      .fin (n1 != n2) (2 * q + (if r = 0 then 0 else 1)) (e1 - e2 - k - 1)

/-- FP32 addition, product, quotient and negation, each rounded once (R77, R136). -/
def fadd (a b : Word32) : Word32 := toF32 (vadd (f32 a) (f32 b))
def fmul (a b : Word32) : Word32 := toF32 (vmul (f32 a) (f32 b))
def fdiv (a b : Word32) : Word32 := toF32 (vdiv (f32 a) (f32 b))
def fneg (a : Word32) : Word32 := a ^^^ 0x80000000#32
def fsub (a b : Word32) : Word32 := fadd a (fneg b)

/-- An FP32 pattern times 2^k, rounded once. -/
def fscale (a : Word32) (k : Int) : Word32 := toF32 (scalePow (f32 a) k)

/-- A NaN pattern. -/
def isNan (a : Word32) : Bool := match f32 a with | .nan => true | _ => false

/-- Strictly below, in the order of the real line with infinities; false when either is a NaN; -0 equals +0. -/
def vlt (a b : Val) : Bool :=
  match a, b with
  | .nan, _ => false
  | _, .nan => false
  | .inf x, .inf y => x && !y
  | .inf x, .fin .. => x
  | .fin .., .inf y => !y
  | .fin n1 m1 e1, .fin n2 m2 e2 =>
    let lo := min e1 e2
    decide (smant n1 m1 * 2 ^ (e1 - lo).toNat < smant n2 m2 * 2 ^ (e2 - lo).toNat)

def flt (a b : Word32) : Bool := vlt (f32 a) (f32 b)

/-- The larger of two patterns, the first on a tie; a NaN never wins over a number. -/
def fmax (a b : Word32) : Word32 := if isNan a || flt a b then b else a

def fOne : Word32 := 0x3F800000#32
def fNegInf : Word32 := 0xFF800000#32
def fPosInf : Word32 := 0x7F800000#32

/-- A finite pattern. -/
def isFinite (a : Word32) : Bool := match f32 a with | .fin .. => true | _ => false

/-- Finite and above zero. -/
def isPos (a : Word32) : Bool := isFinite a && flt 0#32 a

/-- The coefficients C7 down to C0 of the exponential: the FP32 values nearest to (ln 2)^k / k! (R138). -/
def expCoeffs : List Word32 :=
  [0x377FE5FE#32, 0x39218489#32, 0x3AAEC3FF#32, 0x3C1D955B#32, 0x3D635847#32, 0x3E75FDF0#32, 0x3F317218#32, 0x3F800000#32]

/-- The exponential of R138. -/
def exp32 (x : Word32) : Word32 :=
  match f32 x with
  | .nan => 0x7FC00000#32
  | .inf n => if n then 0#32 else fPosInf
  | .fin .. =>
    let y := fmul x 0x3FB8AA3B#32
    if flt 0x43000000#32 y then fPosInf
    else if flt y 0xC3170000#32 then 0#32
    else
      match f32 y with
      | .fin neg m e =>
        let k := rneShift m (-e)
        let n : Int := smant neg k
        let f := toF32 (vadd (.fin neg m e) (.fin (!neg) k 0))
        let p := expCoeffs.tail.foldl (fun p c => fadd (fmul p f) c) (expCoeffs.headD 0#32)
        fscale p n
      | _ => 0x7FC00000#32

/-- SiLU (R139). -/
def silu (g : Word32) : Word32 := fdiv g (fadd fOne (exp32 (fneg g)))

/-- The tanh form of GELU (R139). -/
def gelu (x : Word32) : Word32 :=
  let x3 := fmul (fmul x x) x
  let inner := fadd x (fmul 0x3D372713#32 x3)
  let y := fmul 0x3F4C422A#32 inner
  let t := fsub fOne (fdiv 0x40000000#32 (fadd (exp32 (fmul 0x40000000#32 y)) fOne))
  fmul (fmul 0x3F000000#32 x) (fadd fOne t)

/-- A two's complement number of w bits as a value. -/
def intVal (w c : Nat) : Val :=
  if c ≥ 2 ^ (w - 1) then .fin true (2 ^ w - c) 0 else .fin false c 0

/-- The value of an element code; none for a code outside the decoded range, which contributes zero to every product
(R74). T2 digits: 0, +1, -1 (R76); the digit 3 stands for a byte above 242. -/
def decodeEl (code scheme c : Nat) : Option Val :=
  match fpOf code with
  | some f => some (decodeFp f c)
  | none =>
    match code with
    | 8 => some (if scheme = 1 then scalePow (intVal 8 c) (-6) else intVal 8 c)
    | 9 => some (intVal 4 c)
    | 10 => if c = 4 then none else some (intVal 3 c)
    | 11 => match c with
      | 0 => some (.fin false 0 0) | 1 => some (.fin false 1 0) | 2 => some (.fin true 1 0) | _ => none
    | 12 => some (intVal 2 c)
    | _ => none

/-- The value of an E8M0 scale code (Table 3-6). -/
def e8m0 (c : Nat) : Val := if c = 255 then .nan else .fin false 1 ((c : Int) - 127)

/-- The value of an E4M3 scale code, its sign bit ignored (Table 3-6); 0x7F is a NaN (R84). -/
def e4m3Scale (c : Nat) : Val := decodeFp fmtE4M3 (c % 128)

/-- The smallest E4M3 code whose value is not below num / den times 2^e, limited to 2^-9 (code 1) and 448 (code 0x7E)
(R85 step 4, R319). -/
def e4m3Ceil (num den : Nat) (e : Int) : Nat :=
  let ok (c : Nat) : Bool :=
    match decodeFp fmtE4M3 c with
    | .fin _ m k =>
      let lo := min k e
      decide (m * den * 2 ^ (k - lo).toNat ≥ num * 2 ^ (e - lo).toNat)
    | _ => false
  ((upto 125).map (· + 1) |>.find? ok).getD 0x7E

/-- The integer that an output format's largest finite value is, with its power of two: F of R85. -/
def outF (code : Nat) : Nat := match code with | 3 => 448 | 7 => 6 | 8 => 127 | 9 => 7 | _ => 0

/-- emax of R83. -/
def emaxOf (code : Nat) : Int := match code with | 3 => 8 | 4 => 15 | 5 => 4 | 6 => 2 | 7 => 2 | _ => 0

end Sys2Proof.Machine
end

