-- ==== Sys2Proof/Machine/TypesA.lean ====
section
/-! DEFINITION. Parts of the state: pins, tick, Scent log, schedule images, arrays, step jobs and exchanges, the weight
store, and what the package sends (plain data throughout). -/

namespace Sys2Proof.Machine

/-- What the package has sent, oldest first (log entry 11). Functions are PCIe functions (R254). -/
inductive Out where
  /-- A posted write of host memory for a function (R254). -/
  | hostWrite (fn addr : Nat) (data : Bytes)
  /-- A read of host memory: function, address, bytes (R254). -/
  | hostRead (fn addr len : Nat)
  /-- An MSI-X message of a function's vector (R278). -/
  | msix (fn vec : Nat)
  /-- A fabric packet handed to a port, or to the package itself: port 16 is the local source (R359, R379). -/
  | packet (port : Nat) (data : Bytes)
  /-- A control record on a port (R353). -/
  | control (port : Nat) (data : Bytes)
  /-- An idle flit that carries an acknowledgement, a NACK or a credit, or a flit sent again (R348, R349, R351). -/
  | flit (port : Nat) (data : Bytes)
  /-- A management reply (R454). -/
  | reply (path : Path) (data : Bytes)
  /-- Bytes the I3C target returns (R453). -/
  | i3c (data : Bytes)
  /-- An I3C in-band interrupt (R453). -/
  | i3cIbi
deriving DecidableEq, Repr

/-- The sideband lands (Table 16-4). -/
structure Pins where
  vinOk : Bool := true
  auxHold : Bool := false
  resetN : Bool := false
  perstN : Bool := false
  pwrGood : Bool := false
  alertN : Bool := false
  thermtripN : Bool := true
deriving DecidableEq, Repr

/-- The REF domain and alignment (Tables 2-6 and 2-7; R62, R63). Offsets are in half nanoseconds, signed. -/
structure TickS where
  count : Nat := 0
  refclkOk : Bool := false
  phaseLocked : Bool := false
  countSet : Bool := false
  rackAligned : Bool := false
  holdover : Bool := false
  refLostSticky : Bool := false
  /-- A condition of a REFCLK loss has occurred while locked, and its declaration is still to come (R61). -/
  lossDue : Bool := false
  alignSticky : Bool := false
  phaseSticky : Bool := false
  missSticky : Bool := false
  ctrl : Nat := 7
  syncLast : Nat := 0
  syncMiss : Nat := 0
  phaseErr : Nat := 0
  offsets : List Int := []
  goodAvgs : Nat := 0
  offsetPs : Int := 0
  adjShort : Nat := 0
  adjLong : Nat := 0
  lastAdjust : Option Nat := none
  setDelta : Int := 0
  pendingCount : Option Nat := none
  exchange : Option (Nat × Nat) := none
  exchSeq : Nat := 0
  lastExchange : Option Nat := none
  failedExch : Nat := 0
  missLogAt : Option Nat := none
  phaseLogAt : Option Nat := none
deriving DecidableEq, Repr

/-- An entry of an MSI-X table: where its message goes and what it writes (R278). -/
structure MsixEnt where
  addr : Nat := 0
  data : Nat := 0
deriving DecidableEq, Repr

/-- The Advanced Error Reporting registers of a function: status and mask of uncorrectable and of correctable errors, and the severity
of the uncorrectable ones (Table 8-1). The spec names the capability alone; no command reads or sets them (log entry 11). -/
structure Aer where
  uncStatus : Nat := 0
  uncMask : Nat := 0x400000
  uncSeverity : Nat := 0x462030
  corStatus : Nat := 0
  corMask : Nat := 0xE000
deriving DecidableEq, Repr

/-- What the host has set in the PCI Express configuration space and the MSI-X table of a function (Table 8-1, R278): the power state, the
largest payload and read request in bytes, MSI-X disabled, the function mask, the masked vectors and the table; and AER. -/
structure FnCfg where
  d3hot : Bool := false
  payload : Nat := 512
  readReq : Nat := 4096
  msixOff : Bool := false
  masked : Bool := false
  masks : List Nat := []
  vectors : Tab MsixEnt := []
  aer : Aer := {}
deriving DecidableEq, Repr

/-- Bytes of a stack, from the start of a pen's share of it, that an uncorrectable line has retired (R435). -/
structure BadDram where
  pen : Nat
  stack : Nat
  off : Nat
  len : Nat
deriving DecidableEq, Repr

/-- GLB_ state that no other block gives (Table 1-9, Table 1-11); a listed part is unusable. -/
structure Glb where
  fwFault : Bool := false
  selfTestDone : Bool := false
  ready : Bool := false
  everReady : Bool := false
  /-- READY has been 1 since the last cold reset (R477). -/
  coldReady : Bool := false
  /-- One more than the tick of the latest warm reset (R431). -/
  warmAt : Nat := 0
  tickAtReady : Nat := 0
  dramLost : Tab Bool := []
  nvLost : Tab Bool := []
  opticsLost : Tab Bool := []
  engineLost : Tab Bool := []
  houndLost : Tab Bool := []
  hostLink : Bool := false
  barInvalidAt : Option Nat := none
  writeNotAllowedAt : Option Nat := none
  /-- Ticks of each DRAM stack's uncorrectable lines in the last 10,000, and the stretches of DRAM never allocated again (R435). -/
  dramLines : Tab (List Nat) := []
  /-- Lines that each stack has corrected since its last DRAM_CORRECTED record, and one more than the tick of that record (Table 14-8). -/
  dramCorr : Tab Nat := []
  dramCorrAt : Tab Nat := []
  badDram : List BadDram := []
  /-- Held lower halves of 64-bit writes: per function, the offset and the half (R40). -/
  heldLow : Tab (Option (Nat × Nat)) := []
  /-- The functions of the host link: no command of the table changes them (log entry 11). -/
  fns : Tab FnCfg := []
deriving DecidableEq, Repr

/-- A Scent log record; SEQ 0 is an empty slot (Table 14-5). -/
structure Rec where
  seq : Nat := 0
  code : Nat := 0
  source : Nat := 0
  cycles : Nat := 0
  prot : Bool := false
  hours : Nat := 0
  ms : Nat := 0
  p0 : Nat := 0
  p1 : Nat := 0
  p2 : Nat := 0
deriving DecidableEq, Repr

/-- A clear authorisation (R449). -/
structure ClearAuth where
  upto : Nat
  expiry : Nat
  manager : Nat
deriving DecidableEq, Repr

/-- The Scent log (Table 14-9). Operating time is held in units of 100 ns. -/
structure Scn where
  slots : Tab Rec := []
  nextSeq : Nat := 1
  queue : List Rec := []
  storedInTick : Nat := 0
  irqInTick : Bool := false
  seqLast : Nat := 0
  newestSlot : Nat := 65535
  dropped : Nat := 0
  overwritten : Nat := 0
  cursor : Nat := 0
  policy : Nat := 1
  irqSev : Nat := 4
  dropSticky : Bool := false
  clearResult : Nat := 0
  powerCycles : Nat := 0
  opTime : Nat := 0
  auth : Option ClearAuth := none
deriving DecidableEq, Repr

/-- A segment directory entry (Table 5-4). -/
structure SegDir where
  wordFirst : Nat := 0
  wordCount : Nat := 0
  constFirst : Nat := 0
  constBytes : Nat := 0
  constLaddr : Nat := 0
  chanFirst : Nat := 0
  chanCount : Nat := 0
  affinity : Nat := 0
deriving DecidableEq, Repr

/-- A channel entry (Table 5-5). -/
structure ChanEnt where
  base : Nat := 0
  size : Nat := 64
  chan : Nat := 0
  feeder : Nat := 1
  units : Nat := 0
  stream : Nat := 0
deriving DecidableEq, Repr

/-- A barrier entry; bit s of members is segment s (Table 5-6). -/
structure Barrier where
  members : Nat := 0
  gate : Bool := false
deriving DecidableEq, Repr

/-- A layer arithmetic record (Table 3-10). -/
structure LRec where
  wFmt : Nat := 3
  wSch : Nat := 0
  aSch : Nat := 0
  oSch : Nat := 0
  aFmt : Nat := 3
  oFmt : Nat := 2
  clip : Nat := 0
  base : Int := 0
  tExp : Nat := 0
  sensitive : Bool := false
  override : Bool := false
  dewclaw : Bool := false
  wide : Bool := false
  hasWide : Bool := false
  wideIndex : Nat := 0
  layer : Nat := 0
  wts : Word32 := 0#32
deriving DecidableEq, Repr

/-- A relocation entry (Table 5-7). -/
structure Reloc where
  bytes : Nat := 32
  kind : Nat := 2
  cls : Nat := 0
  persist : Bool := false
  fill : Nat := 0
deriving DecidableEq, Repr

/-- A shard list entry (Table 5-9). -/
structure ShardEnt where
  shard : Nat := 0
  length : Nat := 32
  reads : Nat := 0
  digest : Bytes := []
deriving DecidableEq, Repr

/-- A stream entry (Table 5-10). -/
structure StreamEnt where
  kind : Nat := 0
  last : Bool := true
  source : Nat := 0
  offset : Nat := 0
  units : Nat := 1
deriving DecidableEq, Repr

/-- A variant entry (Table 5-11). -/
structure Variant where
  kind : Nat := 4
  seg : Nat := 0
  layer : Nat := 0
  first : Nat := 0
  count : Nat := 0
  runFirst : Nat := 0
  runCount : Nat := 0
  overrides : List Nat := []
  fbId : Nat := 0
deriving DecidableEq, Repr

/-- An attention map entry (Table 5-12). -/
structure AttEnt where
  layer : Nat := 0
  headFirst : Nat := 0
  headCount : Nat := 1
  slotFirst : Nat := 0
  slotCount : Nat := 1
  seg : Nat := 0
  bChan : Nat := 0
  dChan : Nat := 0
deriving DecidableEq, Repr

/-- A routing entry (Table 6-6). -/
structure RouteEnt where
  routerLayer : Nat := 0
  dispatchLayer : Nat := 0
  expertLayer : Nat := 0
  combineLayer : Nat := 0
  scoreBuf : Nat := 0
  selectBuf : Nat := 0
  recvBuf : Nat := 0
  combBuf : Nat := 0
  outBuf : Nat := 0
  dispBuf : Nat := 0
  recvGate : Nat := 0
  combGate : Nat := 0
  spillIndex : Nat := 0
  outFmt : Nat := 2
  maskLaddr : Nat := 0
deriving DecidableEq, Repr

/-- The routing header with its entries (Table 6-5). -/
structure Routing where
  experts : Nat := 2
  topK : Nat := 1
  gateMode : Nat := 0
  epm : Nat := 1
  hiddenPanels : Nat := 1
  boardBuf : Nat := 0
  entries : List RouteEnt := []
deriving DecidableEq, Repr

/-- A checked schedule image (R150 to R166). Words are 128-bit numbers. -/
structure Image where
  version : Nat := 4
  id : Nat := 0
  layers : Nat := 1
  groupSize : Nat := 1
  member : Nat := 0
  batchSlots : Nat := 1
  positions : Nat := 1
  phase : Nat := 1
  kvK : Nat := 3
  kvV : Nat := 3
  vocab : Nat := 2
  nominal : Nat := 1
  folded : Nat := 1
  segs : List SegDir := []
  words : List Nat := []
  consts : Bytes := []
  chans : List ChanEnt := []
  barriers : List Barrier := []
  recs : List LRec := []
  variants : List Variant := []
  stagger : List Nat := []
  relocs : List Reloc := []
  shards : List ShardEnt := []
  streams : List StreamEnt := []
  att : List AttEnt := []
  routing : Option Routing := none
  retainBytes : Nat := 0
  replayTicks : Nat := 0
  roundTicks : Nat := 0
  recvCapacity : Nat := 0
  fbId : Option Nat := none
deriving DecidableEq, Repr

/-- One accumulator plane with its pending tensor scale and counters (Table 4-1; R94, R135). Element (i, j) is at key
128 i + j; an element not written reads as +0, or as a free value of a period when a FUSE2 has left the plane unspecified
(R120). -/
structure Plane where
  acc : Tab (Option Word32) := []
  free : Nat := 0
  tscale : Word32 := fOne
  sat : Nat := 0
  ftz : Nat := 0
  ovf : Nat := 0
  conv : Nat := 0
  isat : Nat := 0
  iftz : Nat := 0
  iconv : Nat := 0
  nan : Bool := false
deriving DecidableEq, Repr

/-- What a fold switch saves and restores: local SRAM, planes, row state and masks (R179; Table 4-1). -/
structure ArrData where
  sram : Tab Byte := []
  /-- The base exponent b of the S3 sidecar in a unit (R81, R85, R93). -/
  base : Tab Int := []
  plane0 : Plane := {}
  plane1 : Plane := {}
  rowM : Tab Word32 := []
  rowL : Tab Word32 := []
  rowMask : Nat := 2 ^ 128 - 1
  colMask : Nat := 2 ^ 128 - 1
deriving DecidableEq, Repr

/-- The progress of one segment on its array in the running step. -/
structure SegRun where
  seg : Nat := 0
  started : Bool := false
  ended : Bool := false
  /-- Held at LAYER_END until the run is decided (R146). -/
  held : Bool := false
  /-- Waiting for a generation of a barrier (R128). -/
  waitFor : Option (Nat × Nat) := none
  /-- The next word, the first word of the current run, and the word after the normal run that a variant run replaces. -/
  pc : Nat := 0
  runFirst : Nat := 0
  resume : Option Nat := none
  /-- Spill RUN entries still to run, and the round they belong to (R202). -/
  spill : List Nat := []
  round : Nat := 0
  /-- The present run is one of a wide group (R163). -/
  wide : Bool := false
  /-- Units of each channel's own chain that its ring has taken: where the segment was at its furthest (R236, R237). -/
  chHigh : Tab Nat := []
  /-- Units taken from each channel, and at the start of the run (R114, R115); override chains of a variant run plus one, and
  the positions that the normal run's end would leave (R163). -/
  chPos : Tab Nat := []
  chStart : Tab Nat := []
  chChain : Tab Nat := []
  chNext : Tab Nat := []
  /-- Where each channel stood at the start of the last normal run of a layer, at key 4 layer + channel. -/
  chAt : Tab Nat := []
  /-- Waits begun and arrivals made per barrier, and at the start of the run (R128). -/
  waits : Tab Nat := []
  waitsStart : Tab Nat := []
  arrs : Tab Nat := []
  arrsStart : Tab Nat := []
  /-- Gather streams consumed per channel: at key c as keys and at key 4 + c as values; and at the start of the run (R165). -/
  gathers : Tab Nat := []
  gathersStart : Tab Nat := []
  /-- Normal runs of each layer released so far: the half of the next one (R95, R195). -/
  runsDone : Tab Nat := []
  armed : Bool := false
deriving DecidableEq, Repr

/-- One matrix array (Tables 4-1 and 14-11; R108, R438). -/
structure Arr where
  st : Nat := 0
  cause : Nat := 0
  fails : Nat := 0
  /-- Pen number plus one of the set that holds it, and of the pen it last served; 0 = none. -/
  pen : Nat := 0
  served : Nat := 0
  data : ArrData := {}
  saved : Option ArrData := none
  runs : List SegRun := []
  active : Nat := 0
deriving DecidableEq, Repr

/-- A buffer of a bound image: bytes written, the region's base tags, and the free value its other bytes read as (R158). -/
structure Buf where
  data : Tab Byte := []
  written : Tab Bool := []
  gen : Nat := 0
  /-- The base exponent b of the S3 sidecar in a unit (R81, R85, R93). -/
  base : Tab Int := []
deriving DecidableEq, Repr

/-- The layer summary of Table 3-9, without its padding. -/
structure Summary where
  nConv : Nat := 0
  sat : Nat := 0
  ftz : Nat := 0
  ovf : Nat := 0
  kind : Nat := 0
  nan : Bool := false
  clip : Nat := 0
  base : Int := 0
deriving DecidableEq, Repr

/-- What a slot feeds in the running step (R293). -/
structure SlotUse where
  entry : Nat
  first : Nat
  used : Nat
  select : Bool
  /-- A decode slot: the newest token and its drafts (R293). -/
  dec : Bool
deriving DecidableEq, Repr

/-- A sampling entry (Table 9-12). -/
structure Sample where
  topK : Nat := 0
  temp : Word32 := 0#32
  topP : Word32 := fOne
  minP : Word32 := 0#32
  repPenalty : Word32 := fOne
  repWindow : Nat := 0
deriving DecidableEq, Repr

/-- A candidate record as received (Table 9-8). -/
structure Cand where
  slot : Nat
  pos : Nat
  row : Nat
  sender : Nat
  maxv : Word32
  sum : Word32
  list : List (Nat × Word32)
  at_ : Nat
deriving DecidableEq, Repr

/-- A selection made for a slot: tokens delivered, drafts matched, next drafts (R309). -/
structure Selection where
  tokens : List Nat
  matched : Nat
  drafts : List Nat
deriving DecidableEq, Repr

/-- A kept count record (Table 6-2). -/
structure CountRec where
  x : Nat
  member : Nat
  wide : Bool
  earliest : Nat
  positionsIn : Nat
  counts : List Nat
  at_ : Nat
deriving DecidableEq, Repr

/-- A sampled marker: kind 0 DISPATCH, 1 FREE, 2 COMBINE (Table 6-3). -/
structure Mark where
  kind : Nat
  member : Nat
  x : Nat
  round : Nat
  last : Bool
deriving DecidableEq, Repr

/-- A selection of one position of a half: experts and gates by rank (R191, R192). -/
structure Choice where
  experts : List Nat
  gates : List Word32
deriving DecidableEq, Repr

/-- One decided exchange of a routing entry (R202, R203). -/
structure Decided where
  x : Nat
  entry : Nat
  half : Nat
  rounds : Nat
  wide : Bool
  n : List Nat
  /-- Rounds whose rows have been sent, whose RECV_GATE generation has completed, and whose expert runs are released. -/
  sent : Nat := 0
  gated : Nat := 0
  released : Nat := 0
  /-- The tick at which COMB_GATE falls due, 0 for none, and whether it has completed (R214). -/
  combineDue : Nat := 0
  combined : Bool := false
  /-- The tick in which the exchange was decided; round 0 is sent from the next one (R203). -/
  at_ : Nat := 0
deriving DecidableEq, Repr

/-- What the route sorter holds of one half of an entry: COUNT_e for every expert (R193). -/
structure Sorted where
  counts : List Nat := []
deriving DecidableEq, Repr

/-- The occupied rows of each tile of a receive region, with the format of its rows (R211). -/
structure RecvOcc where
  buf : Nat
  region : Nat
  fmt : Nat
  sch : Nat
  rows : List Nat
deriving DecidableEq, Repr

/-- A unit of input that a layer run has read from a buffer, with its base exponent (R97); again says that the run has been started
again and reads the retained unit. -/
structure Input where
  data : Bytes
  base : Int
  again : Bool := false
deriving DecidableEq, Repr

/-- The running step job of a pen (R184 to R189). -/
structure Step where
  released : Bool := false
  setupDone : Bool := false
  start : Nat := 0
  earliest : Nat := 0
  t0 : Nat := 0
  slots : Tab (Option SlotUse) := []
  /-- Requests placed, in slot order. -/
  placed : List Nat := []
  samples : Tab Sample := []
  clip : Tab Nat := []
  base : Tab Int := []
  troubles : Tab Nat := []
  /-- Layers widened in this step. -/
  widened : List Nat := []
  entriesWide : List Nat := []
  wideTrouble : List Nat := []
  summary : Tab Summary := []
  /-- The record under which each half's run of a layer was released, at key 2 layer + half: what its output stands in (R98, R215). -/
  runRecs : Tab (Option LRec) := []
  /-- The complete summary of each layer's latest run (R95). -/
  done : Tab Summary := []
  /-- Completed generations per barrier (R128). -/
  barGen : Tab Nat := []
  /-- Selections of the route sorter, per 2^17 entry + 2^16 half + position. -/
  choices : Tab (Option Choice) := []
  selected : List Nat := []
  /-- SELECT_BUF's counts of each half whose selection is complete, at key 2 entry + half (R193). -/
  sorted : Tab Sorted := []
  decided : List Decided := []
  /-- Receive regions whose gate has completed, the latest of each (R211). -/
  occ : List RecvOcc := []
  stepX : Bool := false
  cands : List Cand := []
  chosen : Tab (Option Selection) := []
  /-- KVP_PEN_EVICT, SINK, WINDOW, BUDGET in force (R331). -/
  evict : Nat := 0
  sink : Nat := 4
  window : Nat := 256
  budget : Nat := 2048
  /-- The slower-tier replica chosen per SHARDS entry, plus one (R241). -/
  replicas : Tab Nat := []
  slowDone : Tab (Option Bytes) := []
  /-- Peer entries of the replica table that the set-up uses and that are still to be checked again (R240). -/
  unchecked : List Nat := []
  /-- KV positions accepted are found at retirement; pages pinned are released then (R327). -/
  pins : List Nat := []
  /-- The tails of the placed requests as the step found them (R189). -/
  tails : List (Nat × Tab Nat) := []
  /-- Page masses received in the step, at key 2^17 entry + page (R143, R330). -/
  masses : Tab Nat := []
  /-- The input of the layer runs whose decision is pending, as staging SRAM retains it (R97), at the key of inputKey. -/
  inputs : Tab (Option Input) := []
  /-- E2M1 V blocks quantised in the step, at the key of blockKey (R319, R320). -/
  quantised : Tab Bool := []
deriving DecidableEq, Repr

/-- An NV slot: header fields of Table 7-1, payload and block check table (R220). -/
structure Slot where
  shard : Nat := 0
  length : Nat := 0
  st : Nat := 0
  origin : Nat := 0
  claim : Nat := 0
  cycles : Nat := 0
  digest : Bytes := []
  authId : Nat := 0
  payload : Bytes := []
  crcs : List Nat := []
  /-- The check bytes of each 64-byte line of the payload (R221). -/
  checks : List Word64 := []
deriving DecidableEq, Repr

/-- An imprint taken and not completed (R226). -/
structure Imprint where
  ctx : Nat
  slot : Nat
  tag : Nat
  irq : Bool
  sqIndex : Nat
  /-- The number of its descriptor among those taken (Desc.num). -/
  num : Nat := 0
  addr : Nat
  authId : Nat
  /-- Taken under the present authorisation, so a refusal gives its count back (R226). -/
  counted : Bool
deriving DecidableEq, Repr

/-- A repair in progress (R245). -/
structure Repair where
  slot : Nat
  replica : Nat
  tries : Nat
deriving DecidableEq, Repr

/-- A block fetch for an uncorrectable line (R244). -/
structure BlockFetch where
  slot : Nat
  off : Nat
  replica : Nat
deriving DecidableEq, Repr

/-- The imprint authorisation (R224). -/
structure ImprintAuth where
  id : Nat
  ctx : Nat
  left : Nat
  expiry : Nat
deriving DecidableEq, Repr

/-- A replica table entry (Table 7-4). -/
structure Replica where
  shard : Nat := 0
  length : Nat := 0
  kind : Nat := 0
  /-- The last nonzero KIND, which places an entry tried under it in the order of preference (R241). -/
  was : Nat := 0
  st : Nat := 0
  chip : Nat := 0
  slot : Nat := 0
  hostAddr : Nat := 0
  digest : Bytes := []
  /-- A registration check is waiting or running (R240). -/
  checking : Bool := false
deriving DecidableEq, Repr

/-- The weight store and the Sled engines (Tables 7-6 and 7-8). -/
structure Nvw where
  slots : Tab Slot := []
  imprints : List Imprint := []
  auth : Option ImprintAuth := none
  verifyBusy : Bool := false
  verifyDoneLogged : Bool := false
  repairs : List Repair := []
  fetches : List BlockFetch := []
  eccCorr : Tab Nat := []
  /-- One more than the tick of each stack's last NV_CORRECTED record (R251). -/
  corrLogAt : Tab Nat := []
  /-- Ticks of each stack's uncorrectable lines in the last 10,000 (R246). -/
  badLines : Tab (List Nat) := []
  /-- BAD slots whose repair has stopped, and slots whose block every usable replica has failed to give (R245, R246). -/
  stopped : List Nat := []
  dry : List Nat := []
  /-- WRITING slots of which the check at the end of the write has met an uncorrectable line (R226, R244). -/
  spoiled : List Nat := []
  eccUncorr : Tab Nat := []
  retryOk : Nat := 0
  sledCtrl : Nat := 0x30240
  replicas : Tab Replica := []
  /-- The tick at which a peer entry that could not be reached is checked again (R240). -/
  recheckAt : Tab Nat := []
  hashFail : Nat := 0
  bytes : Tab Nat := []
  slowBytes : Nat := 0
  remoteBytes : Nat := 0
deriving DecidableEq, Repr

/-- The loader (Table 5-13; R168, R172). -/
structure Ldr where
  addr : Nat := 0
  bytes : Nat := 0
  op : Nat := 0
  pen : Nat := 0
  result : Nat := 0
  badOp : Bool := false
  lost : Bool := false
  st : Nat := 0
  failCheck : Nat := 0
  failSection : Nat := 0
  failIndex : Nat := 0
  failOffset : Nat := 0
  bindCount : Nat := 0
  refuseCount : Nat := 0
  /-- Peer entries checked again for the running BIND, and those whose header is being read (R240). -/
  rechecked : List Nat := []
  asked : List Nat := []
  /-- SLOWER shards of FILL chains: the replica plus one that each is fetched from, and what arrived (R242). -/
  fillFrom : Tab Nat := []
  fills : Tab (Option Bytes) := []
deriving DecidableEq, Repr

end Sys2Proof.Machine
end

