-- ==== Sys2Proof/Machine/TypesB.lean ====
section
/-! DEFINITION. Parts of the state: KV pools and copies, pens, contexts with their rings, and requests. -/

namespace Sys2Proof.Machine

/-- Where one part of a logical page lies (R317, R321, R335): never allocated, ABSENT, a DRAM frame of the pen's pool, or
a KiB offset of the context's host region. -/
inductive Part where
  | unheld
  | absent
  | frame (n : Nat)
  | host (off : Nat)
deriving DecidableEq, Repr

/-- One frame of a pool (R317, R324): in use until freed at a boundary; retired after an uncorrectable line (R435). -/
structure Frame where
  busy : Bool := false
  refs : Nat := 0
  pins : Nat := 0
  bad : Bool := false
  blocks : Nat := 0
  data : Tab Byte := []
deriving DecidableEq, Repr

/-- Why a host copy runs: 0 pause, 1 swap-out, 2 context swap-out; 3 resume, 4 return, 5 context swap-in, 6 shared
prefix (R328, R335 to R341). Parts still to move are keys of the request's page list. -/
structure Copy where
  entry : Nat
  why : Nat
  keys : List Nat
deriving DecidableEq, Repr

/-- A pen's page pool and its KVP_ registers (R323 to R343; Table 10-5). -/
structure Pool where
  evict : Nat := 0
  sink : Nat := 4
  window : Nat := 256
  budget : Nat := 2048
  headroom : Nat := 0
  frameBytes : Nat := 0
  groups : Nat := 0
  frames : Nat := 0
  /-- The usable stacks the frames were spread over at bind: frame f lies on the f mod n-th (log entry 13). -/
  onStacks : List Nat := []
  /-- Stacks of those that have failed since: their frames are never free (R435). -/
  lost : List Nat := []
  reserved : Nat := 0
  tab : Tab Frame := []
  copies : List Copy := []
  cowCopies : List (Nat × Nat) := []
  cow : Nat := 0
  evicted : Nat := 0
  preempt : Nat := 0
  ctxSwaps : Nat := 0
  convSat : Nat := 0
  starvedAt : Option Nat := none
  swap : Option (Nat × Bool) := none
deriving DecidableEq, Repr

/-- A pen (Table 5-16; R173 to R189). -/
structure Pen where
  enable : Bool := false
  compat : Bool := false
  arrays : Nat := 0
  stageMib : Nat := 0
  dramMib : Nat := 0
  nvShards : Nat := 0
  groupSize : Nat := 1
  fallback : Nat := 0
  group : Tab Nat := []
  budgetRefused : Bool := false
  st : Nat := 0
  image : Option Image := none
  /-- Class of each SHARDS entry: 0 LOCAL, 1 SLOWER (R159). -/
  cls : List Nat := []
  stepCount : Nat := 0
  pred : Nat := 0
  folds : Nat := 0
  /-- Array plus one of each segment, and quadrant plus one of each affinity group (R178). -/
  place : Tab Nat := []
  quad : Tab Nat := []
  replace : Bool := false
  /-- One more than the tick of the latest pen reset (R431). -/
  resetAt : Nat := 0
  /-- B of R182: the lowest effective rate among the placed arrays, in beats per 10,000 ticks (R412; log entry 15). -/
  beat : Nat := 1400000
  /-- The contexts whose requests fed positions in the most recent step, with the positions they fed (R407). -/
  props : List (Nat × Nat) := []
  /-- GLB_EPOCH when the fence began (R385). -/
  fenceEpoch : Nat := 0
  bufs : Tab Buf := []
  /-- DRAM stacks that hold a buffer of the pen (R180). -/
  bufStacks : List Nat := []
  /-- The staging quadrant plus one of each staging-class buffer (R180). -/
  staged : Tab Nat := []
  step : Option Step := none
  /-- Slots of a step that a fault ended, to run again (R189). -/
  rerun : Tab (Option SlotUse) := []
  stepEnd : Nat := 0
  fenced : Bool := false
  /-- Step jobs of the group since the pen became ACTIVE under the epoch (R196). -/
  groupStep : Nat := 0
  records : List CountRec := []
  marks : List Mark := []
  /-- Steps started since the pen last became ACTIVE, with the epoch of that count. -/
  countEpoch : Nat := 0
  /-- Slot words by group slot, as the Fetch space holds them (R304, R366). -/
  slotWords : Tab Nat := []
  /-- Bytes that each Sled engine has delivered to the pen's steps since they last went into SLED_BYTES (Table 7-8). -/
  sledBytes : Tab Nat := []
  replayLogAt : Option Nat := none
  spillLogAt : Option Nat := none
  pool : Pool := {}
deriving DecidableEq, Repr

/-- A descriptor taken and not yet answered with its DESC record, or a mailbox command (R264, R302). -/
structure Desc where
  type : Nat := 0
  index : Nat := 0
  tag : Nat := 0
  irq : Bool := false
  /-- Mailbox core plus one for a mailbox command; 0 = the submission ring. -/
  core : Nat := 0
  raw : Bytes := []
  /-- Evaluated; only its completion is outstanding. -/
  begun : Bool := false
  handle : Nat := 0
  /-- Its place in the order in which the descriptors of its context were taken: the model's name for it (R273, R287). -/
  num : Nat := 0
  /-- Held for a request that it ends at once: it is answered directly after the END record (R287). -/
  front : Bool := false
  /-- FENCE: descriptors and requests it waits for (Table 8-9). ROLLCALL: the snapshot (R281). -/
  fenceReqs : List Nat := []
  snap : Bytes := []
  snapIndex : Nat := 0
deriving DecidableEq, Repr

/-- Interrupt moderation of one ring (R279). -/
structure Moder where
  unsig : Nat := 0
  oldest : Nat := 0
  due : Bool := false
  /-- TIME's passing has been sampled in this tick; the boundary judges it (R279). -/
  timed : Bool := false
deriving DecidableEq, Repr

/-- A context (Tables 8-2 and 8-3; R256 to R283) with its REQ_, FETCH_ and KVP_ registers. -/
structure Ctx where
  enable : Bool := false
  pen : Nat := 0
  fn : Nat := 0
  eqLost : Bool := false
  dbInvalid : Bool := false
  enableErr : Nat := 0
  cqStall : Bool := false
  resident : Bool := false
  st : Nat := 0
  gen : Nat := 1
  sqBase : Nat := 0
  cqBase : Nat := 0
  eqBase : Nat := 0
  sqLog : Nat := 6
  cqLog : Nat := 6
  eqLog : Nat := 6
  sqHead : Nat := 0
  sqTail : Nat := 0
  cqHead : Nat := 0
  cqTail : Nat := 0
  cqPhase : Bool := true
  eqHead : Nat := 0
  eqTail : Nat := 0
  eqPhase : Bool := true
  cqUsed : Nat := 0
  eqUsed : Nat := 0
  irq : Nat := 0
  modCount : Nat := 1
  modTime : Nat := 0
  faultStatus : Nat := 0
  faultCode : Nat := 0
  eqDropped : Nat := 0
  taken : Nat := 0
  records : Nat := 0
  /-- The read in flight: first index and count (R264). -/
  reading : Option (Nat × Nat) := none
  fetched : List (Nat × Bytes) := []
  live : List Desc := []
  /-- Descriptors taken so far, which numbers them (Desc.num). -/
  descNum : Nat := 0
  /-- The first number of a mailbox command of the present binding: records of earlier ones are dropped (R418). -/
  mailFrom : Nat := 0
  reserved : Nat := 0
  modC : Moder := {}
  modE : Moder := {}
  rollBusy : Bool := false
  fencePending : Bool := false
  faults : List Bytes := []
  sampling : Tab Sample := []
  stops : Tab Nat := []
  policy : Nat := 0
  quota : Nat := 4096
  turnTtl : Nat := 0
  hostAddr : Nat := 0
  hostMib : Nat := 0
  /-- KiB offset to KiB size of each frame held in the host region (R334). -/
  hostMap : Tab Nat := []
  blockedSince : Nat := 0
  nonResidentAt : Nat := 0
  /-- One more than the start of the latest step job that placed one of its requests, 0 for none (R340). -/
  placedAt : Nat := 0
  stallLogAt : Option Nat := none
  deniedLogAt : Option Nat := none
  /-- The reset under way waits for the pen's in-flight step (R280). -/
  resetWait : Bool := false
deriving DecidableEq, Repr

/-- A token read of an ADMIT or an APPEND that runs or waits, or an APPEND read and held (R290, R300). -/
structure TokRead where
  desc : Desc
  count : Nat
  maxNew : Nat
  addr : Nat
  issued : Bool := false
  data : Option (List Word32) := none
deriving DecidableEq, Repr

/-- A request-table entry (Table 9-1) with what the control path keeps beside it (R284 to R309; R321 to R341). -/
structure Req where
  st : Nat := 0
  gen : Nat := 0
  ctx : Nat := 0
  pen : Nat := 0
  late : Bool := false
  fellBack : Bool := false
  hound : Bool := false
  pausePending : Bool := false
  priority : Nat := 0
  spec : Nat := 0
  sampling : Nat := 0
  hist : List Nat := []
  limit : Nat := 0
  kvDone : Nat := 0
  delivered : Nat := 0
  nextDl : Nat := 0
  ttlExp : Nat := 0
  tag : Nat := 0
  steps : Nat := 0
  endStatus : Nat := 0
  drafts : List Nat := []
  /-- The state a PAUSE or a swap left, and whether a held policy or PAUSE acts at retirement (R294, R301). -/
  prev : Nat := 2
  heldPolicy : Bool := false
  seed : Nat := 0
  prefixH : Nat := 0
  prefixTokens : Nat := 0
  firstDl : Nat := 0
  interval : Nat := 0
  promptTokens : Nat := 0
  maxNew : Nat := 0
  takenAt : Nat := 0
  admitDesc : Desc := {}
  promptRead : Bool := false
  appends : List TokRead := []
  held : List Desc := []
  /-- RESUME waiting for its pages, and the TTL of a held PAUSE. -/
  resumeD : Option Desc := none
  pauseTtl : Nat := 0
  inStep : Bool := false
  reserved : Nat := 0
  endSlot : Bool := false
  tokSlot : Bool := false
  parts : Tab Part := []
  /-- Parts of its page list that copy-on-write has made the request's own (R329). -/
  own : Tab Bool := []
  scores : Tab Nat := []
  tail : Tab Nat := []
  blocks : Tab Nat := []
  kennelFull : Bool := false
  /-- The pages of a SWAPPED request are all back in DRAM: it leaves SWAPPED in P5 (Table 9-3, R339). -/
  back : Bool := false
  /-- The turn ended in this tick (R298). -/
  turnEnded : Bool := false
deriving DecidableEq, Repr

/-- REQ_ and FETCH_ state of the package (Tables 9-9 and 9-10). -/
structure ReqGlob where
  timeAdmit : Bool := true
  prefillSlots : Nat := 16
  admitHold : Nat := 10000
  admitted : Nat := 0
  deniedMem : Nat := 0
  deniedTime : Nat := 0
  late : Nat := 0
  fellBack : Nat := 0
  aborted : Nat := 0
  proposed : Nat := 0
  accepted : Nat := 0
  /-- Requests that reached DONE in this tick, in order (R287). -/
  doneQ : List Nat := []
  selected : Nat := 0
  degenerate : Nat := 0
  latMax : Nat := 0
  overrun : Nat := 0
  degenLogAt : Option Nat := none
deriving DecidableEq, Repr

/-- Global KVP_ registers (Table 10-4). -/
structure KvpGlob where
  hostRate : Nat := 32
  blockTicks : Nat := 10000
  hostOut : Nat := 0
  hostIn : Nat := 0
deriving DecidableEq, Repr

end Sys2Proof.Machine
end

