-- ==== Sys2Proof/Machine/TypesC.lean ====
section
/-! DEFINITION. Parts of the state: the Pack fabric, the Leash, the Hound cores, management, I3C and optical lanes. -/

namespace Sys2Proof.Machine

/-- A decoded packet header (Table 11-12). -/
structure Hdr where
  type : Nat := 0
  flag : Bool := false
  fetch : Bool := false
  reinj : Bool := false
  size : Nat := 0
  atop : Nat := 0
  signed : Bool := false
  hops : Nat := 31
  level : Nat := 0
  status : Nat := 0
  dst : Nat := 0
  src : Nat := 0
  srcId : Nat := 0
  tag : Nat := 0
  runLen : Nat := 0
  runIdx : Nat := 0
  seq : Nat := 0
  addr : Nat := 0
  epoch : Nat := 0
deriving DecidableEq, Repr

/-- A packet: its header and its payload (R367). -/
structure Pkt where
  h : Hdr := {}
  data : Bytes := []
deriving DecidableEq, Repr

/-- The mechanism that issued a transaction (R377): firmware, the PF probe, a liveness load, a fabric command of a binding by its
number, or the combining proxy. -/
inductive Issuer where
  | firmware
  | probe
  | liveness
  | hound (ctx index : Nat)
  | proxy
deriving DecidableEq, Repr

/-- A transaction outstanding (R369, R377). -/
structure Txn where
  pkt : Pkt
  by_ : Issuer
  at_ : Nat
  cacheable : Bool := false
deriving DecidableEq, Repr

/-- A request that waits at issue: behind the flag rule or the limit of 8,192 (R369, R371). -/
structure Waiter where
  pkts : List Pkt
  by_ : Issuer
  cacheable : Bool := false
deriving DecidableEq, Repr

/-- What a destination keeps per source chip (R369): the lowest SEQ not yet applied, the applied ones above it, and the answers
other than a plain OK by SEQ, as status and old value. -/
structure SrcSeq where
  low : Nat := 1
  above : Tab Bool := []
  answers : Tab (Option (Nat × Bytes)) := []
deriving DecidableEq, Repr

/-- A combined request of this router, by the tag of its own transaction, and the requests it absorbed (R380). -/
structure Combined where
  tag : Nat
  absorbed : List Pkt
deriving DecidableEq, Repr

/-- A fence of a SRC_ID with the number of its fabric command: the highest SEQ issued before it, per destination, and whether a
store it waits on timed out (R372). -/
structure FabFence where
  srcId : Nat
  index : Nat := 0
  marks : List (Nat × Nat)
  timedOut : Bool := false
deriving DecidableEq, Repr

/-- A chip entry of the plan (Table 11-6). -/
structure PlanChip where
  chip : Nat
  up : Nat
  hasUp : Bool
  rack : Nat
  masterRack : Bool
deriving DecidableEq, Repr

/-- A link entry of the plan (Table 11-7). -/
structure PlanLink where
  a : Nat
  pa : Nat
  b : Nat
  pb : Nat
  rs544 : Bool
  dlAB : Bool
  dlBA : Bool
  metres : Nat
deriving DecidableEq, Repr

/-- A cabling plan with this package's chip number, digest and route table (R356 to R358). -/
structure Plan where
  chip : Nat := 0
  master : Nat := 0
  chips : List PlanChip := []
  links : List PlanLink := []
  digest : Bytes := []
  routes : Tab Nat := []
deriving DecidableEq, Repr

/-- A connector inspection of a port (R464 to R466). Phase 1 ports started it; a peer runs phase 2. -/
structure Insp where
  starter : Bool
  xseq : Nat
  /-- Levels of its own sequence launched so far, 0 to 4, and when the last one began. -/
  level : Nat
  since : Nat
  started : Nat
  /-- The state the port left, and who asked (path, manager, message number). -/
  asked : Option (Path × Nat × Nat)
  /-- The peer's sequence has been recorded. -/
  recorded : Bool := false
deriving DecidableEq, Repr

/-- A data or control flit sent and not acknowledged: its number, its KIND and VC, its payload, how often it has been sent again, and
the packet whose last flit it is (R348, R349, R374). -/
structure SentFlit where
  fseq : Nat
  kind : Nat
  vc : Nat := 0
  payload : Bytes
  tries : Nat := 0
  pkt : Option Bytes := none
deriving DecidableEq, Repr

/-- A port (Tables 11-16 and 11-17; R347 to R359). -/
structure Port where
  st : Nat := 1
  enable : Bool := true
  holdReason : Nat := 0
  versionSticky : Bool := false
  miscabledSticky : Bool := false
  downSticky : Bool := false
  fecLockFail : Bool := false
  agreedMinor : Nat := 0
  rs544 : Bool := false
  peerValid : Bool := false
  peerChip : Nat := 0
  peerPort : Nat := 0
  peerMinor : Nat := 0
  peerMajor : Nat := 0
  peerBuild : Nat := 0
  fecCorr : Nat := 0
  fecUncorr : Nat := 0
  replays : Nat := 0
  txFlits : Nat := 0
  rxFlits : Nat := 0
  trains : Nat := 0
  /-- Bring-up phase (Table 11-3), the tick it began in, and retrains in a row that failed in the FEC phase. -/
  phase : Nat := 1
  phaseAt : Nat := 0
  fecFails : Nat := 0
  /-- The held state to keep through a retrain, 0 for none, and the last collar record received (R355). -/
  held : Nat := 0
  collar : Option Bytes := none
  /-- Next FSEQ expected, and discarding after a failed flit (R349). -/
  rxNext : Nat := 0
  rxBad : Bool := false
  /-- Next FSEQ to send, the flits sent and not acknowledged at link level, at most 1,024, and the tick in which ACK last advanced or
  the oldest of them was sent (R349, R350). -/
  txNext : Nat := 0
  sent : List SentFlit := []
  ackAt : Nat := 0
  /-- Control records that wait for room among the 1,024. -/
  controls : List Bytes := []
  /-- Credits used per VC, packets that wait for credit, flits sent of the first of them per VC, words received per VC that form no
  whole packet yet, and credits to return to the peer per VC (R351). -/
  credUsed : Tab Nat := []
  waiting : List Bytes := []
  begun : Tab Nat := []
  rxWords : Tab (List Bytes) := []
  credOwed : Tab Nat := []
  /-- Flits of the present codeword received so far in RS544 mode, and whether it was uncorrectable (R347). -/
  cwPos : Nat := 0
  cwLost : Bool := false
  /-- Codewords received since training began, the last uncorrectable one, and whether two stood within 10,000 (R350). -/
  cwCount : Nat := 0
  cwBad : Option Nat := none
  fecDown : Bool := false
  insp : Option Insp := none
  xseq : Nat := 0
deriving DecidableEq, Repr

/-- An optical lane (Table 15-4; R463). -/
structure Lane where
  rx : Nat := 0
  tx : Nat := 0
  bias : Nat := 0
  los : Bool := true
  lowRx : Bool := false
  txFault : Bool := false
  bitErrors : Nat := 0
  bits : Nat := 0
  accErrors : Nat := 0
  accBits : Nat := 0
  total : Nat := 0
  hist : Tab Nat := []
  inspRx : Tab Nat := []
  inspTx : Tab Nat := []
deriving DecidableEq, Repr

/-- A piece of a store run held in the run buffer (R371): the packet, what check 3 of R368 says of its header, and the port it came by, 16
for this package itself. -/
structure RunPiece where
  pkt : Pkt
  bar : Option Nat
  port : Nat := 16
deriving DecidableEq, Repr

/-- A store or an atomic in the queue of its line at the destination (R379): the port it came by, the packet, what check 3 of R368 says of
its header, the requests combined into it, and the headers of copies to answer again (R369, R380). -/
structure LineReq where
  port : Nat
  pkt : Pkt
  bar : Option Nat
  absorbed : List Pkt := []
  again : List Hdr := []
deriving DecidableEq, Repr

/-- The Pack fabric (Table 11-15). -/
structure Fab where
  plan : Option Plan := none
  planNext : Option Plan := none
  ports : Tab Port := []
  lanes : Tab Lane := []
  laneRoll : Nat := 0
  combineEn : Bool := true
  loadTimeout : Nat := 200
  txns : List Txn := []
  nextTag : Nat := 0
  waiters : List Waiter := []
  /-- The last SEQ assigned per destination. -/
  seqLast : Tab Nat := []
  srcs : Tab SrcSeq := []
  runs : List RunPiece := []
  /-- Pieces that found the 4 MiB run buffer full, oldest first (R371). -/
  runWait : List RunPiece := []
  /-- Requests applied in this tick per line, and requests that wait for their line, oldest first (R379). -/
  lineUsed : Tab Nat := []
  lineQueue : List LineReq := []
  fences : List FabFence := []
  combined : List Combined := []
  /-- Remote-read cache lines, most recently used first: address / 64 and bytes (R375). -/
  rrc : List (Nat × Bytes) := []
  staleRx : Nat := 0
  dupDrop : Nat := 0
  combinedCount : Nat := 0
  reinjected : Nat := 0
  loadTimeouts : Nat := 0
  storeTimeouts : Nat := 0
  unreachable : Nat := 0
  e2eCrc : Nat := 0
  hopDrop : Nat := 0
  probeAddr : Nat := 0
  probeSt : Nat := 0
  probeStatus : Nat := 0
  probeData : Bytes := []
  /-- The last fault that a store or an atomic raised to the firmware: the address and the status (R376, R377). -/
  fwFault : Option (Nat × Nat) := none
  /-- What the firmware's loads of peers brought that no fetch has taken yet, by address: bytes, or none for a fault (R375 to R377). -/
  fwReads : List (Nat × Option Bytes) := []
  /-- The port by which a request under way through this package came, by its SRC and TAG, plus 1 (R378). -/
  cameBy : Tab Nat := []
  rrcInvalAddr : Nat := 0
  rrcInvalBytes : Nat := 0
  /-- The tick after the last packet accepted from each chip with this package's epoch (R383). -/
  heard : Tab Nat := []
  loadLogAt : Tab Nat := []
  storeLogAt : Tab Nat := []
  staleLogAt : Tab Nat := []
  e2eLogAt : Option Nat := none
deriving DecidableEq, Repr

/-- A cap command (R394): kind 0 SOFT, 1 HARD, 2 RELEASE. -/
structure CapCmd where
  watts : Nat
  kind : Nat
  ramp : Nat
  tick : Nat
  /-- Sampled in this tick's P5, so a HARD command acts in the next tick (R395). -/
  sampled : Nat
deriving DecidableEq, Repr

/-- A hint (R404, R405). -/
structure Hint where
  ctx : Nat
  pen : Nat
  watts : Nat
  start : Nat
  stop : Nat
  clipped : Bool := false
deriving DecidableEq, Repr

/-- One tick of measurement history: powers in mW and the real beats per pen. -/
structure PowerTick where
  power : Nat
  arrayPower : Nat
  /-- The budget B of the tick, in 0.1 mW (R393). -/
  budget : Nat := 0
  beats : List (Nat × Nat)
deriving DecidableEq, Repr

/-- Rates of an array in M beats/s, its Tj, its SLOW flag and the slow intervals in a row (R411). -/
structure ArrRate where
  eff : Nat := 0
  ungated : Nat := 0
  tj : Nat := 0
  slow : Bool := false
  bad : Nat := 0
  /-- Beats of the last ten intervals, newest last (R182). -/
  recent : List Nat := []
deriving DecidableEq, Repr

/-- Soft start and soft stop of an array (R402): ticks left of the 8 without real work (8 while it works, 0 once they have passed), the
ramp under way (0 none, 1 soft start, 2 soft stop), its ticks so far, and what it starts from: a duty in 64ths, or a current in mA. -/
structure SoftRamp where
  recent : Nat := 0
  mode : Nat := 0
  done : Nat := 0
  from_ : Nat := 0
deriving DecidableEq, Repr

/-- The Leash (Tables 12-1 to 12-6). Budget, floor and history are in 0.1 mW; energies in 2^-16 µJ. -/
structure Lsh where
  throttle : Nat := 105
  trotPct : Nat := 70
  softStart : Nat := 16
  hintEn : Bool := true
  ramp : Nat := 400
  soft : Nat := 3800
  hard : Option Nat := none
  local_ : Nat := 4200
  emergCap : Nat := 2000
  varrMax : Nat := 900
  varrLead : Nat := 1000
  nextVal : Nat := 0
  nextTick : Nat := 0
  pending : Option CapCmd := none
  budget : Nat := 0
  floor_ : Nat := 0
  power : Nat := 0
  hist : List PowerTick := []
  floorShort : Bool := false
  /-- When the last step job retired with no set-up following; trot stays active for 10,000 ticks (R400). -/
  trotUntil : Nat := 0
  /-- The tick of the latest condition of a power emergency, and of the latest reading above a thermal emergency's end. -/
  powerEm : Option Nat := none
  thermalEm : Option Nat := none
  throttling : Tab Bool := []
  /-- When each throttling quadrant began or last took a step, and the gating of its hot arrays in 64ths (R409). -/
  throttleAt : Tab Nat := []
  cut : Tab Nat := []
  refusedSticky : Bool := false
  lateSticky : Bool := false
  emergSticky : Bool := false
  throttleSticky : Bool := false
  hardSticky : Bool := false
  slewSticky : Bool := false
  hardCaps : Nat := 0
  slewCount : Nat := 0
  tjMax : Nat := 0
  tjArray : Nat := 0
  varr : Tab Nat := []
  duty : Tab Nat := []
  /-- The tick of the latest step of each quadrant's VARR, plus one (Table 12-2). -/
  varrAt : Tab Nat := []
  /-- The trot load of each array in mW (R401). -/
  trot : Tab Nat := []
  soft_ : Tab SoftRamp := []
  /-- VIN6 current of the last two ticks, in mA (R403). -/
  amps : Nat := 0
  ampsBefore : Nat := 0
  hints : List Hint := []
  /-- The contexts and WATTS of the hints that hold H above PCT × A in the present tick (R407). -/
  hintBill : List (Nat × Nat) := []
  total : Nat := 0
  unattr : Nat := 0
  penEnergy : Tab Nat := []
  penNoctx : Tab Nat := []
  ctxEnergy : Tab Nat := []
  beats : Tab Nat := []
  rates : Tab ArrRate := []
  /-- When the present interval of R411 began, and the beat counters then. -/
  rateAt : Nat := 0
  beatsAt : Tab Nat := []
  /-- Of the interval so far: its ticks, the sums of each quadrant's VARR in mV and of its gating duty in 64ths, and by how much the duty of
  an array differed from that (R411). -/
  rateTicks : Nat := 0
  varrSum : Tab Nat := []
  dutySum : Tab Nat := []
  dutyOff : Tab Int := []
  /-- A die that reached 120 °C, for the record at the next power-up (R410). -/
  tripDie : Option Nat := none
  /-- When the present hard or emergency target took effect. -/
  hardAt : Nat := 0
deriving DecidableEq, Repr

/-- A manager command that waits for its named tick (R456). -/
structure PendCmd where
  path : Path
  mgr : Nat
  op : Nat
  seq : Nat
  term : Nat
  tick : Nat
  body : Bytes
deriving DecidableEq, Repr

/-- Management state (Table 15-3; R451 to R462). -/
structure Mgt where
  epoch : Nat := 0
  lease : Bool := false
  stale : Bool := true
  holder : Nat := 0
  term : Nat := 0
  expiry : Nat := 0
  seqHw : Tab Nat := []
  mac : Tab Nat := []
  /-- Words of the two keys, manager m's word i at key 8 m + i, and bit 8 m + i of words written (R462). -/
  keys : Tab Nat := []
  keyMask : Nat := 0
  linkUp : Bool := false
  fec : Nat := 0
  rxOk : Nat := 0
  rxAuthFail : Nat := 0
  rxRefused : Nat := 0
  lastRefused : Nat := 0
  authLogAt : Option Nat := none
  pending : List PendCmd := []
  staging : Tab Byte := []
deriving DecidableEq, Repr

/-- The I3C target (R453): dynamic address, maximum read length, in-band interrupts enabled, and replies not yet read. -/
structure I3c where
  addr : Option Nat := none
  mrl : Nat := 1072
  ibi : Bool := true
  replies : List Bytes := []
deriving DecidableEq, Repr

/-- A record ring in program memory: base, log2 of its entries, indices, PHASE, and records not consumed (R421). -/
structure HRing where
  base : Nat := 0
  log2 : Nat := 6
  head : Nat := 0
  tail : Nat := 0
  phase : Bool := true
  used : Nat := 0
  reserved : Nat := 0
deriving DecidableEq, Repr

/-- The registers of a Hound core, as the package last set or saw them (R415, R417, R418): x0 to x31 at keys 0 to 31, f0 to f31 from 32,
v0 to v31 from 64, the program counter at key 96 and CSR n at key 4096 + n. The program's own instructions change them unseen: a register
not listed reads as a free value of the period gen, and as 0 in period 0, which a core that no program has used is in (log entry 23). -/
structure Hart where
  index : Nat := 0
  regs : Tab (Option Nat) := []
  gen : Nat := 0
  /-- What its loads since its last event returned, without those of the host window. -/
  loaded : List Bytes := []
deriving DecidableEq, Repr

/-- A Hound core as a hart of a binding, with its mailbox (Table 13-4; R422 to R428). -/
structure HCore where
  exited : Bool := false
  waiting : Bool := false
  waitUntil : Nat := 0
  /-- Something WAIT waits for has been sampled (R428); the value WAIT returned last. -/
  woken : Bool := false
  waitResult : Nat := 0
  cmdBase : Nat := 0
  cmdLog : Nat := 6
  cmdHead : Nat := 0
  cmdTail : Nat := 0
  /-- One more than the tick of the latest fetch of commands (R264, R422). -/
  fetchAt : Nat := 0
  reply : HRing := {}
  live : List Desc := []
deriving DecidableEq, Repr

/-- A fabric command issued and not completed (R427): its number among the binding's commands, where it stands in program memory, and its
64 bytes as it was issued. -/
structure FqCmd where
  index : Nat
  at_ : Nat
  cmd : Bytes
deriving DecidableEq, Repr

/-- The binding of a context (Table 13-2; R416 to R429). -/
structure HBind where
  cores : Nat := 0
  peerEn : Bool := false
  peerMib : Nat := 0
  st : Nat := 0
  result : Nat := 0
  exitCode : Nat := 0
  tqStall : Bool := false
  faultSticky : Bool := false
  imageAddr : Nat := 0
  imageBytes : Nat := 0
  memMib : Nat := 0
  entry : Nat := 0
  hostAddr : Nat := 0
  hostMib : Nat := 0
  fault : Nat := 0
  faultPc : Nat := 0
  faultTval : Nat := 0
  pen : Nat := 0
  frames : List Nat := []
  mem : Tab Byte := []
  tq : HRing := { log2 := 8 }
  fqBase : Nat := 0
  fqLog : Nat := 6
  fqHead : Nat := 0
  fqTail : Nat := 0
  fq : List FqCmd := []
  /-- Fabric commands issued so far, which numbers them. -/
  fqNum : Nat := 0
  notify : Nat := 0
deriving DecidableEq, Repr

/-- The Hound cores and bindings. -/
structure Hnd where
  binds : Tab HBind := []
  cores : Tab HCore := []
  harts : Tab Hart := []
deriving DecidableEq, Repr

end Sys2Proof.Machine
end

