-- ==== Sys2Proof/Machine/State.lean ====
section
/-! DEFINITION. The state of the block: the package and the queue of waiting commands; the reasons a step can stop; the state
after reset. -/

namespace Sys2Proof.Machine

/-- Everything the manual gives the package. -/
structure Pkg where
  pins : Pins := {}
  tick : TickS := {}
  glb : Glb := {}
  scn : Scn := {}
  arrays : Tab Arr := []
  ldr : Ldr := {}
  pens : Tab Pen := []
  nvw : Nvw := {}
  ctxs : Tab Ctx := []
  numVfs : Nat := 0
  reqs : Tab Req := []
  /-- The last generation of every request-table entry (R270, R433). -/
  lastGen : Tab Nat := []
  rq : ReqGlob := {}
  kvp : KvpGlob := {}
  fab : Fab := {}
  lsh : Lsh := {}
  hnd : Hnd := {}
  mgt : Mgt := {}
  i3c : I3c := {}
  /-- What the package has sent, newest last (log entry 11). -/
  out : List Out := []
  /-- The counter that numbers free values (log entry 10). -/
  freeCtr : Nat := 0
  /-- The MSI-X pending bits: the vectors of each function whose message waits for its mask (R278). -/
  pba : Tab (List Nat) := []
deriving DecidableEq, Repr

/-- The block: the package, and the commands that wait, first in, first out. -/
structure State where
  pkg : Pkg := {}
  pending : List Instr := []
deriving DecidableEq, Repr

/-- No command of this block stops with a fault: the manual gives every one an effect. The type stays closed and has one
constructor that nothing raises (safe). -/
inductive Fault where
  /-- Raised by nothing; the manual names no event that stops the block (safe). -/
  | none
deriving DecidableEq, Repr

/-- Reasons to refuse a command. -/
inductive Refusal where
  /-- The command has no meaning in the model yet; raised by the dispatch alone (safe). -/
  | notModelled (mnemonic : String)
deriving DecidableEq, Repr

/-- The Scent log once the package has first been powered up: the power-cycle count is 1 before the record of the power-up, a
RESET_COLD (0x7312) of trigger 0, which takes SEQ 1 and slot 0 (R440, R442, R446, Table 14-8; log entry 6). -/
def firstLog : Scn :=
  { slots := [(0, { seq := 1, code := 0x7312, cycles := 1 })], nextSeq := 2, storedInTick := 1, seqLast := 1, newestSlot := 0
    powerCycles := 1 }

/-- The block right after reset: the package as its first power-up leaves it, with RESET_N and PERST# held low, and an empty queue
(R431, R472; log entries 5, 6, 7 and 9 name the values the manual gives per part or not at all). -/
def State.reset : State := { pkg := { scn := firstLog } }

end Sys2Proof.Machine
end

