-- ==== Sys2Proof/Machine/Flags.lean ====
section
/-! DEFINITION. The codes that flags, results and records carry: completion statuses (Table 8-15), Scent log codes with their
severities (Tables 14-7 and 15-5), request, pen and port states, and the record of a limited log code. -/

namespace Sys2Proof.Machine

/-- Completion statuses (Table 8-15). -/
abbrev stOk : Nat := 0x00
abbrev stOkCancelLate : Nat := 0x01
abbrev stCancelled : Nat := 0x02
abbrev stAdmitDeniedMem : Nat := 0x03
abbrev stAdmitDeniedTime : Nat := 0x04
abbrev stFellBack : Nat := 0x05
abbrev stAbortedDeadline : Nat := 0x06
abbrev stLengthInvalid : Nat := 0x07
abbrev stAlignmentInvalid : Nat := 0x08
abbrev stFormatInvalid : Nat := 0x09
abbrev stPenUnavailable : Nat := 0x0A
abbrev stLostMember : Nat := 0x0B
abbrev stGroupFenced : Nat := 0x0C
abbrev stRemoteTimeout : Nat := 0x0D
abbrev stShardDigestMismatch : Nat := 0x0E
abbrev stShardMissing : Nat := 0x0F
abbrev stEpochStale : Nat := 0x10
abbrev stTtlExpired : Nat := 0x11
abbrev stContextReset : Nat := 0x12
abbrev stPermission : Nat := 0x13
abbrev stVersionHeld : Nat := 0x14
abbrev stInternalFault : Nat := 0x1F

/-- PEN_STATUS.STATE (Table 5-17). -/
abbrev penDisabled : Nat := 0
abbrev penEmpty : Nat := 1
abbrev penBinding : Nat := 2
abbrev penBound : Nat := 3
abbrev penActive : Nat := 4
abbrev penUnavail : Nat := 5
abbrev penUnbinding : Nat := 6

/-- CTX_STATUS.STATE (Table 8-3). -/
abbrev ctxDisabled : Nat := 0
abbrev ctxActive : Nat := 1
abbrev ctxFaulted : Nat := 2
abbrev ctxResetting : Nat := 3

/-- Request states (Table 9-2). -/
abbrev rqFree : Nat := 0
abbrev rqAdmitting : Nat := 1
abbrev rqPrefill : Nat := 2
abbrev rqDecode : Nat := 3
abbrev rqPaused : Nat := 4
abbrev rqSwapped : Nat := 5
abbrev rqDraining : Nat := 6
abbrev rqDone : Nat := 7

/-- NV slot states (Table 7-2). -/
abbrev nvFree : Nat := 0
abbrev nvWriting : Nat := 1
abbrev nvUnverified : Nat := 2
abbrev nvVerified : Nat := 3
abbrev nvBad : Nat := 4
abbrev nvWorn : Nat := 5

/-- Scent log codes (Tables 14-7 and 15-5). -/
abbrev codeCapApplied : Nat := 0x1110
abbrev codeCapSlewLimited : Nat := 0x1111
abbrev codeHardCap : Nat := 0x1112
abbrev codePowerEmergency : Nat := 0x1113
abbrev codeCapLate : Nat := 0x1114
abbrev codeHintClipped : Nat := 0x1115
abbrev codeArrayQuarantined : Nat := 0x2110
abbrev codeArrayReturned : Nat := 0x2111
abbrev codeArraySelftestFail : Nat := 0x2112
abbrev codeArrayFailed : Nat := 0x2113
abbrev codeLayerReplay : Nat := 0x2210
abbrev codeLayerWidened : Nat := 0x2211
abbrev codeWideTrouble : Nat := 0x2212
abbrev codeNarrowOverride : Nat := 0x2213
abbrev codeSegmentFolded : Nat := 0x2220
abbrev codeArraySlow : Nat := 0x2230
abbrev codeDramCorrected : Nat := 0x3110
abbrev codeDramUncorrectable : Nat := 0x3111
abbrev codeDramStackFailed : Nat := 0x3112
abbrev codeNvCorrected : Nat := 0x3410
abbrev codeNvUncorrectable : Nat := 0x3411
abbrev codeNvVerifyFail : Nat := 0x3412
abbrev codeNvVerifyDone : Nat := 0x3413
abbrev codeNvRepaired : Nat := 0x3414
abbrev codeNvRepairFailed : Nat := 0x3415
abbrev codeSlotWorn : Nat := 0x3416
abbrev codeSlowerHashFail : Nat := 0x3417
abbrev codeSlowerSourceLost : Nat := 0x3418
abbrev codeKvStarved : Nat := 0x3510
abbrev codeKvPreempted : Nat := 0x3511
abbrev codeKvContextOut : Nat := 0x3512
abbrev codeKvContextIn : Nat := 0x3513
abbrev codeKvKennelFull : Nat := 0x3514
abbrev codeKvHostCopyFailed : Nat := 0x3515
abbrev codePortUp : Nat := 0x4110
abbrev codePortDown : Nat := 0x4111
abbrev codePortMiscabled : Nat := 0x4112
abbrev codePortVersionHeld : Nat := 0x4113
abbrev codePlanLoaded : Nat := 0x4114
abbrev codeLoadTimeout : Nat := 0x4210
abbrev codeStoreTimeout : Nat := 0x4211
abbrev codeEpochStaleRx : Nat := 0x4212
abbrev codeMemberUnreached : Nat := 0x4213
abbrev codeGroupFenced : Nat := 0x4214
abbrev codeGroupResumed : Nat := 0x4215
abbrev codeMemberLost : Nat := 0x4216
abbrev codeE2eCrc : Nat := 0x4217
abbrev codeExchangeWatchdog : Nat := 0x4311
abbrev codeImageBound : Nat := 0x5110
abbrev codeImageRefused : Nat := 0x5111
abbrev codeImageUnbound : Nat := 0x5112
abbrev codeBarAccessInvalid : Nat := 0x5120
abbrev codeBudgetRefused : Nat := 0x5121
abbrev codeWriteNotAllowed : Nat := 0x5122
abbrev codeKvpWriteIgnored : Nat := 0x5123
abbrev codeDoorbellInvalid : Nat := 0x5210
abbrev codeEventsLost : Nat := 0x5211
abbrev codePenState : Nat := 0x5212
abbrev codeEpochChanged : Nat := 0x5213
abbrev codeCqStall : Nat := 0x5214
abbrev codeRingWriteFailed : Nat := 0x5220
abbrev codeDescReadFailed : Nat := 0x5221
abbrev codeTokenReadFailed : Nat := 0x5222
abbrev codeContextResetDone : Nat := 0x5230
abbrev codeRollcallWritten : Nat := 0x5231
abbrev codeHostLinkDown : Nat := 0x5240
abbrev codeHoundFault : Nat := 0x5310
abbrev codeHoundExit : Nat := 0x5311
abbrev codeHoundBound : Nat := 0x5312
abbrev codeAdmitDenied : Nat := 0x6110
abbrev codeRequestLate : Nat := 0x6111
abbrev codeRequestFellBack : Nat := 0x6112
abbrev codeFallbackUnavailable : Nat := 0x6113
abbrev codeRequestAborted : Nat := 0x6114
abbrev codeTurnEnd : Nat := 0x6115
abbrev codePromptInvalid : Nat := 0x6116
abbrev codeFetchDegenerate : Nat := 0x6117
abbrev codeSpillRounds : Nat := 0x6310
abbrev codeExchangeWide : Nat := 0x6311
abbrev codeExchangeRecordInvalid : Nat := 0x6312
abbrev codeLeaseTaken : Nat := 0x7110
abbrev codeLeaseReleased : Nat := 0x7111
abbrev codeLeaseExpired : Nat := 0x7112
abbrev codeEpochSet : Nat := 0x7113
abbrev codeCountLoaded : Nat := 0x7114
abbrev codeMgmtAuthFail : Nat := 0x7115
abbrev codeMgmtRefused : Nat := 0x7116
abbrev codeReadmitted : Nat := 0x7117
abbrev codeImprintAuthorised : Nat := 0x7118
abbrev codeClearAuthorised : Nat := 0x7119
abbrev codeInspectionDone : Nat := 0x711A
abbrev codeTickSyncMiss : Nat := 0x7210
abbrev codeTickSyncPhaseErr : Nat := 0x7211
abbrev codeRefclkLost : Nat := 0x7212
abbrev codeRackAlignLost : Nat := 0x7213
abbrev codeLogCleared : Nat := 0x7310
abbrev codeLogPolicyChanged : Nat := 0x7311
abbrev codeResetCold : Nat := 0x7312
abbrev codeResetWarm : Nat := 0x7313
abbrev codePenReset : Nat := 0x7314
abbrev codeFwFault : Nat := 0x7315
abbrev codeShardImprinted : Nat := 0x7410
abbrev codeShardRetired : Nat := 0x7411
abbrev codeImprintRefused : Nat := 0x7412
abbrev codeThrottleStart : Nat := 0x8110
abbrev codeThrottleEnd : Nat := 0x8111
abbrev codeThermalEmergency : Nat := 0x8112
abbrev codeThermtrip : Nat := 0x8113

/-- The record codes of each severity (Tables 14-6, 14-7 and 15-5). -/
def fatalCodes : List Nat := [0x7315, 0x8113]
def criticalCodes : List Nat := [0x1113, 0x2113, 0x3112, 0x7212, 0x8112]
def alertCodes : List Nat := [0x1112, 0x2110, 0x3515, 0x4214, 0x4216, 0x5220, 0x5221, 0x5222, 0x5240]
def errorCodes : List Nat := [0x2112, 0x2230, 0x3111, 0x3411, 0x3412, 0x3415, 0x3417, 0x3418, 0x4112, 0x4113, 0x4213, 0x4311, 0x5310, 0x6113, 0x6312, 0x7112, 0x7213, 0x7314]
def warningCodes : List Nat :=
  [0x1111, 0x1114, 0x2212, 0x2220, 0x3416, 0x3510, 0x3514, 0x4111, 0x4210, 0x4211, 0x4212, 0x4217, 0x5111, 0x5120, 0x5121, 0x5122, 0x5123, 0x5210] ++
  [0x5211, 0x5214, 0x6111, 0x6112, 0x6114, 0x6116, 0x6117, 0x6311, 0x7115, 0x7116, 0x7210, 0x7211, 0x7313, 0x7412, 0x8110]
def noticeCodes : List Nat :=
  [0x1110, 0x2111, 0x2211, 0x2213, 0x3413, 0x3414, 0x3511, 0x3512, 0x3513, 0x4110, 0x4114, 0x4215, 0x5110, 0x5112, 0x5212, 0x5213, 0x5230, 0x5311] ++
  [0x6310, 0x7110, 0x7111, 0x7113, 0x7114, 0x7117, 0x7118, 0x7119, 0x7310, 0x7311, 0x7312, 0x7410, 0x7411, 0x8111]
def infoCodes : List Nat := [0x1115, 0x2210, 0x3110, 0x3410, 0x5231, 0x5312, 0x6110, 0x6115, 0x711A]

/-- Every code of the package: no other is ever written (R443). -/
def listedCodes : List Nat :=
  fatalCodes ++ criticalCodes ++ alertCodes ++ errorCodes ++ warningCodes ++ noticeCodes ++ infoCodes

/-- The severity of each code, 0 INFO to 6 FATAL (Table 14-6). -/
def severity (code : Nat) : Nat :=
  if code ∈ fatalCodes then 6
  else if code ∈ criticalCodes then 5
  else if code ∈ alertCodes then 4
  else if code ∈ errorCodes then 3
  else if code ∈ warningCodes then 2
  else if code ∈ noticeCodes then 1
  else 0

/-- A code recorded at most once in 10,000 ticks is recorded now (1 ms; R205, R313, R344). -/
def mayLog (last : Option Nat) (now : Nat) : Bool :=
  match last with
  | none => true
  | some t => decide (t + 10000 ≤ now)

end Sys2Proof.Machine
end

