-- ==== Sys2Proof/Machine/Ops.lean ====
section
/-! DEFINITION. Shared operations: reading and updating the parts of the package, the Scent log, interrupts, event and
completion records, pen states, and the settling of package interrupts. -/

namespace Sys2Proof.Machine

/-! ### Parts of the package -/

def penOf (p : Pkg) (n : Nat) : Pen := tget {} p.pens n
def ctxOf (p : Pkg) (n : Nat) : Ctx := tget {} p.ctxs n
def reqOf (p : Pkg) (n : Nat) : Req := tget {} p.reqs n
def arrOf (p : Pkg) (n : Nat) : Arr := tget {} p.arrays n
def slotOf (p : Pkg) (n : Nat) : Slot := tget {} p.nvw.slots n

def modPen (p : Pkg) (n : Nat) (f : Pen → Pen) : Pkg := { p with pens := tmod {} p.pens n f }
def modCtx (p : Pkg) (n : Nat) (f : Ctx → Ctx) : Pkg := { p with ctxs := tmod {} p.ctxs n f }
def modReq (p : Pkg) (n : Nat) (f : Req → Req) : Pkg := { p with reqs := tmod {} p.reqs n f }
def modArr (p : Pkg) (n : Nat) (f : Arr → Arr) : Pkg := { p with arrays := tmod {} p.arrays n f }
def modSlot (p : Pkg) (n : Nat) (f : Slot → Slot) : Pkg :=
  { p with nvw := { p.nvw with slots := tmod {} p.nvw.slots n f } }

/-- The current tick (R59). -/
def now (p : Pkg) : Nat := p.tick.count

/-- The ticks since a stamp, in the 64 bits of TICK_COUNT: a load of the count moves a stamp and the count by the same difference, so that
the ticks between them stay what they were, also where the stamp passes below 0 (R59). -/
def since (p : Pkg) (stamp : Nat) : Nat := (now p + 2 ^ 64 - stamp) % 2 ^ 64

/-- Append to what the package sends. -/
def send (p : Pkg) (o : Out) : Pkg := { p with out := p.out ++ [o] }

/-- The effect of a command on the package. An event that names no part of the package, or that cannot arise in the present
state, leaves the package unchanged (log entry 1). -/
def act (ok : Bool) (f : Pkg → Pkg) (s : State) : Host.Outcome State Fault Refusal :=
  .next (if ok then { s with pkg := f s.pkg } else s)

/-- A number that names free values, and the package with the next one (log entry 10). -/
def nextFree (p : Pkg) : Pkg := { p with freeCtr := p.freeCtr + 1 }

/-- Apply an operation for every element of a list, first to last. -/
def forAll {α : Type} (l : List α) (f : Pkg → α → Pkg) (p : Pkg) : Pkg := l.foldl f p

/-- The running step job of a pen. -/
def stepOf (p : Pkg) (n : Nat) : Option Step := (penOf p n).step

/-- Change the running step job of a pen, if there is one. -/
def modStep (p : Pkg) (n : Nat) (f : Step → Step) : Pkg := modPen p n fun x => { x with step := x.step.map f }

/-! ### Availability (R44, Table 1-9) -/

def arrayUsable (p : Pkg) (a : Nat) : Bool := decide ((arrOf p a).st = 0)
def dramUsable (p : Pkg) (s : Nat) : Bool := !(tget false p.glb.dramLost s)
def nvUsable (p : Pkg) (s : Nat) : Bool := !(tget false p.glb.nvLost s)
def houndUsable (p : Pkg) (c : Nat) : Bool := !(tget false p.glb.houndLost c)

/-- DEGRADED: some availability bit is 0 (Table 1-11). -/
def degraded (p : Pkg) : Bool :=
  p.arrays.any (fun e => decide (e.2.st ≠ 0)) || !p.glb.dramLost.isEmpty || !p.glb.nvLost.isEmpty ||
    !p.glb.opticsLost.isEmpty || !p.glb.engineLost.isEmpty || !p.glb.houndLost.isEmpty

/-- NV_VERIFIED: self-test is done and no slot is UNVERIFIED or BAD (R232; log entry 12). -/
def nvVerifiedAll (p : Pkg) : Bool :=
  p.glb.selfTestDone && p.nvw.slots.all fun e => decide (e.2.st ≠ nvUnverified ∧ e.2.st ≠ nvBad)

/-- GLB_STATUS (Table 1-11). -/
def glbStatus (p : Pkg) : Nat :=
  bitN p.glb.ready + 2 * bitN p.glb.selfTestDone + 4 * bitN p.tick.phaseLocked + 8 * bitN (nvVerifiedAll p) +
    16 * bitN p.mgt.lease + 32 * bitN p.fab.plan.isSome + 64 * bitN (degraded p) + 128 * bitN p.glb.fwFault

/-- READY falls when the firmware has stopped or the tick is not locked, and rises when R46 allows it. -/
def judgeReady (p : Pkg) : Pkg :=
  let ok := p.glb.selfTestDone && p.tick.phaseLocked && !p.glb.fwFault
  if ok && !p.glb.ready then
    { p with glb := { p.glb with ready := true, everReady := true, coldReady := true, tickAtReady := now p } }
  else if !ok && p.glb.ready then { p with glb := { p.glb with ready := false } }
  else p

/-! ### Interrupts (R278, R279) -/

/-- A function may send MSI-X messages: the link is up, the firmware runs, and the function is in D0 with MSI-X on (R252, R435, R437). -/
def maySignal (p : Pkg) (fn : Nat) : Bool :=
  let x := tget {} p.glb.fns fn
  p.glb.hostLink && !p.glb.fwFault && !x.d3hot && !x.msixOff

/-- A vector of a function is masked, alone or with the whole function (R278). -/
def isMasked (x : FnCfg) (vec : Nat) : Bool := x.masked || decide (vec ∈ x.masks)

/-- Send an MSI-X message; a masked vector's pending bit is set in its place (R278, R435, R437). -/
def msix (p : Pkg) (fn vec : Nat) : Pkg :=
  if !maySignal p fn then p
  else if isMasked (tget {} p.glb.fns fn) vec then
    { p with pba := tmod [] p.pba fn fun l => (l ++ [vec]).eraseDups }
  else send p (.msix fn vec)

/-- The pending vectors of a function that are no longer masked send their messages (R278). -/
def sendPending (p : Pkg) (fn : Nat) : Pkg :=
  let x := tget {} p.glb.fns fn
  let due := (tget [] p.pba fn).filter fun v => !isMasked x v
  if maySignal p fn && !due.isEmpty then
    forAll due (fun q v => send q (.msix fn v)) { p with pba := tmod [] p.pba fn fun l => l.filter (isMasked x) }
  else p

/-- Cut an access into pieces of at most a size: the address and the bytes of each. -/
def linkPieces (lim addr len : Nat) : List (Nat × Nat) :=
  (upto (ceilDiv len lim)).map fun k => (addr + k * lim, min lim (len - k * lim))

/-- What the host link carries for an entry of the list of what was sent: writes of at most the function's payload size, read requests of
at most its read request size, and nothing of a function in D3hot (Table 8-1, R252). -/
def onLink (p : Pkg) (o : Out) : List Out :=
  match o with
  | .hostWrite fn a b =>
    if (tget {} p.glb.fns fn).d3hot then [] else (linkPieces (max 128 (tget {} p.glb.fns fn).payload) a b.length).map fun x => .hostWrite fn x.1 ((b.drop (x.1 - a)).take x.2)
  | .hostRead fn a n => if (tget {} p.glb.fns fn).d3hot then [] else (linkPieces (max 128 (tget {} p.glb.fns fn).readReq) a n).map fun x => .hostRead fn x.1 x.2
  | _ => [o]

/-- The package interrupts for a change of GLB_STATUS, and of lease or epoch (R278). -/
def settle (p0 p : Pkg) : Pkg :=
  let p1 := if glbStatus p = glbStatus p0 then p else msix p 0 1026
  if p.mgt.lease = p0.mgt.lease ∧ p.mgt.epoch = p0.mgt.epoch then p1 else msix p1 0 1027

/-- The effect of a command that can change GLB_STATUS, the lease or the epoch: READY is judged and the package interrupts follow
(R46, R278). -/
def actS (ok : Bool) (f : Pkg → Pkg) (s : State) : Host.Outcome State Fault Refusal :=
  act ok (fun p => settle p (judgeReady (f p))) s

/-! ### The Scent log (R440 to R447) -/

/-- The first number from a start that no key of a rising table equals. -/
def firstGap {α : Type} (start : Nat) : Tab α → Nat
  | [] => start
  | (k, _) :: t => if k < start then firstGap start t else if k = start then firstGap (start + 1) t else start

/-- The slot a new record goes to: the first empty one from the slot after the newest, wrapping (R446). -/
def emptySlot (s : Scn) : Nat :=
  let from_ := (s.newestSlot + 1) % 65536
  let g := firstGap from_ s.slots
  if g < 65536 then g else firstGap 0 s.slots

/-- How far a sequence number lies behind the next one to assign: larger is older (R444). -/
def recAge (s : Scn) (seq : Nat) : Nat := (s.nextSeq + 2 ^ 32 - seq) % 2 ^ 32

/-- The slot and record of the oldest record that a test admits (R444). -/
def oldestRec (s : Scn) (ok : Rec → Bool) : Option (Nat × Rec) :=
  firstBy (fun a b => decide (recAge s b.2.seq < recAge s a.2.seq)) (s.slots.filter fun e => ok e.2)

/-- Put a record in a slot. SCN_SEQ_LAST and the newest slot follow the newest of the numbers stored: a record that waited while a later one
was stored does not move them back (R437, R450). -/
def putRec (s : Scn) (slot : Nat) (r : Rec) : Scn :=
  if recAge s s.seqLast < recAge s r.seq then { s with slots := tset {} s.slots slot r }
  else { s with slots := tset {} s.slots slot r, seqLast := r.seq, newestSlot := slot }

/-- Count a dropped record (R445, R446). -/
def dropRec (s : Scn) : Scn := { s with dropped := inc32 s.dropped, dropSticky := true }

/-- Store a record, or drop it as the policy says (R446); the flag says whether it was stored. -/
def storeRec (s : Scn) (r : Rec) : Scn × Bool :=
  if s.slots.length < 65536 then (putRec s (emptySlot s) r, true)
  else if r.prot then
    match oldestRec s (fun x => !x.prot) with
    | some (k, _) => (putRec s k r, true)
    | none => (dropRec s, false)
  else if s.policy = 1 then
    match oldestRec s (fun x => !x.prot && decide (severity x.code < severity r.code)) with
    | some (k, _) => (putRec { s with overwritten := inc32 s.overwritten } k r, true)
    | none => (dropRec s, false)
  else (dropRec s, false)

/-- The sequence number after another (R444). -/
def seqNext (n : Nat) : Nat := if n = 0xFFFFFFFF then 1 else n + 1

/-- Vector 1,025 for a stored record at or above the threshold, once per tick (R447). -/
def logIrq (p : Pkg) (r : Rec) : Pkg :=
  if p.scn.irqSev < 7 ∧ p.scn.irqSev ≤ severity r.code ∧ p.scn.irqInTick = false then
    let q := msix p 0 1025
    { q with scn := { q.scn with irqInTick := true } }
  else p

/-- Store one numbered record in the package's log. -/
def commitRec (p : Pkg) (r : Rec) : Pkg × Bool :=
  let (s, ok) := storeRec p.scn r
  let p1 := { p with scn := { s with storedInTick := s.storedInTick + 1 } }
  (if ok then logIrq p1 r else p1, ok)

/-- Remove the newest queued record of a severity below FATAL. -/
def displace : List Rec → Option (List Rec)
  | [] => none
  | r :: t =>
    match displace t with
    | some t' => some (r :: t')
    | none => if severity r.code < 6 then some t else none

/-- A record of an event with the next number. -/
def newRec (p : Pkg) (prot : Bool) (code source p0 p1 p2 : Nat) : Rec :=
  let s := p.scn
  { seq := s.nextSeq, code := code, source := source % 256, cycles := s.powerCycles % 2 ^ 24, prot := prot,
    hours := s.opTime / 36000000000, ms := s.opTime % 36000000000 / 10000,
    p0 := p0 % 2 ^ 32, p1 := p1 % 2 ^ 32, p2 := p2 % 2 ^ 32 }

/-- The recorder of the control die stores a record at once, whatever waits in the firmware's queue (R437). -/
def recordNow (p : Pkg) (code source p0 p1 p2 : Nat) : Pkg :=
  (commitRec { p with scn := { p.scn with nextSeq := seqNext p.scn.nextSeq } } (newRec p false code source p0 p1 p2)).1

/-- Record an event: number it, and store it, queue it or drop it (R444, R445). Answers the sequence number, 0 when the record
is not held. After a firmware fault nothing is recorded (R437). -/
def logRec (p : Pkg) (prot : Bool) (code source p0 p1 p2 : Nat) : Pkg × Nat :=
  if p.glb.fwFault then (p, 0)
  else
    let s := p.scn
    let r := newRec p prot code source p0 p1 p2
    let numbered : Scn := { s with nextSeq := seqNext s.nextSeq }
    if s.queue.isEmpty ∧ s.storedInTick < 16 then
      let (q, ok) := commitRec { p with scn := numbered } r
      (q, if ok then r.seq else 0)
    else if s.queue.length < 1024 then
      ({ p with scn := { numbered with queue := s.queue ++ [r] } }, r.seq)
    else if severity code = 6 then
      match displace s.queue with
      | some t => ({ p with scn := dropRec { numbered with queue := t ++ [r] } }, r.seq)
      | none => ({ p with scn := dropRec s }, 0)
    else ({ p with scn := dropRec s }, 0)

/-- Record an unprotected event. -/
def log (p : Pkg) (code source p0 p1 p2 : Nat) : Pkg := (logRec p false code source p0 p1 p2).1

/-! ### Rings (R262 to R279) -/

/-- CQ_EN or EQ_EN with a vector that the function's table has (R278). -/
def irqVec (c : Ctx) (cq : Bool) : Option Nat :=
  let v := if cq then bitsOf c.irq 10 0 else bitsOf c.irq 26 16
  let en := if cq then bitOf c.irq 11 else bitOf c.irq 27
  if en && decide (v < (if c.fn = 0 then 1040 else 16)) then some v else none

/-- Moderation after one more record: COUNT is compared at the boundary (Table 8-14, R279). -/
def moderate (m : Moder) (enabled irq : Bool) (t : Nat) : Moder :=
  if enabled then { unsig := m.unsig + 1, oldest := if m.unsig = 0 then t else m.oldest, due := m.due || irq } else m

/-- The package writes records of a context: it is ACTIVE and the firmware runs (R277, R437). -/
def writes (p : Pkg) (c : Nat) : Bool := decide ((ctxOf p c).st = ctxActive) && !p.glb.fwFault

/-- Set the PHASE bit of a record (R263). -/
def withPhase (ph : Bool) (b : Bytes) : Bytes :=
  match b with
  | x :: t => BitVec.ofNat 8 (x.toNat / 2 * 2 + bitN ph) :: t
  | [] => []

/-- Write a record at the completion ring's tail; it uses a reserved slot (R263, R267). -/
def pushCq (p : Pkg) (c : Nat) (b : Bytes) (irq : Bool) : Pkg :=
  if writes p c then
    let x := ctxOf p c
    let p1 := send p (.hostWrite x.fn (x.cqBase + 32 * x.cqTail) (withPhase x.cqPhase b))
    let wrap := decide (x.cqTail + 1 = 2 ^ x.cqLog)
    modCtx p1 c fun y =>
      { y with
        cqTail := if wrap then 0 else y.cqTail + 1
        cqPhase := if wrap then !y.cqPhase else y.cqPhase
        cqUsed := y.cqUsed + 1
        reserved := y.reserved - 1
        records := inc64 y.records
        modC := moderate y.modC (irqVec y true).isSome irq (now p) }
  else p

/-- Put an event record at the event ring's tail, or count it dropped when the ring is full (R268). -/
def pushEq (p : Pkg) (c : Nat) (b : Bytes) : Pkg :=
  let x := ctxOf p c
  if x.eqUsed < 2 ^ x.eqLog then
    let p1 := send p (.hostWrite x.fn (x.eqBase + 32 * x.eqTail) (withPhase x.eqPhase b))
    let wrap := decide (x.eqTail + 1 = 2 ^ x.eqLog)
    modCtx p1 c fun y =>
      { y with
        eqTail := if wrap then 0 else y.eqTail + 1
        eqPhase := if wrap then !y.eqPhase else y.eqPhase
        eqUsed := y.eqUsed + 1
        modE := moderate y.modE (irqVec y false).isSome false (now p) }
  else modCtx p c fun y => { y with eqDropped := inc32 y.eqDropped, eqLost := true }

/-- The n-th of the 22 statuses that Table 8-15 does not reserve: 0x00 to 0x14 and 0x1F (R22, R276). -/
def nthStatus (n : Nat) : Nat := if n % 22 = 21 then stInternalFault else n % 22

/-- The STATUS of an event record of a code to which no rule gives one: a free value among the statuses of Table 8-15. -/
def evStatus (code : Nat) : Nat := nthStatus (Config.eventStatus code).toNat

/-- The 32 bytes of an event record, PHASE 0 (R275). -/
def eventBytes (status code seq handle tick p0 p1 p2 : Nat) : Bytes :=
  toLE 1 0 ++ toLE 1 status ++ toLE 2 code ++ toLE 4 seq ++ toLE 4 handle ++ toLE 4 tick ++ toLE 4 p0 ++ toLE 4 p1 ++
    toLE 4 p2 ++ zeros 4

/-- Deliver an event to a context's event ring; severities of error and above join its 16 recent faults (R275, R282). -/
def ctxEvent (p : Pkg) (c status code seq handle p0 p1 p2 : Nat) : Pkg :=
  if writes p c then
    let b := eventBytes status code seq handle (now p) p0 p1 p2
    let p1 := pushEq p c b
    if 3 ≤ severity code then
      modCtx p1 c fun y => { y with faults := (y.faults ++ [b]).drop ((y.faults.length + 1) - 16) }
    else p1
  else p

/-- Record an event that concerns one context, and deliver it to its event ring (R275). -/
def logEvent (p : Pkg) (c status code handle p0 p1 p2 : Nat) : Pkg :=
  let (q, seq) := logRec p false code c p0 p1 p2
  ctxEvent q c status code seq handle p0 p1 p2

/-- The contexts that a test admits, in ascending number. -/
def ctxsWhere (p : Pkg) (f : Ctx → Bool) : List Nat := tkeys (fun _ c => f c) p.ctxs

/-- The ACTIVE contexts of a pen. -/
def ctxsOfPen (p : Pkg) (n : Nat) : List Nat := ctxsWhere p fun c => decide (c.st = ctxActive ∧ c.pen = n)

/-- Record a fault once and deliver its event to every context given, with that record's sequence number (R436). -/
def logFault (p : Pkg) (code source p0 p1 p2 : Nat) (status : Nat) (cs : List Nat) : Pkg :=
  let (q, seq) := logRec p false code source p0 p1 p2
  forAll cs (fun r c => ctxEvent r c status code seq 0 p0 p1 p2) q

/-- The code of a loss: a free value among the codes of the package (R443; log entry 42). -/
def lossCodeOf (kind : Nat) : Nat := listedCodes.getD ((Config.lossCode kind).toNat % listedCodes.length) 0

/-- The loss of an NV stack (kind 0), an optical engine (1), a gather engine (2) or a Sled engine (3) is recorded, and reaches the contexts of
the pens that use it (R44, R436). The manual gives the record no code of its own and no parameters beyond the part: free values (log
entry 42). -/
def logLoss (p : Pkg) (kind part : Nat) (cs : List Nat) : Pkg :=
  logFault (nextFree (nextFree p)) (lossCodeOf kind) part part (Config.freeWord p.freeCtr).toNat
    (Config.freeWord (p.freeCtr + 1)).toNat stInternalFault cs

/-- A request's handle (R270). -/
def handleOf (p : Pkg) (e : Nat) : Nat := e + 4096 * (reqOf p e).gen

/-- The 32 bytes of a completion record, PHASE 0 (Table 8-13). -/
def cqBytes (kind status : Nat) (late fell : Bool) (tag handle tick : Nat) (rest : Bytes) : Bytes :=
  toLE 1 (2 * kind) ++ toLE 1 status ++ toLE 1 (bitN late + 2 * bitN fell) ++ zeros 1 ++ toLE 4 tag ++ toLE 4 handle ++
    toLE 4 tick ++ rest

/-- The DESC record of a descriptor (Table 8-13). -/
def descBytes (p : Pkg) (d : Desc) (status handle : Nat) (late fell : Bool) : Bytes :=
  cqBytes 1 status late fell d.tag handle (now p) (toLE 4 d.index ++ toLE 1 d.type ++ zeros 11)

/-! ### Pens -/

/-- Move a pen to a state and tell its contexts (Table 8-16, PEN_STATE). -/
def setPenState (p : Pkg) (n st : Nat) : Pkg :=
  let old := (penOf p n).st
  if old = st then p
  else
    let p1 := modPen p n fun x => { x with st := st }
    forAll (ctxsOfPen p1 n) (fun q c => logEvent q c (evStatus codePenState) codePenState 0 old st 0) p1

/-- The arrays of a pen's set, in ascending number (R175). -/
def setOf (p : Pkg) (n : Nat) : List Nat := tkeys (fun _ a => decide (a.pen = n + 1)) p.arrays

/-- Enabled pens, in ascending number. -/
def enabledPens (p : Pkg) : List Nat := tkeys (fun _ x => x.enable) p.pens

/-- MGT_STATUS.STALE (R382). -/
def stale (p : Pkg) : Bool := p.mgt.stale

end Sys2Proof.Machine
end

