-- ==== Sys2Proof/Machine/ReqOps.lean ====
section
/-! DEFINITION. Shared operations of requests: mailbox replies, DESC, TOKENS and END records, frames and list blocks, host
copies, faulted contexts, and the end of a request. -/

namespace Sys2Proof.Machine

def poolOf (p : Pkg) (n : Nat) : Pool := (penOf p n).pool
def modPool (p : Pkg) (n : Nat) (f : Pool → Pool) : Pkg := modPen p n fun x => { x with pool := f x.pool }
def bindOf (p : Pkg) (c : Nat) : HBind := tget {} p.hnd.binds c
def hcoreOf (p : Pkg) (k : Nat) : HCore := tget {} p.hnd.cores k
def modBind (p : Pkg) (c : Nat) (f : HBind → HBind) : Pkg :=
  { p with hnd := { p.hnd with binds := tmod {} p.hnd.binds c f } }
def modHcore (p : Pkg) (k : Nat) (f : HCore → HCore) : Pkg :=
  { p with hnd := { p.hnd with cores := tmod {} p.hnd.cores k f } }
def modHart (p : Pkg) (k : Nat) (f : Hart → Hart) : Pkg :=
  { p with hnd := { p.hnd with harts := tmod {} p.hnd.harts k f } }

/-- The register of a hart at a key of `Hart` (log entry 23). -/
def hartReg (h : Hart) (key : Nat) : Nat :=
  match tget none h.regs key with
  | some v => v
  | none => if h.gen = 0 then 0 else (Config.freeReg h.gen key).toNat

/-- The context whose binding holds a core, in LOADING, RUNNING, EXITED or FAULTED (R416). -/
def coreCtx (p : Pkg) (k : Nat) : Option Nat := (tkeys (fun _ b => decide (b.st ≠ 0) && bitOf b.cores k) p.hnd.binds).head?

/-- Wake the waiting cores of a binding that a test admits (R428). -/
def wakeCores (p : Pkg) (c : Nat) : Pkg :=
  forAll ((upto 16).filter fun k => bitOf (bindOf p c).cores k) (fun q k =>
    modHcore q k fun x => if x.waiting then { x with woken := true } else x) p

/-- Write an entry of a record ring into program memory (R421). -/
def ringPut (mem : Tab Byte) (r : HRing) (b : Bytes) : Tab Byte × HRing :=
  let wrap := decide (r.tail + 1 = 2 ^ r.log2)
  (tsetList 0 mem (r.base + 32 * r.tail) (withPhase r.phase b),
    { r with
      tail := if wrap then 0 else r.tail + 1
      phase := if wrap then !r.phase else r.phase
      used := r.used + 1
      reserved := r.reserved - 1 })

/-- A ring of n entries of a size at a base lies inside the program memory of a binding (R421). -/
def ringInside (b : HBind) (base size n : Nat) : Bool := decide (base + size * n ≤ b.memMib * 1048576)

/-- The cores of a binding. -/
def coresOf (b : HBind) : List Nat := (upto 16).filter fun k => bitOf b.cores k

/-- HND_CTX_FAULT (Table 13-2). -/
def faultWord (core kind code : Nat) : Nat := code % 64 + 256 * (core % 16) + 4096 * (kind % 16)

/-- The binding becomes FAULTED: its harts stop, and the fault is recorded (R429, R430). -/
def faultBind (p : Pkg) (c core kind code pc tval : Nat) : Pkg :=
  let w := faultWord core kind code
  let p1 := forAll (coresOf (bindOf p c)) (fun q k => modHcore q k fun x => { x with waiting := false, woken := false }) p
  let p2 := modBind p1 c fun x =>
    { x with st := 4, faultSticky := true, fault := w, faultPc := pc, faultTval := tval }
  logEvent p2 c stInternalFault codeHoundFault 0 c w (pc % 2 ^ 32)

/-- A mailbox or token ring is found outside program memory at its first use: kind 5, at the core (Table 13-6). The rule gives the fault no
exception code, PC or stval: free values (log entry 10). -/
def ringFault (p : Pkg) (c core : Nat) : Pkg :=
  if (bindOf p c).st = 2 then
    nextFree (faultBind p c core 5 (Config.freeReg (p.freeCtr + 1) 0).toNat ((Config.freeReg (p.freeCtr + 1) 1).toNat % 2 ^ 64)
      ((Config.freeReg (p.freeCtr + 1) 2).toNat % 2 ^ 64))
  else p

/-- Records are written while program memory is there for them: a binding that is RUNNING, EXITED or FAULTED (R418, R423, R429). -/
def keepsMem (b : HBind) : Bool := decide (b.st = 2 ∨ b.st = 3 ∨ b.st = 4)

/-- Write a reply record of a core (R423). -/
def pushReply (p : Pkg) (k c : Nat) (b : Bytes) : Pkg :=
  let r := (hcoreOf p k).reply
  if !keepsMem (bindOf p c) then p
  else if ringInside (bindOf p c) r.base 32 (2 ^ r.log2) then
    let (m, r) := ringPut (bindOf p c).mem (hcoreOf p k).reply b
    let p1 := modBind p c fun x => { x with mem := m }
    modHcore p1 k fun x => { x with reply := r, woken := x.woken || x.waiting }
  else ringFault p c k

/-- Write a record on the token ring of a context's binding (R424). -/
def pushTok (p : Pkg) (c : Nat) (b : Bytes) : Pkg :=
  let t := (bindOf p c).tq
  if !keepsMem (bindOf p c) then p
  else if ringInside (bindOf p c) t.base 32 (2 ^ t.log2) then
    let (m, r) := ringPut (bindOf p c).mem (bindOf p c).tq b
    wakeCores (modBind p c fun x => { x with mem := m, tq := r }) c
  else ringFault p c ((coresOf (bindOf p c)).headD 0)

/-- An END record goes to the token ring beside the completion ring, in a slot that no step reserved (R424). -/
def pushEnd (p : Pkg) (c : Nat) (b : Bytes) : Pkg :=
  if keepsMem (bindOf p c) then pushTok (modBind p c fun x => { x with tq := { x.tq with reserved := x.tq.reserved + 1 } }) c b else p

/-- Two descriptors are the same one of their source. -/
def sameDesc (a b : Desc) : Bool := decide (a.core = b.core ∧ a.num = b.num)

/-- Complete a descriptor: its DESC record goes to the completion ring, or to its core's reply ring (R273, R423); that of a command of a
binding that has ended is dropped (R418). -/
def answer (p : Pkg) (c : Nat) (d : Desc) (status handle : Nat) (late fell : Bool) : Pkg :=
  let b := descBytes p d status handle late fell
  if d.core = 0 then
    let p1 := modCtx p c fun x => { x with live := x.live.filter fun y => !sameDesc y d }
    pushCq p1 c b d.irq
  else if d.num < (ctxOf p c).mailFrom then p
  else pushReply (modHcore p (d.core - 1) fun x => { x with live := x.live.filter fun y => !sameDesc y d }) (d.core - 1) c b

/-- Complete a descriptor that concerns a request (Table 8-13). -/
def answerReq (p : Pkg) (e : Nat) (d : Desc) (status : Nat) : Pkg :=
  let r := reqOf p e
  answer p r.ctx d status (handleOf p e) r.late r.fellBack

/-- Complete a descriptor held for a request, and hold it no longer. -/
def answerHeld (p : Pkg) (e : Nat) (d : Desc) (status : Nat) : Pkg :=
  answerReq (modReq p e fun x => { x with held := x.held.filter fun y => !sameDesc y d }) e d status

/-! ### Frames (R317, R323 to R325) -/

/-- The stack of a frame (log entry 13). -/
def frameStack (o : Pool) (f : Nat) : Nat := o.onStacks.getD (f % max 1 o.onStacks.length) 0

/-- A frame is free: inside the pool, not in use, not retired and not on a failed stack (R324, R435). -/
def frameFree (o : Pool) (f : Nat) : Bool :=
  decide (f < o.frames ∧ frameStack o f ∉ o.lost) && !(tget {} o.tab f).busy && !(tget {} o.tab f).bad

/-- Frames of a pool that lie on a failed stack. -/
def lostFrames (o : Pool) : Nat :=
  let n := o.onStacks.length
  sumL ((upto n).map fun j => if o.onStacks.getD j 0 ∈ o.lost then (o.frames + n - 1 - j) / n else 0)

/-- KVP_PEN_FREE. -/
def freeFrames (o : Pool) : Nat :=
  o.frames - lostFrames o - (o.tab.filter fun e => (e.2.busy || e.2.bad) && decide (frameStack o e.1 ∉ o.lost)).length

/-- The headroom (R325). -/
def headroomOf (o : Pool) : Nat := if o.headroom = 0 then ceilDiv o.frames 64 else o.headroom

/-- Frames free for admission (R325). -/
def freeAdmit (o : Pool) : Nat := freeFrames o - o.reserved - headroomOf o

/-- Free frames of a pool on one stack. -/
def stackFrees (o : Pool) (s : Nat) : List Nat := (upto o.frames).filter fun f => decide (frameStack o f = s) && frameFree o f

/-- The quadrants in the order a search takes them: the one given, the adjacent ones, the diagonal one (R178, R180). -/
def quadRings (q : Nat) : List (List Nat) := [[q], [min (q ^^^ 1) (q ^^^ 2), max (q ^^^ 1) (q ^^^ 2)], [q ^^^ 3]]

/-- The stack a page of a quadrant comes from: most free frames, then the lower number, in the first ring that has one (R180). -/
def pickStack (o : Pool) (q : Nat) : Option Nat :=
  (quadRings q).findSome? fun ring =>
    let ss := (upto 24).filter fun s => decide (s / 6 ∈ ring) && !(stackFrees o s).isEmpty
    firstBy (fun a b => decide ((stackFrees o b).length < (stackFrees o a).length)) ss

/-- Take a free frame for a part of a page group in a quadrant: the lowest-numbered one of the chosen stack (R180). -/
def takeFrame (o : Pool) (q : Nat) (refs pins : Nat) : Option (Nat × Pool) :=
  match pickStack o q with
  | none => none
  | some s =>
    match (stackFrees o s).head? with
    | none => none
    | some f => some (f, { o with tab := tset {} o.tab f { busy := true, refs := refs, pins := pins } })

/-- Drop one reference of a frame (R324). -/
def dropRef (o : Pool) (f : Nat) : Pool := { o with tab := tmod {} o.tab f fun x => { x with refs := x.refs - 1 } }

/-- Take and release one pin of a frame (R324). -/
def pinFrame (o : Pool) (f : Nat) : Pool := { o with tab := tmod {} o.tab f fun x => { x with pins := x.pins + 1 } }
def unpinFrame (o : Pool) (f : Nat) : Pool := { o with tab := tmod {} o.tab f fun x => { x with pins := x.pins - 1 } }

/-- At a boundary, frames in use with both counts zero and no list block become free and hold no data (R324). -/
def sweepFrames (o : Pool) : Pool :=
  { o with tab := tmap {} (fun _ x =>
      if x.busy ∧ x.refs = 0 ∧ x.pins = 0 ∧ x.blocks = 0 then { x with busy := false, data := [] } else x) o.tab }

/-- Affinity groups that are page groups, ascending (R315). -/
def pageGroups (o : Pool) : List Nat := (upto 4).filter fun g => bitOf o.groups g

/-- G (R315). -/
def gOf (o : Pool) : Nat := (pageGroups o).length

/-- Tokens per page of a pen (R314). -/
def pageSize (p : Pkg) (n : Nat) : Nat := if (penOf p n).compat then 256 else 16

/-- The quadrant that the page group of part g is mapped to (R317). -/
def partQuad (p : Pkg) (n g : Nat) : Nat := tget 0 (penOf p n).quad ((pageGroups (poolOf p n)).getD g 0) - 1

/-! ### List blocks (R321, R323) -/

/-- Blocks per list frame. -/
def blocksPer (o : Pool) : Nat := o.frameBytes / 16384

/-- A free block of a list frame that has one, else of a new list frame. -/
def takeBlock (o : Pool) : Option (Nat × Pool) :=
  let k := blocksPer o
  let hole (b : Nat) : Option Nat := (upto k).find? fun i => !bitOf b i
  match (o.tab.filter fun e => decide (e.2.blocks ≠ 0) && (hole e.2.blocks).isSome).head? with
  | some (f, x) =>
    let i := (hole x.blocks).getD 0
    some (f * k + i, { o with tab := tset {} o.tab f { x with blocks := x.blocks + 2 ^ i } })
  | none =>
    match (upto o.frames).find? (frameFree o) with
    | none => none
    | some f => some (f * k, { o with tab := tset {} o.tab f { busy := true, blocks := 1 } })

/-- Free a block; the frame of its last block returns at once (R323). -/
def freeBlock (o : Pool) (b : Nat) : Pool :=
  let k := max 1 (blocksPer o)
  { o with tab := tmod {} o.tab (b / k) fun x =>
      let m := x.blocks - (if bitOf x.blocks (b % k) then 2 ^ (b % k) else 0)
      if m = 0 then { x with blocks := 0, busy := false, data := [] } else { x with blocks := m } }

/-- The root words a request needs: 1000 for the root, b for PAGES_b, 64 + b for SCORES_b, 80 + b for HISTORY_b (Table 10-2). -/
def blockKeys (r : Req) : List Nat :=
  1000 :: ((upto (ceilDiv r.hist.length 4096)).map (80 + ·) ++
    (r.parts.map fun e => e.1 / 4096).eraseDups ++ (r.scores.map fun e => 64 + e.1 / 4096).eraseDups)

/-- Allocate the list blocks of some root words of a request, where a word has none (R321); with no free frame a word stays without a
block (log entry 14). -/
def growKeys (p : Pkg) (e : Nat) (keys : List Nat) : Pkg :=
  forAll keys (fun q k =>
    if tget 0 (reqOf q e).blocks k = 0 then
      match takeBlock (poolOf q (reqOf p e).pen) with
      | some (b, o) => modReq (modPool q (reqOf p e).pen fun _ => o) e fun x => { x with blocks := tset 0 x.blocks k (b + 1) }
      | none => q
    else q) p

/-- Allocate every list block that a request has come to need (R321). -/
def growBlocks (p : Pkg) (e : Nat) : Pkg := growKeys p e (blockKeys (reqOf p e))

/-- The 16 KiB of a request's root block, from the blocks that its words name: a word with no block is all ones, and what Table 10-2
reserves is zero. -/
def rootBlock (r : Req) : Bytes :=
  let word (k : Nat) : Bytes := toLE 4 (if tget 0 r.blocks k = 0 then 0xFFFFFFFF else tget 0 r.blocks k - 1)
  (upto 64).flatMap word ++ (upto 16).flatMap (fun b => word (64 + b)) ++ (upto 256).flatMap (fun b => word (80 + b)) ++
    zeros (16384 - 1344)

/-! ### Host regions and copies (R334 to R341) -/

/-- KiB of a context's host region in use (KVP_CTX_HOST_USED). -/
def hostUsed (c : Ctx) : Nat := sumL (c.hostMap.map Prod.snd)

/-- The lowest KiB offset at which a run of KiB is free. -/
def hostGap (need : Nat) : Nat → Tab Nat → Nat
  | at_, [] => at_
  | at_, (k, n) :: t => if at_ + need ≤ k then at_ else hostGap need (k + n) t

/-- A place for one frame in a context's host region, if there is room (R334). -/
def hostPlace (c : Ctx) (kib : Nat) : Option Nat :=
  let o := hostGap kib 0 c.hostMap
  if o + kib ≤ c.hostMib * 1024 ∧ 0 < kib then some o else none

/-- The KiB of a pen's frame. -/
def frameKib (p : Pkg) (n : Nat) : Nat := (poolOf p n).frameBytes / 1024

/-- KiB that the running copies out of a pen will take in a context's host region. -/
def outKib (p : Pkg) (c n : Nat) : Nat :=
  sumL (((poolOf p n).copies.filter fun k => decide (k.why ≤ 2 ∧ (reqOf p k.entry).ctx = c)).map fun k => k.keys.length * frameKib p n)

/-- How many frames of a pen still fit a context's host region beside the copies out that run in some pens (R335). -/
def hostRoom (p : Pkg) (c n : Nat) (pens : List Nat) : Nat :=
  let kib := frameKib p n
  let x := ctxOf p c
  if kib = 0 then 0 else (x.hostMib * 1024 - hostUsed x - sumL (pens.map (outKib p c))) / kib

/-- Frames a request holds in DRAM that no other request references, by page-list key (R335). -/
def ownKeys (p : Pkg) (e : Nat) : List Nat :=
  let r := reqOf p e
  (r.parts.filter fun x => match x.2 with
    | .frame f => decide ((tget {} (poolOf p r.pen).tab f).refs = 1)
    | _ => false).map Prod.fst

/-- Page-list keys of parts in the host region. -/
def hostKeys (p : Pkg) (e : Nat) : List Nat :=
  ((reqOf p e).parts.filter fun x => match x.2 with | .host _ => true | _ => false).map Prod.fst

/-- A copy of the request is running, of one of the kinds given. -/
def copying (p : Pkg) (e : Nat) (whys : List Nat) : Bool :=
  (poolOf p (reqOf p e).pen).copies.any fun x => decide (x.entry = e ∧ x.why ∈ whys)

/-- The copies of a request of some kinds stop; every part stays where its copy left it (R336, R337). -/
def stopCopies (p : Pkg) (e : Nat) (whys : List Nat) : Pkg :=
  modPool p (reqOf p e).pen fun o => { o with copies := o.copies.filter fun x => decide (¬(x.entry = e ∧ x.why ∈ whys)) }

/-- All kinds of copies: 0 out of a PAUSED request, 1 of a pre-empted one, 2 of a context swap; 3 back for a RESUME, 4 for a return from
SWAPPED, 5 for a context swap, 6 of a shared prefix. -/
def allCopies : List Nat := [0, 1, 2, 3, 4, 5, 6]

/-- A copy out of DRAM; the others copy back into it. -/
def isOut (k : Copy) : Bool := decide (k.why ≤ 2)

/-- Start a copy after those already started (R337). -/
def startCopy (p : Pkg) (e why : Nat) (keys : List Nat) : Pkg :=
  if keys.isEmpty then p
  else modPool p (reqOf p e).pen fun o => { o with copies := o.copies ++ [⟨e, why, keys⟩] }

/-- KV_KENNEL_FULL, once for a request, with the frames kept in DRAM (R335). -/
def noteKennelFull (p : Pkg) (e rest : Nat) : Pkg :=
  let r := reqOf p e
  if 0 < rest ∧ r.kennelFull = false then
    logEvent (modReq p e fun x => { x with kennelFull := true }) r.ctx (evStatus codeKvKennelFull) codeKvKennelFull (handleOf p e)
      (r.ctx + 256 * r.pen) (handleOf p e) rest
  else p

/-- Copy out what fits of a request's own frames; KV_KENNEL_FULL once for the rest (R335). -/
def copyOut (p : Pkg) (e why : Nat) : Pkg :=
  let r := reqOf p e
  let keys := ownKeys p e
  let room := hostRoom p r.ctx r.pen (upto 16)
  noteKennelFull (startCopy p e why (keys.take room)) e (keys.length - min keys.length room)

/-- The pages of a PREFIX request go away while shared parts of it are still in the host region. DESIGN CHOICE: the copies back end, and
a request that waits for them keeps the leading pages that it has and computes the others from its history (R328; log entry 14). -/
def endSharing (p : Pkg) (e : Nat) : Pkg :=
  let h := handleOf p e
  let n := (reqOf p e).pen
  let cs := (poolOf p n).copies.filter fun k => decide (k.why = 6 ∧ (reqOf p k.entry).prefixH = h)
  forAll cs (fun q k =>
    let first := k.keys.headD 0 / max 1 (gOf (poolOf q n)) * pageSize q n
    modReq (stopCopies q k.entry [6]) k.entry fun x => { x with kvDone := min x.kvDone first }) p

/-- The entries of a context that are not FREE (REQ_CTX_LIVE). -/
def entriesOf (p : Pkg) (c : Nat) : List Nat := tkeys (fun _ r => decide (r.st ≠ rqFree ∧ r.ctx = c)) p.reqs

/-- Another request of the context names a place of its host region: a frame that they shared in DRAM (R328, R341). -/
def hostShared (p : Pkg) (e off : Nat) : Bool :=
  (entriesOf p (reqOf p e).ctx).any fun x => decide (x ≠ e) && (reqOf p x).parts.any fun y => decide (y.2 = .host off)

/-- Drop every page a request holds, in DRAM and in the host region, with its reservation and list blocks (R324, R325, R342). -/
def releasePages (p : Pkg) (e : Nat) : Pkg :=
  let r := reqOf p e
  let p1 := endSharing (stopCopies p e allCopies) e
  let p2 := forAll r.parts (fun q x => match x.2 with
    | .frame f => modPool q r.pen fun o => dropRef o f
    | .host off => if hostShared p e off then q else modCtx q r.ctx fun c => { c with hostMap := tset 0 c.hostMap off 0 }
    | _ => q) p1
  let p3 := forAll r.blocks (fun q x => modPool q r.pen fun o => freeBlock o (x.2 - 1)) p2
  let p4 := modPool p3 r.pen fun o => { o with reserved := o.reserved - (reqOf p3 e).reserved }
  modReq p4 e fun x => { x with parts := [], own := [], scores := [], tail := [], blocks := [], reserved := 0 }

/-! ### Requests -/

/-- A request exists and may be named by a handle: neither FREE nor ADMITTING (R270). -/
def liveReq (r : Req) : Bool := decide (r.st ≠ rqFree ∧ r.st ≠ rqAdmitting)

/-- The live entry that a handle names for a context, if any (R270). -/
def entryOf (p : Pkg) (c h : Nat) : Option Nat :=
  let e := h % 4096
  let r := reqOf p e
  if liveReq r ∧ r.gen = h / 4096 ∧ h / 4096 ≠ 0 ∧ r.ctx = c then some e else none

/-- The entries of a pen that are not FREE. -/
def entriesOfPen (p : Pkg) (n : Nat) : List Nat := tkeys (fun _ r => decide (r.st ≠ rqFree ∧ r.pen = n)) p.reqs

/-- Free an entry (R284). -/
def freeEntry (p : Pkg) (e : Nat) : Pkg := { p with reqs := tset {} p.reqs e {} }

/-- Give back reserved completion slots of a context (R267). -/
def giveBack (p : Pkg) (c n : Nat) : Pkg := modCtx p c fun x => { x with reserved := x.reserved - n }

/-- Refuse an ADMIT whose request is ADMITTING: the entry returns to FREE with a DESC record alone (R291). -/
def refuseAdmit (p : Pkg) (e status : Nat) : Pkg :=
  let r := reqOf p e
  let p1 := giveBack p r.ctx 1
  freeEntry (releasePages (answer p1 r.ctx r.admitDesc status 0 false false) e) e

/-- Release a TOKENS slot that a request holds unused. -/
def dropTokSlot (p : Pkg) (e : Nat) : Pkg :=
  let r := reqOf p e
  if r.tokSlot then
    let p1 := modReq p e fun x => { x with tokSlot := false }
    if r.hound then modBind p1 r.ctx fun b => { b with tq := { b.tq with reserved := b.tq.reserved - 1 } }
    else giveBack p1 r.ctx 1
  else p

/-- A request that ends while its step runs leaves the step: its slots are empty from then on, in the step and in its rerun. -/
def leaveStep (p : Pkg) (e : Nat) : Pkg :=
  let out (t : Tab (Option SlotUse)) : Tab (Option SlotUse) := tmap none (fun _ u => if u.map (·.entry) = some e then none else u) t
  let p1 := modPen p (reqOf p e).pen fun x =>
    { x with
      rerun := out x.rerun
      step := x.step.map fun t =>
        { t with slots := out t.slots, placed := t.placed.filter fun i => decide (i ≠ e), tails := t.tails.filter fun i => decide (i.1 ≠ e) } }
  modReq (dropTokSlot p1 e) e fun r => { r with inStep := false }

/-- A request reaches DONE with a status: its END record follows at the end of the tick (R287). -/
def endReq (p : Pkg) (e status : Nat) : Pkg :=
  let r := reqOf p e
  if r.st = rqFree then p
  else if r.st = rqAdmitting then refuseAdmit p e status
  else if r.st = rqDone then p
  else
    let p1 := leaveStep (stopCopies p e allCopies) e
    let p2 := modReq p1 e fun x => { x with st := rqDone, endStatus := status, nextDl := 0, ttlExp := 0 }
    { p2 with rq := { p2.rq with doneQ := p2.rq.doneQ ++ [e] } }

/-- OK, or FELL_BACK for a request that carries the marker (R287). -/
def okStatus (r : Req) : Nat := if r.fellBack then stFellBack else stOk

/-- The END record of a request (Table 8-13). -/
def endBytes (p : Pkg) (e : Nat) : Bytes :=
  let r := reqOf p e
  cqBytes 3 r.endStatus r.late r.fellBack r.tag (handleOf p e) (now p)
    (toLE 4 r.delivered ++ toLE 4 r.hist.length ++ toLE 4 r.steps ++ zeros 4)

/-- The TOKENS record of a delivery (Table 8-13). -/
def tokenBytes (p : Pkg) (e : Nat) (ts : List Nat) : Bytes :=
  let r := reqOf p e
  cqBytes 2 stOk r.late r.fellBack r.tag (handleOf p e) (now p)
    (toLE 1 ts.length ++ (((ts.map (toLE 3)).flatten ++ zeros 15).take 15))

/-- The order in which held descriptors are answered: the CANCEL that ended the request first, the others as they were taken (R287). -/
def takenBefore (a b : Desc) : Bool := (a.front && !b.front) || (a.front == b.front && decide (a.num < b.num))

/-- The descriptors of a request that are answered after its END record, in the order taken: those held, APPENDs whose read has not
ended, and a RESUME whose pages are not back (R273, R287). -/
def leftDescs (r : Req) : List Desc :=
  let rest := (r.appends.map (·.desc)).filter fun d => !r.held.any fun h => sameDesc h d
  sortBy takenBefore (r.held ++ rest ++ r.resumeD.toList)

/-- Write the END record of a DONE request and the DESC records held for it, and free the entry (R273, R287). A FAULTED context
writes nothing, and its requests keep their entries (R277). -/
def closeReq (p : Pkg) (e : Nat) : Pkg :=
  let r := reqOf p e
  if r.st ≠ rqDone ∨ (ctxOf p r.ctx).st = ctxFaulted then p
  else
    let b := endBytes p e
    let p1 := pushCq p r.ctx b false
    let p2 := if r.hound then pushEnd p1 r.ctx b else p1
    let p3 := forAll (leftDescs r) (fun q d => answerReq q e d r.endStatus) p2
    freeEntry (releasePages p3 e) e

/-- The end of a tick: every request DONE in it is closed, in the order in which they became DONE (R287). -/
def closeDone (p : Pkg) : Pkg :=
  let q := forAll p.rq.doneQ closeReq p
  { q with rq := { q.rq with doneQ := p.rq.doneQ.filter fun e => decide ((reqOf q e).st = rqDone) } }

/-! ### Faulted contexts (R277) -/

/-- A context becomes FAULTED; its copies stop (R337). -/
def faultCtx (p : Pkg) (c status code : Nat) : Pkg :=
  let p1 := forAll (entriesOf p c) (fun q e => stopCopies q e allCopies) p
  modCtx p1 c fun x =>
    { x with st := ctxFaulted, faultStatus := status, faultCode := code, reading := none, fetched := [] }

/-- A host error: the context becomes FAULTED with PERMISSION, and one entry of the cause's code is recorded (R277). -/
def hostError (p : Pkg) (c code p0 p1 p2 : Nat) : Pkg :=
  if (ctxOf p c).st = ctxActive ∨ (ctxOf p c).st = ctxResetting then
    log (faultCtx p c stPermission code) code c p0 p1 p2
  else p

end Sys2Proof.Machine
end

