-- ==== Sys2Proof/Machine/ServeOps.lean ====
section
/-! DEFINITION. Shared operations of request serving: eligibility and the order of requests, admission, pausing, appending,
fallback, deadline policies and retirement (R285 to R301). -/

namespace Sys2Proof.Machine

/-- The tick a delay after now, or 0 for a zero delay (R290, R295). -/
def dlAfter (p : Pkg) (d : Nat) : Nat := if d = 0 then 0 else now p + d

/-- Tokens of an image's vocabulary and positions of a pen's image; 0 and 1 without an image. -/
def vocabOf (p : Pkg) (n : Nat) : Nat := match (penOf p n).image with | some i => i.vocab | none => 0
def positionsOf (p : Pkg) (n : Nat) : Nat := match (penOf p n).image with | some i => i.positions | none => 1
def batchOf (p : Pkg) (n : Nat) : Nat := match (penOf p n).image with | some i => i.batchSlots | none => 1

/-- Free completion slots of a context (R267). -/
def cqFree (c : Ctx) : Nat := 2 ^ c.cqLog - c.cqUsed - c.reserved

/-- A TOKENS slot can be reserved for a request: on the completion ring, or on the token ring of a RUNNING binding (R267, R424). -/
def tokenRoom (p : Pkg) (r : Req) : Bool :=
  if r.hound then
    let b := bindOf p r.ctx
    decide (b.st = 2 ∧ b.tq.used + b.tq.reserved < 2 ^ b.tq.log2)
  else decide (0 < cqFree (ctxOf p r.ctx))

/-- CQ_STALL becomes 1; its event comes at most once in 10,000 ticks (R267, Table 8-16). -/
def stallCtx (p : Pkg) (c : Nat) : Pkg :=
  let x := ctxOf p c
  if x.cqStall then p
  else
    let q := modCtx p c fun y => { y with cqStall := true }
    if mayLog x.stallLogAt (now p) then
      logEvent (modCtx q c fun y => { y with stallLogAt := some (now p) }) c (evStatus codeCqStall) codeCqStall 0 (cqFree x) 0 0
    else q

/-- The prompt and every appended token that a request waits for have been read (R292). -/
def tokensRead (r : Req) : Bool := r.promptRead && r.appends.all fun t => t.data.isSome

/-- A token may still be added to the history: LENGTH stays within LIMIT (R285). DESIGN CHOICE: a request that a RESUME or an APPEND
without new tokens leaves at its limit keeps its state and is placed in no step (log entry 28). -/
def belowLimit (r : Req) : Bool := decide (r.hist.length < r.limit)

/-- Eligible but for the TOKENS slot and residency (R292). Every frame must be in DRAM (R336). -/
def eligibleBase (p : Pkg) (e : Nat) : Bool :=
  let r := reqOf p e
  decide (r.st = rqPrefill ∨ r.st = rqDecode) && tokensRead r && belowLimit r && !r.pausePending &&
    decide ((ctxOf p r.ctx).st = ctxActive) && (hostKeys p e).isEmpty && !copying p e [3, 4, 5, 6]

/-- A request may be placed in a step (R292). -/
def eligible (p : Pkg) (e : Nat) : Bool :=
  eligibleBase p e && (ctxOf p (reqOf p e).ctx).resident && tokenRoom p (reqOf p e)

/-- A request that only the lack of a completion slot keeps out of a step (R267). -/
def lacksSlot (p : Pkg) (e : Nat) : Bool :=
  let r := reqOf p e
  eligibleBase p e && (ctxOf p r.ctx).resident && !r.hound && !r.inStep && decide (cqFree (ctxOf p r.ctx) = 0)

/-- A request that only the lack of a token-ring slot keeps out of a step (R424). -/
def lacksToken (p : Pkg) (e : Nat) : Bool :=
  let r := reqOf p e
  eligibleBase p e && (ctxOf p r.ctx).resident && r.hound && !r.inStep && !tokenRoom p r

/-- TQ_STALL of a context's binding, as its requests stand (R424). -/
def judgeTq (p : Pkg) (c : Nat) : Pkg :=
  let w := (entriesOf p c).any (lacksToken p)
  if (bindOf p c).tqStall = w then p else modBind p c fun b => { b with tqStall := w }

/-- The order in which eligible requests are taken: earlier deadline, 0 last; higher priority; lower entry (R292). -/
def servedBefore (dl1 pr1 e1 dl2 pr2 e2 : Nat) : Bool :=
  let k1 := if dl1 = 0 then 2 ^ 64 else dl1
  let k2 := if dl2 = 0 then 2 ^ 64 else dl2
  decide (k1 < k2) || (decide (k1 = k2) && (decide (pr2 < pr1) || (decide (pr1 = pr2) && decide (e1 < e2))))

/-- The eligible requests of a pen in the order of R292. -/
def eligibleOf (p : Pkg) (n : Nat) : List Nat :=
  sortBy (fun a b => servedBefore (reqOf p a).nextDl (reqOf p a).priority a (reqOf p b).nextDl (reqOf p b).priority b)
    ((entriesOfPen p n).filter (eligible p))

/-- The slots a request would take in a step, before the limit of the batch (R292). -/
def slotsOf (p : Pkg) (e : Nat) : Nat :=
  let r := reqOf p e
  if r.st = rqDecode then 1
  else min p.rq.prefillSlots (ceilDiv (r.hist.length - r.kvDone) (positionsOf p r.pen))

/-! ### Pausing (R301, R335, R336) -/

/-- Put a request in PAUSED until a tick, from a state, and start its copy-out; a shared-prefix copy goes on (R335, R337). -/
def pauseReq (p : Pkg) (e prev until_ : Nat) : Pkg :=
  let p1 := modReq p e fun x =>
    { x with st := rqPaused, prev := prev, ttlExp := until_, nextDl := 0, pausePending := false, kennelFull := false }
  copyOut (stopCopies p1 e [0, 1, 3, 4]) e 0

/-- Answer the RESUME of a request whose pages are not all back, if there is one. -/
def closeResume (p : Pkg) (e status : Nat) : Pkg :=
  match (reqOf p e).resumeD with
  | some d => answerHeld (modReq p e fun x => { x with resumeD := none }) e d status
  | none => p

/-- Apply a PAUSE: a running copy-back ends with its RESUME answered first (R301, R336). -/
def applyPause (p : Pkg) (e : Nat) (d : Desc) (ttl : Nat) : Pkg :=
  let r := reqOf p e
  if r.st = rqPaused then
    answerHeld (modReq p e fun x => { x with ttlExp := now p + ttl, pausePending := false }) e d stOk
  else
    let p1 := closeResume p e stOk
    answerHeld (pauseReq p1 e r.st (now p + ttl)) e d stOk

/-! ### Appending (R300) -/

/-- The index of the first token entry that is malformed or not below VOCAB (R290). -/
def badToken (vocab : Nat) (ts : List Word32) : Option Nat :=
  ts.findIdx? fun t => decide (2 ^ 24 ≤ t.toNat ∨ vocab ≤ t.toNat)

/-- Frames of a request's reservation that its copy-on-write of the partly shared prefix page will take: they reach no new page (R289,
R329). -/
def cowKept (p : Pkg) (e : Nat) : Nat :=
  let r := reqOf p e
  let g := gOf (poolOf p r.pen)
  let page := r.prefixTokens / pageSize p r.pen
  if r.prefixH = 0 ∨ r.prefixTokens % pageSize p r.pen = 0 then 0
  else ((upto g).filter fun k => match tget .unheld r.parts (page * g + k) with
    | .frame f => decide (1 < (tget {} (poolOf p r.pen).tab f).refs) && !tget false r.own (page * g + k)
    | _ => false).length

/-- Frames for the logical pages that reach a history length and that a request neither holds nor has reserved (R300). -/
def newFrames (p : Pkg) (e len : Nat) : Nat :=
  let r := reqOf p e
  let g := gOf (poolOf p r.pen)
  let need := ceilDiv (len + positionsOf p r.pen) (pageSize p r.pen) * g
  need - (r.parts.filter fun x => decide (x.1 < need)).length - (r.reserved - cowKept p e)

/-- Record that a token of a prompt or an APPEND is invalid (Table 9-13). -/
def logPromptInvalid (p : Pkg) (e i : Nat) : Pkg :=
  let r := reqOf p e
  logEvent p r.ctx (evStatus codePromptInvalid) codePromptInvalid (handleOf p e) (r.ctx + 256 * r.pen) (handleOf p e) i

/-- Apply an APPEND whose tokens have been read (R300). -/
def applyAppend (p : Pkg) (e : Nat) (t : TokRead) (ts : List Word32) : Pkg :=
  let r := reqOf p e
  let p0 := modReq p e fun x => { x with appends := x.appends.filter fun y => !sameDesc y.desc t.desc }
  match badToken (vocabOf p r.pen) ts with
  | some i => answerHeld (logPromptInvalid p0 e i) e t.desc stFormatInvalid
  | none =>
    if r.limit + t.count + t.maxNew > 1048576 then answerHeld p0 e t.desc stLengthInvalid
    else
      let need := newFrames p e (r.hist.length + t.count)
      if freeAdmit (poolOf p r.pen) < need then answerHeld p0 e t.desc stAdmitDeniedMem
      else
        let p1 := modPool p0 r.pen fun o => { o with reserved := o.reserved + need }
        let p2 := modReq p1 e fun x =>
          { x with
            hist := x.hist ++ ts.map (·.toNat)
            limit := x.limit + t.count + t.maxNew
            drafts := []
            reserved := x.reserved + need
            st := if x.st = rqDecode then rqPrefill else x.st
            prev := if x.st = rqPaused ∨ x.st = rqSwapped then rqPrefill else x.prev
            nextDl := if x.st = rqPaused then 0 else dlAfter p x.firstDl }
        growBlocks (answerHeld p2 e t.desc stOk) e

/-- Issue the first token read of a request that waits behind none (R300). -/
def issueRead (p : Pkg) (e : Nat) : Pkg :=
  let r := reqOf p e
  match r.appends.find? fun t => t.data.isNone with
  | some t =>
    if r.promptRead ∧ t.issued = false then
      let mark (y : TokRead) : TokRead := if sameDesc y.desc t.desc then { y with issued := true } else y
      let p1 := modReq p e fun x => { x with appends := x.appends.map mark }
      send p1 (.hostRead (ctxOf p r.ctx).fn t.addr (4 * t.count))
    else p
  | none => p

/-- Apply what waited for a request's retirement or its return: appends read and PAUSEs, in the order taken (R299 to R301). -/
def applyHeld (p : Pkg) (e : Nat) : Pkg :=
  forAll (sortBy takenBefore (reqOf p e).held) (fun q d =>
    let r := reqOf q e
    if r.st = rqDone ∨ r.st = rqFree then q
    else if d.type = 2 then
      match r.appends.find? fun t => sameDesc t.desc d with
      | some t => match t.data with
        | some ts => applyAppend q e t ts
        | none => q
      | none => q
    else if d.type = 4 then applyPause q e d (fieldAt d.raw 12 4)
    else q) p

/-! ### Deadlines (R294 to R296) -/

/-- PEN_STATUS.FALLBACK_READY (Table 5-17). -/
def fallbackReady (p : Pkg) (n : Nat) : Bool :=
  let x := penOf p n
  let y := penOf p (x.fallback % 16)
  bitOf x.fallback 7 && decide (y.st = penActive) &&
    match x.image, y.image with
    | some a, some b => decide (a.fbId = some b.id ∧ a.vocab = b.vocab)
    | _, _ => false

/-- The requirement of a fallback that fails: 0 not ready, 1 already fallen back, 2 pages (Table 9-13). -/
def fallbackBar (p : Pkg) (e : Nat) : Option Nat :=
  let r := reqOf p e
  let m := (penOf p r.pen).fallback % 16
  let need := ceilDiv (r.hist.length + positionsOf p m) (pageSize p m) * gOf (poolOf p m)
  if !fallbackReady p r.pen then some 0
  else if r.fellBack then some 1
  else if freeAdmit (poolOf p m) < need then some 2
  else none

/-- Move a request to the fallback pen, or record why not; it leaves the old pen's rerun (R296). -/
def fallbackReq (p : Pkg) (e : Nat) : Pkg :=
  let r := reqOf p e
  match fallbackBar p e with
  | some k => logEvent p r.ctx (evStatus codeFallbackUnavailable) codeFallbackUnavailable (handleOf p e) (r.ctx + 256 * r.pen) (handleOf p e) k
  | none =>
    let m := (penOf p r.pen).fallback % 16
    let need := ceilDiv (r.hist.length + positionsOf p m) (pageSize p m) * gOf (poolOf p m)
    let p1 := closeResume (releasePages (leaveStep p e) e) e stOk
    let p2 := modPool p1 m fun o => { o with reserved := o.reserved + need }
    let p3 := modReq p2 e fun x =>
      { x with
        pen := m, fellBack := true, kvDone := 0, drafts := [], spec := min x.spec (positionsOf p m - 1)
        st := rqPrefill, prev := rqPrefill, reserved := need, nextDl := dlAfter p x.firstDl }
    let p4 := logEvent p3 r.ctx (evStatus codeRequestFellBack) codeRequestFellBack (handleOf p e) (r.ctx + 256 * m) (handleOf p e) m
    applyHeld (growBlocks { p4 with rq := { p4.rq with fellBack := inc64 p4.rq.fellBack } } e) e

/-- Apply the context's deadline policy (Table 9-5). -/
def applyPolicy (p : Pkg) (e : Nat) : Pkg :=
  let r := reqOf p e
  match (ctxOf p r.ctx).policy with
  | 1 => fallbackReq p e
  | 2 =>
    let p1 := logEvent p r.ctx (evStatus codeRequestAborted) codeRequestAborted (handleOf p e) (r.ctx + 256 * r.pen) (handleOf p e) 0
    endReq { p1 with rq := { p1.rq with aborted := inc64 p1.rq.aborted } } e stAbortedDeadline
  | _ => p

/-- What waits for the retirement of a request's step: a DRAINING request ends, a held policy acts, then held PAUSEs and APPENDs
(R189, R294, R301). -/
def retireReq (p : Pkg) (e : Nat) : Pkg :=
  let r := reqOf p e
  let p1 := modReq p e fun x => { x with inStep := false, heldPolicy := false }
  if r.st = rqDraining then endReq p1 e r.endStatus
  else
    let serving := decide (r.st = rqPrefill ∨ r.st = rqDecode ∨ r.st = rqSwapped)
    let p2 := if r.heldPolicy && serving then applyPolicy p1 e else p1
    applyHeld p2 e

/-! ### Admission (R288 to R291, R325, R328) -/

/-- A part of a request's page list lies in the context's host region: its own place there, or the shared part that the request still waits
for (R328). -/
def partInHost (p : Pkg) (e key : Nat) : Bool :=
  match tget .unheld (reqOf p e).parts key with
  | .host _ => true
  | .unheld => (poolOf p (reqOf p e).pen).copies.any fun k => decide (k.why = 6 ∧ k.entry = e ∧ key ∈ k.keys)
  | _ => false

/-- Whole shared pages of a prefix none of whose parts lies in the host region; none of another pen's pages is shared (R289, R328). -/
def sharedWhole (p : Pkg) (pe tokens n : Nat) : Nat :=
  let g := gOf (poolOf p n)
  if (reqOf p pe).pen ≠ n then 0
  else ((upto (tokens / pageSize p n)).filter fun i => (upto g).all fun k => !partInHost p pe (i * g + k)).length

/-- The prediction F of R289 for a request of a pen: what waits, its own steps, and the steps of those ahead. -/
def predictFirst (p : Pkg) (n prompt prefixTokens firstDl priority e : Nat) : Nat :=
  let x := penOf p n
  let w := if x.step.isSome then x.stepEnd - now p else 0
  let k := ceilDiv (prompt - prefixTokens) (p.rq.prefillSlots * positionsOf p n)
  let ahead := (eligibleOf p n).filter fun a =>
    servedBefore (reqOf p a).nextDl (reqOf p a).priority a (dlAfter p firstDl) priority e
  let q := sumL (ahead.map (slotsOf p)) / batchOf p n
  w + (k + q) * x.pred

/-- Checks 5 and 6 of Table 9-4 for the request held in an entry: the refusing status, if any. -/
def admitBar (p : Pkg) (e : Nat) : Option Nat :=
  let r := reqOf p e
  let n := r.pen
  let pe := r.prefixH % 4096
  let s := if r.prefixH = 0 then 0 else sharedWhole p pe r.prefixTokens n
  let need := (ceilDiv (r.promptTokens + positionsOf p n) (pageSize p n) - s) * gOf (poolOf p n)
  let f := predictFirst p n r.promptTokens r.prefixTokens r.firstDl r.priority e
  if freeAdmit (poolOf p n) < need then some stAdmitDeniedMem
  else if p.rq.timeAdmit &&
      ((decide (r.firstDl ≠ 0) && decide (r.firstDl < f)) ||
        (decide (r.interval ≠ 0) && decide (r.interval < (penOf p n).pred))) then
    some stAdmitDeniedTime
  else none

/-- The PREFIX tests: a live handle of the context, and PREFIX_TOKENS not above its KV_DONE (R288). -/
def prefixBar (p : Pkg) (c h tokens : Nat) : Option Nat :=
  if h = 0 then none
  else match entryOf p c h with
    | none => some stEpochStale
    | some pe => if (reqOf p pe).kvDone < tokens then some stLengthInvalid else none

/-- Count and record a refusal of check 5 or 6 (Tables 9-9 and 9-13). -/
def noteDenied (p : Pkg) (status : Nat) : Pkg :=
  if status = stAdmitDeniedMem then { p with rq := { p.rq with deniedMem := inc64 p.rq.deniedMem } }
  else if status = stAdmitDeniedTime then { p with rq := { p.rq with deniedTime := inc64 p.rq.deniedTime } }
  else p

/-- ADMIT_DENIED, at most once per context in 10,000 ticks (Table 9-13). -/
def logDenied (p : Pkg) (c n e status : Nat) : Pkg :=
  if mayLog (ctxOf p c).deniedLogAt (now p) then
    log (modCtx p c fun x => { x with deniedLogAt := some (now p) }) codeAdmitDenied c (c + 256 * n) (handleOf p e) status
  else p

/-- Share the leading pages of the PREFIX request: references to its parts, and copies back of parts in the host region (R328). -/
def sharePrefix (p : Pkg) (e : Nat) : Pkg :=
  let r := reqOf p e
  if r.prefixH = 0 then p
  else
    let pe := r.prefixH % 4096
    if (reqOf p pe).pen ≠ r.pen then p
    else
      let g := gOf (poolOf p r.pen)
      let keys := upto (ceilDiv r.prefixTokens (pageSize p r.pen) * g)
      let src := (reqOf p pe).parts
      let p1 := forAll keys (fun q k => match tget .unheld src k with
        | .frame f =>
          modReq (modPool q r.pen fun o => { o with tab := tmod {} o.tab f fun x => { x with refs := x.refs + 1 } }) e
            fun x => { x with parts := tset .unheld x.parts k (.frame f) }
        | .absent => modReq q e fun x => { x with parts := tset .unheld x.parts k .absent }
        | _ => q) p
      let hosts := keys.filter (partInHost p pe)
      let p2 := modReq p1 e fun x => { x with kvDone := r.prefixTokens }
      startCopy p2 e 6 hosts

/-- The decision for the request in an entry, once its pen is ACTIVE: refuse it, or take it in and read its prompt (R288 to R290). -/
def decideAdmit (p : Pkg) (e : Nat) : Pkg :=
  let r := reqOf p e
  let bar := match prefixBar p r.ctx r.prefixH r.prefixTokens with
    | some s => some s
    | none => admitBar p e
  match bar with
  | some s =>
    let p1 := if s = stAdmitDeniedMem ∨ s = stAdmitDeniedTime then logDenied (noteDenied p s) r.ctx r.pen e s
      else p
    refuseAdmit p1 e s
  | none =>
    let n := r.pen
    let pe := r.prefixH % 4096
    let s := if r.prefixH = 0 then 0 else sharedWhole p pe r.prefixTokens n
    let need := (ceilDiv (r.promptTokens + positionsOf p n) (pageSize p n) - s) * gOf (poolOf p n)
    let p1 := modPool p n fun o => { o with reserved := o.reserved + need }
    let p2 := modReq p1 e fun x =>
      { x with
        st := rqPrefill, prev := rqPrefill, reserved := need, nextDl := dlAfter p x.firstDl
        limit := x.promptTokens + x.maxNew, spec := min x.spec (positionsOf p n - 1) }
    let p3 := sharePrefix { p2 with rq := { p2.rq with admitted := inc64 p2.rq.admitted } } e
    let p4 := growBlocks p3 e
    let p5 := answer p4 r.ctx r.admitDesc stOk (handleOf p4 e) false false
    send p5 (.hostRead (ctxOf p r.ctx).fn (fieldAt r.admitDesc.raw 16 8) (4 * r.promptTokens))

end Sys2Proof.Machine
end

