-- ==== Sys2Proof/Machine/FabOps.lean ====
section
/-! DEFINITION. Shared operations of the Pack fabric: packets as bytes, routing, credits, transactions at their source,
store runs, fences of a SRC_ID and port records (R347 to R380). -/

namespace Sys2Proof.Machine

def portOf (p : Pkg) (n : Nat) : Port := tget {} p.fab.ports n
def laneOf (p : Pkg) (n : Nat) : Lane := tget {} p.fab.lanes n
def srcOf (p : Pkg) (c : Nat) : SrcSeq := tget {} p.fab.srcs c
def modFab (p : Pkg) (f : Fab → Fab) : Pkg := { p with fab := f p.fab }
def modPort (p : Pkg) (n : Nat) (f : Port → Port) : Pkg := { p with fab := { p.fab with ports := tmod {} p.fab.ports n f } }
def modLane (p : Pkg) (n : Nat) (f : Lane → Lane) : Pkg := { p with fab := { p.fab with lanes := tmod {} p.fab.lanes n f } }
def modSrc (p : Pkg) (n : Nat) (f : SrcSeq → SrcSeq) : Pkg := { p with fab := { p.fab with srcs := tmod {} p.fab.srcs n f } }

/-- GLB_CHIP: the plan's chip number, 0 without a plan. -/
def chipNo (p : Pkg) : Nat := match p.fab.plan with | some x => x.chip | none => 0

/-- GLB_EPOCH. -/
def epochOf (p : Pkg) : Nat := p.mgt.epoch

/-! ### Packets (R367, Tables 11-12 and 11-13) -/

/-- Bytes of payload a header calls for (R367). -/
def payloadLen (h : Hdr) : Nat :=
  match h.type with
  | 2 => 8 * (h.size + 1)
  | 3 => if h.atop = 5 then 16 else 8
  | 4 => 8 * (h.size + 1)
  | 6 => 8
  | _ => 0

/-- The 40 bytes of a header (Table 11-12). -/
def hdrBytes (h : Hdr) : Bytes :=
  toLE 1 (h.type + 16 * bitN h.flag + 32 * bitN h.fetch + 64 * bitN h.reinj) ++ toLE 1 (h.size + 32 * h.atop) ++
    toLE 1 (bitN h.signed + 2 * h.hops + 64 * h.level) ++ toLE 1 h.status ++ toLE 2 h.dst ++ toLE 2 h.src ++
    toLE 2 h.srcId ++ toLE 2 h.tag ++ toLE 1 h.runLen ++ toLE 1 h.runIdx ++ zeros 2 ++ toLE 4 h.seq ++ zeros 4 ++
    toLE 8 h.addr ++ toLE 8 h.epoch

/-- A whole packet with its trailer (R367). -/
def pktBytes (k : Pkt) : Bytes :=
  let b := hdrBytes k.h ++ k.data
  b ++ toLE 4 (crc32c b) ++ zeros 4

/-- The header that bytes hold (Table 11-12). -/
def hdrOf (b : Bytes) : Hdr :=
  let b0 := fieldAt b 0 1
  let b1 := fieldAt b 1 1
  let b2 := fieldAt b 2 1
  { type := bitsOf b0 3 0, flag := bitOf b0 4, fetch := bitOf b0 5, reinj := bitOf b0 6
    size := bitsOf b1 4 0, atop := bitsOf b1 7 5
    signed := bitOf b2 0, hops := bitsOf b2 5 1, level := bitsOf b2 6 6, status := fieldAt b 3 1
    dst := fieldAt b 4 2 % 4096, src := fieldAt b 6 2 % 4096, srcId := fieldAt b 8 2 % 512
    tag := fieldAt b 10 2 % 8192, runLen := fieldAt b 12 1, runIdx := fieldAt b 13 1
    seq := fieldAt b 16 4, addr := fieldAt b 24 8, epoch := fieldAt b 32 8 }

/-- A packet read from bytes: its payload is what lies between header and trailer. -/
def pktOf (b : Bytes) : Pkt := { h := hdrOf b, data := (b.drop 40).take (b.length - 48) }

/-- The CRC of a packet holds, its TYPE is not reserved, and its length is what its header calls for (R367). -/
def pktSound (b : Bytes) : Bool :=
  let h := hdrOf b
  decide (1 ≤ h.type ∧ h.type ≤ 6 ∧ b.length = 48 + payloadLen h) &&
    decide (fieldAt b (b.length - 8) 4 = crc32c (b.take (b.length - 8)))

/-- Check 3 of R368 but for the length of a run: no reserved field or encoding in a request. -/
def fieldsLegal (b : Bytes) : Bool :=
  let h := hdrOf b
  let store := decide (h.type = 2)
  let atomic := decide (h.type = 3)
  !bitOf (fieldAt b 0 1) 7 && !bitOf (fieldAt b 2 1) 7 && decide (h.status = 0) &&
    decide (fieldAt b 4 2 < 4096 ∧ fieldAt b 6 2 < 4096 ∧ fieldAt b 8 2 < 512 ∧ fieldAt b 10 2 < 8192) &&
    zeroAt b 14 2 && zeroAt b 20 4 && zeroAt b (b.length - 4) 4 &&
    decide (h.srcId ≤ 273 ∨ h.srcId = 511) &&
    (store || decide (h.runLen = 0 ∧ h.runIdx = 0)) &&
    (if atomic then decide (1 ≤ h.atop ∧ h.atop ≤ 5 ∧ h.size = 0) else decide (h.atop = 0)) &&
    (atomic || !h.fetch) && (store || atomic || (!h.flag && decide (h.seq = 0))) &&
    (!h.signed || (atomic && decide (h.atop = 2 ∨ h.atop = 3)))

/-- Check 3 of R368: what refuses a request for a reserved field or encoding. A RUN_LEN of 0, of all ones or above 32 is a length that
R14 to R16 refuse (log entry 13). -/
def hdrBar (b : Bytes) : Option Nat :=
  let h := hdrOf b
  let store := decide (h.type = 2)
  if !fieldsLegal b then some stFormatInvalid
  else if store && decide (h.runLen = 0 ∨ 32 < h.runLen) then some stLengthInvalid
  else if store && decide (h.runLen ≤ h.runIdx) then some stFormatInvalid
  else none

/-- No reserved field or encoding in a request (R368, check 3). -/
def hdrLegal (b : Bytes) : Bool := (hdrBar b).isNone

/-- The error value of R376. -/
def errValue (n : Nat) : Bytes := List.replicate n 0xEE

/-- The response to a request, with a status and, when it is OK, the data it returns (R367, R376). -/
def respPkt (p : Pkg) (h : Hdr) (status : Nat) (data : Bytes) : Pkt :=
  let type := if h.type = 1 then 4 else if h.type = 3 ∧ h.fetch = true then 6 else 5
  let n := if type = 4 then 8 * (h.size + 1) else if type = 6 then 8 else 0
  { h := { type := type, size := if type = 4 then h.size else 0, status := status, dst := h.src, src := h.dst,
           srcId := h.srcId, tag := h.tag, seq := h.seq, addr := h.addr, epoch := epochOf p }
    data := if status = stOk then data else errValue n }

/-! ### Links and credits (R348, R351, R359) -/

/-- The virtual channel of a header (R351). -/
def vcOf (h : Hdr) : Nat := (if h.type ≤ 3 then 0 else 2) + h.level

/-- Flits that the words of a packet take. -/
def flitsOf (b : Bytes) : Nat := ceilDiv b.length 152

/-- Credits of a VC that a port holds. -/
def credits (x : Port) (vc : Nat) : Nat := 768 - tget 0 x.credUsed vc

/-- A flit as it leaves (Table 11-2): with the last number received in order, a NACK where one is due, and one credit of a VC. -/
def flitBytes (fseq kind vc ack : Nat) (nack : Bool) (cred : Option Nat) (payload : Bytes) : Bytes :=
  let b := toLE 4 (fseq + 4096 * kind + 16384 * vc + 65536 * ack + 2 ^ 28 * bitN nack + 2 ^ 29 * cred.getD 0 + 2 ^ 31 * bitN cred.isSome) ++
    payload ++ zeros (152 - payload.length)
  b ++ toLE 4 (crc32c b)

/-- A request of a port and VC waits here for its line or for the run buffer: what its flits took is not free, so that the credits of the
VC are kept back until it goes on (R371, R379; log entry 31). -/
def vcHeld (p : Pkg) (n v : Nat) : Bool :=
  (p.fab.runWait.any fun r => decide (r.port = n ∧ vcOf r.pkt.h = v)) || p.fab.lineQueue.any fun e => decide (e.port = n ∧ vcOf e.pkt.h = v)

/-- A flit leaves a port; one credit owed to the peer goes with it (R348, R351). -/
def txFlit (p : Pkg) (n : Nat) (nack : Bool) (f : SentFlit) : Pkg :=
  let x := portOf p n
  let c := (upto 4).find? fun v => decide (0 < tget 0 x.credOwed v) && !vcHeld p n v
  send (modPort p n fun y => match c with
    | some v => { y with credOwed := tset 0 y.credOwed v (tget 0 y.credOwed v - 1) }
    | none => y) (.flit n (flitBytes f.fseq f.kind f.vc ((x.rxNext + 4095) % 4096) nack c f.payload))

/-- An idle flit leaves a port: it carries the number of the next data or control flit and is not kept (R348). -/
def txIdle (p : Pkg) (n : Nat) (nack : Bool) : Pkg := txFlit p n nack { fseq := (portOf p n).txNext, kind := 1, payload := [] }

/-- Idle flits return the credits that a port owes and no longer keeps back (R351). -/
def payCredits (p : Pkg) (n : Nat) : Pkg :=
  forAll (upto (sumL ((upto 4).map fun v => if vcHeld p n v then 0 else tget 0 (portOf p n).credOwed v))) (fun q _ => txIdle q n false) p

/-- The ports by which requests came that wait for their line or for the run buffer. -/
def heldPorts (p : Pkg) : List Nat :=
  (upto 16).filter fun n => (p.fab.runWait.any fun r => decide (r.port = n)) || p.fab.lineQueue.any fun e => decide (e.port = n)

/-- A data or control flit leaves a port for the first time: it takes the next number and is kept for replay (R348, R349). -/
def newFlit (p : Pkg) (n kind vc : Nat) (payload : Bytes) (pkt : Option Bytes) : Pkg :=
  let x := portOf p n
  let f : SentFlit := { fseq := x.txNext, kind := kind, vc := vc, payload := payload, pkt := pkt }
  txFlit (modPort p n fun y =>
    { y with
      txNext := (y.txNext + 1) % 4096, txFlits := inc64 y.txFlits, sent := y.sent ++ [f]
      ackAt := if y.sent.isEmpty then now p else y.ackAt }) n false f

/-- Control records that wait at a port leave while fewer than 1,024 flits are unacknowledged (R349). -/
def drainControls (p : Pkg) (n : Nat) : Pkg :=
  let x := portOf p n
  let k := 1024 - x.sent.length
  forAll (x.controls.take k) (fun q r => newFlit q n 2 0 r none) (modPort p n fun y => { y with controls := y.controls.drop k })

/-- A port sends a control record (R348, R353). -/
def sendControl (p : Pkg) (n : Nat) (rec : Bytes) : Pkg :=
  drainControls (send (modPort p n fun x => { x with controls := x.controls ++ [rec] }) (.control n rec)) n

/-- The flits of a packet that are still to send leave as far as credit and replay room go (R349, R351), and whether that is all. -/
def sendSome (p : Pkg) (n : Nat) (b : Bytes) : Pkg × Bool :=
  let x := portOf p n
  let vc := vcOf (hdrOf b)
  let fl := chunks 152 (flitsOf b) b
  let k := tget 0 x.begun vc
  let m := min (fl.length - k) (min (credits x vc) (1024 - x.sent.length))
  let whole := decide (k + m = fl.length)
  let p1 := modPort p n fun y =>
    { y with credUsed := tset 0 y.credUsed vc (tget 0 y.credUsed vc + m), begun := tset 0 y.begun vc (if whole then 0 else k + m) }
  let p2 := forAll ((upto m).zip ((fl.drop k).take m)) (fun q e =>
    newFlit q n 0 vc e.2 (if k + e.1 + 1 = fl.length then some b else none)) p1
  (if whole then send p2 (.packet n b) else p2, whole)

/-- Send what waits at a port and has credit and room: control records first, then packets, each VC in order. -/
def drainPort (p : Pkg) (n : Nat) : Pkg :=
  let p1 := drainControls p n
  let r := (portOf p1 n).waiting.foldl (fun (a : Pkg × List Bytes × List Nat) b =>
      let (q, left, held) := a
      if vcOf (hdrOf b) ∈ held then (q, left ++ [b], held)
      else match sendSome q n b with
        | (q1, true) => (q1, left, held)
        | (q1, false) => (q1, left ++ [b], vcOf (hdrOf b) :: held)) (p1, [], [])
  modPort r.1 n fun y => { y with waiting := r.2.1 }

/-- A packet of which a port has sent some flits: the first of its VC. -/
def isBegun (x : Port) (b : Bytes) : Bool :=
  decide (0 < tget 0 x.begun (vcOf (hdrOf b)) ∧ x.waiting.find? (fun c => decide (vcOf (hdrOf c) = vcOf (hdrOf b))) = some b)

/-- Change one byte of a packet on its way, its check bytes with it: a packet whose CRC held still has one that holds, and one whose CRC
failed has one that fails (R361, R367). -/
def patchByte (b : Bytes) (i v : Nat) : Bytes :=
  let n := b.length - 8
  let old := b.take n
  let new := old.take i ++ BitVec.ofNat 8 v :: old.drop (i + 1)
  new ++ toLE 4 ((fieldAt b n 4 ^^^ crc32c old) ^^^ crc32c new) ++ b.drop (n + 4)

/-- A packet with one hop fewer (R360), at level 1 (R351), or marked REINJECTED (R374). -/
def lessHop (b : Bytes) : Bytes := patchByte b 2 (fieldAt b 2 1 - 2)
def atLevel1 (b : Bytes) : Bytes := if bitOf (fieldAt b 2 1) 6 then b else patchByte b 2 (fieldAt b 2 1 + 64)
def asReinjected (b : Bytes) : Bytes := if bitOf (fieldAt b 0 1) 6 then b else patchByte b 0 (fieldAt b 0 1 + 64)

/-- Two requests combine: both non-fetching unflagged ADD, or MAX of the same signedness, with the same DST, ADDRESS and EPOCH
(R380). -/
def combinable (a b : Hdr) : Bool :=
  let plain (h : Hdr) : Bool := decide (h.type = 3) && !h.flag && !h.fetch
  plain a && plain b && decide (a.atop = b.atop ∧ (a.atop = 1 ∨ (a.atop = 3 ∧ a.signed = b.signed))) &&
    decide (a.dst = b.dst ∧ a.addr = b.addr ∧ a.epoch = b.epoch)

/-- Read 64 bits as signed. -/
def signed64 (n : Nat) : Int := if n < 2 ^ 63 then n else (n : Int) - 2 ^ 64

/-- One 8-byte atomic: the new value from the old one and the operands (R368). -/
def atomVal (atop : Nat) (sgn : Bool) (old a b : Nat) : Nat :=
  let lt (x y : Nat) : Bool := if sgn then decide (signed64 x < signed64 y) else decide (x < y)
  match atop with
  | 1 => (old + a) % 2 ^ 64
  | 2 => if lt a old then a else old
  | 3 => if lt old a then a else old
  | 4 => a
  | 5 => if old = a then b else old
  | _ => old

/-- A free transaction tag from a number on. -/
def freeTag (used : List Nat) : Nat → Nat → Nat
  | 0, t => t
  | k + 1, t => if t ∈ used then freeTag used k ((t + 1) % 8192) else t

/-- The link that a port of this package uses (Table 11-7). -/
def linkOf (p : Pkg) (n : Nat) : Option PlanLink :=
  match p.fab.plan with
  | none => none
  | some x => x.links.find? fun l => decide ((l.a = x.chip ∧ l.pa = n) ∨ (l.b = x.chip ∧ l.pb = n))

/-- The far chip and port of a port's link. -/
def farEnd (p : Pkg) (n : Nat) : Option (Nat × Nat) :=
  match linkOf p n with
  | none => none
  | some l => if l.a = chipNo p ∧ l.pa = n then some (l.b, l.pb) else some (l.a, l.pa)

/-- Leaving by a port crosses a link direction that the plan marks DATELINE (R351). -/
def dateline (p : Pkg) (n : Nat) : Bool :=
  match linkOf p n with
  | none => false
  | some l => if l.a = chipNo p ∧ l.pa = n then l.dlAB else l.dlBA

/-- The VALID next-hop ports of the route to a chip that are UP (R357, R359). -/
def upPorts (p : Pkg) (dst : Nat) : List Nat :=
  match p.fab.plan with
  | none => []
  | some x =>
    let e := tget 0 x.routes dst
    ((upto 4).filter fun i => bitOf e (16 + i)).map (fun i => bitsOf e (4 * i + 3) (4 * i)) |>.filter
      fun n => decide ((portOf p n).st = 4)

/-- The port a packet leaves by: most credits for its VC, then the lower number (R359). -/
def choosePort (p : Pkg) (h : Hdr) : Option Nat :=
  firstBy (fun a b => decide (credits (portOf p b) (vcOf h) < credits (portOf p a) (vcOf h)) ||
    (decide (credits (portOf p a) (vcOf h) = credits (portOf p b) (vcOf h)) && decide (a < b))) (upPorts p h.dst)

/-- The combining proxy absorbs a waiting request into a new one at a transit router (R380): the combined request leaves under
SRC_ID 273 of this package with a SEQ and TAG of its own. -/
def combineAt (p : Pkg) (n : Nat) (b0 : Bytes) : Option Pkg :=
  let x := portOf p n
  let k := pktOf b0
  if !p.fab.combineEn ∨ 8192 ≤ p.fab.txns.length ∨ pktSound b0 = false then none
  else match x.waiting.find? fun b => combinable (hdrOf b) k.h && pktSound b && !isBegun x b with
    | none => none
    | some b =>
      let w := pktOf b
      let old := p.fab.combined.find? fun c => decide (w.h.srcId = 273 ∧ w.h.src = chipNo p ∧ w.h.tag = c.tag)
      let val := atomVal k.h.atop k.h.signed (leNat w.data) (leNat k.data) 0
      let count := sumL (p.fab.combined.map fun c => c.absorbed.length)
      match old with
      | some c =>
        if 1024 ≤ count then none
        else
          let k2 : Pkt := { w with data := toLE 8 val }
          some (modFab (modPort p n fun y => { y with waiting := y.waiting.map fun z => if z = b then pktBytes k2 else z })
            fun f => { f with
              combinedCount := inc64 f.combinedCount
              combined := f.combined.map fun d => if d.tag = c.tag then { d with absorbed := d.absorbed ++ [k] } else d
              txns := f.txns.map fun t => if t.pkt.h.tag = c.tag then { t with pkt := k2 } else t })
      | none =>
        if 1023 ≤ count then none
        else
          let tag := freeTag (p.fab.txns.map fun t => t.pkt.h.tag) (p.fab.txns.length + 1) p.fab.nextTag
          let seq := (tget 0 p.fab.seqLast w.h.dst + 1) % 2 ^ 32
          let k2 : Pkt := { h := { w.h with src := chipNo p, srcId := 273, tag := tag, seq := seq }, data := toLE 8 val }
          some (modFab (modPort p n fun y => { y with waiting := y.waiting.map fun z => if z = b then pktBytes k2 else z })
            fun f => { f with
              combinedCount := satAdd sat64 f.combinedCount 2
              combined := f.combined ++ [⟨tag, [w, k]⟩]
              nextTag := (tag + 1) % 8192
              seqLast := tset 0 f.seqLast w.h.dst seq
              txns := f.txns ++ [{ pkt := k2, by_ := .proxy, at_ := now p }] })

/-- Put a packet on a port, raising its level when the link direction is a DATELINE (R351). -/
def putPort (p : Pkg) (n : Nat) (b : Bytes) : Pkg :=
  match combineAt p n b with
  | some q => q
  | none =>
    let b2 := if dateline p n then atLevel1 b else b
    drainPort (modPort p n fun x => { x with waiting := x.waiting ++ [b2] }) n

/-- A request by its TYPE (Table 11-13). -/
def isRequest (h : Hdr) : Bool := decide (1 ≤ h.type ∧ h.type ≤ 3)

/-- A request under way through this package: its key, and the port it came by (R378). -/
def wayKey (h : Hdr) : Nat := h.src * 8192 + h.tag
def noteWay (p : Pkg) (inPort : Nat) (h : Hdr) : Pkg :=
  if isRequest h ∧ inPort < 16 then modFab p fun f => { f with cameBy := tset 0 f.cameBy (wayKey h) (inPort + 1) } else p

/-- Hand a packet to its next port, or to the package itself; a request with no UP port is answered with REMOTE_TIMEOUT on the
path it came by, and a response with none is discarded (R359, R378). -/
def routeBytes (p : Pkg) (inPort : Nat) (b : Bytes) : Pkg :=
  let h := hdrOf b
  if h.dst = chipNo p then send p (.packet 16 b)
  else match choosePort p h with
    | some n => putPort (noteWay p inPort h) n b
    | none =>
      if isRequest h then
        let p1 := modFab p fun f => { f with unreachable := inc64 f.unreachable }
        let r := pktBytes (respPkt p1 h stRemoteTimeout [])
        if inPort = 16 then send p1 (.packet 16 r) else putPort p1 inPort r
      else p

/-- Route a packet of this package. -/
def route (p : Pkg) (inPort : Nat) (k : Pkt) : Pkg := routeBytes p inPort (pktBytes k)

/-! ### Transactions at their source (R369, R371, R377) -/

/-- A store or an atomic: it has a SEQ and obeys the flag rule. -/
def isWrite (h : Hdr) : Bool := decide (h.type = 2 ∨ h.type = 3)

/-- A load or a fetching atomic: it returns data and has the load timeout (R377). -/
def isFetch (h : Hdr) : Bool := decide (h.type = 1) || (decide (h.type = 3) && h.fetch)

/-- A waiter may leave: within the limit of 8,192, and, when flagged, with no earlier store or atomic of its SRC_ID outstanding
(R369, R371). -/
def mayIssue (p : Pkg) (w : Waiter) : Bool :=
  decide (p.fab.txns.length + w.pkts.length ≤ 8192) &&
    match w.pkts with
    | [] => true
    | k :: _ => !k.h.flag || p.fab.txns.all fun t => !(isWrite t.pkt.h && decide (t.pkt.h.srcId = k.h.srcId))

/-- Give one packet its tag and SEQ, make it outstanding and route it (R369). -/
def issueOne (p : Pkg) (by_ : Issuer) (cacheable : Bool) (k : Pkt) : Pkg :=
  let tag := freeTag (p.fab.txns.map fun t => t.pkt.h.tag) (p.fab.txns.length + 1) p.fab.nextTag
  let seq := if isWrite k.h then (tget 0 p.fab.seqLast k.h.dst + 1) % 2 ^ 32 else 0
  let k2 : Pkt := { k with h := { k.h with tag := tag, seq := seq, src := chipNo p, epoch := epochOf p, hops := 31 } }
  let p1 := modFab p fun f =>
    { f with
      nextTag := (tag + 1) % 8192
      seqLast := if isWrite k.h then tset 0 f.seqLast k.h.dst seq else f.seqLast
      txns := f.txns ++ [{ pkt := k2, by_ := by_, at_ := now p, cacheable := cacheable }] }
  route p1 16 k2

/-- Let every waiter go that may, each SRC_ID in order (R371). -/
def pumpWaiters (p : Pkg) : Pkg :=
  let r := p.fab.waiters.foldl (fun (a : Pkg × List Waiter × List Nat) w =>
      let (q, left, held) := a
      let id := match w.pkts with | k :: _ => k.h.srcId | [] => 0
      if id ∈ held ∨ mayIssue q w = false then (q, left ++ [w], id :: held)
      else (forAll w.pkts (fun x k => issueOne x w.by_ w.cacheable k) q, left, held))
    (modFab p fun f => { f with waiters := [] }, [], [])
  modFab r.1 fun f => { f with waiters := r.2.1 ++ f.waiters }

/-- Issue a load, a store run or an atomic of this package (R369). DESIGN CHOICE: a liveness load waits before the others (log entry
11). -/
def issue (p : Pkg) (by_ : Issuer) (cacheable : Bool) (ks : List Pkt) : Pkg :=
  let w : Waiter := { pkts := ks, by_ := by_, cacheable := cacheable }
  pumpWaiters (modFab p fun f => { f with waiters := if by_ = .liveness then w :: f.waiters else f.waiters ++ [w] })

/-- A global address (R363). -/
def gaddr (chip window off : Nat) : Nat := chip * 2 ^ 52 + window * 2 ^ 48 + off

/-- The pieces of a store: at most 256 bytes each, as one run (R371). -/
def storeRun (srcId chip addr : Nat) (flag : Bool) (data : Bytes) : List Pkt :=
  let pieces := chunks 256 (ceilDiv data.length 256) data
  let n := pieces.length
  (pieces.zip (upto n)).map fun e =>
    { h := { type := 2, flag := flag, size := e.1.length / 8 - 1, dst := chip, srcId := srcId, runLen := n, runIdx := e.2,
             addr := addr + 256 * e.2 }
      data := e.1 }

/-- A store of the firmware to another package or to itself. -/
def fwStore (p : Pkg) (srcId chip addr : Nat) (flag : Bool) (data : Bytes) : Pkg :=
  issue p .firmware false (storeRun srcId chip addr flag data)

/-- A SEQ lies below another, modulo 2^32 (R369, R372). -/
def seqBelow (a b : Nat) : Bool := decide (a ≠ b ∧ (b + 2 ^ 32 - a) % 2 ^ 32 < 2 ^ 31)

/-- The highest SEQ issued to each destination with outstanding stores or atomics of a SRC_ID: what a fence records (R372). -/
def fenceMarks (p : Pkg) (srcId : Nat) : List (Nat × Nat) :=
  let own := p.fab.txns.filter fun t => isWrite t.pkt.h && decide (t.pkt.h.srcId = srcId)
  (own.map fun t => t.pkt.h.dst).eraseDups.map fun d =>
    (d, match (own.filter fun t => decide (t.pkt.h.dst = d)).map fun t => t.pkt.h.seq with
        | [] => 0
        | s :: l => l.foldl (fun m x => if seqBelow m x then x else m) s)

/-- A fence's condition: for every destination it recorded, the lowest unacknowledged SEQ is above the recorded value (R372). -/
def fenceMet (p : Pkg) (f : FabFence) : Bool :=
  f.marks.all fun m => p.fab.txns.all fun t =>
    !(isWrite t.pkt.h && decide (t.pkt.h.dst = m.1)) || seqBelow m.2 t.pkt.h.seq

/-! ### The remote-read cache and the firmware's loads (R375) -/

/-- Put a line at the front of the remote-read cache; it holds 64 MiB of lines of 64 bytes (R375). -/
def rrcPut (l : List (Nat × Bytes)) (line : Nat) (b : Bytes) : List (Nat × Bytes) :=
  ((line, b) :: l.filter fun e => decide (e.1 ≠ line)).take 1048576

/-- The lines that a load reads, in part or whole. -/
def rrcLines (a len : Nat) : List Nat := (upto ((a + len - 1) / 64 + 1 - a / 64)).map (· + a / 64)

/-- The bytes of a load whose every line is cached. -/
def rrcRead (p : Pkg) (a len : Nat) : Option Bytes :=
  let get (l : Nat) : Option Bytes := (p.fab.rrc.find? fun e => decide (e.1 = l)).map Prod.snd
  if (rrcLines a len).all fun l => (get l).isSome then
    some ((((rrcLines a len).flatMap fun l => (get l).getD []).drop (a % 64)).take len)
  else none

/-- The lines of a load become the ones used last. -/
def rrcTouch (p : Pkg) (a len : Nat) : Pkg :=
  modFab p fun f => { f with
    rrc := (rrcLines a len).foldl (fun r l => match r.find? fun e => decide (e.1 = l) with | some e => rrcPut r l e.2 | none => r) f.rrc }

/-- What a load of the firmware at an address brought, until the next load of that address (R375 to R377). -/
def setRead (p : Pkg) (a : Nat) (d : Option (Option Bytes)) : Pkg :=
  modFab p fun f => { f with fwReads := (match d with | some x => [(a, x)] | none => []) ++ f.fwReads.filter fun e => decide (e.1 ≠ a) }

/-- One load of the firmware for the package: of at most 256 bytes, marked cacheable or not; a cached one returns the cached bytes and sends
nothing (R369, R375). -/
def fwLoad (p : Pkg) (cacheable : Bool) (chip window off len : Nat) : Pkg :=
  let a := gaddr chip window off
  let h : Hdr := { type := 1, size := ceilDiv len 8 - 1, dst := chip, srcId := 272, addr := a }
  match if cacheable then rrcRead p a len else none with
  | some b => setRead (rrcTouch p a len) a (some (some b))
  | none => issue (setRead p a none) .firmware cacheable [{ h := h }]

/-- The loads that read a range of a peer's window, none of them over a boundary of 256 bytes: where each begins, and its bytes (R368,
R369). -/
def loadPieces (off len : Nat) : List (Nat × Nat) :=
  (upto (ceilDiv (off % 256 + len) 256)).map fun i =>
    let lo := max off (256 * (off / 256 + i))
    (lo, min (off + len) (256 * (off / 256 + i + 1)) - lo)

/-- The loads of the firmware that read a range of a peer's window. -/
def fwLoads (p : Pkg) (cacheable : Bool) (chip window off len : Nat) : Pkg :=
  forAll (loadPieces off len) (fun q e => fwLoad q cacheable chip window e.1 e.2) p

/-- What a fetch brings that read a range of a peer's window by the firmware's loads: nothing where one of them raised a fault, else the
bytes that they brought, a cached load the cached ones; the command that ends the fetch gives the bytes of loads not seen (R375 to
R377). -/
def readBytes (p : Pkg) (chip window off len : Nat) (data : Option Bytes) : Option Bytes :=
  let ps := loadPieces off len
  let got (e : Nat × Nat) : Option (Option Bytes) := (p.fab.fwReads.find? fun r => decide (r.1 = gaddr chip window e.1)).map Prod.snd
  if ps.any fun e => decide (got e = some none) then none
  else if data.isNone && !ps.all fun e => (got e).isSome then none
  else
    let b := data.getD []
    some ((ps.flatMap fun e => match got e with | some (some c) => c.take e.2 | _ => (b.drop (e.1 - off)).take e.2) ++ b.drop len)

/-- The fetch has ended: what its loads brought is taken. -/
def dropReads (p : Pkg) (chip window off len : Nat) : Pkg :=
  modFab p fun f => { f with
    fwReads := f.fwReads.filter fun r => !decide (gaddr chip window off ≤ r.1 ∧ r.1 < gaddr chip window (off + len)) }

/-- A member of a pen's group table: Table 5-19 gives the chip in bits [11:0] and VALID in bit 31. -/
def memberChip (x : Pen) (m : Nat) : Option Nat :=
  let e := tget 0 x.group m
  if m < x.groupSize ∧ bitOf e 31 then some (e % 4096) else none

/-- The chips of the VALID members of a pen's group table, with their member numbers. -/
def members (x : Pen) : List (Nat × Nat) :=
  (upto x.groupSize).filterMap fun m => (memberChip x m).map fun c => (m, c)

/-- The member number of a chip in a pen's group. -/
def memberOf (x : Pen) (chip : Nat) : Option Nat := ((members x).find? fun e => decide (e.2 = chip)).map Prod.fst

/-- This package's member number of a pen: its image's MEMBER. -/
def ownMember (x : Pen) : Nat := match x.image with | some i => i.member | none => 0

end Sys2Proof.Machine
end

