-- ==== Sys2Proof/Machine/PenOps.lean ====
section
/-! DEFINITION. Shared operations of pens: array sets, placement, needs and predictions, the conditions of a pen's state, the
end of a step by a fault, group fences, pen resets, Hound bindings ended, and array quarantine (R170 to R189, R247, R384,
R418, R434, R438). -/

namespace Sys2Proof.Machine

/-! ### Array sets (R108, R175) -/

/-- The quadrant of an array (R30). -/
def arrayQuad (a : Nat) : Nat := a / 64

/-- Usable arrays of the free pool in a quadrant, ascending. -/
def freeIn (p : Pkg) (q : Nat) : List Nat :=
  ((upto 64).map (· + 64 * q)).filter fun a => decide ((arrOf p a).pen = 0) && arrayUsable p a

/-- The array the firmware takes next: the lowest of the quadrant with the most usable free arrays (R175). -/
def chooseOne (p : Pkg) : Option Nat :=
  let sizes := (upto 4).map fun q => (q, (freeIn p q).length)
  match firstBy (fun a b => decide (b.2 < a.2)) sizes with
  | some (q, _) => (freeIn p q).head?
  | none => none

/-- Give an array to a pen's set; local SRAM written for another pen is zeroed (R108). -/
def takeArray (p : Pkg) (n a : Nat) : Pkg :=
  modPen (modArr p a fun x =>
      { x with
        pen := n + 1, served := n + 1
        data := if x.served ≠ 0 ∧ x.served ≠ n + 1 then { x.data with sram := [] } else x.data }) n
    fun x => { x with replace := true }

/-- Take arrays for a pen while its set is short and the pool has one; the count bounds them. -/
def fillSet (p : Pkg) (n : Nat) : Nat → Pkg
  | 0 => p
  | k + 1 =>
    if (setOf p n).length < (penOf p n).arrays then
      match chooseOne p with
      | some a => fillSet (takeArray p n a) n k
      | none => p
    else p

/-- Return a pen's set to the free pool. -/
def freeSet (p : Pkg) (n : Nat) : Pkg :=
  forAll (setOf p n) (fun q a => modArr q a fun x => { x with pen := 0, runs := [], active := 0, saved := none }) p

/-! ### Needs and budgets (R170, R174, R179) -/

/-- Bytes of a fold save area (R179). -/
def saveArea : Nat := 1728 * 1024

/-- The staging need (R170). -/
def stagingNeed (i : Image) : Nat :=
  16 * i.words.length + i.consts.length +
    sumL ((i.relocs.filter fun r => decide (r.cls = 1)).map fun r => roundUp r.bytes 4096) + i.retainBytes

/-- The DRAM need (R170). -/
def dramNeed (i : Image) : Nat :=
  sumL ((i.relocs.filter fun r => decide (r.cls = 0 ∧ r.kind ≠ 3)).map fun r => roundUp r.bytes 2097152)

/-- One budget summed over enabled pens, with a value in place of the pen's own (R174). -/
def budgetSum (p : Pkg) (n v : Nat) (f : Pen → Nat) : Nat :=
  sumL (((enabledPens p).filter fun m => decide (m ≠ n)).map fun m => f (penOf p m)) + v

/-- A pen's budgets, with those of the other enabled pens, stay within the package (R174). -/
def budgetsFit (p : Pkg) (n : Nat) (x : Pen) : Bool :=
  decide (budgetSum p n x.arrays (·.arrays) ≤ 256 ∧ budgetSum p n x.stageMib (·.stageMib) ≤ 512 ∧
    budgetSum p n x.dramMib (·.dramMib) ≤ 884736 ∧ budgetSum p n x.nvShards (·.nvShards) ≤ 256)

/-! ### Shards and replicas (R159, R181, R233, R241) -/

/-- The slot that a pen has claimed for a shard list entry (R233). -/
def claimOf (p : Pkg) (n : Nat) (e : ShardEnt) : Option (Nat × Slot) :=
  p.nvw.slots.find? fun s => decide (s.2.claim = n + 1 ∧ s.2.shard = e.shard ∧ s.2.length = e.length ∧ s.2.digest = e.digest)

/-- The entries of a chain, from its first up to LAST (R160). -/
def chainFrom (ss : List StreamEnt) (i : Nat) : List StreamEnt :=
  let rest := ss.drop i
  match rest.findIdx? (·.last) with
  | some k => rest.take (k + 1)
  | none => rest

/-- A replica entry serves a shard list entry, its tier being enabled (R241). -/
def replicaUsable (p : Pkg) (e : ShardEnt) (r : Replica) : Bool :=
  decide (r.st = 1 ∧ r.shard = e.shard ∧ r.length = e.length ∧ r.digest = e.digest) &&
    ((decide (r.kind = 1) && bitOf p.nvw.sledCtrl 17) || (decide (r.kind = 2) && bitOf p.nvw.sledCtrl 16))

/-- One more ring of chips around those reached, over the plan's links. -/
def reachRing (links : List PlanLink) (seen : List Nat) : List Nat :=
  (links.flatMap fun l => (if l.a ∈ seen then [l.b] else []) ++ (if l.b ∈ seen then [l.a] else [])).eraseDups.filter
    fun c => decide (c ∉ seen)

/-- Hops to a chip over the plan's links; the fuel bounds the distance. -/
def hopsTo (links : List PlanLink) (dst : Nat) : Nat → List Nat → Nat → Nat
  | 0, _, _ => 4096
  | k + 1, seen, d =>
    if dst ∈ seen then d
    else
      let ring := reachRing links seen
      if ring.isEmpty then 4096 else hopsTo links dst k (seen ++ ring) (d + 1)

/-- The rack of a chip in the plan. -/
def rackOf (x : Plan) (c : Nat) : Nat := match x.chips.find? fun e => decide (e.chip = c) with | some e => e.rack | none => 256

/-- The key of the order of preference among replicas: peers before hosts; same rack, fewest hops, lowest chip; among hosts the
entry index (R181, R241). An entry whose KIND is 0 by now keeps the place it had. -/
def replicaRank (p : Pkg) (i : Nat) (r : Replica) : List Nat :=
  if (if r.kind = 0 then r.was else r.kind) = 1 then
    match p.fab.plan with
    | some x => [0, if rackOf x r.chip = rackOf x x.chip then 0 else 1, hopsTo x.links r.chip x.chips.length [x.chip] 0, r.chip, i]
    | none => [0, 1, 4096, r.chip, i]
  else [1, 0, 0, 0, i]

/-- Lexicographic order of keys. -/
def lexLt : List Nat → List Nat → Bool
  | [], [] => false
  | [], _ => true
  | _, [] => false
  | a :: s, b :: t => decide (a < b) || (decide (a = b) && lexLt s t)

/-- The usable replicas of a shard list entry in the order of preference (R181, R241). -/
def replicasFor (p : Pkg) (e : ShardEnt) : List Nat :=
  (sortBy (fun a b => lexLt (replicaRank p a.1 a.2) (replicaRank p b.1 b.2))
    (p.nvw.replicas.filter fun x => replicaUsable p e x.2)).map Prod.fst

/-- The usable replica of a shard list entry that comes next after one in the order of preference, whatever has become of that one
(R245, Table 7-5). -/
def replicaAfter (p : Pkg) (e : ShardEnt) (r : Nat) : Option Nat :=
  let k := replicaRank p r (tget {} p.nvw.replicas r)
  (replicasFor p e).find? fun x => lexLt k (replicaRank p x (tget {} p.nvw.replicas x))

/-- A shard list entry has a VERIFIED claimed slot on a usable stack, whose Sled engine serves it (R235, R247). -/
def shardLocal (p : Pkg) (n : Nat) (e : ShardEnt) : Bool :=
  match claimOf p n e with
  | some (s, x) => decide (x.st = nvVerified) && nvUsable p (s / 32) && !(tget false p.glb.engineLost (16 + s / 32))
  | none => false

/-- Every usable replica has failed to give a block of the pen's slot of a shard list entry (R246). -/
def isDry (p : Pkg) (n : Nat) (e : ShardEnt) : Bool :=
  match claimOf p n e with
  | some (k, _) => decide (k ∈ p.nvw.dry)
  | none => false

/-- Every shard of the pen has a VERIFIED claimed slot, or a usable replica that gives its bytes (R246, R247). -/
def shardsHeld (p : Pkg) (n : Nat) : Bool :=
  match (penOf p n).image with
  | none => true
  | some i => i.shards.all fun e => shardLocal p n e || (!(replicasFor p e).isEmpty && !isDry p n e)

/-! ### Placement (R178, R179) -/

/-- Segments of an affinity group. -/
def groupSegs (i : Image) (g : Nat) : List Nat :=
  (upto i.segs.length).filter fun s => decide ((i.segs.getD s {}).affinity = g)

/-- The Sled channels of a segment, each with its chain's first entry. -/
def sledChans (i : Image) (s : Nat) : List ChanEnt :=
  let d := i.segs.getD s {}
  ((i.chans.drop d.chanFirst).take d.chanCount).filter fun c => decide (c.feeder = 1)

/-- The first entries of the chains that the Sled channels of a segment follow, the stream overrides of its RUN entries among them
(R162, R163). -/
def sledChains (i : Image) (s : Nat) : List Nat :=
  let cs := sledChans i s
  cs.map (·.stream) ++ (i.variants.filter fun v => decide (v.kind = 4 ∧ v.seg = s)).flatMap fun v =>
    (cs.filter fun c => decide (v.overrides.getD c.chan 0 ≠ 0)).map fun c => v.overrides.getD c.chan 0 - 1

/-- Shard list entries that the Sled channels of a group read. -/
def groupShards (i : Image) (g : Nat) : List ShardEnt :=
  (((groupSegs i g).flatMap (sledChains i)).flatMap fun c =>
    (chainFrom i.streams c).map fun e => i.shards.getD e.source {}).eraseDups

/-- Bytes of the pen's claimed slots in a quadrant for shards that a group reads, each slot once; a shard that is SLOWER now counts
for no quadrant (R178). -/
def groupBytes (p : Pkg) (n : Nat) (i : Image) (g q : Nat) : Nat :=
  let slots := (((groupShards i g).filter (shardLocal p n)).filterMap fun e => claimOf p n e).eraseDups
  sumL ((slots.filter fun s => decide (s.1 / 64 = q)).map fun s => s.2.length)

/-- Map the affinity groups to quadrants: group and quadrant pairs (R178, pass 1). -/
def mapGroups (p : Pkg) (n : Nat) (i : Image) : List (Nat × Nat) :=
  let gs := sortBy (fun a b => decide ((groupSegs i b).length < (groupSegs i a).length)) (upto 4)
  let usable (q : Nat) : Nat := ((setOf p n).filter fun a => decide (arrayQuad a = q)).length
  gs.foldl (fun acc g =>
    let left := (upto 4).filter fun q => !(acc.any fun e => decide (e.2 = q))
    let better (a b : Nat) : Bool :=
      decide (groupBytes p n i g b < groupBytes p n i g a) ||
        (decide (groupBytes p n i g a = groupBytes p n i g b) && decide (usable b < usable a))
    match firstBy better left with
    | some q => acc ++ [(g, q)]
    | none => acc) []

/-- The quadrant of a group in such a map. -/
def quadIn (m : List (Nat × Nat)) (g : Nat) : Nat := match m.find? fun e => decide (e.1 = g) with | some e => e.2 | none => 0

/-- Place segments, ascending, on the first free array of the rings that a function gives for each; pairs of segment and
array. -/
def placePass (set : List Nat) (rings : Nat → List (List Nat)) (acc : List (Nat × Nat)) (segs : List Nat) : List (Nat × Nat) :=
  segs.foldl (fun acc s =>
    if acc.any fun e => decide (e.1 = s) then acc
    else
      let free (r : List Nat) : Option Nat :=
        set.find? fun a => decide (arrayQuad a ∈ r) && !(acc.any fun e => decide (e.2 = a))
      match (rings s).findSome? free with
      | some a => acc ++ [(s, a)]
      | none => acc) acc

/-- Fold the leftover segments (R179). -/
def foldLeft (i : Image) (acc : List (Nat × Nat)) (segs : List Nat) : List (Nat × Nat) :=
  let aff (s : Nat) : Nat := (i.segs.getD s {}).affinity
  segs.foldl (fun acc s =>
    if acc.any fun e => decide (e.1 = s) then acc
    else
      let single (e : Nat × Nat) : Bool := decide ((acc.filter fun x => decide (x.2 = e.2)).length = 1)
      let hosts := acc.filter single
      let pick (l : List (Nat × Nat)) : Option (Nat × Nat) := firstBy (fun a b => decide (a.1 < b.1)) l
      match pick (hosts.filter fun e => decide (aff e.1 = aff s)), pick hosts with
      | some e, _ => acc ++ [(s, e.2)]
      | none, some e => acc ++ [(s, e.2)]
      | none, none => acc) acc

/-- The placement of a pen's segments over the usable arrays of its set: the map of groups and the pairs of segment and array
(R178, R179). -/
def placement (p : Pkg) (n : Nat) (i : Image) : List (Nat × Nat) × List (Nat × Nat) :=
  let m := mapGroups p n i
  let set := (setOf p n).filter (arrayUsable p)
  let segs := upto i.segs.length
  let q (s : Nat) : Nat := quadIn m (i.segs.getD s {}).affinity
  let p2 := placePass set (fun s => [[q s]]) [] segs
  let p3 := placePass set (fun s => (quadRings (q s)).drop 1) p2 segs
  (m, foldLeft i p3 segs)

/-- Arrays that run two segments under a placement (PEN_FOLDS). -/
def foldsIn (pl : List (Nat × Nat)) : Nat := pl.length - (pl.map Prod.snd).eraseDups.length

/-- The folded segments of a placement with their host arrays: those placed on an array that held a segment before them. -/
def foldedIn (pl : List (Nat × Nat)) : List (Nat × Nat) :=
  ((pl.zip (upto pl.length)).filter fun e => (pl.take e.2).any fun y => decide (y.2 = e.1.2)).map Prod.fst

/-- The folds that the placement of the next set-up would have. -/
def foldsNext (p : Pkg) (n : Nat) (i : Image) : Nat := i.segs.length - ((setOf p n).filter (arrayUsable p)).length

/-- PEN_PRED_STEP_TICKS (R182), for a placement that folds or not. -/
def predFor (p : Pkg) (x : Pen) (i : Image) (folded : Bool) : Nat :=
  let f := if folded then i.folded else i.nominal
  let t1 := if x.beat = 0 then sat32 else ceilDiv (f * 1400000) x.beat
  let slow := sumL ((i.shards.zip x.cls).map fun e => if e.2 = 1 then e.1.reads * e.1.length else 0)
  min sat32 (max t1 (ceilDiv slow ((p.nvw.sledCtrl % 256) * 100)))

/-- Beats of an array in 10,000 ticks, from its last intervals. -/
def beatRate (p : Pkg) (a : Nat) : Option Nat :=
  let r := (tget {} p.lsh.rates a).recent
  if r.isEmpty then none else some (sumL r * 10 / r.length)

/-- The lowest rate among arrays; a pen's value where none has been measured. -/
def lowestOf (p : Pkg) (x : Pen) (arrs : List Nat) : Nat :=
  (firstBy (fun a b => decide (a < b)) (arrs.filterMap (beatRate p))).getD x.beat

/-- B and the prediction for a placement (R182). -/
def withPred (p : Pkg) (i : Image) (arrs : List Nat) (folded : Bool) (x : Pen) : Pen :=
  let b := lowestOf p x arrs
  { x with beat := b, pred := predFor p { x with beat := b } i folded }

/-- B and the prediction of a pen for the placement in force (R182). -/
def predHere (p : Pkg) (n : Nat) : Pkg :=
  match (penOf p n).image with
  | none => p
  | some i => modPen p n fun x => withPred p i (x.place.map fun e => e.2 - 1) (decide (0 < x.folds)) x

/-- B and the prediction of a pen for the placement that its next set-up will apply (R182). -/
def predNext (p : Pkg) (n : Nat) : Pkg :=
  match (penOf p n).image with
  | none => p
  | some i => modPen p n fun x => withPred p i ((placement p n i).2.map Prod.snd) (decide (0 < foldsNext p n i)) x

/-- Refresh the prediction when the usable arrays of a set change, for the placement that the next set-up will apply (R182). -/
def refreshPred (p : Pkg) (n : Nat) : Pkg :=
  if (penOf p n).image.isSome then modPen (predNext p n) n fun x => { x with replace := true } else p

/-- A pen's set takes arrays while it is short, and its prediction follows (R175, R182). -/
def fillOne (p : Pkg) (n : Nat) : Pkg :=
  let q := fillSet p n 256
  if setOf q n = setOf p n then q else refreshPred q n

/-- Arrays that entered the free pool join the short pens, in ascending pen order (R175). -/
def fillShort (p : Pkg) : Pkg := forAll (enabledPens p) fillOne p

/-- Place a pen and report it (R177, R183): PEN_FOLDS, SEGMENT_FOLDED per fold, the map of groups, and the prediction. -/
def placePen (p : Pkg) (n : Nat) : Pkg :=
  match (penOf p n).image with
  | none => p
  | some i =>
    let (m, pl) := placement p n i
    let folds := foldsIn pl
    let p1 := modPen p n fun x =>
      { withPred p i (pl.map Prod.snd) (decide (0 < folds)) x with
        place := pl.foldl (fun t e => tset 0 t e.1 (e.2 + 1)) []
        quad := m.foldl (fun t e => tset 0 t e.1 (e.2 + 1)) []
        folds := folds, replace := false }
    forAll (foldedIn pl) (fun q e => log q codeSegmentFolded 0 e.1 e.2 0) p1

/-! ### Pen states (R176, R247, R435) -/

/-- The array, fold, shard and DRAM conditions of a pen with an image (R176, R247, R435). -/
def partsHold (p : Pkg) (n : Nat) : Bool :=
  let x := penOf p n
  match x.image with
  | none => false
  | some i =>
    let usable := ((setOf p n).filter (arrayUsable p)).length
    let folds := i.segs.length - usable
    let drams := ((upto 24).filter (dramUsable p)).length
    decide (ceilDiv i.segs.length 2 ≤ usable) && decide (stagingNeed i + folds * saveArea ≤ x.stageMib * 1048576) &&
      shardsHeld p n && decide (dramNeed i ≤ drams * 38654705664)

/-- The lease, plan, count, fence and staleness conditions (R176). -/
def groupHolds (p : Pkg) (n : Nat) : Bool :=
  let x := penOf p n
  decide (x.groupSize ≤ 1) || (p.mgt.lease && p.fab.plan.isSome && p.tick.countSet && !x.fenced && !p.mgt.stale)

/-- End the binding of a context (R418); END slots of ADMITs that its mailboxes took and that were not evaluated go back. -/
def endBinding (p : Pkg) (c : Nat) : Pkg :=
  let b := bindOf p c
  if b.st = 0 then p
  else
    let ends (k : Nat) : Nat := ((hcoreOf p k).live.filter fun d => decide (d.type = 1) && !d.begun).length
    let p1 := forAll ((upto 16).filter fun k => bitOf b.cores k) (fun q k => modHart (modHcore (giveBack q c (ends k)) k fun _ => {}) k fun _ => {}) p
    let p2 := modPool p1 b.pen fun o =>
      { o with tab := b.frames.foldl (fun t f => tmod {} t f fun x => { ({} : Frame) with bad := x.bad }) o.tab }
    let mine (i : Issuer) : Bool := match i with | .hound k _ => decide (k = c) | _ => false
    let p3 := modFab p2 fun f =>
      { f with
        txns := f.txns.filter fun t => !mine t.by_
        waiters := f.waiters.filter fun w => !mine w.by_
        fences := f.fences.filter fun x => decide (x.srcId ≠ c) }
    modBind (modCtx p3 c fun x => { x with mailFrom := x.descNum }) c fun x =>
      { ({} : HBind) with
        peerEn := x.peerEn, peerMib := x.peerMib, cores := x.cores, result := x.result, exitCode := x.exitCode
        faultSticky := x.faultSticky, imageAddr := x.imageAddr, imageBytes := x.imageBytes, memMib := x.memMib
        entry := x.entry, hostAddr := x.hostAddr, hostMib := x.hostMib, fault := x.fault, faultPc := x.faultPc
        faultTval := x.faultTval }

/-- Contexts of a pen that are not DISABLED. -/
def ctxsOn (p : Pkg) (n : Nat) : List Nat := ctxsWhere p fun c => decide (c.st ≠ ctxDisabled ∧ c.pen = n)

/-- The count of exchanges of a pen starts again: what peers sent under the old count is gone (R196, R200). -/
def newCount (p : Pkg) (n : Nat) : Pkg :=
  modPen p n fun x => { x with groupStep := 0, countEpoch := epochOf p, records := [], marks := [] }

/-- Move a pen to a state, with what leaving BOUND and ACTIVE ends (R291, R404, R418). -/
def penTo (p : Pkg) (n st : Nat) : Pkg :=
  let old := (penOf p n).st
  let serves (s : Nat) : Bool := decide (s = penBound ∨ s = penActive)
  let p1 := setPenState (if decide (old = penActive ∧ st ≠ penActive) && (penOf p n).step.isNone then newCount p n else p) n st
  let p2 := if serves old && !serves st then
      let q := forAll (ctxsOn p1 n) endBinding p1
      { q with lsh := { q.lsh with hints := q.lsh.hints.filter fun h => decide (h.pen ≠ n) } }
    else p1
  let waits := decide (st = penBound ∨ st = penUnavail ∨ st = penActive)
  if waits then p2
  else forAll ((entriesOfPen p2 n).filter fun e => decide ((reqOf p2 e).st = rqAdmitting))
    (fun q e => refuseAdmit q e stPenUnavailable) p2

/-! ### Steps that end without their step-done event (R189) -/

/-- Stop the arrays of a pen's set: nothing of the step stays on them. -/
def haltArrays (p : Pkg) (n : Nat) : Pkg :=
  forAll (setOf p n) (fun q a => modArr q a fun x => { x with runs := [], active := 0, saved := none }) p

/-- The block fetches of a pen's step job end with it: those of the slots that the pen claims (R244). -/
def dropFetches (x : Nvw) (n : Nat) : Nvw :=
  { x with fetches := x.fetches.filter fun f => decide ((tget {} x.slots f.slot).claim ≠ n + 1) }

/-- End the running step job of a pen without its step-done event: its results are discarded, its pins released, and the
actions that wait for its retirement act; its slots are kept for the rerun, the firmware of a group of one places again, and
REQ_STEP_END reads 0 (R189, R217, R312). -/
def dropStep (p : Pkg) (n : Nat) : Pkg :=
  match (penOf p n).step with
  | none => p
  | some t =>
    let p0 := forAll t.tails (fun q e => modReq q e.1 fun r => { r with tail := e.2 }) p
    let p1 := haltArrays (modPool p0 n fun o => t.pins.foldl unpinFrame o) n
    let p2 := modPen p1 n fun x =>
      { x with step := none, rerun := t.slots, records := [], marks := [], stepEnd := 0, replace := x.replace || decide (x.groupSize ≤ 1) }
    let p3 := { p2 with lsh := { p2.lsh with trotUntil := now p2 + 10000 }, nvw := dropFetches p2.nvw n }
    forAll t.placed (fun q e => retireReq (dropTokSlot q e) e) p3

/-- The notice of a fence to one member (R384). -/
def fenceNoticeBytes (p : Pkg) (n reason : Nat) : Bytes :=
  toLE 8 (epochOf p) ++ toLE 2 (ownMember (penOf p n)) ++ toLE 1 reason ++ zeros 21

/-- Send the notice of a fence to every other member (R384). -/
def sendNotices (p : Pkg) (n reason : Nat) : Pkg :=
  forAll ((members (penOf p n)).filter fun m => decide (m.2 ≠ chipNo p))
    (fun q m => fwStore q (256 + n) m.2 (gaddr m.2 4 (5 * 2 ^ 44 + n * 2 ^ 40)) true (fenceNoticeBytes q n reason)) p

/-- A pen that a fence can reach: BOUND, ACTIVE or UNAVAILABLE, or UNBINDING with its last step still running, which ends then as R189
says (R61, R172, R384). -/
def mayFence (x : Pen) : Bool :=
  decide (1 < x.groupSize) && !x.fenced &&
    (decide (x.st = penBound ∨ x.st = penActive ∨ x.st = penUnavail) || (decide (x.st = penUnbinding) && x.step.isSome))

/-- Fence the group of a pen (R384): reason 0 unreached, 1 notice, 2 fault, 3 REFCLK, 4 watchdog, 5 managers. -/
def fenceGroupOp (p : Pkg) (n reason chip : Nat) : Pkg :=
  let x := penOf p n
  if !mayFence x then p
  else
    let p1 := modPen p n fun y => { y with fenced := true, fenceEpoch := epochOf p }
    let p2 := if x.st = penActive then penTo p1 n penBound else p1
    let p3 := dropStep p2 n
    let p4 := logFault p3 codeGroupFenced n n reason chip stGroupFenced (ctxsOfPen p3 n)
    sendNotices p4 n reason

/-- A fault ends the running step job of a pen (R189). -/
def faultStep (p : Pkg) (n : Nat) : Pkg :=
  if (penOf p n).step.isNone then p
  else if (penOf p n).groupSize ≤ 1 then dropStep p n
  else fenceGroupOp p n 2 (chipNo p)

/-! ### Pools and pen resets (R342, R434) -/

/-- Drop the data of a frame that is never allocated again (R435). -/
def keepBad (t : Tab Frame) : Tab Frame := tmap {} (fun _ x => { ({} : Frame) with bad := x.bad }) t

/-- Discard a pen's page pool, lists and tails (R342). -/
def discardPool (p : Pkg) (n : Nat) : Pkg :=
  let p1 := forAll (entriesOfPen p n) releasePages p
  modPool p1 n fun o => { o with tab := keepBad o.tab, copies := [], cowCopies := [], reserved := 0, starvedAt := none, swap := none }

/-- Every buffer of a pen holds undefined contents (R158, R434): its bytes become free values of a new period. -/
def loseBuffers (p : Pkg) (n : Nat) : Pkg :=
  let g := p.freeCtr + 1
  nextFree (modPen p n fun x => { x with bufs := tmap {} (fun _ b => if b = {} then b else { ({} : Buf) with gen := g }) x.bufs })

/-- A pen was reset in the present tick (R431). -/
def penReset (p : Pkg) (n : Nat) : Bool := decide ((penOf p n).resetAt = now p + 1)

/-- A warm or cold reset acts in the present tick (R431). -/
def largerReset (p : Pkg) : Bool := decide (p.glb.warmAt = now p + 1)

/-- The authorisations of imprints and clears end (R224, R449). -/
def endAuths (p : Pkg) : Pkg := { p with nvw := { p.nvw with auth := none }, scn := { p.scn with auth := none } }

/-- A pen reset (R434). -/
def penResetDo (p : Pkg) (n cause : Nat) : Pkg :=
  let p1 := faultStep p n
  let p2 := forAll (entriesOfPen p1 n) (fun q e => endReq q e stInternalFault) p1
  let p3 := loseBuffers (discardPool p2 n) n
  let p4 := forAll (ctxsOn p3 n) endBinding p3
  let p5 := modPen (endAuths p4) n fun x => { x with replace := true, rerun := [], resetAt := now p + 1 }
  let p6 := if (penOf p5 n).st = penActive ∨ (penOf p5 n).st = penUnavail then penTo p5 n penBound else p5
  logFault p6 codePenReset n n cause 0 stInternalFault (ctxsOfPen p6 n)

/-- A pen reset is sampled: in the tick of a larger reset it has no further effect (R431). -/
def penResetOp (p : Pkg) (n cause : Nat) : Pkg := if largerReset p then p else penResetDo p n cause

/-! ### Quarantine (R438) -/

/-- The running step job of a pen uses an array. -/
def stepUses (p : Pkg) (n a : Nat) : Bool :=
  (penOf p n).step.isSome && (penOf p n).place.any fun e => decide (e.2 = a + 1)

/-- Quarantine a usable array for a cause of Table 14-4, end the step that uses it, and replace it in its set (R175, R189,
R438). DESIGN CHOICE: the authorisation of R224 ends at a cold, warm, pen or context reset and not here (log entry 43). -/
def quarantineOp (p : Pkg) (a cause : Nat) : Pkg :=
  let x := arrOf p a
  if x.st ≠ 0 ∨ 256 ≤ a then p
  else if x.pen = 0 then
    log (modArr p a fun y => { y with st := 1, cause := cause, runs := [], active := 0, saved := none })
      codeArrayQuarantined a a cause 0xFF
  else
    let n := x.pen - 1
    let uses := stepUses p n a
    let p1 := modArr p a fun y => { y with st := 1, cause := cause, pen := 0, runs := [], active := 0, saved := none }
    let p2 := logFault p1 codeArrayQuarantined a a cause n stInternalFault (ctxsOfPen p1 n)
    let p3 := if uses then faultStep p2 n else p2
    refreshPred (fillSet p3 n 256) n

/-- An array quarantine is sampled: after a warm reset, or a reset of the array's pen, in the same tick it has no further effect (R431). -/
def quarantineNow (p : Pkg) (a cause : Nat) : Pkg :=
  let n := (arrOf p a).pen
  if largerReset p = true ∨ (n ≠ 0 ∧ penReset p (n - 1) = true) then p else quarantineOp p a cause

end Sys2Proof.Machine
end

