-- ==== Sys2Proof/Machine/ResetOps.lean ====
section
/-! DEFINITION. Shared operations of the reset scopes: context reset, warm reset and cold reset (R229, R280, R431 to R433). -/

namespace Sys2Proof.Machine

/-! ### The weight store under a reset (R223, R229, R230) -/

/-- What a slot becomes when its imprint ends without a shard: FREE, or WORN at the limit of cycles (R226). -/
def emptied (s : Slot) : Slot := { cycles := s.cycles, st := if s.cycles = 100000 then nvWorn else nvFree }

/-- A slot after a cold or warm reset: claims read as 0, an interrupted imprint leaves FREE or WORN, an interrupted repair leaves
BAD (log entry 16), and VERIFIED becomes UNVERIFIED (R223, R229, R230). -/
def slotAfterReset (repairs : List Repair) (k : Nat) (s : Slot) : Slot :=
  if s.st = nvWriting then
    if repairs.any fun r => decide (r.slot = k) then { s with st := nvBad, claim := 0 } else emptied s
  else { s with claim := 0, st := if s.st = nvVerified then nvUnverified else s.st }

/-- Empty a slot, of which nothing is remembered but its cycles, with the record of a slot that becomes WORN and the shard it held (R226,
R228, R248, R251). -/
def emptySlotOp (p : Pkg) (k : Nat) : Pkg :=
  let s := slotOf p k
  let p1 := { p with
    nvw := { p.nvw with
             stopped := p.nvw.stopped.filter fun j => decide (j ≠ k), dry := p.nvw.dry.filter fun j => decide (j ≠ k)
             spoiled := p.nvw.spoiled.filter fun j => decide (j ≠ k) } }
  let q := modSlot p1 k emptied
  if (slotOf q k).st = nvWorn then log q codeSlotWorn (k / 32) (k + 256 * (k / 32)) s.shard 0 else q

/-- End an imprint that a reset interrupts, with its record (R229). -/
def endImprint (p : Pkg) (i : Imprint) (status : Nat) : Pkg :=
  let p1 := log p codeImprintRefused i.ctx (i.slot + 256 * (i.slot / 32)) (slotOf p i.slot).shard status
  let p3 := emptySlotOp p1 i.slot
  { p3 with nvw := { p3.nvw with imprints := p3.nvw.imprints.filter fun x => decide (x.slot ≠ i.slot) } }

/-! ### Context reset (R280) -/

/-- A request of a context under reset ends with CONTEXT_RESET and no record: at once, or at its step's retirement. -/
def resetReq (p : Pkg) (e : Nat) : Pkg :=
  if (reqOf p e).inStep ∧ (reqOf p e).st ≠ rqDone then
    modReq p e fun x => { x with st := rqDraining, endStatus := stContextReset, nextDl := 0, ttlExp := 0, held := [], appends := [] }
  else closeReq (endReq p e stContextReset) e

/-- A context reset is sampled (R280, steps 1 to 5). In the tick of a warm or cold reset, or of a reset of an ACTIVE context's pen, it has no
further effect (R431). -/
def ctxResetOp (p : Pkg) (c : Nat) : Pkg :=
  if (ctxOf p c).st = ctxResetting ∨ largerReset p = true ∨ ((ctxOf p c).st = ctxActive ∧ penReset p (ctxOf p c).pen = true) then p
  else
    let p1 := modCtx p c fun x =>
      { x with
        st := ctxResetting, reading := none, fetched := [], live := [], rollBusy := false, fencePending := false
        cqStall := false, faults := [], sampling := [], gen := if x.gen = 0xFFFFFFFE then 1 else x.gen + 1
        sqHead := 0, sqTail := 0, cqHead := 0, cqTail := 0, cqPhase := true, eqHead := 0, eqTail := 0, eqPhase := true
        cqUsed := 0, eqUsed := 0, reserved := 0, modC := {}, modE := {}, faultStatus := 0, faultCode := 0
        eqDropped := 0, eqLost := false, dbInvalid := false }
    let p2 := forAll (entriesOf p1 c) resetReq p1
    let p3 := forAll (p2.nvw.imprints.filter fun i => decide (i.ctx = c)) (fun q i => endImprint q i stContextReset) p2
    let p4 := endAuths { p3 with lsh := { p3.lsh with hints := p3.lsh.hints.filter fun h => decide (h.ctx ≠ c) } }
    endBinding p4 c

/-! ### Warm and cold reset (R431 to R433, Table 14-2) -/

/-- An array after a warm reset: a return ends without result, a USABLE array rejoins the free pool (R439). -/
def arrAfterWarm (x : Arr) : Arr :=
  { x with st := if x.st = 2 then 1 else x.st, pen := 0, runs := [], active := 0, saved := none }

/-- The Leash after a warm reset: the caps, the ramp limit, the counters and LSH_CTRL are kept, and a trip's die for its record; every
other register takes its reset value (R13, R410, R413). -/
def lshAfterWarm (l : Lsh) : Lsh :=
  { trotPct := l.trotPct, softStart := l.softStart, hintEn := l.hintEn, ramp := l.ramp, soft := l.soft, hard := l.hard
    local_ := l.local_, emergCap := l.emergCap, hardCaps := l.hardCaps, slewCount := l.slewCount, total := l.total
    unattr := l.unattr, penEnergy := l.penEnergy, penNoctx := l.penNoctx, ctxEnergy := l.ctxEnergy, beats := l.beats
    beatsAt := l.beatsAt, rateAt := l.rateAt, rateTicks := l.rateTicks, varrSum := l.varrSum, dutySum := l.dutySum, dutyOff := l.dutyOff
    tripDie := l.tripDie, hardAt := l.hardAt }

/-- An optical lane after a warm reset keeps its counters (R388, R463). -/
def laneAfterWarm (l : Lane) : Lane :=
  { bitErrors := l.bitErrors, bits := l.bits, accErrors := l.accErrors, accBits := l.accBits, total := l.total, hist := l.hist }

/-- A port after a warm reset keeps its state and its counters; ENABLE is 1 again and the peer's registers read 0 (R13, R388). A port that
ENABLE held in DISABLED goes DOWN, from where it trains, unless the plan leaves it unconnected (R352, R358). -/
def portAfterWarm (connected : Bool) (x : Port) : Port :=
  { x with
    enable := true, st := if connected && decide (x.st = 0) then 1 else x.st
    peerValid := false, peerChip := 0, peerPort := 0, peerMinor := 0, peerMajor := 0, peerBuild := 0 }

/-- CTX_GEN after one more reset (Table 8-2). -/
def genNext (g : Nat) : Nat := if g = 0xFFFFFFFE then 1 else g + 1

/-- SLED_BYTES of an engine (Table 7-8). -/
def sledTotal (p : Pkg) (k : Nat) : Nat := satAdd sat32 (tget 0 p.nvw.bytes k) (sumL (p.pens.map fun x => tget 0 x.2.sledBytes k))

/-- A warm reset (R431, R432): what Table 14-2 and the chapters keep, everything else at its reset value. DEDUCED: a SET_COUNT that waits for
its boundary goes like the managers' other waiting commands, while the tick goes on (R59; log entry 32). -/
def warmResetOp (p : Pkg) (trigger : Nat) : Pkg :=
  let old := glbStatus p
  let p0 := forAll p.nvw.imprints (fun q i => endImprint q i stContextReset) p
  let l := p0.lsh
  let m := p0.mgt
  let f := p0.fab
  let fresh : Pkg :=
    { pins := p0.pins, tick := { p0.tick with pendingCount := none }
      glb := { warmAt := now p0 + 1, badDram := p0.glb.badDram, dramLines := p0.glb.dramLines, dramCorr := p0.glb.dramCorr
               dramCorrAt := p0.glb.dramCorrAt, fns := tmap {} (fun _ x => { x with d3hot := false }) p0.glb.fns
               tickAtReady := p0.glb.tickAtReady, coldReady := p0.glb.coldReady, dramLost := p0.glb.dramLost, nvLost := p0.glb.nvLost
               opticsLost := p0.glb.opticsLost, engineLost := p0.glb.engineLost, houndLost := p0.glb.houndLost }
      scn := { p0.scn with cursor := 0, clearResult := 0, dropSticky := false, auth := none }
      arrays := tmap {} (fun _ x => arrAfterWarm x) p0.arrays
      ldr := { bindCount := p0.ldr.bindCount, refuseCount := p0.ldr.refuseCount }
      nvw := { p0.nvw with
               slots := tmap {} (slotAfterReset p0.nvw.repairs) p0.nvw.slots, imprints := [], auth := none, verifyBusy := false
               verifyDoneLogged := false, repairs := [], fetches := [], stopped := [], dry := [], spoiled := [], sledCtrl := 0x30240
               bytes := (upto 8).foldl (fun t k => tset 0 t k (sledTotal p0 k)) p0.nvw.bytes }
      ctxs := (upto 256).foldl (fun t c => tset {} t c { gen := genNext (ctxOf p0 c).gen }) []
      lastGen := p0.lastGen
      rq := { latMax := p0.rq.latMax }
      fab := { f with
               lanes := tmap {} (fun _ x => laneAfterWarm x) f.lanes
               ports := tmap {} (fun n x => portAfterWarm (f.plan.isNone || (linkOf p0 n).isSome) x) f.ports
               combineEn := true, loadTimeout := 200, waiters := [], seqLast := [], srcs := [], runs := [], runWait := []
               lineUsed := [], lineQueue := []
               fences := [], rrc := [], fwFault := none, fwReads := []
               txns := f.txns.filter fun t => decide (t.by_ = .proxy)
               probeAddr := 0, probeSt := 0, probeStatus := 0, probeData := [], rrcInvalAddr := 0, rrcInvalBytes := 0, heard := [] }
      lsh := lshAfterWarm l
      mgt := { m with
               epoch := 0, lease := false, stale := true, holder := 0, expiry := 0, lastRefused := 0, pending := [], staging := []
               linkUp := false, fec := 0 }
      i3c := { replies := p0.i3c.replies }, out := p0.out, freeCtr := p0.freeCtr }
  log fresh codeResetWarm 0 trigger old 0

/-- The record of an imprint that a cold reset interrupts, and of a slot that it leaves WORN (R229, R248, R431). -/
def logInterrupted (p : Pkg) (i : Imprint) (s : Slot) : Pkg :=
  let at_ := i.slot + 256 * (i.slot / 32)
  let q := log p codeImprintRefused i.ctx at_ s.shard stContextReset
  if s.cycles = 100000 then log q codeSlotWorn (i.slot / 32) at_ s.shard 0 else q

/-- What a cold reset keeps: the Scent log without its queue, the NV slots, and the numbers kept in the log's region (R223, R432,
R445, R455), with the records of the imprints that it interrupts. The pins are the caller's. -/
def coldBase (p : Pkg) : Pkg :=
  forAll p.nvw.imprints (fun q i => logInterrupted q i (slotOf p i.slot))
  { pins := p.pins
    scn := { p.scn with
             queue := [], storedInTick := 0, irqInTick := false, cursor := 0, clearResult := 0, dropSticky := false, auth := none }
    nvw := { slots := tmap {} (slotAfterReset p.nvw.repairs) p.nvw.slots }
    lsh := { tripDie := p.lsh.tripDie }
    mgt := { seqHw := p.mgt.seqHw }
    out := p.out, freeCtr := p.freeCtr }

/-- A cold reset with its record (R432; Table 14-8). -/
def coldResetOp (p : Pkg) (trigger : Nat) : Pkg :=
  let old := glbStatus p
  log (coldBase p) codeResetCold 0 trigger old 0

end Sys2Proof.Machine
end

