-- ==== Sys2Proof/Machine/FabDone.lean ====
section
/-! DEFINITION. Shared operations: the completion of transactions at their source, and manager messages: their checks, replies
and refusals (R373, R376, R427, R451 to R456). -/

namespace Sys2Proof.Machine

/-! ### Completion of transactions (R373, R376, R427) -/

/-- A fabric command of a binding completes: its result, then STATUS, then DONE are written in program memory, and waiting cores
wake (R427, R428). -/
def fqDone (p : Pkg) (c : Nat) (x : FqCmd) (status : Nat) (data : Bytes) : Pkg :=
  let b := bindOf p c
  let op := fieldAt x.cmd 0 1 % 8
  let m1 := if op = 1 then tsetList 0 b.mem (fieldAt x.cmd 16 8) data
    else if op = 3 ∧ bitOf (fieldAt x.cmd 0 1) 4 then tsetList 0 b.mem (x.at_ + 40) data
    else b.mem
  let m2 := tset 0 m1 (x.at_ + 2) (BitVec.ofNat 8 status)
  let m3 := tset 0 m2 (x.at_ + 3) (BitVec.ofNat 8 (fieldAt x.cmd 3 1 / 2 * 2 + 1))
  let drop (y : FqCmd) : Bool := decide (y.index ≠ x.index)
  wakeCores (modBind p c fun y => { y with mem := m3, fq := y.fq.filter drop }) c

/-- The fabric command of a number completes; one that its binding no longer holds is gone (R427). -/
def fqEnds (p : Pkg) (c i status : Nat) (data : Bytes) : Pkg :=
  match (bindOf p c).fq.find? fun x => decide (x.index = i) with
  | some x => fqDone p c x status data
  | none => p

/-- Acknowledge the requests that a combined one absorbed, with its status (R380). -/
def ackAbsorbed (p : Pkg) (tag status : Nat) : Pkg :=
  match p.fab.combined.find? fun c => decide (c.tag = tag) with
  | none => p
  | some c =>
    let p1 := modFab p fun f => { f with combined := f.combined.filter fun x => decide (x.tag ≠ tag) }
    forAll c.absorbed (fun q k => route q 16 (respPkt q k.h status [])) p1

/-- What a completed transaction means to the mechanism that issued it (R376, R377, R388, R427). -/
def tellIssuer (p : Pkg) (t : Txn) (status : Nat) (data : Bytes) : Pkg :=
  match t.by_ with
  | .firmware =>
    if t.pkt.h.type = 1 then setRead p t.pkt.h.addr (some (if status = stOk then some data else none))
    else if status = stOk then p
    else modFab p fun f => { f with fwFault := some (t.pkt.h.addr, status) }
  | .liveness => p
  | .probe => modFab p fun f => { f with probeSt := 2, probeStatus := status, probeData := data }
  | .hound c i => fqEnds p c i status data
  | .proxy => ackAbsorbed p t.pkt.h.tag status

/-- Bytes a request returns on success. -/
def returnLen (h : Hdr) : Nat := if h.type = 1 then 8 * (h.size + 1) else if isFetch h then 8 else 0

/-- Complete an outstanding transaction with a status and the data it returns; the error value stands for data on any other status
(R376). Requests that waited at issue may then go. -/
def completeTxn (p : Pkg) (t : Txn) (status : Nat) (data : Bytes) : Pkg :=
  let d := if status = stOk then data else errValue (returnLen t.pkt.h)
  let p1 := modFab p fun f => { f with txns := f.txns.filter fun x => decide (x.pkt.h.tag ≠ t.pkt.h.tag) }
  pumpWaiters (tellIssuer p1 t status d)

/-- The outstanding transaction of a tag. -/
def txnOf (p : Pkg) (tag : Nat) : Option Txn := p.fab.txns.find? fun t => decide (t.pkt.h.tag = tag)

/-! ### Epochs (R381, R460) -/

/-- A request of another epoch, counted and recorded at most once per source chip in 10,000 ticks (R381). -/
def staleRx (p : Pkg) (h : Hdr) : Pkg :=
  let q := modFab p fun f => { f with staleRx := inc64 f.staleRx }
  let last := tget 0 q.fab.staleLogAt h.src
  if last = 0 ∨ last - 1 + 10000 ≤ now q then
    log (modFab q fun f => { f with staleLogAt := tset 0 f.staleLogAt h.src (now p + 1) }) codeEpochStaleRx 0 h.src
      (h.epoch % 2 ^ 32) (h.epoch / 2 ^ 32)
  else q

/-- Pieces that wait for the run buffer, and requests that wait for their line, belong to the epoch that ends: they are refused like any
request of another epoch (R381). -/
def refuseWaiting (p : Pkg) : Pkg :=
  let hs := p.fab.runWait.map (·.pkt.h) ++ p.fab.lineQueue.flatMap fun e => e.pkt.h :: e.absorbed.map (·.h)
  forAll (heldPorts p) payCredits
    (forAll hs (fun q h => route (staleRx q h) 16 (respPkt q h stEpochStale [])) (modFab p fun f => { f with runWait := [], lineQueue := [] }))

/-- GLB_EPOCH takes a new value: outstanding transactions complete with EPOCH_STALE, the remote-read cache, partial runs and
sequence state go, authorisations end, every ACTIVE context is told, and the exchange count of a pen with no step job starts again
(R196, R381, R460). -/
def setEpoch (p : Pkg) (mgr new : Nat) : Pkg :=
  let p1 := { p with mgt := { p.mgt with epoch := new } }
  let p2 := modFab p1 fun f => { f with runs := [], rrc := [], seqLast := [], srcs := [] }
  let p3 := forAll p.fab.txns (fun q t => completeTxn q t stEpochStale []) (refuseWaiting p2)
  let p4 := { p3 with nvw := { p3.nvw with auth := none }, scn := { p3.scn with auth := none } }
  let p5 := forAll (ctxsWhere p4 fun c => decide (c.st = ctxActive))
    (fun q c => logEvent q c (evStatus codeEpochChanged) codeEpochChanged 0 (new % 2 ^ 32) (new / 2 ^ 32) 0) p4
  let p6 := forAll ((enabledPens p5).filter fun n => (penOf p5 n).step.isNone) newCount p5
  log p6 codeEpochSet mgr mgr (new % 2 ^ 32) (new / 2 ^ 32)

/-! ### Manager messages (R454 to R456) -/

/-- The fields of a message as a command (Table 15-1). -/
def cmdOf (path : Path) (msg : Bytes) : PendCmd :=
  { path := path, mgr := fieldAt msg 2 1 % 2, op := fieldAt msg 3 1, seq := fieldAt msg 8 8, term := fieldAt msg 4 4
    tick := fieldAt msg 16 8, body := (msg.drop 32).take (fieldAt msg 24 2) }

/-- The 32 bytes of a manager's key (Table 15-3). -/
def keyBytes (p : Pkg) (m : Nat) : Bytes := (upto 8).flatMap fun i => toLE 4 (tget 0 p.mgt.keys (8 * m + i))

/-- A key counts as set once all eight of its words have been written (R462). -/
def keySet (p : Pkg) (m : Nat) : Bool := decide (p.mgt.keyMask / 2 ^ (8 * m) % 256 = 255)

/-- The MAC of the bytes before it (Table 15-1). -/
def macOf (p : Pkg) (m : Nat) (b : Bytes) : Bytes := (hmac (keyBytes p m) b).take 16

/-- The frame's source address is the manager's, or the message came on I3C (R452, R453). -/
def fromManager (p : Pkg) (path : Path) (m : Nat) : Bool :=
  match path with
  | .port src _ _ => decide (src.toNat = tget 0 p.mgt.mac m)
  | .i3c => true

/-- The port takes untagged frames of up to 1,518 bytes, 18 of them header and frame check, with the EtherType of the managers (R452). -/
def frameTaken (path : Path) (msg : Bytes) : Bool :=
  match path with
  | .port _ ether tagged => !tagged && decide (ether = 0x88B5 ∧ msg.length + 18 ≤ 1518)
  | .i3c => true

/-- A frame taken from the port shows that its link is up, with the FEC that auto-negotiation agreed. DEDUCED: no row of the table tells of the
training of that link (R452; log entry 32). -/
def linkSeen (p : Pkg) (path : Path) : Pkg :=
  match path with
  | .port _ _ _ => { p with mgt := { p.mgt with linkUp := true, fec := Config.mgtFec.toNat % 3 } }
  | .i3c => p

/-- The message carries the MAC of a manager whose key is set (R455, check 2). -/
def authentic (p : Pkg) (msg : Bytes) : Bool :=
  let n := 32 + fieldAt msg 24 2
  let m := fieldAt msg 2 1 % 2
  keySet p m && decide ((msg.drop n).take 16 = macOf p m (msg.take n))

/-- VERSION, OP and the reserved fields of a message are valid (R455, check 4). -/
def headerValid (msg : Bytes) : Bool :=
  decide (fieldAt msg 0 2 = 1 ∧ fieldAt msg 2 1 < 2 ∧ 1 ≤ fieldAt msg 3 1 ∧ fieldAt msg 3 1 ≤ 0x16) && zeroAt msg 26 6

/-- A reply on the path its message came by; on I3C it waits to be read and raises an in-band interrupt (R451, R453, R454). -/
def mgtReply (p : Pkg) (c : PendCmd) (status : Nat) (body : Bytes) : Pkg :=
  let h := toLE 2 1 ++ toLE 1 c.mgr ++ toLE 1 c.op ++ toLE 4 p.mgt.term ++ toLE 8 c.seq ++ toLE 8 0 ++ toLE 2 body.length ++
    toLE 1 status ++ toLE 1 1 ++ zeros 4 ++ body
  let b := h ++ macOf p c.mgr h
  let p1 := send p (.reply c.path b)
  match c.path with
  | .port _ _ _ => p1
  | .i3c =>
    let p2 := { p1 with i3c := { p1.i3c with replies := p1.i3c.replies ++ [b] } }
    if p2.i3c.ibi && p2.i3c.addr.isSome then send p2 .i3cIbi else p2

/-- Refuse a command: it is counted, recorded and answered, and changes nothing else (R456). Only a READMIT has a reply body then. -/
def mgtRefuse (p : Pkg) (c : PendCmd) (status : Nat) (body : Bytes) : Pkg :=
  let p1 := { p with mgt := { p.mgt with rxRefused := inc64 p.mgt.rxRefused, lastRefused := status } }
  mgtReply (log p1 codeMgmtRefused c.mgr c.mgr c.op status) c status body

/-- Count and record a message that fails check 2 (R455). -/
def authFail (p : Pkg) (c : PendCmd) : Pkg :=
  let p1 := { p with mgt := { p.mgt with rxAuthFail := inc64 p.mgt.rxAuthFail } }
  if mayLog p1.mgt.authLogAt (now p1) then
    log { p1 with mgt := { p1.mgt with authLogAt := some (now p1) } } codeMgmtAuthFail c.mgr c.mgr
      (match c.path with | .port _ _ _ => 0 | .i3c => 1) 0
  else p1

/-- The verdict of checks 1 to 5 of R455 on a message. -/
inductive Verdict where
  | discard
  | badMac
  | refuse (status : Nat)
  | take
deriving DecidableEq, Repr

/-- Checks 1 to 5 of R455; STATUS skips checks 2, 3 and 5. A BODY_BYTES above 1,024 is a length that R14 and R15 refuse, with check 4
(log entry 13). -/
def mgtVerdict (p : Pkg) (path : Path) (msg : Bytes) : Verdict :=
  let c := cmdOf path msg
  if !fromManager p path c.mgr || !frameTaken path msg || decide (msg.length < 48 + fieldAt msg 24 2) then .discard
  else if c.op = 0x16 then (if !headerValid msg then .refuse stFormatInvalid else if 1024 < fieldAt msg 24 2 then .refuse stLengthInvalid else .take)
  else if !authentic p msg then .badMac
  else if c.seq ≤ tget 0 p.mgt.seqHw c.mgr then .refuse stEpochStale
  else if !headerValid msg then .refuse stFormatInvalid
  else if 1024 < fieldAt msg 24 2 then .refuse stLengthInvalid
  else if c.op ≠ 0x01 ∧ !(p.mgt.lease && decide (p.mgt.holder = c.mgr ∧ p.mgt.term = c.term)) then .refuse stPermission
  else .take

/-- A message that passes check 3 raises the highest number accepted (R455). -/
def raiseSeq (p : Pkg) (path : Path) (msg : Bytes) : Pkg :=
  let c := cmdOf path msg
  if c.op ≠ 0x16 ∧ authentic p msg ∧ tget 0 p.mgt.seqHw c.mgr < c.seq then
    { p with mgt := { p.mgt with seqHw := tset 0 p.mgt.seqHw c.mgr c.seq } }
  else p

/-- A command has acted and is answered (R456). -/
def mgtDone (p : Pkg) (c : PendCmd) (body : Bytes) : Pkg := mgtReply p c stOk body

/-- A message has passed R455 (MGT_RX_OK). -/
def mgtPassed (p : Pkg) : Pkg := { p with mgt := { p.mgt with rxOk := inc64 p.mgt.rxOk } }

/-- Hold a command for its named tick, in place of a pending one of its OP (R456). -/
def mgtHold (p : Pkg) (c : PendCmd) : Pkg :=
  { p with mgt := { p.mgt with pending := (p.mgt.pending.filter fun x => decide (x.op ≠ c.op)) ++ [c] } }

/-- A command names the tick in which it is sampled (R395, R456). -/
def actsNow (p : Pkg) (c : PendCmd) : Bool := decide (c.tick = 0) || (p.tick.countSet && decide (c.tick ≤ now p))

/-- A manager message is sampled: checks 1 to 5 of R455, and what a message that passes them does. -/
def mgtTaken (p : Pkg) (path : Path) (msg : Bytes) (f : Pkg → PendCmd → Pkg) : Pkg :=
  let c := cmdOf path msg
  match mgtVerdict p path msg with
  | .discard => p
  | .badMac => authFail (linkSeen p path) c
  | .refuse st => mgtRefuse (raiseSeq (linkSeen p path) path msg) c st []
  | .take => f (raiseSeq (linkSeen p path) path msg) c

/-- The OP of a message is the one of the command's row, or one that no row has: such a message is checked and refused like any other
(R455). -/
def opIs (op : Nat) (msg : Bytes) : Bool := decide (fieldAt msg 3 1 = op ∨ fieldAt msg 3 1 = 0 ∨ 0x16 < fieldAt msg 3 1)

/-- The status when a condition fails. -/
def need (ok : Bool) (status : Nat) : Option Nat := if ok then none else some status

/-- The first refusing status of a list of checks. -/
def firstFail (l : List (Option Nat)) : Option Nat := l.findSome? id

end Sys2Proof.Machine
end

