-- ==== Sys2Proof/Machine/BarOps.lean ====
section
/-! DEFINITION. Shared operations: power and the pins, BAR0 writes and their gate, the alert output and the alignment of ticks
(R39 to R43, R57 to R63, R257, R472 to R478). -/

namespace Sys2Proof.Machine

/-! ### Power (R472 to R478) -/

/-- The package runs: VIN6 is in range, no auxiliary rail holds it, RESET_N is high, and THERMTRIP_N has not latched. -/
def powered (p : Pkg) : Bool := p.pins.vinOk && !p.pins.auxHold && p.pins.resetN && p.pins.thermtripN

/-- VIN6 is in range and the trip latch clear, so RESET_N and PERST# are heeded (R474, R478). -/
def heedsPins (p : Pkg) : Bool := p.pins.vinOk && p.pins.thermtripN

/-- The package runs and its firmware has not stopped (R437). -/
def fwRuns (p : Pkg) : Bool := powered p && !p.glb.fwFault

def modPins (p : Pkg) (f : Pins → Pins) : Pkg := { p with pins := f p.pins }

/-- Rails come into regulation once RESET_N is high; the host link trains once PERST# is high too (R472, R473). -/
def rails (p : Pkg) : Pkg :=
  if powered p then
    let q := modPins p fun x => { x with pwrGood := true }
    { q with glb := { q.glb with hostLink := p.pins.perstN } }
  else p

/-- A power or thermal emergency is in force (LSH_STATUS.EMERGENCY). -/
def emergency (p : Pkg) : Bool := p.lsh.powerEm.isSome || p.lsh.thermalEm.isSome

/-- What holds ALERT_N low (R477). -/
def alertDue (p : Pkg) : Bool := emergency p || p.tick.holdover || p.glb.fwFault || !p.glb.coldReady

/-- ALERT_N at a tick boundary; its fall raises an I3C in-band interrupt (R453, R477). -/
def judgeAlert (p : Pkg) : Pkg :=
  let low := alertDue p
  let q := modPins p fun x => { x with alertN := !low }
  if low && p.pins.alertN && p.i3c.ibi && p.i3c.addr.isSome then send q .i3cIbi else q

/-- A cold reset that a pin or a rail causes: ALERT_N goes low until READY (R477). -/
def pinCold (p : Pkg) (f : Pins → Pins) : Pkg := modPins (coldBase p) fun x => { f x with alertN := false }

/-! ### BAR0 writes (R39 to R43, R257) -/

/-- An offset of the context blocks (R253). -/
def inCtxArea (off : Nat) : Bool := decide (0x400000 ≤ off ∧ off < 0x800000)

/-- An offset of the binding blocks (R416). -/
def inBindArea (off : Nat) : Bool := decide (0x2101000 ≤ off ∧ off < 0x2105000)

/-- A 64-bit register that software writes begins at this offset. -/
def wide64 (off : Nat) : Bool :=
  decide (off ∈ [0x800000, 0x1000100, 0x1000110, 0x2000030, 0x2300038, 0x2300040]) ||
    (inCtxArea off && decide (off % 0x4000 ∈ [0x10, 0x18, 0x20])) ||
    (decide (0xD20000 ≤ off ∧ off < 0xD22000) && decide (off % 0x20 = 0)) ||
    (inBindArea off && decide (off % 0x40 ∈ [0x08, 0x20]))

/-- A lower half held for a function is discarded at its next write to any offset but its upper half's (R40). -/
def dropHeld (p : Pkg) (fn off : Nat) : Pkg :=
  match tget none p.glb.heldLow fn with
  | some (o, _) => if off = o + 4 then p else { p with glb := { p.glb with heldLow := tset none p.glb.heldLow fn none } }
  | none => p

/-- A BAR0 write to a register outside the GLB_ block: ignored while READY is 0 (R43). -/
def regWrite (p : Pkg) (fn off : Nat) (f : Pkg → Pkg) : Pkg :=
  let q := dropHeld p fn off
  if q.glb.ready then f q else q

/-- A BAR0 write to a register that only the physical function has or writes. -/
def pfWrite (p : Pkg) (fn off : Nat) (f : Pkg → Pkg) : Pkg := regWrite p fn off fun q => if fn = 0 then f q else q

/-- Record a write that is not allowed: the first in each tick (R257, R462). -/
def noteNotAllowed (p : Pkg) (fn off size : Nat) : Pkg :=
  if p.glb.writeNotAllowedAt = some (now p) then p
  else log { p with glb := { p.glb with writeNotAllowedAt := some (now p) } } codeWriteNotAllowed 0 fn off size

/-! ### Alignment of ticks (R62, R63) -/

/-- The plan's entry for this package. -/
def ownEntry (p : Pkg) : Option PlanChip :=
  match p.fab.plan with
  | some x => x.chips.find? fun e => decide (e.chip = x.chip)
  | none => none

/-- TICK_MASTER.MASTER_RACK. -/
def masterRack (p : Pkg) : Bool := match ownEntry p with | some e => e.masterRack | none => false

/-- TICK_OFFSET as it is recorded: 32 bits, signed. -/
def offsetWord (p : Pkg) : Nat := (BitVec.ofInt 32 p.tick.offsetPs).toNat

/-- RACK_ALIGNED falls from 1, for a cause of R63. -/
def loseAlign (p : Pkg) (cause : Nat) : Pkg :=
  if p.tick.rackAligned then
    log { p with tick := { p.tick with rackAligned := false, alignSticky := true } } codeRackAlignLost 0 (offsetWord p) cause 0
  else p

/-- RACK_ALIGNED rises when R63 allows it. -/
def gainAlign (p : Pkg) : Pkg :=
  if p.tick.countSet && (masterRack p || decide (8 ≤ p.tick.goodAvgs)) then
    { p with tick := { p.tick with rackAligned := true } }
  else p

/-- Steer by the average of the last offsets, each in half nanoseconds: at most one tick in 256 is made shorter or longer, when
the average exceeds 4 ns (R62). -/
def steer (p : Pkg) : Pkg :=
  let t := p.tick
  let n : Nat := t.offsets.length
  let sum : Int := t.offsets.foldl (· + ·) 0
  let free : Bool := match t.lastAdjust with | none => true | some l => decide (l + 256 ≤ now p)
  if free && decide (8 * n < sum.natAbs) then
    { p with
      tick := { t with
                lastAdjust := some (now p)
                adjShort := if 0 < sum then inc32 t.adjShort else t.adjShort
                adjLong := if 0 < sum then t.adjLong else inc32 t.adjLong } }
  else p

/-- Steering goes on at every boundary of a package outside the master rack, so that one tick in 256 is adjusted while the average
exceeds 4 ns (R62, step 4). DESIGN CHOICE: not in holdover, since R62 does not say whether it does (log entry 43). -/
def steerTick (p : Pkg) : Pkg := if p.tick.phaseLocked && !masterRack p then steer p else p

/-- A stamp of R387: the tick count and the nanoseconds within the tick, at most 109. -/
def stampAt (t ns : Nat) : Bytes := if ns ≤ 109 then toLE 8 t ++ toLE 2 ns else toLE 8 (t + ns / 100) ++ toLE 2 (ns % 100)

/-- A stamp in the present tick, and one taken some ticks before the event was sampled (R65, R387). -/
def stampBytes (p : Pkg) (ns : Nat) : Bytes := stampAt (now p) ns
def stampAgo (p : Pkg) (ago ns : Nat) : Bytes := stampAt (now p - ago) ns

/-- The nanoseconds that a stamp stands for. -/
def stampNs (b : Bytes) (off : Nat) : Int := (100 * fieldAt b off 8 : Nat) + (fieldAt b (off + 8) 2 : Nat)

/-- A time record (Table 11-14). -/
def timeRec (ctype xseq : Nat) (t1 t2 t3 : Bytes) : Bytes :=
  toLE 1 ctype ++ zeros 1 ++ toLE 2 xseq ++ zeros 4 ++ t1 ++ zeros 6 ++ t2 ++ zeros 6 ++ t3 ++ zeros 102

end Sys2Proof.Machine
end

