-- ==== Sys2Proof/Machine/Operands.lean ====
section
/-! DEFINITION. Operand forms: the fields of array words and parameter blocks (Tables 4-4 to 4-12), panels (R110, Table 4-2),
and operands as the arithmetic sees them: elements, block scales and lifted values (R73 to R93). -/

namespace Sys2Proof.Machine

/-! ### Fields of array words (R116) -/

/-- Bits [hi:lo] of the four-byte row that starts at a byte of a 128-bit word. -/
def wbits (w row hi lo : Nat) : Nat := bitsOf w (8 * row + hi) (8 * row + lo)

/-- One bit of such a row. -/
def wbit (w row i : Nat) : Bool := bitOf w (8 * row + i)

def wOp (w : Nat) : Nat := wbits w 0 3 0
def wM (w : Nat) : Nat := wbits w 0 15 8
def wN (w : Nat) : Nat := wbits w 0 23 16
def wLayer (w : Nat) : Nat := wbits w 12 31 16

/-- A SYNC word's KIND and BARRIER (Table 4-11). -/
def syncKind (w : Nat) : Nat := wbits w 0 6 4
def syncBar (w : Nat) : Nat := wbits w 0 15 8
def syncLayer (w : Nat) : Nat := wbits w 0 31 16

/-- An operand's format, scheme, source and place (Tables 4-4 and 4-6). -/
structure OpdSpec where
  fmt : Nat
  sch : Nat
  chan : Option Nat
  addr : Nat
deriving DecidableEq, Repr

/-- The operands of an MMA word (Table 4-4). -/
def mmaA (w : Nat) : OpdSpec :=
  { fmt := wbits w 4 25 21, sch := wbits w 4 27 26, chan := if wbit w 0 6 then some (wbits w 0 25 24) else none
    addr := wbits w 8 15 0 }
def mmaB (w : Nat) : OpdSpec :=
  { fmt := wbits w 8 20 16, sch := wbits w 8 22 21, chan := if wbit w 0 7 then some (wbits w 0 27 26) else none
    addr := wbits w 12 15 0 }

/-- The operands of a FUSE2 from its parameter block (Table 4-6): number 0, 1 or 2 for A, B or D. -/
def fuseOpd (b : Bytes) (k : Nat) : OpdSpec :=
  let x := fieldAt b (6 + k) 1
  { fmt := bitsOf x 4 0, sch := bitsOf x 6 5
    chan := if bitOf x 7 then some (bitsOf (fieldAt b 9 1) (2 * k + 1) (2 * k)) else none
    addr := fieldAt b (2 * k) 2 }

/-- A byte read as signed. -/
def signed8 (n : Nat) : Int := if n < 128 then n else (n : Int) - 256
/-- 32 bits read as signed. -/
def signed32 (n : Nat) : Int := if n < 2 ^ 31 then n else (n : Int) - 2 ^ 32

/-! ### Panels (R110, Table 4-2) -/

/-- SEG: bytes of a 128-element row segment. -/
def segBytes (f : Nat) : Nat :=
  match f with
  | 2 => 512 | 0 => 256 | 1 => 256 | 3 => 128 | 4 => 128 | 8 => 128 | 5 => 96 | 6 => 96 | 7 => 64 | 9 => 64 | 10 => 64
  | 11 => 32 | 12 => 32 | _ => 0

/-- SC: bytes of scales of a row segment. -/
def scBytes (s : Nat) : Nat := match s with | 1 => 4 | 2 => 8 | 3 => 32 | _ => 0

/-- Bytes of a panel of R rows (R110). -/
def panelBytes (r f s : Nat) : Nat := r * segBytes f + roundUp (r * scBytes s) 32

/-- Bytes of a tensor of R rows and C columns. -/
def tensorBytes (r c f s : Nat) : Nat := ceilDiv c 128 * panelBytes r f s

/-- The code of element i of a row segment (R75, R76, R111). -/
def elCode (f : Nat) (seg : Bytes) (i : Nat) : Nat :=
  if f = 11 then
    let v := fieldAt seg (i / 5) 1
    if v ≥ 243 then 3 else v / 3 ^ (i % 5) % 3
  else if f = 10 then bitsOf (fieldAt seg (3 * i / 8) 2) (3 * i % 8 + 2) (3 * i % 8)
  else
    let w := elBits f
    bitsOf (fieldAt seg (w * i / 8) 4) (w * i % 8 + w - 1) (w * i % 8)

/-- The 128 codes of a row segment as bytes (R75). -/
def packCodes (f : Nat) (codes : List Nat) : Bytes :=
  toLE (segBytes f) (codes.foldr (fun c acc => acc * 2 ^ elBits f + c) 0)

/-! ### Operands -/

/-- An operand as a product sees it: elements (none contributes zero), block scales, whether an S2 scale is zero, and the lifted
values of a segment with their indices. -/
structure Opd where
  fmt : Nat
  sch : Nat
  el : Nat → Nat → Option Val
  scale : Nat → Nat → Val
  zero : Nat → Nat → Bool
  lifted : Nat → Nat → List (Nat × Val)

/-- The value 1. -/
def vOne : Val := .fin false 1 0

/-- The lifted values of a sidecar, in slot order (Table 3-8). -/
def liftedOf (side : Bytes) : List (Nat × Val) :=
  (upto (min 4 (fieldAt side 1 1 % 8))).map fun k =>
    (bitsOf (fieldAt side (4 + 4 * k) 4) 22 16, decodeFp fmtBF16 (fieldAt side (4 + 4 * k) 2))

/-- An operand in panel layout: the bytes at a place, and the base exponent of the sidecar in each unit of them. -/
def panelOpd (r f s : Nat) (get : Nat → Nat → Bytes) (base : Nat → Int) : Opd :=
  let pb := panelBytes r f s
  let segAt (i c : Nat) : Bytes := get (c / 128 * pb + i * segBytes f) (segBytes f)
  let scAt (i c : Nat) : Nat := c / 128 * pb + r * segBytes f + i * scBytes s
  let code (i c : Nat) : Nat :=
    match s with
    | 1 => fieldAt (get (scAt i c + c % 128 / 32) 1) 0 1
    | 2 => fieldAt (get (scAt i c + c % 128 / 16) 1) 0 1
    | 3 => fieldAt (get (scAt i c) 1) 0 1
    | _ => 0
  { fmt := f, sch := s
    el := fun i c => decodeEl f s (elCode f (segAt i c) (c % 128))
    scale := fun i c => match s with
      | 1 => e8m0 (code i c)
      | 2 => e4m3Scale (code i c)
      | 3 => scalePow (e4m3Scale (code i c)) (base (scAt i c / 32))
      | _ => vOne
    zero := fun i c => decide (s = 2 ∧ code i c % 128 = 0)
    lifted := fun i g => if s = 3 then liftedOf (get (scAt i (128 * g)) 32) else [] }

/-- BF16 and FP16 products go in element by element (R88). -/
def wideFmt (f : Nat) : Bool := decide (f = 0 ∨ f = 1)

/-- The granule of a product (R87). -/
def granule (a b : Opd) : Nat := if a.sch = 2 ∨ b.sch = 2 then 16 else if a.sch = 1 ∨ b.sch = 1 then 32 else 128

/-- Products of one granule, summed exactly (R88, step 1); a code outside its range contributes zero (R74). -/
def granuleSum (a b : Opd) (i j lo n : Nat) : Val :=
  (upto n).foldl (fun s e => match a.el i (lo + e), b.el j (lo + e) with
    | some x, some y => vadd s (vmul x y)
    | _, _ => s) (.fin false 0 0)

/-- One granule into the accumulator (R84, R88). -/
def addGranule (a b : Opd) (i j lo n : Nat) (acc : Word32) : Word32 :=
  if b.zero j lo || a.zero i lo then fadd acc 0#32
  else
    let g := toF32 (granuleSum a b i j lo n)
    let g1 := if b.sch = 0 then g else toF32 (vmul (f32 g) (b.scale j lo))
    let g2 := if a.sch = 0 then g1 else toF32 (vmul (f32 g1) (a.scale i lo))
    fadd acc g2

/-- Elements of a wide product one by one: each product with its scales is exact in FP32, each addition rounded (R88; log
entry 19); an element of a block whose S2 scale is zero contributes zero (R84). -/
def addWide (a b : Opd) (i j lo n : Nat) (acc : Word32) : Word32 :=
  (upto n).foldl (fun s e => match a.el i (lo + e), b.el j (lo + e) with
    | some x, some y =>
      if b.zero j (lo + e) || a.zero i (lo + e) then fadd s 0#32
      else fadd s (toF32 (vmul (vmul x (a.scale i (lo + e))) (vmul y (b.scale j (lo + e)))))
    | _, _ => s) acc

/-- The lifted values of a segment times the weights at their indices (R93). -/
def addLifted (a b : Opd) (i j g k : Nat) (acc : Word32) : Word32 :=
  (a.lifted i g).foldl (fun s x =>
    let c := 128 * g + x.1
    if c < k then
      match b.el j c with
      | some y => if b.zero j c then fadd s 0#32 else fadd s (toF32 (vmul x.2 (vmul y (b.scale j c))))
      | none => s
    else s) acc

/-- The product of row i of A and row j of B over k elements, added to an accumulator in segment order (R87 to R90, R93, R134). -/
def dot (a b : Opd) (i j k : Nat) (acc : Word32) : Word32 :=
  let gs := granule a b
  (upto (ceilDiv k 128)).foldl (fun s g =>
    let len := min 128 (k - 128 * g)
    let s1 :=
      if wideFmt a.fmt || wideFmt b.fmt then addWide a b i j (128 * g) len s
      else (upto (ceilDiv len gs)).foldl (fun t q => addGranule a b i j (128 * g + gs * q) (min gs (len - gs * q)) t) s
    addLifted a b i j g k s1) acc

/-! ### The output stage (R77 to R85, R91, R94, R132) -/

/-- A converted row segment: segment bytes, scale bytes, and its counts. -/
structure RowOut where
  seg : Bytes
  scales : Bytes
  conv : Nat := 0
  sat : Nat := 0
  ftz : Nat := 0
  ovf : Nat := 0
  nan : Bool := false
deriving DecidableEq, Repr

/-- The magnitude of a finite value; none of a NaN or an infinity. -/
def finMag (v : Val) : Option (Nat × Int) := match v with | .fin _ m e => some (m, e) | _ => none

/-- The largest magnitude of finite elements (R83, R85). -/
def amaxOf (vs : List (Option Word32)) : Nat × Int :=
  vs.foldl (fun a v => match v.bind fun x => finMag (f32 x) with
    | some (m, e) => if magGt m e a.1 a.2 then (m, e) else a
    | none => a) (0, 0)

/-- Convert the elements of a part of a row, each first multiplied by a factor given as a value to divide by. -/
def convertPart (f s : Nat) (div : Val) (vs : List (Option Word32)) : List (Option Conv) :=
  vs.map fun v => v.map fun x =>
    if f = 2 then ⟨x.toNat, false, false⟩ else convertTo f s (if div = vOne then f32 x else vdiv (f32 x) div)

/-- Put converted elements together with their counts; elements that do not take part are zero codes. -/
def rowOut (f : Nat) (cs : List (Option Conv)) (vs : List (Option Word32)) (scales : Bytes) (ovf : Nat) : RowOut :=
  { seg := packCodes f (cs.map fun c => match c with | some x => x.code | none => 0)
    scales := scales
    conv := (vs.filter Option.isSome).length
    sat := (cs.filter fun c => match c with | some x => x.sat | none => false).length
    ftz := (cs.filter fun c => match c with | some x => x.flush | none => false).length
    ovf := ovf
    nan := vs.any fun v => match v with | some x => isNan x | none => false }

/-- The block exponent X of R83. -/
def blockExp (f : Nat) (a : Nat × Int) : Int := max (-127) (min 127 (a.2 + Nat.log2 a.1 - emaxOf f))

/-- A row under S1: four blocks of 32 (R83). -/
def rowS1 (f : Nat) (vs : List (Option Word32)) : RowOut :=
  let blocks := chunks 32 4 vs
  let one (b : List (Option Word32)) : Nat × List (Option Conv) :=
    let a := amaxOf b
    if a.1 = 0 then (0, convertPart f 1 (.fin false 1 (-127)) b)
    else
      let x := blockExp f a
      ((x + 127).toNat, convertPart f 1 (.fin false 1 x) b)
  let r := blocks.map one
  rowOut f (r.flatMap Prod.snd) vs (r.flatMap fun x => toLE 1 x.1) 0

/-- The indices of outliers above a threshold, in descending magnitude and ascending index (R91). -/
def outliers (vs : List (Option Word32)) (th : Nat × Int) : List (Nat × Word32) :=
  let idx := (vs.zip (upto 128)).filterMap fun e => e.1.map fun x => (e.2, x)
  let above (x : Word32) : Bool :=
    match f32 x with | .nan => false | .inf _ => true | .fin _ m e => magGt m e th.1 th.2
  let bigger (a b : Nat × Word32) : Bool := vlt (f32 (b.2 &&& 0x7FFFFFFF#32)) (f32 (a.2 &&& 0x7FFFFFFF#32))
  sortBy bigger (idx.filter fun e => above e.2)

/-- A row under S3 with clip exponent c, base exponent b and the dewclaw lane on or off (R85, R91, R92). -/
def rowS3 (f c : Nat) (b : Int) (dew : Bool) (vs : List (Option Word32)) : RowOut :=
  let a := amaxOf vs
  let th : Nat × Int := (a.1, a.2 - c)
  let s := e4m3Ceil th.1 (outF f) (th.2 - b)
  let applied := scalePow (e4m3Scale s) b
  let outs := outliers vs th
  let lift := if dew then outs.take 4 else []
  let rest := outs.drop lift.length
  let lifted := lift.map fun e => (e.1, convertFp fmtBF16 (f32 e.2))
  let conv (e : Option Word32 × Nat) : Option Conv :=
    match e.1 with
    | none => none
    | some x =>
      if lift.any fun l => decide (l.1 = e.2) then some ⟨0, false, false⟩
      else if rest.any fun l => decide (l.1 = e.2) then
        some { (convertTo f 3 (.inf (bitOf x.toNat 31))) with sat := false }
      else convertTo f 3 (vdiv (f32 x) applied)
  let cs := (vs.zip (upto 128)).map conv
  let slots := lifted.flatMap fun l => toLE 4 (l.2.code + l.1 * 2 ^ 16)
  let side := toLE 1 s ++ toLE 1 lifted.length ++ zeros 2 ++ (slots ++ zeros 28).take 28
  let r := rowOut f cs vs side rest.length
  { r with
    sat := r.sat + (lifted.filter fun l => l.2.sat).length
    ftz := r.ftz + (lifted.filter fun l => l.2.flush).length }

/-- Convert a row of 128 columns into an output format and scheme; none is a column that takes no part. -/
def convertRow (f s c : Nat) (b : Int) (dew : Bool) (vs : List (Option Word32)) : RowOut :=
  match s with
  | 1 => rowS1 f vs
  | 3 => rowS3 f c b dew vs
  | _ =>
    let cs := convertPart f 0 vOne vs
    if f = 2 then { rowOut f cs vs [] 0 with sat := 0, ftz := 0 } else rowOut f cs vs [] 0

end Sys2Proof.Machine
end

