-- ==== Sys2Proof/Machine/KvOps.lean ====
section
/-! DEFINITION. Shared operations of KV pages: bands and parts, writing and reading KV, allocation, copy-on-write, retirement,
eviction and pre-emption (R314 to R341). -/

namespace Sys2Proof.Machine

/-! ### Bands and parts (R315, R316) -/

/-- A band with its head dimensions and its affinity group. -/
structure Band where
  layer : Nat
  head : Nat
  count : Nat
  group : Nat
  dk : Nat
  dv : Nat
deriving DecidableEq, Repr

/-- The 64-byte parameter block that a FUSE2 word of a segment names, read from the segment's constant data (R120, R153). DESIGN
CHOICE: no check refuses a PARAM outside that data; the loader then checks the bytes of CONSTANTS at that distance, which are not those
that FUSE2 reads from local SRAM (log entry 42). -/
def paramBlock (i : Image) (seg w : Nat) : Bytes :=
  let d := i.segs.getD seg {}
  ((i.consts.drop (d.constFirst + 32 * (wbits w 12 15 0 - d.constLaddr))).take 64)

/-- The words of a segment. -/
def segWords (i : Image) (seg : Nat) : List Nat :=
  let d := i.segs.getD seg {}
  (i.words.drop d.wordFirst).take d.wordCount

/-- FUSE2 words of a list whose B operand comes from a channel of a segment (R165). -/
def gatherOf (i : Image) (seg chan : Nat) (ws : List Nat) : List Nat :=
  ws.filter fun w => decide (wOp w = 2) && decide ((fuseOpd (paramBlock i seg w) 1).chan = some chan)

/-- FUSE2 words of a segment whose B operand comes from a channel (R165). -/
def gatherWords (i : Image) (seg chan : Nat) : List Nat := gatherOf i seg chan (segWords i seg)

/-- Streams of an attention map entry: one for each pair of slot and head (R165). -/
def streamsIn (e : AttEnt) : Nat := e.slotCount * e.headCount

/-- Streams on an entry's key channel before its own, in map order (R165): for each place where the map holds such an entry. -/
def streamsBefore (i : Image) (e : AttEnt) : List Nat :=
  ((upto i.att.length).filter fun k => decide (i.att[k]? = some e)).map fun k =>
    sumL (((i.att.take k).filter fun x => decide (x.seg = e.seg ∧ x.bChan = e.bChan)).map streamsIn)

/-- The head dimensions dk and dv of the words of a list that consume the streams of an entry, from the k-th gather word of the list
(R165, R315). -/
def dimsOf (i : Image) (e : AttEnt) (k : Nat) (ws : List Nat) : List (Nat × Nat) :=
  let g := gatherOf i e.seg e.bChan ws
  (((g.zip (upto g.length)).drop k).filter fun x => (streamsBefore i e).any fun b => decide (b ≤ x.2 ∧ x.2 < b + streamsIn e)).map
    fun x => (wbits x.1 8 20 0, wN x.1)

/-- The band of an attention map entry: its head dimensions are those of the words that consume its streams (R315). -/
def bandOf (i : Image) (e : AttEnt) : Band :=
  let d := ((dimsOf i e 0 (segWords i e.seg)).head?).getD (0, 0)
  { layer := e.layer, head := e.headFirst, count := e.headCount, group := (i.segs.getD e.seg {}).affinity, dk := d.1, dv := d.2 }

/-- The bands of an image in ascending layer and then head (R316). -/
def bandsOf (i : Image) : List Band :=
  sortBy (fun a b => decide (a.layer < b.layer) || (decide (a.layer = b.layer) && decide (a.head < b.head)))
    ((i.att.map (bandOf i)).eraseDups)

/-- Affinity groups that hold a band, as a mask (R315). -/
def groupMask (i : Image) : Nat :=
  sumL ((upto 4).map fun g => if (bandsOf i).any fun b => decide (b.group = g) then 2 ^ g else 0)

/-- Tokens of a page of a pen's image (R314). -/
def pageTokens (compat : Bool) : Nat := if compat then 256 else 16

/-- Bytes of a K block and of a V block of a head, for a format code (Table 10-1). -/
def kBytes (fmt dk p : Nat) : Nat := ceilDiv dk 128 * (if fmt = 7 then p * 64 + p * 8 else p * 128)
def vBytes (fmt dv p : Nat) : Nat := if fmt = 7 then roundUp (dv * (p / 2 + p / 16)) 32 else roundUp (dv * p) 32

/-- Bytes of one head of a band in a part. -/
def headBytes (i : Image) (b : Band) (p : Nat) : Nat := kBytes i.kvK b.dk p + vBytes i.kvV b.dv p

/-- Bytes of a part of a group. -/
def partBytes (i : Image) (g p : Nat) : Nat :=
  sumL (((bandsOf i).filter fun b => decide (b.group = g)).map fun b => b.count * headBytes i b p)

/-- FRAME_BYTES (R317). -/
def frameBytesOf (i : Image) (p : Nat) : Nat :=
  max 16384 (roundUp ((upto 4).foldl (fun m g => max m (partBytes i g p)) 0) 4096)

/-- Bytes of the tail blocks that the pool sets aside (R323). -/
def tailBytes (i : Image) : Nat :=
  if i.kvV = 7 then
    4096 * sumL (((upto 4).filter fun g => bitOf (groupMask i) g).map fun g =>
      roundUp (sumL (((bandsOf i).filter fun b => decide (b.group = g)).map fun b => b.count * b.dv) * 32) 4096)
  else 0

/-- One head of one band: its group, its place among all heads, and where its K and V blocks start in its part. -/
structure HeadAt where
  band : Band
  head : Nat
  ordinal : Nat
  off : Nat
deriving DecidableEq, Repr

/-- The heads of a group in part order, with the byte offsets of their K blocks (R316). -/
def headsOfGroup (i : Image) (p g start : Nat) : List HeadAt :=
  (((bandsOf i).filter fun b => decide (b.group = g)).foldl (fun (a : List HeadAt × Nat × Nat) b =>
    let hs := (upto b.count).map fun k =>
      ({ band := b, head := b.head + k, ordinal := a.2.2 + k, off := a.2.1 + k * headBytes i b p } : HeadAt)
    (a.1 ++ hs, a.2.1 + b.count * headBytes i b p, a.2.2 + b.count)) ([], 0, start)).1

/-- All heads in part order: groups ascending, then bands (R318; log entry 20). -/
def headsAll (i : Image) (p : Nat) : List HeadAt :=
  (upto 4).foldl (fun acc g => acc ++ headsOfGroup i p g acc.length) []

/-- A head of the band of an attention map entry (R165, R315). -/
def headAt (i : Image) (p : Nat) (e : AttEnt) (head : Nat) : Option HeadAt :=
  (headsAll i p).find? fun h => decide (h.band = bandOf i e ∧ h.head = head)

/-- The index of a group among the page groups (R317). -/
def groupIndex (mask g : Nat) : Nat := ((upto g).filter fun k => bitOf mask k).length

/-! ### Reading and writing frames -/

/-- The frame that holds a part, if it is in DRAM. -/
def frameAt (p : Pkg) (e page g : Nat) : Option Nat :=
  let r := reqOf p e
  match tget .unheld r.parts (page * gOf (poolOf p r.pen) + groupIndex (poolOf p r.pen).groups g) with
  | .frame f => some f
  | _ => none

/-- A part is ABSENT. -/
def partAbsent (p : Pkg) (e page g : Nat) : Bool :=
  let r := reqOf p e
  decide (tget .unheld r.parts (page * gOf (poolOf p r.pen) + groupIndex (poolOf p r.pen).groups g) = .absent)

/-- Bytes of a frame. -/
def frameGet (p : Pkg) (n f off len : Nat) : Bytes := tgetList 0 (tget {} (poolOf p n).tab f).data off len

/-- Write bytes of a frame. -/
def framePut (p : Pkg) (n f off : Nat) (b : Bytes) : Pkg :=
  modPool p n fun o => { o with tab := tmod {} o.tab f fun x => { x with data := tsetList 0 x.data off b } }

/-- Quantise a block of 16 values to E2M1 with its E4M3 scale; the count of saturations (R319). -/
def quantBlock (vs : List Val) : List Nat × Nat × Nat :=
  let a := vs.foldl (fun (a : Nat × Int) v => match finMag v with
    | some (m, e) => if magGt m e a.1 a.2 then (m, e) else a
    | none => a) (0, 0)
  let s := if a.1 = 0 then 0 else e4m3Ceil a.1 6 a.2
  let cs := vs.map fun v => convertFp fmtE2M1 (if s = 0 then v else vdiv v (e4m3Scale s))
  (cs.map (·.code), s, (cs.filter (·.sat)).length)

/-- Set one nibble of a byte. -/
def putNibble (old : Byte) (hi : Bool) (c : Nat) : Byte :=
  BitVec.ofNat 8 (if hi then old.toNat % 16 + 16 * c else old.toNat / 16 * 16 + c)

/-- Count saturated KV conversions (R319). -/
def countSat (p : Pkg) (n k : Nat) : Pkg := modPool p n fun o => { o with convSat := satAdd sat64 o.convSat k }

/-- The key of a V value in a request's tails: two blocks of 16 tokens are told apart (R319; log entry 20). -/
def tailKey (ord d tok : Nat) : Nat := (ord * 128 + d) * 32 + tok % 32

/-- Write one row of K of a token: up to 128 columns of a panel of a head (R319). -/
def putK (p : Pkg) (i : Image) (n f : Nat) (h : HeadAt) (panel tok : Nat) (vs : List Val) : Pkg :=
  let pt := pageTokens (penOf p n).compat
  let t := tok % pt
  if i.kvK = 7 then
    let base := h.off + panel * (pt * 72)
    let qs := (chunks 16 8 vs).map quantBlock
    let p1 := framePut p n f (base + t * 64) (packCodes 7 (qs.flatMap fun q => q.1))
    let p2 := framePut p1 n f (base + pt * 64 + t * 8) (qs.map fun q => BitVec.ofNat 8 q.2.1)
    countSat p2 n (sumL (qs.map fun q => q.2.2))
  else
    let cs := vs.map (convertFp fmtE4M3)
    countSat (framePut p n f (h.off + panel * (pt * 128) + t * 128) (cs.map fun c => BitVec.ofNat 8 c.code)) n
      (cs.filter (·.sat)).length

/-- Quantise the tail of one value dimension over the tokens of a block, up to a number of them (R319, R320). -/
def tailBlock (r : Req) (ord d first count : Nat) : List Nat × Nat × Nat :=
  quantBlock ((upto 16).map fun k =>
    if k < count then decodeFp fmtBF16 (tget 0 r.tail (tailKey ord d (first + k))) else .fin false 0 0)

/-- The key of a block of 16 tokens of a head's V in a step. -/
def blockKey (e ord tok : Nat) : Nat := (e * 2 ^ 16 + ord) * 2 ^ 16 + tok / 16

/-- Write one row of V of a token: the value dimensions of a head (R319). A row of a token that comes after its block's 16th token has been
written changes the block, so it is quantised again (log entry 20). -/
def putV (p : Pkg) (i : Image) (e n f : Nat) (h : HeadAt) (tok : Nat) (vs : List Val) : Pkg :=
  let pt := pageTokens (penOf p n).compat
  let t := tok % pt
  let base := h.off + kBytes i.kvK h.band.dk pt
  let dims := (vs.zip (upto h.band.dv))
  if i.kvV = 7 then
    let p1 := forAll dims (fun q x => modReq q e fun r =>
      { r with tail := tset 0 r.tail (tailKey h.ordinal x.2 tok) (convertFp fmtBF16 x.1).code }) p
    let again := match (penOf p n).step with | some y => tget false y.quantised (blockKey e h.ordinal tok) | none => false
    if tok % 16 = 15 ∨ again = true then
      modStep (forAll dims (fun q x =>
        let b := tailBlock (reqOf q e) h.ordinal x.2 (tok - tok % 16) 16
        let q1 := framePut q n f (base + x.2 * (pt / 2) + (t - t % 16) / 2) ((packCodes 7 b.1).take 8)
        countSat (framePut q1 n f (base + h.band.dv * (pt / 2) + x.2 * (pt / 16) + t / 16) [BitVec.ofNat 8 b.2.1]) n b.2.2) p1) n
        fun y => { y with quantised := tset false y.quantised (blockKey e h.ordinal tok) true }
    else p1
  else
    forAll dims (fun q x =>
      let c := convertFp fmtE4M3 x.1
      countSat (framePut q n f (base + x.2 * pt + t) [BitVec.ofNat 8 c.code]) n (bitN c.sat)) p

/-- One region of the append window: its head, whether it is V, its start and its bytes (R318). -/
structure Region where
  h : HeadAt
  isV : Bool
  fmt : Nat
  start : Nat
  bytes : Nat
deriving DecidableEq, Repr

/-- The STOREs of panels to the KV buffer: the byte offset of each and the output format of its layer (R318). -/
def windowStores (i : Image) : List (Nat × Nat) :=
  (i.words.filter fun w => decide (wOp w = 6 ∧ (i.relocs.getD (wbits w 4 27 16) {}).kind = 3) && wbit w 0 4 && !wbit w 0 6).map fun w =>
    (32 * wbits w 8 31 0, (i.recs.getD (wLayer w) {}).oFmt)

/-- The format of a region that starts at an offset and takes some bytes in BF16: that of a STORE into it. DESIGN CHOICE: one that no STORE
writes is in the format of the region before it, the first in BF16 (log entry 44). -/
def regionFmt (stores : List (Nat × Nat)) (start bytes before : Nat) : Nat :=
  match stores.find? fun s => decide (start ≤ s.1 ∧ s.1 < start + bytes) with
  | some s => s.2
  | none => before

/-- The regions of the append window, each in the format, BF16 or FP32, of the STOREs that fill it (R318). -/
def regionsOf (i : Image) (p : Nat) : List Region :=
  let rows := i.batchSlots * i.positions
  let stores := windowStores i
  let one (a : List Region × Nat × Nat) (h : HeadAt) (v : Bool) (d : Nat) : List Region × Nat × Nat :=
    let f := regionFmt stores a.2.1 (ceilDiv d 128 * (rows * segBytes 0)) a.2.2
    let bytes := ceilDiv d 128 * (rows * segBytes f)
    (a.1 ++ [{ h := h, isV := v, fmt := f, start := a.2.1, bytes := bytes }], a.2.1 + bytes, f)
  ((headsAll i p).foldl (fun a h => one (one a h false h.band.dk) h true h.band.dv) ([], 0, 0)).1

/-- Bytes of the append window (R318). -/
def windowBytes (i : Image) (p : Nat) : Nat := sumL ((regionsOf i p).map (·.bytes))

/-- One row that a STORE delivers to the KV buffer at a byte offset (R318, R319): to the history index that its slot feeds at that
position, beyond the slot's tokens too; rows of empty slots are dropped. -/
def kvRow (p : Pkg) (n off : Nat) (vs : List Val) : Pkg :=
  match (penOf p n).image, (penOf p n).step with
  | some i, some t =>
    let pt := pageTokens (penOf p n).compat
    match (regionsOf i pt).find? fun r => decide (r.start ≤ off ∧ off < r.start + r.bytes) with
    | none => p
    | some r =>
      let rows := i.batchSlots * i.positions
      let k := (off - r.start) / segBytes r.fmt
      let panel := k / rows
      let slot := k % rows / i.positions
      let q := k % rows % i.positions
      match tget none t.slots slot with
      | none => p
      | some u =>
        let tok := u.first + q
        match frameAt p u.entry (tok / pt) r.h.band.group with
        | none => p
        | some f =>
          if r.isV then putV p i u.entry n f r.h tok vs
          else putK p i n f r.h panel tok (vs.take (r.h.band.dk - 128 * panel))
  | _, _ => p

/-! ### Gather streams (R144, R320) -/

/-- The present logical pages of a group below a history length (R320). -/
def presentPages (p : Pkg) (e g len pt : Nat) : List Nat :=
  (upto (ceilDiv len pt)).filter fun i => !partAbsent p e i g

/-- A gather stream: request, head, present pages, the first history index that its slot feeds, the end of the history it holds,
and L. -/
structure Stream where
  entry : Nat
  h : HeadAt
  pages : List Nat
  first : Nat
  stop : Nat
  keys : Nat
deriving DecidableEq, Repr

/-- The stream of a slot and head of an attention map entry in the running step; none for an empty slot (R165, R320). -/
def streamOf (p : Pkg) (n : Nat) (a : AttEnt) (head slot : Nat) : Option Stream :=
  match (penOf p n).image, (penOf p n).step with
  | some i, some t =>
    let pt := pageTokens (penOf p n).compat
    match tget none t.slots slot, headAt i pt a head with
    | some u, some h =>
      let stop := u.first + i.positions
      let pages := presentPages p u.entry h.band.group stop pt
      some { entry := u.entry, h := h, pages := pages, first := u.first, stop := stop
             keys := pages.length * pt - (ceilDiv stop pt * pt - stop) }
    | _, _ => none
  | _, _ => none

/-- The history index of a key of a stream. -/
def keyTok (s : Stream) (pt k : Nat) : Nat := s.pages.getD (k / pt) 0 * pt + k % pt

/-- The header of a stream, for a KV format code (Table 4-14); L = 0 where the slot is empty, DESIGN CHOICE with REQ and CTX 0, which R144 leaves
open (log entry 43). -/
def streamHeader (p : Pkg) (n fmt head : Nat) (s : Option Stream) : Bytes :=
  let keys := match s with | some x => x.keys | none => 0
  let own := match s with | some x => x.entry + 2 ^ 12 * (reqOf p x.entry).ctx | none => 0
  toLE 4 keys ++ toLE 1 (fmt + if fmt = 7 then 2 ^ 6 else 0) ++ toLE 1 (bitN (penOf p n).compat) ++ toLE 2 head ++ toLE 4 own ++
    zeros 4 ++ toLE 4 fOne.toNat ++ zeros 12

/-- One chunk of the B channel: panels of 128 rows, one row per key (R144). -/
def chunkK (p : Pkg) (n : Nat) (i : Image) (s : Stream) (chunk : Nat) : Bytes :=
  let pt := pageTokens (penOf p n).compat
  let get (j off len : Nat) : Bytes :=
    let key := 128 * chunk + j
    if key < s.keys then
      match frameAt p s.entry (keyTok s pt key / pt) s.h.band.group with
      | some f => frameGet p n f (s.h.off + off) len
      | none => zeros len
    else zeros len
  let t (j : Nat) : Nat := keyTok s pt (128 * chunk + j) % pt
  (upto (ceilDiv s.h.band.dk 128)).flatMap fun q =>
    if i.kvK = 7 then
      ((upto 128).flatMap fun j => get j (q * (pt * 72) + t j * 64) 64) ++
        (upto 128).flatMap fun j => get j (q * (pt * 72) + pt * 64 + t j * 8) 8
    else (upto 128).flatMap fun j => get j (q * (pt * 128) + t j * 128) 128

/-- One chunk of the D channel: one panel of N2 rows, one row per value dimension (R144). A block still in its tail is quantised here:
one whose 16th token the step has not written (R320). -/
def chunkV (p : Pkg) (n : Nat) (i : Image) (s : Stream) (chunk : Nat) : Bytes :=
  let pt := pageTokens (penOf p n).compat
  let base := s.h.off + kBytes i.kvK s.h.band.dk pt
  let done := match (penOf p n).step with | some t => t.quantised | none => []
  let tok (c : Nat) : Nat := keyTok s pt (128 * chunk + c)
  let byte (c off : Nat) : Nat :=
    match frameAt p s.entry (tok c / pt) s.h.band.group with
    | some f => fieldAt (frameGet p n f (base + off) 1) 0 1
    | none => 0
  let held (c : Nat) : Bool := decide (128 * chunk + c < s.keys)
  let rows := upto s.h.band.dv
  if i.kvV = 7 then
    let blk (c : Nat) : Nat := tok c / 16 * 16
    let inTail (c : Nat) : Bool := decide (s.first < blk c + 16) && !tget false done (blockKey s.entry s.h.ordinal (blk c))
    let tb (d c : Nat) : List Nat × Nat × Nat := tailBlock (reqOf p s.entry) s.h.ordinal d (blk c) (s.stop - blk c)
    let code (d c : Nat) : Nat :=
      if !held c then 0
      else if inTail c then (tb d c).1.getD (tok c % 16) 0
      else byte c (d * (pt / 2) + tok c % pt / 2) / (if tok c % 2 = 1 then 16 else 1) % 16
    let scale (d c : Nat) : Nat :=
      if !held c then 0
      else if inTail c then (tb d c).2.1
      else byte c (s.h.band.dv * (pt / 2) + d * (pt / 16) + blk c % pt / 16)
    let scales := rows.flatMap fun d => (upto 8).flatMap fun g => toLE 1 (scale d (16 * g))
    (rows.flatMap fun d => packCodes 7 ((upto 128).map (code d))) ++ scales ++ zeros (roundUp scales.length 32 - scales.length)
  else
    rows.flatMap fun d => (upto 128).flatMap fun c =>
      toLE 1 (if held c then byte c (d * pt + tok c % pt) else 0)

/-- Chunks of a stream. -/
def chunksOf (s : Option Stream) : Nat := match s with | some x => ceilDiv x.keys 128 | none => 0

/-! ### Allocation, copy-on-write and starvation (R326, R329, R338) -/

/-- Page-list keys that a request's fed positions reach and that hold no frame (R326). -/
def missingKeys (p : Pkg) (e stop : Nat) : List Nat :=
  let r := reqOf p e
  let g := gOf (poolOf p r.pen)
  (upto (ceilDiv stop (pageSize p r.pen) * g)).filter fun k => decide (tget .unheld r.parts k = .unheld)

/-- Keys of shared parts that a request's fed positions write (R329). -/
def sharedKeys (p : Pkg) (e first stop : Nat) : List Nat :=
  let r := reqOf p e
  let g := gOf (poolOf p r.pen)
  let pt := pageSize p r.pen
  ((upto (ceilDiv stop pt * g)).drop (first / pt * g)).filter fun k => match tget .unheld r.parts k with
    | .frame f => decide (1 < (tget {} (poolOf p r.pen).tab f).refs)
    | _ => false

/-- Take a frame for a request's part; its reservation is drawn on first (R325). -/
def allocPart (p : Pkg) (e k : Nat) : Option (Nat × Pkg) :=
  let r := reqOf p e
  let g := max 1 (gOf (poolOf p r.pen))
  match takeFrame (poolOf p r.pen) (partQuad p r.pen (k % g)) 1 0 with
  | none => none
  | some (f, o) =>
    let draw := min 1 r.reserved
    let p1 := modPool p r.pen fun _ => { o with reserved := o.reserved - draw }
    some (f, modReq p1 e fun x => { x with parts := tset .unheld x.parts k (.frame f), reserved := x.reserved - draw })

/-- Allocate parts in order; none when a frame is lacking. -/
def allocParts (p : Pkg) (e : Nat) : List Nat → Option Pkg
  | [] => some p
  | k :: t => match allocPart p e k with
    | some (_, q) => allocParts q e t
    | none => none

/-- Copy-on-write of one shared part: a new frame for the writer, the source pinned until the copy completes (R329). The data is
in the new frame when the copy completes. -/
def cowPart (p : Pkg) (e k : Nat) : Option Pkg :=
  let r := reqOf p e
  match tget .unheld r.parts k with
  | .frame src =>
    match allocPart p e k with
    | some (f, q) =>
      let q1 := modPool q r.pen fun o => { pinFrame (dropRef o src) src with cowCopies := o.cowCopies ++ [(src, f)], cow := inc64 o.cow }
      some (modReq q1 e fun x => { x with own := tset false x.own k true })
    | none => none
  | _ => some p

/-- Copy-on-write of parts in order. -/
def cowParts (p : Pkg) (e : Nat) : List Nat → Option Pkg
  | [] => some p
  | k :: t => match cowPart p e k with
    | some q => cowParts q e t
    | none => none

/-- Every frame a placed request needs for the positions it feeds, or none (R326, R329). -/
def growFor (p : Pkg) (e first stop : Nat) : Option Pkg :=
  match allocParts p e (missingKeys p e stop) with
  | some q =>
    let ks := sharedKeys q e first stop
    let src := (reqOf q e).prefixH % 4096
    let tails := !ks.isEmpty && (reqOf q e).tail.isEmpty && (entryOf q (reqOf q e).ctx (reqOf q e).prefixH).isSome
    cowParts (if tails then modReq q e fun x => { x with tail := (reqOf q src).tail } else q) e ks
  | none => none

/-- Frames a request needs for the positions it feeds. -/
def framesNeeded (p : Pkg) (e first stop : Nat) : Nat := (missingKeys p e stop).length + (sharedKeys p e first stop).length

/-- A victim may be pre-empted for a request left out (R338). -/
def mayPreempt (p : Pkg) (v e : Nat) : Bool :=
  let r := reqOf p v
  let q := reqOf p e
  let late (d : Nat) : Nat := if d = 0 then 2 ^ 64 else d
  decide (r.st = rqPrefill ∨ r.st = rqDecode) && !r.inStep && decide (0 < hostRoom p r.ctx r.pen (upto 16)) &&
    (decide (r.priority < q.priority) || (decide (r.priority = q.priority) && decide (late q.nextDl < late r.nextDl)))

/-- The order in which victims are taken: lowest priority, latest deadline, higher entry (R338). -/
def victimBefore (p : Pkg) (a b : Nat) : Bool :=
  let x := reqOf p a
  let y := reqOf p b
  let late (d : Nat) : Nat := if d = 0 then 2 ^ 64 else d
  decide (x.priority < y.priority) || (decide (x.priority = y.priority) &&
    (decide (late y.nextDl < late x.nextDl) || (decide (late y.nextDl = late x.nextDl) && decide (b < a))))

/-- Swap a request out without a TTL (R338). -/
def preempt (p : Pkg) (v : Nat) : Pkg :=
  let r := reqOf p v
  let k := (ownKeys p v).length
  let p1 := modReq (stopCopies p v [0, 1, 3, 4]) v fun x => { x with st := rqSwapped, prev := r.st, kennelFull := false }
  let p2 := modPool p1 r.pen fun o => { o with preempt := inc64 o.preempt }
  let p3 := logEvent p2 r.ctx (evStatus codeKvPreempted) codeKvPreempted (handleOf p v) (r.ctx + 256 * r.pen) (handleOf p v) k
  copyOut p3 v 1

/-- Pre-empt victims until they cover a shortfall; each must still find room in its context's host region (R338). -/
def preemptFor (p : Pkg) (e short : Nat) (placed : List Nat) : Pkg :=
  let vs := sortBy (victimBefore p) ((entriesOfPen p (reqOf p e).pen).filter fun v => mayPreempt p v e && decide (v ≠ e ∧ v ∉ placed))
  (vs.foldl (fun (a : Pkg × Nat) v => if short ≤ a.2 ∨ mayPreempt a.1 v e = false then a else (preempt a.1 v, a.2 + (ownKeys a.1 v).length)) (p, 0)).1

/-- Frames that may be taken for a copy back: those free for admission and then the headroom (R336). -/
def freeForReturn (o : Pool) : Nat := freeFrames o - o.reserved

/-- Frames of a pool that copies out under way will free. -/
def freeing (o : Pool) : Nat := sumL ((o.copies.filter isOut).map fun k => k.keys.length)

/-- While the copy back of a RESUME is short of frames, victims are pre-empted for those that no copy out will free (R336, R338). -/
def returnShort (p : Pkg) (e : Nat) : Pkg :=
  let o := poolOf p (reqOf p e).pen
  let room := freeForReturn o + freeing o
  let k := sumL ((o.copies.filter fun x => decide (x.entry = e ∧ x.why = 3)).map fun x => x.keys.length)
  if room < k then preemptFor p e (k - room) [] else p

/-- KV_STARVED, at most once per pen in 10,000 ticks (R344). -/
def logStarved (p : Pkg) (e short : Nat) : Pkg :=
  let r := reqOf p e
  if mayLog (poolOf p r.pen).starvedAt (now p) then
    log (modPool p r.pen fun o => { o with starvedAt := some (now p) }) codeKvStarved r.ctx (r.ctx + 256 * r.pen) (handleOf p e) short
  else p

/-- The copies of pages made at set-up are complete: the data is in the new frames and the source pins drop (R329). -/
def cowDone (p : Pkg) (n src : Nat) : Pkg :=
  modPool p n fun o =>
    let mine := o.cowCopies.filter fun c => decide (c.1 = src)
    let data := (tget {} o.tab src).data
    let tab := mine.foldl (fun t c => tmod {} t c.2 fun x => { x with data := data }) o.tab
    let o1 := { o with tab := tab, cowCopies := o.cowCopies.filter fun c => decide (c.1 ≠ src) }
    mine.foldl (fun o2 _ => unpinFrame o2 src) o1

/-! ### Retirement (R327, R330 to R333) -/

/-- Logical pages below a bound that are present for a request. -/
def presentBelow (p : Pkg) (e f : Nat) : List Nat :=
  let r := reqOf p e
  let g := gOf (poolOf p r.pen)
  (upto f).filter fun i => decide (tget .unheld r.parts (i * g) ≠ .absent)

/-- Evict one logical page (R333). -/
def evictPage (p : Pkg) (e i : Nat) : Pkg :=
  let r := reqOf p e
  let g := gOf (poolOf p r.pen)
  let p1 := forAll (upto g) (fun q k => match tget .unheld (reqOf q e).parts (i * g + k) with
    | .frame f => modReq (modPool q r.pen fun o => dropRef o f) e fun x => { x with parts := tset .unheld x.parts (i * g + k) .absent }
    | _ => modReq q e fun x => { x with parts := tset .unheld x.parts (i * g + k) .absent }) p
  modReq (modPool p1 r.pen fun o => { o with evicted := inc64 o.evicted }) e fun x => { x with scores := tset 0 x.scores i 0 }

/-- Decay and eviction of a request at its step's retirement, under the settings of the step's set-up (R330 to R332). -/
def evictReq (p : Pkg) (e : Nat) (t : Step) : Pkg :=
  let n := t.evict / 16 % 16
  let mode := t.evict % 4
  let p1 := if n = 0 then p
    else modReq p e fun x => { x with scores := tmap 0 (fun _ s => s - s / 2 ^ n) x.scores }
  let r := reqOf p1 e
  if gOf (poolOf p1 r.pen) = 0 then p1
  else
    let f := r.kvDone / pageSize p1 r.pen
    let present := presentBelow p1 e f
    let cands := present.filter fun i => decide (t.sink ≤ i ∧ i + t.window < f)
    if mode = 1 then forAll cands (fun q i => evictPage q e i) p1
    else if mode = 2 then
      let order := sortBy (fun a b => decide (tget 0 r.scores a < tget 0 r.scores b)) cands
      forAll (order.take (present.length - t.budget)) (fun q i => evictPage q e i) p1
    else p1

/-- At retirement a request's tails keep the values of its open block of 16 tokens, and none of positions that it does not keep (R319,
R327). -/
def trimTail (r : Req) : Tab Nat :=
  let b := r.kvDone / 16 * 16
  r.tail.filter fun x => decide (b % 32 ≤ x.1 % 32 ∧ x.1 % 32 < b % 32 + (r.kvDone - b))

/-- Add a mass to the score of a page (R330). -/
def addMass (p : Pkg) (e page mass : Nat) : Pkg :=
  modReq p e fun x => { x with scores := tset 0 x.scores page (satAdd sat32 (tget 0 x.scores page) mass) }

end Sys2Proof.Machine
end

