-- ==== Sys2Proof/Machine/ArrOps.lean ====
section
/-! DEFINITION. Shared operations of array programs: where an array stands in its segment, local SRAM, buffers and streams, and
the arithmetic of MMA, FUSE2, ROWFN and STORE (R107 to R147). -/

namespace Sys2Proof.Machine

/-! ### Where an array stands -/

/-- The run of the active segment of an array. -/
def runOf (x : Arr) : SegRun := x.runs.getD x.active {}

/-- Change the run of the active segment. -/
def modRun (x : Arr) (f : SegRun → SegRun) : Arr :=
  { x with runs := (x.runs.zip (upto x.runs.length)).map fun e => if e.2 = x.active then f e.1 else e.1 }

/-- The pen whose step an array runs. -/
def penOfArr (p : Pkg) (a : Nat) : Nat := (arrOf p a).pen - 1

/-- The image an array runs. -/
def imageOf (p : Pkg) (n : Nat) : Image := match (penOf p n).image with | some i => i | none => {}

/-- The running step of a pen, as it stands. -/
def stepNow (p : Pkg) (n : Nat) : Step := match (penOf p n).step with | some t => t | none => {}

/-- The word an array executes next (R109). -/
def nextWord (p : Pkg) (a : Nat) : Nat := (imageOf p (penOfArr p a)).words.getD (runOf (arrOf p a)).pc 0

/-- The array's active segment runs and waits for nothing. -/
def arrRuns (p : Pkg) (a : Nat) : Bool :=
  let x := arrOf p a
  let r := runOf x
  decide (a < 256 ∧ x.st = 0 ∧ x.pen ≠ 0 ∧ x.active < x.runs.length) && r.started && !r.ended && !r.held && r.waitFor.isNone &&
    (penOf p (penOfArr p a)).step.isSome && powered p

/-- The next word of an array has an operation code. -/
def atWord (p : Pkg) (a op : Nat) : Bool := arrRuns p a && decide (wOp (nextWord p a) = op)

/-- The same for a SYNC of a kind. -/
def atSync (p : Pkg) (a kind : Nat) : Bool := atWord p a 8 && decide (syncKind (nextWord p a) = kind)

/-- Go on to the next word. -/
def wordDone (p : Pkg) (a : Nat) : Pkg := modArr p a fun x => modRun x fun r => { r with pc := r.pc + 1 }

def modData (p : Pkg) (a : Nat) (f : ArrData → ArrData) : Pkg := modArr p a fun x => { x with data := f x.data }

/-! ### The record in force (R98, R99, R163) -/

/-- The wide entry of a layer. -/
def wideEntry (i : Image) (layer : Nat) : Variant := i.variants.getD (i.recs.getD layer {}).wideIndex {}

/-- The wide groups in force in a step, the latest widened first, each with a layer whose own record it leaves alone: layers that
this package has widened, and dispatch layers of wide exchanges, whose consumers alone go wide (R99, R215). -/
def groupsNow (i : Image) (t : Step) : List (Variant × Option Nat) :=
  let ents := match i.routing with | some r => r.entries | none => []
  (t.widened.reverse.map fun l => (wideEntry i l, none)) ++
    (t.entriesWide.reverse.map fun e => let l := (ents.getD e {}).dispatchLayer; (wideEntry i l, some l))

/-- The arithmetic record in force for a layer: the one of the first wide group in force that holds it, else the image's with the
clip and base exponents in force (R98, R99). -/
def recOf (i : Image) (t : Step) (layer : Nat) : LRec :=
  let fromGroup (g : Variant × Option Nat) : Option LRec :=
    if g.2 = some layer then none else ((i.recs.drop g.1.first).take g.1.count).find? fun r => decide (r.layer = layer)
  match (groupsNow i t).findSome? fromGroup with
  | some r => r
  | none =>
    let r := i.recs.getD layer {}
    { r with clip := tget r.clip t.clip layer, base := tget r.base t.base layer }

/-- The RUN entry that replaces the run of a layer of a segment (R163). -/
def wideRun (i : Image) (t : Step) (seg layer : Nat) : Option Variant :=
  (groupsNow i t).findSome? fun g =>
    if g.2 = some layer then none
    else ((i.variants.drop g.1.runFirst).take g.1.runCount).find? fun v => decide (v.seg = seg ∧ v.layer = layer)

/-! ### Local SRAM, buffers and channels -/

def sramGet (d : ArrData) (off len : Nat) : Bytes := tgetList 0 d.sram off len

/-- Write local SRAM at a byte with the base exponents of the units written. -/
def sramPut (d : ArrData) (off : Nat) (b : Bytes) (base : Nat → Int) : ArrData :=
  { d with
    sram := tsetList 0 d.sram off b
    base := (upto (ceilDiv b.length 32)).foldl (fun t k => tset 0 t (off / 32 + k) (base k)) d.base }

/-- A byte of a buffer: a byte not written is undefined (R158). -/
def bufByte (n k : Nat) (b : Buf) (off : Nat) : Byte :=
  if tget false b.written off then tget 0 b.data off
  else if b.gen = 0 then 0 else Config.freeByte (b.gen * 65536 + n * 4096 + k) off

def bufOf (p : Pkg) (n k : Nat) : Buf := tget {} (penOf p n).bufs k

/-- Bytes of a buffer of a pen. -/
def bufGet (p : Pkg) (n k off len : Nat) : Bytes := (upto len).map fun j => bufByte n k (bufOf p n k) (off + j)

/-- Write bytes of a buffer with the base exponents of the units written. -/
def bufPut (p : Pkg) (n k off : Nat) (d : Bytes) (base : Nat → Int) : Pkg :=
  modPen p n fun x =>
    { x with
      bufs := tmod {} x.bufs k fun b =>
        { b with
          data := tsetList 0 b.data off d
          written := (upto d.length).foldl (fun t j => tset false t (off + j) true) b.written
          base := (upto (ceilDiv d.length 32)).foldl (fun t j => tset 0 t (off / 32 + j) (base j)) b.base } }

/-- The payload of a shard list entry of a pen: from its verified slot, else as the step's slower-tier fetch left it (R159, R242). -/
def shardBytes (p : Pkg) (n : Nat) (t : Step) (k : Nat) : Option Bytes :=
  let e := (imageOf p n).shards.getD k {}
  if (penOf p n).cls.getD k 0 = 0 then
    match claimOf p n e with
    | some (_, s) => some s.payload
    | none => none
  else tget none t.slowDone k

/-- A unit of a receive region whose row is not occupied in the region's present round: a staging mover delivers zero codes for it
without reading memory (R211). -/
def unoccupied (i : Image) (t : Step) (buf unit : Nat) : Bool :=
  match i.routing with
  | none => false
  | some r =>
    let tc := i.recvCapacity / 128
    let tile := r.hiddenPanels * 32768
    let region := r.epm * (tc * tile + 8 * i.recvCapacity)
    match t.occ.find? fun o => decide (o.buf = buf ∧ 0 < region ∧ 32 * unit / region = o.region) with
    | none => false
    | some o =>
      let at_ := 32 * unit % region
      let inPanel := at_ % tile % panelBytes 128 o.fmt o.sch
      let row := if inPanel < 128 * segBytes o.fmt then inPanel / segBytes o.fmt
        else (inPanel - 128 * segBytes o.fmt) / max 1 (scBytes o.sch)
      decide (at_ / tile < r.epm * tc ∧ o.rows.getD (at_ / tile) 0 ≤ row)

/-- The bytes and unit bases that one stream entry delivers (R160). -/
def entryUnits (p : Pkg) (n : Nat) (t : Step) (e : StreamEnt) : Option (List (Bytes × Int)) :=
  if e.kind = 0 then
    (shardBytes p n t e.source).map fun b => (upto e.units).map fun k => ((b.drop (32 * (e.offset + k))).take 32, 0)
  else some ((upto e.units).map fun k =>
    if unoccupied (imageOf p n) t e.source (e.offset + k) then (zeros 32, 0)
    else (bufGet p n e.source (32 * (e.offset + k)) 32, tget 0 (bufOf p n e.source).base (e.offset + k)))

/-- The units of a chain, when all of its sources can deliver. -/
def chainUnits (p : Pkg) (n : Nat) (t : Step) (first : Nat) : Option (List (Bytes × Int)) :=
  (chainFrom (imageOf p n).streams first).foldl (fun acc e => match acc, entryUnits p n t e with
    | some l, some u => some (l ++ u)
    | _, _ => none) (some [])

/-- The channel table entry of a channel of a segment (R154). -/
def chanEnt (i : Image) (seg c : Nat) : ChanEnt :=
  let d := i.segs.getD seg {}
  match ((i.chans.drop d.chanFirst).take d.chanCount).find? fun x => decide (x.chan = c) with
  | some x => x
  | none => {}

/-- The operands of a word with their rows and columns; D of a FUSE2 reduces over N1 or N1 / 2 (R121). -/
def opdsOf (i : Image) (seg w : Nat) : List (OpdSpec × Nat × Nat) :=
  if wOp w = 1 then [(mmaA w, wM w, wbits w 4 20 0), (mmaB w, wN w, wbits w 4 20 0)]
  else if wOp w = 2 then
    let b := paramBlock i seg w
    let n1 := wbits w 4 20 0
    let k1 := wbits w 8 20 0
    [(fuseOpd b 0, wM w, k1), (fuseOpd b 1, n1, k1), (fuseOpd b 2, wN w, if wbits w 0 7 5 = 3 then n1 / 2 else n1)]
  else []

/-- Units of a channel of a segment that a word consumes. -/
def unitsOf (i : Image) (seg c w : Nat) : Nat :=
  if (wOp w = 4 ∨ wOp w = 5) ∧ !wbit w 0 4 ∧ wbits w 0 6 5 = c then wbits w 12 19 0
  else sumL (((opdsOf i seg w).filter fun o => decide (o.1.chan = some c)).map fun o => tensorBytes o.2.1 o.2.2 o.1.fmt o.1.sch / 32)

/-- Units of a channel that a list of words consumes. -/
def unitsIn (i : Image) (seg c : Nat) (ws : List Nat) : Nat := sumL (ws.map (unitsOf i seg c))

/-! ### The retained input of a layer run (R97, R98, R115) -/

/-- The layer of the run that a word belongs to: that of the first LAYER_END from it on; 65,536 where none follows. -/
def layerFrom (i : Image) (pc : Nat) : Nat :=
  match (i.words.drop pc).find? fun w => decide (wOp w = 8 ∧ syncKind w = 4) with
  | some w => syncLayer w
  | none => 65536

/-- The key of a unit of a buffer as input of a layer. -/
def inputKey (layer buf unit : Nat) : Nat := (layer * 4096 + buf) * 2 ^ 32 + unit

/-- A unit that a layer's run reads from a buffer: the retained one where the run has been started again. -/
def inputUnit (t : Step) (layer : Nat) (key : Option (Nat × Nat)) (u : Bytes × Int) : Bytes × Int :=
  match key with
  | none => u
  | some (b, k) => match tget none t.inputs (inputKey layer b k) with
    | some x => if x.again then (x.data, x.base) else u
    | none => u

/-- Staging SRAM retains the units that a layer's run has read from buffers. -/
def retain (p : Pkg) (n layer : Nat) (us : List (Option (Nat × Nat) × Bytes × Int)) : Pkg :=
  modStep p n fun t =>
    { t with
      inputs := us.foldl (fun m u => match u.1 with
        | none => m
        | some (b, k) =>
          if (tget none m (inputKey layer b k)).isSome then m
          else tset none m (inputKey layer b k) (some { data := u.2.1, base := u.2.2 })) t.inputs }

/-- A layer's run has stored units of a buffer: from here on it reads what it stored. -/
def storedOver (p : Pkg) (n layer buf first count : Nat) : Pkg :=
  modStep p n fun t =>
    { t with
      inputs := (upto count).foldl (fun m k =>
        tmod none m (inputKey layer buf (first + k)) fun x => x.map fun y => { y with again := false }) t.inputs }

/-- The input of a layer's run, as units of it are kept in a step. -/
def isInputOf (layer k : Nat) : Bool := decide (k / 2 ^ 44 = layer)

/-- A layer's run starts again: it reads its retained input. -/
def inputAgain (t : Step) (layer : Nat) : Step :=
  { t with inputs := tmap none (fun k x => if isInputOf layer k then x.map fun y => { y with again := true } else x) t.inputs }

/-- A layer's run is released, and its input with it. -/
def inputDone (t : Step) (layer : Nat) : Step := { t with inputs := t.inputs.filter fun x => !isInputOf layer x.1 }

/-! ### Delivery on channels (R113 to R115, R236, R237) -/

/-- The buffer and unit that each unit of a chain is read from; none for a shard's and for one that a mover delivers without
reading. -/
def chainKeys (p : Pkg) (n : Nat) (t : Step) (first : Nat) : List (Option (Nat × Nat)) :=
  (chainFrom (imageOf p n).streams first).flatMap fun e => (upto e.units).map fun k =>
    if e.kind = 0 ∨ unoccupied (imageOf p n) t e.source (e.offset + k) = true then none else some (e.source, e.offset + k)

/-- The first entry of the chain that a run takes from a channel: an override's in a variant run (R163). -/
def chainOf (i : Image) (r : SegRun) (c : Nat) : Nat :=
  let o := tget 0 r.chChain c
  if o = 0 then (chanEnt i r.seg c).stream else o - 1

/-- The units of a channel's own chain that have left a run's ring, or leave it as they come: those taken, and those that the word which
the run stands at consumes (R114). -/
def takenBy (i : Image) (q : SegRun) (k : Nat) : Nat :=
  let now_ := if tget 0 q.chChain k = 0 then tget 0 q.chPos k + unitsOf i q.seg k (i.words.getD q.pc 0) else 0
  max (tget 0 q.chHigh k) (if q.started ∧ !q.held ∧ q.waitFor.isNone then now_ else 0)

/-- Ring space of a broadcast group: the units of a chain that the rings of the other arrays of the group have room for. A word may consume
more than a ring holds: the array at it takes each unit as it comes (R114). A folded segment that does not run has its local SRAM in the save
area, and its ring is filled at the switch (R179, R236). -/
def groupRoom (p : Pkg) (n a : Nat) (r : SegRun) (c upTo : Nat) : Bool :=
  let i := imageOf p n
  let e := chanEnt i r.seg c
  decide (e.feeder ≠ 1 ∨ tget 0 r.chChain c ≠ 0) ||
    ((setOf p n).filter fun b => decide (b ≠ a)).all fun b =>
      let x := arrOf p b
      let q := runOf x
      decide (x.runs.length ≤ x.active) || q.ended || (upto 4).all fun k =>
        let f := chanEnt i q.seg k
        decide (f.feeder ≠ 1 ∨ f.stream ≠ e.stream ∨ upTo ≤ takenBy i q k + f.size)

/-- How far a chain stands in the rings of its broadcast group. From the set-up on each ring is full as far as the slowest of the group
allows (R236, R237), so State holds where each segment is and this is what follows from it. -/
def ringsTo (p : Pkg) (n first : Nat) : Nat :=
  let i := imageOf p n
  (setOf p n).foldl (fun m a =>
    let x := arrOf p a
    let q := runOf x
    if x.runs.length ≤ x.active ∨ q.ended then m
    else (upto 4).foldl (fun m k =>
      let f := chanEnt i q.seg k
      if f.feeder = 1 ∧ f.stream = first then min m (takenBy i q k + f.size) else m) m)
    (sumL ((chainFrom i.streams first).map (·.units)))

/-- The lookahead buffer of a stack's Sled engine for a chain: the slot and the unit in its payload of what follows the rings, as far as the
stack holds it, at most 2 MiB. The engine keeps the buffer full (R237), so its content follows from where the rings stand. -/
def lookahead (p : Pkg) (n first stack : Nat) : List (Nat × Nat) :=
  let i := imageOf p n
  let units := (chainFrom i.streams first).flatMap fun e => (upto e.units).map fun k => (e, e.offset + k)
  (((units.drop (ringsTo p n first)).takeWhile fun u =>
    decide (u.1.kind = 0 ∧ (penOf p n).cls.getD u.1.source 0 = 0) &&
      match claimOf p n (i.shards.getD u.1.source {}) with
      | some (s, _) => decide (s / 32 = stack)
      | none => false).take 65536).filterMap fun u =>
    (claimOf p n (i.shards.getD u.1.source {})).map fun c => (c.1, u.2)

/-- Units waiting on a channel from where the run stands (R114). -/
def chanUnits (p : Pkg) (n : Nat) (t : Step) (r : SegRun) (c count : Nat) : Option (List (Bytes × Int)) :=
  let i := imageOf p n
  let at_ := tget 0 r.chPos c
  match chainUnits p n t (chainOf i r c) with
  | some l =>
    let u := (l.drop at_).take count
    let ks := ((chainKeys p n t (chainOf i r c)).drop at_).take count
    if u.length = count then some ((ks.zip u).map fun e => inputUnit t (layerFrom i r.pc) e.1 e.2) else none
  | none => none

/-- The units lie in the channel's ring, from the unit numbered pos on; units of the chain itself move the segment's furthest place
(R113). -/
def intoRing (i : Image) (x : Arr) (c pos : Nat) (us : List (Bytes × Int)) : Arr :=
  let r := runOf x
  let e := chanEnt i r.seg c
  let put (d : ArrData) (u : (Bytes × Int) × Nat) : ArrData :=
    sramPut d (32 * (e.base + (pos + u.2) % e.size)) u.1.1 fun _ => u.1.2
  let y := modRun x fun q =>
    { q with
      chPos := tset 0 q.chPos c (pos + us.length)
      chHigh := if tget 0 q.chChain c = 0 then tset 0 q.chHigh c (max (tget 0 q.chHigh c) (pos + us.length)) else q.chHigh }
  if e.size = 0 then y else { y with data := (us.zip (upto us.length)).foldl put x.data }

/-- A unit of a chain lies in a block that a Sled engine has fetched and not received: delivery waits for it (R244). -/
def awaitsBlock (p : Pkg) (n : Nat) (first lo hi : Nat) : Bool :=
  let es := chainFrom (imageOf p n).streams first
  let at_ (k : Nat) : Nat := sumL ((es.take k).map (·.units))
  (es.zip (upto es.length)).any fun e =>
    decide (e.1.kind = 0 ∧ (penOf p n).cls.getD e.1.source 0 = 0) &&
      match claimOf p n ((imageOf p n).shards.getD e.1.source {}) with
      | none => false
      | some (s, _) => p.nvw.fetches.any fun f =>
          let b0 := f.off / 65536 * 2048
          let from_ := max lo (at_ e.2) - at_ e.2 + e.1.offset
          let to_ := min hi (at_ e.2 + e.1.units) - at_ e.2 + e.1.offset
          decide (f.slot = s ∧ from_ < to_ ∧ from_ < b0 + 2048 ∧ b0 < to_)

/-- How far the other arrays of a broadcast group have taken a chain (R236). -/
def groupLead (p : Pkg) (n a : Nat) (r : SegRun) (c : Nat) : Nat :=
  let i := imageOf p n
  ((setOf p n).filter fun b => decide (b ≠ a)).foldl (fun m b =>
    let q := runOf (arrOf p b)
    (upto 4).foldl (fun m k =>
      if (chanEnt i q.seg k).feeder = 1 ∧ chainOf i q k = chainOf i r c then max m (tget 0 q.chPos k) else m) m) 0

/-- The Sled engines have delivered the units of a chain from lo to hi: each stack's bytes count (R235, Table 7-8). -/
def countDelivered (p : Pkg) (n first lo hi : Nat) : Pkg :=
  let es := chainFrom (imageOf p n).streams first
  let at_ (k : Nat) : Nat := sumL ((es.take k).map (·.units))
  let one (t : Tab Nat) (e : StreamEnt × Nat) : Tab Nat :=
    if e.1.kind = 0 ∧ (penOf p n).cls.getD e.1.source 0 = 0 then
      match claimOf p n ((imageOf p n).shards.getD e.1.source {}) with
      | some (s, _) => tset 0 t (s / 32) (tget 0 t (s / 32) + 32 * (min hi (at_ e.2 + e.1.units) - max lo (at_ e.2)))
      | none => t
    else t
  modPen p n fun x => { x with sledBytes := (es.zip (upto es.length)).foldl one x.sledBytes }

/-- An array takes units of a channel: what it takes, and the package after; none while a unit is not there (R114, R236, R244). The
engines read each piece once for a group, so what a group's foremost array takes is what they deliver (R236). -/
def takeUnits (p : Pkg) (a c count : Nat) : Option (List (Bytes × Int) × Pkg) :=
  let n := penOfArr p a
  let t := stepNow p n
  let i := imageOf p n
  let r := runOf (arrOf p a)
  let at_ := tget 0 r.chPos c
  match chanUnits p n t r c count with
  | some us =>
    let first := chainOf i r c
    if groupRoom p n a r c (at_ + count) && !awaitsBlock p n first at_ (at_ + count) then
      let ks := ((chainKeys p n t first).drop at_).take count
      let p1 := retain p n (layerFrom i r.pc) (ks.zip us)
      let p2 := countDelivered p1 n first (max at_ (groupLead p n a r c)) (at_ + count)
      some (us, modArr p2 a fun x => intoRing i x c at_ us)
    else none
  | none => none

/-- An operand of a word in panel layout, from local SRAM as the word finds it or from a channel, and the package after the units it
consumes (R110, R114). -/
def opdFrom (p : Pkg) (a : Nat) (d : ArrData) (rows cols : Nat) (o : OpdSpec) : Option (Opd × Pkg) :=
  match o.chan with
  | none =>
    some (panelOpd rows o.fmt o.sch (fun off len => sramGet d (32 * o.addr + off) len) (fun u => tget 0 d.base (o.addr + u)), p)
  | some c =>
    match takeUnits p a c (tensorBytes rows cols o.fmt o.sch / 32) with
    | some (us, q) =>
      let b := us.flatMap Prod.fst
      some (panelOpd rows o.fmt o.sch (fun off len => (b.drop off).take len) (fun u => (us.getD u ([], 0)).2), q)
    | none => none

/-! ### Planes (R107, R130, R131) -/

def planeOf (d : ArrData) (pl : Bool) : Plane := if pl then d.plane1 else d.plane0
def setPlane (d : ArrData) (pl : Bool) (x : Plane) : ArrData := if pl then { d with plane1 := x } else { d with plane0 := x }

/-- An accumulator element. -/
def accGet (x : Plane) (i j : Nat) : Word32 :=
  match tget none x.acc (128 * i + j) with
  | some w => w
  | none => if x.free = 0 then 0#32 else Config.freeWord (x.free * 16384 + 128 * i + j)

def accPut (x : Plane) (i j : Nat) (w : Word32) : Plane := { x with acc := tset none x.acc (128 * i + j) (some w) }

/-- Rows and columns that take part (R130). -/
def rowsIn (d : ArrData) (m : Nat) : List Nat := (upto m).filter fun i => bitOf d.rowMask i
def colsIn (d : ArrData) (n : Nat) : List Nat := (upto n).filter fun j => bitOf d.colMask j

/-- Write a plane's elements that take part. -/
def planeMap (x : Plane) (rows cols : List Nat) (f : Nat → Nat → Word32) : Plane :=
  rows.foldl (fun y i => cols.foldl (fun z j => accPut z i j (f i j)) y) x

/-! ### MMA (R118, R119) -/

/-- The tile product of a word into its plane. DESIGN CHOICE: with ACC = 1 the granules are added one by one to the plane's content, each
sum rounded (R77, R88); R118 does not say whether the finished product is added once (log entry 42). -/
def mmaPlane (d : ArrData) (x : Plane) (a b : Opd) (acc : Bool) (m n k : Nat) : Plane :=
  planeMap x (rowsIn d m) (colsIn d n) fun i j => dot a b i j k (if acc then accGet x i j else 0#32)

/-- MMA: none while bytes of a channel are not there. -/
def mmaOp (p : Pkg) (a : Nat) : Option Pkg :=
  let n := penOfArr p a
  let w := nextWord p a
  let d := (arrOf p a).data
  let k := wbits w 4 20 0
  match opdFrom p a d (wM w) k (mmaA w) with
  | none => none
  | some (oa, p1) => match opdFrom p1 a d (wN w) k (mmaB w) with
    | none => none
    | some (ob, p2) =>
      let pl := wbit w 0 5
      let acc := wbit w 0 4
      let y := mmaPlane d (planeOf d pl) oa ob acc (wM w) (wN w) k
      let ts := if (mmaB w).sch = 2 then (recOf (imageOf p n) (stepNow p n) (wLayer w)).wts else fOne
      let z := if acc then y else { y with tscale := ts }
      some (wordDone (modData p2 a fun v => setPlane v pl z) a)

/-! ### Row functions (R122, R136 to R140) -/

/-- Column j of row i is causally masked (R137). -/
def causalOut (causal : Bool) (diag : Int) (qpos i j : Nat) : Bool :=
  causal && decide (diag + (i % max 1 qpos : Nat) < (j : Int))

/-- The row softmax of R140 over columns of a row; answers the row, m and l. -/
def softmaxRow (vs : List (Nat × Word32)) : List (Nat × Word32) × Word32 × Word32 :=
  let m := vs.foldl (fun m v => if isNan v.2 then m else fmax m v.2) fNegInf
  let ps := vs.map fun v => (v.1, if m = fNegInf then 0#32 else exp32 (fsub v.2 m))
  let l := ps.foldl (fun l v => fadd l v.2) 0#32
  (ps.map fun v => (v.1, if l = 0#32 then 0#32 else fdiv v.2 l), m, l)

/-- ROWFN on one row: the columns to write with their values, and the row state of a softmax. DESIGN CHOICE: R140 writes masked
positions as 0, and R131 keeps an element that takes no part; 0 goes to the causally masked columns alone, and columns outside the column
mask keep their value (log entry 42). -/
def rowFn (fn n i qpos : Nat) (causal : Bool) (diag : Int) (v : Nat → Word32) (cols : List Nat) :
    List (Nat × Word32) × Option (Word32 × Word32) :=
  match fn with
  | 1 => (cols.map fun j => (j, if causalOut causal diag qpos i j then fNegInf else v j), none)
  | 2 =>
    let (ps, m, l) := softmaxRow ((cols.filter fun j => !causalOut causal diag qpos i j).map fun j => (j, v j))
    (cols.map fun j => (j, match ps.find? fun e => decide (e.1 = j) with | some e => e.2 | none => 0#32), some (m, l))
  | 3 => (cols.map fun j => (j, fmul (silu (v j)) (v (j + n / 2))), none)
  | 4 => (cols.map fun j => (j, gelu (v j)), none)
  | _ => (cols.map fun j => (j, v j), none)

/-- ROWFN (R122). -/
def rowfnOp (p : Pkg) (a : Nat) : Pkg :=
  let w := nextWord p a
  let d := (arrOf p a).data
  let pl := wbit w 0 4
  let opl := wbit w 0 5
  let fn := wbits w 0 26 24
  let src := planeOf d pl
  let scale := BitVec.ofNat 32 (wbits w 8 31 0)
  let col0 := if fn = 3 then wbits w 4 6 0 else 0
  let cols := if fn = 3 then (upto (wN w / 2)).filter fun j => bitOf d.colMask (col0 + j) else colsIn d (wN w)
  let v (i j : Nat) : Word32 := fmul (fmul (accGet src i j) src.tscale) scale
  let d1 := setPlane d pl { src with tscale := fOne }
  let d2 := (rowsIn d (wM w)).foldl (fun e i =>
    let r := rowFn fn (wN w) i (wbits w 4 15 8) (wbit w 0 27) (signed32 (wbits w 12 31 0)) (v i) cols
    let y := r.1.foldl (fun z c => accPut z i (col0 + c.1) c.2) (planeOf e opl)
    let e1 := setPlane e opl y
    match r.2 with
    | some (m, l) => { e1 with rowM := tset fNegInf e1.rowM i m, rowL := tset 0 e1.rowL i l }
    | none => e1) d1
  wordDone (modData p a fun _ => d2) a

/-! ### FUSE2 (R120, R121, R141 to R143) -/

/-- What a FUSE2 carries from chunk to chunk: plane 0, row state, counts, and page masses by ordinal. -/
structure Fuse where
  plane : Plane
  rowM : Tab Word32
  rowL : Tab Word32
  masses : List (Nat × Nat)

/-- The fixed facts of a FUSE2. -/
structure FuseK where
  fn : Nat
  m : Nat
  n2 : Nat
  k1 : Nat
  keys : Nat
  tsB : Word32
  tsD : Word32
  scale : Word32
  causal : Bool
  diag : Int
  qpos : Nat
  bf16 : Bool
  norm : Bool
  iscale : Int
  armed : Bool
  page : Nat

/-- The intermediate of a row: converted codes of q, with their counts (R141). -/
def convertQ (k : FuseK) (ps : List Word32) : List Conv :=
  ps.map fun p => let v := f32 (fscale p k.iscale); if k.bf16 then convertFp fmtBF16 v else convertFp fmtE4M3 v

/-- The operand that q is for the second product. -/
def qOpd (k : FuseK) (codes : List Nat) : Opd :=
  { fmt := if k.bf16 then 0 else 3, sch := 0
    el := fun _ c => decodeEl (if k.bf16 then 0 else 3) 0 (codes.getD c 0)
    scale := fun _ _ => vOne, zero := fun _ _ => false, lifted := fun _ _ => [] }

/-- A mass as an integer of 2^-24 (R143). -/
def massInt (m : Word32) : Nat :=
  match f32 m with
  | .fin false mm e => rneShift mm (-(e + 24))
  | _ => 0

/-- The masses of the pages of a chunk (R143). -/
def chunkMasses (k : FuseK) (c : Nat) (rows : List (List Word32 × Word32)) : List (Nat × Nat) :=
  let last := min 128 (k.keys - 128 * c)
  let pages := ((upto last).map fun j => (128 * c + j) / k.page).eraseDups
  pages.map fun o =>
    let m := rows.foldl (fun s r =>
      if flt 0#32 r.2 then
        let sum := (upto last).foldl (fun q j => if (128 * c + j) / k.page = o then fadd q (r.1.getD j 0#32) else q) 0#32
        fadd s (fdiv sum r.2)
      else s) 0#32
    (o, if isNan m then 0 else massInt m)

/-- One row of a chunk: p values, and the row's new plane elements and state (R141). B is the chunk's own rows. -/
def fuseRow (k : FuseK) (d : ArrData) (a b : Opd) (c i : Nat) (f : Fuse) : List Word32 × Fuse :=
  let dotS (j : Nat) : Word32 := dot a b i j k.k1 0#32
  let cols := min 128 (k.keys - 128 * c)
  let s (j : Nat) : Word32 := if j < cols then fmul (fmul (dotS j) k.tsB) k.scale else 0#32
  let out (j : Nat) : Bool := decide (cols ≤ j) || causalOut k.causal k.diag k.qpos i (128 * c + j)
  if k.fn = 2 then
    let sv := (upto 128).map s
    let mc := ((upto 128).zip sv).foldl (fun m e => if out e.1 || isNan e.2 then m else fmax m e.2) fNegInf
    let m0 := tget fNegInf f.rowM i
    let mn := fmax m0 mc
    let alpha := if mn = fNegInf then fOne else exp32 (fsub m0 mn)
    let ps := ((upto 128).zip sv).map fun e => if mn = fNegInf || out e.1 then 0#32 else exp32 (fsub e.2 mn)
    let l := ps.foldl fadd (fmul alpha (tget 0 f.rowL i))
    let pl := if alpha = fOne then f.plane
      else (colsIn d k.n2).foldl (fun z j => accPut z i j (fmul alpha (accGet z i j))) f.plane
    (ps, { f with plane := pl, rowM := tset fNegInf f.rowM i mn, rowL := tset 0 f.rowL i l })
  else if k.fn = 3 then
    ((upto 128).map fun j => if out j || decide (k.keys / 2 ≤ j) then 0#32 else fmul (silu (s j)) (s (j + k.keys / 2)), f)
  else ((upto 128).map fun j => if out j then 0#32 else if k.fn = 4 then gelu (s j) else s j, f)

/-- One chunk of a FUSE2. -/
def fuseChunk (k : FuseK) (d : ArrData) (a : Opd) (bOf dOf : Nat → Opd) (f : Fuse) (c : Nat) : Fuse :=
  let rows := rowsIn d k.m
  let step := rows.foldl (fun (acc : List (List Word32 × Word32) × Fuse) i =>
    let (ps, f1) := fuseRow k d a (bOf c) c i acc.2
    let qs := convertQ k ps
    let real := if k.fn = 3 then k.keys / 2 else min 128 (k.keys - 128 * c)
    let cnt := qs.take real
    let q := qOpd k (qs.map (·.code))
    let pl := (colsIn d k.n2).foldl (fun z j => accPut z i j (dot q (dOf c) 0 j real (accGet z i j))) f1.plane
    let pl2 :=
      { pl with
        isat := satAdd 0xFFFFFFFF pl.isat (cnt.filter (·.sat)).length, iftz := satAdd 0xFFFFFFFF pl.iftz (cnt.filter (·.flush)).length
        iconv := satAdd 0xFFFFFFFF pl.iconv cnt.length, nan := pl.nan || (ps.take real).any isNan }
    (acc.1 ++ [(ps, tget 0 f1.rowL i)], { f1 with plane := pl2 })) ([], f)
  if k.armed then { step.2 with masses := step.2.masses ++ chunkMasses k c step.1 } else step.2

/-- The end of a FUSE2 (R141, R142). -/
def fuseEnd (k : FuseK) (d : ArrData) (f : Fuse) : Fuse :=
  let pl := planeMap f.plane (rowsIn d k.m) (colsIn d k.n2) fun i j =>
    let v := fscale (fmul (accGet f.plane i j) k.tsD) (-k.iscale)
    if k.norm then (let l := tget 0 f.rowL i; if l = 0#32 then 0#32 else fdiv v l) else v
  { f with plane := { pl with tscale := fOne } }

/-- Rows of an operand from one on. -/
def rowsFrom (o : Opd) (r : Nat) : Opd :=
  { o with
    el := fun i c => o.el (r + i) c, scale := fun i c => o.scale (r + i) c
    zero := fun i c => o.zero (r + i) c, lifted := fun i g => o.lifted (r + i) g }

/-- A panel of an operand: its 128 columns as columns 0 to 127. -/
def panelFrom (o : Opd) (q : Nat) : Opd :=
  { o with
    el := fun i c => o.el i (128 * q + c), scale := fun i c => o.scale i (128 * q + c)
    zero := fun i c => o.zero i (128 * q + c), lifted := fun i g => o.lifted i (q + g) }

/-- The gather streams of a channel of a segment in order, as its keys' or its values' channel: map entry, head and slot (R165). -/
def gatherList (i : Image) (seg chan : Nat) (values : Bool) : List (AttEnt × Nat × Nat) :=
  (i.att.filter fun e => decide (e.seg = seg ∧ (if values then e.dChan else e.bChan) = chan)).flatMap fun e =>
    (upto e.slotCount).flatMap fun s => (upto e.headCount).map fun h => (e, e.headFirst + h, e.slotFirst + s)

/-- What a gather channel delivers next: the stream, its header and its chunks (R144, R165). -/
structure Gathered where
  stream : Option Stream
  header : Bytes
  chunks : List Bytes

/-- The next stream of a gather channel of an array, as its keys' or its values' channel. DESIGN CHOICE: the header carries the format of the
keys on the one and of the values on the other, where KV_K_FMT and KV_V_FMT differ (R144; log entry 43). -/
def nextGather (p : Pkg) (a c : Nat) (values : Bool) : Gathered :=
  let n := penOfArr p a
  let i := imageOf p n
  let r := runOf (arrOf p a)
  let used := tget 0 r.gathers (if values then 4 + c else c)
  let g := (gatherList i r.seg c values).getD used ({}, 0, 0)
  let s := streamOf p n g.1 g.2.1 g.2.2
  { stream := s, header := streamHeader p n (if values then i.kvV else i.kvK) g.2.1 s
    chunks := (upto (chunksOf s)).map fun q => match s with
      | some x => if values then chunkV p n i x q else chunkK p n i x q
      | none => [] }

/-- The array takes a gather stream whole: its bytes pass through the ring (R114, R144). -/
def takeGather (p : Pkg) (a c : Nat) (values : Bool) (g : Gathered) : Pkg :=
  let b := g.header ++ g.chunks.flatten
  let us := (chunks 32 (b.length / 32) b).map fun u => (u, (0 : Int))
  let k := if values then 4 + c else c
  modArr p a fun x =>
    modRun (intoRing (imageOf p (penOfArr p a)) x c (tget 0 (runOf x).chPos c) us) fun r =>
      { r with gathers := tset 0 r.gathers k (tget 0 r.gathers k + 1) }

/-- L of a stream header. -/
def headerKeys (h : Bytes) : Nat := fieldAt h 0 4 % 2 ^ 21

/-- An operand of FUSE2 by chunks: as it comes from a gather stream, else as rows or panels of a tensor; with its gather stream and the
package after what it consumes (R110, R114, R141, R144). -/
def fuseFrom (p : Pkg) (a : Nat) (d : ArrData) (rows cols : Nat) (values : Bool) (o : OpdSpec) :
    Option ((Nat → Opd) × Option Gathered × Pkg) :=
  let gather := match o.chan with
    | some c => decide ((chanEnt (imageOf p (penOfArr p a)) (runOf (arrOf p a)).seg c).feeder = 2)
    | none => false
  if gather then
    let c := o.chan.getD 0
    let g := nextGather p a c values
    let of_ (q : Nat) : Opd :=
      let b := g.chunks.getD q []
      panelOpd (if values then rows else 128) o.fmt o.sch (fun off len => (b.drop off).take len) fun _ => 0
    some (of_, some g, takeGather p a c values g)
  else match opdFrom p a d rows cols o with
    | some (x, q) => some (if values then panelFrom x else fun c => rowsFrom x (128 * c), none, q)
    | none => none

/-- The tensor scale of an operand: the header's from a gather stream, the parameter block's under S2, else 1.0 (R141). -/
def fuseScale (g : Option Gathered) (o : OpdSpec) (v : Nat) : Word32 :=
  match g with
  | some x => BitVec.ofNat 32 (fieldAt x.header 16 4)
  | none => if o.sch = 2 then BitVec.ofNat 32 v else fOne

/-- The page masses of an armed FUSE2 reach the gather engine that fed channel B, page by page of its stream; the block of a page's score word is allocated with
its first one (R143, R320, R321). -/
def sendMasses (p : Pkg) (n : Nat) (g : Option Gathered) (masses : List (Nat × Nat)) : Pkg :=
  match g.bind (·.stream) with
  | some s =>
    let got := masses.filter fun o => decide (o.1 < s.pages.length)
    modStep (growKeys p s.entry (got.map fun o => 64 + s.pages.getD o.1 0 / 4096).eraseDups) n fun y =>
      { y with
        masses := got.foldl (fun m o =>
          let key := s.entry * 2 ^ 17 + s.pages.getD o.1 0
          tset 0 m key (satAdd sat32 (tget 0 m key) o.2)) y.masses }
  | none => p

/-- What a FUSE2 word works on: its fields, its parameter block, and the headers of its gather channels (R141 to R144). -/
def fuseKOf (p : Pkg) (a keys : Nat) (pb : Bytes) (gb gd : Option Gathered) : FuseK :=
  let w := nextWord p a
  let qpos := fieldAt pb 12 1
  { fn := wbits w 0 7 5, m := wM w, n2 := wN w, k1 := wbits w 8 20 0, keys := keys
    tsB := fuseScale gb (fuseOpd pb 1) (fieldAt pb 20 4), tsD := fuseScale gd (fuseOpd pb 2) (fieldAt pb 24 4)
    scale := BitVec.ofNat 32 (fieldAt pb 16 4), causal := bitOf (fieldAt pb 11 1) 0
    diag := if wbits w 4 20 0 = 0 then (keys : Int) - qpos else signed32 (fieldAt pb 28 4)
    qpos := qpos, bf16 := !bitOf (fieldAt pb 9 1) 6, norm := bitOf (fieldAt pb 9 1) 7, iscale := signed8 (fieldAt pb 10 1)
    armed := (runOf (arrOf p a)).armed
    page := match gb with
      | some g => if bitOf (fieldAt g.header 5 1) 0 then 256 else 16
      | none => pageTokens (penOf p (penOfArr p a)).compat }

/-- The plane and the row state that a FUSE2 word starts from: fresh where it restarts, with ACC = 0 (R141, R142). -/
def fuseFirst (restart : Bool) (k : FuseK) (d : ArrData) : Fuse :=
  let rows := rowsIn d k.m
  { plane := if restart then planeMap d.plane0 rows (colsIn d k.n2) (fun _ _ => 0#32) else d.plane0
    rowM := if restart ∧ k.fn = 2 then rows.foldl (fun m i => tset fNegInf m i fNegInf) d.rowM else d.rowM
    rowL := if restart ∧ k.fn = 2 then rows.foldl (fun m i => tset 0 m i 0#32) d.rowL else d.rowL
    masses := [] }

/-- What FUSE2 leaves: its plane and row state, plane 1 undefined, and its masses sent (R142, R143). -/
def fuseWrite (p q : Pkg) (a : Nat) (gb : Option Gathered) (f : Fuse) : Pkg :=
  let r := nextFree (modArr q a fun v =>
    { modRun v fun r => { r with armed := false } with
      data := { v.data with
                plane0 := { f.plane with tscale := fOne }, rowM := f.rowM, rowL := f.rowL
                plane1 := { v.data.plane1 with acc := [], free := p.freeCtr + 1 } } })
  wordDone (sendMasses r (penOfArr p a) gb f.masses) a

/-- FUSE2: none while bytes of a channel are not there. An empty slot's stream leaves plane 0 and the row state as ACC = 0 sets them, whatever
ACC is (R144). DESIGN CHOICE: where B and D name one Sled channel the whole of B comes first and then
the whole of D (R114; log entry 43). -/
def fuse2Op (p : Pkg) (a : Nat) : Option Pkg :=
  let w := nextWord p a
  let d := (arrOf p a).data
  let pb := sramGet d (32 * wbits w 12 15 0) 64
  let n1 := wbits w 4 20 0
  let k1 := wbits w 8 20 0
  match opdFrom p a d (wM w) k1 (fuseOpd pb 0) with
  | none => none
  | some (oa, p1) => match fuseFrom p1 a d n1 k1 false (fuseOpd pb 1) with
    | none => none
    | some (ob, gb, p2) =>
      let keys := if n1 = 0 then (match gb with | some g => headerKeys g.header | none => 0) else n1
      match fuseFrom p2 a d (wN w) (if wbits w 0 7 5 = 3 then keys / 2 else keys) true (fuseOpd pb 2) with
      | none => none
      | some (od, gd, p3) =>
        let k := fuseKOf p a keys pb gb gd
        let empty := decide (n1 = 0 ∧ keys = 0)
        let f0 := fuseFirst (empty || !wbit w 0 4) k d
        let f1 := (upto (ceilDiv keys 128)).foldl (fuseChunk k d oa ob od) f0
        some (fuseWrite p p3 a gb (if empty then f0 else fuseEnd k d f1))

/-! ### LOADW, LOADA (R123) -/

/-- Units that an array reads from a buffer, and the package that retains them as input of the array's run (R97, R123). -/
def readBuffer (p : Pkg) (a b off count : Nat) : List (Bytes × Int) × Pkg :=
  let n := penOfArr p a
  let layer := layerFrom (imageOf p n) (runOf (arrOf p a)).pc
  let us := (upto count).map fun k =>
    inputUnit (stepNow p n) layer (some (b, off + k)) (bufGet p n b (32 * (off + k)) 32, tget 0 (bufOf p n b).base (off + k))
  (us, retain p n layer (((upto count).map fun k => some (b, off + k)).zip us))

/-- LOADW and LOADA: copy units into local SRAM; none while bytes of a channel are not there. -/
def loadOp (p : Pkg) (a : Nat) : Option Pkg :=
  let w := nextWord p a
  let count := wbits w 12 19 0
  let dst := wbits w 8 15 0
  let units : Option (List (Bytes × Int) × Pkg) :=
    if wbit w 0 4 then some (readBuffer p a (wbits w 0 19 8) (wbits w 4 31 0) count) else takeUnits p a (wbits w 0 6 5) count
  match units with
  | none => none
  | some (us, p1) =>
    some (wordDone (modData p1 a fun d => sramPut d (32 * dst) (us.flatMap Prod.fst) fun k => (us.getD k ([], 0)).2) a)

/-! ### STORE (R124 to R126, R132) -/

/-- A STORE's units of a buffer are the run's own from here on (R97). -/
def storeOwn (p : Pkg) (a w len : Nat) : Pkg :=
  let n := penOfArr p a
  if wbit w 0 4 then
    storedOver p n (layerFrom (imageOf p n) (runOf (arrOf p a)).pc) (wbits w 4 27 16) (wbits w 8 31 0) (ceilDiv len 32)
  else p

/-- Where a STORE writes: bytes at an offset of the panel, with the base exponent of their units. -/
def storeAt (p : Pkg) (a w off : Nat) (b : Bytes) (base : Int) : Pkg :=
  let n := penOfArr p a
  if wbit w 0 4 then bufPut p n (wbits w 4 27 16) (32 * wbits w 8 31 0 + off) b fun _ => base
  else modData p a fun d => sramPut d (32 * wbits w 4 15 0 + off) b fun _ => base

/-- The buffer a STORE names is the KV buffer. -/
def storesKv (p : Pkg) (a w : Nat) : Bool :=
  wbit w 0 4 && decide (((imageOf p (penOfArr p a)).relocs.getD (wbits w 4 27 16) {}).kind = 3)

/-- One row of a STORE's panel. -/
def storeRow (p : Pkg) (a w i : Nat) (r : LRec) (x : Plane) (d : ArrData) : Pkg × RowOut :=
  let vs := (upto 128).map fun j =>
    if j < wN w ∧ bitOf d.colMask j then some (fmul (accGet x i j) x.tscale) else none
  let o := convertRow r.oFmt r.oSch r.clip r.base r.dewclaw vs
  if storesKv p a w then
    let vals := (upto 128).map fun j =>
      match decodeEl r.oFmt 0 (elCode r.oFmt o.seg j) with | some v => v | none => .fin false 0 0
    (kvRow p (penOfArr p a) (32 * wbits w 8 31 0 + i * segBytes r.oFmt) vals, o)
  else
    let p1 := storeAt p a w (i * segBytes r.oFmt) o.seg 0
    let p2 := storeAt p1 a w (wM w * segBytes r.oFmt + i * scBytes r.oSch) o.scales r.base
    (p2, o)

/-- Add the counts of rows to a plane (R94, R135). -/
def countRows (x : Plane) (os : List RowOut) : Plane :=
  { x with
    conv := x.conv + sumL (os.map (·.conv)), sat := satAdd 0xFFFF x.sat (sumL (os.map (·.sat)))
    ftz := satAdd 0xFFFF x.ftz (sumL (os.map (·.ftz))), ovf := satAdd 0xFFFF x.ovf (sumL (os.map (·.ovf)))
    nan := x.nan || os.any (·.nan) }

/-- Add a plane's counts to the summary of a layer run (R95, R126, R135). -/
def addSummary (s : Summary) (x : Plane) : Summary :=
  { s with
    nConv := satAdd 0xFFFFFFFF s.nConv (x.conv + x.iconv), sat := satAdd 0xFFFFFFFF s.sat (x.sat + x.isat)
    ftz := satAdd 0xFFFFFFFF s.ftz (x.ftz + x.iftz), ovf := satAdd 0xFFFFFFFF s.ovf x.ovf, nan := s.nan || x.nan }

/-- The summary of a run under a wide record is a wide variant's (R95, R99). -/
def ofRecord (r : LRec) (s : Summary) : Summary := if r.wide then { s with kind := 2 } else s

/-- A plane with its counts at zero. -/
def uncounted (x : Plane) : Plane :=
  { x with conv := 0, sat := 0, ftz := 0, ovf := 0, isat := 0, iftz := 0, iconv := 0, nan := false }

/-- STORE of a plane. -/
def storeOp (p : Pkg) (a : Nat) : Pkg :=
  let n := penOfArr p a
  let w := nextWord p a
  let d := (arrOf p a).data
  let pl := wbit w 0 5
  let x := planeOf d pl
  let layer := wLayer w
  let r := recOf (imageOf p n) (stepNow p n) layer
  let go := (rowsIn d (wM w)).foldl (fun (acc : Pkg × List RowOut) i =>
    let (q, o) := storeRow acc.1 a w i r x d
    (q, acc.2 ++ [o])) (storeOwn p a w (panelBytes (wM w) r.oFmt r.oSch), [])
  let pad := roundUp (wM w * scBytes r.oSch) 32 - wM w * scBytes r.oSch
  let p1 := if storesKv p a w ∨ pad = 0 then go.1
    else storeAt go.1 a w (wM w * segBytes r.oFmt + wM w * scBytes r.oSch) (zeros pad) 0
  let counted := countRows x go.2
  let p2 := modStep p1 n fun t =>
    { t with summary := tset {} t.summary layer (addSummary (ofRecord r (tget {} t.summary layer)) counted) }
  wordDone (modData p2 a fun e => setPlane e pl (uncounted counted)) a

/-- STORE of the row state of the rows that take part (R125, R132). -/
def storeRowOp (p : Pkg) (a : Nat) : Pkg :=
  let w := nextWord p a
  let d := (arrOf p a).data
  let row (i : Nat) : Bytes := toLE 4 (tget fNegInf d.rowM i).toNat ++ toLE 4 (tget 0 d.rowL i).toNat
  wordDone ((rowsIn d (wM w)).foldl (fun q i => storeAt q a w (8 * i) (row i) 0) (storeOwn p a w (8 * wM w))) a

/-! ### MASKSET (R127) -/

/-- A mask of a range. -/
def rangeMask (lo n : Nat) : Nat := (2 ^ n - 1) * 2 ^ lo % 2 ^ 128

/-- MASKSET. -/
def masksetOp (p : Pkg) (a : Nat) : Pkg :=
  let w := nextWord p a
  let set (d : ArrData) : ArrData :=
    if wbit w 0 4 then
      let b := sramGet d (32 * wbits w 8 15 0) 32
      { d with rowMask := leNat (b.take 16), colMask := leNat (b.drop 16) }
    else
      { d with
        rowMask := rangeMask (wbits w 0 14 8) (wbits w 0 23 16), colMask := rangeMask (wbits w 0 30 24) (wbits w 4 7 0) }
  wordDone (modData p a set) a

end Sys2Proof.Machine
end

