-- ==== Sys2Proof/Machine/Progs.lean ====
section
/-! DEFINITION. The programs of an image: their runs, the words where they stand, what a word takes from its channels, and the sources and
destinations of a layer's products (R86, R99, R105, R113, R115, R146, R154, R160, R162, R163). -/

namespace Sys2Proof.Machine

/-! ### Runs and records -/

/-- Words of a segment split into runs: each run's words up to its LAYER_END, and what follows the last (R146). -/
def runsOf : List Nat → List (List Nat)
  | [] => []
  | w :: t =>
    if wOp w = 8 ∧ syncKind w = 4 then [w] :: runsOf t
    else match runsOf t with
      | r :: rs => (w :: r) :: rs
      | [] => [[w]]

/-- The layer of a run; none for words after the last LAYER_END. -/
def runLayer (ws : List Nat) : Option Nat :=
  match ws.getLast? with
  | some w => if wOp w = 8 ∧ syncKind w = 4 then some (syncLayer w) else none
  | none => none

/-- The wide variant group that a record belongs to (R99, R162). -/
def groupWith (i : Image) (k : Nat) : Option Variant :=
  i.variants.find? fun v => decide (v.kind = 1 ∧ v.first ≤ k ∧ k < v.first + v.count)

/-- The record that governs a layer while a wide variant group is in force (R99). -/
def recIn (i : Image) (v : Option Variant) (layer : Nat) : LRec :=
  match v with
  | some g => (((i.recs.drop g.first).take g.count).find? fun r => decide (r.layer = layer)).getD (i.recs.getD layer {})
  | none => i.recs.getD layer {}

/-! ### Words where they stand -/

/-- A word where it stands: its index in WORDS, its segment, the words of its run before it, every word of its program before it, the words
whose channel units were consumed before its run, the word after it, whether it is its program's last, the layer of its run and that run's
number among its segment's runs of the layer, the wide entry its program belongs to, and the stream overrides of its RUN entry. -/
structure WordAt where
  idx : Nat
  seg : Nat
  run : List Nat
  before : List Nat
  fed : List Nat
  w : Nat
  next : Nat
  last : Bool
  layer : Option Nat
  turn : Nat := 0
  wide : Option Variant
  ovr : List Nat := []
deriving DecidableEq, Repr

/-- LAYER_ENDs of a layer in a list of words. -/
def endsOf (layer : Option Nat) (ws : List Nat) : Nat :=
  (ws.filter fun w => decide (wOp w = 8 ∧ syncKind w = 4 ∧ some (syncLayer w) = layer)).length

/-- The words of a segment's program. -/
def segProg (i : Image) (s : Nat) : List WordAt :=
  let ws := segWords i s
  ((runsOf ws).foldl (fun (acc : List WordAt × List Nat) run =>
    let done := acc.2
    let here := (run.zip (upto run.length)).map fun e =>
      ({ idx := (i.segs.getD s {}).wordFirst + done.length + e.2, seg := s, run := run.take e.2, before := done ++ run.take e.2, fed := done
         w := e.1, next := ws.getD (done.length + e.2 + 1) 0, last := decide (done.length + e.2 + 1 = ws.length), layer := runLayer run
         turn := endsOf (runLayer run) done, wide := none } : WordAt)
    (acc.1 ++ here, done ++ run)) ([], [])).1

/-- How many runs of a layer a segment has: the passes over its half-batches (R95). -/
def turnsOf (i : Image) (seg layer : Nat) : Nat := endsOf (some layer) (segWords i seg)

/-- A word of a segment stands before a run of a layer, by its number; it stands in that run or before it. -/
def isBefore (layer k : Nat) (x : WordAt) : Bool :=
  let n := endsOf (some layer) x.before
  decide (n < k) || (decide (n = k) && decide (x.layer ≠ some layer))
def isThrough (layer k : Nat) (x : WordAt) : Bool :=
  let n := endsOf (some layer) x.before
  decide (n < k) || (decide (n = k) && decide (x.layer = some layer)) || isBefore layer k x

/-- The words of a segment before a run of a layer, by its number. -/
def beforeRun (i : Image) (seg layer k : Nat) : List Nat := ((segProg i seg).filter (isBefore layer k)).map (·.w)

/-- The variant entries of a kind whose RUN entries include an entry: WIDE entries (1), SPILL entries (2). -/
def runsWith (i : Image) (kind k : Nat) : List Variant :=
  i.variants.filter fun v => decide (v.kind = kind ∧ v.runFirst ≤ k ∧ k < v.runFirst + v.runCount)

/-- The words of a RUN entry. -/
def runWords (i : Image) (v : Variant) : List Nat := (i.words.drop v.first).take v.count

/-- The words of a RUN entry where they stand: after the words before its run, its channels at the run's start or at the start of an
override chain (R115, R163). -/
def runProg (i : Image) (v : Variant) (wide : Option Variant) (prior fed : List Nat) (turn : Nat) : List WordAt :=
  let ws := runWords i v
  (ws.zip (upto ws.length)).map fun e =>
    { idx := v.first + e.2, seg := v.seg, run := ws.take e.2, before := prior ++ ws.take e.2, fed := fed, w := e.1
      next := ws.getD (e.2 + 1) 0, last := decide (e.2 + 1 = ws.length), layer := runLayer ws, turn := turn, wide := wide, ovr := v.overrides }

/-- The words of a segment where they stand, each run replaced by the RUN entry that a wide entry names for it (R163). -/
def progIn (i : Image) (v : Option Variant) (seg : Nat) : List WordAt :=
  let xs := segProg i seg
  match v with
  | none => xs
  | some g =>
    let entry (x : WordAt) : Option Variant :=
      ((i.variants.drop g.runFirst).take g.runCount).find? fun e => decide (e.kind = 4 ∧ e.seg = seg ∧ some e.layer = x.layer)
    xs.flatMap fun x => match entry x with
      | some e => if x.run.isEmpty then runProg i e v x.before x.fed x.turn else []
      | none => [{ x with wide := v }]

/-- The RUN entries of a spill round in one segment, with their numbers. -/
def roundRuns (i : Image) (s : Variant) (seg : Nat) : List (Variant × Nat) :=
  (((i.variants.drop s.runFirst).take s.runCount).zip ((upto s.runCount).map (· + s.runFirst))).filter fun e => decide (e.1.seg = seg)

/-- The words before RUN entry k of a spill round: the segment's up to the end of the round's last layer, under the wide entry in force, and
those of the round's earlier RUN entries (R163, R202). -/
def beforeSpill (i : Image) (g : Option Variant) (s : Variant) (k : Nat) (v : Variant) (t : Nat) : List WordAt :=
  let mine := roundRuns i s v.seg
  let end_ := match mine.getLast? with | some e => e.1.layer | none => v.layer
  let prior := (progIn i g v.seg).filter (isThrough end_ t)
  (mine.filter fun e => decide (e.2 < k)).foldl
    (fun acc e => acc ++ runProg i e.1 g (acc.map (·.w)) (beforeRun i e.1.seg e.1.layer t) (65536 + t)) prior

/-- The words of RUN entry k in a round of a SPILL entry, under the wide entry in force. -/
def spillProg (i : Image) (g : Option Variant) (s : Variant) (k : Nat) (v : Variant) (t : Nat) : List WordAt :=
  runProg i v g ((beforeSpill i g s k v t).map (·.w)) (beforeRun i v.seg v.layer t) (65536 + t)

/-- The programs of RUN entry k of VARIANTS in one run of its layer in its segment (R95, R163): in the rounds of the SPILL entries that name
it, and in the place of the run that it replaces under each WIDE entry that names it. DESIGN CHOICE: the words before a run that a WIDE
entry replaces are those of the segment's normal runs, not of other RUN entries of the group (R147, R163; log entry 44). -/
def turnProgs (i : Image) (k : Nat) (v : Variant) (t : Nat) : List (List WordAt) :=
  let fed := beforeRun i v.seg v.layer t
  let ps := (runsWith i 2 k).map (fun s => spillProg i none s k v t) ++ (runsWith i 1 k).map fun g => runProg i v (some g) fed fed t
  if ps.isEmpty then [runProg i v none fed fed t] else ps

/-- The programs of RUN entry k of VARIANTS, in every run of its layer in its segment. -/
def runProgs (i : Image) (k : Nat) (v : Variant) : List (List WordAt) :=
  (upto (max 1 (turnsOf i v.seg v.layer))).flatMap (turnProgs i k v)

/-- The RUN entries of an image with their numbers. -/
def runEntries (i : Image) : List (Variant × Nat) := (i.variants.zip (upto i.variants.length)).filter fun v => decide (v.1.kind = 4)

/-- Every program of an image: its segments' and its RUN entries'. -/
def progsOf (i : Image) : List (List WordAt) :=
  (upto i.segs.length).map (segProg i) ++ (runEntries i).flatMap fun v => runProgs i v.2 v.1

/-! ### What a word takes from its channels -/

/-- The record that governs a word's layer in its program. -/
def recAt (i : Image) (x : WordAt) (layer : Nat) : LRec := recIn i x.wide layer

/-- The feeder of a channel of a segment; 0 for a channel that its table lacks. -/
def feederOf (i : Image) (seg c : Nat) : Nat :=
  let d := i.segs.getD seg {}
  match ((i.chans.drop d.chanFirst).take d.chanCount).find? fun x => decide (x.chan = c) with
  | some x => x.feeder
  | none => 0

/-- The buffer units that a chain's entries give for its units from one number up to another: buffer, first unit, and the unit after the
last. -/
def chainSpan : List StreamEnt → Nat → Nat → List (Nat × Nat × Nat)
  | [], _, _ => []
  | e :: t, lo, hi =>
    (if lo < min hi e.units then [(e.source, e.offset + lo, e.offset + min hi e.units)] else []) ++ chainSpan t (lo - e.units) (hi - e.units)

/-- The buffer units that a word takes from a staging channel, from the first up to the last of those it consumes; an override chain of a
RUN entry starts with the entry's words (R163). None for a channel with another feeder. -/
def chanSpans (i : Image) (x : WordAt) (c lo hi : Nat) : List (Nat × Nat × Nat) :=
  if feederOf i x.seg c = 3 then
    let o := x.ovr.getD c 0
    let first := if o = 0 then (chanEnt i x.seg c).stream else o - 1
    let at_ := unitsIn i x.seg c (if o = 0 then x.fed ++ x.run else x.run)
    chainSpan (chainFrom i.streams first) (at_ + lo) (at_ + hi)
  else []

/-- The buffers whose bytes a word takes from a staging channel. -/
def moverRead (i : Image) (x : WordAt) (c : Nat) : List Nat := (chanSpans i x c 0 (unitsOf i x.seg c x.w)).map (·.1)

/-- Bytes that a STORE writes. -/
def storeBytes (i : Image) (x : WordAt) : Nat :=
  if wbit x.w 0 6 then 8 * wM x.w else let r := recAt i x (wLayer x.w); panelBytes (wM x.w) r.oFmt r.oSch

/-! ### Sources and destinations of a layer's products (R86, R99, R105) -/

/-- Where bytes of an A operand come from: units of a buffer, through a staging mover or the last load that wrote them; or a layer, whose
STORE wrote them in local SRAM. -/
inductive ASource where
  | buf (k lo hi : Nat)
  | layer (l : Nat)
deriving DecidableEq, Repr

/-- Parts of ranges that lie inside a range; parts that lie outside it. Each range is its first unit and the unit after its last. -/
def inside (lo hi : Nat) (rs : List (Nat × Nat)) : List (Nat × Nat) :=
  (rs.map fun r => (max r.1 lo, min r.2 hi)).filter fun r => decide (r.1 < r.2)
def outside (lo hi : Nat) (rs : List (Nat × Nat)) : List (Nat × Nat) :=
  (rs.flatMap fun r => [(r.1, min r.2 lo), (max r.1 hi, r.2)]).filter fun r => decide (r.1 < r.2)

/-- The local units that a word writes: its first and the unit after its last. -/
def localWrite (i : Image) (x : WordAt) : Option (Nat × Nat) :=
  let w := x.w
  if wOp w = 4 ∨ wOp w = 5 then some (wbits w 8 15 0, wbits w 8 15 0 + wbits w 12 19 0)
  else if wOp w = 6 ∧ !wbit w 0 4 then some (wbits w 4 15 0, wbits w 4 15 0 + ceilDiv (storeBytes i x) 32)
  else none

/-- What a word wrote in local units from lo up to hi, which lie in its own. -/
def wroteThere (i : Image) (x : WordAt) (lo hi : Nat) : List ASource :=
  let w := x.w
  let at_ := wbits w 8 15 0
  if wOp w = 6 then (if wbit w 0 6 then [] else [.layer (wLayer w)])
  else if wOp w = 5 then
    if wbit w 0 4 then [.buf (wbits w 0 19 8) (wbits w 4 31 0 + (lo - at_)) (wbits w 4 31 0 + (hi - at_))]
    else (chanSpans i x (wbits w 0 6 5) (lo - at_) (hi - at_)).map fun s => .buf s.1 s.2.1 s.2.2
  else []

/-- The sources of local units, the words before them given from the last to the first. -/
def localSources (i : Image) : List WordAt → List (Nat × Nat) → List ASource
  | [], _ => []
  | x :: t, rs =>
    match localWrite i x with
    | some (lo, hi) => (inside lo hi rs).flatMap (fun r => wroteThere i x r.1 r.2) ++ localSources i t (outside lo hi rs)
    | none => localSources i t rs

/-- The sources of the A operand of a word; none for a word without one. -/
def aSources (i : Image) (earlier : List WordAt) (x : WordAt) : List ASource :=
  let o := if wOp x.w = 1 then mmaA x.w else fuseOpd (paramBlock i x.seg x.w) 0
  let k := if wOp x.w = 1 then wbits x.w 4 20 0 else wbits x.w 8 20 0
  let n := tensorBytes (wM x.w) k o.fmt o.sch / 32
  if wOp x.w ≠ 1 ∧ wOp x.w ≠ 2 then []
  else match o.chan with
    | some c => (chanSpans i x c 0 n).map fun s => .buf s.1 s.2.1 s.2.2
    | none => localSources i earlier.reverse [(o.addr, o.addr + n)]

/-- The programs that a step runs under a wide entry, each with the words before it: the segments', and those of the spill rounds. -/
def stepProgs (i : Image) (v : Option Variant) : List (List WordAt × List WordAt) :=
  (upto i.segs.length).map (fun s => ([], progIn i v s)) ++
    (runEntries i).flatMap fun e => (runsWith i 2 e.2).flatMap fun s =>
      (upto (max 1 (turnsOf i e.1.seg e.1.layer))).map fun t => (beforeSpill i v s e.2 e.1 t, spillProg i v s e.2 e.1 t)

/-- Layers with the sources that their products read. -/
def layerReads (i : Image) (v : Option Variant) : List (Nat × ASource) :=
  (stepProgs i v).flatMap fun p =>
    (p.2.zip (upto p.2.length)).flatMap fun x => (aSources i (p.1 ++ p.2.take x.2) x.1).map fun a => (wLayer x.1.w, a)

/-- A layer and the bytes of a buffer that its STOREs of panels write: the layer, the buffer, the first byte and the byte after the last. -/
def layerWrites (i : Image) (v : Option Variant) : List (Nat × Nat × Nat × Nat) :=
  (stepProgs i v).flatMap fun p =>
    (p.2.filter fun x => decide (wOp x.w = 6) && wbit x.w 0 4 && !wbit x.w 0 6).map fun x =>
      let at_ := 32 * wbits x.w 8 31 0
      (wLayer x.w, wbits x.w 4 27 16, at_, at_ + storeBytes i x)

/-- The layers that produce what a source holds. -/
def madeBy (ws : List (Nat × Nat × Nat × Nat)) : ASource → List Nat
  | .layer l => [l]
  | .buf k lo hi => (ws.filter fun x => decide (x.2.1 = k ∧ x.2.2.1 < 32 * hi ∧ 32 * lo < x.2.2.2)).map Prod.fst

/-- The layers whose output a layer's products read, from buffers and through local SRAM (R86, R105). -/
def producersOf (i : Image) (v : Option Variant) (layer : Nat) : List Nat :=
  let ws := layerWrites i v
  (((layerReads i v).filter fun x => decide (x.1 = layer)).flatMap fun x => madeBy ws x.2).eraseDups

/-- The layers whose products read a layer's output. -/
def consumersOf (i : Image) (v : Option Variant) (layer : Nat) : List Nat :=
  let ws := layerWrites i v
  (((layerReads i v).filter fun x => decide (layer ∈ madeBy ws x.2)).map Prod.fst).eraseDups

/-- The expert layers that read a layer's output through an exchange: those of the routing entries that dispatch it (R218). -/
def expertsOf (i : Image) (layer : Nat) : List Nat :=
  match i.routing with
  | some r => (r.entries.filter fun e => decide (e.dispatchLayer = layer)).map (·.expertLayer)
  | none => []

end Sys2Proof.Machine
end

