-- ==== Sys2Proof/Machine/ImageOps.lean ====
section
/-! DEFINITION. Schedule images: reading an image's bytes, and the loader's checks 4 to 22 (Table 5-15; Tables 5-1 to 5-12, 3-10,
3-11; R105, R149 to R169, R303, R315, R318). -/

namespace Sys2Proof.Machine

/-- What a refused image is refused with: check, status, and what the LDR_FAIL_ registers report (Table 5-19). -/
structure LdrFail where
  check : Nat
  status : Nat
  sec : Nat := 0
  index : Nat := 0
  off : Nat := 0
deriving DecidableEq, Repr

/-- One test of a field: the offset within its item, the test that must hold, and the status when it does not. -/
structure Test where
  at_ : Nat
  ok : Bool
  status : Nat

def fmtTest (at_ : Nat) (ok : Bool) : Test := ⟨at_, ok, stFormatInvalid⟩
def lenTest (at_ : Nat) (ok : Bool) : Test := ⟨at_, ok, stLengthInvalid⟩
def alnTest (at_ : Nat) (ok : Bool) : Test := ⟨at_, ok, stAlignmentInvalid⟩

/-- The first test of an item that fails. -/
def runTests (check sec index base : Nat) (ts : List Test) : Option LdrFail :=
  match ts.find? fun t => !t.ok with
  | some t => some { check := check, status := t.status, sec := sec, index := index, off := base + t.at_ }
  | none => none

/-- All ones in a field of n bytes (R14). -/
def allOnes (n x : Nat) : Bool := decide (x = 2 ^ (8 * n) - 1)

/-! ### Sections (Tables 5-2 and 5-3) -/

/-- Entry bytes of a section type; 0 for a reserved type. -/
def entrySize (t : Nat) : Nat :=
  match t with
  | 1 => 32 | 2 => 16 | 3 => 1 | 4 => 16 | 5 => 48 | 6 => 32 | 7 => 32 | 8 => 4 | 9 => 16 | 10 => 32 | 11 => 48 | 12 => 16
  | 13 => 16 | 14 => 32 | _ => 0

/-- Directory entries: their types, entries, offsets and lengths. -/
def dirOf (b : Bytes) : List (Nat × Nat × Nat × Nat) :=
  (upto (min 14 (fieldAt b 12 4))).map fun k =>
    let o := 128 + 16 * k
    (fieldAt b o 2, fieldAt b (o + 4) 4, fieldAt b (o + 8) 4, fieldAt b (o + 12) 4)

/-- A section's entries and offset; none where it is absent. -/
def secOf (b : Bytes) (t : Nat) : Option (Nat × Nat) :=
  match (dirOf b).find? fun d => decide (d.1 = t) with
  | some d => some (d.2.1, d.2.2.1)
  | none => none

def secCount (b : Bytes) (t : Nat) : Nat := match secOf b t with | some s => s.1 | none => 0
def secOff (b : Bytes) (t : Nat) : Nat := match secOf b t with | some s => s.2 | none => 0

/-- Entry i of a section, as bytes. -/
def entAt (b : Bytes) (t i : Nat) : Bytes := (b.drop (secOff b t + entrySize t * i)).take (entrySize t)

/-- All entries of a section. -/
def entsOf (b : Bytes) (t : Nat) : List Bytes := chunks (entrySize t) (secCount b t) ((b.drop (secOff b t)).take (secCount b t * entrySize t))

/-! ### Reading the entries -/

def segOf (e : Bytes) : SegDir :=
  { wordFirst := fieldAt e 0 4, wordCount := fieldAt e 4 4, constFirst := fieldAt e 8 4, constBytes := fieldAt e 12 4
    constLaddr := fieldAt e 16 2, chanFirst := fieldAt e 18 2, chanCount := fieldAt e 20 1 % 8, affinity := fieldAt e 21 1 % 4 }

def chanOf (e : Bytes) : ChanEnt :=
  let x := fieldAt e 4 1
  { base := fieldAt e 0 2, size := fieldAt e 2 2, chan := x % 4, feeder := bitsOf x 3 2, units := fieldAt e 8 4, stream := fieldAt e 12 4 }

def barrierOf (e : Bytes) : Barrier := { members := fieldAt e 0 32, gate := bitOf (fieldAt e 32 1) 0 }

def lrecOf (e : Bytes) : LRec :=
  let s := fieldAt e 1 1
  let f := fieldAt e 7 1
  { wFmt := fieldAt e 0 1 % 32, wSch := bitsOf s 1 0, aSch := bitsOf s 3 2, oSch := bitsOf s 5 4, aFmt := fieldAt e 2 1 % 32
    oFmt := fieldAt e 3 1 % 32, clip := fieldAt e 4 1, base := signed8 (fieldAt e 5 1), tExp := fieldAt e 6 1 % 32
    sensitive := bitOf f 0, override := bitOf f 1, dewclaw := bitOf f 2, wide := bitOf f 3, hasWide := bitOf f 4
    wideIndex := fieldAt e 8 2, layer := fieldAt e 10 2, wts := BitVec.ofNat 32 (fieldAt e 12 4) }

def variantOf (e : Bytes) : Variant :=
  let kind := fieldAt e 0 1 % 8
  { kind := kind, seg := fieldAt e 1 1, layer := fieldAt e 2 2, first := fieldAt e 4 4, count := fieldAt e 8 4
    runFirst := fieldAt e 12 2, runCount := fieldAt e 14 2, overrides := (upto 4).map fun k => fieldAt e (16 + 4 * k) 4
    fbId := if kind = 3 then fieldAt e 16 8 else 0 }

def relocOf (e : Bytes) : Reloc :=
  let x := fieldAt e 8 1
  { bytes := fieldAt e 0 8, kind := bitsOf x 2 0, cls := bitsOf x 3 3, persist := bitOf x 4, fill := fieldAt e 12 4 }

def shardEntOf (e : Bytes) : ShardEnt :=
  { shard := fieldAt e 0 4, length := fieldAt e 4 4, reads := fieldAt e 8 4, digest := (e.drop 16).take 32 }

def streamEntOf (e : Bytes) : StreamEnt :=
  let x := fieldAt e 0 1
  { kind := bitsOf x 0 0, last := bitOf x 1, source := fieldAt e 4 4, offset := fieldAt e 8 4, units := fieldAt e 12 4 }

def attOf (e : Bytes) : AttEnt :=
  let x := fieldAt e 11 1
  { layer := fieldAt e 0 2, headFirst := fieldAt e 2 2, headCount := fieldAt e 4 2, slotFirst := fieldAt e 6 2
    slotCount := fieldAt e 8 2, seg := fieldAt e 10 1, bChan := bitsOf x 1 0, dChan := bitsOf x 3 2 }

def routeOf (e : Bytes) : RouteEnt :=
  let buf (o : Nat) : Nat := fieldAt e o 2 % 4096
  { routerLayer := fieldAt e 0 2, dispatchLayer := fieldAt e 2 2, expertLayer := fieldAt e 4 2, combineLayer := fieldAt e 6 2
    scoreBuf := buf 8, selectBuf := buf 10, recvBuf := buf 12, combBuf := buf 14, outBuf := buf 16, dispBuf := buf 18
    recvGate := fieldAt e 20 1, combGate := fieldAt e 21 1, spillIndex := fieldAt e 22 2, outFmt := fieldAt e 24 1 % 32
    maskLaddr := fieldAt e 26 2 }

/-- The ROUTING section (R218). -/
def routingOf (b : Bytes) : Option Routing :=
  match entsOf b 14 with
  | h :: t =>
    some
      { experts := fieldAt h 0 2, topK := fieldAt h 2 1 % 64, gateMode := fieldAt h 3 1 % 2, epm := fieldAt h 4 2
        hiddenPanels := fieldAt h 6 2, boardBuf := fieldAt h 8 2 % 4096, entries := t.map routeOf }
  | [] => none

/-- The AMOUNT of a reservation kind (Table 5-8). -/
def amountOf (b : Bytes) (kind : Nat) : Nat :=
  match (entsOf b 9).find? fun e => decide (fieldAt e 0 2 = kind) with
  | some e => fieldAt e 8 8
  | none => 0

/-- The image that bytes hold (Tables 5-1 to 5-12). -/
def parseImage (b : Bytes) : Image :=
  let v3 := decide (fieldAt b 8 2 = 3)
  let segments := fieldAt b 32 2
  let vars := (entsOf b 7).map variantOf
  { version := fieldAt b 8 2, id := fieldAt b 24 8, layers := fieldAt b 34 2, groupSize := fieldAt b 36 2 % 8192
    member := fieldAt b 38 2 % 4096, batchSlots := fieldAt b 40 2, positions := fieldAt b 42 1 % 8
    phase := if v3 then 16 else fieldAt b 43 1, kvK := fieldAt b 44 1 % 32, kvV := fieldAt b 45 1 % 32
    vocab := fieldAt b 48 4 % 2 ^ 24, nominal := fieldAt b 52 4, folded := fieldAt b 56 4
    segs := (entsOf b 1).map segOf, words := (entsOf b 2).map leNat, consts := (entsOf b 3).flatten
    chans := (entsOf b 4).map chanOf, barriers := (entsOf b 5).map barrierOf, recs := (entsOf b 6).map lrecOf, variants := vars
    stagger := if v3 then (upto segments).map fun s => 37 * s % 129 else (entsOf b 8).map fun e => fieldAt e 0 1
    relocs := (entsOf b 10).map relocOf, shards := (entsOf b 11).map shardEntOf, streams := (entsOf b 12).map streamEntOf
    att := (entsOf b 13).map attOf, routing := routingOf b, retainBytes := amountOf b 1, replayTicks := amountOf b 2
    roundTicks := amountOf b 3, recvCapacity := amountOf b 4
    fbId := (vars.find? fun v => decide (v.kind = 3)).map (·.fbId) }

/-! ### Checks 4 to 12: header and directory -/

/-- The ASCII bytes "THNSCHD1". -/
def imageMagic : Bytes := [0x54#8, 0x48#8, 0x4E#8, 0x53#8, 0x43#8, 0x48#8, 0x44#8, 0x31#8]

/-- IMAGE_ID is the digest of the image with its own bytes taken as zero (R151). -/
def imageIdOk (b : Bytes) : Bool := decide ((b.drop 24).take 8 = (sha256 (b.take 24 ++ zeros 8 ++ b.drop 32)).take 8)

/-- A field of the header within a range. -/
def inRange (x lo hi : Nat) : Bool := decide (lo ≤ x ∧ x ≤ hi)

/-- A KV format of Table 5-1. -/
def kvFmtOk (x : Nat) : Bool := decide (x = 3 ∨ x = 7)

/-- Check 8: the other header fields, in ascending offset. -/
def headerTests (b : Bytes) : List Test :=
  let v3 := decide (fieldAt b 8 2 = 3)
  let phase := fieldAt b 43 1
  let nominal := fieldAt b 52 4
  let group := fieldAt b 36 2
  [ lenTest 12 (inRange (fieldAt b 12 4) 1 14),
    fmtTest 20 (zeroAt b 20 4),
    lenTest 32 (inRange (fieldAt b 32 2) 1 256),
    lenTest 34 (inRange (fieldAt b 34 2) 1 65534),
    lenTest 36 (inRange (group % 8192) 1 4096),
    fmtTest 36 (decide (group < 8192)),
    fmtTest 38 (decide (fieldAt b 38 2 < 4096 ∧ fieldAt b 38 2 < group % 8192)),
    lenTest 40 (inRange (fieldAt b 40 2) 1 65534),
    lenTest 42 (inRange (fieldAt b 42 1 % 8) 1 5),
    fmtTest 42 (decide (fieldAt b 42 1 < 8)),
    fmtTest 43 (if v3 then decide (phase = 0) else inRange phase 1 128 && decide (phase % 3 ≠ 0 ∧ phase % 43 ≠ 0)),
    fmtTest 44 (kvFmtOk (fieldAt b 44 1)),
    fmtTest 45 (kvFmtOk (fieldAt b 45 1)),
    fmtTest 46 (zeroAt b 46 2),
    lenTest 48 (inRange (fieldAt b 48 4 % 2 ^ 24) 2 16777214),
    fmtTest 48 (decide (fieldAt b 48 4 < 2 ^ 24)),
    lenTest 52 (inRange nominal 1 0xFFFFFFFE),
    lenTest 56 (inRange (fieldAt b 56 4) nominal 0xFFFFFFFE),
    fmtTest 60 (zeroAt b 60 68) ]

/-- Two ranges overlap; an empty range overlaps none. -/
def overlaps (a n b m : Nat) : Bool := decide (0 < n ∧ 0 < m ∧ a < b + m ∧ b < a + n)

/-- Check 10: one directory entry. -/
def dirTests (b : Bytes) (k : Nat) : List Test :=
  let ds := dirOf b
  let d := ds.getD k (0, 0, 0, 0)
  let used := 128 + 16 * ds.length
  let o := 128 + 16 * k
  let others := (ds.zip (upto ds.length)).filter fun e => decide (e.2 ≠ k)
  [ fmtTest 0 (decide (entrySize d.1 ≠ 0) && !((ds.take k).any fun e => decide (e.1 = d.1))),
    fmtTest 2 (zeroAt b (o + 2) 2),
    lenTest 4 (decide (d.2.1 ≠ 0) && !allOnes 4 d.2.1),
    alnTest 8 (decide (d.2.2.1 % 64 = 0)),
    lenTest 12 (decide (d.2.2.2 = d.2.1 * entrySize d.1 ∧ used ≤ d.2.2.1 ∧ d.2.2.1 + d.2.2.2 ≤ b.length) &&
      !(others.any fun e => overlaps d.2.2.1 d.2.2.2 e.1.2.2.1 e.1.2.2.2)) ]

/-- Offsets of the bytes that no part of the image holds. -/
def strayByte (b : Bytes) : Option Nat :=
  let ds := dirOf b
  let used := 128 + 16 * ds.length
  ((b.zip (upto b.length)).find? fun e =>
    decide (used ≤ e.2 ∧ e.1 ≠ 0) && !(ds.any fun d => decide (d.2.2.1 ≤ e.2 ∧ e.2 < d.2.2.1 + d.2.2.2))).map Prod.snd

/-- A section that check 11 needs and that is absent. -/
def absentFail (b : Bytes) (t : Nat) : Option LdrFail :=
  if (secOf b t).isNone then some { check := 11, status := stFormatInvalid, sec := t } else none

/-- STAGGER in a version-3 image, where it is forbidden (R166); elsewhere it is required. -/
def staggerFail (b : Bytes) : Option LdrFail :=
  if fieldAt b 8 2 = 3 then
    ((dirOf b).findIdx? fun d => decide (d.1 = 8)).map fun k =>
      { check := 11, status := stFormatInvalid, index := k, off := 128 + 16 * k }
  else absentFail b 8

/-- Check 11, in ascending section order (R169). -/
def presenceFail (b : Bytes) : Option LdrFail :=
  let wide := (entsOf b 6).any fun e => (lrecOf e).hasWide
  (([1, 2, 6].map (absentFail b)) ++ [if wide then absentFail b 7 else none, staggerFail b] ++ ([9, 10, 11].map (absentFail b)) ++
    [(strayByte b).map fun o => ({ check := 11, status := stFormatInvalid, off := o } : LdrFail)]).findSome? id

/-- Check 12. -/
def countFail (b : Bytes) : Option LdrFail :=
  let segs := fieldAt b 32 2
  let bad : List (Nat × Bool) :=
    [(1, decide (secCount b 1 ≠ segs)), (5, decide (256 < secCount b 5)), (6, decide (secCount b 6 < fieldAt b 34 2)),
      (8, (secOf b 8).isSome && decide (secCount b 8 ≠ segs)), (10, decide (4096 < secCount b 10))]
  (bad.find? (·.2)).map fun x =>
    { check := 12, status := stLengthInvalid, sec := x.1
      off := 128 + 16 * (((dirOf b).findIdx? fun d => decide (d.1 = x.1)).getD 0) + 4 }

/-- Checks over the entries of a section in order. -/
def entryChecks (b : Bytes) (check t : Nat) (f : Nat → Bytes → List Test) : Option LdrFail :=
  ((entsOf b t).zip (upto (secCount b t))).findSome? fun e =>
    runTests check t e.2 (secOff b t + entrySize t * e.2) (f e.2 e.1)

/-! ### Check 13: variants (R162) -/

/-- The words of a range end with SYNC LAYER_END of a layer. -/
def endsLayer (i : Image) (first count layer : Nat) : Bool :=
  match ((i.words.drop first).take count).getLast? with
  | some w => decide (wOp w = 8 ∧ syncKind w = 4 ∧ syncLayer w = layer)
  | none => false

/-- A segment has a run of a layer. -/
def hasRun (i : Image) (seg layer : Nat) : Bool :=
  (segWords i seg).any fun w => decide (wOp w = 8 ∧ syncKind w = 4 ∧ syncLayer w = layer)

/-- One VARIANTS entry. -/
def variantTests (i : Image) (k : Nat) (e : Bytes) : List Test :=
  let v := variantOf e
  let z (at_ n : Nat) : Test := fmtTest at_ (zeroAt e at_ n)
  let runs : List Test :=
    [ lenTest 12 (!allOnes 2 v.runCount && decide (1 ≤ v.runCount ∧ v.runFirst + v.runCount ≤ i.variants.length)),
      fmtTest 12 (((i.variants.drop v.runFirst).take v.runCount).all fun x => decide (x.kind = 4)), z 16 16 ]
  [ fmtTest 0 (inRange v.kind 1 4 && decide (fieldAt e 0 1 < 8)),
    fmtTest 0 (decide (v.kind ≠ 3) || !((i.variants.take k).any fun x => decide (x.kind = 3))) ] ++
  match v.kind with
  | 1 => [z 1 1, lenTest 2 (decide (v.layer < i.layers)), lenTest 4 (decide (v.first < i.recs.length)),
      lenTest 8 (decide (1 ≤ v.count ∧ v.first + v.count ≤ i.recs.length))] ++ runs
  | 2 => [z 1 1, lenTest 2 (decide (v.layer < i.layers)),
      lenTest 4 (decide (v.layer ≤ v.first % 65536 ∧ v.first % 65536 < i.layers)), fmtTest 4 (decide (v.first < 65536)),
      z 8 4] ++ runs
  | 3 => [z 1 1, z 2 2, z 4 4, z 8 4, z 12 4, z 24 8]
  | 4 => [fmtTest 1 (decide (v.seg < i.segs.length)), fmtTest 2 (hasRun i v.seg v.layer),
      lenTest 4 (decide (v.first < i.words.length)),
      lenTest 8 (decide (1 ≤ v.count ∧ v.first + v.count ≤ i.words.length)), fmtTest 8 (endsLayer i v.first v.count v.layer),
      z 12 4] ++ (upto 4).map fun c =>
        lenTest (16 + 4 * c) (decide (v.overrides.getD c 0 = 0 ∨ v.overrides.getD c 0 - 1 < i.streams.length))
  | _ => []

/-! ### Check 14: layer records (Table 3-11) -/

/-- The schemes a format allows in a role: 0 weight, 1 activation, 2 output (Table 3-7). -/
def schemesOf (role f : Nat) : List Nat :=
  match f, role with
  | 0, _ => [0] | 1, _ => [0]
  | 2, 2 => [0]
  | 3, 0 => [0, 1] | 3, _ => [0, 1, 3]
  | 4, _ => [0, 1]
  | 5, 0 => [1, 2] | 5, _ => [1]
  | 6, 0 => [1, 2] | 6, _ => [1]
  | 7, 0 => [1, 2] | 7, _ => [1, 3]
  | 8, 0 => [0, 1] | 8, _ => [1, 3]
  | 9, 0 => [2] | 9, _ => [3]
  | 10, 0 => [2] | 11, 0 => [2] | 12, 0 => [2]
  | _, _ => []

/-- A format may be used in a role (Table 3-1). -/
def roleOk (role f : Nat) : Bool := !(schemesOf role f).isEmpty

/-- The wide set of a sensitive layer (R103). DEDUCED: the section before R103 names its weights and its activations, so O_FMT and
O_SCHEME are not tested (log entry 42). -/
def wideSet (r : LRec) : Bool := decide (r.wFmt ∈ [0, 1, 3, 4, 8] ∧ r.aFmt ∈ [0, 1, 3, 4] ∧ r.aSch ≠ 3)

/-- What the output of a record widens to (R99); none where it does not. -/
def widened (r : LRec) : Option (Nat × Nat) :=
  if r.oSch = 3 then (if r.oFmt = 3 then some (0, 0) else some (3, 3)) else none

/-- A wide variant group widens a record as R99 states and holds a record for every consumer of the output, in the normal runs and in
the wide ones. DESIGN CHOICE: R99 widens only an output under S3, so a record with HAS_WIDE = 1 whose output is not under S3 has no
group that widens as R99 states, and is refused (log entry 42). -/
def groupOk (i : Image) (r : LRec) : Bool :=
  let v := i.variants.getD r.wideIndex {}
  let g := (i.recs.drop v.first).take v.count
  let of_ (l : Nat) : Option LRec := g.find? fun x => decide (x.layer = l)
  match widened r, of_ r.layer with
  | some (f, s), some x =>
    decide (x.oFmt = f ∧ x.oSch = s ∧ (s ≠ 3 ∨ x.clip = 0)) && (g.all fun y => y.wide) &&
      (consumersOf i none r.layer ++ consumersOf i (some v) r.layer ++ expertsOf i r.layer).all fun c => match of_ c with | some y => decide (y.aFmt = f ∧ y.aSch = s) | none => false
  | _, _ => false

/-- One layer record, in the order of Table 3-11; the producing records are those of its wide group where it belongs to one. -/
def recTests (i : Image) (k : Nat) (e : Bytes) : List Test :=
  let r := lrecOf e
  let inTable := decide (k < i.layers)
  let g := if inTable then none else groupWith i k
  let made := (producersOf i g (if inTable then k else r.layer)).map (recIn i g)
  [ fmtTest 0 (decide (fieldAt e 0 1 < 32) && roleOk 0 r.wFmt),
    fmtTest 1 (decide (fieldAt e 1 1 < 64)),
    fmtTest 2 (decide (fieldAt e 2 1 < 32) && roleOk 1 r.aFmt),
    fmtTest 3 (decide (fieldAt e 3 1 < 32) && roleOk 2 r.oFmt),
    fmtTest 6 (decide (fieldAt e 6 1 < 32)), fmtTest 7 (decide (fieldAt e 7 1 < 32)), fmtTest 16 (zeroAt e 16 16),
    fmtTest 1 (decide (r.wSch ∈ schemesOf 0 r.wFmt ∧ r.aSch ∈ schemesOf 1 r.aFmt ∧ r.oSch ∈ schemesOf 2 r.oFmt)),
    fmtTest 1 (made.all fun q => decide (q.oSch = r.aSch)),
    fmtTest 2 (made.all fun q => decide (q.oFmt = r.aFmt)),
    fmtTest 4 (decide (r.clip ≤ 7)), fmtTest 5 (decide (-64 ≤ r.base ∧ r.base ≤ 63)), fmtTest 6 (decide (r.tExp ≤ 24)),
    fmtTest 12 (if r.wSch = 2 then isPos r.wts else decide (r.wts = 0#32)),
    fmtTest 4 (decide (r.oSch = 3 ∨ r.clip = 0)), fmtTest 5 (decide (r.oSch = 3 ∨ r.base = 0)), fmtTest 7 (decide (r.oSch = 3) || !r.dewclaw),
    fmtTest 7 (!r.sensitive || r.override || wideSet r),
    fmtTest 7 (r.wide || decide (r.oSch ≠ 3) || r.hasWide),
    lenTest 8 (!r.hasWide || decide (r.wideIndex < i.variants.length)),
    fmtTest 8 (!r.hasWide || decide ((i.variants.getD r.wideIndex {}).kind = 1)),
    lenTest 10 (decide (r.layer ≠ 0xFFFF)),
    fmtTest 10 (!inTable || decide (r.layer = k)),
    fmtTest 8 (!r.hasWide || groupOk i r) ]

/-! ### Checks 15 to 22 -/

/-- Check 15 (R161). -/
def reservationFail (b : Bytes) (i : Image) : Option LdrFail :=
  let kinds := (entsOf b 9).map fun e => fieldAt e 0 2
  let moe := i.routing.isSome
  let one := entryChecks b 15 9 fun k e =>
    let kind := fieldAt e 0 2
    let amount := fieldAt e 8 8
    [ fmtTest 0 (inRange kind 1 4 && decide (kind ∉ kinds.take k) && (decide (kind < 3) || moe)),
      fmtTest 2 (zeroAt e 2 6),
      lenTest 8 (decide (amount ≠ 0) && !allOnes 8 amount && (decide (kind ≠ 2) || decide (amount ≤ i.nominal))) ]
  match one with
  | some x => some x
  | none =>
    if ([1, 2] ++ (if moe then [3, 4] else [])).all fun k => decide (k ∈ kinds) then none
    else some { check := 15, status := stFormatInvalid, sec := 9, index := kinds.length }

/-- Units that a chain delivers. -/
def chainLen (i : Image) (first : Nat) : Nat := sumL ((chainFrom i.streams first).map (·.units))

/-- Bytes of the OUTPUT buffer (R303). -/
def outputBytes (i : Image) : Nat :=
  ceilDiv (ceilDiv i.vocab i.groupSize) 128 * 512 * i.groupSize * i.batchSlots * i.positions ^ 2

/-- Check 16. -/
def relocFail (b : Bytes) (i : Image) (pt : Nat) : Option LdrFail :=
  let one := entryChecks b 16 10 fun k e =>
    let r := relocOf e
    let second := (i.relocs.take k).any fun x => decide (x.kind = 4)
    [ lenTest 0 (!allOnes 8 r.bytes && decide (32 ≤ r.bytes ∧ r.bytes % 32 = 0)),
      lenTest 0 (decide (r.kind ≠ 3) || decide (r.bytes = windowBytes i pt)),
      lenTest 0 (decide (r.kind ≠ 4) || decide (r.bytes = outputBytes i)),
      fmtTest 8 (inRange r.kind 1 5 && decide (r.kind ≠ 3 ∨ r.cls = 0) && !(decide (r.kind = 4) && second) &&
        decide (fieldAt e 8 1 < 32)),
      fmtTest 9 (zeroAt e 9 3),
      fmtTest 12 (decide (r.kind = 1 ∨ r.fill = 0)),
      lenTest 12 (decide (r.fill = 0 ∨ r.fill - 1 < i.streams.length)),
      lenTest 12 (decide (r.fill = 0 ∨ chainLen i (r.fill - 1) = r.bytes / 32)),
      fmtTest 16 (zeroAt e 16 16) ]
  match one with
  | some x => some x
  | none =>
    if i.relocs.any fun r => decide (r.kind = 4) then none
    else some { check := 16, status := stFormatInvalid, sec := 10, index := i.relocs.length }

/-- Stream entries of the chains of Sled channels and fills, and of the chains of staging movers (R160). -/
def chainIdx (i : Image) (first : Nat) : List Nat := (upto (chainFrom i.streams first).length).map (· + first)
def overridesOf (i : Image) (feeder : Nat) : List Nat :=
  (i.variants.filter fun v => decide (v.kind = 4)).flatMap fun v =>
    ((upto 4).filter fun c => decide (v.overrides.getD c 0 ≠ 0 ∧ (chanEnt i v.seg c).feeder = feeder)).map fun c => v.overrides.getD c 0 - 1
def shardChains (i : Image) : List Nat :=
  ((i.chans.filter fun c => decide (c.feeder = 1)).map (·.stream)) ++ overridesOf i 1 ++
    ((i.relocs.filter fun r => decide (r.fill ≠ 0)).map fun r => r.fill - 1)
def moverChains (i : Image) : List Nat := ((i.chans.filter fun c => decide (c.feeder = 3)).map (·.stream)) ++ overridesOf i 3

/-- Check 18. -/
def streamFail (b : Bytes) (i : Image) : Option LdrFail :=
  let byShard := (shardChains i).flatMap (chainIdx i)
  let byMover := (moverChains i).flatMap (chainIdx i)
  let starts := shardChains i ++ moverChains i
  entryChecks b 18 12 fun k e =>
    let s := streamEntOf e
    let len := if s.kind = 0 then (i.shards.getD s.source {}).length else (i.relocs.getD s.source {}).bytes
    let bk := (i.relocs.getD s.source {}).kind
    [ fmtTest 0 (decide (fieldAt e 0 1 < 4) && (decide (s.kind = 0) || decide (k ∉ byShard)) && (decide (s.kind = 1) || decide (k ∉ byMover))),
      lenTest 0 (s.last || decide (k + 1 < i.streams.length) || decide (k ∉ byShard ++ byMover ++ starts)),
      fmtTest 1 (zeroAt e 1 3),
      lenTest 4 (decide (s.source < if s.kind = 0 then i.shards.length else i.relocs.length)),
      fmtTest 4 (decide (s.kind = 0 ∨ bk = 2 ∨ bk = 5)),
      lenTest 12 (decide (1 ≤ s.units) && !allOnes 4 s.units && decide (32 * (s.offset + s.units) ≤ len)) ]

/-- Check 19. DESIGN CHOICE: an empty range whose first index or address lies beyond its section or local SRAM is refused like one that is
not empty (R169; log entry 44). -/
def segFail (b : Bytes) (i : Image) : Option LdrFail :=
  entryChecks b 19 1 fun _ e =>
    let d := segOf e
    [ lenTest 0 (decide (d.wordFirst < i.words.length)),
      lenTest 4 (decide (1 ≤ d.wordCount ∧ d.wordFirst + d.wordCount ≤ i.words.length) && !allOnes 4 d.wordCount),
      alnTest 8 (decide (d.constFirst % 32 = 0)),
      alnTest 12 (decide (d.constBytes % 32 = 0)),
      lenTest 12 (!allOnes 4 d.constBytes && decide (d.constFirst + d.constBytes ≤ i.consts.length)),
      alnTest 16 (decide (d.constLaddr % 2 = 0)),
      lenTest 16 (decide (d.constLaddr + d.constBytes / 32 ≤ 0xC000)),
      lenTest 18 (decide (d.chanFirst + d.chanCount ≤ i.chans.length)),
      lenTest 20 (decide (d.chanCount ≤ 4)),
      fmtTest 20 (decide (fieldAt e 20 1 < 8)), fmtTest 21 (decide (fieldAt e 21 1 < 4)), fmtTest 22 (zeroAt e 22 10) ]

/-- The segments whose channel table holds an entry. -/
def segsOfChan (i : Image) (k : Nat) : List Nat :=
  (upto i.segs.length).filter fun s => let d := i.segs.getD s {}; decide (d.chanFirst ≤ k ∧ k < d.chanFirst + d.chanCount)

/-- Check 20. -/
def chanFail (b : Bytes) (i : Image) : Option LdrFail :=
  entryChecks b 20 4 fun k e =>
    let c := chanOf e
    let rivals (f : SegDir → List ChanEnt → Bool) : Bool := (segsOfChan i k).all fun s =>
      let d := i.segs.getD s {}
      f d (((i.chans.zip (upto i.chans.length)).filter fun x => decide (d.chanFirst ≤ x.2 ∧ x.2 < d.chanFirst + d.chanCount ∧ x.2 ≠ k)).map Prod.fst)
    let earlier := (segsOfChan i k).all fun s =>
      let d := i.segs.getD s {}
      ((i.chans.drop d.chanFirst).take (k - d.chanFirst)).all fun x => decide (x.chan ≠ c.chan)
    [ lenTest 0 (decide (c.base < 0xC000)),
      lenTest 2 (inRange c.size 64 0xC000 && decide (c.base + c.size ≤ 0xC000)),
      lenTest 2 (rivals fun d cs => (cs.all fun x => !overlaps c.base c.size x.base x.size) &&
        !overlaps c.base c.size d.constLaddr (d.constBytes / 32)),
      fmtTest 4 (earlier && decide (c.feeder ≠ 0) && decide (fieldAt e 4 1 < 16)),
      fmtTest 5 (zeroAt e 5 3),
      lenTest 8 (if c.feeder = 2 then decide (c.units = 0) else !allOnes 4 c.units && decide (c.units ≠ 0 ∧ c.units = chainLen i c.stream)),
      lenTest 12 (if c.feeder = 2 then decide (c.stream = 0) else decide (c.stream < i.streams.length)) ]

/-- Check 21, barriers and then stagger. -/
def barrierFail (b : Bytes) (i : Image) : Option LdrFail :=
  match entryChecks b 21 5 fun _ e =>
    let x := barrierOf e
    [ lenTest 0 (decide (x.members ≠ 0 ∧ x.members < 2 ^ i.segs.length)), fmtTest 32 (decide (fieldAt e 32 1 < 2)), fmtTest 33 (zeroAt e 33 15) ] with
  | some x => some x
  | none => entryChecks b 21 8 fun _ e => [lenTest 0 (decide (fieldAt e 0 1 ≤ 128)), fmtTest 1 (zeroAt e 1 3)]

/-- K1 and N2 of every FUSE2 word that consumes an entry's streams, in its segment and in the segment's RUN entries (R315). -/
def bandDims (i : Image) (a : AttEnt) : List (Nat × Nat) :=
  dimsOf i a 0 (segWords i a.seg) ++
    (i.variants.filter fun v => decide (v.kind = 4 ∧ v.seg = a.seg)).flatMap fun v => (upto (turnsOf i v.seg v.layer)).flatMap fun k =>
      let prior := beforeRun i v.seg v.layer k
      dimsOf i a (gatherOf i a.seg a.bChan prior).length (prior ++ (i.words.drop v.first).take v.count)

/-- Check 22 (Table 5-12, R315). -/
def attFail (b : Bytes) (i : Image) : Option LdrFail :=
  entryChecks b 22 13 fun k e =>
    let a := attOf e
    let gather (c : Nat) : Bool := (chanEnt i a.seg c).feeder = 2 && decide (c ∈ ((i.chans.drop (i.segs.getD a.seg {}).chanFirst).take (i.segs.getD a.seg {}).chanCount).map (·.chan))
    let mates := (i.att.take k).filter fun x => decide (x.layer = a.layer ∧ x.headFirst = a.headFirst ∧ x.headCount = a.headCount)
    [ lenTest 0 (decide (a.layer < i.layers)),
      lenTest 4 (decide (1 ≤ a.headCount) && !allOnes 2 a.headCount),
      lenTest 8 (decide (1 ≤ a.slotCount ∧ a.slotFirst + a.slotCount ≤ i.batchSlots) && !allOnes 2 a.slotCount),
      lenTest 10 (decide (a.seg < i.segs.length)),
      fmtTest 10 (mates.all fun x => decide ((i.segs.getD x.seg {}).affinity = (i.segs.getD a.seg {}).affinity)),
      fmtTest 10 (decide (((a :: mates).flatMap (bandDims i)).eraseDups.length ≤ 1)),
      fmtTest 11 (gather a.bChan && gather a.dChan && decide (fieldAt e 11 1 < 16)),
      fmtTest 12 (zeroAt e 12 4) ]

end Sys2Proof.Machine
end

