-- ==== Sys2Proof/Machine/WordChecks.lean ====
section
/-! DEFINITION. The loader's check 23: every word, parameter block and channel table of an image (Table 4-16; R117, R119, R129,
R142 to R147, R149, R165, R318). -/

namespace Sys2Proof.Machine

/-! ### What a word touches -/

/-- Local units that a range covers. -/
structure Span where
  at_ : Nat
  first : Nat
  units : Nat
deriving DecidableEq, Repr

/-- An operand's feeder is one of those given, or it comes from local SRAM. -/
def fedBy (i : Image) (seg : Nat) (o : OpdSpec) (fs : List Nat) : Bool :=
  match o.chan with
  | some c => decide (feederOf i seg c ∈ fs)
  | none => true

/-- An operand comes from a gather channel. -/
def fromGather (i : Image) (seg : Nat) (o : OpdSpec) : Bool :=
  match o.chan with
  | some c => decide (feederOf i seg c = 2)
  | none => false

/-- Local units that a word reads. -/
def readSpans (i : Image) (x : WordAt) : List Span :=
  let w := x.w
  let ops := (opdsOf i x.seg w).filter fun o => o.1.chan.isNone
  let spans := ops.map fun o => ({ at_ := 8, first := o.1.addr, units := tensorBytes o.2.1 o.2.2 o.1.fmt o.1.sch / 32 } : Span)
  spans ++ (if wOp w = 2 then [{ at_ := 12, first := wbits w 12 15 0, units := 2 }] else []) ++
    (if wOp w = 7 ∧ wbit w 0 4 then [{ at_ := 8, first := wbits w 8 15 0, units := 1 }] else [])

/-- Local units that a word writes. -/
def writeSpans (i : Image) (x : WordAt) : List Span :=
  match localWrite i x with
  | some (lo, hi) => [{ at_ := if wOp x.w = 6 then 4 else 8, first := lo, units := hi - lo }]
  | none => []

/-- The channel rings of a segment. -/
def ringsOf (i : Image) (seg : Nat) : List (Nat × Nat) :=
  let d := i.segs.getD seg {}
  ((i.chans.drop d.chanFirst).take d.chanCount).map fun c => (c.base, c.size)

/-- A span overlaps none of the ranges. -/
def clearOf (s : Span) (rs : List (Nat × Nat)) : Bool := rs.all fun r => !overlaps s.first s.units r.1 r.2

/-- The constant data of a segment in local SRAM. -/
def constSpan (i : Image) (seg : Nat) : Nat × Nat := let d := i.segs.getD seg {}; (d.constLaddr, d.constBytes / 32)

/-- The buffers that a word reads, itself or through a staging mover. -/
def bufsRead (i : Image) (x : WordAt) : List Nat :=
  if (wOp x.w = 4 ∨ wOp x.w = 5) ∧ wbit x.w 0 4 then [wbits x.w 0 19 8] else (upto 4).flatMap (moverRead i x)

/-! ### The rows of Table 4-16, in order -/

/-- Bits of each four-byte row that an operation defines (Tables 4-4 to 4-12). -/
def wordMask (op : Nat) : List Nat :=
  match op with
  | 1 => [0x0FFFFFFF, 0x0FFFFFFF, 0x007FFFFF, 0xFFFFFFFF]
  | 2 => [0x00FFFFFF, 0x001FFFFF, 0x001FFFFF, 0xFFFFFFFF]
  | 3 => [0x0FFFFF3F, 0x0000FF7F, 0xFFFFFFFF, 0xFFFFFFFF]
  | 4 => [0x000FFF7F, 0xFFFFFFFF, 0x0000FFFF, 0x000FFFFF]
  | 5 => [0x000FFF7F, 0xFFFFFFFF, 0x0000FFFF, 0x000FFFFF]
  | 6 => [0x00FFFF7F, 0x0FFFFFFF, 0xFFFFFFFF, 0xFFFF0000]
  | 7 => [0x7FFF7F1F, 0x000000FF, 0x0000FFFF, 0]
  | 8 => [0xFFFFFF7F, 0, 0, 0]
  | 9 => [0xFFFF000F, 0, 0, 0]
  | _ => [0, 0, 0, 0]

/-- Row 1: reserved codes and fields. -/
def rowReserved (i : Image) (x : WordAt) : List Test :=
  let w := x.w
  let op := wOp w
  let b := paramBlock i x.seg w
  let masks := (upto 4).map fun k =>
    fmtTest (4 * k) (decide ((wbits w (4 * k) 31 0) &&& (0xFFFFFFFF ^^^ (wordMask op).getD k 0) = 0))
  [fmtTest 0 (decide (1 ≤ op ∧ op ≤ 9))] ++ masks ++
    (if op = 2 then
      [fmtTest 0 (decide (wbits w 0 7 5 < 5)), fmtTest 12 (decide (fieldAt b 11 1 < 2) && zeroAt b 13 3 && zeroAt b 32 32)]
    else if op = 3 then
      [fmtTest 0 (decide (wbits w 0 26 24 < 5)),
        fmtTest 0 (decide (wbits w 0 26 24 = 3 ∨ (wbit w 0 4 = wbit w 0 5 ∧ wbits w 4 6 0 = 0)))]
    else if op = 7 then
      [fmtTest 0 (!wbit w 0 4 || decide (wbits w 0 14 8 = 0 ∧ wbits w 0 23 16 = 0 ∧ wbits w 0 30 24 = 0 ∧ wbits w 4 7 0 = 0))]
    else if op = 8 then
      [fmtTest 0 (decide (syncKind w < 6)), fmtTest 1 (decide (syncBar w = 0 ∨ (syncKind w ≠ 0 ∧ syncKind w ≠ 5))),
        fmtTest 2 (decide (syncLayer w = 0 ∨ syncKind w = 4))]
    else [])

/-- An operand leaves the field it does not use at zero (R117). -/
def spareZero (o : OpdSpec) (chan : Nat) : Bool := match o.chan with | some _ => decide (o.addr = 0) | none => decide (chan = 0)

/-- Row 2: fields that R117 requires to be zero. DESIGN CHOICE: OFFSET of a STORE to local SRAM counts among its buffer fields (log
entry 44). -/
def rowSpare (i : Image) (x : WordAt) : List Test :=
  let w := x.w
  if wOp w = 1 then [fmtTest 0 (spareZero (mmaA w) (wbits w 0 25 24) && spareZero (mmaB w) (wbits w 0 27 26))]
  else if wOp w = 2 then
    let b := paramBlock i x.seg w
    [fmtTest 12 ((upto 3).all fun k => spareZero (fuseOpd b k) (bitsOf (fieldAt b 9 1) (2 * k + 1) (2 * k)))]
  else if wOp w = 6 then
    [fmtTest 4 (if wbit w 0 4 then decide (wbits w 4 15 0 = 0) else decide (wbits w 4 27 16 = 0 ∧ wbits w 8 31 0 = 0))]
  else []

/-- Row 3: tile sizes, reductions and counts. -/
def rowSizes (x : WordAt) : List Test :=
  let w := x.w
  let m := lenTest 1 (inRange (wM w) 1 128)
  let n := lenTest 2 (inRange (wN w) 1 128)
  if wOp w = 1 then [m, n, lenTest 4 (inRange (wbits w 4 20 0) 1 1048575)]
  else if wOp w = 2 then [m, n, lenTest 8 (inRange (wbits w 8 20 0) 1 1048575)]
  else if wOp w = 3 then [m, n]
  else if wOp w = 4 ∨ wOp w = 5 then [lenTest 12 (inRange (wbits w 12 19 0) 1 49152)]
  else if wOp w = 6 then [m, if wbit w 0 6 then lenTest 2 (decide (wN w = 0)) else n]
  else []

/-- Row 4: N1, even columns and mask ranges. -/
def rowColumns (i : Image) (x : WordAt) : List Test :=
  let w := x.w
  if wOp w = 2 then
    let b := paramBlock i x.seg w
    let n1 := wbits w 4 20 0
    let fn := wbits w 0 7 5
    [lenTest 4 (decide (n1 ≠ 0) || fromGather i x.seg (fuseOpd b 1)), lenTest 4 (decide (fn = 2) || inRange n1 1 128),
      lenTest 4 (decide (fn ≠ 3 ∨ n1 % 2 = 0)), lenTest 4 (decide (n1 ≠ 0x1FFFFF))]
  else if wOp w = 3 then
    [lenTest 2 (decide (wbits w 0 26 24 ≠ 3 ∨ wN w % 2 = 0)),
      lenTest 4 (decide (wbits w 0 26 24 ≠ 3 ∨ wbits w 4 6 0 + wN w / 2 ≤ 128))]
  else if wOp w = 7 then
    [lenTest 1 (decide (wbits w 0 14 8 + wbits w 0 23 16 ≤ 128)), lenTest 3 (decide (wbits w 0 30 24 + wbits w 4 7 0 ≤ 128))]
  else []

/-- Row 5: local extents. -/
def rowLocal (i : Image) (x : WordAt) : List Test :=
  let rings := ringsOf i x.seg
  (readSpans i x).map (fun s => lenTest s.at_ (decide (s.first + s.units ≤ 0xC000) && clearOf s rings)) ++
    (writeSpans i x).map fun s =>
      lenTest s.at_ (decide (s.first + s.units ≤ 0xC000) && clearOf s rings && clearOf s [constSpan i x.seg])

/-- Row 7: buffer extents. -/
def rowBuffers (i : Image) (x : WordAt) : List Test :=
  let w := x.w
  if (wOp w = 4 ∨ wOp w = 5) ∧ wbit w 0 4 then
    [lenTest 1 (decide (wbits w 0 19 8 < i.relocs.length)),
      lenTest 4 (decide (32 * (wbits w 4 31 0 + wbits w 12 19 0) ≤ (i.relocs.getD (wbits w 0 19 8) {}).bytes))]
  else if wOp w = 6 ∧ wbit w 0 4 then
    [lenTest 6 (decide (wbits w 4 27 16 < i.relocs.length)),
      lenTest 8 (decide (32 * wbits w 8 31 0 + storeBytes i x ≤ (i.relocs.getD (wbits w 4 27 16) {}).bytes))]
  else []

/-- A format and scheme allowed in a role (Table 3-7). -/
def pairOk (role : Nat) (o : OpdSpec) : Bool := decide (o.sch ∈ schemesOf role o.fmt)

/-- The scheme that a KV format carries (R145). -/
def kvScheme (f : Nat) : Nat := if f = 7 then 2 else 0

/-- Rows 8 and 9: formats in their roles, and as the layer record and the pen's KV formats give them. A layer beyond its table has no record
to differ from: row 14 refuses it. -/
def rowFormats (i : Image) (x : WordAt) : List Test :=
  let w := x.w
  let r := recAt i x (wLayer w)
  let noRec := decide (i.layers ≤ wLayer w)
  let aRec (o : OpdSpec) : Bool := noRec || decide (o.fmt = r.aFmt ∧ o.sch = r.aSch)
  let wRec (o : OpdSpec) : Bool := noRec || decide (o.fmt = r.wFmt ∧ o.sch = r.wSch)
  let kv (o : OpdSpec) (f : Nat) : Bool := if fromGather i x.seg o then decide (o.fmt = f ∧ o.sch = kvScheme f) else wRec o
  if wOp w = 1 then
    [fmtTest 4 (pairOk 1 (mmaA w)), fmtTest 8 (pairOk 0 (mmaB w)), fmtTest 4 (aRec (mmaA w)), fmtTest 8 (wRec (mmaB w))]
  else if wOp w = 2 then
    let b := paramBlock i x.seg w
    [fmtTest 12 (pairOk 1 (fuseOpd b 0) && pairOk 0 (fuseOpd b 1) && pairOk 0 (fuseOpd b 2)),
      fmtTest 12 (aRec (fuseOpd b 0) && kv (fuseOpd b 1) i.kvK && kv (fuseOpd b 2) i.kvV)]
  else []

/-- Row 10: sources and destinations of a kind the word may use (R113, R123, R156, R318). DESIGN CHOICE: a STORE of row state to the
KV buffer is refused, since R318 gives no row of the append window that a row's state could fill (log entry 42). -/
def rowSources (i : Image) (x : WordAt) : List Test :=
  let w := x.w
  let kind (b : Nat) : Nat := (i.relocs.getD b {}).kind
  if wOp w = 1 then [fmtTest 0 (fedBy i x.seg (mmaA w) [3] && fedBy i x.seg (mmaB w) [1])]
  else if wOp w = 2 then
    let b := paramBlock i x.seg w
    [fmtTest 12 (fedBy i x.seg (fuseOpd b 0) [3] && fedBy i x.seg (fuseOpd b 1) [1, 2] && fedBy i x.seg (fuseOpd b 2) [1, 2])]
  else if wOp w = 4 then
    [fmtTest 0 (if wbit w 0 4 then decide (kind (wbits w 0 19 8) = 1) else decide (feederOf i x.seg (wbits w 0 6 5) = 1))]
  else if wOp w = 5 then
    [fmtTest 0 (if wbit w 0 4 then decide (kind (wbits w 0 19 8) = 2 ∨ kind (wbits w 0 19 8) = 5)
      else decide (feederOf i x.seg (wbits w 0 6 5) = 3))]
  else if wOp w = 6 ∧ wbit w 0 4 then
    let k := kind (wbits w 4 27 16)
    let r := recAt i x (wLayer w)
    [fmtTest 6 (decide (k ≠ 1)), fmtTest 6 (decide (k ≠ 3) || (!wbit w 0 6 && decide (i.layers ≤ wLayer w ∨ (r.oFmt = 0 ∨ r.oFmt = 2) ∧ r.oSch = 0)))]
  else []

/-- Row 11: parameters of row functions. DESIGN CHOICE: an ISCALE outside -64 to +63 is refused here with FORMAT_INVALID, since Table 4-16
names no row for it (log entry 44). -/
def rowParams (i : Image) (x : WordAt) : List Test :=
  let w := x.w
  let scaleOk (v : Nat) : Bool := isFinite (BitVec.ofNat 32 v) && decide (v % 2 ^ 31 ≠ 0)
  let qposOk (causal : Bool) (q : Nat) : Bool := if causal then inRange q 1 128 else decide (q = 0)
  if wOp w = 2 then
    let b := paramBlock i x.seg w
    let fn := wbits w 0 7 5
    let causal := bitOf (fieldAt b 11 1) 0
    let n1 := wbits w 4 20 0
    let is := signed8 (fieldAt b 10 1)
    [fmtTest 12 ((!bitOf (fieldAt b 9 1) 7 || decide (fn = 2)) && (!causal || decide (fn = 1 ∨ fn = 2)) &&
      qposOk causal (fieldAt b 12 1) && scaleOk (fieldAt b 16 4) &&
      decide ((fieldAt b 20 4 = 0 ∨ ((fuseOpd b 1).sch = 2 ∧ n1 ≠ 0)) ∧ (fieldAt b 24 4 = 0 ∨ ((fuseOpd b 2).sch = 2 ∧ n1 ≠ 0)) ∧
        -64 ≤ is ∧ is ≤ 63))]
  else if wOp w = 3 then
    let fn := wbits w 0 26 24
    [fmtTest 3 (!wbit w 0 27 || decide (fn = 1 ∨ fn = 2)), fmtTest 5 (qposOk (wbit w 0 27) (wbits w 4 15 8)),
      fmtTest 8 (scaleOk (wbits w 8 31 0))]
  else []

/-- The word writes a plane with ACC = 0. -/
def restarts (pl : Bool) (w : Nat) : Bool :=
  !wbit w 0 4 && ((decide (wOp w = 1) && decide (wbit w 0 5 = pl)) || (decide (wOp w = 2) && !pl))

/-- Rows 12 and 13: SCORE, and continued planes (R119, R129, R142). -/
def rowChains (i : Image) (x : WordAt) : List Test :=
  let w := x.w
  if wOp w = 9 then
    [fmtTest 0 (decide (wOp x.next = 2 ∧ wbits x.next 0 7 5 = 2 ∧ wLayer x.next = wbits w 0 31 16) && !x.last &&
      fromGather i x.seg (fuseOpd (paramBlock i x.seg x.next) 1))]
  else if (wOp w = 1 ∨ wOp w = 2) ∧ wbit w 0 4 then
    let pl := decide (wOp w = 1) && wbit w 0 5
    let first := x.run.reverse.find? (restarts pl)
    let prev := x.run.reverse.find? fun y => decide (wOp y = 2)
    [fmtTest 0 (match first with | some y => decide (wLayer y = wLayer w) | none => false),
      fmtTest 0 (decide (wOp w = 1 ∨ wbits w 0 7 5 ≠ 2) || (match prev with
        | some y => !bitOf (fieldAt (paramBlock i x.seg y) 9 1) 7
        | none => false))]
  else []

/-- A run of a layer that writes a buffer: the layer, the run's number among its segment's runs of the layer, and its gate barrier. -/
structure WriterRun where
  layer : Nat
  turn : Nat
  gate : Nat
deriving DecidableEq, Repr

/-- The layer runs of a program that write a buffer: those whose LAYER_END is among its words. -/
def writersIn (b : Nat) (xs : List WordAt) : List WriterRun :=
  (xs.filter fun x => decide (wOp x.w = 8 ∧ syncKind x.w = 4)).filterMap fun e =>
    if xs.any fun x => decide (x.layer = e.layer ∧ x.turn = e.turn ∧ wOp x.w = 6 ∧ wbits x.w 4 27 16 = b) && wbit x.w 0 4 then
      some { layer := syncLayer e.w, turn := e.turn, gate := syncBar e.w }
    else none

/-- The layer runs of an image that write a buffer, those of RUN entries among them. The run of a WIDE entry is the run that it replaces;
that of a spill round is a run of its own (R95, R163). -/
def writersOf (i : Image) (b : Nat) : List WriterRun := ((progsOf i).flatMap (writersIn b)).eraseDups

/-- The gate barriers that a word must have waited on before it reads a buffer: those of every other layer run that writes it
(R147). Runs of one layer with one number in different segments are one run, since its gate gathers them all (R146). DESIGN CHOICE: a run
that writes the buffer only after the read counts too, since R147 does not say which write is meant where a buffer is written again
(log entry 43). -/
def gatesOf (i : Image) (x : WordAt) (b : Nat) : List Nat :=
  (((writersOf i b).filter fun r => decide (some r.layer ≠ x.layer ∨ r.turn ≠ x.turn)).map (·.gate)).eraseDups

/-- A wait on a barrier stands before the word in its segment (R147). -/
def waitsBefore (x : WordAt) (bar : Nat) : Bool :=
  x.before.any fun w => decide (wOp w = 8 ∧ (syncKind w = 1 ∨ syncKind w = 3) ∧ syncBar w = bar)

/-- Row 14: barriers, layers, the ends of runs and segments, and reads that wait (R146, R147). DESIGN CHOICE: a LAYER_END whose barrier is no
gate is refused with FORMAT_INVALID, since R146 has it arrive at the layer's gate barrier and Table 4-16 names no row for it (log entry 44). -/
def rowSync (i : Image) (isRun : Bool) (x : WordAt) : List Test :=
  let w := x.w
  let op := wOp w
  let hasLayer := decide (op = 1 ∨ op = 2 ∨ op = 6)
  let layers := (x.run.filter fun y => decide (wOp y = 1 ∨ wOp y = 2 ∨ wOp y = 6)).map wLayer
  let gates := (bufsRead i x).flatMap (gatesOf i x)
  [ lenTest 1 (decide (op ≠ 8 ∨ syncKind w = 0 ∨ syncKind w = 5 ∨ syncBar w < i.barriers.length)),
    lenTest 2 (decide (op ≠ 8 ∨ syncKind w ≠ 4 ∨ syncLayer w < i.layers)),
    lenTest 2 (decide (op ≠ 9 ∨ wbits w 0 31 16 < i.layers)),
    lenTest 14 (!hasLayer || decide (wLayer w < i.layers)),
    fmtTest 1 (decide (op ≠ 8 ∨ syncKind w ≠ 4) || (i.barriers.getD (syncBar w) {}).gate),
    fmtTest 2 (decide (op ≠ 8 ∨ syncKind w ≠ 4) || layers.all fun l => decide (l = syncLayer w)),
    fmtTest 0 (isRun || !x.last || decide (op = 8 ∧ syncKind w = 5)),
    fmtTest 0 (gates.all (waitsBefore x)) ]

/-- Every test of a word, in the order of Table 4-16 (R169). -/
def wordTests (i : Image) (isRun : Bool) (x : WordAt) : List Test :=
  rowReserved i x ++ rowSpare i x ++ rowSizes x ++ rowColumns i x ++ rowLocal i x ++
    [alnTest 12 (decide (wOp x.w ≠ 2 ∨ wbits x.w 12 15 0 % 2 = 0))] ++ rowBuffers i x ++ rowFormats i x ++ rowSources i x ++
    rowParams i x ++ rowChains i x ++ rowSync i isRun x

/-! ### The check -/

/-- The words of a program, one after the other. -/
def progFail (b : Bytes) (i : Image) (isRun : Bool) (xs : List WordAt) : Option LdrFail :=
  xs.findSome? fun x => runTests 23 2 x.idx (secOff b 2 + 16 * x.idx) (wordTests i isRun x)

/-- Row 15: bytes consumed per step, for each channel of a segment that a gather engine does not feed. -/
def unitsFail (b : Bytes) (i : Image) (seg : Nat) (xs : List WordAt) : Option LdrFail :=
  let d := i.segs.getD seg {}
  ((upto d.chanCount).map (· + d.chanFirst)).findSome? fun k =>
    let c := i.chans.getD k {}
    runTests 23 4 k (secOff b 4 + 16 * k)
      [lenTest 8 (decide (c.feeder = 2) || decide (unitsIn i seg c.chan (xs.map (·.w)) = c.units))]

/-- The gather FUSE2 words of a segment and channel are as many as its streams (R165). -/
def gatherFail (b : Bytes) (i : Image) (seg : Nat) : Option LdrFail :=
  let d := i.segs.getD seg {}
  let ok := (upto 4).all fun c =>
    decide (feederOf i seg c ≠ 2) || decide ((gatherWords i seg c).length =
      sumL ((i.att.filter fun e => decide (e.seg = seg ∧ e.bChan = c)).map fun e => e.slotCount * e.headCount))
  runTests 23 2 d.wordFirst (secOff b 2 + 16 * d.wordFirst) [lenTest 0 ok]

/-- The words of a RUN entry in order, each in every place where it stands. -/
def runFail (b : Bytes) (i : Image) (k : Nat) (v : Variant) : Option LdrFail :=
  let ps := runProgs i k v
  (upto v.count).findSome? fun j => progFail b i true (ps.flatMap fun p => (p.drop j).take 1)

/-- Check 23: segments in order, and then RUN entries in order. -/
def wordsFail (b : Bytes) (i : Image) : Option LdrFail :=
  let seg (s : Nat) : Option LdrFail :=
    let xs := segProg i s
    match progFail b i false xs with
    | some f => some f
    | none => match unitsFail b i s xs with
      | some f => some f
      | none => gatherFail b i s
  match (upto i.segs.length).findSome? seg with
  | some f => some f
  | none => (runEntries i).findSome? fun v => runFail b i v.2 v.1

end Sys2Proof.Machine
end

