-- ==== Sys2Proof/Machine/RouteChecks.lean ====
section
/-! DEFINITION. The loader's check 24: the ROUTING section (Tables 6-5 to 6-7; R190, R195, R202, R208, R209, R218, R219). -/

namespace Sys2Proof.Machine

/-- P: the largest position count of a half (R195). -/
def halfPositions (i : Image) : Nat := ceilDiv i.batchSlots 2 * i.positions

/-- The routing entries as bytes, with their numbers. -/
def routeEnts (b : Bytes) : List (Bytes × Nat) := ((entsOf b 14).drop 1).zip ((upto (secCount b 14 - 1)).map (· + 1))

/-- One item of Table 6-7 on the header. -/
def headItem (b : Bytes) (ts : List Test) : Option LdrFail := runTests 24 14 0 (secOff b 14) ts

/-- One item of Table 6-7 on every entry in order. -/
def entItem (b : Bytes) (f : RouteEnt → Bytes → Nat → List Test) : Option LdrFail :=
  (routeEnts b).findSome? fun e => runTests 24 14 e.2 (secOff b 14 + 32 * e.2) (f (routeOf e.1) e.1 e.2)

/-- Bytes of a receive region's tiles and tags for one expert slot set (Table 6-4). -/
def regionBytes (r : Routing) (cap : Nat) : Nat := r.epm * (cap / 128 * (r.hiddenPanels * 32768) + 8 * cap)

/-- The required size of a routed buffer holds (Table 6-7, Sizes). -/
def sizeTests (i : Image) (r : Routing) (e : RouteEnt) : List Test :=
  let p := halfPositions i
  let bytes (k : Nat) : Nat := (i.relocs.getD k {}).bytes
  [ lenTest 8 (decide (bytes e.scoreBuf = 2 * ceilDiv p 128 * ceilDiv r.experts 128 * 65536)),
    lenTest 10 (decide (2 * p * 256 ≤ bytes e.selectBuf)),
    lenTest 12 (decide (4 * regionBytes r i.recvCapacity ≤ bytes e.recvBuf)),
    lenTest 14 (decide (2 * ceilDiv (p * r.topK) 128 * r.hiddenPanels * 65536 ≤ bytes e.combBuf)),
    lenTest 16 (decide (2 * ceilDiv p 128 * r.hiddenPanels * 128 * segBytes e.outFmt ≤ bytes e.outBuf)) ]

/-- Every word of the image's segments and RUN entries as it is checked. -/
def allWords (i : Image) : List WordAt := (progsOf i).flatten

/-- Segments that run a layer. -/
def segsOfLayer (i : Image) (layer : Nat) : List Nat := (upto i.segs.length).filter fun s => hasRun i s layer

/-- Reads that no word may make, or that need a wait on COMB_GATE (Table 6-7, Words). -/
def routedReadFail (b : Bytes) (i : Image) (r : Routing) : Option LdrFail :=
  (allWords i).findSome? fun x =>
    let bs := bufsRead i x
    let bad := r.entries.any fun e => decide (e.selectBuf ∈ bs ∨ e.combBuf ∈ bs) ||
      (decide (e.outBuf ∈ bs) && !waitsBefore x e.combGate)
    runTests 24 2 x.idx (secOff b 2 + 16 * x.idx) [fmtTest 0 (!bad)]

/-- The first failure of a list of checks. -/
def firstFailOf (l : List (Option LdrFail)) : Option LdrFail := l.findSome? id

/-- Every STORE word of the router's layer writes to SCORE_BUF (R190). -/
def scoresOnly (i : Image) (e : RouteEnt) : Bool :=
  (allWords i).all fun x =>
    decide (wOp x.w ≠ 6 ∨ wLayer x.w ≠ e.routerLayer) || (wbit x.w 0 4 && decide (wbits x.w 4 27 16 = e.scoreBuf))

/-- Check 24, in the order of Table 6-7. -/
def routeFail (b : Bytes) (i : Image) : Option LdrFail :=
  match i.routing with
  | none => none
  | some r =>
    let h := entAt b 14 0
    let nb := i.relocs.length
    let kind (k : Nat) : Nat := (i.relocs.getD k {}).kind
    let tc := i.recvCapacity / 128
    let rec_ (l : Nat) : LRec := i.recs.getD l {}
    firstFailOf
      [ headItem b
          [lenTest 0 (inRange r.experts 2 4032), lenTest 0 (decide (r.experts = r.epm * i.groupSize)),
            lenTest 0 (decide (2 ≤ secCount b 14)), lenTest 2 (inRange r.topK 1 32 && decide (r.topK ≤ r.experts)),
            lenTest 6 (inRange r.hiddenPanels 1 8192), lenTest 0 (decide (halfPositions i ≤ 65534))],
        headItem b
          [fmtTest 2 (decide (fieldAt h 2 1 < 64)), fmtTest 3 (decide (fieldAt h 3 1 < 2)),
            fmtTest 8 (decide (fieldAt h 8 2 < 4096)), fmtTest 10 (zeroAt h 10 22)],
        headItem b [lenTest 0 (decide (i.recvCapacity % 128 = 0))],
        entItem b fun e _ k =>
          [lenTest 0 (decide (e.routerLayer < i.layers) &&
              decide (k ≤ 1 ∨ (r.entries.getD (k - 2) {}).routerLayer < e.routerLayer)),
            lenTest 2 (decide (e.dispatchLayer < i.layers)), lenTest 4 (decide (e.expertLayer < i.layers)),
            lenTest 6 (decide (e.combineLayer < i.layers))],
        entItem b fun e x _ =>
          let d := rec_ e.dispatchLayer
          let c := rec_ e.combineLayer
          let t := rec_ e.expertLayer
          let s := rec_ e.routerLayer
          [fmtTest 0 (s.sensitive && decide (s.oFmt = 2 ∧ s.oSch = 0) && scoresOnly i e),
            fmtTest 2 (decide ((d.oFmt = 3 ∧ (d.oSch = 3 ∨ d.oSch = 0)) ∨ (d.oFmt = 0 ∧ d.oSch = 0)) &&
              decide (t.aFmt = d.oFmt ∧ t.aSch = d.oSch)),
            fmtTest 6 (decide ((c.oFmt = 0 ∨ c.oFmt = 2) ∧ c.oSch = 0)),
            fmtTest 8 ((upto 6).all fun k => decide (fieldAt x (8 + 2 * k) 2 < 4096)),
            fmtTest 24 (decide (fieldAt x 24 1 = 0 ∨ fieldAt x 24 1 = 2)), fmtTest 25 (zeroAt x 25 1 && zeroAt x 28 4)],
        headItem b [lenTest 8 (decide (r.boardBuf < nb))],
        entItem b fun e _ _ =>
          ([e.scoreBuf, e.selectBuf, e.recvBuf, e.combBuf, e.outBuf, e.dispBuf].zip (upto 6)).map fun y =>
            lenTest (8 + 2 * y.2) (decide (y.1 < nb)),
        headItem b [fmtTest 8 (decide ((i.relocs.getD r.boardBuf {}).cls = 1))],
        entItem b fun e _ _ =>
          ([(e.scoreBuf, 5), (e.selectBuf, 5), (e.recvBuf, 5), (e.combBuf, 5), (e.outBuf, 2), (e.dispBuf, 2)].zip (upto 6)).map
            fun y => fmtTest (8 + 2 * y.2) (decide (kind y.1.1 = y.1.2)),
        headItem b [lenTest 8 (decide (2 * i.groupSize * 8192 ≤ (i.relocs.getD r.boardBuf {}).bytes))],
        entItem b fun e _ _ => sizeTests i r e,
        entItem b fun e _ _ =>
          [lenTest 20 (decide (e.recvGate < i.barriers.length)), lenTest 21 (decide (e.combGate < i.barriers.length))],
        entItem b fun e _ _ =>
          let readers := ((allWords i).filter fun x => decide (e.recvBuf ∈ bufsRead i x)).map (·.seg)
          [fmtTest 20 (readers.all fun s => bitOf (i.barriers.getD e.recvGate {}).members s)],
        entItem b fun e _ _ => [lenTest 22 (decide (e.spillIndex < i.variants.length))],
        entItem b fun e _ _ =>
          let v := i.variants.getD e.spillIndex {}
          [fmtTest 22 (decide (v.kind = 2 ∧ v.layer = e.expertLayer))],
        entItem b fun e _ _ => [alnTest 26 (decide (e.maskLaddr % 2 = 0))],
        entItem b fun e _ _ =>
          let s : Span := { at_ := 26, first := e.maskLaddr, units := 2 * r.epm * tc }
          [lenTest 26 (decide (e.maskLaddr + 2 * r.epm * tc ≤ 0xBFFF) &&
            (segsOfLayer i e.expertLayer).all fun g => clearOf s (ringsOf i g) && clearOf s [constSpan i g])],
        routedReadFail b i r ]

end Sys2Proof.Machine
end

