-- ==== Sys2Proof/Machine/NvOps.lean ====
section
/-! DEFINITION. Shared operations of the weight store: verification, imprints, retirement and repairs of slots (R223 to R248). -/

namespace Sys2Proof.Machine

def modNvw (p : Pkg) (f : Nvw → Nvw) : Pkg := { p with nvw := f p.nvw }

/-- Record an event of a slot (R251). -/
def logSlot (p : Pkg) (code k p2 : Nat) : Pkg := log p code (k / 32) (k + 256 * (k / 32)) (slotOf p k).shard p2

/-- The block check table of a payload: one CRC-32C per 64 KiB block (R220). -/
def blockCrcs (b : Bytes) : List Nat := (chunks 65536 (ceilDiv b.length 65536) b).map crc32c

/-- The check bytes of a payload, line by line; the last line is filled with zeros (R221). -/
def lineChecks (b : Bytes) : List Word64 :=
  (chunks 64 (ceilDiv b.length 64) b).map fun l => Config.lineCheck (BitVec.ofNat 512 (leNat l))

/-- The payload of a slot carries its digest. -/
def digestHolds (s : Slot) : Bool := decide (s.payload.length = s.length ∧ sha256 s.payload = s.digest)

/-- Verify one UNVERIFIED slot: VERIFIED with its block check table recomputed, or BAD with its record (R230). -/
def verifySlot (p : Pkg) (k : Nat) (readable : Bool) : Pkg :=
  let s := slotOf p k
  if s.st ≠ nvUnverified then p
  else if readable && digestHolds s then modSlot p k fun x => { x with st := nvVerified, crcs := blockCrcs x.payload }
  else logSlot (modSlot p k fun x => { x with st := nvBad }) codeNvVerifyFail k 0

/-- The verification of R230 ends when no slot on a usable stack is UNVERIFIED, with one record per reset. -/
def judgeVerify (p : Pkg) : Pkg :=
  if p.nvw.verifyBusy && p.nvw.slots.all fun e => decide (e.2.st ≠ nvUnverified) || !nvUsable p (e.1 / 32) then
    let q := modNvw p fun n => { n with verifyBusy := false }
    if q.nvw.verifyDoneLogged then q
    else log (modNvw q fun n => { n with verifyDoneLogged := true }) codeNvVerifyDone 0 0 0 0
  else p

/-- The length rules of a shard (Tables 5-9 and 7-3). -/
def shardLenOk (n : Nat) : Bool := decide (32 ≤ n ∧ n ≤ 268435456 ∧ n % 32 = 0)

/-- The header of a slot carries a shard list entry's shard, length and digest. -/
def slotMatches (s : Slot) (shard length : Nat) (digest : Bytes) : Bool :=
  decide (s.shard = shard ∧ s.length = length ∧ s.digest = digest)

/-- The 64 bytes of a slot header (Table 7-1). -/
def slotHeader (s : Slot) : Bytes :=
  let held := decide (s.st ≠ nvFree ∧ s.st ≠ nvWorn)
  toLE 4 (if held then s.shard else 0) ++ toLE 4 (if held then s.length else 0) ++ toLE 1 s.st ++ toLE 1 s.origin ++
    toLE 1 (if s.claim = 0 then 0 else s.claim - 1 + 16) ++ zeros 1 ++ toLE 4 s.cycles ++
    ((if held then s.digest else []) ++ zeros 32).take 32 ++ toLE 8 (if held then s.authId else 0) ++ zeros 8

/-- The two copies of a slot's header and block check table, on different dies of the stack. What writes the one writes the other, so State
holds their content once; either copy alone gives it (R221). -/
def metaCopies (p : Pkg) (k : Nat) : List (Bytes × List Nat) :=
  let x := (slotHeader (slotOf p k), (slotOf p k).crcs)
  [x, x]

/-! ### Imprints (R225 to R228) -/

/-- Slots of a stack. -/
def stackSlots (n : Nat) : List Nat := (upto 32).map (· + 32 * n)

/-- The slot that a WRITE takes: the usable stack with the fewest slots that are not FREE, then its lowest FREE slot (R226). -/
def imprintSlot (p : Pkg) : Option Nat :=
  let frees (n : Nat) : List Nat := (stackSlots n).filter fun k => decide ((slotOf p k).st = nvFree)
  let ok := (upto 8).filter fun n => nvUsable p n && !(frees n).isEmpty
  match firstBy (fun a b => decide ((frees b).length < (frees a).length)) ok with
  | some n => (frees n).head?
  | none => none

/-- The slots that a RETIRE names (Table 7-3, check 5). -/
def retireSlots (p : Pkg) (shard length : Nat) (digest : Bytes) : List Nat :=
  (p.nvw.slots.filter fun e =>
    slotMatches e.2 shard length digest && decide (e.2.st = nvVerified ∨ e.2.st = nvUnverified ∨ e.2.st = nvBad)).map Prod.fst

/-! ### Repairs (R245) -/

/-- The shard list entry that a slot's shard would be. -/
def entOfSlot (s : Slot) : ShardEnt := { shard := s.shard, length := s.length, digest := s.digest }

/-- The usable replicas of a slot's shard in the order of preference. -/
def replicasOfSlot (p : Pkg) (k : Nat) : List Nat := replicasFor p (entOfSlot (slotOf p k))

/-- A stack writes a slot: an imprint taken, or a repair (R222, R226). -/
def stackWrites (p : Pkg) (stack : Nat) : Bool :=
  (p.nvw.imprints.any fun i => decide (i.slot / 32 = stack)) || p.nvw.repairs.any fun r => decide (r.slot / 32 = stack)

/-- A slot may be repaired (R222, R245): its repair has not stopped and its stack writes no other slot. -/
def repairable (p : Pkg) (k : Nat) : Bool :=
  let s := slotOf p k
  decide (k < 256 ∧ s.st = nvBad ∧ s.cycles < 100000 ∧ k ∉ p.nvw.stopped) && !(replicasOfSlot p k).isEmpty && nvUsable p (k / 32) &&
    !stackWrites p (k / 32)

/-- Read bytes of a replica's payload: from host memory, or by loads of the peer's window 2 (R240 to R245, R249). -/
def readReplica (p : Pkg) (x : Replica) (off len : Nat) : Pkg :=
  if x.kind = 2 then send p (.hostRead 0 (x.hostAddr + off) len)
  else if x.kind = 1 then fwLoads p true x.chip 2 (x.slot * 0x10000000 + off) len
  else p

/-- Read the slot header that a peer entry names (R240, R249). -/
def readHeader (p : Pkg) (x : Replica) : Pkg := fwLoads p false x.chip 2 (0x1000000000 + 64 * x.slot) 64

/-- The reads of an entry are loads of a peer; an entry that has since been cleared was read as what it was. -/
def readsPeer (x : Replica) : Bool := decide ((if x.kind = 0 then x.was else x.kind) = 1)

/-- What a fetch of an entry's payload brings, and the package when it has ended (R375 to R377). -/
def payloadBytes (p : Pkg) (x : Replica) (off len : Nat) (data : Option Bytes) : Option Bytes :=
  if readsPeer x then readBytes p x.chip 2 (x.slot * 0x10000000 + off) len data else data
def payloadDone (p : Pkg) (x : Replica) (off len : Nat) : Pkg :=
  if readsPeer x then dropReads p x.chip 2 (x.slot * 0x10000000 + off) len else p

/-- What the read of an entry's slot header brings, and the package when it has ended. -/
def headerBytes (p : Pkg) (x : Replica) (data : Option Bytes) : Option Bytes := readBytes p x.chip 2 (0x1000000000 + 64 * x.slot) 64 data
def headerDone (p : Pkg) (x : Replica) : Pkg := dropReads p x.chip 2 (0x1000000000 + 64 * x.slot) 64

/-- Begin a repair from a replica. -/
def repairFrom (p : Pkg) (k replica tries : Nat) : Pkg :=
  let x : Replica := tget {} p.nvw.replicas replica
  let q := readReplica p x 0 x.length
  modNvw (modSlot q k fun s => { s with st := nvWriting, cycles := s.cycles + 1 })
    fun n => { n with repairs := (n.repairs.filter fun r => decide (r.slot ≠ k)) ++ [⟨k, replica, tries⟩] }

/-! ### Slots that go bad (R244, R246) -/

/-- The record of an uncorrectable line, which reaches the contexts of the pen that claims the slot (R244, R436). -/
def logLine (p : Pkg) (k off : Nat) : Pkg :=
  let s := slotOf p k
  logFault p codeNvUncorrectable (k / 32) (k + 256 * (k / 32)) s.shard off stInternalFault
    (if s.claim = 0 then [] else ctxsOfPen p (s.claim - 1))

/-- An uncorrectable line of a slot that is not being written: the slot becomes BAD (R244), which ends its verification as failed where that
had met the line (R230; log entry 30). -/
def slotBad (p : Pkg) (k off : Nat) : Pkg :=
  let q := logLine (modSlot p k fun s => { s with st := nvBad }) k off
  if (slotOf p k).st = nvUnverified then judgeVerify (logSlot q codeNvVerifyFail k 0) else q

/-- An uncorrectable line that the check at the end of a write meets: the write fails (R226, R245; log entry 30). -/
def writeSpoiled (p : Pkg) (k off : Nat) : Pkg := logLine (modNvw p fun n => { n with spoiled := n.spoiled ++ [k] }) k off

/-- The lines of a slot that the engines read: a VERIFIED slot's, a BAD one's that a running step still streams, one's whose payload is being
checked: UNVERIFIED in the verification of R230 or for a BIND (R231), or WRITING at the end of a write (R226, R245). -/
def readsLines (p : Pkg) (k : Nat) (inStream : Bool) : Bool :=
  let st := (slotOf p k).st
  decide (st = nvVerified ∨ st = nvWriting) || (decide (st = nvBad) && inStream) ||
    (decide (st = nvUnverified) && (p.nvw.verifyBusy || decide (p.ldr.st = 1 ∧ p.ldr.op = 1)))

/-- Classes of the pen's shards, as the next set-up finds them (R235, R243 to R245). -/
def classesNow (p : Pkg) (n : Nat) : List Nat := (imageOf p n).shards.map fun e => if shardLocal p n e then 0 else 1

/-- The running step of a pen streams a shard of a slot. -/
def streamsSlot (p : Pkg) (n k : Nat) : Bool :=
  (penOf p n).step.isSome && decide ((slotOf p k).claim = n + 1) &&
    ((imageOf p n).shards.zip (penOf p n).cls).any fun e =>
      decide (e.2 = 0) && slotMatches (slotOf p k) e.1.shard e.1.length e.1.digest && decide (0 < e.1.reads)

/-! ### Replicas (R239 to R242) -/

def replicaOf (p : Pkg) (i : Nat) : Replica := tget {} p.nvw.replicas i
def modReplica (p : Pkg) (i : Nat) (f : Replica → Replica) : Pkg :=
  modNvw p fun n => { n with replicas := tmod {} n.replicas i f }

/-- An entry of a shard has become GOOD: repairs of the shard's slots may begin again, and its blocks be fetched (R245, R247). -/
def replicaBack (p : Pkg) (i : Nat) : Pkg :=
  let x := replicaOf p i
  let other (k : Nat) : Bool := !slotMatches (slotOf p k) x.shard x.length x.digest
  if x.st = 1 then modNvw p fun n => { n with stopped := n.stopped.filter other, dry := n.dry.filter other } else p

/-- A peer's slot header answers a registration check: VERIFIED, the entry's shard, length and digest, and every reserved field of
Table 7-1 zero, since a header that holds another is refused whole (R12, R240). -/
def headerGood (r : Replica) (h : Bytes) : Bool :=
  decide (fieldAt h 0 4 = r.shard ∧ fieldAt h 4 4 = r.length ∧ fieldAt h 8 1 = nvVerified ∧ (h.drop 16).take 32 = r.digest) &&
    decide (fieldAt h 9 1 < 2 ∧ fieldAt h 10 1 < 32 ∧ fieldAt h 11 1 = 0 ∧ fieldAt h 56 8 = 0)

end Sys2Proof.Machine
end

