-- ==== Sys2Proof/Machine/LoaderOps.lean ====
section
/-! DEFINITION. Shared operations of the loader: checks 2 to 27, claims, binding and unbinding (R167 to R172, R180, R231, R233). -/

namespace Sys2Proof.Machine

def modLdr (p : Pkg) (f : Ldr → Ldr) : Pkg := { p with ldr := f p.ldr }

/-! ### Claims (R159, R231, R233) -/

/-- Unclaimed slots on usable stacks that carry a shard list entry's shard in a state, ascending. -/
def freeMatches (p : Pkg) (e : ShardEnt) (st : Nat) : List Nat :=
  (p.nvw.slots.filter fun s =>
    slotMatches s.2 e.shard e.length e.digest && decide (s.2.st = st ∧ s.2.claim = 0) && nvUsable p (s.1 / 32)).map Prod.fst

/-- Slots that a pen has claimed. -/
def claimsOf (p : Pkg) (n : Nat) : List Nat := (p.nvw.slots.filter fun s => decide (s.2.claim = n + 1)).map Prod.fst

/-- Verify the UNVERIFIED slots of an entry in order until one is VERIFIED (R231). -/
def verifyFor (p : Pkg) (e : ShardEnt) : Pkg :=
  (freeMatches p e nvUnverified).foldl (fun q k => if (freeMatches q e nvVerified).isEmpty then verifySlot q k true else q) p

/-- Claim a slot for an entry, when the pen's share allows one (R233); the flag says whether it is LOCAL. -/
def claimFor (p : Pkg) (n : Nat) (e : ShardEnt) : Pkg × Bool :=
  if (claimOf p n e).isSome then (p, true)
  else if (penOf p n).nvShards ≤ (claimsOf p n).length then (p, false)
  else
    let q := if (freeMatches p e nvVerified).isEmpty then verifyFor p e else p
    match (freeMatches q e nvVerified).head? with
    | some k => (modSlot q k fun s => { s with claim := n + 1 }, true)
    | none => (q, false)

/-- Something holds a shard of the entry's index that is not the shard asked for (Table 5-15, check 17). -/
def otherHeld (p : Pkg) (e : ShardEnt) : Bool :=
  (p.nvw.slots.any fun s => decide (s.2.shard = e.shard ∧ s.2.claim = 0) &&
    decide (s.2.st = nvBad ∨ ((s.2.st = nvVerified ∨ s.2.st = nvUnverified) ∧ s.2.digest ≠ e.digest))) ||
    p.nvw.replicas.any fun r => decide (r.2.kind ≠ 0 ∧ r.2.shard = e.shard ∧ (r.2.st = 2 ∨ r.2.digest ≠ e.digest))

/-- A shard list entry that FILL chains read and no Sled channel does: its READS may be 0 (Table 5-9, R16). -/
def onlyFills (i : Image) (k : Nat) : Bool :=
  let reads (first : Nat) : Bool := (chainFrom i.streams first).any fun e => decide (e.kind = 0 ∧ e.source = k)
  ((i.relocs.filter fun r => decide (r.fill ≠ 0)).any fun r => reads (r.fill - 1)) &&
    !((((i.chans.filter fun c => decide (c.feeder = 1)).map (·.stream)) ++ overridesOf i 1).any reads)

/-- Check 17 over the entries: the package with the pen's claims, the classes of the entries so far, and the first failure. -/
def claimAll (p : Pkg) (n : Nat) (b : Bytes) (i : Image) : Pkg × List Nat × Option LdrFail :=
  (i.shards.zip (upto i.shards.length)).foldl (fun (acc : Pkg × List Nat × Option LdrFail) x =>
    match acc.2.2 with
    | some _ => acc
    | none =>
      let at_ := secOff b 11 + 48 * x.2
      let f (status off : Nat) : Option LdrFail := some { check := 17, status := status, sec := 11, index := x.2, off := at_ + off }
      if !shardLenOk x.1.length then (acc.1, acc.2.1, f stLengthInvalid 4)
      else if allOnes 4 x.1.reads || (decide (x.1.reads = 0) && !onlyFills i x.2) then (acc.1, acc.2.1, f stLengthInvalid 8)
      else if !zeroAt b (at_ + 12) 4 then (acc.1, acc.2.1, f stFormatInvalid 12)
      else
        let (q, isLocal) := claimFor acc.1 n x.1
        if isLocal then (q, acc.2.1 ++ [0], none)
        else if !(replicasFor q x.1).isEmpty then (q, acc.2.1 ++ [1], none)
        else if otherHeld q x.1 then (q, acc.2.1, f stShardDigestMismatch 16)
        else (q, acc.2.1, f stShardMissing 0)) (p, [], none)

/-- Release every claim of a pen (R171, R233). -/
def dropClaims (p : Pkg) (n : Nat) : Pkg :=
  { p with nvw := { p.nvw with slots := tmap {} (fun _ s => if s.claim = n + 1 then { s with claim := 0 } else s) p.nvw.slots } }

/-! ### The checks (Table 5-15) -/

/-- A failure of the command, the header, or of no item. -/
def plainFail (check status off : Nat) : Option LdrFail := some { check := check, status := status, off := off }

/-- Check 2. -/
def cmdFail (p : Pkg) : Option LdrFail :=
  let n := p.ldr.bytes
  if p.ldr.addr % 4096 ≠ 0 then plainFail 2 stAlignmentInvalid 0
  else if n < 4096 ∨ 0x40000000 < n ∨ n % 64 ≠ 0 then plainFail 2 stLengthInvalid 0
  else none

/-- Checks 4 to 9. -/
def headFail (p : Pkg) (n : Nat) (b : Bytes) : Option LdrFail :=
  let x := penOf p n
  let v := fieldAt b 8 2
  let group := fieldAt b 36 2 % 8192
  if b.take 8 ≠ imageMagic then plainFail 4 stFormatInvalid 0
  else if v ≠ (if x.compat then 3 else 4) then plainFail 5 stFormatInvalid 8
  else if fieldAt b 10 2 ≠ 128 then plainFail 6 stLengthInvalid 10
  else if fieldAt b 16 4 ≠ p.ldr.bytes then plainFail 6 stLengthInvalid 16
  else if !imageIdOk b then plainFail 7 stFormatInvalid 24
  else match runTests 8 0 0 0 (headerTests b) with
    | some f => some f
    | none =>
      if group ≠ x.groupSize then plainFail 9 stLengthInvalid 36
      else if 1 < group ∧ memberChip x (fieldAt b 38 2 % 4096) ≠ some (chipNo p) then plainFail 9 stFormatInvalid 38
      else none

/-- Checks 10 to 16. -/
def bodyFail (b : Bytes) (i : Image) : Option LdrFail :=
  firstFailOf
    [ (upto (dirOf b).length).findSome? fun k => runTests 10 0 k (128 + 16 * k) (dirTests b k), presenceFail b, countFail b,
      entryChecks b 13 7 fun k e => variantTests i k e, entryChecks b 14 6 fun k e => recTests i k e, reservationFail b i,
      relocFail b i (pageTokens (decide (i.version = 3))) ]

/-- Checks 18 to 24. -/
def workFail (b : Bytes) (i : Image) : Option LdrFail :=
  firstFailOf [streamFail b i, segFail b i, chanFail b i, barrierFail b i, attFail b i, wordsFail b i, routeFail b i]

/-- Checks 25 and 26. -/
def roomFail (p : Pkg) (n : Nat) (i : Image) : Option LdrFail :=
  let x := penOf p n
  let usable := ((setOf p n).filter (arrayUsable p)).length
  let stage := x.stageMib * 1048576
  if x.arrays < i.segs.length ∨ stage < stagingNeed i ∨ x.dramMib * 1048576 < dramNeed i then plainFail 25 stLengthInvalid 0
  else if usable < ceilDiv i.segs.length 2 ∨ stage < stagingNeed i + (i.segs.length - usable) * saveArea then
    plainFail 26 stPenUnavailable 0
  else none

/-! ### Binding (R157, R158, R170, R171, R180) -/

/-- Buffers that a segment's words and channels name, those of its RUN entries among them. -/
def segBufs (i : Image) (s : Nat) : List Nat :=
  (((progsOf i).flatten.filter fun x => decide (x.seg = s)).flatMap fun x => bufsRead i x ++ (if wOp x.w = 6 ∧ wbit x.w 0 4 then [wbits x.w 4 27 16] else [])).eraseDups

/-- The usable DRAM stacks of the first ring of quadrants around one that has any (R180). -/
def stacksNear (p : Pkg) (q : Nat) : List Nat :=
  ((quadRings q).findSome? fun ring =>
    let ss := (upto 24).filter fun s => decide (s / 6 ∈ ring) && dramUsable p s
    if ss.isEmpty then none else some ss).getD []

/-- The quadrant of a segment under a placement: that of the array which hosts it. -/
def segQuad (pl : List (Nat × Nat)) (s : Nat) : Nat :=
  match pl.find? fun e => decide (e.1 = s) with
  | some e => arrayQuad e.2
  | none => 0

/-- The quadrant of a buffer: that of the lowest-numbered segment that names it (R180); segment 0's where none does. -/
def bufQuad (i : Image) (pl : List (Nat × Nat)) (k : Nat) : Nat :=
  segQuad pl (((upto i.segs.length).find? fun s => decide (k ∈ segBufs i s)).getD 0)

/-- Buffers of a memory class, the KV buffer aside. -/
def bufsOfClass (i : Image) (cls : Nat) : List Nat :=
  (upto i.relocs.length).filter fun k => let r := i.relocs.getD k {}; decide (r.cls = cls ∧ r.kind ≠ 3)

/-- The DRAM stacks that hold a buffer of a pen under a placement (R180). -/
def bufStacksOf (p : Pkg) (i : Image) (pl : List (Nat × Nat)) : List Nat :=
  let all := (bufsOfClass i 0).flatMap fun k => stacksNear p (bufQuad i pl k)
  (upto 24).filter fun s => decide (s ∈ all)

/-- Staging bytes of a pen in a quadrant: its staging-class buffers there, and the words and constant data of the segments that run
there (R180). -/
def stagedIn (x : Pen) (q : Nat) : Nat :=
  match x.image with
  | none => 0
  | some i =>
    sumL ((tkeys (fun _ v => decide (v = q + 1)) x.staged).map fun k => roundUp (i.relocs.getD k {}).bytes 4096) +
      sumL ((tkeys (fun _ v => decide (v ≠ 0 ∧ arrayQuad (v - 1) = q)) x.place).map fun s =>
        16 * (i.segs.getD s {}).wordCount + (i.segs.getD s {}).constBytes)

/-- Place the staging-class buffers of a pen, each in its quadrant, else in an adjacent one, else in the diagonal one: the first with
room in its 128 MiB (R36, R180). A quadrant plus one for each buffer. -/
def stagePlan (p : Pkg) (n : Nat) (i : Image) (pl : List (Nat × Nat)) : Tab Nat :=
  let others (q : Nat) : Nat := sumL ((enabledPens p).map fun m => if m = n then 0 else stagedIn (penOf p m) q)
  (bufsOfClass i 1).foldl (fun t k =>
    let mine : Pen := { image := some i, staged := t, place := pl.foldl (fun u e => tset 0 u e.1 (e.2 + 1)) [] }
    let rings := (quadRings (bufQuad i pl k)).flatten
    let fits (q : Nat) : Bool :=
      decide (others q + stagedIn mine q + roundUp (i.relocs.getD k {}).bytes 4096 ≤ 134217728)
    tset 0 t k (((rings.find? fits).getD (bufQuad i pl k)) + 1)) []

/-- Fill the WEIGHT buffers from their chains: from claimed slots, and from the shards that the loader has fetched whole from the slower
tier, of which the chain's range is kept (R156, R242). -/
def fillWeights (p : Pkg) (n : Nat) (i : Image) : Pkg :=
  forAll ((i.relocs.zip (upto i.relocs.length)).filter fun r => decide (r.1.fill ≠ 0)) (fun q r =>
    ((chainFrom i.streams (r.1.fill - 1)).foldl (fun (acc : Pkg × Nat) e =>
      (match entryUnits acc.1 n { slowDone := p.ldr.fills } e with
        | some us => bufPut acc.1 n r.2 (32 * acc.2) (us.flatMap Prod.fst) fun k => (us.getD k ([], 0)).2
        | none => acc.1, acc.2 + e.units)) (q, 0)).1) p

/-- The frames of a new pool that reach into bytes retired by uncorrectable lines: no frame there is allocated before a cold reset, whatever
the pen is bound to (R435; log entry 13). -/
def badFrames (l : List BadDram) (n : Nat) (on : List Nat) (fb frames : Nat) : List Nat :=
  l.flatMap fun b =>
    let first := b.off / fb
    match on.findIdx? fun s => decide (s = b.stack) with
    | some j =>
      if b.pen = n ∧ fb ≠ 0 then
        ((upto ((b.off + b.len - 1) / fb + 1 - first)).map fun k => (first + k) * on.length + j).filter fun f => decide (f < frames)
      else []
    | none => []

/-- The page pool that a bind makes (R170, R317, R323). -/
def bindPool (p : Pkg) (n : Nat) (i : Image) : Pool :=
  let o := poolOf p n
  let fb := frameBytesOf i (pageTokens (penOf p n).compat)
  let room := (penOf p n).dramMib * 1048576 - dramNeed i - tailBytes i
  { o with
    frameBytes := fb, groups := groupMask i, frames := room / fb, onStacks := (upto 24).filter (dramUsable p), reserved := 0
    tab := (badFrames p.glb.badDram n ((upto 24).filter (dramUsable p)) fb (room / fb)).foldl (fun t f => tset {} t f { bad := true }) []
    copies := [], cowCopies := [], swap := none, lost := [] }

/-- Image identity in two parameters (R151). -/
def idLow (i : Image) : Nat := i.id % 2 ^ 32
def idHigh (i : Image) : Nat := i.id / 2 ^ 32

/-- Layers whose record is sensitive, narrow and overridden (R106). -/
def overriddenLayers (i : Image) : List Nat :=
  (upto i.layers).filter fun k => let r := i.recs.getD k {}; r.sensitive && r.override && !wideSet r

/-- A loader command is done: its results stand, and package vector 1,024 is raised (R168, R278). -/
def ldrDone (p : Pkg) (f : Ldr → Ldr) : Pkg :=
  msix (modLdr p fun l => { f l with st := 2, rechecked := [], asked := [], fillFrom := [], fills := [] }) 0 1024

/-- A BIND that passes every check (R171). -/
def bindDone (p : Pkg) (n : Nat) (i : Image) (cls : List Nat) : Pkg :=
  let g := p.freeCtr + 1
  let bufs := (upto i.relocs.length).foldl (fun t k => tset {} t k ({ gen := g } : Buf)) []
  let p1 := nextFree (modPen p n fun x =>
    { x with image := some i, cls := cls, bufs := bufs, rerun := [], records := [], marks := [], groupStep := 0, countEpoch := epochOf p
             beat := 1400000, props := [], step := none })
  let pl := (placement p1 n i).2
  let p2 := modPen p1 n fun x => { x with pool := bindPool p1 n i, bufStacks := bufStacksOf p1 i pl, staged := stagePlan p1 n i pl }
  let p3 := placePen (fillWeights p2 n i) n
  let p4 := ldrDone p3 fun l =>
    { l with
      result := stOk, bindCount := inc32 l.bindCount, failCheck := 0, failSection := 0, failIndex := 0, failOffset := 0 }
  let p5 := log p4 codeImageBound n n (idLow i) (idHigh i)
  let p6 := match (overriddenLayers i).head? with
    | some k => let r := i.recs.getD k {}
      log p5 codeNarrowOverride 0 (k + r.clip * 65536 + (r.base % 256).toNat * 16777216) (idLow i) (idHigh i)
    | none => p5
  penTo p6 n penBound

/-- A refused BIND: its report, its record, and the pen as it was before (R171). -/
def bindRefused (p : Pkg) (n : Nat) (f : LdrFail) : Pkg :=
  let p1 := ldrDone p fun l =>
    { l with
      result := f.status, failCheck := f.check, failSection := f.sec, failIndex := f.index, failOffset := f.off
      refuseCount := inc32 l.refuseCount }
  let p2 := log p1 codeImageRefused 0 (f.status + 256 * f.check + 65536 * f.sec) f.index f.off
  if f.check = 1 then p2 else penTo (dropClaims p2 n) n penEmpty

/-! ### What a BIND waits for (R240, R242) -/

/-- Entries of SHARDS that check 17 leaves to the slower tier. -/
def slowerEntries (i : Image) (cls : List Nat) : List Nat := (upto i.shards.length).filter fun k => decide (cls.getD k 0 = 1)

/-- The peer entries that check 17 uses and that have not been checked again for this BIND (R240). -/
def recheckDue (p : Pkg) (i : Image) (cls : List Nat) : List Nat :=
  ((slowerEntries i cls).filterMap fun k => (replicasFor p (i.shards.getD k {})).head?).eraseDups.filter fun r =>
    decide ((replicaOf p r).kind = 1 ∧ r ∉ p.ldr.rechecked)

/-- A FILL chain reads a shard list entry. -/
def fillReads (i : Image) (k : Nat) : Bool :=
  i.relocs.any fun r => decide (r.fill ≠ 0) && (chainFrom i.streams (r.fill - 1)).any fun e => decide (e.kind = 0 ∧ e.source = k)

/-- SLOWER shards of FILL chains that are still to be fetched (R242). -/
def fillsDue (p : Pkg) (i : Image) (cls : List Nat) : List Nat :=
  (slowerEntries i cls).filter fun k => fillReads i k && (tget none p.ldr.fills k).isNone

/-- Every shard fetched for a FILL carries its digest (R242, Table 7-5). -/
def fillsHash (p : Pkg) (i : Image) (cls : List Nat) : Bool :=
  ((slowerEntries i cls).filter (fillReads i)).all fun k => match tget none p.ldr.fills k with
    | some b => decide (b.length = (i.shards.getD k {}).length ∧ sha256 b = (i.shards.getD k {}).digest)
    | none => false

/-- The state of a running BIND on the bytes of its image: a failed check, or the classes and what it still waits for: peer entries to
check again, then shards to fetch. -/
inductive BindView where
  | failed (f : LdrFail)
  | recheck (es : List Nat)
  | fetch (i : Image) (ks : List Nat)
  | ready (i : Image) (cls : List Nat)
deriving DecidableEq, Repr

/-- How far a BIND comes with the package as it is (R169). -/
def bindView (p : Pkg) (n : Nat) (b : Bytes) (placed : Bool) : BindView :=
  let i := parseImage b
  match firstFailOf [headFail p n b, bodyFail b i] with
  | some f => .failed f
  | none =>
    let (q, cls, bad) := claimAll p n b i
    let es := recheckDue q i cls
    if !es.isEmpty then .recheck es
    else match firstFailOf [bad, workFail b i, roomFail q n i] with
      | some f => .failed f
      | none =>
        let ks := fillsDue q i cls
        if !ks.isEmpty then .fetch i ks
        else if placed && fillsHash q i cls then .ready i cls
        else .failed { check := 27, status := stInternalFault }

/-- The loader reads the headers of peer entries that a BIND uses (R240). -/
def askRechecks (p : Pkg) (es : List Nat) : Pkg :=
  forAll (es.filter fun r => decide (r ∉ p.ldr.asked)) (fun q r =>
    modLdr (readHeader q (replicaOf q r)) fun l => { l with asked := l.asked ++ [r] }) p

/-- The loader fetches whole SLOWER shards for FILL chains, each from its first usable replica (R242). -/
def askFills (p : Pkg) (i : Image) (ks : List Nat) : Pkg :=
  forAll (ks.filter fun k => decide (tget 0 p.ldr.fillFrom k = 0)) (fun q k =>
    match (replicasFor q (i.shards.getD k {})).head? with
    | some r => modLdr (readReplica q (replicaOf q r) 0 (replicaOf q r).length) fun l => { l with fillFrom := tset 0 l.fillFrom k (r + 1) }
    | none => q) p

/-- The end of a BIND: checks 2 to 27 on the bytes that the fetch returned, none where the host refused it (R168, R169). While a peer entry
is to be checked again or a shard to be fetched, the BIND runs on (R240, R242). DESIGN CHOICE: a write of LDR_IMAGE_ADDR or LDR_IMAGE_BYTES
while the BIND runs changes what checks 2 and 6 compare with and not what was fetched (R168; log entry 43). -/
def bindEnd (p : Pkg) (n : Nat) (image : Option Bytes) (placed : Bool) : Pkg :=
  match cmdFail p, image with
  | some f, _ => bindRefused p n f
  | none, none => bindRefused p n { check := 3, status := stPermission }
  | none, some b =>
    match bindView p n b placed with
    | .recheck es => askRechecks p es
    | .fetch i ks => askFills p i ks
    | .failed f => judgeVerify (bindRefused (if 17 ≤ f.check then (claimAll p n b (parseImage b)).1 else p) n f)
    | .ready i cls => judgeVerify (bindDone (claimAll p n b i).1 n i cls)

/-! ### Unbinding (R172) -/

/-- An UNBIND is taken: no further step job of the pen starts. -/
def unbindStart (p : Pkg) (n : Nat) : Pkg := penTo (modLdr p fun l => { l with st := 1 }) n penUnbinding

/-- The end of an UNBIND: requests end, buffers, claims and reservations are released, and the pen is EMPTY (R172). -/
def unbindEnd (p : Pkg) (n : Nat) : Pkg :=
  let i := imageOf p n
  let p1 := forAll (entriesOfPen p n) (fun q e => endReq q e stPenUnavailable) p
  let p2 := dropClaims (discardPool p1 n) n
  let p3 := modPen p2 n fun x =>
    { x with
      image := none, cls := [], place := [], quad := [], folds := 0, replace := false, pred := 0, bufs := [], bufStacks := [], staged := []
      rerun := [], fenced := false, groupStep := 0, records := [], marks := [], props := []
      pool := { x.pool with frames := 0, frameBytes := 0, groups := 0, onStacks := [], lost := [] } }
  let p4 := ldrDone p3 fun l => { l with result := stOk }
  penTo (log p4 codeImageUnbound n n (idLow i) (idHigh i)) n penEmpty

/-! ### LDR_CMD (R168, R172) -/

/-- A BIND is taken: check 1, and then the fetch of the image (R168). -/
def bindTake (p : Pkg) (n : Nat) : Pkg :=
  let p1 := modLdr p fun l => { l with op := 1, pen := n, result := 0 }
  if (penOf p n).st = penEmpty then
    let p2 := penTo (modLdr p1 fun l => { l with st := 1 }) n penBinding
    if (cmdFail p).isSome then p2 else send p2 (.hostRead 0 p.ldr.addr p.ldr.bytes)
  else bindRefused p1 n { check := 1, status := stPenUnavailable }

/-- An UNBIND is taken, or completes at once for a pen in another state (R172). -/
def unbindTake (p : Pkg) (n : Nat) : Pkg :=
  let st := (penOf p n).st
  let p1 := modLdr p fun l => { l with op := 2, pen := n, result := 0 }
  if st = penBound ∨ st = penActive ∨ st = penUnavail then unbindStart p1 n
  else ldrDone p1 fun l => { l with result := stPenUnavailable }

/-- A write of LDR_CMD (R168). -/
def ldrCmd (p : Pkg) (op n : Nat) : Pkg :=
  if p.ldr.st = 1 then modLdr p fun l => { l with lost := true, badOp := l.badOp || decide (op ≠ 1 ∧ op ≠ 2) }
  else if op = 1 then bindTake p n
  else if op = 2 then unbindTake p n
  else modLdr p fun l => { l with badOp := true }

end Sys2Proof.Machine
end

