-- ==== Sys2Proof/Machine/RunOps.lean ====
section
/-! DEFINITION. Shared operations of the runs of segments: normal, wide and spill runs, their beginning, their end and their restart
(R99, R107, R115, R146, R162, R163, R202). -/

namespace Sys2Proof.Machine

/-! ### Runs of segments (R128, R146, R162, R163, R202) -/

/-- The first LAYER_END of a segment from a word on, as its word index and layer. -/
def nextEnd (i : Image) (seg pc : Nat) : Option (Nat × Nat) :=
  let d := i.segs.getD seg {}
  let ws := (i.words.drop pc).take (d.wordFirst + d.wordCount - pc)
  match ws.findIdx? fun w => decide (wOp w = 8 ∧ syncKind w = 4) with
  | some k => some (pc + k, syncLayer (ws.getD k 0))
  | none => none

/-- Units of a channel that a program of words consumes. -/
def programUnits (i : Image) (seg first count c : Nat) : Nat := unitsIn i seg c ((i.words.drop first).take count)

/-- The run keeps what a restart returns to (R115). -/
def markRun (r : SegRun) : SegRun :=
  { r with runFirst := r.pc, chStart := r.chPos, waitsStart := r.waits, arrsStart := r.arrs, gathersStart := r.gathers }

/-- A program of a RUN entry takes over: its override chains start at their first units, the other channels where they are. -/
def intoVariant (r : SegRun) (v : Variant) (cont : Nat) (next : Tab Nat) (wide : Bool) : SegRun :=
  let ovr (c : Nat) : Nat := v.overrides.getD c 0
  { r with
    pc := v.first, resume := some cont, chNext := next, wide := wide
    chChain := (upto 4).foldl (fun t c => tset 0 t c (ovr c)) []
    chPos := (upto 4).foldl (fun t c => if ovr c = 0 then t else tset 0 t c 0) r.chPos }

/-- Begin the normal run at a segment's word, or the run of a RUN entry in force in its place (R163). -/
def enterNormal (i : Image) (t : Step) (r : SegRun) : SegRun :=
  match nextEnd i r.seg r.pc with
  | none => markRun r
  | some (last, layer) =>
    let r1 := markRun { r with chAt := (upto 4).foldl (fun a c => tset 0 a (4 * layer + c) (tget 0 r.chPos c)) r.chAt }
    match wideRun i t r.seg layer with
    | none => r1
    | some v =>
      let next := (upto 4).foldl (fun a c =>
        tset 0 a c (tget 0 r.chPos c + programUnits i r.seg r.pc (last + 1 - r.pc) c)) []
      intoVariant r1 v (last + 1) next true

/-- Begin a spill run: the channels without an override stand where the layer's last normal run began (R163, R202). -/
def enterSpill (i : Image) (t : Step) (r : SegRun) (k cont : Nat) (next : Tab Nat) : SegRun :=
  let v := i.variants.getD k {}
  let at_ := (upto 4).foldl (fun a c => tset 0 a c (tget 0 r.chAt (4 * v.layer + c))) []
  let r1 := intoVariant { r with chPos := at_ } v cont next false
  let r2 := markRun r1
  match wideRun i t r.seg v.layer with
  | none => r2
  | some w => intoVariant r2 w cont next true

/-- The RUN entries of the SPILL entries that end with a layer, for a segment, with their routing entry (R202). -/
def spillAfter (i : Image) (seg layer : Nat) : Option (Nat × List Nat) :=
  let ents := match i.routing with | some r => r.entries | none => []
  (upto ents.length).findSome? fun e =>
    let sp := i.variants.getD (ents.getD e {}).spillIndex {}
    let ks := ((upto sp.runCount).map (· + sp.runFirst)).filter fun k => decide ((i.variants.getD k {}).seg = seg)
    match ks.getLast? with
    | some k => if (i.variants.getD k {}).layer = layer then some (e, ks) else none
    | none => none

/-- The rounds of the decided exchange of an entry and half. -/
def roundsOf (t : Step) (e h : Nat) : Nat :=
  match t.decided.find? fun d => decide (d.entry = e ∧ d.half = h) with
  | some d => d.rounds
  | none => 1

/-- A held run goes on after its layer is released: with the next spill run, or with the next normal run. -/
def nextRun (i : Image) (t : Step) (r : SegRun) (layer : Nat) : SegRun :=
  let cont := r.resume.getD (r.pc + 1)
  let inSpill := decide (0 < r.round)
  let after := if r.resume.isSome then r.chNext else r.chPos
  let done := if inSpill then r.runsDone else tset 0 r.runsDone layer (tget 0 r.runsDone layer + 1)
  let r0 : SegRun := { r with held := false, armed := false, runsDone := done, chChain := [], resume := none, wide := false }
  let high := (upto 4).foldl (fun h c => tset 0 h c (max (tget 0 h c) (tget 0 after c))) r.chHigh
  let normal : SegRun := enterNormal i t { r0 with pc := cont, chPos := after, chHigh := high, round := 0, spill := [] }
  match r.spill with
  | k :: rest => enterSpill i t { r0 with spill := rest } k cont after
  | [] =>
    match spillAfter i r.seg layer with
    | none => normal
    | some (e, ks) =>
      let h := tget 0 done layer - 1
      if r.round + 1 < roundsOf t e h then
        match ks with
        | k :: rest => enterSpill i t { r0 with spill := rest, round := r.round + 1 } k cont after
        | [] => normal
      else normal

/-- A run starts again from its beginning, in the program now in force (R115, R146). -/
def restartRun (i : Image) (t : Step) (r : SegRun) (layer : Nat) : SegRun :=
  let r0 : SegRun :=
    { r with
      held := false, armed := false, waitFor := none, chPos := r.chStart, waits := r.waitsStart, arrs := r.arrsStart, gathers := r.gathersStart }
  if r.round = 0 ∧ r.resume.isNone then enterNormal i t { r0 with pc := r.runFirst }
  else
    let cont := r.resume.getD (r.pc + 1)
    let r1 := { r0 with pc := r.runFirst }
    match wideRun i t r.seg layer with
    | none => r1
    | some w => intoVariant r1 w cont r.chNext true

/-- Array data at the start of a step job, of a replay and of a wide run (R107). -/
def freshData (d : ArrData) : ArrData := { sram := d.sram, base := d.base }

/-- Array data with its masks all ones (R133). -/
def freshMasks (d : ArrData) : ArrData := { d with rowMask := 2 ^ 128 - 1, colMask := 2 ^ 128 - 1 }

/-- Change the runs of an array that a test admits, and the data that belongs to them. -/
def modRunsIf (x : Arr) (ok : SegRun → Bool) (f : SegRun → SegRun) (g : SegRun → ArrData → ArrData) : Arr :=
  let idx := x.runs.zip (upto x.runs.length)
  let on (k : Nat) (d : ArrData) : ArrData :=
    (idx.filter fun e => decide ((e.2 = x.active) ↔ (k = 0)) && ok e.1).foldl (fun v e => g e.1 v) d
  { x with runs := x.runs.map fun r => if ok r then f r else r, data := on 0 x.data, saved := x.saved.map (on 1) }

/-- The same for every array of a pen's set. -/
def modSetRuns (p : Pkg) (n : Nat) (ok : SegRun → Bool) (f : SegRun → SegRun) (g : SegRun → ArrData → ArrData) : Pkg :=
  forAll (setOf p n) (fun q a => modArr q a fun x => modRunsIf x ok f g) p

/-- Every run of a pen's set. -/
def runsOfPen (p : Pkg) (n : Nat) : List SegRun := (setOf p n).flatMap fun a => (arrOf p a).runs

/-- A run is held at the LAYER_END of a layer. -/
def heldAt (i : Image) (layer : Nat) (r : SegRun) : Bool := r.held && decide (syncLayer (i.words.getD r.pc 0) = layer)

/-! ### Going wide (R99, R215) -/

/-- The words of a run from its present word to its LAYER_END. -/
def restOf (i : Image) (r : SegRun) : List Nat :=
  let ws := i.words.drop r.pc
  match ws.findIdx? fun w => decide (wOp w = 8 ∧ syncKind w = 4) with
  | some k => ws.take (k + 1)
  | none => ws

/-- The layer of the run that a segment is in. -/
def layerIn (i : Image) (r : SegRun) : Option Nat := runLayer (restOf i r)

/-- Barriers that the control path completes: RECV_GATE and COMB_GATE of the routing entries (R210, R214). -/
def controlGate (i : Image) (b : Nat) : Bool :=
  match i.routing with
  | some r => r.entries.any fun e => decide (e.recvGate = b ∨ e.combGate = b)
  | none => false

/-- A barrier's generations after a restart: those that its members' arrivals still make up, so that a BARRIER in a run that starts again
waits for the new arrivals (R128, R146). Those that the control path completes stay. -/
def gensAgain (i : Image) (runs : List SegRun) (g : Tab Nat) : Tab Nat :=
  (upto i.barriers.length).foldl (fun t b =>
    let arrs := (runs.filter fun r => bitOf (i.barriers.getD b {}).members r.seg).map fun r => tget 0 r.arrs b
    if controlGate i b then t
    else match firstBy (fun a b => decide (a < b)) arrs with
      | some m => tset 0 t b (min (tget 0 t b) m)
      | none => t) g

/-- Restart the runs of a pen's set that a test admits: in the program in force, with fresh array data and new generations (R107, R115,
R128, R146). -/
def restartRuns (p : Pkg) (n : Nat) (ok : SegRun → Bool) (layerOf : SegRun → Nat) : Pkg :=
  let i := imageOf p n
  let t := stepNow p n
  let p1 := modSetRuns p n ok (fun r => restartRun i t r (layerOf r)) fun _ => freshData
  modStep p1 n fun y => { y with barGen := gensAgain i (runsOfPen p1 n) y.barGen }

/-- A run has not passed its wait for the next generation of a gate: it waits now, or its wait is still to come. -/
def beforeGate (i : Image) (r : SegRun) (g : Nat) : Bool :=
  decide (r.waitFor.map Prod.fst = some g) ||
    (decide (tget 0 r.waits g = tget 0 r.waitsStart g) &&
      (restOf i r).any fun w => decide (wOp w = 8 ∧ (syncKind w = 1 ∨ syncKind w = 3) ∧ syncBar w = g))

/-- A narrow run before a gate that is now to run wide. -/
def goesWide (i : Image) (t : Step) (g : Nat) (r : SegRun) : Bool :=
  !r.held && !r.ended && !r.wide && beforeGate i r g &&
    match layerIn i r with
    | some l => (wideRun i t r.seg l).isSome
    | none => false

/-- The layers whose runs stand before a gate and are now to run wide. -/
def layersMoving (p : Pkg) (n g : Nat) : List Nat :=
  let i := imageOf p n
  ((runsOfPen p n).filterMap fun r => if goesWide i (stepNow p n) g r then layerIn i r else none).eraseDups

/-- The runs of the layers that wait on a gate whose output has gone wide start again in their wide variant, every array of them, on their
retained input and with a summary of their own (R95, R97, R99, R107, R146, R163, R215). -/
def moveWaiting (p : Pkg) (n g : Nat) : Pkg :=
  let i := imageOf p n
  let ls := layersMoving p n g
  let p1 := modStep p n fun t =>
    ls.foldl (fun t l => inputAgain { t with summary := tset {} t.summary l { ({} : Summary) with kind := 2 } } l) t
  restartRuns p1 n (fun r => !r.ended && (match layerIn i r with | some l => decide (l ∈ ls) | none => false))
    fun r => (layerIn i r).getD 0

end Sys2Proof.Machine
end

