-- ==== Sys2Proof/Machine/ExchOps.lean ====
section
/-! DEFINITION. Shared operations of expert routing and exchange: selections, boards, records and markers, the rounds, dispatch,
gates, and combining (R190 to R217). -/

namespace Sys2Proof.Machine

/-! ### Halves, exchanges and members (R195, R196) -/

/-- The routing header of a pen's image. -/
def routingNow (p : Pkg) (n : Nat) : Routing := match (imageOf p n).routing with | some r => r | none => {}

def entryNow (p : Pkg) (n e : Nat) : RouteEnt := (routingNow p n).entries.getD e {}

/-- RL: the routing entries of an image. -/
def rlOf (i : Image) : Nat := match i.routing with | some r => r.entries.length | none => 0

/-- Exchanges of a step. -/
def exchangesOf (i : Image) : Nat := 2 * rlOf i + 1

/-- Exchanges of the step that are decided. -/
def decidedCount (t : Step) : Nat := if t.stepX then 1 + t.decided.length else 0

/-- The exchange counter of exchange n of a pen's present step (R196). -/
def xOf (p : Pkg) (n k : Nat) : Nat := (penOf p n).groupStep * exchangesOf (imageOf p n) + k

/-- The receiver's current exchange counter. -/
def xNow (p : Pkg) (n : Nat) : Nat := xOf p n (match (penOf p n).step with | some t => decidedCount t | none => 0)

/-- The exchange number of a routing entry and half. -/
def exNo (e h : Nat) : Nat := 2 * e + 1 + h

/-- Slots of a half: the first one and how many (R195). -/
def halfSlots (i : Image) (h : Nat) : Nat × Nat :=
  let a := ceilDiv i.batchSlots 2
  if h = 0 then (0, a) else (a, i.batchSlots - a)

/-- Position indices of a half whose slots hold a request (R194). -/
def routedPositions (i : Image) (t : Step) (h : Nat) : List Nat :=
  let (first, count) := halfSlots i h
  (upto (count * i.positions)).filter fun k => (tget none t.slots (first + k / i.positions)).isSome

/-- The member number of this package in a pen's group. -/
def meOf (p : Pkg) (n : Nat) : Nat := ownMember (penOf p n)

/-- Members of a pen's group. -/
def groupCount (p : Pkg) (n : Nat) : Nat := max 1 (penOf p n).groupSize

/-! ### Selection (R190 to R194) -/

/-- A score of a position: FP32 at its place in SCORE_BUF, a NaN mapped to -infinity (R190, R191). -/
def scoreAt (p : Pkg) (n : Nat) (e h pos x : Nat) : Word32 :=
  let i := imageOf p n
  let r := routingNow p n
  let pans := ceilDiv r.experts 128
  let tile := h * ceilDiv (halfPositions i) 128 + pos / 128
  let at_ := (tile * pans + x / 128) * 65536 + pos % 128 * 512 + x % 128 * 4
  let w := BitVec.ofNat 32 (leNat (bufGet p n (entryNow p n e).scoreBuf at_ 4))
  if isNan w then fNegInf else w

/-- The gates of a selection, by rank (R192). -/
def gatesFor (mode : Nat) (ss : List Word32) : List Word32 :=
  if mode = 0 then
    let m := ss.headD 0#32
    if isFinite m then
      let es := ss.map fun s => exp32 (fsub s m)
      let l := es.foldl fadd 0#32
      es.map fun x => fdiv x l
    else
      let same (s : Word32) : Bool := decide (s = m)
      let c := (ss.filter same).length
      ss.map fun s => if same s then toF32 (vdiv vOne (.fin false c 0)) else 0#32
  else
    let l := ss.foldl fadd 0#32
    if isPos l then ss.map fun s => fdiv s l else ss.map fun _ => 0#32

/-- The selection of one position: higher scores first, then lower experts (R191). -/
def chooseExperts (p : Pkg) (n e h pos : Nat) : Choice :=
  let r := routingNow p n
  let all := (upto r.experts).map fun x => (x, scoreAt p n e h pos x)
  let top := (sortBy (fun a b => flt b.2 a.2) all).take r.topK
  { experts := top.map Prod.fst, gates := gatesFor r.gateMode (top.map Prod.snd) }

/-- The key of a choice (Step.choices). -/
def choiceKey (e h pos : Nat) : Nat := e * 2 ^ 17 + h * 2 ^ 16 + pos

/-- COUNT_e for every expert (Table 6-2). -/
def countsOf (experts : Nat) (cs : List Choice) : List Nat :=
  (upto experts).map fun x => (cs.filter fun c => decide (x ∈ c.experts)).length

/-- The route sorter completes a half's selection: its choices, and the counts that SELECT_BUF then holds (R193). DESIGN CHOICE: they stand in
the step job, and no byte of the buffer changes, since no table lays the buffer out (log entry 43). -/
def selectHalf (p : Pkg) (n e h : Nat) : Pkg :=
  match (penOf p n).step with
  | none => p
  | some t =>
    let cs := (routedPositions (imageOf p n) t h).map fun pos => (choiceKey e h pos, chooseExperts p n e h pos)
    let s : Sorted := { counts := countsOf (routingNow p n).experts (cs.map Prod.snd) }
    modStep p n fun y =>
      { y with
        choices := cs.foldl (fun m c => tset none m c.1 (some c.2)) y.choices, selected := y.selected ++ [2 * e + h]
        sorted := tset {} y.sorted (2 * e + h) s }

/-- Pairs of a position and its choice in a half, ascending: those selected, whatever their slots hold since (R204). -/
def choicesOf (t : Step) (e h : Nat) : List (Nat × Choice) :=
  t.choices.filterMap fun c => if choiceKey e h 0 ≤ c.1 ∧ c.1 < choiceKey e h 65536 then c.2.map fun x => (c.1 - choiceKey e h 0, x) else none

/-! ### Stores to members (R198, R199) -/

/-- The bytes of an exchange-space address of a pen. -/
def exAddr (chip space n off : Nat) : Nat := gaddr chip 4 (space * 2 ^ 44 + n * 2 ^ 40 + off)

/-- A board slot of an exchange counter and member (R199). -/
def boardSlot (p : Pkg) (n x m : Nat) : Nat := x % 2 * groupCount p n + m

/-- The other members of a pen's group that the table names, with their chips. -/
def peersOf (p : Pkg) (n : Nat) : List (Nat × Nat) :=
  if (penOf p n).groupSize ≤ 1 then [] else (members (penOf p n)).filter fun m => decide (m.1 ≠ meOf p n)

/-- The bytes of a count record (Table 6-2), padded to whole 8-byte words. -/
def recordBytes (p : Pkg) (step : Bool) (r : CountRec) : Bytes :=
  let b := toLE 8 (epochOf p) ++ toLE 8 r.x ++ toLE 2 r.member ++ toLE 1 ((if step then 0 else 1) + 2 * bitN r.wide) ++ zeros 5 ++
    toLE 8 r.earliest ++ toLE 4 r.positionsIn ++ toLE 4 (sumL r.counts) ++ zeros 24 ++ r.counts.flatMap (toLE 2)
  b ++ zeros (roundUp b.length 8 - b.length)

/-- Bytes of the board that an arrival fills (R198, R199). -/
def boardPut (p : Pkg) (n off : Nat) (b : Bytes) : Pkg :=
  match (imageOf p n).routing with
  | some r => bufPut p n r.boardBuf off b fun _ => 0
  | none => p

/-- Keep a record in place of an older one of its exchange and member (R200). A group of one sends none, so its board gets no bytes: it decides
from its own counts (R197). -/
def keepRecord (p : Pkg) (n : Nat) (r : CountRec) : Pkg :=
  let b := recordBytes p (decide (r.x % exchangesOf (imageOf p n) = 0)) r
  let q := if 1 < groupCount p n then boardPut p n (8192 * boardSlot p n r.x r.member) b else p
  modPen q n fun x => { x with records := (x.records.filter fun y => !decide (y.x = r.x ∧ y.member = r.member)) ++ [r] }

/-- The 8 bytes of a marker (Table 6-3). -/
def markBytes (m : Mark) : Bytes := toLE 4 m.x ++ toLE 3 m.round ++ toLE 1 (bitN m.last)

/-- Keep a marker. -/
def keepMark (p : Pkg) (n : Nat) (m : Mark) : Pkg :=
  modPen (boardPut p n (8192 * boardSlot p n m.x m.member + 8128 + 8 * m.kind) (markBytes m)) n fun x => { x with marks := (x.marks.filter fun y => decide (y ≠ m)) ++ [m] }

/-- Send this member's record of an exchange to every member, itself included (R196, R197, R199). -/
def sendRecord (p : Pkg) (n : Nat) (step : Bool) (r : CountRec) : Pkg :=
  let b := recordBytes p step r
  let p1 := forAll (peersOf p n) (fun q m =>
    fwStore q (256 + n) m.2 (exAddr m.2 1 n (8192 * boardSlot q n r.x r.member)) true b) p
  keepRecord p1 n r

/-- Send a marker to every member, itself included (R199). -/
def sendMark (p : Pkg) (n kind x round : Nat) (last : Bool) : Pkg :=
  let me := meOf p n
  let b := markBytes { kind := kind, member := me, x := x, round := round, last := last }
  let p1 := forAll (peersOf p n) (fun q m =>
    fwStore q (256 + n) m.2 (exAddr m.2 1 n (8192 * boardSlot q n x me + 8128 + 8 * kind)) true b) p
  keepMark p1 n { kind := kind, member := me, x := x % 2 ^ 32, round := round, last := last }

/-- A marker of a member has been sampled. -/
def marked (p : Pkg) (n kind m x round : Nat) : Bool :=
  (penOf p n).marks.any fun y => decide (y.kind = kind ∧ y.member = m ∧ y.x = x % 2 ^ 32 ∧ y.round = round)

/-- The last COMBINE_MARK of an exchange has been sampled from a member. -/
def markedLast (p : Pkg) (n m x : Nat) : Bool :=
  (penOf p n).marks.any fun y => decide (y.kind = 2 ∧ y.member = m ∧ y.x = x % 2 ^ 32) && y.last

/-! ### Records that arrive (R201) -/

/-- The record that bytes hold. -/
def recordOf (p : Pkg) (n : Nat) (b : Bytes) : CountRec :=
  let step := !bitOf (fieldAt b 18 1) 0
  { x := fieldAt b 8 8, member := fieldAt b 16 2 % 4096, wide := bitOf (fieldAt b 18 1) 1, earliest := fieldAt b 24 8
    positionsIn := fieldAt b 32 4
    counts := if step then [] else (upto (routingNow p n).experts).map fun e => fieldAt b (64 + 2 * e) 2
    at_ := now p }

/-- The first failing condition of R201, 1 to 9, of a record in a slot. -/
def recordBad (p : Pkg) (n slot : Nat) (b : Bytes) : Option Nat :=
  let r := recordOf p n b
  let step := decide (r.x % exchangesOf (imageOf p n) = 0)
  let conds :=
    [ decide (fieldAt b 0 8 = epochOf p), decide (r.x = xNow p n ∨ r.x = xNow p n + 1),
      decide (r.member = slot % groupCount p n), decide (bitOf (fieldAt b 18 1) 0 = !step),
      decide (fieldAt b 16 2 < 4096 ∧ fieldAt b 18 1 < 4) && zeroAt b 19 5 && zeroAt b 40 24,
      r.counts.all fun c => decide (c ≠ 0xFFFF), decide (fieldAt b 36 4 = sumL r.counts),
      r.counts.all fun c => decide (c ≤ r.positionsIn), decide (r.positionsIn ≤ 65534) ]
  (conds.findIdx? fun c => !c).map (· + 1)

/-! ### Deciding the rounds (R202, R205, R215) -/

/-- The records of an exchange counter, in member order. -/
def recordsOf (p : Pkg) (n x : Nat) : List CountRec :=
  sortBy (fun a b => decide (a.member < b.member)) ((penOf p n).records.filter fun r => decide (r.x = x))

/-- Every member's record of an exchange has arrived. -/
def recordsIn (p : Pkg) (n x : Nat) : Bool :=
  let rs := recordsOf p n x
  (upto (groupCount p n)).all fun m => rs.any fun r => decide (r.member = m)

/-- An exchange of an entry goes wide for the rest of the step, and a segment that stands at RECV_GATE in its narrow run goes over to
the wide one (R215). The entry is recorded by its number, 1 to RL (R196, R218). -/
def wideEntryOp (p : Pkg) (n e : Nat) : Pkg :=
  if e ∈ (stepNow p n).entriesWide then p
  else
    let p1 := log (modStep p n fun t => { t with entriesWide := t.entriesWide ++ [e] }) codeExchangeWide 0 (e + 1) 0 0
    moveWaiting p1 n (entryNow p1 n e).recvGate

/-- SPILL_ROUNDS, at most once per pen in 10,000 ticks; the entry is recorded by its number, 1 to RL (R196, R205, R218). -/
def logSpill (p : Pkg) (n e h rounds top : Nat) : Pkg :=
  if mayLog (penOf p n).spillLogAt (now p) then
    log (modPen p n fun x => { x with spillLogAt := some (now p) }) codeSpillRounds 0 (e + 1 + 65536 * h) rounds top
  else p

/-- Decide the step exchange: T0 is the larger of the largest EARLIEST and the next tick (R186). -/
def decideStepX (p : Pkg) (n : Nat) : Pkg :=
  let e := (recordsOf p n (xOf p n 0)).foldl (fun m r => max m r.earliest) 0
  let t0 := if (penOf p n).groupSize ≤ 1 then e else max e (now p + 1)
  modStep p n fun t => { t with stepX := true, t0 := t0 }

/-- Decide the exchange of an entry and half (R202, R205, R215). -/
def decideRouting (p : Pkg) (n e h : Nat) : Pkg :=
  let i := imageOf p n
  let x := xOf p n (exNo e h)
  let rs := recordsOf p n x
  let sums := (upto (routingNow p n).experts).map fun k => sumL (rs.map fun r => r.counts.getD k 0)
  let top := sums.foldl max 0
  let rounds := max 1 (ceilDiv top i.recvCapacity)
  let wide := (rs.any fun r => r.wide) || decide (e ∈ (stepNow p n).entriesWide)
  let p1 := modStep p n fun t =>
    { t with decided := t.decided ++ [{ x := x, entry := e, half := h, rounds := rounds, wide := wide, n := sums, at_ := now p }] }
  let p2 := if wide then wideEntryOp p1 n e else p1
  if 1 < rounds then
    logSpill (modPen p2 n fun y => { y with stepEnd := y.stepEnd + (rounds - 1) * i.roundTicks }) n e h rounds top
  else p2

/-- Decide the current exchange if every record of it has arrived. -/
def decideNext (p : Pkg) (n : Nat) : Pkg :=
  match (penOf p n).step with
  | none => p
  | some t =>
    let k := decidedCount t
    if k < exchangesOf (imageOf p n) ∧ recordsIn p n (xOf p n k) then
      if k = 0 then decideStepX p n else decideRouting p n ((k - 1) / 2) ((k - 1) % 2)
    else p

/-! ### Dispatch (R203, R206 to R209, R215) -/

/-- The row of an expert: source position, rank j and slot row index in rounds. -/
structure RowOf where
  pos : Nat
  rank : Nat
  expert : Nat
  rho : Nat
deriving DecidableEq, Repr

/-- This member's rows of an exchange, in list order, with their ranks within their experts (R203). -/
def rowsOf (p : Pkg) (n : Nat) (d : Decided) : List RowOf :=
  let cs := choicesOf (stepNow p n) d.entry d.half
  let before (e : Nat) : Nat :=
    sumL (((recordsOf p n d.x).filter fun r => decide (r.member < meOf p n)).map fun r => r.counts.getD e 0)
  let pairs := cs.flatMap fun c => (c.2.experts.zip (upto c.2.experts.length)).map fun e => (c.1, e.2, e.1)
  pairs.map fun a =>
    let q := (cs.filter fun c => decide (c.1 < a.1 ∧ a.2.2 ∈ c.2.experts)).length
    { pos := a.1, rank := a.2.1, expert := a.2.2, rho := before a.2.2 + q }

/-- The format and scheme of an exchange's rows (R209, R215). -/
def exFormat (p : Pkg) (n e : Nat) (wide : Bool) : Nat × Nat :=
  if wide then (0, 0) else let r := (imageOf p n).recs.getD (entryNow p n e).dispatchLayer {}; (r.oFmt, r.oSch)

/-- Bytes of a row segment and of its scale entry, as DISP_BUF holds them: half, tile of 128 positions, panel, row (log entry 21). -/
def dispRow (p : Pkg) (n e h f s pos pan : Nat) : Bytes × Bytes :=
  let hp := (routingNow p n).hiddenPanels
  let pb := panelBytes 128 f s
  let tile := h * ceilDiv (halfPositions (imageOf p n)) 128 + pos / 128
  let at_ := (tile * hp + pan) * pb
  let b := (entryNow p n e).dispBuf
  (bufGet p n b (at_ + pos % 128 * segBytes f) (segBytes f), bufGet p n b (at_ + 128 * segBytes f + pos % 128 * scBytes s) (scBytes s))

/-- The BF16 codes of a narrow row segment, exactly: each element times its applied scale, each lifted value at its index (R215). -/
def widenRow (f s : Nat) (base : Int) (seg side : Bytes) : Bytes :=
  let scale : Val := if s = 3 then scalePow (e4m3Scale (fieldAt side 0 1)) base else vOne
  let lifted := if s = 3 then liftedOf side else []
  (upto 128).flatMap fun c =>
    let v : Val := match lifted.find? fun l => decide (l.1 = c) with
      | some l => l.2
      | none => match decodeEl f s (elCode f seg c) with | some x => vmul x scale | none => .fin false 0 0
    toLE 2 (convertFp fmtBF16 v).code

/-- The record under which a half's run of a layer was released, whatever a later run of the layer has (R98, R215); the one in force for a
run that has not been. -/
def halfRec (i : Image) (t : Step) (layer h : Nat) : LRec := (tget none t.runRecs (2 * layer + h)).getD (recOf i t layer)

/-- What one row sends for a panel, in the format of the exchange: from its half's run of DISPATCH_LAYER (R206, R215). -/
def pieceBytes (p : Pkg) (n : Nat) (d : Decided) (pos pan : Nat) : Bytes :=
  let r := halfRec (imageOf p n) (stepNow p n) (entryNow p n d.entry).dispatchLayer d.half
  let (seg, side) := dispRow p n d.entry d.half r.oFmt r.oSch pos pan
  if d.wide && decide (r.oFmt ≠ 0) then widenRow r.oFmt r.oSch r.base seg side else seg ++ side

/-- The tag of a row (R206). -/
def tagBytes (me pos rank : Nat) : Bytes := toLE 8 (pos + rank * 2 ^ 16 + me * 2 ^ 32)

/-- Where a row goes in its region: region, expert slot, tile and row (R203, R207, R208). -/
structure Place where
  region : Nat
  slot : Nat
  tile : Nat
  row : Nat
deriving DecidableEq, Repr

def placeOf (i : Image) (epm : Nat) (d : Decided) (a : RowOf) : Place :=
  let k := a.rho % max 1 i.recvCapacity
  { region := 2 * d.half + a.rho / max 1 i.recvCapacity % 2, slot := a.expert % max 1 epm, tile := k / 128, row := k % 128 }

/-- Bytes of a receive region (Table 6-4). -/
def regionSize (p : Pkg) (n : Nat) : Nat := regionBytes (routingNow p n) (imageOf p n).recvCapacity

/-- Write one piece of a row in its receive region. DESIGN CHOICE: the base exponent of an S3 row is the one in force for the receiver's own
DISPATCH_LAYER at its arrival, since the piece carries none (R207; log entry 43). -/
def writePiece (p : Pkg) (n e f s : Nat) (a : Place) (pan : Nat) (b : Bytes) : Pkg :=
  let i := imageOf p n
  let r := routingNow p n
  let at_ := a.region * regionSize p n + (a.slot * (i.recvCapacity / 128) + a.tile) * (r.hiddenPanels * 32768) + pan * panelBytes 128 f s
  let buf := (entryNow p n e).recvBuf
  let base := (recOf i (stepNow p n) (entryNow p n e).dispatchLayer).base
  let p1 := bufPut p n buf (at_ + a.row * segBytes f) (b.take (segBytes f)) fun _ => 0
  bufPut p1 n buf (at_ + 128 * segBytes f + a.row * scBytes s) (b.drop (segBytes f)) fun _ => base

/-- Write a tag run in its receive region (Table 6-4). -/
def writeTags (p : Pkg) (n e region slot row : Nat) (b : Bytes) : Pkg :=
  let i := imageOf p n
  let r := routingNow p n
  let tiles := r.epm * (i.recvCapacity / 128) * (r.hiddenPanels * 32768)
  bufPut p n (entryNow p n e).recvBuf (region * regionSize p n + tiles + (slot * i.recvCapacity + row) * 8) b fun _ => 0

/-- Send one row: its pieces and its tag (R206, R207). -/
def sendRow (p : Pkg) (n : Nat) (d : Decided) (a : RowOf) : Pkg :=
  let i := imageOf p n
  let r := routingNow p n
  let (f, s) := exFormat p n d.entry d.wide
  let dst := a.expert / max 1 r.epm
  let at_ := placeOf i r.epm d a
  let tag := tagBytes (meOf p n) a.pos a.rank
  let tc := i.recvCapacity / 128
  let row := at_.tile * 128 + at_.row
  if dst = meOf p n then
    let p1 := forAll (upto r.hiddenPanels) (fun q k => writePiece q n d.entry f s at_ k (pieceBytes q n d a.pos k)) p
    writeTags p1 n d.entry at_.region at_.slot row tag
  else match memberChip (penOf p n) dst with
    | none => p
    | some chip =>
      let p1 := forAll (upto r.hiddenPanels) (fun q k =>
        let m := (((at_.region * r.epm + at_.slot) * tc + at_.tile) * r.hiddenPanels + k) * 128 + at_.row
        fwStore q (256 + n) chip (exAddr chip 2 n (256 * m)) false (pieceBytes q n d a.pos k)) p
      fwStore p1 (256 + n) chip (exAddr chip 2 n (2 ^ 39 + 8 * ((at_.region * r.epm + at_.slot) * i.recvCapacity + row))) false tag

/-- Rows of a round. -/
def rowsIn_ (p : Pkg) (n : Nat) (d : Decided) (round : Nat) : List RowOf :=
  (rowsOf p n d).filter fun a => decide (a.rho / max 1 (imageOf p n).recvCapacity = round)

/-- Every member that receives rows of a round has freed the region two rounds before (R212). -/
def maySend (p : Pkg) (n : Nat) (d : Decided) (round : Nat) : Bool :=
  decide (round < 2) || (rowsIn_ p n d round).all fun a =>
    marked p n 1 (a.expert / max 1 (routingNow p n).epm) d.x (round - 2)

/-- Change a decided exchange. -/
def modDecided (p : Pkg) (n x : Nat) (f : Decided → Decided) : Pkg :=
  modStep p n fun t => { t with decided := t.decided.map fun d => if d.x = x then f d else d }

/-- Send the next round of an exchange, its rows and then its DISPATCH_MARK (R206). -/
def sendRound (p : Pkg) (n : Nat) (d : Decided) : Pkg :=
  let p1 := forAll (rowsIn_ p n d d.sent) (fun q a => sendRow q n d a) p
  modDecided (sendMark p1 n 0 d.x d.sent false) n d.x fun y => { y with sent := y.sent + 1 }

/-- The tick at which COMB_GATE falls due, once every member's last COMBINE_MARK has been sampled (R214). -/
def dueOf (p : Pkg) (n : Nat) (d : Decided) : Nat :=
  if d.combineDue = 0 ∧ (upto (groupCount p n)).all fun m => markedLast p n m d.x then now p + 8 else d.combineDue

/-- Send the next round of every exchange that may send one, from the tick after its decision on (R203, R212), and note the gates
that fall due. -/
def sendNext (p : Pkg) (n : Nat) : Pkg :=
  let p1 := forAll (stepNow p n).decided (fun q d =>
    if d.sent < d.rounds ∧ d.at_ < now q ∧ maySend q n d d.sent = true then sendRound q n d else q) p
  modStep p1 n fun t => { t with decided := t.decided.map fun d => { d with combineDue := dueOf p1 n d } }

/-- What the tick after a decision begins: the dispatch of its rounds (R203). -/
def sendWaiting (p : Pkg) (n : Nat) : Nat → Pkg
  | 0 => p
  | k + 1 =>
    let q := sendNext p n
    if (stepNow q n).decided = (stepNow p n).decided then q else sendWaiting q n k

/-- One round of what records and markers allow. -/
def drive1 (p : Pkg) (n : Nat) : Pkg := sendNext (decideNext p n) n

/-- Everything that the records and markers in hand allow; the fuel bounds the exchanges decided and rounds sent at once. -/
def drive (p : Pkg) (n : Nat) : Nat → Pkg
  | 0 => p
  | k + 1 =>
    let q := drive1 p n
    if (stepNow q n).decided = (stepNow p n).decided ∧ (stepNow q n).stepX = (stepNow p n).stepX then q else drive q n k

/-- The fuel of drive: more than the rounds of any exchange in hand. -/
def driveFuel (p : Pkg) (n : Nat) : Nat := 2 + sumL ((stepNow p n).decided.map (·.rounds)) + 70000

/-! ### Arrivals (R199, R207, R213) -/

/-- A count record arrives on the board (R200, R201). -/
def recordIn (p : Pkg) (n slot : Nat) (b : Bytes) : Pkg :=
  match recordBad p n slot b with
  | some k => log p codeExchangeRecordInvalid n n (slot % groupCount p n) k
  | none => let q := keepRecord p n (recordOf p n b); drive q n (driveFuel q n)

/-- A marker arrives on the board. -/
def markIn (p : Pkg) (n kind slot w : Nat) : Pkg :=
  let m : Mark :=
    { kind := kind, member := slot % groupCount p n, x := w % 2 ^ 32, round := bitsOf w 55 32, last := bitOf w 56 }
  let q := keepMark p n m
  drive q n (driveFuel q n)

/-- The routing entry that arrivals of a half belong to: the first whose exchange of the half is not finished. -/
def entryOfHalf (t : Step) (h : Nat) (done : Decided → Bool) : Nat × Bool :=
  match t.decided.find? fun d => decide (d.half = h) && !done d with
  | some d => (d.entry, d.wide)
  | none =>
    let e := (t.decided.filter fun d => decide (d.half = h)).length
    (e, decide (e ∈ t.entriesWide))

/-- All rounds of an exchange have passed RECV_GATE. -/
def allGated (d : Decided) : Bool := decide (d.rounds ≤ d.gated)

/-- An exchange of an entry and half that is not decided here yet, so that a peer which has decided it may send wide rows (R207, R215). -/
def undecided (t : Step) (e h : Nat) : Bool := !(t.decided.any fun d => decide (d.entry = e ∧ d.half = h))

/-- A dispatch piece arrives: refused with LENGTH_INVALID, or written. Before the local decision the piece's size says whether the
exchange is wide (R207, R215). -/
def pieceIn (p : Pkg) (n off : Nat) (b : Bytes) : Nat × Pkg :=
  let i := imageOf p n
  let r := routingNow p n
  let tc := i.recvCapacity / 128
  let k := off / 256
  let row := k % 128
  let pan := k / 128 % max 1 r.hiddenPanels
  let tile := k / 128 / max 1 r.hiddenPanels % max 1 tc
  let slot := k / 128 / max 1 r.hiddenPanels / max 1 tc % max 1 r.epm
  let region := k / 128 / max 1 r.hiddenPanels / max 1 tc / max 1 r.epm
  let (e, wide) := entryOfHalf (stepNow p n) (region / 2) allGated
  let (f0, s0) := exFormat p n e wide
  let early := undecided (stepNow p n) e (region / 2) && decide (b.length = segBytes 0 ∧ b.length ≠ segBytes f0 + scBytes s0)
  let (f, s) := if early then (0, 0) else (f0, s0)
  if i.routing.isNone ∨ off % 256 ≠ 0 ∨ 4 ≤ region ∨ b.length ≠ segBytes f + scBytes s then (stLengthInvalid, p)
  else (stOk, writePiece p n e f s { region := region, slot := slot, tile := tile, row := row } pan b)

/-- A tag run arrives: refused with LENGTH_INVALID, or written (R207). -/
def tagsIn (p : Pkg) (n off : Nat) (b : Bytes) : Nat × Pkg :=
  let i := imageOf p n
  let r := routingNow p n
  let k := off / 8
  let row := k % max 1 i.recvCapacity
  let slot := k / max 1 i.recvCapacity % max 1 r.epm
  let region := k / max 1 i.recvCapacity / max 1 r.epm
  let (e, _) := entryOfHalf (stepNow p n) (region / 2) allGated
  if i.routing.isNone ∨ off % 8 ≠ 0 ∨ b.length % 8 ≠ 0 ∨ b.length = 0 ∨ 4 ≤ region ∨ i.recvCapacity < row + b.length / 8 ∨
      256 < off % 256 + b.length then
    (stLengthInvalid, p)
  else (stOk, writeTags p n e region slot row b)

/-- Bytes of one half of COMB_BUF (R213). -/
def combHalf (p : Pkg) (n : Nat) : Nat :=
  ceilDiv (halfPositions (imageOf p n) * (routingNow p n).topK) 128 * ((routingNow p n).hiddenPanels * 65536)

/-- A combine store arrives: refused beyond the buffer, or written (R198, R213). -/
def combineIn (p : Pkg) (n off : Nat) (b : Bytes) : Nat × Pkg :=
  let h := off / max 1 (combHalf p n)
  let (e, _) := entryOfHalf (stepNow p n) h (·.combined)
  let buf := (entryNow p n e).combBuf
  if (imageOf p n).routing.isNone ∨ ((imageOf p n).relocs.getD buf {}).bytes < off + b.length then (stLengthInvalid, p)
  else (stOk, bufPut p n buf off b fun _ => 0)

/-! ### The router's run is released (R193, R195, R196, R215) -/

/-- This member's routing record of an entry and half. -/
def ownRecord (p : Pkg) (n e h : Nat) : CountRec :=
  let t := stepNow p n
  { x := xOf p n (exNo e h), member := meOf p n
    wide := decide ((entryNow p n e).dispatchLayer ∈ t.widened ∨ e ∈ t.entriesWide), earliest := 0
    positionsIn := (choicesOf t e h).length, counts := (tget {} t.sorted (2 * e + h)).counts, at_ := now p }

/-- Select a half and send its record. -/
def openExchange (p : Pkg) (n e h : Nat) : Pkg :=
  if 2 * e + h ∈ (stepNow p n).selected then p
  else let q := selectHalf p n e h; sendRecord q n false (ownRecord q n e h)

/-- A run of a router layer is released: the next half of its entry opens its exchange; an empty half B opens with half A
(R195; log entry 22). -/
def routerReleased (p : Pkg) (n layer : Nat) : Pkg :=
  let es := (routingNow p n).entries
  match es.findIdx? fun e => decide (e.routerLayer = layer) with
  | none => p
  | some e =>
    let h := if 2 * e ∈ (stepNow p n).selected then 1 else 0
    let p1 := openExchange p n e h
    let p2 := if (imageOf p n).batchSlots = 1 then openExchange p1 n e 1 else p1
    drive p2 n (driveFuel p2 n)

/-! ### Expert runs are released (R212, R213) -/

/-- The lowest-numbered buffer that a layer's STOREs write. -/
def outBufOf (i : Image) (layer : Nat) : Nat :=
  let bs := ((layerWrites i none).filter fun x => decide (x.1 = layer)).map (·.2.1)
  match firstBy (fun a b => decide (a < b)) bs with | some b => b | none => 0

/-- The row of an expert slot that COMBINE_LAYER has written, one panel of it: half, slot, tile, panel, row (log entry 21). -/
def outRow (p : Pkg) (n : Nat) (d : Decided) (f slot row pan : Nat) : Bytes :=
  let i := imageOf p n
  let r := routingNow p n
  let tile := (d.half * r.epm + slot) * (i.recvCapacity / 128) + row / 128
  bufGet p n (outBufOf i (entryNow p n d.entry).combineLayer)
    ((tile * r.hiddenPanels + pan) * (128 * segBytes f) + row % 128 * segBytes f) (segBytes f)

/-- Where a combined row's segment lies in COMB_BUF (R213). -/
def combAt (p : Pkg) (n h f k pan : Nat) : Nat :=
  let hp := (routingNow p n).hiddenPanels
  h * combHalf p n + k / 128 * (hp * 65536) + pan * (128 * segBytes f) + k % 128 * segBytes f

/-- Send back the output of one received row to the source that its tag names (R213). -/
def sendBack (p : Pkg) (n : Nat) (d : Decided) (f slot row : Nat) : Pkg :=
  let i := imageOf p n
  let r := routingNow p n
  let region := 2 * d.half + d.released % 2
  let tiles := r.epm * (i.recvCapacity / 128) * (r.hiddenPanels * 32768)
  let tag := leNat (bufGet p n (entryNow p n d.entry).recvBuf (region * regionSize p n + tiles + (slot * i.recvCapacity + row) * 8) 8)
  let k := tag % 65536 * r.topK + bitsOf tag 20 16
  let m := bitsOf tag 43 32
  forAll (upto r.hiddenPanels) (fun q pan =>
    let b := outRow q n d f slot row pan
    let at_ := combAt q n d.half f k pan
    if m = meOf q n then bufPut q n (entryNow q n d.entry).combBuf at_ b fun _ => 0
    else match memberChip (penOf q n) m with
      | none => q
      | some chip =>
        forAll ((chunks 256 (ceilDiv b.length 256) b).zip (upto (ceilDiv b.length 256)))
          (fun z c => fwStore z (256 + n) chip (exAddr chip 3 n (at_ + 256 * c.2)) false c.1) q) p

/-- Occupied rows of each expert slot of this member in a round (R203, R211). -/
def slotRows (p : Pkg) (n : Nat) (d : Decided) (round : Nat) : List Nat :=
  let i := imageOf p n
  let r := routingNow p n
  (upto r.epm).map fun x => min i.recvCapacity (d.n.getD (meOf p n * r.epm + x) 0 - round * i.recvCapacity)

/-- The expert runs of a round are released: FREE_MARK, the combine rows and COMBINE_MARK (R212, R213). -/
def expertsReleased (p : Pkg) (n layer : Nat) : Pkg :=
  match (stepNow p n).decided.find? fun d => decide ((entryNow p n d.entry).combineLayer = layer ∧ d.released < d.gated) with
  | none => p
  | some d =>
    let f := (recOf (imageOf p n) (stepNow p n) layer).oFmt
    let p1 := sendMark p n 1 d.x d.released false
    let rows := ((slotRows p n d d.released).zip (upto (routingNow p n).epm)).flatMap fun x => (upto x.1).map fun k => (x.2, k)
    let p2 := forAll rows (fun q k => sendBack q n d f k.1 k.2) p1
    let p3 := sendMark p2 n 2 d.x d.released (decide (d.released + 1 = d.rounds))
    let p4 := modDecided p3 n d.x fun y => { y with released := y.released + 1 }
    drive p4 n (driveFuel p4 n)

/-! ### Combining (R192, R214) -/

/-- One element of a combined row (R214). -/
def combineEl (p : Pkg) (n : Nat) (d : Decided) (f pos : Nat) (c : Choice) (pan col : Nat) : Word32 :=
  let r := routingNow p n
  (c.gates.zip (upto r.topK)).foldl (fun acc g =>
    let at_ := combAt p n d.half f (pos * r.topK + g.2) pan + col * (elBits f / 8)
    let v := decodeEl f 0 (leNat (bufGet p n (entryNow p n d.entry).combBuf at_ (elBits f / 8)))
    match v with
    | some x => fadd acc (toF32 (vmul (f32 g.1) x))
    | none => acc) 0#32

/-- The combined row of a position, one panel of it, in OUT_FMT; zero for a position that was not routed (R194, R214). -/
def combinedRow (p : Pkg) (n : Nat) (d : Decided) (f outFmt pos pan : Nat) : Bytes :=
  match tget none (stepNow p n).choices (choiceKey d.entry d.half pos) with
  | none => zeros (segBytes outFmt)
  | some c =>
    (upto 128).flatMap fun col =>
      let v := combineEl p n d f pos c pan col
      if outFmt = 2 then toLE 4 v.toNat else toLE 2 (convertFp fmtBF16 (f32 v)).code

/-- The route sorter writes every combined row of a half to OUT_BUF (R214). -/
def combineHalf (p : Pkg) (n : Nat) (d : Decided) : Pkg :=
  let i := imageOf p n
  let r := routingNow p n
  let e := entryNow p n d.entry
  let f := (recOf i (stepNow p n) e.combineLayer).oFmt
  let sb := segBytes e.outFmt
  let count := (halfSlots i d.half).2 * i.positions
  forAll ((upto count).flatMap fun pos => (upto r.hiddenPanels).map fun pan => (pos, pan)) (fun q k =>
    let tile := d.half * ceilDiv (halfPositions i) 128 + k.1 / 128
    bufPut q n e.outBuf ((tile * r.hiddenPanels + k.2) * (128 * sb) + k.1 % 128 * sb) (combinedRow q n d f e.outFmt k.1 k.2)
      fun _ => 0) p

end Sys2Proof.Machine
end

