-- ==== Sys2Proof/Machine/FetchOps.lean ====
section
/-! DEFINITION. Shared operations of the Fetch unit: slot words, candidates, selection, speculation and the generator (R303 to
R310, R366). -/

namespace Sys2Proof.Machine

/-! ### Shards and slot words (R303, R304) -/

/-- Tokens of a member's shard: its first token and how many. -/
def shardOf (p : Pkg) (n m : Nat) : Nat × Nat :=
  let i := imageOf p n
  let v := ceilDiv i.vocab (groupCount p n)
  (m * v, min ((m + 1) * v) i.vocab - m * v)

/-- The bytes of a Fetch-space address of a pen. -/
def fetchAddr (chip n kind off : Nat) : Nat := gaddr chip 4 (4 * 2 ^ 44 + n * 2 ^ 40 + kind * 2 ^ 36 + off)

/-- The slot word of a slot of the running step (Table 9-7). -/
def slotWordOf (t : Step) (s : Nat) : Nat :=
  match tget none t.slots s with
  | none => 0
  | some u => (tget {} t.samples s).temp.toNat + u.used * 2 ^ 32 + bitN u.select * 2 ^ 35

/-- A slot word arrives, refused beyond the space (R366). -/
def slotWordIn (p : Pkg) (n off w : Nat) : Nat × Pkg :=
  if off % 8 ≠ 0 ∨ groupCount p n * (imageOf p n).batchSlots ≤ off / 8 then (stLengthInvalid, p)
  else if bitsOf w 34 32 = 7 ∨ (imageOf p n).positions < bitsOf w 34 32 then (stLengthInvalid, p)
  else (stOk, modPen p n fun x => { x with slotWords := tset 0 x.slotWords (off / 8) w })

/-- Send this member's slot words to every member, itself included (R304). -/
def sendSlotWords (p : Pkg) (n : Nat) : Pkg :=
  forAll (upto (imageOf p n).batchSlots) (fun q s =>
    let g := meOf q n * (imageOf q n).batchSlots + s
    let w := slotWordOf (stepNow q n) s
    let q1 := forAll (peersOf q n) (fun r m => fwStore r (256 + n) m.2 (fetchAddr m.2 n 0 (8 * g)) true (toLE 8 w)) q
    (slotWordIn q1 n (8 * g) w).2) p

/-! ### Candidates (R303, R305) -/

/-- A logit of this member's shard, as its logits run left it in the OUTPUT buffer; a NaN counts as -infinity. -/
def logitAt (p : Pkg) (n g q h col : Nat) : Word32 :=
  let i := imageOf p n
  let rows := groupCount p n * i.batchSlots * i.positions * i.positions
  let row := (g * i.positions + q) * i.positions + h
  let buf := (i.relocs.findIdx? fun r => decide (r.kind = 4)).getD 0
  let w := BitVec.ofNat 32 (leNat (bufGet p n buf (col / 128 * (rows * 512) + row * 512 + col % 128 * 4) 4))
  if isNan w then fNegInf else w

/-- Larger values first, ties to the lower token. -/
def candBefore (a b : Nat × Word32) : Bool := flt b.2 a.2 || (!flt a.2 b.2 && decide (a.1 < b.1))

/-- The zero test of an FP32 value. -/
def isZero32 (w : Word32) : Bool := decide (w.toNat % 2 ^ 31 = 0)

/-- A main row of the shard: m_s, z_s and the candidates (R305). -/
def mainRow (temp : Word32) (xs : List (Nat × Word32)) : Word32 × Word32 × List (Nat × Word32) :=
  let ys := xs.map fun x =>
    let y := if isZero32 temp then x.2 else fdiv x.2 temp
    (x.1, if isNan y then fNegInf else y)
  let m := ys.foldl (fun a y => fmax a y.2) fNegInf
  let z := if m = fNegInf then 0#32 else ys.foldl (fun a y => fadd a (exp32 (fsub y.2 m))) 0#32
  (m, z, (sortBy candBefore ys).take 64)

/-- The bytes of a candidate record (Table 9-8). -/
def candBytes (step slot pos row sender : Nat) (m z : Word32) (l : List (Nat × Word32)) : Bytes :=
  toLE 4 step ++ toLE 2 slot ++ toLE 1 (pos + 8 * row) ++ toLE 1 l.length ++ toLE 2 sender ++ zeros 2 ++ toLE 4 m.toNat ++
    toLE 4 z.toNat ++ zeros 12 ++ l.flatMap fun c => toLE 4 c.1 ++ toLE 4 c.2.toNat

/-- The record of a row of a member's group slot (R305). -/
def candFor (p : Pkg) (n m s q h : Nat) (temp : Word32) : Bytes :=
  let (lo, count) := shardOf p n (meOf p n)
  let g := m * (imageOf p n).batchSlots + s
  let xs := (upto count).map fun c => (lo + c, logitAt p n g q h c)
  let step := (penOf p n).groupStep % 2 ^ 32
  if h = 0 then
    let r := mainRow temp xs
    candBytes step s q 0 (meOf p n) r.1 r.2.1 r.2.2
  else candBytes step s q h (meOf p n) 0#32 0#32 ((sortBy candBefore xs).take 1)

/-- The place of a record in the Fetch space (R366). -/
def candIndex (p : Pkg) (n s q h m : Nat) : Nat :=
  let k := (imageOf p n).positions
  ((s * k + q) * k + h) * groupCount p n + m

/-- The record that bytes hold. -/
def candOf (p : Pkg) (b : Bytes) : Cand :=
  { slot := fieldAt b 4 2, pos := bitsOf (fieldAt b 6 1) 2 0, row := bitsOf (fieldAt b 6 1) 5 3, sender := fieldAt b 8 2 % 4096
    maxv := BitVec.ofNat 32 (fieldAt b 12 4), sum := BitVec.ofNat 32 (fieldAt b 16 4)
    list := (upto (fieldAt b 7 1 % 128)).map fun k => (fieldAt b (32 + 8 * k) 3, BitVec.ofNat 32 (fieldAt b (36 + 8 * k) 4))
    at_ := now p }

/-- Two records of the same row from the same sender. -/
def sameCand (a b : Cand) : Bool := decide (a.slot = b.slot ∧ a.pos = b.pos ∧ a.row = b.row ∧ a.sender = b.sender)

/-- COUNT of a record that R14 to R16 refuse: all ones, above 64, beyond the record's own bytes, or 0 from a member whose shard is not empty
(Table 9-8). -/
def candCountBad (p : Pkg) (n : Nat) (b : Bytes) : Bool :=
  let k := fieldAt b 7 1 % 128
  decide (64 < k ∨ b.length < 32 + 8 * k) || (decide (k = 0) && decide ((shardOf p n (fieldAt b 8 2 % 4096)).2 ≠ 0))

/-- A candidate record arrives: refused when its place is not its own, discarded when its step is not the present one, else kept
(R308, R366). -/
def candIn (p : Pkg) (n off : Nat) (b : Bytes) : Nat × Pkg :=
  let i := imageOf p n
  let c := candOf p b
  if groupCount p n * i.batchSlots * i.positions * i.positions ≤ off / 1024 then (stLengthInvalid, p)
  else if candCountBad p n b then (stLengthInvalid, p)
  else if off ≠ 1024 * candIndex p n c.slot c.pos c.row c.sender ∨ i.positions ≤ c.pos ∨ i.positions ≤ c.row ∨
      groupCount p n ≤ c.sender then (stFormatInvalid, p)
  else if fieldAt b 0 4 ≠ (penOf p n).groupStep % 2 ^ 32 then (stOk, p)
  else (stOk, modStep p n fun t => { t with cands := (t.cands.filter fun y => !sameCand y c) ++ [c] })

/-- Send the records of every row that the slot words ask for, this member's own slots included (R304, R305). -/
def sendCands (p : Pkg) (n : Nat) : Pkg :=
  let i := imageOf p n
  let rows := (upto (groupCount p n)).flatMap fun m => (upto i.batchSlots).flatMap fun s =>
    let w := tget 0 (penOf p n).slotWords (m * i.batchSlots + s)
    if bitOf w 35 then (upto (bitsOf w 34 32)).flatMap fun q => (upto i.positions).map fun h => (m, s, q, h, w % 2 ^ 32) else []
  forAll rows (fun q x =>
    let b := candFor q n x.1 x.2.1 x.2.2.1 x.2.2.2.1 (BitVec.ofNat 32 x.2.2.2.2)
    let off := 1024 * candIndex q n x.2.1 x.2.2.1 x.2.2.2.1 (meOf q n)
    if x.1 = meOf q n then (candIn q n off b).2
    else match memberChip (penOf q n) x.1 with
      | some chip => fwStore q (256 + n) chip (fetchAddr chip n 1 off) true b
      | none => q) p

/-! ### Selection (R306, R307) -/

/-- The mixing function of the generator (R307). -/
def mix64 (z : Nat) : Nat :=
  let a := (z ^^^ (z >>> 30)) * 0xBF58476D1CE4E5B9 % 2 ^ 64
  let b := (a ^^^ (a >>> 27)) * 0x94D049BB133111EB % 2 ^ 64
  b ^^^ (b >>> 31)

/-- draw(seed, n, 0) as FP32 (R307). -/
def draw32 (seed k : Nat) : Word32 :=
  let r := mix64 ((seed + (k * 16 + 1) * 0x9E3779B97F4A7C15) % 2 ^ 64)
  toF32 (.fin false (r / 2 ^ 40) (-24))

/-- The merge of the shards: M, Z and the 64 largest candidates (R306). -/
def mergeShards (rs : List Cand) : Word32 × Word32 × List (Nat × Word32) :=
  let m := rs.foldl (fun a r => fmax a r.maxv) fNegInf
  let z := rs.foldl (fun a r => if r.maxv = fNegInf then a else fadd a (fmul r.sum (exp32 (fsub r.maxv m)))) 0#32
  (m, z, (sortBy candBefore (rs.flatMap (·.list))).take 64)

/-- The repetition penalty over the merged candidates (R306). -/
def penalise (x : Sample) (m z : Word32) (recent : List Nat) (cs : List (Nat × Word32)) : Word32 × List (Nat × Word32) :=
  cs.foldl (fun (a : Word32 × List (Nat × Word32)) c =>
    if c.1 ∈ recent ∧ x.repPenalty ≠ fOne then
      let y := if flt 0#32 c.2 then fdiv c.2 x.repPenalty else fmul c.2 x.repPenalty
      let z1 := if flt 0#32 x.temp then fadd (fsub a.1 (exp32 (fsub c.2 m))) (exp32 (fsub y m)) else a.1
      (z1, a.2 ++ [(c.1, y)])
    else (a.1, a.2 ++ [c])) (z, [])

/-- The shortest prefix whose running sum reaches a bound, or all of a list (R306). -/
def topPrefix (bound : Word32) : Word32 → List (Nat × Word32) → List (Nat × Word32)
  | _, [] => []
  | s, c :: t => let s1 := fadd s c.2; if !flt s1 bound && !isNan s1 then [c] else c :: topPrefix bound s1 t

/-- The first candidate at which the running sum passes a threshold, else the last (R306). -/
def pickAt (t : Word32) : Word32 → List (Nat × Word32) → Nat
  | _, [] => 0
  | s, c :: r => let s1 := fadd s c.2; if flt t s1 then c.1 else if r.isEmpty then c.1 else pickAt t s1 r

/-- Select a main row from the shards' records, in member order: the token, and whether Z was not finite and positive (R306). -/
def selectRow (x : Sample) (seed : Nat) (hist : List Nat) (rs : List Cand) : Nat × Bool :=
  let (m, z0, c0) := mergeShards rs
  let recent := hist.drop (hist.length - x.repWindow)
  let (z, cs) := penalise x m z0 recent c0
  let bad := !isPos z
  if isZero32 x.temp || bad then (((firstBy candBefore cs).getD (0, 0#32)).1, bad)
  else
    let ps := sortBy candBefore (cs.map fun c => (c.1, fdiv (exp32 (fsub c.2 m)) z))
    let k1 := ps.take (if x.topK = 0 then 64 else x.topK)
    let thr := fmul x.minP (k1.headD (0, 0#32)).2
    let k2 := if flt 0#32 x.minP then k1.filter fun c => !flt c.2 thr && !isNan c.2 else k1
    let k3 := if flt x.topP fOne then topPrefix x.topP 0#32 k2 else k2
    let s := k3.foldl (fun a c => fadd a c.2) 0#32
    (pickAt (fmul (draw32 seed hist.length) s) 0#32 k3, bad)

/-- The records of a row of a slot, in member order. -/
def candRows (t : Step) (s q h : Nat) : List Cand :=
  sortBy (fun a b => decide (a.sender < b.sender)) (t.cands.filter fun c => decide (c.slot = s ∧ c.pos = q ∧ c.row = h))

/-- Every record that a slot waits for is in (R305, R308). -/
def candsIn (p : Pkg) (n s : Nat) (u : SlotUse) : Bool :=
  (upto u.used).all fun q => (upto (imageOf p n).positions).all fun h =>
    decide ((candRows (stepNow p n) s q h).length = groupCount p n)

/-! ### Speculation (R298, R309) -/

/-- A token is a valid stop token of a context (R298). -/
def stopToken (c : Ctx) (tok : Nat) : Bool := c.stops.any fun e => bitOf e.2 31 && decide (e.2 % 2 ^ 24 = tok)

/-- The token ends a turn as the last of a history (R298). -/
def endsTurn (p : Pkg) (r : Req) (hist : List Nat) (tok : Nat) : Bool :=
  stopToken (ctxOf p r.ctx) tok || decide (r.limit ≤ hist.length)

/-- What the acceptance loop finds: tokens to deliver, drafts matched, the position of the last row, whether the turn ended, and
the history indices of degenerate selections. -/
structure Accepted where
  tokens : List Nat
  matched : Nat
  pos : Nat
  fin : Bool
  degen : List Nat
deriving DecidableEq, Repr

/-- The acceptance loop of R309 from draft k on; the fuel is the drafts fed that are left. -/
def accept (p : Pkg) (n s : Nat) (r : Req) (q0 : Nat) : Nat → Nat → List Nat → Accepted
  | 0, k, hist =>
    let x := selectRow (tget {} (stepNow p n).samples s) r.seed hist (candRows (stepNow p n) s (q0 + k) 0)
    { tokens := [x.1], matched := k, pos := q0 + k, fin := endsTurn p r (hist ++ [x.1]) x.1, degen := if x.2 then [hist.length] else [] }
  | f + 1, k, hist =>
    let x := selectRow (tget {} (stepNow p n).samples s) r.seed hist (candRows (stepNow p n) s (q0 + k) 0)
    let fin := endsTurn p r (hist ++ [x.1]) x.1
    let degen := if x.2 then [hist.length] else []
    if fin || decide (r.drafts[k]? ≠ some x.1) then
      { tokens := [x.1], matched := k, pos := q0 + k, fin := fin, degen := degen }
    else
      let y := accept p n s r q0 f (k + 1) (hist ++ [x.1])
      { y with tokens := x.1 :: y.tokens, degen := degen ++ y.degen }

/-- The drafts for the next step: the head candidates of a row's position (R309). -/
def nextDrafts (p : Pkg) (n s q spec : Nat) : List Nat :=
  (upto (min spec ((imageOf p n).positions - 1))).filterMap fun h =>
    (firstBy candBefore ((candRows (stepNow p n) s q (h + 1)).flatMap (·.list))).map Prod.fst

/-- FETCH_DEGENERATE, recorded at most once in 10,000 ticks (R313). -/
def noteDegenerate (p : Pkg) (e k : Nat) : Pkg :=
  let r := reqOf p e
  let q := { p with rq := { p.rq with degenerate := inc64 p.rq.degenerate } }
  if mayLog p.rq.degenLogAt (now p) then
    log { q with rq := { q.rq with degenLogAt := some (now p) } } codeFetchDegenerate r.ctx (r.ctx + 256 * r.pen) (handleOf p e) k
  else q

/-- Select for a slot whose records are all in (R306, R308, R309). -/
def selectSlot (p : Pkg) (n s : Nat) (u : SlotUse) : Pkg :=
  let r := reqOf p u.entry
  let q0 := if u.dec then 0 else u.used - 1
  let x := accept p n s r q0 (if u.dec then u.used - 1 else 0) 0 r.hist
  let last := (stepNow p n).cands.foldl (fun m c => if c.slot = s then max m c.at_ else m) 0
  let lat := now p - last
  let sel : Selection :=
    { tokens := x.tokens, matched := x.matched, drafts := if x.fin then [] else nextDrafts p n s x.pos r.spec }
  let p1 := modStep p n fun t => { t with chosen := tset none t.chosen s (some sel) }
  let p2 := { p1 with
    rq := { p1.rq with
            selected := satAdd sat64 p1.rq.selected x.tokens.length, latMax := max p1.rq.latMax (min 255 lat)
            overrun := if 7 < lat then inc32 p1.rq.overrun else p1.rq.overrun } }
  forAll x.degen (fun q k => noteDegenerate q u.entry k) p2

end Sys2Proof.Machine
end

