-- ==== Sys2Proof/Machine/StepOps.lean ====
section
/-! DEFINITION. Shared operations of step jobs: filling a step, set-up, release, the runs of segments, barriers, the decision of
layer runs, and retirement (R95 to R101, R128, R146, R155, R162 to R164, R177 to R189, R292, R293, R326 to R332). -/

namespace Sys2Proof.Machine

/-! ### Filling a step (R292, R293, R326, R329, R338) -/

/-- The slots that a request would feed, from a number of slots (R293). -/
def planSlots (p : Pkg) (n e k : Nat) : List SlotUse :=
  let r := reqOf p e
  let pos := positionsOf p n
  if r.st = rqDecode then
    [{ entry := e, first := r.hist.length - 1, used := min pos (1 + r.drafts.length), select := true, dec := true }]
  else (upto k).map fun j =>
    let a := r.kvDone + j * pos
    { entry := e, first := a, used := min pos (r.hist.length - a), select := decide (r.hist.length ≤ a + pos), dec := false }

/-- What a set-up has placed so far. -/
structure Fill where
  next : Nat := 0
  slots : Tab (Option SlotUse) := []
  placed : List Nat := []
  pins : List Nat := []
  /-- The first request left out for lack of frames, and how many it lacks. -/
  short : Option (Nat × Nat) := none

/-- The frames of the parts that a request's streams read (R185). -/
def streamFrames (p : Pkg) (e stop : Nat) : List Nat :=
  let r := reqOf p e
  let last := ceilDiv stop (pageSize p r.pen) * gOf (poolOf p r.pen)
  r.parts.filterMap fun x => match x.2 with
    | .frame f => if x.1 < last then some f else none
    | _ => none

/-- Reserve the TOKENS slot of a request (R267, R424). -/
def takeTokSlot (p : Pkg) (e : Nat) : Pkg :=
  let r := reqOf p e
  let p1 := modReq p e fun x => { x with tokSlot := true }
  if r.hound then modBind p1 r.ctx fun b => { b with tq := { b.tq with reserved := b.tq.reserved + 1 } }
  else modCtx p1 r.ctx fun c => { c with reserved := c.reserved + 1 }

/-- Place a request whose frames it has, in the slots given. -/
def placeReq (p : Pkg) (n : Nat) (f : Fill) (e : Nat) (ss : List Nat) (us : List SlotUse) (stop : Nat) : Pkg × Fill :=
  let p1 := takeTokSlot (growBlocks p e) e
  let p2 := modReq p1 e fun r => { r with inStep := true }
  let p3 := modCtx p2 (reqOf p2 e).ctx fun c => { c with placedAt := now p + 1 }
  let fs := streamFrames p3 e stop
  (modPool p3 n fun o => fs.foldl pinFrame o,
    { f with
      next := f.next + ss.length, placed := f.placed ++ [e], pins := f.pins ++ fs
      slots := (ss.zip us).foldl (fun t x => tset none t x.1 (some x.2)) f.slots })

/-- Try to place one request: in slots given, or in the next ones of the batch (R292, R326). -/
def placeOne (n : Nat) (acc : Pkg × Fill) (x : Nat × Option (List Nat)) : Pkg × Fill :=
  let (p, f) := acc
  let e := x.1
  let r := reqOf p e
  let ss := match x.2 with
    | some l => l
    | none => (upto (min (slotsOf p e) (batchOf p n - f.next))).map (· + f.next)
  let us := planSlots p n e ss.length
  let first := match us with | u :: _ => u.first | [] => 0
  let stop := min 1048576 (first + us.length * positionsOf p n)
  let need := framesNeeded p e first stop
  let o := poolOf p n
  let avail := freeFrames o - (o.reserved - r.reserved)
  let out (k : Nat) : Fill := if f.short.isSome then f else { f with short := some (e, k) }
  if ss.isEmpty || !tokenRoom p r then acc
  else if 0 < need ∧ (f.short.isSome ∨ avail < need) then (p, out (need - avail))
  else match growFor p e first stop with
    | some q => placeReq q n f e ss us stop
    | none => (p, out need)

/-- The requests of a step that a fault ended, with their slots, as far as they would feed the same tokens again (R189). -/
def rerunList (p : Pkg) (n : Nat) : List (Nat × Option (List Nat)) :=
  let old := (penOf p n).rerun
  let es := (old.filterMap fun x => x.2.map (·.entry)).eraseDups
  (es.map fun e => (e, old.filter fun x => decide (x.2.map (·.entry) = some e))).filterMap fun x =>
    if eligible p x.1 && decide ((planSlots p n x.1 x.2.length).map some = x.2.map Prod.snd) then some (x.1, some (x.2.map Prod.fst))
    else none

/-- Fill the slots of a pen's step: the step that a fault ended again, else the eligible requests in order (R189, R292, R326). -/
def fillStep (p : Pkg) (n : Nat) : Pkg × Fill :=
  let again := rerunList p n
  let list := if again.isEmpty then (eligibleOf p n).map fun e => (e, none) else again
  list.foldl (placeOne n) (p, {})

/-! ### Set-up, release and start (R164, R179, R184 to R186) -/

/-- A segment's constant data in local SRAM (R153, R185). -/
def withConsts (i : Image) (seg : Nat) (d : ArrData) : ArrData :=
  let s := i.segs.getD seg {}
  sramPut d (32 * s.constLaddr) ((i.consts.drop s.constFirst).take s.constBytes) fun _ => 0

/-- An array takes its segments, the lower-numbered first (R178, R179, R185). DESIGN CHOICE: the spec does not say which local SRAM each
segment of a folded array finds at the next step job; both start from that of the segment active last, and the saved copy is dropped
(log entry 42). -/
def loadArr (i : Image) (x : Arr) (segs : List Nat) : Arr :=
  let start (s : Nat) : SegRun := enterNormal i {} { seg := s, pc := (i.segs.getD s {}).wordFirst }
  match segs with
  | [] => { x with runs := [], active := 0, saved := none }
  | s :: rest =>
    { x with
      runs := (s :: rest).map start, active := 0, data := withConsts i s (freshData x.data)
      saved := rest.head?.map fun s2 => withConsts i s2 (freshData x.data) }

/-- Segments placed on an array, ascending. -/
def segsOn (x : Pen) (a : Nat) : List Nat := tkeys (fun _ v => decide (v = a + 1)) x.place

/-- What a set-up reads first of the replica it chose: a host's payload, or the header that checks a peer entry again (R240, R242). -/
def fetchFirst (p : Pkg) (r : Nat) : Pkg :=
  let x := replicaOf p r
  if x.kind = 2 then readReplica p x 0 x.length else readHeader p x

/-- The peer entries among the replicas chosen (R240). -/
def peersAmong (p : Pkg) (reps : Tab Nat) : List Nat :=
  ((reps.map fun e => e.2 - 1).filter fun r => decide ((replicaOf p r).kind = 1)).eraseDups

/-- The classes and the slower-tier replicas of a pen's shards for the next step (R159, R241, R243). -/
def chooseShards (p : Pkg) (n : Nat) : Pkg × Tab Nat :=
  let cls := classesNow p n
  let q := modPen p n fun x => { x with cls := cls }
  let es := (imageOf p n).shards
  let slow := (upto es.length).filter fun k => decide (cls.getD k 0 = 1 ∧ 0 < (es.getD k {}).reads)
  slow.foldl (fun acc k =>
    match (replicasFor acc.1 (es.getD k {})).head? with
    | some r => (fetchFirst acc.1 r, tset 0 acc.2 k (r + 1))
    | none => acc) (q, [])

/-- Buffers with PERSIST = 0 hold undefined contents at the start of a step job: their bytes become free values of a new period
(R158; log entry 10). -/
def freshBuffers (p : Pkg) (n : Nat) : Pkg :=
  let g := p.freeCtr + 1
  nextFree (modPen p n fun x =>
    { x with
      bufs := tmap {} (fun k b =>
        if b = {} ∨ ((imageOf p n).relocs.getD k {}).persist = true then b else { ({} : Buf) with gen := g }) x.bufs })

/-- Begin the set-up of a pen's step (R185): placement, filling, the shards' sources with the prediction that follows from them (R182), the arrays
and the streams. With no request placed, no step
starts, and the requests left out begin pre-emption. -/
def setupStart (p : Pkg) (n : Nat) : Pkg :=
  let p1 := if (penOf p n).replace then placePen p n else p
  let p2 := if (penOf p1 n).countEpoch = epochOf p1 then p1
    else modPen p1 n fun x => { x with groupStep := 0, countEpoch := epochOf p1 }
  let (p3, f) := fillStep p2 n
  let starved (q : Pkg) : Pkg := match f.short with
    | some (e, k) => preemptFor (logStarved q e k) e k f.placed
    | none => q
  let p3 := forAll (((entriesOfPen p3 n).filter (lacksSlot p3)).map fun e => (reqOf p3 e).ctx) stallCtx p3
  let p3 := forAll (ctxsOfPen p3 n ++ (entriesOfPen p3 n).map fun e => (reqOf p3 e).ctx).eraseDups judgeTq p3
  if f.placed.isEmpty then starved p3
  else
    let i := imageOf p3 n
    let (p4, reps) := chooseShards p3 n
    let p4 := predHere p4 n
    let o := poolOf p4 n
    let smp (s : Nat × Option SlotUse) : Sample := match s.2 with
      | some u => let r := reqOf p4 u.entry; tget {} (ctxOf p4 r.ctx).sampling r.sampling
      | none => {}
    let t : Step :=
      { start := now p4, slots := f.slots, placed := f.placed, pins := f.pins, replicas := reps
        unchecked := peersAmong p4 reps
        samples := f.slots.foldl (fun m s => tset {} m s.1 (smp s)) []
        tails := f.placed.map fun e => (e, (reqOf p4 e).tail)
        evict := o.evict, sink := o.sink, window := o.window, budget := o.budget }
    let p5 := modPen (freshBuffers p4 n) n fun x => { x with step := some t, rerun := [] }
    let p6 := forAll (setOf p5 n) (fun q a => modArr q a fun x => loadArr i x (segsOn (penOf p5 n) a)) p5
    starved p6

/-- Set-up is complete (R185, R186, R196, R304): slot words, then the step record. -/
def setupDone (p : Pkg) (n : Nat) : Pkg :=
  let p1 := modStep p n fun t => { t with setupDone := true, earliest := now p + 1 }
  let p2 := sendSlotWords p1 n
  let r : CountRec :=
    { x := xOf p2 n 0, member := meOf p2 n, wide := false, earliest := now p + 1, positionsIn := 0, counts := [], at_ := now p }
  let p3 := sendRecord p2 n true r
  drive p3 n (driveFuel p3 n)

/-- The step is released at T0 (R186, R297). -/
def stepRelease (p : Pkg) (n : Nat) : Pkg :=
  modPen (modStep p n fun t => { t with released := true }) n fun x =>
    { x with stepEnd := (match x.step with | some t => t.t0 | none => 0) + x.pred }

/-- The start tick of a segment (R164). -/
def segStart (p : Pkg) (n s : Nat) : Nat :=
  let i := imageOf p n
  (stepNow p n).t0 + (i.stagger.getD s 0 + i.phase * chipNo p) % 129

/-- The active run of an array starts. -/
def startSeg (p : Pkg) (a : Nat) : Pkg := modArr p a fun x => modRun x fun r => { r with started := true }

/-- A folded array switches to its other segment (R179). -/
def switchSeg (p : Pkg) (a : Nat) : Pkg :=
  modArr p a fun x => { x with active := 1 - x.active, data := x.saved.getD {}, saved := some x.data }

/-- The active segment of a folded array has ended or waits, and the other has not ended. -/
def maySwitch (x : Arr) : Bool :=
  let r := runOf x
  let o := x.runs.getD (1 - x.active) {}
  decide (x.runs.length = 2) && r.started && (r.ended || r.held || r.waitFor.isSome) && !o.ended

/-! ### Barriers (R128, R155) -/

/-- A barrier's generation completes, and the runs that wait for it go on. -/
def completeGen (p : Pkg) (n b : Nat) : Pkg :=
  let g := tget 0 (stepNow p n).barGen b + 1
  let p1 := modStep p n fun t => { t with barGen := tset 0 t.barGen b g }
  modSetRuns p1 n (fun r => match r.waitFor with | some (c, k) => decide (c = b ∧ k ≤ g) | none => false)
    (fun r => { r with waitFor := none }) fun _ d => d

/-- Every member segment of a barrier has arrived for its next generation. -/
def arrivedAll (p : Pkg) (n b : Nat) : Bool :=
  let g := tget 0 (stepNow p n).barGen b
  let i := imageOf p n
  let mem := (i.barriers.getD b {}).members
  (upto i.segs.length).all fun s => !bitOf mem s ||
    (runsOfPen p n).any fun r => decide (r.seg = s ∧ g < tget 0 r.arrs b)

/-- Arrive at a barrier. -/
def arrive (r : SegRun) (b : Nat) : SegRun := { r with arrs := tset 0 r.arrs b (tget 0 r.arrs b + 1) }

/-- Wait for the next generation of a barrier that the segment has not waited for, and for a BARRIER no earlier than the one arrived at;
it may be complete already. -/
def await (t : Step) (r : SegRun) (b : Nat) (arrived : Bool) : SegRun :=
  let k := max (tget 0 r.waits b + 1) (if arrived then tget 0 r.arrs b else 0)
  let r1 := { r with waits := tset 0 r.waits b k }
  if k ≤ tget 0 t.barGen b then r1 else { r1 with waitFor := some (b, k) }

/-- A SYNC that drains, arrives or waits, and then goes on to the next word (R128). -/
def syncOp (p : Pkg) (a : Nat) (arr wait : Bool) : Pkg :=
  let b := syncBar (nextWord p a)
  let t := stepNow p (penOfArr p a)
  wordDone (modArr p a fun x => modRun x fun r =>
    let r1 := if arr then arrive r b else r
    if wait then await t r1 b arr else r1) a

/-- SYNC LAYER_END: arrive at the gate and hold (R146). -/
def layerEndOp (p : Pkg) (a : Nat) : Pkg :=
  let b := syncBar (nextWord p a)
  modArr p a fun x => modRun x fun r => { arrive r b with held := true }

/-- Every run of a pen's step has ended (R147, R179). -/
def allEnded (p : Pkg) (n : Nat) : Bool := (runsOfPen p n).all (·.ended)

/-- SYNC END: with the last one of the step, the Fetch unit sends its candidates (R147, R305). -/
def endOp (p : Pkg) (a : Nat) : Pkg :=
  let n := penOfArr p a
  let p1 := modArr p a fun x => modRun x fun r => { r with ended := true }
  if allEnded p1 n then sendCands p1 n else p1

/-- SCORE arms the word that follows it (R129). -/
def scoreOp (p : Pkg) (a : Nat) : Pkg := wordDone (modArr p a fun x => modRun x fun r => { r with armed := true }) a

/-! ### The decision of a layer run (R95 to R102, R146) -/

/-- A run is in trouble (R96). -/
def inTrouble (r : LRec) (s : Summary) : Bool :=
  decide (s.nConv < (s.sat + s.ovf) * 2 ^ (if r.tExp = 0 then 12 else r.tExp))

/-- The segments of a layer's run are all held at its LAYER_END (R146). -/
def layerHeld (p : Pkg) (n layer : Nat) : Bool :=
  let i := imageOf p n
  let segs := (upto i.segs.length).filter fun s => hasRun i s layer
  !segs.isEmpty && segs.all fun s => (runsOfPen p n).any fun r => decide (r.seg = s) && heldAt i layer r

/-- The gate that the LAYER_END words of a held layer name. -/
def gateOfLayer (p : Pkg) (n layer : Nat) : Nat :=
  let i := imageOf p n
  match (runsOfPen p n).find? (heldAt i layer) with
  | some r => syncBar (i.words.getD r.pc 0)
  | none => 0

/-- Record an event of a layer run (R102). -/
def logLayer (p : Pkg) (n layer code : Nat) (s : Summary) : Pkg :=
  let r := recOf (imageOf p n) (stepNow p n) layer
  log p code 0 (layer + r.clip * 65536 + (r.base % 256).toNat * 16777216) (s.sat + s.ovf) s.nConv

/-- The run is released: its gate completes, its segments go on with their masks reset, and what waits for the layer begins (R97, R107,
R133, R146, R193, R212). -/
def releaseLayer (p : Pkg) (n layer : Nat) : Pkg :=
  let i := imageOf p n
  let p1 := modStep (completeGen p n (gateOfLayer p n layer)) n fun t =>
    inputDone { t with
                summary := tset {} t.summary layer {}
                runRecs := match (runsOfPen p n).find? (heldAt i layer) with
                  | some r => if r.round = 0 then tset none t.runRecs (2 * layer + tget 0 r.runsDone layer) (some (recOf i t layer)) else t.runRecs
                  | none => t.runRecs } layer
  let t := stepNow p1 n
  let p2 := modSetRuns p1 n (heldAt i layer) (fun r => nextRun i t r layer)
    fun r => if (nextRun i t r layer).wide then freshData else freshMasks
  expertsReleased (routerReleased p2 n layer) n layer

/-- The run starts again on its retained input: its summary is that of the kind of run to come (R95, R97, R98, R115). -/
def replayLayer (p : Pkg) (n layer kind : Nat) : Pkg :=
  let i := imageOf p n
  let p1 := modStep p n fun t =>
    inputAgain { t with summary := tset {} t.summary layer { ({} : Summary) with kind := kind } } layer
  restartRuns p1 n (heldAt i layer) fun _ => layer

/-- The first trouble of a layer in a step: lower the clip exponent or raise the base exponent, and replay (R98). A replay after the
step's first trouble lengthens the step by the replay reserve (R100). -/
def rescale (p : Pkg) (n layer : Nat) (r : LRec) (s : Summary) : Pkg :=
  let first := ((stepNow p n).troubles).isEmpty
  let p1 := modStep p n fun t =>
    { t with
      troubles := tset 0 t.troubles layer 1
      clip := if 0 < s.ovf ∧ 0 < r.clip then tset (((imageOf p n).recs.getD layer {}).clip) t.clip layer (r.clip - 1) else t.clip
      base := if 0 < s.ovf ∧ 0 < r.clip then t.base
        else tset (((imageOf p n).recs.getD layer {}).base) t.base layer (min (r.base + 1) 63) }
  let p2 := modPen p1 n fun x => { x with stepEnd := if first then x.stepEnd else x.stepEnd + (imageOf p n).replayTicks }
  let p3 := if mayLog (penOf p2 n).replayLogAt (now p2) then
      logLayer (modPen p2 n fun x => { x with replayLogAt := some (now p2) }) n layer codeLayerReplay s
    else p2
  replayLayer p3 n layer 1

/-- A further trouble: the layer goes wide for the rest of the step, and the consumers' runs that wait on its gate go over to their wide
runs. By how much the step lengthens is open (R99, R100; log entry 10). -/
def widenLayer (p : Pkg) (n layer : Nat) (s : Summary) : Pkg :=
  let p1 := modStep p n fun t => { t with troubles := tset 0 t.troubles layer 2, widened := t.widened ++ [layer] }
  let p2 := nextFree (modPen p1 n fun x => { x with stepEnd := x.stepEnd + (Config.freeWord p1.freeCtr).toNat })
  let p3 := moveWaiting p2 n (gateOfLayer p2 n layer)
  replayLayer (logLayer p3 n layer codeLayerWidened s) n layer 2

/-- The layer-done event and the firmware's decision (R95, R98). -/
def layerDoneOp (p : Pkg) (n layer : Nat) : Pkg :=
  let t := stepNow p n
  let r := recOf (imageOf p n) t layer
  let s := { tget {} t.summary layer with clip := r.clip, base := r.base }
  let p1 := modStep p n fun y => { y with done := tset {} y.done layer s }
  if !inTrouble r s then releaseLayer p1 n layer
  else if r.wide || decide (r.oSch ≠ 3) then
    let p2 := if layer ∈ t.wideTrouble then p1
      else logLayer (modStep p1 n fun y => { y with wideTrouble := y.wideTrouble ++ [layer] }) n layer codeWideTrouble s
    releaseLayer p2 n layer
  else if tget 0 t.troubles layer = 0 then rescale p1 n layer r s
  else widenLayer p1 n layer s

/-! ### Retirement (R188, R293, R298, R309, R327) -/

/-- The select slot of a request in a step, with its selection. -/
def selectionOf (t : Step) (e : Nat) : Option (SlotUse × Selection) :=
  (t.slots.filterMap fun x => match x.2, tget none t.chosen x.1 with
    | some u, some s => if u.entry = e ∧ u.select then some (u, s) else none
    | _, _ => none).head?

/-- Every SELECT slot has been selected (R293). -/
def allChosen (t : Step) : Bool :=
  t.slots.all fun x => match x.2 with | some u => !u.select || (tget none t.chosen x.1).isSome | none => true

/-- The first history index that a request has not fed after a step (R327). -/
def fedEnd (t : Step) (e : Nat) : Nat :=
  t.slots.foldl (fun m x => match x.2 with | some u => if u.entry = e then max m (u.first + u.used) else m | none => m) 0

/-- KV of a request at retirement: what it keeps, its page scores and its evictions (R327, R330, R332). -/
def retireKv (p : Pkg) (t : Step) (e : Nat) : Pkg :=
  let done := match selectionOf t e with
    | some (u, s) => if u.dec then u.first + 1 + s.matched else fedEnd t e
    | none => fedEnd t e
  let p1 := modReq (modReq p e fun r => { r with kvDone := max r.kvDone done }) e fun r => { r with tail := trimTail r }
  let mine := t.masses.filter fun m => decide (m.1 / 2 ^ 17 = e)
  evictReq (growBlocks (forAll mine (fun q m => addMass q e (m.1 % 2 ^ 17) m.2) p1) e) e t

/-- A turn ends (R298): the request is DONE, or PAUSED for REQ_CTX_TURN_TTL. -/
def turnEnd (p : Pkg) (e : Nat) : Pkg :=
  let r := reqOf p e
  let ttl := (ctxOf p r.ctx).turnTtl
  let p1 := modReq p e fun x => { x with turnEnded := true }
  if ttl = 0 then endReq p1 e (okStatus r)
  else
    let until_ := now p + ttl
    pauseReq (logEvent p1 r.ctx (evStatus codeTurnEnd) codeTurnEnd (handleOf p e) (r.ctx + 256 * r.pen) (handleOf p e) until_) e rqDecode until_

/-- Deliver a request's tokens (R293, R295, R298, R309). -/
def deliver (p : Pkg) (e : Nat) (s : Selection) : Pkg :=
  let r := reqOf p e
  let p1 := modReq p e fun x =>
    { x with
      st := rqDecode, prev := rqDecode, hist := x.hist ++ s.tokens, delivered := (x.delivered + s.tokens.length) % 2 ^ 32, drafts := s.drafts
      nextDl := dlAfter p x.interval, tokSlot := false }
  let b := tokenBytes p1 e s.tokens
  let p2 := if r.hound then pushTok p1 r.ctx b else pushCq p1 r.ctx b false
  let p3 := growBlocks p2 e
  let tok := s.tokens.getLastD 0
  if endsTurn p3 (reqOf p3 e) (reqOf p3 e).hist tok then turnEnd p3 e else p3

/-- Retire one request of a step that retires by its step-done event (R188, R287, R299, R327). -/
def retireOne (p : Pkg) (t : Step) (e : Nat) : Pkg :=
  let p1 := modReq p e fun r => { r with steps := (r.steps + 1) % 2 ^ 32 }
  let sel := selectionOf t e
  let p2 := match sel with
    | some (u, s) => if u.dec then
        { p1 with rq := { p1.rq with proposed := satAdd sat64 p1.rq.proposed (u.used - 1), accepted := satAdd sat64 p1.rq.accepted s.matched } }
      else p1
    | none => p1
  let p3 := retireKv p2 t e
  if (reqOf p3 e).st = rqDraining then retireReq (dropTokSlot p3 e) e
  else
    let p4 := match sel with
      | some (_, s) => deliver p3 e s
      | none => dropTokSlot p3 e
    retireReq p4 e

/-- Positions that each context fed in a step (R407). -/
def fedBy_ (p : Pkg) (t : Step) : List (Nat × Nat) :=
  let one (x : Nat × Option SlotUse) : Option (Nat × Nat) := x.2.map fun u => ((reqOf p u.entry).ctx, u.used)
  let all := t.slots.filterMap one
  ((all.map Prod.fst).eraseDups).map fun c => (c, sumL ((all.filter fun y => decide (y.1 = c)).map Prod.snd))

/-- The step-done event (R188). Requests retire in ascending order of their entries (R68). -/
def stepDoneOp (p : Pkg) (n : Nat) : Pkg :=
  let t := stepNow p n
  let fed := fedBy_ p t
  let next := xOf p n (exchangesOf (imageOf p n))
  let p1 := haltArrays p n
  let p2 := modPen p1 n fun x =>
    { x with
      step := none, rerun := [], stepEnd := 0, stepCount := inc64 x.stepCount, groupStep := x.groupStep + 1, props := fed, marks := []
      records := x.records.filter fun r => decide (next ≤ r.x) }
  let p2 := if (penOf p2 n).st = penActive ∧ (penOf p2 n).countEpoch = epochOf p2 then p2 else newCount p2 n
  let p3 := { p2 with lsh := { p2.lsh with trotUntil := now p2 + 10000 } }
  let p4 := forAll (sortBy (fun a b => decide (a < b)) t.placed) (fun q e => retireOne q t e) p3
  modPool p4 n fun o => t.pins.foldl unpinFrame o

end Sys2Proof.Machine
end

