-- ==== Sys2Proof/Machine/ArrayFam.lean ====
section
/-! DEFINITION. Meanings of the array words: a command runs the next word of an array when its operation is the word's (R107 to
R147). -/

namespace Sys2Proof.Machine

/-- MMA (R118); it waits for bytes of a channel not yet delivered (R114). -/
def execMma (array : Nat) (s : State) : Host.Outcome State Fault Refusal :=
  act (atWord s.pkg array 1) (fun p => (mmaOp p array).getD p) s

/-- FUSE2 (R120, R141); it waits for bytes of a channel not yet delivered (R114). -/
def execFuse2 (array : Nat) (s : State) : Host.Outcome State Fault Refusal :=
  act (atWord s.pkg array 2) (fun p => (fuse2Op p array).getD p) s

/-- ROWFN (R122). -/
def execRowfn (array : Nat) (s : State) : Host.Outcome State Fault Refusal :=
  act (atWord s.pkg array 3) (fun p => rowfnOp p array) s

/-- LOADW (R123). -/
def execLoadw (array : Nat) (s : State) : Host.Outcome State Fault Refusal :=
  act (atWord s.pkg array 4) (fun p => (loadOp p array).getD p) s

/-- LOADA (R123). -/
def execLoada (array : Nat) (s : State) : Host.Outcome State Fault Refusal :=
  act (atWord s.pkg array 5) (fun p => (loadOp p array).getD p) s

/-- STORE of an accumulator plane (R124, R126, R132). -/
def execStore (array : Nat) (s : State) : Host.Outcome State Fault Refusal :=
  act (atWord s.pkg array 6 && !wbit (nextWord s.pkg array) 0 6) (fun p => storeOp p array) s

/-- STORE of the row state (R125). -/
def execStoreRowstate (array : Nat) (s : State) : Host.Outcome State Fault Refusal :=
  act (atWord s.pkg array 6 && wbit (nextWord s.pkg array) 0 6) (fun p => storeRowOp p array) s

/-- MASKSET (R127). -/
def execMaskset (array : Nat) (s : State) : Host.Outcome State Fault Refusal :=
  act (atWord s.pkg array 7) (fun p => masksetOp p array) s

/-- SYNC DRAIN: every earlier word has completed (R128). -/
def execSyncDrain (array : Nat) (s : State) : Host.Outcome State Fault Refusal :=
  act (atSync s.pkg array 0) (fun p => syncOp p array false false) s

/-- SYNC BARRIER: arrive and wait (R128). -/
def execSyncBarrier (array : Nat) (s : State) : Host.Outcome State Fault Refusal :=
  act (atSync s.pkg array 1) (fun p => syncOp p array true true) s

/-- SYNC ARRIVE: arrive and go on (R128). -/
def execSyncArrive (array : Nat) (s : State) : Host.Outcome State Fault Refusal :=
  act (atSync s.pkg array 2) (fun p => syncOp p array true false) s

/-- SYNC WAIT: wait without arriving (R128). -/
def execSyncWait (array : Nat) (s : State) : Host.Outcome State Fault Refusal :=
  act (atSync s.pkg array 3) (fun p => syncOp p array false true) s

/-- SYNC LAYER_END (R146). -/
def execSyncLayerEnd (array : Nat) (s : State) : Host.Outcome State Fault Refusal :=
  act (atSync s.pkg array 4) (fun p => layerEndOp p array) s

/-- SYNC END (R147). -/
def execSyncEnd (array : Nat) (s : State) : Host.Outcome State Fault Refusal :=
  act (atSync s.pkg array 5) (fun p => endOp p array) s

/-- SCORE (R129). -/
def execScore (array : Nat) (s : State) : Host.Outcome State Fault Refusal :=
  act (atWord s.pkg array 9) (fun p => scoreOp p array) s

end Sys2Proof.Machine
end

