-- ==== Sys2Proof/Machine/RingOps.lean ====
section
/-! DEFINITION. Shared operations of the rings: doorbells, descriptor reads, taking descriptors in ring order, and the choice of
the descriptor that a command evaluates (R259 to R271). -/

namespace Sys2Proof.Machine

/-! ### Checks of fields (R12, R14 to R17, R271) -/

/-- A reserved range of a layout is zero, else FORMAT_INVALID. -/
def rsv (b : Bytes) (off n : Nat) : Option Nat := need (zeroAt b off n) stFormatInvalid

/-- Reserved bits of one byte are zero: the byte is below a limit. -/
def rsvHigh (b : Bytes) (off lim : Nat) : Option Nat := need (decide (fieldAt b off 1 < lim)) stFormatInvalid

/-- A count of 21 bits in four bytes: the bits above it reserved, the value from a lowest up to 1,048,576. -/
def count21 (b : Bytes) (off lo : Nat) : Option Nat :=
  let v := fieldAt b off 4 % 2 ^ 21
  if v < lo ∨ 1048576 < v then some stLengthInvalid else need (decide (fieldAt b off 4 < 2 ^ 21)) stFormatInvalid

/-- A host address is nonzero and a multiple of an alignment. -/
def hostAddrOk (b : Bytes) (off al : Nat) : Option Nat :=
  need (decide (fieldAt b off 8 ≠ 0 ∧ fieldAt b off 8 % al = 0)) stAlignmentInvalid

/-- The reserved fields of the header (Table 8-4). -/
def headRsv (b : Bytes) : List (Option Nat) := [rsvHigh b 1 2, rsv b 2 2]

/-- The fields of a FENCE (Table 8-9). -/
def fenceFields (b : Bytes) : List (Option Nat) := headRsv b ++ [need (decide (fieldAt b 8 1 < 2)) stFormatInvalid, rsv b 9 55]

/-- The fields of a ROLLCALL (Table 8-11). -/
def rollFields (b : Bytes) : List (Option Nat) :=
  let n := fieldAt b 16 4
  headRsv b ++ [hostAddrOk b 8 4096, need (decide (264832 ≤ n ∧ n ≠ 0xFFFFFFFF)) stLengthInvalid, rsv b 20 44]

/-! ### Reading and taking descriptors -/

/-- Entries from one index up to another on a ring. -/
def ringSpan (size a b : Nat) : Nat := (b + size - a) % size

/-- Read the descriptors from the head, up to 32 and up to the ring's end, with one read in flight per context (R264). -/
def issueDescRead (p : Pkg) (c : Nat) : Pkg :=
  let x := ctxOf p c
  let n := min (min 32 (ringSpan (2 ^ x.sqLog) x.sqHead x.sqTail)) (2 ^ x.sqLog - x.sqHead)
  if x.st = ctxActive ∧ x.reading = none ∧ x.fetched = [] ∧ 0 < n ∧ p.glb.fwFault = false then
    modCtx (send p (.hostRead x.fn (x.sqBase + 64 * x.sqHead) (64 * n))) c fun y => { y with reading := some (x.sqHead, n) }
  else p

/-- The descriptor that 64 bytes hold, at an index of the ring (core 0) or of the mailbox of core k - 1 (Table 8-4). -/
def descOf (core index : Nat) (b : Bytes) : Desc :=
  { type := fieldAt b 0 1, index := index, tag := fieldAt b 4 4, irq := bitOf (fieldAt b 1 1) 0, core := core, raw := b }

/-- Completion slots that a descriptor reserves when it is taken (R267). -/
def slotsFor (type : Nat) : Nat := if type = 1 then 2 else 1

/-- A FENCE or a ROLLCALL that stays pending once it is taken: one that its field checks do not refuse (R266, R271). -/
def pends (d : Desc) : Bool :=
  (decide (d.type = 7) && (firstFail (fenceFields d.raw)).isNone) || (decide (d.type = 9) && (firstFail (rollFields d.raw)).isNone)

/-- A FENCE or a ROLLCALL of the context is pending (R266). -/
def behindFence (x : Ctx) : Bool := x.live.any pends

/-- Imprints taken and not completed, with those of every context that are taken and not yet evaluated (R227). -/
def imprintsOut (p : Pkg) : Nat :=
  p.nvw.imprints.length + sumL (p.ctxs.map fun e => (e.2.live.filter fun d => decide (d.type = 8) && !d.begun).length)

/-- R227 holds back a descriptor. -/
def imprintHeld (p : Pkg) (b : Bytes) : Bool := decide (fieldAt b 0 1 = 8 ∧ 64 ≤ imprintsOut p)

/-- Take one descriptor: the head advances and its completion slots are reserved (R264, R267). -/
def takeDesc (p : Pkg) (c i : Nat) (b : Bytes) : Pkg :=
  modCtx p c fun y =>
    { y with
      fetched := y.fetched.drop 1, sqHead := (i + 1) % 2 ^ y.sqLog, taken := inc64 y.taken
      reserved := y.reserved + slotsFor (fieldAt b 0 1), descNum := y.descNum + 1
      live := y.live ++ [{ descOf 0 i b with num := y.descNum }] }

/-- Take the descriptors read, in ring order, until one blocks (R264, R266). -/
def takeList (p : Pkg) (c : Nat) : List (Nat × Bytes) → Pkg
  | [] => p
  | (i, b) :: t =>
    if behindFence (ctxOf p c) || imprintHeld p b then p
    else if cqFree (ctxOf p c) < slotsFor (fieldAt b 0 1) then stallCtx p c
    else takeList (takeDesc p c i b) c t

/-- An ADMIT at the head of a mailbox of the context waits for completion ring space (R423). -/
def mailWaits (p : Pkg) (c k : Nat) : Bool :=
  let x := hcoreOf p k
  decide (coreCtx p k = some c ∧ (bindOf p c).st = 2 ∧ x.cmdHead ≠ x.cmdTail ∧ x.reply.used + x.reply.reserved < 2 ^ x.reply.log2 ∧
    tget 0 (bindOf p c).mem (x.cmdBase + 64 * x.cmdHead) = 1#8 ∧ cqFree (ctxOf p c) = 0)

/-- A descriptor, a mailbox command or a request of the context waits for completion ring space. -/
def waitsSpace (p : Pkg) (c : Nat) : Bool :=
  let x := ctxOf p c
  (match x.fetched with
    | (_, b) :: _ => !behindFence x && !imprintHeld p b && decide (cqFree x < slotsFor (fieldAt b 0 1))
    | [] => false) || (entriesOf p c).any (lacksSlot p) || (upto 16).any (mailWaits p c)

/-- CQ_STALL falls once nothing waits for space. -/
def judgeStall (p : Pkg) (c : Nat) : Pkg :=
  if (ctxOf p c).cqStall && !waitsSpace p c then modCtx p c fun y => { y with cqStall := false } else p

/-- The descriptors of a source as they wait to be evaluated: a CANCEL of the ring first, the others in ring order (R265, R422). -/
def nextDesc (l : List Desc) : Option Desc :=
  match l.find? fun d => decide (d.type = 3 ∧ d.core = 0) && !d.begun with
  | some d => some d
  | none => l.find? fun d => !d.begun

/-- A descriptor of no command's type: a reserved TYPE, a TYPE that a mailbox does not allow, or an IMPRINT_SHARD whose OP is
reserved. -/
def oddDesc (d : Desc) : Bool :=
  decide (d.type = 0 ∨ 11 ≤ d.type) || (decide (d.core ≠ 0) && decide (6 ≤ d.type ∧ d.type ≤ 9)) || (decide (d.type = 8) && decide (fieldAt d.raw 8 1 % 4 = 0 ∨ fieldAt d.raw 8 1 % 4 = 3))

/-- Check 1 of Table 7-3. -/
def noAuth (p : Pkg) (c : Nat) : Bool :=
  match p.nvw.auth with
  | some a => decide (a.ctx ≠ c ∨ a.left = 0)
  | none => true

/-- IMPRINT_SHARD completes with a status other than OK: it is recorded (R225, R251). -/
def imprintRefuse (p : Pkg) (c slot0 : Nat) (d : Desc) (status : Nat) : Pkg :=
  answer (log p codeImprintRefused c slot0 (fieldAt d.raw 12 4) status) c d status 0 false false

/-- Answer a descriptor of no command's type (R225, R271, R422). -/
def answerOdd (p : Pkg) (c : Nat) (d : Desc) : Pkg :=
  if d.core ≠ 0 then answer p c d stPermission 0 false false
  else if d.type = 8 then imprintRefuse p c 0 d (if noAuth p c then stPermission else stFormatInvalid)
  else answer p c d stFormatInvalid 0 false false

/-- The descriptors taken from a source and not yet answered; those of a ring carry core 0. -/
def liveOf (p : Pkg) (s : Src) : List Desc :=
  match s with
  | .ring c => (ctxOf p c).live.filter fun d => decide (d.core = 0)
  | .mailbox k => (hcoreOf p k).live

/-- The context of a source. -/
def srcCtx (p : Pkg) (s : Src) : Nat :=
  match s with
  | .ring c => c
  | .mailbox k => (coreCtx p k).getD 0

/-- A source serves only while its context is ACTIVE; what a mailbox has taken is served, too, when its binding has exited or faulted since
(R277, R422, R423). -/
def serves (p : Pkg) (s : Src) : Bool :=
  !p.glb.fwFault && match s with
    | .ring c => decide ((ctxOf p c).st = ctxActive)
    | .mailbox k => match coreCtx p k with
      | some c => decide ((ctxOf p c).st = ctxActive) && keepsMem (bindOf p c)
      | none => false

/-- Answer, in order, the descriptors of no command's type that stand first, as the P4 events they are (R265); the fuel bounds their
number. -/
def flushOdd (p : Pkg) (s : Src) : Nat → Pkg
  | 0 => p
  | k + 1 =>
    match nextDesc (liveOf p s) with
    | some d => if oddDesc d && serves p s then flushOdd (answerOdd p (srcCtx p s) d) s k else p
    | none => p

/-- Take what may be taken of the descriptors read, and read on (R264, R266). -/
def pumpRing (p : Pkg) (c : Nat) : Pkg :=
  if (ctxOf p c).st = ctxActive ∧ p.glb.fwFault = false then issueDescRead (judgeStall (takeList p c (ctxOf p c).fetched) c) c else p

/-- The descriptor that a command of a type evaluates next from a source: the first of the source that some command evaluates, when it
is of that type (R265). -/
def due (p : Pkg) (s : Src) (type : Nat) : Option Desc :=
  if serves p s then
    match nextDesc ((liveOf p s).filter fun d => !oddDesc d) with
    | some d => if d.type = type then some d else none
    | none => none
  else none

/-- Mark a descriptor as evaluated, its completion outstanding. -/
def beginDesc (p : Pkg) (c : Nat) (d : Desc) (f : Desc → Desc) : Pkg :=
  let mark (y : Desc) : Desc := if sameDesc y d then f { y with begun := true } else y
  if d.core = 0 then modCtx p c fun x => { x with live := x.live.map mark }
  else modHcore p (d.core - 1) fun x => { x with live := x.live.map mark }

/-- Evaluate the next descriptor of a source with a meaning. A descriptor of no command's type has no row of its own: whichever command comes
from its source in class P4 answers it, in ring order around the one it evaluates or alone; a CANCEL of a ring, a P2 event, leaves it (R265;
log entry 3). -/
def evalDesc (p : Pkg) (s : Src) (type : Nat) (f : Pkg → Nat → Desc → Pkg) : Pkg :=
  match due p s type with
  | some d => if type = 3 then f p (srcCtx p s) d else flushOdd (f (flushOdd p s 4096) (srcCtx p s) d) s 4096
  | none => if type = 3 then p else flushOdd p s 4096

end Sys2Proof.Machine
end

