-- ==== Sys2Proof/Machine/CtxOps.lean ====
section
/-! DEFINITION. Shared operations of contexts: the registers of a context block, enabling, resets, doorbells and interrupts
(R253 to R261, R277 to R280). -/

namespace Sys2Proof.Machine

/-- The offset of a register in the block of a context. -/
def ctxOff (c off : Nat) : Nat := 0x400000 + 0x4000 * c + off

/-- A function may reach a context: the physical function reaches all, an enabled virtual function its own (R253). -/
def reaches (p : Pkg) (fn c : Nat) : Bool :=
  decide (c < 256) && (decide (fn = 0) || decide (fn = (ctxOf p c).fn ∧ fn ≤ p.numVfs))

/-! ### Enable and disable (R258) -/

/-- The first check of R258 that fails. -/
def enableBar (p : Pkg) (c : Nat) : Option Nat :=
  let x := ctxOf p c
  let bad (a : Nat) : Bool := decide (a = 0 ∨ a % 4096 ≠ 0)
  if !(penOf p x.pen).enable then some stPenUnavailable
  else if p.numVfs < x.fn then some stPermission
  else if bad x.sqBase || bad x.cqBase || bad x.eqBase then some stAlignmentInvalid
  else none

/-- ENABLE is set on a DISABLED context (R258, R272). A context that is enabled is RESIDENT: it has no pages elsewhere. -/
def enableCtx (p : Pkg) (c : Nat) : Pkg :=
  match enableBar p c with
  | some st => modCtx p c fun x => { x with enableErr := st }
  | none => modCtx p c fun x =>
      { x with
        enable := true, enableErr := stOk, st := ctxActive, resident := true
        sqHead := 0, sqTail := 0, cqHead := 0, cqTail := 0, cqPhase := true, eqHead := 0, eqTail := 0, eqPhase := true
        cqUsed := 0, eqUsed := 0, reserved := 0, sampling := [] }

/-- A new value of ENABLE (R258): clearing it is a context reset. -/
def ctxEnableBit (p : Pkg) (c : Nat) (on : Bool) : Pkg :=
  let x := ctxOf p c
  if on then (if x.st = ctxDisabled then enableCtx p c else p)
  else if x.enable then ctxResetOp (modCtx p c fun y => { y with enable := false }) c
  else p

/-- A write of CTX_CTRL: PEN and FUNC belong to the physical function while the context is DISABLED (R257). -/
def ctxCtrlWrite (p : Pkg) (fn c v : Nat) : Pkg :=
  let x := ctxOf p c
  let pen := bitsOf v 11 8
  let f := bitsOf v 21 16
  let same := decide (x.pen = pen ∧ x.fn = f)
  let q := if same then p
    else if fn = 0 ∧ x.st = ctxDisabled then modCtx p c fun y => { y with pen := pen, fn := f }
    else noteNotAllowed p fn (ctxOff c 0) 4
  ctxEnableBit q c (bitOf v 0)

/-- A write of CTX_IRQ_MOD (Table 8-14): COUNT above 1 with TIME 0 is reserved, and so is a COUNT above 1,024 (R11). -/
def irqModWrite (p : Pkg) (c v : Nat) : Pkg :=
  let count := bitsOf v 10 0
  let time := v / 2 ^ 16 % 2 ^ 16
  let x := ctxOf p c
  let k := if count ≤ 1024 then count else x.modCount
  if 1 < count ∧ time = 0 then p else modCtx p c fun y => { y with modCount := k, modTime := time }

/-- A ring base or the ring sizes are written while the context is DISABLED (R257). -/
def whileDisabled (p : Pkg) (fn c off size : Nat) (f : Ctx → Ctx) : Pkg :=
  if (ctxOf p c).st = ctxDisabled then modCtx p c f else noteNotAllowed p fn (ctxOff c off) size

/-- One size field: 6 to 16, other values reserved (Table 8-2, R11). -/
def sizeField (v old : Nat) : Nat := if 6 ≤ v ∧ v ≤ 16 then v else old

/-- The fields of CTX_RING_SIZES. -/
def ringSizes (v : Nat) (x : Ctx) : Ctx :=
  { x with sqLog := sizeField (bitsOf v 4 0) x.sqLog, cqLog := sizeField (bitsOf v 12 8) x.cqLog
           eqLog := sizeField (bitsOf v 20 16) x.eqLog }

/-- A write to a register of a context block by a function that reaches it (Table 8-2, R257). -/
def ctxRegWrite (p : Pkg) (fn c off size v : Nat) : Pkg :=
  match off with
  | 0x000 => ctxCtrlWrite p fn c v
  | 0x004 => modCtx p c fun x => { x with eqLost := x.eqLost && !bitOf v 17, dbInvalid := x.dbInvalid && !bitOf v 16 }
  | 0x008 => if bitOf v 0 then ctxResetOp p c else p
  | 0x010 => whileDisabled p fn c off size fun x => { x with sqBase := v }
  | 0x018 => whileDisabled p fn c off size fun x => { x with cqBase := v }
  | 0x020 => whileDisabled p fn c off size fun x => { x with eqBase := v }
  | 0x028 => whileDisabled p fn c off size (ringSizes v)
  | 0x044 => modCtx p c fun x => { x with irq := bitsOf v 11 0 + bitsOf v 27 16 * 2 ^ 16 }
  | 0x048 => irqModWrite p c v
  | _ => p

/-! ### Resets of contexts (R255, R280) -/

/-- Reset every context of a function (R255). -/
def functionReset (p : Pkg) (fn : Nat) : Pkg :=
  forAll ((upto 256).filter fun c => decide ((ctxOf p c).fn = fn)) ctxResetOp p

/-- A new NumVFs: the contexts of removed functions, those above the new number and not above the old one, are reset and go to the
physical function (R255). -/
def setNumVfs (p : Pkg) (n : Nat) : Pkg :=
  let cs := (upto 256).filter fun c => decide (n < (ctxOf p c).fn ∧ (ctxOf p c).fn ≤ p.numVfs)
  forAll cs (fun q c => modCtx (ctxResetOp q c) c fun x => { x with fn := 0 }) { p with numVfs := n }

/-- The steps of R280 that end a reset: the rings are zeroed when ENABLE is 1, and a host error on ring 0 (CQ) or 1 (EQ) then makes the
context FAULTED. -/
def resetDone (p : Pkg) (c : Nat) (failed : Option Nat) : Pkg :=
  let p1 := forAll (entriesOf p c) closeReq p
  let x := ctxOf p1 c
  if x.enable then
    let p2 := send p1 (.hostWrite x.fn x.cqBase (zeros (32 * 2 ^ x.cqLog)))
    let p3 := send p2 (.hostWrite x.fn x.eqBase (zeros (32 * 2 ^ x.eqLog)))
    match failed with
    | some ring => hostError p3 c codeRingWriteFailed ring 0 0
    | none => log (modCtx p3 c fun y => { y with st := ctxActive, resident := true }) codeContextResetDone c c x.gen 0
  else log (modCtx p1 c fun y => { y with st := ctxDisabled, resident := false }) codeContextResetDone c c x.gen 0

/-! ### Doorbells (R259 to R261, R268) -/

/-- A doorbell value is ignored (R261). -/
def dbIgnored (p : Pkg) (c off v : Nat) : Pkg :=
  let q := modCtx p c fun x => { x with dbInvalid := true }
  if (ctxOf q c).st = ctxActive then logEvent q c stLengthInvalid codeDoorbellInvalid 0 off v 0 else q

/-- Records consumed by a new head of a ring: none when the value does not lie on the ring between head and tail; on a full ring a
head equal to the old one consumes all (R261). -/
def consumed (size head used v : Nat) : Option Nat :=
  let k := ringSpan size head v
  if size ≤ v then none
  else if k = 0 ∧ used = size then some size
  else if k ≤ used then some k
  else none

/-- DB_SQ_TAIL (R261, R264). -/
def sqDoorbell (p : Pkg) (c v : Nat) : Pkg :=
  let x := ctxOf p c
  let i := v % 2 ^ 16
  if x.st ≠ ctxActive ∨ 2 ^ x.sqLog ≤ i then dbIgnored p c 0 v
  else issueDescRead (modCtx p c fun y => { y with sqTail := i }) c

/-- DB_CQ_HEAD (R261). What waited for space is taken in the next tick (R266). -/
def cqDoorbell (p : Pkg) (c v : Nat) : Pkg :=
  let x := ctxOf p c
  let i := v % 2 ^ 16
  if x.st ≠ ctxActive then dbIgnored p c 4 v
  else match consumed (2 ^ x.cqLog) x.cqHead x.cqUsed i with
    | none => dbIgnored p c 4 v
    | some k => modCtx p c fun y => { y with cqHead := i, cqUsed := y.cqUsed - k }

/-- DB_EQ_HEAD: when space returns, one EVENTS_LOST record comes first (R261, R268). -/
def eqDoorbell (p : Pkg) (c v : Nat) : Pkg :=
  let x := ctxOf p c
  let i := v % 2 ^ 16
  if x.st ≠ ctxActive then dbIgnored p c 8 v
  else match consumed (2 ^ x.eqLog) x.eqHead x.eqUsed i with
    | none => dbIgnored p c 8 v
    | some k =>
      let p1 := modCtx p c fun y => { y with eqHead := i, eqUsed := y.eqUsed - k }
      if 0 < k ∧ 0 < x.eqDropped then
        logEvent (modCtx p1 c fun y => { y with eqDropped := 0 }) c (evStatus codeEventsLost) codeEventsLost 0 x.eqDropped 0 0
      else p1

/-! ### Moderation (R279, Table 8-14) -/

/-- TIME ticks have passed since the oldest unsignalled record of a ring that has its enable set. -/
def modTimeUp (p : Pkg) (c : Nat) (cq : Bool) : Bool :=
  let x := ctxOf p c
  let m := if cq then x.modC else x.modE
  (irqVec x cq).isSome && decide (x.st = ctxActive ∧ x.modTime ≠ 0 ∧ m.unsig ≠ 0 ∧ x.modTime ≤ since p m.oldest)

/-- The time of a ring's moderation has passed. -/
def noteTime (p : Pkg) (c : Nat) (cq : Bool) : Pkg :=
  modCtx p c fun x => if cq then { x with modC := { x.modC with timed := true } } else { x with modE := { x.modE with timed := true } }

/-- Send the interrupts that are due for a context, with the unsignalled records of a ring compared with COUNT and TIME as they then stand:
each makes every record of its ring signalled (R279, Table 8-14). -/
def sendDue (p : Pkg) (c : Nat) : Pkg :=
  let one (q : Pkg) (cq : Bool) : Pkg :=
    let x := ctxOf q c
    let m := if cq then x.modC else x.modE
    match irqVec x cq with
    | some v =>
      if (m.due || (decide (m.unsig ≠ 0) && decide (max 1 x.modCount ≤ m.unsig)) || modTimeUp q c cq) && decide (x.st = ctxActive) then
        msix (modCtx q c fun y => if cq then { y with modC := {} } else { y with modE := {} }) x.fn v
      else if m.timed then modCtx q c fun y => if cq then { y with modC := { y.modC with timed := false } } else { y with modE := { y.modE with timed := false } }
      else q
    | none => q
  one (one p true) false

end Sys2Proof.Machine
end

