-- ==== Sys2Proof/Machine/DescOps.lean ====
section
/-! DEFINITION. Shared operations of descriptors: the checks and effects of ADMIT, APPEND, CANCEL, PAUSE, RESUME, FENCE, ROLLCALL and
SET_SAMPLING (R266 to R302, R336). -/

namespace Sys2Proof.Machine

/-- A deadline field is not all ones (R14). -/
def durationOk (b : Bytes) (off : Nat) : Option Nat := need (decide (fieldAt b off 4 ≠ 0xFFFFFFFF)) stLengthInvalid

/-- The handle of a descriptor names a live request of the context, else EPOCH_STALE (R270). -/
def handleOk (p : Pkg) (c h : Nat) : Option Nat := need (entryOf p c h).isSome stEpochStale

/-! ### ADMIT (R270, R271, R288) -/

/-- Step 2 of R271 for an ADMIT (Table 8-5). -/
def admitFields (b : Bytes) : List (Option Nat) :=
  headRsv b ++
    [count21 b 8 1, count21 b 12 1, hostAddrOk b 16 4, durationOk b 32, durationOk b 36,
     need (decide (bitsOf (fieldAt b 40 1) 6 4 ≤ 4)) stLengthInvalid, rsvHigh b 41 16, rsv b 42 2, count21 b 48 0, rsv b 52 12]

/-- The lowest-numbered FREE entry (R284). -/
def freeEntryOf (p : Pkg) : Option Nat := (upto 4096).find? fun e => decide ((reqOf p e).st = rqFree)

/-- Checks 1 to 4 of Table 9-4. -/
def admitChecks (p : Pkg) (c : Nat) (b : Bytes) : List (Option Nat) :=
  let x := ctxOf p c
  let st := (penOf p x.pen).st
  let prompt := fieldAt b 8 4
  let pre := fieldAt b 44 4
  let pt := fieldAt b 48 4
  let kv := match entryOf p c pre with | some e => (reqOf p e).kvDone | none => 0
  [need (decide (st = penBound ∨ st = penActive ∨ st = penUnavail)) stPenUnavailable,
   need (decide (prompt + fieldAt b 12 4 ≤ 1048576 ∧ bitsOf (fieldAt b 40 1) 6 4 < positionsOf p x.pen ∧
     (pt = 0 ↔ pre = 0) ∧ (pt = 0 ∨ (pt < prompt ∧ pt ≤ kv)))) stLengthInvalid,
   need (!bitOf (fieldAt b 40 1) 7 || decide ((bindOf p c).st ≠ 0)) stPermission,
   need ((freeEntryOf p).isSome && decide ((entriesOf p c).length < x.quota)) stAdmitDeniedMem]

/-- Every check that an ADMIT passes before its entry is held (R271, R288). -/
def admitEarly (p : Pkg) (c : Nat) (b : Bytes) : Option Nat :=
  let pre := fieldAt b 44 4
  firstFail (admitFields b ++ [if pre = 0 then none else handleOk p c pre] ++ admitChecks p c b)

/-- The request that an ADMIT creates in an entry (Tables 8-5 and 9-1). -/
def reqFrom (p : Pkg) (c e : Nat) (d : Desc) : Req :=
  let b := d.raw
  let g := tget 0 p.lastGen e
  { st := rqAdmitting, gen := if g = 0xFFFFF then 1 else g + 1, ctx := c, pen := (ctxOf p c).pen
    hound := bitOf (fieldAt b 40 1) 7, priority := fieldAt b 40 1 % 16, spec := bitsOf (fieldAt b 40 1) 6 4
    sampling := fieldAt b 41 1 % 16, tag := d.tag, seed := fieldAt b 24 8, prefixH := fieldAt b 44 4
    prefixTokens := fieldAt b 48 4, firstDl := fieldAt b 32 4, interval := fieldAt b 36 4, promptTokens := fieldAt b 8 4
    maxNew := fieldAt b 12 4, takenAt := now p, admitDesc := { d with begun := true } }

/-- An ADMIT is evaluated: refused, held in ADMITTING, or decided (R288). A refusal gives the END slot back (R267). -/
def admitOp (p : Pkg) (c : Nat) (d : Desc) : Pkg :=
  match admitEarly p c d.raw, freeEntryOf p with
  | some st, _ => answer (noteDenied (giveBack p c 1) st) c d st 0 false false
  | none, none => p
  | none, some e =>
    let r := reqFrom p c e d
    let p1 := { beginDesc p c d id with reqs := tset {} p.reqs e r, lastGen := tset 0 p.lastGen e r.gen }
    if (penOf p1 r.pen).st = penActive then decideAdmit p1 e else p1

/-- The pen that holds an ADMITTING request became ACTIVE, or REQ_ADMIT_HOLD ran out: see PEN_ACTIVATE and ADMIT_HOLD_EXPIRY. -/
def holdOver (p : Pkg) (e : Nat) : Bool := decide ((reqOf p e).st = rqAdmitting ∧ p.rq.admitHold ≤ since p (reqOf p e).takenAt)

/-! ### The other request descriptors (Table 9-6) -/

/-- What a descriptor that names a request meets first: its field checks and its handle. A refusal's record carries the handle
named (Table 8-13). -/
def byHandle (p : Pkg) (c : Nat) (d : Desc) (fields : List (Option Nat)) (f : Pkg → Nat → Pkg) : Pkg :=
  let h := fieldAt d.raw 8 4
  match firstFail (fields ++ [handleOk p c h]), entryOf p c h with
  | some st, some e => answerReq p e d st
  | some st, none => answer p c d st h false false
  | none, some e => f p e
  | none, none => p

/-- A descriptor other than a CANCEL that names a request DRAINING or DONE completes at once (Table 9-6, R274). -/
def ended (p : Pkg) (e : Nat) (d : Desc) (f : Pkg → Pkg) : Pkg :=
  let r := reqOf p e
  if r.st = rqDraining then answerReq p e d r.endStatus
  else if r.st = rqDone then answerReq p e d stEpochStale
  else f p

/-- Hold a descriptor for a request. -/
def holdDesc (p : Pkg) (e : Nat) (d : Desc) (front : Bool) : Pkg :=
  let p1 := beginDesc p (reqOf p e).ctx d id
  modReq p1 e fun r => { r with held := r.held ++ [{ d with begun := true, front := front }] }

/-- APPEND (R300): its token read waits its turn. -/
def appendOp (p : Pkg) (c : Nat) (d : Desc) : Pkg :=
  let b := d.raw
  byHandle p c d (headRsv b ++ [count21 b 12 1, hostAddrOk b 16 4, count21 b 24 0, rsv b 28 36]) fun q e =>
    ended q e d fun q =>
      let t : TokRead := { desc := { d with begun := true }, count := fieldAt b 12 4, maxNew := fieldAt b 24 4, addr := fieldAt b 16 8 }
      issueRead (modReq (beginDesc q c d id) e fun r => { r with appends := r.appends ++ [t] }) e

/-- CANCEL (R274, R287, R298, R299): a CANCEL that ends a request at once is answered right after its END record. -/
def cancelOp (p : Pkg) (c : Nat) (d : Desc) : Pkg :=
  let b := d.raw
  byHandle p c d (headRsv b ++ [rsv b 12 52]) fun q e =>
    let r := reqOf q e
    if r.turnEnded then
      let q1 := holdDesc q e d true
      modReq (endReq q1 e stOkCancelLate) e fun x => { x with endStatus := stOkCancelLate }
    else if r.st = rqDone then answerReq q e d stEpochStale
    else if r.st = rqDraining then holdDesc q e d false
    else if r.inStep then
      modReq (holdDesc q e d false) e fun x => { x with st := rqDraining, endStatus := stCancelled }
    else endReq (holdDesc q e d true) e stCancelled

/-- PAUSE (R299, R301). -/
def pauseOp (p : Pkg) (c : Nat) (d : Desc) : Pkg :=
  let b := d.raw
  let ttl := fieldAt b 12 4
  byHandle p c d (headRsv b ++ [need (decide (1 ≤ ttl ∧ ttl ≠ 0xFFFFFFFF)) stLengthInvalid, rsv b 16 48]) fun q e =>
    ended q e d fun q =>
      let r := reqOf q e
      if r.inStep ∨ r.st = rqSwapped then modReq (holdDesc q e d false) e fun x => { x with pausePending := true }
      else applyPause q e d ttl

/-- A request leaves PAUSED by a RESUME (R295, R336): its host frames come back, and its DESC follows when all are in DRAM. Where frames are
short it pre-empts, which the P5 housekeeping of SWAP_RETURN does (Table 9-3, R338). -/
def resumeReq (p : Pkg) (c e : Nat) (d : Desc) : Pkg :=
  let p1 := modReq (stopCopies p e [0, 1, 2]) e fun r => { r with st := r.prev, ttlExp := 0, nextDl := dlAfter p r.firstDl }
  let keys := hostKeys p1 e
  if keys.isEmpty then answerReq p1 e d stOk
  else
    startCopy (modReq (beginDesc p1 c d id) e fun r => { r with resumeD := some { d with begun := true } }) e 3 keys

/-- RESUME (R299, R336). -/
def resumeOp (p : Pkg) (c : Nat) (d : Desc) : Pkg :=
  let b := d.raw
  byHandle p c d (headRsv b ++ [rsv b 12 52]) fun q e =>
    ended q e d fun q => if (reqOf q e).st = rqPaused then resumeReq q c e d else answerReq q e d stOk

/-! ### SET_SAMPLING (R272) -/

/-- An FP32 field lies in a range, else FORMAT_INVALID. -/
def fpField (b : Bytes) (off : Nat) (ok : Word32 → Bool) : Option Nat :=
  need (ok (BitVec.ofNat 32 (fieldAt b off 4))) stFormatInvalid

/-- A value is not below another, neither being NaN. -/
def fle (a b : Word32) : Bool := !isNan a && !isNan b && !flt b a

/-- SET_SAMPLING (Table 8-12). -/
def samplingOp (p : Pkg) (c : Nat) (d : Desc) : Pkg :=
  let b := d.raw
  let w (off : Nat) : Word32 := BitVec.ofNat 32 (fieldAt b off 4)
  let k := fieldAt b 9 1 % 128
  let bar := firstFail (headRsv b ++
    [rsvHigh b 8 16, need (decide (k ≤ 64)) stLengthInvalid, rsvHigh b 9 128, rsv b 10 2,
     fpField b 12 fun x => isFinite x && fle 0#32 x, fpField b 16 fun x => flt 0#32 x && fle x fOne,
     fpField b 20 fun x => fle 0#32 x && flt x fOne, fpField b 24 isPos, count21 b 28 0, rsv b 32 32])
  match bar with
  | some st => answer p c d st 0 false false
  | none =>
    let s : Sample := { topK := k, temp := w 12, topP := w 16, minP := w 20, repPenalty := w 24, repWindow := fieldAt b 28 4 }
    answer (modCtx p c fun x => { x with sampling := tset {} x.sampling (fieldAt b 8 1 % 16) s }) c d stOk 0 false false

/-! ### FENCE (R266, Table 8-9) -/

/-- FENCE is taken: it stays pending, with the requests it waits for by handle. -/
def fenceOp (p : Pkg) (c : Nat) (d : Desc) : Pkg :=
  let b := d.raw
  match firstFail (fenceFields b) with
  | some st => answer p c d st 0 false false
  | none =>
    let hs := if fieldAt b 8 1 = 1 then (entriesOf p c).map (handleOf p) else []
    let p1 := modCtx p c fun x => { x with fencePending := true }
    beginDesc p1 c d fun x => { x with fenceReqs := hs }

/-- A request named by a handle still holds its entry. -/
def stillHeld (p : Pkg) (h : Nat) : Bool := decide ((reqOf p (h % 4096)).st ≠ rqFree) && decide (handleOf p (h % 4096) = h)

/-- The pending FENCE of a context whose condition holds: every earlier descriptor of the ring has completed, and its requests have
ended (Table 8-9). -/
def fenceReady (p : Pkg) (c : Nat) : Option Desc :=
  match (ctxOf p c).live.find? fun d => decide (d.type = 7) && d.begun with
  | some d => if decide ((ctxOf p c).live.length = 1) && d.fenceReqs.all (fun h => !stillHeld p h) then some d else none
  | none => none

/-! ### ROLLCALL (R281, R282) -/

/-- Page-list entries that hold a page (Table 8-18). -/
def pagesHeld (r : Req) : Nat := (r.parts.filter fun x => match x.2 with | .frame _ => true | .host _ => true | _ => false).length

/-- A request slot (Table 8-18). -/
def rollReq (p : Pkg) (e : Nat) : Bytes :=
  let r := reqOf p e
  toLE 4 (handleOf p e) ++ toLE 1 (r.st + 8 * bitN r.late + 16 * bitN r.fellBack + 32 * bitN r.hound) ++
    toLE 1 (r.priority + 16 * r.spec) ++ toLE 1 r.sampling ++ zeros 1 ++ toLE 4 r.hist.length ++ toLE 4 r.delivered ++
    toLE 4 r.limit ++ toLE 4 r.tag ++ toLE 8 r.nextDl ++ toLE 8 r.ttlExp ++ toLE 4 (pagesHeld r) ++ toLE 4 r.prefixH ++
    toLE 8 r.seed ++ zeros 8

/-- A pending-descriptor slot (Table 8-19). -/
def rollDesc (d : Desc) : Bytes :=
  let key := if d.type = 8 then fieldAt d.raw 12 4 else if d.type = 7 then fieldAt d.raw 8 1 else 0
  toLE 4 d.index ++ toLE 1 d.type ++ zeros 3 ++ toLE 4 d.tag ++ toLE 4 key

/-- The oldest sequence number that the log holds (Table 14-9). -/
def seqFirst (s : Scn) : Nat := match oldestRec s fun _ => true with | some (_, r) => r.seq | none => 0

/-- The summary's parts: header, request slots, pending slots and fault slots, one after another (R282). -/
def rollBytes (p : Pkg) (c : Nat) (d : Desc) : Bytes :=
  let x := ctxOf p c
  let es := (entriesOf p c).filter fun e => decide ((reqOf p e).st ≠ rqAdmitting)
  let ds := (x.live.filter fun y => !sameDesc y d).take 128
  let i := match (penOf p x.pen).image with | some i => i.id | none => 0
  let auth := match p.nvw.auth with | some a => if a.ctx = c then a.left else 0 | none => 0
  let head := [0x54, 0x48, 0x4E, 0x52, 0x4F, 0x4C, 0x4C, 0x31].map (BitVec.ofNat 8) ++ toLE 4 264832 ++ toLE 4 es.length ++
    toLE 4 ds.length ++ toLE 4 x.faults.length ++ toLE 8 (now p) ++ toLE 8 p.mgt.epoch ++ toLE 4 x.gen ++ toLE 1 c ++
    toLE 1 x.pen ++ toLE 1 (x.st + 8 * bitN x.resident) ++ toLE 1 (penOf p x.pen).st ++ toLE 8 i ++
    toLE 4 ((d.index + 1) % 2 ^ x.sqLog) ++ toLE 4 x.sqTail ++ toLE 4 x.cqHead ++ toLE 4 x.cqTail ++ toLE 1 (bitN x.cqPhase) ++
    toLE 1 (bitN x.eqPhase) ++ zeros 2 ++ toLE 4 x.eqHead ++ toLE 4 x.eqTail ++ toLE 4 x.eqDropped ++ toLE 4 (seqFirst p.scn) ++
    toLE 4 p.scn.seqLast ++ toLE 4 auth ++ toLE 8 (tget 0 p.lsh.ctxEnergy c / 65536) ++ zeros 20
  head ++ es.flatMap (rollReq p) ++ ds.flatMap rollDesc ++ x.faults.flatten

/-- ROLLCALL is taken: the snapshot is made, and its DESC record keeps index C of the completion ring (R281). -/
def rollcallOp (p : Pkg) (c : Nat) (d : Desc) : Pkg :=
  match firstFail (rollFields d.raw) with
  | some st => answer p c d st 0 false false
  | none =>
    let x := ctxOf p c
    let snap := rollBytes p c d
    let wrap := decide (x.cqTail + 1 = 2 ^ x.cqLog)
    let p1 := modCtx p c fun y =>
      { y with
        rollBusy := true, faults := [], cqTail := if wrap then 0 else y.cqTail + 1
        cqPhase := if wrap then !y.cqPhase else y.cqPhase, cqUsed := y.cqUsed + 1, reserved := y.reserved - 1 }
    beginDesc p1 c d fun y => { y with snap := snap, snapIndex := x.cqTail + 2 ^ 16 * bitN x.cqPhase }

/-- The ROLLCALL of a context that is being written. -/
def rollPending (p : Pkg) (c : Nat) : Option Desc := (ctxOf p c).live.find? fun d => decide (d.type = 9) && d.begun

/-- The summary's writes: each area that the header's counts cover (R282). -/
def rollWrites (fn addr : Nat) (b : Bytes) : List Out :=
  let n := fieldAt b 12 4
  let m := fieldAt b 16 4
  let k := fieldAt b 20 4
  let area (off skip len : Nat) : List Out := if len = 0 then [] else [.hostWrite fn (addr + off) ((b.drop skip).take len)]
  area 0 0 128 ++ area 128 128 (64 * n) ++ area 262272 (128 + 64 * n) (16 * m) ++ area 264320 (128 + 64 * n + 16 * m) (32 * k)

/-- The summary and then the DESC record at index C are written (R281). -/
def rollDone (p : Pkg) (c : Nat) (d : Desc) : Pkg :=
  let x := ctxOf p c
  let p1 := forAll (rollWrites x.fn (fieldAt d.raw 8 8) d.snap) send p
  let p2 := send p1 (.hostWrite x.fn (x.cqBase + 32 * (d.snapIndex % 2 ^ 16))
    (withPhase (bitOf d.snapIndex 16) (descBytes p d stOk 0 false false)))
  let p3 := modCtx p2 c fun y =>
    { y with
      rollBusy := false, live := y.live.filter (fun z => !sameDesc z d), records := inc64 y.records
      modC := moderate y.modC (irqVec y true).isSome d.irq (now p) }
  log p3 codeRollcallWritten c c (fieldAt d.snap 12 4) 0

end Sys2Proof.Machine
end

