-- ==== Sys2Proof/Machine/CopyOps.lean ====
section
/-! DEFINITION. Shared operations of host copies, of returns from SWAPPED and of context swaps (R328, R334 to R341). -/

namespace Sys2Proof.Machine

/-- The request whose page list holds a part that one request shares with another: the PREFIX request, or the one that this in turn still
waits for it from (R328). -/
def holderFrom (p : Pkg) (key : Nat) : Nat → Nat → Nat
  | 0, e => e
  | f + 1, e =>
    if tget .unheld (reqOf p e).parts key = .unheld ∧ partInHost p e key = true then holderFrom p key f ((reqOf p e).prefixH % 4096) else e

/-- The request whose page list holds a part that a copy moves: for a shared prefix one that is there as long as the copy runs (R328,
endSharing). -/
def partHolder (p : Pkg) (k : Copy) (key : Nat) : Nat :=
  if k.why = 6 then holderFrom p key (poolOf p (reqOf p k.entry).pen).copies.length ((reqOf p k.entry).prefixH % 4096) else k.entry

/-- A copy can run now: a copy back needs a frame that is not reserved; one of a shared prefix may take a frame of its request's
reservation (R325, R328, R336, R337). -/
def copyRuns (p : Pkg) (k : Copy) : Bool :=
  let r := reqOf p k.entry
  let o := poolOf p r.pen
  isOut k || (if k.why = 6 then decide (0 < r.reserved ∨ 0 < freeForReturn o) && decide (0 < freeFrames o) else decide (0 < freeForReturn o))

/-- The copy of a pen that runs: the first one started that has its frames (R337). -/
def runningCopy (p : Pkg) (n : Nat) : Option Copy := (poolOf p n).copies.find? (copyRuns p)

/-- A part that a copy still has to move: in DRAM for a copy out, in the host region for one back, and not yet the request's own for a
shared prefix. -/
def stillMoves (p : Pkg) (k : Copy) (key : Nat) : Bool :=
  match tget .unheld (reqOf p k.entry).parts key with
  | .frame _ => isOut k
  | .host _ => decide (3 ≤ k.why)
  | .unheld => decide (k.why = 6)
  | .absent => false

/-- The copy's first part has been dealt with, and no copy moves a part again that another request's copy has moved (R328, R341). -/
def copyAdvance (p : Pkg) (n : Nat) (k : Copy) : Pkg :=
  let step (x : Copy) : Copy := { x with keys := (if x = k then x.keys.drop 1 else x.keys).filter (stillMoves p x) }
  modPool p n fun o => { o with copies := (o.copies.map step).filter fun x => !x.keys.isEmpty }

/-- A frame that only its request references is copied out; a context swap copies the shared ones too (R335, R341). -/
def goesOut (p : Pkg) (n : Nat) (k : Copy) (f : Nat) : Bool := decide (k.why = 2 ∨ (tget {} (poolOf p n).tab f).refs = 1)

/-- The requests of a context in a pen whose lists name a part of a kind at a key: those that share it (R328). -/
def sharers (p : Pkg) (n c key : Nat) (x : Part) : List Nat :=
  (entriesOfPen p n).filter fun e => decide ((reqOf p e).ctx = c ∧ tget .unheld (reqOf p e).parts key = x)

/-- A frame lands in the host region, and every request of its context that names it names its place there (R335, R341). One that an ADMIT has come to share stays in DRAM; where no room is left, so does every
frame that the copy still had to move, and KV_KENNEL_FULL says so once. -/
def landOut (p : Pkg) (n : Nat) (k : Copy) (key : Nat) : Pkg :=
  let r := reqOf p k.entry
  let kib := frameKib p n
  match tget .unheld r.parts key, hostPlace (ctxOf p r.ctx) kib with
  | .frame _, none => noteKennelFull p k.entry k.keys.length
  | .frame f, some off =>
    if !goesOut p n k f then p else
    let x := ctxOf p r.ctx
    let p1 := send p (.hostWrite x.fn (x.hostAddr + 1024 * off) (frameGet p n f 0 (1024 * kib)))
    let p2 := modCtx p1 r.ctx fun c => { c with hostMap := tset 0 c.hostMap off kib }
    let p3 := forAll (sharers p n r.ctx key (.frame f)) (fun q e =>
      modReq (modPool q n fun o => dropRef o f) e fun y => { y with parts := tset .unheld y.parts key (.host off) }) p2
    { p3 with kvp := { p3.kvp with hostOut := satAdd sat64 p3.kvp.hostOut (1024 * kib) } }
  | _, _ => p

/-- A frame for a copy back, with its references: a shared prefix draws on its request's reservation, the others on the free frames alone
(R325, R328, R336). -/
def frameBack (p : Pkg) (k : Copy) (key refs : Nat) : Option (Nat × Pkg) :=
  let r := reqOf p k.entry
  match takeFrame (poolOf p r.pen) (partQuad p r.pen (key % max 1 (gOf (poolOf p r.pen)))) refs 0 with
  | none => none
  | some (f, o) =>
    let draw := if k.why = 6 then min 1 r.reserved else 0
    some (f, modReq (modPool p r.pen fun _ => { o with reserved := o.reserved - draw }) k.entry fun x =>
      { x with reserved := x.reserved - draw })

/-- The requests that take a part of the host region as it lands in DRAM: those that name it, and those whose shared prefix waits for it,
whichever copy brings it (R328). -/
def takers (p : Pkg) (n c key off : Nat) : List Nat :=
  let named := sharers p n c key (.host off)
  let waits := ((poolOf p n).copies.filter fun x => decide (x.why = 6 ∧ key ∈ x.keys ∧ partHolder p x key ∈ named)).map (·.entry)
  (named ++ waits).eraseDups

/-- A frame lands in DRAM, its host copy is released, and every list that names the part takes it (R328, R336). -/
def landIn (p : Pkg) (n : Nat) (k : Copy) (key : Nat) (b : Bytes) : Pkg :=
  let h := partHolder p k key
  match tget .unheld (reqOf p h).parts key with
  | .host off =>
    let es := takers p n (reqOf p h).ctx key off
    match frameBack p k key es.length with
    | none => p
    | some (f, q) =>
    let q1 := framePut q n f 0 b
    let q2 := modCtx q1 (reqOf q1 h).ctx fun c => { c with hostMap := tset 0 c.hostMap off 0 }
    let q3 := forAll es (fun r e => growBlocks (modReq r e fun x => { x with parts := tset .unheld x.parts key (.frame f) }) e) q2
    { q3 with kvp := { q3.kvp with hostIn := satAdd sat64 q3.kvp.hostIn b.length } }
  | _ => p

/-- The read of host memory whose answer a copy back's landing is: it carries the requester ID of the context's function (R254). -/
def readBack (p : Pkg) (n : Nat) (k : Copy) : Pkg :=
  let h := partHolder p k (k.keys.headD 0)
  let x := ctxOf p (reqOf p h).ctx
  match tget .unheld (reqOf p h).parts (k.keys.headD 0) with
  | .host off => send p (.hostRead x.fn (x.hostAddr + 1024 * off) (1024 * frameKib p n))
  | _ => p

/-! ### The ends of copies -/

/-- A SWAPPED request returns to the state it left; a RESUME that its pages' return had kept waiting is answered, and what was held for
the return acts (R301, R336, R339, R341). -/
def leaveSwapped (p : Pkg) (e : Nat) : Pkg :=
  if (reqOf p e).st = rqSwapped then
    applyHeld (closeResume (modReq p e fun x => { x with st := x.prev, back := false }) e stOk) e
  else p

/-- The last frame of a SWAPPED request has landed, a P1 event: it leaves SWAPPED in the tick's P5 (Table 9-3). -/
def pagesBack (p : Pkg) (e : Nat) : Pkg := if (reqOf p e).st = rqSwapped then modReq p e fun x => { x with back := true } else p

/-- The SWAPPED requests whose pages are back leave SWAPPED, as P5 housekeeping; one whose context has been swapped out since stays. -/
def leaveBack (p : Pkg) (es : List Nat) : Pkg :=
  forAll (es.filter fun e => (reqOf p e).back && (ctxOf p (reqOf p e).ctx).resident) leaveSwapped p

/-- The requests of a context in SWAPPED. -/
def swappedOf (p : Pkg) (c : Nat) : List Nat := (entriesOf p c).filter fun e => decide ((reqOf p e).st = rqSwapped)

/-- The entries of a context whose host frames come back with it, in whatever pen (R296): all but the PAUSED ones, whose pages stay in the
kennel tier, and those whose own copy back runs. -/
def backEntries (p : Pkg) (c : Nat) : List Nat :=
  (entriesOf p c).filter fun e => decide ((reqOf p e).st ≠ rqPaused) && !copying p e [3, 4]

/-- Copies of a kind run for a context's requests, in whatever pen. -/
def swapCopies (p : Pkg) (c why : Nat) : Bool :=
  (upto 16).any fun m => (poolOf p m).copies.any fun k => decide (k.why = why ∧ (reqOf p k.entry).ctx = c)

/-- A context is back: RESIDENT becomes 1 and its SWAPPED requests are to return (R341). -/
def contextIn (p : Pkg) (n c : Nat) : Pkg :=
  let x := ctxOf p c
  let p1 := modCtx (modPool p n fun o => { o with swap := none }) c fun y => { y with resident := true, blockedSince := 0 }
  let p2 := logEvent p1 c (evStatus codeKvContextIn) codeKvContextIn 0 (c + 256 * n) 0 (since p x.nonResidentAt)
  forAll (swappedOf p2 c) pagesBack p2

/-- The context swap of a pen ends when no copy of it is left; the context is back where its last frame has landed (R341). -/
def judgeSwap (p : Pkg) (n : Nat) : Pkg :=
  match (poolOf p n).swap with
  | some (c, back) =>
    if swapCopies p c (if back then 5 else 2) then p
    else if back && (backEntries p c).all fun e => (hostKeys p e).isEmpty then contextIn p n c
    else modPool p n fun o => { o with swap := none }
  | none => p

/-- What the last landing of a copy brings: the RESUME's DESC, or the return from SWAPPED (R336, R339). -/
def copyEnded (p : Pkg) (k : Copy) : Pkg :=
  if copying p k.entry [k.why] then p
  else if k.why = 3 then closeResume p k.entry stOk
  else if k.why = 4 then pagesBack p k.entry
  else judgeSwap p (ctxOf p (reqOf p k.entry).ctx).pen

/-- One frame of the running copy of a pen lands, and the copies that have nothing left to move end; or the host answers with an error
(R337). -/
def copyLands (p : Pkg) (n : Nat) (data : Option Bytes) : Pkg :=
  match runningCopy p n with
  | none => p
  | some k =>
    let r := reqOf p k.entry
    let q := if isOut k then p else readBack p n k
    match data with
    | none => hostError q r.ctx codeKvHostCopyFailed (r.ctx + 256 * n) (handleOf p k.entry) (bitN (!isOut k))
    | some b =>
      let key := k.keys.headD 0
      let p1 := if isOut k then landOut q n k key else landIn q n k key b
      forAll (poolOf p n).copies copyEnded (copyAdvance p1 n k)

/-- The bytes of a copy's landing are whole: a frame back, nothing out. -/
def landingWhole (p : Pkg) (n : Nat) (data : Option Bytes) : Bool :=
  match data, runningCopy p n with
  | some b, some k => isOut k || decide (b.length = 1024 * frameKib p n)
  | _, _ => true

/-! ### Returns from SWAPPED (R339) -/

/-- A SWAPPED request may begin its return: its copy-out has finished and its host frames fit (R339). -/
def mayReturn (p : Pkg) (e : Nat) : Bool :=
  let r := reqOf p e
  decide (r.st = rqSwapped) && (ctxOf p r.ctx).resident && decide ((ctxOf p r.ctx).st = ctxActive) && !copying p e [1, 2, 4, 5] &&
    decide ((hostKeys p e).length ≤ freeAdmit (poolOf p r.pen))

/-- The order of returns: highest priority, earliest nonzero deadline, lower entry (R339). -/
def returnBefore (p : Pkg) (a b : Nat) : Bool :=
  let x := reqOf p a
  let y := reqOf p b
  let late (d : Nat) : Nat := if d = 0 then 2 ^ 64 else d
  decide (y.priority < x.priority) || (decide (x.priority = y.priority) &&
    (decide (late x.nextDl < late y.nextDl) || (decide (late x.nextDl = late y.nextDl) && decide (a < b))))

/-- Begin one return; a request with no frame in the host region returns at once. -/
def beginReturn (p : Pkg) (e : Nat) : Pkg :=
  let keys := hostKeys p e
  if keys.isEmpty then leaveSwapped p e else startCopy p e 4 keys

/-- The requests of a pen whose RESUME waits for its pages. -/
def resuming (p : Pkg) (n : Nat) : List Nat := (entriesOfPen p n).filter fun e => copying p e [3]

/-- The returns of a pen in one tick (R339), after those whose pages are back have left SWAPPED; for a RESUME that is still short of frames,
pre-emption goes on (R336). -/
def returnsOf (p : Pkg) (n : Nat) : Pkg :=
  let p0 := leaveBack p (entriesOfPen p n)
  let q := forAll (sortBy (returnBefore p0) ((entriesOfPen p0 n).filter fun e => decide ((reqOf p0 e).st = rqSwapped)))
    (fun q e => if mayReturn q e then beginReturn q e else q) p0
  forAll (resuming q n) returnShort q

/-! ### Context swaps (R340, R341) -/

/-- A request that would be placed in a step if its context were RESIDENT; one that the context's swap-out made SWAPPED counts by
the state it left (R340). -/
def wouldServe (p : Pkg) (e : Nat) : Bool :=
  let r := reqOf p e
  let st := if r.st = rqSwapped then r.prev else r.st
  decide (st = rqPrefill ∨ st = rqDecode) && tokensRead r && belowLimit r && !r.pausePending && decide ((ctxOf p r.ctx).st = ctxActive) && tokenRoom p r

/-- The priority of a context (R340). -/
def ctxPriority (p : Pkg) (c : Nat) : Nat := (entriesOf p c).foldl (fun m e => max m (reqOf p e).priority) 0

/-- Runnable contexts of a pen; a request that fell back to another pen counts for the context that holds it (R296, R340). -/
def runnable (p : Pkg) (n : Nat) : List Nat :=
  (ctxsOfPen p n).filter fun c => !(ctxOf p c).resident && (entriesOf p c).any (wouldServe p)

/-- The runnable context that is taken: highest priority, longest non-resident, lower number (R341). -/
def takeRunnable (p : Pkg) (n : Nat) : Option Nat :=
  firstBy (fun a b => decide (ctxPriority p b < ctxPriority p a) || (decide (ctxPriority p a = ctxPriority p b) &&
    (decide (since p (ctxOf p b).nonResidentAt < since p (ctxOf p a).nonResidentAt) ||
      (decide (since p (ctxOf p a).nonResidentAt = since p (ctxOf p b).nonResidentAt) && decide (a < b))))) (runnable p n)

/-- Page-list keys of parts in DRAM. -/
def dramKeys (p : Pkg) (e : Nat) : List Nat :=
  ((reqOf p e).parts.filter fun x => match x.2 with | .frame _ => true | _ => false).map Prod.fst

/-- The frames in DRAM, by pen and page number, that a context's requests reference in any pen (KVP_CTX_FRAMES). -/
def refFrames (p : Pkg) (c : Nat) : List (Nat × Nat) :=
  ((entriesOf p c).flatMap fun e => (reqOf p e).parts.filterMap fun x =>
    match x.2 with | .frame f => some ((reqOf p e).pen, f) | _ => none).eraseDups

/-- KiB of a context's host region that its frames in DRAM need. -/
def ctxKib (p : Pkg) (c : Nat) : Nat := sumL ((refFrames p c).map fun f => frameKib p f.1)

/-- The blocked condition of a context, judged at each tick (R340): RESIDENT, frames in DRAM, and none of its requests placed by a
step job that started in the last KVP_BLOCK_TICKS ticks. -/
def blockedNow (p : Pkg) (c : Nat) : Bool :=
  let x := ctxOf p c
  x.resident && !(refFrames p c).isEmpty && decide (x.placedAt = 0 ∨ p.kvp.blockTicks ≤ since p (x.placedAt - 1))

/-- A context that may be swapped out: blocked, without a pending FENCE, with room in its host region for its frames (R341). -/
def maySwapOut (p : Pkg) (c : Nat) : Bool :=
  let x := ctxOf p c
  decide (x.blockedSince ≠ 0) && !x.fencePending && decide (hostUsed x + ctxKib p c ≤ x.hostMib * 1024) &&
    (entriesOf p c).all fun e => !(reqOf p e).inStep

/-- The context that is swapped out: lowest priority, earliest BLOCKED_SINCE, lower number (R341). -/
def takeBlocked (p : Pkg) (n : Nat) : Option Nat :=
  firstBy (fun a b => decide (ctxPriority p a < ctxPriority p b) || (decide (ctxPriority p a = ctxPriority p b) &&
    (decide (since p (ctxOf p b).blockedSince < since p (ctxOf p a).blockedSince) ||
      (decide (since p (ctxOf p a).blockedSince = since p (ctxOf p b).blockedSince) && decide (a < b)))))
    ((ctxsOfPen p n).filter (maySwapOut p))

/-- The places of the host region that come back with a context, each once, with the pen of the frame. -/
def backFrames (p : Pkg) (c : Nat) : List (Nat × Nat) :=
  ((backEntries p c).flatMap fun e => (reqOf p e).parts.filterMap fun x =>
    match x.2 with | .host off => some ((reqOf p e).pen, off) | _ => none).eraseDups

/-- A context's host frames fit the frames free for admission of their pens (R341, 1). -/
def backFits (p : Pkg) (c : Nat) : Bool :=
  (upto 16).all fun m => decide (((backFrames p c).filter fun f => decide (f.1 = m)).length ≤ freeAdmit (poolOf p m))

/-- Bring a context in (R341, 1). -/
def swapIn (p : Pkg) (n c : Nat) : Pkg :=
  let p1 := modPool p n fun o => { o with swap := some (c, true) }
  judgeSwap (forAll (backEntries p1 c) (fun q e => startCopy q e 5 (hostKeys q e)) p1) n

/-- Swap a context out, with its requests in every pen (R341, 2). -/
def swapOut (p : Pkg) (n c : Nat) : Pkg :=
  let k := (refFrames p c).length
  let p1 := modCtx p c fun x => { x with resident := false, nonResidentAt := now p, blockedSince := 0 }
  let p2 := modPool p1 n fun o => { o with swap := some (c, false), ctxSwaps := inc64 o.ctxSwaps }
  let p3 := forAll (entriesOf p2 c) (fun q e =>
    let r := reqOf q e
    let q1 := if r.st = rqPrefill ∨ r.st = rqDecode then modReq q e fun x => { x with st := rqSwapped, prev := r.st } else q
    startCopy (stopCopies q1 e [0, 1, 3, 4]) e 2 (dramKeys q1 e)) p2
  judgeSwap (logEvent p3 c (evStatus codeKvContextOut) codeKvContextOut 0 (c + 256 * n) 0 k) n

/-- One context swap of a pen begins; one whose copies have all been stopped is over (R341). -/
def contextSwapOp (p : Pkg) (n : Nat) : Pkg :=
  let q := judgeSwap p n
  if (poolOf q n).swap.isSome then q
  else match takeRunnable q n with
    | none => q
    | some c =>
      if backFits q c then swapIn q n c
      else match takeBlocked q n with
        | some b => swapOut q n b
        | none => q

end Sys2Proof.Machine
end

