-- ==== Sys2Proof/Machine/LeashOps.lean ====
section
/-! DEFINITION. Shared operations of the Leash: target, budget and floor, cap commands, emergencies, throttles, hints, the division of
energy, and array rates (R390 to R412). Budget and floor are held in 0.1 mW, powers of ticks in mW, energies in 2^-16 µJ. -/

namespace Sys2Proof.Machine

def modLsh (p : Pkg) (f : Lsh → Lsh) : Pkg := { p with lsh := f p.lsh }

/-! ### Target, budget and floor (R391, R396, R400) -/

/-- The hard cap and, while an emergency is active, LSH_EMERG_CAP: the targets that B falls to at once, in W (Table 12-1). -/
def hardTargets (p : Pkg) : List Nat := p.lsh.hard.toList ++ (if emergency p then [p.lsh.emergCap] else [])

/-- The target in W (Table 12-1). -/
def target (p : Pkg) : Nat := (hardTargets p).foldl min (min p.lsh.soft p.lsh.local_)

/-- The budget after one more tick, from a target and a hard target, and the ramp limit (R391). -/
def nextBudget (budget tgt : Nat) (hard : Option Nat) (ramp : Nat) : Nat :=
  let falls := match hard with | some h => decide (h < budget) | none => false
  if falls then tgt
  else if tgt < budget then max tgt (budget - ramp)
  else min tgt (budget + ramp)

/-- The lowest of the hard targets, in 0.1 mW. -/
def hardTarget (p : Pkg) : Option Nat :=
  match hardTargets p with
  | [] => none
  | x :: t => some (10000 * t.foldl min x)

/-- A: the mean of P over the last 10,000 ticks, in 0.1 mW (R390). -/
def powerAvg (p : Pkg) : Nat := sumL (p.lsh.hist.map (·.power)) / 1000

/-- The mean array power over the last 10,000 ticks, in 0.1 mW. -/
def arrayAvg (p : Pkg) : Nat := sumL (p.lsh.hist.map (·.arrayPower)) / 1000

/-- The ceiling G in 0.1 mW (Table 12-1). -/
def ceiling (p : Pkg) : Nat := min p.lsh.budget (powerAvg p + 10000 * p.lsh.ramp)

/-- A step job is in set-up or in flight in some pen. -/
def anyStep (p : Pkg) : Bool := p.pens.any fun x => x.2.step.isSome

/-- LSH_STATUS.TROT_ACTIVE (R400). -/
def trotActive (p : Pkg) : Bool := decide (p.lsh.trotPct ≠ 0) && (anyStep p || decide (now p < p.lsh.trotUntil))

/-- The hints that act: none while LSH_CTRL.HINT_EN is 0 (R404, Table 12-5). -/
def actingHints (p : Pkg) : List Hint := if p.lsh.hintEn then p.lsh.hints else []

/-- Hints in force at a tick (R405). -/
def hintsAt (p : Pkg) (t : Nat) : List Hint := (actingHints p).filter fun h => decide (h.start ≤ t ∧ t < h.stop)

/-- The target level L at a tick, in 0.1 mW: the largest hint of each pen in force, and the mean non-array power (R405). -/
def levelAt (p : Pkg) (t : Nat) : Nat :=
  let hs := hintsAt p t
  let pens := (hs.map (·.pen)).eraseDups
  10000 * sumL (pens.map fun n => (hs.filter fun h => decide (h.pen = n)).foldl (fun m h => max m h.watts) 0) +
    (powerAvg p - arrayAvg p)

/-- H: it rises at the ramp limit so as to reach each hint's level by its START (R405). -/
def hintLevel (p : Pkg) : Nat :=
  let t := now p
  (((actingHints p).filter fun h => decide (t < h.start)).map (·.start)).foldl
    (fun m c => max m (levelAt p c - p.lsh.ramp * (c - t))) (levelAt p t)

/-- The hints that hold H above PCT × A in this tick: those in force, or where H rises ahead of a later START, those in force then
(R405, R407). -/
def causingHints (p : Pkg) : List Hint :=
  let t := now p
  let ahead := ((actingHints p).filter fun h => decide (t < h.start)).filter fun h =>
    decide (levelAt p t < hintLevel p ∧ levelAt p h.start - p.lsh.ramp * (h.start - t) = hintLevel p)
  if trotActive p = false ∨ hintLevel p ≤ powerAvg p * p.lsh.trotPct / 100 then []
  else match ahead with
    | [] => hintsAt p t
    | h :: _ => hintsAt p h.start

/-- The floor F of a tick (R400). -/
def nextFloor (p : Pkg) : Nat :=
  let l := p.lsh
  if l.trotPct = 0 then 0
  else if trotActive p then
    min (ceiling p * 98 / 100) (max (max (powerAvg p * l.trotPct / 100) (hintLevel p)) (l.floor_ - l.ramp))
  else l.floor_ - l.ramp

/-- Record HINT_CLIPPED once for each hint in force whose level exceeds 0.98 G (R405). -/
def clipHints (p : Pkg) : Pkg :=
  if ceiling p * 98 / 100 < levelAt p (now p) then
    let hs := (hintsAt p (now p)).filter fun h => !h.clipped
    let p1 := forAll hs (fun q h => log q codeHintClipped h.ctx h.ctx h.watts (ceiling q / 10000)) p
    modLsh p1 fun l => { l with hints := l.hints.map fun h => if h.start ≤ now p ∧ now p < h.stop then { h with clipped := true } else h }
  else p

/-! ### Caps (R394 to R397) -/

/-- The fields of a cap command (Table 12-6). -/
def capWatts (v : Nat) : Nat := bitsOf v 12 0
def capKind (v : Nat) : Nat := bitsOf v 14 13
def capRamp (v : Nat) : Nat := bitsOf v 26 16

/-- What refuses a cap command (R394). -/
def capBar (v : Nat) : Option Nat :=
  let w := capWatts v
  let r := capRamp v
  let k := capKind v
  if (k < 2 ∧ (w < 1000 ∨ 4200 < w)) ∨ (k = 2 ∧ w ≠ 0) then some stLengthInvalid
  else if r ≠ 0 ∧ (r < 50 ∨ 2000 < r) then some stLengthInvalid
  else if k = 3 ∨ bitOf v 15 = true ∨ v / 2 ^ 27 ≠ 0 then some stFormatInvalid
  else none

/-- A cap command is sampled: it takes the place of a pending one; one that comes after its tick is recorded (R395). -/
def takeCap (p : Pkg) (v tick : Nat) : Pkg :=
  let c : CapCmd := { watts := capWatts v, kind := capKind v, ramp := capRamp v, tick := tick, sampled := now p }
  let p1 := modLsh p fun l => { l with pending := some c }
  if tick ≠ 0 ∧ tick < now p then
    log (modLsh p1 fun l => { l with lateSticky := true }) codeCapLate 0 (tick % 2 ^ 32) (tick / 2 ^ 32) 0
  else p1

/-- A cap command falls due (R395): SOFT and RELEASE in the tick that samples them, HARD not before the next. -/
def capDue (p : Pkg) (c : CapCmd) : Bool :=
  (decide (c.tick = 0) || (p.tick.countSet && decide (c.tick ≤ now p))) &&
    (decide (c.kind ≠ 1) || decide (c.sampled < c.tick) || decide (c.sampled < now p))

/-- The pending cap command of a kind, when it is due. -/
def dueCap (p : Pkg) (kind : Nat) : Option CapCmd :=
  match p.lsh.pending with
  | some c => if c.kind = kind ∧ capDue p c = true then some c else none
  | none => none

/-- SLEW_STICKY: B is above the target (Table 12-4). -/
def markSlew (p : Pkg) : Pkg := modLsh p fun l => { l with slewSticky := l.slewSticky || decide (10000 * target p < l.budget) }

/-- CAP_SLEW_LIMITED when B must fall for more than one tick (R396). -/
def noteSlew (p : Pkg) : Pkg :=
  let ticks := ceilDiv (p.lsh.budget - 10000 * target p) p.lsh.ramp
  let q := markSlew p
  if 1 < ticks then
    log (modLsh q fun l => { l with slewCount := inc32 l.slewCount }) codeCapSlewLimited 0 (target p) (p.lsh.budget / 10000) ticks
  else q

/-- A hard or emergency target takes effect: B equals the target in that tick; reason 0 command, 1 power, 2 thermal emergency (R397; log
entry 37). -/
def hardApplies (p : Pkg) (reason : Nat) : Pkg :=
  let t := target p
  let p1 := modLsh p fun l =>
    { l with budget := 10000 * t, hardAt := now p, hardCaps := inc32 l.hardCaps, hardSticky := true }
  msix (log p1 codeHardCap 0 t (p.lsh.power / 1000) reason) 0 1026

/-- Reply to the manager's CAP that was waiting, now that it acts (R456). -/
def capReply (p : Pkg) : Pkg :=
  match p.mgt.pending.find? fun c => decide (c.op = 5) with
  | none => p
  | some c =>
    mgtDone { p with mgt := { p.mgt with pending := p.mgt.pending.filter fun x => decide (x.op ≠ 5) } } c []

/-- A cap command takes effect, with its record (R394, R414). -/
def applyCap (p : Pkg) (c : CapCmd) : Pkg :=
  let p1 := modLsh p fun l =>
    { l with
      pending := none, ramp := if c.ramp = 0 then l.ramp else c.ramp
      soft := if c.kind = 0 then c.watts else l.soft
      hard := if c.kind = 1 then some c.watts else if c.kind = 2 then none else l.hard }
  let p2 := log p1 codeCapApplied 0 c.kind c.watts c.ramp
  capReply (if c.kind = 1 then hardApplies p2 0 else noteSlew p2)

/-- A write of LSH_CAP_LOCAL; a lower one can start a fall (R396). -/
def localCap (p : Pkg) (w : Nat) : Pkg :=
  let p1 := modLsh p fun l => { l with local_ := w }
  if w < p.lsh.local_ then noteSlew p1 else p1

/-! ### Emergencies (R398, R410, R436) -/

/-- The ACTIVE contexts: those that a fault of the whole package reaches (R436). -/
def activeCtxs (p : Pkg) : List Nat := ctxsWhere p fun c => decide (c.st = ctxActive)

/-- A power or thermal emergency arises: its record reaches every ACTIVE context, and LSH_EMERG_CAP joins the target. -/
def emergencyOp (p : Pkg) (code source p0 p1 p2 reason : Nat) (f : Lsh → Lsh) : Pkg :=
  let fresh := !emergency p
  let q := logFault (modLsh p fun l => { f l with emergSticky := true }) code source p0 p1 p2 stInternalFault (activeCtxs p)
  judgeAlert (if fresh then hardApplies q reason else q)

/-- Emergencies whose conditions have not held for 10,000 ticks end (R398, R410). -/
def emergencyEnds (p : Pkg) : Pkg :=
  let stay (x : Option Nat) : Option Nat := x.filter fun t => decide (now p < t + 10000)
  judgeAlert (modLsh p fun l => { l with powerEm := stay l.powerEm, thermalEm := stay l.thermalEm })

/-! ### Throttling (R409) -/

/-- The VARR of a quadrant may step: at most 5 mV in 5 ticks, 10 mV per µs (Table 12-2). -/
def varrReady (p : Pkg) (q : Nat) : Bool := decide (tget 0 p.lsh.varrAt q = 0 ∨ tget 0 p.lsh.varrAt q + 5 ≤ now p + 1)

/-- Arrays of a quadrant whose reading, in array order, has reached LSH_THROTTLE. -/
def hotArrays (p : Pkg) (q : Nat) (tjs : List Nat) : List Nat :=
  ((upto 64).filter fun i => decide (p.lsh.throttle ≤ tjs.getD i 0)).map (64 * q + ·)

/-- One step of a throttling quadrant, from the readings of its arrays: it ends once every array lies 2 °C below; else every 1,000 ticks VARR
falls by 5 mV, or at 0.60 V the hot arrays are gated by 8/64 more. DESIGN CHOICE: the gating of the arrays ends with the throttle (log
entry 37). -/
def throttleStep (p : Pkg) (q : Nat) (tjs : List Nat) : Pkg :=
  let v := tget 0 p.lsh.varr q
  if tjs.all fun t => decide (t + 2 < p.lsh.throttle) then
    log (modLsh p fun l => { l with
      throttling := tset false l.throttling q false
      cut := (upto 64).foldl (fun c i => tset 0 c (64 * q + i) 0) l.cut }) codeThrottleEnd q q v 0
  else if now p < tget 0 p.lsh.throttleAt q + 1000 then p
  else if 600 < v then if !varrReady p q then p else modLsh p fun l => { l with
    throttleAt := tset 0 l.throttleAt q (now p), varr := tset 0 l.varr q (max 600 (v - 5)), varrAt := tset 0 l.varrAt q (now p + 1) }
  else modLsh p fun l => { l with
    throttleAt := tset 0 l.throttleAt q (now p)
    cut := (hotArrays p q tjs).foldl (fun c a => tset 0 c a (min 64 (tget 0 c a + 8))) l.cut }

/-! ### Hints (R404) -/

/-- HINT (Table 8-8, R404). -/
def hintOp (p : Pkg) (c : Nat) (d : Desc) : Pkg :=
  let b := d.raw
  let n := (ctxOf p c).pen
  let start := fieldAt b 8 8
  let stop := start + fieldAt b 16 4
  let watts := fieldAt b 20 4 % 8192
  let live := p.lsh.hints.filter fun h => decide (h.pen = n ∧ now p < h.stop)
  let bar := firstFail (headRsv b ++ [
    need (decide (1 ≤ fieldAt b 16 4 ∧ fieldAt b 16 4 < 2 ^ 32 - 1)) stLengthInvalid,
    need (decide (1 ≤ watts ∧ watts ≤ 4200)) stLengthInvalid, need (decide (fieldAt b 20 4 < 8192)) stFormatInvalid, rsv b 24 40,
    need (decide ((penOf p n).st = penBound ∨ (penOf p n).st = penActive)) stPenUnavailable,
    need (decide (start ≤ now p + 100000000)) stLengthInvalid, need (decide (live.length < 8)) stLengthInvalid])
  match bar with
  | some st => answer p c d st 0 false false
  | none =>
    let p1 := if stop ≤ now p ∨ p.lsh.hintEn = false then p
      else modLsh p fun l => { l with hints := l.hints ++ [{ ctx := c, pen := n, watts := watts, start := start, stop := stop }] }
    answer p1 c d stOk 0 false false

/-! ### Energy (R406 to R408) -/

/-- Divide an energy among recipients by weight; each part truncates, and the remainder goes to the lowest-numbered (R408). -/
def share (e : Nat) (ws : List (Nat × Nat)) : List (Nat × Nat) :=
  let l := sortBy (fun a b => decide (a.1 < b.1)) (ws.filter fun w => decide (0 < w.2))
  let tot := sumL (l.map Prod.snd)
  let parts := l.map fun w => (w.1, e * w.2 / tot)
  match parts with
  | [] => []
  | (n, x) :: t => (n, x + (e - sumL (parts.map Prod.snd))) :: t

/-- Bill a pen and a context of it. -/
def billCtx (p : Pkg) (n c e : Nat) : Pkg :=
  modLsh p fun l =>
    { l with penEnergy := tset 0 l.penEnergy n (tget 0 l.penEnergy n + e), ctxEnergy := tset 0 l.ctxEnergy c (tget 0 l.ctxEnergy c + e) }

/-- Step 1: the energy of the Hound cores, and what is left (R407). -/
def billHounds (p : Pkg) (rest : Nat) (es : List (Nat × Nat)) : Pkg × Nat :=
  es.foldl (fun acc e =>
    let x := min e.2 acc.2
    let q := match coreCtx acc.1 e.1 with
      | some c => billCtx acc.1 (ctxOf acc.1 c).pen c x
      | none => modLsh acc.1 fun l => { l with unattr := l.unattr + x }
    (q, acc.2 - x)) (p, rest)

/-- Step 2: the trot that hints caused in the tick measured goes to the hinting contexts by WATTS (R407). -/
def billHints (p : Pkg) (rest e : Nat) : Pkg × Nat :=
  let ws := (p.lsh.hintBill.map Prod.fst).eraseDups.map fun c =>
    (c, sumL ((p.lsh.hintBill.filter fun h => decide (h.1 = c)).map Prod.snd))
  if ws.isEmpty then (p, rest)
  else
    let x := min e rest
    (forAll (share x ws) (fun q s => billCtx q (ctxOf q s.1).pen s.1 s.2) p, rest - x)

/-- Real beats of each pen in a tick. -/
def penBeats (p : Pkg) (bs : List (Nat × Nat)) : List (Nat × Nat) :=
  (upto 16).filterMap fun n =>
    let k := sumL ((bs.filter fun b => decide ((arrOf p b.1).pen = n + 1)).map Prod.snd)
    if k = 0 then none else some (n, k)

/-- The weights of step 3: a pen's real beats and its share of the trot beats by real beats over the last 10,000 ticks, all scaled by
the sum of those beats (R407). -/
def penWeights (p : Pkg) (trot : Nat) (real : List (Nat × Nat)) : List (Nat × Nat) :=
  let at_ (l : List (Nat × Nat)) (n : Nat) : Nat := sumL ((l.filter fun e => decide (e.1 = n)).map Prod.snd)
  let all := p.lsh.hist.flatMap (·.beats)
  let tot := sumL (all.map Prod.snd)
  (upto 16).map fun n => (n, if tot = 0 then at_ real n else at_ real n * tot + trot * at_ all n)

/-- The positions that a pen's contexts fed: in the running step job, else in the most recent one (R407). -/
def propsOf (p : Pkg) (n : Nat) : List (Nat × Nat) :=
  match stepOf p n with
  | some t => fedBy_ p t
  | none => (penOf p n).props

/-- Steps 3 and 4: the rest by beats, and each pen's share by positions (R407). -/
def billPens (p : Pkg) (rest trot : Nat) (real : List (Nat × Nat)) : Pkg :=
  let parts := share rest (penWeights p trot real)
  if parts.isEmpty then modLsh p fun l => { l with unattr := l.unattr + rest }
  else forAll parts (fun q s =>
    let cs := share s.2 (propsOf q s.1)
    if cs.isEmpty then
      modLsh q fun l =>
        { l with penEnergy := tset 0 l.penEnergy s.1 (tget 0 l.penEnergy s.1 + s.2), penNoctx := tset 0 l.penNoctx s.1 (tget 0 l.penNoctx s.1 + s.2) }
    else forAll cs (fun r c => billCtx r s.1 c.1 c.2) q) p

/-- The energy of one tick, in 2^-16 µJ, from its power in mW (R390). -/
def tickEnergy (mw : Nat) : Nat := mw * 65536 / 10000

/-- The division of a tick's energy (R406, R407). -/
def billTick (p : Pkg) (m : Measure) : Pkg :=
  let e := tickEnergy m.power
  let p1 := modLsh p fun l => { l with total := l.total + e }
  let (p2, r1) := billHounds p1 e m.houndEnergy
  let (p3, r2) := billHints p2 r1 m.hintEnergy
  billPens p3 r2 (sumL (m.trotBeats.map Prod.snd)) (penBeats p3 m.realBeats)

/-! ### The limits that the Leash keeps (R393, R403) -/

/-- Within 1,000 ticks of a hard or emergency target's taking effect no limit holds. -/
def hardRecent (p : Pkg) : Bool := decide (p.lsh.hardCaps ≠ 0 ∧ now p < p.lsh.hardAt + 1000)

/-- The mean of P over the last 10,000 ticks does not exceed that of B by more than 1 % (R393). -/
def meanHolds (p : Pkg) : Bool :=
  decide (1000 * sumL (p.lsh.hist.map (·.power)) ≤ 101 * sumL (p.lsh.hist.map (·.budget)))

/-- P of the last tick does not exceed its B by more than 10 % (R393). -/
def tickHolds (p : Pkg) : Bool :=
  match p.lsh.hist.getLast? with
  | some x => decide (100 * x.power ≤ 11 * x.budget)
  | none => true

/-- Arrays in soft start or soft stop. -/
def ramping (p : Pkg) : Nat := (p.lsh.soft_.filter fun e => decide (e.2.mode ≠ 0)).length

/-- The most by which VIN6 current may change from one tick to the next, in mA: n * 2.5 A / SOFTSTART + 2 A (R403). -/
def rampBound (p : Pkg) : Nat := ramping p * 2500 / max 1 p.lsh.softStart + 2000

/-- VIN6 current has not risen by more than the bound between the last two ticks, and has not fallen by more (R403). -/
def riseHolds (p : Pkg) : Bool := decide (p.lsh.amps ≤ p.lsh.ampsBefore + rampBound p)
def rampHolds (p : Pkg) : Bool := riseHolds p && decide (p.lsh.ampsBefore ≤ p.lsh.amps + rampBound p)

/-- The limits of R393 and R403, which hold but for the 1,000 ticks after a hard or emergency target. -/
def limitsHold (p : Pkg) : Bool := hardRecent p || (meanHolds p && tickHolds p && rampHolds p)

/-- The Leash must reduce power: P lies above the ceiling, or a limit on P or on the rise of the current does not hold (R391 to R393,
R403). -/
def overLimit (p : Pkg) : Bool :=
  decide (ceiling p < 10 * p.lsh.power) || (!hardRecent p && !(meanHolds p && tickHolds p && riseHolds p))

/-! ### Trot (R401, Table 12-2) -/

/-- The trot load of the package in mW. -/
def trotTotal (l : Lsh) : Nat := sumL (l.trot.map Prod.snd)

/-- Usable arrays of a quadrant that did no real work in a tick. -/
def idleArrays (p : Pkg) (real : List (Nat × Nat)) (q : Nat) : List Nat :=
  (upto 64).map (64 * q + ·) |>.filter fun a => arrayUsable p a && !real.any fun b => decide (b.1 = a ∧ 0 < b.2)

/-- Divide a load evenly over places with room, smallest room first: what one cannot take goes evenly to those after it. -/
def levelFill : List (Nat × Nat) → Nat → List (Nat × Nat)
  | [], _ => []
  | (k, room) :: l, w => let x := min room (ceilDiv w (l.length + 1)); (k, x) :: levelFill l (w - x)

/-- Spread a trot load evenly over the quadrants, what a full quadrant cannot take evenly over the others, and in each evenly over its idle
arrays, up to 8 W each (R401). -/
def spreadTrot (p : Pkg) (real : List (Nat × Nat)) (w : Nat) : Tab Nat :=
  let qs := sortBy (fun a b => decide (a.2 < b.2)) ((upto 4).map fun q => (q, 8000 * (idleArrays p real q).length))
  (levelFill qs w).foldl (fun t e =>
    (levelFill ((idleArrays p real e.1).map fun a => (a, 8000)) e.2).foldl (fun u a => tset 0 u a.1 a.2) t) []

/-- What F needs beyond the power of everything but trot (R401). Loads in mW, the floor in 0.1 mW. -/
def trotNeed (p : Pkg) : Nat := ceilDiv p.lsh.floor_ 10 - (p.lsh.power - trotTotal p.lsh)

/-- Trot makes P reach F, within a tick (R401). -/
def setTrot (p : Pkg) (real : List (Nat × Nat)) : Pkg := modLsh p fun l => { l with trot := spreadTrot p real (trotNeed p) }

/-! ### Gating and VARR (R392, R405, R409, Table 12-2) -/

/-- A hint whose lead has begun names a pen with an array in the quadrant: VARR rises ahead of it (R405). -/
def hintLeads (p : Pkg) (q : Nat) : Bool :=
  (actingHints p).any fun h => decide (h.start ≤ now p + p.lsh.varrLead ∧ now p < h.start) &&
    (setOf p h.pen).any fun a => decide (arrayQuad a = q)

/-- The power predicted for a quadrant at a VARR, in 0.1 mW. -/
def predicted (p : Pkg) (q mv : Nat) : Nat := 10 * (Config.predictPower q mv (now p)).toNat

/-- The next VARR of a quadrant: within 600 mV and LSH_VARR_MAX, in steps of 5 mV. It falls while the quadrant is gated under a
limit, and while its predicted power lies above B - 2 %; it rises only while duty is 64/64, as far as the prediction allows, up to B ahead of
a hint; a throttling quadrant's does not rise. It starts from the lowest of the range (R392, R405, R409). -/
def nextVarr (p : Pkg) (high : Bool) (q : Nat) : Nat :=
  let l := p.lsh
  let v := tget 0 l.varr q
  let b := l.budget
  let top := l.varrMax / 5 * 5
  if v < 600 then 600
  else if !varrReady p q then v
  else if top < v ∨ (high = true ∧ tget 0 l.duty q < 64) ∨ (hintLeads p q = false ∧ b * 98 / 100 < predicted p q v) then max 600 (v - 5)
  else if tget false l.throttling q = false ∧ v + 5 ≤ top ∧ high = false ∧ tget 0 l.duty q = 64 ∧
      (predicted p q (v + 5) ≤ b * 98 / 100 ∨ (hintLeads p q = true ∧ predicted p q (v + 5) ≤ b)) then v + 5
  else v

/-- The next duty of a quadrant, 0 to 64: it falls while P is over a limit that trot alone cannot meet, and is given back while P is not
over one and the quadrant does not throttle. The amount beyond one 64th is open. -/
def nextDuty (p : Pkg) (high : Bool) (q : Nat) : Nat :=
  let d := tget 0 p.lsh.duty q
  let k := 1 + (Config.gateBy q (now p)).toNat
  if high then d - k else if tget false p.lsh.throttling q then min 64 d else min 64 (d + k)

/-- Gating and VARR of every quadrant after trot: they act on what is left over a limit once trot has been taken back (R392). -/
def setMeans (p : Pkg) (before : Nat) : Pkg :=
  let back := before - trotTotal p.lsh
  let high := overLimit p && decide (ceiling p < 10 * (p.lsh.power - back) ∨ back = 0)
  let one (q : Nat) (l : Lsh) : Lsh :=
    let v := nextVarr p high q
    { l with
      varr := tset 0 l.varr q v, duty := tset 0 l.duty q (nextDuty p high q)
      varrAt := if v = tget 0 p.lsh.varr q then l.varrAt else tset 0 l.varrAt q (now p + 1) }
  modLsh p fun l => (upto 4).foldl (fun m q => one q m) l

/-! ### Soft start and soft stop (R402) -/

/-- The next state of an array's ramp: real work after at least 8 ticks without starts a soft start from the array's trot duty; the end of
real work starts a soft stop from the current the array draws, at most 2.5 A (R402, R403). -/
def nextRamp (p : Pkg) (a : Nat) (real : Bool) (trot : Nat) : SoftRamp :=
  let r := tget {} p.lsh.soft_ a
  let s := p.lsh.softStart
  let on : SoftRamp := if r.mode = 0 ∨ s ≤ r.done + 1 then { r with mode := 0, done := 0, from_ := 0 } else { r with done := r.done + 1 }
  if real then
    if r.recent = 0 then { recent := 8, mode := 1, from_ := (Config.trotDuty trot).toNat }
    else if r.mode = 2 then { recent := 8 } else { on with recent := 8 }
  else if r.recent = 8 then { recent := 7, mode := 2, from_ := min 2500 (Config.arrayCurrent a (now p)).toNat }
  else { on with recent := r.recent - 1 }

/-- The gating duty of an array, in 64ths: in soft start it rises linearly to that of its quadrant over SOFTSTART ticks (R402); a hot array of a
throttling quadrant at 0.60 V is gated further (R409). -/
def arrayDuty (l : Lsh) (a : Nat) : Nat :=
  let r := tget {} l.soft_ a
  let d := tget 0 l.duty (arrayQuad a) - tget 0 l.cut a
  if r.mode = 1 then r.from_ + (d - r.from_) * r.done / max 1 l.softStart - (r.from_ - d) * r.done / max 1 l.softStart else d

/-- The current of an array in soft stop, in mA: trot takes the work's place at the same current and falls linearly to the array's share of
F over SOFTSTART ticks, at the 6.0 V of VIN6 (R402). -/
def stopCurrent (l : Lsh) (a : Nat) : Nat :=
  let r := tget {} l.soft_ a
  let part := tget 0 l.trot a / 6
  r.from_ - (r.from_ - part) * r.done / max 1 l.softStart

/-- Every array's ramp after a tick, from the real beats of the tick and the trot loads before it; an array that is not usable has none
(R401, R402). -/
def setRamps (p : Pkg) (real : List (Nat × Nat)) (trot : Tab Nat) : Pkg :=
  let works (a : Nat) : Bool := real.any fun b => decide (b.1 = a ∧ 0 < b.2)
  modLsh p fun l =>
    { l with soft_ := (upto 256).foldl (fun t a =>
        tset {} t a (if arrayUsable p a then nextRamp p a (works a) (tget 0 trot a) else {})) l.soft_ }

/-- The trot of an array in soft stop, unless TROT_PCT = 0 disables trot: it takes the work's place at the same current, at the 6.0 V of VIN6
and up to the 8 W that an array carries, and falls to the array's share of F (R400 to R402; log entry 37). -/
def stopTrots (p : Pkg) : Pkg :=
  if p.lsh.trotPct = 0 then p
  else modLsh p fun l =>
    { l with trot := ((l.soft_.filter fun e => decide (e.2.mode = 2)).map Prod.fst).foldl
               (fun t a => tset 0 t a (max (tget 0 l.trot a) (min 8000 (6 * stopCurrent l a)))) l.trot }

/-- FLOOR_SHORT: the trot of all arrays is less than F needs (R401). -/
def judgeFloor (p : Pkg) (need : Nat) : Pkg := modLsh p fun l => { l with floorShort := decide (trotTotal l < need) }

/-- What the Leash does at a tick by the means of Table 12-2, in their order: trot, gating, VARR, with the ramps of the arrays (R391, R392,
R401, R402; log entry 37). -/
def actLeash (p : Pkg) (real : List (Nat × Nat)) : Pkg :=
  judgeFloor (stopTrots (setRamps (setMeans (setTrot p real) (trotTotal p.lsh)) real p.lsh.trot)) (trotNeed p)

/-! ### The tick (R391) -/

/-- Count the beats of one array (Table 12-3). -/
def countBeats (t : Tab Nat) (bs : List (Nat × Nat)) : Tab Nat :=
  bs.foldl (fun u b => tset 0 u b.1 ((tget 0 u b.1 + b.2) % 2 ^ 48)) t

/-- What each array was allowed to beat in the tick measured, and the VARR of each quadrant (R411). -/
def noteAllowed (l : Lsh) : Lsh :=
  let add (t u : Tab Nat) : Tab Nat := (upto 4).foldl (fun v q => tset 0 v q (tget 0 v q + tget 0 u q)) t
  let own := ((l.soft_.filter fun e => decide (e.2.mode = 1)).map Prod.fst ++ l.cut.map Prod.fst).eraseDups
  { l with
    rateTicks := l.rateTicks + 1, varrSum := add l.varrSum l.varr, dutySum := add l.dutySum l.duty
    dutyOff := own.foldl (fun t a => tset 0 t a (tget 0 t a + ((arrayDuty l a : Int) - ((tget 0 l.duty (arrayQuad a) : Nat) : Int)))) l.dutyOff }

/-- What the Leash takes from the measurement of the previous tick. An array that is not usable carries no trot (R401); a thermal emergency
stays while an array or a die reads above 100 °C or a stack above 85 °C (R410). -/
def takeMeasure (p : Pkg) (m : Measure) : Pkg :=
  let x : PowerTick := { power := m.power, arrayPower := m.arrayPower, budget := p.lsh.budget, beats := penBeats p m.realBeats }
  let trots := m.trotBeats.filter fun b => arrayUsable p b.1
  modLsh (modLsh p noteAllowed) fun l =>
    { l with
      power := m.power, hist := (l.hist ++ [x]).drop (l.hist.length + 1 - 10000), amps := m.amps, ampsBefore := l.amps
      tjMax := m.hotTj, tjArray := m.hotArray
      beats := countBeats (countBeats l.beats m.realBeats) trots
      thermalEm := if l.thermalEm.isSome && decide (100 < m.hotTj ∨ 100 < m.hotDie ∨ 85 < m.hotStack) then some (now p) else l.thermalEm }

/-- The Leash at a tick boundary (R391, R400, R406). -/
def leashTick (p : Pkg) (m : Measure) : Pkg :=
  let p1 := takeMeasure p m
  let b := nextBudget p1.lsh.budget (10000 * target p1) (hardTarget p1) p1.lsh.ramp
  let p2 := markSlew (modLsh (markSlew p1) fun l => { l with budget := b })
  let p3 := modLsh p2 fun l => { l with floor_ := nextFloor p2 }
  let p4 := billTick (clipHints (actLeash p3 m.realBeats)) m
  modLsh p4 fun l => { l with
    hints := l.hints.filter fun h => decide (now p < h.stop)
    hintBill := (causingHints p3).map fun h => (h.ctx, h.watts) }

/-! ### Beat rates (R47, R411) -/

/-- Table 2-1, in M beats/s: rows of 0.60 V to 0.90 V in steps of 0.05 V, columns of 30, 70 and 105 °C. -/
def beatTable : List (Int × Int × Int) :=
  [(950, 900, 840), (1130, 1070, 1000), (1310, 1240, 1150), (1480, 1400, 1300), (1610, 1520, 1410), (1720, 1620, 1510), (1800, 1700, 1580)]

/-- The typical rate of one row at a temperature, scaled by 280 (R47). -/
def rowRate (r : Int × Int × Int) (tj : Int) : Int :=
  if tj ≤ 70 then 280 * r.1 + 7 * (r.2.1 - r.1) * (tj - 30) else 280 * r.2.1 + 8 * (r.2.2 - r.2.1) * (tj - 70)

/-- The typical rate at a VARR in mV and a Tj, in M beats/s scaled by 14,000 (R47). -/
def typicalRate (mv : Nat) (tj : Int) : Int :=
  let k := min 5 ((mv - 600) / 50)
  let lo := rowRate (beatTable.getD k (0, 0, 0)) tj
  let hi := rowRate (beatTable.getD (k + 1) (0, 0, 0)) tj
  50 * lo + (hi - lo) * ((mv : Int) - (600 + 50 * k : Nat))

/-- The ns in which an array was allowed to beat in the present interval, from the gating of its ticks (R411). -/
def allowedNs (p : Pkg) (a : Nat) : Nat := (((tget 0 p.lsh.dutySum (arrayQuad a) : Nat) : Int) + tget 0 p.lsh.dutyOff a).toNat * 100 / 64

/-- The mean VARR of an array's quadrant in the present interval, in mV (R411). -/
def meanVarr (p : Pkg) (a : Nat) : Nat := tget 0 p.lsh.varrSum (arrayQuad a) / max 1 p.lsh.rateTicks

/-- An ungated rate breaks R47: so many beats in so many ns are below 94 % of the typical rate at a VARR and a Tj. -/
def breaksRate (mv : Nat) (tj : Int) (ns beats : Nat) : Bool := decide ((beats : Int) * (1000 * 100 * 14000) < 94 * typicalRate mv tj * ns)

/-- Beats that an array's counter has gained in the present interval (R411). -/
def gained (p : Pkg) (a : Nat) : Nat := (tget 0 p.lsh.beats a + 2 ^ 48 - tget 0 p.lsh.beatsAt a) % 2 ^ 48

/-- The ungated rate of an array in M beats/s. -/
def ungatedRate (p : Pkg) (a : Nat) : Nat := if allowedNs p a = 0 then 0 else gained p a * 1000 / allowedNs p a

/-- An interval is judged when the array completed 10,000 beats in it (R411). -/
def judged (p : Pkg) (a : Nat) : Bool := decide (10000 ≤ gained p a ∧ allowedNs p a ≠ 0)

/-- Slow intervals in a row with the present one (R411). -/
def slowRow (p : Pkg) (b : BeatSample) : Nat :=
  let old := (tget {} p.lsh.rates b.array : ArrRate).bad
  if !judged p b.array then old
  else if breaksRate (meanVarr p b.array) b.tj (allowedNs p b.array) (gained p b.array) then old + 1 else 0

/-- The interval is the tenth slow one of a usable array, or a later one (R411). -/
def slowNow (p : Pkg) (b : BeatSample) : Bool := judged p b.array && decide (10 ≤ slowRow p b) && arrayUsable p b.array

/-- The arrays whose rates an interval gives, with their mean Tj: every array that beat, has a rate or has a reading; without a reading its Tj
stands as in the interval before (R411; log entry 37). -/
def ratesDue (p : Pkg) (l : List BeatSample) : List BeatSample :=
  (upto 256).filterMap fun a =>
    match l.find? fun b => decide (b.array = a) with
    | some b => some b
    | none =>
      let r : ArrRate := tget {} p.lsh.rates a
      if gained p a = 0 ∧ r = {} then none else some { array := a, tj := r.tj }

/-- One array's interval (R411, R412): its rates, and quarantine after 10 slow intervals in a row. An array that has never beaten has no beats
of ten intervals. -/
def judgeRate (p : Pkg) (b : BeatSample) : Pkg :=
  let old : ArrRate := tget {} p.lsh.rates b.array
  let beats := gained p b.array
  let bad := slowRow p b
  let new : ArrRate :=
    { eff := beats * 10 / max 1 (since p p.lsh.rateAt), ungated := ungatedRate p b.array, tj := b.tj.toNat % 128, slow := decide (10 ≤ bad), bad := bad
      recent := if old.recent.isEmpty && decide (beats = 0) then [] else (old.recent ++ [beats]).drop (old.recent.length + 1 - 10) }
  let p1 := modLsh p fun l => { l with rates := tset {} l.rates b.array new }
  if slowNow p b then
    quarantineNow (log p1 codeArraySlow b.array b.array new.ungated (typicalRate (meanVarr p b.array) b.tj / 14000).toNat) b.array 3
  else p1

/-- The rates of an interval are judged, and the next one begins (R411). -/
def judgeRates (p : Pkg) (samples : List BeatSample) : Pkg :=
  modLsh (forAll (ratesDue p samples) judgeRate p) fun l =>
    { l with rateAt := now p, beatsAt := l.beats, rateTicks := 0, varrSum := [], dutySum := [], dutyOff := [] }

end Sys2Proof.Machine
end

