-- ==== Sys2Proof/Machine/Order.lean ====
section
/-! DEFINITION. The order of the events of one tick: the class, the source and the entry of every command (R19, R20, R68, Tables 0-5 and
2-4), the order in which a tick serves them, and value events (R67; log entry 3). -/

namespace Sys2Proof.Machine

/-! ### Value events (R67) -/

/-- A BAR0 offset whose write gives a command or clears bits: each such write is delivered once per occurrence, whatever follows it in the
tick (R67). The others hold a value. -/
def commandOff (off : Nat) : Bool :=
  let ctx := decide (0x400000 ≤ off ∧ off < 0x800000)
  let pen := decide (0x200000 ≤ off ∧ off < 0x300000)
  let port := decide (0x1001000 ≤ off ∧ off < 0x1002000)
  let bind := decide (0x2101000 ≤ off ∧ off < 0x2105000)
  decide (off ∈ [0x100008, 0x80000C, 0x800010, 0x1000108, 0x100011C, 0x2000000, 0x2000038, 0x2200000, 0x2200034]) ||
    (ctx && decide (off % 0x4000 ∈ [4, 8])) || (pen && decide (off % 0x1000 = 4)) || (port && decide (off % 0x100 = 0)) ||
    (bind && decide (off % 0x40 ∈ [4, 0x1C]))

/-- The registers to which a BAR0 write gives a value: a whole 64-bit register for a write of it or of its upper half, which takes the
lower half with it, none for a lower half alone (R40), and each register of 4 bytes that it covers. -/
def writtenAt (off size : Nat) : List Nat :=
  let one (o : Nat) : List Nat :=
    if commandOff o || wide64 o then [] else if decide (4 ≤ o) && wide64 (o - 4) then [o - 4] else [o]
  if size = 4 ∧ off % 4 = 0 then one off
  else if size = 8 ∧ off % 8 = 0 then (if wide64 off then [off] else one off ++ one (off + 4))
  else []

/-- The values that a command writes, each by its source (a function below 64; from 256 on the doorbells of contexts, of mailboxes and of
binding pages) and its register. None for an event that is delivered once per occurrence. -/
def valuesOf : Instr → List (Nat × Nat)
  | .dbSqTail _ c _ => [(256 + c, 0)]
  | .dbCqHead _ c _ => [(256 + c, 4)]
  | .dbEqHead _ c _ => [(256 + c, 8)]
  | .hndMbCmdTail k _ _ => [(512 + k, 0x14)]
  | .hndMbReplyHead k _ _ => [(512 + k, 0x1C)]
  | .hndTqHead c _ _ => [(768 + c, 0x0C)]
  | .portEnable fn port _ => [(fn, 0x1001004 + 0x100 * port)]
  | .replicaKindWrite fn idx _ => [(fn, 0x910008 + 64 * idx)]
  | .tickCtrlWrite fn _ => [(fn, 0x10000C)]
  | .scnCtrlWrite fn _ => [(fn, 0x2200004)]
  | .penEnable fn n _ => [(fn, 0x200000 + 0x1000 * n)]
  | .penDisable fn n _ => [(fn, 0x200000 + 0x1000 * n)]
  | .penBudgetWrite fn _ off _ => [(fn, off)]
  | .ctxEnable fn c _ => [(fn, 0x400000 + 0x4000 * c)]
  | .ctxDisable fn c _ => [(fn, 0x400000 + 0x4000 * c)]
  | .bar0Write fn off size _ => (writtenAt off size).map fun o => (fn, o)
  | _ => []

/-- The commands that wait before the next tick boundary: events of the same tick. -/
def restOfTick (l : List Instr) : List Instr := l.takeWhile fun c => match c with | .tickBoundary => false | _ => true

/-- A doorbell of a context counts only from a function that reaches the context (R253). -/
def heard (p : Pkg) : Instr → Bool
  | .dbSqTail fn c _ => reaches p fn c
  | .dbCqHead fn c _ => reaches p fn c
  | .dbEqHead fn c _ => reaches p fn c
  | _ => true

/-- A later event of the tick gives a register of a source another value (R67). -/
def replaced (k : Nat × Nat) (s : State) : Bool := (restOfTick s.pending).any fun d => decide (k ∈ valuesOf d) && heard s.pkg d

/-- The last value that its source gives in the tick; a value that a later event of the tick replaces is not taken (R67). -/
def latest (c : Instr) (s : State) : Bool := !(valuesOf c).any fun k => replaced k s

/-- The registers of a BAR0 write whose value a later write of the tick replaces: only they are not taken (R67). -/
def goneAt (fn off size : Nat) (s : State) : List Nat := (writtenAt off size).filter fun o => replaced (fn, o) s

/-- The tail of the fabric command ring of a context at the end of the tick: the last value that its program writes in it, an issue carrying
one as well (R67, R427). -/
def fqTailOf (c : Nat) (tail : Word32) (s : State) : Nat :=
  (restOfTick s.pending).foldl (fun v d => match d with
    | .hndFqLoad e t _ => if e = c then t.toNat else v
    | .hndFqStore e t _ => if e = c then t.toNat else v
    | .hndFqAtomic e t _ => if e = c then t.toNat else v
    | .hndFqFence e t _ => if e = c then t.toNat else v
    | _ => v) tail.toNat

/-! ### Classes, sources and entries (R68, Table 2-4) -/

/-- Where an event stands in its tick: its class, the source within the class, and the entry that it concerns. -/
structure TickPlace where
  cls : Nat
  src : Nat
  entry : Nat := 0
deriving DecidableEq, Repr

/-- The number of sources of a class (Table 2-4). -/
def sourcesOf (cls : Nat) : Nat := [9, 298, 256, 257, 272, 67].getD cls 1

/-- The source of a descriptor among those of P4. -/
def descSource : Src → Nat
  | .ring c => c
  | .mailbox k => 256 + k

/-- A CANCEL of a ring is a P2 event of its context, one of a mailbox a P4 event (R265, R422). -/
def cancelPlace : Src → TickPlace
  | .ring c => ⟨2, c, 0⟩
  | .mailbox k => ⟨4, 256 + k, 0⟩

/-- A manager message comes by the management port or by I3C (Table 2-4). -/
def mgtPlace : Path → TickPlace
  | .port _ _ _ => ⟨5, 64, 0⟩
  | .i3c => ⟨5, 65, 0⟩

/-- The source of a request's deadline or expiry: its context (Table 2-4). -/
def dlPlace (p : Pkg) (e : Nat) : TickPlace := ⟨3, (reqOf p e).ctx, e⟩

/-- The source of a fabric timeout: the context of the Hound program that issued the request, else the firmware (Table 2-4). -/
def timeoutPlace (p : Pkg) (tag : Nat) : TickPlace :=
  match (p.fab.txns.find? fun (t : Txn) => decide (t.pkt.h.tag = tag)).map Txn.by_ with
  | some (Issuer.hound c _) => ⟨3, c, tag⟩
  | _ => ⟨3, 256, tag⟩

/-- A write of BAR0 by a function, which concerns none of the entries of R68, so a function's writes are served in the order of their
arrival (DEDUCED, log entry 3); an arrival at a port; a completion of the host-memory transfer engine. -/
def barPlace (fn : Nat) : TickPlace := ⟨5, fn, 0⟩
def portPlace (port : Nat) : TickPlace := ⟨1, 280 + port, 0⟩
def hostPlace_ (entry : Nat) : TickPlace := ⟨1, 297, entry⟩
def fwPlace (entry : Nat) : TickPlace := ⟨5, 66, entry⟩

/-- The lowest-numbered array of a pen, whose step-done and layer-done events are (R68). -/
def penPlace (p : Pkg) (n entry : Nat) : TickPlace := ⟨1, (setOf p n).headD 0, entry⟩

/-- A response concerns the transaction of its tag (R68). -/
def responsePlace (port : Nat) (pkt : Bytes) : TickPlace := ⟨1, 280 + port, (hdrOf pkt).tag⟩

/-- The request-table entry in a slot of a pen's running step, 0 for none. -/
def slotEntry (p : Pkg) (n s : Nat) : Nat := match tget none (stepNow p n).slots s with | some u => u.entry | none => 0

/-- The entry that a slot word or a candidate record concerns: that of the slot, where it is a slot of this package (R304, R305). -/
def wordEntry (p : Pkg) (n off : Nat) : Nat :=
  let b := (imageOf p n).batchSlots
  if off / 8 / b = meOf p n then slotEntry p n (off / 8 % b) else 0

/-- The entry whose page the pen's oldest copy moves (R337). -/
def copyEntry (p : Pkg) (n : Nat) : Nat := match (poolOf p n).copies with | k :: _ => k.entry | [] => 0

/-- The judging of beat rates is a fault of the first array that it finds slow for the tenth time, in its quadrant, else housekeeping
(R411, R435). -/
def ratePlace (p : Pkg) (l : List BeatSample) : TickPlace :=
  match (ratesDue p l).find? fun b => slowNow p b with
  | some b => ⟨0, b.array / 64, b.array⟩
  | none => fwPlace 0

/-- A DRAM line of a KV frame is read by an array or a gather engine, which the command does not name: it counts for the first gather engine
of the stack's quadrant (DESIGN CHOICE, log entry 3). -/
def framePlace (stack : Nat) : TickPlace := ⟨1, 256 + 4 * (stack / 6), stack⟩

/-- The place of every command among the events of a tick; none for what is no event that the tick samples: power, reset and clock
inputs, the words of the arrays, and what a tick derives from its own events. DEDUCED where no rule names a source: an arrival of the
fabric whose port the command does not carry counts for port 0, a packet of the package to itself for source 296, the end of a fetch from a
replica for the host-memory transfer engine, the end of the firmware's own work for its housekeeping (log entry 3). -/
def tickPlace (p : Pkg) : Instr → Option TickPlace
  | .powerUp => none
  | .vin6Lockout => none
  | .auxRailFault => none
  | .resetNAssert => none
  | .resetNRelease => none
  | .perstAssert => none
  | .perstRelease => none
  | .selfTestDone _ => none
  | .refclkOkSet => none
  | .tickPhaseLock => none
  | .tickSyncMiss => none
  | .tickSyncPhaseErr => none
  | .refclkLost _ => some ⟨0, 8, 0⟩
  | .refclkRelock => none
  | .countLoad => none
  | .timeExchange _ => some (fwPlace 0)
  | .timeRequest port _ _ _ => some (portPlace port)
  | .timeResponse port _ _ => some (portPlace port)
  | .tickCtrlWrite fn _ => some (barPlace fn)
  | .bar0Write fn _ _ _ => some (barPlace fn)
  | .bar0AccessInvalid fn _ _ => some (barPlace fn)
  | .bind fn _ => some (barPlace fn)
  | .unbind fn _ => some (barPlace fn)
  | .bindComplete _ _ => some (fwPlace 0)
  | .unbindComplete => some (fwPlace 0)
  | .penEnable fn _ _ => some (barPlace fn)
  | .penDisable fn _ _ => some (barPlace fn)
  | .penBudgetWrite fn _ _ _ => some (barPlace fn)
  | .penActivate pen => some (fwPlace pen)
  | .predStepRefresh => none
  | .stepSetupStart pen => some (fwPlace pen)
  | .setupComplete pen => some (fwPlace pen)
  | .stepRelease pen => some (fwPlace pen)
  | .segmentStart _ _ => none
  | .segmentSwitch _ => none
  | .stepDone pen => some (penPlace p pen 0)
  | .mma _ => none
  | .fuse2 _ => none
  | .rowfn _ => none
  | .loadw _ => none
  | .loada _ => none
  | .store _ => none
  | .storeRowstate _ => none
  | .maskset _ => none
  | .syncDrain _ => none
  | .syncBarrier _ => none
  | .syncArrive _ => none
  | .syncWait _ => none
  | .syncLayerEnd _ => none
  | .syncEnd _ => none
  | .score _ => none
  | .barrierComplete _ _ => none
  | .layerDone pen layer => some (penPlace p pen layer)
  | .countRecord _ _ _ => some (portPlace 0)
  | .dispatchMark _ _ _ => some (portPlace 0)
  | .freeMark _ _ _ => some (portPlace 0)
  | .combineMark _ _ _ => some (portPlace 0)
  | .dispatchPiece _ _ _ => some (portPlace 0)
  | .dispatchTagRun _ _ _ => some (portPlace 0)
  | .combineStore _ _ _ => some (portPlace 0)
  | .recvGateComplete _ _ => none
  | .combGateComplete _ _ => none
  | .exchangeWatchdog pen => some ⟨3, 256, pen⟩
  | .imprintWrite ctx => some ⟨4, ctx, 0⟩
  | .imprintRetire ctx => some ⟨4, ctx, 0⟩
  | .imprintWriteDone stack _ => some ⟨1, 272 + stack, 0⟩
  | .imprintAuthExpiry => some ⟨3, match p.nvw.auth with | some a => a.ctx | none => 256, 0⟩
  | .nvVerifyStart => some (fwPlace 0)
  | .nvSlotVerifyDone slot _ => some ⟨1, 272 + slot / 32, slot⟩
  | .nvUncorrectable slot _ _ => some ⟨1, 272 + slot / 32, slot⟩
  | .nvBlockFetchDone replica _ => some (hostPlace_ replica)
  | .nvRepairStart _ => some (fwPlace 0)
  | .nvRepairDone slot _ => some ⟨1, 272 + slot / 32, slot⟩
  | .nvStackFailed stack => some ⟨0, stack / 2, stack⟩
  | .replicaKindWrite fn _ _ => some (barPlace fn)
  | .replicaCheck idx _ => some (fwPlace idx)
  | .replicaRecheck idx _ => some (fwPlace idx)
  | .replicaHostFetchDone idx _ => some (fwPlace idx)
  | .slowerFetchDone pen _ _ => some (hostPlace_ pen)
  | .ctxEnable fn _ _ => some (barPlace fn)
  | .ctxDisable fn _ _ => some (barPlace fn)
  | .ctxCmdReset fn _ => some (barPlace fn)
  | .contextResetDone ctx _ => some (fwPlace ctx)
  | .flrVf vf => some ⟨5, vf, 0⟩
  | .flrPf => some ⟨5, 0, 0⟩
  | .vfEnableClear _ => some ⟨5, 0, 0⟩
  | .hostLinkDown _ => some ⟨0, 5, 0⟩
  | .ringWriteFailed ctx _ => some (hostPlace_ ctx)
  | .dbSqTail _ ctx _ => some ⟨4, ctx, 0⟩
  | .dbCqHead _ ctx _ => some ⟨4, ctx, 0⟩
  | .dbEqHead _ ctx _ => some ⟨4, ctx, 0⟩
  | .descriptorFetchDone ctx _ => some (hostPlace_ ctx)
  | .admitReq src => some ⟨4, descSource src, 0⟩
  | .append src => some ⟨4, descSource src, 0⟩
  | .cancel src => some (cancelPlace src)
  | .pause src => some ⟨4, descSource src, 0⟩
  | .resume src => some ⟨4, descSource src, 0⟩
  | .hint ctx => some ⟨4, ctx, 0⟩
  | .fence ctx => some ⟨4, ctx, 0⟩
  | .fenceComplete ctx => some (fwPlace ctx)
  | .rollcall ctx => some ⟨4, ctx, 0⟩
  | .rollcallDone ctx => some (hostPlace_ ctx)
  | .setSampling src => some ⟨4, descSource src, 0⟩
  | .irqModerationTime ctx ring => some ⟨3, ctx, ring⟩
  | .admitHoldExpiry entry => some (dlPlace p entry)
  | .promptReadDone entry _ => some (hostPlace_ entry)
  | .appendReadDone entry _ => some (hostPlace_ entry)
  | .deadlineMissed entry => some (dlPlace p entry)
  | .ttlExpiry entry => some (dlPlace p entry)
  | .slotWord pen off _ => some ⟨1, 296, wordEntry p pen off⟩
  | .candidateRecord pen _ rec => some ⟨1, 296, slotEntry p pen (candOf p rec).slot⟩
  | .tokenSelect pen slot => some ⟨1, 296, slotEntry p pen slot⟩
  | .kvHostCopyDone pen _ => some (hostPlace_ (copyEntry p pen))
  | .kvCowCopyDone pen _ => some (hostPlace_ pen)
  | .swapReturn pen => some (fwPlace pen)
  | .contextSwap pen => some (fwPlace pen)
  | .portEnable fn _ _ => some (barPlace fn)
  | .portLightDetect port => some (portPlace port)
  | .portTrainPhaseDone port => some (portPlace port)
  | .portTrainTimeout port => some ⟨3, 256, port⟩
  | .collarRecord port _ => some (portPlace port)
  | .portDown port _ => some (portPlace port)
  | .flitReceive port _ _ => some (portPlace port)
  | .packetForward port _ => some (portPlace port)
  | .packetLoad port _ => some (portPlace port)
  | .packetStore port _ => some (portPlace port)
  | .packetAtomic port _ => some (portPlace port)
  | .loadResp port pkt => some (responsePlace port pkt)
  | .storeAck port pkt => some (responsePlace port pkt)
  | .atomicResp port pkt => some (responsePlace port pkt)
  | .fabricFenceComplete _ => some (fwPlace 0)
  | .loadTimeout tag => some (timeoutPlace p tag)
  | .storeTimeout tag => some (timeoutPlace p tag)
  | .livenessProbe _ => some (fwPlace 0)
  | .memberUnreached pen _ => some ⟨3, 256, pen⟩
  | .fenceNotice port _ => some (portPlace port)
  | .planTakesEffect => some (fwPlace 0)
  | .pkfProbeGo fn _ => some (barPlace fn)
  | .pkfRrcInvalidate fn _ => some (barPlace fn)
  | .leashTick _ => some (fwPlace 0)
  | .lshCapNextCommit fn => some (barPlace fn)
  | .capSoftApplied => some (fwPlace 0)
  | .capHardApplied => some ⟨0, 6, 0⟩
  | .capReleaseApplied => some (fwPlace 0)
  | .powerEmergency _ _ => some ⟨0, 6, 0⟩
  | .emergencyEnd => some (fwPlace 0)
  | .throttleStart _ _ => some (fwPlace 0)
  | .throttleStep _ _ => some (fwPlace 0)
  | .thermalEmergency _ _ _ => some ⟨0, 7, 0⟩
  | .thermtrip _ => some ⟨0, 7, 0⟩
  | .thermtripLatchClear => none
  | .beatRateCheck samples => some (ratePlace p samples)
  | .arrayWatchdog array => some ⟨0, array / 64, array⟩
  | .sramUncorrectable array => some ⟨0, array / 64, array⟩
  | .arraySelftestDone array _ _ => some (fwPlace array)
  | .dramUncorrectable stack _ (.frame _) => some (framePlace stack)
  | .dramUncorrectable stack _ _ => some ⟨0, stack / 6, stack⟩
  | .dramStackFailed stack _ => some ⟨0, stack / 6, stack⟩
  | .fwFault core _ => some ⟨0, 4, core⟩
  | .scentQueueDrain => some (fwPlace 0)
  | .scnClearCmd fn => some (barPlace fn)
  | .scnCtrlWrite fn _ => some (barPlace fn)
  | .clearAuthExpiry => some ⟨3, 256, 0⟩
  | .houndBind fn _ => some (barPlace fn)
  | .houndUnbind fn _ => some (barPlace fn)
  | .houndImageLoaded ctx _ => some (hostPlace_ ctx)
  | .hndMbCmdTail core _ _ => some ⟨4, 256 + core, 0⟩
  | .hndMbReplyHead core _ _ => some ⟨4, 256 + core, 0⟩
  | .hndTqHead ctx _ _ => some ⟨4, ctx, 0⟩
  | .hndFqLoad ctx _ _ => some ⟨4, ctx, 0⟩
  | .hndFqStore ctx _ _ => some ⟨4, ctx, 0⟩
  | .hndFqAtomic ctx _ _ => some ⟨4, ctx, 0⟩
  | .hndFqFence ctx _ _ => some ⟨4, ctx, 0⟩
  | .ecallExit _ _ _ => none
  | .ecallWait _ _ _ => none
  | .houndWake _ => some (fwPlace 0)
  | .houndFault _ core _ _ _ _ => some ⟨0, 4, core⟩
  | .lease path _ => some (mgtPlace path)
  | .release path _ => some (mgtPlace path)
  | .leaseExpired => some ⟨3, 256, 0⟩
  | .epoch path _ => some (mgtPlace path)
  | .setCount path _ => some (mgtPlace path)
  | .cap path _ => some (mgtPlace path)
  | .planWrite path _ => some (mgtPlace path)
  | .planCommit path _ => some (mgtPlace path)
  | .readmit path _ => some (mgtPlace path)
  | .fenceGroup path _ => some (mgtPlace path)
  | .groupWrite path _ => some (mgtPlace path)
  | .resumeGroup path _ => some (mgtPlace path)
  | .memberLost path _ => some (mgtPlace path)
  | .imprintAuth path _ => some (mgtPlace path)
  | .clearAuth path _ => some (mgtPlace path)
  | .logClear path _ => some (mgtPlace path)
  | .quarantine path _ => some (mgtPlace path)
  | .arrayRelease path _ => some (mgtPlace path)
  | .penReset path _ => some (mgtPlace path)
  | .warmReset path _ => some (mgtPlace path)
  | .portReeval path _ => some (mgtPlace path)
  | .inspect path _ => some (mgtPlace path)
  | .status path _ => some (mgtPlace path)
  | .namedTickAction _ => some (fwPlace 0)
  | .inspectLevelStep _ => some (fwPlace 0)
  | .inspectionRecord port _ _ => some (portPlace port)
  | .inspectTimeout port => some ⟨3, 256, port⟩
  | .i3cPrivateWrite _ => some ⟨5, 65, 0⟩
  | .i3cPrivateRead => some ⟨5, 65, 0⟩
  | .entdaa _ => some ⟨5, 65, 0⟩
  | .rstdaa => some ⟨5, 65, 0⟩
  | .getpid => some ⟨5, 65, 0⟩
  | .getbcr => some ⟨5, 65, 0⟩
  | .getdcr => some ⟨5, 65, 0⟩
  | .setmrl _ => some ⟨5, 65, 0⟩
  | .enec _ => some ⟨5, 65, 0⟩
  | .disec _ => some ⟨5, 65, 0⟩
  | .tickBoundary => none
  | .tickSyncEdge => none
  | .refclkOutOfRange => none
  | .engineFault kind index => some ⟨0, if kind = 0 then index / 4 else if kind = 1 then index / 2 else index, index⟩
  | .laneMeasurementRefresh _ => some (fwPlace 0)
  | .hndRingBaseWrite core _ _ _ => some ⟨4, 256 + core, 0⟩

/-- The turn of a source in tick t, counted from the start index (R68). -/
def turnOf (t : Nat) (x : TickPlace) : Nat := (x.src + sourcesOf x.cls - t % sourcesOf x.cls) % sourcesOf x.cls

/-- One event is served before another in tick t: by class, by source from the start index, then by entry (R19, R20, R68). -/
def placeBefore (t : Nat) (a b : TickPlace) : Bool :=
  let turn := turnOf t
  decide (a.cls < b.cls) || (decide (a.cls = b.cls) && (decide (turn a < turn b) ||
    (decide (turn a = turn b) && decide (a.entry < b.entry))))

/-- A register with bits that an event of the firmware's housekeeping sets and a write clears or sets as well: the sticky bits of
TICK_STATUS, of the ports, of the Leash and of the log. DEDUCED: which event updates which is read from the rules of each (R41; log
entry 3). -/
def fwUpdates (c : Instr) (off : Nat) : Bool :=
  let port := decide (0x1001000 ≤ off ∧ off < 0x1002000 ∧ off % 0x100 = 0)
  match c with
  | .timeExchange _ => decide (off = 0x100008 ∨ off = 0x2200000)
  | .planTakesEffect => decide (off = 0x2200000) || port
  | .namedTickAction _ => decide (off ∈ [0x100008, 0x2200000]) || port
  | .leashTick _ => decide (off ∈ [0x2000000, 0x2200000])
  | .capSoftApplied => decide (off ∈ [0x2000000, 0x2200000])
  | .capReleaseApplied => decide (off ∈ [0x2000000, 0x2200000])
  | .throttleStart _ _ => decide (off ∈ [0x2000000, 0x2200000])
  | .throttleStep _ _ => decide (off ∈ [0x2000000, 0x2200000])
  | .emergencyEnd => decide (off ∈ [0x2000000, 0x2200000])
  | .scentQueueDrain => decide (off = 0x2200000)
  | _ => false

/-- The offsets of the registers that a BAR0 write covers. -/
def coveredBy : Instr → List Nat
  | .bar0Write _ off size _ => if size = 8 then [off, off + 4] else [off]
  | _ => []

/-- A write is applied after every update of one of its fields in its tick (R41): each write that such an update follows moves to right
after the last of them. -/
def writesLast : List Instr → List Instr
  | [] => []
  | c :: t =>
    let r := writesLast t
    let hits (d : Instr) : Bool := (coveredBy c).any (fwUpdates d)
    let after := (r.reverse.takeWhile fun d => !hits d).reverse
    if r.any hits then r.take (r.length - after.length) ++ c :: after else c :: r

/-- The commands of one tick in the order in which the tick serves them; events of the same entry stay in the order of their arrival
(R41, R68). The sender queues them so (log entry 3). -/
def serveOrder (p : Pkg) (l : List Instr) : List Instr :=
  writesLast (sortBy (fun a b => match tickPlace p a, tickPlace p b with
    | some x, some y => placeBefore (now p) x y
    | _, _ => false) l)

/-- The events that wait before the next tick boundary stand in the order of their tick. -/
def queuedInOrder (s : State) : Bool :=
  let l := restOfTick s.pending
  decide (serveOrder s.pkg l = l)

/-! ### Resets of one tick (R431) -/

/-- A cold reset of a pin or a rail is sampled later in the tick. -/
def coldAhead (s : State) : Bool :=
  let x := s.pkg.pins
  (restOfTick s.pending).any fun c => match c with
    | .resetNAssert => x.resetN && heedsPins s.pkg
    | .vin6Lockout => x.vinOk
    | .auxRailFault => x.vinOk && !x.auxHold
    | _ => false

/-- A manager message of an OP that acts in the tick, with its command. -/
def actsAs (p : Pkg) (op : Nat) (path : Path) (msg : Bytes) : Option PendCmd :=
  let c := cmdOf path msg
  if c.op = op ∧ powered p ∧ mgtVerdict p path msg = .take ∧ actsNow p c then some c else none

/-- The command of an OP that a queued command makes act: a message by the port or by I3C, or one whose named tick has come. -/
def commandOf (p : Pkg) (op : Nat) : Instr → Option PendCmd
  | .warmReset path msg => if op = 0x13 then actsAs p op path msg else none
  | .penReset path msg => if op = 0x12 then actsAs p op path msg else none
  | .i3cPrivateWrite msg => if p.i3c.addr.isSome then actsAs p op .i3c msg else none
  | .namedTickAction k => if k = op then p.mgt.pending.find? fun c => decide (c.op = op) && actsNow p c else none
  | _ => none

/-- A warm reset is sampled later in the tick. -/
def warmAhead (s : State) : Bool :=
  (restOfTick s.pending).any fun c => match c with
    | .perstAssert => s.pkg.pins.perstN && powered s.pkg
    | _ => (commandOf s.pkg 0x13 c).isSome

/-- A reset of a BOUND or ACTIVE pen is commanded later in the tick. -/
def penAhead (s : State) (n : Nat) : Bool :=
  decide ((penOf s.pkg n).st = penBound ∨ (penOf s.pkg n).st = penActive) &&
    (restOfTick s.pending).any fun c => decide ((commandOf s.pkg 0x12 c).map (fun x => fieldAt x.body 0 1) = some n)

/-- Mark a warm or cold reset of the present tick. -/
def markReset (p : Pkg) : Pkg := { p with glb := { p.glb with warmAt := now p + 1 } }

/-- The package as a smaller reset sees it: the larger resets of its tick are marked, whichever the queue holds first, so that the largest
one acts alone (R431). -/
def foreseen (s : State) : Pkg :=
  let p := if coldAhead s || warmAhead s then markReset s.pkg else s.pkg
  forAll ((upto 16).filter (penAhead s)) (fun q n => modPen q n fun x => { x with resetAt := now q + 1 }) p

/-- The package as a manager's WARM_RESET sees it. -/
def coldForeseen (s : State) : Pkg := if coldAhead s then markReset s.pkg else s.pkg

/-- What a larger reset that comes later in the tick overrides, run with those resets foreseen; the marks of what is still to come are taken
off again, so that each reset finds its own tick as it is (R431). -/
def overridden (s : State) (f : Pkg → Pkg) : Pkg :=
  let q := f (foreseen s)
  forAll ((upto 16).filter (penAhead s)) (fun r n => modPen r n fun x => { x with resetAt := (penOf s.pkg n).resetAt })
    { q with glb := { q.glb with warmAt := s.pkg.glb.warmAt } }

/-- A manager's command of an OP, with the larger resets of its tick foreseen where it is a reset or a quarantine (R431). -/
def underResets (s : State) (op : Nat) (f : Pkg → Pkg) : Pkg :=
  if op = 0x13 then f (coldForeseen s) else if op = 0x10 ∨ op = 0x12 then overridden s f else f s.pkg

end Sys2Proof.Machine
end

