-- ==== Sys2Proof/Machine/CtxFam.lean ====
section
/-! DEFINITION. Meanings of the commands of contexts, their resets, doorbells and descriptor reads (R253 to R281). -/

namespace Sys2Proof.Machine

/-- A write to a context block by a function: ignored where the function does not reach the context (R253). -/
def ctxWrite (p : Pkg) (fn c off size v : Nat) : Pkg :=
  regWrite p fn (ctxOff c off) fun q => if reaches q fn c then ctxRegWrite q fn c off size v else q

/-- CTX_ENABLE: a write of CTX_CTRL with ENABLE 1 (R257, R258). -/
def execCtxEnable (fn ctx : Nat) (value : Word32) (s : State) : Host.Outcome State Fault Refusal :=
  act (decide (value.toNat % 2 = 1) && latest (.ctxEnable fn ctx value) s) (fun p => ctxWrite p fn ctx 0 4 value.toNat) s

/-- CTX_DISABLE: a write of CTX_CTRL with ENABLE 0 (R257, R258). -/
def execCtxDisable (fn ctx : Nat) (value : Word32) (s : State) : Host.Outcome State Fault Refusal :=
  act (decide (value.toNat % 2 = 0) && latest (.ctxDisable fn ctx value) s) (fun _ => overridden s fun p => ctxWrite p fn ctx 0 4 value.toNat) s

/-- CTX_CMD_RESET: a write of 1 to CTX_CMD.RESET (R280). -/
def execCtxCmdReset (fn ctx : Nat) (s : State) : Host.Outcome State Fault Refusal :=
  act true (fun _ => overridden s fun p => ctxWrite p fn ctx 8 4 1) s

/-- No step holds a request of a context (R280). -/
def outOfSteps (p : Pkg) (c : Nat) : Bool := (entriesOf p c).all fun e => !(reqOf p e).inStep

/-- CONTEXT_RESET_DONE: once no step holds a request of the context (R280). -/
def execContextResetDone (ctx : Nat) (failed : Option Nat) (s : State) : Host.Outcome State Fault Refusal :=
  act (decide ((ctxOf s.pkg ctx).st = ctxResetting) && outOfSteps s.pkg ctx)
    (fun p => resetDone p ctx failed) s

/-- FLR_VF: a Function Level Reset of a virtual function (R255). -/
def execFlrVf (vf : Nat) (s : State) : Host.Outcome State Fault Refusal :=
  act (decide (1 ≤ vf ∧ vf ≤ s.pkg.numVfs)) (fun _ => overridden s fun p => functionReset p vf) s

/-- FLR_PF: a Function Level Reset of the physical function (R255). -/
def execFlrPf (s : State) : Host.Outcome State Fault Refusal := act s.pkg.glb.hostLink (fun _ => overridden s fun p => functionReset p 0) s

/-- VF_ENABLE_CLEAR: the SR-IOV capability takes a new NumVFs, 0 where VF Enable is cleared (R252, R255). -/
def execVfEnableClear (numVfs : Nat) (s : State) : Host.Outcome State Fault Refusal :=
  act (s.pkg.glb.hostLink && decide (numVfs ≤ 63)) (fun _ => overridden s fun p => setNumVfs p numVfs) s

/-- HOST_LINK_DOWN: every ACTIVE context becomes FAULTED, with one record (R277, R435). -/
def execHostLinkDown (ltssm : Nat) (s : State) : Host.Outcome State Fault Refusal :=
  act s.pkg.glb.hostLink
    (fun p =>
      let cs := ctxsWhere p fun c => decide (c.st = ctxActive)
      let q := forAll cs (fun r c => faultCtx r c stInternalFault codeHostLinkDown) p
      log { q with glb := { q.glb with hostLink := false } } codeHostLinkDown 0 ltssm cs.length 0) s

/-- A refused write of a context: of a record or a summary while it is ACTIVE; while it is RESETTING only the zeroing of its rings is
written, and the reset ends in FAULTED (R277, R280). -/
def ringWriteFailed (p : Pkg) (c ring : Nat) : Pkg :=
  if (ctxOf p c).st = ctxResetting then
    if (ctxOf p c).enable ∧ ring < 2 ∧ outOfSteps p c = true then resetDone p c (some ring) else p
  else hostError p c codeRingWriteFailed ring 0 0

/-- RING_WRITE_FAILED: the host refuses a record, a summary or a zeroing write; ring 0 CQ, 1 EQ, 2 the ROLLCALL buffer (R277). -/
def execRingWriteFailed (ctx ring : Nat) (s : State) : Host.Outcome State Fault Refusal :=
  act (decide ((ctxOf s.pkg ctx).st = ctxActive ∨ (ctxOf s.pkg ctx).st = ctxResetting) && decide (ring < 3))
    (fun p => ringWriteFailed p ctx ring) s

/-- DB_SQ_TAIL (R259, R261, R264). -/
def execDbSqTail (fn ctx : Nat) (value : Word32) (s : State) : Host.Outcome State Fault Refusal :=
  act (reaches s.pkg fn ctx && latest (.dbSqTail fn ctx value) s) (fun p => sqDoorbell p ctx value.toNat) s

/-- DB_CQ_HEAD (R259, R261). -/
def execDbCqHead (fn ctx : Nat) (value : Word32) (s : State) : Host.Outcome State Fault Refusal :=
  act (reaches s.pkg fn ctx && latest (.dbCqHead fn ctx value) s) (fun p => cqDoorbell p ctx value.toNat) s

/-- DB_EQ_HEAD (R259, R261, R268). -/
def execDbEqHead (fn ctx : Nat) (value : Word32) (s : State) : Host.Outcome State Fault Refusal :=
  act (reaches s.pkg fn ctx && latest (.dbEqHead fn ctx value) s) (fun p => eqDoorbell p ctx value.toNat) s

/-- The descriptors that a completed read holds, with their ring indices (R264). -/
def fetchedOf (log2 first n : Nat) (b : Bytes) : List (Nat × Bytes) :=
  (upto n).map fun k => ((first + k) % 2 ^ log2, (b.drop (64 * k)).take 64)

/-- DESCRIPTOR_FETCH_DONE: the read in flight ends with the bytes asked for, or with a host error (R264, R277). -/
def execDescriptorFetchDone (ctx : Nat) (data : Option Bytes) (s : State) : Host.Outcome State Fault Refusal :=
  act (decide ((ctxOf s.pkg ctx).st = ctxActive) && !s.pkg.glb.fwFault)
    (fun p => match (ctxOf p ctx).reading, data with
      | some (i, _), none => hostError p ctx codeDescReadFailed i 0 0
      | some (i, n), some b =>
        if b.length = 64 * n then
          pumpRing (modCtx p ctx fun x => { x with reading := none, fetched := fetchedOf x.sqLog i n b }) ctx
        else p
      | none, _ => p) s

/-- IRQ_MODERATION_TIME: the moderation time of a ring, 0 CQ or 1 EQ, has passed (Table 8-14). The boundary sends the interrupt, if the time
is still up after every event of the tick (R279). -/
def execIrqModerationTime (ctx ring : Nat) (s : State) : Host.Outcome State Fault Refusal :=
  act (decide (ring < 2) && modTimeUp s.pkg ctx (ring = 0)) (fun p => noteTime p ctx (ring = 0)) s

end Sys2Proof.Machine
end

