-- ==== Sys2Proof/Machine/FabIn.lean ====
section
/-! DEFINITION. Requests at their destination and responses at their source: the checks of R368, the windows and spaces of R363 to
R366, duplicates, store runs and atomics (R367 to R380, R426). -/

namespace Sys2Proof.Machine

/-! ### Addresses and sources (R363, Tables 11-10 to 11-12) -/

def winOf (a : Nat) : Nat := bitsOf a 51 48
def offOf (a : Nat) : Nat := a % 2 ^ 48
/-- The pen in offset bits [47:44] of windows 0 and 1, and in [43:40] of most spaces of window 4. -/
def winPen (a : Nat) : Nat := bitsOf a 47 44
def spaceOf (a : Nat) : Nat := bitsOf a 47 44
def spacePen (a : Nat) : Nat := bitsOf a 43 40

/-- SRC_ID of the firmware (Table 11-12). -/
def fromFirmware (id : Nat) : Bool := decide (256 ≤ id ∧ id ≤ 272)

/-- A combined request stands for the requests it absorbed (R380): a non-fetching, unflagged ADD or MAX of the combining proxy. -/
def fromProxy (h : Hdr) : Bool := decide (h.srcId = 273) && combinable h h

/-- Bytes a request reads or writes. -/
def reqLen (h : Hdr) : Nat := if h.type = 3 then 8 else 8 * (h.size + 1)

/-- R368, check 2. -/
def aligned (h : Hdr) : Bool := decide (h.addr % 8 = 0) && (decide (h.type = 3) || decide (h.addr % 256 + reqLen h ≤ 256))

/-! ### Windows 0 and 1: buffers of a pen (R364) -/

def winBuf (a : Nat) : Nat := bitsOf a 43 32

/-- What refuses an access to a buffer. -/
def bufBar (p : Pkg) (a len : Nat) : Option Nat :=
  let x := penOf p (winPen a)
  let rs := (imageOf p (winPen a)).relocs
  let r := rs.getD (winBuf a) {}
  let off := a % 2 ^ 32
  if x.st ≠ penBound ∧ x.st ≠ penActive then some stPenUnavailable
  else if rs.length ≤ winBuf a ∨ r.bytes < off + len ∨ 2 ^ 32 < off + len then some stLengthInvalid
  else if r.kind = 3 ∨ r.cls ≠ winOf a then some stPermission
  else none

/-! ### Window 2: NV slots (R249) -/

/-- A read of window 2: the status and the bytes. DESIGN CHOICE: a payload read of a VERIFIED slot on a stack that has failed answers
SHARD_MISSING, since no engine can read it (log entry 30). -/
def nvRead (p : Pkg) (off len : Nat) : Nat × Bytes :=
  let heads := 0x1000000000
  if off < heads then
    let k := off / 0x10000000
    let b := off % 0x10000000
    let s := slotOf p k
    if s.st ≠ nvVerified ∨ nvUsable p (k / 32) = false then (stShardMissing, [])
    else if s.length < b + len then (stLengthInvalid, [])
    else (stOk, (s.payload.drop b).take len)
  else if off + len ≤ heads + 64 * 256 then
    let first := (off - heads) / 64
    let b := (upto 5).flatMap fun j => slotHeader (slotOf p (first + j))
    (stOk, (b.drop ((off - heads) % 64)).take len)
  else (stLengthInvalid, [])

/-! ### Window 3: the request-table mirror (R284, Table 9-1) -/

/-- The 64 bytes of a request-table entry. A list without a block has PAGE_LIST all ones (R317). -/
def reqMirror (p : Pkg) (e : Nat) : Bytes :=
  let r := reqOf p e
  if r.st = rqFree then zeros 64
  else
    toLE 4 (handleOf p e) ++
      toLE 1 (r.st + 8 * bitN r.late + 16 * bitN r.fellBack + 32 * bitN r.hound + 64 * bitN r.pausePending) ++
      toLE 1 (r.priority + 16 * r.spec) ++ toLE 1 (r.sampling + 16 * r.pen) ++ toLE 1 r.ctx ++ toLE 4 r.hist.length ++
      toLE 4 r.limit ++ toLE 4 r.kvDone ++ toLE 4 r.delivered ++ toLE 8 r.nextDl ++ toLE 8 r.ttlExp ++
      toLE 4 ((tget 0 r.blocks 1000 + 2 ^ 32 - 1) % 2 ^ 32) ++ toLE 4 r.tag ++ toLE 4 r.steps ++ toLE 1 r.drafts.length ++
      toLE 1 (if r.st = rqDraining ∨ r.st = rqDone then r.endStatus else 0) ++ zeros 10

/-- A read of window 3. -/
def mirrorRead (p : Pkg) (off len : Nat) : Nat × Bytes :=
  if off + len ≤ 64 * 4096 then
    (stOk, (((upto 5).flatMap fun j => reqMirror p (off / 64 + j)).drop (off % 64)).take len)
  else (stLengthInvalid, [])

/-! ### Window 4: Hound mailbox spaces (R426) -/

def peerCtx (a : Nat) : Nat := bitsOf a 43 36
def peerOff (a : Nat) : Nat := a % 2 ^ 36

/-- What refuses a request to spaces 0x8 and 0x9 (R426). -/
def peerBar (p : Pkg) (h : Hdr) : Option Nat :=
  let c := peerCtx h.addr
  let b := bindOf p c
  let member := decide (h.src = chipNo p) || (members (penOf p b.pen)).any fun m => decide (m.2 = h.src)
  need (decide (b.st = 2) && b.peerEn && (fromProxy h || (decide (h.srcId = c) && member))) stPermission

/-- The program memory offset of an access to an exposed region, or none beyond it (R419, R426). -/
def peerAt (p : Pkg) (h : Hdr) : Option Nat :=
  let b := bindOf p (peerCtx h.addr)
  if peerOff h.addr + reqLen h ≤ b.peerMib * 1048576 then some ((b.memMib - b.peerMib) * 1048576 + peerOff h.addr) else none

/-! ### Loads, stores and atomics past checks 1 to 3 (R363 to R366, R368) -/

/-- A load: its status and bytes. -/
def loadAt (p : Pkg) (h : Hdr) : Nat × Bytes :=
  let a := h.addr
  let len := reqLen h
  let fw := fromFirmware h.srcId || decide (h.srcId = 511)
  let w := winOf a
  if w < 2 then
    if !fw then (stPermission, [])
    else match bufBar p a len with
      | some st => (st, [])
      | none => (stOk, bufGet p (winPen a) (winBuf a) (a % 2 ^ 32) len)
  else if w = 2 then (if fw then nvRead p (offOf a) len else (stPermission, []))
  else if w = 3 then (if fw then mirrorRead p (offOf a) len else (stPermission, []))
  else if w = 4 then
    let k := spaceOf a
    if k = 0 then
      if !fw then (stPermission, [])
      else if offOf a = 0 ∧ len = 8 then (stOk, toLE 8 (chipNo p))
      else (stLengthInvalid, [])
    else if k ≤ 5 ∨ k = 9 then (stPermission, [])
    else if k = 8 then
      match peerBar p h, peerAt p h with
      | some st, _ => (st, [])
      | none, none => (stLengthInvalid, [])
      | none, some off => (stOk, tgetList 0 (bindOf p (peerCtx a)).mem off len)
    else (stLengthInvalid, [])
  else (stLengthInvalid, [])

/-- SLED_REMOTE_BYTES counts bytes served to peers through window 2 (Table 7-8). -/
def countServed (p : Pkg) (h : Hdr) (st : Nat) : Pkg :=
  if st = stOk ∧ winOf h.addr = 2 then
    modNvw p fun n => { n with remoteBytes := satAdd sat32 n.remoteBytes (reqLen h) }
  else p

/-- Bytes of a pen's board: its buffer's, or without a ROUTING section the slots of the group (R198, R199; log entry 22). -/
def boardBytes (p : Pkg) (n : Nat) : Nat :=
  match (penOf p n).image, (imageOf p n).routing with
  | none, _ => 0
  | some i, some r => (i.relocs.getD r.boardBuf {}).bytes
  | some _, none => if 1 < (penOf p n).groupSize then 2 * groupCount p n * 8192 else 0

/-- A store to exchange space 0x1: the board (R198, R199). -/
def boardStore (p : Pkg) (n off : Nat) (b : Bytes) : Nat × Pkg :=
    let slot := off / 8192
    let at_ := off % 8192
    if boardBytes p n < off + b.length then (stLengthInvalid, p)
    else if 2 * groupCount p n ≤ slot then (stOk, boardPut p n off b)
    else if at_ = 0 then (stOk, recordIn p n slot b)
    else if b.length = 8 ∧ (at_ = 8128 ∨ at_ = 8136 ∨ at_ = 8144) then (stOk, markIn p n ((at_ - 8128) / 8) slot (leNat b))
    else (stOk, boardPut p n off b)

/-- A fence notice: a flagged store (R365, R384). -/
def noticeStore (p : Pkg) (h : Hdr) (b : Bytes) : Nat × Pkg :=
  let n := spacePen h.addr
  let x := penOf p n
  if h.addr % 2 ^ 40 ≠ 0 ∨ b.length ≠ 32 then (stLengthInvalid, p)
  else if h.flag = false ∨ h.srcId ≠ 256 + n ∨ !((members x).any fun m => decide (m.2 = h.src)) then (stPermission, p)
  else if x.fenced ∨ x.groupSize ≤ 1 ∨ (x.st ≠ penBound ∧ x.st ≠ penActive) then (stOk, p)
  else (stOk, fenceGroupOp p n 1 h.src)

/-- A store: its status, and the package after it. -/
def storeAt4 (p : Pkg) (h : Hdr) (b : Bytes) : Nat × Pkg :=
  let a := h.addr
  let k := spaceOf a
  let fw := fromFirmware h.srcId
  if k = 0 then (stPermission, p)
  else if k ≤ 5 then
    if !fw then (stPermission, p)
    else
      let n := spacePen a
      let off := a % 2 ^ 40
      if k = 1 then boardStore p n off b
      else if k = 2 then (if bitOf off 39 then tagsIn p n (off % 2 ^ 39) b else pieceIn p n off b)
      else if k = 3 then combineIn p n off b
      else if k = 4 then
        let kind := bitsOf off 39 36
        if kind = 0 then (if b.length = 8 then slotWordIn p n (off % 2 ^ 36) (leNat b) else (stLengthInvalid, p))
        else if kind = 1 then candIn p n (off % 2 ^ 36) b
        else (stLengthInvalid, p)
      else noticeStore p h b
  else if k = 8 then
    match peerBar p h, peerAt p h with
    | some st, _ => (st, p)
    | none, none => (stLengthInvalid, p)
    | none, some off => (stOk, modBind p (peerCtx a) fun x => { x with mem := tsetList 0 x.mem off b })
  else if k = 9 then
    match peerBar p h with
    | some st => (st, p)
    | none =>
      if peerOff a ≠ 0 ∨ b.length ≠ 8 then (stLengthInvalid, p)
      else (stOk, wakeCores (modBind p (peerCtx a) fun x => { x with notify := (x.notify + 1) % 2 ^ 64 }) (peerCtx a))
  else (stLengthInvalid, p)

def storeTo (p : Pkg) (h : Hdr) (b : Bytes) : Nat × Pkg :=
  let a := h.addr
  let w := winOf a
  if w < 2 then
    if !fromFirmware h.srcId then (stPermission, p)
    else match bufBar p a b.length with
      | some st => (st, p)
      | none => (stOk, bufPut p (winPen a) (winBuf a) (a % 2 ^ 32) b fun _ => 0)
  else if w ≤ 3 then (stPermission, p)
  else if w = 4 then storeAt4 p h b
  else (stLengthInvalid, p)

/-- The new value that an atomic writes and the old one it returns. -/
def atomOn (h : Hdr) (d old : Bytes) : Bytes :=
  toLE 8 (atomVal h.atop h.signed (leNat old) (fieldAt d 0 8) (fieldAt d 8 8))

/-- An atomic: its status, the old value, and the package after it. -/
def atomicAt (p : Pkg) (h : Hdr) (d : Bytes) : Nat × Bytes × Pkg :=
  let a := h.addr
  let w := winOf a
  if w < 2 then
    if !(fromFirmware h.srcId || fromProxy h) then (stPermission, [], p)
    else match bufBar p a 8 with
      | some st => (st, [], p)
      | none =>
        let old := bufGet p (winPen a) (winBuf a) (a % 2 ^ 32) 8
        (stOk, old, bufPut p (winPen a) (winBuf a) (a % 2 ^ 32) (atomOn h d old) fun _ => 0)
  else if w ≤ 3 then (stPermission, [], p)
  else if w = 4 then
    let k := spaceOf a
    if k ≤ 5 ∨ k = 9 then (stPermission, [], p)
    else if k = 8 then
      match peerBar p h, peerAt p h with
      | some st, _ => (st, [], p)
      | none, none => (stLengthInvalid, [], p)
      | none, some off =>
        let old := tgetList 0 (bindOf p (peerCtx a)).mem off 8
        (stOk, old, modBind p (peerCtx a) fun x => { x with mem := tsetList 0 x.mem off (atomOn h d old) })
    else (stLengthInvalid, [], p)
  else (stLengthInvalid, [], p)

/-! ### Arrivals (R367, R369, R371, R381, R383) -/

/-- A packet discarded for its CRC or its TYPE, recorded at most once in 10,000 ticks (R367, R389). -/
def e2eDrop (p : Pkg) (port : Nat) (b : Bytes) : Pkg :=
  let q := modFab p fun f => { f with e2eCrc := inc64 f.e2eCrc }
  if mayLog q.fab.e2eLogAt (now q) then
    log (modFab q fun f => { f with e2eLogAt := some (now p) }) codeE2eCrc 0 (hdrOf b).src port 0
  else q

/-- A packet of a chip that carries this package's epoch: the chip is reached. A REMOTE_TIMEOUT answer does not count (R383). -/
def hear (p : Pkg) (h : Hdr) : Pkg :=
  if h.epoch = epochOf p ∧ ¬ (4 ≤ h.type ∧ h.status = stRemoteTimeout) then
    modFab p fun f => { f with heard := tset 0 f.heard h.src (now p + 1) }
  else p

/-- A SEQ of a source is already applied (R369). -/
def applied (s : SrcSeq) (seq : Nat) : Bool :=
  decide (2 ^ 31 ≤ (seq + 2 ^ 32 - s.low) % 2 ^ 32) || tget false s.above seq

/-- The lowest SEQ not yet applied moves past applied ones; the fuel bounds them. -/
def settleSeq : Nat → SrcSeq → SrcSeq
  | 0, s => s
  | k + 1, s =>
    if tget false s.above s.low then
      settleSeq k { s with low := (s.low + 1) % 2 ^ 32, above := tset false s.above s.low false }
    else s

/-- A request with a SEQ is applied: the SEQ is marked, with the answer other than a plain OK (R369). -/
def markSeq (p : Pkg) (h : Hdr) (status : Nat) (old : Bytes) : Pkg :=
  if isWrite h then
    modSrc p h.src fun s =>
      settleSeq (s.above.length + 1)
        { s with
          above := tset false s.above h.seq true
          answers := tset none s.answers h.seq (if status = stOk ∧ old = [] then none else some (status, old)) }
  else p

/-- Answer a request (R373). -/
def reply (p : Pkg) (h : Hdr) (status : Nat) (data : Bytes) : Pkg := route p 16 (respPkt p h status data)

/-- A duplicate: discarded, counted, and answered as the first time (R369). -/
def duplicate (p : Pkg) (h : Hdr) : Pkg :=
  let q := modFab p fun f => { f with dupDrop := inc64 f.dupDrop }
  match tget none (srcOf p h.src).answers h.seq with
  | some (st, old) => reply q h st old
  | none => reply q h stOk []

/-- Checks 2 and 3 of R368. -/
def headBar (h : Hdr) (bar : Option Nat) : Option Nat := firstFail [need (aligned h) stAlignmentInvalid, bar]

/-- A store run that is whole: the pieces in ascending RUN_IDX. -/
def runOfPiece (p : Pkg) (h : Hdr) : List RunPiece :=
  let base (x : Hdr) : Nat := (x.seq + 2 ^ 32 - x.runIdx) % 2 ^ 32
  sortBy (fun a b => decide (a.pkt.h.runIdx < b.pkt.h.runIdx)) (p.fab.runs.filter fun r =>
    decide (r.pkt.h.src = h.src ∧ r.pkt.h.srcId = h.srcId ∧ r.pkt.h.runLen = h.runLen ∧ base r.pkt.h = base h))

/-- A run to a board or to the Fetch space is one record: its pieces join (R199, R366). -/
def joins (h : Hdr) : Bool := decide (winOf h.addr = 4 ∧ (spaceOf h.addr = 1 ∨ spaceOf h.addr = 4))

/-- Apply the pieces of a run one after the other; the first refusal stands for the whole. -/
def storePieces (p : Pkg) : List RunPiece → Nat × Pkg
  | [] => (stOk, p)
  | r :: t =>
    match headBar r.pkt.h r.bar with
    | some st => (st, p)
    | none =>
      let (st, q) := storeTo p r.pkt.h r.pkt.data
      if st = stOk then storePieces q t else (st, p)

/-- Apply a whole run as one arrival (R371): its status and the package after it; a refused run changes nothing. -/
def storeRunAt (p : Pkg) (rs : List RunPiece) : Nat × Pkg :=
  match rs with
  | [] => (stOk, p)
  | r :: _ =>
    let (st, q) :=
      if joins r.pkt.h ∧ 1 < rs.length then
        match rs.findSome? fun x => headBar x.pkt.h x.bar with
        | some st => (st, p)
        | none => storeTo p r.pkt.h (rs.flatMap (·.pkt.data))
      else storePieces p rs
    if st = stOk then (st, q) else (st, p)

/-- Bytes of the run buffer in use, of 4 MiB (R371). -/
def runBytes (p : Pkg) : Nat := sumL (p.fab.runs.map fun r => r.pkt.data.length)

/-- A piece of a run arrives: it joins the run buffer, or waits while that is full, and the run applies when its last piece is in;
every piece is then acknowledged (R371). -/
def pieceOfRun (p : Pkg) (piece : RunPiece) : Pkg :=
  let h := piece.pkt.h
  if p.fab.runs.any fun r => decide (r.pkt.h.src = h.src ∧ r.pkt.h.seq = h.seq) then p
  else if 4194304 < runBytes p + piece.pkt.data.length then modFab p fun f => { f with runWait := f.runWait ++ [piece] }
  else
    let p1 := modFab p fun f => { f with runs := f.runs ++ [piece] }
    let rs := runOfPiece p1 h
    if rs.length < h.runLen then p1
    else
      let p2 := modFab p1 fun f => { f with runs := f.runs.filter fun r => decide (r ∉ rs) }
      let (st, q) := storeRunAt p2 rs
      forAll rs (fun x r => reply (markSeq x r.pkt.h st []) r.pkt.h st []) q

/-- A piece that waited for the run buffer arrives again, as a duplicate when its SEQ is applied by now (R369). -/
def pieceAgain (p : Pkg) (r : RunPiece) : Pkg :=
  if applied (srcOf p r.pkt.h.src) r.pkt.h.seq then duplicate p r.pkt.h else pieceOfRun p r

/-- Pieces that waited for the run buffer arrive again, in order; those that still find it full wait on, and the credits of the others are
no longer kept back (R369, R371). -/
def pumpRuns (p : Pkg) : Pkg :=
  forAll (heldPorts p) payCredits
    (forAll p.fab.runWait pieceAgain (modFab p fun f => { f with runWait := [] }))

/-! ### The queue of a line (R379, R380) -/

/-- The 64-byte line of a request. -/
def lineOf (h : Hdr) : Nat := h.addr / 64

/-- Apply a store that is no piece of a run, or an atomic: its status and what a fetching atomic returns, and the package after it
(R368). -/
def applyReq (p : Pkg) (e : LineReq) : Nat × Bytes × Pkg :=
  if e.pkt.h.type = 2 then
    let (st, q) := storeRunAt p [{ pkt := e.pkt, bar := e.bar, port := e.port }]
    (st, [], q)
  else match headBar e.pkt.h e.bar with
    | some st => (st, [], p)
    | none =>
      let (st, old, q) := atomicAt p e.pkt.h e.pkt.data
      (st, if st = stOk ∧ e.pkt.h.fetch = true then old else [], q)

/-- A request applies and is acknowledged, with the requests combined into it and its copies (R369, R380). -/
def applyLine (p : Pkg) (e : LineReq) : Pkg :=
  if applied (srcOf p e.pkt.h.src) e.pkt.h.seq then duplicate p e.pkt.h
  else
    let (st, back, q) := applyReq p e
    let q1 := reply (markSeq q e.pkt.h st back) e.pkt.h st back
    forAll e.again (fun x h => reply x h st back) (forAll e.absorbed (fun x k => reply (markSeq x k.h st []) k.h st []) q1)

/-- A request waits for its line: a copy of one that waits is answered with it; with COMBINE_EN it combines with one that waits, at whose
place both stand; else it joins the end of the queue (R369, R379, R380). -/
def joinLine (p : Pkg) (e : LineReq) : Pkg :=
  let h := e.pkt.h
  let same (k : Hdr) : Bool := decide (k.src = h.src ∧ k.seq = h.seq)
  let copyOf (x : LineReq) : Bool := same x.pkt.h || x.absorbed.any fun k => same k.h
  let meets (x : LineReq) : Bool := combinable x.pkt.h h && decide (x.bar = none ∧ e.bar = none)
  if p.fab.lineQueue.any copyOf then
    modFab p fun f => { f with
      dupDrop := inc64 f.dupDrop
      lineQueue := f.lineQueue.map fun x => if copyOf x then { x with again := x.again ++ [h] } else x }
  else match if p.fab.combineEn then p.fab.lineQueue.find? meets else none with
    | some w =>
      let val := toLE 8 (atomVal h.atop h.signed (leNat w.pkt.data) (leNat e.pkt.data) 0)
      modFab p fun f => { f with
        combinedCount := satAdd sat64 f.combinedCount (if w.absorbed.isEmpty then 2 else 1)
        lineQueue := f.lineQueue.map fun x =>
          if x = w then { x with pkt := { x.pkt with data := val }, absorbed := x.absorbed ++ [e.pkt] } else x }
    | none => modFab p fun f => { f with lineQueue := f.lineQueue ++ [e] }

/-- Ticks pass: the package is locked or in holdover (R57, R61). -/
def ticking (p : Pkg) : Bool := p.tick.phaseLocked || p.tick.holdover

/-- A line takes a request at once: fewer than 25 have applied to it in this tick, at 4 ns each, and none waits. -/
def lineFree (p : Pkg) (l : Nat) : Bool :=
  !ticking p || (decide (tget 0 p.fab.lineUsed l < 25) && !p.fab.lineQueue.any fun e => decide (lineOf e.pkt.h = l))

/-- A store that is no piece of a run, or an atomic, arrives at its line. DESIGN CHOICE: a line takes 25 requests in a tick, one per 4 ns,
the least that R379 allows (log entry 25). -/
def lineIn (p : Pkg) (e : LineReq) : Pkg :=
  let l := lineOf e.pkt.h
  if lineFree p l then applyLine (modFab p fun f => { f with lineUsed := tset 0 f.lineUsed l (tget 0 f.lineUsed l + 1) }) e
  else joinLine p e

/-- The requests of a line in the order in which its input ports are served, round by round from the port of the tick's number (R379). -/
def lineOrder (p : Pkg) (l : Nat) : List LineReq :=
  let own := p.fab.lineQueue.filter fun e => decide (lineOf e.pkt.h = l)
  (upto own.length).flatMap fun k => (upto 17).filterMap fun i =>
    (own.filter fun e => decide (e.port = (now p + i) % 17))[k]?

/-- A tick begins: every line takes up to 25 of the requests that wait for it (R379). -/
def serveLines (p : Pkg) : Pkg :=
  let ls := (p.fab.lineQueue.map fun e => lineOf e.pkt.h).eraseDups
  let p1 := modFab p fun f => { f with lineUsed := [] }
  forAll (heldPorts p) payCredits (forAll ls (fun q l =>
    let es := (lineOrder p l).take 25
    forAll es applyLine (modFab q fun f => { f with
      lineUsed := tset 0 f.lineUsed l es.length, lineQueue := f.lineQueue.filter fun e => decide (e ∉ es) })) p1)

/-- A store arrives: a run applies when its last piece is in (R371). A RUN_LEN or RUN_IDX that no run has is answered at once. -/
def storeIn (p : Pkg) (port : Nat) (k : Pkt) (bar : Option Nat) : Pkg :=
  if k.h.runLen ≤ 1 ∨ 32 < k.h.runLen ∨ k.h.runLen ≤ k.h.runIdx then lineIn p { port := port, pkt := k, bar := bar }
  else pumpRuns (pieceOfRun p { pkt := k, bar := bar, port := port })

/-- A load arrives (R368). -/
def loadIn (p : Pkg) (k : Pkt) (bar : Option Nat) : Pkg :=
  match headBar k.h bar with
  | some st => reply p k.h st []
  | none => let (st, b) := loadAt p k.h; reply (countServed p k.h st) k.h st b

/-- A request reaches its destination (R367 to R369, R381). -/
def requestIn (p : Pkg) (port type : Nat) (b : Bytes) : Pkg :=
  if !pktSound b then e2eDrop p port b
  else
    let k := pktOf b
    if k.h.type ≠ type ∨ k.h.dst ≠ chipNo p then p
    else if k.h.epoch ≠ epochOf p then reply (staleRx p k.h) k.h stEpochStale []
    else
      let p1 := hear p k.h
      if isWrite k.h && applied (srcOf p1 k.h.src) k.h.seq then duplicate p1 k.h
      else if type = 1 then loadIn p1 k (hdrBar b)
      else if type = 2 then storeIn p1 port k (hdrBar b)
      else lineIn p1 { port := port, pkt := k, bar := hdrBar b }

/-! ### Responses at their source (R373, R375, R376) -/

/-- The type of the response to a request (Table 11-13). -/
def answerType (h : Hdr) : Nat := if h.type = 1 then 4 else if h.type = 3 ∧ h.fetch = true then 6 else 5

/-- A response answers an outstanding transaction. A response of another epoch counts only when it says EPOCH_STALE or comes from a
router (R378, R381). -/
def answers (p : Pkg) (h : Hdr) (t : Txn) : Bool :=
  let k := t.pkt.h
  decide (h.type = answerType k ∧ h.src = k.dst ∧ h.srcId = k.srcId ∧ h.seq = k.seq ∧ h.addr = k.addr) &&
    decide (h.epoch = epochOf p ∨ h.status = stEpochStale ∨ h.status = stRemoteTimeout)

/-- The lines that a cacheable load fills: those it reads whole. -/
def rrcFill (p : Pkg) (t : Txn) (b : Bytes) : Pkg :=
  if t.cacheable ∧ winOf t.pkt.h.addr ≤ 3 then
    let a := t.pkt.h.addr
    let lines := (upto 5).map (· + a / 64) |>.filter fun l => decide (a ≤ 64 * l ∧ 64 * l + 64 ≤ a + b.length)
    modFab p fun f => { f with rrc := lines.foldl (fun r l => rrcPut r l ((b.drop (64 * l - a)).take 64)) f.rrc }
  else p

/-- The status that a response reports: a value that Table 8-15 marks reserved stands for INTERNAL_FAULT (R22). -/
def knownStatus (st : Nat) : Nat := if st < 21 ∨ st = stInternalFault then st else stInternalFault

/-- A response reaches its source: it completes its transaction, or is discarded (R373). -/
def responseIn (p : Pkg) (port type : Nat) (b : Bytes) : Pkg :=
  if !pktSound b then e2eDrop p port b
  else
    let k := pktOf b
    if k.h.type ≠ type ∨ k.h.dst ≠ chipNo p then p
    else
      let p1 := hear p k.h
      match txnOf p1 k.h.tag with
      | none => p1
      | some t =>
        if !answers p1 k.h t then p1
        else
          let p2 := if k.h.status = stOk ∧ type = 4 then rrcFill p1 t k.data else p1
          completeTxn p2 t (knownStatus k.h.status) k.data

end Sys2Proof.Machine
end

