-- ==== Sys2Proof/Machine/PortOps.lean ====
section
/-! DEFINITION. Ports of the Pack fabric: bring-up, collar records, flits, a port that leaves the routes, the plan that takes effect
and transit packets (R347 to R361, R374). -/

namespace Sys2Proof.Machine

/-- A port number of a running package. -/
def onPort (p : Pkg) (n : Nat) : Bool := powered p && decide (n < 16)

/-- Port states (Table 11-17). -/
abbrev ptDisabled : Nat := 0
abbrev ptDown : Nat := 1
abbrev ptTraining : Nat := 2
abbrev ptCollar : Nat := 3
abbrev ptUp : Nat := 4
abbrev ptMiscabled : Nat := 5
abbrev ptVersionHeld : Nat := 6
abbrev ptNoPlan : Nat := 7
abbrev ptInspect : Nat := 8

/-- A held state (R355). -/
def isHeld (st : Nat) : Bool := decide (st = ptMiscabled ∨ st = ptVersionHeld ∨ st = ptNoPlan)

/-! ### Packets of a port that leaves the routes (R374) -/

/-- Route a packet again: a request that finds no port is answered with REMOTE_TIMEOUT on the path it came by, or by the routes where that
port is no longer UP (R359, R374, R378). -/
def reroute (p : Pkg) (b : Bytes) : Pkg :=
  match choosePort p (hdrOf b) with
  | some m => putPort p m b
  | none =>
    if isRequest (hdrOf b) then
      let p1 := modFab p fun f => { f with unreachable := inc64 f.unreachable }
      let r := respPkt p1 (hdrOf b) stRemoteTimeout []
      let n := tget 0 p1.fab.cameBy (wayKey (hdrOf b))
      if n ≠ 0 ∧ (portOf p1 (n - 1)).st = ptUp then putPort p1 (n - 1) (pktBytes r) else route p1 16 r
    else p

/-- Reinject a packet (R374). -/
def reinject (p : Pkg) (b : Bytes) : Pkg := reroute (modFab p fun f => { f with reinjected := inc64 f.reinjected }) (asReinjected b)

/-- A port no longer carries packets: those of which flits were sent and are not acknowledged at link level are reinjected, and those that
wait are routed again (R374). The caller has set the port's new state. -/
def emptyPort (p : Pkg) (n : Nat) : Pkg :=
  let x := portOf p n
  let p1 := modPort p n fun y =>
    { y with sent := [], controls := [], waiting := [], begun := [], credUsed := [], credOwed := [], rxWords := [], cwPos := 0 }
  let p2 := forAll (x.sent.filterMap (·.pkt)) reinject p1
  forAll x.waiting (fun q b => if isBegun x b then reinject q b else reroute q b) p2

/-! ### Collar records (R353 to R355) -/

/-- This package's first 16 bytes of the plan digest (Table 11-4). -/
def planDigest (p : Pkg) : Bytes := match p.fab.plan with | some x => x.digest.take 16 | none => zeros 16

/-- The collar record that a port sends (Table 11-4). -/
def collarBytes (p : Pkg) (n : Nat) : Bytes :=
  toLE 1 1 ++ toLE 1 n ++ toLE 2 (if p.fab.plan.isSome then chipNo p + 2 ^ 15 else 0) ++ toLE 1 Config.protoMinor.toNat ++ toLE 1 4 ++
    zeros 2 ++ toLE 4 Config.fwBuild.toNat ++ zeros 4 ++ planDigest p ++ toLE 8 Config.serial.toNat ++ toLE 8 (epochOf p) ++ zeros 104

/-- The fields of a peer's collar record (Table 11-4). -/
def crPort (b : Bytes) : Nat := fieldAt b 1 1 % 16
def crValid (b : Bytes) : Bool := bitOf (fieldAt b 2 2) 15
def crChip (b : Bytes) : Nat := fieldAt b 2 2 % 4096
def crMinor (b : Bytes) : Nat := fieldAt b 4 1
def crMajor (b : Bytes) : Nat := fieldAt b 5 1
def crBuild (b : Bytes) : Nat := fieldAt b 8 4
def crDigest (b : Bytes) : Bytes := (b.drop 16).take 16

/-- Two records differ in PLAN_DIGEST, MAJOR or MINOR (R355). -/
def crDiffer (a b : Bytes) : Bool := decide (crDigest a ≠ crDigest b ∨ crMajor a ≠ crMajor b ∨ crMinor a ≠ crMinor b)

/-- The state that a peer's collar record gives, with the reason of a MISCABLED (R354). -/
def collarVerdict (p : Pkg) (n : Nat) (b : Bytes) : Nat × Nat :=
  let own := Config.protoMinor.toNat
  if crMajor b ≠ 4 ∨ own + 1 < crMinor b ∨ crMinor b + 1 < own then (ptVersionHeld, 0)
  else if p.fab.plan.isNone then (ptNoPlan, 0)
  else if crValid b = false ∨ crDigest b ≠ planDigest p then (ptMiscabled, 1)
  else match farEnd p n with
    | none => (ptMiscabled, 2)
    | some (c, m) => if crChip b ≠ c then (ptMiscabled, 2) else if crPort b ≠ m then (ptMiscabled, 3) else (ptUp, 0)

/-- A port evaluates its peer's collar record (R354). -/
def evaluate (p : Pkg) (n : Nat) (b : Bytes) : Pkg :=
  let old := (portOf p n).st
  let (st, why) := collarVerdict p n b
  let p1 := modPort p n fun x =>
    { x with
      st := st, phase := 6, held := 0, holdReason := why, collar := some b
      agreedMinor := if st = ptUp then min (crMinor b) Config.protoMinor.toNat else 0
      versionSticky := x.versionSticky || decide (st = ptVersionHeld)
      miscabledSticky := x.miscabledSticky || decide (st = ptMiscabled)
      peerValid := true, peerChip := crChip b, peerPort := crPort b, peerMinor := crMinor b, peerMajor := crMajor b, peerBuild := crBuild b }
  let p2 := if old = ptUp ∧ st ≠ ptUp then emptyPort p1 n else p1
  if st = ptUp then (if old = ptUp then p2 else log p2 codePortUp n n (crChip b) (crPort b))
  else if st = ptVersionHeld then log p2 codePortVersionHeld n n (256 * crMajor b + crMinor b) (crBuild b)
  else if st = ptMiscabled then log p2 codePortMiscabled n n why (crChip b + 65536 * crPort b)
  else p2

/-- A port that was held and has retrained stays held, for the same reason (R355). -/
def holdAgain (p : Pkg) (n : Nat) (b : Bytes) : Pkg :=
  modPort p n fun x =>
    { x with
      st := x.held, phase := 6, held := 0, peerValid := true, peerChip := crChip b, peerPort := crPort b, peerMinor := crMinor b
      peerMajor := crMajor b, peerBuild := crBuild b }

/-- A collar record arrives on a port (R354, R355). -/
def collarIn (p : Pkg) (n : Nat) (b : Bytes) : Pkg :=
  let x := portOf p n
  if x.st = ptCollar then
    match x.collar with
    | some o => if x.held ≠ 0 ∧ crDiffer o b = false then holdAgain p n b else evaluate p n b
    | none => evaluate p n b
  else if isHeld x.st then
    match x.collar with
    | some o => if crDiffer o b then evaluate p n b else p
    | none => evaluate p n b
  else p

/-! ### Bring-up (R350, R352) -/

/-- The plan gives a port the RS544 mode; without a plan it trains in LIGHT mode (R347). -/
def planMode (p : Pkg) (n : Nat) : Bool := match linkOf p n with | some l => l.rs544 | none => false

/-- A port begins training with the plan's FEC mode (R347, R352): nothing of an earlier bring-up is left to send again (R349). The numbers of
its flits begin at 0 (log entry 45). HOLD_REASON stays for a port that is held again and reads as 0 until
then (R355, R388). -/
def startTrain (p : Pkg) (n : Nat) : Pkg :=
  modPort p n fun x =>
    { x with
      st := ptTraining, phase := 2, phaseAt := now p, rs544 := planMode p n, agreedMinor := 0, peerValid := false, peerChip := 0, peerPort := 0
      peerMinor := 0, peerMajor := 0, peerBuild := 0, rxNext := 0, rxBad := false, txNext := 0, cwPos := 0, cwCount := 0, cwBad := none
      fecDown := false, rxWords := [], credUsed := [], credOwed := [], sent := [], controls := [] }

/-- Light on all four lanes of a DOWN port (R352, phase 1). -/
def lightOn (p : Pkg) (n : Nat) : Pkg :=
  startTrain (forAll (upto 4) (fun q i => modLane q (4 * n + i) fun l => { l with los := false }) p) n

/-- A training phase is done; after codeword lock the port sends its collar record (R352). -/
def phaseDone (p : Pkg) (n : Nat) : Pkg :=
  let x := portOf p n
  if x.phase < 4 then modPort p n fun y => { y with phase := y.phase + 1, phaseAt := now p }
  else
    let p1 := modPort p n fun y => { y with st := ptCollar, phase := 5, phaseAt := now p, fecFails := 0 }
    sendControl p1 n (collarBytes p1 n)

/-- Ticks that a bring-up phase may take (Table 11-3). -/
def phaseLimit (phase : Nat) : Nat := if phase = 2 then 200000 else if phase = 4 then 1000 else 10000

/-- A phase overruns its limit (R352). -/
def phaseOverrun (p : Pkg) (n : Nat) : Pkg :=
  modPort p n fun x =>
    let fails := if x.phase = 4 then x.fecFails + 1 else 0
    { x with st := ptDown, phase := 1, trains := inc32 x.trains, fecFails := fails, fecLockFail := x.fecLockFail || decide (3 ≤ fails) }

/-- An inspection ends: its record, and the reply where one is owed (R466). -/
def inspectEnd (p : Pkg) (n status : Nat) : Pkg :=
  match (portOf p n).insp with
  | none => p
  | some i =>
    let p1 := modPort p n fun x => { x with insp := none }
    let p2 := log p1 codeInspectionDone n n i.xseq status
    match i.asked with
    | none => p2
    | some (path, mgr, seq) =>
      let c : PendCmd := { path := path, mgr := mgr, op := 0x15, seq := seq, term := p.mgt.term, tick := 0, body := [] }
      mgtReply p2 c status []

/-- A port goes DOWN (R350): its packets are reinjected, a held state is kept through the retrain, a running inspection ends. -/
def portDownOp (p : Pkg) (n cause : Nat) : Pkg :=
  let x := portOf p n
  let p1 := modPort p n fun y =>
    { y with
      st := ptDown, phase := 1, agreedMinor := 0, downSticky := y.downSticky || decide (x.st = ptUp)
      held := if isHeld x.st then x.st else y.held }
  let p2 := if 2 ≤ x.st then log p1 codePortDown n n cause 0 else p1
  inspectEnd (emptyPort p2 n) n stRemoteTimeout

/-- The condition of a DOWN (R350): a lane without light, a flit sent again 16 times, an ACK that has not advanced for 10 µs while flits
are outstanding, or two uncorrectable codewords within 10,000. -/
def downDue (p : Pkg) (n cause dark : Nat) : Bool :=
  let x := portOf p n
  match cause with
  | 0 => decide (dark % 16 ≠ 0)
  | 1 => x.sent.any fun f => decide (16 ≤ f.tries)
  | 2 => !x.sent.isEmpty && decide (x.ackAt + 100 ≤ now p)
  | 3 => x.fecDown
  | _ => false

/-- Lanes of a port lose their light (R350, Table 15-4). -/
def goDark (p : Pkg) (n dark : Nat) : Pkg :=
  forAll ((upto 4).filter fun i => bitOf dark i) (fun q i => modLane q (4 * n + i) fun l => { l with los := true }) p

/-- This side's collar record may still be under way: in COLLAR, and after it while a flit that carries it is not acknowledged (R352). -/
def collarDue (x : Port) : Bool :=
  decide (x.st = ptCollar) || ((decide (x.st = ptUp) || isHeld x.st) && x.sent.any fun f => decide (f.kind = 2 ∧ fieldAt f.payload 0 1 = 1))

/-- The tick boundary of a port: a DOWN port with light on all lanes trains again (R350), and the collar record goes out every 10 µs until
each side has received the other's (R352; log entry 31). -/
def portTick (p : Pkg) (n : Nat) : Pkg :=
  let x := portOf p n
  if x.st = ptDown ∧ x.enable = true then
    if (upto 4).all fun i => !(laneOf p (4 * n + i)).los then startTrain p n else p
  else if collarDue x = true ∧ since p x.phaseAt ≠ 0 ∧ since p x.phaseAt % 100 = 0 then sendControl p n (collarBytes p n)
  else p

/-- The ports at a tick boundary, and the lines of this package. -/
def portsTick (p : Pkg) : Pkg :=
  serveLines (forAll ((upto 16).filter fun n => decide ((portOf p n).st = ptDown) || collarDue (portOf p n)) portTick p)

/-- A write of PKF_PORT_CTRL.ENABLE (R352, Table 11-16). A port that the plan leaves unconnected stays DISABLED (R358). -/
def portEnableOp (p : Pkg) (n : Nat) (on : Bool) : Pkg :=
  let x := portOf p n
  let p1 := modPort p n fun y => { y with enable := on }
  if !on then
    if x.st = ptDisabled then p1
    else inspectEnd (emptyPort (modPort p1 n fun y => { y with st := ptDisabled, phase := 1, held := 0, agreedMinor := 0 }) n) n stRemoteTimeout
  else if x.st = ptDisabled ∧ (p.fab.plan.isNone = true ∨ (linkOf p n).isSome = true) then
    modPort p1 n fun y => { y with st := ptDown, phase := 1 }
  else p1

/-- A plan that passed its checks takes effect (R358); in the master rack RACK_ALIGNED is 1 with COUNT_SET (R63). DESIGN CHOICE: a port to
which it gives the other FEC mode trains again (R347; log entry 31). -/
def planEffect (p : Pkg) (x : Plan) : Pkg :=
  let p1 := modFab p fun f => { f with plan := some x, planNext := none }
  let p2 := gainAlign (log p1 codePlanLoaded 0 x.chips.length (fieldAt x.digest 0 4) x.chip)
  forAll (upto 16) (fun q n =>
    let y := portOf q n
    if (linkOf q n).isNone ∨ y.enable = false then
      if y.st = ptDisabled then q
      else inspectEnd (emptyPort (modPort q n fun z => { z with st := ptDisabled, phase := 1, held := 0, agreedMinor := 0 }) n) n stRemoteTimeout
    else if y.st = ptDisabled then modPort q n fun z => { z with st := ptDown, phase := 1 }
    else if 2 ≤ y.st ∧ y.st ≠ ptInspect ∧ y.rs544 ≠ planMode q n then startTrain (emptyPort (modPort q n fun z => { z with st := ptTraining, held := 0 }) n) n
    else if y.st = ptUp ∨ isHeld y.st = true then
      match y.collar with
      | some b => evaluate q n b
      | none => q
    else modPort q n fun z => { z with held := 0 }) p2

/-- A held port evaluates its peer again at the managers' command (R355). -/
def reevaluate (p : Pkg) (n : Nat) : Pkg :=
  let x := portOf p n
  if isHeld x.st then
    match x.collar with
    | some b => evaluate p n b
    | none => p
  else modPort p n fun y => { y with held := 0 }

/-! ### Flits (R347 to R349, R351) -/

/-- The fields of a flit (Table 11-2). -/
def flFseq (b : Bytes) : Nat := fieldAt b 0 4 % 4096
def flKind (b : Bytes) : Nat := bitsOf (fieldAt b 0 4) 13 12
def flVc (b : Bytes) : Nat := bitsOf (fieldAt b 0 4) 15 14
def flAck (b : Bytes) : Nat := bitsOf (fieldAt b 0 4) 27 16
def flNack (b : Bytes) : Bool := bitOf (fieldAt b 0 4) 28
def flCvc (b : Bytes) : Nat := bitsOf (fieldAt b 0 4) 30 29
def flCredit (b : Bytes) : Bool := bitOf (fieldAt b 0 4) 31

/-- The CRC of a flit holds (R348). -/
def flitSound (b : Bytes) : Bool := decide (b.length = 160 ∧ fieldAt b 156 4 = crc32c (b.take 156))

/-- One codeword of a lane joins its histogram and its bit counts (R463). -/
def countBin (p : Pkg) (lane bin bits errors : Nat) : Pkg :=
  modLane p lane fun l =>
    { l with
      hist := tset 0 l.hist bin (inc32 (tget 0 l.hist bin)), accBits := satAdd sat64 l.accBits bits
      accErrors := satAdd sat64 l.accErrors errors, total := satAdd sat64 l.total errors }

/-- Bits of a lane's symbols in a codeword, a quarter of the 136 or of the 544 symbols of 10 bits (R347). -/
def laneBits (rs : Bool) : Nat := if rs then 1360 else 340

/-- Bits that the code corrected in so many symbols of lane i: from 1 to 10 in each. The spec gives no way to know how many, and the operand
counts symbols: a free value (R463; log entries 10 and 31). -/
def fixedBits (p : Pkg) (i e : Nat) : Nat := if e = 0 then 0 else e + (Config.freeWord p.freeCtr).toNat / 256 ^ i % 256 % (9 * e + 1)

/-- A codeword is uncorrectable when more of its symbols are in error than the code corrects: 4 in LIGHT mode, 15 in RS544 mode (R347). -/
def wordLost (rs : Bool) (errs : List Nat) : Bool := decide ((if rs then 15 else 4) < sumL errs)

/-- Count a codeword on a port and its lanes, one per flit in LIGHT mode and one per four in RS544 mode; the operand is how many of its
symbols on each lane are in error (R347, R350, R463). -/
def countWord (p : Pkg) (n : Nat) (errs : List Nat) : Pkg :=
  let x := portOf p n
  let pos := if x.rs544 then (x.cwPos + 1) % 4 else 0
  if x.cwPos ≠ 0 then modPort p n fun y => { y with cwPos := pos }
  else
    let lost := wordLost x.rs544 errs
    let near := match x.cwBad with | some k => decide (x.cwCount < k + 10000) | none => false
    let p1 := modPort p n fun y =>
      { y with
        cwPos := pos, cwLost := lost, cwCount := y.cwCount + 1
        cwBad := if lost then some y.cwCount else y.cwBad, fecDown := y.fecDown || (lost && near)
        fecUncorr := if lost then inc64 y.fecUncorr else y.fecUncorr
        fecCorr := if !lost && decide (sumL errs ≠ 0) then inc64 y.fecCorr else y.fecCorr }
    nextFree (forAll (upto 4) (fun q i =>
      let e := errs.getD i 0
      countBin q (4 * n + i) (if lost then 15 else min 15 e) (laneBits x.rs544) (if lost then laneBits x.rs544 else fixedBits p i e)) p1)

/-- The acknowledgement and credit fields of a flit: flits acknowledged are no longer kept, a NACK is counted and sends again what is not,
a credit lets waiting packets go (R349 to R351). -/
def linkFields (p : Pkg) (n : Nat) (b : Bytes) : Pkg :=
  let ack := flAck b
  let kept (f : SentFlit) : Bool := decide (2048 ≤ (ack + 4096 - f.fseq) % 4096)
  let p1 := modPort p n fun x =>
    { x with
      sent := (x.sent.filter kept).map fun f => if flNack b then { f with tries := f.tries + 1 } else f
      ackAt := if x.sent.all kept then x.ackAt else now p
      replays := if flNack b then inc64 x.replays else x.replays
      credUsed := if flCredit b then tset 0 x.credUsed (flCvc b) (tget 0 x.credUsed (flCvc b) - 1) else x.credUsed }
  let p2 := if flNack b then forAll (portOf p1 n).sent (fun q f => txFlit q n false f) p1 else p1
  drainPort p2 n

/-- One word of packet stream joins the packet under way on its VC; a pad word is skipped, and a whole packet leaves for its own
event (R351; log entry 1). -/
def takeWord (ws : List Bytes) (w : Bytes) : List Bytes :=
  if ws.isEmpty && decide (fieldAt w 0 1 = 0) then ws
  else
    let l := ws ++ [w]
    if 5 ≤ l.length ∧ 8 * l.length = 48 + payloadLen (hdrOf (l.take 5).flatten) then [] else l

/-- A flit is not accepted: it and every later one are discarded until the expected one comes, and a NACK goes out. DESIGN CHOICE: one NACK
when discarding begins and one more for each flit that does not decode or whose CRC fails (R349; log entry 31). -/
def refuseFlit (p : Pkg) (n : Nat) (again : Bool) : Pkg :=
  let p1 := modPort p n fun x => { x with rxBad := true }
  if again || !(portOf p n).rxBad then txIdle p1 n true else p1

/-- Flit buffers that the words of a packet under way hold. -/
def heldFlits (ws : List Bytes) : Nat := ceilDiv ws.length 19

/-- An accepted flit: a data flit's words join their VC, and the buffers of what is whole are free again (R351); idle flits answer with the
acknowledgement and the credits owed. -/
def acceptFlit (p : Pkg) (n : Nat) (b : Bytes) : Pkg :=
  let vc := flVc b
  let old := tget [] (portOf p n).rxWords vc
  let new := if flKind b = 0 then (chunks 8 19 ((b.drop 4).take 152)).foldl takeWord old else old
  let free := if flKind b = 0 then 1 + heldFlits old - heldFlits new else 0
  let p1 := modPort p n fun x =>
    { x with
      rxNext := (x.rxNext + 1) % 4096, rxBad := false, rxFlits := inc64 x.rxFlits, rxWords := tset [] x.rxWords vc new
      credOwed := tset 0 x.credOwed vc (tget 0 x.credOwed vc + free) }
  forAll (upto (max 1 free)) (fun q _ => txIdle q n false) p1

/-- A flit arrives on a port, with how many symbols of its codeword on each lane are in error (R347 to R349). -/
def flitIn (p : Pkg) (n : Nat) (b : Bytes) (errs : List Nat) : Pkg :=
  let p1 := countWord p n errs
  if (portOf p1 n).cwLost || !flitSound b then refuseFlit p1 n true
  else if flKind b = 1 then linkFields p1 n b
  else if flKind b = 3 ∨ flFseq b ≠ (portOf p1 n).rxNext then refuseFlit p1 n false
  else linkFields (acceptFlit p1 n b) n b

/-! ### Transit (R359 to R361) -/

/-- A packet for another chip arrives on a port: it goes on with one hop fewer, or is discarded at hop count 0 (R360). Nothing else of it is
examined here: its CRC is its destination's to check (R361, R367). -/
def forwardIn (p : Pkg) (port : Nat) (b : Bytes) : Pkg :=
  if b.length < 48 ∨ (hdrOf b).dst = chipNo p then p
  else if (hdrOf b).hops = 0 then modFab p fun f => { f with hopDrop := inc64 f.hopDrop }
  else routeBytes p port (lessHop b)

end Sys2Proof.Machine
end

