-- ==== Sys2Proof/Machine/FabFam.lean ====
section
/-! DEFINITION. Meanings of the Pack fabric commands: ports, flits, packets, fences, timeouts, liveness, the plan and the probe
(R347 to R388). -/

namespace Sys2Proof.Machine

/-- PORT_ENABLE (R352, Table 11-16). -/
def execPortEnable (fn port : Nat) (value : Word32) (s : State) : Host.Outcome State Fault Refusal :=
  act (onPort s.pkg port && latest (.portEnable fn port value) s) (fun p => pfWrite p fn (0x1001004 + 0x100 * port) fun q => portEnableOp q port (bitOf value.toNat 0)) s

/-- The optical engine of a port is available (R36). -/
def opticsUp (p : Pkg) (port : Nat) : Bool := !tget false p.glb.opticsLost (port / 4)

/-- PORT_LIGHT_DETECT (R352, phase 1); a port of a lost optical engine sees no light. -/
def execPortLightDetect (port : Nat) (s : State) : Host.Outcome State Fault Refusal :=
  act (onPort s.pkg port && opticsUp s.pkg port && decide ((portOf s.pkg port).st = ptDown)) (fun p => lightOn p port) s

/-- PORT_TRAIN_PHASE_DONE (R352, phases 2 to 4). -/
def execPortTrainPhaseDone (port : Nat) (s : State) : Host.Outcome State Fault Refusal :=
  act (onPort s.pkg port && decide ((portOf s.pkg port).st = ptTraining)) (fun p => phaseDone p port) s

/-- PORT_TRAIN_TIMEOUT: the phase has taken its limit, which no tick count shows before the first lock (R352). -/
def execPortTrainTimeout (port : Nat) (s : State) : Host.Outcome State Fault Refusal :=
  let x := portOf s.pkg port
  act (onPort s.pkg port && decide (x.st = ptTraining ∨ x.st = ptCollar) &&
      (!ticking s.pkg || decide (phaseLimit x.phase ≤ since s.pkg x.phaseAt))) (fun p => phaseOverrun p port) s

/-- COLLAR_RECORD (R353 to R355). -/
def execCollarRecord (port : Nat) (rec : Bytes) (s : State) : Host.Outcome State Fault Refusal :=
  act (onPort s.pkg port && decide (fieldAt rec 0 1 = 1)) (fun p => collarIn p port rec) s

/-- PORT_DOWN (R350, R374). -/
def execPortDown (port : Nat) (cause : PortLoss) (s : State) : Host.Outcome State Fault Refusal :=
  act (onPort s.pkg port && decide (2 ≤ (portOf s.pkg port).st) && downDue s.pkg port cause.kind cause.lanes)
    (fun p => portDownOp (if cause.kind = 0 then goDark p port cause.lanes else p) port cause.kind) s

/-- FLIT_RECEIVE (R347 to R349, R351). -/
def execFlitReceive (port : Nat) (flit : Bytes) (errs : List Nat) (s : State) : Host.Outcome State Fault Refusal :=
  act (onPort s.pkg port && decide (3 ≤ (portOf s.pkg port).st)) (fun p => flitIn p port flit errs) s

/-- A packet can come by a port: by one that is UP, or from this package itself as port 16. -/
def carries (p : Pkg) (port : Nat) : Bool :=
  powered p && (decide (port = 16) || (decide (port < 16 ∧ (portOf p port).st = ptUp)))

/-- PACKET_FORWARD (R359 to R361). -/
def execPacketForward (port : Nat) (pkt : Bytes) (s : State) : Host.Outcome State Fault Refusal :=
  act (carries s.pkg port && decide (port < 16)) (fun p => forwardIn p port pkt) s

/-- PACKET_LOAD (R363 to R368). -/
def execPacketLoad (port : Nat) (pkt : Bytes) (s : State) : Host.Outcome State Fault Refusal :=
  act (carries s.pkg port) (fun p => requestIn p port 1 pkt) s

/-- PACKET_STORE (R363 to R371). -/
def execPacketStore (port : Nat) (pkt : Bytes) (s : State) : Host.Outcome State Fault Refusal :=
  act (carries s.pkg port) (fun p => requestIn p port 2 pkt) s

/-- PACKET_ATOMIC (R363 to R369). -/
def execPacketAtomic (port : Nat) (pkt : Bytes) (s : State) : Host.Outcome State Fault Refusal :=
  act (carries s.pkg port) (fun p => requestIn p port 3 pkt) s

/-- LOAD_RESP (R373, R376). -/
def execLoadResp (port : Nat) (pkt : Bytes) (s : State) : Host.Outcome State Fault Refusal :=
  act (carries s.pkg port) (fun p => responseIn p port 4 pkt) s

/-- STORE_ACK (R373). -/
def execStoreAck (port : Nat) (pkt : Bytes) (s : State) : Host.Outcome State Fault Refusal :=
  act (carries s.pkg port) (fun p => responseIn p port 5 pkt) s

/-- ATOMIC_RESP (R373, R376). -/
def execAtomicResp (port : Nat) (pkt : Bytes) (s : State) : Host.Outcome State Fault Refusal :=
  act (carries s.pkg port) (fun p => responseIn p port 6 pkt) s

/-! ### Fences and timeouts (R372, R377) -/

/-- The first fence of a SRC_ID whose condition holds, or which a timeout has ended (R372). -/
def fenceDue (p : Pkg) (srcId : Nat) : Option FabFence :=
  p.fab.fences.find? fun f => decide (f.srcId = srcId) && (f.timedOut || fenceMet p f)

/-- A fence completes: its fabric command is done (R372, R427). -/
def fenceEnds (p : Pkg) (f : FabFence) : Pkg :=
  fqEnds (modFab p fun x => { x with fences := x.fences.erase f }) f.srcId f.index (if f.timedOut then stRemoteTimeout else stOk) []

/-- FABRIC_FENCE_COMPLETE (R372). -/
def execFabricFenceComplete (srcId : Nat) (s : State) : Host.Outcome State Fault Refusal :=
  act (powered s.pkg) (fun p => match fenceDue p srcId with | some f => fenceEnds p f | none => p) s

/-- Fences that wait on a store or atomic that times out (R372). -/
def fencesTimeOut (p : Pkg) (h : Hdr) : Pkg :=
  if isWrite h then
    modFab p fun f => { f with
      fences := f.fences.map fun x =>
        if x.marks.any fun m => decide (m.1 = h.dst) && !seqBelow m.2 h.seq then { x with timedOut := true } else x }
  else p

/-- A code recorded at most once per source in 10,000 ticks: the tick after the last record, 0 for none (R389). -/
def perSource (last now_ : Nat) : Bool := decide (last = 0 ∨ last - 1 + 10000 ≤ now_)

/-- A load or fetching atomic is timed out (R377). -/
def loadTimesOut (p : Pkg) (t : Txn) : Pkg :=
  let h := t.pkt.h
  let p1 := modFab p fun f => { f with loadTimeouts := inc64 f.loadTimeouts }
  let p2 := if perSource (tget 0 p1.fab.loadLogAt h.srcId) (now p1) then
      log (modFab p1 fun f => { f with loadLogAt := tset 0 f.loadLogAt h.srcId (now p1 + 1) }) codeLoadTimeout
        (if h.srcId < 256 then h.srcId else 0) h.srcId h.dst h.addr
    else p1
  completeTxn (fencesTimeOut p2 h) t stRemoteTimeout []

/-- A store or non-fetching atomic is timed out (R377). -/
def storeTimesOut (p : Pkg) (t : Txn) : Pkg :=
  let h := t.pkt.h
  let p1 := modFab p fun f => { f with storeTimeouts := inc64 f.storeTimeouts }
  let p2 := if perSource (tget 0 p1.fab.storeLogAt h.srcId) (now p1) then
      log (modFab p1 fun f => { f with storeLogAt := tset 0 f.storeLogAt h.srcId (now p1 + 1) }) codeStoreTimeout
        (if h.srcId < 256 then h.srcId else 0) h.srcId h.dst h.addr
    else p1
  completeTxn (fencesTimeOut p2 h) t stRemoteTimeout []

/-- LOAD_TIMEOUT (R377). -/
def execLoadTimeout (tag : Nat) (s : State) : Host.Outcome State Fault Refusal :=
  act (powered s.pkg) (fun p => match txnOf p tag with
    | some t => if isFetch t.pkt.h && decide (t.at_ + p.fab.loadTimeout ≤ now p) then loadTimesOut p t else p
    | none => p) s

/-- STORE_TIMEOUT (R377). -/
def execStoreTimeout (tag : Nat) (s : State) : Host.Outcome State Fault Refusal :=
  act (powered s.pkg) (fun p => match txnOf p tag with
    | some t => if !isFetch t.pkt.h && decide (t.at_ + 2000 ≤ now p) then storeTimesOut p t else p
    | none => p) s

/-! ### Reachability (R383, R384) -/

/-- A chip is another member of some pen's group of more than one package. -/
def isPeer (p : Pkg) (chip : Nat) : Bool :=
  decide (chip ≠ chipNo p) && p.pens.any fun x => decide (1 < x.2.groupSize) && (members x.2).any fun m => decide (m.2 = chip)

/-- No packet of this package's epoch has come from a chip for a number of ticks (R383). -/
def silent (p : Pkg) (chip ticks : Nat) : Bool := let h := tget 0 p.fab.heard chip; decide (h = 0 ∨ ticks ≤ since p (h - 1))

/-- A liveness load to a chip is outstanding. -/
def probing (p : Pkg) (chip : Nat) : Bool := p.fab.txns.any fun t => decide (t.by_ = .liveness ∧ t.pkt.h.dst = chip)

/-- LIVENESS_PROBE (R383). -/
def execLivenessProbe (chip : Nat) (s : State) : Host.Outcome State Fault Refusal :=
  act (fwRuns s.pkg && isPeer s.pkg chip && silent s.pkg chip 100 && !probing s.pkg chip)
    (fun p => issue p .liveness false [{ h := { type := 1, dst := chip, srcId := 272, addr := gaddr chip 4 0 } }]) s

/-- MEMBER_UNREACHED (R383, R384). -/
def execMemberUnreached (pen member : Nat) (s : State) : Host.Outcome State Fault Refusal :=
  act (fwRuns s.pkg && decide (pen < 16))
    (fun p =>
      let x := penOf p pen
      match memberChip x member with
      | none => p
      | some chip =>
        if mayFence x = false ∨ chip = chipNo p ∨ silent p chip 500 = false then p
        else fenceGroupOp (log p codeMemberUnreached pen pen chip (tget 0 p.fab.heard chip - 1)) pen 0 chip) s

/-- FENCE_NOTICE: a flagged 32-byte store to a notice space (R384). -/
def execFenceNotice (port : Nat) (pkt : Bytes) (s : State) : Host.Outcome State Fault Refusal :=
  act (carries s.pkg port && decide (winOf (hdrOf pkt).addr = 4 ∧ spaceOf (hdrOf pkt).addr = 5)) (fun p => requestIn p port 2 pkt) s

/-! ### The plan, the probe and the remote-read cache (R358, R375, R388) -/

/-- PLAN_TAKES_EFFECT (R358). -/
def execPlanTakesEffect (s : State) : Host.Outcome State Fault Refusal :=
  actS (powered s.pkg) (fun p => match p.fab.planNext with | some x => planEffect p x | none => p) s

/-- The PF probe issues one load (R375, R388). -/
def probeGo (p : Pkg) (v : Nat) : Pkg :=
  let a := p.fab.probeAddr
  let h : Hdr := { type := 1, size := v % 32, dst := a / 2 ^ 52, srcId := 511, addr := a }
  let done (q : Pkg) (st : Nat) (b : Bytes) : Pkg := modFab q fun f => { f with probeSt := 2, probeStatus := st, probeData := b }
  if bitOf v 31 = false ∨ p.fab.probeSt = 1 then p
  else if !aligned h then done p stAlignmentInvalid (errValue (reqLen h))
  else
    let cache := bitOf v 5 && decide (winOf a ≤ 3)
    match if cache then rrcRead p a (reqLen h) else none with
    | some b => done (rrcTouch p a (reqLen h)) stOk b
    | none => issue (modFab p fun f => { f with probeSt := 1, probeStatus := 0 }) .probe cache [{ h := h }]

/-- PKF_PROBE_GO (R388). -/
def execPkfProbeGo (fn : Nat) (value : Word32) (s : State) : Host.Outcome State Fault Refusal :=
  act (powered s.pkg) (fun p => pfWrite p fn 0x1000108 fun q => probeGo q value.toNat) s

/-- Invalidate the lines that meet the range of the PKF_RRC_INVAL_ registers, or all (R375). -/
def rrcInvalidate (p : Pkg) : Pkg :=
  let a := p.fab.rrcInvalAddr
  let n := p.fab.rrcInvalBytes
  modFab p fun f => { f with
    rrc := if n = 0 then [] else f.rrc.filter fun e => decide (64 * e.1 + 64 ≤ a ∨ a + n ≤ 64 * e.1) }

/-- PKF_RRC_INVALIDATE (R375). -/
def execPkfRrcInvalidate (fn : Nat) (value : Word32) (s : State) : Host.Outcome State Fault Refusal :=
  act (powered s.pkg) (fun p => pfWrite p fn 0x100011C fun q => if bitOf value.toNat 0 then rrcInvalidate q else q) s

end Sys2Proof.Machine
end

