-- ==== Sys2Proof/Machine/ImprintOps.lean ====
section
/-! DEFINITION. Shared operations of IMPRINT_SHARD, of block fetches and repairs, and of the slower tier (R225 to R246). -/

namespace Sys2Proof.Machine

/-! ### Imprints (R225 to R228) -/

/-- The fields of an IMPRINT_SHARD (Table 8-10). -/
def impOp (d : Desc) : Nat := fieldAt d.raw 8 1 % 4
def impShard (d : Desc) : Nat := fieldAt d.raw 12 4
def impLength (d : Desc) : Nat := fieldAt d.raw 16 4
def impAddr (d : Desc) : Nat := fieldAt d.raw 24 8
def impDigest (d : Desc) : Bytes := (d.raw.drop 32).take 32

/-- Checks 1 to 3 of Table 7-3, in order; a nonzero reserved field is refused as R12 says, and R17 orders the fields
by byte offset. -/
def imprintHead (p : Pkg) (c : Nat) (d : Desc) : Option Nat :=
  firstFail (need (!noAuth p c) stPermission :: (headRsv d.raw ++
    [rsvHigh d.raw 8 4, rsv d.raw 9 3, need (shardLenOk (impLength d)) stLengthInvalid, rsv d.raw 20 4]))

/-- Checks 1 to 5 of a WRITE (Table 7-3); an address of zero is no address (R271). -/
def writeBar (p : Pkg) (c : Nat) (d : Desc) : Option Nat :=
  firstFail [imprintHead p c d, hostAddrOk d.raw 24 4096, need (imprintSlot p).isSome stLengthInvalid]

/-- Checks 1 to 6 of a RETIRE (Table 7-3); its address must be zero (Table 8-10). -/
def retireBar (p : Pkg) (c : Nat) (d : Desc) : Option Nat :=
  let ks := retireSlots p (impShard d) (impLength d) (impDigest d)
  firstFail [imprintHead p c d, need (decide (impAddr d = 0)) stFormatInvalid, need (!ks.isEmpty) stShardMissing,
    need (ks.all fun k => decide ((slotOf p k).claim = 0)) stPermission]

/-- A WRITE is evaluated: refused, or taken (R226). -/
def imprintWriteOp (p : Pkg) (c : Nat) (d : Desc) : Pkg :=
  match writeBar p c d, imprintSlot p with
  | some st, _ => imprintRefuse p c 0 d st
  | none, none => p
  | none, some k =>
    let aid := match p.nvw.auth with | some a => a.id | none => 0
    let p1 := modSlot p k fun s =>
      { s with
        st := nvWriting, cycles := s.cycles + 1, shard := impShard d, length := impLength d, digest := impDigest d
        origin := 0, authId := 0, payload := [], crcs := [], checks := [] }
    let p2 := modNvw p1 fun n =>
      { n with
        auth := n.auth.bind fun a => if a.left ≤ 1 then none else some { a with left := a.left - 1 }
        imprints := n.imprints ++ [{ ctx := c, slot := k, tag := d.tag, irq := d.irq, sqIndex := d.index, num := d.num, addr := impAddr d,
                                     authId := aid, counted := true }] }
    let p3 := beginDesc p2 c d id
    send p3 (.hostRead (ctxOf p c).fn (impAddr d) (impLength d))

/-- A RETIRE is evaluated (R228). -/
def imprintRetireOp (p : Pkg) (c : Nat) (d : Desc) : Pkg :=
  match retireBar p c d with
  | some st => imprintRefuse p c 0 d st
  | none =>
    let ks := retireSlots p (impShard d) (impLength d) (impDigest d)
    let p1 := forAll ks (fun q k =>
      emptySlotOp (log q codeShardRetired c (k + 256 * (k / 32)) (impShard d) 0) k) p
    answer (judgeVerify p1) c d stOk 0 false false

/-- The imprint that a stack is writing: the first one taken of its slots, once no repair writes there (R222, R226). -/
def writingOn (p : Pkg) (stack : Nat) : Option Imprint :=
  if p.nvw.repairs.any fun r => decide (r.slot / 32 = stack) then none
  else p.nvw.imprints.find? fun i => decide (i.slot / 32 = stack)

/-- The descriptor of an imprint. -/
def imprintDesc (p : Pkg) (i : Imprint) : Desc :=
  match (ctxOf p i.ctx).live.find? fun d => decide (d.num = i.num ∧ d.core = 0) with
  | some d => d
  | none => { type := 8, index := i.sqIndex, tag := i.tag, irq := i.irq, num := i.num }

/-- The end of a write: checks 7 and 8, and the slot's new state (R226). -/
def imprintEnd (p : Pkg) (i : Imprint) (payload : Option Bytes) : Pkg :=
  let s := slotOf p i.slot
  let d := imprintDesc p i
  let at_ := i.slot + 256 * (i.slot / 32)
  let drop (n : Nvw) : Nvw := { n with imprints := n.imprints.filter fun x => decide (x.slot ≠ i.slot) }
  let good := match payload with | some b => decide (sha256 b = s.digest ∧ i.slot ∉ p.nvw.spoiled) | none => false
  match payload, good with
  | some b, true =>
    let p1 := modSlot p i.slot fun x => { x with st := nvVerified, payload := b, crcs := blockCrcs b, checks := lineChecks b, authId := i.authId }
    let p2 := log (modNvw p1 drop) codeShardImprinted i.ctx at_ s.shard 0
    answer p2 i.ctx d stOk 0 false false
  | _, _ =>
    let st := if payload.isSome then stShardDigestMismatch else stPermission
    let p1 := modNvw (emptySlotOp p i.slot) fun n =>
      { drop n with auth := n.auth.map fun a => { a with left := if i.counted then a.left + 1 else a.left } }
    answer (log p1 codeImprintRefused i.ctx at_ s.shard st) i.ctx d st 0 false false

/-! ### Block fetches (R244) -/

/-- The next usable replica of a slot's shard after one tried, or the first. -/
def nextReplica (p : Pkg) (k : Nat) (tried : Option Nat) : Option Nat :=
  match tried with
  | none => (replicasOfSlot p k).head?
  | some r => replicaAfter p (entOfSlot (slotOf p k)) r

/-- Fetch a 64 KiB block from a replica, or end the step that waits for it (R244, Table 7-5). Where usable replicas were tried and none
gave the block, the slot's shard counts as held by none of them. -/
def fetchBlock (p : Pkg) (k off : Nat) (tried : Option Nat) : Pkg :=
  match nextReplica p k tried with
  | some r =>
    let x := replicaOf p r
    let b := off / 65536 * 65536
    readReplica (modNvw p fun n => { n with fetches := n.fetches ++ [⟨k, off, r⟩] }) x b (min 65536 (x.length - b))
  | none =>
    let p1 := if tried.isSome then modNvw p fun n => { n with dry := (n.dry.filter fun j => decide (j ≠ k)) ++ [k] } else p
    if (slotOf p k).claim = 0 then p1 else faultStep p1 ((slotOf p k).claim - 1)

/-- The contexts of the pens that hold a claim on a slot of a stack (R436). -/
def claimCtxs (p : Pkg) (stack : Nat) : List Nat :=
  ((enabledPens p).filter fun n => (stackSlots stack).any fun k => decide ((slotOf p k).claim = n + 1)).flatMap fun n => ctxsOfPen p n

/-- An NV stack is lost: its availability bit clears and the loss is recorded (R44). -/
def nvLose (p : Pkg) (stack : Nat) : Pkg :=
  logLoss { p with glb := { p.glb with nvLost := tset false p.glb.nvLost stack true } } 0 stack (claimCtxs p stack)

/-- A stack fails: every step job that streams from it ends (Table 7-5). -/
def nvStackFail (p : Pkg) (stack : Nat) : Pkg :=
  let ns := (enabledPens p).filter fun n => (stackSlots stack).any fun k => streamsSlot p n k
  judgeVerify (forAll ns faultStep (nvLose p stack))

/-- A line that is corrected: it is counted, and recorded at most once per stack in 10,000 ticks (R250, R251). -/
def lineCorrected (p : Pkg) (k off : Nat) : Pkg :=
  let s := k / 32
  let last := tget 0 p.nvw.corrLogAt s
  let p1 := modNvw p fun n => { n with eccCorr := tset 0 n.eccCorr s (inc32 (tget 0 n.eccCorr s)) }
  if last = 0 ∨ last - 1 + 10000 ≤ now p then
    logSlot (modNvw p1 fun n => { n with corrLogAt := tset 0 n.corrLogAt s (now p + 1) }) codeNvCorrected k off
  else p1

/-- Ticks of a stack's uncorrectable lines in the last 10,000 ticks (R246). -/
def recentLines (p : Pkg) (stack : Nat) : List Nat := (tget [] p.nvw.badLines stack).filter fun t => decide (now p < t + 10000)

/-- An uncorrectable line of a slot, after its reread (R244). More than 64 on a stack in 10,000 ticks are a failure of the stack
(R246). -/
def uncorrectable (p : Pkg) (k off : Nat) (ok : Bool) : Pkg :=
  if ok then lineCorrected (modNvw p fun n => { n with retryOk := inc32 n.retryOk }) k off
  else
    let s := k / 32
    let n := (slotOf p k).claim
    let wanted := decide (n ≠ 0) && streamsSlot p (n - 1) k
    let lines := recentLines p s ++ [now p]
    let p1 := modNvw p fun x =>
      { x with eccUncorr := tset 0 x.eccUncorr s (inc32 (tget 0 x.eccUncorr s)), badLines := tset [] x.badLines s lines }
    let writes := decide ((slotOf p k).st = nvWriting)
    let p2 := if writes then writeSpoiled p1 k off else slotBad p1 k off
    if 64 < lines.length then nvStackFail p2 s
    else if wanted && !writes then fetchBlock p2 k off none
    else p2

/-- The check bytes of a line correct up to 2 bytes in error and detect up to 4 (R221); what they make of more is a free value, one for the
first read (j = 0) and one for the second. -/
def lineOk (p : Pkg) (n j : Nat) : Bool :=
  decide (n ≤ 2) || (decide (4 < n) && decide ((Config.freeWord (p.freeCtr + j)).toNat % 2 = 0))

/-- A line is read with bytes in error: corrected at once, or read once more (R221, R244). -/
def lineRead (p : Pkg) (k off bad again : Nat) : Pkg :=
  if bad = 0 then p
  else if lineOk p bad 0 then lineCorrected (nextFree p) k off
  else uncorrectable (nextFree (nextFree p)) k off (lineOk p again 1)

/-- A block arrives, or does not: it is checked against the slot's block check table (R244). -/
def blockArrives (p : Pkg) (f : BlockFetch) (data : Option Bytes) : Pkg :=
  let same (x : BlockFetch) : Bool := decide (x = f)
  let p1 := modNvw p fun n =>
    { n with
      fetches := n.fetches.filter fun x => !same x
      slowBytes := satAdd sat32 n.slowBytes (match data with | some b => b.length | none => 0) }
  let good := match data with
    | some b => decide ((slotOf p f.slot).crcs[f.off / 65536]? = some (crc32c b))
    | none => false
  if good then p1 else fetchBlock p1 f.slot f.off (some f.replica)

/-! ### Repairs (R245) -/

/-- A repair stops: it does not begin again until a replica of the shard becomes GOOD (R245). -/
def repairStops (p : Pkg) (k : Nat) : Pkg :=
  logSlot (modNvw p fun n => { n with stopped := n.stopped ++ [k] }) codeNvRepairFailed k 0

/-- A repair's write ends (R245). DESIGN CHOICE: a digest that does not match does not count in SLED_HASH_FAIL, nor does one of a host entry's
registration fetch, since Table 7-8 names whole-shard mismatches on slower-tier fetches (log entry 30). -/
def repairEnd (p : Pkg) (r : Repair) (data : Option Bytes) : Pkg :=
  let p0 := modNvw p fun n =>
    { n with
      repairs := n.repairs.filter fun x => decide (x.slot ≠ r.slot), spoiled := n.spoiled.filter fun j => decide (j ≠ r.slot)
      slowBytes := satAdd sat32 n.slowBytes (match data with | some b => b.length | none => 0) }
  let s := slotOf p r.slot
  let good := match data with | some b => decide (b.length = s.length ∧ sha256 b = s.digest ∧ r.slot ∉ p.nvw.spoiled) | none => false
  match data, good with
  | some b, true =>
    let p1 := modNvw p0 fun n => { n with dry := n.dry.filter fun j => decide (j ≠ r.slot) }
    logSlot (modSlot p1 r.slot fun x => { x with st := nvVerified, payload := b, crcs := blockCrcs b, checks := lineChecks b }) codeNvRepaired r.slot 0
  | _, _ =>
    let p1 := modSlot p0 r.slot fun x => { x with st := nvBad }
    match nextReplica p1 r.slot (some r.replica) with
    | some k => if r.tries = 0 ∧ s.cycles < 100000 then repairFrom p1 r.slot k 1 else repairStops p1 r.slot
    | none => repairStops p1 r.slot

/-- A running step streams a LOCAL shard of a slot. -/
def inStream (p : Pkg) (k : Nat) : Bool :=
  let n := (slotOf p k).claim
  decide (n ≠ 0) && streamsSlot p (n - 1) k

/-! ### The replica table (R239, R240) -/

/-- KIND of an entry is written: from 0 to a nonzero value the entry is UNCHECKED and its check begins: the peer's slot header or the host's
payload is read (R239, R240). -/
def replicaKind (p : Pkg) (i kind : Nat) : Pkg :=
  let x := replicaOf p i
  if 3 ≤ kind then p
  else if kind = 0 then modReplica p i fun r => { r with kind := 0, checking := false }
  else if x.kind = 0 then
    let q := modNvw (modReplica p i fun r => { r with kind := kind, was := kind, st := 0, checking := true })
      fun n => { n with recheckAt := tset 0 n.recheckAt i 0 }
    if kind = 2 then readReplica q (replicaOf q i) 0 x.length else readHeader q (replicaOf q i)
  else modReplica p i fun r => { r with kind := kind, was := kind }

/-- A peer entry is judged by its header; without one it is UNCHECKED, and the check is repeated after 10,000 ticks (R240). -/
def replicaJudge (p : Pkg) (i : Nat) (header : Option Bytes) : Pkg :=
  let q := modReplica p i fun r =>
    match header with
    | none => { r with st := 0, checking := true }
    | some h => { r with st := if headerGood r h then 1 else 2, checking := false }
  replicaBack (modNvw q fun n =>
    { n with recheckAt := tset 0 n.recheckAt i (match header with | none => now p + 10000 | some _ => 0) }) i

/-- A host entry is judged by the digest of its payload (R240). -/
def replicaHostJudge (p : Pkg) (i : Nat) (payload : Option Bytes) : Pkg :=
  let q := modNvw p fun n => { n with slowBytes := satAdd sat32 n.slowBytes (match payload with | some b => b.length | none => 0) }
  replicaBack (modReplica q i fun r =>
    let good := match payload with | some b => decide (b.length = r.length ∧ sha256 b = r.digest) | none => false
    { r with st := if good then 1 else 2, checking := false }) i

/-- The peer entries whose check is repeated in this tick: their headers are read (R240). -/
def repeatChecks (p : Pkg) : Pkg :=
  forAll (tkeys (fun _ t => decide (t = now p)) p.nvw.recheckAt) (fun q i =>
    if (replicaOf q i).kind = 1 ∧ (replicaOf q i).checking = true then readHeader q (replicaOf q i) else q) p

end Sys2Proof.Machine
end

