-- ==== Sys2Proof/Machine/FaultOps.lean ====
section
/-! DEFINITION. Shared operations of faults: arrays that return, DRAM lines and stacks, engines, the firmware, power-on self-test, and
the clearing of the Scent log (R46, R189, R435 to R449). -/

namespace Sys2Proof.Machine

/-! ### Arrays (R439) -/

/-- The return of a quarantined array starts: SELF_TEST, with its data at the values of Table 4-1. -/
def startReturn (p : Pkg) (a : Nat) : Pkg :=
  if (arrOf p a).st = 1 then
    modArr p a fun x => { x with st := 2, data := {}, saved := none, runs := [], active := 0, pen := 0, served := 0 }
  else p

/-- A returning array's self-test ends (R439, steps 3 and 4). -/
def returnDone (p : Pkg) (a : Nat) (pass : Bool) (ticks : Nat) : Pkg :=
  let fails := (arrOf p a).fails
  if pass then
    let p1 := modArr p a fun x => { x with st := 0 }
    let p2 := { p1 with lsh := { p1.lsh with rates := tmod {} p1.lsh.rates a fun r => { r with bad := 0, slow := false } } }
    fillShort (log p2 codeArrayReturned a a fails ticks)
  else
    let k := fails + 1
    let p1 := log (modArr p a fun x => { x with st := 1, cause := 4, fails := k }) codeArraySelftestFail a a k ticks
    if 3 ≤ k then log (modArr p1 a fun x => { x with st := 3 }) codeArrayFailed a a k ticks else p1

/-! ### DRAM (R435) -/

/-- Requests of a pen that hold a frame, as a part of a page or with a list block in it. -/
def frameUsers (p : Pkg) (n f : Nat) : List Nat :=
  let k := max 1 (blocksPer (poolOf p n))
  (entriesOfPen p n).filter fun e => decide ((reqOf p e).st ≠ rqDone) &&
    ((reqOf p e).parts.any (fun x => decide (x.2 = .frame f)) ||
      (reqOf p e).blocks.any fun x => decide (x.2 ≠ 0 ∧ (x.2 - 1) / k = f))

/-- The bytes of a frame of a pool on its stack, never allocated again until cold reset (R435). -/
def retireFrame (p : Pkg) (n f : Nat) : Pkg :=
  let o := poolOf p n
  let b : BadDram := { pen := n, stack := frameStack o f, off := f / max 1 o.onStacks.length * o.frameBytes, len := o.frameBytes }
  modPool { p with glb := { p.glb with badDram := p.glb.badDram ++ [b] } } n fun o =>
    { o with tab := tmod {} o.tab f fun x => { x with bad := true } }

/-- An uncorrectable line: its record, to the contexts of the pen whose line it is, and what it ends (Table 14-3). -/
def dramLine (p : Pkg) (stack n : Nat) (loc : DramLoc) : Pkg :=
  let note (q : Pkg) (buf ended : Nat) : Pkg :=
    logFault q codeDramUncorrectable stack stack (n + 16 * buf) ended stInternalFault (ctxsOfPen q n)
  match loc with
  | .frame f =>
    let es := frameUsers p n f
    let p1 := retireFrame p n f
    note (forAll es (fun q e => endReq q e stInternalFault) p1) 0xFFF es.length
  | .buffer b =>
    let all := (entriesOfPen p n).length
    let keeps := ((match (penOf p n).image with | some i => i.relocs.getD b {} | none => {}) : Reloc).persist
    if keeps then penResetOp (note p b all) n codeDramUncorrectable else faultStep (note p b 0) n
  | .program => penResetOp (note p 0xFFF (entriesOfPen p n).length) n codeDramUncorrectable
  | .corrected _ => p

/-- Lines of a stack are corrected: at most one DRAM_CORRECTED record per stack in 10,000 ticks, with the lines corrected since the one
before (Table 14-8; log entry 27). -/
def dramCorrected (p : Pkg) (s lines : Nat) : Pkg :=
  let k := tget 0 p.glb.dramCorr s + lines
  let at_ := tget 0 p.glb.dramCorrAt s
  if lines = 0 ∨ (at_ ≠ 0 ∧ since p (at_ - 1) < 10000) then { p with glb := { p.glb with dramCorr := tset 0 p.glb.dramCorr s k } }
  else
    log { p with glb := { p.glb with dramCorr := tset 0 p.glb.dramCorr s 0, dramCorrAt := tset 0 p.glb.dramCorrAt s (now p + 1) } }
      codeDramCorrected s s k 0

/-- A pen has a buffer or a frame on a stack. -/
def usesStack (p : Pkg) (n s : Nat) : Bool :=
  let x := penOf p n
  x.image.isSome && (decide (s ∈ x.bufStacks) || (decide (0 < x.pool.frames ∧ s ∈ x.pool.onStacks ∧ s ∉ x.pool.lost)))

/-- A DRAM stack fails: its availability bit clears, and every pen with a buffer or frame on it is reset (R435). -/
def dramStackFail (p : Pkg) (s cause : Nat) : Pkg :=
  let ns := (enabledPens p).filter fun n => usesStack p n s
  let p1 := { p with glb := { p.glb with dramLost := tset false p.glb.dramLost s true } }
  let cs := ns.flatMap fun n => ctxsOfPen p1 n
  let p2 := logFault p1 codeDramStackFailed s s cause (sumL (ns.map fun n => 2 ^ n)) stInternalFault cs
  forAll ns (fun q n =>
    penResetOp (modPen q n fun x =>
      { x with
        bufStacks := x.bufStacks.filter fun y => decide (y ≠ s)
        pool := { x.pool with lost := if s ∈ x.pool.onStacks then x.pool.lost ++ [s] else x.pool.lost } }) n codeDramStackFailed) p2

/-- The ticks of a stack's uncorrectable lines in the last 10,000 (R435). -/
def dramRecent (p : Pkg) (s : Nat) : List Nat := (tget [] p.glb.dramLines s).filter fun t => decide (now p < t + 10000)

/-- An uncorrectable line is sampled; more than 64 of a stack in 10,000 ticks are a failure of the stack, cause 2 (Table 14-3). -/
def dramLineSampled (p : Pkg) (s n : Nat) (loc : DramLoc) : Pkg :=
  let l := dramRecent p s ++ [now p]
  let q := dramLine { p with glb := { p.glb with dramLines := tset [] p.glb.dramLines s l } } s n loc
  if 64 < l.length && dramUsable q s then dramStackFail q s 2 else q

/-! ### Engines (R189, R235) -/

/-- A placed segment of a pen reads a gather engine's channel in a quadrant (R113). -/
def boundGather (p : Pkg) (n q : Nat) : Bool :=
  match (penOf p n).image with
  | some i => (penOf p n).place.any fun e =>
      let d := i.segs.getD e.1 {}
      decide (e.2 ≠ 0 ∧ arrayQuad (e.2 - 1) = q) && ((i.chans.drop d.chanFirst).take d.chanCount).any fun c => decide (c.feeder = 2)
  | none => false

/-- A placed segment of a pen's running step does so. -/
def gathersIn (p : Pkg) (n q : Nat) : Bool := (penOf p n).step.isSome && boundGather p n q

/-- The contexts that the loss of a gather engine (kind 0) or a Sled engine (kind 1) reaches: those of the pens whose channels it serves, a
Sled engine's by the slots of its stack that they claim (R235, R436). -/
def engineCtxs (p : Pkg) (kind i : Nat) : List Nat :=
  if kind = 1 then claimCtxs p i
  else ((enabledPens p).filter fun n => boundGather p n (i / 4)).flatMap fun n => ctxsOfPen p n

/-- An optical engine fails: its bit clears, its 16 lanes lose their light, and its four ports that were up or training go DOWN
(R36, R350). -/
def opticsFail (p : Pkg) (i : Nat) : Pkg :=
  let p1 := logLoss { p with glb := { p.glb with opticsLost := tset false p.glb.opticsLost i true } } 1 i []
  let p2 := forAll (upto 16) (fun q k => modLane q (16 * i + k) fun l => { l with los := true }) p1
  forAll (upto 4) (fun q k => if 2 ≤ (portOf q (4 * i + k)).st then portDownOp q (4 * i + k) 0 else q) p2

/-- A gather engine (kind 0) or a Sled engine (kind 1) is lost: its bit clears and the loss is recorded (R436). -/
def engineLose (p : Pkg) (kind i : Nat) : Pkg :=
  logLoss { p with glb := { p.glb with engineLost := tset false p.glb.engineLost (if kind = 1 then 16 + i else i) true } } (2 + kind) i
    (engineCtxs p kind i)

/-- An engine fails: kind 0 attention gather engine, 1 Sled engine, 2 optical engine. Its bit clears, the loss is recorded, and the step
jobs that use it end; the four ports of an optical engine go DOWN (R36, R436). -/
def engineFail (p : Pkg) (kind i : Nat) : Pkg :=
  let ns := (enabledPens p).filter fun n =>
    (decide (kind = 0) && gathersIn p n (i / 4)) || (decide (kind = 1) && (stackSlots i).any fun k => streamsSlot p n k)
  if kind = 2 then opticsFail p i
  else forAll ns faultStep (engineLose p kind i)

/-! ### The firmware and the self-test (R46, R437) -/

/-- A Shepherd core fails: the recorder writes FW_FAULT with no interrupt, and the firmware stops (R437). -/
def fwFail (p : Pkg) (core code : Nat) : Pkg :=
  let link := p.glb.hostLink
  let q := recordNow { p with glb := { p.glb with hostLink := false } } codeFwFault core core code Config.fwBuild.toNat
  judgeAlert { q with glb := { q.glb with hostLink := link, fwFault := true } }

/-- The parts of a bit vector whose bit is 1. -/
def failedOf {w : Nat} (b : BitVec w) (n : Nat) : List Nat := (upto n).filter fun i => b.getLsbD i

/-- Mark parts lost. -/
def loseAll (t : Tab Bool) (l : List Nat) : Tab Bool := l.foldl (fun u i => tset false u i true) t

/-- Power-on self-test ends: failed parts clear their availability bits, and the host link returns (R44, R46; the cause in a failed
stack's record is a free value). -/
def selfTest (p : Pkg) (f : Parts) : Pkg :=
  let p1 := forAll (failedOf f.arrays 256) (fun q a => quarantineOp q a 4) p
  let p2 := forAll ((failedOf f.dram 24).filter fun s => dramUsable p1 s)
    (fun q s => dramStackFail (nextFree q) s ((Config.freeWord q.freeCtr).toNat % 3)) p1
  let p3 := forAll ((failedOf f.nv 8).filter fun n => nvUsable p2 n) nvLose (forAll (failedOf f.optics 4) opticsFail p2)
  let p4 := forAll (failedOf f.engines 24) (fun q k => if k < 16 then engineLose q 0 k else engineLose q 1 (k - 16)) p3
  let g := p4.glb
  { p4 with glb :=
    { g with
      selfTestDone := true, hostLink := p4.pins.pwrGood && p4.pins.perstN
      houndLost := loseAll g.houndLost (failedOf f.hounds 16) } }

/-! ### The Scent log (R445 to R449) -/

/-- Store queued records, up to 16 in a tick; the fuel bounds them (R445). -/
def drainLog : Nat → Pkg → Pkg
  | 0, p => p
  | k + 1, p =>
    match p.scn.queue with
    | [] => p
    | r :: t =>
      if p.scn.storedInTick < 16 then drainLog k (commitRec { p with scn := { p.scn with queue := t } } r).1 else p

/-- LOG_CLEARED records held (SCN_CLEARS). -/
def clearsHeld (s : Scn) : Nat := (s.slots.filter fun e => e.2.prot).length

/-- How far a number lies above SCN_SEQ_FIRST (R444). -/
def fromFirst (s : Scn) (n : Nat) : Nat := (n + 2 ^ 32 - seqFirst s) % 2 ^ 32

/-- What refuses a clear up to a number (R449, steps 2 and 3). -/
def clearBar (s : Scn) (upto_ : Nat) : Option Nat :=
  if 8192 ≤ clearsHeld s ∨ s.slots.isEmpty ∨ fromFirst s s.seqLast < fromFirst s upto_ then some stLengthInvalid else none

/-- A clear acts (R449, steps 4 to 6). -/
def clearLog (p : Pkg) (upto_ manager : Nat) : Pkg :=
  let s := p.scn
  let old (r : Rec) : Bool := !r.prot && decide (fromFirst s r.seq ≤ fromFirst s upto_)
  let kept := s.slots.filter fun e => !old e.2
  let p1 := { p with scn := { s with slots := kept } }
  let (p2, _) := logRec p1 true codeLogCleared manager upto_ (s.slots.length - kept.length) s.dropped
  { p2 with scn := { p2.scn with dropped := 0, overwritten := 0, clearResult := stOk } }

/-- A write of SCN_CLEAR_CMD.GO (R449). -/
def clearCmd (p : Pkg) : Pkg :=
  let refuse (st : Nat) : Pkg := { p with scn := { p.scn with clearResult := st } }
  match p.scn.auth with
  | none => refuse stPermission
  | some a =>
    match clearBar p.scn a.upto with
    | some st => refuse st
    | none => let q := clearLog p a.upto a.manager; { q with scn := { q.scn with auth := none } }

/-- A write of SCN_CTRL (R446). -/
def scnCtrl (p : Pkg) (v : Nat) : Pkg :=
  let old := p.scn.policy
  let p1 := { p with scn := { p.scn with policy := v % 2, irqSev := bitsOf v 10 8 } }
  if v % 2 = old then p1 else log p1 codeLogPolicyChanged 0 old (v % 2) 0

end Sys2Proof.Machine
end

