-- ==== Sys2Proof/Machine/LeashFam.lean ====
section
/-! DEFINITION. Meanings of the Leash commands and of HINT (R390 to R414). -/

namespace Sys2Proof.Machine

/-- LEASH_TICK: the update of a tick boundary from the previous tick's measurement (R391, R406, R407). -/
def execLeashTick (m : Measure) (s : State) : Host.Outcome State Fault Refusal := act (powered s.pkg) (fun p => leashTick p m) s

/-- A write of LSH_CAP_NEXT_CMD.COMMIT: ignored while a lease is held (R394, R395). -/
def capCommit (p : Pkg) : Pkg :=
  if p.mgt.lease then p
  else match capBar p.lsh.nextVal with
    | some _ => modLsh p fun l => { l with refusedSticky := true }
    | none =>
      takeCap { p with mgt := { p.mgt with pending := p.mgt.pending.filter fun c => decide (c.op ≠ 5) } } p.lsh.nextVal p.lsh.nextTick

/-- LSH_CAP_NEXT_COMMIT (R394, R395). -/
def execLshCapNextCommit (fn : Nat) (s : State) : Host.Outcome State Fault Refusal :=
  act (powered s.pkg) (fun p => pfWrite p fn 0x2000038 capCommit) s

/-- CAP_SOFT_APPLIED (R395, R396). -/
def execCapSoftApplied (s : State) : Host.Outcome State Fault Refusal :=
  act (powered s.pkg) (fun p => match dueCap p 0 with | some c => applyCap p c | none => p) s

/-- CAP_HARD_APPLIED (R395, R397). -/
def execCapHardApplied (s : State) : Host.Outcome State Fault Refusal :=
  act (powered s.pkg) (fun p => match dueCap p 1 with | some c => applyCap p c | none => p) s

/-- CAP_RELEASE_APPLIED (R395, R396). -/
def execCapReleaseApplied (s : State) : Host.Outcome State Fault Refusal :=
  act (powered s.pkg) (fun p => match dueCap p 2 with | some c => applyCap p c | none => p) s

/-- P has lain above a hard or emergency target for 1,000 ticks since that target took effect (R398). -/
def overHard (p : Pkg) : Bool :=
  let last := p.lsh.hist.drop (p.lsh.hist.length - 1000)
  match hardTarget p with
  | some h => decide (last.length = 1000 ∧ p.lsh.hardAt + 1000 ≤ now p) && last.all fun x => decide (h < 10 * x.power)
  | none => false

/-- POWER_EMERGENCY: condition 0 current, 1 mean current, 2 voltage, 3 over a hard or emergency target for 1,000 ticks (R398). -/
def execPowerEmergency (cond amps : Nat) (s : State) : Host.Outcome State Fault Refusal :=
  act (powered s.pkg && decide (cond < 3 ∨ (cond = 3 ∧ overHard s.pkg = true)))
    (fun p => emergencyOp p codePowerEmergency 0 cond amps 0 1 fun l => { l with powerEm := some (now p) }) s

/-- EMERGENCY_END (R398, R410). -/
def execEmergencyEnd (s : State) : Host.Outcome State Fault Refusal := act (powered s.pkg && emergency s.pkg) emergencyEnds s

/-- THROTTLE_START (R409). -/
def execThrottleStart (array tj : Nat) (s : State) : Host.Outcome State Fault Refusal :=
  act (powered s.pkg && decide (array < 256 ∧ s.pkg.lsh.throttle ≤ tj) && !(tget false s.pkg.lsh.throttling (arrayQuad array)))
    (fun p =>
      let q := arrayQuad array
      log (modLsh p fun l => { l with
        throttling := tset false l.throttling q true, throttleSticky := true, throttleAt := tset 0 l.throttleAt q (now p) }) codeThrottleStart q q array tj) s

/-- THROTTLE_STEP (R409). -/
def execThrottleStep (quadrant : Nat) (tjs : List Nat) (s : State) : Host.Outcome State Fault Refusal :=
  act (powered s.pkg && tget false s.pkg.lsh.throttling quadrant) (fun p => throttleStep p quadrant tjs) s

/-- THERMAL_EMERGENCY: kind 0 array, 1 die, 2 stack (R410). -/
def execThermalEmergency (kind index temp : Nat) (s : State) : Host.Outcome State Fault Refusal :=
  act (powered s.pkg && decide (kind ≤ 2 ∧ (if kind = 2 then 100 else 115) ≤ temp))
    (fun p => emergencyOp p codeThermalEmergency kind kind index temp 2 fun l => { l with thermalEm := some (now p) }) s

/-- THERMTRIP: the latch falls, and every array and stack stops until VIN6 is removed. Comparator and latch stand in the auxiliary domain, so
a die at 120 °C trips below the lockout of VIN6 as well (R410, R478). -/
def execThermtrip (die : Nat) (s : State) : Host.Outcome State Fault Refusal :=
  act s.pkg.pins.thermtripN
    (fun p => modLsh (modPins p fun x => { x with thermtripN := false }) fun l => { l with tripDie := some die }) s

/-- BEAT_RATE_CHECK (R411, R412). -/
def execBeatRateCheck (samples : List BeatSample) (s : State) : Host.Outcome State Fault Refusal :=
  actS (powered s.pkg && decide (1000 ≤ since s.pkg s.pkg.lsh.rateAt)) (fun _ => overridden s fun p => judgeRates p samples) s

/-- HINT: the next descriptor of a ring (R404). -/
def execHint (ctx : Nat) (s : State) : Host.Outcome State Fault Refusal := act true (fun p => evalDesc p (.ring ctx) 6 hintOp) s

end Sys2Proof.Machine
end

