-- ==== Sys2Proof/Machine/PenWr.lean ====
section
/-! DEFINITION. Shared operations of the PEN_ registers: control, budgets, the group table, activation and the prediction (R173 to
R176, R182, R288, R412). -/

namespace Sys2Proof.Machine

/-! ### Control and budgets (R174, R175) -/

/-- The offset of a pen's register block, and of its group table (R173). -/
def penBase (n : Nat) : Nat := 0x200000 + 0x1000 * n
def groupBase (n : Nat) : Nat := 0x210000 + 0x4000 * n

/-- A refused write of a pen register (R174). -/
def penRefuse (p : Pkg) (n off v : Nat) : Pkg :=
  log (modPen p n fun x => { x with budgetRefused := true }) codeBudgetRefused n n off v

/-- Usable arrays of the free pool. -/
def poolSize (p : Pkg) : Nat := sumL ((upto 4).map fun q => (freeIn p q).length)

/-- Enable a pen: it becomes EMPTY and takes its array set (R174). -/
def enablePen (p : Pkg) (n : Nat) (compat : Bool) : Pkg :=
  fillSet (setPenState (modPen p n fun x => { x with enable := true, compat := compat }) n penEmpty) n 256

/-- Disable a pen: its set returns to the free pool, and its KVP_ registers return to their reset values (R174, R343). -/
def disablePen (p : Pkg) (n : Nat) (compat : Bool) : Pkg :=
  let p1 := freeSet (penTo p n penDisabled) n
  fillShort (modPen p1 n fun x => { x with enable := false, compat := compat, pool := {}, replace := false })

/-- A write of PEN_CTRL (R174). -/
def penCtrlWrite (p : Pkg) (n v : Nat) : Pkg :=
  let x := penOf p n
  let en := bitOf v 0
  let compat := bitOf v 1
  if x.st ≠ penDisabled ∧ x.st ≠ penEmpty then
    if en = x.enable ∧ compat = x.compat then p else penRefuse p n (penBase n) v
  else if en && !x.enable then
    if poolSize p < x.arrays ∨ budgetsFit p n x = false then penRefuse p n (penBase n) v else enablePen p n compat
  else if !en && x.enable then disablePen p n compat
  else modPen p n fun y => { y with compat := compat }

/-- A budget or group register of a pen's block: its field's largest legal value and its smallest (Table 5-16). -/
def budgetRange (off : Nat) : Option (Nat × Nat × Nat) :=
  match off with
  | 0x008 => some (511, 0, 256)
  | 0x00C => some (1023, 0, 512)
  | 0x010 => some (0xFFFFF, 0, 884736)
  | 0x014 => some (511, 0, 256)
  | 0x018 => some (8191, 1, 4096)
  | _ => none

/-- A pen with a budget register changed. -/
def withBudget (x : Pen) (off v : Nat) : Pen :=
  match off with
  | 0x008 => { x with arrays := v }
  | 0x00C => { x with stageMib := v }
  | 0x010 => { x with dramMib := v }
  | 0x014 => { x with nvShards := v }
  | 0x018 => { x with groupSize := v }
  | _ => x

/-- A new array budget of an enabled pen: the set returns to the pool and a new one is chosen (R174). -/
def rebudget (p : Pkg) (n v : Nat) : Pkg :=
  fillShort (fillSet (freeSet (modPen p n fun x => { x with arrays := v }) n) n 256)

/-- A write of a budget register: a sum over enabled pens beyond its limit is refused (R174), whatever the value; any other value
outside the field's range is ignored (R11). -/
def budgetWrite (p : Pkg) (n off v : Nat) : Pkg :=
  match budgetRange off with
  | none => p
  | some (mask, lo, hi) =>
    let x := penOf p n
    let w := v % (mask + 1)
    if x.st ≠ penDisabled ∧ x.st ≠ penEmpty then penRefuse p n (penBase n + off) v
    else if x.enable && !budgetsFit p n (withBudget x off w) then penRefuse p n (penBase n + off) v
    else if w < lo ∨ hi < w then p
    else if x.enable && decide (off = 0x008) then
      if poolSize p + ((setOf p n).filter (arrayUsable p)).length < w then penRefuse p n (penBase n + off) v else rebudget p n w
    else modPen p n fun y => withBudget y off w

/-- A write of a group table entry (R173, R174). -/
def groupEntryWrite (p : Pkg) (n m v : Nat) : Pkg :=
  let x := penOf p n
  if x.st ≠ penDisabled ∧ x.st ≠ penEmpty then penRefuse p n (groupBase n + 4 * m) v
  else modPen p n fun y => { y with group := tset 0 y.group m (v % 4096 + bitN (bitOf v 31) * 2 ^ 31) }

/-- A write of a budget or group register, or of a group table entry, at an offset of BAR0. -/
def penRegWrite (p : Pkg) (n off v : Nat) : Pkg :=
  if groupBase n ≤ off ∧ off < groupBase n + 0x4000 ∧ off % 4 = 0 then groupEntryWrite p n ((off - groupBase n) / 4) v
  else if penBase n ≤ off ∧ off < penBase n + 0x1000 then budgetWrite p n (off - penBase n) v
  else p

/-! ### Activation (R176, R288) -/

/-- A BOUND pen may become ACTIVE (R176). -/
def mayActivate (p : Pkg) (n : Nat) : Bool :=
  decide (n < 16 ∧ (penOf p n).st = penBound) && partsHold p n && groupHolds p n

/-- A pen becomes ACTIVE: its group's step count starts again, and the decisions that waited in ADMITTING are made in the order in
which their ADMITs were taken (R176, R196, R288). Records and markers that peers sent before are kept for their exchange (R200). -/
def activate (p : Pkg) (n : Nat) : Pkg :=
  let p1 := penTo p n penActive
  let p2 := modPen p1 n fun x => { x with groupStep := 0, countEpoch := epochOf p1, props := [] }
  let es := (entriesOfPen p2 n).filter fun e => decide ((reqOf p2 e).st = rqAdmitting)
  forAll (sortBy (fun a b => decide (since p2 (reqOf p2 b).takenAt < since p2 (reqOf p2 a).takenAt)) es) decideAdmit p2

/-- Judge a pen at the end of a tick (R176, R247): all but the rise of a BOUND pen, which is PEN_ACTIVATE. A pen that stops being
UNAVAILABLE with every condition holding is ACTIVE at once; with one of the others failing it is BOUND. -/
def judgePen (p : Pkg) (n : Nat) : Pkg :=
  let st := (penOf p n).st
  if st = penBound ∨ st = penActive ∨ st = penUnavail then
    if !partsHold p n then penTo p n penUnavail
    else if st = penUnavail then (if groupHolds p n then activate p n else penTo p n penBound)
    else if st = penActive ∧ groupHolds p n = false then penTo p n penBound
    else p
  else p

/-- Judge every enabled pen. -/
def judgePens (p : Pkg) : Pkg := forAll (enabledPens p) judgePen p

/-! ### The prediction (R182, R412) -/

/-- Refresh one pen's prediction: for the placement in force, or for the next one where the pen's arrays have changed (R182). -/
def refreshOne (p : Pkg) (n : Nat) : Pkg := if (penOf p n).replace then predNext p n else predHere p n

end Sys2Proof.Machine
end

