-- ==== Sys2Proof/Machine/HoundOps.lean ====
section
/-! DEFINITION. Shared operations of the Hound cores: registers, binding, mailboxes, rings, fabric commands, waiting and faults
(R415 to R430). -/

namespace Sys2Proof.Machine

/-! ### Registers (R416, Table 13-2) -/

/-- The offset of a register in the binding block of a context. -/
def hndOff (c off : Nat) : Nat := 0x2101000 + 0x40 * c + off

/-- A field that ignores writes while the binding is not UNBOUND. -/
def whileUnbound (p : Pkg) (c : Nat) (f : HBind → HBind) : Pkg := if (bindOf p c).st = 0 then modBind p c f else p

/-- A write of HND_CTX_CTRL: PEER_EN at any time, the rest while UNBOUND. -/
def hndCtrlWrite (p : Pkg) (c v : Nat) : Pkg :=
  whileUnbound (modBind p c fun x => { x with peerEn := bitOf v 16 }) c
    fun x => { x with cores := bitsOf v 15 0, peerMib := bitsOf v 31 24 }

/-- A write of a register of a binding block other than HND_CTX_CMD (R416). -/
def hndRegWrite (p : Pkg) (fn c off v : Nat) : Pkg :=
  match off with
  | 0x00 => if fn = 0 then hndCtrlWrite p c v else noteNotAllowed p fn (hndOff c off) 4
  | 0x04 => if bitOf v 25 then modBind p c fun x => { x with faultSticky := false } else p
  | 0x08 => whileUnbound p c fun x => { x with imageAddr := v }
  | 0x10 => whileUnbound p c fun x => { x with imageBytes := v }
  | 0x14 => if fn = 0 then whileUnbound p c fun x => { x with memMib := bitsOf v 10 0 } else noteNotAllowed p fn (hndOff c off) 4
  | 0x18 => whileUnbound p c fun x => { x with entry := v }
  | 0x20 => whileUnbound p c fun x => { x with hostAddr := v }
  | 0x28 => whileUnbound p c fun x => { x with hostMib := bitsOf v 19 0 }
  | _ => p

/-! ### Binding (R417, R418) -/

/-- Frames that a program memory takes. -/
def memFrames (p : Pkg) (n mib : Nat) : Nat := ceilDiv (mib * 1048576) (poolOf p n).frameBytes

/-- Another context's binding holds one of the cores. -/
def coresTaken (p : Pkg) (c m : Nat) : Bool :=
  (upto 16).any fun k => bitOf m k && match coreCtx p k with | some d => decide (d ≠ c) | none => false

/-- Checks 1 to 7 of R417. -/
def bindBar (p : Pkg) (c : Nat) : Option Nat :=
  let b := bindOf p c
  let x := ctxOf p c
  let st := (penOf p x.pen).st
  firstFail
    [need (decide (x.st = ctxActive ∧ b.st = 0)) stPermission,
     need (decide (st = penBound ∨ st = penActive)) stPenUnavailable,
     need (decide (b.cores ≠ 0) && (upto 16).all fun k => !bitOf b.cores k || houndUsable p k) stLengthInvalid,
     need (!coresTaken p c b.cores) stPermission,
     need (decide (1 ≤ b.memMib ∧ b.memMib ≤ 1024 ∧ 1 ≤ b.imageBytes ∧ b.imageBytes ≤ b.memMib * 1048576 ∧
       b.entry < b.imageBytes ∧ b.peerMib ≤ b.memMib ∧ b.hostMib ≠ 0xFFFFF)) stLengthInvalid,
     need (decide (b.imageAddr % 4096 = 0 ∧ b.hostAddr % 4096 = 0 ∧ b.entry % 2 = 0)) stAlignmentInvalid,
     need (decide (memFrames p x.pen b.memMib ≤ freeAdmit (poolOf p x.pen))) stAdmitDeniedMem]

/-- Take frames of a pool for program memory, the lowest-numbered ones (log entry 13). -/
def takeFrames (o : Pool) (n : Nat) : List Nat × Pool :=
  let fs := ((upto o.frames).filter (frameFree o)).take n
  (fs, { o with tab := fs.foldl (fun t f => tset {} t f { busy := true, refs := 1 }) o.tab })

/-- RESULT of a context's last command. -/
def setResult (p : Pkg) (c st : Nat) : Pkg := modBind p c fun x => { x with result := st }

/-- A write of BIND (R417): the checks, the frames, and the read of the image. -/
def bindOp (p : Pkg) (c : Nat) : Pkg :=
  match bindBar p c with
  | some st => setResult p c st
  | none =>
    let b := bindOf p c
    let n := (ctxOf p c).pen
    let (fs, o) := takeFrames (poolOf p n) (memFrames p n b.memMib)
    let p1 := modBind (modPool p n fun _ => o) c fun x => { x with st := 1, pen := n, frames := fs }
    send p1 (.hostRead (ctxOf p c).fn b.imageAddr b.imageBytes)

/-- The virtual addresses of program memory, the host window, the mailbox pages and the binding page (Table 13-3). -/
def progBase : Nat := 0x100000000
def hostBase : Nat := 0x1000000000
def pageBase : Nat := 0x2000000000
def bindPage : Nat := 0x2000100000

/-- A hart as it starts: at ENTRY, with its index in a0 and the number of harts in a1 (R417); its other registers were cleared (R418). -/
def hartStart (entry j k : Nat) : Hart := { index := j, regs := [(10, some j), (11, some k), (96, some entry)] }

/-- The image has been copied, or the host refused a read of it (R417). -/
def imageLoaded (p : Pkg) (c : Nat) (image : Option Bytes) : Pkg :=
  match image with
  | none => setResult (endBinding p c) c stPermission
  | some b =>
    let x := bindOf p c
    if b.length = x.imageBytes then
      let q := modBind p c fun y => { y with st := 2, result := stOk, mem := tsetList 0 [] 0 b }
      let ks := coresOf x
      let started := forAll (ks.zip (upto ks.length)) (fun r e => modHart r e.1 fun _ => hartStart (progBase + x.entry) e.2 ks.length) q
      log started codeHoundBound c c x.cores 0
    else p

/-- A CSR of a core: time, 0xC01, reads TICK_COUNT (Table 13-1). -/
def csrRead (p : Pkg) (k n : Nat) : Nat := if n = 0xC01 then now p else hartReg (tget {} p.hnd.harts k) (4096 + n)

/-- A range of addresses, less progBase, lies in program memory, in the host window, or in the pages of a binding (Table 13-3). -/
def inProg (b : HBind) (a n : Nat) : Bool := decide (a + n ≤ b.memMib * 1048576)
def inHost (b : HBind) (a n : Nat) : Bool := decide (hostBase ≤ a + progBase ∧ a + progBase + n ≤ hostBase + b.hostMib * 1048576)
def inPages (b : HBind) (a n : Nat) : Bool :=
  decide (n = 4 ∨ n = 8) && (decide (pageBase ≤ a + progBase ∧ a + progBase + n ≤ pageBase + 0x1000 * (coresOf b).length) ||
    decide (bindPage ≤ a + progBase ∧ a + progBase + n ≤ bindPage + 0x1000))

/-- Every access lies in a mapped range. -/
def inMap (b : HBind) (l : Stores) : Bool := l.all fun
  | .store a d => inProg b a d.length || inHost b a d.length || inPages b a d.length
  | .load a n => inProg b a n || inHost b a n || inPages b a n

/-- An access outside the map raises a page fault of its kind, 13 for a load and 15 for a store, which makes the binding FAULTED (R419,
R429); its PC is the program's, a free value. -/
def pageFault (p : Pkg) (c k code a : Nat) : Pkg :=
  nextFree (faultBind p c k 1 code ((Config.freeReg (p.freeCtr + 1) 1).toNat % 2 ^ 64) ((a + progBase) % 2 ^ 64))

/-- What a program reads of a mailbox page: one 4-byte register or half (Table 13-4); write-only ones read as zero. -/
def mailWord (x : HCore) (off : Nat) : Nat :=
  match off with
  | 0x000 => x.cmdBase % 2 ^ 32
  | 0x004 => x.cmdBase / 2 ^ 32
  | 0x008 => x.reply.base % 2 ^ 32
  | 0x00C => x.reply.base / 2 ^ 32
  | 0x010 => x.cmdLog + 256 * x.reply.log2
  | 0x018 => x.cmdHead
  | 0x020 => x.reply.tail + 65536 * bitN x.reply.phase
  | _ => 0

/-- What a program reads of the binding page (Table 13-4). -/
def bindPageWord (b : HBind) (off : Nat) : Nat :=
  match off with
  | 0x000 => b.tq.base % 2 ^ 32
  | 0x004 => b.tq.base / 2 ^ 32
  | 0x008 => b.tq.log2
  | 0x010 => b.tq.tail + 65536 * bitN b.tq.phase
  | 0x040 => b.fqBase % 2 ^ 32
  | 0x044 => b.fqBase / 2 ^ 32
  | 0x048 => b.fqLog
  | 0x050 => b.fqHead
  | 0x080 => b.notify % 2 ^ 32
  | 0x084 => b.notify / 2 ^ 32
  | _ => 0

/-- The 4-byte register of the pages at an address, less progBase: hart h's mailbox page, or the binding page. -/
def pageWord (p : Pkg) (c a : Nat) : Nat :=
  let v := a + progBase
  if bindPage ≤ v then bindPageWord (bindOf p c) (v - bindPage)
  else mailWord (hcoreOf p ((coresOf (bindOf p c)).getD ((v - pageBase) / 0x1000) 16)) ((v - pageBase) % 0x1000)

/-- A load returns a value, which the hart holds for the model's reader. -/
def loadedBy (p : Pkg) (k : Nat) (b : Bytes) : Pkg := modHart p k fun h => { h with loaded := h.loaded ++ [b] }

/-- The binding whose program runs on a core: RUNNING, and the hart has not exited and does not wait (R428). -/
def runningOn (p : Pkg) (k : Nat) : Option Nat :=
  match coreCtx p k with
  | some c => if decide ((bindOf p c).st = 2) && !(hcoreOf p k).exited && !(hcoreOf p k).waiting then some c else none
  | none => none

/-- A binding of which some hart runs. -/
def programRuns (p : Pkg) (c : Nat) : Bool := (upto 16).any fun k => decide (runningOn p k = some c)

/-- The hart that an event of the program comes from where its row names none: the lowest-numbered core that runs it. -/
def runner (p : Pkg) (c : Nat) : Nat := ((upto 16).find? fun k => decide (runningOn p k = some c)).getD 0

/-! ### Mailboxes (R421 to R425) -/

/-- A base value of a ring: a multiple of 64 (R421). -/
def ringBase (v old : Nat) : Nat := if v % 64 = 0 then v else old

/-- A size field between two limits, other values reserved (R11). -/
def ringLog (v lo hi old : Nat) : Nat := if lo ≤ v ∧ v ≤ hi then v else old

/-- A record ring is empty. -/
def ringEmpty (r : HRing) : Bool := decide (r.used = 0)

/-- A 64-bit base written whole, or as one 4-byte half at offset 0 or 4. -/
def baseValue (old off size v : Nat) : Nat :=
  if size = 8 then v else if off % 8 = 0 then old / 2 ^ 32 * 2 ^ 32 + v % 2 ^ 32 else v % 2 ^ 32 * 2 ^ 32 + old % 2 ^ 32

/-- HND_MB_SIZES (Table 13-4). -/
def mbSizes (x : HCore) (v : Nat) : HCore :=
  let r := x.reply
  { x with
    cmdLog := if x.cmdHead = x.cmdTail then ringLog (bitsOf v 4 0) 6 12 x.cmdLog else x.cmdLog
    reply := if ringEmpty r then { r with log2 := ringLog (bitsOf v 12 8) 6 12 r.log2 } else r }

/-- The bases and sizes of a mailbox page (Table 13-4): they take effect while their ring is empty. -/
def mailboxWrite (p : Pkg) (k off size v : Nat) : Pkg :=
  modHcore p k fun x =>
    let r := x.reply
    if off = 0x000 ∨ (off = 0x004 ∧ size = 4) then
      (if x.cmdHead = x.cmdTail then { x with cmdBase := ringBase (baseValue x.cmdBase off size v) x.cmdBase } else x)
    else if off = 0x008 ∨ (off = 0x00C ∧ size = 4) then
      (if ringEmpty r then { x with reply := { r with base := ringBase (baseValue r.base off size v) r.base } } else x)
    else if off = 0x010 then mbSizes x v
    else x

/-- The bases and sizes of the binding page (Table 13-4). -/
def bindPageWrite (p : Pkg) (c off size v : Nat) : Pkg :=
  modBind p c fun x =>
    let fqEmpty := decide (x.fqHead = x.fqTail)
    if off = 0x000 ∨ (off = 0x004 ∧ size = 4) then
      (if ringEmpty x.tq then { x with tq := { x.tq with base := ringBase (baseValue x.tq.base off size v) x.tq.base } } else x)
    else if off = 0x008 then
      (if ringEmpty x.tq then { x with tq := { x.tq with log2 := ringLog (bitsOf v 4 0) 8 16 x.tq.log2 } } else x)
    else if off = 0x040 ∨ (off = 0x044 ∧ size = 4) then
      (if fqEmpty then { x with fqBase := ringBase (baseValue x.fqBase off size v) x.fqBase } else x)
    else if off = 0x048 then (if fqEmpty then { x with fqLog := ringLog (bitsOf v 4 0) 6 10 x.fqLog } else x)
    else x

/-- The command and reply rings of a mailbox lie inside program memory. -/
def mailInside (p : Pkg) (k c : Nat) : Bool :=
  let x := hcoreOf p k
  ringInside (bindOf p c) x.cmdBase 64 (2 ^ x.cmdLog) && ringInside (bindOf p c) x.reply.base 32 (2 ^ x.reply.log2)

/-- A reply slot is free. -/
def replyRoom (r : HRing) : Bool := decide (r.used + r.reserved < 2 ^ r.log2)

/-- Take one mailbox command: it reserves its reply slot, and an ADMIT its END slot (R422, R423). -/
def takeCmd (p : Pkg) (k c : Nat) (b : Bytes) : Pkg :=
  let p1 := modHcore p k fun x =>
    { x with
      cmdHead := (x.cmdHead + 1) % 2 ^ x.cmdLog
      live := x.live ++ [{ descOf (k + 1) x.cmdHead b with num := (ctxOf p c).descNum }]
      reply := { x.reply with reserved := x.reply.reserved + 1 } }
  modCtx p1 c fun y => { y with descNum := y.descNum + 1, reserved := y.reserved + if fieldAt b 0 1 = 1 then 1 else 0 }

/-- Take the commands of a mailbox in ring order until one blocks; the fuel bounds them (R422, R423). -/
def takeMail (p : Pkg) (k c : Nat) : Nat → Pkg
  | 0 => p
  | n + 1 =>
    let x := hcoreOf p k
    if x.cmdHead = x.cmdTail then p
    else
      let b := tgetList 0 (bindOf p c).mem (x.cmdBase + 64 * x.cmdHead) 64
      if !replyRoom x.reply then p
      else if fieldAt b 0 1 = 1 ∧ cqFree (ctxOf p c) = 0 then stallCtx p c
      else takeMail (takeCmd p k c b) k c n

/-- Fetch up to 32 commands of a mailbox, once a tick, and take what may be taken of them (R264, R422). A ring outside program memory is a
fault at this first use (Table 13-6). -/
def pumpMail (p : Pkg) (k : Nat) : Pkg :=
  match coreCtx p k with
  | some c =>
    let x := hcoreOf p k
    if (bindOf p c).st = 2 ∧ (ctxOf p c).st = ctxActive ∧ p.glb.fwFault = false ∧ x.cmdHead ≠ x.cmdTail ∧ x.fetchAt ≠ now p + 1 then
      (if mailInside p k c then judgeStall (takeMail (modHcore p k fun y => { y with fetchAt := now p + 1 }) k c 32) c
       else ringFault p c k)
    else p
  | none => p

/-- HND_MB_CMD_TAIL (R422). An index outside the ring is ignored. -/
def mailDoorbell (p : Pkg) (k v : Nat) : Pkg :=
  let i := v % 2 ^ 16
  if 2 ^ (hcoreOf p k).cmdLog ≤ i then p else pumpMail (modHcore p k fun x => { x with cmdTail := i }) k

/-- A head of a record ring is written: it frees the records consumed; other values are ignored (R421). -/
def ringConsume (r : HRing) (v : Nat) : HRing :=
  match consumed (2 ^ r.log2) r.head r.used (v % 2 ^ 16) with
  | some n => { r with head := v % 2 ^ 16, used := r.used - n }
  | none => r

/-- A 4-byte write of a mailbox page: the halves of the bases, the sizes, the doorbell and the reply head (R421). -/
def mailWordWrite (p : Pkg) (k off v : Nat) : Pkg :=
  if off = 0x014 then mailDoorbell p k v
  else if off = 0x01C then modHcore p k fun x => { x with reply := ringConsume x.reply v }
  else mailboxWrite p k off 4 v

/-- The doorbell of the fabric command ring: an index outside it is ignored (R427). -/
def fqTailWrite (p : Pkg) (c v : Nat) : Pkg :=
  modBind p c fun x => if v % 2 ^ 16 < 2 ^ x.fqLog then { x with fqTail := v % 2 ^ 16 } else x

/-- HND_TQ_HEAD (R424). -/
def tqHeadWrite (p : Pkg) (c v : Nat) : Pkg := judgeTq (modBind p c fun x => { x with tq := ringConsume x.tq v }) c

/-- A 4-byte write of the binding page (R421). -/
def bindWordWrite (p : Pkg) (c off v : Nat) : Pkg :=
  if off = 0x00C then tqHeadWrite p c v
  else if off = 0x04C then fqTailWrite p c v
  else bindPageWrite p c off 4 v

/-- A write of a base or a size by the program, of 4 or 8 bytes: offsets below 0x1000 name the mailbox page of the core, 0x10_0000 and above
the binding page. One of 8 bytes that starts at no base writes the two registers it covers, the lower first (R419, R421). -/
def ringBaseWrite (p : Pkg) (k c off size v : Nat) : Pkg :=
  let r := off - 0x100000
  if off < 0x1000 then
    (if size = 4 then mailWordWrite p k off v
     else if off = 0x000 ∨ off = 0x008 then mailboxWrite p k off 8 v
     else mailWordWrite (mailWordWrite p k off (v % 2 ^ 32)) k (off + 4) (v / 2 ^ 32))
  else if 0x100000 ≤ off then
    (if size = 4 then bindWordWrite p c r v
     else if r = 0x000 ∨ r = 0x040 then bindPageWrite p c r 8 v
     else bindWordWrite (bindWordWrite p c r (v % 2 ^ 32)) c (r + 4) (v / 2 ^ 32))
  else p

/-- A store of a program to the pages: to hart h's mailbox page or to the binding page (R419, R421). -/
def pageStore (p : Pkg) (c a : Nat) (d : Bytes) : Pkg :=
  let v := a + progBase
  if bindPage ≤ v then ringBaseWrite p 0 c (0x100000 + (v - bindPage)) d.length (leNat d)
  else ringBaseWrite p ((coresOf (bindOf p c)).getD ((v - pageBase) / 0x1000) 16) c ((v - pageBase) % 0x1000) d.length (leNat d)

/-- One data access of hart k: a store changes program memory or a register of the pages; an access of the host window is a PCIe access of
the context's function (R420); a load of the pages reads their registers (R419, R421). A binding that has faulted makes no more. -/
def progAccess (c k : Nat) (p : Pkg) (x : Access) : Pkg :=
  let b := bindOf p c
  let fn := (ctxOf p c).fn
  if b.st ≠ 2 then p
  else match x with
    | .store a d =>
      if inProg b a d.length then modBind p c fun y => { y with mem := tsetList 0 y.mem a d }
      else if inHost b a d.length then send p (.hostWrite fn (b.hostAddr + (a + progBase - hostBase)) d)
      else if inPages b a d.length then pageStore p c a d
      else pageFault p c k 15 a
    | .load a n =>
      if inHost b a n then send p (.hostRead fn (b.hostAddr + (a + progBase - hostBase)) n)
      else if inProg b a n then loadedBy p k (tgetList 0 b.mem a n)
      else if inPages b a n then
        loadedBy p k (toLE n (pageWord p c a + if n = 8 then 2 ^ 32 * pageWord p c (a + 4) else 0))
      else pageFault p c k 13 a

/-- What the program has accessed since its last event (log entry 23); the registers of the hart are no longer known. -/
def progStores (p : Pkg) (c k : Nat) (l : Stores) : Pkg :=
  nextFree (forAll l (progAccess c k) (modHart p k fun h => { h with regs := [], gen := p.freeCtr + 1, loaded := [] }))

/-! ### Fabric commands (R426, R427, Table 13-5) -/

/-- The command at the head of the fabric command ring. -/
def fqCmd (b : HBind) : Bytes := tgetList 0 b.mem (b.fqBase + 64 * b.fqHead) 64

/-- OP of a fabric command. -/
def fqOp (cmd : Bytes) : Nat := fieldAt cmd 0 1 % 8

/-- Bytes that a LOAD or a STORE moves; 8 for an ATOMIC that returns its old value. -/
def fqLen (cmd : Bytes) : Nat := 8 * (fieldAt cmd 1 1 % 32 + 1)

/-- The address of a fabric command names the exposed regions or the notification words of this package or of a member of the pen's
group table (R427). -/
def fqReach (p : Pkg) (c : Nat) (a : Nat) : Bool :=
  let chip := a / 2 ^ 52
  decide (bitsOf a 51 48 = 4 ∧ (bitsOf a 47 44 = 8 ∨ bitsOf a 47 44 = 9)) &&
    (decide (chip = chipNo p) || (members (penOf p (bindOf p c).pen)).any fun m => decide (m.2 = chip))

/-- No reserved field or encoding in bytes 0 to 15 of a fabric command (Table 13-5). -/
def fqLegal (cmd : Bytes) : Bool :=
  let b0 := fieldAt cmd 0 1
  let b1 := fieldAt cmd 1 1
  let op := fqOp cmd
  let atop := bitsOf b0 7 5
  decide (1 ≤ op ∧ op ≤ 4) && (!bitOf b0 3 || decide (op = 2 ∨ op = 3)) && (!bitOf b0 4 || decide (op = 3)) &&
    (if op = 3 then decide (1 ≤ atop ∧ atop ≤ 5) else decide (atop = 0)) && (decide (op = 1 ∨ op = 2) || decide (b1 % 32 = 0)) &&
    (!bitOf b1 5 || (decide (op = 3) && decide (atop = 2 ∨ atop = 3))) && decide (b1 < 64) && decide (fieldAt cmd 3 1 < 2) &&
    zeroAt cmd 4 4 && (decide (op ≠ 4) || zeroAt cmd 8 8)

/-- What keeps a fabric command from being sent: the source's own checks of R368 on the request, then the fields that R368 does not
name by ascending byte offset (R17), DATA_OFF before bytes 48 to 63, and R427. -/
def fqBar (p : Pkg) (c : Nat) (cmd : Bytes) : Option Nat :=
  let a := fieldAt cmd 8 8
  let op := fqOp cmd
  let moves := decide (op = 1 ∨ op = 2)
  let d := fieldAt cmd 16 8
  firstFail
    [need (decide (op = 4) || (decide (a % 8 = 0) && (!moves || decide (a % 256 + fqLen cmd ≤ 256)))) stAlignmentInvalid,
     need (fqLegal cmd) stFormatInvalid,
     need (!moves || decide (d % 8 = 0)) stAlignmentInvalid,
     need (!moves || decide (d + fqLen cmd ≤ (bindOf p c).memMib * 1048576)) stLengthInvalid,
     need (zeroAt cmd 48 16) stFormatInvalid,
     need (decide (op = 4) || fqReach p c a) stPermission]

/-- The request that a fabric command sends (R427). -/
def fqPkt (p : Pkg) (c : Nat) (cmd : Bytes) : Pkt :=
  let b0 := fieldAt cmd 0 1
  let b1 := fieldAt cmd 1 1
  let a := fieldAt cmd 8 8
  let h : Hdr := { type := fqOp cmd, flag := bitOf b0 3, fetch := bitOf b0 4, size := b1 % 32, atop := bitsOf b0 7 5,
                   signed := bitOf b1 5, dst := a / 2 ^ 52, srcId := c, addr := a }
  match fqOp cmd with
  | 2 => { h := { h with runLen := 1 }, data := tgetList 0 (bindOf p c).mem (fieldAt cmd 16 8) (fqLen cmd) }
  | 3 => { h := h, data := (cmd.drop 24).take (if bitsOf b0 7 5 = 5 then 16 else 8) }
  | _ => { h := h }

/-- Earlier commands of a binding wait at issue. -/
def fqWaits (p : Pkg) (c : Nat) : Bool :=
  p.fab.waiters.any fun w => match w.by_ with | .hound d _ => decide (d = c) | _ => false

/-- Issue the command at the head of the ring (R427): sent, recorded as a fence, or completed with its status. -/
def fqIssue (p : Pkg) (c : Nat) : Pkg :=
  let b := bindOf p c
  let cmd := fqCmd b
  let x : FqCmd := { index := b.fqNum, at_ := b.fqBase + 64 * b.fqHead, cmd := cmd }
  let p1 := modBind p c fun y => { y with fqHead := (b.fqHead + 1) % 2 ^ y.fqLog, fqNum := b.fqNum + 1 }
  match fqBar p c cmd with
  | some st => fqDone p1 c x st (if fqOp cmd = 1 ∧ fieldAt cmd 16 8 + fqLen cmd ≤ b.memMib * 1048576 then errValue (fqLen cmd)
      else if fqOp cmd = 3 then errValue 8 else [])
  | none =>
    let p2 := modBind p1 c fun y => { y with fq := y.fq ++ [x] }
    if fqOp cmd = 4 then
      modFab p2 fun f => { f with fences := f.fences ++ [{ srcId := c, index := x.index, marks := fenceMarks p2 c }] }
    else issue p2 (.hound c x.index) false [fqPkt p c cmd]

/-- A fabric command of no type stands at the head. -/
def fqOdd (b : HBind) : Bool := decide (b.fqHead ≠ b.fqTail) && decide (fqOp (fqCmd b) = 0 ∨ 4 < fqOp (fqCmd b))

/-- Complete the fabric commands of no type that stand at the head; the fuel bounds them. -/
def flushFq (p : Pkg) (c : Nat) : Nat → Pkg
  | 0 => p
  | n + 1 => if fqOdd (bindOf p c) then flushFq (fqIssue p c) c n else p

/-- The fabric command ring lies inside program memory. -/
def fqInside (b : HBind) : Bool := ringInside b b.fqBase 64 (2 ^ b.fqLog)

/-- A fabric command of an OP is issued, after the program's accesses of hart k: the doorbell, then the command at the head if it is of that
OP and may be issued (R427). -/
def fqCommand (p : Pkg) (c k op tail : Nat) (l : Stores) : Pkg :=
  let p0 := progStores p c k l
  let p2 := fqTailWrite p0 c tail
  if (bindOf p0 c).st ≠ 2 then p0
  else if !fqInside (bindOf p2 c) then p2
  else
    let p3 := flushFq p2 c 1024
    let b := bindOf p3 c
    if b.fqHead ≠ b.fqTail ∧ fqOp (fqCmd b) = op ∧ b.fq.length < 256 ∧ (op ≠ 4 ∨ fqWaits p3 c = false) then
      flushFq (fqIssue p3 c) c 1024
    else p3

/-! ### Calls and waiting (R428) -/

/-- A hart calls with a number in a7 and an argument in a0: these registers are known. -/
def callRegs (p : Pkg) (k call a0 : Nat) : Pkg :=
  modHart p k fun h => { h with regs := tset none (tset none h.regs 10 (some a0)) 17 (some call) }

/-- EXIT: the hart stops; the last one gives the binding its exit code (R428). -/
def exitHart (p : Pkg) (k c a0 : Nat) : Pkg :=
  let p1 := modHcore p k fun x => { x with exited := true }
  if (coresOf (bindOf p1 c)).all fun j => (hcoreOf p1 j).exited then
    let code := a0 % 256
    let p2 := modBind p1 c fun x => { x with st := 3, exitCode := code }
    if code = 0 then p2 else log p2 codeHoundExit c c code 0
  else p1

/-- The tick at which a WAIT ends: a limit outside 1 to 2^32 - 2 is not described, and the tick is then a free value (R428; log
entry 10). -/
def waitLimit (p : Pkg) (a0 : Nat) : Nat :=
  if 1 ≤ a0 ∧ a0 ≤ 2 ^ 32 - 2 then now p + a0 else now p + (Config.freeWord p.freeCtr).toNat

/-- WAIT: the hart stops its clock (R428). -/
def waitHart (p : Pkg) (k a0 : Nat) : Pkg :=
  nextFree (modHcore p k fun x => { x with waiting := true, woken := false, waitUntil := waitLimit p a0 })

/-! ### Faults (R429) -/

/-- A mailbox or token ring of a core's binding lies outside program memory (kind 5 of Table 13-6). -/
def ringOutside (p : Pkg) (c core : Nat) : Bool :=
  let t := (bindOf p c).tq
  !mailInside p core c || !ringInside (bindOf p c) t.base 32 (2 ^ t.log2)

/-- Of the registers of a hart that faults, only the program counter is known. -/
def setPc (p : Pkg) (k pc : Nat) : Pkg :=
  nextFree (modHart p k fun h => { h with regs := [(96, some pc)], gen := p.freeCtr + 1 })

/-- A fault is sampled: a core that became unusable clears its availability bit; a binding that can fault does (Table 13-6). -/
def houndFaultOp (p : Pkg) (c core kind code pc tval : Nat) : Pkg :=
  let p1 := if kind = 4 then { p with glb := { p.glb with houndLost := tset false p.glb.houndLost core true } } else p
  let st := (bindOf p1 c).st
  if bitOf (bindOf p1 c).cores core ∧ (st = 2 ∨ (kind = 4 ∧ (st = 1 ∨ st = 3))) ∧ (kind ≠ 5 ∨ ringOutside p1 c core) then
    faultBind (setPc p1 core pc) c core kind code pc tval
  else p1

/-- HND_STATUS: bound cores, and cores that run and do not wait (R416). -/
def hndStatus (p : Pkg) : Nat :=
  sumL ((upto 16).map fun k =>
    (if (coreCtx p k).isSome then 2 ^ k else 0) + (if (runningOn p k).isSome then 2 ^ (16 + k) else 0))

end Sys2Proof.Machine
end

