-- ==== Sys2Proof/Machine/MgtOps.lean ====
section
/-! DEFINITION. Shared operations of the managers' commands: their checks and effects, plan checks, readmission, inspections and lane
measurements (R358, R382 to R385, R451 to R466). -/

namespace Sys2Proof.Machine

def modMgt (p : Pkg) (f : Mgt → Mgt) : Pkg := { p with mgt := f p.mgt }

/-! ### Checks that a command makes when it is taken and when it acts (R455, check 6; Table 15-2) -/

/-- The pen, array or port in byte 0 of a body, and the context of IMPRINT_AUTH. -/
def body0 (c : PendCmd) : Nat := fieldAt c.body 0 1

/-- The new epoch of an EPOCH or a READMIT. -/
def newEpoch (c : PendCmd) : Nat := fieldAt c.body 0 8

/-- Bytes that the body of an OP needs (Table 15-2). -/
def bodyNeed (op : Nat) : Nat :=
  match op with
  | 0x03 => 8 | 0x04 => 8 | 0x05 => 4 | 0x06 => 5 | 0x07 => 40 | 0x08 => 8 | 0x09 => 1 | 0x0A => 8 | 0x0B => 1 | 0x0C => 4
  | 0x0D => 24 | 0x0E => 16 | 0x0F => 4 | 0x10 => 1 | 0x11 => 1 | 0x12 => 1 | 0x14 => 1 | 0x15 => 1
  | _ => 0

/-- A pen number in byte 0. -/
def penInBody (c : PendCmd) : Option Nat := need (decide (body0 c < 16)) stLengthInvalid

/-- LEASE (R457). -/
def leaseBar (p : Pkg) (c : PendCmd) : Option Nat :=
  let m := p.mgt
  need ((!m.lease && decide (m.term ≤ c.term)) || (m.lease && decide (m.holder = c.mgr ∧ m.term = c.term))) stPermission

/-- EPOCH, when it acts. -/
def epochBar (p : Pkg) (c : PendCmd) : Option Nat :=
  firstFail [need (decide (p.mgt.epoch < newEpoch c)) stEpochStale, need (!p.mgt.stale) stPermission]

/-- The epochs that are pending. -/
def pendingEpochs (p : Pkg) : List PendCmd := p.mgt.pending.filter fun c => decide (c.op = 0x03 ∨ c.op = 0x08)

/-- A new epoch is above every pending one. -/
def abovePending (p : Pkg) (c : PendCmd) : Option Nat :=
  need ((pendingEpochs p).all fun x => decide (newEpoch x < newEpoch c)) stEpochStale

/-- READMIT, when it is taken and when it acts (R461). -/
def readmitBar (p : Pkg) (c : PendCmd) : Option Nat :=
  firstFail [need p.mgt.stale stPermission, need (decide (p.mgt.epoch < newEpoch c)) stEpochStale]

/-- The first condition of R461 that fails: 1 NV_VERIFIED, 2 PLAN_LOADED, 3 COUNT_SET. -/
def readmitLacks (p : Pkg) : Option Nat :=
  firstFail [need (nvVerifiedAll p) 1, need p.fab.plan.isSome 2, need p.tick.countSet 3]

/-- PLAN_WRITE. -/
def planWriteBar (c : PendCmd) : Option Nat := need (decide (fieldAt c.body 0 4 + (c.body.length - 4) ≤ 655360)) stLengthInvalid

/-- GROUP_WRITE. -/
def groupWriteBar (p : Pkg) (c : PendCmd) : Option Nat :=
  let x := penOf p (body0 c)
  let n := fieldAt c.body 4 4
  firstFail [penInBody c, need x.fenced stPenUnavailable,
    need (decide (1 ≤ n ∧ fieldAt c.body 2 2 + n ≤ x.groupSize ∧ 8 + 4 * n ≤ c.body.length)) stLengthInvalid]

/-- RESUME_GROUP (R385). -/
def resumeBar (p : Pkg) (c : PendCmd) : Option Nat :=
  let x := penOf p (body0 c)
  firstFail [penInBody c, need (!x.fenced || decide (x.fenceEpoch < p.mgt.epoch)) stEpochStale]

/-- IMPRINT_AUTH. -/
def imprintAuthBar (c : PendCmd) : Option Nat :=
  let n := fieldAt c.body 4 4
  firstFail [need (decide (1 ≤ n ∧ n ≤ 256)) stLengthInvalid, need (decide (fieldAt c.body 16 8 ≠ 0)) stFormatInvalid]

/-- PEN_RESET. -/
def penResetBar (p : Pkg) (c : PendCmd) : Option Nat :=
  let st := (penOf p (body0 c)).st
  firstFail [penInBody c, need (decide (st = penBound ∨ st = penActive)) stPenUnavailable]

/-- INSPECT (R464). -/
def inspectBar (p : Pkg) (c : PendCmd) : Option Nat :=
  let x := portOf p (body0 c)
  firstFail [need (decide (body0 c < 16)) stLengthInvalid,
    need (decide (x.st ≠ ptDisabled ∧ x.st ≠ ptDown) && x.insp.isNone) stPenUnavailable]

/-! ### The plan (R356 to R358, Tables 11-5 to 11-8) -/

/-- Bytes of the staging area. -/
def staged (p : Pkg) (off n : Nat) : Bytes := tgetList 0 p.mgt.staging off n

def planMagic : Bytes := [0x54, 0x48, 0x4E, 0x50, 0x4C, 0x41, 0x4E, 0x31].map (BitVec.ofNat 8)

/-- A chip entry (Table 11-6). -/
def chipEntry (b : Bytes) : PlanChip :=
  { chip := fieldAt b 0 2 % 4096, up := fieldAt b 2 2 % 4096, hasUp := bitOf (fieldAt b 2 2) 15, rack := fieldAt b 4 1
    masterRack := bitOf (fieldAt b 5 1) 0 }

/-- A link entry (Table 11-7). -/
def linkEntry (b : Bytes) : PlanLink :=
  { a := fieldAt b 0 2 % 4096, pa := fieldAt b 2 1 % 16, b := fieldAt b 4 2 % 4096, pb := fieldAt b 6 1 % 16
    rs544 := bitOf (fieldAt b 8 1) 0, dlAB := bitOf (fieldAt b 8 1) 1, dlBA := bitOf (fieldAt b 8 1) 2, metres := fieldAt b 9 1 }

/-- Reserved fields of a chip entry and of a link entry are zero. -/
def chipRsv (b : Bytes) : Bool := decide (fieldAt b 0 2 < 4096 ∧ bitsOf (fieldAt b 2 2) 14 12 = 0 ∧ fieldAt b 5 1 < 2) && zeroAt b 6 10
def linkRsv (b : Bytes) : Bool :=
  decide (fieldAt b 0 2 < 4096 ∧ fieldAt b 2 1 < 16 ∧ fieldAt b 4 2 < 4096 ∧ fieldAt b 6 1 < 16 ∧ fieldAt b 8 1 < 8) &&
    zeroAt b 3 1 && zeroAt b 7 1 && zeroAt b 10 6

/-- Reserved fields of the header are zero. -/
def planHeadRsv (t : Bytes) : Bool :=
  zeroAt t 10 2 && zeroAt t 14 2 && zeroAt t 22 42 && decide (fieldAt t 12 2 < 8192 ∧ fieldAt t 20 2 < 4096)

/-- A list of numbers rises strictly. -/
def rising : List Nat → Bool
  | a :: b :: t => decide (a < b) && rising (b :: t)
  | _ => true

/-- A route entry of a plan (R357, R358): its reserved bits, LOCAL, its ports and its destination. -/
def routeOk (x : Plan) (d e : Nat) : Bool :=
  let named := (upto 4).filter fun i => bitOf e (16 + i)
  decide (e < 2 ^ 21) && decide (bitOf e 20 = decide (d = x.chip)) && (named.isEmpty || x.chips.any fun c => decide (c.chip = d)) &&
    named.all fun i =>
      x.links.any fun l => decide ((l.a = x.chip ∧ l.pa = bitsOf e (4 * i + 3) (4 * i)) ∨ (l.b = x.chip ∧ l.pb = bitsOf e (4 * i + 3) (4 * i)))

/-- The plan that a staged topology and route table give to a chip number. -/
def planFrom (chip : Nat) (topo table : Bytes) : Plan :=
  let n := fieldAt topo 12 2 % 8192
  let m := fieldAt topo 16 4
  { chip := chip, master := fieldAt topo 20 2 % 4096
    chips := (chunks 16 n ((topo.drop 64).take (16 * n))).map chipEntry
    links := (chunks 16 m ((topo.drop (64 + 16 * n)).take (16 * m))).map linkEntry
    digest := sha256 topo
    routes := tsetList 0 [] 0 ((chunks 4 4096 table).map leNat) }

/-- The checks of R358, in order. -/
def planBar (chip : Nat) (topo table : Bytes) : Option Nat :=
  let n := fieldAt topo 12 2 % 8192
  let m := fieldAt topo 16 4
  let cs := chunks 16 n ((topo.drop 64).take (16 * n))
  let ls := chunks 16 m ((topo.drop (64 + 16 * n)).take (16 * m))
  let x := planFrom chip topo table
  let has (c : Nat) : Bool := x.chips.any fun e => decide (e.chip = c)
  let ends := x.links.flatMap fun l => [16 * l.a + l.pa, 16 * l.b + l.pb]
  let shares (c : PlanChip) : Bool :=
    x.links.any fun l => decide ((l.a = c.chip ∧ l.b = c.up) ∨ (l.b = c.chip ∧ l.a = c.up))
  firstFail
    [need (decide (topo.take 8 = planMagic ∧ fieldAt topo 8 2 = 1)) stFormatInvalid,
     need (decide (1 ≤ n ∧ n ≤ 4096 ∧ 1 ≤ m ∧ m ≤ 32768 ∧ topo.length = 64 + 16 * n + 16 * m)) stLengthInvalid,
     need (x.links.all fun l => decide (1 ≤ l.metres ∧ l.metres ≤ 50)) stLengthInvalid,
     need (planHeadRsv topo && cs.all chipRsv && ls.all linkRsv) stFormatInvalid,
     need (rising (x.chips.map (·.chip))) stFormatInvalid,
     need (x.links.all fun l => has l.a && has l.b && decide (l.a ≠ l.b)) stFormatInvalid,
     need (rising (sortBy (fun a b => decide (a < b)) ends)) stFormatInvalid,
     need (x.links.all fun l => decide (l.metres ≤ 10) || l.rs544) stFormatInvalid,
     need (has chip && x.chips.all fun c => !c.hasUp || shares c) stFormatInvalid,
     need ((upto 4096).all fun d => routeOk x d (tget 0 x.routes d)) stFormatInvalid]

/-- PLAN_COMMIT: its chip number, the staged topology and the checks; the digest covers route table and topology (Table 15-2). -/
def planCommitBar (p : Pkg) (c : PendCmd) : Option Nat :=
  let n := fieldAt c.body 4 4
  if n = 0 ∨ 655360 < 16384 + n then some stLengthInvalid
  else
    let b := staged p 0 (16384 + n)
    firstFail [need (decide ((c.body.drop 8).take 32 = sha256 b)) stFormatInvalid,
      planBar (fieldAt c.body 0 2) (b.drop 16384) (b.take 16384)]

/-- The staged plan waits for the next tick boundary (R358). -/
def planCommitDo (p : Pkg) (c : PendCmd) : Pkg :=
  let b := staged p 0 (16384 + fieldAt c.body 4 4)
  modFab p fun f => { f with planNext := some (planFrom (fieldAt c.body 0 2) (b.drop 16384) (b.take 16384)) }

/-! ### The lease and readmission (R457 to R461) -/

/-- LEASE takes or renews the lease. -/
def leaseDo (p : Pkg) (c : PendCmd) : Pkg :=
  let fresh := !p.mgt.lease
  let p1 := modMgt p fun m => { m with lease := true, holder := c.mgr, term := c.term, expiry := now p + 15000000 }
  if fresh then log p1 codeLeaseTaken c.mgr c.mgr c.term 0 else p1

/-- The lease ends; without one, HOLDER and the expiry tick read 0. -/
def leaseEnd (p : Pkg) (code : Nat) : Pkg :=
  let m := p.mgt
  if m.lease then log (modMgt p fun x => { x with lease := false, holder := 0, expiry := 0 }) code m.holder m.holder m.term 0 else p

/-- Every request of a pen that is not FREE ends with LOST_MEMBER; the number that ended (R382, R385). -/
def loseMember (p : Pkg) (n : Nat) : Nat × Pkg :=
  let es := (entriesOfPen p n).filter fun e => decide ((reqOf p e).st ≠ rqDone)
  (es.length, forAll es (fun q e => endReq q e stLostMember) p)

/-- MEMBER_LOST is recorded, and its event goes to the pen's contexts (R389). -/
def noteMemberLost (p : Pkg) (n ended : Nat) : Pkg := logFault p codeMemberLost n n ended 0 stLostMember (ctxsOfPen p n)

/-- The readmission steps of R382 for a pen. -/
def readmitPen (p : Pkg) (n : Nat) : Pkg :=
  let (k, q) := loseMember p n
  discardPool (noteMemberLost q n k) n

/-- READMIT acts (R461). -/
def readmitDo (p : Pkg) (c : PendCmd) : Pkg :=
  let ns := (enabledPens p).filter fun n => decide (1 < (penOf p n).groupSize)
  let p1 := forAll ns readmitPen (setEpoch p c.mgr (newEpoch c))
  let as := (upto 256).filter fun a => decide ((arrOf p1 a).st = 1)
  let p2 := forAll as startReturn p1
  log (modMgt p2 fun m => { m with stale := false }) codeReadmitted c.mgr c.mgr (newEpoch c % 2 ^ 32) as.length

/-! ### Groups (R384, R385) -/

/-- GROUP_WRITE writes entries of the group table. -/
def groupWriteDo (p : Pkg) (c : PendCmd) : Pkg :=
  let first := fieldAt c.body 2 2
  forAll (upto (fieldAt c.body 4 4)) (fun q i =>
    let v := fieldAt c.body (8 + 4 * i) 4
    modPen q (body0 c) fun y =>
      { y with group := tset 0 y.group (first + i) (v % 4096 + bitN (bitOf v 31) * 2 ^ 31) }) p

/-- RESUME_GROUP lifts a fence. -/
def resumeDo (p : Pkg) (c : PendCmd) : Pkg :=
  let n := body0 c
  if (penOf p n).fenced then
    let p1 := modPen p n fun x => { x with fenced := false, groupStep := 0 }
    logFault p1 codeGroupResumed n n (p.mgt.epoch % 2 ^ 32) (p.mgt.epoch / 2 ^ 32) stOk (ctxsOfPen p1 n)
  else p

/-- MEMBER_LOST: for this package its requests end, and it is stale; for another chip nothing does (R382, R385, Table 15-2). -/
def memberLostDo (p : Pkg) (c : PendCmd) : Pkg :=
  let n := body0 c
  if fieldAt c.body 2 2 = chipNo p then
    let (k, q) := loseMember p n
    noteMemberLost (modMgt q fun m => { m with stale := true }) n k
  else noteMemberLost p n 0

/-! ### Authorisations (R224, R449) -/

/-- IMPRINT_AUTH replaces the authorisation; imprints taken under the old one give nothing back to the new one. -/
def imprintAuthDo (p : Pkg) (c : PendCmd) : Pkg :=
  let n := fieldAt c.body 4 4
  let p1 := { p with nvw := { p.nvw with
    auth := some { id := fieldAt c.body 16 8, ctx := body0 c, left := n, expiry := fieldAt c.body 8 8 }
    imprints := p.nvw.imprints.map fun i => { i with counted := false } } }
  log p1 codeImprintAuthorised c.mgr c.mgr (body0 c) n

/-- CLEAR_AUTH. -/
def clearAuthDo (p : Pkg) (c : PendCmd) : Pkg :=
  let u := fieldAt c.body 0 4
  log { p with scn := { p.scn with auth := some { upto := u, expiry := fieldAt c.body 8 8, manager := c.mgr } } }
    codeClearAuthorised c.mgr c.mgr u 0

/-! ### Connector inspection (R464 to R466) -/

/-- The power of a level in 0.1 µW: 0, 2, 4 and 6 dB below nominal, rounded to nearest (R464). -/
def levelPower (tx k : Nat) : Nat :=
  let r := [1000000, 630957, 398107, 251189].getD k 0
  (tx * r + 500000) / 1000000

/-- The inspection record of a port (R465). -/
def inspRec (p : Pkg) (n phase xseq : Nat) : Bytes :=
  toLE 1 4 ++ toLE 1 phase ++ toLE 2 xseq ++ zeros 4 ++
    ((upto 16).flatMap fun j => toLE 2 (levelPower (laneOf p (4 * n + j % 4)).tx (j / 4))) ++ zeros 112

/-- INSPECT acts: the port leaves every route and launches its first level (R464). -/
def inspectStart (p : Pkg) (n : Nat) (c : PendCmd) : Pkg :=
  let x := ((portOf p n).xseq + 1) % 65536
  let i : Insp := { starter := true, xseq := x, level := 1, since := now p, started := now p, asked := some (c.path, c.mgr, c.seq) }
  let p1 := emptyPort (modPort p n fun y => { y with st := ptInspect, xseq := x, insp := some i, agreedMinor := 0 }) n
  sendControl p1 n (inspRec p1 n 1 x)

/-- Both ports train again and evaluate their peers (R464). -/
def inspectLeave (p : Pkg) (n status : Nat) : Pkg := startTrain (modPort (inspectEnd p n status) n fun x => { x with held := 0 }) n

/-- The readings of a sequence: reading 4k + i for lane i at level k, and the record's launched powers (R464, R465). -/
def inspReadings (p : Pkg) (n : Nat) (rec : Bytes) (rx : List Nat) : Pkg :=
  forAll (upto 16) (fun q j =>
    modLane q (4 * n + j % 4) fun l =>
      { l with
        inspRx := tset 0 l.inspRx (j / 4) (rx.getD j 0 % 65536), inspTx := tset 0 l.inspTx (j / 4) (fieldAt rec (8 + 2 * j) 2) }) p

/-- An inspection record arrives (R464): PHASE 1 makes the receiver join, PHASE 2 answers the port that began. -/
def inspRecIn (p : Pkg) (n : Nat) (rec : Bytes) (rx : List Nat) : Pkg :=
  let x := portOf p n
  let seq := fieldAt rec 2 2
  match fieldAt rec 1 1, x.insp with
  | 1, none =>
    if 3 ≤ x.st then
      let i : Insp := { starter := false, xseq := seq, level := 0, since := now p, started := now p, asked := none, recorded := true }
      emptyPort (modPort (inspReadings p n rec rx) n fun y => { y with st := ptInspect, insp := some i, agreedMinor := 0 }) n
    else p
  | 2, some i =>
    if i.starter ∧ i.xseq = seq ∧ i.recorded = false then
      modPort (inspReadings p n rec rx) n fun y => { y with insp := some { i with recorded := true, since := now p, level := 4 } }
    else p
  | _, _ => p

/-- How long the present part of a sequence lasts: a level 1,000 ticks, the peer's four levels 4,000. -/
def inspHold (i : Insp) : Nat := if (i.starter && i.recorded) || decide (i.level = 0) then 4000 else 1000

/-- The next level of a port's own sequence, or the end of the inspection (R464, R466). A port that waits for PHASE 2 stays. -/
def inspStep (p : Pkg) (n : Nat) (i : Insp) : Pkg :=
  if i.level < 4 then
    let p1 := modPort p n fun y => { y with insp := some { i with level := i.level + 1, since := now p } }
    if i.level = 0 then sendControl p1 n (inspRec p1 n 2 i.xseq) else p1
  else if i.recorded then inspectLeave p n stOk
  else p

/-! ### What each command does when it acts -/

/-- CAP: the command waits for its tick in the Leash, and its reply for its effect (R394, R395, R456). -/
def capDo (p : Pkg) (c : PendCmd) : Pkg := takeCap (mgtHold p c) (fieldAt c.body 0 4) c.tick

/-- SET_COUNT: the count waits for its boundary, and the reply for the load (R59). DEDUCED: a count of 0 is refused as R16 says of counts, since
Table 15-2 does not list it among the fields where zero is valid (log entry 32). -/
def setCountBar (c : PendCmd) : Option Nat :=
  firstFail [need (decide (fieldAt c.body 0 8 ≠ 0 ∧ fieldAt c.body 0 8 % 10000 = 0)) stLengthInvalid, need (decide (c.tick = 0)) stFormatInvalid]

def setCountDo (p : Pkg) (c : PendCmd) : Pkg :=
  { mgtHold p c with tick := { p.tick with pendingCount := some (fieldAt c.body 0 8) } }

/-- The reply body of STATUS (Table 15-2). -/
def statusBody (p : Pkg) : Bytes :=
  toLE 4 (glbStatus p) ++ toLE 4 (if p.fab.plan.isSome then chipNo p + 2 ^ 15 else 0) ++ toLE 8 p.mgt.epoch ++ toLE 4 p.mgt.term ++
    toLE 8 p.mgt.expiry ++ toLE 4 (p.lsh.power / 1000) ++ toLE 4 (p.lsh.tjMax % 256 + 256 * p.lsh.tjArray)

/-- The checks of an OP when it is taken, the length of its body first. -/
def opBar (p : Pkg) (c : PendCmd) : Option Nat :=
  let len := need (decide (bodyNeed c.op ≤ c.body.length)) stLengthInvalid
  let own : Option Nat :=
    match c.op with
    | 0x01 => leaseBar p c
    | 0x03 => epochBar p c
    | 0x04 => setCountBar c
    | 0x05 => capBar (fieldAt c.body 0 4)
    | 0x06 => planWriteBar c
    | 0x07 => planCommitBar p c
    | 0x08 => readmitBar p c
    | 0x09 => penInBody c
    | 0x0A => groupWriteBar p c
    | 0x0B => resumeBar p c
    | 0x0C => penInBody c
    | 0x0D => imprintAuthBar c
    | 0x0F => clearBar p.scn (fieldAt c.body 0 4)
    | 0x12 => penResetBar p c
    | 0x14 => need (decide (body0 c < 16)) stLengthInvalid
    | 0x15 => inspectBar p c
    | _ => none
  firstFail [len, own]

/-- The effect of an OP whose checks have passed, and its reply's body; the OPs that reply later are not here. -/
def opDo (p : Pkg) (c : PendCmd) : Pkg × Bytes :=
  match c.op with
  | 0x01 => (leaseDo p c, [])
  | 0x02 => (leaseEnd p codeLeaseReleased, [])
  | 0x03 => (setEpoch p c.mgr (newEpoch c), [])
  | 0x06 => (modMgt p fun m => { m with staging := tsetList 0 m.staging (fieldAt c.body 0 4) (c.body.drop 4) }, [])
  | 0x07 => (planCommitDo p c, [])
  | 0x08 => (readmitDo p c, [])
  | 0x09 => (fenceGroupOp p (body0 c) 5 (chipNo p), [])
  | 0x0A => (groupWriteDo p c, [])
  | 0x0B => (resumeDo p c, [])
  | 0x0C => (memberLostDo p c, [])
  | 0x0D => (imprintAuthDo p c, [])
  | 0x0E => (clearAuthDo p c, [])
  | 0x10 => (quarantineNow p (body0 c) 5, [])
  | 0x11 => (startReturn p (body0 c), [])
  | 0x12 => (penResetOp p (body0 c) 0, [])
  | 0x14 => (reevaluate p (body0 c), [])
  | 0x16 => (p, statusBody p)
  | _ => (p, [])

/-- A command acts in its tick: the checks again, the effect and the reply (R456). WARM_RESET replies before it acts; INSPECT replies
when the inspection ends; a clear leaves its result in CLEAR_RESULT (R449). -/
def opAct (p : Pkg) (c : PendCmd) : Pkg :=
  match opBar p c with
  | some st =>
    let q := if c.op = 0x0F then { p with scn := { p.scn with clearResult := st } } else p
    mgtRefuse q c st []
  | none =>
    if c.op = 0x08 then
      match readmitLacks p with
      | some k => mgtRefuse p c stPenUnavailable (toLE 1 k)
      | none => mgtDone (readmitDo p c) c []
    else if c.op = 0x0F then mgtDone (clearLog p (fieldAt c.body 0 4) c.mgr) c []
    else if c.op = 0x13 then (if largerReset p then mgtDone p c [] else warmResetOp (mgtDone p c []) 3)
    else if c.op = 0x15 then inspectStart p (body0 c) c
    else let (q, body) := opDo p c; mgtDone q c body

/-- A command that has been taken: refused, or counted and held for its named tick, or counted and acting now. An EPOCH is held against the
pending epochs, a READMIT against the epoch in force when it acts (Table 15-2, R460). -/
def opTake (p : Pkg) (c : PendCmd) : Pkg :=
  let over_ := if c.op = 0x03 then abovePending p c else none
  match firstFail [opBar p c, over_] with
  | some st => if c.op = 0x0F then opAct p c else mgtRefuse p c st []
  | none =>
    let q := mgtPassed p
    if c.op = 0x04 then setCountDo q c
    else if c.op = 0x05 then capDo q c
    else if actsNow q c ∨ c.op = 0x0F then
      opAct (modMgt q fun m => { m with pending := m.pending.filter fun x => decide (x.op ≠ c.op) }) c
    else mgtHold q c

/-- A manager message with a given OP is sampled (R451 to R456). -/
def mgtCommand (op : Nat) (path : Path) (msg : Bytes) (p : Pkg) : Pkg := if opIs op msg then mgtTaken p path msg opTake else p

/-- The pending command of an OP that has reached its named tick; a cap and a count act by their own commands. Of an EPOCH and a READMIT
pending for the same tick the one that arrived first acts first (R460). -/
def duePend (p : Pkg) (op : Nat) : Option PendCmd :=
  p.mgt.pending.find? fun c => decide (c.op = op ∧ op ≠ 0x04 ∧ op ≠ 0x05) && actsNow p c &&
    (!decide (op = 0x03 ∨ op = 0x08) || decide (((pendingEpochs p).find? fun x => decide (x.tick = c.tick)).map PendCmd.op = some op))

/-- A pending command acts at its named tick. -/
def namedAct (p : Pkg) (c : PendCmd) : Pkg :=
  opAct (modMgt p fun m => { m with pending := m.pending.filter fun x => decide (x.op ≠ c.op) }) c

/-! ### Lane measurements (R463) -/

/-- One lane's refresh: powers and bias, and the bit counts of the interval under way. -/
def laneSample (p : Pkg) (s : LaneSample) : Pkg :=
  modLane p s.lane fun l =>
    { l with
      rx := s.rx % 65536, tx := s.tx % 65536, bias := s.bias % 65536, los := s.los, lowRx := decide (s.rx < 500), txFault := s.txFault
      accErrors := satAdd sat64 l.accErrors s.bitErrors, accBits := satAdd sat64 l.accBits s.bits
      total := satAdd sat64 l.total s.bitErrors }

/-- The interval counters take the interval that has ended. -/
def rollLanes (p : Pkg) : Pkg :=
  modFab p fun f =>
    { f with laneRoll := now p, lanes := tmap {} (fun _ l => { l with bitErrors := l.accErrors, bits := l.accBits, accErrors := 0, accBits := 0 }) f.lanes }

/-! ### Registers of the block (R462, Table 15-3) -/

/-- The epoch that is pending first, with its tick. -/
def nextEpoch (p : Pkg) : Option PendCmd := firstBy (fun a b => decide (a.tick < b.tick)) (pendingEpochs p)

/-- A write of a key word or of a manager's address: ignored, and recorded each time, while a lease is held (R462). -/
def mgtRegWrite (p : Pkg) (fn off size v : Nat) : Pkg :=
  let key := decide (0x2300100 ≤ off ∧ off < 0x2300140 ∧ off % 4 = 0)
  let addr := decide (off = 0x2300038 ∨ off = 0x2300040)
  if (key || addr) && p.mgt.lease then log p codeWriteNotAllowed 0 fn off size
  else if key then
    let i := (off - 0x2300100) / 4
    modMgt p fun m =>
      { m with keys := tset 0 m.keys i (v % 2 ^ 32), keyMask := if bitOf m.keyMask i then m.keyMask else m.keyMask + 2 ^ i }
  else if addr then modMgt p fun m => { m with mac := tset 0 m.mac ((off - 0x2300038) / 8) (v % 2 ^ 48) }
  else p

end Sys2Proof.Machine
end

