-- ==== Sys2Proof/Machine/RegRead.lean ====
section
/-! DEFINITION. The registers of BAR0 as a read shows them: one function per block, each giving the 32-bit word at an offset; a 64-bit
register is its two halves (R10, R38 to R45, R253). -/

namespace Sys2Proof.Machine

/-- The half of a 64-bit register that lies at an offset (R40). -/
def half (v off : Nat) : Nat := if off % 8 = 4 then v / 2 ^ 32 % 2 ^ 32 else v % 2 ^ 32

/-- The 32-bit word at an offset of a layout given as bytes. -/
def wordAt (b : Bytes) (off : Nat) : Nat := fieldAt b (off / 4 * 4) 4

/-- A number whose bit i says whether part i of n is usable or set. -/
def bitsWhere (n : Nat) (f : Nat → Bool) : Nat := sumL ((upto n).map fun i => if f i then 2 ^ i else 0)

/-! ### Blocks of the control die -/

/-- GLB_CHIP. -/
def chipReg (p : Pkg) : Nat := if p.fab.plan.isSome then chipNo p + 2 ^ 15 else 0

/-- GLB_ registers (Table 1-9). -/
def glbWord (p : Pkg) (off : Nat) : Nat :=
  match off with
  | 0x00 => 0x43385141
  | 0x04 => Config.glbRev.toNat
  | 0x08 => Config.fwBuild.toNat
  | 0x0C => glbStatus p
  | 0x18 => chipReg p
  | 0x60 => bitsWhere 24 (dramUsable p)
  | 0x64 => bitsWhere 8 (nvUsable p)
  | 0x68 => bitsWhere 4 fun i => !tget false p.glb.opticsLost i
  | 0x6C => bitsWhere 24 fun i => !tget false p.glb.engineLost i
  | 0x70 => bitsWhere 16 (houndUsable p)
  | _ =>
    if 0x10 ≤ off ∧ off < 0x18 then half Config.serial.toNat off
    else if 0x20 ≤ off ∧ off < 0x28 then half p.mgt.epoch off
    else if 0x28 ≤ off ∧ off < 0x30 then half p.glb.tickAtReady off
    else if 0x40 ≤ off ∧ off < 0x60 then bitsWhere 32 fun b => arrayUsable p (8 * (off - 0x40) + b)
    else 0

/-- TICK_STATUS (Table 2-7). -/
def tickStatus (t : TickS) : Nat :=
  bitN t.refclkOk + 2 * bitN t.phaseLocked + 4 * bitN t.countSet + 8 * bitN t.rackAligned + 32 * bitN t.holdover +
    256 * bitN t.missSticky + 512 * bitN t.phaseSticky + 1024 * bitN t.alignSticky + 2048 * bitN t.refLostSticky

/-- TICK_MASTER. -/
def tickMaster (p : Pkg) : Nat :=
  match p.fab.plan with
  | some x => x.master + 2 ^ 15 + 2 ^ 16 * bitN (masterRack p)
  | none => 0

/-- TICK_ registers (Table 2-6). -/
def tickWord (p : Pkg) (off : Nat) : Nat :=
  let t := p.tick
  match off with
  | 0x08 => tickStatus t
  | 0x0C => t.ctrl
  | 0x18 => t.syncMiss
  | 0x1C => t.phaseErr
  | 0x20 => tickMaster p
  | 0x24 => if masterRack p then 0 else offsetWord p
  | 0x28 => t.adjShort
  | 0x2C => t.adjLong
  | _ =>
    if off < 0x08 then half t.count off
    else if 0x10 ≤ off ∧ off < 0x18 then half t.syncLast off
    else if 0x30 ≤ off ∧ off < 0x38 then half (BitVec.ofInt 64 t.setDelta).toNat off
    else 0

/-! ### Pens, contexts and the loader -/

/-- PEN_STATUS (Table 5-17). -/
def penStatus (p : Pkg) (n : Nat) : Nat :=
  let x := penOf p n
  x.st + 16 * bitN (decide (x.folds ≠ 0)) + 32 * bitN (fallbackReady p n) + 64 * bitN (x.cls.any fun c => decide (c = 1)) +
    128 * bitN x.budgetRefused

/-- PEN_DRAM_STACKS: stacks that hold a buffer or a frame of the pen (R183). -/
def penDramStacks (p : Pkg) (n : Nat) : Nat :=
  let x := penOf p n
  bitsWhere 24 fun s => decide (s ∈ x.bufStacks) || x.pool.tab.any fun e => e.2.busy && decide (frameStack x.pool e.1 = s)

/-- A pen's registers (Table 5-16). -/
def penWord (p : Pkg) (n off : Nat) : Nat :=
  let x := penOf p n
  match off with
  | 0x00 => bitN x.enable + 2 * bitN x.compat
  | 0x04 => penStatus p n
  | 0x08 => x.arrays
  | 0x0C => x.stageMib
  | 0x10 => x.dramMib
  | 0x14 => x.nvShards
  | 0x18 => x.groupSize
  | 0x1C => x.fallback
  | 0x20 => match x.image with | some i => i.kvK + 256 * i.kvV + 65536 * bitN x.compat | none => 0
  | 0x24 => (x.cls.filter (· = 0)).length + 65536 * (x.cls.filter (· = 1)).length
  | 0x38 => x.pred
  | 0x3C => x.folds
  | 0x60 => penDramStacks p n
  | 0x64 => bitsWhere 8 fun k => p.nvw.slots.any fun e => decide (e.2.claim = n + 1 ∧ e.1 / 32 = k)
  | _ =>
    if 0x28 ≤ off ∧ off < 0x30 then half (match x.image with | some i => i.id | none => 0) off
    else if 0x30 ≤ off ∧ off < 0x38 then half x.stepCount off
    else if 0x40 ≤ off ∧ off < 0x60 then bitsWhere 32 fun b => decide ((arrOf p (8 * (off - 0x40) + b)).pen = n + 1)
    else 0

/-- CTX_STATUS (Table 8-3). -/
def ctxStatus (x : Ctx) : Nat :=
  x.st + 8 * bitN x.resident + 16 * bitN x.fencePending + 32 * bitN x.rollBusy + 64 * bitN x.cqStall + 256 * x.enableErr +
    65536 * bitN x.dbInvalid + 131072 * bitN x.eqLost

/-- CTX_IRQ as it reads: an enable bit whose vector the function's table lacks is 0 (R278). -/
def irqRead (x : Ctx) : Nat :=
  let off (cq : Bool) (b : Nat) : Nat := if (irqVec x cq).isNone && bitOf x.irq b then 2 ^ b else 0
  x.irq - off true 11 - off false 27

/-- A context's registers (Table 8-2). -/
def ctxWord (p : Pkg) (c off : Nat) : Nat :=
  let x := ctxOf p c
  match off with
  | 0x00 => bitN x.enable + 256 * x.pen + 65536 * x.fn
  | 0x04 => ctxStatus x
  | 0x0C => x.gen
  | 0x28 => x.sqLog + 256 * x.cqLog + 65536 * x.eqLog
  | 0x2C => x.sqHead
  | 0x30 => x.sqTail
  | 0x34 => x.cqHead
  | 0x38 => x.cqTail + 65536 * bitN x.cqPhase
  | 0x3C => x.eqHead
  | 0x40 => x.eqTail + 65536 * bitN x.eqPhase
  | 0x44 => irqRead x
  | 0x48 => x.modCount + 65536 * x.modTime
  | 0x4C => x.faultStatus + 65536 * x.faultCode
  | 0x50 => x.eqDropped
  | _ =>
    if 0x10 ≤ off ∧ off < 0x18 then half x.sqBase off
    else if 0x18 ≤ off ∧ off < 0x20 then half x.cqBase off
    else if 0x20 ≤ off ∧ off < 0x28 then half x.eqBase off
    else if 0x58 ≤ off ∧ off < 0x60 then half x.taken off
    else if 0x60 ≤ off ∧ off < 0x68 then half x.records off
    else 0

/-- LDR_ registers (Tables 5-13 and 5-14). -/
def ldrWord (p : Pkg) (off : Nat) : Nat :=
  let l := p.ldr
  match off with
  | 0x08 => l.bytes
  | 0x10 => l.st + 4 * bitN l.lost + 8 * bitN l.badOp + 256 * l.result + 65536 * l.pen + 1048576 * l.op
  | 0x14 => l.failCheck
  | 0x18 => l.failSection
  | 0x1C => l.failIndex
  | 0x20 => l.failOffset
  | 0x24 => l.bindCount
  | 0x28 => l.refuseCount
  | _ => if off < 0x08 then half l.addr off else 0

/-! ### The weight store -/

/-- A replica entry's 64 bytes (Table 7-4). -/
def replicaBytes (r : Replica) : Bytes :=
  toLE 4 r.shard ++ toLE 4 r.length ++ toLE 1 (r.kind + 16 * r.st) ++ zeros 1 ++ toLE 2 r.chip ++ toLE 1 r.slot ++ zeros 3 ++
    toLE 8 r.hostAddr ++ zeros 8 ++ (r.digest ++ zeros 32).take 32

/-- A stack whose imprint or repair is being written. -/
def writingStack (p : Pkg) (n : Nat) : Bool :=
  p.nvw.imprints.any (fun i => decide (i.slot / 32 = n)) || p.nvw.repairs.any fun r => decide (r.slot / 32 = n)

/-- SLED_ registers (Tables 7-8 and 7-9). -/
def sledWord (p : Pkg) (off : Nat) : Nat :=
  match off with
  | 0x00 => p.nvw.sledCtrl
  | 0x04 =>
    bitsWhere 8 (fun n => (enabledPens p).any fun m => (stackSlots n).any fun k => streamsSlot p m k) +
      256 * bitsWhere 8 (writingStack p)
  | 0x08 =>
    (p.nvw.replicas.filter fun e => decide (e.2.kind ≠ 0)).length +
      65536 * (p.nvw.replicas.filter fun e => decide (e.2.kind ≠ 0 ∧ e.2.st = 1)).length
  | 0x0C => p.nvw.hashFail
  | _ =>
    if 0x40 ≤ off ∧ off < 0x80 then half (sledTotal p ((off - 0x40) / 8)) off
    else if 0x80 ≤ off ∧ off < 0x88 then half p.nvw.slowBytes off
    else if 0x88 ≤ off ∧ off < 0x90 then half p.nvw.remoteBytes off
    else if 0x10000 ≤ off ∧ off < 0x20000 then wordAt (replicaBytes (replicaOf p ((off - 0x10000) / 64))) (off % 64)
    else 0

/-- NVW_ registers (Tables 7-6 and 7-7). -/
def nvwWord (p : Pkg) (off : Nat) : Nat :=
  let n := p.nvw
  match off with
  | 0x00 =>
    bitsWhere 8 (fun k => n.slots.any fun e => decide (e.1 / 32 = k ∧ e.2.st = nvBad)) + 256 * bitN n.verifyBusy +
      512 * bitN (!n.repairs.isEmpty)
  | 0x04 =>
    256 - (n.slots.filter fun e => decide (e.2.st ≠ nvFree)).length +
      65536 * (n.slots.filter fun e => decide (e.2.st = nvWorn)).length
  | 0x10 => match n.auth with | some a => a.ctx + 2 ^ 31 | none => 0
  | 0x14 => match n.auth with | some a => a.left | none => 0
  | 0x20 => n.imprints.length
  | 0xA0 => n.retryOk
  | _ =>
    if 0x08 ≤ off ∧ off < 0x10 then half (match n.auth with | some a => a.id | none => 0) off
    else if 0x18 ≤ off ∧ off < 0x20 then half (match n.auth with | some a => a.expiry | none => 0) off
    else if 0x40 ≤ off ∧ off < 0x60 then ((stackSlots ((off - 0x40) / 4)).map fun k => (slotOf p k).cycles).foldl max 0
    else if 0x60 ≤ off ∧ off < 0x80 then tget 0 n.eccCorr ((off - 0x60) / 4)
    else if 0x80 ≤ off ∧ off < 0xA0 then tget 0 n.eccUncorr ((off - 0x80) / 4)
    else if 0x1000 ≤ off ∧ off < 0x5000 then wordAt (slotHeader (slotOf p ((off - 0x1000) / 64))) (off % 64)
    else 0

/-! ### Requests, sampling and KV pages -/

/-- REQ_ registers (Tables 9-9 and 9-11). -/
def reqWord (p : Pkg) (off : Nat) : Nat :=
  let g := p.rq
  let counters := [g.admitted, g.deniedMem, g.deniedTime, g.late, g.fellBack, g.aborted, g.proposed, g.accepted]
  match off with
  | 0x00 => 4096 - (p.reqs.filter fun e => decide (e.2.st ≠ rqFree)).length
  | 0x04 => bitN g.timeAdmit
  | 0x08 => g.prefillSlots
  | 0x0C => g.admitHold
  | _ =>
    if 0x10 ≤ off ∧ off < 0x50 then half (counters.getD ((off - 0x10) / 8) 0) off
    else if 0x100 ≤ off ∧ off < 0x180 then half (penOf p ((off - 0x100) / 8)).stepEnd off
    else if 0x10000 ≤ off ∧ off < 0x11000 then
      let c := (off - 0x10000) / 16
      match off % 16 with
      | 0 => (ctxOf p c).policy + 65536 * (ctxOf p c).quota
      | 4 => (entriesOf p c).length
      | 8 => (ctxOf p c).turnTtl
      | _ => 0
    else if 0x20000 ≤ off ∧ off < 0x21000 then tget 0 (ctxOf p ((off - 0x20000) / 16)).stops (off % 16 / 4)
    else 0

/-- A sampling entry's 32 bytes (Table 9-12). -/
def sampleBytes (s : Sample) : Bytes :=
  toLE 1 s.topK ++ zeros 3 ++ toLE 4 s.temp.toNat ++ toLE 4 s.topP.toNat ++ toLE 4 s.minP.toNat ++ toLE 4 s.repPenalty.toNat ++
    toLE 4 s.repWindow ++ zeros 8

/-- FETCH_ registers (Table 9-10). -/
def fetchWord (p : Pkg) (off : Nat) : Nat :=
  match off with
  | 0x10 => p.rq.latMax % 256
  | 0x14 => p.rq.overrun
  | _ =>
    if off < 0x08 then half p.rq.selected off
    else if off < 0x10 then half p.rq.degenerate off
    else if 0x10000 ≤ off ∧ off < 0x30000 then
      let e := (off - 0x10000) / 32
      wordAt (sampleBytes (tget {} (ctxOf p (e / 16)).sampling (e % 16))) (off % 32)
    else 0

/-- A pen's KVP_ registers (Tables 10-5 and 10-6). -/
def poolWord (o : Pool) (off : Nat) : Nat :=
  match off with
  | 0x00 => o.evict
  | 0x04 => o.sink
  | 0x08 => o.window
  | 0x0C => o.budget
  | 0x10 => o.headroom
  | 0x14 => o.frameBytes
  | 0x18 => o.groups + 16 * gOf o
  | 0x1C => o.frames
  | 0x20 => freeFrames o
  | 0x24 => o.reserved
  | 0x28 => (o.tab.filter fun e => decide (e.2.blocks ≠ 0)).length
  | _ => if 0x30 ≤ off ∧ off < 0x58 then half ([o.cow, o.evicted, o.preempt, o.ctxSwaps, o.convSat].getD ((off - 0x30) / 8) 0) off else 0

/-- KVP_ registers (Tables 10-4 and 10-7). -/
def kvpWord (p : Pkg) (off : Nat) : Nat :=
  match off with
  | 0x00 => p.kvp.hostRate
  | 0x04 => p.kvp.blockTicks
  | _ =>
    if 0x08 ≤ off ∧ off < 0x10 then half p.kvp.hostOut off
    else if 0x10 ≤ off ∧ off < 0x18 then half p.kvp.hostIn off
    else if 0x1000 ≤ off ∧ off < 0x2000 then poolWord (poolOf p ((off - 0x1000) / 0x100)) (off % 0x100)
    else if 0x20000 ≤ off ∧ off < 0x22000 then
      let c := (off - 0x20000) / 0x20
      let x := ctxOf p c
      match off % 0x20 with
      | 0x00 => half x.hostAddr 0
      | 0x04 => half x.hostAddr 4
      | 0x08 => x.hostMib
      | 0x0C => hostUsed x
      | 0x10 => half x.blockedSince 0
      | 0x14 => half x.blockedSince 4
      | 0x18 => (refFrames p c).length
      | _ => 0
    else 0

/-! ### The Pack fabric and its lanes -/

/-- A port's registers (Tables 11-16 and 11-17). -/
def portWord (x : Port) (off : Nat) : Nat :=
  match off with
  | 0x00 =>
    x.st + 32 * bitN x.rs544 + 256 * x.agreedMinor + 2 ^ 16 * bitN x.fecLockFail + 2 ^ 17 * bitN x.downSticky +
      2 ^ 18 * bitN x.miscabledSticky + 2 ^ 19 * bitN x.versionSticky + 2 ^ 20 * (if x.st = ptMiscabled then x.holdReason else 0)
  | 0x04 => bitN x.enable
  | 0x08 => x.peerChip + 2 ^ 16 * x.peerPort + 2 ^ 31 * bitN x.peerValid
  | 0x0C => x.peerMinor + 256 * x.peerMajor
  | 0x10 => x.peerBuild
  | 0x40 => x.trains
  | _ => if 0x18 ≤ off ∧ off < 0x40 then half ([x.fecCorr, x.fecUncorr, x.replays, x.txFlits, x.rxFlits].getD ((off - 0x18) / 8) 0) off else 0

/-- A lane's registers (Table 15-4). -/
def laneWord (l : Lane) (off : Nat) : Nat :=
  match off with
  | 0x00 => l.rx
  | 0x04 => l.tx
  | 0x08 => l.bias
  | 0x0C => bitN l.los + 2 * bitN l.lowRx + 4 * bitN l.txFault
  | _ =>
    if 0x10 ≤ off ∧ off < 0x28 then half ([l.bitErrors, l.bits, l.total].getD ((off - 0x10) / 8) 0) off
    else if 0x40 ≤ off ∧ off < 0x80 then tget 0 l.hist ((off - 0x40) / 4)
    else if 0x80 ≤ off ∧ off < 0x90 then tget 0 l.inspRx ((off - 0x80) / 4)
    else if 0x90 ≤ off ∧ off < 0xA0 then tget 0 l.inspTx ((off - 0x90) / 4)
    else 0

/-- PKF_ registers (Table 11-15). -/
def pkfWord (p : Pkg) (off : Nat) : Nat :=
  let f := p.fab
  let counters := [f.staleRx, f.dupDrop, f.combinedCount, f.reinjected, f.loadTimeouts, f.storeTimeouts, f.unreachable, f.e2eCrc, f.hopDrop]
  match off with
  | 0x00 => ((upto 16).filter fun n => decide ((portOf p n).st = ptUp)).length + 256 * bitN f.plan.isSome
  | 0x04 => Config.protoMinor.toNat + 0x400
  | 0x08 => bitN f.combineEn
  | 0x0C => f.loadTimeout
  | 0x10 => 2000
  | 0x14 => 500
  | 0x18 => bitsWhere 16 fun n => (penOf p n).fenced
  | 0x1C => f.txns.length
  | 0x30 => match f.plan with | some x => x.chips.length | none => 0
  | 0x10C => f.probeSt + 256 * f.probeStatus
  | 0x118 => f.rrcInvalBytes
  | _ =>
    if 0x20 ≤ off ∧ off < 0x30 then wordAt (planDigest p) (off - 0x20)
    else if 0x40 ≤ off ∧ off < 0x88 then half (counters.getD ((off - 0x40) / 8) 0) off
    else if 0x100 ≤ off ∧ off < 0x108 then half f.probeAddr off
    else if 0x110 ≤ off ∧ off < 0x118 then half f.rrcInvalAddr off
    else if 0x200 ≤ off ∧ off < 0x300 then wordAt f.probeData (off - 0x200)
    else if 0x1000 ≤ off ∧ off < 0x2000 then portWord (portOf p ((off - 0x1000) / 0x100)) (off % 0x100)
    else if 0x100000 ≤ off ∧ off < 0x104000 then
      match f.plan with | some x => tget 0 x.routes ((off - 0x100000) / 4) | none => 0
    else if 0x800000 ≤ off ∧ off < 0x804000 then laneWord (laneOf p ((off - 0x800000) / 0x100)) (off % 0x100)
    else 0

/-! ### The Leash -/

/-- LSH_STATUS (Table 12-4). -/
def lshStatus (p : Pkg) : Nat :=
  let l := p.lsh
  bitN l.hard.isSome + 2 * bitN (decide (10000 * target p < l.budget)) + 4 * bitN (emergency p) +
    8 * bitN (l.throttling.any fun e => e.2) + 16 * bitN (trotActive p) + 32 * bitN l.pending.isSome + 64 * bitN l.floorShort +
    256 * bitN l.slewSticky + 512 * bitN l.hardSticky + 1024 * bitN l.throttleSticky + 2048 * bitN l.emergSticky +
    4096 * bitN l.lateSticky + 8192 * bitN l.refusedSticky

/-- LSH_RATE of an array. -/
def rateWord (r : ArrRate) : Nat := r.eff % 4096 + 4096 * (r.ungated % 4096) + 2 ^ 24 * (r.tj % 128) + 2 ^ 31 * bitN r.slow

/-- LSH_ registers (Table 12-3); powers in watts, energies in µJ. -/
def lshWord (p : Pkg) (off : Nat) : Nat :=
  let l := p.lsh
  match off with
  | 0x00 => lshStatus p
  | 0x04 => l.trotPct + 256 * l.softStart + 65536 * bitN l.hintEn
  | 0x08 => l.ramp
  | 0x0C => l.soft
  | 0x10 => match l.hard with | some w => w + 2 ^ 31 | none => 0
  | 0x14 => l.local_
  | 0x18 => l.budget / 10000
  | 0x1C => l.floor_ / 10000
  | 0x20 => l.power / 1000
  | 0x24 => powerAvg p / 10000
  | 0x28 => l.nextVal
  | 0x3C => l.emergCap
  | 0x40 => l.varrMax
  | 0x44 => l.throttle
  | 0x48 => l.varrLead
  | 0x4C => l.tjMax % 256 + 256 * l.tjArray
  | 0x60 => l.hardCaps
  | 0x64 => l.slewCount
  | 0x68 => arrayAvg p / 10000
  | _ =>
    if 0x30 ≤ off ∧ off < 0x38 then half l.nextTick off
    else if 0x50 ≤ off ∧ off < 0x58 then half (l.total / 65536) off
    else if 0x58 ≤ off ∧ off < 0x60 then half (l.unattr / 65536) off
    else if 0x80 ≤ off ∧ off < 0x90 then
      let q := (off - 0x80) / 4
      tget 0 l.varr q % 1024 + 65536 * (tget 0 l.duty q % 128)
    else if 0x100 ≤ off ∧ off < 0x200 then
      let n := (off - 0x100) / 16
      half (tget 0 (if off % 16 < 8 then l.penEnergy else l.penNoctx) n / 65536) off
    else if 0x1000 ≤ off ∧ off < 0x1800 then half (tget 0 l.ctxEnergy ((off - 0x1000) / 8) / 65536) off
    else if 0x2000 ≤ off ∧ off < 0x2800 then half (tget 0 l.beats ((off - 0x2000) / 8)) off
    else if 0x3000 ≤ off ∧ off < 0x3400 then rateWord (tget {} l.rates ((off - 0x3000) / 4))
    else 0

/-! ### Hound cores, the Scent log and management -/

/-- A binding's registers (Table 13-2). -/
def bindWord (b : HBind) (off : Nat) : Nat :=
  match off with
  | 0x00 => b.cores + 2 ^ 16 * bitN b.peerEn + 2 ^ 24 * b.peerMib
  | 0x04 => b.st + 256 * b.result + 65536 * b.exitCode + 2 ^ 24 * bitN b.tqStall + 2 ^ 25 * bitN b.faultSticky
  | 0x10 => b.imageBytes
  | 0x14 => b.memMib
  | 0x18 => b.entry
  | 0x28 => b.hostMib
  | 0x2C => b.fault
  | _ =>
    if 0x08 ≤ off ∧ off < 0x10 then half b.imageAddr off
    else if 0x20 ≤ off ∧ off < 0x28 then half b.hostAddr off
    else if 0x30 ≤ off ∧ off < 0x38 then half b.faultPc off
    else if 0x38 ≤ off ∧ off < 0x40 then half b.faultTval off
    else 0

/-- HND_ registers (R416). -/
def hndWord (p : Pkg) (off : Nat) : Nat :=
  if off = 0 then hndStatus p
  else if 0x1000 ≤ off ∧ off < 0x5000 then bindWord (bindOf p ((off - 0x1000) / 0x40)) (off % 0x40)
  else 0

/-- HOURS and MS of an operating time (Table 14-5, bytes 12 to 19). -/
def timeWord (hours ms : Nat) : Nat := ms + 2 ^ 22 * (hours % 2 ^ 24)

/-- A Scent log record's 32 bytes (Table 14-5). -/
def recBytes (r : Rec) : Bytes :=
  if r.seq = 0 then zeros 32
  else
    toLE 4 r.seq ++ toLE 2 r.code ++ toLE 1 (severity r.code + 8 * (r.code / 4096)) ++ toLE 1 r.source ++ toLE 3 r.cycles ++
      toLE 1 (bitN r.prot) ++ toLE 8 (timeWord r.hours r.ms) ++ toLE 4 r.p0 ++ toLE 4 r.p1 ++ toLE 4 r.p2

/-- SCN_STATUS (Table 14-10). -/
def scnStatus (s : Scn) : Nat :=
  bitN s.slots.isEmpty + 2 * bitN (decide (65536 ≤ s.slots.length)) + 4 * bitN s.auth.isSome + 8 * bitN (!s.queue.isEmpty) +
    16 * bitN s.dropSticky + 256 * s.clearResult

/-- SCN_ registers (Tables 14-9 to 14-11). -/
def scnWord (p : Pkg) (off : Nat) : Nat :=
  let s := p.scn
  match off with
  | 0x00 => scnStatus s
  | 0x04 => s.policy + 256 * s.irqSev
  | 0x08 => seqFirst s
  | 0x0C => s.seqLast
  | 0x10 => s.slots.length
  | 0x14 => s.dropped
  | 0x18 => s.overwritten
  | 0x1C => s.cursor
  | 0x20 => match oldestRec s (fun _ => true) with | some (k, _) => k | none => 0
  | 0x24 => s.powerCycles % 2 ^ 24
  | 0x30 => match s.auth with | some a => a.upto | none => 0
  | 0x40 => clearsHeld s
  | 0x44 => s.queue.length
  | _ =>
    if 0x28 ≤ off ∧ off < 0x30 then half (timeWord (s.opTime / 36000000000) (s.opTime % 36000000000 / 10000)) off
    else if 0x38 ≤ off ∧ off < 0x40 then half (match s.auth with | some a => a.expiry | none => 0) off
    else if 0x1000 ≤ off ∧ off < 0x2000 then
      wordAt (recBytes (tget {} s.slots ((s.cursor + (off - 0x1000) / 32) % 65536))) (off % 32)
    else if 0x2000 ≤ off ∧ off < 0x2400 then
      let x := arrOf p ((off - 0x2000) / 4)
      x.st + 256 * x.cause + 4096 * x.fails
    else 0

/-- MGT_ registers (Table 15-3). -/
def mgtWord (p : Pkg) (off : Nat) : Nat :=
  let m := p.mgt
  match off with
  | 0x00 =>
    bitN m.lease + 2 * m.holder + 4 * bitN m.stale + 8 * bitN (nextEpoch p).isSome + 16 * bitN (keySet p 0) + 32 * bitN (keySet p 1) +
      256 * m.lastRefused
  | 0x04 => m.term
  | 0x48 => bitN m.linkUp + 2 * m.fec + 256 * p.i3c.addr.getD 0 + 2 ^ 15 * bitN p.i3c.addr.isSome
  | _ =>
    let regs := [m.expiry, (nextEpoch p).elim 0 newEpoch, (nextEpoch p).elim 0 (·.tick), tget 0 m.seqHw 0, tget 0 m.seqHw 1,
                 Config.macAddr.toNat, tget 0 m.mac 0, tget 0 m.mac 1]
    if 0x08 ≤ off ∧ off < 0x48 then half (regs.getD ((off - 0x08) / 8) 0) off
    else if 0x50 ≤ off ∧ off < 0x68 then half ([m.rxOk, m.rxAuthFail, m.rxRefused].getD ((off - 0x50) / 8) 0) off
    else 0

/-! ### BAR0 (R38, R39, R43, R253) -/

/-- The word of the physical function's BAR0 at an offset; reserved offsets read as zero (R10, Table 1-8). -/
def bar0Word (p : Pkg) (off : Nat) : Nat :=
  let b := off / 0x100000
  let o := off % 0x100000
  if b = 0 then glbWord p o
  else if b = 1 then tickWord p o
  else if b = 2 then
    if o < 0x10000 then penWord p (o / 0x1000) (o % 0x1000)
    else if o < 0x50000 then tget 0 (penOf p ((o - 0x10000) / 0x4000)).group (o % 0x4000 / 4)
    else 0
  else if 4 ≤ b ∧ b < 8 then ctxWord p ((off - 0x400000) / 0x4000) (off % 0x4000)
  else if b = 8 then ldrWord p o
  else if b = 9 then sledWord p o
  else if b = 10 then nvwWord p o
  else if b = 11 then reqWord p o
  else if b = 12 then fetchWord p o
  else if b = 13 then kvpWord p o
  else if 16 ≤ b ∧ b < 32 then pkfWord p (off - 0x1000000)
  else if b = 32 then lshWord p o
  else if b = 33 then hndWord p o
  else if b = 34 then scnWord p o
  else if b = 35 then mgtWord p o
  else 0

/-- An access of 4 or 8 bytes, aligned to its size (R39). -/
def accessOk (off size : Nat) : Bool := decide ((size = 4 ∨ size = 8) ∧ off % size = 0)

/-- A read of an offset is served (R43). -/
def readServed (p : Pkg) (off : Nat) : Bool :=
  let b := off / 0x100000
  decide (b = 0) || (p.glb.selfTestDone && decide (b = 1 ∨ b = 34)) || (p.glb.selfTestDone && p.glb.ready)

/-- An offset that a function's BAR0 shows (R253): a virtual function sees the GLB_ block and its own context blocks. -/
def readShown (p : Pkg) (fn off : Nat) : Bool :=
  decide (fn = 0) || (decide (fn ≤ p.numVfs) && (decide (off < 0x100000) ||
    (decide (0x400000 ≤ off ∧ off < 0x800000) && decide ((ctxOf p ((off - 0x400000) / 0x4000)).fn = fn))))

/-- What a read of a doorbell page in BAR2 returns: zero, whatever the function and the offset (R259). -/
def bar2Read (_p : Pkg) (_fn _off _size : Nat) : Nat := 0

/-- What a BAR0 read of a function returns (R10, R39 to R43, R253). -/
def bar0Read (p : Pkg) (fn off size : Nat) : Nat :=
  let w (o : Nat) : Nat := if readServed p o && readShown p fn o then bar0Word p o else 0
  if !accessOk off size then 0
  else if size = 4 then w off
  else w off + 2 ^ 32 * w (off + 4)

end Sys2Proof.Machine
end

