-- ==== Sys2Proof/Machine/RegWrite.lean ====
section
/-! DEFINITION. Writes of BAR0: one function per block for its 32-bit registers, the 64-bit registers and their halves, and the access
rules (R10, R11, R38 to R43, R257). -/

namespace Sys2Proof.Machine

/-- A field with a range: a value outside it leaves the field as it was (R11). -/
def keepRange (lo hi v old : Nat) : Nat := if lo ≤ v ∧ v ≤ hi then v else old

/-! ### Blocks of the control die -/

/-- A write of a TICK_ register (Tables 2-6 to 2-8). -/
def tickRegWrite (p : Pkg) (o v : Nat) : Pkg :=
  match o with
  | 0x08 =>
    let t := p.tick
    { p with tick :=
      { t with
        missSticky := t.missSticky && !bitOf v 8, phaseSticky := t.phaseSticky && !bitOf v 9
        alignSticky := t.alignSticky && !bitOf v 10, refLostSticky := t.refLostSticky && !bitOf v 11 } }
  | 0x0C => { p with tick := { p.tick with ctrl := v % 8 } }
  | _ => p

/-- A write of a register of pen n (Table 5-16). -/
def penBlockWrite (p : Pkg) (n o v : Nat) : Pkg :=
  match o with
  | 0x00 => penCtrlWrite p n v
  | 0x04 => modPen p n fun x => { x with budgetRefused := x.budgetRefused && !bitOf v 7 }
  | 0x1C => modPen p n fun x => { x with fallback := v % 16 + 128 * bitN (bitOf v 7) }
  | _ => budgetWrite p n o v

/-- A write of an offset of the PEN_ block (R173). -/
def penAreaWrite (p : Pkg) (o v : Nat) : Pkg :=
  if o < 0x10000 then penBlockWrite p (o / 0x1000) (o % 0x1000) v
  else if o < 0x50000 then groupEntryWrite p ((o - 0x10000) / 0x4000) (o % 0x4000 / 4) v
  else p

/-- A write of a 32-bit LDR_ register (Tables 5-13 and 5-14). -/
def ldrRegWrite (p : Pkg) (o v : Nat) : Pkg :=
  match o with
  | 0x08 => modLdr p fun l => { l with bytes := v }
  | 0x0C => ldrCmd p (v % 4) (bitsOf v 11 8)
  | 0x10 => modLdr p fun l => { l with lost := l.lost && !bitOf v 2, badOp := l.badOp && !bitOf v 3 }
  | _ => p

/-! ### The weight store -/

/-- A write of SLED_CTRL, field by field (Table 7-9). -/
def sledCtrlWrite (old v : Nat) : Nat :=
  keepRange 1 200 (bitsOf v 7 0) (bitsOf old 7 0) + 256 * keepRange 0 8 (bitsOf v 11 8) (bitsOf old 11 8) + 65536 * bitsOf v 17 16

/-- A field of a replica entry other than KIND, by its word (Table 7-4). DESIGN CHOICE: an entry is 16 words of 4 bytes, and each half
of HOST_ADDR takes effect on its own; R40's rule for 64-bit registers is not applied to a field of an entry (log entry 42). DESIGN CHOICE: a LENGTH or a HOST_ADDR
that no entry may hold is stored as written, and the check of R240 judges the entry (R239; log entry 43). -/
def replicaField (r : Replica) (w v : Nat) : Replica :=
  match w with
  | 0 => { r with shard := v }
  | 1 => { r with length := v }
  | 2 => { r with chip := bitsOf v 27 16 }
  | 3 => { r with slot := v % 256 }
  | 4 => { r with hostAddr := r.hostAddr / 2 ^ 32 * 2 ^ 32 + v }
  | 5 => { r with hostAddr := r.hostAddr % 2 ^ 32 + v * 2 ^ 32 }
  | 6 => r
  | 7 => r
  | _ =>
    let d := (r.digest ++ zeros 32).take 32
    { r with digest := d.take (4 * w - 32) ++ toLE 4 v ++ d.drop (4 * w - 28) }

/-- A write of a word of a replica entry: its fields are ignored while KIND is nonzero; KIND is taken last (R239). -/
def replicaWordWrite (p : Pkg) (i w v : Nat) : Pkg :=
  let q := if (replicaOf p i).kind = 0 then modReplica p i fun r => replicaField r w v else p
  if w = 2 then replicaKind q i (v % 4) else q

/-- A write of a SLED_ register (Tables 7-4 and 7-8). -/
def sledRegWrite (p : Pkg) (o v : Nat) : Pkg :=
  if o = 0 then modNvw p fun n => { n with sledCtrl := sledCtrlWrite n.sledCtrl v }
  else if 0x10000 ≤ o ∧ o < 0x20000 then replicaWordWrite p ((o - 0x10000) / 64) (o % 64 / 4) v
  else p

/-! ### Requests and KV pages -/

/-- A write of a context's REQ_ registers (Table 9-11). -/
def reqCtxWrite (p : Pkg) (c o v : Nat) : Pkg :=
  match o with
  | 0x0 => modCtx p c fun x => { x with policy := keepRange 0 2 (v % 4) x.policy, quota := keepRange 1 4096 (bitsOf v 28 16) x.quota }
  | 0x8 => modCtx p c fun x => { x with turnTtl := v }
  | _ => p

/-- A write of a REQ_ register (Tables 9-9 and 9-11). -/
def reqRegWrite (p : Pkg) (o v : Nat) : Pkg :=
  let g := p.rq
  match o with
  | 0x04 => { p with rq := { g with timeAdmit := bitOf v 0 } }
  | 0x08 => { p with rq := { g with prefillSlots := keepRange 1 65534 (v % 65536) g.prefillSlots } }
  | 0x0C => { p with rq := { g with admitHold := keepRange 1 0xFFFFFFFE v g.admitHold } }
  | _ =>
    if 0x10000 ≤ o ∧ o < 0x11000 then reqCtxWrite p ((o - 0x10000) / 16) (o % 16) v
    else if 0x20000 ≤ o ∧ o < 0x21000 then
      modCtx p ((o - 0x20000) / 16) fun x => { x with stops := tset 0 x.stops (o % 16 / 4) (v % 2 ^ 24 + 2 ^ 31 * bitN (bitOf v 31)) }
    else p

/-- A write of a pen's KVP_ registers (Tables 10-5 and 10-6). -/
def poolRegWrite (o : Pool) (off v : Nat) : Pool :=
  match off with
  | 0x00 => { o with evict := 16 * bitsOf v 7 4 + keepRange 0 2 (v % 4) (o.evict % 4) }
  | 0x04 => { o with sink := v % 65536 }
  | 0x08 => { o with window := keepRange 1 65536 (v % 2 ^ 17) o.window }
  | 0x0C => { o with budget := keepRange 1 65536 (v % 2 ^ 17) o.budget }
  | 0x10 => { o with headroom := v }
  | _ => o

/-- A write of a context's host region register: ignored and recorded while the region holds frames (R343). -/
def hostRegionWrite (p : Pkg) (fn c off size : Nat) (f : Ctx → Ctx) : Pkg :=
  if hostUsed (ctxOf p c) ≠ 0 then log p codeKvpWriteIgnored 0 fn off size else modCtx p c f

/-- A write of a 32-bit KVP_ register (Tables 10-4 to 10-7). -/
def kvpRegWrite (p : Pkg) (fn o size v : Nat) : Pkg :=
  let k := p.kvp
  match o with
  | 0x00 => { p with kvp := { k with hostRate := keepRange 1 100 (v % 256) k.hostRate } }
  | 0x04 => { p with kvp := { k with blockTicks := keepRange 1 0xFFFFFFFE v k.blockTicks } }
  | _ =>
    if 0x1000 ≤ o ∧ o < 0x2000 then
      let n := (o - 0x1000) / 0x100
      modPool p n fun x => poolRegWrite x (o % 0x100) v
    else if 0x20000 ≤ o ∧ o < 0x22000 ∧ o % 0x20 = 0x08 then
      hostRegionWrite p fn ((o - 0x20000) / 0x20) (0xD00000 + o) size fun x =>
        { x with hostMib := if v % 2 ^ 20 = 0xFFFFF then x.hostMib else v % 2 ^ 20 }
    else p

/-! ### The Pack fabric -/

/-- A write of a port's registers (Tables 11-16 and 11-17). -/
def portRegWrite (p : Pkg) (n o v : Nat) : Pkg :=
  match o with
  | 0x00 => modPort p n fun x =>
      { x with
        fecLockFail := x.fecLockFail && !bitOf v 16, downSticky := x.downSticky && !bitOf v 17
        miscabledSticky := x.miscabledSticky && !bitOf v 18, versionSticky := x.versionSticky && !bitOf v 19 }
  | 0x04 => portEnableOp p n (bitOf v 0)
  | _ => p

/-- A write of a 32-bit PKF_ register (Table 11-15). -/
def pkfRegWrite (p : Pkg) (o v : Nat) : Pkg :=
  match o with
  | 0x08 => modFab p fun f => { f with combineEn := bitOf v 0 }
  | 0x0C => modFab p fun f => { f with loadTimeout := keepRange 50 2000 (v % 2048) f.loadTimeout }
  | 0x108 => probeGo p v
  | 0x118 => modFab p fun f => { f with rrcInvalBytes := if v % 64 = 0 then v else f.rrcInvalBytes }
  | 0x11C => if bitOf v 0 then rrcInvalidate p else p
  | _ => if 0x1000 ≤ o ∧ o < 0x2000 then portRegWrite p ((o - 0x1000) / 0x100) (o % 0x100) v else p

/-! ### The Leash, the Scent log and management -/

/-- A write of a 32-bit LSH_ register (Tables 12-3 to 12-6). -/
def lshRegWrite (p : Pkg) (o v : Nat) : Pkg :=
  match o with
  | 0x00 => modLsh p fun l =>
      { l with
        slewSticky := l.slewSticky && !bitOf v 8, hardSticky := l.hardSticky && !bitOf v 9
        throttleSticky := l.throttleSticky && !bitOf v 10, emergSticky := l.emergSticky && !bitOf v 11
        lateSticky := l.lateSticky && !bitOf v 12, refusedSticky := l.refusedSticky && !bitOf v 13 }
  | 0x04 => modLsh p fun l =>
      { l with trotPct := keepRange 0 90 (bitsOf v 6 0) l.trotPct, softStart := keepRange 4 64 (bitsOf v 14 8) l.softStart
               hintEn := bitOf v 16 }
  | 0x14 => localCap p (keepRange 1000 4200 (v % 8192) p.lsh.local_)
  | 0x28 => modLsh p fun l =>
      let kind := keepRange 0 2 (bitsOf v 14 13) (bitsOf l.nextVal 14 13)
      let ramp := bitsOf v 26 16
      let kept := if ramp = 0 ∨ (50 ≤ ramp ∧ ramp ≤ 2000) then ramp else bitsOf l.nextVal 26 16
      { l with nextVal := v % 8192 + 8192 * kind + 65536 * kept }
  | 0x38 => if bitOf v 0 then capCommit p else p
  | 0x3C => markSlew (modLsh p fun l => { l with emergCap := keepRange 1000 4200 (v % 8192) l.emergCap })
  | 0x40 => modLsh p fun l => { l with varrMax := keepRange 600 900 (v % 1024) l.varrMax }
  | 0x44 => modLsh p fun l => { l with throttle := keepRange 85 105 (v % 256) l.throttle }
  | 0x48 => modLsh p fun l => { l with varrLead := keepRange 1 65535 (v % 65536) l.varrLead }
  | _ => p

/-- A write of a SCN_ register (Tables 14-9 and 14-10). -/
def scnRegWrite (p : Pkg) (o v : Nat) : Pkg :=
  match o with
  | 0x00 => { p with scn := { p.scn with dropSticky := p.scn.dropSticky && !bitOf v 4 } }
  | 0x04 => scnCtrl p v
  | 0x1C => { p with scn := { p.scn with cursor := v % 65536 } }
  | 0x34 => if bitOf v 0 then clearCmd p else p
  | _ => p

/-! ### Binding blocks of the Hound cores (R416) -/

/-- A write of HND_CTX_CMD (R417, R418). -/
def hndCmdWrite (p : Pkg) (c v : Nat) : Pkg :=
  if v % 4 = 1 then bindOp p c
  else if v % 4 = 2 then setResult (endBinding p c) c stOk
  else p

/-- A write of a register of a context's binding block by a function that reaches it. -/
def hndBlockWrite (p : Pkg) (fn c o v : Nat) : Pkg := if o = 0x1C then hndCmdWrite p c v else hndRegWrite p fn c o v

/-! ### The whole of BAR0 -/

/-- A write of a register that only the physical function writes; a 64-bit register takes the whole value. -/
def pfRegWrite (p : Pkg) (fn off size v : Nat) : Pkg :=
  let b := off / 0x100000
  let o := off % 0x100000
  if b = 1 then tickRegWrite p o v
  else if b = 2 then penAreaWrite p o v
  else if off = 0x800000 then modLdr p fun l => { l with addr := v }
  else if b = 8 then ldrRegWrite p o v
  else if b = 9 then sledRegWrite p o v
  else if b = 11 then reqRegWrite p o v
  else if 0xD20000 ≤ off ∧ off < 0xD22000 ∧ off % 0x20 = 0 then
    hostRegionWrite p fn ((off - 0xD20000) / 0x20) off size fun x => { x with hostAddr := if v % 4096 = 0 then v else x.hostAddr }
  else if b = 13 then kvpRegWrite p fn o size v
  else if off = 0x1000100 then modFab p fun f => { f with probeAddr := v }
  else if off = 0x1000110 then modFab p fun f => { f with rrcInvalAddr := if v % 64 = 0 then v else f.rrcInvalAddr }
  else if 16 ≤ b ∧ b < 32 then pkfRegWrite p (off - 0x1000000) v
  else if off = 0x2000030 then modLsh p fun l => { l with nextTick := v }
  else if b = 32 then lshRegWrite p o v
  else if b = 34 then scnRegWrite p o v
  else if b = 35 then mgtRegWrite p fn off size v
  else p

/-- A write of one register by a function: a context's own blocks for the functions that reach it, the rest for the physical
function alone (R253, R257, R416). -/
def regEffect (p : Pkg) (fn off size v : Nat) : Pkg :=
  if inCtxArea off then
    let c := (off - 0x400000) / 0x4000
    if reaches p fn c then ctxRegWrite p fn c (off % 0x4000) size v else p
  else if inBindArea off then
    let c := (off - 0x2101000) / 0x40
    if reaches p fn c then hndBlockWrite p fn c (off % 0x40) v else p
  else if fn = 0 then pfRegWrite p fn off size v
  else p

/-- A write of an offset acts (R43). -/
def writeServed (p : Pkg) (off : Nat) : Bool := p.glb.ready || (p.glb.selfTestDone && decide (off = 0x220001C))

/-- The lower half in force at a write of an upper half: the held one, or the register's present one (R40). -/
def lowHalf (p : Pkg) (fn off : Nat) : Nat :=
  match tget none p.glb.heldLow fn with
  | some (o, h) => if o = off then h else bar0Word p off
  | none => bar0Word p off

/-- Hold or release a lower half for a function. -/
def setHeld (p : Pkg) (fn : Nat) (h : Option (Nat × Nat)) : Pkg :=
  { p with glb := { p.glb with heldLow := tset none p.glb.heldLow fn h } }

/-- A register takes a value, unless a later write of the tick gives it another (R67). -/
def takeValue (p : Pkg) (fn off size v : Nat) (gone : List Nat) : Pkg := if off ∈ gone then p else regEffect p fn off size v

/-- A write of 4 bytes at an offset that is served (R40). -/
def write4 (p : Pkg) (fn off size v : Nat) (gone : List Nat) : Pkg :=
  if !writeServed p off then p
  else if wide64 off then setHeld p fn (some (off, v))
  else if 4 ≤ off ∧ wide64 (off - 4) then
    takeValue (setHeld p fn none) fn (off - 4) size (lowHalf p fn (off - 4) + 2 ^ 32 * v) gone
  else takeValue p fn off size v gone

/-- The first access in each tick of a size or an alignment that R39 does not allow is recorded (Table 14-3). DESIGN CHOICE: while the
count stands at 0, before the tick has locked, all accesses belong to tick 0, and so do those of tick 0 itself: one record (log
entry 42). -/
def invalidAccess (p : Pkg) (fn off size : Nat) : Pkg :=
  if p.glb.barInvalidAt = some (now p) then p
  else log { p with glb := { p.glb with barInvalidAt := some (now p) } } codeBarAccessInvalid 0 fn off size

/-- A write of BAR0 by a function (R39 to R43). Eight bytes over two registers of 4 bytes write the lower, then the upper. The registers whose
value the tick replaces are given. -/
def bar0WriteOp (p : Pkg) (fn off size v : Nat) (gone : List Nat) : Pkg :=
  if !accessOk off size then invalidAccess p fn off size
  else
    let q := dropHeld p fn off
    if size = 4 then write4 q fn off 4 (v % 2 ^ 32) gone
    else if wide64 off then (if writeServed q off then takeValue q fn off 8 v gone else q)
    else write4 (write4 q fn off 8 (v % 2 ^ 32) gone) fn (off + 4) 8 (v / 2 ^ 32) gone

end Sys2Proof.Machine
end

