-- ==== Sys2Proof/Machine/BarFam.lean ====
section
/-! DEFINITION. Meanings of BAR0_WRITE and BAR0_ACCESS_INVALID (R39, R41). -/

namespace Sys2Proof.Machine

/-- A write of a context's block that acts, so that it can reset the context. -/
def resetsCtx (p : Pkg) (fn off size : Nat) : Bool :=
  accessOk off size && inCtxArea off && p.glb.ready && reaches p fn ((off - 0x400000) / 0x4000)

/-- BAR0_WRITE by a function that the device has enabled; of the values that a function gives a register in one tick the last is taken, and a
reset of a context looks for larger ones of its tick (R39 to R43, R67, R253, R431). -/
def execBar0Write (fn off size : Nat) (value : Word64) (s : State) : Host.Outcome State Fault Refusal :=
  actS (powered s.pkg && decide (fn ≤ s.pkg.numVfs))
    (fun p =>
      let write (q : Pkg) : Pkg := bar0WriteOp q fn off size value.toNat (goneAt fn off size s)
      if resetsCtx p fn off size then overridden s write else write p) s

/-- BAR0_ACCESS_INVALID: a read or a write of a size or an alignment that R39 does not allow. -/
def execBar0AccessInvalid (fn off size : Nat) (s : State) : Host.Outcome State Fault Refusal :=
  act (powered s.pkg && decide (fn ≤ s.pkg.numVfs) && !accessOk off size) (fun p => invalidAccess p fn off size) s

end Sys2Proof.Machine
end

