-- ==== Sys2Proof/Machine/DescFam.lean ====
section
/-! DEFINITION. Meanings of the descriptors and mailbox commands other than IMPRINT_SHARD and HINT (R265 to R302, R336, R422). -/

namespace Sys2Proof.Machine

/-- ADMIT: the next descriptor of its source (R288). -/
def execAdmitReq (src : Src) (s : State) : Host.Outcome State Fault Refusal := act true (fun p => evalDesc p src 1 admitOp) s

/-- APPEND: the next descriptor of its source (R300). -/
def execAppend (src : Src) (s : State) : Host.Outcome State Fault Refusal := act true (fun p => evalDesc p src 2 appendOp) s

/-- CANCEL: the next descriptor of its source (R299). -/
def execCancel (src : Src) (s : State) : Host.Outcome State Fault Refusal := act true (fun p => evalDesc p src 3 cancelOp) s

/-- PAUSE: the next descriptor of its source (R301). -/
def execPause (src : Src) (s : State) : Host.Outcome State Fault Refusal := act true (fun p => evalDesc p src 4 pauseOp) s

/-- RESUME: the next descriptor of its source (R336). -/
def execResume (src : Src) (s : State) : Host.Outcome State Fault Refusal := act true (fun p => evalDesc p src 5 resumeOp) s

/-- FENCE: the next descriptor of a ring (R266). -/
def execFence (ctx : Nat) (s : State) : Host.Outcome State Fault Refusal := act true (fun p => evalDesc p (.ring ctx) 7 fenceOp) s

/-- FENCE_COMPLETE: everything that the pending FENCE waits for has ended (R266). -/
def execFenceComplete (ctx : Nat) (s : State) : Host.Outcome State Fault Refusal :=
  act (writes s.pkg ctx)
    (fun p => match fenceReady p ctx with
      | some d => answer (modCtx p ctx fun x => { x with fencePending := false }) ctx d stOk 0 false false
      | none => p) s

/-- ROLLCALL: the next descriptor of a ring (R281). -/
def execRollcall (ctx : Nat) (s : State) : Host.Outcome State Fault Refusal :=
  act true (fun p => evalDesc p (.ring ctx) 9 rollcallOp) s

/-- ROLLCALL_DONE: the summary has been written (R281). -/
def execRollcallDone (ctx : Nat) (s : State) : Host.Outcome State Fault Refusal :=
  act (writes s.pkg ctx)
    (fun p => match rollPending p ctx with
      | some d => rollDone p ctx d
      | none => p) s

/-- SET_SAMPLING: the next descriptor of its source (R272). -/
def execSetSampling (src : Src) (s : State) : Host.Outcome State Fault Refusal :=
  act true (fun p => evalDesc p src 10 samplingOp) s

end Sys2Proof.Machine
end

