-- ==== Sys2Proof/Machine/ExchFam.lean ====
section
/-! DEFINITION. Meanings of the exchange commands: arrivals in exchange space, the gates that the control path completes, and the
exchange watchdog (R198 to R217). -/

namespace Sys2Proof.Machine

/-- A pen of a running package whose image routes experts. -/
def routed (p : Pkg) (n : Nat) : Bool := powered p && decide (n < 16) && (imageOf p n).routing.isSome

/-- A slot of a pen's board (R199). DESIGN CHOICE: the pen of a group of several packages takes step records and markers whether or
not its image has a ROUTING section, which names BOARD_BUF; without one no buffer holds their bytes (R186, R196; log entry 22). -/
def onBoard (p : Pkg) (n slot : Nat) : Bool :=
  powered p && decide (n < 16 ∧ slot < 2 * groupCount p n) && (penOf p n).image.isSome &&
    ((imageOf p n).routing.isSome || decide (1 < (penOf p n).groupSize))

/-- COUNT_RECORD: a record arrives on the board (R199 to R202). -/
def execCountRecord (pen slot : Nat) (rec : Bytes) (s : State) : Host.Outcome State Fault Refusal :=
  act (onBoard s.pkg pen slot) (fun p => recordIn p pen slot rec) s

/-- DISPATCH_MARK (R199, R206). -/
def execDispatchMark (pen slot : Nat) (word : Word64) (s : State) : Host.Outcome State Fault Refusal :=
  act (onBoard s.pkg pen slot) (fun p => markIn p pen 0 slot word.toNat) s

/-- FREE_MARK (R212). -/
def execFreeMark (pen slot : Nat) (word : Word64) (s : State) : Host.Outcome State Fault Refusal :=
  act (onBoard s.pkg pen slot) (fun p => markIn p pen 1 slot word.toNat) s

/-- COMBINE_MARK (R213, R214). -/
def execCombineMark (pen slot : Nat) (word : Word64) (s : State) : Host.Outcome State Fault Refusal :=
  act (onBoard s.pkg pen slot) (fun p => markIn p pen 2 slot word.toNat) s

/-- DISPATCH_PIECE (R207). -/
def execDispatchPiece (pen off : Nat) (data : Bytes) (s : State) : Host.Outcome State Fault Refusal :=
  act (routed s.pkg pen) (fun p => (pieceIn p pen off data).2) s

/-- DISPATCH_TAG_RUN (R207). -/
def execDispatchTagRun (pen off : Nat) (data : Bytes) (s : State) : Host.Outcome State Fault Refusal :=
  act (routed s.pkg pen) (fun p => (tagsIn p pen off data).2) s

/-- COMBINE_STORE (R213). -/
def execCombineStore (pen off : Nat) (data : Bytes) (s : State) : Host.Outcome State Fault Refusal :=
  act (routed s.pkg pen) (fun p => (combineIn p pen off data).2) s

/-- The exchange whose RECV_GATE is next, in the order in which the segments reach the gate (R210). -/
def nextGated (p : Pkg) (n : Nat) : Option Decided := (stepNow p n).decided.find? fun d => !allGated d

/-- The next generation of an exchange's RECV_GATE may complete (R210). -/
def recvReady (p : Pkg) (n : Nat) (d : Decided) : Bool :=
  arrivedAll p n (entryNow p n d.entry).recvGate && (upto (groupCount p n)).all fun m => marked p n 0 m d.x d.gated

/-- Change the local data of a segment, on its array or in its save area. -/
def modSegData (p : Pkg) (n seg : Nat) (f : ArrData → ArrData) : Pkg :=
  forAll (setOf p n) (fun q a =>
    match (arrOf q a).runs.findIdx? fun r => decide (r.seg = seg) with
    | none => q
    | some k => modArr q a fun x => if k = x.active then { x with data := f x.data } else { x with saved := x.saved.map f }) p

/-- The occupied rows of each tile of a round, in slot-major order (R211). -/
def tileRows (p : Pkg) (n : Nat) (d : Decided) : List Nat :=
  (slotRows p n d d.gated).flatMap fun c => (upto ((imageOf p n).recvCapacity / 128)).map fun t => min 128 (c - 128 * t)

/-- The bytes of the occupancy masks (R211). -/
def maskBytes (rows : List Nat) : Bytes := rows.flatMap fun k => toLE 16 (2 ^ k - 1) ++ toLE 16 (2 ^ 128 - 1)

/-- A generation of RECV_GATE completes: the masks are written first (R210, R211). -/
def recvGateOp (p : Pkg) (n : Nat) (d : Decided) : Pkg :=
  let i := imageOf p n
  let e := entryNow p n d.entry
  let rows := tileRows p n d
  let at_ := 32 * (e.maskLaddr + d.half * (routingNow p n).epm * (i.recvCapacity / 128))
  let p1 := forAll (segsOfLayer i e.expertLayer) (fun q s => modSegData q n s fun x => sramPut x at_ (maskBytes rows) fun _ => 0) p
  let (f, sch) := exFormat p n d.entry d.wide
  let o : RecvOcc := { buf := e.recvBuf, region := 2 * d.half + d.gated % 2, fmt := f, sch := sch, rows := rows }
  let p2 := modStep p1 n fun t => { t with occ := (t.occ.filter fun y => !decide (y.buf = o.buf ∧ y.region = o.region)) ++ [o] }
  completeGen (modDecided p2 n d.x fun y => { y with gated := y.gated + 1 }) n e.recvGate

/-- RECV_GATE_COMPLETE (R210, R211). -/
def execRecvGateComplete (pen half : Nat) (s : State) : Host.Outcome State Fault Refusal :=
  act (routed s.pkg pen && (penOf s.pkg pen).step.isSome)
    (fun p => match nextGated p pen with
      | some d => if d.half = half ∧ recvReady p pen d = true then recvGateOp p pen d else p
      | none => p) s

/-- The exchange whose COMB_GATE is next, in the order in which the segments reach the gate (R210). -/
def nextCombined (p : Pkg) (n : Nat) : Option Decided := (stepNow p n).decided.find? fun d => !d.combined

/-- COMB_GATE_COMPLETE: every member segment has arrived, and 8 ticks have passed since the last COMBINE_MARK; the route sorter has
written OUT_BUF (R210, R214). -/
def execCombGateComplete (pen half : Nat) (s : State) : Host.Outcome State Fault Refusal :=
  act (routed s.pkg pen && (penOf s.pkg pen).step.isSome)
    (fun p => match nextCombined p pen with
      | some d =>
        if d.half = half ∧ d.combineDue ≠ 0 ∧ d.combineDue ≤ now p ∧ arrivedAll p pen (entryNow p pen d.entry).combGate = true then
          completeGen (modDecided (combineHalf p pen d) pen d.x fun y => { y with combined := true }) pen (entryNow p pen d.entry).combGate
        else p
      | none => p) s

/-- The member that an exchange waits for: the lowest one whose record or marker is missing, the FREE_MARK that holds back the next
round of this member's rows among them (R212, R216). -/
def missing (p : Pkg) (n x : Nat) : Option Nat :=
  let ms := upto (groupCount p n)
  let first := ms.find? fun m => !(recordsOf p n x).any fun r => decide (r.member = m)
  match (stepNow p n).decided.find? fun d => decide (d.x = x) with
  | some d =>
    let freed (m : Nat) : Bool :=
      decide (d.rounds ≤ d.sent ∨ d.sent < 2) || marked p n 1 m x (d.sent - 2) ||
        !((rowsIn_ p n d d.sent).any fun a => decide (a.expert / max 1 (routingNow p n).epm = m))
    if d.combineDue ≠ 0 then none
    else if !allGated d then ms.find? fun m => !(marked p n 0 m x d.gated && freed m)
    else ms.find? fun m => !(markedLast p n m x && freed m)
  | none => if decide (x = xOf p n 0) && (stepNow p n).stepX then none else first

/-- An exchange that has waited too long, with the member it waits for. -/
def overdue (p : Pkg) (n : Nat) : Option (Nat × Nat) :=
  let mine := (penOf p n).records.filter fun r => decide (r.member = meOf p n ∧ 4 * (imageOf p n).nominal ≤ since p r.at_)
  mine.findSome? fun r => (missing p n r.x).map fun m => (r.x, m)

/-- EXCHANGE_WATCHDOG (R216). -/
def execExchangeWatchdog (pen : Nat) (s : State) : Host.Outcome State Fault Refusal :=
  act (powered s.pkg && decide (pen < 16 ∧ 1 < (penOf s.pkg pen).groupSize) && (penOf s.pkg pen).step.isSome)
    (fun p => match overdue p pen with
      | some (x, m) => fenceGroupOp (log p codeExchangeWatchdog 0 (x % 2 ^ 32) m 0) pen 4 ((memberChip (penOf p pen) m).getD (chipNo p))
      | none => p) s

end Sys2Proof.Machine
end

