-- ==== Sys2Proof/Machine/FaultFam.lean ====
section
/-! DEFINITION. Meanings of the fault commands, of power-on self-test and of the Scent log's commands (R46, R189, R435 to R449). -/

namespace Sys2Proof.Machine

/-- SELF_TEST_DONE (R46, R473). -/
def execSelfTestDone (failed : Parts) (s : State) : Host.Outcome State Fault Refusal :=
  actS (powered s.pkg && !s.pkg.glb.selfTestDone) (fun p => selfTest p failed) s

/-- ARRAY_WATCHDOG: quarantine, cause 1 (R438). -/
def execArrayWatchdog (array : Nat) (s : State) : Host.Outcome State Fault Refusal :=
  actS (powered s.pkg && decide (array < 256)) (fun _ => overridden s fun p => quarantineNow p array 1) s

/-- SRAM_UNCORRECTABLE: quarantine, cause 2 (R438). -/
def execSramUncorrectable (array : Nat) (s : State) : Host.Outcome State Fault Refusal :=
  actS (powered s.pkg && decide (array < 256)) (fun _ => overridden s fun p => quarantineNow p array 2) s

/-- ARRAY_SELFTEST_DONE (R439). -/
def execArraySelftestDone (array : Nat) (pass : Bool) (ticks : Nat) (s : State) : Host.Outcome State Fault Refusal :=
  actS (powered s.pkg && decide (array < 256 ∧ (arrOf s.pkg array).st = 2)) (fun p => returnDone p array pass ticks) s

/-- DRAM_UNCORRECTABLE, and what the stack's ECC corrects, which has no row of its own (R435, R443; log entry 27). -/
def execDramUncorrectable (stack pen : Nat) (loc : DramLoc) (s : State) : Host.Outcome State Fault Refusal :=
  match loc with
  | .corrected lines => act (powered s.pkg && decide (stack < 24) && dramUsable s.pkg stack) (fun p => dramCorrected p stack lines) s
  | loc =>
    actS (powered s.pkg && decide (stack < 24 ∧ pen < 16) && (penOf s.pkg pen).image.isSome)
      (fun _ => overridden s fun p => dramLineSampled p stack pen loc) s

/-- DRAM_STACK_FAILED: cause 0 controller, 1 PHY, 2 error rate (R435). -/
def execDramStackFailed (stack cause : Nat) (s : State) : Host.Outcome State Fault Refusal :=
  actS (powered s.pkg && decide (stack < 24 ∧ cause < 3) && dramUsable s.pkg stack) (fun _ => overridden s fun p => dramStackFail p stack cause) s

/-- ENGINE_FAULT: kind 0 attention gather engine, 1 Sled engine, 2 optical engine (R189). -/
def execEngineFault (kind index : Nat) (s : State) : Host.Outcome State Fault Refusal :=
  actS (powered s.pkg && decide ((kind = 0 ∧ index < 16) ∨ (kind = 1 ∧ index < 8) ∨ (kind = 2 ∧ index < 4)))
    (fun p => engineFail p kind index) s

/-- FW_FAULT (R437). -/
def execFwFault (core code : Nat) (s : State) : Host.Outcome State Fault Refusal :=
  actS (fwRuns s.pkg && decide (core < 8)) (fun p => fwFail p core code) s

/-- SCENT_QUEUE_DRAIN (R445). -/
def execScentQueueDrain (s : State) : Host.Outcome State Fault Refusal := act (fwRuns s.pkg) (drainLog 16) s

/-- SCN_CLEAR_CMD: a write of GO (R449). -/
def execScnClearCmd (fn : Nat) (s : State) : Host.Outcome State Fault Refusal :=
  act (powered s.pkg) (fun p => pfWrite p fn 0x2200034 clearCmd) s

/-- SCN_CTRL_WRITE (R446, R450). -/
def execScnCtrlWrite (fn : Nat) (value : Word32) (s : State) : Host.Outcome State Fault Refusal :=
  act (powered s.pkg && latest (.scnCtrlWrite fn value) s) (fun p => pfWrite p fn 0x2200004 fun q => scnCtrl q value.toNat) s

/-- CLEAR_AUTH_EXPIRY (R449). -/
def execClearAuthExpiry (s : State) : Host.Outcome State Fault Refusal :=
  act (powered s.pkg)
    (fun p => { p with scn := { p.scn with auth := p.scn.auth.filter fun a => decide (now p < a.expiry) } }) s

end Sys2Proof.Machine
end

