-- ==== Sys2Proof/Machine/HoundFam.lean ====
section
/-! DEFINITION. Meanings of the Hound commands (R416 to R430). -/

namespace Sys2Proof.Machine

/-- HOUND_BIND: a write of BIND to HND_CTX_CMD (R417). -/
def execHoundBind (fn ctx : Nat) (s : State) : Host.Outcome State Fault Refusal :=
  act true (fun p => regWrite p fn (hndOff ctx 0x1C) fun q => if reaches q fn ctx then bindOp q ctx else q) s

/-- HOUND_UNBIND: a write of UNBIND to HND_CTX_CMD (R418). -/
def execHoundUnbind (fn ctx : Nat) (s : State) : Host.Outcome State Fault Refusal :=
  act true (fun p => regWrite p fn (hndOff ctx 0x1C) fun q =>
    if reaches q fn ctx then setResult (endBinding q ctx) ctx stOk else q) s

/-- HOUND_IMAGE_LOADED: the image, or none where the host refuses a read of it (R417). -/
def execHoundImageLoaded (ctx : Nat) (image : Option Bytes) (s : State) : Host.Outcome State Fault Refusal :=
  act (fwRuns s.pkg && decide ((bindOf s.pkg ctx).st = 1)) (fun p => imageLoaded p ctx image) s

/-- What a hart of a running program does: its accesses, and the event unless one of them stopped it. -/
def byHart (core : Nat) (mem : Stores) (f : Pkg → Nat → Pkg) (s : State) : Host.Outcome State Fault Refusal :=
  act (powered s.pkg)
    (fun p => match runningOn p core with
      | some c =>
        let q := progStores p c core mem
        if runningOn q core = some c then f q c else q
      | none => p) s

/-- What a program does through the mailbox page of a core: any hart of the binding may, the core's own where it runs, else the
lowest-numbered one that does (R419; log entry 23). -/
def byPage (core : Nat) (mem : Stores) (f : Pkg → Nat → Pkg) (s : State) : Host.Outcome State Fault Refusal :=
  act (powered s.pkg)
    (fun p => match coreCtx p core with
      | some c =>
        if programRuns p c then
          let q := progStores p c (if runningOn p core = some c then core else runner p c) mem
          if (bindOf q c).st = 2 then f q c else q
        else p
      | none => p) s

/-- HND_MB_CMD_TAIL, a value event (R67, R422). -/
def execHndMbCmdTail (core : Nat) (value : Word32) (mem : Stores) (s : State) : Host.Outcome State Fault Refusal :=
  byPage core mem (fun p _ => if latest (.hndMbCmdTail core value mem) s then mailDoorbell p core value.toNat else p) s

/-- HND_MB_REPLY_HEAD (R421). -/
def execHndMbReplyHead (core : Nat) (value : Word32) (mem : Stores) (s : State) : Host.Outcome State Fault Refusal :=
  byPage core mem (fun p _ =>
    if latest (.hndMbReplyHead core value mem) s then modHcore p core fun x => { x with reply := ringConsume x.reply value.toNat } else p) s

/-- What a program of a binding does through its binding page, on behalf of its lowest-numbered running hart (log entry 23). -/
def byProgram (ctx : Nat) (f : Pkg → Nat → Pkg) (s : State) : Host.Outcome State Fault Refusal :=
  act (powered s.pkg && programRuns s.pkg ctx) (fun p => f p (runner p ctx)) s

/-- HND_TQ_HEAD, a value event (R67, R424). -/
def execHndTqHead (ctx : Nat) (value : Word32) (mem : Stores) (s : State) : Host.Outcome State Fault Refusal :=
  byProgram ctx (fun p k =>
    let q := progStores p ctx k mem
    if (bindOf q ctx).st = 2 ∧ latest (.hndTqHead ctx value mem) s then tqHeadWrite q ctx value.toNat else q) s

/-- HND_FQ_LOAD (R427). -/
def execHndFqLoad (ctx : Nat) (tail : Word32) (mem : Stores) (s : State) : Host.Outcome State Fault Refusal :=
  byProgram ctx (fun p k => fqCommand p ctx k 1 (fqTailOf ctx tail s) mem) s

/-- HND_FQ_STORE (R427). -/
def execHndFqStore (ctx : Nat) (tail : Word32) (mem : Stores) (s : State) : Host.Outcome State Fault Refusal :=
  byProgram ctx (fun p k => fqCommand p ctx k 2 (fqTailOf ctx tail s) mem) s

/-- HND_FQ_ATOMIC (R427). -/
def execHndFqAtomic (ctx : Nat) (tail : Word32) (mem : Stores) (s : State) : Host.Outcome State Fault Refusal :=
  byProgram ctx (fun p k => fqCommand p ctx k 3 (fqTailOf ctx tail s) mem) s

/-- HND_FQ_FENCE (R427). -/
def execHndFqFence (ctx : Nat) (tail : Word32) (mem : Stores) (s : State) : Host.Outcome State Fault Refusal :=
  byProgram ctx (fun p k => fqCommand p ctx k 4 (fqTailOf ctx tail s) mem) s

/-- ECALL_EXIT: call 0 (R428). -/
def execEcallExit (core : Nat) (a0 : Word64) (mem : Stores) (s : State) : Host.Outcome State Fault Refusal :=
  byHart core mem (fun p c => exitHart (callRegs p core 0 a0.toNat) core c a0.toNat) s

/-- ECALL_WAIT: call 1 (R428). -/
def execEcallWait (core : Nat) (a0 : Word64) (mem : Stores) (s : State) : Host.Outcome State Fault Refusal :=
  byHart core mem (fun p _ => waitHart (callRegs p core 1 a0.toNat) core a0.toNat) s

/-- HOUND_WAKE: a waiting hart wakes, with 1 when something it waits for was sampled and 0 at its limit (R428, R21). -/
def execHoundWake (core : Nat) (s : State) : Host.Outcome State Fault Refusal :=
  let x := hcoreOf s.pkg core
  act (x.waiting && (x.woken || decide (x.waitUntil ≤ now s.pkg)))
    (fun p => modHart (modHcore p core fun y => { y with waiting := false, woken := false, waitResult := bitN y.woken }) core
      fun h => { h with regs := tset none h.regs 10 (some (bitN x.woken)) }) s

/-- HOUND_FAULT: an event of Table 13-6 (R429). -/
def execHoundFault (ctx core kind code : Nat) (pc tval : Word64) (s : State) : Host.Outcome State Fault Refusal :=
  actS (powered s.pkg && decide (core < 16 ∧ 1 ≤ kind ∧ kind ≤ 5))
    (fun p => houndFaultOp p ctx core kind code pc.toNat tval.toNat) s

/-- HND_RING_BASE_WRITE: a program writes a base or a size of a ring (R421). -/
def execHndRingBaseWrite (core off : Nat) (write : PageWrite) (mem : Stores) (s : State) : Host.Outcome State Fault Refusal :=
  byPage core mem (fun p c => ringBaseWrite p core c off write.size write.value.toNat) s

end Sys2Proof.Machine
end

