-- ==== Sys2Proof/Machine/KvFam.lean ====
section
/-! DEFINITION. Meanings of the KV page commands (R329, R337, R339, R341). -/

namespace Sys2Proof.Machine

/-- KV_HOST_COPY_DONE: one frame of the pen's running copy lands, with its bytes on the way in, or the host answers with an error
(R337). -/
def execKvHostCopyDone (pen : Nat) (data : Option Bytes) (s : State) : Host.Outcome State Fault Refusal :=
  act (fwRuns s.pkg && decide (pen < 16) && landingWhole s.pkg pen data) (fun p => copyLands p pen data) s

/-- KV_COW_COPY_DONE: the copies made from a source frame at set-up are complete (R329). -/
def execKvCowCopyDone (pen frame : Nat) (s : State) : Host.Outcome State Fault Refusal :=
  act (fwRuns s.pkg && (poolOf s.pkg pen).cowCopies.any fun c => decide (c.1 = frame)) (fun p => cowDone p pen frame) s

/-- SWAP_RETURN: the returns of a pen's SWAPPED requests (R339). -/
def execSwapReturn (pen : Nat) (s : State) : Host.Outcome State Fault Refusal :=
  act (fwRuns s.pkg && decide (pen < 16)) (fun p => returnsOf p pen) s

/-- CONTEXT_SWAP: the context swap of a pen (R341). -/
def execContextSwap (pen : Nat) (s : State) : Host.Outcome State Fault Refusal :=
  act (fwRuns s.pkg && decide (pen < 16)) (fun p => contextSwapOp p pen) s

end Sys2Proof.Machine
end

