-- ==== Sys2Proof/Machine/LoaderFam.lean ====
section
/-! DEFINITION. Meanings of the loader's commands (R167 to R172). -/

namespace Sys2Proof.Machine

/-- BIND: a write of LDR_CMD with OP 1 (R168). -/
def execBind (fn pen : Nat) (s : State) : Host.Outcome State Fault Refusal :=
  actS (decide (pen < 16)) (fun p => pfWrite p fn 0x0080000C fun q => ldrCmd q 1 pen) s

/-- UNBIND: a write of LDR_CMD with OP 2 (R172). -/
def execUnbind (fn pen : Nat) (s : State) : Host.Outcome State Fault Refusal :=
  actS (decide (pen < 16)) (fun p => pfWrite p fn 0x0080000C fun q => ldrCmd q 2 pen) s

/-- BIND_COMPLETE: the end of the running BIND, with the bytes that the fetch returned (R168, R169, R171). -/
def execBindComplete (image : Option Bytes) (placed : Bool) (s : State) : Host.Outcome State Fault Refusal :=
  actS (decide (s.pkg.ldr.st = 1 ∧ s.pkg.ldr.op = 1)) (fun p => bindEnd p p.ldr.pen image placed) s

/-- UNBIND_COMPLETE: once any step job of the pen has retired (R172). -/
def execUnbindComplete (s : State) : Host.Outcome State Fault Refusal :=
  actS (decide (s.pkg.ldr.st = 1 ∧ s.pkg.ldr.op = 2) && (penOf s.pkg s.pkg.ldr.pen).step.isNone) (fun p => unbindEnd p p.ldr.pen) s

end Sys2Proof.Machine
end

