-- ==== Sys2Proof/Machine/MgtFam.lean ====
section
/-! DEFINITION. Meanings of the managers' commands, of inspections, lane measurements and the I3C target (R451 to R466). -/

namespace Sys2Proof.Machine

/-- LEASE (Table 15-2, R457). -/
def execLease (path : Path) (msg : Bytes) (s : State) : Host.Outcome State Fault Refusal :=
  actS (powered s.pkg) (mgtCommand 0x01 path msg) s

/-- RELEASE (Table 15-2, R458). -/
def execRelease (path : Path) (msg : Bytes) (s : State) : Host.Outcome State Fault Refusal :=
  actS (powered s.pkg) (mgtCommand 0x02 path msg) s

/-- EPOCH (Table 15-2, R460). -/
def execEpoch (path : Path) (msg : Bytes) (s : State) : Host.Outcome State Fault Refusal :=
  actS (powered s.pkg) (mgtCommand 0x03 path msg) s

/-- SET_COUNT (Table 15-2, R59). -/
def execSetCount (path : Path) (msg : Bytes) (s : State) : Host.Outcome State Fault Refusal :=
  actS (powered s.pkg) (mgtCommand 0x04 path msg) s

/-- CAP (Table 15-2, R394). -/
def execCap (path : Path) (msg : Bytes) (s : State) : Host.Outcome State Fault Refusal :=
  actS (powered s.pkg) (mgtCommand 0x05 path msg) s

/-- PLAN_WRITE (Table 15-2, R358). -/
def execPlanWrite (path : Path) (msg : Bytes) (s : State) : Host.Outcome State Fault Refusal :=
  actS (powered s.pkg) (mgtCommand 0x06 path msg) s

/-- PLAN_COMMIT (Table 15-2, R358). -/
def execPlanCommit (path : Path) (msg : Bytes) (s : State) : Host.Outcome State Fault Refusal :=
  actS (powered s.pkg) (mgtCommand 0x07 path msg) s

/-- READMIT (Table 15-2, R461). -/
def execReadmit (path : Path) (msg : Bytes) (s : State) : Host.Outcome State Fault Refusal :=
  actS (powered s.pkg) (mgtCommand 0x08 path msg) s

/-- FENCE_GROUP (Table 15-2, R384). -/
def execFenceGroup (path : Path) (msg : Bytes) (s : State) : Host.Outcome State Fault Refusal :=
  actS (powered s.pkg) (mgtCommand 0x09 path msg) s

/-- GROUP_WRITE (Table 15-2, R385). -/
def execGroupWrite (path : Path) (msg : Bytes) (s : State) : Host.Outcome State Fault Refusal :=
  actS (powered s.pkg) (mgtCommand 0x0A path msg) s

/-- RESUME_GROUP (Table 15-2, R385). -/
def execResumeGroup (path : Path) (msg : Bytes) (s : State) : Host.Outcome State Fault Refusal :=
  actS (powered s.pkg) (mgtCommand 0x0B path msg) s

/-- MEMBER_LOST (Table 15-2, R385). -/
def execMemberLost (path : Path) (msg : Bytes) (s : State) : Host.Outcome State Fault Refusal :=
  actS (powered s.pkg) (mgtCommand 0x0C path msg) s

/-- IMPRINT_AUTH (Table 15-2, R224). -/
def execImprintAuth (path : Path) (msg : Bytes) (s : State) : Host.Outcome State Fault Refusal :=
  actS (powered s.pkg) (mgtCommand 0x0D path msg) s

/-- CLEAR_AUTH (Table 15-2, R449). -/
def execClearAuth (path : Path) (msg : Bytes) (s : State) : Host.Outcome State Fault Refusal :=
  actS (powered s.pkg) (mgtCommand 0x0E path msg) s

/-- LOG_CLEAR (Table 15-2, R449). -/
def execLogClear (path : Path) (msg : Bytes) (s : State) : Host.Outcome State Fault Refusal :=
  actS (powered s.pkg) (mgtCommand 0x0F path msg) s

/-- QUARANTINE (Table 15-2, R438). -/
def execQuarantine (path : Path) (msg : Bytes) (s : State) : Host.Outcome State Fault Refusal :=
  actS (powered s.pkg) (fun _ => underResets s 0x10 (mgtCommand 0x10 path msg)) s

/-- ARRAY_RELEASE (Table 15-2, R439). -/
def execArrayRelease (path : Path) (msg : Bytes) (s : State) : Host.Outcome State Fault Refusal :=
  actS (powered s.pkg) (mgtCommand 0x11 path msg) s

/-- PEN_RESET (Table 15-2, R434). -/
def execPenReset (path : Path) (msg : Bytes) (s : State) : Host.Outcome State Fault Refusal :=
  actS (powered s.pkg) (fun _ => underResets s 0x12 (mgtCommand 0x12 path msg)) s

/-- WARM_RESET (Table 15-2, R431). -/
def execWarmReset (path : Path) (msg : Bytes) (s : State) : Host.Outcome State Fault Refusal :=
  actS (powered s.pkg) (fun _ => underResets s 0x13 (mgtCommand 0x13 path msg)) s

/-- PORT_REEVAL (Table 15-2, R355). -/
def execPortReeval (path : Path) (msg : Bytes) (s : State) : Host.Outcome State Fault Refusal :=
  actS (powered s.pkg) (mgtCommand 0x14 path msg) s

/-- INSPECT (Table 15-2, R464). -/
def execInspect (path : Path) (msg : Bytes) (s : State) : Host.Outcome State Fault Refusal :=
  actS (powered s.pkg) (mgtCommand 0x15 path msg) s

/-- STATUS (Table 15-2, R454). -/
def execStatus (path : Path) (msg : Bytes) (s : State) : Host.Outcome State Fault Refusal :=
  actS (powered s.pkg) (mgtCommand 0x16 path msg) s

/-- LEASE_EXPIRED: the lease has not been renewed for 15,000,000 ticks (R457, R458). -/
def execLeaseExpired (s : State) : Host.Outcome State Fault Refusal :=
  actS (powered s.pkg && s.pkg.mgt.lease && decide (s.pkg.mgt.expiry ≤ now s.pkg)) (fun p => leaseEnd p codeLeaseExpired) s

/-- NAMED_TICK_ACTION: a pending command reaches its named tick (R456). -/
def execNamedTickAction (op : Nat) (s : State) : Host.Outcome State Fault Refusal :=
  actS (powered s.pkg)
    (fun p => match duePend p op with
      | some c => underResets s op fun q => namedAct q c
      | none => p) s

/-- INSPECT_LEVEL_STEP: the present level has been held for its time (R464). -/
def execInspectLevelStep (port : Nat) (s : State) : Host.Outcome State Fault Refusal :=
  act (onPort s.pkg port)
    (fun p => match (portOf p port).insp with
      | some i => if inspHold i ≤ since p i.since then inspStep p port i else p
      | none => p) s

/-- INSPECTION_RECORD, with the powers received: reading 4k + i for lane i of the port at level k (R464, R465). -/
def execInspectionRecord (port : Nat) (rec : Bytes) (rx : List Nat) (s : State) : Host.Outcome State Fault Refusal :=
  act (onPort s.pkg port && decide (fieldAt rec 0 1 = 4)) (fun p => inspRecIn p port rec rx) s

/-- INSPECT_TIMEOUT: PHASE 2 has not come within 20,000 ticks (R466). -/
def execInspectTimeout (port : Nat) (s : State) : Host.Outcome State Fault Refusal :=
  act (onPort s.pkg port)
    (fun p => match (portOf p port).insp with
      | some i =>
        if i.starter && !i.recorded && decide (20000 ≤ since p i.started) then inspectLeave p port stRemoteTimeout else p
      | none => p) s

/-- LANE_MEASUREMENT_REFRESH (R463). -/
def execLaneMeasurementRefresh (samples : List LaneSample) (s : State) : Host.Outcome State Fault Refusal :=
  act (powered s.pkg)
    (fun p =>
      let q := forAll (samples.filter fun x => decide (x.lane < 64)) laneSample p
      if 1000000 ≤ since q q.fab.laneRoll then rollLanes q else q) s

/-! ### The I3C target (R453). The auxiliary rails power it: it answers the CCCs below the lockout of VIN6 and in a reset, but no message
(R471). -/

/-- I3C_PRIVATE_WRITE: one manager message to the assigned address, served by its OP; an OP of no command is refused
(R453, R455). -/
def execI3cPrivateWrite (msg : Bytes) (s : State) : Host.Outcome State Fault Refusal :=
  actS (powered s.pkg && s.pkg.i3c.addr.isSome) (fun _ => underResets s (fieldAt msg 3 1) fun p => mgtTaken p .i3c msg opTake) s

/-- I3C_PRIVATE_READ: the oldest unread reply, up to the maximum read length, or no bytes (R453; log entry 8). -/
def execI3cPrivateRead (s : State) : Host.Outcome State Fault Refusal :=
  act (powered s.pkg && s.pkg.i3c.addr.isSome)
    (fun p => match p.i3c.replies with
      | [] => send p (.i3c [])
      | b :: t => send { p with i3c := { p.i3c with replies := t } } (.i3c (b.take p.i3c.mrl))) s

/-- ENTDAA: the package takes the dynamic address offered, when it has none (R453). -/
def execEntdaa (addr : Nat) (s : State) : Host.Outcome State Fault Refusal :=
  act (s.pkg.i3c.addr.isNone && decide (addr < 128)) (fun p => { p with i3c := { p.i3c with addr := some addr } }) s

/-- RSTDAA: the dynamic address is given up (R453). -/
def execRstdaa (s : State) : Host.Outcome State Fault Refusal :=
  act true (fun p => { p with i3c := { p.i3c with addr := none } }) s

/-- What the target answers to a CCC directed at its address. -/
def i3cAnswer (b : Bytes) (s : State) : Host.Outcome State Fault Refusal :=
  act s.pkg.i3c.addr.isSome (fun p => send p (.i3c b)) s

/-- GETPID: the 48-bit provisioned ID, most significant byte first (R453). -/
def execGetpid (s : State) : Host.Outcome State Fault Refusal := i3cAnswer (toBE 6 Config.i3cPid.toNat) s

/-- GETBCR: the bus characteristics register (R453). -/
def execGetbcr (s : State) : Host.Outcome State Fault Refusal := i3cAnswer [Config.i3cBcr] s

/-- GETDCR: the device characteristics register (R453). -/
def execGetdcr (s : State) : Host.Outcome State Fault Refusal := i3cAnswer [Config.i3cDcr] s

/-- SETMRL: the maximum read length, 16 bits (R453). -/
def execSetmrl (len : Nat) (s : State) : Host.Outcome State Fault Refusal :=
  act true (fun p => { p with i3c := { p.i3c with mrl := len % 65536 } }) s

/-- ENEC: bit 0 of the event byte enables in-band interrupts (R453; log entry 8). -/
def execEnec (events : Word8) (s : State) : Host.Outcome State Fault Refusal :=
  act true (fun p => { p with i3c := { p.i3c with ibi := p.i3c.ibi || bitOf events.toNat 0 } }) s

/-- DISEC: bit 0 of the event byte disables in-band interrupts (R453; log entry 8). -/
def execDisec (events : Word8) (s : State) : Host.Outcome State Fault Refusal :=
  act true (fun p => { p with i3c := { p.i3c with ibi := p.i3c.ibi && !bitOf events.toNat 0 } }) s

end Sys2Proof.Machine
end

