-- ==== Sys2Proof/Machine/PenFam.lean ====
section
/-! DEFINITION. Meanings of the pen commands (R173 to R182). -/

namespace Sys2Proof.Machine

/-- PEN_ENABLE: a write of PEN_CTRL with ENABLE 1 (R174). -/
def execPenEnable (fn pen : Nat) (value : Word32) (s : State) : Host.Outcome State Fault Refusal :=
  act (decide (pen < 16) && bitOf value.toNat 0 && latest (.penEnable fn pen value) s) (fun p => pfWrite p fn (penBase pen) fun q => penCtrlWrite q pen value.toNat) s

/-- PEN_DISABLE: a write of PEN_CTRL with ENABLE 0 (R174). -/
def execPenDisable (fn pen : Nat) (value : Word32) (s : State) : Host.Outcome State Fault Refusal :=
  act (decide (pen < 16) && !bitOf value.toNat 0 && latest (.penDisable fn pen value) s) (fun p => pfWrite p fn (penBase pen) fun q => penCtrlWrite q pen value.toNat) s

/-- PEN_BUDGET_WRITE: a write of a budget or group register, or of a group table entry (R174); the offset is that of BAR0. -/
def execPenBudgetWrite (fn pen off : Nat) (value : Word32) (s : State) : Host.Outcome State Fault Refusal :=
  act (decide (pen < 16) && latest (.penBudgetWrite fn pen off value) s) (fun p => pfWrite p fn off fun q => penRegWrite q pen off value.toNat) s

/-- PEN_ACTIVATE (R176). -/
def execPenActivate (pen : Nat) (s : State) : Host.Outcome State Fault Refusal :=
  act (fwRuns s.pkg && mayActivate s.pkg pen) (fun p => activate p pen) s

/-- PRED_STEP_REFRESH (R182). -/
def execPredStepRefresh (s : State) : Host.Outcome State Fault Refusal :=
  act (fwRuns s.pkg) (fun p => forAll (enabledPens p) refreshOne p) s

end Sys2Proof.Machine
end

