-- ==== Sys2Proof/Machine/PowerFam.lean ====
section
/-! DEFINITION. Meanings of the supply, reset-pin and trip-latch commands (R431, R432, R442, R472 to R478). -/

namespace Sys2Proof.Machine

/-- POWER_UP: the power-cycle count rises before any record (R442, R474). RESET_N that is low by now counts as the low half of the cycle that
ends an auxiliary rail's hold (R475; log entry 18). -/
def powerUpOp (p : Pkg) : Pkg :=
  let p1 := modPins { p with scn := { p.scn with powerCycles := p.scn.powerCycles + 1 } } fun x =>
    { x with vinOk := true, auxHold := x.auxHold && x.resetN }
  let p2 := log p1 codeResetCold 0 0 0 0
  let p3 := match p2.lsh.tripDie with
    | some d => log { p2 with lsh := { p2.lsh with tripDie := none } } codeThermtrip 0 d 0 0
    | none => p2
  rails p3

def execPowerUp (s : State) : Host.Outcome State Fault Refusal := act (!s.pkg.pins.vinOk) powerUpOp s

/-- VIN6_LOCKOUT: a cold reset that lasts until VIN6 rises again; the hold of an auxiliary rail's failure stays until RESET_N is cycled
(R474, R475). -/
def execVin6Lockout (s : State) : Host.Outcome State Fault Refusal :=
  act s.pkg.pins.vinOk (fun p => pinCold p fun x => { x with vinOk := false, pwrGood := false }) s

/-- AUX_RAIL_FAULT: a cold reset held until RESET_N is cycled (R475); its record's trigger is open (log entry 18). -/
def execAuxRailFault (s : State) : Host.Outcome State Fault Refusal :=
  act (s.pkg.pins.vinOk && !s.pkg.pins.auxHold)
    (fun p =>
      let old := glbStatus p
      log (nextFree (pinCold p fun x => { x with auxHold := true, pwrGood := false })) codeResetCold 0
        (Config.freeWord p.freeCtr).toNat old 0) s

/-- RESET_N_ASSERT: a cold reset, when the pin is heeded (R431, R474, R478). -/
def execResetNAssert (s : State) : Host.Outcome State Fault Refusal :=
  act s.pkg.pins.resetN
    (fun p =>
      if heedsPins p then
        let old := glbStatus p
        log (pinCold p fun x => { x with resetN := false, auxHold := false }) codeResetCold 0 1 old 0
      else modPins p fun x => { x with resetN := false }) s

/-- RESET_N_RELEASE (R472, R473). -/
def execResetNRelease (s : State) : Host.Outcome State Fault Refusal :=
  act (!s.pkg.pins.resetN) (fun p => rails (modPins p fun x => { x with resetN := true })) s

/-- PERST_ASSERT: a warm reset, and the PCIe link ends; a cold reset sampled in the same tick acts in its place (R431, R476). -/
def execPerstAssert (s : State) : Host.Outcome State Fault Refusal :=
  actS s.pkg.pins.perstN
    (fun p =>
      let q := modPins p fun x => { x with perstN := false }
      if powered p && !coldAhead s then warmResetOp q 2 else q) s

/-- PERST_RELEASE: link training begins (R473). -/
def execPerstRelease (s : State) : Host.Outcome State Fault Refusal :=
  act (!s.pkg.pins.perstN) (fun p => rails (modPins p fun x => { x with perstN := true })) s

/-- THERMTRIP_LATCH_CLEAR: VIN6 has been away for 10 ms (R478). -/
def execThermtripLatchClear (s : State) : Host.Outcome State Fault Refusal :=
  act (!s.pkg.pins.vinOk && !s.pkg.pins.thermtripN) (fun p => modPins p fun x => { x with thermtripN := true }) s

end Sys2Proof.Machine
end

