-- ==== Sys2Proof/Machine/ReqFam.lean ====
section
/-! DEFINITION. Meanings of the request events: token reads, deadlines, expiries, slot words, candidate records and selection
(R288 to R308, R335). -/

namespace Sys2Proof.Machine

/-- ADMIT_HOLD_EXPIRY: an ADMITTING request has waited REQ_ADMIT_HOLD ticks (R291). -/
def execAdmitHoldExpiry (entry : Nat) (s : State) : Host.Outcome State Fault Refusal :=
  act (fwRuns s.pkg && holdOver s.pkg entry) (fun p => refuseAdmit p entry stPenUnavailable) s

/-- The first index at which a prompt differs from the PREFIX request's history (R290). A PREFIX request that has ended since has no
history to compare. -/
def prefixDiff (p : Pkg) (e : Nat) (ts : List Nat) : Option Nat :=
  let r := reqOf p e
  match entryOf p r.ctx r.prefixH with
  | some pe => (upto r.prefixTokens).find? fun i => decide (ts.getD i 0 ≠ (reqOf p pe).hist.getD i 0)
  | none => none

/-- A prompt has been read (R290): the request ends with FORMAT_INVALID on a bad token, else its history stands. -/
def promptRead (p : Pkg) (e : Nat) (ts : List Word32) : Pkg :=
  let r := reqOf p e
  let ns := ts.map (·.toNat)
  let bad := match badToken (vocabOf p r.pen) ts, prefixDiff p e ns with
    | some i, some j => some (min i j)
    | some i, none => some i
    | none, x => x
  match bad with
  | some i => endReq (logPromptInvalid p e i) e stFormatInvalid
  | none =>
    let p1 := modReq p e fun x => { x with hist := ns, promptRead := true }
    issueRead (growBlocks p1 e) e

/-- The host refuses a token read: the context becomes FAULTED (R277, Table 8-16). -/
def tokenReadFailed (p : Pkg) (e : Nat) (d : Desc) : Pkg := hostError p (reqOf p e).ctx codeTokenReadFailed d.index d.core 0

/-- A request whose context may still have work done for it. -/
def served (p : Pkg) (e : Nat) : Bool :=
  let r := reqOf p e
  liveReq r && decide (r.st ≠ rqDone ∧ (ctxOf p r.ctx).st = ctxActive)

/-- PROMPT_READ_DONE: the tokens asked for, or a host error (R290). -/
def execPromptReadDone (entry : Nat) (tokens : Option (List Word32)) (s : State) : Host.Outcome State Fault Refusal :=
  act (fwRuns s.pkg && served s.pkg entry && !(reqOf s.pkg entry).promptRead)
    (fun p => match tokens with
      | none => tokenReadFailed p entry (reqOf p entry).admitDesc
      | some ts => if ts.length = (reqOf p entry).promptTokens then promptRead p entry ts else p) s

/-- The tokens of an APPEND have been read: applied at once, or at the retirement of the step that holds the request (R300). -/
def appendRead (p : Pkg) (e : Nat) (t : TokRead) (ts : List Word32) : Pkg :=
  let r := reqOf p e
  if r.inStep then
    let mark (y : TokRead) : TokRead := if sameDesc y.desc t.desc then { y with data := some ts } else y
    issueRead (modReq p e fun x => { x with appends := x.appends.map mark, held := x.held ++ [t.desc] }) e
  else issueRead (applyAppend p e t ts) e

/-- APPEND_READ_DONE: the tokens of the read in flight, or a host error (R300). -/
def execAppendReadDone (entry : Nat) (tokens : Option (List Word32)) (s : State) : Host.Outcome State Fault Refusal :=
  act (fwRuns s.pkg && served s.pkg entry)
    (fun p => match (reqOf p entry).appends.find? fun t => t.issued && t.data.isNone with
      | some t => match tokens with
        | none => tokenReadFailed p entry t.desc
        | some ts => if ts.length = t.count then appendRead p entry t ts else p
      | none => p) s

/-- A deadline is missed (R294). -/
def missDeadline (p : Pkg) (e : Nat) : Pkg :=
  let r := reqOf p e
  let p1 := { p with rq := { p.rq with late := inc64 p.rq.late } }
  let p2 := modReq p1 e fun x => { x with late := true, nextDl := dlAfter p x.interval, heldPolicy := x.heldPolicy || x.inStep }
  let p3 := logEvent p2 r.ctx (evStatus codeRequestLate) codeRequestLate (handleOf p e) (r.ctx + 256 * r.pen) (handleOf p e) (now p - r.nextDl)
  if !r.inStep && decide (r.st = rqPrefill ∨ r.st = rqDecode ∨ r.st = rqSwapped) then applyPolicy p3 e else p3

/-- DEADLINE_MISSED: NEXT_DEADLINE is nonzero and not later than the tick (R294). -/
def execDeadlineMissed (entry : Nat) (s : State) : Host.Outcome State Fault Refusal :=
  act (fwRuns s.pkg && liveReq (reqOf s.pkg entry) &&
      decide ((reqOf s.pkg entry).nextDl ≠ 0 ∧ (reqOf s.pkg entry).nextDl ≤ now s.pkg))
    (fun p => missDeadline p entry) s

/-- TTL_EXPIRY: paused pages have outlived their time (R301, R335). -/
def execTtlExpiry (entry : Nat) (s : State) : Host.Outcome State Fault Refusal :=
  act (fwRuns s.pkg && decide ((reqOf s.pkg entry).st = rqPaused ∧ (reqOf s.pkg entry).ttlExp ≠ 0 ∧
      (reqOf s.pkg entry).ttlExp ≤ now s.pkg))
    (fun p => endReq p entry stTtlExpired) s

/-- SLOT_WORD: a slot word lands in the Fetch space of a pen (R304). -/
def execSlotWord (pen off : Nat) (word : Word64) (s : State) : Host.Outcome State Fault Refusal :=
  act (fwRuns s.pkg) (fun p => (slotWordIn p pen off word.toNat).2) s

/-- CANDIDATE_RECORD: a candidate record lands in the Fetch space of a pen (R305). -/
def execCandidateRecord (pen off : Nat) (rec : Bytes) (s : State) : Host.Outcome State Fault Refusal :=
  act (fwRuns s.pkg) (fun p => (candIn p pen off rec).2) s

/-- TOKEN_SELECT: the home selects for a slot once all its candidate records are in (R306, R308, R309). -/
def execTokenSelect (pen slot : Nat) (s : State) : Host.Outcome State Fault Refusal :=
  act (fwRuns s.pkg)
    (fun p => match tget none (stepNow p pen).slots slot with
      | some u =>
        if u.select && candsIn p pen slot u && decide (tget none (stepNow p pen).chosen slot = none) then selectSlot p pen slot u
        else p
      | none => p) s

end Sys2Proof.Machine
end

