-- ==== Sys2Proof/Machine/StepFam.lean ====
section
/-! DEFINITION. Meanings of the step commands: set-up, release, segments, barriers, layer decisions and retirement (R146, R155,
R164, R179, R184 to R188). -/

namespace Sys2Proof.Machine

/-- The step of a pen runs: the package is up and the step has been released. -/
def stepRuns (p : Pkg) (n : Nat) : Bool := powered p && (penOf p n).step.isSome && (stepNow p n).released

/-- A pen may start a step job (R184). A set-up that finds only requests without a slot for their records places none and says so in CQ_STALL
or TQ_STALL (R267, R424). -/
def mayStart (p : Pkg) (n : Nat) : Bool :=
  fwRuns p && decide (n < 16 ∧ (penOf p n).st = penActive) && (penOf p n).step.isNone &&
    (!(eligibleOf p n).isEmpty || (entriesOfPen p n).any fun e => lacksSlot p e || lacksToken p e)

/-- STEP_SETUP_START (R184, R185). -/
def execStepSetupStart (pen : Nat) (s : State) : Host.Outcome State Fault Refusal :=
  act (mayStart s.pkg pen) (fun p => setupStart p pen) s

/-- SETUP_COMPLETE: copies of shared pages come first (R185, R329). -/
def execSetupComplete (pen : Nat) (s : State) : Host.Outcome State Fault Refusal :=
  act (powered s.pkg && (penOf s.pkg pen).step.isSome && !(stepNow s.pkg pen).setupDone && (poolOf s.pkg pen).cowCopies.isEmpty &&
      (stepNow s.pkg pen).unchecked.isEmpty)
    (fun p => setupDone p pen) s

/-- STEP_RELEASE: at T0 (R186). -/
def execStepRelease (pen : Nat) (s : State) : Host.Outcome State Fault Refusal :=
  act (powered s.pkg && (penOf s.pkg pen).step.isSome && (stepNow s.pkg pen).setupDone && (stepNow s.pkg pen).stepX &&
      !(stepNow s.pkg pen).released && decide ((stepNow s.pkg pen).t0 ≤ now s.pkg))
    (fun p => stepRelease p pen) s

/-- The array on which a segment is the active one and has not started. -/
def startable (p : Pkg) (n seg : Nat) : Option Nat :=
  (setOf p n).find? fun a =>
    let x := arrOf p a
    decide (x.active < x.runs.length ∧ (runOf x).seg = seg) && !(runOf x).started

/-- SEGMENT_START: at its start tick (R164), a folded second segment after the first switch (R179). -/
def execSegmentStart (pen seg : Nat) (s : State) : Host.Outcome State Fault Refusal :=
  act (stepRuns s.pkg pen && decide (segStart s.pkg pen seg ≤ now s.pkg) && (startable s.pkg pen seg).isSome)
    (fun p => match startable p pen seg with | some a => startSeg p a | none => p) s

/-- SEGMENT_SWITCH (R179). -/
def execSegmentSwitch (array : Nat) (s : State) : Host.Outcome State Fault Refusal :=
  act (powered s.pkg && decide (array < 256) && maySwitch (arrOf s.pkg array)) (fun p => switchSeg p array) s

/-- BARRIER_COMPLETE (R128, R155); gates complete by their own events. -/
def execBarrierComplete (pen barrier : Nat) (s : State) : Host.Outcome State Fault Refusal :=
  act (stepRuns s.pkg pen && decide (barrier < (imageOf s.pkg pen).barriers.length) &&
      !((imageOf s.pkg pen).barriers.getD barrier {}).gate && !controlGate (imageOf s.pkg pen) barrier && arrivedAll s.pkg pen barrier)
    (fun p => completeGen p pen barrier) s

/-- LAYER_DONE: the last array of a run has arrived, and the firmware decides (R95, R98, R146). -/
def execLayerDone (pen layer : Nat) (s : State) : Host.Outcome State Fault Refusal :=
  act (stepRuns s.pkg pen && layerHeld s.pkg pen layer) (fun p => layerDoneOp p pen layer) s

/-- STEP_DONE: the last array has reached END and the last selection has been made (R188, R293). -/
def execStepDone (pen : Nat) (s : State) : Host.Outcome State Fault Refusal :=
  act (stepRuns s.pkg pen && allEnded s.pkg pen && allChosen (stepNow s.pkg pen)) (fun p => stepDoneOp p pen) s

end Sys2Proof.Machine
end

