-- ==== Sys2Proof/Machine/TickEnd.lean ====
section
/-! DEFINITION. The tick boundary: what ends a tick, and what the next one begins with (R19, R59, R68, R176, R266, R279, R287, R324,
R340, R477; log entry 3). -/

namespace Sys2Proof.Machine

/-- The sources of a class of n from the start index of a tick (R68). -/
def rotated (n t : Nat) : List Nat := (upto n).map fun i => (t + i) % n

/-- What ends a tick, after all its events: requests whose pages are back leave SWAPPED, pens are judged, requests that are DONE are closed,
and due interrupts leave, those of vectors no longer masked among them (R176, R278, R279, R287, Table 9-3). -/
def endTick (p : Pkg) : Pkg :=
  let p1 := closeDone (judgePens (leaveBack p (p.reqs.map Prod.fst)))
  let p2 := forAll (p1.pba.map Prod.fst) sendPending (forAll (p1.ctxs.map Prod.fst) sendDue p1)
  { p2 with reqs := tmap {} (fun _ r => { r with turnEnded := false }) p2.reqs }

/-- The counters that a boundary moves (R59, R445, R447). -/
def countTick (p : Pkg) : Pkg :=
  { p with
    tick := { p.tick with count := p.tick.count + 1 }
    scn := { p.scn with opTime := p.scn.opTime + 1, storedInTick := 0, irqInTick := false } }

/-- Frames in use by nothing become free at a boundary (R324). -/
def sweepPools (p : Pkg) : Pkg := { p with pens := tmap {} (fun _ x => { x with pool := sweepFrames x.pool }) p.pens }

/-- The blocked condition of one context (R340). -/
def judgeBlocked (p : Pkg) (c : Nat) : Pkg :=
  let b := blockedNow p c
  if b = decide ((ctxOf p c).blockedSince ≠ 0) then p else modCtx p c fun x => { x with blockedSince := if b then now p else 0 }

/-- Source i of class P4: contexts 0 to 255, then mailboxes 0 to 15 (Table 2-4). What blocked in the tick before is taken
(R264, R266, R422). -/
def pumpSource (p : Pkg) (i : Nat) : Pkg := if i < 256 then pumpRing p i else pumpMail p (i - 256)

/-- The rounds that the exchanges decided in the tick before may send (R203). -/
def dispatchAll (p : Pkg) : Pkg := forAll (enabledPens p) (fun q n => sendWaiting q n (driveFuel q n)) p

/-- What the next tick begins with. -/
def beginTick (p : Pkg) : Pkg :=
  let p1 := judgeAlert (dispatchAll (repeatChecks (sweepPools p)))
  let p2 := forAll (ctxsWhere p1 fun c => c.resident || decide (c.blockedSince ≠ 0)) judgeBlocked p1
  forAll (rotated 272 (now p2)) pumpSource p2

/-- TICK_BOUNDARY (R59). After a firmware fault only the count, the ports and the alert go on (R437). -/
def tickStep (p : Pkg) : Pkg :=
  if p.glb.fwFault then judgeAlert (portsTick (countTick p)) else beginTick (portsTick (steerTick (countTick (endTick p))))

/-- 100 ns pass in which no tick runs: operating time counts while VIN6 is out of lockout (R442). -/
def idleTime (p : Pkg) : Pkg := { p with scn := { p.scn with opTime := p.scn.opTime + 1 } }

/-- TICK_BOUNDARY: the tick runs on REFCLK or on the oscillator of holdover (R57, R61). DEDUCED: where none runs, it stands for 100 ns of the
operating time (log entry 24). -/
def execTickBoundary (s : State) : Host.Outcome State Fault Refusal :=
  if powered s.pkg && (s.pkg.tick.phaseLocked || s.pkg.tick.holdover) then actS true tickStep s
  else act s.pkg.pins.vinOk idleTime s

end Sys2Proof.Machine
end

