-- ==== Sys2Proof/Machine/ShiftOps.lean ====
section
/-! DEFINITION. Moving every tick value the package holds by one difference, when the count is loaded (R59). -/

namespace Sys2Proof.Machine

/-- A tick value moved by a difference, where what counts is at most 10,000 ticks of it: a new count is at least 10,000 (R59, R16; log entry
32), so a value that would pass below 0 is as old at 0. -/
def moved (d : Int) (n : Nat) : Nat := (n + d).toNat

/-- A tick value whose 0 means none, a deadline for one: it does not become none. -/
def movedZ (d : Int) (n : Nat) : Nat := if n = 0 then 0 else max 1 (moved d n)

/-- A stamp that `since` reads: it moves in the 64 bits of the count, and the ticks since it stay what they were. -/
def movedS (d : Int) (n : Nat) : Nat := ((n + d) % 2 ^ 64).toNat

/-- Such a stamp whose 0 means none; one that falls on 0 stands as 2^64, which reads as 0 in 64 bits. -/
def movedSZ (d : Int) (n : Nat) : Nat := if n = 0 then 0 else if movedS d n = 0 then 2 ^ 64 else movedS d n

/-- One more than such a stamp, 0 for none. -/
def movedS1 (d : Int) (n : Nat) : Nat := if n = 0 then 0 else movedS d (n - 1) + 1

/-- An optional tick value. -/
def movedO (d : Int) (x : Option Nat) : Option Nat := x.map (moved d)

/-- The tick values of the reference domain and of the GLB_ block. -/
def shiftTick (d : Int) (t : TickS) : TickS :=
  { t with
    syncLast := movedS d t.syncLast, lastAdjust := movedO d t.lastAdjust
    exchange := t.exchange.map fun e => (e.1, moved d e.2)
    lastExchange := t.lastExchange.map (movedS d), missLogAt := movedO d t.missLogAt, phaseLogAt := movedO d t.phaseLogAt }

def shiftGlb (d : Int) (g : Glb) : Glb :=
  { g with
    tickAtReady := movedS d g.tickAtReady, warmAt := movedS1 d g.warmAt, dramLines := tmap [] (fun _ l => l.map (moved d)) g.dramLines
    dramCorrAt := tmap 0 (fun _ t => movedS1 d t) g.dramCorrAt, barInvalidAt := movedO d g.barInvalidAt
    writeNotAllowedAt := movedO d g.writeNotAllowedAt }

/-- The tick values of a pen, of its pool and of its running step job. -/
def shiftStep (d : Int) (t : Step) : Step :=
  { t with
    start := moved d t.start, earliest := moved d t.earliest, t0 := moved d t.t0
    decided := t.decided.map fun x => { x with combineDue := movedZ d x.combineDue, at_ := moved d x.at_ }
    cands := t.cands.map fun c => { c with at_ := moved d c.at_ } }

def shiftPen (d : Int) (x : Pen) : Pen :=
  { x with
    resetAt := movedS1 d x.resetAt, stepEnd := movedZ d x.stepEnd, replayLogAt := movedO d x.replayLogAt
    spillLogAt := movedO d x.spillLogAt, step := x.step.map (shiftStep d)
    records := x.records.map fun r => { r with earliest := movedZ d r.earliest, at_ := movedS d r.at_ }
    pool := { x.pool with starvedAt := movedO d x.pool.starvedAt } }

/-- The tick values of a context and of a request. -/
def shiftCtx (d : Int) (c : Ctx) : Ctx :=
  { c with
    blockedSince := movedSZ d c.blockedSince, nonResidentAt := movedS d c.nonResidentAt, placedAt := movedS1 d c.placedAt, stallLogAt := movedO d c.stallLogAt
    deniedLogAt := movedO d c.deniedLogAt, modC := { c.modC with oldest := movedS d c.modC.oldest }
    modE := { c.modE with oldest := movedS d c.modE.oldest } }

def shiftReq (d : Int) (r : Req) : Req :=
  { r with
    nextDl := movedZ d r.nextDl, ttlExp := movedZ d r.ttlExp, takenAt := movedS d r.takenAt }

/-- The tick values of the Leash. -/
def shiftLsh (d : Int) (l : Lsh) : Lsh :=
  { l with
    pending := l.pending.map fun c => { c with tick := movedZ d c.tick, sampled := moved d c.sampled }
    trotUntil := movedZ d l.trotUntil, powerEm := movedO d l.powerEm, thermalEm := movedO d l.thermalEm
    hints := l.hints.map fun h => { h with start := moved d h.start, stop := moved d h.stop }, hardAt := movedZ d l.hardAt
    varrAt := tmap 0 (fun _ t => movedZ d t) l.varrAt, rateAt := movedS d l.rateAt
    throttleAt := tmap 0 (fun _ t => moved d t) l.throttleAt }

/-- The tick values of the fabric. -/
def shiftFab (d : Int) (f : Fab) : Fab :=
  { f with
    txns := f.txns.map fun t => { t with at_ := moved d t.at_ }
    heard := tmap 0 (fun _ t => movedS1 d t) f.heard, loadLogAt := tmap 0 (fun _ t => movedZ d t) f.loadLogAt
    storeLogAt := tmap 0 (fun _ t => movedZ d t) f.storeLogAt, staleLogAt := tmap 0 (fun _ t => movedZ d t) f.staleLogAt
    e2eLogAt := movedO d f.e2eLogAt, laneRoll := movedS d f.laneRoll
    ports := tmap {} (fun _ x =>
      { x with phaseAt := movedS d x.phaseAt, ackAt := moved d x.ackAt, insp := x.insp.map fun i => { i with since := movedS d i.since, started := movedS d i.started } }) f.ports }

/-- A held command: its named tick, and the expiry in the body of an IMPRINT_AUTH or a CLEAR_AUTH (Tables 15-8 and 14-13). -/
def shiftCmd (d : Int) (c : PendCmd) : PendCmd :=
  { c with
    tick := movedZ d c.tick
    body := if c.op = 0x0D ∨ c.op = 0x0E then c.body.take 8 ++ toLE 8 (moved d (fieldAt c.body 8 8)) ++ c.body.drop 16 else c.body }

/-- Move every tick value that the package holds (R59; log entry 17). -/
def shiftPkg (d : Int) (p : Pkg) : Pkg :=
  { p with
    tick := shiftTick d p.tick, glb := shiftGlb d p.glb
    scn := { p.scn with auth := p.scn.auth.map fun a => { a with expiry := moved d a.expiry } }
    pens := tmap {} (fun _ x => shiftPen d x) p.pens
    nvw := { p.nvw with
             auth := p.nvw.auth.map fun a => { a with expiry := moved d a.expiry }
             corrLogAt := tmap 0 (fun _ t => movedZ d t) p.nvw.corrLogAt, recheckAt := tmap 0 (fun _ t => movedZ d t) p.nvw.recheckAt
             badLines := tmap [] (fun _ l => l.map (moved d)) p.nvw.badLines }
    ctxs := tmap {} (fun _ c => shiftCtx d c) p.ctxs
    reqs := tmap {} (fun _ r => shiftReq d r) p.reqs
    rq := { p.rq with degenLogAt := movedO d p.rq.degenLogAt }
    fab := shiftFab d p.fab, lsh := shiftLsh d p.lsh
    hnd := { p.hnd with cores := tmap {} (fun _ k => { k with waitUntil := movedZ d k.waitUntil }) p.hnd.cores }
    mgt := { p.mgt with
             expiry := movedZ d p.mgt.expiry, authLogAt := movedO d p.mgt.authLogAt
             pending := p.mgt.pending.map (shiftCmd d) } }

end Sys2Proof.Machine
end

