-- ==== Sys2Proof/Machine/TickFam.lean ====
section
/-! DEFINITION. Meanings of the tick commands: REFCLK, TICK_SYNC, the count, time packets and TICK_CTRL (R57 to R63, R70, R387). -/

namespace Sys2Proof.Machine

/-- REFCLK_OK_SET (R57). -/
def execRefclkOkSet (s : State) : Host.Outcome State Fault Refusal :=
  act (powered s.pkg && !s.pkg.tick.refclkOk) (fun p => { p with tick := { p.tick with refclkOk := true } }) s

/-- TICK_PHASE_LOCK: tick boundary 0 (R57). -/
def execTickPhaseLock (s : State) : Host.Outcome State Fault Refusal :=
  actS (powered s.pkg && s.pkg.tick.refclkOk && !s.pkg.tick.phaseLocked && !s.pkg.tick.holdover)
    (fun p => { p with tick := { p.tick with count := 0, phaseLocked := true, syncLast := 0 } }) s

/-- TICK_SYNC_MISS: an expected edge does not come (R58). -/
def execTickSyncMiss (s : State) : Host.Outcome State Fault Refusal :=
  act (s.pkg.tick.phaseLocked && decide (s.pkg.tick.count % 10000 = 0))
    (fun p =>
      let n := inc32 p.tick.syncMiss
      let q := { p with tick := { p.tick with syncMiss := n, missSticky := true } }
      if mayLog p.tick.missLogAt (now p) then
        log { q with tick := { q.tick with missLogAt := some (now p) } } codeTickSyncMiss 0 (now p) n 0
      else q) s

/-- TICK_SYNC_PHASE_ERR: an edge comes at an unexpected time, in the master rack (R58). DESIGN CHOICE: the limit of one record per
10,000 ticks is kept for misses and for phase errors apart, one per code (missLogAt, phaseLogAt; log entry 42). -/
def execTickSyncPhaseErr (s : State) : Host.Outcome State Fault Refusal :=
  act (s.pkg.tick.phaseLocked && masterRack s.pkg)
    (fun p =>
      let n := inc32 p.tick.phaseErr
      let q := { p with tick := { p.tick with phaseErr := n, phaseSticky := true, syncLast := now p } }
      if mayLog p.tick.phaseLogAt (now p) then
        log { q with tick := { q.tick with phaseLogAt := some (now p) } } codeTickSyncPhaseErr 0 (now p) n 0
      else q) s

/-- TICK_SYNC_EDGE: an edge that passes the check (R58). -/
def execTickSyncEdge (s : State) : Host.Outcome State Fault Refusal :=
  act (s.pkg.tick.phaseLocked && (!masterRack s.pkg || decide (s.pkg.tick.count % 10000 = 0)))
    (fun p => { p with tick := { p.tick with syncLast := now p } }) s

/-- What a declared loss of REFCLK does (R61). -/
def refclkLostOp (p : Pkg) (cause : Nat) : Pkg :=
  let p1 := { p with
    tick := { p.tick with
              refclkOk := false, phaseLocked := false, countSet := false, holdover := true, refLostSticky := true, lossDue := false }
    mgt := { p.mgt with stale := true } }
  let p2 := loseAlign p1 2
  let p3 := logFault p2 codeRefclkLost 0 (now p) cause 0 stInternalFault (ctxsWhere p2 fun c => decide (c.st = ctxActive))
  judgeAlert (forAll (enabledPens p3) (fun q n => fenceGroupOp q n 3 (chipNo q)) p3)

/-- REFCLK_LOST: cause 0 lost edges, 1 frequency (R61). -/
def execRefclkLost (cause : Nat) (s : State) : Host.Outcome State Fault Refusal :=
  actS (s.pkg.tick.phaseLocked) (fun p => refclkLostOp p cause) s

/-- REFCLK_OUT_OF_RANGE: REFCLK_OK is 0 whenever one of the conditions holds. Before the first lock and in holdover that is all; while
PHASE_LOCKED is 1 a declaration, REFCLK_LOST, is now due (R61). -/
def execRefclkOutOfRange (s : State) : Host.Outcome State Fault Refusal :=
  act (powered s.pkg)
    (fun p => { p with tick := { p.tick with refclkOk := false, lossDue := p.tick.lossDue || p.tick.phaseLocked } }) s

/-- REFCLK_RELOCK: the count goes on from its holdover value (R61). -/
def execRefclkRelock (s : State) : Host.Outcome State Fault Refusal :=
  actS (s.pkg.tick.holdover && s.pkg.tick.refclkOk)
    (fun p => { p with tick := { p.tick with phaseLocked := true, holdover := false, syncLast := now p } }) s

/-- Load a pending count, move every tick value held, and answer the command (R59, R456). -/
def countLoadOp (p : Pkg) : Pkg :=
  match p.tick.pendingCount with
  | none => p
  | some v =>
    let d : Int := (v : Int) - (now p : Int)
    let edge := p.tick.phaseLocked
    let q := shiftPkg d p
    let q1 := gainAlign { q with
      tick := { q.tick with
                count := v, countSet := true, setDelta := d, pendingCount := none
                syncLast := if edge then v else q.tick.syncLast } }
    match q1.mgt.pending.find? fun c => decide (c.op = 4) with
    | none => q1
    | some c =>
      let q2 := { q1 with mgt := { q1.mgt with pending := q1.mgt.pending.filter fun x => decide (x.op ≠ 4) } }
      mgtDone (log q2 codeCountLoaded c.mgr c.mgr (v % 2 ^ 32) (v / 2 ^ 32)) c []

/-- COUNT_LOAD: at the next TICK_SYNC edge, or in holdover at the next multiple of 10,000 (R59). -/
def execCountLoad (s : State) : Host.Outcome State Fault Refusal :=
  act (s.pkg.tick.phaseLocked || (s.pkg.tick.holdover && decide (s.pkg.tick.count % 10000 = 0))) countLoadOp s

/-- The lowest-numbered UP port to a chip (R387). -/
def upPortTo (p : Pkg) (chip : Nat) : Option Nat :=
  (upto 16).find? fun n => decide ((portOf p n).st = 4) && decide ((farEnd p n).map Prod.fst = some chip)

/-- Begin an exchange: the one before it counts as failed when no response came, and the request goes upstream (R62, R63,
R387). DESIGN CHOICE: after 8 failed intervals 8 new good averages are needed, and a loss of REFCLK keeps those there are (log
entry 42); the 8 intervals of R63 count from the exchange after the last good one, so that RACK_ALIGNED falls when the exchange after the
eighth failed one begins (log entry 43). -/
def timeExchangeOp (p : Pkg) (up ns : Nat) : Pkg :=
  let x := (p.tick.exchSeq + 1) % 65536
  let failed := if p.tick.exchange.isSome then p.tick.failedExch + 1 else p.tick.failedExch
  let p1 := { p with tick := { p.tick with exchSeq := x, exchange := some (x, now p), failedExch := failed } }
  let p2 := if 8 ≤ failed then { loseAlign p1 0 with tick := { (loseAlign p1 0).tick with goodAvgs := 0 } } else p1
  match upPortTo p2 up with
  | some n => sendControl p2 n (timeRec 2 x (stampBytes p ns) (zeros 10) (zeros 10))
  | none => p2

/-- TIME_EXCHANGE: every 1,000 ticks outside the master rack; the operand is the departure's nanosecond (R62). DESIGN CHOICE: none begins in
holdover, since R62 does not say whether it does (log entry 43). -/
def execTimeExchange (ns : Nat) (s : State) : Host.Outcome State Fault Refusal :=
  act (s.pkg.tick.phaseLocked && decide (s.pkg.tick.count % 1000 = 0))
    (fun p => match ownEntry p with
      | some e => if e.masterRack = false ∧ e.hasUp = true then timeExchangeOp p e.up ns else p
      | none => p) s

/-- A port that carries control records (R353, R355). -/
def carriesControl (p : Pkg) (n : Nat) : Bool := decide (n < 16) && decide (3 ≤ (portOf p n).st)

/-- TIME_REQUEST: answered with the arrival and departure stamps; the request's first symbol crossed the plane in an earlier tick (R65,
R66, R387). -/
def execTimeRequest (port : Nat) (rec : Bytes) (arrive : Arrival) (departNs : Nat) (s : State) : Host.Outcome State Fault Refusal :=
  act (carriesControl s.pkg port && decide (rec.length = 152 ∧ fieldAt rec 0 1 = 2))
    (fun p => sendControl p port
      (timeRec 3 (fieldAt rec 2 2) ((rec.drop 8).take 10) (stampAgo p arrive.ago arrive.ns) (stampBytes p departNs))) s

/-- One exchange succeeds with an offset in half nanoseconds (R62, R63). -/
def exchangeDone (p : Pkg) (half : Int) : Pkg :=
  let offs := (p.tick.offsets ++ [half]).drop (p.tick.offsets.length + 1 - 8)
  let sum : Int := offs.foldl (· + ·) 0
  let ps : Int := sum * 500 / offs.length
  let good := decide (sum.natAbs ≤ 40 * offs.length)
  let p1 := { p with
    tick := { p.tick with
              exchange := none, lastExchange := some (now p), failedExch := 0, offsets := offs, offsetPs := ps
              goodAvgs := if good then p.tick.goodAvgs + 1 else 0 } }
  steer (if good then gainAlign p1 else loseAlign p1 1)

/-- The port that the exchanges with the upstream neighbour use (R387). -/
def timePort (p : Pkg) : Option Nat :=
  match ownEntry p with
  | some e => upPortTo p e.up
  | none => none

/-- TIME_RESPONSE: the stamps of a response that comes within 10 µs on the port of the exchange complete it (R62, R387). -/
def execTimeResponse (port : Nat) (rec : Bytes) (arrive : Arrival) (s : State) : Host.Outcome State Fault Refusal :=
  act (carriesControl s.pkg port && decide (rec.length = 152 ∧ fieldAt rec 0 1 = 3 ∧ timePort s.pkg = some port))
    (fun p => match p.tick.exchange with
      | none => p
      | some (x, t1) =>
        if fieldAt rec 2 2 = x ∧ now p ≤ t1 + 100 then
          let t4 := stampNs (stampAgo p arrive.ago arrive.ns) 0
          exchangeDone p ((stampNs rec 24 - stampNs rec 8) - (t4 - stampNs rec 40))
        else p) s

/-- TICK_CTRL_WRITE (R70, R71). -/
def execTickCtrlWrite (fn : Nat) (value : Word32) (s : State) : Host.Outcome State Fault Refusal :=
  act (latest (.tickCtrlWrite fn value) s) (fun p => pfWrite p fn 0x0010000C fun q => { q with tick := { q.tick with ctrl := value.toNat % 8 } }) s

end Sys2Proof.Machine
end

