-- ==== Sys2Proof/Machine/WeightFam.lean ====
section
/-! DEFINITION. Meanings of the weight store's commands (R224 to R246). -/

namespace Sys2Proof.Machine

/-- IMPRINT_WRITE: the next descriptor of the ring, when it is an IMPRINT_SHARD WRITE (R225, R226). -/
def execImprintWrite (ctx : Nat) (s : State) : Host.Outcome State Fault Refusal :=
  act ((due s.pkg (.ring ctx) 8).all fun d => decide (impOp d = 1)) (fun p => evalDesc p (.ring ctx) 8 imprintWriteOp) s

/-- IMPRINT_RETIRE: the next descriptor of the ring, when it is an IMPRINT_SHARD RETIRE (R225, R228). -/
def execImprintRetire (ctx : Nat) (s : State) : Host.Outcome State Fault Refusal :=
  actS ((due s.pkg (.ring ctx) 8).all fun d => decide (impOp d = 2)) (fun p => evalDesc p (.ring ctx) 8 imprintRetireOp) s

/-- IMPRINT_WRITE_DONE: the stack's present write ends, with the bytes that the host returned (R226). -/
def execImprintWriteDone (stack : Nat) (payload : Option Bytes) (s : State) : Host.Outcome State Fault Refusal :=
  actS (fwRuns s.pkg)
    (fun p => match writingOn p stack with
      | some i =>
        let whole := match payload with | some b => decide (b.length = (slotOf p i.slot).length) | none => true
        if whole then imprintEnd p i payload else p
      | none => p) s

/-- IMPRINT_AUTH_EXPIRY: the expiry tick is sampled (R224). -/
def execImprintAuthExpiry (s : State) : Host.Outcome State Fault Refusal :=
  act (match s.pkg.nvw.auth with | some a => decide (a.expiry ≤ now s.pkg) | none => false)
    (fun p => modNvw p fun n => { n with auth := none }) s

/-- NV_VERIFY_START: once READY is 1 (R230). -/
def execNvVerifyStart (s : State) : Host.Outcome State Fault Refusal :=
  actS (s.pkg.glb.ready && !s.pkg.nvw.verifyBusy && !s.pkg.nvw.verifyDoneLogged)
    (fun p => judgeVerify (modNvw p fun n => { n with verifyBusy := true })) s

/-- NV_SLOT_VERIFY_DONE: an engine ends the slot that is next in its stack's order; the operand says whether it could be read
(R230). -/
def execNvSlotVerifyDone (slot : Nat) (readable : Bool) (s : State) : Host.Outcome State Fault Refusal :=
  actS (fwRuns s.pkg && s.pkg.nvw.verifyBusy && nvUsable s.pkg (slot / 32) &&
      decide (((stackSlots (slot / 32)).find? fun k => decide ((slotOf s.pkg k).st = nvUnverified)) = some slot))
    (fun p => judgeVerify (verifySlot p slot readable)) s

/-- NV_UNCORRECTABLE: a line that a Sled engine reads; the operands are the bytes in error of the first read and, where that cannot be
corrected, of the second (R221, R244). -/
def execNvUncorrectable (slot off : Nat) (reads : LineReads) (s : State) : Host.Outcome State Fault Refusal :=
  actS (fwRuns s.pkg && decide (slot < 256 ∧ off < (slotOf s.pkg slot).length) && readsLines s.pkg slot (inStream s.pkg slot))
    (fun p => lineRead p slot off reads.first reads.again) s

/-- NV_BLOCK_FETCH_DONE: the oldest block fetch from a replica returns its bytes, or an error (R244). -/
def execNvBlockFetchDone (replica : Nat) (data : Option Bytes) (s : State) : Host.Outcome State Fault Refusal :=
  actS (fwRuns s.pkg)
    (fun p => match p.nvw.fetches.find? fun f => decide (f.replica = replica) with
      | some f =>
        let x := replicaOf p f.replica
        let b := f.off / 65536 * 65536
        let n := min 65536 (x.length - b)
        blockArrives (payloadDone p x b n) f (payloadBytes p x b n data)
      | none => p) s

/-- NV_REPAIR_START: a BAD slot with cycles left and a usable replica, when no running step streams from it (R245). -/
def execNvRepairStart (slot : Nat) (s : State) : Host.Outcome State Fault Refusal :=
  actS (fwRuns s.pkg && repairable s.pkg slot && !inStream s.pkg slot)
    (fun p => match nextReplica p slot none with
      | some r => repairFrom p slot r 0
      | none => p) s

/-- NV_REPAIR_DONE: the repair's write of a slot ends with the bytes read, or with none (R245). -/
def execNvRepairDone (slot : Nat) (data : Option Bytes) (s : State) : Host.Outcome State Fault Refusal :=
  actS (fwRuns s.pkg)
    (fun p => match p.nvw.repairs.find? fun r => decide (r.slot = slot) with
      | some r =>
        let x := replicaOf p r.replica
        repairEnd (payloadDone p x 0 x.length) r (payloadBytes p x 0 x.length data)
      | none => p) s

/-- NV_STACK_FAILED (Table 7-5, R246). -/
def execNvStackFailed (stack : Nat) (s : State) : Host.Outcome State Fault Refusal :=
  actS (powered s.pkg && decide (stack < 8) && nvUsable s.pkg stack) (fun p => nvStackFail p stack) s

/-- REPLICA_KIND_WRITE: the physical function writes byte 8 of an entry (R239). -/
def execReplicaKindWrite (fn idx kind : Nat) (s : State) : Host.Outcome State Fault Refusal :=
  act (decide (idx < 1024) && latest (.replicaKindWrite fn idx kind) s)
    (fun p => pfWrite p fn (0x910000 + 64 * idx + 8) fun q => replicaKind q idx (kind % 4)) s

/-- A peer entry is UNCHECKED with its check waiting or running. -/
def beingChecked (p : Pkg) (idx : Nat) : Bool :=
  decide ((replicaOf p idx).kind = 1 ∧ (replicaOf p idx).st = 0) && (replicaOf p idx).checking

/-- REPLICA_CHECK: the registration check of a peer entry, with the header read or none (R240). -/
def execReplicaCheck (idx : Nat) (header : Option Bytes) (s : State) : Host.Outcome State Fault Refusal :=
  act (fwRuns s.pkg && beingChecked s.pkg idx && decide (tget 0 s.pkg.nvw.recheckAt idx = 0))
    (fun p => replicaJudge (headerDone p (replicaOf p idx)) idx (headerBytes p (replicaOf p idx) header)) s

/-- A pen whose set-up is under way with a replica. -/
def settingUpWith (p : Pkg) (idx n : Nat) : Bool :=
  match (penOf p n).step with
  | some t => !t.setupDone && t.replicas.any fun e => decide (e.2 = idx + 1)
  | none => false

/-- The shards of a step that a replica serves. -/
def servedBy (t : Step) (idx : Nat) : List Nat := tkeys (fun _ v => decide (v = idx + 1)) t.replicas

/-- A set-up goes on after an entry that it uses has been checked again: a GOOD one is read, in place of another each of its shards takes
its next usable replica; with none left the step job ends (R240, R241, Table 7-5). -/
def setupRechecked (p : Pkg) (idx n : Nat) : Pkg :=
  let t := stepNow p n
  let x := replicaOf p idx
  let ks := servedBy t idx
  let p1 := modStep p n fun y => { y with unchecked := y.unchecked.filter fun r => decide (r ≠ idx) }
  if x.st = 1 then (if idx ∈ t.unchecked then forAll ks (fun q _ => readReplica q x 0 x.length) p1 else p1)
  else forAll ks (fun q k =>
    match (replicasFor q ((imageOf q n).shards.getD k {})).head? with
    | some r => modStep (fetchFirst q r) n fun y =>
        { y with
          replicas := tset 0 y.replicas k (r + 1)
          unchecked := if (replicaOf q r).kind = 1 ∧ r ∉ y.unchecked then y.unchecked ++ [r] else y.unchecked }
    | none => faultStep q n) p1

/-- REPLICA_RECHECK: a GOOD peer entry is checked again for a BIND or a set-up that uses it, and an UNCHECKED one that could not be reached
10,000 ticks later (R240, R241). -/
def execReplicaRecheck (idx : Nat) (header : Option Bytes) (s : State) : Host.Outcome State Fault Refusal :=
  act (fwRuns s.pkg && (decide ((replicaOf s.pkg idx).kind = 1 ∧ (replicaOf s.pkg idx).st = 1) ||
      (beingChecked s.pkg idx && decide (0 < tget 0 s.pkg.nvw.recheckAt idx ∧ tget 0 s.pkg.nvw.recheckAt idx ≤ now s.pkg))))
    (fun p =>
      let q := modLdr (replicaJudge (headerDone p (replicaOf p idx)) idx (headerBytes p (replicaOf p idx) header))
        fun l => { l with rechecked := if l.st = 1 then l.rechecked ++ [idx] else l.rechecked }
      forAll ((enabledPens q).filter (settingUpWith q idx)) (fun r n => setupRechecked r idx n) q) s

/-- REPLICA_HOST_FETCH_DONE: the registration fetch of a host entry ends (R240). -/
def execReplicaHostFetchDone (idx : Nat) (payload : Option Bytes) (s : State) : Host.Outcome State Fault Refusal :=
  act (fwRuns s.pkg && decide ((replicaOf s.pkg idx).kind = 2 ∧ (replicaOf s.pkg idx).st = 0 ∧ (replicaOf s.pkg idx).checking = true))
    (fun p => replicaHostJudge p idx payload) s

/-- The next usable replica serves a SLOWER shard of a running step, or the step ends (Table 7-5). DESIGN CHOICE: SLOWER_SOURCE_LOST is
recorded when no usable replica remains, and not at each load that fails before (log entry 30). -/
def slowerLost (p : Pkg) (n k r : Nat) : Pkg :=
  let e := (imageOf p n).shards.getD k {}
  match replicaAfter p e r with
  | some r2 =>
    let x := replicaOf p r2
    readReplica (modStep p n fun t => { t with replicas := tset 0 t.replicas k (r2 + 1) }) x 0 x.length
  | none => faultStep (log p codeSlowerSourceLost 0 r e.shard 0) n

/-- A fetch of a whole shard from the slower tier ends (R242, Table 7-5). -/
def slowerFetched (p : Pkg) (n k r : Nat) (payload : Option Bytes) : Pkg :=
  let e := (imageOf p n).shards.getD k {}
  match payload with
  | none => slowerLost p n k r
  | some b =>
    let p1 := modNvw p fun x => { x with slowBytes := satAdd sat32 x.slowBytes b.length }
    if b.length = e.length ∧ sha256 b = e.digest then modStep p1 n fun t => { t with slowDone := tset none t.slowDone k (some b) }
    else
      let p2 := modReplica (modNvw p1 fun x => { x with hashFail := inc32 x.hashFail }) r fun x => { x with st := 2 }
      faultStep (log p2 codeSlowerHashFail 0 r e.shard 0) n

/-- A shard of an image that is being bound, by its entry: what the loader reads of it next when a replica fails to give it. -/
def fillLost (p : Pkg) (k r : Nat) : Pkg :=
  let x := replicaOf p r
  match replicaAfter p { shard := x.shard, length := x.length, digest := x.digest } r with
  | some r2 =>
    readReplica (modLdr p fun l => { l with fillFrom := tset 0 l.fillFrom k (r2 + 1) }) (replicaOf p r2) 0 (replicaOf p r2).length
  | none => modLdr (log p codeSlowerSourceLost 0 r x.shard 0) fun l => { l with fills := tset none l.fills k (some []) }

/-- A whole shard arrives for a FILL: it is hashed, and a mismatch refuses the BIND at check 27 (R242, Table 7-5). -/
def fillFetched (p : Pkg) (k r : Nat) (payload : Option Bytes) : Pkg :=
  match payload with
  | none => fillLost p k r
  | some b =>
    let p1 := modNvw p fun x =>
      { x with
        slowBytes := satAdd sat32 x.slowBytes b.length
        hashFail := if sha256 b = (replicaOf p r).digest then x.hashFail else inc32 x.hashFail }
    modLdr p1 fun l => { l with fills := tset none l.fills k (some b) }

/-- SLOWER_FETCH_DONE: for an entry of the pen's shard list that its running step reads from the slower tier, or that the running BIND of
the pen fetches for a FILL (R242). -/
def execSlowerFetchDone (pen shard : Nat) (payload : Option Bytes) (s : State) : Host.Outcome State Fault Refusal :=
  act (fwRuns s.pkg && decide (tget none (stepNow s.pkg pen).slowDone shard = none))
    (fun p => match tget 0 (stepNow p pen).replicas shard with
      | r + 1 =>
        let x := replicaOf p r
        slowerFetched (payloadDone p x 0 x.length) pen shard r (payloadBytes p x 0 x.length payload)
      | 0 => match tget 0 p.ldr.fillFrom shard, tget none p.ldr.fills shard with
        | f + 1, none =>
          let x := replicaOf p f
          if p.ldr.st = 1 ∧ p.ldr.op = 1 ∧ p.ldr.pen = pen then
            fillFetched (payloadDone p x 0 x.length) shard f (payloadBytes p x 0 x.length payload)
          else p
        | _, _ => p) s

end Sys2Proof.Machine
end

