-- ==== Sys2Proof/Machine/Dispatch.lean ====
section
/-! DEFINITION. The dispatch of the commands: one arm per constructor. -/

namespace Sys2Proof.Machine

def exec (i : Instr) (s : State) : Host.Outcome State Fault Refusal :=
  match i with
  | .powerUp => Sys2Proof.Machine.execPowerUp s
  | .vin6Lockout => Sys2Proof.Machine.execVin6Lockout s
  | .auxRailFault => Sys2Proof.Machine.execAuxRailFault s
  | .resetNAssert => Sys2Proof.Machine.execResetNAssert s
  | .resetNRelease => Sys2Proof.Machine.execResetNRelease s
  | .perstAssert => Sys2Proof.Machine.execPerstAssert s
  | .perstRelease => Sys2Proof.Machine.execPerstRelease s
  | .selfTestDone failed => Sys2Proof.Machine.execSelfTestDone failed s
  | .refclkOkSet => Sys2Proof.Machine.execRefclkOkSet s
  | .tickPhaseLock => Sys2Proof.Machine.execTickPhaseLock s
  | .tickSyncMiss => Sys2Proof.Machine.execTickSyncMiss s
  | .tickSyncPhaseErr => Sys2Proof.Machine.execTickSyncPhaseErr s
  | .refclkLost cause => Sys2Proof.Machine.execRefclkLost cause s
  | .refclkRelock => Sys2Proof.Machine.execRefclkRelock s
  | .countLoad => Sys2Proof.Machine.execCountLoad s
  | .timeExchange ns => Sys2Proof.Machine.execTimeExchange ns s
  | .timeRequest port rec arrive departNs => Sys2Proof.Machine.execTimeRequest port rec arrive departNs s
  | .timeResponse port rec arrive => Sys2Proof.Machine.execTimeResponse port rec arrive s
  | .tickCtrlWrite fn value => Sys2Proof.Machine.execTickCtrlWrite fn value s
  | .bar0Write fn off size value => Sys2Proof.Machine.execBar0Write fn off size value s
  | .bar0AccessInvalid fn off size => Sys2Proof.Machine.execBar0AccessInvalid fn off size s
  | .bind fn pen => Sys2Proof.Machine.execBind fn pen s
  | .unbind fn pen => Sys2Proof.Machine.execUnbind fn pen s
  | .bindComplete image placed => Sys2Proof.Machine.execBindComplete image placed s
  | .unbindComplete => Sys2Proof.Machine.execUnbindComplete s
  | .penEnable fn pen value => Sys2Proof.Machine.execPenEnable fn pen value s
  | .penDisable fn pen value => Sys2Proof.Machine.execPenDisable fn pen value s
  | .penBudgetWrite fn pen off value => Sys2Proof.Machine.execPenBudgetWrite fn pen off value s
  | .penActivate pen => Sys2Proof.Machine.execPenActivate pen s
  | .predStepRefresh => Sys2Proof.Machine.execPredStepRefresh s
  | .stepSetupStart pen => Sys2Proof.Machine.execStepSetupStart pen s
  | .setupComplete pen => Sys2Proof.Machine.execSetupComplete pen s
  | .stepRelease pen => Sys2Proof.Machine.execStepRelease pen s
  | .segmentStart pen seg => Sys2Proof.Machine.execSegmentStart pen seg s
  | .segmentSwitch array => Sys2Proof.Machine.execSegmentSwitch array s
  | .stepDone pen => Sys2Proof.Machine.execStepDone pen s
  | .mma array => Sys2Proof.Machine.execMma array s
  | .fuse2 array => Sys2Proof.Machine.execFuse2 array s
  | .rowfn array => Sys2Proof.Machine.execRowfn array s
  | .loadw array => Sys2Proof.Machine.execLoadw array s
  | .loada array => Sys2Proof.Machine.execLoada array s
  | .store array => Sys2Proof.Machine.execStore array s
  | .storeRowstate array => Sys2Proof.Machine.execStoreRowstate array s
  | .maskset array => Sys2Proof.Machine.execMaskset array s
  | .syncDrain array => Sys2Proof.Machine.execSyncDrain array s
  | .syncBarrier array => Sys2Proof.Machine.execSyncBarrier array s
  | .syncArrive array => Sys2Proof.Machine.execSyncArrive array s
  | .syncWait array => Sys2Proof.Machine.execSyncWait array s
  | .syncLayerEnd array => Sys2Proof.Machine.execSyncLayerEnd array s
  | .syncEnd array => Sys2Proof.Machine.execSyncEnd array s
  | .score array => Sys2Proof.Machine.execScore array s
  | .barrierComplete pen barrier => Sys2Proof.Machine.execBarrierComplete pen barrier s
  | .layerDone pen layer => Sys2Proof.Machine.execLayerDone pen layer s
  | .countRecord pen slot rec => Sys2Proof.Machine.execCountRecord pen slot rec s
  | .dispatchMark pen slot word => Sys2Proof.Machine.execDispatchMark pen slot word s
  | .freeMark pen slot word => Sys2Proof.Machine.execFreeMark pen slot word s
  | .combineMark pen slot word => Sys2Proof.Machine.execCombineMark pen slot word s
  | .dispatchPiece pen off data => Sys2Proof.Machine.execDispatchPiece pen off data s
  | .dispatchTagRun pen off data => Sys2Proof.Machine.execDispatchTagRun pen off data s
  | .combineStore pen off data => Sys2Proof.Machine.execCombineStore pen off data s
  | .recvGateComplete pen half => Sys2Proof.Machine.execRecvGateComplete pen half s
  | .combGateComplete pen half => Sys2Proof.Machine.execCombGateComplete pen half s
  | .exchangeWatchdog pen => Sys2Proof.Machine.execExchangeWatchdog pen s
  | .imprintWrite ctx => Sys2Proof.Machine.execImprintWrite ctx s
  | .imprintRetire ctx => Sys2Proof.Machine.execImprintRetire ctx s
  | .imprintWriteDone stack payload => Sys2Proof.Machine.execImprintWriteDone stack payload s
  | .imprintAuthExpiry => Sys2Proof.Machine.execImprintAuthExpiry s
  | .nvVerifyStart => Sys2Proof.Machine.execNvVerifyStart s
  | .nvSlotVerifyDone slot readable => Sys2Proof.Machine.execNvSlotVerifyDone slot readable s
  | .nvUncorrectable slot off reads => Sys2Proof.Machine.execNvUncorrectable slot off reads s
  | .nvBlockFetchDone replica data => Sys2Proof.Machine.execNvBlockFetchDone replica data s
  | .nvRepairStart slot => Sys2Proof.Machine.execNvRepairStart slot s
  | .nvRepairDone slot data => Sys2Proof.Machine.execNvRepairDone slot data s
  | .nvStackFailed stack => Sys2Proof.Machine.execNvStackFailed stack s
  | .replicaKindWrite fn idx kind => Sys2Proof.Machine.execReplicaKindWrite fn idx kind s
  | .replicaCheck idx header => Sys2Proof.Machine.execReplicaCheck idx header s
  | .replicaRecheck idx header => Sys2Proof.Machine.execReplicaRecheck idx header s
  | .replicaHostFetchDone idx payload => Sys2Proof.Machine.execReplicaHostFetchDone idx payload s
  | .slowerFetchDone pen shard payload => Sys2Proof.Machine.execSlowerFetchDone pen shard payload s
  | .ctxEnable fn ctx value => Sys2Proof.Machine.execCtxEnable fn ctx value s
  | .ctxDisable fn ctx value => Sys2Proof.Machine.execCtxDisable fn ctx value s
  | .ctxCmdReset fn ctx => Sys2Proof.Machine.execCtxCmdReset fn ctx s
  | .contextResetDone ctx failed => Sys2Proof.Machine.execContextResetDone ctx failed s
  | .flrVf vf => Sys2Proof.Machine.execFlrVf vf s
  | .flrPf => Sys2Proof.Machine.execFlrPf s
  | .vfEnableClear numVfs => Sys2Proof.Machine.execVfEnableClear numVfs s
  | .hostLinkDown ltssm => Sys2Proof.Machine.execHostLinkDown ltssm s
  | .ringWriteFailed ctx ring => Sys2Proof.Machine.execRingWriteFailed ctx ring s
  | .dbSqTail fn ctx value => Sys2Proof.Machine.execDbSqTail fn ctx value s
  | .dbCqHead fn ctx value => Sys2Proof.Machine.execDbCqHead fn ctx value s
  | .dbEqHead fn ctx value => Sys2Proof.Machine.execDbEqHead fn ctx value s
  | .descriptorFetchDone ctx data => Sys2Proof.Machine.execDescriptorFetchDone ctx data s
  | .admitReq src => Sys2Proof.Machine.execAdmitReq src s
  | .append src => Sys2Proof.Machine.execAppend src s
  | .cancel src => Sys2Proof.Machine.execCancel src s
  | .pause src => Sys2Proof.Machine.execPause src s
  | .resume src => Sys2Proof.Machine.execResume src s
  | .hint ctx => Sys2Proof.Machine.execHint ctx s
  | .fence ctx => Sys2Proof.Machine.execFence ctx s
  | .fenceComplete ctx => Sys2Proof.Machine.execFenceComplete ctx s
  | .rollcall ctx => Sys2Proof.Machine.execRollcall ctx s
  | .rollcallDone ctx => Sys2Proof.Machine.execRollcallDone ctx s
  | .setSampling src => Sys2Proof.Machine.execSetSampling src s
  | .irqModerationTime ctx ring => Sys2Proof.Machine.execIrqModerationTime ctx ring s
  | .admitHoldExpiry entry => Sys2Proof.Machine.execAdmitHoldExpiry entry s
  | .promptReadDone entry tokens => Sys2Proof.Machine.execPromptReadDone entry tokens s
  | .appendReadDone entry tokens => Sys2Proof.Machine.execAppendReadDone entry tokens s
  | .deadlineMissed entry => Sys2Proof.Machine.execDeadlineMissed entry s
  | .ttlExpiry entry => Sys2Proof.Machine.execTtlExpiry entry s
  | .slotWord pen off word => Sys2Proof.Machine.execSlotWord pen off word s
  | .candidateRecord pen off rec => Sys2Proof.Machine.execCandidateRecord pen off rec s
  | .tokenSelect pen slot => Sys2Proof.Machine.execTokenSelect pen slot s
  | .kvHostCopyDone pen data => Sys2Proof.Machine.execKvHostCopyDone pen data s
  | .kvCowCopyDone pen frame => Sys2Proof.Machine.execKvCowCopyDone pen frame s
  | .swapReturn pen => Sys2Proof.Machine.execSwapReturn pen s
  | .contextSwap pen => Sys2Proof.Machine.execContextSwap pen s
  | .portEnable fn port value => Sys2Proof.Machine.execPortEnable fn port value s
  | .portLightDetect port => Sys2Proof.Machine.execPortLightDetect port s
  | .portTrainPhaseDone port => Sys2Proof.Machine.execPortTrainPhaseDone port s
  | .portTrainTimeout port => Sys2Proof.Machine.execPortTrainTimeout port s
  | .collarRecord port rec => Sys2Proof.Machine.execCollarRecord port rec s
  | .portDown port cause => Sys2Proof.Machine.execPortDown port cause s
  | .flitReceive port flit errs => Sys2Proof.Machine.execFlitReceive port flit errs s
  | .packetForward port pkt => Sys2Proof.Machine.execPacketForward port pkt s
  | .packetLoad port pkt => Sys2Proof.Machine.execPacketLoad port pkt s
  | .packetStore port pkt => Sys2Proof.Machine.execPacketStore port pkt s
  | .packetAtomic port pkt => Sys2Proof.Machine.execPacketAtomic port pkt s
  | .loadResp port pkt => Sys2Proof.Machine.execLoadResp port pkt s
  | .storeAck port pkt => Sys2Proof.Machine.execStoreAck port pkt s
  | .atomicResp port pkt => Sys2Proof.Machine.execAtomicResp port pkt s
  | .fabricFenceComplete srcId => Sys2Proof.Machine.execFabricFenceComplete srcId s
  | .loadTimeout tag => Sys2Proof.Machine.execLoadTimeout tag s
  | .storeTimeout tag => Sys2Proof.Machine.execStoreTimeout tag s
  | .livenessProbe chip => Sys2Proof.Machine.execLivenessProbe chip s
  | .memberUnreached pen member => Sys2Proof.Machine.execMemberUnreached pen member s
  | .fenceNotice port pkt => Sys2Proof.Machine.execFenceNotice port pkt s
  | .planTakesEffect => Sys2Proof.Machine.execPlanTakesEffect s
  | .pkfProbeGo fn value => Sys2Proof.Machine.execPkfProbeGo fn value s
  | .pkfRrcInvalidate fn value => Sys2Proof.Machine.execPkfRrcInvalidate fn value s
  | .leashTick m => Sys2Proof.Machine.execLeashTick m s
  | .lshCapNextCommit fn => Sys2Proof.Machine.execLshCapNextCommit fn s
  | .capSoftApplied => Sys2Proof.Machine.execCapSoftApplied s
  | .capHardApplied => Sys2Proof.Machine.execCapHardApplied s
  | .capReleaseApplied => Sys2Proof.Machine.execCapReleaseApplied s
  | .powerEmergency cond amps => Sys2Proof.Machine.execPowerEmergency cond amps s
  | .emergencyEnd => Sys2Proof.Machine.execEmergencyEnd s
  | .throttleStart array tj => Sys2Proof.Machine.execThrottleStart array tj s
  | .throttleStep quadrant tjs => Sys2Proof.Machine.execThrottleStep quadrant tjs s
  | .thermalEmergency kind index temp => Sys2Proof.Machine.execThermalEmergency kind index temp s
  | .thermtrip die => Sys2Proof.Machine.execThermtrip die s
  | .thermtripLatchClear => Sys2Proof.Machine.execThermtripLatchClear s
  | .beatRateCheck samples => Sys2Proof.Machine.execBeatRateCheck samples s
  | .arrayWatchdog array => Sys2Proof.Machine.execArrayWatchdog array s
  | .sramUncorrectable array => Sys2Proof.Machine.execSramUncorrectable array s
  | .arraySelftestDone array pass ticks => Sys2Proof.Machine.execArraySelftestDone array pass ticks s
  | .dramUncorrectable stack pen loc => Sys2Proof.Machine.execDramUncorrectable stack pen loc s
  | .dramStackFailed stack cause => Sys2Proof.Machine.execDramStackFailed stack cause s
  | .fwFault core code => Sys2Proof.Machine.execFwFault core code s
  | .scentQueueDrain => Sys2Proof.Machine.execScentQueueDrain s
  | .scnClearCmd fn => Sys2Proof.Machine.execScnClearCmd fn s
  | .scnCtrlWrite fn value => Sys2Proof.Machine.execScnCtrlWrite fn value s
  | .clearAuthExpiry => Sys2Proof.Machine.execClearAuthExpiry s
  | .houndBind fn ctx => Sys2Proof.Machine.execHoundBind fn ctx s
  | .houndUnbind fn ctx => Sys2Proof.Machine.execHoundUnbind fn ctx s
  | .houndImageLoaded ctx image => Sys2Proof.Machine.execHoundImageLoaded ctx image s
  | .hndMbCmdTail core value mem => Sys2Proof.Machine.execHndMbCmdTail core value mem s
  | .hndMbReplyHead core value mem => Sys2Proof.Machine.execHndMbReplyHead core value mem s
  | .hndTqHead ctx value mem => Sys2Proof.Machine.execHndTqHead ctx value mem s
  | .hndFqLoad ctx tail mem => Sys2Proof.Machine.execHndFqLoad ctx tail mem s
  | .hndFqStore ctx tail mem => Sys2Proof.Machine.execHndFqStore ctx tail mem s
  | .hndFqAtomic ctx tail mem => Sys2Proof.Machine.execHndFqAtomic ctx tail mem s
  | .hndFqFence ctx tail mem => Sys2Proof.Machine.execHndFqFence ctx tail mem s
  | .ecallExit core a0 mem => Sys2Proof.Machine.execEcallExit core a0 mem s
  | .ecallWait core a0 mem => Sys2Proof.Machine.execEcallWait core a0 mem s
  | .houndWake core => Sys2Proof.Machine.execHoundWake core s
  | .houndFault ctx core kind code pc tval => Sys2Proof.Machine.execHoundFault ctx core kind code pc tval s
  | .lease path msg => Sys2Proof.Machine.execLease path msg s
  | .release path msg => Sys2Proof.Machine.execRelease path msg s
  | .leaseExpired => Sys2Proof.Machine.execLeaseExpired s
  | .epoch path msg => Sys2Proof.Machine.execEpoch path msg s
  | .setCount path msg => Sys2Proof.Machine.execSetCount path msg s
  | .cap path msg => Sys2Proof.Machine.execCap path msg s
  | .planWrite path msg => Sys2Proof.Machine.execPlanWrite path msg s
  | .planCommit path msg => Sys2Proof.Machine.execPlanCommit path msg s
  | .readmit path msg => Sys2Proof.Machine.execReadmit path msg s
  | .fenceGroup path msg => Sys2Proof.Machine.execFenceGroup path msg s
  | .groupWrite path msg => Sys2Proof.Machine.execGroupWrite path msg s
  | .resumeGroup path msg => Sys2Proof.Machine.execResumeGroup path msg s
  | .memberLost path msg => Sys2Proof.Machine.execMemberLost path msg s
  | .imprintAuth path msg => Sys2Proof.Machine.execImprintAuth path msg s
  | .clearAuth path msg => Sys2Proof.Machine.execClearAuth path msg s
  | .logClear path msg => Sys2Proof.Machine.execLogClear path msg s
  | .quarantine path msg => Sys2Proof.Machine.execQuarantine path msg s
  | .arrayRelease path msg => Sys2Proof.Machine.execArrayRelease path msg s
  | .penReset path msg => Sys2Proof.Machine.execPenReset path msg s
  | .warmReset path msg => Sys2Proof.Machine.execWarmReset path msg s
  | .portReeval path msg => Sys2Proof.Machine.execPortReeval path msg s
  | .inspect path msg => Sys2Proof.Machine.execInspect path msg s
  | .status path msg => Sys2Proof.Machine.execStatus path msg s
  | .namedTickAction op => Sys2Proof.Machine.execNamedTickAction op s
  | .inspectLevelStep port => Sys2Proof.Machine.execInspectLevelStep port s
  | .inspectionRecord port rec rx => Sys2Proof.Machine.execInspectionRecord port rec rx s
  | .inspectTimeout port => Sys2Proof.Machine.execInspectTimeout port s
  | .i3cPrivateWrite msg => Sys2Proof.Machine.execI3cPrivateWrite msg s
  | .i3cPrivateRead => Sys2Proof.Machine.execI3cPrivateRead s
  | .entdaa addr => Sys2Proof.Machine.execEntdaa addr s
  | .rstdaa => Sys2Proof.Machine.execRstdaa s
  | .getpid => Sys2Proof.Machine.execGetpid s
  | .getbcr => Sys2Proof.Machine.execGetbcr s
  | .getdcr => Sys2Proof.Machine.execGetdcr s
  | .setmrl len => Sys2Proof.Machine.execSetmrl len s
  | .enec events => Sys2Proof.Machine.execEnec events s
  | .disec events => Sys2Proof.Machine.execDisec events s
  | .tickBoundary => Sys2Proof.Machine.execTickBoundary s
  | .tickSyncEdge => Sys2Proof.Machine.execTickSyncEdge s
  | .refclkOutOfRange => Sys2Proof.Machine.execRefclkOutOfRange s
  | .engineFault kind index => Sys2Proof.Machine.execEngineFault kind index s
  | .laneMeasurementRefresh samples => Sys2Proof.Machine.execLaneMeasurementRefresh samples s
  | .hndRingBaseWrite core off write mem => Sys2Proof.Machine.execHndRingBaseWrite core off write mem s

end Sys2Proof.Machine
end

