-- ==== Sys2Proof/Safety.lean ====
section
/-! DEFINITION. What the statements are said with: a command's next state, the parts of the package that a command may change, the
invariant of a step, and the canonical form of the block's memories. -/

namespace Sys2Proof.Machine

/-- A step goes on: it answers a next state. -/
def StepsOn (s : State) : Prop := ∃ t, step s = .next t

/-- The command answers a next state: the queue as it stands, and a package of which the property holds. -/
def Does (c : Instr) (s : State) (post : Pkg → Prop) : Prop := ∃ q : Pkg, exec c s = .next { s with pkg := q } ∧ post q

/-- The command answers the state as it is. -/
def Idles (c : Instr) (s : State) : Prop := exec c s = .next s

/-- The parts of the package; `out` is what it sends, with the MSI-X messages that wait behind a mask. -/
inductive Area where
  | pins | tick | glb | scn | arrays | ldr | pens | nvw | ctxs | numVfs | reqs | lastGen | rq | kvp | fab | lsh | hnd | mgt | i3c | out
  | freeCtr
deriving DecidableEq, Repr

/-- A part is the same in two packages. -/
def Area.same : Area → Pkg → Pkg → Prop
  | .pins, p, q => q.pins = p.pins
  | .tick, p, q => q.tick = p.tick
  | .glb, p, q => q.glb = p.glb
  | .scn, p, q => q.scn = p.scn
  | .arrays, p, q => q.arrays = p.arrays
  | .ldr, p, q => q.ldr = p.ldr
  | .pens, p, q => q.pens = p.pens
  | .nvw, p, q => q.nvw = p.nvw
  | .ctxs, p, q => q.ctxs = p.ctxs
  | .numVfs, p, q => q.numVfs = p.numVfs
  | .reqs, p, q => q.reqs = p.reqs
  | .lastGen, p, q => q.lastGen = p.lastGen
  | .rq, p, q => q.rq = p.rq
  | .kvp, p, q => q.kvp = p.kvp
  | .fab, p, q => q.fab = p.fab
  | .lsh, p, q => q.lsh = p.lsh
  | .hnd, p, q => q.hnd = p.hnd
  | .mgt, p, q => q.mgt = p.mgt
  | .i3c, p, q => q.i3c = p.i3c
  | .out, p, q => q.out = p.out ∧ q.pba = p.pba
  | .freeCtr, p, q => q.freeCtr = p.freeCtr

/-- Whenever the command answers a next state, every part not listed is as it was, and so is the queue. -/
def ChangesOnly (c : Instr) (l : List Area) : Prop :=
  ∀ s t : State, exec c s = .next t → t.pending = s.pending ∧ ∀ x : Area, x ∉ l → x.same s.pkg t.pkg

/-- The invariant of a step: READY stands only with SELF_TEST_DONE, TICK_LOCKED and no firmware fault (R46); the tick is phase-locked
only on a REFCLK in range, or on one found out of range whose loss is due to be declared, and never in holdover (R57, R61); at most 63 virtual functions are enabled (R252). -/
def StepInv (s : State) : Prop :=
  (s.pkg.glb.ready = true → s.pkg.glb.selfTestDone = true ∧ s.pkg.tick.phaseLocked = true ∧ s.pkg.glb.fwFault = false) ∧
    (s.pkg.tick.phaseLocked = true →
      (s.pkg.tick.refclkOk = true ∨ s.pkg.tick.lossDue = true) ∧ s.pkg.tick.holdover = false) ∧ s.pkg.numVfs ≤ 63

/-- The byte memories of the package: local SRAM and its saved copies, buffers, frames, program memories and the plan's staging
area. -/
def memories (p : Pkg) : List (Tab Byte) :=
  (p.arrays.flatMap fun a => a.2.data.sram :: (match a.2.saved with | some d => [d.sram] | none => [])) ++
    (p.pens.flatMap fun x => (x.2.bufs.map fun b => b.2.data) ++ (x.2.pool.tab.map fun f => f.2.data)) ++
    (p.hnd.binds.map fun b => b.2.mem) ++ [p.mgt.staging]

/-- Every byte memory has the canonical form: addresses strictly rising, and no byte listed that an unlisted address reads as. -/
def Memory.wf (p : Pkg) : Bool := (memories p).all (twf 0)

end Sys2Proof.Machine
end

