-- ==== Sys2Proof/Certificates/Slice0/Obligations.lean ====
section
/-! DEFINITION. The statements for the provers: the queue and the step, the invariant, what each command does, and what it leaves as it
is. A statement of what a command does names what must hold of the state and the operands, and has as its conclusion the next state;
what a state must hold is met by a state of Tests/Slice0.lean. -/

open Sys2Proof Sys2Proof.Machine

/-! ### The step, the queue and the invariant -/

/-- One step takes the command at the front of the queue and is `exec` of it on the state with the queue's rest. -/
def Obligations.StepRunsTheFrontCommand : Prop :=
  ∀ (c : Instr) (rest : List Instr) (s : State), step { s with pending := c :: rest } = exec c { s with pending := rest }

/-- On an empty queue the block idles (the model's choice, log entry 2).
No command stops the block: every command, whatever its operands and whatever the state, answers a next state with the queue as it
stands, so that a step takes exactly one command from the queue. (That an event which names no part of the package, or cannot arise in the
present state, leaves the package as it is and does not stop the block is the model's choice, log entry 1.) -/
def Obligations.EveryCommandGoesOn : Prop :=
  (∀ s : State, s.pending = [] → step s = .next s) ∧
  ((∀ (c : Instr) (s : State), ∃ q : Pkg, exec c s = .next { s with pkg := q }) ∧
    ∀ (c : Instr) (rest : List Instr) (s : State), ∃ q : Pkg, step { s with pending := c :: rest } = .next { s with pkg := q, pending := rest })

/-- What reset leaves: the queue is empty, the tick has not locked and counts from 0, self-test has not run, READY is 0, no pen is enabled, no
context is enabled, no request is held, the epoch is 0, and no lease is held. The model's choices among it: reset is the package after its
first power-up, at power cycle 1, with the RESET_COLD of that power-up in slot 0 of its log (log entries 5 and 6), and the levels of the pins
(log entry 9).
The invariant of a step holds at reset, and every byte memory is in canonical form.
Two tables in canonical form that read equal at every key are equal, so equal register files and equal memories are equal data. -/
def Obligations.ResetState : Prop :=
  (State.reset.pending = [] ∧
    (let p := State.reset.pkg
     p.tick.count = 0 ∧ p.tick.phaseLocked = false ∧ p.tick.ctrl = 7 ∧ p.glb.selfTestDone = false ∧ p.glb.ready = false ∧
       (∀ n, (penOf p n).enable = false ∧ (penOf p n).st = penDisabled) ∧
       (∀ c, (ctxOf p c).enable = false ∧ (ctxOf p c).st = ctxDisabled ∧ (ctxOf p c).gen = 1) ∧ (∀ e, (reqOf p e).st = rqFree) ∧
       p.mgt.epoch = 0 ∧ p.mgt.lease = false ∧ p.scn.powerCycles = 1 ∧ (tget {} p.scn.slots 0).code = codeResetCold ∧
       p.pins.pwrGood = false ∧ p.pins.thermtripN = true)) ∧
  (StepInv State.reset) ∧
  (Memory.wf State.reset.pkg = true) ∧
  ((∀ t u : Tab Byte, twf 0 t = true → twf 0 u = true → (∀ k, tget 0 t k = tget 0 u k) → t = u) ∧
    (∀ t u : Tab Pen, twf {} t = true → twf {} u = true → (∀ k, tget {} t k = tget {} u k) → t = u) ∧
      ∀ t u : Tab Req, twf {} t = true → twf {} u = true → (∀ k, tget {} t k = tget {} u k) → t = u)

/-- Every step keeps the invariant: READY only with SELF_TEST_DONE, TICK_LOCKED and no firmware fault, the lock only on a REFCLK in range
or with its loss due, and out of holdover, and at most 63 virtual functions. -/
def Obligations.StepKeepsInv : Prop := ∀ s t : State, StepInv s → step s = .next t → StepInv t

/-- Every step keeps the canonical form of every byte memory of the package: local SRAM and its saved copies, buffers, frames, the memories of
Hound programs and the plan's staging area. A byte that holds what an unlisted address reads as is not listed, whatever the command wrote, so
memories that read alike stay equal data. -/
def Obligations.StepKeepsMemory : Prop :=
  ∀ s t : State, Memory.wf s.pkg = true → step s = .next t → Memory.wf t.pkg = true

/-! ### Supply, reset pins and the trip latch -/

/-- What a cold reset leaves of a package (R432, R433): everything at its reset value but the pins, the Scent log, the NV slots, the die
of a trip and the message sequence numbers. Slots that were VERIFIED are UNVERIFIED, and no slot is claimed. -/
def coldFresh (p q : Pkg) : Prop :=
  q.tick = {} ∧ q.glb = {} ∧ q.arrays = [] ∧ q.ldr = {} ∧ q.pens = [] ∧ q.ctxs = [] ∧ q.numVfs = 0 ∧ q.reqs = [] ∧ q.lastGen = [] ∧
    q.rq = {} ∧ q.kvp = {} ∧ q.fab = {} ∧ q.lsh = { tripDie := p.lsh.tripDie } ∧ q.hnd = {} ∧ q.mgt = { seqHw := p.mgt.seqHw } ∧
    q.i3c = {} ∧ q.out = p.out ∧ q.nvw = { slots := tmap {} (slotAfterReset p.nvw.repairs) p.nvw.slots }

/-- POWER_UP, VIN6_LOCKOUT, AUX_RAIL_FAULT and RESET_N_ASSERT: a rise of VIN6 is a power-up and adds 1 to the power-cycle count; a fall,
a lost auxiliary rail and a RESET_N that is heeded are a cold reset; a RESET_N that is not heeded moves its pin alone. The hold of a lost
rail lasts through a lockout, until RESET_N is cycled. (What a cold reset leaves of an interrupted repair, that RESET_N low at a power-up ends
the hold, and the reset values of the I3C target are the model's readings, log entries 16, 18 and 8.) -/
def Obligations.ColdResetCommands : Prop :=
  (∀ s : State, s.pkg.pins.vinOk = false → Does .powerUp s fun q =>
      q.pins.vinOk = true ∧ q.pins.auxHold = (s.pkg.pins.auxHold && s.pkg.pins.resetN) ∧ q.scn.powerCycles = s.pkg.scn.powerCycles + 1 ∧ q.lsh.tripDie = none ∧
        q.pins.pwrGood = (s.pkg.pins.pwrGood || (!s.pkg.pins.auxHold && s.pkg.pins.resetN && s.pkg.pins.thermtripN))) ∧
  (∀ s : State, s.pkg.pins.vinOk = true → Does .vin6Lockout s fun q =>
      coldFresh s.pkg q ∧ (s.pkg.nvw.imprints = [] → q.scn.slots = s.pkg.scn.slots) ∧
        q.pins = { s.pkg.pins with vinOk := false, pwrGood := false, alertN := false }) ∧
  (∀ s : State, s.pkg.pins.vinOk = true → s.pkg.pins.auxHold = false → Does .auxRailFault s fun q =>
      coldFresh s.pkg q ∧ q.scn.powerCycles = s.pkg.scn.powerCycles ∧
        q.pins = { s.pkg.pins with auxHold := true, pwrGood := false, alertN := false }) ∧
  (∀ s : State, s.pkg.pins.resetN = true → s.pkg.pins.vinOk = true → s.pkg.pins.thermtripN = true → Does .resetNAssert s fun q =>
      coldFresh s.pkg q ∧ q.scn.powerCycles = s.pkg.scn.powerCycles ∧
        q.pins = { s.pkg.pins with resetN := false, auxHold := false, alertN := false }) ∧
  ∀ s : State, s.pkg.pins.resetN = true → (s.pkg.pins.vinOk = false ∨ s.pkg.pins.thermtripN = false) →
    exec .resetNAssert s = .next { s with pkg := { s.pkg with pins := { s.pkg.pins with resetN := false } } }

/-- RESET_N_RELEASE, PERST_RELEASE, THERMTRIP and THERMTRIP_LATCH_CLEAR: once RESET_N is high in a package with VIN6 and the auxiliary rails
in range and no trip, PWR_GOOD is released, and the host link trains when PERST# is high too; a trip, below VIN6 lockout too, holds the package
stopped and keeps its die for the record at the next power-up, until VIN6 has been away. -/
def Obligations.PinCommands : Prop :=
  (∀ s : State, s.pkg.pins.resetN = false → Does .resetNRelease s fun q =>
      q.pins.resetN = true ∧
        (s.pkg.pins.vinOk = true → s.pkg.pins.auxHold = false → s.pkg.pins.thermtripN = true →
          q.pins.pwrGood = true ∧ q.glb.hostLink = s.pkg.pins.perstN)) ∧
  (∀ s : State, s.pkg.pins.perstN = false → Does .perstRelease s fun q =>
      q.pins.perstN = true ∧
        (s.pkg.pins.vinOk = true → s.pkg.pins.auxHold = false → s.pkg.pins.resetN = true → s.pkg.pins.thermtripN = true →
          q.pins.pwrGood = true ∧ q.glb.hostLink = true)) ∧
  (∀ (s : State) (die : Nat), s.pkg.pins.thermtripN = true →
      exec (.thermtrip die) s =
        .next { s with pkg := { s.pkg with pins := { s.pkg.pins with thermtripN := false }, lsh := { s.pkg.lsh with tripDie := some die } } }) ∧
  ∀ s : State, s.pkg.pins.vinOk = false → s.pkg.pins.thermtripN = false →
    exec .thermtripLatchClear s = .next { s with pkg := { s.pkg with pins := { s.pkg.pins with thermtripN := true } } }

/-- PERST_ASSERT in a package that runs is a warm reset: the pens, the contexts' rings, the requests and the lease are gone, every context's
generation rises, the tick goes on without the count that waited (log entry 32), and READY and the host link are 0. (Of the I3C target the
replies are kept and the rest is reset: log entry 8.) With a cold reset sampled in the same tick the pin alone moves. -/
def Obligations.WarmResetByPerst : Prop :=
  (∀ s : State, s.pkg.pins.perstN = true → powered s.pkg = true → coldAhead s = true → Does .perstAssert s fun q =>
    q.pins = { s.pkg.pins with perstN := false } ∧ q.scn = s.pkg.scn ∧ q.pens = s.pkg.pens ∧ q.ctxs = s.pkg.ctxs ∧ q.mgt = s.pkg.mgt) ∧
  ∀ s : State, s.pkg.pins.perstN = true → powered s.pkg = true → coldAhead s = false → Does .perstAssert s fun q =>
    q.pins = { s.pkg.pins with perstN := false } ∧ q.tick = { s.pkg.tick with pendingCount := none } ∧ q.glb.ready = false ∧ q.glb.selfTestDone = false ∧
      q.glb.hostLink = false ∧ q.pens = [] ∧ q.reqs = [] ∧ q.hnd = {} ∧ q.kvp = {} ∧ q.numVfs = 0 ∧ q.mgt.lease = false ∧ q.mgt.epoch = 0 ∧
      q.mgt.stale = true ∧ q.mgt.term = s.pkg.mgt.term ∧ q.fab.plan = s.pkg.fab.plan ∧ q.lastGen = s.pkg.lastGen ∧
      q.i3c = { replies := s.pkg.i3c.replies } ∧
      ∀ c, c < 256 → (ctxOf q c).gen = genNext (ctxOf s.pkg c).gen ∧ (ctxOf q c).st = ctxDisabled

/-! ### The tick -/

/-- REFCLK_OK_SET, TICK_PHASE_LOCK, TICK_SYNC_EDGE, TICK_SYNC_MISS and TICK_SYNC_PHASE_ERR: the count is 0 at the first lock and the package is
READY from it on once self-test is done; the checks of TICK_SYNC count and never move the count.
REFCLK_LOST, REFCLK_OUT_OF_RANGE and REFCLK_RELOCK: a declared loss enters holdover, clears the lock, COUNT_SET and RACK_ALIGNED, drops
READY and makes the package stale, and the count goes on; out of the lock REFCLK_OK alone falls; a relock ends holdover with the count as
holdover left it. -/
def Obligations.TickLockCommands : Prop :=
  ((∀ s : State, powered s.pkg = true → s.pkg.tick.refclkOk = false →
      exec .refclkOkSet s = .next { s with pkg := { s.pkg with tick := { s.pkg.tick with refclkOk := true } } }) ∧
  (∀ s : State, powered s.pkg = true → s.pkg.tick.refclkOk = true → s.pkg.tick.phaseLocked = false → s.pkg.tick.holdover = false →
      Does .tickPhaseLock s fun q =>
        q.tick = { s.pkg.tick with count := 0, phaseLocked := true, syncLast := 0 } ∧
          q.glb.ready = (s.pkg.glb.selfTestDone && !s.pkg.glb.fwFault)) ∧
  (∀ s : State, s.pkg.tick.phaseLocked = true → (masterRack s.pkg = false ∨ s.pkg.tick.count % 10000 = 0) →
      exec .tickSyncEdge s = .next { s with pkg := { s.pkg with tick := { s.pkg.tick with syncLast := s.pkg.tick.count } } }) ∧
  (∀ s : State, s.pkg.tick.phaseLocked = true → s.pkg.tick.count % 10000 = 0 → Does .tickSyncMiss s fun q =>
      q.tick.syncMiss = inc32 s.pkg.tick.syncMiss ∧ q.tick.missSticky = true ∧ q.tick.count = s.pkg.tick.count ∧
        q.tick.phaseErr = s.pkg.tick.phaseErr) ∧
  ∀ s : State, s.pkg.tick.phaseLocked = true → masterRack s.pkg = true → Does .tickSyncPhaseErr s fun q =>
    q.tick.phaseErr = inc32 s.pkg.tick.phaseErr ∧ q.tick.phaseSticky = true ∧ q.tick.count = s.pkg.tick.count ∧
      q.tick.syncMiss = s.pkg.tick.syncMiss) ∧
  ((∀ (s : State) (cause : Nat), s.pkg.tick.phaseLocked = true → Does (.refclkLost cause) s fun q =>
      q.tick.refclkOk = false ∧ q.tick.phaseLocked = false ∧ q.tick.countSet = false ∧ q.tick.rackAligned = false ∧ q.tick.holdover = true ∧
        q.tick.refLostSticky = true ∧ q.tick.count = s.pkg.tick.count ∧ q.mgt.stale = true ∧ q.glb.ready = false ∧ q.pins.alertN = false) ∧
  (∀ s : State, powered s.pkg = true → s.pkg.tick.phaseLocked = false →
      exec .refclkOutOfRange s = .next { s with pkg := { s.pkg with tick := { s.pkg.tick with refclkOk := false } } }) ∧
  ∀ s : State, s.pkg.tick.holdover = true → s.pkg.tick.refclkOk = true → Does .refclkRelock s fun q =>
    q.tick = { s.pkg.tick with phaseLocked := true, holdover := false, syncLast := s.pkg.tick.count } ∧
      q.glb.ready = (s.pkg.glb.selfTestDone && !s.pkg.glb.fwFault))

/-- COUNT_LOAD and TICK_BOUNDARY: a pending count is loaded, at an edge or in holdover at a multiple of 10,000, sets COUNT_SET, and leaves the
difference in TICK_SET_DELTA; with no pending count nothing changes; a boundary adds 1 to the count and keeps the lock, and where no tick
runs it is 100 ns of operating time, while VIN6 is out of lockout (R442; log entry 24).
TIME_EXCHANGE, TIME_REQUEST, TIME_RESPONSE and TICK_CTRL_WRITE: outside the master rack an exchange with a new number begins every 1,000
ticks; a request is answered with its number, its departure stamp and the two stamps of this package, and nothing but the fabric's links and what
is sent changes; a response in time, on the port of the exchange, ends it, with its offset the last of at most 8; the physical function writes TICK_CTRL while READY is 1. -/
def Obligations.CountAndTimeCommands : Prop :=
  ((∀ (s : State) (v : Nat), s.pkg.tick.pendingCount = some v →
      (s.pkg.tick.phaseLocked = true ∨ (s.pkg.tick.holdover = true ∧ s.pkg.tick.count % 10000 = 0)) → Does .countLoad s fun q =>
        q.tick.count = v ∧ q.tick.countSet = true ∧ q.tick.pendingCount = none ∧ q.tick.setDelta = (v : Int) - (s.pkg.tick.count : Int) ∧
          q.tick.phaseLocked = s.pkg.tick.phaseLocked) ∧
  (∀ s : State, s.pkg.tick.pendingCount = none → Idles .countLoad s) ∧
  (∀ s : State, powered s.pkg = true → (s.pkg.tick.phaseLocked = true ∨ s.pkg.tick.holdover = true) → Does .tickBoundary s fun q =>
    q.tick.count = s.pkg.tick.count + 1 ∧ q.tick.phaseLocked = s.pkg.tick.phaseLocked ∧ q.tick.countSet = s.pkg.tick.countSet) ∧
  (∀ s : State, powered s.pkg = false ∨ (s.pkg.tick.phaseLocked = false ∧ s.pkg.tick.holdover = false) →
    (s.pkg.pins.vinOk = true → exec .tickBoundary s =
      .next { s with pkg := { s.pkg with scn := { s.pkg.scn with opTime := s.pkg.scn.opTime + 1 } } }) ∧
    (s.pkg.pins.vinOk = false → Idles .tickBoundary s))) ∧
  ((∀ (s : State) (ns : Nat) (e : PlanChip), s.pkg.tick.phaseLocked = true → s.pkg.tick.count % 1000 = 0 → ownEntry s.pkg = some e →
      e.masterRack = false → e.hasUp = true → Does (.timeExchange ns) s fun q =>
        q.tick.exchSeq = (s.pkg.tick.exchSeq + 1) % 65536 ∧ q.tick.exchange = some ((s.pkg.tick.exchSeq + 1) % 65536, s.pkg.tick.count) ∧
          q.tick.count = s.pkg.tick.count) ∧
  (∀ (s : State) (port : Nat) (rec : Bytes) (ago arrive depart : Nat), carriesControl s.pkg port = true → rec.length = 152 →
      fieldAt rec 0 1 = 2 → Does (.timeRequest port rec ⟨ago, arrive⟩ depart) s fun q =>
        (∃ flits, q.out = s.pkg.out ++ Out.control port (timeRec 3 (fieldAt rec 2 2) ((rec.drop 8).take 10) (stampAgo s.pkg ago arrive)
          (stampBytes s.pkg depart)) :: flits) ∧ ∀ x : Area, x ∉ [Area.fab, .out] → x.same s.pkg q) ∧
  (∀ (s : State) (port : Nat) (rec : Bytes) (ago arrive x t1 : Nat), carriesControl s.pkg port = true → rec.length = 152 →
      fieldAt rec 0 1 = 3 → timePort s.pkg = some port → s.pkg.tick.exchange = some (x, t1) → fieldAt rec 2 2 = x →
      s.pkg.tick.count ≤ t1 + 100 → Does (.timeResponse port rec ⟨ago, arrive⟩) s fun q =>
        q.tick.exchange = none ∧ q.tick.failedExch = 0 ∧ q.tick.lastExchange = some s.pkg.tick.count ∧
          q.tick.offsets.getLast? =
            some ((stampNs rec 24 - stampNs rec 8) - (stampNs (stampAgo s.pkg ago arrive) 0 - stampNs rec 40)) ∧
          q.tick.offsets.length = min 8 (s.pkg.tick.offsets.length + 1) ∧ q.tick.count = s.pkg.tick.count) ∧
  ∀ (s : State) (v : Word32), s.pkg.glb.ready = true → latest (.tickCtrlWrite 0 v) s = true → Does (.tickCtrlWrite 0 v) s fun q => q.tick = { s.pkg.tick with ctrl := v.toNat % 8 })

/-! ### BAR0 -/

/-- READY is 1 and stays so: the package is powered, self-test is done, the tick is locked and the firmware has not stopped. -/
abbrev runsReady (s : State) : Prop :=
  powered s.pkg = true ∧ s.pkg.glb.ready = true ∧ s.pkg.glb.selfTestDone = true ∧ s.pkg.tick.phaseLocked = true ∧ s.pkg.glb.fwFault = false

/-- R39: an access is 4 bytes aligned to 4 or 8 bytes aligned to 8; any other read returns 0, and any other write is ignored; of both
the first in each tick makes one record, BAR_ACCESS_INVALID of the Host class (0x5120, with the function, the offset and the size of Table
14-8), and no other one does. (Before the tick has locked all accesses belong to tick 0, the model's choice, log entry 42; the place of the
record in the log is that of log entry 40.) -/
def Obligations.Bar0AccessRules : Prop :=
  (∀ off size, accessOk off size = true ↔ (size = 4 ∧ off % 4 = 0) ∨ (size = 8 ∧ off % 8 = 0)) ∧
  (∀ (p : Pkg) (fn off size : Nat), accessOk off size = false → bar0Read p fn off size = 0) ∧
  (∀ (s : State) (fn off size : Nat), powered s.pkg = true → fn ≤ s.pkg.numVfs → accessOk off size = false →
      s.pkg.glb.barInvalidAt = some (now s.pkg) → Idles (.bar0AccessInvalid fn off size) s) ∧
  (∀ (s : State) (fn off size : Nat), powered s.pkg = true → fn ≤ s.pkg.numVfs → accessOk off size = false →
      s.pkg.glb.barInvalidAt ≠ some (now s.pkg) → s.pkg.glb.fwFault = false → s.pkg.scn.queue = [] → s.pkg.scn.storedInTick < 16 →
      s.pkg.scn.slots.length < 65536 → Does (.bar0AccessInvalid fn off size) s fun q =>
        q.glb = { s.pkg.glb with barInvalidAt := some (now s.pkg) } ∧ q.scn.storedInTick = s.pkg.scn.storedInTick + 1 ∧
          q.scn.nextSeq = seqNext s.pkg.scn.nextSeq ∧
          (let r := tget {} q.scn.slots q.scn.newestSlot
           r.seq = s.pkg.scn.nextSeq ∧ r.code = codeBarAccessInvalid ∧ r.code / 4096 = 5 ∧ r.p0 = fn % 2 ^ 32 ∧ r.p1 = off % 2 ^ 32 ∧
             r.p2 = size % 2 ^ 32) ∧
          ∀ x : Area, x ∉ [Area.glb, .scn, .out] → x.same s.pkg q) ∧
  ∀ (s : State) (fn off size : Nat) (v : Word64), runsReady s → fn ≤ s.pkg.numVfs → accessOk off size = false →
    exec (.bar0Write fn off size v) s = exec (.bar0AccessInvalid fn off size) s

/-- The halves of a 64-bit register, LDR_ADDR (R40): 8 bytes take effect at once; a lower half is held and the upper one writes the whole;
an upper half alone keeps the lower half's present value; and a held half is lost at a write of another register, here LDR_BYTES.
Until READY is 1, and again after its fall, a write outside SCN_CURSOR changes no register of BAR0 (only the half that a function has
waiting), SCN_CURSOR is written once self-test is done, and reads outside the GLB_, TICK_ and SCN_ blocks return 0 (R43).
A field written with a value that its table does not list keeps what it held, and the rest of the register write takes effect (R11):
KVP_HOST_RATE, REQ_ADMIT_HOLD, PKF_LOAD_TIMEOUT, and of SLED_CTRL the rate and the two tier enables. -/
def Obligations.Bar0Writes : Prop :=
  (∀ (s : State) (v : Word64), runsReady s →
    (latest (.bar0Write 0 0x800000 8 v) s = true →
      Does (.bar0Write 0 0x800000 8 v) s fun q => q.ldr = { s.pkg.ldr with addr := v.toNat }) ∧
    Does (.bar0Write 0 0x800000 4 v) s (fun q =>
      q.ldr = s.pkg.ldr ∧ tget none q.glb.heldLow 0 = some (0x800000, v.toNat % 2 ^ 32)) ∧
    (∀ h : Nat, tget none s.pkg.glb.heldLow 0 = some (0x800000, h) → latest (.bar0Write 0 0x800004 4 v) s = true →
      Does (.bar0Write 0 0x800004 4 v) s fun q =>
      q.ldr = { s.pkg.ldr with addr := h + 2 ^ 32 * (v.toNat % 2 ^ 32) } ∧ tget none q.glb.heldLow 0 = none) ∧
    (tget none s.pkg.glb.heldLow 0 = none → latest (.bar0Write 0 0x800004 4 v) s = true → Does (.bar0Write 0 0x800004 4 v) s fun q =>
      q.ldr = { s.pkg.ldr with addr := s.pkg.ldr.addr % 2 ^ 32 + 2 ^ 32 * (v.toNat % 2 ^ 32) }) ∧
    ∀ h : Nat, tget none s.pkg.glb.heldLow 0 = some (0x800000, h) → latest (.bar0Write 0 0x800008 4 v) s = true →
      Does (.bar0Write 0 0x800008 4 v) s fun q =>
      q.ldr = { s.pkg.ldr with bytes := v.toNat % 2 ^ 32 } ∧ tget none q.glb.heldLow 0 = none) ∧
  ((∀ (s : State) (fn off size : Nat) (v : Word64), powered s.pkg = true → s.pkg.glb.ready = false →
      (s.pkg.glb.selfTestDone = false ∨ s.pkg.tick.phaseLocked = false ∨ s.pkg.glb.fwFault = true) → fn ≤ s.pkg.numVfs →
      accessOk off size = true → off ≠ 0x220001C → (off ≠ 0x2200018 ∨ size ≠ 8) → latest (.bar0Write fn off size v) s = true →
      Does (.bar0Write fn off size v) s fun q =>
        ∃ h, q = { s.pkg with glb := { s.pkg.glb with heldLow := h } }) ∧
  (∀ (s : State) (v : Word64), powered s.pkg = true → s.pkg.glb.ready = false → s.pkg.glb.selfTestDone = true →
      s.pkg.tick.phaseLocked = false → latest (.bar0Write 0 0x220001C 4 v) s = true → Does (.bar0Write 0 0x220001C 4 v) s fun q =>
        q.scn = { s.pkg.scn with cursor := v.toNat % 65536 }) ∧
  ∀ (p : Pkg) (fn off size : Nat), p.glb.ready = false → off / 0x100000 ≠ 0 →
    (p.glb.selfTestDone = true → off / 0x100000 ≠ 1 ∧ off / 0x100000 ≠ 34) → bar0Read p fn off size = 0) ∧
  (∀ (s : State) (v : Word64), runsReady s → (∀ off, latest (.bar0Write 0 off 4 v) s = true) →
    Does (.bar0Write 0 0xD00000 4 v) s (fun q =>
      q.kvp.hostRate = if 1 ≤ v.toNat % 256 ∧ v.toNat % 256 ≤ 100 then v.toNat % 256 else s.pkg.kvp.hostRate) ∧
    Does (.bar0Write 0 0xB0000C 4 v) s (fun q =>
      q.rq.admitHold = if v.toNat % 2 ^ 32 = 0 ∨ v.toNat % 2 ^ 32 = 0xFFFFFFFF then s.pkg.rq.admitHold else v.toNat % 2 ^ 32) ∧
    Does (.bar0Write 0 0x100000C 4 v) s (fun q =>
      q.fab.loadTimeout = if 50 ≤ v.toNat % 2048 ∧ v.toNat % 2048 ≤ 2000 then v.toNat % 2048 else s.pkg.fab.loadTimeout) ∧
    Does (.bar0Write 0 0x900000 4 v) s (fun q =>
      bitsOf q.nvw.sledCtrl 7 0 = (if 1 ≤ v.toNat % 256 ∧ v.toNat % 256 ≤ 200 then v.toNat % 256 else bitsOf s.pkg.nvw.sledCtrl 7 0) ∧
        bitsOf q.nvw.sledCtrl 17 16 = bitsOf v.toNat 17 16))

/-- A virtual function's write reaches no register but those of its own contexts: elsewhere, and at the blocks of contexts that are not
its own, only the half that it has waiting is lost or held, and an access that R39 does not allow makes the record of R39; nothing else
changes. READY stands as R46 has it, so that the command does not move it (R253, R257, R416). -/
def Obligations.VfReachesItsContextsAlone : Prop :=
  ∀ (s : State) (fn off size : Nat) (v : Word64), powered s.pkg = true → fn ≤ s.pkg.numVfs → fn ≠ 0 → judgeReady s.pkg = s.pkg →
    (∀ o, (o = off ∨ o = off + 4 ∨ o + 4 = off) → inCtxArea o = true → reaches s.pkg fn ((o - 0x400000) / 0x4000) = false) →
    (∀ o, (o = off ∨ o = off + 4 ∨ o + 4 = off) → inBindArea o = true → reaches s.pkg fn ((o - 0x2101000) / 0x40) = false) →
    (accessOk off size = true → Does (.bar0Write fn off size v) s fun q =>
      ∃ h, q = { s.pkg with glb := { s.pkg.glb with heldLow := h } }) ∧
    (accessOk off size = false → Does (.bar0Write fn off size v) s fun q =>
      q = s.pkg ∨ q = log { s.pkg with glb := { s.pkg.glb with barInvalidAt := some (now s.pkg) } } codeBarAccessInvalid 0 fn off size)

/-! ### The loader -/

/-- BIND and UNBIND written by the physical function: a BIND of an EMPTY pen is taken, the pen is BINDING and the image is fetched; of a pen in
another state it is refused by check 1 with PEN_UNAVAILABLE, as an UNBIND of a pen that holds no image is; an UNBIND of a pen that
does makes it UNBINDING; while a command runs, a further one only sets CMD_LOST. -/
def Obligations.BindAndUnbindTaken : Prop :=
  (∀ (s : State) (pen : Nat), runsReady s → pen < 16 → s.pkg.ldr.st ≠ 1 → (penOf s.pkg pen).st = penEmpty → cmdFail s.pkg = none →
      Does (.bind 0 pen) s fun q =>
        q.ldr = { s.pkg.ldr with op := 1, pen := pen, result := 0, st := 1 } ∧ (penOf q pen).st = penBinding ∧
          Out.hostRead 0 s.pkg.ldr.addr s.pkg.ldr.bytes ∈ q.out) ∧
  (∀ (s : State) (pen : Nat), runsReady s → pen < 16 → s.pkg.ldr.st ≠ 1 → (penOf s.pkg pen).st ≠ penEmpty → Does (.bind 0 pen) s fun q =>
      q.ldr.st = 2 ∧ q.ldr.result = stPenUnavailable ∧ q.ldr.failCheck = 1 ∧ q.ldr.refuseCount = inc32 s.pkg.ldr.refuseCount ∧
        (penOf q pen).st = (penOf s.pkg pen).st) ∧
  (∀ (s : State) (pen : Nat), runsReady s → pen < 16 → s.pkg.ldr.st ≠ 1 →
      (penOf s.pkg pen).st ∈ [penBound, penActive, penUnavail] → Does (.unbind 0 pen) s fun q =>
        q.ldr.op = 2 ∧ q.ldr.pen = pen ∧ q.ldr.st = 1 ∧ (penOf q pen).st = penUnbinding) ∧
  (∀ (s : State) (pen : Nat), runsReady s → pen < 16 → s.pkg.ldr.st ≠ 1 →
      (penOf s.pkg pen).st ∉ [penBound, penActive, penUnavail] → Does (.unbind 0 pen) s fun q =>
        q.ldr.op = 2 ∧ q.ldr.st = 2 ∧ q.ldr.result = stPenUnavailable ∧ (penOf q pen).st = (penOf s.pkg pen).st) ∧
  ∀ (s : State) (pen : Nat), runsReady s → pen < 16 → s.pkg.ldr.st = 1 →
    Does (.bind 0 pen) s (fun q => q.ldr = { s.pkg.ldr with lost := true }) ∧
      Does (.unbind 0 pen) s (fun q => q.ldr = { s.pkg.ldr with lost := true })

/-- R25: an image whose format version is not the pen's (4, or 3 in compatibility) is refused with FORMAT_INVALID, by check 5 at
offset 8, and the pen is EMPTY. -/
def Obligations.ImageVersionRefused : Prop :=
  ∀ (s : State) (b : Bytes) (placed : Bool), s.pkg.ldr.st = 1 → s.pkg.ldr.op = 1 → cmdFail s.pkg = none → b.take 8 = imageMagic →
    fieldAt b 8 2 ≠ (if (penOf s.pkg s.pkg.ldr.pen).compat then 3 else 4) → Does (.bindComplete (some b) placed) s fun q =>
      q.ldr.st = 2 ∧ q.ldr.result = stFormatInvalid ∧ q.ldr.failCheck = 5 ∧ q.ldr.failOffset = 8 ∧
        q.ldr.refuseCount = inc32 s.pkg.ldr.refuseCount ∧ (penOf q s.pkg.ldr.pen).st = penEmpty

/-- BIND_COMPLETE and UNBIND_COMPLETE: the command is done; a BIND leaves the pen BOUND with its image and counts it, or reports the failed check,
counts a refusal and leaves the pen EMPTY, as it does when the host refuses the fetch (check 3, PERMISSION); while a peer's header is to be
read again or a shard of a FILL to be fetched, the BIND runs on with the pen as it is; an UNBIND leaves the pen EMPTY without an image. -/
def Obligations.LoaderCompletions : Prop :=
  (∀ (s : State) (image : Option Bytes) (placed : Bool), s.pkg.ldr.st = 1 → s.pkg.ldr.op = 1 → Does (.bindComplete image placed) s fun q =>
      q.ldr.op = 1 ∧ q.ldr.pen = s.pkg.ldr.pen ∧
        ((q.ldr.st = 2 ∧ q.ldr.result = stOk ∧ q.ldr.failCheck = 0 ∧ q.ldr.bindCount = inc32 s.pkg.ldr.bindCount ∧
            (penOf q s.pkg.ldr.pen).st = penBound ∧ (penOf q s.pkg.ldr.pen).image.isSome = true) ∨
          (q.ldr.st = 2 ∧ q.ldr.refuseCount = inc32 s.pkg.ldr.refuseCount ∧ q.ldr.bindCount = s.pkg.ldr.bindCount ∧
            (q.ldr.failCheck ≠ 1 → (penOf q s.pkg.ldr.pen).st = penEmpty)) ∨
          (q.ldr.st = 1 ∧ q.ldr.refuseCount = s.pkg.ldr.refuseCount ∧ q.ldr.bindCount = s.pkg.ldr.bindCount ∧ q.pens = s.pkg.pens))) ∧
  (∀ (s : State) (b : Bytes) (placed : Bool) (i : Image) (cls : List Nat), s.pkg.ldr.st = 1 → s.pkg.ldr.op = 1 → cmdFail s.pkg = none →
      bindView s.pkg s.pkg.ldr.pen b placed = .ready i cls → Does (.bindComplete (some b) placed) s fun q =>
        q.ldr.st = 2 ∧ q.ldr.result = stOk ∧ q.ldr.bindCount = inc32 s.pkg.ldr.bindCount ∧ (penOf q s.pkg.ldr.pen).st = penBound ∧
          (penOf q s.pkg.ldr.pen).image = some i) ∧
  (∀ (s : State) (b : Bytes) (placed : Bool) (f : LdrFail), s.pkg.ldr.st = 1 → s.pkg.ldr.op = 1 → cmdFail s.pkg = none →
      bindView s.pkg s.pkg.ldr.pen b placed = .failed f → Does (.bindComplete (some b) placed) s fun q =>
        q.ldr.st = 2 ∧ q.ldr.result = f.status ∧ q.ldr.failCheck = f.check ∧ q.ldr.failOffset = f.off ∧
          q.ldr.refuseCount = inc32 s.pkg.ldr.refuseCount ∧ (f.check ≠ 1 → (penOf q s.pkg.ldr.pen).st = penEmpty)) ∧
  (∀ (s : State) (placed : Bool), s.pkg.ldr.st = 1 → s.pkg.ldr.op = 1 → cmdFail s.pkg = none → Does (.bindComplete none placed) s fun q =>
      q.ldr.result = stPermission ∧ q.ldr.failCheck = 3 ∧ (penOf q s.pkg.ldr.pen).st = penEmpty) ∧
  ∀ s : State, s.pkg.ldr.st = 1 → s.pkg.ldr.op = 2 → (penOf s.pkg s.pkg.ldr.pen).step = none → Does .unbindComplete s fun q =>
    q.ldr.st = 2 ∧ q.ldr.result = stOk ∧ (penOf q s.pkg.ldr.pen).st = penEmpty ∧ (penOf q s.pkg.ldr.pen).image = none

/-! ### Pens -/

/-- PEN_ENABLE, PEN_DISABLE and PEN_BUDGET_WRITE by the physical function: a DISABLED pen whose budgets fit becomes EMPTY and takes COMPAT; an
EMPTY pen becomes DISABLED and its KVP_ registers return to their reset values; a pen in another state keeps its control and sets
BUDGET_REFUSED; a budget of a disabled pen takes a value of its range and keeps its own otherwise.
PEN_ACTIVATE and PRED_STEP_REFRESH: a BOUND pen whose parts and group hold becomes ACTIVE; every enabled pen with an image that keeps its
placement takes the lowest measured rate among its arrays and the prediction that follows from it, and one whose arrays have changed takes
those of the placement that its next set-up applies. -/
def Obligations.PenCommands : Prop :=
  ((∀ (s : State) (pen : Nat) (v : Word32), s.pkg.glb.ready = true → latest (.penEnable 0 pen v) s = true → pen < 16 →
      bitOf v.toNat 0 = true → (penOf s.pkg pen).st = penDisabled →
      (penOf s.pkg pen).enable = false → (penOf s.pkg pen).arrays ≤ poolSize s.pkg → budgetsFit s.pkg pen (penOf s.pkg pen) = true →
      Does (.penEnable 0 pen v) s fun q =>
        (penOf q pen).enable = true ∧ (penOf q pen).compat = bitOf v.toNat 1 ∧ (penOf q pen).st = penEmpty) ∧
  (∀ (s : State) (pen : Nat) (v : Word32), s.pkg.glb.ready = true → latest (.penDisable 0 pen v) s = true → pen < 16 →
      bitOf v.toNat 0 = false → (penOf s.pkg pen).st = penEmpty →
      (penOf s.pkg pen).enable = true → Does (.penDisable 0 pen v) s fun q =>
        (penOf q pen).enable = false ∧ (penOf q pen).st = penDisabled ∧ (penOf q pen).pool = {}) ∧
  (∀ (s : State) (pen : Nat) (v : Word32), s.pkg.glb.ready = true → latest (.penDisable 0 pen v) s = true → pen < 16 →
      bitOf v.toNat 0 = false → (penOf s.pkg pen).st ≠ penEmpty →
      (penOf s.pkg pen).st ≠ penDisabled → (penOf s.pkg pen).enable = true → Does (.penDisable 0 pen v) s fun q =>
        penOf q pen = { penOf s.pkg pen with budgetRefused := true }) ∧
  ∀ (s : State) (pen o mask lo hi : Nat) (v : Word32), s.pkg.glb.ready = true → pen < 16 → (penOf s.pkg pen).st = penDisabled →
    (penOf s.pkg pen).enable = false → budgetRange o = some (mask, lo, hi) →
    latest (.penBudgetWrite 0 pen (penBase pen + o) v) s = true → Does (.penBudgetWrite 0 pen (penBase pen + o) v) s fun q =>
      penOf q pen = (if lo ≤ v.toNat % (mask + 1) ∧ v.toNat % (mask + 1) ≤ hi then withBudget (penOf s.pkg pen) o (v.toNat % (mask + 1))
        else penOf s.pkg pen) ∧ ∀ m, m ≠ pen → penOf q m = penOf s.pkg m) ∧
  ((∀ (s : State) (pen : Nat), fwRuns s.pkg = true → mayActivate s.pkg pen = true → Does (.penActivate pen) s fun q =>
      (penOf q pen).st = penActive ∧ (penOf q pen).image = (penOf s.pkg pen).image ∧ (penOf q pen).stepCount = (penOf s.pkg pen).stepCount) ∧
  ∀ s : State, fwRuns s.pkg = true → Does .predStepRefresh s fun q =>
    ∀ (n : Nat) (i : Image), (penOf s.pkg n).enable = true → (penOf s.pkg n).image = some i →
      penOf q n =
        if (penOf s.pkg n).replace then
          withPred s.pkg i ((placement s.pkg n i).2.map Prod.snd) (decide (0 < foldsNext s.pkg n i)) (penOf s.pkg n)
        else withPred s.pkg i ((penOf s.pkg n).place.map fun e => e.2 - 1) (decide (0 < (penOf s.pkg n).folds)) (penOf s.pkg n))

/-! ### Step jobs -/

/-- STEP_SETUP_START and SETUP_COMPLETE: a set-up with a placed request makes a step job that starts now, neither set up nor released, with the slots
filled; once its shared pages are copied and the peers' headers that it uses are read again, its set-up is complete and its earliest start is the next tick. -/
def Obligations.StepSetUp : Prop :=
  (∀ (s : State) (pen : Nat), mayStart s.pkg pen = true → (penOf s.pkg pen).replace = false →
      (penOf s.pkg pen).countEpoch = epochOf s.pkg → (fillStep s.pkg pen).2.placed ≠ [] → (fillStep s.pkg pen).2.short = none →
      Does (.stepSetupStart pen) s fun q =>
        (penOf q pen).step.isSome = true ∧ (stepNow q pen).start = now s.pkg ∧ (stepNow q pen).setupDone = false ∧
          (stepNow q pen).released = false ∧ (stepNow q pen).placed = (fillStep s.pkg pen).2.placed ∧
          (stepNow q pen).slots = (fillStep s.pkg pen).2.slots ∧ (penOf q pen).rerun = []) ∧
  ∀ (s : State) (pen : Nat) (t : Step), powered s.pkg = true → (penOf s.pkg pen).step = some t → t.setupDone = false →
    (poolOf s.pkg pen).cowCopies = [] → t.unchecked = [] → Does (.setupComplete pen) s fun q =>
      (stepNow q pen).setupDone = true ∧ (stepNow q pen).earliest = now s.pkg + 1 ∧ (stepNow q pen).start = t.start ∧
        (stepNow q pen).released = t.released

/-- STEP_RELEASE, SEGMENT_START, SEGMENT_SWITCH and BARRIER_COMPLETE: a step released at its T0 is predicted to end at T0 and the prediction; a segment
starts on the array where it is active; a folded array changes to its other segment and exchanges its data for the saved ones; a
barrier's generation completes and no array of the set waits for it. -/
def Obligations.StepProgress : Prop :=
  (∀ (s : State) (pen : Nat) (t : Step), powered s.pkg = true → (penOf s.pkg pen).step = some t → t.setupDone = true → t.stepX = true →
      t.released = false → t.t0 ≤ now s.pkg → Does (.stepRelease pen) s fun q =>
        stepNow q pen = { t with released := true } ∧ (penOf q pen).stepEnd = t.t0 + (penOf s.pkg pen).pred) ∧
  (∀ (s : State) (pen seg a : Nat), stepRuns s.pkg pen = true → segStart s.pkg pen seg ≤ now s.pkg → startable s.pkg pen seg = some a →
      Does (.segmentStart pen seg) s fun q =>
        runOf (arrOf q a) = { runOf (arrOf s.pkg a) with started := true } ∧ ∀ b, b ≠ a → arrOf q b = arrOf s.pkg b) ∧
  (∀ (s : State) (a : Nat), powered s.pkg = true → a < 256 → maySwitch (arrOf s.pkg a) = true → Does (.segmentSwitch a) s fun q =>
      arrOf q a = { arrOf s.pkg a with
        active := 1 - (arrOf s.pkg a).active, data := (arrOf s.pkg a).saved.getD {}, saved := some (arrOf s.pkg a).data } ∧
        ∀ b, b ≠ a → arrOf q b = arrOf s.pkg b) ∧
  ∀ (s : State) (pen b : Nat), stepRuns s.pkg pen = true → b < (imageOf s.pkg pen).barriers.length →
    ((imageOf s.pkg pen).barriers.getD b {}).gate = false → controlGate (imageOf s.pkg pen) b = false → arrivedAll s.pkg pen b = true →
    Does (.barrierComplete pen b) s fun q =>
      tget 0 (stepNow q pen).barGen b = tget 0 (stepNow s.pkg pen).barGen b + 1 ∧
        (∀ k, k ≠ b → tget 0 (stepNow q pen).barGen k = tget 0 (stepNow s.pkg pen).barGen k) ∧
        ∀ a, a ∈ setOf s.pkg pen → ∀ r, r ∈ (arrOf q a).runs → ∀ g, r.waitFor = some (b, g) → tget 0 (stepNow q pen).barGen b < g

/-- LAYER_DONE: the run's summary with the exponents in force is the layer's complete one. A run out of trouble, in an image without
routing (so with no exchange decided), is released: its gate completes one generation and its counts start again at zero. A narrow run in trouble for the first time
in the step lowers the clip exponent where it is above zero and an element overflowed, else raises the base exponent up to 63,
and is a replay (kind 1); in trouble again it is widened (kind 2).
STEP_DONE: the step job is over and counted, and the pen keeps its state and its image. -/
def Obligations.LayerDecisions : Prop :=
  (∀ (s : State) (pen layer : Nat) (r : LRec) (m : Summary), stepRuns s.pkg pen = true → layerHeld s.pkg pen layer = true →
    r = recOf (imageOf s.pkg pen) (stepNow s.pkg pen) layer →
    m = { tget {} (stepNow s.pkg pen).summary layer with clip := r.clip, base := r.base } →
    (inTrouble r m = false → (imageOf s.pkg pen).routing = none → (stepNow s.pkg pen).decided = [] →
      Does (.layerDone pen layer) s fun q =>
      tget {} (stepNow q pen).done layer = m ∧ tget {} (stepNow q pen).summary layer = {} ∧
        tget 0 (stepNow q pen).barGen (gateOfLayer s.pkg pen layer) =
          tget 0 (stepNow s.pkg pen).barGen (gateOfLayer s.pkg pen layer) + 1) ∧
    (inTrouble r m = true → r.wide = false → r.oSch = 3 → tget 0 (stepNow s.pkg pen).troubles layer = 0 →
      Does (.layerDone pen layer) s fun q =>
        tget {} (stepNow q pen).done layer = m ∧ tget {} (stepNow q pen).summary layer = { kind := 1 } ∧
          tget 0 (stepNow q pen).troubles layer = 1 ∧ (stepNow q pen).widened = (stepNow s.pkg pen).widened ∧
          (0 < m.ovf → 0 < r.clip →
            tget ((imageOf s.pkg pen).recs.getD layer {}).clip (stepNow q pen).clip layer = r.clip - 1 ∧
              (stepNow q pen).base = (stepNow s.pkg pen).base) ∧
          (m.ovf = 0 ∨ r.clip = 0 →
            tget ((imageOf s.pkg pen).recs.getD layer {}).base (stepNow q pen).base layer = min (r.base + 1) 63 ∧
              (stepNow q pen).clip = (stepNow s.pkg pen).clip)) ∧
    (inTrouble r m = true → r.wide = false → r.oSch = 3 → tget 0 (stepNow s.pkg pen).troubles layer ≠ 0 →
      Does (.layerDone pen layer) s fun q =>
        tget {} (stepNow q pen).done layer = m ∧ tget {} (stepNow q pen).summary layer = { kind := 2 } ∧
          tget 0 (stepNow q pen).troubles layer = 2 ∧ (stepNow q pen).widened = (stepNow s.pkg pen).widened ++ [layer])) ∧
  ∀ (s : State) (pen : Nat), stepRuns s.pkg pen = true → allEnded s.pkg pen = true → allChosen (stepNow s.pkg pen) = true →
    Does (.stepDone pen) s fun q =>
      (penOf q pen).step = none ∧ (penOf q pen).stepCount = inc64 (penOf s.pkg pen).stepCount ∧
        (penOf q pen).st = (penOf s.pkg pen).st ∧ (penOf q pen).image = (penOf s.pkg pen).image ∧ q.lsh.trotUntil = now s.pkg + 10000

/-! ### The order of the events of a tick -/

/-- One event stands no later than another in its tick: the other is not to be served before it. -/
def servedNoLater (p : Pkg) (a b : Instr) : Prop :=
  ∀ x y, tickPlace p a = some x → tickPlace p b = some y → placeBefore (now p) y x = false

/-- The events of one tick are served by class (R19); within a class by source, from the start index t mod N of the class on, round to the one
below it (R20, R68), and within a source by the entry that they concern; events of one entry in the order of their arrival. The order loses and
adds none. A write stands after every update of one of its fields by the firmware (R41), and a queue in that order is in it. R68's example: in
tick t context 200 comes before context 17 in P4 just when the start index lies from 18 to 200. (Which source and entry a command has where no
rule names them, and which updates R41 meets, is log entry 3.) -/
def Obligations.EventsServedInOrder : Prop :=
  (∀ (t : Nat) (a b : TickPlace), a.cls < b.cls → placeBefore t a b = true ∧ placeBefore t b a = false) ∧
  (∀ (t : Nat) (a b : TickPlace), a.cls = b.cls → a.src < sourcesOf a.cls → b.src < sourcesOf a.cls →
    let first := t % sourcesOf a.cls
    (placeBefore t a b = true ↔
      (first ≤ a.src ∧ b.src < first) ∨
        ((first ≤ a.src ↔ first ≤ b.src) ∧ (a.src < b.src ∨ (a.src = b.src ∧ a.entry < b.entry))))) ∧
  (∀ t : Nat, placeBefore t ⟨4, 200, 0⟩ ⟨4, 17, 0⟩ = true ↔ 18 ≤ t % 272 ∧ t % 272 ≤ 200) ∧
  (∀ (p : Pkg) (c : Instr) (x : TickPlace), tickPlace p c = some x → x.cls < 6) ∧
  (∀ (p : Pkg) (l : List Instr), (serveOrder p l).Perm l) ∧
  (∀ (p : Pkg) (l : List Instr),
    (serveOrder p l).Pairwise fun c d => (coveredBy c).any (fwUpdates d) = false) ∧
  ∀ (s : State) (l : List Instr), (∀ c, c ∈ l → tickPlace s.pkg c ≠ none) →
    (∀ c, c ∈ l → ∀ d, d ∈ l → (coveredBy c).any (fwUpdates d) = false) →
    (serveOrder s.pkg l).Pairwise (servedNoLater s.pkg) ∧
      (∀ x, (serveOrder s.pkg l).filter (fun c => decide (tickPlace s.pkg c = some x)) = l.filter fun c => decide (tickPlace s.pkg c = some x)) ∧
      queuedInOrder { s with pending := serveOrder s.pkg l } = true

/-! ### Words of the arrays -/

/-- The array goes on to its next word, and the other arrays are as they were. -/
def goesOn (p q : Pkg) (a : Nat) : Prop :=
  (runOf (arrOf q a)).pc = (runOf (arrOf p a)).pc + 1 ∧ ∀ b, b ≠ a → arrOf q b = arrOf p b

/-- A masked element, and a masked row's state, are kept from one data of an array to another. -/
def maskedKept (d e : ArrData) (pl : Bool) : Prop :=
  (∀ i j, i < 128 → j < 128 → (bitOf d.rowMask i = false ∨ bitOf d.colMask j = false) →
    accGet (planeOf e pl) i j = accGet (planeOf d pl) i j) ∧
  ∀ i, i < 128 → bitOf d.rowMask i = false → tget fNegInf e.rowM i = tget fNegInf d.rowM i ∧ tget 0 e.rowL i = tget 0 d.rowL i

/-- Row i and column j take part in a word of M rows and N columns (R130). -/
def takesPart (d : ArrData) (m n i j : Nat) : Prop := i < m ∧ j < n ∧ bitOf d.rowMask i = true ∧ bitOf d.colMask j = true

/-- MMA (R118): an element that takes part is the product of its rows of A and B over K, added to what the plane held with ACC = 1; the pending
tensor scale is that of B with ACC = 0. -/
def mmaResult (p q : Pkg) (a : Nat) (oa ob : Opd) : Prop :=
  let w := nextWord p a
  let d := (arrOf p a).data
  let e := (arrOf q a).data
  let pl := wbit w 0 5
  let acc := wbit w 0 4
  (∀ i j, takesPart d (wM w) (wN w) i j →
      accGet (planeOf e pl) i j = dot oa ob i j (wbits w 4 20 0) (if acc then accGet (planeOf d pl) i j else 0#32)) ∧
    (∀ i j, j < 128 → wM w ≤ i ∨ wN w ≤ j → accGet (planeOf e pl) i j = accGet (planeOf d pl) i j) ∧
    planeOf e (!pl) = planeOf d (!pl) ∧
    (planeOf e pl).tscale = (if acc then (planeOf d pl).tscale
      else if (mmaB w).sch = 2 then (recOf (imageOf p (penOfArr p a)) (stepNow p (penOfArr p a)) (wLayer w)).wts else fOne)

/-- ROWFN (R122, R136 to R140): every element that takes part is scaled by the pending tensor scale and the word's scale, and its row
function applied: none, the causal mask, the softmax over the columns that are not masked, SwiGLU of the two halves, or GELU. -/
def rowfnResult (p q : Pkg) (a : Nat) : Prop :=
  let w := nextWord p a
  let d := (arrOf p a).data
  let e := (arrOf q a).data
  let fn := wbits w 0 26 24
  let col0 := wbits w 4 6 0
  let src := planeOf d (wbit w 0 4)
  let out (i j : Nat) : Word32 := accGet (planeOf e (wbit w 0 5)) i j
  let v (i j : Nat) : Word32 := fmul (fmul (accGet src i j) src.tscale) (BitVec.ofNat 32 (wbits w 8 31 0))
  let hidden (i j : Nat) : Bool := causalOut (wbit w 0 27) (signed32 (wbits w 12 31 0)) (wbits w 4 15 8) i j
  ∀ i, i < wM w → bitOf d.rowMask i = true →
    (fn = 0 → ∀ j, takesPart d (wM w) (wN w) i j → out i j = v i j) ∧
    (fn = 1 → ∀ j, takesPart d (wM w) (wN w) i j → out i j = if hidden i j then fNegInf else v i j) ∧
    (fn = 2 →
      let xs := (colsIn d (wN w)).filter fun j => !hidden i j
      let m := xs.foldl (fun m j => if isNan (v i j) then m else fmax m (v i j)) fNegInf
      let pr (j : Nat) : Word32 := if m = fNegInf then 0#32 else exp32 (fsub (v i j) m)
      let l := xs.foldl (fun l j => fadd l (pr j)) 0#32
      tget fNegInf e.rowM i = m ∧ tget 0 e.rowL i = l ∧
        ∀ j, takesPart d (wM w) (wN w) i j → out i j = if hidden i j then 0#32 else if l = 0#32 then 0#32 else fdiv (pr j) l) ∧
    (fn = 3 → ∀ j, j < wN w / 2 → bitOf d.colMask (col0 + j) = true → out i (col0 + j) = fmul (silu (v i j)) (v i (j + wN w / 2))) ∧
    (fn = 4 → ∀ j, takesPart d (wM w) (wN w) i j → out i j = gelu (v i j))

/-- FUSE2 of one chunk, at most 128 keys (R120, R141, R142): the scores of a row are its product with B, scaled; the row function gives p, zero
beyond the keys and under the causal mask; p is converted, multiplied with D over the keys and added to what the plane held with ACC = 1,
scaled by α under SOFTMAX; and the sum is scaled, and divided by l with NORM. The row state is m and l of the softmax. -/
def fuse2Chunk (p q : Pkg) (a keys : Nat) (k : FuseK) (oa ob od : Opd) : Prop :=
  let w := nextWord p a
  let d := (arrOf p a).data
  let e := (arrOf q a).data
  let acc := wbit w 0 4
  let real := if k.fn = 3 then keys / 2 else keys
  ∀ i, i < k.m → bitOf d.rowMask i = true →
    let s (j : Nat) : Word32 := if j < keys then fmul (fmul (dot oa ob i j k.k1 0#32) k.tsB) k.scale else 0#32
    let hidden (j : Nat) : Bool := decide (keys ≤ j) || causalOut k.causal k.diag k.qpos i j
    let m0 := if acc then tget fNegInf d.rowM i else fNegInf
    let l0 := if acc then tget 0 d.rowL i else 0#32
    let m := fmax m0 ((upto 128).foldl (fun m j => if hidden j || isNan (s j) then m else fmax m (s j)) fNegInf)
    let alpha := if m = fNegInf then fOne else exp32 (fsub m0 m)
    let pr (j : Nat) : Word32 :=
      if k.fn = 2 then (if m = fNegInf || hidden j then 0#32 else exp32 (fsub (s j) m))
      else if k.fn = 3 then (if hidden j || decide (keys / 2 ≤ j) then 0#32 else fmul (silu (s j)) (s (j + keys / 2)))
      else if hidden j then 0#32 else if k.fn = 4 then gelu (s j) else s j
    let l := if k.fn = 2 then (upto 128).foldl (fun l j => fadd l (pr j)) (fmul alpha l0) else tget 0 d.rowL i
    let qs := qOpd k ((convertQ k ((upto 128).map pr)).map (·.code))
    (k.fn = 2 → tget fNegInf e.rowM i = m ∧ tget 0 e.rowL i = l) ∧
      ∀ j, takesPart d k.m k.n2 i j →
        let held := if acc then accGet d.plane0 i j else 0#32
        let x := fscale (fmul (dot qs od 0 j real (if k.fn = 2 ∧ alpha ≠ fOne then fmul alpha held else held)) k.tsD) (-k.iscale)
        accGet e.plane0 i j = if k.norm then (if l = 0#32 then 0#32 else fdiv x l) else x

/-- MMA, FUSE2 and ROWFN compute what R118, R120, R122 and R136 to R144 say, on operands whose bytes are there and with M and N in their
ranges, and the array goes on to its next word (mmaResult, rowfnResult, fuse2Chunk; of a FUSE2 of more than 128 keys the chunks follow one
another, and an empty slot's stream leaves plane 0 and the row state as ACC = 0 sets them).
R131: a masked accumulator element keeps its value under MMA and ROWFN in both planes and under FUSE2 in plane 0, whether ACC is 0 or 1, and
a masked row keeps its row state. What a FUSE2 leaves in plane 1 is unspecified (R120): free values, the model's form of them (log entry
10). (That MMA with ACC = 1 adds the granules one by one, and that ROWFN leaves columns outside the column mask, are log entry 42.) -/
def Obligations.WordsCompute : Prop :=
  ∀ (s : State) (a : Nat), wM (nextWord s.pkg a) ≤ 128 → wN (nextWord s.pkg a) ≤ 128 →
    let w := nextWord s.pkg a
    let d := (arrOf s.pkg a).data
    (atWord s.pkg a 1 = true → ∀ oa p1 ob p2, opdFrom s.pkg a d (wM w) (wbits w 4 20 0) (mmaA w) = some (oa, p1) →
      opdFrom p1 a d (wN w) (wbits w 4 20 0) (mmaB w) = some (ob, p2) → Does (.mma a) s fun q =>
        goesOn s.pkg q a ∧ (∀ pl, maskedKept d (arrOf q a).data pl) ∧ mmaResult s.pkg q a oa ob) ∧
    (atWord s.pkg a 3 = true → (wbits w 0 26 24 = 3 → wbits w 4 6 0 + wN w / 2 ≤ 128) →
      Does (.rowfn a) s fun q => goesOn s.pkg q a ∧ (∀ pl, maskedKept d (arrOf q a).data pl) ∧ rowfnResult s.pkg q a) ∧
    (atWord s.pkg a 2 = true →
      let pb := sramGet d (32 * wbits w 12 15 0) 64
      let n1 := wbits w 4 20 0
      ∀ oa p1 ob gb p2 od gd p3, opdFrom s.pkg a d (wM w) (wbits w 8 20 0) (fuseOpd pb 0) = some (oa, p1) →
      fuseFrom p1 a d n1 (wbits w 8 20 0) false (fuseOpd pb 1) = some (ob, gb, p2) →
      let keys := if n1 = 0 then (gb.map fun g => headerKeys g.header).getD 0 else n1
      fuseFrom p2 a d (wN w) (if wbits w 0 7 5 = 3 then keys / 2 else keys) true (fuseOpd pb 2) = some (od, gd, p3) →
      let k := fuseKOf s.pkg a keys pb gb gd
      Does (.fuse2 a) s fun q =>
        goesOn s.pkg q a ∧ maskedKept d (arrOf q a).data false ∧
          (arrOf q a).data.plane1.free = s.pkg.freeCtr + 1 ∧ (arrOf q a).data.plane1.acc = [] ∧ q.freeCtr = s.pkg.freeCtr + 1 ∧
          (keys = 0 → ∀ i j, takesPart d (wM w) (wN w) i j → accGet (arrOf q a).data.plane0 i j = 0#32 ∧
            (k.fn = 2 → tget fNegInf (arrOf q a).data.rowM i = fNegInf ∧ tget 0 (arrOf q a).data.rowL i = 0#32)) ∧
          (0 < keys → keys ≤ 128 → fuse2Chunk s.pkg q a keys k oa (ob 0) (od 0)) ∧
          (0 < keys →
            let f := fuseEnd k d ((upto (ceilDiv keys 128)).foldl (fuseChunk k d oa ob od) (fuseFirst (!wbit w 0 4) k d))
            (arrOf q a).data.rowM = f.rowM ∧ (arrOf q a).data.rowL = f.rowL ∧
              ∀ i j, accGet (arrOf q a).data.plane0 i j = accGet f.plane i j))

/-- No layer run of a pen's step reads its retained input again. -/
def readsAfresh (p : Pkg) (n : Nat) : Prop := ∀ x, x ∈ (stepNow p n).inputs → ∀ v, x.2 = some v → v.again = false

/-- MMA, FUSE2, LOADW and LOADA wait, with no effect, while bytes of a channel they read have not arrived (R114).
LOADW and LOADA: the COUNT units of an external buffer stand in local SRAM at DST, byte by byte, with every other byte of it as it was; from a
channel they are the units that wait there, where the other rings of a broadcast group have room and no block of them is being fetched:
the channel has moved on by COUNT, and beside DST only its ring changes. A layer run that was started again reads the input retained
from its first run; these two are those of a run that was not. -/
def Obligations.LoadWords : Prop :=
  (∀ (s : State) (a : Nat), (mmaOp s.pkg a = none → Idles (.mma a) s) ∧ (fuse2Op s.pkg a = none → Idles (.fuse2 a) s) ∧
    (loadOp s.pkg a = none → Idles (.loadw a) s ∧ Idles (.loada a) s)) ∧
  (∀ (s : State) (a : Nat) (c : Instr), (c = .loadw a ∧ atWord s.pkg a 4 = true) ∨ (c = .loada a ∧ atWord s.pkg a 5 = true) →
    let w := nextWord s.pkg a
    let dst := 32 * wbits w 8 15 0
    let d := (arrOf s.pkg a).data.sram
    let n := penOfArr s.pkg a
    let ent := chanEnt (imageOf s.pkg n) (runOf (arrOf s.pkg a)).seg (wbits w 0 6 5)
    let pos := tget 0 (runOf (arrOf s.pkg a)).chPos (wbits w 0 6 5)
    readsAfresh s.pkg n →
    (wbit w 0 4 = true → Does c s fun q =>
      goesOn s.pkg q a ∧
        ∀ k, tget 0 (arrOf q a).data.sram k =
          if dst ≤ k ∧ k < dst + 32 * wbits w 12 19 0 then
            bufByte (penOfArr s.pkg a) (wbits w 0 19 8) (bufOf s.pkg (penOfArr s.pkg a) (wbits w 0 19 8)) (32 * wbits w 4 31 0 + (k - dst))
          else tget 0 d k) ∧
    ∀ us, wbit w 0 4 = false →
      chanUnits s.pkg (penOfArr s.pkg a) (stepNow s.pkg (penOfArr s.pkg a)) (runOf (arrOf s.pkg a)) (wbits w 0 6 5) (wbits w 12 19 0) = some us →
      groupRoom s.pkg n a (runOf (arrOf s.pkg a)) (wbits w 0 6 5) (pos + wbits w 12 19 0) = true →
      awaitsBlock s.pkg n (chainOf (imageOf s.pkg n) (runOf (arrOf s.pkg a)) (wbits w 0 6 5)) pos (pos + wbits w 12 19 0) = false →
      Does c s fun q =>
        goesOn s.pkg q a ∧ tget 0 (runOf (arrOf q a)).chPos (wbits w 0 6 5) =
            tget 0 (runOf (arrOf s.pkg a)).chPos (wbits w 0 6 5) + wbits w 12 19 0 ∧
          ∀ k, (dst ≤ k ∧ k < dst + (us.flatMap Prod.fst).length → tget 0 (arrOf q a).data.sram k = (us.flatMap Prod.fst).getD (k - dst) 0) ∧
            (k < dst ∨ dst + (us.flatMap Prod.fst).length ≤ k → k < 32 * ent.base ∨ 32 * (ent.base + ent.size) ≤ k →
              tget 0 (arrOf q a).data.sram k = tget 0 d k))

/-- The bytes of a STORE's panel of M rows in a format and a scheme, at byte k of it, over what stood there (R124, R132): a row that takes part
is its converted columns and its scales, a column that takes no part the zero code; an unwritten row keeps its bytes; the scale area is filled up
to a whole unit with zeros. -/
def panelByte (d : ArrData) (x : Plane) (r : LRec) (m n k : Nat) (old : Byte) : Byte :=
  let seg := segBytes r.oFmt
  let sc := scBytes r.oSch
  let row (i : Nat) : RowOut := convertRow r.oFmt r.oSch r.clip r.base r.dewclaw
    ((upto 128).map fun j => if j < n ∧ bitOf d.colMask j then some (fmul (accGet x i j) x.tscale) else none)
  if k < m * seg then (if bitOf d.rowMask (k / seg) then (row (k / seg)).seg.getD (k % seg) 0 else old)
  else if k < m * seg + m * sc then
    (if bitOf d.rowMask ((k - m * seg) / sc) then (row ((k - m * seg) / sc)).scales.getD ((k - m * seg) % sc) 0 else old)
  else 0

/-- The values of row i of a STORE to the KV buffer: the columns as the record's format holds them (R318, R319). -/
def kvRowOf (d : ArrData) (x : Plane) (r : LRec) (n i : Nat) : List Val :=
  let o := convertRow r.oFmt r.oSch r.clip r.base r.dewclaw
    ((upto 128).map fun j => if j < n ∧ bitOf d.colMask j then some (fmul (accGet x i j) x.tscale) else none)
  (upto 128).map fun j => match decodeEl r.oFmt 0 (elCode r.oFmt o.seg j) with | some v => v | none => .fin false 0 0

/-- A byte of a frame of a pen. -/
def frameByte (p : Pkg) (n f k : Nat) : Byte := tget 0 (tget {} (poolOf p n).tab f).data k

/-- STORE of a plane (R124, R126, R132): the array goes on, the plane keeps its elements and its counts are taken; into local SRAM the panel of M
rows in the output format and scheme of the layer's record is written, byte by byte, and is all that changes of it, and no buffer changes;
into an external buffer that is not the KV buffer, the same of that buffer, with local SRAM and every other buffer as they were; into the KV
buffer each row that takes part goes to the pages of its slot's request, from the window's offset on. STORE of the row state (R125) writes 8
bytes, m and l, of each row of M that is not masked, and nothing else.
R319, a row in its page: E4M3 codes of K at the token's row of the panel, E2M1 codes with a scale for each 16 columns; of V an E4M3 code in
each column's row, and in E2M1 the BF16 tail until the block's 16th token, then the block of each column with its scale. (The layout of a page
is log entry 20.) -/
def Obligations.StoresWriteTheirPanel : Prop :=
  (∀ (s : State) (a : Nat),
    let w := nextWord s.pkg a
    let n := penOfArr s.pkg a
    let r := recOf (imageOf s.pkg n) (stepNow s.pkg n) (wLayer w)
    let len := panelBytes (wM w) r.oFmt r.oSch
    let d := (arrOf s.pkg a).data
    let x := planeOf d (wbit w 0 5)
    let row : Bytes := (upto (wM w)).flatMap fun i => toLE 4 (tget fNegInf d.rowM i).toNat ++ toLE 4 (tget 0 d.rowL i).toNat
    let buf := wbits w 4 27 16
    let at_ := 32 * wbits w 8 31 0
    let sat_ := 32 * wbits w 4 15 0
    (atWord s.pkg a 6 = true → wbit w 0 6 = false → r.oSch ≠ 2 → Does (.store a) s fun q =>
      goesOn s.pkg q a ∧
        (∀ pl i j, accGet (planeOf (arrOf q a).data pl) i j = accGet (planeOf d pl) i j) ∧
        (planeOf (arrOf q a).data (wbit w 0 5)).conv = 0 ∧ (planeOf (arrOf q a).data (wbit w 0 5)).sat = 0 ∧
        (wbit w 0 4 = false →
          (∀ k, tget 0 (arrOf q a).data.sram k =
            if sat_ ≤ k ∧ k < sat_ + len then panelByte d x r (wM w) (wN w) (k - sat_) (tget 0 d.sram k) else tget 0 d.sram k) ∧
          (penOf q n).bufs = (penOf s.pkg n).bufs) ∧
        (wbit w 0 4 = true → (arrOf q a).data.sram = d.sram) ∧
        (wbit w 0 4 = true → storesKv s.pkg a w = false → ∀ b k, bufByte n b (bufOf q n b) k =
          if b = buf ∧ at_ ≤ k ∧ k < at_ + len then panelByte d x r (wM w) (wN w) (k - at_) (bufByte n b (bufOf s.pkg n b) k)
          else bufByte n b (bufOf s.pkg n b) k) ∧
        (storesKv s.pkg a w = true →
          let done := (rowsIn d (wM w)).foldl (fun p i => kvRow p n (at_ + i * segBytes r.oFmt) (kvRowOf d x r (wN w) i)) (storeOwn s.pkg a w len)
          (penOf q n).pool = (penOf done n).pool ∧ q.reqs = done.reqs ∧ (penOf q n).bufs = (penOf s.pkg n).bufs)) ∧
    (atWord s.pkg a 6 = true → wbit w 0 6 = true → Does (.storeRowstate a) s fun q =>
      goesOn s.pkg q a ∧
        (wbit w 0 4 = false → (∀ k, tget 0 (arrOf q a).data.sram k =
            if sat_ ≤ k ∧ k < sat_ + 8 * wM w ∧ bitOf d.rowMask ((k - sat_) / 8) = true then row.getD (k - sat_) 0 else tget 0 d.sram k) ∧ (penOf q n).bufs = (penOf s.pkg n).bufs) ∧
        (wbit w 0 4 = true → (arrOf q a).data.sram = d.sram ∧ ∀ b k, bufByte n b (bufOf q n b) k =
            if b = buf ∧ at_ ≤ k ∧ k < at_ + 8 * wM w ∧ bitOf d.rowMask ((k - at_) / 8) = true then row.getD (k - at_) 0 else bufByte n b (bufOf s.pkg n b) k))) ∧
  ∀ (p : Pkg) (i : Image) (e n f tok panel : Nat) (h : HeadAt) (vs : List Val),
    let pt := pageTokens (penOf p n).compat
    let t := tok % pt
    let kAt := h.off + panel * (pt * if i.kvK = 7 then 72 else 128)
    let vAt := h.off + kBytes i.kvK h.band.dk pt
    let code (c : Conv) : Byte := BitVec.ofNat 8 c.code
    (i.kvK ≠ 7 → ∀ k, frameByte (putK p i n f h panel tok vs) n f k =
      if kAt + t * 128 ≤ k ∧ k < kAt + t * 128 + vs.length then code (convertFp fmtE4M3 (vs.getD (k - (kAt + t * 128)) (.fin false 0 0)))
      else frameByte p n f k) ∧
    (i.kvK = 7 → vs.length = 128 → ∀ b, b < 8 →
      let o := quantBlock ((vs.drop (16 * b)).take 16)
      frameByte (putK p i n f h panel tok vs) n f (kAt + pt * 64 + t * 8 + b) = BitVec.ofNat 8 o.2.1 ∧
        ∀ j, j < 16 → elCode 7 ((upto 64).map fun c => frameByte (putK p i n f h panel tok vs) n f (kAt + t * 64 + c)) (16 * b + j) =
          o.1.getD j 0 % 16) ∧
    (i.kvV ≠ 7 → ∀ c, c < vs.length → c < h.band.dv →
      frameByte (putV p i e n f h tok vs) n f (vAt + c * pt + t) = code (convertFp fmtE4M3 (vs.getD c (.fin false 0 0)))) ∧
    (i.kvV = 7 → (∀ c, c < vs.length → c < h.band.dv → c < 128 →
      tget 0 (reqOf (putV p i e n f h tok vs) e).tail (tailKey h.ordinal c tok) = (convertFp fmtBF16 (vs.getD c (.fin false 0 0))).code) ∧
      (tok % 16 ≠ 15 → tget false (stepNow p n).quantised (blockKey e h.ordinal tok) = false →
        ∀ m k, frameByte (putV p i e n f h tok vs) n m k = frameByte p n m k) ∧
      (tok % 16 = 15 → h.band.dv ≤ vs.length → h.band.dv ≤ 128 → ∀ c, c < h.band.dv →
        frameByte (putV p i e n f h tok vs) n f (vAt + h.band.dv * (pt / 2) + c * (pt / 16) + t / 16) =
          BitVec.ofNat 8 (tailBlock (reqOf (putV p i e n f h tok vs) e) h.ordinal c (tok - tok % 16) 16).2.1))

/-- MASKSET: ranges give ones from LO on for CNT bits and zeros elsewhere, and MODE 1 the 16 bytes of each mask from local SRAM; the planes, the
row state and local SRAM stay. SCORE arms the word that follows.
The six kinds of SYNC (R128, R146, R147): DRAIN goes on; ARRIVE counts an arrival; WAIT counts a wait and stops the run until the barrier's
generation of that number is complete, BARRIER does both and waits for no generation before the one it arrives for; LAYER_END arrives at the layer's gate and holds the run at its
word; END ends it. The array's data stay. -/
def Obligations.MasksScoreAndSync : Prop :=
  (∀ (s : State) (a : Nat),
    let w := nextWord s.pkg a
    let d := (arrOf s.pkg a).data
    (atWord s.pkg a 7 = true → Does (.maskset a) s fun q =>
      goesOn s.pkg q a ∧ (arrOf q a).data = { d with rowMask := (arrOf q a).data.rowMask, colMask := (arrOf q a).data.colMask } ∧
        (wbit w 0 4 = false → ∀ i, i < 128 →
          bitOf (arrOf q a).data.rowMask i = decide (wbits w 0 14 8 ≤ i ∧ i < wbits w 0 14 8 + wbits w 0 23 16) ∧
            bitOf (arrOf q a).data.colMask i = decide (wbits w 0 30 24 ≤ i ∧ i < wbits w 0 30 24 + wbits w 4 7 0)) ∧
        (wbit w 0 4 = true → (arrOf q a).data.rowMask = leNat (sramGet d (32 * wbits w 8 15 0) 16) ∧
          (arrOf q a).data.colMask = leNat (sramGet d (32 * wbits w 8 15 0 + 16) 16))) ∧
    (atWord s.pkg a 9 = true → Does (.score a) s fun q =>
      goesOn s.pkg q a ∧ (runOf (arrOf q a)).armed = true ∧ (arrOf q a).data = d)) ∧
  (∀ (s : State) (a : Nat),
    let b := syncBar (nextWord s.pkg a)
    let r := runOf (arrOf s.pkg a)
    let arrs := tset 0 r.arrs b (tget 0 r.arrs b + 1)
    let waits := tset 0 r.waits b (tget 0 r.waits b + 1)
    let stops := if tget 0 r.waits b + 1 ≤ tget 0 (stepNow s.pkg (penOfArr s.pkg a)).barGen b then none else some (b, tget 0 r.waits b + 1)
    let gen := max (tget 0 r.waits b + 1) (tget 0 r.arrs b + 1)
    let both := if gen ≤ tget 0 (stepNow s.pkg (penOfArr s.pkg a)).barGen b then none else some (b, gen)
    let leaves (x : SegRun) (q : Pkg) : Prop :=
      runOf (arrOf q a) = x ∧ (arrOf q a).data = (arrOf s.pkg a).data ∧ ∀ k, k ≠ a → arrOf q k = arrOf s.pkg k
    (atSync s.pkg a 0 = true → Does (.syncDrain a) s (leaves { r with pc := r.pc + 1 })) ∧
    (atSync s.pkg a 1 = true → Does (.syncBarrier a) s (leaves
      { r with pc := r.pc + 1, arrs := arrs, waits := tset 0 r.waits b gen, waitFor := both })) ∧
    (atSync s.pkg a 2 = true → Does (.syncArrive a) s (leaves { r with pc := r.pc + 1, arrs := arrs })) ∧
    (atSync s.pkg a 3 = true → Does (.syncWait a) s (leaves { r with pc := r.pc + 1, waits := waits, waitFor := stops })) ∧
    (atSync s.pkg a 4 = true → Does (.syncLayerEnd a) s (leaves { r with arrs := arrs, held := true })) ∧
    (atSync s.pkg a 5 = true → Does (.syncEnd a) s (leaves { r with ended := true })))

/-! ### Expert exchange -/

/-- The bytes of one range of one buffer are those given, and every other byte of every buffer is as it was. -/
def writesBuffer (p q : Pkg) (n buf at_ : Nat) (d : Bytes) : Prop :=
  ∀ b k, bufByte n b (bufOf q n b) k =
    if b = buf ∧ at_ ≤ k ∧ k < at_ + d.length then d.getD (k - at_) 0 else bufByte n b (bufOf p n b) k

/-- What R201 discards: the record's epoch, exchange counter, member, kind, reserved fields, counts, rows and positions. -/
def badRecord (p : Pkg) (n slot : Nat) (b : Bytes) : Prop :=
  let r := recordOf p n b
  let step := decide (r.x % exchangesOf (imageOf p n) = 0)
  fieldAt b 0 8 ≠ epochOf p ∨ (r.x ≠ xNow p n ∧ r.x ≠ xNow p n + 1) ∨ r.member ≠ slot % groupCount p n ∨
    bitOf (fieldAt b 18 1) 0 = step ∨ 4096 ≤ fieldAt b 16 2 ∨ 4 ≤ fieldAt b 18 1 ∨ zeroAt b 19 5 = false ∨ zeroAt b 40 24 = false ∨
    (∃ c ∈ r.counts, c = 0xFFFF) ∨
    fieldAt b 36 4 ≠ sumL r.counts ∨ (∃ c ∈ r.counts, r.positionsIn < c) ∨ 65534 < r.positionsIn

/-- R201: a count record that R201 names is discarded, and EXCHANGE_RECORD_INVALID is recorded, with the slot's source as parameter 1; the
records in hand, the step and every other part but the log stay. Any other record is kept, in place of an older one of its
exchange and member. A store of another epoch does not reach the board: the fabric answers it with EPOCH_STALE and counts it. (That a kept record
replaces an older one of its exchange and member is log entry 38.) -/
def Obligations.CountRecords : Prop :=
  (∀ (s : State) (pen slot : Nat) (rec : Bytes), onBoard s.pkg pen slot = true →
    (badRecord s.pkg pen slot rec → Does (.countRecord pen slot rec) s fun q =>
      ∃ k, q = log s.pkg codeExchangeRecordInvalid pen pen (slot % groupCount s.pkg pen) k ∧ 1 ≤ k ∧ k ≤ 9) ∧
    (¬ badRecord s.pkg pen slot rec → Does (.countRecord pen slot rec) s fun q =>
      recordOf s.pkg pen rec ∈ (penOf q pen).records ∧
        (∀ r, r ∈ (penOf q pen).records → r.x = (recordOf s.pkg pen rec).x → r.member = (recordOf s.pkg pen rec).member →
          r = recordOf s.pkg pen rec) ∧
        ∀ r, r ∈ (penOf s.pkg pen).records → (r.x ≠ (recordOf s.pkg pen rec).x ∨ r.member ≠ (recordOf s.pkg pen rec).member) →
          r ∈ (penOf q pen).records)) ∧
  ∀ (s : State) (port : Nat) (b : Bytes), carries s.pkg port = true → pktSound b = true → (hdrOf b).type = 2 → (hdrOf b).dst = chipNo s.pkg →
    (hdrOf b).epoch ≠ epochOf s.pkg → Does (.packetStore port b) s fun q =>
      q = reply (staleRx s.pkg (hdrOf b)) (hdrOf b) stEpochStale [] ∧ q.pens = s.pkg.pens

/-- DISPATCH_MARK, FREE_MARK and COMBINE_MARK: the marker of the slot's source is in hand, with the counter, the round and the LAST bit of its
word, and no marker in hand is lost.
R207: the bytes of a dispatch piece, a tag run and a combine store stand at the place that the bits of its offset name, and nothing else of
any buffer changes; a piece's segment goes to its row of the panel and its scales to the row's entry of the scale area. An offset that
is not a multiple of a piece's or a tag's pitch changes nothing. (Which exchange an arrival in a receive region belongs to is log entry 38, the
layout of COMB_BUF log entry 21.) -/
def Obligations.MarkersAndExchangeStores : Prop :=
  (∀ (s : State) (pen slot kind : Nat) (w : Word64) (c : Instr), onBoard s.pkg pen slot = true →
    (c, kind) ∈ [(Instr.dispatchMark pen slot w, 0), (.freeMark pen slot w, 1), (.combineMark pen slot w, 2)] →
    Does c s fun q =>
      { kind := kind, member := slot % groupCount s.pkg pen, x := w.toNat % 2 ^ 32, round := w.toNat / 2 ^ 32 % 2 ^ 24,
        last := w.toNat.testBit 56 : Mark } ∈ (penOf q pen).marks ∧ ∀ m, m ∈ (penOf s.pkg pen).marks → m ∈ (penOf q pen).marks) ∧
  (∀ (s : State) (pen : Nat) (b : Bytes), routed s.pkg pen = true →
    let i := imageOf s.pkg pen
    let r := routingNow s.pkg pen
    let tc := i.recvCapacity / 128
    let tiles := r.epm * tc * (r.hiddenPanels * 32768)
    (∀ region slot tile pan row : Nat, region < 4 → slot < r.epm → tile < tc → pan < r.hiddenPanels → row < 128 →
      ∀ (e f sc : Nat) (wide : Bool), entryOfHalf (stepNow s.pkg pen) (region / 2) allGated = (e, wide) →
      exFormat s.pkg pen e wide = (f, sc) → b.length = segBytes f + scBytes sc →
      let panel := region * regionSize s.pkg pen + (slot * tc + tile) * (r.hiddenPanels * 32768) + pan * panelBytes 128 f sc
      Does (.dispatchPiece pen (256 * ((((region * r.epm + slot) * tc + tile) * r.hiddenPanels + pan) * 128 + row)) b) s fun q =>
        ∃ m : Pkg, writesBuffer s.pkg m pen (entryNow s.pkg pen e).recvBuf (panel + row * segBytes f) (b.take (segBytes f)) ∧
          writesBuffer m q pen (entryNow s.pkg pen e).recvBuf (panel + 128 * segBytes f + row * scBytes sc) (b.drop (segBytes f))) ∧
    (∀ region slot row : Nat, region < 4 → slot < r.epm → b.length % 8 = 0 → b ≠ [] → row + b.length / 8 ≤ i.recvCapacity →
      8 * ((region * r.epm + slot) * i.recvCapacity + row) % 256 + b.length ≤ 256 →
      Does (.dispatchTagRun pen (8 * ((region * r.epm + slot) * i.recvCapacity + row)) b) s fun q =>
        writesBuffer s.pkg q pen (entryNow s.pkg pen (entryOfHalf (stepNow s.pkg pen) (region / 2) allGated).1).recvBuf
          (region * regionSize s.pkg pen + tiles + (slot * i.recvCapacity + row) * 8) b) ∧
    (∀ off buf : Nat, buf = (entryNow s.pkg pen (entryOfHalf (stepNow s.pkg pen) (off / max 1 (combHalf s.pkg pen)) (·.combined)).1).combBuf →
      (off + b.length ≤ (i.relocs.getD buf {}).bytes → Does (.combineStore pen off b) s fun q => writesBuffer s.pkg q pen buf off b) ∧
      ((i.relocs.getD buf {}).bytes < off + b.length → Idles (.combineStore pen off b) s)) ∧
    ∀ off : Nat, (off % 256 ≠ 0 → Idles (.dispatchPiece pen off b) s) ∧
      (off % 8 ≠ 0 ∨ b.length % 8 ≠ 0 ∨ b = [] ∨ 256 < off % 256 + b.length → Idles (.dispatchTagRun pen off b) s))

/-- RECV_GATE_COMPLETE and COMB_GATE_COMPLETE: the gate of the next round, once every member's marker of it is in hand, and the combine gate, once its 8
ticks are over and every member segment has arrived, complete one generation; the exchange's count of gated rounds, or its end, follows, and no byte but of the buffer
that the route sorter writes changes. EXCHANGE_WATCHDOG: an exchange that waits too long fences the pen's group and ends its
step. -/
def Obligations.ExchangeGatesAndWatchdog : Prop :=
  (∀ (s : State) (pen half : Nat) (d : Decided), routed s.pkg pen = true → (penOf s.pkg pen).step.isSome = true →
    nextGated s.pkg pen = some d → d.half = half → recvReady s.pkg pen d = true → Does (.recvGateComplete pen half) s fun q =>
      tget 0 (stepNow q pen).barGen (entryNow s.pkg pen d.entry).recvGate =
          tget 0 (stepNow s.pkg pen).barGen (entryNow s.pkg pen d.entry).recvGate + 1 ∧
        (stepNow q pen).decided =
          (stepNow s.pkg pen).decided.map (fun y => if y.x = d.x then { y with gated := y.gated + 1 } else y) ∧
        (penOf q pen).bufs = (penOf s.pkg pen).bufs ∧ ∀ a, a ∉ setOf s.pkg pen → arrOf q a = arrOf s.pkg a) ∧
  (∀ (s : State) (pen half : Nat) (d : Decided), routed s.pkg pen = true → (penOf s.pkg pen).step.isSome = true →
    nextCombined s.pkg pen = some d → d.half = half → d.combineDue ≠ 0 → d.combineDue ≤ now s.pkg →
    arrivedAll s.pkg pen (entryNow s.pkg pen d.entry).combGate = true → Does (.combGateComplete pen half) s fun q =>
      tget 0 (stepNow q pen).barGen (entryNow s.pkg pen d.entry).combGate =
          tget 0 (stepNow s.pkg pen).barGen (entryNow s.pkg pen d.entry).combGate + 1 ∧
        (stepNow q pen).decided = (stepNow s.pkg pen).decided.map (fun y => if y.x = d.x then { y with combined := true } else y) ∧
        (∀ b k, b ≠ (entryNow s.pkg pen d.entry).outBuf → bufByte pen b (bufOf q pen b) k = bufByte pen b (bufOf s.pkg pen b) k) ∧
        ∀ a, (arrOf q a).data = (arrOf s.pkg a).data) ∧
  ∀ (s : State) (pen x m : Nat), powered s.pkg = true → pen < 16 → 1 < (penOf s.pkg pen).groupSize →
    (penOf s.pkg pen).step.isSome = true → (penOf s.pkg pen).fenced = false → (penOf s.pkg pen).st ∈ [penBound, penActive, penUnavail] →
    overdue s.pkg pen = some (x, m) → Does (.exchangeWatchdog pen) s fun q =>
      (penOf q pen).fenced = true ∧ (penOf q pen).step = none ∧ (penOf q pen).fenceEpoch = epochOf s.pkg

/-! ### The weight store -/

/-- A slot whose shard is gone: FREE, or WORN at 100,000 cycles. -/
def leftEmpty (s : Slot) : Slot := { cycles := s.cycles, st := if s.cycles = 100000 then nvWorn else nvFree }

/-- IMPRINT_WRITE, IMPRINT_RETIRE, IMPRINT_WRITE_DONE and IMPRINT_AUTH_EXPIRY (R224, R226, R228): a WRITE that passes its checks takes one from the
authorisation's count, which ends it at zero, and sets the slot chosen to WRITING with one cycle more; one that is refused leaves the store as it is; a RETIRE
empties every slot of the shard and adds no cycle; a write ends VERIFIED with the payload of the digest, its check bytes and the AUTH_ID, or
empties its slot and gives the count back (also where the check of what was written met an uncorrectable line: log entry 30); an
authorisation whose tick is reached is gone. -/
def Obligations.ImprintCommands : Prop :=
  (∀ (s : State) (ctx k : Nat) (d : Desc) (a : ImprintAuth), due s.pkg (.ring ctx) 8 = some d → impOp d = 1 →
    writeBar s.pkg ctx d = none → imprintSlot s.pkg = some k → s.pkg.nvw.auth = some a → Does (.imprintWrite ctx) s fun q =>
      slotOf q k = { slotOf s.pkg k with
        st := nvWriting, cycles := (slotOf s.pkg k).cycles + 1, shard := impShard d, length := impLength d, digest := impDigest d,
        origin := 0, authId := 0, payload := [], crcs := [], checks := [] } ∧
        (∀ j, j ≠ k → slotOf q j = slotOf s.pkg j) ∧ q.nvw.auth = (if a.left ≤ 1 then none else some { a with left := a.left - 1 }) ∧
        ∃ i, q.nvw.imprints = s.pkg.nvw.imprints ++ [i] ∧ i.ctx = ctx ∧ i.slot = k ∧ i.authId = a.id) ∧
  (∀ (s : State) (ctx st : Nat) (d : Desc), due s.pkg (.ring ctx) 8 = some d → impOp d = 1 → writeBar s.pkg ctx d = some st →
    Does (.imprintWrite ctx) s fun q => q.nvw = s.pkg.nvw) ∧
  (∀ (s : State) (ctx : Nat) (d : Desc), due s.pkg (.ring ctx) 8 = some d → impOp d = 2 →
    Does (.imprintRetire ctx) s fun q =>
      q.nvw.auth = s.pkg.nvw.auth ∧
        ∀ k, slotOf q k = if retireBar s.pkg ctx d = none ∧ k ∈ retireSlots s.pkg (impShard d) (impLength d) (impDigest d)
          then leftEmpty (slotOf s.pkg k)
          else slotOf s.pkg k) ∧
  (∀ (s : State) (stack : Nat) (i : Imprint) (payload : Option Bytes), fwRuns s.pkg = true → writingOn s.pkg stack = some i →
    (∀ b, payload = some b → b.length = (slotOf s.pkg i.slot).length) → Does (.imprintWriteDone stack payload) s fun q =>
      (∀ j, j ≠ i.slot → slotOf q j = slotOf s.pkg j) ∧ (∀ x, x ∈ q.nvw.imprints → x.slot ≠ i.slot) ∧
        (∀ b, payload = some b → sha256 b = (slotOf s.pkg i.slot).digest → i.slot ∉ s.pkg.nvw.spoiled →
          slotOf q i.slot =
            { slotOf s.pkg i.slot with
              st := nvVerified, payload := b, crcs := blockCrcs b, checks := lineChecks b, authId := i.authId }) ∧
        ((∀ b, payload = some b → sha256 b ≠ (slotOf s.pkg i.slot).digest ∨ i.slot ∈ s.pkg.nvw.spoiled) →
          slotOf q i.slot = leftEmpty (slotOf s.pkg i.slot) ∧
          (i.counted = true → ∀ a, s.pkg.nvw.auth = some a → q.nvw.auth = some { a with left := a.left + 1 }))) ∧
  ∀ (s : State) (a : ImprintAuth), s.pkg.nvw.auth = some a → a.expiry ≤ now s.pkg →
    exec .imprintAuthExpiry s = .next { s with pkg := { s.pkg with nvw := { s.pkg.nvw with auth := none } } }

/-- NV_VERIFY_START and NV_SLOT_VERIFY_DONE (R230): once READY is 1, a verification starts while slots of usable stacks are UNVERIFIED and is over at
once when none is; the next slot of a stack becomes VERIFIED, with its block check table, when it can be read and its digest
matches, and BAD when not.
NV_REPAIR_START and NV_REPAIR_DONE (R245): a BAD slot with cycles left, a usable replica and no step that streams it is WRITING with one cycle more;
the payload of its digest that the fetch brings makes it VERIFIED, with its claim and AUTH_ID kept; other bytes leave it BAD, or are tried
once from the next usable replica.
NV_UNCORRECTABLE, NV_BLOCK_FETCH_DONE and NV_STACK_FAILED (R244, R246): the check bytes correct up to 2 bytes in error and
detect up to 4, and what they make of more is open (a free value, log entry 10); a line that the first or the second read corrects is counted,
and recorded at times; else the slot is BAD and stays claimed, unless it is being written, whose write then fails; where a running step streams
it the line's block is fetched from the first usable replica; a block of the right check ends its fetch, and another goes on to the next
replica; a failed stack is lost, and ends the steps of one-member pens that stream from it. (That the command gives the bytes in error of both
reads, that a line is counted as corrected at its second read, which slots' lines the engines read, and what such a line does to a
verification or a write, are log entry 30.) -/
def Obligations.SlotCommands : Prop :=
  ((∀ s : State, s.pkg.glb.ready = true → s.pkg.nvw.verifyBusy = false → s.pkg.nvw.verifyDoneLogged = false →
    Does .nvVerifyStart s fun q =>
      ((∃ e ∈ s.pkg.nvw.slots, e.2.st = nvUnverified ∧ nvUsable s.pkg (e.1 / 32) = true) → q.nvw = { s.pkg.nvw with verifyBusy := true }) ∧
        ((∀ e ∈ s.pkg.nvw.slots, e.2.st = nvUnverified → nvUsable s.pkg (e.1 / 32) = false) →
          q.nvw = { s.pkg.nvw with verifyBusy := false, verifyDoneLogged := true })) ∧
  ∀ (s : State) (slot : Nat) (readable : Bool), fwRuns s.pkg = true → s.pkg.nvw.verifyBusy = true → nvUsable s.pkg (slot / 32) = true →
    (stackSlots (slot / 32)).find? (fun k => decide ((slotOf s.pkg k).st = nvUnverified)) = some slot →
    Does (.nvSlotVerifyDone slot readable) s fun q =>
      (readable = true → (slotOf s.pkg slot).payload.length = (slotOf s.pkg slot).length →
        sha256 (slotOf s.pkg slot).payload = (slotOf s.pkg slot).digest →
        slotOf q slot = { slotOf s.pkg slot with st := nvVerified, crcs := blockCrcs (slotOf s.pkg slot).payload }) ∧
      (readable = false ∨ sha256 (slotOf s.pkg slot).payload ≠ (slotOf s.pkg slot).digest →
        slotOf q slot = { slotOf s.pkg slot with st := nvBad }) ∧
      ∀ k, k ≠ slot → slotOf q k = slotOf s.pkg k) ∧
  ((∀ (s : State) (slot r : Nat), fwRuns s.pkg = true → repairable s.pkg slot = true → inStream s.pkg slot = false →
    nextReplica s.pkg slot none = some r → Does (.nvRepairStart slot) s fun q =>
      slotOf q slot = { slotOf s.pkg slot with st := nvWriting, cycles := (slotOf s.pkg slot).cycles + 1 } ∧
        (∀ k, k ≠ slot → slotOf q k = slotOf s.pkg k) ∧ ⟨slot, r, 0⟩ ∈ q.nvw.repairs ∧ q.nvw.auth = s.pkg.nvw.auth) ∧
  ∀ (s : State) (slot : Nat) (r : Repair) (data : Option Bytes), fwRuns s.pkg = true →
    s.pkg.nvw.repairs.find? (fun x => decide (x.slot = slot)) = some r →
    let brought := payloadBytes s.pkg (replicaOf s.pkg r.replica) 0 (replicaOf s.pkg r.replica).length data
    Does (.nvRepairDone slot data) s fun q =>
      (∀ k, k ≠ slot → slotOf q k = slotOf s.pkg k) ∧
      (∀ b, brought = some b → b.length = (slotOf s.pkg slot).length → sha256 b = (slotOf s.pkg slot).digest → slot ∉ s.pkg.nvw.spoiled →
        slotOf q slot = { slotOf s.pkg slot with st := nvVerified, payload := b, crcs := blockCrcs b, checks := lineChecks b } ∧
          ∀ x, x ∈ q.nvw.repairs → x.slot ≠ slot) ∧
      ((∀ b, brought = some b → b.length ≠ (slotOf s.pkg slot).length ∨ sha256 b ≠ (slotOf s.pkg slot).digest ∨ slot ∈ s.pkg.nvw.spoiled) →
        (r.tries ≠ 0 ∨ nextReplica s.pkg slot (some r.replica) = none → slotOf q slot = { slotOf s.pkg slot with st := nvBad }) ∧
        ∀ k, r.tries = 0 → nextReplica s.pkg slot (some r.replica) = some k → (slotOf s.pkg slot).cycles < 100000 →
          slotOf q slot = { slotOf s.pkg slot with st := nvWriting, cycles := (slotOf s.pkg slot).cycles + 1 } ∧
            ⟨slot, k, 1⟩ ∈ q.nvw.repairs)) ∧
  ((∀ (p : Pkg) (n j : Nat), (n ≤ 2 → lineOk p n j = true) ∧ (3 ≤ n → n ≤ 4 → lineOk p n j = false)) ∧
  (∀ (s : State) (slot off bad again : Nat), fwRuns s.pkg = true → slot < 256 →
    readsLines s.pkg slot (inStream s.pkg slot) = true → off < (slotOf s.pkg slot).length → bad ≠ 0 →
    (lineOk s.pkg bad 0 = true ∨ lineOk s.pkg again 1 = true → Does (.nvUncorrectable slot off ⟨bad, again⟩) s fun q =>
      (∃ at_, q.nvw = { s.pkg.nvw with
        retryOk := if lineOk s.pkg bad 0 = true then s.pkg.nvw.retryOk else inc32 s.pkg.nvw.retryOk
        eccCorr := tset 0 s.pkg.nvw.eccCorr (slot / 32) (inc32 (tget 0 s.pkg.nvw.eccCorr (slot / 32)))
        corrLogAt := at_ }) ∧ q.pens = s.pkg.pens) ∧
    (lineOk s.pkg bad 0 = false → lineOk s.pkg again 1 = false → Does (.nvUncorrectable slot off ⟨bad, again⟩) s fun q =>
      (if (slotOf s.pkg slot).st = nvWriting then slotOf q slot = slotOf s.pkg slot ∧ slot ∈ q.nvw.spoiled
        else slotOf q slot = { slotOf s.pkg slot with st := nvBad }) ∧
        (∀ k, k ≠ slot → slotOf q k = slotOf s.pkg k) ∧
        tget 0 q.nvw.eccUncorr (slot / 32) = inc32 (tget 0 s.pkg.nvw.eccUncorr (slot / 32)) ∧
        ∀ r, (recentLines s.pkg (slot / 32)).length < 64 → (slotOf s.pkg slot).st ≠ nvWriting → inStream s.pkg slot = true →
          nextReplica s.pkg slot none = some r →
          q.nvw.fetches = s.pkg.nvw.fetches ++ [⟨slot, off, r⟩] ∧ q.pens = s.pkg.pens)) ∧
  (∀ (s : State) (replica : Nat) (f : BlockFetch) (data : Option Bytes), fwRuns s.pkg = true →
    s.pkg.nvw.fetches.find? (fun x => decide (x.replica = replica)) = some f →
    let x := replicaOf s.pkg replica
    let blk := f.off / 65536 * 65536
    let brought := payloadBytes s.pkg x blk (min 65536 (x.length - blk)) data
    Does (.nvBlockFetchDone replica data) s fun q =>
      q.nvw.slots = s.pkg.nvw.slots ∧
      ((∃ b, brought = some b ∧ (slotOf s.pkg f.slot).crcs[f.off / 65536]? = some (crc32c b)) →
        q.nvw.fetches = s.pkg.nvw.fetches.filter (fun x => decide (x ≠ f)) ∧ q.pens = s.pkg.pens) ∧
      ((∀ b, brought = some b → (slotOf s.pkg f.slot).crcs[f.off / 65536]? ≠ some (crc32c b)) →
        ∀ r, nextReplica s.pkg f.slot (some replica) = some r →
          q.nvw.fetches = s.pkg.nvw.fetches.filter (fun x => decide (x ≠ f)) ++ [⟨f.slot, f.off, r⟩] ∧ q.pens = s.pkg.pens)) ∧
  ∀ (s : State) (stack : Nat), powered s.pkg = true → stack < 8 → nvUsable s.pkg stack = true → Does (.nvStackFailed stack) s fun q =>
    nvUsable q stack = false ∧ (∀ k, k ≠ stack → nvUsable q k = nvUsable s.pkg k) ∧
      ∀ n k, n ∈ enabledPens s.pkg → k ∈ stackSlots stack → streamsSlot s.pkg n k = true → (penOf s.pkg n).groupSize ≤ 1 →
        (penOf q n).step = none)

/-- REPLICA_KIND_WRITE, REPLICA_CHECK, REPLICA_RECHECK, REPLICA_HOST_FETCH_DONE and SLOWER_FETCH_DONE (R239 to R242): KIND from 0 to a nonzero value
makes an entry UNCHECKED and begins its check; a peer entry is GOOD or BAD by the header read, its reserved fields zero among the rest, and UNCHECKED without one, its check repeated
after 10,000 ticks, a host entry by
its payload; a shard fetched whole serves its step, one of another digest makes its entry BAD and is counted. A fetch of a peer brings nothing
where a load of it raised a fault; a host's, or a peer's of which no load was seen, brings what the command that ends it gives. -/
def Obligations.ReplicaCommands : Prop :=
  (∀ (s : State) (idx kind : Nat), runsReady s → idx < 1024 → latest (.replicaKindWrite 0 idx kind) s = true →
    Does (.replicaKindWrite 0 idx kind) s fun q =>
      (∀ k, k ≠ idx → replicaOf q k = replicaOf s.pkg k) ∧
        replicaOf q idx = (if kind % 4 = 3 then replicaOf s.pkg idx
          else if kind % 4 = 0 then { replicaOf s.pkg idx with kind := 0, checking := false }
          else if (replicaOf s.pkg idx).kind = 0 then { replicaOf s.pkg idx with kind := kind % 4, was := kind % 4, st := 0, checking := true }
          else { replicaOf s.pkg idx with kind := kind % 4, was := kind % 4 })) ∧
  (∀ (p : Pkg) (x : Replica) (off len : Nat) (b : Bytes),
    (readsPeer x = false ∨ p.fab.fwReads = [] → payloadBytes p x off len (some b) = some b) ∧
      (0 < len → readsPeer x = false ∨ p.fab.fwReads = [] → payloadBytes p x off len none = none) ∧
      (readsPeer x = true → ∀ e, e ∈ loadPieces (x.slot * 0x10000000 + off) len →
        p.fab.fwReads.find? (fun r => decide (r.1 = gaddr x.chip 2 e.1)) = some (gaddr x.chip 2 e.1, none) →
        payloadBytes p x off len (some b) = none ∧ payloadBytes p x off len none = none)) ∧
  (∀ (s : State) (idx : Nat) (header : Option Bytes) (c : Instr), fwRuns s.pkg = true → (replicaOf s.pkg idx).kind = 1 →
    (c = .replicaCheck idx header ∧ (replicaOf s.pkg idx).st = 0 ∧ (replicaOf s.pkg idx).checking = true ∧
        tget 0 s.pkg.nvw.recheckAt idx = 0) ∨
      (c = .replicaRecheck idx header ∧ ((replicaOf s.pkg idx).st = 1 ∨ ((replicaOf s.pkg idx).st = 0 ∧
        (replicaOf s.pkg idx).checking = true ∧ 0 < tget 0 s.pkg.nvw.recheckAt idx ∧ tget 0 s.pkg.nvw.recheckAt idx ≤ now s.pkg))) →
      let brought := headerBytes s.pkg (replicaOf s.pkg idx) header
      Does c s fun q =>
        (brought = none → replicaOf q idx = { replicaOf s.pkg idx with st := 0, checking := true }) ∧
        (∀ h, brought = some h → replicaOf q idx =
          { replicaOf s.pkg idx with
            checking := false
            st := if fieldAt h 0 4 = (replicaOf s.pkg idx).shard ∧ fieldAt h 4 4 = (replicaOf s.pkg idx).length ∧
              fieldAt h 8 1 = nvVerified ∧ (h.drop 16).take 32 = (replicaOf s.pkg idx).digest ∧
              fieldAt h 9 1 < 2 ∧ fieldAt h 10 1 < 32 ∧ fieldAt h 11 1 = 0 ∧ fieldAt h 56 8 = 0 then 1 else 2 }) ∧
        ∀ k, k ≠ idx → replicaOf q k = replicaOf s.pkg k) ∧
  (∀ (s : State) (idx : Nat) (payload : Option Bytes), fwRuns s.pkg = true → (replicaOf s.pkg idx).kind = 2 →
    (replicaOf s.pkg idx).st = 0 → (replicaOf s.pkg idx).checking = true → Does (.replicaHostFetchDone idx payload) s fun q =>
      (∀ b, payload = some b → b.length = (replicaOf s.pkg idx).length → sha256 b = (replicaOf s.pkg idx).digest →
        replicaOf q idx = { replicaOf s.pkg idx with st := 1, checking := false }) ∧
      ((∀ b, payload = some b → sha256 b ≠ (replicaOf s.pkg idx).digest) →
        replicaOf q idx = { replicaOf s.pkg idx with st := 2, checking := false })) ∧
  ∀ (s : State) (pen shard r : Nat) (payload : Option Bytes), fwRuns s.pkg = true → tget none (stepNow s.pkg pen).slowDone shard = none →
    tget 0 (stepNow s.pkg pen).replicas shard = r + 1 →
    let brought := payloadBytes s.pkg (replicaOf s.pkg r) 0 (replicaOf s.pkg r).length payload
    Does (.slowerFetchDone pen shard payload) s fun q =>
      (∀ b, brought = some b → b.length = ((imageOf s.pkg pen).shards.getD shard {}).length →
        sha256 b = ((imageOf s.pkg pen).shards.getD shard {}).digest →
        tget none (stepNow q pen).slowDone shard = some b ∧ q.nvw.replicas = s.pkg.nvw.replicas) ∧
      (∀ b, brought = some b → sha256 b ≠ ((imageOf s.pkg pen).shards.getD shard {}).digest →
        (replicaOf q r).st = 2 ∧ q.nvw.hashFail = inc32 s.pkg.nvw.hashFail ∧
          ((penOf s.pkg pen).groupSize ≤ 1 → (penOf q pen).step = none)) ∧
      ∀ r2, brought = none → replicaAfter s.pkg ((imageOf s.pkg pen).shards.getD shard {}) r = some r2 →
        tget 0 (stepNow q pen).replicas shard = r2 + 1

/-! ### Contexts -/

/-- A context whose reset has been sampled (R280): RESETTING, its generation one higher, every index zero and both PHASE bits 1, its faults and
its sticky bits clear, with its rings' bases and sizes, its interrupts, its pen and its function as they were. -/
def resetSampled (p q : Pkg) (c : Nat) : Prop :=
  (ctxOf q c).st = ctxResetting ∧ (ctxOf q c).gen = genNext (ctxOf p c).gen ∧
    (ctxOf q c).sqHead = 0 ∧ (ctxOf q c).sqTail = 0 ∧ (ctxOf q c).cqHead = 0 ∧ (ctxOf q c).cqTail = 0 ∧ (ctxOf q c).cqPhase = true ∧
    (ctxOf q c).eqHead = 0 ∧ (ctxOf q c).eqTail = 0 ∧ (ctxOf q c).eqPhase = true ∧ (ctxOf q c).faultStatus = 0 ∧
    (ctxOf q c).faultCode = 0 ∧ (ctxOf q c).eqDropped = 0 ∧ (ctxOf q c).eqLost = false ∧ (ctxOf q c).dbInvalid = false ∧
    (ctxOf q c).sqBase = (ctxOf p c).sqBase ∧ (ctxOf q c).cqBase = (ctxOf p c).cqBase ∧ (ctxOf q c).eqBase = (ctxOf p c).eqBase ∧
    (ctxOf q c).sqLog = (ctxOf p c).sqLog ∧ (ctxOf q c).cqLog = (ctxOf p c).cqLog ∧ (ctxOf q c).eqLog = (ctxOf p c).eqLog ∧
    (ctxOf q c).irq = (ctxOf p c).irq ∧ (ctxOf q c).modCount = (ctxOf p c).modCount ∧ (ctxOf q c).modTime = (ctxOf p c).modTime ∧
    (ctxOf q c).pen = (ctxOf p c).pen

/-- A reset of the context takes effect: no reset of the package and, of an ACTIVE one, none of its pen is sampled in this tick, before or
after it (R431). -/
abbrev mayReset (s : State) (c : Nat) : Prop :=
  largerReset (foreseen s) = false ∧ ((ctxOf s.pkg c).st = ctxActive → penReset (foreseen s) (ctxOf s.pkg c).pen = false)

/-- The quarantine of an array takes effect: no reset of the package or of the pen that holds the array is sampled in this tick, before or
after it (R431). -/
abbrev mayQuarantine (s : State) (a : Nat) : Prop :=
  largerReset (foreseen s) = false ∧ ((arrOf s.pkg a).pen ≠ 0 → penReset (foreseen s) ((arrOf s.pkg a).pen - 1) = false)

/-- R258: setting ENABLE on a DISABLED context runs its checks in order: the first failure leaves ENABLE as it is and writes its status to
ENABLE_ERR; success makes it ACTIVE, whatever its pen's state, with every index 0 and both PHASE bits 1. Clearing ENABLE is a reset,
as CTX_CMD_RESET is, but in the tick of a larger reset, of the package or of the pen of an ACTIVE one (R431); when no step holds its requests, a reset ends DISABLED with ENABLE 0, else ACTIVE, or FAULTED when the host
refuses the zeroing of a ring. -/
def Obligations.ContextEnableAndReset : Prop :=
  (∀ (s : State) (c : Nat) (v : Word32), runsReady s → c < 256 → v.toNat % 2 = 1 → (ctxOf s.pkg c).st = ctxDisabled →
    (ctxOf s.pkg c).enable = false → latest (.ctxEnable 0 c v) s = true → Does (.ctxEnable 0 c v) s fun q =>
      let x := ctxOf s.pkg c
      let pen := v.toNat / 2 ^ 8 % 16
      let f := v.toNat / 2 ^ 16 % 64
      let bad (b : Nat) : Prop := b = 0 ∨ b % 4096 ≠ 0
      (ctxOf q c).pen = pen ∧ (ctxOf q c).fn = f ∧
        ((penOf s.pkg pen).enable = false → (ctxOf q c).enable = false ∧ (ctxOf q c).st = ctxDisabled ∧ (ctxOf q c).enableErr = stPenUnavailable) ∧
        ((penOf s.pkg pen).enable = true → s.pkg.numVfs < f →
          (ctxOf q c).enable = false ∧ (ctxOf q c).st = ctxDisabled ∧ (ctxOf q c).enableErr = stPermission) ∧
        ((penOf s.pkg pen).enable = true → f ≤ s.pkg.numVfs → bad x.sqBase ∨ bad x.cqBase ∨ bad x.eqBase →
          (ctxOf q c).enable = false ∧ (ctxOf q c).st = ctxDisabled ∧ (ctxOf q c).enableErr = stAlignmentInvalid) ∧
        ((penOf s.pkg pen).enable = true → f ≤ s.pkg.numVfs → ¬ bad x.sqBase → ¬ bad x.cqBase → ¬ bad x.eqBase →
          (ctxOf q c).enable = true ∧ (ctxOf q c).st = ctxActive ∧ (ctxOf q c).enableErr = stOk ∧
            (ctxOf q c).sqHead = 0 ∧ (ctxOf q c).sqTail = 0 ∧ (ctxOf q c).cqHead = 0 ∧ (ctxOf q c).cqTail = 0 ∧
            (ctxOf q c).eqHead = 0 ∧ (ctxOf q c).eqTail = 0 ∧ (ctxOf q c).cqPhase = true ∧ (ctxOf q c).eqPhase = true) ∧
        ∀ k, k ≠ c → ctxOf q k = ctxOf s.pkg k) ∧
  (∀ (s : State) (c : Nat) (v : Word32), runsReady s → c < 256 → v.toNat % 2 = 0 →
    (ctxOf s.pkg c).st = ctxActive ∨ (ctxOf s.pkg c).st = ctxFaulted → (ctxOf s.pkg c).enable = true →
    mayReset s c → latest (.ctxDisable 0 c v) s = true → Does (.ctxDisable 0 c v) s fun q => (ctxOf q c).enable = false ∧ (ctxOf q c).fn = (ctxOf s.pkg c).fn ∧ resetSampled s.pkg q c) ∧
  (∀ (s : State) (fn c : Nat), runsReady s → reaches s.pkg fn c = true → fn ≤ s.pkg.numVfs → (ctxOf s.pkg c).st ≠ ctxResetting →
    mayReset s c →
    Does (.ctxCmdReset fn c) s fun q =>
      (ctxOf q c).enable = (ctxOf s.pkg c).enable ∧ (ctxOf q c).fn = (ctxOf s.pkg c).fn ∧ resetSampled s.pkg q c) ∧
  ∀ (s : State) (c : Nat) (failed : Option Nat), (ctxOf s.pkg c).st = ctxResetting →
    (∀ e ∈ entriesOf s.pkg c, (reqOf s.pkg e).inStep = false) → Does (.contextResetDone c failed) s fun q =>
      (ctxOf q c).enable = (ctxOf s.pkg c).enable ∧
        ((ctxOf s.pkg c).enable = false → (ctxOf q c).st = ctxDisabled) ∧
        ((ctxOf s.pkg c).enable = true → failed = none → (ctxOf q c).st = ctxActive) ∧
        ((ctxOf s.pkg c).enable = true → failed.isSome = true →
          (ctxOf q c).st = ctxFaulted ∧ (ctxOf q c).faultStatus = stPermission ∧ (ctxOf q c).faultCode = codeRingWriteFailed)

/-- FLR_VF, FLR_PF and VF_ENABLE_CLEAR (R252, R255) reset every context of the function, or of the functions removed, which go to the physical
function, and no other; HOST_LINK_DOWN, RING_WRITE_FAILED and an error of DESCRIPTOR_FETCH_DONE make contexts FAULTED with the status and the code of
their cause (R277); a context whose rings a reset was to zero when one of the writes is refused has both written (R280);
a descriptor read that ends well takes its descriptors in ring order, the first one where nothing holds it;
IRQ_MODERATION_TIME notes that a ring's moderation time has passed, for the tick boundary to send the interrupt (R279). -/
def Obligations.FunctionsAndHostErrors : Prop :=
  (∀ (s : State) (vf c : Nat), 1 ≤ vf → vf ≤ s.pkg.numVfs → c < 256 → (ctxOf s.pkg c).fn = vf → (ctxOf s.pkg c).st ≠ ctxResetting → mayReset s c →
    Does (.flrVf vf) s fun q => resetSampled s.pkg q c ∧ (ctxOf q c).fn = vf) ∧
  (∀ (s : State) (c : Nat), s.pkg.glb.hostLink = true → c < 256 → (ctxOf s.pkg c).fn = 0 → (ctxOf s.pkg c).st ≠ ctxResetting → mayReset s c →
    Does .flrPf s fun q => resetSampled s.pkg q c ∧ (ctxOf q c).fn = 0) ∧
  (∀ (s : State) (n c : Nat), s.pkg.glb.hostLink = true → n ≤ 63 → c < 256 → Does (.vfEnableClear n) s fun q =>
    q.numVfs = n ∧
      (n < (ctxOf s.pkg c).fn → (ctxOf s.pkg c).fn ≤ s.pkg.numVfs →
        (ctxOf q c).fn = 0 ∧ ((ctxOf s.pkg c).st ≠ ctxResetting → mayReset s c → resetSampled s.pkg q c)) ∧
      ((ctxOf s.pkg c).fn ≤ n ∨ s.pkg.numVfs < (ctxOf s.pkg c).fn →
        (ctxOf q c).fn = (ctxOf s.pkg c).fn ∧ (ctxOf q c).st = (ctxOf s.pkg c).st)) ∧
  (∀ (s : State) (ltssm : Nat), s.pkg.glb.hostLink = true → Does (.hostLinkDown ltssm) s fun q =>
    q.glb.hostLink = false ∧ ∀ c, (ctxOf s.pkg c).st = ctxActive →
      (ctxOf q c).st = ctxFaulted ∧ (ctxOf q c).faultStatus = stInternalFault ∧ (ctxOf q c).faultCode = codeHostLinkDown) ∧
  (∀ (s : State) (c ring : Nat),
    ((ctxOf s.pkg c).st = ctxActive ∧ ring < 3) ∨
      ((ctxOf s.pkg c).st = ctxResetting ∧ (ctxOf s.pkg c).enable = true ∧ ring < 2 ∧ outOfSteps s.pkg c = true) →
    Does (.ringWriteFailed c ring) s fun q =>
      (ctxOf q c).st = ctxFaulted ∧ (ctxOf q c).faultStatus = stPermission ∧ (ctxOf q c).faultCode = codeRingWriteFailed ∧
        ((ctxOf s.pkg c).st = ctxResetting →
          Out.hostWrite (ctxOf s.pkg c).fn (ctxOf s.pkg c).cqBase (zeros (32 * 2 ^ (ctxOf s.pkg c).cqLog)) ∈ q.out ∧
          Out.hostWrite (ctxOf s.pkg c).fn (ctxOf s.pkg c).eqBase (zeros (32 * 2 ^ (ctxOf s.pkg c).eqLog)) ∈ q.out)) ∧
  (∀ (s : State) (c i n : Nat), (ctxOf s.pkg c).st = ctxActive → s.pkg.glb.fwFault = false → (ctxOf s.pkg c).reading = some (i, n) →
    Does (.descriptorFetchDone c none) s (fun q =>
      (ctxOf q c).st = ctxFaulted ∧ (ctxOf q c).faultStatus = stPermission ∧ (ctxOf q c).faultCode = codeDescReadFailed) ∧
    ∀ b : Bytes, b.length = 64 * n → Does (.descriptorFetchDone c (some b)) s fun q =>
      ∃ k, k ≤ n ∧ (ctxOf q c).fetched = (fetchedOf (ctxOf s.pkg c).sqLog i n b).drop k ∧
        (ctxOf q c).sqHead = (if k = 0 then (ctxOf s.pkg c).sqHead else (i + k) % 2 ^ (ctxOf s.pkg c).sqLog) ∧
        (ctxOf q c).taken = Nat.repeat inc64 k (ctxOf s.pkg c).taken ∧
        (0 < n → behindFence (ctxOf s.pkg c) = false → fieldAt b 0 1 ≠ 8 → slotsFor (fieldAt b 0 1) ≤ cqFree (ctxOf s.pkg c) → 0 < k)) ∧
  ∀ (s : State) (c ring : Nat), ring < 2 → modTimeUp s.pkg c (ring = 0) = true → Does (.irqModerationTime c ring) s fun q =>
    (if ring = 0 then (ctxOf q c).modC else (ctxOf q c).modE).timed = true ∧ ∀ k, k ≠ c → ctxOf q k = ctxOf s.pkg k

/-- R261: a doorbell value is ignored when its index is not below the ring's entry count, when a head does not lie between the last head and the
tail, and at a context that is not ACTIVE: it sets DB_INVALID, an ACTIVE context gets a DOORBELL_INVALID event with LENGTH_INVALID, and
the ring keeps its index. Any other value is the ring's new index, and a head gives its records' space back; a submission tail of
a context that reads nothing starts a read of up to 32 descriptors from the head, up to the ring's end (R264). Of the values of a tick only
the last is taken (R67): one that a later event of its register replaces does nothing. (That a head equal to the present one on a full ring
gives all its records back is log entry 26.) -/
def Obligations.Doorbells : Prop :=
  ∀ (s : State) (fn c off : Nat) (cmd : Instr) (v : Word32), reaches s.pkg fn c = true →
    (cmd, off) ∈ [(Instr.dbSqTail fn c v, 0), (.dbCqHead fn c v, 4), (.dbEqHead fn c v, 8)] →
    let x := ctxOf s.pkg c
    let i := v.toNat % 2 ^ 16
    let log2 := if off = 0 then x.sqLog else if off = 4 then x.cqLog else x.eqLog
    let head := if off = 4 then x.cqHead else x.eqHead
    let used := if off = 4 then x.cqUsed else x.eqUsed
    let marked_ := modCtx s.pkg c fun y => { y with dbInvalid := true }
    (latest cmd s = false → Idles cmd s) ∧ (latest cmd s = true →
    (x.st ≠ ctxActive → exec cmd s = .next { s with pkg := marked_ }) ∧
    (x.st = ctxActive → 2 ^ log2 ≤ i ∨ (off ≠ 0 ∧ used < ringSpan (2 ^ log2) head i) →
      exec cmd s = .next { s with pkg := logEvent marked_ c stLengthInvalid codeDoorbellInvalid 0 off v.toNat 0 }) ∧
    (x.st = ctxActive → off = 0 → i < 2 ^ log2 → Does cmd s fun q =>
      (ctxOf q c).sqTail = i ∧ (ctxOf q c).sqHead = x.sqHead ∧
        (x.reading = none → x.fetched = [] → s.pkg.glb.fwFault = false → x.sqHead < 2 ^ log2 → 0 < ringSpan (2 ^ log2) x.sqHead i →
          (ctxOf q c).reading = some (x.sqHead, min (min 32 (ringSpan (2 ^ log2) x.sqHead i)) (2 ^ log2 - x.sqHead)))) ∧
    (x.st = ctxActive → off = 4 → i < 2 ^ log2 → ringSpan (2 ^ log2) head i ≤ used → Does cmd s fun q =>
      (ctxOf q c).cqHead = i ∧ (ctxOf q c).cqUsed + (if ringSpan (2 ^ log2) head i = 0 ∧ used = 2 ^ log2 then used else ringSpan (2 ^ log2) head i) = used) ∧
    (x.st = ctxActive → off = 8 → i < 2 ^ log2 → ringSpan (2 ^ log2) head i ≤ used → Does cmd s fun q =>
      (ctxOf q c).eqHead = i ∧ (x.eqDropped = 0 → (ctxOf q c).eqUsed + (if ringSpan (2 ^ log2) head i = 0 ∧ used = 2 ^ log2 then used else ringSpan (2 ^ log2) head i) = used)))

/-! ### Descriptors -/

/-- ADMIT, APPEND, CANCEL, PAUSE and RESUME, each the next descriptor of its source (R270, R274, R288, R299 to R301, R336). An ADMIT that a check
refuses makes no request; one that passes holds the lowest FREE entry in ADMITTING until its pen is ACTIVE. At an ACTIVE pen it is decided at
once: with frames for its prompt, and a deadline and an interval that the prediction meets, it is in PREFILL with its frames reserved, its limit
and its first deadline, sharing the pages of its PREFIX request, and its prompt is read; without the frames, or with a time that cannot be met,
it is refused and counted. The others act on the request that the handle names, and change no request when the handle names none. An APPEND
waits for its read; a CANCEL ends the request, at once or, in a step, by DRAINING, waits where it is DRAINING, and comes late, with OK_CANCEL_LATE,
in the tick in which the turn ended; a PAUSE makes it PAUSED with its time to live, or waits for the step; a RESUME gives back the state that
the request was in. -/
def Obligations.RequestDescriptors : Prop :=
  ∀ (s : State) (src : Src) (d : Desc),
    let c := srcCtx s.pkg src
    let h := fieldAt d.raw 8 4
    (∀ st, due s.pkg src 1 = some d → admitEarly s.pkg c d.raw = some st → Does (.admitReq src) s fun q =>
      q.reqs = s.pkg.reqs ∧ q.lastGen = s.pkg.lastGen) ∧
    (∀ e, due s.pkg src 1 = some d → admitEarly s.pkg c d.raw = none → freeEntryOf s.pkg = some e →
      (penOf s.pkg (ctxOf s.pkg c).pen).st ≠ penActive → Does (.admitReq src) s fun q =>
        reqOf q e = reqFrom s.pkg c e d ∧ (reqOf q e).st = rqAdmitting ∧ (reqOf q e).gen ≠ 0 ∧
          tget 0 q.lastGen e = (reqOf q e).gen ∧ ∀ k, k ≠ e → reqOf q k = reqOf s.pkg k) ∧
    (∀ e, due s.pkg src 1 = some d → admitEarly s.pkg c d.raw = none → freeEntryOf s.pkg = some e →
      (penOf s.pkg (ctxOf s.pkg c).pen).st = penActive →
      let r := reqFrom s.pkg c e d
      let n := r.pen
      let x := penOf s.pkg n
      let pe := r.prefixH % 4096
      let whole := if r.prefixH = 0 then 0 else sharedWhole s.pkg pe r.prefixTokens n
      let frames := (ceilDiv (r.promptTokens + positionsOf s.pkg n) (pageSize s.pkg n) - whole) * gOf (poolOf s.pkg n)
      let own := ceilDiv (r.promptTokens - r.prefixTokens) (s.pkg.rq.prefillSlots * positionsOf s.pkg n)
      let ahead := (entriesOfPen s.pkg n).filter fun a =>
        decide ((reqOf s.pkg a).st = rqPrefill ∨ (reqOf s.pkg a).st = rqDecode) &&
          servedBefore (reqOf s.pkg a).nextDl (reqOf s.pkg a).priority a (dlAfter s.pkg r.firstDl) r.priority e
      let wait := if x.step.isSome then x.stepEnd - now s.pkg else 0
      (frames ≤ freeAdmit (poolOf s.pkg n) →
        (s.pkg.rq.timeAdmit = true → (r.firstDl = 0 ∨
            wait + (own + sumL (ahead.map (slotsOf s.pkg)) / batchOf s.pkg n) * x.pred ≤ r.firstDl) ∧
          (r.interval = 0 ∨ x.pred ≤ r.interval)) → Does (.admitReq src) s fun q =>
        (reqOf q e).st = rqPrefill ∧ (reqOf q e).gen = r.gen ∧ (reqOf q e).nextDl = dlAfter s.pkg r.firstDl ∧
          (reqOf q e).limit = r.promptTokens + r.maxNew ∧ (reqOf q e).spec = min r.spec (positionsOf s.pkg n - 1) ∧
          (reqOf q e).reserved = frames ∧ (poolOf q n).reserved = (poolOf s.pkg n).reserved + frames ∧
          (reqOf q e).kvDone = (if r.prefixH ≠ 0 ∧ (reqOf s.pkg pe).pen = n then r.prefixTokens else 0) ∧
          q.rq.admitted = inc64 s.pkg.rq.admitted ∧
          Out.hostRead (ctxOf s.pkg c).fn (fieldAt d.raw 16 8) (4 * r.promptTokens) ∈ q.out ∧ ∀ k, k ≠ e → reqOf q k = reqOf s.pkg k) ∧
      (freeAdmit (poolOf s.pkg n) < frames → Does (.admitReq src) s fun q =>
        (reqOf q e).st = rqFree ∧ q.rq.deniedMem = inc64 s.pkg.rq.deniedMem ∧ q.rq.admitted = s.pkg.rq.admitted ∧
          (poolOf q n).reserved = (poolOf s.pkg n).reserved) ∧
      (frames ≤ freeAdmit (poolOf s.pkg n) → s.pkg.rq.timeAdmit = true →
        (0 < r.firstDl ∧ r.firstDl < wait + own * x.pred) ∨ (0 < r.interval ∧ r.interval < x.pred) → Does (.admitReq src) s fun q =>
        (reqOf q e).st = rqFree ∧ q.rq.deniedTime = inc64 s.pkg.rq.deniedTime ∧ q.rq.admitted = s.pkg.rq.admitted ∧
          (poolOf q n).reserved = (poolOf s.pkg n).reserved)) ∧
    (∀ cmd type, (cmd, type) ∈ [(Instr.append src, 2), (.cancel src, 3), (.pause src, 4), (.resume src, 5)] →
      due s.pkg src type = some d → entryOf s.pkg c h = none → Does cmd s fun q => q.reqs = s.pkg.reqs) ∧
    (∀ cmd type e, (cmd, type) ∈ [(Instr.append src, 2), (.pause src, 4), (.resume src, 5)] → due s.pkg src type = some d →
      entryOf s.pkg c h = some e → (reqOf s.pkg e).st = rqDraining ∨ (reqOf s.pkg e).st = rqDone → Does cmd s fun q => q.reqs = s.pkg.reqs) ∧
    ∀ e, entryOf s.pkg c h = some e →
      let r := reqOf s.pkg e
      (due s.pkg src 2 = some d → r.st ≠ rqDraining → r.st ≠ rqDone →
        firstFail (headRsv d.raw ++ [count21 d.raw 12 1, hostAddrOk d.raw 16 4, count21 d.raw 24 0, rsv d.raw 28 36]) = none →
        Does (.append src) s fun q =>
          (reqOf q e).st = r.st ∧ (reqOf q e).appends.length = r.appends.length + 1 ∧
            (∃ t ∈ (reqOf q e).appends, t.count = fieldAt d.raw 12 4 ∧ t.addr = fieldAt d.raw 16 8 ∧ t.maxNew = fieldAt d.raw 24 4) ∧
            ∀ k, k ≠ e → reqOf q k = reqOf s.pkg k) ∧
      (due s.pkg src 3 = some d → firstFail (headRsv d.raw ++ [rsv d.raw 12 52]) = none → r.turnEnded = true →
        Does (.cancel src) s fun q =>
          (reqOf q e).st = rqDone ∧ (reqOf q e).endStatus = stOkCancelLate ∧ (reqOf q e).held.length = r.held.length + 1) ∧
      (due s.pkg src 3 = some d → firstFail (headRsv d.raw ++ [rsv d.raw 12 52]) = none → r.turnEnded = false →
        (r.st = rqDraining → Does (.cancel src) s fun q =>
          (reqOf q e).st = rqDraining ∧ (reqOf q e).endStatus = r.endStatus ∧ (reqOf q e).held.length = r.held.length + 1) ∧
        (r.st = rqDone → Does (.cancel src) s fun q => q.reqs = s.pkg.reqs) ∧
        (r.st ≠ rqDone → r.st ≠ rqDraining → r.inStep = true → Does (.cancel src) s fun q =>
          (reqOf q e).st = rqDraining ∧ (reqOf q e).endStatus = stCancelled ∧ (reqOf q e).held.length = r.held.length + 1) ∧
        (r.st ≠ rqDone → r.st ≠ rqDraining → r.inStep = false → Does (.cancel src) s fun q =>
          (reqOf q e).st = rqDone ∧ (reqOf q e).endStatus = stCancelled ∧ (reqOf q e).nextDl = 0 ∧ e ∈ q.rq.doneQ)) ∧
      (due s.pkg src 4 = some d → r.st ≠ rqDraining → r.st ≠ rqDone →
        1 ≤ fieldAt d.raw 12 4 → fieldAt d.raw 12 4 ≠ 0xFFFFFFFF → firstFail (headRsv d.raw ++ [rsv d.raw 16 48]) = none →
        (r.inStep = true ∨ r.st = rqSwapped → Does (.pause src) s fun q => (reqOf q e).pausePending = true ∧ (reqOf q e).st = r.st) ∧
        (r.inStep = false → r.st ≠ rqSwapped → Does (.pause src) s fun q =>
          (reqOf q e).st = rqPaused ∧ (reqOf q e).ttlExp = now s.pkg + fieldAt d.raw 12 4 ∧
            (r.st ≠ rqPaused → (reqOf q e).prev = r.st ∧ (reqOf q e).nextDl = 0))) ∧
      (due s.pkg src 5 = some d → firstFail (headRsv d.raw ++ [rsv d.raw 12 52]) = none →
        (r.st ≠ rqDraining → r.st ≠ rqDone → r.st ≠ rqPaused → Does (.resume src) s fun q => q.reqs = s.pkg.reqs) ∧
        (r.st = rqPaused → Does (.resume src) s fun q =>
          (reqOf q e).st = r.prev ∧ (reqOf q e).ttlExp = 0 ∧ (reqOf q e).nextDl = (if r.firstDl = 0 then 0 else now s.pkg + r.firstDl) ∧
            (hostKeys s.pkg e ≠ [] → (reqOf q e).resumeD.isSome = true)))

/-- FENCE, FENCE_COMPLETE, ROLLCALL, ROLLCALL_DONE, SET_SAMPLING and HINT (R266, R272, R281, R404): a FENCE is pending until everything it
waits for has ended; a ROLLCALL is busy, with the context's faults handed over, until its DESC record stands at the index it kept;
SET_SAMPLING writes one sampling entry, or none when a field is out of range; a HINT that is taken joins the hints, and one that is
refused does not. -/
def Obligations.OtherDescriptors : Prop :=
  (∀ (s : State) (c : Nat) (d : Desc), due s.pkg (.ring c) 7 = some d →
    (fieldAt d.raw 8 1 < 2 → firstFail (headRsv d.raw ++ [rsv d.raw 9 55]) = none → Does (.fence c) s fun q =>
      (ctxOf q c).fencePending = true ∧ q.reqs = s.pkg.reqs) ∧
    (2 ≤ fieldAt d.raw 8 1 → Does (.fence c) s fun q => (ctxOf q c).fencePending = (ctxOf s.pkg c).fencePending)) ∧
  (∀ (s : State) (c : Nat), (ctxOf s.pkg c).st = ctxActive → s.pkg.glb.fwFault = false →
    (∀ d, fenceReady s.pkg c = some d → Does (.fenceComplete c) s fun q =>
      (ctxOf q c).fencePending = false ∧ (d.core = 0 → (ctxOf q c).live = [] ∧ (ctxOf q c).records = inc64 (ctxOf s.pkg c).records)) ∧
    (fenceReady s.pkg c = none → Idles (.fenceComplete c) s)) ∧
  (∀ (s : State) (c : Nat) (d : Desc), due s.pkg (.ring c) 9 = some d →
    firstFail (headRsv d.raw ++ [hostAddrOk d.raw 8 4096, rsv d.raw 20 44]) = none → 264832 ≤ fieldAt d.raw 16 4 →
    fieldAt d.raw 16 4 ≠ 0xFFFFFFFF → Does (.rollcall c) s fun q => (ctxOf q c).rollBusy = true ∧ (ctxOf q c).faults = []) ∧
  (∀ (s : State) (c : Nat) (d : Desc), (ctxOf s.pkg c).st = ctxActive → s.pkg.glb.fwFault = false → rollPending s.pkg c = some d →
    Does (.rollcallDone c) s fun q =>
      (ctxOf q c).rollBusy = false ∧ (ctxOf q c).records = inc64 (ctxOf s.pkg c).records ∧
        (∀ y, y ∈ (ctxOf q c).live → sameDesc y d = false) ∧
        Out.hostWrite (ctxOf s.pkg c).fn ((ctxOf s.pkg c).cqBase + 32 * (d.snapIndex % 2 ^ 16))
          (withPhase (bitOf d.snapIndex 16) (descBytes s.pkg d stOk 0 false false)) ∈ q.out) ∧
  (∀ (s : State) (src : Src) (d : Desc), due s.pkg src 10 = some d →
    let c := srcCtx s.pkg src
    let b := d.raw
    let w (off : Nat) : Word32 := BitVec.ofNat 32 (fieldAt b off 4)
    (firstFail (headRsv b ++ [rsvHigh b 8 16, rsv b 10 2, count21 b 28 0, rsv b 32 32]) = none → fieldAt b 9 1 ≤ 64 →
      isFinite (w 12) = true → fle 0#32 (w 12) = true → flt 0#32 (w 16) = true → fle (w 16) fOne = true → fle 0#32 (w 20) = true →
      flt (w 20) fOne = true → isPos (w 24) = true → Does (.setSampling src) s fun q =>
        tget {} (ctxOf q c).sampling (fieldAt b 8 1) =
          { topK := fieldAt b 9 1, temp := w 12, topP := w 16, minP := w 20, repPenalty := w 24, repWindow := fieldAt b 28 4 } ∧
        ∀ k, k ≠ fieldAt b 8 1 → tget {} (ctxOf q c).sampling k = tget {} (ctxOf s.pkg c).sampling k) ∧
    (64 < fieldAt b 9 1 ∨ flt 0#32 (w 16) = false ∨ isPos (w 24) = false → Does (.setSampling src) s fun q =>
      (ctxOf q c).sampling = (ctxOf s.pkg c).sampling)) ∧
  ∀ (s : State) (c : Nat) (d : Desc), due s.pkg (.ring c) 6 = some d →
    let n := (ctxOf s.pkg c).pen
    let start := fieldAt d.raw 8 8
    let len := fieldAt d.raw 16 4
    let watts := fieldAt d.raw 20 4
    (firstFail (headRsv d.raw ++ [rsv d.raw 24 40]) = none → 1 ≤ len → len < 2 ^ 32 - 1 → 1 ≤ watts → watts ≤ 4200 →
      (penOf s.pkg n).st = penBound ∨ (penOf s.pkg n).st = penActive → start ≤ now s.pkg + 100000000 →
      (s.pkg.lsh.hints.filter fun x => decide (x.pen = n ∧ now s.pkg < x.stop)).length < 8 → Does (.hint c) s fun q =>
        q.lsh.hints = s.pkg.lsh.hints ++
          (if now s.pkg < start + len ∧ s.pkg.lsh.hintEn = true then
            [{ ctx := c, pen := n, watts := watts, start := start, stop := start + len }] else [])) ∧
    (len = 0 ∨ 4200 < watts ∨ now s.pkg + 100000000 < start → Does (.hint c) s fun q => q.lsh = s.pkg.lsh)

/-! ### Requests -/

/-- ADMIT_HOLD_EXPIRY, PROMPT_READ_DONE, APPEND_READ_DONE, DEADLINE_MISSED and TTL_EXPIRY (R290, R291, R294, R300, R301, R335): an ADMITTING
request that has waited too long frees its entry, and of another entry no more than KV_DONE can change; a prompt of good tokens is the request's history, and a bad token ends it; a read
that the host refuses makes the context FAULTED; an APPEND of good tokens and room extends history and limit; a missed
deadline marks the request late, counts, and sets the next one, and of a request that no step holds the context's policy acts at once: it goes
on, falls back to the other pen, from PREFILL, where that is possible, or is aborted (R296); PAUSED pages that outlive their time end the request.
SLOT_WORD, CANDIDATE_RECORD and TOKEN_SELECT (R304 to R306, R308, R366): a slot word stands at its place, a candidate record of the present step at its own place
is in hand in place of an older one of its row and sender, both are refused beyond the Fetch space, and with a QUSED or a COUNT that R14 to
R16 refuse; a selection is made once for a
slot whose records are all in, and the counts of selected tokens rise. -/
def Obligations.RequestAndFetchEvents : Prop :=
  ((∀ (s : State) (e : Nat), fwRuns s.pkg = true → holdOver s.pkg e = true → Does (.admitHoldExpiry e) s fun q =>
    (reqOf q e).st = rqFree ∧ ∀ k, k ≠ e → ∃ d, reqOf q k = { reqOf s.pkg k with kvDone := d }) ∧
  (∀ (s : State) (e : Nat), fwRuns s.pkg = true → served s.pkg e = true → (reqOf s.pkg e).promptRead = false →
    Does (.promptReadDone e none) s (fun q =>
      (ctxOf q (reqOf s.pkg e).ctx).st = ctxFaulted ∧ (ctxOf q (reqOf s.pkg e).ctx).faultCode = codeTokenReadFailed) ∧
    ∀ ts : List Word32, ts.length = (reqOf s.pkg e).promptTokens →
      (badToken (vocabOf s.pkg (reqOf s.pkg e).pen) ts = none → prefixDiff s.pkg e (ts.map (·.toNat)) = none →
        Does (.promptReadDone e (some ts)) s fun q =>
          (reqOf q e).hist = ts.map (·.toNat) ∧ (reqOf q e).promptRead = true ∧ (reqOf q e).st = (reqOf s.pkg e).st) ∧
      (badToken (vocabOf s.pkg (reqOf s.pkg e).pen) ts ≠ none → Does (.promptReadDone e (some ts)) s fun q =>
        (reqOf q e).st = rqDone ∧ (reqOf q e).endStatus = stFormatInvalid)) ∧
  (∀ (s : State) (e : Nat) (t : TokRead), fwRuns s.pkg = true → served s.pkg e = true →
    (reqOf s.pkg e).appends.find? (fun t => t.issued && t.data.isNone) = some t →
    Does (.appendReadDone e none) s (fun q => (ctxOf q (reqOf s.pkg e).ctx).st = ctxFaulted) ∧
    ∀ ts : List Word32, ts.length = t.count →
      ((reqOf s.pkg e).inStep = true → Does (.appendReadDone e (some ts)) s fun q =>
        (reqOf q e).held = (reqOf s.pkg e).held ++ [t.desc] ∧ (reqOf q e).hist = (reqOf s.pkg e).hist) ∧
      ((reqOf s.pkg e).inStep = false → badToken (vocabOf s.pkg (reqOf s.pkg e).pen) ts = none →
        (reqOf s.pkg e).limit + t.count + t.maxNew ≤ 1048576 →
        newFrames s.pkg e ((reqOf s.pkg e).hist.length + t.count) ≤ freeAdmit (poolOf s.pkg (reqOf s.pkg e).pen) →
        Does (.appendReadDone e (some ts)) s fun q =>
          (reqOf q e).hist = (reqOf s.pkg e).hist ++ ts.map (·.toNat) ∧ (reqOf q e).limit = (reqOf s.pkg e).limit + t.count + t.maxNew)) ∧
  (∀ (s : State) (e : Nat), fwRuns s.pkg = true → liveReq (reqOf s.pkg e) = true → (reqOf s.pkg e).nextDl ≠ 0 →
    (reqOf s.pkg e).nextDl ≤ now s.pkg → Does (.deadlineMissed e) s fun q =>
      (reqOf q e).late = true ∧ q.rq.late = inc64 s.pkg.rq.late ∧
        ((reqOf s.pkg e).inStep = true → (reqOf q e).heldPolicy = true ∧ (reqOf q e).st = (reqOf s.pkg e).st ∧
          (reqOf q e).nextDl = (if (reqOf s.pkg e).interval = 0 then 0 else now s.pkg + (reqOf s.pkg e).interval)) ∧
        ((reqOf s.pkg e).inStep = false →
          let r := reqOf s.pkg e
          let pol := (ctxOf s.pkg r.ctx).policy
          let acts := r.st = rqPrefill ∨ r.st = rqDecode ∨ r.st = rqSwapped
          let m := (penOf s.pkg r.pen).fallback % 16
          let dl := if r.interval = 0 then 0 else now s.pkg + r.interval
          (¬ acts ∨ (pol ≠ 1 ∧ pol ≠ 2) ∨ (pol = 1 ∧ fallbackBar s.pkg e ≠ none) →
            (reqOf q e).st = r.st ∧ (reqOf q e).pen = r.pen ∧ (reqOf q e).nextDl = dl) ∧
          (acts → pol = 2 → (reqOf q e).st = rqDone ∧ (reqOf q e).endStatus = stAbortedDeadline ∧ q.rq.aborted = inc64 s.pkg.rq.aborted) ∧
          (acts → pol = 1 → fallbackBar s.pkg e = none → r.held = [] →
            (reqOf q e).st = rqPrefill ∧ (reqOf q e).pen = m ∧ (reqOf q e).fellBack = true ∧ (reqOf q e).kvDone = 0 ∧
              (reqOf q e).nextDl = (if r.firstDl = 0 then 0 else now s.pkg + r.firstDl) ∧
              (reqOf q e).reserved = ceilDiv (r.hist.length + positionsOf s.pkg m) (pageSize s.pkg m) * gOf (poolOf s.pkg m) ∧
              q.rq.fellBack = inc64 s.pkg.rq.fellBack))) ∧
  ∀ (s : State) (e : Nat), fwRuns s.pkg = true → (reqOf s.pkg e).st = rqPaused → (reqOf s.pkg e).ttlExp ≠ 0 →
    (reqOf s.pkg e).ttlExp ≤ now s.pkg → Does (.ttlExpiry e) s fun q =>
      (reqOf q e).st = rqDone ∧ (reqOf q e).endStatus = stTtlExpired ∧ e ∈ q.rq.doneQ ∧ (reqOf q e).ttlExp = 0) ∧
  (∀ (s : State) (pen : Nat), fwRuns s.pkg = true →
    (∀ (k : Nat) (w : Word64), k < groupCount s.pkg pen * (imageOf s.pkg pen).batchSlots → bitsOf w.toNat 34 32 ≠ 7 →
      bitsOf w.toNat 34 32 ≤ (imageOf s.pkg pen).positions → Does (.slotWord pen (8 * k) w) s fun q =>
      tget 0 (penOf q pen).slotWords k = w.toNat ∧
        (∀ j, j ≠ k → tget 0 (penOf q pen).slotWords j = tget 0 (penOf s.pkg pen).slotWords j) ∧ ∀ n, n ≠ pen → penOf q n = penOf s.pkg n) ∧
    (∀ (off : Nat) (w : Word64), off % 8 ≠ 0 ∨ groupCount s.pkg pen * (imageOf s.pkg pen).batchSlots ≤ off / 8 ∨
      bitsOf w.toNat 34 32 = 7 ∨ (imageOf s.pkg pen).positions < bitsOf w.toNat 34 32 → Idles (.slotWord pen off w) s) ∧
    (∀ b : Bytes, (penOf s.pkg pen).step.isSome = true →
      let c := candOf s.pkg b
      let i := imageOf s.pkg pen
      let k := candIndex s.pkg pen c.slot c.pos c.row c.sender
      k < groupCount s.pkg pen * i.batchSlots * i.positions * i.positions → c.pos < i.positions → c.row < i.positions →
      c.sender < groupCount s.pkg pen → candCountBad s.pkg pen b = false → fieldAt b 0 4 = (penOf s.pkg pen).groupStep % 2 ^ 32 →
      Does (.candidateRecord pen (1024 * k) b) s fun q =>
        (stepNow q pen).cands = (stepNow s.pkg pen).cands.filter (fun y => !sameCand y c) ++ [c]) ∧
    (∀ (off : Nat) (b : Bytes), fieldAt b 0 4 ≠ (penOf s.pkg pen).groupStep % 2 ^ 32 ∨ 64 < fieldAt b 7 1 % 128 ∨
      b.length < 32 + 8 * (fieldAt b 7 1 % 128) ∨
      (fieldAt b 7 1 % 128 = 0 ∧ (shardOf s.pkg pen (fieldAt b 8 2 % 4096)).2 ≠ 0) → Idles (.candidateRecord pen off b) s) ∧
    ∀ (slot : Nat) (u : SlotUse), tget none (stepNow s.pkg pen).slots slot = some u → u.select = true → candsIn s.pkg pen slot u = true →
      tget none (stepNow s.pkg pen).chosen slot = none → Does (.tokenSelect pen slot) s fun q =>
        ∃ x, tget none (stepNow q pen).chosen slot = some x ∧ q.rq.selected = satAdd sat64 s.pkg.rq.selected x.tokens.length ∧
          s.pkg.rq.latMax ≤ q.rq.latMax ∧ ∀ k, k ≠ slot → tget none (stepNow q pen).chosen k = tget none (stepNow s.pkg pen).chosen k)

/-! ### KV pages -/

/-- No copy back runs in the pen and no context swap in any pen, so that the landing of a copy out ends nothing else. -/
def outAlone (p : Pkg) (n : Nat) : Prop := (∀ x, x ∈ (poolOf p n).copies → isOut x = true) ∧ ∀ m, (poolOf p m).swap = none

/-- KV_HOST_COPY_DONE, KV_COW_COPY_DONE, SWAP_RETURN and CONTEXT_SWAP (R329, R337, R339, R341): a copy of a shared page ends with the source's bytes in every
new frame; a host that refuses a copy makes the request's context FAULTED; a frame that lands in the host region leaves its place
in DRAM for every request that names it, and one that another request has come to share goes out with its context alone; a frame that lands
in DRAM is the request's part, and with its last one a SWAPPED request's pages are back. SWAP_RETURN: a SWAPPED request whose pages are back
returns to the state it left, as one without a frame in the host region does; the first in the order of R339 whose frames fit begins its copies
back, and one whose context is not RESIDENT stays (where no RESUME of the pen waits for frames, for which R336 may pre-empt); a swap brings in
the runnable context when its frames fit, and otherwise swaps out a blocked one, whose requests are SWAPPED. (One frame a command, a return that
leaves the request's reservation as it was, and the P5 event of a landing at the tick's end or at SWAP_RETURN, are log entry 29.) -/
def Obligations.PageCommands : Prop :=
  (∀ (s : State) (pen : Nat) (k : Copy), fwRuns s.pkg = true → pen < 16 → runningCopy s.pkg pen = some k →
    ((ctxOf s.pkg (reqOf s.pkg k.entry).ctx).st = ctxActive ∨ (ctxOf s.pkg (reqOf s.pkg k.entry).ctx).st = ctxResetting →
      Does (.kvHostCopyDone pen none) s fun q =>
        (ctxOf q (reqOf s.pkg k.entry).ctx).st = ctxFaulted ∧
          (ctxOf q (reqOf s.pkg k.entry).ctx).faultCode = codeKvHostCopyFailed) ∧
    ∀ (key : Nat) (rest : List Nat) (f off : Nat) (b : Bytes), isOut k = true → k.keys = key :: rest →
      tget .unheld (reqOf s.pkg k.entry).parts key = .frame f →
      hostPlace (ctxOf s.pkg (reqOf s.pkg k.entry).ctx) (frameKib s.pkg pen) = some off →
      Does (.kvHostCopyDone pen (some b)) s fun q =>
        (goesOut s.pkg pen k f = false → q.kvp = s.pkg.kvp ∧
          (outAlone s.pkg pen → (reqOf q k.entry).parts = (reqOf s.pkg k.entry).parts)) ∧
        (goesOut s.pkg pen k f = true → q.kvp.hostOut = satAdd sat64 s.pkg.kvp.hostOut (1024 * frameKib s.pkg pen) ∧
          (outAlone s.pkg pen →
            Out.hostWrite (ctxOf s.pkg (reqOf s.pkg k.entry).ctx).fn ((ctxOf s.pkg (reqOf s.pkg k.entry).ctx).hostAddr + 1024 * off)
              (frameGet s.pkg pen f 0 (1024 * frameKib s.pkg pen)) ∈ q.out ∧
            ∀ e, e ∈ sharers s.pkg pen (reqOf s.pkg k.entry).ctx key (.frame f) → tget .unheld (reqOf q e).parts key = .host off))) ∧
  (∀ (s : State) (pen : Nat) (k : Copy) (key off : Nat) (rest : List Nat) (b : Bytes), fwRuns s.pkg = true → pen < 16 →
    runningCopy s.pkg pen = some k → (poolOf s.pkg pen).copies = [k] → k.why = 3 ∨ k.why = 4 → k.keys = key :: rest →
    (reqOf s.pkg k.entry).pen = pen → (reqOf s.pkg k.entry).st ≠ rqFree → tget .unheld (reqOf s.pkg k.entry).parts key = .host off →
    pickStack (poolOf s.pkg pen) (partQuad s.pkg pen (key % max 1 (gOf (poolOf s.pkg pen)))) ≠ none → b.length = 1024 * frameKib s.pkg pen →
    Does (.kvHostCopyDone pen (some b)) s fun q =>
      (∃ f, tget .unheld (reqOf q k.entry).parts key = .frame f ∧ (tget {} (poolOf q pen).tab f).busy = true ∧
        frameGet q pen f 0 b.length = b) ∧
        q.kvp.hostIn = satAdd sat64 s.pkg.kvp.hostIn b.length ∧ (reqOf q k.entry).st = (reqOf s.pkg k.entry).st ∧
        (reqOf q k.entry).reserved = (reqOf s.pkg k.entry).reserved ∧
        (rest = [] → k.why = 4 → (reqOf s.pkg k.entry).st = rqSwapped → (reqOf q k.entry).back = true)) ∧
  (∀ (s : State) (pen frame dst : Nat), fwRuns s.pkg = true → (frame, dst) ∈ (poolOf s.pkg pen).cowCopies →
    frame ∉ ((poolOf s.pkg pen).cowCopies.map Prod.snd) → Does (.kvCowCopyDone pen frame) s fun q =>
      (tget {} (poolOf q pen).tab dst).data = (tget {} (poolOf s.pkg pen).tab frame).data ∧
        (∀ x, x ∈ (poolOf q pen).cowCopies ↔ x ∈ (poolOf s.pkg pen).cowCopies ∧ x.1 ≠ frame) ∧ ∀ n, n ≠ pen → penOf q n = penOf s.pkg n) ∧
  (∀ (s : State) (pen e : Nat), fwRuns s.pkg = true → pen < 16 → (∀ x ∈ (poolOf s.pkg pen).copies, x.why ≠ 3) →
    let swapped := (entriesOfPen s.pkg pen).filter fun k => decide ((reqOf s.pkg k).st = rqSwapped)
    e ∈ swapped →
    ((reqOf s.pkg e).back = true → (ctxOf s.pkg (reqOf s.pkg e).ctx).resident = true → (reqOf s.pkg e).held = [] →
      Does (.swapReturn pen) s fun q => (reqOf q e).st = (reqOf s.pkg e).prev ∧ (reqOf q e).back = false) ∧
    ((ctxOf s.pkg (reqOf s.pkg e).ctx).resident = false → Does (.swapReturn pen) s fun q => (reqOf q e).st = rqSwapped) ∧
    ((∀ k, k ∈ entriesOfPen s.pkg pen → (reqOf s.pkg k).back = false) → (sortBy (returnBefore s.pkg) swapped).head? = some e →
      mayReturn s.pkg e = true →
      (hostKeys s.pkg e = [] → (reqOf s.pkg e).held = [] → Does (.swapReturn pen) s fun q => (reqOf q e).st = (reqOf s.pkg e).prev) ∧
      (hostKeys s.pkg e ≠ [] → Does (.swapReturn pen) s fun q =>
        (reqOf q e).st = rqSwapped ∧ (reqOf q e).reserved = (reqOf s.pkg e).reserved ∧
          (⟨e, 4, hostKeys s.pkg e⟩ : Copy) ∈ (poolOf q pen).copies))) ∧
  ∀ (s : State) (pen c : Nat), fwRuns s.pkg = true → pen < 16 → (poolOf s.pkg pen).swap = none → takeRunnable s.pkg pen = some c →
    (backFits s.pkg c = false →
      ∀ b, takeBlocked s.pkg pen = some b → Does (.contextSwap pen) s fun q =>
        (ctxOf q b).resident = false ∧ (ctxOf q b).nonResidentAt = now s.pkg ∧ (poolOf q pen).ctxSwaps = inc64 (poolOf s.pkg pen).ctxSwaps ∧
          ∀ e, e ∈ entriesOf s.pkg b → (reqOf s.pkg e).st = rqPrefill ∨ (reqOf s.pkg e).st = rqDecode →
            (reqOf q e).st = rqSwapped ∧ (reqOf q e).prev = (reqOf s.pkg e).st) ∧
    (∀ e, e ∈ backEntries s.pkg c → (reqOf s.pkg e).pen < 16 → hostKeys s.pkg e ≠ [] → backFits s.pkg c = true →
      Does (.contextSwap pen) s fun q => (poolOf q pen).swap = some (c, true)) ∧
    ((∀ e, e ∈ backEntries s.pkg c → hostKeys s.pkg e = []) → swapCopies s.pkg c 5 = false → Does (.contextSwap pen) s fun q => (ctxOf q c).resident = true ∧ (poolOf q pen).swap = none)

/-! ### The Pack fabric -/

/-- R354: a port that waits for its peer's collar record takes the state of the first check that fails, in order: MAJOR or a minor further than 1 away,
VERSION_HELD; no plan here, NO_PLAN; no plan there or another digest, MISCABLED for reason 1; another chip, reason 2; another port,
reason 3. When every check passes it is UP, with the lower of the two minors. -/
def Obligations.CollarRecordEvaluated : Prop :=
  ∀ (s : State) (port : Nat) (rec : Bytes), powered s.pkg = true → port < 16 → fieldAt rec 0 1 = 1 → (portOf s.pkg port).st = ptCollar →
    (portOf s.pkg port).held = 0 → Does (.collarRecord port rec) s fun q =>
      let own := Config.protoMinor.toNat
      let major := fieldAt rec 5 1
      let minor := fieldAt rec 4 1
      let chip := fieldAt rec 2 2 % 4096
      let far := fieldAt rec 1 1 % 16
      let x := portOf q port
      if major ≠ 4 ∨ own + 1 < minor ∨ minor + 1 < own then x.st = ptVersionHeld
      else if s.pkg.fab.plan = none then x.st = ptNoPlan
      else if bitOf (fieldAt rec 2 2) 15 = false ∨ (rec.drop 16).take 16 ≠ planDigest s.pkg then x.st = ptMiscabled ∧ x.holdReason = 1
      else if (farEnd s.pkg port).map Prod.fst ≠ some chip then x.st = ptMiscabled ∧ x.holdReason = 2
      else if (farEnd s.pkg port).map Prod.snd ≠ some far then x.st = ptMiscabled ∧ x.holdReason = 3
      else x.st = ptUp ∧ x.agreedMinor = min minor own

/-- PORT_ENABLE, PORT_LIGHT_DETECT, PORT_TRAIN_PHASE_DONE, PORT_TRAIN_TIMEOUT, PORT_DOWN and FLIT_RECEIVE (R347 to R352, R374): a port goes from
DISABLED to DOWN when it is enabled, with light to TRAINING unless its optical engine is lost (R36), through its phases to COLLAR with its own record sent, and back to DOWN when a
phase overruns its limit or a condition of R350 holds; a flit in order is counted and expected no more, one that is lost or out of order
leaves the port discarding, and an idle flit changes neither. Training leaves nothing of an earlier bring-up to send again.
A held port that receives its collar record again unchanged stays as it is. (Which flits of an RS544 codeword are lost is log entry 31; that
the numbers start at 0 at training, and that a flit of KIND 3 is taken like one out of order, are log entry 45.) -/
def Obligations.PortCommands : Prop :=
  (∀ (s : State) (port : Nat) (v : Word32), runsReady s → port < 16 → latest (.portEnable 0 port v) s = true →
    (bitOf v.toNat 0 = true → (portOf s.pkg port).st = ptDisabled → s.pkg.fab.plan = none ∨ (linkOf s.pkg port).isSome = true →
      Does (.portEnable 0 port v) s fun q =>
        (portOf q port).enable = true ∧ (portOf q port).st = ptDown ∧ ∀ m, m ≠ port → portOf q m = portOf s.pkg m) ∧
    (bitOf v.toNat 0 = true → (portOf s.pkg port).st ≠ ptDisabled → Does (.portEnable 0 port v) s fun q =>
      portOf q port = { portOf s.pkg port with enable := true }) ∧
    (bitOf v.toNat 0 = false → Does (.portEnable 0 port v) s fun q => (portOf q port).enable = false ∧ (portOf q port).st = ptDisabled)) ∧
  (∀ (s : State) (port : Nat), powered s.pkg = true → port < 16 →
    (opticsUp s.pkg port = false → Idles (.portLightDetect port) s) ∧
    (opticsUp s.pkg port = true → (portOf s.pkg port).st = ptDown → Does (.portLightDetect port) s fun q =>
      (portOf q port).st = ptTraining ∧ (portOf q port).phase = 2 ∧ (portOf q port).rxNext = 0 ∧ (portOf q port).txNext = 0 ∧
        (portOf q port).sent = [] ∧ (portOf q port).controls = [] ∧ (∀ i, i < 4 → (laneOf q (4 * port + i)).los = false) ∧ ∀ m, m ≠ port → portOf q m = portOf s.pkg m) ∧
    ((portOf s.pkg port).st = ptTraining → (portOf s.pkg port).phase < 4 → Does (.portTrainPhaseDone port) s fun q =>
      portOf q port = { portOf s.pkg port with phase := (portOf s.pkg port).phase + 1, phaseAt := now s.pkg }) ∧
    ((portOf s.pkg port).st = ptTraining → 4 ≤ (portOf s.pkg port).phase → Does (.portTrainPhaseDone port) s fun q =>
      (portOf q port).st = ptCollar ∧ (portOf q port).phase = 5 ∧ Out.control port (collarBytes s.pkg port) ∈ q.out) ∧
    ((portOf s.pkg port).st = ptTraining ∨ (portOf s.pkg port).st = ptCollar →
      ((ticking s.pkg = true → phaseLimit (portOf s.pkg port).phase ≤ since s.pkg (portOf s.pkg port).phaseAt) →
        Does (.portTrainTimeout port) s fun q =>
          (portOf q port).st = ptDown ∧ (portOf q port).phase = 1 ∧ (portOf q port).trains = inc32 (portOf s.pkg port).trains ∧
            ((portOf s.pkg port).phase = 4 → 2 ≤ (portOf s.pkg port).fecFails → (portOf q port).fecLockFail = true)) ∧
      (ticking s.pkg = true → since s.pkg (portOf s.pkg port).phaseAt < phaseLimit (portOf s.pkg port).phase →
        Idles (.portTrainTimeout port) s)) ∧
    (∀ cause dark, 2 ≤ (portOf s.pkg port).st → downDue s.pkg port cause dark = true → Does (.portDown port ⟨cause, dark⟩) s fun q =>
      (portOf q port).st = ptDown ∧ (portOf q port).phase = 1 ∧ (portOf q port).insp = none ∧
        ((portOf s.pkg port).st = ptUp → (portOf q port).downSticky = true) ∧
        (isHeld (portOf s.pkg port).st = true → (portOf q port).held = (portOf s.pkg port).st)) ∧
    (∀ rec, isHeld (portOf s.pkg port).st = true → (portOf s.pkg port).collar = some rec → fieldAt rec 0 1 = 1 →
      Idles (.collarRecord port rec) s) ∧
    (3 ≤ (portOf s.pkg port).st → ∀ (b : Bytes) (errs : List Nat),
      let x := portOf s.pkg port
      let lost := if x.cwPos = 0 then wordLost x.rs544 errs else x.cwLost
      (lost = true ∨ flitSound b = false ∨ (flKind b ≠ 1 ∧ (flKind b = 3 ∨ flFseq b ≠ x.rxNext)) →
        Does (.flitReceive port b errs) s fun q =>
          (portOf q port).rxBad = true ∧ (portOf q port).rxNext = x.rxNext ∧ (portOf q port).rxFlits = x.rxFlits) ∧
      (lost = false → flitSound b = true → flKind b = 1 → Does (.flitReceive port b errs) s fun q =>
        (portOf q port).rxBad = x.rxBad ∧ (portOf q port).rxNext = x.rxNext ∧ (portOf q port).rxFlits = x.rxFlits) ∧
      (lost = false → flitSound b = true → flKind b = 0 ∨ flKind b = 2 → flFseq b = x.rxNext → Does (.flitReceive port b errs) s fun q =>
        (portOf q port).rxBad = false ∧ (portOf q port).rxNext = (x.rxNext + 1) % 4096 ∧ (portOf q port).rxFlits = inc64 x.rxFlits)))

/-- A request that reaches this package whole. -/
abbrev arrives (s : State) (port type : Nat) (b : Bytes) : Prop :=
  carries s.pkg port = true ∧ pktSound b = true ∧ (hdrOf b).type = type ∧ (hdrOf b).dst = chipNo s.pkg

/-- PACKET_LOAD, PACKET_STORE, PACKET_ATOMIC and FENCE_NOTICE at their destination (R364, R367 to R369, R376, R381, R384): a packet whose CRC or type
fails is counted and no more; a request of another epoch is answered EPOCH_STALE and counted; one that has been applied is counted, answered
again and changes no buffer; a misaligned one is answered ALIGNMENT_INVALID. A load of a pen's buffer by the firmware returns its
bytes; a store writes them and an atomic writes what its operation gives, at the offset that the address names, and nothing else of any
buffer, at once where its line is free; one whose line is not waits for it, with no effect but on the fabric (R379; that a line takes 25
requests in a tick is log entry 25); a good flagged notice fences the pen's group. -/
def Obligations.RequestsAtTheirDestination : Prop :=
  (∀ (s : State) (port : Nat) (b : Bytes) (c : Instr), carries s.pkg port = true →
    c ∈ [Instr.packetLoad port b, .packetStore port b, .packetAtomic port b, .loadResp port b, .storeAck port b, .atomicResp port b] →
    pktSound b = false → Does c s fun q => q.fab.e2eCrc = inc64 s.pkg.fab.e2eCrc ∧ q.fab.txns = s.pkg.fab.txns ∧ q.pens = s.pkg.pens ∧ q.fab.heard = s.pkg.fab.heard) ∧
  (∀ (s : State) (port type : Nat) (b : Bytes) (c : Instr),
    (c, type) ∈ [(Instr.packetLoad port b, 1), (.packetStore port b, 2), (.packetAtomic port b, 3)] → arrives s port type b →
    ((hdrOf b).epoch ≠ epochOf s.pkg → Does c s fun q => q = reply (staleRx s.pkg (hdrOf b)) (hdrOf b) stEpochStale []) ∧
    ((hdrOf b).epoch = epochOf s.pkg → type ≠ 1 → applied (srcOf s.pkg (hdrOf b).src) (hdrOf b).seq = true → Does c s fun q =>
      q.fab.dupDrop = inc64 s.pkg.fab.dupDrop ∧ q.pens = s.pkg.pens ∧ q.hnd = s.pkg.hnd) ∧
    ((hdrOf b).epoch = epochOf s.pkg → type = 1 → (hdrOf b).addr % 8 ≠ 0 → Does c s fun q =>
      q = reply (hear s.pkg (hdrOf b)) (hdrOf b) stAlignmentInvalid [])) ∧
  (∀ (s : State) (port : Nat) (b : Bytes), arrives s port 1 b → (hdrOf b).epoch = epochOf s.pkg → aligned (hdrOf b) = true →
    hdrLegal b = true → fromFirmware (hdrOf b).srcId = true → winOf (hdrOf b).addr < 2 → bufBar s.pkg (hdrOf b).addr (reqLen (hdrOf b)) = none →
    Does (.packetLoad port b) s fun q => q = reply (hear s.pkg (hdrOf b)) (hdrOf b) stOk
      (bufGet s.pkg (winPen (hdrOf b).addr) (winBuf (hdrOf b).addr) ((hdrOf b).addr % 2 ^ 32) (reqLen (hdrOf b)))) ∧
  (∀ (s : State) (port : Nat) (b : Bytes), arrives s port 2 b → (hdrOf b).epoch = epochOf s.pkg → aligned (hdrOf b) = true →
    hdrLegal b = true → (hdrOf b).runLen = 1 → applied (srcOf s.pkg (hdrOf b).src) (hdrOf b).seq = false →
    lineFree s.pkg (lineOf (hdrOf b)) = true → fromFirmware (hdrOf b).srcId = true → winOf (hdrOf b).addr < 2 → bufBar s.pkg (hdrOf b).addr (pktOf b).data.length = none →
    Does (.packetStore port b) s fun q =>
      writesBuffer s.pkg q (winPen (hdrOf b).addr) (winBuf (hdrOf b).addr) ((hdrOf b).addr % 2 ^ 32) (pktOf b).data ∧
        ∀ n, n ≠ winPen (hdrOf b).addr → penOf q n = penOf s.pkg n) ∧
  (∀ (s : State) (port : Nat) (b : Bytes), arrives s port 3 b → (hdrOf b).epoch = epochOf s.pkg → aligned (hdrOf b) = true →
    hdrLegal b = true → applied (srcOf s.pkg (hdrOf b).src) (hdrOf b).seq = false → lineFree s.pkg (lineOf (hdrOf b)) = true →
    fromFirmware (hdrOf b).srcId = true → winOf (hdrOf b).addr < 2 → bufBar s.pkg (hdrOf b).addr 8 = none →
    let old := leNat (bufGet s.pkg (winPen (hdrOf b).addr) (winBuf (hdrOf b).addr) ((hdrOf b).addr % 2 ^ 32) 8)
    let x := fieldAt (pktOf b).data 0 8
    let y := fieldAt (pktOf b).data 8 8
    let less (m n : Nat) : Bool := if (hdrOf b).signed then decide (signed64 m < signed64 n) else decide (m < n)
    let new := match (hdrOf b).atop with
      | 1 => (old + x) % 2 ^ 64
      | 2 => if less x old then x else old
      | 3 => if less old x then x else old
      | 4 => x
      | _ => if old = x then y else old
    Does (.packetAtomic port b) s fun q =>
      writesBuffer s.pkg q (winPen (hdrOf b).addr) (winBuf (hdrOf b).addr) ((hdrOf b).addr % 2 ^ 32) (toLE 8 new) ∧
        ∀ n, n ≠ winPen (hdrOf b).addr → penOf q n = penOf s.pkg n) ∧
  (∀ (s : State) (port type : Nat) (b : Bytes) (c : Instr),
    (c, type) ∈ [(Instr.packetStore port b, 2), (.packetAtomic port b, 3)] → arrives s port type b → (hdrOf b).epoch = epochOf s.pkg →
    (type = 2 → (hdrOf b).runLen ≤ 1) → applied (srcOf s.pkg (hdrOf b).src) (hdrOf b).seq = false →
    lineFree s.pkg (lineOf (hdrOf b)) = false → Does c s fun q => ∃ f, q = { s.pkg with fab := f } ∧ f.txns = s.pkg.fab.txns) ∧
  ∀ (s : State) (port : Nat) (b : Bytes), arrives s port 2 b → (hdrOf b).epoch = epochOf s.pkg → aligned (hdrOf b) = true →
    hdrLegal b = true → (hdrOf b).runLen = 1 → applied (srcOf s.pkg (hdrOf b).src) (hdrOf b).seq = false →
    lineFree s.pkg (lineOf (hdrOf b)) = true → winOf (hdrOf b).addr = 4 → spaceOf (hdrOf b).addr = 5 → (hdrOf b).flag = true → (hdrOf b).addr % 2 ^ 40 = 0 →
    (pktOf b).data.length = 32 →
    let n := spacePen (hdrOf b).addr
    (hdrOf b).srcId = 256 + n → (members (penOf s.pkg n)).any (fun m => decide (m.2 = (hdrOf b).src)) = true →
    (penOf s.pkg n).fenced = false → 1 < (penOf s.pkg n).groupSize → (penOf s.pkg n).st = penBound ∨ (penOf s.pkg n).st = penActive →
    Does (.fenceNotice port b) s fun q => (penOf q n).fenced = true ∧ (penOf q n).step = none ∧ (penOf q n).st = penBound

/-- LOAD_RESP, STORE_ACK, ATOMIC_RESP, LOAD_TIMEOUT, STORE_TIMEOUT, FABRIC_FENCE_COMPLETE and PKF_PROBE_GO (R372, R373, R376, R377, R388): a response that
answers an outstanding transaction completes it, with the error value for data on any status but OK, and any other one completes nothing; what a
load of the firmware brought, or that it brought nothing, stands for the fetch that made it (R375 to R377); a transaction with no answer in its time is completed with REMOTE_TIMEOUT and counted; a fence whose stores are all
acknowledged, or that a timeout has ended, completes; the probe's load is outstanding until then. (That a response with a reserved STATUS
completes with INTERNAL_FAULT is the model's choice, log entry 33; R22 states it for drivers.) -/
def Obligations.TransactionsAtTheirSource : Prop :=
  (∀ (s : State) (port type : Nat) (b : Bytes) (c : Instr),
    (c, type) ∈ [(Instr.loadResp port b, 4), (.storeAck port b, 5), (.atomicResp port b, 6)] → arrives s port type b →
    (∀ t, txnOf s.pkg (hdrOf b).tag = some t → answers s.pkg (hdrOf b) t = true → t.by_ = .probe → s.pkg.fab.waiters = [] → Does c s fun q =>
      q.fab.txns = s.pkg.fab.txns.filter (fun x => decide (x.pkt.h.tag ≠ (hdrOf b).tag)) ∧ q.fab.probeSt = 2 ∧
        q.fab.probeStatus = (if (hdrOf b).status < 21 ∨ (hdrOf b).status = stInternalFault then (hdrOf b).status else stInternalFault) ∧
        q.fab.probeData = (if (hdrOf b).status = stOk then (pktOf b).data else List.replicate (returnLen t.pkt.h) 0xEE)) ∧
    (∀ t, txnOf s.pkg (hdrOf b).tag = some t → answers s.pkg (hdrOf b) t = true → s.pkg.fab.waiters = [] → Does c s fun q =>
      q.fab.txns = s.pkg.fab.txns.filter (fun x => decide (x.pkt.h.tag ≠ (hdrOf b).tag)) ∧
        (t.by_ = .firmware → t.pkt.h.type = 1 →
          (t.pkt.h.addr, if (hdrOf b).status = stOk then some (pktOf b).data else none) ∈ q.fab.fwReads)) ∧
    (txnOf s.pkg (hdrOf b).tag = none → Does c s fun q => q = hear s.pkg (hdrOf b))) ∧
  (∀ (s : State) (tag : Nat) (t : Txn), powered s.pkg = true → txnOf s.pkg tag = some t → s.pkg.fab.waiters = [] →
    (isFetch t.pkt.h = true → t.at_ + s.pkg.fab.loadTimeout ≤ now s.pkg → Does (.loadTimeout tag) s fun q =>
      q.fab.txns = s.pkg.fab.txns.filter (fun x => decide (x.pkt.h.tag ≠ tag)) ∧ q.fab.loadTimeouts = inc64 s.pkg.fab.loadTimeouts ∧
        (t.by_ = .probe → q.fab.probeStatus = stRemoteTimeout ∧ q.fab.probeData = List.replicate (returnLen t.pkt.h) 0xEE) ∧
        (t.by_ = .firmware → t.pkt.h.type = 1 → (t.pkt.h.addr, none) ∈ q.fab.fwReads)) ∧
    (isFetch t.pkt.h = false → t.at_ + 2000 ≤ now s.pkg → Does (.storeTimeout tag) s fun q =>
      q.fab.txns = s.pkg.fab.txns.filter (fun x => decide (x.pkt.h.tag ≠ tag)) ∧ q.fab.storeTimeouts = inc64 s.pkg.fab.storeTimeouts)) ∧
  (∀ (s : State) (srcId : Nat), powered s.pkg = true →
    (∀ f, fenceDue s.pkg srcId = some f → Does (.fabricFenceComplete srcId) s fun q =>
      q.fab.fences = s.pkg.fab.fences.erase f ∧ ∀ x, x ∈ (bindOf q srcId).fq → x.index ≠ f.index) ∧
    (fenceDue s.pkg srcId = none → Idles (.fabricFenceComplete srcId) s)) ∧
  ∀ (s : State) (v : Word32), runsReady s → bitOf v.toNat 31 = true → s.pkg.fab.probeSt ≠ 1 → s.pkg.fab.waiters = [] →
    let h : Hdr := { type := 1, size := v.toNat % 32, dst := s.pkg.fab.probeAddr / 2 ^ 52, srcId := 511, addr := s.pkg.fab.probeAddr }
    (aligned h = false → Does (.pkfProbeGo 0 v) s fun q => q.fab.probeSt = 2 ∧ q.fab.probeStatus = stAlignmentInvalid ∧ q.fab.txns = s.pkg.fab.txns) ∧
    (aligned h = true → bitOf v.toNat 5 = false → s.pkg.fab.txns.length < 8192 → Does (.pkfProbeGo 0 v) s fun q =>
      q.fab.probeSt = 1 ∧ ∃ t, q.fab.txns = s.pkg.fab.txns ++ [t] ∧ t.by_ = .probe ∧ t.at_ = now s.pkg ∧
        t.pkt.h.addr = s.pkg.fab.probeAddr ∧ t.pkt.h.srcId = 511 ∧ t.pkt.h.type = 1 ∧ t.pkt.h.epoch = epochOf s.pkg)

/-- PACKET_FORWARD, LIVENESS_PROBE, MEMBER_UNREACHED, PLAN_TAKES_EFFECT and PKF_RRC_INVALIDATE (R358, R360, R361, R367, R375, R383, R384): a
packet for another chip, sound or not, goes on with one hop fewer, by which no more than its byte 2 and its four CRC bytes change, so that a sound
one stays sound and one whose CRC failed still fails; with no hop left it is discarded and counted; a silent peer is asked for its liveness word; a group with a member unreached for 500 ticks is fenced and its step ends; the plan that
waits becomes the plan, and its unconnected ports are DISABLED; the lines of the remote-read cache that meet the range, or all, are gone. -/
def Obligations.TransitReachAndPlan : Prop :=
  (∀ b : Bytes, 48 ≤ b.length →
    (∀ k, k ≠ 2 → k + 8 < b.length ∨ b.length ≤ k + 4 → (lessHop b)[k]? = b[k]?) ∧ pktSound (lessHop b) = pktSound b) ∧
  (∀ b : Bytes, 48 ≤ b.length → (hdrOf b).hops ≠ 0 → hdrOf (lessHop b) = { hdrOf b with hops := (hdrOf b).hops - 1 }) ∧
  (∀ (s : State) (port : Nat) (b : Bytes), powered s.pkg = true → port < 16 → (portOf s.pkg port).st = ptUp → 48 ≤ b.length →
    (hdrOf b).dst ≠ chipNo s.pkg →
    ((hdrOf b).hops = 0 → Does (.packetForward port b) s fun q => q = modFab s.pkg fun f => { f with hopDrop := inc64 f.hopDrop }) ∧
    ((hdrOf b).hops ≠ 0 → Does (.packetForward port b) s fun q => q = routeBytes s.pkg port (lessHop b))) ∧
  (∀ (s : State) (chip : Nat), fwRuns s.pkg = true → isPeer s.pkg chip = true → silent s.pkg chip 100 = true → probing s.pkg chip = false →
    s.pkg.fab.waiters = [] → s.pkg.fab.txns.length < 8192 → Does (.livenessProbe chip) s fun q =>
      ∃ t, q.fab.txns = s.pkg.fab.txns ++ [t] ∧ t.by_ = .liveness ∧ t.pkt.h.type = 1 ∧ t.pkt.h.dst = chip ∧ t.pkt.h.srcId = 272 ∧
        winOf t.pkt.h.addr = 4 ∧ offOf t.pkt.h.addr = 0) ∧
  (∀ (s : State) (pen m chip : Nat), fwRuns s.pkg = true → pen < 16 → memberChip (penOf s.pkg pen) m = some chip → chip ≠ chipNo s.pkg →
    mayFence (penOf s.pkg pen) = true →
    (silent s.pkg chip 500 = true → Does (.memberUnreached pen m) s fun q => (penOf q pen).fenced = true ∧ (penOf q pen).step = none ∧
      ((penOf s.pkg pen).st = penBound ∨ (penOf s.pkg pen).st = penActive → (penOf q pen).st = penBound)) ∧
    (silent s.pkg chip 500 = false → Idles (.memberUnreached pen m) s)) ∧
  (∀ (s : State) (x : Plan), powered s.pkg = true → s.pkg.fab.planNext = some x → Does .planTakesEffect s fun q =>
    q.fab.plan = some x ∧ q.fab.planNext = none ∧ ∀ n, n < 16 → linkOf q n = none → (portOf q n).st = ptDisabled) ∧
  (∀ (s : State) (v : Word32), runsReady s → bitOf v.toNat 0 = true → Does (.pkfRrcInvalidate 0 v) s fun q =>
    (s.pkg.fab.rrcInvalBytes = 0 → q.fab.rrc = []) ∧
      ∀ e, e ∈ q.fab.rrc ↔ e ∈ s.pkg.fab.rrc ∧ s.pkg.fab.rrcInvalBytes ≠ 0 ∧
        (64 * e.1 + 64 ≤ s.pkg.fab.rrcInvalAddr ∨ s.pkg.fab.rrcInvalAddr + s.pkg.fab.rrcInvalBytes ≤ 64 * e.1))

/-! ### The Leash -/

/-- R391 and R400 at LEASH_TICK: the budget falls to the target at once when a hard or emergency target is below it, and else follows the target at the ramp
limit; the power is the one measured and its energy joins the total; the trot floor is 0 with TROT_PCT 0, falls at the ramp limit while
trot is not active, and never exceeds 0.98 of the ceiling while it is; no hint whose STOP has come is kept. Within R392 and R409 a quadrant's
VARR moves by no more than 5 mV, not within 5 ticks of its last step, stays at 600 mV or above, and rises only up to LSH_VARR_MAX and while the
quadrant does not throttle; its duty rises to no more than 64. (The units of 0.1 mW and of 2^-16 µJ with their truncation, the start of VARR
from 600 mV, and that ended hints are dropped at the boundary are log entry 37.) -/
def Obligations.LeashUpdate : Prop :=
  ∀ (s : State) (m : Measure), powered s.pkg = true →
    let l := s.pkg.lsh
    let hards := l.hard.toList ++ (if l.powerEm.isSome ∨ l.thermalEm.isSome then [l.emergCap] else [])
    let tgt := 10000 * hards.foldl min (min l.soft l.local_)
    Does (.leashTick m) s fun q =>
      q.lsh.budget = (if ∃ h ∈ hards, 10000 * h < l.budget then tgt
        else if tgt < l.budget then max tgt (l.budget - l.ramp) else min tgt (l.budget + l.ramp)) ∧
      q.lsh.power = m.power ∧ q.lsh.total = l.total + m.power * 65536 / 10000 ∧
      (l.trotPct = 0 → q.lsh.floor_ = 0) ∧
      (l.trotPct ≠ 0 → trotActive s.pkg = false → q.lsh.floor_ = l.floor_ - l.ramp) ∧
      (trotActive s.pkg = true → q.lsh.floor_ ≤ ceiling q * 98 / 100 ∧
        min (ceiling q * 98 / 100) (powerAvg q * l.trotPct / 100) ≤ q.lsh.floor_) ∧
      q.lsh.soft = l.soft ∧ q.lsh.hard = l.hard ∧ q.lsh.ramp = l.ramp ∧ (∀ h, h ∈ q.lsh.hints → now s.pkg < h.stop) ∧
      q.lsh.amps = m.amps ∧ q.lsh.ampsBefore = l.amps ∧
      ∀ k, k < 4 →
        let v := tget 0 l.varr k
        let w := tget 0 q.lsh.varr k
        tget 0 q.lsh.duty k ≤ max 64 (tget 0 l.duty k) ∧ (600 ≤ v → 600 ≤ w ∧ v ≤ w + 5) ∧
          (600 ≤ v → varrReady s.pkg k = false → w = v) ∧
          (v < w → v < 600 ∨ (w = v + 5 ∧ w ≤ l.varrMax ∧ tget false l.throttling k = false))

/-- LSH_CAP_NEXT_COMMIT and the caps applied (R394 to R397): a committed command is ignored under a lease, refused with REFUSED_STICKY when WATTS, RAMP or KIND
is out of range, and otherwise is the pending one; a due SOFT sets the soft cap, a due HARD sets the hard cap, brings the budget to
the target at once and is counted, a due RELEASE takes the hard cap away; a nonzero RAMP is the new ramp limit. (That LATE_STICKY is set while
COUNT_SET is 0 as well is the model's choice, log entry 46; that B equals the target, from below too, is R397's word as log entry 37 reads it.) -/
def Obligations.CapCommands : Prop :=
  (∀ s : State, runsReady s →
    let v := s.pkg.lsh.nextVal
    let w := v % 2 ^ 13
    let k := v / 2 ^ 13 % 4
    let r := v / 2 ^ 16 % 2 ^ 11
    let bad : Prop := (k < 2 ∧ (w < 1000 ∨ 4200 < w)) ∨ (k = 2 ∧ w ≠ 0) ∨ (r ≠ 0 ∧ (r < 50 ∨ 2000 < r)) ∨ k = 3
    (s.pkg.mgt.lease = true → Does (.lshCapNextCommit 0) s fun q => q.lsh = s.pkg.lsh ∧ q.mgt = s.pkg.mgt) ∧
    (s.pkg.mgt.lease = false → bad → Does (.lshCapNextCommit 0) s fun q =>
      q.lsh = { s.pkg.lsh with refusedSticky := true } ∧ q.mgt = s.pkg.mgt) ∧
    (s.pkg.mgt.lease = false → ¬ bad → bitOf v 15 = false → v < 2 ^ 27 → Does (.lshCapNextCommit 0) s fun q =>
      q.lsh.pending = some { watts := w, kind := k, ramp := r, tick := s.pkg.lsh.nextTick, sampled := now s.pkg } ∧
        (q.lsh.lateSticky = true ↔ s.pkg.lsh.lateSticky = true ∨
          (s.pkg.lsh.nextTick ≠ 0 ∧ s.pkg.lsh.nextTick < now s.pkg)))) ∧
  ∀ (s : State) (c : CapCmd) (cmd : Instr) (kind : Nat), powered s.pkg = true →
    (cmd, kind) ∈ [(Instr.capSoftApplied, 0), (.capHardApplied, 1), (.capReleaseApplied, 2)] → dueCap s.pkg kind = some c →
    Does cmd s fun q =>
      q.lsh.pending = none ∧ q.lsh.ramp = (if c.ramp = 0 then s.pkg.lsh.ramp else c.ramp) ∧
        q.lsh.soft = (if kind = 0 then c.watts else s.pkg.lsh.soft) ∧
        q.lsh.hard = (if kind = 1 then some c.watts else if kind = 2 then none else s.pkg.lsh.hard) ∧
        q.lsh.budget = (if kind = 1 then 10000 * target q else s.pkg.lsh.budget) ∧
        q.lsh.hardCaps = (if kind = 1 then inc32 s.pkg.lsh.hardCaps else s.pkg.lsh.hardCaps)

/-- POWER_EMERGENCY, THERMAL_EMERGENCY, EMERGENCY_END, THROTTLE_START, THROTTLE_STEP and BEAT_RATE_CHECK (R397, R398, R409 to R411): an emergency holds
ALERT_N low, joins LSH_EMERG_CAP to the target and, when fresh, brings the budget to it at once; it ends after 10,000 ticks; a
throttling quadrant loses 5 mV every 1,000 ticks, when its VARR may step, or at 600 mV its hot arrays 8/64 of their duty, until its arrays are
cool; an array that is too slow, at the mean VARR of its quadrant and in the time its gating allowed, for 10 intervals of at least 1,000 ticks in a
row is quarantined. (When an emergency ends after its last event, which arrays a throttle gates by 8/64, that an interval of fewer than 10,000
beats keeps the count, and how the allowed time follows from the gating are log entry 37; that a quarantine in the tick of a larger reset does
nothing is R431.) -/
def Obligations.EmergenciesAndThrottles : Prop :=
  (∀ (s : State) (cmd : Instr) (isPower : Bool), powered s.pkg = true →
    (∃ cond amps, cmd = .powerEmergency cond amps ∧
        (cond < 3 ∨ (cond = 3 ∧ overHard s.pkg = true)) ∧ isPower = true) ∨
      (∃ kind i temp, cmd = .thermalEmergency kind i temp ∧ kind ≤ 2 ∧ (if kind = 2 then 100 else 115) ≤ temp ∧ isPower = false) →
    Does cmd s fun q =>
      q.pins.alertN = false ∧ q.lsh.emergSticky = true ∧
        (if isPower then q.lsh.powerEm = some (now s.pkg) ∧ q.lsh.thermalEm = s.pkg.lsh.thermalEm
          else q.lsh.thermalEm = some (now s.pkg) ∧ q.lsh.powerEm = s.pkg.lsh.powerEm) ∧
        (s.pkg.lsh.powerEm = none → s.pkg.lsh.thermalEm = none →
          q.lsh.budget = 10000 * target q ∧ target q ≤ s.pkg.lsh.emergCap ∧
            q.lsh.hardCaps = inc32 s.pkg.lsh.hardCaps ∧ q.lsh.hardSticky = true)) ∧
  (∀ s : State, powered s.pkg = true → emergency s.pkg = true → Does .emergencyEnd s fun q =>
    q.lsh.powerEm = s.pkg.lsh.powerEm.filter (fun t => decide (now s.pkg < t + 10000)) ∧
      q.lsh.thermalEm = s.pkg.lsh.thermalEm.filter (fun t => decide (now s.pkg < t + 10000))) ∧
  (∀ (s : State) (a tj : Nat), powered s.pkg = true → a < 256 → s.pkg.lsh.throttle ≤ tj →
    tget false s.pkg.lsh.throttling (arrayQuad a) = false → Does (.throttleStart a tj) s fun q =>
      tget false q.lsh.throttling (arrayQuad a) = true ∧ q.lsh.throttleSticky = true) ∧
  (∀ (s : State) (k : Nat) (tjs : List Nat), powered s.pkg = true → tget false s.pkg.lsh.throttling k = true →
    let v := tget 0 s.pkg.lsh.varr k
    let at_ := tget 0 s.pkg.lsh.throttleAt k
    ((∃ t ∈ tjs, s.pkg.lsh.throttle ≤ t + 2) → now s.pkg < at_ + 1000 → Idles (.throttleStep k tjs) s) ∧
    ((∀ t ∈ tjs, t + 2 < s.pkg.lsh.throttle) → Does (.throttleStep k tjs) s fun q =>
      tget false q.lsh.throttling k = false ∧ q.lsh.varr = s.pkg.lsh.varr ∧ q.lsh.duty = s.pkg.lsh.duty) ∧
    ((∃ t ∈ tjs, s.pkg.lsh.throttle ≤ t + 2) → 600 < v → varrReady s.pkg k = false → Idles (.throttleStep k tjs) s) ∧
    ((∃ t ∈ tjs, s.pkg.lsh.throttle ≤ t + 2) → at_ + 1000 ≤ now s.pkg → 600 < v → varrReady s.pkg k = true → Does (.throttleStep k tjs) s fun q =>
      tget 0 q.lsh.varr k = max 600 (v - 5) ∧ varrReady q k = false ∧ q.lsh.duty = s.pkg.lsh.duty ∧ tget false q.lsh.throttling k = true) ∧
    ((∃ t ∈ tjs, s.pkg.lsh.throttle ≤ t + 2) → at_ + 1000 ≤ now s.pkg → v ≤ 600 → Does (.throttleStep k tjs) s fun q =>
      q.lsh.varr = s.pkg.lsh.varr ∧ q.lsh.duty = s.pkg.lsh.duty ∧ ∀ a, tget 0 q.lsh.cut a =
        if 64 * k ≤ a ∧ a < 64 * k + 64 ∧ s.pkg.lsh.throttle ≤ tjs.getD (a - 64 * k) 0 then min 64 (tget 0 s.pkg.lsh.cut a + 8)
        else tget 0 s.pkg.lsh.cut a)) ∧
  ∀ (s : State) (b : BeatSample), powered s.pkg = true → b.array < 256 →
    let old := tget {} s.pkg.lsh.rates b.array
    let n := (tget 0 s.pkg.lsh.beats b.array + 2 ^ 48 - tget 0 s.pkg.lsh.beatsAt b.array) % 2 ^ 48
    let ns := allowedNs s.pkg b.array
    let slow := breaksRate (meanVarr s.pkg b.array) b.tj ns n
    (since s.pkg s.pkg.lsh.rateAt < 1000 → Idles (.beatRateCheck [b]) s) ∧
    (1000 ≤ since s.pkg s.pkg.lsh.rateAt → n < 10000 → Does (.beatRateCheck [b]) s fun q =>
      (tget {} q.lsh.rates b.array).bad = old.bad ∧ (arrOf q b.array).st = (arrOf s.pkg b.array).st ∧ q.lsh.rateAt = now s.pkg ∧
        q.lsh.beatsAt = s.pkg.lsh.beats) ∧
    (1000 ≤ since s.pkg s.pkg.lsh.rateAt → 10000 ≤ n → ns ≠ 0 → slow = false → Does (.beatRateCheck [b]) s fun q =>
      (tget {} q.lsh.rates b.array).bad = 0 ∧ (arrOf q b.array).st = (arrOf s.pkg b.array).st) ∧
    (1000 ≤ since s.pkg s.pkg.lsh.rateAt → 10000 ≤ n → ns ≠ 0 → slow = true → (arrOf s.pkg b.array).st = 0 →
        mayQuarantine s b.array → Does (.beatRateCheck [b]) s fun q =>
      (tget {} q.lsh.rates b.array).bad = old.bad + 1 ∧
        (9 ≤ old.bad → (arrOf q b.array).st = 1 ∧ (arrOf q b.array).cause = 3) ∧ (old.bad < 9 → (arrOf q b.array).st = 0))

/-! ### Faults and the Scent log -/

/-- SELF_TEST_DONE, ARRAY_WATCHDOG, SRAM_UNCORRECTABLE, ARRAY_SELFTEST_DONE, DRAM_UNCORRECTABLE, DRAM_STACK_FAILED, ENGINE_FAULT and FW_FAULT (R44, R46,
R189, R435 to R439): a part that fails loses its availability, an optical engine with its four ports, a usable array is quarantined with its cause and ends the step of a
one-member pen that uses it, a returning array is USABLE after a pass and QUARANTINED or, the third time, FAILED after a failure;
a lost frame ends the requests that hold it, a lost program resets its pen, and a stack with more than 64 lines in 10,000 ticks fails; a
quarantine in the tick of a warm reset, or of a reset of its pen, does nothing (R431); after a firmware fault READY is 0 and the log holds
FW_FAULT at once. (Which step jobs a lost gather engine ends, and that FW_FAULT is written ahead of what is queued, are log entry 27; that the host
link returns with the self-test is log entry 26.) -/
def Obligations.FaultCommands : Prop :=
  (∀ (s : State) (failed : Parts), powered s.pkg = true → s.pkg.glb.selfTestDone = false → Does (.selfTestDone failed) s fun q =>
    q.glb.selfTestDone = true ∧ q.glb.hostLink = (s.pkg.pins.pwrGood && s.pkg.pins.perstN) ∧
      q.glb.ready = (s.pkg.tick.phaseLocked && !s.pkg.glb.fwFault) ∧
      (∀ i, i < 8 → failed.nv.getLsbD i = true → nvUsable q i = false) ∧
      (∀ i, i < 16 → failed.hounds.getLsbD i = true → houndUsable q i = false) ∧
      (∀ i, i < 24 → failed.dram.getLsbD i = true → dramUsable q i = false) ∧
      ∀ i, i < 256 → failed.arrays.getLsbD i = true → arrayUsable q i = false) ∧
  (∀ (s : State) (a cause : Nat) (c : Instr), powered s.pkg = true → a < 256 → (c, cause) ∈ [(Instr.arrayWatchdog a, 1), (.sramUncorrectable a, 2)] →
    ((arrOf s.pkg a).st = 0 → mayQuarantine s a → Does c s fun q =>
      (arrOf q a).st = 1 ∧ (arrOf q a).cause = cause ∧ (arrOf q a).pen = 0 ∧
        ∀ n, (arrOf s.pkg a).pen = n + 1 → stepUses s.pkg n a = true → (penOf s.pkg n).groupSize ≤ 1 → (penOf q n).step = none) ∧
    ((arrOf s.pkg a).st ≠ 0 ∨ ¬ mayQuarantine s a → Does c s fun q => q.arrays = s.pkg.arrays ∧ ∀ n, penOf q n = penOf s.pkg n)) ∧
  (∀ (s : State) (a ticks : Nat), powered s.pkg = true → a < 256 → (arrOf s.pkg a).st = 2 →
    (Does (.arraySelftestDone a true ticks) s fun q => (arrOf q a).st = 0) ∧
    Does (.arraySelftestDone a false ticks) s fun q =>
      (arrOf q a).st = (if 2 ≤ (arrOf s.pkg a).fails then 3 else 1) ∧ (arrOf q a).fails = (arrOf s.pkg a).fails + 1 ∧ (arrOf q a).cause = 4 ∧
        ∀ b, b ≠ a → arrOf q b = arrOf s.pkg b) ∧
  (∀ (s : State) (stack pen : Nat), powered s.pkg = true → stack < 24 → pen < 16 → (penOf s.pkg pen).image.isSome = true →
    let late := ((tget [] s.pkg.glb.dramLines stack).filter fun t => decide (now s.pkg < t + 10000)).length
    (∀ loc, 64 ≤ late → Does (.dramUncorrectable stack pen loc) s fun q => dramUsable q stack = false) ∧
    (∀ f, late < 64 → Does (.dramUncorrectable stack pen (.frame f)) s fun q =>
      (tget {} (poolOf q pen).tab f).bad = true ∧ ∀ e, e ∈ frameUsers s.pkg pen f → liveReq (reqOf s.pkg e) = true → (reqOf q e).st = rqDone) ∧
    (∀ b, late < 64 → ((imageOf s.pkg pen).relocs.getD b {}).persist = false → (penOf s.pkg pen).groupSize ≤ 1 →
      Does (.dramUncorrectable stack pen (.buffer b)) s fun q => (penOf q pen).step = none ∧ (penOf q pen).st = (penOf s.pkg pen).st) ∧
    (late < 64 → (penOf s.pkg pen).groupSize ≤ 1 → Does (.dramUncorrectable stack pen .program) s fun q =>
      (penOf q pen).step = none ∧ (penOf q pen).replace = true ∧ (penOf q pen).st ≠ penActive)) ∧
  (∀ (s : State) (stack cause : Nat), powered s.pkg = true → stack < 24 → cause < 3 → dramUsable s.pkg stack = true →
    Does (.dramStackFailed stack cause) s fun q =>
      dramUsable q stack = false ∧ (∀ k, k ≠ stack → dramUsable q k = dramUsable s.pkg k) ∧
        ∀ n, n ∈ enabledPens s.pkg → usesStack s.pkg n stack = true → (penOf q n).replace = true ∧ stack ∉ (penOf q n).bufStacks) ∧
  (∀ (s : State) (i : Nat), powered s.pkg = true →
    (i < 16 → Does (.engineFault 0 i) s fun q => tget false q.glb.engineLost i = true ∧
      ∀ n, n ∈ enabledPens s.pkg → gathersIn s.pkg n (i / 4) = true → (penOf s.pkg n).groupSize ≤ 1 → (penOf q n).step = none) ∧
    (i < 8 → Does (.engineFault 1 i) s fun q => tget false q.glb.engineLost (16 + i) = true) ∧
    (i < 4 → Does (.engineFault 2 i) s fun q => tget false q.glb.opticsLost i = true ∧ q.pens = s.pkg.pens ∧
      ∀ port, port / 4 = i → 2 ≤ (portOf s.pkg port).st → (portOf q port).st = ptDown)) ∧
  ∀ (s : State) (core code : Nat), fwRuns s.pkg = true → core < 8 → Does (.fwFault core code) s fun q =>
    q.glb.fwFault = true ∧ q.glb.ready = false ∧ q.pins.alertN = false ∧ q.glb.hostLink = s.pkg.glb.hostLink ∧ q.ctxs = s.pkg.ctxs ∧
      q.scn = (recordNow { s.pkg with glb := { s.pkg.glb with hostLink := false } } codeFwFault core core code Config.fwBuild.toNat).scn ∧
      (s.pkg.scn.slots.length < 65536 → ∃ k r, tget {} q.scn.slots k = r ∧ r.code = codeFwFault ∧ r.seq = s.pkg.scn.nextSeq)

/-- SCENT_QUEUE_DRAIN, SCN_CLEAR_CMD, SCN_CTRL_WRITE and CLEAR_AUTH_EXPIRY (R445, R446, R449): a queued record is stored while fewer than 16 have been in the
tick; a clear with no authorisation in force is refused with PERMISSION and changes no record, one up to a number outside the log or
with 8,192 clears held with LENGTH_INVALID, and one that acts leaves no unprotected record up to UPTO, sets the counters to 0 and ends
the authorisation; SCN_CTRL takes POLICY and IRQ_SEV. -/
def Obligations.ScentCommands : Prop :=
  (∀ (s : State), fwRuns s.pkg = true →
    (s.pkg.scn.queue = [] ∨ 16 ≤ s.pkg.scn.storedInTick → Idles .scentQueueDrain s) ∧
    (∀ r, s.pkg.scn.queue = [r] → s.pkg.scn.storedInTick < 16 → Does .scentQueueDrain s fun q =>
      q.scn.queue = [] ∧ q.scn.storedInTick = s.pkg.scn.storedInTick + 1 ∧
        (s.pkg.scn.slots.length < 65536 → tget {} q.scn.slots (emptySlot s.pkg.scn) = r ∧
          q.scn.seqLast = (if recAge s.pkg.scn s.pkg.scn.seqLast < recAge s.pkg.scn r.seq then s.pkg.scn.seqLast else r.seq) ∧
          ∀ k, k ≠ emptySlot s.pkg.scn → tget {} q.scn.slots k = tget {} s.pkg.scn.slots k) ∧
        (65536 ≤ s.pkg.scn.slots.length → r.prot = false → s.pkg.scn.policy = 0 →
          q.scn.slots = s.pkg.scn.slots ∧ q.scn.dropped = inc32 s.pkg.scn.dropped))) ∧
  (∀ s : State, runsReady s →
    (s.pkg.scn.auth = none → Does (.scnClearCmd 0) s fun q => q.scn = { s.pkg.scn with clearResult := stPermission }) ∧
    (∀ a, s.pkg.scn.auth = some a → 8192 ≤ clearsHeld s.pkg.scn ∨ s.pkg.scn.slots = [] ∨
        fromFirst s.pkg.scn s.pkg.scn.seqLast < fromFirst s.pkg.scn a.upto → Does (.scnClearCmd 0) s fun q =>
      q.scn = { s.pkg.scn with clearResult := stLengthInvalid }) ∧
    (∀ a, s.pkg.scn.auth = some a → clearsHeld s.pkg.scn < 8192 → s.pkg.scn.slots ≠ [] →
        fromFirst s.pkg.scn a.upto ≤ fromFirst s.pkg.scn s.pkg.scn.seqLast → s.pkg.scn.queue = [] → s.pkg.scn.storedInTick < 16 →
      Does (.scnClearCmd 0) s fun q =>
        q.scn.auth = none ∧ q.scn.clearResult = stOk ∧ q.scn.dropped = 0 ∧ q.scn.overwritten = 0 ∧
          ∀ e, e ∈ q.scn.slots → e.2.prot = true ∨ fromFirst s.pkg.scn a.upto < fromFirst s.pkg.scn e.2.seq)) ∧
  (∀ (s : State) (v : Word32), runsReady s → latest (.scnCtrlWrite 0 v) s = true → Does (.scnCtrlWrite 0 v) s fun q =>
    q.scn.policy = v.toNat % 2 ∧ q.scn.irqSev = v.toNat / 2 ^ 8 % 8 ∧ (v.toNat % 2 = s.pkg.scn.policy → q.scn.slots = s.pkg.scn.slots)) ∧
  ∀ s : State, powered s.pkg = true → exec .clearAuthExpiry s =
    .next { s with pkg := { s.pkg with scn := { s.pkg.scn with auth := s.pkg.scn.auth.filter fun a => decide (now s.pkg < a.expiry) } } }

/-! ### The Hound cores -/

/-- HOUND_BIND, HOUND_IMAGE_LOADED and HOUND_UNBIND (R417, R418): BIND runs seven checks in order, writes the first failure's status to RESULT and
changes no other part of the bindings; when all pass, the binding is LOADING in the pen of its context and holds frames that
were free, and the image is read from the host. The image makes it RUNNING with RESULT OK and its bytes at offset 0, zero beyond, and its cores
start at ENTRY as harts 0 to k - 1 with the index in a0 and k in a1; a refused
read ends it with PERMISSION. UNBIND ends it: its harts' state is cleared, its memory zeroed and its frames free. (RESULT OK after UNBIND
and the choice of frames are the model's, log entries 13 and 39.) -/
def Obligations.HoundBindings : Prop :=
  (∀ (s : State) (fn c : Nat), runsReady s → reaches s.pkg fn c = true →
    let b := bindOf s.pkg c
    let x := ctxOf s.pkg c
    let o := poolOf s.pkg x.pen
    let fs := ((upto o.frames).filter (frameFree o)).take (ceilDiv (b.memMib * 1048576) o.frameBytes)
    (x.st ≠ ctxActive ∨ b.st ≠ 0 → bindBar s.pkg c = some stPermission) ∧
    (∀ st, bindBar s.pkg c = some st → Does (.houndBind fn c) s fun q =>
      bindOf q c = { b with result := st } ∧ (∀ d, d ≠ c → bindOf q d = bindOf s.pkg d) ∧ q.pens = s.pkg.pens ∧ q.out = s.pkg.out) ∧
    (x.st = ctxActive → b.st = 0 → (penOf s.pkg x.pen).st = penBound ∨ (penOf s.pkg x.pen).st = penActive → b.cores ≠ 0 →
      (∀ k, k < 16 → bitOf b.cores k = true → houndUsable s.pkg k = true ∧ (coreCtx s.pkg k = none ∨ coreCtx s.pkg k = some c)) →
      1 ≤ b.memMib → b.memMib ≤ 1024 → 1 ≤ b.imageBytes → b.imageBytes ≤ b.memMib * 1048576 → b.entry < b.imageBytes →
      b.peerMib ≤ b.memMib → b.hostMib ≠ 0xFFFFF → b.imageAddr % 4096 = 0 → b.hostAddr % 4096 = 0 → b.entry % 2 = 0 →
      ceilDiv (b.memMib * 1048576) o.frameBytes ≤ freeAdmit o → Does (.houndBind fn c) s fun q =>
        bindOf q c = { b with st := 1, pen := x.pen, frames := fs } ∧
          (∀ f, f ∈ fs → frameFree o f = true ∧ frameFree (poolOf q x.pen) f = false) ∧
          q.out = s.pkg.out ++ [.hostRead x.fn b.imageAddr b.imageBytes])) ∧
  (∀ (s : State) (c : Nat), fwRuns s.pkg = true → (bindOf s.pkg c).st = 1 →
    (∀ b : Bytes, b.length = (bindOf s.pkg c).imageBytes → Does (.houndImageLoaded c (some b)) s fun q =>
      (bindOf q c).st = 2 ∧ (bindOf q c).result = stOk ∧ (bindOf q c).cores = (bindOf s.pkg c).cores ∧
        (∀ k, tget 0 (bindOf q c).mem k = b.getD k 0) ∧
        ∀ j k, (coresOf (bindOf s.pkg c))[j]? = some k → tget {} q.hnd.harts k =
          { index := j, regs := [(10, some j), (11, some (coresOf (bindOf s.pkg c)).length), (96, some (0x100000000 + (bindOf s.pkg c).entry))] }) ∧
    Does (.houndImageLoaded c none) s fun q =>
      (bindOf q c).st = 0 ∧ (bindOf q c).result = stPermission ∧
        ∀ f, f ∈ (bindOf s.pkg c).frames → (tget {} (poolOf q (bindOf s.pkg c).pen).tab f).busy = false) ∧
  ∀ (s : State) (fn c : Nat), runsReady s → reaches s.pkg fn c = true → (bindOf s.pkg c).st ≠ 0 → Does (.houndUnbind fn c) s fun q =>
    (bindOf q c).st = 0 ∧ (bindOf q c).result = stOk ∧ (bindOf q c).mem = [] ∧ (bindOf q c).frames = [] ∧ (bindOf q c).fq = [] ∧
      (∀ k, k < 16 → bitOf (bindOf s.pkg c).cores k = true → hcoreOf q k = {} ∧ tget {} q.hnd.harts k = {}) ∧
      (∀ f, f ∈ (bindOf s.pkg c).frames → (tget {} (poolOf q (bindOf s.pkg c).pen).tab f).busy = false) ∧
      ∀ d, d ≠ c → bindOf q d = bindOf s.pkg d

/-- The package after the accesses of a program that writes the mailbox page of a core: that core's hart makes them where it runs, else the
program's lowest-numbered running one (log entry 23). -/
abbrev afterAccesses (p : Pkg) (k c : Nat) (mem : Stores) : Pkg := progStores p c (if runningOn p k = some c then k else runner p c) mem

/-- The doorbells of a program (R421, R422, R424), HND_MB_CMD_TAIL, HND_MB_REPLY_HEAD, HND_TQ_HEAD and HND_RING_BASE_WRITE, after the program's
own accesses, of whichever hart of the binding they are (R419): a tail in the ring is the new tail and makes the package take commands, unless a
later value of the tick replaces it (R67); a head frees the records it passes and ignores a value outside them; a base, whole or by halves, or a
size changes only a ring that is empty, and a base only to a multiple of 64; a program that has faulted by then does no more. (The accesses between
two events of a program are operands: the model's choice, log entry 23.) -/
def Obligations.HoundRings : Prop :=
  (∀ (s : State) (k c : Nat) (v : Word32) (mem : Stores), powered s.pkg = true → coreCtx s.pkg k = some c → programRuns s.pkg c = true →
    let p0 := afterAccesses s.pkg k c mem
    let x := hcoreOf p0 k
    let i := v.toNat % 2 ^ 16
    (2 ^ x.cmdLog ≤ i ∨ latest (.hndMbCmdTail k v mem) s = false ∨ (bindOf p0 c).st ≠ 2 →
      exec (.hndMbCmdTail k v mem) s = .next { s with pkg := p0 }) ∧
    (latest (.hndMbCmdTail k v mem) s = true → i < 2 ^ x.cmdLog → (bindOf p0 c).st = 2 →
      Does (.hndMbCmdTail k v mem) s fun q => (hcoreOf q k).cmdTail = i) ∧
    (latest (.hndMbCmdTail k v mem) s = true → i < 2 ^ x.cmdLog → mem = [] → twf {} s.pkg.hnd.binds = true → (ctxOf s.pkg c).st = ctxActive → s.pkg.glb.fwFault = false →
      mailInside s.pkg k c = true → x.live = [] → x.fetchAt ≠ now s.pkg + 1 → x.cmdHead ≠ i → (x.cmdHead + 1) % 2 ^ x.cmdLog = i →
      x.reply.used + x.reply.reserved < 2 ^ x.reply.log2 →
      let b := tgetList 0 (bindOf s.pkg c).mem (x.cmdBase + 64 * x.cmdHead) 64
      fieldAt b 0 1 ∈ [2, 3, 4, 5, 10] → Does (.hndMbCmdTail k v mem) s fun q =>
        (hcoreOf q k).cmdHead = i ∧ (hcoreOf q k).live = [{ descOf (k + 1) x.cmdHead b with num := (ctxOf s.pkg c).descNum }] ∧
          (hcoreOf q k).reply.reserved = x.reply.reserved + 1)) ∧
  (∀ (s : State) (k c : Nat) (v : Word32) (mem : Stores), powered s.pkg = true → coreCtx s.pkg k = some c → programRuns s.pkg c = true →
    let p0 := afterAccesses s.pkg k c mem
    let r := (hcoreOf p0 k).reply
    let i := v.toNat % 2 ^ 16
    let n := ringSpan (2 ^ r.log2) r.head i
    (latest (.hndMbReplyHead k v mem) s = false ∨ (bindOf p0 c).st ≠ 2 → exec (.hndMbReplyHead k v mem) s = .next { s with pkg := p0 }) ∧
    (latest (.hndMbReplyHead k v mem) s = true → (bindOf p0 c).st = 2 → i < 2 ^ r.log2 → n ≤ r.used →
      Does (.hndMbReplyHead k v mem) s fun q =>
        hcoreOf q k = { hcoreOf p0 k with
          reply := { r with head := i, used := r.used - if n = 0 ∧ r.used = 2 ^ r.log2 then 2 ^ r.log2 else n } }) ∧
    (2 ^ r.log2 ≤ i ∨ (r.used < n ∧ ¬ (n = 0 ∧ r.used = 2 ^ r.log2)) →
      Does (.hndMbReplyHead k v mem) s fun q => hcoreOf q k = hcoreOf p0 k)) ∧
  (∀ (s : State) (c : Nat) (v : Word32) (mem : Stores), powered s.pkg = true → programRuns s.pkg c = true →
    let p0 := progStores s.pkg c (runner s.pkg c) mem
    let r := (bindOf p0 c).tq
    let i := v.toNat % 2 ^ 16
    let n := ringSpan (2 ^ r.log2) r.head i
    (latest (.hndTqHead c v mem) s = true → (bindOf p0 c).st = 2 → i < 2 ^ r.log2 → n ≤ r.used → Does (.hndTqHead c v mem) s fun q =>
      (bindOf q c).tq = { r with head := i, used := r.used - if n = 0 ∧ r.used = 2 ^ r.log2 then 2 ^ r.log2 else n } ∧
        (bindOf q c).tqStall = (entriesOf q c).any (lacksToken q)) ∧
    (2 ^ r.log2 ≤ i ∨ latest (.hndTqHead c v mem) s = false ∨ (bindOf p0 c).st ≠ 2 →
      Does (.hndTqHead c v mem) s fun q => (bindOf q c).tq = r)) ∧
  ∀ (s : State) (k c off size : Nat) (v : Word64) (mem : Stores), powered s.pkg = true → coreCtx s.pkg k = some c → programRuns s.pkg c = true →
    let p0 := afterAccesses s.pkg k c mem
    (bindOf p0 c).st = 2 → Does (.hndRingBaseWrite k off ⟨size, v⟩ mem) s fun q =>
      let x := hcoreOf p0 k
      let b := bindOf p0 c
      let w := v.toNat
      let base (empty : Prop) [Decidable empty] (old at_ : Nat) : Nat :=
        let n := if size = 8 then w else if at_ = 0 then old / 2 ^ 32 * 2 ^ 32 + w % 2 ^ 32 else w % 2 ^ 32 * 2 ^ 32 + old % 2 ^ 32
        if empty ∧ n % 64 = 0 then n else old
      (off = 0 ∧ size = 8 ∨ (off = 0 ∨ off = 4) ∧ size = 4 → (hcoreOf q k).cmdBase = base (x.cmdHead = x.cmdTail) x.cmdBase off) ∧
      (off = 8 ∧ size = 8 ∨ (off = 8 ∨ off = 0xC) ∧ size = 4 → (hcoreOf q k).reply.base = base (x.reply.used = 0) x.reply.base (off - 8)) ∧
      (off = 0x10 → size = 4 →
        (hcoreOf q k).cmdLog = (if x.cmdHead = x.cmdTail ∧ 6 ≤ w % 32 ∧ w % 32 ≤ 12 then w % 32 else x.cmdLog)) ∧
      (off = 0x100000 ∧ size = 8 ∨ (off = 0x100000 ∨ off = 0x100004) ∧ size = 4 →
        (bindOf q c).tq.base = base (b.tq.used = 0) b.tq.base (off - 0x100000)) ∧
      (off = 0x100040 ∧ size = 8 ∨ (off = 0x100040 ∨ off = 0x100044) ∧ size = 4 →
        (bindOf q c).fqBase = base (b.fqHead = b.fqTail) b.fqBase (off - 0x100040)) ∧
      (size = 4 ∧ off < 0x100000 ∧ off ≠ 0x14 ∨ size = 8 ∧ off ∈ [0, 8, 0x100000, 0x100040] → ∀ d, d ≠ k → hcoreOf q d = hcoreOf p0 d)

/-- The fabric commands of a program (R426, R427), HND_FQ_LOAD, HND_FQ_STORE, HND_FQ_ATOMIC and HND_FQ_FENCE: the command at the head of the ring is issued in ring
order when it is of the row's OP and fewer than 256 are outstanding; the doorbell has the last value that the tick gives it (R67). One that
a check refuses completes with that status and DONE in
program memory and sends nothing; where the other checks pass, PERMISSION refuses exactly an address that is not window 4, space 8 or 9, of this
package or of a member; a fence records what it waits for; the others are sent as the request they spell, with SRC_ID the context. -/
def Obligations.HoundFabricCommands : Prop :=
  ∀ (s : State) (c : Nat) (v : Word32) (mem : Stores) (i : Instr) (op : Nat), powered s.pkg = true → programRuns s.pkg c = true →
    (i, op) ∈ [(Instr.hndFqLoad c v mem, 1), (.hndFqStore c v mem, 2), (.hndFqAtomic c v mem, 3), (.hndFqFence c v mem, 4)] →
    let t := fqTailOf c v s % 2 ^ 16
    let p0 := progStores s.pkg c (runner s.pkg c) mem
    let p1 := modBind p0 c fun x => { x with fqTail := t }
    let b := bindOf p1 c
    let h := b.fqHead
    let cmd := tgetList 0 b.mem (b.fqBase + 64 * h) 64
    let addr := fieldAt cmd 8 8
    let data := fieldAt cmd 16 8
    let p2 := modBind p1 c fun x =>
      { x with
        fqHead := (h + 1) % 2 ^ x.fqLog, fqNum := b.fqNum + 1
        fq := x.fq ++ [{ index := b.fqNum, at_ := b.fqBase + 64 * h, cmd := cmd }] }
    let peer : Prop := (addr / 2 ^ 44 % 256 = 0x48 ∨ addr / 2 ^ 44 % 256 = 0x49) ∧
      (addr / 2 ^ 52 = chipNo p1 ∨ ∃ m ∈ members (penOf p1 b.pen), m.2 = addr / 2 ^ 52)
    (bindOf p0 c).st = 2 → t < 2 ^ b.fqLog → b.fqBase + 64 * 2 ^ b.fqLog ≤ b.memMib * 1048576 → h ≠ t →
    (h + 1) % 2 ^ b.fqLog = t → fieldAt cmd 0 1 % 8 = op → b.fq.length < 256 → (op = 4 → fqWaits p1 c = false) →
    (op ≠ 4 → addr % 8 = 0 → (op ≠ 3 → addr % 256 + fqLen cmd ≤ 256 ∧ data % 8 = 0 ∧ data + fqLen cmd ≤ b.memMib * 1048576) →
      fqLegal cmd = true → zeroAt cmd 48 16 = true → (peer → fqBar p1 c cmd = none) ∧ (¬ peer → fqBar p1 c cmd = some stPermission)) ∧
    (∀ st, fqBar p1 c cmd = some st → Does i s fun q =>
      (bindOf q c).fqHead = (h + 1) % 2 ^ b.fqLog ∧ (bindOf q c).fq = b.fq.filter (fun x => decide (x.index ≠ b.fqNum)) ∧
        tget 0 (bindOf q c).mem (b.fqBase + 64 * h + 2) = BitVec.ofNat 8 st ∧
        (tget 0 (bindOf q c).mem (b.fqBase + 64 * h + 3)).toNat % 2 = 1 ∧ q.fab = s.pkg.fab) ∧
    (op = 4 → fqBar p1 c cmd = none → Does i s fun q =>
      bindOf q c = bindOf p2 c ∧ q.fab.fences = s.pkg.fab.fences ++ [{ srcId := c, index := b.fqNum, marks := fenceMarks p2 c }] ∧
        q.fab.txns = s.pkg.fab.txns ∧ q.fab.waiters = s.pkg.fab.waiters) ∧
    (op ≠ 4 → fqBar p1 c cmd = none →
      exec i s = .next { s with pkg := flushFq (issue p2 (.hound c b.fqNum) false [fqPkt p1 c cmd]) c 1024 } ∧
        (fqPkt p1 c cmd).h.type = op ∧ (fqPkt p1 c cmd).h.srcId = c ∧ (fqPkt p1 c cmd).h.addr = addr ∧
        (fqPkt p1 c cmd).h.dst = addr / 2 ^ 52)

/-- ECALL_EXIT, ECALL_WAIT, HOUND_WAKE and HOUND_FAULT (R428, R429): a hart that exits runs no more, and the last one makes the binding EXITED with its code; a hart
that waits wakes with 1 in a0 when something it waits for was sampled and with 0 at its limit; a fault makes a binding that runs FAULTED with
the fault's words and leaves its program memory and its context's STATE as they are; one of kind 5 needs a ring outside program memory.
(The exit code is a0 modulo 256, and only kind 4
makes a binding that loads or has exited FAULTED: the model's choices, log entry 39.) -/
def Obligations.HoundCalls : Prop :=
  (∀ (s : State) (k c : Nat) (a0 : Word64) (mem : Stores), powered s.pkg = true → k < 16 → runningOn s.pkg k = some c →
    let p0 := progStores s.pkg c k mem
    (bitOf (bindOf s.pkg c).cores k = true) → runningOn p0 k = some c →
    ((∃ j, j < 16 ∧ j ≠ k ∧ bitOf (bindOf s.pkg c).cores j = true ∧ (hcoreOf s.pkg j).exited = false) →
      Does (.ecallExit k a0 mem) s fun q =>
        (hcoreOf q k).exited = true ∧ (bindOf q c).st = (bindOf s.pkg c).st ∧ ∀ j, j ≠ k → hcoreOf q j = hcoreOf p0 j) ∧
    ((∀ j, j < 16 → j ≠ k → bitOf (bindOf s.pkg c).cores j = true → (hcoreOf s.pkg j).exited = true) →
      Does (.ecallExit k a0 mem) s fun q =>
        (hcoreOf q k).exited = true ∧ (bindOf q c).st = 3 ∧ (bindOf q c).exitCode = a0.toNat % 256)) ∧
  (∀ (s : State) (k c : Nat) (a0 : Word64) (mem : Stores), powered s.pkg = true → runningOn s.pkg k = some c →
    let p0 := progStores s.pkg c k mem
    runningOn p0 k = some c → Does (.ecallWait k a0 mem) s fun q =>
      (hcoreOf q k).waiting = true ∧ (hcoreOf q k).woken = false ∧
        (1 ≤ a0.toNat → a0.toNat ≤ 2 ^ 32 - 2 → (hcoreOf q k).waitUntil = now s.pkg + a0.toNat) ∧
        ∀ j, j ≠ k → hcoreOf q j = hcoreOf p0 j) ∧
  (∀ (s : State) (k : Nat), (hcoreOf s.pkg k).waiting = true →
    ((hcoreOf s.pkg k).woken = true ∨ (hcoreOf s.pkg k).waitUntil ≤ now s.pkg → Does (.houndWake k) s fun q =>
      (hcoreOf q k).waiting = false ∧ (hcoreOf q k).waitResult = (if (hcoreOf s.pkg k).woken then 1 else 0) ∧
        tget none (tget {} q.hnd.harts k).regs 10 = some (if (hcoreOf s.pkg k).woken then 1 else 0) ∧
        ∀ j, j ≠ k → hcoreOf q j = hcoreOf s.pkg j ∧ tget {} q.hnd.harts j = tget {} s.pkg.hnd.harts j) ∧
    ((hcoreOf s.pkg k).woken = false → now s.pkg < (hcoreOf s.pkg k).waitUntil → Idles (.houndWake k) s)) ∧
  ∀ (s : State) (c k kind code : Nat) (pc tval : Word64), powered s.pkg = true → k < 16 → 1 ≤ kind → kind ≤ 5 →
    bitOf (bindOf s.pkg c).cores k = true → (bindOf s.pkg c).st = 2 →
    (kind = 5 → ringOutside s.pkg c k = false → Does (.houndFault c k kind code pc tval) s fun q => q.hnd = s.pkg.hnd) ∧
    ((kind = 5 → ringOutside s.pkg c k = true) → Does (.houndFault c k kind code pc tval) s fun q =>
      (bindOf q c).st = 4 ∧ (bindOf q c).faultSticky = true ∧ (bindOf q c).fault = code % 64 + 256 * k + 4096 * kind ∧
        (bindOf q c).faultPc = pc.toNat ∧ (bindOf q c).faultTval = tval.toNat ∧ (bindOf q c).mem = (bindOf s.pkg c).mem ∧
        (ctxOf q c).st = (ctxOf s.pkg c).st ∧ (houndUsable q k = true ↔ houndUsable s.pkg k = true ∧ kind ≠ 4) ∧
        ∀ d, d ≠ c → bindOf q d = bindOf s.pkg d)

/-! ### Management and optical diagnostics -/

/-- A manager's message of an OP that passes checks 1 to 5 of R455 and names the tick in which it is sampled. -/
abbrev mgtNow (s : State) (op : Nat) (path : Path) (msg : Bytes) : Prop :=
  powered s.pkg = true ∧ fieldAt msg 3 1 = op ∧ mgtVerdict s.pkg path msg = .take ∧ fieldAt msg 16 8 = 0

/-- A vector of the physical function sends its message (R252, R278, R437). -/
abbrev signals (p : Pkg) (vec : Nat) : Prop := maySignal p 0 = true ∧ isMasked (tget {} p.glb.fns 0) vec = false

/-- The body of a manager's message. -/
def mgtBody (msg : Bytes) : Bytes := (msg.drop 32).take (fieldAt msg 24 2)

/-- A reply with a status has been sent on a message's path: it repeats the message's OP and number (R454). -/
def answered (q : Pkg) (path : Path) (msg : Bytes) (status : Nat) : Prop :=
  ∃ b, Out.reply path b ∈ q.out ∧ fieldAt b 3 1 = fieldAt msg 3 1 ∧ fieldAt b 8 8 = fieldAt msg 8 8 ∧ fieldAt b 26 1 = status

/-- The commands of Table 15-2 with their OPs. -/
def mgtRows (path : Path) (msg : Bytes) : List (Instr × Nat) :=
  [(.lease path msg, 0x01), (.release path msg, 0x02), (.epoch path msg, 0x03), (.setCount path msg, 0x04), (.cap path msg, 0x05),
   (.planWrite path msg, 0x06), (.planCommit path msg, 0x07), (.readmit path msg, 0x08), (.fenceGroup path msg, 0x09),
   (.groupWrite path msg, 0x0A), (.resumeGroup path msg, 0x0B), (.memberLost path msg, 0x0C), (.imprintAuth path msg, 0x0D),
   (.clearAuth path msg, 0x0E), (.logClear path msg, 0x0F), (.quarantine path msg, 0x10), (.arrayRelease path msg, 0x11),
   (.penReset path msg, 0x12), (.warmReset path msg, 0x13), (.portReeval path msg, 0x14), (.inspect path msg, 0x15),
   (.status path msg, 0x16)]

/-- The checks of a manager's message, in order (R455, R456): one that is too short, or not from its manager's address, is discarded;
one whose MAC differs or whose key is not set is counted and no more; one whose number is not above the highest accepted is refused with
EPOCH_STALE; a reserved encoding with FORMAT_INVALID; a body of more than 1,024 bytes with LENGTH_INVALID; one of an OP that needs the lease, without it, with PERMISSION; one that a check of
its own fails, with that check's status. A message that passes the number check raises the highest number, a refused one is counted and
answered, and a command that names a later tick is counted and waits for it as the one pending command of its OP. (That a body above 1,024 bytes is
refused with check 4 is log entry 13; which fields of the header are reserved, that only untagged frames of EtherType 0x88B5 up to 1,518 bytes are
taken, and that MGT_RX_OK counts each message past the checks are log entry 32.) -/
def Obligations.ManagerMessageChecks : Prop :=
  ∀ (s : State) (path : Path) (msg : Bytes) (i : Instr) (op : Nat), runsReady s → (i, op) ∈ mgtRows path msg → fieldAt msg 3 1 = op →
    let m := s.pkg.mgt
    let mgr := fieldAt msg 2 1 % 2
    let seq := fieldAt msg 8 8
    let high := tget 0 m.seqHw mgr
    let whole := fromManager s.pkg path mgr = true ∧ frameTaken path msg = true ∧ 48 + fieldAt msg 24 2 ≤ msg.length
    let refused (st : Nat) : Prop := Does i s fun q =>
      q.mgt.rxRefused = inc64 m.rxRefused ∧ q.mgt.lastRefused = st ∧ q.mgt.epoch = m.epoch ∧ q.mgt.lease = m.lease ∧ q.mgt.holder = m.holder ∧
        q.mgt.expiry = m.expiry ∧ q.mgt.pending = m.pending ∧ q.mgt.stale = m.stale ∧ (∀ n, penOf q n = penOf s.pkg n) ∧ q.lsh = s.pkg.lsh ∧
        (op ≠ 0x16 → tget 0 q.mgt.seqHw mgr = max high seq) ∧ answered q path msg st
    (fromManager s.pkg path mgr = false ∨ frameTaken path msg = false ∨ msg.length < 48 + fieldAt msg 24 2 → Does i s fun q =>
      q.mgt = m ∧ (∀ n, penOf q n = penOf s.pkg n) ∧ q.reqs = s.pkg.reqs ∧ q.lsh = s.pkg.lsh ∧ q.fab = s.pkg.fab ∧ q.out = s.pkg.out) ∧
    (whole → op ≠ 0x16 → authentic s.pkg msg = false → Does i s fun q =>
      q.mgt.rxAuthFail = inc64 m.rxAuthFail ∧ q.mgt.seqHw = m.seqHw ∧ q.mgt.rxRefused = m.rxRefused ∧ q.mgt.rxOk = m.rxOk ∧
        q.mgt.pending = m.pending ∧ ∀ n, penOf q n = penOf s.pkg n) ∧
    (whole → op ≠ 0x16 → authentic s.pkg msg = true → seq ≤ high → refused stEpochStale) ∧
    (whole → op ≠ 0x16 → authentic s.pkg msg = true → high < seq →
      (headerValid msg = false → refused stFormatInvalid) ∧
      (headerValid msg = true → 1024 < fieldAt msg 24 2 → refused stLengthInvalid) ∧
      (headerValid msg = true → fieldAt msg 24 2 ≤ 1024 → op ≠ 0x01 → ¬ (m.lease = true ∧ m.holder = mgr ∧ m.term = fieldAt msg 4 4) → refused stPermission)) ∧
    (mgtVerdict s.pkg path msg = .take → op ≠ 0x0F →
      let c := cmdOf path msg
      (∀ st, opBar (raiseSeq s.pkg path msg) c = some st → refused st) ∧
      (opBar (raiseSeq s.pkg path msg) c = none → op ≠ 0x03 ∧ op ≠ 0x04 ∧ op ≠ 0x05 → fieldAt msg 16 8 ≠ 0 →
        s.pkg.tick.countSet = false ∨ now s.pkg < fieldAt msg 16 8 → Does i s fun q =>
          q.mgt.pending = (m.pending.filter fun x => decide (x.op ≠ op)) ++ [c] ∧ q.mgt.rxOk = inc64 m.rxOk ∧
            (∀ n, penOf q n = penOf s.pkg n) ∧ q.out = s.pkg.out))

/-- LEASE, RELEASE, LEASE_EXPIRED, EPOCH, SET_COUNT, CAP, STATUS and NAMED_TICK_ACTION (R456 to R460): a lease is taken at a term not below MGT_TERM, or
renewed by its holder at the same term, for 15,000,000 ticks, and taking it raises PF vector 1,027; it ends at RELEASE and at its expiry;
an EPOCH above the present one and every pending one, on a package that is not stale, sets it and ends every authorisation; a
count and a cap wait for the boundary and the tick at which they act; STATUS changes nothing of the block but its counter; a pending command that has
reached its tick acts and is pending no more. (That SET_COUNT and CAP are answered only when they act, that a count of 0 is refused with the zero
counts of R16, and that MGT_RX_OK counts each message past the checks are log entry 32.) -/
def Obligations.LeaseAndEpochCommands : Prop :=
  (∀ (s : State) (path : Path) (msg : Bytes), mgtNow s 0x01 path msg →
    let m := s.pkg.mgt
    let mgr := fieldAt msg 2 1 % 2
    let t := fieldAt msg 4 4
    (m.lease = false ∧ m.term ≤ t) ∨ (m.lease = true ∧ m.holder = mgr ∧ m.term = t) → Does (.lease path msg) s fun q =>
      q.mgt.lease = true ∧ q.mgt.holder = mgr ∧ q.mgt.term = t ∧ q.mgt.expiry = now s.pkg + 15000000 ∧ q.mgt.epoch = m.epoch ∧
        q.mgt.rxOk = inc64 m.rxOk ∧ answered q path msg stOk ∧ (m.lease = true → q.scn = s.pkg.scn) ∧
        (m.lease = false → signals s.pkg 1027 → Out.msix 0 1027 ∈ q.out)) ∧
  (∀ (s : State) (path : Path) (msg : Bytes), mgtNow s 0x02 path msg → Does (.release path msg) s fun q =>
    q.mgt.lease = false ∧ q.mgt.epoch = s.pkg.mgt.epoch ∧ q.mgt.term = s.pkg.mgt.term ∧ answered q path msg stOk) ∧
  (∀ s : State, powered s.pkg = true → s.pkg.mgt.lease = true →
    (s.pkg.mgt.expiry ≤ now s.pkg → Does .leaseExpired s fun q =>
      q.mgt.lease = false ∧ q.mgt.epoch = s.pkg.mgt.epoch ∧ q.mgt.term = s.pkg.mgt.term ∧
        (signals s.pkg 1027 → Out.msix 0 1027 ∈ q.out)) ∧
    (now s.pkg < s.pkg.mgt.expiry → Idles .leaseExpired s)) ∧
  (∀ (s : State) (path : Path) (msg : Bytes), mgtNow s 0x03 path msg → 8 ≤ (mgtBody msg).length →
    let new := fieldAt (mgtBody msg) 0 8
    s.pkg.mgt.epoch < new → s.pkg.mgt.stale = false → (∀ x ∈ s.pkg.mgt.pending, x.op = 0x03 ∨ x.op = 0x08 → fieldAt x.body 0 8 < new) →
    Does (.epoch path msg) s fun q =>
      q.mgt.epoch = new ∧ q.nvw.auth = none ∧ q.scn.auth = none ∧ q.mgt.lease = s.pkg.mgt.lease ∧ answered q path msg stOk) ∧
  (∀ (s : State) (path : Path) (msg : Bytes), mgtNow s 0x04 path msg → 8 ≤ (mgtBody msg).length →
    (fieldAt (mgtBody msg) 0 8 % 10000 = 0 → fieldAt (mgtBody msg) 0 8 ≠ 0 → Does (.setCount path msg) s fun q =>
      q.tick.pendingCount = some (fieldAt (mgtBody msg) 0 8) ∧ q.tick.count = s.pkg.tick.count ∧ q.mgt.rxOk = inc64 s.pkg.mgt.rxOk ∧
        ∀ b, Out.reply path b ∈ q.out → Out.reply path b ∈ s.pkg.out) ∧
    (fieldAt (mgtBody msg) 0 8 % 10000 ≠ 0 ∨ fieldAt (mgtBody msg) 0 8 = 0 → Does (.setCount path msg) s fun q =>
      q.tick = s.pkg.tick ∧ answered q path msg stLengthInvalid)) ∧
  (∀ (s : State) (path : Path) (msg : Bytes), powered s.pkg = true → fieldAt msg 3 1 = 0x05 → mgtVerdict s.pkg path msg = .take →
    4 ≤ (mgtBody msg).length →
    let v := fieldAt (mgtBody msg) 0 4
    let w := v % 2 ^ 13
    let k := v / 2 ^ 13 % 4
    let r := v / 2 ^ 16 % 2 ^ 11
    ((k < 2 ∧ 1000 ≤ w ∧ w ≤ 4200) ∨ (k = 2 ∧ w = 0)) → (r = 0 ∨ (50 ≤ r ∧ r ≤ 2000)) → v / 2 ^ 15 % 2 = 0 → v < 2 ^ 27 →
    Does (.cap path msg) s fun q =>
      q.lsh.pending = some { watts := w, kind := k, ramp := r, tick := fieldAt msg 16 8, sampled := now s.pkg } ∧
        q.lsh.budget = s.pkg.lsh.budget ∧ q.mgt.pending = (s.pkg.mgt.pending.filter fun x => decide (x.op ≠ 5)) ++ [cmdOf path msg]) ∧
  (∀ (s : State) (path : Path) (msg : Bytes), mgtNow s 0x16 path msg → Does (.status path msg) s fun q =>
    q.mgt.rxOk = inc64 s.pkg.mgt.rxOk ∧ q.mgt.seqHw = s.pkg.mgt.seqHw ∧ q.pens = s.pkg.pens ∧ q.mgt.lease = s.pkg.mgt.lease ∧
      answered q path msg stOk) ∧
  (∀ (s : State) (op : Nat) (c : PendCmd), powered s.pkg = true → duePend s.pkg op = some c →
    Does (.namedTickAction op) s fun q => ∀ x ∈ q.mgt.pending, x.op ≠ op) ∧
  (∀ (s : State) (c : PendCmd), powered s.pkg = true → duePend s.pkg 0x03 = some c → 8 ≤ c.body.length →
    s.pkg.mgt.epoch < fieldAt c.body 0 8 → s.pkg.mgt.stale = false →
    Does (.namedTickAction 0x03) s fun q => q.mgt.epoch = fieldAt c.body 0 8) ∧
  ∀ (s : State) (op : Nat), runsReady s → duePend s.pkg op = none → Idles (.namedTickAction op) s

/-- PLAN_WRITE, PLAN_COMMIT, READMIT, FENCE_GROUP, GROUP_WRITE, RESUME_GROUP and MEMBER_LOST (R358, R382, R384, R385, R461, Table 15-2): a write fills the staging area;
a commit whose digest differs is refused and one that passes every check leaves the plan it spells for the next boundary; a READMIT is
refused until NV is verified, a plan is loaded and a count is set, and then sets the epoch, ends staleness and the requests of every pen
of a group larger than one, and returns every quarantined array; a fence brings the pen back to BOUND; the group table of a
fenced pen is written; a fence is lifted at a later epoch; a member-lost command that names this package ends the pen's
requests and makes it stale. -/
def Obligations.PlanAndGroupCommands : Prop :=
  (∀ (s : State) (path : Path) (msg : Bytes), mgtNow s 0x06 path msg → 5 ≤ (mgtBody msg).length →
    let off := fieldAt (mgtBody msg) 0 4
    let d := (mgtBody msg).drop 4
    off + d.length ≤ 655360 → Does (.planWrite path msg) s fun q =>
      (∀ k, tget 0 q.mgt.staging k =
        (if off ≤ k ∧ k < off + d.length then d.getD (k - off) 0 else tget 0 s.pkg.mgt.staging k)) ∧ q.fab = s.pkg.fab ∧ answered q path msg stOk) ∧
  (∀ (s : State) (path : Path) (msg : Bytes), mgtNow s 0x07 path msg → 40 ≤ (mgtBody msg).length →
    let n := fieldAt (mgtBody msg) 4 4
    let b := tgetList 0 s.pkg.mgt.staging 0 (16384 + n)
    n ≠ 0 → 16384 + n ≤ 655360 →
    (((mgtBody msg).drop 8).take 32 ≠ sha256 b → Does (.planCommit path msg) s fun q => q.fab = s.pkg.fab ∧ answered q path msg stFormatInvalid) ∧
    (((mgtBody msg).drop 8).take 32 = sha256 b → planBar (fieldAt (mgtBody msg) 0 2) (b.drop 16384) (b.take 16384) = none →
      Does (.planCommit path msg) s fun q =>
        q.fab.planNext = some (planFrom (fieldAt (mgtBody msg) 0 2) (b.drop 16384) (b.take 16384)) ∧ q.fab.plan = s.pkg.fab.plan ∧
          answered q path msg stOk)) ∧
  (∀ (s : State) (path : Path) (msg : Bytes), mgtNow s 0x08 path msg → 8 ≤ (mgtBody msg).length →
    let new := fieldAt (mgtBody msg) 0 8
    s.pkg.mgt.stale = true → s.pkg.mgt.epoch < new →
    let ok := nvVerifiedAll s.pkg = true ∧ s.pkg.fab.plan.isSome = true ∧ s.pkg.tick.countSet = true
    (¬ ok → Does (.readmit path msg) s fun q =>
      q.mgt.stale = true ∧ q.mgt.epoch = s.pkg.mgt.epoch ∧ q.mgt.lastRefused = stPenUnavailable ∧ answered q path msg stPenUnavailable) ∧
    (ok → Does (.readmit path msg) s fun q =>
      q.mgt.stale = false ∧ q.mgt.epoch = new ∧ answered q path msg stOk ∧
        (∀ n ∈ enabledPens s.pkg, 1 < (penOf s.pkg n).groupSize → ∀ e ∈ entriesOfPen s.pkg n, liveReq (reqOf s.pkg e) = true →
          (reqOf q e).st = rqDone) ∧
        ∀ a, a < 256 → (arrOf s.pkg a).st = 1 → (arrOf q a).st = 2)) ∧
  (∀ (s : State) (path : Path) (msg : Bytes), mgtNow s 0x09 path msg → 1 ≤ (mgtBody msg).length →
    let n := fieldAt (mgtBody msg) 0 1
    n < 16 → 1 < (penOf s.pkg n).groupSize → (penOf s.pkg n).fenced = false → (penOf s.pkg n).st = penActive ∨ (penOf s.pkg n).st = penBound →
    Does (.fenceGroup path msg) s fun q => (penOf q n).fenced = true ∧ (penOf q n).st = penBound ∧ (penOf q n).step = none) ∧
  (∀ (s : State) (path : Path) (msg : Bytes), mgtNow s 0x0A path msg → 8 ≤ (mgtBody msg).length →
    let n := fieldAt (mgtBody msg) 0 1
    let first := fieldAt (mgtBody msg) 2 2
    let k := fieldAt (mgtBody msg) 4 4
    n < 16 → (penOf s.pkg n).fenced = true → 1 ≤ k → first + k ≤ (penOf s.pkg n).groupSize → 8 + 4 * k ≤ (mgtBody msg).length →
    Does (.groupWrite path msg) s fun q =>
      (∀ j, tget 0 (penOf q n).group j =
        (if first ≤ j ∧ j < first + k then
          (let v := fieldAt (mgtBody msg) (8 + 4 * (j - first)) 4
           v % 4096 + v / 2 ^ 31 % 2 * 2 ^ 31)
         else tget 0 (penOf s.pkg n).group j)) ∧ (penOf q n).fenced = true) ∧
  (∀ (s : State) (path : Path) (msg : Bytes), mgtNow s 0x0B path msg → 1 ≤ (mgtBody msg).length →
    let n := fieldAt (mgtBody msg) 0 1
    n < 16 → (penOf s.pkg n).fenced = true → (penOf s.pkg n).fenceEpoch < s.pkg.mgt.epoch → Does (.resumeGroup path msg) s fun q =>
      (penOf q n).fenced = false ∧ (penOf q n).groupStep = 0 ∧ ∀ k, k ≠ n → penOf q k = penOf s.pkg k) ∧
  ∀ (s : State) (path : Path) (msg : Bytes), mgtNow s 0x0C path msg → 4 ≤ (mgtBody msg).length →
    let n := fieldAt (mgtBody msg) 0 1
    n < 16 →
    (fieldAt (mgtBody msg) 2 2 = chipNo s.pkg → Does (.memberLost path msg) s fun q =>
      q.mgt.stale = true ∧ ∀ e ∈ entriesOfPen s.pkg n, liveReq (reqOf s.pkg e) = true → (reqOf q e).st = rqDone) ∧
    (fieldAt (mgtBody msg) 2 2 ≠ chipNo s.pkg → Does (.memberLost path msg) s fun q => q.mgt.stale = s.pkg.mgt.stale ∧ q.pens = s.pkg.pens)

/-- IMPRINT_AUTH, CLEAR_AUTH, LOG_CLEAR, QUARANTINE, ARRAY_RELEASE, PEN_RESET, WARM_RESET and PORT_REEVAL (R224, R355, R431, R434, R438, R439, R449, Table 15-2): an
authorisation is the one in force from then on; a clear acts at once on its own number; an array is quarantined with cause 5, but in the tick of a warm reset or of its pen's reset, or begins
its return; a pen loses its step and its requests, but those whose held deadline policy acts as the step ends (R189), and does not stay ACTIVE; a warm reset leaves nothing of pens, requests and lease, but a
larger reset of its tick leaves it, and a pen's, no further effect (R431); a held port is judged again. (That a count waiting for its boundary goes with a warm reset is log
entry 32.) -/
def Obligations.AuthorisationAndServiceCommands : Prop :=
  (∀ (s : State) (path : Path) (msg : Bytes), mgtNow s 0x0D path msg → 24 ≤ (mgtBody msg).length →
    let b := mgtBody msg
    1 ≤ fieldAt b 4 4 → fieldAt b 4 4 ≤ 256 → fieldAt b 16 8 ≠ 0 → Does (.imprintAuth path msg) s fun q =>
      q.nvw.auth = some { id := fieldAt b 16 8, ctx := fieldAt b 0 1, left := fieldAt b 4 4, expiry := fieldAt b 8 8 } ∧
        q.nvw.slots = s.pkg.nvw.slots ∧ answered q path msg stOk) ∧
  (∀ (s : State) (path : Path) (msg : Bytes), mgtNow s 0x0E path msg → 16 ≤ (mgtBody msg).length → Does (.clearAuth path msg) s fun q =>
    q.scn.auth = some { upto := fieldAt (mgtBody msg) 0 4, expiry := fieldAt (mgtBody msg) 8 8, manager := fieldAt msg 2 1 % 2 } ∧
      answered q path msg stOk) ∧
  (∀ (s : State) (path : Path) (msg : Bytes), mgtNow s 0x0F path msg → 4 ≤ (mgtBody msg).length →
    let u := fieldAt (mgtBody msg) 0 4
    (8192 ≤ clearsHeld s.pkg.scn ∨ s.pkg.scn.slots = [] ∨ fromFirst s.pkg.scn s.pkg.scn.seqLast < fromFirst s.pkg.scn u →
      Does (.logClear path msg) s fun q => q.scn.clearResult = stLengthInvalid ∧ q.scn.auth = s.pkg.scn.auth ∧ answered q path msg stLengthInvalid) ∧
    (clearsHeld s.pkg.scn < 8192 → s.pkg.scn.slots ≠ [] → fromFirst s.pkg.scn u ≤ fromFirst s.pkg.scn s.pkg.scn.seqLast →
      s.pkg.scn.queue = [] → s.pkg.scn.storedInTick < 16 → Does (.logClear path msg) s fun q =>
        q.scn.clearResult = stOk ∧ q.scn.dropped = 0 ∧ q.scn.overwritten = 0 ∧ answered q path msg stOk ∧
          ∀ e, e ∈ q.scn.slots → e.2.prot = true ∨ fromFirst s.pkg.scn u < fromFirst s.pkg.scn e.2.seq)) ∧
  (∀ (s : State) (path : Path) (msg : Bytes), mgtNow s 0x10 path msg → 1 ≤ (mgtBody msg).length →
    let a := fieldAt (mgtBody msg) 0 1
    ((arrOf s.pkg a).st = 0 → mayQuarantine s a → Does (.quarantine path msg) s fun q => (arrOf q a).st = 1 ∧ (arrOf q a).cause = 5 ∧ (arrOf q a).pen = 0) ∧
    ((arrOf s.pkg a).st ≠ 0 ∨ ¬ mayQuarantine s a → Does (.quarantine path msg) s fun q => q.arrays = s.pkg.arrays)) ∧
  (∀ (s : State) (path : Path) (msg : Bytes), mgtNow s 0x11 path msg → 1 ≤ (mgtBody msg).length →
    let a := fieldAt (mgtBody msg) 0 1
    ((arrOf s.pkg a).st = 1 → Does (.arrayRelease path msg) s fun q =>
      (arrOf q a).st = 2 ∧ (arrOf q a).cause = (arrOf s.pkg a).cause ∧ ∀ b, b ≠ a → arrOf q b = arrOf s.pkg b) ∧
    ((arrOf s.pkg a).st ≠ 1 → Does (.arrayRelease path msg) s fun q => q.arrays = s.pkg.arrays)) ∧
  (∀ (s : State) (path : Path) (msg : Bytes), mgtNow s 0x12 path msg → 1 ≤ (mgtBody msg).length →
    let n := fieldAt (mgtBody msg) 0 1
    n < 16 → (penOf s.pkg n).st = penBound ∨ (penOf s.pkg n).st = penActive → (penOf s.pkg n).groupSize ≤ 1 → largerReset (foreseen s) = false →
    Does (.penReset path msg) s fun q =>
      (penOf q n).st ≠ penActive ∧ (penOf q n).replace = true ∧ (penOf q n).step = none ∧
        ∀ e ∈ entriesOfPen s.pkg n, liveReq (reqOf s.pkg e) = true → (reqOf s.pkg e).heldPolicy = false → (reqOf q e).st = rqDone) ∧
  (∀ (s : State) (path : Path) (msg : Bytes), mgtNow s 0x13 path msg → largerReset (coldForeseen s) = false → Does (.warmReset path msg) s fun q =>
    q.pins = s.pkg.pins ∧ q.tick = { s.pkg.tick with pendingCount := none } ∧ q.glb.ready = false ∧ q.glb.selfTestDone = false ∧ q.pens = [] ∧ q.reqs = [] ∧ q.hnd = {} ∧
      q.mgt.lease = false ∧ q.mgt.epoch = 0 ∧ q.mgt.stale = true ∧ q.fab.plan = s.pkg.fab.plan ∧ answered q path msg stOk ∧
      ∀ c, c < 256 → (ctxOf q c).gen = genNext (ctxOf s.pkg c).gen ∧ (ctxOf q c).st = ctxDisabled) ∧
  ∀ (s : State) (path : Path) (msg : Bytes) (b : Bytes), mgtNow s 0x14 path msg → 1 ≤ (mgtBody msg).length →
    let n := fieldAt (mgtBody msg) 0 1
    n < 16 → isHeld (portOf s.pkg n).st = true → (portOf s.pkg n).collar = some b → Does (.portReeval path msg) s fun q =>
      (portOf q n).st = (collarVerdict s.pkg n b).1 ∧ (portOf q n).holdReason = (collarVerdict s.pkg n b).2 ∧
        ∀ k, k ≠ n → portOf q k = portOf s.pkg k

/-- INSPECT, INSPECT_LEVEL_STEP, INSPECTION_RECORD, INSPECT_TIMEOUT and LANE_MEASUREMENT_REFRESH (R463 to R466): a port that is neither DISABLED nor DOWN and inspects nothing
enters INSPECT and sends its record with PHASE 1; it holds each of its four levels for 1,000 ticks; a port that receives PHASE 1 joins with the
readings recorded, and PHASE 2 with the right sequence number is recorded by the port that began; when both phases are recorded, or 20,000 ticks
have passed without PHASE 2, the port trains again. A refresh shows powers and bias, LOW_RX below 500, and adds the bits to the interval. -/
def Obligations.InspectionsAndLanes : Prop :=
  (∀ (s : State) (path : Path) (msg : Bytes), mgtNow s 0x15 path msg → 1 ≤ (mgtBody msg).length →
    let n := fieldAt (mgtBody msg) 0 1
    n < 16 → 2 ≤ (portOf s.pkg n).st → (portOf s.pkg n).insp = none → Does (.inspect path msg) s fun q =>
      (portOf q n).st = ptInspect ∧ (portOf q n).xseq = ((portOf s.pkg n).xseq + 1) % 65536 ∧
        (∃ i, (portOf q n).insp = some i ∧ i.starter = true ∧ i.level = 1 ∧ i.since = now s.pkg ∧ i.recorded = false) ∧
        ∃ b, Out.control n b ∈ q.out ∧ fieldAt b 0 1 = 4 ∧ fieldAt b 1 1 = 1 ∧ fieldAt b 2 2 = ((portOf s.pkg n).xseq + 1) % 65536) ∧
  (∀ (s : State) (n : Nat) (i : Insp), powered s.pkg = true → n < 16 → (portOf s.pkg n).insp = some i →
    let held := since s.pkg i.since
    (held < 1000 → Idles (.inspectLevelStep n) s) ∧
    (i.starter = true → i.recorded = false → 1 ≤ i.level → i.level < 4 → 1000 ≤ held → Does (.inspectLevelStep n) s fun q =>
      portOf q n = { portOf s.pkg n with insp := some { i with level := i.level + 1, since := now s.pkg } }) ∧
    (i.starter = false → i.level = 0 → 4000 ≤ held → Does (.inspectLevelStep n) s fun q =>
      (portOf q n).insp = some { i with level := 1, since := now s.pkg } ∧
        ∃ b, Out.control n b ∈ q.out ∧ fieldAt b 0 1 = 4 ∧ fieldAt b 1 1 = 2) ∧
    (i.recorded = true → 4 ≤ i.level → 4000 ≤ held → Does (.inspectLevelStep n) s fun q =>
      (portOf q n).st = ptTraining ∧ (portOf q n).insp = none) ∧
    (i.starter = true → i.recorded = false → 20000 ≤ since s.pkg i.started → Does (.inspectTimeout n) s fun q =>
      (portOf q n).st = ptTraining ∧ (portOf q n).insp = none) ∧
    (since s.pkg i.started < 20000 → Idles (.inspectTimeout n) s)) ∧
  (∀ (s : State) (n : Nat) (rec : Bytes) (rx : List Nat), powered s.pkg = true → n < 16 → fieldAt rec 0 1 = 4 →
    let readings (q : Pkg) : Prop := ∀ i k, i < 4 → k < 4 →
      tget 0 (laneOf q (4 * n + i)).inspRx k = rx.getD (4 * k + i) 0 % 65536 ∧
        tget 0 (laneOf q (4 * n + i)).inspTx k = fieldAt rec (8 + 8 * k + 2 * i) 2
    ((portOf s.pkg n).insp = none → 3 ≤ (portOf s.pkg n).st → fieldAt rec 1 1 = 1 → Does (.inspectionRecord n rec rx) s fun q =>
      (portOf q n).st = ptInspect ∧ readings q) ∧
    (∀ i, (portOf s.pkg n).insp = some i → i.starter = true → i.recorded = false → fieldAt rec 1 1 = 2 →
      (i.xseq = fieldAt rec 2 2 → Does (.inspectionRecord n rec rx) s fun q =>
        (portOf q n).insp = some { i with recorded := true, since := now s.pkg, level := 4 } ∧ readings q) ∧
      (i.xseq ≠ fieldAt rec 2 2 → Idles (.inspectionRecord n rec rx) s))) ∧
  ∀ (s : State) (x : LaneSample), powered s.pkg = true → x.lane < 64 → since s.pkg s.pkg.fab.laneRoll < 1000000 →
    Does (.laneMeasurementRefresh [x]) s fun q =>
      let l := laneOf q x.lane
      l.rx = x.rx % 65536 ∧ l.tx = x.tx % 65536 ∧ l.bias = x.bias % 65536 ∧ l.los = x.los ∧ (l.lowRx = true ↔ x.rx < 500) ∧
        l.txFault = x.txFault ∧ l.bitErrors = (laneOf s.pkg x.lane).bitErrors ∧
        l.accBits = min sat64 ((laneOf s.pkg x.lane).accBits + x.bits) ∧ ∀ k, k ≠ x.lane → laneOf q k = laneOf s.pkg k

/-- The I3C target (R453): ENTDAA gives the package an address when it has none, and RSTDAA takes it away; SETMRL, ENEC and DISEC set the maximum read
length and the in-band interrupts; GETPID, GETBCR and GETDCR answer with 6, 1 and 1 bytes at an assigned address; a private write is served as the
manager's message that it holds; a private read returns the oldest unread reply, or no bytes. The CCCs are answered below the lockout of VIN6 as
well (R471). (What a read does with a reply longer than the maximum, and bit 0 of the event byte, are the model's choices, log entry 8.) -/
def Obligations.I3cCommands : Prop :=
  (∀ (s : State) (a : Nat), s.pkg.i3c.addr = none → a < 128 →
    exec (.entdaa a) s = .next { s with pkg := { s.pkg with i3c := { s.pkg.i3c with addr := some a } } }) ∧
  (∀ s : State, Does .rstdaa s fun q => q.i3c = { s.pkg.i3c with addr := none } ∧ q.mgt = s.pkg.mgt) ∧
  (∀ (s : State) (n : Nat), n < 65536 → Does (.setmrl n) s fun q => q.i3c = { s.pkg.i3c with mrl := n }) ∧
  (∀ (s : State) (v : Word8),
    (Does (.enec v) s fun q => q.i3c = { s.pkg.i3c with ibi := s.pkg.i3c.ibi || v.getLsbD 0 }) ∧
    Does (.disec v) s fun q => q.i3c = { s.pkg.i3c with ibi := s.pkg.i3c.ibi && !(v.getLsbD 0) }) ∧
  (∀ (s : State) (a : Nat), s.pkg.i3c.addr = some a → ∀ (c : Instr) (n : Nat), (c, n) ∈ [(Instr.getpid, 6), (.getbcr, 1), (.getdcr, 1)] →
    ∃ b : Bytes, b.length = n ∧ exec c s = .next { s with pkg := { s.pkg with out := s.pkg.out ++ [.i3c b] } }) ∧
  (∀ (s : State) (a : Nat), powered s.pkg = true → s.pkg.i3c.addr = some a →
    (∀ (msg : Bytes) (i : Instr) (op : Nat), (i, op) ∈ mgtRows .i3c msg → fieldAt msg 3 1 = op → exec (.i3cPrivateWrite msg) s = exec i s) ∧
    (s.pkg.i3c.replies = [] → Does .i3cPrivateRead s fun q => q.out = s.pkg.out ++ [.i3c []] ∧ q.i3c = s.pkg.i3c) ∧
    ∀ b t, s.pkg.i3c.replies = b :: t → Does .i3cPrivateRead s fun q =>
      q.i3c = { s.pkg.i3c with replies := t } ∧ (b.length ≤ s.pkg.i3c.mrl → q.out = s.pkg.out ++ [.i3c b])) ∧
  ∀ (s : State) (msg : Bytes), powered s.pkg = true → s.pkg.i3c.addr.isSome = true → (fieldAt msg 3 1 = 0 ∨ 0x16 < fieldAt msg 3 1) →
    48 + fieldAt msg 24 2 ≤ msg.length → authentic s.pkg msg = true → tget 0 s.pkg.mgt.seqHw (fieldAt msg 2 1 % 2) < fieldAt msg 8 8 →
    Does (.i3cPrivateWrite msg) s fun q => q.mgt.lastRefused = stFormatInvalid ∧ q.mgt.rxRefused = inc64 s.pkg.mgt.rxRefused ∧ q.pens = s.pkg.pens

/-! ### Completion -/

/-- A manager's message of an OP that no check refuses and that names the tick in which it is sampled. -/
abbrev mgtPasses (s : State) (op : Nat) (path : Path) (msg : Bytes) : Prop :=
  mgtNow s op path msg ∧ opBar (raiseSeq s.pkg path msg) (cmdOf path msg) = none

/-- Where commands have their own effect, one fact of it each: a STORE word is done (R124, R125); an ADMITTING request's hold ends, its
tokens are read, an APPEND's tokens are in hand or in its history, a deadline is missed, paused pages expire (R290, R291, R294, R300, R301);
a slot word, a candidate record and a selection stand (R304 to R306); a frame lands on either side of the host link, a shared page is
copied, a SWAPPED request returns, a context comes back (R329, R335 to R341); and a manager's command that no check refuses is answered OK with
the change of Table 15-2: a lease is taken, renewed or given up, an epoch set, a count or a cap left pending, the status read (R59, R394, R454,
R457 to R460), a lease that has not been renewed expires, a pending command acts at its named tick (R456), and an I3C private write of a
message does what the message of its OP does, with the reply left to be read (R453). -/
def Obligations.CommandsComplete : Prop :=
  (∀ (s : State) (a : Nat), atWord s.pkg a 6 = true →
    (wbit (nextWord s.pkg a) 0 6 = false → Does (.store a) s fun q => goesOn s.pkg q a) ∧
    (wbit (nextWord s.pkg a) 0 6 = true → Does (.storeRowstate a) s fun q => goesOn s.pkg q a)) ∧
  (∀ (s : State) (e : Nat), fwRuns s.pkg = true →
    let r := reqOf s.pkg e
    (holdOver s.pkg e = true → Does (.admitHoldExpiry e) s fun q => (reqOf q e).st = rqFree) ∧
    (∀ ts : List Word32, served s.pkg e = true → r.promptRead = false → ts.length = r.promptTokens →
      badToken (vocabOf s.pkg r.pen) ts = none → prefixDiff s.pkg e (ts.map (·.toNat)) = none →
      Does (.promptReadDone e (some ts)) s fun q => (reqOf q e).promptRead = true) ∧
    (∀ (t : TokRead) (ts : List Word32), served s.pkg e = true → r.appends.find? (fun t => t.issued && t.data.isNone) = some t →
      ts.length = t.count → Does (.appendReadDone e (some ts)) s fun q =>
        (r.inStep = true → ∃ y ∈ (reqOf q e).appends, y.data = some ts) ∧
        (r.inStep = false → (reqOf q e).appends.length < r.appends.length)) ∧
    (liveReq r = true → r.nextDl ≠ 0 → r.nextDl ≤ now s.pkg → Does (.deadlineMissed e) s fun q => q.rq.late = inc64 s.pkg.rq.late) ∧
    (r.st = rqPaused → r.ttlExp ≠ 0 → r.ttlExp ≤ now s.pkg → Does (.ttlExpiry e) s fun q => (reqOf q e).st = rqDone)) ∧
  (∀ (s : State) (n k : Nat) (w : Word64), fwRuns s.pkg = true → k < groupCount s.pkg n * (imageOf s.pkg n).batchSlots →
    bitsOf w.toNat 34 32 ≠ 7 → bitsOf w.toNat 34 32 ≤ (imageOf s.pkg n).positions → Does (.slotWord n (8 * k) w) s fun q => tget 0 (penOf q n).slotWords k = w.toNat) ∧
  (∀ (s : State) (n off : Nat) (b : Bytes), fwRuns s.pkg = true → (penOf s.pkg n).step.isSome = true →
    let c := candOf s.pkg b
    let i := imageOf s.pkg n
    off = 1024 * candIndex s.pkg n c.slot c.pos c.row c.sender → off / 1024 < groupCount s.pkg n * i.batchSlots * i.positions * i.positions →
    c.pos < i.positions → c.row < i.positions → c.sender < groupCount s.pkg n → candCountBad s.pkg n b = false → fieldAt b 0 4 = (penOf s.pkg n).groupStep % 2 ^ 32 →
    Does (.candidateRecord n off b) s fun q => c ∈ (stepNow q n).cands) ∧
  (∀ (s : State) (n slot : Nat) (u : SlotUse), fwRuns s.pkg = true → tget none (stepNow s.pkg n).slots slot = some u → u.select = true →
    candsIn s.pkg n slot u = true → tget none (stepNow s.pkg n).chosen slot = none →
    Does (.tokenSelect n slot) s fun q => (tget none (stepNow q n).chosen slot).isSome = true) ∧
  (∀ (s : State) (n : Nat) (k : Copy) (key : Nat) (rest : List Nat) (b : Bytes), fwRuns s.pkg = true → n < 16 →
    runningCopy s.pkg n = some k → k.keys = key :: rest →
    (∀ f off, isOut k = true → tget .unheld (reqOf s.pkg k.entry).parts key = .frame f → goesOut s.pkg n k f = true →
      hostPlace (ctxOf s.pkg (reqOf s.pkg k.entry).ctx) (frameKib s.pkg n) = some off → Does (.kvHostCopyDone n (some b)) s fun q =>
        q.kvp.hostOut = satAdd sat64 s.pkg.kvp.hostOut (1024 * frameKib s.pkg n)) ∧
    (∀ off, isOut k = false → b.length = 1024 * frameKib s.pkg n → tget .unheld (reqOf s.pkg (partHolder s.pkg k key)).parts key = .host off →
      (∀ refs, (frameBack s.pkg k key refs).isSome = true) → Does (.kvHostCopyDone n (some b)) s fun q =>
        q.kvp.hostIn = satAdd sat64 s.pkg.kvp.hostIn (1024 * frameKib s.pkg n))) ∧
  (∀ (s : State) (n f : Nat), fwRuns s.pkg = true → (∃ c ∈ (poolOf s.pkg n).cowCopies, c.1 = f) →
    Does (.kvCowCopyDone n f) s fun q => ∀ c ∈ (poolOf q n).cowCopies, c.1 ≠ f) ∧
  (∀ (s : State) (n e : Nat), fwRuns s.pkg = true → n < 16 →
    (entriesOfPen s.pkg n).filter (fun k => decide ((reqOf s.pkg k).st = rqSwapped)) = [e] → mayReturn s.pkg e = true →
    (∀ x ∈ (poolOf s.pkg n).copies, x.why ≠ 3) → hostKeys s.pkg e = [] → (reqOf s.pkg e).held = [] →
    Does (.swapReturn n) s fun q => (reqOf q e).st = (reqOf s.pkg e).prev) ∧
  (∀ (s : State) (n c : Nat), fwRuns s.pkg = true → n < 16 → (poolOf s.pkg n).swap = none → takeRunnable s.pkg n = some c →
    (∀ e, e ∈ backEntries s.pkg c → hostKeys s.pkg e = []) → (∀ m, (poolOf s.pkg m).copies = []) →
    Does (.contextSwap n) s fun q => (ctxOf q c).resident = true) ∧
  (∀ (s : State) (path : Path) (msg : Bytes) (i : Instr) (op : Nat), (i, op) ∈ mgtRows path msg →
    op ∈ [0x06, 0x07, 0x09, 0x0A, 0x0B, 0x0C, 0x0D, 0x0E, 0x0F, 0x10, 0x11, 0x12, 0x13, 0x14] → mgtPasses s op path msg →
    Does i s fun q => answered q path msg stOk ∧
      let b := mgtBody msg
      let n := fieldAt b 0 1
      (op = 0x06 → ∀ k, k < b.length - 4 → tget 0 q.mgt.staging (fieldAt b 0 4 + k) = b.getD (4 + k) 0) ∧
      (op = 0x07 → q.fab.planNext.isSome = true) ∧ (op = 0x09 → mayFence (penOf s.pkg n) = true → (penOf q n).fenced = true) ∧
      (op = 0x0A → tget 0 (penOf q n).group (fieldAt b 2 2) % 4096 = fieldAt b 8 4 % 4096) ∧ (op = 0x0B → (penOf q n).fenced = false) ∧
      (op = 0x0C → fieldAt b 2 2 = chipNo s.pkg → q.mgt.stale = true) ∧ (op = 0x0D → q.nvw.auth.isSome = true) ∧
      (op = 0x0E → q.scn.auth.isSome = true) ∧ (op = 0x0F → q.scn.clearResult = stOk) ∧ (op = 0x10 → mayQuarantine s n → (arrOf q n).st ≠ 0) ∧
      (op = 0x11 → (arrOf s.pkg n).st = 1 → (arrOf q n).st = 2) ∧
      (op = 0x12 → largerReset (foreseen s) = false → (penOf q n).replace = true) ∧
      (op = 0x13 → largerReset (coldForeseen s) = false → q.pens = [] ∧ q.reqs = []) ∧
      (op = 0x14 → ∀ c, isHeld (portOf s.pkg n).st = true → (portOf s.pkg n).collar = some c →
        (portOf q n).st = (collarVerdict s.pkg n c).1)) ∧
  (∀ (s : State) (path : Path) (msg : Bytes), mgtPasses s 0x08 path msg → readmitLacks s.pkg = none →
    Does (.readmit path msg) s fun q => q.mgt.stale = false ∧ q.mgt.epoch = fieldAt (mgtBody msg) 0 8 ∧ answered q path msg stOk) ∧
  (∀ (s : State) (path : Path) (msg : Bytes),
    let body := mgtBody msg
    (mgtPasses s 0x01 path msg → Does (.lease path msg) s fun q =>
      q.mgt.lease = true ∧ q.mgt.holder = fieldAt msg 2 1 % 2 ∧ q.mgt.term = fieldAt msg 4 4 ∧ q.mgt.expiry = now s.pkg + 15000000 ∧
        answered q path msg stOk) ∧
    (mgtPasses s 0x02 path msg → Does (.release path msg) s fun q => q.mgt.lease = false ∧ answered q path msg stOk) ∧
    (mgtPasses s 0x03 path msg → (∀ x ∈ s.pkg.mgt.pending, x.op = 0x03 ∨ x.op = 0x08 → fieldAt x.body 0 8 < fieldAt body 0 8) →
      Does (.epoch path msg) s fun q => q.mgt.epoch = fieldAt body 0 8 ∧ answered q path msg stOk) ∧
    (mgtPasses s 0x04 path msg → Does (.setCount path msg) s fun q => q.tick.pendingCount = some (fieldAt body 0 8)) ∧
    (mgtPasses s 0x05 path msg → Does (.cap path msg) s fun q =>
      ∃ c, q.lsh.pending = some c ∧ c.watts = fieldAt body 0 4 % 2 ^ 13 ∧ c.kind = fieldAt body 0 4 / 2 ^ 13 % 4 ∧ c.tick = 0) ∧
    (mgtPasses s 0x16 path msg → Does (.status path msg) s fun q =>
      q.mgt.rxOk = inc64 s.pkg.mgt.rxOk ∧ answered q path msg stOk)) ∧
  (∀ s : State, powered s.pkg = true → s.pkg.mgt.lease = true → s.pkg.mgt.expiry ≤ now s.pkg → Does .leaseExpired s fun q =>
    q.mgt.lease = false ∧ q.mgt.term = s.pkg.mgt.term ∧ q.mgt.epoch = s.pkg.mgt.epoch) ∧
  (∀ (s : State) (op : Nat) (c : PendCmd), powered s.pkg = true → op ≤ 0x14 → duePend s.pkg op = some c → opBar s.pkg c = none →
    (op = 0x08 → readmitLacks s.pkg = none) → Does (.namedTickAction op) s fun q =>
      (∀ x ∈ q.mgt.pending, x.op ≠ op) ∧ (op = 0x03 ∨ op = 0x08 → q.mgt.epoch = fieldAt c.body 0 8) ∧
        ∃ b, Out.reply c.path b ∈ q.out ∧ fieldAt b 3 1 = op ∧ fieldAt b 26 1 = stOk) ∧
  ∀ (s : State) (msg : Bytes) (op : Nat), s.pkg.i3c.addr.isSome = true → op ∈ [0x01, 0x02, 0x09, 0x0D, 0x0E, 0x10, 0x11, 0x16] →
    mgtPasses s op .i3c msg → Does (.i3cPrivateWrite msg) s fun q =>
      answered q .i3c msg stOk ∧ (∃ b, q.i3c.replies = s.pkg.i3c.replies ++ [b] ∧ fieldAt b 3 1 = op ∧ fieldAt b 26 1 = stOk) ∧
        (op = 0x01 → q.mgt.lease = true ∧ q.mgt.term = fieldAt msg 4 4) ∧ (op = 0x02 → q.mgt.lease = false) ∧
        (op = 0x0D → q.nvw.auth.isSome = true) ∧ (op = 0x0E → q.scn.auth.isSome = true)

/-! ### Frames -/

/-- The parts of the package that a command may change (the queue is no part of it). -/
def mayChange (c : Instr) : List Area :=
  match c with
  | .powerUp =>
    [.pins, .glb, .scn, .lsh, .out]
  | .vin6Lockout | .resetNAssert =>
    [.pins, .tick, .glb, .scn, .arrays, .ldr, .pens, .nvw, .ctxs, .numVfs, .reqs, .lastGen, .rq, .kvp, .fab, .lsh, .hnd, .mgt,
     .i3c, .out]
  | .auxRailFault =>
    [.pins, .tick, .glb, .scn, .arrays, .ldr, .pens, .nvw, .ctxs, .numVfs, .reqs, .lastGen, .rq, .kvp, .fab, .lsh, .hnd, .mgt,
     .i3c, .out, .freeCtr]
  | .resetNRelease | .perstRelease =>
    [.pins, .glb]
  | .perstAssert =>
    [.pins, .tick, .glb, .scn, .arrays, .ldr, .pens, .nvw, .ctxs, .numVfs, .reqs, .rq, .kvp, .fab, .lsh, .hnd, .mgt, .i3c,
     .out]
  | .selfTestDone .. | .engineFault .. =>
    [.glb, .scn, .arrays, .pens, .nvw, .ctxs, .reqs, .rq, .fab, .lsh, .hnd, .i3c, .out, .freeCtr]
  | .refclkOkSet | .tickSyncEdge | .refclkOutOfRange =>
    [.tick]
  | .tickPhaseLock | .refclkRelock =>
    [.tick, .glb, .out]
  | .tickSyncMiss | .tickSyncPhaseErr | .timeResponse .. =>
    [.tick, .scn, .out]
  | .refclkLost .. =>
    [.pins, .tick, .glb, .scn, .arrays, .pens, .nvw, .ctxs, .reqs, .rq, .fab, .lsh, .hnd, .mgt, .out, .freeCtr]
  | .countLoad =>
    [.tick, .glb, .scn, .pens, .nvw, .ctxs, .reqs, .rq, .fab, .lsh, .hnd, .mgt, .i3c, .out]
  | .timeExchange .. =>
    [.tick, .scn, .fab, .out]
  | .timeRequest .. | .portTrainPhaseDone .. | .packetForward .. | .livenessProbe .. | .inspectionRecord .. =>
    [.fab, .out]
  | .tickCtrlWrite .. =>
    [.tick, .glb]
  | .bar0Write .. =>
    [.tick, .glb, .scn, .arrays, .ldr, .pens, .nvw, .ctxs, .reqs, .rq, .kvp, .fab, .lsh, .hnd, .mgt, .i3c, .out, .freeCtr]
  | .bar0AccessInvalid .. | .scnClearCmd .. | .scnCtrlWrite .. =>
    [.glb, .scn, .out]
  | .bind .. | .unbind .. | .bindComplete .. =>
    [.glb, .scn, .ldr, .pens, .nvw, .ctxs, .reqs, .fab, .lsh, .hnd, .out, .freeCtr]
  | .unbindComplete =>
    [.glb, .scn, .ldr, .pens, .nvw, .ctxs, .reqs, .rq, .fab, .lsh, .hnd, .out, .freeCtr]
  | .penEnable .. | .penDisable .. =>
    [.glb, .scn, .arrays, .pens, .ctxs, .reqs, .fab, .lsh, .hnd, .out, .freeCtr]
  | .penBudgetWrite .. =>
    [.glb, .scn, .arrays, .pens, .out]
  | .penActivate .. =>
    [.scn, .pens, .ctxs, .reqs, .rq, .fab, .lsh, .hnd, .out, .freeCtr]
  | .predStepRefresh | .stepRelease .. | .dispatchPiece .. | .dispatchTagRun .. | .combineStore .. | .slotWord ..
  | .candidateRecord .. | .kvCowCopyDone .. =>
    [.pens]
  | .stepSetupStart .. =>
    [.scn, .arrays, .pens, .ctxs, .reqs, .fab, .hnd, .out, .freeCtr]
  | .setupComplete .. | .countRecord .. | .dispatchMark .. | .freeMark .. | .combineMark .. =>
    [.scn, .arrays, .pens, .fab, .out]
  | .segmentStart .. | .segmentSwitch .. | .rowfn .. | .maskset .. | .syncDrain .. | .syncBarrier .. | .syncArrive ..
  | .syncWait .. | .syncLayerEnd .. | .score .. =>
    [.arrays]
  | .stepDone .. =>
    [.scn, .arrays, .pens, .ctxs, .reqs, .rq, .lsh, .hnd, .out, .freeCtr]
  | .mma .. | .loadw .. | .loada .. | .storeRowstate .. | .barrierComplete .. | .recvGateComplete .. | .combGateComplete .. =>
    [.arrays, .pens]
  | .fuse2 .. =>
    [.arrays, .pens, .reqs, .freeCtr]
  | .store .. =>
    [.arrays, .pens, .reqs]
  | .syncEnd .. =>
    [.arrays, .pens, .fab, .out]
  | .layerDone .. =>
    [.scn, .arrays, .pens, .fab, .out, .freeCtr]
  | .exchangeWatchdog .. | .packetLoad .. | .packetStore .. | .packetAtomic .. | .memberUnreached .. | .fenceNotice .. =>
    [.scn, .arrays, .pens, .nvw, .ctxs, .reqs, .rq, .fab, .lsh, .hnd, .out, .freeCtr]
  | .imprintWrite .. =>
    [.scn, .nvw, .ctxs, .hnd, .out, .freeCtr]
  | .imprintRetire .. | .imprintWriteDone .. =>
    [.glb, .scn, .nvw, .ctxs, .hnd, .out, .freeCtr]
  | .imprintAuthExpiry | .replicaHostFetchDone .. =>
    [.nvw]
  | .nvVerifyStart | .nvSlotVerifyDone .. =>
    [.glb, .scn, .nvw, .out]
  | .nvUncorrectable .. | .nvBlockFetchDone .. | .nvStackFailed .. | .beatRateCheck .. | .arrayWatchdog ..
  | .sramUncorrectable .. | .dramUncorrectable .. | .dramStackFailed .. =>
    [.glb, .scn, .arrays, .pens, .nvw, .ctxs, .reqs, .rq, .fab, .lsh, .hnd, .out, .freeCtr]
  | .nvRepairStart .. | .replicaKindWrite .. =>
    [.glb, .nvw, .fab, .out]
  | .nvRepairDone .. =>
    [.glb, .scn, .nvw, .fab, .out]
  | .replicaCheck .. =>
    [.nvw, .fab]
  | .replicaRecheck .. | .slowerFetchDone .. =>
    [.scn, .arrays, .ldr, .pens, .nvw, .ctxs, .reqs, .rq, .fab, .lsh, .hnd, .out, .freeCtr]
  | .ctxEnable .. | .ctxDisable .. | .ctxCmdReset .. =>
    [.glb, .scn, .pens, .nvw, .ctxs, .reqs, .rq, .fab, .lsh, .hnd, .out, .freeCtr]
  | .contextResetDone .. | .ringWriteFailed .. | .pause .. | .resume .. | .admitHoldExpiry .. | .appendReadDone ..
  | .swapReturn .. | .contextSwap .. =>
    [.scn, .pens, .ctxs, .reqs, .hnd, .out, .freeCtr]
  | .flrVf .. | .flrPf =>
    [.scn, .pens, .nvw, .ctxs, .reqs, .rq, .fab, .lsh, .hnd, .out, .freeCtr]
  | .vfEnableClear .. =>
    [.scn, .pens, .nvw, .ctxs, .numVfs, .reqs, .rq, .fab, .lsh, .hnd, .out, .freeCtr]
  | .hostLinkDown .. =>
    [.glb, .scn, .pens, .ctxs, .reqs, .out]
  | .dbSqTail .. | .dbCqHead .. | .dbEqHead .. | .rollcallDone .. =>
    [.scn, .ctxs, .out]
  | .descriptorFetchDone .. =>
    [.scn, .pens, .ctxs, .reqs, .out]
  | .admitReq .. =>
    [.scn, .pens, .ctxs, .reqs, .lastGen, .rq, .hnd, .out, .freeCtr]
  | .append .. =>
    [.scn, .ctxs, .reqs, .hnd, .out, .freeCtr]
  | .cancel .. | .promptReadDone .. | .deadlineMissed .. | .ttlExpiry .. =>
    [.scn, .pens, .ctxs, .reqs, .rq, .hnd, .out, .freeCtr]
  | .hint .. =>
    [.scn, .ctxs, .lsh, .hnd, .out, .freeCtr]
  | .fence .. | .fenceComplete .. | .rollcall .. | .setSampling .. | .hndMbCmdTail .. | .hndMbReplyHead .. | .hndTqHead ..
  | .ecallExit .. | .ecallWait .. | .hndRingBaseWrite .. =>
    [.scn, .ctxs, .hnd, .out, .freeCtr]
  | .irqModerationTime .. =>
    [.ctxs]
  | .tokenSelect .. =>
    [.scn, .pens, .rq, .out]
  | .kvHostCopyDone .. =>
    [.scn, .pens, .ctxs, .reqs, .kvp, .hnd, .out, .freeCtr]
  | .portEnable .. =>
    [.glb, .scn, .fab, .i3c, .out]
  | .portLightDetect .. | .portTrainTimeout .. | .laneMeasurementRefresh .. =>
    [.fab]
  | .collarRecord .. =>
    [.scn, .fab, .out]
  | .portDown .. | .inspectLevelStep .. | .inspectTimeout .. =>
    [.scn, .fab, .i3c, .out]
  | .flitReceive .. =>
    [.fab, .out, .freeCtr]
  | .loadResp .. | .storeAck .. | .atomicResp .. | .loadTimeout .. | .storeTimeout .. =>
    [.scn, .fab, .hnd, .out]
  | .fabricFenceComplete .. =>
    [.fab, .hnd]
  | .planTakesEffect =>
    [.tick, .glb, .scn, .fab, .i3c, .out]
  | .pkfProbeGo .. =>
    [.glb, .fab, .out]
  | .pkfRrcInvalidate .. =>
    [.glb, .fab]
  | .leashTick .. | .throttleStart .. | .throttleStep .. =>
    [.scn, .lsh, .out]
  | .lshCapNextCommit .. =>
    [.glb, .scn, .lsh, .mgt, .out]
  | .capSoftApplied | .capHardApplied | .capReleaseApplied =>
    [.scn, .lsh, .mgt, .i3c, .out]
  | .powerEmergency .. | .thermalEmergency .. =>
    [.pins, .scn, .ctxs, .lsh, .out]
  | .emergencyEnd =>
    [.pins, .lsh, .out]
  | .thermtrip .. =>
    [.pins, .lsh]
  | .thermtripLatchClear =>
    [.pins]
  | .arraySelftestDone .. =>
    [.glb, .scn, .arrays, .pens, .lsh, .out]
  | .fwFault .. =>
    [.pins, .glb, .scn, .out]
  | .scentQueueDrain =>
    [.scn, .out]
  | .clearAuthExpiry =>
    [.scn]
  | .houndBind .. =>
    [.glb, .pens, .hnd, .out]
  | .houndUnbind .. =>
    [.glb, .pens, .ctxs, .fab, .hnd]
  | .houndImageLoaded .. =>
    [.scn, .pens, .ctxs, .fab, .hnd, .out]
  | .hndFqLoad .. | .hndFqStore .. | .hndFqAtomic .. | .hndFqFence .. =>
    [.scn, .ctxs, .fab, .hnd, .out, .freeCtr]
  | .houndWake .. =>
    [.hnd]
  | .houndFault .. =>
    [.glb, .scn, .ctxs, .hnd, .out, .freeCtr]
  | .lease .. | .release .. | .epoch .. | .setCount .. | .cap .. | .planWrite .. | .planCommit .. | .readmit ..
  | .fenceGroup .. | .groupWrite .. | .resumeGroup .. | .memberLost .. | .imprintAuth .. | .clearAuth .. | .logClear ..
  | .quarantine .. | .arrayRelease .. | .penReset .. | .warmReset .. | .portReeval .. | .inspect .. | .status ..
  | .namedTickAction .. | .i3cPrivateWrite .. =>
    [.tick, .glb, .scn, .arrays, .ldr, .pens, .nvw, .ctxs, .numVfs, .reqs, .rq, .kvp, .fab, .lsh, .hnd, .mgt, .i3c, .out,
     .freeCtr]
  | .leaseExpired =>
    [.glb, .scn, .mgt, .out]
  | .i3cPrivateRead =>
    [.i3c, .out]
  | .entdaa .. | .rstdaa | .setmrl .. | .enec .. | .disec .. =>
    [.i3c]
  | .getpid | .getbcr | .getdcr =>
    [.out]
  | .tickBoundary =>
    [.pins, .tick, .glb, .scn, .arrays, .pens, .nvw, .ctxs, .reqs, .rq, .fab, .lsh, .hnd, .out, .freeCtr]

/-- What each command leaves as it is: whenever `exec` answers a next state, the queue is as it was, and so is every part of the package that
is not listed for the command (its pins, tick counter, GLB_ block, Scent log, arrays with their memories, loader, pens with their
buffers and frames, NV slots, contexts, requests, fabric, Leash, Hound cores with their program memories, management block, I3C target,
outputs). -/
def Obligations.FramesOfCommands : Prop := ∀ c : Instr, ChangesOnly c (mayChange c)
end

