-- ==== Sys2Proof/Laws/Tab.lean ====
section
/-! SUPPORT. The laws of sparse tables: what a read gives after a write, which writes keep the canonical form, and that canonical
tables that read equal are equal. -/

namespace Sys2Proof.Machine

variable {α : Type}

@[simp] theorem tget_nil (d : α) (n : Nat) : tget d [] n = d := rfl

theorem tget_tdel (d : α) (t : Tab α) (n m : Nat) : tget d (tdel t n) m = if m = n then d else tget d t m := by
  induction t with
  | nil => simp [tdel, tget]
  | cons e t ih =>
    obtain ⟨k, v⟩ := e
    by_cases h : n = k
    · subst h
      by_cases hm : m = n <;> simp_all [tdel, tget]
    · by_cases hk : m = k
      · subst hk
        have : ¬ m = n := fun e => h e.symm
        simp [tdel, tget, h, this]
      · simp [tdel, tget, h, hk, ih]

theorem tget_tins (d : α) (t : Tab α) (n m : Nat) (x : α) : tget d (tins n x t) m = if m = n then x else tget d t m := by
  induction t with
  | nil => simp [tins, tget]
  | cons e t ih =>
    obtain ⟨k, v⟩ := e
    rcases Nat.lt_trichotomy n k with h | h | h
    · simp only [tins, h, if_true, tget]
    · subst h
      by_cases hm : m = n <;> simp [tins, tget, hm]
    · have h1 : ¬ n < k := by omega
      have h2 : ¬ n = k := by omega
      by_cases hm : m = k
      · subst hm
        have : ¬ m = n := fun e => h2 e.symm
        simp [tins, tget, h1, h2, this]
      · simp [tins, tget, h1, h2, hm, ih]

/-- A read after a write: the value written at its key, and what stood there at every other key. -/
theorem tget_tset [DecidableEq α] (d : α) (t : Tab α) (n m : Nat) (x : α) :
    tget d (tset d t n x) m = if m = n then x else tget d t m := by
  unfold tset
  split
  · rename_i h; rw [tget_tdel, h]
  · exact tget_tins d t n m x

@[simp] theorem tget_tset_same [DecidableEq α] (d : α) (t : Tab α) (n : Nat) (x : α) : tget d (tset d t n x) n = x := by
  simp [tget_tset]

theorem tget_tset_ne [DecidableEq α] (d : α) (t : Tab α) {n m : Nat} (x : α) (h : m ≠ n) :
    tget d (tset d t n x) m = tget d t m := by
  simp [tget_tset, h]

theorem tget_tmod [DecidableEq α] (d : α) (t : Tab α) (n m : Nat) (f : α → α) :
    tget d (tmod d t n f) m = if m = n then f (tget d t n) else tget d t m := tget_tset d t n m _

@[simp] theorem tget_tmod_same [DecidableEq α] (d : α) (t : Tab α) (n : Nat) (f : α → α) :
    tget d (tmod d t n f) n = f (tget d t n) := tget_tset_same d t n _

theorem tget_tmod_ne [DecidableEq α] (d : α) (t : Tab α) {n m : Nat} (f : α → α) (h : m ≠ n) :
    tget d (tmod d t n f) m = tget d t m := tget_tset_ne d t _ h

theorem twfFrom_mono [DecidableEq α] (d : α) {lo hi : Nat} {t : Tab α} (h : lo ≤ hi) (w : twfFrom d hi t = true) :
    twfFrom d lo t = true := by
  cases t with
  | nil => rfl
  | cons e t =>
    simp only [twfFrom, Bool.and_eq_true, decide_eq_true_eq] at w ⊢
    exact ⟨⟨h.trans w.1.1, w.1.2⟩, w.2⟩

theorem tdel_twfFrom [DecidableEq α] (d : α) (t : Tab α) (n lo : Nat) (w : twfFrom d lo t = true) :
    twfFrom d lo (tdel t n) = true := by
  induction t generalizing lo with
  | nil => rfl
  | cons e t ih =>
    obtain ⟨k, v⟩ := e
    simp only [twfFrom, Bool.and_eq_true, decide_eq_true_eq] at w
    unfold tdel
    split
    · exact twfFrom_mono d (by omega) (ih (k + 1) w.2)
    · simp only [twfFrom, Bool.and_eq_true, decide_eq_true_eq]
      exact ⟨w.1, ih (k + 1) w.2⟩

theorem tins_twfFrom [DecidableEq α] (d : α) (t : Tab α) (n lo : Nat) (x : α) (hx : x ≠ d) (hn : lo ≤ n)
    (w : twfFrom d lo t = true) : twfFrom d lo (tins n x t) = true := by
  induction t generalizing lo with
  | nil => simp [tins, twfFrom, hn, hx]
  | cons e t ih =>
    obtain ⟨k, v⟩ := e
    simp only [twfFrom, Bool.and_eq_true, decide_eq_true_eq] at w
    unfold tins
    split
    · rename_i h
      simp only [twfFrom, Bool.and_eq_true, decide_eq_true_eq]
      exact ⟨⟨hn, hx⟩, ⟨⟨h, w.1.2⟩, w.2⟩⟩
    · split
      · rename_i h; subst h
        simp only [twfFrom, Bool.and_eq_true, decide_eq_true_eq]
        exact ⟨⟨hn, hx⟩, w.2⟩
      · simp only [twfFrom, Bool.and_eq_true, decide_eq_true_eq]
        exact ⟨w.1, ih (k + 1) (by omega) w.2⟩

/-- A write keeps the canonical form. -/
theorem tset_twf [DecidableEq α] (d : α) (t : Tab α) (n : Nat) (x : α) (w : twf d t = true) : twf d (tset d t n x) = true := by
  unfold tset twf
  split
  · exact tdel_twfFrom d t n 0 w
  · rename_i h; exact tins_twfFrom d t n 0 x h (Nat.zero_le n) w

theorem tmod_twf [DecidableEq α] (d : α) (t : Tab α) (n : Nat) (f : α → α) (w : twf d t = true) :
    twf d (tmod d t n f) = true := tset_twf d t n _ w

theorem tsetList_twf [DecidableEq α] (d : α) (xs : List α) (t : Tab α) (n : Nat) (w : twf d t = true) :
    twf d (tsetList d t n xs) = true := by
  induction xs generalizing t n with
  | nil => exact w
  | cons x xs ih => exact ih _ _ (tset_twf d t n x w)

theorem tmap_twfFrom [DecidableEq α] (d : α) (f : Nat → α → α) (t : Tab α) (lo : Nat) (w : twfFrom d lo t = true) :
    twfFrom d lo (tmap d f t) = true := by
  induction t generalizing lo with
  | nil => rfl
  | cons e t ih =>
    obtain ⟨k, v⟩ := e
    simp only [twfFrom, Bool.and_eq_true, decide_eq_true_eq] at w
    have h := ih (k + 1) w.2
    unfold tmap at h ⊢
    simp only [List.map_cons]
    by_cases c : f k v = d
    · simp only [c, List.filter_cons, ne_eq, not_true_eq_false, decide_false, Bool.false_eq_true, if_false]
      exact twfFrom_mono d (by omega) h
    · simp only [List.filter_cons, ne_eq, c, not_false_eq_true, decide_true, if_true, twfFrom, Bool.and_eq_true,
        decide_eq_true_eq]
      exact ⟨⟨w.1.1, trivial⟩, h⟩

/-- A write of many values reads back value by value, and leaves every other key alone. -/
theorem tget_tsetList [DecidableEq α] (d : α) (xs : List α) (t : Tab α) (n m : Nat) :
    tget d (tsetList d t n xs) m = if h : n ≤ m ∧ m < n + xs.length then xs[m - n]'(by omega) else tget d t m := by
  induction xs generalizing t n with
  | nil => simp [tsetList]
  | cons x xs ih =>
    rw [tsetList, ih, tget_tset]
    by_cases h1 : m = n
    · subst h1
      simp
    · by_cases h2 : n + 1 ≤ m ∧ m < n + 1 + xs.length
      · have h3 : n ≤ m ∧ m < n + (x :: xs).length := by simp only [List.length_cons]; omega
        rw [dif_pos h2, dif_pos h3]
        have : m - n = (m - (n + 1)) + 1 := by omega
        simp [this]
      · have h3 : ¬ (n ≤ m ∧ m < n + (x :: xs).length) := by simp only [List.length_cons]; omega
        rw [dif_neg h2, dif_neg h3, if_neg h1]

theorem twfFrom_tget [DecidableEq α] (d : α) (t : Tab α) (lo n : Nat) (w : twfFrom d lo t = true) (h : n < lo) :
    tget d t n = d := by
  induction t generalizing lo with
  | nil => rfl
  | cons e t ih =>
    obtain ⟨k, v⟩ := e
    simp only [twfFrom, Bool.and_eq_true, decide_eq_true_eq] at w
    have : ¬ n = k := by omega
    simp only [tget, this, if_false]
    exact ih (k + 1) w.2 (by omega)

end Sys2Proof.Machine
end

