-- ==== Sys2Proof/Laws/State.lean ====
section
/-! SUPPORT. The effect of a command as a next state, and what the reading of a part of the package gives after each update: the
part changed at its number, as it was at every other number and for every other part. -/

namespace Sys2Proof.Machine

/-! ### Commands -/

/-- What a command answers: a next state with the queue as it stands. -/
theorem act_eq (ok : Bool) (f : Pkg → Pkg) (s : State) :
    act ok f s = .next { s with pkg := if ok then f s.pkg else s.pkg } := by
  cases ok <;> rfl

@[simp] theorem act_true (f : Pkg → Pkg) (s : State) : act true f s = .next { s with pkg := f s.pkg } := rfl
@[simp] theorem act_false (f : Pkg → Pkg) (s : State) : act false f s = .next s := rfl

theorem actS_eq (ok : Bool) (f : Pkg → Pkg) (s : State) :
    actS ok f s = .next { s with pkg := if ok then settle s.pkg (judgeReady (f s.pkg)) else s.pkg } := act_eq ok _ s

@[simp] theorem actS_true (f : Pkg → Pkg) (s : State) :
    actS true f s = .next { s with pkg := settle s.pkg (judgeReady (f s.pkg)) } := rfl
@[simp] theorem actS_false (f : Pkg → Pkg) (s : State) : actS false f s = .next s := rfl

/-- A command whose guard holds has its effect. -/
theorem act_next {ok : Bool} (h : ok = true) (f : Pkg → Pkg) (s : State) : act ok f s = .next { s with pkg := f s.pkg } := by
  subst h; rfl

theorem actS_next {ok : Bool} (h : ok = true) (f : Pkg → Pkg) (s : State) :
    actS ok f s = .next { s with pkg := settle s.pkg (judgeReady (f s.pkg)) } := by
  subst h; rfl

/-! ### Reading what was updated -/

theorem penOf_modPen (p : Pkg) (n m : Nat) (f : Pen → Pen) :
    penOf (modPen p n f) m = if m = n then f (penOf p n) else penOf p m := tget_tmod ({} : Pen) p.pens n m f
theorem ctxOf_modCtx (p : Pkg) (n m : Nat) (f : Ctx → Ctx) :
    ctxOf (modCtx p n f) m = if m = n then f (ctxOf p n) else ctxOf p m := tget_tmod ({} : Ctx) p.ctxs n m f
theorem reqOf_modReq (p : Pkg) (n m : Nat) (f : Req → Req) :
    reqOf (modReq p n f) m = if m = n then f (reqOf p n) else reqOf p m := tget_tmod ({} : Req) p.reqs n m f
theorem arrOf_modArr (p : Pkg) (n m : Nat) (f : Arr → Arr) :
    arrOf (modArr p n f) m = if m = n then f (arrOf p n) else arrOf p m := tget_tmod ({} : Arr) p.arrays n m f
theorem slotOf_modSlot (p : Pkg) (n m : Nat) (f : Slot → Slot) :
    slotOf (modSlot p n f) m = if m = n then f (slotOf p n) else slotOf p m := tget_tmod ({} : Slot) p.nvw.slots n m f
theorem replicaOf_modReplica (p : Pkg) (n m : Nat) (f : Replica → Replica) :
    replicaOf (modReplica p n f) m = if m = n then f (replicaOf p n) else replicaOf p m := tget_tmod ({} : Replica) p.nvw.replicas n m f
theorem portOf_modPort (p : Pkg) (n m : Nat) (f : Port → Port) :
    portOf (modPort p n f) m = if m = n then f (portOf p n) else portOf p m := tget_tmod ({} : Port) p.fab.ports n m f
theorem laneOf_modLane (p : Pkg) (n m : Nat) (f : Lane → Lane) :
    laneOf (modLane p n f) m = if m = n then f (laneOf p n) else laneOf p m := tget_tmod ({} : Lane) p.fab.lanes n m f
theorem srcOf_modSrc (p : Pkg) (n m : Nat) (f : SrcSeq → SrcSeq) :
    srcOf (modSrc p n f) m = if m = n then f (srcOf p n) else srcOf p m := tget_tmod ({} : SrcSeq) p.fab.srcs n m f
theorem bindOf_modBind (p : Pkg) (n m : Nat) (f : HBind → HBind) :
    bindOf (modBind p n f) m = if m = n then f (bindOf p n) else bindOf p m := tget_tmod ({} : HBind) p.hnd.binds n m f
theorem hcoreOf_modHcore (p : Pkg) (n m : Nat) (f : HCore → HCore) :
    hcoreOf (modHcore p n f) m = if m = n then f (hcoreOf p n) else hcoreOf p m := tget_tmod ({} : HCore) p.hnd.cores n m f
theorem poolOf_modPool (p : Pkg) (n m : Nat) (f : Pool → Pool) :
    poolOf (modPool p n f) m = if m = n then f (poolOf p n) else poolOf p m := by
  unfold poolOf modPool
  rw [penOf_modPen]
  split <;> simp_all
theorem stepOf_modStep (p : Pkg) (n m : Nat) (f : Step → Step) :
    stepOf (modStep p n f) m = if m = n then (stepOf p n).map f else stepOf p m := by
  unfold stepOf modStep
  rw [penOf_modPen]
  split <;> simp_all

@[simp] theorem penOf_modPen_same (p : Pkg) (n : Nat) (f : Pen → Pen) : penOf (modPen p n f) n = f (penOf p n) := by
  simp [penOf_modPen]
@[simp] theorem ctxOf_modCtx_same (p : Pkg) (n : Nat) (f : Ctx → Ctx) : ctxOf (modCtx p n f) n = f (ctxOf p n) := by
  simp [ctxOf_modCtx]
@[simp] theorem reqOf_modReq_same (p : Pkg) (n : Nat) (f : Req → Req) : reqOf (modReq p n f) n = f (reqOf p n) := by
  simp [reqOf_modReq]
@[simp] theorem arrOf_modArr_same (p : Pkg) (n : Nat) (f : Arr → Arr) : arrOf (modArr p n f) n = f (arrOf p n) := by
  simp [arrOf_modArr]
@[simp] theorem slotOf_modSlot_same (p : Pkg) (n : Nat) (f : Slot → Slot) : slotOf (modSlot p n f) n = f (slotOf p n) := by
  simp [slotOf_modSlot]
@[simp] theorem portOf_modPort_same (p : Pkg) (n : Nat) (f : Port → Port) : portOf (modPort p n f) n = f (portOf p n) := by
  simp [portOf_modPort]
@[simp] theorem bindOf_modBind_same (p : Pkg) (n : Nat) (f : HBind → HBind) : bindOf (modBind p n f) n = f (bindOf p n) := by
  simp [bindOf_modBind]
@[simp] theorem hcoreOf_modHcore_same (p : Pkg) (n : Nat) (f : HCore → HCore) :
    hcoreOf (modHcore p n f) n = f (hcoreOf p n) := by
  simp [hcoreOf_modHcore]

/-- A part of the package is read from its own table alone. -/
theorem penOf_congr {p q : Pkg} (h : q.pens = p.pens) (n : Nat) : penOf q n = penOf p n := by unfold penOf; rw [h]
theorem ctxOf_congr {p q : Pkg} (h : q.ctxs = p.ctxs) (n : Nat) : ctxOf q n = ctxOf p n := by unfold ctxOf; rw [h]
theorem reqOf_congr {p q : Pkg} (h : q.reqs = p.reqs) (n : Nat) : reqOf q n = reqOf p n := by unfold reqOf; rw [h]
theorem arrOf_congr {p q : Pkg} (h : q.arrays = p.arrays) (n : Nat) : arrOf q n = arrOf p n := by unfold arrOf; rw [h]
theorem slotOf_congr {p q : Pkg} (h : q.nvw = p.nvw) (n : Nat) : slotOf q n = slotOf p n := by unfold slotOf; rw [h]
theorem portOf_congr {p q : Pkg} (h : q.fab = p.fab) (n : Nat) : portOf q n = portOf p n := by unfold portOf; rw [h]
theorem bindOf_congr {p q : Pkg} (h : q.hnd = p.hnd) (n : Nat) : bindOf q n = bindOf p n := by unfold bindOf; rw [h]
theorem hcoreOf_congr {p q : Pkg} (h : q.hnd = p.hnd) (n : Nat) : hcoreOf q n = hcoreOf p n := by unfold hcoreOf; rw [h]

/-- A part changes only where it is not listed. -/
theorem Area.same_refl (x : Area) (p : Pkg) : x.same p p := by cases x <;> first | rfl | exact ⟨rfl, rfl⟩

end Sys2Proof.Machine
end

