-- ==== Sys2Proof/Laws/Arrays.lean ====
section
/-! SUPPORT. The run of an array's present segment: what one change of it leaves, and that a word runs only where there is a run. -/

namespace Sys2Proof.Machine

@[simp] theorem modRun_active (x : Arr) (f : SegRun → SegRun) : (modRun x f).active = x.active := rfl
@[simp] theorem modRun_data (x : Arr) (f : SegRun → SegRun) : (modRun x f).data = x.data := rfl
@[simp] theorem modRun_length (x : Arr) (f : SegRun → SegRun) : (modRun x f).runs.length = x.runs.length := by simp [modRun, upto]

theorem runOf_modRun (x : Arr) (f : SegRun → SegRun) (h : x.active < x.runs.length) : runOf (modRun x f) = f (runOf x) := by
  simp [runOf, modRun, upto, List.getD, h]

theorem arrRuns_lt {p : Pkg} {a : Nat} (h : arrRuns p a = true) : (arrOf p a).active < (arrOf p a).runs.length := by
  simp [arrRuns] at h
  tauto

theorem atWord_lt {p : Pkg} {a k : Nat} (h : atWord p a k = true) : (arrOf p a).active < (arrOf p a).runs.length := by
  simp [atWord] at h
  exact arrRuns_lt h.1

theorem arrRuns_wait {p : Pkg} {a : Nat} (h : arrRuns p a = true) : (runOf (arrOf p a)).waitFor = none := by
  simp [arrRuns] at h
  tauto

theorem arrOf_modArr_ne (p : Pkg) (a : Nat) (f : Arr → Arr) {b : Nat} (h : b ≠ a) : arrOf (modArr p a f) b = arrOf p b := by
  rw [arrOf_modArr, if_neg h]

end Sys2Proof.Machine
end

