-- ==== Sys2Proof/Laws/Dispatch.lean ====
section
/-! SUPPORT. The meaning that each command runs. -/

namespace Sys2Proof.Machine

@[simp] theorem exec_powerUp (s : State) : exec .powerUp s = execPowerUp s := rfl
@[simp] theorem exec_vin6Lockout (s : State) : exec .vin6Lockout s = execVin6Lockout s := rfl
@[simp] theorem exec_auxRailFault (s : State) : exec .auxRailFault s = execAuxRailFault s := rfl
@[simp] theorem exec_resetNAssert (s : State) : exec .resetNAssert s = execResetNAssert s := rfl
@[simp] theorem exec_resetNRelease (s : State) : exec .resetNRelease s = execResetNRelease s := rfl
@[simp] theorem exec_perstAssert (s : State) : exec .perstAssert s = execPerstAssert s := rfl
@[simp] theorem exec_perstRelease (s : State) : exec .perstRelease s = execPerstRelease s := rfl
@[simp] theorem exec_selfTestDone (failed : Parts) (s : State) : exec (.selfTestDone failed) s = execSelfTestDone failed s := rfl
@[simp] theorem exec_refclkOkSet (s : State) : exec .refclkOkSet s = execRefclkOkSet s := rfl
@[simp] theorem exec_tickPhaseLock (s : State) : exec .tickPhaseLock s = execTickPhaseLock s := rfl
@[simp] theorem exec_tickSyncMiss (s : State) : exec .tickSyncMiss s = execTickSyncMiss s := rfl
@[simp] theorem exec_tickSyncPhaseErr (s : State) : exec .tickSyncPhaseErr s = execTickSyncPhaseErr s := rfl
@[simp] theorem exec_refclkLost (cause : Nat) (s : State) : exec (.refclkLost cause) s = execRefclkLost cause s := rfl
@[simp] theorem exec_refclkRelock (s : State) : exec .refclkRelock s = execRefclkRelock s := rfl
@[simp] theorem exec_countLoad (s : State) : exec .countLoad s = execCountLoad s := rfl
@[simp] theorem exec_timeExchange (ns : Nat) (s : State) : exec (.timeExchange ns) s = execTimeExchange ns s := rfl
@[simp] theorem exec_timeRequest (port : Nat) (rec : Bytes) (arrive : Arrival) (departNs : Nat) (s : State) :
    exec (.timeRequest port rec arrive departNs) s = execTimeRequest port rec arrive departNs s := rfl
@[simp] theorem exec_timeResponse (port : Nat) (rec : Bytes) (arrive : Arrival) (s : State) :
    exec (.timeResponse port rec arrive) s = execTimeResponse port rec arrive s := rfl
@[simp] theorem exec_tickCtrlWrite (fn : Nat) (value : Word32) (s : State) :
    exec (.tickCtrlWrite fn value) s = execTickCtrlWrite fn value s := rfl
@[simp] theorem exec_bar0Write (fn : Nat) (off : Nat) (size : Nat) (value : Word64) (s : State) :
    exec (.bar0Write fn off size value) s = execBar0Write fn off size value s := rfl
@[simp] theorem exec_bar0AccessInvalid (fn : Nat) (off : Nat) (size : Nat) (s : State) :
    exec (.bar0AccessInvalid fn off size) s = execBar0AccessInvalid fn off size s := rfl
@[simp] theorem exec_bind (fn : Nat) (pen : Nat) (s : State) : exec (.bind fn pen) s = execBind fn pen s := rfl
@[simp] theorem exec_unbind (fn : Nat) (pen : Nat) (s : State) : exec (.unbind fn pen) s = execUnbind fn pen s := rfl
@[simp] theorem exec_bindComplete (image : Option Bytes) (placed : Bool) (s : State) :
    exec (.bindComplete image placed) s = execBindComplete image placed s := rfl
@[simp] theorem exec_unbindComplete (s : State) : exec .unbindComplete s = execUnbindComplete s := rfl
@[simp] theorem exec_penEnable (fn : Nat) (pen : Nat) (value : Word32) (s : State) :
    exec (.penEnable fn pen value) s = execPenEnable fn pen value s := rfl
@[simp] theorem exec_penDisable (fn : Nat) (pen : Nat) (value : Word32) (s : State) :
    exec (.penDisable fn pen value) s = execPenDisable fn pen value s := rfl
@[simp] theorem exec_penBudgetWrite (fn : Nat) (pen : Nat) (off : Nat) (value : Word32) (s : State) :
    exec (.penBudgetWrite fn pen off value) s = execPenBudgetWrite fn pen off value s := rfl
@[simp] theorem exec_penActivate (pen : Nat) (s : State) : exec (.penActivate pen) s = execPenActivate pen s := rfl
@[simp] theorem exec_predStepRefresh (s : State) : exec .predStepRefresh s = execPredStepRefresh s := rfl
@[simp] theorem exec_stepSetupStart (pen : Nat) (s : State) : exec (.stepSetupStart pen) s = execStepSetupStart pen s := rfl
@[simp] theorem exec_setupComplete (pen : Nat) (s : State) : exec (.setupComplete pen) s = execSetupComplete pen s := rfl
@[simp] theorem exec_stepRelease (pen : Nat) (s : State) : exec (.stepRelease pen) s = execStepRelease pen s := rfl
@[simp] theorem exec_segmentStart (pen : Nat) (seg : Nat) (s : State) :
    exec (.segmentStart pen seg) s = execSegmentStart pen seg s := rfl
@[simp] theorem exec_segmentSwitch (array : Nat) (s : State) : exec (.segmentSwitch array) s = execSegmentSwitch array s := rfl
@[simp] theorem exec_stepDone (pen : Nat) (s : State) : exec (.stepDone pen) s = execStepDone pen s := rfl
@[simp] theorem exec_mma (array : Nat) (s : State) : exec (.mma array) s = execMma array s := rfl
@[simp] theorem exec_fuse2 (array : Nat) (s : State) : exec (.fuse2 array) s = execFuse2 array s := rfl
@[simp] theorem exec_rowfn (array : Nat) (s : State) : exec (.rowfn array) s = execRowfn array s := rfl
@[simp] theorem exec_loadw (array : Nat) (s : State) : exec (.loadw array) s = execLoadw array s := rfl
@[simp] theorem exec_loada (array : Nat) (s : State) : exec (.loada array) s = execLoada array s := rfl
@[simp] theorem exec_store (array : Nat) (s : State) : exec (.store array) s = execStore array s := rfl
@[simp] theorem exec_storeRowstate (array : Nat) (s : State) : exec (.storeRowstate array) s = execStoreRowstate array s := rfl
@[simp] theorem exec_maskset (array : Nat) (s : State) : exec (.maskset array) s = execMaskset array s := rfl
@[simp] theorem exec_syncDrain (array : Nat) (s : State) : exec (.syncDrain array) s = execSyncDrain array s := rfl
@[simp] theorem exec_syncBarrier (array : Nat) (s : State) : exec (.syncBarrier array) s = execSyncBarrier array s := rfl
@[simp] theorem exec_syncArrive (array : Nat) (s : State) : exec (.syncArrive array) s = execSyncArrive array s := rfl
@[simp] theorem exec_syncWait (array : Nat) (s : State) : exec (.syncWait array) s = execSyncWait array s := rfl
@[simp] theorem exec_syncLayerEnd (array : Nat) (s : State) : exec (.syncLayerEnd array) s = execSyncLayerEnd array s := rfl
@[simp] theorem exec_syncEnd (array : Nat) (s : State) : exec (.syncEnd array) s = execSyncEnd array s := rfl
@[simp] theorem exec_score (array : Nat) (s : State) : exec (.score array) s = execScore array s := rfl
@[simp] theorem exec_barrierComplete (pen : Nat) (barrier : Nat) (s : State) :
    exec (.barrierComplete pen barrier) s = execBarrierComplete pen barrier s := rfl
@[simp] theorem exec_layerDone (pen : Nat) (layer : Nat) (s : State) :
    exec (.layerDone pen layer) s = execLayerDone pen layer s := rfl
@[simp] theorem exec_countRecord (pen : Nat) (slot : Nat) (rec : Bytes) (s : State) :
    exec (.countRecord pen slot rec) s = execCountRecord pen slot rec s := rfl
@[simp] theorem exec_dispatchMark (pen : Nat) (slot : Nat) (word : Word64) (s : State) :
    exec (.dispatchMark pen slot word) s = execDispatchMark pen slot word s := rfl
@[simp] theorem exec_freeMark (pen : Nat) (slot : Nat) (word : Word64) (s : State) :
    exec (.freeMark pen slot word) s = execFreeMark pen slot word s := rfl
@[simp] theorem exec_combineMark (pen : Nat) (slot : Nat) (word : Word64) (s : State) :
    exec (.combineMark pen slot word) s = execCombineMark pen slot word s := rfl
@[simp] theorem exec_dispatchPiece (pen : Nat) (off : Nat) (data : Bytes) (s : State) :
    exec (.dispatchPiece pen off data) s = execDispatchPiece pen off data s := rfl
@[simp] theorem exec_dispatchTagRun (pen : Nat) (off : Nat) (data : Bytes) (s : State) :
    exec (.dispatchTagRun pen off data) s = execDispatchTagRun pen off data s := rfl
@[simp] theorem exec_combineStore (pen : Nat) (off : Nat) (data : Bytes) (s : State) :
    exec (.combineStore pen off data) s = execCombineStore pen off data s := rfl
@[simp] theorem exec_recvGateComplete (pen : Nat) (half : Nat) (s : State) :
    exec (.recvGateComplete pen half) s = execRecvGateComplete pen half s := rfl
@[simp] theorem exec_combGateComplete (pen : Nat) (half : Nat) (s : State) :
    exec (.combGateComplete pen half) s = execCombGateComplete pen half s := rfl
@[simp] theorem exec_exchangeWatchdog (pen : Nat) (s : State) : exec (.exchangeWatchdog pen) s = execExchangeWatchdog pen s := rfl
@[simp] theorem exec_imprintWrite (ctx : Nat) (s : State) : exec (.imprintWrite ctx) s = execImprintWrite ctx s := rfl
@[simp] theorem exec_imprintRetire (ctx : Nat) (s : State) : exec (.imprintRetire ctx) s = execImprintRetire ctx s := rfl
@[simp] theorem exec_imprintWriteDone (stack : Nat) (payload : Option Bytes) (s : State) :
    exec (.imprintWriteDone stack payload) s = execImprintWriteDone stack payload s := rfl
@[simp] theorem exec_imprintAuthExpiry (s : State) : exec .imprintAuthExpiry s = execImprintAuthExpiry s := rfl
@[simp] theorem exec_nvVerifyStart (s : State) : exec .nvVerifyStart s = execNvVerifyStart s := rfl
@[simp] theorem exec_nvSlotVerifyDone (slot : Nat) (readable : Bool) (s : State) :
    exec (.nvSlotVerifyDone slot readable) s = execNvSlotVerifyDone slot readable s := rfl
@[simp] theorem exec_nvUncorrectable (slot off : Nat) (reads : LineReads) (s : State) :
    exec (.nvUncorrectable slot off reads) s = execNvUncorrectable slot off reads s := rfl
@[simp] theorem exec_nvBlockFetchDone (replica : Nat) (data : Option Bytes) (s : State) :
    exec (.nvBlockFetchDone replica data) s = execNvBlockFetchDone replica data s := rfl
@[simp] theorem exec_nvRepairStart (slot : Nat) (s : State) : exec (.nvRepairStart slot) s = execNvRepairStart slot s := rfl
@[simp] theorem exec_nvRepairDone (slot : Nat) (data : Option Bytes) (s : State) :
    exec (.nvRepairDone slot data) s = execNvRepairDone slot data s := rfl
@[simp] theorem exec_nvStackFailed (stack : Nat) (s : State) : exec (.nvStackFailed stack) s = execNvStackFailed stack s := rfl
@[simp] theorem exec_replicaKindWrite (fn : Nat) (idx : Nat) (kind : Nat) (s : State) :
    exec (.replicaKindWrite fn idx kind) s = execReplicaKindWrite fn idx kind s := rfl
@[simp] theorem exec_replicaCheck (idx : Nat) (header : Option Bytes) (s : State) :
    exec (.replicaCheck idx header) s = execReplicaCheck idx header s := rfl
@[simp] theorem exec_replicaRecheck (idx : Nat) (header : Option Bytes) (s : State) :
    exec (.replicaRecheck idx header) s = execReplicaRecheck idx header s := rfl
@[simp] theorem exec_replicaHostFetchDone (idx : Nat) (payload : Option Bytes) (s : State) :
    exec (.replicaHostFetchDone idx payload) s = execReplicaHostFetchDone idx payload s := rfl
@[simp] theorem exec_slowerFetchDone (pen : Nat) (shard : Nat) (payload : Option Bytes) (s : State) :
    exec (.slowerFetchDone pen shard payload) s = execSlowerFetchDone pen shard payload s := rfl
@[simp] theorem exec_ctxEnable (fn : Nat) (ctx : Nat) (value : Word32) (s : State) :
    exec (.ctxEnable fn ctx value) s = execCtxEnable fn ctx value s := rfl
@[simp] theorem exec_ctxDisable (fn : Nat) (ctx : Nat) (value : Word32) (s : State) :
    exec (.ctxDisable fn ctx value) s = execCtxDisable fn ctx value s := rfl
@[simp] theorem exec_ctxCmdReset (fn : Nat) (ctx : Nat) (s : State) :
    exec (.ctxCmdReset fn ctx) s = execCtxCmdReset fn ctx s := rfl
@[simp] theorem exec_contextResetDone (ctx : Nat) (failed : Option Nat) (s : State) :
    exec (.contextResetDone ctx failed) s = execContextResetDone ctx failed s := rfl
@[simp] theorem exec_flrVf (vf : Nat) (s : State) : exec (.flrVf vf) s = execFlrVf vf s := rfl
@[simp] theorem exec_flrPf (s : State) : exec .flrPf s = execFlrPf s := rfl
@[simp] theorem exec_vfEnableClear (numVfs : Nat) (s : State) : exec (.vfEnableClear numVfs) s = execVfEnableClear numVfs s := rfl
@[simp] theorem exec_hostLinkDown (ltssm : Nat) (s : State) : exec (.hostLinkDown ltssm) s = execHostLinkDown ltssm s := rfl
@[simp] theorem exec_ringWriteFailed (ctx : Nat) (ring : Nat) (s : State) :
    exec (.ringWriteFailed ctx ring) s = execRingWriteFailed ctx ring s := rfl
@[simp] theorem exec_dbSqTail (fn : Nat) (ctx : Nat) (value : Word32) (s : State) :
    exec (.dbSqTail fn ctx value) s = execDbSqTail fn ctx value s := rfl
@[simp] theorem exec_dbCqHead (fn : Nat) (ctx : Nat) (value : Word32) (s : State) :
    exec (.dbCqHead fn ctx value) s = execDbCqHead fn ctx value s := rfl
@[simp] theorem exec_dbEqHead (fn : Nat) (ctx : Nat) (value : Word32) (s : State) :
    exec (.dbEqHead fn ctx value) s = execDbEqHead fn ctx value s := rfl
@[simp] theorem exec_descriptorFetchDone (ctx : Nat) (data : Option Bytes) (s : State) :
    exec (.descriptorFetchDone ctx data) s = execDescriptorFetchDone ctx data s := rfl
@[simp] theorem exec_admitReq (src : Src) (s : State) : exec (.admitReq src) s = execAdmitReq src s := rfl
@[simp] theorem exec_append (src : Src) (s : State) : exec (.append src) s = execAppend src s := rfl
@[simp] theorem exec_cancel (src : Src) (s : State) : exec (.cancel src) s = execCancel src s := rfl
@[simp] theorem exec_pause (src : Src) (s : State) : exec (.pause src) s = execPause src s := rfl
@[simp] theorem exec_resume (src : Src) (s : State) : exec (.resume src) s = execResume src s := rfl
@[simp] theorem exec_hint (ctx : Nat) (s : State) : exec (.hint ctx) s = execHint ctx s := rfl
@[simp] theorem exec_fence (ctx : Nat) (s : State) : exec (.fence ctx) s = execFence ctx s := rfl
@[simp] theorem exec_fenceComplete (ctx : Nat) (s : State) : exec (.fenceComplete ctx) s = execFenceComplete ctx s := rfl
@[simp] theorem exec_rollcall (ctx : Nat) (s : State) : exec (.rollcall ctx) s = execRollcall ctx s := rfl
@[simp] theorem exec_rollcallDone (ctx : Nat) (s : State) : exec (.rollcallDone ctx) s = execRollcallDone ctx s := rfl
@[simp] theorem exec_setSampling (src : Src) (s : State) : exec (.setSampling src) s = execSetSampling src s := rfl
@[simp] theorem exec_irqModerationTime (ctx : Nat) (ring : Nat) (s : State) :
    exec (.irqModerationTime ctx ring) s = execIrqModerationTime ctx ring s := rfl
@[simp] theorem exec_admitHoldExpiry (entry : Nat) (s : State) :
    exec (.admitHoldExpiry entry) s = execAdmitHoldExpiry entry s := rfl
@[simp] theorem exec_promptReadDone (entry : Nat) (tokens : Option (List Word32)) (s : State) :
    exec (.promptReadDone entry tokens) s = execPromptReadDone entry tokens s := rfl
@[simp] theorem exec_appendReadDone (entry : Nat) (tokens : Option (List Word32)) (s : State) :
    exec (.appendReadDone entry tokens) s = execAppendReadDone entry tokens s := rfl
@[simp] theorem exec_deadlineMissed (entry : Nat) (s : State) : exec (.deadlineMissed entry) s = execDeadlineMissed entry s := rfl
@[simp] theorem exec_ttlExpiry (entry : Nat) (s : State) : exec (.ttlExpiry entry) s = execTtlExpiry entry s := rfl
@[simp] theorem exec_slotWord (pen : Nat) (off : Nat) (word : Word64) (s : State) :
    exec (.slotWord pen off word) s = execSlotWord pen off word s := rfl
@[simp] theorem exec_candidateRecord (pen : Nat) (off : Nat) (rec : Bytes) (s : State) :
    exec (.candidateRecord pen off rec) s = execCandidateRecord pen off rec s := rfl
@[simp] theorem exec_tokenSelect (pen : Nat) (slot : Nat) (s : State) :
    exec (.tokenSelect pen slot) s = execTokenSelect pen slot s := rfl
@[simp] theorem exec_kvHostCopyDone (pen : Nat) (data : Option Bytes) (s : State) :
    exec (.kvHostCopyDone pen data) s = execKvHostCopyDone pen data s := rfl
@[simp] theorem exec_kvCowCopyDone (pen : Nat) (frame : Nat) (s : State) :
    exec (.kvCowCopyDone pen frame) s = execKvCowCopyDone pen frame s := rfl
@[simp] theorem exec_swapReturn (pen : Nat) (s : State) : exec (.swapReturn pen) s = execSwapReturn pen s := rfl
@[simp] theorem exec_contextSwap (pen : Nat) (s : State) : exec (.contextSwap pen) s = execContextSwap pen s := rfl
@[simp] theorem exec_portEnable (fn : Nat) (port : Nat) (value : Word32) (s : State) :
    exec (.portEnable fn port value) s = execPortEnable fn port value s := rfl
@[simp] theorem exec_portLightDetect (port : Nat) (s : State) : exec (.portLightDetect port) s = execPortLightDetect port s := rfl
@[simp] theorem exec_portTrainPhaseDone (port : Nat) (s : State) :
    exec (.portTrainPhaseDone port) s = execPortTrainPhaseDone port s := rfl
@[simp] theorem exec_portTrainTimeout (port : Nat) (s : State) :
    exec (.portTrainTimeout port) s = execPortTrainTimeout port s := rfl
@[simp] theorem exec_collarRecord (port : Nat) (rec : Bytes) (s : State) :
    exec (.collarRecord port rec) s = execCollarRecord port rec s := rfl
@[simp] theorem exec_portDown (port : Nat) (cause : PortLoss) (s : State) :
    exec (.portDown port cause) s = execPortDown port cause s := rfl
@[simp] theorem exec_flitReceive (port : Nat) (flit : Bytes) (errs : List Nat) (s : State) :
    exec (.flitReceive port flit errs) s = execFlitReceive port flit errs s := rfl
@[simp] theorem exec_packetForward (port : Nat) (pkt : Bytes) (s : State) :
    exec (.packetForward port pkt) s = execPacketForward port pkt s := rfl
@[simp] theorem exec_packetLoad (port : Nat) (pkt : Bytes) (s : State) :
    exec (.packetLoad port pkt) s = execPacketLoad port pkt s := rfl
@[simp] theorem exec_packetStore (port : Nat) (pkt : Bytes) (s : State) :
    exec (.packetStore port pkt) s = execPacketStore port pkt s := rfl
@[simp] theorem exec_packetAtomic (port : Nat) (pkt : Bytes) (s : State) :
    exec (.packetAtomic port pkt) s = execPacketAtomic port pkt s := rfl
@[simp] theorem exec_loadResp (port : Nat) (pkt : Bytes) (s : State) :
    exec (.loadResp port pkt) s = execLoadResp port pkt s := rfl
@[simp] theorem exec_storeAck (port : Nat) (pkt : Bytes) (s : State) :
    exec (.storeAck port pkt) s = execStoreAck port pkt s := rfl
@[simp] theorem exec_atomicResp (port : Nat) (pkt : Bytes) (s : State) :
    exec (.atomicResp port pkt) s = execAtomicResp port pkt s := rfl
@[simp] theorem exec_fabricFenceComplete (srcId : Nat) (s : State) :
    exec (.fabricFenceComplete srcId) s = execFabricFenceComplete srcId s := rfl
@[simp] theorem exec_loadTimeout (tag : Nat) (s : State) : exec (.loadTimeout tag) s = execLoadTimeout tag s := rfl
@[simp] theorem exec_storeTimeout (tag : Nat) (s : State) : exec (.storeTimeout tag) s = execStoreTimeout tag s := rfl
@[simp] theorem exec_livenessProbe (chip : Nat) (s : State) : exec (.livenessProbe chip) s = execLivenessProbe chip s := rfl
@[simp] theorem exec_memberUnreached (pen : Nat) (member : Nat) (s : State) :
    exec (.memberUnreached pen member) s = execMemberUnreached pen member s := rfl
@[simp] theorem exec_fenceNotice (port : Nat) (pkt : Bytes) (s : State) :
    exec (.fenceNotice port pkt) s = execFenceNotice port pkt s := rfl
@[simp] theorem exec_planTakesEffect (s : State) : exec .planTakesEffect s = execPlanTakesEffect s := rfl
@[simp] theorem exec_pkfProbeGo (fn : Nat) (value : Word32) (s : State) :
    exec (.pkfProbeGo fn value) s = execPkfProbeGo fn value s := rfl
@[simp] theorem exec_pkfRrcInvalidate (fn : Nat) (value : Word32) (s : State) :
    exec (.pkfRrcInvalidate fn value) s = execPkfRrcInvalidate fn value s := rfl
@[simp] theorem exec_leashTick (m : Measure) (s : State) : exec (.leashTick m) s = execLeashTick m s := rfl
@[simp] theorem exec_lshCapNextCommit (fn : Nat) (s : State) : exec (.lshCapNextCommit fn) s = execLshCapNextCommit fn s := rfl
@[simp] theorem exec_capSoftApplied (s : State) : exec .capSoftApplied s = execCapSoftApplied s := rfl
@[simp] theorem exec_capHardApplied (s : State) : exec .capHardApplied s = execCapHardApplied s := rfl
@[simp] theorem exec_capReleaseApplied (s : State) : exec .capReleaseApplied s = execCapReleaseApplied s := rfl
@[simp] theorem exec_powerEmergency (cond : Nat) (amps : Nat) (s : State) :
    exec (.powerEmergency cond amps) s = execPowerEmergency cond amps s := rfl
@[simp] theorem exec_emergencyEnd (s : State) : exec .emergencyEnd s = execEmergencyEnd s := rfl
@[simp] theorem exec_throttleStart (array : Nat) (tj : Nat) (s : State) :
    exec (.throttleStart array tj) s = execThrottleStart array tj s := rfl
@[simp] theorem exec_throttleStep (quadrant : Nat) (tjs : List Nat) (s : State) :
    exec (.throttleStep quadrant tjs) s = execThrottleStep quadrant tjs s := rfl
@[simp] theorem exec_thermalEmergency (kind : Nat) (index : Nat) (temp : Nat) (s : State) :
    exec (.thermalEmergency kind index temp) s = execThermalEmergency kind index temp s := rfl
@[simp] theorem exec_thermtrip (die : Nat) (s : State) : exec (.thermtrip die) s = execThermtrip die s := rfl
@[simp] theorem exec_thermtripLatchClear (s : State) : exec .thermtripLatchClear s = execThermtripLatchClear s := rfl
@[simp] theorem exec_beatRateCheck (samples : List BeatSample) (s : State) :
    exec (.beatRateCheck samples) s = execBeatRateCheck samples s := rfl
@[simp] theorem exec_arrayWatchdog (array : Nat) (s : State) : exec (.arrayWatchdog array) s = execArrayWatchdog array s := rfl
@[simp] theorem exec_sramUncorrectable (array : Nat) (s : State) :
    exec (.sramUncorrectable array) s = execSramUncorrectable array s := rfl
@[simp] theorem exec_arraySelftestDone (array : Nat) (pass : Bool) (ticks : Nat) (s : State) :
    exec (.arraySelftestDone array pass ticks) s = execArraySelftestDone array pass ticks s := rfl
@[simp] theorem exec_dramUncorrectable (stack : Nat) (pen : Nat) (loc : DramLoc) (s : State) :
    exec (.dramUncorrectable stack pen loc) s = execDramUncorrectable stack pen loc s := rfl
@[simp] theorem exec_dramStackFailed (stack : Nat) (cause : Nat) (s : State) :
    exec (.dramStackFailed stack cause) s = execDramStackFailed stack cause s := rfl
@[simp] theorem exec_fwFault (core : Nat) (code : Nat) (s : State) : exec (.fwFault core code) s = execFwFault core code s := rfl
@[simp] theorem exec_scentQueueDrain (s : State) : exec .scentQueueDrain s = execScentQueueDrain s := rfl
@[simp] theorem exec_scnClearCmd (fn : Nat) (s : State) : exec (.scnClearCmd fn) s = execScnClearCmd fn s := rfl
@[simp] theorem exec_scnCtrlWrite (fn : Nat) (value : Word32) (s : State) :
    exec (.scnCtrlWrite fn value) s = execScnCtrlWrite fn value s := rfl
@[simp] theorem exec_clearAuthExpiry (s : State) : exec .clearAuthExpiry s = execClearAuthExpiry s := rfl
@[simp] theorem exec_houndBind (fn : Nat) (ctx : Nat) (s : State) : exec (.houndBind fn ctx) s = execHoundBind fn ctx s := rfl
@[simp] theorem exec_houndUnbind (fn : Nat) (ctx : Nat) (s : State) :
    exec (.houndUnbind fn ctx) s = execHoundUnbind fn ctx s := rfl
@[simp] theorem exec_houndImageLoaded (ctx : Nat) (image : Option Bytes) (s : State) :
    exec (.houndImageLoaded ctx image) s = execHoundImageLoaded ctx image s := rfl
@[simp] theorem exec_hndMbCmdTail (core : Nat) (value : Word32) (mem : Stores) (s : State) :
    exec (.hndMbCmdTail core value mem) s = execHndMbCmdTail core value mem s := rfl
@[simp] theorem exec_hndMbReplyHead (core : Nat) (value : Word32) (mem : Stores) (s : State) :
    exec (.hndMbReplyHead core value mem) s = execHndMbReplyHead core value mem s := rfl
@[simp] theorem exec_hndTqHead (ctx : Nat) (value : Word32) (mem : Stores) (s : State) :
    exec (.hndTqHead ctx value mem) s = execHndTqHead ctx value mem s := rfl
@[simp] theorem exec_hndFqLoad (ctx : Nat) (tail : Word32) (mem : Stores) (s : State) :
    exec (.hndFqLoad ctx tail mem) s = execHndFqLoad ctx tail mem s := rfl
@[simp] theorem exec_hndFqStore (ctx : Nat) (tail : Word32) (mem : Stores) (s : State) :
    exec (.hndFqStore ctx tail mem) s = execHndFqStore ctx tail mem s := rfl
@[simp] theorem exec_hndFqAtomic (ctx : Nat) (tail : Word32) (mem : Stores) (s : State) :
    exec (.hndFqAtomic ctx tail mem) s = execHndFqAtomic ctx tail mem s := rfl
@[simp] theorem exec_hndFqFence (ctx : Nat) (tail : Word32) (mem : Stores) (s : State) :
    exec (.hndFqFence ctx tail mem) s = execHndFqFence ctx tail mem s := rfl
@[simp] theorem exec_ecallExit (core : Nat) (a0 : Word64) (mem : Stores) (s : State) :
    exec (.ecallExit core a0 mem) s = execEcallExit core a0 mem s := rfl
@[simp] theorem exec_ecallWait (core : Nat) (a0 : Word64) (mem : Stores) (s : State) :
    exec (.ecallWait core a0 mem) s = execEcallWait core a0 mem s := rfl
@[simp] theorem exec_houndWake (core : Nat) (s : State) : exec (.houndWake core) s = execHoundWake core s := rfl
@[simp] theorem exec_houndFault (ctx : Nat) (core : Nat) (kind : Nat) (code : Nat) (pc : Word64) (tval : Word64) (s : State) :
    exec (.houndFault ctx core kind code pc tval) s = execHoundFault ctx core kind code pc tval s := rfl
@[simp] theorem exec_lease (path : Path) (msg : Bytes) (s : State) : exec (.lease path msg) s = execLease path msg s := rfl
@[simp] theorem exec_release (path : Path) (msg : Bytes) (s : State) : exec (.release path msg) s = execRelease path msg s := rfl
@[simp] theorem exec_leaseExpired (s : State) : exec .leaseExpired s = execLeaseExpired s := rfl
@[simp] theorem exec_epoch (path : Path) (msg : Bytes) (s : State) : exec (.epoch path msg) s = execEpoch path msg s := rfl
@[simp] theorem exec_setCount (path : Path) (msg : Bytes) (s : State) :
    exec (.setCount path msg) s = execSetCount path msg s := rfl
@[simp] theorem exec_cap (path : Path) (msg : Bytes) (s : State) : exec (.cap path msg) s = execCap path msg s := rfl
@[simp] theorem exec_planWrite (path : Path) (msg : Bytes) (s : State) :
    exec (.planWrite path msg) s = execPlanWrite path msg s := rfl
@[simp] theorem exec_planCommit (path : Path) (msg : Bytes) (s : State) :
    exec (.planCommit path msg) s = execPlanCommit path msg s := rfl
@[simp] theorem exec_readmit (path : Path) (msg : Bytes) (s : State) : exec (.readmit path msg) s = execReadmit path msg s := rfl
@[simp] theorem exec_fenceGroup (path : Path) (msg : Bytes) (s : State) :
    exec (.fenceGroup path msg) s = execFenceGroup path msg s := rfl
@[simp] theorem exec_groupWrite (path : Path) (msg : Bytes) (s : State) :
    exec (.groupWrite path msg) s = execGroupWrite path msg s := rfl
@[simp] theorem exec_resumeGroup (path : Path) (msg : Bytes) (s : State) :
    exec (.resumeGroup path msg) s = execResumeGroup path msg s := rfl
@[simp] theorem exec_memberLost (path : Path) (msg : Bytes) (s : State) :
    exec (.memberLost path msg) s = execMemberLost path msg s := rfl
@[simp] theorem exec_imprintAuth (path : Path) (msg : Bytes) (s : State) :
    exec (.imprintAuth path msg) s = execImprintAuth path msg s := rfl
@[simp] theorem exec_clearAuth (path : Path) (msg : Bytes) (s : State) :
    exec (.clearAuth path msg) s = execClearAuth path msg s := rfl
@[simp] theorem exec_logClear (path : Path) (msg : Bytes) (s : State) :
    exec (.logClear path msg) s = execLogClear path msg s := rfl
@[simp] theorem exec_quarantine (path : Path) (msg : Bytes) (s : State) :
    exec (.quarantine path msg) s = execQuarantine path msg s := rfl
@[simp] theorem exec_arrayRelease (path : Path) (msg : Bytes) (s : State) :
    exec (.arrayRelease path msg) s = execArrayRelease path msg s := rfl
@[simp] theorem exec_penReset (path : Path) (msg : Bytes) (s : State) :
    exec (.penReset path msg) s = execPenReset path msg s := rfl
@[simp] theorem exec_warmReset (path : Path) (msg : Bytes) (s : State) :
    exec (.warmReset path msg) s = execWarmReset path msg s := rfl
@[simp] theorem exec_portReeval (path : Path) (msg : Bytes) (s : State) :
    exec (.portReeval path msg) s = execPortReeval path msg s := rfl
@[simp] theorem exec_inspect (path : Path) (msg : Bytes) (s : State) : exec (.inspect path msg) s = execInspect path msg s := rfl
@[simp] theorem exec_status (path : Path) (msg : Bytes) (s : State) : exec (.status path msg) s = execStatus path msg s := rfl
@[simp] theorem exec_namedTickAction (op : Nat) (s : State) : exec (.namedTickAction op) s = execNamedTickAction op s := rfl
@[simp] theorem exec_inspectLevelStep (port : Nat) (s : State) :
    exec (.inspectLevelStep port) s = execInspectLevelStep port s := rfl
@[simp] theorem exec_inspectionRecord (port : Nat) (rec : Bytes) (rx : List Nat) (s : State) :
    exec (.inspectionRecord port rec rx) s = execInspectionRecord port rec rx s := rfl
@[simp] theorem exec_inspectTimeout (port : Nat) (s : State) : exec (.inspectTimeout port) s = execInspectTimeout port s := rfl
@[simp] theorem exec_i3cPrivateWrite (msg : Bytes) (s : State) : exec (.i3cPrivateWrite msg) s = execI3cPrivateWrite msg s := rfl
@[simp] theorem exec_i3cPrivateRead (s : State) : exec .i3cPrivateRead s = execI3cPrivateRead s := rfl
@[simp] theorem exec_entdaa (addr : Nat) (s : State) : exec (.entdaa addr) s = execEntdaa addr s := rfl
@[simp] theorem exec_rstdaa (s : State) : exec .rstdaa s = execRstdaa s := rfl
@[simp] theorem exec_getpid (s : State) : exec .getpid s = execGetpid s := rfl
@[simp] theorem exec_getbcr (s : State) : exec .getbcr s = execGetbcr s := rfl
@[simp] theorem exec_getdcr (s : State) : exec .getdcr s = execGetdcr s := rfl
@[simp] theorem exec_setmrl (len : Nat) (s : State) : exec (.setmrl len) s = execSetmrl len s := rfl
@[simp] theorem exec_enec (events : Word8) (s : State) : exec (.enec events) s = execEnec events s := rfl
@[simp] theorem exec_disec (events : Word8) (s : State) : exec (.disec events) s = execDisec events s := rfl
@[simp] theorem exec_tickBoundary (s : State) : exec .tickBoundary s = execTickBoundary s := rfl
@[simp] theorem exec_tickSyncEdge (s : State) : exec .tickSyncEdge s = execTickSyncEdge s := rfl
@[simp] theorem exec_refclkOutOfRange (s : State) : exec .refclkOutOfRange s = execRefclkOutOfRange s := rfl
@[simp] theorem exec_engineFault (kind : Nat) (index : Nat) (s : State) :
    exec (.engineFault kind index) s = execEngineFault kind index s := rfl
@[simp] theorem exec_laneMeasurementRefresh (samples : List LaneSample) (s : State) :
    exec (.laneMeasurementRefresh samples) s = execLaneMeasurementRefresh samples s := rfl
@[simp] theorem exec_hndRingBaseWrite (core : Nat) (off : Nat) (write : PageWrite) (mem : Stores) (s : State) :
    exec (.hndRingBaseWrite core off write mem) s = execHndRingBaseWrite core off write mem s := rfl

end Sys2Proof.Machine
end

