-- ==== Sys2Proof/Laws/Does.lean ====
section
/-! SUPPORT. What a statement of a command's effect rests on: a command that acts does what its operation gives, and what the interrupt
check and the READY check after it leave (R46, R450). -/

namespace Sys2Proof.Machine

/-- A command that can arise does what its operation gives. -/
theorem does_of_act {c : Instr} {s : State} {ok : Bool} {f : Pkg → Pkg} {post : Pkg → Prop} (hc : exec c s = act ok f s) (h : ok = true)
    (hp : post (f s.pkg)) : Does c s post :=
  ⟨f s.pkg, by rw [hc, act_next h], hp⟩

/-- The same for a command after which READY and the interrupts are judged. -/
theorem does_of_actS {c : Instr} {s : State} {ok : Bool} {f : Pkg → Pkg} {post : Pkg → Prop} (hc : exec c s = actS ok f s) (h : ok = true)
    (hp : post (settle s.pkg (judgeReady (f s.pkg)))) : Does c s post :=
  ⟨_, by rw [hc, actS_next h], hp⟩

/-- READY after its check (R46). -/
theorem judgeReady_ready (p : Pkg) : (judgeReady p).glb.ready = (p.glb.selfTestDone && p.tick.phaseLocked && !p.glb.fwFault) := by
  unfold judgeReady
  cases p.glb.selfTestDone <;> cases p.tick.phaseLocked <;> cases p.glb.fwFault <;> cases h : p.glb.ready <;> simp_all

/-- The interrupts that a command raises change no global register. -/
theorem settle_glb (p q : Pkg) : (settle p q).glb = q.glb := by
  unfold settle msix send
  simp only []
  split <;> split <;> (repeat' split) <;> rfl

end Sys2Proof.Machine
end

