-- ==== Sys2Proof/Laws/Keep1.lean ====
section
/-! SUPPORT. What each operation on the package leaves as it is (part 1 of 4): one lemma per operation, with every part of the
package that it does not write, and for the parts it writes whether READY, SELF_TEST_DONE, FW_FAULT and the lock of the tick stand. -/

section

set_option maxRecDepth 4000
set_option linter.all false

namespace Sys2Proof.Machine

theorem forAll_keep {α β : Type} (π : Pkg → β) (l : List α) (f : Pkg → α → Pkg) (p : Pkg) (h : ∀ q x, π (f q x) = π q) : π
    (forAll l f p) = π p := by
  unfold forAll
  induction l generalizing p with
  | nil => rfl
  | cons x l ih => rw [List.foldl_cons, ih, h]
theorem foldl_keep {α β : Type} (π : Pkg → β) (l : List α) (f : Pkg → α → Pkg) (p : Pkg) (h : ∀ q x, π (f q x) = π q) : π
    (l.foldl f p) = π p := by
  induction l generalizing p with
  | nil => rfl
  | cons x l ih => rw [List.foldl_cons, ih, h]
@[simp] theorem forAll_pins {α : Type} (l : List α) (f : Pkg → α → Pkg) (p : Pkg) (h : ∀ q x, (f q x).pins = q.pins) : (forAll l
    f p).pins = p.pins := forAll_keep (fun p => p.pins) l f p h
@[simp] theorem foldl_pins {α : Type} (l : List α) (f : Pkg → α → Pkg) (p : Pkg) (h : ∀ q x, (f q x).pins = q.pins) : (l.foldl f
    p).pins = p.pins := foldl_keep (fun p => p.pins) l f p h
@[simp] theorem foldlP_pins {α β : Type} (l : List α) (f : Pkg × β → α → Pkg × β) (a : Pkg × β) (h : ∀ q x, (f q x).1.pins =
    q.1.pins) : (l.foldl f a).1.pins = a.1.pins := by
  induction l generalizing a with
  | nil => rfl
  | cons x l ih => rw [List.foldl_cons, ih, h]
@[simp] theorem ite_pins (c : Prop) [Decidable c] (a b : Pkg) : (if c then a else b).pins = if c then a.pins else b.pins := by
    split <;> rfl
@[simp] theorem forAll_tick {α : Type} (l : List α) (f : Pkg → α → Pkg) (p : Pkg) (h : ∀ q x, (f q x).tick = q.tick) : (forAll l
    f p).tick = p.tick := forAll_keep (fun p => p.tick) l f p h
@[simp] theorem foldl_tick {α : Type} (l : List α) (f : Pkg → α → Pkg) (p : Pkg) (h : ∀ q x, (f q x).tick = q.tick) : (l.foldl f
    p).tick = p.tick := foldl_keep (fun p => p.tick) l f p h
@[simp] theorem foldlP_tick {α β : Type} (l : List α) (f : Pkg × β → α → Pkg × β) (a : Pkg × β) (h : ∀ q x, (f q x).1.tick =
    q.1.tick) : (l.foldl f a).1.tick = a.1.tick := by
  induction l generalizing a with
  | nil => rfl
  | cons x l ih => rw [List.foldl_cons, ih, h]
@[simp] theorem ite_tick (c : Prop) [Decidable c] (a b : Pkg) : (if c then a else b).tick = if c then a.tick else b.tick := by
    split <;> rfl
@[simp] theorem forAll_tickRefclkOk {α : Type} (l : List α) (f : Pkg → α → Pkg) (p : Pkg) (h : ∀ q x, (f q x).tick.refclkOk =
    q.tick.refclkOk) : (forAll l f p).tick.refclkOk = p.tick.refclkOk := forAll_keep (fun p => p.tick.refclkOk) l f p h
@[simp] theorem foldl_tickRefclkOk {α : Type} (l : List α) (f : Pkg → α → Pkg) (p : Pkg) (h : ∀ q x, (f q x).tick.refclkOk =
    q.tick.refclkOk) : (l.foldl f p).tick.refclkOk = p.tick.refclkOk := foldl_keep (fun p => p.tick.refclkOk) l f p h
@[simp] theorem foldlP_tickRefclkOk {α β : Type} (l : List α) (f : Pkg × β → α → Pkg × β) (a : Pkg × β) (h : ∀ q x, (f q
    x).1.tick.refclkOk = q.1.tick.refclkOk) : (l.foldl f a).1.tick.refclkOk = a.1.tick.refclkOk := by
  induction l generalizing a with
  | nil => rfl
  | cons x l ih => rw [List.foldl_cons, ih, h]
@[simp] theorem ite_tickRefclkOk (c : Prop) [Decidable c] (a b : Pkg) : (if c then a else b).tick.refclkOk = if c then
    a.tick.refclkOk else b.tick.refclkOk := by split <;> rfl
@[simp] theorem forAll_tickPhaseLocked {α : Type} (l : List α) (f : Pkg → α → Pkg) (p : Pkg) (h : ∀ q x, (f q
    x).tick.phaseLocked = q.tick.phaseLocked) : (forAll l f p).tick.phaseLocked = p.tick.phaseLocked := forAll_keep (fun p =>
    p.tick.phaseLocked) l f p h
@[simp] theorem foldl_tickPhaseLocked {α : Type} (l : List α) (f : Pkg → α → Pkg) (p : Pkg) (h : ∀ q x, (f q x).tick.phaseLocked
    = q.tick.phaseLocked) : (l.foldl f p).tick.phaseLocked = p.tick.phaseLocked := foldl_keep (fun p => p.tick.phaseLocked) l f
    p h
@[simp] theorem foldlP_tickPhaseLocked {α β : Type} (l : List α) (f : Pkg × β → α → Pkg × β) (a : Pkg × β) (h : ∀ q x, (f q
    x).1.tick.phaseLocked = q.1.tick.phaseLocked) : (l.foldl f a).1.tick.phaseLocked = a.1.tick.phaseLocked := by
  induction l generalizing a with
  | nil => rfl
  | cons x l ih => rw [List.foldl_cons, ih, h]
@[simp] theorem ite_tickPhaseLocked (c : Prop) [Decidable c] (a b : Pkg) : (if c then a else b).tick.phaseLocked = if c then
    a.tick.phaseLocked else b.tick.phaseLocked := by split <;> rfl
@[simp] theorem forAll_tickHoldover {α : Type} (l : List α) (f : Pkg → α → Pkg) (p : Pkg) (h : ∀ q x, (f q x).tick.holdover =
    q.tick.holdover) : (forAll l f p).tick.holdover = p.tick.holdover := forAll_keep (fun p => p.tick.holdover) l f p h
@[simp] theorem foldl_tickHoldover {α : Type} (l : List α) (f : Pkg → α → Pkg) (p : Pkg) (h : ∀ q x, (f q x).tick.holdover =
    q.tick.holdover) : (l.foldl f p).tick.holdover = p.tick.holdover := foldl_keep (fun p => p.tick.holdover) l f p h
@[simp] theorem foldlP_tickHoldover {α β : Type} (l : List α) (f : Pkg × β → α → Pkg × β) (a : Pkg × β) (h : ∀ q x, (f q
    x).1.tick.holdover = q.1.tick.holdover) : (l.foldl f a).1.tick.holdover = a.1.tick.holdover := by
  induction l generalizing a with
  | nil => rfl
  | cons x l ih => rw [List.foldl_cons, ih, h]
@[simp] theorem ite_tickHoldover (c : Prop) [Decidable c] (a b : Pkg) : (if c then a else b).tick.holdover = if c then
    a.tick.holdover else b.tick.holdover := by split <;> rfl
@[simp] theorem forAll_glb {α : Type} (l : List α) (f : Pkg → α → Pkg) (p : Pkg) (h : ∀ q x, (f q x).glb = q.glb) : (forAll l f
    p).glb = p.glb := forAll_keep (fun p => p.glb) l f p h
@[simp] theorem foldl_glb {α : Type} (l : List α) (f : Pkg → α → Pkg) (p : Pkg) (h : ∀ q x, (f q x).glb = q.glb) : (l.foldl f
    p).glb = p.glb := foldl_keep (fun p => p.glb) l f p h
@[simp] theorem foldlP_glb {α β : Type} (l : List α) (f : Pkg × β → α → Pkg × β) (a : Pkg × β) (h : ∀ q x, (f q x).1.glb =
    q.1.glb) : (l.foldl f a).1.glb = a.1.glb := by
  induction l generalizing a with
  | nil => rfl
  | cons x l ih => rw [List.foldl_cons, ih, h]
@[simp] theorem ite_glb (c : Prop) [Decidable c] (a b : Pkg) : (if c then a else b).glb = if c then a.glb else b.glb := by split
    <;> rfl
@[simp] theorem forAll_glbReady {α : Type} (l : List α) (f : Pkg → α → Pkg) (p : Pkg) (h : ∀ q x, (f q x).glb.ready =
    q.glb.ready) : (forAll l f p).glb.ready = p.glb.ready := forAll_keep (fun p => p.glb.ready) l f p h
@[simp] theorem foldl_glbReady {α : Type} (l : List α) (f : Pkg → α → Pkg) (p : Pkg) (h : ∀ q x, (f q x).glb.ready =
    q.glb.ready) : (l.foldl f p).glb.ready = p.glb.ready := foldl_keep (fun p => p.glb.ready) l f p h
@[simp] theorem foldlP_glbReady {α β : Type} (l : List α) (f : Pkg × β → α → Pkg × β) (a : Pkg × β) (h : ∀ q x, (f q
    x).1.glb.ready = q.1.glb.ready) : (l.foldl f a).1.glb.ready = a.1.glb.ready := by
  induction l generalizing a with
  | nil => rfl
  | cons x l ih => rw [List.foldl_cons, ih, h]
@[simp] theorem ite_glbReady (c : Prop) [Decidable c] (a b : Pkg) : (if c then a else b).glb.ready = if c then a.glb.ready else
    b.glb.ready := by split <;> rfl
@[simp] theorem forAll_glbSelfTestDone {α : Type} (l : List α) (f : Pkg → α → Pkg) (p : Pkg) (h : ∀ q x, (f q
    x).glb.selfTestDone = q.glb.selfTestDone) : (forAll l f p).glb.selfTestDone = p.glb.selfTestDone := forAll_keep (fun p =>
    p.glb.selfTestDone) l f p h
@[simp] theorem foldl_glbSelfTestDone {α : Type} (l : List α) (f : Pkg → α → Pkg) (p : Pkg) (h : ∀ q x, (f q x).glb.selfTestDone
    = q.glb.selfTestDone) : (l.foldl f p).glb.selfTestDone = p.glb.selfTestDone := foldl_keep (fun p => p.glb.selfTestDone) l f
    p h
@[simp] theorem foldlP_glbSelfTestDone {α β : Type} (l : List α) (f : Pkg × β → α → Pkg × β) (a : Pkg × β) (h : ∀ q x, (f q
    x).1.glb.selfTestDone = q.1.glb.selfTestDone) : (l.foldl f a).1.glb.selfTestDone = a.1.glb.selfTestDone := by
  induction l generalizing a with
  | nil => rfl
  | cons x l ih => rw [List.foldl_cons, ih, h]
@[simp] theorem ite_glbSelfTestDone (c : Prop) [Decidable c] (a b : Pkg) : (if c then a else b).glb.selfTestDone = if c then
    a.glb.selfTestDone else b.glb.selfTestDone := by split <;> rfl
@[simp] theorem forAll_glbFwFault {α : Type} (l : List α) (f : Pkg → α → Pkg) (p : Pkg) (h : ∀ q x, (f q x).glb.fwFault =
    q.glb.fwFault) : (forAll l f p).glb.fwFault = p.glb.fwFault := forAll_keep (fun p => p.glb.fwFault) l f p h
@[simp] theorem foldl_glbFwFault {α : Type} (l : List α) (f : Pkg → α → Pkg) (p : Pkg) (h : ∀ q x, (f q x).glb.fwFault =
    q.glb.fwFault) : (l.foldl f p).glb.fwFault = p.glb.fwFault := foldl_keep (fun p => p.glb.fwFault) l f p h
@[simp] theorem foldlP_glbFwFault {α β : Type} (l : List α) (f : Pkg × β → α → Pkg × β) (a : Pkg × β) (h : ∀ q x, (f q
    x).1.glb.fwFault = q.1.glb.fwFault) : (l.foldl f a).1.glb.fwFault = a.1.glb.fwFault := by
  induction l generalizing a with
  | nil => rfl
  | cons x l ih => rw [List.foldl_cons, ih, h]
@[simp] theorem ite_glbFwFault (c : Prop) [Decidable c] (a b : Pkg) : (if c then a else b).glb.fwFault = if c then a.glb.fwFault
    else b.glb.fwFault := by split <;> rfl
@[simp] theorem forAll_scn {α : Type} (l : List α) (f : Pkg → α → Pkg) (p : Pkg) (h : ∀ q x, (f q x).scn = q.scn) : (forAll l f
    p).scn = p.scn := forAll_keep (fun p => p.scn) l f p h
@[simp] theorem foldl_scn {α : Type} (l : List α) (f : Pkg → α → Pkg) (p : Pkg) (h : ∀ q x, (f q x).scn = q.scn) : (l.foldl f
    p).scn = p.scn := foldl_keep (fun p => p.scn) l f p h
@[simp] theorem foldlP_scn {α β : Type} (l : List α) (f : Pkg × β → α → Pkg × β) (a : Pkg × β) (h : ∀ q x, (f q x).1.scn =
    q.1.scn) : (l.foldl f a).1.scn = a.1.scn := by
  induction l generalizing a with
  | nil => rfl
  | cons x l ih => rw [List.foldl_cons, ih, h]
@[simp] theorem ite_scn (c : Prop) [Decidable c] (a b : Pkg) : (if c then a else b).scn = if c then a.scn else b.scn := by split
    <;> rfl
@[simp] theorem forAll_arrays {α : Type} (l : List α) (f : Pkg → α → Pkg) (p : Pkg) (h : ∀ q x, (f q x).arrays = q.arrays) :
    (forAll l f p).arrays = p.arrays := forAll_keep (fun p => p.arrays) l f p h
@[simp] theorem foldl_arrays {α : Type} (l : List α) (f : Pkg → α → Pkg) (p : Pkg) (h : ∀ q x, (f q x).arrays = q.arrays) :
    (l.foldl f p).arrays = p.arrays := foldl_keep (fun p => p.arrays) l f p h
@[simp] theorem foldlP_arrays {α β : Type} (l : List α) (f : Pkg × β → α → Pkg × β) (a : Pkg × β) (h : ∀ q x, (f q x).1.arrays =
    q.1.arrays) : (l.foldl f a).1.arrays = a.1.arrays := by
  induction l generalizing a with
  | nil => rfl
  | cons x l ih => rw [List.foldl_cons, ih, h]
@[simp] theorem ite_arrays (c : Prop) [Decidable c] (a b : Pkg) : (if c then a else b).arrays = if c then a.arrays else b.arrays
    := by split <;> rfl
@[simp] theorem forAll_ldr {α : Type} (l : List α) (f : Pkg → α → Pkg) (p : Pkg) (h : ∀ q x, (f q x).ldr = q.ldr) : (forAll l f
    p).ldr = p.ldr := forAll_keep (fun p => p.ldr) l f p h
@[simp] theorem foldl_ldr {α : Type} (l : List α) (f : Pkg → α → Pkg) (p : Pkg) (h : ∀ q x, (f q x).ldr = q.ldr) : (l.foldl f
    p).ldr = p.ldr := foldl_keep (fun p => p.ldr) l f p h
@[simp] theorem foldlP_ldr {α β : Type} (l : List α) (f : Pkg × β → α → Pkg × β) (a : Pkg × β) (h : ∀ q x, (f q x).1.ldr =
    q.1.ldr) : (l.foldl f a).1.ldr = a.1.ldr := by
  induction l generalizing a with
  | nil => rfl
  | cons x l ih => rw [List.foldl_cons, ih, h]
@[simp] theorem ite_ldr (c : Prop) [Decidable c] (a b : Pkg) : (if c then a else b).ldr = if c then a.ldr else b.ldr := by split
    <;> rfl
@[simp] theorem forAll_pens {α : Type} (l : List α) (f : Pkg → α → Pkg) (p : Pkg) (h : ∀ q x, (f q x).pens = q.pens) : (forAll l
    f p).pens = p.pens := forAll_keep (fun p => p.pens) l f p h
@[simp] theorem foldl_pens {α : Type} (l : List α) (f : Pkg → α → Pkg) (p : Pkg) (h : ∀ q x, (f q x).pens = q.pens) : (l.foldl f
    p).pens = p.pens := foldl_keep (fun p => p.pens) l f p h
@[simp] theorem foldlP_pens {α β : Type} (l : List α) (f : Pkg × β → α → Pkg × β) (a : Pkg × β) (h : ∀ q x, (f q x).1.pens =
    q.1.pens) : (l.foldl f a).1.pens = a.1.pens := by
  induction l generalizing a with
  | nil => rfl
  | cons x l ih => rw [List.foldl_cons, ih, h]
@[simp] theorem ite_pens (c : Prop) [Decidable c] (a b : Pkg) : (if c then a else b).pens = if c then a.pens else b.pens := by
    split <;> rfl
@[simp] theorem forAll_nvw {α : Type} (l : List α) (f : Pkg → α → Pkg) (p : Pkg) (h : ∀ q x, (f q x).nvw = q.nvw) : (forAll l f
    p).nvw = p.nvw := forAll_keep (fun p => p.nvw) l f p h
@[simp] theorem foldl_nvw {α : Type} (l : List α) (f : Pkg → α → Pkg) (p : Pkg) (h : ∀ q x, (f q x).nvw = q.nvw) : (l.foldl f
    p).nvw = p.nvw := foldl_keep (fun p => p.nvw) l f p h
@[simp] theorem foldlP_nvw {α β : Type} (l : List α) (f : Pkg × β → α → Pkg × β) (a : Pkg × β) (h : ∀ q x, (f q x).1.nvw =
    q.1.nvw) : (l.foldl f a).1.nvw = a.1.nvw := by
  induction l generalizing a with
  | nil => rfl
  | cons x l ih => rw [List.foldl_cons, ih, h]
@[simp] theorem ite_nvw (c : Prop) [Decidable c] (a b : Pkg) : (if c then a else b).nvw = if c then a.nvw else b.nvw := by split
    <;> rfl
@[simp] theorem forAll_ctxs {α : Type} (l : List α) (f : Pkg → α → Pkg) (p : Pkg) (h : ∀ q x, (f q x).ctxs = q.ctxs) : (forAll l
    f p).ctxs = p.ctxs := forAll_keep (fun p => p.ctxs) l f p h
@[simp] theorem foldl_ctxs {α : Type} (l : List α) (f : Pkg → α → Pkg) (p : Pkg) (h : ∀ q x, (f q x).ctxs = q.ctxs) : (l.foldl f
    p).ctxs = p.ctxs := foldl_keep (fun p => p.ctxs) l f p h
@[simp] theorem foldlP_ctxs {α β : Type} (l : List α) (f : Pkg × β → α → Pkg × β) (a : Pkg × β) (h : ∀ q x, (f q x).1.ctxs =
    q.1.ctxs) : (l.foldl f a).1.ctxs = a.1.ctxs := by
  induction l generalizing a with
  | nil => rfl
  | cons x l ih => rw [List.foldl_cons, ih, h]
@[simp] theorem ite_ctxs (c : Prop) [Decidable c] (a b : Pkg) : (if c then a else b).ctxs = if c then a.ctxs else b.ctxs := by
    split <;> rfl
@[simp] theorem forAll_numVfs {α : Type} (l : List α) (f : Pkg → α → Pkg) (p : Pkg) (h : ∀ q x, (f q x).numVfs = q.numVfs) :
    (forAll l f p).numVfs = p.numVfs := forAll_keep (fun p => p.numVfs) l f p h
@[simp] theorem foldl_numVfs {α : Type} (l : List α) (f : Pkg → α → Pkg) (p : Pkg) (h : ∀ q x, (f q x).numVfs = q.numVfs) :
    (l.foldl f p).numVfs = p.numVfs := foldl_keep (fun p => p.numVfs) l f p h
@[simp] theorem foldlP_numVfs {α β : Type} (l : List α) (f : Pkg × β → α → Pkg × β) (a : Pkg × β) (h : ∀ q x, (f q x).1.numVfs =
    q.1.numVfs) : (l.foldl f a).1.numVfs = a.1.numVfs := by
  induction l generalizing a with
  | nil => rfl
  | cons x l ih => rw [List.foldl_cons, ih, h]
@[simp] theorem ite_numVfs (c : Prop) [Decidable c] (a b : Pkg) : (if c then a else b).numVfs = if c then a.numVfs else b.numVfs
    := by split <;> rfl
@[simp] theorem forAll_reqs {α : Type} (l : List α) (f : Pkg → α → Pkg) (p : Pkg) (h : ∀ q x, (f q x).reqs = q.reqs) : (forAll l
    f p).reqs = p.reqs := forAll_keep (fun p => p.reqs) l f p h
@[simp] theorem foldl_reqs {α : Type} (l : List α) (f : Pkg → α → Pkg) (p : Pkg) (h : ∀ q x, (f q x).reqs = q.reqs) : (l.foldl f
    p).reqs = p.reqs := foldl_keep (fun p => p.reqs) l f p h
@[simp] theorem foldlP_reqs {α β : Type} (l : List α) (f : Pkg × β → α → Pkg × β) (a : Pkg × β) (h : ∀ q x, (f q x).1.reqs =
    q.1.reqs) : (l.foldl f a).1.reqs = a.1.reqs := by
  induction l generalizing a with
  | nil => rfl
  | cons x l ih => rw [List.foldl_cons, ih, h]
@[simp] theorem ite_reqs (c : Prop) [Decidable c] (a b : Pkg) : (if c then a else b).reqs = if c then a.reqs else b.reqs := by
    split <;> rfl
@[simp] theorem forAll_lastGen {α : Type} (l : List α) (f : Pkg → α → Pkg) (p : Pkg) (h : ∀ q x, (f q x).lastGen = q.lastGen) :
    (forAll l f p).lastGen = p.lastGen := forAll_keep (fun p => p.lastGen) l f p h
@[simp] theorem foldl_lastGen {α : Type} (l : List α) (f : Pkg → α → Pkg) (p : Pkg) (h : ∀ q x, (f q x).lastGen = q.lastGen) :
    (l.foldl f p).lastGen = p.lastGen := foldl_keep (fun p => p.lastGen) l f p h
@[simp] theorem foldlP_lastGen {α β : Type} (l : List α) (f : Pkg × β → α → Pkg × β) (a : Pkg × β) (h : ∀ q x, (f q x).1.lastGen
    = q.1.lastGen) : (l.foldl f a).1.lastGen = a.1.lastGen := by
  induction l generalizing a with
  | nil => rfl
  | cons x l ih => rw [List.foldl_cons, ih, h]
@[simp] theorem ite_lastGen (c : Prop) [Decidable c] (a b : Pkg) : (if c then a else b).lastGen = if c then a.lastGen else
    b.lastGen := by split <;> rfl
@[simp] theorem forAll_rq {α : Type} (l : List α) (f : Pkg → α → Pkg) (p : Pkg) (h : ∀ q x, (f q x).rq = q.rq) : (forAll l f
    p).rq = p.rq := forAll_keep (fun p => p.rq) l f p h
@[simp] theorem foldl_rq {α : Type} (l : List α) (f : Pkg → α → Pkg) (p : Pkg) (h : ∀ q x, (f q x).rq = q.rq) : (l.foldl f p).rq
    = p.rq := foldl_keep (fun p => p.rq) l f p h
@[simp] theorem foldlP_rq {α β : Type} (l : List α) (f : Pkg × β → α → Pkg × β) (a : Pkg × β) (h : ∀ q x, (f q x).1.rq = q.1.rq)
    : (l.foldl f a).1.rq = a.1.rq := by
  induction l generalizing a with
  | nil => rfl
  | cons x l ih => rw [List.foldl_cons, ih, h]
@[simp] theorem ite_rq (c : Prop) [Decidable c] (a b : Pkg) : (if c then a else b).rq = if c then a.rq else b.rq := by split <;>
    rfl
@[simp] theorem forAll_kvp {α : Type} (l : List α) (f : Pkg → α → Pkg) (p : Pkg) (h : ∀ q x, (f q x).kvp = q.kvp) : (forAll l f
    p).kvp = p.kvp := forAll_keep (fun p => p.kvp) l f p h
@[simp] theorem foldl_kvp {α : Type} (l : List α) (f : Pkg → α → Pkg) (p : Pkg) (h : ∀ q x, (f q x).kvp = q.kvp) : (l.foldl f
    p).kvp = p.kvp := foldl_keep (fun p => p.kvp) l f p h
@[simp] theorem foldlP_kvp {α β : Type} (l : List α) (f : Pkg × β → α → Pkg × β) (a : Pkg × β) (h : ∀ q x, (f q x).1.kvp =
    q.1.kvp) : (l.foldl f a).1.kvp = a.1.kvp := by
  induction l generalizing a with
  | nil => rfl
  | cons x l ih => rw [List.foldl_cons, ih, h]
@[simp] theorem ite_kvp (c : Prop) [Decidable c] (a b : Pkg) : (if c then a else b).kvp = if c then a.kvp else b.kvp := by split
    <;> rfl
@[simp] theorem forAll_fab {α : Type} (l : List α) (f : Pkg → α → Pkg) (p : Pkg) (h : ∀ q x, (f q x).fab = q.fab) : (forAll l f
    p).fab = p.fab := forAll_keep (fun p => p.fab) l f p h
@[simp] theorem foldl_fab {α : Type} (l : List α) (f : Pkg → α → Pkg) (p : Pkg) (h : ∀ q x, (f q x).fab = q.fab) : (l.foldl f
    p).fab = p.fab := foldl_keep (fun p => p.fab) l f p h
@[simp] theorem foldlP_fab {α β : Type} (l : List α) (f : Pkg × β → α → Pkg × β) (a : Pkg × β) (h : ∀ q x, (f q x).1.fab =
    q.1.fab) : (l.foldl f a).1.fab = a.1.fab := by
  induction l generalizing a with
  | nil => rfl
  | cons x l ih => rw [List.foldl_cons, ih, h]
@[simp] theorem ite_fab (c : Prop) [Decidable c] (a b : Pkg) : (if c then a else b).fab = if c then a.fab else b.fab := by split
    <;> rfl
@[simp] theorem forAll_lsh {α : Type} (l : List α) (f : Pkg → α → Pkg) (p : Pkg) (h : ∀ q x, (f q x).lsh = q.lsh) : (forAll l f
    p).lsh = p.lsh := forAll_keep (fun p => p.lsh) l f p h
@[simp] theorem foldl_lsh {α : Type} (l : List α) (f : Pkg → α → Pkg) (p : Pkg) (h : ∀ q x, (f q x).lsh = q.lsh) : (l.foldl f
    p).lsh = p.lsh := foldl_keep (fun p => p.lsh) l f p h
@[simp] theorem foldlP_lsh {α β : Type} (l : List α) (f : Pkg × β → α → Pkg × β) (a : Pkg × β) (h : ∀ q x, (f q x).1.lsh =
    q.1.lsh) : (l.foldl f a).1.lsh = a.1.lsh := by
  induction l generalizing a with
  | nil => rfl
  | cons x l ih => rw [List.foldl_cons, ih, h]
@[simp] theorem ite_lsh (c : Prop) [Decidable c] (a b : Pkg) : (if c then a else b).lsh = if c then a.lsh else b.lsh := by split
    <;> rfl
@[simp] theorem forAll_hnd {α : Type} (l : List α) (f : Pkg → α → Pkg) (p : Pkg) (h : ∀ q x, (f q x).hnd = q.hnd) : (forAll l f
    p).hnd = p.hnd := forAll_keep (fun p => p.hnd) l f p h
@[simp] theorem foldl_hnd {α : Type} (l : List α) (f : Pkg → α → Pkg) (p : Pkg) (h : ∀ q x, (f q x).hnd = q.hnd) : (l.foldl f
    p).hnd = p.hnd := foldl_keep (fun p => p.hnd) l f p h
@[simp] theorem foldlP_hnd {α β : Type} (l : List α) (f : Pkg × β → α → Pkg × β) (a : Pkg × β) (h : ∀ q x, (f q x).1.hnd =
    q.1.hnd) : (l.foldl f a).1.hnd = a.1.hnd := by
  induction l generalizing a with
  | nil => rfl
  | cons x l ih => rw [List.foldl_cons, ih, h]
@[simp] theorem ite_hnd (c : Prop) [Decidable c] (a b : Pkg) : (if c then a else b).hnd = if c then a.hnd else b.hnd := by split
    <;> rfl
@[simp] theorem forAll_mgt {α : Type} (l : List α) (f : Pkg → α → Pkg) (p : Pkg) (h : ∀ q x, (f q x).mgt = q.mgt) : (forAll l f
    p).mgt = p.mgt := forAll_keep (fun p => p.mgt) l f p h
@[simp] theorem foldl_mgt {α : Type} (l : List α) (f : Pkg → α → Pkg) (p : Pkg) (h : ∀ q x, (f q x).mgt = q.mgt) : (l.foldl f
    p).mgt = p.mgt := foldl_keep (fun p => p.mgt) l f p h
@[simp] theorem foldlP_mgt {α β : Type} (l : List α) (f : Pkg × β → α → Pkg × β) (a : Pkg × β) (h : ∀ q x, (f q x).1.mgt =
    q.1.mgt) : (l.foldl f a).1.mgt = a.1.mgt := by
  induction l generalizing a with
  | nil => rfl
  | cons x l ih => rw [List.foldl_cons, ih, h]
@[simp] theorem ite_mgt (c : Prop) [Decidable c] (a b : Pkg) : (if c then a else b).mgt = if c then a.mgt else b.mgt := by split
    <;> rfl
@[simp] theorem forAll_i3c {α : Type} (l : List α) (f : Pkg → α → Pkg) (p : Pkg) (h : ∀ q x, (f q x).i3c = q.i3c) : (forAll l f
    p).i3c = p.i3c := forAll_keep (fun p => p.i3c) l f p h
@[simp] theorem foldl_i3c {α : Type} (l : List α) (f : Pkg → α → Pkg) (p : Pkg) (h : ∀ q x, (f q x).i3c = q.i3c) : (l.foldl f
    p).i3c = p.i3c := foldl_keep (fun p => p.i3c) l f p h
@[simp] theorem foldlP_i3c {α β : Type} (l : List α) (f : Pkg × β → α → Pkg × β) (a : Pkg × β) (h : ∀ q x, (f q x).1.i3c =
    q.1.i3c) : (l.foldl f a).1.i3c = a.1.i3c := by
  induction l generalizing a with
  | nil => rfl
  | cons x l ih => rw [List.foldl_cons, ih, h]
@[simp] theorem ite_i3c (c : Prop) [Decidable c] (a b : Pkg) : (if c then a else b).i3c = if c then a.i3c else b.i3c := by split
    <;> rfl
@[simp] theorem forAll_out {α : Type} (l : List α) (f : Pkg → α → Pkg) (p : Pkg) (h : ∀ q x, (f q x).out = q.out) : (forAll l f
    p).out = p.out := forAll_keep (fun p => p.out) l f p h
@[simp] theorem forAll_pba {α : Type} (l : List α) (f : Pkg → α → Pkg) (p : Pkg) (h : ∀ q x, (f q x).pba = q.pba) : (forAll l f
    p).pba = p.pba := forAll_keep (fun p => p.pba) l f p h
@[simp] theorem foldl_out {α : Type} (l : List α) (f : Pkg → α → Pkg) (p : Pkg) (h : ∀ q x, (f q x).out = q.out) : (l.foldl f
    p).out = p.out := foldl_keep (fun p => p.out) l f p h
@[simp] theorem foldl_pba {α : Type} (l : List α) (f : Pkg → α → Pkg) (p : Pkg) (h : ∀ q x, (f q x).pba = q.pba) : (l.foldl f
    p).pba = p.pba := foldl_keep (fun p => p.pba) l f p h
@[simp] theorem foldlP_out {α β : Type} (l : List α) (f : Pkg × β → α → Pkg × β) (a : Pkg × β) (h : ∀ q x, (f q x).1.out =
    q.1.out) : (l.foldl f a).1.out = a.1.out := by
  induction l generalizing a with
  | nil => rfl
  | cons x l ih => rw [List.foldl_cons, ih, h]
@[simp] theorem foldlP_pba {α β : Type} (l : List α) (f : Pkg × β → α → Pkg × β) (a : Pkg × β) (h : ∀ q x, (f q x).1.pba =
    q.1.pba) : (l.foldl f a).1.pba = a.1.pba := by
  induction l generalizing a with
  | nil => rfl
  | cons x l ih => rw [List.foldl_cons, ih, h]
@[simp] theorem ite_out (c : Prop) [Decidable c] (a b : Pkg) : (if c then a else b).out = if c then a.out else b.out := by split
    <;> rfl
@[simp] theorem ite_pba (c : Prop) [Decidable c] (a b : Pkg) : (if c then a else b).pba = if c then a.pba else b.pba := by split
    <;> rfl
@[simp] theorem forAll_freeCtr {α : Type} (l : List α) (f : Pkg → α → Pkg) (p : Pkg) (h : ∀ q x, (f q x).freeCtr = q.freeCtr) :
    (forAll l f p).freeCtr = p.freeCtr := forAll_keep (fun p => p.freeCtr) l f p h
@[simp] theorem foldl_freeCtr {α : Type} (l : List α) (f : Pkg → α → Pkg) (p : Pkg) (h : ∀ q x, (f q x).freeCtr = q.freeCtr) :
    (l.foldl f p).freeCtr = p.freeCtr := foldl_keep (fun p => p.freeCtr) l f p h
@[simp] theorem foldlP_freeCtr {α β : Type} (l : List α) (f : Pkg × β → α → Pkg × β) (a : Pkg × β) (h : ∀ q x, (f q x).1.freeCtr
    = q.1.freeCtr) : (l.foldl f a).1.freeCtr = a.1.freeCtr := by
  induction l generalizing a with
  | nil => rfl
  | cons x l ih => rw [List.foldl_cons, ih, h]
@[simp] theorem ite_freeCtr (c : Prop) [Decidable c] (a b : Pkg) : (if c then a else b).freeCtr = if c then a.freeCtr else
    b.freeCtr := by split <;> rfl
@[simp] theorem ite_Glb_ready (c : Prop) [Decidable c] (a b : Glb) : (if c then a else b).ready = if c then a.ready else b.ready
    := by split <;> rfl
@[simp] theorem ite_Glb_selfTestDone (c : Prop) [Decidable c] (a b : Glb) : (if c then a else b).selfTestDone = if c then
    a.selfTestDone else b.selfTestDone := by split <;> rfl
@[simp] theorem ite_Glb_fwFault (c : Prop) [Decidable c] (a b : Glb) : (if c then a else b).fwFault = if c then a.fwFault else
    b.fwFault := by split <;> rfl
@[simp] theorem ite_TickS_refclkOk (c : Prop) [Decidable c] (a b : TickS) : (if c then a else b).refclkOk = if c then a.refclkOk
    else b.refclkOk := by split <;> rfl
@[simp] theorem ite_TickS_phaseLocked (c : Prop) [Decidable c] (a b : TickS) : (if c then a else b).phaseLocked = if c then
    a.phaseLocked else b.phaseLocked := by split <;> rfl
@[simp] theorem ite_TickS_holdover (c : Prop) [Decidable c] (a b : TickS) : (if c then a else b).holdover = if c then a.holdover
    else b.holdover := by split <;> rfl
@[simp] theorem modPen_keeps (p : Pkg) (n : Nat) (f : Pen → Pen) : (modPen p n f).pins = p.pins ∧ (modPen p n f).tick = p.tick
    ∧ (modPen p n f).glb = p.glb ∧ (modPen p n f).scn = p.scn ∧ (modPen p n f).arrays = p.arrays ∧ (modPen p n f).ldr = p.ldr
    ∧ (modPen p n f).nvw = p.nvw ∧ (modPen p n f).ctxs = p.ctxs ∧ (modPen p n f).numVfs = p.numVfs ∧ (modPen p n f).reqs =
    p.reqs ∧ (modPen p n f).lastGen = p.lastGen ∧ (modPen p n f).rq = p.rq ∧ (modPen p n f).kvp = p.kvp ∧ (modPen p n f).fab =
    p.fab ∧ (modPen p n f).lsh = p.lsh ∧ (modPen p n f).hnd = p.hnd ∧ (modPen p n f).mgt = p.mgt ∧ (modPen p n f).i3c = p.i3c
    ∧ (modPen p n f).out = p.out ∧ (modPen p n f).pba = p.pba ∧ (modPen p n f).freeCtr = p.freeCtr := by
  simp [modPen]
@[simp] theorem modCtx_keeps (p : Pkg) (n : Nat) (f : Ctx → Ctx) : (modCtx p n f).pins = p.pins ∧ (modCtx p n f).tick = p.tick
    ∧ (modCtx p n f).glb = p.glb ∧ (modCtx p n f).scn = p.scn ∧ (modCtx p n f).arrays = p.arrays ∧ (modCtx p n f).ldr = p.ldr
    ∧ (modCtx p n f).pens = p.pens ∧ (modCtx p n f).nvw = p.nvw ∧ (modCtx p n f).numVfs = p.numVfs ∧ (modCtx p n f).reqs =
    p.reqs ∧ (modCtx p n f).lastGen = p.lastGen ∧ (modCtx p n f).rq = p.rq ∧ (modCtx p n f).kvp = p.kvp ∧ (modCtx p n f).fab =
    p.fab ∧ (modCtx p n f).lsh = p.lsh ∧ (modCtx p n f).hnd = p.hnd ∧ (modCtx p n f).mgt = p.mgt ∧ (modCtx p n f).i3c = p.i3c
    ∧ (modCtx p n f).out = p.out ∧ (modCtx p n f).pba = p.pba ∧ (modCtx p n f).freeCtr = p.freeCtr := by
  simp [modCtx]
@[simp] theorem modReq_keeps (p : Pkg) (n : Nat) (f : Req → Req) : (modReq p n f).pins = p.pins ∧ (modReq p n f).tick = p.tick
    ∧ (modReq p n f).glb = p.glb ∧ (modReq p n f).scn = p.scn ∧ (modReq p n f).arrays = p.arrays ∧ (modReq p n f).ldr = p.ldr
    ∧ (modReq p n f).pens = p.pens ∧ (modReq p n f).nvw = p.nvw ∧ (modReq p n f).ctxs = p.ctxs ∧ (modReq p n f).numVfs =
    p.numVfs ∧ (modReq p n f).lastGen = p.lastGen ∧ (modReq p n f).rq = p.rq ∧ (modReq p n f).kvp = p.kvp ∧ (modReq p n f).fab
    = p.fab ∧ (modReq p n f).lsh = p.lsh ∧ (modReq p n f).hnd = p.hnd ∧ (modReq p n f).mgt = p.mgt ∧ (modReq p n f).i3c =
    p.i3c ∧ (modReq p n f).out = p.out ∧ (modReq p n f).pba = p.pba ∧ (modReq p n f).freeCtr = p.freeCtr := by
  simp [modReq]
@[simp] theorem modArr_keeps (p : Pkg) (n : Nat) (f : Arr → Arr) : (modArr p n f).pins = p.pins ∧ (modArr p n f).tick = p.tick
    ∧ (modArr p n f).glb = p.glb ∧ (modArr p n f).scn = p.scn ∧ (modArr p n f).ldr = p.ldr ∧ (modArr p n f).pens = p.pens ∧
    (modArr p n f).nvw = p.nvw ∧ (modArr p n f).ctxs = p.ctxs ∧ (modArr p n f).numVfs = p.numVfs ∧ (modArr p n f).reqs =
    p.reqs ∧ (modArr p n f).lastGen = p.lastGen ∧ (modArr p n f).rq = p.rq ∧ (modArr p n f).kvp = p.kvp ∧ (modArr p n f).fab =
    p.fab ∧ (modArr p n f).lsh = p.lsh ∧ (modArr p n f).hnd = p.hnd ∧ (modArr p n f).mgt = p.mgt ∧ (modArr p n f).i3c = p.i3c
    ∧ (modArr p n f).out = p.out ∧ (modArr p n f).pba = p.pba ∧ (modArr p n f).freeCtr = p.freeCtr := by
  simp [modArr]
@[simp] theorem modSlot_keeps (p : Pkg) (n : Nat) (f : Slot → Slot) : (modSlot p n f).pins = p.pins ∧ (modSlot p n f).tick =
    p.tick ∧ (modSlot p n f).glb = p.glb ∧ (modSlot p n f).scn = p.scn ∧ (modSlot p n f).arrays = p.arrays ∧ (modSlot p n
    f).ldr = p.ldr ∧ (modSlot p n f).pens = p.pens ∧ (modSlot p n f).ctxs = p.ctxs ∧ (modSlot p n f).numVfs = p.numVfs ∧
    (modSlot p n f).reqs = p.reqs ∧ (modSlot p n f).lastGen = p.lastGen ∧ (modSlot p n f).rq = p.rq ∧ (modSlot p n f).kvp =
    p.kvp ∧ (modSlot p n f).fab = p.fab ∧ (modSlot p n f).lsh = p.lsh ∧ (modSlot p n f).hnd = p.hnd ∧ (modSlot p n f).mgt =
    p.mgt ∧ (modSlot p n f).i3c = p.i3c ∧ (modSlot p n f).out = p.out ∧ (modSlot p n f).pba = p.pba ∧ (modSlot p n f).freeCtr
    = p.freeCtr := by
  simp [modSlot]
@[simp] theorem modSlot_vital (p : Pkg) (n : ℕ) (f : Slot → Slot) : (modSlot p n f).tick.refclkOk = p.tick.refclkOk ∧ (modSlot
    p n f).tick.phaseLocked = p.tick.phaseLocked ∧ (modSlot p n f).tick.holdover = p.tick.holdover := by
  simp [modSlot]
@[simp] theorem send_keeps (p : Pkg) (o : Out) : (send p o).pins = p.pins ∧ (send p o).tick = p.tick ∧ (send p o).glb = p.glb
    ∧ (send p o).scn = p.scn ∧ (send p o).arrays = p.arrays ∧ (send p o).ldr = p.ldr ∧ (send p o).pens = p.pens ∧ (send p
    o).nvw = p.nvw ∧ (send p o).ctxs = p.ctxs ∧ (send p o).numVfs = p.numVfs ∧ (send p o).reqs = p.reqs ∧ (send p o).lastGen =
    p.lastGen ∧ (send p o).rq = p.rq ∧ (send p o).kvp = p.kvp ∧ (send p o).fab = p.fab ∧ (send p o).lsh = p.lsh ∧ (send p
    o).hnd = p.hnd ∧ (send p o).mgt = p.mgt ∧ (send p o).i3c = p.i3c ∧ (send p o).freeCtr = p.freeCtr := by
  simp [send]
@[simp] theorem nextFree_keeps (p : Pkg) : (nextFree p).pins = p.pins ∧ (nextFree p).tick = p.tick ∧ (nextFree p).glb = p.glb
    ∧ (nextFree p).scn = p.scn ∧ (nextFree p).arrays = p.arrays ∧ (nextFree p).ldr = p.ldr ∧ (nextFree p).pens = p.pens ∧
    (nextFree p).nvw = p.nvw ∧ (nextFree p).ctxs = p.ctxs ∧ (nextFree p).numVfs = p.numVfs ∧ (nextFree p).reqs = p.reqs ∧
    (nextFree p).lastGen = p.lastGen ∧ (nextFree p).rq = p.rq ∧ (nextFree p).kvp = p.kvp ∧ (nextFree p).fab = p.fab ∧
    (nextFree p).lsh = p.lsh ∧ (nextFree p).hnd = p.hnd ∧ (nextFree p).mgt = p.mgt ∧ (nextFree p).i3c = p.i3c ∧ (nextFree
    p).out = p.out ∧ (nextFree p).pba = p.pba := by
  simp [nextFree]
@[simp] theorem modStep_keeps (p : Pkg) (n : Nat) (f : Step → Step) : (modStep p n f).pins = p.pins ∧ (modStep p n f).tick =
    p.tick ∧ (modStep p n f).glb = p.glb ∧ (modStep p n f).arrays = p.arrays ∧ (modStep p n f).ldr = p.ldr ∧ (modStep p n
    f).nvw = p.nvw ∧ (modStep p n f).ctxs = p.ctxs ∧ (modStep p n f).numVfs = p.numVfs ∧ (modStep p n f).reqs = p.reqs ∧
    (modStep p n f).lastGen = p.lastGen ∧ (modStep p n f).rq = p.rq ∧ (modStep p n f).kvp = p.kvp ∧ (modStep p n f).fab =
    p.fab ∧ (modStep p n f).hnd = p.hnd ∧ (modStep p n f).mgt = p.mgt ∧ (modStep p n f).i3c = p.i3c ∧ (modStep p n f).freeCtr
    = p.freeCtr := by
  simp [modStep]
@[simp] theorem modStep_vital (p : Pkg) (n : ℕ) (f : Step → Step) : (modStep p n f).tick.refclkOk = p.tick.refclkOk ∧ (modStep
    p n f).tick.phaseLocked = p.tick.phaseLocked ∧ (modStep p n f).tick.holdover = p.tick.holdover := by
  simp [modStep]
@[simp] theorem judgeReady_keeps (p : Pkg) : (judgeReady p).pins = p.pins ∧ (judgeReady p).tick = p.tick ∧ (judgeReady p).scn
    = p.scn ∧ (judgeReady p).arrays = p.arrays ∧ (judgeReady p).ldr = p.ldr ∧ (judgeReady p).pens = p.pens ∧ (judgeReady
    p).nvw = p.nvw ∧ (judgeReady p).ctxs = p.ctxs ∧ (judgeReady p).numVfs = p.numVfs ∧ (judgeReady p).reqs = p.reqs ∧
    (judgeReady p).lastGen = p.lastGen ∧ (judgeReady p).rq = p.rq ∧ (judgeReady p).kvp = p.kvp ∧ (judgeReady p).fab = p.fab ∧
    (judgeReady p).lsh = p.lsh ∧ (judgeReady p).hnd = p.hnd ∧ (judgeReady p).mgt = p.mgt ∧ (judgeReady p).i3c = p.i3c ∧
    (judgeReady p).out = p.out ∧ (judgeReady p).pba = p.pba ∧ (judgeReady p).freeCtr = p.freeCtr := by
  simp [judgeReady]
@[simp] theorem judgeReady_vital (p : Pkg) : (judgeReady p).glb.selfTestDone = p.glb.selfTestDone ∧ (judgeReady p).glb.fwFault
    = p.glb.fwFault := by
  unfold judgeReady
  dsimp only
  repeat' split
  all_goals simp
@[simp] theorem msix_keeps (p : Pkg) (fn vec : Nat) : (msix p fn vec).pins = p.pins ∧ (msix p fn vec).tick = p.tick ∧ (msix p
    fn vec).glb = p.glb ∧ (msix p fn vec).scn = p.scn ∧ (msix p fn vec).arrays = p.arrays ∧ (msix p fn vec).ldr = p.ldr ∧
    (msix p fn vec).pens = p.pens ∧ (msix p fn vec).nvw = p.nvw ∧ (msix p fn vec).ctxs = p.ctxs ∧ (msix p fn vec).numVfs =
    p.numVfs ∧ (msix p fn vec).reqs = p.reqs ∧ (msix p fn vec).lastGen = p.lastGen ∧ (msix p fn vec).rq = p.rq ∧ (msix p fn
    vec).kvp = p.kvp ∧ (msix p fn vec).fab = p.fab ∧ (msix p fn vec).lsh = p.lsh ∧ (msix p fn vec).hnd = p.hnd ∧ (msix p fn
    vec).mgt = p.mgt ∧ (msix p fn vec).i3c = p.i3c ∧ (msix p fn vec).freeCtr = p.freeCtr := by
  simp [msix]
@[simp] theorem sendPending_keeps (p : Pkg) (fn : ℕ) : (sendPending p fn).pins = p.pins ∧ (sendPending p fn).tick = p.tick ∧
    (sendPending p fn).glb = p.glb ∧ (sendPending p fn).scn = p.scn ∧ (sendPending p fn).arrays = p.arrays ∧ (sendPending p
    fn).ldr = p.ldr ∧ (sendPending p fn).pens = p.pens ∧ (sendPending p fn).nvw = p.nvw ∧ (sendPending p fn).ctxs = p.ctxs ∧
    (sendPending p fn).numVfs = p.numVfs ∧ (sendPending p fn).reqs = p.reqs ∧ (sendPending p fn).lastGen = p.lastGen ∧
    (sendPending p fn).rq = p.rq ∧ (sendPending p fn).kvp = p.kvp ∧ (sendPending p fn).fab = p.fab ∧ (sendPending p fn).lsh =
    p.lsh ∧ (sendPending p fn).hnd = p.hnd ∧ (sendPending p fn).mgt = p.mgt ∧ (sendPending p fn).i3c = p.i3c ∧ (sendPending p
    fn).freeCtr = p.freeCtr := by
  simp [sendPending]
@[simp] theorem settle_keeps (p0 p : Pkg) : (settle p0 p).pins = p.pins ∧ (settle p0 p).tick = p.tick ∧ (settle p0 p).glb =
    p.glb ∧ (settle p0 p).scn = p.scn ∧ (settle p0 p).arrays = p.arrays ∧ (settle p0 p).ldr = p.ldr ∧ (settle p0 p).pens =
    p.pens ∧ (settle p0 p).nvw = p.nvw ∧ (settle p0 p).ctxs = p.ctxs ∧ (settle p0 p).numVfs = p.numVfs ∧ (settle p0 p).reqs =
    p.reqs ∧ (settle p0 p).lastGen = p.lastGen ∧ (settle p0 p).rq = p.rq ∧ (settle p0 p).kvp = p.kvp ∧ (settle p0 p).fab =
    p.fab ∧ (settle p0 p).lsh = p.lsh ∧ (settle p0 p).hnd = p.hnd ∧ (settle p0 p).mgt = p.mgt ∧ (settle p0 p).i3c = p.i3c ∧
    (settle p0 p).freeCtr = p.freeCtr := by
  simp [settle]
@[simp] theorem settle_vital (p0 : Pkg) (p : Pkg) : (settle p0 p).glb.ready = p.glb.ready ∧ (settle p0 p).glb.selfTestDone =
    p.glb.selfTestDone ∧ (settle p0 p).glb.fwFault = p.glb.fwFault := by
  simp [settle]
@[simp] theorem logIrq_keeps (p : Pkg) (r : Rec) : (logIrq p r).pins = p.pins ∧ (logIrq p r).tick = p.tick ∧ (logIrq p r).glb
    = p.glb ∧ (logIrq p r).arrays = p.arrays ∧ (logIrq p r).ldr = p.ldr ∧ (logIrq p r).pens = p.pens ∧ (logIrq p r).nvw =
    p.nvw ∧ (logIrq p r).ctxs = p.ctxs ∧ (logIrq p r).numVfs = p.numVfs ∧ (logIrq p r).reqs = p.reqs ∧ (logIrq p r).lastGen =
    p.lastGen ∧ (logIrq p r).rq = p.rq ∧ (logIrq p r).kvp = p.kvp ∧ (logIrq p r).fab = p.fab ∧ (logIrq p r).lsh = p.lsh ∧
    (logIrq p r).hnd = p.hnd ∧ (logIrq p r).mgt = p.mgt ∧ (logIrq p r).i3c = p.i3c ∧ (logIrq p r).freeCtr = p.freeCtr := by
  simp [logIrq]
@[simp] theorem commitRec_keeps (p : Pkg) (r : Rec) : (commitRec p r).1.pins = p.pins ∧ (commitRec p r).1.tick = p.tick ∧
    (commitRec p r).1.glb = p.glb ∧ (commitRec p r).1.arrays = p.arrays ∧ (commitRec p r).1.ldr = p.ldr ∧ (commitRec p
    r).1.pens = p.pens ∧ (commitRec p r).1.nvw = p.nvw ∧ (commitRec p r).1.ctxs = p.ctxs ∧ (commitRec p r).1.numVfs = p.numVfs
    ∧ (commitRec p r).1.reqs = p.reqs ∧ (commitRec p r).1.lastGen = p.lastGen ∧ (commitRec p r).1.rq = p.rq ∧ (commitRec p
    r).1.kvp = p.kvp ∧ (commitRec p r).1.fab = p.fab ∧ (commitRec p r).1.lsh = p.lsh ∧ (commitRec p r).1.hnd = p.hnd ∧
    (commitRec p r).1.mgt = p.mgt ∧ (commitRec p r).1.i3c = p.i3c ∧ (commitRec p r).1.freeCtr = p.freeCtr := by
  simp [commitRec]
@[simp] theorem recordNow_keeps (p : Pkg) (code : ℕ) (source : ℕ) (p0 : ℕ) (p1 : ℕ) (p2 : ℕ) : (recordNow p code source p0 p1
    p2).pins = p.pins ∧ (recordNow p code source p0 p1 p2).tick = p.tick ∧ (recordNow p code source p0 p1 p2).glb = p.glb ∧
    (recordNow p code source p0 p1 p2).arrays = p.arrays ∧ (recordNow p code source p0 p1 p2).ldr = p.ldr ∧ (recordNow p code
    source p0 p1 p2).pens = p.pens ∧ (recordNow p code source p0 p1 p2).nvw = p.nvw ∧ (recordNow p code source p0 p1 p2).ctxs
    = p.ctxs ∧ (recordNow p code source p0 p1 p2).numVfs = p.numVfs ∧ (recordNow p code source p0 p1 p2).reqs = p.reqs ∧
    (recordNow p code source p0 p1 p2).lastGen = p.lastGen ∧ (recordNow p code source p0 p1 p2).rq = p.rq ∧ (recordNow p code
    source p0 p1 p2).kvp = p.kvp ∧ (recordNow p code source p0 p1 p2).fab = p.fab ∧ (recordNow p code source p0 p1 p2).lsh =
    p.lsh ∧ (recordNow p code source p0 p1 p2).hnd = p.hnd ∧ (recordNow p code source p0 p1 p2).mgt = p.mgt ∧ (recordNow p
    code source p0 p1 p2).i3c = p.i3c ∧ (recordNow p code source p0 p1 p2).freeCtr = p.freeCtr := by
  simp [recordNow]
@[simp] theorem logRec_keeps (p : Pkg) (prot : Bool) (code source p0 p1 p2 : Nat) : (logRec p prot code source p0 p1
    p2).1.pins = p.pins ∧ (logRec p prot code source p0 p1 p2).1.tick = p.tick ∧ (logRec p prot code source p0 p1 p2).1.glb =
    p.glb ∧ (logRec p prot code source p0 p1 p2).1.arrays = p.arrays ∧ (logRec p prot code source p0 p1 p2).1.ldr = p.ldr ∧
    (logRec p prot code source p0 p1 p2).1.pens = p.pens ∧ (logRec p prot code source p0 p1 p2).1.nvw = p.nvw ∧ (logRec p prot
    code source p0 p1 p2).1.ctxs = p.ctxs ∧ (logRec p prot code source p0 p1 p2).1.numVfs = p.numVfs ∧ (logRec p prot code
    source p0 p1 p2).1.reqs = p.reqs ∧ (logRec p prot code source p0 p1 p2).1.lastGen = p.lastGen ∧ (logRec p prot code source
    p0 p1 p2).1.rq = p.rq ∧ (logRec p prot code source p0 p1 p2).1.kvp = p.kvp ∧ (logRec p prot code source p0 p1 p2).1.fab =
    p.fab ∧ (logRec p prot code source p0 p1 p2).1.lsh = p.lsh ∧ (logRec p prot code source p0 p1 p2).1.hnd = p.hnd ∧ (logRec
    p prot code source p0 p1 p2).1.mgt = p.mgt ∧ (logRec p prot code source p0 p1 p2).1.i3c = p.i3c ∧ (logRec p prot code
    source p0 p1 p2).1.freeCtr = p.freeCtr := by
  unfold logRec; dsimp only; (repeat' split) <;> (simp_all; done)
@[simp] theorem logRec_vital (p : Pkg) (prot : Bool) (code : ℕ) (source : ℕ) (p0 : ℕ) (p1 : ℕ) (p2 : ℕ) : (logRec p prot code
    source p0 p1 p2).1.glb.ready = p.glb.ready ∧ (logRec p prot code source p0 p1 p2).1.glb.selfTestDone = p.glb.selfTestDone
    ∧ (logRec p prot code source p0 p1 p2).1.glb.fwFault = p.glb.fwFault := by
  unfold logRec; dsimp only; (repeat' split) <;> (simp_all; done)
@[simp] theorem log_keeps (p : Pkg) (code source p0 p1 p2 : Nat) : (log p code source p0 p1 p2).pins = p.pins ∧ (log p code
    source p0 p1 p2).tick = p.tick ∧ (log p code source p0 p1 p2).glb = p.glb ∧ (log p code source p0 p1 p2).arrays = p.arrays
    ∧ (log p code source p0 p1 p2).ldr = p.ldr ∧ (log p code source p0 p1 p2).pens = p.pens ∧ (log p code source p0 p1 p2).nvw
    = p.nvw ∧ (log p code source p0 p1 p2).ctxs = p.ctxs ∧ (log p code source p0 p1 p2).numVfs = p.numVfs ∧ (log p code source
    p0 p1 p2).reqs = p.reqs ∧ (log p code source p0 p1 p2).lastGen = p.lastGen ∧ (log p code source p0 p1 p2).rq = p.rq ∧ (log
    p code source p0 p1 p2).kvp = p.kvp ∧ (log p code source p0 p1 p2).fab = p.fab ∧ (log p code source p0 p1 p2).lsh = p.lsh
    ∧ (log p code source p0 p1 p2).hnd = p.hnd ∧ (log p code source p0 p1 p2).mgt = p.mgt ∧ (log p code source p0 p1 p2).i3c =
    p.i3c ∧ (log p code source p0 p1 p2).freeCtr = p.freeCtr := by
  simp [log]
@[simp] theorem pushCq_keeps (p : Pkg) (c : Nat) (b : Bytes) (irq : Bool) : (pushCq p c b irq).pins = p.pins ∧ (pushCq p c b
    irq).tick = p.tick ∧ (pushCq p c b irq).glb = p.glb ∧ (pushCq p c b irq).scn = p.scn ∧ (pushCq p c b irq).arrays =
    p.arrays ∧ (pushCq p c b irq).ldr = p.ldr ∧ (pushCq p c b irq).pens = p.pens ∧ (pushCq p c b irq).nvw = p.nvw ∧ (pushCq p
    c b irq).numVfs = p.numVfs ∧ (pushCq p c b irq).reqs = p.reqs ∧ (pushCq p c b irq).lastGen = p.lastGen ∧ (pushCq p c b
    irq).rq = p.rq ∧ (pushCq p c b irq).kvp = p.kvp ∧ (pushCq p c b irq).fab = p.fab ∧ (pushCq p c b irq).lsh = p.lsh ∧
    (pushCq p c b irq).hnd = p.hnd ∧ (pushCq p c b irq).mgt = p.mgt ∧ (pushCq p c b irq).i3c = p.i3c ∧ (pushCq p c b
    irq).freeCtr = p.freeCtr := by
  simp [pushCq]
@[simp] theorem pushEq_keeps (p : Pkg) (c : Nat) (b : Bytes) : (pushEq p c b).pins = p.pins ∧ (pushEq p c b).tick = p.tick ∧
    (pushEq p c b).glb = p.glb ∧ (pushEq p c b).scn = p.scn ∧ (pushEq p c b).arrays = p.arrays ∧ (pushEq p c b).ldr = p.ldr ∧
    (pushEq p c b).pens = p.pens ∧ (pushEq p c b).nvw = p.nvw ∧ (pushEq p c b).numVfs = p.numVfs ∧ (pushEq p c b).reqs =
    p.reqs ∧ (pushEq p c b).lastGen = p.lastGen ∧ (pushEq p c b).rq = p.rq ∧ (pushEq p c b).kvp = p.kvp ∧ (pushEq p c b).fab =
    p.fab ∧ (pushEq p c b).lsh = p.lsh ∧ (pushEq p c b).hnd = p.hnd ∧ (pushEq p c b).mgt = p.mgt ∧ (pushEq p c b).i3c = p.i3c
    ∧ (pushEq p c b).freeCtr = p.freeCtr := by
  simp [pushEq]
@[simp] theorem ctxEvent_keeps (p : Pkg) (c status code seq handle p0 p1 p2 : Nat) : (ctxEvent p c status code seq handle p0
    p1 p2).pins = p.pins ∧ (ctxEvent p c status code seq handle p0 p1 p2).tick = p.tick ∧ (ctxEvent p c status code seq handle
    p0 p1 p2).glb = p.glb ∧ (ctxEvent p c status code seq handle p0 p1 p2).scn = p.scn ∧ (ctxEvent p c status code seq handle
    p0 p1 p2).arrays = p.arrays ∧ (ctxEvent p c status code seq handle p0 p1 p2).ldr = p.ldr ∧ (ctxEvent p c status code seq
    handle p0 p1 p2).pens = p.pens ∧ (ctxEvent p c status code seq handle p0 p1 p2).nvw = p.nvw ∧ (ctxEvent p c status code
    seq handle p0 p1 p2).numVfs = p.numVfs ∧ (ctxEvent p c status code seq handle p0 p1 p2).reqs = p.reqs ∧ (ctxEvent p c
    status code seq handle p0 p1 p2).lastGen = p.lastGen ∧ (ctxEvent p c status code seq handle p0 p1 p2).rq = p.rq ∧
    (ctxEvent p c status code seq handle p0 p1 p2).kvp = p.kvp ∧ (ctxEvent p c status code seq handle p0 p1 p2).fab = p.fab ∧
    (ctxEvent p c status code seq handle p0 p1 p2).lsh = p.lsh ∧ (ctxEvent p c status code seq handle p0 p1 p2).hnd = p.hnd ∧
    (ctxEvent p c status code seq handle p0 p1 p2).mgt = p.mgt ∧ (ctxEvent p c status code seq handle p0 p1 p2).i3c = p.i3c ∧
    (ctxEvent p c status code seq handle p0 p1 p2).freeCtr = p.freeCtr := by
  simp [ctxEvent]
@[simp] theorem logEvent_keeps (p : Pkg) (c status code handle p0 p1 p2 : Nat) : (logEvent p c status code handle p0 p1
    p2).pins = p.pins ∧ (logEvent p c status code handle p0 p1 p2).tick = p.tick ∧ (logEvent p c status code handle p0 p1
    p2).glb = p.glb ∧ (logEvent p c status code handle p0 p1 p2).arrays = p.arrays ∧ (logEvent p c status code handle p0 p1
    p2).ldr = p.ldr ∧ (logEvent p c status code handle p0 p1 p2).pens = p.pens ∧ (logEvent p c status code handle p0 p1
    p2).nvw = p.nvw ∧ (logEvent p c status code handle p0 p1 p2).numVfs = p.numVfs ∧ (logEvent p c status code handle p0 p1
    p2).reqs = p.reqs ∧ (logEvent p c status code handle p0 p1 p2).lastGen = p.lastGen ∧ (logEvent p c status code handle p0
    p1 p2).rq = p.rq ∧ (logEvent p c status code handle p0 p1 p2).kvp = p.kvp ∧ (logEvent p c status code handle p0 p1 p2).fab
    = p.fab ∧ (logEvent p c status code handle p0 p1 p2).lsh = p.lsh ∧ (logEvent p c status code handle p0 p1 p2).hnd = p.hnd
    ∧ (logEvent p c status code handle p0 p1 p2).mgt = p.mgt ∧ (logEvent p c status code handle p0 p1 p2).i3c = p.i3c ∧
    (logEvent p c status code handle p0 p1 p2).freeCtr = p.freeCtr := by
  simp [logEvent]
@[simp] theorem logFault_keeps (p : Pkg) (code source p0 p1 p2 : Nat) (status : Nat) (cs : List Nat) : (logFault p code source
    p0 p1 p2 status cs).pins = p.pins ∧ (logFault p code source p0 p1 p2 status cs).tick = p.tick ∧ (logFault p code source p0
    p1 p2 status cs).glb = p.glb ∧ (logFault p code source p0 p1 p2 status cs).arrays = p.arrays ∧ (logFault p code source p0
    p1 p2 status cs).ldr = p.ldr ∧ (logFault p code source p0 p1 p2 status cs).pens = p.pens ∧ (logFault p code source p0 p1
    p2 status cs).nvw = p.nvw ∧ (logFault p code source p0 p1 p2 status cs).numVfs = p.numVfs ∧ (logFault p code source p0 p1
    p2 status cs).reqs = p.reqs ∧ (logFault p code source p0 p1 p2 status cs).lastGen = p.lastGen ∧ (logFault p code source p0
    p1 p2 status cs).rq = p.rq ∧ (logFault p code source p0 p1 p2 status cs).kvp = p.kvp ∧ (logFault p code source p0 p1 p2
    status cs).fab = p.fab ∧ (logFault p code source p0 p1 p2 status cs).lsh = p.lsh ∧ (logFault p code source p0 p1 p2 status
    cs).hnd = p.hnd ∧ (logFault p code source p0 p1 p2 status cs).mgt = p.mgt ∧ (logFault p code source p0 p1 p2 status
    cs).i3c = p.i3c ∧ (logFault p code source p0 p1 p2 status cs).freeCtr = p.freeCtr := by
  simp [logFault]
@[simp] theorem logLoss_keeps (p : Pkg) (kind : ℕ) (part : ℕ) (cs : List ℕ) : (logLoss p kind part cs).pins = p.pins ∧
    (logLoss p kind part cs).tick = p.tick ∧ (logLoss p kind part cs).glb = p.glb ∧ (logLoss p kind part cs).arrays = p.arrays
    ∧ (logLoss p kind part cs).ldr = p.ldr ∧ (logLoss p kind part cs).pens = p.pens ∧ (logLoss p kind part cs).nvw = p.nvw ∧
    (logLoss p kind part cs).numVfs = p.numVfs ∧ (logLoss p kind part cs).reqs = p.reqs ∧ (logLoss p kind part cs).lastGen =
    p.lastGen ∧ (logLoss p kind part cs).rq = p.rq ∧ (logLoss p kind part cs).kvp = p.kvp ∧ (logLoss p kind part cs).fab =
    p.fab ∧ (logLoss p kind part cs).lsh = p.lsh ∧ (logLoss p kind part cs).hnd = p.hnd ∧ (logLoss p kind part cs).mgt = p.mgt
    ∧ (logLoss p kind part cs).i3c = p.i3c := by
  simp [logLoss]
@[simp] theorem setPenState_keeps (p : Pkg) (n st : Nat) : (setPenState p n st).pins = p.pins ∧ (setPenState p n st).tick =
    p.tick ∧ (setPenState p n st).glb = p.glb ∧ (setPenState p n st).arrays = p.arrays ∧ (setPenState p n st).ldr = p.ldr ∧
    (setPenState p n st).nvw = p.nvw ∧ (setPenState p n st).numVfs = p.numVfs ∧ (setPenState p n st).reqs = p.reqs ∧
    (setPenState p n st).lastGen = p.lastGen ∧ (setPenState p n st).rq = p.rq ∧ (setPenState p n st).kvp = p.kvp ∧
    (setPenState p n st).fab = p.fab ∧ (setPenState p n st).lsh = p.lsh ∧ (setPenState p n st).hnd = p.hnd ∧ (setPenState p n
    st).mgt = p.mgt ∧ (setPenState p n st).i3c = p.i3c ∧ (setPenState p n st).freeCtr = p.freeCtr := by
  simp [setPenState]
@[simp] theorem setPenState_vital (p : Pkg) (n : ℕ) (st : ℕ) : (setPenState p n st).tick.refclkOk = p.tick.refclkOk ∧
    (setPenState p n st).tick.phaseLocked = p.tick.phaseLocked ∧ (setPenState p n st).tick.holdover = p.tick.holdover := by
  simp [setPenState]
@[simp] theorem modPool_keeps (p : Pkg) (n : Nat) (f : Pool → Pool) : (modPool p n f).pins = p.pins ∧ (modPool p n f).tick =
    p.tick ∧ (modPool p n f).glb = p.glb ∧ (modPool p n f).scn = p.scn ∧ (modPool p n f).arrays = p.arrays ∧ (modPool p n
    f).ldr = p.ldr ∧ (modPool p n f).nvw = p.nvw ∧ (modPool p n f).ctxs = p.ctxs ∧ (modPool p n f).numVfs = p.numVfs ∧
    (modPool p n f).reqs = p.reqs ∧ (modPool p n f).lastGen = p.lastGen ∧ (modPool p n f).rq = p.rq ∧ (modPool p n f).kvp =
    p.kvp ∧ (modPool p n f).fab = p.fab ∧ (modPool p n f).lsh = p.lsh ∧ (modPool p n f).hnd = p.hnd ∧ (modPool p n f).mgt =
    p.mgt ∧ (modPool p n f).i3c = p.i3c ∧ (modPool p n f).out = p.out ∧ (modPool p n f).pba = p.pba ∧ (modPool p n f).freeCtr
    = p.freeCtr := by
  simp [modPool]
@[simp] theorem modPool_vital (p : Pkg) (n : ℕ) (f : Pool → Pool) : (modPool p n f).tick.refclkOk = p.tick.refclkOk ∧ (modPool
    p n f).tick.phaseLocked = p.tick.phaseLocked ∧ (modPool p n f).tick.holdover = p.tick.holdover := by
  simp [modPool]
@[simp] theorem modBind_keeps (p : Pkg) (c : Nat) (f : HBind → HBind) : (modBind p c f).pins = p.pins ∧ (modBind p c f).tick =
    p.tick ∧ (modBind p c f).glb = p.glb ∧ (modBind p c f).scn = p.scn ∧ (modBind p c f).arrays = p.arrays ∧ (modBind p c
    f).ldr = p.ldr ∧ (modBind p c f).pens = p.pens ∧ (modBind p c f).nvw = p.nvw ∧ (modBind p c f).ctxs = p.ctxs ∧ (modBind p
    c f).numVfs = p.numVfs ∧ (modBind p c f).reqs = p.reqs ∧ (modBind p c f).lastGen = p.lastGen ∧ (modBind p c f).rq = p.rq ∧
    (modBind p c f).kvp = p.kvp ∧ (modBind p c f).fab = p.fab ∧ (modBind p c f).lsh = p.lsh ∧ (modBind p c f).mgt = p.mgt ∧
    (modBind p c f).i3c = p.i3c ∧ (modBind p c f).out = p.out ∧ (modBind p c f).pba = p.pba ∧ (modBind p c f).freeCtr =
    p.freeCtr := by
  simp [modBind]
@[simp] theorem modBind_vital (p : Pkg) (c : ℕ) (f : HBind → HBind) : (modBind p c f).tick.refclkOk = p.tick.refclkOk ∧
    (modBind p c f).tick.phaseLocked = p.tick.phaseLocked ∧ (modBind p c f).tick.holdover = p.tick.holdover := by
  simp [modBind]
@[simp] theorem modHcore_keeps (p : Pkg) (k : Nat) (f : HCore → HCore) : (modHcore p k f).pins = p.pins ∧ (modHcore p k
    f).tick = p.tick ∧ (modHcore p k f).glb = p.glb ∧ (modHcore p k f).scn = p.scn ∧ (modHcore p k f).arrays = p.arrays ∧
    (modHcore p k f).ldr = p.ldr ∧ (modHcore p k f).pens = p.pens ∧ (modHcore p k f).nvw = p.nvw ∧ (modHcore p k f).ctxs =
    p.ctxs ∧ (modHcore p k f).numVfs = p.numVfs ∧ (modHcore p k f).reqs = p.reqs ∧ (modHcore p k f).lastGen = p.lastGen ∧
    (modHcore p k f).rq = p.rq ∧ (modHcore p k f).kvp = p.kvp ∧ (modHcore p k f).fab = p.fab ∧ (modHcore p k f).lsh = p.lsh ∧
    (modHcore p k f).mgt = p.mgt ∧ (modHcore p k f).i3c = p.i3c ∧ (modHcore p k f).out = p.out ∧ (modHcore p k f).pba = p.pba
    ∧ (modHcore p k f).freeCtr = p.freeCtr := by
  simp [modHcore]
@[simp] theorem modHart_keeps (p : Pkg) (k : ℕ) (f : Hart → Hart) : (modHart p k f).pins = p.pins ∧ (modHart p k f).tick =
    p.tick ∧ (modHart p k f).glb = p.glb ∧ (modHart p k f).scn = p.scn ∧ (modHart p k f).arrays = p.arrays ∧ (modHart p k
    f).ldr = p.ldr ∧ (modHart p k f).pens = p.pens ∧ (modHart p k f).nvw = p.nvw ∧ (modHart p k f).ctxs = p.ctxs ∧ (modHart p
    k f).numVfs = p.numVfs ∧ (modHart p k f).reqs = p.reqs ∧ (modHart p k f).lastGen = p.lastGen ∧ (modHart p k f).rq = p.rq ∧
    (modHart p k f).kvp = p.kvp ∧ (modHart p k f).fab = p.fab ∧ (modHart p k f).lsh = p.lsh ∧ (modHart p k f).mgt = p.mgt ∧
    (modHart p k f).i3c = p.i3c ∧ (modHart p k f).out = p.out ∧ (modHart p k f).pba = p.pba ∧ (modHart p k f).freeCtr =
    p.freeCtr := by
  simp [modHart]
@[simp] theorem modHart_vital (p : Pkg) (k : ℕ) (f : Hart → Hart) : (modHart p k f).tick.refclkOk = p.tick.refclkOk ∧ (modHart
    p k f).tick.phaseLocked = p.tick.phaseLocked ∧ (modHart p k f).tick.holdover = p.tick.holdover := by
  simp [modHart]
@[simp] theorem wakeCores_keeps (p : Pkg) (c : Nat) : (wakeCores p c).pins = p.pins ∧ (wakeCores p c).tick = p.tick ∧
    (wakeCores p c).glb = p.glb ∧ (wakeCores p c).scn = p.scn ∧ (wakeCores p c).arrays = p.arrays ∧ (wakeCores p c).ldr =
    p.ldr ∧ (wakeCores p c).pens = p.pens ∧ (wakeCores p c).nvw = p.nvw ∧ (wakeCores p c).ctxs = p.ctxs ∧ (wakeCores p
    c).numVfs = p.numVfs ∧ (wakeCores p c).reqs = p.reqs ∧ (wakeCores p c).lastGen = p.lastGen ∧ (wakeCores p c).rq = p.rq ∧
    (wakeCores p c).kvp = p.kvp ∧ (wakeCores p c).fab = p.fab ∧ (wakeCores p c).lsh = p.lsh ∧ (wakeCores p c).mgt = p.mgt ∧
    (wakeCores p c).i3c = p.i3c ∧ (wakeCores p c).out = p.out ∧ (wakeCores p c).pba = p.pba ∧ (wakeCores p c).freeCtr =
    p.freeCtr := by
  simp [wakeCores]
@[simp] theorem faultBind_keeps (p : Pkg) (c core kind code pc tval : Nat) : (faultBind p c core kind code pc tval).pins =
    p.pins ∧ (faultBind p c core kind code pc tval).tick = p.tick ∧ (faultBind p c core kind code pc tval).glb = p.glb ∧
    (faultBind p c core kind code pc tval).arrays = p.arrays ∧ (faultBind p c core kind code pc tval).ldr = p.ldr ∧ (faultBind
    p c core kind code pc tval).pens = p.pens ∧ (faultBind p c core kind code pc tval).nvw = p.nvw ∧ (faultBind p c core kind
    code pc tval).numVfs = p.numVfs ∧ (faultBind p c core kind code pc tval).reqs = p.reqs ∧ (faultBind p c core kind code pc
    tval).lastGen = p.lastGen ∧ (faultBind p c core kind code pc tval).rq = p.rq ∧ (faultBind p c core kind code pc tval).kvp
    = p.kvp ∧ (faultBind p c core kind code pc tval).fab = p.fab ∧ (faultBind p c core kind code pc tval).lsh = p.lsh ∧
    (faultBind p c core kind code pc tval).mgt = p.mgt ∧ (faultBind p c core kind code pc tval).i3c = p.i3c ∧ (faultBind p c
    core kind code pc tval).freeCtr = p.freeCtr := by
  simp [faultBind]
@[simp] theorem ringFault_keeps (p : Pkg) (c : ℕ) (core : ℕ) : (ringFault p c core).pins = p.pins ∧ (ringFault p c core).tick
    = p.tick ∧ (ringFault p c core).glb = p.glb ∧ (ringFault p c core).arrays = p.arrays ∧ (ringFault p c core).ldr = p.ldr ∧
    (ringFault p c core).pens = p.pens ∧ (ringFault p c core).nvw = p.nvw ∧ (ringFault p c core).numVfs = p.numVfs ∧
    (ringFault p c core).reqs = p.reqs ∧ (ringFault p c core).lastGen = p.lastGen ∧ (ringFault p c core).rq = p.rq ∧
    (ringFault p c core).kvp = p.kvp ∧ (ringFault p c core).fab = p.fab ∧ (ringFault p c core).lsh = p.lsh ∧ (ringFault p c
    core).mgt = p.mgt ∧ (ringFault p c core).i3c = p.i3c := by
  simp [ringFault]
@[simp] theorem pushReply_keeps (p : Pkg) (k c : Nat) (b : Bytes) : (pushReply p k c b).pins = p.pins ∧ (pushReply p k c
    b).tick = p.tick ∧ (pushReply p k c b).glb = p.glb ∧ (pushReply p k c b).arrays = p.arrays ∧ (pushReply p k c b).ldr =
    p.ldr ∧ (pushReply p k c b).pens = p.pens ∧ (pushReply p k c b).nvw = p.nvw ∧ (pushReply p k c b).numVfs = p.numVfs ∧
    (pushReply p k c b).reqs = p.reqs ∧ (pushReply p k c b).lastGen = p.lastGen ∧ (pushReply p k c b).rq = p.rq ∧ (pushReply p
    k c b).kvp = p.kvp ∧ (pushReply p k c b).lsh = p.lsh ∧ (pushReply p k c b).mgt = p.mgt ∧ (pushReply p k c b).i3c = p.i3c
    := by
  simp [pushReply]
@[simp] theorem pushTok_keeps (p : Pkg) (c : Nat) (b : Bytes) : (pushTok p c b).pins = p.pins ∧ (pushTok p c b).tick = p.tick
    ∧ (pushTok p c b).glb = p.glb ∧ (pushTok p c b).arrays = p.arrays ∧ (pushTok p c b).ldr = p.ldr ∧ (pushTok p c b).pens =
    p.pens ∧ (pushTok p c b).nvw = p.nvw ∧ (pushTok p c b).numVfs = p.numVfs ∧ (pushTok p c b).reqs = p.reqs ∧ (pushTok p c
    b).lastGen = p.lastGen ∧ (pushTok p c b).rq = p.rq ∧ (pushTok p c b).kvp = p.kvp ∧ (pushTok p c b).fab = p.fab ∧ (pushTok
    p c b).lsh = p.lsh ∧ (pushTok p c b).mgt = p.mgt ∧ (pushTok p c b).i3c = p.i3c := by
  simp [pushTok]
@[simp] theorem pushEnd_keeps (p : Pkg) (c : ℕ) (b : Bytes) : (pushEnd p c b).pins = p.pins ∧ (pushEnd p c b).tick = p.tick ∧
    (pushEnd p c b).glb = p.glb ∧ (pushEnd p c b).arrays = p.arrays ∧ (pushEnd p c b).ldr = p.ldr ∧ (pushEnd p c b).pens =
    p.pens ∧ (pushEnd p c b).nvw = p.nvw ∧ (pushEnd p c b).numVfs = p.numVfs ∧ (pushEnd p c b).reqs = p.reqs ∧ (pushEnd p c
    b).lastGen = p.lastGen ∧ (pushEnd p c b).rq = p.rq ∧ (pushEnd p c b).kvp = p.kvp ∧ (pushEnd p c b).fab = p.fab ∧ (pushEnd
    p c b).lsh = p.lsh ∧ (pushEnd p c b).mgt = p.mgt ∧ (pushEnd p c b).i3c = p.i3c := by
  simp [pushEnd]
@[simp] theorem answer_keeps (p : Pkg) (c : Nat) (d : Desc) (status handle : Nat) (late fell : Bool) : (answer p c d status
    handle late fell).pins = p.pins ∧ (answer p c d status handle late fell).tick = p.tick ∧ (answer p c d status handle late
    fell).glb = p.glb ∧ (answer p c d status handle late fell).arrays = p.arrays ∧ (answer p c d status handle late fell).ldr
    = p.ldr ∧ (answer p c d status handle late fell).pens = p.pens ∧ (answer p c d status handle late fell).nvw = p.nvw ∧
    (answer p c d status handle late fell).numVfs = p.numVfs ∧ (answer p c d status handle late fell).reqs = p.reqs ∧ (answer
    p c d status handle late fell).lastGen = p.lastGen ∧ (answer p c d status handle late fell).rq = p.rq ∧ (answer p c d
    status handle late fell).kvp = p.kvp ∧ (answer p c d status handle late fell).lsh = p.lsh ∧ (answer p c d status handle
    late fell).mgt = p.mgt ∧ (answer p c d status handle late fell).i3c = p.i3c := by
  simp [answer]
@[simp] theorem answerReq_keeps (p : Pkg) (e : Nat) (d : Desc) (status : Nat) : (answerReq p e d status).pins = p.pins ∧
    (answerReq p e d status).tick = p.tick ∧ (answerReq p e d status).glb = p.glb ∧ (answerReq p e d status).arrays = p.arrays
    ∧ (answerReq p e d status).ldr = p.ldr ∧ (answerReq p e d status).pens = p.pens ∧ (answerReq p e d status).nvw = p.nvw ∧
    (answerReq p e d status).numVfs = p.numVfs ∧ (answerReq p e d status).reqs = p.reqs ∧ (answerReq p e d status).lastGen =
    p.lastGen ∧ (answerReq p e d status).rq = p.rq ∧ (answerReq p e d status).kvp = p.kvp ∧ (answerReq p e d status).lsh =
    p.lsh ∧ (answerReq p e d status).mgt = p.mgt ∧ (answerReq p e d status).i3c = p.i3c := by
  simp [answerReq]
@[simp] theorem answerHeld_keeps (p : Pkg) (e : Nat) (d : Desc) (status : Nat) : (answerHeld p e d status).pins = p.pins ∧
    (answerHeld p e d status).tick = p.tick ∧ (answerHeld p e d status).glb = p.glb ∧ (answerHeld p e d status).arrays =
    p.arrays ∧ (answerHeld p e d status).ldr = p.ldr ∧ (answerHeld p e d status).pens = p.pens ∧ (answerHeld p e d status).nvw
    = p.nvw ∧ (answerHeld p e d status).numVfs = p.numVfs ∧ (answerHeld p e d status).lastGen = p.lastGen ∧ (answerHeld p e d
    status).rq = p.rq ∧ (answerHeld p e d status).kvp = p.kvp ∧ (answerHeld p e d status).lsh = p.lsh ∧ (answerHeld p e d
    status).mgt = p.mgt ∧ (answerHeld p e d status).i3c = p.i3c := by
  simp [answerHeld]
@[simp] theorem growKeys_keeps (p : Pkg) (e : Nat) (keys : List Nat) : (growKeys p e keys).pins = p.pins ∧ (growKeys p e
    keys).tick = p.tick ∧ (growKeys p e keys).glb = p.glb ∧ (growKeys p e keys).scn = p.scn ∧ (growKeys p e keys).arrays =
    p.arrays ∧ (growKeys p e keys).ldr = p.ldr ∧ (growKeys p e keys).nvw = p.nvw ∧ (growKeys p e keys).ctxs = p.ctxs ∧
    (growKeys p e keys).numVfs = p.numVfs ∧ (growKeys p e keys).lastGen = p.lastGen ∧ (growKeys p e keys).rq = p.rq ∧
    (growKeys p e keys).kvp = p.kvp ∧ (growKeys p e keys).fab = p.fab ∧ (growKeys p e keys).lsh = p.lsh ∧ (growKeys p e
    keys).hnd = p.hnd ∧ (growKeys p e keys).mgt = p.mgt ∧ (growKeys p e keys).i3c = p.i3c ∧ (growKeys p e keys).out = p.out ∧
    (growKeys p e keys).pba = p.pba ∧ (growKeys p e keys).freeCtr = p.freeCtr := by
  unfold growKeys
  refine ⟨forAll_pins _ _ _ ?_, forAll_tick _ _ _ ?_, forAll_glb _ _ _ ?_, forAll_scn _ _ _ ?_, forAll_arrays _ _ _ ?_, forAll_ldr _ _ _ ?_, forAll_nvw _ _ _ ?_, forAll_ctxs _ _ _ ?_, forAll_numVfs _ _ _ ?_, forAll_lastGen _ _ _ ?_, forAll_rq _ _ _ ?_, forAll_kvp _ _ _ ?_, forAll_fab _ _ _ ?_, forAll_lsh _ _ _ ?_, forAll_hnd _ _ _ ?_, forAll_mgt _ _ _ ?_, forAll_i3c _ _ _ ?_, forAll_out _ _ _ ?_, forAll_pba _ _ _ ?_, forAll_freeCtr _ _ _ ?_⟩ <;> (intro q k; split <;> (try split) <;> simp)
@[simp] theorem growBlocks_keeps (p : Pkg) (e : Nat) : (growBlocks p e).pins = p.pins ∧ (growBlocks p e).tick = p.tick ∧
    (growBlocks p e).glb = p.glb ∧ (growBlocks p e).scn = p.scn ∧ (growBlocks p e).arrays = p.arrays ∧ (growBlocks p e).ldr =
    p.ldr ∧ (growBlocks p e).nvw = p.nvw ∧ (growBlocks p e).ctxs = p.ctxs ∧ (growBlocks p e).numVfs = p.numVfs ∧ (growBlocks p
    e).lastGen = p.lastGen ∧ (growBlocks p e).rq = p.rq ∧ (growBlocks p e).kvp = p.kvp ∧ (growBlocks p e).fab = p.fab ∧
    (growBlocks p e).lsh = p.lsh ∧ (growBlocks p e).hnd = p.hnd ∧ (growBlocks p e).mgt = p.mgt ∧ (growBlocks p e).i3c = p.i3c
    ∧ (growBlocks p e).out = p.out ∧ (growBlocks p e).pba = p.pba ∧ (growBlocks p e).freeCtr = p.freeCtr := by
  simp [growBlocks]
@[simp] theorem stopCopies_keeps (p : Pkg) (e : ℕ) (whys : List ℕ) : (stopCopies p e whys).pins = p.pins ∧ (stopCopies p e
    whys).tick = p.tick ∧ (stopCopies p e whys).glb = p.glb ∧ (stopCopies p e whys).scn = p.scn ∧ (stopCopies p e whys).arrays
    = p.arrays ∧ (stopCopies p e whys).ldr = p.ldr ∧ (stopCopies p e whys).nvw = p.nvw ∧ (stopCopies p e whys).ctxs = p.ctxs ∧
    (stopCopies p e whys).numVfs = p.numVfs ∧ (stopCopies p e whys).lastGen = p.lastGen ∧ (stopCopies p e whys).rq = p.rq ∧
    (stopCopies p e whys).kvp = p.kvp ∧ (stopCopies p e whys).fab = p.fab ∧ (stopCopies p e whys).lsh = p.lsh ∧ (stopCopies p
    e whys).hnd = p.hnd ∧ (stopCopies p e whys).mgt = p.mgt ∧ (stopCopies p e whys).i3c = p.i3c ∧ (stopCopies p e whys).out =
    p.out ∧ (stopCopies p e whys).pba = p.pba ∧ (stopCopies p e whys).freeCtr = p.freeCtr := by
  simp [stopCopies]
@[simp] theorem startCopy_keeps (p : Pkg) (e why : Nat) (keys : List Nat) : (startCopy p e why keys).pins = p.pins ∧
    (startCopy p e why keys).tick = p.tick ∧ (startCopy p e why keys).glb = p.glb ∧ (startCopy p e why keys).scn = p.scn ∧
    (startCopy p e why keys).arrays = p.arrays ∧ (startCopy p e why keys).ldr = p.ldr ∧ (startCopy p e why keys).nvw = p.nvw ∧
    (startCopy p e why keys).ctxs = p.ctxs ∧ (startCopy p e why keys).numVfs = p.numVfs ∧ (startCopy p e why keys).reqs =
    p.reqs ∧ (startCopy p e why keys).lastGen = p.lastGen ∧ (startCopy p e why keys).rq = p.rq ∧ (startCopy p e why keys).kvp
    = p.kvp ∧ (startCopy p e why keys).fab = p.fab ∧ (startCopy p e why keys).lsh = p.lsh ∧ (startCopy p e why keys).hnd =
    p.hnd ∧ (startCopy p e why keys).mgt = p.mgt ∧ (startCopy p e why keys).i3c = p.i3c ∧ (startCopy p e why keys).out = p.out
    ∧ (startCopy p e why keys).pba = p.pba ∧ (startCopy p e why keys).freeCtr = p.freeCtr := by
  simp [startCopy]
@[simp] theorem noteKennelFull_keeps (p : Pkg) (e : ℕ) (rest : ℕ) : (noteKennelFull p e rest).pins = p.pins ∧ (noteKennelFull
    p e rest).tick = p.tick ∧ (noteKennelFull p e rest).glb = p.glb ∧ (noteKennelFull p e rest).arrays = p.arrays ∧
    (noteKennelFull p e rest).ldr = p.ldr ∧ (noteKennelFull p e rest).pens = p.pens ∧ (noteKennelFull p e rest).nvw = p.nvw ∧
    (noteKennelFull p e rest).numVfs = p.numVfs ∧ (noteKennelFull p e rest).lastGen = p.lastGen ∧ (noteKennelFull p e rest).rq
    = p.rq ∧ (noteKennelFull p e rest).kvp = p.kvp ∧ (noteKennelFull p e rest).fab = p.fab ∧ (noteKennelFull p e rest).lsh =
    p.lsh ∧ (noteKennelFull p e rest).hnd = p.hnd ∧ (noteKennelFull p e rest).mgt = p.mgt ∧ (noteKennelFull p e rest).i3c =
    p.i3c ∧ (noteKennelFull p e rest).freeCtr = p.freeCtr := by
  simp [noteKennelFull]
@[simp] theorem copyOut_keeps (p : Pkg) (e why : Nat) : (copyOut p e why).pins = p.pins ∧ (copyOut p e why).tick = p.tick ∧
    (copyOut p e why).glb = p.glb ∧ (copyOut p e why).arrays = p.arrays ∧ (copyOut p e why).ldr = p.ldr ∧ (copyOut p e
    why).nvw = p.nvw ∧ (copyOut p e why).numVfs = p.numVfs ∧ (copyOut p e why).lastGen = p.lastGen ∧ (copyOut p e why).rq =
    p.rq ∧ (copyOut p e why).kvp = p.kvp ∧ (copyOut p e why).fab = p.fab ∧ (copyOut p e why).lsh = p.lsh ∧ (copyOut p e
    why).hnd = p.hnd ∧ (copyOut p e why).mgt = p.mgt ∧ (copyOut p e why).i3c = p.i3c ∧ (copyOut p e why).freeCtr = p.freeCtr
    := by
  simp [copyOut]
@[simp] theorem endSharing_keeps (p : Pkg) (e : ℕ) : (endSharing p e).pins = p.pins ∧ (endSharing p e).tick = p.tick ∧
    (endSharing p e).glb = p.glb ∧ (endSharing p e).scn = p.scn ∧ (endSharing p e).arrays = p.arrays ∧ (endSharing p e).ldr =
    p.ldr ∧ (endSharing p e).nvw = p.nvw ∧ (endSharing p e).ctxs = p.ctxs ∧ (endSharing p e).numVfs = p.numVfs ∧ (endSharing p
    e).lastGen = p.lastGen ∧ (endSharing p e).rq = p.rq ∧ (endSharing p e).kvp = p.kvp ∧ (endSharing p e).fab = p.fab ∧
    (endSharing p e).lsh = p.lsh ∧ (endSharing p e).hnd = p.hnd ∧ (endSharing p e).mgt = p.mgt ∧ (endSharing p e).i3c = p.i3c
    ∧ (endSharing p e).out = p.out ∧ (endSharing p e).pba = p.pba ∧ (endSharing p e).freeCtr = p.freeCtr := by
  simp [endSharing]
@[simp] theorem releasePages_keeps (p : Pkg) (e : Nat) : (releasePages p e).pins = p.pins ∧ (releasePages p e).tick = p.tick ∧
    (releasePages p e).glb = p.glb ∧ (releasePages p e).scn = p.scn ∧ (releasePages p e).arrays = p.arrays ∧ (releasePages p
    e).ldr = p.ldr ∧ (releasePages p e).nvw = p.nvw ∧ (releasePages p e).numVfs = p.numVfs ∧ (releasePages p e).lastGen =
    p.lastGen ∧ (releasePages p e).rq = p.rq ∧ (releasePages p e).kvp = p.kvp ∧ (releasePages p e).fab = p.fab ∧ (releasePages
    p e).lsh = p.lsh ∧ (releasePages p e).hnd = p.hnd ∧ (releasePages p e).mgt = p.mgt ∧ (releasePages p e).i3c = p.i3c ∧
    (releasePages p e).out = p.out ∧ (releasePages p e).pba = p.pba ∧ (releasePages p e).freeCtr = p.freeCtr := ⟨by
  unfold releasePages; dsimp only; repeat' apply And.intro
  all_goals repeat' split
  all_goals try simp only [id_eq]
  all_goals repeat' (first
    | refine Eq.trans (forAll_pins _ _ _ ?_) ?_
    | refine Eq.trans (foldl_pins _ _ _ ?_) ?_
    | refine Eq.trans (foldlP_pins _ _ _ ?_) ?_)
  all_goals try intro q x
  all_goals try dsimp only
  all_goals repeat' split
  all_goals first | rfl | (simp_all; done),
    by
  unfold releasePages; dsimp only; repeat' apply And.intro
  all_goals repeat' split
  all_goals try simp only [id_eq]
  all_goals repeat' (first
    | refine Eq.trans (forAll_tick _ _ _ ?_) ?_
    | refine Eq.trans (foldl_tick _ _ _ ?_) ?_
    | refine Eq.trans (foldlP_tick _ _ _ ?_) ?_)
  all_goals try intro q x
  all_goals try dsimp only
  all_goals repeat' split
  all_goals first | rfl | (simp_all; done),
    by
  unfold releasePages; dsimp only; repeat' apply And.intro
  all_goals repeat' split
  all_goals try simp only [id_eq]
  all_goals repeat' (first
    | refine Eq.trans (forAll_glb _ _ _ ?_) ?_
    | refine Eq.trans (foldl_glb _ _ _ ?_) ?_
    | refine Eq.trans (foldlP_glb _ _ _ ?_) ?_)
  all_goals try intro q x
  all_goals try dsimp only
  all_goals repeat' split
  all_goals first | rfl | (simp_all; done),
    by
  unfold releasePages; dsimp only; repeat' apply And.intro
  all_goals repeat' split
  all_goals try simp only [id_eq]
  all_goals repeat' (first
    | refine Eq.trans (forAll_scn _ _ _ ?_) ?_
    | refine Eq.trans (foldl_scn _ _ _ ?_) ?_
    | refine Eq.trans (foldlP_scn _ _ _ ?_) ?_)
  all_goals try intro q x
  all_goals try dsimp only
  all_goals repeat' split
  all_goals first | rfl | (simp_all; done),
    by
  unfold releasePages; dsimp only; repeat' apply And.intro
  all_goals repeat' split
  all_goals try simp only [id_eq]
  all_goals repeat' (first
    | refine Eq.trans (forAll_arrays _ _ _ ?_) ?_
    | refine Eq.trans (foldl_arrays _ _ _ ?_) ?_
    | refine Eq.trans (foldlP_arrays _ _ _ ?_) ?_)
  all_goals try intro q x
  all_goals try dsimp only
  all_goals repeat' split
  all_goals first | rfl | (simp_all; done),
    by
  unfold releasePages; dsimp only; repeat' apply And.intro
  all_goals repeat' split
  all_goals try simp only [id_eq]
  all_goals repeat' (first
    | refine Eq.trans (forAll_ldr _ _ _ ?_) ?_
    | refine Eq.trans (foldl_ldr _ _ _ ?_) ?_
    | refine Eq.trans (foldlP_ldr _ _ _ ?_) ?_)
  all_goals try intro q x
  all_goals try dsimp only
  all_goals repeat' split
  all_goals first | rfl | (simp_all; done),
    by
  unfold releasePages; dsimp only; repeat' apply And.intro
  all_goals repeat' split
  all_goals try simp only [id_eq]
  all_goals repeat' (first
    | refine Eq.trans (forAll_nvw _ _ _ ?_) ?_
    | refine Eq.trans (foldl_nvw _ _ _ ?_) ?_
    | refine Eq.trans (foldlP_nvw _ _ _ ?_) ?_)
  all_goals try intro q x
  all_goals try dsimp only
  all_goals repeat' split
  all_goals first | rfl | (simp_all; done),
    by
  unfold releasePages; dsimp only; repeat' apply And.intro
  all_goals repeat' split
  all_goals try simp only [id_eq]
  all_goals repeat' (first
    | refine Eq.trans (forAll_numVfs _ _ _ ?_) ?_
    | refine Eq.trans (foldl_numVfs _ _ _ ?_) ?_
    | refine Eq.trans (foldlP_numVfs _ _ _ ?_) ?_)
  all_goals try intro q x
  all_goals try dsimp only
  all_goals repeat' split
  all_goals first | rfl | (simp_all; done),
    by
  unfold releasePages; dsimp only; repeat' apply And.intro
  all_goals repeat' split
  all_goals try simp only [id_eq]
  all_goals repeat' (first
    | refine Eq.trans (forAll_lastGen _ _ _ ?_) ?_
    | refine Eq.trans (foldl_lastGen _ _ _ ?_) ?_
    | refine Eq.trans (foldlP_lastGen _ _ _ ?_) ?_)
  all_goals try intro q x
  all_goals try dsimp only
  all_goals repeat' split
  all_goals first | rfl | (simp_all; done),
    by
  unfold releasePages; dsimp only; repeat' apply And.intro
  all_goals repeat' split
  all_goals try simp only [id_eq]
  all_goals repeat' (first
    | refine Eq.trans (forAll_rq _ _ _ ?_) ?_
    | refine Eq.trans (foldl_rq _ _ _ ?_) ?_
    | refine Eq.trans (foldlP_rq _ _ _ ?_) ?_)
  all_goals try intro q x
  all_goals try dsimp only
  all_goals repeat' split
  all_goals first | rfl | (simp_all; done),
    by
  unfold releasePages; dsimp only; repeat' apply And.intro
  all_goals repeat' split
  all_goals try simp only [id_eq]
  all_goals repeat' (first
    | refine Eq.trans (forAll_kvp _ _ _ ?_) ?_
    | refine Eq.trans (foldl_kvp _ _ _ ?_) ?_
    | refine Eq.trans (foldlP_kvp _ _ _ ?_) ?_)
  all_goals try intro q x
  all_goals try dsimp only
  all_goals repeat' split
  all_goals first | rfl | (simp_all; done),
    by
  unfold releasePages; dsimp only; repeat' apply And.intro
  all_goals repeat' split
  all_goals try simp only [id_eq]
  all_goals repeat' (first
    | refine Eq.trans (forAll_fab _ _ _ ?_) ?_
    | refine Eq.trans (foldl_fab _ _ _ ?_) ?_
    | refine Eq.trans (foldlP_fab _ _ _ ?_) ?_)
  all_goals try intro q x
  all_goals try dsimp only
  all_goals repeat' split
  all_goals first | rfl | (simp_all; done),
    by
  unfold releasePages; dsimp only; repeat' apply And.intro
  all_goals repeat' split
  all_goals try simp only [id_eq]
  all_goals repeat' (first
    | refine Eq.trans (forAll_lsh _ _ _ ?_) ?_
    | refine Eq.trans (foldl_lsh _ _ _ ?_) ?_
    | refine Eq.trans (foldlP_lsh _ _ _ ?_) ?_)
  all_goals try intro q x
  all_goals try dsimp only
  all_goals repeat' split
  all_goals first | rfl | (simp_all; done),
    by
  unfold releasePages; dsimp only; repeat' apply And.intro
  all_goals repeat' split
  all_goals try simp only [id_eq]
  all_goals repeat' (first
    | refine Eq.trans (forAll_hnd _ _ _ ?_) ?_
    | refine Eq.trans (foldl_hnd _ _ _ ?_) ?_
    | refine Eq.trans (foldlP_hnd _ _ _ ?_) ?_)
  all_goals try intro q x
  all_goals try dsimp only
  all_goals repeat' split
  all_goals first | rfl | (simp_all; done),
    by
  unfold releasePages; dsimp only; repeat' apply And.intro
  all_goals repeat' split
  all_goals try simp only [id_eq]
  all_goals repeat' (first
    | refine Eq.trans (forAll_mgt _ _ _ ?_) ?_
    | refine Eq.trans (foldl_mgt _ _ _ ?_) ?_
    | refine Eq.trans (foldlP_mgt _ _ _ ?_) ?_)
  all_goals try intro q x
  all_goals try dsimp only
  all_goals repeat' split
  all_goals first | rfl | (simp_all; done),
    by
  unfold releasePages; dsimp only; repeat' apply And.intro
  all_goals repeat' split
  all_goals try simp only [id_eq]
  all_goals repeat' (first
    | refine Eq.trans (forAll_i3c _ _ _ ?_) ?_
    | refine Eq.trans (foldl_i3c _ _ _ ?_) ?_
    | refine Eq.trans (foldlP_i3c _ _ _ ?_) ?_)
  all_goals try intro q x
  all_goals try dsimp only
  all_goals repeat' split
  all_goals first | rfl | (simp_all; done),
    by
  unfold releasePages; dsimp only; repeat' apply And.intro
  all_goals repeat' split
  all_goals try simp only [id_eq]
  all_goals repeat' (first
    | refine Eq.trans (forAll_out _ _ _ ?_) ?_
    | refine Eq.trans (foldl_out _ _ _ ?_) ?_
    | refine Eq.trans (foldlP_out _ _ _ ?_) ?_)
  all_goals try intro q x
  all_goals try dsimp only
  all_goals repeat' split
  all_goals first | rfl | (simp_all; done),
    by
  unfold releasePages; dsimp only; repeat' apply And.intro
  all_goals repeat' split
  all_goals try simp only [id_eq]
  all_goals repeat' (first
    | refine Eq.trans (forAll_pba _ _ _ ?_) ?_
    | refine Eq.trans (foldl_pba _ _ _ ?_) ?_
    | refine Eq.trans (foldlP_pba _ _ _ ?_) ?_)
  all_goals try intro q x
  all_goals try dsimp only
  all_goals repeat' split
  all_goals first | rfl | (simp_all; done),
    by
  unfold releasePages; dsimp only; repeat' apply And.intro
  all_goals repeat' split
  all_goals try simp only [id_eq]
  all_goals repeat' (first
    | refine Eq.trans (forAll_freeCtr _ _ _ ?_) ?_
    | refine Eq.trans (foldl_freeCtr _ _ _ ?_) ?_
    | refine Eq.trans (foldlP_freeCtr _ _ _ ?_) ?_)
  all_goals try intro q x
  all_goals try dsimp only
  all_goals repeat' split
  all_goals first | rfl | (simp_all; done)⟩
@[simp] theorem freeEntry_keeps (p : Pkg) (e : Nat) : (freeEntry p e).pins = p.pins ∧ (freeEntry p e).tick = p.tick ∧
    (freeEntry p e).glb = p.glb ∧ (freeEntry p e).scn = p.scn ∧ (freeEntry p e).arrays = p.arrays ∧ (freeEntry p e).ldr =
    p.ldr ∧ (freeEntry p e).pens = p.pens ∧ (freeEntry p e).nvw = p.nvw ∧ (freeEntry p e).ctxs = p.ctxs ∧ (freeEntry p
    e).numVfs = p.numVfs ∧ (freeEntry p e).lastGen = p.lastGen ∧ (freeEntry p e).rq = p.rq ∧ (freeEntry p e).kvp = p.kvp ∧
    (freeEntry p e).fab = p.fab ∧ (freeEntry p e).lsh = p.lsh ∧ (freeEntry p e).hnd = p.hnd ∧ (freeEntry p e).mgt = p.mgt ∧
    (freeEntry p e).i3c = p.i3c ∧ (freeEntry p e).out = p.out ∧ (freeEntry p e).pba = p.pba ∧ (freeEntry p e).freeCtr =
    p.freeCtr := by
  simp [freeEntry]
@[simp] theorem giveBack_keeps (p : Pkg) (c n : Nat) : (giveBack p c n).pins = p.pins ∧ (giveBack p c n).tick = p.tick ∧
    (giveBack p c n).glb = p.glb ∧ (giveBack p c n).scn = p.scn ∧ (giveBack p c n).arrays = p.arrays ∧ (giveBack p c n).ldr =
    p.ldr ∧ (giveBack p c n).pens = p.pens ∧ (giveBack p c n).nvw = p.nvw ∧ (giveBack p c n).numVfs = p.numVfs ∧ (giveBack p c
    n).reqs = p.reqs ∧ (giveBack p c n).lastGen = p.lastGen ∧ (giveBack p c n).rq = p.rq ∧ (giveBack p c n).kvp = p.kvp ∧
    (giveBack p c n).fab = p.fab ∧ (giveBack p c n).lsh = p.lsh ∧ (giveBack p c n).hnd = p.hnd ∧ (giveBack p c n).mgt = p.mgt
    ∧ (giveBack p c n).i3c = p.i3c ∧ (giveBack p c n).out = p.out ∧ (giveBack p c n).pba = p.pba ∧ (giveBack p c n).freeCtr =
    p.freeCtr := by
  simp [giveBack]
@[simp] theorem refuseAdmit_keeps (p : Pkg) (e status : Nat) : (refuseAdmit p e status).pins = p.pins ∧ (refuseAdmit p e
    status).tick = p.tick ∧ (refuseAdmit p e status).glb = p.glb ∧ (refuseAdmit p e status).arrays = p.arrays ∧ (refuseAdmit p
    e status).ldr = p.ldr ∧ (refuseAdmit p e status).nvw = p.nvw ∧ (refuseAdmit p e status).numVfs = p.numVfs ∧ (refuseAdmit p
    e status).lastGen = p.lastGen ∧ (refuseAdmit p e status).rq = p.rq ∧ (refuseAdmit p e status).kvp = p.kvp ∧ (refuseAdmit p
    e status).lsh = p.lsh ∧ (refuseAdmit p e status).mgt = p.mgt ∧ (refuseAdmit p e status).i3c = p.i3c := by
  simp [refuseAdmit]
@[simp] theorem dropTokSlot_keeps (p : Pkg) (e : Nat) : (dropTokSlot p e).pins = p.pins ∧ (dropTokSlot p e).tick = p.tick ∧
    (dropTokSlot p e).glb = p.glb ∧ (dropTokSlot p e).scn = p.scn ∧ (dropTokSlot p e).arrays = p.arrays ∧ (dropTokSlot p
    e).ldr = p.ldr ∧ (dropTokSlot p e).pens = p.pens ∧ (dropTokSlot p e).nvw = p.nvw ∧ (dropTokSlot p e).numVfs = p.numVfs ∧
    (dropTokSlot p e).lastGen = p.lastGen ∧ (dropTokSlot p e).rq = p.rq ∧ (dropTokSlot p e).kvp = p.kvp ∧ (dropTokSlot p
    e).fab = p.fab ∧ (dropTokSlot p e).lsh = p.lsh ∧ (dropTokSlot p e).mgt = p.mgt ∧ (dropTokSlot p e).i3c = p.i3c ∧
    (dropTokSlot p e).out = p.out ∧ (dropTokSlot p e).pba = p.pba ∧ (dropTokSlot p e).freeCtr = p.freeCtr := by
  simp [dropTokSlot]
@[simp] theorem leaveStep_keeps (p : Pkg) (e : Nat) : (leaveStep p e).pins = p.pins ∧ (leaveStep p e).tick = p.tick ∧
    (leaveStep p e).glb = p.glb ∧ (leaveStep p e).arrays = p.arrays ∧ (leaveStep p e).ldr = p.ldr ∧ (leaveStep p e).nvw =
    p.nvw ∧ (leaveStep p e).numVfs = p.numVfs ∧ (leaveStep p e).lastGen = p.lastGen ∧ (leaveStep p e).rq = p.rq ∧ (leaveStep p
    e).kvp = p.kvp ∧ (leaveStep p e).fab = p.fab ∧ (leaveStep p e).mgt = p.mgt ∧ (leaveStep p e).i3c = p.i3c ∧ (leaveStep p
    e).freeCtr = p.freeCtr := by
  simp [leaveStep]
@[simp] theorem endReq_keeps (p : Pkg) (e status : Nat) : (endReq p e status).pins = p.pins ∧ (endReq p e status).tick =
    p.tick ∧ (endReq p e status).glb = p.glb ∧ (endReq p e status).arrays = p.arrays ∧ (endReq p e status).ldr = p.ldr ∧
    (endReq p e status).nvw = p.nvw ∧ (endReq p e status).numVfs = p.numVfs ∧ (endReq p e status).lastGen = p.lastGen ∧
    (endReq p e status).kvp = p.kvp ∧ (endReq p e status).mgt = p.mgt ∧ (endReq p e status).i3c = p.i3c := by
  simp [endReq]
@[simp] theorem endReq_vital (p : Pkg) (e : ℕ) (status : ℕ) : (endReq p e status).tick.refclkOk = p.tick.refclkOk ∧ (endReq p
    e status).tick.phaseLocked = p.tick.phaseLocked ∧ (endReq p e status).tick.holdover = p.tick.holdover := by
  simp [endReq]
@[simp] theorem closeReq_keeps (p : Pkg) (e : Nat) : (closeReq p e).pins = p.pins ∧ (closeReq p e).tick = p.tick ∧ (closeReq p
    e).glb = p.glb ∧ (closeReq p e).arrays = p.arrays ∧ (closeReq p e).ldr = p.ldr ∧ (closeReq p e).nvw = p.nvw ∧ (closeReq p
    e).numVfs = p.numVfs ∧ (closeReq p e).lastGen = p.lastGen ∧ (closeReq p e).rq = p.rq ∧ (closeReq p e).kvp = p.kvp ∧
    (closeReq p e).lsh = p.lsh ∧ (closeReq p e).mgt = p.mgt ∧ (closeReq p e).i3c = p.i3c := by
  simp [closeReq]
@[simp] theorem closeDone_keeps (p : Pkg) : (closeDone p).pins = p.pins ∧ (closeDone p).tick = p.tick ∧ (closeDone p).glb =
    p.glb ∧ (closeDone p).arrays = p.arrays ∧ (closeDone p).ldr = p.ldr ∧ (closeDone p).nvw = p.nvw ∧ (closeDone p).numVfs =
    p.numVfs ∧ (closeDone p).lastGen = p.lastGen ∧ (closeDone p).kvp = p.kvp ∧ (closeDone p).lsh = p.lsh ∧ (closeDone p).mgt =
    p.mgt ∧ (closeDone p).i3c = p.i3c := by
  simp [closeDone]
@[simp] theorem closeDone_vital (p : Pkg) : (closeDone p).glb.ready = p.glb.ready ∧ (closeDone p).glb.selfTestDone =
    p.glb.selfTestDone ∧ (closeDone p).glb.fwFault = p.glb.fwFault := by
  simp [closeDone]
@[simp] theorem faultCtx_keeps (p : Pkg) (c status code : Nat) : (faultCtx p c status code).pins = p.pins ∧ (faultCtx p c
    status code).tick = p.tick ∧ (faultCtx p c status code).glb = p.glb ∧ (faultCtx p c status code).scn = p.scn ∧ (faultCtx p
    c status code).arrays = p.arrays ∧ (faultCtx p c status code).ldr = p.ldr ∧ (faultCtx p c status code).nvw = p.nvw ∧
    (faultCtx p c status code).numVfs = p.numVfs ∧ (faultCtx p c status code).lastGen = p.lastGen ∧ (faultCtx p c status
    code).rq = p.rq ∧ (faultCtx p c status code).kvp = p.kvp ∧ (faultCtx p c status code).fab = p.fab ∧ (faultCtx p c status
    code).lsh = p.lsh ∧ (faultCtx p c status code).hnd = p.hnd ∧ (faultCtx p c status code).mgt = p.mgt ∧ (faultCtx p c status
    code).i3c = p.i3c ∧ (faultCtx p c status code).out = p.out ∧ (faultCtx p c status code).pba = p.pba ∧ (faultCtx p c status
    code).freeCtr = p.freeCtr := by
  simp [faultCtx]
@[simp] theorem hostError_keeps (p : Pkg) (c code p0 p1 p2 : Nat) : (hostError p c code p0 p1 p2).pins = p.pins ∧ (hostError p
    c code p0 p1 p2).tick = p.tick ∧ (hostError p c code p0 p1 p2).glb = p.glb ∧ (hostError p c code p0 p1 p2).arrays =
    p.arrays ∧ (hostError p c code p0 p1 p2).ldr = p.ldr ∧ (hostError p c code p0 p1 p2).nvw = p.nvw ∧ (hostError p c code p0
    p1 p2).numVfs = p.numVfs ∧ (hostError p c code p0 p1 p2).lastGen = p.lastGen ∧ (hostError p c code p0 p1 p2).rq = p.rq ∧
    (hostError p c code p0 p1 p2).kvp = p.kvp ∧ (hostError p c code p0 p1 p2).fab = p.fab ∧ (hostError p c code p0 p1 p2).lsh
    = p.lsh ∧ (hostError p c code p0 p1 p2).hnd = p.hnd ∧ (hostError p c code p0 p1 p2).mgt = p.mgt ∧ (hostError p c code p0
    p1 p2).i3c = p.i3c ∧ (hostError p c code p0 p1 p2).freeCtr = p.freeCtr := by
  simp [hostError]
@[simp] theorem stallCtx_keeps (p : Pkg) (c : Nat) : (stallCtx p c).pins = p.pins ∧ (stallCtx p c).tick = p.tick ∧ (stallCtx p
    c).glb = p.glb ∧ (stallCtx p c).arrays = p.arrays ∧ (stallCtx p c).ldr = p.ldr ∧ (stallCtx p c).pens = p.pens ∧ (stallCtx
    p c).nvw = p.nvw ∧ (stallCtx p c).numVfs = p.numVfs ∧ (stallCtx p c).reqs = p.reqs ∧ (stallCtx p c).lastGen = p.lastGen ∧
    (stallCtx p c).rq = p.rq ∧ (stallCtx p c).kvp = p.kvp ∧ (stallCtx p c).fab = p.fab ∧ (stallCtx p c).lsh = p.lsh ∧
    (stallCtx p c).hnd = p.hnd ∧ (stallCtx p c).mgt = p.mgt ∧ (stallCtx p c).i3c = p.i3c ∧ (stallCtx p c).freeCtr = p.freeCtr
    := by
  simp [stallCtx]
@[simp] theorem judgeTq_keeps (p : Pkg) (c : Nat) : (judgeTq p c).pins = p.pins ∧ (judgeTq p c).tick = p.tick ∧ (judgeTq p
    c).glb = p.glb ∧ (judgeTq p c).scn = p.scn ∧ (judgeTq p c).arrays = p.arrays ∧ (judgeTq p c).ldr = p.ldr ∧ (judgeTq p
    c).pens = p.pens ∧ (judgeTq p c).nvw = p.nvw ∧ (judgeTq p c).ctxs = p.ctxs ∧ (judgeTq p c).numVfs = p.numVfs ∧ (judgeTq p
    c).reqs = p.reqs ∧ (judgeTq p c).lastGen = p.lastGen ∧ (judgeTq p c).rq = p.rq ∧ (judgeTq p c).kvp = p.kvp ∧ (judgeTq p
    c).fab = p.fab ∧ (judgeTq p c).lsh = p.lsh ∧ (judgeTq p c).mgt = p.mgt ∧ (judgeTq p c).i3c = p.i3c ∧ (judgeTq p c).out =
    p.out ∧ (judgeTq p c).pba = p.pba ∧ (judgeTq p c).freeCtr = p.freeCtr := by
  simp [judgeTq]
@[simp] theorem pauseReq_keeps (p : Pkg) (e prev until_ : Nat) : (pauseReq p e prev until_).pins = p.pins ∧ (pauseReq p e prev
    until_).tick = p.tick ∧ (pauseReq p e prev until_).glb = p.glb ∧ (pauseReq p e prev until_).arrays = p.arrays ∧ (pauseReq
    p e prev until_).ldr = p.ldr ∧ (pauseReq p e prev until_).nvw = p.nvw ∧ (pauseReq p e prev until_).numVfs = p.numVfs ∧
    (pauseReq p e prev until_).lastGen = p.lastGen ∧ (pauseReq p e prev until_).rq = p.rq ∧ (pauseReq p e prev until_).kvp =
    p.kvp ∧ (pauseReq p e prev until_).fab = p.fab ∧ (pauseReq p e prev until_).lsh = p.lsh ∧ (pauseReq p e prev until_).hnd =
    p.hnd ∧ (pauseReq p e prev until_).mgt = p.mgt ∧ (pauseReq p e prev until_).i3c = p.i3c ∧ (pauseReq p e prev
    until_).freeCtr = p.freeCtr := by
  simp [pauseReq]
@[simp] theorem closeResume_keeps (p : Pkg) (e status : Nat) : (closeResume p e status).pins = p.pins ∧ (closeResume p e
    status).tick = p.tick ∧ (closeResume p e status).glb = p.glb ∧ (closeResume p e status).arrays = p.arrays ∧ (closeResume p
    e status).ldr = p.ldr ∧ (closeResume p e status).pens = p.pens ∧ (closeResume p e status).nvw = p.nvw ∧ (closeResume p e
    status).numVfs = p.numVfs ∧ (closeResume p e status).lastGen = p.lastGen ∧ (closeResume p e status).rq = p.rq ∧
    (closeResume p e status).kvp = p.kvp ∧ (closeResume p e status).lsh = p.lsh ∧ (closeResume p e status).mgt = p.mgt ∧
    (closeResume p e status).i3c = p.i3c := by
  unfold closeResume; (repeat' split) <;> (simp_all; done)
@[simp] theorem applyPause_keeps (p : Pkg) (e : Nat) (d : Desc) (ttl : Nat) : (applyPause p e d ttl).pins = p.pins ∧
    (applyPause p e d ttl).tick = p.tick ∧ (applyPause p e d ttl).glb = p.glb ∧ (applyPause p e d ttl).arrays = p.arrays ∧
    (applyPause p e d ttl).ldr = p.ldr ∧ (applyPause p e d ttl).nvw = p.nvw ∧ (applyPause p e d ttl).numVfs = p.numVfs ∧
    (applyPause p e d ttl).lastGen = p.lastGen ∧ (applyPause p e d ttl).rq = p.rq ∧ (applyPause p e d ttl).kvp = p.kvp ∧
    (applyPause p e d ttl).lsh = p.lsh ∧ (applyPause p e d ttl).mgt = p.mgt ∧ (applyPause p e d ttl).i3c = p.i3c := by
  simp [applyPause]
@[simp] theorem logPromptInvalid_keeps (p : Pkg) (e i : Nat) : (logPromptInvalid p e i).pins = p.pins ∧ (logPromptInvalid p e
    i).tick = p.tick ∧ (logPromptInvalid p e i).glb = p.glb ∧ (logPromptInvalid p e i).arrays = p.arrays ∧ (logPromptInvalid p
    e i).ldr = p.ldr ∧ (logPromptInvalid p e i).pens = p.pens ∧ (logPromptInvalid p e i).nvw = p.nvw ∧ (logPromptInvalid p e
    i).numVfs = p.numVfs ∧ (logPromptInvalid p e i).reqs = p.reqs ∧ (logPromptInvalid p e i).lastGen = p.lastGen ∧
    (logPromptInvalid p e i).rq = p.rq ∧ (logPromptInvalid p e i).kvp = p.kvp ∧ (logPromptInvalid p e i).fab = p.fab ∧
    (logPromptInvalid p e i).lsh = p.lsh ∧ (logPromptInvalid p e i).hnd = p.hnd ∧ (logPromptInvalid p e i).mgt = p.mgt ∧
    (logPromptInvalid p e i).i3c = p.i3c ∧ (logPromptInvalid p e i).freeCtr = p.freeCtr := by
  simp [logPromptInvalid]
@[simp] theorem applyAppend_keeps (p : Pkg) (e : Nat) (t : TokRead) (ts : List Word32) : (applyAppend p e t ts).pins = p.pins
    ∧ (applyAppend p e t ts).tick = p.tick ∧ (applyAppend p e t ts).glb = p.glb ∧ (applyAppend p e t ts).arrays = p.arrays ∧
    (applyAppend p e t ts).ldr = p.ldr ∧ (applyAppend p e t ts).nvw = p.nvw ∧ (applyAppend p e t ts).numVfs = p.numVfs ∧
    (applyAppend p e t ts).lastGen = p.lastGen ∧ (applyAppend p e t ts).rq = p.rq ∧ (applyAppend p e t ts).kvp = p.kvp ∧
    (applyAppend p e t ts).lsh = p.lsh ∧ (applyAppend p e t ts).mgt = p.mgt ∧ (applyAppend p e t ts).i3c = p.i3c := by
  unfold applyAppend; dsimp only; (repeat' split) <;> (simp_all; done)
@[simp] theorem issueRead_keeps (p : Pkg) (e : Nat) : (issueRead p e).pins = p.pins ∧ (issueRead p e).tick = p.tick ∧
    (issueRead p e).glb = p.glb ∧ (issueRead p e).scn = p.scn ∧ (issueRead p e).arrays = p.arrays ∧ (issueRead p e).ldr =
    p.ldr ∧ (issueRead p e).pens = p.pens ∧ (issueRead p e).nvw = p.nvw ∧ (issueRead p e).ctxs = p.ctxs ∧ (issueRead p
    e).numVfs = p.numVfs ∧ (issueRead p e).lastGen = p.lastGen ∧ (issueRead p e).rq = p.rq ∧ (issueRead p e).kvp = p.kvp ∧
    (issueRead p e).fab = p.fab ∧ (issueRead p e).lsh = p.lsh ∧ (issueRead p e).hnd = p.hnd ∧ (issueRead p e).mgt = p.mgt ∧
    (issueRead p e).i3c = p.i3c ∧ (issueRead p e).freeCtr = p.freeCtr := by
  unfold issueRead; dsimp only; (repeat' split) <;> (simp_all; done)
@[simp] theorem applyHeld_keeps (p : Pkg) (e : Nat) : (applyHeld p e).pins = p.pins ∧ (applyHeld p e).tick = p.tick ∧
    (applyHeld p e).glb = p.glb ∧ (applyHeld p e).arrays = p.arrays ∧ (applyHeld p e).ldr = p.ldr ∧ (applyHeld p e).nvw =
    p.nvw ∧ (applyHeld p e).numVfs = p.numVfs ∧ (applyHeld p e).lastGen = p.lastGen ∧ (applyHeld p e).rq = p.rq ∧ (applyHeld p
    e).kvp = p.kvp ∧ (applyHeld p e).lsh = p.lsh ∧ (applyHeld p e).mgt = p.mgt ∧ (applyHeld p e).i3c = p.i3c := by
  unfold applyHeld; dsimp only; repeat' apply And.intro
  all_goals repeat' split
  all_goals try simp only [applyPause_keeps, applyAppend_keeps, id_eq]
  all_goals repeat' (first
    | refine Eq.trans (forAll_pins _ _ _ ?_) ?_
    | refine Eq.trans (forAll_tick _ _ _ ?_) ?_
    | refine Eq.trans (forAll_glb _ _ _ ?_) ?_
    | refine Eq.trans (forAll_arrays _ _ _ ?_) ?_
    | refine Eq.trans (forAll_ldr _ _ _ ?_) ?_
    | refine Eq.trans (forAll_nvw _ _ _ ?_) ?_
    | refine Eq.trans (forAll_numVfs _ _ _ ?_) ?_
    | refine Eq.trans (forAll_lastGen _ _ _ ?_) ?_
    | refine Eq.trans (forAll_rq _ _ _ ?_) ?_
    | refine Eq.trans (forAll_kvp _ _ _ ?_) ?_
    | refine Eq.trans (forAll_lsh _ _ _ ?_) ?_
    | refine Eq.trans (forAll_mgt _ _ _ ?_) ?_
    | refine Eq.trans (forAll_i3c _ _ _ ?_) ?_
    | refine Eq.trans (foldl_pins _ _ _ ?_) ?_
    | refine Eq.trans (foldl_tick _ _ _ ?_) ?_
    | refine Eq.trans (foldl_glb _ _ _ ?_) ?_
    | refine Eq.trans (foldl_arrays _ _ _ ?_) ?_
    | refine Eq.trans (foldl_ldr _ _ _ ?_) ?_
    | refine Eq.trans (foldl_nvw _ _ _ ?_) ?_
    | refine Eq.trans (foldl_numVfs _ _ _ ?_) ?_
    | refine Eq.trans (foldl_lastGen _ _ _ ?_) ?_
    | refine Eq.trans (foldl_rq _ _ _ ?_) ?_
    | refine Eq.trans (foldl_kvp _ _ _ ?_) ?_
    | refine Eq.trans (foldl_lsh _ _ _ ?_) ?_
    | refine Eq.trans (foldl_mgt _ _ _ ?_) ?_
    | refine Eq.trans (foldl_i3c _ _ _ ?_) ?_
    | refine Eq.trans (foldlP_pins _ _ _ ?_) ?_
    | refine Eq.trans (foldlP_tick _ _ _ ?_) ?_
    | refine Eq.trans (foldlP_glb _ _ _ ?_) ?_
    | refine Eq.trans (foldlP_arrays _ _ _ ?_) ?_
    | refine Eq.trans (foldlP_ldr _ _ _ ?_) ?_
    | refine Eq.trans (foldlP_nvw _ _ _ ?_) ?_
    | refine Eq.trans (foldlP_numVfs _ _ _ ?_) ?_
    | refine Eq.trans (foldlP_lastGen _ _ _ ?_) ?_
    | refine Eq.trans (foldlP_rq _ _ _ ?_) ?_
    | refine Eq.trans (foldlP_kvp _ _ _ ?_) ?_
    | refine Eq.trans (foldlP_lsh _ _ _ ?_) ?_
    | refine Eq.trans (foldlP_mgt _ _ _ ?_) ?_
    | refine Eq.trans (foldlP_i3c _ _ _ ?_) ?_)
  all_goals try intro q x
  all_goals try dsimp only
  all_goals repeat' split
  all_goals first | rfl | (simp_all; done)
@[simp] theorem fallbackReq_keeps (p : Pkg) (e : Nat) : (fallbackReq p e).pins = p.pins ∧ (fallbackReq p e).tick = p.tick ∧
    (fallbackReq p e).glb = p.glb ∧ (fallbackReq p e).arrays = p.arrays ∧ (fallbackReq p e).ldr = p.ldr ∧ (fallbackReq p
    e).nvw = p.nvw ∧ (fallbackReq p e).numVfs = p.numVfs ∧ (fallbackReq p e).lastGen = p.lastGen ∧ (fallbackReq p e).kvp =
    p.kvp ∧ (fallbackReq p e).mgt = p.mgt ∧ (fallbackReq p e).i3c = p.i3c := by
  unfold fallbackReq; (repeat' split) <;> (simp_all; done)
@[simp] theorem applyPolicy_keeps (p : Pkg) (e : Nat) : (applyPolicy p e).pins = p.pins ∧ (applyPolicy p e).tick = p.tick ∧
    (applyPolicy p e).glb = p.glb ∧ (applyPolicy p e).arrays = p.arrays ∧ (applyPolicy p e).ldr = p.ldr ∧ (applyPolicy p
    e).nvw = p.nvw ∧ (applyPolicy p e).numVfs = p.numVfs ∧ (applyPolicy p e).lastGen = p.lastGen ∧ (applyPolicy p e).kvp =
    p.kvp ∧ (applyPolicy p e).mgt = p.mgt ∧ (applyPolicy p e).i3c = p.i3c := by
  unfold applyPolicy; dsimp only; (repeat' split) <;> (simp_all; done)
@[simp] theorem retireReq_keeps (p : Pkg) (e : Nat) : (retireReq p e).pins = p.pins ∧ (retireReq p e).tick = p.tick ∧
    (retireReq p e).glb = p.glb ∧ (retireReq p e).arrays = p.arrays ∧ (retireReq p e).ldr = p.ldr ∧ (retireReq p e).nvw =
    p.nvw ∧ (retireReq p e).numVfs = p.numVfs ∧ (retireReq p e).lastGen = p.lastGen ∧ (retireReq p e).kvp = p.kvp ∧ (retireReq
    p e).mgt = p.mgt ∧ (retireReq p e).i3c = p.i3c := by
  simp [retireReq]
@[simp] theorem noteDenied_keeps (p : Pkg) (status : Nat) : (noteDenied p status).pins = p.pins ∧ (noteDenied p status).tick =
    p.tick ∧ (noteDenied p status).glb = p.glb ∧ (noteDenied p status).scn = p.scn ∧ (noteDenied p status).arrays = p.arrays ∧
    (noteDenied p status).ldr = p.ldr ∧ (noteDenied p status).pens = p.pens ∧ (noteDenied p status).nvw = p.nvw ∧ (noteDenied
    p status).ctxs = p.ctxs ∧ (noteDenied p status).numVfs = p.numVfs ∧ (noteDenied p status).reqs = p.reqs ∧ (noteDenied p
    status).lastGen = p.lastGen ∧ (noteDenied p status).kvp = p.kvp ∧ (noteDenied p status).fab = p.fab ∧ (noteDenied p
    status).lsh = p.lsh ∧ (noteDenied p status).hnd = p.hnd ∧ (noteDenied p status).mgt = p.mgt ∧ (noteDenied p status).i3c =
    p.i3c ∧ (noteDenied p status).out = p.out ∧ (noteDenied p status).pba = p.pba ∧ (noteDenied p status).freeCtr = p.freeCtr
    := by
  simp [noteDenied]
@[simp] theorem noteDenied_vital (p : Pkg) (status : ℕ) : (noteDenied p status).tick.refclkOk = p.tick.refclkOk ∧ (noteDenied
    p status).tick.phaseLocked = p.tick.phaseLocked ∧ (noteDenied p status).tick.holdover = p.tick.holdover := by
  simp [noteDenied]
@[simp] theorem logDenied_keeps (p : Pkg) (c n e status : Nat) : (logDenied p c n e status).pins = p.pins ∧ (logDenied p c n e
    status).tick = p.tick ∧ (logDenied p c n e status).glb = p.glb ∧ (logDenied p c n e status).arrays = p.arrays ∧ (logDenied
    p c n e status).ldr = p.ldr ∧ (logDenied p c n e status).pens = p.pens ∧ (logDenied p c n e status).nvw = p.nvw ∧
    (logDenied p c n e status).numVfs = p.numVfs ∧ (logDenied p c n e status).reqs = p.reqs ∧ (logDenied p c n e
    status).lastGen = p.lastGen ∧ (logDenied p c n e status).rq = p.rq ∧ (logDenied p c n e status).kvp = p.kvp ∧ (logDenied p
    c n e status).fab = p.fab ∧ (logDenied p c n e status).lsh = p.lsh ∧ (logDenied p c n e status).hnd = p.hnd ∧ (logDenied p
    c n e status).mgt = p.mgt ∧ (logDenied p c n e status).i3c = p.i3c ∧ (logDenied p c n e status).freeCtr = p.freeCtr := by
  simp [logDenied]
@[simp] theorem sharePrefix_keeps (p : Pkg) (e : Nat) : (sharePrefix p e).pins = p.pins ∧ (sharePrefix p e).tick = p.tick ∧
    (sharePrefix p e).glb = p.glb ∧ (sharePrefix p e).scn = p.scn ∧ (sharePrefix p e).arrays = p.arrays ∧ (sharePrefix p
    e).ldr = p.ldr ∧ (sharePrefix p e).nvw = p.nvw ∧ (sharePrefix p e).ctxs = p.ctxs ∧ (sharePrefix p e).numVfs = p.numVfs ∧
    (sharePrefix p e).lastGen = p.lastGen ∧ (sharePrefix p e).rq = p.rq ∧ (sharePrefix p e).kvp = p.kvp ∧ (sharePrefix p
    e).fab = p.fab ∧ (sharePrefix p e).lsh = p.lsh ∧ (sharePrefix p e).hnd = p.hnd ∧ (sharePrefix p e).mgt = p.mgt ∧
    (sharePrefix p e).i3c = p.i3c ∧ (sharePrefix p e).out = p.out ∧ (sharePrefix p e).pba = p.pba ∧ (sharePrefix p e).freeCtr
    = p.freeCtr := by
  unfold sharePrefix; dsimp only; repeat' apply And.intro
  all_goals repeat' split
  all_goals try simp only [modReq_keeps, modPool_keeps, startCopy_keeps, id_eq]
  all_goals repeat' (first
    | refine Eq.trans (forAll_pins _ _ _ ?_) ?_
    | refine Eq.trans (forAll_tick _ _ _ ?_) ?_
    | refine Eq.trans (forAll_glb _ _ _ ?_) ?_
    | refine Eq.trans (forAll_scn _ _ _ ?_) ?_
    | refine Eq.trans (forAll_arrays _ _ _ ?_) ?_
    | refine Eq.trans (forAll_ldr _ _ _ ?_) ?_
    | refine Eq.trans (forAll_nvw _ _ _ ?_) ?_
    | refine Eq.trans (forAll_ctxs _ _ _ ?_) ?_
    | refine Eq.trans (forAll_numVfs _ _ _ ?_) ?_
    | refine Eq.trans (forAll_lastGen _ _ _ ?_) ?_
    | refine Eq.trans (forAll_rq _ _ _ ?_) ?_
    | refine Eq.trans (forAll_kvp _ _ _ ?_) ?_
    | refine Eq.trans (forAll_fab _ _ _ ?_) ?_
    | refine Eq.trans (forAll_lsh _ _ _ ?_) ?_
    | refine Eq.trans (forAll_hnd _ _ _ ?_) ?_
    | refine Eq.trans (forAll_mgt _ _ _ ?_) ?_
    | refine Eq.trans (forAll_i3c _ _ _ ?_) ?_
    | refine Eq.trans (forAll_out _ _ _ ?_) ?_
    | refine Eq.trans (forAll_pba _ _ _ ?_) ?_
    | refine Eq.trans (forAll_freeCtr _ _ _ ?_) ?_
    | refine Eq.trans (foldl_pins _ _ _ ?_) ?_
    | refine Eq.trans (foldl_tick _ _ _ ?_) ?_
    | refine Eq.trans (foldl_glb _ _ _ ?_) ?_
    | refine Eq.trans (foldl_scn _ _ _ ?_) ?_
    | refine Eq.trans (foldl_arrays _ _ _ ?_) ?_
    | refine Eq.trans (foldl_ldr _ _ _ ?_) ?_
    | refine Eq.trans (foldl_nvw _ _ _ ?_) ?_
    | refine Eq.trans (foldl_ctxs _ _ _ ?_) ?_
    | refine Eq.trans (foldl_numVfs _ _ _ ?_) ?_
    | refine Eq.trans (foldl_lastGen _ _ _ ?_) ?_
    | refine Eq.trans (foldl_rq _ _ _ ?_) ?_
    | refine Eq.trans (foldl_kvp _ _ _ ?_) ?_
    | refine Eq.trans (foldl_fab _ _ _ ?_) ?_
    | refine Eq.trans (foldl_lsh _ _ _ ?_) ?_
    | refine Eq.trans (foldl_hnd _ _ _ ?_) ?_
    | refine Eq.trans (foldl_mgt _ _ _ ?_) ?_
    | refine Eq.trans (foldl_i3c _ _ _ ?_) ?_
    | refine Eq.trans (foldl_out _ _ _ ?_) ?_
    | refine Eq.trans (foldl_pba _ _ _ ?_) ?_
    | refine Eq.trans (foldl_freeCtr _ _ _ ?_) ?_
    | refine Eq.trans (foldlP_pins _ _ _ ?_) ?_
    | refine Eq.trans (foldlP_tick _ _ _ ?_) ?_
    | refine Eq.trans (foldlP_glb _ _ _ ?_) ?_
    | refine Eq.trans (foldlP_scn _ _ _ ?_) ?_
    | refine Eq.trans (foldlP_arrays _ _ _ ?_) ?_
    | refine Eq.trans (foldlP_ldr _ _ _ ?_) ?_
    | refine Eq.trans (foldlP_nvw _ _ _ ?_) ?_
    | refine Eq.trans (foldlP_ctxs _ _ _ ?_) ?_
    | refine Eq.trans (foldlP_numVfs _ _ _ ?_) ?_
    | refine Eq.trans (foldlP_lastGen _ _ _ ?_) ?_
    | refine Eq.trans (foldlP_rq _ _ _ ?_) ?_
    | refine Eq.trans (foldlP_kvp _ _ _ ?_) ?_
    | refine Eq.trans (foldlP_fab _ _ _ ?_) ?_
    | refine Eq.trans (foldlP_lsh _ _ _ ?_) ?_
    | refine Eq.trans (foldlP_hnd _ _ _ ?_) ?_
    | refine Eq.trans (foldlP_mgt _ _ _ ?_) ?_
    | refine Eq.trans (foldlP_i3c _ _ _ ?_) ?_
    | refine Eq.trans (foldlP_out _ _ _ ?_) ?_
    | refine Eq.trans (foldlP_pba _ _ _ ?_) ?_
    | refine Eq.trans (foldlP_freeCtr _ _ _ ?_) ?_)
  all_goals try intro q x
  all_goals try dsimp only
  all_goals repeat' split
  all_goals first | rfl | (simp_all; done)
@[simp] theorem decideAdmit_keeps (p : Pkg) (e : Nat) : (decideAdmit p e).pins = p.pins ∧ (decideAdmit p e).tick = p.tick ∧
    (decideAdmit p e).glb = p.glb ∧ (decideAdmit p e).arrays = p.arrays ∧ (decideAdmit p e).ldr = p.ldr ∧ (decideAdmit p
    e).nvw = p.nvw ∧ (decideAdmit p e).numVfs = p.numVfs ∧ (decideAdmit p e).lastGen = p.lastGen ∧ (decideAdmit p e).kvp =
    p.kvp ∧ (decideAdmit p e).lsh = p.lsh ∧ (decideAdmit p e).mgt = p.mgt ∧ (decideAdmit p e).i3c = p.i3c := by
  unfold decideAdmit; dsimp only; (repeat' split) <;> (simp_all; done)
@[simp] theorem modFab_keeps (p : Pkg) (f : Fab → Fab) : (modFab p f).pins = p.pins ∧ (modFab p f).tick = p.tick ∧ (modFab p
    f).glb = p.glb ∧ (modFab p f).scn = p.scn ∧ (modFab p f).arrays = p.arrays ∧ (modFab p f).ldr = p.ldr ∧ (modFab p f).pens
    = p.pens ∧ (modFab p f).nvw = p.nvw ∧ (modFab p f).ctxs = p.ctxs ∧ (modFab p f).numVfs = p.numVfs ∧ (modFab p f).reqs =
    p.reqs ∧ (modFab p f).lastGen = p.lastGen ∧ (modFab p f).rq = p.rq ∧ (modFab p f).kvp = p.kvp ∧ (modFab p f).lsh = p.lsh ∧
    (modFab p f).hnd = p.hnd ∧ (modFab p f).mgt = p.mgt ∧ (modFab p f).i3c = p.i3c ∧ (modFab p f).out = p.out ∧ (modFab p
    f).pba = p.pba ∧ (modFab p f).freeCtr = p.freeCtr := by
  simp [modFab]
@[simp] theorem modPort_keeps (p : Pkg) (n : Nat) (f : Port → Port) : (modPort p n f).pins = p.pins ∧ (modPort p n f).tick =
    p.tick ∧ (modPort p n f).glb = p.glb ∧ (modPort p n f).scn = p.scn ∧ (modPort p n f).arrays = p.arrays ∧ (modPort p n
    f).ldr = p.ldr ∧ (modPort p n f).pens = p.pens ∧ (modPort p n f).nvw = p.nvw ∧ (modPort p n f).ctxs = p.ctxs ∧ (modPort p
    n f).numVfs = p.numVfs ∧ (modPort p n f).reqs = p.reqs ∧ (modPort p n f).lastGen = p.lastGen ∧ (modPort p n f).rq = p.rq ∧
    (modPort p n f).kvp = p.kvp ∧ (modPort p n f).lsh = p.lsh ∧ (modPort p n f).hnd = p.hnd ∧ (modPort p n f).mgt = p.mgt ∧
    (modPort p n f).i3c = p.i3c ∧ (modPort p n f).out = p.out ∧ (modPort p n f).pba = p.pba ∧ (modPort p n f).freeCtr =
    p.freeCtr := by
  simp [modPort]
@[simp] theorem modPort_vital (p : Pkg) (n : ℕ) (f : Port → Port) : (modPort p n f).tick.refclkOk = p.tick.refclkOk ∧ (modPort
    p n f).tick.phaseLocked = p.tick.phaseLocked ∧ (modPort p n f).tick.holdover = p.tick.holdover := by
  simp [modPort]
@[simp] theorem modLane_keeps (p : Pkg) (n : Nat) (f : Lane → Lane) : (modLane p n f).pins = p.pins ∧ (modLane p n f).tick =
    p.tick ∧ (modLane p n f).glb = p.glb ∧ (modLane p n f).scn = p.scn ∧ (modLane p n f).arrays = p.arrays ∧ (modLane p n
    f).ldr = p.ldr ∧ (modLane p n f).pens = p.pens ∧ (modLane p n f).nvw = p.nvw ∧ (modLane p n f).ctxs = p.ctxs ∧ (modLane p
    n f).numVfs = p.numVfs ∧ (modLane p n f).reqs = p.reqs ∧ (modLane p n f).lastGen = p.lastGen ∧ (modLane p n f).rq = p.rq ∧
    (modLane p n f).kvp = p.kvp ∧ (modLane p n f).lsh = p.lsh ∧ (modLane p n f).hnd = p.hnd ∧ (modLane p n f).mgt = p.mgt ∧
    (modLane p n f).i3c = p.i3c ∧ (modLane p n f).out = p.out ∧ (modLane p n f).pba = p.pba ∧ (modLane p n f).freeCtr =
    p.freeCtr := by
  simp [modLane]
@[simp] theorem modLane_vital (p : Pkg) (n : ℕ) (f : Lane → Lane) : (modLane p n f).tick.refclkOk = p.tick.refclkOk ∧ (modLane
    p n f).tick.phaseLocked = p.tick.phaseLocked ∧ (modLane p n f).tick.holdover = p.tick.holdover := by
  simp [modLane]
@[simp] theorem modSrc_keeps (p : Pkg) (n : Nat) (f : SrcSeq → SrcSeq) : (modSrc p n f).pins = p.pins ∧ (modSrc p n f).tick =
    p.tick ∧ (modSrc p n f).glb = p.glb ∧ (modSrc p n f).scn = p.scn ∧ (modSrc p n f).arrays = p.arrays ∧ (modSrc p n f).ldr =
    p.ldr ∧ (modSrc p n f).pens = p.pens ∧ (modSrc p n f).nvw = p.nvw ∧ (modSrc p n f).ctxs = p.ctxs ∧ (modSrc p n f).numVfs =
    p.numVfs ∧ (modSrc p n f).reqs = p.reqs ∧ (modSrc p n f).lastGen = p.lastGen ∧ (modSrc p n f).rq = p.rq ∧ (modSrc p n
    f).kvp = p.kvp ∧ (modSrc p n f).lsh = p.lsh ∧ (modSrc p n f).hnd = p.hnd ∧ (modSrc p n f).mgt = p.mgt ∧ (modSrc p n f).i3c
    = p.i3c ∧ (modSrc p n f).out = p.out ∧ (modSrc p n f).pba = p.pba ∧ (modSrc p n f).freeCtr = p.freeCtr := by
  simp [modSrc]
@[simp] theorem modSrc_vital (p : Pkg) (n : ℕ) (f : SrcSeq → SrcSeq) : (modSrc p n f).tick.refclkOk = p.tick.refclkOk ∧
    (modSrc p n f).tick.phaseLocked = p.tick.phaseLocked ∧ (modSrc p n f).tick.holdover = p.tick.holdover := by
  simp [modSrc]
@[simp] theorem txFlit_keeps (p : Pkg) (n : ℕ) (nack : Bool) (f : SentFlit) : (txFlit p n nack f).pins = p.pins ∧ (txFlit p n
    nack f).tick = p.tick ∧ (txFlit p n nack f).glb = p.glb ∧ (txFlit p n nack f).scn = p.scn ∧ (txFlit p n nack f).arrays =
    p.arrays ∧ (txFlit p n nack f).ldr = p.ldr ∧ (txFlit p n nack f).pens = p.pens ∧ (txFlit p n nack f).nvw = p.nvw ∧ (txFlit
    p n nack f).ctxs = p.ctxs ∧ (txFlit p n nack f).numVfs = p.numVfs ∧ (txFlit p n nack f).reqs = p.reqs ∧ (txFlit p n nack
    f).lastGen = p.lastGen ∧ (txFlit p n nack f).rq = p.rq ∧ (txFlit p n nack f).kvp = p.kvp ∧ (txFlit p n nack f).lsh = p.lsh
    ∧ (txFlit p n nack f).hnd = p.hnd ∧ (txFlit p n nack f).mgt = p.mgt ∧ (txFlit p n nack f).i3c = p.i3c ∧ (txFlit p n nack
    f).freeCtr = p.freeCtr := by
  simp [txFlit]
@[simp] theorem txIdle_keeps (p : Pkg) (n : ℕ) (nack : Bool) : (txIdle p n nack).pins = p.pins ∧ (txIdle p n nack).tick =
    p.tick ∧ (txIdle p n nack).glb = p.glb ∧ (txIdle p n nack).scn = p.scn ∧ (txIdle p n nack).arrays = p.arrays ∧ (txIdle p n
    nack).ldr = p.ldr ∧ (txIdle p n nack).pens = p.pens ∧ (txIdle p n nack).nvw = p.nvw ∧ (txIdle p n nack).ctxs = p.ctxs ∧
    (txIdle p n nack).numVfs = p.numVfs ∧ (txIdle p n nack).reqs = p.reqs ∧ (txIdle p n nack).lastGen = p.lastGen ∧ (txIdle p
    n nack).rq = p.rq ∧ (txIdle p n nack).kvp = p.kvp ∧ (txIdle p n nack).lsh = p.lsh ∧ (txIdle p n nack).hnd = p.hnd ∧
    (txIdle p n nack).mgt = p.mgt ∧ (txIdle p n nack).i3c = p.i3c ∧ (txIdle p n nack).freeCtr = p.freeCtr := by
  simp [txIdle]
@[simp] theorem txIdle_vital (p : Pkg) (n : ℕ) (nack : Bool) : (txIdle p n nack).tick.refclkOk = p.tick.refclkOk ∧ (txIdle p n
    nack).tick.phaseLocked = p.tick.phaseLocked ∧ (txIdle p n nack).tick.holdover = p.tick.holdover := by
  simp [txIdle]
@[simp] theorem payCredits_keeps (p : Pkg) (n : ℕ) : (payCredits p n).pins = p.pins ∧ (payCredits p n).tick = p.tick ∧
    (payCredits p n).glb = p.glb ∧ (payCredits p n).scn = p.scn ∧ (payCredits p n).arrays = p.arrays ∧ (payCredits p n).ldr =
    p.ldr ∧ (payCredits p n).pens = p.pens ∧ (payCredits p n).nvw = p.nvw ∧ (payCredits p n).ctxs = p.ctxs ∧ (payCredits p
    n).numVfs = p.numVfs ∧ (payCredits p n).reqs = p.reqs ∧ (payCredits p n).lastGen = p.lastGen ∧ (payCredits p n).rq = p.rq
    ∧ (payCredits p n).kvp = p.kvp ∧ (payCredits p n).lsh = p.lsh ∧ (payCredits p n).hnd = p.hnd ∧ (payCredits p n).mgt =
    p.mgt ∧ (payCredits p n).i3c = p.i3c ∧ (payCredits p n).freeCtr = p.freeCtr := by
  simp [payCredits]
@[simp] theorem newFlit_keeps (p : Pkg) (n : ℕ) (kind : ℕ) (vc : ℕ) (payload : Bytes) (pkt : Option Bytes) : (newFlit p n kind
    vc payload pkt).pins = p.pins ∧ (newFlit p n kind vc payload pkt).tick = p.tick ∧ (newFlit p n kind vc payload pkt).glb =
    p.glb ∧ (newFlit p n kind vc payload pkt).scn = p.scn ∧ (newFlit p n kind vc payload pkt).arrays = p.arrays ∧ (newFlit p n
    kind vc payload pkt).ldr = p.ldr ∧ (newFlit p n kind vc payload pkt).pens = p.pens ∧ (newFlit p n kind vc payload pkt).nvw
    = p.nvw ∧ (newFlit p n kind vc payload pkt).ctxs = p.ctxs ∧ (newFlit p n kind vc payload pkt).numVfs = p.numVfs ∧ (newFlit
    p n kind vc payload pkt).reqs = p.reqs ∧ (newFlit p n kind vc payload pkt).lastGen = p.lastGen ∧ (newFlit p n kind vc
    payload pkt).rq = p.rq ∧ (newFlit p n kind vc payload pkt).kvp = p.kvp ∧ (newFlit p n kind vc payload pkt).lsh = p.lsh ∧
    (newFlit p n kind vc payload pkt).hnd = p.hnd ∧ (newFlit p n kind vc payload pkt).mgt = p.mgt ∧ (newFlit p n kind vc
    payload pkt).i3c = p.i3c ∧ (newFlit p n kind vc payload pkt).freeCtr = p.freeCtr := by
  simp [newFlit]
@[simp] theorem newFlit_vital (p : Pkg) (n : ℕ) (kind : ℕ) (vc : ℕ) (payload : Bytes) (pkt : Option Bytes) : (newFlit p n kind
    vc payload pkt).glb.ready = p.glb.ready ∧ (newFlit p n kind vc payload pkt).glb.selfTestDone = p.glb.selfTestDone ∧
    (newFlit p n kind vc payload pkt).glb.fwFault = p.glb.fwFault := by
  simp [newFlit]
@[simp] theorem drainControls_keeps (p : Pkg) (n : ℕ) : (drainControls p n).pins = p.pins ∧ (drainControls p n).tick = p.tick
    ∧ (drainControls p n).glb = p.glb ∧ (drainControls p n).scn = p.scn ∧ (drainControls p n).arrays = p.arrays ∧
    (drainControls p n).ldr = p.ldr ∧ (drainControls p n).pens = p.pens ∧ (drainControls p n).nvw = p.nvw ∧ (drainControls p
    n).ctxs = p.ctxs ∧ (drainControls p n).numVfs = p.numVfs ∧ (drainControls p n).reqs = p.reqs ∧ (drainControls p n).lastGen
    = p.lastGen ∧ (drainControls p n).rq = p.rq ∧ (drainControls p n).kvp = p.kvp ∧ (drainControls p n).lsh = p.lsh ∧
    (drainControls p n).hnd = p.hnd ∧ (drainControls p n).mgt = p.mgt ∧ (drainControls p n).i3c = p.i3c ∧ (drainControls p
    n).freeCtr = p.freeCtr := by
  simp [drainControls]
@[simp] theorem sendControl_keeps (p : Pkg) (n : ℕ) (rec : Bytes) : (sendControl p n rec).pins = p.pins ∧ (sendControl p n
    rec).tick = p.tick ∧ (sendControl p n rec).glb = p.glb ∧ (sendControl p n rec).scn = p.scn ∧ (sendControl p n rec).arrays
    = p.arrays ∧ (sendControl p n rec).ldr = p.ldr ∧ (sendControl p n rec).pens = p.pens ∧ (sendControl p n rec).nvw = p.nvw ∧
    (sendControl p n rec).ctxs = p.ctxs ∧ (sendControl p n rec).numVfs = p.numVfs ∧ (sendControl p n rec).reqs = p.reqs ∧
    (sendControl p n rec).lastGen = p.lastGen ∧ (sendControl p n rec).rq = p.rq ∧ (sendControl p n rec).kvp = p.kvp ∧
    (sendControl p n rec).lsh = p.lsh ∧ (sendControl p n rec).hnd = p.hnd ∧ (sendControl p n rec).mgt = p.mgt ∧ (sendControl p
    n rec).i3c = p.i3c ∧ (sendControl p n rec).freeCtr = p.freeCtr := by
  simp [sendControl]
@[simp] theorem sendSome_keeps (p : Pkg) (n : ℕ) (b : Bytes) : (sendSome p n b).1.pins = p.pins ∧ (sendSome p n b).1.tick =
    p.tick ∧ (sendSome p n b).1.glb = p.glb ∧ (sendSome p n b).1.scn = p.scn ∧ (sendSome p n b).1.arrays = p.arrays ∧
    (sendSome p n b).1.ldr = p.ldr ∧ (sendSome p n b).1.pens = p.pens ∧ (sendSome p n b).1.nvw = p.nvw ∧ (sendSome p n
    b).1.ctxs = p.ctxs ∧ (sendSome p n b).1.numVfs = p.numVfs ∧ (sendSome p n b).1.reqs = p.reqs ∧ (sendSome p n b).1.lastGen
    = p.lastGen ∧ (sendSome p n b).1.rq = p.rq ∧ (sendSome p n b).1.kvp = p.kvp ∧ (sendSome p n b).1.lsh = p.lsh ∧ (sendSome p
    n b).1.hnd = p.hnd ∧ (sendSome p n b).1.mgt = p.mgt ∧ (sendSome p n b).1.i3c = p.i3c ∧ (sendSome p n b).1.freeCtr =
    p.freeCtr := by
  simp [sendSome]
@[simp] theorem sendSome_vital (p : Pkg) (n : ℕ) (b : Bytes) : (sendSome p n b).1.tick.refclkOk = p.tick.refclkOk ∧ (sendSome
    p n b).1.tick.phaseLocked = p.tick.phaseLocked ∧ (sendSome p n b).1.tick.holdover = p.tick.holdover := by
  simp [sendSome]
@[simp] theorem drainPort_keeps (p : Pkg) (n : Nat) : (drainPort p n).pins = p.pins ∧ (drainPort p n).tick = p.tick ∧
    (drainPort p n).glb = p.glb ∧ (drainPort p n).scn = p.scn ∧ (drainPort p n).arrays = p.arrays ∧ (drainPort p n).ldr =
    p.ldr ∧ (drainPort p n).pens = p.pens ∧ (drainPort p n).nvw = p.nvw ∧ (drainPort p n).ctxs = p.ctxs ∧ (drainPort p
    n).numVfs = p.numVfs ∧ (drainPort p n).reqs = p.reqs ∧ (drainPort p n).lastGen = p.lastGen ∧ (drainPort p n).rq = p.rq ∧
    (drainPort p n).kvp = p.kvp ∧ (drainPort p n).lsh = p.lsh ∧ (drainPort p n).hnd = p.hnd ∧ (drainPort p n).mgt = p.mgt ∧
    (drainPort p n).i3c = p.i3c ∧ (drainPort p n).freeCtr = p.freeCtr := by
  unfold drainPort
  simp only [modPort_keeps]
  refine ⟨?_, ?_, ?_, ?_, ?_, ?_, ?_, ?_, ?_, ?_, ?_, ?_, ?_, ?_, ?_, ?_, ?_, ?_, ?_⟩
  all_goals
    first
    | rw [foldlP_pins] | rw [foldlP_tick] | rw [foldlP_glb] | rw [foldlP_scn] | rw [foldlP_arrays] | rw [foldlP_ldr] | rw [foldlP_pens]
    | rw [foldlP_nvw] | rw [foldlP_ctxs] | rw [foldlP_numVfs] | rw [foldlP_reqs] | rw [foldlP_lastGen] | rw [foldlP_rq] | rw [foldlP_kvp]
    | rw [foldlP_lsh] | rw [foldlP_hnd] | rw [foldlP_mgt] | rw [foldlP_i3c] | rw [foldlP_freeCtr]
    · exact (by simp)
    · rintro ⟨q, l, h⟩ x
      have hs := sendSome_keeps q n x
      dsimp only
      split
      · rfl
      · split <;> simp_all
@[simp] theorem combineAt_keeps (p : Pkg) (n : ℕ) (b0 : Bytes) : ∀ q, combineAt p n b0 = some q → q.pins = p.pins ∧ q.tick =
    p.tick ∧ q.glb = p.glb ∧ q.scn = p.scn ∧ q.arrays = p.arrays ∧ q.ldr = p.ldr ∧ q.pens = p.pens ∧ q.nvw = p.nvw ∧ q.ctxs =
    p.ctxs ∧ q.numVfs = p.numVfs ∧ q.reqs = p.reqs ∧ q.lastGen = p.lastGen ∧ q.rq = p.rq ∧ q.kvp = p.kvp ∧ q.lsh = p.lsh ∧
    q.hnd = p.hnd ∧ q.mgt = p.mgt ∧ q.i3c = p.i3c ∧ q.out = p.out ∧ q.pba = p.pba ∧ q.freeCtr = p.freeCtr := by
  unfold combineAt; dsimp only; (repeat' split) <;> (simp_all; done)
@[simp] theorem combineAt_vital (p : Pkg) (n : ℕ) (b0 : Bytes) : ∀ q, combineAt p n b0 = some q → q.tick.refclkOk =
    p.tick.refclkOk ∧ q.tick.phaseLocked = p.tick.phaseLocked ∧ q.tick.holdover = p.tick.holdover := by
  unfold combineAt; dsimp only; (repeat' split) <;> (simp_all; done)
@[simp] theorem putPort_keeps (p : Pkg) (n : Nat) (b : Bytes) : (putPort p n b).pins = p.pins ∧ (putPort p n b).tick = p.tick
    ∧ (putPort p n b).glb = p.glb ∧ (putPort p n b).scn = p.scn ∧ (putPort p n b).arrays = p.arrays ∧ (putPort p n b).ldr =
    p.ldr ∧ (putPort p n b).pens = p.pens ∧ (putPort p n b).nvw = p.nvw ∧ (putPort p n b).ctxs = p.ctxs ∧ (putPort p n
    b).numVfs = p.numVfs ∧ (putPort p n b).reqs = p.reqs ∧ (putPort p n b).lastGen = p.lastGen ∧ (putPort p n b).rq = p.rq ∧
    (putPort p n b).kvp = p.kvp ∧ (putPort p n b).lsh = p.lsh ∧ (putPort p n b).hnd = p.hnd ∧ (putPort p n b).mgt = p.mgt ∧
    (putPort p n b).i3c = p.i3c ∧ (putPort p n b).freeCtr = p.freeCtr := by
  unfold putPort
  split
  · rename_i q h
    have hc := combineAt_keeps p n b q h
    simp_all
  · simp
@[simp] theorem noteWay_keeps (p : Pkg) (inPort : ℕ) (h : Hdr) : (noteWay p inPort h).pins = p.pins ∧ (noteWay p inPort
    h).tick = p.tick ∧ (noteWay p inPort h).glb = p.glb ∧ (noteWay p inPort h).scn = p.scn ∧ (noteWay p inPort h).arrays =
    p.arrays ∧ (noteWay p inPort h).ldr = p.ldr ∧ (noteWay p inPort h).pens = p.pens ∧ (noteWay p inPort h).nvw = p.nvw ∧
    (noteWay p inPort h).ctxs = p.ctxs ∧ (noteWay p inPort h).numVfs = p.numVfs ∧ (noteWay p inPort h).reqs = p.reqs ∧
    (noteWay p inPort h).lastGen = p.lastGen ∧ (noteWay p inPort h).rq = p.rq ∧ (noteWay p inPort h).kvp = p.kvp ∧ (noteWay p
    inPort h).lsh = p.lsh ∧ (noteWay p inPort h).hnd = p.hnd ∧ (noteWay p inPort h).mgt = p.mgt ∧ (noteWay p inPort h).i3c =
    p.i3c ∧ (noteWay p inPort h).out = p.out ∧ (noteWay p inPort h).pba = p.pba ∧ (noteWay p inPort h).freeCtr = p.freeCtr :=
    by
  simp [noteWay]
@[simp] theorem routeBytes_keeps (p : Pkg) (inPort : ℕ) (b : Bytes) : (routeBytes p inPort b).pins = p.pins ∧ (routeBytes p
    inPort b).tick = p.tick ∧ (routeBytes p inPort b).glb = p.glb ∧ (routeBytes p inPort b).scn = p.scn ∧ (routeBytes p inPort
    b).arrays = p.arrays ∧ (routeBytes p inPort b).ldr = p.ldr ∧ (routeBytes p inPort b).pens = p.pens ∧ (routeBytes p inPort
    b).nvw = p.nvw ∧ (routeBytes p inPort b).ctxs = p.ctxs ∧ (routeBytes p inPort b).numVfs = p.numVfs ∧ (routeBytes p inPort
    b).reqs = p.reqs ∧ (routeBytes p inPort b).lastGen = p.lastGen ∧ (routeBytes p inPort b).rq = p.rq ∧ (routeBytes p inPort
    b).kvp = p.kvp ∧ (routeBytes p inPort b).lsh = p.lsh ∧ (routeBytes p inPort b).hnd = p.hnd ∧ (routeBytes p inPort b).mgt =
    p.mgt ∧ (routeBytes p inPort b).i3c = p.i3c ∧ (routeBytes p inPort b).freeCtr = p.freeCtr := by
  unfold routeBytes; dsimp only; (repeat' split) <;> (simp_all; done)
@[simp] theorem route_keeps (p : Pkg) (inPort : Nat) (k : Pkt) : (route p inPort k).pins = p.pins ∧ (route p inPort k).tick =
    p.tick ∧ (route p inPort k).glb = p.glb ∧ (route p inPort k).scn = p.scn ∧ (route p inPort k).arrays = p.arrays ∧ (route p
    inPort k).ldr = p.ldr ∧ (route p inPort k).pens = p.pens ∧ (route p inPort k).nvw = p.nvw ∧ (route p inPort k).ctxs =
    p.ctxs ∧ (route p inPort k).numVfs = p.numVfs ∧ (route p inPort k).reqs = p.reqs ∧ (route p inPort k).lastGen = p.lastGen
    ∧ (route p inPort k).rq = p.rq ∧ (route p inPort k).kvp = p.kvp ∧ (route p inPort k).lsh = p.lsh ∧ (route p inPort k).hnd
    = p.hnd ∧ (route p inPort k).mgt = p.mgt ∧ (route p inPort k).i3c = p.i3c ∧ (route p inPort k).freeCtr = p.freeCtr := by
  unfold route; (repeat' split) <;> (simp_all; done)
@[simp] theorem route_vital (p : Pkg) (inPort : ℕ) (k : Pkt) : (route p inPort k).tick.refclkOk = p.tick.refclkOk ∧ (route p
    inPort k).tick.phaseLocked = p.tick.phaseLocked ∧ (route p inPort k).tick.holdover = p.tick.holdover := by
  simp [route]
@[simp] theorem issueOne_keeps (p : Pkg) (by_ : Issuer) (cacheable : Bool) (k : Pkt) : (issueOne p by_ cacheable k).pins =
    p.pins ∧ (issueOne p by_ cacheable k).tick = p.tick ∧ (issueOne p by_ cacheable k).glb = p.glb ∧ (issueOne p by_ cacheable
    k).scn = p.scn ∧ (issueOne p by_ cacheable k).arrays = p.arrays ∧ (issueOne p by_ cacheable k).ldr = p.ldr ∧ (issueOne p
    by_ cacheable k).pens = p.pens ∧ (issueOne p by_ cacheable k).nvw = p.nvw ∧ (issueOne p by_ cacheable k).ctxs = p.ctxs ∧
    (issueOne p by_ cacheable k).numVfs = p.numVfs ∧ (issueOne p by_ cacheable k).reqs = p.reqs ∧ (issueOne p by_ cacheable
    k).lastGen = p.lastGen ∧ (issueOne p by_ cacheable k).rq = p.rq ∧ (issueOne p by_ cacheable k).kvp = p.kvp ∧ (issueOne p
    by_ cacheable k).lsh = p.lsh ∧ (issueOne p by_ cacheable k).hnd = p.hnd ∧ (issueOne p by_ cacheable k).mgt = p.mgt ∧
    (issueOne p by_ cacheable k).i3c = p.i3c ∧ (issueOne p by_ cacheable k).freeCtr = p.freeCtr := by
  simp [issueOne]
@[simp] theorem pumpWaiters_keeps (p : Pkg) : (pumpWaiters p).pins = p.pins ∧ (pumpWaiters p).tick = p.tick ∧ (pumpWaiters
    p).glb = p.glb ∧ (pumpWaiters p).scn = p.scn ∧ (pumpWaiters p).arrays = p.arrays ∧ (pumpWaiters p).ldr = p.ldr ∧
    (pumpWaiters p).pens = p.pens ∧ (pumpWaiters p).nvw = p.nvw ∧ (pumpWaiters p).ctxs = p.ctxs ∧ (pumpWaiters p).numVfs =
    p.numVfs ∧ (pumpWaiters p).reqs = p.reqs ∧ (pumpWaiters p).lastGen = p.lastGen ∧ (pumpWaiters p).rq = p.rq ∧ (pumpWaiters
    p).kvp = p.kvp ∧ (pumpWaiters p).lsh = p.lsh ∧ (pumpWaiters p).hnd = p.hnd ∧ (pumpWaiters p).mgt = p.mgt ∧ (pumpWaiters
    p).i3c = p.i3c ∧ (pumpWaiters p).freeCtr = p.freeCtr := by
  unfold pumpWaiters; dsimp only; repeat' apply And.intro
  all_goals repeat' split
  all_goals try simp only [modFab_keeps, issueOne_keeps, id_eq]
  all_goals repeat' (first
    | refine Eq.trans (forAll_pins _ _ _ ?_) ?_
    | refine Eq.trans (forAll_tick _ _ _ ?_) ?_
    | refine Eq.trans (forAll_glb _ _ _ ?_) ?_
    | refine Eq.trans (forAll_scn _ _ _ ?_) ?_
    | refine Eq.trans (forAll_arrays _ _ _ ?_) ?_
    | refine Eq.trans (forAll_ldr _ _ _ ?_) ?_
    | refine Eq.trans (forAll_pens _ _ _ ?_) ?_
    | refine Eq.trans (forAll_nvw _ _ _ ?_) ?_
    | refine Eq.trans (forAll_ctxs _ _ _ ?_) ?_
    | refine Eq.trans (forAll_numVfs _ _ _ ?_) ?_
    | refine Eq.trans (forAll_reqs _ _ _ ?_) ?_
    | refine Eq.trans (forAll_lastGen _ _ _ ?_) ?_
    | refine Eq.trans (forAll_rq _ _ _ ?_) ?_
    | refine Eq.trans (forAll_kvp _ _ _ ?_) ?_
    | refine Eq.trans (forAll_lsh _ _ _ ?_) ?_
    | refine Eq.trans (forAll_hnd _ _ _ ?_) ?_
    | refine Eq.trans (forAll_mgt _ _ _ ?_) ?_
    | refine Eq.trans (forAll_i3c _ _ _ ?_) ?_
    | refine Eq.trans (forAll_freeCtr _ _ _ ?_) ?_
    | refine Eq.trans (foldl_pins _ _ _ ?_) ?_
    | refine Eq.trans (foldl_tick _ _ _ ?_) ?_
    | refine Eq.trans (foldl_glb _ _ _ ?_) ?_
    | refine Eq.trans (foldl_scn _ _ _ ?_) ?_
    | refine Eq.trans (foldl_arrays _ _ _ ?_) ?_
    | refine Eq.trans (foldl_ldr _ _ _ ?_) ?_
    | refine Eq.trans (foldl_pens _ _ _ ?_) ?_
    | refine Eq.trans (foldl_nvw _ _ _ ?_) ?_
    | refine Eq.trans (foldl_ctxs _ _ _ ?_) ?_
    | refine Eq.trans (foldl_numVfs _ _ _ ?_) ?_
    | refine Eq.trans (foldl_reqs _ _ _ ?_) ?_
    | refine Eq.trans (foldl_lastGen _ _ _ ?_) ?_
    | refine Eq.trans (foldl_rq _ _ _ ?_) ?_
    | refine Eq.trans (foldl_kvp _ _ _ ?_) ?_
    | refine Eq.trans (foldl_lsh _ _ _ ?_) ?_
    | refine Eq.trans (foldl_hnd _ _ _ ?_) ?_
    | refine Eq.trans (foldl_mgt _ _ _ ?_) ?_
    | refine Eq.trans (foldl_i3c _ _ _ ?_) ?_
    | refine Eq.trans (foldl_freeCtr _ _ _ ?_) ?_
    | refine Eq.trans (foldlP_pins _ _ _ ?_) ?_
    | refine Eq.trans (foldlP_tick _ _ _ ?_) ?_
    | refine Eq.trans (foldlP_glb _ _ _ ?_) ?_
    | refine Eq.trans (foldlP_scn _ _ _ ?_) ?_
    | refine Eq.trans (foldlP_arrays _ _ _ ?_) ?_
    | refine Eq.trans (foldlP_ldr _ _ _ ?_) ?_
    | refine Eq.trans (foldlP_pens _ _ _ ?_) ?_
    | refine Eq.trans (foldlP_nvw _ _ _ ?_) ?_
    | refine Eq.trans (foldlP_ctxs _ _ _ ?_) ?_
    | refine Eq.trans (foldlP_numVfs _ _ _ ?_) ?_
    | refine Eq.trans (foldlP_reqs _ _ _ ?_) ?_
    | refine Eq.trans (foldlP_lastGen _ _ _ ?_) ?_
    | refine Eq.trans (foldlP_rq _ _ _ ?_) ?_
    | refine Eq.trans (foldlP_kvp _ _ _ ?_) ?_
    | refine Eq.trans (foldlP_lsh _ _ _ ?_) ?_
    | refine Eq.trans (foldlP_hnd _ _ _ ?_) ?_
    | refine Eq.trans (foldlP_mgt _ _ _ ?_) ?_
    | refine Eq.trans (foldlP_i3c _ _ _ ?_) ?_
    | refine Eq.trans (foldlP_freeCtr _ _ _ ?_) ?_)
  all_goals try intro q x
  all_goals try dsimp only
  all_goals repeat' split
  all_goals first | rfl | (simp_all; done)
@[simp] theorem issue_keeps (p : Pkg) (by_ : Issuer) (cacheable : Bool) (ks : List Pkt) : (issue p by_ cacheable ks).pins =
    p.pins ∧ (issue p by_ cacheable ks).tick = p.tick ∧ (issue p by_ cacheable ks).glb = p.glb ∧ (issue p by_ cacheable
    ks).scn = p.scn ∧ (issue p by_ cacheable ks).arrays = p.arrays ∧ (issue p by_ cacheable ks).ldr = p.ldr ∧ (issue p by_
    cacheable ks).pens = p.pens ∧ (issue p by_ cacheable ks).nvw = p.nvw ∧ (issue p by_ cacheable ks).ctxs = p.ctxs ∧ (issue p
    by_ cacheable ks).numVfs = p.numVfs ∧ (issue p by_ cacheable ks).reqs = p.reqs ∧ (issue p by_ cacheable ks).lastGen =
    p.lastGen ∧ (issue p by_ cacheable ks).rq = p.rq ∧ (issue p by_ cacheable ks).kvp = p.kvp ∧ (issue p by_ cacheable ks).lsh
    = p.lsh ∧ (issue p by_ cacheable ks).hnd = p.hnd ∧ (issue p by_ cacheable ks).mgt = p.mgt ∧ (issue p by_ cacheable ks).i3c
    = p.i3c ∧ (issue p by_ cacheable ks).freeCtr = p.freeCtr := by
  simp [issue]
@[simp] theorem fwStore_keeps (p : Pkg) (srcId chip addr : Nat) (flag : Bool) (data : Bytes) : (fwStore p srcId chip addr flag
    data).pins = p.pins ∧ (fwStore p srcId chip addr flag data).tick = p.tick ∧ (fwStore p srcId chip addr flag data).glb =
    p.glb ∧ (fwStore p srcId chip addr flag data).scn = p.scn ∧ (fwStore p srcId chip addr flag data).arrays = p.arrays ∧
    (fwStore p srcId chip addr flag data).ldr = p.ldr ∧ (fwStore p srcId chip addr flag data).pens = p.pens ∧ (fwStore p srcId
    chip addr flag data).nvw = p.nvw ∧ (fwStore p srcId chip addr flag data).ctxs = p.ctxs ∧ (fwStore p srcId chip addr flag
    data).numVfs = p.numVfs ∧ (fwStore p srcId chip addr flag data).reqs = p.reqs ∧ (fwStore p srcId chip addr flag
    data).lastGen = p.lastGen ∧ (fwStore p srcId chip addr flag data).rq = p.rq ∧ (fwStore p srcId chip addr flag data).kvp =
    p.kvp ∧ (fwStore p srcId chip addr flag data).lsh = p.lsh ∧ (fwStore p srcId chip addr flag data).hnd = p.hnd ∧ (fwStore p
    srcId chip addr flag data).mgt = p.mgt ∧ (fwStore p srcId chip addr flag data).i3c = p.i3c ∧ (fwStore p srcId chip addr
    flag data).freeCtr = p.freeCtr := by
  simp [fwStore]
@[simp] theorem fwStore_vital (p : Pkg) (srcId : ℕ) (chip : ℕ) (addr : ℕ) (flag : Bool) (data : Bytes) : (fwStore p srcId chip
    addr flag data).glb.ready = p.glb.ready ∧ (fwStore p srcId chip addr flag data).glb.selfTestDone = p.glb.selfTestDone ∧
    (fwStore p srcId chip addr flag data).glb.fwFault = p.glb.fwFault := by
  simp [fwStore]
@[simp] theorem rrcTouch_keeps (p : Pkg) (a : ℕ) (len : ℕ) : (rrcTouch p a len).pins = p.pins ∧ (rrcTouch p a len).tick =
    p.tick ∧ (rrcTouch p a len).glb = p.glb ∧ (rrcTouch p a len).scn = p.scn ∧ (rrcTouch p a len).arrays = p.arrays ∧
    (rrcTouch p a len).ldr = p.ldr ∧ (rrcTouch p a len).pens = p.pens ∧ (rrcTouch p a len).nvw = p.nvw ∧ (rrcTouch p a
    len).ctxs = p.ctxs ∧ (rrcTouch p a len).numVfs = p.numVfs ∧ (rrcTouch p a len).reqs = p.reqs ∧ (rrcTouch p a len).lastGen
    = p.lastGen ∧ (rrcTouch p a len).rq = p.rq ∧ (rrcTouch p a len).kvp = p.kvp ∧ (rrcTouch p a len).lsh = p.lsh ∧ (rrcTouch p
    a len).hnd = p.hnd ∧ (rrcTouch p a len).mgt = p.mgt ∧ (rrcTouch p a len).i3c = p.i3c ∧ (rrcTouch p a len).out = p.out ∧
    (rrcTouch p a len).pba = p.pba ∧ (rrcTouch p a len).freeCtr = p.freeCtr := by
  simp [rrcTouch]
@[simp] theorem rrcTouch_vital (p : Pkg) (a : ℕ) (len : ℕ) : (rrcTouch p a len).tick.refclkOk = p.tick.refclkOk ∧ (rrcTouch p
    a len).tick.phaseLocked = p.tick.phaseLocked ∧ (rrcTouch p a len).tick.holdover = p.tick.holdover := by
  simp [rrcTouch]
@[simp] theorem setRead_keeps (p : Pkg) (a : ℕ) (d : Option (Option Bytes)) : (setRead p a d).pins = p.pins ∧ (setRead p a
    d).tick = p.tick ∧ (setRead p a d).glb = p.glb ∧ (setRead p a d).scn = p.scn ∧ (setRead p a d).arrays = p.arrays ∧
    (setRead p a d).ldr = p.ldr ∧ (setRead p a d).pens = p.pens ∧ (setRead p a d).nvw = p.nvw ∧ (setRead p a d).ctxs = p.ctxs
    ∧ (setRead p a d).numVfs = p.numVfs ∧ (setRead p a d).reqs = p.reqs ∧ (setRead p a d).lastGen = p.lastGen ∧ (setRead p a
    d).rq = p.rq ∧ (setRead p a d).kvp = p.kvp ∧ (setRead p a d).lsh = p.lsh ∧ (setRead p a d).hnd = p.hnd ∧ (setRead p a
    d).mgt = p.mgt ∧ (setRead p a d).i3c = p.i3c ∧ (setRead p a d).out = p.out ∧ (setRead p a d).pba = p.pba ∧ (setRead p a
    d).freeCtr = p.freeCtr := by
  simp [setRead]
@[simp] theorem fwLoad_keeps (p : Pkg) (cacheable : Bool) (chip : ℕ) (window : ℕ) (off : ℕ) (len : ℕ) : (fwLoad p cacheable
    chip window off len).pins = p.pins ∧ (fwLoad p cacheable chip window off len).tick = p.tick ∧ (fwLoad p cacheable chip
    window off len).glb = p.glb ∧ (fwLoad p cacheable chip window off len).scn = p.scn ∧ (fwLoad p cacheable chip window off
    len).arrays = p.arrays ∧ (fwLoad p cacheable chip window off len).ldr = p.ldr ∧ (fwLoad p cacheable chip window off
    len).pens = p.pens ∧ (fwLoad p cacheable chip window off len).nvw = p.nvw ∧ (fwLoad p cacheable chip window off len).ctxs
    = p.ctxs ∧ (fwLoad p cacheable chip window off len).numVfs = p.numVfs ∧ (fwLoad p cacheable chip window off len).reqs =
    p.reqs ∧ (fwLoad p cacheable chip window off len).lastGen = p.lastGen ∧ (fwLoad p cacheable chip window off len).rq = p.rq
    ∧ (fwLoad p cacheable chip window off len).kvp = p.kvp ∧ (fwLoad p cacheable chip window off len).lsh = p.lsh ∧ (fwLoad p
    cacheable chip window off len).hnd = p.hnd ∧ (fwLoad p cacheable chip window off len).mgt = p.mgt ∧ (fwLoad p cacheable
    chip window off len).i3c = p.i3c ∧ (fwLoad p cacheable chip window off len).freeCtr = p.freeCtr := by
  unfold fwLoad; dsimp only; (repeat' split) <;> (simp_all; done)
@[simp] theorem fwLoads_keeps (p : Pkg) (cacheable : Bool) (chip : ℕ) (window : ℕ) (off : ℕ) (len : ℕ) : (fwLoads p cacheable
    chip window off len).pins = p.pins ∧ (fwLoads p cacheable chip window off len).tick = p.tick ∧ (fwLoads p cacheable chip
    window off len).glb = p.glb ∧ (fwLoads p cacheable chip window off len).scn = p.scn ∧ (fwLoads p cacheable chip window off
    len).arrays = p.arrays ∧ (fwLoads p cacheable chip window off len).ldr = p.ldr ∧ (fwLoads p cacheable chip window off
    len).pens = p.pens ∧ (fwLoads p cacheable chip window off len).nvw = p.nvw ∧ (fwLoads p cacheable chip window off
    len).ctxs = p.ctxs ∧ (fwLoads p cacheable chip window off len).numVfs = p.numVfs ∧ (fwLoads p cacheable chip window off
    len).reqs = p.reqs ∧ (fwLoads p cacheable chip window off len).lastGen = p.lastGen ∧ (fwLoads p cacheable chip window off
    len).rq = p.rq ∧ (fwLoads p cacheable chip window off len).kvp = p.kvp ∧ (fwLoads p cacheable chip window off len).lsh =
    p.lsh ∧ (fwLoads p cacheable chip window off len).hnd = p.hnd ∧ (fwLoads p cacheable chip window off len).mgt = p.mgt ∧
    (fwLoads p cacheable chip window off len).i3c = p.i3c ∧ (fwLoads p cacheable chip window off len).freeCtr = p.freeCtr :=
    by
  simp [fwLoads]
@[simp] theorem dropReads_keeps (p : Pkg) (chip : ℕ) (window : ℕ) (off : ℕ) (len : ℕ) : (dropReads p chip window off len).pins
    = p.pins ∧ (dropReads p chip window off len).tick = p.tick ∧ (dropReads p chip window off len).glb = p.glb ∧ (dropReads p
    chip window off len).scn = p.scn ∧ (dropReads p chip window off len).arrays = p.arrays ∧ (dropReads p chip window off
    len).ldr = p.ldr ∧ (dropReads p chip window off len).pens = p.pens ∧ (dropReads p chip window off len).nvw = p.nvw ∧
    (dropReads p chip window off len).ctxs = p.ctxs ∧ (dropReads p chip window off len).numVfs = p.numVfs ∧ (dropReads p chip
    window off len).reqs = p.reqs ∧ (dropReads p chip window off len).lastGen = p.lastGen ∧ (dropReads p chip window off
    len).rq = p.rq ∧ (dropReads p chip window off len).kvp = p.kvp ∧ (dropReads p chip window off len).lsh = p.lsh ∧
    (dropReads p chip window off len).hnd = p.hnd ∧ (dropReads p chip window off len).mgt = p.mgt ∧ (dropReads p chip window
    off len).i3c = p.i3c ∧ (dropReads p chip window off len).out = p.out ∧ (dropReads p chip window off len).pba = p.pba ∧
    (dropReads p chip window off len).freeCtr = p.freeCtr := by
  simp [dropReads]
@[simp] theorem takeArray_keeps (p : Pkg) (n a : Nat) : (takeArray p n a).pins = p.pins ∧ (takeArray p n a).tick = p.tick ∧
    (takeArray p n a).glb = p.glb ∧ (takeArray p n a).scn = p.scn ∧ (takeArray p n a).ldr = p.ldr ∧ (takeArray p n a).nvw =
    p.nvw ∧ (takeArray p n a).ctxs = p.ctxs ∧ (takeArray p n a).numVfs = p.numVfs ∧ (takeArray p n a).reqs = p.reqs ∧
    (takeArray p n a).lastGen = p.lastGen ∧ (takeArray p n a).rq = p.rq ∧ (takeArray p n a).kvp = p.kvp ∧ (takeArray p n
    a).fab = p.fab ∧ (takeArray p n a).lsh = p.lsh ∧ (takeArray p n a).hnd = p.hnd ∧ (takeArray p n a).mgt = p.mgt ∧
    (takeArray p n a).i3c = p.i3c ∧ (takeArray p n a).out = p.out ∧ (takeArray p n a).pba = p.pba ∧ (takeArray p n a).freeCtr
    = p.freeCtr := by
  simp [takeArray]
@[simp] theorem fillSet_keeps (p : Pkg) (n : Nat) (z0 : Nat) : (fillSet p n z0).pins = p.pins ∧ (fillSet p n z0).tick = p.tick
    ∧ (fillSet p n z0).glb = p.glb ∧ (fillSet p n z0).scn = p.scn ∧ (fillSet p n z0).ldr = p.ldr ∧ (fillSet p n z0).nvw =
    p.nvw ∧ (fillSet p n z0).ctxs = p.ctxs ∧ (fillSet p n z0).numVfs = p.numVfs ∧ (fillSet p n z0).reqs = p.reqs ∧ (fillSet p
    n z0).lastGen = p.lastGen ∧ (fillSet p n z0).rq = p.rq ∧ (fillSet p n z0).kvp = p.kvp ∧ (fillSet p n z0).fab = p.fab ∧
    (fillSet p n z0).lsh = p.lsh ∧ (fillSet p n z0).hnd = p.hnd ∧ (fillSet p n z0).mgt = p.mgt ∧ (fillSet p n z0).i3c = p.i3c
    ∧ (fillSet p n z0).out = p.out ∧ (fillSet p n z0).pba = p.pba ∧ (fillSet p n z0).freeCtr = p.freeCtr := by
  fun_induction fillSet p n z0 <;> (simp_all; done)
@[simp] theorem freeSet_keeps (p : Pkg) (n : Nat) : (freeSet p n).pins = p.pins ∧ (freeSet p n).tick = p.tick ∧ (freeSet p
    n).glb = p.glb ∧ (freeSet p n).scn = p.scn ∧ (freeSet p n).ldr = p.ldr ∧ (freeSet p n).pens = p.pens ∧ (freeSet p n).nvw =
    p.nvw ∧ (freeSet p n).ctxs = p.ctxs ∧ (freeSet p n).numVfs = p.numVfs ∧ (freeSet p n).reqs = p.reqs ∧ (freeSet p
    n).lastGen = p.lastGen ∧ (freeSet p n).rq = p.rq ∧ (freeSet p n).kvp = p.kvp ∧ (freeSet p n).fab = p.fab ∧ (freeSet p
    n).lsh = p.lsh ∧ (freeSet p n).hnd = p.hnd ∧ (freeSet p n).mgt = p.mgt ∧ (freeSet p n).i3c = p.i3c ∧ (freeSet p n).out =
    p.out ∧ (freeSet p n).pba = p.pba ∧ (freeSet p n).freeCtr = p.freeCtr := by
  simp [freeSet]
@[simp] theorem predHere_keeps (p : Pkg) (n : ℕ) : (predHere p n).pins = p.pins ∧ (predHere p n).tick = p.tick ∧ (predHere p
    n).glb = p.glb ∧ (predHere p n).scn = p.scn ∧ (predHere p n).arrays = p.arrays ∧ (predHere p n).ldr = p.ldr ∧ (predHere p
    n).nvw = p.nvw ∧ (predHere p n).ctxs = p.ctxs ∧ (predHere p n).numVfs = p.numVfs ∧ (predHere p n).reqs = p.reqs ∧
    (predHere p n).lastGen = p.lastGen ∧ (predHere p n).rq = p.rq ∧ (predHere p n).kvp = p.kvp ∧ (predHere p n).fab = p.fab ∧
    (predHere p n).lsh = p.lsh ∧ (predHere p n).hnd = p.hnd ∧ (predHere p n).mgt = p.mgt ∧ (predHere p n).i3c = p.i3c ∧
    (predHere p n).out = p.out ∧ (predHere p n).pba = p.pba ∧ (predHere p n).freeCtr = p.freeCtr := by
  unfold predHere; (repeat' split) <;> (simp_all; done)
@[simp] theorem predNext_keeps (p : Pkg) (n : ℕ) : (predNext p n).pins = p.pins ∧ (predNext p n).tick = p.tick ∧ (predNext p
    n).glb = p.glb ∧ (predNext p n).scn = p.scn ∧ (predNext p n).arrays = p.arrays ∧ (predNext p n).ldr = p.ldr ∧ (predNext p
    n).nvw = p.nvw ∧ (predNext p n).ctxs = p.ctxs ∧ (predNext p n).numVfs = p.numVfs ∧ (predNext p n).reqs = p.reqs ∧
    (predNext p n).lastGen = p.lastGen ∧ (predNext p n).rq = p.rq ∧ (predNext p n).kvp = p.kvp ∧ (predNext p n).fab = p.fab ∧
    (predNext p n).lsh = p.lsh ∧ (predNext p n).hnd = p.hnd ∧ (predNext p n).mgt = p.mgt ∧ (predNext p n).i3c = p.i3c ∧
    (predNext p n).out = p.out ∧ (predNext p n).pba = p.pba ∧ (predNext p n).freeCtr = p.freeCtr := by
  unfold predNext; (repeat' split) <;> (simp_all; done)
@[simp] theorem refreshPred_keeps (p : Pkg) (n : Nat) : (refreshPred p n).pins = p.pins ∧ (refreshPred p n).tick = p.tick ∧
    (refreshPred p n).glb = p.glb ∧ (refreshPred p n).scn = p.scn ∧ (refreshPred p n).arrays = p.arrays ∧ (refreshPred p
    n).ldr = p.ldr ∧ (refreshPred p n).nvw = p.nvw ∧ (refreshPred p n).ctxs = p.ctxs ∧ (refreshPred p n).numVfs = p.numVfs ∧
    (refreshPred p n).reqs = p.reqs ∧ (refreshPred p n).lastGen = p.lastGen ∧ (refreshPred p n).rq = p.rq ∧ (refreshPred p
    n).kvp = p.kvp ∧ (refreshPred p n).fab = p.fab ∧ (refreshPred p n).lsh = p.lsh ∧ (refreshPred p n).hnd = p.hnd ∧
    (refreshPred p n).mgt = p.mgt ∧ (refreshPred p n).i3c = p.i3c ∧ (refreshPred p n).out = p.out ∧ (refreshPred p n).pba =
    p.pba ∧ (refreshPred p n).freeCtr = p.freeCtr := by
  unfold refreshPred; (repeat' split) <;> (simp_all; done)
@[simp] theorem fillOne_keeps (p : Pkg) (n : ℕ) : (fillOne p n).pins = p.pins ∧ (fillOne p n).tick = p.tick ∧ (fillOne p
    n).glb = p.glb ∧ (fillOne p n).scn = p.scn ∧ (fillOne p n).ldr = p.ldr ∧ (fillOne p n).nvw = p.nvw ∧ (fillOne p n).ctxs =
    p.ctxs ∧ (fillOne p n).numVfs = p.numVfs ∧ (fillOne p n).reqs = p.reqs ∧ (fillOne p n).lastGen = p.lastGen ∧ (fillOne p
    n).rq = p.rq ∧ (fillOne p n).kvp = p.kvp ∧ (fillOne p n).fab = p.fab ∧ (fillOne p n).lsh = p.lsh ∧ (fillOne p n).hnd =
    p.hnd ∧ (fillOne p n).mgt = p.mgt ∧ (fillOne p n).i3c = p.i3c ∧ (fillOne p n).out = p.out ∧ (fillOne p n).pba = p.pba ∧
    (fillOne p n).freeCtr = p.freeCtr := by
  simp [fillOne]
@[simp] theorem fillShort_keeps (p : Pkg) : (fillShort p).pins = p.pins ∧ (fillShort p).tick = p.tick ∧ (fillShort p).glb =
    p.glb ∧ (fillShort p).scn = p.scn ∧ (fillShort p).ldr = p.ldr ∧ (fillShort p).nvw = p.nvw ∧ (fillShort p).ctxs = p.ctxs ∧
    (fillShort p).numVfs = p.numVfs ∧ (fillShort p).reqs = p.reqs ∧ (fillShort p).lastGen = p.lastGen ∧ (fillShort p).rq =
    p.rq ∧ (fillShort p).kvp = p.kvp ∧ (fillShort p).fab = p.fab ∧ (fillShort p).lsh = p.lsh ∧ (fillShort p).hnd = p.hnd ∧
    (fillShort p).mgt = p.mgt ∧ (fillShort p).i3c = p.i3c ∧ (fillShort p).out = p.out ∧ (fillShort p).pba = p.pba ∧ (fillShort
    p).freeCtr = p.freeCtr := by
  simp [fillShort]
@[simp] theorem fillShort_vital (p : Pkg) : (fillShort p).glb.ready = p.glb.ready ∧ (fillShort p).glb.selfTestDone =
    p.glb.selfTestDone ∧ (fillShort p).glb.fwFault = p.glb.fwFault := by
  simp [fillShort]
@[simp] theorem placePen_keeps (p : Pkg) (n : Nat) : (placePen p n).pins = p.pins ∧ (placePen p n).tick = p.tick ∧ (placePen p
    n).glb = p.glb ∧ (placePen p n).arrays = p.arrays ∧ (placePen p n).ldr = p.ldr ∧ (placePen p n).nvw = p.nvw ∧ (placePen p
    n).ctxs = p.ctxs ∧ (placePen p n).numVfs = p.numVfs ∧ (placePen p n).reqs = p.reqs ∧ (placePen p n).lastGen = p.lastGen ∧
    (placePen p n).rq = p.rq ∧ (placePen p n).kvp = p.kvp ∧ (placePen p n).fab = p.fab ∧ (placePen p n).lsh = p.lsh ∧
    (placePen p n).hnd = p.hnd ∧ (placePen p n).mgt = p.mgt ∧ (placePen p n).i3c = p.i3c ∧ (placePen p n).freeCtr = p.freeCtr
    := by
  unfold placePen; (repeat' split) <;> (simp_all; done)
@[simp] theorem endBinding_keeps (p : Pkg) (c : Nat) : (endBinding p c).pins = p.pins ∧ (endBinding p c).tick = p.tick ∧
    (endBinding p c).glb = p.glb ∧ (endBinding p c).scn = p.scn ∧ (endBinding p c).arrays = p.arrays ∧ (endBinding p c).ldr =
    p.ldr ∧ (endBinding p c).nvw = p.nvw ∧ (endBinding p c).numVfs = p.numVfs ∧ (endBinding p c).reqs = p.reqs ∧ (endBinding p
    c).lastGen = p.lastGen ∧ (endBinding p c).rq = p.rq ∧ (endBinding p c).kvp = p.kvp ∧ (endBinding p c).lsh = p.lsh ∧
    (endBinding p c).mgt = p.mgt ∧ (endBinding p c).i3c = p.i3c ∧ (endBinding p c).out = p.out ∧ (endBinding p c).pba = p.pba
    ∧ (endBinding p c).freeCtr = p.freeCtr := by
  simp [endBinding]
@[simp] theorem newCount_keeps (p : Pkg) (n : ℕ) : (newCount p n).pins = p.pins ∧ (newCount p n).tick = p.tick ∧ (newCount p
    n).glb = p.glb ∧ (newCount p n).scn = p.scn ∧ (newCount p n).arrays = p.arrays ∧ (newCount p n).ldr = p.ldr ∧ (newCount p
    n).nvw = p.nvw ∧ (newCount p n).ctxs = p.ctxs ∧ (newCount p n).numVfs = p.numVfs ∧ (newCount p n).reqs = p.reqs ∧
    (newCount p n).lastGen = p.lastGen ∧ (newCount p n).rq = p.rq ∧ (newCount p n).kvp = p.kvp ∧ (newCount p n).fab = p.fab ∧
    (newCount p n).lsh = p.lsh ∧ (newCount p n).hnd = p.hnd ∧ (newCount p n).mgt = p.mgt ∧ (newCount p n).i3c = p.i3c ∧
    (newCount p n).out = p.out ∧ (newCount p n).pba = p.pba ∧ (newCount p n).freeCtr = p.freeCtr := by
  simp [newCount]
@[simp] theorem penTo_keeps (p : Pkg) (n st : Nat) : (penTo p n st).pins = p.pins ∧ (penTo p n st).tick = p.tick ∧ (penTo p n
    st).glb = p.glb ∧ (penTo p n st).arrays = p.arrays ∧ (penTo p n st).ldr = p.ldr ∧ (penTo p n st).nvw = p.nvw ∧ (penTo p n
    st).numVfs = p.numVfs ∧ (penTo p n st).lastGen = p.lastGen ∧ (penTo p n st).rq = p.rq ∧ (penTo p n st).kvp = p.kvp ∧
    (penTo p n st).mgt = p.mgt ∧ (penTo p n st).i3c = p.i3c := by
  simp [penTo]
@[simp] theorem haltArrays_keeps (p : Pkg) (n : Nat) : (haltArrays p n).pins = p.pins ∧ (haltArrays p n).tick = p.tick ∧
    (haltArrays p n).glb = p.glb ∧ (haltArrays p n).scn = p.scn ∧ (haltArrays p n).ldr = p.ldr ∧ (haltArrays p n).pens =
    p.pens ∧ (haltArrays p n).nvw = p.nvw ∧ (haltArrays p n).ctxs = p.ctxs ∧ (haltArrays p n).numVfs = p.numVfs ∧ (haltArrays
    p n).reqs = p.reqs ∧ (haltArrays p n).lastGen = p.lastGen ∧ (haltArrays p n).rq = p.rq ∧ (haltArrays p n).kvp = p.kvp ∧
    (haltArrays p n).fab = p.fab ∧ (haltArrays p n).lsh = p.lsh ∧ (haltArrays p n).hnd = p.hnd ∧ (haltArrays p n).mgt = p.mgt
    ∧ (haltArrays p n).i3c = p.i3c ∧ (haltArrays p n).out = p.out ∧ (haltArrays p n).pba = p.pba ∧ (haltArrays p n).freeCtr =
    p.freeCtr := by
  simp [haltArrays]
@[simp] theorem dropStep_keeps (p : Pkg) (n : Nat) : (dropStep p n).pins = p.pins ∧ (dropStep p n).tick = p.tick ∧ (dropStep p
    n).glb = p.glb ∧ (dropStep p n).ldr = p.ldr ∧ (dropStep p n).numVfs = p.numVfs ∧ (dropStep p n).lastGen = p.lastGen ∧
    (dropStep p n).kvp = p.kvp ∧ (dropStep p n).mgt = p.mgt ∧ (dropStep p n).i3c = p.i3c := by
  unfold dropStep; (repeat' split) <;> (simp_all; done)
@[simp] theorem sendNotices_keeps (p : Pkg) (n reason : Nat) : (sendNotices p n reason).pins = p.pins ∧ (sendNotices p n
    reason).tick = p.tick ∧ (sendNotices p n reason).glb = p.glb ∧ (sendNotices p n reason).scn = p.scn ∧ (sendNotices p n
    reason).arrays = p.arrays ∧ (sendNotices p n reason).ldr = p.ldr ∧ (sendNotices p n reason).pens = p.pens ∧ (sendNotices p
    n reason).nvw = p.nvw ∧ (sendNotices p n reason).ctxs = p.ctxs ∧ (sendNotices p n reason).numVfs = p.numVfs ∧ (sendNotices
    p n reason).reqs = p.reqs ∧ (sendNotices p n reason).lastGen = p.lastGen ∧ (sendNotices p n reason).rq = p.rq ∧
    (sendNotices p n reason).kvp = p.kvp ∧ (sendNotices p n reason).lsh = p.lsh ∧ (sendNotices p n reason).hnd = p.hnd ∧
    (sendNotices p n reason).mgt = p.mgt ∧ (sendNotices p n reason).i3c = p.i3c ∧ (sendNotices p n reason).freeCtr = p.freeCtr
    := by
  simp [sendNotices]
@[simp] theorem fenceGroupOp_keeps (p : Pkg) (n reason chip : Nat) : (fenceGroupOp p n reason chip).pins = p.pins ∧
    (fenceGroupOp p n reason chip).tick = p.tick ∧ (fenceGroupOp p n reason chip).glb = p.glb ∧ (fenceGroupOp p n reason
    chip).ldr = p.ldr ∧ (fenceGroupOp p n reason chip).numVfs = p.numVfs ∧ (fenceGroupOp p n reason chip).lastGen = p.lastGen
    ∧ (fenceGroupOp p n reason chip).kvp = p.kvp ∧ (fenceGroupOp p n reason chip).mgt = p.mgt ∧ (fenceGroupOp p n reason
    chip).i3c = p.i3c := by
  simp [fenceGroupOp]
@[simp] theorem faultStep_keeps (p : Pkg) (n : Nat) : (faultStep p n).pins = p.pins ∧ (faultStep p n).tick = p.tick ∧
    (faultStep p n).glb = p.glb ∧ (faultStep p n).ldr = p.ldr ∧ (faultStep p n).numVfs = p.numVfs ∧ (faultStep p n).lastGen =
    p.lastGen ∧ (faultStep p n).kvp = p.kvp ∧ (faultStep p n).mgt = p.mgt ∧ (faultStep p n).i3c = p.i3c := by
  simp [faultStep]
@[simp] theorem discardPool_keeps (p : Pkg) (n : Nat) : (discardPool p n).pins = p.pins ∧ (discardPool p n).tick = p.tick ∧
    (discardPool p n).glb = p.glb ∧ (discardPool p n).scn = p.scn ∧ (discardPool p n).arrays = p.arrays ∧ (discardPool p
    n).ldr = p.ldr ∧ (discardPool p n).nvw = p.nvw ∧ (discardPool p n).numVfs = p.numVfs ∧ (discardPool p n).lastGen =
    p.lastGen ∧ (discardPool p n).rq = p.rq ∧ (discardPool p n).kvp = p.kvp ∧ (discardPool p n).fab = p.fab ∧ (discardPool p
    n).lsh = p.lsh ∧ (discardPool p n).hnd = p.hnd ∧ (discardPool p n).mgt = p.mgt ∧ (discardPool p n).i3c = p.i3c ∧
    (discardPool p n).out = p.out ∧ (discardPool p n).pba = p.pba ∧ (discardPool p n).freeCtr = p.freeCtr := by
  simp [discardPool]
@[simp] theorem loseBuffers_keeps (p : Pkg) (n : Nat) : (loseBuffers p n).pins = p.pins ∧ (loseBuffers p n).tick = p.tick ∧
    (loseBuffers p n).glb = p.glb ∧ (loseBuffers p n).scn = p.scn ∧ (loseBuffers p n).arrays = p.arrays ∧ (loseBuffers p
    n).ldr = p.ldr ∧ (loseBuffers p n).nvw = p.nvw ∧ (loseBuffers p n).ctxs = p.ctxs ∧ (loseBuffers p n).numVfs = p.numVfs ∧
    (loseBuffers p n).reqs = p.reqs ∧ (loseBuffers p n).lastGen = p.lastGen ∧ (loseBuffers p n).rq = p.rq ∧ (loseBuffers p
    n).kvp = p.kvp ∧ (loseBuffers p n).fab = p.fab ∧ (loseBuffers p n).lsh = p.lsh ∧ (loseBuffers p n).hnd = p.hnd ∧
    (loseBuffers p n).mgt = p.mgt ∧ (loseBuffers p n).i3c = p.i3c ∧ (loseBuffers p n).out = p.out ∧ (loseBuffers p n).pba =
    p.pba := by
  simp [loseBuffers]
@[simp] theorem endAuths_keeps (p : Pkg) : (endAuths p).pins = p.pins ∧ (endAuths p).tick = p.tick ∧ (endAuths p).glb = p.glb
    ∧ (endAuths p).arrays = p.arrays ∧ (endAuths p).ldr = p.ldr ∧ (endAuths p).pens = p.pens ∧ (endAuths p).ctxs = p.ctxs ∧
    (endAuths p).numVfs = p.numVfs ∧ (endAuths p).reqs = p.reqs ∧ (endAuths p).lastGen = p.lastGen ∧ (endAuths p).rq = p.rq ∧
    (endAuths p).kvp = p.kvp ∧ (endAuths p).fab = p.fab ∧ (endAuths p).lsh = p.lsh ∧ (endAuths p).hnd = p.hnd ∧ (endAuths
    p).mgt = p.mgt ∧ (endAuths p).i3c = p.i3c ∧ (endAuths p).out = p.out ∧ (endAuths p).pba = p.pba ∧ (endAuths p).freeCtr =
    p.freeCtr := by
  simp [endAuths]
@[simp] theorem penResetDo_keeps (p : Pkg) (n : ℕ) (cause : ℕ) : (penResetDo p n cause).pins = p.pins ∧ (penResetDo p n
    cause).tick = p.tick ∧ (penResetDo p n cause).glb = p.glb ∧ (penResetDo p n cause).ldr = p.ldr ∧ (penResetDo p n
    cause).numVfs = p.numVfs ∧ (penResetDo p n cause).lastGen = p.lastGen ∧ (penResetDo p n cause).kvp = p.kvp ∧ (penResetDo p
    n cause).mgt = p.mgt ∧ (penResetDo p n cause).i3c = p.i3c := by
  simp [penResetDo]
@[simp] theorem penResetOp_keeps (p : Pkg) (n cause : Nat) : (penResetOp p n cause).pins = p.pins ∧ (penResetOp p n
    cause).tick = p.tick ∧ (penResetOp p n cause).glb = p.glb ∧ (penResetOp p n cause).ldr = p.ldr ∧ (penResetOp p n
    cause).numVfs = p.numVfs ∧ (penResetOp p n cause).lastGen = p.lastGen ∧ (penResetOp p n cause).kvp = p.kvp ∧ (penResetOp p
    n cause).mgt = p.mgt ∧ (penResetOp p n cause).i3c = p.i3c := by
  simp [penResetOp]
@[simp] theorem quarantineOp_keeps (p : Pkg) (a cause : Nat) : (quarantineOp p a cause).pins = p.pins ∧ (quarantineOp p a
    cause).tick = p.tick ∧ (quarantineOp p a cause).glb = p.glb ∧ (quarantineOp p a cause).ldr = p.ldr ∧ (quarantineOp p a
    cause).numVfs = p.numVfs ∧ (quarantineOp p a cause).lastGen = p.lastGen ∧ (quarantineOp p a cause).kvp = p.kvp ∧
    (quarantineOp p a cause).mgt = p.mgt ∧ (quarantineOp p a cause).i3c = p.i3c := by
  simp [quarantineOp]
@[simp] theorem quarantineNow_keeps (p : Pkg) (a : ℕ) (cause : ℕ) : (quarantineNow p a cause).pins = p.pins ∧ (quarantineNow p
    a cause).tick = p.tick ∧ (quarantineNow p a cause).glb = p.glb ∧ (quarantineNow p a cause).ldr = p.ldr ∧ (quarantineNow p
    a cause).numVfs = p.numVfs ∧ (quarantineNow p a cause).lastGen = p.lastGen ∧ (quarantineNow p a cause).kvp = p.kvp ∧
    (quarantineNow p a cause).mgt = p.mgt ∧ (quarantineNow p a cause).i3c = p.i3c := by
  simp [quarantineNow]
@[simp] theorem emptySlotOp_keeps (p : Pkg) (k : Nat) : (emptySlotOp p k).pins = p.pins ∧ (emptySlotOp p k).tick = p.tick ∧
    (emptySlotOp p k).glb = p.glb ∧ (emptySlotOp p k).arrays = p.arrays ∧ (emptySlotOp p k).ldr = p.ldr ∧ (emptySlotOp p
    k).pens = p.pens ∧ (emptySlotOp p k).ctxs = p.ctxs ∧ (emptySlotOp p k).numVfs = p.numVfs ∧ (emptySlotOp p k).reqs = p.reqs
    ∧ (emptySlotOp p k).lastGen = p.lastGen ∧ (emptySlotOp p k).rq = p.rq ∧ (emptySlotOp p k).kvp = p.kvp ∧ (emptySlotOp p
    k).fab = p.fab ∧ (emptySlotOp p k).lsh = p.lsh ∧ (emptySlotOp p k).hnd = p.hnd ∧ (emptySlotOp p k).mgt = p.mgt ∧
    (emptySlotOp p k).i3c = p.i3c ∧ (emptySlotOp p k).freeCtr = p.freeCtr := by
  simp [emptySlotOp]
@[simp] theorem endImprint_keeps (p : Pkg) (i : Imprint) (status : Nat) : (endImprint p i status).pins = p.pins ∧ (endImprint
    p i status).tick = p.tick ∧ (endImprint p i status).glb = p.glb ∧ (endImprint p i status).arrays = p.arrays ∧ (endImprint
    p i status).ldr = p.ldr ∧ (endImprint p i status).pens = p.pens ∧ (endImprint p i status).ctxs = p.ctxs ∧ (endImprint p i
    status).numVfs = p.numVfs ∧ (endImprint p i status).reqs = p.reqs ∧ (endImprint p i status).lastGen = p.lastGen ∧
    (endImprint p i status).rq = p.rq ∧ (endImprint p i status).kvp = p.kvp ∧ (endImprint p i status).fab = p.fab ∧
    (endImprint p i status).lsh = p.lsh ∧ (endImprint p i status).hnd = p.hnd ∧ (endImprint p i status).mgt = p.mgt ∧
    (endImprint p i status).i3c = p.i3c ∧ (endImprint p i status).freeCtr = p.freeCtr := by
  simp [endImprint]
@[simp] theorem resetReq_keeps (p : Pkg) (e : Nat) : (resetReq p e).pins = p.pins ∧ (resetReq p e).tick = p.tick ∧ (resetReq p
    e).glb = p.glb ∧ (resetReq p e).arrays = p.arrays ∧ (resetReq p e).ldr = p.ldr ∧ (resetReq p e).nvw = p.nvw ∧ (resetReq p
    e).numVfs = p.numVfs ∧ (resetReq p e).lastGen = p.lastGen ∧ (resetReq p e).kvp = p.kvp ∧ (resetReq p e).mgt = p.mgt ∧
    (resetReq p e).i3c = p.i3c := by
  simp [resetReq]
@[simp] theorem ctxResetOp_keeps (p : Pkg) (c : Nat) : (ctxResetOp p c).pins = p.pins ∧ (ctxResetOp p c).tick = p.tick ∧
    (ctxResetOp p c).glb = p.glb ∧ (ctxResetOp p c).arrays = p.arrays ∧ (ctxResetOp p c).ldr = p.ldr ∧ (ctxResetOp p c).numVfs
    = p.numVfs ∧ (ctxResetOp p c).lastGen = p.lastGen ∧ (ctxResetOp p c).kvp = p.kvp ∧ (ctxResetOp p c).mgt = p.mgt ∧
    (ctxResetOp p c).i3c = p.i3c := by
  simp [ctxResetOp]
@[simp] theorem warmResetOp_keeps (p : Pkg) (trigger : Nat) : (warmResetOp p trigger).pins = p.pins ∧ (warmResetOp p
    trigger).lastGen = p.lastGen ∧ (warmResetOp p trigger).freeCtr = p.freeCtr := by
  simp [warmResetOp]
@[simp] theorem warmResetOp_vital (p : Pkg) (trigger : ℕ) : (warmResetOp p trigger).tick.refclkOk = p.tick.refclkOk ∧
    (warmResetOp p trigger).tick.phaseLocked = p.tick.phaseLocked ∧ (warmResetOp p trigger).tick.holdover = p.tick.holdover :=
    by
  simp [warmResetOp]
@[simp] theorem logInterrupted_keeps (p : Pkg) (i : Imprint) (s : Slot) : (logInterrupted p i s).pins = p.pins ∧
    (logInterrupted p i s).tick = p.tick ∧ (logInterrupted p i s).glb = p.glb ∧ (logInterrupted p i s).arrays = p.arrays ∧
    (logInterrupted p i s).ldr = p.ldr ∧ (logInterrupted p i s).pens = p.pens ∧ (logInterrupted p i s).nvw = p.nvw ∧
    (logInterrupted p i s).ctxs = p.ctxs ∧ (logInterrupted p i s).numVfs = p.numVfs ∧ (logInterrupted p i s).reqs = p.reqs ∧
    (logInterrupted p i s).lastGen = p.lastGen ∧ (logInterrupted p i s).rq = p.rq ∧ (logInterrupted p i s).kvp = p.kvp ∧
    (logInterrupted p i s).fab = p.fab ∧ (logInterrupted p i s).lsh = p.lsh ∧ (logInterrupted p i s).hnd = p.hnd ∧
    (logInterrupted p i s).mgt = p.mgt ∧ (logInterrupted p i s).i3c = p.i3c ∧ (logInterrupted p i s).freeCtr = p.freeCtr := by
  simp [logInterrupted]
@[simp] theorem coldBase_keeps (p : Pkg) : (coldBase p).pins = p.pins ∧ (coldBase p).freeCtr = p.freeCtr := by
  simp [coldBase]
@[simp] theorem coldResetOp_keeps (p : Pkg) (trigger : Nat) : (coldResetOp p trigger).pins = p.pins ∧ (coldResetOp p
    trigger).freeCtr = p.freeCtr := by
  simp [coldResetOp]
@[simp] theorem fqDone_keeps (p : Pkg) (c : ℕ) (x : FqCmd) (status : ℕ) (data : Bytes) : (fqDone p c x status data).pins =
    p.pins ∧ (fqDone p c x status data).tick = p.tick ∧ (fqDone p c x status data).glb = p.glb ∧ (fqDone p c x status
    data).scn = p.scn ∧ (fqDone p c x status data).arrays = p.arrays ∧ (fqDone p c x status data).ldr = p.ldr ∧ (fqDone p c x
    status data).pens = p.pens ∧ (fqDone p c x status data).nvw = p.nvw ∧ (fqDone p c x status data).ctxs = p.ctxs ∧ (fqDone p
    c x status data).numVfs = p.numVfs ∧ (fqDone p c x status data).reqs = p.reqs ∧ (fqDone p c x status data).lastGen =
    p.lastGen ∧ (fqDone p c x status data).rq = p.rq ∧ (fqDone p c x status data).kvp = p.kvp ∧ (fqDone p c x status data).fab
    = p.fab ∧ (fqDone p c x status data).lsh = p.lsh ∧ (fqDone p c x status data).mgt = p.mgt ∧ (fqDone p c x status data).i3c
    = p.i3c ∧ (fqDone p c x status data).out = p.out ∧ (fqDone p c x status data).pba = p.pba ∧ (fqDone p c x status
    data).freeCtr = p.freeCtr := by
  simp [fqDone]
@[simp] theorem fqEnds_keeps (p : Pkg) (c : ℕ) (i : ℕ) (status : ℕ) (data : Bytes) : (fqEnds p c i status data).pins = p.pins
    ∧ (fqEnds p c i status data).tick = p.tick ∧ (fqEnds p c i status data).glb = p.glb ∧ (fqEnds p c i status data).scn =
    p.scn ∧ (fqEnds p c i status data).arrays = p.arrays ∧ (fqEnds p c i status data).ldr = p.ldr ∧ (fqEnds p c i status
    data).pens = p.pens ∧ (fqEnds p c i status data).nvw = p.nvw ∧ (fqEnds p c i status data).ctxs = p.ctxs ∧ (fqEnds p c i
    status data).numVfs = p.numVfs ∧ (fqEnds p c i status data).reqs = p.reqs ∧ (fqEnds p c i status data).lastGen = p.lastGen
    ∧ (fqEnds p c i status data).rq = p.rq ∧ (fqEnds p c i status data).kvp = p.kvp ∧ (fqEnds p c i status data).fab = p.fab ∧
    (fqEnds p c i status data).lsh = p.lsh ∧ (fqEnds p c i status data).mgt = p.mgt ∧ (fqEnds p c i status data).i3c = p.i3c ∧
    (fqEnds p c i status data).out = p.out ∧ (fqEnds p c i status data).pba = p.pba ∧ (fqEnds p c i status data).freeCtr =
    p.freeCtr := by
  unfold fqEnds; (repeat' split) <;> (simp_all; done)
@[simp] theorem ackAbsorbed_keeps (p : Pkg) (tag status : Nat) : (ackAbsorbed p tag status).pins = p.pins ∧ (ackAbsorbed p tag
    status).tick = p.tick ∧ (ackAbsorbed p tag status).glb = p.glb ∧ (ackAbsorbed p tag status).scn = p.scn ∧ (ackAbsorbed p
    tag status).arrays = p.arrays ∧ (ackAbsorbed p tag status).ldr = p.ldr ∧ (ackAbsorbed p tag status).pens = p.pens ∧
    (ackAbsorbed p tag status).nvw = p.nvw ∧ (ackAbsorbed p tag status).ctxs = p.ctxs ∧ (ackAbsorbed p tag status).numVfs =
    p.numVfs ∧ (ackAbsorbed p tag status).reqs = p.reqs ∧ (ackAbsorbed p tag status).lastGen = p.lastGen ∧ (ackAbsorbed p tag
    status).rq = p.rq ∧ (ackAbsorbed p tag status).kvp = p.kvp ∧ (ackAbsorbed p tag status).lsh = p.lsh ∧ (ackAbsorbed p tag
    status).hnd = p.hnd ∧ (ackAbsorbed p tag status).mgt = p.mgt ∧ (ackAbsorbed p tag status).i3c = p.i3c ∧ (ackAbsorbed p tag
    status).freeCtr = p.freeCtr := by
  unfold ackAbsorbed; (repeat' split) <;> (simp_all; done)
@[simp] theorem tellIssuer_keeps (p : Pkg) (t : Txn) (status : Nat) (data : Bytes) : (tellIssuer p t status data).pins =
    p.pins ∧ (tellIssuer p t status data).tick = p.tick ∧ (tellIssuer p t status data).glb = p.glb ∧ (tellIssuer p t status
    data).scn = p.scn ∧ (tellIssuer p t status data).arrays = p.arrays ∧ (tellIssuer p t status data).ldr = p.ldr ∧
    (tellIssuer p t status data).pens = p.pens ∧ (tellIssuer p t status data).nvw = p.nvw ∧ (tellIssuer p t status data).ctxs
    = p.ctxs ∧ (tellIssuer p t status data).numVfs = p.numVfs ∧ (tellIssuer p t status data).reqs = p.reqs ∧ (tellIssuer p t
    status data).lastGen = p.lastGen ∧ (tellIssuer p t status data).rq = p.rq ∧ (tellIssuer p t status data).kvp = p.kvp ∧
    (tellIssuer p t status data).lsh = p.lsh ∧ (tellIssuer p t status data).mgt = p.mgt ∧ (tellIssuer p t status data).i3c =
    p.i3c ∧ (tellIssuer p t status data).freeCtr = p.freeCtr := by
  unfold tellIssuer; (repeat' split) <;> (simp_all; done)
@[simp] theorem completeTxn_keeps (p : Pkg) (t : Txn) (status : Nat) (data : Bytes) : (completeTxn p t status data).pins =
    p.pins ∧ (completeTxn p t status data).tick = p.tick ∧ (completeTxn p t status data).glb = p.glb ∧ (completeTxn p t status
    data).scn = p.scn ∧ (completeTxn p t status data).arrays = p.arrays ∧ (completeTxn p t status data).ldr = p.ldr ∧
    (completeTxn p t status data).pens = p.pens ∧ (completeTxn p t status data).nvw = p.nvw ∧ (completeTxn p t status
    data).ctxs = p.ctxs ∧ (completeTxn p t status data).numVfs = p.numVfs ∧ (completeTxn p t status data).reqs = p.reqs ∧
    (completeTxn p t status data).lastGen = p.lastGen ∧ (completeTxn p t status data).rq = p.rq ∧ (completeTxn p t status
    data).kvp = p.kvp ∧ (completeTxn p t status data).lsh = p.lsh ∧ (completeTxn p t status data).mgt = p.mgt ∧ (completeTxn p
    t status data).i3c = p.i3c ∧ (completeTxn p t status data).freeCtr = p.freeCtr := by
  simp [completeTxn]
@[simp] theorem staleRx_keeps (p : Pkg) (h : Hdr) : (staleRx p h).pins = p.pins ∧ (staleRx p h).tick = p.tick ∧ (staleRx p
    h).glb = p.glb ∧ (staleRx p h).arrays = p.arrays ∧ (staleRx p h).ldr = p.ldr ∧ (staleRx p h).pens = p.pens ∧ (staleRx p
    h).nvw = p.nvw ∧ (staleRx p h).ctxs = p.ctxs ∧ (staleRx p h).numVfs = p.numVfs ∧ (staleRx p h).reqs = p.reqs ∧ (staleRx p
    h).lastGen = p.lastGen ∧ (staleRx p h).rq = p.rq ∧ (staleRx p h).kvp = p.kvp ∧ (staleRx p h).lsh = p.lsh ∧ (staleRx p
    h).hnd = p.hnd ∧ (staleRx p h).mgt = p.mgt ∧ (staleRx p h).i3c = p.i3c ∧ (staleRx p h).freeCtr = p.freeCtr := by
  simp [staleRx]
@[simp] theorem refuseWaiting_keeps (p : Pkg) : (refuseWaiting p).pins = p.pins ∧ (refuseWaiting p).tick = p.tick ∧
    (refuseWaiting p).glb = p.glb ∧ (refuseWaiting p).arrays = p.arrays ∧ (refuseWaiting p).ldr = p.ldr ∧ (refuseWaiting
    p).pens = p.pens ∧ (refuseWaiting p).nvw = p.nvw ∧ (refuseWaiting p).ctxs = p.ctxs ∧ (refuseWaiting p).numVfs = p.numVfs ∧
    (refuseWaiting p).reqs = p.reqs ∧ (refuseWaiting p).lastGen = p.lastGen ∧ (refuseWaiting p).rq = p.rq ∧ (refuseWaiting
    p).kvp = p.kvp ∧ (refuseWaiting p).lsh = p.lsh ∧ (refuseWaiting p).hnd = p.hnd ∧ (refuseWaiting p).mgt = p.mgt ∧
    (refuseWaiting p).i3c = p.i3c ∧ (refuseWaiting p).freeCtr = p.freeCtr := by
  simp [refuseWaiting]
@[simp] theorem setEpoch_keeps (p : Pkg) (mgr new : Nat) : (setEpoch p mgr new).pins = p.pins ∧ (setEpoch p mgr new).tick =
    p.tick ∧ (setEpoch p mgr new).glb = p.glb ∧ (setEpoch p mgr new).arrays = p.arrays ∧ (setEpoch p mgr new).ldr = p.ldr ∧
    (setEpoch p mgr new).numVfs = p.numVfs ∧ (setEpoch p mgr new).reqs = p.reqs ∧ (setEpoch p mgr new).lastGen = p.lastGen ∧
    (setEpoch p mgr new).rq = p.rq ∧ (setEpoch p mgr new).kvp = p.kvp ∧ (setEpoch p mgr new).lsh = p.lsh ∧ (setEpoch p mgr
    new).i3c = p.i3c ∧ (setEpoch p mgr new).freeCtr = p.freeCtr := by
  simp [setEpoch]
@[simp] theorem setEpoch_vital (p : Pkg) (mgr : ℕ) (new : ℕ) : (setEpoch p mgr new).tick.refclkOk = p.tick.refclkOk ∧
    (setEpoch p mgr new).tick.phaseLocked = p.tick.phaseLocked ∧ (setEpoch p mgr new).tick.holdover = p.tick.holdover := by
  simp [setEpoch]
@[simp] theorem linkSeen_keeps (p : Pkg) (path : Path) : (linkSeen p path).pins = p.pins ∧ (linkSeen p path).tick = p.tick ∧
    (linkSeen p path).glb = p.glb ∧ (linkSeen p path).scn = p.scn ∧ (linkSeen p path).arrays = p.arrays ∧ (linkSeen p
    path).ldr = p.ldr ∧ (linkSeen p path).pens = p.pens ∧ (linkSeen p path).nvw = p.nvw ∧ (linkSeen p path).ctxs = p.ctxs ∧
    (linkSeen p path).numVfs = p.numVfs ∧ (linkSeen p path).reqs = p.reqs ∧ (linkSeen p path).lastGen = p.lastGen ∧ (linkSeen
    p path).rq = p.rq ∧ (linkSeen p path).kvp = p.kvp ∧ (linkSeen p path).fab = p.fab ∧ (linkSeen p path).lsh = p.lsh ∧
    (linkSeen p path).hnd = p.hnd ∧ (linkSeen p path).i3c = p.i3c ∧ (linkSeen p path).out = p.out ∧ (linkSeen p path).pba =
    p.pba ∧ (linkSeen p path).freeCtr = p.freeCtr := by
  unfold linkSeen; (repeat' split) <;> (simp_all; done)
@[simp] theorem mgtReply_keeps (p : Pkg) (c : PendCmd) (status : Nat) (body : Bytes) : (mgtReply p c status body).pins =
    p.pins ∧ (mgtReply p c status body).tick = p.tick ∧ (mgtReply p c status body).glb = p.glb ∧ (mgtReply p c status
    body).scn = p.scn ∧ (mgtReply p c status body).arrays = p.arrays ∧ (mgtReply p c status body).ldr = p.ldr ∧ (mgtReply p c
    status body).pens = p.pens ∧ (mgtReply p c status body).nvw = p.nvw ∧ (mgtReply p c status body).ctxs = p.ctxs ∧ (mgtReply
    p c status body).numVfs = p.numVfs ∧ (mgtReply p c status body).reqs = p.reqs ∧ (mgtReply p c status body).lastGen =
    p.lastGen ∧ (mgtReply p c status body).rq = p.rq ∧ (mgtReply p c status body).kvp = p.kvp ∧ (mgtReply p c status body).lsh
    = p.lsh ∧ (mgtReply p c status body).hnd = p.hnd ∧ (mgtReply p c status body).mgt = p.mgt ∧ (mgtReply p c status
    body).freeCtr = p.freeCtr := by
  unfold mgtReply; (repeat' split) <;> (simp_all; done)
@[simp] theorem mgtRefuse_keeps (p : Pkg) (c : PendCmd) (status : Nat) (body : Bytes) : (mgtRefuse p c status body).pins =
    p.pins ∧ (mgtRefuse p c status body).tick = p.tick ∧ (mgtRefuse p c status body).glb = p.glb ∧ (mgtRefuse p c status
    body).arrays = p.arrays ∧ (mgtRefuse p c status body).ldr = p.ldr ∧ (mgtRefuse p c status body).pens = p.pens ∧ (mgtRefuse
    p c status body).nvw = p.nvw ∧ (mgtRefuse p c status body).ctxs = p.ctxs ∧ (mgtRefuse p c status body).numVfs = p.numVfs ∧
    (mgtRefuse p c status body).reqs = p.reqs ∧ (mgtRefuse p c status body).lastGen = p.lastGen ∧ (mgtRefuse p c status
    body).rq = p.rq ∧ (mgtRefuse p c status body).kvp = p.kvp ∧ (mgtRefuse p c status body).lsh = p.lsh ∧ (mgtRefuse p c
    status body).hnd = p.hnd ∧ (mgtRefuse p c status body).freeCtr = p.freeCtr := by
  simp [mgtRefuse]
@[simp] theorem authFail_keeps (p : Pkg) (c : PendCmd) : (authFail p c).pins = p.pins ∧ (authFail p c).tick = p.tick ∧
    (authFail p c).glb = p.glb ∧ (authFail p c).arrays = p.arrays ∧ (authFail p c).ldr = p.ldr ∧ (authFail p c).pens = p.pens
    ∧ (authFail p c).nvw = p.nvw ∧ (authFail p c).ctxs = p.ctxs ∧ (authFail p c).numVfs = p.numVfs ∧ (authFail p c).reqs =
    p.reqs ∧ (authFail p c).lastGen = p.lastGen ∧ (authFail p c).rq = p.rq ∧ (authFail p c).kvp = p.kvp ∧ (authFail p c).fab =
    p.fab ∧ (authFail p c).lsh = p.lsh ∧ (authFail p c).hnd = p.hnd ∧ (authFail p c).i3c = p.i3c ∧ (authFail p c).freeCtr =
    p.freeCtr :=
    by
  simp [authFail]
@[simp] theorem raiseSeq_keeps (p : Pkg) (path : Path) (msg : Bytes) : (raiseSeq p path msg).pins = p.pins ∧ (raiseSeq p path
    msg).tick = p.tick ∧ (raiseSeq p path msg).glb = p.glb ∧ (raiseSeq p path msg).scn = p.scn ∧ (raiseSeq p path msg).arrays
    = p.arrays ∧ (raiseSeq p path msg).ldr = p.ldr ∧ (raiseSeq p path msg).pens = p.pens ∧ (raiseSeq p path msg).nvw = p.nvw ∧
    (raiseSeq p path msg).ctxs = p.ctxs ∧ (raiseSeq p path msg).numVfs = p.numVfs ∧ (raiseSeq p path msg).reqs = p.reqs ∧
    (raiseSeq p path msg).lastGen = p.lastGen ∧ (raiseSeq p path msg).rq = p.rq ∧ (raiseSeq p path msg).kvp = p.kvp ∧
    (raiseSeq p path msg).fab = p.fab ∧ (raiseSeq p path msg).lsh = p.lsh ∧ (raiseSeq p path msg).hnd = p.hnd ∧ (raiseSeq p
    path msg).i3c = p.i3c ∧ (raiseSeq p path msg).out = p.out ∧ (raiseSeq p path msg).pba = p.pba ∧ (raiseSeq p path
    msg).freeCtr = p.freeCtr := by
  simp [raiseSeq]
@[simp] theorem mgtDone_keeps (p : Pkg) (c : PendCmd) (body : Bytes) : (mgtDone p c body).pins = p.pins ∧ (mgtDone p c
    body).tick = p.tick ∧ (mgtDone p c body).glb = p.glb ∧ (mgtDone p c body).scn = p.scn ∧ (mgtDone p c body).arrays =
    p.arrays ∧ (mgtDone p c body).ldr = p.ldr ∧ (mgtDone p c body).pens = p.pens ∧ (mgtDone p c body).nvw = p.nvw ∧ (mgtDone p
    c body).ctxs = p.ctxs ∧ (mgtDone p c body).numVfs = p.numVfs ∧ (mgtDone p c body).reqs = p.reqs ∧ (mgtDone p c
    body).lastGen = p.lastGen ∧ (mgtDone p c body).rq = p.rq ∧ (mgtDone p c body).kvp = p.kvp ∧ (mgtDone p c body).lsh = p.lsh
    ∧ (mgtDone p c body).hnd = p.hnd ∧ (mgtDone p c body).freeCtr = p.freeCtr := by
  simp [mgtDone]
@[simp] theorem mgtPassed_keeps (p : Pkg) : (mgtPassed p).pins = p.pins ∧ (mgtPassed p).tick = p.tick ∧ (mgtPassed p).glb =
    p.glb ∧ (mgtPassed p).scn = p.scn ∧ (mgtPassed p).arrays = p.arrays ∧ (mgtPassed p).ldr = p.ldr ∧ (mgtPassed p).pens =
    p.pens ∧ (mgtPassed p).nvw = p.nvw ∧ (mgtPassed p).ctxs = p.ctxs ∧ (mgtPassed p).numVfs = p.numVfs ∧ (mgtPassed p).reqs =
    p.reqs ∧ (mgtPassed p).lastGen = p.lastGen ∧ (mgtPassed p).rq = p.rq ∧ (mgtPassed p).kvp = p.kvp ∧ (mgtPassed p).fab =
    p.fab ∧ (mgtPassed p).lsh = p.lsh ∧ (mgtPassed p).hnd = p.hnd ∧ (mgtPassed p).i3c = p.i3c ∧ (mgtPassed p).out = p.out ∧
    (mgtPassed p).pba = p.pba ∧ (mgtPassed p).freeCtr = p.freeCtr := by
  simp [mgtPassed]
@[simp] theorem mgtHold_keeps (p : Pkg) (c : PendCmd) : (mgtHold p c).pins = p.pins ∧ (mgtHold p c).tick = p.tick ∧ (mgtHold p
    c).glb = p.glb ∧ (mgtHold p c).scn = p.scn ∧ (mgtHold p c).arrays = p.arrays ∧ (mgtHold p c).ldr = p.ldr ∧ (mgtHold p
    c).pens = p.pens ∧ (mgtHold p c).nvw = p.nvw ∧ (mgtHold p c).ctxs = p.ctxs ∧ (mgtHold p c).numVfs = p.numVfs ∧ (mgtHold p
    c).reqs = p.reqs ∧ (mgtHold p c).lastGen = p.lastGen ∧ (mgtHold p c).rq = p.rq ∧ (mgtHold p c).kvp = p.kvp ∧ (mgtHold p
    c).fab = p.fab ∧ (mgtHold p c).lsh = p.lsh ∧ (mgtHold p c).hnd = p.hnd ∧ (mgtHold p c).i3c = p.i3c ∧ (mgtHold p c).out =
    p.out ∧ (mgtHold p c).pba = p.pba ∧ (mgtHold p c).freeCtr = p.freeCtr := by
  simp [mgtHold]
@[simp] theorem mgtTaken_pins (p : Pkg) (path : Path) (msg : Bytes) (f : Pkg → PendCmd → Pkg) (h_f : ∀ w0 w1, (f w0 w1).pins =
    w0.pins): (mgtTaken p path msg f).pins = p.pins := by
  unfold mgtTaken; (repeat' split) <;> (simp_all; done)
@[simp] theorem mgtTaken_tick (p : Pkg) (path : Path) (msg : Bytes) (f : Pkg → PendCmd → Pkg) (h_f : ∀ w0 w1, (f w0 w1).tick =
    w0.tick): (mgtTaken p path msg f).tick = p.tick := by
  unfold mgtTaken; (repeat' split) <;> (simp_all; done)
@[simp] theorem mgtTaken_glb (p : Pkg) (path : Path) (msg : Bytes) (f : Pkg → PendCmd → Pkg) (h_f : ∀ w0 w1, (f w0 w1).glb =
    w0.glb): (mgtTaken p path msg f).glb = p.glb := by
  unfold mgtTaken; (repeat' split) <;> (simp_all; done)
@[simp] theorem mgtTaken_arrays (p : Pkg) (path : Path) (msg : Bytes) (f : Pkg → PendCmd → Pkg) (h_f : ∀ w0 w1, (f w0 w1).arrays
    = w0.arrays): (mgtTaken p path msg f).arrays = p.arrays := by
  unfold mgtTaken; (repeat' split) <;> (simp_all; done)
@[simp] theorem mgtTaken_ldr (p : Pkg) (path : Path) (msg : Bytes) (f : Pkg → PendCmd → Pkg) (h_f : ∀ w0 w1, (f w0 w1).ldr =
    w0.ldr): (mgtTaken p path msg f).ldr = p.ldr := by
  unfold mgtTaken; (repeat' split) <;> (simp_all; done)
@[simp] theorem mgtTaken_pens (p : Pkg) (path : Path) (msg : Bytes) (f : Pkg → PendCmd → Pkg) (h_f : ∀ w0 w1, (f w0 w1).pens =
    w0.pens): (mgtTaken p path msg f).pens = p.pens := by
  unfold mgtTaken; (repeat' split) <;> (simp_all; done)
@[simp] theorem mgtTaken_nvw (p : Pkg) (path : Path) (msg : Bytes) (f : Pkg → PendCmd → Pkg) (h_f : ∀ w0 w1, (f w0 w1).nvw =
    w0.nvw): (mgtTaken p path msg f).nvw = p.nvw := by
  unfold mgtTaken; (repeat' split) <;> (simp_all; done)
@[simp] theorem mgtTaken_ctxs (p : Pkg) (path : Path) (msg : Bytes) (f : Pkg → PendCmd → Pkg) (h_f : ∀ w0 w1, (f w0 w1).ctxs =
    w0.ctxs): (mgtTaken p path msg f).ctxs = p.ctxs := by
  unfold mgtTaken; (repeat' split) <;> (simp_all; done)
@[simp] theorem mgtTaken_numVfs (p : Pkg) (path : Path) (msg : Bytes) (f : Pkg → PendCmd → Pkg) (h_f : ∀ w0 w1, (f w0 w1).numVfs
    = w0.numVfs): (mgtTaken p path msg f).numVfs = p.numVfs := by
  unfold mgtTaken; (repeat' split) <;> (simp_all; done)
@[simp] theorem mgtTaken_reqs (p : Pkg) (path : Path) (msg : Bytes) (f : Pkg → PendCmd → Pkg) (h_f : ∀ w0 w1, (f w0 w1).reqs =
    w0.reqs): (mgtTaken p path msg f).reqs = p.reqs := by
  unfold mgtTaken; (repeat' split) <;> (simp_all; done)
@[simp] theorem mgtTaken_lastGen (p : Pkg) (path : Path) (msg : Bytes) (f : Pkg → PendCmd → Pkg) (h_f : ∀ w0 w1, (f w0
    w1).lastGen = w0.lastGen): (mgtTaken p path msg f).lastGen = p.lastGen := by
  unfold mgtTaken; (repeat' split) <;> (simp_all; done)
@[simp] theorem mgtTaken_rq (p : Pkg) (path : Path) (msg : Bytes) (f : Pkg → PendCmd → Pkg) (h_f : ∀ w0 w1, (f w0 w1).rq =
    w0.rq): (mgtTaken p path msg f).rq = p.rq := by
  unfold mgtTaken; (repeat' split) <;> (simp_all; done)
@[simp] theorem mgtTaken_kvp (p : Pkg) (path : Path) (msg : Bytes) (f : Pkg → PendCmd → Pkg) (h_f : ∀ w0 w1, (f w0 w1).kvp =
    w0.kvp): (mgtTaken p path msg f).kvp = p.kvp := by
  unfold mgtTaken; (repeat' split) <;> (simp_all; done)
@[simp] theorem mgtTaken_lsh (p : Pkg) (path : Path) (msg : Bytes) (f : Pkg → PendCmd → Pkg) (h_f : ∀ w0 w1, (f w0 w1).lsh =
    w0.lsh): (mgtTaken p path msg f).lsh = p.lsh := by
  unfold mgtTaken; (repeat' split) <;> (simp_all; done)
@[simp] theorem mgtTaken_hnd (p : Pkg) (path : Path) (msg : Bytes) (f : Pkg → PendCmd → Pkg) (h_f : ∀ w0 w1, (f w0 w1).hnd =
    w0.hnd): (mgtTaken p path msg f).hnd = p.hnd := by
  unfold mgtTaken; (repeat' split) <;> (simp_all; done)
@[simp] theorem mgtTaken_freeCtr (p : Pkg) (path : Path) (msg : Bytes) (f : Pkg → PendCmd → Pkg) (h_f : ∀ w0 w1, (f w0
    w1).freeCtr = w0.freeCtr): (mgtTaken p path msg f).freeCtr = p.freeCtr := by
  unfold mgtTaken; (repeat' split) <;> (simp_all; done)
@[simp] theorem mgtTaken_tickRefclkOk (p : Pkg) (path : Path) (msg : Bytes) (f : Pkg → PendCmd → Pkg) (h_f : ∀ w0 w1, (f w0
    w1).tick.refclkOk = w0.tick.refclkOk): (mgtTaken p path msg f).tick.refclkOk = p.tick.refclkOk := by
  unfold mgtTaken; (repeat' split) <;> (simp_all; done)
@[simp] theorem mgtTaken_tickPhaseLocked (p : Pkg) (path : Path) (msg : Bytes) (f : Pkg → PendCmd → Pkg) (h_f : ∀ w0 w1, (f w0
    w1).tick.phaseLocked = w0.tick.phaseLocked): (mgtTaken p path msg f).tick.phaseLocked = p.tick.phaseLocked := by
  unfold mgtTaken; (repeat' split) <;> (simp_all; done)
@[simp] theorem mgtTaken_tickHoldover (p : Pkg) (path : Path) (msg : Bytes) (f : Pkg → PendCmd → Pkg) (h_f : ∀ w0 w1, (f w0
    w1).tick.holdover = w0.tick.holdover): (mgtTaken p path msg f).tick.holdover = p.tick.holdover := by
  unfold mgtTaken; (repeat' split) <;> (simp_all; done)
@[simp] theorem mgtTaken_glbReady (p : Pkg) (path : Path) (msg : Bytes) (f : Pkg → PendCmd → Pkg) (h_f : ∀ w0 w1, (f w0
    w1).glb.ready = w0.glb.ready): (mgtTaken p path msg f).glb.ready = p.glb.ready := by
  unfold mgtTaken; (repeat' split) <;> (simp_all; done)
@[simp] theorem mgtTaken_glbSelfTestDone (p : Pkg) (path : Path) (msg : Bytes) (f : Pkg → PendCmd → Pkg) (h_f : ∀ w0 w1, (f w0
    w1).glb.selfTestDone = w0.glb.selfTestDone): (mgtTaken p path msg f).glb.selfTestDone = p.glb.selfTestDone := by
  unfold mgtTaken; (repeat' split) <;> (simp_all; done)
@[simp] theorem mgtTaken_glbFwFault (p : Pkg) (path : Path) (msg : Bytes) (f : Pkg → PendCmd → Pkg) (h_f : ∀ w0 w1, (f w0
    w1).glb.fwFault = w0.glb.fwFault): (mgtTaken p path msg f).glb.fwFault = p.glb.fwFault := by
  unfold mgtTaken; (repeat' split) <;> (simp_all; done)
@[simp] theorem modPins_keeps (p : Pkg) (f : Pins → Pins) : (modPins p f).tick = p.tick ∧ (modPins p f).glb = p.glb ∧ (modPins
    p f).scn = p.scn ∧ (modPins p f).arrays = p.arrays ∧ (modPins p f).ldr = p.ldr ∧ (modPins p f).pens = p.pens ∧ (modPins p
    f).nvw = p.nvw ∧ (modPins p f).ctxs = p.ctxs ∧ (modPins p f).numVfs = p.numVfs ∧ (modPins p f).reqs = p.reqs ∧ (modPins p
    f).lastGen = p.lastGen ∧ (modPins p f).rq = p.rq ∧ (modPins p f).kvp = p.kvp ∧ (modPins p f).fab = p.fab ∧ (modPins p
    f).lsh = p.lsh ∧ (modPins p f).hnd = p.hnd ∧ (modPins p f).mgt = p.mgt ∧ (modPins p f).i3c = p.i3c ∧ (modPins p f).out =
    p.out ∧ (modPins p f).pba = p.pba ∧ (modPins p f).freeCtr = p.freeCtr := by
  simp [modPins]
@[simp] theorem rails_keeps (p : Pkg) : (rails p).tick = p.tick ∧ (rails p).scn = p.scn ∧ (rails p).arrays = p.arrays ∧ (rails
    p).ldr = p.ldr ∧ (rails p).pens = p.pens ∧ (rails p).nvw = p.nvw ∧ (rails p).ctxs = p.ctxs ∧ (rails p).numVfs = p.numVfs ∧
    (rails p).reqs = p.reqs ∧ (rails p).lastGen = p.lastGen ∧ (rails p).rq = p.rq ∧ (rails p).kvp = p.kvp ∧ (rails p).fab =
    p.fab ∧ (rails p).lsh = p.lsh ∧ (rails p).hnd = p.hnd ∧ (rails p).mgt = p.mgt ∧ (rails p).i3c = p.i3c ∧ (rails p).out =
    p.out ∧ (rails p).pba = p.pba ∧ (rails p).freeCtr = p.freeCtr := by
  simp [rails]
@[simp] theorem rails_vital (p : Pkg) : (rails p).glb.ready = p.glb.ready ∧ (rails p).glb.selfTestDone = p.glb.selfTestDone ∧
    (rails p).glb.fwFault = p.glb.fwFault := by
  simp [rails]
@[simp] theorem judgeAlert_keeps (p : Pkg) : (judgeAlert p).tick = p.tick ∧ (judgeAlert p).glb = p.glb ∧ (judgeAlert p).scn =
    p.scn ∧ (judgeAlert p).arrays = p.arrays ∧ (judgeAlert p).ldr = p.ldr ∧ (judgeAlert p).pens = p.pens ∧ (judgeAlert p).nvw
    = p.nvw ∧ (judgeAlert p).ctxs = p.ctxs ∧ (judgeAlert p).numVfs = p.numVfs ∧ (judgeAlert p).reqs = p.reqs ∧ (judgeAlert
    p).lastGen = p.lastGen ∧ (judgeAlert p).rq = p.rq ∧ (judgeAlert p).kvp = p.kvp ∧ (judgeAlert p).fab = p.fab ∧ (judgeAlert
    p).lsh = p.lsh ∧ (judgeAlert p).hnd = p.hnd ∧ (judgeAlert p).mgt = p.mgt ∧ (judgeAlert p).i3c = p.i3c ∧ (judgeAlert
    p).freeCtr = p.freeCtr := by
  simp [judgeAlert]
@[simp] theorem pinCold_keeps (p : Pkg) (f : Pins → Pins) : (pinCold p f).freeCtr = p.freeCtr := by
  simp [pinCold]
@[simp] theorem dropHeld_keeps (p : Pkg) (fn off : Nat) : (dropHeld p fn off).pins = p.pins ∧ (dropHeld p fn off).tick =
    p.tick ∧ (dropHeld p fn off).scn = p.scn ∧ (dropHeld p fn off).arrays = p.arrays ∧ (dropHeld p fn off).ldr = p.ldr ∧
    (dropHeld p fn off).pens = p.pens ∧ (dropHeld p fn off).nvw = p.nvw ∧ (dropHeld p fn off).ctxs = p.ctxs ∧ (dropHeld p fn
    off).numVfs = p.numVfs ∧ (dropHeld p fn off).reqs = p.reqs ∧ (dropHeld p fn off).lastGen = p.lastGen ∧ (dropHeld p fn
    off).rq = p.rq ∧ (dropHeld p fn off).kvp = p.kvp ∧ (dropHeld p fn off).fab = p.fab ∧ (dropHeld p fn off).lsh = p.lsh ∧
    (dropHeld p fn off).hnd = p.hnd ∧ (dropHeld p fn off).mgt = p.mgt ∧ (dropHeld p fn off).i3c = p.i3c ∧ (dropHeld p fn
    off).out = p.out ∧ (dropHeld p fn off).pba = p.pba ∧ (dropHeld p fn off).freeCtr = p.freeCtr := by
  unfold dropHeld; (repeat' split) <;> (simp_all; done)
@[simp] theorem dropHeld_vital (p : Pkg) (fn off : Nat) : (dropHeld p fn off).glb.ready = p.glb.ready ∧ (dropHeld p fn
    off).glb.selfTestDone = p.glb.selfTestDone ∧ (dropHeld p fn off).glb.fwFault = p.glb.fwFault := by
  unfold dropHeld; (repeat' split) <;> (simp_all; done)
@[simp] theorem regWrite_pins (p : Pkg) (fn off : Nat) (f : Pkg → Pkg) (h_f : ∀ w0, (f w0).pins = w0.pins): (regWrite p fn off
    f).pins = p.pins := by
  simp [regWrite, h_f]
@[simp] theorem regWrite_tick (p : Pkg) (fn off : Nat) (f : Pkg → Pkg) (h_f : ∀ w0, (f w0).tick = w0.tick): (regWrite p fn off
    f).tick = p.tick := by
  simp [regWrite, h_f]
@[simp] theorem regWrite_scn (p : Pkg) (fn off : Nat) (f : Pkg → Pkg) (h_f : ∀ w0, (f w0).scn = w0.scn): (regWrite p fn off
    f).scn = p.scn := by
  simp [regWrite, h_f]
@[simp] theorem regWrite_arrays (p : Pkg) (fn off : Nat) (f : Pkg → Pkg) (h_f : ∀ w0, (f w0).arrays = w0.arrays): (regWrite p fn
    off f).arrays = p.arrays := by
  simp [regWrite, h_f]
@[simp] theorem regWrite_ldr (p : Pkg) (fn off : Nat) (f : Pkg → Pkg) (h_f : ∀ w0, (f w0).ldr = w0.ldr): (regWrite p fn off
    f).ldr = p.ldr := by
  simp [regWrite, h_f]
@[simp] theorem regWrite_pens (p : Pkg) (fn off : Nat) (f : Pkg → Pkg) (h_f : ∀ w0, (f w0).pens = w0.pens): (regWrite p fn off
    f).pens = p.pens := by
  simp [regWrite, h_f]
@[simp] theorem regWrite_nvw (p : Pkg) (fn off : Nat) (f : Pkg → Pkg) (h_f : ∀ w0, (f w0).nvw = w0.nvw): (regWrite p fn off
    f).nvw = p.nvw := by
  simp [regWrite, h_f]
@[simp] theorem regWrite_ctxs (p : Pkg) (fn off : Nat) (f : Pkg → Pkg) (h_f : ∀ w0, (f w0).ctxs = w0.ctxs): (regWrite p fn off
    f).ctxs = p.ctxs := by
  simp [regWrite, h_f]
@[simp] theorem regWrite_numVfs (p : Pkg) (fn off : Nat) (f : Pkg → Pkg) (h_f : ∀ w0, (f w0).numVfs = w0.numVfs): (regWrite p fn
    off f).numVfs = p.numVfs := by
  simp [regWrite, h_f]
@[simp] theorem regWrite_reqs (p : Pkg) (fn off : Nat) (f : Pkg → Pkg) (h_f : ∀ w0, (f w0).reqs = w0.reqs): (regWrite p fn off
    f).reqs = p.reqs := by
  simp [regWrite, h_f]
end Sys2Proof.Machine

end
end

