-- ==== Sys2Proof/Laws/Keep2.lean ====
section
/-! SUPPORT. What each operation on the package leaves as it is (part 2 of 4): one lemma per operation, with every part of the
package that it does not write, and for the parts it writes whether READY, SELF_TEST_DONE, FW_FAULT and the lock of the tick stand. -/

section

set_option maxRecDepth 4000
set_option linter.all false

namespace Sys2Proof.Machine

@[simp] theorem regWrite_lastGen (p : Pkg) (fn off : Nat) (f : Pkg → Pkg) (h_f : ∀ w0, (f w0).lastGen = w0.lastGen): (regWrite p
    fn off f).lastGen = p.lastGen := by
  simp [regWrite, h_f]
@[simp] theorem regWrite_rq (p : Pkg) (fn off : Nat) (f : Pkg → Pkg) (h_f : ∀ w0, (f w0).rq = w0.rq): (regWrite p fn off f).rq =
    p.rq := by
  simp [regWrite, h_f]
@[simp] theorem regWrite_kvp (p : Pkg) (fn off : Nat) (f : Pkg → Pkg) (h_f : ∀ w0, (f w0).kvp = w0.kvp): (regWrite p fn off
    f).kvp = p.kvp := by
  simp [regWrite, h_f]
@[simp] theorem regWrite_fab (p : Pkg) (fn off : Nat) (f : Pkg → Pkg) (h_f : ∀ w0, (f w0).fab = w0.fab): (regWrite p fn off
    f).fab = p.fab := by
  simp [regWrite, h_f]
@[simp] theorem regWrite_lsh (p : Pkg) (fn off : Nat) (f : Pkg → Pkg) (h_f : ∀ w0, (f w0).lsh = w0.lsh): (regWrite p fn off
    f).lsh = p.lsh := by
  simp [regWrite, h_f]
@[simp] theorem regWrite_hnd (p : Pkg) (fn off : Nat) (f : Pkg → Pkg) (h_f : ∀ w0, (f w0).hnd = w0.hnd): (regWrite p fn off
    f).hnd = p.hnd := by
  simp [regWrite, h_f]
@[simp] theorem regWrite_mgt (p : Pkg) (fn off : Nat) (f : Pkg → Pkg) (h_f : ∀ w0, (f w0).mgt = w0.mgt): (regWrite p fn off
    f).mgt = p.mgt := by
  simp [regWrite, h_f]
@[simp] theorem regWrite_i3c (p : Pkg) (fn off : Nat) (f : Pkg → Pkg) (h_f : ∀ w0, (f w0).i3c = w0.i3c): (regWrite p fn off
    f).i3c = p.i3c := by
  simp [regWrite, h_f]
@[simp] theorem regWrite_out (p : Pkg) (fn off : Nat) (f : Pkg → Pkg) (h_f : ∀ w0, (f w0).out = w0.out ∧ (f w0).pba = w0.pba):
    (regWrite p fn off
    f).out = p.out ∧ (regWrite p fn off
    f).pba = p.pba := by
  simp [regWrite, h_f]
@[simp] theorem regWrite_freeCtr (p : Pkg) (fn off : Nat) (f : Pkg → Pkg) (h_f : ∀ w0, (f w0).freeCtr = w0.freeCtr): (regWrite p
    fn off f).freeCtr = p.freeCtr := by
  simp [regWrite, h_f]
@[simp] theorem regWrite_tickRefclkOk (p : Pkg) (fn off : Nat) (f : Pkg → Pkg) (h_f : ∀ w0, (f w0).tick.refclkOk =
    w0.tick.refclkOk): (regWrite p fn off f).tick.refclkOk = p.tick.refclkOk := by
  unfold regWrite; dsimp only; (repeat' split) <;> (simp_all; done)
@[simp] theorem regWrite_tickPhaseLocked (p : Pkg) (fn off : Nat) (f : Pkg → Pkg) (h_f : ∀ w0, (f w0).tick.phaseLocked =
    w0.tick.phaseLocked): (regWrite p fn off f).tick.phaseLocked = p.tick.phaseLocked := by
  unfold regWrite; dsimp only; (repeat' split) <;> (simp_all; done)
@[simp] theorem regWrite_tickHoldover (p : Pkg) (fn off : Nat) (f : Pkg → Pkg) (h_f : ∀ w0, (f w0).tick.holdover =
    w0.tick.holdover): (regWrite p fn off f).tick.holdover = p.tick.holdover := by
  unfold regWrite; dsimp only; (repeat' split) <;> (simp_all; done)
@[simp] theorem regWrite_glbReady (p : Pkg) (fn off : Nat) (f : Pkg → Pkg) (h_f : ∀ w0, (f w0).glb.ready = w0.glb.ready):
    (regWrite p fn off f).glb.ready = p.glb.ready := by
  simp [regWrite, h_f]
@[simp] theorem regWrite_glbSelfTestDone (p : Pkg) (fn off : Nat) (f : Pkg → Pkg) (h_f : ∀ w0, (f w0).glb.selfTestDone =
    w0.glb.selfTestDone): (regWrite p fn off f).glb.selfTestDone = p.glb.selfTestDone := by
  simp [regWrite, h_f]
@[simp] theorem regWrite_glbFwFault (p : Pkg) (fn off : Nat) (f : Pkg → Pkg) (h_f : ∀ w0, (f w0).glb.fwFault = w0.glb.fwFault):
    (regWrite p fn off f).glb.fwFault = p.glb.fwFault := by
  simp [regWrite, h_f]
@[simp] theorem pfWrite_pins (p : Pkg) (fn off : Nat) (f : Pkg → Pkg) (h_f : ∀ w0, (f w0).pins = w0.pins): (pfWrite p fn off
    f).pins = p.pins := by
  simp [pfWrite, h_f]
@[simp] theorem pfWrite_tick (p : Pkg) (fn off : Nat) (f : Pkg → Pkg) (h_f : ∀ w0, (f w0).tick = w0.tick): (pfWrite p fn off
    f).tick = p.tick := by
  simp [pfWrite, h_f]
@[simp] theorem pfWrite_scn (p : Pkg) (fn off : Nat) (f : Pkg → Pkg) (h_f : ∀ w0, (f w0).scn = w0.scn): (pfWrite p fn off f).scn
    = p.scn := by
  simp [pfWrite, h_f]
@[simp] theorem pfWrite_arrays (p : Pkg) (fn off : Nat) (f : Pkg → Pkg) (h_f : ∀ w0, (f w0).arrays = w0.arrays): (pfWrite p fn
    off f).arrays = p.arrays := by
  simp [pfWrite, h_f]
@[simp] theorem pfWrite_ldr (p : Pkg) (fn off : Nat) (f : Pkg → Pkg) (h_f : ∀ w0, (f w0).ldr = w0.ldr): (pfWrite p fn off f).ldr
    = p.ldr := by
  simp [pfWrite, h_f]
@[simp] theorem pfWrite_pens (p : Pkg) (fn off : Nat) (f : Pkg → Pkg) (h_f : ∀ w0, (f w0).pens = w0.pens): (pfWrite p fn off
    f).pens = p.pens := by
  simp [pfWrite, h_f]
@[simp] theorem pfWrite_nvw (p : Pkg) (fn off : Nat) (f : Pkg → Pkg) (h_f : ∀ w0, (f w0).nvw = w0.nvw): (pfWrite p fn off f).nvw
    = p.nvw := by
  simp [pfWrite, h_f]
@[simp] theorem pfWrite_ctxs (p : Pkg) (fn off : Nat) (f : Pkg → Pkg) (h_f : ∀ w0, (f w0).ctxs = w0.ctxs): (pfWrite p fn off
    f).ctxs = p.ctxs := by
  simp [pfWrite, h_f]
@[simp] theorem pfWrite_numVfs (p : Pkg) (fn off : Nat) (f : Pkg → Pkg) (h_f : ∀ w0, (f w0).numVfs = w0.numVfs): (pfWrite p fn
    off f).numVfs = p.numVfs := by
  simp [pfWrite, h_f]
@[simp] theorem pfWrite_reqs (p : Pkg) (fn off : Nat) (f : Pkg → Pkg) (h_f : ∀ w0, (f w0).reqs = w0.reqs): (pfWrite p fn off
    f).reqs = p.reqs := by
  simp [pfWrite, h_f]
@[simp] theorem pfWrite_lastGen (p : Pkg) (fn off : Nat) (f : Pkg → Pkg) (h_f : ∀ w0, (f w0).lastGen = w0.lastGen): (pfWrite p
    fn off f).lastGen = p.lastGen := by
  simp [pfWrite, h_f]
@[simp] theorem pfWrite_rq (p : Pkg) (fn off : Nat) (f : Pkg → Pkg) (h_f : ∀ w0, (f w0).rq = w0.rq): (pfWrite p fn off f).rq =
    p.rq := by
  simp [pfWrite, h_f]
@[simp] theorem pfWrite_kvp (p : Pkg) (fn off : Nat) (f : Pkg → Pkg) (h_f : ∀ w0, (f w0).kvp = w0.kvp): (pfWrite p fn off f).kvp
    = p.kvp := by
  simp [pfWrite, h_f]
@[simp] theorem pfWrite_fab (p : Pkg) (fn off : Nat) (f : Pkg → Pkg) (h_f : ∀ w0, (f w0).fab = w0.fab): (pfWrite p fn off f).fab
    = p.fab := by
  simp [pfWrite, h_f]
@[simp] theorem pfWrite_lsh (p : Pkg) (fn off : Nat) (f : Pkg → Pkg) (h_f : ∀ w0, (f w0).lsh = w0.lsh): (pfWrite p fn off f).lsh
    = p.lsh := by
  simp [pfWrite, h_f]
@[simp] theorem pfWrite_hnd (p : Pkg) (fn off : Nat) (f : Pkg → Pkg) (h_f : ∀ w0, (f w0).hnd = w0.hnd): (pfWrite p fn off f).hnd
    = p.hnd := by
  simp [pfWrite, h_f]
@[simp] theorem pfWrite_mgt (p : Pkg) (fn off : Nat) (f : Pkg → Pkg) (h_f : ∀ w0, (f w0).mgt = w0.mgt): (pfWrite p fn off f).mgt
    = p.mgt := by
  simp [pfWrite, h_f]
@[simp] theorem pfWrite_i3c (p : Pkg) (fn off : Nat) (f : Pkg → Pkg) (h_f : ∀ w0, (f w0).i3c = w0.i3c): (pfWrite p fn off f).i3c
    = p.i3c := by
  simp [pfWrite, h_f]
@[simp] theorem pfWrite_out (p : Pkg) (fn off : Nat) (f : Pkg → Pkg) (h_f : ∀ w0, (f w0).out = w0.out ∧ (f w0).pba = w0.pba):
    (pfWrite p fn off f).out
    = p.out := by
  simp [pfWrite, h_f]
@[simp] theorem pfWrite_freeCtr (p : Pkg) (fn off : Nat) (f : Pkg → Pkg) (h_f : ∀ w0, (f w0).freeCtr = w0.freeCtr): (pfWrite p
    fn off f).freeCtr = p.freeCtr := by
  simp [pfWrite, h_f]
@[simp] theorem pfWrite_tickRefclkOk (p : Pkg) (fn off : Nat) (f : Pkg → Pkg) (h_f : ∀ w0, (f w0).tick.refclkOk =
    w0.tick.refclkOk): (pfWrite p fn off f).tick.refclkOk = p.tick.refclkOk := by
  unfold pfWrite; (repeat' split) <;> (simp_all; done)
@[simp] theorem pfWrite_tickPhaseLocked (p : Pkg) (fn off : Nat) (f : Pkg → Pkg) (h_f : ∀ w0, (f w0).tick.phaseLocked =
    w0.tick.phaseLocked): (pfWrite p fn off f).tick.phaseLocked = p.tick.phaseLocked := by
  unfold pfWrite; (repeat' split) <;> (simp_all; done)
@[simp] theorem pfWrite_tickHoldover (p : Pkg) (fn off : Nat) (f : Pkg → Pkg) (h_f : ∀ w0, (f w0).tick.holdover =
    w0.tick.holdover): (pfWrite p fn off f).tick.holdover = p.tick.holdover := by
  unfold pfWrite; (repeat' split) <;> (simp_all; done)
@[simp] theorem pfWrite_glbReady (p : Pkg) (fn off : Nat) (f : Pkg → Pkg) (h_f : ∀ w0, (f w0).glb.ready = w0.glb.ready):
    (pfWrite p fn off f).glb.ready = p.glb.ready := by
  simp [pfWrite, h_f]
@[simp] theorem pfWrite_glbSelfTestDone (p : Pkg) (fn off : Nat) (f : Pkg → Pkg) (h_f : ∀ w0, (f w0).glb.selfTestDone =
    w0.glb.selfTestDone): (pfWrite p fn off f).glb.selfTestDone = p.glb.selfTestDone := by
  simp [pfWrite, h_f]
@[simp] theorem pfWrite_glbFwFault (p : Pkg) (fn off : Nat) (f : Pkg → Pkg) (h_f : ∀ w0, (f w0).glb.fwFault = w0.glb.fwFault):
    (pfWrite p fn off f).glb.fwFault = p.glb.fwFault := by
  simp [pfWrite, h_f]
@[simp] theorem noteNotAllowed_keeps (p : Pkg) (fn off size : Nat) : (noteNotAllowed p fn off size).pins = p.pins ∧
    (noteNotAllowed p fn off size).tick = p.tick ∧ (noteNotAllowed p fn off size).arrays = p.arrays ∧ (noteNotAllowed p fn off
    size).ldr = p.ldr ∧ (noteNotAllowed p fn off size).pens = p.pens ∧ (noteNotAllowed p fn off size).nvw = p.nvw ∧
    (noteNotAllowed p fn off size).ctxs = p.ctxs ∧ (noteNotAllowed p fn off size).numVfs = p.numVfs ∧ (noteNotAllowed p fn off
    size).reqs = p.reqs ∧ (noteNotAllowed p fn off size).lastGen = p.lastGen ∧ (noteNotAllowed p fn off size).rq = p.rq ∧
    (noteNotAllowed p fn off size).kvp = p.kvp ∧ (noteNotAllowed p fn off size).fab = p.fab ∧ (noteNotAllowed p fn off
    size).lsh = p.lsh ∧ (noteNotAllowed p fn off size).hnd = p.hnd ∧ (noteNotAllowed p fn off size).mgt = p.mgt ∧
    (noteNotAllowed p fn off size).i3c = p.i3c ∧ (noteNotAllowed p fn off size).freeCtr = p.freeCtr := by
  simp [noteNotAllowed]
@[simp] theorem noteNotAllowed_vital (p : Pkg) (fn off size : Nat) : (noteNotAllowed p fn off size).glb.ready = p.glb.ready ∧
    (noteNotAllowed p fn off size).glb.selfTestDone = p.glb.selfTestDone ∧ (noteNotAllowed p fn off size).glb.fwFault =
    p.glb.fwFault := by
  simp [noteNotAllowed]
@[simp] theorem loseAlign_keeps (p : Pkg) (cause : Nat) : (loseAlign p cause).pins = p.pins ∧ (loseAlign p cause).glb = p.glb
    ∧ (loseAlign p cause).arrays = p.arrays ∧ (loseAlign p cause).ldr = p.ldr ∧ (loseAlign p cause).pens = p.pens ∧ (loseAlign
    p cause).nvw = p.nvw ∧ (loseAlign p cause).ctxs = p.ctxs ∧ (loseAlign p cause).numVfs = p.numVfs ∧ (loseAlign p
    cause).reqs = p.reqs ∧ (loseAlign p cause).lastGen = p.lastGen ∧ (loseAlign p cause).rq = p.rq ∧ (loseAlign p cause).kvp =
    p.kvp ∧ (loseAlign p cause).fab = p.fab ∧ (loseAlign p cause).lsh = p.lsh ∧ (loseAlign p cause).hnd = p.hnd ∧ (loseAlign p
    cause).mgt = p.mgt ∧ (loseAlign p cause).i3c = p.i3c ∧ (loseAlign p cause).freeCtr = p.freeCtr := by
  simp [loseAlign]
@[simp] theorem loseAlign_vital (p : Pkg) (cause : Nat) : (loseAlign p cause).tick.refclkOk = p.tick.refclkOk ∧ (loseAlign p
    cause).tick.phaseLocked = p.tick.phaseLocked ∧ (loseAlign p cause).tick.holdover = p.tick.holdover := by
  simp [loseAlign]
@[simp] theorem gainAlign_keeps (p : Pkg) : (gainAlign p).pins = p.pins ∧ (gainAlign p).glb = p.glb ∧ (gainAlign p).scn =
    p.scn ∧ (gainAlign p).arrays = p.arrays ∧ (gainAlign p).ldr = p.ldr ∧ (gainAlign p).pens = p.pens ∧ (gainAlign p).nvw =
    p.nvw ∧ (gainAlign p).ctxs = p.ctxs ∧ (gainAlign p).numVfs = p.numVfs ∧ (gainAlign p).reqs = p.reqs ∧ (gainAlign
    p).lastGen = p.lastGen ∧ (gainAlign p).rq = p.rq ∧ (gainAlign p).kvp = p.kvp ∧ (gainAlign p).fab = p.fab ∧ (gainAlign
    p).lsh = p.lsh ∧ (gainAlign p).hnd = p.hnd ∧ (gainAlign p).mgt = p.mgt ∧ (gainAlign p).i3c = p.i3c ∧ (gainAlign p).out =
    p.out ∧ (gainAlign p).pba = p.pba ∧ (gainAlign p).freeCtr = p.freeCtr := by
  simp [gainAlign]
@[simp] theorem gainAlign_vital (p : Pkg) : (gainAlign p).tick.refclkOk = p.tick.refclkOk ∧ (gainAlign p).tick.phaseLocked =
    p.tick.phaseLocked ∧ (gainAlign p).tick.holdover = p.tick.holdover := by
  simp [gainAlign]
@[simp] theorem steer_keeps (p : Pkg) : (steer p).pins = p.pins ∧ (steer p).glb = p.glb ∧ (steer p).scn = p.scn ∧ (steer
    p).arrays = p.arrays ∧ (steer p).ldr = p.ldr ∧ (steer p).pens = p.pens ∧ (steer p).nvw = p.nvw ∧ (steer p).ctxs = p.ctxs ∧
    (steer p).numVfs = p.numVfs ∧ (steer p).reqs = p.reqs ∧ (steer p).lastGen = p.lastGen ∧ (steer p).rq = p.rq ∧ (steer
    p).kvp = p.kvp ∧ (steer p).fab = p.fab ∧ (steer p).lsh = p.lsh ∧ (steer p).hnd = p.hnd ∧ (steer p).mgt = p.mgt ∧ (steer
    p).i3c = p.i3c ∧ (steer p).out = p.out ∧ (steer p).pba = p.pba ∧ (steer p).freeCtr = p.freeCtr := by
  simp [steer]
@[simp] theorem steer_vital (p : Pkg) : (steer p).tick.refclkOk = p.tick.refclkOk ∧ (steer p).tick.phaseLocked =
    p.tick.phaseLocked ∧ (steer p).tick.holdover = p.tick.holdover := by
  simp [steer]
@[simp] theorem steerTick_keeps (p : Pkg) : (steerTick p).pins = p.pins ∧ (steerTick p).glb = p.glb ∧ (steerTick p).scn =
    p.scn ∧ (steerTick p).arrays = p.arrays ∧ (steerTick p).ldr = p.ldr ∧ (steerTick p).pens = p.pens ∧ (steerTick p).nvw =
    p.nvw ∧ (steerTick p).ctxs = p.ctxs ∧ (steerTick p).numVfs = p.numVfs ∧ (steerTick p).reqs = p.reqs ∧ (steerTick
    p).lastGen = p.lastGen ∧ (steerTick p).rq = p.rq ∧ (steerTick p).kvp = p.kvp ∧ (steerTick p).fab = p.fab ∧ (steerTick
    p).lsh = p.lsh ∧ (steerTick p).hnd = p.hnd ∧ (steerTick p).mgt = p.mgt ∧ (steerTick p).i3c = p.i3c ∧ (steerTick p).out =
    p.out ∧ (steerTick p).pba = p.pba ∧ (steerTick p).freeCtr = p.freeCtr := by
  simp [steerTick]
@[simp] theorem steerTick_vital (p : Pkg) : (steerTick p).tick.refclkOk = p.tick.refclkOk ∧ (steerTick p).tick.phaseLocked =
    p.tick.phaseLocked ∧ (steerTick p).tick.holdover = p.tick.holdover := by
  simp [steerTick]
@[simp] theorem framePut_keeps (p : Pkg) (n f off : Nat) (b : Bytes) : (framePut p n f off b).pins = p.pins ∧ (framePut p n f
    off b).tick = p.tick ∧ (framePut p n f off b).glb = p.glb ∧ (framePut p n f off b).scn = p.scn ∧ (framePut p n f off
    b).arrays = p.arrays ∧ (framePut p n f off b).ldr = p.ldr ∧ (framePut p n f off b).nvw = p.nvw ∧ (framePut p n f off
    b).ctxs = p.ctxs ∧ (framePut p n f off b).numVfs = p.numVfs ∧ (framePut p n f off b).reqs = p.reqs ∧ (framePut p n f off
    b).lastGen = p.lastGen ∧ (framePut p n f off b).rq = p.rq ∧ (framePut p n f off b).kvp = p.kvp ∧ (framePut p n f off
    b).fab = p.fab ∧ (framePut p n f off b).lsh = p.lsh ∧ (framePut p n f off b).hnd = p.hnd ∧ (framePut p n f off b).mgt =
    p.mgt ∧ (framePut p n f off b).i3c = p.i3c ∧ (framePut p n f off b).out = p.out ∧ (framePut p n f off b).pba = p.pba ∧
    (framePut p n f off b).freeCtr = p.freeCtr := by
  simp [framePut]
@[simp] theorem countSat_keeps (p : Pkg) (n k : Nat) : (countSat p n k).pins = p.pins ∧ (countSat p n k).tick = p.tick ∧
    (countSat p n k).glb = p.glb ∧ (countSat p n k).scn = p.scn ∧ (countSat p n k).arrays = p.arrays ∧ (countSat p n k).ldr =
    p.ldr ∧ (countSat p n k).nvw = p.nvw ∧ (countSat p n k).ctxs = p.ctxs ∧ (countSat p n k).numVfs = p.numVfs ∧ (countSat p n
    k).reqs = p.reqs ∧ (countSat p n k).lastGen = p.lastGen ∧ (countSat p n k).rq = p.rq ∧ (countSat p n k).kvp = p.kvp ∧
    (countSat p n k).fab = p.fab ∧ (countSat p n k).lsh = p.lsh ∧ (countSat p n k).hnd = p.hnd ∧ (countSat p n k).mgt = p.mgt
    ∧ (countSat p n k).i3c = p.i3c ∧ (countSat p n k).out = p.out ∧ (countSat p n k).pba = p.pba ∧ (countSat p n k).freeCtr =
    p.freeCtr := by
  simp [countSat]
@[simp] theorem putK_keeps (p : Pkg) (i : Image) (n f : Nat) (h : HeadAt) (panel tok : Nat) (vs : List Val) : (putK p i n f h
    panel tok vs).pins = p.pins ∧ (putK p i n f h panel tok vs).tick = p.tick ∧ (putK p i n f h panel tok vs).glb = p.glb ∧
    (putK p i n f h panel tok vs).scn = p.scn ∧ (putK p i n f h panel tok vs).arrays = p.arrays ∧ (putK p i n f h panel tok
    vs).ldr = p.ldr ∧ (putK p i n f h panel tok vs).nvw = p.nvw ∧ (putK p i n f h panel tok vs).ctxs = p.ctxs ∧ (putK p i n f
    h panel tok vs).numVfs = p.numVfs ∧ (putK p i n f h panel tok vs).reqs = p.reqs ∧ (putK p i n f h panel tok vs).lastGen =
    p.lastGen ∧ (putK p i n f h panel tok vs).rq = p.rq ∧ (putK p i n f h panel tok vs).kvp = p.kvp ∧ (putK p i n f h panel
    tok vs).fab = p.fab ∧ (putK p i n f h panel tok vs).lsh = p.lsh ∧ (putK p i n f h panel tok vs).hnd = p.hnd ∧ (putK p i n
    f h panel tok vs).mgt = p.mgt ∧ (putK p i n f h panel tok vs).i3c = p.i3c ∧ (putK p i n f h panel tok vs).out = p.out ∧
    (putK p i n f h panel tok vs).pba = p.pba ∧ (putK p i n f h panel tok vs).freeCtr = p.freeCtr := by
  simp [putK]
theorem putV_keep {β : Type} (π : Pkg → β) (p : Pkg) (i : Image) (e n f : Nat) (h : HeadAt) (tok : Nat) (vs : List Val)
    (hr : ∀ q e f, π (modReq q e f) = π q := by intros; simp) (hp : ∀ q n f o b, π (framePut q n f o b) = π q := by intros; simp)
    (hc : ∀ q n k, π (countSat q n k) = π q := by intros; simp) (hs : ∀ q n f, π (modStep q n f) = π q := by intros; simp) :
    π (putV p i e n f h tok vs) = π p := by
  unfold putV
  dsimp only
  split_ifs
  · rw [hs]
    refine (forAll_keep π _ _ _ fun q x => ?_).trans (forAll_keep π _ _ _ fun q x => hr _ _ _)
    rw [hc, hp, hp]
  · exact forAll_keep π _ _ _ fun q x => hr _ _ _
  · refine forAll_keep π _ _ _ fun q x => ?_
    rw [hc, hp]
@[simp] theorem putV_keeps (p : Pkg) (i : Image) (e n f : Nat) (h : HeadAt) (tok : Nat) (vs : List Val) : (putV p i e n f h
    tok vs).pins = p.pins ∧ (putV p i e n f h tok vs).tick = p.tick ∧ (putV p i e n f h tok vs).glb = p.glb ∧ (putV p i e n f
    h tok vs).scn = p.scn ∧ (putV p i e n f h tok vs).arrays = p.arrays ∧ (putV p i e n f h tok vs).ldr = p.ldr ∧ (putV p i e
    n f h tok vs).nvw = p.nvw ∧ (putV p i e n f h tok vs).ctxs = p.ctxs ∧ (putV p i e n f h tok vs).numVfs = p.numVfs ∧ (putV
    p i e n f h tok vs).lastGen = p.lastGen ∧ (putV p i e n f h tok vs).rq = p.rq ∧ (putV p i e n f h tok vs).kvp = p.kvp ∧
    (putV p i e n f h tok vs).fab = p.fab ∧ (putV p i e n f h tok vs).lsh = p.lsh ∧ (putV p i e n f h tok vs).hnd = p.hnd ∧
    (putV p i e n f h tok vs).mgt = p.mgt ∧ (putV p i e n f h tok vs).i3c = p.i3c ∧ (putV p i e n f h tok vs).out = p.out ∧
    (putV p i e n f h tok vs).pba = p.pba ∧ (putV p i e n f h tok vs).freeCtr = p.freeCtr :=
  ⟨putV_keep Pkg.pins _ _ _ _ _ _ _ _ (hs := fun _ _ _ => rfl), putV_keep Pkg.tick _ _ _ _ _ _ _ _ (hs := fun _ _ _ => rfl), putV_keep Pkg.glb _ _ _ _ _ _ _ _ (hs := fun _ _ _ => rfl), putV_keep Pkg.scn _ _ _ _ _ _ _ _ (hs := fun _ _ _ => rfl), putV_keep Pkg.arrays _ _ _ _ _ _ _ _ (hs := fun _ _ _ => rfl), putV_keep Pkg.ldr _ _ _ _ _ _ _ _ (hs := fun _ _ _ => rfl), putV_keep Pkg.nvw _ _ _ _ _ _ _ _ (hs := fun _ _ _ => rfl), putV_keep Pkg.ctxs _ _ _ _ _ _ _ _ (hs := fun _ _ _ => rfl), putV_keep Pkg.numVfs _ _ _ _ _ _ _ _ (hs := fun _ _ _ => rfl), putV_keep Pkg.lastGen _ _ _ _ _ _ _ _ (hs := fun _ _ _ => rfl), putV_keep Pkg.rq _ _ _ _ _ _ _ _ (hs := fun _ _ _ => rfl), putV_keep Pkg.kvp _ _ _ _ _ _ _ _ (hs := fun _ _ _ => rfl), putV_keep Pkg.fab _ _ _ _ _ _ _ _ (hs := fun _ _ _ => rfl), putV_keep Pkg.lsh _ _ _ _ _ _ _ _ (hs := fun _ _ _ => rfl), putV_keep Pkg.hnd _ _ _ _ _ _ _ _ (hs := fun _ _ _ => rfl), putV_keep Pkg.mgt _ _ _ _ _ _ _ _ (hs := fun _ _ _ => rfl), putV_keep Pkg.i3c _ _ _ _ _ _ _ _ (hs := fun _ _ _ => rfl), putV_keep Pkg.out _ _ _ _ _ _ _ _ (hs := fun _ _ _ => rfl), putV_keep Pkg.pba _ _ _ _ _ _ _ _ (hs := fun _ _ _ => rfl), putV_keep Pkg.freeCtr _ _ _ _ _ _ _ _ (hs := fun _ _ _ => rfl)⟩
@[simp] theorem kvRow_keeps (p : Pkg) (n off : Nat) (vs : List Val) : (kvRow p n off vs).pins = p.pins ∧ (kvRow p n off
    vs).tick = p.tick ∧ (kvRow p n off vs).glb = p.glb ∧ (kvRow p n off vs).scn = p.scn ∧ (kvRow p n off vs).arrays = p.arrays
    ∧ (kvRow p n off vs).ldr = p.ldr ∧ (kvRow p n off vs).nvw = p.nvw ∧ (kvRow p n off vs).ctxs = p.ctxs ∧ (kvRow p n off
    vs).numVfs = p.numVfs ∧ (kvRow p n off vs).lastGen = p.lastGen ∧ (kvRow p n off vs).rq = p.rq ∧ (kvRow p n off vs).kvp =
    p.kvp ∧ (kvRow p n off vs).fab = p.fab ∧ (kvRow p n off vs).lsh = p.lsh ∧ (kvRow p n off vs).hnd = p.hnd ∧ (kvRow p n off
    vs).mgt = p.mgt ∧ (kvRow p n off vs).i3c = p.i3c ∧ (kvRow p n off vs).out = p.out ∧ (kvRow p n off vs).pba = p.pba ∧
    (kvRow p n off vs).freeCtr = p.freeCtr := by
  unfold kvRow; dsimp only; (repeat' split) <;> (simp_all; done)
@[simp] theorem kvRow_vital (p : Pkg) (n : ℕ) (off : ℕ) (vs : List Val) : (kvRow p n off vs).tick.refclkOk = p.tick.refclkOk ∧
    (kvRow p n off vs).tick.phaseLocked = p.tick.phaseLocked ∧ (kvRow p n off vs).tick.holdover = p.tick.holdover ∧ (kvRow p n
    off vs).glb.ready = p.glb.ready ∧ (kvRow p n off vs).glb.selfTestDone = p.glb.selfTestDone ∧ (kvRow p n off
    vs).glb.fwFault = p.glb.fwFault := by
  unfold kvRow; dsimp only; (repeat' split) <;> (simp_all; done)
@[simp] theorem allocPart_keeps (p : Pkg) (e k : Nat) : ∀ q, allocPart p e k = some q → q.2.pins = p.pins ∧ q.2.tick = p.tick
    ∧ q.2.glb = p.glb ∧ q.2.scn = p.scn ∧ q.2.arrays = p.arrays ∧ q.2.ldr = p.ldr ∧ q.2.nvw = p.nvw ∧ q.2.ctxs = p.ctxs ∧
    q.2.numVfs = p.numVfs ∧ q.2.lastGen = p.lastGen ∧ q.2.rq = p.rq ∧ q.2.kvp = p.kvp ∧ q.2.fab = p.fab ∧ q.2.lsh = p.lsh ∧
    q.2.hnd = p.hnd ∧ q.2.mgt = p.mgt ∧ q.2.i3c = p.i3c ∧ q.2.out = p.out ∧ q.2.pba = p.pba ∧ q.2.freeCtr = p.freeCtr := by
  unfold allocPart; dsimp only; (repeat' split) <;> (simp_all; done)
@[simp] theorem allocParts_keeps (p : Pkg) (e : Nat) (z0 : List Nat) : ∀ q, allocParts p e z0 = some q → q.pins = p.pins ∧
    q.tick = p.tick ∧ q.glb = p.glb ∧ q.scn = p.scn ∧ q.arrays = p.arrays ∧ q.ldr = p.ldr ∧ q.nvw = p.nvw ∧ q.ctxs = p.ctxs ∧
    q.numVfs = p.numVfs ∧ q.lastGen = p.lastGen ∧ q.rq = p.rq ∧ q.kvp = p.kvp ∧ q.fab = p.fab ∧ q.lsh = p.lsh ∧ q.hnd = p.hnd
    ∧ q.mgt = p.mgt ∧ q.i3c = p.i3c ∧ q.out = p.out ∧ q.pba = p.pba ∧ q.freeCtr = p.freeCtr := by
  intro q h
  induction z0 generalizing p with
  | nil => cases h; simp
  | cons k t ih =>
    unfold allocParts at h
    split at h
    · rename_i f r hr
      have h1 := allocPart_keeps p e k _ hr
      have h2 := ih r h
      simp_all
    · cases h
@[simp] theorem cowPart_keeps (p : Pkg) (e k : Nat) : ∀ q, cowPart p e k = some q → q.pins = p.pins ∧ q.tick = p.tick ∧ q.glb
    = p.glb ∧ q.scn = p.scn ∧ q.arrays = p.arrays ∧ q.ldr = p.ldr ∧ q.nvw = p.nvw ∧ q.ctxs = p.ctxs ∧ q.numVfs = p.numVfs ∧
    q.lastGen = p.lastGen ∧ q.rq = p.rq ∧ q.kvp = p.kvp ∧ q.fab = p.fab ∧ q.lsh = p.lsh ∧ q.hnd = p.hnd ∧ q.mgt = p.mgt ∧
    q.i3c = p.i3c ∧ q.out = p.out ∧ q.pba = p.pba ∧ q.freeCtr = p.freeCtr := by
  intro q h
  unfold cowPart at h
  dsimp only at h
  split at h
  · split at h
    · rename_i f r hr
      have h1 := allocPart_keeps p e k _ hr
      cases h
      simpa [modPool_keeps] using h1
    · cases h
  · cases h; simp
@[simp] theorem cowParts_keeps (p : Pkg) (e : Nat) (z0 : List Nat) : ∀ q, cowParts p e z0 = some q → q.pins = p.pins ∧ q.tick
    = p.tick ∧ q.glb = p.glb ∧ q.scn = p.scn ∧ q.arrays = p.arrays ∧ q.ldr = p.ldr ∧ q.nvw = p.nvw ∧ q.ctxs = p.ctxs ∧
    q.numVfs = p.numVfs ∧ q.lastGen = p.lastGen ∧ q.rq = p.rq ∧ q.kvp = p.kvp ∧ q.fab = p.fab ∧ q.lsh = p.lsh ∧ q.hnd = p.hnd
    ∧ q.mgt = p.mgt ∧ q.i3c = p.i3c ∧ q.out = p.out ∧ q.pba = p.pba ∧ q.freeCtr = p.freeCtr := by
  intro q h
  induction z0 generalizing p with
  | nil => cases h; simp
  | cons k t ih =>
    unfold cowParts at h
    split at h
    · rename_i r hr
      have h1 := cowPart_keeps p e k _ hr
      have h2 := ih r h
      simp_all
    · cases h
@[simp] theorem growFor_keeps (p : Pkg) (e first stop : Nat) : ∀ q, growFor p e first stop = some q → q.pins = p.pins ∧ q.tick
    = p.tick ∧ q.glb = p.glb ∧ q.scn = p.scn ∧ q.arrays = p.arrays ∧ q.ldr = p.ldr ∧ q.nvw = p.nvw ∧ q.ctxs = p.ctxs ∧
    q.numVfs = p.numVfs ∧ q.lastGen = p.lastGen ∧ q.rq = p.rq ∧ q.kvp = p.kvp ∧ q.fab = p.fab ∧ q.lsh = p.lsh ∧ q.hnd = p.hnd
    ∧ q.mgt = p.mgt ∧ q.i3c = p.i3c ∧ q.out = p.out ∧ q.pba = p.pba ∧ q.freeCtr = p.freeCtr := by
  intro q h
  unfold growFor at h
  split at h
  · rename_i r hr
    have h1 := allocParts_keeps p e _ _ hr
    have h2 := cowParts_keeps _ e _ _ h
    split at h2 <;> simp_all [modReq_keeps]
  · cases h
@[simp] theorem preempt_keeps (p : Pkg) (v : Nat) : (preempt p v).pins = p.pins ∧ (preempt p v).tick = p.tick ∧ (preempt p
    v).glb = p.glb ∧ (preempt p v).arrays = p.arrays ∧ (preempt p v).ldr = p.ldr ∧ (preempt p v).nvw = p.nvw ∧ (preempt p
    v).numVfs = p.numVfs ∧ (preempt p v).lastGen = p.lastGen ∧ (preempt p v).rq = p.rq ∧ (preempt p v).kvp = p.kvp ∧ (preempt
    p v).fab = p.fab ∧ (preempt p v).lsh = p.lsh ∧ (preempt p v).hnd = p.hnd ∧ (preempt p v).mgt = p.mgt ∧ (preempt p v).i3c =
    p.i3c ∧ (preempt p v).freeCtr = p.freeCtr := by
  simp [preempt]
@[simp] theorem preemptFor_keeps (p : Pkg) (e short : Nat) (placed : List Nat) : (preemptFor p e short placed).pins = p.pins ∧
    (preemptFor p e short placed).tick = p.tick ∧ (preemptFor p e short placed).glb = p.glb ∧ (preemptFor p e short
    placed).arrays = p.arrays ∧ (preemptFor p e short placed).ldr = p.ldr ∧ (preemptFor p e short placed).nvw = p.nvw ∧
    (preemptFor p e short placed).numVfs = p.numVfs ∧ (preemptFor p e short placed).lastGen = p.lastGen ∧ (preemptFor p e
    short placed).rq = p.rq ∧ (preemptFor p e short placed).kvp = p.kvp ∧ (preemptFor p e short placed).fab = p.fab ∧
    (preemptFor p e short placed).lsh = p.lsh ∧ (preemptFor p e short placed).hnd = p.hnd ∧ (preemptFor p e short placed).mgt
    = p.mgt ∧ (preemptFor p e short placed).i3c = p.i3c ∧ (preemptFor p e short placed).freeCtr = p.freeCtr := by
  unfold preemptFor
  dsimp only
  repeat' apply And.intro
  all_goals
    first
    | (refine foldlP_pins _ _ _ ?_)
    | (refine foldlP_tick _ _ _ ?_)
    | (refine foldlP_glb _ _ _ ?_)
    | (refine foldlP_arrays _ _ _ ?_)
    | (refine foldlP_ldr _ _ _ ?_)
    | (refine foldlP_nvw _ _ _ ?_)
    | (refine foldlP_numVfs _ _ _ ?_)
    | (refine foldlP_lastGen _ _ _ ?_)
    | (refine foldlP_rq _ _ _ ?_)
    | (refine foldlP_kvp _ _ _ ?_)
    | (refine foldlP_fab _ _ _ ?_)
    | (refine foldlP_lsh _ _ _ ?_)
    | (refine foldlP_hnd _ _ _ ?_)
    | (refine foldlP_mgt _ _ _ ?_)
    | (refine foldlP_i3c _ _ _ ?_)
    | (refine foldlP_out _ _ _ ?_)
    | (refine foldlP_pba _ _ _ ?_)
    | (refine foldlP_freeCtr _ _ _ ?_)
    | (refine foldlP_scn _ _ _ ?_)
  all_goals
    intro q x
    try dsimp only
    split <;> simp [preempt_keeps]
@[simp] theorem returnShort_keeps (p : Pkg) (e : ℕ) : (returnShort p e).pins = p.pins ∧ (returnShort p e).tick = p.tick ∧
    (returnShort p e).glb = p.glb ∧ (returnShort p e).arrays = p.arrays ∧ (returnShort p e).ldr = p.ldr ∧ (returnShort p
    e).nvw = p.nvw ∧ (returnShort p e).numVfs = p.numVfs ∧ (returnShort p e).lastGen = p.lastGen ∧ (returnShort p e).rq = p.rq
    ∧ (returnShort p e).kvp = p.kvp ∧ (returnShort p e).fab = p.fab ∧ (returnShort p e).lsh = p.lsh ∧ (returnShort p e).hnd =
    p.hnd ∧ (returnShort p e).mgt = p.mgt ∧ (returnShort p e).i3c = p.i3c ∧ (returnShort p e).freeCtr = p.freeCtr := by
  simp [returnShort]
@[simp] theorem logStarved_keeps (p : Pkg) (e short : Nat) : (logStarved p e short).pins = p.pins ∧ (logStarved p e
    short).tick = p.tick ∧ (logStarved p e short).glb = p.glb ∧ (logStarved p e short).arrays = p.arrays ∧ (logStarved p e
    short).ldr = p.ldr ∧ (logStarved p e short).nvw = p.nvw ∧ (logStarved p e short).ctxs = p.ctxs ∧ (logStarved p e
    short).numVfs = p.numVfs ∧ (logStarved p e short).reqs = p.reqs ∧ (logStarved p e short).lastGen = p.lastGen ∧ (logStarved
    p e short).rq = p.rq ∧ (logStarved p e short).kvp = p.kvp ∧ (logStarved p e short).fab = p.fab ∧ (logStarved p e
    short).lsh = p.lsh ∧ (logStarved p e short).hnd = p.hnd ∧ (logStarved p e short).mgt = p.mgt ∧ (logStarved p e short).i3c
    = p.i3c ∧ (logStarved p e short).freeCtr = p.freeCtr := by
  simp [logStarved]
@[simp] theorem cowDone_keeps (p : Pkg) (n src : Nat) : (cowDone p n src).pins = p.pins ∧ (cowDone p n src).tick = p.tick ∧
    (cowDone p n src).glb = p.glb ∧ (cowDone p n src).scn = p.scn ∧ (cowDone p n src).arrays = p.arrays ∧ (cowDone p n
    src).ldr = p.ldr ∧ (cowDone p n src).nvw = p.nvw ∧ (cowDone p n src).ctxs = p.ctxs ∧ (cowDone p n src).numVfs = p.numVfs ∧
    (cowDone p n src).reqs = p.reqs ∧ (cowDone p n src).lastGen = p.lastGen ∧ (cowDone p n src).rq = p.rq ∧ (cowDone p n
    src).kvp = p.kvp ∧ (cowDone p n src).fab = p.fab ∧ (cowDone p n src).lsh = p.lsh ∧ (cowDone p n src).hnd = p.hnd ∧
    (cowDone p n src).mgt = p.mgt ∧ (cowDone p n src).i3c = p.i3c ∧ (cowDone p n src).out = p.out ∧ (cowDone p n src).pba =
    p.pba ∧ (cowDone p n src).freeCtr = p.freeCtr := by
  simp [cowDone]
@[simp] theorem evictPage_keeps (p : Pkg) (e i : Nat) : (evictPage p e i).pins = p.pins ∧ (evictPage p e i).tick = p.tick ∧
    (evictPage p e i).glb = p.glb ∧ (evictPage p e i).scn = p.scn ∧ (evictPage p e i).arrays = p.arrays ∧ (evictPage p e
    i).ldr = p.ldr ∧ (evictPage p e i).nvw = p.nvw ∧ (evictPage p e i).ctxs = p.ctxs ∧ (evictPage p e i).numVfs = p.numVfs ∧
    (evictPage p e i).lastGen = p.lastGen ∧ (evictPage p e i).rq = p.rq ∧ (evictPage p e i).kvp = p.kvp ∧ (evictPage p e
    i).fab = p.fab ∧ (evictPage p e i).lsh = p.lsh ∧ (evictPage p e i).hnd = p.hnd ∧ (evictPage p e i).mgt = p.mgt ∧
    (evictPage p e i).i3c = p.i3c ∧ (evictPage p e i).out = p.out ∧ (evictPage p e i).pba = p.pba ∧ (evictPage p e i).freeCtr
    = p.freeCtr := by
  unfold evictPage; dsimp only; repeat' apply And.intro
  all_goals repeat' split
  all_goals try simp only [modReq_keeps, modPool_keeps, id_eq]
  all_goals repeat' (first
    | refine Eq.trans (forAll_pins _ _ _ ?_) ?_
    | refine Eq.trans (forAll_tick _ _ _ ?_) ?_
    | refine Eq.trans (forAll_glb _ _ _ ?_) ?_
    | refine Eq.trans (forAll_scn _ _ _ ?_) ?_
    | refine Eq.trans (forAll_arrays _ _ _ ?_) ?_
    | refine Eq.trans (forAll_ldr _ _ _ ?_) ?_
    | refine Eq.trans (forAll_nvw _ _ _ ?_) ?_
    | refine Eq.trans (forAll_ctxs _ _ _ ?_) ?_
    | refine Eq.trans (forAll_numVfs _ _ _ ?_) ?_
    | refine Eq.trans (forAll_lastGen _ _ _ ?_) ?_
    | refine Eq.trans (forAll_rq _ _ _ ?_) ?_
    | refine Eq.trans (forAll_kvp _ _ _ ?_) ?_
    | refine Eq.trans (forAll_fab _ _ _ ?_) ?_
    | refine Eq.trans (forAll_lsh _ _ _ ?_) ?_
    | refine Eq.trans (forAll_hnd _ _ _ ?_) ?_
    | refine Eq.trans (forAll_mgt _ _ _ ?_) ?_
    | refine Eq.trans (forAll_i3c _ _ _ ?_) ?_
    | refine Eq.trans (forAll_out _ _ _ ?_) ?_
    | refine Eq.trans (forAll_pba _ _ _ ?_) ?_
    | refine Eq.trans (forAll_freeCtr _ _ _ ?_) ?_
    | refine Eq.trans (foldl_pins _ _ _ ?_) ?_
    | refine Eq.trans (foldl_tick _ _ _ ?_) ?_
    | refine Eq.trans (foldl_glb _ _ _ ?_) ?_
    | refine Eq.trans (foldl_scn _ _ _ ?_) ?_
    | refine Eq.trans (foldl_arrays _ _ _ ?_) ?_
    | refine Eq.trans (foldl_ldr _ _ _ ?_) ?_
    | refine Eq.trans (foldl_nvw _ _ _ ?_) ?_
    | refine Eq.trans (foldl_ctxs _ _ _ ?_) ?_
    | refine Eq.trans (foldl_numVfs _ _ _ ?_) ?_
    | refine Eq.trans (foldl_lastGen _ _ _ ?_) ?_
    | refine Eq.trans (foldl_rq _ _ _ ?_) ?_
    | refine Eq.trans (foldl_kvp _ _ _ ?_) ?_
    | refine Eq.trans (foldl_fab _ _ _ ?_) ?_
    | refine Eq.trans (foldl_lsh _ _ _ ?_) ?_
    | refine Eq.trans (foldl_hnd _ _ _ ?_) ?_
    | refine Eq.trans (foldl_mgt _ _ _ ?_) ?_
    | refine Eq.trans (foldl_i3c _ _ _ ?_) ?_
    | refine Eq.trans (foldl_out _ _ _ ?_) ?_
    | refine Eq.trans (foldl_pba _ _ _ ?_) ?_
    | refine Eq.trans (foldl_freeCtr _ _ _ ?_) ?_
    | refine Eq.trans (foldlP_pins _ _ _ ?_) ?_
    | refine Eq.trans (foldlP_tick _ _ _ ?_) ?_
    | refine Eq.trans (foldlP_glb _ _ _ ?_) ?_
    | refine Eq.trans (foldlP_scn _ _ _ ?_) ?_
    | refine Eq.trans (foldlP_arrays _ _ _ ?_) ?_
    | refine Eq.trans (foldlP_ldr _ _ _ ?_) ?_
    | refine Eq.trans (foldlP_nvw _ _ _ ?_) ?_
    | refine Eq.trans (foldlP_ctxs _ _ _ ?_) ?_
    | refine Eq.trans (foldlP_numVfs _ _ _ ?_) ?_
    | refine Eq.trans (foldlP_lastGen _ _ _ ?_) ?_
    | refine Eq.trans (foldlP_rq _ _ _ ?_) ?_
    | refine Eq.trans (foldlP_kvp _ _ _ ?_) ?_
    | refine Eq.trans (foldlP_fab _ _ _ ?_) ?_
    | refine Eq.trans (foldlP_lsh _ _ _ ?_) ?_
    | refine Eq.trans (foldlP_hnd _ _ _ ?_) ?_
    | refine Eq.trans (foldlP_mgt _ _ _ ?_) ?_
    | refine Eq.trans (foldlP_i3c _ _ _ ?_) ?_
    | refine Eq.trans (foldlP_out _ _ _ ?_) ?_
    | refine Eq.trans (foldlP_pba _ _ _ ?_) ?_
    | refine Eq.trans (foldlP_freeCtr _ _ _ ?_) ?_)
  all_goals try intro q x
  all_goals try dsimp only
  all_goals repeat' split
  all_goals first | rfl | (simp_all; done)
@[simp] theorem evictReq_keeps (p : Pkg) (e : Nat) (t : Step) : (evictReq p e t).pins = p.pins ∧ (evictReq p e t).tick =
    p.tick ∧ (evictReq p e t).glb = p.glb ∧ (evictReq p e t).scn = p.scn ∧ (evictReq p e t).arrays = p.arrays ∧ (evictReq p e
    t).ldr = p.ldr ∧ (evictReq p e t).nvw = p.nvw ∧ (evictReq p e t).ctxs = p.ctxs ∧ (evictReq p e t).numVfs = p.numVfs ∧
    (evictReq p e t).lastGen = p.lastGen ∧ (evictReq p e t).rq = p.rq ∧ (evictReq p e t).kvp = p.kvp ∧ (evictReq p e t).fab =
    p.fab ∧ (evictReq p e t).lsh = p.lsh ∧ (evictReq p e t).hnd = p.hnd ∧ (evictReq p e t).mgt = p.mgt ∧ (evictReq p e t).i3c
    = p.i3c ∧ (evictReq p e t).out = p.out ∧ (evictReq p e t).pba = p.pba ∧ (evictReq p e t).freeCtr = p.freeCtr := by
  simp [evictReq]
@[simp] theorem evictReq_vital (p : Pkg) (e : ℕ) (t : Step) : (evictReq p e t).tick.refclkOk = p.tick.refclkOk ∧ (evictReq p e
    t).tick.phaseLocked = p.tick.phaseLocked ∧ (evictReq p e t).tick.holdover = p.tick.holdover := by
  simp [evictReq]
@[simp] theorem addMass_keeps (p : Pkg) (e page mass : Nat) : (addMass p e page mass).pins = p.pins ∧ (addMass p e page
    mass).tick = p.tick ∧ (addMass p e page mass).glb = p.glb ∧ (addMass p e page mass).scn = p.scn ∧ (addMass p e page
    mass).arrays = p.arrays ∧ (addMass p e page mass).ldr = p.ldr ∧ (addMass p e page mass).pens = p.pens ∧ (addMass p e page
    mass).nvw = p.nvw ∧ (addMass p e page mass).ctxs = p.ctxs ∧ (addMass p e page mass).numVfs = p.numVfs ∧ (addMass p e page
    mass).lastGen = p.lastGen ∧ (addMass p e page mass).rq = p.rq ∧ (addMass p e page mass).kvp = p.kvp ∧ (addMass p e page
    mass).fab = p.fab ∧ (addMass p e page mass).lsh = p.lsh ∧ (addMass p e page mass).hnd = p.hnd ∧ (addMass p e page
    mass).mgt = p.mgt ∧ (addMass p e page mass).i3c = p.i3c ∧ (addMass p e page mass).out = p.out ∧ (addMass p e page
    mass).pba = p.pba ∧ (addMass p e page mass).freeCtr = p.freeCtr := by
  simp [addMass]
@[simp] theorem wordDone_keeps (p : Pkg) (a : Nat) : (wordDone p a).pins = p.pins ∧ (wordDone p a).tick = p.tick ∧ (wordDone p
    a).glb = p.glb ∧ (wordDone p a).scn = p.scn ∧ (wordDone p a).ldr = p.ldr ∧ (wordDone p a).pens = p.pens ∧ (wordDone p
    a).nvw = p.nvw ∧ (wordDone p a).ctxs = p.ctxs ∧ (wordDone p a).numVfs = p.numVfs ∧ (wordDone p a).reqs = p.reqs ∧
    (wordDone p a).lastGen = p.lastGen ∧ (wordDone p a).rq = p.rq ∧ (wordDone p a).kvp = p.kvp ∧ (wordDone p a).fab = p.fab ∧
    (wordDone p a).lsh = p.lsh ∧ (wordDone p a).hnd = p.hnd ∧ (wordDone p a).mgt = p.mgt ∧ (wordDone p a).i3c = p.i3c ∧
    (wordDone p a).out = p.out ∧ (wordDone p a).pba = p.pba ∧ (wordDone p a).freeCtr = p.freeCtr := by
  simp [wordDone]
@[simp] theorem modData_keeps (p : Pkg) (a : Nat) (f : ArrData → ArrData) : (modData p a f).pins = p.pins ∧ (modData p a
    f).tick = p.tick ∧ (modData p a f).glb = p.glb ∧ (modData p a f).scn = p.scn ∧ (modData p a f).ldr = p.ldr ∧ (modData p a
    f).pens = p.pens ∧ (modData p a f).nvw = p.nvw ∧ (modData p a f).ctxs = p.ctxs ∧ (modData p a f).numVfs = p.numVfs ∧
    (modData p a f).reqs = p.reqs ∧ (modData p a f).lastGen = p.lastGen ∧ (modData p a f).rq = p.rq ∧ (modData p a f).kvp =
    p.kvp ∧ (modData p a f).fab = p.fab ∧ (modData p a f).lsh = p.lsh ∧ (modData p a f).hnd = p.hnd ∧ (modData p a f).mgt =
    p.mgt ∧ (modData p a f).i3c = p.i3c ∧ (modData p a f).out = p.out ∧ (modData p a f).pba = p.pba ∧ (modData p a f).freeCtr
    = p.freeCtr := by
  simp [modData]
@[simp] theorem bufPut_keeps (p : Pkg) (n k off : Nat) (d : Bytes) (base : Nat → Int) : (bufPut p n k off d base).pins =
    p.pins ∧ (bufPut p n k off d base).tick = p.tick ∧ (bufPut p n k off d base).glb = p.glb ∧ (bufPut p n k off d base).scn =
    p.scn ∧ (bufPut p n k off d base).arrays = p.arrays ∧ (bufPut p n k off d base).ldr = p.ldr ∧ (bufPut p n k off d
    base).nvw = p.nvw ∧ (bufPut p n k off d base).ctxs = p.ctxs ∧ (bufPut p n k off d base).numVfs = p.numVfs ∧ (bufPut p n k
    off d base).reqs = p.reqs ∧ (bufPut p n k off d base).lastGen = p.lastGen ∧ (bufPut p n k off d base).rq = p.rq ∧ (bufPut
    p n k off d base).kvp = p.kvp ∧ (bufPut p n k off d base).fab = p.fab ∧ (bufPut p n k off d base).lsh = p.lsh ∧ (bufPut p
    n k off d base).hnd = p.hnd ∧ (bufPut p n k off d base).mgt = p.mgt ∧ (bufPut p n k off d base).i3c = p.i3c ∧ (bufPut p n
    k off d base).out = p.out ∧ (bufPut p n k off d base).pba = p.pba ∧ (bufPut p n k off d base).freeCtr = p.freeCtr := by
  simp [bufPut]
@[simp] theorem retain_keeps (p : Pkg) (n : ℕ) (layer : ℕ) (us : List (Option (ℕ × ℕ) × Bytes × ℤ)) : (retain p n layer
    us).pins = p.pins ∧ (retain p n layer us).tick = p.tick ∧ (retain p n layer us).glb = p.glb ∧ (retain p n layer us).arrays
    = p.arrays ∧ (retain p n layer us).ldr = p.ldr ∧ (retain p n layer us).nvw = p.nvw ∧ (retain p n layer us).ctxs = p.ctxs ∧
    (retain p n layer us).numVfs = p.numVfs ∧ (retain p n layer us).reqs = p.reqs ∧ (retain p n layer us).lastGen = p.lastGen
    ∧ (retain p n layer us).rq = p.rq ∧ (retain p n layer us).kvp = p.kvp ∧ (retain p n layer us).fab = p.fab ∧ (retain p n
    layer us).hnd = p.hnd ∧ (retain p n layer us).mgt = p.mgt ∧ (retain p n layer us).i3c = p.i3c ∧ (retain p n layer
    us).freeCtr = p.freeCtr := by
  simp [retain]
@[simp] theorem storedOver_keeps (p : Pkg) (n : ℕ) (layer : ℕ) (buf : ℕ) (first : ℕ) (count : ℕ) : (storedOver p n layer buf
    first count).pins = p.pins ∧ (storedOver p n layer buf first count).tick = p.tick ∧ (storedOver p n layer buf first
    count).glb = p.glb ∧ (storedOver p n layer buf first count).arrays = p.arrays ∧ (storedOver p n layer buf first count).ldr
    = p.ldr ∧ (storedOver p n layer buf first count).nvw = p.nvw ∧ (storedOver p n layer buf first count).ctxs = p.ctxs ∧
    (storedOver p n layer buf first count).numVfs = p.numVfs ∧ (storedOver p n layer buf first count).reqs = p.reqs ∧
    (storedOver p n layer buf first count).lastGen = p.lastGen ∧ (storedOver p n layer buf first count).rq = p.rq ∧
    (storedOver p n layer buf first count).kvp = p.kvp ∧ (storedOver p n layer buf first count).fab = p.fab ∧ (storedOver p n
    layer buf first count).hnd = p.hnd ∧ (storedOver p n layer buf first count).mgt = p.mgt ∧ (storedOver p n layer buf first
    count).i3c = p.i3c ∧ (storedOver p n layer buf first count).freeCtr = p.freeCtr := by
  simp [storedOver]
@[simp] theorem countDelivered_keeps (p : Pkg) (n : ℕ) (first : ℕ) (lo : ℕ) (hi : ℕ) : (countDelivered p n first lo hi).pins =
    p.pins ∧ (countDelivered p n first lo hi).tick = p.tick ∧ (countDelivered p n first lo hi).glb = p.glb ∧ (countDelivered p
    n first lo hi).scn = p.scn ∧ (countDelivered p n first lo hi).arrays = p.arrays ∧ (countDelivered p n first lo hi).ldr =
    p.ldr ∧ (countDelivered p n first lo hi).nvw = p.nvw ∧ (countDelivered p n first lo hi).ctxs = p.ctxs ∧ (countDelivered p
    n first lo hi).numVfs = p.numVfs ∧ (countDelivered p n first lo hi).reqs = p.reqs ∧ (countDelivered p n first lo
    hi).lastGen = p.lastGen ∧ (countDelivered p n first lo hi).rq = p.rq ∧ (countDelivered p n first lo hi).kvp = p.kvp ∧
    (countDelivered p n first lo hi).fab = p.fab ∧ (countDelivered p n first lo hi).lsh = p.lsh ∧ (countDelivered p n first lo
    hi).hnd = p.hnd ∧ (countDelivered p n first lo hi).mgt = p.mgt ∧ (countDelivered p n first lo hi).i3c = p.i3c ∧
    (countDelivered p n first lo hi).out = p.out ∧ (countDelivered p n first lo hi).pba = p.pba ∧ (countDelivered p n first lo
    hi).freeCtr = p.freeCtr := by
  simp [countDelivered]
@[simp] theorem takeUnits_keeps (p : Pkg) (a : ℕ) (c : ℕ) (count : ℕ) : ∀ y0 q, takeUnits p a c count = some (y0, q) → q.pins
    = p.pins ∧ q.tick = p.tick ∧ q.glb = p.glb ∧ q.ldr = p.ldr ∧ q.nvw = p.nvw ∧ q.ctxs = p.ctxs ∧ q.numVfs = p.numVfs ∧
    q.reqs = p.reqs ∧ q.lastGen = p.lastGen ∧ q.rq = p.rq ∧ q.kvp = p.kvp ∧ q.fab = p.fab ∧ q.hnd = p.hnd ∧ q.mgt = p.mgt ∧
    q.i3c = p.i3c ∧ q.freeCtr = p.freeCtr := by
  unfold takeUnits; dsimp only; (repeat' split) <;> (simp_all; done)
@[simp] theorem opdFrom_keeps (p : Pkg) (a : Nat) (d : ArrData) (rows cols : Nat) (o : OpdSpec) : ∀ y0 q, opdFrom p a d rows
    cols o = some (y0, q) → q.pins = p.pins ∧ q.tick = p.tick ∧ q.glb = p.glb ∧ q.ldr = p.ldr ∧ q.nvw = p.nvw ∧ q.ctxs =
    p.ctxs ∧ q.numVfs = p.numVfs ∧ q.reqs = p.reqs ∧ q.lastGen = p.lastGen ∧ q.rq = p.rq ∧ q.kvp = p.kvp ∧ q.fab = p.fab ∧
    q.hnd = p.hnd ∧ q.mgt = p.mgt ∧ q.i3c = p.i3c ∧ q.freeCtr = p.freeCtr := by
  intro y0 q h; unfold opdFrom at h
  split at h
  · cases h; simp
  · split at h
    · rename_i hu
      have h1 := takeUnits_keeps _ _ _ _ _ _ hu
      cases h; simp_all
    · cases h
@[simp] theorem mmaOp_keeps (p : Pkg) (a : Nat) : ∀ q, mmaOp p a = some q → q.pins = p.pins ∧ q.tick = p.tick ∧ q.glb = p.glb
    ∧ q.ldr = p.ldr ∧ q.nvw = p.nvw ∧ q.ctxs = p.ctxs ∧ q.numVfs = p.numVfs ∧ q.reqs = p.reqs ∧ q.lastGen = p.lastGen ∧ q.rq =
    p.rq ∧ q.kvp = p.kvp ∧ q.fab = p.fab ∧ q.hnd = p.hnd ∧ q.mgt = p.mgt ∧ q.i3c = p.i3c ∧ q.freeCtr = p.freeCtr := by
  intro q h; unfold mmaOp at h; dsimp only at h
  split at h
  · cases h
  · split at h
    · cases h
    · rename_i h1 _ _ _ h2
      have k1 := opdFrom_keeps _ _ _ _ _ _ _ _ h1
      have k2 := opdFrom_keeps _ _ _ _ _ _ _ _ h2
      cases h; simp_all
@[simp] theorem rowfnOp_keeps (p : Pkg) (a : Nat) : (rowfnOp p a).pins = p.pins ∧ (rowfnOp p a).tick = p.tick ∧ (rowfnOp p
    a).glb = p.glb ∧ (rowfnOp p a).scn = p.scn ∧ (rowfnOp p a).ldr = p.ldr ∧ (rowfnOp p a).pens = p.pens ∧ (rowfnOp p a).nvw =
    p.nvw ∧ (rowfnOp p a).ctxs = p.ctxs ∧ (rowfnOp p a).numVfs = p.numVfs ∧ (rowfnOp p a).reqs = p.reqs ∧ (rowfnOp p
    a).lastGen = p.lastGen ∧ (rowfnOp p a).rq = p.rq ∧ (rowfnOp p a).kvp = p.kvp ∧ (rowfnOp p a).fab = p.fab ∧ (rowfnOp p
    a).lsh = p.lsh ∧ (rowfnOp p a).hnd = p.hnd ∧ (rowfnOp p a).mgt = p.mgt ∧ (rowfnOp p a).i3c = p.i3c ∧ (rowfnOp p a).out =
    p.out ∧ (rowfnOp p a).pba = p.pba ∧ (rowfnOp p a).freeCtr = p.freeCtr := by
  simp [rowfnOp]
@[simp] theorem takeGather_keeps (p : Pkg) (a : ℕ) (c : ℕ) (values : Bool) (g : Gathered) : (takeGather p a c values g).pins =
    p.pins ∧ (takeGather p a c values g).tick = p.tick ∧ (takeGather p a c values g).glb = p.glb ∧ (takeGather p a c values
    g).scn = p.scn ∧ (takeGather p a c values g).ldr = p.ldr ∧ (takeGather p a c values g).pens = p.pens ∧ (takeGather p a c
    values g).nvw = p.nvw ∧ (takeGather p a c values g).ctxs = p.ctxs ∧ (takeGather p a c values g).numVfs = p.numVfs ∧
    (takeGather p a c values g).reqs = p.reqs ∧ (takeGather p a c values g).lastGen = p.lastGen ∧ (takeGather p a c values
    g).rq = p.rq ∧ (takeGather p a c values g).kvp = p.kvp ∧ (takeGather p a c values g).fab = p.fab ∧ (takeGather p a c
    values g).lsh = p.lsh ∧ (takeGather p a c values g).hnd = p.hnd ∧ (takeGather p a c values g).mgt = p.mgt ∧ (takeGather p
    a c values g).i3c = p.i3c ∧ (takeGather p a c values g).out = p.out ∧ (takeGather p a c values g).pba = p.pba ∧
    (takeGather p a c values g).freeCtr = p.freeCtr := by
  simp [takeGather]
@[simp] theorem fuseFrom_keeps (p : Pkg) (a : Nat) (d : ArrData) (rows cols : Nat) (values : Bool) (o : OpdSpec) : ∀ y0 y1 q,
    fuseFrom p a d rows cols values o = some (y0, y1, q) → q.pins = p.pins ∧ q.tick = p.tick ∧ q.glb = p.glb ∧ q.ldr = p.ldr ∧
    q.nvw = p.nvw ∧ q.ctxs = p.ctxs ∧ q.numVfs = p.numVfs ∧ q.reqs = p.reqs ∧ q.lastGen = p.lastGen ∧ q.rq = p.rq ∧ q.kvp =
    p.kvp ∧ q.fab = p.fab ∧ q.hnd = p.hnd ∧ q.mgt = p.mgt ∧ q.i3c = p.i3c ∧ q.freeCtr = p.freeCtr := by
  intro y0 y1 q h; unfold fuseFrom at h; extract_lets g at h
  split at h
  · simp only [Option.some.injEq, Prod.mk.injEq] at h; obtain ⟨-, -, rfl⟩ := h; simp
  · split at h
    · rename_i hu
      have h1 := opdFrom_keeps _ _ _ _ _ _ _ _ hu
      simp only [Option.some.injEq, Prod.mk.injEq] at h; obtain ⟨-, -, rfl⟩ := h; exact h1
    · cases h
@[simp] theorem sendMasses_keeps (p : Pkg) (n : ℕ) (g : Option Gathered) (masses : List (ℕ × ℕ)) : (sendMasses p n g
    masses).pins = p.pins ∧ (sendMasses p n g masses).tick = p.tick ∧ (sendMasses p n g masses).glb = p.glb ∧ (sendMasses p n
    g masses).scn = p.scn ∧ (sendMasses p n g masses).arrays = p.arrays ∧ (sendMasses p n g masses).ldr = p.ldr ∧ (sendMasses
    p n g masses).nvw = p.nvw ∧ (sendMasses p n g masses).ctxs = p.ctxs ∧ (sendMasses p n g masses).numVfs = p.numVfs ∧
    (sendMasses p n g masses).lastGen = p.lastGen ∧ (sendMasses p n g masses).rq = p.rq ∧ (sendMasses p n g masses).kvp =
    p.kvp ∧ (sendMasses p n g masses).fab = p.fab ∧ (sendMasses p n g masses).lsh = p.lsh ∧ (sendMasses p n g masses).hnd =
    p.hnd ∧ (sendMasses p n g masses).mgt = p.mgt ∧ (sendMasses p n g masses).i3c = p.i3c ∧ (sendMasses p n g masses).out =
    p.out ∧ (sendMasses p n g masses).pba = p.pba ∧ (sendMasses p n g masses).freeCtr = p.freeCtr := by
  unfold sendMasses; dsimp only; repeat' apply And.intro
  all_goals repeat' split
  all_goals try simp only [modStep_keeps, growKeys_keeps, id_eq]
  all_goals repeat' (first
    | refine Eq.trans (forAll_pins _ _ _ ?_) ?_
    | refine Eq.trans (forAll_tick _ _ _ ?_) ?_
    | refine Eq.trans (forAll_glb _ _ _ ?_) ?_
    | refine Eq.trans (forAll_scn _ _ _ ?_) ?_
    | refine Eq.trans (forAll_arrays _ _ _ ?_) ?_
    | refine Eq.trans (forAll_ldr _ _ _ ?_) ?_
    | refine Eq.trans (forAll_nvw _ _ _ ?_) ?_
    | refine Eq.trans (forAll_ctxs _ _ _ ?_) ?_
    | refine Eq.trans (forAll_numVfs _ _ _ ?_) ?_
    | refine Eq.trans (forAll_lastGen _ _ _ ?_) ?_
    | refine Eq.trans (forAll_rq _ _ _ ?_) ?_
    | refine Eq.trans (forAll_kvp _ _ _ ?_) ?_
    | refine Eq.trans (forAll_fab _ _ _ ?_) ?_
    | refine Eq.trans (forAll_lsh _ _ _ ?_) ?_
    | refine Eq.trans (forAll_hnd _ _ _ ?_) ?_
    | refine Eq.trans (forAll_mgt _ _ _ ?_) ?_
    | refine Eq.trans (forAll_i3c _ _ _ ?_) ?_
    | refine Eq.trans (forAll_out _ _ _ ?_) ?_
    | refine Eq.trans (forAll_pba _ _ _ ?_) ?_
    | refine Eq.trans (forAll_freeCtr _ _ _ ?_) ?_
    | refine Eq.trans (foldl_pins _ _ _ ?_) ?_
    | refine Eq.trans (foldl_tick _ _ _ ?_) ?_
    | refine Eq.trans (foldl_glb _ _ _ ?_) ?_
    | refine Eq.trans (foldl_scn _ _ _ ?_) ?_
    | refine Eq.trans (foldl_arrays _ _ _ ?_) ?_
    | refine Eq.trans (foldl_ldr _ _ _ ?_) ?_
    | refine Eq.trans (foldl_nvw _ _ _ ?_) ?_
    | refine Eq.trans (foldl_ctxs _ _ _ ?_) ?_
    | refine Eq.trans (foldl_numVfs _ _ _ ?_) ?_
    | refine Eq.trans (foldl_lastGen _ _ _ ?_) ?_
    | refine Eq.trans (foldl_rq _ _ _ ?_) ?_
    | refine Eq.trans (foldl_kvp _ _ _ ?_) ?_
    | refine Eq.trans (foldl_fab _ _ _ ?_) ?_
    | refine Eq.trans (foldl_lsh _ _ _ ?_) ?_
    | refine Eq.trans (foldl_hnd _ _ _ ?_) ?_
    | refine Eq.trans (foldl_mgt _ _ _ ?_) ?_
    | refine Eq.trans (foldl_i3c _ _ _ ?_) ?_
    | refine Eq.trans (foldl_out _ _ _ ?_) ?_
    | refine Eq.trans (foldl_pba _ _ _ ?_) ?_
    | refine Eq.trans (foldl_freeCtr _ _ _ ?_) ?_
    | refine Eq.trans (foldlP_pins _ _ _ ?_) ?_
    | refine Eq.trans (foldlP_tick _ _ _ ?_) ?_
    | refine Eq.trans (foldlP_glb _ _ _ ?_) ?_
    | refine Eq.trans (foldlP_scn _ _ _ ?_) ?_
    | refine Eq.trans (foldlP_arrays _ _ _ ?_) ?_
    | refine Eq.trans (foldlP_ldr _ _ _ ?_) ?_
    | refine Eq.trans (foldlP_nvw _ _ _ ?_) ?_
    | refine Eq.trans (foldlP_ctxs _ _ _ ?_) ?_
    | refine Eq.trans (foldlP_numVfs _ _ _ ?_) ?_
    | refine Eq.trans (foldlP_lastGen _ _ _ ?_) ?_
    | refine Eq.trans (foldlP_rq _ _ _ ?_) ?_
    | refine Eq.trans (foldlP_kvp _ _ _ ?_) ?_
    | refine Eq.trans (foldlP_fab _ _ _ ?_) ?_
    | refine Eq.trans (foldlP_lsh _ _ _ ?_) ?_
    | refine Eq.trans (foldlP_hnd _ _ _ ?_) ?_
    | refine Eq.trans (foldlP_mgt _ _ _ ?_) ?_
    | refine Eq.trans (foldlP_i3c _ _ _ ?_) ?_
    | refine Eq.trans (foldlP_out _ _ _ ?_) ?_
    | refine Eq.trans (foldlP_pba _ _ _ ?_) ?_
    | refine Eq.trans (foldlP_freeCtr _ _ _ ?_) ?_)
  all_goals try intro q x
  all_goals try dsimp only
  all_goals repeat' split
  all_goals first | rfl | (simp_all; done)
@[simp] theorem fuseWrite_keeps (p : Pkg) (q : Pkg) (a : ℕ) (gb : Option Gathered) (f : Fuse) : (fuseWrite p q a gb f).pins =
    q.pins ∧ (fuseWrite p q a gb f).tick = q.tick ∧ (fuseWrite p q a gb f).glb = q.glb ∧ (fuseWrite p q a gb f).scn = q.scn ∧
    (fuseWrite p q a gb f).ldr = q.ldr ∧ (fuseWrite p q a gb f).nvw = q.nvw ∧ (fuseWrite p q a gb f).ctxs = q.ctxs ∧
    (fuseWrite p q a gb f).numVfs = q.numVfs ∧ (fuseWrite p q a gb f).lastGen = q.lastGen ∧ (fuseWrite p q a gb f).rq = q.rq ∧
    (fuseWrite p q a gb f).kvp = q.kvp ∧ (fuseWrite p q a gb f).fab = q.fab ∧ (fuseWrite p q a gb f).lsh = q.lsh ∧ (fuseWrite
    p q a gb f).hnd = q.hnd ∧ (fuseWrite p q a gb f).mgt = q.mgt ∧ (fuseWrite p q a gb f).i3c = q.i3c ∧ (fuseWrite p q a gb
    f).out = q.out ∧ (fuseWrite p q a gb f).pba = q.pba := by
  simp [fuseWrite]
@[simp] theorem fuse2Op_keeps (p : Pkg) (a : Nat) : ∀ q, fuse2Op p a = some q → q.pins = p.pins ∧ q.tick = p.tick ∧ q.glb =
    p.glb ∧ q.ldr = p.ldr ∧ q.nvw = p.nvw ∧ q.ctxs = p.ctxs ∧ q.numVfs = p.numVfs ∧ q.lastGen = p.lastGen ∧ q.rq = p.rq ∧
    q.kvp = p.kvp ∧ q.fab = p.fab ∧ q.hnd = p.hnd ∧ q.mgt = p.mgt ∧ q.i3c = p.i3c := by
  intro q h; unfold fuse2Op at h; dsimp only at h
  split at h
  · cases h
  · rename_i h1
    split at h
    · cases h
    · rename_i h2
      split at h
      · cases h
      · rename_i h3
        have k1 := opdFrom_keeps _ _ _ _ _ _ _ _ h1
        have k2 := fuseFrom_keeps _ _ _ _ _ _ _ _ _ _ h2
        have k3 := fuseFrom_keeps _ _ _ _ _ _ _ _ _ _ h3
        injection h with h
        rw [← h]
        simp only [fuseWrite_keeps, k1, k2, k3, and_self]
@[simp] theorem readBuffer_keeps (p : Pkg) (a b off count : ℕ) : (readBuffer p a b off count).2.pins = p.pins ∧ (readBuffer p
    a b off count).2.tick = p.tick ∧ (readBuffer p a b off count).2.glb = p.glb ∧ (readBuffer p a b off count).2.arrays =
    p.arrays ∧ (readBuffer p a b off count).2.ldr = p.ldr ∧ (readBuffer p a b off count).2.nvw = p.nvw ∧ (readBuffer p a b off
    count).2.ctxs = p.ctxs ∧ (readBuffer p a b off count).2.numVfs = p.numVfs ∧ (readBuffer p a b off count).2.reqs = p.reqs ∧
    (readBuffer p a b off count).2.lastGen = p.lastGen ∧ (readBuffer p a b off count).2.rq = p.rq ∧ (readBuffer p a b off
    count).2.kvp = p.kvp ∧ (readBuffer p a b off count).2.fab = p.fab ∧ (readBuffer p a b off count).2.hnd = p.hnd ∧
    (readBuffer p a b off count).2.mgt = p.mgt ∧ (readBuffer p a b off count).2.i3c = p.i3c ∧ (readBuffer p a b off
    count).2.freeCtr = p.freeCtr := by
  simp [readBuffer]
@[simp] theorem loadOp_keeps (p : Pkg) (a : Nat) : ∀ q, loadOp p a = some q → q.pins = p.pins ∧ q.tick = p.tick ∧ q.glb =
    p.glb ∧ q.ldr = p.ldr ∧ q.nvw = p.nvw ∧ q.ctxs = p.ctxs ∧ q.numVfs = p.numVfs ∧ q.reqs = p.reqs ∧ q.lastGen = p.lastGen ∧
    q.rq = p.rq ∧ q.kvp = p.kvp ∧ q.fab = p.fab ∧ q.hnd = p.hnd ∧ q.mgt = p.mgt ∧ q.i3c = p.i3c ∧ q.freeCtr = p.freeCtr := by
  intro q h; unfold loadOp at h; extract_lets w count dst units at h
  have hu : ∀ us p1, units = some (us, p1) → p1.pins = p.pins ∧ p1.tick = p.tick ∧ p1.glb = p.glb ∧ p1.ldr = p.ldr ∧ p1.nvw = p.nvw ∧ p1.ctxs = p.ctxs ∧ p1.numVfs = p.numVfs ∧ p1.reqs = p.reqs ∧ p1.lastGen = p.lastGen ∧ p1.rq = p.rq ∧ p1.kvp = p.kvp ∧ p1.fab = p.fab ∧ p1.hnd = p.hnd ∧ p1.mgt = p.mgt ∧ p1.i3c = p.i3c ∧ p1.freeCtr = p.freeCtr := by
    intro us p1 hx
    simp only [units] at hx
    split at hx
    · have e := (Option.some.inj hx); have := readBuffer_keeps p a (wbits w 0 19 8) (wbits w 4 31 0) count; rw [e] at this; simp_all
    · exact takeUnits_keeps _ _ _ _ _ _ hx
  clear_value units
  split at h
  · cases h
  · rename_i us p1
    have k := hu _ _ rfl
    cases h; simp_all
@[simp] theorem storeOwn_keeps (p : Pkg) (a : ℕ) (w : ℕ) (len : ℕ) : (storeOwn p a w len).pins = p.pins ∧ (storeOwn p a w
    len).tick = p.tick ∧ (storeOwn p a w len).glb = p.glb ∧ (storeOwn p a w len).scn = p.scn ∧ (storeOwn p a w len).arrays =
    p.arrays ∧ (storeOwn p a w len).ldr = p.ldr ∧ (storeOwn p a w len).nvw = p.nvw ∧ (storeOwn p a w len).ctxs = p.ctxs ∧
    (storeOwn p a w len).numVfs = p.numVfs ∧ (storeOwn p a w len).reqs = p.reqs ∧ (storeOwn p a w len).lastGen = p.lastGen ∧
    (storeOwn p a w len).rq = p.rq ∧ (storeOwn p a w len).kvp = p.kvp ∧ (storeOwn p a w len).fab = p.fab ∧ (storeOwn p a w
    len).lsh = p.lsh ∧ (storeOwn p a w len).hnd = p.hnd ∧ (storeOwn p a w len).mgt = p.mgt ∧ (storeOwn p a w len).i3c = p.i3c
    ∧ (storeOwn p a w len).out = p.out ∧ (storeOwn p a w len).pba = p.pba ∧ (storeOwn p a w len).freeCtr = p.freeCtr := by
  unfold storeOwn; dsimp only; repeat' apply And.intro
  all_goals repeat' split
  all_goals try simp only [storedOver_keeps, id_eq]
  all_goals repeat' (first
    | refine Eq.trans (forAll_pins _ _ _ ?_) ?_
    | refine Eq.trans (forAll_tick _ _ _ ?_) ?_
    | refine Eq.trans (forAll_glb _ _ _ ?_) ?_
    | refine Eq.trans (forAll_scn _ _ _ ?_) ?_
    | refine Eq.trans (forAll_arrays _ _ _ ?_) ?_
    | refine Eq.trans (forAll_ldr _ _ _ ?_) ?_
    | refine Eq.trans (forAll_nvw _ _ _ ?_) ?_
    | refine Eq.trans (forAll_ctxs _ _ _ ?_) ?_
    | refine Eq.trans (forAll_numVfs _ _ _ ?_) ?_
    | refine Eq.trans (forAll_reqs _ _ _ ?_) ?_
    | refine Eq.trans (forAll_lastGen _ _ _ ?_) ?_
    | refine Eq.trans (forAll_rq _ _ _ ?_) ?_
    | refine Eq.trans (forAll_kvp _ _ _ ?_) ?_
    | refine Eq.trans (forAll_fab _ _ _ ?_) ?_
    | refine Eq.trans (forAll_lsh _ _ _ ?_) ?_
    | refine Eq.trans (forAll_hnd _ _ _ ?_) ?_
    | refine Eq.trans (forAll_mgt _ _ _ ?_) ?_
    | refine Eq.trans (forAll_i3c _ _ _ ?_) ?_
    | refine Eq.trans (forAll_out _ _ _ ?_) ?_
    | refine Eq.trans (forAll_pba _ _ _ ?_) ?_
    | refine Eq.trans (forAll_freeCtr _ _ _ ?_) ?_
    | refine Eq.trans (foldl_pins _ _ _ ?_) ?_
    | refine Eq.trans (foldl_tick _ _ _ ?_) ?_
    | refine Eq.trans (foldl_glb _ _ _ ?_) ?_
    | refine Eq.trans (foldl_scn _ _ _ ?_) ?_
    | refine Eq.trans (foldl_arrays _ _ _ ?_) ?_
    | refine Eq.trans (foldl_ldr _ _ _ ?_) ?_
    | refine Eq.trans (foldl_nvw _ _ _ ?_) ?_
    | refine Eq.trans (foldl_ctxs _ _ _ ?_) ?_
    | refine Eq.trans (foldl_numVfs _ _ _ ?_) ?_
    | refine Eq.trans (foldl_reqs _ _ _ ?_) ?_
    | refine Eq.trans (foldl_lastGen _ _ _ ?_) ?_
    | refine Eq.trans (foldl_rq _ _ _ ?_) ?_
    | refine Eq.trans (foldl_kvp _ _ _ ?_) ?_
    | refine Eq.trans (foldl_fab _ _ _ ?_) ?_
    | refine Eq.trans (foldl_lsh _ _ _ ?_) ?_
    | refine Eq.trans (foldl_hnd _ _ _ ?_) ?_
    | refine Eq.trans (foldl_mgt _ _ _ ?_) ?_
    | refine Eq.trans (foldl_i3c _ _ _ ?_) ?_
    | refine Eq.trans (foldl_out _ _ _ ?_) ?_
    | refine Eq.trans (foldl_pba _ _ _ ?_) ?_
    | refine Eq.trans (foldl_freeCtr _ _ _ ?_) ?_
    | refine Eq.trans (foldlP_pins _ _ _ ?_) ?_
    | refine Eq.trans (foldlP_tick _ _ _ ?_) ?_
    | refine Eq.trans (foldlP_glb _ _ _ ?_) ?_
    | refine Eq.trans (foldlP_scn _ _ _ ?_) ?_
    | refine Eq.trans (foldlP_arrays _ _ _ ?_) ?_
    | refine Eq.trans (foldlP_ldr _ _ _ ?_) ?_
    | refine Eq.trans (foldlP_nvw _ _ _ ?_) ?_
    | refine Eq.trans (foldlP_ctxs _ _ _ ?_) ?_
    | refine Eq.trans (foldlP_numVfs _ _ _ ?_) ?_
    | refine Eq.trans (foldlP_reqs _ _ _ ?_) ?_
    | refine Eq.trans (foldlP_lastGen _ _ _ ?_) ?_
    | refine Eq.trans (foldlP_rq _ _ _ ?_) ?_
    | refine Eq.trans (foldlP_kvp _ _ _ ?_) ?_
    | refine Eq.trans (foldlP_fab _ _ _ ?_) ?_
    | refine Eq.trans (foldlP_lsh _ _ _ ?_) ?_
    | refine Eq.trans (foldlP_hnd _ _ _ ?_) ?_
    | refine Eq.trans (foldlP_mgt _ _ _ ?_) ?_
    | refine Eq.trans (foldlP_i3c _ _ _ ?_) ?_
    | refine Eq.trans (foldlP_out _ _ _ ?_) ?_
    | refine Eq.trans (foldlP_pba _ _ _ ?_) ?_
    | refine Eq.trans (foldlP_freeCtr _ _ _ ?_) ?_)
  all_goals try intro q x
  all_goals try dsimp only
  all_goals repeat' split
  all_goals first | rfl | (simp_all; done)
@[simp] theorem storeAt_keeps (p : Pkg) (a w off : Nat) (b : Bytes) (base : Int) : (storeAt p a w off b base).pins = p.pins ∧
    (storeAt p a w off b base).tick = p.tick ∧ (storeAt p a w off b base).glb = p.glb ∧ (storeAt p a w off b base).scn = p.scn
    ∧ (storeAt p a w off b base).ldr = p.ldr ∧ (storeAt p a w off b base).nvw = p.nvw ∧ (storeAt p a w off b base).ctxs =
    p.ctxs ∧ (storeAt p a w off b base).numVfs = p.numVfs ∧ (storeAt p a w off b base).reqs = p.reqs ∧ (storeAt p a w off b
    base).lastGen = p.lastGen ∧ (storeAt p a w off b base).rq = p.rq ∧ (storeAt p a w off b base).kvp = p.kvp ∧ (storeAt p a w
    off b base).fab = p.fab ∧ (storeAt p a w off b base).lsh = p.lsh ∧ (storeAt p a w off b base).hnd = p.hnd ∧ (storeAt p a w
    off b base).mgt = p.mgt ∧ (storeAt p a w off b base).i3c = p.i3c ∧ (storeAt p a w off b base).out = p.out ∧ (storeAt p a w
    off b base).pba = p.pba ∧ (storeAt p a w off b base).freeCtr = p.freeCtr := by
  simp [storeAt]
@[simp] theorem storeRow_keeps (p : Pkg) (a w i : Nat) (r : LRec) (x : Plane) (d : ArrData) : (storeRow p a w i r x d).1.pins
    = p.pins ∧ (storeRow p a w i r x d).1.tick = p.tick ∧ (storeRow p a w i r x d).1.glb = p.glb ∧ (storeRow p a w i r x
    d).1.ldr = p.ldr ∧ (storeRow p a w i r x d).1.nvw = p.nvw ∧ (storeRow p a w i r x d).1.ctxs = p.ctxs ∧ (storeRow p a w i r
    x d).1.numVfs = p.numVfs ∧ (storeRow p a w i r x d).1.lastGen = p.lastGen ∧ (storeRow p a w i r x d).1.rq = p.rq ∧
    (storeRow p a w i r x d).1.kvp = p.kvp ∧ (storeRow p a w i r x d).1.fab = p.fab ∧ (storeRow p a w i r x d).1.hnd = p.hnd ∧
    (storeRow p a w i r x d).1.mgt = p.mgt ∧ (storeRow p a w i r x d).1.i3c = p.i3c ∧ (storeRow p a w i r x d).1.freeCtr =
    p.freeCtr := by
  unfold storeRow; (repeat' split) <;> (simp_all; done)
@[simp] theorem storeOp_keeps (p : Pkg) (a : Nat) : (storeOp p a).pins = p.pins ∧ (storeOp p a).tick = p.tick ∧ (storeOp p
    a).glb = p.glb ∧ (storeOp p a).ldr = p.ldr ∧ (storeOp p a).nvw = p.nvw ∧ (storeOp p a).ctxs = p.ctxs ∧ (storeOp p
    a).numVfs = p.numVfs ∧ (storeOp p a).lastGen = p.lastGen ∧ (storeOp p a).rq = p.rq ∧ (storeOp p a).kvp = p.kvp ∧ (storeOp
    p a).fab = p.fab ∧ (storeOp p a).hnd = p.hnd ∧ (storeOp p a).mgt = p.mgt ∧ (storeOp p a).i3c = p.i3c ∧ (storeOp p
    a).freeCtr = p.freeCtr := by
  simp [storeOp]
@[simp] theorem storeRowOp_keeps (p : Pkg) (a : Nat) : (storeRowOp p a).pins = p.pins ∧ (storeRowOp p a).tick = p.tick ∧
    (storeRowOp p a).glb = p.glb ∧ (storeRowOp p a).scn = p.scn ∧ (storeRowOp p a).ldr = p.ldr ∧ (storeRowOp p a).nvw = p.nvw
    ∧ (storeRowOp p a).ctxs = p.ctxs ∧ (storeRowOp p a).numVfs = p.numVfs ∧ (storeRowOp p a).reqs = p.reqs ∧ (storeRowOp p
    a).lastGen = p.lastGen ∧ (storeRowOp p a).rq = p.rq ∧ (storeRowOp p a).kvp = p.kvp ∧ (storeRowOp p a).fab = p.fab ∧
    (storeRowOp p a).lsh = p.lsh ∧ (storeRowOp p a).hnd = p.hnd ∧ (storeRowOp p a).mgt = p.mgt ∧ (storeRowOp p a).i3c = p.i3c
    ∧ (storeRowOp p a).out = p.out ∧ (storeRowOp p a).pba = p.pba ∧ (storeRowOp p a).freeCtr = p.freeCtr := by
  simp [storeRowOp]
@[simp] theorem masksetOp_keeps (p : Pkg) (a : Nat) : (masksetOp p a).pins = p.pins ∧ (masksetOp p a).tick = p.tick ∧
    (masksetOp p a).glb = p.glb ∧ (masksetOp p a).scn = p.scn ∧ (masksetOp p a).ldr = p.ldr ∧ (masksetOp p a).pens = p.pens ∧
    (masksetOp p a).nvw = p.nvw ∧ (masksetOp p a).ctxs = p.ctxs ∧ (masksetOp p a).numVfs = p.numVfs ∧ (masksetOp p a).reqs =
    p.reqs ∧ (masksetOp p a).lastGen = p.lastGen ∧ (masksetOp p a).rq = p.rq ∧ (masksetOp p a).kvp = p.kvp ∧ (masksetOp p
    a).fab = p.fab ∧ (masksetOp p a).lsh = p.lsh ∧ (masksetOp p a).hnd = p.hnd ∧ (masksetOp p a).mgt = p.mgt ∧ (masksetOp p
    a).i3c = p.i3c ∧ (masksetOp p a).out = p.out ∧ (masksetOp p a).pba = p.pba ∧ (masksetOp p a).freeCtr = p.freeCtr := by
  simp [masksetOp]
@[simp] theorem modNvw_keeps (p : Pkg) (f : Nvw → Nvw) : (modNvw p f).pins = p.pins ∧ (modNvw p f).tick = p.tick ∧ (modNvw p
    f).glb = p.glb ∧ (modNvw p f).scn = p.scn ∧ (modNvw p f).arrays = p.arrays ∧ (modNvw p f).ldr = p.ldr ∧ (modNvw p f).pens
    = p.pens ∧ (modNvw p f).ctxs = p.ctxs ∧ (modNvw p f).numVfs = p.numVfs ∧ (modNvw p f).reqs = p.reqs ∧ (modNvw p f).lastGen
    = p.lastGen ∧ (modNvw p f).rq = p.rq ∧ (modNvw p f).kvp = p.kvp ∧ (modNvw p f).fab = p.fab ∧ (modNvw p f).lsh = p.lsh ∧
    (modNvw p f).hnd = p.hnd ∧ (modNvw p f).mgt = p.mgt ∧ (modNvw p f).i3c = p.i3c ∧ (modNvw p f).out = p.out ∧ (modNvw p
    f).pba = p.pba ∧ (modNvw p f).freeCtr = p.freeCtr := by
  simp [modNvw]
@[simp] theorem logSlot_keeps (p : Pkg) (code k p2 : Nat) : (logSlot p code k p2).pins = p.pins ∧ (logSlot p code k p2).tick =
    p.tick ∧ (logSlot p code k p2).glb = p.glb ∧ (logSlot p code k p2).arrays = p.arrays ∧ (logSlot p code k p2).ldr = p.ldr ∧
    (logSlot p code k p2).pens = p.pens ∧ (logSlot p code k p2).nvw = p.nvw ∧ (logSlot p code k p2).ctxs = p.ctxs ∧ (logSlot p
    code k p2).numVfs = p.numVfs ∧ (logSlot p code k p2).reqs = p.reqs ∧ (logSlot p code k p2).lastGen = p.lastGen ∧ (logSlot
    p code k p2).rq = p.rq ∧ (logSlot p code k p2).kvp = p.kvp ∧ (logSlot p code k p2).fab = p.fab ∧ (logSlot p code k p2).lsh
    = p.lsh ∧ (logSlot p code k p2).hnd = p.hnd ∧ (logSlot p code k p2).mgt = p.mgt ∧ (logSlot p code k p2).i3c = p.i3c ∧
    (logSlot p code k p2).freeCtr = p.freeCtr := by
  simp [logSlot]
@[simp] theorem logSlot_vital (p : Pkg) (code : ℕ) (k : ℕ) (p2 : ℕ) : (logSlot p code k p2).tick.refclkOk = p.tick.refclkOk ∧
    (logSlot p code k p2).tick.phaseLocked = p.tick.phaseLocked ∧ (logSlot p code k p2).tick.holdover = p.tick.holdover := by
  simp [logSlot]
@[simp] theorem verifySlot_keeps (p : Pkg) (k : Nat) (readable : Bool) : (verifySlot p k readable).pins = p.pins ∧ (verifySlot
    p k readable).tick = p.tick ∧ (verifySlot p k readable).glb = p.glb ∧ (verifySlot p k readable).arrays = p.arrays ∧
    (verifySlot p k readable).ldr = p.ldr ∧ (verifySlot p k readable).pens = p.pens ∧ (verifySlot p k readable).ctxs = p.ctxs
    ∧ (verifySlot p k readable).numVfs = p.numVfs ∧ (verifySlot p k readable).reqs = p.reqs ∧ (verifySlot p k
    readable).lastGen = p.lastGen ∧ (verifySlot p k readable).rq = p.rq ∧ (verifySlot p k readable).kvp = p.kvp ∧ (verifySlot
    p k readable).fab = p.fab ∧ (verifySlot p k readable).lsh = p.lsh ∧ (verifySlot p k readable).hnd = p.hnd ∧ (verifySlot p
    k readable).mgt = p.mgt ∧ (verifySlot p k readable).i3c = p.i3c ∧ (verifySlot p k readable).freeCtr = p.freeCtr := by
  simp [verifySlot]
@[simp] theorem judgeVerify_keeps (p : Pkg) : (judgeVerify p).pins = p.pins ∧ (judgeVerify p).tick = p.tick ∧ (judgeVerify
    p).glb = p.glb ∧ (judgeVerify p).arrays = p.arrays ∧ (judgeVerify p).ldr = p.ldr ∧ (judgeVerify p).pens = p.pens ∧
    (judgeVerify p).ctxs = p.ctxs ∧ (judgeVerify p).numVfs = p.numVfs ∧ (judgeVerify p).reqs = p.reqs ∧ (judgeVerify
    p).lastGen = p.lastGen ∧ (judgeVerify p).rq = p.rq ∧ (judgeVerify p).kvp = p.kvp ∧ (judgeVerify p).fab = p.fab ∧
    (judgeVerify p).lsh = p.lsh ∧ (judgeVerify p).hnd = p.hnd ∧ (judgeVerify p).mgt = p.mgt ∧ (judgeVerify p).i3c = p.i3c ∧
    (judgeVerify p).freeCtr = p.freeCtr := by
  simp [judgeVerify]
@[simp] theorem readReplica_keeps (p : Pkg) (x : Replica) (off : ℕ) (len : ℕ) : (readReplica p x off len).pins = p.pins ∧
    (readReplica p x off len).tick = p.tick ∧ (readReplica p x off len).glb = p.glb ∧ (readReplica p x off len).scn = p.scn ∧
    (readReplica p x off len).arrays = p.arrays ∧ (readReplica p x off len).ldr = p.ldr ∧ (readReplica p x off len).pens =
    p.pens ∧ (readReplica p x off len).nvw = p.nvw ∧ (readReplica p x off len).ctxs = p.ctxs ∧ (readReplica p x off
    len).numVfs = p.numVfs ∧ (readReplica p x off len).reqs = p.reqs ∧ (readReplica p x off len).lastGen = p.lastGen ∧
    (readReplica p x off len).rq = p.rq ∧ (readReplica p x off len).kvp = p.kvp ∧ (readReplica p x off len).lsh = p.lsh ∧
    (readReplica p x off len).hnd = p.hnd ∧ (readReplica p x off len).mgt = p.mgt ∧ (readReplica p x off len).i3c = p.i3c ∧
    (readReplica p x off len).freeCtr = p.freeCtr := by
  simp [readReplica]
@[simp] theorem readHeader_keeps (p : Pkg) (x : Replica) : (readHeader p x).pins = p.pins ∧ (readHeader p x).tick = p.tick ∧
    (readHeader p x).glb = p.glb ∧ (readHeader p x).scn = p.scn ∧ (readHeader p x).arrays = p.arrays ∧ (readHeader p x).ldr =
    p.ldr ∧ (readHeader p x).pens = p.pens ∧ (readHeader p x).nvw = p.nvw ∧ (readHeader p x).ctxs = p.ctxs ∧ (readHeader p
    x).numVfs = p.numVfs ∧ (readHeader p x).reqs = p.reqs ∧ (readHeader p x).lastGen = p.lastGen ∧ (readHeader p x).rq = p.rq
    ∧ (readHeader p x).kvp = p.kvp ∧ (readHeader p x).lsh = p.lsh ∧ (readHeader p x).hnd = p.hnd ∧ (readHeader p x).mgt =
    p.mgt ∧ (readHeader p x).i3c = p.i3c ∧ (readHeader p x).freeCtr = p.freeCtr := by
  simp [readHeader]
@[simp] theorem payloadDone_keeps (p : Pkg) (x : Replica) (off : ℕ) (len : ℕ) : (payloadDone p x off len).pins = p.pins ∧
    (payloadDone p x off len).tick = p.tick ∧ (payloadDone p x off len).glb = p.glb ∧ (payloadDone p x off len).scn = p.scn ∧
    (payloadDone p x off len).arrays = p.arrays ∧ (payloadDone p x off len).ldr = p.ldr ∧ (payloadDone p x off len).pens =
    p.pens ∧ (payloadDone p x off len).nvw = p.nvw ∧ (payloadDone p x off len).ctxs = p.ctxs ∧ (payloadDone p x off
    len).numVfs = p.numVfs ∧ (payloadDone p x off len).reqs = p.reqs ∧ (payloadDone p x off len).lastGen = p.lastGen ∧
    (payloadDone p x off len).rq = p.rq ∧ (payloadDone p x off len).kvp = p.kvp ∧ (payloadDone p x off len).lsh = p.lsh ∧
    (payloadDone p x off len).hnd = p.hnd ∧ (payloadDone p x off len).mgt = p.mgt ∧ (payloadDone p x off len).i3c = p.i3c ∧
    (payloadDone p x off len).out = p.out ∧ (payloadDone p x off len).pba = p.pba ∧ (payloadDone p x off len).freeCtr =
    p.freeCtr := by
  simp [payloadDone]
@[simp] theorem headerDone_keeps (p : Pkg) (x : Replica) : (headerDone p x).pins = p.pins ∧ (headerDone p x).tick = p.tick ∧
    (headerDone p x).glb = p.glb ∧ (headerDone p x).scn = p.scn ∧ (headerDone p x).arrays = p.arrays ∧ (headerDone p x).ldr =
    p.ldr ∧ (headerDone p x).pens = p.pens ∧ (headerDone p x).nvw = p.nvw ∧ (headerDone p x).ctxs = p.ctxs ∧ (headerDone p
    x).numVfs = p.numVfs ∧ (headerDone p x).reqs = p.reqs ∧ (headerDone p x).lastGen = p.lastGen ∧ (headerDone p x).rq = p.rq
    ∧ (headerDone p x).kvp = p.kvp ∧ (headerDone p x).lsh = p.lsh ∧ (headerDone p x).hnd = p.hnd ∧ (headerDone p x).mgt =
    p.mgt ∧ (headerDone p x).i3c = p.i3c ∧ (headerDone p x).out = p.out ∧ (headerDone p x).pba = p.pba ∧ (headerDone p
    x).freeCtr = p.freeCtr := by
  simp [headerDone]
@[simp] theorem repairFrom_keeps (p : Pkg) (k replica tries : Nat) : (repairFrom p k replica tries).pins = p.pins ∧
    (repairFrom p k replica tries).tick = p.tick ∧ (repairFrom p k replica tries).glb = p.glb ∧ (repairFrom p k replica
    tries).scn = p.scn ∧ (repairFrom p k replica tries).arrays = p.arrays ∧ (repairFrom p k replica tries).ldr = p.ldr ∧
    (repairFrom p k replica tries).pens = p.pens ∧ (repairFrom p k replica tries).ctxs = p.ctxs ∧ (repairFrom p k replica
    tries).numVfs = p.numVfs ∧ (repairFrom p k replica tries).reqs = p.reqs ∧ (repairFrom p k replica tries).lastGen =
    p.lastGen ∧ (repairFrom p k replica tries).rq = p.rq ∧ (repairFrom p k replica tries).kvp = p.kvp ∧ (repairFrom p k
    replica tries).lsh = p.lsh ∧ (repairFrom p k replica tries).hnd = p.hnd ∧ (repairFrom p k replica tries).mgt = p.mgt ∧
    (repairFrom p k replica tries).i3c = p.i3c ∧ (repairFrom p k replica tries).freeCtr = p.freeCtr := by
  simp [repairFrom]
@[simp] theorem logLine_keeps (p : Pkg) (k : ℕ) (off : ℕ) : (logLine p k off).pins = p.pins ∧ (logLine p k off).tick = p.tick
    ∧ (logLine p k off).glb = p.glb ∧ (logLine p k off).arrays = p.arrays ∧ (logLine p k off).ldr = p.ldr ∧ (logLine p k
    off).pens = p.pens ∧ (logLine p k off).nvw = p.nvw ∧ (logLine p k off).numVfs = p.numVfs ∧ (logLine p k off).reqs = p.reqs
    ∧ (logLine p k off).lastGen = p.lastGen ∧ (logLine p k off).rq = p.rq ∧ (logLine p k off).kvp = p.kvp ∧ (logLine p k
    off).fab = p.fab ∧ (logLine p k off).lsh = p.lsh ∧ (logLine p k off).hnd = p.hnd ∧ (logLine p k off).mgt = p.mgt ∧
    (logLine p k off).i3c = p.i3c ∧ (logLine p k off).freeCtr = p.freeCtr := by
  simp [logLine]
@[simp] theorem slotBad_keeps (p : Pkg) (k off : Nat) : (slotBad p k off).pins = p.pins ∧ (slotBad p k off).tick = p.tick ∧
    (slotBad p k off).glb = p.glb ∧ (slotBad p k off).arrays = p.arrays ∧ (slotBad p k off).ldr = p.ldr ∧ (slotBad p k
    off).pens = p.pens ∧ (slotBad p k off).numVfs = p.numVfs ∧ (slotBad p k off).reqs = p.reqs ∧ (slotBad p k off).lastGen =
    p.lastGen ∧ (slotBad p k off).rq = p.rq ∧ (slotBad p k off).kvp = p.kvp ∧ (slotBad p k off).fab = p.fab ∧ (slotBad p k
    off).lsh = p.lsh ∧ (slotBad p k off).hnd = p.hnd ∧ (slotBad p k off).mgt = p.mgt ∧ (slotBad p k off).i3c = p.i3c ∧
    (slotBad p k off).freeCtr = p.freeCtr := by
  simp [slotBad]
@[simp] theorem writeSpoiled_keeps (p : Pkg) (k : ℕ) (off : ℕ) : (writeSpoiled p k off).pins = p.pins ∧ (writeSpoiled p k
    off).tick = p.tick ∧ (writeSpoiled p k off).glb = p.glb ∧ (writeSpoiled p k off).arrays = p.arrays ∧ (writeSpoiled p k
    off).ldr = p.ldr ∧ (writeSpoiled p k off).pens = p.pens ∧ (writeSpoiled p k off).numVfs = p.numVfs ∧ (writeSpoiled p k
    off).reqs = p.reqs ∧ (writeSpoiled p k off).lastGen = p.lastGen ∧ (writeSpoiled p k off).rq = p.rq ∧ (writeSpoiled p k
    off).kvp = p.kvp ∧ (writeSpoiled p k off).fab = p.fab ∧ (writeSpoiled p k off).lsh = p.lsh ∧ (writeSpoiled p k off).hnd =
    p.hnd ∧ (writeSpoiled p k off).mgt = p.mgt ∧ (writeSpoiled p k off).i3c = p.i3c ∧ (writeSpoiled p k off).freeCtr =
    p.freeCtr := by
  simp [writeSpoiled]
@[simp] theorem modReplica_keeps (p : Pkg) (i : Nat) (f : Replica → Replica) : (modReplica p i f).pins = p.pins ∧ (modReplica
    p i f).tick = p.tick ∧ (modReplica p i f).glb = p.glb ∧ (modReplica p i f).scn = p.scn ∧ (modReplica p i f).arrays =
    p.arrays ∧ (modReplica p i f).ldr = p.ldr ∧ (modReplica p i f).pens = p.pens ∧ (modReplica p i f).ctxs = p.ctxs ∧
    (modReplica p i f).numVfs = p.numVfs ∧ (modReplica p i f).reqs = p.reqs ∧ (modReplica p i f).lastGen = p.lastGen ∧
    (modReplica p i f).rq = p.rq ∧ (modReplica p i f).kvp = p.kvp ∧ (modReplica p i f).fab = p.fab ∧ (modReplica p i f).lsh =
    p.lsh ∧ (modReplica p i f).hnd = p.hnd ∧ (modReplica p i f).mgt = p.mgt ∧ (modReplica p i f).i3c = p.i3c ∧ (modReplica p i
    f).out = p.out ∧ (modReplica p i f).pba = p.pba ∧ (modReplica p i f).freeCtr = p.freeCtr := by
  simp [modReplica]
@[simp] theorem replicaBack_keeps (p : Pkg) (i : ℕ) : (replicaBack p i).pins = p.pins ∧ (replicaBack p i).tick = p.tick ∧
    (replicaBack p i).glb = p.glb ∧ (replicaBack p i).scn = p.scn ∧ (replicaBack p i).arrays = p.arrays ∧ (replicaBack p
    i).ldr = p.ldr ∧ (replicaBack p i).pens = p.pens ∧ (replicaBack p i).ctxs = p.ctxs ∧ (replicaBack p i).numVfs = p.numVfs ∧
    (replicaBack p i).reqs = p.reqs ∧ (replicaBack p i).lastGen = p.lastGen ∧ (replicaBack p i).rq = p.rq ∧ (replicaBack p
    i).kvp = p.kvp ∧ (replicaBack p i).fab = p.fab ∧ (replicaBack p i).lsh = p.lsh ∧ (replicaBack p i).hnd = p.hnd ∧
    (replicaBack p i).mgt = p.mgt ∧ (replicaBack p i).i3c = p.i3c ∧ (replicaBack p i).out = p.out ∧ (replicaBack p i).pba =
    p.pba ∧ (replicaBack p i).freeCtr = p.freeCtr := by
  simp [replicaBack]
@[simp] theorem modLdr_keeps (p : Pkg) (f : Ldr → Ldr) : (modLdr p f).pins = p.pins ∧ (modLdr p f).tick = p.tick ∧ (modLdr p
    f).glb = p.glb ∧ (modLdr p f).scn = p.scn ∧ (modLdr p f).arrays = p.arrays ∧ (modLdr p f).pens = p.pens ∧ (modLdr p f).nvw
    = p.nvw ∧ (modLdr p f).ctxs = p.ctxs ∧ (modLdr p f).numVfs = p.numVfs ∧ (modLdr p f).reqs = p.reqs ∧ (modLdr p f).lastGen
    = p.lastGen ∧ (modLdr p f).rq = p.rq ∧ (modLdr p f).kvp = p.kvp ∧ (modLdr p f).fab = p.fab ∧ (modLdr p f).lsh = p.lsh ∧
    (modLdr p f).hnd = p.hnd ∧ (modLdr p f).mgt = p.mgt ∧ (modLdr p f).i3c = p.i3c ∧ (modLdr p f).out = p.out ∧ (modLdr p
    f).pba = p.pba ∧ (modLdr p f).freeCtr = p.freeCtr := by
  simp [modLdr]
@[simp] theorem verifyFor_keeps (p : Pkg) (e : ShardEnt) : (verifyFor p e).pins = p.pins ∧ (verifyFor p e).tick = p.tick ∧
    (verifyFor p e).glb = p.glb ∧ (verifyFor p e).arrays = p.arrays ∧ (verifyFor p e).ldr = p.ldr ∧ (verifyFor p e).pens =
    p.pens ∧ (verifyFor p e).ctxs = p.ctxs ∧ (verifyFor p e).numVfs = p.numVfs ∧ (verifyFor p e).reqs = p.reqs ∧ (verifyFor p
    e).lastGen = p.lastGen ∧ (verifyFor p e).rq = p.rq ∧ (verifyFor p e).kvp = p.kvp ∧ (verifyFor p e).fab = p.fab ∧
    (verifyFor p e).lsh = p.lsh ∧ (verifyFor p e).hnd = p.hnd ∧ (verifyFor p e).mgt = p.mgt ∧ (verifyFor p e).i3c = p.i3c ∧
    (verifyFor p e).freeCtr = p.freeCtr := by
  simp [verifyFor]
@[simp] theorem claimFor_keeps (p : Pkg) (n : Nat) (e : ShardEnt) : (claimFor p n e).1.pins = p.pins ∧ (claimFor p n e).1.tick
    = p.tick ∧ (claimFor p n e).1.glb = p.glb ∧ (claimFor p n e).1.arrays = p.arrays ∧ (claimFor p n e).1.ldr = p.ldr ∧
    (claimFor p n e).1.pens = p.pens ∧ (claimFor p n e).1.ctxs = p.ctxs ∧ (claimFor p n e).1.numVfs = p.numVfs ∧ (claimFor p n
    e).1.reqs = p.reqs ∧ (claimFor p n e).1.lastGen = p.lastGen ∧ (claimFor p n e).1.rq = p.rq ∧ (claimFor p n e).1.kvp =
    p.kvp ∧ (claimFor p n e).1.fab = p.fab ∧ (claimFor p n e).1.lsh = p.lsh ∧ (claimFor p n e).1.hnd = p.hnd ∧ (claimFor p n
    e).1.mgt = p.mgt ∧ (claimFor p n e).1.i3c = p.i3c ∧ (claimFor p n e).1.freeCtr = p.freeCtr := by
  unfold claimFor; dsimp only; (repeat' split) <;> (simp_all; done)
@[simp] theorem claimAll_keeps (p : Pkg) (n : Nat) (b : Bytes) (i : Image) : (claimAll p n b i).1.pins = p.pins ∧ (claimAll p
    n b i).1.tick = p.tick ∧ (claimAll p n b i).1.glb = p.glb ∧ (claimAll p n b i).1.arrays = p.arrays ∧ (claimAll p n b
    i).1.ldr = p.ldr ∧ (claimAll p n b i).1.pens = p.pens ∧ (claimAll p n b i).1.ctxs = p.ctxs ∧ (claimAll p n b i).1.numVfs =
    p.numVfs ∧ (claimAll p n b i).1.reqs = p.reqs ∧ (claimAll p n b i).1.lastGen = p.lastGen ∧ (claimAll p n b i).1.rq = p.rq
    ∧ (claimAll p n b i).1.kvp = p.kvp ∧ (claimAll p n b i).1.fab = p.fab ∧ (claimAll p n b i).1.lsh = p.lsh ∧ (claimAll p n b
    i).1.hnd = p.hnd ∧ (claimAll p n b i).1.mgt = p.mgt ∧ (claimAll p n b i).1.i3c = p.i3c ∧ (claimAll p n b i).1.freeCtr =
    p.freeCtr := ⟨by
  unfold claimAll; dsimp only; repeat' apply And.intro
  all_goals repeat' split
  all_goals try simp only [claimFor_keeps, id_eq]
  all_goals repeat' (first
    | refine Eq.trans (forAll_pins _ _ _ ?_) ?_
    | refine Eq.trans (foldl_pins _ _ _ ?_) ?_
    | refine Eq.trans (foldlP_pins _ _ _ ?_) ?_)
  all_goals try intro q x
  all_goals try dsimp only
  all_goals repeat' split
  all_goals first | rfl | (simp_all; done),
    by
  unfold claimAll; dsimp only; repeat' apply And.intro
  all_goals repeat' split
  all_goals try simp only [claimFor_keeps, id_eq]
  all_goals repeat' (first
    | refine Eq.trans (forAll_tick _ _ _ ?_) ?_
    | refine Eq.trans (foldl_tick _ _ _ ?_) ?_
    | refine Eq.trans (foldlP_tick _ _ _ ?_) ?_)
  all_goals try intro q x
  all_goals try dsimp only
  all_goals repeat' split
  all_goals first | rfl | (simp_all; done),
    by
  unfold claimAll; dsimp only; repeat' apply And.intro
  all_goals repeat' split
  all_goals try simp only [claimFor_keeps, id_eq]
  all_goals repeat' (first
    | refine Eq.trans (forAll_glb _ _ _ ?_) ?_
    | refine Eq.trans (foldl_glb _ _ _ ?_) ?_
    | refine Eq.trans (foldlP_glb _ _ _ ?_) ?_)
  all_goals try intro q x
  all_goals try dsimp only
  all_goals repeat' split
  all_goals first | rfl | (simp_all; done),
    by
  unfold claimAll; dsimp only; repeat' apply And.intro
  all_goals repeat' split
  all_goals try simp only [claimFor_keeps, id_eq]
  all_goals repeat' (first
    | refine Eq.trans (forAll_arrays _ _ _ ?_) ?_
    | refine Eq.trans (foldl_arrays _ _ _ ?_) ?_
    | refine Eq.trans (foldlP_arrays _ _ _ ?_) ?_)
  all_goals try intro q x
  all_goals try dsimp only
  all_goals repeat' split
  all_goals first | rfl | (simp_all; done),
    by
  unfold claimAll; dsimp only; repeat' apply And.intro
  all_goals repeat' split
  all_goals try simp only [claimFor_keeps, id_eq]
  all_goals repeat' (first
    | refine Eq.trans (forAll_ldr _ _ _ ?_) ?_
    | refine Eq.trans (foldl_ldr _ _ _ ?_) ?_
    | refine Eq.trans (foldlP_ldr _ _ _ ?_) ?_)
  all_goals try intro q x
  all_goals try dsimp only
  all_goals repeat' split
  all_goals first | rfl | (simp_all; done),
    by
  unfold claimAll; dsimp only; repeat' apply And.intro
  all_goals repeat' split
  all_goals try simp only [claimFor_keeps, id_eq]
  all_goals repeat' (first
    | refine Eq.trans (forAll_pens _ _ _ ?_) ?_
    | refine Eq.trans (foldl_pens _ _ _ ?_) ?_
    | refine Eq.trans (foldlP_pens _ _ _ ?_) ?_)
  all_goals try intro q x
  all_goals try dsimp only
  all_goals repeat' split
  all_goals first | rfl | (simp_all; done),
    by
  unfold claimAll; dsimp only; repeat' apply And.intro
  all_goals repeat' split
  all_goals try simp only [claimFor_keeps, id_eq]
  all_goals repeat' (first
    | refine Eq.trans (forAll_ctxs _ _ _ ?_) ?_
    | refine Eq.trans (foldl_ctxs _ _ _ ?_) ?_
    | refine Eq.trans (foldlP_ctxs _ _ _ ?_) ?_)
  all_goals try intro q x
  all_goals try dsimp only
  all_goals repeat' split
  all_goals first | rfl | (simp_all; done),
    by
  unfold claimAll; dsimp only; repeat' apply And.intro
  all_goals repeat' split
  all_goals try simp only [claimFor_keeps, id_eq]
  all_goals repeat' (first
    | refine Eq.trans (forAll_numVfs _ _ _ ?_) ?_
    | refine Eq.trans (foldl_numVfs _ _ _ ?_) ?_
    | refine Eq.trans (foldlP_numVfs _ _ _ ?_) ?_)
  all_goals try intro q x
  all_goals try dsimp only
  all_goals repeat' split
  all_goals first | rfl | (simp_all; done),
    by
  unfold claimAll; dsimp only; repeat' apply And.intro
  all_goals repeat' split
  all_goals try simp only [claimFor_keeps, id_eq]
  all_goals repeat' (first
    | refine Eq.trans (forAll_reqs _ _ _ ?_) ?_
    | refine Eq.trans (foldl_reqs _ _ _ ?_) ?_
    | refine Eq.trans (foldlP_reqs _ _ _ ?_) ?_)
  all_goals try intro q x
  all_goals try dsimp only
  all_goals repeat' split
  all_goals first | rfl | (simp_all; done),
    by
  unfold claimAll; dsimp only; repeat' apply And.intro
  all_goals repeat' split
  all_goals try simp only [claimFor_keeps, id_eq]
  all_goals repeat' (first
    | refine Eq.trans (forAll_lastGen _ _ _ ?_) ?_
    | refine Eq.trans (foldl_lastGen _ _ _ ?_) ?_
    | refine Eq.trans (foldlP_lastGen _ _ _ ?_) ?_)
  all_goals try intro q x
  all_goals try dsimp only
  all_goals repeat' split
  all_goals first | rfl | (simp_all; done),
    by
  unfold claimAll; dsimp only; repeat' apply And.intro
  all_goals repeat' split
  all_goals try simp only [claimFor_keeps, id_eq]
  all_goals repeat' (first
    | refine Eq.trans (forAll_rq _ _ _ ?_) ?_
    | refine Eq.trans (foldl_rq _ _ _ ?_) ?_
    | refine Eq.trans (foldlP_rq _ _ _ ?_) ?_)
  all_goals try intro q x
  all_goals try dsimp only
  all_goals repeat' split
  all_goals first | rfl | (simp_all; done),
    by
  unfold claimAll; dsimp only; repeat' apply And.intro
  all_goals repeat' split
  all_goals try simp only [claimFor_keeps, id_eq]
  all_goals repeat' (first
    | refine Eq.trans (forAll_kvp _ _ _ ?_) ?_
    | refine Eq.trans (foldl_kvp _ _ _ ?_) ?_
    | refine Eq.trans (foldlP_kvp _ _ _ ?_) ?_)
  all_goals try intro q x
  all_goals try dsimp only
  all_goals repeat' split
  all_goals first | rfl | (simp_all; done),
    by
  unfold claimAll; dsimp only; repeat' apply And.intro
  all_goals repeat' split
  all_goals try simp only [claimFor_keeps, id_eq]
  all_goals repeat' (first
    | refine Eq.trans (forAll_fab _ _ _ ?_) ?_
    | refine Eq.trans (foldl_fab _ _ _ ?_) ?_
    | refine Eq.trans (foldlP_fab _ _ _ ?_) ?_)
  all_goals try intro q x
  all_goals try dsimp only
  all_goals repeat' split
  all_goals first | rfl | (simp_all; done),
    by
  unfold claimAll; dsimp only; repeat' apply And.intro
  all_goals repeat' split
  all_goals try simp only [claimFor_keeps, id_eq]
  all_goals repeat' (first
    | refine Eq.trans (forAll_lsh _ _ _ ?_) ?_
    | refine Eq.trans (foldl_lsh _ _ _ ?_) ?_
    | refine Eq.trans (foldlP_lsh _ _ _ ?_) ?_)
  all_goals try intro q x
  all_goals try dsimp only
  all_goals repeat' split
  all_goals first | rfl | (simp_all; done),
    by
  unfold claimAll; dsimp only; repeat' apply And.intro
  all_goals repeat' split
  all_goals try simp only [claimFor_keeps, id_eq]
  all_goals repeat' (first
    | refine Eq.trans (forAll_hnd _ _ _ ?_) ?_
    | refine Eq.trans (foldl_hnd _ _ _ ?_) ?_
    | refine Eq.trans (foldlP_hnd _ _ _ ?_) ?_)
  all_goals try intro q x
  all_goals try dsimp only
  all_goals repeat' split
  all_goals first | rfl | (simp_all; done),
    by
  unfold claimAll; dsimp only; repeat' apply And.intro
  all_goals repeat' split
  all_goals try simp only [claimFor_keeps, id_eq]
  all_goals repeat' (first
    | refine Eq.trans (forAll_mgt _ _ _ ?_) ?_
    | refine Eq.trans (foldl_mgt _ _ _ ?_) ?_
    | refine Eq.trans (foldlP_mgt _ _ _ ?_) ?_)
  all_goals try intro q x
  all_goals try dsimp only
  all_goals repeat' split
  all_goals first | rfl | (simp_all; done),
    by
  unfold claimAll; dsimp only; repeat' apply And.intro
  all_goals repeat' split
  all_goals try simp only [claimFor_keeps, id_eq]
  all_goals repeat' (first
    | refine Eq.trans (forAll_i3c _ _ _ ?_) ?_
    | refine Eq.trans (foldl_i3c _ _ _ ?_) ?_
    | refine Eq.trans (foldlP_i3c _ _ _ ?_) ?_)
  all_goals try intro q x
  all_goals try dsimp only
  all_goals repeat' split
  all_goals first | rfl | (simp_all; done),
    by
  unfold claimAll; dsimp only; repeat' apply And.intro
  all_goals repeat' split
  all_goals try simp only [claimFor_keeps, id_eq]
  all_goals repeat' (first
    | refine Eq.trans (forAll_freeCtr _ _ _ ?_) ?_
    | refine Eq.trans (foldl_freeCtr _ _ _ ?_) ?_
    | refine Eq.trans (foldlP_freeCtr _ _ _ ?_) ?_)
  all_goals try intro q x
  all_goals try dsimp only
  all_goals repeat' split
  all_goals first | rfl | (simp_all; done)⟩
@[simp] theorem dropClaims_keeps (p : Pkg) (n : Nat) : (dropClaims p n).pins = p.pins ∧ (dropClaims p n).tick = p.tick ∧
    (dropClaims p n).glb = p.glb ∧ (dropClaims p n).scn = p.scn ∧ (dropClaims p n).arrays = p.arrays ∧ (dropClaims p n).ldr =
    p.ldr ∧ (dropClaims p n).pens = p.pens ∧ (dropClaims p n).ctxs = p.ctxs ∧ (dropClaims p n).numVfs = p.numVfs ∧ (dropClaims
    p n).reqs = p.reqs ∧ (dropClaims p n).lastGen = p.lastGen ∧ (dropClaims p n).rq = p.rq ∧ (dropClaims p n).kvp = p.kvp ∧
    (dropClaims p n).fab = p.fab ∧ (dropClaims p n).lsh = p.lsh ∧ (dropClaims p n).hnd = p.hnd ∧ (dropClaims p n).mgt = p.mgt
    ∧ (dropClaims p n).i3c = p.i3c ∧ (dropClaims p n).out = p.out ∧ (dropClaims p n).pba = p.pba ∧ (dropClaims p n).freeCtr =
    p.freeCtr := by
  simp [dropClaims]
@[simp] theorem fillWeights_keeps (p : Pkg) (n : Nat) (i : Image) : (fillWeights p n i).pins = p.pins ∧ (fillWeights p n
    i).tick = p.tick ∧ (fillWeights p n i).glb = p.glb ∧ (fillWeights p n i).scn = p.scn ∧ (fillWeights p n i).arrays =
    p.arrays ∧ (fillWeights p n i).ldr = p.ldr ∧ (fillWeights p n i).nvw = p.nvw ∧ (fillWeights p n i).ctxs = p.ctxs ∧
    (fillWeights p n i).numVfs = p.numVfs ∧ (fillWeights p n i).reqs = p.reqs ∧ (fillWeights p n i).lastGen = p.lastGen ∧
    (fillWeights p n i).rq = p.rq ∧ (fillWeights p n i).kvp = p.kvp ∧ (fillWeights p n i).fab = p.fab ∧ (fillWeights p n
    i).lsh = p.lsh ∧ (fillWeights p n i).hnd = p.hnd ∧ (fillWeights p n i).mgt = p.mgt ∧ (fillWeights p n i).i3c = p.i3c ∧
    (fillWeights p n i).out = p.out ∧ (fillWeights p n i).pba = p.pba ∧ (fillWeights p n i).freeCtr = p.freeCtr := by
  unfold fillWeights
  repeat' apply And.intro
  all_goals
    first
    | (refine forAll_pins _ _ _ ?_)
    | (refine forAll_tick _ _ _ ?_)
    | (refine forAll_glb _ _ _ ?_)
    | (refine forAll_scn _ _ _ ?_)
    | (refine forAll_arrays _ _ _ ?_)
    | (refine forAll_ldr _ _ _ ?_)
    | (refine forAll_nvw _ _ _ ?_)
    | (refine forAll_ctxs _ _ _ ?_)
    | (refine forAll_numVfs _ _ _ ?_)
    | (refine forAll_reqs _ _ _ ?_)
    | (refine forAll_lastGen _ _ _ ?_)
    | (refine forAll_rq _ _ _ ?_)
    | (refine forAll_kvp _ _ _ ?_)
    | (refine forAll_fab _ _ _ ?_)
    | (refine forAll_lsh _ _ _ ?_)
    | (refine forAll_hnd _ _ _ ?_)
    | (refine forAll_mgt _ _ _ ?_)
    | (refine forAll_i3c _ _ _ ?_)
    | (refine forAll_out _ _ _ ?_)
    | (refine forAll_pba _ _ _ ?_)
    | (refine forAll_freeCtr _ _ _ ?_)
  all_goals
    intro q r
    first
    | (refine foldlP_pins _ _ (q, 0) ?_)
    | (refine foldlP_tick _ _ (q, 0) ?_)
    | (refine foldlP_glb _ _ (q, 0) ?_)
    | (refine foldlP_scn _ _ (q, 0) ?_)
    | (refine foldlP_arrays _ _ (q, 0) ?_)
    | (refine foldlP_ldr _ _ (q, 0) ?_)
    | (refine foldlP_nvw _ _ (q, 0) ?_)
    | (refine foldlP_ctxs _ _ (q, 0) ?_)
    | (refine foldlP_numVfs _ _ (q, 0) ?_)
    | (refine foldlP_reqs _ _ (q, 0) ?_)
    | (refine foldlP_lastGen _ _ (q, 0) ?_)
    | (refine foldlP_rq _ _ (q, 0) ?_)
    | (refine foldlP_kvp _ _ (q, 0) ?_)
    | (refine foldlP_fab _ _ (q, 0) ?_)
    | (refine foldlP_lsh _ _ (q, 0) ?_)
    | (refine foldlP_hnd _ _ (q, 0) ?_)
    | (refine foldlP_mgt _ _ (q, 0) ?_)
    | (refine foldlP_i3c _ _ (q, 0) ?_)
    | (refine foldlP_out _ _ (q, 0) ?_)
    | (refine foldlP_pba _ _ (q, 0) ?_)
    | (refine foldlP_freeCtr _ _ (q, 0) ?_)
  all_goals
    intro a e
    dsimp only
    split <;> simp [bufPut_keeps]
@[simp] theorem ldrDone_keeps (p : Pkg) (f : Ldr → Ldr) : (ldrDone p f).pins = p.pins ∧ (ldrDone p f).tick = p.tick ∧ (ldrDone
    p f).glb = p.glb ∧ (ldrDone p f).scn = p.scn ∧ (ldrDone p f).arrays = p.arrays ∧ (ldrDone p f).pens = p.pens ∧ (ldrDone p
    f).nvw = p.nvw ∧ (ldrDone p f).ctxs = p.ctxs ∧ (ldrDone p f).numVfs = p.numVfs ∧ (ldrDone p f).reqs = p.reqs ∧ (ldrDone p
    f).lastGen = p.lastGen ∧ (ldrDone p f).rq = p.rq ∧ (ldrDone p f).kvp = p.kvp ∧ (ldrDone p f).fab = p.fab ∧ (ldrDone p
    f).lsh = p.lsh ∧ (ldrDone p f).hnd = p.hnd ∧ (ldrDone p f).mgt = p.mgt ∧ (ldrDone p f).i3c = p.i3c ∧ (ldrDone p f).freeCtr
    = p.freeCtr := by
  simp [ldrDone]
@[simp] theorem bindDone_keeps (p : Pkg) (n : Nat) (i : Image) (cls : List Nat) : (bindDone p n i cls).pins = p.pins ∧
    (bindDone p n i cls).tick = p.tick ∧ (bindDone p n i cls).glb = p.glb ∧ (bindDone p n i cls).arrays = p.arrays ∧ (bindDone
    p n i cls).nvw = p.nvw ∧ (bindDone p n i cls).numVfs = p.numVfs ∧ (bindDone p n i cls).lastGen = p.lastGen ∧ (bindDone p n
    i cls).rq = p.rq ∧ (bindDone p n i cls).kvp = p.kvp ∧ (bindDone p n i cls).mgt = p.mgt ∧ (bindDone p n i cls).i3c = p.i3c
    :=
    by
  unfold bindDone; (repeat' split) <;> (simp_all; done)
@[simp] theorem bindRefused_keeps (p : Pkg) (n : Nat) (f : LdrFail) : (bindRefused p n f).pins = p.pins ∧ (bindRefused p n
    f).tick = p.tick ∧ (bindRefused p n f).glb = p.glb ∧ (bindRefused p n f).arrays = p.arrays ∧ (bindRefused p n f).numVfs =
    p.numVfs ∧ (bindRefused p n f).lastGen = p.lastGen ∧ (bindRefused p n f).rq = p.rq ∧ (bindRefused p n f).kvp = p.kvp ∧
    (bindRefused p n f).mgt = p.mgt ∧ (bindRefused p n f).i3c = p.i3c := by
  simp [bindRefused]
@[simp] theorem askRechecks_keeps (p : Pkg) (es : List ℕ) : (askRechecks p es).pins = p.pins ∧ (askRechecks p es).tick =
    p.tick ∧ (askRechecks p es).glb = p.glb ∧ (askRechecks p es).scn = p.scn ∧ (askRechecks p es).arrays = p.arrays ∧
    (askRechecks p es).pens = p.pens ∧ (askRechecks p es).nvw = p.nvw ∧ (askRechecks p es).ctxs = p.ctxs ∧ (askRechecks p
    es).numVfs = p.numVfs ∧ (askRechecks p es).reqs = p.reqs ∧ (askRechecks p es).lastGen = p.lastGen ∧ (askRechecks p es).rq
    = p.rq ∧ (askRechecks p es).kvp = p.kvp ∧ (askRechecks p es).lsh = p.lsh ∧ (askRechecks p es).hnd = p.hnd ∧ (askRechecks p
    es).mgt = p.mgt ∧ (askRechecks p es).i3c = p.i3c ∧ (askRechecks p es).freeCtr = p.freeCtr := by
  simp [askRechecks]
@[simp] theorem askRechecks_vital (p : Pkg) (es : List ℕ) : (askRechecks p es).tick.refclkOk = p.tick.refclkOk ∧ (askRechecks
    p es).tick.phaseLocked = p.tick.phaseLocked ∧ (askRechecks p es).tick.holdover = p.tick.holdover := by
  simp [askRechecks]
@[simp] theorem askFills_keeps (p : Pkg) (i : Image) (ks : List ℕ) : (askFills p i ks).pins = p.pins ∧ (askFills p i ks).tick
    = p.tick ∧ (askFills p i ks).glb = p.glb ∧ (askFills p i ks).scn = p.scn ∧ (askFills p i ks).arrays = p.arrays ∧ (askFills
    p i ks).pens = p.pens ∧ (askFills p i ks).nvw = p.nvw ∧ (askFills p i ks).ctxs = p.ctxs ∧ (askFills p i ks).numVfs =
    p.numVfs ∧ (askFills p i ks).reqs = p.reqs ∧ (askFills p i ks).lastGen = p.lastGen ∧ (askFills p i ks).rq = p.rq ∧
    (askFills p i ks).kvp = p.kvp ∧ (askFills p i ks).lsh = p.lsh ∧ (askFills p i ks).hnd = p.hnd ∧ (askFills p i ks).mgt =
    p.mgt ∧ (askFills p i ks).i3c = p.i3c ∧ (askFills p i ks).freeCtr = p.freeCtr := by
  unfold askFills
  refine ⟨forAll_pins _ _ _ ?_, forAll_tick _ _ _ ?_, forAll_glb _ _ _ ?_, forAll_scn _ _ _ ?_, forAll_arrays _ _ _ ?_, forAll_pens _ _ _ ?_, forAll_nvw _ _ _ ?_, forAll_ctxs _ _ _ ?_, forAll_numVfs _ _ _ ?_, forAll_reqs _ _ _ ?_, forAll_lastGen _ _ _ ?_, forAll_rq _ _ _ ?_, forAll_kvp _ _ _ ?_, forAll_lsh _ _ _ ?_, forAll_hnd _ _ _ ?_, forAll_mgt _ _ _ ?_, forAll_i3c _ _ _ ?_, forAll_freeCtr _ _ _ ?_⟩ <;> (intro q k; split <;> simp)
@[simp] theorem bindEnd_keeps (p : Pkg) (n : Nat) (image : Option Bytes) (placed : Bool) : (bindEnd p n image placed).pins =
    p.pins ∧ (bindEnd p n image placed).tick = p.tick ∧ (bindEnd p n image placed).glb = p.glb ∧ (bindEnd p n image
    placed).arrays = p.arrays ∧ (bindEnd p n image placed).numVfs = p.numVfs ∧ (bindEnd p n image placed).lastGen = p.lastGen
    ∧ (bindEnd p n image placed).rq = p.rq ∧ (bindEnd p n image placed).kvp = p.kvp ∧ (bindEnd p n image placed).mgt = p.mgt ∧
    (bindEnd p n image placed).i3c = p.i3c := by
  unfold bindEnd; (repeat' split) <;> (simp_all; done)
@[simp] theorem unbindStart_keeps (p : Pkg) (n : Nat) : (unbindStart p n).pins = p.pins ∧ (unbindStart p n).tick = p.tick ∧
    (unbindStart p n).glb = p.glb ∧ (unbindStart p n).arrays = p.arrays ∧ (unbindStart p n).nvw = p.nvw ∧ (unbindStart p
    n).numVfs = p.numVfs ∧ (unbindStart p n).lastGen = p.lastGen ∧ (unbindStart p n).rq = p.rq ∧ (unbindStart p n).kvp = p.kvp
    ∧ (unbindStart p n).mgt = p.mgt ∧ (unbindStart p n).i3c = p.i3c := by
  simp [unbindStart]
@[simp] theorem unbindEnd_keeps (p : Pkg) (n : Nat) : (unbindEnd p n).pins = p.pins ∧ (unbindEnd p n).tick = p.tick ∧
    (unbindEnd p n).glb = p.glb ∧ (unbindEnd p n).arrays = p.arrays ∧ (unbindEnd p n).numVfs = p.numVfs ∧ (unbindEnd p
    n).lastGen = p.lastGen ∧ (unbindEnd p n).kvp = p.kvp ∧ (unbindEnd p n).mgt = p.mgt ∧ (unbindEnd p n).i3c = p.i3c := by
  simp [unbindEnd]
@[simp] theorem bindTake_keeps (p : Pkg) (n : Nat) : (bindTake p n).pins = p.pins ∧ (bindTake p n).tick = p.tick ∧ (bindTake p
    n).glb = p.glb ∧ (bindTake p n).arrays = p.arrays ∧ (bindTake p n).numVfs = p.numVfs ∧ (bindTake p n).lastGen = p.lastGen
    ∧ (bindTake p n).rq = p.rq ∧ (bindTake p n).kvp = p.kvp ∧ (bindTake p n).mgt = p.mgt ∧ (bindTake p n).i3c = p.i3c := by
  simp [bindTake]
@[simp] theorem unbindTake_keeps (p : Pkg) (n : Nat) : (unbindTake p n).pins = p.pins ∧ (unbindTake p n).tick = p.tick ∧
    (unbindTake p n).glb = p.glb ∧ (unbindTake p n).arrays = p.arrays ∧ (unbindTake p n).nvw = p.nvw ∧ (unbindTake p n).numVfs
    = p.numVfs ∧ (unbindTake p n).lastGen = p.lastGen ∧ (unbindTake p n).rq = p.rq ∧ (unbindTake p n).kvp = p.kvp ∧
    (unbindTake p n).mgt = p.mgt ∧ (unbindTake p n).i3c = p.i3c := by
  simp [unbindTake]
@[simp] theorem ldrCmd_keeps (p : Pkg) (op n : Nat) : (ldrCmd p op n).pins = p.pins ∧ (ldrCmd p op n).tick = p.tick ∧ (ldrCmd
    p op n).glb = p.glb ∧ (ldrCmd p op n).arrays = p.arrays ∧ (ldrCmd p op n).numVfs = p.numVfs ∧ (ldrCmd p op n).lastGen =
    p.lastGen ∧ (ldrCmd p op n).rq = p.rq ∧ (ldrCmd p op n).kvp = p.kvp ∧ (ldrCmd p op n).mgt = p.mgt ∧ (ldrCmd p op n).i3c =
    p.i3c := by
  simp [ldrCmd]
@[simp] theorem modSetRuns_keeps (p : Pkg) (n : ℕ) (ok : SegRun → Bool) (f : SegRun → SegRun) (g : SegRun → ArrData → ArrData)
    : (modSetRuns p n ok f g).pins = p.pins ∧ (modSetRuns p n ok f g).tick = p.tick ∧ (modSetRuns p n ok f g).glb = p.glb ∧
    (modSetRuns p n ok f g).scn = p.scn ∧ (modSetRuns p n ok f g).ldr = p.ldr ∧ (modSetRuns p n ok f g).pens = p.pens ∧
    (modSetRuns p n ok f g).nvw = p.nvw ∧ (modSetRuns p n ok f g).ctxs = p.ctxs ∧ (modSetRuns p n ok f g).numVfs = p.numVfs ∧
    (modSetRuns p n ok f g).reqs = p.reqs ∧ (modSetRuns p n ok f g).lastGen = p.lastGen ∧ (modSetRuns p n ok f g).rq = p.rq ∧
    (modSetRuns p n ok f g).kvp = p.kvp ∧ (modSetRuns p n ok f g).fab = p.fab ∧ (modSetRuns p n ok f g).lsh = p.lsh ∧
    (modSetRuns p n ok f g).hnd = p.hnd ∧ (modSetRuns p n ok f g).mgt = p.mgt ∧ (modSetRuns p n ok f g).i3c = p.i3c ∧
    (modSetRuns p n ok f g).out = p.out ∧ (modSetRuns p n ok f g).pba = p.pba ∧ (modSetRuns p n ok f g).freeCtr = p.freeCtr :=
    by
  simp [modSetRuns]
@[simp] theorem restartRuns_keeps (p : Pkg) (n : ℕ) (ok : SegRun → Bool) (layerOf : SegRun → ℕ) : (restartRuns p n ok
    layerOf).pins = p.pins ∧ (restartRuns p n ok layerOf).tick = p.tick ∧ (restartRuns p n ok layerOf).glb = p.glb ∧
    (restartRuns p n ok layerOf).scn = p.scn ∧ (restartRuns p n ok layerOf).ldr = p.ldr ∧ (restartRuns p n ok layerOf).nvw =
    p.nvw ∧ (restartRuns p n ok layerOf).ctxs = p.ctxs ∧ (restartRuns p n ok layerOf).numVfs = p.numVfs ∧ (restartRuns p n ok
    layerOf).reqs = p.reqs ∧ (restartRuns p n ok layerOf).lastGen = p.lastGen ∧ (restartRuns p n ok layerOf).rq = p.rq ∧
    (restartRuns p n ok layerOf).kvp = p.kvp ∧ (restartRuns p n ok layerOf).fab = p.fab ∧ (restartRuns p n ok layerOf).lsh =
    p.lsh ∧ (restartRuns p n ok layerOf).hnd = p.hnd ∧ (restartRuns p n ok layerOf).mgt = p.mgt ∧ (restartRuns p n ok
    layerOf).i3c = p.i3c ∧ (restartRuns p n ok layerOf).out = p.out ∧ (restartRuns p n ok layerOf).pba = p.pba ∧ (restartRuns
    p n ok layerOf).freeCtr = p.freeCtr := by
  unfold restartRuns; dsimp only; repeat' apply And.intro
  all_goals repeat' split
  all_goals try simp only [modStep_keeps, modSetRuns_keeps, id_eq]
  all_goals repeat' (first
    | refine Eq.trans (forAll_pins _ _ _ ?_) ?_
    | refine Eq.trans (forAll_tick _ _ _ ?_) ?_
    | refine Eq.trans (forAll_glb _ _ _ ?_) ?_
    | refine Eq.trans (forAll_scn _ _ _ ?_) ?_
    | refine Eq.trans (forAll_ldr _ _ _ ?_) ?_
    | refine Eq.trans (forAll_nvw _ _ _ ?_) ?_
    | refine Eq.trans (forAll_ctxs _ _ _ ?_) ?_
    | refine Eq.trans (forAll_numVfs _ _ _ ?_) ?_
    | refine Eq.trans (forAll_reqs _ _ _ ?_) ?_
    | refine Eq.trans (forAll_lastGen _ _ _ ?_) ?_
    | refine Eq.trans (forAll_rq _ _ _ ?_) ?_
    | refine Eq.trans (forAll_kvp _ _ _ ?_) ?_
    | refine Eq.trans (forAll_fab _ _ _ ?_) ?_
    | refine Eq.trans (forAll_lsh _ _ _ ?_) ?_
    | refine Eq.trans (forAll_hnd _ _ _ ?_) ?_
    | refine Eq.trans (forAll_mgt _ _ _ ?_) ?_
    | refine Eq.trans (forAll_i3c _ _ _ ?_) ?_
    | refine Eq.trans (forAll_out _ _ _ ?_) ?_
    | refine Eq.trans (forAll_pba _ _ _ ?_) ?_
    | refine Eq.trans (forAll_freeCtr _ _ _ ?_) ?_
    | refine Eq.trans (foldl_pins _ _ _ ?_) ?_
    | refine Eq.trans (foldl_tick _ _ _ ?_) ?_
    | refine Eq.trans (foldl_glb _ _ _ ?_) ?_
    | refine Eq.trans (foldl_scn _ _ _ ?_) ?_
    | refine Eq.trans (foldl_ldr _ _ _ ?_) ?_
    | refine Eq.trans (foldl_nvw _ _ _ ?_) ?_
    | refine Eq.trans (foldl_ctxs _ _ _ ?_) ?_
    | refine Eq.trans (foldl_numVfs _ _ _ ?_) ?_
    | refine Eq.trans (foldl_reqs _ _ _ ?_) ?_
    | refine Eq.trans (foldl_lastGen _ _ _ ?_) ?_
    | refine Eq.trans (foldl_rq _ _ _ ?_) ?_
    | refine Eq.trans (foldl_kvp _ _ _ ?_) ?_
    | refine Eq.trans (foldl_fab _ _ _ ?_) ?_
    | refine Eq.trans (foldl_lsh _ _ _ ?_) ?_
    | refine Eq.trans (foldl_hnd _ _ _ ?_) ?_
    | refine Eq.trans (foldl_mgt _ _ _ ?_) ?_
    | refine Eq.trans (foldl_i3c _ _ _ ?_) ?_
    | refine Eq.trans (foldl_out _ _ _ ?_) ?_
    | refine Eq.trans (foldl_pba _ _ _ ?_) ?_
    | refine Eq.trans (foldl_freeCtr _ _ _ ?_) ?_
    | refine Eq.trans (foldlP_pins _ _ _ ?_) ?_
    | refine Eq.trans (foldlP_tick _ _ _ ?_) ?_
    | refine Eq.trans (foldlP_glb _ _ _ ?_) ?_
    | refine Eq.trans (foldlP_scn _ _ _ ?_) ?_
    | refine Eq.trans (foldlP_ldr _ _ _ ?_) ?_
    | refine Eq.trans (foldlP_nvw _ _ _ ?_) ?_
    | refine Eq.trans (foldlP_ctxs _ _ _ ?_) ?_
    | refine Eq.trans (foldlP_numVfs _ _ _ ?_) ?_
    | refine Eq.trans (foldlP_reqs _ _ _ ?_) ?_
    | refine Eq.trans (foldlP_lastGen _ _ _ ?_) ?_
    | refine Eq.trans (foldlP_rq _ _ _ ?_) ?_
    | refine Eq.trans (foldlP_kvp _ _ _ ?_) ?_
    | refine Eq.trans (foldlP_fab _ _ _ ?_) ?_
    | refine Eq.trans (foldlP_lsh _ _ _ ?_) ?_
    | refine Eq.trans (foldlP_hnd _ _ _ ?_) ?_
    | refine Eq.trans (foldlP_mgt _ _ _ ?_) ?_
    | refine Eq.trans (foldlP_i3c _ _ _ ?_) ?_
    | refine Eq.trans (foldlP_out _ _ _ ?_) ?_
    | refine Eq.trans (foldlP_pba _ _ _ ?_) ?_
    | refine Eq.trans (foldlP_freeCtr _ _ _ ?_) ?_)
  all_goals try intro q x
  all_goals try dsimp only
  all_goals repeat' split
  all_goals first | rfl | (simp_all; done)
@[simp] theorem moveWaiting_keeps (p : Pkg) (n : ℕ) (g : ℕ) : (moveWaiting p n g).pins = p.pins ∧ (moveWaiting p n g).tick =
    p.tick ∧ (moveWaiting p n g).glb = p.glb ∧ (moveWaiting p n g).scn = p.scn ∧ (moveWaiting p n g).ldr = p.ldr ∧
    (moveWaiting p n g).nvw = p.nvw ∧ (moveWaiting p n g).ctxs = p.ctxs ∧ (moveWaiting p n g).numVfs = p.numVfs ∧ (moveWaiting
    p n g).reqs = p.reqs ∧ (moveWaiting p n g).lastGen = p.lastGen ∧ (moveWaiting p n g).rq = p.rq ∧ (moveWaiting p n g).kvp =
    p.kvp ∧ (moveWaiting p n g).fab = p.fab ∧ (moveWaiting p n g).lsh = p.lsh ∧ (moveWaiting p n g).hnd = p.hnd ∧ (moveWaiting
    p n g).mgt = p.mgt ∧ (moveWaiting p n g).i3c = p.i3c ∧ (moveWaiting p n g).out = p.out ∧ (moveWaiting p n g).pba = p.pba ∧
    (moveWaiting p n g).freeCtr = p.freeCtr := by
  unfold moveWaiting; dsimp only; repeat' apply And.intro
  all_goals repeat' split
  all_goals try simp only [modStep_keeps, restartRuns_keeps, id_eq]
  all_goals repeat' (first
    | refine Eq.trans (forAll_pins _ _ _ ?_) ?_
    | refine Eq.trans (forAll_tick _ _ _ ?_) ?_
    | refine Eq.trans (forAll_glb _ _ _ ?_) ?_
    | refine Eq.trans (forAll_scn _ _ _ ?_) ?_
    | refine Eq.trans (forAll_ldr _ _ _ ?_) ?_
    | refine Eq.trans (forAll_nvw _ _ _ ?_) ?_
    | refine Eq.trans (forAll_ctxs _ _ _ ?_) ?_
    | refine Eq.trans (forAll_numVfs _ _ _ ?_) ?_
    | refine Eq.trans (forAll_reqs _ _ _ ?_) ?_
    | refine Eq.trans (forAll_lastGen _ _ _ ?_) ?_
    | refine Eq.trans (forAll_rq _ _ _ ?_) ?_
    | refine Eq.trans (forAll_kvp _ _ _ ?_) ?_
    | refine Eq.trans (forAll_fab _ _ _ ?_) ?_
    | refine Eq.trans (forAll_lsh _ _ _ ?_) ?_
    | refine Eq.trans (forAll_hnd _ _ _ ?_) ?_
    | refine Eq.trans (forAll_mgt _ _ _ ?_) ?_
    | refine Eq.trans (forAll_i3c _ _ _ ?_) ?_
    | refine Eq.trans (forAll_out _ _ _ ?_) ?_
    | refine Eq.trans (forAll_pba _ _ _ ?_) ?_
    | refine Eq.trans (forAll_freeCtr _ _ _ ?_) ?_
    | refine Eq.trans (foldl_pins _ _ _ ?_) ?_
    | refine Eq.trans (foldl_tick _ _ _ ?_) ?_
    | refine Eq.trans (foldl_glb _ _ _ ?_) ?_
    | refine Eq.trans (foldl_scn _ _ _ ?_) ?_
    | refine Eq.trans (foldl_ldr _ _ _ ?_) ?_
    | refine Eq.trans (foldl_nvw _ _ _ ?_) ?_
    | refine Eq.trans (foldl_ctxs _ _ _ ?_) ?_
    | refine Eq.trans (foldl_numVfs _ _ _ ?_) ?_
    | refine Eq.trans (foldl_reqs _ _ _ ?_) ?_
    | refine Eq.trans (foldl_lastGen _ _ _ ?_) ?_
    | refine Eq.trans (foldl_rq _ _ _ ?_) ?_
    | refine Eq.trans (foldl_kvp _ _ _ ?_) ?_
    | refine Eq.trans (foldl_fab _ _ _ ?_) ?_
    | refine Eq.trans (foldl_lsh _ _ _ ?_) ?_
    | refine Eq.trans (foldl_hnd _ _ _ ?_) ?_
    | refine Eq.trans (foldl_mgt _ _ _ ?_) ?_
    | refine Eq.trans (foldl_i3c _ _ _ ?_) ?_
    | refine Eq.trans (foldl_out _ _ _ ?_) ?_
    | refine Eq.trans (foldl_pba _ _ _ ?_) ?_
    | refine Eq.trans (foldl_freeCtr _ _ _ ?_) ?_
    | refine Eq.trans (foldlP_pins _ _ _ ?_) ?_
    | refine Eq.trans (foldlP_tick _ _ _ ?_) ?_
    | refine Eq.trans (foldlP_glb _ _ _ ?_) ?_
    | refine Eq.trans (foldlP_scn _ _ _ ?_) ?_
    | refine Eq.trans (foldlP_ldr _ _ _ ?_) ?_
    | refine Eq.trans (foldlP_nvw _ _ _ ?_) ?_
    | refine Eq.trans (foldlP_ctxs _ _ _ ?_) ?_
    | refine Eq.trans (foldlP_numVfs _ _ _ ?_) ?_
    | refine Eq.trans (foldlP_reqs _ _ _ ?_) ?_
    | refine Eq.trans (foldlP_lastGen _ _ _ ?_) ?_
    | refine Eq.trans (foldlP_rq _ _ _ ?_) ?_
    | refine Eq.trans (foldlP_kvp _ _ _ ?_) ?_
    | refine Eq.trans (foldlP_fab _ _ _ ?_) ?_
    | refine Eq.trans (foldlP_lsh _ _ _ ?_) ?_
    | refine Eq.trans (foldlP_hnd _ _ _ ?_) ?_
    | refine Eq.trans (foldlP_mgt _ _ _ ?_) ?_
    | refine Eq.trans (foldlP_i3c _ _ _ ?_) ?_
    | refine Eq.trans (foldlP_out _ _ _ ?_) ?_
    | refine Eq.trans (foldlP_pba _ _ _ ?_) ?_
    | refine Eq.trans (foldlP_freeCtr _ _ _ ?_) ?_)
  all_goals try intro q x
  all_goals try dsimp only
  all_goals repeat' split
  all_goals first | rfl | (simp_all; done)
@[simp] theorem moveWaiting_vital (p : Pkg) (n : ℕ) (g : ℕ) : (moveWaiting p n g).tick.refclkOk = p.tick.refclkOk ∧
    (moveWaiting p n g).tick.phaseLocked = p.tick.phaseLocked ∧ (moveWaiting p n g).tick.holdover = p.tick.holdover := by
  simp [moveWaiting]
@[simp] theorem selectHalf_keeps (p : Pkg) (n e h : Nat) : (selectHalf p n e h).pins = p.pins ∧ (selectHalf p n e h).tick =
    p.tick ∧ (selectHalf p n e h).glb = p.glb ∧ (selectHalf p n e h).arrays = p.arrays ∧ (selectHalf p n e h).ldr = p.ldr ∧
    (selectHalf p n e h).nvw = p.nvw ∧ (selectHalf p n e h).ctxs = p.ctxs ∧ (selectHalf p n e h).numVfs = p.numVfs ∧
    (selectHalf p n e h).reqs = p.reqs ∧ (selectHalf p n e h).lastGen = p.lastGen ∧ (selectHalf p n e h).rq = p.rq ∧
    (selectHalf p n e h).kvp = p.kvp ∧ (selectHalf p n e h).fab = p.fab ∧ (selectHalf p n e h).hnd = p.hnd ∧ (selectHalf p n e
    h).mgt = p.mgt ∧ (selectHalf p n e h).i3c = p.i3c ∧ (selectHalf p n e h).freeCtr = p.freeCtr := by
  unfold selectHalf; (repeat' split) <;> (simp_all; done)
@[simp] theorem selectHalf_vital (p : Pkg) (n : ℕ) (e : ℕ) (h : ℕ) : (selectHalf p n e h).tick.refclkOk = p.tick.refclkOk ∧
    (selectHalf p n e h).tick.phaseLocked = p.tick.phaseLocked ∧ (selectHalf p n e h).tick.holdover = p.tick.holdover := by
  unfold selectHalf; (repeat' split) <;> (simp_all; done)
@[simp] theorem boardPut_keeps (p : Pkg) (n off : Nat) (b : Bytes) : (boardPut p n off b).pins = p.pins ∧ (boardPut p n off
    b).tick = p.tick ∧ (boardPut p n off b).glb = p.glb ∧ (boardPut p n off b).scn = p.scn ∧ (boardPut p n off b).arrays =
    p.arrays ∧ (boardPut p n off b).ldr = p.ldr ∧ (boardPut p n off b).nvw = p.nvw ∧ (boardPut p n off b).ctxs = p.ctxs ∧
    (boardPut p n off b).numVfs = p.numVfs ∧ (boardPut p n off b).reqs = p.reqs ∧ (boardPut p n off b).lastGen = p.lastGen ∧
    (boardPut p n off b).rq = p.rq ∧ (boardPut p n off b).kvp = p.kvp ∧ (boardPut p n off b).fab = p.fab ∧ (boardPut p n off
    b).lsh = p.lsh ∧ (boardPut p n off b).hnd = p.hnd ∧ (boardPut p n off b).mgt = p.mgt ∧ (boardPut p n off b).i3c = p.i3c ∧
    (boardPut p n off b).out = p.out ∧ (boardPut p n off b).pba = p.pba ∧ (boardPut p n off b).freeCtr = p.freeCtr := by
  unfold boardPut; (repeat' split) <;> (simp_all; done)
@[simp] theorem keepRecord_keeps (p : Pkg) (n : Nat) (r : CountRec) : (keepRecord p n r).pins = p.pins ∧ (keepRecord p n
    r).tick = p.tick ∧ (keepRecord p n r).glb = p.glb ∧ (keepRecord p n r).arrays = p.arrays ∧ (keepRecord p n r).ldr = p.ldr
    ∧ (keepRecord p n r).nvw = p.nvw ∧ (keepRecord p n r).ctxs = p.ctxs ∧ (keepRecord p n r).numVfs = p.numVfs ∧ (keepRecord p
    n r).reqs = p.reqs ∧ (keepRecord p n r).lastGen = p.lastGen ∧ (keepRecord p n r).rq = p.rq ∧ (keepRecord p n r).kvp =
    p.kvp ∧ (keepRecord p n r).fab = p.fab ∧ (keepRecord p n r).hnd = p.hnd ∧ (keepRecord p n r).mgt = p.mgt ∧ (keepRecord p n
    r).i3c = p.i3c ∧ (keepRecord p n r).freeCtr = p.freeCtr := by
  simp [keepRecord]
@[simp] theorem keepMark_keeps (p : Pkg) (n : Nat) (m : Mark) : (keepMark p n m).pins = p.pins ∧ (keepMark p n m).tick =
    p.tick ∧ (keepMark p n m).glb = p.glb ∧ (keepMark p n m).scn = p.scn ∧ (keepMark p n m).arrays = p.arrays ∧ (keepMark p n
    m).ldr = p.ldr ∧ (keepMark p n m).nvw = p.nvw ∧ (keepMark p n m).ctxs = p.ctxs ∧ (keepMark p n m).numVfs = p.numVfs ∧
    (keepMark p n m).reqs = p.reqs ∧ (keepMark p n m).lastGen = p.lastGen ∧ (keepMark p n m).rq = p.rq ∧ (keepMark p n m).kvp
    = p.kvp ∧ (keepMark p n m).fab = p.fab ∧ (keepMark p n m).lsh = p.lsh ∧ (keepMark p n m).hnd = p.hnd ∧ (keepMark p n
    m).mgt = p.mgt ∧ (keepMark p n m).i3c = p.i3c ∧ (keepMark p n m).out = p.out ∧ (keepMark p n m).pba = p.pba ∧ (keepMark p
    n m).freeCtr = p.freeCtr := by
  simp [keepMark]
@[simp] theorem keepMark_vital (p : Pkg) (n : ℕ) (m : Mark) : (keepMark p n m).tick.refclkOk = p.tick.refclkOk ∧ (keepMark p n
    m).tick.phaseLocked = p.tick.phaseLocked ∧ (keepMark p n m).tick.holdover = p.tick.holdover := by
  simp [keepMark]
@[simp] theorem sendRecord_keeps (p : Pkg) (n : Nat) (step : Bool) (r : CountRec) : (sendRecord p n step r).pins = p.pins ∧
    (sendRecord p n step r).tick = p.tick ∧ (sendRecord p n step r).glb = p.glb ∧ (sendRecord p n step r).arrays = p.arrays ∧
    (sendRecord p n step r).ldr = p.ldr ∧ (sendRecord p n step r).nvw = p.nvw ∧ (sendRecord p n step r).ctxs = p.ctxs ∧
    (sendRecord p n step r).numVfs = p.numVfs ∧ (sendRecord p n step r).reqs = p.reqs ∧ (sendRecord p n step r).lastGen =
    p.lastGen ∧ (sendRecord p n step r).rq = p.rq ∧ (sendRecord p n step r).kvp = p.kvp ∧ (sendRecord p n step r).hnd = p.hnd
    ∧ (sendRecord p n step r).mgt = p.mgt ∧ (sendRecord p n step r).i3c = p.i3c ∧ (sendRecord p n step r).freeCtr = p.freeCtr
    :=
    by
  simp [sendRecord]
@[simp] theorem sendMark_keeps (p : Pkg) (n kind x round : Nat) (last : Bool) : (sendMark p n kind x round last).pins = p.pins
    ∧ (sendMark p n kind x round last).tick = p.tick ∧ (sendMark p n kind x round last).glb = p.glb ∧ (sendMark p n kind x
    round last).scn = p.scn ∧ (sendMark p n kind x round last).arrays = p.arrays ∧ (sendMark p n kind x round last).ldr =
    p.ldr ∧ (sendMark p n kind x round last).nvw = p.nvw ∧ (sendMark p n kind x round last).ctxs = p.ctxs ∧ (sendMark p n kind
    x round last).numVfs = p.numVfs ∧ (sendMark p n kind x round last).reqs = p.reqs ∧ (sendMark p n kind x round
    last).lastGen = p.lastGen ∧ (sendMark p n kind x round last).rq = p.rq ∧ (sendMark p n kind x round last).kvp = p.kvp ∧
    (sendMark p n kind x round last).lsh = p.lsh ∧ (sendMark p n kind x round last).hnd = p.hnd ∧ (sendMark p n kind x round
    last).mgt = p.mgt ∧ (sendMark p n kind x round last).i3c = p.i3c ∧ (sendMark p n kind x round last).freeCtr = p.freeCtr :=
    by
  simp [sendMark]
@[simp] theorem wideEntryOp_keeps (p : Pkg) (n e : Nat) : (wideEntryOp p n e).pins = p.pins ∧ (wideEntryOp p n e).tick =
    p.tick ∧ (wideEntryOp p n e).glb = p.glb ∧ (wideEntryOp p n e).ldr = p.ldr ∧ (wideEntryOp p n e).nvw = p.nvw ∧
    (wideEntryOp p n e).ctxs = p.ctxs ∧ (wideEntryOp p n e).numVfs = p.numVfs ∧ (wideEntryOp p n e).reqs = p.reqs ∧
    (wideEntryOp p n e).lastGen = p.lastGen ∧ (wideEntryOp p n e).rq = p.rq ∧ (wideEntryOp p n e).kvp = p.kvp ∧ (wideEntryOp p
    n e).fab = p.fab ∧ (wideEntryOp p n e).hnd = p.hnd ∧ (wideEntryOp p n e).mgt = p.mgt ∧ (wideEntryOp p n e).i3c = p.i3c ∧
    (wideEntryOp p n e).freeCtr = p.freeCtr := by
  simp [wideEntryOp]
@[simp] theorem wideEntryOp_vital (p : Pkg) (n : ℕ) (e : ℕ) : (wideEntryOp p n e).tick.refclkOk = p.tick.refclkOk ∧
    (wideEntryOp p n e).tick.phaseLocked = p.tick.phaseLocked ∧ (wideEntryOp p n e).tick.holdover = p.tick.holdover := by
  simp [wideEntryOp]
@[simp] theorem logSpill_keeps (p : Pkg) (n e h rounds top : Nat) : (logSpill p n e h rounds top).pins = p.pins ∧ (logSpill p
    n e h rounds top).tick = p.tick ∧ (logSpill p n e h rounds top).glb = p.glb ∧ (logSpill p n e h rounds top).arrays =
    p.arrays ∧ (logSpill p n e h rounds top).ldr = p.ldr ∧ (logSpill p n e h rounds top).nvw = p.nvw ∧ (logSpill p n e h
    rounds top).ctxs = p.ctxs ∧ (logSpill p n e h rounds top).numVfs = p.numVfs ∧ (logSpill p n e h rounds top).reqs = p.reqs
    ∧ (logSpill p n e h rounds top).lastGen = p.lastGen ∧ (logSpill p n e h rounds top).rq = p.rq ∧ (logSpill p n e h rounds
    top).kvp = p.kvp ∧ (logSpill p n e h rounds top).fab = p.fab ∧ (logSpill p n e h rounds top).lsh = p.lsh ∧ (logSpill p n e
    h rounds top).hnd = p.hnd ∧ (logSpill p n e h rounds top).mgt = p.mgt ∧ (logSpill p n e h rounds top).i3c = p.i3c ∧
    (logSpill p n e h rounds top).freeCtr = p.freeCtr := by
  simp [logSpill]
@[simp] theorem decideStepX_keeps (p : Pkg) (n : Nat) : (decideStepX p n).pins = p.pins ∧ (decideStepX p n).tick = p.tick ∧
    (decideStepX p n).glb = p.glb ∧ (decideStepX p n).arrays = p.arrays ∧ (decideStepX p n).ldr = p.ldr ∧ (decideStepX p
    n).nvw = p.nvw ∧ (decideStepX p n).ctxs = p.ctxs ∧ (decideStepX p n).numVfs = p.numVfs ∧ (decideStepX p n).reqs = p.reqs ∧
    (decideStepX p n).lastGen = p.lastGen ∧ (decideStepX p n).rq = p.rq ∧ (decideStepX p n).kvp = p.kvp ∧ (decideStepX p
    n).fab = p.fab ∧ (decideStepX p n).hnd = p.hnd ∧ (decideStepX p n).mgt = p.mgt ∧ (decideStepX p n).i3c = p.i3c ∧
    (decideStepX p n).freeCtr = p.freeCtr := by
  simp [decideStepX]
@[simp] theorem decideRouting_keeps (p : Pkg) (n e h : Nat) : (decideRouting p n e h).pins = p.pins ∧ (decideRouting p n e
    h).tick = p.tick ∧ (decideRouting p n e h).glb = p.glb ∧ (decideRouting p n e h).ldr = p.ldr ∧ (decideRouting p n e h).nvw
    = p.nvw ∧ (decideRouting p n e h).ctxs = p.ctxs ∧ (decideRouting p n e h).numVfs = p.numVfs ∧ (decideRouting p n e h).reqs
    = p.reqs ∧ (decideRouting p n e h).lastGen = p.lastGen ∧ (decideRouting p n e h).rq = p.rq ∧ (decideRouting p n e h).kvp =
    p.kvp ∧ (decideRouting p n e h).fab = p.fab ∧ (decideRouting p n e h).hnd = p.hnd ∧ (decideRouting p n e h).mgt = p.mgt ∧
    (decideRouting p n e h).i3c = p.i3c ∧ (decideRouting p n e h).freeCtr = p.freeCtr := by
  simp [decideRouting]
@[simp] theorem decideNext_keeps (p : Pkg) (n : Nat) : (decideNext p n).pins = p.pins ∧ (decideNext p n).tick = p.tick ∧
    (decideNext p n).glb = p.glb ∧ (decideNext p n).ldr = p.ldr ∧ (decideNext p n).nvw = p.nvw ∧ (decideNext p n).ctxs =
    p.ctxs ∧ (decideNext p n).numVfs = p.numVfs ∧ (decideNext p n).reqs = p.reqs ∧ (decideNext p n).lastGen = p.lastGen ∧
    (decideNext p n).rq = p.rq ∧ (decideNext p n).kvp = p.kvp ∧ (decideNext p n).fab = p.fab ∧ (decideNext p n).hnd = p.hnd ∧
    (decideNext p n).mgt = p.mgt ∧ (decideNext p n).i3c = p.i3c ∧ (decideNext p n).freeCtr = p.freeCtr := by
  unfold decideNext; (repeat' split) <;> (simp_all; done)
@[simp] theorem writePiece_keeps (p : Pkg) (n e f s : Nat) (a : Place) (pan : Nat) (b : Bytes) : (writePiece p n e f s a pan
    b).pins = p.pins ∧ (writePiece p n e f s a pan b).tick = p.tick ∧ (writePiece p n e f s a pan b).glb = p.glb ∧ (writePiece
    p n e f s a pan b).arrays = p.arrays ∧ (writePiece p n e f s a pan b).ldr = p.ldr ∧ (writePiece p n e f s a pan b).nvw =
    p.nvw ∧ (writePiece p n e f s a pan b).ctxs = p.ctxs ∧ (writePiece p n e f s a pan b).numVfs = p.numVfs ∧ (writePiece p n
    e f s a pan b).reqs = p.reqs ∧ (writePiece p n e f s a pan b).lastGen = p.lastGen ∧ (writePiece p n e f s a pan b).rq =
    p.rq ∧ (writePiece p n e f s a pan b).kvp = p.kvp ∧ (writePiece p n e f s a pan b).fab = p.fab ∧ (writePiece p n e f s a
    pan b).hnd = p.hnd ∧ (writePiece p n e f s a pan b).mgt = p.mgt ∧ (writePiece p n e f s a pan b).i3c = p.i3c ∧ (writePiece
    p n e f s a pan b).freeCtr = p.freeCtr := by
  simp [writePiece]
@[simp] theorem writeTags_keeps (p : Pkg) (n e region slot row : Nat) (b : Bytes) : (writeTags p n e region slot row b).pins =
    p.pins ∧ (writeTags p n e region slot row b).tick = p.tick ∧ (writeTags p n e region slot row b).glb = p.glb ∧ (writeTags
    p n e region slot row b).scn = p.scn ∧ (writeTags p n e region slot row b).arrays = p.arrays ∧ (writeTags p n e region
    slot row b).ldr = p.ldr ∧ (writeTags p n e region slot row b).nvw = p.nvw ∧ (writeTags p n e region slot row b).ctxs =
    p.ctxs ∧ (writeTags p n e region slot row b).numVfs = p.numVfs ∧ (writeTags p n e region slot row b).reqs = p.reqs ∧
    (writeTags p n e region slot row b).lastGen = p.lastGen ∧ (writeTags p n e region slot row b).rq = p.rq ∧ (writeTags p n e
    region slot row b).kvp = p.kvp ∧ (writeTags p n e region slot row b).fab = p.fab ∧ (writeTags p n e region slot row b).lsh
    = p.lsh ∧ (writeTags p n e region slot row b).hnd = p.hnd ∧ (writeTags p n e region slot row b).mgt = p.mgt ∧ (writeTags p
    n e region slot row b).i3c = p.i3c ∧ (writeTags p n e region slot row b).out = p.out ∧ (writeTags p n e region slot row
    b).pba = p.pba ∧ (writeTags p n e region slot row b).freeCtr = p.freeCtr := by
  simp [writeTags]
@[simp] theorem sendRow_keeps (p : Pkg) (n : Nat) (d : Decided) (a : RowOf) : (sendRow p n d a).pins = p.pins ∧ (sendRow p n d
    a).tick = p.tick ∧ (sendRow p n d a).glb = p.glb ∧ (sendRow p n d a).arrays = p.arrays ∧ (sendRow p n d a).ldr = p.ldr ∧
    (sendRow p n d a).nvw = p.nvw ∧ (sendRow p n d a).ctxs = p.ctxs ∧ (sendRow p n d a).numVfs = p.numVfs ∧ (sendRow p n d
    a).reqs = p.reqs ∧ (sendRow p n d a).lastGen = p.lastGen ∧ (sendRow p n d a).rq = p.rq ∧ (sendRow p n d a).kvp = p.kvp ∧
    (sendRow p n d a).hnd = p.hnd ∧ (sendRow p n d a).mgt = p.mgt ∧ (sendRow p n d a).i3c = p.i3c ∧ (sendRow p n d a).freeCtr
    = p.freeCtr := by
  unfold sendRow; dsimp only; (repeat' split) <;> (simp_all; done)
@[simp] theorem modDecided_keeps (p : Pkg) (n x : Nat) (f : Decided → Decided) : (modDecided p n x f).pins = p.pins ∧
    (modDecided p n x f).tick = p.tick ∧ (modDecided p n x f).glb = p.glb ∧ (modDecided p n x f).arrays = p.arrays ∧
    (modDecided p n x f).ldr = p.ldr ∧ (modDecided p n x f).nvw = p.nvw ∧ (modDecided p n x f).ctxs = p.ctxs ∧ (modDecided p n
    x f).numVfs = p.numVfs ∧ (modDecided p n x f).reqs = p.reqs ∧ (modDecided p n x f).lastGen = p.lastGen ∧ (modDecided p n x
    f).rq = p.rq ∧ (modDecided p n x f).kvp = p.kvp ∧ (modDecided p n x f).fab = p.fab ∧ (modDecided p n x f).hnd = p.hnd ∧
    (modDecided p n x f).mgt = p.mgt ∧ (modDecided p n x f).i3c = p.i3c ∧ (modDecided p n x f).freeCtr = p.freeCtr := by
  simp [modDecided]
@[simp] theorem sendRound_keeps (p : Pkg) (n : Nat) (d : Decided) : (sendRound p n d).pins = p.pins ∧ (sendRound p n d).tick =
    p.tick ∧ (sendRound p n d).glb = p.glb ∧ (sendRound p n d).arrays = p.arrays ∧ (sendRound p n d).ldr = p.ldr ∧ (sendRound
    p n d).nvw = p.nvw ∧ (sendRound p n d).ctxs = p.ctxs ∧ (sendRound p n d).numVfs = p.numVfs ∧ (sendRound p n d).reqs =
    p.reqs ∧ (sendRound p n d).lastGen = p.lastGen ∧ (sendRound p n d).rq = p.rq ∧ (sendRound p n d).kvp = p.kvp ∧ (sendRound
    p n d).hnd = p.hnd ∧ (sendRound p n d).mgt = p.mgt ∧ (sendRound p n d).i3c = p.i3c ∧ (sendRound p n d).freeCtr = p.freeCtr
    := by
  simp [sendRound]
@[simp] theorem sendRound_vital (p : Pkg) (n : ℕ) (d : Decided) : (sendRound p n d).tick.refclkOk = p.tick.refclkOk ∧
    (sendRound p n d).tick.phaseLocked = p.tick.phaseLocked ∧ (sendRound p n d).tick.holdover = p.tick.holdover := by
  simp [sendRound]
@[simp] theorem sendNext_keeps (p : Pkg) (n : ℕ) : (sendNext p n).pins = p.pins ∧ (sendNext p n).tick = p.tick ∧ (sendNext p
    n).glb = p.glb ∧ (sendNext p n).arrays = p.arrays ∧ (sendNext p n).ldr = p.ldr ∧ (sendNext p n).nvw = p.nvw ∧ (sendNext p
    n).ctxs = p.ctxs ∧ (sendNext p n).numVfs = p.numVfs ∧ (sendNext p n).reqs = p.reqs ∧ (sendNext p n).lastGen = p.lastGen ∧
    (sendNext p n).rq = p.rq ∧ (sendNext p n).kvp = p.kvp ∧ (sendNext p n).hnd = p.hnd ∧ (sendNext p n).mgt = p.mgt ∧
    (sendNext p n).i3c = p.i3c ∧ (sendNext p n).freeCtr = p.freeCtr := by
  simp [sendNext]
@[simp] theorem sendWaiting_keeps (p : Pkg) (n : ℕ) (z0 : ℕ) : (sendWaiting p n z0).pins = p.pins ∧ (sendWaiting p n z0).tick
    = p.tick ∧ (sendWaiting p n z0).glb = p.glb ∧ (sendWaiting p n z0).arrays = p.arrays ∧ (sendWaiting p n z0).ldr = p.ldr ∧
    (sendWaiting p n z0).nvw = p.nvw ∧ (sendWaiting p n z0).ctxs = p.ctxs ∧ (sendWaiting p n z0).numVfs = p.numVfs ∧
    (sendWaiting p n z0).reqs = p.reqs ∧ (sendWaiting p n z0).lastGen = p.lastGen ∧ (sendWaiting p n z0).rq = p.rq ∧
    (sendWaiting p n z0).kvp = p.kvp ∧ (sendWaiting p n z0).hnd = p.hnd ∧ (sendWaiting p n z0).mgt = p.mgt ∧ (sendWaiting p n
    z0).i3c = p.i3c ∧ (sendWaiting p n z0).freeCtr = p.freeCtr := by
  induction z0 generalizing p with
  | zero => simp [sendWaiting]
  | succ k ih => simp only [sendWaiting]; split <;> simp [ih]
@[simp] theorem sendWaiting_vital (p : Pkg) (n : ℕ) (z0 : ℕ) : (sendWaiting p n z0).tick.refclkOk = p.tick.refclkOk ∧
    (sendWaiting p n z0).tick.phaseLocked = p.tick.phaseLocked ∧ (sendWaiting p n z0).tick.holdover = p.tick.holdover ∧
    (sendWaiting p n z0).glb.ready = p.glb.ready ∧ (sendWaiting p n z0).glb.selfTestDone = p.glb.selfTestDone ∧ (sendWaiting p
    n z0).glb.fwFault = p.glb.fwFault := by
  simp [sendWaiting]
@[simp] theorem drive1_keeps (p : Pkg) (n : Nat) : (drive1 p n).pins = p.pins ∧ (drive1 p n).tick = p.tick ∧ (drive1 p n).glb
    = p.glb ∧ (drive1 p n).ldr = p.ldr ∧ (drive1 p n).nvw = p.nvw ∧ (drive1 p n).ctxs = p.ctxs ∧ (drive1 p n).numVfs =
    p.numVfs ∧ (drive1 p n).reqs = p.reqs ∧ (drive1 p n).lastGen = p.lastGen ∧ (drive1 p n).rq = p.rq ∧ (drive1 p n).kvp =
    p.kvp ∧ (drive1 p n).hnd = p.hnd ∧ (drive1 p n).mgt = p.mgt ∧ (drive1 p n).i3c = p.i3c ∧ (drive1 p n).freeCtr = p.freeCtr
    := by
  simp [drive1]
@[simp] theorem drive_keeps (p : Pkg) (n : Nat) (z0 : Nat) : (drive p n z0).pins = p.pins ∧ (drive p n z0).tick = p.tick ∧
    (drive p n z0).glb = p.glb ∧ (drive p n z0).ldr = p.ldr ∧ (drive p n z0).nvw = p.nvw ∧ (drive p n z0).ctxs = p.ctxs ∧
    (drive p n z0).numVfs = p.numVfs ∧ (drive p n z0).reqs = p.reqs ∧ (drive p n z0).lastGen = p.lastGen ∧ (drive p n z0).rq =
    p.rq ∧ (drive p n z0).kvp = p.kvp ∧ (drive p n z0).hnd = p.hnd ∧ (drive p n z0).mgt = p.mgt ∧ (drive p n z0).i3c = p.i3c ∧
    (drive p n z0).freeCtr = p.freeCtr := by
  induction z0 generalizing p with
  | zero => simp [drive]
  | succ k ih =>
    unfold drive
    dsimp only
    split
    · simp [drive1_keeps]
    · have h := ih (drive1 p n)
      simp_all [drive1_keeps]
@[simp] theorem recordIn_keeps (p : Pkg) (n slot : Nat) (b : Bytes) : (recordIn p n slot b).pins = p.pins ∧ (recordIn p n slot
    b).tick = p.tick ∧ (recordIn p n slot b).glb = p.glb ∧ (recordIn p n slot b).ldr = p.ldr ∧ (recordIn p n slot b).nvw =
    p.nvw ∧ (recordIn p n slot b).ctxs = p.ctxs ∧ (recordIn p n slot b).numVfs = p.numVfs ∧ (recordIn p n slot b).reqs =
    p.reqs ∧ (recordIn p n slot b).lastGen = p.lastGen ∧ (recordIn p n slot b).rq = p.rq ∧ (recordIn p n slot b).kvp = p.kvp ∧
    (recordIn p n slot b).hnd = p.hnd ∧ (recordIn p n slot b).mgt = p.mgt ∧ (recordIn p n slot b).i3c = p.i3c ∧ (recordIn p n
    slot b).freeCtr = p.freeCtr := by
  unfold recordIn; (repeat' split) <;> (simp_all; done)
@[simp] theorem markIn_keeps (p : Pkg) (n kind slot w : Nat) : (markIn p n kind slot w).pins = p.pins ∧ (markIn p n kind slot
    w).tick = p.tick ∧ (markIn p n kind slot w).glb = p.glb ∧ (markIn p n kind slot w).ldr = p.ldr ∧ (markIn p n kind slot
    w).nvw = p.nvw ∧ (markIn p n kind slot w).ctxs = p.ctxs ∧ (markIn p n kind slot w).numVfs = p.numVfs ∧ (markIn p n kind
    slot w).reqs = p.reqs ∧ (markIn p n kind slot w).lastGen = p.lastGen ∧ (markIn p n kind slot w).rq = p.rq ∧ (markIn p n
    kind slot w).kvp = p.kvp ∧ (markIn p n kind slot w).hnd = p.hnd ∧ (markIn p n kind slot w).mgt = p.mgt ∧ (markIn p n kind
    slot w).i3c = p.i3c ∧ (markIn p n kind slot w).freeCtr = p.freeCtr := by
  simp [markIn]
@[simp] theorem pieceIn_keeps (p : Pkg) (n off : Nat) (b : Bytes) : (pieceIn p n off b).2.pins = p.pins ∧ (pieceIn p n off
    b).2.tick = p.tick ∧ (pieceIn p n off b).2.glb = p.glb ∧ (pieceIn p n off b).2.arrays = p.arrays ∧ (pieceIn p n off
    b).2.ldr = p.ldr ∧ (pieceIn p n off b).2.nvw = p.nvw ∧ (pieceIn p n off b).2.ctxs = p.ctxs ∧ (pieceIn p n off b).2.numVfs
    = p.numVfs ∧ (pieceIn p n off b).2.reqs = p.reqs ∧ (pieceIn p n off b).2.lastGen = p.lastGen ∧ (pieceIn p n off b).2.rq =
    p.rq ∧ (pieceIn p n off b).2.kvp = p.kvp ∧ (pieceIn p n off b).2.fab = p.fab ∧ (pieceIn p n off b).2.hnd = p.hnd ∧
    (pieceIn p n off b).2.mgt = p.mgt ∧ (pieceIn p n off b).2.i3c = p.i3c ∧ (pieceIn p n off b).2.freeCtr = p.freeCtr := by
  unfold pieceIn; dsimp only; (repeat' split) <;> (simp_all; done)
@[simp] theorem tagsIn_keeps (p : Pkg) (n off : Nat) (b : Bytes) : (tagsIn p n off b).2.pins = p.pins ∧ (tagsIn p n off
    b).2.tick = p.tick ∧ (tagsIn p n off b).2.glb = p.glb ∧ (tagsIn p n off b).2.arrays = p.arrays ∧ (tagsIn p n off b).2.ldr
    = p.ldr ∧ (tagsIn p n off b).2.nvw = p.nvw ∧ (tagsIn p n off b).2.ctxs = p.ctxs ∧ (tagsIn p n off b).2.numVfs = p.numVfs ∧
    (tagsIn p n off b).2.reqs = p.reqs ∧ (tagsIn p n off b).2.lastGen = p.lastGen ∧ (tagsIn p n off b).2.rq = p.rq ∧ (tagsIn p
    n off b).2.kvp = p.kvp ∧ (tagsIn p n off b).2.fab = p.fab ∧ (tagsIn p n off b).2.hnd = p.hnd ∧ (tagsIn p n off b).2.mgt =
    p.mgt ∧ (tagsIn p n off b).2.i3c = p.i3c ∧ (tagsIn p n off b).2.freeCtr = p.freeCtr := by
  unfold tagsIn; dsimp only; (repeat' split) <;> (simp_all; done)
@[simp] theorem combineIn_keeps (p : Pkg) (n off : Nat) (b : Bytes) : (combineIn p n off b).2.pins = p.pins ∧ (combineIn p n
    off b).2.tick = p.tick ∧ (combineIn p n off b).2.glb = p.glb ∧ (combineIn p n off b).2.arrays = p.arrays ∧ (combineIn p n
    off b).2.ldr = p.ldr ∧ (combineIn p n off b).2.nvw = p.nvw ∧ (combineIn p n off b).2.ctxs = p.ctxs ∧ (combineIn p n off
    b).2.numVfs = p.numVfs ∧ (combineIn p n off b).2.reqs = p.reqs ∧ (combineIn p n off b).2.lastGen = p.lastGen ∧ (combineIn
    p n off b).2.rq = p.rq ∧ (combineIn p n off b).2.kvp = p.kvp ∧ (combineIn p n off b).2.fab = p.fab ∧ (combineIn p n off
    b).2.hnd = p.hnd ∧ (combineIn p n off b).2.mgt = p.mgt ∧ (combineIn p n off b).2.i3c = p.i3c ∧ (combineIn p n off
    b).2.freeCtr = p.freeCtr := by
  unfold combineIn; dsimp only; (repeat' split) <;> (simp_all; done)
@[simp] theorem openExchange_keeps (p : Pkg) (n e h : Nat) : (openExchange p n e h).pins = p.pins ∧ (openExchange p n e
    h).tick = p.tick ∧ (openExchange p n e h).glb = p.glb ∧ (openExchange p n e h).arrays = p.arrays ∧ (openExchange p n e
    h).ldr = p.ldr ∧ (openExchange p n e h).nvw = p.nvw ∧ (openExchange p n e h).ctxs = p.ctxs ∧ (openExchange p n e h).numVfs
    = p.numVfs ∧ (openExchange p n e h).reqs = p.reqs ∧ (openExchange p n e h).lastGen = p.lastGen ∧ (openExchange p n e h).rq
    = p.rq ∧ (openExchange p n e h).kvp = p.kvp ∧ (openExchange p n e h).hnd = p.hnd ∧ (openExchange p n e h).mgt = p.mgt ∧
    (openExchange p n e h).i3c = p.i3c ∧ (openExchange p n e h).freeCtr = p.freeCtr := by
  simp [openExchange]
@[simp] theorem routerReleased_keeps (p : Pkg) (n layer : Nat) : (routerReleased p n layer).pins = p.pins ∧ (routerReleased p
    n layer).tick = p.tick ∧ (routerReleased p n layer).glb = p.glb ∧ (routerReleased p n layer).ldr = p.ldr ∧ (routerReleased
    p n layer).nvw = p.nvw ∧ (routerReleased p n layer).ctxs = p.ctxs ∧ (routerReleased p n layer).numVfs = p.numVfs ∧
    (routerReleased p n layer).reqs = p.reqs ∧ (routerReleased p n layer).lastGen = p.lastGen ∧ (routerReleased p n layer).rq
    = p.rq ∧ (routerReleased p n layer).kvp = p.kvp ∧ (routerReleased p n layer).hnd = p.hnd ∧ (routerReleased p n layer).mgt
    = p.mgt ∧ (routerReleased p n layer).i3c = p.i3c ∧ (routerReleased p n layer).freeCtr = p.freeCtr := by
  unfold routerReleased; dsimp only; (repeat' split) <;> (simp_all; done)
@[simp] theorem sendBack_keeps (p : Pkg) (n : Nat) (d : Decided) (f slot row : Nat) : (sendBack p n d f slot row).pins =
    p.pins ∧ (sendBack p n d f slot row).tick = p.tick ∧ (sendBack p n d f slot row).glb = p.glb ∧ (sendBack p n d f slot
    row).scn = p.scn ∧ (sendBack p n d f slot row).arrays = p.arrays ∧ (sendBack p n d f slot row).ldr = p.ldr ∧ (sendBack p n
    d f slot row).nvw = p.nvw ∧ (sendBack p n d f slot row).ctxs = p.ctxs ∧ (sendBack p n d f slot row).numVfs = p.numVfs ∧
    (sendBack p n d f slot row).reqs = p.reqs ∧ (sendBack p n d f slot row).lastGen = p.lastGen ∧ (sendBack p n d f slot
    row).rq = p.rq ∧ (sendBack p n d f slot row).kvp = p.kvp ∧ (sendBack p n d f slot row).lsh = p.lsh ∧ (sendBack p n d f
    slot row).hnd = p.hnd ∧ (sendBack p n d f slot row).mgt = p.mgt ∧ (sendBack p n d f slot row).i3c = p.i3c ∧ (sendBack p n
    d f slot row).freeCtr = p.freeCtr := by
  unfold sendBack; dsimp only; repeat' apply And.intro
  all_goals repeat' split
  all_goals try simp only [fwStore_keeps, bufPut_keeps, id_eq]
  all_goals repeat' (first
    | refine Eq.trans (forAll_pins _ _ _ ?_) ?_
    | refine Eq.trans (forAll_tick _ _ _ ?_) ?_
    | refine Eq.trans (forAll_glb _ _ _ ?_) ?_
    | refine Eq.trans (forAll_scn _ _ _ ?_) ?_
    | refine Eq.trans (forAll_arrays _ _ _ ?_) ?_
    | refine Eq.trans (forAll_ldr _ _ _ ?_) ?_
    | refine Eq.trans (forAll_nvw _ _ _ ?_) ?_
    | refine Eq.trans (forAll_ctxs _ _ _ ?_) ?_
    | refine Eq.trans (forAll_numVfs _ _ _ ?_) ?_
    | refine Eq.trans (forAll_reqs _ _ _ ?_) ?_
    | refine Eq.trans (forAll_lastGen _ _ _ ?_) ?_
    | refine Eq.trans (forAll_rq _ _ _ ?_) ?_
    | refine Eq.trans (forAll_kvp _ _ _ ?_) ?_
    | refine Eq.trans (forAll_lsh _ _ _ ?_) ?_
    | refine Eq.trans (forAll_hnd _ _ _ ?_) ?_
    | refine Eq.trans (forAll_mgt _ _ _ ?_) ?_
    | refine Eq.trans (forAll_i3c _ _ _ ?_) ?_
    | refine Eq.trans (forAll_freeCtr _ _ _ ?_) ?_
    | refine Eq.trans (foldl_pins _ _ _ ?_) ?_
    | refine Eq.trans (foldl_tick _ _ _ ?_) ?_
    | refine Eq.trans (foldl_glb _ _ _ ?_) ?_
    | refine Eq.trans (foldl_scn _ _ _ ?_) ?_
    | refine Eq.trans (foldl_arrays _ _ _ ?_) ?_
    | refine Eq.trans (foldl_ldr _ _ _ ?_) ?_
    | refine Eq.trans (foldl_nvw _ _ _ ?_) ?_
    | refine Eq.trans (foldl_ctxs _ _ _ ?_) ?_
    | refine Eq.trans (foldl_numVfs _ _ _ ?_) ?_
    | refine Eq.trans (foldl_reqs _ _ _ ?_) ?_
    | refine Eq.trans (foldl_lastGen _ _ _ ?_) ?_
    | refine Eq.trans (foldl_rq _ _ _ ?_) ?_
    | refine Eq.trans (foldl_kvp _ _ _ ?_) ?_
    | refine Eq.trans (foldl_lsh _ _ _ ?_) ?_
    | refine Eq.trans (foldl_hnd _ _ _ ?_) ?_
    | refine Eq.trans (foldl_mgt _ _ _ ?_) ?_
    | refine Eq.trans (foldl_i3c _ _ _ ?_) ?_
    | refine Eq.trans (foldl_freeCtr _ _ _ ?_) ?_
    | refine Eq.trans (foldlP_pins _ _ _ ?_) ?_
    | refine Eq.trans (foldlP_tick _ _ _ ?_) ?_
    | refine Eq.trans (foldlP_glb _ _ _ ?_) ?_
    | refine Eq.trans (foldlP_scn _ _ _ ?_) ?_
    | refine Eq.trans (foldlP_arrays _ _ _ ?_) ?_
    | refine Eq.trans (foldlP_ldr _ _ _ ?_) ?_
    | refine Eq.trans (foldlP_nvw _ _ _ ?_) ?_
    | refine Eq.trans (foldlP_ctxs _ _ _ ?_) ?_
    | refine Eq.trans (foldlP_numVfs _ _ _ ?_) ?_
    | refine Eq.trans (foldlP_reqs _ _ _ ?_) ?_
    | refine Eq.trans (foldlP_lastGen _ _ _ ?_) ?_
    | refine Eq.trans (foldlP_rq _ _ _ ?_) ?_
    | refine Eq.trans (foldlP_kvp _ _ _ ?_) ?_
    | refine Eq.trans (foldlP_lsh _ _ _ ?_) ?_
    | refine Eq.trans (foldlP_hnd _ _ _ ?_) ?_
    | refine Eq.trans (foldlP_mgt _ _ _ ?_) ?_
    | refine Eq.trans (foldlP_i3c _ _ _ ?_) ?_
    | refine Eq.trans (foldlP_freeCtr _ _ _ ?_) ?_)
  all_goals try intro q x
  all_goals try dsimp only
  all_goals repeat' split
  all_goals first | rfl | (simp_all; done)
@[simp] theorem expertsReleased_keeps (p : Pkg) (n layer : Nat) : (expertsReleased p n layer).pins = p.pins ∧ (expertsReleased
    p n layer).tick = p.tick ∧ (expertsReleased p n layer).glb = p.glb ∧ (expertsReleased p n layer).ldr = p.ldr ∧
    (expertsReleased p n layer).nvw = p.nvw ∧ (expertsReleased p n layer).ctxs = p.ctxs ∧ (expertsReleased p n layer).numVfs =
    p.numVfs ∧ (expertsReleased p n layer).reqs = p.reqs ∧ (expertsReleased p n layer).lastGen = p.lastGen ∧ (expertsReleased
    p n layer).rq = p.rq ∧ (expertsReleased p n layer).kvp = p.kvp ∧ (expertsReleased p n layer).hnd = p.hnd ∧
    (expertsReleased p n layer).mgt = p.mgt ∧ (expertsReleased p n layer).i3c = p.i3c ∧ (expertsReleased p n layer).freeCtr =
    p.freeCtr := by
  unfold expertsReleased; (repeat' split) <;> (simp_all; done)
@[simp] theorem combineHalf_keeps (p : Pkg) (n : Nat) (d : Decided) : (combineHalf p n d).pins = p.pins ∧ (combineHalf p n
    d).tick = p.tick ∧ (combineHalf p n d).glb = p.glb ∧ (combineHalf p n d).arrays = p.arrays ∧ (combineHalf p n d).ldr =
    p.ldr ∧ (combineHalf p n d).nvw = p.nvw ∧ (combineHalf p n d).ctxs = p.ctxs ∧ (combineHalf p n d).numVfs = p.numVfs ∧
    (combineHalf p n d).reqs = p.reqs ∧ (combineHalf p n d).lastGen = p.lastGen ∧ (combineHalf p n d).rq = p.rq ∧ (combineHalf
    p n d).kvp = p.kvp ∧ (combineHalf p n d).fab = p.fab ∧ (combineHalf p n d).hnd = p.hnd ∧ (combineHalf p n d).mgt = p.mgt ∧
    (combineHalf p n d).i3c = p.i3c ∧ (combineHalf p n d).freeCtr = p.freeCtr := by
  simp [combineHalf]
@[simp] theorem slotWordIn_keeps (p : Pkg) (n off w : Nat) : (slotWordIn p n off w).2.pins = p.pins ∧ (slotWordIn p n off
    w).2.tick = p.tick ∧ (slotWordIn p n off w).2.glb = p.glb ∧ (slotWordIn p n off w).2.scn = p.scn ∧ (slotWordIn p n off
    w).2.arrays = p.arrays ∧ (slotWordIn p n off w).2.ldr = p.ldr ∧ (slotWordIn p n off w).2.nvw = p.nvw ∧ (slotWordIn p n off
    w).2.ctxs = p.ctxs ∧ (slotWordIn p n off w).2.numVfs = p.numVfs ∧ (slotWordIn p n off w).2.reqs = p.reqs ∧ (slotWordIn p n
    off w).2.lastGen = p.lastGen ∧ (slotWordIn p n off w).2.rq = p.rq ∧ (slotWordIn p n off w).2.kvp = p.kvp ∧ (slotWordIn p n
    off w).2.fab = p.fab ∧ (slotWordIn p n off w).2.lsh = p.lsh ∧ (slotWordIn p n off w).2.hnd = p.hnd ∧ (slotWordIn p n off
    w).2.mgt = p.mgt ∧ (slotWordIn p n off w).2.i3c = p.i3c ∧ (slotWordIn p n off w).2.out = p.out ∧ (slotWordIn p n off
    w).2.pba = p.pba ∧ (slotWordIn p n off w).2.freeCtr = p.freeCtr := by
  unfold slotWordIn; (repeat' split) <;> (simp_all; done)
@[simp] theorem sendSlotWords_keeps (p : Pkg) (n : Nat) : (sendSlotWords p n).pins = p.pins ∧ (sendSlotWords p n).tick =
    p.tick ∧ (sendSlotWords p n).glb = p.glb ∧ (sendSlotWords p n).arrays = p.arrays ∧ (sendSlotWords p n).ldr = p.ldr ∧
    (sendSlotWords p n).nvw = p.nvw ∧ (sendSlotWords p n).ctxs = p.ctxs ∧ (sendSlotWords p n).numVfs = p.numVfs ∧
    (sendSlotWords p n).reqs = p.reqs ∧ (sendSlotWords p n).lastGen = p.lastGen ∧ (sendSlotWords p n).rq = p.rq ∧
    (sendSlotWords p n).kvp = p.kvp ∧ (sendSlotWords p n).hnd = p.hnd ∧ (sendSlotWords p n).mgt = p.mgt ∧ (sendSlotWords p
    n).i3c = p.i3c ∧ (sendSlotWords p n).freeCtr = p.freeCtr := by
  simp [sendSlotWords]
@[simp] theorem sendSlotWords_vital (p : Pkg) (n : ℕ) : (sendSlotWords p n).tick.refclkOk = p.tick.refclkOk ∧ (sendSlotWords p
    n).tick.phaseLocked = p.tick.phaseLocked ∧ (sendSlotWords p n).tick.holdover = p.tick.holdover := by
  simp [sendSlotWords]
@[simp] theorem candIn_keeps (p : Pkg) (n off : Nat) (b : Bytes) : (candIn p n off b).2.pins = p.pins ∧ (candIn p n off
    b).2.tick = p.tick ∧ (candIn p n off b).2.glb = p.glb ∧ (candIn p n off b).2.arrays = p.arrays ∧ (candIn p n off b).2.ldr
    = p.ldr ∧ (candIn p n off b).2.nvw = p.nvw ∧ (candIn p n off b).2.ctxs = p.ctxs ∧ (candIn p n off b).2.numVfs = p.numVfs ∧
    (candIn p n off b).2.reqs = p.reqs ∧ (candIn p n off b).2.lastGen = p.lastGen ∧ (candIn p n off b).2.rq = p.rq ∧ (candIn p
    n off b).2.kvp = p.kvp ∧ (candIn p n off b).2.fab = p.fab ∧ (candIn p n off b).2.hnd = p.hnd ∧ (candIn p n off b).2.mgt =
    p.mgt ∧ (candIn p n off b).2.i3c = p.i3c ∧ (candIn p n off b).2.freeCtr = p.freeCtr := by
  unfold candIn; dsimp only; (repeat' split) <;> (simp_all; done)
@[simp] theorem sendCands_keeps (p : Pkg) (n : Nat) : (sendCands p n).pins = p.pins ∧ (sendCands p n).tick = p.tick ∧
    (sendCands p n).glb = p.glb ∧ (sendCands p n).arrays = p.arrays ∧ (sendCands p n).ldr = p.ldr ∧ (sendCands p n).nvw =
    p.nvw ∧ (sendCands p n).ctxs = p.ctxs ∧ (sendCands p n).numVfs = p.numVfs ∧ (sendCands p n).reqs = p.reqs ∧ (sendCands p
    n).lastGen = p.lastGen ∧ (sendCands p n).rq = p.rq ∧ (sendCands p n).kvp = p.kvp ∧ (sendCands p n).hnd = p.hnd ∧
    (sendCands p n).mgt = p.mgt ∧ (sendCands p n).i3c = p.i3c ∧ (sendCands p n).freeCtr = p.freeCtr := by
  unfold sendCands; dsimp only; repeat' apply And.intro
  all_goals repeat' split
  all_goals try simp only [fwStore_keeps, candIn_keeps, id_eq]
  all_goals repeat' (first
    | refine Eq.trans (forAll_pins _ _ _ ?_) ?_
    | refine Eq.trans (forAll_tick _ _ _ ?_) ?_
    | refine Eq.trans (forAll_glb _ _ _ ?_) ?_
    | refine Eq.trans (forAll_arrays _ _ _ ?_) ?_
    | refine Eq.trans (forAll_ldr _ _ _ ?_) ?_
    | refine Eq.trans (forAll_nvw _ _ _ ?_) ?_
    | refine Eq.trans (forAll_ctxs _ _ _ ?_) ?_
    | refine Eq.trans (forAll_numVfs _ _ _ ?_) ?_
    | refine Eq.trans (forAll_reqs _ _ _ ?_) ?_
    | refine Eq.trans (forAll_lastGen _ _ _ ?_) ?_
    | refine Eq.trans (forAll_rq _ _ _ ?_) ?_
    | refine Eq.trans (forAll_kvp _ _ _ ?_) ?_
    | refine Eq.trans (forAll_hnd _ _ _ ?_) ?_
    | refine Eq.trans (forAll_mgt _ _ _ ?_) ?_
    | refine Eq.trans (forAll_i3c _ _ _ ?_) ?_
    | refine Eq.trans (forAll_freeCtr _ _ _ ?_) ?_
    | refine Eq.trans (foldl_pins _ _ _ ?_) ?_
    | refine Eq.trans (foldl_tick _ _ _ ?_) ?_
    | refine Eq.trans (foldl_glb _ _ _ ?_) ?_
    | refine Eq.trans (foldl_arrays _ _ _ ?_) ?_
    | refine Eq.trans (foldl_ldr _ _ _ ?_) ?_
    | refine Eq.trans (foldl_nvw _ _ _ ?_) ?_
    | refine Eq.trans (foldl_ctxs _ _ _ ?_) ?_
    | refine Eq.trans (foldl_numVfs _ _ _ ?_) ?_
    | refine Eq.trans (foldl_reqs _ _ _ ?_) ?_
    | refine Eq.trans (foldl_lastGen _ _ _ ?_) ?_
    | refine Eq.trans (foldl_rq _ _ _ ?_) ?_
    | refine Eq.trans (foldl_kvp _ _ _ ?_) ?_
    | refine Eq.trans (foldl_hnd _ _ _ ?_) ?_
    | refine Eq.trans (foldl_mgt _ _ _ ?_) ?_
    | refine Eq.trans (foldl_i3c _ _ _ ?_) ?_
    | refine Eq.trans (foldl_freeCtr _ _ _ ?_) ?_
    | refine Eq.trans (foldlP_pins _ _ _ ?_) ?_
    | refine Eq.trans (foldlP_tick _ _ _ ?_) ?_
    | refine Eq.trans (foldlP_glb _ _ _ ?_) ?_
    | refine Eq.trans (foldlP_arrays _ _ _ ?_) ?_
    | refine Eq.trans (foldlP_ldr _ _ _ ?_) ?_
    | refine Eq.trans (foldlP_nvw _ _ _ ?_) ?_
    | refine Eq.trans (foldlP_ctxs _ _ _ ?_) ?_
    | refine Eq.trans (foldlP_numVfs _ _ _ ?_) ?_
    | refine Eq.trans (foldlP_reqs _ _ _ ?_) ?_
    | refine Eq.trans (foldlP_lastGen _ _ _ ?_) ?_
    | refine Eq.trans (foldlP_rq _ _ _ ?_) ?_
    | refine Eq.trans (foldlP_kvp _ _ _ ?_) ?_
    | refine Eq.trans (foldlP_hnd _ _ _ ?_) ?_
    | refine Eq.trans (foldlP_mgt _ _ _ ?_) ?_
    | refine Eq.trans (foldlP_i3c _ _ _ ?_) ?_
    | refine Eq.trans (foldlP_freeCtr _ _ _ ?_) ?_)
  all_goals try intro q x
  all_goals try dsimp only
  all_goals repeat' split
  all_goals first | rfl | (simp_all; done)
@[simp] theorem noteDegenerate_keeps (p : Pkg) (e k : Nat) : (noteDegenerate p e k).pins = p.pins ∧ (noteDegenerate p e
    k).tick = p.tick ∧ (noteDegenerate p e k).glb = p.glb ∧ (noteDegenerate p e k).arrays = p.arrays ∧ (noteDegenerate p e
    k).ldr = p.ldr ∧ (noteDegenerate p e k).pens = p.pens ∧ (noteDegenerate p e k).nvw = p.nvw ∧ (noteDegenerate p e k).ctxs =
    p.ctxs ∧ (noteDegenerate p e k).numVfs = p.numVfs ∧ (noteDegenerate p e k).reqs = p.reqs ∧ (noteDegenerate p e k).lastGen
    = p.lastGen ∧ (noteDegenerate p e k).kvp = p.kvp ∧ (noteDegenerate p e k).fab = p.fab ∧ (noteDegenerate p e k).lsh = p.lsh
    ∧ (noteDegenerate p e k).hnd = p.hnd ∧ (noteDegenerate p e k).mgt = p.mgt ∧ (noteDegenerate p e k).i3c = p.i3c ∧
    (noteDegenerate p e k).freeCtr = p.freeCtr := by
  simp [noteDegenerate]
@[simp] theorem selectSlot_keeps (p : Pkg) (n s : Nat) (u : SlotUse) : (selectSlot p n s u).pins = p.pins ∧ (selectSlot p n s
    u).tick = p.tick ∧ (selectSlot p n s u).glb = p.glb ∧ (selectSlot p n s u).arrays = p.arrays ∧ (selectSlot p n s u).ldr =
    p.ldr ∧ (selectSlot p n s u).nvw = p.nvw ∧ (selectSlot p n s u).ctxs = p.ctxs ∧ (selectSlot p n s u).numVfs = p.numVfs ∧
    (selectSlot p n s u).reqs = p.reqs ∧ (selectSlot p n s u).lastGen = p.lastGen ∧ (selectSlot p n s u).kvp = p.kvp ∧
    (selectSlot p n s u).fab = p.fab ∧ (selectSlot p n s u).hnd = p.hnd ∧ (selectSlot p n s u).mgt = p.mgt ∧ (selectSlot p n s
    u).i3c = p.i3c ∧ (selectSlot p n s u).freeCtr = p.freeCtr := by
  simp [selectSlot]
@[simp] theorem takeTokSlot_keeps (p : Pkg) (e : Nat) : (takeTokSlot p e).pins = p.pins ∧ (takeTokSlot p e).tick = p.tick ∧
    (takeTokSlot p e).glb = p.glb ∧ (takeTokSlot p e).scn = p.scn ∧ (takeTokSlot p e).arrays = p.arrays ∧ (takeTokSlot p
    e).ldr = p.ldr ∧ (takeTokSlot p e).pens = p.pens ∧ (takeTokSlot p e).nvw = p.nvw ∧ (takeTokSlot p e).numVfs = p.numVfs ∧
    (takeTokSlot p e).lastGen = p.lastGen ∧ (takeTokSlot p e).rq = p.rq ∧ (takeTokSlot p e).kvp = p.kvp ∧ (takeTokSlot p
    e).fab = p.fab ∧ (takeTokSlot p e).lsh = p.lsh ∧ (takeTokSlot p e).mgt = p.mgt ∧ (takeTokSlot p e).i3c = p.i3c ∧
    (takeTokSlot p e).out = p.out ∧ (takeTokSlot p e).pba = p.pba ∧ (takeTokSlot p e).freeCtr = p.freeCtr := by
  simp [takeTokSlot]
theorem placeReq_pins (p : Pkg) (n : Nat) (f : Fill) (e : Nat) (ss : List Nat) (us : List SlotUse) (stop : Nat) :
    (placeReq p n f e ss us stop).1.pins = p.pins := by
  simp [placeReq]
@[simp] theorem placeReq_keeps (p : Pkg) (n : Nat) (f : Fill) (e : Nat) (ss : List Nat) (us : List SlotUse) (stop : Nat) :
    (placeReq p n f e ss us stop).1.tick = p.tick ∧ (placeReq p n f e ss us stop).1.glb = p.glb ∧ (placeReq p n f e ss us
    stop).1.scn = p.scn ∧ (placeReq p n f e ss us stop).1.arrays = p.arrays ∧ (placeReq p n f e ss us stop).1.ldr = p.ldr ∧
    (placeReq p n f e ss us stop).1.nvw = p.nvw ∧ (placeReq p n f e ss us stop).1.numVfs = p.numVfs ∧ (placeReq p n f e ss us
    stop).1.lastGen = p.lastGen ∧ (placeReq p n f e ss us stop).1.rq = p.rq ∧ (placeReq p n f e ss us stop).1.kvp = p.kvp ∧
    (placeReq p n f e ss us stop).1.fab = p.fab ∧ (placeReq p n f e ss us stop).1.lsh = p.lsh ∧ (placeReq p n f e ss us
    stop).1.mgt = p.mgt ∧ (placeReq p n f e ss us stop).1.i3c = p.i3c ∧ (placeReq p n f e ss us stop).1.out = p.out ∧
    (placeReq p n f e ss us stop).1.pba = p.pba ∧ (placeReq p n f e ss us stop).1.freeCtr = p.freeCtr := by
  simp [placeReq]
theorem placeOne_pins (n : Nat) (acc : Pkg × Fill) (x : Nat × Option (List Nat)) : (placeOne n acc x).1.pins = acc.1.pins := by
  obtain ⟨p, f⟩ := acc
  unfold placeOne
  dsimp -zeta only
  extract_lets e r ss us first stop need o avail out
  by_cases h1 : (ss.isEmpty || !tokenRoom p r) = true
  · rw [if_pos h1]
  · rw [if_neg h1]
    by_cases h2 : 0 < need ∧ (f.short.isSome ∨ avail < need)
    · rw [if_pos h2]
    · rw [if_neg h2]
      split
      · rename_i q hq
        have h3 := growFor_keeps p _ _ _ _ hq
        simp only [placeReq_pins, h3]
      · rfl
@[simp] theorem fillStep_pins (p : Pkg) (n : Nat) : (fillStep p n).1.pins = p.pins := by
  unfold fillStep
  exact foldlP_pins _ _ (p, ({} : Fill)) fun a x => by simp only [placeOne_pins]
@[simp] theorem placeOne_keeps (n : Nat) (acc : Pkg × Fill) (x : Nat × Option (List Nat)) : (placeOne n acc x).1.tick =
    acc.1.tick ∧ (placeOne n acc x).1.glb = acc.1.glb ∧ (placeOne n acc x).1.scn = acc.1.scn ∧ (placeOne n acc x).1.arrays =
    acc.1.arrays ∧ (placeOne n acc x).1.ldr = acc.1.ldr ∧ (placeOne n acc x).1.nvw = acc.1.nvw ∧ (placeOne n acc x).1.numVfs =
    acc.1.numVfs ∧ (placeOne n acc x).1.lastGen = acc.1.lastGen ∧ (placeOne n acc x).1.rq = acc.1.rq ∧ (placeOne n acc
    x).1.kvp = acc.1.kvp ∧ (placeOne n acc x).1.fab = acc.1.fab ∧ (placeOne n acc x).1.lsh = acc.1.lsh ∧ (placeOne n acc
    x).1.mgt = acc.1.mgt ∧ (placeOne n acc x).1.i3c = acc.1.i3c ∧ (placeOne n acc x).1.out = acc.1.out ∧ (placeOne n acc
    x).1.pba = acc.1.pba ∧ (placeOne n acc x).1.freeCtr = acc.1.freeCtr := by
  obtain ⟨p, f⟩ := acc
  unfold placeOne
  dsimp -zeta only
  extract_lets e r ss us first stop need o avail out
  by_cases h1 : (ss.isEmpty || !tokenRoom p r) = true
  · rw [if_pos h1]; simp
  · rw [if_neg h1]
    by_cases h2 : 0 < need ∧ (f.short.isSome ∨ avail < need)
    · rw [if_pos h2]; simp
    · rw [if_neg h2]
      split
      · rename_i q hq
        have h3 := growFor_keeps p _ _ _ _ hq
        simp only [placeReq_keeps, h3, and_self]
      · simp
@[simp] theorem fillStep_keeps (p : Pkg) (n : Nat) : (fillStep p n).1.tick = p.tick ∧ (fillStep p n).1.glb = p.glb ∧ (fillStep
    p n).1.scn = p.scn ∧ (fillStep p n).1.arrays = p.arrays ∧ (fillStep p n).1.ldr = p.ldr ∧ (fillStep p n).1.nvw = p.nvw ∧
    (fillStep p n).1.numVfs = p.numVfs ∧ (fillStep p n).1.lastGen = p.lastGen ∧ (fillStep p n).1.rq = p.rq ∧ (fillStep p
    n).1.kvp = p.kvp ∧ (fillStep p n).1.fab = p.fab ∧ (fillStep p n).1.lsh = p.lsh ∧ (fillStep p n).1.mgt = p.mgt ∧ (fillStep
    p n).1.i3c = p.i3c ∧ (fillStep p n).1.out = p.out ∧ (fillStep p n).1.pba = p.pba ∧ (fillStep p n).1.freeCtr = p.freeCtr :=
    by
  unfold fillStep
  exact ⟨foldlP_tick _ _ (p, ({} : Fill)) fun a x => by simp only [placeOne_keeps], foldlP_glb _ _ (p, ({} : Fill)) fun a x => by simp only [placeOne_keeps], foldlP_scn _ _ (p, ({} : Fill)) fun a x => by simp only [placeOne_keeps], foldlP_arrays _ _ (p, ({} : Fill)) fun a x => by simp only [placeOne_keeps], foldlP_ldr _ _ (p, ({} : Fill)) fun a x => by simp only [placeOne_keeps], foldlP_nvw _ _ (p, ({} : Fill)) fun a x => by simp only [placeOne_keeps], foldlP_numVfs _ _ (p, ({} : Fill)) fun a x => by simp only [placeOne_keeps], foldlP_lastGen _ _ (p, ({} : Fill)) fun a x => by simp only [placeOne_keeps], foldlP_rq _ _ (p, ({} : Fill)) fun a x => by simp only [placeOne_keeps], foldlP_kvp _ _ (p, ({} : Fill)) fun a x => by simp only [placeOne_keeps], foldlP_fab _ _ (p, ({} : Fill)) fun a x => by simp only [placeOne_keeps], foldlP_lsh _ _ (p, ({} : Fill)) fun a x => by simp only [placeOne_keeps], foldlP_mgt _ _ (p, ({} : Fill)) fun a x => by simp only [placeOne_keeps], foldlP_i3c _ _ (p, ({} : Fill)) fun a x => by simp only [placeOne_keeps], foldlP_out _ _ (p, ({} : Fill)) fun a x => by simp only [placeOne_keeps], foldlP_pba _ _ (p, ({} : Fill)) fun a x => by simp only [placeOne_keeps], foldlP_freeCtr _ _ (p, ({} : Fill)) fun a x => by simp only [placeOne_keeps]⟩
@[simp] theorem fillStep_vital (p : Pkg) (n : ℕ) : (fillStep p n).1.tick.refclkOk = p.tick.refclkOk ∧ (fillStep p
    n).1.tick.phaseLocked = p.tick.phaseLocked ∧ (fillStep p n).1.tick.holdover = p.tick.holdover ∧ (fillStep p n).1.glb.ready
    = p.glb.ready ∧ (fillStep p n).1.glb.selfTestDone = p.glb.selfTestDone ∧ (fillStep p n).1.glb.fwFault = p.glb.fwFault :=
    by
  simp [fillStep]
@[simp] theorem fetchFirst_keeps (p : Pkg) (r : ℕ) : (fetchFirst p r).pins = p.pins ∧ (fetchFirst p r).tick = p.tick ∧
    (fetchFirst p r).glb = p.glb ∧ (fetchFirst p r).scn = p.scn ∧ (fetchFirst p r).arrays = p.arrays ∧ (fetchFirst p r).ldr =
    p.ldr ∧ (fetchFirst p r).pens = p.pens ∧ (fetchFirst p r).nvw = p.nvw ∧ (fetchFirst p r).ctxs = p.ctxs ∧ (fetchFirst p
    r).numVfs = p.numVfs ∧ (fetchFirst p r).reqs = p.reqs ∧ (fetchFirst p r).lastGen = p.lastGen ∧ (fetchFirst p r).rq = p.rq
    ∧ (fetchFirst p r).kvp = p.kvp ∧ (fetchFirst p r).lsh = p.lsh ∧ (fetchFirst p r).hnd = p.hnd ∧ (fetchFirst p r).mgt =
    p.mgt ∧ (fetchFirst p r).i3c = p.i3c ∧ (fetchFirst p r).freeCtr = p.freeCtr := by
  simp [fetchFirst]
end Sys2Proof.Machine

end
end

