-- ==== Sys2Proof/Laws/Keep3.lean ====
section
/-! SUPPORT. What each operation on the package leaves as it is (part 3 of 4): one lemma per operation, with every part of the
package that it does not write, and for the parts it writes whether READY, SELF_TEST_DONE, FW_FAULT and the lock of the tick stand. -/

section

set_option maxRecDepth 4000
set_option linter.all false

namespace Sys2Proof.Machine

@[simp] theorem chooseShards_keeps (p : Pkg) (n : Nat) : (chooseShards p n).1.pins = p.pins ∧ (chooseShards p n).1.tick =
    p.tick ∧ (chooseShards p n).1.glb = p.glb ∧ (chooseShards p n).1.scn = p.scn ∧ (chooseShards p n).1.arrays = p.arrays ∧
    (chooseShards p n).1.ldr = p.ldr ∧ (chooseShards p n).1.nvw = p.nvw ∧ (chooseShards p n).1.ctxs = p.ctxs ∧ (chooseShards p
    n).1.numVfs = p.numVfs ∧ (chooseShards p n).1.reqs = p.reqs ∧ (chooseShards p n).1.lastGen = p.lastGen ∧ (chooseShards p
    n).1.rq = p.rq ∧ (chooseShards p n).1.kvp = p.kvp ∧ (chooseShards p n).1.lsh = p.lsh ∧ (chooseShards p n).1.hnd = p.hnd ∧
    (chooseShards p n).1.mgt = p.mgt ∧ (chooseShards p n).1.i3c = p.i3c ∧ (chooseShards p n).1.freeCtr = p.freeCtr := ⟨by
  unfold chooseShards; dsimp only; repeat' apply And.intro
  all_goals repeat' split
  all_goals try simp only [modPen_keeps, fetchFirst_keeps, id_eq]
  all_goals repeat' (first
    | refine Eq.trans (forAll_pins _ _ _ ?_) ?_
    | refine Eq.trans (foldl_pins _ _ _ ?_) ?_
    | refine Eq.trans (foldlP_pins _ _ _ ?_) ?_)
  all_goals try intro q x
  all_goals try dsimp only
  all_goals repeat' split
  all_goals first | rfl | (simp_all; done),
    by
  unfold chooseShards; dsimp only; repeat' apply And.intro
  all_goals repeat' split
  all_goals try simp only [modPen_keeps, fetchFirst_keeps, id_eq]
  all_goals repeat' (first
    | refine Eq.trans (forAll_tick _ _ _ ?_) ?_
    | refine Eq.trans (foldl_tick _ _ _ ?_) ?_
    | refine Eq.trans (foldlP_tick _ _ _ ?_) ?_)
  all_goals try intro q x
  all_goals try dsimp only
  all_goals repeat' split
  all_goals first | rfl | (simp_all; done),
    by
  unfold chooseShards; dsimp only; repeat' apply And.intro
  all_goals repeat' split
  all_goals try simp only [modPen_keeps, fetchFirst_keeps, id_eq]
  all_goals repeat' (first
    | refine Eq.trans (forAll_glb _ _ _ ?_) ?_
    | refine Eq.trans (foldl_glb _ _ _ ?_) ?_
    | refine Eq.trans (foldlP_glb _ _ _ ?_) ?_)
  all_goals try intro q x
  all_goals try dsimp only
  all_goals repeat' split
  all_goals first | rfl | (simp_all; done),
    by
  unfold chooseShards; dsimp only; repeat' apply And.intro
  all_goals repeat' split
  all_goals try simp only [modPen_keeps, fetchFirst_keeps, id_eq]
  all_goals repeat' (first
    | refine Eq.trans (forAll_scn _ _ _ ?_) ?_
    | refine Eq.trans (foldl_scn _ _ _ ?_) ?_
    | refine Eq.trans (foldlP_scn _ _ _ ?_) ?_)
  all_goals try intro q x
  all_goals try dsimp only
  all_goals repeat' split
  all_goals first | rfl | (simp_all; done),
    by
  unfold chooseShards; dsimp only; repeat' apply And.intro
  all_goals repeat' split
  all_goals try simp only [modPen_keeps, fetchFirst_keeps, id_eq]
  all_goals repeat' (first
    | refine Eq.trans (forAll_arrays _ _ _ ?_) ?_
    | refine Eq.trans (foldl_arrays _ _ _ ?_) ?_
    | refine Eq.trans (foldlP_arrays _ _ _ ?_) ?_)
  all_goals try intro q x
  all_goals try dsimp only
  all_goals repeat' split
  all_goals first | rfl | (simp_all; done),
    by
  unfold chooseShards; dsimp only; repeat' apply And.intro
  all_goals repeat' split
  all_goals try simp only [modPen_keeps, fetchFirst_keeps, id_eq]
  all_goals repeat' (first
    | refine Eq.trans (forAll_ldr _ _ _ ?_) ?_
    | refine Eq.trans (foldl_ldr _ _ _ ?_) ?_
    | refine Eq.trans (foldlP_ldr _ _ _ ?_) ?_)
  all_goals try intro q x
  all_goals try dsimp only
  all_goals repeat' split
  all_goals first | rfl | (simp_all; done),
    by
  unfold chooseShards; dsimp only; repeat' apply And.intro
  all_goals repeat' split
  all_goals try simp only [modPen_keeps, fetchFirst_keeps, id_eq]
  all_goals repeat' (first
    | refine Eq.trans (forAll_nvw _ _ _ ?_) ?_
    | refine Eq.trans (foldl_nvw _ _ _ ?_) ?_
    | refine Eq.trans (foldlP_nvw _ _ _ ?_) ?_)
  all_goals try intro q x
  all_goals try dsimp only
  all_goals repeat' split
  all_goals first | rfl | (simp_all; done),
    by
  unfold chooseShards; dsimp only; repeat' apply And.intro
  all_goals repeat' split
  all_goals try simp only [modPen_keeps, fetchFirst_keeps, id_eq]
  all_goals repeat' (first
    | refine Eq.trans (forAll_ctxs _ _ _ ?_) ?_
    | refine Eq.trans (foldl_ctxs _ _ _ ?_) ?_
    | refine Eq.trans (foldlP_ctxs _ _ _ ?_) ?_)
  all_goals try intro q x
  all_goals try dsimp only
  all_goals repeat' split
  all_goals first | rfl | (simp_all; done),
    by
  unfold chooseShards; dsimp only; repeat' apply And.intro
  all_goals repeat' split
  all_goals try simp only [modPen_keeps, fetchFirst_keeps, id_eq]
  all_goals repeat' (first
    | refine Eq.trans (forAll_numVfs _ _ _ ?_) ?_
    | refine Eq.trans (foldl_numVfs _ _ _ ?_) ?_
    | refine Eq.trans (foldlP_numVfs _ _ _ ?_) ?_)
  all_goals try intro q x
  all_goals try dsimp only
  all_goals repeat' split
  all_goals first | rfl | (simp_all; done),
    by
  unfold chooseShards; dsimp only; repeat' apply And.intro
  all_goals repeat' split
  all_goals try simp only [modPen_keeps, fetchFirst_keeps, id_eq]
  all_goals repeat' (first
    | refine Eq.trans (forAll_reqs _ _ _ ?_) ?_
    | refine Eq.trans (foldl_reqs _ _ _ ?_) ?_
    | refine Eq.trans (foldlP_reqs _ _ _ ?_) ?_)
  all_goals try intro q x
  all_goals try dsimp only
  all_goals repeat' split
  all_goals first | rfl | (simp_all; done),
    by
  unfold chooseShards; dsimp only; repeat' apply And.intro
  all_goals repeat' split
  all_goals try simp only [modPen_keeps, fetchFirst_keeps, id_eq]
  all_goals repeat' (first
    | refine Eq.trans (forAll_lastGen _ _ _ ?_) ?_
    | refine Eq.trans (foldl_lastGen _ _ _ ?_) ?_
    | refine Eq.trans (foldlP_lastGen _ _ _ ?_) ?_)
  all_goals try intro q x
  all_goals try dsimp only
  all_goals repeat' split
  all_goals first | rfl | (simp_all; done),
    by
  unfold chooseShards; dsimp only; repeat' apply And.intro
  all_goals repeat' split
  all_goals try simp only [modPen_keeps, fetchFirst_keeps, id_eq]
  all_goals repeat' (first
    | refine Eq.trans (forAll_rq _ _ _ ?_) ?_
    | refine Eq.trans (foldl_rq _ _ _ ?_) ?_
    | refine Eq.trans (foldlP_rq _ _ _ ?_) ?_)
  all_goals try intro q x
  all_goals try dsimp only
  all_goals repeat' split
  all_goals first | rfl | (simp_all; done),
    by
  unfold chooseShards; dsimp only; repeat' apply And.intro
  all_goals repeat' split
  all_goals try simp only [modPen_keeps, fetchFirst_keeps, id_eq]
  all_goals repeat' (first
    | refine Eq.trans (forAll_kvp _ _ _ ?_) ?_
    | refine Eq.trans (foldl_kvp _ _ _ ?_) ?_
    | refine Eq.trans (foldlP_kvp _ _ _ ?_) ?_)
  all_goals try intro q x
  all_goals try dsimp only
  all_goals repeat' split
  all_goals first | rfl | (simp_all; done),
    by
  unfold chooseShards; dsimp only; repeat' apply And.intro
  all_goals repeat' split
  all_goals try simp only [modPen_keeps, fetchFirst_keeps, id_eq]
  all_goals repeat' (first
    | refine Eq.trans (forAll_lsh _ _ _ ?_) ?_
    | refine Eq.trans (foldl_lsh _ _ _ ?_) ?_
    | refine Eq.trans (foldlP_lsh _ _ _ ?_) ?_)
  all_goals try intro q x
  all_goals try dsimp only
  all_goals repeat' split
  all_goals first | rfl | (simp_all; done),
    by
  unfold chooseShards; dsimp only; repeat' apply And.intro
  all_goals repeat' split
  all_goals try simp only [modPen_keeps, fetchFirst_keeps, id_eq]
  all_goals repeat' (first
    | refine Eq.trans (forAll_hnd _ _ _ ?_) ?_
    | refine Eq.trans (foldl_hnd _ _ _ ?_) ?_
    | refine Eq.trans (foldlP_hnd _ _ _ ?_) ?_)
  all_goals try intro q x
  all_goals try dsimp only
  all_goals repeat' split
  all_goals first | rfl | (simp_all; done),
    by
  unfold chooseShards; dsimp only; repeat' apply And.intro
  all_goals repeat' split
  all_goals try simp only [modPen_keeps, fetchFirst_keeps, id_eq]
  all_goals repeat' (first
    | refine Eq.trans (forAll_mgt _ _ _ ?_) ?_
    | refine Eq.trans (foldl_mgt _ _ _ ?_) ?_
    | refine Eq.trans (foldlP_mgt _ _ _ ?_) ?_)
  all_goals try intro q x
  all_goals try dsimp only
  all_goals repeat' split
  all_goals first | rfl | (simp_all; done),
    by
  unfold chooseShards; dsimp only; repeat' apply And.intro
  all_goals repeat' split
  all_goals try simp only [modPen_keeps, fetchFirst_keeps, id_eq]
  all_goals repeat' (first
    | refine Eq.trans (forAll_i3c _ _ _ ?_) ?_
    | refine Eq.trans (foldl_i3c _ _ _ ?_) ?_
    | refine Eq.trans (foldlP_i3c _ _ _ ?_) ?_)
  all_goals try intro q x
  all_goals try dsimp only
  all_goals repeat' split
  all_goals first | rfl | (simp_all; done),
    by
  unfold chooseShards; dsimp only; repeat' apply And.intro
  all_goals repeat' split
  all_goals try simp only [modPen_keeps, fetchFirst_keeps, id_eq]
  all_goals repeat' (first
    | refine Eq.trans (forAll_freeCtr _ _ _ ?_) ?_
    | refine Eq.trans (foldl_freeCtr _ _ _ ?_) ?_
    | refine Eq.trans (foldlP_freeCtr _ _ _ ?_) ?_)
  all_goals try intro q x
  all_goals try dsimp only
  all_goals repeat' split
  all_goals first | rfl | (simp_all; done)⟩
@[simp] theorem chooseShards_vital (p : Pkg) (n : ℕ) : (chooseShards p n).1.tick.refclkOk = p.tick.refclkOk ∧ (chooseShards p
    n).1.tick.phaseLocked = p.tick.phaseLocked ∧ (chooseShards p n).1.tick.holdover = p.tick.holdover := by
  unfold chooseShards; dsimp only; repeat' apply And.intro
  all_goals repeat' split
  all_goals try simp only [modPen_keeps, fetchFirst_keeps, id_eq]
  all_goals repeat' (first
    | refine Eq.trans (forAll_tickRefclkOk _ _ _ ?_) ?_
    | refine Eq.trans (forAll_tickPhaseLocked _ _ _ ?_) ?_
    | refine Eq.trans (forAll_tickHoldover _ _ _ ?_) ?_
    | refine Eq.trans (foldl_tickRefclkOk _ _ _ ?_) ?_
    | refine Eq.trans (foldl_tickPhaseLocked _ _ _ ?_) ?_
    | refine Eq.trans (foldl_tickHoldover _ _ _ ?_) ?_
    | refine Eq.trans (foldlP_tickRefclkOk _ _ _ ?_) ?_
    | refine Eq.trans (foldlP_tickPhaseLocked _ _ _ ?_) ?_
    | refine Eq.trans (foldlP_tickHoldover _ _ _ ?_) ?_)
  all_goals try intro q x
  all_goals try dsimp only
  all_goals repeat' split
  all_goals first | rfl | (simp_all; done)
@[simp] theorem freshBuffers_keeps (p : Pkg) (n : Nat) : (freshBuffers p n).pins = p.pins ∧ (freshBuffers p n).tick = p.tick ∧
    (freshBuffers p n).glb = p.glb ∧ (freshBuffers p n).scn = p.scn ∧ (freshBuffers p n).arrays = p.arrays ∧ (freshBuffers p
    n).ldr = p.ldr ∧ (freshBuffers p n).nvw = p.nvw ∧ (freshBuffers p n).ctxs = p.ctxs ∧ (freshBuffers p n).numVfs = p.numVfs
    ∧ (freshBuffers p n).reqs = p.reqs ∧ (freshBuffers p n).lastGen = p.lastGen ∧ (freshBuffers p n).rq = p.rq ∧ (freshBuffers
    p n).kvp = p.kvp ∧ (freshBuffers p n).fab = p.fab ∧ (freshBuffers p n).lsh = p.lsh ∧ (freshBuffers p n).hnd = p.hnd ∧
    (freshBuffers p n).mgt = p.mgt ∧ (freshBuffers p n).i3c = p.i3c ∧ (freshBuffers p n).out = p.out ∧ (freshBuffers p n).pba
    = p.pba := by
  simp [freshBuffers]
@[simp] theorem setupStart_keeps (p : Pkg) (n : Nat) : (setupStart p n).pins = (p).pins ∧ (setupStart p n).tick = (p).tick ∧
    (setupStart p n).glb = (p).glb ∧ (setupStart p n).ldr = (p).ldr ∧ (setupStart p n).nvw = (p).nvw ∧ (setupStart p n).numVfs
    = (p).numVfs ∧ (setupStart p n).lastGen = (p).lastGen ∧ (setupStart p n).rq = (p).rq ∧ (setupStart p n).kvp = (p).kvp ∧
    (setupStart p n).lsh = (p).lsh ∧ (setupStart p n).mgt = (p).mgt ∧ (setupStart p n).i3c = (p).i3c := by
  unfold setupStart
  extract_lets p1 p2
  have h2 : (p2).pins = (p).pins ∧ (p2).tick = (p).tick ∧ (p2).glb = (p).glb ∧ (p2).ldr = (p).ldr ∧ (p2).nvw = (p).nvw ∧ (p2).numVfs = (p).numVfs ∧ (p2).lastGen = (p).lastGen ∧ (p2).rq = (p).rq ∧ (p2).kvp = (p).kvp ∧ (p2).lsh = (p).lsh ∧ (p2).mgt = (p).mgt ∧ (p2).i3c = (p).i3c := by
    simp only [p2, p1]; (repeat' split) <;> simp
  have h3 : ((fillStep p2 n).1).pins = (p2).pins ∧ ((fillStep p2 n).1).tick = (p2).tick ∧ ((fillStep p2 n).1).glb = (p2).glb ∧ ((fillStep p2 n).1).ldr = (p2).ldr ∧ ((fillStep p2 n).1).nvw = (p2).nvw ∧ ((fillStep p2 n).1).numVfs = (p2).numVfs ∧ ((fillStep p2 n).1).lastGen = (p2).lastGen ∧ ((fillStep p2 n).1).rq = (p2).rq ∧ ((fillStep p2 n).1).kvp = (p2).kvp ∧ ((fillStep p2 n).1).lsh = (p2).lsh ∧ ((fillStep p2 n).1).mgt = (p2).mgt ∧ ((fillStep p2 n).1).i3c = (p2).i3c := by simp
  clear_value p2
  generalize fillStep p2 n = r at h3 ⊢
  obtain ⟨p3, f⟩ := r
  dsimp -zeta only at h3 ⊢
  extract_lets starved p3a p3b
  have hs : ∀ q, (starved q).pins = (q).pins ∧ (starved q).tick = (q).tick ∧ (starved q).glb = (q).glb ∧ (starved q).ldr = (q).ldr ∧ (starved q).nvw = (q).nvw ∧ (starved q).numVfs = (q).numVfs ∧ (starved q).lastGen = (q).lastGen ∧ (starved q).rq = (q).rq ∧ (starved q).kvp = (q).kvp ∧ (starved q).lsh = (q).lsh ∧ (starved q).mgt = (q).mgt ∧ (starved q).i3c = (q).i3c := by
    intro q; simp only [starved]; split <;> simp
  have h4 : (p3b).pins = (p).pins ∧ (p3b).tick = (p).tick ∧ (p3b).glb = (p).glb ∧ (p3b).ldr = (p).ldr ∧ (p3b).nvw = (p).nvw ∧ (p3b).numVfs = (p).numVfs ∧ (p3b).lastGen = (p).lastGen ∧ (p3b).rq = (p).rq ∧ (p3b).kvp = (p).kvp ∧ (p3b).lsh = (p).lsh ∧ (p3b).mgt = (p).mgt ∧ (p3b).i3c = (p).i3c := by
    simp [p3b, p3a, h3, h2]
  clear_value starved p3a p3b
  split
  · simp only [hs, h4, and_self]
  · rename_i i p4b o smp t p5 p6 hne
    have h5 : ((chooseShards p3b n).1).pins = (p3b).pins ∧ ((chooseShards p3b n).1).tick = (p3b).tick ∧ ((chooseShards p3b n).1).glb = (p3b).glb ∧ ((chooseShards p3b n).1).ldr = (p3b).ldr ∧ ((chooseShards p3b n).1).nvw = (p3b).nvw ∧ ((chooseShards p3b n).1).numVfs = (p3b).numVfs ∧ ((chooseShards p3b n).1).lastGen = (p3b).lastGen ∧ ((chooseShards p3b n).1).rq = (p3b).rq ∧ ((chooseShards p3b n).1).kvp = (p3b).kvp ∧ ((chooseShards p3b n).1).lsh = (p3b).lsh ∧ ((chooseShards p3b n).1).mgt = (p3b).mgt ∧ ((chooseShards p3b n).1).i3c = (p3b).i3c := by simp
    have h6 : (p6).pins = (p3b).pins ∧ (p6).tick = (p3b).tick ∧ (p6).glb = (p3b).glb ∧ (p6).ldr = (p3b).ldr ∧ (p6).nvw = (p3b).nvw ∧ (p6).numVfs = (p3b).numVfs ∧ (p6).lastGen = (p3b).lastGen ∧ (p6).rq = (p3b).rq ∧ (p6).kvp = (p3b).kvp ∧ (p6).lsh = (p3b).lsh ∧ (p6).mgt = (p3b).mgt ∧ (p6).i3c = (p3b).i3c := by
      simp only [p6, p5]
      clear_value t
      simp [p4b]
    clear_value p6
    simp only [hs, h6, h4, and_self]
@[simp] theorem setupDone_keeps (p : Pkg) (n : Nat) : (setupDone p n).pins = p.pins ∧ (setupDone p n).tick = p.tick ∧
    (setupDone p n).glb = p.glb ∧ (setupDone p n).ldr = p.ldr ∧ (setupDone p n).nvw = p.nvw ∧ (setupDone p n).ctxs = p.ctxs ∧
    (setupDone p n).numVfs = p.numVfs ∧ (setupDone p n).reqs = p.reqs ∧ (setupDone p n).lastGen = p.lastGen ∧ (setupDone p
    n).rq = p.rq ∧ (setupDone p n).kvp = p.kvp ∧ (setupDone p n).hnd = p.hnd ∧ (setupDone p n).mgt = p.mgt ∧ (setupDone p
    n).i3c = p.i3c ∧ (setupDone p n).freeCtr = p.freeCtr := by
  simp [setupDone]
@[simp] theorem stepRelease_keeps (p : Pkg) (n : Nat) : (stepRelease p n).pins = p.pins ∧ (stepRelease p n).tick = p.tick ∧
    (stepRelease p n).glb = p.glb ∧ (stepRelease p n).arrays = p.arrays ∧ (stepRelease p n).ldr = p.ldr ∧ (stepRelease p
    n).nvw = p.nvw ∧ (stepRelease p n).ctxs = p.ctxs ∧ (stepRelease p n).numVfs = p.numVfs ∧ (stepRelease p n).reqs = p.reqs ∧
    (stepRelease p n).lastGen = p.lastGen ∧ (stepRelease p n).rq = p.rq ∧ (stepRelease p n).kvp = p.kvp ∧ (stepRelease p
    n).fab = p.fab ∧ (stepRelease p n).hnd = p.hnd ∧ (stepRelease p n).mgt = p.mgt ∧ (stepRelease p n).i3c = p.i3c ∧
    (stepRelease p n).freeCtr = p.freeCtr := by
  simp [stepRelease]
@[simp] theorem startSeg_keeps (p : Pkg) (a : Nat) : (startSeg p a).pins = p.pins ∧ (startSeg p a).tick = p.tick ∧ (startSeg p
    a).glb = p.glb ∧ (startSeg p a).scn = p.scn ∧ (startSeg p a).ldr = p.ldr ∧ (startSeg p a).pens = p.pens ∧ (startSeg p
    a).nvw = p.nvw ∧ (startSeg p a).ctxs = p.ctxs ∧ (startSeg p a).numVfs = p.numVfs ∧ (startSeg p a).reqs = p.reqs ∧
    (startSeg p a).lastGen = p.lastGen ∧ (startSeg p a).rq = p.rq ∧ (startSeg p a).kvp = p.kvp ∧ (startSeg p a).fab = p.fab ∧
    (startSeg p a).lsh = p.lsh ∧ (startSeg p a).hnd = p.hnd ∧ (startSeg p a).mgt = p.mgt ∧ (startSeg p a).i3c = p.i3c ∧
    (startSeg p a).out = p.out ∧ (startSeg p a).pba = p.pba ∧ (startSeg p a).freeCtr = p.freeCtr := by
  simp [startSeg]
@[simp] theorem switchSeg_keeps (p : Pkg) (a : Nat) : (switchSeg p a).pins = p.pins ∧ (switchSeg p a).tick = p.tick ∧
    (switchSeg p a).glb = p.glb ∧ (switchSeg p a).scn = p.scn ∧ (switchSeg p a).ldr = p.ldr ∧ (switchSeg p a).pens = p.pens ∧
    (switchSeg p a).nvw = p.nvw ∧ (switchSeg p a).ctxs = p.ctxs ∧ (switchSeg p a).numVfs = p.numVfs ∧ (switchSeg p a).reqs =
    p.reqs ∧ (switchSeg p a).lastGen = p.lastGen ∧ (switchSeg p a).rq = p.rq ∧ (switchSeg p a).kvp = p.kvp ∧ (switchSeg p
    a).fab = p.fab ∧ (switchSeg p a).lsh = p.lsh ∧ (switchSeg p a).hnd = p.hnd ∧ (switchSeg p a).mgt = p.mgt ∧ (switchSeg p
    a).i3c = p.i3c ∧ (switchSeg p a).out = p.out ∧ (switchSeg p a).pba = p.pba ∧ (switchSeg p a).freeCtr = p.freeCtr := by
  simp [switchSeg]
@[simp] theorem completeGen_keeps (p : Pkg) (n b : Nat) : (completeGen p n b).pins = p.pins ∧ (completeGen p n b).tick =
    p.tick ∧ (completeGen p n b).glb = p.glb ∧ (completeGen p n b).ldr = p.ldr ∧ (completeGen p n b).nvw = p.nvw ∧
    (completeGen p n b).ctxs = p.ctxs ∧ (completeGen p n b).numVfs = p.numVfs ∧ (completeGen p n b).reqs = p.reqs ∧
    (completeGen p n b).lastGen = p.lastGen ∧ (completeGen p n b).rq = p.rq ∧ (completeGen p n b).kvp = p.kvp ∧ (completeGen p
    n b).fab = p.fab ∧ (completeGen p n b).hnd = p.hnd ∧ (completeGen p n b).mgt = p.mgt ∧ (completeGen p n b).i3c = p.i3c ∧
    (completeGen p n b).freeCtr = p.freeCtr := by
  simp [completeGen]
@[simp] theorem completeGen_vital (p : Pkg) (n : ℕ) (b : ℕ) : (completeGen p n b).tick.refclkOk = p.tick.refclkOk ∧
    (completeGen p n b).tick.phaseLocked = p.tick.phaseLocked ∧ (completeGen p n b).tick.holdover = p.tick.holdover := by
  simp [completeGen]
@[simp] theorem syncOp_keeps (p : Pkg) (a : Nat) (arr wait : Bool) : (syncOp p a arr wait).pins = p.pins ∧ (syncOp p a arr
    wait).tick = p.tick ∧ (syncOp p a arr wait).glb = p.glb ∧ (syncOp p a arr wait).ldr = p.ldr ∧ (syncOp p a arr wait).nvw =
    p.nvw ∧ (syncOp p a arr wait).ctxs = p.ctxs ∧ (syncOp p a arr wait).numVfs = p.numVfs ∧ (syncOp p a arr wait).reqs =
    p.reqs ∧ (syncOp p a arr wait).lastGen = p.lastGen ∧ (syncOp p a arr wait).rq = p.rq ∧ (syncOp p a arr wait).kvp = p.kvp ∧
    (syncOp p a arr wait).fab = p.fab ∧ (syncOp p a arr wait).hnd = p.hnd ∧ (syncOp p a arr wait).mgt = p.mgt ∧ (syncOp p a
    arr wait).i3c = p.i3c ∧ (syncOp p a arr wait).freeCtr = p.freeCtr := by
  simp [syncOp]
@[simp] theorem layerEndOp_keeps (p : Pkg) (a : Nat) : (layerEndOp p a).pins = p.pins ∧ (layerEndOp p a).tick = p.tick ∧
    (layerEndOp p a).glb = p.glb ∧ (layerEndOp p a).scn = p.scn ∧ (layerEndOp p a).ldr = p.ldr ∧ (layerEndOp p a).pens =
    p.pens ∧ (layerEndOp p a).nvw = p.nvw ∧ (layerEndOp p a).ctxs = p.ctxs ∧ (layerEndOp p a).numVfs = p.numVfs ∧ (layerEndOp
    p a).reqs = p.reqs ∧ (layerEndOp p a).lastGen = p.lastGen ∧ (layerEndOp p a).rq = p.rq ∧ (layerEndOp p a).kvp = p.kvp ∧
    (layerEndOp p a).fab = p.fab ∧ (layerEndOp p a).lsh = p.lsh ∧ (layerEndOp p a).hnd = p.hnd ∧ (layerEndOp p a).mgt = p.mgt
    ∧ (layerEndOp p a).i3c = p.i3c ∧ (layerEndOp p a).out = p.out ∧ (layerEndOp p a).pba = p.pba ∧ (layerEndOp p a).freeCtr =
    p.freeCtr := by
  simp [layerEndOp]
@[simp] theorem endOp_keeps (p : Pkg) (a : Nat) : (endOp p a).pins = p.pins ∧ (endOp p a).tick = p.tick ∧ (endOp p a).glb =
    p.glb ∧ (endOp p a).ldr = p.ldr ∧ (endOp p a).nvw = p.nvw ∧ (endOp p a).numVfs = p.numVfs ∧ (endOp p a).reqs = p.reqs ∧
    (endOp p a).lastGen = p.lastGen ∧ (endOp p a).rq = p.rq ∧ (endOp p a).kvp = p.kvp ∧ (endOp p a).mgt = p.mgt ∧ (endOp p
    a).i3c = p.i3c ∧ (endOp p a).freeCtr = p.freeCtr := by
  simp [endOp]
@[simp] theorem endOp_vital (p : Pkg) (a : ℕ) : (endOp p a).glb.ready = p.glb.ready ∧ (endOp p a).glb.selfTestDone =
    p.glb.selfTestDone ∧ (endOp p a).glb.fwFault = p.glb.fwFault := by
  simp [endOp]
@[simp] theorem scoreOp_keeps (p : Pkg) (a : Nat) : (scoreOp p a).pins = p.pins ∧ (scoreOp p a).tick = p.tick ∧ (scoreOp p
    a).glb = p.glb ∧ (scoreOp p a).scn = p.scn ∧ (scoreOp p a).ldr = p.ldr ∧ (scoreOp p a).pens = p.pens ∧ (scoreOp p a).nvw =
    p.nvw ∧ (scoreOp p a).ctxs = p.ctxs ∧ (scoreOp p a).numVfs = p.numVfs ∧ (scoreOp p a).reqs = p.reqs ∧ (scoreOp p
    a).lastGen = p.lastGen ∧ (scoreOp p a).rq = p.rq ∧ (scoreOp p a).kvp = p.kvp ∧ (scoreOp p a).fab = p.fab ∧ (scoreOp p
    a).lsh = p.lsh ∧ (scoreOp p a).hnd = p.hnd ∧ (scoreOp p a).mgt = p.mgt ∧ (scoreOp p a).i3c = p.i3c ∧ (scoreOp p a).out =
    p.out ∧ (scoreOp p a).pba = p.pba ∧ (scoreOp p a).freeCtr = p.freeCtr := by
  simp [scoreOp]
@[simp] theorem logLayer_keeps (p : Pkg) (n layer code : Nat) (s : Summary) : (logLayer p n layer code s).pins = p.pins ∧
    (logLayer p n layer code s).tick = p.tick ∧ (logLayer p n layer code s).glb = p.glb ∧ (logLayer p n layer code s).arrays =
    p.arrays ∧ (logLayer p n layer code s).ldr = p.ldr ∧ (logLayer p n layer code s).nvw = p.nvw ∧ (logLayer p n layer code
    s).ctxs = p.ctxs ∧ (logLayer p n layer code s).numVfs = p.numVfs ∧ (logLayer p n layer code s).reqs = p.reqs ∧ (logLayer p
    n layer code s).lastGen = p.lastGen ∧ (logLayer p n layer code s).rq = p.rq ∧ (logLayer p n layer code s).kvp = p.kvp ∧
    (logLayer p n layer code s).fab = p.fab ∧ (logLayer p n layer code s).hnd = p.hnd ∧ (logLayer p n layer code s).mgt =
    p.mgt ∧ (logLayer p n layer code s).i3c = p.i3c ∧ (logLayer p n layer code s).freeCtr = p.freeCtr := by
  simp [logLayer]
@[simp] theorem releaseLayer_keeps (p : Pkg) (n layer : Nat) : (releaseLayer p n layer).pins = p.pins ∧ (releaseLayer p n
    layer).tick = p.tick ∧ (releaseLayer p n layer).glb = p.glb ∧ (releaseLayer p n layer).ldr = p.ldr ∧ (releaseLayer p n
    layer).nvw = p.nvw ∧ (releaseLayer p n layer).ctxs = p.ctxs ∧ (releaseLayer p n layer).numVfs = p.numVfs ∧ (releaseLayer p
    n layer).reqs = p.reqs ∧ (releaseLayer p n layer).lastGen = p.lastGen ∧ (releaseLayer p n layer).rq = p.rq ∧ (releaseLayer
    p n layer).kvp = p.kvp ∧ (releaseLayer p n layer).hnd = p.hnd ∧ (releaseLayer p n layer).mgt = p.mgt ∧ (releaseLayer p n
    layer).i3c = p.i3c ∧ (releaseLayer p n layer).freeCtr = p.freeCtr := by
  simp [releaseLayer]
@[simp] theorem replayLayer_keeps (p : Pkg) (n layer kind : Nat) : (replayLayer p n layer kind).pins = p.pins ∧ (replayLayer p
    n layer kind).tick = p.tick ∧ (replayLayer p n layer kind).glb = p.glb ∧ (replayLayer p n layer kind).ldr = p.ldr ∧
    (replayLayer p n layer kind).nvw = p.nvw ∧ (replayLayer p n layer kind).ctxs = p.ctxs ∧ (replayLayer p n layer
    kind).numVfs = p.numVfs ∧ (replayLayer p n layer kind).reqs = p.reqs ∧ (replayLayer p n layer kind).lastGen = p.lastGen ∧
    (replayLayer p n layer kind).rq = p.rq ∧ (replayLayer p n layer kind).kvp = p.kvp ∧ (replayLayer p n layer kind).fab =
    p.fab ∧ (replayLayer p n layer kind).hnd = p.hnd ∧ (replayLayer p n layer kind).mgt = p.mgt ∧ (replayLayer p n layer
    kind).i3c = p.i3c ∧ (replayLayer p n layer kind).freeCtr = p.freeCtr := by
  simp [replayLayer]
@[simp] theorem rescale_keeps (p : Pkg) (n layer : Nat) (r : LRec) (s : Summary) : (rescale p n layer r s).pins = p.pins ∧
    (rescale p n layer r s).tick = p.tick ∧ (rescale p n layer r s).glb = p.glb ∧ (rescale p n layer r s).ldr = p.ldr ∧
    (rescale p n layer r s).nvw = p.nvw ∧ (rescale p n layer r s).ctxs = p.ctxs ∧ (rescale p n layer r s).numVfs = p.numVfs ∧
    (rescale p n layer r s).reqs = p.reqs ∧ (rescale p n layer r s).lastGen = p.lastGen ∧ (rescale p n layer r s).rq = p.rq ∧
    (rescale p n layer r s).kvp = p.kvp ∧ (rescale p n layer r s).fab = p.fab ∧ (rescale p n layer r s).hnd = p.hnd ∧ (rescale
    p n layer r s).mgt = p.mgt ∧ (rescale p n layer r s).i3c = p.i3c ∧ (rescale p n layer r s).freeCtr = p.freeCtr := by
  simp [rescale]
@[simp] theorem widenLayer_keeps (p : Pkg) (n layer : Nat) (s : Summary) : (widenLayer p n layer s).pins = p.pins ∧
    (widenLayer p n layer s).tick = p.tick ∧ (widenLayer p n layer s).glb = p.glb ∧ (widenLayer p n layer s).ldr = p.ldr ∧
    (widenLayer p n layer s).nvw = p.nvw ∧ (widenLayer p n layer s).ctxs = p.ctxs ∧ (widenLayer p n layer s).numVfs = p.numVfs
    ∧ (widenLayer p n layer s).reqs = p.reqs ∧ (widenLayer p n layer s).lastGen = p.lastGen ∧ (widenLayer p n layer s).rq =
    p.rq ∧ (widenLayer p n layer s).kvp = p.kvp ∧ (widenLayer p n layer s).fab = p.fab ∧ (widenLayer p n layer s).hnd = p.hnd
    ∧ (widenLayer p n layer s).mgt = p.mgt ∧ (widenLayer p n layer s).i3c = p.i3c := by
  simp [widenLayer]
@[simp] theorem layerDoneOp_keeps (p : Pkg) (n layer : Nat) : (layerDoneOp p n layer).pins = p.pins ∧ (layerDoneOp p n
    layer).tick = p.tick ∧ (layerDoneOp p n layer).glb = p.glb ∧ (layerDoneOp p n layer).ldr = p.ldr ∧ (layerDoneOp p n
    layer).nvw = p.nvw ∧ (layerDoneOp p n layer).ctxs = p.ctxs ∧ (layerDoneOp p n layer).numVfs = p.numVfs ∧ (layerDoneOp p n
    layer).reqs = p.reqs ∧ (layerDoneOp p n layer).lastGen = p.lastGen ∧ (layerDoneOp p n layer).rq = p.rq ∧ (layerDoneOp p n
    layer).kvp = p.kvp ∧ (layerDoneOp p n layer).hnd = p.hnd ∧ (layerDoneOp p n layer).mgt = p.mgt ∧ (layerDoneOp p n
    layer).i3c = p.i3c := by
  simp [layerDoneOp]
@[simp] theorem retireKv_keeps (p : Pkg) (t : Step) (e : Nat) : (retireKv p t e).pins = p.pins ∧ (retireKv p t e).tick =
    p.tick ∧ (retireKv p t e).glb = p.glb ∧ (retireKv p t e).scn = p.scn ∧ (retireKv p t e).arrays = p.arrays ∧ (retireKv p t
    e).ldr = p.ldr ∧ (retireKv p t e).nvw = p.nvw ∧ (retireKv p t e).ctxs = p.ctxs ∧ (retireKv p t e).numVfs = p.numVfs ∧
    (retireKv p t e).lastGen = p.lastGen ∧ (retireKv p t e).rq = p.rq ∧ (retireKv p t e).kvp = p.kvp ∧ (retireKv p t e).fab =
    p.fab ∧ (retireKv p t e).lsh = p.lsh ∧ (retireKv p t e).hnd = p.hnd ∧ (retireKv p t e).mgt = p.mgt ∧ (retireKv p t e).i3c
    = p.i3c ∧ (retireKv p t e).out = p.out ∧ (retireKv p t e).pba = p.pba ∧ (retireKv p t e).freeCtr = p.freeCtr := by
  simp [retireKv]
@[simp] theorem retireKv_vital (p : Pkg) (t : Step) (e : ℕ) : (retireKv p t e).tick.refclkOk = p.tick.refclkOk ∧ (retireKv p t
    e).tick.phaseLocked = p.tick.phaseLocked ∧ (retireKv p t e).tick.holdover = p.tick.holdover := by
  simp [retireKv]
@[simp] theorem turnEnd_keeps (p : Pkg) (e : Nat) : (turnEnd p e).pins = p.pins ∧ (turnEnd p e).tick = p.tick ∧ (turnEnd p
    e).glb = p.glb ∧ (turnEnd p e).arrays = p.arrays ∧ (turnEnd p e).ldr = p.ldr ∧ (turnEnd p e).nvw = p.nvw ∧ (turnEnd p
    e).numVfs = p.numVfs ∧ (turnEnd p e).lastGen = p.lastGen ∧ (turnEnd p e).kvp = p.kvp ∧ (turnEnd p e).mgt = p.mgt ∧
    (turnEnd p e).i3c = p.i3c := by
  simp [turnEnd]
@[simp] theorem deliver_keeps (p : Pkg) (e : Nat) (s : Selection) : (deliver p e s).pins = p.pins ∧ (deliver p e s).tick =
    p.tick ∧ (deliver p e s).glb = p.glb ∧ (deliver p e s).arrays = p.arrays ∧ (deliver p e s).ldr = p.ldr ∧ (deliver p e
    s).nvw = p.nvw ∧ (deliver p e s).numVfs = p.numVfs ∧ (deliver p e s).lastGen = p.lastGen ∧ (deliver p e s).kvp = p.kvp ∧
    (deliver p e s).mgt = p.mgt ∧ (deliver p e s).i3c = p.i3c := by
  simp [deliver]
@[simp] theorem deliver_vital (p : Pkg) (e : ℕ) (s : Selection) : (deliver p e s).tick.refclkOk = p.tick.refclkOk ∧ (deliver p
    e s).tick.phaseLocked = p.tick.phaseLocked ∧ (deliver p e s).tick.holdover = p.tick.holdover := by
  simp [deliver]
@[simp] theorem retireOne_keeps (p : Pkg) (t : Step) (e : Nat) : (retireOne p t e).pins = p.pins ∧ (retireOne p t e).tick =
    p.tick ∧ (retireOne p t e).glb = p.glb ∧ (retireOne p t e).arrays = p.arrays ∧ (retireOne p t e).ldr = p.ldr ∧ (retireOne
    p t e).nvw = p.nvw ∧ (retireOne p t e).numVfs = p.numVfs ∧ (retireOne p t e).lastGen = p.lastGen ∧ (retireOne p t e).kvp =
    p.kvp ∧ (retireOne p t e).mgt = p.mgt ∧ (retireOne p t e).i3c = p.i3c := by
  unfold retireOne; dsimp only; (repeat' split) <;> (simp_all; done)
@[simp] theorem retireOne_vital (p : Pkg) (t : Step) (e : ℕ) : (retireOne p t e).tick.refclkOk = p.tick.refclkOk ∧ (retireOne
    p t e).tick.phaseLocked = p.tick.phaseLocked ∧ (retireOne p t e).tick.holdover = p.tick.holdover := by
  unfold retireOne; dsimp only; (repeat' split) <;> (simp_all; done)
@[simp] theorem stepDoneOp_keeps (p : Pkg) (n : Nat) : (stepDoneOp p n).pins = p.pins ∧ (stepDoneOp p n).tick = p.tick ∧
    (stepDoneOp p n).glb = p.glb ∧ (stepDoneOp p n).ldr = p.ldr ∧ (stepDoneOp p n).numVfs = p.numVfs ∧ (stepDoneOp p
    n).lastGen = p.lastGen ∧ (stepDoneOp p n).kvp = p.kvp ∧ (stepDoneOp p n).mgt = p.mgt ∧ (stepDoneOp p n).i3c = p.i3c := by
  simp [stepDoneOp]
@[simp] theorem issueDescRead_keeps (p : Pkg) (c : Nat) : (issueDescRead p c).pins = p.pins ∧ (issueDescRead p c).tick =
    p.tick ∧ (issueDescRead p c).glb = p.glb ∧ (issueDescRead p c).scn = p.scn ∧ (issueDescRead p c).arrays = p.arrays ∧
    (issueDescRead p c).ldr = p.ldr ∧ (issueDescRead p c).pens = p.pens ∧ (issueDescRead p c).nvw = p.nvw ∧ (issueDescRead p
    c).numVfs = p.numVfs ∧ (issueDescRead p c).reqs = p.reqs ∧ (issueDescRead p c).lastGen = p.lastGen ∧ (issueDescRead p
    c).rq = p.rq ∧ (issueDescRead p c).kvp = p.kvp ∧ (issueDescRead p c).fab = p.fab ∧ (issueDescRead p c).lsh = p.lsh ∧
    (issueDescRead p c).hnd = p.hnd ∧ (issueDescRead p c).mgt = p.mgt ∧ (issueDescRead p c).i3c = p.i3c ∧ (issueDescRead p
    c).freeCtr = p.freeCtr := by
  simp [issueDescRead]
@[simp] theorem issueDescRead_vital (p : Pkg) (c : ℕ) : (issueDescRead p c).tick.refclkOk = p.tick.refclkOk ∧ (issueDescRead p
    c).tick.phaseLocked = p.tick.phaseLocked ∧ (issueDescRead p c).tick.holdover = p.tick.holdover := by
  simp [issueDescRead]
@[simp] theorem takeDesc_keeps (p : Pkg) (c i : Nat) (b : Bytes) : (takeDesc p c i b).pins = p.pins ∧ (takeDesc p c i b).tick
    = p.tick ∧ (takeDesc p c i b).glb = p.glb ∧ (takeDesc p c i b).scn = p.scn ∧ (takeDesc p c i b).arrays = p.arrays ∧
    (takeDesc p c i b).ldr = p.ldr ∧ (takeDesc p c i b).pens = p.pens ∧ (takeDesc p c i b).nvw = p.nvw ∧ (takeDesc p c i
    b).numVfs = p.numVfs ∧ (takeDesc p c i b).reqs = p.reqs ∧ (takeDesc p c i b).lastGen = p.lastGen ∧ (takeDesc p c i b).rq =
    p.rq ∧ (takeDesc p c i b).kvp = p.kvp ∧ (takeDesc p c i b).fab = p.fab ∧ (takeDesc p c i b).lsh = p.lsh ∧ (takeDesc p c i
    b).hnd = p.hnd ∧ (takeDesc p c i b).mgt = p.mgt ∧ (takeDesc p c i b).i3c = p.i3c ∧ (takeDesc p c i b).out = p.out ∧
    (takeDesc p c i b).pba = p.pba ∧ (takeDesc p c i b).freeCtr = p.freeCtr := by
  simp [takeDesc]
@[simp] theorem takeList_keeps (p : Pkg) (c : Nat) (z0 : List (Nat × Bytes)) : (takeList p c z0).pins = p.pins ∧ (takeList p c
    z0).tick = p.tick ∧ (takeList p c z0).glb = p.glb ∧ (takeList p c z0).arrays = p.arrays ∧ (takeList p c z0).ldr = p.ldr ∧
    (takeList p c z0).pens = p.pens ∧ (takeList p c z0).nvw = p.nvw ∧ (takeList p c z0).numVfs = p.numVfs ∧ (takeList p c
    z0).reqs = p.reqs ∧ (takeList p c z0).lastGen = p.lastGen ∧ (takeList p c z0).rq = p.rq ∧ (takeList p c z0).kvp = p.kvp ∧
    (takeList p c z0).fab = p.fab ∧ (takeList p c z0).lsh = p.lsh ∧ (takeList p c z0).hnd = p.hnd ∧ (takeList p c z0).mgt =
    p.mgt ∧ (takeList p c z0).i3c = p.i3c ∧ (takeList p c z0).freeCtr = p.freeCtr := by
  fun_induction takeList p c z0 <;> (simp_all; done)
@[simp] theorem judgeStall_keeps (p : Pkg) (c : Nat) : (judgeStall p c).pins = p.pins ∧ (judgeStall p c).tick = p.tick ∧
    (judgeStall p c).glb = p.glb ∧ (judgeStall p c).scn = p.scn ∧ (judgeStall p c).arrays = p.arrays ∧ (judgeStall p c).ldr =
    p.ldr ∧ (judgeStall p c).pens = p.pens ∧ (judgeStall p c).nvw = p.nvw ∧ (judgeStall p c).numVfs = p.numVfs ∧ (judgeStall p
    c).reqs = p.reqs ∧ (judgeStall p c).lastGen = p.lastGen ∧ (judgeStall p c).rq = p.rq ∧ (judgeStall p c).kvp = p.kvp ∧
    (judgeStall p c).fab = p.fab ∧ (judgeStall p c).lsh = p.lsh ∧ (judgeStall p c).hnd = p.hnd ∧ (judgeStall p c).mgt = p.mgt
    ∧ (judgeStall p c).i3c = p.i3c ∧ (judgeStall p c).out = p.out ∧ (judgeStall p c).pba = p.pba ∧ (judgeStall p c).freeCtr =
    p.freeCtr := by
  simp [judgeStall]
@[simp] theorem imprintRefuse_keeps (p : Pkg) (c slot0 : Nat) (d : Desc) (status : Nat) : (imprintRefuse p c slot0 d
    status).pins = p.pins ∧ (imprintRefuse p c slot0 d status).tick = p.tick ∧ (imprintRefuse p c slot0 d status).glb = p.glb
    ∧ (imprintRefuse p c slot0 d status).arrays = p.arrays ∧ (imprintRefuse p c slot0 d status).ldr = p.ldr ∧ (imprintRefuse p
    c slot0 d status).pens = p.pens ∧ (imprintRefuse p c slot0 d status).nvw = p.nvw ∧ (imprintRefuse p c slot0 d
    status).numVfs = p.numVfs ∧ (imprintRefuse p c slot0 d status).reqs = p.reqs ∧ (imprintRefuse p c slot0 d status).lastGen
    = p.lastGen ∧ (imprintRefuse p c slot0 d status).rq = p.rq ∧ (imprintRefuse p c slot0 d status).kvp = p.kvp ∧
    (imprintRefuse p c slot0 d status).lsh = p.lsh ∧ (imprintRefuse p c slot0 d status).mgt = p.mgt ∧ (imprintRefuse p c slot0
    d status).i3c = p.i3c := by
  simp [imprintRefuse]
@[simp] theorem answerOdd_keeps (p : Pkg) (c : Nat) (d : Desc) : (answerOdd p c d).pins = p.pins ∧ (answerOdd p c d).tick =
    p.tick ∧ (answerOdd p c d).glb = p.glb ∧ (answerOdd p c d).arrays = p.arrays ∧ (answerOdd p c d).ldr = p.ldr ∧ (answerOdd
    p c d).pens = p.pens ∧ (answerOdd p c d).nvw = p.nvw ∧ (answerOdd p c d).numVfs = p.numVfs ∧ (answerOdd p c d).reqs =
    p.reqs ∧ (answerOdd p c d).lastGen = p.lastGen ∧ (answerOdd p c d).rq = p.rq ∧ (answerOdd p c d).kvp = p.kvp ∧ (answerOdd
    p c d).lsh = p.lsh ∧ (answerOdd p c d).mgt = p.mgt ∧ (answerOdd p c d).i3c = p.i3c := by
  simp [answerOdd]
@[simp] theorem answerOdd_vital (p : Pkg) (c : ℕ) (d : Desc) : (answerOdd p c d).tick.refclkOk = p.tick.refclkOk ∧ (answerOdd
    p c d).tick.phaseLocked = p.tick.phaseLocked ∧ (answerOdd p c d).tick.holdover = p.tick.holdover := by
  simp [answerOdd]
@[simp] theorem flushOdd_keeps (p : Pkg) (s : Src) (z0 : Nat) : (flushOdd p s z0).pins = p.pins ∧ (flushOdd p s z0).tick =
    p.tick ∧ (flushOdd p s z0).glb = p.glb ∧ (flushOdd p s z0).arrays = p.arrays ∧ (flushOdd p s z0).ldr = p.ldr ∧ (flushOdd p
    s z0).pens = p.pens ∧ (flushOdd p s z0).nvw = p.nvw ∧ (flushOdd p s z0).numVfs = p.numVfs ∧ (flushOdd p s z0).reqs =
    p.reqs ∧ (flushOdd p s z0).lastGen = p.lastGen ∧ (flushOdd p s z0).rq = p.rq ∧ (flushOdd p s z0).kvp = p.kvp ∧ (flushOdd p
    s z0).lsh = p.lsh ∧ (flushOdd p s z0).mgt = p.mgt ∧ (flushOdd p s z0).i3c = p.i3c := by
  fun_induction flushOdd p s z0 <;> (simp_all; done)
@[simp] theorem flushOdd_vital (p : Pkg) (s : Src) (z0 : ℕ) : (flushOdd p s z0).tick.refclkOk = p.tick.refclkOk ∧ (flushOdd p
    s z0).tick.phaseLocked = p.tick.phaseLocked ∧ (flushOdd p s z0).tick.holdover = p.tick.holdover := by
  simp [flushOdd]
@[simp] theorem pumpRing_keeps (p : Pkg) (c : Nat) : (pumpRing p c).pins = p.pins ∧ (pumpRing p c).tick = p.tick ∧ (pumpRing p
    c).glb = p.glb ∧ (pumpRing p c).arrays = p.arrays ∧ (pumpRing p c).ldr = p.ldr ∧ (pumpRing p c).pens = p.pens ∧ (pumpRing
    p c).nvw = p.nvw ∧ (pumpRing p c).numVfs = p.numVfs ∧ (pumpRing p c).reqs = p.reqs ∧ (pumpRing p c).lastGen = p.lastGen ∧
    (pumpRing p c).rq = p.rq ∧ (pumpRing p c).kvp = p.kvp ∧ (pumpRing p c).lsh = p.lsh ∧ (pumpRing p c).mgt = p.mgt ∧
    (pumpRing p c).i3c = p.i3c ∧ (pumpRing p c).freeCtr = p.freeCtr := by
  simp [pumpRing]
@[simp] theorem beginDesc_keeps (p : Pkg) (c : Nat) (d : Desc) (f : Desc → Desc) : (beginDesc p c d f).pins = p.pins ∧
    (beginDesc p c d f).tick = p.tick ∧ (beginDesc p c d f).glb = p.glb ∧ (beginDesc p c d f).scn = p.scn ∧ (beginDesc p c d
    f).arrays = p.arrays ∧ (beginDesc p c d f).ldr = p.ldr ∧ (beginDesc p c d f).pens = p.pens ∧ (beginDesc p c d f).nvw =
    p.nvw ∧ (beginDesc p c d f).numVfs = p.numVfs ∧ (beginDesc p c d f).reqs = p.reqs ∧ (beginDesc p c d f).lastGen =
    p.lastGen ∧ (beginDesc p c d f).rq = p.rq ∧ (beginDesc p c d f).kvp = p.kvp ∧ (beginDesc p c d f).fab = p.fab ∧ (beginDesc
    p c d f).lsh = p.lsh ∧ (beginDesc p c d f).mgt = p.mgt ∧ (beginDesc p c d f).i3c = p.i3c ∧ (beginDesc p c d f).out = p.out
    ∧ (beginDesc p c d f).pba = p.pba ∧ (beginDesc p c d f).freeCtr = p.freeCtr := by
  simp [beginDesc]
@[simp] theorem evalDesc_pins (p : Pkg) (s : Src) (type : Nat) (f : Pkg → Nat → Desc → Pkg) (h_f : ∀ w0 w1 w2, (f w0 w1 w2).pins
    = w0.pins): (evalDesc p s type f).pins = p.pins := by
  unfold evalDesc; (repeat' split) <;> (simp_all; done)
@[simp] theorem evalDesc_tick (p : Pkg) (s : Src) (type : Nat) (f : Pkg → Nat → Desc → Pkg) (h_f : ∀ w0 w1 w2, (f w0 w1 w2).tick
    = w0.tick): (evalDesc p s type f).tick = p.tick := by
  unfold evalDesc; (repeat' split) <;> (simp_all; done)
@[simp] theorem evalDesc_glb (p : Pkg) (s : Src) (type : Nat) (f : Pkg → Nat → Desc → Pkg) (h_f : ∀ w0 w1 w2, (f w0 w1 w2).glb =
    w0.glb): (evalDesc p s type f).glb = p.glb := by
  unfold evalDesc; (repeat' split) <;> (simp_all; done)
@[simp] theorem evalDesc_arrays (p : Pkg) (s : Src) (type : Nat) (f : Pkg → Nat → Desc → Pkg) (h_f : ∀ w0 w1 w2, (f w0 w1
    w2).arrays = w0.arrays): (evalDesc p s type f).arrays = p.arrays := by
  unfold evalDesc; (repeat' split) <;> (simp_all; done)
@[simp] theorem evalDesc_ldr (p : Pkg) (s : Src) (type : Nat) (f : Pkg → Nat → Desc → Pkg) (h_f : ∀ w0 w1 w2, (f w0 w1 w2).ldr =
    w0.ldr): (evalDesc p s type f).ldr = p.ldr := by
  unfold evalDesc; (repeat' split) <;> (simp_all; done)
@[simp] theorem evalDesc_pens (p : Pkg) (s : Src) (type : Nat) (f : Pkg → Nat → Desc → Pkg) (h_f : ∀ w0 w1 w2, (f w0 w1 w2).pens
    = w0.pens): (evalDesc p s type f).pens = p.pens := by
  unfold evalDesc; (repeat' split) <;> (simp_all; done)
@[simp] theorem evalDesc_nvw (p : Pkg) (s : Src) (type : Nat) (f : Pkg → Nat → Desc → Pkg) (h_f : ∀ w0 w1 w2, (f w0 w1 w2).nvw =
    w0.nvw): (evalDesc p s type f).nvw = p.nvw := by
  unfold evalDesc; (repeat' split) <;> (simp_all; done)
@[simp] theorem evalDesc_numVfs (p : Pkg) (s : Src) (type : Nat) (f : Pkg → Nat → Desc → Pkg) (h_f : ∀ w0 w1 w2, (f w0 w1
    w2).numVfs = w0.numVfs): (evalDesc p s type f).numVfs = p.numVfs := by
  unfold evalDesc; (repeat' split) <;> (simp_all; done)
@[simp] theorem evalDesc_reqs (p : Pkg) (s : Src) (type : Nat) (f : Pkg → Nat → Desc → Pkg) (h_f : ∀ w0 w1 w2, (f w0 w1 w2).reqs
    = w0.reqs): (evalDesc p s type f).reqs = p.reqs := by
  unfold evalDesc; (repeat' split) <;> (simp_all; done)
@[simp] theorem evalDesc_lastGen (p : Pkg) (s : Src) (type : Nat) (f : Pkg → Nat → Desc → Pkg) (h_f : ∀ w0 w1 w2, (f w0 w1
    w2).lastGen = w0.lastGen): (evalDesc p s type f).lastGen = p.lastGen := by
  unfold evalDesc; (repeat' split) <;> (simp_all; done)
@[simp] theorem evalDesc_rq (p : Pkg) (s : Src) (type : Nat) (f : Pkg → Nat → Desc → Pkg) (h_f : ∀ w0 w1 w2, (f w0 w1 w2).rq =
    w0.rq): (evalDesc p s type f).rq = p.rq := by
  unfold evalDesc; (repeat' split) <;> (simp_all; done)
@[simp] theorem evalDesc_kvp (p : Pkg) (s : Src) (type : Nat) (f : Pkg → Nat → Desc → Pkg) (h_f : ∀ w0 w1 w2, (f w0 w1 w2).kvp =
    w0.kvp): (evalDesc p s type f).kvp = p.kvp := by
  unfold evalDesc; (repeat' split) <;> (simp_all; done)
@[simp] theorem evalDesc_lsh (p : Pkg) (s : Src) (type : Nat) (f : Pkg → Nat → Desc → Pkg) (h_f : ∀ w0 w1 w2, (f w0 w1 w2).lsh =
    w0.lsh): (evalDesc p s type f).lsh = p.lsh := by
  unfold evalDesc; (repeat' split) <;> (simp_all; done)
@[simp] theorem evalDesc_mgt (p : Pkg) (s : Src) (type : Nat) (f : Pkg → Nat → Desc → Pkg) (h_f : ∀ w0 w1 w2, (f w0 w1 w2).mgt =
    w0.mgt): (evalDesc p s type f).mgt = p.mgt := by
  unfold evalDesc; (repeat' split) <;> (simp_all; done)
@[simp] theorem evalDesc_i3c (p : Pkg) (s : Src) (type : Nat) (f : Pkg → Nat → Desc → Pkg) (h_f : ∀ w0 w1 w2, (f w0 w1 w2).i3c =
    w0.i3c): (evalDesc p s type f).i3c = p.i3c := by
  unfold evalDesc; (repeat' split) <;> (simp_all; done)
@[simp] theorem evalDesc_tickRefclkOk (p : Pkg) (s : Src) (type : Nat) (f : Pkg → Nat → Desc → Pkg) (h_f : ∀ w0 w1 w2, (f w0 w1
    w2).tick.refclkOk = w0.tick.refclkOk): (evalDesc p s type f).tick.refclkOk = p.tick.refclkOk := by
  unfold evalDesc; (repeat' split) <;> (simp_all; done)
@[simp] theorem evalDesc_tickPhaseLocked (p : Pkg) (s : Src) (type : Nat) (f : Pkg → Nat → Desc → Pkg) (h_f : ∀ w0 w1 w2, (f w0
    w1 w2).tick.phaseLocked = w0.tick.phaseLocked): (evalDesc p s type f).tick.phaseLocked = p.tick.phaseLocked := by
  unfold evalDesc; (repeat' split) <;> (simp_all; done)
@[simp] theorem evalDesc_tickHoldover (p : Pkg) (s : Src) (type : Nat) (f : Pkg → Nat → Desc → Pkg) (h_f : ∀ w0 w1 w2, (f w0 w1
    w2).tick.holdover = w0.tick.holdover): (evalDesc p s type f).tick.holdover = p.tick.holdover := by
  unfold evalDesc; (repeat' split) <;> (simp_all; done)
@[simp] theorem evalDesc_glbReady (p : Pkg) (s : Src) (type : Nat) (f : Pkg → Nat → Desc → Pkg) (h_f : ∀ w0 w1 w2, (f w0 w1
    w2).glb.ready = w0.glb.ready): (evalDesc p s type f).glb.ready = p.glb.ready := by
  unfold evalDesc; (repeat' split) <;> (simp_all; done)
@[simp] theorem evalDesc_glbSelfTestDone (p : Pkg) (s : Src) (type : Nat) (f : Pkg → Nat → Desc → Pkg) (h_f : ∀ w0 w1 w2, (f w0
    w1 w2).glb.selfTestDone = w0.glb.selfTestDone): (evalDesc p s type f).glb.selfTestDone = p.glb.selfTestDone := by
  unfold evalDesc; (repeat' split) <;> (simp_all; done)
@[simp] theorem evalDesc_glbFwFault (p : Pkg) (s : Src) (type : Nat) (f : Pkg → Nat → Desc → Pkg) (h_f : ∀ w0 w1 w2, (f w0 w1
    w2).glb.fwFault = w0.glb.fwFault): (evalDesc p s type f).glb.fwFault = p.glb.fwFault := by
  unfold evalDesc; (repeat' split) <;> (simp_all; done)
@[simp] theorem enableCtx_keeps (p : Pkg) (c : Nat) : (enableCtx p c).pins = p.pins ∧ (enableCtx p c).tick = p.tick ∧
    (enableCtx p c).glb = p.glb ∧ (enableCtx p c).scn = p.scn ∧ (enableCtx p c).arrays = p.arrays ∧ (enableCtx p c).ldr =
    p.ldr ∧ (enableCtx p c).pens = p.pens ∧ (enableCtx p c).nvw = p.nvw ∧ (enableCtx p c).numVfs = p.numVfs ∧ (enableCtx p
    c).reqs = p.reqs ∧ (enableCtx p c).lastGen = p.lastGen ∧ (enableCtx p c).rq = p.rq ∧ (enableCtx p c).kvp = p.kvp ∧
    (enableCtx p c).fab = p.fab ∧ (enableCtx p c).lsh = p.lsh ∧ (enableCtx p c).hnd = p.hnd ∧ (enableCtx p c).mgt = p.mgt ∧
    (enableCtx p c).i3c = p.i3c ∧ (enableCtx p c).out = p.out ∧ (enableCtx p c).pba = p.pba ∧ (enableCtx p c).freeCtr =
    p.freeCtr := by
  unfold enableCtx; (repeat' split) <;> (simp_all; done)
@[simp] theorem ctxEnableBit_keeps (p : Pkg) (c : Nat) (on : Bool) : (ctxEnableBit p c on).pins = p.pins ∧ (ctxEnableBit p c
    on).tick = p.tick ∧ (ctxEnableBit p c on).glb = p.glb ∧ (ctxEnableBit p c on).arrays = p.arrays ∧ (ctxEnableBit p c
    on).ldr = p.ldr ∧ (ctxEnableBit p c on).numVfs = p.numVfs ∧ (ctxEnableBit p c on).lastGen = p.lastGen ∧ (ctxEnableBit p c
    on).kvp = p.kvp ∧ (ctxEnableBit p c on).mgt = p.mgt ∧ (ctxEnableBit p c on).i3c = p.i3c :=
    by
  simp [ctxEnableBit]
@[simp] theorem ctxCtrlWrite_keeps (p : Pkg) (fn c v : Nat) : (ctxCtrlWrite p fn c v).pins = p.pins ∧ (ctxCtrlWrite p fn c
    v).tick = p.tick ∧ (ctxCtrlWrite p fn c v).arrays = p.arrays ∧ (ctxCtrlWrite p fn c v).ldr = p.ldr ∧ (ctxCtrlWrite p fn c
    v).numVfs = p.numVfs ∧ (ctxCtrlWrite p fn c v).lastGen = p.lastGen ∧ (ctxCtrlWrite p fn c v).kvp = p.kvp ∧ (ctxCtrlWrite p
    fn c v).mgt = p.mgt ∧ (ctxCtrlWrite p fn c v).i3c = p.i3c := by
  simp [ctxCtrlWrite]
@[simp] theorem ctxCtrlWrite_vital (p : Pkg) (fn c v : Nat) : (ctxCtrlWrite p fn c v).glb.ready = p.glb.ready ∧ (ctxCtrlWrite
    p fn c v).glb.selfTestDone = p.glb.selfTestDone ∧ (ctxCtrlWrite p fn c v).glb.fwFault = p.glb.fwFault := by
  simp [ctxCtrlWrite]
@[simp] theorem irqModWrite_keeps (p : Pkg) (c v : Nat) : (irqModWrite p c v).pins = p.pins ∧ (irqModWrite p c v).tick =
    p.tick ∧ (irqModWrite p c v).glb = p.glb ∧ (irqModWrite p c v).scn = p.scn ∧ (irqModWrite p c v).arrays = p.arrays ∧
    (irqModWrite p c v).ldr = p.ldr ∧ (irqModWrite p c v).pens = p.pens ∧ (irqModWrite p c v).nvw = p.nvw ∧ (irqModWrite p c
    v).numVfs = p.numVfs ∧ (irqModWrite p c v).reqs = p.reqs ∧ (irqModWrite p c v).lastGen = p.lastGen ∧ (irqModWrite p c
    v).rq = p.rq ∧ (irqModWrite p c v).kvp = p.kvp ∧ (irqModWrite p c v).fab = p.fab ∧ (irqModWrite p c v).lsh = p.lsh ∧
    (irqModWrite p c v).hnd = p.hnd ∧ (irqModWrite p c v).mgt = p.mgt ∧ (irqModWrite p c v).i3c = p.i3c ∧ (irqModWrite p c
    v).out = p.out ∧ (irqModWrite p c v).pba = p.pba ∧ (irqModWrite p c v).freeCtr = p.freeCtr := by
  simp [irqModWrite]
@[simp] theorem irqModWrite_vital (p : Pkg) (c : ℕ) (v : ℕ) : (irqModWrite p c v).tick.refclkOk = p.tick.refclkOk ∧
    (irqModWrite p c v).tick.phaseLocked = p.tick.phaseLocked ∧ (irqModWrite p c v).tick.holdover = p.tick.holdover := by
  simp [irqModWrite]
@[simp] theorem whileDisabled_keeps (p : Pkg) (fn c off size : Nat) (f : Ctx → Ctx) : (whileDisabled p fn c off size f).pins =
    p.pins ∧ (whileDisabled p fn c off size f).tick = p.tick ∧ (whileDisabled p fn c off size f).arrays = p.arrays ∧
    (whileDisabled p fn c off size f).ldr = p.ldr ∧ (whileDisabled p fn c off size f).pens = p.pens ∧ (whileDisabled p fn c
    off size f).nvw = p.nvw ∧ (whileDisabled p fn c off size f).numVfs = p.numVfs ∧ (whileDisabled p fn c off size f).reqs =
    p.reqs ∧ (whileDisabled p fn c off size f).lastGen = p.lastGen ∧ (whileDisabled p fn c off size f).rq = p.rq ∧
    (whileDisabled p fn c off size f).kvp = p.kvp ∧ (whileDisabled p fn c off size f).fab = p.fab ∧ (whileDisabled p fn c off
    size f).lsh = p.lsh ∧ (whileDisabled p fn c off size f).hnd = p.hnd ∧ (whileDisabled p fn c off size f).mgt = p.mgt ∧
    (whileDisabled p fn c off size f).i3c = p.i3c ∧ (whileDisabled p fn c off size f).freeCtr = p.freeCtr := by
  simp [whileDisabled]
@[simp] theorem whileDisabled_vital (p : Pkg) (fn c off size : Nat) (f : Ctx → Ctx) : (whileDisabled p fn c off size
    f).glb.ready = p.glb.ready ∧ (whileDisabled p fn c off size f).glb.selfTestDone = p.glb.selfTestDone ∧ (whileDisabled p fn
    c off size f).glb.fwFault = p.glb.fwFault := by
  simp [whileDisabled]
@[simp] theorem ctxRegWrite_keeps (p : Pkg) (fn c off size v : Nat) : (ctxRegWrite p fn c off size v).pins = p.pins ∧
    (ctxRegWrite p fn c off size v).tick = p.tick ∧ (ctxRegWrite p fn c off size v).arrays = p.arrays ∧ (ctxRegWrite p fn c
    off size v).ldr = p.ldr ∧ (ctxRegWrite p fn c off size v).numVfs = p.numVfs ∧ (ctxRegWrite p fn c off size v).lastGen =
    p.lastGen ∧ (ctxRegWrite p fn c off size v).kvp = p.kvp ∧ (ctxRegWrite p fn c off size v).mgt = p.mgt ∧ (ctxRegWrite p fn
    c off size v).i3c = p.i3c := by
  unfold ctxRegWrite; (repeat' split) <;> (simp_all; done)
@[simp] theorem ctxRegWrite_vital (p : Pkg) (fn c off size v : Nat) : (ctxRegWrite p fn c off size v).glb.ready = p.glb.ready
    ∧ (ctxRegWrite p fn c off size v).glb.selfTestDone = p.glb.selfTestDone ∧ (ctxRegWrite p fn c off size v).glb.fwFault =
    p.glb.fwFault := by
  unfold ctxRegWrite; (repeat' split) <;> (simp_all; done)
@[simp] theorem functionReset_keeps (p : Pkg) (fn : Nat) : (functionReset p fn).pins = p.pins ∧ (functionReset p fn).tick =
    p.tick ∧ (functionReset p fn).glb = p.glb ∧ (functionReset p fn).arrays = p.arrays ∧ (functionReset p fn).ldr = p.ldr ∧
    (functionReset p fn).numVfs = p.numVfs ∧ (functionReset p fn).lastGen = p.lastGen ∧ (functionReset p fn).kvp = p.kvp ∧
    (functionReset p fn).mgt = p.mgt ∧ (functionReset p fn).i3c = p.i3c := by
  simp [functionReset]
@[simp] theorem functionReset_vital (p : Pkg) (fn : ℕ) : (functionReset p fn).tick.refclkOk = p.tick.refclkOk ∧ (functionReset
    p fn).tick.phaseLocked = p.tick.phaseLocked ∧ (functionReset p fn).tick.holdover = p.tick.holdover := by
  simp [functionReset]
@[simp] theorem setNumVfs_keeps (p : Pkg) (n : Nat) : (setNumVfs p n).pins = p.pins ∧ (setNumVfs p n).tick = p.tick ∧
    (setNumVfs p n).glb = p.glb ∧ (setNumVfs p n).arrays = p.arrays ∧ (setNumVfs p n).ldr = p.ldr ∧ (setNumVfs p n).lastGen =
    p.lastGen ∧ (setNumVfs p n).kvp = p.kvp ∧ (setNumVfs p n).mgt = p.mgt ∧ (setNumVfs p n).i3c = p.i3c := by
  simp [setNumVfs]
@[simp] theorem resetDone_keeps (p : Pkg) (c : Nat) (failed : Option Nat) : (resetDone p c failed).pins = p.pins ∧ (resetDone
    p c failed).tick = p.tick ∧ (resetDone p c failed).glb = p.glb ∧ (resetDone p c failed).arrays = p.arrays ∧ (resetDone p c
    failed).ldr = p.ldr ∧ (resetDone p c failed).nvw = p.nvw ∧ (resetDone p c failed).numVfs = p.numVfs ∧ (resetDone p c
    failed).lastGen = p.lastGen ∧ (resetDone p c failed).rq = p.rq ∧ (resetDone p c failed).kvp = p.kvp ∧ (resetDone p c
    failed).lsh = p.lsh ∧ (resetDone p c failed).mgt = p.mgt ∧ (resetDone p c failed).i3c = p.i3c := by
  unfold resetDone; (repeat' split) <;> (simp_all; done)
@[simp] theorem dbIgnored_keeps (p : Pkg) (c off v : Nat) : (dbIgnored p c off v).pins = p.pins ∧ (dbIgnored p c off v).tick =
    p.tick ∧ (dbIgnored p c off v).glb = p.glb ∧ (dbIgnored p c off v).arrays = p.arrays ∧ (dbIgnored p c off v).ldr = p.ldr ∧
    (dbIgnored p c off v).pens = p.pens ∧ (dbIgnored p c off v).nvw = p.nvw ∧ (dbIgnored p c off v).numVfs = p.numVfs ∧
    (dbIgnored p c off v).reqs = p.reqs ∧ (dbIgnored p c off v).lastGen = p.lastGen ∧ (dbIgnored p c off v).rq = p.rq ∧
    (dbIgnored p c off v).kvp = p.kvp ∧ (dbIgnored p c off v).fab = p.fab ∧ (dbIgnored p c off v).lsh = p.lsh ∧ (dbIgnored p c
    off v).hnd = p.hnd ∧ (dbIgnored p c off v).mgt = p.mgt ∧ (dbIgnored p c off v).i3c = p.i3c ∧ (dbIgnored p c off v).freeCtr
    = p.freeCtr := by
  simp [dbIgnored]
@[simp] theorem dbIgnored_vital (p : Pkg) (c : ℕ) (off : ℕ) (v : ℕ) : (dbIgnored p c off v).tick.refclkOk = p.tick.refclkOk ∧
    (dbIgnored p c off v).tick.phaseLocked = p.tick.phaseLocked ∧ (dbIgnored p c off v).tick.holdover = p.tick.holdover := by
  simp [dbIgnored]
@[simp] theorem sqDoorbell_keeps (p : Pkg) (c v : Nat) : (sqDoorbell p c v).pins = p.pins ∧ (sqDoorbell p c v).tick = p.tick ∧
    (sqDoorbell p c v).glb = p.glb ∧ (sqDoorbell p c v).arrays = p.arrays ∧ (sqDoorbell p c v).ldr = p.ldr ∧ (sqDoorbell p c
    v).pens = p.pens ∧ (sqDoorbell p c v).nvw = p.nvw ∧ (sqDoorbell p c v).numVfs = p.numVfs ∧ (sqDoorbell p c v).reqs =
    p.reqs ∧ (sqDoorbell p c v).lastGen = p.lastGen ∧ (sqDoorbell p c v).rq = p.rq ∧ (sqDoorbell p c v).kvp = p.kvp ∧
    (sqDoorbell p c v).fab = p.fab ∧ (sqDoorbell p c v).lsh = p.lsh ∧ (sqDoorbell p c v).hnd = p.hnd ∧ (sqDoorbell p c v).mgt
    = p.mgt ∧ (sqDoorbell p c v).i3c = p.i3c ∧ (sqDoorbell p c v).freeCtr = p.freeCtr := by
  simp [sqDoorbell]
@[simp] theorem cqDoorbell_keeps (p : Pkg) (c v : Nat) : (cqDoorbell p c v).pins = p.pins ∧ (cqDoorbell p c v).tick = p.tick ∧
    (cqDoorbell p c v).glb = p.glb ∧ (cqDoorbell p c v).arrays = p.arrays ∧ (cqDoorbell p c v).ldr = p.ldr ∧ (cqDoorbell p c
    v).pens = p.pens ∧ (cqDoorbell p c v).nvw = p.nvw ∧ (cqDoorbell p c v).numVfs = p.numVfs ∧ (cqDoorbell p c v).reqs =
    p.reqs ∧ (cqDoorbell p c v).lastGen = p.lastGen ∧ (cqDoorbell p c v).rq = p.rq ∧ (cqDoorbell p c v).kvp = p.kvp ∧
    (cqDoorbell p c v).fab = p.fab ∧ (cqDoorbell p c v).lsh = p.lsh ∧ (cqDoorbell p c v).hnd = p.hnd ∧ (cqDoorbell p c v).mgt
    = p.mgt ∧ (cqDoorbell p c v).i3c = p.i3c ∧ (cqDoorbell p c v).freeCtr = p.freeCtr := by
  unfold cqDoorbell; dsimp only; (repeat' split) <;> (simp_all; done)
@[simp] theorem eqDoorbell_keeps (p : Pkg) (c v : Nat) : (eqDoorbell p c v).pins = p.pins ∧ (eqDoorbell p c v).tick = p.tick ∧
    (eqDoorbell p c v).glb = p.glb ∧ (eqDoorbell p c v).arrays = p.arrays ∧ (eqDoorbell p c v).ldr = p.ldr ∧ (eqDoorbell p c
    v).pens = p.pens ∧ (eqDoorbell p c v).nvw = p.nvw ∧ (eqDoorbell p c v).numVfs = p.numVfs ∧ (eqDoorbell p c v).reqs =
    p.reqs ∧ (eqDoorbell p c v).lastGen = p.lastGen ∧ (eqDoorbell p c v).rq = p.rq ∧ (eqDoorbell p c v).kvp = p.kvp ∧
    (eqDoorbell p c v).fab = p.fab ∧ (eqDoorbell p c v).lsh = p.lsh ∧ (eqDoorbell p c v).hnd = p.hnd ∧ (eqDoorbell p c v).mgt
    = p.mgt ∧ (eqDoorbell p c v).i3c = p.i3c ∧ (eqDoorbell p c v).freeCtr = p.freeCtr := by
  unfold eqDoorbell; dsimp only; (repeat' split) <;> (simp_all; done)
@[simp] theorem noteTime_keeps (p : Pkg) (c : ℕ) (cq : Bool) : (noteTime p c cq).pins = p.pins ∧ (noteTime p c cq).tick =
    p.tick ∧ (noteTime p c cq).glb = p.glb ∧ (noteTime p c cq).scn = p.scn ∧ (noteTime p c cq).arrays = p.arrays ∧ (noteTime p
    c cq).ldr = p.ldr ∧ (noteTime p c cq).pens = p.pens ∧ (noteTime p c cq).nvw = p.nvw ∧ (noteTime p c cq).numVfs = p.numVfs
    ∧ (noteTime p c cq).reqs = p.reqs ∧ (noteTime p c cq).lastGen = p.lastGen ∧ (noteTime p c cq).rq = p.rq ∧ (noteTime p c
    cq).kvp = p.kvp ∧ (noteTime p c cq).fab = p.fab ∧ (noteTime p c cq).lsh = p.lsh ∧ (noteTime p c cq).hnd = p.hnd ∧
    (noteTime p c cq).mgt = p.mgt ∧ (noteTime p c cq).i3c = p.i3c ∧ (noteTime p c cq).out = p.out ∧ (noteTime p c cq).pba =
    p.pba ∧ (noteTime p c cq).freeCtr = p.freeCtr := by
  simp [noteTime]
@[simp] theorem noteTime_vital (p : Pkg) (c : ℕ) (cq : Bool) : (noteTime p c cq).tick.refclkOk = p.tick.refclkOk ∧ (noteTime p
    c cq).tick.phaseLocked = p.tick.phaseLocked ∧ (noteTime p c cq).tick.holdover = p.tick.holdover := by
  simp [noteTime]
@[simp] theorem sendDue_keeps (p : Pkg) (c : Nat) : (sendDue p c).pins = p.pins ∧ (sendDue p c).tick = p.tick ∧ (sendDue p
    c).glb = p.glb ∧ (sendDue p c).scn = p.scn ∧ (sendDue p c).arrays = p.arrays ∧ (sendDue p c).ldr = p.ldr ∧ (sendDue p
    c).pens = p.pens ∧ (sendDue p c).nvw = p.nvw ∧ (sendDue p c).numVfs = p.numVfs ∧ (sendDue p c).reqs = p.reqs ∧ (sendDue p
    c).lastGen = p.lastGen ∧ (sendDue p c).rq = p.rq ∧ (sendDue p c).kvp = p.kvp ∧ (sendDue p c).fab = p.fab ∧ (sendDue p
    c).lsh = p.lsh ∧ (sendDue p c).hnd = p.hnd ∧ (sendDue p c).mgt = p.mgt ∧ (sendDue p c).i3c = p.i3c ∧ (sendDue p c).freeCtr
    = p.freeCtr := by
  unfold sendDue
  extract_lets one
  have h : ∀ q cq, (one q cq).pins = q.pins ∧ (one q cq).tick = q.tick ∧ (one q cq).glb = q.glb ∧ (one q cq).scn = q.scn ∧ (one q cq).arrays = q.arrays ∧ (one q cq).ldr = q.ldr ∧ (one q cq).pens = q.pens ∧ (one q cq).nvw = q.nvw ∧ (one q cq).numVfs = q.numVfs ∧ (one q cq).reqs = q.reqs ∧ (one q cq).lastGen = q.lastGen ∧ (one q cq).rq = q.rq ∧ (one q cq).kvp = q.kvp ∧ (one q cq).fab = q.fab ∧ (one q cq).lsh = q.lsh ∧ (one q cq).hnd = q.hnd ∧ (one q cq).mgt = q.mgt ∧ (one q cq).i3c = q.i3c ∧ (one q cq).freeCtr = q.freeCtr := by
    intro q cq
    simp only [one]
    (repeat' split) <;> simp
  clear_value one
  simp only [h, and_self]
@[simp] theorem admitOp_keeps (p : Pkg) (c : Nat) (d : Desc) : (admitOp p c d).pins = p.pins ∧ (admitOp p c d).tick = p.tick ∧
    (admitOp p c d).glb = p.glb ∧ (admitOp p c d).arrays = p.arrays ∧ (admitOp p c d).ldr = p.ldr ∧ (admitOp p c d).nvw =
    p.nvw ∧ (admitOp p c d).numVfs = p.numVfs ∧ (admitOp p c d).kvp = p.kvp ∧ (admitOp p c d).lsh = p.lsh ∧ (admitOp p c
    d).mgt = p.mgt ∧ (admitOp p c d).i3c = p.i3c := by
  unfold admitOp; (repeat' split) <;> (simp_all; done)
@[simp] theorem byHandle_pins (p : Pkg) (c : Nat) (d : Desc) (fields : List (Option Nat)) (f : Pkg → Nat → Pkg) (h_f : ∀ w0 w1,
    (f w0 w1).pins = w0.pins): (byHandle p c d fields f).pins = p.pins := by
  unfold byHandle; dsimp only; (repeat' split) <;> (simp_all; done)
@[simp] theorem byHandle_tick (p : Pkg) (c : Nat) (d : Desc) (fields : List (Option Nat)) (f : Pkg → Nat → Pkg) (h_f : ∀ w0 w1,
    (f w0 w1).tick = w0.tick): (byHandle p c d fields f).tick = p.tick := by
  unfold byHandle; dsimp only; (repeat' split) <;> (simp_all; done)
@[simp] theorem byHandle_glb (p : Pkg) (c : Nat) (d : Desc) (fields : List (Option Nat)) (f : Pkg → Nat → Pkg) (h_f : ∀ w0 w1,
    (f w0 w1).glb = w0.glb): (byHandle p c d fields f).glb = p.glb := by
  unfold byHandle; dsimp only; (repeat' split) <;> (simp_all; done)
@[simp] theorem byHandle_arrays (p : Pkg) (c : Nat) (d : Desc) (fields : List (Option Nat)) (f : Pkg → Nat → Pkg) (h_f : ∀ w0
    w1, (f w0 w1).arrays = w0.arrays): (byHandle p c d fields f).arrays = p.arrays := by
  unfold byHandle; dsimp only; (repeat' split) <;> (simp_all; done)
@[simp] theorem byHandle_ldr (p : Pkg) (c : Nat) (d : Desc) (fields : List (Option Nat)) (f : Pkg → Nat → Pkg) (h_f : ∀ w0 w1,
    (f w0 w1).ldr = w0.ldr): (byHandle p c d fields f).ldr = p.ldr := by
  unfold byHandle; dsimp only; (repeat' split) <;> (simp_all; done)
@[simp] theorem byHandle_pens (p : Pkg) (c : Nat) (d : Desc) (fields : List (Option Nat)) (f : Pkg → Nat → Pkg) (h_f : ∀ w0 w1,
    (f w0 w1).pens = w0.pens): (byHandle p c d fields f).pens = p.pens := by
  unfold byHandle; dsimp only; (repeat' split) <;> (simp_all; done)
@[simp] theorem byHandle_nvw (p : Pkg) (c : Nat) (d : Desc) (fields : List (Option Nat)) (f : Pkg → Nat → Pkg) (h_f : ∀ w0 w1,
    (f w0 w1).nvw = w0.nvw): (byHandle p c d fields f).nvw = p.nvw := by
  unfold byHandle; dsimp only; (repeat' split) <;> (simp_all; done)
@[simp] theorem byHandle_numVfs (p : Pkg) (c : Nat) (d : Desc) (fields : List (Option Nat)) (f : Pkg → Nat → Pkg) (h_f : ∀ w0
    w1, (f w0 w1).numVfs = w0.numVfs): (byHandle p c d fields f).numVfs = p.numVfs := by
  unfold byHandle; dsimp only; (repeat' split) <;> (simp_all; done)
@[simp] theorem byHandle_reqs (p : Pkg) (c : Nat) (d : Desc) (fields : List (Option Nat)) (f : Pkg → Nat → Pkg) (h_f : ∀ w0 w1,
    (f w0 w1).reqs = w0.reqs): (byHandle p c d fields f).reqs = p.reqs := by
  unfold byHandle; dsimp only; (repeat' split) <;> (simp_all; done)
@[simp] theorem byHandle_lastGen (p : Pkg) (c : Nat) (d : Desc) (fields : List (Option Nat)) (f : Pkg → Nat → Pkg) (h_f : ∀ w0
    w1, (f w0 w1).lastGen = w0.lastGen): (byHandle p c d fields f).lastGen = p.lastGen := by
  unfold byHandle; dsimp only; (repeat' split) <;> (simp_all; done)
@[simp] theorem byHandle_rq (p : Pkg) (c : Nat) (d : Desc) (fields : List (Option Nat)) (f : Pkg → Nat → Pkg) (h_f : ∀ w0 w1, (f
    w0 w1).rq = w0.rq): (byHandle p c d fields f).rq = p.rq := by
  unfold byHandle; dsimp only; (repeat' split) <;> (simp_all; done)
@[simp] theorem byHandle_kvp (p : Pkg) (c : Nat) (d : Desc) (fields : List (Option Nat)) (f : Pkg → Nat → Pkg) (h_f : ∀ w0 w1,
    (f w0 w1).kvp = w0.kvp): (byHandle p c d fields f).kvp = p.kvp := by
  unfold byHandle; dsimp only; (repeat' split) <;> (simp_all; done)
@[simp] theorem byHandle_lsh (p : Pkg) (c : Nat) (d : Desc) (fields : List (Option Nat)) (f : Pkg → Nat → Pkg) (h_f : ∀ w0 w1,
    (f w0 w1).lsh = w0.lsh): (byHandle p c d fields f).lsh = p.lsh := by
  unfold byHandle; dsimp only; (repeat' split) <;> (simp_all; done)
@[simp] theorem byHandle_mgt (p : Pkg) (c : Nat) (d : Desc) (fields : List (Option Nat)) (f : Pkg → Nat → Pkg) (h_f : ∀ w0 w1,
    (f w0 w1).mgt = w0.mgt): (byHandle p c d fields f).mgt = p.mgt := by
  unfold byHandle; dsimp only; (repeat' split) <;> (simp_all; done)
@[simp] theorem byHandle_i3c (p : Pkg) (c : Nat) (d : Desc) (fields : List (Option Nat)) (f : Pkg → Nat → Pkg) (h_f : ∀ w0 w1,
    (f w0 w1).i3c = w0.i3c): (byHandle p c d fields f).i3c = p.i3c := by
  unfold byHandle; dsimp only; (repeat' split) <;> (simp_all; done)
@[simp] theorem byHandle_tickRefclkOk (p : Pkg) (c : Nat) (d : Desc) (fields : List (Option Nat)) (f : Pkg → Nat → Pkg) (h_f : ∀
    w0 w1, (f w0 w1).tick.refclkOk = w0.tick.refclkOk): (byHandle p c d fields f).tick.refclkOk = p.tick.refclkOk := by
  unfold byHandle; dsimp only; (repeat' split) <;> (simp_all; done)
@[simp] theorem byHandle_tickPhaseLocked (p : Pkg) (c : Nat) (d : Desc) (fields : List (Option Nat)) (f : Pkg → Nat → Pkg) (h_f
    : ∀ w0 w1, (f w0 w1).tick.phaseLocked = w0.tick.phaseLocked): (byHandle p c d fields f).tick.phaseLocked =
    p.tick.phaseLocked := by
  unfold byHandle; dsimp only; (repeat' split) <;> (simp_all; done)
@[simp] theorem byHandle_tickHoldover (p : Pkg) (c : Nat) (d : Desc) (fields : List (Option Nat)) (f : Pkg → Nat → Pkg) (h_f : ∀
    w0 w1, (f w0 w1).tick.holdover = w0.tick.holdover): (byHandle p c d fields f).tick.holdover = p.tick.holdover := by
  unfold byHandle; dsimp only; (repeat' split) <;> (simp_all; done)
@[simp] theorem byHandle_glbReady (p : Pkg) (c : Nat) (d : Desc) (fields : List (Option Nat)) (f : Pkg → Nat → Pkg) (h_f : ∀ w0
    w1, (f w0 w1).glb.ready = w0.glb.ready): (byHandle p c d fields f).glb.ready = p.glb.ready := by
  unfold byHandle; dsimp only; (repeat' split) <;> (simp_all; done)
@[simp] theorem byHandle_glbSelfTestDone (p : Pkg) (c : Nat) (d : Desc) (fields : List (Option Nat)) (f : Pkg → Nat → Pkg) (h_f
    : ∀ w0 w1, (f w0 w1).glb.selfTestDone = w0.glb.selfTestDone): (byHandle p c d fields f).glb.selfTestDone =
    p.glb.selfTestDone := by
  unfold byHandle; dsimp only; (repeat' split) <;> (simp_all; done)
@[simp] theorem byHandle_glbFwFault (p : Pkg) (c : Nat) (d : Desc) (fields : List (Option Nat)) (f : Pkg → Nat → Pkg) (h_f : ∀
    w0 w1, (f w0 w1).glb.fwFault = w0.glb.fwFault): (byHandle p c d fields f).glb.fwFault = p.glb.fwFault := by
  unfold byHandle; dsimp only; (repeat' split) <;> (simp_all; done)
@[simp] theorem ended_pins (p : Pkg) (e : Nat) (d : Desc) (f : Pkg → Pkg) (h_f : ∀ w0, (f w0).pins = w0.pins): (ended p e d
    f).pins = p.pins := by
  simp [ended, h_f]
@[simp] theorem ended_tick (p : Pkg) (e : Nat) (d : Desc) (f : Pkg → Pkg) (h_f : ∀ w0, (f w0).tick = w0.tick): (ended p e d
    f).tick = p.tick := by
  simp [ended, h_f]
@[simp] theorem ended_glb (p : Pkg) (e : Nat) (d : Desc) (f : Pkg → Pkg) (h_f : ∀ w0, (f w0).glb = w0.glb): (ended p e d f).glb
    = p.glb := by
  simp [ended, h_f]
@[simp] theorem ended_arrays (p : Pkg) (e : Nat) (d : Desc) (f : Pkg → Pkg) (h_f : ∀ w0, (f w0).arrays = w0.arrays): (ended p e
    d f).arrays = p.arrays := by
  simp [ended, h_f]
@[simp] theorem ended_ldr (p : Pkg) (e : Nat) (d : Desc) (f : Pkg → Pkg) (h_f : ∀ w0, (f w0).ldr = w0.ldr): (ended p e d f).ldr
    = p.ldr := by
  simp [ended, h_f]
@[simp] theorem ended_pens (p : Pkg) (e : Nat) (d : Desc) (f : Pkg → Pkg) (h_f : ∀ w0, (f w0).pens = w0.pens): (ended p e d
    f).pens = p.pens := by
  simp [ended, h_f]
@[simp] theorem ended_nvw (p : Pkg) (e : Nat) (d : Desc) (f : Pkg → Pkg) (h_f : ∀ w0, (f w0).nvw = w0.nvw): (ended p e d f).nvw
    = p.nvw := by
  simp [ended, h_f]
@[simp] theorem ended_numVfs (p : Pkg) (e : Nat) (d : Desc) (f : Pkg → Pkg) (h_f : ∀ w0, (f w0).numVfs = w0.numVfs): (ended p e
    d f).numVfs = p.numVfs := by
  simp [ended, h_f]
@[simp] theorem ended_reqs (p : Pkg) (e : Nat) (d : Desc) (f : Pkg → Pkg) (h_f : ∀ w0, (f w0).reqs = w0.reqs): (ended p e d
    f).reqs = p.reqs := by
  simp [ended, h_f]
@[simp] theorem ended_lastGen (p : Pkg) (e : Nat) (d : Desc) (f : Pkg → Pkg) (h_f : ∀ w0, (f w0).lastGen = w0.lastGen): (ended p
    e d f).lastGen = p.lastGen := by
  simp [ended, h_f]
@[simp] theorem ended_rq (p : Pkg) (e : Nat) (d : Desc) (f : Pkg → Pkg) (h_f : ∀ w0, (f w0).rq = w0.rq): (ended p e d f).rq =
    p.rq := by
  simp [ended, h_f]
@[simp] theorem ended_kvp (p : Pkg) (e : Nat) (d : Desc) (f : Pkg → Pkg) (h_f : ∀ w0, (f w0).kvp = w0.kvp): (ended p e d f).kvp
    = p.kvp := by
  simp [ended, h_f]
@[simp] theorem ended_lsh (p : Pkg) (e : Nat) (d : Desc) (f : Pkg → Pkg) (h_f : ∀ w0, (f w0).lsh = w0.lsh): (ended p e d f).lsh
    = p.lsh := by
  simp [ended, h_f]
@[simp] theorem ended_mgt (p : Pkg) (e : Nat) (d : Desc) (f : Pkg → Pkg) (h_f : ∀ w0, (f w0).mgt = w0.mgt): (ended p e d f).mgt
    = p.mgt := by
  simp [ended, h_f]
@[simp] theorem ended_i3c (p : Pkg) (e : Nat) (d : Desc) (f : Pkg → Pkg) (h_f : ∀ w0, (f w0).i3c = w0.i3c): (ended p e d f).i3c
    = p.i3c := by
  simp [ended, h_f]
@[simp] theorem ended_tickRefclkOk (p : Pkg) (e : Nat) (d : Desc) (f : Pkg → Pkg) (h_f : ∀ w0, (f w0).tick.refclkOk =
    w0.tick.refclkOk): (ended p e d f).tick.refclkOk = p.tick.refclkOk := by
  unfold ended; dsimp only; (repeat' split) <;> (simp_all; done)
@[simp] theorem ended_tickPhaseLocked (p : Pkg) (e : Nat) (d : Desc) (f : Pkg → Pkg) (h_f : ∀ w0, (f w0).tick.phaseLocked =
    w0.tick.phaseLocked): (ended p e d f).tick.phaseLocked = p.tick.phaseLocked := by
  unfold ended; dsimp only; (repeat' split) <;> (simp_all; done)
@[simp] theorem ended_tickHoldover (p : Pkg) (e : Nat) (d : Desc) (f : Pkg → Pkg) (h_f : ∀ w0, (f w0).tick.holdover =
    w0.tick.holdover): (ended p e d f).tick.holdover = p.tick.holdover := by
  unfold ended; dsimp only; (repeat' split) <;> (simp_all; done)
@[simp] theorem ended_glbReady (p : Pkg) (e : Nat) (d : Desc) (f : Pkg → Pkg) (h_f : ∀ w0, (f w0).glb.ready = w0.glb.ready):
    (ended p e d f).glb.ready = p.glb.ready := by
  unfold ended; dsimp only; (repeat' split) <;> (simp_all; done)
@[simp] theorem ended_glbSelfTestDone (p : Pkg) (e : Nat) (d : Desc) (f : Pkg → Pkg) (h_f : ∀ w0, (f w0).glb.selfTestDone =
    w0.glb.selfTestDone): (ended p e d f).glb.selfTestDone = p.glb.selfTestDone := by
  unfold ended; dsimp only; (repeat' split) <;> (simp_all; done)
@[simp] theorem ended_glbFwFault (p : Pkg) (e : Nat) (d : Desc) (f : Pkg → Pkg) (h_f : ∀ w0, (f w0).glb.fwFault =
    w0.glb.fwFault): (ended p e d f).glb.fwFault = p.glb.fwFault := by
  unfold ended; dsimp only; (repeat' split) <;> (simp_all; done)
@[simp] theorem holdDesc_keeps (p : Pkg) (e : Nat) (d : Desc) (front : Bool) : (holdDesc p e d front).pins = p.pins ∧
    (holdDesc p e d front).tick = p.tick ∧ (holdDesc p e d front).glb = p.glb ∧ (holdDesc p e d front).scn = p.scn ∧ (holdDesc
    p e d front).arrays = p.arrays ∧ (holdDesc p e d front).ldr = p.ldr ∧ (holdDesc p e d front).pens = p.pens ∧ (holdDesc p e
    d front).nvw = p.nvw ∧ (holdDesc p e d front).numVfs = p.numVfs ∧ (holdDesc p e d front).lastGen = p.lastGen ∧ (holdDesc p
    e d front).rq = p.rq ∧ (holdDesc p e d front).kvp = p.kvp ∧ (holdDesc p e d front).fab = p.fab ∧ (holdDesc p e d
    front).lsh = p.lsh ∧ (holdDesc p e d front).mgt = p.mgt ∧ (holdDesc p e d front).i3c = p.i3c ∧ (holdDesc p e d front).out
    = p.out ∧ (holdDesc p e d front).pba = p.pba ∧ (holdDesc p e d front).freeCtr = p.freeCtr := by
  simp [holdDesc]
@[simp] theorem appendOp_keeps (p : Pkg) (c : Nat) (d : Desc) : (appendOp p c d).pins = p.pins ∧ (appendOp p c d).tick =
    p.tick ∧ (appendOp p c d).glb = p.glb ∧ (appendOp p c d).arrays = p.arrays ∧ (appendOp p c d).ldr = p.ldr ∧ (appendOp p c
    d).pens = p.pens ∧ (appendOp p c d).nvw = p.nvw ∧ (appendOp p c d).numVfs = p.numVfs ∧ (appendOp p c d).lastGen =
    p.lastGen ∧ (appendOp p c d).rq = p.rq ∧ (appendOp p c d).kvp = p.kvp ∧ (appendOp p c d).lsh = p.lsh ∧ (appendOp p c
    d).mgt = p.mgt ∧ (appendOp p c d).i3c = p.i3c := by
  simp [appendOp]
@[simp] theorem appendOp_vital (p : Pkg) (c : ℕ) (d : Desc) : (appendOp p c d).tick.refclkOk = p.tick.refclkOk ∧ (appendOp p c
    d).tick.phaseLocked = p.tick.phaseLocked ∧ (appendOp p c d).tick.holdover = p.tick.holdover := by
  simp [appendOp]
@[simp] theorem cancelOp_keeps (p : Pkg) (c : Nat) (d : Desc) : (cancelOp p c d).pins = p.pins ∧ (cancelOp p c d).tick =
    p.tick ∧ (cancelOp p c d).glb = p.glb ∧ (cancelOp p c d).arrays = p.arrays ∧ (cancelOp p c d).ldr = p.ldr ∧ (cancelOp p c
    d).nvw = p.nvw ∧ (cancelOp p c d).numVfs = p.numVfs ∧ (cancelOp p c d).lastGen = p.lastGen ∧ (cancelOp p c d).kvp = p.kvp
    ∧ (cancelOp p c d).mgt = p.mgt ∧ (cancelOp p c d).i3c = p.i3c := by
  simp [cancelOp]
@[simp] theorem cancelOp_vital (p : Pkg) (c : ℕ) (d : Desc) : (cancelOp p c d).tick.refclkOk = p.tick.refclkOk ∧ (cancelOp p c
    d).tick.phaseLocked = p.tick.phaseLocked ∧ (cancelOp p c d).tick.holdover = p.tick.holdover := by
  simp [cancelOp]
@[simp] theorem pauseOp_keeps (p : Pkg) (c : Nat) (d : Desc) : (pauseOp p c d).pins = p.pins ∧ (pauseOp p c d).tick = p.tick ∧
    (pauseOp p c d).glb = p.glb ∧ (pauseOp p c d).arrays = p.arrays ∧ (pauseOp p c d).ldr = p.ldr ∧ (pauseOp p c d).nvw =
    p.nvw ∧ (pauseOp p c d).numVfs = p.numVfs ∧ (pauseOp p c d).lastGen = p.lastGen ∧ (pauseOp p c d).rq = p.rq ∧ (pauseOp p c
    d).kvp = p.kvp ∧ (pauseOp p c d).lsh = p.lsh ∧ (pauseOp p c d).mgt = p.mgt ∧ (pauseOp p c d).i3c = p.i3c := by
  simp [pauseOp]
@[simp] theorem resumeReq_keeps (p : Pkg) (c e : Nat) (d : Desc) : (resumeReq p c e d).pins = p.pins ∧ (resumeReq p c e
    d).tick = p.tick ∧ (resumeReq p c e d).glb = p.glb ∧ (resumeReq p c e d).arrays = p.arrays ∧ (resumeReq p c e d).ldr =
    p.ldr ∧ (resumeReq p c e d).nvw = p.nvw ∧ (resumeReq p c e d).numVfs = p.numVfs ∧ (resumeReq p c e d).lastGen = p.lastGen
    ∧ (resumeReq p c e d).rq = p.rq ∧ (resumeReq p c e d).kvp = p.kvp ∧ (resumeReq p c e d).lsh = p.lsh ∧ (resumeReq p c e
    d).mgt = p.mgt ∧ (resumeReq p c e d).i3c = p.i3c := by
  simp [resumeReq]
@[simp] theorem resumeOp_keeps (p : Pkg) (c : Nat) (d : Desc) : (resumeOp p c d).pins = p.pins ∧ (resumeOp p c d).tick =
    p.tick ∧ (resumeOp p c d).glb = p.glb ∧ (resumeOp p c d).arrays = p.arrays ∧ (resumeOp p c d).ldr = p.ldr ∧ (resumeOp p c
    d).nvw = p.nvw ∧ (resumeOp p c d).numVfs = p.numVfs ∧ (resumeOp p c d).lastGen = p.lastGen ∧ (resumeOp p c d).rq = p.rq ∧
    (resumeOp p c d).kvp = p.kvp ∧ (resumeOp p c d).lsh = p.lsh ∧ (resumeOp p c d).mgt = p.mgt ∧ (resumeOp p c d).i3c = p.i3c
    := by
  simp [resumeOp]
@[simp] theorem resumeOp_vital (p : Pkg) (c : ℕ) (d : Desc) : (resumeOp p c d).tick.refclkOk = p.tick.refclkOk ∧ (resumeOp p c
    d).tick.phaseLocked = p.tick.phaseLocked ∧ (resumeOp p c d).tick.holdover = p.tick.holdover := by
  simp [resumeOp]
@[simp] theorem samplingOp_keeps (p : Pkg) (c : Nat) (d : Desc) : (samplingOp p c d).pins = p.pins ∧ (samplingOp p c d).tick =
    p.tick ∧ (samplingOp p c d).glb = p.glb ∧ (samplingOp p c d).arrays = p.arrays ∧ (samplingOp p c d).ldr = p.ldr ∧
    (samplingOp p c d).pens = p.pens ∧ (samplingOp p c d).nvw = p.nvw ∧ (samplingOp p c d).numVfs = p.numVfs ∧ (samplingOp p c
    d).reqs = p.reqs ∧ (samplingOp p c d).lastGen = p.lastGen ∧ (samplingOp p c d).rq = p.rq ∧ (samplingOp p c d).kvp = p.kvp
    ∧ (samplingOp p c d).lsh = p.lsh ∧ (samplingOp p c d).mgt = p.mgt ∧ (samplingOp p c d).i3c = p.i3c := by
  unfold samplingOp; dsimp only; (repeat' split) <;> (simp_all; done)
@[simp] theorem samplingOp_vital (p : Pkg) (c : ℕ) (d : Desc) : (samplingOp p c d).tick.refclkOk = p.tick.refclkOk ∧
    (samplingOp p c d).tick.phaseLocked = p.tick.phaseLocked ∧ (samplingOp p c d).tick.holdover = p.tick.holdover := by
  unfold samplingOp; dsimp only; (repeat' split) <;> (simp_all; done)
@[simp] theorem fenceOp_keeps (p : Pkg) (c : Nat) (d : Desc) : (fenceOp p c d).pins = p.pins ∧ (fenceOp p c d).tick = p.tick ∧
    (fenceOp p c d).glb = p.glb ∧ (fenceOp p c d).arrays = p.arrays ∧ (fenceOp p c d).ldr = p.ldr ∧ (fenceOp p c d).pens =
    p.pens ∧ (fenceOp p c d).nvw = p.nvw ∧ (fenceOp p c d).numVfs = p.numVfs ∧ (fenceOp p c d).reqs = p.reqs ∧ (fenceOp p c
    d).lastGen = p.lastGen ∧ (fenceOp p c d).rq = p.rq ∧ (fenceOp p c d).kvp = p.kvp ∧ (fenceOp p c d).lsh = p.lsh ∧ (fenceOp
    p c d).mgt = p.mgt ∧ (fenceOp p c d).i3c = p.i3c := by
  unfold fenceOp; dsimp only; (repeat' split) <;> (simp_all; done)
@[simp] theorem rollcallOp_keeps (p : Pkg) (c : Nat) (d : Desc) : (rollcallOp p c d).pins = p.pins ∧ (rollcallOp p c d).tick =
    p.tick ∧ (rollcallOp p c d).glb = p.glb ∧ (rollcallOp p c d).arrays = p.arrays ∧ (rollcallOp p c d).ldr = p.ldr ∧
    (rollcallOp p c d).pens = p.pens ∧ (rollcallOp p c d).nvw = p.nvw ∧ (rollcallOp p c d).numVfs = p.numVfs ∧ (rollcallOp p c
    d).reqs = p.reqs ∧ (rollcallOp p c d).lastGen = p.lastGen ∧ (rollcallOp p c d).rq = p.rq ∧ (rollcallOp p c d).kvp = p.kvp
    ∧ (rollcallOp p c d).lsh = p.lsh ∧ (rollcallOp p c d).mgt = p.mgt ∧ (rollcallOp p c d).i3c = p.i3c := by
  unfold rollcallOp; dsimp only; (repeat' split) <;> (simp_all; done)
@[simp] theorem rollcallOp_vital (p : Pkg) (c : ℕ) (d : Desc) : (rollcallOp p c d).tick.refclkOk = p.tick.refclkOk ∧
    (rollcallOp p c d).tick.phaseLocked = p.tick.phaseLocked ∧ (rollcallOp p c d).tick.holdover = p.tick.holdover := by
  unfold rollcallOp; (repeat' split) <;> (simp_all; done)
@[simp] theorem rollDone_keeps (p : Pkg) (c : Nat) (d : Desc) : (rollDone p c d).pins = p.pins ∧ (rollDone p c d).tick =
    p.tick ∧ (rollDone p c d).glb = p.glb ∧ (rollDone p c d).arrays = p.arrays ∧ (rollDone p c d).ldr = p.ldr ∧ (rollDone p c
    d).pens = p.pens ∧ (rollDone p c d).nvw = p.nvw ∧ (rollDone p c d).numVfs = p.numVfs ∧ (rollDone p c d).reqs = p.reqs ∧
    (rollDone p c d).lastGen = p.lastGen ∧ (rollDone p c d).rq = p.rq ∧ (rollDone p c d).kvp = p.kvp ∧ (rollDone p c d).fab =
    p.fab ∧ (rollDone p c d).lsh = p.lsh ∧ (rollDone p c d).hnd = p.hnd ∧ (rollDone p c d).mgt = p.mgt ∧ (rollDone p c d).i3c
    = p.i3c ∧ (rollDone p c d).freeCtr = p.freeCtr := by
  simp [rollDone]
@[simp] theorem rollDone_vital (p : Pkg) (c : ℕ) (d : Desc) : (rollDone p c d).tick.refclkOk = p.tick.refclkOk ∧ (rollDone p c
    d).tick.phaseLocked = p.tick.phaseLocked ∧ (rollDone p c d).tick.holdover = p.tick.holdover := by
  simp [rollDone]
@[simp] theorem copyAdvance_keeps (p : Pkg) (n : Nat) (k : Copy) : (copyAdvance p n k).pins = p.pins ∧ (copyAdvance p n
    k).tick = p.tick ∧ (copyAdvance p n k).glb = p.glb ∧ (copyAdvance p n k).arrays = p.arrays ∧ (copyAdvance p n k).ldr =
    p.ldr ∧ (copyAdvance p n k).nvw = p.nvw ∧ (copyAdvance p n k).ctxs = p.ctxs ∧ (copyAdvance p n k).numVfs = p.numVfs ∧
    (copyAdvance p n k).reqs = p.reqs ∧ (copyAdvance p n k).lastGen = p.lastGen ∧ (copyAdvance p n k).rq = p.rq ∧ (copyAdvance
    p n k).kvp = p.kvp ∧ (copyAdvance p n k).fab = p.fab ∧ (copyAdvance p n k).hnd = p.hnd ∧ (copyAdvance p n k).mgt = p.mgt ∧
    (copyAdvance p n k).i3c = p.i3c ∧ (copyAdvance p n k).freeCtr = p.freeCtr := by
  simp [copyAdvance]
@[simp] theorem landOut_keeps (p : Pkg) (n : Nat) (k : Copy) (key : Nat) : (landOut p n k key).pins = p.pins ∧ (landOut p n k
    key).tick = p.tick ∧ (landOut p n k key).glb = p.glb ∧ (landOut p n k key).arrays = p.arrays ∧ (landOut p n k key).ldr =
    p.ldr ∧ (landOut p n k key).nvw = p.nvw ∧ (landOut p n k key).numVfs = p.numVfs ∧ (landOut p n k key).lastGen = p.lastGen
    ∧ (landOut p n k key).rq = p.rq ∧ (landOut p n k key).fab = p.fab ∧ (landOut p n k key).lsh = p.lsh ∧ (landOut p n k
    key).hnd = p.hnd ∧ (landOut p n k key).mgt = p.mgt ∧ (landOut p n k key).i3c = p.i3c ∧ (landOut p n k key).freeCtr =
    p.freeCtr := by
  unfold landOut; dsimp only; (repeat' split) <;> (simp_all; done)
@[simp] theorem frameBack_keeps (p : Pkg) (k : Copy) (key : ℕ) (refs : ℕ) : ∀ y0 q, frameBack p k key refs = some (y0, q) →
    q.pins = p.pins ∧ q.tick = p.tick ∧ q.glb = p.glb ∧ q.scn = p.scn ∧ q.arrays = p.arrays ∧ q.ldr = p.ldr ∧ q.nvw = p.nvw ∧
    q.ctxs = p.ctxs ∧ q.numVfs = p.numVfs ∧ q.lastGen = p.lastGen ∧ q.rq = p.rq ∧ q.kvp = p.kvp ∧ q.fab = p.fab ∧ q.lsh =
    p.lsh ∧ q.hnd = p.hnd ∧ q.mgt = p.mgt ∧ q.i3c = p.i3c ∧ q.out = p.out ∧ q.pba = p.pba ∧ q.freeCtr = p.freeCtr := by
  unfold frameBack; dsimp only; (repeat' split) <;> (simp_all; done)
@[simp] theorem landIn_keeps (p : Pkg) (n : Nat) (k : Copy) (key : Nat) (b : Bytes) : (landIn p n k key b).pins = (p).pins ∧
    (landIn p n k key b).tick = (p).tick ∧ (landIn p n k key b).glb = (p).glb ∧ (landIn p n k key b).scn = (p).scn ∧ (landIn p
    n k key b).arrays = (p).arrays ∧ (landIn p n k key b).ldr = (p).ldr ∧ (landIn p n k key b).nvw = (p).nvw ∧ (landIn p n k
    key b).numVfs = (p).numVfs ∧ (landIn p n k key b).lastGen = (p).lastGen ∧ (landIn p n k key b).rq = (p).rq ∧ (landIn p n k
    key b).fab = (p).fab ∧ (landIn p n k key b).lsh = (p).lsh ∧ (landIn p n k key b).hnd = (p).hnd ∧ (landIn p n k key b).mgt
    = (p).mgt ∧ (landIn p n k key b).i3c = (p).i3c ∧ (landIn p n k key b).out = (p).out ∧ (landIn p n k key b).pba = (p).pba ∧
    (landIn p n k key b).freeCtr = (p).freeCtr := by
  unfold landIn
  dsimp only
  split
  · split
    · simp only [and_self]
    · rename_i f q hq
      have h := frameBack_keeps p k key _ f q hq
      simp [h]
  · simp only [and_self]
@[simp] theorem readBack_keeps (p : Pkg) (n : ℕ) (k : Copy) : (readBack p n k).pins = p.pins ∧ (readBack p n k).tick = p.tick
    ∧ (readBack p n k).glb = p.glb ∧ (readBack p n k).scn = p.scn ∧ (readBack p n k).arrays = p.arrays ∧ (readBack p n k).ldr
    = p.ldr ∧ (readBack p n k).pens = p.pens ∧ (readBack p n k).nvw = p.nvw ∧ (readBack p n k).ctxs = p.ctxs ∧ (readBack p n
    k).numVfs = p.numVfs ∧ (readBack p n k).reqs = p.reqs ∧ (readBack p n k).lastGen = p.lastGen ∧ (readBack p n k).rq = p.rq
    ∧ (readBack p n k).kvp = p.kvp ∧ (readBack p n k).fab = p.fab ∧ (readBack p n k).lsh = p.lsh ∧ (readBack p n k).hnd =
    p.hnd ∧ (readBack p n k).mgt = p.mgt ∧ (readBack p n k).i3c = p.i3c ∧ (readBack p n k).freeCtr = p.freeCtr := by
  unfold readBack; dsimp only; (repeat' split) <;> (simp_all; done)
@[simp] theorem leaveSwapped_keeps (p : Pkg) (e : Nat) : (leaveSwapped p e).pins = p.pins ∧ (leaveSwapped p e).tick = p.tick ∧
    (leaveSwapped p e).glb = p.glb ∧ (leaveSwapped p e).arrays = p.arrays ∧ (leaveSwapped p e).ldr = p.ldr ∧ (leaveSwapped p
    e).nvw = p.nvw ∧ (leaveSwapped p e).numVfs = p.numVfs ∧ (leaveSwapped p e).lastGen = p.lastGen ∧ (leaveSwapped p e).rq =
    p.rq ∧ (leaveSwapped p e).kvp = p.kvp ∧ (leaveSwapped p e).lsh = p.lsh ∧ (leaveSwapped p e).mgt = p.mgt ∧ (leaveSwapped p
    e).i3c = p.i3c := by
  simp [leaveSwapped]
@[simp] theorem pagesBack_keeps (p : Pkg) (e : ℕ) : (pagesBack p e).pins = p.pins ∧ (pagesBack p e).tick = p.tick ∧ (pagesBack
    p e).glb = p.glb ∧ (pagesBack p e).scn = p.scn ∧ (pagesBack p e).arrays = p.arrays ∧ (pagesBack p e).ldr = p.ldr ∧
    (pagesBack p e).pens = p.pens ∧ (pagesBack p e).nvw = p.nvw ∧ (pagesBack p e).ctxs = p.ctxs ∧ (pagesBack p e).numVfs =
    p.numVfs ∧ (pagesBack p e).lastGen = p.lastGen ∧ (pagesBack p e).rq = p.rq ∧ (pagesBack p e).kvp = p.kvp ∧ (pagesBack p
    e).fab = p.fab ∧ (pagesBack p e).lsh = p.lsh ∧ (pagesBack p e).hnd = p.hnd ∧ (pagesBack p e).mgt = p.mgt ∧ (pagesBack p
    e).i3c = p.i3c ∧ (pagesBack p e).out = p.out ∧ (pagesBack p e).pba = p.pba ∧ (pagesBack p e).freeCtr = p.freeCtr := by
  simp [pagesBack]
@[simp] theorem leaveBack_keeps (p : Pkg) (es : List ℕ) : (leaveBack p es).pins = p.pins ∧ (leaveBack p es).tick = p.tick ∧
    (leaveBack p es).glb = p.glb ∧ (leaveBack p es).arrays = p.arrays ∧ (leaveBack p es).ldr = p.ldr ∧ (leaveBack p es).nvw =
    p.nvw ∧ (leaveBack p es).numVfs = p.numVfs ∧ (leaveBack p es).lastGen = p.lastGen ∧ (leaveBack p es).rq = p.rq ∧
    (leaveBack p es).kvp = p.kvp ∧ (leaveBack p es).lsh = p.lsh ∧ (leaveBack p es).mgt = p.mgt ∧ (leaveBack p es).i3c = p.i3c
    := by
  simp [leaveBack]
@[simp] theorem contextIn_keeps (p : Pkg) (n c : Nat) : (contextIn p n c).pins = p.pins ∧ (contextIn p n c).tick = p.tick ∧
    (contextIn p n c).glb = p.glb ∧ (contextIn p n c).arrays = p.arrays ∧ (contextIn p n c).ldr = p.ldr ∧ (contextIn p n
    c).nvw = p.nvw ∧ (contextIn p n c).numVfs = p.numVfs ∧ (contextIn p n c).lastGen = p.lastGen ∧ (contextIn p n c).rq = p.rq
    ∧ (contextIn p n c).kvp = p.kvp ∧ (contextIn p n c).lsh = p.lsh ∧ (contextIn p n c).mgt = p.mgt ∧ (contextIn p n c).i3c =
    p.i3c := by
  simp [contextIn]
@[simp] theorem judgeSwap_keeps (p : Pkg) (n : Nat) : (judgeSwap p n).pins = p.pins ∧ (judgeSwap p n).tick = p.tick ∧
    (judgeSwap p n).glb = p.glb ∧ (judgeSwap p n).arrays = p.arrays ∧ (judgeSwap p n).ldr = p.ldr ∧ (judgeSwap p n).nvw =
    p.nvw ∧ (judgeSwap p n).numVfs = p.numVfs ∧ (judgeSwap p n).lastGen = p.lastGen ∧ (judgeSwap p n).rq = p.rq ∧ (judgeSwap p
    n).kvp = p.kvp ∧ (judgeSwap p n).lsh = p.lsh ∧ (judgeSwap p n).mgt = p.mgt ∧ (judgeSwap p n).i3c = p.i3c := by
  unfold judgeSwap; (repeat' split) <;> (simp_all; done)
@[simp] theorem copyEnded_keeps (p : Pkg) (k : Copy) : (copyEnded p k).pins = p.pins ∧ (copyEnded p k).tick = p.tick ∧
    (copyEnded p k).glb = p.glb ∧ (copyEnded p k).arrays = p.arrays ∧ (copyEnded p k).ldr = p.ldr ∧ (copyEnded p k).nvw =
    p.nvw ∧ (copyEnded p k).numVfs = p.numVfs ∧ (copyEnded p k).lastGen = p.lastGen ∧ (copyEnded p k).rq = p.rq ∧ (copyEnded p
    k).kvp = p.kvp ∧ (copyEnded p k).lsh = p.lsh ∧ (copyEnded p k).mgt = p.mgt ∧ (copyEnded p k).i3c = p.i3c := by
  simp [copyEnded]
@[simp] theorem copyLands_keeps (p : Pkg) (n : Nat) (data : Option Bytes) : (copyLands p n data).pins = p.pins ∧ (copyLands p
    n data).tick = p.tick ∧ (copyLands p n data).glb = p.glb ∧ (copyLands p n data).arrays = p.arrays ∧ (copyLands p n
    data).ldr = p.ldr ∧ (copyLands p n data).nvw = p.nvw ∧ (copyLands p n data).numVfs = p.numVfs ∧ (copyLands p n
    data).lastGen = p.lastGen ∧ (copyLands p n data).rq = p.rq ∧ (copyLands p n data).mgt = p.mgt ∧ (copyLands p n data).i3c =
    p.i3c := by
  unfold copyLands; (repeat' split) <;> (simp_all; done)
@[simp] theorem beginReturn_keeps (p : Pkg) (e : Nat) : (beginReturn p e).pins = p.pins ∧ (beginReturn p e).tick = p.tick ∧
    (beginReturn p e).glb = p.glb ∧ (beginReturn p e).arrays = p.arrays ∧ (beginReturn p e).ldr = p.ldr ∧ (beginReturn p
    e).nvw = p.nvw ∧ (beginReturn p e).numVfs = p.numVfs ∧ (beginReturn p e).lastGen = p.lastGen ∧ (beginReturn p e).rq = p.rq
    ∧ (beginReturn p e).kvp = p.kvp ∧ (beginReturn p e).lsh = p.lsh ∧ (beginReturn p e).mgt = p.mgt ∧ (beginReturn p e).i3c =
    p.i3c := by
  simp [beginReturn]
@[simp] theorem returnsOf_keeps (p : Pkg) (n : Nat) : (returnsOf p n).pins = p.pins ∧ (returnsOf p n).tick = p.tick ∧
    (returnsOf p n).glb = p.glb ∧ (returnsOf p n).arrays = p.arrays ∧ (returnsOf p n).ldr = p.ldr ∧ (returnsOf p n).nvw =
    p.nvw ∧ (returnsOf p n).numVfs = p.numVfs ∧ (returnsOf p n).lastGen = p.lastGen ∧ (returnsOf p n).rq = p.rq ∧ (returnsOf p
    n).kvp = p.kvp ∧ (returnsOf p n).lsh = p.lsh ∧ (returnsOf p n).mgt = p.mgt ∧ (returnsOf p n).i3c = p.i3c := by
  simp [returnsOf]
@[simp] theorem swapIn_keeps (p : Pkg) (n c : Nat) : (swapIn p n c).pins = p.pins ∧ (swapIn p n c).tick = p.tick ∧ (swapIn p n
    c).glb = p.glb ∧ (swapIn p n c).arrays = p.arrays ∧ (swapIn p n c).ldr = p.ldr ∧ (swapIn p n c).nvw = p.nvw ∧ (swapIn p n
    c).numVfs = p.numVfs ∧ (swapIn p n c).lastGen = p.lastGen ∧ (swapIn p n c).rq = p.rq ∧ (swapIn p n c).kvp = p.kvp ∧
    (swapIn p n c).lsh = p.lsh ∧ (swapIn p n c).mgt = p.mgt ∧ (swapIn p n c).i3c = p.i3c := by
  simp [swapIn]
@[simp] theorem swapOut_keeps (p : Pkg) (n c : Nat) : (swapOut p n c).pins = p.pins ∧ (swapOut p n c).tick = p.tick ∧ (swapOut
    p n c).glb = p.glb ∧ (swapOut p n c).arrays = p.arrays ∧ (swapOut p n c).ldr = p.ldr ∧ (swapOut p n c).nvw = p.nvw ∧
    (swapOut p n c).numVfs = p.numVfs ∧ (swapOut p n c).lastGen = p.lastGen ∧ (swapOut p n c).rq = p.rq ∧ (swapOut p n c).kvp
    = p.kvp ∧ (swapOut p n c).lsh = p.lsh ∧ (swapOut p n c).mgt = p.mgt ∧ (swapOut p n c).i3c = p.i3c := by
  simp [swapOut]
@[simp] theorem contextSwapOp_keeps (p : Pkg) (n : Nat) : (contextSwapOp p n).pins = p.pins ∧ (contextSwapOp p n).tick =
    p.tick ∧ (contextSwapOp p n).glb = p.glb ∧ (contextSwapOp p n).arrays = p.arrays ∧ (contextSwapOp p n).ldr = p.ldr ∧
    (contextSwapOp p n).nvw = p.nvw ∧ (contextSwapOp p n).numVfs = p.numVfs ∧ (contextSwapOp p n).lastGen = p.lastGen ∧
    (contextSwapOp p n).rq = p.rq ∧ (contextSwapOp p n).kvp = p.kvp ∧ (contextSwapOp p n).lsh = p.lsh ∧ (contextSwapOp p
    n).mgt = p.mgt ∧ (contextSwapOp p n).i3c = p.i3c := by
  unfold contextSwapOp; dsimp only; (repeat' split) <;> (simp_all; done)
@[simp] theorem contextSwapOp_vital (p : Pkg) (n : ℕ) : (contextSwapOp p n).tick.refclkOk = p.tick.refclkOk ∧ (contextSwapOp p
    n).tick.phaseLocked = p.tick.phaseLocked ∧ (contextSwapOp p n).tick.holdover = p.tick.holdover := by
  unfold contextSwapOp; dsimp only; (repeat' split) <;> (simp_all; done)
@[simp] theorem modLsh_keeps (p : Pkg) (f : Lsh → Lsh) : (modLsh p f).pins = p.pins ∧ (modLsh p f).tick = p.tick ∧ (modLsh p
    f).glb = p.glb ∧ (modLsh p f).scn = p.scn ∧ (modLsh p f).arrays = p.arrays ∧ (modLsh p f).ldr = p.ldr ∧ (modLsh p f).pens
    = p.pens ∧ (modLsh p f).nvw = p.nvw ∧ (modLsh p f).ctxs = p.ctxs ∧ (modLsh p f).numVfs = p.numVfs ∧ (modLsh p f).reqs =
    p.reqs ∧ (modLsh p f).lastGen = p.lastGen ∧ (modLsh p f).rq = p.rq ∧ (modLsh p f).kvp = p.kvp ∧ (modLsh p f).fab = p.fab ∧
    (modLsh p f).hnd = p.hnd ∧ (modLsh p f).mgt = p.mgt ∧ (modLsh p f).i3c = p.i3c ∧ (modLsh p f).out = p.out ∧ (modLsh p
    f).pba = p.pba ∧ (modLsh p f).freeCtr = p.freeCtr := by
  simp [modLsh]
@[simp] theorem clipHints_keeps (p : Pkg) : (clipHints p).pins = p.pins ∧ (clipHints p).tick = p.tick ∧ (clipHints p).glb =
    p.glb ∧ (clipHints p).arrays = p.arrays ∧ (clipHints p).ldr = p.ldr ∧ (clipHints p).pens = p.pens ∧ (clipHints p).nvw =
    p.nvw ∧ (clipHints p).ctxs = p.ctxs ∧ (clipHints p).numVfs = p.numVfs ∧ (clipHints p).reqs = p.reqs ∧ (clipHints
    p).lastGen = p.lastGen ∧ (clipHints p).rq = p.rq ∧ (clipHints p).kvp = p.kvp ∧ (clipHints p).fab = p.fab ∧ (clipHints
    p).hnd = p.hnd ∧ (clipHints p).mgt = p.mgt ∧ (clipHints p).i3c = p.i3c ∧ (clipHints p).freeCtr = p.freeCtr := by
  simp [clipHints]
@[simp] theorem clipHints_vital (p : Pkg) : (clipHints p).glb.ready = p.glb.ready ∧ (clipHints p).glb.selfTestDone =
    p.glb.selfTestDone ∧ (clipHints p).glb.fwFault = p.glb.fwFault := by
  simp [clipHints]
@[simp] theorem takeCap_keeps (p : Pkg) (v tick : Nat) : (takeCap p v tick).pins = p.pins ∧ (takeCap p v tick).tick = p.tick ∧
    (takeCap p v tick).glb = p.glb ∧ (takeCap p v tick).arrays = p.arrays ∧ (takeCap p v tick).ldr = p.ldr ∧ (takeCap p v
    tick).pens = p.pens ∧ (takeCap p v tick).nvw = p.nvw ∧ (takeCap p v tick).ctxs = p.ctxs ∧ (takeCap p v tick).numVfs =
    p.numVfs ∧ (takeCap p v tick).reqs = p.reqs ∧ (takeCap p v tick).lastGen = p.lastGen ∧ (takeCap p v tick).rq = p.rq ∧
    (takeCap p v tick).kvp = p.kvp ∧ (takeCap p v tick).fab = p.fab ∧ (takeCap p v tick).hnd = p.hnd ∧ (takeCap p v tick).mgt
    = p.mgt ∧ (takeCap p v tick).i3c = p.i3c ∧ (takeCap p v tick).freeCtr = p.freeCtr := by
  simp [takeCap]
@[simp] theorem markSlew_keeps (p : Pkg) : (markSlew p).pins = p.pins ∧ (markSlew p).tick = p.tick ∧ (markSlew p).glb = p.glb
    ∧ (markSlew p).scn = p.scn ∧ (markSlew p).arrays = p.arrays ∧ (markSlew p).ldr = p.ldr ∧ (markSlew p).pens = p.pens ∧
    (markSlew p).nvw = p.nvw ∧ (markSlew p).ctxs = p.ctxs ∧ (markSlew p).numVfs = p.numVfs ∧ (markSlew p).reqs = p.reqs ∧
    (markSlew p).lastGen = p.lastGen ∧ (markSlew p).rq = p.rq ∧ (markSlew p).kvp = p.kvp ∧ (markSlew p).fab = p.fab ∧
    (markSlew p).hnd = p.hnd ∧ (markSlew p).mgt = p.mgt ∧ (markSlew p).i3c = p.i3c ∧ (markSlew p).out = p.out ∧ (markSlew
    p).pba = p.pba ∧ (markSlew p).freeCtr = p.freeCtr := by
  simp [markSlew]
@[simp] theorem noteSlew_keeps (p : Pkg) : (noteSlew p).pins = p.pins ∧ (noteSlew p).tick = p.tick ∧ (noteSlew p).glb = p.glb
    ∧ (noteSlew p).arrays = p.arrays ∧ (noteSlew p).ldr = p.ldr ∧ (noteSlew p).pens = p.pens ∧ (noteSlew p).nvw = p.nvw ∧
    (noteSlew p).ctxs = p.ctxs ∧ (noteSlew p).numVfs = p.numVfs ∧ (noteSlew p).reqs = p.reqs ∧ (noteSlew p).lastGen =
    p.lastGen ∧ (noteSlew p).rq = p.rq ∧ (noteSlew p).kvp = p.kvp ∧ (noteSlew p).fab = p.fab ∧ (noteSlew p).hnd = p.hnd ∧
    (noteSlew p).mgt = p.mgt ∧ (noteSlew p).i3c = p.i3c ∧ (noteSlew p).freeCtr = p.freeCtr := by
  simp [noteSlew]
@[simp] theorem hardApplies_keeps (p : Pkg) (reason : Nat) : (hardApplies p reason).pins = p.pins ∧ (hardApplies p
    reason).tick = p.tick ∧ (hardApplies p reason).glb = p.glb ∧ (hardApplies p reason).arrays = p.arrays ∧ (hardApplies p
    reason).ldr = p.ldr ∧ (hardApplies p reason).pens = p.pens ∧ (hardApplies p reason).nvw = p.nvw ∧ (hardApplies p
    reason).ctxs = p.ctxs ∧ (hardApplies p reason).numVfs = p.numVfs ∧ (hardApplies p reason).reqs = p.reqs ∧ (hardApplies p
    reason).lastGen = p.lastGen ∧ (hardApplies p reason).rq = p.rq ∧ (hardApplies p reason).kvp = p.kvp ∧ (hardApplies p
    reason).fab = p.fab ∧ (hardApplies p reason).hnd = p.hnd ∧ (hardApplies p reason).mgt = p.mgt ∧ (hardApplies p reason).i3c
    = p.i3c ∧ (hardApplies p reason).freeCtr = p.freeCtr := by
  simp [hardApplies]
@[simp] theorem capReply_keeps (p : Pkg) : (capReply p).pins = p.pins ∧ (capReply p).tick = p.tick ∧ (capReply p).glb = p.glb
    ∧ (capReply p).arrays = p.arrays ∧ (capReply p).ldr = p.ldr ∧ (capReply p).pens = p.pens ∧ (capReply p).nvw = p.nvw ∧
    (capReply p).ctxs = p.ctxs ∧ (capReply p).numVfs = p.numVfs ∧ (capReply p).reqs = p.reqs ∧ (capReply p).lastGen =
    p.lastGen ∧ (capReply p).rq = p.rq ∧ (capReply p).kvp = p.kvp ∧ (capReply p).lsh = p.lsh ∧ (capReply p).hnd = p.hnd ∧
    (capReply p).freeCtr = p.freeCtr := by
  unfold capReply; (repeat' split) <;> (simp_all; done)
@[simp] theorem applyCap_keeps (p : Pkg) (c : CapCmd) : (applyCap p c).pins = p.pins ∧ (applyCap p c).tick = p.tick ∧
    (applyCap p c).glb = p.glb ∧ (applyCap p c).arrays = p.arrays ∧ (applyCap p c).ldr = p.ldr ∧ (applyCap p c).pens = p.pens
    ∧ (applyCap p c).nvw = p.nvw ∧ (applyCap p c).ctxs = p.ctxs ∧ (applyCap p c).numVfs = p.numVfs ∧ (applyCap p c).reqs =
    p.reqs ∧ (applyCap p c).lastGen = p.lastGen ∧ (applyCap p c).rq = p.rq ∧ (applyCap p c).kvp = p.kvp ∧ (applyCap p c).hnd =
    p.hnd ∧ (applyCap p c).freeCtr = p.freeCtr := by
  simp [applyCap]
@[simp] theorem localCap_keeps (p : Pkg) (w : Nat) : (localCap p w).pins = p.pins ∧ (localCap p w).tick = p.tick ∧ (localCap p
    w).glb = p.glb ∧ (localCap p w).arrays = p.arrays ∧ (localCap p w).ldr = p.ldr ∧ (localCap p w).pens = p.pens ∧ (localCap
    p w).nvw = p.nvw ∧ (localCap p w).ctxs = p.ctxs ∧ (localCap p w).numVfs = p.numVfs ∧ (localCap p w).reqs = p.reqs ∧
    (localCap p w).lastGen = p.lastGen ∧ (localCap p w).rq = p.rq ∧ (localCap p w).kvp = p.kvp ∧ (localCap p w).fab = p.fab ∧
    (localCap p w).hnd = p.hnd ∧ (localCap p w).mgt = p.mgt ∧ (localCap p w).i3c = p.i3c ∧ (localCap p w).freeCtr = p.freeCtr
    := by
  simp [localCap]
@[simp] theorem emergencyOp_keeps (p : Pkg) (code source p0 p1 p2 reason : Nat) (f : Lsh → Lsh) : (emergencyOp p code source
    p0 p1 p2 reason f).tick = p.tick ∧ (emergencyOp p code source p0 p1 p2 reason f).glb = p.glb ∧ (emergencyOp p code source
    p0 p1 p2 reason f).arrays = p.arrays ∧ (emergencyOp p code source p0 p1 p2 reason f).ldr = p.ldr ∧ (emergencyOp p code
    source p0 p1 p2 reason f).pens = p.pens ∧ (emergencyOp p code source p0 p1 p2 reason f).nvw = p.nvw ∧ (emergencyOp p code
    source p0 p1 p2 reason f).numVfs = p.numVfs ∧ (emergencyOp p code source p0 p1 p2 reason f).reqs = p.reqs ∧ (emergencyOp p
    code source p0 p1 p2 reason f).lastGen = p.lastGen ∧ (emergencyOp p code source p0 p1 p2 reason f).rq = p.rq ∧
    (emergencyOp p code source p0 p1 p2 reason f).kvp = p.kvp ∧ (emergencyOp p code source p0 p1 p2 reason f).fab = p.fab ∧
    (emergencyOp p code source p0 p1 p2 reason f).hnd = p.hnd ∧ (emergencyOp p code source p0 p1 p2 reason f).mgt = p.mgt ∧
    (emergencyOp p code source p0 p1 p2 reason f).i3c = p.i3c ∧ (emergencyOp p code source p0 p1 p2 reason f).freeCtr =
    p.freeCtr := by
  simp [emergencyOp]
@[simp] theorem emergencyEnds_keeps (p : Pkg) : (emergencyEnds p).tick = p.tick ∧ (emergencyEnds p).glb = p.glb ∧
    (emergencyEnds p).scn = p.scn ∧ (emergencyEnds p).arrays = p.arrays ∧ (emergencyEnds p).ldr = p.ldr ∧ (emergencyEnds
    p).pens = p.pens ∧ (emergencyEnds p).nvw = p.nvw ∧ (emergencyEnds p).ctxs = p.ctxs ∧ (emergencyEnds p).numVfs = p.numVfs ∧
    (emergencyEnds p).reqs = p.reqs ∧ (emergencyEnds p).lastGen = p.lastGen ∧ (emergencyEnds p).rq = p.rq ∧ (emergencyEnds
    p).kvp = p.kvp ∧ (emergencyEnds p).fab = p.fab ∧ (emergencyEnds p).hnd = p.hnd ∧ (emergencyEnds p).mgt = p.mgt ∧
    (emergencyEnds p).i3c = p.i3c ∧ (emergencyEnds p).freeCtr = p.freeCtr := by
  simp [emergencyEnds]
@[simp] theorem throttleStep_keeps (p : Pkg) (q : Nat) (tjs : List Nat) : (throttleStep p q tjs).pins = p.pins ∧ (throttleStep
    p q tjs).tick = p.tick ∧ (throttleStep p q tjs).glb = p.glb ∧ (throttleStep p q tjs).arrays = p.arrays ∧ (throttleStep p q
    tjs).ldr = p.ldr ∧ (throttleStep p q tjs).pens = p.pens ∧ (throttleStep p q tjs).nvw = p.nvw ∧ (throttleStep p q tjs).ctxs
    = p.ctxs ∧ (throttleStep p q tjs).numVfs = p.numVfs ∧ (throttleStep p q tjs).reqs = p.reqs ∧ (throttleStep p q
    tjs).lastGen = p.lastGen ∧ (throttleStep p q tjs).rq = p.rq ∧ (throttleStep p q tjs).kvp = p.kvp ∧ (throttleStep p q
    tjs).fab = p.fab ∧ (throttleStep p q tjs).hnd = p.hnd ∧ (throttleStep p q tjs).mgt = p.mgt ∧ (throttleStep p q tjs).i3c =
    p.i3c ∧ (throttleStep p q tjs).freeCtr = p.freeCtr := by
  simp [throttleStep]
@[simp] theorem hintOp_keeps (p : Pkg) (c : Nat) (d : Desc) : (hintOp p c d).pins = p.pins ∧ (hintOp p c d).tick = p.tick ∧
    (hintOp p c d).glb = p.glb ∧ (hintOp p c d).arrays = p.arrays ∧ (hintOp p c d).ldr = p.ldr ∧ (hintOp p c d).pens = p.pens
    ∧ (hintOp p c d).nvw = p.nvw ∧ (hintOp p c d).numVfs = p.numVfs ∧ (hintOp p c d).reqs = p.reqs ∧ (hintOp p c d).lastGen =
    p.lastGen ∧ (hintOp p c d).rq = p.rq ∧ (hintOp p c d).kvp = p.kvp ∧ (hintOp p c d).mgt = p.mgt ∧ (hintOp p c d).i3c =
    p.i3c := by
  unfold hintOp; dsimp only; (repeat' split) <;> (simp_all; done)
@[simp] theorem billCtx_keeps (p : Pkg) (n c e : Nat) : (billCtx p n c e).pins = p.pins ∧ (billCtx p n c e).tick = p.tick ∧
    (billCtx p n c e).glb = p.glb ∧ (billCtx p n c e).scn = p.scn ∧ (billCtx p n c e).arrays = p.arrays ∧ (billCtx p n c
    e).ldr = p.ldr ∧ (billCtx p n c e).pens = p.pens ∧ (billCtx p n c e).nvw = p.nvw ∧ (billCtx p n c e).ctxs = p.ctxs ∧
    (billCtx p n c e).numVfs = p.numVfs ∧ (billCtx p n c e).reqs = p.reqs ∧ (billCtx p n c e).lastGen = p.lastGen ∧ (billCtx p
    n c e).rq = p.rq ∧ (billCtx p n c e).kvp = p.kvp ∧ (billCtx p n c e).fab = p.fab ∧ (billCtx p n c e).hnd = p.hnd ∧
    (billCtx p n c e).mgt = p.mgt ∧ (billCtx p n c e).i3c = p.i3c ∧ (billCtx p n c e).out = p.out ∧ (billCtx p n c e).pba =
    p.pba ∧ (billCtx p n c e).freeCtr = p.freeCtr := by
  simp [billCtx]
@[simp] theorem billHounds_keeps (p : Pkg) (rest : Nat) (es : List (Nat × Nat)) : (billHounds p rest es).1.pins = p.pins ∧
    (billHounds p rest es).1.tick = p.tick ∧ (billHounds p rest es).1.glb = p.glb ∧ (billHounds p rest es).1.scn = p.scn ∧
    (billHounds p rest es).1.arrays = p.arrays ∧ (billHounds p rest es).1.ldr = p.ldr ∧ (billHounds p rest es).1.pens = p.pens
    ∧ (billHounds p rest es).1.nvw = p.nvw ∧ (billHounds p rest es).1.ctxs = p.ctxs ∧ (billHounds p rest es).1.numVfs =
    p.numVfs ∧ (billHounds p rest es).1.reqs = p.reqs ∧ (billHounds p rest es).1.lastGen = p.lastGen ∧ (billHounds p rest
    es).1.rq = p.rq ∧ (billHounds p rest es).1.kvp = p.kvp ∧ (billHounds p rest es).1.fab = p.fab ∧ (billHounds p rest
    es).1.hnd = p.hnd ∧ (billHounds p rest es).1.mgt = p.mgt ∧ (billHounds p rest es).1.i3c = p.i3c ∧ (billHounds p rest
    es).1.out = p.out ∧ (billHounds p rest es).1.pba = p.pba ∧ (billHounds p rest es).1.freeCtr = p.freeCtr := by
  unfold billHounds; dsimp only; repeat' apply And.intro
  all_goals repeat' split
  all_goals try simp only [modLsh_keeps, billCtx_keeps, id_eq]
  all_goals repeat' (first
    | refine Eq.trans (forAll_pins _ _ _ ?_) ?_
    | refine Eq.trans (forAll_tick _ _ _ ?_) ?_
    | refine Eq.trans (forAll_glb _ _ _ ?_) ?_
    | refine Eq.trans (forAll_scn _ _ _ ?_) ?_
    | refine Eq.trans (forAll_arrays _ _ _ ?_) ?_
    | refine Eq.trans (forAll_ldr _ _ _ ?_) ?_
    | refine Eq.trans (forAll_pens _ _ _ ?_) ?_
    | refine Eq.trans (forAll_nvw _ _ _ ?_) ?_
    | refine Eq.trans (forAll_ctxs _ _ _ ?_) ?_
    | refine Eq.trans (forAll_numVfs _ _ _ ?_) ?_
    | refine Eq.trans (forAll_reqs _ _ _ ?_) ?_
    | refine Eq.trans (forAll_lastGen _ _ _ ?_) ?_
    | refine Eq.trans (forAll_rq _ _ _ ?_) ?_
    | refine Eq.trans (forAll_kvp _ _ _ ?_) ?_
    | refine Eq.trans (forAll_fab _ _ _ ?_) ?_
    | refine Eq.trans (forAll_hnd _ _ _ ?_) ?_
    | refine Eq.trans (forAll_mgt _ _ _ ?_) ?_
    | refine Eq.trans (forAll_i3c _ _ _ ?_) ?_
    | refine Eq.trans (forAll_out _ _ _ ?_) ?_
    | refine Eq.trans (forAll_pba _ _ _ ?_) ?_
    | refine Eq.trans (forAll_freeCtr _ _ _ ?_) ?_
    | refine Eq.trans (foldl_pins _ _ _ ?_) ?_
    | refine Eq.trans (foldl_tick _ _ _ ?_) ?_
    | refine Eq.trans (foldl_glb _ _ _ ?_) ?_
    | refine Eq.trans (foldl_scn _ _ _ ?_) ?_
    | refine Eq.trans (foldl_arrays _ _ _ ?_) ?_
    | refine Eq.trans (foldl_ldr _ _ _ ?_) ?_
    | refine Eq.trans (foldl_pens _ _ _ ?_) ?_
    | refine Eq.trans (foldl_nvw _ _ _ ?_) ?_
    | refine Eq.trans (foldl_ctxs _ _ _ ?_) ?_
    | refine Eq.trans (foldl_numVfs _ _ _ ?_) ?_
    | refine Eq.trans (foldl_reqs _ _ _ ?_) ?_
    | refine Eq.trans (foldl_lastGen _ _ _ ?_) ?_
    | refine Eq.trans (foldl_rq _ _ _ ?_) ?_
    | refine Eq.trans (foldl_kvp _ _ _ ?_) ?_
    | refine Eq.trans (foldl_fab _ _ _ ?_) ?_
    | refine Eq.trans (foldl_hnd _ _ _ ?_) ?_
    | refine Eq.trans (foldl_mgt _ _ _ ?_) ?_
    | refine Eq.trans (foldl_i3c _ _ _ ?_) ?_
    | refine Eq.trans (foldl_out _ _ _ ?_) ?_
    | refine Eq.trans (foldl_pba _ _ _ ?_) ?_
    | refine Eq.trans (foldl_freeCtr _ _ _ ?_) ?_
    | refine Eq.trans (foldlP_pins _ _ _ ?_) ?_
    | refine Eq.trans (foldlP_tick _ _ _ ?_) ?_
    | refine Eq.trans (foldlP_glb _ _ _ ?_) ?_
    | refine Eq.trans (foldlP_scn _ _ _ ?_) ?_
    | refine Eq.trans (foldlP_arrays _ _ _ ?_) ?_
    | refine Eq.trans (foldlP_ldr _ _ _ ?_) ?_
    | refine Eq.trans (foldlP_pens _ _ _ ?_) ?_
    | refine Eq.trans (foldlP_nvw _ _ _ ?_) ?_
    | refine Eq.trans (foldlP_ctxs _ _ _ ?_) ?_
    | refine Eq.trans (foldlP_numVfs _ _ _ ?_) ?_
    | refine Eq.trans (foldlP_reqs _ _ _ ?_) ?_
    | refine Eq.trans (foldlP_lastGen _ _ _ ?_) ?_
    | refine Eq.trans (foldlP_rq _ _ _ ?_) ?_
    | refine Eq.trans (foldlP_kvp _ _ _ ?_) ?_
    | refine Eq.trans (foldlP_fab _ _ _ ?_) ?_
    | refine Eq.trans (foldlP_hnd _ _ _ ?_) ?_
    | refine Eq.trans (foldlP_mgt _ _ _ ?_) ?_
    | refine Eq.trans (foldlP_i3c _ _ _ ?_) ?_
    | refine Eq.trans (foldlP_out _ _ _ ?_) ?_
    | refine Eq.trans (foldlP_pba _ _ _ ?_) ?_
    | refine Eq.trans (foldlP_freeCtr _ _ _ ?_) ?_)
  all_goals try intro q x
  all_goals try dsimp only
  all_goals repeat' split
  all_goals first | rfl | (simp_all; done)
@[simp] theorem billHints_keeps (p : Pkg) (rest e : Nat) : (billHints p rest e).1.pins = p.pins ∧ (billHints p rest e).1.tick
    = p.tick ∧ (billHints p rest e).1.glb = p.glb ∧ (billHints p rest e).1.scn = p.scn ∧ (billHints p rest e).1.arrays =
    p.arrays ∧ (billHints p rest e).1.ldr = p.ldr ∧ (billHints p rest e).1.pens = p.pens ∧ (billHints p rest e).1.nvw = p.nvw
    ∧ (billHints p rest e).1.ctxs = p.ctxs ∧ (billHints p rest e).1.numVfs = p.numVfs ∧ (billHints p rest e).1.reqs = p.reqs ∧
    (billHints p rest e).1.lastGen = p.lastGen ∧ (billHints p rest e).1.rq = p.rq ∧ (billHints p rest e).1.kvp = p.kvp ∧
    (billHints p rest e).1.fab = p.fab ∧ (billHints p rest e).1.hnd = p.hnd ∧ (billHints p rest e).1.mgt = p.mgt ∧ (billHints
    p rest e).1.i3c = p.i3c ∧ (billHints p rest e).1.out = p.out ∧ (billHints p rest e).1.pba = p.pba ∧ (billHints p rest
    e).1.freeCtr = p.freeCtr := by
  unfold billHints; dsimp only; (repeat' split) <;> (simp_all; done)
@[simp] theorem billPens_keeps (p : Pkg) (rest trot : Nat) (real : List (Nat × Nat)) : (billPens p rest trot real).pins =
    p.pins ∧ (billPens p rest trot real).tick = p.tick ∧ (billPens p rest trot real).glb = p.glb ∧ (billPens p rest trot
    real).arrays = p.arrays ∧ (billPens p rest trot real).ldr = p.ldr ∧ (billPens p rest trot real).nvw = p.nvw ∧ (billPens p
    rest trot real).ctxs = p.ctxs ∧ (billPens p rest trot real).numVfs = p.numVfs ∧ (billPens p rest trot real).reqs = p.reqs
    ∧ (billPens p rest trot real).lastGen = p.lastGen ∧ (billPens p rest trot real).rq = p.rq ∧ (billPens p rest trot
    real).kvp = p.kvp ∧ (billPens p rest trot real).fab = p.fab ∧ (billPens p rest trot real).hnd = p.hnd ∧ (billPens p rest
    trot real).mgt = p.mgt ∧ (billPens p rest trot real).i3c = p.i3c ∧ (billPens p rest trot real).freeCtr = p.freeCtr := by
  simp [billPens]
@[simp] theorem billTick_keeps (p : Pkg) (m : Measure) : (billTick p m).pins = p.pins ∧ (billTick p m).tick = p.tick ∧
    (billTick p m).glb = p.glb ∧ (billTick p m).arrays = p.arrays ∧ (billTick p m).ldr = p.ldr ∧ (billTick p m).nvw = p.nvw ∧
    (billTick p m).ctxs = p.ctxs ∧ (billTick p m).numVfs = p.numVfs ∧ (billTick p m).reqs = p.reqs ∧ (billTick p m).lastGen =
    p.lastGen ∧ (billTick p m).rq = p.rq ∧ (billTick p m).kvp = p.kvp ∧ (billTick p m).fab = p.fab ∧ (billTick p m).hnd =
    p.hnd ∧ (billTick p m).mgt = p.mgt ∧ (billTick p m).i3c = p.i3c ∧ (billTick p m).freeCtr = p.freeCtr := by
  simp [billTick]
@[simp] theorem setTrot_keeps (p : Pkg) (real : List (Nat × Nat)) : (setTrot p real).pins = p.pins ∧ (setTrot p real).tick =
    p.tick ∧ (setTrot p real).glb = p.glb ∧ (setTrot p real).scn = p.scn ∧ (setTrot p real).arrays = p.arrays ∧ (setTrot p
    real).ldr = p.ldr ∧ (setTrot p real).pens = p.pens ∧ (setTrot p real).nvw = p.nvw ∧ (setTrot p real).ctxs = p.ctxs ∧
    (setTrot p real).numVfs = p.numVfs ∧ (setTrot p real).reqs = p.reqs ∧ (setTrot p real).lastGen = p.lastGen ∧ (setTrot p
    real).rq = p.rq ∧ (setTrot p real).kvp = p.kvp ∧ (setTrot p real).fab = p.fab ∧ (setTrot p real).hnd = p.hnd ∧ (setTrot p
    real).mgt = p.mgt ∧ (setTrot p real).i3c = p.i3c ∧ (setTrot p real).out = p.out ∧ (setTrot p real).pba = p.pba ∧ (setTrot
    p real).freeCtr = p.freeCtr :=
    by
  simp [setTrot]
@[simp] theorem setTrot_vital (p : Pkg) (real : List (ℕ × ℕ)) : (setTrot p real).tick.refclkOk = p.tick.refclkOk ∧ (setTrot p
    real).tick.phaseLocked = p.tick.phaseLocked ∧ (setTrot p real).tick.holdover = p.tick.holdover := by
  simp [setTrot]
@[simp] theorem setMeans_keeps (p : Pkg) (before : Nat) : (setMeans p before).pins = p.pins ∧ (setMeans p before).tick =
    p.tick ∧ (setMeans p before).glb = p.glb ∧ (setMeans p before).scn = p.scn ∧ (setMeans p before).arrays = p.arrays ∧
    (setMeans p before).ldr = p.ldr ∧ (setMeans p before).pens = p.pens ∧ (setMeans p before).nvw = p.nvw ∧ (setMeans p
    before).ctxs = p.ctxs ∧ (setMeans p before).numVfs = p.numVfs ∧ (setMeans p before).reqs = p.reqs ∧ (setMeans p
    before).lastGen = p.lastGen ∧ (setMeans p before).rq = p.rq ∧ (setMeans p before).kvp = p.kvp ∧ (setMeans p before).fab =
    p.fab ∧ (setMeans p before).hnd = p.hnd ∧ (setMeans p before).mgt = p.mgt ∧ (setMeans p before).i3c = p.i3c ∧ (setMeans p
    before).out = p.out ∧ (setMeans p before).pba = p.pba ∧ (setMeans p before).freeCtr = p.freeCtr := by
  simp [setMeans]
@[simp] theorem setMeans_vital (p : Pkg) (before : ℕ) : (setMeans p before).tick.refclkOk = p.tick.refclkOk ∧ (setMeans p
    before).tick.phaseLocked = p.tick.phaseLocked ∧ (setMeans p before).tick.holdover = p.tick.holdover := by
  simp [setMeans]
@[simp] theorem setRamps_keeps (p : Pkg) (real : List (Nat × Nat)) (trot : Tab Nat) : (setRamps p real trot).pins = p.pins ∧
    (setRamps p real trot).tick = p.tick ∧ (setRamps p real trot).glb = p.glb ∧ (setRamps p real trot).scn = p.scn ∧ (setRamps
    p real trot).arrays = p.arrays ∧ (setRamps p real trot).ldr = p.ldr ∧ (setRamps p real trot).pens = p.pens ∧ (setRamps p
    real trot).nvw = p.nvw ∧ (setRamps p real trot).ctxs = p.ctxs ∧ (setRamps p real trot).numVfs = p.numVfs ∧ (setRamps p
    real trot).reqs = p.reqs ∧ (setRamps p real trot).lastGen = p.lastGen ∧ (setRamps p real trot).rq = p.rq ∧ (setRamps p
    real trot).kvp = p.kvp ∧ (setRamps p real trot).fab = p.fab ∧ (setRamps p real trot).hnd = p.hnd ∧ (setRamps p real
    trot).mgt = p.mgt ∧ (setRamps p real trot).i3c = p.i3c ∧ (setRamps p real trot).out = p.out ∧ (setRamps p real trot).pba =
    p.pba ∧ (setRamps p real trot).freeCtr = p.freeCtr := by
  simp [setRamps]
@[simp] theorem stopTrots_keeps (p : Pkg) : (stopTrots p).pins = p.pins ∧ (stopTrots p).tick = p.tick ∧ (stopTrots p).glb =
    p.glb ∧ (stopTrots p).scn = p.scn ∧ (stopTrots p).arrays = p.arrays ∧ (stopTrots p).ldr = p.ldr ∧ (stopTrots p).pens =
    p.pens ∧ (stopTrots p).nvw = p.nvw ∧ (stopTrots p).ctxs = p.ctxs ∧ (stopTrots p).numVfs = p.numVfs ∧ (stopTrots p).reqs =
    p.reqs ∧ (stopTrots p).lastGen = p.lastGen ∧ (stopTrots p).rq = p.rq ∧ (stopTrots p).kvp = p.kvp ∧ (stopTrots p).fab =
    p.fab ∧ (stopTrots p).hnd = p.hnd ∧ (stopTrots p).mgt = p.mgt ∧ (stopTrots p).i3c = p.i3c ∧ (stopTrots p).out = p.out ∧
    (stopTrots p).pba = p.pba ∧ (stopTrots p).freeCtr = p.freeCtr := by
  simp [stopTrots]
@[simp] theorem stopTrots_vital (p : Pkg) : (stopTrots p).glb.ready = p.glb.ready ∧ (stopTrots p).glb.selfTestDone =
    p.glb.selfTestDone ∧ (stopTrots p).glb.fwFault = p.glb.fwFault := by
  simp [stopTrots]
@[simp] theorem judgeFloor_keeps (p : Pkg) (need : ℕ) : (judgeFloor p need).pins = p.pins ∧ (judgeFloor p need).tick = p.tick
    ∧ (judgeFloor p need).glb = p.glb ∧ (judgeFloor p need).scn = p.scn ∧ (judgeFloor p need).arrays = p.arrays ∧ (judgeFloor
    p need).ldr = p.ldr ∧ (judgeFloor p need).pens = p.pens ∧ (judgeFloor p need).nvw = p.nvw ∧ (judgeFloor p need).ctxs =
    p.ctxs ∧ (judgeFloor p need).numVfs = p.numVfs ∧ (judgeFloor p need).reqs = p.reqs ∧ (judgeFloor p need).lastGen =
    p.lastGen ∧ (judgeFloor p need).rq = p.rq ∧ (judgeFloor p need).kvp = p.kvp ∧ (judgeFloor p need).fab = p.fab ∧
    (judgeFloor p need).hnd = p.hnd ∧ (judgeFloor p need).mgt = p.mgt ∧ (judgeFloor p need).i3c = p.i3c ∧ (judgeFloor p
    need).out = p.out ∧ (judgeFloor p need).pba = p.pba ∧ (judgeFloor p need).freeCtr = p.freeCtr := by
  simp [judgeFloor]
@[simp] theorem actLeash_keeps (p : Pkg) (real : List (Nat × Nat)) : (actLeash p real).pins = p.pins ∧ (actLeash p real).tick
    = p.tick ∧ (actLeash p real).glb = p.glb ∧ (actLeash p real).scn = p.scn ∧ (actLeash p real).arrays = p.arrays ∧ (actLeash
    p real).ldr = p.ldr ∧ (actLeash p real).pens = p.pens ∧ (actLeash p real).nvw = p.nvw ∧ (actLeash p real).ctxs = p.ctxs ∧
    (actLeash p real).numVfs = p.numVfs ∧ (actLeash p real).reqs = p.reqs ∧ (actLeash p real).lastGen = p.lastGen ∧ (actLeash
    p real).rq = p.rq ∧ (actLeash p real).kvp = p.kvp ∧ (actLeash p real).fab = p.fab ∧ (actLeash p real).hnd = p.hnd ∧
    (actLeash p real).mgt = p.mgt ∧ (actLeash p real).i3c = p.i3c ∧ (actLeash p real).out = p.out ∧ (actLeash p real).pba =
    p.pba ∧ (actLeash p real).freeCtr = p.freeCtr := by
  simp [actLeash]
@[simp] theorem takeMeasure_keeps (p : Pkg) (m : Measure) : (takeMeasure p m).pins = p.pins ∧ (takeMeasure p m).tick = p.tick
    ∧ (takeMeasure p m).glb = p.glb ∧ (takeMeasure p m).scn = p.scn ∧ (takeMeasure p m).arrays = p.arrays ∧ (takeMeasure p
    m).ldr = p.ldr ∧ (takeMeasure p m).pens = p.pens ∧ (takeMeasure p m).nvw = p.nvw ∧ (takeMeasure p m).ctxs = p.ctxs ∧
    (takeMeasure p m).numVfs = p.numVfs ∧ (takeMeasure p m).reqs = p.reqs ∧ (takeMeasure p m).lastGen = p.lastGen ∧
    (takeMeasure p m).rq = p.rq ∧ (takeMeasure p m).kvp = p.kvp ∧ (takeMeasure p m).fab = p.fab ∧ (takeMeasure p m).hnd =
    p.hnd ∧ (takeMeasure p m).mgt = p.mgt ∧ (takeMeasure p m).i3c = p.i3c ∧ (takeMeasure p m).out = p.out ∧ (takeMeasure p
    m).pba = p.pba ∧ (takeMeasure p m).freeCtr = p.freeCtr := by
  simp [takeMeasure]
@[simp] theorem leashTick_keeps (p : Pkg) (m : Measure) : (leashTick p m).pins = p.pins ∧ (leashTick p m).tick = p.tick ∧
    (leashTick p m).glb = p.glb ∧ (leashTick p m).arrays = p.arrays ∧ (leashTick p m).ldr = p.ldr ∧ (leashTick p m).nvw =
    p.nvw ∧ (leashTick p m).ctxs = p.ctxs ∧ (leashTick p m).numVfs = p.numVfs ∧ (leashTick p m).reqs = p.reqs ∧ (leashTick p
    m).lastGen = p.lastGen ∧ (leashTick p m).rq = p.rq ∧ (leashTick p m).kvp = p.kvp ∧ (leashTick p m).fab = p.fab ∧
    (leashTick p m).hnd = p.hnd ∧ (leashTick p m).mgt = p.mgt ∧ (leashTick p m).i3c = p.i3c ∧ (leashTick p m).freeCtr =
    p.freeCtr := by
  simp [leashTick]
@[simp] theorem judgeRate_keeps (p : Pkg) (b : BeatSample) : (judgeRate p b).pins = p.pins ∧ (judgeRate p b).tick = p.tick ∧
    (judgeRate p b).glb = p.glb ∧ (judgeRate p b).ldr = p.ldr ∧ (judgeRate p b).numVfs = p.numVfs ∧ (judgeRate p b).lastGen =
    p.lastGen ∧ (judgeRate p b).kvp = p.kvp ∧ (judgeRate p b).mgt = p.mgt ∧ (judgeRate p b).i3c = p.i3c := by
  simp [judgeRate]
@[simp] theorem judgeRates_keeps (p : Pkg) (samples : List BeatSample) : (judgeRates p samples).pins = p.pins ∧ (judgeRates p
    samples).tick = p.tick ∧ (judgeRates p samples).glb = p.glb ∧ (judgeRates p samples).ldr = p.ldr ∧ (judgeRates p
    samples).numVfs = p.numVfs ∧ (judgeRates p samples).lastGen = p.lastGen ∧ (judgeRates p samples).kvp = p.kvp ∧ (judgeRates
    p samples).mgt = p.mgt ∧ (judgeRates p samples).i3c = p.i3c := by
  simp [judgeRates]
@[simp] theorem markReset_keeps (p : Pkg) : (markReset p).pins = p.pins ∧ (markReset p).tick = p.tick ∧ (markReset p).scn =
    p.scn ∧ (markReset p).arrays = p.arrays ∧ (markReset p).ldr = p.ldr ∧ (markReset p).pens = p.pens ∧ (markReset p).nvw =
    p.nvw ∧ (markReset p).ctxs = p.ctxs ∧ (markReset p).numVfs = p.numVfs ∧ (markReset p).reqs = p.reqs ∧ (markReset
    p).lastGen = p.lastGen ∧ (markReset p).rq = p.rq ∧ (markReset p).kvp = p.kvp ∧ (markReset p).fab = p.fab ∧ (markReset
    p).lsh = p.lsh ∧ (markReset p).hnd = p.hnd ∧ (markReset p).mgt = p.mgt ∧ (markReset p).i3c = p.i3c ∧ (markReset p).out =
    p.out ∧ (markReset p).pba = p.pba ∧ (markReset p).freeCtr = p.freeCtr := by
  simp [markReset]
@[simp] theorem markReset_vital (p : Pkg) : (markReset p).glb.ready = p.glb.ready ∧ (markReset p).glb.selfTestDone =
    p.glb.selfTestDone ∧ (markReset p).glb.fwFault = p.glb.fwFault := by
  simp [markReset]
@[simp] theorem countServed_keeps (p : Pkg) (h : Hdr) (st : Nat) : (countServed p h st).pins = p.pins ∧ (countServed p h
    st).tick = p.tick ∧ (countServed p h st).glb = p.glb ∧ (countServed p h st).scn = p.scn ∧ (countServed p h st).arrays =
    p.arrays ∧ (countServed p h st).ldr = p.ldr ∧ (countServed p h st).pens = p.pens ∧ (countServed p h st).ctxs = p.ctxs ∧
    (countServed p h st).numVfs = p.numVfs ∧ (countServed p h st).reqs = p.reqs ∧ (countServed p h st).lastGen = p.lastGen ∧
    (countServed p h st).rq = p.rq ∧ (countServed p h st).kvp = p.kvp ∧ (countServed p h st).fab = p.fab ∧ (countServed p h
    st).lsh = p.lsh ∧ (countServed p h st).hnd = p.hnd ∧ (countServed p h st).mgt = p.mgt ∧ (countServed p h st).i3c = p.i3c ∧
    (countServed p h st).out = p.out ∧ (countServed p h st).pba = p.pba ∧ (countServed p h st).freeCtr = p.freeCtr := by
  simp [countServed]
@[simp] theorem boardStore_keeps (p : Pkg) (n off : Nat) (b : Bytes) : (boardStore p n off b).2.pins = p.pins ∧ (boardStore p
    n off b).2.tick = p.tick ∧ (boardStore p n off b).2.glb = p.glb ∧ (boardStore p n off b).2.ldr = p.ldr ∧ (boardStore p n
    off b).2.nvw = p.nvw ∧ (boardStore p n off b).2.ctxs = p.ctxs ∧ (boardStore p n off b).2.numVfs = p.numVfs ∧ (boardStore p
    n off b).2.reqs = p.reqs ∧ (boardStore p n off b).2.lastGen = p.lastGen ∧ (boardStore p n off b).2.rq = p.rq ∧ (boardStore
    p n off b).2.kvp = p.kvp ∧ (boardStore p n off b).2.hnd = p.hnd ∧ (boardStore p n off b).2.mgt = p.mgt ∧ (boardStore p n
    off b).2.i3c = p.i3c ∧ (boardStore p n off b).2.freeCtr = p.freeCtr := by
  unfold boardStore; dsimp only; (repeat' split) <;> (simp_all; done)
@[simp] theorem noticeStore_keeps (p : Pkg) (h : Hdr) (b : Bytes) : (noticeStore p h b).2.pins = p.pins ∧ (noticeStore p h
    b).2.tick = p.tick ∧ (noticeStore p h b).2.glb = p.glb ∧ (noticeStore p h b).2.ldr = p.ldr ∧ (noticeStore p h b).2.numVfs
    = p.numVfs ∧ (noticeStore p h b).2.lastGen = p.lastGen ∧ (noticeStore p h b).2.kvp = p.kvp ∧ (noticeStore p h b).2.mgt =
    p.mgt ∧ (noticeStore p h b).2.i3c = p.i3c :=
    by
  unfold noticeStore; dsimp only; (repeat' split) <;> (simp_all; done)
@[simp] theorem storeAt4_keeps (p : Pkg) (h : Hdr) (b : Bytes) : (storeAt4 p h b).2.pins = p.pins ∧ (storeAt4 p h b).2.tick =
    p.tick ∧ (storeAt4 p h b).2.glb = p.glb ∧ (storeAt4 p h b).2.ldr = p.ldr ∧ (storeAt4 p h b).2.numVfs = p.numVfs ∧
    (storeAt4 p h b).2.lastGen = p.lastGen ∧ (storeAt4 p h b).2.kvp = p.kvp ∧ (storeAt4 p h b).2.mgt = p.mgt ∧ (storeAt4 p h
    b).2.i3c = p.i3c := by
  unfold storeAt4; dsimp only; (repeat' split) <;> (simp_all; done)
@[simp] theorem storeAt4_vital (p : Pkg) (h : Hdr) (b : Bytes) : (storeAt4 p h b).2.tick.refclkOk = p.tick.refclkOk ∧
    (storeAt4 p h b).2.tick.phaseLocked = p.tick.phaseLocked ∧ (storeAt4 p h b).2.tick.holdover = p.tick.holdover := by
  unfold storeAt4; dsimp only; (repeat' split) <;> (simp_all; done)
@[simp] theorem storeTo_keeps (p : Pkg) (h : Hdr) (b : Bytes) : (storeTo p h b).2.pins = p.pins ∧ (storeTo p h b).2.tick =
    p.tick ∧ (storeTo p h b).2.glb = p.glb ∧ (storeTo p h b).2.ldr = p.ldr ∧ (storeTo p h b).2.numVfs = p.numVfs ∧ (storeTo p
    h b).2.lastGen = p.lastGen ∧ (storeTo p h b).2.kvp = p.kvp ∧ (storeTo p h b).2.mgt = p.mgt ∧ (storeTo p h b).2.i3c = p.i3c
    := by
  unfold storeTo; dsimp only; (repeat' split) <;> (simp_all; done)
@[simp] theorem storeTo_vital (p : Pkg) (h : Hdr) (b : Bytes) : (storeTo p h b).2.tick.refclkOk = p.tick.refclkOk ∧ (storeTo p
    h b).2.tick.phaseLocked = p.tick.phaseLocked ∧ (storeTo p h b).2.tick.holdover = p.tick.holdover := by
  unfold storeTo; dsimp only; (repeat' split) <;> (simp_all; done)
@[simp] theorem atomicAt_keeps (p : Pkg) (h : Hdr) (d : Bytes) : (atomicAt p h d).2.2.pins = p.pins ∧ (atomicAt p h
    d).2.2.tick = p.tick ∧ (atomicAt p h d).2.2.glb = p.glb ∧ (atomicAt p h d).2.2.scn = p.scn ∧ (atomicAt p h d).2.2.arrays =
    p.arrays ∧ (atomicAt p h d).2.2.ldr = p.ldr ∧ (atomicAt p h d).2.2.nvw = p.nvw ∧ (atomicAt p h d).2.2.ctxs = p.ctxs ∧
    (atomicAt p h d).2.2.numVfs = p.numVfs ∧ (atomicAt p h d).2.2.reqs = p.reqs ∧ (atomicAt p h d).2.2.lastGen = p.lastGen ∧
    (atomicAt p h d).2.2.rq = p.rq ∧ (atomicAt p h d).2.2.kvp = p.kvp ∧ (atomicAt p h d).2.2.fab = p.fab ∧ (atomicAt p h
    d).2.2.lsh = p.lsh ∧ (atomicAt p h d).2.2.mgt = p.mgt ∧ (atomicAt p h d).2.2.i3c = p.i3c ∧ (atomicAt p h d).2.2.out =
    p.out ∧ (atomicAt p h d).2.2.pba = p.pba ∧ (atomicAt p h d).2.2.freeCtr = p.freeCtr := by
  unfold atomicAt; dsimp only; (repeat' split) <;> (simp_all; done)
@[simp] theorem e2eDrop_keeps (p : Pkg) (port : Nat) (b : Bytes) : (e2eDrop p port b).pins = p.pins ∧ (e2eDrop p port b).tick
    = p.tick ∧ (e2eDrop p port b).glb = p.glb ∧ (e2eDrop p port b).arrays = p.arrays ∧ (e2eDrop p port b).ldr = p.ldr ∧
    (e2eDrop p port b).pens = p.pens ∧ (e2eDrop p port b).nvw = p.nvw ∧ (e2eDrop p port b).ctxs = p.ctxs ∧ (e2eDrop p port
    b).numVfs = p.numVfs ∧ (e2eDrop p port b).reqs = p.reqs ∧ (e2eDrop p port b).lastGen = p.lastGen ∧ (e2eDrop p port b).rq =
    p.rq ∧ (e2eDrop p port b).kvp = p.kvp ∧ (e2eDrop p port b).lsh = p.lsh ∧ (e2eDrop p port b).hnd = p.hnd ∧ (e2eDrop p port
    b).mgt = p.mgt ∧ (e2eDrop p port b).i3c = p.i3c ∧ (e2eDrop p port b).freeCtr = p.freeCtr := by
  simp [e2eDrop]
@[simp] theorem hear_keeps (p : Pkg) (h : Hdr) : (hear p h).pins = p.pins ∧ (hear p h).tick = p.tick ∧ (hear p h).glb = p.glb
    ∧ (hear p h).scn = p.scn ∧ (hear p h).arrays = p.arrays ∧ (hear p h).ldr = p.ldr ∧ (hear p h).pens = p.pens ∧ (hear p
    h).nvw = p.nvw ∧ (hear p h).ctxs = p.ctxs ∧ (hear p h).numVfs = p.numVfs ∧ (hear p h).reqs = p.reqs ∧ (hear p h).lastGen =
    p.lastGen ∧ (hear p h).rq = p.rq ∧ (hear p h).kvp = p.kvp ∧ (hear p h).lsh = p.lsh ∧ (hear p h).hnd = p.hnd ∧ (hear p
    h).mgt = p.mgt ∧ (hear p h).i3c = p.i3c ∧ (hear p h).out = p.out ∧ (hear p h).pba = p.pba ∧ (hear p h).freeCtr = p.freeCtr
    := by
  simp [hear]
@[simp] theorem markSeq_keeps (p : Pkg) (h : Hdr) (status : Nat) (old : Bytes) : (markSeq p h status old).pins = p.pins ∧
    (markSeq p h status old).tick = p.tick ∧ (markSeq p h status old).glb = p.glb ∧ (markSeq p h status old).scn = p.scn ∧
    (markSeq p h status old).arrays = p.arrays ∧ (markSeq p h status old).ldr = p.ldr ∧ (markSeq p h status old).pens = p.pens
    ∧ (markSeq p h status old).nvw = p.nvw ∧ (markSeq p h status old).ctxs = p.ctxs ∧ (markSeq p h status old).numVfs =
    p.numVfs ∧ (markSeq p h status old).reqs = p.reqs ∧ (markSeq p h status old).lastGen = p.lastGen ∧ (markSeq p h status
    old).rq = p.rq ∧ (markSeq p h status old).kvp = p.kvp ∧ (markSeq p h status old).lsh = p.lsh ∧ (markSeq p h status
    old).hnd = p.hnd ∧ (markSeq p h status old).mgt = p.mgt ∧ (markSeq p h status old).i3c = p.i3c ∧ (markSeq p h status
    old).out = p.out ∧ (markSeq p h status old).pba = p.pba ∧ (markSeq p h status old).freeCtr = p.freeCtr := by
  simp [markSeq]
@[simp] theorem reply_keeps (p : Pkg) (h : Hdr) (status : Nat) (data : Bytes) : (reply p h status data).pins = p.pins ∧ (reply
    p h status data).tick = p.tick ∧ (reply p h status data).glb = p.glb ∧ (reply p h status data).scn = p.scn ∧ (reply p h
    status data).arrays = p.arrays ∧ (reply p h status data).ldr = p.ldr ∧ (reply p h status data).pens = p.pens ∧ (reply p h
    status data).nvw = p.nvw ∧ (reply p h status data).ctxs = p.ctxs ∧ (reply p h status data).numVfs = p.numVfs ∧ (reply p h
    status data).reqs = p.reqs ∧ (reply p h status data).lastGen = p.lastGen ∧ (reply p h status data).rq = p.rq ∧ (reply p h
    status data).kvp = p.kvp ∧ (reply p h status data).lsh = p.lsh ∧ (reply p h status data).hnd = p.hnd ∧ (reply p h status
    data).mgt = p.mgt ∧ (reply p h status data).i3c = p.i3c ∧ (reply p h status data).freeCtr = p.freeCtr := by
  simp [reply]
@[simp] theorem duplicate_keeps (p : Pkg) (h : Hdr) : (duplicate p h).pins = p.pins ∧ (duplicate p h).tick = p.tick ∧
    (duplicate p h).glb = p.glb ∧ (duplicate p h).scn = p.scn ∧ (duplicate p h).arrays = p.arrays ∧ (duplicate p h).ldr =
    p.ldr ∧ (duplicate p h).pens = p.pens ∧ (duplicate p h).nvw = p.nvw ∧ (duplicate p h).ctxs = p.ctxs ∧ (duplicate p
    h).numVfs = p.numVfs ∧ (duplicate p h).reqs = p.reqs ∧ (duplicate p h).lastGen = p.lastGen ∧ (duplicate p h).rq = p.rq ∧
    (duplicate p h).kvp = p.kvp ∧ (duplicate p h).lsh = p.lsh ∧ (duplicate p h).hnd = p.hnd ∧ (duplicate p h).mgt = p.mgt ∧
    (duplicate p h).i3c = p.i3c ∧ (duplicate p h).freeCtr = p.freeCtr := by
  unfold duplicate; (repeat' split) <;> (simp_all; done)
@[simp] theorem storePieces_keeps (p : Pkg) (z0 : List RunPiece) : (storePieces p z0).2.pins = p.pins ∧ (storePieces p
    z0).2.tick = p.tick ∧ (storePieces p z0).2.glb = p.glb ∧ (storePieces p z0).2.ldr = p.ldr ∧ (storePieces p z0).2.numVfs =
    p.numVfs ∧ (storePieces p z0).2.lastGen = p.lastGen ∧ (storePieces p z0).2.kvp = p.kvp ∧ (storePieces p z0).2.mgt = p.mgt
    ∧ (storePieces p z0).2.i3c = p.i3c :=
    by
  induction z0 generalizing p with
  | nil => simp [storePieces]
  | cons r t ih =>
    unfold storePieces
    split
    · simp
    · split
      rename_i st q hq
      have h1 := storeTo_keeps p r.pkt.h r.pkt.data
      have h2 := ih q
      split <;> simp_all
@[simp] theorem storeRunAt_keeps (p : Pkg) (rs : List RunPiece) : (storeRunAt p rs).2.pins = p.pins ∧ (storeRunAt p rs).2.tick
    = p.tick ∧ (storeRunAt p rs).2.glb = p.glb ∧ (storeRunAt p rs).2.ldr = p.ldr ∧ (storeRunAt p rs).2.numVfs = p.numVfs ∧
    (storeRunAt p rs).2.lastGen = p.lastGen ∧ (storeRunAt p rs).2.kvp = p.kvp ∧ (storeRunAt p rs).2.mgt = p.mgt ∧ (storeRunAt
    p rs).2.i3c = p.i3c := by
  unfold storeRunAt; dsimp only; (repeat' split) <;> (simp_all; done)
@[simp] theorem pieceOfRun_keeps (p : Pkg) (piece : RunPiece) : (pieceOfRun p piece).pins = p.pins ∧ (pieceOfRun p piece).tick
    = p.tick ∧ (pieceOfRun p piece).glb = p.glb ∧ (pieceOfRun p piece).ldr = p.ldr ∧ (pieceOfRun p piece).numVfs = p.numVfs ∧
    (pieceOfRun p piece).lastGen = p.lastGen ∧ (pieceOfRun p piece).kvp = p.kvp ∧ (pieceOfRun p piece).mgt = p.mgt ∧
    (pieceOfRun p piece).i3c = p.i3c := by
  simp [pieceOfRun]
@[simp] theorem pieceAgain_keeps (p : Pkg) (r : RunPiece) : (pieceAgain p r).pins = p.pins ∧ (pieceAgain p r).tick = p.tick ∧
    (pieceAgain p r).glb = p.glb ∧ (pieceAgain p r).ldr = p.ldr ∧ (pieceAgain p r).numVfs = p.numVfs ∧ (pieceAgain p
    r).lastGen = p.lastGen ∧ (pieceAgain p r).kvp = p.kvp ∧ (pieceAgain p r).mgt = p.mgt ∧ (pieceAgain p r).i3c = p.i3c := by
  simp [pieceAgain]
@[simp] theorem pumpRuns_keeps (p : Pkg) : (pumpRuns p).pins = p.pins ∧ (pumpRuns p).tick = p.tick ∧ (pumpRuns p).glb = p.glb
    ∧ (pumpRuns p).ldr = p.ldr ∧ (pumpRuns p).numVfs = p.numVfs ∧ (pumpRuns p).lastGen = p.lastGen ∧ (pumpRuns p).kvp = p.kvp
    ∧ (pumpRuns p).mgt = p.mgt ∧ (pumpRuns p).i3c = p.i3c := by
  simp [pumpRuns]
@[simp] theorem applyReq_keeps (p : Pkg) (e : LineReq) : (applyReq p e).2.2.pins = p.pins ∧ (applyReq p e).2.2.tick = p.tick ∧
    (applyReq p e).2.2.glb = p.glb ∧ (applyReq p e).2.2.ldr = p.ldr ∧ (applyReq p e).2.2.numVfs = p.numVfs ∧ (applyReq p
    e).2.2.lastGen = p.lastGen ∧ (applyReq p e).2.2.kvp = p.kvp ∧ (applyReq p e).2.2.mgt = p.mgt ∧ (applyReq p e).2.2.i3c =
    p.i3c := by
  unfold applyReq; dsimp only; (repeat' split) <;> (simp_all; done)
@[simp] theorem applyLine_keeps (p : Pkg) (e : LineReq) : (applyLine p e).pins = p.pins ∧ (applyLine p e).tick = p.tick ∧
    (applyLine p e).glb = p.glb ∧ (applyLine p e).ldr = p.ldr ∧ (applyLine p e).numVfs = p.numVfs ∧ (applyLine p e).lastGen =
    p.lastGen ∧ (applyLine p e).kvp = p.kvp ∧ (applyLine p e).mgt = p.mgt ∧ (applyLine p e).i3c = p.i3c := by
  simp [applyLine]
@[simp] theorem joinLine_keeps (p : Pkg) (e : LineReq) : (joinLine p e).pins = p.pins ∧ (joinLine p e).tick = p.tick ∧
    (joinLine p e).glb = p.glb ∧ (joinLine p e).scn = p.scn ∧ (joinLine p e).arrays = p.arrays ∧ (joinLine p e).ldr = p.ldr ∧
    (joinLine p e).pens = p.pens ∧ (joinLine p e).nvw = p.nvw ∧ (joinLine p e).ctxs = p.ctxs ∧ (joinLine p e).numVfs =
    p.numVfs ∧ (joinLine p e).reqs = p.reqs ∧ (joinLine p e).lastGen = p.lastGen ∧ (joinLine p e).rq = p.rq ∧ (joinLine p
    e).kvp = p.kvp ∧ (joinLine p e).lsh = p.lsh ∧ (joinLine p e).hnd = p.hnd ∧ (joinLine p e).mgt = p.mgt ∧ (joinLine p e).i3c
    = p.i3c ∧ (joinLine p e).out = p.out ∧ (joinLine p e).pba = p.pba ∧ (joinLine p e).freeCtr = p.freeCtr := by
  unfold joinLine
  extract_lets h same copyOf meets
  split
  · exact modFab_keeps _ _
  · split
    · exact modFab_keeps _ _
    · exact modFab_keeps _ _
@[simp] theorem joinLine_vital (p : Pkg) (e : LineReq) : (joinLine p e).tick.refclkOk = p.tick.refclkOk ∧ (joinLine p
    e).tick.phaseLocked = p.tick.phaseLocked ∧ (joinLine p e).tick.holdover = p.tick.holdover ∧ (joinLine p e).glb.ready =
    p.glb.ready ∧ (joinLine p e).glb.selfTestDone = p.glb.selfTestDone ∧ (joinLine p e).glb.fwFault = p.glb.fwFault := by
  simp only [joinLine_keeps, and_self]
@[simp] theorem lineIn_keeps (p : Pkg) (e : LineReq) : (lineIn p e).pins = p.pins ∧ (lineIn p e).tick = p.tick ∧ (lineIn p
    e).glb = p.glb ∧ (lineIn p e).ldr = p.ldr ∧ (lineIn p e).numVfs = p.numVfs ∧ (lineIn p e).lastGen = p.lastGen ∧ (lineIn p
    e).kvp = p.kvp ∧ (lineIn p e).mgt = p.mgt ∧ (lineIn p e).i3c = p.i3c := by
  simp [lineIn]
@[simp] theorem serveLines_keeps (p : Pkg) : (serveLines p).pins = p.pins ∧ (serveLines p).tick = p.tick ∧ (serveLines p).glb
    = p.glb ∧ (serveLines p).ldr = p.ldr ∧ (serveLines p).numVfs = p.numVfs ∧ (serveLines p).lastGen = p.lastGen ∧ (serveLines
    p).kvp = p.kvp ∧ (serveLines p).mgt = p.mgt ∧ (serveLines p).i3c = p.i3c := by
  simp [serveLines]
@[simp] theorem storeIn_keeps (p : Pkg) (port : ℕ) (k : Pkt) (bar : Option ℕ) : (storeIn p port k bar).pins = p.pins ∧
    (storeIn p port k bar).tick = p.tick ∧ (storeIn p port k bar).glb = p.glb ∧ (storeIn p port k bar).ldr = p.ldr ∧ (storeIn
    p port k bar).numVfs = p.numVfs ∧ (storeIn p port k bar).lastGen = p.lastGen ∧ (storeIn p port k bar).kvp = p.kvp ∧
    (storeIn p port k bar).mgt = p.mgt ∧ (storeIn p port k bar).i3c = p.i3c := by
  simp [storeIn]
@[simp] theorem loadIn_keeps (p : Pkg) (k : Pkt) (bar : Option ℕ) : (loadIn p k bar).pins = p.pins ∧ (loadIn p k bar).tick =
    p.tick ∧ (loadIn p k bar).glb = p.glb ∧ (loadIn p k bar).scn = p.scn ∧ (loadIn p k bar).arrays = p.arrays ∧ (loadIn p k
    bar).ldr = p.ldr ∧ (loadIn p k bar).pens = p.pens ∧ (loadIn p k bar).ctxs = p.ctxs ∧ (loadIn p k bar).numVfs = p.numVfs ∧
    (loadIn p k bar).reqs = p.reqs ∧ (loadIn p k bar).lastGen = p.lastGen ∧ (loadIn p k bar).rq = p.rq ∧ (loadIn p k bar).kvp
    = p.kvp ∧ (loadIn p k bar).lsh = p.lsh ∧ (loadIn p k bar).hnd = p.hnd ∧ (loadIn p k bar).mgt = p.mgt ∧ (loadIn p k
    bar).i3c = p.i3c ∧ (loadIn p k bar).freeCtr = p.freeCtr := by
  unfold loadIn; (repeat' split) <;> (simp_all; done)
@[simp] theorem loadIn_vital (p : Pkg) (k : Pkt) (bar : Option ℕ) : (loadIn p k bar).tick.refclkOk = p.tick.refclkOk ∧ (loadIn
    p k bar).tick.phaseLocked = p.tick.phaseLocked ∧ (loadIn p k bar).tick.holdover = p.tick.holdover := by
  unfold loadIn; (repeat' split) <;> (simp_all; done)
@[simp] theorem requestIn_keeps (p : Pkg) (port type : Nat) (b : Bytes) : (requestIn p port type b).pins = p.pins ∧ (requestIn
    p port type b).tick = p.tick ∧ (requestIn p port type b).glb = p.glb ∧ (requestIn p port type b).ldr = p.ldr ∧ (requestIn
    p port type b).numVfs = p.numVfs ∧ (requestIn p port type b).lastGen = p.lastGen ∧ (requestIn p port type b).kvp = p.kvp ∧
    (requestIn p port type b).mgt = p.mgt ∧ (requestIn p port type b).i3c = p.i3c := by
  simp [requestIn]
@[simp] theorem rrcFill_keeps (p : Pkg) (t : Txn) (b : Bytes) : (rrcFill p t b).pins = p.pins ∧ (rrcFill p t b).tick = p.tick
    ∧ (rrcFill p t b).glb = p.glb ∧ (rrcFill p t b).scn = p.scn ∧ (rrcFill p t b).arrays = p.arrays ∧ (rrcFill p t b).ldr =
    p.ldr ∧ (rrcFill p t b).pens = p.pens ∧ (rrcFill p t b).nvw = p.nvw ∧ (rrcFill p t b).ctxs = p.ctxs ∧ (rrcFill p t
    b).numVfs = p.numVfs ∧ (rrcFill p t b).reqs = p.reqs ∧ (rrcFill p t b).lastGen = p.lastGen ∧ (rrcFill p t b).rq = p.rq ∧
    (rrcFill p t b).kvp = p.kvp ∧ (rrcFill p t b).lsh = p.lsh ∧ (rrcFill p t b).hnd = p.hnd ∧ (rrcFill p t b).mgt = p.mgt ∧
    (rrcFill p t b).i3c = p.i3c ∧ (rrcFill p t b).out = p.out ∧ (rrcFill p t b).pba = p.pba ∧ (rrcFill p t b).freeCtr =
    p.freeCtr := by
  simp [rrcFill]
@[simp] theorem responseIn_keeps (p : Pkg) (port type : Nat) (b : Bytes) : (responseIn p port type b).pins = p.pins ∧
    (responseIn p port type b).tick = p.tick ∧ (responseIn p port type b).glb = p.glb ∧ (responseIn p port type b).arrays =
    p.arrays ∧ (responseIn p port type b).ldr = p.ldr ∧ (responseIn p port type b).pens = p.pens ∧ (responseIn p port type
    b).nvw = p.nvw ∧ (responseIn p port type b).ctxs = p.ctxs ∧ (responseIn p port type b).numVfs = p.numVfs ∧ (responseIn p
    port type b).reqs = p.reqs ∧ (responseIn p port type b).lastGen = p.lastGen ∧ (responseIn p port type b).rq = p.rq ∧
    (responseIn p port type b).kvp = p.kvp ∧ (responseIn p port type b).lsh = p.lsh ∧ (responseIn p port type b).mgt = p.mgt ∧
    (responseIn p port type b).i3c = p.i3c ∧ (responseIn p port type b).freeCtr = p.freeCtr := by
  unfold responseIn; dsimp only; (repeat' split) <;> (simp_all; done)
@[simp] theorem reroute_keeps (p : Pkg) (b : Bytes) : (reroute p b).pins = p.pins ∧ (reroute p b).tick = p.tick ∧ (reroute p
    b).glb = p.glb ∧ (reroute p b).scn = p.scn ∧ (reroute p b).arrays = p.arrays ∧ (reroute p b).ldr = p.ldr ∧ (reroute p
    b).pens = p.pens ∧ (reroute p b).nvw = p.nvw ∧ (reroute p b).ctxs = p.ctxs ∧ (reroute p b).numVfs = p.numVfs ∧ (reroute p
    b).reqs = p.reqs ∧ (reroute p b).lastGen = p.lastGen ∧ (reroute p b).rq = p.rq ∧ (reroute p b).kvp = p.kvp ∧ (reroute p
    b).lsh = p.lsh ∧ (reroute p b).hnd = p.hnd ∧ (reroute p b).mgt = p.mgt ∧ (reroute p b).i3c = p.i3c ∧ (reroute p b).freeCtr
    = p.freeCtr := by
  unfold reroute; (repeat' split) <;> (simp_all; done)
@[simp] theorem reinject_keeps (p : Pkg) (b : Bytes) : (reinject p b).pins = p.pins ∧ (reinject p b).tick = p.tick ∧ (reinject
    p b).glb = p.glb ∧ (reinject p b).scn = p.scn ∧ (reinject p b).arrays = p.arrays ∧ (reinject p b).ldr = p.ldr ∧ (reinject
    p b).pens = p.pens ∧ (reinject p b).nvw = p.nvw ∧ (reinject p b).ctxs = p.ctxs ∧ (reinject p b).numVfs = p.numVfs ∧
    (reinject p b).reqs = p.reqs ∧ (reinject p b).lastGen = p.lastGen ∧ (reinject p b).rq = p.rq ∧ (reinject p b).kvp = p.kvp
    ∧ (reinject p b).lsh = p.lsh ∧ (reinject p b).hnd = p.hnd ∧ (reinject p b).mgt = p.mgt ∧ (reinject p b).i3c = p.i3c ∧
    (reinject p b).freeCtr = p.freeCtr := by
  simp [reinject]
@[simp] theorem emptyPort_keeps (p : Pkg) (n : Nat) : (emptyPort p n).pins = p.pins ∧ (emptyPort p n).tick = p.tick ∧
    (emptyPort p n).glb = p.glb ∧ (emptyPort p n).scn = p.scn ∧ (emptyPort p n).arrays = p.arrays ∧ (emptyPort p n).ldr =
    p.ldr ∧ (emptyPort p n).pens = p.pens ∧ (emptyPort p n).nvw = p.nvw ∧ (emptyPort p n).ctxs = p.ctxs ∧ (emptyPort p
    n).numVfs = p.numVfs ∧ (emptyPort p n).reqs = p.reqs ∧ (emptyPort p n).lastGen = p.lastGen ∧ (emptyPort p n).rq = p.rq ∧
    (emptyPort p n).kvp = p.kvp ∧ (emptyPort p n).lsh = p.lsh ∧ (emptyPort p n).hnd = p.hnd ∧ (emptyPort p n).mgt = p.mgt ∧
    (emptyPort p n).i3c = p.i3c ∧ (emptyPort p n).freeCtr = p.freeCtr := by
  simp [emptyPort]
@[simp] theorem evaluate_keeps (p : Pkg) (n : Nat) (b : Bytes) : (evaluate p n b).pins = p.pins ∧ (evaluate p n b).tick =
    p.tick ∧ (evaluate p n b).glb = p.glb ∧ (evaluate p n b).arrays = p.arrays ∧ (evaluate p n b).ldr = p.ldr ∧ (evaluate p n
    b).pens = p.pens ∧ (evaluate p n b).nvw = p.nvw ∧ (evaluate p n b).ctxs = p.ctxs ∧ (evaluate p n b).numVfs = p.numVfs ∧
    (evaluate p n b).reqs = p.reqs ∧ (evaluate p n b).lastGen = p.lastGen ∧ (evaluate p n b).rq = p.rq ∧ (evaluate p n b).kvp
    = p.kvp ∧ (evaluate p n b).lsh = p.lsh ∧ (evaluate p n b).hnd = p.hnd ∧ (evaluate p n b).mgt = p.mgt ∧ (evaluate p n
    b).i3c = p.i3c ∧ (evaluate p n b).freeCtr = p.freeCtr := by
  simp [evaluate]
@[simp] theorem evaluate_vital (p : Pkg) (n : ℕ) (b : Bytes) : (evaluate p n b).tick.refclkOk = p.tick.refclkOk ∧ (evaluate p
    n b).tick.phaseLocked = p.tick.phaseLocked ∧ (evaluate p n b).tick.holdover = p.tick.holdover := by
  simp [evaluate]
@[simp] theorem holdAgain_keeps (p : Pkg) (n : ℕ) (b : Bytes) : (holdAgain p n b).pins = p.pins ∧ (holdAgain p n b).tick =
    p.tick ∧ (holdAgain p n b).glb = p.glb ∧ (holdAgain p n b).scn = p.scn ∧ (holdAgain p n b).arrays = p.arrays ∧ (holdAgain
    p n b).ldr = p.ldr ∧ (holdAgain p n b).pens = p.pens ∧ (holdAgain p n b).nvw = p.nvw ∧ (holdAgain p n b).ctxs = p.ctxs ∧
    (holdAgain p n b).numVfs = p.numVfs ∧ (holdAgain p n b).reqs = p.reqs ∧ (holdAgain p n b).lastGen = p.lastGen ∧ (holdAgain
    p n b).rq = p.rq ∧ (holdAgain p n b).kvp = p.kvp ∧ (holdAgain p n b).lsh = p.lsh ∧ (holdAgain p n b).hnd = p.hnd ∧
    (holdAgain p n b).mgt = p.mgt ∧ (holdAgain p n b).i3c = p.i3c ∧ (holdAgain p n b).out = p.out ∧ (holdAgain p n b).pba =
    p.pba ∧ (holdAgain p n b).freeCtr = p.freeCtr := by
  simp [holdAgain]
@[simp] theorem holdAgain_vital (p : Pkg) (n : ℕ) (b : Bytes) : (holdAgain p n b).tick.refclkOk = p.tick.refclkOk ∧ (holdAgain
    p n b).tick.phaseLocked = p.tick.phaseLocked ∧ (holdAgain p n b).tick.holdover = p.tick.holdover := by
  simp [holdAgain]
@[simp] theorem collarIn_keeps (p : Pkg) (n : Nat) (b : Bytes) : (collarIn p n b).pins = p.pins ∧ (collarIn p n b).tick =
    p.tick ∧ (collarIn p n b).glb = p.glb ∧ (collarIn p n b).arrays = p.arrays ∧ (collarIn p n b).ldr = p.ldr ∧ (collarIn p n
    b).pens = p.pens ∧ (collarIn p n b).nvw = p.nvw ∧ (collarIn p n b).ctxs = p.ctxs ∧ (collarIn p n b).numVfs = p.numVfs ∧
    (collarIn p n b).reqs = p.reqs ∧ (collarIn p n b).lastGen = p.lastGen ∧ (collarIn p n b).rq = p.rq ∧ (collarIn p n b).kvp
    = p.kvp ∧ (collarIn p n b).lsh = p.lsh ∧ (collarIn p n b).hnd = p.hnd ∧ (collarIn p n b).mgt = p.mgt ∧ (collarIn p n
    b).i3c = p.i3c ∧ (collarIn p n b).freeCtr = p.freeCtr := by
  unfold collarIn; dsimp only; (repeat' split) <;> (simp_all; done)
@[simp] theorem collarIn_vital (p : Pkg) (n : ℕ) (b : Bytes) : (collarIn p n b).tick.refclkOk = p.tick.refclkOk ∧ (collarIn p
    n b).tick.phaseLocked = p.tick.phaseLocked ∧ (collarIn p n b).tick.holdover = p.tick.holdover := by
  unfold collarIn; dsimp only; (repeat' split) <;> (simp_all; done)
@[simp] theorem startTrain_keeps (p : Pkg) (n : Nat) : (startTrain p n).pins = p.pins ∧ (startTrain p n).tick = p.tick ∧
    (startTrain p n).glb = p.glb ∧ (startTrain p n).scn = p.scn ∧ (startTrain p n).arrays = p.arrays ∧ (startTrain p n).ldr =
    p.ldr ∧ (startTrain p n).pens = p.pens ∧ (startTrain p n).nvw = p.nvw ∧ (startTrain p n).ctxs = p.ctxs ∧ (startTrain p
    n).numVfs = p.numVfs ∧ (startTrain p n).reqs = p.reqs ∧ (startTrain p n).lastGen = p.lastGen ∧ (startTrain p n).rq = p.rq
    ∧ (startTrain p n).kvp = p.kvp ∧ (startTrain p n).lsh = p.lsh ∧ (startTrain p n).hnd = p.hnd ∧ (startTrain p n).mgt =
    p.mgt ∧ (startTrain p n).i3c = p.i3c ∧ (startTrain p n).out = p.out ∧ (startTrain p n).pba = p.pba ∧ (startTrain p
    n).freeCtr = p.freeCtr := by
  simp [startTrain]
@[simp] theorem lightOn_keeps (p : Pkg) (n : Nat) : (lightOn p n).pins = p.pins ∧ (lightOn p n).tick = p.tick ∧ (lightOn p
    n).glb = p.glb ∧ (lightOn p n).scn = p.scn ∧ (lightOn p n).arrays = p.arrays ∧ (lightOn p n).ldr = p.ldr ∧ (lightOn p
    n).pens = p.pens ∧ (lightOn p n).nvw = p.nvw ∧ (lightOn p n).ctxs = p.ctxs ∧ (lightOn p n).numVfs = p.numVfs ∧ (lightOn p
    n).reqs = p.reqs ∧ (lightOn p n).lastGen = p.lastGen ∧ (lightOn p n).rq = p.rq ∧ (lightOn p n).kvp = p.kvp ∧ (lightOn p
    n).lsh = p.lsh ∧ (lightOn p n).hnd = p.hnd ∧ (lightOn p n).mgt = p.mgt ∧ (lightOn p n).i3c = p.i3c ∧ (lightOn p n).out =
    p.out ∧ (lightOn p n).pba = p.pba ∧ (lightOn p n).freeCtr = p.freeCtr := by
  simp [lightOn]
@[simp] theorem phaseDone_keeps (p : Pkg) (n : Nat) : (phaseDone p n).pins = p.pins ∧ (phaseDone p n).tick = p.tick ∧
    (phaseDone p n).glb = p.glb ∧ (phaseDone p n).scn = p.scn ∧ (phaseDone p n).arrays = p.arrays ∧ (phaseDone p n).ldr =
    p.ldr ∧ (phaseDone p n).pens = p.pens ∧ (phaseDone p n).nvw = p.nvw ∧ (phaseDone p n).ctxs = p.ctxs ∧ (phaseDone p
    n).numVfs = p.numVfs ∧ (phaseDone p n).reqs = p.reqs ∧ (phaseDone p n).lastGen = p.lastGen ∧ (phaseDone p n).rq = p.rq ∧
    (phaseDone p n).kvp = p.kvp ∧ (phaseDone p n).lsh = p.lsh ∧ (phaseDone p n).hnd = p.hnd ∧ (phaseDone p n).mgt = p.mgt ∧
    (phaseDone p n).i3c = p.i3c ∧ (phaseDone p n).freeCtr = p.freeCtr := by
  simp [phaseDone]
@[simp] theorem phaseOverrun_keeps (p : Pkg) (n : Nat) : (phaseOverrun p n).pins = p.pins ∧ (phaseOverrun p n).tick = p.tick ∧
    (phaseOverrun p n).glb = p.glb ∧ (phaseOverrun p n).scn = p.scn ∧ (phaseOverrun p n).arrays = p.arrays ∧ (phaseOverrun p
    n).ldr = p.ldr ∧ (phaseOverrun p n).pens = p.pens ∧ (phaseOverrun p n).nvw = p.nvw ∧ (phaseOverrun p n).ctxs = p.ctxs ∧
    (phaseOverrun p n).numVfs = p.numVfs ∧ (phaseOverrun p n).reqs = p.reqs ∧ (phaseOverrun p n).lastGen = p.lastGen ∧
    (phaseOverrun p n).rq = p.rq ∧ (phaseOverrun p n).kvp = p.kvp ∧ (phaseOverrun p n).lsh = p.lsh ∧ (phaseOverrun p n).hnd =
    p.hnd ∧ (phaseOverrun p n).mgt = p.mgt ∧ (phaseOverrun p n).i3c = p.i3c ∧ (phaseOverrun p n).out = p.out ∧ (phaseOverrun p
    n).pba = p.pba ∧ (phaseOverrun p n).freeCtr = p.freeCtr := by
  simp [phaseOverrun]
@[simp] theorem inspectEnd_keeps (p : Pkg) (n status : Nat) : (inspectEnd p n status).pins = p.pins ∧ (inspectEnd p n
    status).tick = p.tick ∧ (inspectEnd p n status).glb = p.glb ∧ (inspectEnd p n status).arrays = p.arrays ∧ (inspectEnd p n
    status).ldr = p.ldr ∧ (inspectEnd p n status).pens = p.pens ∧ (inspectEnd p n status).nvw = p.nvw ∧ (inspectEnd p n
    status).ctxs = p.ctxs ∧ (inspectEnd p n status).numVfs = p.numVfs ∧ (inspectEnd p n status).reqs = p.reqs ∧ (inspectEnd p
    n status).lastGen = p.lastGen ∧ (inspectEnd p n status).rq = p.rq ∧ (inspectEnd p n status).kvp = p.kvp ∧ (inspectEnd p n
    status).lsh = p.lsh ∧ (inspectEnd p n status).hnd = p.hnd ∧ (inspectEnd p n status).mgt = p.mgt ∧ (inspectEnd p n
    status).freeCtr = p.freeCtr := by
  unfold inspectEnd; (repeat' split) <;> (simp_all; done)
@[simp] theorem portDownOp_keeps (p : Pkg) (n cause : Nat) : (portDownOp p n cause).pins = p.pins ∧ (portDownOp p n
    cause).tick = p.tick ∧ (portDownOp p n cause).glb = p.glb ∧ (portDownOp p n cause).arrays = p.arrays ∧ (portDownOp p n
    cause).ldr = p.ldr ∧ (portDownOp p n cause).pens = p.pens ∧ (portDownOp p n cause).nvw = p.nvw ∧ (portDownOp p n
    cause).ctxs = p.ctxs ∧ (portDownOp p n cause).numVfs = p.numVfs ∧ (portDownOp p n cause).reqs = p.reqs ∧ (portDownOp p n
    cause).lastGen = p.lastGen ∧ (portDownOp p n cause).rq = p.rq ∧ (portDownOp p n cause).kvp = p.kvp ∧ (portDownOp p n
    cause).lsh = p.lsh ∧ (portDownOp p n cause).hnd = p.hnd ∧ (portDownOp p n cause).mgt = p.mgt ∧ (portDownOp p n
    cause).freeCtr = p.freeCtr := by
  simp [portDownOp]
@[simp] theorem goDark_keeps (p : Pkg) (n : ℕ) (dark : ℕ) : (goDark p n dark).pins = p.pins ∧ (goDark p n dark).tick = p.tick
    ∧ (goDark p n dark).glb = p.glb ∧ (goDark p n dark).scn = p.scn ∧ (goDark p n dark).arrays = p.arrays ∧ (goDark p n
    dark).ldr = p.ldr ∧ (goDark p n dark).pens = p.pens ∧ (goDark p n dark).nvw = p.nvw ∧ (goDark p n dark).ctxs = p.ctxs ∧
    (goDark p n dark).numVfs = p.numVfs ∧ (goDark p n dark).reqs = p.reqs ∧ (goDark p n dark).lastGen = p.lastGen ∧ (goDark p
    n dark).rq = p.rq ∧ (goDark p n dark).kvp = p.kvp ∧ (goDark p n dark).lsh = p.lsh ∧ (goDark p n dark).hnd = p.hnd ∧
    (goDark p n dark).mgt = p.mgt ∧ (goDark p n dark).i3c = p.i3c ∧ (goDark p n dark).out = p.out ∧ (goDark p n dark).pba =
    p.pba ∧ (goDark p n dark).freeCtr = p.freeCtr := by
  simp [goDark]
@[simp] theorem portTick_keeps (p : Pkg) (n : ℕ) : (portTick p n).pins = p.pins ∧ (portTick p n).tick = p.tick ∧ (portTick p
    n).glb = p.glb ∧ (portTick p n).scn = p.scn ∧ (portTick p n).arrays = p.arrays ∧ (portTick p n).ldr = p.ldr ∧ (portTick p
    n).pens = p.pens ∧ (portTick p n).nvw = p.nvw ∧ (portTick p n).ctxs = p.ctxs ∧ (portTick p n).numVfs = p.numVfs ∧
    (portTick p n).reqs = p.reqs ∧ (portTick p n).lastGen = p.lastGen ∧ (portTick p n).rq = p.rq ∧ (portTick p n).kvp = p.kvp
    ∧ (portTick p n).lsh = p.lsh ∧ (portTick p n).hnd = p.hnd ∧ (portTick p n).mgt = p.mgt ∧ (portTick p n).i3c = p.i3c ∧
    (portTick p n).freeCtr = p.freeCtr := by
  simp [portTick]
@[simp] theorem portsTick_keeps (p : Pkg) : (portsTick p).pins = p.pins ∧ (portsTick p).tick = p.tick ∧ (portsTick p).glb =
    p.glb ∧ (portsTick p).ldr = p.ldr ∧ (portsTick p).numVfs = p.numVfs ∧ (portsTick p).lastGen = p.lastGen ∧ (portsTick
    p).kvp = p.kvp ∧ (portsTick p).mgt = p.mgt ∧ (portsTick p).i3c = p.i3c := by
  simp [portsTick]
@[simp] theorem portEnableOp_keeps (p : Pkg) (n : Nat) (on : Bool) : (portEnableOp p n on).pins = p.pins ∧ (portEnableOp p n
    on).tick = p.tick ∧ (portEnableOp p n on).glb = p.glb ∧ (portEnableOp p n on).arrays = p.arrays ∧ (portEnableOp p n
    on).ldr = p.ldr ∧ (portEnableOp p n on).pens = p.pens ∧ (portEnableOp p n on).nvw = p.nvw ∧ (portEnableOp p n on).ctxs =
    p.ctxs ∧ (portEnableOp p n on).numVfs = p.numVfs ∧ (portEnableOp p n on).reqs = p.reqs ∧ (portEnableOp p n on).lastGen =
    p.lastGen ∧ (portEnableOp p n on).rq = p.rq ∧ (portEnableOp p n on).kvp = p.kvp ∧ (portEnableOp p n on).lsh = p.lsh ∧
    (portEnableOp p n on).hnd = p.hnd ∧ (portEnableOp p n on).mgt = p.mgt ∧ (portEnableOp p n on).freeCtr = p.freeCtr := by
  simp [portEnableOp]
end Sys2Proof.Machine

end
end

