-- ==== Sys2Proof/Laws/Keep4.lean ====
section
/-! SUPPORT. What each operation on the package leaves as it is (part 4 of 4): one lemma per operation, with every part of the
package that it does not write, and for the parts it writes whether READY, SELF_TEST_DONE, FW_FAULT and the lock of the tick stand. -/

section

set_option maxRecDepth 4000
set_option linter.all false

namespace Sys2Proof.Machine

@[simp] theorem planEffect_keeps (p : Pkg) (x : Plan) : (planEffect p x).pins = p.pins ∧ (planEffect p x).glb = p.glb ∧
    (planEffect p x).arrays = p.arrays ∧ (planEffect p x).ldr = p.ldr ∧ (planEffect p x).pens = p.pens ∧ (planEffect p x).nvw
    = p.nvw ∧ (planEffect p x).ctxs = p.ctxs ∧ (planEffect p x).numVfs = p.numVfs ∧ (planEffect p x).reqs = p.reqs ∧
    (planEffect p x).lastGen = p.lastGen ∧ (planEffect p x).rq = p.rq ∧ (planEffect p x).kvp = p.kvp ∧ (planEffect p x).lsh =
    p.lsh ∧ (planEffect p x).hnd = p.hnd ∧ (planEffect p x).mgt = p.mgt ∧ (planEffect p x).freeCtr = p.freeCtr := ⟨by
  unfold planEffect; dsimp only; repeat' apply And.intro
  all_goals repeat' split
  all_goals try simp only [log_keeps, modFab_keeps, modPort_keeps, gainAlign_keeps, emptyPort_keeps, evaluate_keeps, startTrain_keeps, inspectEnd_keeps, id_eq]
  all_goals repeat' (first
    | refine Eq.trans (forAll_pins _ _ _ ?_) ?_
    | refine Eq.trans (foldl_pins _ _ _ ?_) ?_
    | refine Eq.trans (foldlP_pins _ _ _ ?_) ?_)
  all_goals try intro q x
  all_goals try dsimp only
  all_goals repeat' split
  all_goals first | rfl | (simp_all; done),
    by
  unfold planEffect; dsimp only; repeat' apply And.intro
  all_goals repeat' split
  all_goals try simp only [log_keeps, modFab_keeps, modPort_keeps, gainAlign_keeps, emptyPort_keeps, evaluate_keeps, startTrain_keeps, inspectEnd_keeps, id_eq]
  all_goals repeat' (first
    | refine Eq.trans (forAll_glb _ _ _ ?_) ?_
    | refine Eq.trans (foldl_glb _ _ _ ?_) ?_
    | refine Eq.trans (foldlP_glb _ _ _ ?_) ?_)
  all_goals try intro q x
  all_goals try dsimp only
  all_goals repeat' split
  all_goals first | rfl | (simp_all; done),
    by
  unfold planEffect; dsimp only; repeat' apply And.intro
  all_goals repeat' split
  all_goals try simp only [log_keeps, modFab_keeps, modPort_keeps, gainAlign_keeps, emptyPort_keeps, evaluate_keeps, startTrain_keeps, inspectEnd_keeps, id_eq]
  all_goals repeat' (first
    | refine Eq.trans (forAll_arrays _ _ _ ?_) ?_
    | refine Eq.trans (foldl_arrays _ _ _ ?_) ?_
    | refine Eq.trans (foldlP_arrays _ _ _ ?_) ?_)
  all_goals try intro q x
  all_goals try dsimp only
  all_goals repeat' split
  all_goals first | rfl | (simp_all; done),
    by
  unfold planEffect; dsimp only; repeat' apply And.intro
  all_goals repeat' split
  all_goals try simp only [log_keeps, modFab_keeps, modPort_keeps, gainAlign_keeps, emptyPort_keeps, evaluate_keeps, startTrain_keeps, inspectEnd_keeps, id_eq]
  all_goals repeat' (first
    | refine Eq.trans (forAll_ldr _ _ _ ?_) ?_
    | refine Eq.trans (foldl_ldr _ _ _ ?_) ?_
    | refine Eq.trans (foldlP_ldr _ _ _ ?_) ?_)
  all_goals try intro q x
  all_goals try dsimp only
  all_goals repeat' split
  all_goals first | rfl | (simp_all; done),
    by
  unfold planEffect; dsimp only; repeat' apply And.intro
  all_goals repeat' split
  all_goals try simp only [log_keeps, modFab_keeps, modPort_keeps, gainAlign_keeps, emptyPort_keeps, evaluate_keeps, startTrain_keeps, inspectEnd_keeps, id_eq]
  all_goals repeat' (first
    | refine Eq.trans (forAll_pens _ _ _ ?_) ?_
    | refine Eq.trans (foldl_pens _ _ _ ?_) ?_
    | refine Eq.trans (foldlP_pens _ _ _ ?_) ?_)
  all_goals try intro q x
  all_goals try dsimp only
  all_goals repeat' split
  all_goals first | rfl | (simp_all; done),
    by
  unfold planEffect; dsimp only; repeat' apply And.intro
  all_goals repeat' split
  all_goals try simp only [log_keeps, modFab_keeps, modPort_keeps, gainAlign_keeps, emptyPort_keeps, evaluate_keeps, startTrain_keeps, inspectEnd_keeps, id_eq]
  all_goals repeat' (first
    | refine Eq.trans (forAll_nvw _ _ _ ?_) ?_
    | refine Eq.trans (foldl_nvw _ _ _ ?_) ?_
    | refine Eq.trans (foldlP_nvw _ _ _ ?_) ?_)
  all_goals try intro q x
  all_goals try dsimp only
  all_goals repeat' split
  all_goals first | rfl | (simp_all; done),
    by
  unfold planEffect; dsimp only; repeat' apply And.intro
  all_goals repeat' split
  all_goals try simp only [log_keeps, modFab_keeps, modPort_keeps, gainAlign_keeps, emptyPort_keeps, evaluate_keeps, startTrain_keeps, inspectEnd_keeps, id_eq]
  all_goals repeat' (first
    | refine Eq.trans (forAll_ctxs _ _ _ ?_) ?_
    | refine Eq.trans (foldl_ctxs _ _ _ ?_) ?_
    | refine Eq.trans (foldlP_ctxs _ _ _ ?_) ?_)
  all_goals try intro q x
  all_goals try dsimp only
  all_goals repeat' split
  all_goals first | rfl | (simp_all; done),
    by
  unfold planEffect; dsimp only; repeat' apply And.intro
  all_goals repeat' split
  all_goals try simp only [log_keeps, modFab_keeps, modPort_keeps, gainAlign_keeps, emptyPort_keeps, evaluate_keeps, startTrain_keeps, inspectEnd_keeps, id_eq]
  all_goals repeat' (first
    | refine Eq.trans (forAll_numVfs _ _ _ ?_) ?_
    | refine Eq.trans (foldl_numVfs _ _ _ ?_) ?_
    | refine Eq.trans (foldlP_numVfs _ _ _ ?_) ?_)
  all_goals try intro q x
  all_goals try dsimp only
  all_goals repeat' split
  all_goals first | rfl | (simp_all; done),
    by
  unfold planEffect; dsimp only; repeat' apply And.intro
  all_goals repeat' split
  all_goals try simp only [log_keeps, modFab_keeps, modPort_keeps, gainAlign_keeps, emptyPort_keeps, evaluate_keeps, startTrain_keeps, inspectEnd_keeps, id_eq]
  all_goals repeat' (first
    | refine Eq.trans (forAll_reqs _ _ _ ?_) ?_
    | refine Eq.trans (foldl_reqs _ _ _ ?_) ?_
    | refine Eq.trans (foldlP_reqs _ _ _ ?_) ?_)
  all_goals try intro q x
  all_goals try dsimp only
  all_goals repeat' split
  all_goals first | rfl | (simp_all; done),
    by
  unfold planEffect; dsimp only; repeat' apply And.intro
  all_goals repeat' split
  all_goals try simp only [log_keeps, modFab_keeps, modPort_keeps, gainAlign_keeps, emptyPort_keeps, evaluate_keeps, startTrain_keeps, inspectEnd_keeps, id_eq]
  all_goals repeat' (first
    | refine Eq.trans (forAll_lastGen _ _ _ ?_) ?_
    | refine Eq.trans (foldl_lastGen _ _ _ ?_) ?_
    | refine Eq.trans (foldlP_lastGen _ _ _ ?_) ?_)
  all_goals try intro q x
  all_goals try dsimp only
  all_goals repeat' split
  all_goals first | rfl | (simp_all; done),
    by
  unfold planEffect; dsimp only; repeat' apply And.intro
  all_goals repeat' split
  all_goals try simp only [log_keeps, modFab_keeps, modPort_keeps, gainAlign_keeps, emptyPort_keeps, evaluate_keeps, startTrain_keeps, inspectEnd_keeps, id_eq]
  all_goals repeat' (first
    | refine Eq.trans (forAll_rq _ _ _ ?_) ?_
    | refine Eq.trans (foldl_rq _ _ _ ?_) ?_
    | refine Eq.trans (foldlP_rq _ _ _ ?_) ?_)
  all_goals try intro q x
  all_goals try dsimp only
  all_goals repeat' split
  all_goals first | rfl | (simp_all; done),
    by
  unfold planEffect; dsimp only; repeat' apply And.intro
  all_goals repeat' split
  all_goals try simp only [log_keeps, modFab_keeps, modPort_keeps, gainAlign_keeps, emptyPort_keeps, evaluate_keeps, startTrain_keeps, inspectEnd_keeps, id_eq]
  all_goals repeat' (first
    | refine Eq.trans (forAll_kvp _ _ _ ?_) ?_
    | refine Eq.trans (foldl_kvp _ _ _ ?_) ?_
    | refine Eq.trans (foldlP_kvp _ _ _ ?_) ?_)
  all_goals try intro q x
  all_goals try dsimp only
  all_goals repeat' split
  all_goals first | rfl | (simp_all; done),
    by
  unfold planEffect; dsimp only; repeat' apply And.intro
  all_goals repeat' split
  all_goals try simp only [log_keeps, modFab_keeps, modPort_keeps, gainAlign_keeps, emptyPort_keeps, evaluate_keeps, startTrain_keeps, inspectEnd_keeps, id_eq]
  all_goals repeat' (first
    | refine Eq.trans (forAll_lsh _ _ _ ?_) ?_
    | refine Eq.trans (foldl_lsh _ _ _ ?_) ?_
    | refine Eq.trans (foldlP_lsh _ _ _ ?_) ?_)
  all_goals try intro q x
  all_goals try dsimp only
  all_goals repeat' split
  all_goals first | rfl | (simp_all; done),
    by
  unfold planEffect; dsimp only; repeat' apply And.intro
  all_goals repeat' split
  all_goals try simp only [log_keeps, modFab_keeps, modPort_keeps, gainAlign_keeps, emptyPort_keeps, evaluate_keeps, startTrain_keeps, inspectEnd_keeps, id_eq]
  all_goals repeat' (first
    | refine Eq.trans (forAll_hnd _ _ _ ?_) ?_
    | refine Eq.trans (foldl_hnd _ _ _ ?_) ?_
    | refine Eq.trans (foldlP_hnd _ _ _ ?_) ?_)
  all_goals try intro q x
  all_goals try dsimp only
  all_goals repeat' split
  all_goals first | rfl | (simp_all; done),
    by
  unfold planEffect; dsimp only; repeat' apply And.intro
  all_goals repeat' split
  all_goals try simp only [log_keeps, modFab_keeps, modPort_keeps, gainAlign_keeps, emptyPort_keeps, evaluate_keeps, startTrain_keeps, inspectEnd_keeps, id_eq]
  all_goals repeat' (first
    | refine Eq.trans (forAll_mgt _ _ _ ?_) ?_
    | refine Eq.trans (foldl_mgt _ _ _ ?_) ?_
    | refine Eq.trans (foldlP_mgt _ _ _ ?_) ?_)
  all_goals try intro q x
  all_goals try dsimp only
  all_goals repeat' split
  all_goals first | rfl | (simp_all; done),
    by
  unfold planEffect; dsimp only; repeat' apply And.intro
  all_goals repeat' split
  all_goals try simp only [log_keeps, modFab_keeps, modPort_keeps, gainAlign_keeps, emptyPort_keeps, evaluate_keeps, startTrain_keeps, inspectEnd_keeps, id_eq]
  all_goals repeat' (first
    | refine Eq.trans (forAll_freeCtr _ _ _ ?_) ?_
    | refine Eq.trans (foldl_freeCtr _ _ _ ?_) ?_
    | refine Eq.trans (foldlP_freeCtr _ _ _ ?_) ?_)
  all_goals try intro q x
  all_goals try dsimp only
  all_goals repeat' split
  all_goals first | rfl | (simp_all; done)⟩
@[simp] theorem planEffect_vital (p : Pkg) (x : Plan) : (planEffect p x).tick.refclkOk = p.tick.refclkOk ∧ (planEffect p
    x).tick.phaseLocked = p.tick.phaseLocked ∧ (planEffect p x).tick.holdover = p.tick.holdover := by
  unfold planEffect; dsimp only; repeat' apply And.intro
  all_goals repeat' split
  all_goals try simp only [log_keeps, modFab_keeps, modPort_keeps, gainAlign_keeps, emptyPort_keeps, evaluate_keeps, inspectEnd_keeps, id_eq]
  all_goals repeat' (first
    | refine Eq.trans (forAll_tickRefclkOk _ _ _ ?_) ?_
    | refine Eq.trans (forAll_tickPhaseLocked _ _ _ ?_) ?_
    | refine Eq.trans (forAll_tickHoldover _ _ _ ?_) ?_
    | refine Eq.trans (foldl_tickRefclkOk _ _ _ ?_) ?_
    | refine Eq.trans (foldl_tickPhaseLocked _ _ _ ?_) ?_
    | refine Eq.trans (foldl_tickHoldover _ _ _ ?_) ?_
    | refine Eq.trans (foldlP_tickRefclkOk _ _ _ ?_) ?_
    | refine Eq.trans (foldlP_tickPhaseLocked _ _ _ ?_) ?_
    | refine Eq.trans (foldlP_tickHoldover _ _ _ ?_) ?_)
  all_goals try intro q x
  all_goals try dsimp only
  all_goals repeat' split
  all_goals first | rfl | (simp_all; done)
@[simp] theorem reevaluate_keeps (p : Pkg) (n : Nat) : (reevaluate p n).pins = p.pins ∧ (reevaluate p n).tick = p.tick ∧
    (reevaluate p n).glb = p.glb ∧ (reevaluate p n).arrays = p.arrays ∧ (reevaluate p n).ldr = p.ldr ∧ (reevaluate p n).pens =
    p.pens ∧ (reevaluate p n).nvw = p.nvw ∧ (reevaluate p n).ctxs = p.ctxs ∧ (reevaluate p n).numVfs = p.numVfs ∧ (reevaluate
    p n).reqs = p.reqs ∧ (reevaluate p n).lastGen = p.lastGen ∧ (reevaluate p n).rq = p.rq ∧ (reevaluate p n).kvp = p.kvp ∧
    (reevaluate p n).lsh = p.lsh ∧ (reevaluate p n).hnd = p.hnd ∧ (reevaluate p n).mgt = p.mgt ∧ (reevaluate p n).i3c = p.i3c
    ∧ (reevaluate p n).freeCtr = p.freeCtr := by
  unfold reevaluate; dsimp only; (repeat' split) <;> (simp_all; done)
@[simp] theorem countBin_keeps (p : Pkg) (lane : ℕ) (bin : ℕ) (bits : ℕ) (errors : ℕ) : (countBin p lane bin bits errors).pins
    = p.pins ∧ (countBin p lane bin bits errors).tick = p.tick ∧ (countBin p lane bin bits errors).glb = p.glb ∧ (countBin p
    lane bin bits errors).scn = p.scn ∧ (countBin p lane bin bits errors).arrays = p.arrays ∧ (countBin p lane bin bits
    errors).ldr = p.ldr ∧ (countBin p lane bin bits errors).pens = p.pens ∧ (countBin p lane bin bits errors).nvw = p.nvw ∧
    (countBin p lane bin bits errors).ctxs = p.ctxs ∧ (countBin p lane bin bits errors).numVfs = p.numVfs ∧ (countBin p lane
    bin bits errors).reqs = p.reqs ∧ (countBin p lane bin bits errors).lastGen = p.lastGen ∧ (countBin p lane bin bits
    errors).rq = p.rq ∧ (countBin p lane bin bits errors).kvp = p.kvp ∧ (countBin p lane bin bits errors).lsh = p.lsh ∧
    (countBin p lane bin bits errors).hnd = p.hnd ∧ (countBin p lane bin bits errors).mgt = p.mgt ∧ (countBin p lane bin bits
    errors).i3c = p.i3c ∧ (countBin p lane bin bits errors).out = p.out ∧ (countBin p lane bin bits errors).pba = p.pba ∧
    (countBin p lane bin bits errors).freeCtr = p.freeCtr := by
  simp [countBin]
@[simp] theorem countWord_keeps (p : Pkg) (n : ℕ) (errs : List ℕ) : (countWord p n errs).pins = p.pins ∧ (countWord p n
    errs).tick = p.tick ∧ (countWord p n errs).glb = p.glb ∧ (countWord p n errs).scn = p.scn ∧ (countWord p n errs).arrays =
    p.arrays ∧ (countWord p n errs).ldr = p.ldr ∧ (countWord p n errs).pens = p.pens ∧ (countWord p n errs).nvw = p.nvw ∧
    (countWord p n errs).ctxs = p.ctxs ∧ (countWord p n errs).numVfs = p.numVfs ∧ (countWord p n errs).reqs = p.reqs ∧
    (countWord p n errs).lastGen = p.lastGen ∧ (countWord p n errs).rq = p.rq ∧ (countWord p n errs).kvp = p.kvp ∧ (countWord
    p n errs).lsh = p.lsh ∧ (countWord p n errs).hnd = p.hnd ∧ (countWord p n errs).mgt = p.mgt ∧ (countWord p n errs).i3c =
    p.i3c ∧ (countWord p n errs).out = p.out ∧ (countWord p n errs).pba = p.pba :=
    by
  simp [countWord]
@[simp] theorem linkFields_keeps (p : Pkg) (n : Nat) (b : Bytes) : (linkFields p n b).pins = p.pins ∧ (linkFields p n b).tick
    = p.tick ∧ (linkFields p n b).glb = p.glb ∧ (linkFields p n b).scn = p.scn ∧ (linkFields p n b).arrays = p.arrays ∧
    (linkFields p n b).ldr = p.ldr ∧ (linkFields p n b).pens = p.pens ∧ (linkFields p n b).nvw = p.nvw ∧ (linkFields p n
    b).ctxs = p.ctxs ∧ (linkFields p n b).numVfs = p.numVfs ∧ (linkFields p n b).reqs = p.reqs ∧ (linkFields p n b).lastGen =
    p.lastGen ∧ (linkFields p n b).rq = p.rq ∧ (linkFields p n b).kvp = p.kvp ∧ (linkFields p n b).lsh = p.lsh ∧ (linkFields p
    n b).hnd = p.hnd ∧ (linkFields p n b).mgt = p.mgt ∧ (linkFields p n b).i3c = p.i3c ∧ (linkFields p n b).freeCtr =
    p.freeCtr := by
  simp [linkFields]
@[simp] theorem refuseFlit_keeps (p : Pkg) (n : ℕ) (again : Bool) : (refuseFlit p n again).pins = p.pins ∧ (refuseFlit p n
    again).tick = p.tick ∧ (refuseFlit p n again).glb = p.glb ∧ (refuseFlit p n again).scn = p.scn ∧ (refuseFlit p n
    again).arrays = p.arrays ∧ (refuseFlit p n again).ldr = p.ldr ∧ (refuseFlit p n again).pens = p.pens ∧ (refuseFlit p n
    again).nvw = p.nvw ∧ (refuseFlit p n again).ctxs = p.ctxs ∧ (refuseFlit p n again).numVfs = p.numVfs ∧ (refuseFlit p n
    again).reqs = p.reqs ∧ (refuseFlit p n again).lastGen = p.lastGen ∧ (refuseFlit p n again).rq = p.rq ∧ (refuseFlit p n
    again).kvp = p.kvp ∧ (refuseFlit p n again).lsh = p.lsh ∧ (refuseFlit p n again).hnd = p.hnd ∧ (refuseFlit p n again).mgt
    = p.mgt ∧ (refuseFlit p n again).i3c = p.i3c ∧ (refuseFlit p n again).freeCtr = p.freeCtr := by
  simp [refuseFlit]
@[simp] theorem acceptFlit_keeps (p : Pkg) (n : ℕ) (b : Bytes) : (acceptFlit p n b).pins = p.pins ∧ (acceptFlit p n b).tick =
    p.tick ∧ (acceptFlit p n b).glb = p.glb ∧ (acceptFlit p n b).scn = p.scn ∧ (acceptFlit p n b).arrays = p.arrays ∧
    (acceptFlit p n b).ldr = p.ldr ∧ (acceptFlit p n b).pens = p.pens ∧ (acceptFlit p n b).nvw = p.nvw ∧ (acceptFlit p n
    b).ctxs = p.ctxs ∧ (acceptFlit p n b).numVfs = p.numVfs ∧ (acceptFlit p n b).reqs = p.reqs ∧ (acceptFlit p n b).lastGen =
    p.lastGen ∧ (acceptFlit p n b).rq = p.rq ∧ (acceptFlit p n b).kvp = p.kvp ∧ (acceptFlit p n b).lsh = p.lsh ∧ (acceptFlit p
    n b).hnd = p.hnd ∧ (acceptFlit p n b).mgt = p.mgt ∧ (acceptFlit p n b).i3c = p.i3c ∧ (acceptFlit p n b).freeCtr =
    p.freeCtr := by
  simp [acceptFlit]
@[simp] theorem acceptFlit_vital (p : Pkg) (n : ℕ) (b : Bytes) : (acceptFlit p n b).tick.refclkOk = p.tick.refclkOk ∧
    (acceptFlit p n b).tick.phaseLocked = p.tick.phaseLocked ∧ (acceptFlit p n b).tick.holdover = p.tick.holdover := by
  simp [acceptFlit]
@[simp] theorem flitIn_keeps (p : Pkg) (n : ℕ) (b : Bytes) (errs : List ℕ) : (flitIn p n b errs).pins = p.pins ∧ (flitIn p n b
    errs).tick = p.tick ∧ (flitIn p n b errs).glb = p.glb ∧ (flitIn p n b errs).scn = p.scn ∧ (flitIn p n b errs).arrays =
    p.arrays ∧ (flitIn p n b errs).ldr = p.ldr ∧ (flitIn p n b errs).pens = p.pens ∧ (flitIn p n b errs).nvw = p.nvw ∧ (flitIn
    p n b errs).ctxs = p.ctxs ∧ (flitIn p n b errs).numVfs = p.numVfs ∧ (flitIn p n b errs).reqs = p.reqs ∧ (flitIn p n b
    errs).lastGen = p.lastGen ∧ (flitIn p n b errs).rq = p.rq ∧ (flitIn p n b errs).kvp = p.kvp ∧ (flitIn p n b errs).lsh =
    p.lsh ∧ (flitIn p n b errs).hnd = p.hnd ∧ (flitIn p n b errs).mgt = p.mgt ∧ (flitIn p n b errs).i3c = p.i3c := by
  simp [flitIn]
@[simp] theorem forwardIn_keeps (p : Pkg) (port : Nat) (b : Bytes) : (forwardIn p port b).pins = p.pins ∧ (forwardIn p port
    b).tick = p.tick ∧ (forwardIn p port b).glb = p.glb ∧ (forwardIn p port b).scn = p.scn ∧ (forwardIn p port b).arrays =
    p.arrays ∧ (forwardIn p port b).ldr = p.ldr ∧ (forwardIn p port b).pens = p.pens ∧ (forwardIn p port b).nvw = p.nvw ∧
    (forwardIn p port b).ctxs = p.ctxs ∧ (forwardIn p port b).numVfs = p.numVfs ∧ (forwardIn p port b).reqs = p.reqs ∧
    (forwardIn p port b).lastGen = p.lastGen ∧ (forwardIn p port b).rq = p.rq ∧ (forwardIn p port b).kvp = p.kvp ∧ (forwardIn
    p port b).lsh = p.lsh ∧ (forwardIn p port b).hnd = p.hnd ∧ (forwardIn p port b).mgt = p.mgt ∧ (forwardIn p port b).i3c =
    p.i3c ∧ (forwardIn p port b).freeCtr = p.freeCtr := by
  simp [forwardIn]
@[simp] theorem imprintWriteOp_keeps (p : Pkg) (c : Nat) (d : Desc) : (imprintWriteOp p c d).pins = p.pins ∧ (imprintWriteOp p
    c d).tick = p.tick ∧ (imprintWriteOp p c d).glb = p.glb ∧ (imprintWriteOp p c d).arrays = p.arrays ∧ (imprintWriteOp p c
    d).ldr = p.ldr ∧ (imprintWriteOp p c d).pens = p.pens ∧ (imprintWriteOp p c d).numVfs = p.numVfs ∧ (imprintWriteOp p c
    d).reqs = p.reqs ∧ (imprintWriteOp p c d).lastGen = p.lastGen ∧ (imprintWriteOp p c d).rq = p.rq ∧ (imprintWriteOp p c
    d).kvp = p.kvp ∧ (imprintWriteOp p c d).lsh = p.lsh ∧ (imprintWriteOp p c d).mgt = p.mgt ∧ (imprintWriteOp p c d).i3c =
    p.i3c := by
  unfold imprintWriteOp; (repeat' split) <;> (simp_all; done)
@[simp] theorem imprintRetireOp_keeps (p : Pkg) (c : Nat) (d : Desc) : (imprintRetireOp p c d).pins = p.pins ∧
    (imprintRetireOp p c d).tick = p.tick ∧ (imprintRetireOp p c d).glb = p.glb ∧ (imprintRetireOp p c d).arrays = p.arrays ∧
    (imprintRetireOp p c d).ldr = p.ldr ∧ (imprintRetireOp p c d).pens = p.pens ∧ (imprintRetireOp p c d).numVfs = p.numVfs ∧
    (imprintRetireOp p c d).reqs = p.reqs ∧ (imprintRetireOp p c d).lastGen = p.lastGen ∧ (imprintRetireOp p c d).rq = p.rq ∧
    (imprintRetireOp p c d).kvp = p.kvp ∧ (imprintRetireOp p c d).lsh = p.lsh ∧ (imprintRetireOp p c d).mgt = p.mgt ∧
    (imprintRetireOp p c d).i3c = p.i3c := by
  unfold imprintRetireOp; (repeat' split) <;> (simp_all; done)
@[simp] theorem imprintEnd_keeps (p : Pkg) (i : Imprint) (payload : Option Bytes) : (imprintEnd p i payload).pins = p.pins ∧
    (imprintEnd p i payload).tick = p.tick ∧ (imprintEnd p i payload).glb = p.glb ∧ (imprintEnd p i payload).arrays = p.arrays
    ∧ (imprintEnd p i payload).ldr = p.ldr ∧ (imprintEnd p i payload).pens = p.pens ∧ (imprintEnd p i payload).numVfs =
    p.numVfs ∧ (imprintEnd p i payload).reqs = p.reqs ∧ (imprintEnd p i payload).lastGen = p.lastGen ∧ (imprintEnd p i
    payload).rq = p.rq ∧ (imprintEnd p i payload).kvp = p.kvp ∧ (imprintEnd p i payload).lsh = p.lsh ∧ (imprintEnd p i
    payload).mgt = p.mgt ∧ (imprintEnd p i payload).i3c = p.i3c := by
  unfold imprintEnd; dsimp only; (repeat' split) <;> (simp_all; done)
@[simp] theorem fetchBlock_keeps (p : Pkg) (k off : Nat) (tried : Option Nat) : (fetchBlock p k off tried).pins = p.pins ∧
    (fetchBlock p k off tried).tick = p.tick ∧ (fetchBlock p k off tried).glb = p.glb ∧ (fetchBlock p k off tried).ldr = p.ldr
    ∧ (fetchBlock p k off tried).numVfs = p.numVfs ∧ (fetchBlock p k off tried).lastGen = p.lastGen ∧ (fetchBlock p k off
    tried).kvp = p.kvp ∧ (fetchBlock p k off tried).mgt = p.mgt ∧ (fetchBlock p k off tried).i3c = p.i3c := by
  unfold fetchBlock; (repeat' split) <;> (simp_all; done)
@[simp] theorem nvLose_keeps (p : Pkg) (stack : ℕ) : (nvLose p stack).pins = p.pins ∧ (nvLose p stack).tick = p.tick ∧ (nvLose
    p stack).arrays = p.arrays ∧ (nvLose p stack).ldr = p.ldr ∧ (nvLose p stack).pens = p.pens ∧ (nvLose p stack).nvw = p.nvw
    ∧ (nvLose p stack).numVfs = p.numVfs ∧ (nvLose p stack).reqs = p.reqs ∧ (nvLose p stack).lastGen = p.lastGen ∧ (nvLose p
    stack).rq = p.rq ∧ (nvLose p stack).kvp = p.kvp ∧ (nvLose p stack).fab = p.fab ∧ (nvLose p stack).lsh = p.lsh ∧ (nvLose p
    stack).hnd = p.hnd ∧ (nvLose p stack).mgt = p.mgt ∧ (nvLose p stack).i3c = p.i3c := by
  simp [nvLose]
@[simp] theorem nvLose_vital (p : Pkg) (stack : ℕ) : (nvLose p stack).glb.ready = p.glb.ready ∧ (nvLose p
    stack).glb.selfTestDone = p.glb.selfTestDone ∧ (nvLose p stack).glb.fwFault = p.glb.fwFault := by
  simp [nvLose]
@[simp] theorem nvStackFail_keeps (p : Pkg) (stack : Nat) : (nvStackFail p stack).pins = p.pins ∧ (nvStackFail p stack).tick =
    p.tick ∧ (nvStackFail p stack).ldr = p.ldr ∧ (nvStackFail p stack).numVfs = p.numVfs ∧ (nvStackFail p stack).lastGen =
    p.lastGen ∧ (nvStackFail p stack).kvp = p.kvp ∧ (nvStackFail p stack).mgt = p.mgt ∧ (nvStackFail p stack).i3c = p.i3c :=
    by
  simp [nvStackFail]
@[simp] theorem nvStackFail_vital (p : Pkg) (stack : Nat) : (nvStackFail p stack).glb.ready = p.glb.ready ∧ (nvStackFail p
    stack).glb.selfTestDone = p.glb.selfTestDone ∧ (nvStackFail p stack).glb.fwFault = p.glb.fwFault := by
  simp [nvStackFail]
@[simp] theorem lineCorrected_keeps (p : Pkg) (k : ℕ) (off : ℕ) : (lineCorrected p k off).pins = p.pins ∧ (lineCorrected p k
    off).tick = p.tick ∧ (lineCorrected p k off).glb = p.glb ∧ (lineCorrected p k off).arrays = p.arrays ∧ (lineCorrected p k
    off).ldr = p.ldr ∧ (lineCorrected p k off).pens = p.pens ∧ (lineCorrected p k off).ctxs = p.ctxs ∧ (lineCorrected p k
    off).numVfs = p.numVfs ∧ (lineCorrected p k off).reqs = p.reqs ∧ (lineCorrected p k off).lastGen = p.lastGen ∧
    (lineCorrected p k off).rq = p.rq ∧ (lineCorrected p k off).kvp = p.kvp ∧ (lineCorrected p k off).fab = p.fab ∧
    (lineCorrected p k off).lsh = p.lsh ∧ (lineCorrected p k off).hnd = p.hnd ∧ (lineCorrected p k off).mgt = p.mgt ∧
    (lineCorrected p k off).i3c = p.i3c ∧ (lineCorrected p k off).freeCtr = p.freeCtr := by
  simp [lineCorrected]
@[simp] theorem uncorrectable_keeps (p : Pkg) (k off : Nat) (ok : Bool) : (uncorrectable p k off ok).pins = p.pins ∧
    (uncorrectable p k off ok).tick = p.tick ∧ (uncorrectable p k off ok).ldr = p.ldr ∧ (uncorrectable p k off ok).numVfs =
    p.numVfs ∧ (uncorrectable p k off ok).lastGen = p.lastGen ∧ (uncorrectable p k off ok).kvp = p.kvp ∧ (uncorrectable p k
    off ok).mgt = p.mgt ∧ (uncorrectable p k off ok).i3c = p.i3c := by
  simp [uncorrectable]
@[simp] theorem uncorrectable_vital (p : Pkg) (k : ℕ) (off : ℕ) (ok : Bool) : (uncorrectable p k off ok).glb.ready =
    p.glb.ready ∧ (uncorrectable p k off ok).glb.selfTestDone = p.glb.selfTestDone ∧ (uncorrectable p k off ok).glb.fwFault =
    p.glb.fwFault := by
  simp [uncorrectable]
@[simp] theorem lineRead_keeps (p : Pkg) (k : ℕ) (off : ℕ) (bad : ℕ) (again : ℕ) : (lineRead p k off bad again).pins = p.pins
    ∧ (lineRead p k off bad again).tick = p.tick ∧ (lineRead p k off bad again).ldr = p.ldr ∧ (lineRead p k off bad
    again).numVfs = p.numVfs ∧ (lineRead p k off bad again).lastGen = p.lastGen ∧ (lineRead p k off bad again).kvp = p.kvp ∧
    (lineRead p k off bad again).mgt = p.mgt ∧ (lineRead p k off bad again).i3c = p.i3c := by
  simp [lineRead]
@[simp] theorem lineRead_vital (p : Pkg) (k : ℕ) (off : ℕ) (bad : ℕ) (again : ℕ) : (lineRead p k off bad again).glb.ready =
    p.glb.ready ∧ (lineRead p k off bad again).glb.selfTestDone = p.glb.selfTestDone ∧ (lineRead p k off bad
    again).glb.fwFault = p.glb.fwFault := by
  simp [lineRead]
@[simp] theorem blockArrives_keeps (p : Pkg) (f : BlockFetch) (data : Option Bytes) : (blockArrives p f data).pins = p.pins ∧
    (blockArrives p f data).tick = p.tick ∧ (blockArrives p f data).glb = p.glb ∧ (blockArrives p f data).ldr = p.ldr ∧
    (blockArrives p f data).numVfs = p.numVfs ∧ (blockArrives p f data).lastGen = p.lastGen ∧ (blockArrives p f data).kvp =
    p.kvp ∧ (blockArrives p f data).mgt = p.mgt ∧ (blockArrives p f data).i3c = p.i3c := by
  simp [blockArrives]
@[simp] theorem repairStops_keeps (p : Pkg) (k : ℕ) : (repairStops p k).pins = p.pins ∧ (repairStops p k).tick = p.tick ∧
    (repairStops p k).glb = p.glb ∧ (repairStops p k).arrays = p.arrays ∧ (repairStops p k).ldr = p.ldr ∧ (repairStops p
    k).pens = p.pens ∧ (repairStops p k).ctxs = p.ctxs ∧ (repairStops p k).numVfs = p.numVfs ∧ (repairStops p k).reqs = p.reqs
    ∧ (repairStops p k).lastGen = p.lastGen ∧ (repairStops p k).rq = p.rq ∧ (repairStops p k).kvp = p.kvp ∧ (repairStops p
    k).fab = p.fab ∧ (repairStops p k).lsh = p.lsh ∧ (repairStops p k).hnd = p.hnd ∧ (repairStops p k).mgt = p.mgt ∧
    (repairStops p k).i3c = p.i3c ∧ (repairStops p k).freeCtr = p.freeCtr := by
  simp [repairStops]
@[simp] theorem repairEnd_keeps (p : Pkg) (r : Repair) (data : Option Bytes) : (repairEnd p r data).pins = p.pins ∧ (repairEnd
    p r data).tick = p.tick ∧ (repairEnd p r data).glb = p.glb ∧ (repairEnd p r data).arrays = p.arrays ∧ (repairEnd p r
    data).ldr = p.ldr ∧ (repairEnd p r data).pens = p.pens ∧ (repairEnd p r data).ctxs = p.ctxs ∧ (repairEnd p r data).numVfs
    = p.numVfs ∧ (repairEnd p r data).reqs = p.reqs ∧ (repairEnd p r data).lastGen = p.lastGen ∧ (repairEnd p r data).rq =
    p.rq ∧ (repairEnd p r data).kvp = p.kvp ∧ (repairEnd p r data).lsh = p.lsh ∧ (repairEnd p r data).hnd = p.hnd ∧ (repairEnd
    p r data).mgt = p.mgt ∧ (repairEnd p r data).i3c = p.i3c ∧ (repairEnd p r data).freeCtr = p.freeCtr := by
  unfold repairEnd; dsimp only; (repeat' split) <;> (simp_all; done)
@[simp] theorem replicaKind_keeps (p : Pkg) (i kind : Nat) : (replicaKind p i kind).pins = p.pins ∧ (replicaKind p i
    kind).tick = p.tick ∧ (replicaKind p i kind).glb = p.glb ∧ (replicaKind p i kind).scn = p.scn ∧ (replicaKind p i
    kind).arrays = p.arrays ∧ (replicaKind p i kind).ldr = p.ldr ∧ (replicaKind p i kind).pens = p.pens ∧ (replicaKind p i
    kind).ctxs = p.ctxs ∧ (replicaKind p i kind).numVfs = p.numVfs ∧ (replicaKind p i kind).reqs = p.reqs ∧ (replicaKind p i
    kind).lastGen = p.lastGen ∧ (replicaKind p i kind).rq = p.rq ∧ (replicaKind p i kind).kvp = p.kvp ∧ (replicaKind p i
    kind).lsh = p.lsh ∧ (replicaKind p i kind).hnd = p.hnd ∧ (replicaKind p i kind).mgt = p.mgt ∧ (replicaKind p i kind).i3c =
    p.i3c ∧ (replicaKind p i kind).freeCtr = p.freeCtr := by
  simp [replicaKind]
@[simp] theorem replicaJudge_keeps (p : Pkg) (i : Nat) (header : Option Bytes) : (replicaJudge p i header).pins = p.pins ∧
    (replicaJudge p i header).tick = p.tick ∧ (replicaJudge p i header).glb = p.glb ∧ (replicaJudge p i header).scn = p.scn ∧
    (replicaJudge p i header).arrays = p.arrays ∧ (replicaJudge p i header).ldr = p.ldr ∧ (replicaJudge p i header).pens =
    p.pens ∧ (replicaJudge p i header).ctxs = p.ctxs ∧ (replicaJudge p i header).numVfs = p.numVfs ∧ (replicaJudge p i
    header).reqs = p.reqs ∧ (replicaJudge p i header).lastGen = p.lastGen ∧ (replicaJudge p i header).rq = p.rq ∧
    (replicaJudge p i header).kvp = p.kvp ∧ (replicaJudge p i header).fab = p.fab ∧ (replicaJudge p i header).lsh = p.lsh ∧
    (replicaJudge p i header).hnd = p.hnd ∧ (replicaJudge p i header).mgt = p.mgt ∧ (replicaJudge p i header).i3c = p.i3c ∧
    (replicaJudge p i header).out = p.out ∧ (replicaJudge p i header).pba = p.pba ∧ (replicaJudge p i header).freeCtr =
    p.freeCtr := by
  simp [replicaJudge]
@[simp] theorem replicaHostJudge_keeps (p : Pkg) (i : Nat) (payload : Option Bytes) : (replicaHostJudge p i payload).pins =
    p.pins ∧ (replicaHostJudge p i payload).tick = p.tick ∧ (replicaHostJudge p i payload).glb = p.glb ∧ (replicaHostJudge p i
    payload).scn = p.scn ∧ (replicaHostJudge p i payload).arrays = p.arrays ∧ (replicaHostJudge p i payload).ldr = p.ldr ∧
    (replicaHostJudge p i payload).pens = p.pens ∧ (replicaHostJudge p i payload).ctxs = p.ctxs ∧ (replicaHostJudge p i
    payload).numVfs = p.numVfs ∧ (replicaHostJudge p i payload).reqs = p.reqs ∧ (replicaHostJudge p i payload).lastGen =
    p.lastGen ∧ (replicaHostJudge p i payload).rq = p.rq ∧ (replicaHostJudge p i payload).kvp = p.kvp ∧ (replicaHostJudge p i
    payload).fab = p.fab ∧ (replicaHostJudge p i payload).lsh = p.lsh ∧ (replicaHostJudge p i payload).hnd = p.hnd ∧
    (replicaHostJudge p i payload).mgt = p.mgt ∧ (replicaHostJudge p i payload).i3c = p.i3c ∧ (replicaHostJudge p i
    payload).out = p.out ∧ (replicaHostJudge p i payload).pba = p.pba ∧ (replicaHostJudge p i payload).freeCtr = p.freeCtr :=
    by
  simp [replicaHostJudge]
@[simp] theorem repeatChecks_keeps (p : Pkg) : (repeatChecks p).pins = p.pins ∧ (repeatChecks p).tick = p.tick ∧ (repeatChecks
    p).glb = p.glb ∧ (repeatChecks p).scn = p.scn ∧ (repeatChecks p).arrays = p.arrays ∧ (repeatChecks p).ldr = p.ldr ∧
    (repeatChecks p).pens = p.pens ∧ (repeatChecks p).nvw = p.nvw ∧ (repeatChecks p).ctxs = p.ctxs ∧ (repeatChecks p).numVfs =
    p.numVfs ∧ (repeatChecks p).reqs = p.reqs ∧ (repeatChecks p).lastGen = p.lastGen ∧ (repeatChecks p).rq = p.rq ∧
    (repeatChecks p).kvp = p.kvp ∧ (repeatChecks p).lsh = p.lsh ∧ (repeatChecks p).hnd = p.hnd ∧ (repeatChecks p).mgt = p.mgt
    ∧ (repeatChecks p).i3c = p.i3c ∧ (repeatChecks p).freeCtr = p.freeCtr := by
  simp [repeatChecks]
@[simp] theorem startReturn_keeps (p : Pkg) (a : Nat) : (startReturn p a).pins = p.pins ∧ (startReturn p a).tick = p.tick ∧
    (startReturn p a).glb = p.glb ∧ (startReturn p a).scn = p.scn ∧ (startReturn p a).ldr = p.ldr ∧ (startReturn p a).pens =
    p.pens ∧ (startReturn p a).nvw = p.nvw ∧ (startReturn p a).ctxs = p.ctxs ∧ (startReturn p a).numVfs = p.numVfs ∧
    (startReturn p a).reqs = p.reqs ∧ (startReturn p a).lastGen = p.lastGen ∧ (startReturn p a).rq = p.rq ∧ (startReturn p
    a).kvp = p.kvp ∧ (startReturn p a).fab = p.fab ∧ (startReturn p a).lsh = p.lsh ∧ (startReturn p a).hnd = p.hnd ∧
    (startReturn p a).mgt = p.mgt ∧ (startReturn p a).i3c = p.i3c ∧ (startReturn p a).out = p.out ∧ (startReturn p a).pba =
    p.pba ∧ (startReturn p a).freeCtr = p.freeCtr := by
  simp [startReturn]
@[simp] theorem returnDone_keeps (p : Pkg) (a : Nat) (pass : Bool) (ticks : Nat) : (returnDone p a pass ticks).pins = p.pins ∧
    (returnDone p a pass ticks).tick = p.tick ∧ (returnDone p a pass ticks).glb = p.glb ∧ (returnDone p a pass ticks).ldr =
    p.ldr ∧ (returnDone p a pass ticks).nvw = p.nvw ∧ (returnDone p a pass ticks).ctxs = p.ctxs ∧ (returnDone p a pass
    ticks).numVfs = p.numVfs ∧ (returnDone p a pass ticks).reqs = p.reqs ∧ (returnDone p a pass ticks).lastGen = p.lastGen ∧
    (returnDone p a pass ticks).rq = p.rq ∧ (returnDone p a pass ticks).kvp = p.kvp ∧ (returnDone p a pass ticks).fab = p.fab
    ∧ (returnDone p a pass ticks).hnd = p.hnd ∧ (returnDone p a pass ticks).mgt = p.mgt ∧ (returnDone p a pass ticks).i3c =
    p.i3c ∧ (returnDone p a pass ticks).freeCtr = p.freeCtr := by
  unfold returnDone; dsimp only; (repeat' split) <;> (simp_all; done)
@[simp] theorem retireFrame_keeps (p : Pkg) (n : ℕ) (f : ℕ) : (retireFrame p n f).pins = p.pins ∧ (retireFrame p n f).tick =
    p.tick ∧ (retireFrame p n f).scn = p.scn ∧ (retireFrame p n f).arrays = p.arrays ∧ (retireFrame p n f).ldr = p.ldr ∧
    (retireFrame p n f).nvw = p.nvw ∧ (retireFrame p n f).ctxs = p.ctxs ∧ (retireFrame p n f).numVfs = p.numVfs ∧ (retireFrame
    p n f).reqs = p.reqs ∧ (retireFrame p n f).lastGen = p.lastGen ∧ (retireFrame p n f).rq = p.rq ∧ (retireFrame p n f).kvp =
    p.kvp ∧ (retireFrame p n f).fab = p.fab ∧ (retireFrame p n f).lsh = p.lsh ∧ (retireFrame p n f).hnd = p.hnd ∧ (retireFrame
    p n f).mgt = p.mgt ∧ (retireFrame p n f).i3c = p.i3c ∧ (retireFrame p n f).out = p.out ∧ (retireFrame p n f).pba = p.pba ∧
    (retireFrame p n f).freeCtr = p.freeCtr := by
  simp [retireFrame]
@[simp] theorem retireFrame_vital (p : Pkg) (n : ℕ) (f : ℕ) : (retireFrame p n f).glb.ready = p.glb.ready ∧ (retireFrame p n
    f).glb.selfTestDone = p.glb.selfTestDone ∧ (retireFrame p n f).glb.fwFault = p.glb.fwFault := by
  simp [retireFrame]
@[simp] theorem dramLine_keeps (p : Pkg) (stack n : Nat) (loc : DramLoc) : (dramLine p stack n loc).pins = p.pins ∧ (dramLine
    p stack n loc).tick = p.tick ∧ (dramLine p stack n loc).ldr = p.ldr ∧ (dramLine p stack n loc).numVfs = p.numVfs ∧
    (dramLine p stack n loc).lastGen = p.lastGen ∧ (dramLine p stack n loc).kvp = p.kvp ∧ (dramLine p stack n loc).mgt = p.mgt
    ∧ (dramLine p stack n loc).i3c = p.i3c := by
  unfold dramLine; (repeat' split) <;> (simp_all; done)
@[simp] theorem dramLine_vital (p : Pkg) (stack : ℕ) (n : ℕ) (loc : DramLoc) : (dramLine p stack n loc).glb.ready =
    p.glb.ready ∧ (dramLine p stack n loc).glb.selfTestDone = p.glb.selfTestDone ∧ (dramLine p stack n loc).glb.fwFault =
    p.glb.fwFault := by
  unfold dramLine; (repeat' split) <;> (simp_all; done)
@[simp] theorem dramCorrected_keeps (p : Pkg) (s : ℕ) (lines : ℕ) : (dramCorrected p s lines).pins = p.pins ∧ (dramCorrected p
    s lines).tick = p.tick ∧ (dramCorrected p s lines).arrays = p.arrays ∧ (dramCorrected p s lines).ldr = p.ldr ∧
    (dramCorrected p s lines).pens = p.pens ∧ (dramCorrected p s lines).nvw = p.nvw ∧ (dramCorrected p s lines).ctxs = p.ctxs
    ∧ (dramCorrected p s lines).numVfs = p.numVfs ∧ (dramCorrected p s lines).reqs = p.reqs ∧ (dramCorrected p s
    lines).lastGen = p.lastGen ∧ (dramCorrected p s lines).rq = p.rq ∧ (dramCorrected p s lines).kvp = p.kvp ∧ (dramCorrected
    p s lines).fab = p.fab ∧ (dramCorrected p s lines).lsh = p.lsh ∧ (dramCorrected p s lines).hnd = p.hnd ∧ (dramCorrected p
    s lines).mgt = p.mgt ∧ (dramCorrected p s lines).i3c = p.i3c ∧ (dramCorrected p s lines).freeCtr = p.freeCtr := by
  simp [dramCorrected]
@[simp] theorem dramCorrected_vital (p : Pkg) (s : ℕ) (lines : ℕ) : (dramCorrected p s lines).glb.ready = p.glb.ready ∧
    (dramCorrected p s lines).glb.selfTestDone = p.glb.selfTestDone ∧ (dramCorrected p s lines).glb.fwFault = p.glb.fwFault :=
    by
  simp [dramCorrected]
@[simp] theorem dramStackFail_keeps (p : Pkg) (s cause : Nat) : (dramStackFail p s cause).pins = p.pins ∧ (dramStackFail p s
    cause).tick = p.tick ∧ (dramStackFail p s cause).ldr = p.ldr ∧ (dramStackFail p s cause).numVfs = p.numVfs ∧
    (dramStackFail p s cause).lastGen = p.lastGen ∧ (dramStackFail p s cause).kvp = p.kvp ∧ (dramStackFail p s cause).mgt =
    p.mgt ∧ (dramStackFail p s cause).i3c = p.i3c := by
  simp [dramStackFail]
@[simp] theorem dramStackFail_vital (p : Pkg) (s cause : Nat) : (dramStackFail p s cause).glb.ready = p.glb.ready ∧
    (dramStackFail p s cause).glb.selfTestDone = p.glb.selfTestDone ∧ (dramStackFail p s cause).glb.fwFault = p.glb.fwFault :=
    by
  simp [dramStackFail]
@[simp] theorem dramLineSampled_keeps (p : Pkg) (s : ℕ) (n : ℕ) (loc : DramLoc) : (dramLineSampled p s n loc).pins = p.pins ∧
    (dramLineSampled p s n loc).tick = p.tick ∧ (dramLineSampled p s n loc).ldr = p.ldr ∧ (dramLineSampled p s n loc).numVfs =
    p.numVfs ∧ (dramLineSampled p s n loc).lastGen = p.lastGen ∧ (dramLineSampled p s n loc).kvp = p.kvp ∧ (dramLineSampled p
    s n loc).mgt = p.mgt ∧ (dramLineSampled p s n loc).i3c = p.i3c := by
  simp [dramLineSampled]
@[simp] theorem dramLineSampled_vital (p : Pkg) (s : ℕ) (n : ℕ) (loc : DramLoc) : (dramLineSampled p s n loc).glb.ready =
    p.glb.ready ∧ (dramLineSampled p s n loc).glb.selfTestDone = p.glb.selfTestDone ∧ (dramLineSampled p s n loc).glb.fwFault
    = p.glb.fwFault := by
  simp [dramLineSampled]
@[simp] theorem opticsFail_keeps (p : Pkg) (i : ℕ) : (opticsFail p i).pins = p.pins ∧ (opticsFail p i).tick = p.tick ∧
    (opticsFail p i).arrays = p.arrays ∧ (opticsFail p i).ldr = p.ldr ∧ (opticsFail p i).pens = p.pens ∧ (opticsFail p i).nvw
    = p.nvw ∧ (opticsFail p i).numVfs = p.numVfs ∧ (opticsFail p i).reqs = p.reqs ∧ (opticsFail p i).lastGen = p.lastGen ∧
    (opticsFail p i).rq = p.rq ∧ (opticsFail p i).kvp = p.kvp ∧ (opticsFail p i).lsh = p.lsh ∧ (opticsFail p i).hnd = p.hnd ∧
    (opticsFail p i).mgt = p.mgt := by
  simp [opticsFail]
@[simp] theorem opticsFail_vital (p : Pkg) (i : ℕ) : (opticsFail p i).glb.ready = p.glb.ready ∧ (opticsFail p
    i).glb.selfTestDone = p.glb.selfTestDone ∧ (opticsFail p i).glb.fwFault = p.glb.fwFault := by
  simp [opticsFail]
@[simp] theorem engineLose_keeps (p : Pkg) (kind : ℕ) (i : ℕ) : (engineLose p kind i).pins = p.pins ∧ (engineLose p kind
    i).tick = p.tick ∧ (engineLose p kind i).arrays = p.arrays ∧ (engineLose p kind i).ldr = p.ldr ∧ (engineLose p kind
    i).pens = p.pens ∧ (engineLose p kind i).nvw = p.nvw ∧ (engineLose p kind i).numVfs = p.numVfs ∧ (engineLose p kind
    i).reqs = p.reqs ∧ (engineLose p kind i).lastGen = p.lastGen ∧ (engineLose p kind i).rq = p.rq ∧ (engineLose p kind i).kvp
    = p.kvp ∧ (engineLose p kind i).fab = p.fab ∧ (engineLose p kind i).lsh = p.lsh ∧ (engineLose p kind i).hnd = p.hnd ∧
    (engineLose p kind i).mgt = p.mgt ∧ (engineLose p kind i).i3c = p.i3c := by
  simp [engineLose]
@[simp] theorem engineLose_vital (p : Pkg) (kind : ℕ) (i : ℕ) : (engineLose p kind i).glb.ready = p.glb.ready ∧ (engineLose p
    kind i).glb.selfTestDone = p.glb.selfTestDone ∧ (engineLose p kind i).glb.fwFault = p.glb.fwFault := by
  simp [engineLose]
@[simp] theorem engineFail_keeps (p : Pkg) (kind i : Nat) : (engineFail p kind i).pins = p.pins ∧ (engineFail p kind i).tick =
    p.tick ∧ (engineFail p kind i).ldr = p.ldr ∧ (engineFail p kind i).numVfs = p.numVfs ∧ (engineFail p kind i).lastGen =
    p.lastGen ∧ (engineFail p kind i).kvp = p.kvp ∧ (engineFail p kind i).mgt = p.mgt := by
  simp [engineFail]
@[simp] theorem engineFail_vital (p : Pkg) (kind i : Nat) : (engineFail p kind i).glb.ready = p.glb.ready ∧ (engineFail p kind
    i).glb.selfTestDone = p.glb.selfTestDone ∧ (engineFail p kind i).glb.fwFault = p.glb.fwFault := by
  unfold engineFail; (repeat' split) <;> (simp_all; done)
@[simp] theorem fwFail_keeps (p : Pkg) (core code : Nat) : (fwFail p core code).tick = p.tick ∧ (fwFail p core code).arrays =
    p.arrays ∧ (fwFail p core code).ldr = p.ldr ∧ (fwFail p core code).pens = p.pens ∧ (fwFail p core code).nvw = p.nvw ∧
    (fwFail p core code).ctxs = p.ctxs ∧ (fwFail p core code).numVfs = p.numVfs ∧ (fwFail p core code).reqs = p.reqs ∧ (fwFail
    p core code).lastGen = p.lastGen ∧ (fwFail p core code).rq = p.rq ∧ (fwFail p core code).kvp = p.kvp ∧ (fwFail p core
    code).fab = p.fab ∧ (fwFail p core code).lsh = p.lsh ∧ (fwFail p core code).hnd = p.hnd ∧ (fwFail p core code).mgt = p.mgt
    ∧ (fwFail p core code).i3c = p.i3c ∧ (fwFail p core code).freeCtr = p.freeCtr := by
  simp [fwFail]
@[simp] theorem fwFail_vital (p : Pkg) (core code : Nat) : (fwFail p core code).glb.ready = p.glb.ready ∧ (fwFail p core
    code).glb.selfTestDone = p.glb.selfTestDone := by
  simp [fwFail]
@[simp] theorem selfTest_keeps (p : Pkg) (f : Parts) : (selfTest p f).pins = p.pins ∧ (selfTest p f).tick = p.tick ∧ (selfTest
    p f).ldr = p.ldr ∧ (selfTest p f).numVfs = p.numVfs ∧ (selfTest p f).lastGen = p.lastGen ∧ (selfTest p f).kvp = p.kvp ∧
    (selfTest p f).mgt = p.mgt := by
  simp [selfTest]
@[simp] theorem selfTest_vital (p : Pkg) (f : Parts) : (selfTest p f).glb.ready = p.glb.ready ∧ (selfTest p f).glb.fwFault =
    p.glb.fwFault := by
  simp [selfTest]
@[simp] theorem drainLog_keeps (z0 : Nat) (p : Pkg) : (drainLog z0 p).pins = p.pins ∧ (drainLog z0 p).tick = p.tick ∧
    (drainLog z0 p).glb = p.glb ∧ (drainLog z0 p).arrays = p.arrays ∧ (drainLog z0 p).ldr = p.ldr ∧ (drainLog z0 p).pens =
    p.pens ∧ (drainLog z0 p).nvw = p.nvw ∧ (drainLog z0 p).ctxs = p.ctxs ∧ (drainLog z0 p).numVfs = p.numVfs ∧ (drainLog z0
    p).reqs = p.reqs ∧ (drainLog z0 p).lastGen = p.lastGen ∧ (drainLog z0 p).rq = p.rq ∧ (drainLog z0 p).kvp = p.kvp ∧
    (drainLog z0 p).fab = p.fab ∧ (drainLog z0 p).lsh = p.lsh ∧ (drainLog z0 p).hnd = p.hnd ∧ (drainLog z0 p).mgt = p.mgt ∧
    (drainLog z0 p).i3c = p.i3c ∧ (drainLog z0 p).freeCtr = p.freeCtr := by
  fun_induction drainLog z0 p <;> (simp_all; done)
@[simp] theorem clearLog_keeps (p : Pkg) (upto_ manager : Nat) : (clearLog p upto_ manager).pins = p.pins ∧ (clearLog p upto_
    manager).tick = p.tick ∧ (clearLog p upto_ manager).glb = p.glb ∧ (clearLog p upto_ manager).arrays = p.arrays ∧ (clearLog
    p upto_ manager).ldr = p.ldr ∧ (clearLog p upto_ manager).pens = p.pens ∧ (clearLog p upto_ manager).nvw = p.nvw ∧
    (clearLog p upto_ manager).ctxs = p.ctxs ∧ (clearLog p upto_ manager).numVfs = p.numVfs ∧ (clearLog p upto_ manager).reqs
    = p.reqs ∧ (clearLog p upto_ manager).lastGen = p.lastGen ∧ (clearLog p upto_ manager).rq = p.rq ∧ (clearLog p upto_
    manager).kvp = p.kvp ∧ (clearLog p upto_ manager).fab = p.fab ∧ (clearLog p upto_ manager).lsh = p.lsh ∧ (clearLog p upto_
    manager).hnd = p.hnd ∧ (clearLog p upto_ manager).mgt = p.mgt ∧ (clearLog p upto_ manager).i3c = p.i3c ∧ (clearLog p upto_
    manager).freeCtr = p.freeCtr := by
  simp [clearLog]
@[simp] theorem clearCmd_keeps (p : Pkg) : (clearCmd p).pins = p.pins ∧ (clearCmd p).tick = p.tick ∧ (clearCmd p).glb = p.glb
    ∧ (clearCmd p).arrays = p.arrays ∧ (clearCmd p).ldr = p.ldr ∧ (clearCmd p).pens = p.pens ∧ (clearCmd p).nvw = p.nvw ∧
    (clearCmd p).ctxs = p.ctxs ∧ (clearCmd p).numVfs = p.numVfs ∧ (clearCmd p).reqs = p.reqs ∧ (clearCmd p).lastGen =
    p.lastGen ∧ (clearCmd p).rq = p.rq ∧ (clearCmd p).kvp = p.kvp ∧ (clearCmd p).fab = p.fab ∧ (clearCmd p).lsh = p.lsh ∧
    (clearCmd p).hnd = p.hnd ∧ (clearCmd p).mgt = p.mgt ∧ (clearCmd p).i3c = p.i3c ∧ (clearCmd p).freeCtr = p.freeCtr := by
  unfold clearCmd; (repeat' split) <;> (simp_all; done)
@[simp] theorem scnCtrl_keeps (p : Pkg) (v : Nat) : (scnCtrl p v).pins = p.pins ∧ (scnCtrl p v).tick = p.tick ∧ (scnCtrl p
    v).glb = p.glb ∧ (scnCtrl p v).arrays = p.arrays ∧ (scnCtrl p v).ldr = p.ldr ∧ (scnCtrl p v).pens = p.pens ∧ (scnCtrl p
    v).nvw = p.nvw ∧ (scnCtrl p v).ctxs = p.ctxs ∧ (scnCtrl p v).numVfs = p.numVfs ∧ (scnCtrl p v).reqs = p.reqs ∧ (scnCtrl p
    v).lastGen = p.lastGen ∧ (scnCtrl p v).rq = p.rq ∧ (scnCtrl p v).kvp = p.kvp ∧ (scnCtrl p v).fab = p.fab ∧ (scnCtrl p
    v).lsh = p.lsh ∧ (scnCtrl p v).hnd = p.hnd ∧ (scnCtrl p v).mgt = p.mgt ∧ (scnCtrl p v).i3c = p.i3c ∧ (scnCtrl p v).freeCtr
    = p.freeCtr := by
  simp [scnCtrl]
@[simp] theorem modMgt_keeps (p : Pkg) (f : Mgt → Mgt) : (modMgt p f).pins = p.pins ∧ (modMgt p f).tick = p.tick ∧ (modMgt p
    f).glb = p.glb ∧ (modMgt p f).scn = p.scn ∧ (modMgt p f).arrays = p.arrays ∧ (modMgt p f).ldr = p.ldr ∧ (modMgt p f).pens
    = p.pens ∧ (modMgt p f).nvw = p.nvw ∧ (modMgt p f).ctxs = p.ctxs ∧ (modMgt p f).numVfs = p.numVfs ∧ (modMgt p f).reqs =
    p.reqs ∧ (modMgt p f).lastGen = p.lastGen ∧ (modMgt p f).rq = p.rq ∧ (modMgt p f).kvp = p.kvp ∧ (modMgt p f).fab = p.fab ∧
    (modMgt p f).lsh = p.lsh ∧ (modMgt p f).hnd = p.hnd ∧ (modMgt p f).i3c = p.i3c ∧ (modMgt p f).out = p.out ∧ (modMgt p
    f).pba = p.pba ∧ (modMgt p f).freeCtr = p.freeCtr := by
  simp [modMgt]
@[simp] theorem planCommitDo_keeps (p : Pkg) (c : PendCmd) : (planCommitDo p c).pins = p.pins ∧ (planCommitDo p c).tick =
    p.tick ∧ (planCommitDo p c).glb = p.glb ∧ (planCommitDo p c).scn = p.scn ∧ (planCommitDo p c).arrays = p.arrays ∧
    (planCommitDo p c).ldr = p.ldr ∧ (planCommitDo p c).pens = p.pens ∧ (planCommitDo p c).nvw = p.nvw ∧ (planCommitDo p
    c).ctxs = p.ctxs ∧ (planCommitDo p c).numVfs = p.numVfs ∧ (planCommitDo p c).reqs = p.reqs ∧ (planCommitDo p c).lastGen =
    p.lastGen ∧ (planCommitDo p c).rq = p.rq ∧ (planCommitDo p c).kvp = p.kvp ∧ (planCommitDo p c).lsh = p.lsh ∧ (planCommitDo
    p c).hnd = p.hnd ∧ (planCommitDo p c).mgt = p.mgt ∧ (planCommitDo p c).i3c = p.i3c ∧ (planCommitDo p c).out = p.out ∧
    (planCommitDo p c).pba = p.pba ∧ (planCommitDo p c).freeCtr = p.freeCtr := by
  simp [planCommitDo]
@[simp] theorem planCommitDo_vital (p : Pkg) (c : PendCmd) : (planCommitDo p c).tick.refclkOk = p.tick.refclkOk ∧
    (planCommitDo p c).tick.phaseLocked = p.tick.phaseLocked ∧ (planCommitDo p c).tick.holdover = p.tick.holdover := by
  simp [planCommitDo]
@[simp] theorem leaseDo_keeps (p : Pkg) (c : PendCmd) : (leaseDo p c).pins = p.pins ∧ (leaseDo p c).tick = p.tick ∧ (leaseDo p
    c).glb = p.glb ∧ (leaseDo p c).arrays = p.arrays ∧ (leaseDo p c).ldr = p.ldr ∧ (leaseDo p c).pens = p.pens ∧ (leaseDo p
    c).nvw = p.nvw ∧ (leaseDo p c).ctxs = p.ctxs ∧ (leaseDo p c).numVfs = p.numVfs ∧ (leaseDo p c).reqs = p.reqs ∧ (leaseDo p
    c).lastGen = p.lastGen ∧ (leaseDo p c).rq = p.rq ∧ (leaseDo p c).kvp = p.kvp ∧ (leaseDo p c).fab = p.fab ∧ (leaseDo p
    c).lsh = p.lsh ∧ (leaseDo p c).hnd = p.hnd ∧ (leaseDo p c).i3c = p.i3c ∧ (leaseDo p c).freeCtr = p.freeCtr := by
  simp [leaseDo]
@[simp] theorem leaseEnd_keeps (p : Pkg) (code : Nat) : (leaseEnd p code).pins = p.pins ∧ (leaseEnd p code).tick = p.tick ∧
    (leaseEnd p code).glb = p.glb ∧ (leaseEnd p code).arrays = p.arrays ∧ (leaseEnd p code).ldr = p.ldr ∧ (leaseEnd p
    code).pens = p.pens ∧ (leaseEnd p code).nvw = p.nvw ∧ (leaseEnd p code).ctxs = p.ctxs ∧ (leaseEnd p code).numVfs =
    p.numVfs ∧ (leaseEnd p code).reqs = p.reqs ∧ (leaseEnd p code).lastGen = p.lastGen ∧ (leaseEnd p code).rq = p.rq ∧
    (leaseEnd p code).kvp = p.kvp ∧ (leaseEnd p code).fab = p.fab ∧ (leaseEnd p code).lsh = p.lsh ∧ (leaseEnd p code).hnd =
    p.hnd ∧ (leaseEnd p code).i3c = p.i3c ∧ (leaseEnd p code).freeCtr = p.freeCtr := by
  simp [leaseEnd]
@[simp] theorem loseMember_keeps (p : Pkg) (n : Nat) : (loseMember p n).2.pins = p.pins ∧ (loseMember p n).2.tick = p.tick ∧
    (loseMember p n).2.glb = p.glb ∧ (loseMember p n).2.arrays = p.arrays ∧ (loseMember p n).2.ldr = p.ldr ∧ (loseMember p
    n).2.nvw = p.nvw ∧ (loseMember p n).2.numVfs = p.numVfs ∧ (loseMember p n).2.lastGen = p.lastGen ∧ (loseMember p n).2.kvp
    = p.kvp ∧ (loseMember p n).2.mgt = p.mgt ∧ (loseMember p n).2.i3c = p.i3c := by
  simp [loseMember]
@[simp] theorem noteMemberLost_keeps (p : Pkg) (n ended : Nat) : (noteMemberLost p n ended).pins = p.pins ∧ (noteMemberLost p
    n ended).tick = p.tick ∧ (noteMemberLost p n ended).glb = p.glb ∧ (noteMemberLost p n ended).arrays = p.arrays ∧
    (noteMemberLost p n ended).ldr = p.ldr ∧ (noteMemberLost p n ended).pens = p.pens ∧ (noteMemberLost p n ended).nvw = p.nvw
    ∧ (noteMemberLost p n ended).numVfs = p.numVfs ∧ (noteMemberLost p n ended).reqs = p.reqs ∧ (noteMemberLost p n
    ended).lastGen = p.lastGen ∧ (noteMemberLost p n ended).rq = p.rq ∧ (noteMemberLost p n ended).kvp = p.kvp ∧
    (noteMemberLost p n ended).lsh = p.lsh ∧ (noteMemberLost p n ended).mgt = p.mgt ∧ (noteMemberLost p n ended).i3c = p.i3c ∧
    (noteMemberLost p n ended).freeCtr = p.freeCtr := by
  simp [noteMemberLost]
@[simp] theorem readmitPen_keeps (p : Pkg) (n : Nat) : (readmitPen p n).pins = p.pins ∧ (readmitPen p n).tick = p.tick ∧
    (readmitPen p n).glb = p.glb ∧ (readmitPen p n).arrays = p.arrays ∧ (readmitPen p n).ldr = p.ldr ∧ (readmitPen p n).nvw =
    p.nvw ∧ (readmitPen p n).numVfs = p.numVfs ∧ (readmitPen p n).lastGen = p.lastGen ∧ (readmitPen p n).kvp = p.kvp ∧
    (readmitPen p n).mgt = p.mgt ∧ (readmitPen p n).i3c = p.i3c := by
  simp [readmitPen]
@[simp] theorem readmitDo_keeps (p : Pkg) (c : PendCmd) : (readmitDo p c).pins = p.pins ∧ (readmitDo p c).tick = p.tick ∧
    (readmitDo p c).glb = p.glb ∧ (readmitDo p c).ldr = p.ldr ∧ (readmitDo p c).numVfs = p.numVfs ∧ (readmitDo p c).lastGen =
    p.lastGen ∧ (readmitDo p c).kvp = p.kvp ∧ (readmitDo p c).i3c = p.i3c := by
  simp [readmitDo]
@[simp] theorem groupWriteDo_keeps (p : Pkg) (c : PendCmd) : (groupWriteDo p c).pins = p.pins ∧ (groupWriteDo p c).tick =
    p.tick ∧ (groupWriteDo p c).glb = p.glb ∧ (groupWriteDo p c).scn = p.scn ∧ (groupWriteDo p c).arrays = p.arrays ∧
    (groupWriteDo p c).ldr = p.ldr ∧ (groupWriteDo p c).nvw = p.nvw ∧ (groupWriteDo p c).ctxs = p.ctxs ∧ (groupWriteDo p
    c).numVfs = p.numVfs ∧ (groupWriteDo p c).reqs = p.reqs ∧ (groupWriteDo p c).lastGen = p.lastGen ∧ (groupWriteDo p c).rq =
    p.rq ∧ (groupWriteDo p c).kvp = p.kvp ∧ (groupWriteDo p c).fab = p.fab ∧ (groupWriteDo p c).lsh = p.lsh ∧ (groupWriteDo p
    c).hnd = p.hnd ∧ (groupWriteDo p c).mgt = p.mgt ∧ (groupWriteDo p c).i3c = p.i3c ∧ (groupWriteDo p c).out = p.out ∧
    (groupWriteDo p c).pba = p.pba ∧ (groupWriteDo p c).freeCtr = p.freeCtr := by
  simp [groupWriteDo]
@[simp] theorem groupWriteDo_vital (p : Pkg) (c : PendCmd) : (groupWriteDo p c).tick.refclkOk = p.tick.refclkOk ∧
    (groupWriteDo p c).tick.phaseLocked = p.tick.phaseLocked ∧ (groupWriteDo p c).tick.holdover = p.tick.holdover := by
  simp [groupWriteDo]
@[simp] theorem resumeDo_keeps (p : Pkg) (c : PendCmd) : (resumeDo p c).pins = p.pins ∧ (resumeDo p c).tick = p.tick ∧
    (resumeDo p c).glb = p.glb ∧ (resumeDo p c).arrays = p.arrays ∧ (resumeDo p c).ldr = p.ldr ∧ (resumeDo p c).nvw = p.nvw ∧
    (resumeDo p c).numVfs = p.numVfs ∧ (resumeDo p c).reqs = p.reqs ∧ (resumeDo p c).lastGen = p.lastGen ∧ (resumeDo p c).rq =
    p.rq ∧ (resumeDo p c).kvp = p.kvp ∧ (resumeDo p c).fab = p.fab ∧ (resumeDo p c).lsh = p.lsh ∧ (resumeDo p c).hnd = p.hnd ∧
    (resumeDo p c).mgt = p.mgt ∧ (resumeDo p c).i3c = p.i3c ∧ (resumeDo p c).freeCtr = p.freeCtr := by
  simp [resumeDo]
@[simp] theorem memberLostDo_keeps (p : Pkg) (c : PendCmd) : (memberLostDo p c).pins = p.pins ∧ (memberLostDo p c).tick =
    p.tick ∧ (memberLostDo p c).glb = p.glb ∧ (memberLostDo p c).arrays = p.arrays ∧ (memberLostDo p c).ldr = p.ldr ∧
    (memberLostDo p c).nvw = p.nvw ∧ (memberLostDo p c).numVfs = p.numVfs ∧ (memberLostDo p c).lastGen = p.lastGen ∧
    (memberLostDo p c).kvp = p.kvp ∧ (memberLostDo p c).i3c = p.i3c := by
  simp [memberLostDo]
@[simp] theorem memberLostDo_vital (p : Pkg) (c : PendCmd) : (memberLostDo p c).tick.refclkOk = p.tick.refclkOk ∧
    (memberLostDo p c).tick.phaseLocked = p.tick.phaseLocked ∧ (memberLostDo p c).tick.holdover = p.tick.holdover := by
  simp [memberLostDo]
@[simp] theorem imprintAuthDo_keeps (p : Pkg) (c : PendCmd) : (imprintAuthDo p c).pins = p.pins ∧ (imprintAuthDo p c).tick =
    p.tick ∧ (imprintAuthDo p c).glb = p.glb ∧ (imprintAuthDo p c).arrays = p.arrays ∧ (imprintAuthDo p c).ldr = p.ldr ∧
    (imprintAuthDo p c).pens = p.pens ∧ (imprintAuthDo p c).ctxs = p.ctxs ∧ (imprintAuthDo p c).numVfs = p.numVfs ∧
    (imprintAuthDo p c).reqs = p.reqs ∧ (imprintAuthDo p c).lastGen = p.lastGen ∧ (imprintAuthDo p c).rq = p.rq ∧
    (imprintAuthDo p c).kvp = p.kvp ∧ (imprintAuthDo p c).fab = p.fab ∧ (imprintAuthDo p c).lsh = p.lsh ∧ (imprintAuthDo p
    c).hnd = p.hnd ∧ (imprintAuthDo p c).mgt = p.mgt ∧ (imprintAuthDo p c).i3c = p.i3c ∧ (imprintAuthDo p c).freeCtr =
    p.freeCtr := by
  simp [imprintAuthDo]
@[simp] theorem imprintAuthDo_vital (p : Pkg) (c : PendCmd) : (imprintAuthDo p c).tick.refclkOk = p.tick.refclkOk ∧
    (imprintAuthDo p c).tick.phaseLocked = p.tick.phaseLocked ∧ (imprintAuthDo p c).tick.holdover = p.tick.holdover := by
  simp [imprintAuthDo]
@[simp] theorem clearAuthDo_keeps (p : Pkg) (c : PendCmd) : (clearAuthDo p c).pins = p.pins ∧ (clearAuthDo p c).tick = p.tick
    ∧ (clearAuthDo p c).glb = p.glb ∧ (clearAuthDo p c).arrays = p.arrays ∧ (clearAuthDo p c).ldr = p.ldr ∧ (clearAuthDo p
    c).pens = p.pens ∧ (clearAuthDo p c).nvw = p.nvw ∧ (clearAuthDo p c).ctxs = p.ctxs ∧ (clearAuthDo p c).numVfs = p.numVfs ∧
    (clearAuthDo p c).reqs = p.reqs ∧ (clearAuthDo p c).lastGen = p.lastGen ∧ (clearAuthDo p c).rq = p.rq ∧ (clearAuthDo p
    c).kvp = p.kvp ∧ (clearAuthDo p c).fab = p.fab ∧ (clearAuthDo p c).lsh = p.lsh ∧ (clearAuthDo p c).hnd = p.hnd ∧
    (clearAuthDo p c).mgt = p.mgt ∧ (clearAuthDo p c).i3c = p.i3c ∧ (clearAuthDo p c).freeCtr = p.freeCtr := by
  simp [clearAuthDo]
@[simp] theorem inspectStart_keeps (p : Pkg) (n : Nat) (c : PendCmd) : (inspectStart p n c).pins = p.pins ∧ (inspectStart p n
    c).tick = p.tick ∧ (inspectStart p n c).glb = p.glb ∧ (inspectStart p n c).scn = p.scn ∧ (inspectStart p n c).arrays =
    p.arrays ∧ (inspectStart p n c).ldr = p.ldr ∧ (inspectStart p n c).pens = p.pens ∧ (inspectStart p n c).nvw = p.nvw ∧
    (inspectStart p n c).ctxs = p.ctxs ∧ (inspectStart p n c).numVfs = p.numVfs ∧ (inspectStart p n c).reqs = p.reqs ∧
    (inspectStart p n c).lastGen = p.lastGen ∧ (inspectStart p n c).rq = p.rq ∧ (inspectStart p n c).kvp = p.kvp ∧
    (inspectStart p n c).lsh = p.lsh ∧ (inspectStart p n c).hnd = p.hnd ∧ (inspectStart p n c).i3c = p.i3c ∧ (inspectStart p n
    c).freeCtr = p.freeCtr := by
  simp [inspectStart]
@[simp] theorem inspectLeave_keeps (p : Pkg) (n status : Nat) : (inspectLeave p n status).pins = p.pins ∧ (inspectLeave p n
    status).tick = p.tick ∧ (inspectLeave p n status).glb = p.glb ∧ (inspectLeave p n status).arrays = p.arrays ∧
    (inspectLeave p n status).ldr = p.ldr ∧ (inspectLeave p n status).pens = p.pens ∧ (inspectLeave p n status).nvw = p.nvw ∧
    (inspectLeave p n status).ctxs = p.ctxs ∧ (inspectLeave p n status).numVfs = p.numVfs ∧ (inspectLeave p n status).reqs =
    p.reqs ∧ (inspectLeave p n status).lastGen = p.lastGen ∧ (inspectLeave p n status).rq = p.rq ∧ (inspectLeave p n
    status).kvp = p.kvp ∧ (inspectLeave p n status).lsh = p.lsh ∧ (inspectLeave p n status).hnd = p.hnd ∧ (inspectLeave p n
    status).mgt = p.mgt ∧ (inspectLeave p n status).freeCtr = p.freeCtr := by
  simp [inspectLeave]
@[simp] theorem inspReadings_keeps (p : Pkg) (n : Nat) (rec : Bytes) (rx : List Nat) : (inspReadings p n rec rx).pins = p.pins
    ∧ (inspReadings p n rec rx).tick = p.tick ∧ (inspReadings p n rec rx).glb = p.glb ∧ (inspReadings p n rec rx).scn = p.scn
    ∧ (inspReadings p n rec rx).arrays = p.arrays ∧ (inspReadings p n rec rx).ldr = p.ldr ∧ (inspReadings p n rec rx).pens =
    p.pens ∧ (inspReadings p n rec rx).nvw = p.nvw ∧ (inspReadings p n rec rx).ctxs = p.ctxs ∧ (inspReadings p n rec
    rx).numVfs = p.numVfs ∧ (inspReadings p n rec rx).reqs = p.reqs ∧ (inspReadings p n rec rx).lastGen = p.lastGen ∧
    (inspReadings p n rec rx).rq = p.rq ∧ (inspReadings p n rec rx).kvp = p.kvp ∧ (inspReadings p n rec rx).lsh = p.lsh ∧
    (inspReadings p n rec rx).hnd = p.hnd ∧ (inspReadings p n rec rx).mgt = p.mgt ∧ (inspReadings p n rec rx).i3c = p.i3c ∧
    (inspReadings p n rec rx).out = p.out ∧ (inspReadings p n rec rx).pba = p.pba ∧ (inspReadings p n rec rx).freeCtr =
    p.freeCtr := by
  simp [inspReadings]
@[simp] theorem inspRecIn_keeps (p : Pkg) (n : Nat) (rec : Bytes) (rx : List Nat) : (inspRecIn p n rec rx).pins = p.pins ∧
    (inspRecIn p n rec rx).tick = p.tick ∧ (inspRecIn p n rec rx).glb = p.glb ∧ (inspRecIn p n rec rx).scn = p.scn ∧
    (inspRecIn p n rec rx).arrays = p.arrays ∧ (inspRecIn p n rec rx).ldr = p.ldr ∧ (inspRecIn p n rec rx).pens = p.pens ∧
    (inspRecIn p n rec rx).nvw = p.nvw ∧ (inspRecIn p n rec rx).ctxs = p.ctxs ∧ (inspRecIn p n rec rx).numVfs = p.numVfs ∧
    (inspRecIn p n rec rx).reqs = p.reqs ∧ (inspRecIn p n rec rx).lastGen = p.lastGen ∧ (inspRecIn p n rec rx).rq = p.rq ∧
    (inspRecIn p n rec rx).kvp = p.kvp ∧ (inspRecIn p n rec rx).lsh = p.lsh ∧ (inspRecIn p n rec rx).hnd = p.hnd ∧ (inspRecIn
    p n rec rx).mgt = p.mgt ∧ (inspRecIn p n rec rx).i3c = p.i3c ∧ (inspRecIn p n rec rx).freeCtr = p.freeCtr := by
  unfold inspRecIn; dsimp only; (repeat' split) <;> (simp_all; done)
@[simp] theorem inspStep_keeps (p : Pkg) (n : Nat) (i : Insp) : (inspStep p n i).pins = p.pins ∧ (inspStep p n i).tick =
    p.tick ∧ (inspStep p n i).glb = p.glb ∧ (inspStep p n i).arrays = p.arrays ∧ (inspStep p n i).ldr = p.ldr ∧ (inspStep p n
    i).pens = p.pens ∧ (inspStep p n i).nvw = p.nvw ∧ (inspStep p n i).ctxs = p.ctxs ∧ (inspStep p n i).numVfs = p.numVfs ∧
    (inspStep p n i).reqs = p.reqs ∧ (inspStep p n i).lastGen = p.lastGen ∧ (inspStep p n i).rq = p.rq ∧ (inspStep p n i).kvp
    = p.kvp ∧ (inspStep p n i).lsh = p.lsh ∧ (inspStep p n i).hnd = p.hnd ∧ (inspStep p n i).mgt = p.mgt ∧ (inspStep p n
    i).freeCtr = p.freeCtr := by
  simp [inspStep]
@[simp] theorem inspStep_vital (p : Pkg) (n : ℕ) (i : Insp) : (inspStep p n i).tick.refclkOk = p.tick.refclkOk ∧ (inspStep p n
    i).tick.phaseLocked = p.tick.phaseLocked ∧ (inspStep p n i).tick.holdover = p.tick.holdover := by
  simp [inspStep]
@[simp] theorem capDo_keeps (p : Pkg) (c : PendCmd) : (capDo p c).pins = p.pins ∧ (capDo p c).tick = p.tick ∧ (capDo p c).glb
    = p.glb ∧ (capDo p c).arrays = p.arrays ∧ (capDo p c).ldr = p.ldr ∧ (capDo p c).pens = p.pens ∧ (capDo p c).nvw = p.nvw ∧
    (capDo p c).ctxs = p.ctxs ∧ (capDo p c).numVfs = p.numVfs ∧ (capDo p c).reqs = p.reqs ∧ (capDo p c).lastGen = p.lastGen ∧
    (capDo p c).rq = p.rq ∧ (capDo p c).kvp = p.kvp ∧ (capDo p c).fab = p.fab ∧ (capDo p c).hnd = p.hnd ∧ (capDo p c).i3c =
    p.i3c ∧ (capDo p c).freeCtr = p.freeCtr := by
  simp [capDo]
@[simp] theorem setCountDo_keeps (p : Pkg) (c : PendCmd) : (setCountDo p c).pins = p.pins ∧ (setCountDo p c).glb = p.glb ∧
    (setCountDo p c).scn = p.scn ∧ (setCountDo p c).arrays = p.arrays ∧ (setCountDo p c).ldr = p.ldr ∧ (setCountDo p c).pens =
    p.pens ∧ (setCountDo p c).nvw = p.nvw ∧ (setCountDo p c).ctxs = p.ctxs ∧ (setCountDo p c).numVfs = p.numVfs ∧ (setCountDo
    p c).reqs = p.reqs ∧ (setCountDo p c).lastGen = p.lastGen ∧ (setCountDo p c).rq = p.rq ∧ (setCountDo p c).kvp = p.kvp ∧
    (setCountDo p c).fab = p.fab ∧ (setCountDo p c).lsh = p.lsh ∧ (setCountDo p c).hnd = p.hnd ∧ (setCountDo p c).i3c = p.i3c
    ∧ (setCountDo p c).out = p.out ∧ (setCountDo p c).pba = p.pba ∧ (setCountDo p c).freeCtr = p.freeCtr := by
  simp [setCountDo]
@[simp] theorem setCountDo_vital (p : Pkg) (c : PendCmd) : (setCountDo p c).tick.refclkOk = p.tick.refclkOk ∧ (setCountDo p
    c).tick.phaseLocked = p.tick.phaseLocked ∧ (setCountDo p c).tick.holdover = p.tick.holdover := by
  simp [setCountDo]
@[simp] theorem opDo_keeps (p : Pkg) (c : PendCmd) : (opDo p c).1.pins = p.pins ∧ (opDo p c).1.tick = p.tick ∧ (opDo p
    c).1.glb = p.glb ∧ (opDo p c).1.ldr = p.ldr ∧ (opDo p c).1.numVfs = p.numVfs ∧ (opDo p c).1.lastGen = p.lastGen ∧ (opDo p
    c).1.kvp = p.kvp ∧ (opDo p c).1.i3c = p.i3c := by
  unfold opDo; (repeat' split) <;> (simp_all; done)
@[simp] theorem opAct_keeps (p : Pkg) (c : PendCmd) : (opAct p c).pins = p.pins ∧ (opAct p c).lastGen = p.lastGen := by
  unfold opAct; dsimp only; (repeat' split) <;> (simp_all; done)
@[simp] theorem opAct_vital (p : Pkg) (c : PendCmd) : (opAct p c).tick.refclkOk = p.tick.refclkOk ∧ (opAct p
    c).tick.phaseLocked = p.tick.phaseLocked ∧ (opAct p c).tick.holdover = p.tick.holdover := by
  unfold opAct; dsimp only; (repeat' split) <;> (simp_all; done)
@[simp] theorem opTake_keeps (p : Pkg) (c : PendCmd) : (opTake p c).pins = p.pins ∧ (opTake p c).lastGen = p.lastGen := by
  unfold opTake; dsimp only; (repeat' split) <;> (simp_all; done)
@[simp] theorem opTake_vital (p : Pkg) (c : PendCmd) : (opTake p c).tick.refclkOk = p.tick.refclkOk ∧ (opTake p
    c).tick.phaseLocked = p.tick.phaseLocked ∧ (opTake p c).tick.holdover = p.tick.holdover := by
  unfold opTake; dsimp only; (repeat' split) <;> (simp_all; done)
@[simp] theorem mgtCommand_keeps (op : Nat) (path : Path) (msg : Bytes) (p : Pkg) : (mgtCommand op path msg p).pins = p.pins ∧
    (mgtCommand op path msg p).lastGen = p.lastGen := by
  simp [mgtCommand]
@[simp] theorem mgtCommand_vital (op : Nat) (path : Path) (msg : Bytes) (p : Pkg) : (mgtCommand op path msg p).tick.refclkOk =
    p.tick.refclkOk ∧ (mgtCommand op path msg p).tick.phaseLocked = p.tick.phaseLocked ∧ (mgtCommand op path msg
    p).tick.holdover = p.tick.holdover := by
  simp [mgtCommand]
@[simp] theorem namedAct_keeps (p : Pkg) (c : PendCmd) : (namedAct p c).pins = p.pins ∧ (namedAct p c).lastGen = p.lastGen := by
  simp [namedAct]
@[simp] theorem namedAct_vital (p : Pkg) (c : PendCmd) : (namedAct p c).tick.refclkOk = p.tick.refclkOk ∧ (namedAct p
    c).tick.phaseLocked = p.tick.phaseLocked ∧ (namedAct p c).tick.holdover = p.tick.holdover := by
  simp [namedAct]
@[simp] theorem laneSample_keeps (p : Pkg) (s : LaneSample) : (laneSample p s).pins = p.pins ∧ (laneSample p s).tick = p.tick
    ∧ (laneSample p s).glb = p.glb ∧ (laneSample p s).scn = p.scn ∧ (laneSample p s).arrays = p.arrays ∧ (laneSample p s).ldr
    = p.ldr ∧ (laneSample p s).pens = p.pens ∧ (laneSample p s).nvw = p.nvw ∧ (laneSample p s).ctxs = p.ctxs ∧ (laneSample p
    s).numVfs = p.numVfs ∧ (laneSample p s).reqs = p.reqs ∧ (laneSample p s).lastGen = p.lastGen ∧ (laneSample p s).rq = p.rq
    ∧ (laneSample p s).kvp = p.kvp ∧ (laneSample p s).lsh = p.lsh ∧ (laneSample p s).hnd = p.hnd ∧ (laneSample p s).mgt =
    p.mgt ∧ (laneSample p s).i3c = p.i3c ∧ (laneSample p s).out = p.out ∧ (laneSample p s).pba = p.pba ∧ (laneSample p
    s).freeCtr = p.freeCtr := by
  simp [laneSample]
@[simp] theorem rollLanes_keeps (p : Pkg) : (rollLanes p).pins = p.pins ∧ (rollLanes p).tick = p.tick ∧ (rollLanes p).glb =
    p.glb ∧ (rollLanes p).scn = p.scn ∧ (rollLanes p).arrays = p.arrays ∧ (rollLanes p).ldr = p.ldr ∧ (rollLanes p).pens =
    p.pens ∧ (rollLanes p).nvw = p.nvw ∧ (rollLanes p).ctxs = p.ctxs ∧ (rollLanes p).numVfs = p.numVfs ∧ (rollLanes p).reqs =
    p.reqs ∧ (rollLanes p).lastGen = p.lastGen ∧ (rollLanes p).rq = p.rq ∧ (rollLanes p).kvp = p.kvp ∧ (rollLanes p).lsh =
    p.lsh ∧ (rollLanes p).hnd = p.hnd ∧ (rollLanes p).mgt = p.mgt ∧ (rollLanes p).i3c = p.i3c ∧ (rollLanes p).out = p.out ∧
    (rollLanes p).pba = p.pba ∧ (rollLanes p).freeCtr = p.freeCtr := by
  simp [rollLanes]
@[simp] theorem rollLanes_vital (p : Pkg) : (rollLanes p).glb.ready = p.glb.ready ∧ (rollLanes p).glb.selfTestDone =
    p.glb.selfTestDone ∧ (rollLanes p).glb.fwFault = p.glb.fwFault := by
  simp [rollLanes]
@[simp] theorem mgtRegWrite_keeps (p : Pkg) (fn off size v : Nat) : (mgtRegWrite p fn off size v).pins = p.pins ∧ (mgtRegWrite
    p fn off size v).tick = p.tick ∧ (mgtRegWrite p fn off size v).glb = p.glb ∧ (mgtRegWrite p fn off size v).arrays =
    p.arrays ∧ (mgtRegWrite p fn off size v).ldr = p.ldr ∧ (mgtRegWrite p fn off size v).pens = p.pens ∧ (mgtRegWrite p fn off
    size v).nvw = p.nvw ∧ (mgtRegWrite p fn off size v).ctxs = p.ctxs ∧ (mgtRegWrite p fn off size v).numVfs = p.numVfs ∧
    (mgtRegWrite p fn off size v).reqs = p.reqs ∧ (mgtRegWrite p fn off size v).lastGen = p.lastGen ∧ (mgtRegWrite p fn off
    size v).rq = p.rq ∧ (mgtRegWrite p fn off size v).kvp = p.kvp ∧ (mgtRegWrite p fn off size v).fab = p.fab ∧ (mgtRegWrite p
    fn off size v).lsh = p.lsh ∧ (mgtRegWrite p fn off size v).hnd = p.hnd ∧ (mgtRegWrite p fn off size v).i3c = p.i3c ∧
    (mgtRegWrite p fn off size v).freeCtr = p.freeCtr := by
  simp [mgtRegWrite]
@[simp] theorem whileUnbound_keeps (p : Pkg) (c : Nat) (f : HBind → HBind) : (whileUnbound p c f).pins = p.pins ∧
    (whileUnbound p c f).tick = p.tick ∧ (whileUnbound p c f).glb = p.glb ∧ (whileUnbound p c f).scn = p.scn ∧ (whileUnbound p
    c f).arrays = p.arrays ∧ (whileUnbound p c f).ldr = p.ldr ∧ (whileUnbound p c f).pens = p.pens ∧ (whileUnbound p c f).nvw
    = p.nvw ∧ (whileUnbound p c f).ctxs = p.ctxs ∧ (whileUnbound p c f).numVfs = p.numVfs ∧ (whileUnbound p c f).reqs = p.reqs
    ∧ (whileUnbound p c f).lastGen = p.lastGen ∧ (whileUnbound p c f).rq = p.rq ∧ (whileUnbound p c f).kvp = p.kvp ∧
    (whileUnbound p c f).fab = p.fab ∧ (whileUnbound p c f).lsh = p.lsh ∧ (whileUnbound p c f).mgt = p.mgt ∧ (whileUnbound p c
    f).i3c = p.i3c ∧ (whileUnbound p c f).out = p.out ∧ (whileUnbound p c f).pba = p.pba ∧ (whileUnbound p c f).freeCtr =
    p.freeCtr := by
  simp [whileUnbound]
@[simp] theorem hndCtrlWrite_keeps (p : Pkg) (c v : Nat) : (hndCtrlWrite p c v).pins = p.pins ∧ (hndCtrlWrite p c v).tick =
    p.tick ∧ (hndCtrlWrite p c v).glb = p.glb ∧ (hndCtrlWrite p c v).scn = p.scn ∧ (hndCtrlWrite p c v).arrays = p.arrays ∧
    (hndCtrlWrite p c v).ldr = p.ldr ∧ (hndCtrlWrite p c v).pens = p.pens ∧ (hndCtrlWrite p c v).nvw = p.nvw ∧ (hndCtrlWrite p
    c v).ctxs = p.ctxs ∧ (hndCtrlWrite p c v).numVfs = p.numVfs ∧ (hndCtrlWrite p c v).reqs = p.reqs ∧ (hndCtrlWrite p c
    v).lastGen = p.lastGen ∧ (hndCtrlWrite p c v).rq = p.rq ∧ (hndCtrlWrite p c v).kvp = p.kvp ∧ (hndCtrlWrite p c v).fab =
    p.fab ∧ (hndCtrlWrite p c v).lsh = p.lsh ∧ (hndCtrlWrite p c v).mgt = p.mgt ∧ (hndCtrlWrite p c v).i3c = p.i3c ∧
    (hndCtrlWrite p c v).out = p.out ∧ (hndCtrlWrite p c v).pba = p.pba ∧ (hndCtrlWrite p c v).freeCtr = p.freeCtr := by
  simp [hndCtrlWrite]
@[simp] theorem hndCtrlWrite_vital (p : Pkg) (c : ℕ) (v : ℕ) : (hndCtrlWrite p c v).tick.refclkOk = p.tick.refclkOk ∧
    (hndCtrlWrite p c v).tick.phaseLocked = p.tick.phaseLocked ∧ (hndCtrlWrite p c v).tick.holdover = p.tick.holdover := by
  simp [hndCtrlWrite]
@[simp] theorem hndRegWrite_keeps (p : Pkg) (fn c off v : Nat) : (hndRegWrite p fn c off v).pins = p.pins ∧ (hndRegWrite p fn
    c off v).tick = p.tick ∧ (hndRegWrite p fn c off v).arrays = p.arrays ∧ (hndRegWrite p fn c off v).ldr = p.ldr ∧
    (hndRegWrite p fn c off v).pens = p.pens ∧ (hndRegWrite p fn c off v).nvw = p.nvw ∧ (hndRegWrite p fn c off v).ctxs =
    p.ctxs ∧ (hndRegWrite p fn c off v).numVfs = p.numVfs ∧ (hndRegWrite p fn c off v).reqs = p.reqs ∧ (hndRegWrite p fn c off
    v).lastGen = p.lastGen ∧ (hndRegWrite p fn c off v).rq = p.rq ∧ (hndRegWrite p fn c off v).kvp = p.kvp ∧ (hndRegWrite p fn
    c off v).fab = p.fab ∧ (hndRegWrite p fn c off v).lsh = p.lsh ∧ (hndRegWrite p fn c off v).mgt = p.mgt ∧ (hndRegWrite p fn
    c off v).i3c = p.i3c ∧ (hndRegWrite p fn c off v).freeCtr = p.freeCtr := by
  unfold hndRegWrite; (repeat' split) <;> (simp_all; done)
@[simp] theorem hndRegWrite_vital (p : Pkg) (fn c off v : Nat) : (hndRegWrite p fn c off v).glb.ready = p.glb.ready ∧
    (hndRegWrite p fn c off v).glb.selfTestDone = p.glb.selfTestDone ∧ (hndRegWrite p fn c off v).glb.fwFault = p.glb.fwFault
    :=
    by
  unfold hndRegWrite; (repeat' split) <;> (simp_all; done)
@[simp] theorem setResult_keeps (p : Pkg) (c st : Nat) : (setResult p c st).pins = p.pins ∧ (setResult p c st).tick = p.tick ∧
    (setResult p c st).glb = p.glb ∧ (setResult p c st).scn = p.scn ∧ (setResult p c st).arrays = p.arrays ∧ (setResult p c
    st).ldr = p.ldr ∧ (setResult p c st).pens = p.pens ∧ (setResult p c st).nvw = p.nvw ∧ (setResult p c st).ctxs = p.ctxs ∧
    (setResult p c st).numVfs = p.numVfs ∧ (setResult p c st).reqs = p.reqs ∧ (setResult p c st).lastGen = p.lastGen ∧
    (setResult p c st).rq = p.rq ∧ (setResult p c st).kvp = p.kvp ∧ (setResult p c st).fab = p.fab ∧ (setResult p c st).lsh =
    p.lsh ∧ (setResult p c st).mgt = p.mgt ∧ (setResult p c st).i3c = p.i3c ∧ (setResult p c st).out = p.out ∧ (setResult p c
    st).pba = p.pba ∧ (setResult p c st).freeCtr = p.freeCtr := by
  simp [setResult]
@[simp] theorem bindOp_keeps (p : Pkg) (c : Nat) : (bindOp p c).pins = p.pins ∧ (bindOp p c).tick = p.tick ∧ (bindOp p c).glb
    = p.glb ∧ (bindOp p c).scn = p.scn ∧ (bindOp p c).arrays = p.arrays ∧ (bindOp p c).ldr = p.ldr ∧ (bindOp p c).nvw = p.nvw
    ∧ (bindOp p c).ctxs = p.ctxs ∧ (bindOp p c).numVfs = p.numVfs ∧ (bindOp p c).reqs = p.reqs ∧ (bindOp p c).lastGen =
    p.lastGen ∧ (bindOp p c).rq = p.rq ∧ (bindOp p c).kvp = p.kvp ∧ (bindOp p c).fab = p.fab ∧ (bindOp p c).lsh = p.lsh ∧
    (bindOp p c).mgt = p.mgt ∧ (bindOp p c).i3c = p.i3c ∧ (bindOp p c).freeCtr = p.freeCtr := by
  unfold bindOp; (repeat' split) <;> (simp_all; done)
@[simp] theorem imageLoaded_keeps (p : Pkg) (c : Nat) (image : Option Bytes) : (imageLoaded p c image).pins = p.pins ∧
    (imageLoaded p c image).tick = p.tick ∧ (imageLoaded p c image).glb = p.glb ∧ (imageLoaded p c image).arrays = p.arrays ∧
    (imageLoaded p c image).ldr = p.ldr ∧ (imageLoaded p c image).nvw = p.nvw ∧ (imageLoaded p c image).numVfs = p.numVfs ∧
    (imageLoaded p c image).reqs = p.reqs ∧ (imageLoaded p c image).lastGen = p.lastGen ∧ (imageLoaded p c image).rq = p.rq ∧
    (imageLoaded p c image).kvp = p.kvp ∧ (imageLoaded p c image).lsh = p.lsh ∧ (imageLoaded p c image).mgt = p.mgt ∧
    (imageLoaded p c image).i3c = p.i3c ∧ (imageLoaded p c image).freeCtr = p.freeCtr := by
  unfold imageLoaded; (repeat' split) <;> (simp_all; done)
@[simp] theorem pageFault_keeps (p : Pkg) (c : ℕ) (k : ℕ) (code : ℕ) (a : ℕ) : (pageFault p c k code a).pins = p.pins ∧
    (pageFault p c k code a).tick = p.tick ∧ (pageFault p c k code a).glb = p.glb ∧ (pageFault p c k code a).arrays = p.arrays
    ∧ (pageFault p c k code a).ldr = p.ldr ∧ (pageFault p c k code a).pens = p.pens ∧ (pageFault p c k code a).nvw = p.nvw ∧
    (pageFault p c k code a).numVfs = p.numVfs ∧ (pageFault p c k code a).reqs = p.reqs ∧ (pageFault p c k code a).lastGen =
    p.lastGen ∧ (pageFault p c k code a).rq = p.rq ∧ (pageFault p c k code a).kvp = p.kvp ∧ (pageFault p c k code a).fab =
    p.fab ∧ (pageFault p c k code a).lsh = p.lsh ∧ (pageFault p c k code a).mgt = p.mgt ∧ (pageFault p c k code a).i3c = p.i3c
    := by
  simp [pageFault]
@[simp] theorem loadedBy_keeps (p : Pkg) (k : ℕ) (b : Bytes) : (loadedBy p k b).pins = p.pins ∧ (loadedBy p k b).tick = p.tick
    ∧ (loadedBy p k b).glb = p.glb ∧ (loadedBy p k b).scn = p.scn ∧ (loadedBy p k b).arrays = p.arrays ∧ (loadedBy p k b).ldr
    = p.ldr ∧ (loadedBy p k b).pens = p.pens ∧ (loadedBy p k b).nvw = p.nvw ∧ (loadedBy p k b).ctxs = p.ctxs ∧ (loadedBy p k
    b).numVfs = p.numVfs ∧ (loadedBy p k b).reqs = p.reqs ∧ (loadedBy p k b).lastGen = p.lastGen ∧ (loadedBy p k b).rq = p.rq
    ∧ (loadedBy p k b).kvp = p.kvp ∧ (loadedBy p k b).fab = p.fab ∧ (loadedBy p k b).lsh = p.lsh ∧ (loadedBy p k b).mgt =
    p.mgt ∧ (loadedBy p k b).i3c = p.i3c ∧ (loadedBy p k b).out = p.out ∧ (loadedBy p k b).pba = p.pba ∧ (loadedBy p k
    b).freeCtr = p.freeCtr := by
  simp [loadedBy]
@[simp] theorem mailboxWrite_keeps (p : Pkg) (k : ℕ) (off : ℕ) (size : ℕ) (v : ℕ) : (mailboxWrite p k off size v).pins =
    p.pins ∧ (mailboxWrite p k off size v).tick = p.tick ∧ (mailboxWrite p k off size v).glb = p.glb ∧ (mailboxWrite p k off
    size v).scn = p.scn ∧ (mailboxWrite p k off size v).arrays = p.arrays ∧ (mailboxWrite p k off size v).ldr = p.ldr ∧
    (mailboxWrite p k off size v).pens = p.pens ∧ (mailboxWrite p k off size v).nvw = p.nvw ∧ (mailboxWrite p k off size
    v).ctxs = p.ctxs ∧ (mailboxWrite p k off size v).numVfs = p.numVfs ∧ (mailboxWrite p k off size v).reqs = p.reqs ∧
    (mailboxWrite p k off size v).lastGen = p.lastGen ∧ (mailboxWrite p k off size v).rq = p.rq ∧ (mailboxWrite p k off size
    v).kvp = p.kvp ∧ (mailboxWrite p k off size v).fab = p.fab ∧ (mailboxWrite p k off size v).lsh = p.lsh ∧ (mailboxWrite p k
    off size v).mgt = p.mgt ∧ (mailboxWrite p k off size v).i3c = p.i3c ∧ (mailboxWrite p k off size v).out = p.out ∧
    (mailboxWrite p k off size v).pba = p.pba ∧ (mailboxWrite p k off size v).freeCtr = p.freeCtr := by
  simp [mailboxWrite]
@[simp] theorem bindPageWrite_keeps (p : Pkg) (c : ℕ) (off : ℕ) (size : ℕ) (v : ℕ) : (bindPageWrite p c off size v).pins =
    p.pins ∧ (bindPageWrite p c off size v).tick = p.tick ∧ (bindPageWrite p c off size v).glb = p.glb ∧ (bindPageWrite p c
    off size v).scn = p.scn ∧ (bindPageWrite p c off size v).arrays = p.arrays ∧ (bindPageWrite p c off size v).ldr = p.ldr ∧
    (bindPageWrite p c off size v).pens = p.pens ∧ (bindPageWrite p c off size v).nvw = p.nvw ∧ (bindPageWrite p c off size
    v).ctxs = p.ctxs ∧ (bindPageWrite p c off size v).numVfs = p.numVfs ∧ (bindPageWrite p c off size v).reqs = p.reqs ∧
    (bindPageWrite p c off size v).lastGen = p.lastGen ∧ (bindPageWrite p c off size v).rq = p.rq ∧ (bindPageWrite p c off
    size v).kvp = p.kvp ∧ (bindPageWrite p c off size v).fab = p.fab ∧ (bindPageWrite p c off size v).lsh = p.lsh ∧
    (bindPageWrite p c off size v).mgt = p.mgt ∧ (bindPageWrite p c off size v).i3c = p.i3c ∧ (bindPageWrite p c off size
    v).out = p.out ∧ (bindPageWrite p c off size v).pba = p.pba ∧ (bindPageWrite p c off size v).freeCtr = p.freeCtr := by
  simp [bindPageWrite]
@[simp] theorem takeCmd_keeps (p : Pkg) (k c : Nat) (b : Bytes) : (takeCmd p k c b).pins = p.pins ∧ (takeCmd p k c b).tick =
    p.tick ∧ (takeCmd p k c b).glb = p.glb ∧ (takeCmd p k c b).scn = p.scn ∧ (takeCmd p k c b).arrays = p.arrays ∧ (takeCmd p
    k c b).ldr = p.ldr ∧ (takeCmd p k c b).pens = p.pens ∧ (takeCmd p k c b).nvw = p.nvw ∧ (takeCmd p k c b).numVfs = p.numVfs
    ∧ (takeCmd p k c b).reqs = p.reqs ∧ (takeCmd p k c b).lastGen = p.lastGen ∧ (takeCmd p k c b).rq = p.rq ∧ (takeCmd p k c
    b).kvp = p.kvp ∧ (takeCmd p k c b).lsh = p.lsh ∧ (takeCmd p k c b).mgt = p.mgt ∧ (takeCmd p k c b).i3c = p.i3c ∧ (takeCmd
    p k c b).freeCtr = p.freeCtr := by
  simp [takeCmd]
@[simp] theorem takeCmd_vital (p : Pkg) (k : ℕ) (c : ℕ) (b : Bytes) : (takeCmd p k c b).tick.refclkOk = p.tick.refclkOk ∧
    (takeCmd p k c b).tick.phaseLocked = p.tick.phaseLocked ∧ (takeCmd p k c b).tick.holdover = p.tick.holdover := by
  simp [takeCmd]
@[simp] theorem takeMail_keeps (p : Pkg) (k c : Nat) (z0 : Nat) : (takeMail p k c z0).pins = p.pins ∧ (takeMail p k c z0).tick
    = p.tick ∧ (takeMail p k c z0).glb = p.glb ∧ (takeMail p k c z0).arrays = p.arrays ∧ (takeMail p k c z0).ldr = p.ldr ∧
    (takeMail p k c z0).pens = p.pens ∧ (takeMail p k c z0).nvw = p.nvw ∧ (takeMail p k c z0).numVfs = p.numVfs ∧ (takeMail p
    k c z0).reqs = p.reqs ∧ (takeMail p k c z0).lastGen = p.lastGen ∧ (takeMail p k c z0).rq = p.rq ∧ (takeMail p k c z0).kvp
    = p.kvp ∧ (takeMail p k c z0).lsh = p.lsh ∧ (takeMail p k c z0).mgt = p.mgt ∧ (takeMail p k c z0).i3c = p.i3c ∧ (takeMail
    p k c z0).freeCtr = p.freeCtr := by
  fun_induction takeMail p k c z0 <;> (simp_all; done)
@[simp] theorem pumpMail_keeps (p : Pkg) (k : Nat) : (pumpMail p k).pins = p.pins ∧ (pumpMail p k).tick = p.tick ∧ (pumpMail p
    k).glb = p.glb ∧ (pumpMail p k).arrays = p.arrays ∧ (pumpMail p k).ldr = p.ldr ∧ (pumpMail p k).pens = p.pens ∧ (pumpMail
    p k).nvw = p.nvw ∧ (pumpMail p k).numVfs = p.numVfs ∧ (pumpMail p k).reqs = p.reqs ∧ (pumpMail p k).lastGen = p.lastGen ∧
    (pumpMail p k).rq = p.rq ∧ (pumpMail p k).kvp = p.kvp ∧ (pumpMail p k).lsh = p.lsh ∧ (pumpMail p k).mgt = p.mgt ∧
    (pumpMail p k).i3c = p.i3c := by
  unfold pumpMail; (repeat' split) <;> (simp_all; done)
@[simp] theorem mailDoorbell_keeps (p : Pkg) (k v : Nat) : (mailDoorbell p k v).pins = p.pins ∧ (mailDoorbell p k v).tick =
    p.tick ∧ (mailDoorbell p k v).glb = p.glb ∧ (mailDoorbell p k v).arrays = p.arrays ∧ (mailDoorbell p k v).ldr = p.ldr ∧
    (mailDoorbell p k v).pens = p.pens ∧ (mailDoorbell p k v).nvw = p.nvw ∧ (mailDoorbell p k v).numVfs = p.numVfs ∧
    (mailDoorbell p k v).reqs = p.reqs ∧ (mailDoorbell p k v).lastGen = p.lastGen ∧ (mailDoorbell p k v).rq = p.rq ∧
    (mailDoorbell p k v).kvp = p.kvp ∧ (mailDoorbell p k v).lsh = p.lsh ∧ (mailDoorbell p k v).mgt = p.mgt ∧ (mailDoorbell p k
    v).i3c = p.i3c := by
  simp [mailDoorbell]
@[simp] theorem mailDoorbell_vital (p : Pkg) (k : ℕ) (v : ℕ) : (mailDoorbell p k v).tick.refclkOk = p.tick.refclkOk ∧
    (mailDoorbell p k v).tick.phaseLocked = p.tick.phaseLocked ∧ (mailDoorbell p k v).tick.holdover = p.tick.holdover := by
  simp [mailDoorbell]
@[simp] theorem mailWordWrite_keeps (p : Pkg) (k : ℕ) (off : ℕ) (v : ℕ) : (mailWordWrite p k off v).pins = p.pins ∧
    (mailWordWrite p k off v).tick = p.tick ∧ (mailWordWrite p k off v).glb = p.glb ∧ (mailWordWrite p k off v).arrays =
    p.arrays ∧ (mailWordWrite p k off v).ldr = p.ldr ∧ (mailWordWrite p k off v).pens = p.pens ∧ (mailWordWrite p k off v).nvw
    = p.nvw ∧ (mailWordWrite p k off v).numVfs = p.numVfs ∧ (mailWordWrite p k off v).reqs = p.reqs ∧ (mailWordWrite p k off
    v).lastGen = p.lastGen ∧ (mailWordWrite p k off v).rq = p.rq ∧ (mailWordWrite p k off v).kvp = p.kvp ∧ (mailWordWrite p k
    off v).lsh = p.lsh ∧ (mailWordWrite p k off v).mgt = p.mgt ∧ (mailWordWrite p k off v).i3c = p.i3c := by
  simp [mailWordWrite]
@[simp] theorem fqTailWrite_keeps (p : Pkg) (c : ℕ) (v : ℕ) : (fqTailWrite p c v).pins = p.pins ∧ (fqTailWrite p c v).tick =
    p.tick ∧ (fqTailWrite p c v).glb = p.glb ∧ (fqTailWrite p c v).scn = p.scn ∧ (fqTailWrite p c v).arrays = p.arrays ∧
    (fqTailWrite p c v).ldr = p.ldr ∧ (fqTailWrite p c v).pens = p.pens ∧ (fqTailWrite p c v).nvw = p.nvw ∧ (fqTailWrite p c
    v).ctxs = p.ctxs ∧ (fqTailWrite p c v).numVfs = p.numVfs ∧ (fqTailWrite p c v).reqs = p.reqs ∧ (fqTailWrite p c v).lastGen
    = p.lastGen ∧ (fqTailWrite p c v).rq = p.rq ∧ (fqTailWrite p c v).kvp = p.kvp ∧ (fqTailWrite p c v).fab = p.fab ∧
    (fqTailWrite p c v).lsh = p.lsh ∧ (fqTailWrite p c v).mgt = p.mgt ∧ (fqTailWrite p c v).i3c = p.i3c ∧ (fqTailWrite p c
    v).out = p.out ∧ (fqTailWrite p c v).pba = p.pba ∧ (fqTailWrite p c v).freeCtr = p.freeCtr := by
  simp [fqTailWrite]
@[simp] theorem fqTailWrite_vital (p : Pkg) (c : ℕ) (v : ℕ) : (fqTailWrite p c v).tick.refclkOk = p.tick.refclkOk ∧
    (fqTailWrite p c v).tick.phaseLocked = p.tick.phaseLocked ∧ (fqTailWrite p c v).tick.holdover = p.tick.holdover := by
  simp [fqTailWrite]
@[simp] theorem tqHeadWrite_keeps (p : Pkg) (c : ℕ) (v : ℕ) : (tqHeadWrite p c v).pins = p.pins ∧ (tqHeadWrite p c v).tick =
    p.tick ∧ (tqHeadWrite p c v).glb = p.glb ∧ (tqHeadWrite p c v).scn = p.scn ∧ (tqHeadWrite p c v).arrays = p.arrays ∧
    (tqHeadWrite p c v).ldr = p.ldr ∧ (tqHeadWrite p c v).pens = p.pens ∧ (tqHeadWrite p c v).nvw = p.nvw ∧ (tqHeadWrite p c
    v).ctxs = p.ctxs ∧ (tqHeadWrite p c v).numVfs = p.numVfs ∧ (tqHeadWrite p c v).reqs = p.reqs ∧ (tqHeadWrite p c v).lastGen
    = p.lastGen ∧ (tqHeadWrite p c v).rq = p.rq ∧ (tqHeadWrite p c v).kvp = p.kvp ∧ (tqHeadWrite p c v).fab = p.fab ∧
    (tqHeadWrite p c v).lsh = p.lsh ∧ (tqHeadWrite p c v).mgt = p.mgt ∧ (tqHeadWrite p c v).i3c = p.i3c ∧ (tqHeadWrite p c
    v).out = p.out ∧ (tqHeadWrite p c v).pba = p.pba ∧ (tqHeadWrite p c v).freeCtr = p.freeCtr := by
  simp [tqHeadWrite]
@[simp] theorem tqHeadWrite_vital (p : Pkg) (c : ℕ) (v : ℕ) : (tqHeadWrite p c v).tick.refclkOk = p.tick.refclkOk ∧
    (tqHeadWrite p c v).tick.phaseLocked = p.tick.phaseLocked ∧ (tqHeadWrite p c v).tick.holdover = p.tick.holdover := by
  simp [tqHeadWrite]
@[simp] theorem bindWordWrite_keeps (p : Pkg) (c : ℕ) (off : ℕ) (v : ℕ) : (bindWordWrite p c off v).pins = p.pins ∧
    (bindWordWrite p c off v).tick = p.tick ∧ (bindWordWrite p c off v).glb = p.glb ∧ (bindWordWrite p c off v).scn = p.scn ∧
    (bindWordWrite p c off v).arrays = p.arrays ∧ (bindWordWrite p c off v).ldr = p.ldr ∧ (bindWordWrite p c off v).pens =
    p.pens ∧ (bindWordWrite p c off v).nvw = p.nvw ∧ (bindWordWrite p c off v).ctxs = p.ctxs ∧ (bindWordWrite p c off
    v).numVfs = p.numVfs ∧ (bindWordWrite p c off v).reqs = p.reqs ∧ (bindWordWrite p c off v).lastGen = p.lastGen ∧
    (bindWordWrite p c off v).rq = p.rq ∧ (bindWordWrite p c off v).kvp = p.kvp ∧ (bindWordWrite p c off v).fab = p.fab ∧
    (bindWordWrite p c off v).lsh = p.lsh ∧ (bindWordWrite p c off v).mgt = p.mgt ∧ (bindWordWrite p c off v).i3c = p.i3c ∧
    (bindWordWrite p c off v).out = p.out ∧ (bindWordWrite p c off v).pba = p.pba ∧ (bindWordWrite p c off v).freeCtr =
    p.freeCtr := by
  simp [bindWordWrite]
@[simp] theorem ringBaseWrite_keeps (p : Pkg) (k : ℕ) (c : ℕ) (off : ℕ) (size : ℕ) (v : ℕ) : (ringBaseWrite p k c off size
    v).pins = p.pins ∧ (ringBaseWrite p k c off size v).tick = p.tick ∧ (ringBaseWrite p k c off size v).glb = p.glb ∧
    (ringBaseWrite p k c off size v).arrays = p.arrays ∧ (ringBaseWrite p k c off size v).ldr = p.ldr ∧ (ringBaseWrite p k c
    off size v).pens = p.pens ∧ (ringBaseWrite p k c off size v).nvw = p.nvw ∧ (ringBaseWrite p k c off size v).numVfs =
    p.numVfs ∧ (ringBaseWrite p k c off size v).reqs = p.reqs ∧ (ringBaseWrite p k c off size v).lastGen = p.lastGen ∧
    (ringBaseWrite p k c off size v).rq = p.rq ∧ (ringBaseWrite p k c off size v).kvp = p.kvp ∧ (ringBaseWrite p k c off size
    v).lsh = p.lsh ∧ (ringBaseWrite p k c off size v).mgt = p.mgt ∧ (ringBaseWrite p k c off size v).i3c = p.i3c := by
  simp [ringBaseWrite]
@[simp] theorem pageStore_keeps (p : Pkg) (c : ℕ) (a : ℕ) (d : Bytes) : (pageStore p c a d).pins = p.pins ∧ (pageStore p c a
    d).tick = p.tick ∧ (pageStore p c a d).glb = p.glb ∧ (pageStore p c a d).arrays = p.arrays ∧ (pageStore p c a d).ldr =
    p.ldr ∧ (pageStore p c a d).pens = p.pens ∧ (pageStore p c a d).nvw = p.nvw ∧ (pageStore p c a d).numVfs = p.numVfs ∧
    (pageStore p c a d).reqs = p.reqs ∧ (pageStore p c a d).lastGen = p.lastGen ∧ (pageStore p c a d).rq = p.rq ∧ (pageStore p
    c a d).kvp = p.kvp ∧ (pageStore p c a d).lsh = p.lsh ∧ (pageStore p c a d).mgt = p.mgt ∧ (pageStore p c a d).i3c = p.i3c
    := by
  unfold pageStore
  extract_lets v
  split
  · generalize 0x100000 + (v - bindPage) = off
    exact ringBaseWrite_keeps _ _ _ _ _ _
  · generalize (v - pageBase) % 0x1000 = off
    exact ringBaseWrite_keeps _ _ _ _ _ _
@[simp] theorem progAccess_keeps (c : ℕ) (k : ℕ) (p : Pkg) (x : Access) : (progAccess c k p x).pins = p.pins ∧ (progAccess c k
    p x).tick = p.tick ∧ (progAccess c k p x).glb = p.glb ∧ (progAccess c k p x).arrays = p.arrays ∧ (progAccess c k p x).ldr
    = p.ldr ∧ (progAccess c k p x).pens = p.pens ∧ (progAccess c k p x).nvw = p.nvw ∧ (progAccess c k p x).numVfs = p.numVfs ∧
    (progAccess c k p x).reqs = p.reqs ∧ (progAccess c k p x).lastGen = p.lastGen ∧ (progAccess c k p x).rq = p.rq ∧
    (progAccess c k p x).kvp = p.kvp ∧ (progAccess c k p x).lsh = p.lsh ∧ (progAccess c k p x).mgt = p.mgt ∧ (progAccess c k p
    x).i3c = p.i3c := by
  unfold progAccess; (repeat' split) <;> (simp_all; done)
@[simp] theorem progStores_keeps (p : Pkg) (c : ℕ) (k : ℕ) (l : Stores) : (progStores p c k l).pins = p.pins ∧ (progStores p c
    k l).tick = p.tick ∧ (progStores p c k l).glb = p.glb ∧ (progStores p c k l).arrays = p.arrays ∧ (progStores p c k l).ldr
    = p.ldr ∧ (progStores p c k l).pens = p.pens ∧ (progStores p c k l).nvw = p.nvw ∧ (progStores p c k l).numVfs = p.numVfs ∧
    (progStores p c k l).reqs = p.reqs ∧ (progStores p c k l).lastGen = p.lastGen ∧ (progStores p c k l).rq = p.rq ∧
    (progStores p c k l).kvp = p.kvp ∧ (progStores p c k l).lsh = p.lsh ∧ (progStores p c k l).mgt = p.mgt ∧ (progStores p c k
    l).i3c = p.i3c := by
  simp [progStores]
@[simp] theorem fqIssue_keeps (p : Pkg) (c : Nat) : (fqIssue p c).pins = p.pins ∧ (fqIssue p c).tick = p.tick ∧ (fqIssue p
    c).glb = p.glb ∧ (fqIssue p c).scn = p.scn ∧ (fqIssue p c).arrays = p.arrays ∧ (fqIssue p c).ldr = p.ldr ∧ (fqIssue p
    c).pens = p.pens ∧ (fqIssue p c).nvw = p.nvw ∧ (fqIssue p c).ctxs = p.ctxs ∧ (fqIssue p c).numVfs = p.numVfs ∧ (fqIssue p
    c).reqs = p.reqs ∧ (fqIssue p c).lastGen = p.lastGen ∧ (fqIssue p c).rq = p.rq ∧ (fqIssue p c).kvp = p.kvp ∧ (fqIssue p
    c).lsh = p.lsh ∧ (fqIssue p c).mgt = p.mgt ∧ (fqIssue p c).i3c = p.i3c ∧ (fqIssue p c).freeCtr = p.freeCtr := by
  unfold fqIssue; dsimp only; (repeat' split) <;> (simp_all; done)
@[simp] theorem flushFq_keeps (p : Pkg) (c : Nat) (z0 : Nat) : (flushFq p c z0).pins = p.pins ∧ (flushFq p c z0).tick = p.tick
    ∧ (flushFq p c z0).glb = p.glb ∧ (flushFq p c z0).scn = p.scn ∧ (flushFq p c z0).arrays = p.arrays ∧ (flushFq p c z0).ldr
    = p.ldr ∧ (flushFq p c z0).pens = p.pens ∧ (flushFq p c z0).nvw = p.nvw ∧ (flushFq p c z0).ctxs = p.ctxs ∧ (flushFq p c
    z0).numVfs = p.numVfs ∧ (flushFq p c z0).reqs = p.reqs ∧ (flushFq p c z0).lastGen = p.lastGen ∧ (flushFq p c z0).rq = p.rq
    ∧ (flushFq p c z0).kvp = p.kvp ∧ (flushFq p c z0).lsh = p.lsh ∧ (flushFq p c z0).mgt = p.mgt ∧ (flushFq p c z0).i3c =
    p.i3c ∧ (flushFq p c z0).freeCtr = p.freeCtr := by
  fun_induction flushFq p c z0 <;> (simp_all; done)
@[simp] theorem fqCommand_keeps (p : Pkg) (c : ℕ) (k : ℕ) (op : ℕ) (tail : ℕ) (l : Stores) : (fqCommand p c k op tail l).pins
    = p.pins ∧ (fqCommand p c k op tail l).tick = p.tick ∧ (fqCommand p c k op tail l).glb = p.glb ∧ (fqCommand p c k op tail
    l).arrays = p.arrays ∧ (fqCommand p c k op tail l).ldr = p.ldr ∧ (fqCommand p c k op tail l).pens = p.pens ∧ (fqCommand p
    c k op tail l).nvw = p.nvw ∧ (fqCommand p c k op tail l).numVfs = p.numVfs ∧ (fqCommand p c k op tail l).reqs = p.reqs ∧
    (fqCommand p c k op tail l).lastGen = p.lastGen ∧ (fqCommand p c k op tail l).rq = p.rq ∧ (fqCommand p c k op tail l).kvp
    = p.kvp ∧ (fqCommand p c k op tail l).lsh = p.lsh ∧ (fqCommand p c k op tail l).mgt = p.mgt ∧ (fqCommand p c k op tail
    l).i3c = p.i3c := by
  simp [fqCommand]
@[simp] theorem callRegs_keeps (p : Pkg) (k : ℕ) (call : ℕ) (a0 : ℕ) : (callRegs p k call a0).pins = p.pins ∧ (callRegs p k
    call a0).tick = p.tick ∧ (callRegs p k call a0).glb = p.glb ∧ (callRegs p k call a0).scn = p.scn ∧ (callRegs p k call
    a0).arrays = p.arrays ∧ (callRegs p k call a0).ldr = p.ldr ∧ (callRegs p k call a0).pens = p.pens ∧ (callRegs p k call
    a0).nvw = p.nvw ∧ (callRegs p k call a0).ctxs = p.ctxs ∧ (callRegs p k call a0).numVfs = p.numVfs ∧ (callRegs p k call
    a0).reqs = p.reqs ∧ (callRegs p k call a0).lastGen = p.lastGen ∧ (callRegs p k call a0).rq = p.rq ∧ (callRegs p k call
    a0).kvp = p.kvp ∧ (callRegs p k call a0).fab = p.fab ∧ (callRegs p k call a0).lsh = p.lsh ∧ (callRegs p k call a0).mgt =
    p.mgt ∧ (callRegs p k call a0).i3c = p.i3c ∧ (callRegs p k call a0).out = p.out ∧ (callRegs p k call a0).pba = p.pba ∧
    (callRegs p k call a0).freeCtr = p.freeCtr := by
  simp [callRegs]
@[simp] theorem exitHart_keeps (p : Pkg) (k c a0 : Nat) : (exitHart p k c a0).pins = p.pins ∧ (exitHart p k c a0).tick =
    p.tick ∧ (exitHart p k c a0).glb = p.glb ∧ (exitHart p k c a0).arrays = p.arrays ∧ (exitHart p k c a0).ldr = p.ldr ∧
    (exitHart p k c a0).pens = p.pens ∧ (exitHart p k c a0).nvw = p.nvw ∧ (exitHart p k c a0).ctxs = p.ctxs ∧ (exitHart p k c
    a0).numVfs = p.numVfs ∧ (exitHart p k c a0).reqs = p.reqs ∧ (exitHart p k c a0).lastGen = p.lastGen ∧ (exitHart p k c
    a0).rq = p.rq ∧ (exitHart p k c a0).kvp = p.kvp ∧ (exitHart p k c a0).fab = p.fab ∧ (exitHart p k c a0).lsh = p.lsh ∧
    (exitHart p k c a0).mgt = p.mgt ∧ (exitHart p k c a0).i3c = p.i3c ∧ (exitHart p k c a0).freeCtr = p.freeCtr := by
  simp [exitHart]
@[simp] theorem exitHart_vital (p : Pkg) (k : ℕ) (c : ℕ) (a0 : ℕ) : (exitHart p k c a0).tick.refclkOk = p.tick.refclkOk ∧
    (exitHart p k c a0).tick.phaseLocked = p.tick.phaseLocked ∧ (exitHart p k c a0).tick.holdover = p.tick.holdover := by
  simp [exitHart]
@[simp] theorem waitHart_keeps (p : Pkg) (k a0 : Nat) : (waitHart p k a0).pins = p.pins ∧ (waitHart p k a0).tick = p.tick ∧
    (waitHart p k a0).glb = p.glb ∧ (waitHart p k a0).scn = p.scn ∧ (waitHart p k a0).arrays = p.arrays ∧ (waitHart p k
    a0).ldr = p.ldr ∧ (waitHart p k a0).pens = p.pens ∧ (waitHart p k a0).nvw = p.nvw ∧ (waitHart p k a0).ctxs = p.ctxs ∧
    (waitHart p k a0).numVfs = p.numVfs ∧ (waitHart p k a0).reqs = p.reqs ∧ (waitHart p k a0).lastGen = p.lastGen ∧ (waitHart
    p k a0).rq = p.rq ∧ (waitHart p k a0).kvp = p.kvp ∧ (waitHart p k a0).fab = p.fab ∧ (waitHart p k a0).lsh = p.lsh ∧
    (waitHart p k a0).mgt = p.mgt ∧ (waitHart p k a0).i3c = p.i3c ∧ (waitHart p k a0).out = p.out ∧ (waitHart p k a0).pba =
    p.pba := by
  simp [waitHart]
@[simp] theorem setPc_keeps (p : Pkg) (k : ℕ) (pc : ℕ) : (setPc p k pc).pins = p.pins ∧ (setPc p k pc).tick = p.tick ∧ (setPc
    p k pc).glb = p.glb ∧ (setPc p k pc).scn = p.scn ∧ (setPc p k pc).arrays = p.arrays ∧ (setPc p k pc).ldr = p.ldr ∧ (setPc
    p k pc).pens = p.pens ∧ (setPc p k pc).nvw = p.nvw ∧ (setPc p k pc).ctxs = p.ctxs ∧ (setPc p k pc).numVfs = p.numVfs ∧
    (setPc p k pc).reqs = p.reqs ∧ (setPc p k pc).lastGen = p.lastGen ∧ (setPc p k pc).rq = p.rq ∧ (setPc p k pc).kvp = p.kvp
    ∧ (setPc p k pc).fab = p.fab ∧ (setPc p k pc).lsh = p.lsh ∧ (setPc p k pc).mgt = p.mgt ∧ (setPc p k pc).i3c = p.i3c ∧
    (setPc p k pc).out = p.out ∧ (setPc p k pc).pba = p.pba := by
  simp [setPc]
@[simp] theorem houndFaultOp_keeps (p : Pkg) (c core kind code pc tval : Nat) : (houndFaultOp p c core kind code pc tval).pins
    = p.pins ∧ (houndFaultOp p c core kind code pc tval).tick = p.tick ∧ (houndFaultOp p c core kind code pc tval).arrays =
    p.arrays ∧ (houndFaultOp p c core kind code pc tval).ldr = p.ldr ∧ (houndFaultOp p c core kind code pc tval).pens = p.pens
    ∧ (houndFaultOp p c core kind code pc tval).nvw = p.nvw ∧ (houndFaultOp p c core kind code pc tval).numVfs = p.numVfs ∧
    (houndFaultOp p c core kind code pc tval).reqs = p.reqs ∧ (houndFaultOp p c core kind code pc tval).lastGen = p.lastGen ∧
    (houndFaultOp p c core kind code pc tval).rq = p.rq ∧ (houndFaultOp p c core kind code pc tval).kvp = p.kvp ∧
    (houndFaultOp p c core kind code pc tval).fab = p.fab ∧ (houndFaultOp p c core kind code pc tval).lsh = p.lsh ∧
    (houndFaultOp p c core kind code pc tval).mgt = p.mgt ∧ (houndFaultOp p c core kind code pc tval).i3c = p.i3c := by
  simp [houndFaultOp]
@[simp] theorem houndFaultOp_vital (p : Pkg) (c core kind code pc tval : Nat) : (houndFaultOp p c core kind code pc
    tval).glb.ready = p.glb.ready ∧ (houndFaultOp p c core kind code pc tval).glb.selfTestDone = p.glb.selfTestDone ∧
    (houndFaultOp p c core kind code pc tval).glb.fwFault = p.glb.fwFault := by
  simp [houndFaultOp]
@[simp] theorem fenceEnds_keeps (p : Pkg) (f : FabFence) : (fenceEnds p f).pins = p.pins ∧ (fenceEnds p f).tick = p.tick ∧
    (fenceEnds p f).glb = p.glb ∧ (fenceEnds p f).scn = p.scn ∧ (fenceEnds p f).arrays = p.arrays ∧ (fenceEnds p f).ldr =
    p.ldr ∧ (fenceEnds p f).pens = p.pens ∧ (fenceEnds p f).nvw = p.nvw ∧ (fenceEnds p f).ctxs = p.ctxs ∧ (fenceEnds p
    f).numVfs = p.numVfs ∧ (fenceEnds p f).reqs = p.reqs ∧ (fenceEnds p f).lastGen = p.lastGen ∧ (fenceEnds p f).rq = p.rq ∧
    (fenceEnds p f).kvp = p.kvp ∧ (fenceEnds p f).lsh = p.lsh ∧ (fenceEnds p f).mgt = p.mgt ∧ (fenceEnds p f).i3c = p.i3c ∧
    (fenceEnds p f).out = p.out ∧ (fenceEnds p f).pba = p.pba ∧ (fenceEnds p f).freeCtr = p.freeCtr := by
  simp [fenceEnds]
@[simp] theorem fencesTimeOut_keeps (p : Pkg) (h : Hdr) : (fencesTimeOut p h).pins = p.pins ∧ (fencesTimeOut p h).tick =
    p.tick ∧ (fencesTimeOut p h).glb = p.glb ∧ (fencesTimeOut p h).scn = p.scn ∧ (fencesTimeOut p h).arrays = p.arrays ∧
    (fencesTimeOut p h).ldr = p.ldr ∧ (fencesTimeOut p h).pens = p.pens ∧ (fencesTimeOut p h).nvw = p.nvw ∧ (fencesTimeOut p
    h).ctxs = p.ctxs ∧ (fencesTimeOut p h).numVfs = p.numVfs ∧ (fencesTimeOut p h).reqs = p.reqs ∧ (fencesTimeOut p h).lastGen
    = p.lastGen ∧ (fencesTimeOut p h).rq = p.rq ∧ (fencesTimeOut p h).kvp = p.kvp ∧ (fencesTimeOut p h).lsh = p.lsh ∧
    (fencesTimeOut p h).hnd = p.hnd ∧ (fencesTimeOut p h).mgt = p.mgt ∧ (fencesTimeOut p h).i3c = p.i3c ∧ (fencesTimeOut p
    h).out = p.out ∧ (fencesTimeOut p h).pba = p.pba ∧ (fencesTimeOut p h).freeCtr = p.freeCtr := by
  simp [fencesTimeOut]
@[simp] theorem fencesTimeOut_vital (p : Pkg) (h : Hdr) : (fencesTimeOut p h).tick.refclkOk = p.tick.refclkOk ∧ (fencesTimeOut
    p h).tick.phaseLocked = p.tick.phaseLocked ∧ (fencesTimeOut p h).tick.holdover = p.tick.holdover := by
  simp [fencesTimeOut]
@[simp] theorem loadTimesOut_keeps (p : Pkg) (t : Txn) : (loadTimesOut p t).pins = p.pins ∧ (loadTimesOut p t).tick = p.tick ∧
    (loadTimesOut p t).glb = p.glb ∧ (loadTimesOut p t).arrays = p.arrays ∧ (loadTimesOut p t).ldr = p.ldr ∧ (loadTimesOut p
    t).pens = p.pens ∧ (loadTimesOut p t).nvw = p.nvw ∧ (loadTimesOut p t).ctxs = p.ctxs ∧ (loadTimesOut p t).numVfs =
    p.numVfs ∧ (loadTimesOut p t).reqs = p.reqs ∧ (loadTimesOut p t).lastGen = p.lastGen ∧ (loadTimesOut p t).rq = p.rq ∧
    (loadTimesOut p t).kvp = p.kvp ∧ (loadTimesOut p t).lsh = p.lsh ∧ (loadTimesOut p t).mgt = p.mgt ∧ (loadTimesOut p t).i3c
    = p.i3c ∧ (loadTimesOut p t).freeCtr = p.freeCtr := by
  simp [loadTimesOut]
@[simp] theorem storeTimesOut_keeps (p : Pkg) (t : Txn) : (storeTimesOut p t).pins = p.pins ∧ (storeTimesOut p t).tick =
    p.tick ∧ (storeTimesOut p t).glb = p.glb ∧ (storeTimesOut p t).arrays = p.arrays ∧ (storeTimesOut p t).ldr = p.ldr ∧
    (storeTimesOut p t).pens = p.pens ∧ (storeTimesOut p t).nvw = p.nvw ∧ (storeTimesOut p t).ctxs = p.ctxs ∧ (storeTimesOut p
    t).numVfs = p.numVfs ∧ (storeTimesOut p t).reqs = p.reqs ∧ (storeTimesOut p t).lastGen = p.lastGen ∧ (storeTimesOut p
    t).rq = p.rq ∧ (storeTimesOut p t).kvp = p.kvp ∧ (storeTimesOut p t).lsh = p.lsh ∧ (storeTimesOut p t).mgt = p.mgt ∧
    (storeTimesOut p t).i3c = p.i3c ∧ (storeTimesOut p t).freeCtr = p.freeCtr := by
  simp [storeTimesOut]
@[simp] theorem storeTimesOut_vital (p : Pkg) (t : Txn) : (storeTimesOut p t).tick.refclkOk = p.tick.refclkOk ∧ (storeTimesOut
    p t).tick.phaseLocked = p.tick.phaseLocked ∧ (storeTimesOut p t).tick.holdover = p.tick.holdover := by
  simp [storeTimesOut]
@[simp] theorem probeGo_keeps (p : Pkg) (v : Nat) : (probeGo p v).pins = p.pins ∧ (probeGo p v).tick = p.tick ∧ (probeGo p
    v).glb = p.glb ∧ (probeGo p v).scn = p.scn ∧ (probeGo p v).arrays = p.arrays ∧ (probeGo p v).ldr = p.ldr ∧ (probeGo p
    v).pens = p.pens ∧ (probeGo p v).nvw = p.nvw ∧ (probeGo p v).ctxs = p.ctxs ∧ (probeGo p v).numVfs = p.numVfs ∧ (probeGo p
    v).reqs = p.reqs ∧ (probeGo p v).lastGen = p.lastGen ∧ (probeGo p v).rq = p.rq ∧ (probeGo p v).kvp = p.kvp ∧ (probeGo p
    v).lsh = p.lsh ∧ (probeGo p v).hnd = p.hnd ∧ (probeGo p v).mgt = p.mgt ∧ (probeGo p v).i3c = p.i3c ∧ (probeGo p v).freeCtr
    = p.freeCtr := by
  unfold probeGo; dsimp only; (repeat' split) <;> (simp_all; done)
@[simp] theorem rrcInvalidate_keeps (p : Pkg) : (rrcInvalidate p).pins = p.pins ∧ (rrcInvalidate p).tick = p.tick ∧
    (rrcInvalidate p).glb = p.glb ∧ (rrcInvalidate p).scn = p.scn ∧ (rrcInvalidate p).arrays = p.arrays ∧ (rrcInvalidate
    p).ldr = p.ldr ∧ (rrcInvalidate p).pens = p.pens ∧ (rrcInvalidate p).nvw = p.nvw ∧ (rrcInvalidate p).ctxs = p.ctxs ∧
    (rrcInvalidate p).numVfs = p.numVfs ∧ (rrcInvalidate p).reqs = p.reqs ∧ (rrcInvalidate p).lastGen = p.lastGen ∧
    (rrcInvalidate p).rq = p.rq ∧ (rrcInvalidate p).kvp = p.kvp ∧ (rrcInvalidate p).lsh = p.lsh ∧ (rrcInvalidate p).hnd =
    p.hnd ∧ (rrcInvalidate p).mgt = p.mgt ∧ (rrcInvalidate p).i3c = p.i3c ∧ (rrcInvalidate p).out = p.out ∧ (rrcInvalidate
    p).pba = p.pba ∧ (rrcInvalidate p).freeCtr = p.freeCtr := by
  simp [rrcInvalidate]
@[simp] theorem capCommit_keeps (p : Pkg) : (capCommit p).pins = p.pins ∧ (capCommit p).tick = p.tick ∧ (capCommit p).glb =
    p.glb ∧ (capCommit p).arrays = p.arrays ∧ (capCommit p).ldr = p.ldr ∧ (capCommit p).pens = p.pens ∧ (capCommit p).nvw =
    p.nvw ∧ (capCommit p).ctxs = p.ctxs ∧ (capCommit p).numVfs = p.numVfs ∧ (capCommit p).reqs = p.reqs ∧ (capCommit
    p).lastGen = p.lastGen ∧ (capCommit p).rq = p.rq ∧ (capCommit p).kvp = p.kvp ∧ (capCommit p).fab = p.fab ∧ (capCommit
    p).hnd = p.hnd ∧ (capCommit p).i3c = p.i3c ∧ (capCommit p).freeCtr = p.freeCtr := by
  unfold capCommit; (repeat' split) <;> (simp_all; done)
@[simp] theorem capCommit_vital (p : Pkg) : (capCommit p).glb.ready = p.glb.ready ∧ (capCommit p).glb.selfTestDone =
    p.glb.selfTestDone ∧ (capCommit p).glb.fwFault = p.glb.fwFault := by
  unfold capCommit; (repeat' split) <;> (simp_all; done)
@[simp] theorem ctxWrite_keeps (p : Pkg) (fn c off size v : Nat) : (ctxWrite p fn c off size v).pins = p.pins ∧ (ctxWrite p fn
    c off size v).tick = p.tick ∧ (ctxWrite p fn c off size v).arrays = p.arrays ∧ (ctxWrite p fn c off size v).ldr = p.ldr ∧
    (ctxWrite p fn c off size v).numVfs = p.numVfs ∧ (ctxWrite p fn c off size v).lastGen = p.lastGen ∧ (ctxWrite p fn c off
    size v).kvp = p.kvp ∧ (ctxWrite p fn c off size v).mgt = p.mgt ∧ (ctxWrite p fn c off size v).i3c = p.i3c := by
  simp [ctxWrite]
@[simp] theorem ctxWrite_vital (p : Pkg) (fn c off size v : Nat) : (ctxWrite p fn c off size v).glb.ready = p.glb.ready ∧
    (ctxWrite p fn c off size v).glb.selfTestDone = p.glb.selfTestDone ∧ (ctxWrite p fn c off size v).glb.fwFault =
    p.glb.fwFault := by
  simp [ctxWrite]
@[simp] theorem ringWriteFailed_keeps (p : Pkg) (c : ℕ) (ring : ℕ) : (ringWriteFailed p c ring).pins = p.pins ∧
    (ringWriteFailed p c ring).tick = p.tick ∧ (ringWriteFailed p c ring).glb = p.glb ∧ (ringWriteFailed p c ring).arrays =
    p.arrays ∧ (ringWriteFailed p c ring).ldr = p.ldr ∧ (ringWriteFailed p c ring).nvw = p.nvw ∧ (ringWriteFailed p c
    ring).numVfs = p.numVfs ∧ (ringWriteFailed p c ring).lastGen = p.lastGen ∧ (ringWriteFailed p c ring).rq = p.rq ∧
    (ringWriteFailed p c ring).kvp = p.kvp ∧ (ringWriteFailed p c ring).lsh = p.lsh ∧ (ringWriteFailed p c ring).mgt = p.mgt ∧
    (ringWriteFailed p c ring).i3c = p.i3c := by
  simp [ringWriteFailed]
@[simp] theorem penRefuse_keeps (p : Pkg) (n off v : Nat) : (penRefuse p n off v).pins = p.pins ∧ (penRefuse p n off v).tick =
    p.tick ∧ (penRefuse p n off v).glb = p.glb ∧ (penRefuse p n off v).arrays = p.arrays ∧ (penRefuse p n off v).ldr = p.ldr ∧
    (penRefuse p n off v).nvw = p.nvw ∧ (penRefuse p n off v).ctxs = p.ctxs ∧ (penRefuse p n off v).numVfs = p.numVfs ∧
    (penRefuse p n off v).reqs = p.reqs ∧ (penRefuse p n off v).lastGen = p.lastGen ∧ (penRefuse p n off v).rq = p.rq ∧
    (penRefuse p n off v).kvp = p.kvp ∧ (penRefuse p n off v).fab = p.fab ∧ (penRefuse p n off v).lsh = p.lsh ∧ (penRefuse p n
    off v).hnd = p.hnd ∧ (penRefuse p n off v).mgt = p.mgt ∧ (penRefuse p n off v).i3c = p.i3c ∧ (penRefuse p n off v).freeCtr
    = p.freeCtr := by
  simp [penRefuse]
@[simp] theorem penRefuse_vital (p : Pkg) (n : ℕ) (off : ℕ) (v : ℕ) : (penRefuse p n off v).tick.refclkOk = p.tick.refclkOk ∧
    (penRefuse p n off v).tick.phaseLocked = p.tick.phaseLocked ∧ (penRefuse p n off v).tick.holdover = p.tick.holdover := by
  simp [penRefuse]
@[simp] theorem enablePen_keeps (p : Pkg) (n : Nat) (compat : Bool) : (enablePen p n compat).pins = p.pins ∧ (enablePen p n
    compat).tick = p.tick ∧ (enablePen p n compat).glb = p.glb ∧ (enablePen p n compat).ldr = p.ldr ∧ (enablePen p n
    compat).nvw = p.nvw ∧ (enablePen p n compat).numVfs = p.numVfs ∧ (enablePen p n compat).reqs = p.reqs ∧ (enablePen p n
    compat).lastGen = p.lastGen ∧ (enablePen p n compat).rq = p.rq ∧ (enablePen p n compat).kvp = p.kvp ∧ (enablePen p n
    compat).fab = p.fab ∧ (enablePen p n compat).lsh = p.lsh ∧ (enablePen p n compat).hnd = p.hnd ∧ (enablePen p n compat).mgt
    = p.mgt ∧ (enablePen p n compat).i3c = p.i3c ∧ (enablePen p n compat).freeCtr = p.freeCtr := by
  simp [enablePen]
@[simp] theorem disablePen_keeps (p : Pkg) (n : Nat) (compat : Bool) : (disablePen p n compat).pins = p.pins ∧ (disablePen p n
    compat).tick = p.tick ∧ (disablePen p n compat).glb = p.glb ∧ (disablePen p n compat).ldr = p.ldr ∧ (disablePen p n
    compat).nvw = p.nvw ∧ (disablePen p n compat).numVfs = p.numVfs ∧ (disablePen p n compat).lastGen = p.lastGen ∧
    (disablePen p n compat).rq = p.rq ∧ (disablePen p n compat).kvp = p.kvp ∧ (disablePen p n compat).mgt = p.mgt ∧
    (disablePen p n compat).i3c = p.i3c := by
  simp [disablePen]
@[simp] theorem penCtrlWrite_keeps (p : Pkg) (n v : Nat) : (penCtrlWrite p n v).pins = p.pins ∧ (penCtrlWrite p n v).tick =
    p.tick ∧ (penCtrlWrite p n v).glb = p.glb ∧ (penCtrlWrite p n v).ldr = p.ldr ∧ (penCtrlWrite p n v).nvw = p.nvw ∧
    (penCtrlWrite p n v).numVfs = p.numVfs ∧ (penCtrlWrite p n v).lastGen = p.lastGen ∧ (penCtrlWrite p n v).rq = p.rq ∧
    (penCtrlWrite p n v).kvp = p.kvp ∧ (penCtrlWrite p n v).mgt = p.mgt ∧ (penCtrlWrite p n v).i3c = p.i3c := by
  simp [penCtrlWrite]
@[simp] theorem penCtrlWrite_vital (p : Pkg) (n : ℕ) (v : ℕ) : (penCtrlWrite p n v).tick.refclkOk = p.tick.refclkOk ∧
    (penCtrlWrite p n v).tick.phaseLocked = p.tick.phaseLocked ∧ (penCtrlWrite p n v).tick.holdover = p.tick.holdover := by
  simp [penCtrlWrite]
@[simp] theorem rebudget_keeps (p : Pkg) (n v : Nat) : (rebudget p n v).pins = p.pins ∧ (rebudget p n v).tick = p.tick ∧
    (rebudget p n v).glb = p.glb ∧ (rebudget p n v).scn = p.scn ∧ (rebudget p n v).ldr = p.ldr ∧ (rebudget p n v).nvw = p.nvw
    ∧ (rebudget p n v).ctxs = p.ctxs ∧ (rebudget p n v).numVfs = p.numVfs ∧ (rebudget p n v).reqs = p.reqs ∧ (rebudget p n
    v).lastGen = p.lastGen ∧ (rebudget p n v).rq = p.rq ∧ (rebudget p n v).kvp = p.kvp ∧ (rebudget p n v).fab = p.fab ∧
    (rebudget p n v).lsh = p.lsh ∧ (rebudget p n v).hnd = p.hnd ∧ (rebudget p n v).mgt = p.mgt ∧ (rebudget p n v).i3c = p.i3c
    ∧ (rebudget p n v).out = p.out ∧ (rebudget p n v).pba = p.pba ∧ (rebudget p n v).freeCtr = p.freeCtr := by
  simp [rebudget]
@[simp] theorem budgetWrite_keeps (p : Pkg) (n off v : Nat) : (budgetWrite p n off v).pins = p.pins ∧ (budgetWrite p n off
    v).tick = p.tick ∧ (budgetWrite p n off v).glb = p.glb ∧ (budgetWrite p n off v).ldr = p.ldr ∧ (budgetWrite p n off v).nvw
    = p.nvw ∧ (budgetWrite p n off v).ctxs = p.ctxs ∧ (budgetWrite p n off v).numVfs = p.numVfs ∧ (budgetWrite p n off v).reqs
    = p.reqs ∧ (budgetWrite p n off v).lastGen = p.lastGen ∧ (budgetWrite p n off v).rq = p.rq ∧ (budgetWrite p n off v).kvp =
    p.kvp ∧ (budgetWrite p n off v).fab = p.fab ∧ (budgetWrite p n off v).lsh = p.lsh ∧ (budgetWrite p n off v).hnd = p.hnd ∧
    (budgetWrite p n off v).mgt = p.mgt ∧ (budgetWrite p n off v).i3c = p.i3c ∧ (budgetWrite p n off v).freeCtr = p.freeCtr :=
    by
  unfold budgetWrite; (repeat' split) <;> (simp_all; done)
@[simp] theorem groupEntryWrite_keeps (p : Pkg) (n m v : Nat) : (groupEntryWrite p n m v).pins = p.pins ∧ (groupEntryWrite p n
    m v).tick = p.tick ∧ (groupEntryWrite p n m v).glb = p.glb ∧ (groupEntryWrite p n m v).arrays = p.arrays ∧
    (groupEntryWrite p n m v).ldr = p.ldr ∧ (groupEntryWrite p n m v).nvw = p.nvw ∧ (groupEntryWrite p n m v).ctxs = p.ctxs ∧
    (groupEntryWrite p n m v).numVfs = p.numVfs ∧ (groupEntryWrite p n m v).reqs = p.reqs ∧ (groupEntryWrite p n m v).lastGen
    = p.lastGen ∧ (groupEntryWrite p n m v).rq = p.rq ∧ (groupEntryWrite p n m v).kvp = p.kvp ∧ (groupEntryWrite p n m v).fab
    = p.fab ∧ (groupEntryWrite p n m v).lsh = p.lsh ∧ (groupEntryWrite p n m v).hnd = p.hnd ∧ (groupEntryWrite p n m v).mgt =
    p.mgt ∧ (groupEntryWrite p n m v).i3c = p.i3c ∧ (groupEntryWrite p n m v).freeCtr = p.freeCtr := by
  simp [groupEntryWrite]
@[simp] theorem penRegWrite_keeps (p : Pkg) (n off v : Nat) : (penRegWrite p n off v).pins = p.pins ∧ (penRegWrite p n off
    v).tick = p.tick ∧ (penRegWrite p n off v).glb = p.glb ∧ (penRegWrite p n off v).ldr = p.ldr ∧ (penRegWrite p n off v).nvw
    = p.nvw ∧ (penRegWrite p n off v).ctxs = p.ctxs ∧ (penRegWrite p n off v).numVfs = p.numVfs ∧ (penRegWrite p n off v).reqs
    = p.reqs ∧ (penRegWrite p n off v).lastGen = p.lastGen ∧ (penRegWrite p n off v).rq = p.rq ∧ (penRegWrite p n off v).kvp =
    p.kvp ∧ (penRegWrite p n off v).fab = p.fab ∧ (penRegWrite p n off v).lsh = p.lsh ∧ (penRegWrite p n off v).hnd = p.hnd ∧
    (penRegWrite p n off v).mgt = p.mgt ∧ (penRegWrite p n off v).i3c = p.i3c ∧ (penRegWrite p n off v).freeCtr = p.freeCtr :=
    by
  simp [penRegWrite]
@[simp] theorem activate_keeps (p : Pkg) (n : Nat) : (activate p n).pins = p.pins ∧ (activate p n).tick = p.tick ∧ (activate p
    n).glb = p.glb ∧ (activate p n).arrays = p.arrays ∧ (activate p n).ldr = p.ldr ∧ (activate p n).nvw = p.nvw ∧ (activate p
    n).numVfs = p.numVfs ∧ (activate p n).lastGen = p.lastGen ∧ (activate p n).kvp = p.kvp ∧ (activate p n).mgt = p.mgt ∧
    (activate p n).i3c = p.i3c := by
  simp [activate]
@[simp] theorem judgePen_keeps (p : Pkg) (n : Nat) : (judgePen p n).pins = p.pins ∧ (judgePen p n).tick = p.tick ∧ (judgePen p
    n).glb = p.glb ∧ (judgePen p n).arrays = p.arrays ∧ (judgePen p n).ldr = p.ldr ∧ (judgePen p n).nvw = p.nvw ∧ (judgePen p
    n).numVfs = p.numVfs ∧ (judgePen p n).lastGen = p.lastGen ∧ (judgePen p n).kvp = p.kvp ∧ (judgePen p n).mgt = p.mgt ∧
    (judgePen p n).i3c = p.i3c := by
  simp [judgePen]
@[simp] theorem judgePens_keeps (p : Pkg) : (judgePens p).pins = p.pins ∧ (judgePens p).tick = p.tick ∧ (judgePens p).glb =
    p.glb ∧ (judgePens p).arrays = p.arrays ∧ (judgePens p).ldr = p.ldr ∧ (judgePens p).nvw = p.nvw ∧ (judgePens p).numVfs =
    p.numVfs ∧ (judgePens p).lastGen = p.lastGen ∧ (judgePens p).kvp = p.kvp ∧ (judgePens p).mgt = p.mgt ∧ (judgePens p).i3c =
    p.i3c := by
  simp [judgePens]
@[simp] theorem judgePens_vital (p : Pkg) : (judgePens p).glb.ready = p.glb.ready ∧ (judgePens p).glb.selfTestDone =
    p.glb.selfTestDone ∧ (judgePens p).glb.fwFault = p.glb.fwFault := by
  simp [judgePens]
@[simp] theorem refreshOne_keeps (p : Pkg) (n : Nat) : (refreshOne p n).pins = p.pins ∧ (refreshOne p n).tick = p.tick ∧
    (refreshOne p n).glb = p.glb ∧ (refreshOne p n).scn = p.scn ∧ (refreshOne p n).arrays = p.arrays ∧ (refreshOne p n).ldr =
    p.ldr ∧ (refreshOne p n).nvw = p.nvw ∧ (refreshOne p n).ctxs = p.ctxs ∧ (refreshOne p n).numVfs = p.numVfs ∧ (refreshOne p
    n).reqs = p.reqs ∧ (refreshOne p n).lastGen = p.lastGen ∧ (refreshOne p n).rq = p.rq ∧ (refreshOne p n).kvp = p.kvp ∧
    (refreshOne p n).fab = p.fab ∧ (refreshOne p n).lsh = p.lsh ∧ (refreshOne p n).hnd = p.hnd ∧ (refreshOne p n).mgt = p.mgt
    ∧ (refreshOne p n).i3c = p.i3c ∧ (refreshOne p n).out = p.out ∧ (refreshOne p n).pba = p.pba ∧ (refreshOne p n).freeCtr =
    p.freeCtr := by
  unfold refreshOne; (repeat' split) <;> (simp_all; done)
@[simp] theorem tickRegWrite_keeps (p : Pkg) (o v : Nat) : (tickRegWrite p o v).pins = p.pins ∧ (tickRegWrite p o v).glb =
    p.glb ∧ (tickRegWrite p o v).scn = p.scn ∧ (tickRegWrite p o v).arrays = p.arrays ∧ (tickRegWrite p o v).ldr = p.ldr ∧
    (tickRegWrite p o v).pens = p.pens ∧ (tickRegWrite p o v).nvw = p.nvw ∧ (tickRegWrite p o v).ctxs = p.ctxs ∧ (tickRegWrite
    p o v).numVfs = p.numVfs ∧ (tickRegWrite p o v).reqs = p.reqs ∧ (tickRegWrite p o v).lastGen = p.lastGen ∧ (tickRegWrite p
    o v).rq = p.rq ∧ (tickRegWrite p o v).kvp = p.kvp ∧ (tickRegWrite p o v).fab = p.fab ∧ (tickRegWrite p o v).lsh = p.lsh ∧
    (tickRegWrite p o v).hnd = p.hnd ∧ (tickRegWrite p o v).mgt = p.mgt ∧ (tickRegWrite p o v).i3c = p.i3c ∧ (tickRegWrite p o
    v).out = p.out ∧ (tickRegWrite p o v).pba = p.pba ∧ (tickRegWrite p o v).freeCtr = p.freeCtr := by
  unfold tickRegWrite; (repeat' split) <;> (simp_all; done)
@[simp] theorem tickRegWrite_vital (p : Pkg) (o v : Nat) : (tickRegWrite p o v).tick.refclkOk = p.tick.refclkOk ∧
    (tickRegWrite p o v).tick.phaseLocked = p.tick.phaseLocked ∧ (tickRegWrite p o v).tick.holdover = p.tick.holdover := by
  unfold tickRegWrite; (repeat' split) <;> (simp_all; done)
@[simp] theorem penBlockWrite_keeps (p : Pkg) (n o v : Nat) : (penBlockWrite p n o v).pins = p.pins ∧ (penBlockWrite p n o
    v).tick = p.tick ∧ (penBlockWrite p n o v).glb = p.glb ∧ (penBlockWrite p n o v).ldr = p.ldr ∧ (penBlockWrite p n o v).nvw
    = p.nvw ∧ (penBlockWrite p n o v).numVfs = p.numVfs ∧ (penBlockWrite p n o v).lastGen = p.lastGen ∧ (penBlockWrite p n o
    v).rq = p.rq ∧ (penBlockWrite p n o v).kvp = p.kvp ∧ (penBlockWrite p n o v).mgt = p.mgt ∧ (penBlockWrite p n o v).i3c =
    p.i3c := by
  unfold penBlockWrite; (repeat' split) <;> (simp_all; done)
@[simp] theorem penAreaWrite_keeps (p : Pkg) (o v : Nat) : (penAreaWrite p o v).pins = p.pins ∧ (penAreaWrite p o v).tick =
    p.tick ∧ (penAreaWrite p o v).glb = p.glb ∧ (penAreaWrite p o v).ldr = p.ldr ∧ (penAreaWrite p o v).nvw = p.nvw ∧
    (penAreaWrite p o v).numVfs = p.numVfs ∧ (penAreaWrite p o v).lastGen = p.lastGen ∧ (penAreaWrite p o v).rq = p.rq ∧
    (penAreaWrite p o v).kvp = p.kvp ∧ (penAreaWrite p o v).mgt = p.mgt ∧ (penAreaWrite p o v).i3c = p.i3c := by
  simp [penAreaWrite]
@[simp] theorem penAreaWrite_vital (p : Pkg) (o : ℕ) (v : ℕ) : (penAreaWrite p o v).tick.refclkOk = p.tick.refclkOk ∧
    (penAreaWrite p o v).tick.phaseLocked = p.tick.phaseLocked ∧ (penAreaWrite p o v).tick.holdover = p.tick.holdover := by
  simp [penAreaWrite]
@[simp] theorem ldrRegWrite_keeps (p : Pkg) (o v : Nat) : (ldrRegWrite p o v).pins = p.pins ∧ (ldrRegWrite p o v).tick =
    p.tick ∧ (ldrRegWrite p o v).glb = p.glb ∧ (ldrRegWrite p o v).arrays = p.arrays ∧ (ldrRegWrite p o v).numVfs = p.numVfs ∧
    (ldrRegWrite p o v).lastGen = p.lastGen ∧ (ldrRegWrite p o v).rq = p.rq ∧ (ldrRegWrite p o v).kvp = p.kvp ∧ (ldrRegWrite p
    o v).mgt = p.mgt ∧ (ldrRegWrite p o v).i3c = p.i3c := by
  unfold ldrRegWrite; (repeat' split) <;> (simp_all; done)
@[simp] theorem ldrRegWrite_vital (p : Pkg) (o : ℕ) (v : ℕ) : (ldrRegWrite p o v).tick.refclkOk = p.tick.refclkOk ∧
    (ldrRegWrite p o v).tick.phaseLocked = p.tick.phaseLocked ∧ (ldrRegWrite p o v).tick.holdover = p.tick.holdover := by
  unfold ldrRegWrite; (repeat' split) <;> (simp_all; done)
@[simp] theorem replicaWordWrite_keeps (p : Pkg) (i w v : Nat) : (replicaWordWrite p i w v).pins = p.pins ∧ (replicaWordWrite
    p i w v).tick = p.tick ∧ (replicaWordWrite p i w v).glb = p.glb ∧ (replicaWordWrite p i w v).scn = p.scn ∧
    (replicaWordWrite p i w v).arrays = p.arrays ∧ (replicaWordWrite p i w v).ldr = p.ldr ∧ (replicaWordWrite p i w v).pens =
    p.pens ∧ (replicaWordWrite p i w v).ctxs = p.ctxs ∧ (replicaWordWrite p i w v).numVfs = p.numVfs ∧ (replicaWordWrite p i w
    v).reqs = p.reqs ∧ (replicaWordWrite p i w v).lastGen = p.lastGen ∧ (replicaWordWrite p i w v).rq = p.rq ∧
    (replicaWordWrite p i w v).kvp = p.kvp ∧ (replicaWordWrite p i w v).lsh = p.lsh ∧ (replicaWordWrite p i w v).hnd = p.hnd ∧
    (replicaWordWrite p i w v).mgt = p.mgt ∧ (replicaWordWrite p i w v).i3c = p.i3c ∧ (replicaWordWrite p i w v).freeCtr =
    p.freeCtr := by
  simp [replicaWordWrite]
@[simp] theorem sledRegWrite_keeps (p : Pkg) (o v : Nat) : (sledRegWrite p o v).pins = p.pins ∧ (sledRegWrite p o v).tick =
    p.tick ∧ (sledRegWrite p o v).glb = p.glb ∧ (sledRegWrite p o v).scn = p.scn ∧ (sledRegWrite p o v).arrays = p.arrays ∧
    (sledRegWrite p o v).ldr = p.ldr ∧ (sledRegWrite p o v).pens = p.pens ∧ (sledRegWrite p o v).ctxs = p.ctxs ∧ (sledRegWrite
    p o v).numVfs = p.numVfs ∧ (sledRegWrite p o v).reqs = p.reqs ∧ (sledRegWrite p o v).lastGen = p.lastGen ∧ (sledRegWrite p
    o v).rq = p.rq ∧ (sledRegWrite p o v).kvp = p.kvp ∧ (sledRegWrite p o v).lsh = p.lsh ∧ (sledRegWrite p o v).hnd = p.hnd ∧
    (sledRegWrite p o v).mgt = p.mgt ∧ (sledRegWrite p o v).i3c = p.i3c ∧ (sledRegWrite p o v).freeCtr = p.freeCtr := by
  simp [sledRegWrite]
@[simp] theorem sledRegWrite_vital (p : Pkg) (o : ℕ) (v : ℕ) : (sledRegWrite p o v).tick.refclkOk = p.tick.refclkOk ∧
    (sledRegWrite p o v).tick.phaseLocked = p.tick.phaseLocked ∧ (sledRegWrite p o v).tick.holdover = p.tick.holdover := by
  simp [sledRegWrite]
@[simp] theorem reqCtxWrite_keeps (p : Pkg) (c o v : Nat) : (reqCtxWrite p c o v).pins = p.pins ∧ (reqCtxWrite p c o v).tick =
    p.tick ∧ (reqCtxWrite p c o v).glb = p.glb ∧ (reqCtxWrite p c o v).scn = p.scn ∧ (reqCtxWrite p c o v).arrays = p.arrays ∧
    (reqCtxWrite p c o v).ldr = p.ldr ∧ (reqCtxWrite p c o v).pens = p.pens ∧ (reqCtxWrite p c o v).nvw = p.nvw ∧ (reqCtxWrite
    p c o v).numVfs = p.numVfs ∧ (reqCtxWrite p c o v).reqs = p.reqs ∧ (reqCtxWrite p c o v).lastGen = p.lastGen ∧
    (reqCtxWrite p c o v).rq = p.rq ∧ (reqCtxWrite p c o v).kvp = p.kvp ∧ (reqCtxWrite p c o v).fab = p.fab ∧ (reqCtxWrite p c
    o v).lsh = p.lsh ∧ (reqCtxWrite p c o v).hnd = p.hnd ∧ (reqCtxWrite p c o v).mgt = p.mgt ∧ (reqCtxWrite p c o v).i3c =
    p.i3c ∧ (reqCtxWrite p c o v).out = p.out ∧ (reqCtxWrite p c o v).pba = p.pba ∧ (reqCtxWrite p c o v).freeCtr = p.freeCtr
    := by
  unfold reqCtxWrite; (repeat' split) <;> (simp_all; done)
@[simp] theorem reqCtxWrite_vital (p : Pkg) (c : ℕ) (o : ℕ) (v : ℕ) : (reqCtxWrite p c o v).tick.refclkOk = p.tick.refclkOk ∧
    (reqCtxWrite p c o v).tick.phaseLocked = p.tick.phaseLocked ∧ (reqCtxWrite p c o v).tick.holdover = p.tick.holdover := by
  unfold reqCtxWrite; (repeat' split) <;> (simp_all; done)
@[simp] theorem reqRegWrite_keeps (p : Pkg) (o v : Nat) : (reqRegWrite p o v).pins = p.pins ∧ (reqRegWrite p o v).tick =
    p.tick ∧ (reqRegWrite p o v).glb = p.glb ∧ (reqRegWrite p o v).scn = p.scn ∧ (reqRegWrite p o v).arrays = p.arrays ∧
    (reqRegWrite p o v).ldr = p.ldr ∧ (reqRegWrite p o v).pens = p.pens ∧ (reqRegWrite p o v).nvw = p.nvw ∧ (reqRegWrite p o
    v).numVfs = p.numVfs ∧ (reqRegWrite p o v).reqs = p.reqs ∧ (reqRegWrite p o v).lastGen = p.lastGen ∧ (reqRegWrite p o
    v).kvp = p.kvp ∧ (reqRegWrite p o v).fab = p.fab ∧ (reqRegWrite p o v).lsh = p.lsh ∧ (reqRegWrite p o v).hnd = p.hnd ∧
    (reqRegWrite p o v).mgt = p.mgt ∧ (reqRegWrite p o v).i3c = p.i3c ∧ (reqRegWrite p o v).out = p.out ∧ (reqRegWrite p o
    v).pba = p.pba ∧ (reqRegWrite p o v).freeCtr = p.freeCtr := by
  unfold reqRegWrite; (repeat' split) <;> (simp_all; done)
@[simp] theorem reqRegWrite_vital (p : Pkg) (o : ℕ) (v : ℕ) : (reqRegWrite p o v).tick.refclkOk = p.tick.refclkOk ∧
    (reqRegWrite p o v).tick.phaseLocked = p.tick.phaseLocked ∧ (reqRegWrite p o v).tick.holdover = p.tick.holdover := by
  unfold reqRegWrite; (repeat' split) <;> (simp_all; done)
@[simp] theorem hostRegionWrite_keeps (p : Pkg) (fn c off size : Nat) (f : Ctx → Ctx) : (hostRegionWrite p fn c off size
    f).pins = p.pins ∧ (hostRegionWrite p fn c off size f).tick = p.tick ∧ (hostRegionWrite p fn c off size f).glb = p.glb ∧
    (hostRegionWrite p fn c off size f).arrays = p.arrays ∧ (hostRegionWrite p fn c off size f).ldr = p.ldr ∧ (hostRegionWrite
    p fn c off size f).pens = p.pens ∧ (hostRegionWrite p fn c off size f).nvw = p.nvw ∧ (hostRegionWrite p fn c off size
    f).numVfs = p.numVfs ∧ (hostRegionWrite p fn c off size f).reqs = p.reqs ∧ (hostRegionWrite p fn c off size f).lastGen =
    p.lastGen ∧ (hostRegionWrite p fn c off size f).rq = p.rq ∧ (hostRegionWrite p fn c off size f).kvp = p.kvp ∧
    (hostRegionWrite p fn c off size f).fab = p.fab ∧ (hostRegionWrite p fn c off size f).lsh = p.lsh ∧ (hostRegionWrite p fn
    c off size f).hnd = p.hnd ∧ (hostRegionWrite p fn c off size f).mgt = p.mgt ∧ (hostRegionWrite p fn c off size f).i3c =
    p.i3c ∧ (hostRegionWrite p fn c off size f).freeCtr = p.freeCtr := by
  simp [hostRegionWrite]
@[simp] theorem kvpRegWrite_keeps (p : Pkg) (fn o size v : Nat) : (kvpRegWrite p fn o size v).pins = p.pins ∧ (kvpRegWrite p
    fn o size v).tick = p.tick ∧ (kvpRegWrite p fn o size v).glb = p.glb ∧ (kvpRegWrite p fn o size v).arrays = p.arrays ∧
    (kvpRegWrite p fn o size v).ldr = p.ldr ∧ (kvpRegWrite p fn o size v).nvw = p.nvw ∧ (kvpRegWrite p fn o size v).numVfs =
    p.numVfs ∧ (kvpRegWrite p fn o size v).reqs = p.reqs ∧ (kvpRegWrite p fn o size v).lastGen = p.lastGen ∧ (kvpRegWrite p fn
    o size v).rq = p.rq ∧ (kvpRegWrite p fn o size v).fab = p.fab ∧ (kvpRegWrite p fn o size v).lsh = p.lsh ∧ (kvpRegWrite p
    fn o size v).hnd = p.hnd ∧ (kvpRegWrite p fn o size v).mgt = p.mgt ∧ (kvpRegWrite p fn o size v).i3c = p.i3c ∧
    (kvpRegWrite p fn o size v).freeCtr = p.freeCtr := by
  unfold kvpRegWrite; (repeat' split) <;> (simp_all; done)
@[simp] theorem portRegWrite_keeps (p : Pkg) (n o v : Nat) : (portRegWrite p n o v).pins = p.pins ∧ (portRegWrite p n o
    v).tick = p.tick ∧ (portRegWrite p n o v).glb = p.glb ∧ (portRegWrite p n o v).arrays = p.arrays ∧ (portRegWrite p n o
    v).ldr = p.ldr ∧ (portRegWrite p n o v).pens = p.pens ∧ (portRegWrite p n o v).nvw = p.nvw ∧ (portRegWrite p n o v).ctxs =
    p.ctxs ∧ (portRegWrite p n o v).numVfs = p.numVfs ∧ (portRegWrite p n o v).reqs = p.reqs ∧ (portRegWrite p n o v).lastGen
    = p.lastGen ∧ (portRegWrite p n o v).rq = p.rq ∧ (portRegWrite p n o v).kvp = p.kvp ∧ (portRegWrite p n o v).lsh = p.lsh ∧
    (portRegWrite p n o v).hnd = p.hnd ∧ (portRegWrite p n o v).mgt = p.mgt ∧ (portRegWrite p n o v).freeCtr = p.freeCtr := by
  unfold portRegWrite; (repeat' split) <;> (simp_all; done)
@[simp] theorem pkfRegWrite_keeps (p : Pkg) (o v : Nat) : (pkfRegWrite p o v).pins = p.pins ∧ (pkfRegWrite p o v).tick =
    p.tick ∧ (pkfRegWrite p o v).glb = p.glb ∧ (pkfRegWrite p o v).arrays = p.arrays ∧ (pkfRegWrite p o v).ldr = p.ldr ∧
    (pkfRegWrite p o v).pens = p.pens ∧ (pkfRegWrite p o v).nvw = p.nvw ∧ (pkfRegWrite p o v).ctxs = p.ctxs ∧ (pkfRegWrite p o
    v).numVfs = p.numVfs ∧ (pkfRegWrite p o v).reqs = p.reqs ∧ (pkfRegWrite p o v).lastGen = p.lastGen ∧ (pkfRegWrite p o
    v).rq = p.rq ∧ (pkfRegWrite p o v).kvp = p.kvp ∧ (pkfRegWrite p o v).lsh = p.lsh ∧ (pkfRegWrite p o v).hnd = p.hnd ∧
    (pkfRegWrite p o v).mgt = p.mgt ∧ (pkfRegWrite p o v).freeCtr = p.freeCtr := by
  unfold pkfRegWrite; (repeat' split) <;> (simp_all; done)
@[simp] theorem pkfRegWrite_vital (p : Pkg) (o : ℕ) (v : ℕ) : (pkfRegWrite p o v).tick.refclkOk = p.tick.refclkOk ∧
    (pkfRegWrite p o v).tick.phaseLocked = p.tick.phaseLocked ∧ (pkfRegWrite p o v).tick.holdover = p.tick.holdover := by
  unfold pkfRegWrite; (repeat' split) <;> (simp_all; done)
@[simp] theorem lshRegWrite_keeps (p : Pkg) (o v : Nat) : (lshRegWrite p o v).pins = p.pins ∧ (lshRegWrite p o v).tick =
    p.tick ∧ (lshRegWrite p o v).glb = p.glb ∧ (lshRegWrite p o v).arrays = p.arrays ∧ (lshRegWrite p o v).ldr = p.ldr ∧
    (lshRegWrite p o v).pens = p.pens ∧ (lshRegWrite p o v).nvw = p.nvw ∧ (lshRegWrite p o v).ctxs = p.ctxs ∧ (lshRegWrite p o
    v).numVfs = p.numVfs ∧ (lshRegWrite p o v).reqs = p.reqs ∧ (lshRegWrite p o v).lastGen = p.lastGen ∧ (lshRegWrite p o
    v).rq = p.rq ∧ (lshRegWrite p o v).kvp = p.kvp ∧ (lshRegWrite p o v).fab = p.fab ∧ (lshRegWrite p o v).hnd = p.hnd ∧
    (lshRegWrite p o v).i3c = p.i3c ∧ (lshRegWrite p o v).freeCtr = p.freeCtr := by
  unfold lshRegWrite; (repeat' split) <;> (simp_all; done)
@[simp] theorem lshRegWrite_vital (p : Pkg) (o : ℕ) (v : ℕ) : (lshRegWrite p o v).tick.refclkOk = p.tick.refclkOk ∧
    (lshRegWrite p o v).tick.phaseLocked = p.tick.phaseLocked ∧ (lshRegWrite p o v).tick.holdover = p.tick.holdover := by
  unfold lshRegWrite; (repeat' split) <;> (simp_all; done)
@[simp] theorem scnRegWrite_keeps (p : Pkg) (o v : Nat) : (scnRegWrite p o v).pins = p.pins ∧ (scnRegWrite p o v).tick =
    p.tick ∧ (scnRegWrite p o v).glb = p.glb ∧ (scnRegWrite p o v).arrays = p.arrays ∧ (scnRegWrite p o v).ldr = p.ldr ∧
    (scnRegWrite p o v).pens = p.pens ∧ (scnRegWrite p o v).nvw = p.nvw ∧ (scnRegWrite p o v).ctxs = p.ctxs ∧ (scnRegWrite p o
    v).numVfs = p.numVfs ∧ (scnRegWrite p o v).reqs = p.reqs ∧ (scnRegWrite p o v).lastGen = p.lastGen ∧ (scnRegWrite p o
    v).rq = p.rq ∧ (scnRegWrite p o v).kvp = p.kvp ∧ (scnRegWrite p o v).fab = p.fab ∧ (scnRegWrite p o v).lsh = p.lsh ∧
    (scnRegWrite p o v).hnd = p.hnd ∧ (scnRegWrite p o v).mgt = p.mgt ∧ (scnRegWrite p o v).i3c = p.i3c ∧ (scnRegWrite p o
    v).freeCtr = p.freeCtr := by
  unfold scnRegWrite; (repeat' split) <;> (simp_all; done)
@[simp] theorem scnRegWrite_vital (p : Pkg) (o : ℕ) (v : ℕ) : (scnRegWrite p o v).tick.refclkOk = p.tick.refclkOk ∧
    (scnRegWrite p o v).tick.phaseLocked = p.tick.phaseLocked ∧ (scnRegWrite p o v).tick.holdover = p.tick.holdover := by
  unfold scnRegWrite; (repeat' split) <;> (simp_all; done)
@[simp] theorem hndCmdWrite_keeps (p : Pkg) (c v : Nat) : (hndCmdWrite p c v).pins = p.pins ∧ (hndCmdWrite p c v).tick =
    p.tick ∧ (hndCmdWrite p c v).glb = p.glb ∧ (hndCmdWrite p c v).scn = p.scn ∧ (hndCmdWrite p c v).arrays = p.arrays ∧
    (hndCmdWrite p c v).ldr = p.ldr ∧ (hndCmdWrite p c v).nvw = p.nvw ∧ (hndCmdWrite p c v).numVfs = p.numVfs ∧ (hndCmdWrite p
    c v).reqs = p.reqs ∧ (hndCmdWrite p c v).lastGen = p.lastGen ∧ (hndCmdWrite p c v).rq = p.rq ∧ (hndCmdWrite p c v).kvp =
    p.kvp ∧ (hndCmdWrite p c v).lsh = p.lsh ∧ (hndCmdWrite p c v).mgt = p.mgt ∧ (hndCmdWrite p c v).i3c = p.i3c ∧ (hndCmdWrite
    p c v).freeCtr = p.freeCtr := by
  simp [hndCmdWrite]
@[simp] theorem hndCmdWrite_vital (p : Pkg) (c : ℕ) (v : ℕ) : (hndCmdWrite p c v).tick.refclkOk = p.tick.refclkOk ∧
    (hndCmdWrite p c v).tick.phaseLocked = p.tick.phaseLocked ∧ (hndCmdWrite p c v).tick.holdover = p.tick.holdover := by
  simp [hndCmdWrite]
@[simp] theorem hndBlockWrite_keeps (p : Pkg) (fn c o v : Nat) : (hndBlockWrite p fn c o v).pins = p.pins ∧ (hndBlockWrite p
    fn c o v).tick = p.tick ∧ (hndBlockWrite p fn c o v).arrays = p.arrays ∧ (hndBlockWrite p fn c o v).ldr = p.ldr ∧
    (hndBlockWrite p fn c o v).nvw = p.nvw ∧ (hndBlockWrite p fn c o v).numVfs = p.numVfs ∧ (hndBlockWrite p fn c o v).reqs =
    p.reqs ∧ (hndBlockWrite p fn c o v).lastGen = p.lastGen ∧ (hndBlockWrite p fn c o v).rq = p.rq ∧ (hndBlockWrite p fn c o
    v).kvp = p.kvp ∧ (hndBlockWrite p fn c o v).lsh = p.lsh ∧ (hndBlockWrite p fn c o v).mgt = p.mgt ∧ (hndBlockWrite p fn c o
    v).i3c = p.i3c ∧ (hndBlockWrite p fn c o v).freeCtr = p.freeCtr := by
  simp [hndBlockWrite]
@[simp] theorem hndBlockWrite_vital (p : Pkg) (fn c o v : Nat) : (hndBlockWrite p fn c o v).glb.ready = p.glb.ready ∧
    (hndBlockWrite p fn c o v).glb.selfTestDone = p.glb.selfTestDone ∧ (hndBlockWrite p fn c o v).glb.fwFault = p.glb.fwFault
    :=
    by
  simp [hndBlockWrite]
@[simp] theorem pfRegWrite_keeps (p : Pkg) (fn off size v : Nat) : (pfRegWrite p fn off size v).pins = p.pins ∧ (pfRegWrite p
    fn off size v).glb = p.glb ∧ (pfRegWrite p fn off size v).numVfs = p.numVfs ∧ (pfRegWrite p fn off size v).lastGen =
    p.lastGen := by
  simp [pfRegWrite]
@[simp] theorem pfRegWrite_vital (p : Pkg) (fn off size v : Nat) : (pfRegWrite p fn off size v).tick.refclkOk =
    p.tick.refclkOk ∧ (pfRegWrite p fn off size v).tick.phaseLocked = p.tick.phaseLocked ∧ (pfRegWrite p fn off size
    v).tick.holdover = p.tick.holdover := by
  simp [pfRegWrite]
@[simp] theorem regEffect_keeps (p : Pkg) (fn off size v : Nat) : (regEffect p fn off size v).pins = p.pins ∧ (regEffect p fn
    off size v).numVfs = p.numVfs ∧ (regEffect p fn off size v).lastGen = p.lastGen := by
  simp [regEffect]
@[simp] theorem regEffect_vital (p : Pkg) (fn off size v : Nat) : (regEffect p fn off size v).tick.refclkOk = p.tick.refclkOk
    ∧ (regEffect p fn off size v).tick.phaseLocked = p.tick.phaseLocked ∧ (regEffect p fn off size v).tick.holdover =
    p.tick.holdover ∧ (regEffect p fn off size v).glb.ready = p.glb.ready ∧ (regEffect p fn off size v).glb.selfTestDone =
    p.glb.selfTestDone ∧ (regEffect p fn off size v).glb.fwFault = p.glb.fwFault := by
  simp [regEffect]
@[simp] theorem setHeld_keeps (p : Pkg) (fn : Nat) (h : Option (Nat × Nat)) : (setHeld p fn h).pins = p.pins ∧ (setHeld p fn
    h).tick = p.tick ∧ (setHeld p fn h).scn = p.scn ∧ (setHeld p fn h).arrays = p.arrays ∧ (setHeld p fn h).ldr = p.ldr ∧
    (setHeld p fn h).pens = p.pens ∧ (setHeld p fn h).nvw = p.nvw ∧ (setHeld p fn h).ctxs = p.ctxs ∧ (setHeld p fn h).numVfs =
    p.numVfs ∧ (setHeld p fn h).reqs = p.reqs ∧ (setHeld p fn h).lastGen = p.lastGen ∧ (setHeld p fn h).rq = p.rq ∧ (setHeld p
    fn h).kvp = p.kvp ∧ (setHeld p fn h).fab = p.fab ∧ (setHeld p fn h).lsh = p.lsh ∧ (setHeld p fn h).hnd = p.hnd ∧ (setHeld
    p fn h).mgt = p.mgt ∧ (setHeld p fn h).i3c = p.i3c ∧ (setHeld p fn h).out = p.out ∧ (setHeld p fn h).pba = p.pba ∧
    (setHeld p fn h).freeCtr = p.freeCtr := by
  simp [setHeld]
@[simp] theorem setHeld_vital (p : Pkg) (fn : Nat) (h : Option (Nat × Nat)) : (setHeld p fn h).glb.ready = p.glb.ready ∧
    (setHeld p fn h).glb.selfTestDone = p.glb.selfTestDone ∧ (setHeld p fn h).glb.fwFault = p.glb.fwFault := by
  simp [setHeld]
@[simp] theorem takeValue_keeps (p : Pkg) (fn : ℕ) (off : ℕ) (size : ℕ) (v : ℕ) (gone : List ℕ) : (takeValue p fn off size v
    gone).pins = p.pins ∧ (takeValue p fn off size v gone).numVfs = p.numVfs ∧ (takeValue p fn off size v gone).lastGen =
    p.lastGen := by
  simp [takeValue]
@[simp] theorem takeValue_vital (p : Pkg) (fn : ℕ) (off : ℕ) (size : ℕ) (v : ℕ) (gone : List ℕ) : (takeValue p fn off size v
    gone).tick.refclkOk = p.tick.refclkOk ∧ (takeValue p fn off size v gone).tick.phaseLocked = p.tick.phaseLocked ∧
    (takeValue p fn off size v gone).tick.holdover = p.tick.holdover ∧ (takeValue p fn off size v gone).glb.ready =
    p.glb.ready ∧ (takeValue p fn off size v gone).glb.selfTestDone = p.glb.selfTestDone ∧ (takeValue p fn off size v
    gone).glb.fwFault = p.glb.fwFault := by
  simp [takeValue]
@[simp] theorem write4_keeps (p : Pkg) (fn : ℕ) (off : ℕ) (size : ℕ) (v : ℕ) (gone : List ℕ) : (write4 p fn off size v
    gone).pins = p.pins ∧ (write4 p fn off size v gone).numVfs = p.numVfs ∧ (write4 p fn off size v gone).lastGen = p.lastGen
    := by
  simp [write4]
@[simp] theorem write4_vital (p : Pkg) (fn : ℕ) (off : ℕ) (size : ℕ) (v : ℕ) (gone : List ℕ) : (write4 p fn off size v
    gone).tick.refclkOk = p.tick.refclkOk ∧ (write4 p fn off size v gone).tick.phaseLocked = p.tick.phaseLocked ∧ (write4 p fn
    off size v gone).tick.holdover = p.tick.holdover ∧ (write4 p fn off size v gone).glb.ready = p.glb.ready ∧ (write4 p fn
    off size v gone).glb.selfTestDone = p.glb.selfTestDone ∧ (write4 p fn off size v gone).glb.fwFault = p.glb.fwFault := by
  simp [write4]
@[simp] theorem invalidAccess_keeps (p : Pkg) (fn off size : Nat) : (invalidAccess p fn off size).pins = p.pins ∧
    (invalidAccess p fn off size).tick = p.tick ∧ (invalidAccess p fn off size).arrays = p.arrays ∧ (invalidAccess p fn off
    size).ldr = p.ldr ∧ (invalidAccess p fn off size).pens = p.pens ∧ (invalidAccess p fn off size).nvw = p.nvw ∧
    (invalidAccess p fn off size).ctxs = p.ctxs ∧ (invalidAccess p fn off size).numVfs = p.numVfs ∧ (invalidAccess p fn off
    size).reqs = p.reqs ∧ (invalidAccess p fn off size).lastGen = p.lastGen ∧ (invalidAccess p fn off size).rq = p.rq ∧
    (invalidAccess p fn off size).kvp = p.kvp ∧ (invalidAccess p fn off size).fab = p.fab ∧ (invalidAccess p fn off size).lsh
    = p.lsh ∧ (invalidAccess p fn off size).hnd = p.hnd ∧ (invalidAccess p fn off size).mgt = p.mgt ∧ (invalidAccess p fn off
    size).i3c = p.i3c ∧ (invalidAccess p fn off size).freeCtr = p.freeCtr := by
  simp [invalidAccess]
@[simp] theorem invalidAccess_vital (p : Pkg) (fn off size : Nat) : (invalidAccess p fn off size).glb.ready = p.glb.ready ∧
    (invalidAccess p fn off size).glb.selfTestDone = p.glb.selfTestDone ∧ (invalidAccess p fn off size).glb.fwFault =
    p.glb.fwFault := by
  simp [invalidAccess]
@[simp] theorem bar0WriteOp_keeps (p : Pkg) (fn : ℕ) (off : ℕ) (size : ℕ) (v : ℕ) (gone : List ℕ) : (bar0WriteOp p fn off size
    v gone).pins = p.pins ∧ (bar0WriteOp p fn off size v gone).numVfs = p.numVfs ∧ (bar0WriteOp p fn off size v gone).lastGen
    = p.lastGen := by
  simp [bar0WriteOp]
@[simp] theorem bar0WriteOp_vital (p : Pkg) (fn : ℕ) (off : ℕ) (size : ℕ) (v : ℕ) (gone : List ℕ) : (bar0WriteOp p fn off size
    v gone).tick.refclkOk = p.tick.refclkOk ∧ (bar0WriteOp p fn off size v gone).tick.phaseLocked = p.tick.phaseLocked ∧
    (bar0WriteOp p fn off size v gone).tick.holdover = p.tick.holdover ∧ (bar0WriteOp p fn off size v gone).glb.ready =
    p.glb.ready ∧ (bar0WriteOp p fn off size v gone).glb.selfTestDone = p.glb.selfTestDone ∧ (bar0WriteOp p fn off size v
    gone).glb.fwFault = p.glb.fwFault := by
  simp [bar0WriteOp]
@[simp] theorem modSegData_keeps (p : Pkg) (n seg : Nat) (f : ArrData → ArrData) : (modSegData p n seg f).pins = p.pins ∧
    (modSegData p n seg f).tick = p.tick ∧ (modSegData p n seg f).glb = p.glb ∧ (modSegData p n seg f).scn = p.scn ∧
    (modSegData p n seg f).ldr = p.ldr ∧ (modSegData p n seg f).pens = p.pens ∧ (modSegData p n seg f).nvw = p.nvw ∧
    (modSegData p n seg f).ctxs = p.ctxs ∧ (modSegData p n seg f).numVfs = p.numVfs ∧ (modSegData p n seg f).reqs = p.reqs ∧
    (modSegData p n seg f).lastGen = p.lastGen ∧ (modSegData p n seg f).rq = p.rq ∧ (modSegData p n seg f).kvp = p.kvp ∧
    (modSegData p n seg f).fab = p.fab ∧ (modSegData p n seg f).lsh = p.lsh ∧ (modSegData p n seg f).hnd = p.hnd ∧ (modSegData
    p n seg f).mgt = p.mgt ∧ (modSegData p n seg f).i3c = p.i3c ∧ (modSegData p n seg f).out = p.out ∧ (modSegData p n seg
    f).pba = p.pba ∧ (modSegData p n seg f).freeCtr = p.freeCtr := by
  unfold modSegData
  refine ⟨forAll_pins _ _ _ ?_, forAll_tick _ _ _ ?_, forAll_glb _ _ _ ?_, forAll_scn _ _ _ ?_, forAll_ldr _ _ _ ?_,
    forAll_pens _ _ _ ?_, forAll_nvw _ _ _ ?_, forAll_ctxs _ _ _ ?_, forAll_numVfs _ _ _ ?_, forAll_reqs _ _ _ ?_,
    forAll_lastGen _ _ _ ?_, forAll_rq _ _ _ ?_, forAll_kvp _ _ _ ?_, forAll_fab _ _ _ ?_, forAll_lsh _ _ _ ?_,
    forAll_hnd _ _ _ ?_, forAll_mgt _ _ _ ?_, forAll_i3c _ _ _ ?_, forAll_out _ _ _ ?_, forAll_pba _ _ _ ?_, forAll_freeCtr _ _ _ ?_⟩ <;>
  · intro q x
    split <;> simp [modArr_keeps]
@[simp] theorem recvGateOp_keeps (p : Pkg) (n : Nat) (d : Decided) : (recvGateOp p n d).pins = p.pins ∧ (recvGateOp p n
    d).tick = p.tick ∧ (recvGateOp p n d).glb = p.glb ∧ (recvGateOp p n d).ldr = p.ldr ∧ (recvGateOp p n d).nvw = p.nvw ∧
    (recvGateOp p n d).ctxs = p.ctxs ∧ (recvGateOp p n d).numVfs = p.numVfs ∧ (recvGateOp p n d).reqs = p.reqs ∧ (recvGateOp p
    n d).lastGen = p.lastGen ∧ (recvGateOp p n d).rq = p.rq ∧ (recvGateOp p n d).kvp = p.kvp ∧ (recvGateOp p n d).fab = p.fab
    ∧ (recvGateOp p n d).hnd = p.hnd ∧ (recvGateOp p n d).mgt = p.mgt ∧ (recvGateOp p n d).i3c = p.i3c ∧ (recvGateOp p n
    d).freeCtr = p.freeCtr :=
    by
  simp [recvGateOp]
@[simp] theorem powerUpOp_keeps (p : Pkg) : (powerUpOp p).tick = p.tick ∧ (powerUpOp p).arrays = p.arrays ∧ (powerUpOp p).ldr
    = p.ldr ∧ (powerUpOp p).pens = p.pens ∧ (powerUpOp p).nvw = p.nvw ∧ (powerUpOp p).ctxs = p.ctxs ∧ (powerUpOp p).numVfs =
    p.numVfs ∧ (powerUpOp p).reqs = p.reqs ∧ (powerUpOp p).lastGen = p.lastGen ∧ (powerUpOp p).rq = p.rq ∧ (powerUpOp p).kvp =
    p.kvp ∧ (powerUpOp p).fab = p.fab ∧ (powerUpOp p).hnd = p.hnd ∧ (powerUpOp p).mgt = p.mgt ∧ (powerUpOp p).i3c = p.i3c ∧
    (powerUpOp p).freeCtr = p.freeCtr := by
  unfold powerUpOp; dsimp only; (repeat' split) <;> (simp_all; done)
@[simp] theorem powerUpOp_vital (p : Pkg) : (powerUpOp p).glb.ready = p.glb.ready ∧ (powerUpOp p).glb.selfTestDone =
    p.glb.selfTestDone ∧ (powerUpOp p).glb.fwFault = p.glb.fwFault := by
  unfold powerUpOp; dsimp only; (repeat' split) <;> (simp_all; done)
@[simp] theorem promptRead_keeps (p : Pkg) (e : Nat) (ts : List Word32) : (promptRead p e ts).pins = p.pins ∧ (promptRead p e
    ts).tick = p.tick ∧ (promptRead p e ts).glb = p.glb ∧ (promptRead p e ts).arrays = p.arrays ∧ (promptRead p e ts).ldr =
    p.ldr ∧ (promptRead p e ts).nvw = p.nvw ∧ (promptRead p e ts).numVfs = p.numVfs ∧ (promptRead p e ts).lastGen = p.lastGen
    ∧ (promptRead p e ts).kvp = p.kvp ∧ (promptRead p e ts).mgt = p.mgt ∧ (promptRead p e ts).i3c = p.i3c := by
  unfold promptRead; dsimp only; (repeat' split) <;> (simp_all; done)
@[simp] theorem tokenReadFailed_keeps (p : Pkg) (e : Nat) (d : Desc) : (tokenReadFailed p e d).pins = p.pins ∧
    (tokenReadFailed p e d).tick = p.tick ∧ (tokenReadFailed p e d).glb = p.glb ∧ (tokenReadFailed p e d).arrays = p.arrays ∧
    (tokenReadFailed p e d).ldr = p.ldr ∧ (tokenReadFailed p e d).nvw = p.nvw ∧ (tokenReadFailed p e d).numVfs = p.numVfs ∧
    (tokenReadFailed p e d).lastGen = p.lastGen ∧ (tokenReadFailed p e d).rq = p.rq ∧ (tokenReadFailed p e d).kvp = p.kvp ∧
    (tokenReadFailed p e d).fab = p.fab ∧ (tokenReadFailed p e d).lsh = p.lsh ∧ (tokenReadFailed p e d).hnd = p.hnd ∧
    (tokenReadFailed p e d).mgt = p.mgt ∧ (tokenReadFailed p e d).i3c = p.i3c ∧ (tokenReadFailed p e d).freeCtr = p.freeCtr :=
    by
  simp [tokenReadFailed]
@[simp] theorem appendRead_keeps (p : Pkg) (e : Nat) (t : TokRead) (ts : List Word32) : (appendRead p e t ts).pins = p.pins ∧
    (appendRead p e t ts).tick = p.tick ∧ (appendRead p e t ts).glb = p.glb ∧ (appendRead p e t ts).arrays = p.arrays ∧
    (appendRead p e t ts).ldr = p.ldr ∧ (appendRead p e t ts).nvw = p.nvw ∧ (appendRead p e t ts).numVfs = p.numVfs ∧
    (appendRead p e t ts).lastGen = p.lastGen ∧ (appendRead p e t ts).rq = p.rq ∧ (appendRead p e t ts).kvp = p.kvp ∧
    (appendRead p e t ts).lsh = p.lsh ∧ (appendRead p e t ts).mgt = p.mgt ∧ (appendRead p e t ts).i3c = p.i3c := by
  simp [appendRead]
@[simp] theorem missDeadline_keeps (p : Pkg) (e : Nat) : (missDeadline p e).pins = p.pins ∧ (missDeadline p e).tick = p.tick ∧
    (missDeadline p e).glb = p.glb ∧ (missDeadline p e).arrays = p.arrays ∧ (missDeadline p e).ldr = p.ldr ∧ (missDeadline p
    e).nvw = p.nvw ∧ (missDeadline p e).numVfs = p.numVfs ∧ (missDeadline p e).lastGen = p.lastGen ∧ (missDeadline p e).kvp =
    p.kvp ∧ (missDeadline p e).mgt = p.mgt ∧ (missDeadline p e).i3c = p.i3c := by
  simp [missDeadline]
@[simp] theorem endTick_keeps (p : Pkg) : (endTick p).pins = p.pins ∧ (endTick p).tick = p.tick ∧ (endTick p).glb = p.glb ∧
    (endTick p).arrays = p.arrays ∧ (endTick p).ldr = p.ldr ∧ (endTick p).nvw = p.nvw ∧ (endTick p).numVfs = p.numVfs ∧
    (endTick p).lastGen = p.lastGen ∧ (endTick p).kvp = p.kvp ∧ (endTick p).mgt = p.mgt ∧ (endTick p).i3c = p.i3c := by
  simp [endTick]
@[simp] theorem endTick_vital (p : Pkg) : (endTick p).tick.refclkOk = p.tick.refclkOk ∧ (endTick p).tick.phaseLocked =
    p.tick.phaseLocked ∧ (endTick p).tick.holdover = p.tick.holdover ∧ (endTick p).glb.ready = p.glb.ready ∧ (endTick
    p).glb.selfTestDone = p.glb.selfTestDone ∧ (endTick p).glb.fwFault = p.glb.fwFault := by
  simp [endTick]
@[simp] theorem countTick_keeps (p : Pkg) : (countTick p).pins = p.pins ∧ (countTick p).glb = p.glb ∧ (countTick p).arrays =
    p.arrays ∧ (countTick p).ldr = p.ldr ∧ (countTick p).pens = p.pens ∧ (countTick p).nvw = p.nvw ∧ (countTick p).ctxs =
    p.ctxs ∧ (countTick p).numVfs = p.numVfs ∧ (countTick p).reqs = p.reqs ∧ (countTick p).lastGen = p.lastGen ∧ (countTick
    p).rq = p.rq ∧ (countTick p).kvp = p.kvp ∧ (countTick p).fab = p.fab ∧ (countTick p).lsh = p.lsh ∧ (countTick p).hnd =
    p.hnd ∧ (countTick p).mgt = p.mgt ∧ (countTick p).i3c = p.i3c ∧ (countTick p).out = p.out ∧ (countTick p).pba = p.pba ∧
    (countTick p).freeCtr = p.freeCtr := by
  simp [countTick]
@[simp] theorem countTick_vital (p : Pkg) : (countTick p).tick.refclkOk = p.tick.refclkOk ∧ (countTick p).tick.phaseLocked =
    p.tick.phaseLocked ∧ (countTick p).tick.holdover = p.tick.holdover := by
  simp [countTick]
@[simp] theorem sweepPools_keeps (p : Pkg) : (sweepPools p).pins = p.pins ∧ (sweepPools p).tick = p.tick ∧ (sweepPools p).glb
    = p.glb ∧ (sweepPools p).scn = p.scn ∧ (sweepPools p).arrays = p.arrays ∧ (sweepPools p).ldr = p.ldr ∧ (sweepPools p).nvw
    = p.nvw ∧ (sweepPools p).ctxs = p.ctxs ∧ (sweepPools p).numVfs = p.numVfs ∧ (sweepPools p).reqs = p.reqs ∧ (sweepPools
    p).lastGen = p.lastGen ∧ (sweepPools p).rq = p.rq ∧ (sweepPools p).kvp = p.kvp ∧ (sweepPools p).fab = p.fab ∧ (sweepPools
    p).lsh = p.lsh ∧ (sweepPools p).hnd = p.hnd ∧ (sweepPools p).mgt = p.mgt ∧ (sweepPools p).i3c = p.i3c ∧ (sweepPools p).out
    = p.out ∧ (sweepPools p).pba = p.pba ∧ (sweepPools p).freeCtr = p.freeCtr := by
  simp [sweepPools]
@[simp] theorem judgeBlocked_keeps (p : Pkg) (c : Nat) : (judgeBlocked p c).pins = p.pins ∧ (judgeBlocked p c).tick = p.tick ∧
    (judgeBlocked p c).glb = p.glb ∧ (judgeBlocked p c).scn = p.scn ∧ (judgeBlocked p c).arrays = p.arrays ∧ (judgeBlocked p
    c).ldr = p.ldr ∧ (judgeBlocked p c).pens = p.pens ∧ (judgeBlocked p c).nvw = p.nvw ∧ (judgeBlocked p c).numVfs = p.numVfs
    ∧ (judgeBlocked p c).reqs = p.reqs ∧ (judgeBlocked p c).lastGen = p.lastGen ∧ (judgeBlocked p c).rq = p.rq ∧ (judgeBlocked
    p c).kvp = p.kvp ∧ (judgeBlocked p c).fab = p.fab ∧ (judgeBlocked p c).lsh = p.lsh ∧ (judgeBlocked p c).hnd = p.hnd ∧
    (judgeBlocked p c).mgt = p.mgt ∧ (judgeBlocked p c).i3c = p.i3c ∧ (judgeBlocked p c).out = p.out ∧ (judgeBlocked p c).pba
    = p.pba ∧ (judgeBlocked p c).freeCtr = p.freeCtr := by
  simp [judgeBlocked]
@[simp] theorem pumpSource_keeps (p : Pkg) (i : Nat) : (pumpSource p i).pins = p.pins ∧ (pumpSource p i).tick = p.tick ∧
    (pumpSource p i).glb = p.glb ∧ (pumpSource p i).arrays = p.arrays ∧ (pumpSource p i).ldr = p.ldr ∧ (pumpSource p i).pens =
    p.pens ∧ (pumpSource p i).nvw = p.nvw ∧ (pumpSource p i).numVfs = p.numVfs ∧ (pumpSource p i).reqs = p.reqs ∧ (pumpSource
    p i).lastGen = p.lastGen ∧ (pumpSource p i).rq = p.rq ∧ (pumpSource p i).kvp = p.kvp ∧ (pumpSource p i).lsh = p.lsh ∧
    (pumpSource p i).mgt = p.mgt ∧ (pumpSource p i).i3c = p.i3c := by
  simp [pumpSource]
@[simp] theorem dispatchAll_keeps (p : Pkg) : (dispatchAll p).pins = p.pins ∧ (dispatchAll p).tick = p.tick ∧ (dispatchAll
    p).glb = p.glb ∧ (dispatchAll p).arrays = p.arrays ∧ (dispatchAll p).ldr = p.ldr ∧ (dispatchAll p).nvw = p.nvw ∧
    (dispatchAll p).ctxs = p.ctxs ∧ (dispatchAll p).numVfs = p.numVfs ∧ (dispatchAll p).reqs = p.reqs ∧ (dispatchAll
    p).lastGen = p.lastGen ∧ (dispatchAll p).rq = p.rq ∧ (dispatchAll p).kvp = p.kvp ∧ (dispatchAll p).hnd = p.hnd ∧
    (dispatchAll p).mgt = p.mgt ∧ (dispatchAll p).i3c = p.i3c ∧ (dispatchAll p).freeCtr = p.freeCtr := by
  simp [dispatchAll]
@[simp] theorem beginTick_keeps (p : Pkg) : (beginTick p).tick = p.tick ∧ (beginTick p).glb = p.glb ∧ (beginTick p).arrays =
    p.arrays ∧ (beginTick p).ldr = p.ldr ∧ (beginTick p).nvw = p.nvw ∧ (beginTick p).numVfs = p.numVfs ∧ (beginTick p).reqs =
    p.reqs ∧ (beginTick p).lastGen = p.lastGen ∧ (beginTick p).rq = p.rq ∧ (beginTick p).kvp = p.kvp ∧ (beginTick p).mgt =
    p.mgt ∧ (beginTick p).i3c = p.i3c := by
  simp [beginTick]
@[simp] theorem tickStep_keeps (p : Pkg) : (tickStep p).glb = p.glb ∧ (tickStep p).ldr = p.ldr ∧ (tickStep p).numVfs =
    p.numVfs ∧ (tickStep p).lastGen = p.lastGen ∧ (tickStep p).kvp = p.kvp ∧ (tickStep p).mgt = p.mgt ∧ (tickStep p).i3c =
    p.i3c := by
  simp [tickStep]
@[simp] theorem tickStep_vital (p : Pkg) : (tickStep p).tick.refclkOk = p.tick.refclkOk ∧ (tickStep p).tick.phaseLocked =
    p.tick.phaseLocked ∧ (tickStep p).tick.holdover = p.tick.holdover := by
  simp [tickStep]
@[simp] theorem idleTime_keeps (p : Pkg) : (idleTime p).pins = p.pins ∧ (idleTime p).tick = p.tick ∧ (idleTime p).glb = p.glb
    ∧ (idleTime p).arrays = p.arrays ∧ (idleTime p).ldr = p.ldr ∧ (idleTime p).pens = p.pens ∧ (idleTime p).nvw = p.nvw ∧
    (idleTime p).ctxs = p.ctxs ∧ (idleTime p).numVfs = p.numVfs ∧ (idleTime p).reqs = p.reqs ∧ (idleTime p).lastGen =
    p.lastGen ∧ (idleTime p).rq = p.rq ∧ (idleTime p).kvp = p.kvp ∧ (idleTime p).fab = p.fab ∧ (idleTime p).lsh = p.lsh ∧
    (idleTime p).hnd = p.hnd ∧ (idleTime p).mgt = p.mgt ∧ (idleTime p).i3c = p.i3c ∧ (idleTime p).out = p.out ∧ (idleTime
    p).pba = p.pba ∧ (idleTime p).freeCtr = p.freeCtr := by
  simp [idleTime]
@[simp] theorem shiftPkg_keeps (d : Int) (p : Pkg) : (shiftPkg d p).pins = p.pins ∧ (shiftPkg d p).arrays = p.arrays ∧
    (shiftPkg d p).ldr = p.ldr ∧ (shiftPkg d p).numVfs = p.numVfs ∧ (shiftPkg d p).lastGen = p.lastGen ∧ (shiftPkg d p).kvp =
    p.kvp ∧ (shiftPkg d p).i3c = p.i3c ∧ (shiftPkg d p).freeCtr = p.freeCtr := by
  simp [shiftPkg]
@[simp] theorem shiftPkg_vital (d : Int) (p : Pkg) : (shiftPkg d p).tick.refclkOk = p.tick.refclkOk ∧ (shiftPkg d
    p).tick.phaseLocked = p.tick.phaseLocked ∧ (shiftPkg d p).tick.holdover = p.tick.holdover ∧ (shiftPkg d p).glb.ready =
    p.glb.ready ∧ (shiftPkg d p).glb.selfTestDone = p.glb.selfTestDone ∧ (shiftPkg d p).glb.fwFault = p.glb.fwFault := by
  unfold shiftPkg
  dsimp only
  repeat' apply And.intro
  all_goals repeat' split
  all_goals try simp only [id_eq]
  all_goals repeat' (first
    | refine Eq.trans (forAll_pins _ _ _ ?_) ?_ 
    | refine Eq.trans (forAll_arrays _ _ _ ?_) ?_ 
    | refine Eq.trans (forAll_ldr _ _ _ ?_) ?_ 
    | refine Eq.trans (forAll_numVfs _ _ _ ?_) ?_ 
    | refine Eq.trans (forAll_lastGen _ _ _ ?_) ?_ 
    | refine Eq.trans (forAll_kvp _ _ _ ?_) ?_ 
    | refine Eq.trans (forAll_i3c _ _ _ ?_) ?_ 
    | refine Eq.trans (forAll_freeCtr _ _ _ ?_) ?_ 
    | refine Eq.trans (forAll_tickRefclkOk _ _ _ ?_) ?_ 
    | refine Eq.trans (forAll_tickPhaseLocked _ _ _ ?_) ?_ 
    | refine Eq.trans (forAll_tickHoldover _ _ _ ?_) ?_ 
    | refine Eq.trans (forAll_glbReady _ _ _ ?_) ?_ 
    | refine Eq.trans (forAll_glbSelfTestDone _ _ _ ?_) ?_ 
    | refine Eq.trans (forAll_glbFwFault _ _ _ ?_) ?_ 
    | refine Eq.trans (foldl_pins _ _ _ ?_) ?_ 
    | refine Eq.trans (foldl_arrays _ _ _ ?_) ?_ 
    | refine Eq.trans (foldl_ldr _ _ _ ?_) ?_ 
    | refine Eq.trans (foldl_numVfs _ _ _ ?_) ?_ 
    | refine Eq.trans (foldl_lastGen _ _ _ ?_) ?_ 
    | refine Eq.trans (foldl_kvp _ _ _ ?_) ?_ 
    | refine Eq.trans (foldl_i3c _ _ _ ?_) ?_ 
    | refine Eq.trans (foldl_freeCtr _ _ _ ?_) ?_ 
    | refine Eq.trans (foldl_tickRefclkOk _ _ _ ?_) ?_ 
    | refine Eq.trans (foldl_tickPhaseLocked _ _ _ ?_) ?_ 
    | refine Eq.trans (foldl_tickHoldover _ _ _ ?_) ?_ 
    | refine Eq.trans (foldl_glbReady _ _ _ ?_) ?_ 
    | refine Eq.trans (foldl_glbSelfTestDone _ _ _ ?_) ?_ 
    | refine Eq.trans (foldl_glbFwFault _ _ _ ?_) ?_ 
    | refine Eq.trans (foldlP_pins _ _ _ ?_) ?_ 
    | refine Eq.trans (foldlP_arrays _ _ _ ?_) ?_ 
    | refine Eq.trans (foldlP_ldr _ _ _ ?_) ?_ 
    | refine Eq.trans (foldlP_numVfs _ _ _ ?_) ?_ 
    | refine Eq.trans (foldlP_lastGen _ _ _ ?_) ?_ 
    | refine Eq.trans (foldlP_kvp _ _ _ ?_) ?_ 
    | refine Eq.trans (foldlP_i3c _ _ _ ?_) ?_ 
    | refine Eq.trans (foldlP_freeCtr _ _ _ ?_) ?_ 
    | refine Eq.trans (foldlP_tickRefclkOk _ _ _ ?_) ?_ 
    | refine Eq.trans (foldlP_tickPhaseLocked _ _ _ ?_) ?_ 
    | refine Eq.trans (foldlP_tickHoldover _ _ _ ?_) ?_ 
    | refine Eq.trans (foldlP_glbReady _ _ _ ?_) ?_ 
    | refine Eq.trans (foldlP_glbSelfTestDone _ _ _ ?_) ?_ 
    | refine Eq.trans (foldlP_glbFwFault _ _ _ ?_) ?_)
  all_goals try intro q x
  all_goals try dsimp only
  all_goals repeat' split
  all_goals first | rfl | (simp_all; done)
@[simp] theorem refclkLostOp_keeps (p : Pkg) (cause : Nat) : (refclkLostOp p cause).glb = p.glb ∧ (refclkLostOp p cause).ldr =
    p.ldr ∧ (refclkLostOp p cause).numVfs = p.numVfs ∧ (refclkLostOp p cause).lastGen = p.lastGen ∧ (refclkLostOp p cause).kvp
    = p.kvp ∧ (refclkLostOp p cause).i3c = p.i3c := by
  simp [refclkLostOp]
@[simp] theorem countLoadOp_keeps (p : Pkg) : (countLoadOp p).pins = p.pins ∧ (countLoadOp p).arrays = p.arrays ∧ (countLoadOp
    p).ldr = p.ldr ∧ (countLoadOp p).numVfs = p.numVfs ∧ (countLoadOp p).lastGen = p.lastGen ∧ (countLoadOp p).kvp = p.kvp ∧
    (countLoadOp p).freeCtr = p.freeCtr := by
  unfold countLoadOp; dsimp only; (repeat' split) <;> (simp_all; done)
@[simp] theorem countLoadOp_vital (p : Pkg) : (countLoadOp p).tick.refclkOk = p.tick.refclkOk ∧ (countLoadOp
    p).tick.phaseLocked = p.tick.phaseLocked ∧ (countLoadOp p).tick.holdover = p.tick.holdover ∧ (countLoadOp p).glb.ready =
    p.glb.ready ∧ (countLoadOp p).glb.selfTestDone = p.glb.selfTestDone ∧ (countLoadOp p).glb.fwFault = p.glb.fwFault := by
  unfold countLoadOp; dsimp only; (repeat' split) <;> (simp_all; done)
@[simp] theorem timeExchangeOp_keeps (p : Pkg) (up ns : Nat) : (timeExchangeOp p up ns).pins = p.pins ∧ (timeExchangeOp p up
    ns).glb = p.glb ∧ (timeExchangeOp p up ns).arrays = p.arrays ∧ (timeExchangeOp p up ns).ldr = p.ldr ∧ (timeExchangeOp p up
    ns).pens = p.pens ∧ (timeExchangeOp p up ns).nvw = p.nvw ∧ (timeExchangeOp p up ns).ctxs = p.ctxs ∧ (timeExchangeOp p up
    ns).numVfs = p.numVfs ∧ (timeExchangeOp p up ns).reqs = p.reqs ∧ (timeExchangeOp p up ns).lastGen = p.lastGen ∧
    (timeExchangeOp p up ns).rq = p.rq ∧ (timeExchangeOp p up ns).kvp = p.kvp ∧ (timeExchangeOp p up ns).lsh = p.lsh ∧
    (timeExchangeOp p up ns).hnd = p.hnd ∧ (timeExchangeOp p up ns).mgt = p.mgt ∧ (timeExchangeOp p up ns).i3c = p.i3c ∧
    (timeExchangeOp p up ns).freeCtr = p.freeCtr := by
  unfold timeExchangeOp; dsimp only; (repeat' split) <;> (simp_all; done)
@[simp] theorem timeExchangeOp_vital (p : Pkg) (up ns : Nat) : (timeExchangeOp p up ns).tick.refclkOk = p.tick.refclkOk ∧
    (timeExchangeOp p up ns).tick.phaseLocked = p.tick.phaseLocked ∧ (timeExchangeOp p up ns).tick.holdover = p.tick.holdover
    :=
    by
  unfold timeExchangeOp; dsimp only; (repeat' split) <;> (simp_all; done)
@[simp] theorem exchangeDone_keeps (p : Pkg) (half : Int) : (exchangeDone p half).pins = p.pins ∧ (exchangeDone p half).glb =
    p.glb ∧ (exchangeDone p half).arrays = p.arrays ∧ (exchangeDone p half).ldr = p.ldr ∧ (exchangeDone p half).pens = p.pens
    ∧ (exchangeDone p half).nvw = p.nvw ∧ (exchangeDone p half).ctxs = p.ctxs ∧ (exchangeDone p half).numVfs = p.numVfs ∧
    (exchangeDone p half).reqs = p.reqs ∧ (exchangeDone p half).lastGen = p.lastGen ∧ (exchangeDone p half).rq = p.rq ∧
    (exchangeDone p half).kvp = p.kvp ∧ (exchangeDone p half).fab = p.fab ∧ (exchangeDone p half).lsh = p.lsh ∧ (exchangeDone
    p half).hnd = p.hnd ∧ (exchangeDone p half).mgt = p.mgt ∧ (exchangeDone p half).i3c = p.i3c ∧ (exchangeDone p
    half).freeCtr = p.freeCtr := by
  simp [exchangeDone]
@[simp] theorem exchangeDone_vital (p : Pkg) (half : Int) : (exchangeDone p half).tick.refclkOk = p.tick.refclkOk ∧
    (exchangeDone p half).tick.phaseLocked = p.tick.phaseLocked ∧ (exchangeDone p half).tick.holdover = p.tick.holdover := by
  simp [exchangeDone]
@[simp] theorem setupRechecked_keeps (p : Pkg) (idx : ℕ) (n : ℕ) : (setupRechecked p idx n).pins = p.pins ∧ (setupRechecked p
    idx n).tick = p.tick ∧ (setupRechecked p idx n).glb = p.glb ∧ (setupRechecked p idx n).ldr = p.ldr ∧ (setupRechecked p idx
    n).numVfs = p.numVfs ∧ (setupRechecked p idx n).lastGen = p.lastGen ∧ (setupRechecked p idx n).kvp = p.kvp ∧
    (setupRechecked p idx n).mgt = p.mgt ∧ (setupRechecked p idx n).i3c = p.i3c := by
  unfold setupRechecked; dsimp only; repeat' apply And.intro
  all_goals repeat' split
  all_goals try simp only [modStep_keeps, faultStep_keeps, readReplica_keeps, fetchFirst_keeps, id_eq]
  all_goals repeat' (first
    | refine Eq.trans (forAll_pins _ _ _ ?_) ?_
    | refine Eq.trans (forAll_tick _ _ _ ?_) ?_
    | refine Eq.trans (forAll_glb _ _ _ ?_) ?_
    | refine Eq.trans (forAll_ldr _ _ _ ?_) ?_
    | refine Eq.trans (forAll_numVfs _ _ _ ?_) ?_
    | refine Eq.trans (forAll_lastGen _ _ _ ?_) ?_
    | refine Eq.trans (forAll_kvp _ _ _ ?_) ?_
    | refine Eq.trans (forAll_mgt _ _ _ ?_) ?_
    | refine Eq.trans (forAll_i3c _ _ _ ?_) ?_
    | refine Eq.trans (foldl_pins _ _ _ ?_) ?_
    | refine Eq.trans (foldl_tick _ _ _ ?_) ?_
    | refine Eq.trans (foldl_glb _ _ _ ?_) ?_
    | refine Eq.trans (foldl_ldr _ _ _ ?_) ?_
    | refine Eq.trans (foldl_numVfs _ _ _ ?_) ?_
    | refine Eq.trans (foldl_lastGen _ _ _ ?_) ?_
    | refine Eq.trans (foldl_kvp _ _ _ ?_) ?_
    | refine Eq.trans (foldl_mgt _ _ _ ?_) ?_
    | refine Eq.trans (foldl_i3c _ _ _ ?_) ?_
    | refine Eq.trans (foldlP_pins _ _ _ ?_) ?_
    | refine Eq.trans (foldlP_tick _ _ _ ?_) ?_
    | refine Eq.trans (foldlP_glb _ _ _ ?_) ?_
    | refine Eq.trans (foldlP_ldr _ _ _ ?_) ?_
    | refine Eq.trans (foldlP_numVfs _ _ _ ?_) ?_
    | refine Eq.trans (foldlP_lastGen _ _ _ ?_) ?_
    | refine Eq.trans (foldlP_kvp _ _ _ ?_) ?_
    | refine Eq.trans (foldlP_mgt _ _ _ ?_) ?_
    | refine Eq.trans (foldlP_i3c _ _ _ ?_) ?_)
  all_goals try intro q x
  all_goals try dsimp only
  all_goals repeat' split
  all_goals first | rfl | (simp_all; done)
@[simp] theorem slowerLost_keeps (p : Pkg) (n k r : Nat) : (slowerLost p n k r).pins = p.pins ∧ (slowerLost p n k r).tick =
    p.tick ∧ (slowerLost p n k r).glb = p.glb ∧ (slowerLost p n k r).ldr = p.ldr ∧ (slowerLost p n k r).numVfs = p.numVfs ∧
    (slowerLost p n k r).lastGen = p.lastGen ∧ (slowerLost p n k r).kvp = p.kvp ∧ (slowerLost p n k r).mgt = p.mgt ∧
    (slowerLost p n k r).i3c = p.i3c := by
  unfold slowerLost; dsimp only; (repeat' split) <;> (simp_all; done)
@[simp] theorem slowerLost_vital (p : Pkg) (n : ℕ) (k : ℕ) (r : ℕ) : (slowerLost p n k r).tick.refclkOk = p.tick.refclkOk ∧
    (slowerLost p n k r).tick.phaseLocked = p.tick.phaseLocked ∧ (slowerLost p n k r).tick.holdover = p.tick.holdover := by
  unfold slowerLost; dsimp only; (repeat' split) <;> (simp_all; done)
@[simp] theorem slowerFetched_keeps (p : Pkg) (n k r : Nat) (payload : Option Bytes) : (slowerFetched p n k r payload).pins =
    p.pins ∧ (slowerFetched p n k r payload).tick = p.tick ∧ (slowerFetched p n k r payload).glb = p.glb ∧ (slowerFetched p n
    k r payload).ldr = p.ldr ∧ (slowerFetched p n k r payload).numVfs = p.numVfs ∧ (slowerFetched p n k r payload).lastGen =
    p.lastGen ∧ (slowerFetched p n k r payload).kvp = p.kvp ∧ (slowerFetched p n k r payload).mgt = p.mgt ∧ (slowerFetched p n
    k r payload).i3c = p.i3c := by
  unfold slowerFetched; (repeat' split) <;> (simp_all; done)
@[simp] theorem fillLost_keeps (p : Pkg) (k : ℕ) (r : ℕ) : (fillLost p k r).pins = p.pins ∧ (fillLost p k r).tick = p.tick ∧
    (fillLost p k r).glb = p.glb ∧ (fillLost p k r).arrays = p.arrays ∧ (fillLost p k r).pens = p.pens ∧ (fillLost p k r).nvw
    = p.nvw ∧ (fillLost p k r).ctxs = p.ctxs ∧ (fillLost p k r).numVfs = p.numVfs ∧ (fillLost p k r).reqs = p.reqs ∧ (fillLost
    p k r).lastGen = p.lastGen ∧ (fillLost p k r).rq = p.rq ∧ (fillLost p k r).kvp = p.kvp ∧ (fillLost p k r).lsh = p.lsh ∧
    (fillLost p k r).hnd = p.hnd ∧ (fillLost p k r).mgt = p.mgt ∧ (fillLost p k r).i3c = p.i3c ∧ (fillLost p k r).freeCtr =
    p.freeCtr := by
  unfold fillLost; dsimp only; (repeat' split) <;> (simp_all; done)
@[simp] theorem fillFetched_keeps (p : Pkg) (k : ℕ) (r : ℕ) (payload : Option Bytes) : (fillFetched p k r payload).pins =
    p.pins ∧ (fillFetched p k r payload).tick = p.tick ∧ (fillFetched p k r payload).glb = p.glb ∧ (fillFetched p k r
    payload).arrays = p.arrays ∧ (fillFetched p k r payload).pens = p.pens ∧ (fillFetched p k r payload).ctxs = p.ctxs ∧
    (fillFetched p k r payload).numVfs = p.numVfs ∧ (fillFetched p k r payload).reqs = p.reqs ∧ (fillFetched p k r
    payload).lastGen = p.lastGen ∧ (fillFetched p k r payload).rq = p.rq ∧ (fillFetched p k r payload).kvp = p.kvp ∧
    (fillFetched p k r payload).lsh = p.lsh ∧ (fillFetched p k r payload).hnd = p.hnd ∧ (fillFetched p k r payload).mgt =
    p.mgt ∧ (fillFetched p k r payload).i3c = p.i3c ∧ (fillFetched p k r payload).freeCtr = p.freeCtr := by
  unfold fillFetched; (repeat' split) <;> (simp_all; done)
end Sys2Proof.Machine

end
end

