-- ==== Sys2Proof/Laws/Memory.lean ====
section
/-! SUPPORT. Every operation that writes a byte memory keeps its canonical form and changes only the bytes it names: local SRAM,
buffers, frames, program memories and the plan's staging area. -/

namespace Sys2Proof.Machine

/-! ### What a write leaves -/

/-- A write of bytes reads back as those bytes, and every other byte reads as before. -/
theorem bytes_written (t : Tab Byte) (off : Nat) (b : Bytes) (k : Nat) :
    tget 0 (tsetList 0 t off b) k = if off ≤ k ∧ k < off + b.length then b.getD (k - off) 0 else tget 0 t k := by
  rw [tget_tsetList]
  by_cases h : off ≤ k ∧ k < off + b.length
  · have h2 : k - off < b.length := by omega
    rw [dif_pos h, if_pos h, List.getD_eq_getElem?_getD, List.getElem?_eq_getElem h2]; rfl
  · rw [dif_neg h, if_neg h]

/-! ### Canonical form -/

theorem sramPut_twf (d : ArrData) (off : Nat) (b : Bytes) (base : Nat → Int) (h : twf 0 d.sram = true) :
    twf 0 (sramPut d off b base).sram = true := tsetList_twf 0 b d.sram off h

/-- A write of a buffer. -/
theorem bufPut_twf (p : Pkg) (n k off : Nat) (d : Bytes) (base : Nat → Int) (m j : Nat) (h : twf 0 (bufOf p m j).data = true) :
    twf 0 (bufOf (bufPut p n k off d base) m j).data = true := by
  unfold bufPut bufOf at *
  rw [penOf_modPen]
  by_cases hm : m = n
  · subst hm
    simp only [if_true, tget_tmod]
    by_cases hj : j = k
    · subst hj
      simpa using tsetList_twf 0 d _ off h
    · simpa [hj] using h
  · simpa [hm] using h

/-- A write of a frame. -/
theorem framePut_twf (p : Pkg) (n f off : Nat) (b : Bytes) (m g : Nat) (h : twf 0 (tget {} (poolOf p m).tab g).data = true) :
    twf 0 (tget {} (poolOf (framePut p n f off b) m).tab g).data = true := by
  unfold framePut
  rw [poolOf_modPool]
  by_cases hm : m = n
  · subst hm
    simp only [if_true, tget_tmod]
    by_cases hg : g = f
    · subst hg
      simpa using tsetList_twf 0 b _ off h
    · simpa [hg] using h
  · simpa [hm] using h

/-- A fault of a binding leaves every program memory. -/
theorem faultBind_mem (p : Pkg) (c core kind code pc tval d : Nat) :
    (bindOf (faultBind p c core kind code pc tval) d).mem = (bindOf p d).mem := by
  have wake : ∀ (l : List Nat) (q : Pkg), bindOf (forAll l (fun q k =>
      modHcore q k fun x => { x with waiting := false, woken := false }) q) d = bindOf q d := by
    intro l
    induction l with
    | nil => intro q; rfl
    | cons k l ih => intro q; exact ih _
  unfold faultBind
  dsimp only
  rw [bindOf_congr (logEvent_keeps _ _ _ _ _ _ _ _).2.2.2.2.2.2.2.2.2.2.2.2.2.2.1, bindOf_modBind]
  by_cases hd : d = c
  · subst hd
    simp [wake]
  · simp [hd, wake]

/-- A change of a binding that leaves its program memory. -/
theorem modBind_mem (p : Pkg) (c d : Nat) (f : HBind → HBind) (h : ∀ x, (f x).mem = x.mem) : (bindOf (modBind p c f) d).mem = (bindOf p d).mem := by
  rw [bindOf_modBind]
  split
  · rename_i e; subst e; exact h _
  · rfl

theorem judgeTq_mem (p : Pkg) (c d : Nat) : (bindOf (judgeTq p c) d).mem = (bindOf p d).mem := by
  unfold judgeTq; dsimp only; split
  · rfl
  · exact modBind_mem _ _ _ _ fun _ => rfl

theorem ringFault_mem (p : Pkg) (c core d : Nat) : (bindOf (ringFault p c core) d).mem = (bindOf p d).mem := by
  unfold ringFault; split
  · exact faultBind_mem _ _ _ _ _ _ _ _
  · rfl

theorem takeMail_mem (k c d : Nat) (n : Nat) : ∀ p : Pkg, (bindOf (takeMail p k c n) d).mem = (bindOf p d).mem := by
  induction n with
  | zero => intro p; rfl
  | succ n ih =>
    intro p
    unfold takeMail
    dsimp only
    split
    · rfl
    · split
      · rfl
      · split
        · rw [bindOf_congr (stallCtx_keeps _ _).2.2.2.2.2.2.2.2.2.2.2.2.2.2.1]
        · exact (ih _).trans rfl

theorem pumpMail_mem (p : Pkg) (k d : Nat) : (bindOf (pumpMail p k) d).mem = (bindOf p d).mem := by
  unfold pumpMail
  split
  · dsimp only; split
    · split
      · unfold judgeStall; split
        · exact (takeMail_mem _ _ _ _ _).trans rfl
        · exact (takeMail_mem _ _ _ _ _).trans rfl
      · exact ringFault_mem _ _ _ _
    · rfl
  · rfl

theorem mailWordWrite_mem (p : Pkg) (k off v d : Nat) : (bindOf (mailWordWrite p k off v) d).mem = (bindOf p d).mem := by
  unfold mailWordWrite mailDoorbell
  split
  · dsimp only; split
    · rfl
    · exact (pumpMail_mem _ _ _).trans rfl
  · split <;> rfl

theorem bindPageWrite_mem (p : Pkg) (c off size v d : Nat) : (bindOf (bindPageWrite p c off size v) d).mem = (bindOf p d).mem :=
  modBind_mem _ _ _ _ fun x => by dsimp only; (repeat' split) <;> rfl

theorem bindWordWrite_mem (p : Pkg) (c off v d : Nat) : (bindOf (bindWordWrite p c off v) d).mem = (bindOf p d).mem := by
  unfold bindWordWrite
  split
  · exact (judgeTq_mem _ _ _).trans (modBind_mem _ _ _ _ fun _ => rfl)
  · split
    · exact modBind_mem _ _ _ _ fun x => by split <;> rfl
    · exact bindPageWrite_mem _ _ _ _ _ _

/-- A store of a program to the pages leaves every program memory. -/
theorem ringBaseWrite_mem (p : Pkg) (k c off size v d : Nat) : (bindOf (ringBaseWrite p k c off size v) d).mem = (bindOf p d).mem := by
  unfold ringBaseWrite
  dsimp only
  split
  · split
    · exact mailWordWrite_mem _ _ _ _ _
    · split
      · rfl
      · exact (mailWordWrite_mem _ _ _ _ _).trans (mailWordWrite_mem _ _ _ _ _)
  · split
    · split
      · exact bindWordWrite_mem _ _ _ _ _
      · split
        · exact bindPageWrite_mem _ _ _ _ _ _
        · exact (bindWordWrite_mem _ _ _ _ _).trans (bindWordWrite_mem _ _ _ _ _)
    · rfl

theorem pageStore_mem (p : Pkg) (c a : Nat) (b : Bytes) (d : Nat) : (bindOf (pageStore p c a b) d).mem = (bindOf p d).mem := by
  unfold pageStore
  extract_lets v
  generalize 0x100000 + (v - bindPage) = off1
  generalize (v - pageBase) % 0x1000 = off2
  split
  · exact ringBaseWrite_mem _ _ _ _ _ _ _
  · exact ringBaseWrite_mem _ _ _ _ _ _ _

/-- One access of a program. -/
theorem progAccess_twf (c k : Nat) (p : Pkg) (x : Access) (d : Nat) (h : twf 0 (bindOf p d).mem = true) :
    twf 0 (bindOf (progAccess c k p x) d).mem = true := by
  have fault (code a : Nat) : twf 0 (bindOf (pageFault p c k code a) d).mem = true := by
    have h1 : bindOf (pageFault p c k code a) d =
        bindOf (faultBind p c k 1 code ((Config.freeReg (p.freeCtr + 1) 1).toNat % 2 ^ 64) ((a + progBase) % 2 ^ 64)) d := rfl
    rw [h1, faultBind_mem]
    exact h
  unfold progAccess
  dsimp only
  split
  · exact h
  · split
    · split
      · rw [bindOf_modBind]
        by_cases hd : d = c
        · subst hd
          simpa using tsetList_twf 0 _ _ _ h
        · simpa [hd] using h
      · split
        · exact h
        · split
          · rw [pageStore_mem]; exact h
          · exact fault _ _
    · repeat' split
      all_goals first | exact h | exact fault _ _

/-- A program's own accesses. -/
theorem progStores_twf (p : Pkg) (c k : Nat) (l : Stores) (d : Nat) (h : twf 0 (bindOf p d).mem = true) :
    twf 0 (bindOf (progStores p c k l) d).mem = true := by
  have fold : ∀ (l : Stores) (q : Pkg), twf 0 (bindOf q d).mem = true → twf 0 (bindOf (forAll l (progAccess c k) q) d).mem = true := by
    intro l
    induction l with
    | nil => intro q hq; exact hq
    | cons x l ih => intro q hq; exact ih _ (progAccess_twf c k q x d hq)
  exact fold l _ h

/-- A record written to a ring in program memory. -/
theorem ringPut_twf (mem : Tab Byte) (r : HRing) (b : Bytes) (h : twf 0 mem = true) : twf 0 (ringPut mem r b).1 = true :=
  tsetList_twf 0 _ mem _ h

/-- The completion of a fabric command. -/
theorem fqDone_twf (p : Pkg) (c : Nat) (x : FqCmd) (status : Nat) (data : Bytes) (d : Nat) (h : twf 0 (bindOf p d).mem = true) :
    twf 0 (bindOf (fqDone p c x status data) d).mem = true := by
  have wake : ∀ (l : List Nat) (q : Pkg), bindOf (forAll l (fun q k =>
      modHcore q k fun x => if x.waiting then { x with woken := true } else x) q) d = bindOf q d := by
    intro l
    induction l with
    | nil => intro q; rfl
    | cons k l ih => intro q; exact ih _
  unfold fqDone wakeCores
  simp only [wake, bindOf_modBind]
  by_cases hd : d = c
  · subst hd
    simp only [if_true]
    refine tset_twf 0 _ _ _ (tset_twf 0 _ _ _ ?_)
    split
    · exact tsetList_twf 0 _ _ _ h
    · split
      · exact tsetList_twf 0 _ _ _ h
      · exact h
  · simpa [hd] using h

/-- The image of a program fills memory that was empty. -/
theorem image_twf (b : Bytes) : twf 0 (tsetList (0 : Byte) [] 0 b) = true := tsetList_twf 0 b [] 0 rfl

/-- A write of the staging area. -/
theorem staging_twf (m : Tab Byte) (off : Nat) (b : Bytes) (h : twf 0 m = true) : twf 0 (tsetList 0 m off b) = true :=
  tsetList_twf 0 b m off h

/-- The fresh data of a run keep the local SRAM of their array. -/
theorem freshData_twf (d : ArrData) (h : twf 0 d.sram = true) : twf 0 (freshData d).sram = true := h

/-- Memory at reset is in canonical form. -/
theorem reset_memory : Memory.wf State.reset.pkg = true := by decide

end Sys2Proof.Machine
end

