-- ==== Sys2Proof/Laws/Order.lean ====
section
/-! SUPPORT. What the looks ahead at the resets of a tick leave as they are (R431): `foreseen` and `coldForeseen` mark the GLB_ block and
the pens alone, and `overridden` and `underResets` keep what the operation under them keeps. -/

namespace Sys2Proof.Machine

@[simp] theorem foreseen_keeps (s : State) : (foreseen s).pins = s.pkg.pins ∧ (foreseen s).tick = s.pkg.tick ∧
    (foreseen s).scn = s.pkg.scn ∧ (foreseen s).arrays = s.pkg.arrays ∧ (foreseen s).ldr = s.pkg.ldr ∧ (foreseen s).nvw = s.pkg.nvw ∧
    (foreseen s).ctxs = s.pkg.ctxs ∧ (foreseen s).numVfs = s.pkg.numVfs ∧ (foreseen s).reqs = s.pkg.reqs ∧
    (foreseen s).lastGen = s.pkg.lastGen ∧ (foreseen s).rq = s.pkg.rq ∧ (foreseen s).kvp = s.pkg.kvp ∧ (foreseen s).fab = s.pkg.fab ∧
    (foreseen s).lsh = s.pkg.lsh ∧ (foreseen s).hnd = s.pkg.hnd ∧ (foreseen s).mgt = s.pkg.mgt ∧ (foreseen s).i3c = s.pkg.i3c ∧
    (foreseen s).out = s.pkg.out ∧ (foreseen s).pba = s.pkg.pba ∧ (foreseen s).freeCtr = s.pkg.freeCtr := by
  unfold foreseen
  extract_lets p
  have hp : ∀ {β : Type} (π : Pkg → β), (∀ q n f, π (modPen q n f) = π q) → (π (markReset s.pkg) = π s.pkg) →
      π (forAll ((upto 16).filter (penAhead s)) (fun q n => modPen q n fun x => { x with resetAt := now q + 1 }) p) = π s.pkg := by
    intro β π h1 h2
    refine (forAll_keep π _ _ _ fun q n => h1 _ _ _).trans ?_
    simp only [p]; split
    · exact h2
    · rfl
  refine ⟨?_, ?_, ?_, ?_, ?_, ?_, ?_, ?_, ?_, ?_, ?_, ?_, ?_, ?_, ?_, ?_, ?_, ?_, ?_, ?_⟩
  all_goals first
    | exact hp _ (fun _ _ _ => by simp) rfl

@[simp] theorem foreseen_vital (s : State) : (foreseen s).glb.ready = s.pkg.glb.ready ∧ (foreseen s).glb.selfTestDone = s.pkg.glb.selfTestDone ∧
    (foreseen s).glb.fwFault = s.pkg.glb.fwFault := by
  unfold foreseen
  extract_lets p
  have hp : ∀ {β : Type} (π : Glb → β), (∀ g : Glb, ∀ n, π { g with warmAt := n } = π g) →
      π (forAll ((upto 16).filter (penAhead s)) (fun q n => modPen q n fun x => { x with resetAt := now q + 1 }) p).glb = π s.pkg.glb := by
    intro β π h
    refine (congrArg π (forAll_keep Pkg.glb _ _ _ fun q n => by simp)).trans ?_
    simp only [p]; split
    · exact h _ _
    · rfl
  exact ⟨hp Glb.ready fun _ _ => rfl, hp Glb.selfTestDone fun _ _ => rfl, hp Glb.fwFault fun _ _ => rfl⟩

@[simp] theorem coldForeseen_keeps (s : State) : (coldForeseen s).pins = s.pkg.pins ∧ (coldForeseen s).tick = s.pkg.tick ∧ (coldForeseen s).scn = s.pkg.scn ∧
    (coldForeseen s).arrays = s.pkg.arrays ∧ (coldForeseen s).ldr = s.pkg.ldr ∧ (coldForeseen s).nvw = s.pkg.nvw ∧
    (coldForeseen s).ctxs = s.pkg.ctxs ∧ (coldForeseen s).numVfs = s.pkg.numVfs ∧ (coldForeseen s).reqs = s.pkg.reqs ∧
    (coldForeseen s).lastGen = s.pkg.lastGen ∧ (coldForeseen s).rq = s.pkg.rq ∧ (coldForeseen s).kvp = s.pkg.kvp ∧
    (coldForeseen s).fab = s.pkg.fab ∧ (coldForeseen s).lsh = s.pkg.lsh ∧ (coldForeseen s).hnd = s.pkg.hnd ∧
    (coldForeseen s).mgt = s.pkg.mgt ∧ (coldForeseen s).i3c = s.pkg.i3c ∧ (coldForeseen s).out = s.pkg.out ∧
    (coldForeseen s).pba = s.pkg.pba ∧ (coldForeseen s).freeCtr = s.pkg.freeCtr ∧ (coldForeseen s).pens = s.pkg.pens := by
  unfold coldForeseen; split <;> simp [markReset]

@[simp] theorem coldForeseen_vital (s : State) : (coldForeseen s).glb.ready = s.pkg.glb.ready ∧
    (coldForeseen s).glb.selfTestDone = s.pkg.glb.selfTestDone ∧ (coldForeseen s).glb.fwFault = s.pkg.glb.fwFault := by
  unfold coldForeseen; split <;> simp [markReset]

/-- What `overridden` answers is what the operation left, but for the marks of the GLB_ block and of the pens. -/
theorem overridden_keep {β : Type} (π : Pkg → β) (s : State) (f : Pkg → Pkg) (h1 : ∀ q n g, π (modPen q n g) = π q)
    (h2 : ∀ (q : Pkg) n, π { q with glb := { q.glb with warmAt := n } } = π q) : π (overridden s f) = π (f (foreseen s)) :=
  (forAll_keep π _ _ _ fun _ _ => h1 _ _ _).trans (h2 _ _)

@[simp] theorem overridden_keeps (s : State) (f : Pkg → Pkg) : (overridden s f).pins = (f (foreseen s)).pins ∧ (overridden s f).tick = (f (foreseen s)).tick ∧
    (overridden s f).scn = (f (foreseen s)).scn ∧ (overridden s f).arrays = (f (foreseen s)).arrays ∧
    (overridden s f).ldr = (f (foreseen s)).ldr ∧ (overridden s f).nvw = (f (foreseen s)).nvw ∧
    (overridden s f).ctxs = (f (foreseen s)).ctxs ∧ (overridden s f).numVfs = (f (foreseen s)).numVfs ∧
    (overridden s f).reqs = (f (foreseen s)).reqs ∧ (overridden s f).lastGen = (f (foreseen s)).lastGen ∧
    (overridden s f).rq = (f (foreseen s)).rq ∧ (overridden s f).kvp = (f (foreseen s)).kvp ∧
    (overridden s f).fab = (f (foreseen s)).fab ∧ (overridden s f).lsh = (f (foreseen s)).lsh ∧
    (overridden s f).hnd = (f (foreseen s)).hnd ∧ (overridden s f).mgt = (f (foreseen s)).mgt ∧
    (overridden s f).i3c = (f (foreseen s)).i3c ∧ (overridden s f).out = (f (foreseen s)).out ∧
    (overridden s f).pba = (f (foreseen s)).pba ∧ (overridden s f).freeCtr = (f (foreseen s)).freeCtr := by
  refine ⟨?_, ?_, ?_, ?_, ?_, ?_, ?_, ?_, ?_, ?_, ?_, ?_, ?_, ?_, ?_, ?_, ?_, ?_, ?_, ?_⟩
  all_goals exact overridden_keep _ _ _ (fun _ _ _ => by simp) fun _ _ => rfl

@[simp] theorem overridden_vital (s : State) (f : Pkg → Pkg) : (overridden s f).glb.ready = (f (foreseen s)).glb.ready ∧
    (overridden s f).glb.selfTestDone = (f (foreseen s)).glb.selfTestDone ∧ (overridden s f).glb.fwFault = (f (foreseen s)).glb.fwFault :=
  ⟨overridden_keep (fun p => p.glb.ready) _ _ (fun _ _ _ => by simp) fun _ _ => rfl,
    overridden_keep (fun p => p.glb.selfTestDone) _ _ (fun _ _ _ => by simp) fun _ _ => rfl,
    overridden_keep (fun p => p.glb.fwFault) _ _ (fun _ _ _ => by simp) fun _ _ => rfl⟩

/-- What a manager's command keeps of every package it keeps under the look ahead at resets, where the look ahead keeps it. -/
theorem underResets_keep {β : Type} (π : Pkg → β) (s : State) (op : Nat) (f : Pkg → Pkg) (hf : ∀ p, π (f p) = π p)
    (h1 : ∀ q n g, π (modPen q n g) = π q) (h2 : ∀ (q : Pkg) n, π { q with glb := { q.glb with warmAt := n } } = π q) :
    π (underResets s op f) = π s.pkg := by
  have hm : ∀ q : Pkg, π (markReset q) = π q := fun q => h2 q _
  unfold underResets
  split
  · rw [hf]; unfold coldForeseen; split
    · exact hm _
    · rfl
  · split
    · rw [overridden_keep π s f h1 h2, hf]
      unfold foreseen
      refine (forAll_keep π _ _ _ fun q n => h1 _ _ _).trans ?_
      split
      · exact hm _
      · rfl
    · exact hf _

/-- An operation that leaves the GLB_ block as it is leaves it so with the larger resets of its tick foreseen. -/
theorem overridden_glb (s : State) (f : Pkg → Pkg) (h : ∀ p, (f p).glb = p.glb) : (overridden s f).glb = s.pkg.glb := by
  have m : ∀ (l : List Nat) (g : Pkg → Nat → Pen → Pen) (p : Pkg), (forAll l (fun q n => modPen q n (g q n)) p).glb = p.glb := by
    intro l g
    induction l with
    | nil => intro p; rfl
    | cons a l ih => intro p; simp only [forAll, List.foldl] at *; rw [ih]; rfl
  have e : (foreseen s).glb = { s.pkg.glb with warmAt := (foreseen s).glb.warmAt } := by
    unfold foreseen; dsimp only; rw [m]; split <;> rfl
  simp only [overridden, m, h]
  rw [e]

end Sys2Proof.Machine
end

