-- ==== Sys2Proof/Laws/Pens.lean ====
section
/-! SUPPORT. The control fields of the pens, with the progress of a running step (left out where lv is false): every operation that
leaves them as they are, one lemma each. The operations that are not here write them: setPenState and what moves a pen, the enabling and the budgets, binding and unbinding, and the end of a step. -/

section

set_option maxRecDepth 4000
set_option linter.all false

namespace Sys2Proof.Machine

/-- The control fields of a pen. -/
structure PenHead where
  enable : Bool
  compat : Bool
  arrays : Nat
  stageMib : Nat
  dramMib : Nat
  nvShards : Nat
  groupSize : Nat
  fallback : Nat
  group : Tab Nat
  st : Nat
  image : Option Image
  stepCount : Nat
  key : Option (Option (Bool × Bool × Nat × Nat))
def stepKey (t : Step) : Bool × Bool × Nat × Nat :=
  (t.setupDone, t.released, t.start, t.earliest)
def headOf (lv : Bool) (x : Pen) : PenHead :=
  ⟨x.enable, x.compat, x.arrays, x.stageMib, x.dramMib, x.nvShards, x.groupSize, x.fallback, x.group, x.st, x.image,
      x.stepCount, if lv then some (x.step.map stepKey) else none⟩
def penHead (lv : Bool) (p : Pkg) (m : Nat) : PenHead := headOf lv (penOf p m)
variable {lv : Bool}
theorem modPen_head (p : Pkg) (n m : Nat) (f : Pen → Pen) (h : ∀ x, headOf lv (f x) = headOf lv x) : penHead lv (modPen p n f) m
    = penHead lv p m := by
  unfold penHead; rw [penOf_modPen]; split
  · rename_i e; subst e; exact h _
  · rfl
theorem modPen_headne (p : Pkg) (n m : Nat) (f : Pen → Pen) (h : m ≠ n) : penHead lv (modPen p n f) m = penHead lv p m := by
  unfold penHead; rw [penOf_modPen, if_neg h]
theorem head_congr {p q : Pkg} (h : q.pens = p.pens) (m : Nat) : penHead lv q m = penHead lv p m := by
  unfold penHead; rw [penOf_congr h]
theorem head_mk (p : Pkg) (m a1 a2 a3 a4 a5 a6 a8 a9 a10 a11 a12 a13 a14 a15 a16 a17 a18 a19 a20 a21 a22) :
  penHead lv (Pkg.mk a1 a2 a3 a4 a5 a6 p.pens a8 a9 a10 a11 a12 a13 a14 a15 a16 a17 a18 a19 a20 a21 a22) m = penHead lv p m := rfl
theorem forAll_head {α : Type} (l : List α) (f : Pkg → α → Pkg) (p : Pkg) (m : Nat) (h : ∀ q x, penHead lv (f q x) m = penHead
    lv q m) : penHead lv (forAll l f p) m = penHead lv p m := by
  unfold forAll
  induction l generalizing p with
  | nil => rfl
  | cons x l ih => rw [List.foldl_cons, ih, h]
theorem foldl_head {α : Type} (l : List α) (f : Pkg → α → Pkg) (p : Pkg) (m : Nat) (h : ∀ q x, penHead lv (f q x) m = penHead lv
    q m) : penHead lv (l.foldl f p) m = penHead lv p m := by
  induction l generalizing p with
  | nil => rfl
  | cons x l ih => rw [List.foldl_cons, ih, h]
theorem foldlP_head {α β : Type} (l : List α) (f : Pkg × β → α → Pkg × β) (a : Pkg × β) (m : Nat) (h : ∀ q x, penHead lv (f q
    x).1 m = penHead lv q.1 m) : penHead lv (l.foldl f a).1 m = penHead lv a.1 m := by
  induction l generalizing a with
  | nil => rfl
  | cons x l ih => rw [List.foldl_cons, ih, h]
theorem ite_head (c : Prop) [Decidable c] (a b : Pkg) (m : Nat) : penHead lv (if c then a else b) m = if c then penHead lv a m
    else penHead lv b m := by split <;> rfl
theorem nextFree_head (p : Pkg) (hm : Nat) : penHead lv (nextFree p) hm = penHead lv p hm := rfl
theorem modPool_head (p : Pkg) (n : Nat) (f : Pool → Pool) (hm : Nat) : penHead lv (modPool p n f) hm = penHead lv p hm :=
    modPen_head _ _ _ _ fun _ => rfl
theorem modStep_head (p : Pkg) (n : Nat) (f : Step → Step) (hm : Nat) (h1 : ∀ t, (f t).setupDone = t.setupDone) (h2 : ∀ t, (f
    t).released = t.released) (h3 : ∀ t, (f t).start = t.start) (h4 : ∀ t, (f t).earliest = t.earliest) : penHead lv (modStep p
    n f) hm = penHead lv p hm := modPen_head _ _ _ _ fun x => by simp only [headOf]; cases x.step <;> simp [stepKey, h1, h2, h3,
    h4]
theorem actLeash_phc (p : Pkg) (real : List (Nat × Nat))  (hm : Nat) : penHead lv (actLeash p real) hm = penHead lv p hm :=
    head_congr (by simp) hm
theorem noteKennelFull_phc (p : Pkg) (e rest : Nat)  (hm : Nat) : penHead lv (noteKennelFull p e rest) hm = penHead lv p hm :=
    head_congr (by simp) hm
theorem readBack_phc (p : Pkg) (n : Nat) (k : Copy)  (hm : Nat) : penHead lv (readBack p n k) hm = penHead lv p hm :=
    head_congr (by simp) hm
theorem takeGather_phc (p : Pkg) (a c : Nat) (values : Bool) (g : Gathered)  (hm : Nat) : penHead lv (takeGather p a c values g) hm
    = penHead lv p hm := head_congr (by simp) hm
theorem addMass_phc (p : Pkg) (e page mass : Nat)  (hm : Nat) : penHead lv (addMass p e page mass) hm = penHead lv p hm :=
    head_congr (by simp) hm
theorem answer_phc (p : Pkg) (c : Nat) (d : Desc) (status handle : Nat) (late fell : Bool)  (hm : Nat) : penHead lv (answer p c
    d status handle late fell) hm = penHead lv p hm := head_congr (by simp) hm
theorem answerHeld_phc (p : Pkg) (e : Nat) (d : Desc) (status : Nat)  (hm : Nat) : penHead lv (answerHeld p e d status) hm =
    penHead lv p hm := head_congr (by simp) hm
theorem answerReq_phc (p : Pkg) (e : Nat) (d : Desc) (status : Nat)  (hm : Nat) : penHead lv (answerReq p e d status) hm =
    penHead lv p hm := head_congr (by simp) hm
theorem authFail_phc (p : Pkg) (c : PendCmd)  (hm : Nat) : penHead lv (authFail p c) hm = penHead lv p hm := head_congr (by
    simp) hm
theorem beginDesc_phc (p : Pkg) (c : Nat) (d : Desc) (f : Desc → Desc)  (hm : Nat) : penHead lv (beginDesc p c d f) hm = penHead
    lv p hm := head_congr (by simp) hm
theorem billCtx_phc (p : Pkg) (n c e : Nat)  (hm : Nat) : penHead lv (billCtx p n c e) hm = penHead lv p hm := head_congr (by
    simp) hm
theorem billHints_phc (p : Pkg) (rest e : Nat)  (hm : Nat) : penHead lv (billHints p rest e).1 hm = penHead lv p hm :=
    head_congr (by simp) hm
theorem billHounds_phc (p : Pkg) (rest : Nat) (es : List (Nat × Nat))  (hm : Nat) : penHead lv (billHounds p rest es).1 hm =
    penHead lv p hm := head_congr (by simp) hm
theorem clipHints_phc (p : Pkg)  (hm : Nat) : penHead lv (clipHints p) hm = penHead lv p hm := head_congr (by simp) hm
theorem closeResume_phc (p : Pkg) (e status : Nat)  (hm : Nat) : penHead lv (closeResume p e status) hm = penHead lv p hm :=
    head_congr (by simp) hm
theorem dropHeld_phc (p : Pkg) (fn off : Nat)  (hm : Nat) : penHead lv (dropHeld p fn off) hm = penHead lv p hm := head_congr
    (by simp) hm
theorem dropTokSlot_phc (p : Pkg) (e : Nat)  (hm : Nat) : penHead lv (dropTokSlot p e) hm = penHead lv p hm := head_congr (by
    simp) hm
theorem enableCtx_phc (p : Pkg) (c : Nat)  (hm : Nat) : penHead lv (enableCtx p c) hm = penHead lv p hm := head_congr (by simp) hm
theorem endImprint_phc (p : Pkg) (i : Imprint) (status : Nat)  (hm : Nat) : penHead lv (endImprint p i status) hm = penHead lv p
    hm := head_congr (by simp) hm
theorem flushOdd_phc (p : Pkg) (s : Src) (z0 : Nat) (hm : Nat) : penHead lv (flushOdd p s z0) hm = penHead lv p hm := head_congr
    (by simp) hm
theorem freeEntry_phc (p : Pkg) (e : Nat)  (hm : Nat) : penHead lv (freeEntry p e) hm = penHead lv p hm := head_congr (by simp) hm
theorem fwStore_phc (p : Pkg) (srcId chip addr : Nat) (flag : Bool) (data : Bytes)  (hm : Nat) : penHead lv (fwStore p srcId
    chip addr flag data) hm = penHead lv p hm := head_congr (by simp) hm
theorem giveBack_phc (p : Pkg) (c n : Nat)  (hm : Nat) : penHead lv (giveBack p c n) hm = penHead lv p hm := head_congr (by
    simp) hm
theorem haltArrays_phc (p : Pkg) (n : Nat)  (hm : Nat) : penHead lv (haltArrays p n) hm = penHead lv p hm := head_congr (by
    simp) hm
theorem hndRegWrite_phc (p : Pkg) (fn c off v : Nat)  (hm : Nat) : penHead lv (hndRegWrite p fn c off v) hm = penHead lv p hm :=
    head_congr (by simp) hm
theorem holdDesc_phc (p : Pkg) (e : Nat) (d : Desc) (front : Bool)  (hm : Nat) : penHead lv (holdDesc p e d front) hm = penHead
    lv p hm := head_congr (by simp) hm
theorem hostRegionWrite_phc (p : Pkg) (fn c off size : Nat) (f : Ctx → Ctx)  (hm : Nat) : penHead lv (hostRegionWrite p fn c off
    size f) hm = penHead lv p hm := head_congr (by simp) hm
theorem irqModWrite_phc (p : Pkg) (c v : Nat)  (hm : Nat) : penHead lv (irqModWrite p c v) hm = penHead lv p hm := head_congr
    (by simp) hm
theorem issueRead_phc (p : Pkg) (e : Nat)  (hm : Nat) : penHead lv (issueRead p e) hm = penHead lv p hm := head_congr (by simp) hm
theorem log_phc (p : Pkg) (code source p0 p1 p2 : Nat)  (hm : Nat) : penHead lv (log p code source p0 p1 p2) hm = penHead lv p
    hm := head_congr (by simp) hm
theorem logDenied_phc (p : Pkg) (c n e status : Nat)  (hm : Nat) : penHead lv (logDenied p c n e status) hm = penHead lv p hm :=
    head_congr (by simp) hm
theorem logEvent_phc (p : Pkg) (c status code handle p0 p1 p2 : Nat)  (hm : Nat) : penHead lv (logEvent p c status code handle
    p0 p1 p2) hm = penHead lv p hm := head_congr (by simp) hm
theorem logFault_phc (p : Pkg) (code source p0 p1 p2 : Nat) (status : Nat) (cs : List Nat)  (hm : Nat) : penHead lv (logFault p
    code source p0 p1 p2 status cs) hm = penHead lv p hm := head_congr (by simp) hm
theorem logPromptInvalid_phc (p : Pkg) (e i : Nat)  (hm : Nat) : penHead lv (logPromptInvalid p e i) hm = penHead lv p hm :=
    head_congr (by simp) hm
theorem markSeq_phc (p : Pkg) (h : Hdr) (status : Nat) (old : Bytes)  (hm : Nat) : penHead lv (markSeq p h status old) hm =
    penHead lv p hm := head_congr (by simp) hm
theorem mgtDone_phc (p : Pkg) (c : PendCmd) (body : Bytes)  (hm : Nat) : penHead lv (mgtDone p c body) hm = penHead lv p hm :=
    head_congr (by simp) hm
theorem mgtRefuse_phc (p : Pkg) (c : PendCmd) (status : Nat) (body : Bytes)  (hm : Nat) : penHead lv (mgtRefuse p c status body)
    hm = penHead lv p hm := head_congr (by simp) hm
theorem modArr_phc (p : Pkg) (n : Nat) (f : Arr → Arr)  (hm : Nat) : penHead lv (modArr p n f) hm = penHead lv p hm :=
    head_congr (by simp) hm
theorem modBind_phc (p : Pkg) (c : Nat) (f : HBind → HBind)  (hm : Nat) : penHead lv (modBind p c f) hm = penHead lv p hm :=
    head_congr (by simp) hm
theorem modCtx_phc (p : Pkg) (n : Nat) (f : Ctx → Ctx)  (hm : Nat) : penHead lv (modCtx p n f) hm = penHead lv p hm :=
    head_congr (by simp) hm
theorem modData_phc (p : Pkg) (a : Nat) (f : ArrData → ArrData)  (hm : Nat) : penHead lv (modData p a f) hm = penHead lv p hm :=
    head_congr (by simp) hm
theorem modFab_phc (p : Pkg) (f : Fab → Fab)  (hm : Nat) : penHead lv (modFab p f) hm = penHead lv p hm := head_congr (by simp) hm
theorem modHcore_phc (p : Pkg) (k : Nat) (f : HCore → HCore)  (hm : Nat) : penHead lv (modHcore p k f) hm = penHead lv p hm :=
    head_congr (by simp) hm
theorem modHart_phc (p : Pkg) (k : Nat) (f : Hart → Hart) (hm : Nat) : penHead lv (modHart p k f) hm = penHead lv p hm := rfl
theorem modLsh_phc (p : Pkg) (f : Lsh → Lsh)  (hm : Nat) : penHead lv (modLsh p f) hm = penHead lv p hm := head_congr (by simp) hm
theorem modMgt_phc (p : Pkg) (f : Mgt → Mgt)  (hm : Nat) : penHead lv (modMgt p f) hm = penHead lv p hm := head_congr (by simp) hm
theorem modReq_phc (p : Pkg) (n : Nat) (f : Req → Req)  (hm : Nat) : penHead lv (modReq p n f) hm = penHead lv p hm :=
    head_congr (by simp) hm
theorem modSegData_phc (p : Pkg) (n seg : Nat) (f : ArrData → ArrData)  (hm : Nat) : penHead lv (modSegData p n seg f) hm =
    penHead lv p hm := head_congr (by simp) hm
theorem modSetRuns_phc (p : Pkg) (n : Nat) (ok : SegRun → Bool) (f : SegRun → SegRun) (g : SegRun → ArrData → ArrData)  (hm : Nat) :
    penHead lv (modSetRuns p n ok f g) hm = penHead lv p hm := head_congr (by simp) hm
theorem nextFree_phc (p : Pkg)  (hm : Nat) : penHead lv (nextFree p) hm = penHead lv p hm := head_congr (by simp) hm
theorem noteDegenerate_phc (p : Pkg) (e k : Nat)  (hm : Nat) : penHead lv (noteDegenerate p e k) hm = penHead lv p hm :=
    head_congr (by simp) hm
theorem noteDenied_phc (p : Pkg) (status : Nat)  (hm : Nat) : penHead lv (noteDenied p status) hm = penHead lv p hm :=
    head_congr (by simp) hm
theorem noteMemberLost_phc (p : Pkg) (n ended : Nat)  (hm : Nat) : penHead lv (noteMemberLost p n ended) hm = penHead lv p hm :=
    head_congr (by simp) hm
theorem noteNotAllowed_phc (p : Pkg) (fn off size : Nat)  (hm : Nat) : penHead lv (noteNotAllowed p fn off size) hm = penHead lv
    p hm := head_congr (by simp) hm
theorem pushCq_phc (p : Pkg) (c : Nat) (b : Bytes) (irq : Bool)  (hm : Nat) : penHead lv (pushCq p c b irq) hm = penHead lv p hm
    := head_congr (by simp) hm
theorem pushTok_phc (p : Pkg) (c : Nat) (b : Bytes)  (hm : Nat) : penHead lv (pushTok p c b) hm = penHead lv p hm := head_congr
    (by simp) hm
theorem pushEnd_phc (p : Pkg) (c : Nat) (b : Bytes) (hm : Nat) : penHead lv (pushEnd p c b) hm = penHead lv p hm := head_congr
    (by simp) hm
theorem raiseSeq_phc (p : Pkg) (path : Path) (msg : Bytes)  (hm : Nat) : penHead lv (raiseSeq p path msg) hm = penHead lv p hm
    := head_congr (by simp) hm
theorem reply_phc (p : Pkg) (h : Hdr) (status : Nat) (data : Bytes)  (hm : Nat) : penHead lv (reply p h status data) hm =
    penHead lv p hm := head_congr (by simp) hm
theorem send_phc (p : Pkg) (o : Out)  (hm : Nat) : penHead lv (send p o) hm = penHead lv p hm := head_congr (by simp) hm
theorem setResult_phc (p : Pkg) (c st : Nat)  (hm : Nat) : penHead lv (setResult p c st) hm = penHead lv p hm := head_congr (by
    simp) hm
theorem startReturn_phc (p : Pkg) (a : Nat)  (hm : Nat) : penHead lv (startReturn p a) hm = penHead lv p hm := head_congr (by
    simp) hm
theorem takeMeasure_phc (p : Pkg) (m : Measure)  (hm : Nat) : penHead lv (takeMeasure p m) hm = penHead lv p hm := head_congr
    (by simp) hm
theorem takeTokSlot_phc (p : Pkg) (e : Nat)  (hm : Nat) : penHead lv (takeTokSlot p e) hm = penHead lv p hm := head_congr (by
    simp) hm
theorem whileDisabled_phc (p : Pkg) (fn c off size : Nat) (f : Ctx → Ctx)  (hm : Nat) : penHead lv (whileDisabled p fn c off
    size f) hm = penHead lv p hm := head_congr (by simp) hm
theorem wordDone_phc (p : Pkg) (a : Nat)  (hm : Nat) : penHead lv (wordDone p a) hm = penHead lv p hm := head_congr (by simp) hm
theorem fetchFirst_phc (p : Pkg) (r : Nat)  (hm : Nat) : penHead lv (fetchFirst p r) hm = penHead lv p hm := head_congr (by simp) hm
theorem completeTxn_phc (p : Pkg) (t : Txn) (status : Nat) (old : Bytes)  (hm : Nat) : penHead lv (completeTxn p t status old) hm =
    penHead lv p hm := head_congr (by simp) hm
theorem restartRuns_head (p : Pkg) (n : Nat) (ok : SegRun → Bool) (layerOf : SegRun → Nat) (hm : Nat) :
    penHead lv (restartRuns p n ok layerOf) hm = penHead lv p hm := by
  unfold restartRuns
  refine Eq.trans (modStep_head _ _ _ hm ?_ ?_ ?_ ?_) (modSetRuns_phc _ _ _ _ _ hm) <;> intro _ <;> rfl
theorem moveWaiting_phc (p : Pkg) (n g : Nat) (hm : Nat) : penHead lv (moveWaiting p n g) hm = penHead lv p hm := by
  have h (ls : List Nat) : ∀ t : Step, stepKey (ls.foldl (fun t l => inputAgain
      { t with summary := tset {} t.summary l { ({} : Summary) with kind := 2 } } l) t) = stepKey t := by
    induction ls with
    | nil => intro t; rfl
    | cons l ls ih => intro t; exact ih _
  have h1 (ls : List Nat) (t : Step) := Prod.ext_iff.mp (h ls t)
  unfold moveWaiting
  refine (restartRuns_head _ _ _ _ hm).trans (modPen_head _ _ _ _ fun x => ?_)
  cases hx : x.step <;> simp [headOf, hx, h]
theorem newCount_head (p : Pkg) (n : Nat) (hm : Nat) : penHead lv (newCount p n) hm = penHead lv p hm := modPen_head _ _ _ _ fun _ => rfl
theorem setEpoch_head (p : Pkg) (mgr new : Nat) (hm : Nat) : penHead lv (setEpoch p mgr new) hm = penHead lv p hm := by
  unfold setEpoch
  dsimp only
  refine (log_phc _ _ _ _ _ _ hm).trans ((forAll_head _ _ _ _ fun q n => newCount_head q n hm).trans
    ((forAll_head _ _ _ _ fun q c => logEvent_phc _ _ _ _ _ _ _ _ hm).trans ?_))
  exact Eq.trans (head_congr rfl hm) ((forAll_head _ _ _ _ fun q t => completeTxn_phc _ _ _ _ hm).trans (head_congr (by simp) hm))
theorem bufPut_head (p : Pkg) (n k off : Nat) (d : Bytes) (base : Nat → Int) (hm : Nat) : penHead lv (bufPut p n k off d base)
    hm = penHead lv p hm := by
  unfold bufPut
  repeat' (first
      | rfl
      | rw [modPen_head _ _ _ _ (fun _ => rfl)]
      | rw [modPen_head _ _ _ _ (fun _ => by first | rfl | (split <;> rfl) | (dsimp only; split <;> rfl) | (repeat' split) <;>
          rfl)]
      | (simp only [forAll_head, ite_head, modPool_head, modStep_head]; done)
      | simp only [forAll_head, ite_head, modPool_head, modStep_head]
      | split
      | (refine Eq.trans (forAll_head _ _ _ _ ?_) ?_; intro q x; dsimp only)
      | (refine Eq.trans (foldl_head _ _ _ _ ?_) ?_; intro q x; dsimp only)
      | (refine Eq.trans (foldlP_head _ _ _ _ ?_) ?_; intro q x; dsimp only)
      | refine Eq.trans (head_mk _ _ _ _ _ _ _ _ _ _ _ _ _ _ _ _ _ _ _ _ _ _ _) ?_
      | assumption)
theorem billPens_head (p : Pkg) (rest trot : Nat) (real : List (Nat × Nat)) (hm : Nat) : penHead lv (billPens p rest trot real)
    hm = penHead lv p hm := by
  simp [billPens, modPen_head, head_mk, headOf, stepKey, forAll_head, foldl_head, foldlP_head, ite_head, modPool_head,
      modStep_head, billCtx_phc, modLsh_phc]
theorem billTick_head (p : Pkg) (m : Measure) (hm : Nat) : penHead lv (billTick p m) hm = penHead lv p hm := by
  simp [billTick, modPen_head, head_mk, headOf, stepKey, forAll_head, foldl_head, foldlP_head, ite_head, modPool_head,
      modStep_head, billPens_head, billHints_phc, billHounds_phc, modLsh_phc]
theorem markSlew_phc (p : Pkg) (hm : Nat) : penHead lv (markSlew p) hm = penHead lv p hm := head_congr (by simp) hm
theorem leashTick_head (p : Pkg) (m : Measure) (hm : Nat) : penHead lv (leashTick p m) hm = penHead lv p hm := by
  simp [leashTick, modPen_head, head_mk, headOf, stepKey, forAll_head, foldl_head, foldlP_head, ite_head, modPool_head,
      modStep_head, billTick_head, clipHints_phc, modLsh_phc, takeMeasure_phc, actLeash_phc, markSlew_phc]
theorem stepRelease_head (p : Pkg) (n : Nat) (hm : Nat) : penHead false (stepRelease p n) hm = penHead false p hm := by
  unfold stepRelease
  refine Eq.trans (modPen_head _ _ _ _ ?_) (modPen_head _ _ _ _ fun _ => rfl)
  intro _; rfl
theorem retain_head (p : Pkg) (n layer : Nat) (us : List (Option (Nat × Nat) × Bytes × Int)) (hm : Nat) : penHead lv (retain p n
    layer us) hm = penHead lv p hm := modStep_head _ _ _ hm (fun _ => rfl) (fun _ => rfl) (fun _ => rfl) fun _ => rfl
theorem storedOver_head (p : Pkg) (n layer buf first count : Nat) (hm : Nat) : penHead lv (storedOver p n layer buf first count) hm =
    penHead lv p hm := modStep_head _ _ _ hm (fun _ => rfl) (fun _ => rfl) (fun _ => rfl) fun _ => rfl
theorem countDelivered_head (p : Pkg) (n first lo hi : Nat) (hm : Nat) : penHead lv (countDelivered p n first lo hi) hm =
    penHead lv p hm := modPen_head _ _ _ _ fun _ => rfl
theorem takeUnits_head (p : Pkg) (a c count : Nat) (hm : Nat) : ∀ x q, takeUnits p a c count = some (x, q) → penHead lv q hm =
    penHead lv p hm := by
  intro x q h
  unfold takeUnits at h
  dsimp only at h
  split at h
  · split at h
    · simp only [Option.some.injEq, Prod.mk.injEq] at h
      obtain ⟨-, rfl⟩ := h
      exact (modArr_phc _ _ _ hm).trans ((countDelivered_head _ _ _ _ _ hm).trans (retain_head _ _ _ _ hm))
    · cases h
  · cases h
theorem opdFrom_head (p : Pkg) (a : Nat) (d : ArrData) (rows cols : Nat) (o : OpdSpec) (hm : Nat) : ∀ x q, opdFrom p a d rows cols
    o = some (x, q) → penHead lv q hm = penHead lv p hm := by
  intro x q h
  unfold opdFrom at h
  split at h
  · cases h; rfl
  · split at h
    · rename_i hu
      cases h
      exact takeUnits_head _ _ _ _ hm _ _ hu
    · cases h
theorem fuseFrom_head (p : Pkg) (a : Nat) (d : ArrData) (rows cols : Nat) (values : Bool) (o : OpdSpec) (hm : Nat) : ∀ x y q, fuseFrom
    p a d rows cols values o = some (x, y, q) → penHead lv q hm = penHead lv p hm := by
  intro x y q h
  unfold fuseFrom at h
  extract_lets g at h
  split at h
  · simp only [Option.some.injEq, Prod.mk.injEq] at h
    obtain ⟨-, -, rfl⟩ := h
    exact takeGather_phc _ _ _ _ _ hm
  · split at h
    · rename_i hu
      simp only [Option.some.injEq, Prod.mk.injEq] at h
      obtain ⟨-, -, rfl⟩ := h
      exact opdFrom_head _ _ _ _ _ _ hm _ _ hu
    · cases h
theorem growKeys_head (p : Pkg) (e : Nat) (keys : List Nat) (hm : Nat) : penHead lv (growKeys p e keys) hm = penHead lv p hm := by
  unfold growKeys
  refine forAll_head _ _ _ _ fun q k => ?_
  (repeat' split) <;> first | rfl | exact (modReq_phc _ _ _ hm).trans (modPool_head _ _ _ hm)
theorem growBlocks_head (p : Pkg) (e : Nat) (hm : Nat) : penHead lv (growBlocks p e) hm = penHead lv p hm := growKeys_head _ _ _ hm
theorem sendMasses_head (p : Pkg) (n : Nat) (g : Option Gathered) (masses : List (Nat × Nat)) (hm : Nat) : penHead lv (sendMasses p n
    g masses) hm = penHead lv p hm := by
  unfold sendMasses
  split
  · dsimp only
    refine Eq.trans (modStep_head _ _ _ hm ?_ ?_ ?_ ?_) (growKeys_head _ _ _ hm) <;> intro _ <;> rfl
  · rfl
theorem fuseWrite_head (p q : Pkg) (a : Nat) (gb : Option Gathered) (f : Fuse) (hm : Nat) : penHead lv (fuseWrite p q a gb f) hm =
    penHead lv q hm :=
  (wordDone_phc _ _ hm).trans ((sendMasses_head _ _ _ _ hm).trans ((nextFree_phc _ hm).trans (modArr_phc _ _ _ hm)))
theorem readBuffer_head (p : Pkg) (a b off count : Nat) (hm : Nat) : penHead lv (readBuffer p a b off count).2 hm = penHead lv p hm :=
  retain_head _ _ _ _ hm
theorem storeOwn_head (p : Pkg) (a w len : Nat) (hm : Nat) : penHead lv (storeOwn p a w len) hm = penHead lv p hm := by
  unfold storeOwn
  dsimp only
  split
  · exact storedOver_head _ _ _ _ _ _ hm
  · rfl
theorem mmaOp_head (p : Pkg) (a : Nat) (hm : Nat) : ∀ q, mmaOp p a = some q → penHead lv q hm = penHead lv p hm := by
  intro q h
  unfold mmaOp at h
  extract_lets n w d k at h
  split at h
  · cases h
  · rename_i h1
    split at h
    · cases h
    · rename_i h2
      obtain rfl := Option.some.inj h
      exact (wordDone_phc _ _ hm).trans ((modData_phc _ _ _ hm).trans
        ((opdFrom_head _ _ _ _ _ _ hm _ _ h2).trans (opdFrom_head _ _ _ _ _ _ hm _ _ h1)))
theorem fuse2Op_head (p : Pkg) (a : Nat) (hm : Nat) : ∀ q, fuse2Op p a = some q → penHead lv q hm = penHead lv p hm := by
  intro q h
  unfold fuse2Op at h
  extract_lets w d pb n1 k1 at h
  split at h
  · cases h
  · rename_i h1
    split at h
    · cases h
    · rename_i h2
      extract_lets keys at h
      split at h
      · cases h
      · rename_i h3
        obtain rfl := Option.some.inj h
        exact (fuseWrite_head _ _ _ _ _ hm).trans ((fuseFrom_head _ _ _ _ _ _ _ hm _ _ _ h3).trans
          ((fuseFrom_head _ _ _ _ _ _ _ hm _ _ _ h2).trans (opdFrom_head _ _ _ _ _ _ hm _ _ h1)))
theorem loadOp_head (p : Pkg) (a : Nat) (hm : Nat) : ∀ q, loadOp p a = some q → penHead lv q hm = penHead lv p hm := by
  intro q h
  unfold loadOp at h
  extract_lets w count dst units at h
  have hu : ∀ us p1, units = some (us, p1) → penHead lv p1 hm = penHead lv p hm := by
    intro us p1 hx
    simp only [units] at hx
    split at hx
    · obtain h2 := Option.some.inj hx
      have := readBuffer_head (lv := lv) p a (wbits w 0 19 8) (wbits w 4 31 0) count hm
      rw [h2] at this
      exact this
    · exact takeUnits_head _ _ _ _ hm _ _ hx
  clear_value units
  split at h
  · cases h
  · obtain rfl := Option.some.inj h
    exact (wordDone_phc _ _ hm).trans ((modData_phc _ _ _ hm).trans (hu _ _ rfl))
theorem storeAt_head (p : Pkg) (a w off : Nat) (b : Bytes) (base : Int) (hm : Nat) : penHead lv (storeAt p a w off b base) hm =
    penHead lv p hm := by
  simp [storeAt, modPen_head, head_mk, headOf, stepKey, forAll_head, foldl_head, foldlP_head, ite_head, modPool_head,
      modStep_head, bufPut_head, modData_phc]
theorem countSat_head (p : Pkg) (n k : Nat) (hm : Nat) : penHead lv (countSat p n k) hm = penHead lv p hm := by
  simp [countSat, modPen_head, head_mk, headOf, stepKey, forAll_head, foldl_head, foldlP_head, ite_head, modPool_head,
      modStep_head, modPool_head]
theorem framePut_head (p : Pkg) (n f off : Nat) (b : Bytes) (hm : Nat) : penHead lv (framePut p n f off b) hm = penHead lv p hm
    := by
  simp [framePut, modPen_head, head_mk, headOf, stepKey, forAll_head, foldl_head, foldlP_head, ite_head, modPool_head,
      modStep_head, modPool_head]
theorem putK_head (p : Pkg) (i : Image) (n f : Nat) (h : HeadAt) (panel tok : Nat) (vs : List Val) (hm : Nat) : penHead lv (putK
    p i n f h panel tok vs) hm = penHead lv p hm := by
  simp [putK, modPen_head, head_mk, headOf, stepKey, forAll_head, foldl_head, foldlP_head, ite_head, modPool_head, modStep_head,
      countSat_head, framePut_head]
theorem putV_head (p : Pkg) (i : Image) (e n f : Nat) (h : HeadAt) (tok : Nat) (vs : List Val) (hm : Nat) : penHead lv (putV p i
    e n f h tok vs) hm = penHead lv p hm := by
  simp [putV, modPen_head, head_mk, headOf, stepKey, forAll_head, foldl_head, foldlP_head, ite_head, modPool_head, modStep_head,
      countSat_head, framePut_head, modReq_phc]
theorem kvRow_head (p : Pkg) (n off : Nat) (vs : List Val) (hm : Nat) : penHead lv (kvRow p n off vs) hm = penHead lv p
    hm := by
  unfold kvRow; dsimp only; (repeat' split) <;> simp_all [modPen_head, head_mk, headOf, stepKey, forAll_head, foldl_head,
      foldlP_head, ite_head, modPool_head, modStep_head, putK_head, putV_head]
theorem storeRow_head (p : Pkg) (a w i : Nat) (r : LRec) (x : Plane) (d : ArrData) (hm : Nat) : penHead lv (storeRow p a w i r x
    d).1 hm = penHead lv p hm := by
  unfold storeRow; (repeat' split) <;> simp_all [modPen_head, head_mk, headOf, stepKey, forAll_head, foldl_head, foldlP_head,
      ite_head, modPool_head, modStep_head, kvRow_head, storeAt_head]
theorem storeOp_head (p : Pkg) (a : Nat) (hm : Nat) : penHead lv (storeOp p a) hm = penHead lv p hm := by
  simp [storeOp, modPen_head, head_mk, headOf, stepKey, forAll_head, foldl_head, foldlP_head, ite_head, modPool_head,
      modStep_head, modStep_head, storeAt_head, storeOwn_head, storeRow_head, modData_phc, wordDone_phc]
theorem storeRowOp_head (p : Pkg) (a : Nat) (hm : Nat) : penHead lv (storeRowOp p a) hm = penHead lv p hm := by
  simp [storeRowOp, modPen_head, head_mk, headOf, stepKey, forAll_head, foldl_head, foldlP_head, ite_head, modPool_head,
      modStep_head, storeAt_head, storeOwn_head, wordDone_phc]
theorem regWrite_head (p : Pkg) (fn off : Nat) (f : Pkg → Pkg) (hm : Nat) (h_f : ∀ w0, penHead lv (f w0) hm = penHead lv w0 hm)
    : penHead lv (regWrite p fn off f) hm = penHead lv p hm := by
  simp [regWrite, modPen_head, head_mk, headOf, stepKey, forAll_head, foldl_head, foldlP_head, ite_head, modPool_head,
      modStep_head, dropHeld_phc, h_f]
theorem pfWrite_head (p : Pkg) (fn off : Nat) (f : Pkg → Pkg) (hm : Nat) (h_f : ∀ w0, penHead lv (f w0) hm = penHead lv w0 hm) :
    penHead lv (pfWrite p fn off f) hm = penHead lv p hm := by
  simp [pfWrite, modPen_head, head_mk, headOf, stepKey, forAll_head, foldl_head, foldlP_head, ite_head, modPool_head,
      modStep_head, regWrite_head, h_f]
theorem copyAdvance_head (p : Pkg) (n : Nat) (k : Copy) (hm : Nat) : penHead lv (copyAdvance p n k) hm = penHead lv p hm := by
  simp [copyAdvance, modPen_head, head_mk, headOf, stepKey, forAll_head, foldl_head, foldlP_head, ite_head, modPool_head,
      modStep_head, modPool_head]
theorem landOut_head (p : Pkg) (n : Nat) (k : Copy) (key : Nat) (hm : Nat) : penHead lv (landOut p n k key) hm = penHead lv p hm := by
  unfold landOut; dsimp only; (repeat' split) <;> (try rfl) <;> (try exact noteKennelFull_phc _ _ _ hm)
  refine Eq.trans (head_congr rfl hm) ((forAll_head _ _ _ _ fun q e => ?_).trans (modCtx_phc _ _ _ hm))
  exact (modReq_phc _ _ _ hm).trans (modPool_head _ _ _ hm)
theorem frameBack_head (p : Pkg) (k : Copy) (key refs : Nat) (hm : Nat) : ∀ f q, frameBack p k key refs = some (f, q) →
    penHead lv q hm = penHead lv p hm := by
  unfold frameBack; dsimp only; split
  · intro f q h; cases h
  · intro f q h
    simp only [Option.some.injEq, Prod.mk.injEq] at h
    obtain ⟨-, rfl⟩ := h
    exact (modReq_phc _ _ _ hm).trans (modPool_head _ _ _ hm)
theorem landIn_head (p : Pkg) (n : Nat) (k : Copy) (key : Nat) (b : Bytes) (hm : Nat) : penHead lv (landIn p n k key b) hm =
    penHead lv p hm := by
  unfold landIn
  dsimp only
  split
  · split
    · rfl
    · rename_i f q hq
      refine Eq.trans (head_congr rfl hm) ((forAll_head _ _ _ _ fun r e => (growBlocks_head _ _ hm).trans (modReq_phc _ _ _ hm)).trans ?_)
      exact (modCtx_phc _ _ _ hm).trans ((framePut_head _ _ _ _ _ hm).trans (frameBack_head p k key _ hm f q hq))
  · rfl
theorem applyAppend_head (p : Pkg) (e : Nat) (t : TokRead) (ts : List Word32) (hm : Nat) : penHead lv (applyAppend p e t ts) hm
    = penHead lv p hm := by
  unfold applyAppend; dsimp only; (repeat' split) <;> simp_all [modPen_head, head_mk, headOf, stepKey, forAll_head, foldl_head,
      foldlP_head, ite_head, modPool_head, modStep_head, growBlocks_head, modPool_head, answerHeld_phc, logPromptInvalid_phc,
      modReq_phc]
theorem startCopy_head (p : Pkg) (e why : Nat) (keys : List Nat) (hm : Nat) : penHead lv (startCopy p e why keys) hm = penHead
    lv p hm := by
  simp [startCopy, modPen_head, head_mk, headOf, stepKey, forAll_head, foldl_head, foldlP_head, ite_head, modPool_head,
      modStep_head, modPool_head]
theorem copyOut_head (p : Pkg) (e why : Nat) (hm : Nat) : penHead lv (copyOut p e why) hm = penHead lv p hm := by
  simp [copyOut, modPen_head, head_mk, headOf, stepKey, forAll_head, foldl_head, foldlP_head, ite_head, modPool_head,
      modStep_head, startCopy_head, noteKennelFull_phc, modReq_phc]
theorem stopCopies_head (p : Pkg) (e : Nat) (ws : List Nat) (hm : Nat) : penHead lv (stopCopies p e ws) hm = penHead lv p hm :=
  modPool_head _ _ _ hm
theorem pauseReq_head (p : Pkg) (e prev until_ : Nat) (hm : Nat) : penHead lv (pauseReq p e prev until_) hm = penHead lv p hm :=
    by
  simp [pauseReq, modPen_head, head_mk, headOf, stepKey, forAll_head, foldl_head, foldlP_head, ite_head, modPool_head,
      modStep_head, copyOut_head, stopCopies_head, modReq_phc]
theorem applyPause_head (p : Pkg) (e : Nat) (d : Desc) (ttl : Nat) (hm : Nat) : penHead lv (applyPause p e d ttl) hm = penHead
    lv p hm := by
  simp [applyPause, modPen_head, head_mk, headOf, stepKey, forAll_head, foldl_head, foldlP_head, ite_head, modPool_head,
      modStep_head, pauseReq_head, answerHeld_phc, closeResume_phc, modReq_phc]
theorem applyHeld_head (p : Pkg) (e : Nat) (hm : Nat) : penHead lv (applyHeld p e) hm = penHead lv p hm := by
  unfold applyHeld; dsimp only; (repeat' split) <;> (try simp only [applyAppend_head, applyPause_head, id_eq]) <;>
    (repeat' (first
      | refine Eq.trans (forAll_head _ _ _ _ ?_) ?_
      | refine Eq.trans (foldl_head _ _ _ _ ?_) ?_
      | refine Eq.trans (foldlP_head _ _ _ _ ?_) ?_)) <;>
    (try intro q x) <;> (try dsimp only) <;> (repeat' split) <;>
    (first | rfl | simp_all [modPen_head, head_mk, headOf, stepKey, forAll_head, foldl_head, foldlP_head, ite_head,
        modPool_head, modStep_head, applyAppend_head, applyPause_head])
theorem leaveSwapped_head (p : Pkg) (e : Nat) (hm : Nat) : penHead lv (leaveSwapped p e) hm = penHead lv p hm := by
  unfold leaveSwapped
  split
  · exact (applyHeld_head _ _ hm).trans ((closeResume_phc _ _ _ hm).trans (modReq_phc _ _ _ hm))
  · rfl
theorem pagesBack_phc (p : Pkg) (e : Nat) (hm : Nat) : penHead lv (pagesBack p e) hm = penHead lv p hm := head_congr (by simp) hm
theorem leaveBack_head (p : Pkg) (es : List Nat) (hm : Nat) : penHead lv (leaveBack p es) hm = penHead lv p hm :=
  forAll_head _ _ _ hm fun q x => leaveSwapped_head q x hm
theorem contextIn_head (p : Pkg) (n c : Nat) (hm : Nat) : penHead lv (contextIn p n c) hm = penHead lv p hm :=
  (forAll_head _ _ _ hm fun q x => pagesBack_phc q x hm).trans
    ((logEvent_phc _ _ _ _ _ _ _ _ hm).trans ((modCtx_phc _ _ _ hm).trans (modPool_head _ _ _ hm)))
theorem judgeSwap_head (p : Pkg) (n : Nat) (hm : Nat) : penHead lv (judgeSwap p n) hm = penHead lv p hm := by
  unfold judgeSwap; (repeat' split) <;> simp_all [modPen_head, head_mk, headOf, stepKey, forAll_head, foldl_head, foldlP_head,
      ite_head, modPool_head, modStep_head, contextIn_head, modPool_head]
theorem copyEnded_head (p : Pkg) (k : Copy) (hm : Nat) : penHead lv (copyEnded p k) hm = penHead lv p hm := by
  simp [copyEnded, modPen_head, head_mk, headOf, stepKey, forAll_head, foldl_head, foldlP_head, ite_head, modPool_head, modStep_head, judgeSwap_head, pagesBack_phc, closeResume_phc]
theorem faultCtx_head (p : Pkg) (c status code : Nat) (hm : Nat) : penHead lv (faultCtx p c status code) hm = penHead lv p hm :=
    by
  simp [faultCtx, modPen_head, head_mk, headOf, stepKey, forAll_head, foldl_head, foldlP_head, ite_head, modPool_head,
      modStep_head, stopCopies_head, modCtx_phc]
theorem hostError_head (p : Pkg) (c code p0 p1 p2 : Nat) (hm : Nat) : penHead lv (hostError p c code p0 p1 p2) hm = penHead lv p
    hm := by
  simp [hostError, modPen_head, head_mk, headOf, stepKey, forAll_head, foldl_head, foldlP_head, ite_head, modPool_head,
      modStep_head, faultCtx_head, log_phc]
theorem copyLands_head (p : Pkg) (n : Nat) (data : Option Bytes) (hm : Nat) : penHead lv (copyLands p n data) hm = penHead lv p
    hm := by
  unfold copyLands; dsimp only; (repeat' split) <;> simp_all [modPen_head, head_mk, headOf, stepKey, forAll_head, foldl_head,
      foldlP_head, ite_head, modPool_head, modStep_head, copyAdvance_head, copyEnded_head, hostError_head, landIn_head,
      landOut_head, readBack_phc]
theorem beginReturn_head (p : Pkg) (e : Nat) (hm : Nat) : penHead lv (beginReturn p e) hm = penHead lv p hm := by
  simp [beginReturn, modPen_head, head_mk, headOf, stepKey, forAll_head, foldl_head, foldlP_head, ite_head, modPool_head,
      modStep_head, leaveSwapped_head, startCopy_head]
theorem preempt_head (p : Pkg) (v : Nat) (hm : Nat) : penHead lv (preempt p v) hm = penHead lv p hm := by
  simp [preempt, modPen_head, head_mk, headOf, stepKey, forAll_head, foldl_head, foldlP_head, ite_head, modPool_head,
      modStep_head, copyOut_head, modPool_head, stopCopies_head, logEvent_phc, modReq_phc]
theorem preemptFor_head (p : Pkg) (e short : Nat) (placed : List Nat) (hm : Nat) : penHead lv (preemptFor p e short placed) hm =
    penHead lv p hm := by
  unfold preemptFor
  refine (foldlP_head _ _ _ _ fun a y => ?_)
  split
  · rfl
  · dsimp only; rw [preempt_head]
theorem returnShort_head (p : Pkg) (e : Nat) (hm : Nat) : penHead lv (returnShort p e) hm = penHead lv p hm := by
  unfold returnShort
  dsimp only
  split
  · exact preemptFor_head _ _ _ _ hm
  · rfl
theorem returnsOf_head (p : Pkg) (n : Nat) (hm : Nat) : penHead lv (returnsOf p n) hm = penHead lv p hm := by
  simp [returnsOf, modPen_head, head_mk, headOf, stepKey, forAll_head, foldl_head, foldlP_head, ite_head, modPool_head,
      modStep_head, beginReturn_head, returnShort_head, leaveBack_head]
theorem swapIn_head (p : Pkg) (n c : Nat) (hm : Nat) : penHead lv (swapIn p n c) hm = penHead lv p hm := by
  simp [swapIn, modPen_head, head_mk, headOf, stepKey, forAll_head, foldl_head, foldlP_head, ite_head, modPool_head,
      modStep_head, judgeSwap_head, modPool_head, startCopy_head]
theorem swapOut_head (p : Pkg) (n c : Nat) (hm : Nat) : penHead lv (swapOut p n c) hm = penHead lv p hm := by
  simp [swapOut, modPen_head, head_mk, headOf, stepKey, forAll_head, foldl_head, foldlP_head, ite_head, modPool_head,
      modStep_head, judgeSwap_head, modPool_head, startCopy_head, stopCopies_head, logEvent_phc, modCtx_phc, modReq_phc]
theorem contextSwapOp_head (p : Pkg) (n : Nat) (hm : Nat) : penHead lv (contextSwapOp p n) hm = penHead lv p hm := by
  unfold contextSwapOp
  dsimp only
  refine Eq.trans ?_ (judgeSwap_head p n hm)
  generalize judgeSwap p n = q
  split
  · rfl
  · split
    · rfl
    · split
      · exact swapIn_head _ _ _ hm
      · split
        · exact swapOut_head _ _ _ hm
        · rfl
theorem endBinding_head (p : Pkg) (c : Nat) (hm : Nat) : penHead lv (endBinding p c) hm = penHead lv p hm := by
  simp [endBinding, modPen_head, head_mk, headOf, stepKey, forAll_head, foldl_head, foldlP_head, ite_head, modPool_head,
      modStep_head, modPool_head, giveBack_phc, modBind_phc, modFab_phc, modHcore_phc, modHart_phc, modCtx_phc]
theorem releasePages_head (p : Pkg) (e : Nat) (hm : Nat) : penHead lv (releasePages p e) hm = penHead lv p hm := by
  unfold releasePages; dsimp only; (repeat' split) <;> (try simp only [modPool_head, stopCopies_head, modCtx_phc, modReq_phc,
      id_eq]) <;>
    (repeat' (first
      | refine Eq.trans (forAll_head _ _ _ _ ?_) ?_
      | refine Eq.trans (foldl_head _ _ _ _ ?_) ?_
      | refine Eq.trans (foldlP_head _ _ _ _ ?_) ?_)) <;>
    (try intro q x) <;> (try dsimp only) <;> (repeat' split) <;>
    (first | rfl | simp_all [modPen_head, head_mk, headOf, stepKey, forAll_head, foldl_head, foldlP_head, ite_head,
        modPool_head, modStep_head, modPool_head, stopCopies_head, modCtx_phc, modReq_phc])
theorem closeReq_head (p : Pkg) (e : Nat) (hm : Nat) : penHead lv (closeReq p e) hm = penHead lv p hm := by
  simp [closeReq, modPen_head, head_mk, headOf, stepKey, forAll_head, foldl_head, foldlP_head, ite_head, modPool_head,
      modStep_head, releasePages_head, answerReq_phc, freeEntry_phc, modBind_phc, pushCq_phc, pushTok_phc, pushEnd_phc]
theorem leaveStep_head (p : Pkg) (e : Nat) (hm : Nat) : penHead lv (leaveStep p e) hm = penHead lv p hm := by
  unfold leaveStep
  dsimp only
  refine Eq.trans (head_congr (p := dropTokSlot (modPen p (reqOf p e).pen _) e) rfl hm) ?_
  refine Eq.trans (dropTokSlot_phc _ _ hm) (modPen_head _ _ _ _ ?_)
  intro x; cases h : x.step <;> simp [headOf, stepKey, stepKey, h]
theorem refuseAdmit_head (p : Pkg) (e status : Nat) (hm : Nat) : penHead lv (refuseAdmit p e status) hm = penHead lv p hm := by
  simp [refuseAdmit, modPen_head, head_mk, headOf, stepKey, forAll_head, foldl_head, foldlP_head, ite_head, modPool_head,
      modStep_head, releasePages_head, answer_phc, freeEntry_phc, giveBack_phc]
theorem endReq_head (p : Pkg) (e status : Nat) (hm : Nat) : penHead lv (endReq p e status) hm = penHead lv p hm := by
  unfold endReq; (repeat' split) <;> simp_all [modPen_head, head_mk, headOf, stepKey, forAll_head, foldl_head, foldlP_head,
      ite_head, modPool_head, modStep_head, leaveStep_head, refuseAdmit_head, stopCopies_head, modReq_phc]
theorem resetReq_head (p : Pkg) (e : Nat) (hm : Nat) : penHead lv (resetReq p e) hm = penHead lv p hm := by
  simp [resetReq, modPen_head, head_mk, headOf, stepKey, forAll_head, foldl_head, foldlP_head, ite_head, modPool_head,
      modStep_head, closeReq_head, endReq_head, modReq_phc]
theorem endAuths_phc (p : Pkg) (hm : Nat) : penHead lv (endAuths p) hm = penHead lv p hm := head_congr (by simp) hm
theorem ctxResetOp_head (p : Pkg) (c : Nat) (hm : Nat) : penHead lv (ctxResetOp p c) hm = penHead lv p hm := by
  simp [ctxResetOp, modPen_head, head_mk, headOf, stepKey, forAll_head, foldl_head, foldlP_head, ite_head, modPool_head,
      modStep_head, endBinding_head, resetReq_head, endImprint_phc, modCtx_phc, endAuths_phc]
theorem ctxEnableBit_head (p : Pkg) (c : Nat) (on : Bool) (hm : Nat) : penHead lv (ctxEnableBit p c on) hm = penHead lv p hm := by
  simp [ctxEnableBit, modPen_head, head_mk, headOf, stepKey, forAll_head, foldl_head, foldlP_head, ite_head, modPool_head,
      modStep_head, ctxResetOp_head, enableCtx_phc, modCtx_phc]
theorem ctxCtrlWrite_head (p : Pkg) (fn c v : Nat) (hm : Nat) : penHead lv (ctxCtrlWrite p fn c v) hm = penHead lv p hm := by
  simp [ctxCtrlWrite, modPen_head, head_mk, headOf, stepKey, forAll_head, foldl_head, foldlP_head, ite_head, modPool_head,
      modStep_head, ctxEnableBit_head, modCtx_phc, noteNotAllowed_phc]
theorem ctxRegWrite_head (p : Pkg) (fn c off size v : Nat) (hm : Nat) : penHead lv (ctxRegWrite p fn c off size v) hm = penHead
    lv p hm := by
  unfold ctxRegWrite; (repeat' split) <;> simp_all [modPen_head, head_mk, headOf, stepKey, forAll_head, foldl_head, foldlP_head,
      ite_head, modPool_head, modStep_head, ctxCtrlWrite_head, ctxResetOp_head, irqModWrite_phc, modCtx_phc, whileDisabled_phc]
theorem ctxWrite_head (p : Pkg) (fn c off size v : Nat) (hm : Nat) : penHead lv (ctxWrite p fn c off size v) hm = penHead lv p
    hm := by
  simp [ctxWrite, modPen_head, head_mk, headOf, stepKey, forAll_head, foldl_head, foldlP_head, ite_head, modPool_head,
      modStep_head, ctxRegWrite_head, regWrite_head]
theorem functionReset_head (p : Pkg) (fn : Nat) (hm : Nat) : penHead lv (functionReset p fn) hm = penHead lv p hm := by
  simp [functionReset, modPen_head, head_mk, headOf, stepKey, forAll_head, foldl_head, foldlP_head, ite_head, modPool_head,
      modStep_head, ctxResetOp_head]
theorem setNumVfs_head (p : Pkg) (n : Nat) (hm : Nat) : penHead lv (setNumVfs p n) hm = penHead lv p hm := by
  simp [setNumVfs, modPen_head, head_mk, headOf, stepKey, forAll_head, foldl_head, foldlP_head, ite_head, modPool_head,
      modStep_head, ctxResetOp_head, modCtx_phc]
theorem resetDone_head (p : Pkg) (c : Nat) (failed : Option Nat) (hm : Nat) : penHead lv (resetDone p c failed) hm = penHead lv
    p hm := by
  unfold resetDone; (repeat' split) <;> simp_all [modPen_head, head_mk, headOf, stepKey, forAll_head, foldl_head, foldlP_head,
      ite_head, modPool_head, modStep_head, closeReq_head, hostError_head, log_phc, modCtx_phc, send_phc]
theorem sharePrefix_head (p : Pkg) (e : Nat) (hm : Nat) : penHead lv (sharePrefix p e) hm = penHead lv p hm := by
  unfold sharePrefix; dsimp only; (repeat' split) <;> (try simp only [modPool_head, startCopy_head, modReq_phc, id_eq]) <;>
    (repeat' (first
      | refine Eq.trans (forAll_head _ _ _ _ ?_) ?_
      | refine Eq.trans (foldl_head _ _ _ _ ?_) ?_
      | refine Eq.trans (foldlP_head _ _ _ _ ?_) ?_)) <;>
    (try intro q x) <;> (try dsimp only) <;> (repeat' split) <;>
    (first | rfl | simp_all [modPen_head, head_mk, headOf, stepKey, forAll_head, foldl_head, foldlP_head, ite_head,
        modPool_head, modStep_head, modPool_head, startCopy_head, modReq_phc])
theorem decideAdmit_head (p : Pkg) (e : Nat) (hm : Nat) : penHead lv (decideAdmit p e) hm = penHead lv p hm := by
  unfold decideAdmit; dsimp only; (repeat' split) <;> simp_all [modPen_head, head_mk, headOf, stepKey, forAll_head, foldl_head,
      foldlP_head, ite_head, modPool_head, modStep_head, growBlocks_head, modPool_head, refuseAdmit_head, sharePrefix_head,
      answer_phc, logDenied_phc, modReq_phc, noteDenied_phc, send_phc]
theorem admitOp_head (p : Pkg) (c : Nat) (d : Desc) (hm : Nat) : penHead lv (admitOp p c d) hm = penHead lv p hm := by
  unfold admitOp; (repeat' split) <;> simp_all [modPen_head, head_mk, headOf, stepKey, forAll_head, foldl_head, foldlP_head,
      ite_head, modPool_head, modStep_head, decideAdmit_head, answer_phc, beginDesc_phc, giveBack_phc, noteDenied_phc]
theorem byHandle_head (p : Pkg) (c : Nat) (d : Desc) (fields : List (Option Nat)) (f : Pkg → Nat → Pkg) (hm : Nat) (h_f : ∀ w0
    w1, penHead lv (f w0 w1) hm = penHead lv w0 hm) : penHead lv (byHandle p c d fields f) hm = penHead lv p hm := by
  unfold byHandle; dsimp only; (repeat' split) <;> simp_all [modPen_head, head_mk, headOf, stepKey, forAll_head, foldl_head,
      foldlP_head, ite_head, modPool_head, modStep_head, answer_phc, answerReq_phc, h_f]
theorem ended_head (p : Pkg) (e : Nat) (d : Desc) (f : Pkg → Pkg) (hm : Nat) (h_f : ∀ w0, penHead lv (f w0) hm = penHead lv w0
    hm) : penHead lv (ended p e d f) hm = penHead lv p hm := by
  simp [ended, modPen_head, head_mk, headOf, stepKey, forAll_head, foldl_head, foldlP_head, ite_head, modPool_head,
      modStep_head, answerReq_phc, h_f]
theorem cancelOp_head (p : Pkg) (c : Nat) (d : Desc) (hm : Nat) : penHead lv (cancelOp p c d) hm = penHead lv p hm := by
  simp [cancelOp, modPen_head, head_mk, headOf, stepKey, forAll_head, foldl_head, foldlP_head, ite_head, modPool_head,
      modStep_head, byHandle_head, endReq_head, answerReq_phc, holdDesc_phc, modReq_phc]
theorem pauseOp_head (p : Pkg) (c : Nat) (d : Desc) (hm : Nat) : penHead lv (pauseOp p c d) hm = penHead lv p hm := by
  simp [pauseOp, modPen_head, head_mk, headOf, stepKey, forAll_head, foldl_head, foldlP_head, ite_head, modPool_head,
      modStep_head, applyPause_head, byHandle_head, ended_head, holdDesc_phc, modReq_phc]
theorem resumeReq_head (p : Pkg) (c e : Nat) (d : Desc) (hm : Nat) : penHead lv (resumeReq p c e d) hm = penHead lv p hm := by
  unfold resumeReq; dsimp only; (repeat' split) <;> simp_all [modPen_head, head_mk, headOf, stepKey, forAll_head, foldl_head,
      foldlP_head, ite_head, modPool_head, modStep_head, returnShort_head, startCopy_head, stopCopies_head, answerReq_phc,
      beginDesc_phc, modReq_phc]
theorem resumeOp_head (p : Pkg) (c : Nat) (d : Desc) (hm : Nat) : penHead lv (resumeOp p c d) hm = penHead lv p hm := by
  simp [resumeOp, modPen_head, head_mk, headOf, stepKey, forAll_head, foldl_head, foldlP_head, ite_head, modPool_head,
      modStep_head, byHandle_head, ended_head, resumeReq_head, answerReq_phc]
theorem completeGen_head (p : Pkg) (n b : Nat) (hm : Nat) : penHead lv (completeGen p n b) hm = penHead lv p hm := by
  simp [completeGen, modPen_head, head_mk, headOf, stepKey, forAll_head, foldl_head, foldlP_head, ite_head, modPool_head,
      modStep_head, modStep_head, modSetRuns_phc]
theorem modDecided_head (p : Pkg) (n x : Nat) (f : Decided → Decided) (hm : Nat) : penHead lv (modDecided p n x f) hm = penHead
    lv p hm := by
  simp [modDecided, modPen_head, head_mk, headOf, stepKey, forAll_head, foldl_head, foldlP_head, ite_head, modPool_head,
      modStep_head, modStep_head]
theorem recvGateOp_head (p : Pkg) (n : Nat) (d : Decided) (hm : Nat) : penHead lv (recvGateOp p n d) hm = penHead lv p hm := by
  simp [recvGateOp, modPen_head, head_mk, headOf, stepKey, forAll_head, foldl_head, foldlP_head, ite_head, modPool_head,
      modStep_head, completeGen_head, modDecided_head, modStep_head, modSegData_phc]
theorem selectHalf_head (p : Pkg) (n e h : Nat) (hm : Nat) : penHead lv (selectHalf p n e h) hm = penHead lv p hm := by
  unfold selectHalf; (repeat' split) <;> simp_all [modPen_head, head_mk, headOf, stepKey, forAll_head, foldl_head, foldlP_head,
      ite_head, modPool_head, modStep_head, modStep_head]
theorem boardPut_head (p : Pkg) (n off : Nat) (b : Bytes) (hm : Nat) : penHead lv (boardPut p n off b) hm = penHead lv p hm := by
  unfold boardPut; (repeat' split) <;> simp_all [modPen_head, head_mk, headOf, stepKey, forAll_head, foldl_head, foldlP_head,
      ite_head, modPool_head, modStep_head, bufPut_head]
theorem keepRecord_head (p : Pkg) (n : Nat) (r : CountRec) (hm : Nat) : penHead lv (keepRecord p n r) hm = penHead lv p hm := by
  unfold keepRecord
  refine Eq.trans (modPen_head _ _ _ _ fun _ => rfl) ?_
  split
  · exact boardPut_head _ _ _ _ _
  · rfl
theorem keepMark_head (p : Pkg) (n : Nat) (m : Mark) (hm : Nat) : penHead lv (keepMark p n m) hm = penHead lv p hm := by
  unfold keepMark
  refine Eq.trans (modPen_head _ _ _ _ ?_) (boardPut_head _ _ _ _ _)
  intro _; rfl
theorem sendRecord_head (p : Pkg) (n : Nat) (step : Bool) (r : CountRec) (hm : Nat) : penHead lv (sendRecord p n step r) hm =
    penHead lv p hm := by
  unfold sendRecord; (repeat' split) <;> simp_all [modPen_head, head_mk, headOf, stepKey, forAll_head, foldl_head, foldlP_head,
      ite_head, modPool_head, modStep_head, keepRecord_head, fwStore_phc]
theorem sendMark_head (p : Pkg) (n kind x round : Nat) (last : Bool) (hm : Nat) : penHead lv (sendMark p n kind x round last) hm
    = penHead lv p hm := by
  unfold sendMark; (repeat' split) <;> simp_all [modPen_head, head_mk, headOf, stepKey, forAll_head, foldl_head, foldlP_head,
      ite_head, modPool_head, modStep_head, keepMark_head, fwStore_phc]
theorem wideEntryOp_head (p : Pkg) (n e : Nat) (hm : Nat) : penHead lv (wideEntryOp p n e) hm = penHead lv p hm := by
  simp [wideEntryOp, modPen_head, head_mk, headOf, stepKey, forAll_head, foldl_head, foldlP_head, ite_head, modPool_head,
      modStep_head, modStep_head, log_phc, moveWaiting_phc]
theorem logSpill_head (p : Pkg) (n e h rounds top : Nat) (hm : Nat) : penHead lv (logSpill p n e h rounds top) hm = penHead lv p
    hm := by
  unfold logSpill
  split
  · refine Eq.trans (head_congr (log_keeps _ _ _ _ _ _).2.2.2.2.2.1 hm) ?_
    refine modPen_head _ _ _ _ ?_
    intro _; rfl
  · rfl
theorem decideStepX_head (p : Pkg) (n : Nat) (hm : Nat) : penHead lv (decideStepX p n) hm = penHead lv p hm := by
  simp [decideStepX, modPen_head, head_mk, headOf, stepKey, forAll_head, foldl_head, foldlP_head, ite_head, modPool_head,
      modStep_head, modStep_head]
theorem decideRouting_head (p : Pkg) (n e h : Nat) (hm : Nat) : penHead lv (decideRouting p n e h) hm = penHead lv p hm := by
  unfold decideRouting
  dsimp only
  split
  · rw [logSpill_head]
    refine Eq.trans (modPen_head _ _ _ _ ?_) ?_
    · intro _; rfl
    · split <;> simp [wideEntryOp_head, modStep_head]
  · split <;> simp [wideEntryOp_head, modStep_head]
theorem decideNext_head (p : Pkg) (n : Nat) (hm : Nat) : penHead lv (decideNext p n) hm = penHead lv p hm := by
  intros; unfold decideNext at *; (repeat' split at *) <;> simp_all [modPen_head, head_mk, headOf, stepKey, forAll_head,
      foldl_head, foldlP_head, ite_head, modPool_head, modStep_head, decideRouting_head, decideStepX_head]
theorem writePiece_head (p : Pkg) (n e f s : Nat) (a : Place) (pan : Nat) (b : Bytes) (hm : Nat) : penHead lv (writePiece p n e
    f s a pan b) hm = penHead lv p hm := by
  simp [writePiece, modPen_head, head_mk, headOf, stepKey, forAll_head, foldl_head, foldlP_head, ite_head, modPool_head,
      modStep_head, bufPut_head]
theorem writeTags_head (p : Pkg) (n e region slot row : Nat) (b : Bytes) (hm : Nat) : penHead lv (writeTags p n e region slot
    row b) hm = penHead lv p hm := by
  simp [writeTags, modPen_head, head_mk, headOf, stepKey, forAll_head, foldl_head, foldlP_head, ite_head, modPool_head,
      modStep_head, bufPut_head]
theorem sendRow_head (p : Pkg) (n : Nat) (d : Decided) (a : RowOf) (hm : Nat) : penHead lv (sendRow p n d a) hm = penHead lv p
    hm := by
  unfold sendRow; dsimp only; (repeat' split) <;> simp_all [modPen_head, head_mk, headOf, stepKey, forAll_head, foldl_head,
      foldlP_head, ite_head, modPool_head, modStep_head, writePiece_head, writeTags_head, fwStore_phc]
theorem sendRound_head (p : Pkg) (n : Nat) (d : Decided) (hm : Nat) : penHead lv (sendRound p n d) hm = penHead lv p hm := by
  simp [sendRound, modPen_head, head_mk, headOf, stepKey, forAll_head, foldl_head, foldlP_head, ite_head, modPool_head,
      modStep_head, modDecided_head, sendMark_head, sendRow_head]
theorem sendNext_head (p : Pkg) (n : Nat) (hm : Nat) : penHead lv (sendNext p n) hm = penHead lv p hm := by
  unfold sendNext
  dsimp only
  refine Eq.trans (modStep_head _ _ _ hm ?_ ?_ ?_ ?_) (forAll_head _ _ _ _ fun q d => ?_)
  iterate 4 (intro _; rfl)
  split
  · exact sendRound_head _ _ _ hm
  · rfl
theorem sendWaiting_head (p : Pkg) (n z0 : Nat) (hm : Nat) : penHead lv (sendWaiting p n z0) hm = penHead lv p hm := by
  induction z0 generalizing p with
  | zero => rfl
  | succ k ih => unfold sendWaiting; dsimp only; split <;> simp only [ih, sendNext_head]
theorem dispatchAll_head (p : Pkg) (hm : Nat) : penHead lv (dispatchAll p) hm = penHead lv p hm :=
  forAll_head _ _ _ _ fun q n => sendWaiting_head _ _ _ hm
theorem drive1_head (p : Pkg) (n : Nat) (hm : Nat) : penHead lv (drive1 p n) hm = penHead lv p hm := by
  simp [drive1, modPen_head, head_mk, headOf, stepKey, forAll_head, foldl_head, foldlP_head, ite_head, modPool_head,
      modStep_head, decideNext_head, sendNext_head]
theorem drive_head (p : Pkg) (n : Nat) (z0 : Nat) (hm : Nat) : penHead lv (drive p n z0) hm = penHead lv p hm := by
  induction z0 generalizing p with
  | zero => rfl
  | succ k ih => unfold drive; dsimp only; split <;> simp only [ih, drive1_head]
theorem recordIn_head (p : Pkg) (n slot : Nat) (b : Bytes) (hm : Nat) : penHead lv (recordIn p n slot b) hm = penHead lv p hm :=
    by
  unfold recordIn; dsimp only; (repeat' split) <;> simp_all [modPen_head, head_mk, headOf, stepKey, forAll_head, foldl_head,
      foldlP_head, ite_head, modPool_head, modStep_head, drive_head, keepRecord_head, log_phc]
theorem markIn_head (p : Pkg) (n kind slot w : Nat) (hm : Nat) : penHead lv (markIn p n kind slot w) hm = penHead lv p hm := by
  unfold markIn; (repeat' split) <;> simp_all [modPen_head, head_mk, headOf, stepKey, forAll_head, foldl_head, foldlP_head,
      ite_head, modPool_head, modStep_head, drive_head, keepMark_head]
theorem pieceIn_head (p : Pkg) (n off : Nat) (b : Bytes) (hm : Nat) : penHead lv (pieceIn p n off b).2 hm = penHead lv p hm := by
  unfold pieceIn; dsimp only; (repeat' split) <;> simp_all [modPen_head, head_mk, headOf, stepKey, forAll_head, foldl_head,
      foldlP_head, ite_head, modPool_head, modStep_head, writePiece_head]
theorem tagsIn_head (p : Pkg) (n off : Nat) (b : Bytes) (hm : Nat) : penHead lv (tagsIn p n off b).2 hm = penHead lv p hm := by
  unfold tagsIn; dsimp only; (repeat' split) <;> simp_all [modPen_head, head_mk, headOf, stepKey, forAll_head, foldl_head,
      foldlP_head, ite_head, modPool_head, modStep_head, writeTags_head]
theorem combineIn_head (p : Pkg) (n off : Nat) (b : Bytes) (hm : Nat) : penHead lv (combineIn p n off b).2 hm = penHead lv p hm
    := by
  unfold combineIn; dsimp only; (repeat' split) <;> simp_all [modPen_head, head_mk, headOf, stepKey, forAll_head, foldl_head,
      foldlP_head, ite_head, modPool_head, modStep_head, bufPut_head]
theorem openExchange_head (p : Pkg) (n e h : Nat) (hm : Nat) : penHead lv (openExchange p n e h) hm = penHead lv p hm := by
  simp [openExchange, modPen_head, head_mk, headOf, stepKey, forAll_head, foldl_head, foldlP_head, ite_head, modPool_head,
      modStep_head, selectHalf_head, sendRecord_head]
theorem routerReleased_head (p : Pkg) (n layer : Nat) (hm : Nat) : penHead lv (routerReleased p n layer) hm = penHead lv p hm :=
    by
  unfold routerReleased
  dsimp only
  split
  · rfl
  · rw [drive_head]
    split <;> simp only [openExchange_head]
theorem sendBack_head (p : Pkg) (n : Nat) (d : Decided) (f slot row : Nat) (hm : Nat) : penHead lv (sendBack p n d f slot row)
    hm = penHead lv p hm := by
  unfold sendBack; dsimp only; (repeat' split) <;> (try simp only [bufPut_head, fwStore_phc, id_eq]) <;>
    (repeat' (first
      | refine Eq.trans (forAll_head _ _ _ _ ?_) ?_
      | refine Eq.trans (foldl_head _ _ _ _ ?_) ?_
      | refine Eq.trans (foldlP_head _ _ _ _ ?_) ?_)) <;>
    (try intro q x) <;> (try dsimp only) <;> (repeat' split) <;>
    (first | rfl | simp_all [modPen_head, head_mk, headOf, stepKey, forAll_head, foldl_head, foldlP_head, ite_head,
        modPool_head, modStep_head, bufPut_head, fwStore_phc])
theorem expertsReleased_head (p : Pkg) (n layer : Nat) (hm : Nat) : penHead lv (expertsReleased p n layer) hm = penHead lv p hm
    := by
  unfold expertsReleased; dsimp only; (repeat' split) <;> simp_all [modPen_head, head_mk, headOf, stepKey, forAll_head,
      foldl_head, foldlP_head, ite_head, modPool_head, modStep_head, drive_head, modDecided_head, sendBack_head, sendMark_head]
theorem combineHalf_head (p : Pkg) (n : Nat) (d : Decided) (hm : Nat) : penHead lv (combineHalf p n d) hm = penHead lv p hm := by
  simp [combineHalf, modPen_head, head_mk, headOf, stepKey, forAll_head, foldl_head, foldlP_head, ite_head, modPool_head,
      modStep_head, bufPut_head]
theorem linkSeen_phc (p : Pkg) (path : Path) (hm : Nat) : penHead lv (linkSeen p path) hm = penHead lv p hm := head_congr (by simp) hm
theorem mgtTaken_head (p : Pkg) (path : Path) (msg : Bytes) (f : Pkg → PendCmd → Pkg) (hm : Nat) (h_f : ∀ w0 w1, penHead lv (f
    w0 w1) hm = penHead lv w0 hm) : penHead lv (mgtTaken p path msg f) hm = penHead lv p hm := by
  unfold mgtTaken; (repeat' split) <;> simp_all [modPen_head, head_mk, headOf, stepKey, forAll_head, foldl_head, foldlP_head,
      ite_head, modPool_head, modStep_head, authFail_phc, mgtRefuse_phc, raiseSeq_phc, linkSeen_phc, h_f]
theorem boardStore_head (p : Pkg) (n off : Nat) (b : Bytes) (hm : Nat) : penHead lv (boardStore p n off b).2 hm = penHead lv p
    hm := by
  unfold boardStore; dsimp only; (repeat' split) <;> simp_all [modPen_head, head_mk, headOf, stepKey, forAll_head, foldl_head,
      foldlP_head, ite_head, modPool_head, modStep_head, boardPut_head, markIn_head, recordIn_head]
theorem fallbackReq_head (p : Pkg) (e : Nat) (hm : Nat) : penHead lv (fallbackReq p e) hm = penHead lv p hm := by
  unfold fallbackReq; (repeat' split) <;> simp_all [modPen_head, head_mk, headOf, stepKey, forAll_head, foldl_head, foldlP_head, ite_head, modPool_head, modStep_head,
      applyHeld_head, growBlocks_head, leaveStep_head, modPool_head, releasePages_head, closeResume_phc, logEvent_phc, modReq_phc]
theorem applyPolicy_head (p : Pkg) (e : Nat) (hm : Nat) : penHead lv (applyPolicy p e) hm = penHead lv p hm := by
  unfold applyPolicy; dsimp only; (repeat' split) <;> simp_all [modPen_head, head_mk, headOf, stepKey, forAll_head, foldl_head,
      foldlP_head, ite_head, modPool_head, modStep_head, endReq_head, fallbackReq_head, logEvent_phc]
theorem retireReq_head (p : Pkg) (e : Nat) (hm : Nat) : penHead lv (retireReq p e) hm = penHead lv p hm := by
  simp [retireReq, modPen_head, head_mk, headOf, stepKey, forAll_head, foldl_head, foldlP_head, ite_head, modPool_head,
      modStep_head, applyHeld_head, applyPolicy_head, endReq_head, modReq_phc]
theorem dropStep_head (p : Pkg) (n : Nat) (hm : Nat) : penHead false (dropStep p n) hm = penHead false p hm := by
  unfold dropStep
  split
  · rfl
  · dsimp only
    refine Eq.trans (forAll_head _ _ _ _ (fun q x => ?_)) ?_
    · rw [retireReq_head, dropTokSlot_phc]
    · rw [head_mk]
      refine Eq.trans (modPen_head _ _ _ _ ?_) ?_
      · intro _; rfl
      · rw [haltArrays_phc, modPool_head]
        exact forAll_head _ _ _ _ fun q x => rfl
theorem candIn_head (p : Pkg) (n off : Nat) (b : Bytes) (hm : Nat) : penHead lv (candIn p n off b).2 hm = penHead lv p hm := by
  unfold candIn; dsimp only; (repeat' split) <;> simp_all [modPen_head, head_mk, headOf, stepKey, forAll_head, foldl_head,
      foldlP_head, ite_head, modPool_head, modStep_head, modStep_head]
theorem slotWordIn_head (p : Pkg) (n off w : Nat) (hm : Nat) : penHead lv (slotWordIn p n off w).2 hm = penHead lv p hm := by
  intros; unfold slotWordIn at *; (repeat' split at *) <;> (simp_all) <;> (try subst_vars) <;>
    repeat' (first
      | rfl
      | rw [modPen_head _ _ _ _ (fun _ => rfl)]
      | rw [modPen_head _ _ _ _ (fun _ => by first | rfl | (split <;> rfl) | (dsimp only; split <;> rfl) | (repeat' split) <;>
          rfl)]
      | (simp only [forAll_head, ite_head, modPool_head, modStep_head]; done)
      | simp only [forAll_head, ite_head, modPool_head, modStep_head]
      | split
      | (refine Eq.trans (forAll_head _ _ _ _ ?_) ?_; intro q x; dsimp only)
      | (refine Eq.trans (foldl_head _ _ _ _ ?_) ?_; intro q x; dsimp only)
      | (refine Eq.trans (foldlP_head _ _ _ _ ?_) ?_; intro q x; dsimp only)
      | refine Eq.trans (head_mk _ _ _ _ _ _ _ _ _ _ _ _ _ _ _ _ _ _ _ _ _ _ _) ?_
      | assumption)
theorem atomicAt_head (p : Pkg) (h : Hdr) (d : Bytes) (hm : Nat) : penHead lv (atomicAt p h d).2.2 hm = penHead lv p hm := by
  unfold atomicAt; dsimp only; (repeat' split) <;> simp_all [modPen_head, head_mk, headOf, stepKey, forAll_head, foldl_head,
      foldlP_head, ite_head, modPool_head, modStep_head, bufPut_head, modBind_phc]
theorem takeArray_head (p : Pkg) (n a : Nat) (hm : Nat) : penHead lv (takeArray p n a) hm = penHead lv p hm := by
  unfold takeArray
  refine Eq.trans (modPen_head _ _ _ _ ?_) (head_congr rfl hm)
  intro _; rfl
theorem fillSet_head (p : Pkg) (n : Nat) (z0 : Nat) (hm : Nat) : penHead lv (fillSet p n z0) hm = penHead lv p hm := by
  fun_induction fillSet p n z0 <;> ((repeat' split) <;> simp_all [modPen_head, head_mk, headOf, stepKey, forAll_head,
      foldl_head, foldlP_head, ite_head, modPool_head, modStep_head, takeArray_head])
theorem predHere_head (p : Pkg) (n : Nat) (hm : Nat) : penHead lv (predHere p n) hm = penHead lv p hm := by
  unfold predHere
  split
  · rfl
  · exact modPen_head _ _ _ _ fun _ => rfl
theorem predNext_head (p : Pkg) (n : Nat) (hm : Nat) : penHead lv (predNext p n) hm = penHead lv p hm := by
  unfold predNext
  split
  · rfl
  · exact modPen_head _ _ _ _ fun _ => rfl
theorem refreshPred_head (p : Pkg) (n : Nat) (hm : Nat) : penHead lv (refreshPred p n) hm = penHead lv p hm := by
  unfold refreshPred
  split
  · refine Eq.trans (modPen_head _ _ _ _ ?_) (predNext_head _ _ hm)
    intro _; rfl
  · rfl
theorem fillOne_head (p : Pkg) (n : Nat) (hm : Nat) : penHead lv (fillOne p n) hm = penHead lv p hm := by
  unfold fillOne
  dsimp only
  split
  · exact fillSet_head _ _ _ hm
  · exact (refreshPred_head _ _ hm).trans (fillSet_head _ _ _ hm)
theorem fillShort_head (p : Pkg) (hm : Nat) : penHead lv (fillShort p) hm = penHead lv p hm :=
  forAll_head _ _ _ _ fun q n => fillOne_head _ _ hm
theorem returnDone_head (p : Pkg) (a : Nat) (pass : Bool) (ticks : Nat) (hm : Nat) : penHead lv (returnDone p a pass ticks) hm =
    penHead lv p hm := by
  unfold returnDone
  dsimp only
  split
  · rw [fillShort_head, log_phc]; rfl
  · split
    · rw [log_phc, modArr_phc, log_phc, modArr_phc]
    · rw [log_phc, modArr_phc]
theorem discardPool_head (p : Pkg) (n : Nat) (hm : Nat) : penHead lv (discardPool p n) hm = penHead lv p hm := by
  simp [discardPool, modPen_head, head_mk, headOf, stepKey, forAll_head, foldl_head, foldlP_head, ite_head, modPool_head,
      modStep_head, modPool_head, releasePages_head]
theorem loseBuffers_head (p : Pkg) (n : Nat) (hm : Nat) : penHead lv (loseBuffers p n) hm = penHead lv p hm := by
  unfold loseBuffers
  dsimp only
  rw [nextFree_head]
  refine modPen_head _ n _ _ ?_
  intro _; rfl
theorem sendSlotWords_head (p : Pkg) (n : Nat) (hm : Nat) : penHead lv (sendSlotWords p n) hm = penHead lv p hm := by
  simp [sendSlotWords, modPen_head, head_mk, headOf, stepKey, forAll_head, foldl_head, foldlP_head, ite_head, modPool_head,
      modStep_head, slotWordIn_head, fwStore_phc]
theorem sendCands_head (p : Pkg) (n : Nat) (hm : Nat) : penHead lv (sendCands p n) hm = penHead lv p hm := by
  unfold sendCands; dsimp only; (repeat' split) <;> (try simp only [candIn_head, fwStore_phc, id_eq]) <;>
    (repeat' (first
      | refine Eq.trans (forAll_head _ _ _ _ ?_) ?_
      | refine Eq.trans (foldl_head _ _ _ _ ?_) ?_
      | refine Eq.trans (foldlP_head _ _ _ _ ?_) ?_)) <;>
    (try intro q x) <;> (try dsimp only) <;> (repeat' split) <;>
    (first | rfl | simp_all [modPen_head, head_mk, headOf, stepKey, forAll_head, foldl_head, foldlP_head, ite_head,
        modPool_head, modStep_head, candIn_head, fwStore_phc])
theorem selectSlot_head (p : Pkg) (n s : Nat) (u : SlotUse) (hm : Nat) : penHead lv (selectSlot p n s u) hm = penHead lv p hm :=
    by
  simp [selectSlot, modPen_head, head_mk, headOf, stepKey, forAll_head, foldl_head, foldlP_head, ite_head, modPool_head,
      modStep_head, modStep_head, noteDegenerate_phc]
theorem bindOp_head (p : Pkg) (c : Nat) (hm : Nat) : penHead lv (bindOp p c) hm = penHead lv p hm := by
  unfold bindOp; (repeat' split) <;> simp_all [modPen_head, head_mk, headOf, stepKey, forAll_head, foldl_head, foldlP_head,
      ite_head, modPool_head, modStep_head, modPool_head, modBind_phc, send_phc, setResult_phc]
theorem imageLoaded_head (p : Pkg) (c : Nat) (image : Option Bytes) (hm : Nat) : penHead lv (imageLoaded p c image) hm = penHead
    lv p hm := by
  unfold imageLoaded
  split
  · exact (setResult_phc _ _ _ hm).trans (endBinding_head _ _ hm)
  · dsimp only
    split
    · exact (log_phc _ _ _ _ _ _ hm).trans ((forAll_head _ _ _ _ fun q e => modHart_phc _ _ _ hm).trans (modBind_phc _ _ _ hm))
    · rfl
theorem allocPart_head (p : Pkg) (e k : Nat) (hm : Nat) : ∀ q, allocPart p e k = some q → penHead lv q.2 hm = penHead lv p hm :=
    by
  unfold allocPart; dsimp only; (repeat' split) <;> simp_all [modPen_head, head_mk, headOf, stepKey, forAll_head, foldl_head,
      foldlP_head, ite_head, modPool_head, modStep_head, modPool_head, modReq_phc]
theorem allocParts_head (p : Pkg) (e : Nat) (z0 : List Nat) (hm : Nat) : ∀ q, allocParts p e z0 = some q → penHead lv q hm =
    penHead lv p hm := by
  induction z0 generalizing p with
  | nil => intro q h; simp [allocParts] at h; rw [h]
  | cons k t ih =>
    intro q h
    unfold allocParts at h
    split at h
    · rename_i f q1 e1
      exact (ih q1 q h).trans (allocPart_head p e k hm (f, q1) e1)
    · cases h
theorem cowPart_head (p : Pkg) (e k : Nat) (hm : Nat) : ∀ q, cowPart p e k = some q → penHead lv q hm = penHead lv p hm := by
  intro q h
  unfold cowPart at h
  dsimp only at h
  split at h
  · split at h
    · rename_i f q1 e1
      cases h
      exact (modReq_phc _ _ _ hm).trans ((modPool_head _ _ _ hm).trans (allocPart_head p e k hm (f, q1) e1))
    · cases h
  · cases h; rfl
theorem cowParts_head (p : Pkg) (e : Nat) (z0 : List Nat) (hm : Nat) : ∀ q, cowParts p e z0 = some q → penHead lv q hm = penHead
    lv p hm := by
  induction z0 generalizing p with
  | nil => intro q h; simp [cowParts] at h; rw [h]
  | cons k t ih =>
    intro q h
    unfold cowParts at h
    split at h
    · rename_i q1 e1
      exact (ih q1 q h).trans (cowPart_head p e k hm q1 e1)
    · cases h
theorem growFor_head (p : Pkg) (e first stop : Nat) (hm : Nat) : ∀ q, growFor p e first stop = some q → penHead lv q hm =
    penHead lv p hm := by
  intro q h
  unfold growFor at h
  dsimp only at h
  split at h
  · rename_i q1 e1
    refine (cowParts_head _ e _ hm q h).trans ?_
    refine Eq.trans ?_ (allocParts_head p e _ hm q1 e1)
    split <;> rfl
  · cases h
theorem logStarved_head (p : Pkg) (e short : Nat) (hm : Nat) : penHead lv (logStarved p e short) hm = penHead lv p hm := by
  simp [logStarved, modPen_head, head_mk, headOf, stepKey, forAll_head, foldl_head, foldlP_head, ite_head, modPool_head,
      modStep_head, modPool_head, log_phc]
theorem cowDone_head (p : Pkg) (n src : Nat) (hm : Nat) : penHead lv (cowDone p n src) hm = penHead lv p hm := by
  simp [cowDone, modPen_head, head_mk, headOf, stepKey, forAll_head, foldl_head, foldlP_head, ite_head, modPool_head,
      modStep_head, modPool_head]
theorem evictPage_head (p : Pkg) (e i : Nat) (hm : Nat) : penHead lv (evictPage p e i) hm = penHead lv p hm := by
  unfold evictPage; dsimp only; (repeat' split) <;> (try simp only [modPool_head, modReq_phc, id_eq]) <;>
    (repeat' (first
      | refine Eq.trans (forAll_head _ _ _ _ ?_) ?_
      | refine Eq.trans (foldl_head _ _ _ _ ?_) ?_
      | refine Eq.trans (foldlP_head _ _ _ _ ?_) ?_)) <;>
    (try intro q x) <;> (try dsimp only) <;> (repeat' split) <;>
    (first | rfl | simp_all [modPen_head, head_mk, headOf, stepKey, forAll_head, foldl_head, foldlP_head, ite_head,
        modPool_head, modStep_head, modPool_head, modReq_phc])
theorem evictReq_head (p : Pkg) (e : Nat) (t : Step) (hm : Nat) : penHead lv (evictReq p e t) hm = penHead lv p hm := by
  simp [evictReq, modPen_head, head_mk, headOf, stepKey, forAll_head, foldl_head, foldlP_head, ite_head, modPool_head,
      modStep_head, evictPage_head, modReq_phc]
theorem fillWeights_head (p : Pkg) (n : Nat) (i : Image) (hm : Nat) : penHead lv (fillWeights p n i) hm = penHead lv p hm := by
  unfold fillWeights
  refine forAll_head _ _ _ _ fun q x => ?_
  refine (foldlP_head _ _ _ _ fun a y => ?_)
  dsimp only
  split
  · exact bufPut_head _ _ _ _ _ _ _
  · rfl
theorem placePen_head (p : Pkg) (n : Nat) (hm : Nat) : penHead lv (placePen p n) hm = penHead lv p hm := by
  unfold placePen
  split
  · rfl
  · dsimp only
    refine Eq.trans (forAll_head _ _ _ _ fun q x => log_phc _ _ _ _ _ _ hm) (modPen_head _ _ _ _ ?_)
    intro _; rfl
theorem loseMember_head (p : Pkg) (n : Nat) (hm : Nat) : penHead lv (loseMember p n).2 hm = penHead lv p hm := by
  simp [loseMember, modPen_head, head_mk, headOf, stepKey, forAll_head, foldl_head, foldlP_head, ite_head, modPool_head,
      modStep_head, endReq_head]
theorem readmitPen_head (p : Pkg) (n : Nat) (hm : Nat) : penHead lv (readmitPen p n) hm = penHead lv p hm := by
  simp [readmitPen, modPen_head, head_mk, headOf, stepKey, forAll_head, foldl_head, foldlP_head, ite_head, modPool_head,
      modStep_head, discardPool_head, loseMember_head, noteMemberLost_phc]
theorem readmitDo_head (p : Pkg) (c : PendCmd) (hm : Nat) : penHead lv (readmitDo p c) hm = penHead lv p hm := by
  simp [readmitDo, modPen_head, head_mk, headOf, stepKey, forAll_head, foldl_head, foldlP_head, ite_head, modPool_head,
      modStep_head, readmitPen_head, log_phc, modMgt_phc, setEpoch_head, startReturn_phc]
theorem resumeDo_head (p : Pkg) (c : PendCmd) (hm : Nat) : penHead lv (resumeDo p c) hm = penHead lv p hm := by
  unfold resumeDo
  dsimp only
  split
  · refine Eq.trans (logFault_phc _ _ _ _ _ _ _ _ hm) (modPen_head _ _ _ _ ?_)
    intro _; rfl
  · rfl
theorem memberLostDo_head (p : Pkg) (c : PendCmd) (hm : Nat) : penHead lv (memberLostDo p c) hm = penHead lv p hm := by
  simp [memberLostDo, modPen_head, head_mk, headOf, stepKey, forAll_head, foldl_head, foldlP_head, ite_head, modPool_head,
      modStep_head, loseMember_head, modMgt_phc, noteMemberLost_phc]
theorem penRefuse_head (p : Pkg) (n off v : Nat) (hm : Nat) : penHead lv (penRefuse p n off v) hm = penHead lv p hm := by
  unfold penRefuse
  refine Eq.trans (log_phc _ _ _ _ _ _ hm) (modPen_head _ _ _ _ ?_)
  intro _; rfl
theorem refreshOne_head (p : Pkg) (n : Nat) (hm : Nat) : penHead lv (refreshOne p n) hm = penHead lv p hm := by
  unfold refreshOne
  split
  · exact predNext_head _ _ hm
  · exact predHere_head _ _ hm
theorem kvpRegWrite_head (p : Pkg) (fn o size v : Nat) (hm : Nat) : penHead lv (kvpRegWrite p fn o size v) hm = penHead lv p hm
    := by
  unfold kvpRegWrite; (repeat' split) <;> simp_all [modPen_head, head_mk, headOf, stepKey, forAll_head, foldl_head, foldlP_head,
      ite_head, modPool_head, modStep_head, modPool_head, hostRegionWrite_phc]
theorem hndCmdWrite_head (p : Pkg) (c v : Nat) (hm : Nat) : penHead lv (hndCmdWrite p c v) hm = penHead lv p hm := by
  simp [hndCmdWrite, modPen_head, head_mk, headOf, stepKey, forAll_head, foldl_head, foldlP_head, ite_head, modPool_head,
      modStep_head, bindOp_head, endBinding_head, setResult_phc]
theorem hndBlockWrite_head (p : Pkg) (fn c o v : Nat) (hm : Nat) : penHead lv (hndBlockWrite p fn c o v) hm = penHead lv p hm :=
    by
  simp [hndBlockWrite, modPen_head, head_mk, headOf, stepKey, forAll_head, foldl_head, foldlP_head, ite_head, modPool_head,
      modStep_head, hndCmdWrite_head, hndRegWrite_phc]
theorem promptRead_head (p : Pkg) (e : Nat) (ts : List Word32) (hm : Nat) : penHead lv (promptRead p e ts) hm = penHead lv p hm
    := by
  unfold promptRead; dsimp only; (repeat' split) <;> simp_all [modPen_head, head_mk, headOf, stepKey, forAll_head, foldl_head,
      foldlP_head, ite_head, modPool_head, modStep_head, endReq_head, growBlocks_head, issueRead_phc, logPromptInvalid_phc,
      modReq_phc]
theorem tokenReadFailed_head (p : Pkg) (e : Nat) (d : Desc) (hm : Nat) : penHead lv (tokenReadFailed p e d) hm = penHead lv p hm
    := by
  simp [tokenReadFailed, modPen_head, head_mk, headOf, stepKey, forAll_head, foldl_head, foldlP_head, ite_head, modPool_head,
      modStep_head, hostError_head]
theorem appendRead_head (p : Pkg) (e : Nat) (t : TokRead) (ts : List Word32) (hm : Nat) : penHead lv (appendRead p e t ts) hm =
    penHead lv p hm := by
  simp [appendRead, modPen_head, head_mk, headOf, stepKey, forAll_head, foldl_head, foldlP_head, ite_head, modPool_head,
      modStep_head, applyAppend_head, issueRead_phc, modReq_phc]
theorem missDeadline_head (p : Pkg) (e : Nat) (hm : Nat) : penHead lv (missDeadline p e) hm = penHead lv p hm := by
  simp [missDeadline, modPen_head, head_mk, headOf, stepKey, forAll_head, foldl_head, foldlP_head, ite_head, modPool_head,
      modStep_head, applyPolicy_head, logEvent_phc, modReq_phc]
theorem closeDone_head (p : Pkg) (hm : Nat) : penHead lv (closeDone p) hm = penHead lv p hm := by
  simp [closeDone, modPen_head, head_mk, headOf, stepKey, forAll_head, foldl_head, foldlP_head, ite_head, modPool_head,
      modStep_head, closeReq_head]
theorem evalDesc_head (p : Pkg) (s : Src) (type : Nat) (f : Pkg → Nat → Desc → Pkg) (hm : Nat) (h_f : ∀ w0 w1 w2, penHead lv (f
    w0 w1 w2) hm = penHead lv w0 hm) : penHead lv (evalDesc p s type f) hm = penHead lv p hm := by
  unfold evalDesc; (repeat' split) <;> simp_all [modPen_head, head_mk, headOf, stepKey, forAll_head, foldl_head, foldlP_head,
      ite_head, modPool_head, modStep_head, flushOdd_phc, h_f]
theorem placeReq_head (p : Pkg) (n : Nat) (f : Fill) (e : Nat) (ss : List Nat) (us : List SlotUse) (stop : Nat) (hm : Nat) :
    penHead lv (placeReq p n f e ss us stop).1 hm = penHead lv p hm := by
  simp [placeReq, modPen_head, head_mk, headOf, stepKey, forAll_head, foldl_head, foldlP_head, ite_head, modPool_head,
      modStep_head, growBlocks_head, modPool_head, modCtx_phc, modReq_phc, takeTokSlot_phc]
theorem chooseShards_head (p : Pkg) (n : Nat) (hm : Nat) : penHead lv (chooseShards p n).1 hm = penHead lv p hm := by
  unfold chooseShards
  refine Eq.trans (foldlP_head _ _ _ _ fun q x => ?_) (modPen_head _ _ _ _ fun _ => rfl)
  (repeat' split) <;> first | rfl | exact fetchFirst_phc _ _ hm
theorem setupDone_head (p : Pkg) (n : Nat) (hm : Nat) : penHead false (setupDone p n) hm = penHead false p hm := by
  unfold setupDone
  dsimp only
  rw [drive_head, sendRecord_head, sendSlotWords_head]
  exact modPen_head _ _ _ _ fun _ => rfl
theorem syncOp_head (p : Pkg) (a : Nat) (arr wait : Bool) (hm : Nat) : penHead lv (syncOp p a arr wait) hm = penHead lv p hm := by
  simp [syncOp, modPen_head, head_mk, headOf, stepKey, forAll_head, foldl_head, foldlP_head, ite_head, modPool_head,
      modStep_head, modArr_phc, wordDone_phc]
theorem endOp_head (p : Pkg) (a : Nat) (hm : Nat) : penHead lv (endOp p a) hm = penHead lv p hm := by
  simp [endOp, modPen_head, head_mk, headOf, stepKey, forAll_head, foldl_head, foldlP_head, ite_head, modPool_head,
      modStep_head, ended_head, sendCands_head, modArr_phc]
theorem logLayer_head (p : Pkg) (n layer code : Nat) (s : Summary) (hm : Nat) : penHead lv (logLayer p n layer code s) hm =
    penHead lv p hm := by
  simp [logLayer, modPen_head, head_mk, headOf, stepKey, forAll_head, foldl_head, foldlP_head, ite_head, modPool_head,
      modStep_head, log_phc]
theorem releaseLayer_head (p : Pkg) (n layer : Nat) (hm : Nat) : penHead lv (releaseLayer p n layer) hm = penHead lv p hm := by
  simp [releaseLayer, modPen_head, head_mk, headOf, stepKey, forAll_head, foldl_head, foldlP_head, ite_head, modPool_head,
      modStep_head, inputDone, completeGen_head, expertsReleased_head, routerReleased_head, modSetRuns_phc]
theorem replayLayer_head (p : Pkg) (n layer kind : Nat) (hm : Nat) : penHead lv (replayLayer p n layer kind) hm = penHead lv p hm := by
  unfold replayLayer
  refine (restartRuns_head _ _ _ _ hm).trans (modStep_head _ _ _ hm ?_ ?_ ?_ ?_) <;> intro _ <;> rfl
theorem widenLayer_head (p : Pkg) (n layer : Nat) (s : Summary) (hm : Nat) : penHead lv (widenLayer p n layer s) hm = penHead lv
    p hm := by
  unfold widenLayer
  dsimp only
  rw [replayLayer_head]
  unfold logLayer
  dsimp only
  refine Eq.trans (log_phc _ _ _ _ _ _ hm) ?_
  refine (moveWaiting_phc _ _ _ hm).trans ?_
  rw [nextFree_head]
  refine Eq.trans (modPen_head _ n _ _ ?_) (modStep_head _ n _ _ (fun _ => rfl) (fun _ => rfl) (fun _ => rfl) fun _ => rfl)
  intro _; rfl
theorem retireKv_head (p : Pkg) (t : Step) (e : Nat) (hm : Nat) : penHead lv (retireKv p t e) hm = penHead lv p hm := by
  simp [retireKv, modPen_head, head_mk, headOf, stepKey, forAll_head, foldl_head, foldlP_head, ite_head, modPool_head,
      modStep_head, evictReq_head, growBlocks_head, addMass_phc, modReq_phc]
theorem turnEnd_head (p : Pkg) (e : Nat) (hm : Nat) : penHead lv (turnEnd p e) hm = penHead lv p hm := by
  simp [turnEnd, modPen_head, head_mk, headOf, stepKey, forAll_head, foldl_head, foldlP_head, ite_head, modPool_head,
      modStep_head, endReq_head, pauseReq_head, logEvent_phc, modReq_phc]
theorem deliver_head (p : Pkg) (e : Nat) (s : Selection) (hm : Nat) : penHead lv (deliver p e s) hm = penHead lv p hm := by
  simp [deliver, modPen_head, head_mk, headOf, stepKey, forAll_head, foldl_head, foldlP_head, ite_head, modPool_head,
      modStep_head, growBlocks_head, turnEnd_head, modReq_phc, pushCq_phc, pushTok_phc]
theorem retireOne_head (p : Pkg) (t : Step) (e : Nat) (hm : Nat) : penHead lv (retireOne p t e) hm = penHead lv p hm := by
  unfold retireOne; dsimp only; (repeat' split) <;> simp_all [modPen_head, head_mk, headOf, stepKey, forAll_head, foldl_head,
      foldlP_head, ite_head, modPool_head, modStep_head, deliver_head, retireKv_head, retireReq_head, dropTokSlot_phc,
      modReq_phc]
theorem penHead_st {p q : Pkg} {m : Nat} (h : penHead lv q m = penHead lv p m) : (penOf q m).st = (penOf p m).st :=
  congrArg PenHead.st h
theorem penHead_enable {p q : Pkg} {m : Nat} (h : penHead lv q m = penHead lv p m) : (penOf q m).enable = (penOf p m).enable :=
  congrArg PenHead.enable h
theorem penHead_image {p q : Pkg} {m : Nat} (h : penHead lv q m = penHead lv p m) : (penOf q m).image = (penOf p m).image :=
  congrArg PenHead.image h
theorem penHead_step {p q : Pkg} {m : Nat} (h : penHead true q m = penHead true p m) :
    (penOf q m).step.map stepKey = (penOf p m).step.map stepKey := by
  simpa [penHead, headOf] using congrArg PenHead.key h
theorem penHead_stepCount {p q : Pkg} {m : Nat} (h : penHead lv q m = penHead lv p m) : (penOf q m).stepCount = (penOf p
    m).stepCount :=
  congrArg PenHead.stepCount h
/-- The move of a pen to a state changes that state alone. -/
theorem setPenState_head (p : Pkg) (n st m : Nat) :
    penHead lv (setPenState p n st) m = if m = n then { penHead lv p n with st := st } else penHead lv p m := by
  unfold setPenState
  by_cases h : (penOf p n).st = st
  · simp only [h, if_true]
    split
    · rename_i e; subst e; simp [penHead, headOf, h]
    · rfl
  · simp only [h, if_false]
    refine Eq.trans (forAll_head _ _ _ _ fun q c => logEvent_phc _ _ _ _ _ _ _ _ _) ?_
    unfold penHead
    rw [penOf_modPen]
    split <;> simp [headOf]
theorem penTo_head (p : Pkg) (n st m : Nat) :
    penHead lv (penTo p n st) m = if m = n then { penHead lv p n with st := st } else penHead lv p m := by
  have h1 : ∀ (q : Pkg) l, penHead lv (forAll l endBinding q) m = penHead lv q m :=
    fun q l => forAll_head _ _ _ _ fun q c => endBinding_head _ _ _
  have h2 : ∀ (q : Pkg) l z, penHead lv (forAll l (fun q e => refuseAdmit q e z) q) m = penHead lv q m :=
    fun q l z => forAll_head _ _ _ _ fun q c => refuseAdmit_head _ _ _ _
  have h0 : ∀ (c : Bool) k, penHead lv (if c = true then newCount p n else p) k = penHead lv p k := fun c k => by
    split
    · exact newCount_head _ _ _
    · rfl
  have h3 := fun c => setPenState_head (lv := lv) (if c = true then newCount p n else p) n st m
  simp only [h0] at h3
  unfold penTo
  extract_lets old serves p1 q src p2 waits
  rw [← h3 (decide (old = penActive ∧ st ≠ penActive) && (penOf p n).step.isNone)]
  change penHead lv _ m = penHead lv p1 m
  clear_value p1
  have h4 : penHead lv p2 m = penHead lv p1 m := by
    simp only [p2]
    split
    · exact Eq.trans (head_congr rfl m) (h1 _ _)
    · rfl
  clear_value p2 waits
  split
  · exact h4
  · exact (h2 _ _ _).trans h4
theorem penTo_st (p : Pkg) (n st : Nat) : (penOf (penTo p n st) n).st = st := by
  have h := penTo_head (lv := false) p n st n
  simp only [if_true] at h
  exact congrArg PenHead.st h


end Sys2Proof.Machine

end
end

