-- ==== Sys2Proof/WellFormed.lean ====
section
/-! DEFINITION. Well-formed commands: every number names something the package has (Tables 1-1, 1-2, 8-1 and 9-1; R30, R39, R252,
R253). The meanings do not rest on it: a command that names nothing leaves the package unchanged (log entry 1). -/

namespace Sys2Proof

/-- The context or the core of a source of descriptors. -/
def srcOk : Src → Bool
  | .ring c => decide (c < 256)
  | .mailbox k => decide (k < 16)

/-- The numbers of a command lie in their ranges. -/
def Instr.wf : Instr → Bool
  | .powerUp => true
  | .vin6Lockout => true
  | .auxRailFault => true
  | .resetNAssert => true
  | .resetNRelease => true
  | .perstAssert => true
  | .perstRelease => true
  | .selfTestDone _ => true
  | .refclkOkSet => true
  | .tickPhaseLock => true
  | .tickSyncMiss => true
  | .tickSyncPhaseErr => true
  | .refclkLost cause => decide (cause < 2)
  | .refclkRelock => true
  | .countLoad => true
  | .timeExchange _ => true
  | .timeRequest port _ arrive _ => decide (port < 16 ∧ 1 ≤ arrive.ago ∧ arrive.ago ≤ 2)
  | .timeResponse port _ arrive => decide (port < 16 ∧ 1 ≤ arrive.ago ∧ arrive.ago ≤ 2)
  | .tickCtrlWrite fn _ => decide (fn < 64)
  | .bar0Write fn off size _ => decide (fn < 64 ∧ off < 0x4000000 ∧ (size = 4 ∨ size = 8))
  | .bar0AccessInvalid fn _ size => decide (fn < 64 ∧ 0 < size)
  | .bind fn pen => decide (fn < 64 ∧ pen < 16)
  | .unbind fn pen => decide (fn < 64 ∧ pen < 16)
  | .bindComplete _ _ => true
  | .unbindComplete => true
  | .penEnable fn pen _ => decide (fn < 64 ∧ pen < 16)
  | .penDisable fn pen _ => decide (fn < 64 ∧ pen < 16)
  | .penBudgetWrite fn pen _ _ => decide (fn < 64 ∧ pen < 16)
  | .penActivate pen => decide (pen < 16)
  | .predStepRefresh => true
  | .stepSetupStart pen => decide (pen < 16)
  | .setupComplete pen => decide (pen < 16)
  | .stepRelease pen => decide (pen < 16)
  | .segmentStart pen seg => decide (pen < 16 ∧ seg < 256)
  | .segmentSwitch array => decide (array < 256)
  | .stepDone pen => decide (pen < 16)
  | .mma array => decide (array < 256)
  | .fuse2 array => decide (array < 256)
  | .rowfn array => decide (array < 256)
  | .loadw array => decide (array < 256)
  | .loada array => decide (array < 256)
  | .store array => decide (array < 256)
  | .storeRowstate array => decide (array < 256)
  | .maskset array => decide (array < 256)
  | .syncDrain array => decide (array < 256)
  | .syncBarrier array => decide (array < 256)
  | .syncArrive array => decide (array < 256)
  | .syncWait array => decide (array < 256)
  | .syncLayerEnd array => decide (array < 256)
  | .syncEnd array => decide (array < 256)
  | .score array => decide (array < 256)
  | .barrierComplete pen barrier => decide (pen < 16 ∧ barrier < 65536)
  | .layerDone pen layer => decide (pen < 16 ∧ layer < 65536)
  | .countRecord pen slot _ => decide (pen < 16 ∧ slot < 8192)
  | .dispatchMark pen slot _ => decide (pen < 16 ∧ slot < 8192)
  | .freeMark pen slot _ => decide (pen < 16 ∧ slot < 8192)
  | .combineMark pen slot _ => decide (pen < 16 ∧ slot < 8192)
  | .dispatchPiece pen _ _ => decide (pen < 16)
  | .dispatchTagRun pen _ _ => decide (pen < 16)
  | .combineStore pen _ _ => decide (pen < 16)
  | .recvGateComplete pen half => decide (pen < 16 ∧ half < 2)
  | .combGateComplete pen half => decide (pen < 16 ∧ half < 2)
  | .exchangeWatchdog pen => decide (pen < 16)
  | .imprintWrite ctx => decide (ctx < 256)
  | .imprintRetire ctx => decide (ctx < 256)
  | .imprintWriteDone stack _ => decide (stack < 8)
  | .imprintAuthExpiry => true
  | .nvVerifyStart => true
  | .nvSlotVerifyDone slot _ => decide (slot < 256)
  | .nvUncorrectable slot _ _ => decide (slot < 256)
  | .nvBlockFetchDone replica _ => decide (replica < 1024)
  | .nvRepairStart slot => decide (slot < 256)
  | .nvRepairDone slot _ => decide (slot < 256)
  | .nvStackFailed stack => decide (stack < 8)
  | .replicaKindWrite fn idx kind => decide (fn < 64 ∧ idx < 1024 ∧ kind < 4)
  | .replicaCheck idx _ => decide (idx < 1024)
  | .replicaRecheck idx _ => decide (idx < 1024)
  | .replicaHostFetchDone idx _ => decide (idx < 1024)
  | .slowerFetchDone pen _ _ => decide (pen < 16)
  | .ctxEnable fn ctx _ => decide (fn < 64 ∧ ctx < 256)
  | .ctxDisable fn ctx _ => decide (fn < 64 ∧ ctx < 256)
  | .ctxCmdReset fn ctx => decide (fn < 64 ∧ ctx < 256)
  | .contextResetDone ctx _ => decide (ctx < 256)
  | .flrVf vf => decide (1 ≤ vf ∧ vf ≤ 63)
  | .flrPf => true
  | .vfEnableClear numVfs => decide (numVfs ≤ 63)
  | .hostLinkDown _ => true
  | .ringWriteFailed ctx ring => decide (ctx < 256 ∧ ring < 3)
  | .dbSqTail fn ctx _ => decide (fn < 64 ∧ ctx < 256)
  | .dbCqHead fn ctx _ => decide (fn < 64 ∧ ctx < 256)
  | .dbEqHead fn ctx _ => decide (fn < 64 ∧ ctx < 256)
  | .descriptorFetchDone ctx _ => decide (ctx < 256)
  | .admitReq src => srcOk src
  | .append src => srcOk src
  | .cancel src => srcOk src
  | .pause src => srcOk src
  | .resume src => srcOk src
  | .hint ctx => decide (ctx < 256)
  | .fence ctx => decide (ctx < 256)
  | .fenceComplete ctx => decide (ctx < 256)
  | .rollcall ctx => decide (ctx < 256)
  | .rollcallDone ctx => decide (ctx < 256)
  | .setSampling src => srcOk src
  | .irqModerationTime ctx ring => decide (ctx < 256 ∧ ring < 2)
  | .admitHoldExpiry entry => decide (entry < 4096)
  | .promptReadDone entry _ => decide (entry < 4096)
  | .appendReadDone entry _ => decide (entry < 4096)
  | .deadlineMissed entry => decide (entry < 4096)
  | .ttlExpiry entry => decide (entry < 4096)
  | .slotWord pen _ _ => decide (pen < 16)
  | .candidateRecord pen _ _ => decide (pen < 16)
  | .tokenSelect pen _ => decide (pen < 16)
  | .kvHostCopyDone pen _ => decide (pen < 16)
  | .kvCowCopyDone pen _ => decide (pen < 16)
  | .swapReturn pen => decide (pen < 16)
  | .contextSwap pen => decide (pen < 16)
  | .portEnable fn port _ => decide (fn < 64 ∧ port < 16)
  | .portLightDetect port => decide (port < 16)
  | .portTrainPhaseDone port => decide (port < 16)
  | .portTrainTimeout port => decide (port < 16)
  | .collarRecord port _ => decide (port < 16)
  | .portDown port cause => decide (port < 16 ∧ cause.kind < 4 ∧ cause.lanes < 16)
  | .flitReceive port flit errs => decide (port < 16 ∧ flit.length = 160 ∧ errs.length = 4)
  | .packetForward port _ => decide (port < 16)
  | .packetLoad port _ => decide (port ≤ 16)
  | .packetStore port _ => decide (port ≤ 16)
  | .packetAtomic port _ => decide (port ≤ 16)
  | .loadResp port _ => decide (port ≤ 16)
  | .storeAck port _ => decide (port ≤ 16)
  | .atomicResp port _ => decide (port ≤ 16)
  | .fabricFenceComplete srcId => decide (srcId < 512)
  | .loadTimeout tag => decide (tag < 8192)
  | .storeTimeout tag => decide (tag < 8192)
  | .livenessProbe chip => decide (chip < 4096)
  | .memberUnreached pen member => decide (pen < 16 ∧ member < 4096)
  | .fenceNotice port _ => decide (port ≤ 16)
  | .planTakesEffect => true
  | .pkfProbeGo fn _ => decide (fn < 64)
  | .pkfRrcInvalidate fn _ => decide (fn < 64)
  | .leashTick _ => true
  | .lshCapNextCommit fn => decide (fn < 64)
  | .capSoftApplied => true
  | .capHardApplied => true
  | .capReleaseApplied => true
  | .powerEmergency cond _ => decide (cond < 4)
  | .emergencyEnd => true
  | .throttleStart array _ => decide (array < 256)
  | .throttleStep quadrant _ => decide (quadrant < 4)
  | .thermalEmergency kind _ _ => decide (kind < 3)
  | .thermtrip _ => true
  | .thermtripLatchClear => true
  | .beatRateCheck _ => true
  | .arrayWatchdog array => decide (array < 256)
  | .sramUncorrectable array => decide (array < 256)
  | .arraySelftestDone array _ _ => decide (array < 256)
  | .dramUncorrectable stack pen _ => decide (stack < 24 ∧ pen < 16)
  | .dramStackFailed stack cause => decide (stack < 24 ∧ cause < 3)
  | .fwFault core _ => decide (core < 8)
  | .scentQueueDrain => true
  | .scnClearCmd fn => decide (fn < 64)
  | .scnCtrlWrite fn _ => decide (fn < 64)
  | .clearAuthExpiry => true
  | .houndBind fn ctx => decide (fn < 64 ∧ ctx < 256)
  | .houndUnbind fn ctx => decide (fn < 64 ∧ ctx < 256)
  | .houndImageLoaded ctx _ => decide (ctx < 256)
  | .hndMbCmdTail core _ _ => decide (core < 16)
  | .hndMbReplyHead core _ _ => decide (core < 16)
  | .hndTqHead ctx _ _ => decide (ctx < 256)
  | .hndFqLoad ctx _ _ => decide (ctx < 256)
  | .hndFqStore ctx _ _ => decide (ctx < 256)
  | .hndFqAtomic ctx _ _ => decide (ctx < 256)
  | .hndFqFence ctx _ _ => decide (ctx < 256)
  | .ecallExit core _ _ => decide (core < 16)
  | .ecallWait core _ _ => decide (core < 16)
  | .houndWake core => decide (core < 16)
  | .houndFault ctx core kind _ _ _ => decide (ctx < 256 ∧ core < 16 ∧ 1 ≤ kind ∧ kind ≤ 5)
  | .lease _ _ => true
  | .release _ _ => true
  | .leaseExpired => true
  | .epoch _ _ => true
  | .setCount _ _ => true
  | .cap _ _ => true
  | .planWrite _ _ => true
  | .planCommit _ _ => true
  | .readmit _ _ => true
  | .fenceGroup _ _ => true
  | .groupWrite _ _ => true
  | .resumeGroup _ _ => true
  | .memberLost _ _ => true
  | .imprintAuth _ _ => true
  | .clearAuth _ _ => true
  | .logClear _ _ => true
  | .quarantine _ _ => true
  | .arrayRelease _ _ => true
  | .penReset _ _ => true
  | .warmReset _ _ => true
  | .portReeval _ _ => true
  | .inspect _ _ => true
  | .status _ _ => true
  | .namedTickAction op => decide (1 ≤ op ∧ op ≤ 0x16)
  | .inspectLevelStep port => decide (port < 16)
  | .inspectionRecord port _ _ => decide (port < 16)
  | .inspectTimeout port => decide (port < 16)
  | .i3cPrivateWrite _ => true
  | .i3cPrivateRead => true
  | .entdaa addr => decide (addr < 128)
  | .rstdaa => true
  | .getpid => true
  | .getbcr => true
  | .getdcr => true
  | .setmrl len => decide (len < 65536)
  | .enec _ => true
  | .disec _ => true
  | .tickBoundary => true
  | .tickSyncEdge => true
  | .refclkOutOfRange => true
  | .engineFault kind index => decide ((kind = 0 ∧ index < 16) ∨ (kind = 1 ∧ index < 8) ∨ (kind = 2 ∧ index < 4))
  | .laneMeasurementRefresh _ => true
  | .hndRingBaseWrite core _ write _ => decide (core < 16 ∧ (write.size = 4 ∨ write.size = 8))

end Sys2Proof
end

