-- ==== Sys2Proof/Tests/Slice0.lean ====
section
/-! SUPPORT. Tests on small states: the checks of `Instr.wf`, the reset state, the digests against their published examples, and for every
statement with hypotheses a state and operands that meet them, most with the value that the manual gives there. -/

namespace Sys2Proof.Tests

open Sys2Proof Sys2Proof.Machine

set_option Elab.async false

/-- A package that runs: powered, READY, with its host link up. -/
def pk : Pkg :=
  { pins := { resetN := true, perstN := true, pwrGood := true, alertN := true }
    tick := { refclkOk := true, phaseLocked := true, count := 5000 }
    glb := { ready := true, selfTestDone := true, hostLink := true, coldReady := true } }

/-- A state of a running package that differs from it as given. -/
abbrev up (f : Pkg → Pkg) : State := { pkg := f pk }

/-- The package after a command, or before it where the command does not go on. -/
def after (c : Instr) (s : State) : Pkg := match exec c s with | .next t => t.pkg | _ => s.pkg

/-- A byte string written as numbers. -/
def bs (l : List Nat) : Bytes := l.map (BitVec.ofNat 8)

/-! ### Well-formed commands -/

/-- Each check of `Instr.wf` refuses a number out of its range. -/
theorem test_wf_refuses_1 :
  (Instr.refclkLost 2).wf = false ∧
  (Instr.timeRequest 16 [] ⟨1, 0⟩ 0).wf = false ∧
  (Instr.timeRequest 0 [] ⟨0, 0⟩ 0).wf = false ∧
  (Instr.timeResponse 16 [] ⟨1, 0⟩).wf = false ∧
  (Instr.timeResponse 0 [] ⟨3, 0⟩).wf = false ∧
  (Instr.tickCtrlWrite 64 0).wf = false ∧
  (Instr.bar0Write 64 0 0 0).wf = false ∧
  (Instr.bar0Write 0 0x4000000 0 0).wf = false ∧
  (Instr.bar0Write 0 0 5 0).wf = false ∧
  (Instr.bar0AccessInvalid 64 0 0).wf = false ∧
  (Instr.bar0AccessInvalid 0 0 0).wf = false ∧
  (Instr.bind 64 0).wf = false ∧
  (Instr.bind 0 16).wf = false ∧
  (Instr.unbind 64 0).wf = false ∧
  (Instr.unbind 0 16).wf = false ∧
  (Instr.penEnable 64 0 0).wf = false ∧
  (Instr.penEnable 0 16 0).wf = false ∧
  (Instr.penDisable 64 0 0).wf = false ∧
  (Instr.penDisable 0 16 0).wf = false ∧
  (Instr.penBudgetWrite 64 0 0 0).wf = false ∧
  (Instr.penBudgetWrite 0 16 0 0).wf = false ∧
  (Instr.penActivate 16).wf = false ∧
  (Instr.stepSetupStart 16).wf = false ∧
  (Instr.setupComplete 16).wf = false ∧
  (Instr.stepRelease 16).wf = false ∧
  (Instr.segmentStart 16 0).wf = false ∧
  (Instr.segmentStart 0 256).wf = false ∧
  (Instr.segmentSwitch 256).wf = false ∧
  (Instr.stepDone 16).wf = false ∧
  (Instr.mma 256).wf = false ∧
  (Instr.fuse2 256).wf = false ∧
  (Instr.rowfn 256).wf = false ∧
  (Instr.loadw 256).wf = false ∧
  (Instr.loada 256).wf = false ∧
  (Instr.store 256).wf = false ∧
  (Instr.storeRowstate 256).wf = false ∧
  (Instr.maskset 256).wf = false ∧
  (Instr.syncDrain 256).wf = false := by decide

theorem test_wf_refuses_2 :
  (Instr.syncBarrier 256).wf = false ∧
  (Instr.syncArrive 256).wf = false ∧
  (Instr.syncWait 256).wf = false ∧
  (Instr.syncLayerEnd 256).wf = false ∧
  (Instr.syncEnd 256).wf = false ∧
  (Instr.score 256).wf = false ∧
  (Instr.barrierComplete 16 0).wf = false ∧
  (Instr.barrierComplete 0 65536).wf = false ∧
  (Instr.layerDone 16 0).wf = false ∧
  (Instr.layerDone 0 65536).wf = false ∧
  (Instr.countRecord 16 0 []).wf = false ∧
  (Instr.countRecord 0 8192 []).wf = false ∧
  (Instr.dispatchMark 16 0 0).wf = false ∧
  (Instr.dispatchMark 0 8192 0).wf = false ∧
  (Instr.freeMark 16 0 0).wf = false ∧
  (Instr.freeMark 0 8192 0).wf = false ∧
  (Instr.combineMark 16 0 0).wf = false ∧
  (Instr.combineMark 0 8192 0).wf = false ∧
  (Instr.dispatchPiece 16 0 []).wf = false ∧
  (Instr.dispatchTagRun 16 0 []).wf = false ∧
  (Instr.combineStore 16 0 []).wf = false ∧
  (Instr.recvGateComplete 16 0).wf = false ∧
  (Instr.recvGateComplete 0 2).wf = false ∧
  (Instr.combGateComplete 16 0).wf = false ∧
  (Instr.combGateComplete 0 2).wf = false ∧
  (Instr.exchangeWatchdog 16).wf = false ∧
  (Instr.imprintWrite 256).wf = false ∧
  (Instr.imprintRetire 256).wf = false ∧
  (Instr.imprintWriteDone 8 none).wf = false ∧
  (Instr.nvSlotVerifyDone 256 false).wf = false ∧
  (Instr.nvUncorrectable 256 0 ⟨0, 0⟩).wf = false ∧
  (Instr.nvBlockFetchDone 1024 none).wf = false ∧
  (Instr.nvRepairStart 256).wf = false ∧
  (Instr.nvRepairDone 256 none).wf = false ∧
  (Instr.nvStackFailed 8).wf = false ∧
  (Instr.replicaKindWrite 64 0 0).wf = false ∧
  (Instr.replicaKindWrite 0 1024 0).wf = false ∧
  (Instr.replicaKindWrite 0 0 4).wf = false := by decide

theorem test_wf_refuses_3 :
  (Instr.replicaCheck 1024 none).wf = false ∧
  (Instr.replicaRecheck 1024 none).wf = false ∧
  (Instr.replicaHostFetchDone 1024 none).wf = false ∧
  (Instr.slowerFetchDone 16 0 none).wf = false ∧
  (Instr.ctxEnable 64 0 0).wf = false ∧
  (Instr.ctxEnable 0 256 0).wf = false ∧
  (Instr.ctxDisable 64 0 0).wf = false ∧
  (Instr.ctxDisable 0 256 0).wf = false ∧
  (Instr.ctxCmdReset 64 0).wf = false ∧
  (Instr.ctxCmdReset 0 256).wf = false ∧
  (Instr.contextResetDone 256 none).wf = false ∧
  (Instr.flrVf 64).wf = false ∧
  (Instr.flrVf 0).wf = false ∧
  (Instr.vfEnableClear 64).wf = false ∧
  (Instr.ringWriteFailed 256 0).wf = false ∧
  (Instr.ringWriteFailed 0 3).wf = false ∧
  (Instr.dbSqTail 64 0 0).wf = false ∧
  (Instr.dbSqTail 0 256 0).wf = false ∧
  (Instr.dbCqHead 64 0 0).wf = false ∧
  (Instr.dbCqHead 0 256 0).wf = false ∧
  (Instr.dbEqHead 64 0 0).wf = false ∧
  (Instr.dbEqHead 0 256 0).wf = false ∧
  (Instr.descriptorFetchDone 256 none).wf = false ∧
  (Instr.admitReq (.ring 256)).wf = false ∧
  (Instr.admitReq (.mailbox 16)).wf = false ∧
  (Instr.append (.ring 256)).wf = false ∧
  (Instr.append (.mailbox 16)).wf = false ∧
  (Instr.cancel (.ring 256)).wf = false ∧
  (Instr.cancel (.mailbox 16)).wf = false ∧
  (Instr.pause (.ring 256)).wf = false ∧
  (Instr.pause (.mailbox 16)).wf = false ∧
  (Instr.resume (.ring 256)).wf = false ∧
  (Instr.resume (.mailbox 16)).wf = false ∧
  (Instr.hint 256).wf = false ∧
  (Instr.fence 256).wf = false ∧
  (Instr.fenceComplete 256).wf = false := by decide

theorem test_wf_refuses_4 :
  (Instr.rollcall 256).wf = false ∧
  (Instr.rollcallDone 256).wf = false ∧
  (Instr.setSampling (.ring 256)).wf = false ∧
  (Instr.setSampling (.mailbox 16)).wf = false ∧
  (Instr.irqModerationTime 256 0).wf = false ∧
  (Instr.irqModerationTime 0 2).wf = false ∧
  (Instr.admitHoldExpiry 4096).wf = false ∧
  (Instr.deadlineMissed 4096).wf = false ∧
  (Instr.ttlExpiry 4096).wf = false ∧
  (Instr.slotWord 16 0 0).wf = false ∧
  (Instr.candidateRecord 16 0 []).wf = false ∧
  (Instr.tokenSelect 16 0).wf = false ∧
  (Instr.kvHostCopyDone 16 none).wf = false ∧
  (Instr.kvCowCopyDone 16 0).wf = false ∧
  (Instr.swapReturn 16).wf = false ∧
  (Instr.contextSwap 16).wf = false ∧
  (Instr.portEnable 64 0 0).wf = false ∧
  (Instr.portEnable 0 16 0).wf = false ∧
  (Instr.portLightDetect 16).wf = false ∧
  (Instr.portTrainPhaseDone 16).wf = false ∧
  (Instr.portTrainTimeout 16).wf = false ∧
  (Instr.collarRecord 16 []).wf = false ∧
  (Instr.portDown 16 ⟨0, 0⟩).wf = false ∧
  (Instr.portDown 0 ⟨4, 0⟩).wf = false ∧
  (Instr.portDown 0 ⟨0, 16⟩).wf = false ∧
  (Instr.flitReceive 16 (List.replicate 160 0) [0, 0, 0, 0]).wf = false ∧
  (Instr.flitReceive 0 [] [0, 0, 0, 0]).wf = false ∧
  (Instr.flitReceive 0 (List.replicate 160 0) []).wf = false ∧
  (Instr.packetForward 16 []).wf = false ∧
  (Instr.packetLoad 17 []).wf = false ∧
  (Instr.packetStore 17 []).wf = false ∧
  (Instr.packetAtomic 17 []).wf = false ∧
  (Instr.loadResp 17 []).wf = false ∧
  (Instr.storeAck 17 []).wf = false ∧
  (Instr.atomicResp 17 []).wf = false ∧
  (Instr.fabricFenceComplete 512).wf = false ∧
  (Instr.loadTimeout 8192).wf = false ∧
  (Instr.storeTimeout 8192).wf = false ∧
  (Instr.livenessProbe 4096).wf = false := by decide +kernel

theorem test_wf_refuses_5 :
  (Instr.memberUnreached 16 0).wf = false ∧
  (Instr.memberUnreached 0 4096).wf = false ∧
  (Instr.fenceNotice 17 []).wf = false ∧
  (Instr.pkfProbeGo 64 0).wf = false ∧
  (Instr.pkfRrcInvalidate 64 0).wf = false ∧
  (Instr.lshCapNextCommit 64).wf = false ∧
  (Instr.powerEmergency 4 0).wf = false ∧
  (Instr.throttleStart 256 0).wf = false ∧
  (Instr.throttleStep 4 []).wf = false ∧
  (Instr.thermalEmergency 3 0 0).wf = false ∧
  (Instr.arrayWatchdog 256).wf = false ∧
  (Instr.sramUncorrectable 256).wf = false ∧
  (Instr.arraySelftestDone 256 false 0).wf = false ∧
  (Instr.dramStackFailed 24 0).wf = false ∧
  (Instr.dramStackFailed 0 3).wf = false ∧
  (Instr.fwFault 8 0).wf = false ∧
  (Instr.scnClearCmd 64).wf = false ∧
  (Instr.scnCtrlWrite 64 0).wf = false ∧
  (Instr.houndBind 64 0).wf = false ∧
  (Instr.houndBind 0 256).wf = false ∧
  (Instr.houndUnbind 64 0).wf = false ∧
  (Instr.houndUnbind 0 256).wf = false ∧
  (Instr.houndImageLoaded 256 none).wf = false ∧
  (Instr.hndMbCmdTail 16 0 []).wf = false ∧
  (Instr.hndMbReplyHead 16 0 []).wf = false ∧
  (Instr.hndTqHead 256 0 []).wf = false ∧
  (Instr.hndFqLoad 256 0 []).wf = false ∧
  (Instr.hndFqStore 256 0 []).wf = false ∧
  (Instr.hndFqAtomic 256 0 []).wf = false ∧
  (Instr.hndFqFence 256 0 []).wf = false ∧
  (Instr.ecallExit 16 0 []).wf = false ∧
  (Instr.ecallWait 16 0 []).wf = false ∧
  (Instr.houndWake 16).wf = false ∧
  (Instr.houndFault 256 0 0 0 0 0).wf = false ∧
  (Instr.houndFault 0 16 0 0 0 0).wf = false ∧
  (Instr.houndFault 0 0 6 0 0 0).wf = false ∧
  (Instr.houndFault 0 0 0 0 0 0).wf = false := by decide

theorem test_wf_refuses_6 :
  (Instr.namedTickAction 23).wf = false ∧
  (Instr.namedTickAction 0).wf = false ∧
  (Instr.inspectLevelStep 16).wf = false ∧
  (Instr.inspectionRecord 16 [] []).wf = false ∧
  (Instr.inspectTimeout 16).wf = false ∧
  (Instr.entdaa 128).wf = false ∧
  (Instr.setmrl 65536).wf = false ∧
  (Instr.engineFault 0 16).wf = false ∧
  (Instr.hndRingBaseWrite 16 0 ⟨4, 0⟩ []).wf = false ∧
  (Instr.hndRingBaseWrite 0 0 ⟨2, 0⟩ []).wf = false := by decide

theorem test_wf_refuses_rest :
    (Instr.promptReadDone 4096 none).wf = false ∧ (Instr.appendReadDone 4096 none).wf = false ∧
      (Instr.dramUncorrectable 24 0 .program).wf = false ∧ (Instr.dramUncorrectable 0 16 .program).wf = false := by decide

theorem test_wf_takes_the_last_numbers :
    (Instr.mma 255).wf = true ∧ (Instr.dbSqTail 63 255 0).wf = true ∧ (Instr.admitReq (.mailbox 15)).wf = true ∧
      (Instr.deadlineMissed 4095).wf = true ∧ (Instr.flrVf 63).wf = true ∧ (Instr.bar0Write 63 0x3FFFFF8 8 0).wf = true := by decide

/-! ### The queue, reset, the pins and the tick -/

theorem test_no_word_spells_a_command : decodeTableWord 16 5 = none ∧ State.reset.withFetchWord 16 5 = State.reset := by decide

/-- A first power-up of a package without VIN6 leaves what `State.reset` holds. -/
theorem test_power_up_is_reset : powerUpOp { pins := { vinOk := false } } = State.reset.pkg := by decide +kernel

theorem test_wit_StepKeepsInv : StepInv State.reset ∧ step State.reset = .next State.reset := by
  refine ⟨by unfold StepInv; decide, rfl⟩

theorem test_wit_StepKeepsMemory :
    Memory.wf State.reset.pkg = true ∧ step State.reset = .next State.reset ∧
      Memory.wf (up fun p => { p with arrays := [(0, { data := { sram := [(3, 1)] } })] }).pkg = true ∧
      Memory.wf (up fun p => { p with arrays := [(0, { data := { sram := [(3, 0)] } })] }).pkg = false :=
  ⟨by decide +kernel, rfl, by decide +kernel, by decide +kernel⟩

theorem test_wit_ResetState : twf (0 : Byte) [(0, 1), (255, 2)] = true ∧ twf (0 : Byte) [] = true := by decide

/-- A state whose package is the one at reset but for its pins. -/
abbrev atPins (x : Pins) : State := { pkg := { State.reset.pkg with pins := x } }

theorem test_wit_ColdResetCommands :
    (atPins { vinOk := false }).pkg.pins.vinOk = false ∧ (after .powerUp (atPins { vinOk := false })).scn.powerCycles = 2 ∧
    (up id).pkg.pins.vinOk = true ∧ (up id).pkg.pins.auxHold = false ∧ (up id).pkg.pins.resetN = true ∧ (up id).pkg.pins.thermtripN = true ∧
      (after .vin6Lockout (up id)).glb = {} ∧
    (atPins { vinOk := false, resetN := true }).pkg.pins.resetN = true ∧
    (atPins { thermtripN := false, resetN := true }).pkg.pins.thermtripN = false := by decide +kernel

theorem test_wit_PinCommands :
    (atPins {}).pkg.pins.resetN = false ∧ (atPins {}).pkg.pins.vinOk = true ∧ (atPins {}).pkg.pins.auxHold = false ∧
      (atPins {}).pkg.pins.thermtripN = true ∧ (after .resetNRelease (atPins {})).pins.pwrGood = true ∧
    (atPins { resetN := true }).pkg.pins.perstN = false ∧ (after .perstRelease (atPins { resetN := true })).glb.hostLink = true ∧
    (after (.thermtrip 3) (atPins {})).lsh.tripDie = some 3 ∧
    (atPins { vinOk := false, thermtripN := false }).pkg.pins.vinOk = false ∧
      (after .thermtripLatchClear (atPins { vinOk := false, thermtripN := false })).pins.thermtripN = true := by decide +kernel

theorem test_wit_WarmResetByPerst :
    (up id).pkg.pins.perstN = true ∧ powered (up id).pkg = true ∧ (ctxOf (after .perstAssert (up id)) 255).gen = 2 ∧
      (after .perstAssert (up id)).tick.count = 5000 := by decide +kernel

/-- A package with a tick as given. -/
abbrev atTick (x : TickS) : State := up fun p => { p with tick := x }

/-- A plan of this chip, outside or in the master rack. -/
def plan1 (master : Bool) : Plan := { chip := 7, chips := [⟨7, 8, true, 0, master⟩] }

theorem test_wit_TickLockCommands :
    (atTick {}).pkg.tick.refclkOk = false ∧ powered (atTick {}).pkg = true ∧ (after .refclkOkSet (atTick {})).tick.refclkOk = true ∧
    (atTick { refclkOk := true, count := 9 }).pkg.tick.phaseLocked = false ∧
      (after .tickPhaseLock (atTick { refclkOk := true, count := 9 })).tick.count = 0 ∧
    (up id).pkg.tick.phaseLocked = true ∧ masterRack (up id).pkg = false ∧ (after .tickSyncEdge (up id)).tick.syncLast = 5000 ∧
    (atTick { phaseLocked := true, count := 20000 }).pkg.tick.count % 10000 = 0 ∧
      (after .tickSyncMiss (atTick { phaseLocked := true, count := 20000 })).tick.syncMiss = 1 ∧
    masterRack (up fun p => { p with fab := { p.fab with plan := some (plan1 true) } }).pkg = true ∧
      (after .tickSyncPhaseErr (up fun p => { p with fab := { p.fab with plan := some (plan1 true) } })).tick.phaseErr = 1 ∧
    (after (.refclkLost 0) (up id)).tick.holdover = true ∧ (after (.refclkLost 0) (up id)).mgt.stale = true ∧
    (atTick {}).pkg.tick.phaseLocked = false ∧
    (atTick { refclkOk := true, holdover := true }).pkg.tick.holdover = true ∧
      (after .refclkRelock (atTick { refclkOk := true, holdover := true, count := 8 })).tick.count = 8 := by decide +kernel

/-- A port in COLLAR and one in UP. -/
abbrev atPort (x : Port) : State := up fun p => { p with fab := { p.fab with ports := [(0, x)] } }

/-- The same plan with a link from port 0 to port 3 of chip 8. -/
def plan2 : Plan := { plan1 false with links := [{ a := 7, pa := 0, b := 8, pb := 3, rs544 := false, dlAB := false, dlBA := false, metres := 2 }] }

theorem test_wit_CountAndTimeCommands :
    (atTick { phaseLocked := true, refclkOk := true, pendingCount := some 30000 }).pkg.tick.pendingCount = some 30000 ∧
      (after .countLoad (atTick { phaseLocked := true, refclkOk := true, pendingCount := some 30000 })).tick.count = 30000 ∧
    (atTick { holdover := true, count := 10000, pendingCount := some 0 }).pkg.tick.count % 10000 = 0 ∧
      (after .countLoad (atTick { holdover := true, count := 10000, pendingCount := some 0 })).tick.setDelta = -10000 ∧
    (up id).pkg.tick.pendingCount = none ∧ (after .tickBoundary (up id)).tick.count = 5001 ∧
    ownEntry (up fun p => { p with fab := { p.fab with plan := some (plan1 false) } }).pkg = some ⟨7, 8, true, 0, false⟩ ∧
      (after (.timeExchange 4) (up fun p => { p with fab := { p.fab with plan := some (plan1 false) } })).tick.exchSeq = 1 ∧
    carriesControl (atPort { st := 3 }).pkg 0 = true ∧ (bs (2 :: List.replicate 151 0)).length = 152 ∧
      fieldAt (bs (2 :: List.replicate 151 0)) 0 1 = 2 ∧ fieldAt (bs (3 :: List.replicate 151 0)) 0 1 = 3 ∧
    (let s := up fun p => { p with
        tick := { p.tick with exchange := some (0, 4900) }, fab := { p.fab with plan := some plan2, ports := [(0, { st := ptUp })] } }
     carriesControl s.pkg 0 = true ∧ timePort s.pkg = some 0 ∧ s.pkg.tick.exchange = some (0, 4900) ∧ s.pkg.tick.count ≤ 4900 + 100 ∧
       (after (.timeResponse 0 (bs (3 :: List.replicate 151 0)) ⟨1, 0⟩) s).tick.exchange = none) ∧
    (up id).pkg.glb.ready = true ∧ (after (.tickCtrlWrite 0 0xFFFFFFF9) (up id)).tick.ctrl = 1 := by decide +kernel

/-! ### BAR0 -/

theorem test_wit_Bar0AccessRules :
    accessOk 2 4 = false ∧ accessOk 4 8 = false ∧ accessOk 0 2 = false ∧ accessOk 8 8 = true ∧ powered (up id).pkg = true ∧
      (up fun p => { p with glb := { p.glb with barInvalidAt := some 5000 } }).pkg.glb.barInvalidAt = some (now pk) ∧
      (up id).pkg.glb.barInvalidAt ≠ some (now (up id).pkg) ∧ (up id).pkg.scn.queue = [] ∧ (up id).pkg.scn.slots.length < 65536 ∧
      (tget {} (after (.bar0AccessInvalid 0 2 4) (up id)).scn.slots 0).code = 0x5120 ∧ runsReady (up id) := by decide +kernel

/-- A package that has written the lower half of LDR_ADDR. -/
abbrev heldState : State := up fun p => { p with glb := { p.glb with heldLow := [(0, some (0x800000, 7))] } }

/-- A package that is powered and has not locked yet. -/
abbrev notReady : State := up fun p => { p with glb := { p.glb with ready := false }, tick := {} }

theorem test_wit_Bar0Writes :
    runsReady (up id) ∧ runsReady heldState ∧ tget none heldState.pkg.glb.heldLow 0 = some (0x800000, 7) ∧
      (after (.bar0Write 0 0x800004 4 2) heldState).ldr.addr = 2 ^ 33 + 7 ∧ tget none (up id).pkg.glb.heldLow 0 = none ∧
    powered notReady.pkg = true ∧ notReady.pkg.glb.ready = false ∧ notReady.pkg.tick.phaseLocked = false ∧
      notReady.pkg.glb.selfTestDone = true ∧ accessOk 0x800000 8 = true ∧ (after (.bar0Write 0 0x800000 8 9) notReady).ldr.addr = 0 ∧
      (after (.bar0Write 0 0x220001C 4 9) notReady).scn.cursor = 9 ∧
    0x800000 / 0x100000 ≠ 0 ∧ 0x800000 / 0x100000 ≠ 1 ∧ 0x800000 / 0x100000 ≠ 34 ∧
    (after (.bar0Write 0 0x100000C 4 2000) (up id)).fab.loadTimeout = 2000 ∧
      (after (.bar0Write 0 0x100000C 4 2001) (up id)).fab.loadTimeout = 200 := by decide +kernel

/-- Offset 0x800000 lies in no context's block, nor do its neighbours of 4 bytes. -/
theorem test_wit_VfReachesItsContextsAlone :
    powered (up fun p => { p with numVfs := 1 }).pkg = true ∧ (1 : Nat) ≤ (up fun p => { p with numVfs := 1 }).pkg.numVfs ∧ (1 : Nat) ≠ 0 ∧
      (∀ o, (o = 0x800000 ∨ o = 0x800000 + 4 ∨ o + 4 = 0x800000) → inCtxArea o = true →
        reaches (up fun p => { p with numVfs := 1 }).pkg 1 ((o - 0x400000) / 0x4000) = false) ∧
      ∀ o, (o = 0x800000 ∨ o = 0x800000 + 4 ∨ o + 4 = 0x800000) → inBindArea o = true →
        reaches (up fun p => { p with numVfs := 1 }).pkg 1 ((o - 0x2101000) / 0x40) = false := by
  refine ⟨by decide, by decide, by decide, ?_, ?_⟩ <;>
  · rintro o (h | h | h)
    all_goals
      obtain rfl : o = _ := by first | exact h | exact Nat.eq_sub_of_add_eq h
      decide +kernel

/-! ### The loader and the pens -/

/-- A package with pen 0 as given. -/
abbrev atPen (x : Pen) : State := up fun p => { p with pens := [(0, x)] }

/-- The same with a loader. -/
abbrev atLdr (l : Ldr) (x : Pen) : State := up fun p => { p with ldr := l, pens := [(0, x)] }

theorem test_wit_BindAndUnbindTaken :
    (let s := atLdr { addr := 0x1000, bytes := 4096 } { enable := true, st := penEmpty }
     runsReady s ∧ s.pkg.ldr.st ≠ 1 ∧ (penOf s.pkg 0).st = penEmpty ∧ cmdFail s.pkg = none ∧ (after (.bind 0 0) s).ldr.st = 1) ∧
    (runsReady (up id) ∧ (penOf (up id).pkg 15).st ≠ penEmpty ∧ (penOf (up id).pkg 15).st ∉ [penBound, penActive, penUnavail] ∧
      (after (.bind 0 15) (up id)).ldr.failCheck = 1) ∧
    (let s := atPen { enable := true, st := penUnavail }
     runsReady s ∧ (penOf s.pkg 0).st ∈ [penBound, penActive, penUnavail] ∧ (penOf (after (.unbind 0 0) s) 0).st = penUnbinding) ∧
    (let s := atLdr { st := 1 } {}
     runsReady s ∧ s.pkg.ldr.st = 1 ∧ (after (.bind 0 0) s).ldr.lost = true) := by decide +kernel

/-- An image of 4,096 bytes that begins with the magic, version 3. -/
def image3 : Bytes := imageMagic ++ bs [3, 0] ++ zeros 4086

theorem test_wit_ImageVersionRefused :
    (let s := atLdr { st := 1, op := 1, addr := 0x1000, bytes := 4096 } { enable := true, st := penBinding }
     s.pkg.ldr.st = 1 ∧ s.pkg.ldr.op = 1 ∧ cmdFail s.pkg = none ∧ image3.take 8 = imageMagic ∧
       fieldAt image3 8 2 ≠ (if (penOf s.pkg s.pkg.ldr.pen).compat then 3 else 4) ∧
       (after (.bindComplete (some image3) true) s).ldr.failOffset = 8) := by decide +kernel

theorem test_wit_LoaderCompletions :
    (let s := atLdr { st := 1, op := 1, addr := 0x1000, bytes := 4096 } { enable := true, st := penBinding }
     s.pkg.ldr.st = 1 ∧ s.pkg.ldr.op = 1 ∧ cmdFail s.pkg = none ∧ (after (.bindComplete none true) s).ldr.failCheck = 3) ∧
    (let s := atLdr { st := 1, op := 2 } { enable := true, st := penUnbinding }
     s.pkg.ldr.st = 1 ∧ s.pkg.ldr.op = 2 ∧ (penOf s.pkg s.pkg.ldr.pen).step = none ∧
       (penOf (after .unbindComplete s) 0).st = penEmpty) := by decide +kernel

/-- An image of one segment with the words given. -/
def img (ws : List Nat) : Image :=
  { segs := [{ wordCount := ws.length }], words := ws, barriers := [{ members := 1 }, { members := 1, gate := true }], recs := [{}] }

/-- Pen 0 ACTIVE, in a step that has been released, and array 0 running its segment. -/
abbrev running (i : Image) (t : Step) (r : SegRun) (d : ArrData) : State :=
  up fun p => { p with
    pens := [(0, { enable := true, arrays := 1, st := penActive, image := some i, step := some { t with released := true, setupDone := true } })]
    arrays := [(0, { pen := 1, served := 1, runs := [{ r with started := true }], data := d })] }

theorem test_wit_PenCommands :
    (let s := atPen { stageMib := 512, dramMib := 884736, nvShards := 256 }
     s.pkg.glb.ready = true ∧ bitOf (3 : Word32).toNat 0 = true ∧ (penOf s.pkg 0).st = penDisabled ∧ (penOf s.pkg 0).enable = false ∧
       budgetsFit s.pkg 0 (penOf s.pkg 0) = true ∧ (penOf s.pkg 0).arrays ≤ poolSize s.pkg) ∧
    (let s := atPen { enable := true, st := penEmpty }
     bitOf (0 : Word32).toNat 0 = false ∧ (penOf s.pkg 0).st = penEmpty ∧ (penOf (after (.penDisable 0 0 0) s) 0).enable = false) ∧
    (let s := atPen { enable := true, st := penBound }
     (penOf s.pkg 0).st ≠ penEmpty ∧ (penOf s.pkg 0).st ≠ penDisabled ∧ (penOf (after (.penDisable 0 0 0) s) 0).budgetRefused = true) ∧
    (budgetRange 0x18 = some (8191, 1, 4096) ∧ (penOf (after (.penBudgetWrite 0 0 (penBase 0 + 0x18) 4096) (up id)) 0).groupSize = 4096 ∧
      (penOf (after (.penBudgetWrite 0 0 (penBase 0 + 0x18) 4097) (up id)) 0).groupSize = 1) ∧
    (let s := up fun p => { p with pens := [(0, { enable := true, st := penBound, image := some (img []) })], arrays := [(0, { pen := 1 })] }
     fwRuns s.pkg = true ∧ mayActivate s.pkg 0 = true ∧ (penOf (after (.penActivate 0) s) 0).st = penActive ∧
       (penOf s.pkg 0).enable = true ∧ (penOf s.pkg 0).image = some (img []) ∧ (penOf s.pkg 0).replace = false) := by decide +kernel

/-! ### Step jobs -/

/-- A request of context 0 in pen 0 that is ready for a step. -/
def ready1 : Req := { st := rqDecode, gen := 1, promptRead := true, hist := [5], limit := 8, kvDone := 0, maxNew := 4 }

/-- A context that is ACTIVE with its rings. -/
def ctx1 : Ctx :=
  { enable := true, st := ctxActive, resident := true, sqBase := 0x1000, cqBase := 0x2000, eqBase := 0x3000, irq := 0x08010800 }

theorem test_wit_StepSetUp :
    (let s := up fun p => { p with
        pens := [(0, { enable := true, arrays := 1, st := penActive, image := some (img [8]), pool := { frameBytes := 65536, frames := 64, groups := 1, onStacks := [0] } })]
        arrays := [(0, { pen := 1, served := 1 })], ctxs := [(0, ctx1)], reqs := [(0, ready1)] }
     mayStart s.pkg 0 = true ∧ (penOf s.pkg 0).replace = false ∧ (penOf s.pkg 0).countEpoch = epochOf s.pkg ∧
       (fillStep s.pkg 0).2.placed ≠ [] ∧ (fillStep s.pkg 0).2.short = none ∧
       (stepNow (after (.stepSetupStart 0) s) 0).start = 5000) ∧
    (let s := atPen { step := some { start := 7 } }
     powered s.pkg = true ∧ (penOf s.pkg 0).step = some { start := 7 } ∧ (poolOf s.pkg 0).cowCopies = [] ∧
       (stepNow (after (.setupComplete 0) s) 0).earliest = 5001) := by decide +kernel

theorem test_wit_StepProgress :
    (let s := atPen { step := some { setupDone := true, stepX := true, t0 := 5000 }, pred := 40 }
     powered s.pkg = true ∧ (penOf s.pkg 0).step = some { setupDone := true, stepX := true, t0 := 5000 } ∧ (5000 : Nat) ≤ now s.pkg ∧
       (penOf (after (.stepRelease 0) s) 0).stepEnd = 5040) ∧
    (let s := up fun p => { p with
        pens := [(0, { image := some (img [8]), step := some { released := true, t0 := 5000 } })], arrays := [(0, { pen := 1, runs := [{}] })] }
     stepRuns s.pkg 0 = true ∧ segStart s.pkg 0 0 ≤ now s.pkg ∧ startable s.pkg 0 0 = some 0 ∧
       (runOf (arrOf (after (.segmentStart 0 0) s) 0)).started = true) ∧
    (let s := up fun p => { p with arrays := [(255, { pen := 1, runs := [{ started := true, held := true }, { seg := 1 }] })] }
     powered s.pkg = true ∧ maySwitch (arrOf s.pkg 255) = true ∧ (arrOf (after (.segmentSwitch 255) s) 255).active = 1) ∧
    (let s := running (img [8]) {} { waitFor := some (0, 1), arrs := [(0, 1)] } {}
     stepRuns s.pkg 0 = true ∧ 0 < (imageOf s.pkg 0).barriers.length ∧ ((imageOf s.pkg 0).barriers.getD 0 {}).gate = false ∧
       controlGate (imageOf s.pkg 0) 0 = false ∧ arrivedAll s.pkg 0 0 = true ∧
       (runOf (arrOf (after (.barrierComplete 0 0) s) 0)).waitFor = none) := by decide +kernel

/-- The state of a step held at the LAYER_END of layer 0, whose gate is barrier 1. -/
abbrev heldLayer (t : Step) : State :=
  running { img [0x148] with recs := [{ oSch := 3, clip := 2 }] } t { held := true, arrs := [(1, 1)] } {}

theorem test_wit_LayerDecisions :
    (let s := heldLayer {}
     stepRuns s.pkg 0 = true ∧ layerHeld s.pkg 0 0 = true ∧ inTrouble (recOf (imageOf s.pkg 0) (stepNow s.pkg 0) 0) {} = false ∧
       (imageOf s.pkg 0).routing = none ∧ (stepNow s.pkg 0).decided = [] ∧ gateOfLayer s.pkg 0 0 = 1 ∧
       tget 0 (stepNow (after (.layerDone 0 0) s) 0).barGen 1 = 1) ∧
    (let s := heldLayer { summary := [(0, { nConv := 1, ovf := 1 })] }
     let r := recOf (imageOf s.pkg 0) (stepNow s.pkg 0) 0
     layerHeld s.pkg 0 0 = true ∧ inTrouble r { tget {} (stepNow s.pkg 0).summary 0 with clip := r.clip, base := r.base } = true ∧
       r.wide = false ∧ r.oSch = 3 ∧ tget 0 (stepNow s.pkg 0).troubles 0 = 0 ∧ 0 < r.clip ∧
       tget 2 (stepNow (after (.layerDone 0 0) s) 0).clip 0 = 1) ∧
    (let s := heldLayer { summary := [(0, { nConv := 1, sat := 1 })] }
     layerHeld s.pkg 0 0 = true ∧ tget 0 (stepNow (after (.layerDone 0 0) s) 0).base 0 = 1) ∧
    (let s := heldLayer { summary := [(0, { nConv := 1, sat := 1 })], troubles := [(0, 1)] }
     layerHeld s.pkg 0 0 = true ∧ tget 0 (stepNow s.pkg 0).troubles 0 ≠ 0 ∧
       (stepNow (after (.layerDone 0 0) s) 0).widened = [0]) := by decide +kernel

theorem test_wit_LayerDecisions_done :
    (let s := running (img [0x58]) {} { ended := true } {}
     stepRuns s.pkg 0 = true ∧ allEnded s.pkg 0 = true ∧ allChosen (stepNow s.pkg 0) = true ∧
       (penOf (after (.stepDone 0) s) 0).stepCount = 1) := by decide +kernel

/-! ### Words of the arrays -/

/-- Array 0 before the word given. -/
abbrev atW (w : Nat) : State := running (img [w]) {} {} { rowMask := 1 }

/-- Both operands of the MMA of array 0 are there. -/
def mmaReady (p : Pkg) : Bool :=
  let w := nextWord p 0
  ((opdFrom p 0 (arrOf p 0).data (wM w) (wbits w 4 20 0) (mmaA w)).bind fun x =>
    opdFrom x.2 0 (arrOf p 0).data (wN w) (wbits w 4 20 0) (mmaB w)).isSome

/-- The keys of the FUSE2 of array 0 whose three operands are there. -/
def fuseKeys (p : Pkg) : Option Nat :=
  let w := nextWord p 0
  let d := (arrOf p 0).data
  let pb := sramGet d (32 * wbits w 12 15 0) 64
  let n1 := wbits w 4 20 0
  (opdFrom p 0 d (wM w) (wbits w 8 20 0) (fuseOpd pb 0)).bind fun x =>
    (fuseFrom x.2 0 d n1 (wbits w 8 20 0) false (fuseOpd pb 1)).bind fun y =>
      let keys := if n1 = 0 then (y.2.1.map fun g => headerKeys g.header).getD 0 else n1
      (fuseFrom y.2.2 0 d (wN w) (if wbits w 0 7 5 = 3 then keys / 2 else keys) true (fuseOpd pb 2)).map fun _ => keys

theorem test_wit_WordsCompute :
    (let s := atW (1 + 128 * 2 ^ 8 + 128 * 2 ^ 16)
     wM (nextWord s.pkg 0) ≤ 128 ∧ wN (nextWord s.pkg 0) ≤ 128 ∧ atWord s.pkg 0 1 = true ∧ mmaReady s.pkg = true) ∧
    (let s := atW (2 + 2 ^ 8)
     atWord s.pkg 0 2 = true ∧ fuseKeys s.pkg = some 0) ∧
    (let s := atW (2 + 2 ^ 8 + 2 ^ 16 + 128 * 2 ^ 32 + 2 ^ 64)
     atWord s.pkg 0 2 = true ∧ fuseKeys s.pkg = some 128) ∧
    (let s := atW (2 + 2 ^ 8 + 2 ^ 16 + 129 * 2 ^ 32 + 2 ^ 64)
     atWord s.pkg 0 2 = true ∧ fuseKeys s.pkg = some 129) ∧
    (let s := atW (3 + 2 ^ 8 + 2 ^ 16 + 3 * 2 ^ 24 + 127 * 2 ^ 32)
     atWord s.pkg 0 3 = true ∧ wbits (nextWord s.pkg 0) 0 26 24 = 3 ∧
       wbits (nextWord s.pkg 0) 4 6 0 + wN (nextWord s.pkg 0) / 2 ≤ 128 ∧
       (runOf (arrOf (after (.rowfn 0) s) 0)).pc = 1) := by decide +kernel

theorem test_wit_LoadWords :
    (let s := running { img [0x24 + 2 ^ 96] with streams := [] } {} {} {}
     loadOp s.pkg 0 = none) ∧
    (let s := atW (1 + 2 ^ 6 + 2 ^ 8 + 32 * 2 ^ 32 + 3 * 2 ^ 53)
     mmaOp s.pkg 0 = none) ∧
    (let s := up fun p => { p with
        pens := [(0, { step := some { released := true }, image := some (img [0x14 + 2 ^ 64 + 2 ^ 96]), bufs := [(0, { data := [(1, 9)], written := [(1, true)] })] })]
        arrays := [(0, { pen := 1, runs := [{ started := true }] })] }
     atWord s.pkg 0 4 = true ∧ wbit (nextWord s.pkg 0) 0 4 = true ∧ tget 0 (arrOf (after (.loadw 0) s) 0).data.sram 33 = 9) ∧
    (let s := atW 5
     atWord s.pkg 0 5 = true ∧ wbit (nextWord s.pkg 0) 0 4 = false ∧
       chanUnits s.pkg 0 (stepNow s.pkg 0) (runOf (arrOf s.pkg 0)) 0 0 = some [] ∧ (runOf (arrOf (after (.loada 0) s) 0)).pc = 1) := by
  decide +kernel

theorem test_wit_StoresWriteTheirPanel :
    (let s := atW (6 + 2 ^ 8)
     atWord s.pkg 0 6 = true ∧ wbit (nextWord s.pkg 0) 0 6 = false ∧ wbit (nextWord s.pkg 0) 0 4 = false) ∧
    (let s := atW (6 + 2 ^ 4 + 2 ^ 8)
     atWord s.pkg 0 6 = true ∧ wbit (nextWord s.pkg 0) 0 6 = false ∧ wbit (nextWord s.pkg 0) 0 4 = true ∧
       storesKv s.pkg 0 (nextWord s.pkg 0) = false) ∧
    (let s := running (img [6 + 2 ^ 6 + 2 ^ 8]) {} {} { rowL := [(0, 0x11223344)] }
     atWord s.pkg 0 6 = true ∧ wbit (nextWord s.pkg 0) 0 6 = true ∧ tget 0 (arrOf (after (.storeRowstate 0) s) 0).data.sram 4 = 0x44) ∧
    (let s := running (img [6 + 2 ^ 4 + 2 ^ 6 + 2 ^ 8]) {} {} { rowL := [(0, 0x11223344)] }
     wbit (nextWord s.pkg 0) 0 4 = true ∧ bufByte 0 0 (bufOf (after (.storeRowstate 0) s) 0 0) 7 = 0x11) ∧
    (let s := running { img [6 + 2 ^ 4 + 2 ^ 8] with relocs := [{ kind := 3 }] } {} {} { rowMask := 1 }
     atWord s.pkg 0 6 = true ∧ wbit (nextWord s.pkg 0) 0 6 = false ∧ storesKv s.pkg 0 (nextWord s.pkg 0) = true ∧
       (recOf (imageOf s.pkg 0) (stepNow s.pkg 0) 0).oSch ≠ 2 ∧ (runOf (arrOf (after (.store 0) s) 0)).pc = 1) := by decide +kernel

/-- A head of 128 value dimensions at the start of a page. -/
def head0 : HeadAt := { band := { layer := 0, head := 0, count := 1, group := 0, dk := 128, dv := 128 }, head := 0, ordinal := 0, off := 0 }

/-- 128 values of 1.0. -/
def ones : List Val := List.replicate 128 (.fin false 1 0)

/-- Token 1 of a page of 16 tokens (R319, Table 10-1): 1.0 is 0x38 in E4M3; in E2M1 it is 6.0 at the scale nearest 1/6, 0x23 in E4M3. -/
theorem test_wit_StoresWriteTheirPanel_pages :
    (let p := (up fun p => { p with pens := [(0, { enable := true })] }).pkg
     let i4 : Image := { img [] with kvK := 3, kvV := 3 }
     let i7 : Image := { img [] with kvK := 7, kvV := 7 }
     i4.kvK ≠ 7 ∧ i4.kvV ≠ 7 ∧ ones.length = 128 ∧ pageTokens (penOf p 0).compat = 16 ∧
       frameByte (putK p i4 0 0 head0 0 1 ones) 0 0 128 = 0x38 ∧ frameByte (putK p i7 0 0 head0 0 1 ones) 0 0 64 = 0x77 ∧ frameByte (putK p i7 0 0 head0 0 1 ones) 0 0 (16 * 64 + 8) = 0x23 ∧
       frameByte (putV p i4 0 0 0 head0 1 ones) 0 0 (16 * 128 + 1) = 0x38 ∧
       tget 0 (reqOf (putV p i7 0 0 0 head0 1 ones) 0).tail (tailKey 0 5 1) = 0x3F80 ∧
       (1 : Nat) % 16 ≠ 15 ∧ (15 : Nat) % 16 = 15 ∧ tget false (stepNow p 0).quantised (blockKey 0 0 1) = false) := by decide +kernel

theorem test_wit_MasksScoreAndSync :
    (let s := atW (7 + 126 * 2 ^ 8 + 2 * 2 ^ 16)
     atWord s.pkg 0 7 = true ∧ wbit (nextWord s.pkg 0) 0 4 = false ∧
       (arrOf (after (.maskset 0) s) 0).data.rowMask = 2 ^ 126 + 2 ^ 127) ∧
    (let s := running (img [7 + 2 ^ 4]) {} {} { sram := [(15, 1)] }
     atWord s.pkg 0 7 = true ∧ wbit (nextWord s.pkg 0) 0 4 = true ∧ (arrOf (after (.maskset 0) s) 0).data.rowMask = 2 ^ 120) ∧
    (atWord (atW 9).pkg 0 9 = true ∧ (runOf (arrOf (after (.score 0) (atW 9)) 0)).armed = true) ∧
    (atSync (atW 0x08).pkg 0 0 = true ∧ (runOf (arrOf (after (.syncDrain 0) (atW 0x08)) 0)).pc = 1) ∧
    (atSync (atW 0x18).pkg 0 1 = true ∧ (runOf (arrOf (after (.syncBarrier 0) (atW 0x18)) 0)).waitFor = some (0, 1)) ∧
    (atSync (atW 0x28).pkg 0 2 = true ∧ tget 0 (runOf (arrOf (after (.syncArrive 0) (atW 0x28)) 0)).arrs 0 = 1) ∧
    (atSync (atW 0x38).pkg 0 3 = true ∧ (runOf (arrOf (after (.syncWait 0) (atW 0x38)) 0)).waitFor = some (0, 1)) ∧
    (atSync (atW 0x48).pkg 0 4 = true ∧ (runOf (arrOf (after (.syncLayerEnd 0) (atW 0x48)) 0)).held = true) ∧
    (atSync (atW 0x58).pkg 0 5 = true ∧ (runOf (arrOf (after (.syncEnd 0) (atW 0x58)) 0)).ended = true) := by decide +kernel

/-! ### Expert exchange -/

/-- An image with one routing entry: 2 experts, 2 per member at most, panels of 128 rows. -/
def routedImg : Image :=
  { img [0x48] with
    recs := [{ oFmt := 3, oSch := 0 }]
    relocs := [{ bytes := 4096 }, { bytes := 4096 }, { bytes := 4096 }]
    routing := some { experts := 2, epm := 2, entries := [{ recvBuf := 1, combBuf := 2, outBuf := 0, recvGate := 0, combGate := 1 }] }
    recvCapacity := 128, nominal := 10 }

/-- Pen 0 with that image and a step as given, its markers and its count records. -/
abbrev routing1 (t : Step) (ms : List Mark) (rs : List CountRec) : State :=
  up fun p => { p with
    pens := [(0, { enable := true, st := penActive, image := some routedImg, step := some { t with released := true }, marks := ms, records := rs })]
    arrays := [(0, { pen := 1, runs := [{ started := true, arrs := [(0, 1), (1, 1)] }] })] }

theorem test_wit_CountRecords :
    onBoard (routing1 {} [] []).pkg 0 1 = true ∧ fieldAt (bs (List.replicate 19 0 ++ [1] ++ List.replicate 44 0)) 19 1 = 1 ∧
      zeroAt (bs (List.replicate 19 0 ++ [1] ++ List.replicate 44 0)) 19 5 = false ∧
    (penOf (after (.countRecord 0 1 (zeros 64)) (routing1 {} [] [])) 0).records.length = 1 ∧
    (penOf (after (.countRecord 0 1 (bs (List.replicate 19 0 ++ [1] ++ List.replicate 44 0))) (routing1 {} [] [])) 0).records = [] := by
  decide +kernel

/-- A record of zeros at exchange 0 is none that R201 discards. -/
theorem test_wit_CountRecords_good : ¬ badRecord (routing1 {} [] []).pkg 0 1 (zeros 64) := by
  unfold badRecord; decide +kernel

theorem test_wit_MarkersAndExchangeStores :
    onBoard (routing1 {} [] []).pkg 0 0 = true ∧
      (penOf (after (.freeMark 0 0 (5 + 2 ^ 32)) (routing1 {} [] [])) 0).marks = [⟨1, 0, 5, 1, false⟩] ∧
    routed (routing1 {} [] []).pkg 0 = true ∧
    (let p := (routing1 {} [] []).pkg
     entryOfHalf (stepNow p 0) (3 / 2) allGated = (0, false) ∧ exFormat p 0 0 false = (3, 0) ∧ segBytes 3 + scBytes 0 = 128 ∧
       (zeros 128).length = 128 ∧ (zeros 8).length % 8 = 0 ∧ zeros 8 ≠ [] ∧ 127 + (zeros 8).length / 8 ≤ (imageOf p 0).recvCapacity ∧
       8 * ((3 * 2 + 1) * (imageOf p 0).recvCapacity + 127) % 256 + (zeros 8).length ≤ 256 ∧
       (entryNow p 0 (entryOfHalf (stepNow p 0) (0 / max 1 (combHalf p 0)) (·.combined)).1).combBuf = 2 ∧
       4088 + (zeros 8).length ≤ ((imageOf p 0).relocs.getD 2 {}).bytes ∧ ((imageOf p 0).relocs.getD 2 {}).bytes < 4089 + (zeros 8).length) ∧
    bufByte 0 2 (bufOf (after (.combineStore 0 4088 (bs [1, 2, 3, 4, 5, 6, 7, 8])) (routing1 {} [] [])) 0 2) 4095 = 8 := by decide +kernel

/-- The exchange of half 0, one round of it sent. -/
def ex0 : Decided := { x := 1, entry := 0, half := 0, rounds := 1, wide := false, n := [1, 0], sent := 1 }

theorem test_wit_ExchangeGatesAndWatchdog :
    (let s := routing1 { stepX := true, decided := [ex0] } [⟨0, 0, 1, 0, true⟩] []
     routed s.pkg 0 = true ∧ (penOf s.pkg 0).step.isSome = true ∧ nextGated s.pkg 0 = some ex0 ∧ recvReady s.pkg 0 ex0 = true ∧
       tget 0 (stepNow (after (.recvGateComplete 0 0) s) 0).barGen 0 = 1) ∧
    (let d : Decided := { ex0 with gated := 1, released := 1, combineDue := 5000 }
     let s := routing1 { stepX := true, decided := [d] } [] []
     (stepNow s.pkg 0).decided.find? (fun d => decide (d.half = 0) && !d.combined) = some d ∧ d.combineDue ≠ 0 ∧ d.combineDue ≤ now s.pkg ∧
       tget 0 (stepNow (after (.combGateComplete 0 0) s) 0).barGen 1 = 1) ∧
    (let r : CountRec := { x := 0, member := 0, wide := false, earliest := 0, positionsIn := 0, counts := [], at_ := 4960 }
     let x : Pen := { enable := true, st := penActive, groupSize := 2, image := some routedImg, step := some {}, records := [r] }
     let s := up fun p => { p with pens := [(15, x)] }
     powered s.pkg = true ∧ 1 < (penOf s.pkg 15).groupSize ∧ (penOf s.pkg 15).step.isSome = true ∧ (penOf s.pkg 15).fenced = false ∧
       (penOf s.pkg 15).st ∈ [penBound, penActive, penUnavail] ∧ overdue s.pkg 15 = some (0, 1) ∧
       (penOf (after (.exchangeWatchdog 15) s) 15).fenced = true) := by decide +kernel

/-! ### The weight store -/

/-- An IMPRINT_SHARD descriptor of an OP: shard 7 of 32 bytes at host address 0x1000 (0 for a RETIRE), with digest zero. -/
def imprintRaw (op addr : Nat) : Bytes := bs [8] ++ zeros 7 ++ bs [op] ++ zeros 3 ++ toLE 4 7 ++ toLE 4 32 ++ zeros 4 ++ toLE 8 addr ++ zeros 32

/-- Context 0 with that descriptor next, an authorisation for it, and slots as given. -/
abbrev imprints (op addr : Nat) (slots : Tab Slot) : State :=
  up fun p => { p with
    ctxs := [(0, { ctx1 with reserved := 1, live := [{ type := 8, raw := imprintRaw op addr }] })]
    nvw := { p.nvw with slots := slots, auth := some ⟨9, 0, 256, 5000⟩ } }

/-- A slot of shard 7 whose payload is 32 zeros. -/
def zeroSlot (st : Nat) : Slot :=
  { shard := 7, length := 32, st := st, digest := sha256 (zeros 32), payload := zeros 32, crcs := blockCrcs (zeros 32), cycles := 99999 }

theorem test_wit_ImprintCommands :
    (let s := imprints 1 0x1000 []
     let d : Desc := { type := 8, raw := imprintRaw 1 0x1000 }
     due s.pkg (.ring 0) 8 = some d ∧ impOp d = 1 ∧ writeBar s.pkg 0 d = none ∧ imprintSlot s.pkg = some 0 ∧
       s.pkg.nvw.auth = some ⟨9, 0, 256, 5000⟩ ∧ (slotOf (after (.imprintWrite 0) s) 0).st = nvWriting) ∧
    (let s := imprints 1 0x1001 []
     writeBar s.pkg 0 { type := 8, raw := imprintRaw 1 0x1001 } = some stAlignmentInvalid) ∧
    (let d : Desc := { type := 8, raw := imprintRaw 2 0 }
     let s := imprints 2 0 [(255, { shard := 7, length := 32, st := nvBad, digest := zeros 32, cycles := 100000 })]
     due s.pkg (.ring 0) 8 = some d ∧ impOp d = 2 ∧ retireBar s.pkg 0 d = none ∧ (slotOf (after (.imprintRetire 0) s) 255).st = nvWorn) ∧
    (let i : Imprint := { ctx := 0, slot := 32, tag := 0, irq := false, sqIndex := 0, addr := 0, authId := 9, counted := true }
     let s := up fun p => { p with nvw := { p.nvw with slots := [(32, zeroSlot nvWriting)], imprints := [i], auth := some ⟨9, 0, 0, 5000⟩ } }
     fwRuns s.pkg = true ∧ writingOn s.pkg 1 = some i ∧ (zeros 32).length = (slotOf s.pkg 32).length ∧
       sha256 (zeros 32) = (slotOf s.pkg 32).digest ∧ (slotOf (after (.imprintWriteDone 1 (some (zeros 32))) s) 32).st = nvVerified ∧
       (after (.imprintWriteDone 1 none) s).nvw.auth = some ⟨9, 0, 1, 5000⟩) ∧
    (let s := imprints 1 0x1000 []
     s.pkg.nvw.auth = some ⟨9, 0, 256, 5000⟩ ∧ (5000 : Nat) ≤ now s.pkg ∧ (after .imprintAuthExpiry s).nvw.auth = none) := by decide +kernel

/-- A package with slots and replicas as given. -/
abbrev store1 (f : Nvw → Nvw) : State := up fun p => { p with nvw := f p.nvw }

/-- A host replica of the shard of `zeroSlot`. -/
def host7 : Replica := { shard := 7, length := 32, kind := 2, st := 1, hostAddr := 0x1000, digest := sha256 (zeros 32) }

theorem test_wit_SlotCommands :
    (let s := store1 fun n => { n with slots := [(64, zeroSlot nvUnverified)] }
     s.pkg.glb.ready = true ∧ s.pkg.nvw.verifyBusy = false ∧ s.pkg.nvw.verifyDoneLogged = false ∧ nvUsable s.pkg (64 / 32) = true ∧
       (after .nvVerifyStart s).nvw.verifyBusy = true ∧ (after .nvVerifyStart (up id)).nvw.verifyDoneLogged = true) ∧
    (let s := store1 fun n => { n with slots := [(64, zeroSlot nvUnverified)], verifyBusy := true }
     fwRuns s.pkg = true ∧ s.pkg.nvw.verifyBusy = true ∧
       (stackSlots (64 / 32)).find? (fun k => decide ((slotOf s.pkg k).st = nvUnverified)) = some 64 ∧
       sha256 (slotOf s.pkg 64).payload = (slotOf s.pkg 64).digest ∧ (slotOf (after (.nvSlotVerifyDone 64 true) s) 64).st = nvVerified ∧
       (slotOf (after (.nvSlotVerifyDone 64 false) s) 64).st = nvBad) ∧
    (let s := store1 fun n => { n with slots := [(0, zeroSlot nvBad)], replicas := [(1023, host7)] }
     fwRuns s.pkg = true ∧ repairable s.pkg 0 = true ∧ inStream s.pkg 0 = false ∧ nextReplica s.pkg 0 none = some 1023 ∧
       (slotOf (after (.nvRepairStart 0) s) 0).cycles = 100000) ∧
    (let s := store1 fun n => { n with slots := [(0, zeroSlot nvWriting)], replicas := [(3, host7), (9, host7)], repairs := [⟨0, 3, 0⟩] }
     s.pkg.nvw.repairs.find? (fun x => decide (x.slot = 0)) = some ⟨0, 3, 0⟩ ∧ nextReplica s.pkg 0 (some 3) = some 9 ∧
       (slotOf s.pkg 0).cycles < 100000 ∧ (slotOf (after (.nvRepairDone 0 (some (zeros 32))) s) 0).st = nvVerified ∧
       (after (.nvRepairDone 0 none) s).nvw.repairs = [⟨0, 9, 1⟩]) ∧
    (let s := store1 fun n => { n with slots := [(0, zeroSlot nvWriting)], repairs := [⟨0, 3, 1⟩] }
     nextReplica s.pkg 0 (some 3) = none ∧ (slotOf (after (.nvRepairDone 0 none) s) 0).st = nvBad) ∧
    (let s := store1 fun n => { n with slots := [(255, zeroSlot nvVerified)] }
     fwRuns s.pkg = true ∧ (slotOf s.pkg 255).st = nvVerified ∧ 31 < (slotOf s.pkg 255).length ∧
       lineOk s.pkg 2 0 = true ∧ lineOk s.pkg 3 0 = false ∧ lineOk s.pkg 4 1 = false ∧
       tget 0 (after (.nvUncorrectable 255 31 ⟨2, 0⟩) s).nvw.eccCorr 7 = 1 ∧ (after (.nvUncorrectable 255 31 ⟨3, 2⟩) s).nvw.retryOk = 1 ∧
       (slotOf (after (.nvUncorrectable 255 31 ⟨3, 4⟩) s) 255).st = nvBad) ∧
    (let s := store1 fun n => { n with slots := [(0, zeroSlot nvBad)], replicas := [(3, host7), (9, host7)], fetches := [⟨0, 0, 3⟩] }
     s.pkg.nvw.fetches.find? (fun x => decide (x.replica = 3)) = some ⟨0, 0, 3⟩ ∧
       (slotOf s.pkg 0).crcs[0 / 65536]? = some (crc32c (zeros 32)) ∧ (after (.nvBlockFetchDone 3 (some (zeros 32))) s).nvw.fetches = [] ∧
       nextReplica s.pkg 0 (some 3) = some 9 ∧ (after (.nvBlockFetchDone 3 none) s).nvw.fetches = [⟨0, 0, 9⟩]) ∧
    (powered (up id).pkg = true ∧ nvUsable (up id).pkg 7 = true) := by decide +kernel

theorem test_wit_ReplicaCommands :
    (runsReady (up id) ∧ (replicaOf (after (.replicaKindWrite 0 1023 2) (up id)) 1023).checking = true) ∧
    (let s := store1 fun n => { n with replicas := [(0, { kind := 1, checking := true, shard := 7, length := 32, digest := zeros 32 })] }
     let h := toLE 4 7 ++ toLE 4 32 ++ bs [3] ++ zeros 55
     fwRuns s.pkg = true ∧ (replicaOf s.pkg 0).kind = 1 ∧ (replicaOf s.pkg 0).st = 0 ∧ (replicaOf s.pkg 0).checking = true ∧
       (replicaOf (after (.replicaCheck 0 (some h)) s) 0).st = 1 ∧ (replicaOf (after (.replicaCheck 0 (some (zeros 64))) s) 0).st = 2) ∧
    (let s := store1 fun n => { n with replicas := [(0, { kind := 1, st := 1 })] }
     (replicaOf s.pkg 0).kind = 1 ∧ (replicaOf s.pkg 0).st = 1 ∧ (replicaOf (after (.replicaRecheck 0 none) s) 0).st = 0) ∧
    (let s := store1 fun n => { n with replicas := [(0, { host7 with st := 0, checking := true })] }
     (replicaOf s.pkg 0).kind = 2 ∧ (replicaOf s.pkg 0).st = 0 ∧ (replicaOf s.pkg 0).checking = true ∧
       (replicaOf (after (.replicaHostFetchDone 0 (some (zeros 32))) s) 0).st = 1 ∧
       (replicaOf (after (.replicaHostFetchDone 0 (some [])) s) 0).st = 2) ∧
    (let i : Image := { img [] with shards := [{ shard := 7, length := 32, reads := 1, digest := sha256 (zeros 32) }] }
     let x : Pen := { st := penActive, image := some i, cls := [1], step := some { replicas := [(0, 1)] } }
     let s := up fun p => { p with pens := [(0, x)], nvw := { p.nvw with replicas := [(0, host7), (5, host7)] } }
     fwRuns s.pkg = true ∧ tget none (stepNow s.pkg 0).slowDone 0 = none ∧ tget 0 (stepNow s.pkg 0).replicas 0 = 0 + 1 ∧
       tget none (stepNow (after (.slowerFetchDone 0 0 (some (zeros 32))) s) 0).slowDone 0 = some (zeros 32) ∧
       (replicaOf (after (.slowerFetchDone 0 0 (some (bs (1 :: List.replicate 31 0)))) s) 0).st = 2 ∧
       replicaAfter s.pkg ((imageOf s.pkg 0).shards.getD 0 {}) 0 = some 5 ∧
       tget 0 (stepNow (after (.slowerFetchDone 0 0 none) s) 0).replicas 0 = 6) := by decide +kernel

/-! ### Contexts -/

/-- Context 0 as given, with pen 0 enabled. -/
abbrev atCtx (x : Ctx) : State := up fun p => { p with ctxs := [(0, x)], pens := [(0, { enable := true })] }

/-- A context not yet enabled whose rings have their bases. -/
def ctx0 : Ctx := { sqBase := 0x1000, cqBase := 0x2000, eqBase := 0x3000 }

theorem test_wit_ContextEnableAndReset :
    (runsReady (atCtx ctx0) ∧ (1 : Word32).toNat % 2 = 1 ∧ (ctxOf (atCtx ctx0).pkg 0).st = ctxDisabled ∧ (ctxOf (atCtx ctx0).pkg 0).enable = false ∧
      (ctxOf (after (.ctxEnable 0 0 1) (atCtx ctx0)) 0).st = ctxActive) ∧
    ((ctxOf (after (.ctxEnable 0 0 0x101) (atCtx ctx0)) 0).enableErr = stPenUnavailable) ∧
    ((ctxOf (after (.ctxEnable 0 0 0x10001) (atCtx ctx0)) 0).enableErr = stPermission) ∧
    ((ctxOf (after (.ctxEnable 0 0 1) (atCtx { ctx0 with eqBase := 0 })) 0).enableErr = stAlignmentInvalid) ∧
    (runsReady (atCtx ctx1) ∧ (0 : Word32).toNat % 2 = 0 ∧ (ctxOf (atCtx ctx1).pkg 0).st = ctxActive ∧ (ctxOf (atCtx ctx1).pkg 0).enable = true ∧
      mayReset (atCtx ctx1) 0 ∧ (ctxOf (after (.ctxDisable 0 0 0) (atCtx ctx1)) 0).st = ctxResetting) ∧
    (let s := up fun p => { p with ctxs := [(255, { ctx1 with fn := 63 })], numVfs := 63 }
     reaches s.pkg 63 255 = true ∧ (63 : Nat) ≤ s.pkg.numVfs ∧ (ctxOf s.pkg 255).st ≠ ctxResetting ∧ mayReset s 255 ∧
       (ctxOf (after (.ctxCmdReset 63 255) s) 255).gen = 2) ∧
    (let s := atCtx { ctx1 with st := ctxResetting }
     (ctxOf s.pkg 0).st = ctxResetting ∧ entriesOf s.pkg 0 = [] ∧ (ctxOf (after (.contextResetDone 0 none) s) 0).st = ctxActive ∧
       (ctxOf (after (.contextResetDone 0 (some 1)) s) 0).st = ctxFaulted) := by decide +kernel

/-- One descriptor of TYPE 3. -/
def cancelRaw : Bytes := bs [3] ++ zeros 63

theorem test_wit_FunctionsAndHostErrors :
    (let s := up fun p => { p with ctxs := [(255, { ctx1 with fn := 63 })], numVfs := 63 }
     (1 : Nat) ≤ 63 ∧ (63 : Nat) ≤ s.pkg.numVfs ∧ (ctxOf s.pkg 255).fn = 63 ∧ (ctxOf s.pkg 255).st ≠ ctxResetting ∧ mayReset s 255 ∧
       (ctxOf (after (.flrVf 63) s) 255).st = ctxResetting ∧ s.pkg.glb.hostLink = true ∧ (62 : Nat) < (ctxOf s.pkg 255).fn ∧
       (ctxOf (after (.vfEnableClear 62) s) 255).fn = 0 ∧ (ctxOf (after (.vfEnableClear 63) s) 255).fn = 63) ∧
    ((atCtx ctx1).pkg.glb.hostLink = true ∧ (ctxOf (atCtx ctx1).pkg 0).fn = 0 ∧ (ctxOf (atCtx ctx1).pkg 0).st ≠ ctxResetting ∧ mayReset (atCtx ctx1) 0 ∧
      (ctxOf (after .flrPf (atCtx ctx1)) 0).gen = 2 ∧ (ctxOf (after (.hostLinkDown 3) (atCtx ctx1)) 0).faultCode = codeHostLinkDown ∧
      (ctxOf (after (.ringWriteFailed 0 2) (atCtx ctx1)) 0).st = ctxFaulted) ∧
    (let s := atCtx { ctx1 with reading := some (63, 1), sqHead := 63 }
     (ctxOf s.pkg 0).st = ctxActive ∧ s.pkg.glb.fwFault = false ∧ (ctxOf s.pkg 0).reading = some (63, 1) ∧ cancelRaw.length = 64 * 1 ∧
       behindFence (ctxOf s.pkg 0) = false ∧ fieldAt cancelRaw 0 1 ≠ 8 ∧ slotsFor (fieldAt cancelRaw 0 1) ≤ cqFree (ctxOf s.pkg 0) ∧
       (ctxOf (after (.descriptorFetchDone 0 (some cancelRaw)) s) 0).sqHead = 0 ∧
       (ctxOf (after (.descriptorFetchDone 0 none) s) 0).st = ctxFaulted) ∧
    (let s := atCtx { ctx1 with modTime := 10, modC := { unsig := 1, oldest := 4990 }, modE := { unsig := 1, oldest := 4990 } }
     modTimeUp s.pkg 0 true = true ∧ modTimeUp s.pkg 0 false = true) := by decide +kernel

theorem test_wit_Doorbells :
    reaches (atCtx ctx1).pkg 0 0 = true ∧ (ctxOf (atCtx ctx1).pkg 0).st = ctxActive ∧ (2 : Nat) ^ 6 ≤ (64 : Word32).toNat % 2 ^ 16 ∧
      (ctxOf (after (.dbSqTail 0 0 64) (atCtx ctx1)) 0).dbInvalid = true ∧
      (ctxOf (after (.dbSqTail 0 0 63) (atCtx ctx1)) 0).reading = some (0, 32) ∧
    (ctxOf (atCtx ctx0).pkg 0).st ≠ ctxActive ∧ (ctxOf (after (.dbEqHead 0 0 0) (atCtx ctx0)) 0).dbInvalid = true ∧
    (let s := atCtx { ctx1 with cqUsed := 64, eqUsed := 3, eqTail := 3, cqTail := 0 }
     ringSpan (2 ^ 6) 0 ((0 : Word32).toNat % 2 ^ 16) ≤ 64 ∧ (ctxOf (after (.dbCqHead 0 0 0) s) 0).cqUsed = 0 ∧
       ringSpan (2 ^ 6) 0 3 ≤ 3 ∧ (ctxOf (after (.dbEqHead 0 0 3) s) 0).eqUsed = 0 ∧
       (3 : Nat) < ringSpan (2 ^ 6) 0 4 ∧ (ctxOf (after (.dbEqHead 0 0 4) s) 0).dbInvalid = true) := by decide +kernel

/-! ### Descriptors and requests -/

/-- 64 descriptor bytes that begin as given. -/
def raw64 (l : List Nat) : Bytes := bs l ++ zeros (64 - l.length)

/-- Pen 0 in a state, with a pool of 64 frames. -/
def poolPen (st : Nat) : Pen :=
  { enable := true, arrays := 1, st := st, image := some (img [8]), pool := { frameBytes := 65536, frames := 64, groups := 1, onStacks := [0] } }

/-- Context 0 with one descriptor next, before a pen and a request of entry 0. -/
abbrev descOn (type : Nat) (l : List Nat) (x : Pen) (r : Req) : State :=
  up fun p => { p with
    ctxs := [(0, { ctx1 with reserved := 1, cqUsed := 1, live := [{ type := type, raw := raw64 l }] })], pens := [(0, x)], reqs := [(0, r)] }

/-- A descriptor that names entry 0 in its first generation. -/
def byHandle0 (type : Nat) (l : List Nat) : List Nat := [type, 0, 0, 0, 0, 0, 0, 0, 0, 16, 0, 0] ++ l

/-- The descriptor that stands next. -/
abbrev nextD (s : State) (type : Nat) : Option Desc := due s.pkg (.ring 0) type

theorem test_wit_RequestDescriptors_admit :
    (let s := descOn 1 [1] (poolPen penBound) {}
     (nextD s 1).isSome = true ∧ admitEarly s.pkg 0 (raw64 [1]) = some stLengthInvalid ∧ (after (.admitReq (.ring 0)) s).reqs = s.pkg.reqs) ∧
    (let l := [1, 0, 0, 0, 0, 0, 0, 0, 1, 0, 0, 0, 4, 0, 0, 0, 0, 16]
     let s := descOn 1 l (poolPen penBound) {}
     (nextD s 1).isSome = true ∧ admitEarly s.pkg 0 (raw64 l) = none ∧ freeEntryOf s.pkg = some 0 ∧ (penOf s.pkg (ctxOf s.pkg 0).pen).st ≠ penActive ∧
       (reqOf (after (.admitReq (.ring 0)) s) 0).st = rqAdmitting) ∧
    (let s := descOn 2 (byHandle0 2 []) (poolPen penActive) {}
     (nextD s 2).isSome = true ∧ entryOf s.pkg 0 4096 = none ∧ (after (.append (.ring 0)) s).reqs = s.pkg.reqs) ∧
    (let s := descOn 5 (byHandle0 5 []) (poolPen penActive) { ready1 with st := rqDone }
     (nextD s 5).isSome = true ∧ entryOf s.pkg 0 4096 = some 0 ∧ (reqOf s.pkg 0).st = rqDone ∧
       (after (.resume (.ring 0)) s).reqs = s.pkg.reqs) := by decide +kernel

theorem test_wit_RequestDescriptors_append :
    (let l := byHandle0 2 [1, 0, 0, 0, 0, 16]
     let s := descOn 2 l (poolPen penActive) ready1
     let b := raw64 l
     (nextD s 2).isSome = true ∧ entryOf s.pkg 0 (fieldAt b 8 4) = some 0 ∧ (reqOf s.pkg 0).st ≠ rqDraining ∧ (reqOf s.pkg 0).st ≠ rqDone ∧
       firstFail (headRsv b ++ [count21 b 12 1, hostAddrOk b 16 4, count21 b 24 0, rsv b 28 36]) = none ∧
       ((reqOf (after (.append (.ring 0)) s) 0).appends.map (·.count)) = [1]) ∧
    (let b := raw64 (byHandle0 3 [])
     let s := descOn 3 (byHandle0 3 []) (poolPen penActive) ready1
     let t := descOn 3 (byHandle0 3 []) (poolPen penActive) { ready1 with inStep := true }
     let u := descOn 3 (byHandle0 3 []) (poolPen penActive) { ready1 with st := rqDone }
     firstFail (headRsv b ++ [rsv b 12 52]) = none ∧ (nextD s 3).isSome = true ∧ entryOf s.pkg 0 (fieldAt b 8 4) = some 0 ∧ (reqOf s.pkg 0).turnEnded = false ∧
       (reqOf (after (.cancel (.ring 0)) s) 0).st = rqDone ∧ (after (.cancel (.ring 0)) s).rq.doneQ = [0] ∧
       (reqOf t.pkg 0).inStep = true ∧ (reqOf (after (.cancel (.ring 0)) t) 0).st = rqDraining ∧
       (reqOf u.pkg 0).st = rqDone ∧ (nextD u 3).isSome = true ∧ (after (.cancel (.ring 0)) u).reqs = u.pkg.reqs) := by decide +kernel

theorem test_wit_RequestDescriptors_pause :
    (let l := byHandle0 4 [254, 255, 255, 255]
     let s := descOn 4 l (poolPen penActive) ready1
     let t := descOn 4 l (poolPen penActive) { ready1 with inStep := true }
     let b := raw64 l
     (nextD s 4).isSome = true ∧ fieldAt b 12 4 ≠ 0xFFFFFFFF ∧ firstFail (headRsv b ++ [rsv b 16 48]) = none ∧
       (reqOf (after (.pause (.ring 0)) s) 0).st = rqPaused ∧ (reqOf (after (.pause (.ring 0)) s) 0).prev = rqDecode ∧
       (reqOf (after (.pause (.ring 0)) t) 0).pausePending = true) ∧
    (let l := byHandle0 5 []
     let s := descOn 5 l (poolPen penActive) ready1
     let t := descOn 5 l (poolPen penActive) { ready1 with st := rqPaused, prev := rqDecode, firstDl := 7, parts := [(0, .host 0)] }
     let b := raw64 l
     (nextD s 5).isSome = true ∧ firstFail (headRsv b ++ [rsv b 12 52]) = none ∧ (after (.resume (.ring 0)) s).reqs = s.pkg.reqs ∧
       (reqOf t.pkg 0).st = rqPaused ∧ hostKeys t.pkg 0 ≠ [] ∧ (reqOf (after (.resume (.ring 0)) t) 0).st = rqDecode ∧
       (reqOf (after (.resume (.ring 0)) t) 0).nextDl = 5007 ∧
       (reqOf (after (.resume (.ring 0)) t) 0).resumeD.isSome = true) := by decide +kernel

/-- SET_SAMPLING of entry 15 with TOP_K 64, TEMP 1.0, TOP_P 1.0, MIN_P 0, REP_PENALTY 1.0. -/
def samplingRaw (k : Nat) : List Nat :=
  [10, 0, 0, 0, 0, 0, 0, 0, 15, k, 0, 0, 0, 0, 128, 63, 0, 0, 128, 63, 0, 0, 0, 0, 0, 0, 128, 63]

theorem test_wit_OtherDescriptors :
    (let s := descOn 7 [7] (poolPen penActive) {}
     let t := descOn 7 [7, 0, 0, 0, 0, 0, 0, 0, 2] (poolPen penActive) {}
     (nextD s 7).isSome = true ∧ firstFail (headRsv (raw64 [7]) ++ [rsv (raw64 [7]) 9 55]) = none ∧
       (ctxOf (after (.fence 0) s) 0).fencePending = true ∧ fieldAt (raw64 [7, 0, 0, 0, 0, 0, 0, 0, 2]) 8 1 = 2 ∧
       (ctxOf (after (.fence 0) t) 0).fencePending = false ∧
       fenceReady s.pkg 0 = none ∧ (ctxOf s.pkg 0).st = ctxActive ∧
       (fenceReady (after (.fence 0) s) 0).isSome = true ∧
       (ctxOf (after (.fenceComplete 0) (up fun _ => after (.fence 0) s)) 0).records = 1) ∧
    (let l := [9, 0, 0, 0, 0, 0, 0, 0, 0, 16, 0, 0, 0, 0, 0, 0, 0x80, 0x0A, 4]
     let s := descOn 9 l (poolPen penActive) {}
     let b := raw64 l
     (nextD s 9).isSome = true ∧ firstFail (headRsv b ++ [hostAddrOk b 8 4096, rsv b 20 44]) = none ∧ fieldAt b 16 4 = 264832 ∧
       (ctxOf (after (.rollcall 0) s) 0).rollBusy = true ∧ (rollPending (after (.rollcall 0) s) 0).isSome = true ∧
       (ctxOf (after (.rollcallDone 0) (up fun _ => after (.rollcall 0) s)) 0).rollBusy = false) ∧
    (let s := descOn 10 (samplingRaw 64) (poolPen penActive) {}
     let t := descOn 10 (samplingRaw 65) (poolPen penActive) {}
     let b := raw64 (samplingRaw 64)
     let w (off : Nat) : Word32 := BitVec.ofNat 32 (fieldAt b off 4)
     (nextD s 10).isSome = true ∧ firstFail (headRsv b ++ [rsvHigh b 8 16, rsv b 10 2, count21 b 28 0, rsv b 32 32]) = none ∧ fieldAt b 9 1 = 64 ∧
       isFinite (w 12) = true ∧ fle 0#32 (w 12) = true ∧ flt 0#32 (w 16) = true ∧ fle (w 16) fOne = true ∧ fle 0#32 (w 20) = true ∧
       flt (w 20) fOne = true ∧ isPos (w 24) = true ∧ (tget {} (ctxOf (after (.setSampling (.ring 0)) s) 0).sampling 15).topK = 64 ∧
       (nextD t 10).isSome = true ∧ (ctxOf (after (.setSampling (.ring 0)) t) 0).sampling = []) ∧
    (let l := [6, 0, 0, 0, 0, 0, 0, 0, 0, 0, 0, 0, 0, 0, 0, 0, 136, 19, 0, 0, 0x68, 0x10]
     let s := descOn 6 l (poolPen penActive) {}
     let b := raw64 l
     (nextD s 6).isSome = true ∧ firstFail (headRsv b ++ [rsv b 24 40]) = none ∧ fieldAt b 16 4 = 5000 ∧ fieldAt b 20 4 = 4200 ∧
       (s.pkg.lsh.hints.filter fun x => decide (x.pen = 0 ∧ now s.pkg < x.stop)).length < 8 ∧
       (after (.hint 0) s).lsh.hints = [] ∧
       (nextD (descOn 6 [6] (poolPen penActive) {}) 6).isSome = true ∧
       (after (.hint 0) (descOn 6 [6] (poolPen penActive) {})).lsh = s.pkg.lsh) := by decide +kernel

/-- Pen 0 ACTIVE with its pool, context 0 and entry 0 as given. -/
abbrev atReq (r : Req) : State := up fun p => { p with ctxs := [(0, ctx1)], pens := [(0, poolPen penActive)], reqs := [(0, r)] }

theorem test_wit_RequestAndFetchEvents_requests :
    (let s := atReq { st := rqAdmitting, gen := 1, takenAt := 0, endSlot := true }
     let t := up fun p => { s.pkg with rq := { p.rq with admitHold := 5000 } }
     fwRuns t.pkg = true ∧ holdOver t.pkg 0 = true ∧ (reqOf (after (.admitHoldExpiry 0) t) 0).st = rqFree) ∧
    (let s := atReq { ready1 with st := rqPrefill, promptRead := false, hist := [], promptTokens := 1 }
     fwRuns s.pkg = true ∧ served s.pkg 0 = true ∧ (reqOf s.pkg 0).promptRead = false ∧
       (ctxOf (after (.promptReadDone 0 none) s) 0).faultCode = codeTokenReadFailed ∧
       badToken (vocabOf s.pkg 0) [1] = none ∧ prefixDiff s.pkg 0 [1] = none ∧
       (reqOf (after (.promptReadDone 0 (some [1])) s) 0).hist = [1] ∧
       badToken (vocabOf s.pkg 0) [2] ≠ none ∧ (reqOf (after (.promptReadDone 0 (some [2])) s) 0).endStatus = stFormatInvalid) ∧
    (let t : TokRead := { desc := {}, count := 1, maxNew := 2, addr := 0x1000, issued := true }
     let s := atReq { ready1 with appends := [t] }
     served s.pkg 0 = true ∧ (reqOf s.pkg 0).inStep = false ∧
       (reqOf s.pkg 0).appends.find? (fun t => t.issued && t.data.isNone) = some t ∧ badToken (vocabOf s.pkg 0) [1] = none ∧
       newFrames s.pkg 0 2 ≤ freeAdmit (poolOf s.pkg 0) ∧
       (reqOf (after (.appendReadDone 0 (some [1])) s) 0).hist = [5, 1] ∧ (reqOf (after (.appendReadDone 0 (some [1])) s) 0).limit = 11 ∧
       (reqOf (after (.appendReadDone 0 (some [1])) (atReq { ready1 with appends := [t], inStep := true })) 0).held = [{}]) ∧
    (let s := atReq { ready1 with nextDl := 5000, inStep := true, interval := 3 }
     liveReq (reqOf s.pkg 0) = true ∧ (reqOf s.pkg 0).nextDl ≤ now s.pkg ∧ (reqOf (after (.deadlineMissed 0) s) 0).late = true ∧
       (reqOf (after (.deadlineMissed 0) s) 0).nextDl = 5003) ∧
    (let s := atReq { ready1 with st := rqPaused, ttlExp := 5000 }
     (reqOf s.pkg 0).st = rqPaused ∧ (reqOf s.pkg 0).ttlExp ≤ now s.pkg ∧ (reqOf (after (.ttlExpiry 0) s) 0).endStatus = stTtlExpired) :=
  by decide +kernel

/-- A candidate record of step 0, slot 0, position 0, row 0, sender 0, with one candidate: token 1. -/
def cand1 : Bytes := bs [0, 0, 0, 0, 0, 0, 0, 1] ++ zeros 24 ++ bs [1, 0, 0, 0, 0, 0, 128, 63] ++ zeros 984

/-- A decode slot of entry 0. -/
def use0 : SlotUse := { entry := 0, first := 0, used := 1, select := true, dec := true }

/-- Pen 0 in a step that places entry 0 in slot 0. -/
abbrev fetching (t : Step) : State :=
  up fun p => { p with
    ctxs := [(0, ctx1)], reqs := [(0, { ready1 with inStep := true })]
    pens := [(0, { poolPen penActive with step := some { t with released := true, slots := [(0, some use0)], placed := [0], samples := [(0, {})] } })] }

theorem test_wit_RequestAndFetchEvents_fetch :
    (let s := fetching {}
     fwRuns s.pkg = true ∧ 0 < groupCount s.pkg 0 * (imageOf s.pkg 0).batchSlots ∧
       tget 0 (penOf (after (.slotWord 0 0 9) s) 0).slotWords 0 = 9 ∧
       bitsOf (9 : Word64).toNat 34 32 ≤ (imageOf s.pkg 0).positions ∧ (imageOf s.pkg 0).positions < bitsOf (6 * 2 ^ 32 : Word64).toNat 34 32 ∧
       after (.slotWord 0 0 (6 * 2 ^ 32)) s = s.pkg ∧ after (.slotWord 0 0 (7 * 2 ^ 32)) s = s.pkg ∧
       groupCount s.pkg 0 * (imageOf s.pkg 0).batchSlots ≤ 8 / 8 ∧ (after (.slotWord 0 8 9) s) = s.pkg ∧
       (penOf s.pkg 0).step.isSome = true ∧ fieldAt cand1 0 4 = (penOf s.pkg 0).groupStep % 2 ^ 32 ∧
       candCountBad s.pkg 0 cand1 = false ∧ candCountBad s.pkg 0 (bs [0, 0, 0, 0, 0, 0, 0, 65] ++ zeros 1016) = true ∧
       after (.candidateRecord 0 0 (bs [0, 0, 0, 0, 0, 0, 0, 65] ++ zeros 1016)) s = s.pkg ∧
       candIndex s.pkg 0 0 0 0 0 = 0 ∧ (stepNow (after (.candidateRecord 0 0 cand1) s) 0).cands.length = 1 ∧
       fieldAt (bs [1]) 0 4 ≠ (penOf s.pkg 0).groupStep % 2 ^ 32 ∧ (after (.candidateRecord 0 0 (bs [1])) s) = s.pkg) ∧
    (let s := fetching { cands := [candOf pk cand1] }
     tget none (stepNow s.pkg 0).slots 0 = some use0 ∧ candsIn s.pkg 0 0 use0 = true ∧ tget none (stepNow s.pkg 0).chosen 0 = none ∧
       (tget none (stepNow (after (.tokenSelect 0 0) s) 0).chosen 0).isSome = true) := by decide +kernel

/-! ### KV pages -/

/-- Context 0 with a host region of 1 MiB. -/
def ctxHost : Ctx := { ctx1 with hostAddr := 0x100000, hostMib := 1, hostMap := [(0, 64)] }

/-- The same with one pool and the request given. -/
abbrev pages (x : Ctx) (o : Pool) (r : Req) : State :=
  up fun p => { p with
    ctxs := [(0, x)], reqs := [(0, r)], pens := [(0, { poolPen penActive with pool := { (poolPen penActive).pool with copies := o.copies, cowCopies := o.cowCopies, tab := o.tab } })] }

theorem test_wit_PageCommands :
    (let s := pages { ctxHost with hostMap := [] } { tab := [(3, { busy := true, refs := 1 })], copies := [⟨0, 0, [0]⟩] } { ready1 with parts := [(0, .frame 3)] }
     fwRuns s.pkg = true ∧ runningCopy s.pkg 0 = some ⟨0, 0, [0]⟩ ∧ (ctxOf s.pkg (reqOf s.pkg 0).ctx).st = ctxActive ∧ isOut ⟨0, 0, [0]⟩ = true ∧
       tget .unheld (reqOf s.pkg 0).parts 0 = .frame 3 ∧ hostPlace (ctxOf s.pkg 0) (frameKib s.pkg 0) = some 0 ∧
       (poolOf s.pkg 0).swap = none ∧ goesOut s.pkg 0 ⟨0, 0, [0]⟩ 3 = true ∧
       tget .unheld (reqOf (after (.kvHostCopyDone 0 (some [])) s) 0).parts 0 = .host 0 ∧
       (ctxOf (after (.kvHostCopyDone 0 none) s) 0).faultCode = codeKvHostCopyFailed) ∧
    (let s := pages { ctxHost with hostMap := [] } { tab := [(3, { busy := true, refs := 2 })], copies := [⟨0, 0, [0]⟩] } { ready1 with parts := [(0, .frame 3)] }
     goesOut s.pkg 0 ⟨0, 0, [0]⟩ 3 = false ∧ (after (.kvHostCopyDone 0 (some [])) s).kvp.hostOut = 0) ∧
    (let s := pages ctxHost { tab := [(3, { busy := true, data := [(0, 5)] }), (63, { busy := true })], cowCopies := [(3, 63)] } ready1
     (3, 63) ∈ (poolOf s.pkg 0).cowCopies ∧ 3 ∉ ((poolOf s.pkg 0).cowCopies.map Prod.snd) ∧
       (tget {} (poolOf (after (.kvCowCopyDone 0 3) s) 0).tab 63).data = [(0, 5)]) ∧
    (let s := pages ctxHost {} { ready1 with st := rqSwapped, prev := rqDecode }
     let t := pages ctxHost {} { ready1 with st := rqSwapped, prev := rqDecode, parts := [(0, .host 0)] }
     (entriesOfPen s.pkg 0).filter (fun k => decide ((reqOf s.pkg k).st = rqSwapped)) = [0] ∧ mayReturn s.pkg 0 = true ∧ hostKeys s.pkg 0 = [] ∧
       (reqOf (after (.swapReturn 0) s) 0).st = rqDecode ∧ mayReturn t.pkg 0 = true ∧ hostKeys t.pkg 0 = [0] ∧
       (poolOf (after (.swapReturn 0) t) 0).copies = [⟨0, 4, [0]⟩]) ∧
    (let s := pages { ctxHost with resident := false } {} { ready1 with parts := [(0, .host 0)] }
     let t := pages { ctxHost with resident := false } {} ready1
     (poolOf s.pkg 0).swap = none ∧ takeRunnable s.pkg 0 = some 0 ∧ backEntries s.pkg 0 = [0] ∧ hostKeys s.pkg 0 ≠ [] ∧
       (reqOf s.pkg 0).pen < 16 ∧ backFits s.pkg 0 = true ∧
       (poolOf (after (.contextSwap 0) s) 0).swap = some (0, true) ∧
       takeRunnable t.pkg 0 = some 0 ∧ hostKeys t.pkg 0 = [] ∧ (entriesOf t.pkg 0).all (fun e => (reqOf t.pkg e).held.isEmpty) = true ∧
       swapCopies t.pkg 0 5 = false ∧ (ctxOf (after (.contextSwap 0) t) 0).resident = true) ∧
    (let s := up fun p => { p with
       ctxs := [(0, { ctxHost with resident := false }), (1, { ctxHost with blockedSince := 9, hostMap := [] })]
       reqs := [(0, { ready1 with parts := [(0, .host 0)] }), (1, { ready1 with ctx := 1, parts := [(0, .frame 3)] })]
       pens := [(0, { poolPen penActive with pool := { frameBytes := 65536, frames := 2, groups := 1, onStacks := [0], headroom := 1, tab := [(3, { busy := true })] } })] }
     takeRunnable s.pkg 0 = some 0 ∧ backFits s.pkg 0 = false ∧ takeBlocked s.pkg 0 = some 1 ∧
       (ctxOf (after (.contextSwap 0) s) 1).resident = false) := by decide +kernel

/-- The pen of the first clause copies out and no pen swaps. -/
theorem test_wit_PageCommands_alone :
    outAlone (pages { ctxHost with hostMap := [] } { tab := [(3, { busy := true, refs := 1 })], copies := [⟨0, 0, [0]⟩] }
      { ready1 with parts := [(0, .frame 3)] }).pkg 0 := by
  refine ⟨by decide, fun m => ?_⟩
  match m with
  | 0 => rfl
  | _ + 1 => rfl

/-! ### The Pack fabric -/

/-- A collar record with the PORT, CHIP, MINOR and MAJOR given. -/
def collar (minor major : Byte) : Bytes := bs [1, 0, 0, 0] ++ [minor, major] ++ zeros 146

theorem test_wit_CollarRecordEvaluated :
    (let s := atPort { st := ptCollar }
     powered s.pkg = true ∧ fieldAt (collar 0 3) 0 1 = 1 ∧ (portOf s.pkg 0).st = ptCollar ∧ (portOf s.pkg 0).held = 0 ∧ fieldAt (collar 0 3) 5 1 ≠ 4 ∧
       (portOf (after (.collarRecord 0 (collar 0 3)) s) 0).st = ptVersionHeld) ∧
    ∀ minor : Byte, fieldAt [1, 0, 0, 0, minor, 4] 5 1 = 4 ∧ fieldAt [1, 0, 0, 0, minor, 4] 4 1 = minor.toNat := by decide +kernel

/-- A data flit of 152 zero bytes with a sequence number, and the same with a broken CRC. -/
def flit (fseq : Nat) : Bytes := let b := toLE 4 fseq ++ zeros 152; b ++ toLE 4 (crc32c b)
def badFlit : Bytes := zeros 160

theorem test_wit_PortCommands_bring :
    (let s := atPort { st := ptDisabled, enable := false }
     let t := atPort { st := ptDown, enable := false }
     runsReady s ∧ bitOf (1 : Word32).toNat 0 = true ∧ (portOf s.pkg 0).st = ptDisabled ∧ s.pkg.fab.plan = none ∧
       (portOf (after (.portEnable 0 0 1) s) 0).st = ptDown ∧ (portOf t.pkg 0).st ≠ ptDisabled ∧
       (portOf (after (.portEnable 0 0 1) t) 0).enable = true ∧ bitOf (0 : Word32).toNat 0 = false ∧
       (portOf (after (.portEnable 0 0 0) t) 0).st = ptDisabled ∧
       powered t.pkg = true ∧ (portOf (after (.portLightDetect 0) t) 0).st = ptTraining) ∧
    (let s := atPort { st := ptTraining, phase := 3 }
     let t := atPort { st := ptTraining, phase := 4, fecFails := 2 }
     (portOf s.pkg 0).phase < 4 ∧ (portOf (after (.portTrainPhaseDone 0) s) 0).phase = 4 ∧ 4 ≤ (portOf t.pkg 0).phase ∧
       ticking s.pkg = true ∧ (portOf t.pkg 0).phaseAt + phaseLimit 4 ≤ now t.pkg ∧
       (portOf (after (.portTrainTimeout 0) t) 0).fecLockFail = true ∧ now s.pkg < (portOf s.pkg 0).phaseAt + phaseLimit 3 ∧
       after (.portTrainTimeout 0) s = s.pkg ∧ downDue s.pkg 0 0 8 = true ∧ (portOf (after (.portDown 0 ⟨0, 8⟩) s) 0).st = ptDown) ∧
    (let s := atPort { st := ptDown }
     let t := up fun p => { p with glb := { p.glb with opticsLost := [(0, true)] } }
     opticsUp s.pkg 0 = true ∧ opticsUp t.pkg 3 = false ∧ after (.portLightDetect 3) t = t.pkg) := by decide +kernel

theorem test_wit_PortCommands_link :
    (let s := atPort { st := ptMiscabled, collar := some (collar 0 4) }
     isHeld (portOf s.pkg 0).st = true ∧ (portOf s.pkg 0).collar = some (collar 0 4) ∧
       after (.collarRecord 0 (collar 0 4)) s = s.pkg ∧ (portOf (after (.portDown 0 ⟨0, 1⟩) s) 0).held = ptMiscabled) ∧
    (let s := atPort { st := ptUp, rxNext := 4095 }
     3 ≤ (portOf s.pkg 0).st ∧ wordLost false [5, 0, 0, 0] = true ∧ wordLost false [2, 0, 2, 0] = false ∧
       (portOf (after (.flitReceive 0 (flit 4095) [5, 0, 0, 0]) s) 0).rxBad = true ∧ flitSound badFlit = false ∧
       flitSound (flit 4095) = true ∧ flKind (flit 4095) = 0 ∧ flFseq (flit 4095) = (portOf s.pkg 0).rxNext ∧
       flFseq (flit 0) ≠ (portOf s.pkg 0).rxNext ∧ (portOf (after (.flitReceive 0 (flit 0) [0, 0, 0, 0]) s) 0).rxBad = true ∧
       (portOf (after (.flitReceive 0 (flit 4095) [0, 0, 0, 0]) s) 0).rxNext = 0 ∧
       (let t := atPort { st := ptUp, rxNext := 4095, rs544 := true, cwPos := 1, cwLost := true }
        (portOf (after (.flitReceive 0 (flit 4095) [0, 0, 0, 0]) t) 0).rxNext = 4095) ∧
       downDue { s.pkg with fab := { s.pkg.fab with ports := [(0, { st := ptUp, fecDown := true })] } } 0 3 0 = true ∧
       (portOf (after (.portDown 0 ⟨0, 1⟩) s) 0).downSticky = true) := by decide +kernel

/-- CRC-32C of the nine ASCII digits, the published check value. -/
theorem test_crc32c : crc32c (bs [0x31, 0x32, 0x33, 0x34, 0x35, 0x36, 0x37, 0x38, 0x39]) = 0xE3069283 := by decide +kernel

/-- SHA-256 of the string abc, the example of FIPS 180-4. -/
theorem test_sha256 : (sha256 (bs [0x61, 0x62, 0x63])).take 4 = bs [0xBA, 0x78, 0x16, 0xBF] := by decide +kernel

/-- A pen ACTIVE, with buffers of 4096 bytes in window 0, whose step of a group of two runs. -/
abbrev served0 : State :=
  up fun p => { p with
    pens := [(0, { enable := true, st := penActive, image := some routedImg, groupSize := 2, group := [(0, 2 ^ 31), (1, 2 ^ 31 + 1)], step := some {} })]
    fab := { p.fab with ports := [(0, { st := ptUp })] } }

/-- A packet of the firmware of chip 1. -/
def pktF (h : Hdr) (d : List Nat) : Bytes := pktBytes { h := { h with src := 1, srcId := 256 }, data := bs d }

/-- A load at an address, and a store and an ADD of 5 with SEQ 1. -/
def load8 (a : Nat) : Bytes := pktF { type := 1, addr := a } []
def store8 (a : Nat) : Bytes := pktF { type := 2, addr := a, runLen := 1, seq := 1 } [5, 0, 0, 0, 0, 0, 0, 1]
def add8 (a : Nat) : Bytes := pktF { type := 3, addr := a, atop := 1, seq := 1 } [5, 0, 0, 0, 0, 0, 0, 0]

theorem test_wit_RequestsAtTheirDestination_requests :
    carries served0.pkg 16 = true ∧ carries served0.pkg 0 = true ∧ pktSound (zeros 48) = false ∧
      (after (.packetLoad 0 (zeros 48)) served0).fab.e2eCrc = 1 ∧
    (let b := pktF { type := 1, epoch := 1 } []
     arrives served0 16 1 b ∧ (hdrOf b).epoch ≠ epochOf served0.pkg ∧ (after (.packetLoad 16 b) served0).fab.staleRx = 1) ∧
    (let b := pktF { type := 2, runLen := 1, seq := 0 } [5, 0, 0, 0, 0, 0, 0, 1]
     arrives served0 0 2 b ∧ (hdrOf b).epoch = epochOf served0.pkg ∧ applied (srcOf served0.pkg (hdrOf b).src) (hdrOf b).seq = true ∧
       (after (.packetStore 0 b) served0).fab.dupDrop = 1 ∧ arrives served0 0 1 (load8 4) ∧ (hdrOf (load8 4)).addr % 8 ≠ 0) ∧
    (let b := load8 4088
     arrives served0 0 1 b ∧ (hdrOf b).epoch = epochOf served0.pkg ∧ aligned (hdrOf b) = true ∧ hdrLegal b = true ∧
       fromFirmware (hdrOf b).srcId = true ∧ winOf (hdrOf b).addr < 2 ∧ bufBar served0.pkg (hdrOf b).addr (reqLen (hdrOf b)) = none) := by
  decide +kernel

theorem test_wit_RequestsAtTheirDestination_writes :
    (let b := store8 4088
     arrives served0 0 2 b ∧ aligned (hdrOf b) = true ∧ hdrLegal b = true ∧ (hdrOf b).runLen = 1 ∧
       applied (srcOf served0.pkg (hdrOf b).src) (hdrOf b).seq = false ∧ fromFirmware (hdrOf b).srcId = true ∧ winOf (hdrOf b).addr < 2 ∧
       bufBar served0.pkg (hdrOf b).addr (pktOf b).data.length = none ∧
       bufGet (after (.packetStore 0 b) served0) 0 0 4088 8 = bs [5, 0, 0, 0, 0, 0, 0, 1]) ∧
    (let b := add8 8
     let s := up fun _ => after (.packetAtomic 0 b) served0
     let m := pktF { type := 3, addr := 8, atop := 2, seq := 2 } [3, 0, 0, 0, 0, 0, 0, 0]
     arrives served0 0 3 b ∧ aligned (hdrOf b) = true ∧ hdrLegal b = true ∧ applied (srcOf served0.pkg (hdrOf b).src) (hdrOf b).seq = false ∧
       fromFirmware (hdrOf b).srcId = true ∧ winOf (hdrOf b).addr < 2 ∧ bufBar served0.pkg (hdrOf b).addr 8 = none ∧
       bufGet s.pkg 0 0 8 8 = bs [5, 0, 0, 0, 0, 0, 0, 0] ∧
       bufGet (after (.packetAtomic 0 m) s) 0 0 8 8 = bs [3, 0, 0, 0, 0, 0, 0, 0]) ∧
    (let b := pktF { type := 2, flag := true, size := 3, addr := 4 * 2 ^ 48 + 5 * 2 ^ 44, runLen := 1, seq := 1 } (List.replicate 32 0)
     arrives served0 0 2 b ∧ aligned (hdrOf b) = true ∧ hdrLegal b = true ∧ (hdrOf b).flag = true ∧ winOf (hdrOf b).addr = 4 ∧ spaceOf (hdrOf b).addr = 5 ∧
       (hdrOf b).addr % 2 ^ 40 = 0 ∧ (pktOf b).data.length = 32 ∧ (hdrOf b).srcId = 256 + spacePen (hdrOf b).addr ∧
       (members (penOf served0.pkg 0)).any (fun m => decide (m.2 = (hdrOf b).src)) = true ∧ (penOf served0.pkg 0).fenced = false ∧
       1 < (penOf served0.pkg 0).groupSize ∧ (penOf (after (.fenceNotice 0 b) served0) 0).fenced = true ∧
       (penOf (after (.fenceNotice 0 b) served0) 0).step = none) := by decide +kernel

/-- Pen 0 as above, with one outstanding transaction. -/
abbrev waits (h : Hdr) (x : Issuer) (f : Fab → Fab) : State :=
  up fun p => { p with
    pens := served0.pkg.pens
    fab := f { p.fab with ports := [(0, { st := ptUp })], txns := [⟨⟨h, []⟩, x, 4800, false⟩] } }

/-- The header of the probe's load of 8 bytes, and a response to it. -/
def probeH : Hdr := { type := 1, dst := 1, srcId := 511, tag := 8191 }
def probeR (st : Nat) (d : Byte) : Bytes := pktBytes { h := { type := 4, status := st, src := 1, srcId := 511, tag := 8191 }, data := List.replicate 8 d }

theorem test_wit_TransactionsAtTheirSource :
    (let s := waits probeH .probe id
     let t : Txn := ⟨⟨probeH, []⟩, .probe, 4800, false⟩
     let b := probeR stOk 9
     arrives s 0 4 b ∧ txnOf s.pkg (hdrOf b).tag = some t ∧ answers s.pkg (hdrOf b) t = true ∧ t.by_ = .probe ∧ s.pkg.fab.waiters = [] ∧
       (after (.loadResp 0 b) s).fab.probeData = List.replicate 8 9 ∧
       (after (.loadResp 0 (probeR stPermission 9)) s).fab.probeData = List.replicate 8 0xEE ∧
       (hdrOf (probeR stOk 9)).tag = 8191 ∧ txnOf served0.pkg (hdrOf b).tag = none ∧
       isFetch t.pkt.h = true ∧ t.at_ + s.pkg.fab.loadTimeout ≤ now s.pkg ∧
       (after (.loadTimeout 8191) s).fab.probeStatus = stRemoteTimeout) ∧
    (let s := up fun p => { p with fab := { p.fab with txns := [⟨⟨{ type := 2, dst := 1, srcId := 256, tag := 5, seq := 1 }, []⟩, .firmware, 3000, false⟩] } }
     (txnOf s.pkg 5).isSome = true ∧ (after (.storeTimeout 5) s).fab.txns = [] ∧ (after (.storeTimeout 5) s).fab.storeTimeouts = 1) ∧
    (let s := up fun p => { p with fab := { p.fab with fences := [⟨3, 0, [], false⟩] } }
     (fenceDue s.pkg 3).isSome = true ∧ (after (.fabricFenceComplete 3) s).fab.fences = [] ∧ fenceDue s.pkg 4 = none ∧
       after (.fabricFenceComplete 4) s = s.pkg) ∧
    (let s := up fun p => { p with fab := { p.fab with probeAddr := 2 ^ 52 + 4 } }
     let t := up fun p => { p with fab := { p.fab with probeAddr := 2 ^ 52 } }
     runsReady s ∧ bitOf (0x80000000 : Word32).toNat 31 = true ∧ s.pkg.fab.probeSt ≠ 1 ∧ s.pkg.fab.waiters = [] ∧
       (after (.pkfProbeGo 0 0x80000000) s).fab.probeStatus = stAlignmentInvalid ∧
       bitOf (0x80000000 : Word32).toNat 5 = false ∧ (after (.pkfProbeGo 0 0x80000000) t).fab.txns.length = 1) := by decide +kernel

theorem test_wit_TransitReachAndPlan :
    (let b := pktBytes { h := { type := 1, dst := 2, src := 1, srcId := 256, hops := 0 } }
     let c := pktBytes { h := { type := 1, dst := 2, src := 1, srcId := 256, hops := 1 } }
     (portOf served0.pkg 0).st = ptUp ∧ pktSound b = true ∧ (hdrOf b).dst ≠ chipNo served0.pkg ∧ (hdrOf b).hops = 0 ∧
       (after (.packetForward 0 b) served0).fab.hopDrop = 1 ∧ pktSound c = true ∧ (hdrOf c).hops ≠ 0 ∧
       (after (.packetForward 0 c) served0).fab.unreachable = 1) ∧
    (fwRuns served0.pkg = true ∧ isPeer served0.pkg 1 = true ∧ silent served0.pkg 1 100 = true ∧ probing served0.pkg 1 = false ∧
      served0.pkg.fab.txns.length < 8192 ∧ (after (.livenessProbe 1) served0).fab.txns.length = 1 ∧
      memberChip (penOf served0.pkg 0) 1 = some 1 ∧ 1 ≠ chipNo served0.pkg ∧ silent served0.pkg 1 500 = true ∧
      (penOf (after (.memberUnreached 0 1) served0) 0).st = penBound) ∧
    (let s := waits probeH .probe fun f => { f with heard := [(1, 4502)] }
     silent s.pkg 1 500 = false ∧ after (.memberUnreached 0 1) s = s.pkg) ∧
    (let s := up fun p => { p with fab := { p.fab with planNext := some (plan1 false) } }
     powered s.pkg = true ∧ s.pkg.fab.planNext = some (plan1 false) ∧ (portOf (after .planTakesEffect s) 15).st = ptDisabled ∧
       chipNo (after .planTakesEffect s) = 7) ∧
    (let s := up fun p => { p with fab := { p.fab with rrc := [(0, []), (1, []), (2, [])], rrcInvalAddr := 64, rrcInvalBytes := 64 } }
     runsReady s ∧ bitOf (1 : Word32).toNat 0 = true ∧ (after (.pkfRrcInvalidate 0 1) s).fab.rrc = [(0, []), (2, [])]) := by decide +kernel

/-! ### The Leash -/

/-- A package whose Leash is as given. -/
abbrev atLsh (x : Lsh) : State := up fun p => { p with lsh := x }

theorem test_wit_LeashUpdate :
    powered (atLsh {}).pkg = true ∧ (after (.leashTick {}) (atLsh {})).lsh.budget = 400 ∧
    (after (.leashTick {}) (atLsh { budget := 38000000, hard := some 1000 })).lsh.budget = 10000000 ∧
    (after (.leashTick {}) (atLsh { budget := 38000000, soft := 1000 })).lsh.budget = 38000000 - 400 ∧
    (after (.leashTick {}) (atLsh { trotPct := 0, floor_ := 900 })).lsh.floor_ = 0 ∧
    (let s := atLsh { floor_ := 900 }
     s.pkg.lsh.trotPct ≠ 0 ∧ trotActive s.pkg = false ∧ (after (.leashTick {}) s).lsh.floor_ = 500) ∧
    (let s := atLsh { budget := 38000000, trotUntil := 5001 }
     trotActive s.pkg = true ∧ (after (.leashTick { power := 3000000 }) s).lsh.floor_ ≤ 38000000 * 98 / 100) := by decide +kernel

/-- A cap command: WATTS, KIND and RAMP in their places. -/
def capVal (w k r : Nat) : Nat := w + k * 2 ^ 13 + r * 2 ^ 16

theorem test_wit_CapCommands :
    (let s := atLsh { nextVal := capVal 999 0 0 }
     let t := atLsh { nextVal := capVal 4200 1 2000 }
     let u := atLsh { nextVal := capVal 0 2 50 }
     runsReady s ∧ s.pkg.mgt.lease = false ∧ (after (.lshCapNextCommit 0) s).lsh.refusedSticky = true ∧
       (after (.lshCapNextCommit 0) (atLsh { nextVal := capVal 1 2 0 })).lsh.refusedSticky = true ∧
       (after (.lshCapNextCommit 0) (atLsh { nextVal := capVal 1000 0 49 })).lsh.refusedSticky = true ∧
       (after (.lshCapNextCommit 0) t).lsh.pending = some ⟨4200, 1, 2000, 0, 5000⟩ ∧
       (after (.lshCapNextCommit 0) u).lsh.pending = some ⟨0, 2, 50, 0, 5000⟩ ∧ bitOf t.pkg.lsh.nextVal 15 = false) ∧
    (let s := up fun p => { p with mgt := { p.mgt with lease := true } }
     runsReady s ∧ s.pkg.mgt.lease = true) ∧
    (let s := atLsh { pending := some ⟨1000, 0, 0, 0, 4999⟩ }
     let t := atLsh { pending := some ⟨1000, 1, 50, 0, 4999⟩, budget := 38000000 }
     (dueCap s.pkg 0).isSome = true ∧ (after .capSoftApplied s).lsh.soft = 1000 ∧ (dueCap t.pkg 1).isSome = true ∧
       (after .capHardApplied t).lsh.hard = some 1000 ∧ (after .capHardApplied t).lsh.budget = 10000000 ∧
       (after .capHardApplied t).lsh.ramp = 50) ∧
    (let u := up fun p => { p with tick := { p.tick with countSet := true }, lsh := { pending := some ⟨0, 2, 0, 5000, 4999⟩, hard := some 1000 } }
     (dueCap u.pkg 2).isSome = true ∧ (after .capReleaseApplied u).lsh.hard = none) := by decide +kernel

/-- P above a hard target for 1,000 ticks. -/
theorem test_wit_EmergenciesAndThrottles_over :
    (let s := atLsh { hard := some 1000, hardAt := 4000, hist := List.replicate 1000 { power := 1000001, arrayPower := 0, beats := [] } }
     overHard s.pkg = true ∧ (after (.powerEmergency 3 0) s).lsh.powerEm = some 5000) := by decide +kernel

theorem test_wit_EmergenciesAndThrottles :
    (let s := atLsh { budget := 38000000 }
     (after (.powerEmergency 2 3000) s).lsh.budget = 20000000 ∧ (after (.powerEmergency 2 3000) s).pins.alertN = false ∧
       (after (.thermalEmergency 2 0 100) s).lsh.thermalEm = some 5000 ∧ (after (.thermalEmergency 0 0 115) s).lsh.thermalEm = some 5000) ∧
    (let s := up fun p => { p with tick := { p.tick with count := 20000 }, lsh := { powerEm := some 10000, thermalEm := some 10001 } }
     emergency s.pkg = true ∧ (after .emergencyEnd s).lsh.powerEm = none ∧ (after .emergencyEnd s).lsh.thermalEm = some 10001) ∧
    (let s := atLsh { varr := [(3, 603)] }
     let t := atLsh { throttling := [(3, true)], varr := [(3, 603)], duty := [(3, 64)] }
     let u := atLsh { throttling := [(3, true)], varr := [(3, 600)], duty := [(3, 64)] }
     let v := atLsh { throttling := [(3, true)], varr := [(3, 603)], throttleAt := [(3, 4001)] }
     tget false s.pkg.lsh.throttling (arrayQuad 255) = false ∧ tget false (after (.throttleStart 255 105) s).lsh.throttling 3 = true ∧
       tget false t.pkg.lsh.throttling 3 = true ∧ tget false (after (.throttleStep 3 [102]) t).lsh.throttling 3 = false ∧
       tget 0 (after (.throttleStep 3 [103]) t).lsh.varr 3 = 600 ∧ tget 0 (after (.throttleStep 3 [103, 105]) u).lsh.duty 3 = 64 ∧
       tget 0 (after (.throttleStep 3 [103, 105]) u).lsh.cut 193 = 8 ∧ tget 0 (after (.throttleStep 3 [103, 105]) u).lsh.cut 192 = 0 ∧
       now v.pkg < tget 0 v.pkg.lsh.throttleAt 3 + 1000 ∧ after (.throttleStep 3 [103]) v = v.pkg) ∧
    (let b : BeatSample := ⟨255, 60⟩
     let l : Lsh := { rates := [(255, { bad := 9 })], rateTicks := 10000, varrSum := [(3, 9000000)], dutySum := [(3, 640000)] }
     let s := atLsh { l with beats := [(255, 9999)], beatsAt := [(255, 2 ^ 48 - 1)] }
     let t := atLsh { l with beats := [(255, 3009999)], beatsAt := [(255, 9999)] }
     let u := atLsh { l with beats := [(255, 9999)], rateAt := 4001 }
     allowedNs s.pkg 255 = 1000000 ∧ meanVarr s.pkg 255 = 900 ∧ breaksRate 900 60 1000000 10000 = true ∧ breaksRate 900 60 1000000 3000000 = false ∧
       (arrOf s.pkg 255).st = 0 ∧ mayQuarantine s 255 ∧ 1000 ≤ since s.pkg s.pkg.lsh.rateAt ∧ since u.pkg u.pkg.lsh.rateAt < 1000 ∧
       after (.beatRateCheck [b]) u = u.pkg ∧
       (after (.beatRateCheck [b]) (atLsh { beats := [(255, 9999)] })).arrays = s.pkg.arrays ∧
       (tget {} (after (.beatRateCheck [b]) t).lsh.rates 255).bad = 0 ∧
       (arrOf (after (.beatRateCheck [b]) s) 255).st = 1 ∧ (arrOf (after (.beatRateCheck [b]) s) 255).cause = 3) := by decide +kernel

/-! ### Faults and the Scent log -/

/-- A pool whose frame 3 is in use. -/
def busyPool : Pool := { frameBytes := 65536, frames := 64, groups := 1, onStacks := [0], tab := [(3, { busy := true, refs := 1 })] }

/-- Pen 0 in a step on array 255, with a request that holds frame 3. -/
abbrev busy : State :=
  up fun p => { p with
    ctxs := [(0, ctx1)], reqs := [(0, { ready1 with parts := [(0, .frame 3)] })], arrays := [(255, { pen := 1 })]
    pens := [(0, { poolPen penActive with step := some {}, place := [(0, 256)], bufStacks := [23], pool := busyPool })] }

theorem test_wit_FaultCommands_parts :
    (let s := up fun p => { p with glb := { ready := false } }
     powered s.pkg = true ∧ s.pkg.glb.selfTestDone = false ∧
       (after (.selfTestDone { hounds := 2 ^ 15, dram := 2 ^ 23 }) s).glb.ready = true ∧
       dramUsable (after (.selfTestDone { dram := 2 ^ 23 }) s) 23 = false) ∧
    ((arrOf busy.pkg 255).st = 0 ∧ mayQuarantine busy 255 ∧ (arrOf busy.pkg 255).pen = 0 + 1 ∧ stepUses busy.pkg 0 255 = true ∧ (penOf busy.pkg 0).groupSize ≤ 1 ∧
      (arrOf (after (.arrayWatchdog 255) busy) 255).st = 1 ∧ (penOf (after (.sramUncorrectable 255) busy) 0).step = none) ∧
    (let s := up fun p => { p with arrays := [(255, { st := 2, fails := 2 })] }
     let t := up fun p => { p with glb := { p.glb with warmAt := 5001 } }
     ¬ mayQuarantine t 255 ∧ (after (.arrayWatchdog 255) t).arrays = t.pkg.arrays ∧
     (arrOf s.pkg 255).st = 2 ∧ (arrOf s.pkg 255).st ≠ 0 ∧ (after (.arrayWatchdog 255) s).arrays = s.pkg.arrays ∧
       (arrOf (after (.arraySelftestDone 255 true 9) s) 255).st = 0 ∧ (arrOf (after (.arraySelftestDone 255 false 9) s) 255).st = 3) := by
  decide +kernel

theorem test_wit_FaultCommands_units :
    ((penOf busy.pkg 0).image.isSome = true ∧ frameUsers busy.pkg 0 3 = [0] ∧ liveReq (reqOf busy.pkg 0) = true ∧
      (reqOf (after (.dramUncorrectable 23 0 (.frame 3)) busy) 0).st = rqDone ∧
      ((imageOf busy.pkg 0).relocs.getD 0 {}).persist = false ∧ (penOf (after (.dramUncorrectable 0 0 (.buffer 0)) busy) 0).step = none ∧
      (penOf (after (.dramUncorrectable 0 0 .program) busy) 0).replace = true ∧
      dramUsable (after (.dramUncorrectable 23 0 .program)
        { busy with pkg := { busy.pkg with glb := { busy.pkg.glb with dramLines := [(23, List.replicate 64 4000)] } } }) 23 = false) ∧
    (dramUsable busy.pkg 23 = true ∧ 0 ∈ enabledPens busy.pkg ∧ usesStack busy.pkg 0 23 = true ∧
      dramUsable (after (.dramStackFailed 23 2) busy) 23 = false ∧ (penOf (after (.dramStackFailed 23 2) busy) 0).replace = true) ∧
    (let i : Image := { img [8] with chans := [{ feeder := 2 }], segs := [{ wordCount := 1, chanCount := 1 }] }
     let s := up fun p => { p with pens := [(0, { poolPen penActive with image := some i, step := some {}, place := [(0, 256)] })] }
     powered s.pkg = true ∧ 0 ∈ enabledPens s.pkg ∧ gathersIn s.pkg 0 3 = true ∧ (penOf s.pkg 0).groupSize ≤ 1) ∧
    fwRuns busy.pkg = true ∧ (after (.fwFault 7 9) busy).glb.ready = false := by decide +kernel

/-- A Scent log as given. -/
abbrev atScn (f : Scn → Scn) : State := up fun p => { p with scn := f p.scn }

theorem test_wit_ScentCommands :
    (let s := atScn fun x => { x with queue := [{ seq := 4 }], nextSeq := 5 }
     fwRuns s.pkg = true ∧ (after .scentQueueDrain s).scn.seqLast = 4 ∧ s.pkg.scn.slots.length < 65536 ∧
       after .scentQueueDrain (atScn fun x => { x with storedInTick := 16, queue := [{}] }) = (atScn fun x => { x with storedInTick := 16, queue := [{}] }).pkg) ∧
    (let a : ClearAuth := ⟨2, 6000, 1⟩
     let rs : Tab Rec := [(0, { seq := 1, prot := true }), (1, { seq := 2 }), (2, { seq := 3 })]
     let s := atScn fun x => { x with slots := rs, seqLast := 3, auth := some a, dropped := 7 }
     let t := atScn fun x => { x with slots := rs, seqLast := 3, auth := some { a with upto := 4 } }
     runsReady s ∧ s.pkg.scn.auth = some a ∧ clearsHeld s.pkg.scn < 8192 ∧ fromFirst s.pkg.scn a.upto ≤ fromFirst s.pkg.scn s.pkg.scn.seqLast ∧
       (after (.scnClearCmd 0) s).scn.clearResult = stOk ∧ (after (.scnClearCmd 0) s).scn.dropped = 0 ∧
       fromFirst t.pkg.scn t.pkg.scn.seqLast < fromFirst t.pkg.scn 4 ∧ (after (.scnClearCmd 0) t).scn.clearResult = stLengthInvalid ∧
       (up id).pkg.scn.auth = none ∧ (after (.scnClearCmd 0) (up id)).scn.clearResult = stPermission ∧
       (after .clearAuthExpiry s).scn.auth = some a ∧
       (after .clearAuthExpiry (atScn fun x => { x with auth := some { a with expiry := 5000 } })).scn.auth = none) ∧
    (after (.scnCtrlWrite 0 0x700) (up id)).scn.irqSev = 7 := by decide +kernel

theorem test_wit_ScentCommands_full :
    ∃ s : State, fwRuns s.pkg = true ∧ s.pkg.scn.queue = [{}] ∧ s.pkg.scn.storedInTick < 16 ∧ s.pkg.scn.policy = 0 ∧
      65536 ≤ s.pkg.scn.slots.length :=
  ⟨atScn fun x => { x with slots := List.replicate 65536 (0, {}), queue := [{}], policy := 0 }, by decide, rfl, by decide, rfl, by
    change 65536 ≤ (List.replicate 65536 ((0 : Nat), ({} : Rec))).length
    rw [List.length_replicate]⟩

/-! ### The Hound cores -/

/-- A binding that passes every check: core 15, 1 MiB of program memory, an image of 8 bytes. -/
def bind0 : HBind := { cores := 0x8000, memMib := 1, imageBytes := 8, entry := 6, imageAddr := 0x1000, hostAddr := 0x2000 }

/-- The binding of context 0 as given, with 64 frames of 64 KiB in its pen. -/
abbrev hound (x : HBind) : State :=
  up fun p => { p with ctxs := [(0, ctx1)], pens := [(0, poolPen penBound)], hnd := { binds := [(0, x)] } }

theorem test_wit_HoundBindings :
    (let s := hound bind0
     let t := hound { bind0 with entry := 8 }
     runsReady s ∧ reaches s.pkg 0 0 = true ∧ bindBar s.pkg 0 = none ∧ bindBar t.pkg 0 = some stLengthInvalid ∧
       (bindOf (after (.houndBind 0 0) t) 0).result = stLengthInvalid ∧
       (ctxOf s.pkg 0).st = ctxActive ∧ (penOf s.pkg (ctxOf s.pkg 0).pen).st = penBound ∧ bind0.cores ≠ 0 ∧
       (∀ k, k < 16 → bitOf bind0.cores k = true → houndUsable s.pkg k = true ∧ coreCtx s.pkg k = none) ∧ bind0.entry < bind0.imageBytes ∧
       ceilDiv (bind0.memMib * 1048576) (poolOf s.pkg 0).frameBytes ≤ freeAdmit (poolOf s.pkg 0) ∧
       (bindOf (after (.houndBind 0 0) s) 0).st = 1 ∧ (bindOf (after (.houndBind 0 0) s) 0).frames = upto 16 ∧
       bindBar (hound { bind0 with st := 2 }).pkg 0 = some stPermission) ∧
    (let s := hound { bind0 with st := 1, frames := [63] }
     fwRuns s.pkg = true ∧ (bindOf s.pkg 0).st = 1 ∧ (zeros 8).length = (bindOf s.pkg 0).imageBytes ∧
       (bindOf (after (.houndImageLoaded 0 (some (bs [1, 2, 3, 4, 5, 6, 7, 8]))) s) 0).st = 2 ∧
       tget 0 (bindOf (after (.houndImageLoaded 0 (some (bs [1, 2, 3, 4, 5, 6, 7, 8]))) s) 0).mem 7 = 8 ∧
       (coresOf (bindOf s.pkg 0))[0]? = some 15 ∧
       (tget {} (after (.houndImageLoaded 0 (some (bs [1, 2, 3, 4, 5, 6, 7, 8]))) s).hnd.harts 15).regs =
         [(10, some 0), (11, some 1), (96, some 0x100000006)] ∧
       (bindOf (after (.houndImageLoaded 0 none) s) 0).result = stPermission) ∧
    (let s := hound { bind0 with st := 2, frames := [63], mem := [(0, 1)] }
     (bindOf s.pkg 0).st ≠ 0 ∧ (bindOf (after (.houndUnbind 0 0) s) 0).mem = [] ∧
       (bindOf (after (.houndUnbind 0 0) s) 0).st = 0) := by decide +kernel

/-- A program that runs on core 15 of context 0, with its mailbox as given, after the accesses given. -/
abbrev runsOn (x : HCore) (m : Stores) (f : HBind → HBind) : State :=
  up fun _ => progStores (up fun p => { p with
    ctxs := [(0, ctx1)], pens := [(0, poolPen penActive)]
    hnd := { binds := [(0, f { bind0 with st := 2 })], cores := [(15, x)] } }).pkg 0 15 m

theorem test_wit_HoundRings :
    (let s := runsOn { cmdBase := 64, cmdHead := 63 } [.store (64 * 64) (raw64 (byHandle0 3 []))] id
     powered s.pkg = true ∧ runningOn s.pkg 15 = some 0 ∧ (2 : Nat) ^ 6 ≤ (64 : Word32).toNat % 2 ^ 16 ∧
       after (.hndMbCmdTail 15 64 []) s = progStores s.pkg 0 15 [] ∧ twf {} s.pkg.hnd.binds = true ∧ mailInside s.pkg 15 0 = true ∧
       latest (.hndMbCmdTail 15 0 []) s = true ∧ inMap (bindOf s.pkg 0) [] = true ∧ (ctxOf s.pkg 0).st = ctxActive ∧
       (hcoreOf s.pkg 15).fetchAt ≠ now s.pkg + 1 ∧ (hcoreOf s.pkg 15).live = [] ∧ (63 + 1) % 2 ^ 6 = (0 : Word32).toNat % 2 ^ 16 ∧
       fieldAt (tgetList 0 (bindOf s.pkg 0).mem (64 + 64 * 63) 64) 0 1 ∈ [2, 3, 4, 5, 10] ∧
       (hcoreOf (after (.hndMbCmdTail 15 0 []) s) 15).cmdHead = 0 ∧ (hcoreOf (after (.hndMbCmdTail 15 0 []) s) 15).live.length = 1) ∧
    (let s := runsOn { reply := { log2 := 6, head := 60, used := 64, tail := 60 } } [] id
     ringSpan (2 ^ 6) 60 60 ≤ 64 ∧ (hcoreOf (after (.hndMbReplyHead 15 60 []) s) 15).reply.used = 0 ∧
       (hcoreOf (after (.hndMbReplyHead 15 3 []) s) 15).reply.used = 57 ∧ (2 : Nat) ^ 6 ≤ (64 : Word32).toNat % 2 ^ 16 ∧
       (hcoreOf (after (.hndMbReplyHead 15 64 []) s) 15).reply.head = 60) ∧
    (let s := runsOn {} [] fun b => { b with tq := { log2 := 8, used := 2, tail := 2 } }
     programRuns s.pkg 0 = true ∧ ringSpan (2 ^ 8) 0 2 ≤ 2 ∧ (bindOf (after (.hndTqHead 0 2 []) s) 0).tq.used = 0 ∧
       (2 : Nat) ^ 8 ≤ (256 : Word32).toNat % 2 ^ 16 ∧ (bindOf (after (.hndTqHead 0 256 []) s) 0).tq.used = 2) ∧
    (let s := runsOn {} [] id
     (hcoreOf (after (.hndRingBaseWrite 15 0 ⟨8, 4096⟩ []) s) 15).cmdBase = 4096 ∧ (hcoreOf (after (.hndRingBaseWrite 15 0 ⟨8, 4097⟩ []) s) 15).cmdBase = 0 ∧
       (hcoreOf (after (.hndRingBaseWrite 15 0x10 ⟨4, 12⟩ []) s) 15).cmdLog = 12 ∧ (hcoreOf (after (.hndRingBaseWrite 15 0x10 ⟨4, 13⟩ []) s) 15).cmdLog = 6 ∧
       (hcoreOf (after (.hndRingBaseWrite 15 4 ⟨4, 64⟩ []) s) 15).cmdBase = 64 * 2 ^ 32 ∧
       (hcoreOf (after (.hndRingBaseWrite 15 0xC ⟨4, 64⟩ []) s) 15).reply.base = 64 * 2 ^ 32 ∧
       (bindOf (after (.hndRingBaseWrite 15 0x100000 ⟨8, 64⟩ []) s) 0).tq.base = 64 ∧
       (bindOf (after (.hndRingBaseWrite 15 0x100040 ⟨8, 64⟩ []) s) 0).fqBase = 64) := by decide +kernel

/-- A fabric command with its OP byte, its address and its DATA_OFF. -/
def fq64 (b0 addr off : Nat) : Bytes := bs [b0] ++ zeros 7 ++ toLE 8 addr ++ toLE 8 off ++ zeros 40

/-- The first word of the region that context 0 of this package exposes. -/
def peer0 : Nat := 0x48 * 2 ^ 44

theorem test_wit_HoundFabricCommands :
    (let s := runsOn {} [] id
     let go (op b0 a : Nat) (st : Option Nat) : Bool :=
       let p1 := modBind (progStores s.pkg 0 15 [.store 0 (fq64 b0 a 8)]) 0 fun x => { x with fqTail := 1 }
       decide (fieldAt (tgetList 0 (bindOf p1 0).mem 0 64) 0 1 % 8 = op ∧ (bindOf p1 0).fqBase + 64 * 2 ^ (bindOf p1 0).fqLog ≤ 1048576 ∧
         fqBar p1 0 (tgetList 0 (bindOf p1 0).mem 0 64) = st ∧ fqWaits p1 0 = false)
     powered s.pkg = true ∧ programRuns s.pkg 0 = true ∧ runner s.pkg 0 = 15 ∧ inMap (bindOf s.pkg 0) [.store 0 (fq64 1 peer0 8)] = true ∧
       fqTailOf 0 1 s % 2 ^ 16 = 1 ∧ (bindOf s.pkg 0).fq.length < 256 ∧ (1 : Word32).toNat % 2 ^ 16 < 2 ^ (bindOf s.pkg 0).fqLog ∧
       go 1 1 peer0 none = true ∧ go 1 1 (peer0 + 4) (some stAlignmentInvalid) = true ∧ go 1 1 0 (some stPermission) = true ∧ go 2 2 peer0 none = true ∧
       go 3 0x23 peer0 none = true ∧ go 3 3 peer0 (some stFormatInvalid) = true ∧ go 4 4 0 (some stFormatInvalid) = false) ∧
    (let s := runsOn {} [] id
     let load := after (.hndFqLoad 0 1 [.store 0 (fq64 1 peer0 8)]) s
     let bad := after (.hndFqLoad 0 1 [.store 0 (fq64 1 0 8)]) s
     let store := after (.hndFqStore 0 1 [.store 0 (fq64 2 peer0 8)]) s
     let atomic := after (.hndFqAtomic 0 1 [.store 0 (fq64 0x23 peer0 0)]) s
     let fence := after (.hndFqFence 0 1 [.store 0 (bs [4] ++ zeros 63)]) s
     (load.fab.txns.map fun t => (t.pkt.h.type, t.pkt.h.srcId)) = [(1, 0)] ∧ (bindOf load 0).fqHead = 1 ∧ (bindOf load 0).fq.length = 1 ∧
       tget 0 (bindOf bad 0).mem 2 = BitVec.ofNat 8 stPermission ∧ tget 0 (bindOf bad 0).mem 3 = 1 ∧ bad.fab.txns = [] ∧
       tget 0 (bindOf bad 0).mem 8 = 0xEE ∧
       (store.fab.txns.map fun t => (t.pkt.h.type, t.pkt.h.runLen)) = [(2, 1)] ∧ (atomic.fab.txns.map fun t => (t.pkt.h.type, t.pkt.h.atop)) = [(3, 1)] ∧
       (fence.fab.fences.map fun f => (f.srcId, f.index)) = [(0, 0)]) := by decide +kernel

theorem test_wit_HoundCalls :
    (let s := runsOn {} [] fun b => { b with cores := 0x8001 }
     let t := runsOn {} [] id
     runningOn s.pkg 15 = some 0 ∧ bitOf (bindOf s.pkg 0).cores 0 = true ∧ (hcoreOf s.pkg 0).exited = false ∧
       (bindOf (after (.ecallExit 15 7 []) s) 0).st = 2 ∧ (hcoreOf (after (.ecallExit 15 7 []) s) 15).exited = true ∧
       (∀ j, j < 16 → j ≠ 15 → bitOf (bindOf t.pkg 0).cores j = false) ∧ (bindOf (after (.ecallExit 15 259 []) t) 0).st = 3 ∧
       (bindOf (after (.ecallExit 15 259 []) t) 0).exitCode = 3 ∧
       (hcoreOf (after (.ecallWait 15 4294967294 []) t) 15).waitUntil = 5000 + 4294967294) ∧
    (let s := runsOn { waiting := true, waitUntil := 5000 } [] id
     let t := runsOn { waiting := true, waitUntil := 9000, woken := true } [] id
     let u := runsOn { waiting := true, waitUntil := 5001 } [] id
     (hcoreOf s.pkg 15).waiting = true ∧ (hcoreOf s.pkg 15).waitUntil ≤ now s.pkg ∧ (hcoreOf (after (.houndWake 15) s) 15).waitResult = 0 ∧
       tget none (tget {} (after (.houndWake 15) t).hnd.harts 15).regs 10 = some 1 ∧
       (hcoreOf (after (.houndWake 15) t) 15).waitResult = 1 ∧ now u.pkg < (hcoreOf u.pkg 15).waitUntil ∧ after (.houndWake 15) u = u.pkg) ∧
    (let s := runsOn {} [] id
     let q := after (.houndFault 0 15 1 2 0x80 0x90) s
     let r := after (.houndFault 0 15 4 2 0x80 0x90) s
     bitOf (bindOf s.pkg 0).cores 15 = true ∧ (bindOf s.pkg 0).st = 2 ∧ (bindOf q 0).st = 4 ∧ (bindOf q 0).fault = 2 + 256 * 15 + 4096 ∧
       houndUsable q 15 = true ∧ houndUsable r 15 = false ∧ (ctxOf q 0).st = ctxActive ∧
       ringOutside s.pkg 0 15 = false ∧ (after (.houndFault 0 15 5 2 0x80 0x90) s).hnd = s.pkg.hnd) ∧
    (let s := runsOn { cmdBase := 1048576 } [] id
     ringOutside s.pkg 0 15 = true ∧ (bindOf (after (.houndFault 0 15 5 2 0x80 0x90) s) 0).st = 4) := by decide +kernel

/-! ### Management -/

/-- The 32 bytes of manager 0's message number 1 of term 1, with a byte that is reserved. -/
def headM (op tick n : Nat) (r : Byte) : Bytes :=
  bs [1, 0, 0, op, 1, 0, 0, 0] ++ toLE 8 1 ++ toLE 8 tick ++ toLE 2 n ++ [r] ++ zeros 5

/-- That message whole, with the MAC of a key of zeros. -/
def msgR (op tick : Nat) (r : Byte) (body : Bytes) : Bytes :=
  let h := headM op tick body.length r ++ body
  h ++ (hmac (zeros 32) h).take 16
abbrev msgM (op tick : Nat) (body : Bytes) : Bytes := msgR op tick 0 body

/-- A package whose keys are set to zeros and that manager 0 leads in term 1. -/
def mgtPk (p : Pkg) : Pkg := { p with mgt := { p.mgt with keyMask := 255, lease := true, term := 1 } }
abbrev mgtS (f : Pkg → Pkg) : State := { pkg := f (mgtPk pk) }

/-- What the checks of a message read of the package. -/
def ledBy0 (m : Mgt) : Prop := m.keys = [] ∧ m.keyMask = 255 ∧ m.seqHw = [] ∧ m.lease = true ∧ m.holder = 0 ∧ m.term = 1

theorem fieldAt_left {a b : Bytes} {off n : Nat} (h : off + n ≤ a.length) : fieldAt (a ++ b) off n = fieldAt a off n := by
  unfold fieldAt
  rw [List.drop_append_of_le_length (by omega), List.take_append_of_le_length (by simp; omega)]

theorem headM_length (op tick n : Nat) (r : Byte) : (headM op tick n r).length = 32 := by
  simp [headM, bs, toLE, zeros]

theorem headM_len (op tick n : Nat) (r : Byte) (h : n < 65536) : fieldAt (headM op tick n r) 24 2 = n := by
  simp [headM, bs, toLE, fieldAt, leNat]
  omega

theorem msgR_field {op tick off n : Nat} {r : Byte} {b : Bytes} (h : off + n ≤ 32) :
    fieldAt (msgR op tick r b) off n = fieldAt (headM op tick b.length r) off n := by
  have hl := headM_length op tick b.length r
  rw [msgR, List.append_assoc, fieldAt_left (by omega)]

theorem msgR_length (op tick : Nat) (r : Byte) (b : Bytes) : (msgR op tick r b).length ≤ 48 + b.length ∧ 32 + b.length ≤ (msgR op tick r b).length := by
  have hl := headM_length op tick b.length r
  simp only [msgR, List.length_append, List.length_take, hl]
  omega

theorem sha256_length (m : Bytes) : (sha256 m).length = 32 := by
  have key : ∀ (l : List Bytes) (h : List Nat), h.length = 8 → (l.foldl shaBlock h).length = 8 := by
    intro l
    induction l with
    | nil => exact fun _ hh => hh
    | cons x t ih => exact fun h _ => ih _ (by simp [shaBlock, upto])
  have four : ∀ n : Nat, (toBE 4 n).length = 4 := fun n => by simp [toBE, toLE]
  simp only [sha256, List.length_flatMap, four, List.map_const']
  rw [List.sum_replicate_nat, key _ _ (by decide +kernel)]

theorem msgR_mac {p : Pkg} (hk : p.mgt.keys = []) (op tick : Nat) (r : Byte) (b : Bytes) :
    (msgR op tick r b).length = 48 + b.length ∧ ((msgR op tick r b).drop (32 + b.length)).take 16 = macOf p 0 ((msgR op tick r b).take (32 + b.length)) ∧
      ((msgR op tick r b).drop 32).take b.length = b := by
  have hh := headM_length op tick b.length r
  have hkey : keyBytes p 0 = zeros 32 := by rw [keyBytes, hk]; decide
  have hw : (headM op tick b.length r ++ b).length = 32 + b.length := by rw [List.length_append, hh]
  have hm : (hmac (zeros 32) (headM op tick b.length r ++ b)).length = 32 := by rw [hmac, sha256_length]
  refine ⟨by simp only [msgR, List.length_append, List.length_take, hm, hh]; omega, ?_, ?_⟩
  · rw [msgR, ← hw, List.drop_left', List.take_left', List.take_take, macOf, hkey]
    · rfl
    · rfl
    · rfl
  · rw [msgR, List.append_assoc, List.drop_left' hh, List.take_left' rfl]

theorem headM_fields (op tick n : Nat) (r : Byte) (ho : op < 256) (ht : tick < 2 ^ 64) :
    fieldAt (headM op tick n r) 0 2 = 1 ∧ fieldAt (headM op tick n r) 2 1 = 0 ∧ fieldAt (headM op tick n r) 3 1 = op ∧
      fieldAt (headM op tick n r) 4 4 = 1 ∧ fieldAt (headM op tick n r) 8 8 = 1 ∧ fieldAt (headM op tick n r) 16 8 = tick := by
  simp [headM, bs, toLE, fieldAt, leNat]
  omega

theorem msgR_zeroAt (op tick : Nat) (r : Byte) (b : Bytes) : zeroAt (msgR op tick r b) 26 6 = decide (r = 0) := by
  have hl := headM_length op tick b.length r
  unfold zeroAt
  rw [msgR, List.append_assoc, List.drop_append_of_le_length (by omega), List.take_append_of_le_length (by simp; omega)]
  simp [headM, bs, toLE, zeros, allZero]

/-- The message is manager 0's and its MAC is right. -/
theorem msgR_authentic {p : Pkg} (h : ledBy0 p.mgt) {op tick : Nat} {r : Byte} {b : Bytes} (ho : op < 256) (ht : tick < 2 ^ 64)
    (hb : b.length < 65536) : authentic p (msgR op tick r b) = true := by
  obtain ⟨hk, hm, -⟩ := h
  obtain ⟨hl, hmac, -⟩ := msgR_mac hk op tick r b
  obtain ⟨-, f2, -⟩ := headM_fields op tick b.length r ho ht
  unfold authentic
  simp only [msgR_field (show 24 + 2 ≤ 32 by omega), msgR_field (show 2 + 1 ≤ 32 by omega), headM_len _ _ _ _ hb, f2, hmac]
  simp [keySet, hm]

/-- The fields of the message as the commands read them. -/
theorem msgR_cmd (op tick : Nat) (r : Byte) (b : Bytes) (ho : op < 256) (ht : tick < 2 ^ 64) (hb : b.length < 65536) :
    cmdOf .i3c (msgR op tick r b) = { path := .i3c, mgr := 0, op := op, seq := 1, term := 1, tick := tick, body := b } := by
  obtain ⟨-, f2, f3, f4, f8, f16⟩ := headM_fields op tick b.length r ho ht
  have hbody := (msgR_mac (p := {}) rfl op tick r b).2.2
  simp only [cmdOf, msgR_field (show 24 + 2 ≤ 32 by omega), msgR_field (show 2 + 1 ≤ 32 by omega), msgR_field (show 3 + 1 ≤ 32 by omega),
    msgR_field (show 8 + 8 ≤ 32 by omega), msgR_field (show 4 + 4 ≤ 32 by omega), msgR_field (show 16 + 8 ≤ 32 by omega), headM_len _ _ _ _ hb,
    f2, f3, f4, f8, f16, hbody]

theorem msgR_header (op tick : Nat) (r : Byte) (b : Bytes) (h1 : 1 ≤ op) (ho : op ≤ 0x16) (ht : tick < 2 ^ 64) :
    headerValid (msgR op tick r b) = decide (r = 0) := by
  obtain ⟨f0, f2, f3, -⟩ := headM_fields op tick b.length r (by omega) ht
  simp only [headerValid, msgR_field (show 2 + 1 ≤ 32 by omega), msgR_field (show 3 + 1 ≤ 32 by omega),
    msgR_field (show 0 + 2 ≤ 32 by omega), f0, f2, f3, msgR_zeroAt]
  simp [h1, ho]

/-- The message passes checks 1 to 5 of R455. -/
theorem msgM_take {p : Pkg} (h : ledBy0 p.mgt) {op tick : Nat} {b : Bytes} (h1 : 1 ≤ op) (ho : op ≤ 0x16) (ht : tick < 2 ^ 64)
    (hb : b.length ≤ 1024) : mgtVerdict p .i3c (msgM op tick b) = .take := by
  have ha := msgR_authentic h (r := 0) (show op < 256 by omega) ht (show b.length < 65536 by omega)
  have hc := msgR_cmd op tick 0 b (by omega) ht (by omega)
  have hh := msgR_header op tick 0 b h1 ho ht
  obtain ⟨hk, -, hs, hl, hho, hte⟩ := h
  have hlen := (msgR_mac hk op tick 0 b).1
  unfold mgtVerdict
  simp only [hc, ha, hh, hlen, msgR_field (show 24 + 2 ≤ 32 by omega), headM_len _ _ _ _ (show b.length < 65536 by omega), fromManager, frameTaken, hs, hl,
    hho, hte]
  by_cases h6 : op = 0x16 <;> simp [h6, tget, hb]

/-- The command of a manager names the tick in which it is sampled, and its body is as given. -/
theorem msgM_now {s : State} (hp : powered s.pkg = true) (h : ledBy0 s.pkg.mgt) (op : Nat) (b : Bytes) (h1 : 1 ≤ op) (ho : op ≤ 0x16)
    (hb : b.length ≤ 1024) : mgtNow s op .i3c (msgM op 0 b) ∧ mgtBody (msgM op 0 b) = b ∧ fieldAt (msgM op 0 b) 4 4 = 1 := by
  obtain ⟨-, -, f3, f4, -, f16⟩ := headM_fields op 0 b.length 0 (by omega) (by omega)
  refine ⟨⟨hp, ?_, msgM_take h h1 ho (by omega) hb, ?_⟩, ?_, ?_⟩
  · rw [msgR_field (by omega), f3]
  · rw [msgR_field (by omega), f16]
  · rw [mgtBody, msgR_field (by omega), headM_len _ _ _ _ (by omega), (msgR_mac (p := {}) rfl op 0 0 b).2.2]
  · rw [msgR_field (by omega), f4]

/-- The command that the message holds, as the meanings read it. -/
def cmdM (op tick : Nat) (body : Bytes) : PendCmd := { path := .i3c, mgr := 0, op := op, seq := 1, term := 1, tick := tick, body := body }

/-- The package after the command, when its message passes checks 1 to 5. -/
def acts (s : State) (op : Nat) (body : Bytes) : Pkg := opTake s.pkg (cmdM op 0 body)

/-- A reply with a status has been sent. -/
def said (q : Pkg) (st : Nat) : Bool := q.out.any fun o => match o with | .reply _ b => fieldAt b 26 1 == st | _ => false

theorem test_wit_ManagerMessageChecks_checks :
    (let s := mgtS id
     runsReady s ∧ fromManager s.pkg (.port 5) 0 = false ∧ after (.release (.port 5) (bs [1, 0, 0, 2])) s = s.pkg ∧
       (bs [1, 0, 0, 2]).length < 48 ∧ after (.release .i3c (bs [1, 0, 0, 2])) s = s.pkg) ∧
    (let s := up id
     let m := bs [1, 0, 0, 2] ++ zeros 44
     runsReady s ∧ fromManager s.pkg (.port 0) 0 = true ∧ 48 + fieldAt m 24 2 ≤ m.length ∧ authentic s.pkg m = false ∧
       (after (.release (.port 0) m) s).mgt.rxAuthFail = 1) := by decide +kernel

/-- A message that is not above the highest number, one with a reserved byte that is not zero, one without the lease, one that a check of its
own refuses, and one that names a later tick. -/
theorem test_wit_ManagerMessageChecks_refused :
    (∀ op : Nat, op ≠ 0x16 → 1 ≤ op → op ≤ 0x16 → fieldAt (msgM op 0 []) 3 1 = op ∧ (48 + fieldAt (msgM op 0 []) 24 2 ≤ (msgM op 0 []).length) ∧
      authentic (mgtS id).pkg (msgM op 0 []) = true ∧ fieldAt (msgM op 0 []) 8 8 = 1 ∧ headerValid (msgM op 0 []) = true ∧
      headerValid (msgR op 0 1 []) = false ∧ authentic (mgtS id).pkg (msgR op 0 1 []) = true ∧ fieldAt (msgR op 0 1 []) 8 8 = 1) ∧
    (mgtVerdict (mgtS id).pkg .i3c (msgM 0x12 0 (bs [16])) = .take ∧ opBar (mgtS id).pkg (cmdM 0x12 0 (bs [16])) = some stLengthInvalid ∧
      (acts (mgtS id) 0x12 (bs [16])).mgt.lastRefused = stLengthInvalid) ∧
    (mgtVerdict (mgtS id).pkg .i3c (msgM 0x10 6000 (bs [9])) = .take ∧ opBar (mgtS id).pkg (cmdM 0x10 6000 (bs [9])) = none ∧
      (mgtS id).pkg.tick.countSet = false ∧ (opTake (mgtS id).pkg (cmdM 0x10 6000 (bs [9]))).mgt.pending = [cmdM 0x10 6000 (bs [9])]) := by
  have led : ledBy0 (mgtS id).pkg.mgt := ⟨rfl, rfl, rfl, rfl, rfl, rfl⟩
  refine ⟨fun op _ h1 h2 => ?_, ?_, ?_⟩
  · have ho : op < 256 := by omega
    obtain ⟨-, -, f3, -, f8, -⟩ := headM_fields op 0 0 0 ho (by omega)
    obtain ⟨-, -, -, -, g8, -⟩ := headM_fields op 0 0 1 ho (by omega)
    refine ⟨?_, ?_, msgR_authentic led ho (by omega) (by simp), ?_, ?_, ?_, msgR_authentic led ho (by omega) (by simp), ?_⟩
    · rw [msgR_field (by omega)]; exact f3
    · rw [msgR_field (by omega), headM_len _ _ _ _ (by simp), (msgR_mac (p := {}) rfl op 0 0 []).1]
    · rw [msgR_field (by omega)]; exact f8
    · rw [msgR_header _ _ _ _ h1 h2 (by omega)]; rfl
    · rw [msgR_header _ _ _ _ h1 h2 (by omega)]; rfl
    · rw [msgR_field (by omega)]; exact g8
  · exact ⟨msgM_take led (by decide) (by decide) (by decide) (by decide), by decide +kernel⟩
  · exact ⟨msgM_take led (by decide) (by decide) (by decide) (by decide), by decide +kernel⟩

/-- A message with a body of more than 1,024 bytes. -/
theorem test_wit_ManagerMessageChecks_long :
    headerValid (msgM 0x02 0 (zeros 1025)) = true ∧ 1024 < fieldAt (msgM 0x02 0 (zeros 1025)) 24 2 ∧
      authentic (mgtS id).pkg (msgM 0x02 0 (zeros 1025)) = true ∧ 48 + fieldAt (msgM 0x02 0 (zeros 1025)) 24 2 ≤ (msgM 0x02 0 (zeros 1025)).length := by
  have led : ledBy0 (mgtS id).pkg.mgt := ⟨rfl, rfl, rfl, rfl, rfl, rfl⟩
  have hl : (zeros 1025).length = 1025 := List.length_replicate
  have h2 : fieldAt (msgM 0x02 0 (zeros 1025)) 24 2 = 1025 := by rw [msgR_field (by omega), headM_len _ _ _ _ (by omega), hl]
  refine ⟨?_, by omega, msgR_authentic led (by decide) (by decide) (by omega), ?_⟩
  · rw [msgR_header _ _ _ _ (by decide) (by decide) (by decide)]; rfl
  · rw [h2, (msgR_mac (p := {}) rfl 0x02 0 0 (zeros 1025)).1, hl]

/-- A package without a lease. -/
abbrev noLease : State := mgtS fun p => { p with mgt := { p.mgt with lease := false } }

/-- The messages of LEASE and EPOCH that meet what LeaseAndEpochCommands asks of them. -/
theorem test_wit_LeaseAndEpochCommands_taken :
    mgtNow (mgtS id) 0x01 .i3c (msgM 0x01 0 []) ∧ mgtNow (mgtS id) 0x02 .i3c (msgM 0x02 0 []) ∧ mgtNow (mgtS id) 0x03 .i3c (msgM 0x03 0 (toLE 8 1)) ∧
      mgtNow (mgtS id) 0x04 .i3c (msgM 0x04 0 (toLE 8 10000)) ∧ mgtNow (mgtS id) 0x05 .i3c (msgM 0x05 0 (toLE 4 (capVal 4200 1 2000))) ∧
      mgtNow (mgtS id) 0x16 .i3c (msgM 0x16 0 []) := by
  have led : ledBy0 (mgtS id).pkg.mgt := ⟨rfl, rfl, rfl, rfl, rfl, rfl⟩
  have all := fun op b h1 h2 h3 => (msgM_now (s := mgtS id) (by decide) led op b h1 h2 h3).1
  exact ⟨all _ _ (by decide) (by decide) (by decide), all _ _ (by decide) (by decide) (by decide), all _ _ (by decide) (by decide) (by decide),
    all _ _ (by decide) (by decide) (by decide), all _ _ (by decide) (by decide) (by decide), all _ _ (by decide) (by decide) (by decide)⟩

theorem test_wit_LeaseAndEpochCommands :
    (let q := acts (mgtS id) 0x01 []
     let n := acts noLease 0x01 []
     (mgtS id).pkg.mgt.lease = true ∧ (mgtS id).pkg.mgt.term = 1 ∧ q.mgt.expiry = 15005000 ∧ said q stOk = true ∧
       noLease.pkg.mgt.lease = false ∧ noLease.pkg.mgt.term ≤ 1 ∧ n.mgt.lease = true ∧
       (acts (mgtS id) 0x02 []).mgt.lease = false) ∧
    (let s := mgtS fun p => { p with mgt := { p.mgt with expiry := 5000 } }
     let t := mgtS fun p => { p with mgt := { p.mgt with expiry := 5001 } }
     s.pkg.mgt.lease = true ∧ s.pkg.mgt.expiry ≤ now s.pkg ∧ signals s.pkg 1027 ∧ signals noLease.pkg 1027 ∧ (after .leaseExpired s).mgt.lease = false ∧ (after .leaseExpired s).out.contains (.msix 0 1027) = true ∧
       now t.pkg < t.pkg.mgt.expiry ∧ after .leaseExpired t = t.pkg) ∧
    (let s := mgtS fun p => { p with mgt := { p.mgt with stale := false, pending := [cmdM 0x03 9000 (toLE 8 1)] } }
     (toLE 8 2).length = 8 ∧ s.pkg.mgt.epoch < 2 ∧ s.pkg.mgt.stale = false ∧ (∀ x ∈ s.pkg.mgt.pending, fieldAt x.body 0 8 < 2) ∧ opBar s.pkg (cmdM 0x03 0 (toLE 8 2)) = none ∧
       (acts s 0x03 (toLE 8 2)).mgt.epoch = 2 ∧ (acts s 0x03 (toLE 8 1)).mgt.lastRefused = stEpochStale) ∧
    (let s := mgtS id
     opBar s.pkg (cmdM 0x01 0 []) = none ∧ opBar s.pkg (cmdM 0x02 0 []) = none ∧ opBar s.pkg (cmdM 0x04 0 (toLE 8 10000)) = none ∧
       opBar s.pkg (cmdM 0x05 0 (toLE 4 (capVal 4200 1 2000))) = none ∧ opBar s.pkg (cmdM 0x16 0 []) = none ∧
       fieldAt (toLE 8 10000) 0 8 % 10000 = 0 ∧ (acts s 0x04 (toLE 8 10000)).tick.pendingCount = some 10000 ∧
       (acts s 0x04 (toLE 8 10000)).out = [] ∧ (acts s 0x05 (toLE 4 (capVal 4200 1 2000))).lsh.pending = some ⟨4200, 1, 2000, 0, 5000⟩ ∧
       (acts s 0x05 (toLE 4 (capVal 4201 1 0))).mgt.lastRefused = stLengthInvalid ∧ (acts s 0x16 []).mgt.rxOk = 1) ∧
    (let c := cmdM 0x03 5000 (toLE 8 7)
     let s := mgtS fun p => { p with tick := { p.tick with countSet := true }, mgt := { p.mgt with stale := false, pending := [c] } }
     duePend s.pkg 0x03 = some c ∧ opBar s.pkg c = none ∧ 8 ≤ c.body.length ∧ s.pkg.mgt.epoch < fieldAt c.body 0 8 ∧
       (after (.namedTickAction 0x03) s).mgt.epoch = 7 ∧ (after (.namedTickAction 0x03) s).mgt.pending = [] ∧
       runsReady s ∧ duePend s.pkg 0x10 = none ∧ after (.namedTickAction 0x10) s = s.pkg) := by decide +kernel

/-- A pen of a group of two, fenced or not, with a request. -/
abbrev group2 (x : Pen → Pen) (f : Mgt → Mgt) : State :=
  mgtS fun p => { p with
    pens := [(0, x { poolPen penActive with groupSize := 2, group := [(0, 2 ^ 31), (1, 2 ^ 31 + 1)] })], ctxs := [(0, ctx1)], reqs := [(0, ready1)]
    mgt := f p.mgt }

theorem test_wit_PlanAndGroupCommands_taken :
    ∀ (op : Nat) (b : Bytes) (x : Pen → Pen), 1 ≤ op → op ≤ 0x16 → b.length ≤ 1024 →
      mgtNow (group2 x id) op .i3c (msgM op 0 b) ∧ mgtBody (msgM op 0 b) = b :=
  fun op b x h1 h2 h3 =>
    let m := msgM_now (s := group2 x id) (show powered (group2 x id).pkg = true from rfl) ⟨rfl, rfl, rfl, rfl, rfl, rfl⟩ op b h1 h2 h3
    ⟨m.1, m.2.1⟩

/-- A topology of two chips, 0 and 9, with one copper link between their ports 0 (Tables 11-5 to 11-7). -/
def topo2 : Bytes :=
  planMagic ++ bs [1, 0, 0, 0, 2, 0, 0, 0, 1, 0, 0, 0, 0, 0] ++ zeros 42 ++ bs [0, 0, 0, 0, 0, 1] ++ zeros 10 ++ bs [9, 0, 0, 0x80, 0, 0] ++ zeros 10 ++
    bs [0, 0, 0, 0, 9, 0, 0, 0, 0, 1] ++ zeros 6

/-- Chip 0's route table of k + 1 chips without a port: its own entry is LOCAL. -/
def tableK (k : Nat) : Bytes := bs [0, 0, 16, 0] ++ List.replicate (4 * k) 0

theorem chunks_replicate (k : Nat) : chunks 4 k (List.replicate (4 * k) (0 : Byte)) = List.replicate k (zeros 4) := by
  induction k with
  | zero => rfl
  | succ k ih =>
    rw [chunks, if_neg (by simp), List.take_replicate, List.drop_replicate, show min 4 (4 * (k + 1)) = 4 by omega,
      show 4 * (k + 1) - 4 = 4 * k by omega, ih]
    rfl

theorem tsetList_zeros (k n x : Nat) (h : 1 ≤ n) : tsetList 0 [(0, x)] n (List.replicate k 0) = [(0, x)] := by
  induction k generalizing n with
  | zero => rfl
  | succ k ih =>
    have hd : tset 0 [(0, x)] n 0 = [(0, x)] := by
      rw [tset, if_pos rfl, tdel, if_neg (by omega), tdel]
    rw [List.replicate_succ, tsetList, hd, ih _ (by omega)]

theorem chunks_tableK (k : Nat) : chunks 4 (k + 1) (tableK k) = bs [0, 0, 16, 0] :: List.replicate k (zeros 4) := by
  rw [chunks, if_neg (by rw [tableK]; exact Bool.false_ne_true), tableK, List.take_left' (show (bs [0, 0, 16, 0]).length = 4 from rfl),
    List.drop_left' (show (bs [0, 0, 16, 0]).length = 4 from rfl), chunks_replicate]

theorem planFrom_routes (topo t : Bytes) : (planFrom 0 topo t).routes = tsetList 0 [] 0 ((chunks 4 4096 t).map leNat) := rfl

theorem tableK_routes (k : Nat) : tsetList 0 [] 0 ((chunks 4 (k + 1) (tableK k)).map leNat) = [(0, 2 ^ 20)] := by
  rw [chunks_tableK, List.map_cons, List.map_replicate, tsetList]
  exact tsetList_zeros k 1 (2 ^ 20) (by decide)

theorem table_routes : tsetList 0 [] 0 ((chunks 4 4096 (tableK 4095)).map leNat) = [(0, 2 ^ 20)] := tableK_routes 4095

theorem tableK_length (k : Nat) : (tableK k).length = 4 * k + 4 := by
  rw [tableK, List.length_append, List.length_replicate, Nat.add_comm]
  rfl

theorem tgetList_written (xs : Bytes) (t : Tab Byte) (n : Nat) (h : ∀ i, i < xs.length → tget 0 t (n + i) = xs.getD i 0) :
    tgetList 0 t n xs.length = xs := by
  induction xs generalizing n with
  | nil => rfl
  | cons x xs ih =>
    rw [List.length_cons, tgetList, ih (n + 1) fun i hi => ?_, show tget 0 t n = x from h 0 (by simp)]
    · rw [show n + 1 + i = n + (i + 1) by omega, h (i + 1) (by simpa using hi)]
      rfl

theorem staged_read {n : Nat} (xs : Bytes) (h : xs.length = n) : tgetList 0 (tsetList 0 [] 0 xs) 0 n = xs := by
  subst h
  refine tgetList_written _ _ _ fun i hi => ?_
  rw [tget_tsetList, dif_pos ⟨by omega, by omega⟩]
  simp [hi]

/-- A commit whose digest is right, of a plan that passes every check, and one whose digest is not. -/
theorem commit_ready (s : State) (hp : powered s.pkg = true) (led : ledBy0 s.pkg.mgt)
    (hs : s.pkg.mgt.staging = tsetList 0 [] 0 (tableK 4095 ++ topo2)) (n : Nat) (hn : n = 16384 + 112) :
    let b := tgetList 0 s.pkg.mgt.staging 0 n
    planBar 0 (b.drop 16384) (b.take 16384) = none ∧ (sha256 b).length = 32 ∧ (∃ e : Bytes, e.length = 32 ∧ e ≠ sha256 b) ∧
      ∀ d : Bytes, d.length = 32 →
        let body := toLE 4 0 ++ toLE 4 112 ++ d
        mgtNow s 0x07 .i3c (msgM 0x07 0 body) ∧ 40 ≤ (mgtBody (msgM 0x07 0 body)).length ∧ fieldAt (mgtBody (msgM 0x07 0 body)) 4 4 = 112 ∧
          fieldAt (mgtBody (msgM 0x07 0 body)) 0 2 = 0 ∧ ((mgtBody (msgM 0x07 0 body)).drop 8).take 32 = d := by
  intro b
  have hlen : (tableK 4095).length = 16384 := tableK_length 4095
  have hb : b = tableK 4095 ++ topo2 := by
    show tgetList 0 s.pkg.mgt.staging 0 n = _
    rw [hs]
    refine staged_read _ ?_
    rw [List.length_append, hlen, hn]
    rfl
  refine ⟨?_, sha256_length b, ?_, ?_⟩
  · rw [hb, List.drop_left' hlen, List.take_left' hlen, planBar]
    simp only [planFrom_routes, table_routes]
    decide +kernel
  · by_cases hz : zeros 32 = sha256 b
    · exact ⟨List.replicate 32 1, by decide, by rw [← hz]; decide⟩
    · exact ⟨zeros 32, by decide, hz⟩
  · intro d hd body
    have hl : body.length = 40 := by simp [body, toLE, hd]
    have h8 : (toLE 4 0 ++ toLE 4 112).length = 8 := rfl
    obtain ⟨h1, h2, -⟩ := msgM_now hp led 0x07 body (by decide) (by decide) (by omega)
    have hf : fieldAt body 4 4 = fieldAt (toLE 4 0 ++ toLE 4 112) 4 4 := fieldAt_left (by decide)
    have hg : fieldAt body 0 2 = fieldAt (toLE 4 0 ++ toLE 4 112) 0 2 := fieldAt_left (by decide)
    rw [h2, hf, hg]
    refine ⟨h1, by omega, by decide, by decide, ?_⟩
    rw [show body.drop 8 = d from List.drop_left' h8, List.take_of_length_le (by omega)]

theorem test_wit_PlanAndGroupCommands_commit :
    ∀ t : Tab Byte, ∃ s : State, powered s.pkg = true ∧ ledBy0 s.pkg.mgt ∧ s.pkg.mgt.staging = t :=
  fun t => ⟨mgtS fun p => { p with mgt := { p.mgt with staging := t } }, rfl, ⟨rfl, rfl, rfl, rfl, rfl, rfl⟩, rfl⟩

theorem test_wit_PlanAndGroupCommands_write :
    let b := toLE 4 655359 ++ bs [5]
    5 ≤ b.length ∧ fieldAt b 0 4 + (b.drop 4).length ≤ 655360 ∧ tget 0 (acts (mgtS id) 0x06 b).mgt.staging 655359 = 5 := by decide +kernel

theorem test_wit_PlanAndGroupCommands :
    (let s := mgtS fun p => { p with tick := { p.tick with countSet := true }, fab := { p.fab with plan := some (plan1 false) } }
     let t := { s with pkg := { s.pkg with arrays := [(255, { st := 1 })] } }
     let lacks := mgtS id
     s.pkg.mgt.stale = true ∧ s.pkg.mgt.epoch < 1 ∧ nvVerifiedAll s.pkg = true ∧ s.pkg.fab.plan.isSome = true ∧ s.pkg.tick.countSet = true ∧
       (acts s 0x08 (toLE 8 1)).mgt.stale = false ∧ (arrOf (acts t 0x08 (toLE 8 1)) 255).st = 2 ∧
       lacks.pkg.fab.plan.isSome = false ∧ (acts lacks 0x08 (toLE 8 1)).mgt.lastRefused = stPenUnavailable) ∧
    (let s := group2 id id
     1 < (penOf s.pkg 0).groupSize ∧ (penOf s.pkg 0).fenced = false ∧ (penOf s.pkg 0).st = penActive ∧
       (penOf (acts s 0x09 (bs [0])) 0).fenced = true ∧ (penOf (acts s 0x09 (bs [0])) 0).st = penBound) ∧
    (let s := group2 (fun x => { x with st := penBound, fenced := true }) fun m => { m with epoch := 1 }
     let b := bs [0, 0, 1, 0, 1, 0, 0, 0, 5, 0, 0, 128]
     (penOf s.pkg 0).fenced = true ∧ fieldAt b 2 2 + fieldAt b 4 4 ≤ (penOf s.pkg 0).groupSize ∧ 8 + 4 * fieldAt b 4 4 ≤ b.length ∧
       tget 0 (penOf (acts s 0x0A b) 0).group 1 = 5 + 2 ^ 31 ∧ (penOf s.pkg 0).fenceEpoch < s.pkg.mgt.epoch ∧
       (penOf (acts s 0x0B (bs [0])) 0).fenced = false) ∧
    (let s := group2 id fun m => { m with stale := false }
     fieldAt (bs [0, 0, 0, 0]) 2 2 = chipNo s.pkg ∧ (acts s 0x0C (bs [0, 0, 0, 0])).mgt.stale = true ∧
       (reqOf (acts s 0x0C (bs [0, 0, 0, 0])) 0).st = rqDone ∧ fieldAt (bs [0, 0, 1, 0]) 2 2 ≠ chipNo s.pkg ∧
       (acts s 0x0C (bs [0, 0, 1, 0])).mgt.stale = false) := by decide +kernel

theorem test_wit_AuthorisationAndServiceCommands_taken :
    ∀ (op : Nat) (b : Bytes) (s : State), powered s.pkg = true → ledBy0 s.pkg.mgt → 1 ≤ op → op ≤ 0x16 → b.length ≤ 1024 →
      mgtNow s op .i3c (msgM op 0 b) ∧ mgtBody (msgM op 0 b) = b :=
  fun op b _ hp h h1 h2 h3 => let m := msgM_now hp h op b h1 h2 h3; ⟨m.1, m.2.1⟩

theorem test_wit_AuthorisationAndServiceCommands :
    (let b := toLE 4 255 ++ toLE 4 256 ++ toLE 8 9000 ++ toLE 8 3
     24 ≤ b.length ∧ fieldAt b 4 4 ≤ 256 ∧ fieldAt b 16 8 ≠ 0 ∧ (acts (mgtS id) 0x0D b).nvw.auth = some ⟨3, 255, 256, 9000⟩) ∧
    ((acts (mgtS id) 0x0E (toLE 8 6 ++ toLE 8 9000)).scn.auth = some ⟨6, 9000, 0⟩) ∧
    (let s := mgtS fun p => { p with scn := { p.scn with slots := [(0, { seq := 1 }), (1, { seq := 2 })], seqLast := 2 } }
     clearsHeld s.pkg.scn < 8192 ∧ s.pkg.scn.slots ≠ [] ∧ fromFirst s.pkg.scn 2 ≤ fromFirst s.pkg.scn s.pkg.scn.seqLast ∧
       s.pkg.scn.queue = [] ∧ s.pkg.scn.storedInTick < 16 ∧ (acts s 0x0F (toLE 4 2)).scn.clearResult = stOk ∧
       fromFirst s.pkg.scn s.pkg.scn.seqLast < fromFirst s.pkg.scn 3 ∧ (acts s 0x0F (toLE 4 3)).scn.clearResult = stLengthInvalid) ∧
    (let s := mgtS id
     let t := mgtS fun p => { p with arrays := [(255, { st := 1, cause := 3 })] }
     (arrOf s.pkg 255).st = 0 ∧ (arrOf (acts s 0x10 (bs [255])) 255).cause = 5 ∧ (arrOf t.pkg 255).st = 1 ∧
       (acts t 0x10 (bs [255])).arrays = t.pkg.arrays ∧ (arrOf (acts t 0x11 (bs [255])) 255).st = 2 ∧
       (acts s 0x11 (bs [255])).arrays = s.pkg.arrays) ∧
    (let s := mgtS fun p => { p with pens := [(0, { poolPen penActive with step := some {} })], ctxs := [(0, ctx1)], reqs := [(0, ready1)] }
     (penOf s.pkg 0).st = penActive ∧ (penOf s.pkg 0).groupSize ≤ 1 ∧ (penOf (acts s 0x12 (bs [0])) 0).step = none ∧
       (reqOf (acts s 0x12 (bs [0])) 0).st = rqDone ∧ (acts s 0x13 []).glb.ready = false ∧ (acts s 0x13 []).pens = []) ∧
    (let s := mgtS fun p => { p with fab := { p.fab with plan := some (plan1 false), ports := [(15, { st := ptNoPlan, collar := some (collar 0 3) })] } }
     isHeld (portOf s.pkg 15).st = true ∧ (portOf s.pkg 15).collar = some (collar 0 3) ∧
       (portOf (acts s 0x14 (bs [15])) 15).st = ptVersionHeld) := by decide +kernel

/-- A port in an inspection. -/
abbrev inspecting (i : Option Insp) : State := mgtS fun p => { p with fab := { p.fab with ports := [(15, { st := if i.isSome then 8 else 4, insp := i, xseq := 7 })] } }

/-- An inspection of this package's own, 3,000 ticks old. -/
def insp0 : Insp := { starter := true, xseq := 7, level := 3, since := 4000, started := 2000, asked := none }

theorem test_wit_InspectionsAndLanes :
    (let s := inspecting none
     let q := acts s 0x15 (bs [15])
     2 ≤ (portOf s.pkg 15).st ∧ (portOf s.pkg 15).insp = none ∧ (portOf q 15).st = ptInspect ∧ (portOf q 15).xseq = 8) ∧
    (let s := inspecting (some insp0)
     let t := inspecting (some { insp0 with since := 4001 })
     let u := inspecting (some { insp0 with recorded := true, level := 4, since := 1000 })
     let v := inspecting (some { insp0 with starter := false, level := 0, since := 1000 })
     (portOf s.pkg 15).insp = some insp0 ∧ ((portOf (after (.inspectLevelStep 15) s) 15).insp.map (·.level)) = some 4 ∧
       now t.pkg < 4001 + 1000 ∧ after (.inspectLevelStep 15) t = t.pkg ∧ (portOf (after (.inspectLevelStep 15) u) 15).st = ptTraining ∧
       ((portOf (after (.inspectLevelStep 15) v) 15).insp.map (·.level)) = some 1 ∧
       now s.pkg < insp0.started + 20000 ∧ after (.inspectTimeout 15) s = s.pkg) ∧
    (let s := mgtS fun p => { p with
       tick := { p.tick with count := 22000 }, fab := { p.fab with ports := [(15, { st := 8, insp := some insp0 })] } }
     insp0.started + 20000 ≤ now s.pkg ∧ (portOf (after (.inspectTimeout 15) s) 15).st = ptTraining) ∧
    (let rec1 := bs [4, 1, 9, 0] ++ zeros 148
     let rec2 := bs [4, 2, 7, 0] ++ zeros 148
     let rx := List.replicate 16 900
     fieldAt rec1 0 1 = 4 ∧ fieldAt rec1 1 1 = 1 ∧ 3 ≤ (portOf (inspecting none).pkg 15).st ∧
       (portOf (after (.inspectionRecord 15 rec1 rx) (inspecting none)) 15).st = ptInspect ∧
       tget 0 (laneOf (after (.inspectionRecord 15 rec1 rx) (inspecting none)) 63).inspRx 3 = 900 ∧ fieldAt rec2 1 1 = 2 ∧ insp0.xseq = fieldAt rec2 2 2 ∧
       ((portOf (after (.inspectionRecord 15 rec2 rx) (inspecting (some insp0))) 15).insp.map (·.recorded)) = some true ∧
       insp0.xseq ≠ fieldAt rec1 2 2) ∧
    (let x : LaneSample := { lane := 63, rx := 499, tx := 0, bias := 0, los := false, txFault := false, bitErrors := 0, bits := 5 }
     now (up id).pkg < (up id).pkg.fab.laneRoll + 1000000 ∧ (laneOf (after (.laneMeasurementRefresh [x]) (up id)) 63).lowRx = true ∧
       (laneOf (after (.laneMeasurementRefresh [x]) (up id)) 63).accBits = 5) := by decide +kernel

/-- The I3C target as given. -/
abbrev atI3c (f : I3c → I3c) : State := mgtS fun p => { p with i3c := f p.i3c }

theorem test_wit_I3cCommands :
    (let s := atI3c id
     powered s.pkg = true ∧ s.pkg.i3c.addr = none ∧ (after (.entdaa 127) s).i3c.addr = some 127) ∧
    (let s := atI3c fun x => { x with addr := some 8, replies := [bs [1, 2, 3]], mrl := 2 }
     s.pkg.i3c.addr = some 8 ∧ (after .rstdaa s).i3c.addr = none ∧ (after (.setmrl 65535) s).i3c.mrl = 65535 ∧ (after (.enec 1) s).i3c.ibi = true ∧
       (after (.disec 1) (atI3c fun x => { x with ibi := true })).i3c.ibi = false ∧
       (after .i3cPrivateRead s).out = [.i3c (bs [1, 2])] ∧ (after .i3cPrivateRead s).i3c.replies = [] ∧
       (after (.i3cPrivateWrite (bs [1, 0, 0, 2])) s) = s.pkg) := by decide +kernel

/-! ### Clauses that came later: a witness for each -/

/-- Where nothing waits in the queue, no value of the tick is replaced (R67). -/
theorem test_wit_latest (f : Pkg → Pkg) (c : Instr) : latest c (up f) = true := by
  simp [latest, replaced, restOfTick]

/-- R67: of two submission tails of a tick the earlier one does nothing. -/
theorem test_superseded_doorbell :
    (let s : State := { atCtx ctx1 with pending := [.dbSqTail 0 0 5] }
     latest (.dbSqTail 0 0 64) s = false ∧ after (.dbSqTail 0 0 64) s = s.pkg ∧
       latest (.dbSqTail 0 0 64) { s with pending := [.tickBoundary, .dbSqTail 0 0 5] } = true) ∧
    (let s : State := { runsOn {} [] id with pending := [.hndMbCmdTail 15 5 []] }
     latest (.hndMbCmdTail 15 9 []) s = false ∧ (hcoreOf (after (.hndMbCmdTail 15 9 []) s) 15).cmdTail = 0) := by decide +kernel

/-- The example of R68: at tick 1,000,294 the start index of P4 is 150, and context 200 is served before context 17. -/
theorem test_serve_order :
    serveOrder (atTick { count := 1000294 }).pkg [.admitReq (.ring 17), .admitReq (.ring 200)] = [.admitReq (.ring 200), .admitReq (.ring 17)] ∧
      serveOrder (atTick { count := 1000294 }).pkg [.admitReq (.ring 200), .arrayWatchdog 173, .cancel (.ring 17)] =
        [.arrayWatchdog 173, .cancel (.ring 17), .admitReq (.ring 200)] := by decide +kernel

/-- A boundary of a tick whose queue is in the order of R19 and R68, and no event of which meets a write of its field. -/
theorem test_wit_EventsServedInOrder :
    (let s := atTick { count := 1000294 }
     let l : List Instr := [.admitReq (.ring 17), .admitReq (.ring 200), .arrayWatchdog 173, .cancel (.ring 17)]
     l.all (fun c => (tickPlace s.pkg c).isSome) = true ∧ l.all (fun c => l.all fun d => !(coveredBy c).any (fwUpdates d)) = true ∧
       queuedInOrder { s with pending := serveOrder s.pkg l } = true ∧ queuedInOrder { s with pending := l } = false) ∧
    (1000294 : Nat) % 272 = 150 ∧ sourcesOf 4 = 272 := by decide +kernel

theorem test_wit_ImprintCommands_spoiled :
    (let i : Imprint := { ctx := 0, slot := 32, tag := 0, irq := false, sqIndex := 0, addr := 0, authId := 9, counted := true }
     let s := up fun p => { p with
       nvw := { p.nvw with slots := [(32, zeroSlot nvWriting)], imprints := [i], auth := some ⟨9, 0, 0, 5000⟩, spoiled := [32] } }
     writingOn s.pkg 1 = some i ∧ 32 ∈ s.pkg.nvw.spoiled ∧ slotOf (after (.imprintWriteDone 1 (some (zeros 32))) s) 32 = leftEmpty (slotOf s.pkg 32) ∧
       (after (.imprintWriteDone 1 (some (zeros 32))) s).nvw.auth = some ⟨9, 0, 1, 5000⟩) := by decide +kernel

theorem test_wit_SlotCommands_lines :
    (let s := store1 fun n => { n with slots := [(255, zeroSlot nvWriting), (64, zeroSlot nvUnverified)], verifyBusy := true }
     readsLines s.pkg 255 (inStream s.pkg 255) = true ∧ readsLines s.pkg 64 (inStream s.pkg 64) = true ∧
       (after (.nvUncorrectable 255 31 ⟨3, 4⟩) s).nvw.spoiled = [255] ∧ (slotOf (after (.nvUncorrectable 255 31 ⟨3, 4⟩) s) 255).st = nvWriting ∧
       (slotOf (after (.nvUncorrectable 64 0 ⟨3, 4⟩) s) 64).st = nvBad) ∧
    (let s := store1 fun n => { n with slots := [(0, zeroSlot nvWriting)], replicas := [(3, host7)], repairs := [⟨0, 3, 1⟩], spoiled := [0] }
     payloadBytes s.pkg (replicaOf s.pkg 3) 0 32 (some (zeros 32)) = some (zeros 32) ∧
       (slotOf (after (.nvRepairDone 0 (some (zeros 32))) s) 0).st = nvBad) := by decide +kernel

theorem test_wit_ReplicaCommands_brought :
    (let x : Replica := { kind := 1, was := 1, chip := 1 }
     let t : State := up fun p => { p with fab := { p.fab with fwReads := [(gaddr 1 2 0, none)] } }
     readsPeer host7 = false ∧ readsPeer x = true ∧ pk.fab.fwReads = [] ∧ payloadBytes pk x 0 32 (some [1]) = some [1] ∧
       (0, 32) ∈ loadPieces 0 32 ∧ t.pkg.fab.fwReads.find? (fun r => decide (r.1 = gaddr 1 2 0)) = some (gaddr 1 2 0, none) ∧
       payloadBytes t.pkg x 0 32 (some [1]) = none) ∧
    (let s := store1 fun n => { n with replicas := [(0, { kind := 1, was := 1, checking := true, shard := 7, length := 32, digest := zeros 32 })] }
     (replicaOf s.pkg 0).kind = 1 ∧ (replicaOf s.pkg 0).st = 0 ∧ (replicaOf s.pkg 0).checking = true ∧ tget 0 s.pkg.nvw.recheckAt 0 = 0 ∧
       (replicaOf (after (.replicaCheck 0 none) s) 0).checking = true) := by decide +kernel

/-- An ADMIT of one prompt token and four new ones at 0x1000, with a first deadline. -/
def admitRaw (firstDl : Nat) : List Nat :=
  [1, 0, 0, 0, 0, 0, 0, 0, 1, 0, 0, 0, 4, 0, 0, 0, 0, 16, 0, 0, 0, 0, 0, 0] ++ List.replicate 8 0 ++ [firstDl]

theorem test_wit_RequestDescriptors_decided :
    (let l := admitRaw 40
     let s := descOn 1 l { poolPen penActive with pred := 40 } {}
     (nextD s 1).isSome = true ∧ admitEarly s.pkg 0 (raw64 l) = none ∧ freeEntryOf s.pkg = some 0 ∧ (penOf s.pkg 0).st = penActive ∧
       s.pkg.rq.timeAdmit = true ∧ (reqOf (after (.admitReq (.ring 0)) s) 0).st = rqPrefill ∧
       (reqOf (after (.admitReq (.ring 0)) s) 0).nextDl = 5040 ∧ (reqOf (after (.admitReq (.ring 0)) s) 0).limit = 5 ∧
       (reqOf (after (.admitReq (.ring 0)) s) 0).reserved = 1 ∧ (after (.admitReq (.ring 0)) s).rq.admitted = 1) ∧
    (let s := descOn 1 (admitRaw 39) { poolPen penActive with pred := 40 } {}
     admitEarly s.pkg 0 (raw64 (admitRaw 39)) = none ∧ (after (.admitReq (.ring 0)) s).rq.deniedTime = 1) ∧
    (let x := { poolPen penActive with pool := { (poolPen penActive).pool with headroom := 64 } }
     let s := descOn 1 (admitRaw 0) x {}
     admitEarly s.pkg 0 (raw64 (admitRaw 0)) = none ∧ freeAdmit (poolOf s.pkg 0) = 0 ∧ (after (.admitReq (.ring 0)) s).rq.deniedMem = 1) ∧
    (let l := byHandle0 3 []
     let s := descOn 3 l (poolPen penActive) { ready1 with st := rqDraining, turnEnded := true, inStep := true }
     let t := descOn 3 l (poolPen penActive) { ready1 with st := rqDraining, inStep := true, endStatus := 7 }
     (nextD s 3).isSome = true ∧ entryOf s.pkg 0 4096 = some 0 ∧ (reqOf s.pkg 0).turnEnded = true ∧
       (reqOf (after (.cancel (.ring 0)) s) 0).endStatus = stOkCancelLate ∧
       (reqOf t.pkg 0).st = rqDraining ∧ (reqOf t.pkg 0).turnEnded = false ∧ (reqOf (after (.cancel (.ring 0)) t) 0).st = rqDraining ∧
       (reqOf (after (.cancel (.ring 0)) t) 0).endStatus = 7) := by decide +kernel

/-- A missed deadline of a request that no step holds, under each policy (R296). -/
theorem test_wit_RequestAndFetchEvents_policies :
    (let at_ (pol : Nat) (x : Pen) : State := up fun p => { p with
        ctxs := [(0, { ctx1 with policy := pol })], pens := [(0, x), (1, poolPen penActive)]
        reqs := [(0, { ready1 with st := rqPrefill, nextDl := 5000, interval := 3, firstDl := 9 })] }
     let s0 := at_ 0 (poolPen penActive)
     let s1 := at_ 1 { poolPen penActive with fallback := 0x81, image := some { img [8] with fbId := some (img [8]).id } }
     let s2 := at_ 2 (poolPen penActive)
     fwRuns s0.pkg = true ∧ liveReq (reqOf s0.pkg 0) = true ∧ (reqOf s0.pkg 0).inStep = false ∧
       (reqOf (after (.deadlineMissed 0) s0) 0).nextDl = 5003 ∧
       fallbackBar s1.pkg 0 = none ∧ (reqOf (after (.deadlineMissed 0) s1) 0).pen = 1 ∧ (reqOf (after (.deadlineMissed 0) s1) 0).nextDl = 5009 ∧
       (reqOf (after (.deadlineMissed 0) s2) 0).endStatus = stAbortedDeadline) := by decide +kernel

theorem test_wit_PageCommands_back :
    (let s := pages ctxHost {} { ready1 with st := rqSwapped, prev := rqDecode, back := true }
     (reqOf s.pkg 0).back = true ∧ (ctxOf s.pkg (reqOf s.pkg 0).ctx).resident = true ∧ (reqOf s.pkg 0).held = [] ∧
       (reqOf (after (.swapReturn 0) s) 0).st = rqDecode ∧ (reqOf (after (.swapReturn 0) s) 0).back = false) ∧
    (let s := pages { ctxHost with resident := false } {} { ready1 with st := rqSwapped, prev := rqDecode }
     (ctxOf s.pkg (reqOf s.pkg 0).ctx).resident = false ∧ (reqOf (after (.swapReturn 0) s) 0).st = rqSwapped) ∧
    (let s := pages ctxHost { copies := [⟨0, 4, [0]⟩] } { ready1 with st := rqSwapped, prev := rqDecode, parts := [(0, .host 0)] }
     runningCopy s.pkg 0 = some ⟨0, 4, [0]⟩ ∧ (poolOf s.pkg 0).copies = [⟨0, 4, [0]⟩] ∧ tget .unheld (reqOf s.pkg 0).parts 0 = .host 0 ∧
       pickStack (poolOf s.pkg 0) (partQuad s.pkg 0 (0 % max 1 (gOf (poolOf s.pkg 0)))) ≠ none) := by decide +kernel

/-- A store whose line has taken its 25 requests of the tick waits. -/
theorem test_wit_RequestsAtTheirDestination_busy :
    (let b := store8 4088
     let s := up fun p => { p with pens := served0.pkg.pens, fab := { served0.pkg.fab with lineUsed := [(lineOf (hdrOf b), 25)] } }
     arrives s 0 2 b ∧ aligned (hdrOf b) = true ∧ hdrLegal b = true ∧ applied (srcOf s.pkg (hdrOf b).src) (hdrOf b).seq = false ∧
       lineFree s.pkg (lineOf (hdrOf b)) = false ∧ lineFree served0.pkg (lineOf (hdrOf b)) = true ∧
       (after (.packetStore 0 b) s).fab.lineQueue.length = 1 ∧ (after (.packetStore 0 b) s).pens = s.pkg.pens) := by decide +kernel

/-- A load of the firmware that brings bytes, and one that times out. -/
theorem test_wit_TransactionsAtTheirSource_firmware :
    (let h : Hdr := { type := 1, dst := 1, srcId := 272, tag := 8, addr := 2 ^ 52 }
     let s := waits h .firmware id
     let b := pktBytes { h := { type := 4, src := 1, srcId := 272, tag := 8, addr := 2 ^ 52 }, data := List.replicate 8 9 }
     arrives s 0 4 b ∧ (∃ t, txnOf s.pkg (hdrOf b).tag = some t ∧ answers s.pkg (hdrOf b) t = true ∧ t.by_ = .firmware) ∧
       (after (.loadResp 0 b) s).fab.fwReads = [(2 ^ 52, some (List.replicate 8 9))] ∧ (after (.loadTimeout 8) s).fab.fwReads = [(2 ^ 52, none)]) :=
  ⟨by decide +kernel, ⟨_, rfl, by decide +kernel, rfl⟩, by decide +kernel, by decide +kernel⟩

theorem test_wit_TransitReachAndPlan_hop :
    (let c := pktBytes { h := { type := 1, dst := 2, src := 1, srcId := 256, hops := 1 } }
     48 ≤ c.length ∧ pktSound c = true ∧ pktSound (lessHop c) = true ∧ (hdrOf (lessHop c)).hops = 0 ∧ lessHop c ≠ c ∧
       pktSound (zeros 48) = false ∧ pktSound (lessHop (zeros 48)) = false) := by decide +kernel

/-- Neither a throttle nor the Leash's own means move VARR within 5 ticks of its last step. -/
theorem test_wit_LeashUpdate_pace :
    (let s := atLsh { varr := [(3, 700)], varrAt := [(3, 4997)], throttling := [(3, true)] }
     let t := atLsh { varr := [(3, 700)], varrAt := [(3, 4996)], throttling := [(3, true)] }
     varrReady s.pkg 3 = false ∧ tget 0 (after (.leashTick {}) s).lsh.varr 3 = 700 ∧ tget 0 (after (.throttleStep 3 [103]) s).lsh.varr 3 = 700 ∧
       varrReady t.pkg 3 = true ∧ tget 0 (after (.throttleStep 3 [103]) t).lsh.varr 3 = 695) := by decide +kernel

/-- A directory entry of an image, and a section padded to 64 bytes. -/
def dirE (t n off len : Nat) : Bytes := [toLE 4 t, toLE 4 n, toLE 4 off, toLE 4 len].flatten
def pad64 (l : List Bytes) : Bytes := l.flatten ++ zeros (64 - l.flatten.length)

/-- An image of version 4 and 4,096 bytes (Tables 5-1 to 5-12) round its IMAGE_ID: one segment of two words (LAYER_END of layer 0, END), one
gate, one record of BF16 throughout, one stagger entry, RETAIN_BYTES and REPLAY_TICKS of 1, the OUTPUT buffer, and the shard of `zeroSlot`. -/
def imageHead : Bytes := [imageMagic, toLE 2 4, toLE 2 128, toLE 4 8, toLE 4 4096, zeros 4].flatten
def imageRest : Bytes :=
  [toLE 2 1, toLE 2 1, toLE 2 1, zeros 2, toLE 2 1, bs [1, 1, 3, 3, 0, 0], toLE 4 2, toLE 4 10, toLE 4 10, zeros 68,
    dirE 1 1 256 32, dirE 2 2 320 32, dirE 5 1 384 48, dirE 6 1 448 32, dirE 8 1 512 4, dirE 9 2 576 32, dirE 10 1 640 32, dirE 11 1 704 48,
    pad64 [zeros 4, toLE 4 2, zeros 24], pad64 [bs [0x48], zeros 15, bs [0x58], zeros 15], pad64 [bs [1], zeros 31, bs [1], zeros 15],
    pad64 [bs [3, 0, 3, 3], zeros 28], zeros 64, pad64 [toLE 8 1, toLE 8 1, toLE 8 2, toLE 8 1], pad64 [toLE 8 512, bs [4], zeros 23],
    pad64 [toLE 4 7, toLE 4 32, toLE 4 1, zeros 4, sha256 (zeros 32)], zeros 3328].flatten

/-- The first 8 bytes of a digest, one by one. -/
def first8 (d : Bytes) : Bytes :=
  [d.getD 0 0, d.getD 1 0, d.getD 2 0, d.getD 3 0, d.getD 4 0, d.getD 5 0, d.getD 6 0, d.getD 7 0]

theorem first8_eq (d : Bytes) (h : d.length = 32) : first8 d = d.take 8 := by
  rcases d with _ | ⟨a, _ | ⟨b, _ | ⟨c, _ | ⟨e, _ | ⟨f, _ | ⟨g, _ | ⟨i, _ | ⟨j, t⟩⟩⟩⟩⟩⟩⟩⟩ <;> first | rfl | cases h

/-- That image with its IMAGE_ID: the first 8 bytes of the SHA-256 of the image with that field zero (R151). -/
def image4 : Bytes := imageHead ++ first8 (sha256 (imageHead ++ zeros 8 ++ imageRest)) ++ imageRest

theorem image4_idOk : imageIdOk image4 = true := by
  have cut : ∀ h x r : Bytes, h.length = 24 → x.length = 8 →
      (h ++ x ++ r).take 24 = h ∧ (h ++ x ++ r).drop 32 = r ∧ ((h ++ x ++ r).drop 24).take 8 = x := by
    intro h x r hh hx
    refine ⟨?_, ?_, ?_⟩
    · rw [List.append_assoc, List.take_left' hh]
    · exact List.drop_left' (by simp [hh, hx])
    · rw [List.append_assoc, List.drop_left' hh, List.take_left' hx]
  obtain ⟨h1, h2, h3⟩ := cut imageHead (first8 (sha256 (imageHead ++ zeros 8 ++ imageRest))) imageRest (by decide +kernel) rfl
  rw [imageIdOk, image4, h1, h2, h3]
  exact decide_eq_true (first8_eq _ (sha256_length _))

/-- A BIND of that image into pen 0, whose budgets hold it, with the shard VERIFIED in slot 0. -/
abbrev binding4 : State :=
  up fun p => { p with
    ldr := { st := 1, op := 1, addr := 0x1000, bytes := 4096 }, nvw := { p.nvw with slots := [(0, zeroSlot nvVerified)] }
    pens := [(0, { enable := true, st := penBinding, arrays := 1, stageMib := 512, dramMib := 1024, nvShards := 1 })]
    arrays := [(0, { pen := 1, served := 1 })] }

/-- A BIND that can end with the package as it is, and one that a check refuses. -/
def isReady (v : BindView) : Bool := match v with | .ready _ _ => true | _ => false
def isFailed (v : BindView) : Bool := match v with | .failed _ => true | _ => false

/-- A BIND is ready where no check fails and nothing is to be read first. -/
theorem bindView_ready {p : Pkg} {n : Nat} {b : Bytes} (hh : headFail p n b = none) (hb : bodyFail b (parseImage b) = none)
    (hc : let c := claimAll p n b (parseImage b)
      recheckDue c.1 (parseImage b) c.2.1 = [] ∧ c.2.2 = none ∧ roomFail c.1 n (parseImage b) = none ∧
        fillsDue c.1 (parseImage b) c.2.1 = [] ∧ fillsHash c.1 (parseImage b) c.2.1 = true)
    (hw : workFail b (parseImage b) = none) : isReady (bindView p n b true) = true := by
  obtain ⟨h1, h2, h3, h4, h5⟩ := hc
  simp [bindView, firstFailOf, hh, hb, hw, h1, h2, h3, h4, h5, isReady]

theorem image4_head : headFail binding4.pkg 0 image4 = none := by
  unfold headFail
  rw [image4_idOk]
  decide +kernel

theorem image4_body : bodyFail image4 (parseImage image4) = none := by decide +kernel
theorem image4_work : workFail image4 (parseImage image4) = none := by decide +kernel

/-- Every check of R169 passes on that image. -/
theorem test_wit_LoaderCompletions_ready : isReady (bindView binding4.pkg 0 image4 true) = true :=
  bindView_ready image4_head image4_body (by decide +kernel) image4_work

theorem test_wit_LoaderCompletions_failed :
    (let s := atLdr { st := 1, op := 1, addr := 0x1000, bytes := 4096 } { enable := true, st := penBinding }
     isFailed (bindView s.pkg 0 image3 true) = true) ∧
    binding4.pkg.ldr.st = 1 ∧ binding4.pkg.ldr.op = 1 ∧ cmdFail binding4.pkg = none := by decide +kernel

/-- Array 0 before a LOADA of one unit from a staging mover on channel 0, to local SRAM at byte 32. -/
abbrev loads1 : State :=
  up fun p => { p with
    pens := [(0, {
      st := penActive, step := some { released := true }, bufs := [(0, { data := [(3, 9)], written := [(3, true)] })]
      image := some { img [5 + 2 ^ 64 + 2 ^ 96] with
        segs := [{ wordCount := 1, chanCount := 1 }], chans := [{ base := 64, size := 64, feeder := 3, units := 2 }]
        streams := [{ kind := 1, last := true, source := 0, units := 2 }], relocs := [{ bytes := 64 }] } })]
    arrays := [(0, { pen := 1, runs := [{ started := true }] })] }

theorem test_wit_LoadWords_channel :
    readsAfresh loads1.pkg 0 ∧
      (let w := nextWord loads1.pkg 0
       let us := chanUnits loads1.pkg 0 (stepNow loads1.pkg 0) (runOf (arrOf loads1.pkg 0)) (wbits w 0 6 5) (wbits w 12 19 0)
       atWord loads1.pkg 0 5 = true ∧ wbit w 0 4 = false ∧ penOfArr loads1.pkg 0 = 0 ∧ us.isSome = true ∧
         groupRoom loads1.pkg 0 0 (runOf (arrOf loads1.pkg 0)) (wbits w 0 6 5) (0 + wbits w 12 19 0) = true ∧
         awaitsBlock loads1.pkg 0 (chainOf (imageOf loads1.pkg 0) (runOf (arrOf loads1.pkg 0)) (wbits w 0 6 5)) 0 (0 + wbits w 12 19 0) = false ∧
         tget 0 (arrOf (after (.loada 0) loads1) 0).data.sram 35 = 9) :=
  ⟨fun _ h => (List.not_mem_nil h).elim, by decide +kernel⟩

theorem test_wit_ExchangeGatesAndWatchdog_combine :
    (let d : Decided := { ex0 with gated := 1, released := 1, combineDue := 5000 }
     let s := routing1 { stepX := true, decided := [d] } [] []
     nextCombined s.pkg 0 = some d ∧ d.half = 0 ∧ d.combineDue ≤ now s.pkg ∧ arrivedAll s.pkg 0 (entryNow s.pkg 0 d.entry).combGate = true) := by
  decide +kernel

/-- The last count of an authorisation ends it (R224); a line of a slot that a running step streams is fetched from a replica (R244). -/
theorem test_wit_ImprintCommands_last :
    (let s := up fun p => { (imprints 1 0x1000 []).pkg with nvw := { p.nvw with auth := some ⟨9, 0, 1, 5000⟩ } }
     writeBar s.pkg 0 { type := 8, raw := imprintRaw 1 0x1000 } = none ∧ (after (.imprintWrite 0) s).nvw.auth = none) ∧
    (let i : Image := { img [] with shards := [{ shard := 7, length := 32, reads := 1, digest := sha256 (zeros 32) }] }
     let s := up fun p => { p with
       pens := [(0, { enable := true, st := penActive, image := some i, cls := [0], step := some {} })]
       nvw := { p.nvw with slots := [(0, { zeroSlot nvBad with claim := 1 })], replicas := [(3, host7)] } }
     fwRuns s.pkg = true ∧ (slotOf s.pkg 0).st = nvBad ∧ inStream s.pkg 0 = true ∧ (recentLines s.pkg 0).length < 64 ∧
       nextReplica s.pkg 0 none = some 3 ∧ (after (.nvUncorrectable 0 0 ⟨3, 3⟩) s).nvw.fetches = [⟨0, 0, 3⟩] ∧ 0 ∈ enabledPens s.pkg ∧
       streamsSlot s.pkg 0 0 = true) := by decide +kernel

theorem test_wit_ReplicaCommands_again :
    (let x : Replica := { kind := 1, checking := true, shard := 7, length := 32, digest := zeros 32 }
     let s := store1 fun n => { n with replicas := [(0, x)], recheckAt := [(0, 5000)] }
     let t := store1 fun n => { n with replicas := [(0, x)] }
     let h := toLE 4 7 ++ toLE 4 32 ++ bs [3] ++ zeros 55
     tget 0 t.pkg.nvw.recheckAt 0 = 0 ∧ (replicaOf (after (.replicaCheck 0 (some h)) t) 0).st = 1 ∧
       0 < tget 0 s.pkg.nvw.recheckAt 0 ∧ tget 0 s.pkg.nvw.recheckAt 0 ≤ now s.pkg ∧ (replicaOf (after (.replicaRecheck 0 (some h)) s) 0).st = 1 ∧
       (replicaOf (after (.replicaCheck 0 (some (toLE 4 7 ++ toLE 4 32 ++ bs [3, 2] ++ zeros 54))) t) 0).st = 2) := by decide +kernel

/-- A ring write that fails while a reset zeroes the rings, once no step holds a request of the context (R280). -/
theorem test_wit_FunctionsAndHostErrors_zeroing :
    (let s := atCtx { ctx1 with st := ctxResetting }
     (ctxOf s.pkg 0).st = ctxResetting ∧ (ctxOf s.pkg 0).enable = true ∧ outOfSteps s.pkg 0 = true ∧
       (ctxOf (after (.ringWriteFailed 0 1) s) 0).st = ctxFaulted ∧ 2 ≤ (after (.ringWriteFailed 0 1) s).out.length) := by decide +kernel

/-- A pool of 1 KiB frames with one copy. -/
abbrev copying1 (k : Copy) (refs : Nat) (x : Req) : State :=
  up fun p => { p with
    ctxs := [(0, { ctxHost with hostMap := [] })], reqs := [(0, x)]
    pens := [(0, { poolPen penActive with
      pool := { frameBytes := 1024, frames := 64, groups := 1, onStacks := [0], tab := [(3, { busy := true, refs := refs, data := [(0, 5)] })], copies := [k] } })] }

theorem test_wit_PageCommands_out :
    (let s := copying1 ⟨0, 0, [0]⟩ 1 { ready1 with parts := [(0, .frame 3)] }
     let t := copying1 ⟨0, 0, [0]⟩ 2 { ready1 with parts := [(0, .frame 3)] }
     fwRuns s.pkg = true ∧ runningCopy s.pkg 0 = some ⟨0, 0, [0]⟩ ∧ isOut ⟨0, 0, [0]⟩ = true ∧ goesOut s.pkg 0 ⟨0, 0, [0]⟩ 3 = true ∧
       hostPlace (ctxOf s.pkg 0) (frameKib s.pkg 0) = some 0 ∧ (after (.kvHostCopyDone 0 (some [])) s).kvp.hostOut = 1024 ∧
       runningCopy t.pkg 0 = some ⟨0, 0, [0]⟩ ∧ goesOut t.pkg 0 ⟨0, 0, [0]⟩ 3 = false ∧
       (reqOf (after (.kvHostCopyDone 0 (some [])) t) 0).parts = [(0, .frame 3)] ∧ (after (.kvHostCopyDone 0 (some [])) t).kvp.hostOut = 0) ∧
    (let k : Copy := ⟨0, 3, [0]⟩
     let s := copying1 k 1 { ready1 with parts := [(0, .host 0)] }
     runningCopy s.pkg 0 = some k ∧ isOut k = false ∧ (zeros 1024).length = 1024 * frameKib s.pkg 0 ∧
       tget .unheld (reqOf s.pkg (partHolder s.pkg k 0)).parts 0 = .host 0 ∧ (frameBack s.pkg k 0 1).isSome = true ∧
       (after (.kvHostCopyDone 0 (some (zeros 1024))) s).kvp.hostIn = 1024) := by decide +kernel

/-- Check 6 does not read the sequence numbers that check 5 has raised. -/
theorem opBar_raise (p : Pkg) (path : Path) (msg : Bytes) (c : PendCmd) : opBar (raiseSeq p path msg) c = opBar p c := by
  unfold raiseSeq
  dsimp only
  generalize tset 0 p.mgt.seqHw (cmdOf path msg).mgr (cmdOf path msg).seq = v
  split
  · rfl
  · rfl

/-- A message that checks 1 to 5 pass, of an OP that refuses nothing. -/
theorem msgM_passes {s : State} (hp : powered s.pkg = true) (h : ledBy0 s.pkg.mgt) (op : Nat) (b : Bytes) (h1 : 1 ≤ op) (ho : op ≤ 0x16)
    (hb : b.length ≤ 1024) (h0 : opBar s.pkg (cmdM op 0 b) = none) : mgtPasses s op .i3c (msgM op 0 b) := by
  have hc := msgR_cmd op 0 0 b (by omega) (by omega) (by omega)
  refine ⟨(msgM_now hp h op b h1 ho hb).1, ?_⟩
  rw [hc, opBar_raise]
  exact h0

/-- A frame is free for the part, however many lists take it. -/
theorem test_wit_CommandsComplete_back :
    ∀ refs, (frameBack (copying1 ⟨0, 3, [0]⟩ 1 { ready1 with parts := [(0, .host 0)] }).pkg ⟨0, 3, [0]⟩ 0 refs).isSome = true := by
  intro refs
  have h : (frameBack (copying1 ⟨0, 3, [0]⟩ 1 { ready1 with parts := [(0, .host 0)] }).pkg ⟨0, 3, [0]⟩ 0 1).isSome = true := by decide +kernel
  exact h

/-- A message on I3C, to a package with an address, that no check refuses. -/
theorem test_wit_CommandsComplete_i3c (op : Nat) (b : Bytes) (h1 : 1 ≤ op) (ho : op ≤ 0x16) (hb : b.length ≤ 1024)
    (h0 : opBar (mgtS fun p => { p with i3c := { p.i3c with addr := some 8 } }).pkg (cmdM op 0 b) = none) :
    (mgtS fun p => { p with i3c := { p.i3c with addr := some 8 } }).pkg.i3c.addr.isSome = true ∧
      mgtPasses (mgtS fun p => { p with i3c := { p.i3c with addr := some 8 } }) op .i3c (msgM op 0 b) :=
  ⟨rfl, msgM_passes rfl ⟨rfl, rfl, rfl, rfl, rfl, rfl⟩ op b h1 ho hb h0⟩

theorem test_wit_CommandsComplete_i3c_ops :
    (let p := (mgtS fun p => { p with i3c := { p.i3c with addr := some 8 } }).pkg
     opBar p (cmdM 0x01 0 []) = none ∧ opBar p (cmdM 0x02 0 []) = none ∧ opBar p (cmdM 0x0E 0 (toLE 8 6 ++ toLE 8 9000)) = none ∧
       opBar p (cmdM 0x0D 0 (toLE 4 255 ++ toLE 4 256 ++ toLE 8 9000 ++ toLE 8 3)) = none ∧ opBar p (cmdM 0x10 0 (bs [255])) = none ∧
       opBar p (cmdM 0x11 0 (bs [255])) = none ∧ opBar p (cmdM 0x16 0 []) = none) ∧
    (let s := group2 id fun m => m
     opBar { s.pkg with i3c := { s.pkg.i3c with addr := some 8 } } (cmdM 0x09 0 (bs [0])) = none) := by decide +kernel

/-- None of the ports of a lost optical engine sees light (R36). -/
theorem test_wit_PortCommands_optics :
    (let s := up fun p => { p with fab := { p.fab with ports := [(15, { st := ptUp })] } }
     let t := up fun p => { p with glb := { p.glb with opticsLost := [(3, true)] }, fab := { p.fab with ports := [(15, { st := ptDown })] } }
     2 ≤ (portOf s.pkg 15).st ∧ opticsUp t.pkg 15 = false ∧ opticsUp s.pkg 15 = true ∧
       after (.portLightDetect 15) t = t.pkg) := by decide +kernel

/-- A supply that the clauses on VARR speak of. -/
theorem test_wit_LeashUpdate_supplies : 600 ≤ tget 0 (atLsh { varr := [(3, 600)] }).pkg.lsh.varr 3 := by decide +kernel

/-- Entry 0's APPEND in a step, and the completions of one request beside those above. -/
theorem test_wit_CommandsComplete_requests :
    (let t : TokRead := { desc := {}, count := 1, maxNew := 2, addr := 0x1000, issued := true }
     let s := atReq { ready1 with appends := [t], inStep := true }
     served s.pkg 0 = true ∧ (reqOf s.pkg 0).appends.find? (fun t => t.issued && t.data.isNone) = some t ∧
       ((reqOf (after (.appendReadDone 0 (some [1])) s) 0).appends.map (·.data)) = [some [1]] ∧
       (reqOf (after (.appendReadDone 0 (some [1])) (atReq { ready1 with appends := [t] })) 0).appends = []) ∧
    (let s := pages ctxHost { tab := [(3, { busy := true }), (63, { busy := true })], cowCopies := [(3, 63)] } ready1
     (poolOf (after (.kvCowCopyDone 0 3) s) 0).cowCopies = []) := by decide +kernel

/-- What no check refuses: PLAN_WRITE, FENCE_GROUP, GROUP_WRITE, RESUME_GROUP, MEMBER_LOST, the authorisations, LOG_CLEAR, QUARANTINE,
ARRAY_RELEASE, PEN_RESET, WARM_RESET, PORT_REEVAL and READMIT. -/
theorem test_wit_CommandsComplete_mgt :
    (let s := group2 (fun x => { x with st := penBound, fenced := true }) fun m => { m with epoch := 1 }
     opBar s.pkg (cmdM 0x06 0 (toLE 4 655359 ++ bs [5])) = none ∧ opBar s.pkg (cmdM 0x09 0 (bs [0])) = none ∧
       opBar s.pkg (cmdM 0x0A 0 (bs [0, 0, 1, 0, 1, 0, 0, 0, 5, 0, 0, 128])) = none ∧ opBar s.pkg (cmdM 0x0B 0 (bs [0])) = none ∧
       opBar s.pkg (cmdM 0x0C 0 (bs [0, 0, 0, 0])) = none ∧
       opBar s.pkg (cmdM 0x0D 0 (toLE 4 255 ++ toLE 4 256 ++ toLE 8 9000 ++ toLE 8 3)) = none ∧
       opBar s.pkg (cmdM 0x0E 0 (toLE 8 6 ++ toLE 8 9000)) = none ∧ opBar s.pkg (cmdM 0x10 0 (bs [255])) = none ∧
       opBar s.pkg (cmdM 0x11 0 (bs [255])) = none ∧ opBar s.pkg (cmdM 0x12 0 (bs [0])) = none ∧ opBar s.pkg (cmdM 0x13 0 []) = none ∧
       opBar s.pkg (cmdM 0x14 0 (bs [15])) = none ∧ mayFence (penOf (group2 id id).pkg 0) = true) ∧
    (let s := mgtS fun p => { p with scn := { p.scn with slots := [(0, { seq := 1 }), (1, { seq := 2 })], seqLast := 2 } }
     opBar s.pkg (cmdM 0x0F 0 (toLE 4 2)) = none) ∧
    (let s := mgtS fun p => { p with tick := { p.tick with countSet := true }, fab := { p.fab with plan := some (plan1 false) } }
     opBar s.pkg (cmdM 0x08 0 (toLE 8 1)) = none ∧ readmitLacks s.pkg = none ∧ s.pkg.mgt.pending = []) := by decide +kernel

/-- A PLAN_COMMIT that no check refuses. -/
theorem test_wit_CommandsComplete_commit (s : State) (hp : powered s.pkg = true) (led : ledBy0 s.pkg.mgt)
    (hs : s.pkg.mgt.staging = tsetList 0 [] 0 (tableK 4095 ++ topo2)) (n : Nat) (hn : n = 16384 + 112) :
    let d := sha256 (tgetList 0 s.pkg.mgt.staging 0 n)
    mgtPasses s 0x07 .i3c (msgM 0x07 0 (toLE 4 0 ++ toLE 4 112 ++ d)) := by
  intro d
  have hd : d.length = 32 := sha256_length _
  obtain ⟨hbar, -, -, all⟩ := commit_ready s hp led hs n hn
  obtain ⟨-, -, h112, h0, hdrop⟩ := all d hd
  have hl : (toLE 4 0 ++ toLE 4 112 ++ d).length = 40 := by simp [toLE, hd]
  rw [(msgM_now hp led 0x07 _ (by decide) (by decide) (by omega)).2.1] at h112 h0 hdrop
  refine msgM_passes hp led 0x07 _ (by decide) (by decide) (by omega) ?_
  have hc : planCommitBar s.pkg (cmdM 0x07 0 (toLE 4 0 ++ toLE 4 112 ++ d)) = none := by
    unfold planCommitBar
    simp only [cmdM, h112, h0, hdrop, staged, ← hn]
    rw [if_neg (by omega), hbar]
    simp [firstFail, need, d]
  show firstFail [need (decide (40 ≤ (toLE 4 0 ++ toLE 4 112 ++ d).length)) stLengthInvalid, planCommitBar s.pkg (cmdM 0x07 0 _)] = none
  rw [hc, hl]
  rfl

end Sys2Proof.Tests
end

section
/-! PROOFS. What the shared operations leave, beside Laws/Keep1 to Keep4: the fabric under what answers a request or a descriptor, the Leash
under what moves a step, and the log, the Leash and what is sent under what reads and writes a pen's step. -/

namespace Sys2Proof.Machine

@[simp] theorem modStep_quiet (p : Pkg) (n : Nat) (f : Step → Step) :
    (modStep p n f).scn = p.scn ∧ (modStep p n f).lsh = p.lsh ∧ (modStep p n f).out = p.out ∧ (modStep p n f).pba = p.pba := by
  simp [modStep]
@[simp] theorem pushReply_keeps_fab (p : Pkg) (k c : Nat) (b : Bytes) :
    (pushReply p k c b).fab = p.fab := by
  unfold pushReply; dsimp only; (repeat' split) <;> simp
@[simp] theorem answer_keeps_fab (p : Pkg) (c : Nat) (d : Desc) (status handle : Nat) (late fell : Bool) :
    (answer p c d status handle late fell).fab = p.fab := by
  unfold answer; dsimp only; (repeat' split) <;> simp
@[simp] theorem answerReq_keeps_fab (p : Pkg) (e : Nat) (d : Desc) (status : Nat) :
    (answerReq p e d status).fab = p.fab := by
  unfold answerReq; dsimp only; simp
@[simp] theorem answerHeld_keeps_fab (p : Pkg) (e : Nat) (d : Desc) (status : Nat) :
    (answerHeld p e d status).fab = p.fab := by
  unfold answerHeld; simp
@[simp] theorem refuseAdmit_keeps_fab (p : Pkg) (e status : Nat) :
    (refuseAdmit p e status).fab = p.fab := by
  unfold refuseAdmit; dsimp only; simp
@[simp] theorem leaveStep_keeps_lsh (p : Pkg) (e : Nat) :
    (leaveStep p e).lsh = p.lsh := by
  unfold leaveStep; dsimp only; simp
@[simp] theorem endReq_keeps_fab_lsh (p : Pkg) (e status : Nat) :
    (endReq p e status).fab = p.fab ∧ (endReq p e status).lsh = p.lsh := by
  unfold endReq; dsimp only; (repeat' split) <;> simp
@[simp] theorem closeReq_keeps_fab (p : Pkg) (e : Nat) :
    (closeReq p e).fab = p.fab := by
  unfold closeReq; dsimp only; (repeat' split) <;> simp
@[simp] theorem closeResume_keeps_fab (p : Pkg) (e status : Nat) :
    (closeResume p e status).fab = p.fab := by
  unfold closeResume; (repeat' split) <;> simp
@[simp] theorem applyPause_keeps_fab (p : Pkg) (e : Nat) (d : Desc) (ttl : Nat) :
    (applyPause p e d ttl).fab = p.fab := by
  unfold applyPause; dsimp only; (repeat' split) <;> simp
@[simp] theorem applyAppend_keeps_fab (p : Pkg) (e : Nat) (t : TokRead) (ts : List Word32) :
    (applyAppend p e t ts).fab = p.fab := by
  unfold applyAppend; dsimp only; (repeat' split) <;> simp
@[simp] theorem applyHeld_keeps_fab (p : Pkg) (e : Nat) :
    (applyHeld p e).fab = p.fab := by
  unfold applyHeld
  refine forAll_fab _ _ _ fun q d => ?_
  dsimp only
  (repeat' split) <;> simp
@[simp] theorem fallbackReq_keeps_fab_lsh (p : Pkg) (e : Nat) :
    (fallbackReq p e).fab = p.fab ∧ (fallbackReq p e).lsh = p.lsh := by
  unfold fallbackReq; dsimp only; (repeat' split) <;> simp
@[simp] theorem applyPolicy_keeps_fab_lsh (p : Pkg) (e : Nat) :
    (applyPolicy p e).fab = p.fab ∧ (applyPolicy p e).lsh = p.lsh := by
  unfold applyPolicy; dsimp only; (repeat' split) <;> simp
@[simp] theorem retireReq_keeps_fab_lsh (p : Pkg) (e : Nat) :
    (retireReq p e).fab = p.fab ∧ (retireReq p e).lsh = p.lsh := by
  unfold retireReq; dsimp only; (repeat' split) <;> simp
@[simp] theorem decideAdmit_keeps_fab (p : Pkg) (e : Nat) :
    (decideAdmit p e).fab = p.fab := by
  unfold decideAdmit; dsimp only; (repeat' split) <;> simp
@[simp] theorem mgtReply_keeps_fab (p : Pkg) (c : PendCmd) (status : Nat) (body : Bytes) :
    (mgtReply p c status body).fab = p.fab := by
  unfold mgtReply; dsimp only; (repeat' split) <;> simp
@[simp] theorem mgtDone_keeps_fab (p : Pkg) (c : PendCmd) (body : Bytes) :
    (mgtDone p c body).fab = p.fab := by
  unfold mgtDone; simp
@[simp] theorem retain_quiet (p : Pkg) (n : ℕ) (layer : ℕ) (us : List (Option (ℕ × ℕ) × Bytes × ℤ)) :
    (retain p n layer us).scn = p.scn ∧ (retain p n layer us).lsh = p.lsh ∧ (retain p n layer us).out = p.out ∧
      (retain p n layer us).pba = p.pba := by
  simp [retain]
@[simp] theorem readBuffer_quiet (p : Pkg) (a b off count : ℕ) :
    (readBuffer p a b off count).2.scn = p.scn ∧ (readBuffer p a b off count).2.lsh = p.lsh ∧
      (readBuffer p a b off count).2.out = p.out ∧ (readBuffer p a b off count).2.pba = p.pba := by
  unfold readBuffer; dsimp only; simp
@[simp] theorem storeRow_quiet (p : Pkg) (a w i : Nat) (r : LRec) (x : Plane) (d : ArrData) :
    (storeRow p a w i r x d).1.scn = p.scn ∧ (storeRow p a w i r x d).1.lsh = p.lsh ∧ (storeRow p a w i r x d).1.out = p.out ∧
      (storeRow p a w i r x d).1.pba = p.pba := by
  unfold storeRow; dsimp only; (repeat' split) <;> simp
@[simp] theorem storeOp_quiet (p : Pkg) (a : Nat) :
    (storeOp p a).scn = p.scn ∧ (storeOp p a).lsh = p.lsh ∧ (storeOp p a).out = p.out ∧ (storeOp p a).pba = p.pba := by
  unfold storeOp; dsimp only; (repeat' split) <;> simp
@[simp] theorem selectHalf_quiet (p : Pkg) (n e h : Nat) :
    (selectHalf p n e h).scn = p.scn ∧ (selectHalf p n e h).lsh = p.lsh ∧ (selectHalf p n e h).out = p.out ∧
      (selectHalf p n e h).pba = p.pba := by
  unfold selectHalf; dsimp only; (repeat' split) <;> simp
@[simp] theorem keepRecord_quiet (p : Pkg) (n : Nat) (r : CountRec) :
    (keepRecord p n r).scn = p.scn ∧ (keepRecord p n r).lsh = p.lsh ∧ (keepRecord p n r).out = p.out ∧ (keepRecord p n r).pba = p.pba := by
  unfold keepRecord; dsimp only; (repeat' split) <;> simp
@[simp] theorem sendRecord_keeps_scn_lsh (p : Pkg) (n : Nat) (step : Bool) (r : CountRec) :
    (sendRecord p n step r).scn = p.scn ∧ (sendRecord p n step r).lsh = p.lsh := by
  unfold sendRecord; dsimp only; simp
@[simp] theorem wideEntryOp_keeps_lsh (p : Pkg) (n e : Nat) :
    (wideEntryOp p n e).lsh = p.lsh := by
  unfold wideEntryOp; dsimp only; (repeat' split) <;> simp
@[simp] theorem decideStepX_keeps_lsh (p : Pkg) (n : Nat) :
    (decideStepX p n).lsh = p.lsh := by
  unfold decideStepX; dsimp only; (repeat' split) <;> simp
@[simp] theorem decideRouting_keeps_lsh (p : Pkg) (n e h : Nat) :
    (decideRouting p n e h).lsh = p.lsh := by
  unfold decideRouting; dsimp only; (repeat' split) <;> simp
@[simp] theorem decideNext_keeps_lsh (p : Pkg) (n : Nat) :
    (decideNext p n).lsh = p.lsh := by
  unfold decideNext; dsimp only; (repeat' split) <;> simp
@[simp] theorem writePiece_quiet (p : Pkg) (n e f s : Nat) (a : Place) (pan : Nat) (b : Bytes) :
    (writePiece p n e f s a pan b).scn = p.scn ∧ (writePiece p n e f s a pan b).lsh = p.lsh ∧
      (writePiece p n e f s a pan b).out = p.out ∧ (writePiece p n e f s a pan b).pba = p.pba := by
  unfold writePiece; dsimp only; simp
@[simp] theorem modDecided_quiet (p : Pkg) (n x : Nat) (f : Decided → Decided) :
    (modDecided p n x f).scn = p.scn ∧ (modDecided p n x f).lsh = p.lsh ∧ (modDecided p n x f).out = p.out ∧
      (modDecided p n x f).pba = p.pba := by
  simp [modDecided]
@[simp] theorem sendRow_keeps_scn_lsh (p : Pkg) (n : Nat) (d : Decided) (a : RowOf) :
    (sendRow p n d a).scn = p.scn ∧ (sendRow p n d a).lsh = p.lsh := by
  unfold sendRow; dsimp only; (repeat' split) <;> simp
@[simp] theorem sendRound_keeps_scn_lsh (p : Pkg) (n : Nat) (d : Decided) :
    (sendRound p n d).scn = p.scn ∧ (sendRound p n d).lsh = p.lsh := by
  unfold sendRound; dsimp only; simp
@[simp] theorem sendNext_keeps_scn_lsh (p : Pkg) (n : ℕ) :
    (sendNext p n).scn = p.scn ∧ (sendNext p n).lsh = p.lsh := by
  unfold sendNext; dsimp only; simp
@[simp] theorem drive1_keeps_lsh (p : Pkg) (n : Nat) :
    (drive1 p n).lsh = p.lsh := by
  unfold drive1; simp
@[simp] theorem drive_keeps_lsh (p : Pkg) (n : Nat) (z0 : Nat) :
    (drive p n z0).lsh = p.lsh := by
  induction z0 generalizing p with
  | zero => rfl
  | succ k ih => unfold drive; dsimp only; split <;> simp [ih]
@[simp] theorem recordIn_keeps_lsh (p : Pkg) (n slot : Nat) (b : Bytes) :
    (recordIn p n slot b).lsh = p.lsh := by
  unfold recordIn; dsimp only; (repeat' split) <;> simp
@[simp] theorem markIn_keeps_lsh (p : Pkg) (n kind slot w : Nat) :
    (markIn p n kind slot w).lsh = p.lsh := by
  unfold markIn; dsimp only; simp
@[simp] theorem pieceIn_quiet (p : Pkg) (n off : Nat) (b : Bytes) :
    (pieceIn p n off b).2.scn = p.scn ∧ (pieceIn p n off b).2.lsh = p.lsh ∧ (pieceIn p n off b).2.out = p.out ∧
      (pieceIn p n off b).2.pba = p.pba := by
  unfold pieceIn; dsimp only; (repeat' split) <;> simp
@[simp] theorem tagsIn_quiet (p : Pkg) (n off : Nat) (b : Bytes) :
    (tagsIn p n off b).2.scn = p.scn ∧ (tagsIn p n off b).2.lsh = p.lsh ∧ (tagsIn p n off b).2.out = p.out ∧
      (tagsIn p n off b).2.pba = p.pba := by
  unfold tagsIn; dsimp only; (repeat' split) <;> simp
@[simp] theorem combineIn_quiet (p : Pkg) (n off : Nat) (b : Bytes) :
    (combineIn p n off b).2.scn = p.scn ∧ (combineIn p n off b).2.lsh = p.lsh ∧ (combineIn p n off b).2.out = p.out ∧
      (combineIn p n off b).2.pba = p.pba := by
  unfold combineIn; dsimp only; (repeat' split) <;> simp
@[simp] theorem openExchange_keeps_lsh (p : Pkg) (n e h : Nat) :
    (openExchange p n e h).lsh = p.lsh := by
  unfold openExchange; dsimp only; (repeat' split) <;> simp
@[simp] theorem routerReleased_keeps_lsh (p : Pkg) (n layer : Nat) :
    (routerReleased p n layer).lsh = p.lsh := by
  unfold routerReleased; dsimp only; (repeat' split) <;> simp
@[simp] theorem expertsReleased_keeps_lsh (p : Pkg) (n layer : Nat) :
    (expertsReleased p n layer).lsh = p.lsh := by
  unfold expertsReleased; dsimp only; (repeat' split) <;> simp
@[simp] theorem combineHalf_quiet (p : Pkg) (n : Nat) (d : Decided) :
    (combineHalf p n d).scn = p.scn ∧ (combineHalf p n d).lsh = p.lsh ∧ (combineHalf p n d).out = p.out ∧
      (combineHalf p n d).pba = p.pba := by
  unfold combineHalf; dsimp only; simp
@[simp] theorem sendSlotWords_keeps_lsh (p : Pkg) (n : Nat) :
    (sendSlotWords p n).lsh = p.lsh := by
  unfold sendSlotWords; dsimp only; simp
@[simp] theorem candIn_quiet (p : Pkg) (n off : Nat) (b : Bytes) :
    (candIn p n off b).2.scn = p.scn ∧ (candIn p n off b).2.lsh = p.lsh ∧ (candIn p n off b).2.out = p.out ∧
      (candIn p n off b).2.pba = p.pba := by
  unfold candIn; dsimp only; (repeat' split) <;> simp
@[simp] theorem sendCands_keeps_scn_lsh (p : Pkg) (n : Nat) :
    (sendCands p n).scn = p.scn ∧ (sendCands p n).lsh = p.lsh := by
  unfold sendCands
  constructor
  · refine forAll_scn _ _ _ fun q x => ?_
    dsimp only
    (repeat' split) <;> simp
  · refine forAll_lsh _ _ _ fun q x => ?_
    dsimp only
    (repeat' split) <;> simp
@[simp] theorem selectSlot_keeps_lsh (p : Pkg) (n s : Nat) (u : SlotUse) :
    (selectSlot p n s u).lsh = p.lsh := by
  unfold selectSlot; dsimp only; (repeat' split) <;> simp
@[simp] theorem setupDone_keeps_lsh (p : Pkg) (n : Nat) :
    (setupDone p n).lsh = p.lsh := by
  unfold setupDone; dsimp only; simp
@[simp] theorem stepRelease_quiet (p : Pkg) (n : Nat) :
    (stepRelease p n).scn = p.scn ∧ (stepRelease p n).lsh = p.lsh ∧ (stepRelease p n).out = p.out ∧ (stepRelease p n).pba = p.pba := by
  simp [stepRelease]
@[simp] theorem completeGen_quiet (p : Pkg) (n b : Nat) :
    (completeGen p n b).scn = p.scn ∧ (completeGen p n b).lsh = p.lsh ∧ (completeGen p n b).out = p.out ∧
      (completeGen p n b).pba = p.pba := by
  unfold completeGen; dsimp only; simp
@[simp] theorem syncOp_keeps_scn_pens_lsh_out_pba (p : Pkg) (a : Nat) (arr wait : Bool) :
    (syncOp p a arr wait).scn = p.scn ∧ (syncOp p a arr wait).pens = p.pens ∧ (syncOp p a arr wait).lsh = p.lsh ∧
      (syncOp p a arr wait).out = p.out ∧ (syncOp p a arr wait).pba = p.pba := by
  unfold syncOp; dsimp only; (repeat' split) <;> simp
@[simp] theorem endOp_keeps_scn_ctxs_lsh_hnd (p : Pkg) (a : Nat) :
    (endOp p a).scn = p.scn ∧ (endOp p a).ctxs = p.ctxs ∧ (endOp p a).lsh = p.lsh ∧ (endOp p a).hnd = p.hnd := by
  unfold endOp; dsimp only; (repeat' split) <;> simp
@[simp] theorem logLayer_keeps_lsh (p : Pkg) (n layer code : Nat) (s : Summary) :
    (logLayer p n layer code s).lsh = p.lsh := by
  unfold logLayer; dsimp only; simp
@[simp] theorem releaseLayer_keeps_lsh (p : Pkg) (n layer : Nat) :
    (releaseLayer p n layer).lsh = p.lsh := by
  unfold releaseLayer; dsimp only; (repeat' split) <;> simp
@[simp] theorem replayLayer_keeps_lsh (p : Pkg) (n layer kind : Nat) :
    (replayLayer p n layer kind).lsh = p.lsh := by
  unfold replayLayer; dsimp only; simp
@[simp] theorem rescale_keeps_lsh (p : Pkg) (n layer : Nat) (r : LRec) (s : Summary) :
    (rescale p n layer r s).lsh = p.lsh := by
  unfold rescale; dsimp only; (repeat' split) <;> simp
@[simp] theorem widenLayer_keeps_lsh (p : Pkg) (n layer : Nat) (s : Summary) :
    (widenLayer p n layer s).lsh = p.lsh := by
  unfold widenLayer; dsimp only; simp
@[simp] theorem layerDoneOp_keeps_lsh (p : Pkg) (n layer : Nat) :
    (layerDoneOp p n layer).lsh = p.lsh := by
  unfold layerDoneOp; dsimp only; (repeat' split) <;> simp
@[simp] theorem turnEnd_keeps_fab (p : Pkg) (e : Nat) :
    (turnEnd p e).fab = p.fab := by
  unfold turnEnd; dsimp only; (repeat' split) <;> simp
@[simp] theorem deliver_keeps_fab (p : Pkg) (e : Nat) (s : Selection) :
    (deliver p e s).fab = p.fab := by
  unfold deliver; dsimp only; (repeat' split) <;> simp
@[simp] theorem retireOne_keeps_fab (p : Pkg) (t : Step) (e : Nat) :
    (retireOne p t e).fab = p.fab := by
  unfold retireOne; dsimp only; (repeat' split) <;> simp
@[simp] theorem stepDoneOp_keeps_nvw_fab (p : Pkg) (n : Nat) :
    (stepDoneOp p n).nvw = p.nvw ∧ (stepDoneOp p n).fab = p.fab := by
  unfold stepDoneOp; dsimp only; (repeat' split) <;> simp
@[simp] theorem imprintRefuse_keeps_fab (p : Pkg) (c slot0 : Nat) (d : Desc) (status : Nat) :
    (imprintRefuse p c slot0 d status).fab = p.fab := by
  unfold imprintRefuse; simp
@[simp] theorem answerOdd_keeps_fab (p : Pkg) (c : Nat) (d : Desc) :
    (answerOdd p c d).fab = p.fab := by
  unfold answerOdd; (repeat' split) <;> simp
@[simp] theorem flushOdd_keeps_fab (p : Pkg) (s : Src) (z0 : Nat) :
    (flushOdd p s z0).fab = p.fab := by
  induction z0 generalizing p with
  | zero => rfl
  | succ k ih => unfold flushOdd; (repeat' split) <;> simp [ih]
@[simp] theorem pumpRing_keeps_fab_hnd (p : Pkg) (c : Nat) :
    (pumpRing p c).fab = p.fab ∧ (pumpRing p c).hnd = p.hnd := by
  unfold pumpRing; (repeat' split) <;> simp
@[simp] theorem resetDone_keeps_fab (p : Pkg) (c : Nat) (failed : Option Nat) :
    (resetDone p c failed).fab = p.fab := by
  unfold resetDone; dsimp only; (repeat' split) <;> simp
@[simp] theorem byHandle_fab (p : Pkg) (c : Nat) (d : Desc) (fields : List (Option Nat)) (f : Pkg → Nat → Pkg)
    (h_f : ∀ q e, (f q e).fab = q.fab) : (byHandle p c d fields f).fab = p.fab := by
  unfold byHandle; dsimp only; (repeat' split) <;> simp [h_f]
@[simp] theorem ended_fab (p : Pkg) (e : Nat) (d : Desc) (f : Pkg → Pkg) (h_f : ∀ q, (f q).fab = q.fab) :
    (ended p e d f).fab = p.fab := by
  unfold ended; dsimp only; (repeat' split) <;> simp [h_f]
@[simp] theorem evalDesc_fab (p : Pkg) (s : Src) (type : Nat) (f : Pkg → Nat → Desc → Pkg)
    (h_f : ∀ q c d, (f q c d).fab = q.fab) : (evalDesc p s type f).fab = p.fab := by
  unfold evalDesc; (repeat' split) <;> simp [h_f]
@[simp] theorem admitOp_keeps_fab (p : Pkg) (c : Nat) (d : Desc) :
    (admitOp p c d).fab = p.fab := by
  unfold admitOp; dsimp only; (repeat' split) <;> simp
@[simp] theorem appendOp_keeps_fab (p : Pkg) (c : Nat) (d : Desc) :
    (appendOp p c d).fab = p.fab := by
  unfold appendOp; dsimp only; simp
@[simp] theorem cancelOp_keeps_fab_lsh (p : Pkg) (c : Nat) (d : Desc) :
    (cancelOp p c d).fab = p.fab ∧ (cancelOp p c d).lsh = p.lsh := by
  unfold cancelOp; dsimp only; simp
@[simp] theorem pauseOp_keeps_fab (p : Pkg) (c : Nat) (d : Desc) :
    (pauseOp p c d).fab = p.fab := by
  unfold pauseOp; dsimp only; simp
@[simp] theorem resumeReq_keeps_fab (p : Pkg) (c e : Nat) (d : Desc) :
    (resumeReq p c e d).fab = p.fab := by
  unfold resumeReq; dsimp only; (repeat' split) <;> simp
@[simp] theorem resumeOp_keeps_fab (p : Pkg) (c : Nat) (d : Desc) :
    (resumeOp p c d).fab = p.fab := by
  unfold resumeOp; dsimp only; simp
@[simp] theorem samplingOp_keeps_fab (p : Pkg) (c : Nat) (d : Desc) :
    (samplingOp p c d).fab = p.fab := by
  unfold samplingOp; dsimp only; (repeat' split) <;> simp
@[simp] theorem fenceOp_keeps_fab (p : Pkg) (c : Nat) (d : Desc) :
    (fenceOp p c d).fab = p.fab := by
  unfold fenceOp; dsimp only; (repeat' split) <;> simp
@[simp] theorem rollcallOp_keeps_fab (p : Pkg) (c : Nat) (d : Desc) :
    (rollcallOp p c d).fab = p.fab := by
  unfold rollcallOp; dsimp only; (repeat' split) <;> simp
@[simp] theorem copyAdvance_quiet (p : Pkg) (n : Nat) (k : Copy) :
    (copyAdvance p n k).scn = p.scn ∧ (copyAdvance p n k).lsh = p.lsh ∧ (copyAdvance p n k).out = p.out ∧
      (copyAdvance p n k).pba = p.pba := by
  unfold copyAdvance; dsimp only; simp
@[simp] theorem leaveSwapped_keeps_fab (p : Pkg) (e : Nat) :
    (leaveSwapped p e).fab = p.fab := by
  unfold leaveSwapped; (repeat' split) <;> simp
@[simp] theorem leaveBack_keeps_fab (p : Pkg) (es : List ℕ) :
    (leaveBack p es).fab = p.fab := by
  simp [leaveBack]
@[simp] theorem contextIn_keeps_fab (p : Pkg) (n c : Nat) :
    (contextIn p n c).fab = p.fab := by
  unfold contextIn; dsimp only; simp
@[simp] theorem judgeSwap_keeps_fab (p : Pkg) (n : Nat) :
    (judgeSwap p n).fab = p.fab := by
  unfold judgeSwap; (repeat' split) <;> simp
@[simp] theorem copyEnded_keeps_fab (p : Pkg) (k : Copy) :
    (copyEnded p k).fab = p.fab := by
  unfold copyEnded; (repeat' split) <;> simp
@[simp] theorem copyLands_keeps_fab_lsh (p : Pkg) (n : Nat) (data : Option Bytes) :
    (copyLands p n data).fab = p.fab ∧ (copyLands p n data).lsh = p.lsh := by
  unfold copyLands; dsimp only; (repeat' split) <;> simp
@[simp] theorem beginReturn_keeps_fab (p : Pkg) (e : Nat) :
    (beginReturn p e).fab = p.fab := by
  unfold beginReturn; dsimp only; (repeat' split) <;> simp
@[simp] theorem returnsOf_keeps_fab (p : Pkg) (n : Nat) :
    (returnsOf p n).fab = p.fab := by
  unfold returnsOf; dsimp only; simp
@[simp] theorem swapIn_keeps_fab (p : Pkg) (n c : Nat) :
    (swapIn p n c).fab = p.fab := by
  unfold swapIn; dsimp only; simp
@[simp] theorem swapOut_keeps_fab (p : Pkg) (n c : Nat) :
    (swapOut p n c).fab = p.fab := by
  unfold swapOut; dsimp only; simp
@[simp] theorem contextSwapOp_keeps_fab (p : Pkg) (n : Nat) :
    (contextSwapOp p n).fab = p.fab := by
  unfold contextSwapOp; dsimp only; (repeat' split) <;> simp
@[simp] theorem capReply_keeps_fab (p : Pkg) :
    (capReply p).fab = p.fab := by
  unfold capReply; dsimp only; (repeat' split) <;> simp
@[simp] theorem applyCap_keeps_fab (p : Pkg) (c : CapCmd) :
    (applyCap p c).fab = p.fab := by
  unfold applyCap; dsimp only; (repeat' split) <;> simp
@[simp] theorem hintOp_keeps_fab (p : Pkg) (c : Nat) (d : Desc) :
    (hintOp p c d).fab = p.fab := by
  unfold hintOp; dsimp only; (repeat' split) <;> simp
@[simp] theorem billPens_keeps_pens (p : Pkg) (rest trot : Nat) (real : List (Nat × Nat)) :
    (billPens p rest trot real).pens = p.pens := by
  unfold billPens; dsimp only; (repeat' split) <;> simp
@[simp] theorem billTick_keeps_pens (p : Pkg) (m : Measure) :
    (billTick p m).pens = p.pens := by
  unfold billTick; dsimp only; simp
@[simp] theorem leashTick_keeps_pens (p : Pkg) (m : Measure) :
    (leashTick p m).pens = p.pens := by
  unfold leashTick; dsimp only; simp
@[simp] theorem imprintWriteOp_keeps_fab (p : Pkg) (c : Nat) (d : Desc) :
    (imprintWriteOp p c d).fab = p.fab := by
  unfold imprintWriteOp; dsimp only; (repeat' split) <;> simp
@[simp] theorem imprintRetireOp_keeps_fab (p : Pkg) (c : Nat) (d : Desc) :
    (imprintRetireOp p c d).fab = p.fab := by
  unfold imprintRetireOp; dsimp only; (repeat' split) <;> simp
@[simp] theorem imprintEnd_keeps_fab (p : Pkg) (i : Imprint) (payload : Option Bytes) :
    (imprintEnd p i payload).fab = p.fab := by
  unfold imprintEnd; dsimp only; (repeat' split) <;> simp
@[simp] theorem ringWriteFailed_keeps_fab (p : Pkg) (c : ℕ) (ring : ℕ) :
    (ringWriteFailed p c ring).fab = p.fab := by
  unfold ringWriteFailed; (repeat' split) <;> simp
@[simp] theorem recvGateOp_quiet (p : Pkg) (n : Nat) (d : Decided) :
    (recvGateOp p n d).scn = p.scn ∧ (recvGateOp p n d).lsh = p.lsh ∧ (recvGateOp p n d).out = p.out ∧ (recvGateOp p n d).pba = p.pba := by
  unfold recvGateOp; dsimp only; simp
@[simp] theorem promptRead_keeps_fab_lsh (p : Pkg) (e : Nat) (ts : List Word32) :
    (promptRead p e ts).fab = p.fab ∧ (promptRead p e ts).lsh = p.lsh := by
  unfold promptRead; dsimp only; (repeat' split) <;> simp
@[simp] theorem appendRead_keeps_fab (p : Pkg) (e : Nat) (t : TokRead) (ts : List Word32) :
    (appendRead p e t ts).fab = p.fab := by
  unfold appendRead; dsimp only; (repeat' split) <;> simp
@[simp] theorem missDeadline_keeps_fab_lsh (p : Pkg) (e : Nat) :
    (missDeadline p e).fab = p.fab ∧ (missDeadline p e).lsh = p.lsh := by
  unfold missDeadline; dsimp only; (repeat' split) <;> simp
@[simp] theorem takeCmd_keeps_fab (p : Pkg) (k c : Nat) (b : Bytes) :
    (takeCmd p k c b).fab = p.fab := by
  unfold takeCmd; dsimp only; (repeat' split) <;> simp
@[simp] theorem takeMail_keeps_fab (p : Pkg) (k c : Nat) (z0 : Nat) :
    (takeMail p k c z0).fab = p.fab := by
  induction z0 generalizing p with
  | zero => rfl
  | succ k ih => unfold takeMail; dsimp only; (repeat' split) <;> simp [ih]
@[simp] theorem pumpMail_keeps_fab (p : Pkg) (k : Nat) :
    (pumpMail p k).fab = p.fab := by
  unfold pumpMail; dsimp only; (repeat' split) <;> simp
@[simp] theorem mailDoorbell_keeps_fab (p : Pkg) (k v : Nat) :
    (mailDoorbell p k v).fab = p.fab := by
  unfold mailDoorbell; dsimp only; (repeat' split) <;> simp
@[simp] theorem mailWordWrite_keeps_fab (p : Pkg) (k : ℕ) (off : ℕ) (v : ℕ) :
    (mailWordWrite p k off v).fab = p.fab := by
  unfold mailWordWrite; (repeat' split) <;> simp
@[simp] theorem ringBaseWrite_keeps_fab (p : Pkg) (k : ℕ) (c : ℕ) (off : ℕ) (size : ℕ) (v : ℕ) :
    (ringBaseWrite p k c off size v).fab = p.fab := by
  unfold ringBaseWrite; dsimp only; (repeat' split) <;> simp
@[simp] theorem pageStore_keeps_fab (p : Pkg) (c : ℕ) (a : ℕ) (d : Bytes) :
    (pageStore p c a d).fab = p.fab := by
  unfold pageStore; simp
@[simp] theorem progAccess_keeps_fab (c k : Nat) (p : Pkg) (x : Access) : (progAccess c k p x).fab = p.fab := by
  unfold progAccess; dsimp only; (repeat' split) <;> simp
@[simp] theorem progStores_keeps_fab (p : Pkg) (c : ℕ) (k : ℕ) (l : Stores) :
    (progStores p c k l).fab = p.fab := by
  simp [progStores]

/-! Words that wait give no package; where they run, they record, bill and send nothing. -/

theorem takeUnits_quiet {p q : Pkg} {a c count : Nat} {us : List (Bytes × Int)} (h : takeUnits p a c count = some (us, q)) :
    q.scn = p.scn ∧ q.lsh = p.lsh ∧ q.out = p.out ∧ q.pba = p.pba := by
  unfold takeUnits at h
  dsimp only at h
  split at h
  · split at h
    · cases h; simp
    · cases h
  · cases h

theorem opdFrom_quiet {p q : Pkg} {a : Nat} {d : ArrData} {rows cols : Nat} {o : OpdSpec} {x : Opd}
    (h : opdFrom p a d rows cols o = some (x, q)) : q.scn = p.scn ∧ q.lsh = p.lsh ∧ q.out = p.out ∧ q.pba = p.pba := by
  unfold opdFrom at h
  split at h
  · cases h; simp
  · split at h
    · next hu => cases h; exact takeUnits_quiet hu
    · cases h

theorem mmaOp_quiet {p q : Pkg} {a : Nat} (h : mmaOp p a = some q) :
    q.scn = p.scn ∧ q.lsh = p.lsh ∧ q.out = p.out ∧ q.pba = p.pba := by
  unfold mmaOp at h
  dsimp only at h
  split at h
  · cases h
  · next hA =>
    split at h
    · cases h
    · next hB =>
      cases h
      simp [opdFrom_quiet hA, opdFrom_quiet hB]

theorem fuseFrom_quiet {p q : Pkg} {a : Nat} {d : ArrData} {rows cols : Nat} {values : Bool} {o : OpdSpec} {x : Nat → Opd}
    {g : Option Gathered} (h : fuseFrom p a d rows cols values o = some (x, g, q)) :
    q.scn = p.scn ∧ q.lsh = p.lsh ∧ q.out = p.out ∧ q.pba = p.pba := by
  unfold fuseFrom at h
  extract_lets gather at h
  split at h
  · simp only [Option.some.injEq, Prod.mk.injEq] at h
    obtain ⟨-, -, rfl⟩ := h
    simp
  · split at h
    · next hu =>
      simp only [Option.some.injEq, Prod.mk.injEq] at h
      obtain ⟨-, -, rfl⟩ := h
      exact opdFrom_quiet hu
    · cases h

theorem fuse2Op_quiet {p q : Pkg} {a : Nat} (h : fuse2Op p a = some q) :
    q.scn = p.scn ∧ q.lsh = p.lsh ∧ q.out = p.out ∧ q.pba = p.pba := by
  unfold fuse2Op at h
  dsimp only at h
  split at h
  · cases h
  · next hA =>
    split at h
    · cases h
    · next hB =>
      split at h
      · cases h
      · next hD =>
        injection h with h
        simp only [← h, fuseWrite_keeps, opdFrom_quiet hA, fuseFrom_quiet hB, fuseFrom_quiet hD, and_self]

theorem loadOp_quiet {p q : Pkg} {a : Nat} (h : loadOp p a = some q) :
    q.scn = p.scn ∧ q.lsh = p.lsh ∧ q.out = p.out ∧ q.pba = p.pba := by
  unfold loadOp at h
  extract_lets w count dst units at h
  have hu : ∀ us p1, units = some (us, p1) → p1.scn = p.scn ∧ p1.lsh = p.lsh ∧ p1.out = p.out ∧ p1.pba = p.pba := by
    intro us p1 hx
    simp only [units] at hx
    split at hx
    · obtain rfl : (readBuffer p a (wbits w 0 19 8) (wbits w 4 31 0) count).2 = p1 := by rw [Option.some.inj hx]
      simp
    · exact takeUnits_quiet hx
  clear_value units
  split at h
  · cases h
  · next us p1 =>
    cases h
    simp [hu us p1 rfl]

/-! A register write and a look ahead at resets keep what the operation under them keeps. -/

@[simp] theorem regWrite_pba (p : Pkg) (fn off : Nat) (f : Pkg → Pkg) (h_f : ∀ q, (f q).pba = q.pba) :
    (regWrite p fn off f).pba = p.pba := by
  unfold regWrite
  dsimp only
  split <;> simp [h_f]

@[simp] theorem pfWrite_pba (p : Pkg) (fn off : Nat) (f : Pkg → Pkg) (h_f : ∀ q, (f q).pba = q.pba) :
    (pfWrite p fn off f).pba = p.pba := by
  refine regWrite_pba p fn off _ fun q => ?_
  split <;> simp [h_f]

@[simp] theorem underResets_pins (s : State) (op : Nat) (f : Pkg → Pkg) (h_f : ∀ q, (f q).pins = q.pins) :
    (underResets s op f).pins = s.pkg.pins :=
  underResets_keep Pkg.pins s op f h_f (fun _ _ _ => rfl) fun _ _ => rfl

@[simp] theorem underResets_lastGen (s : State) (op : Nat) (f : Pkg → Pkg) (h_f : ∀ q, (f q).lastGen = q.lastGen) :
    (underResets s op f).lastGen = s.pkg.lastGen :=
  underResets_keep Pkg.lastGen s op f h_f (fun _ _ _ => rfl) fun _ _ => rfl

end Sys2Proof.Machine
end

section
/-! PROOFS. The frame of each command: it answers a next state with the queue as it stands, and keeps every part of the package that
`mayChange` does not list for it. -/

namespace Sys2Proof.Machine

/-- Every part of the package outside the list is as it was. -/
def Keeps (l : List Area) (p q : Pkg) : Prop := ∀ x : Area, x ∉ l → x.same p q

/-- The frame of a command: it answers a next state with the queue as it stands, and keeps every part that is not listed for it. -/
def Framed (c : Instr) (s : State) : Prop :=
  ∃ q : Pkg, exec c s = .next { s with pkg := q } ∧ Keeps (mayChange c) s.pkg q

theorem Keeps.refl (l : List Area) (p : Pkg) : Keeps l p p := fun x _ => x.same_refl p

/-- What is kept, part by part. -/
theorem keeps_iff (l : List Area) (p q : Pkg) : Keeps l p q ↔
    (.pins ∉ l → q.pins = p.pins) ∧ (.tick ∉ l → q.tick = p.tick) ∧ (.glb ∉ l → q.glb = p.glb) ∧ (.scn ∉ l → q.scn = p.scn) ∧
    (.arrays ∉ l → q.arrays = p.arrays) ∧ (.ldr ∉ l → q.ldr = p.ldr) ∧ (.pens ∉ l → q.pens = p.pens) ∧ (.nvw ∉ l → q.nvw = p.nvw) ∧
    (.ctxs ∉ l → q.ctxs = p.ctxs) ∧ (.numVfs ∉ l → q.numVfs = p.numVfs) ∧ (.reqs ∉ l → q.reqs = p.reqs) ∧
    (.lastGen ∉ l → q.lastGen = p.lastGen) ∧ (.rq ∉ l → q.rq = p.rq) ∧ (.kvp ∉ l → q.kvp = p.kvp) ∧ (.fab ∉ l → q.fab = p.fab) ∧
    (.lsh ∉ l → q.lsh = p.lsh) ∧ (.hnd ∉ l → q.hnd = p.hnd) ∧ (.mgt ∉ l → q.mgt = p.mgt) ∧ (.i3c ∉ l → q.i3c = p.i3c) ∧
    (.out ∉ l → q.out = p.out ∧ q.pba = p.pba) ∧ (.freeCtr ∉ l → q.freeCtr = p.freeCtr) := by
  constructor
  · intro h
    refine ⟨?_, ?_, ?_, ?_, ?_, ?_, ?_, ?_, ?_, ?_, ?_, ?_, ?_, ?_, ?_, ?_, ?_, ?_, ?_, ?_, ?_⟩ <;> exact fun hx => h _ hx
  · rintro ⟨h1, h2, h3, h4, h5, h6, h7, h8, h9, h10, h11, h12, h13, h14, h15, h16, h17, h18, h19, h20, h21⟩ x hx
    cases x <;> solve_by_elim

theorem framed_of_act {c : Instr} {s : State} {ok : Bool} {f : Pkg → Pkg} (hc : exec c s = act ok f s)
    (hf : Keeps (mayChange c) s.pkg (f s.pkg)) : Framed c s := by
  refine ⟨_, hc.trans (act_eq _ _ s), ?_⟩
  split
  · exact hf
  · exact Keeps.refl _ _

theorem framed_of_actS {c : Instr} {s : State} {ok : Bool} {f : Pkg → Pkg} (hc : exec c s = actS ok f s)
    (hf : Keeps (mayChange c) s.pkg (settle s.pkg (judgeReady (f s.pkg)))) : Framed c s :=
  framed_of_act hc hf

theorem Keeps.getD {l : List Area} {p : Pkg} {o : Option Pkg} (h : ∀ q, o = some q → Keeps l p q) : Keeps l p (o.getD p) := by
  cases o with
  | none => exact Keeps.refl l p
  | some q => exact h q rfl

/-! #### Supplies and reset pins -/

-- `mayChange` is unfolded by its one equation over all commands: an equation for each command apart costs more than the frames.
theorem powerUp_framed (s : State) : Framed .powerUp s :=
  framed_of_act ((exec_powerUp s).trans rfl) (by simp [mayChange.eq_def, keeps_iff])
theorem vin6Lockout_framed (s : State) : Framed .vin6Lockout s :=
  framed_of_act ((exec_vin6Lockout s).trans rfl) (by simp [mayChange.eq_def, keeps_iff])
theorem auxRailFault_framed (s : State) : Framed .auxRailFault s :=
  framed_of_act ((exec_auxRailFault s).trans rfl) (by simp [mayChange.eq_def, keeps_iff])
theorem resetNAssert_framed (s : State) : Framed .resetNAssert s :=
  framed_of_act ((exec_resetNAssert s).trans rfl) (by simp [mayChange.eq_def, keeps_iff])
theorem resetNRelease_framed (s : State) : Framed .resetNRelease s :=
  framed_of_act ((exec_resetNRelease s).trans rfl) (by simp [mayChange.eq_def, keeps_iff])
theorem perstAssert_framed (s : State) : Framed .perstAssert s :=
  framed_of_actS ((exec_perstAssert s).trans rfl) (by simp [mayChange.eq_def, keeps_iff])
theorem perstRelease_framed (s : State) : Framed .perstRelease s :=
  framed_of_act ((exec_perstRelease s).trans rfl) (by simp [mayChange.eq_def, keeps_iff])

/-! #### Self-test and the tick -/

theorem selfTestDone_framed (failed : Parts) (s : State) : Framed (.selfTestDone failed) s :=
  framed_of_actS ((exec_selfTestDone failed s).trans rfl) (by simp [mayChange.eq_def, keeps_iff])
theorem refclkOkSet_framed (s : State) : Framed .refclkOkSet s :=
  framed_of_act ((exec_refclkOkSet s).trans rfl) (by simp [mayChange.eq_def, keeps_iff])
theorem tickPhaseLock_framed (s : State) : Framed .tickPhaseLock s :=
  framed_of_actS ((exec_tickPhaseLock s).trans rfl) (by simp [mayChange.eq_def, keeps_iff])
theorem tickSyncMiss_framed (s : State) : Framed .tickSyncMiss s :=
  framed_of_act ((exec_tickSyncMiss s).trans rfl) (by simp [mayChange.eq_def, keeps_iff])
theorem tickSyncPhaseErr_framed (s : State) : Framed .tickSyncPhaseErr s :=
  framed_of_act ((exec_tickSyncPhaseErr s).trans rfl) (by simp [mayChange.eq_def, keeps_iff])
theorem refclkLost_framed (cause : Nat) (s : State) : Framed (.refclkLost cause) s :=
  framed_of_actS ((exec_refclkLost cause s).trans rfl) (by simp [mayChange.eq_def, keeps_iff])
theorem refclkRelock_framed (s : State) : Framed .refclkRelock s :=
  framed_of_actS ((exec_refclkRelock s).trans rfl) (by simp [mayChange.eq_def, keeps_iff])
theorem countLoad_framed (s : State) : Framed .countLoad s :=
  framed_of_act ((exec_countLoad s).trans rfl) (by simp [mayChange.eq_def, keeps_iff])
theorem timeExchange_framed (ns : Nat) (s : State) : Framed (.timeExchange ns) s :=
  framed_of_act ((exec_timeExchange ns s).trans rfl) (by (repeat' split) <;> simp [mayChange.eq_def, keeps_iff])
theorem timeRequest_framed (port : Nat) (rec : Bytes) (arrive : Arrival) (departNs : Nat) (s : State) :
    Framed (.timeRequest port rec arrive departNs) s :=
  framed_of_act ((exec_timeRequest port rec arrive departNs s).trans rfl) (by simp [mayChange.eq_def, keeps_iff])
theorem timeResponse_framed (port : Nat) (rec : Bytes) (arrive : Arrival) (s : State) :
    Framed (.timeResponse port rec arrive) s :=
  framed_of_act ((exec_timeResponse port rec arrive s).trans rfl) (by (repeat' split) <;> simp [mayChange.eq_def, keeps_iff])
theorem tickCtrlWrite_framed (fn : Nat) (value : Word32) (s : State) : Framed (.tickCtrlWrite fn value) s :=
  framed_of_act ((exec_tickCtrlWrite fn value s).trans rfl) (by simp [mayChange.eq_def, keeps_iff])

/-! #### BAR0 and the loader -/

theorem bar0Write_framed (fn off size : Nat) (value : Word64) (s : State) : Framed (.bar0Write fn off size value) s :=
  framed_of_actS ((exec_bar0Write fn off size value s).trans rfl) (by simp [mayChange.eq_def, keeps_iff])
theorem bar0AccessInvalid_framed (fn off size : Nat) (s : State) : Framed (.bar0AccessInvalid fn off size) s :=
  framed_of_act ((exec_bar0AccessInvalid fn off size s).trans rfl) (by simp [mayChange.eq_def, keeps_iff])
theorem bind_framed (fn pen : Nat) (s : State) : Framed (.bind fn pen) s :=
  framed_of_actS ((exec_bind fn pen s).trans rfl) (by simp [mayChange.eq_def, keeps_iff])
theorem unbind_framed (fn pen : Nat) (s : State) : Framed (.unbind fn pen) s :=
  framed_of_actS ((exec_unbind fn pen s).trans rfl) (by simp [mayChange.eq_def, keeps_iff])
theorem bindComplete_framed (image : Option Bytes) (placed : Bool) (s : State) : Framed (.bindComplete image placed) s :=
  framed_of_actS ((exec_bindComplete image placed s).trans rfl) (by simp [mayChange.eq_def, keeps_iff])
theorem unbindComplete_framed (s : State) : Framed .unbindComplete s :=
  framed_of_actS ((exec_unbindComplete s).trans rfl) (by simp [mayChange.eq_def, keeps_iff])

/-! #### Pens and steps -/

theorem penEnable_framed (fn pen : Nat) (value : Word32) (s : State) : Framed (.penEnable fn pen value) s :=
  framed_of_act ((exec_penEnable fn pen value s).trans rfl) (by simp [mayChange.eq_def, keeps_iff])
theorem penDisable_framed (fn pen : Nat) (value : Word32) (s : State) : Framed (.penDisable fn pen value) s :=
  framed_of_act ((exec_penDisable fn pen value s).trans rfl) (by simp [mayChange.eq_def, keeps_iff])
theorem penBudgetWrite_framed (fn pen off : Nat) (value : Word32) (s : State) : Framed (.penBudgetWrite fn pen off value) s :=
  framed_of_act ((exec_penBudgetWrite fn pen off value s).trans rfl) (by simp [mayChange.eq_def, keeps_iff])
theorem penActivate_framed (pen : Nat) (s : State) : Framed (.penActivate pen) s :=
  framed_of_act ((exec_penActivate pen s).trans rfl) (by simp [mayChange.eq_def, keeps_iff])
theorem predStepRefresh_framed (s : State) : Framed .predStepRefresh s :=
  framed_of_act ((exec_predStepRefresh s).trans rfl) (by simp [mayChange.eq_def, keeps_iff])
theorem stepSetupStart_framed (pen : Nat) (s : State) : Framed (.stepSetupStart pen) s :=
  framed_of_act ((exec_stepSetupStart pen s).trans rfl) (by simp [mayChange.eq_def, keeps_iff])
theorem setupComplete_framed (pen : Nat) (s : State) : Framed (.setupComplete pen) s :=
  framed_of_act ((exec_setupComplete pen s).trans rfl) (by simp [mayChange.eq_def, keeps_iff])
theorem stepRelease_framed (pen : Nat) (s : State) : Framed (.stepRelease pen) s :=
  framed_of_act ((exec_stepRelease pen s).trans rfl) (by simp [mayChange.eq_def, keeps_iff])
theorem segmentStart_framed (pen seg : Nat) (s : State) : Framed (.segmentStart pen seg) s :=
  framed_of_act ((exec_segmentStart pen seg s).trans rfl) (by (repeat' split) <;> simp [mayChange.eq_def, keeps_iff])
theorem segmentSwitch_framed (array : Nat) (s : State) : Framed (.segmentSwitch array) s :=
  framed_of_act ((exec_segmentSwitch array s).trans rfl) (by simp [mayChange.eq_def, keeps_iff])
theorem stepDone_framed (pen : Nat) (s : State) : Framed (.stepDone pen) s :=
  framed_of_act ((exec_stepDone pen s).trans rfl) (by simp [mayChange.eq_def, keeps_iff])

/-! #### Array words -/

theorem mma_framed (array : Nat) (s : State) : Framed (.mma array) s :=
  framed_of_act ((exec_mma array s).trans rfl)
    (Keeps.getD fun _ h => by simp [mayChange.eq_def, keeps_iff, mmaOp_keeps _ _ _ h, mmaOp_quiet h])
theorem fuse2_framed (array : Nat) (s : State) : Framed (.fuse2 array) s :=
  framed_of_act ((exec_fuse2 array s).trans rfl)
    (Keeps.getD fun _ h => by simp [mayChange.eq_def, keeps_iff, fuse2Op_keeps _ _ _ h, fuse2Op_quiet h])
theorem rowfn_framed (array : Nat) (s : State) : Framed (.rowfn array) s :=
  framed_of_act ((exec_rowfn array s).trans rfl) (by simp [mayChange.eq_def, keeps_iff])
theorem loadw_framed (array : Nat) (s : State) : Framed (.loadw array) s :=
  framed_of_act ((exec_loadw array s).trans rfl)
    (Keeps.getD fun _ h => by simp [mayChange.eq_def, keeps_iff, loadOp_keeps _ _ _ h, loadOp_quiet h])
theorem loada_framed (array : Nat) (s : State) : Framed (.loada array) s :=
  framed_of_act ((exec_loada array s).trans rfl)
    (Keeps.getD fun _ h => by simp [mayChange.eq_def, keeps_iff, loadOp_keeps _ _ _ h, loadOp_quiet h])
theorem store_framed (array : Nat) (s : State) : Framed (.store array) s :=
  framed_of_act ((exec_store array s).trans rfl) (by simp [mayChange.eq_def, keeps_iff])
theorem storeRowstate_framed (array : Nat) (s : State) : Framed (.storeRowstate array) s :=
  framed_of_act ((exec_storeRowstate array s).trans rfl) (by simp [mayChange.eq_def, keeps_iff])
theorem maskset_framed (array : Nat) (s : State) : Framed (.maskset array) s :=
  framed_of_act ((exec_maskset array s).trans rfl) (by simp [mayChange.eq_def, keeps_iff])
theorem syncDrain_framed (array : Nat) (s : State) : Framed (.syncDrain array) s :=
  framed_of_act ((exec_syncDrain array s).trans rfl) (by simp [mayChange.eq_def, keeps_iff])
theorem syncBarrier_framed (array : Nat) (s : State) : Framed (.syncBarrier array) s :=
  framed_of_act ((exec_syncBarrier array s).trans rfl) (by simp [mayChange.eq_def, keeps_iff])
theorem syncArrive_framed (array : Nat) (s : State) : Framed (.syncArrive array) s :=
  framed_of_act ((exec_syncArrive array s).trans rfl) (by simp [mayChange.eq_def, keeps_iff])
theorem syncWait_framed (array : Nat) (s : State) : Framed (.syncWait array) s :=
  framed_of_act ((exec_syncWait array s).trans rfl) (by simp [mayChange.eq_def, keeps_iff])
theorem syncLayerEnd_framed (array : Nat) (s : State) : Framed (.syncLayerEnd array) s :=
  framed_of_act ((exec_syncLayerEnd array s).trans rfl) (by simp [mayChange.eq_def, keeps_iff])
theorem syncEnd_framed (array : Nat) (s : State) : Framed (.syncEnd array) s :=
  framed_of_act ((exec_syncEnd array s).trans rfl) (by simp [mayChange.eq_def, keeps_iff])
theorem score_framed (array : Nat) (s : State) : Framed (.score array) s :=
  framed_of_act ((exec_score array s).trans rfl) (by simp [mayChange.eq_def, keeps_iff])

/-! #### Barriers, layers and the exchange -/

theorem barrierComplete_framed (pen barrier : Nat) (s : State) : Framed (.barrierComplete pen barrier) s :=
  framed_of_act ((exec_barrierComplete pen barrier s).trans rfl) (by simp [mayChange.eq_def, keeps_iff])
theorem layerDone_framed (pen layer : Nat) (s : State) : Framed (.layerDone pen layer) s :=
  framed_of_act ((exec_layerDone pen layer s).trans rfl) (by simp [mayChange.eq_def, keeps_iff])
theorem countRecord_framed (pen slot : Nat) (rec : Bytes) (s : State) : Framed (.countRecord pen slot rec) s :=
  framed_of_act ((exec_countRecord pen slot rec s).trans rfl) (by simp [mayChange.eq_def, keeps_iff])
theorem dispatchMark_framed (pen slot : Nat) (word : Word64) (s : State) : Framed (.dispatchMark pen slot word) s :=
  framed_of_act ((exec_dispatchMark pen slot word s).trans rfl) (by simp [mayChange.eq_def, keeps_iff])
theorem freeMark_framed (pen slot : Nat) (word : Word64) (s : State) : Framed (.freeMark pen slot word) s :=
  framed_of_act ((exec_freeMark pen slot word s).trans rfl) (by simp [mayChange.eq_def, keeps_iff])
theorem combineMark_framed (pen slot : Nat) (word : Word64) (s : State) : Framed (.combineMark pen slot word) s :=
  framed_of_act ((exec_combineMark pen slot word s).trans rfl) (by simp [mayChange.eq_def, keeps_iff])
theorem dispatchPiece_framed (pen off : Nat) (data : Bytes) (s : State) : Framed (.dispatchPiece pen off data) s :=
  framed_of_act ((exec_dispatchPiece pen off data s).trans rfl) (by simp [mayChange.eq_def, keeps_iff])
theorem dispatchTagRun_framed (pen off : Nat) (data : Bytes) (s : State) : Framed (.dispatchTagRun pen off data) s :=
  framed_of_act ((exec_dispatchTagRun pen off data s).trans rfl) (by simp [mayChange.eq_def, keeps_iff])
theorem combineStore_framed (pen off : Nat) (data : Bytes) (s : State) : Framed (.combineStore pen off data) s :=
  framed_of_act ((exec_combineStore pen off data s).trans rfl) (by simp [mayChange.eq_def, keeps_iff])
theorem recvGateComplete_framed (pen half : Nat) (s : State) : Framed (.recvGateComplete pen half) s :=
  framed_of_act ((exec_recvGateComplete pen half s).trans rfl) (by (repeat' split) <;> simp [mayChange.eq_def, keeps_iff])
theorem combGateComplete_framed (pen half : Nat) (s : State) : Framed (.combGateComplete pen half) s :=
  framed_of_act ((exec_combGateComplete pen half s).trans rfl) (by (repeat' split) <;> simp [mayChange.eq_def, keeps_iff])
theorem exchangeWatchdog_framed (pen : Nat) (s : State) : Framed (.exchangeWatchdog pen) s :=
  framed_of_act ((exec_exchangeWatchdog pen s).trans rfl) (by (repeat' split) <;> simp [mayChange.eq_def, keeps_iff])

/-! #### The weight store -/

theorem imprintWrite_framed (ctx : Nat) (s : State) : Framed (.imprintWrite ctx) s :=
  framed_of_act ((exec_imprintWrite ctx s).trans rfl) (by simp [mayChange.eq_def, keeps_iff])
theorem imprintRetire_framed (ctx : Nat) (s : State) : Framed (.imprintRetire ctx) s :=
  framed_of_actS ((exec_imprintRetire ctx s).trans rfl) (by simp [mayChange.eq_def, keeps_iff])
theorem imprintWriteDone_framed (stack : Nat) (payload : Option Bytes) (s : State) : Framed (.imprintWriteDone stack payload) s :=
  framed_of_actS ((exec_imprintWriteDone stack payload s).trans rfl) (by (repeat' split) <;> simp [mayChange.eq_def, keeps_iff])
theorem imprintAuthExpiry_framed (s : State) : Framed .imprintAuthExpiry s :=
  framed_of_act ((exec_imprintAuthExpiry s).trans rfl) (by simp [mayChange.eq_def, keeps_iff])
theorem nvVerifyStart_framed (s : State) : Framed .nvVerifyStart s :=
  framed_of_actS ((exec_nvVerifyStart s).trans rfl) (by simp [mayChange.eq_def, keeps_iff])
theorem nvSlotVerifyDone_framed (slot : Nat) (readable : Bool) (s : State) : Framed (.nvSlotVerifyDone slot readable) s :=
  framed_of_actS ((exec_nvSlotVerifyDone slot readable s).trans rfl) (by simp [mayChange.eq_def, keeps_iff])
theorem nvUncorrectable_framed (slot off : Nat) (reads : LineReads) (s : State) : Framed (.nvUncorrectable slot off reads) s :=
  framed_of_actS ((exec_nvUncorrectable slot off reads s).trans rfl) (by simp [mayChange.eq_def, keeps_iff])
theorem nvBlockFetchDone_framed (replica : Nat) (data : Option Bytes) (s : State) : Framed (.nvBlockFetchDone replica data) s :=
  framed_of_actS ((exec_nvBlockFetchDone replica data s).trans rfl) (by (repeat' split) <;> simp [mayChange.eq_def, keeps_iff])
theorem nvRepairStart_framed (slot : Nat) (s : State) : Framed (.nvRepairStart slot) s :=
  framed_of_actS ((exec_nvRepairStart slot s).trans rfl) (by (repeat' split) <;> simp [mayChange.eq_def, keeps_iff])
theorem nvRepairDone_framed (slot : Nat) (data : Option Bytes) (s : State) : Framed (.nvRepairDone slot data) s :=
  framed_of_actS ((exec_nvRepairDone slot data s).trans rfl) (by (repeat' split) <;> simp [mayChange.eq_def, keeps_iff])
theorem nvStackFailed_framed (stack : Nat) (s : State) : Framed (.nvStackFailed stack) s :=
  framed_of_actS ((exec_nvStackFailed stack s).trans rfl) (by simp [mayChange.eq_def, keeps_iff])
theorem replicaKindWrite_framed (fn idx kind : Nat) (s : State) : Framed (.replicaKindWrite fn idx kind) s :=
  framed_of_act ((exec_replicaKindWrite fn idx kind s).trans rfl) (by simp [mayChange.eq_def, keeps_iff])
theorem replicaCheck_framed (idx : Nat) (header : Option Bytes) (s : State) : Framed (.replicaCheck idx header) s :=
  framed_of_act ((exec_replicaCheck idx header s).trans rfl) (by simp [mayChange.eq_def, keeps_iff])
theorem replicaRecheck_framed (idx : Nat) (header : Option Bytes) (s : State) : Framed (.replicaRecheck idx header) s :=
  framed_of_act ((exec_replicaRecheck idx header s).trans rfl) (by simp [mayChange.eq_def, keeps_iff])
theorem replicaHostFetchDone_framed (idx : Nat) (payload : Option Bytes) (s : State) :
    Framed (.replicaHostFetchDone idx payload) s :=
  framed_of_act ((exec_replicaHostFetchDone idx payload s).trans rfl) (by simp [mayChange.eq_def, keeps_iff])
theorem slowerFetchDone_framed (pen shard : Nat) (payload : Option Bytes) (s : State) :
    Framed (.slowerFetchDone pen shard payload) s :=
  framed_of_act ((exec_slowerFetchDone pen shard payload s).trans rfl) (by (repeat' split) <;> simp [mayChange.eq_def, keeps_iff])

/-! #### Contexts, functions and rings -/

theorem ctxEnable_framed (fn ctx : Nat) (value : Word32) (s : State) : Framed (.ctxEnable fn ctx value) s :=
  framed_of_act ((exec_ctxEnable fn ctx value s).trans rfl) (by simp [mayChange.eq_def, keeps_iff])
theorem ctxDisable_framed (fn ctx : Nat) (value : Word32) (s : State) : Framed (.ctxDisable fn ctx value) s :=
  framed_of_act ((exec_ctxDisable fn ctx value s).trans rfl) (by simp [mayChange.eq_def, keeps_iff])
theorem ctxCmdReset_framed (fn ctx : Nat) (s : State) : Framed (.ctxCmdReset fn ctx) s :=
  framed_of_act ((exec_ctxCmdReset fn ctx s).trans rfl) (by simp [mayChange.eq_def, keeps_iff])
theorem contextResetDone_framed (ctx : Nat) (failed : Option Nat) (s : State) : Framed (.contextResetDone ctx failed) s :=
  framed_of_act ((exec_contextResetDone ctx failed s).trans rfl) (by simp [mayChange.eq_def, keeps_iff])
theorem flrVf_framed (vf : Nat) (s : State) : Framed (.flrVf vf) s :=
  framed_of_act ((exec_flrVf vf s).trans rfl) (by simp [mayChange.eq_def, keeps_iff, overridden_glb])
theorem flrPf_framed (s : State) : Framed .flrPf s :=
  framed_of_act ((exec_flrPf s).trans rfl) (by simp [mayChange.eq_def, keeps_iff, overridden_glb])
theorem vfEnableClear_framed (numVfs : Nat) (s : State) : Framed (.vfEnableClear numVfs) s :=
  framed_of_act ((exec_vfEnableClear numVfs s).trans rfl) (by simp [mayChange.eq_def, keeps_iff, overridden_glb])
theorem hostLinkDown_framed (ltssm : Nat) (s : State) : Framed (.hostLinkDown ltssm) s :=
  framed_of_act ((exec_hostLinkDown ltssm s).trans rfl) (by simp [mayChange.eq_def, keeps_iff])
theorem ringWriteFailed_framed (ctx ring : Nat) (s : State) : Framed (.ringWriteFailed ctx ring) s :=
  framed_of_act ((exec_ringWriteFailed ctx ring s).trans rfl) (by simp [mayChange.eq_def, keeps_iff])
theorem dbSqTail_framed (fn ctx : Nat) (value : Word32) (s : State) : Framed (.dbSqTail fn ctx value) s :=
  framed_of_act ((exec_dbSqTail fn ctx value s).trans rfl) (by simp [mayChange.eq_def, keeps_iff])
theorem dbCqHead_framed (fn ctx : Nat) (value : Word32) (s : State) : Framed (.dbCqHead fn ctx value) s :=
  framed_of_act ((exec_dbCqHead fn ctx value s).trans rfl) (by simp [mayChange.eq_def, keeps_iff])
theorem dbEqHead_framed (fn ctx : Nat) (value : Word32) (s : State) : Framed (.dbEqHead fn ctx value) s :=
  framed_of_act ((exec_dbEqHead fn ctx value s).trans rfl) (by simp [mayChange.eq_def, keeps_iff])
theorem descriptorFetchDone_framed (ctx : Nat) (data : Option Bytes) (s : State) : Framed (.descriptorFetchDone ctx data) s :=
  framed_of_act ((exec_descriptorFetchDone ctx data s).trans rfl) (by (repeat' split) <;> simp [mayChange.eq_def, keeps_iff])

/-! #### Descriptors and requests -/

theorem admitReq_framed (src : Src) (s : State) : Framed (.admitReq src) s :=
  framed_of_act ((exec_admitReq src s).trans rfl) (by simp [mayChange.eq_def, keeps_iff])
theorem append_framed (src : Src) (s : State) : Framed (.append src) s :=
  framed_of_act ((exec_append src s).trans rfl) (by simp [mayChange.eq_def, keeps_iff])
theorem cancel_framed (src : Src) (s : State) : Framed (.cancel src) s :=
  framed_of_act ((exec_cancel src s).trans rfl) (by simp [mayChange.eq_def, keeps_iff])
theorem pause_framed (src : Src) (s : State) : Framed (.pause src) s :=
  framed_of_act ((exec_pause src s).trans rfl) (by simp [mayChange.eq_def, keeps_iff])
theorem resume_framed (src : Src) (s : State) : Framed (.resume src) s :=
  framed_of_act ((exec_resume src s).trans rfl) (by simp [mayChange.eq_def, keeps_iff])
theorem hint_framed (ctx : Nat) (s : State) : Framed (.hint ctx) s :=
  framed_of_act ((exec_hint ctx s).trans rfl) (by simp [mayChange.eq_def, keeps_iff])
theorem fence_framed (ctx : Nat) (s : State) : Framed (.fence ctx) s :=
  framed_of_act ((exec_fence ctx s).trans rfl) (by simp [mayChange.eq_def, keeps_iff])
theorem fenceComplete_framed (ctx : Nat) (s : State) : Framed (.fenceComplete ctx) s :=
  framed_of_act ((exec_fenceComplete ctx s).trans rfl) (by (repeat' split) <;> simp [mayChange.eq_def, keeps_iff])
theorem rollcall_framed (ctx : Nat) (s : State) : Framed (.rollcall ctx) s :=
  framed_of_act ((exec_rollcall ctx s).trans rfl) (by simp [mayChange.eq_def, keeps_iff])
theorem rollcallDone_framed (ctx : Nat) (s : State) : Framed (.rollcallDone ctx) s :=
  framed_of_act ((exec_rollcallDone ctx s).trans rfl) (by (repeat' split) <;> simp [mayChange.eq_def, keeps_iff])
theorem setSampling_framed (src : Src) (s : State) : Framed (.setSampling src) s :=
  framed_of_act ((exec_setSampling src s).trans rfl) (by simp [mayChange.eq_def, keeps_iff])
theorem irqModerationTime_framed (ctx ring : Nat) (s : State) : Framed (.irqModerationTime ctx ring) s :=
  framed_of_act ((exec_irqModerationTime ctx ring s).trans rfl) (by simp [mayChange.eq_def, keeps_iff])
theorem admitHoldExpiry_framed (entry : Nat) (s : State) : Framed (.admitHoldExpiry entry) s :=
  framed_of_act ((exec_admitHoldExpiry entry s).trans rfl) (by simp [mayChange.eq_def, keeps_iff])
theorem promptReadDone_framed (entry : Nat) (tokens : Option (List Word32)) (s : State) :
    Framed (.promptReadDone entry tokens) s :=
  framed_of_act ((exec_promptReadDone entry tokens s).trans rfl) (by (repeat' split) <;> simp [mayChange.eq_def, keeps_iff])
theorem appendReadDone_framed (entry : Nat) (tokens : Option (List Word32)) (s : State) :
    Framed (.appendReadDone entry tokens) s :=
  framed_of_act ((exec_appendReadDone entry tokens s).trans rfl) (by (repeat' split) <;> simp [mayChange.eq_def, keeps_iff])
theorem deadlineMissed_framed (entry : Nat) (s : State) : Framed (.deadlineMissed entry) s :=
  framed_of_act ((exec_deadlineMissed entry s).trans rfl) (by simp [mayChange.eq_def, keeps_iff])
theorem ttlExpiry_framed (entry : Nat) (s : State) : Framed (.ttlExpiry entry) s :=
  framed_of_act ((exec_ttlExpiry entry s).trans rfl) (by simp [mayChange.eq_def, keeps_iff])
theorem slotWord_framed (pen off : Nat) (word : Word64) (s : State) : Framed (.slotWord pen off word) s :=
  framed_of_act ((exec_slotWord pen off word s).trans rfl) (by simp [mayChange.eq_def, keeps_iff])
theorem candidateRecord_framed (pen off : Nat) (rec : Bytes) (s : State) : Framed (.candidateRecord pen off rec) s :=
  framed_of_act ((exec_candidateRecord pen off rec s).trans rfl) (by simp [mayChange.eq_def, keeps_iff])
theorem tokenSelect_framed (pen slot : Nat) (s : State) : Framed (.tokenSelect pen slot) s :=
  framed_of_act ((exec_tokenSelect pen slot s).trans rfl) (by (repeat' split) <;> simp [mayChange.eq_def, keeps_iff])

/-! #### KV pages -/

theorem kvHostCopyDone_framed (pen : Nat) (data : Option Bytes) (s : State) : Framed (.kvHostCopyDone pen data) s :=
  framed_of_act ((exec_kvHostCopyDone pen data s).trans rfl) (by simp [mayChange.eq_def, keeps_iff])
theorem kvCowCopyDone_framed (pen frame : Nat) (s : State) : Framed (.kvCowCopyDone pen frame) s :=
  framed_of_act ((exec_kvCowCopyDone pen frame s).trans rfl) (by simp [mayChange.eq_def, keeps_iff])
theorem swapReturn_framed (pen : Nat) (s : State) : Framed (.swapReturn pen) s :=
  framed_of_act ((exec_swapReturn pen s).trans rfl) (by simp [mayChange.eq_def, keeps_iff])
theorem contextSwap_framed (pen : Nat) (s : State) : Framed (.contextSwap pen) s :=
  framed_of_act ((exec_contextSwap pen s).trans rfl) (by simp [mayChange.eq_def, keeps_iff])

/-! #### The Pack fabric -/

theorem portEnable_framed (fn port : Nat) (value : Word32) (s : State) : Framed (.portEnable fn port value) s :=
  framed_of_act ((exec_portEnable fn port value s).trans rfl) (by simp [mayChange.eq_def, keeps_iff])
theorem portLightDetect_framed (port : Nat) (s : State) : Framed (.portLightDetect port) s :=
  framed_of_act ((exec_portLightDetect port s).trans rfl) (by simp [mayChange.eq_def, keeps_iff])
theorem portTrainPhaseDone_framed (port : Nat) (s : State) : Framed (.portTrainPhaseDone port) s :=
  framed_of_act ((exec_portTrainPhaseDone port s).trans rfl) (by simp [mayChange.eq_def, keeps_iff])
theorem portTrainTimeout_framed (port : Nat) (s : State) : Framed (.portTrainTimeout port) s :=
  framed_of_act (by rw [exec_portTrainTimeout, execPortTrainTimeout]) (by simp [mayChange.eq_def, keeps_iff])
theorem collarRecord_framed (port : Nat) (rec : Bytes) (s : State) : Framed (.collarRecord port rec) s :=
  framed_of_act ((exec_collarRecord port rec s).trans rfl) (by simp [mayChange.eq_def, keeps_iff])
theorem portDown_framed (port : Nat) (cause : PortLoss) (s : State) : Framed (.portDown port cause) s :=
  framed_of_act ((exec_portDown port cause s).trans rfl) (by simp [mayChange.eq_def, keeps_iff])
theorem flitReceive_framed (port : Nat) (flit : Bytes) (errs : List Nat) (s : State) : Framed (.flitReceive port flit errs) s :=
  framed_of_act ((exec_flitReceive port flit errs s).trans rfl) (by simp [mayChange.eq_def, keeps_iff])
theorem packetForward_framed (port : Nat) (pkt : Bytes) (s : State) : Framed (.packetForward port pkt) s :=
  framed_of_act ((exec_packetForward port pkt s).trans rfl) (by simp [mayChange.eq_def, keeps_iff])
theorem packetLoad_framed (port : Nat) (pkt : Bytes) (s : State) : Framed (.packetLoad port pkt) s :=
  framed_of_act ((exec_packetLoad port pkt s).trans rfl) (by simp [mayChange.eq_def, keeps_iff])
theorem packetStore_framed (port : Nat) (pkt : Bytes) (s : State) : Framed (.packetStore port pkt) s :=
  framed_of_act ((exec_packetStore port pkt s).trans rfl) (by simp [mayChange.eq_def, keeps_iff])
theorem packetAtomic_framed (port : Nat) (pkt : Bytes) (s : State) : Framed (.packetAtomic port pkt) s :=
  framed_of_act ((exec_packetAtomic port pkt s).trans rfl) (by simp [mayChange.eq_def, keeps_iff])
theorem loadResp_framed (port : Nat) (pkt : Bytes) (s : State) : Framed (.loadResp port pkt) s :=
  framed_of_act ((exec_loadResp port pkt s).trans rfl) (by simp [mayChange.eq_def, keeps_iff])
theorem storeAck_framed (port : Nat) (pkt : Bytes) (s : State) : Framed (.storeAck port pkt) s :=
  framed_of_act ((exec_storeAck port pkt s).trans rfl) (by simp [mayChange.eq_def, keeps_iff])
theorem atomicResp_framed (port : Nat) (pkt : Bytes) (s : State) : Framed (.atomicResp port pkt) s :=
  framed_of_act ((exec_atomicResp port pkt s).trans rfl) (by simp [mayChange.eq_def, keeps_iff])
theorem fabricFenceComplete_framed (srcId : Nat) (s : State) : Framed (.fabricFenceComplete srcId) s :=
  framed_of_act ((exec_fabricFenceComplete srcId s).trans rfl) (by (repeat' split) <;> simp [mayChange.eq_def, keeps_iff])
theorem loadTimeout_framed (tag : Nat) (s : State) : Framed (.loadTimeout tag) s :=
  framed_of_act ((exec_loadTimeout tag s).trans rfl) (by (repeat' split) <;> simp [mayChange.eq_def, keeps_iff])
theorem storeTimeout_framed (tag : Nat) (s : State) : Framed (.storeTimeout tag) s :=
  framed_of_act ((exec_storeTimeout tag s).trans rfl) (by (repeat' split) <;> simp [mayChange.eq_def, keeps_iff])
theorem livenessProbe_framed (chip : Nat) (s : State) : Framed (.livenessProbe chip) s :=
  framed_of_act ((exec_livenessProbe chip s).trans rfl) (by simp [mayChange.eq_def, keeps_iff])
theorem memberUnreached_framed (pen member : Nat) (s : State) : Framed (.memberUnreached pen member) s :=
  framed_of_act ((exec_memberUnreached pen member s).trans rfl) (by dsimp only; (repeat' split) <;> simp [mayChange.eq_def, keeps_iff])
theorem fenceNotice_framed (port : Nat) (pkt : Bytes) (s : State) : Framed (.fenceNotice port pkt) s :=
  framed_of_act ((exec_fenceNotice port pkt s).trans rfl) (by simp [mayChange.eq_def, keeps_iff])
theorem planTakesEffect_framed (s : State) : Framed .planTakesEffect s :=
  framed_of_actS ((exec_planTakesEffect s).trans rfl) (by (repeat' split) <;> simp [mayChange.eq_def, keeps_iff])
theorem pkfProbeGo_framed (fn : Nat) (value : Word32) (s : State) : Framed (.pkfProbeGo fn value) s :=
  framed_of_act ((exec_pkfProbeGo fn value s).trans rfl) (by simp [mayChange.eq_def, keeps_iff])
theorem pkfRrcInvalidate_framed (fn : Nat) (value : Word32) (s : State) : Framed (.pkfRrcInvalidate fn value) s :=
  framed_of_act ((exec_pkfRrcInvalidate fn value s).trans rfl) (by (repeat' split) <;> simp [mayChange.eq_def, keeps_iff])

/-! #### The Leash -/

theorem leashTick_framed (m : Measure) (s : State) : Framed (.leashTick m) s :=
  framed_of_act ((exec_leashTick m s).trans rfl) (by simp [mayChange.eq_def, keeps_iff])
theorem lshCapNextCommit_framed (fn : Nat) (s : State) : Framed (.lshCapNextCommit fn) s :=
  framed_of_act ((exec_lshCapNextCommit fn s).trans rfl) (by simp [mayChange.eq_def, keeps_iff])
theorem capSoftApplied_framed (s : State) : Framed .capSoftApplied s :=
  framed_of_act ((exec_capSoftApplied s).trans rfl) (by (repeat' split) <;> simp [mayChange.eq_def, keeps_iff])
theorem capHardApplied_framed (s : State) : Framed .capHardApplied s :=
  framed_of_act ((exec_capHardApplied s).trans rfl) (by (repeat' split) <;> simp [mayChange.eq_def, keeps_iff])
theorem capReleaseApplied_framed (s : State) : Framed .capReleaseApplied s :=
  framed_of_act ((exec_capReleaseApplied s).trans rfl) (by (repeat' split) <;> simp [mayChange.eq_def, keeps_iff])
theorem powerEmergency_framed (cond amps : Nat) (s : State) : Framed (.powerEmergency cond amps) s :=
  framed_of_act ((exec_powerEmergency cond amps s).trans rfl) (by simp [mayChange.eq_def, keeps_iff])
theorem emergencyEnd_framed (s : State) : Framed .emergencyEnd s :=
  framed_of_act ((exec_emergencyEnd s).trans rfl) (by simp [mayChange.eq_def, keeps_iff])
theorem throttleStart_framed (array tj : Nat) (s : State) : Framed (.throttleStart array tj) s :=
  framed_of_act ((exec_throttleStart array tj s).trans rfl) (by simp [mayChange.eq_def, keeps_iff])
theorem throttleStep_framed (quadrant : Nat) (tjs : List Nat) (s : State) : Framed (.throttleStep quadrant tjs) s :=
  framed_of_act ((exec_throttleStep quadrant tjs s).trans rfl) (by simp [mayChange.eq_def, keeps_iff])
theorem thermalEmergency_framed (kind index temp : Nat) (s : State) : Framed (.thermalEmergency kind index temp) s :=
  framed_of_act ((exec_thermalEmergency kind index temp s).trans rfl) (by simp [mayChange.eq_def, keeps_iff])
theorem thermtrip_framed (die : Nat) (s : State) : Framed (.thermtrip die) s :=
  framed_of_act ((exec_thermtrip die s).trans rfl) (by simp [mayChange.eq_def, keeps_iff])
theorem thermtripLatchClear_framed (s : State) : Framed .thermtripLatchClear s :=
  framed_of_act ((exec_thermtripLatchClear s).trans rfl) (by simp [mayChange.eq_def, keeps_iff])

/-! #### Faults and the Scent log -/

theorem beatRateCheck_framed (samples : List BeatSample) (s : State) : Framed (.beatRateCheck samples) s :=
  framed_of_actS ((exec_beatRateCheck samples s).trans rfl) (by simp [mayChange.eq_def, keeps_iff])
theorem arrayWatchdog_framed (array : Nat) (s : State) : Framed (.arrayWatchdog array) s :=
  framed_of_actS ((exec_arrayWatchdog array s).trans rfl) (by simp [mayChange.eq_def, keeps_iff])
theorem sramUncorrectable_framed (array : Nat) (s : State) : Framed (.sramUncorrectable array) s :=
  framed_of_actS ((exec_sramUncorrectable array s).trans rfl) (by simp [mayChange.eq_def, keeps_iff])
theorem arraySelftestDone_framed (array : Nat) (pass : Bool) (ticks : Nat) (s : State) :
    Framed (.arraySelftestDone array pass ticks) s :=
  framed_of_actS ((exec_arraySelftestDone array pass ticks s).trans rfl) (by simp [mayChange.eq_def, keeps_iff])
theorem dramUncorrectable_framed (stack pen : Nat) (loc : DramLoc) (s : State) : Framed (.dramUncorrectable stack pen loc) s := by
  cases loc
  case corrected lines =>
    exact framed_of_act (by rw [exec_dramUncorrectable, execDramUncorrectable]) (by simp [mayChange.eq_def, keeps_iff])
  all_goals exact framed_of_actS ((exec_dramUncorrectable _ _ _ s).trans rfl) (by simp [mayChange.eq_def, keeps_iff])
theorem dramStackFailed_framed (stack cause : Nat) (s : State) : Framed (.dramStackFailed stack cause) s :=
  framed_of_actS ((exec_dramStackFailed stack cause s).trans rfl) (by simp [mayChange.eq_def, keeps_iff])
theorem fwFault_framed (core code : Nat) (s : State) : Framed (.fwFault core code) s :=
  framed_of_actS ((exec_fwFault core code s).trans rfl) (by simp [mayChange.eq_def, keeps_iff])
theorem scentQueueDrain_framed (s : State) : Framed .scentQueueDrain s :=
  framed_of_act ((exec_scentQueueDrain s).trans rfl) (by simp [mayChange.eq_def, keeps_iff])
theorem scnClearCmd_framed (fn : Nat) (s : State) : Framed (.scnClearCmd fn) s :=
  framed_of_act ((exec_scnClearCmd fn s).trans rfl) (by simp [mayChange.eq_def, keeps_iff])
theorem scnCtrlWrite_framed (fn : Nat) (value : Word32) (s : State) : Framed (.scnCtrlWrite fn value) s :=
  framed_of_act ((exec_scnCtrlWrite fn value s).trans rfl) (by simp [mayChange.eq_def, keeps_iff])
theorem clearAuthExpiry_framed (s : State) : Framed .clearAuthExpiry s :=
  framed_of_act ((exec_clearAuthExpiry s).trans rfl) (by simp [mayChange.eq_def, keeps_iff])

/-! #### Hound cores -/

theorem houndBind_framed (fn ctx : Nat) (s : State) : Framed (.houndBind fn ctx) s :=
  framed_of_act ((exec_houndBind fn ctx s).trans rfl) (by simp [mayChange.eq_def, keeps_iff])
theorem houndUnbind_framed (fn ctx : Nat) (s : State) : Framed (.houndUnbind fn ctx) s :=
  framed_of_act ((exec_houndUnbind fn ctx s).trans rfl) (by simp [mayChange.eq_def, keeps_iff])
theorem houndImageLoaded_framed (ctx : Nat) (image : Option Bytes) (s : State) : Framed (.houndImageLoaded ctx image) s :=
  framed_of_act ((exec_houndImageLoaded ctx image s).trans rfl) (by simp [mayChange.eq_def, keeps_iff])
theorem hndMbCmdTail_framed (core : Nat) (value : Word32) (mem : Stores) (s : State) : Framed (.hndMbCmdTail core value mem) s :=
  framed_of_act (by rw [exec_hndMbCmdTail, execHndMbCmdTail, byPage]) (by (repeat' split) <;> simp [mayChange.eq_def, keeps_iff])
theorem hndMbReplyHead_framed (core : Nat) (value : Word32) (mem : Stores) (s : State) :
    Framed (.hndMbReplyHead core value mem) s :=
  framed_of_act (by rw [exec_hndMbReplyHead, execHndMbReplyHead, byPage]) (by (repeat' split) <;> simp [mayChange.eq_def, keeps_iff])
theorem hndTqHead_framed (ctx : Nat) (value : Word32) (mem : Stores) (s : State) : Framed (.hndTqHead ctx value mem) s :=
  framed_of_act (by rw [exec_hndTqHead, execHndTqHead, byProgram]) (by simp [mayChange.eq_def, keeps_iff])
theorem hndFqLoad_framed (ctx : Nat) (tail : Word32) (mem : Stores) (s : State) : Framed (.hndFqLoad ctx tail mem) s :=
  framed_of_act (by rw [exec_hndFqLoad, execHndFqLoad, byProgram]) (by simp [mayChange.eq_def, keeps_iff])
theorem hndFqStore_framed (ctx : Nat) (tail : Word32) (mem : Stores) (s : State) : Framed (.hndFqStore ctx tail mem) s :=
  framed_of_act (by rw [exec_hndFqStore, execHndFqStore, byProgram]) (by simp [mayChange.eq_def, keeps_iff])
theorem hndFqAtomic_framed (ctx : Nat) (tail : Word32) (mem : Stores) (s : State) : Framed (.hndFqAtomic ctx tail mem) s :=
  framed_of_act (by rw [exec_hndFqAtomic, execHndFqAtomic, byProgram]) (by simp [mayChange.eq_def, keeps_iff])
theorem hndFqFence_framed (ctx : Nat) (tail : Word32) (mem : Stores) (s : State) : Framed (.hndFqFence ctx tail mem) s :=
  framed_of_act (by rw [exec_hndFqFence, execHndFqFence, byProgram]) (by simp [mayChange.eq_def, keeps_iff])
theorem ecallExit_framed (core : Nat) (a0 : Word64) (mem : Stores) (s : State) : Framed (.ecallExit core a0 mem) s :=
  framed_of_act (by rw [exec_ecallExit, execEcallExit, byHart]) (by (repeat' split) <;> simp [mayChange.eq_def, keeps_iff])
theorem ecallWait_framed (core : Nat) (a0 : Word64) (mem : Stores) (s : State) : Framed (.ecallWait core a0 mem) s :=
  framed_of_act (by rw [exec_ecallWait, execEcallWait, byHart]) (by (repeat' split) <;> simp [mayChange.eq_def, keeps_iff])
theorem houndWake_framed (core : Nat) (s : State) : Framed (.houndWake core) s :=
  framed_of_act (by rw [exec_houndWake, execHoundWake]) (by simp [mayChange.eq_def, keeps_iff])
theorem houndFault_framed (ctx core kind code : Nat) (pc tval : Word64) (s : State) :
    Framed (.houndFault ctx core kind code pc tval) s :=
  framed_of_actS ((exec_houndFault ctx core kind code pc tval s).trans rfl) (by simp [mayChange.eq_def, keeps_iff])

/-! #### Managers -/

theorem lease_framed (path : Path) (msg : Bytes) (s : State) : Framed (.lease path msg) s :=
  framed_of_actS ((exec_lease path msg s).trans rfl) (by simp [mayChange.eq_def, keeps_iff])
theorem release_framed (path : Path) (msg : Bytes) (s : State) : Framed (.release path msg) s :=
  framed_of_actS ((exec_release path msg s).trans rfl) (by simp [mayChange.eq_def, keeps_iff])
theorem leaseExpired_framed (s : State) : Framed .leaseExpired s :=
  framed_of_actS ((exec_leaseExpired s).trans rfl) (by simp [mayChange.eq_def, keeps_iff])
theorem epoch_framed (path : Path) (msg : Bytes) (s : State) : Framed (.epoch path msg) s :=
  framed_of_actS ((exec_epoch path msg s).trans rfl) (by simp [mayChange.eq_def, keeps_iff])
theorem setCount_framed (path : Path) (msg : Bytes) (s : State) : Framed (.setCount path msg) s :=
  framed_of_actS ((exec_setCount path msg s).trans rfl) (by simp [mayChange.eq_def, keeps_iff])
theorem cap_framed (path : Path) (msg : Bytes) (s : State) : Framed (.cap path msg) s :=
  framed_of_actS ((exec_cap path msg s).trans rfl) (by simp [mayChange.eq_def, keeps_iff])
theorem planWrite_framed (path : Path) (msg : Bytes) (s : State) : Framed (.planWrite path msg) s :=
  framed_of_actS ((exec_planWrite path msg s).trans rfl) (by simp [mayChange.eq_def, keeps_iff])
theorem planCommit_framed (path : Path) (msg : Bytes) (s : State) : Framed (.planCommit path msg) s :=
  framed_of_actS ((exec_planCommit path msg s).trans rfl) (by simp [mayChange.eq_def, keeps_iff])
theorem readmit_framed (path : Path) (msg : Bytes) (s : State) : Framed (.readmit path msg) s :=
  framed_of_actS ((exec_readmit path msg s).trans rfl) (by simp [mayChange.eq_def, keeps_iff])
theorem fenceGroup_framed (path : Path) (msg : Bytes) (s : State) : Framed (.fenceGroup path msg) s :=
  framed_of_actS ((exec_fenceGroup path msg s).trans rfl) (by simp [mayChange.eq_def, keeps_iff])
theorem groupWrite_framed (path : Path) (msg : Bytes) (s : State) : Framed (.groupWrite path msg) s :=
  framed_of_actS ((exec_groupWrite path msg s).trans rfl) (by simp [mayChange.eq_def, keeps_iff])
theorem resumeGroup_framed (path : Path) (msg : Bytes) (s : State) : Framed (.resumeGroup path msg) s :=
  framed_of_actS ((exec_resumeGroup path msg s).trans rfl) (by simp [mayChange.eq_def, keeps_iff])
theorem memberLost_framed (path : Path) (msg : Bytes) (s : State) : Framed (.memberLost path msg) s :=
  framed_of_actS ((exec_memberLost path msg s).trans rfl) (by simp [mayChange.eq_def, keeps_iff])
theorem imprintAuth_framed (path : Path) (msg : Bytes) (s : State) : Framed (.imprintAuth path msg) s :=
  framed_of_actS ((exec_imprintAuth path msg s).trans rfl) (by simp [mayChange.eq_def, keeps_iff])
theorem clearAuth_framed (path : Path) (msg : Bytes) (s : State) : Framed (.clearAuth path msg) s :=
  framed_of_actS ((exec_clearAuth path msg s).trans rfl) (by simp [mayChange.eq_def, keeps_iff])
theorem logClear_framed (path : Path) (msg : Bytes) (s : State) : Framed (.logClear path msg) s :=
  framed_of_actS ((exec_logClear path msg s).trans rfl) (by simp [mayChange.eq_def, keeps_iff])
theorem quarantine_framed (path : Path) (msg : Bytes) (s : State) : Framed (.quarantine path msg) s :=
  framed_of_actS ((exec_quarantine path msg s).trans rfl) (by simp [mayChange.eq_def, keeps_iff])
theorem arrayRelease_framed (path : Path) (msg : Bytes) (s : State) : Framed (.arrayRelease path msg) s :=
  framed_of_actS ((exec_arrayRelease path msg s).trans rfl) (by simp [mayChange.eq_def, keeps_iff])
theorem penReset_framed (path : Path) (msg : Bytes) (s : State) : Framed (.penReset path msg) s :=
  framed_of_actS ((exec_penReset path msg s).trans rfl) (by simp [mayChange.eq_def, keeps_iff])
theorem warmReset_framed (path : Path) (msg : Bytes) (s : State) : Framed (.warmReset path msg) s :=
  framed_of_actS ((exec_warmReset path msg s).trans rfl) (by simp [mayChange.eq_def, keeps_iff])
theorem portReeval_framed (path : Path) (msg : Bytes) (s : State) : Framed (.portReeval path msg) s :=
  framed_of_actS ((exec_portReeval path msg s).trans rfl) (by simp [mayChange.eq_def, keeps_iff])
theorem inspect_framed (path : Path) (msg : Bytes) (s : State) : Framed (.inspect path msg) s :=
  framed_of_actS ((exec_inspect path msg s).trans rfl) (by simp [mayChange.eq_def, keeps_iff])
theorem status_framed (path : Path) (msg : Bytes) (s : State) : Framed (.status path msg) s :=
  framed_of_actS ((exec_status path msg s).trans rfl) (by simp [mayChange.eq_def, keeps_iff])
theorem namedTickAction_framed (op : Nat) (s : State) : Framed (.namedTickAction op) s :=
  framed_of_actS ((exec_namedTickAction op s).trans rfl) (by (repeat' split) <;> simp [mayChange.eq_def, keeps_iff])

/-! #### Inspections and the I3C target -/

theorem inspectLevelStep_framed (port : Nat) (s : State) : Framed (.inspectLevelStep port) s :=
  framed_of_act ((exec_inspectLevelStep port s).trans rfl) (by (repeat' split) <;> simp [mayChange.eq_def, keeps_iff])
theorem inspectionRecord_framed (port : Nat) (rec : Bytes) (rx : List Nat) (s : State) :
    Framed (.inspectionRecord port rec rx) s :=
  framed_of_act ((exec_inspectionRecord port rec rx s).trans rfl) (by simp [mayChange.eq_def, keeps_iff])
theorem inspectTimeout_framed (port : Nat) (s : State) : Framed (.inspectTimeout port) s :=
  framed_of_act ((exec_inspectTimeout port s).trans rfl) (by (repeat' split) <;> simp [mayChange.eq_def, keeps_iff])
theorem i3cPrivateWrite_framed (msg : Bytes) (s : State) : Framed (.i3cPrivateWrite msg) s :=
  framed_of_actS ((exec_i3cPrivateWrite msg s).trans rfl) (by simp [mayChange.eq_def, keeps_iff])
theorem i3cPrivateRead_framed (s : State) : Framed .i3cPrivateRead s :=
  framed_of_act ((exec_i3cPrivateRead s).trans rfl) (by (repeat' split) <;> simp [mayChange.eq_def, keeps_iff])
theorem entdaa_framed (addr : Nat) (s : State) : Framed (.entdaa addr) s :=
  framed_of_act ((exec_entdaa addr s).trans rfl) (by simp [mayChange.eq_def, keeps_iff])
theorem rstdaa_framed (s : State) : Framed .rstdaa s :=
  framed_of_act ((exec_rstdaa s).trans rfl) (by simp [mayChange.eq_def, keeps_iff])
theorem getpid_framed (s : State) : Framed .getpid s :=
  framed_of_act (by rw [exec_getpid, execGetpid, i3cAnswer]) (by simp [mayChange.eq_def, keeps_iff])
theorem getbcr_framed (s : State) : Framed .getbcr s :=
  framed_of_act (by rw [exec_getbcr, execGetbcr, i3cAnswer]) (by simp [mayChange.eq_def, keeps_iff])
theorem getdcr_framed (s : State) : Framed .getdcr s :=
  framed_of_act (by rw [exec_getdcr, execGetdcr, i3cAnswer]) (by simp [mayChange.eq_def, keeps_iff])
theorem setmrl_framed (len : Nat) (s : State) : Framed (.setmrl len) s :=
  framed_of_act ((exec_setmrl len s).trans rfl) (by simp [mayChange.eq_def, keeps_iff])
theorem enec_framed (events : Word8) (s : State) : Framed (.enec events) s :=
  framed_of_act ((exec_enec events s).trans rfl) (by simp [mayChange.eq_def, keeps_iff])
theorem disec_framed (events : Word8) (s : State) : Framed (.disec events) s :=
  framed_of_act ((exec_disec events s).trans rfl) (by simp [mayChange.eq_def, keeps_iff])

/-! #### Boundaries, edges, engines, lanes and ring bases -/

theorem tickBoundary_framed (s : State) : Framed .tickBoundary s := by
  by_cases h : (powered s.pkg && (s.pkg.tick.phaseLocked || s.pkg.tick.holdover)) = true
  · exact framed_of_actS (ok := true) (by rw [exec_tickBoundary, execTickBoundary, if_pos h]) (by simp [mayChange.eq_def, keeps_iff])
  · exact framed_of_act (by rw [exec_tickBoundary, execTickBoundary, if_neg h]) (by simp [mayChange.eq_def, keeps_iff])
theorem tickSyncEdge_framed (s : State) : Framed .tickSyncEdge s :=
  framed_of_act ((exec_tickSyncEdge s).trans rfl) (by simp [mayChange.eq_def, keeps_iff])
theorem refclkOutOfRange_framed (s : State) : Framed .refclkOutOfRange s :=
  framed_of_act ((exec_refclkOutOfRange s).trans rfl) (by simp [mayChange.eq_def, keeps_iff])
theorem engineFault_framed (kind index : Nat) (s : State) : Framed (.engineFault kind index) s :=
  framed_of_actS ((exec_engineFault kind index s).trans rfl) (by simp [mayChange.eq_def, keeps_iff])
theorem laneMeasurementRefresh_framed (samples : List LaneSample) (s : State) : Framed (.laneMeasurementRefresh samples) s :=
  framed_of_act ((exec_laneMeasurementRefresh samples s).trans rfl) (by simp [mayChange.eq_def, keeps_iff])
theorem hndRingBaseWrite_framed (core off : Nat) (write : PageWrite) (mem : Stores) (s : State) :
    Framed (.hndRingBaseWrite core off write mem) s :=
  framed_of_act (by rw [exec_hndRingBaseWrite, execHndRingBaseWrite, byPage]) (by (repeat' split) <;> simp [mayChange.eq_def, keeps_iff])

/-- Every command has its frame. -/
theorem exec_framed (c : Instr) (s : State) : Framed c s :=
  match c with
  | .powerUp => powerUp_framed s
  | .vin6Lockout => vin6Lockout_framed s
  | .auxRailFault => auxRailFault_framed s
  | .resetNAssert => resetNAssert_framed s
  | .resetNRelease => resetNRelease_framed s
  | .perstAssert => perstAssert_framed s
  | .perstRelease => perstRelease_framed s
  | .selfTestDone failed => selfTestDone_framed failed s
  | .refclkOkSet => refclkOkSet_framed s
  | .tickPhaseLock => tickPhaseLock_framed s
  | .tickSyncMiss => tickSyncMiss_framed s
  | .tickSyncPhaseErr => tickSyncPhaseErr_framed s
  | .refclkLost cause => refclkLost_framed cause s
  | .refclkRelock => refclkRelock_framed s
  | .countLoad => countLoad_framed s
  | .timeExchange ns => timeExchange_framed ns s
  | .timeRequest port rec arrive departNs => timeRequest_framed port rec arrive departNs s
  | .timeResponse port rec arrive => timeResponse_framed port rec arrive s
  | .tickCtrlWrite fn value => tickCtrlWrite_framed fn value s
  | .bar0Write fn off size value => bar0Write_framed fn off size value s
  | .bar0AccessInvalid fn off size => bar0AccessInvalid_framed fn off size s
  | .bind fn pen => bind_framed fn pen s
  | .unbind fn pen => unbind_framed fn pen s
  | .bindComplete image placed => bindComplete_framed image placed s
  | .unbindComplete => unbindComplete_framed s
  | .penEnable fn pen value => penEnable_framed fn pen value s
  | .penDisable fn pen value => penDisable_framed fn pen value s
  | .penBudgetWrite fn pen off value => penBudgetWrite_framed fn pen off value s
  | .penActivate pen => penActivate_framed pen s
  | .predStepRefresh => predStepRefresh_framed s
  | .stepSetupStart pen => stepSetupStart_framed pen s
  | .setupComplete pen => setupComplete_framed pen s
  | .stepRelease pen => stepRelease_framed pen s
  | .segmentStart pen seg => segmentStart_framed pen seg s
  | .segmentSwitch array => segmentSwitch_framed array s
  | .stepDone pen => stepDone_framed pen s
  | .mma array => mma_framed array s
  | .fuse2 array => fuse2_framed array s
  | .rowfn array => rowfn_framed array s
  | .loadw array => loadw_framed array s
  | .loada array => loada_framed array s
  | .store array => store_framed array s
  | .storeRowstate array => storeRowstate_framed array s
  | .maskset array => maskset_framed array s
  | .syncDrain array => syncDrain_framed array s
  | .syncBarrier array => syncBarrier_framed array s
  | .syncArrive array => syncArrive_framed array s
  | .syncWait array => syncWait_framed array s
  | .syncLayerEnd array => syncLayerEnd_framed array s
  | .syncEnd array => syncEnd_framed array s
  | .score array => score_framed array s
  | .barrierComplete pen barrier => barrierComplete_framed pen barrier s
  | .layerDone pen layer => layerDone_framed pen layer s
  | .countRecord pen slot rec => countRecord_framed pen slot rec s
  | .dispatchMark pen slot word => dispatchMark_framed pen slot word s
  | .freeMark pen slot word => freeMark_framed pen slot word s
  | .combineMark pen slot word => combineMark_framed pen slot word s
  | .dispatchPiece pen off data => dispatchPiece_framed pen off data s
  | .dispatchTagRun pen off data => dispatchTagRun_framed pen off data s
  | .combineStore pen off data => combineStore_framed pen off data s
  | .recvGateComplete pen half => recvGateComplete_framed pen half s
  | .combGateComplete pen half => combGateComplete_framed pen half s
  | .exchangeWatchdog pen => exchangeWatchdog_framed pen s
  | .imprintWrite ctx => imprintWrite_framed ctx s
  | .imprintRetire ctx => imprintRetire_framed ctx s
  | .imprintWriteDone stack payload => imprintWriteDone_framed stack payload s
  | .imprintAuthExpiry => imprintAuthExpiry_framed s
  | .nvVerifyStart => nvVerifyStart_framed s
  | .nvSlotVerifyDone slot readable => nvSlotVerifyDone_framed slot readable s
  | .nvUncorrectable slot off reads => nvUncorrectable_framed slot off reads s
  | .nvBlockFetchDone replica data => nvBlockFetchDone_framed replica data s
  | .nvRepairStart slot => nvRepairStart_framed slot s
  | .nvRepairDone slot data => nvRepairDone_framed slot data s
  | .nvStackFailed stack => nvStackFailed_framed stack s
  | .replicaKindWrite fn idx kind => replicaKindWrite_framed fn idx kind s
  | .replicaCheck idx header => replicaCheck_framed idx header s
  | .replicaRecheck idx header => replicaRecheck_framed idx header s
  | .replicaHostFetchDone idx payload => replicaHostFetchDone_framed idx payload s
  | .slowerFetchDone pen shard payload => slowerFetchDone_framed pen shard payload s
  | .ctxEnable fn ctx value => ctxEnable_framed fn ctx value s
  | .ctxDisable fn ctx value => ctxDisable_framed fn ctx value s
  | .ctxCmdReset fn ctx => ctxCmdReset_framed fn ctx s
  | .contextResetDone ctx failed => contextResetDone_framed ctx failed s
  | .flrVf vf => flrVf_framed vf s
  | .flrPf => flrPf_framed s
  | .vfEnableClear numVfs => vfEnableClear_framed numVfs s
  | .hostLinkDown ltssm => hostLinkDown_framed ltssm s
  | .ringWriteFailed ctx ring => ringWriteFailed_framed ctx ring s
  | .dbSqTail fn ctx value => dbSqTail_framed fn ctx value s
  | .dbCqHead fn ctx value => dbCqHead_framed fn ctx value s
  | .dbEqHead fn ctx value => dbEqHead_framed fn ctx value s
  | .descriptorFetchDone ctx data => descriptorFetchDone_framed ctx data s
  | .admitReq src => admitReq_framed src s
  | .append src => append_framed src s
  | .cancel src => cancel_framed src s
  | .pause src => pause_framed src s
  | .resume src => resume_framed src s
  | .hint ctx => hint_framed ctx s
  | .fence ctx => fence_framed ctx s
  | .fenceComplete ctx => fenceComplete_framed ctx s
  | .rollcall ctx => rollcall_framed ctx s
  | .rollcallDone ctx => rollcallDone_framed ctx s
  | .setSampling src => setSampling_framed src s
  | .irqModerationTime ctx ring => irqModerationTime_framed ctx ring s
  | .admitHoldExpiry entry => admitHoldExpiry_framed entry s
  | .promptReadDone entry tokens => promptReadDone_framed entry tokens s
  | .appendReadDone entry tokens => appendReadDone_framed entry tokens s
  | .deadlineMissed entry => deadlineMissed_framed entry s
  | .ttlExpiry entry => ttlExpiry_framed entry s
  | .slotWord pen off word => slotWord_framed pen off word s
  | .candidateRecord pen off rec => candidateRecord_framed pen off rec s
  | .tokenSelect pen slot => tokenSelect_framed pen slot s
  | .kvHostCopyDone pen data => kvHostCopyDone_framed pen data s
  | .kvCowCopyDone pen frame => kvCowCopyDone_framed pen frame s
  | .swapReturn pen => swapReturn_framed pen s
  | .contextSwap pen => contextSwap_framed pen s
  | .portEnable fn port value => portEnable_framed fn port value s
  | .portLightDetect port => portLightDetect_framed port s
  | .portTrainPhaseDone port => portTrainPhaseDone_framed port s
  | .portTrainTimeout port => portTrainTimeout_framed port s
  | .collarRecord port rec => collarRecord_framed port rec s
  | .portDown port cause => portDown_framed port cause s
  | .flitReceive port flit errs => flitReceive_framed port flit errs s
  | .packetForward port pkt => packetForward_framed port pkt s
  | .packetLoad port pkt => packetLoad_framed port pkt s
  | .packetStore port pkt => packetStore_framed port pkt s
  | .packetAtomic port pkt => packetAtomic_framed port pkt s
  | .loadResp port pkt => loadResp_framed port pkt s
  | .storeAck port pkt => storeAck_framed port pkt s
  | .atomicResp port pkt => atomicResp_framed port pkt s
  | .fabricFenceComplete srcId => fabricFenceComplete_framed srcId s
  | .loadTimeout tag => loadTimeout_framed tag s
  | .storeTimeout tag => storeTimeout_framed tag s
  | .livenessProbe chip => livenessProbe_framed chip s
  | .memberUnreached pen member => memberUnreached_framed pen member s
  | .fenceNotice port pkt => fenceNotice_framed port pkt s
  | .planTakesEffect => planTakesEffect_framed s
  | .pkfProbeGo fn value => pkfProbeGo_framed fn value s
  | .pkfRrcInvalidate fn value => pkfRrcInvalidate_framed fn value s
  | .leashTick m => leashTick_framed m s
  | .lshCapNextCommit fn => lshCapNextCommit_framed fn s
  | .capSoftApplied => capSoftApplied_framed s
  | .capHardApplied => capHardApplied_framed s
  | .capReleaseApplied => capReleaseApplied_framed s
  | .powerEmergency cond amps => powerEmergency_framed cond amps s
  | .emergencyEnd => emergencyEnd_framed s
  | .throttleStart array tj => throttleStart_framed array tj s
  | .throttleStep quadrant tjs => throttleStep_framed quadrant tjs s
  | .thermalEmergency kind index temp => thermalEmergency_framed kind index temp s
  | .thermtrip die => thermtrip_framed die s
  | .thermtripLatchClear => thermtripLatchClear_framed s
  | .beatRateCheck samples => beatRateCheck_framed samples s
  | .arrayWatchdog array => arrayWatchdog_framed array s
  | .sramUncorrectable array => sramUncorrectable_framed array s
  | .arraySelftestDone array pass ticks => arraySelftestDone_framed array pass ticks s
  | .dramUncorrectable stack pen loc => dramUncorrectable_framed stack pen loc s
  | .dramStackFailed stack cause => dramStackFailed_framed stack cause s
  | .fwFault core code => fwFault_framed core code s
  | .scentQueueDrain => scentQueueDrain_framed s
  | .scnClearCmd fn => scnClearCmd_framed fn s
  | .scnCtrlWrite fn value => scnCtrlWrite_framed fn value s
  | .clearAuthExpiry => clearAuthExpiry_framed s
  | .houndBind fn ctx => houndBind_framed fn ctx s
  | .houndUnbind fn ctx => houndUnbind_framed fn ctx s
  | .houndImageLoaded ctx image => houndImageLoaded_framed ctx image s
  | .hndMbCmdTail core value mem => hndMbCmdTail_framed core value mem s
  | .hndMbReplyHead core value mem => hndMbReplyHead_framed core value mem s
  | .hndTqHead ctx value mem => hndTqHead_framed ctx value mem s
  | .hndFqLoad ctx tail mem => hndFqLoad_framed ctx tail mem s
  | .hndFqStore ctx tail mem => hndFqStore_framed ctx tail mem s
  | .hndFqAtomic ctx tail mem => hndFqAtomic_framed ctx tail mem s
  | .hndFqFence ctx tail mem => hndFqFence_framed ctx tail mem s
  | .ecallExit core a0 mem => ecallExit_framed core a0 mem s
  | .ecallWait core a0 mem => ecallWait_framed core a0 mem s
  | .houndWake core => houndWake_framed core s
  | .houndFault ctx core kind code pc tval => houndFault_framed ctx core kind code pc tval s
  | .lease path msg => lease_framed path msg s
  | .release path msg => release_framed path msg s
  | .leaseExpired => leaseExpired_framed s
  | .epoch path msg => epoch_framed path msg s
  | .setCount path msg => setCount_framed path msg s
  | .cap path msg => cap_framed path msg s
  | .planWrite path msg => planWrite_framed path msg s
  | .planCommit path msg => planCommit_framed path msg s
  | .readmit path msg => readmit_framed path msg s
  | .fenceGroup path msg => fenceGroup_framed path msg s
  | .groupWrite path msg => groupWrite_framed path msg s
  | .resumeGroup path msg => resumeGroup_framed path msg s
  | .memberLost path msg => memberLost_framed path msg s
  | .imprintAuth path msg => imprintAuth_framed path msg s
  | .clearAuth path msg => clearAuth_framed path msg s
  | .logClear path msg => logClear_framed path msg s
  | .quarantine path msg => quarantine_framed path msg s
  | .arrayRelease path msg => arrayRelease_framed path msg s
  | .penReset path msg => penReset_framed path msg s
  | .warmReset path msg => warmReset_framed path msg s
  | .portReeval path msg => portReeval_framed path msg s
  | .inspect path msg => inspect_framed path msg s
  | .status path msg => status_framed path msg s
  | .namedTickAction op => namedTickAction_framed op s
  | .inspectLevelStep port => inspectLevelStep_framed port s
  | .inspectionRecord port rec rx => inspectionRecord_framed port rec rx s
  | .inspectTimeout port => inspectTimeout_framed port s
  | .i3cPrivateWrite msg => i3cPrivateWrite_framed msg s
  | .i3cPrivateRead => i3cPrivateRead_framed s
  | .entdaa addr => entdaa_framed addr s
  | .rstdaa => rstdaa_framed s
  | .getpid => getpid_framed s
  | .getbcr => getbcr_framed s
  | .getdcr => getdcr_framed s
  | .setmrl len => setmrl_framed len s
  | .enec events => enec_framed events s
  | .disec events => disec_framed events s
  | .tickBoundary => tickBoundary_framed s
  | .tickSyncEdge => tickSyncEdge_framed s
  | .refclkOutOfRange => refclkOutOfRange_framed s
  | .engineFault kind index => engineFault_framed kind index s
  | .laneMeasurementRefresh samples => laneMeasurementRefresh_framed samples s
  | .hndRingBaseWrite core off write mem => hndRingBaseWrite_framed core off write mem s

theorem step_of_empty {s : State} (h : s.pending = []) : step s = .next s := by
  unfold step
  rw [h]

theorem step_of_cons (c : Instr) (rest : List Instr) (s : State) :
    step { s with pending := c :: rest } = exec c { s with pending := rest } := rfl

/-- Settles O1: the step takes the queue apart and runs its front. -/
theorem stepRunsTheFrontCommand : Obligations.StepRunsTheFrontCommand := step_of_cons

/-- Settles O2: the frame of each command gives the next state it answers. -/
theorem everyCommandGoesOn : Obligations.EveryCommandGoesOn := by
  have goesOn : ∀ (c : Instr) (s : State), ∃ q : Pkg, exec c s = .next { s with pkg := q } := fun c s =>
    let ⟨q, hq, _⟩ := exec_framed c s
    ⟨q, hq⟩
  exact ⟨fun _ => step_of_empty, goesOn, fun c rest s => goesOn c { s with pending := rest }⟩

/-- Settles O59: the state that a command answers is the one of its frame. -/
theorem framesOfCommands : Obligations.FramesOfCommands := by
  intro c s t h
  obtain ⟨q, hq, hkeeps⟩ := exec_framed c s
  obtain rfl : t = { s with pkg := q } := by simpa [h] using hq
  exact ⟨rfl, hkeeps⟩

end Sys2Proof.Machine
end

section
/-! PROOFS. The order in which a tick serves its events: what the stable insertion sort keeps and orders, the place of an event, and the
writes that move behind the updates of their fields. -/

namespace Sys2Proof.Machine

/-! #### The stable insertion sort -/

section Sorting

variable {α : Type} {lt : α → α → Bool}

theorem insertBy_perm (lt : α → α → Bool) (x : α) (l : List α) : (insertBy lt x l).Perm (x :: l) := by
  induction l with
  | nil => exact .refl _
  | cons y t ih =>
    unfold insertBy
    split
    · exact .refl _
    · exact (ih.cons y).trans (.swap x y t)

/-- An element goes to the end of a list that holds none it comes before. -/
theorem insertBy_eq_append {x : α} {l : List α} (h : ∀ y ∈ l, lt x y = false) : insertBy lt x l = l ++ [x] := by
  induction l with
  | nil => rfl
  | cons y t ih =>
    obtain ⟨hy, ht⟩ := List.forall_mem_cons.mp h
    simp [insertBy, hy, ih ht]

theorem insertBy_pairwise (hasymm : ∀ a b, lt a b = true → lt b a = false)
    (htrans : ∀ a b c, lt a b = true → lt b c = true → lt a c = true) (x : α) {l : List α}
    (h : l.Pairwise fun a b => lt b a = false) : (insertBy lt x l).Pairwise fun a b => lt b a = false := by
  induction l with
  | nil => simp [insertBy]
  | cons y t ih =>
    obtain ⟨hy, ht⟩ := List.pairwise_cons.mp h
    unfold insertBy
    split
    next hxy =>
      refine List.pairwise_cons.mpr ⟨List.forall_mem_cons.mpr ⟨hasymm _ _ hxy, fun z hz => ?_⟩, h⟩
      exact Bool.eq_false_iff.mpr fun hzx => by simpa [hy z hz] using htrans _ _ _ hzx hxy
    next hxy =>
      refine List.pairwise_cons.mpr ⟨fun z hz => ?_, ih ht⟩
      obtain rfl | hz := List.mem_cons.mp ((insertBy_perm lt x t).mem_iff.mp hz)
      · simpa using hxy
      · exact hy z hz

/-- Elements that compare alike keep their order: the inserted one stands behind those that stood there. -/
theorem filter_insertBy (hasymm : ∀ a b, lt a b = true → lt b a = false) {P : α → Bool}
    (hP : ∀ a b c, P a = true → P b = true → lt a c = lt b c) (x : α) {l : List α} (h : l.Pairwise fun a b => lt b a = false) :
    (insertBy lt x l).filter P = l.filter P ++ [x].filter P := by
  induction l with
  | nil => rfl
  | cons y t ih =>
    obtain ⟨hy, ht⟩ := List.pairwise_cons.mp h
    unfold insertBy
    split
    next hxy =>
      cases hx : P x with
      | false => simp [hx]
      | true =>
        have irrefl : lt y y = false := Bool.eq_false_iff.mpr fun h => by simp [hasymm y y h] at h
        have none : (y :: t).filter P = [] := by
          refine List.filter_eq_nil_iff.mpr (List.forall_mem_cons.mpr ⟨fun hPy => ?_, fun z hz hPz => ?_⟩)
          · simp [hP x y y hx hPy, irrefl] at hxy
          · simp [hP x z y hx hPz, hy z hz] at hxy
        rw [List.filter_cons, none]
        simp [hx]
    next hxy => simp [List.filter_cons, ih ht]; split <;> rfl

/-- The sort, taken from any list that is sorted so far. -/
theorem foldl_insertBy_perm (lt : α → α → Bool) (l acc : List α) :
    (l.foldl (fun acc x => insertBy lt x acc) acc).Perm (acc ++ l) := by
  induction l generalizing acc with
  | nil => simp
  | cons x t ih => exact (ih _).trans (((insertBy_perm lt x acc).append_right t).trans List.perm_middle.symm)

theorem sortBy_perm (lt : α → α → Bool) (l : List α) : (sortBy lt l).Perm l := foldl_insertBy_perm lt l []

theorem sortBy_append_singleton (lt : α → α → Bool) (l : List α) (x : α) : sortBy lt (l ++ [x]) = insertBy lt x (sortBy lt l) := by
  simp [sortBy]

theorem sortBy_pairwise (hasymm : ∀ a b, lt a b = true → lt b a = false)
    (htrans : ∀ a b c, lt a b = true → lt b c = true → lt a c = true) (l : List α) :
    (sortBy lt l).Pairwise fun a b => lt b a = false := by
  induction l using List.reverseRecOn with
  | nil => exact .nil
  | append_singleton l x ih => rw [sortBy_append_singleton]; exact insertBy_pairwise hasymm htrans x ih

theorem filter_sortBy (hasymm : ∀ a b, lt a b = true → lt b a = false)
    (htrans : ∀ a b c, lt a b = true → lt b c = true → lt a c = true) {P : α → Bool}
    (hP : ∀ a b c, P a = true → P b = true → lt a c = lt b c) (l : List α) : (sortBy lt l).filter P = l.filter P := by
  induction l using List.reverseRecOn with
  | nil => rfl
  | append_singleton l x ih =>
    rw [sortBy_append_singleton, filter_insertBy hasymm hP x (sortBy_pairwise hasymm htrans l), ih, List.filter_append]

/-- A list in order stays as it is. -/
theorem sortBy_of_pairwise {l : List α} (h : l.Pairwise fun a b => lt b a = false) : sortBy lt l = l := by
  induction l using List.reverseRecOn with
  | nil => rfl
  | append_singleton l x ih =>
    obtain ⟨hl, -, hx⟩ := List.pairwise_append.mp h
    rw [sortBy_append_singleton, ih hl, insertBy_eq_append fun y hy => hx y hy x (List.mem_singleton_self x)]

end Sorting

/-! #### The place of an event -/

theorem placeBefore_iff (t : Nat) (a b : TickPlace) : placeBefore t a b = true ↔
    a.cls < b.cls ∨ (a.cls = b.cls ∧ (turnOf t a < turnOf t b ∨ (turnOf t a = turnOf t b ∧ a.entry < b.entry))) := by
  simp [placeBefore]

theorem placeBefore_asymm {t : Nat} {a b : TickPlace} (h : placeBefore t a b = true) : placeBefore t b a = false := by
  rw [← Bool.not_eq_true, placeBefore_iff]
  rw [placeBefore_iff] at h
  omega

theorem placeBefore_trans {t : Nat} {a b c : TickPlace} (h : placeBefore t a b = true) (h' : placeBefore t b c = true) :
    placeBefore t a c = true := by
  rw [placeBefore_iff] at *
  omega

/-- The turn of a source of a class: those from the start index on come first, in their order, then those below it. -/
theorem turnOf_eq {t : Nat} {a : TickPlace} (h : a.src < sourcesOf a.cls) :
    turnOf t a = if t % sourcesOf a.cls ≤ a.src then a.src - t % sourcesOf a.cls else a.src + sourcesOf a.cls - t % sourcesOf a.cls := by
  have hfirst : t % sourcesOf a.cls < sourcesOf a.cls := Nat.mod_lt _ (by omega)
  unfold turnOf
  split
  · rw [show a.src + sourcesOf a.cls - t % sourcesOf a.cls = a.src - t % sourcesOf a.cls + sourcesOf a.cls by omega, Nat.add_mod_right,
      Nat.mod_eq_of_lt (by omega)]
  · exact Nat.mod_eq_of_lt (by omega)

/-- Two events of one class stand by their sources from the start index on, then by their entries. -/
theorem placeBefore_iff_of_cls_eq {t : Nat} {a b : TickPlace} (hc : a.cls = b.cls) (ha : a.src < sourcesOf a.cls)
    (hb : b.src < sourcesOf a.cls) : placeBefore t a b = true ↔
      (t % sourcesOf a.cls ≤ a.src ∧ b.src < t % sourcesOf a.cls) ∨
        ((t % sourcesOf a.cls ≤ a.src ↔ t % sourcesOf a.cls ≤ b.src) ∧ (a.src < b.src ∨ (a.src = b.src ∧ a.entry < b.entry))) := by
  have hfirst : t % sourcesOf a.cls < sourcesOf a.cls := Nat.mod_lt _ (by omega)
  rw [placeBefore_iff, turnOf_eq ha, turnOf_eq (hc ▸ hb), ← hc]
  split <;> split <;> omega

theorem mgtPlace_cls (path : Path) : (mgtPlace path).cls = 5 := by cases path <;> rfl

theorem cancelPlace_cls (src : Src) : (cancelPlace src).cls < 6 := by cases src <;> simp [cancelPlace]

theorem timeoutPlace_cls (p : Pkg) (tag : Nat) : (timeoutPlace p tag).cls = 3 := by unfold timeoutPlace; split <;> rfl

theorem ratePlace_cls (p : Pkg) (l : List BeatSample) : (ratePlace p l).cls < 6 := by
  unfold ratePlace; split <;> simp [fwPlace]

/-- Every event is of one of the six classes. -/
theorem tickPlace_cls_lt (p : Pkg) (c : Instr) : ∀ x, tickPlace p c = some x → x.cls < 6 := by
  cases c
  case dramUncorrectable stack late loc => cases loc <;> simp [tickPlace, framePlace]
  all_goals simp [tickPlace, barPlace, portPlace, hostPlace_, fwPlace, penPlace, responsePlace, dlPlace, mgtPlace_cls, cancelPlace_cls,
    timeoutPlace_cls, ratePlace_cls]

/-! #### Writes after the updates of their fields -/

/-- A command that writes registers is no update by the firmware. -/
theorem fwUpdates_of_coveredBy {c : Instr} (h : coveredBy c ≠ []) (off : Nat) : fwUpdates c off = false := by
  unfold coveredBy at h
  split at h
  · rfl
  · exact absurd rfl h

theorem take_sub_length_of_append_eq {pre post l : List Instr} (h : pre ++ post = l) : l.take (l.length - post.length) = pre := by
  simp [← h]

/-- A command goes in at one place of those behind it: no later one updates a register that it writes, and what stands before it is passed
by a write alone. -/
theorem writesLast_cons (c : Instr) (t : List Instr) : ∃ pre post, writesLast t = pre ++ post ∧ writesLast (c :: t) = pre ++ c :: post ∧
    (∀ d ∈ post, (coveredBy c).any (fwUpdates d) = false) ∧ (pre ≠ [] → coveredBy c ≠ []) := by
  rw [writesLast]
  dsimp only
  split
  next hany =>
    obtain ⟨pre, hpre⟩ := List.rtakeWhile_suffix (fun d => !(coveredBy c).any (fwUpdates d)) (writesLast t)
    refine ⟨pre, _, hpre.symm, congrArg (· ++ _) (take_sub_length_of_append_eq hpre), fun d hd => ?_, fun _ hc => ?_⟩
    · simpa using List.mem_rtakeWhile_imp hd
    · obtain ⟨d, -, hd⟩ := List.any_eq_true.mp hany
      simp [hc] at hd
  next hany =>
    refine ⟨[], _, rfl, rfl, fun d hd => ?_, fun h => absurd rfl h⟩
    exact Bool.eq_false_iff.mpr fun h => hany (List.any_eq_true.mpr ⟨d, hd, h⟩)

theorem writesLast_perm (l : List Instr) : (writesLast l).Perm l := by
  induction l with
  | nil => exact .refl _
  | cons c t ih =>
    obtain ⟨pre, post, ht, hc, -⟩ := writesLast_cons c t
    rw [hc]
    exact List.perm_middle.trans ((ht ▸ ih).cons c)

theorem writesLast_pairwise (l : List Instr) : (writesLast l).Pairwise fun c d => (coveredBy c).any (fwUpdates d) = false := by
  induction l with
  | nil => exact .nil
  | cons c t ih =>
    obtain ⟨pre, post, ht, hc, hpost, hpre⟩ := writesLast_cons c t
    rw [ht] at ih
    obtain ⟨ih₁, ih₂, ih₃⟩ := List.pairwise_append.mp ih
    rw [hc]
    refine List.pairwise_append.mpr ⟨ih₁, List.pairwise_cons.mpr ⟨hpost, ih₂⟩, fun d hd => List.forall_mem_cons.mpr ⟨?_, ih₃ d hd⟩⟩
    exact List.any_eq_false.mpr fun off _ => by simp [fwUpdates_of_coveredBy (hpre (List.ne_nil_of_mem hd))]

/-- No write moves where no update meets one. -/
theorem writesLast_of_none {l : List Instr} (h : ∀ c ∈ l, ∀ d ∈ l, (coveredBy c).any (fwUpdates d) = false) : writesLast l = l := by
  induction l with
  | nil => rfl
  | cons c t ih =>
    obtain ⟨hc, ht⟩ := List.forall_mem_cons.mp h
    have hr : writesLast t = t := ih fun d hd e he => ht d hd e (List.mem_cons_of_mem c he)
    rw [writesLast, hr]
    have none : t.any (fun d => (coveredBy c).any (fwUpdates d)) = false :=
      List.any_eq_false.mpr fun d hd => by simp [hc d (List.mem_cons_of_mem c hd)]
    simp [none]

/-! #### The order of a tick -/

/-- The comparison by which a tick sorts its events. -/
def eventBefore (p : Pkg) (a b : Instr) : Bool :=
  match tickPlace p a, tickPlace p b with
  | some x, some y => placeBefore (now p) x y
  | _, _ => false

theorem serveOrder_eq (p : Pkg) (l : List Instr) : serveOrder p l = writesLast (sortBy (eventBefore p) l) := rfl

theorem eventBefore_iff (p : Pkg) (a b : Instr) : eventBefore p a b = true ↔
    ∃ x y, tickPlace p a = some x ∧ tickPlace p b = some y ∧ placeBefore (now p) x y = true := by
  unfold eventBefore
  split <;> simp_all

theorem servedNoLater_iff (p : Pkg) (a b : Instr) : servedNoLater p a b ↔ eventBefore p b a = false := by
  rw [← Bool.not_eq_true, eventBefore_iff]
  simp only [servedNoLater, not_exists, not_and, Bool.not_eq_true]
  exact ⟨fun h y x hy hx => h x y hx hy, fun h x y hx hy => h y x hy hx⟩

theorem eventBefore_asymm (p : Pkg) (a b : Instr) (h : eventBefore p a b = true) : eventBefore p b a = false := by
  obtain ⟨x, y, hx, hy, hxy⟩ := (eventBefore_iff p a b).mp h
  simp [eventBefore, hx, hy, placeBefore_asymm hxy]

theorem eventBefore_trans (p : Pkg) (a b c : Instr) (h : eventBefore p a b = true) (h' : eventBefore p b c = true) :
    eventBefore p a c = true := by
  obtain ⟨x, y, hx, hy, hxy⟩ := (eventBefore_iff p a b).mp h
  obtain ⟨y', z, hy', hz, hyz⟩ := (eventBefore_iff p b c).mp h'
  obtain rfl : y = y' := by simpa [hy] using hy'
  exact (eventBefore_iff p a c).mpr ⟨x, z, hx, hz, placeBefore_trans hxy hyz⟩

/-- Events that stand at a place hold no boundary, so all of them are of the same tick. -/
theorem restOfTick_of_places {p : Pkg} {l : List Instr} (h : ∀ c ∈ l, tickPlace p c ≠ none) : restOfTick l = l := by
  refine List.takeWhile_eq_self_iff.mpr fun c hc => ?_
  split
  · exact absurd rfl (h _ hc)
  · rfl

/-- Settles O21: the sort is stable, and no write moves where no update of the firmware meets it. -/
theorem eventsServedInOrder : Obligations.EventsServedInOrder := by
  refine ⟨fun t a b h => ?_, fun t a b hc ha hb => placeBefore_iff_of_cls_eq hc ha hb, fun t => ?_, tickPlace_cls_lt,
    fun p l => (writesLast_perm _).trans (sortBy_perm _ l), fun p l => writesLast_pairwise _, fun s l hplace hfree => ?_⟩
  · have hab : placeBefore t a b = true := (placeBefore_iff t a b).mpr (.inl h)
    exact ⟨hab, placeBefore_asymm hab⟩
  · have h272 : sourcesOf 4 = 272 := rfl
    have h := placeBefore_iff_of_cls_eq (t := t) (a := ⟨4, 200, 0⟩) (b := ⟨4, 17, 0⟩) rfl (by simp [h272]) (by simp [h272])
    simp only [h272] at h
    exact h.trans (by omega)
  · have hperm := sortBy_perm (eventBefore s.pkg) l
    have hsorted := sortBy_pairwise (eventBefore_asymm s.pkg) (eventBefore_trans s.pkg) l
    have hserve : serveOrder s.pkg l = sortBy (eventBefore s.pkg) l :=
      writesLast_of_none fun c hc d hd => hfree c (hperm.mem_iff.mp hc) d (hperm.mem_iff.mp hd)
    refine ⟨?_, fun x => ?_, ?_⟩
    · rw [hserve]
      exact hsorted.imp (servedNoLater_iff s.pkg _ _).mpr
    · rw [hserve]
      refine filter_sortBy (eventBefore_asymm s.pkg) (eventBefore_trans s.pkg) (fun a b c ha hb => ?_) l
      simp only [decide_eq_true_eq] at ha hb
      simp [eventBefore, ha, hb]
    · have hrest : restOfTick (serveOrder s.pkg l) = serveOrder s.pkg l :=
        restOfTick_of_places fun c hc => hplace c (hperm.mem_iff.mp (hserve ▸ hc))
      have hagain : serveOrder s.pkg (serveOrder s.pkg l) = serveOrder s.pkg l := by
        rw [hserve, serveOrder_eq, sortBy_of_pairwise hsorted, ← serveOrder_eq, hserve]
      simp [queuedInOrder, hrest, hagain]

end Sys2Proof.Machine
end

section
/-! PROOFS. The refusal of an image of the other format version (R25). -/

namespace Sys2Proof.Machine

@[simp] theorem ldrDone_ldr (p : Pkg) (f : Ldr → Ldr) :
    (ldrDone p f).ldr = { f p.ldr with st := 2, rechecked := [], asked := [], fillFrom := [], fills := [] } := by
  simp [ldrDone, modLdr]

/-- The loader's registers after a refused BIND hold the report of the failed check, and the refusal is counted. -/
theorem bindRefused_ldr (p : Pkg) (n : Nat) (f : LdrFail) : (bindRefused p n f).ldr =
    { p.ldr with
      st := 2, result := f.status, failCheck := f.check, failSection := f.sec, failIndex := f.index, failOffset := f.off
      refuseCount := inc32 p.ldr.refuseCount, rechecked := [], asked := [], fillFrom := [], fills := [] } := by
  unfold bindRefused
  dsimp only
  split <;> simp

/-- A check other than the first leaves the pen EMPTY. -/
theorem bindRefused_pen_st (p : Pkg) (n : Nat) {f : LdrFail} (h : f.check ≠ 1) : (penOf (bindRefused p n f) n).st = penEmpty := by
  simp [bindRefused, h, penTo_st]

/-- What check 5 reports of an image of the other format version. -/
def versionFail : LdrFail := { check := 5, status := stFormatInvalid, off := 8 }

/-- Check 5 fails on the other format version, before any later check is made. -/
theorem headFail_of_version {p : Pkg} {n : Nat} {b : Bytes} (hmagic : b.take 8 = imageMagic)
    (hv : fieldAt b 8 2 ≠ if (penOf p n).compat then 3 else 4) : headFail p n b = some versionFail := by
  unfold headFail
  extract_lets x v group
  rw [if_neg (not_not.mpr hmagic), if_pos hv]
  rfl

theorem bindView_of_headFail {p : Pkg} {n : Nat} {b : Bytes} {f : LdrFail} (placed : Bool) (h : headFail p n b = some f) :
    bindView p n b placed = .failed f := by
  simp [bindView, firstFailOf, h]

/-- An image that fails a check before the claims are made is refused by that check. -/
theorem bindEnd_of_headFail {p : Pkg} {n : Nat} {b : Bytes} {f : LdrFail} (placed : Bool) (hcmd : cmdFail p = none)
    (h : headFail p n b = some f) (hf : f.check < 17) : bindEnd p n (some b) placed = judgeVerify (bindRefused p n f) := by
  simp [bindEnd, hcmd, bindView_of_headFail placed h, Nat.not_le.mpr hf]

/-- Settles O15: check 5 is the first that such an image fails. -/
theorem imageVersionRefused : Obligations.ImageVersionRefused := by
  intro s b placed hst hop hcmd hmagic hv
  refine does_of_actS (exec_bindComplete (some b) placed s) (by simp [hst, hop]) ?_
  have hend : bindEnd s.pkg s.pkg.ldr.pen (some b) placed = judgeVerify (bindRefused s.pkg s.pkg.ldr.pen versionFail) :=
    bindEnd_of_headFail placed hcmd (headFail_of_version hmagic hv) (by decide)
  have hpens : (settle s.pkg (judgeReady (judgeVerify (bindRefused s.pkg s.pkg.ldr.pen versionFail)))).pens =
      (bindRefused s.pkg s.pkg.ldr.pen versionFail).pens := by simp
  rw [hend, penOf_congr hpens, bindRefused_pen_st s.pkg s.pkg.ldr.pen (by decide)]
  simp [bindRefused_ldr, versionFail]

end Sys2Proof.Machine
end

section
/-! PROOFS. The managers' commands of the lease, the epoch, the count, the cap, the status and named ticks (R456 to R460): what a message
that passes its checks does, the reply it gets, and what the block keeps through the effect of a command. -/

namespace Sys2Proof.Machine

/-! #### Fields of a byte string -/

theorem leNat_lt (b : Bytes) : leNat b < 256 ^ b.length := by
  induction b with
  | nil => simp [leNat]
  | cons x t ih =>
    have hx := x.isLt
    simp only [leNat, List.length_cons, Nat.pow_succ]
    omega

theorem fieldAt_lt (b : Bytes) (off n : Nat) : fieldAt b off n < 256 ^ n :=
  (leNat_lt _).trans_le (Nat.pow_le_pow_right (by decide) (by simp))

@[simp] theorem toLE_length (n v : Nat) : (toLE n v).length = n := by
  induction n generalizing v with
  | zero => rfl
  | succ n ih => simp [toLE, ih]

theorem leNat_toLE (n v : Nat) : leNat (toLE n v) = v % 256 ^ n := by
  induction n generalizing v with
  | zero => simp [toLE, leNat, Nat.mod_one]
  | succ n ih =>
    rw [toLE, leNat, ih, Nat.pow_succ', Nat.mod_mul]
    simp

/-- The field that a number was written to. -/
theorem fieldAt_toLE_append (n v : Nat) (b : Bytes) : fieldAt (toLE n v ++ b) 0 n = v % 256 ^ n := by
  rw [fieldAt, List.drop_zero, List.take_left' (toLE_length n v), leNat_toLE]

/-- A field behind a number. -/
theorem fieldAt_toLE_append_of_le {k off : Nat} (h : k ≤ off) (v n : Nat) (b : Bytes) :
    fieldAt (toLE k v ++ b) off n = fieldAt b (off - k) n := by
  rw [fieldAt, List.drop_append, List.drop_eq_nil_of_le (by simpa using h), List.nil_append, toLE_length, fieldAt]

/-! #### What is sent -/

/-- An MSI-X message is sent, or waits behind its mask, or is not sent. -/
theorem msix_out (p : Pkg) (fn vec : Nat) : (msix p fn vec).out = p.out ∨ (msix p fn vec).out = p.out ++ [.msix fn vec] := by
  unfold msix
  split
  · exact .inl rfl
  · split
    · exact .inl rfl
    · exact .inr rfl

theorem mem_msix_out {p : Pkg} {o : Out} (fn vec : Nat) (h : o ∈ p.out) : o ∈ (msix p fn vec).out := by
  rcases msix_out p fn vec with e | e <;> simp [e, h]

theorem mem_settle_out {p : Pkg} {o : Out} (p0 : Pkg) (h : o ∈ p.out) : o ∈ (settle p0 p).out := by
  unfold settle
  split <;> split <;> simp [mem_msix_out, h]

/-- The interrupts of a command are no replies. -/
theorem reply_mem_of_mem_settle {p0 p : Pkg} {path : Path} {b : Bytes} (h : Out.reply path b ∈ (settle p0 p).out) :
    Out.reply path b ∈ p.out := by
  have hmsix : ∀ (q : Pkg) (fn vec : Nat), Out.reply path b ∈ (msix q fn vec).out → Out.reply path b ∈ q.out := by
    intro q fn vec hq
    rcases msix_out q fn vec with e | e <;> simpa [e] using hq
  unfold settle at h
  split at h <;> split at h
  · exact h
  · exact hmsix _ _ _ h
  · exact hmsix _ _ _ h
  · exact hmsix _ _ _ (hmsix _ _ _ h)

theorem msix_mem_of_signals {p : Pkg} {vec : Nat} (h : signals p vec) : Out.msix 0 vec ∈ (msix p 0 vec).out := by
  obtain ⟨hmay, hmask⟩ := h
  simp [msix, hmay, hmask, send]

/-- What decides whether a vector sends its message. -/
theorem signals_congr {p q : Pkg} {vec : Nat} (hl : q.glb.hostLink = p.glb.hostLink) (hf : q.glb.fwFault = p.glb.fwFault)
    (hn : q.glb.fns = p.glb.fns) (h : signals p vec) : signals q vec := by
  simpa [signals, maySignal, hl, hf, hn] using h

@[simp] theorem judgeReady_signalling (p : Pkg) : (judgeReady p).glb.hostLink = p.glb.hostLink ∧ (judgeReady p).glb.fns = p.glb.fns := by
  unfold judgeReady
  dsimp only
  split
  · exact ⟨rfl, rfl⟩
  · split <;> exact ⟨rfl, rfl⟩

/-- A change of the lease raises PF vector 1,027 (R278). -/
theorem settle_signals_lease {p0 p : Pkg} (hl : p.mgt.lease ≠ p0.mgt.lease) (h : signals p 1027) :
    Out.msix 0 1027 ∈ (settle p0 p).out := by
  unfold settle
  dsimp only
  rw [if_neg fun e => hl e.1]
  split
  · exact msix_mem_of_signals h
  · exact msix_mem_of_signals (signals_congr (by simp) (by simp) (by simp) h)

/-! #### Replies -/

/-- The bytes of a reply (R454). -/
def replyBytes (p : Pkg) (c : PendCmd) (status : Nat) (body : Bytes) : Bytes :=
  let h := toLE 2 1 ++ toLE 1 c.mgr ++ toLE 1 c.op ++ toLE 4 p.mgt.term ++ toLE 8 c.seq ++ toLE 8 0 ++ toLE 2 body.length ++
    toLE 1 status ++ toLE 1 1 ++ zeros 4 ++ body
  h ++ macOf p c.mgr h

theorem mgtReply_sends (p : Pkg) (c : PendCmd) (status : Nat) (body : Bytes) :
    Out.reply c.path (replyBytes p c status body) ∈ (mgtReply p c status body).out := by
  have hsend (o : Out) (q : Pkg) : o ∈ (send q o).out := by simp [send]
  have hkeep {o x : Out} {q : Pkg} (h : o ∈ q.out) : o ∈ (send q x).out := by simp [send, h]
  unfold mgtReply
  dsimp only
  split
  · exact hsend _ _
  · split
    · exact hkeep (hsend (Out.reply c.path (replyBytes p c status body)) p)
    · exact hsend (Out.reply c.path (replyBytes p c status body)) p

theorem replyBytes_fields (p : Pkg) (c : PendCmd) (status : Nat) (body : Bytes) :
    fieldAt (replyBytes p c status body) 3 1 = c.op % 256 ∧ fieldAt (replyBytes p c status body) 8 8 = c.seq % 256 ^ 8 ∧
      fieldAt (replyBytes p c status body) 26 1 = status % 256 := by
  simp [replyBytes, fieldAt_toLE_append_of_le, fieldAt_toLE_append]

@[simp] theorem mgtDone_mgt (p : Pkg) (c : PendCmd) (body : Bytes) : (mgtDone p c body).mgt = p.mgt := by simp [mgtDone]

/-- A command is answered with its status by its reply. -/
theorem mgtReply_answered (p : Pkg) (path : Path) (msg : Bytes) {status : Nat} (hs : status < 256) (body : Bytes) :
    answered (mgtReply p (cmdOf path msg) status body) path msg status := by
  obtain ⟨hop, hseq, hst⟩ := replyBytes_fields p (cmdOf path msg) status body
  refine ⟨_, mgtReply_sends p (cmdOf path msg) status body, hop.trans ?_, hseq.trans ?_, hst.trans (Nat.mod_eq_of_lt hs)⟩
  · exact Nat.mod_eq_of_lt (fieldAt_lt msg 3 1)
  · exact Nat.mod_eq_of_lt (fieldAt_lt msg 8 8)

/-- The checks of READY and of the interrupts after a command take no reply back. -/
theorem answered_settle {p : Pkg} {path : Path} {msg : Bytes} {status : Nat} (p0 : Pkg) (h : answered p path msg status) :
    answered (settle p0 (judgeReady p)) path msg status := by
  obtain ⟨b, hb, hf⟩ := h
  exact ⟨b, mem_settle_out p0 (by simpa using hb), hf⟩

/-! #### A message that passes its checks -/

/-- The package in which a command of a taken message is judged: the link is seen, and the highest number raised. -/
def mgtSampled (p : Pkg) (path : Path) (msg : Bytes) : Pkg := raiseSeq (linkSeen p path) path msg

@[simp] theorem mgtSampled_keeps (p : Pkg) (path : Path) (msg : Bytes) : (mgtSampled p path msg).tick = p.tick ∧
    (mgtSampled p path msg).glb = p.glb ∧ (mgtSampled p path msg).scn = p.scn ∧ (mgtSampled p path msg).pens = p.pens ∧
    (mgtSampled p path msg).lsh = p.lsh ∧ (mgtSampled p path msg).out = p.out := by
  simp [mgtSampled]

theorem raiseSeq_eq (p : Pkg) (path : Path) (msg : Bytes) : raiseSeq p path msg = p ∨
    ∃ t, raiseSeq p path msg = { p with mgt := { p.mgt with seqHw := t } } := by
  unfold raiseSeq
  dsimp only
  split
  · exact .inr ⟨_, rfl⟩
  · exact .inl rfl

theorem linkSeen_eq (p : Pkg) (path : Path) : linkSeen p path = p ∨
    ∃ n, linkSeen p path = { p with mgt := { p.mgt with linkUp := true, fec := n } } := by
  cases path with
  | port => exact .inr ⟨_, rfl⟩
  | i3c => exact .inl rfl

@[simp] theorem mgtSampled_mgt (p : Pkg) (path : Path) (msg : Bytes) : (mgtSampled p path msg).mgt.lease = p.mgt.lease ∧
    (mgtSampled p path msg).mgt.holder = p.mgt.holder ∧ (mgtSampled p path msg).mgt.term = p.mgt.term ∧
    (mgtSampled p path msg).mgt.epoch = p.mgt.epoch ∧ (mgtSampled p path msg).mgt.stale = p.mgt.stale ∧
    (mgtSampled p path msg).mgt.pending = p.mgt.pending ∧ (mgtSampled p path msg).mgt.rxOk = p.mgt.rxOk := by
  unfold mgtSampled
  rcases raiseSeq_eq (linkSeen p path) path msg with e | ⟨t, e⟩ <;> rcases linkSeen_eq p path with e' | ⟨n, e'⟩ <;>
    rw [e, e'] <;> simp

/-- STATUS raises no number. -/
theorem mgtSampled_seqHw {p : Pkg} {path : Path} {msg : Bytes} (h : fieldAt msg 3 1 = 0x16) :
    (mgtSampled p path msg).mgt.seqHw = p.mgt.seqHw := by
  cases path <;> simp [mgtSampled, raiseSeq, linkSeen, cmdOf, h]

/-- A message that passes checks 1 to 5 gives its command. -/
theorem mgtCommand_of_take {op : Nat} {path : Path} {msg : Bytes} {p : Pkg} (hop : fieldAt msg 3 1 = op)
    (hv : mgtVerdict p path msg = .take) : mgtCommand op path msg p = opTake (mgtSampled p path msg) (cmdOf path msg) := by
  simp [mgtCommand, opIs, hop, mgtTaken, hv, mgtSampled]

/-- The package in which a taken command acts at once: it is counted, and a pending one of its OP is given up. -/
def mgtActing (p : Pkg) (path : Path) (msg : Bytes) : Pkg :=
  modMgt (mgtPassed (mgtSampled p path msg)) fun m => { m with pending := m.pending.filter fun x => decide (x.op ≠ fieldAt msg 3 1) }

@[simp] theorem mgtActing_keeps (p : Pkg) (path : Path) (msg : Bytes) : (mgtActing p path msg).tick = p.tick ∧
    (mgtActing p path msg).glb = p.glb ∧ (mgtActing p path msg).scn = p.scn ∧ (mgtActing p path msg).pens = p.pens := by
  simp [mgtActing]

@[simp] theorem mgtActing_mgt (p : Pkg) (path : Path) (msg : Bytes) : (mgtActing p path msg).mgt.lease = p.mgt.lease ∧
    (mgtActing p path msg).mgt.holder = p.mgt.holder ∧ (mgtActing p path msg).mgt.term = p.mgt.term ∧
    (mgtActing p path msg).mgt.epoch = p.mgt.epoch ∧ (mgtActing p path msg).mgt.stale = p.mgt.stale ∧
    (mgtActing p path msg).mgt.rxOk = inc64 p.mgt.rxOk ∧ (mgtActing p path msg).mgt.seqHw = (mgtSampled p path msg).mgt.seqHw := by
  simp [mgtActing, modMgt, mgtPassed]

/-- A command whose checks pass, of an OP that acts with one effect and one reply, does its effect and is answered. -/
theorem opAct_of_opBar {p : Pkg} {c : PendCmd} (hbar : opBar p c = none) (hop : c.op ∉ [0x08, 0x0F, 0x13, 0x15]) :
    opAct p c = mgtDone (opDo p c).1 c (opDo p c).2 := by
  simp only [List.mem_cons, List.not_mem_nil, or_false, not_or] at hop
  simp [opAct, hbar, hop]

/-- The same for a taken message that names the tick in which it is sampled. -/
theorem mgtCommand_acts {op : Nat} {path : Path} {msg : Bytes} {s : State} (h : mgtNow s op path msg)
    (hop : op ∉ [0x04, 0x05, 0x08, 0x0F, 0x13, 0x15]) (hbar : opBar (mgtSampled s.pkg path msg) (cmdOf path msg) = none)
    (habove : op = 0x03 → abovePending (mgtSampled s.pkg path msg) (cmdOf path msg) = none)
    (hagain : opBar (mgtActing s.pkg path msg) (cmdOf path msg) = none) : mgtCommand op path msg s.pkg =
      mgtDone (opDo (mgtActing s.pkg path msg) (cmdOf path msg)).1 (cmdOf path msg)
        (opDo (mgtActing s.pkg path msg) (cmdOf path msg)).2 := by
  obtain ⟨-, hmsg, hv, htick⟩ := h
  have hc : (cmdOf path msg).op = op := hmsg
  simp only [List.mem_cons, List.not_mem_nil, or_false, not_or] at hop
  have hfirst : firstFail [opBar (mgtSampled s.pkg path msg) (cmdOf path msg),
      if op = 0x03 then abovePending (mgtSampled s.pkg path msg) (cmdOf path msg) else none] = none := by
    by_cases h3 : op = 0x03 <;> simp [firstFail, hbar, h3, habove]
  have hnow : actsNow (mgtPassed (mgtSampled s.pkg path msg)) (cmdOf path msg) = true := by simp [actsNow, cmdOf, htick]
  rw [mgtCommand_of_take hmsg hv, ← opAct_of_opBar hagain (by simp [hc, hop])]
  unfold opTake
  simp only [hc, hfirst, hop, if_false, hnow, true_or, if_true]
  simp [mgtActing, hmsg]

/-! #### The effects -/

theorem leaseDo_mgt (p : Pkg) (c : PendCmd) :
    (leaseDo p c).mgt = { p.mgt with lease := true, holder := c.mgr, term := c.term, expiry := now p + 15000000 } := by
  unfold leaseDo
  dsimp only
  split <;> simp [modMgt]

/-- A lease that is renewed makes no record. -/
theorem leaseDo_scn_of_held {p : Pkg} (h : p.mgt.lease = true) (c : PendCmd) : (leaseDo p c).scn = p.scn := by
  simp [leaseDo, h, modMgt]

@[simp] theorem leaseEnd_mgt (p : Pkg) (code : Nat) : (leaseEnd p code).mgt.lease = false ∧ (leaseEnd p code).mgt.epoch = p.mgt.epoch ∧
    (leaseEnd p code).mgt.term = p.mgt.term ∧ (leaseEnd p code).mgt.pending = p.mgt.pending := by
  unfold leaseEnd
  dsimp only
  split
  next => simp [modMgt]
  next h => simpa using h

theorem setEpoch_mgt (p : Pkg) (mgr new : Nat) : (setEpoch p mgr new).mgt = { p.mgt with epoch := new } := by
  simp [setEpoch]

/-- A record leaves the authorisation of a clear as it is. -/
theorem storeRec_auth (s : Scn) (r : Rec) : (storeRec s r).1.auth = s.auth := by
  have hput (t : Scn) (k : Nat) : (putRec t k r).auth = t.auth := by unfold putRec; split <;> rfl
  unfold storeRec
  (repeat' split) <;> simp [hput, dropRec]

theorem logIrq_auth (p : Pkg) (r : Rec) : (logIrq p r).scn.auth = p.scn.auth := by
  unfold logIrq
  split <;> simp

theorem commitRec_auth (p : Pkg) (r : Rec) : (commitRec p r).1.scn.auth = p.scn.auth := by
  unfold commitRec
  dsimp only
  split <;> simp [logIrq_auth, storeRec_auth]

@[simp] theorem logRec_auth (p : Pkg) (prot : Bool) (code source p0 p1 p2 : Nat) :
    (logRec p prot code source p0 p1 p2).1.scn.auth = p.scn.auth := by
  unfold logRec
  dsimp only
  (repeat' split) <;> simp [commitRec_auth, dropRec]

@[simp] theorem log_auth (p : Pkg) (code source p0 p1 p2 : Nat) : (log p code source p0 p1 p2).scn.auth = p.scn.auth := by
  simp [log]

@[simp] theorem logEvent_auth (p : Pkg) (c status code handle p0 p1 p2 : Nat) :
    (logEvent p c status code handle p0 p1 p2).scn.auth = p.scn.auth := by
  simp [logEvent]

/-- A new epoch ends every authorisation (R460). -/
theorem setEpoch_auths (p : Pkg) (mgr new : Nat) : (setEpoch p mgr new).nvw.auth = none ∧ (setEpoch p mgr new).scn.auth = none := by
  unfold setEpoch
  dsimp only
  constructor
  · simp
  · rw [log_auth, forAll_scn _ _ _ (by simp), forAll_keep (fun q : Pkg => q.scn.auth) _ _ _ (by simp)]

/-! #### What a command leaves pending -/

theorem readmitDo_pending (p : Pkg) (c : PendCmd) : (readmitDo p c).mgt.pending = p.mgt.pending := by
  simp [readmitDo, modMgt, setEpoch_mgt]

theorem memberLostDo_pending (p : Pkg) (c : PendCmd) : (memberLostDo p c).mgt.pending = p.mgt.pending := by
  unfold memberLostDo
  dsimp only
  split <;> simp [modMgt]

theorem opDo_pending (p : Pkg) (c : PendCmd) : (opDo p c).1.mgt.pending = p.mgt.pending := by
  unfold opDo
  split <;> simp [leaseDo_mgt, setEpoch_mgt, readmitDo_pending, memberLostDo_pending, modMgt]

theorem mgtRefuse_pending (p : Pkg) (c : PendCmd) (status : Nat) (body : Bytes) :
    (mgtRefuse p c status body).mgt.pending = p.mgt.pending := by
  simp [mgtRefuse]

theorem inspectStart_pending (p : Pkg) (n : Nat) (c : PendCmd) : (inspectStart p n c).mgt.pending = p.mgt.pending := by
  simp [inspectStart]

theorem warmResetOp_pending (p : Pkg) (trigger : Nat) : (warmResetOp p trigger).mgt.pending = [] := by
  simp [warmResetOp]

/-- A command that acts adds none to the pending ones; a warm reset gives all of them up. -/
theorem opAct_pending (p : Pkg) (c : PendCmd) : (opAct p c).mgt.pending = p.mgt.pending ∨ (opAct p c).mgt.pending = [] := by
  unfold opAct
  dsimp only
  split
  next => left; rw [mgtRefuse_pending]; split <;> rfl
  next =>
    split
    next =>
      split
      next => left; rw [mgtRefuse_pending]
      next => left; simp [readmitDo_pending]
    next =>
      split
      next => left; simp
      next =>
        split
        next =>
          split
          next => left; simp
          next => right; exact warmResetOp_pending _ _
        next =>
          split
          next => left; exact inspectStart_pending _ _ _
          next => left; simp [opDo_pending]

/-- A named command that has acted is pending no more. -/
theorem namedAct_pending (p : Pkg) (c : PendCmd) : ∀ x ∈ (namedAct p c).mgt.pending, x.op ≠ c.op := by
  intro x hx
  unfold namedAct at hx
  rcases opAct_pending (modMgt p fun m => { m with pending := m.pending.filter fun x => decide (x.op ≠ c.op) }) c with h | h
  · rw [h] at hx
    simpa using (List.mem_filter.mp hx).2
  · rw [h] at hx
    exact absurd hx List.not_mem_nil

/-- The management block that a command finds under the look ahead at resets is the present one. -/
theorem underResets_finds_mgt (s : State) (op : Nat) (f : Pkg → Pkg) :
    ∃ p : Pkg, p.mgt = s.pkg.mgt ∧ (underResets s op f).mgt = (f p).mgt := by
  unfold underResets
  split
  · exact ⟨coldForeseen s, by simp, rfl⟩
  · split
    · exact ⟨foreseen s, by simp, by simp⟩
    · exact ⟨s.pkg, rfl, rfl⟩

/-! #### The commands, one by one -/

section Taken

variable {s : State} {path : Path} {msg : Bytes}

theorem lease_acts (h : mgtNow s 0x01 path msg)
    (hm : (s.pkg.mgt.lease = false ∧ s.pkg.mgt.term ≤ fieldAt msg 4 4) ∨
      (s.pkg.mgt.lease = true ∧ s.pkg.mgt.holder = fieldAt msg 2 1 % 2 ∧ s.pkg.mgt.term = fieldAt msg 4 4)) :
    mgtCommand 0x01 path msg s.pkg = mgtDone (leaseDo (mgtActing s.pkg path msg) (cmdOf path msg)) (cmdOf path msg) [] := by
  have hop : (cmdOf path msg).op = 0x01 := h.2.1
  have hbar (p : Pkg) (hl : p.mgt.lease = s.pkg.mgt.lease) (hh : p.mgt.holder = s.pkg.mgt.holder) (ht : p.mgt.term = s.pkg.mgt.term) :
      opBar p (cmdOf path msg) = none := by
    simp only [opBar, hop, bodyNeed, leaseBar, firstFail, hl, hh, ht]
    rcases hm with ⟨h1, h2⟩ | ⟨h1, h2, h3⟩ <;> simp [need, cmdOf, *]
  have hacts := mgtCommand_acts h (by decide) (hbar _ (by simp) (by simp) (by simp)) (by simp) (hbar _ (by simp) (by simp) (by simp))
  simpa [opDo, hop] using hacts

theorem release_acts (h : mgtNow s 0x02 path msg) : mgtCommand 0x02 path msg s.pkg =
    mgtDone (leaseEnd (mgtActing s.pkg path msg) codeLeaseReleased) (cmdOf path msg) [] := by
  have hop : (cmdOf path msg).op = 0x02 := h.2.1
  have hbar (p : Pkg) : opBar p (cmdOf path msg) = none := by simp [opBar, hop, bodyNeed, firstFail, need]
  simpa [opDo, hop] using mgtCommand_acts h (by decide) (hbar _) (by simp) (hbar _)

theorem epochBar_eq_none {p : Pkg} {c : PendCmd} (he : p.mgt.epoch < newEpoch c) (hs : p.mgt.stale = false) : epochBar p c = none := by
  simp [epochBar, firstFail, need, he, hs]

theorem opBar_epoch_eq_none {p : Pkg} {c : PendCmd} (hop : c.op = 0x03) (hlen : 8 ≤ c.body.length) (he : p.mgt.epoch < newEpoch c)
    (hs : p.mgt.stale = false) : opBar p c = none := by
  simp [opBar, hop, bodyNeed, hlen, firstFail, need, epochBar_eq_none he hs]

theorem epoch_acts (h : mgtNow s 0x03 path msg) (hlen : 8 ≤ (mgtBody msg).length)
    (he : s.pkg.mgt.epoch < fieldAt (mgtBody msg) 0 8) (hs : s.pkg.mgt.stale = false)
    (hp : ∀ x ∈ s.pkg.mgt.pending, x.op = 0x03 ∨ x.op = 0x08 → fieldAt x.body 0 8 < fieldAt (mgtBody msg) 0 8) :
    mgtCommand 0x03 path msg s.pkg = mgtDone
      (setEpoch (mgtActing s.pkg path msg) (cmdOf path msg).mgr (fieldAt (mgtBody msg) 0 8)) (cmdOf path msg) [] := by
  have hop : (cmdOf path msg).op = 0x03 := h.2.1
  have hnew : newEpoch (cmdOf path msg) = fieldAt (mgtBody msg) 0 8 := rfl
  have habove : (pendingEpochs (mgtSampled s.pkg path msg)).all (fun x => decide (newEpoch x < newEpoch (cmdOf path msg))) = true := by
    refine List.all_eq_true.mpr fun x hx => ?_
    obtain ⟨hx, hxop⟩ := List.mem_filter.mp hx
    exact decide_eq_true (hp x (by simpa using hx) (by simpa using hxop))
  have hbar (p : Pkg) (hpe : p.mgt.epoch = s.pkg.mgt.epoch) (hps : p.mgt.stale = s.pkg.mgt.stale) : opBar p (cmdOf path msg) = none :=
    opBar_epoch_eq_none hop hlen (by rwa [hpe, hnew]) (hps.trans hs)
  have hacts := mgtCommand_acts h (by decide) (hbar _ (by simp) (by simp)) (fun _ => by simp [abovePending, need, habove])
    (hbar _ (by simp) (by simp))
  simpa [opDo, hop, hnew] using hacts

theorem status_acts (h : mgtNow s 0x16 path msg) : mgtCommand 0x16 path msg s.pkg =
    mgtDone (mgtActing s.pkg path msg) (cmdOf path msg) (statusBody (mgtActing s.pkg path msg)) := by
  have hop : (cmdOf path msg).op = 0x16 := h.2.1
  have hbar (p : Pkg) : opBar p (cmdOf path msg) = none := by simp [opBar, hop, bodyNeed, firstFail, need]
  simpa [opDo, hop] using mgtCommand_acts h (by decide) (hbar _) (by simp) (hbar _)

theorem opBar_setCount (p : Pkg) (h : mgtNow s 0x04 path msg) (hlen : 8 ≤ (mgtBody msg).length) : opBar p (cmdOf path msg) =
    need (decide (fieldAt (mgtBody msg) 0 8 ≠ 0 ∧ fieldAt (mgtBody msg) 0 8 % 10000 = 0)) stLengthInvalid := by
  have hop : (cmdOf path msg).op = 0x04 := h.2.1
  have htick : (cmdOf path msg).tick = 0 := h.2.2.2
  have hbody : (cmdOf path msg).body = mgtBody msg := rfl
  by_cases hv : fieldAt (mgtBody msg) 0 8 ≠ 0 ∧ fieldAt (mgtBody msg) 0 8 % 10000 = 0 <;>
    simp [opBar, hop, bodyNeed, hbody, hlen, setCountBar, htick, firstFail, need, hv]

theorem setCount_waits (h : mgtNow s 0x04 path msg) (hlen : 8 ≤ (mgtBody msg).length) (h0 : fieldAt (mgtBody msg) 0 8 ≠ 0)
    (hk : fieldAt (mgtBody msg) 0 8 % 10000 = 0) :
    mgtCommand 0x04 path msg s.pkg = setCountDo (mgtPassed (mgtSampled s.pkg path msg)) (cmdOf path msg) := by
  have hop : (cmdOf path msg).op = 0x04 := h.2.1
  simp [mgtCommand_of_take h.2.1 h.2.2.1, opTake, opBar_setCount _ h hlen, firstFail, need, h0, hk, hop]

theorem setCount_refused (h : mgtNow s 0x04 path msg) (hlen : 8 ≤ (mgtBody msg).length)
    (hv : fieldAt (mgtBody msg) 0 8 % 10000 ≠ 0 ∨ fieldAt (mgtBody msg) 0 8 = 0) :
    mgtCommand 0x04 path msg s.pkg = mgtRefuse (mgtSampled s.pkg path msg) (cmdOf path msg) stLengthInvalid [] := by
  have hop : (cmdOf path msg).op = 0x04 := h.2.1
  have hv' : ¬ (fieldAt (mgtBody msg) 0 8 ≠ 0 ∧ fieldAt (mgtBody msg) 0 8 % 10000 = 0) := by omega
  simp [mgtCommand_of_take h.2.1 h.2.2.1, opTake, opBar_setCount _ h hlen, firstFail, need, hv', hop]

theorem opBar_cap (p : Pkg) (hop : (cmdOf path msg).op = 0x05) (hlen : 4 ≤ (mgtBody msg).length)
    (hbar : capBar (fieldAt (mgtBody msg) 0 4) = none) : opBar p (cmdOf path msg) = none := by
  have hbody : (cmdOf path msg).body = mgtBody msg := rfl
  simp [opBar, hop, bodyNeed, hbody, hlen, firstFail, need, hbar]

/-- A cap with its watts, its ramp and its kind in range passes its own checks (R394). -/
theorem capBar_eq_none {v : Nat}
    (hw : (capKind v < 2 ∧ 1000 ≤ capWatts v ∧ capWatts v ≤ 4200) ∨ (capKind v = 2 ∧ capWatts v = 0))
    (hr : capRamp v = 0 ∨ (50 ≤ capRamp v ∧ capRamp v ≤ 2000)) (h15 : bitOf v 15 = false) (hv : v < 2 ^ 27) : capBar v = none := by
  unfold capBar
  dsimp only
  rw [if_neg (by omega), if_neg (by omega), if_neg]
  simp only [h15, Bool.false_eq_true, false_or, Nat.div_eq_of_lt hv, not_or, ne_eq, not_true_eq_false, not_false_eq_true, and_true]
  omega

theorem cap_fields (v : Nat) : capWatts v = v % 2 ^ 13 ∧ capKind v = v / 2 ^ 13 % 4 ∧ capRamp v = v / 2 ^ 16 % 2 ^ 11 := by
  simp [capWatts, capKind, capRamp, bitsOf]

theorem cap_waits (hop : fieldAt msg 3 1 = 0x05) (hv : mgtVerdict s.pkg path msg = .take) (hlen : 4 ≤ (mgtBody msg).length)
    (hbar : capBar (fieldAt (mgtBody msg) 0 4) = none) :
    mgtCommand 0x05 path msg s.pkg = capDo (mgtPassed (mgtSampled s.pkg path msg)) (cmdOf path msg) := by
  have hc : (cmdOf path msg).op = 0x05 := hop
  simp [mgtCommand_of_take hop hv, opTake, opBar_cap _ hc hlen hbar, firstFail, hc]

/-- What a cap leaves to wait for its tick. -/
theorem takeCap_lsh (p : Pkg) (v tick : Nat) : (takeCap p v tick).lsh.pending =
    some { watts := capWatts v, kind := capKind v, ramp := capRamp v, tick := tick, sampled := now p } ∧
      (takeCap p v tick).lsh.budget = p.lsh.budget := by
  unfold takeCap
  dsimp only
  split <;> simp [modLsh]

end Taken

/-- With nothing to do, a package that runs stays as it is. -/
theorem settle_judgeReady_of_runsReady {s : State} (h : runsReady s) : settle s.pkg (judgeReady s.pkg) = s.pkg := by
  obtain ⟨-, hr, ht, hl, hf⟩ := h
  have hj : judgeReady s.pkg = s.pkg := by simp [judgeReady, hr, ht, hl, hf]
  simp [hj, settle]

theorem duePend_op {p : Pkg} {op : Nat} {c : PendCmd} (h : duePend p op = some c) : c.op = op := by
  have := List.find?_some h
  simp only [Bool.and_eq_true, decide_eq_true_eq] at this
  exact this.1.1.1

theorem namedAct_epoch {p : Pkg} {c : PendCmd} (hop : c.op = 0x03) (hlen : 8 ≤ c.body.length) (he : p.mgt.epoch < fieldAt c.body 0 8)
    (hs : p.mgt.stale = false) : (namedAct p c).mgt.epoch = fieldAt c.body 0 8 := by
  rw [namedAct, opAct_of_opBar]
  · simp [opDo, hop, setEpoch_mgt, newEpoch]
  · exact opBar_epoch_eq_none hop hlen he hs
  · simp [hop]

/-- Settles O54: each command by the effect that it has on the package in which it acts. -/
theorem leaseAndEpochCommands : Obligations.LeaseAndEpochCommands := by
  refine ⟨fun s path msg h hm => ?lease, fun s path msg h => ?release, fun s hp hl => ⟨fun he => ?expired, fun he => ?held⟩,
    fun s path msg h hlen he hs hpend => ?epoch, fun s path msg h hlen => ⟨fun hk h0 => ?count, fun hv => ?countRefused⟩,
    fun s path msg hp hop hv hlen hw hr h15 h27 => ?cap, fun s path msg h => ?status, fun s op c hp hdue => ?named,
    fun s c hp hdue hlen he hs => ?namedEpoch, fun s op hrun hdue => ?idle⟩
  case lease =>
    refine does_of_actS (exec_lease path msg s) h.1 ?_
    rw [lease_acts h hm]
    refine ⟨by simp [leaseDo_mgt], by simp [leaseDo_mgt, cmdOf], by simp [leaseDo_mgt, cmdOf], by simp [leaseDo_mgt, now],
      by simp [leaseDo_mgt], by simp [leaseDo_mgt], answered_settle _ (mgtReply_answered _ _ _ (by decide) _), fun hl => ?_, fun hl hs => ?_⟩
    · simp [leaseDo_scn_of_held, hl]
    · exact settle_signals_lease (by simp [leaseDo_mgt, hl]) (signals_congr (by simp) (by simp) (by simp) hs)
  case release =>
    refine does_of_actS (exec_release path msg s) h.1 ?_
    rw [release_acts h]
    exact ⟨by simp, by simp, by simp, answered_settle _ (mgtReply_answered _ _ _ (by decide) _)⟩
  case expired =>
    refine does_of_actS (exec_leaseExpired s) (by simp [hp, hl, he]) ⟨by simp, by simp, by simp, fun hs => ?_⟩
    exact settle_signals_lease (by simp [hl]) (signals_congr (by simp) (by simp) (by simp) hs)
  case held =>
    rw [Idles, exec_leaseExpired, execLeaseExpired]
    simp [actS, act, Nat.not_le.mpr he]
  case epoch =>
    refine does_of_actS (exec_epoch path msg s) h.1 ?_
    rw [epoch_acts h hlen he hs hpend]
    exact ⟨by simp [setEpoch_mgt], by simp [setEpoch_auths], by simp [setEpoch_auths], by simp [setEpoch_mgt],
      answered_settle _ (mgtReply_answered _ _ _ (by decide) _)⟩
  case count =>
    refine does_of_actS (exec_setCount path msg s) h.1 ?_
    rw [setCount_waits h hlen h0 hk]
    refine ⟨by simp [setCountDo, cmdOf, mgtBody], by simp [setCountDo, mgtPassed], by simp [setCountDo, mgtHold, mgtPassed], fun b hb => ?_⟩
    simpa using reply_mem_of_mem_settle hb
  case countRefused =>
    refine does_of_actS (exec_setCount path msg s) h.1 ?_
    rw [setCount_refused h hlen hv]
    exact ⟨by simp, answered_settle _ (mgtReply_answered _ _ _ (by decide) _)⟩
  case cap =>
    refine does_of_actS (exec_cap path msg s) hp ?_
    obtain ⟨hwatts, hkind, hramp⟩ := cap_fields (fieldAt (mgtBody msg) 0 4)
    have hbar : capBar (fieldAt (mgtBody msg) 0 4) = none :=
      capBar_eq_none (by rwa [hwatts, hkind]) (by rwa [hramp]) (by simp only [bitOf, h15]; rfl) h27
    obtain ⟨hpend, hbudget⟩ := takeCap_lsh (mgtHold (mgtPassed (mgtSampled s.pkg path msg)) (cmdOf path msg)) (fieldAt (mgtBody msg) 0 4)
      (fieldAt msg 16 8)
    have hc : (cmdOf path msg).op = 5 := hop
    rw [cap_waits hop hv hlen hbar]
    refine ⟨?_, ?_, ?_⟩
    · rw [hwatts, hkind, hramp] at hpend
      simpa [capDo, cmdOf, mgtBody, now] using hpend
    · simpa [capDo, cmdOf, mgtBody] using hbudget
    · simp [capDo, mgtHold, mgtPassed, hc]
  case status =>
    refine does_of_actS (exec_status path msg s) h.1 ?_
    rw [status_acts h]
    exact ⟨by simp, by simp [mgtSampled_seqHw h.2.1], by simp, by simp, answered_settle _ (mgtReply_answered _ _ _ (by decide) _)⟩
  case named =>
    refine does_of_actS (exec_namedTickAction op s) hp ?_
    obtain ⟨p, hpm, hq⟩ := underResets_finds_mgt s op fun q => namedAct q c
    simp only [hdue]
    simpa [hq, duePend_op hdue] using namedAct_pending p c
  case namedEpoch =>
    refine does_of_actS (exec_namedTickAction 0x03 s) hp ?_
    simp [hdue, underResets, namedAct_epoch (duePend_op hdue) hlen he hs]
  case idle =>
    rw [Idles, exec_namedTickAction, execNamedTickAction, actS_next hrun.1]
    simp [hdue, settle_judgeReady_of_runsReady hrun]

end Sys2Proof.Machine
end

section
/-! PROOFS. Writes of BAR0: the halves of a 64-bit register (R40), the gate before READY (R43) and values that a table does not list (R11). -/

namespace Sys2Proof.Machine

/-! #### The write of one command -/

/-- Of a write whose values are the last of the tick no register is replaced (R67). -/
theorem goneAt_of_latest {fn off size : Nat} {v : Word64} {s : State} (h : latest (.bar0Write fn off size v) s = true) :
    goneAt fn off size s = [] := by
  simpa [latest, goneAt, valuesOf, List.filter_eq_nil_iff] using h

/-- A write of a function that the device has enabled does what the write operation gives, where it can reset no context. -/
theorem does_bar0Write {fn off size : Nat} {v : Word64} {s : State} {post : Pkg → Prop} (hp : powered s.pkg = true)
    (hfn : fn ≤ s.pkg.numVfs) (hreset : resetsCtx s.pkg fn off size = false) (hlatest : latest (.bar0Write fn off size v) s = true)
    (h : post (settle s.pkg (judgeReady (bar0WriteOp s.pkg fn off size v.toNat [])))) : Does (.bar0Write fn off size v) s post := by
  refine does_of_actS (exec_bar0Write fn off size v s) (by simp [hp, hfn]) ?_
  simpa [hreset, goneAt_of_latest hlatest] using h

theorem writeServed_of_ready {p : Pkg} (h : p.glb.ready = true) (off : Nat) : writeServed p off = true := by simp [writeServed, h]

theorem accessOk_iff {off size : Nat} : accessOk off size = true ↔ (size = 4 ∨ size = 8) ∧ off % size = 0 := by
  simp only [accessOk, decide_eq_true_eq]

/-- A register of 4 bytes that is written takes its value at once, and a half that waits is lost. -/
theorem bar0WriteOp_four {p : Pkg} {fn off : Nat} (v : Nat) (hoff : off % 4 = 0) (hs : writeServed p off = true) (hw : wide64 off = false)
    (hu : wide64 (off - 4) = false) : bar0WriteOp p fn off 4 v [] = regEffect (dropHeld p fn off) fn off 4 (v % 2 ^ 32) := by
  have hs' : writeServed (dropHeld p fn off) off = true := by simpa [writeServed] using hs
  simp [bar0WriteOp, accessOk, hoff, write4, takeValue, hs', hw, hu]

/-- Eight bytes write a 64-bit register at once (R40). -/
theorem bar0WriteOp_wide {p : Pkg} {fn off : Nat} (v : Nat) (hoff : off % 8 = 0) (hs : writeServed p off = true) (hw : wide64 off = true) :
    bar0WriteOp p fn off 8 v [] = regEffect (dropHeld p fn off) fn off 8 v := by
  have hs' : writeServed (dropHeld p fn off) off = true := by simpa [writeServed] using hs
  simp [bar0WriteOp, accessOk, hoff, takeValue, hs', hw]

/-- A lower half waits for its upper one (R40). -/
theorem bar0WriteOp_lower {p : Pkg} {fn off : Nat} (v : Nat) (gone : List Nat) (hoff : off % 4 = 0) (hs : writeServed p off = true)
    (hw : wide64 off = true) : bar0WriteOp p fn off 4 v gone = setHeld (dropHeld p fn off) fn (some (off, v % 2 ^ 32)) := by
  have hs' : writeServed (dropHeld p fn off) off = true := by simpa [writeServed] using hs
  simp [bar0WriteOp, accessOk, hoff, write4, hs', hw]

/-- An upper half writes the whole register, with the lower half in force (R40). -/
theorem bar0WriteOp_upper {p : Pkg} {fn lo off : Nat} (v : Nat) (ho : off = lo + 4) (hoff : off % 4 = 0) (hs : writeServed p off = true)
    (hw : wide64 lo = true) (hu : wide64 off = false) : bar0WriteOp p fn off 4 v [] =
      regEffect (setHeld (dropHeld p fn off) fn none) fn lo 4 (lowHalf (dropHeld p fn off) fn lo + 2 ^ 32 * (v % 2 ^ 32)) := by
  subst ho
  have hs' : writeServed (dropHeld p fn (lo + 4)) (lo + 4) = true := by simpa [writeServed] using hs
  simp [bar0WriteOp, accessOk, hoff, write4, takeValue, hs', hw, hu]

/-- A write that is not served leaves every register; only the half that waits may be lost (R43). -/
theorem bar0WriteOp_unserved {p : Pkg} {fn off size : Nat} (v : Nat) (hok : accessOk off size = true) (hr : p.glb.ready = false)
    (hc : off ≠ 0x220001C) (hc' : off ≠ 0x2200018 ∨ size ≠ 8) : bar0WriteOp p fn off size v [] = dropHeld p fn off := by
  have hs : writeServed (dropHeld p fn off) off = false := by simp [writeServed, hr, hc]
  obtain ⟨hsize, -⟩ := accessOk_iff.mp hok
  rcases hsize with rfl | rfl
  · simp [bar0WriteOp, hok, write4, hs]
  · have hs' : writeServed (dropHeld p fn off) (off + 4) = false := by
      have : off + 4 ≠ 0x220001C := by omega
      simp [writeServed, hr, this]
    simp [bar0WriteOp, hok, write4, hs, hs']

theorem dropHeld_eq (p : Pkg) (fn off : Nat) : ∃ h, dropHeld p fn off = { p with glb := { p.glb with heldLow := h } } := by
  unfold dropHeld
  (repeat' split) <;> exact ⟨_, rfl⟩

/-- No upper half comes for a lower one: it is lost. -/
theorem dropHeld_lost {p : Pkg} {fn off o h : Nat} (hheld : tget none p.glb.heldLow fn = some (o, h)) (ho : off ≠ o + 4) :
    tget none (dropHeld p fn off).glb.heldLow fn = none := by
  simp [dropHeld, hheld, ho]

/-- The half stands at a write of its upper half, and with none held there is none to lose. -/
theorem dropHeld_upper {p : Pkg} {fn off o h : Nat} (hheld : tget none p.glb.heldLow fn = some (o, h)) (ho : off = o + 4) :
    dropHeld p fn off = p := by
  simp [dropHeld, hheld, ho]

theorem dropHeld_none {p : Pkg} {fn : Nat} (off : Nat) (hheld : tget none p.glb.heldLow fn = none) : dropHeld p fn off = p := by
  simp [dropHeld, hheld]

/-- A register outside the blocks of contexts is the physical function's (R257). -/
theorem regEffect_pf {off : Nat} (hctx : inCtxArea off = false) (hbind : inBindArea off = false) (p : Pkg) (size v : Nat) :
    regEffect p 0 off size v = pfRegWrite p 0 off size v := by
  simp [regEffect, hctx, hbind]

theorem resetsCtx_of_outside {off : Nat} (h : inCtxArea off = false) (p : Pkg) (fn size : Nat) : resetsCtx p fn off size = false := by
  simp [resetsCtx, h]

/-! #### A running package -/

theorem judgeReady_of_runs {q : Pkg} (hr : q.glb.ready = true) (ht : q.glb.selfTestDone = true) (hl : q.tick.phaseLocked = true)
    (hf : q.glb.fwFault = false) : judgeReady q = q := by
  simp [judgeReady, hr, ht, hl, hf]

theorem judgeReady_of_gate {q : Pkg} (hr : q.glb.ready = false)
    (hgate : q.glb.selfTestDone = false ∨ q.tick.phaseLocked = false ∨ q.glb.fwFault = true) : judgeReady q = q := by
  rcases hgate with h | h | h <;> simp [judgeReady, hr, h]

/-- A half that waits or is lost interrupts nobody. -/
theorem settle_heldLow (p : Pkg) (h : Tab (Option (Nat × Nat))) :
    settle p { p with glb := { p.glb with heldLow := h } } = { p with glb := { p.glb with heldLow := h } } := by
  have hstatus : glbStatus { p with glb := { p.glb with heldLow := h } } = glbStatus p := rfl
  simp [settle, hstatus]

/-- A register of the physical function of 4 bytes, written while the package runs. -/
theorem does_pfWrite4 {off : Nat} {v : Word64} {s : State} {post : Pkg → Prop} (h : runsReady s)
    (hlatest : latest (.bar0Write 0 off 4 v) s = true) (hoff : off % 4 = 0) (hw : wide64 off = false) (hu : wide64 (off - 4) = false)
    (hctx : inCtxArea off = false) (hbind : inBindArea off = false)
    (hpost : post (settle s.pkg (judgeReady (pfRegWrite (dropHeld s.pkg 0 off) 0 off 4 (v.toNat % 2 ^ 32))))) :
    Does (.bar0Write 0 off 4 v) s post := by
  refine does_bar0Write h.1 (Nat.zero_le _) (resetsCtx_of_outside hctx _ _ _) hlatest ?_
  rwa [bar0WriteOp_four _ hoff (writeServed_of_ready h.2.1 off) hw hu, regEffect_pf hctx hbind]

/-! #### Fields -/

theorem keepRange_lt {lo hi v old n : Nat} (hv : v < n) (hold : old < n) : keepRange lo hi v old < n := by
  unfold keepRange
  split
  · exact hv
  · exact hold

/-- A time out of range is 0 or all ones (R16). -/
theorem keepRange_holdTicks {v old : Nat} (hv : v < 2 ^ 32) :
    keepRange 1 0xFFFFFFFE v old = if v = 0 ∨ v = 0xFFFFFFFF then old else v := by
  unfold keepRange
  by_cases h : 1 ≤ v ∧ v ≤ 0xFFFFFFFE
  · rw [if_pos h, if_neg (by omega)]
  · rw [if_neg h, if_pos (by omega)]

/-- SLED_CTRL after a write: the rate keeps a value in range, and the tier enables are as written (Table 7-9). -/
theorem sledCtrlWrite_fields (old v : Nat) :
    bitsOf (sledCtrlWrite old (v % 2 ^ 32)) 7 0 = (if 1 ≤ v % 256 ∧ v % 256 ≤ 200 then v % 256 else bitsOf old 7 0) ∧
      bitsOf (sledCtrlWrite old (v % 2 ^ 32)) 17 16 = bitsOf v 17 16 := by
  have hrate : keepRange 1 200 (bitsOf (v % 2 ^ 32) 7 0) (bitsOf old 7 0) =
      if 1 ≤ v % 256 ∧ v % 256 ≤ 200 then v % 256 else bitsOf old 7 0 := by
    simp only [keepRange, bitsOf, Nat.reduceAdd, Nat.reduceSub, Nat.reducePow, Nat.div_one]
    rw [Nat.mod_mod_of_dvd _ (by decide)]
  have hmid : keepRange 0 8 (bitsOf (v % 2 ^ 32) 11 8) (bitsOf old 11 8) < 16 :=
    keepRange_lt (Nat.mod_lt _ (by decide)) (Nat.mod_lt _ (by decide))
  have hlow : (if 1 ≤ v % 256 ∧ v % 256 ≤ 200 then v % 256 else bitsOf old 7 0) < 256 :=
    keepRange_lt (Nat.mod_lt _ (by decide)) (Nat.mod_lt _ (by decide))
  unfold sledCtrlWrite
  rw [hrate]
  constructor
  · simp only [bitsOf] at hlow hmid ⊢
    omega
  · simp only [bitsOf] at hlow hmid ⊢
    omega

/-- Settles O12: each write by the case of `bar0WriteOp` that it is, and each register by its block's own write. -/
theorem bar0Writes : Obligations.Bar0Writes := by
  refine ⟨fun s v h => ⟨fun hl => ?whole, ?lower, fun low hh hl => ?upperHeld, fun hh hl => ?upperAlone, fun low hh hl => ?other⟩,
    ⟨fun s fn off size v hp hr hgate hfn hok hc hc' hl => ?gate, fun s v hp hr ht hlock hl => ?cursor, fun p fn off size hr hb hb' => ?read⟩,
    fun s v h hl => ⟨?hostRate, ?admitHold, ?loadTimeout, ?sledCtrl⟩⟩
  case whole =>
    refine does_bar0Write h.1 (Nat.zero_le _) (resetsCtx_of_outside (by decide) _ _ _) hl ?_
    rw [bar0WriteOp_wide _ (by decide) (writeServed_of_ready h.2.1 _) (by decide), regEffect_pf (by decide) (by decide)]
    simp [pfRegWrite, modLdr]
  case lower =>
    refine does_bar0Write h.1 (Nat.zero_le _) (resetsCtx_of_outside (by decide) _ _ _) (by simp [latest, valuesOf, writtenAt, wide64]) ?_
    obtain ⟨-, hr, ht, hlock, hf⟩ := h
    rw [bar0WriteOp_lower _ _ (by decide) (writeServed_of_ready hr _) (by decide),
      judgeReady_of_runs (by simpa using hr) (by simpa using ht) (by simpa using hlock) (by simpa using hf)]
    simp [setHeld]
  case upperHeld =>
    refine does_bar0Write h.1 (Nat.zero_le _) (resetsCtx_of_outside (by decide) _ _ _) hl ?_
    obtain ⟨-, hr, ht, hlock, hf⟩ := h
    rw [bar0WriteOp_upper (lo := 0x800000) _ rfl (by decide) (writeServed_of_ready hr _) (by decide) (by decide),
      dropHeld_upper hh rfl, regEffect_pf (by decide) (by decide)]
    rw [judgeReady_of_runs (by simpa [pfRegWrite, modLdr] using hr) (by simpa [pfRegWrite, modLdr] using ht)
      (by simpa [pfRegWrite, modLdr] using hlock) (by simpa [pfRegWrite, modLdr] using hf)]
    simp [pfRegWrite, modLdr, lowHalf, hh, setHeld]
  case upperAlone =>
    refine does_bar0Write h.1 (Nat.zero_le _) (resetsCtx_of_outside (by decide) _ _ _) hl ?_
    rw [bar0WriteOp_upper (lo := 0x800000) _ rfl (by decide) (writeServed_of_ready h.2.1 _) (by decide) (by decide),
      dropHeld_none _ hh, regEffect_pf (by decide) (by decide)]
    simp [pfRegWrite, modLdr, lowHalf, hh, bar0Word, ldrWord, half]
  case other =>
    refine does_pfWrite4 h hl (by decide) (by decide) (by decide) (by decide) (by decide) ?_
    obtain ⟨-, hr, ht, hlock, hf⟩ := h
    rw [judgeReady_of_runs (by simpa [pfRegWrite, ldrRegWrite, modLdr] using hr) (by simpa [pfRegWrite, ldrRegWrite, modLdr] using ht)
      (by simpa [pfRegWrite, ldrRegWrite, modLdr] using hlock) (by simpa [pfRegWrite, ldrRegWrite, modLdr] using hf)]
    simp [pfRegWrite, ldrRegWrite, modLdr, dropHeld_lost (off := 0x800008) hh (by decide)]
  case gate =>
    refine does_bar0Write hp hfn (by simp [resetsCtx, hr]) hl ?_
    rw [bar0WriteOp_unserved _ hok hr hc hc']
    obtain ⟨h, hq⟩ := dropHeld_eq s.pkg fn off
    rw [judgeReady_of_gate (by simpa using hr) (by simpa using hgate), hq, settle_heldLow]
    exact ⟨h, rfl⟩
  case cursor =>
    refine does_bar0Write hp (Nat.zero_le _) (resetsCtx_of_outside (by decide) _ _ _) hl ?_
    rw [bar0WriteOp_four _ (by decide) (by simp [writeServed, ht]) (by decide) (by decide), regEffect_pf (by decide) (by decide)]
    simp [pfRegWrite, scnRegWrite]
  case read =>
    have hserved : ∀ o, o / 0x100000 = off / 0x100000 → readServed p o = false := by
      intro o ho
      cases ht : p.glb.selfTestDone with
      | false => simp [readServed, ho, hb, ht]
      | true => simp [readServed, ho, hb, hr, hb' ht]
    unfold bar0Read
    dsimp only
    split
    · rfl
    · next hok =>
      obtain ⟨hsize, halign⟩ := accessOk_iff.mp (by simpa using hok)
      have hnext : size ≠ 4 → readServed p (off + 4) = false := fun h4 => hserved _ (by obtain rfl := hsize.resolve_left h4; omega)
      split
      · simp [hserved off rfl]
      · next h4 => simp [hserved off rfl, hnext h4]
  case hostRate =>
    refine does_pfWrite4 h (hl _) (by decide) (by decide) (by decide) (by decide) (by decide) ?_
    simp [pfRegWrite, kvpRegWrite, keepRange]
  case admitHold =>
    refine does_pfWrite4 h (hl _) (by decide) (by decide) (by decide) (by decide) (by decide) ?_
    simpa [pfRegWrite, reqRegWrite] using keepRange_holdTicks (old := s.pkg.rq.admitHold) (Nat.mod_lt v.toNat (by decide))
  case loadTimeout =>
    refine does_pfWrite4 h (hl _) (by decide) (by decide) (by decide) (by decide) (by decide) ?_
    simp [pfRegWrite, pkfRegWrite, keepRange, modFab]
  case sledCtrl =>
    refine does_pfWrite4 h (hl _) (by decide) (by decide) (by decide) (by decide) (by decide) ?_
    simpa [pfRegWrite, sledRegWrite, modNvw] using sledCtrlWrite_fields s.pkg.nvw.sledCtrl v.toNat

end Sys2Proof.Machine
end

section
/-! PROOFS. The invariant of a step (R46, R57, R61, R252): a command keeps it when it leaves the lock and NumVFs as they are and READY is
judged after it, or moves them as the invariant asks. -/

namespace Sys2Proof.Machine

/-- READY stands only with SELF_TEST_DONE, TICK_LOCKED and no firmware fault (R46). -/
def ReadyInv (p : Pkg) : Prop :=
  p.glb.ready = true → p.glb.selfTestDone = true ∧ p.tick.phaseLocked = true ∧ p.glb.fwFault = false

/-- The lock stands only on a REFCLK in range or with its loss due, and out of holdover (R57, R61); at most 63 virtual functions (R252). -/
def LockInv (p : Pkg) : Prop :=
  (p.tick.phaseLocked = true → (p.tick.refclkOk = true ∨ p.tick.lossDue = true) ∧ p.tick.holdover = false) ∧ p.numVfs ≤ 63

theorem stepInv_iff (s : State) : StepInv s ↔ ReadyInv s.pkg ∧ LockInv s.pkg := Iff.rfl

/-- What the invariant reads of the lock stands, and no virtual function has come. -/
structure LockKept (p q : Pkg) : Prop where
  phaseLocked : q.tick.phaseLocked = p.tick.phaseLocked
  refclkOk : q.tick.refclkOk = p.tick.refclkOk
  lossDue : q.tick.lossDue = p.tick.lossDue
  holdover : q.tick.holdover = p.tick.holdover
  numVfs : q.numVfs ≤ p.numVfs

/-- What the invariant reads of READY stands. -/
structure ReadyKept (p q : Pkg) : Prop where
  ready : q.glb.ready = p.glb.ready
  selfTestDone : q.glb.selfTestDone = p.glb.selfTestDone
  fwFault : q.glb.fwFault = p.glb.fwFault

theorem LockKept.lockInv {p q : Pkg} (k : LockKept p q) (h : LockInv p) : LockInv q := by
  obtain ⟨hlock, hvfs⟩ := h
  refine ⟨?_, k.numVfs.trans hvfs⟩
  rwa [k.phaseLocked, k.refclkOk, k.lossDue, k.holdover]

theorem ReadyKept.readyInv {p q : Pkg} (k : ReadyKept p q) (hl : q.tick.phaseLocked = p.tick.phaseLocked) (h : ReadyInv p) :
    ReadyInv q := by
  unfold ReadyInv
  rwa [k.ready, k.selfTestDone, k.fwFault, hl]

theorem LockKept.of_eq {p q : Pkg} (ht : q.tick = p.tick) (hn : q.numVfs = p.numVfs) : LockKept p q :=
  ⟨by rw [ht], by rw [ht], by rw [ht], by rw [ht], hn.le⟩

theorem LockKept.trans {p q r : Pkg} (h : LockKept p q) (k : LockKept q r) : LockKept p r :=
  ⟨k.phaseLocked.trans h.phaseLocked, k.refclkOk.trans h.refclkOk, k.lossDue.trans h.lossDue, k.holdover.trans h.holdover,
    k.numVfs.trans h.numVfs⟩

theorem lockKept_iff (p q : Pkg) : LockKept p q ↔ q.tick.phaseLocked = p.tick.phaseLocked ∧ q.tick.refclkOk = p.tick.refclkOk ∧
    q.tick.lossDue = p.tick.lossDue ∧ q.tick.holdover = p.tick.holdover ∧ q.numVfs ≤ p.numVfs :=
  ⟨fun ⟨h1, h2, h3, h4, h5⟩ => ⟨h1, h2, h3, h4, h5⟩, fun ⟨h1, h2, h3, h4, h5⟩ => ⟨h1, h2, h3, h4, h5⟩⟩

theorem readyKept_iff (p q : Pkg) : ReadyKept p q ↔
    q.glb.ready = p.glb.ready ∧ q.glb.selfTestDone = p.glb.selfTestDone ∧ q.glb.fwFault = p.glb.fwFault :=
  ⟨fun ⟨h1, h2, h3⟩ => ⟨h1, h2, h3⟩, fun ⟨h1, h2, h3⟩ => ⟨h1, h2, h3⟩⟩

/-- READY as R46 judges it meets the invariant, whatever it was. -/
theorem readyInv_judged (p0 p : Pkg) : ReadyInv (settle p0 (judgeReady p)) := by
  intro h
  rw [settle_glb, judgeReady_ready] at h
  simpa [and_assoc] using h

theorem lockInv_judged {p0 p : Pkg} (h : LockInv p) : LockInv (settle p0 (judgeReady p)) := by
  simpa [LockInv] using h

/-! #### A command that keeps the invariant -/

/-- Whenever the command answers a next state, the invariant holds of it. -/
def KeepsInv (c : Instr) (s : State) : Prop := StepInv s → ∀ t : State, exec c s = .next t → StepInv t

theorem keepsInv_of_act {c : Instr} {s : State} {ok : Bool} {f : Pkg → Pkg} (hc : exec c s = act ok f s)
    (hready : ok = true → ReadyInv s.pkg → ReadyInv (f s.pkg)) (hlock : ok = true → LockInv s.pkg → LockInv (f s.pkg)) :
    KeepsInv c s := by
  intro hs t ht
  rw [hc, act_eq] at ht
  cases ht
  rw [stepInv_iff] at hs ⊢
  cases ok with
  | false => exact hs
  | true => exact ⟨hready rfl hs.1, hlock rfl hs.2⟩

/-- Where READY is judged after the command, only the lock and NumVFs are left to keep. -/
theorem keepsInv_of_actS {c : Instr} {s : State} {ok : Bool} {f : Pkg → Pkg} (hc : exec c s = actS ok f s)
    (hlock : ok = true → LockInv s.pkg → LockInv (f s.pkg)) : KeepsInv c s :=
  keepsInv_of_act (f := fun p => settle p (judgeReady (f p))) hc (fun _ _ => readyInv_judged _ _) fun h hs => lockInv_judged (hlock h hs)

/-! #### Commands whose frame leaves the lock -/

/-- The command may change a part of the package (`mayChange`). -/
def touches (c : Instr) (x : Area) : Bool := decide (x ∈ mayChange c)

theorem not_mem_of_touches {c : Instr} {x : Area} (h : touches c x = false) : x ∉ mayChange c := of_decide_eq_false h

theorem frame_lockKept {c : Instr} {s t : State} (ht : touches c .tick = false) (hn : touches c .numVfs = false)
    (h : exec c s = .next t) : LockKept s.pkg t.pkg := by
  obtain ⟨-, hkeeps⟩ := framesOfCommands c s t h
  exact .of_eq (hkeeps .tick (not_mem_of_touches ht)) (hkeeps .numVfs (not_mem_of_touches hn))

/-- A command that leaves the tick, the GLB_ block and NumVFs as they are. -/
theorem keepsInv_of_frame {c : Instr} {s : State} (ht : touches c .tick = false) (hg : touches c .glb = false)
    (hn : touches c .numVfs = false) : KeepsInv c s := by
  intro hs t h
  have hlock := frame_lockKept ht hn h
  obtain ⟨-, hkeeps⟩ := framesOfCommands c s t h
  have hglb : t.pkg.glb = s.pkg.glb := hkeeps .glb (not_mem_of_touches hg)
  exact ⟨ReadyKept.readyInv ⟨by rw [hglb], by rw [hglb], by rw [hglb]⟩ hlock.phaseLocked hs.1, hlock.lockInv hs.2⟩

/-- A command after which READY is judged, and which leaves the tick and NumVFs as they are. -/
theorem keepsInv_of_judged {c : Instr} {s : State} {ok : Bool} {f : Pkg → Pkg} (hc : exec c s = actS ok f s)
    (ht : touches c .tick = false) (hn : touches c .numVfs = false) : KeepsInv c s := by
  intro hs t h
  have hlock := (frame_lockKept ht hn h).lockInv hs.2
  rw [hc, actS_eq] at h
  cases h
  refine ⟨?_, hlock⟩
  cases ok with
  | false => exact hs.1
  | true => exact readyInv_judged _ _

/-- A command that leaves the tick and NumVFs as they are, and READY with what it rests on. -/
theorem keepsInv_of_readyKept {c : Instr} {s : State} {ok : Bool} {f : Pkg → Pkg} (hc : exec c s = act ok f s)
    (ht : touches c .tick = false) (hn : touches c .numVfs = false) (hf : ReadyKept s.pkg (f s.pkg)) : KeepsInv c s := by
  intro hs t h
  have hlock := frame_lockKept ht hn h
  rw [hc, act_eq] at h
  cases h
  refine ⟨?_, hlock.lockInv hs.2⟩
  cases ok with
  | false => exact hs.1
  | true => exact hf.readyInv hlock.phaseLocked hs.1

/-! #### What writes the tick keeps the loss that is due (R61) -/

@[simp] theorem ite_lossDue (c : Prop) [Decidable c] (a b : TickS) :
    (if c then a else b).lossDue = if c then a.lossDue else b.lossDue := by
  split <;> rfl

@[simp] theorem loseAlign_lossDue (p : Pkg) (cause : Nat) : (loseAlign p cause).tick.lossDue = p.tick.lossDue := by
  simp [loseAlign]
@[simp] theorem gainAlign_lossDue (p : Pkg) : (gainAlign p).tick.lossDue = p.tick.lossDue := by
  simp [gainAlign]
@[simp] theorem steer_lossDue (p : Pkg) : (steer p).tick.lossDue = p.tick.lossDue := by
  simp [steer]
@[simp] theorem steerTick_lossDue (p : Pkg) : (steerTick p).tick.lossDue = p.tick.lossDue := by
  simp [steerTick]
@[simp] theorem countTick_lossDue (p : Pkg) : (countTick p).tick.lossDue = p.tick.lossDue := by
  simp [countTick]
@[simp] theorem tickStep_lossDue (p : Pkg) : (tickStep p).tick.lossDue = p.tick.lossDue := by
  simp [tickStep]
@[simp] theorem shiftPkg_lossDue (d : Int) (p : Pkg) : (shiftPkg d p).tick.lossDue = p.tick.lossDue := by
  simp [shiftPkg, shiftTick]
@[simp] theorem countLoadOp_lossDue (p : Pkg) : (countLoadOp p).tick.lossDue = p.tick.lossDue := by
  unfold countLoadOp
  dsimp only
  (repeat' split) <;> simp
@[simp] theorem timeExchangeOp_lossDue (p : Pkg) (up ns : Nat) : (timeExchangeOp p up ns).tick.lossDue = p.tick.lossDue := by
  unfold timeExchangeOp
  dsimp only
  (repeat' split) <;> simp
@[simp] theorem exchangeDone_lossDue (p : Pkg) (half : Int) : (exchangeDone p half).tick.lossDue = p.tick.lossDue := by
  simp [exchangeDone]
@[simp] theorem tickRegWrite_lossDue (p : Pkg) (o v : Nat) : (tickRegWrite p o v).tick.lossDue = p.tick.lossDue := by
  unfold tickRegWrite
  split <;> rfl
@[simp] theorem pfRegWrite_lossDue (p : Pkg) (fn off size v : Nat) : (pfRegWrite p fn off size v).tick.lossDue = p.tick.lossDue := by
  simp [pfRegWrite]
@[simp] theorem regEffect_lossDue (p : Pkg) (fn off size v : Nat) : (regEffect p fn off size v).tick.lossDue = p.tick.lossDue := by
  simp [regEffect]
@[simp] theorem takeValue_lossDue (p : Pkg) (fn off size v : Nat) (gone : List Nat) :
    (takeValue p fn off size v gone).tick.lossDue = p.tick.lossDue := by
  simp [takeValue]
@[simp] theorem write4_lossDue (p : Pkg) (fn off size v : Nat) (gone : List Nat) :
    (write4 p fn off size v gone).tick.lossDue = p.tick.lossDue := by
  simp [write4]
@[simp] theorem bar0WriteOp_lossDue (p : Pkg) (fn off size v : Nat) (gone : List Nat) :
    (bar0WriteOp p fn off size v gone).tick.lossDue = p.tick.lossDue := by
  simp [bar0WriteOp]
@[simp] theorem planEffect_lossDue (p : Pkg) (x : Plan) : (planEffect p x).tick.lossDue = p.tick.lossDue := by
  unfold planEffect
  dsimp only
  refine (forAll_keep (fun q => q.tick.lossDue) _ _ _ fun q n => ?_).trans (by simp)
  (repeat' split) <;> simp
@[simp] theorem warmResetOp_lossDue (p : Pkg) (trigger : Nat) : (warmResetOp p trigger).tick.lossDue = p.tick.lossDue := by
  simp [warmResetOp]
@[simp] theorem warmResetOp_numVfs (p : Pkg) (trigger : Nat) : (warmResetOp p trigger).numVfs = 0 := by
  simp [warmResetOp]

/-! #### The managers' commands -/

theorem opAct_lockKept (p : Pkg) (c : PendCmd) : LockKept p (opAct p c) := by
  unfold opAct
  dsimp only
  (repeat' split) <;> simp [lockKept_iff]

theorem opTake_lockKept (p : Pkg) (c : PendCmd) : LockKept p (opTake p c) := by
  unfold opTake
  dsimp only
  split
  · split
    · exact opAct_lockKept p c
    · simp [lockKept_iff]
  · split
    · simp [lockKept_iff, setCountDo]
    · split
      · simp [lockKept_iff]
      · split
        · exact LockKept.trans (by simp [lockKept_iff]) (opAct_lockKept _ c)
        · simp [lockKept_iff]

theorem mgtTaken_lockKept (p : Pkg) (path : Path) (msg : Bytes) : LockKept p (mgtTaken p path msg opTake) := by
  unfold mgtTaken
  dsimp only
  split
  case h_4 => exact LockKept.trans (by simp [lockKept_iff]) (opTake_lockKept _ _)
  all_goals simp [lockKept_iff]

theorem mgtCommand_lockKept (op : Nat) (path : Path) (msg : Bytes) (p : Pkg) : LockKept p (mgtCommand op path msg p) := by
  unfold mgtCommand
  split
  · exact mgtTaken_lockKept p path msg
  · exact .of_eq rfl rfl

theorem namedAct_lockKept (p : Pkg) (c : PendCmd) : LockKept p (namedAct p c) :=
  LockKept.trans (by simp [lockKept_iff]) (opAct_lockKept _ c)

/-- The marks of the resets foreseen are no part of the lock (R431). -/
theorem overridden_lockKept {s : State} {f : Pkg → Pkg} (h : ∀ p, LockKept p (f p)) : LockKept s.pkg (overridden s f) := by
  simpa [lockKept_iff] using h (foreseen s)

theorem underResets_lockKept {s : State} {op : Nat} {f : Pkg → Pkg} (h : ∀ p, LockKept p (f p)) :
    LockKept s.pkg (underResets s op f) := by
  unfold underResets
  split
  · simpa [lockKept_iff] using h (coldForeseen s)
  · split
    · exact overridden_lockKept h
    · exact h s.pkg

/-- A manager's message that is judged as it comes. -/
theorem keepsInv_of_mgtCommand {c : Instr} {s : State} {ok : Bool} {op : Nat} {path : Path} {msg : Bytes}
    (hc : exec c s = actS ok (mgtCommand op path msg) s) : KeepsInv c s :=
  keepsInv_of_actS hc fun _ => (mgtCommand_lockKept op path msg s.pkg).lockInv

/-- One that is judged under the larger resets of its tick. -/
theorem keepsInv_of_underResets {c : Instr} {s : State} {ok : Bool} {op : Nat} {path : Path} {msg : Bytes}
    (hc : exec c s = actS ok (fun _ => underResets s op (mgtCommand op path msg)) s) : KeepsInv c s :=
  keepsInv_of_actS hc fun _ => (underResets_lockKept (mgtCommand_lockKept op path msg)).lockInv

theorem namedTickAction_keepsInv (op : Nat) (s : State) : KeepsInv (.namedTickAction op) s := by
  refine keepsInv_of_actS ((exec_namedTickAction op s).trans rfl) fun _ h => ?_
  split
  · next c _ => exact (underResets_lockKept fun q => namedAct_lockKept q c).lockInv h
  · exact h

theorem i3cPrivateWrite_keepsInv (msg : Bytes) (s : State) : KeepsInv (.i3cPrivateWrite msg) s :=
  keepsInv_of_actS ((exec_i3cPrivateWrite msg s).trans rfl) fun _ =>
    (underResets_lockKept fun q => mgtTaken_lockKept q .i3c msg).lockInv

/-! #### Resets -/

@[simp] theorem coldBase_fresh (p : Pkg) : (coldBase p).tick = {} ∧ (coldBase p).glb = {} ∧ (coldBase p).numVfs = 0 := by
  simp [coldBase]

/-- After a cold reset nothing stands that the invariant asks for. -/
theorem inv_of_fresh {q : Pkg} (ht : q.tick = {}) (hg : q.glb = {}) (hn : q.numVfs = 0) : ReadyInv q ∧ LockInv q := by
  simp [ReadyInv, LockInv, ht, hg, hn]

theorem keepsInv_of_cold {c : Instr} {s : State} {ok : Bool} {f : Pkg → Pkg} (hc : exec c s = act ok f s)
    (ht : (f s.pkg).tick = {}) (hg : (f s.pkg).glb = {}) (hn : (f s.pkg).numVfs = 0) : KeepsInv c s :=
  keepsInv_of_act hc (fun _ _ => (inv_of_fresh ht hg hn).1) fun _ _ => (inv_of_fresh ht hg hn).2

theorem vin6Lockout_keepsInv (s : State) : KeepsInv .vin6Lockout s :=
  keepsInv_of_cold ((exec_vin6Lockout s).trans rfl) (by simp [pinCold]) (by simp [pinCold]) (by simp [pinCold])

theorem auxRailFault_keepsInv (s : State) : KeepsInv .auxRailFault s :=
  keepsInv_of_cold ((exec_auxRailFault s).trans rfl) (by simp [pinCold]) (by simp [pinCold]) (by simp [pinCold])

theorem resetNAssert_keepsInv (s : State) : KeepsInv .resetNAssert s := by
  by_cases h : heedsPins s.pkg = true
  · exact keepsInv_of_cold ((exec_resetNAssert s).trans rfl) (by simp [pinCold, h]) (by simp [pinCold, h]) (by simp [pinCold, h])
  · refine keepsInv_of_act ((exec_resetNAssert s).trans rfl) (fun _ hs => ?_) fun _ hs => ?_ <;> exact (if_neg h).symm ▸ hs

theorem perstAssert_keepsInv (s : State) : KeepsInv .perstAssert s := by
  refine keepsInv_of_actS ((exec_perstAssert s).trans rfl) fun _ => LockKept.lockInv ?_
  dsimp only
  split
  · simp [lockKept_iff]
  · exact .of_eq rfl rfl

/-! #### The lock of the tick -/

theorem refclkOkSet_keepsInv (s : State) : KeepsInv .refclkOkSet s := by
  refine keepsInv_of_act ((exec_refclkOkSet s).trans rfl) (fun _ => id) fun _ ⟨hlock, hvfs⟩ => ⟨fun hp => ?_, hvfs⟩
  exact ⟨.inl rfl, (hlock hp).2⟩

theorem refclkOutOfRange_keepsInv (s : State) : KeepsInv .refclkOutOfRange s := by
  refine keepsInv_of_act ((exec_refclkOutOfRange s).trans rfl) (fun _ => id) fun _ ⟨hlock, hvfs⟩ => ⟨fun hp => ?_, hvfs⟩
  have hp' : s.pkg.tick.phaseLocked = true := hp
  exact ⟨.inr (by simp [hp']), (hlock hp).2⟩

theorem tickPhaseLock_keepsInv (s : State) : KeepsInv .tickPhaseLock s := by
  refine keepsInv_of_actS ((exec_tickPhaseLock s).trans rfl) fun hok ⟨_, hvfs⟩ => ⟨fun _ => ?_, hvfs⟩
  simp only [Bool.and_eq_true, Bool.not_eq_true'] at hok
  obtain ⟨⟨⟨-, hrefclk⟩, -⟩, hholdover⟩ := hok
  exact ⟨.inl hrefclk, hholdover⟩

theorem refclkRelock_keepsInv (s : State) : KeepsInv .refclkRelock s := by
  refine keepsInv_of_actS ((exec_refclkRelock s).trans rfl) fun hok ⟨_, hvfs⟩ => ⟨fun _ => ⟨.inl ?_, rfl⟩, hvfs⟩
  simp only [Bool.and_eq_true] at hok
  exact hok.2

/-- A declared loss ends the lock. -/
theorem refclkLostOp_phaseLocked (p : Pkg) (cause : Nat) : (refclkLostOp p cause).tick.phaseLocked = false := by
  simp [refclkLostOp]

theorem refclkLost_keepsInv (cause : Nat) (s : State) : KeepsInv (.refclkLost cause) s := by
  refine keepsInv_of_actS ((exec_refclkLost cause s).trans rfl) fun _ ⟨_, hvfs⟩ => ⟨fun hp => ?_, ?_⟩
  · rw [refclkLostOp_phaseLocked] at hp
    cases hp
  · simpa [refclkLostOp] using hvfs

theorem bar0Write_keepsInv (fn off size : Nat) (v : Word64) (s : State) : KeepsInv (.bar0Write fn off size v) s := by
  have hwrite : ∀ p, LockKept p (bar0WriteOp p fn off size v.toNat (goneAt fn off size s)) := fun p => by simp [lockKept_iff]
  refine keepsInv_of_actS ((exec_bar0Write fn off size v s).trans rfl) fun _ => LockKept.lockInv ?_
  dsimp only
  split
  · exact overridden_lockKept hwrite
  · exact hwrite s.pkg

theorem planTakesEffect_keepsInv (s : State) : KeepsInv .planTakesEffect s := by
  refine keepsInv_of_actS ((exec_planTakesEffect s).trans rfl) fun _ => LockKept.lockInv ?_
  split
  · simp [lockKept_iff]
  · exact .of_eq rfl rfl

theorem tickBoundary_keepsInv (s : State) : KeepsInv .tickBoundary s := by
  by_cases h : (powered s.pkg && (s.pkg.tick.phaseLocked || s.pkg.tick.holdover)) = true
  · refine keepsInv_of_actS (ok := true) (by rw [exec_tickBoundary, execTickBoundary, if_pos h]) fun _ => LockKept.lockInv ?_
    simp [lockKept_iff]
  · exact keepsInv_of_act (by rw [exec_tickBoundary, execTickBoundary, if_neg h]) (fun _ => id) fun _ => id

/-- A command that keeps what the invariant reads. -/
theorem keepsInv_of_kept {c : Instr} {s : State} {ok : Bool} {f : Pkg → Pkg} (hc : exec c s = act ok f s)
    (hlock : LockKept s.pkg (f s.pkg)) (hready : ReadyKept s.pkg (f s.pkg)) : KeepsInv c s :=
  keepsInv_of_act hc (fun _ => hready.readyInv hlock.phaseLocked) fun _ => hlock.lockInv

theorem tickSyncEdge_keepsInv (s : State) : KeepsInv .tickSyncEdge s :=
  keepsInv_of_kept ((exec_tickSyncEdge s).trans rfl) (by simp [lockKept_iff]) (by simp [readyKept_iff])

theorem tickSyncMiss_keepsInv (s : State) : KeepsInv .tickSyncMiss s :=
  keepsInv_of_kept ((exec_tickSyncMiss s).trans rfl) (by simp [lockKept_iff]) (by simp [readyKept_iff])

theorem tickSyncPhaseErr_keepsInv (s : State) : KeepsInv .tickSyncPhaseErr s :=
  keepsInv_of_kept ((exec_tickSyncPhaseErr s).trans rfl) (by simp [lockKept_iff]) (by simp [readyKept_iff])

theorem countLoad_keepsInv (s : State) : KeepsInv .countLoad s :=
  keepsInv_of_kept ((exec_countLoad s).trans rfl) (by simp [lockKept_iff]) (by simp [readyKept_iff])

theorem timeExchange_keepsInv (ns : Nat) (s : State) : KeepsInv (.timeExchange ns) s :=
  keepsInv_of_kept ((exec_timeExchange ns s).trans rfl) (by (repeat' split) <;> simp [lockKept_iff])
    (by (repeat' split) <;> simp [readyKept_iff])

theorem timeResponse_keepsInv (port : Nat) (rec : Bytes) (arrive : Arrival) (s : State) : KeepsInv (.timeResponse port rec arrive) s :=
  keepsInv_of_kept ((exec_timeResponse port rec arrive s).trans rfl) (by (repeat' split) <;> simp [lockKept_iff])
    (by (repeat' split) <;> simp [readyKept_iff])

theorem tickCtrlWrite_keepsInv (fn : Nat) (value : Word32) (s : State) : KeepsInv (.tickCtrlWrite fn value) s :=
  keepsInv_of_kept ((exec_tickCtrlWrite fn value s).trans rfl) (by simp [lockKept_iff, pfWrite, regWrite])
    (by simp [readyKept_iff, pfWrite, regWrite])

/-- NumVFs is taken up to 63 alone (R252). -/
theorem vfEnableClear_keepsInv (n : Nat) (s : State) : KeepsInv (.vfEnableClear n) s := by
  refine keepsInv_of_act ((exec_vfEnableClear n s).trans rfl) (fun _ => ReadyKept.readyInv ?_ ?_) fun hok ⟨hlock, _⟩ => ⟨?_, ?_⟩
  · simp [readyKept_iff]
  · simp
  · simpa using hlock
  · simp only [Bool.and_eq_true, decide_eq_true_eq] at hok
    simpa [setNumVfs] using hok.2

theorem dramUncorrectable_keepsInv (stack pen : Nat) (loc : DramLoc) (s : State) : KeepsInv (.dramUncorrectable stack pen loc) s := by
  cases loc
  case corrected lines =>
    exact keepsInv_of_readyKept (by rw [exec_dramUncorrectable, execDramUncorrectable]) rfl rfl (by simp [readyKept_iff])
  all_goals exact keepsInv_of_judged ((exec_dramUncorrectable stack pen _ s).trans rfl) rfl rfl

/-- Every command keeps the invariant: each that moves the lock, READY or NumVFs on its own account, and any other by its frame. -/
theorem exec_keepsInv (c : Instr) (s : State) : KeepsInv c s := by
  cases c with
  | vin6Lockout => exact vin6Lockout_keepsInv s
  | auxRailFault => exact auxRailFault_keepsInv s
  | resetNAssert => exact resetNAssert_keepsInv s
  | perstAssert => exact perstAssert_keepsInv s
  | refclkOkSet => exact refclkOkSet_keepsInv s
  | refclkOutOfRange => exact refclkOutOfRange_keepsInv s
  | tickPhaseLock => exact tickPhaseLock_keepsInv s
  | refclkLost cause => exact refclkLost_keepsInv cause s
  | refclkRelock => exact refclkRelock_keepsInv s
  | tickSyncEdge => exact tickSyncEdge_keepsInv s
  | tickSyncMiss => exact tickSyncMiss_keepsInv s
  | tickSyncPhaseErr => exact tickSyncPhaseErr_keepsInv s
  | countLoad => exact countLoad_keepsInv s
  | timeExchange ns => exact timeExchange_keepsInv ns s
  | timeResponse port rec arrive => exact timeResponse_keepsInv port rec arrive s
  | tickCtrlWrite fn value => exact tickCtrlWrite_keepsInv fn value s
  | bar0Write fn off size value => exact bar0Write_keepsInv fn off size value s
  | planTakesEffect => exact planTakesEffect_keepsInv s
  | tickBoundary => exact tickBoundary_keepsInv s
  | vfEnableClear n => exact vfEnableClear_keepsInv n s
  | namedTickAction op => exact namedTickAction_keepsInv op s
  | i3cPrivateWrite msg => exact i3cPrivateWrite_keepsInv msg s
  -- The managers' messages.
  | quarantine path msg | penReset path msg | warmReset path msg => exact keepsInv_of_underResets rfl
  | lease path msg | release path msg | epoch path msg | setCount path msg | cap path msg | planWrite path msg | planCommit path msg
  | readmit path msg | fenceGroup path msg | groupWrite path msg | resumeGroup path msg | memberLost path msg | imprintAuth path msg
  | clearAuth path msg | logClear path msg | arrayRelease path msg | portReeval path msg | inspect path msg | status path msg =>
    exact keepsInv_of_mgtCommand rfl
  -- Commands after which READY is judged, and which leave the tick and NumVFs.
  | selfTestDone failed => exact keepsInv_of_judged ((exec_selfTestDone failed s).trans rfl) rfl rfl
  | engineFault kind index => exact keepsInv_of_judged ((exec_engineFault kind index s).trans rfl) rfl rfl
  | bind fn pen => exact keepsInv_of_judged ((exec_bind fn pen s).trans rfl) rfl rfl
  | unbind fn pen => exact keepsInv_of_judged ((exec_unbind fn pen s).trans rfl) rfl rfl
  | bindComplete image placed => exact keepsInv_of_judged ((exec_bindComplete image placed s).trans rfl) rfl rfl
  | unbindComplete => exact keepsInv_of_judged ((exec_unbindComplete s).trans rfl) rfl rfl
  | imprintRetire ctx => exact keepsInv_of_judged ((exec_imprintRetire ctx s).trans rfl) rfl rfl
  | imprintWriteDone stack payload => exact keepsInv_of_judged ((exec_imprintWriteDone stack payload s).trans rfl) rfl rfl
  | nvVerifyStart => exact keepsInv_of_judged ((exec_nvVerifyStart s).trans rfl) rfl rfl
  | nvSlotVerifyDone slot readable => exact keepsInv_of_judged ((exec_nvSlotVerifyDone slot readable s).trans rfl) rfl rfl
  | nvUncorrectable slot off reads => exact keepsInv_of_judged ((exec_nvUncorrectable slot off reads s).trans rfl) rfl rfl
  | nvBlockFetchDone replica data => exact keepsInv_of_judged ((exec_nvBlockFetchDone replica data s).trans rfl) rfl rfl
  | nvStackFailed stack => exact keepsInv_of_judged ((exec_nvStackFailed stack s).trans rfl) rfl rfl
  | nvRepairStart slot => exact keepsInv_of_judged ((exec_nvRepairStart slot s).trans rfl) rfl rfl
  | nvRepairDone slot data => exact keepsInv_of_judged ((exec_nvRepairDone slot data s).trans rfl) rfl rfl
  | beatRateCheck samples => exact keepsInv_of_judged ((exec_beatRateCheck samples s).trans rfl) rfl rfl
  | arrayWatchdog array => exact keepsInv_of_judged ((exec_arrayWatchdog array s).trans rfl) rfl rfl
  | sramUncorrectable array => exact keepsInv_of_judged ((exec_sramUncorrectable array s).trans rfl) rfl rfl
  | dramStackFailed stack cause => exact keepsInv_of_judged ((exec_dramStackFailed stack cause s).trans rfl) rfl rfl
  | arraySelftestDone array pass ticks => exact keepsInv_of_judged ((exec_arraySelftestDone array pass ticks s).trans rfl) rfl rfl
  | fwFault core code => exact keepsInv_of_judged ((exec_fwFault core code s).trans rfl) rfl rfl
  | houndFault ctx core kind code pc tval => exact keepsInv_of_judged ((exec_houndFault ctx core kind code pc tval s).trans rfl) rfl rfl
  | leaseExpired => exact keepsInv_of_judged ((exec_leaseExpired s).trans rfl) rfl rfl
  -- Commands that write the GLB_ block, but nothing that READY rests on.
  | powerUp => exact keepsInv_of_readyKept ((exec_powerUp s).trans rfl) rfl rfl (by simp [readyKept_iff])
  | resetNRelease => exact keepsInv_of_readyKept ((exec_resetNRelease s).trans rfl) rfl rfl (by simp [readyKept_iff])
  | perstRelease => exact keepsInv_of_readyKept ((exec_perstRelease s).trans rfl) rfl rfl (by simp [readyKept_iff])
  | bar0AccessInvalid fn off size => exact keepsInv_of_readyKept ((exec_bar0AccessInvalid fn off size s).trans rfl) rfl rfl (by simp [readyKept_iff])
  | scnClearCmd fn => exact keepsInv_of_readyKept ((exec_scnClearCmd fn s).trans rfl) rfl rfl (by simp [readyKept_iff])
  | scnCtrlWrite fn value => exact keepsInv_of_readyKept ((exec_scnCtrlWrite fn value s).trans rfl) rfl rfl (by simp [readyKept_iff])
  | penEnable fn pen value => exact keepsInv_of_readyKept ((exec_penEnable fn pen value s).trans rfl) rfl rfl (by simp [readyKept_iff])
  | penDisable fn pen value => exact keepsInv_of_readyKept ((exec_penDisable fn pen value s).trans rfl) rfl rfl (by simp [readyKept_iff])
  | penBudgetWrite fn pen off value =>
    exact keepsInv_of_readyKept ((exec_penBudgetWrite fn pen off value s).trans rfl) rfl rfl (by simp [readyKept_iff])
  | dramUncorrectable stack pen loc => exact dramUncorrectable_keepsInv stack pen loc s
  | replicaKindWrite fn idx kind => exact keepsInv_of_readyKept ((exec_replicaKindWrite fn idx kind s).trans rfl) rfl rfl (by simp [readyKept_iff])
  | ctxEnable fn ctx value => exact keepsInv_of_readyKept ((exec_ctxEnable fn ctx value s).trans rfl) rfl rfl (by simp [readyKept_iff])
  | ctxDisable fn ctx value => exact keepsInv_of_readyKept ((exec_ctxDisable fn ctx value s).trans rfl) rfl rfl (by simp [readyKept_iff])
  | ctxCmdReset fn ctx => exact keepsInv_of_readyKept ((exec_ctxCmdReset fn ctx s).trans rfl) rfl rfl (by simp [readyKept_iff])
  | hostLinkDown ltssm => exact keepsInv_of_readyKept ((exec_hostLinkDown ltssm s).trans rfl) rfl rfl (by simp [readyKept_iff])
  | portEnable fn port value => exact keepsInv_of_readyKept ((exec_portEnable fn port value s).trans rfl) rfl rfl (by simp [readyKept_iff])
  | pkfProbeGo fn value => exact keepsInv_of_readyKept ((exec_pkfProbeGo fn value s).trans rfl) rfl rfl (by simp [readyKept_iff])
  | pkfRrcInvalidate fn value => exact keepsInv_of_readyKept ((exec_pkfRrcInvalidate fn value s).trans rfl) rfl rfl (by simp [readyKept_iff])
  | lshCapNextCommit fn => exact keepsInv_of_readyKept ((exec_lshCapNextCommit fn s).trans rfl) rfl rfl (by simp [readyKept_iff])
  | houndBind fn ctx => exact keepsInv_of_readyKept ((exec_houndBind fn ctx s).trans rfl) rfl rfl (by simp [readyKept_iff])
  | houndUnbind fn ctx => exact keepsInv_of_readyKept ((exec_houndUnbind fn ctx s).trans rfl) rfl rfl (by simp [readyKept_iff])
  -- Commands that write neither the tick nor the GLB_ block nor NumVFs.
  | _ => exact keepsInv_of_frame rfl rfl rfl

/-- Settles O5: the front command of the queue keeps the invariant. -/
theorem stepKeepsInv : Obligations.StepKeepsInv := by
  intro s t hs hstep
  obtain ⟨pkg, pending⟩ := s
  cases pending with
  | nil =>
    rw [step_of_empty rfl] at hstep
    cases hstep
    exact hs
  | cons c rest => exact exec_keepsInv c ⟨pkg, rest⟩ hs t hstep

end Sys2Proof.Machine
end

section
/-! PROOFS. What reset leaves (R431, R432), and that a sparse table in canonical form is its readings. -/

namespace Sys2Proof.Machine

/-! #### Tables in canonical form -/

theorem tget_head {α : Type} (d : α) (k : Nat) (v : α) (t : Tab α) : tget d ((k, v) :: t) k = v := by simp [tget]

theorem tget_tail {α : Type} (d : α) {k j : Nat} (h : j ≠ k) (v : α) (t : Tab α) : tget d ((k, v) :: t) j = tget d t j := by
  simp [tget, h]

section Tables

variable {α : Type} [DecidableEq α] {d : α}

/-- The first entry of a table in canonical form reads as no unlisted key does, and every listed key after it is above it. -/
theorem twfFrom_cons {lo k : Nat} {v : α} {t : Tab α} :
    twfFrom d lo ((k, v) :: t) = true ↔ lo ≤ k ∧ v ≠ d ∧ twfFrom d (k + 1) t = true := by
  simp [twfFrom, and_assoc]

/-- Where two such tables read alike, neither begins below the other. -/
theorem twfFrom_head_le {lo lo' k k' : Nat} {v v' : α} {t u : Tab α} (ht : twfFrom d lo ((k, v) :: t) = true)
    (hu : twfFrom d lo' ((k', v') :: u) = true) (h : ∀ j, tget d ((k, v) :: t) j = tget d ((k', v') :: u) j) : k' ≤ k := by
  obtain ⟨-, hv, -⟩ := twfFrom_cons.mp ht
  obtain ⟨-, hv', hu'⟩ := twfFrom_cons.mp hu
  by_contra hlt
  have hread := h k
  rw [tget_head, twfFrom_tget d ((k', v') :: u) k' k (twfFrom_cons.mpr ⟨le_rfl, hv', hu'⟩) (by omega)] at hread
  exact hv hread

/-- Tables in canonical form that read equal at every key are equal. -/
theorem twfFrom_ext {t u : Tab α} {lo : Nat} (ht : twfFrom d lo t = true) (hu : twfFrom d lo u = true)
    (h : ∀ k, tget d t k = tget d u k) : t = u := by
  induction t generalizing u lo with
  | nil =>
    cases u with
    | nil => rfl
    | cons e u =>
      obtain ⟨-, hv, -⟩ := twfFrom_cons.mp hu
      exact absurd ((tget_head d e.1 e.2 u).symm.trans (h e.1).symm) hv
  | cons e t ih =>
    obtain ⟨k, v⟩ := e
    cases u with
    | nil =>
      obtain ⟨-, hv, -⟩ := twfFrom_cons.mp ht
      exact absurd ((tget_head d k v t).symm.trans (h k)) hv
    | cons e' u =>
      obtain ⟨k', v'⟩ := e'
      obtain rfl : k = k' := le_antisymm (twfFrom_head_le hu ht fun j => (h j).symm) (twfFrom_head_le ht hu h)
      obtain rfl : v = v' := by simpa [tget_head] using h k
      obtain ⟨-, -, ht'⟩ := twfFrom_cons.mp ht
      obtain ⟨-, -, hu'⟩ := twfFrom_cons.mp hu
      rw [ih ht' hu' fun j => ?_]
      by_cases hj : j = k
      · rw [hj, twfFrom_tget d t (k + 1) k ht' (by omega), twfFrom_tget d u (k + 1) k hu' (by omega)]
      · simpa [tget_tail d hj] using h j

theorem twf_ext {t u : Tab α} (ht : twf d t = true) (hu : twf d u = true) (h : ∀ k, tget d t k = tget d u k) : t = u :=
  twfFrom_ext ht hu h

end Tables

/-! #### The package after its first power-up -/

theorem reset_inv : StepInv State.reset := by
  rw [stepInv_iff]
  exact inv_of_fresh rfl rfl rfl

/-- Settles O3: every part of the package that reset leaves empty reads as its default. -/
theorem resetState : Obligations.ResetState := by
  refine ⟨⟨rfl, ?values⟩, reset_inv, rfl, fun _ _ => twf_ext, fun _ _ => twf_ext, fun _ _ => twf_ext⟩
  exact ⟨rfl, rfl, rfl, rfl, rfl, fun _ => ⟨rfl, rfl⟩, fun _ => ⟨rfl, rfl, rfl⟩, fun _ => rfl, rfl, rfl, rfl, rfl, rfl, rfl⟩

end Sys2Proof.Machine
end

section
/-! PROOFS. The lock of the tick: REFCLK, TICK_SYNC, a declared loss and the relock (R46, R57, R58, R61). -/

namespace Sys2Proof.Machine

/-- READY and the tick after a command that moves the tick alone. -/
theorem judged_tick (p : Pkg) (t : TickS) : (settle p (judgeReady { p with tick := t })).tick = t ∧
    (settle p (judgeReady { p with tick := t })).glb.ready = (p.glb.selfTestDone && t.phaseLocked && !p.glb.fwFault) := by
  simp [judgeReady_ready]

/-- What a loss of the alignment leaves of the tick. -/
theorem loseAlign_tick (p : Pkg) (cause : Nat) : ∃ b, (loseAlign p cause).tick = { p.tick with rackAligned := false, alignSticky := b } := by
  unfold loseAlign
  split
  · exact ⟨true, by simp⟩
  · next h => exact ⟨p.tick.alignSticky, by rw [← Bool.eq_false_iff.mpr h]⟩

/-- The tick after a declared loss (R61): out of the lock, in holdover, and the count goes on. -/
theorem refclkLostOp_tick (p : Pkg) (cause : Nat) : ∃ b, (refclkLostOp p cause).tick =
    { p.tick with refclkOk := false, phaseLocked := false, countSet := false, holdover := true, refLostSticky := true, lossDue := false
                  rackAligned := false, alignSticky := b } := by
  obtain ⟨b, hb⟩ := loseAlign_tick { p with
    tick := { p.tick with refclkOk := false, phaseLocked := false, countSet := false, holdover := true, refLostSticky := true, lossDue := false }
    mgt := { p.mgt with stale := true } } 2
  exact ⟨b, by simp [refclkLostOp, hb]⟩

theorem refclkLostOp_stale (p : Pkg) (cause : Nat) : (refclkLostOp p cause).mgt.stale = true := by
  simp [refclkLostOp]

/-- Holdover holds ALERT_N low (R477). -/
theorem judgeAlert_of_holdover {p : Pkg} (h : p.tick.holdover = true) : (judgeAlert p).pins.alertN = false := by
  have hdue : alertDue p = true := by simp [alertDue, h]
  unfold judgeAlert
  simp only [hdue]
  split <;> simp [modPins, send]

theorem refclkLostOp_alert (p : Pkg) (cause : Nat) : (refclkLostOp p cause).pins.alertN = false := by
  unfold refclkLostOp
  exact judgeAlert_of_holdover (by simp)

/-- Settles O9: each command by the one field of the tick that it moves, and a declared loss by what it leaves of the tick. -/
theorem tickLockCommands : Obligations.TickLockCommands := by
  refine ⟨⟨fun s hp hr => ?okSet, fun s hp hr hl hh => ?phaseLock, fun s hl hedge => ?edge, fun s hl hc => ?miss, fun s hl hm => ?phaseErr⟩,
    fun s cause hl => ?lost, fun s hp hl => ?outOfRange, fun s hh hr => ?relock⟩
  case okSet => rw [exec_refclkOkSet, execRefclkOkSet, act_next (by simp [hp, hr])]
  case phaseLock =>
    refine does_of_actS ((exec_tickPhaseLock s).trans rfl) (by simp [hp, hr, hl, hh]) ?_
    simpa using judged_tick s.pkg { s.pkg.tick with count := 0, phaseLocked := true, syncLast := 0 }
  case edge =>
    rw [exec_tickSyncEdge, execTickSyncEdge, act_next (by simpa [hl] using hedge)]
    rfl
  case miss =>
    refine does_of_act ((exec_tickSyncMiss s).trans rfl) (by simp [hl, hc]) ?_
    dsimp only
    split <;> simp
  case phaseErr =>
    refine does_of_act ((exec_tickSyncPhaseErr s).trans rfl) (by simp [hl, hm]) ?_
    dsimp only
    split <;> simp
  case lost =>
    refine does_of_actS ((exec_refclkLost cause s).trans rfl) hl ?_
    obtain ⟨b, htick⟩ := refclkLostOp_tick s.pkg cause
    simp [judgeReady_ready, htick, refclkLostOp_stale, refclkLostOp_alert]
  case outOfRange =>
    rw [exec_refclkOutOfRange, execRefclkOutOfRange, act_next hp]
    simp [hl]
  case relock =>
    refine does_of_actS ((exec_refclkRelock s).trans rfl) (by simp [hh, hr]) ?_
    simpa [now] using judged_tick s.pkg { s.pkg.tick with phaseLocked := true, holdover := false, syncLast := s.pkg.tick.count }

end Sys2Proof.Machine
end

section
/-! PROOFS. The record of an access that R39 does not allow: where SCN_SEQ_LAST stands past the next number to assign, the record is stored
and the newest slot stays (R437, R450), so that the slot it names holds another record, or none. -/

namespace Sys2Proof.Machine

/-- A command that can arise answers what its operation gives, and nothing else. -/
theorem post_of_does {c : Instr} {s : State} {ok : Bool} {f : Pkg → Pkg} {post : Pkg → Prop} (hc : exec c s = act ok f s) (h : ok = true)
    (hd : Does c s post) : post (f s.pkg) := by
  obtain ⟨q, hq, hp⟩ := hd
  rw [hc, act_next h] at hq
  cases hq
  exact hp

/-- A package that runs, with an empty log whose SCN_SEQ_LAST is one past the number of the next record. -/
def seqLastAhead : State := { pkg := { pins := { resetN := true }, scn := { seqLast := 2 } } }

/-- The record of a read of 4 bytes at offset 1 has number 1, and goes to slot 0; the newest slot stays the last one. -/
theorem seqLastAhead_record : (invalidAccess seqLastAhead.pkg 0 1 4).scn =
    { nextSeq := 2, seqLast := 2, storedInTick := 1, slots := [(0, { seq := 1, code := codeBarAccessInvalid, p1 := 1, p2 := 4 })] } := by
  have hseverity : severity codeBarAccessInvalid = 2 := by decide
  simp [seqLastAhead, invalidAccess, log, logRec, newRec, commitRec, storeRec, emptySlot, firstGap, seqNext, putRec, recAge, logIrq,
    hseverity, tset, tins]

/-- Refutes O11: the statement does not ask that SCN_SEQ_LAST lie behind the next number to assign. Where it does not, the record is stored, but
the newest slot does not hold it. -/
theorem not_bar0AccessRules : ¬ Obligations.Bar0AccessRules := by
  rintro ⟨-, -, -, hrecord, -⟩
  obtain ⟨-, -, -, ⟨hseq, -⟩, -⟩ := post_of_does ((exec_bar0AccessInvalid 0 1 4 seqLastAhead).trans rfl) (by decide)
    (hrecord seqLastAhead 0 1 4 rfl (Nat.le_refl 0) rfl nofun rfl rfl (by decide) (by decide))
  rw [seqLastAhead_record] at hseq
  exact absurd hseq (by decide)

end Sys2Proof.Machine
end

section
/-! PROOFS. The write of a virtual function outside the blocks of its contexts (R253, R257, R416). -/

namespace Sys2Proof.Machine

/-- Two packages are the same but for the halves that wait (R40). -/
def HeldOnly (p q : Pkg) : Prop := ∃ h, q = { p with glb := { p.glb with heldLow := h } }

theorem HeldOnly.refl (p : Pkg) : HeldOnly p p := ⟨p.glb.heldLow, rfl⟩

theorem HeldOnly.trans {p q r : Pkg} (h : HeldOnly p q) (k : HeldOnly q r) : HeldOnly p r := by
  obtain ⟨_, rfl⟩ := h
  obtain ⟨b, rfl⟩ := k
  exact ⟨b, rfl⟩

theorem setHeld_heldOnly (p : Pkg) (fn : Nat) (h : Option (Nat × Nat)) : HeldOnly p (setHeld p fn h) := ⟨_, rfl⟩

/-- An offset lies in no block of a context that the function reaches. -/
def Unreached (p : Pkg) (fn o : Nat) : Prop :=
  (inCtxArea o = true → reaches p fn ((o - 0x400000) / 0x4000) = false) ∧
    (inBindArea o = true → reaches p fn ((o - 0x2101000) / 0x40) = false)

theorem Unreached.of_heldOnly {p q : Pkg} {fn o : Nat} (h : Unreached p fn o) (k : HeldOnly p q) : Unreached q fn o := by
  obtain ⟨_, rfl⟩ := k
  exact h

/-- A virtual function moves no register where it reaches no context (R257). -/
theorem regEffect_unreached {p : Pkg} {fn off : Nat} (hfn : fn ≠ 0) (h : Unreached p fn off) (size v : Nat) :
    regEffect p fn off size v = p := by
  obtain ⟨hctx, hbind⟩ := h
  unfold regEffect
  dsimp only
  split
  · next hc => simp [hctx hc]
  · split
    · next hb => simp [hbind hb]
    · rfl

theorem takeValue_unreached {p : Pkg} {fn off : Nat} (hfn : fn ≠ 0) (h : Unreached p fn off) (size v : Nat) (gone : List Nat) :
    takeValue p fn off size v gone = p := by
  unfold takeValue
  split
  · rfl
  · exact regEffect_unreached hfn h size v

/-- Four bytes written there hold or release a half alone: their own register, or the one whose upper half they are, is not reached. -/
theorem write4_unreached {p : Pkg} {fn off : Nat} (hfn : fn ≠ 0) (h : Unreached p fn off) (hlow : ∀ o, o + 4 = off → Unreached p fn o)
    (size v : Nat) (gone : List Nat) : HeldOnly p (write4 p fn off size v gone) := by
  unfold write4
  split
  · exact .refl p
  · split
    · exact setHeld_heldOnly p fn _
    · split
      · next hu =>
        rw [takeValue_unreached hfn ((hlow (off - 4) (by omega)).of_heldOnly (setHeld_heldOnly p fn none))]
        exact setHeld_heldOnly p fn none
      · rw [takeValue_unreached hfn h]
        exact .refl p

/-- Every register that a write can move: the one at its offset, the one above it, and the one whose upper half it writes. -/
def UnreachedAround (p : Pkg) (fn off : Nat) : Prop := ∀ o, (o = off ∨ o = off + 4 ∨ o + 4 = off) → Unreached p fn o

theorem bar0WriteOp_unreached {p : Pkg} {fn off size : Nat} (hfn : fn ≠ 0) (h : UnreachedAround p fn off) (hok : accessOk off size = true)
    (v : Nat) (gone : List Nat) : HeldOnly p (bar0WriteOp p fn off size v gone) := by
  have hdrop : HeldOnly p (dropHeld p fn off) := dropHeld_eq p fn off
  have hat : ∀ {q o}, HeldOnly p q → (o = off ∨ o = off + 4 ∨ o + 4 = off) → Unreached q fn o := fun k ho => (h _ ho).of_heldOnly k
  have hfirst : ∀ size v, HeldOnly p (write4 (dropHeld p fn off) fn off size v gone) := fun size v =>
    hdrop.trans (write4_unreached hfn (hat hdrop (.inl rfl)) (fun o ho => hat hdrop (.inr (.inr ho))) size v gone)
  unfold bar0WriteOp
  simp only [hok, Bool.not_true, Bool.false_eq_true, if_false]
  split
  · exact hfirst _ _
  · split
    · split
      · rw [takeValue_unreached hfn (hat hdrop (.inl rfl))]
        exact hdrop
      · exact hdrop
    · have hsecond := hfirst 8 (v % 2 ^ 32)
      exact hsecond.trans (write4_unreached hfn (hat hsecond (.inr (.inl rfl))) (fun o ho => hat hsecond (.inl (by omega))) _ _ _)

/-! #### READY and the interrupts after the write -/

theorem judgeReady_eq_self_iff (p : Pkg) :
    judgeReady p = p ↔ p.glb.ready = (p.glb.selfTestDone && p.tick.phaseLocked && !p.glb.fwFault) := by
  constructor
  · intro h
    rw [← judgeReady_ready, h]
  · intro h
    unfold judgeReady
    dsimp only
    rw [← h]
    cases p.glb.ready <;> simp

/-- A record moves neither READY nor a bit of GLB_STATUS. -/
theorem settle_judgeReady_log {p q : Pkg} (hj : judgeReady p = p) (hr : ReadyKept p q) (hs : glbStatus q = glbStatus p)
    (ht : q.tick = p.tick) (hm : q.mgt = p.mgt) (code source p0 p1 p2 : Nat) :
    settle p (judgeReady (log q code source p0 p1 p2)) = log q code source p0 p1 p2 := by
  have hjudged : judgeReady (log q code source p0 p1 p2) = log q code source p0 p1 p2 := by
    rw [judgeReady_eq_self_iff] at hj ⊢
    simpa [hr.ready, hr.selfTestDone, hr.fwFault, ht] using hj
  have hstatus : glbStatus (log q code source p0 p1 p2) = glbStatus p := by
    rw [← hs]
    simp [glbStatus, nvVerifiedAll, degraded]
  rw [hjudged]
  simp [settle, hstatus, hm]

theorem settle_judgeReady_invalidAccess {p : Pkg} (hj : judgeReady p = p) (fn off size : Nat) :
    settle p (judgeReady (invalidAccess p fn off size)) = invalidAccess p fn off size := by
  unfold invalidAccess
  split
  · rw [hj]
    simp [settle]
  · exact settle_judgeReady_log (q := { p with glb := { p.glb with barInvalidAt := some (now p) } }) hj ⟨rfl, rfl, rfl⟩ rfl rfl rfl
      codeBarAccessInvalid 0 fn off size

/-- Settles O13: no register that the write can move is reached, so the halves that wait, or the record of R39, are all it changes. -/
theorem vfReachesItsContextsAlone : Obligations.VfReachesItsContextsAlone := by
  intro s fn off size v hp hfn hvf hj hctx hbind
  have hun : UnreachedAround s.pkg fn off := fun o ho => ⟨hctx o ho, hbind o ho⟩
  have hreset : resetsCtx s.pkg fn off size = false := by
    unfold resetsCtx
    cases hc : inCtxArea off with
    | false => simp
    | true => simp [hctx off (.inl rfl) hc]
  refine ⟨fun hok => does_of_actS ((exec_bar0Write fn off size v s).trans rfl) (by simp [hp, hfn]) ?_,
    fun hok => does_of_actS ((exec_bar0Write fn off size v s).trans rfl) (by simp [hp, hfn]) ?_⟩
  · obtain ⟨h, hq⟩ := bar0WriteOp_unreached hvf hun hok v.toNat (goneAt fn off size s)
    have hjudged : judgeReady { s.pkg with glb := { s.pkg.glb with heldLow := h } } = { s.pkg with glb := { s.pkg.glb with heldLow := h } } := by
      rw [judgeReady_eq_self_iff] at hj ⊢
      exact hj
    exact ⟨h, by simp [hreset, hq, hjudged, settle_heldLow]⟩
  · have hwrite : bar0WriteOp s.pkg fn off size v.toNat (goneAt fn off size s) = invalidAccess s.pkg fn off size := by
      simp [bar0WriteOp, hok]
    simp only [hreset, Bool.false_eq_true, if_false, hwrite, settle_judgeReady_invalidAccess hj]
    unfold invalidAccess
    split
    · exact .inl rfl
    · exact .inr rfl

end Sys2Proof.Machine
end

section
/-! PROOFS. The count of the tick: its load, its boundary, and the time exchanges that align it (R59, R62, R66, R70, R71, R387). -/

namespace Sys2Proof.Machine

/-! #### What alignment and steering leave of the tick -/

/-- The count and the exchanges are the same in two packages. -/
structure CountKept (p q : Pkg) : Prop where
  count : q.tick.count = p.tick.count
  countSet : q.tick.countSet = p.tick.countSet
  setDelta : q.tick.setDelta = p.tick.setDelta
  pendingCount : q.tick.pendingCount = p.tick.pendingCount
  exchange : q.tick.exchange = p.tick.exchange
  exchSeq : q.tick.exchSeq = p.tick.exchSeq
  lastExchange : q.tick.lastExchange = p.tick.lastExchange
  failedExch : q.tick.failedExch = p.tick.failedExch
  offsets : q.tick.offsets = p.tick.offsets

theorem CountKept.of_tick {p q : Pkg} (h : q.tick = p.tick) : CountKept p q := by constructor <;> rw [h]

theorem CountKept.trans {p q r : Pkg} (h : CountKept p q) (k : CountKept q r) : CountKept p r :=
  ⟨k.count.trans h.count, k.countSet.trans h.countSet, k.setDelta.trans h.setDelta, k.pendingCount.trans h.pendingCount,
    k.exchange.trans h.exchange, k.exchSeq.trans h.exchSeq, k.lastExchange.trans h.lastExchange, k.failedExch.trans h.failedExch,
    k.offsets.trans h.offsets⟩

theorem gainAlign_countKept (p : Pkg) : CountKept p (gainAlign p) := by
  unfold gainAlign
  split
  · constructor <;> rfl
  · exact .of_tick rfl

theorem loseAlign_countKept (p : Pkg) (cause : Nat) : CountKept p (loseAlign p cause) := by
  obtain ⟨b, h⟩ := loseAlign_tick p cause
  constructor <;> rw [h]

/-- Steering notes an adjustment and moves its counters, never the count. -/
theorem steer_countKept (p : Pkg) : CountKept p (steer p) := by
  unfold steer
  extract_lets t n sum free
  split
  · constructor <;> rfl
  · exact .of_tick rfl

theorem steerTick_countKept (p : Pkg) : CountKept p (steerTick p) := by
  unfold steerTick
  split
  · exact steer_countKept p
  · exact .of_tick rfl

/-- A tick boundary adds 1 to the count (R59), and what it begins and ends leaves it so. -/
theorem tickStep_count (p : Pkg) :
    (tickStep p).tick.count = p.tick.count + 1 ∧ (tickStep p).tick.countSet = p.tick.countSet := by
  unfold tickStep
  split
  · simp [countTick]
  · have hsteer := steerTick_countKept (countTick (endTick p))
    simp only [beginTick_keeps, portsTick_keeps, hsteer.count, hsteer.countSet]
    simp [countTick]

/-- The record and the reply of a count that is loaded leave the tick. -/
theorem loadAnswered_tick (p : Pkg) (c : PendCmd) (code source p0 p1 p2 : Nat) :
    (mgtDone (log p code source p0 p1 p2) c []).tick = p.tick := by simp

/-- A load of the count moves the tick values that are held, sets the count, and judges the alignment (R59, R63). -/
theorem countLoadOp_aligns {p : Pkg} {v : Nat} (h : p.tick.pendingCount = some v) : ∃ q : Pkg,
    (countLoadOp p).tick = (gainAlign q).tick ∧ q.tick.count = v ∧ q.tick.countSet = true ∧ q.tick.pendingCount = none ∧
      q.tick.setDelta = (v : Int) - (p.tick.count : Int) := by
  unfold countLoadOp
  simp only [h]
  split
  · exact ⟨_, rfl, rfl, rfl, rfl, rfl⟩
  · exact ⟨_, loadAnswered_tick _ _ _ _ _ _ _, rfl, rfl, rfl, rfl⟩

/-- What a load of the count leaves of the tick (R59). -/
theorem countLoadOp_tick {p : Pkg} {v : Nat} (h : p.tick.pendingCount = some v) :
    (countLoadOp p).tick.count = v ∧ (countLoadOp p).tick.countSet = true ∧ (countLoadOp p).tick.pendingCount = none ∧
      (countLoadOp p).tick.setDelta = (v : Int) - (p.tick.count : Int) := by
  obtain ⟨q, htick, hcount, hset, hpending, hdelta⟩ := countLoadOp_aligns h
  have hkept := gainAlign_countKept q
  rw [htick, hkept.count, hkept.countSet, hkept.pendingCount, hkept.setDelta]
  exact ⟨hcount, hset, hpending, hdelta⟩

/-! #### What is sent -/

/-- A new flit is sent after what was sent before it. -/
theorem newFlit_out (p : Pkg) (n kind vc : Nat) (payload : Bytes) (pkt : Option Bytes) :
    ∃ flit, (newFlit p n kind vc payload pkt).out = p.out ++ [flit] := ⟨_, rfl⟩

theorem newFlits_out (n kind vc : Nat) (l : List Bytes) (p : Pkg) :
    ∃ flits, (forAll l (fun q r => newFlit q n kind vc r none) p).out = p.out ++ flits := by
  induction l generalizing p with
  | nil => exact ⟨[], by simp [forAll]⟩
  | cons r l ih =>
    obtain ⟨flit, hfirst⟩ := newFlit_out p n kind vc r none
    obtain ⟨flits, hrest⟩ := ih (newFlit p n kind vc r none)
    exact ⟨flit :: flits, by simpa [forAll, hfirst] using hrest⟩

/-- A control record is listed as sent, then the flits that leave with it (R348, R353). -/
theorem sendControl_out (p : Pkg) (n : Nat) (rec : Bytes) :
    ∃ flits, (sendControl p n rec).out = p.out ++ Out.control n rec :: flits := by
  unfold sendControl drainControls
  obtain ⟨flits, hout⟩ := newFlits_out n 2 0 _ _
  exact ⟨flits, hout.trans (by simp [send, modPort])⟩

/-! #### Exchanges -/

/-- An exchange begins with the next number, in the tick that its departure stamps (R62). -/
theorem timeExchangeOp_tick (p : Pkg) (up ns : Nat) :
    (timeExchangeOp p up ns).tick.exchSeq = (p.tick.exchSeq + 1) % 65536 ∧
      (timeExchangeOp p up ns).tick.exchange = some ((p.tick.exchSeq + 1) % 65536, p.tick.count) ∧
      (timeExchangeOp p up ns).tick.count = p.tick.count := by
  unfold timeExchangeOp
  extract_lets x failed _ p1 _ _ p2
  have hbegun : p2.tick.exchSeq = x ∧ p2.tick.exchange = some (x, p.tick.count) ∧ p2.tick.count = p.tick.count := by
    have hkept := loseAlign_countKept p1 0
    by_cases hfailed : 8 ≤ failed
    · rw [show p2 = _ from if_pos hfailed]
      exact ⟨hkept.exchSeq, hkept.exchange, hkept.count⟩
    · rw [show p2 = p1 from if_neg hfailed]
      exact ⟨rfl, rfl, rfl⟩
  split
  · simpa only [sendControl_keeps] using hbegun
  · exact hbegun

/-- An exchange that succeeds is over, and its offset joins the last ones, at most 8 (R62, R63). -/
theorem exchangeDone_tick (p : Pkg) (half : Int) :
    (exchangeDone p half).tick.exchange = none ∧ (exchangeDone p half).tick.failedExch = 0 ∧
      (exchangeDone p half).tick.lastExchange = some p.tick.count ∧
      (exchangeDone p half).tick.offsets = (p.tick.offsets ++ [half]).drop (p.tick.offsets.length + 1 - 8) ∧
      (exchangeDone p half).tick.count = p.tick.count := by
  unfold exchangeDone
  extract_lets offs sum ps good _ p1
  have hkept : CountKept p1 (steer (if good then gainAlign p1 else loseAlign p1 1)) := by
    refine CountKept.trans ?_ (steer_countKept _)
    split
    · exact gainAlign_countKept p1
    · exact loseAlign_countKept p1 1
  exact ⟨hkept.exchange, hkept.failedExch, hkept.lastExchange, hkept.offsets, hkept.count⟩

/-- The last 8 of a list with one more element end with it. -/
theorem lastEight_getLast (l : List Int) (x : Int) :
    ((l ++ [x]).drop (l.length + 1 - 8)).getLast? = some x ∧ ((l ++ [x]).drop (l.length + 1 - 8)).length = min 8 (l.length + 1) := by
  have hlen : (l ++ [x]).length = l.length + 1 := by simp
  constructor
  · rw [List.getLast?_drop, if_neg (by omega)]
    simp
  · rw [List.length_drop, hlen]
    omega

/-! #### The commands -/

/-- A register of the physical function that lies in the tick, written while READY is 1 (R43, R70). -/
theorem pfWrite_ready_tick {p : Pkg} (h : p.glb.ready = true) (off : Nat) (f : TickS → TickS) :
    (pfWrite p 0 off fun q => { q with tick := f q.tick }).tick = f p.tick := by
  obtain ⟨held, hheld⟩ := dropHeld_eq p 0 off
  simp [pfWrite, regWrite, hheld, h]

/-- Settles O10: the count by what its load and its boundary leave of the tick, an exchange by what begins and what ends it. -/
theorem countAndTimeCommands : Obligations.CountAndTimeCommands := by
  refine ⟨⟨fun s v hv hdue => ?load, fun s hnone => ?noLoad, fun s hp hrun => ?boundary, fun s hidle => ?idle⟩,
    fun s ns e hl hc hown hmaster hup => ?exchange, fun s port rec ago arrive depart hport hlen htype => ?request,
    fun s port rec ago arrive x t1 hport hlen htype htime hexch hseq hin => ?response, fun s v hr hlast => ?ctrl⟩
  case load =>
    refine does_of_act ((exec_countLoad s).trans rfl) (by simpa using hdue) ?_
    obtain ⟨hcount, hset, hpending, hdelta⟩ := countLoadOp_tick hv
    exact ⟨hcount, hset, hpending, hdelta, by simp⟩
  case noLoad =>
    have hsame : countLoadOp s.pkg = s.pkg := by simp [countLoadOp, hnone]
    rw [Idles, exec_countLoad, execCountLoad, act_eq, hsame, ite_self]
  case boundary =>
    refine does_of_actS (ok := true) ((exec_tickBoundary s).trans (by rw [execTickBoundary, if_pos (by simpa [hp] using hrun)])) rfl ?_
    simp [tickStep_count s.pkg]
  case idle =>
    have hexec : exec .tickBoundary s = act s.pkg.pins.vinOk idleTime s := by
      rw [exec_tickBoundary, execTickBoundary, if_neg]
      rcases hidle with hp | ⟨hl, hh⟩
      · simp [hp]
      · simp [hl, hh]
    exact ⟨fun hv => by rw [hexec, act_next hv, idleTime], fun hv => by rw [Idles, hexec, hv, act_false]⟩
  case exchange =>
    refine does_of_act ((exec_timeExchange ns s).trans rfl) (by simp [hl, hc]) ?_
    simpa [hown, hmaster, hup] using timeExchangeOp_tick s.pkg e.up ns
  case request =>
    refine does_of_act ((exec_timeRequest port rec ⟨ago, arrive⟩ depart s).trans rfl) (by simp [hport, hlen, htype]) ?_
    refine ⟨sendControl_out _ _ _, fun x hx => ?_⟩
    cases x <;> simp_all [Area.same]
  case response =>
    refine does_of_act ((exec_timeResponse port rec ⟨ago, arrive⟩ s).trans rfl) (by simp [hport, hlen, htype, htime]) ?_
    generalize hhalf : (stampNs rec 24 - stampNs rec 8) - (stampNs (stampAgo s.pkg ago arrive) 0 - stampNs rec 40) = half
    simp only [hexch, hseq, now, hin, and_self, if_true, hhalf]
    obtain ⟨hover, hfailed, hat, hoffsets, hcount⟩ := exchangeDone_tick s.pkg half
    obtain ⟨hlast, hlength⟩ := lastEight_getLast s.pkg.tick.offsets half
    exact ⟨hover, hfailed, hat, by rw [hoffsets, hlast], by rw [hoffsets, hlength], hcount⟩
  case ctrl =>
    refine does_of_act ((exec_tickCtrlWrite 0 v s).trans rfl) hlast ?_
    exact pfWrite_ready_tick hr 0x0010000C fun t => { t with ctrl := v.toNat % 8 }

end Sys2Proof.Machine
end

section
/-! PROOFS. The rings of a Hound program: its doorbells, its heads and its bases, after its own accesses (R67, R419, R421, R422, R424). -/

namespace Sys2Proof.Machine

/-! #### Cores beside other parts of the package -/

@[simp] theorem hcoreOf_judgeStall (p : Pkg) (c k : Nat) : hcoreOf (judgeStall p c) k = hcoreOf p k := hcoreOf_congr (by simp) k
@[simp] theorem hcoreOf_stallCtx (p : Pkg) (c k : Nat) : hcoreOf (stallCtx p c) k = hcoreOf p k := hcoreOf_congr (by simp) k
@[simp] theorem hcoreOf_modBind (p : Pkg) (c k : Nat) (f : HBind → HBind) : hcoreOf (modBind p c f) k = hcoreOf p k := rfl
@[simp] theorem bindOf_modHcore (p : Pkg) (k c : Nat) (f : HCore → HCore) : bindOf (modHcore p k f) c = bindOf p c := rfl
@[simp] theorem ctxOf_modHcore (p : Pkg) (k c : Nat) (f : HCore → HCore) : ctxOf (modHcore p k f) c = ctxOf p c := rfl
@[simp] theorem coreCtx_modHcore (p : Pkg) (k j : Nat) (f : HCore → HCore) : coreCtx (modHcore p k f) j = coreCtx p j := rfl

/-- A change of a core that leaves its command tail leaves every core's. -/
theorem modHcore_cmdTail (p : Pkg) (k j : Nat) (f : HCore → HCore) (h : ∀ x, (f x).cmdTail = x.cmdTail) :
    (hcoreOf (modHcore p k f) j).cmdTail = (hcoreOf p j).cmdTail := by
  rw [hcoreOf_modHcore]
  split
  · next e => rw [h, e]
  · rfl

/-! #### The program of a binding -/

/-- Where some hart of a binding runs, the binding is RUNNING. -/
theorem running_of_programRuns {p : Pkg} {c : Nat} (h : programRuns p c = true) : (bindOf p c).st = 2 := by
  obtain ⟨k, -, hk⟩ := List.any_eq_true.mp h
  have hk : runningOn p k = some c := of_decide_eq_true hk
  unfold runningOn at hk
  split at hk
  · split at hk
    · next hrun =>
      cases hk
      simp only [Bool.and_eq_true, decide_eq_true_eq] at hrun
      exact hrun.1.1
    · cases hk
  · cases hk

/-- What a program does through the mailbox page of a core of its binding: its accesses, then the event unless one of them stopped it (R419). -/
theorem byPage_next {s : State} {k c : Nat} (hp : powered s.pkg = true) (hc : coreCtx s.pkg k = some c) (hr : programRuns s.pkg c = true)
    (mem : Stores) (f : Pkg → Nat → Pkg) :
    byPage k mem f s = .next { s with
      pkg := if (bindOf (afterAccesses s.pkg k c mem) c).st = 2 then f (afterAccesses s.pkg k c mem) c else afterAccesses s.pkg k c mem } := by
  simp [byPage, act_next hp, hc, hr]

/-- The package after the event, where the accesses leave the binding RUNNING. -/
theorem does_of_byPage {i : Instr} {s : State} {k c : Nat} {mem : Stores} {f : Pkg → Nat → Pkg} {post : Pkg → Prop}
    (hi : exec i s = byPage k mem f s) (hp : powered s.pkg = true) (hc : coreCtx s.pkg k = some c) (hr : programRuns s.pkg c = true)
    (hst : (bindOf (afterAccesses s.pkg k c mem) c).st = 2) (h : post (f (afterAccesses s.pkg k c mem) c)) : Does i s post :=
  ⟨_, by rw [hi, byPage_next hp hc hr, if_pos hst], h⟩

/-! #### The command ring of a mailbox -/

theorem logEvent_hnd (p : Pkg) (c status code handle p0 p1 p2 : Nat) : (logEvent p c status code handle p0 p1 p2).hnd = p.hnd := by simp

theorem faultBind_cmdTail (p : Pkg) (c core kind code pc tval j : Nat) :
    (hcoreOf (faultBind p c core kind code pc tval) j).cmdTail = (hcoreOf p j).cmdTail := by
  unfold faultBind
  dsimp only
  rw [hcoreOf_congr (logEvent_hnd _ _ _ _ _ _ _ _), hcoreOf_modBind]
  refine forAll_keep (fun q => (hcoreOf q j).cmdTail) _ _ p fun q k => ?_
  exact modHcore_cmdTail q k j _ fun _ => rfl

theorem ringFault_cmdTail (p : Pkg) (c core j : Nat) : (hcoreOf (ringFault p c core) j).cmdTail = (hcoreOf p j).cmdTail := by
  unfold ringFault
  split
  · exact faultBind_cmdTail _ _ _ _ _ _ _ _
  · rfl

theorem takeCmd_cmdTail (p : Pkg) (k c j : Nat) (b : Bytes) : (hcoreOf (takeCmd p k c b) j).cmdTail = (hcoreOf p j).cmdTail :=
  modHcore_cmdTail p k j _ fun _ => rfl

theorem takeMail_cmdTail (k c j n : Nat) (p : Pkg) : (hcoreOf (takeMail p k c n) j).cmdTail = (hcoreOf p j).cmdTail := by
  induction n generalizing p with
  | zero => rfl
  | succ n ih =>
    unfold takeMail
    extract_lets x b
    split
    · rfl
    · split
      · rfl
      · split
        · rw [hcoreOf_stallCtx]
        · exact (ih _).trans (takeCmd_cmdTail p k c j b)

/-- Commands that are fetched, or a ring that faults, leave the tail where the doorbell put it. -/
theorem pumpMail_cmdTail (p : Pkg) (k j : Nat) : (hcoreOf (pumpMail p k) j).cmdTail = (hcoreOf p j).cmdTail := by
  unfold pumpMail
  split
  · next c _ =>
    dsimp only
    split
    · split
      · rw [hcoreOf_judgeStall, takeMail_cmdTail]
        exact modHcore_cmdTail p k j _ fun _ => rfl
      · exact ringFault_cmdTail p _ k j
    · rfl
  · rfl

theorem mailDoorbell_outside {p : Pkg} {k v : Nat} (h : 2 ^ (hcoreOf p k).cmdLog ≤ v % 2 ^ 16) : mailDoorbell p k v = p := by
  rw [mailDoorbell, if_pos h]

theorem mailDoorbell_inside {p : Pkg} {k v : Nat} (h : v % 2 ^ 16 < 2 ^ (hcoreOf p k).cmdLog) :
    mailDoorbell p k v = pumpMail (modHcore p k fun x => { x with cmdTail := v % 2 ^ 16 }) k := by
  rw [mailDoorbell, if_neg (Nat.not_le.mpr h)]

/-- A tail in the ring is the new tail (R422). -/
theorem mailDoorbell_cmdTail {p : Pkg} {k v : Nat} (h : v % 2 ^ 16 < 2 ^ (hcoreOf p k).cmdLog) :
    (hcoreOf (mailDoorbell p k v) k).cmdTail = v % 2 ^ 16 := by
  rw [mailDoorbell_inside h, pumpMail_cmdTail, hcoreOf_modHcore_same]

/-- The one command of a ring that is not an ADMIT is taken where its reply has room, and no other follows it (R422, R423). -/
theorem takeMail_single {p : Pkg} {k c : Nat} (n : Nat) (hwaits : (hcoreOf p k).cmdHead ≠ (hcoreOf p k).cmdTail)
    (hlast : ((hcoreOf p k).cmdHead + 1) % 2 ^ (hcoreOf p k).cmdLog = (hcoreOf p k).cmdTail)
    (hroom : replyRoom (hcoreOf p k).reply = true)
    (htype : fieldAt (tgetList 0 (bindOf p c).mem ((hcoreOf p k).cmdBase + 64 * (hcoreOf p k).cmdHead) 64) 0 1 ≠ 1) :
    takeMail p k c (n + 1) = takeCmd p k c (tgetList 0 (bindOf p c).mem ((hcoreOf p k).cmdBase + 64 * (hcoreOf p k).cmdHead) 64) := by
  rw [takeMail]
  simp only [hwaits, hroom, htype, false_and, if_false, Bool.not_true, Bool.false_eq_true]
  generalize tgetList 0 (bindOf p c).mem ((hcoreOf p k).cmdBase + 64 * (hcoreOf p k).cmdHead) 64 = b
  cases n with
  | zero => rfl
  | succ n =>
    have hempty : (hcoreOf (takeCmd p k c b) k).cmdHead = (hcoreOf (takeCmd p k c b) k).cmdTail := by
      rw [takeCmd_cmdTail, ← hlast]
      exact congrArg HCore.cmdHead (hcoreOf_modHcore_same p k _)
    rw [takeMail, if_pos hempty]

/-- What a command leaves of its core when it is taken: the head moves on, the command is live and its reply slot is reserved (R422, R423). -/
theorem hcoreOf_takeCmd (p : Pkg) (k c : Nat) (b : Bytes) :
    hcoreOf (takeCmd p k c b) k =
      { hcoreOf p k with
        cmdHead := ((hcoreOf p k).cmdHead + 1) % 2 ^ (hcoreOf p k).cmdLog
        live := (hcoreOf p k).live ++ [{ descOf (k + 1) (hcoreOf p k).cmdHead b with num := (ctxOf p c).descNum }]
        reply := { (hcoreOf p k).reply with reserved := (hcoreOf p k).reply.reserved + 1 } } :=
  hcoreOf_modHcore_same p k _

/-- A mailbox that may be fetched from, with its rings inside program memory (R264, R422). -/
theorem pumpMail_takes {p : Pkg} {k c : Nat} (hc : coreCtx p k = some c) (hst : (bindOf p c).st = 2) (hctx : (ctxOf p c).st = ctxActive)
    (hfw : p.glb.fwFault = false) (hwaits : (hcoreOf p k).cmdHead ≠ (hcoreOf p k).cmdTail) (hfetch : (hcoreOf p k).fetchAt ≠ now p + 1)
    (hin : mailInside p k c = true) :
    pumpMail p k = judgeStall (takeMail (modHcore p k fun y => { y with fetchAt := now p + 1 }) k c 32) c := by
  simp [pumpMail, hc, hst, hctx, hfw, hwaits, hfetch, hin]

/-- The doorbell of the one command of a ring, in a package that may fetch it: the command is taken at once (R422). -/
theorem mailDoorbell_takes {p : Pkg} {k c v : Nat} (hc : coreCtx p k = some c) (hst : (bindOf p c).st = 2)
    (hctx : (ctxOf p c).st = ctxActive) (hfw : p.glb.fwFault = false) (hi : v % 2 ^ 16 < 2 ^ (hcoreOf p k).cmdLog)
    (hin : mailInside p k c = true) (hfetch : (hcoreOf p k).fetchAt ≠ now p + 1) (hwaits : (hcoreOf p k).cmdHead ≠ v % 2 ^ 16)
    (hlast : ((hcoreOf p k).cmdHead + 1) % 2 ^ (hcoreOf p k).cmdLog = v % 2 ^ 16)
    (hroom : (hcoreOf p k).reply.used + (hcoreOf p k).reply.reserved < 2 ^ (hcoreOf p k).reply.log2)
    (htype : fieldAt (tgetList 0 (bindOf p c).mem ((hcoreOf p k).cmdBase + 64 * (hcoreOf p k).cmdHead) 64) 0 1 ≠ 1) :
    hcoreOf (mailDoorbell p k v) k =
      { hcoreOf p k with
        cmdTail := v % 2 ^ 16, fetchAt := now p + 1, cmdHead := v % 2 ^ 16
        live := (hcoreOf p k).live ++
          [{ descOf (k + 1) (hcoreOf p k).cmdHead
              (tgetList 0 (bindOf p c).mem ((hcoreOf p k).cmdBase + 64 * (hcoreOf p k).cmdHead) 64) with num := (ctxOf p c).descNum }]
        reply := { (hcoreOf p k).reply with reserved := (hcoreOf p k).reply.reserved + 1 } } := by
  have hpump := pumpMail_takes (p := modHcore p k fun x => { x with cmdTail := v % 2 ^ 16 }) (k := k) hc hst hctx hfw
    (by simpa using hwaits) (by simpa [now] using hfetch) (by simpa [mailInside] using hin)
  rw [mailDoorbell_inside hi, hpump, takeMail_single 31 (by simpa using hwaits) (by simpa using hlast)
    (by simpa [replyRoom] using hroom) (by simpa using htype), hcoreOf_judgeStall, hcoreOf_takeCmd]
  simp only [hcoreOf_modHcore_same, bindOf_modHcore, ctxOf_modHcore, hlast]
  rfl

/-! #### Heads of record rings -/

/-- A head between the old head and the tail frees the records it passes; on a full ring the old head frees all (R421). -/
theorem ringConsume_passes {r : HRing} {v : Nat} (hi : v % 2 ^ 16 < 2 ^ r.log2) (hn : ringSpan (2 ^ r.log2) r.head (v % 2 ^ 16) ≤ r.used) :
    ringConsume r v = { r with
      head := v % 2 ^ 16
      used := r.used - if ringSpan (2 ^ r.log2) r.head (v % 2 ^ 16) = 0 ∧ r.used = 2 ^ r.log2 then 2 ^ r.log2
        else ringSpan (2 ^ r.log2) r.head (v % 2 ^ 16) } := by
  unfold ringConsume consumed
  simp only [Nat.not_le.mpr hi, if_false, hn, if_true]
  by_cases hall : ringSpan (2 ^ r.log2) r.head (v % 2 ^ 16) = 0 ∧ r.used = 2 ^ r.log2
  · simp only [if_pos hall]
  · simp only [if_neg hall]

/-- Any other value is ignored. -/
theorem ringConsume_ignores {r : HRing} {v : Nat} (h : 2 ^ r.log2 ≤ v % 2 ^ 16 ∨ r.used < ringSpan (2 ^ r.log2) r.head (v % 2 ^ 16) ∧
    ¬ (ringSpan (2 ^ r.log2) r.head (v % 2 ^ 16) = 0 ∧ r.used = 2 ^ r.log2)) : ringConsume r v = r := by
  unfold ringConsume consumed
  dsimp only
  rcases h with hout | ⟨hlong, hpart⟩
  · simp only [hout, if_true]
  · simp only [hpart, Nat.not_le.mpr hlong, if_false, ite_self]

/-! #### The token ring of a binding -/

/-- Whether a request lacks only a token slot is not read from TQ_STALL. -/
theorem lacksToken_tqStall (p : Pkg) (c e : Nat) (w : Bool) :
    lacksToken (modBind p c fun b => { b with tqStall := w }) e = lacksToken p e := by
  have hroom : tokenRoom (modBind p c fun b => { b with tqStall := w }) (reqOf p e) = tokenRoom p (reqOf p e) := by
    unfold tokenRoom
    rw [bindOf_modBind]
    split
    · split
      · next hc => rw [hc]
      · rfl
    · rfl
  exact congrArg (fun t : Bool => eligibleBase p e && (ctxOf p (reqOf p e).ctx).resident && (reqOf p e).hound && !(reqOf p e).inStep && !t) hroom

/-- TQ_STALL is judged as the requests stand, and nothing else of the binding moves (R424). -/
theorem bindOf_judgeTq (p : Pkg) (c : Nat) :
    bindOf (judgeTq p c) c = { bindOf p c with tqStall := (entriesOf p c).any (lacksToken p) } := by
  unfold judgeTq
  dsimp only
  split
  · next h => rw [← h]
  · exact bindOf_modBind_same p c _

theorem lacksToken_judgeTq (p : Pkg) (c e : Nat) : lacksToken (judgeTq p c) e = lacksToken p e := by
  unfold judgeTq
  dsimp only
  split
  · rfl
  · exact lacksToken_tqStall p c e _

theorem entriesOf_judgeTq (p : Pkg) (c d : Nat) : entriesOf (judgeTq p c) d = entriesOf p d := by simp [entriesOf]

/-- A head of the token ring is taken as any record ring's, and TQ_STALL follows it (R421, R424). -/
theorem tqHeadWrite_tq (p : Pkg) (c v : Nat) :
    (bindOf (tqHeadWrite p c v) c).tq = ringConsume (bindOf p c).tq v ∧
      (bindOf (tqHeadWrite p c v) c).tqStall = (entriesOf (tqHeadWrite p c v) c).any (lacksToken (tqHeadWrite p c v)) := by
  unfold tqHeadWrite
  rw [bindOf_judgeTq, entriesOf_judgeTq, funext (lacksToken_judgeTq _ c)]
  exact ⟨congrArg HBind.tq (bindOf_modBind_same p c _), rfl⟩

/-! #### Bases and sizes -/

/-- The base that a write of part of it leaves: a ring that holds something keeps its base, and a base is a multiple of 64 (R421). -/
theorem ite_ringBase (empty : Prop) [Decidable empty] (n old : Nat) :
    (if empty then ringBase n old else old) = if empty ∧ n % 64 = 0 then n else old := by
  rw [ite_and, ringBase]

theorem mailboxWrite_cmdBase {off size : Nat} (h : off = 0 ∨ off = 4 ∧ size = 4) (p : Pkg) (k v : Nat) :
    (hcoreOf (mailboxWrite p k off size v) k).cmdBase =
      if (hcoreOf p k).cmdHead = (hcoreOf p k).cmdTail ∧ baseValue (hcoreOf p k).cmdBase off size v % 64 = 0
        then baseValue (hcoreOf p k).cmdBase off size v else (hcoreOf p k).cmdBase := by
  rw [← ite_ringBase, mailboxWrite, hcoreOf_modHcore_same]
  simp only [h, if_true]
  split <;> rfl

theorem mailboxWrite_replyBase {off size : Nat} (h : off = 8 ∨ off = 0xC ∧ size = 4) (p : Pkg) (k v : Nat) :
    (hcoreOf (mailboxWrite p k off size v) k).reply.base =
      if (hcoreOf p k).reply.used = 0 ∧ baseValue (hcoreOf p k).reply.base off size v % 64 = 0
        then baseValue (hcoreOf p k).reply.base off size v else (hcoreOf p k).reply.base := by
  have hother : ¬ (off = 0 ∨ off = 4 ∧ size = 4) := by omega
  rw [← ite_ringBase, mailboxWrite, hcoreOf_modHcore_same]
  simp only [hother, h, if_true, if_false, ringEmpty, decide_eq_true_eq]
  split <;> rfl

theorem mailboxWrite_cmdLog (p : Pkg) (k v : Nat) :
    (hcoreOf (mailboxWrite p k 0x10 4 v) k).cmdLog =
      if (hcoreOf p k).cmdHead = (hcoreOf p k).cmdTail ∧ 6 ≤ v % 32 ∧ v % 32 ≤ 12 then v % 32 else (hcoreOf p k).cmdLog := by
  have hsizes : hcoreOf (mailboxWrite p k 0x10 4 v) k = mbSizes (hcoreOf p k) v := by
    rw [mailboxWrite, hcoreOf_modHcore_same]
    simp
  rw [hsizes, ite_and]
  simp [mbSizes, ringLog, bitsOf]

theorem bindPageWrite_tqBase {off size : Nat} (h : off = 0 ∨ off = 4 ∧ size = 4) (p : Pkg) (c v : Nat) :
    (bindOf (bindPageWrite p c off size v) c).tq.base =
      if (bindOf p c).tq.used = 0 ∧ baseValue (bindOf p c).tq.base off size v % 64 = 0
        then baseValue (bindOf p c).tq.base off size v else (bindOf p c).tq.base := by
  rw [← ite_ringBase, bindPageWrite, bindOf_modBind_same]
  simp only [h, if_true, ringEmpty, decide_eq_true_eq]
  split <;> rfl

theorem bindPageWrite_fqBase {off size : Nat} (h : off = 0x40 ∨ off = 0x44 ∧ size = 4) (p : Pkg) (c v : Nat) :
    (bindOf (bindPageWrite p c off size v) c).fqBase =
      if (bindOf p c).fqHead = (bindOf p c).fqTail ∧ baseValue (bindOf p c).fqBase off size v % 64 = 0
        then baseValue (bindOf p c).fqBase off size v else (bindOf p c).fqBase := by
  have htq : ¬ (off = 0 ∨ off = 4 ∧ size = 4) := by omega
  have hlog : off ≠ 8 := by omega
  rw [← ite_ringBase, bindPageWrite, bindOf_modBind_same]
  simp only [htq, hlog, h, if_true, if_false, decide_eq_true_eq]
  split <;> rfl

/-- A base or a size of a mailbox page, written at its own offset (Table 13-4). -/
theorem ringBaseWrite_mailbox {off size : Nat} (h : size = 4 ∧ off < 0x1000 ∧ off ≠ 0x14 ∧ off ≠ 0x1C ∨ size = 8 ∧ (off = 0 ∨ off = 8))
    (p : Pkg) (k c v : Nat) : ringBaseWrite p k c off size v = mailboxWrite p k off size v := by
  unfold ringBaseWrite
  rcases h with ⟨rfl, hpage, htail, hhead⟩ | ⟨rfl, hbase⟩
  · simp [hpage, mailWordWrite, htail, hhead]
  · simp [show off < 0x1000 by omega, hbase]

/-- A base or a size of the binding page, written at its own offset (Table 13-4). -/
theorem ringBaseWrite_bindPage {off size : Nat} (hpage : 0x100000 ≤ off)
    (h : size = 4 ∧ off ≠ 0x10000C ∧ off ≠ 0x10004C ∨ size = 8 ∧ (off = 0x100000 ∨ off = 0x100040)) (p : Pkg) (k c v : Nat) :
    ringBaseWrite p k c off size v = bindPageWrite p c (off - 0x100000) size v := by
  unfold ringBaseWrite
  rw [if_neg (by omega), if_pos hpage]
  rcases h with ⟨rfl, hhead, htail⟩ | ⟨rfl, hbase⟩
  · simp [bindWordWrite, show off - 0x100000 ≠ 0xC by omega, show off - 0x100000 ≠ 0x4C by omega]
  · simp [show off - 0x100000 = 0 ∨ off - 0x100000 = 0x40 by omega]

/-- A write of a mailbox page but for its doorbell reaches no other core, and one of a whole base of the binding page reaches none. -/
theorem ringBaseWrite_others {off size : Nat}
    (h : size = 4 ∧ off < 0x100000 ∧ off ≠ 0x14 ∨ size = 8 ∧ off ∈ [0, 8, 0x100000, 0x100040]) (p : Pkg) {k d : Nat} (c v : Nat) (hd : d ≠ k) :
    hcoreOf (ringBaseWrite p k c off size v) d = hcoreOf p d := by
  have hcore (f : HCore → HCore) : hcoreOf (modHcore p k f) d = hcoreOf p d := by rw [hcoreOf_modHcore, if_neg hd]
  rcases h with ⟨rfl, hbelow, htail⟩ | ⟨rfl, hbase⟩
  · by_cases hpage : off < 0x1000
    · simp only [ringBaseWrite, hpage, if_true, mailWordWrite, htail, if_false]
      split
      · exact hcore _
      · exact hcore _
    · simp [ringBaseWrite, hpage, Nat.not_le.mpr hbelow]
  · simp only [List.mem_cons, List.not_mem_nil, or_false] at hbase
    rcases hbase with rfl | rfl | rfl | rfl
    · exact hcore _
    · exact hcore _
    · rfl
    · rfl

/-! #### The commands -/

section Commands

variable {s : State} {k c : Nat} {v : Word32} {mem : Stores}

theorem mbCmdTail_accessesOnly (hp : powered s.pkg = true) (hc : coreCtx s.pkg k = some c) (hr : programRuns s.pkg c = true)
    (h : 2 ^ (hcoreOf (afterAccesses s.pkg k c mem) k).cmdLog ≤ v.toNat % 2 ^ 16 ∨ latest (.hndMbCmdTail k v mem) s = false ∨
      (bindOf (afterAccesses s.pkg k c mem) c).st ≠ 2) :
    exec (.hndMbCmdTail k v mem) s = .next { s with pkg := afterAccesses s.pkg k c mem } := by
  rw [exec_hndMbCmdTail, execHndMbCmdTail, byPage_next hp hc hr]
  rcases h with hout | hlate | hst
  · simp only [mailDoorbell_outside hout, ite_self]
  · simp only [hlate, Bool.false_eq_true, if_false, ite_self]
  · simp only [hst, if_false]

theorem mbReplyHead_accessesOnly (hp : powered s.pkg = true) (hc : coreCtx s.pkg k = some c) (hr : programRuns s.pkg c = true)
    (h : latest (.hndMbReplyHead k v mem) s = false ∨ (bindOf (afterAccesses s.pkg k c mem) c).st ≠ 2) :
    exec (.hndMbReplyHead k v mem) s = .next { s with pkg := afterAccesses s.pkg k c mem } := by
  rw [exec_hndMbReplyHead, execHndMbReplyHead, byPage_next hp hc hr]
  rcases h with hlate | hst
  · simp only [hlate, Bool.false_eq_true, if_false, ite_self]
  · simp only [hst, if_false]

/-- A reply head outside the records, or one that is not taken, leaves the core as the accesses left it. -/
theorem mbReplyHead_ignores (hp : powered s.pkg = true) (hc : coreCtx s.pkg k = some c) (hr : programRuns s.pkg c = true)
    (h : ringConsume (hcoreOf (afterAccesses s.pkg k c mem) k).reply v.toNat = (hcoreOf (afterAccesses s.pkg k c mem) k).reply) :
    Does (.hndMbReplyHead k v mem) s fun q => hcoreOf q k = hcoreOf (afterAccesses s.pkg k c mem) k := by
  by_cases hacts : latest (.hndMbReplyHead k v mem) s = true ∧ (bindOf (afterAccesses s.pkg k c mem) c).st = 2
  · refine does_of_byPage ((exec_hndMbReplyHead k v mem s).trans rfl) hp hc hr hacts.2 ?_
    simp only [hacts.1, if_true, hcoreOf_modHcore_same, h]
  · refine ⟨_, mbReplyHead_accessesOnly hp hc hr ?_, rfl⟩
    by_cases hlate : latest (.hndMbReplyHead k v mem) s = true
    · exact .inr fun hst => hacts ⟨hlate, hst⟩
    · exact .inl (Bool.eq_false_iff.mpr hlate)

end Commands

/-- Settles O50: a tail by the fetch that follows it, a head by the records it passes, a base or a size by the write of its own page. -/
theorem houndRings : Obligations.HoundRings := by
  refine ⟨fun s k c v mem hp hc hr => ⟨mbCmdTail_accessesOnly hp hc hr, fun hlast hi hst => ?tail,
      fun hlast hi hmem hwf hctx hfw hin hlive hfetch hwaits hnext hroom htype => ?taken⟩,
    fun s k c v mem hp hc hr => ⟨mbReplyHead_accessesOnly hp hc hr, fun hlast hst hi hn => ?reply,
      fun h => mbReplyHead_ignores hp hc hr (ringConsume_ignores h)⟩,
    fun s c v mem hp hr => ⟨fun hlast hst hi hn => ?token, fun h => ?tokenKept⟩,
    fun s k c off size v mem hp hc hr hst => ?bases⟩
  case tail =>
    refine does_of_byPage ((exec_hndMbCmdTail k v mem s).trans rfl) hp hc hr hst ?_
    simp only [hlast, if_true]
    exact mailDoorbell_cmdTail hi
  case taken =>
    subst hmem
    have hst : (bindOf s.pkg c).st = 2 := running_of_programRuns hr
    refine does_of_byPage ((exec_hndMbCmdTail k v [] s).trans rfl) hp hc hr hst ?_
    simp only [hlast, if_true]
    have hadmit {t : Nat} (h : t ∈ [2, 3, 4, 5, 10]) : t ≠ 1 := by rintro rfl; exact absurd h (by decide)
    rw [mailDoorbell_takes (p := afterAccesses s.pkg k c []) hc hst hctx hfw hi hin hfetch hwaits hnext hroom (hadmit htype)]
    exact ⟨rfl, by rw [hlive]; rfl, rfl⟩
  case reply =>
    refine does_of_byPage ((exec_hndMbReplyHead k v mem s).trans rfl) hp hc hr hst ?_
    simp only [hlast, if_true, hcoreOf_modHcore_same, ringConsume_passes hi hn]
  case token =>
    refine does_of_act (by rw [exec_hndTqHead, execHndTqHead, byProgram]) (by simp [hp, hr]) ?_
    simp only [hst, hlast, and_self, if_true]
    obtain ⟨htq, hstall⟩ := tqHeadWrite_tq (progStores s.pkg c (runner s.pkg c) mem) c v.toNat
    exact ⟨htq.trans (ringConsume_passes hi hn), hstall⟩
  case tokenKept =>
    refine does_of_act (by rw [exec_hndTqHead, execHndTqHead, byProgram]) (by simp [hp, hr]) ?_
    dsimp only
    split
    · next hacts =>
      rw [(tqHeadWrite_tq _ c _).1]
      exact ringConsume_ignores (h.imp_right fun h => h.elim (by simp [hacts.2]) fun h => absurd hacts.1 h)
    · rfl
  case bases =>
    refine does_of_byPage ((exec_hndRingBaseWrite k off ⟨size, v⟩ mem s).trans rfl) hp hc hr hst ?_
    dsimp only
    refine ⟨fun h => ?cmdBase, fun h => ?replyBase, fun hoff hsize => ?cmdLog, fun h => ?tqBase, fun h => ?fqBase,
      fun h d hd => ringBaseWrite_others h _ c _ hd⟩
    case cmdBase =>
      rw [ringBaseWrite_mailbox (by omega), mailboxWrite_cmdBase (by omega)]
      rcases h with ⟨rfl, rfl⟩ | ⟨rfl | rfl, rfl⟩ <;> rfl
    case replyBase =>
      rw [ringBaseWrite_mailbox (by omega), mailboxWrite_replyBase (by omega)]
      rcases h with ⟨rfl, rfl⟩ | ⟨rfl | rfl, rfl⟩ <;> rfl
    case cmdLog =>
      subst hoff hsize
      rw [ringBaseWrite_mailbox (by omega)]
      exact mailboxWrite_cmdLog _ k _
    case tqBase =>
      rw [ringBaseWrite_bindPage (by omega) (by omega), bindPageWrite_tqBase (by omega)]
      rcases h with ⟨rfl, rfl⟩ | ⟨rfl | rfl, rfl⟩ <;> rfl
    case fqBase =>
      rw [ringBaseWrite_bindPage (by omega) (by omega), bindPageWrite_fqBase (by omega)]
      rcases h with ⟨rfl, rfl⟩ | ⟨rfl | rfl, rfl⟩ <;> rfl

end Sys2Proof.Machine
end

section
/-! PROOFS. The firmware's decision at the end of a layer's run (R95 to R100, R146) and the end of a step job (R188): what each operation on the
way leaves of the running step of its pen. -/

namespace Sys2Proof.Machine

section RunningStep

variable {p : Pkg} {n : Nat} {t : Step}

/-! #### The running step of a pen -/

theorem stepNow_of_step (h : (penOf p n).step = some t) : stepNow p n = t := by
  simp [stepNow, h]

theorem step_of_stepRuns (h : stepRuns p n = true) : (penOf p n).step = some (stepNow p n) := by
  simp only [stepRuns, Bool.and_eq_true, Option.isSome_iff_exists] at h
  obtain ⟨⟨_, t, ht⟩, _⟩ := h
  rw [ht, stepNow_of_step ht]

theorem modStep_step (h : (penOf p n).step = some t) (f : Step → Step) : (penOf (modStep p n f) n).step = some (f t) := by
  simp [modStep, h]

theorem modPen_step_of_kept (p : Pkg) (n : Nat) {f : Pen → Pen} (h : ∀ x, (f x).step = x.step) :
    (penOf (modPen p n f) n).step = (penOf p n).step := by
  simp [h]

@[simp] theorem imageOf_modStep (p : Pkg) (n : Nat) (f : Step → Step) : imageOf (modStep p n f) n = imageOf p n := by
  simp [imageOf, modStep]

@[simp] theorem gateOfLayer_modStep (p : Pkg) (n layer : Nat) (f : Step → Step) :
    gateOfLayer (modStep p n f) n layer = gateOfLayer p n layer := by
  simp [gateOfLayer, runsOfPen, setOf, arrOf]

@[simp] theorem penOf_modSetRuns (p : Pkg) (n : Nat) (ok : SegRun → Bool) (f : SegRun → SegRun) (g : SegRun → ArrData → ArrData) (m : Nat) :
    penOf (modSetRuns p n ok f g) m = penOf p m := penOf_congr (by simp) m

@[simp] theorem penOf_logLayer (p : Pkg) (n layer code : Nat) (s : Summary) (m : Nat) : penOf (logLayer p n layer code s) m = penOf p m :=
  penOf_congr (by simp [logLayer]) m

@[simp] theorem penOf_nextFree (p : Pkg) (m : Nat) : penOf (nextFree p) m = penOf p m := rfl

/-! #### A release -/

theorem completeGen_step (h : (penOf p n).step = some t) (b : Nat) :
    (penOf (completeGen p n b) n).step = some { t with barGen := tset 0 t.barGen b (tget 0 t.barGen b + 1) } := by
  simp [completeGen, modStep_step h, stepNow_of_step h]

@[simp] theorem imageOf_completeGen (p : Pkg) (n b : Nat) : imageOf (completeGen p n b) n = imageOf p n := by
  simp [imageOf, completeGen, modStep]

theorem routerReleased_of_no_routing (h : (imageOf p n).routing = none) (layer : Nat) : routerReleased p n layer = p := by
  simp [routerReleased, routingNow, h]

theorem expertsReleased_of_none_decided (h : (stepNow p n).decided = []) (layer : Nat) : expertsReleased p n layer = p := by
  simp [expertsReleased, h]

/-- A release completes one generation of the gate and empties the layer's summary; without routing nothing of an exchange begins with it. -/
theorem releaseLayer_step (h : (penOf p n).step = some t) (hr : (imageOf p n).routing = none) (hd : t.decided = []) (layer : Nat) :
    ∃ rs is, (penOf (releaseLayer p n layer) n).step = some
      { t with
        barGen := tset 0 t.barGen (gateOfLayer p n layer) (tget 0 t.barGen (gateOfLayer p n layer) + 1)
        summary := tset {} t.summary layer {}, runRecs := rs, inputs := is } := by
  have hgen := modStep_step (completeGen_step h (gateOfLayer p n layer))
  unfold releaseLayer
  extract_lets i p1 t1 p2
  have himage : imageOf p2 n = imageOf p n := by
    have hpen : imageOf p2 n = imageOf p1 n := by simp only [imageOf, p2, penOf_modSetRuns]
    simpa [p1] using hpen
  have hstep : (penOf p2 n).step = (penOf p1 n).step := by simp only [p2, penOf_modSetRuns]
  rw [hgen] at hstep
  rw [routerReleased_of_no_routing (himage ▸ hr), expertsReleased_of_none_decided (by rw [stepNow_of_step hstep]; exact hd)]
  exact ⟨_, _, hstep⟩

/-! #### A run that starts again -/

theorem restartRuns_step (h : (penOf p n).step = some t) (ok : SegRun → Bool) (layerOf : SegRun → Nat) :
    ∃ gs, (penOf (restartRuns p n ok layerOf) n).step = some { t with barGen := gs } :=
  ⟨_, modStep_step (by rw [penOf_modSetRuns, h]) _⟩

/-- A run that starts again has a summary of its new kind alone, and its retained input. -/
theorem replayLayer_step (h : (penOf p n).step = some t) (layer kind : Nat) :
    ∃ is gs, (penOf (replayLayer p n layer kind) n).step = some
      { t with summary := tset {} t.summary layer { kind := kind }, inputs := is, barGen := gs } :=
  ⟨_, restartRuns_step (modStep_step h _) _ _⟩

/-- The layers that go over to their wide runs change their summaries and their retained input alone. -/
theorem foldl_inputAgain (ls : List Nat) (t : Step) :
    ∃ ms is, ls.foldl (fun t l => inputAgain { t with summary := tset {} t.summary l { ({} : Summary) with kind := 2 } } l) t =
      { t with summary := ms, inputs := is } := by
  induction ls generalizing t with
  | nil => exact ⟨_, _, rfl⟩
  | cons l ls ih => exact ih _

theorem moveWaiting_step (h : (penOf p n).step = some t) (g : Nat) :
    ∃ ms is gs, (penOf (moveWaiting p n g) n).step = some { t with summary := ms, inputs := is, barGen := gs } := by
  obtain ⟨ms, is, hfold⟩ := foldl_inputAgain (layersMoving p n g) t
  unfold moveWaiting
  extract_lets i ls blank p1
  have h1 : (penOf p1 n).step = some { t with summary := ms, inputs := is } := (modStep_step h _).trans (congrArg some hfold)
  exact ⟨ms, is, restartRuns_step h1 _ _⟩

/-! #### The two answers to trouble -/

/-- The first trouble of a layer moves one of its two exponents and replays the run (R98). -/
theorem rescale_step (h : (penOf p n).step = some t) (layer : Nat) (r : LRec) (m : Summary) :
    ∃ is gs, (penOf (rescale p n layer r m) n).step = some
      { t with
        troubles := tset 0 t.troubles layer 1
        clip := if 0 < m.ovf ∧ 0 < r.clip then tset ((imageOf p n).recs.getD layer {}).clip t.clip layer (r.clip - 1) else t.clip
        base := if 0 < m.ovf ∧ 0 < r.clip then t.base
          else tset ((imageOf p n).recs.getD layer {}).base t.base layer (min (r.base + 1) 63)
        summary := tset {} t.summary layer { kind := 1 }, inputs := is, barGen := gs } := by
  unfold rescale
  extract_lets first p1 p2 p3
  have h2 : (penOf p2 n).step = (penOf p1 n).step := modPen_step_of_kept _ _ fun _ => rfl
  have h3 : (penOf p3 n).step = (penOf p2 n).step := by
    simp only [p3]
    split
    · rw [penOf_logLayer]
      exact modPen_step_of_kept _ _ fun _ => rfl
    · rfl
  exact replayLayer_step (h3.trans (h2.trans (modStep_step h _))) layer 1

/-- A further trouble puts the layer among the wide ones and runs it again (R99). -/
theorem widenLayer_step (h : (penOf p n).step = some t) (layer : Nat) (m : Summary) :
    ∃ ms is gs, (penOf (widenLayer p n layer m) n).step = some
      { t with
        troubles := tset 0 t.troubles layer 2, widened := t.widened ++ [layer]
        summary := tset {} ms layer { kind := 2 }, inputs := is, barGen := gs } := by
  unfold widenLayer
  extract_lets p1 p2 p3
  have h1 := modStep_step h fun t => { t with troubles := tset 0 t.troubles layer 2, widened := t.widened ++ [layer] }
  have h2 : (penOf p2 n).step = (penOf p1 n).step := by
    rw [penOf_nextFree]
    exact modPen_step_of_kept _ _ fun _ => rfl
  obtain ⟨ms, _, _, h3⟩ := moveWaiting_step (h2.trans h1) (gateOfLayer p2 n layer)
  have h4 : (penOf (logLayer p3 n layer codeLayerWidened m) n).step = _ := (congrArg Pen.step (penOf_logLayer ..)).trans h3
  obtain ⟨is, gs, h5⟩ := replayLayer_step h4 layer 2
  exact ⟨ms, is, gs, h5⟩

/-! #### LAYER_DONE -/

/-- The package with a layer's complete summary. -/
def noteDone (p : Pkg) (n layer : Nat) (m : Summary) : Pkg := modStep p n fun y => { y with done := tset {} y.done layer m }

theorem noteDone_step (h : (penOf p n).step = some t) (layer : Nat) (m : Summary) :
    (penOf (noteDone p n layer m) n).step = some { t with done := tset {} t.done layer m } := modStep_step h _

section Decisions

variable {layer : Nat} {r : LRec} {m : Summary}
  (hr : r = recOf (imageOf p n) (stepNow p n) layer)
  (hm : m = { tget {} (stepNow p n).summary layer with clip := r.clip, base := r.base })

include hr hm

theorem layerDoneOp_of_calm (hcalm : inTrouble r m = false) :
    layerDoneOp p n layer = releaseLayer (noteDone p n layer m) n layer := by
  subst hr hm
  simp [layerDoneOp, hcalm, noteDone]

theorem layerDoneOp_of_first_trouble (htrouble : inTrouble r m = true) (hwide : r.wide = false) (hsch : r.oSch = 3)
    (hfirst : tget 0 (stepNow p n).troubles layer = 0) :
    layerDoneOp p n layer = rescale (noteDone p n layer m) n layer r m := by
  subst hr hm
  simp [layerDoneOp, htrouble, hwide, hsch, hfirst, noteDone]

theorem layerDoneOp_of_further_trouble (htrouble : inTrouble r m = true) (hwide : r.wide = false) (hsch : r.oSch = 3)
    (hagain : tget 0 (stepNow p n).troubles layer ≠ 0) :
    layerDoneOp p n layer = widenLayer (noteDone p n layer m) n layer m := by
  subst hr hm
  simp [layerDoneOp, htrouble, hwide, hsch, hagain, noteDone]

end Decisions

theorem layerDone_does {s : State} {pen layer : Nat} {post : Pkg → Prop} (hruns : stepRuns s.pkg pen = true)
    (hheld : layerHeld s.pkg pen layer = true) (hpost : post (layerDoneOp s.pkg pen layer)) : Does (.layerDone pen layer) s post :=
  does_of_act ((exec_layerDone pen layer s).trans rfl) (by rw [hruns, hheld]; rfl) hpost

/-! #### STEP_DONE -/

/-- What is delivered and ended at a turn's end leaves the Leash. -/
@[simp] theorem turnEnd_keeps_lsh (p : Pkg) (e : Nat) : (turnEnd p e).lsh = p.lsh := by
  unfold turnEnd
  dsimp only
  split <;> simp

@[simp] theorem deliver_keeps_lsh (p : Pkg) (e : Nat) (s : Selection) : (deliver p e s).lsh = p.lsh := by
  unfold deliver
  dsimp only
  split <;> split <;> simp

@[simp] theorem retireOne_keeps_lsh (p : Pkg) (t : Step) (e : Nat) : (retireOne p t e).lsh = p.lsh := by
  unfold retireOne
  dsimp only
  (repeat' split) <;> simp

theorem forAll_retireOne_lsh (l : List Nat) (t : Step) (p : Pkg) : (forAll l (fun q e => retireOne q t e) p).lsh = p.lsh :=
  forAll_lsh _ _ _ fun _ _ => retireOne_keeps_lsh _ _ _

/-- The end of a step leaves the pen's control fields, but for the step and its count; the trot stays active for a while (R400). -/
theorem stepDoneOp_ends (p : Pkg) (n : Nat) :
    (penOf (stepDoneOp p n) n).step = none ∧ (penOf (stepDoneOp p n) n).stepCount = inc64 (penOf p n).stepCount ∧
      (penOf (stepDoneOp p n) n).st = (penOf p n).st ∧ (penOf (stepDoneOp p n) n).image = (penOf p n).image ∧
      (stepDoneOp p n).lsh.trotUntil = now p + 10000 := by
  unfold stepDoneOp
  extract_lets ended fed next p1 p2 p3 leash p4 p5
  have hp1 : penOf p1 n = penOf p n := penOf_congr (by simp [p1]) n
  have hcounted : penHead true p3 n = penHead true p2 n := by
    simp only [p3]
    split
    · rfl
    · exact newCount_head _ _ _
  have hretired : penHead true p5 n = penHead true p4 n := forAll_head _ _ _ _ fun _ _ => retireOne_head _ _ _ _
  have hhead : penHead true (modPool p5 n fun o => ended.pins.foldl unpinFrame o) n = penHead true p2 n :=
    ((modPool_head _ _ _ _).trans hretired).trans hcounted
  have hnow : now p3 = now p := by
    have htick : p3.tick = p2.tick := by
      simp only [p3]
      split <;> simp
    simp only [now, htick]
    simp [p2, p1]
  refine ⟨?_, ?_, ?_, ?_, ?_⟩
  · simpa [p2] using penHead_step hhead
  · rw [penHead_stepCount hhead]
    simp [p2, hp1]
  · rw [penHead_st hhead]
    simp [p2, hp1]
  · rw [penHead_image hhead]
    simp [p2, hp1]
  · simp only [modPool_keeps, p5, forAll_retireOne_lsh]
    simp only [p4, hnow]

end RunningStep

/-! #### The decisions -/

/-- Settles O20: each decision by the step that its operation leaves, and the end of a step by the pen's control fields. -/
theorem layerDecisions : Obligations.LayerDecisions := by
  refine ⟨fun s pen layer r m hruns hheld hr hm => ?_, fun s pen hruns hended hchosen => ?_⟩
  · have hdone := noteDone_step (step_of_stepRuns hruns) layer m
    refine ⟨fun hcalm hrouting hdecided => ?_, fun htrouble hwide hsch hfirst => ?_, fun htrouble hwide hsch hagain => ?_⟩ <;>
      apply layerDone_does hruns hheld
    · obtain ⟨rs, is, hq⟩ := releaseLayer_step hdone (by rwa [noteDone, imageOf_modStep]) hdecided layer
      rw [layerDoneOp_of_calm hr hm hcalm, stepNow_of_step hq]
      simp [noteDone]
    · obtain ⟨is, gs, hq⟩ := rescale_step hdone layer r m
      rw [layerDoneOp_of_first_trouble hr hm htrouble hwide hsch hfirst, stepNow_of_step hq]
      refine ⟨by simp, by simp, by simp, rfl, fun hovf hclip => ?_, fun hnone => ?_⟩
      · simp [hovf, hclip, noteDone]
      · have hraise : ¬ (0 < m.ovf ∧ 0 < r.clip) := by omega
        simp only [if_neg hraise, noteDone, imageOf_modStep, tget_tset_same, and_self]
    · obtain ⟨ms, is, gs, hq⟩ := widenLayer_step hdone layer m
      rw [layerDoneOp_of_further_trouble hr hm htrouble hwide hsch hagain, stepNow_of_step hq]
      simp
  · exact does_of_act ((exec_stepDone pen s).trans rfl) (by rw [hruns, hended, hchosen]; rfl) (stepDoneOp_ends s.pkg pen)

end Sys2Proof.Machine
end

section
/-! PROOFS. Every step keeps the canonical form of every byte memory: one lemma for each operation that can write one, from the operations on
tables and pools up to the commands (R107, R157, R317, R358, R417). -/

namespace Sys2Proof.Machine

/-! #### Tables whose every value has a property -/

/-- A property of every value that a table lists. -/
def AllOf {α : Type} (P : α → Prop) (t : Tab α) : Prop := ∀ e ∈ t, P e.2

section AllOf
variable {α : Type} {P : α → Prop}

theorem allOf_nil : AllOf P [] := fun _ h => by cases h

theorem AllOf.get {d : α} {t : Tab α} (h : AllOf P t) (hd : P d) (n : Nat) : P (tget d t n) := by
  induction t with
  | nil => exact hd
  | cons e t ih =>
    obtain ⟨k, v⟩ := e
    unfold tget
    split
    · exact h _ List.mem_cons_self
    · exact ih fun e he => h e (List.mem_cons_of_mem _ he)

theorem AllOf.del {t : Tab α} (h : AllOf P t) (n : Nat) : AllOf P (tdel t n) := by
  induction t with
  | nil => exact h
  | cons e t ih =>
    obtain ⟨k, v⟩ := e
    have ht : AllOf P t := fun e he => h e (List.mem_cons_of_mem _ he)
    unfold tdel
    split
    · exact ih ht
    · exact List.forall_mem_cons.mpr ⟨h _ List.mem_cons_self, ih ht⟩

theorem AllOf.ins {t : Tab α} {x : α} (h : AllOf P t) (hx : P x) (n : Nat) : AllOf P (tins n x t) := by
  induction t with
  | nil => exact List.forall_mem_cons.mpr ⟨hx, h⟩
  | cons e t ih =>
    obtain ⟨k, v⟩ := e
    have ht : AllOf P t := fun e he => h e (List.mem_cons_of_mem _ he)
    unfold tins
    (repeat' split)
    · exact List.forall_mem_cons.mpr ⟨hx, h⟩
    · exact List.forall_mem_cons.mpr ⟨hx, ht⟩
    · exact List.forall_mem_cons.mpr ⟨h _ List.mem_cons_self, ih ht⟩

theorem AllOf.set [DecidableEq α] {d : α} {t : Tab α} {x : α} (h : AllOf P t) (hx : P x) (n : Nat) : AllOf P (tset d t n x) := by
  unfold tset
  split
  · exact h.del n
  · exact h.ins hx n

theorem AllOf.mod [DecidableEq α] {d : α} {t : Tab α} {f : α → α} (h : AllOf P t) (hd : P d) (hf : ∀ x, P x → P (f x)) (n : Nat) :
    AllOf P (tmod d t n f) := h.set (hf _ (h.get hd n)) n

theorem AllOf.map [DecidableEq α] {d : α} {t : Tab α} {f : Nat → α → α} (h : AllOf P t) (hf : ∀ n x, P x → P (f n x)) :
    AllOf P (tmap d f t) := by
  intro e he
  obtain ⟨e', he', rfl⟩ := List.mem_map.mp (List.mem_of_mem_filter he)
  exact hf _ _ (h _ he')

/-- A fold keeps a property that each of its steps keeps. -/
theorem foldl_inv {α β : Type} {P : β → Prop} (l : List α) {f : β → α → β} {b : β} (h : P b) (hf : ∀ b x, P b → P (f b x)) :
    P (l.foldl f b) := by
  induction l generalizing b with
  | nil => exact h
  | cons x l ih => exact ih (hf _ _ h)

end AllOf

/-! #### The memories, part by part -/

/-- A byte memory in canonical form. -/
def MemOk (t : Tab Byte) : Prop := twf 0 t = true

/-- The local SRAM that a fold switch has saved, if any, is in canonical form. -/
def SavedOk (o : Option ArrData) : Prop := ∀ d, o = some d → MemOk d.sram

/-- The local SRAM of an array and its saved copy are in canonical form. -/
def ArrMem (x : Arr) : Prop := MemOk x.data.sram ∧ SavedOk x.saved

/-- The frames of a pool are in canonical form. -/
def FramesOk (t : Tab Frame) : Prop := AllOf (fun f => MemOk f.data) t

/-- The buffers of an image are in canonical form. -/
def BufsOk (t : Tab Buf) : Prop := AllOf (fun b => MemOk b.data) t

/-- The buffers and the frames of a pen are in canonical form. -/
def PenMem (x : Pen) : Prop := BufsOk x.bufs ∧ FramesOk x.pool.tab

/-- Every byte memory of the package is in canonical form. -/
structure Canon (p : Pkg) : Prop where
  arrays : AllOf ArrMem p.arrays
  pens : AllOf PenMem p.pens
  binds : AllOf (fun b => MemOk b.mem) p.hnd.binds
  staging : MemOk p.mgt.staging

/-- The canonical form of the memories of a package, as its statement says it, is that of its parts. -/
theorem memory_wf_iff (p : Pkg) : Memory.wf p = true ↔ Canon p := by
  have saved (x : Arr) : (∀ t ∈ (match x.saved with | some d => [d.sram] | none => []), MemOk t) ↔ SavedOk x.saved := by
    unfold SavedOk
    cases x.saved <;> simp
  simp only [Memory.wf, memories, List.all_append, Bool.and_eq_true, List.all_eq_true, List.mem_flatMap, List.mem_map, List.mem_append,
    List.mem_cons, List.not_mem_nil, or_false, and_assoc]
  constructor
  · rintro ⟨harr, hpens, hbinds, hstaging⟩
    exact
      { arrays := fun e he => ⟨harr _ ⟨e, he, .inl rfl⟩, (saved e.2).mp fun t ht => harr t ⟨e, he, .inr ht⟩⟩
        pens := fun e he =>
          ⟨fun b hb => hpens _ ⟨e, he, .inl ⟨b, hb, rfl⟩⟩, fun f hf => hpens _ ⟨e, he, .inr ⟨f, hf, rfl⟩⟩⟩
        binds := fun b hb => hbinds _ ⟨b, hb, rfl⟩
        staging := hstaging _ rfl }
  · rintro ⟨harr, hpens, hbinds, hstaging⟩
    refine ⟨?_, ?_, ?_, ?_⟩
    · rintro t ⟨e, he, rfl | ht⟩
      · exact (harr e he).1
      · exact (saved e.2).mpr (harr e he).2 t ht
    · rintro t ⟨e, he, ⟨b, hb, rfl⟩ | ⟨f, hf, rfl⟩⟩
      · exact (hpens e he).1 b hb
      · exact (hpens e he).2 f hf
    · rintro t ⟨b, hb, rfl⟩
      exact hbinds b hb
    · rintro t rfl
      exact hstaging

theorem memOk_nil : MemOk [] := rfl
theorem memOk_tsetList {t : Tab Byte} {n : Nat} {b : Bytes} (h : MemOk t) : MemOk (tsetList 0 t n b) := tsetList_twf 0 b t n h
theorem memOk_tset {t : Tab Byte} {n : Nat} {b : Byte} (h : MemOk t) : MemOk (tset 0 t n b) := tset_twf 0 t n b h
theorem savedOk_none : SavedOk none := fun _ h => by cases h
theorem savedOk_some {d : ArrData} (h : MemOk d.sram) : SavedOk (some d) := fun _ hd => by cases hd; exact h
theorem savedOk_map {o : Option ArrData} {f : ArrData → ArrData} (h : SavedOk o) (hf : ∀ d, MemOk d.sram → MemOk (f d).sram) :
    SavedOk (o.map f) := by
  intro d hd
  obtain ⟨d', hd', rfl⟩ := Option.map_eq_some_iff.mp hd
  exact hf _ (h d' hd')
theorem savedOk_getD {o : Option ArrData} (h : SavedOk o) : MemOk (o.getD {}).sram := by
  cases o with
  | none => exact memOk_nil
  | some d => exact h d rfl

theorem BufsOk.mod {t : Tab Buf} {n : Nat} {f : Buf → Buf} (h : BufsOk t) (hf : ∀ x, MemOk x.data → MemOk (f x).data) :
    BufsOk (tmod {} t n f) := AllOf.mod (P := fun b : Buf => MemOk b.data) h memOk_nil hf n
theorem FramesOk.set {t : Tab Frame} {n : Nat} {x : Frame} (h : FramesOk t) (hx : MemOk x.data) : FramesOk (tset {} t n x) :=
  AllOf.set h hx n
theorem FramesOk.mod {t : Tab Frame} {n : Nat} {f : Frame → Frame} (h : FramesOk t) (hf : ∀ x, MemOk x.data → MemOk (f x).data) :
    FramesOk (tmod {} t n f) := AllOf.mod (P := fun b : Frame => MemOk b.data) h memOk_nil hf n
theorem FramesOk.get {t : Tab Frame} {n : Nat} (h : FramesOk t) : MemOk (tget {} t n).data :=
  AllOf.get (P := fun b : Frame => MemOk b.data) h memOk_nil n

theorem penMem_empty : PenMem {} := ⟨allOf_nil, allOf_nil⟩
theorem arrMem_empty : ArrMem {} := ⟨memOk_nil, savedOk_none⟩

section Parts
variable {p : Pkg}
theorem Canon.pen (h : Canon p) (n : Nat) : PenMem (penOf p n) := h.pens.get penMem_empty n
theorem Canon.arr (h : Canon p) (a : Nat) : ArrMem (arrOf p a) := h.arrays.get arrMem_empty a
theorem Canon.bind (h : Canon p) (c : Nat) : MemOk (bindOf p c).mem :=
  AllOf.get (P := fun b : HBind => MemOk b.mem) h.binds memOk_nil c
theorem Canon.pool (h : Canon p) (n : Nat) : FramesOk (poolOf p n).tab := (h.pen n).2
end Parts

/-! #### Pools -/

theorem takeFrame_frames {o o' : Pool} {q refs pins f : Nat} (h : takeFrame o q refs pins = some (f, o')) (ho : FramesOk o.tab) :
    FramesOk o'.tab := by
  unfold takeFrame at h
  split at h
  · cases h
  · split at h
    · cases h
    · cases h
      dsimp only
      exact FramesOk.set ho memOk_nil
theorem modFrame_frames {o : Pool} {f : Nat} {g : Frame → Frame} (h : FramesOk o.tab)
    (hg : ∀ x, MemOk x.data → MemOk (g x).data) : FramesOk { o with tab := tmod {} o.tab f g }.tab := h.mod hg
theorem dropRef_frames {o : Pool} {f : Nat} (h : FramesOk o.tab) : FramesOk (dropRef o f).tab := modFrame_frames h fun _ => id
theorem pinFrame_frames {o : Pool} {f : Nat} (h : FramesOk o.tab) : FramesOk (pinFrame o f).tab := modFrame_frames h fun _ => id
theorem unpinFrame_frames {o : Pool} {f : Nat} (h : FramesOk o.tab) : FramesOk (unpinFrame o f).tab := modFrame_frames h fun _ => id
theorem sweepFrames_frames {o : Pool} (h : FramesOk o.tab) : FramesOk (sweepFrames o).tab := by
  unfold sweepFrames
  dsimp only
  refine AllOf.map h fun _ x hx => ?_
  split
  · exact memOk_nil
  · exact hx
theorem takeBlock_frames {o o' : Pool} {b : Nat} (h : takeBlock o = some (b, o')) (ho : FramesOk o.tab) : FramesOk o'.tab := by
  unfold takeBlock at h
  dsimp only at h
  split at h
  · next hd =>
    cases h
    exact FramesOk.set ho (ho _ (List.mem_of_mem_filter (List.mem_of_mem_head? hd)))
  · split at h
    · cases h
    · cases h
      dsimp only
      exact FramesOk.set ho memOk_nil
theorem freeBlock_frames {o : Pool} {b : Nat} (h : FramesOk o.tab) : FramesOk (freeBlock o b).tab := by
  refine modFrame_frames h fun x hx => ?_
  extract_lets m
  split
  · exact memOk_nil
  · exact hx
theorem keepBad_frames {t : Tab Frame} (h : FramesOk t) : FramesOk (keepBad t) := AllOf.map h fun _ _ _ => memOk_nil
theorem bindPool_frames {p : Pkg} {n : Nat} {i : Image} : FramesOk (bindPool p n i).tab :=
  foldl_inv _ (P := FramesOk) allOf_nil fun _ _ h => h.set memOk_nil
theorem takeFrames_frames {o : Pool} {n : Nat} (h : FramesOk o.tab) : FramesOk (takeFrames o n).2.tab :=
  foldl_inv _ (P := FramesOk) h fun _ _ h => h.set memOk_nil
theorem foldl_unpin_frames {l : List Nat} {o : Pool} (h : FramesOk o.tab) : FramesOk (l.foldl unpinFrame o).tab :=
  foldl_inv l (P := fun o : Pool => FramesOk o.tab) h fun _ _ => unpinFrame_frames
theorem foldl_pin_frames {l : List Nat} {o : Pool} (h : FramesOk o.tab) : FramesOk (l.foldl pinFrame o).tab :=
  foldl_inv l (P := fun o : Pool => FramesOk o.tab) h fun _ _ => pinFrame_frames
theorem poolRegWrite_tab (o : Pool) (off v : Nat) : (poolRegWrite o off v).tab = o.tab := by
  unfold poolRegWrite; split <;> rfl
theorem withBudget_mem (x : Pen) (off v : Nat) : (withBudget x off v).bufs = x.bufs ∧ (withBudget x off v).pool = x.pool := by
  unfold withBudget; split <;> exact ⟨rfl, rfl⟩

/-! #### Arrays -/

theorem setPlane_sram (d : ArrData) (pl : Bool) (x : Plane) : (setPlane d pl x).sram = d.sram := by cases pl <;> rfl
theorem sramPut_mem {d : ArrData} {off : Nat} {b : Bytes} {base : Nat → Int} (h : MemOk d.sram) : MemOk (sramPut d off b base).sram :=
  sramPut_twf d off b base h
theorem foldl_sram {α : Type} {l : List α} {f : ArrData → α → ArrData} {d : ArrData} (h : MemOk d.sram)
    (hf : ∀ d x, MemOk d.sram → MemOk (f d x).sram) : MemOk (l.foldl f d).sram :=
  foldl_inv l (P := fun d : ArrData => MemOk d.sram) h hf
theorem withConsts_mem {i : Image} {seg : Nat} {d : ArrData} (h : MemOk d.sram) : MemOk (withConsts i seg d).sram := sramPut_mem h
theorem intoRing_mem {i : Image} {x : Arr} {c pos : Nat} {us : List (Bytes × Int)} (h : MemOk x.data.sram) :
    MemOk (intoRing i x c pos us).data.sram := by
  unfold intoRing
  dsimp only
  split
  · exact h
  · exact foldl_sram h fun _ _ => sramPut_mem
theorem intoRing_saved (i : Image) (x : Arr) (c pos : Nat) (us : List (Bytes × Int)) : (intoRing i x c pos us).saved = x.saved := by
  unfold intoRing
  dsimp only
  split <;> rfl
theorem modRunsIf_mem {x : Arr} {ok : SegRun → Bool} {f : SegRun → SegRun} {g : SegRun → ArrData → ArrData}
    (h : MemOk x.data.sram) (hg : ∀ r d, MemOk d.sram → MemOk (g r d).sram) : MemOk (modRunsIf x ok f g).data.sram :=
  foldl_sram h fun _ _ => hg _ _
theorem modRunsIf_saved {x : Arr} {ok : SegRun → Bool} {f : SegRun → SegRun} {g : SegRun → ArrData → ArrData}
    (h : SavedOk x.saved) (hg : ∀ r d, MemOk d.sram → MemOk (g r d).sram) : SavedOk (modRunsIf x ok f g).saved :=
  savedOk_map h fun _ hd => foldl_sram hd fun _ _ => hg _ _
theorem arrAfterWarm_mem {t : Tab Arr} (h : AllOf ArrMem t) : AllOf ArrMem (tmap {} (fun _ x => arrAfterWarm x) t) :=
  AllOf.map h fun _ _ hx => ⟨hx.1, savedOk_none⟩
theorem fresh_sram {c : Prop} [Decidable c] (d : ArrData) : ((if c then freshData else freshMasks) d).sram = d.sram := by
  split <;> rfl
theorem loadArr_mem {i : Image} {x : Arr} {segs : List Nat} (h : ArrMem x) : ArrMem (loadArr i x segs) := by
  unfold loadArr
  dsimp only
  split
  · exact ⟨h.1, savedOk_none⟩
  · refine ⟨withConsts_mem h.1, fun d hd => ?_⟩
    obtain ⟨s2, -, rfl⟩ := Option.map_eq_some_iff.mp hd
    exact withConsts_mem h.1

/-! #### Shapes of operations -/

section Shapes
variable {p q : Pkg}

theorem same_canon (hp : Canon p)
    (e : q.arrays = p.arrays ∧ q.pens = p.pens ∧ q.hnd.binds = p.hnd.binds ∧ q.mgt.staging = p.mgt.staging := by simp) : Canon q := by
  obtain ⟨harr, hpens, hbinds, hstaging⟩ := e
  exact ⟨harr ▸ hp.arrays, hpens ▸ hp.pens, hbinds ▸ hp.binds, hstaging ▸ hp.staging⟩

/-- An update of parts of the package that hold no byte memory. -/
theorem upd_canon {pins tick glb scn ldr nvw ctxs numVfs reqs lastGen rq kvp fab lsh i3c out freeCtr pba} (hp : Canon p) :
    Canon ⟨pins, tick, glb, scn, p.arrays, ldr, p.pens, nvw, ctxs, numVfs, reqs, lastGen, rq, kvp, fab, lsh, p.hnd, p.mgt, i3c, out, freeCtr,
      pba⟩ := ⟨hp.arrays, hp.pens, hp.binds, hp.staging⟩

/-- An update that reaches the Hounds' and the managers' parts as well. -/
theorem updParts_canon {pins tick glb scn ldr nvw ctxs numVfs reqs lastGen rq kvp fab lsh i3c out freeCtr pba} {h : Hnd} {m : Mgt}
    (hp : Canon p) (hb : h.binds = p.hnd.binds) (hm : m.staging = p.mgt.staging) :
    Canon ⟨pins, tick, glb, scn, p.arrays, ldr, p.pens, nvw, ctxs, numVfs, reqs, lastGen, rq, kvp, fab, lsh, h, m, i3c, out, freeCtr, pba⟩ :=
  ⟨hp.arrays, hp.pens, hb ▸ hp.binds, hm ▸ hp.staging⟩

theorem ite_canon {c : Prop} [Decidable c] (hp : Canon p) (hq : Canon q) : Canon (if c then p else q) := by split <;> assumption

theorem ite_fst_canon {α : Type} {c : Prop} [Decidable c] {a b : Pkg × α} (ha : Canon a.1) (hb : Canon b.1) :
    Canon (if c then a else b).1 := by split <;> assumption

theorem getD_canon {o : Option Pkg} (hp : Canon p) (ho : ∀ q, o = some q → Canon q) : Canon (o.getD p) := by
  cases o with
  | none => exact hp
  | some q => exact ho q rfl

theorem forAll_canon {α : Type} {l : List α} {f : Pkg → α → Pkg} (hp : Canon p) (hf : ∀ q x, Canon q → Canon (f q x)) :
    Canon (forAll l f p) := foldl_inv l hp hf
theorem foldl_canon {α : Type} {l : List α} {f : Pkg → α → Pkg} (hp : Canon p) (hf : ∀ q x, Canon q → Canon (f q x)) :
    Canon (l.foldl f p) := foldl_inv l hp hf
theorem foldl_fst_canon {α β : Type} {l : List α} {f : Pkg × β → α → Pkg × β} {a : Pkg × β} (hp : Canon a.1)
    (hf : ∀ a x, Canon a.1 → Canon (f a x).1) : Canon (l.foldl f a).1 := foldl_inv l (P := fun a : Pkg × β => Canon a.1) hp hf

theorem modPen_canon {n : Nat} {f : Pen → Pen} (hp : Canon p) (hf : ∀ x, PenMem x → PenMem (f x)) : Canon (modPen p n f) :=
  ⟨hp.arrays, hp.pens.mod penMem_empty hf n, hp.binds, hp.staging⟩
theorem modBuf_canon {n k : Nat} {f : Buf → Buf} (hp : Canon p) (hf : ∀ b, MemOk b.data → MemOk (f b).data) :
    Canon (modPen p n fun x => { x with bufs := tmod {} x.bufs k f }) := modPen_canon hp fun _ h => ⟨BufsOk.mod h.1 hf, h.2⟩
theorem mapBufs_canon {n : Nat} {f : Nat → Buf → Buf} (hp : Canon p) (hf : ∀ k b, MemOk b.data → MemOk (f k b).data) :
    Canon (modPen p n fun x => { x with bufs := tmap {} f x.bufs }) :=
  modPen_canon hp fun _ h => ⟨AllOf.map (P := fun b : Buf => MemOk b.data) h.1 hf, h.2⟩
theorem modPool_canon {n : Nat} {f : Pool → Pool} (hp : Canon p) (hf : ∀ o, FramesOk o.tab → FramesOk (f o).tab) :
    Canon (modPool p n f) := modPen_canon hp fun x h => ⟨h.1, hf x.pool h.2⟩
theorem modStep_canon {n : Nat} {f : Step → Step} (hp : Canon p) : Canon (modStep p n f) := modPen_canon hp fun _ => id
theorem modArr_canon {a : Nat} {f : Arr → Arr} (hp : Canon p) (hf : ∀ x, ArrMem x → ArrMem (f x)) : Canon (modArr p a f) :=
  ⟨hp.arrays.mod arrMem_empty hf a, hp.pens, hp.binds, hp.staging⟩
theorem modBind_canon {c : Nat} {f : HBind → HBind} (hp : Canon p) (hf : ∀ x, MemOk x.mem → MemOk (f x).mem) : Canon (modBind p c f) :=
  ⟨hp.arrays, hp.pens, AllOf.mod (P := fun b : HBind => MemOk b.mem) hp.binds memOk_nil hf c, hp.staging⟩
theorem modMgt_canon {f : Mgt → Mgt} (hp : Canon p) (hf : ∀ m, MemOk m.staging → MemOk (f m).staging) : Canon (modMgt p f) :=
  ⟨hp.arrays, hp.pens, hp.binds, hf _ hp.staging⟩
end Shapes

/-! #### State, log and pens -/

theorem modCtx_canon {p : Pkg} {n : Nat} {f : Ctx → Ctx} (hp : Canon p) : Canon (modCtx p n f) := same_canon hp (by simp)
theorem modReq_canon {p : Pkg} {n : Nat} {f : Req → Req} (hp : Canon p) : Canon (modReq p n f) := same_canon hp (by simp)
theorem modSlot_canon {p : Pkg} {n : Nat} {f : Slot → Slot} (hp : Canon p) : Canon (modSlot p n f) := same_canon hp (by simp)
theorem send_canon {p : Pkg} {o : Out} (hp : Canon p) : Canon (send p o) := same_canon hp (by simp)
theorem nextFree_canon {p : Pkg} (hp : Canon p) : Canon (nextFree p) := same_canon hp (by simp)
theorem sendPending_canon {p : Pkg} {fn : Nat} (hp : Canon p) : Canon (sendPending p fn) := same_canon hp (by simp)
theorem log_canon {p : Pkg} {code source p0 p1 p2 : Nat} (hp : Canon p) : Canon (log p code source p0 p1 p2) :=
  same_canon hp (by simp)
theorem pushCq_canon {p : Pkg} {c : Nat} {b : Bytes} {irq : Bool} (hp : Canon p) : Canon (pushCq p c b irq) :=
  same_canon hp (by simp)
theorem logEvent_canon {p : Pkg} {c status code handle p0 p1 p2 : Nat} (hp : Canon p) :
    Canon (logEvent p c status code handle p0 p1 p2) := same_canon hp (by simp)
theorem logFault_canon {p : Pkg} {code source p0 p1 p2 : Nat} {status : Nat} {cs : List Nat} (hp : Canon p) :
    Canon (logFault p code source p0 p1 p2 status cs) := same_canon hp (by simp)
theorem setPenState_canon {p : Pkg} {n st : Nat} (hp : Canon p) : Canon (setPenState p n st) :=
  ite_canon hp (forAll_canon (modPen_canon hp (fun _ => id)) fun _ _ hq => logEvent_canon hq)

/-! #### Requests and their pages -/

theorem modHcore_canon {p : Pkg} {k : Nat} {f : HCore → HCore} (hp : Canon p) : Canon (modHcore p k f) :=
  updParts_canon hp rfl rfl
theorem modHart_canon {p : Pkg} {k : Nat} {f : Hart → Hart} (hp : Canon p) : Canon (modHart p k f) := updParts_canon hp rfl rfl
theorem wakeCores_canon {p : Pkg} {c : Nat} (hp : Canon p) : Canon (wakeCores p c) :=
  forAll_canon hp fun _ _ hq => modHcore_canon hq
theorem faultBind_canon {p : Pkg} {c core kind code pc tval : Nat} (hp : Canon p) : Canon (faultBind p c core kind code pc tval) :=
  logEvent_canon (modBind_canon (forAll_canon hp (fun _ _ hq => modHcore_canon hq)) fun _ => id)
theorem ringFault_canon {p : Pkg} {c core : Nat} (hp : Canon p) : Canon (ringFault p c core) :=
  ite_canon (nextFree_canon (faultBind_canon hp)) hp
theorem pushReply_canon {p : Pkg} {k c : Nat} {b : Bytes} (hp : Canon p) : Canon (pushReply p k c b) :=
  ite_canon hp (ite_canon (modHcore_canon (modBind_canon hp fun _ _ => memOk_tsetList (hp.bind _))) (ringFault_canon hp))
theorem pushTok_canon {p : Pkg} {c : Nat} {b : Bytes} (hp : Canon p) : Canon (pushTok p c b) :=
  ite_canon hp (ite_canon (wakeCores_canon (modBind_canon hp fun _ _ => memOk_tsetList (hp.bind _))) (ringFault_canon hp))
theorem pushEnd_canon {p : Pkg} {c : Nat} {b : Bytes} (hp : Canon p) : Canon (pushEnd p c b) :=
  ite_canon (pushTok_canon (modBind_canon hp (fun _ => id))) hp
theorem answer_canon {p : Pkg} {c : Nat} {d : Desc} {status handle : Nat} {late fell : Bool} (hp : Canon p) :
    Canon (answer p c d status handle late fell) :=
  ite_canon (pushCq_canon (modCtx_canon hp)) (ite_canon hp (pushReply_canon (modHcore_canon hp)))
theorem answerReq_canon {p : Pkg} {e : Nat} {d : Desc} {status : Nat} (hp : Canon p) : Canon (answerReq p e d status) :=
  answer_canon hp
theorem answerHeld_canon {p : Pkg} {e : Nat} {d : Desc} {status : Nat} (hp : Canon p) : Canon (answerHeld p e d status) :=
  answerReq_canon (modReq_canon hp)
theorem growKeys_canon {p : Pkg} {e : Nat} {keys : List Nat} (hp : Canon p) : Canon (growKeys p e keys) :=
  forAll_canon hp fun _ _ hq => ite_canon (by
    split
    · exact modReq_canon (modPool_canon hq fun _ _ => takeBlock_frames ‹_› (hq.pool _))
    · exact hq) hq
theorem growBlocks_canon {p : Pkg} {e : Nat} (hp : Canon p) : Canon (growBlocks p e) := growKeys_canon hp
theorem stopCopies_canon {p : Pkg} {e : Nat} {whys : List Nat} (hp : Canon p) : Canon (stopCopies p e whys) :=
  modPool_canon hp fun _ => id
theorem startCopy_canon {p : Pkg} {e why : Nat} {keys : List Nat} (hp : Canon p) : Canon (startCopy p e why keys) :=
  ite_canon hp (modPool_canon hp fun _ => id)
theorem noteKennelFull_canon {p : Pkg} {e rest : Nat} (hp : Canon p) : Canon (noteKennelFull p e rest) := same_canon hp (by simp)
theorem copyOut_canon {p : Pkg} {e why : Nat} (hp : Canon p) : Canon (copyOut p e why) :=
  noteKennelFull_canon (startCopy_canon hp)
theorem endSharing_canon {p : Pkg} {e : Nat} (hp : Canon p) : Canon (endSharing p e) :=
  forAll_canon hp fun _ _ hq => modReq_canon (stopCopies_canon hq)
theorem releasePages_canon {p : Pkg} {e : Nat} (hp : Canon p) : Canon (releasePages p e) := by
  unfold releasePages
  refine modReq_canon (modPool_canon (forAll_canon (forAll_canon (endSharing_canon (stopCopies_canon hp)) fun _ _ hq => ?_)
    fun _ _ hq => modPool_canon hq fun _ => freeBlock_frames) fun _ => id)
  split
  · exact modPool_canon hq fun _ => dropRef_frames
  · exact ite_canon hq (modCtx_canon hq)
  · exact hq
theorem freeEntry_canon {p : Pkg} {e : Nat} (hp : Canon p) : Canon (freeEntry p e) := same_canon hp (by simp)
theorem giveBack_canon {p : Pkg} {c n : Nat} (hp : Canon p) : Canon (giveBack p c n) := same_canon hp (by simp)
theorem refuseAdmit_canon {p : Pkg} {e status : Nat} (hp : Canon p) : Canon (refuseAdmit p e status) :=
  freeEntry_canon (releasePages_canon (answer_canon (giveBack_canon hp)))
theorem dropTokSlot_canon {p : Pkg} {e : Nat} (hp : Canon p) : Canon (dropTokSlot p e) :=
  ite_canon (ite_canon (modBind_canon (modReq_canon hp) (fun _ => id)) (giveBack_canon (modReq_canon hp))) hp
theorem leaveStep_canon {p : Pkg} {e : Nat} (hp : Canon p) : Canon (leaveStep p e) :=
  modReq_canon (dropTokSlot_canon (modPen_canon hp fun _ => id))
theorem endReq_canon {p : Pkg} {e status : Nat} (hp : Canon p) : Canon (endReq p e status) :=
  ite_canon hp (ite_canon (refuseAdmit_canon hp) (ite_canon hp (upd_canon (modReq_canon (leaveStep_canon
    (stopCopies_canon hp))))))
theorem closeReq_canon {p : Pkg} {e : Nat} (hp : Canon p) : Canon (closeReq p e) :=
  ite_canon hp (freeEntry_canon (releasePages_canon (forAll_canon (ite_canon (pushEnd_canon (pushCq_canon hp))
    (pushCq_canon hp)) fun _ _ hq => answerReq_canon hq)))
theorem closeDone_canon {p : Pkg} (hp : Canon p) : Canon (closeDone p) :=
  upd_canon (forAll_canon hp fun _ _ hq => closeReq_canon hq)
theorem faultCtx_canon {p : Pkg} {c status code : Nat} (hp : Canon p) : Canon (faultCtx p c status code) :=
  modCtx_canon (forAll_canon hp fun _ _ hq => stopCopies_canon hq)
theorem hostError_canon {p : Pkg} {c code p0 p1 p2 : Nat} (hp : Canon p) : Canon (hostError p c code p0 p1 p2) :=
  ite_canon (log_canon (faultCtx_canon hp)) hp

/-! #### Serving requests -/

theorem stallCtx_canon {p : Pkg} {c : Nat} (hp : Canon p) : Canon (stallCtx p c) := same_canon hp (by simp)
theorem judgeTq_canon {p : Pkg} {c : Nat} (hp : Canon p) : Canon (judgeTq p c) := ite_canon hp (modBind_canon hp fun _ => id)
theorem pauseReq_canon {p : Pkg} {e prev until_ : Nat} (hp : Canon p) : Canon (pauseReq p e prev until_) :=
  copyOut_canon (stopCopies_canon (modReq_canon hp))
theorem closeResume_canon {p : Pkg} {e status : Nat} (hp : Canon p) : Canon (closeResume p e status) := by
  unfold closeResume
  split
  · exact answerHeld_canon (modReq_canon hp)
  · exact hp
theorem applyPause_canon {p : Pkg} {e : Nat} {d : Desc} {ttl : Nat} (hp : Canon p) : Canon (applyPause p e d ttl) :=
  ite_canon (answerHeld_canon (modReq_canon hp)) (answerHeld_canon (pauseReq_canon (closeResume_canon hp)))
theorem logPromptInvalid_canon {p : Pkg} {e i : Nat} (hp : Canon p) : Canon (logPromptInvalid p e i) := same_canon hp (by simp)
theorem applyAppend_canon {p : Pkg} {e : Nat} {t : TokRead} {ts : List Word32} (hp : Canon p) : Canon (applyAppend p e t ts) := by
  unfold applyAppend
  dsimp only
  split
  · exact answerHeld_canon (logPromptInvalid_canon (modReq_canon hp))
  · exact ite_canon (answerHeld_canon (modReq_canon hp)) (ite_canon (answerHeld_canon (modReq_canon hp)) (growBlocks_canon
    (answerHeld_canon (modReq_canon (modPool_canon (modReq_canon hp) fun _ => id)))))
theorem issueRead_canon {p : Pkg} {e : Nat} (hp : Canon p) : Canon (issueRead p e) := same_canon hp (by simp)
theorem applyHeld_canon {p : Pkg} {e : Nat} (hp : Canon p) : Canon (applyHeld p e) :=
  forAll_canon hp (fun _ _ hq => ite_canon hq (ite_canon (by
    split
    · split
      · exact applyAppend_canon hq
      · exact hq
    · exact hq) (ite_canon (applyPause_canon hq) hq)))
theorem fallbackReq_canon {p : Pkg} {e : Nat} (hp : Canon p) : Canon (fallbackReq p e) := by
  unfold fallbackReq
  dsimp only
  split
  · exact logEvent_canon hp
  · exact applyHeld_canon (growBlocks_canon (upd_canon (logEvent_canon (modReq_canon (modPool_canon (closeResume_canon
    (releasePages_canon (leaveStep_canon hp))) fun _ => id)))))
theorem applyPolicy_canon {p : Pkg} {e : Nat} (hp : Canon p) : Canon (applyPolicy p e) := by
  unfold applyPolicy
  dsimp only
  split
  · exact fallbackReq_canon hp
  · exact endReq_canon (upd_canon (logEvent_canon hp))
  · exact hp
theorem retireReq_canon {p : Pkg} {e : Nat} (hp : Canon p) : Canon (retireReq p e) :=
  ite_canon (endReq_canon (modReq_canon hp)) (applyHeld_canon (ite_canon (applyPolicy_canon (modReq_canon hp)) (modReq_canon hp)))
theorem noteDenied_canon {p : Pkg} {status : Nat} (hp : Canon p) : Canon (noteDenied p status) := same_canon hp (by simp)
theorem logDenied_canon {p : Pkg} {c n e status : Nat} (hp : Canon p) : Canon (logDenied p c n e status) :=
  same_canon hp (by simp)
theorem sharePrefix_canon {p : Pkg} {e : Nat} (hp : Canon p) : Canon (sharePrefix p e) :=
  ite_canon hp (ite_canon hp (startCopy_canon (modReq_canon (forAll_canon hp fun _ _ hq => by
    split
    · exact modReq_canon (modPool_canon hq fun _ h => modFrame_frames h fun _ => id)
    · exact modReq_canon hq
    · exact hq))))
theorem decideAdmit_canon {p : Pkg} {e : Nat} (hp : Canon p) : Canon (decideAdmit p e) := by
  unfold decideAdmit
  dsimp only
  split
  · exact refuseAdmit_canon (ite_canon (logDenied_canon (noteDenied_canon hp)) hp)
  · exact send_canon (answer_canon (growBlocks_canon (sharePrefix_canon (upd_canon (modReq_canon
    (modPool_canon hp fun _ => id))))))

/-! #### The fabric -/

theorem modFab_canon {p : Pkg} {f : Fab → Fab} (hp : Canon p) : Canon (modFab p f) := same_canon hp (by simp)
theorem modPort_canon {p : Pkg} {n : Nat} {f : Port → Port} (hp : Canon p) : Canon (modPort p n f) := same_canon hp (by simp)
theorem payCredits_canon {p : Pkg} {n : Nat} (hp : Canon p) : Canon (payCredits p n) := same_canon hp (by simp)
theorem sendControl_canon {p : Pkg} {n : Nat} {rec : Bytes} (hp : Canon p) : Canon (sendControl p n rec) :=
  same_canon hp (by simp)
theorem pumpWaiters_canon {p : Pkg} (hp : Canon p) : Canon (pumpWaiters p) := same_canon hp (by simp)
theorem issue_canon {p : Pkg} {by_ : Issuer} {cacheable : Bool} {ks : List Pkt} (hp : Canon p) : Canon (issue p by_ cacheable ks) :=
  same_canon hp (by simp)
theorem fwStore_canon {p : Pkg} {srcId chip addr : Nat} {flag : Bool} {data : Bytes} (hp : Canon p) :
    Canon (fwStore p srcId chip addr flag data) := same_canon hp (by simp)
theorem setRead_canon {p : Pkg} {a : Nat} {d : Option (Option Bytes)} (hp : Canon p) : Canon (setRead p a d) :=
  same_canon hp (by simp)

/-! #### Pens and arrays -/

theorem takeArray_canon {p : Pkg} {n a : Nat} (hp : Canon p) : Canon (takeArray p n a) := by
  refine modPen_canon (modArr_canon hp fun _ h => ⟨?_, h.2⟩) fun _ => id
  dsimp only
  split
  · exact memOk_nil
  · exact h.1
theorem fillSet_canon {p : Pkg} {n : Nat} {fuel : Nat} (hp : Canon p) : Canon (fillSet p n fuel) := by
  induction fuel generalizing p with
  | zero => exact hp
  | succ k ih =>
    unfold fillSet
    refine ite_canon ?_ hp
    split
    · exact ih (takeArray_canon hp)
    · exact hp
theorem freeSet_canon {p : Pkg} {n : Nat} (hp : Canon p) : Canon (freeSet p n) :=
  forAll_canon hp fun _ _ hq => modArr_canon hq fun _ h => ⟨h.1, savedOk_none⟩
theorem predHere_canon {p : Pkg} {n : Nat} (hp : Canon p) : Canon (predHere p n) := by
  unfold predHere
  split
  · exact hp
  · exact modPen_canon hp fun _ => id
theorem predNext_canon {p : Pkg} {n : Nat} (hp : Canon p) : Canon (predNext p n) := by
  unfold predNext
  split
  · exact hp
  · exact modPen_canon hp fun _ => id
theorem refreshPred_canon {p : Pkg} {n : Nat} (hp : Canon p) : Canon (refreshPred p n) :=
  ite_canon (modPen_canon (predNext_canon hp) (fun _ => id)) hp
theorem fillOne_canon {p : Pkg} {n : Nat} (hp : Canon p) : Canon (fillOne p n) :=
  ite_canon (fillSet_canon hp) (refreshPred_canon (fillSet_canon hp))
theorem fillShort_canon {p : Pkg} (hp : Canon p) : Canon (fillShort p) := forAll_canon hp fun _ _ hq => fillOne_canon hq
theorem placePen_canon {p : Pkg} {n : Nat} (hp : Canon p) : Canon (placePen p n) := by
  unfold placePen
  dsimp only
  split
  · exact hp
  · exact forAll_canon (modPen_canon hp (fun _ => id)) fun _ _ hq => log_canon hq
theorem endBinding_canon {p : Pkg} {c : Nat} (hp : Canon p) : Canon (endBinding p c) :=
  ite_canon hp (modBind_canon (modCtx_canon (modFab_canon (modPool_canon
    (forAll_canon hp fun _ _ hq => modHart_canon (modHcore_canon (giveBack_canon hq)))
    fun _ h => foldl_inv _ (P := FramesOk) h fun _ _ h => h.mod fun _ _ => memOk_nil))) fun _ _ => memOk_nil)
theorem newCount_canon {p : Pkg} {n : Nat} (hp : Canon p) : Canon (newCount p n) := modPen_canon hp fun _ => id
theorem penTo_canon {p : Pkg} {n st : Nat} (hp : Canon p) : Canon (penTo p n st) :=
  ite_canon (ite_canon (upd_canon (forAll_canon (setPenState_canon (ite_canon (newCount_canon hp) hp))
    (fun _ _ hq => endBinding_canon hq))) (setPenState_canon (ite_canon (newCount_canon hp) hp))) (forAll_canon (ite_canon
    (upd_canon (forAll_canon (setPenState_canon (ite_canon (newCount_canon hp) hp)) (fun _ _ hq => endBinding_canon hq)))
    (setPenState_canon (ite_canon (newCount_canon hp) hp))) fun _ _ hq => refuseAdmit_canon hq)
theorem haltArrays_canon {p : Pkg} {n : Nat} (hp : Canon p) : Canon (haltArrays p n) :=
  forAll_canon hp fun _ _ hq => modArr_canon hq fun _ h => ⟨h.1, savedOk_none⟩
theorem dropStep_canon {p : Pkg} {n : Nat} (hp : Canon p) : Canon (dropStep p n) := by
  unfold dropStep
  dsimp only
  split
  · exact hp
  · exact forAll_canon (upd_canon (modPen_canon (haltArrays_canon (modPool_canon
      (forAll_canon hp fun _ _ hq => modReq_canon hq) fun _ => foldl_unpin_frames)) fun _ => id)) fun _ _ hq => retireReq_canon
        (dropTokSlot_canon hq)
theorem sendNotices_canon {p : Pkg} {n reason : Nat} (hp : Canon p) : Canon (sendNotices p n reason) := same_canon hp (by simp)
theorem fenceGroupOp_canon {p : Pkg} {n reason chip : Nat} (hp : Canon p) : Canon (fenceGroupOp p n reason chip) :=
  ite_canon hp (sendNotices_canon (logFault_canon (dropStep_canon (ite_canon (penTo_canon (modPen_canon hp (fun _ => id)))
    (modPen_canon hp fun _ => id)))))
theorem faultStep_canon {p : Pkg} {n : Nat} (hp : Canon p) : Canon (faultStep p n) :=
  ite_canon hp (ite_canon (dropStep_canon hp) (fenceGroupOp_canon hp))
theorem discardPool_canon {p : Pkg} {n : Nat} (hp : Canon p) : Canon (discardPool p n) := by
  unfold discardPool
  exact modPool_canon (forAll_canon hp fun _ _ hq => releasePages_canon hq) fun _ => keepBad_frames
theorem loseBuffers_canon {p : Pkg} {n : Nat} (hp : Canon p) : Canon (loseBuffers p n) := by
  refine nextFree_canon (mapBufs_canon hp fun _ _ hb => ?_)
  split
  · exact hb
  · exact memOk_nil
theorem endAuths_canon {p : Pkg} (hp : Canon p) : Canon (endAuths p) := same_canon hp (by simp)
theorem penResetDo_canon {p : Pkg} {n cause : Nat} (hp : Canon p) : Canon (penResetDo p n cause) := by
  unfold penResetDo
  extract_lets p1 p2 p3 p4 p5 p6
  have h3 : Canon p3 := loseBuffers_canon (discardPool_canon (forAll_canon (faultStep_canon hp) fun _ _ hq => endReq_canon hq))
  have h5 : Canon p5 := modPen_canon (endAuths_canon (forAll_canon h3 fun _ _ hq => endBinding_canon hq)) fun _ => id
  exact logFault_canon (ite_canon (penTo_canon h5) h5)
theorem penResetOp_canon {p : Pkg} {n cause : Nat} (hp : Canon p) : Canon (penResetOp p n cause) :=
  ite_canon hp (penResetDo_canon hp)
theorem quarantineOp_canon {p : Pkg} {a cause : Nat} (hp : Canon p) : Canon (quarantineOp p a cause) := by
  have halted {f : Arr → Arr} (hd : ∀ x, (f x).data = x.data) (hs : ∀ x, (f x).saved = none) : Canon (modArr p a f) :=
    modArr_canon hp fun x h => ⟨(hd x).symm ▸ h.1, (hs x).symm ▸ savedOk_none⟩
  exact ite_canon hp (ite_canon (log_canon (halted (fun _ => rfl) fun _ => rfl)) (refreshPred_canon (fillSet_canon (ite_canon
    (faultStep_canon (logFault_canon (halted (fun _ => rfl) fun _ => rfl))) (logFault_canon (halted
      (fun _ => rfl) fun _ => rfl))))))
theorem quarantineNow_canon {p : Pkg} {a cause : Nat} (hp : Canon p) : Canon (quarantineNow p a cause) :=
  ite_canon hp (quarantineOp_canon hp)

/-! #### Resets -/

theorem emptySlotOp_canon {p : Pkg} {k : Nat} (hp : Canon p) : Canon (emptySlotOp p k) := same_canon hp (by simp)
theorem endImprint_canon {p : Pkg} {i : Imprint} {status : Nat} (hp : Canon p) : Canon (endImprint p i status) :=
  same_canon hp (by simp)
theorem resetReq_canon {p : Pkg} {e : Nat} (hp : Canon p) : Canon (resetReq p e) :=
  ite_canon (modReq_canon hp) (closeReq_canon (endReq_canon hp))
theorem ctxResetOp_canon {p : Pkg} {c : Nat} (hp : Canon p) : Canon (ctxResetOp p c) :=
  ite_canon hp (endBinding_canon (endAuths_canon (upd_canon (forAll_canon (forAll_canon (modCtx_canon hp)
    (fun _ _ hq => resetReq_canon hq)) fun _ _ hq => endImprint_canon hq))))
theorem warmResetOp_canon {p : Pkg} {trigger : Nat} (hp : Canon p) : Canon (warmResetOp p trigger) :=
  log_canon ⟨arrAfterWarm_mem (forAll_canon hp fun _ _ hq => endImprint_canon hq).arrays, allOf_nil, allOf_nil, memOk_nil⟩
theorem logInterrupted_canon {p : Pkg} {i : Imprint} {s : Slot} (hp : Canon p) : Canon (logInterrupted p i s) :=
  same_canon hp (by simp)
theorem coldBase_canon {p : Pkg} : Canon (coldBase p) :=
  forAll_canon ⟨allOf_nil, allOf_nil, allOf_nil, memOk_nil⟩ fun _ _ hq => logInterrupted_canon hq

/-! #### Transactions that end -/

theorem fqDone_canon {p : Pkg} {c : Nat} {x : FqCmd} {status : Nat} {data : Bytes} (hp : Canon p) : Canon (fqDone p c x status data) :=
  wakeCores_canon (modBind_canon hp fun _ _ => memOk_tset (memOk_tset (by
    split
    · exact memOk_tsetList (hp.bind c)
    · split
      · exact memOk_tsetList (hp.bind c)
      · exact hp.bind c)))
theorem fqEnds_canon {p : Pkg} {c i status : Nat} {data : Bytes} (hp : Canon p) : Canon (fqEnds p c i status data) := by
  unfold fqEnds
  split
  · exact fqDone_canon hp
  · exact hp
theorem ackAbsorbed_canon {p : Pkg} {tag status : Nat} (hp : Canon p) : Canon (ackAbsorbed p tag status) :=
  same_canon hp (by simp)
theorem tellIssuer_canon {p : Pkg} {t : Txn} {status : Nat} {data : Bytes} (hp : Canon p) : Canon (tellIssuer p t status data) := by
  unfold tellIssuer
  split
  · exact ite_canon (setRead_canon hp) (ite_canon hp (modFab_canon hp))
  · exact hp
  · exact modFab_canon hp
  · exact fqEnds_canon hp
  · exact ackAbsorbed_canon hp
theorem completeTxn_canon {p : Pkg} {t : Txn} {status : Nat} {data : Bytes} (hp : Canon p) : Canon (completeTxn p t status data) :=
  pumpWaiters_canon (tellIssuer_canon (modFab_canon hp))
theorem staleRx_canon {p : Pkg} {h : Hdr} (hp : Canon p) : Canon (staleRx p h) := same_canon hp (by simp)
theorem refuseWaiting_canon {p : Pkg} (hp : Canon p) : Canon (refuseWaiting p) := same_canon hp (by simp)
theorem setEpoch_canon {p : Pkg} {mgr new : Nat} (hp : Canon p) : Canon (setEpoch p mgr new) :=
  log_canon (forAll_canon (forAll_canon (upd_canon (forAll_canon (refuseWaiting_canon (modFab_canon
    (updParts_canon hp rfl rfl))) (fun _ _ hq => completeTxn_canon hq)))
    (fun _ _ hq => logEvent_canon hq)) fun _ _ hq => newCount_canon hq)
theorem linkSeen_canon {p : Pkg} {path : Path} (hp : Canon p) : Canon (linkSeen p path) := by
  unfold linkSeen
  dsimp only
  split
  · exact updParts_canon hp rfl rfl
  · exact hp
theorem mgtReply_canon {p : Pkg} {c : PendCmd} {status : Nat} {body : Bytes} (hp : Canon p) : Canon (mgtReply p c status body) :=
  same_canon hp (by simp)
theorem mgtRefuse_canon {p : Pkg} {c : PendCmd} {status : Nat} {body : Bytes} (hp : Canon p) : Canon (mgtRefuse p c status body) :=
  mgtReply_canon (log_canon (updParts_canon hp rfl rfl))
theorem authFail_canon {p : Pkg} {c : PendCmd} (hp : Canon p) : Canon (authFail p c) := by
  unfold authFail
  extract_lets _ p1
  have h1 : Canon p1 := updParts_canon hp rfl rfl
  exact ite_canon (log_canon (updParts_canon h1 rfl rfl)) h1
theorem raiseSeq_canon {p : Pkg} {path : Path} {msg : Bytes} (hp : Canon p) : Canon (raiseSeq p path msg) :=
  ite_canon (updParts_canon hp rfl rfl) hp
theorem mgtDone_canon {p : Pkg} {c : PendCmd} {body : Bytes} (hp : Canon p) : Canon (mgtDone p c body) := same_canon hp (by simp)
theorem mgtPassed_canon {p : Pkg} (hp : Canon p) : Canon (mgtPassed p) := updParts_canon hp rfl rfl
theorem mgtHold_canon {p : Pkg} {c : PendCmd} (hp : Canon p) : Canon (mgtHold p c) := updParts_canon hp rfl rfl
theorem mgtTaken_canon {p : Pkg} {path : Path} {msg : Bytes} {f : Pkg → PendCmd → Pkg} (hp : Canon p)
    (hf : ∀ q c, Canon q → Canon (f q c)) : Canon (mgtTaken p path msg f) := by
  unfold mgtTaken
  dsimp only
  split
  · exact hp
  · exact authFail_canon (linkSeen_canon hp)
  · exact mgtRefuse_canon (raiseSeq_canon (linkSeen_canon hp))
  · exact hf _ _ (raiseSeq_canon (linkSeen_canon hp))

/-! #### Registers -/

theorem modPins_canon {p : Pkg} {f : Pins → Pins} (hp : Canon p) : Canon (modPins p f) := same_canon hp (by simp)
theorem judgeAlert_canon {p : Pkg} (hp : Canon p) : Canon (judgeAlert p) := same_canon hp (by simp)
theorem pinCold_canon {p : Pkg} {f : Pins → Pins} : Canon (pinCold p f) := modPins_canon coldBase_canon
theorem dropHeld_canon {p : Pkg} {fn off : Nat} (hp : Canon p) : Canon (dropHeld p fn off) := same_canon hp (by simp)
theorem regWrite_canon {p : Pkg} {fn off : Nat} {f : Pkg → Pkg} (hp : Canon p) (hf : ∀ q, Canon q → Canon (f q)) :
    Canon (regWrite p fn off f) := ite_canon (hf _ (dropHeld_canon hp)) (dropHeld_canon hp)
theorem pfWrite_canon {p : Pkg} {fn off : Nat} {f : Pkg → Pkg} (hp : Canon p) (hf : ∀ q, Canon q → Canon (f q)) :
    Canon (pfWrite p fn off f) := regWrite_canon hp fun _ hq => ite_canon (hf _ hq) hq
theorem noteNotAllowed_canon {p : Pkg} {fn off size : Nat} (hp : Canon p) : Canon (noteNotAllowed p fn off size) :=
  same_canon hp (by simp)
theorem loseAlign_canon {p : Pkg} {cause : Nat} (hp : Canon p) : Canon (loseAlign p cause) := same_canon hp (by simp)
theorem gainAlign_canon {p : Pkg} (hp : Canon p) : Canon (gainAlign p) := same_canon hp (by simp)
theorem steerTick_canon {p : Pkg} (hp : Canon p) : Canon (steerTick p) := same_canon hp (by simp)

/-! #### KV pages and windows -/

theorem framePut_canon {p : Pkg} {n f off : Nat} {b : Bytes} (hp : Canon p) : Canon (framePut p n f off b) :=
  modPool_canon hp fun _ h => modFrame_frames h fun _ => memOk_tsetList
theorem countSat_canon {p : Pkg} {n k : Nat} (hp : Canon p) : Canon (countSat p n k) := modPool_canon hp fun _ => id
theorem putK_canon {p : Pkg} {i : Image} {n f : Nat} {h : HeadAt} {panel tok : Nat} {vs : List Val} (hp : Canon p) :
    Canon (putK p i n f h panel tok vs) :=
  ite_canon (countSat_canon (framePut_canon (framePut_canon hp))) (countSat_canon (framePut_canon hp))
theorem putV_canon {p : Pkg} {i : Image} {e n f : Nat} {h : HeadAt} {tok : Nat} {vs : List Val} (hp : Canon p) :
    Canon (putV p i e n f h tok vs) :=
  ite_canon (ite_canon (modStep_canon (forAll_canon (forAll_canon hp (fun _ _ hq => modReq_canon hq))
    (fun _ _ hq => countSat_canon (framePut_canon (framePut_canon hq))))) (forAll_canon hp (fun _ _ hq => modReq_canon hq)))
    (forAll_canon hp fun _ _ hq => countSat_canon (framePut_canon hq))
theorem kvRow_canon {p : Pkg} {n off : Nat} {vs : List Val} (hp : Canon p) : Canon (kvRow p n off vs) := by
  unfold kvRow
  dsimp only
  split
  · split
    · exact hp
    · split
      · exact hp
      · split
        · exact hp
        · exact ite_canon (putV_canon hp) (putK_canon hp)
  · exact hp
theorem allocPart_canon {p q : Pkg} {e k f : Nat} (hx : allocPart p e k = some (f, q)) (hp : Canon p) : Canon q := by
  unfold allocPart at hx
  dsimp only at hx
  split at hx
  · cases hx
  · next hf =>
    have taken := takeFrame_frames hf (hp.pool _)
    cases hx
    exact modReq_canon (modPool_canon hp fun _ _ => taken)
theorem allocParts_canon {p q : Pkg} {e : Nat} {ks : List Nat} (hx : allocParts p e ks = some q) (hp : Canon p) : Canon q := by
  induction ks generalizing p with
  | nil => cases hx; exact hp
  | cons k t ih =>
    unfold allocParts at hx
    split at hx
    · exact ih hx (allocPart_canon ‹_› hp)
    · cases hx
theorem cowPart_canon {p q : Pkg} {e k : Nat} (hx : cowPart p e k = some q) (hp : Canon p) : Canon q := by
  unfold cowPart at hx
  dsimp only at hx
  split at hx
  · split at hx
    · cases hx
      exact modReq_canon (modPool_canon (allocPart_canon ‹_› hp) fun _ h => pinFrame_frames (dropRef_frames h))
    · cases hx
  · cases hx; exact hp
theorem cowParts_canon {p q : Pkg} {e : Nat} {ks : List Nat} (hx : cowParts p e ks = some q) (hp : Canon p) : Canon q := by
  induction ks generalizing p with
  | nil => cases hx; exact hp
  | cons k t ih =>
    unfold cowParts at hx
    split at hx
    · exact ih hx (cowPart_canon ‹_› hp)
    · cases hx
theorem growFor_canon {p q : Pkg} {e first stop : Nat} (hx : growFor p e first stop = some q) (hp : Canon p) : Canon q := by
  unfold growFor at hx
  split at hx
  · have grown := allocParts_canon ‹_› hp
    exact cowParts_canon hx (ite_canon (modReq_canon grown) grown)
  · cases hx
theorem preempt_canon {p : Pkg} {v : Nat} (hp : Canon p) : Canon (preempt p v) :=
  copyOut_canon (logEvent_canon (modPool_canon (modReq_canon (stopCopies_canon hp)) fun _ => id))
theorem preemptFor_canon {p : Pkg} {e short : Nat} {placed : List Nat} (hp : Canon p) : Canon (preemptFor p e short placed) := by
  unfold preemptFor
  extract_lets vs
  refine foldl_inv vs (P := fun a : Pkg × Nat => Canon a.1) hp fun a v ha => ?_
  split
  · exact ha
  · dsimp only
    exact preempt_canon ha
theorem returnShort_canon {p : Pkg} {e : Nat} (hp : Canon p) : Canon (returnShort p e) := ite_canon (preemptFor_canon hp) hp
theorem logStarved_canon {p : Pkg} {e short : Nat} (hp : Canon p) : Canon (logStarved p e short) :=
  ite_canon (log_canon (modPool_canon hp (fun _ => id))) hp
theorem cowDone_canon {p : Pkg} {n src : Nat} (hp : Canon p) : Canon (cowDone p n src) :=
  modPool_canon hp fun _ h => foldl_inv _ (P := fun o : Pool => FramesOk o.tab)
    (foldl_inv _ (P := FramesOk) h fun _ _ ht => ht.mod fun _ _ => h.get) fun _ _ => unpinFrame_frames
theorem evictPage_canon {p : Pkg} {e i : Nat} (hp : Canon p) : Canon (evictPage p e i) := by
  unfold evictPage
  refine modReq_canon (modPool_canon (forAll_canon hp fun _ _ hq => ?_) fun _ => id)
  split
  · exact modReq_canon (modPool_canon hq fun _ => dropRef_frames)
  · exact modReq_canon hq
theorem evictReq_canon {p : Pkg} {e : Nat} {t : Step} (hp : Canon p) : Canon (evictReq p e t) :=
  ite_canon (ite_canon hp (modReq_canon hp)) (ite_canon (forAll_canon (ite_canon hp (modReq_canon hp))
    (fun _ _ hq => evictPage_canon hq)) (ite_canon (forAll_canon (ite_canon hp (modReq_canon hp))
    (fun _ _ hq => evictPage_canon hq)) (ite_canon hp (modReq_canon hp))))
theorem addMass_canon {p : Pkg} {e page mass : Nat} (hp : Canon p) : Canon (addMass p e page mass) := same_canon hp (by simp)

/-! #### The array's words -/

theorem wordDone_canon {p : Pkg} {a : Nat} (hp : Canon p) : Canon (wordDone p a) := modArr_canon hp fun _ => id
theorem modData_canon {p : Pkg} {a : Nat} {f : ArrData → ArrData} (hp : Canon p)
    (hf : ∀ d, MemOk d.sram → MemOk (f d).sram) : Canon (modData p a f) := modArr_canon hp fun x h => ⟨hf x.data h.1, h.2⟩
theorem bufPut_canon {p : Pkg} {n k off : Nat} {d : Bytes} {base : Nat → Int} (hp : Canon p) : Canon (bufPut p n k off d base) :=
  modBuf_canon hp fun _ => memOk_tsetList
theorem retain_canon {p : Pkg} {n layer : Nat} {us : List (Option (Nat × Nat) × Bytes × Int)} (hp : Canon p) :
    Canon (retain p n layer us) := modStep_canon hp
theorem storedOver_canon {p : Pkg} {n layer buf first count : Nat} (hp : Canon p) : Canon (storedOver p n layer buf first count) :=
  modStep_canon hp
theorem countDelivered_canon {p : Pkg} {n first lo hi : Nat} (hp : Canon p) : Canon (countDelivered p n first lo hi) :=
  modPen_canon hp fun _ => id
theorem takeUnits_canon {p q : Pkg} {a c count : Nat} {us : List (Bytes × Int)} (hx : takeUnits p a c count = some (us, q))
    (hp : Canon p) : Canon q := by
  unfold takeUnits at hx
  dsimp only at hx
  split at hx
  · split at hx
    · cases hx
      exact modArr_canon (countDelivered_canon (retain_canon hp)) fun x h =>
        ⟨intoRing_mem h.1, (intoRing_saved _ x _ _ _).symm ▸ h.2⟩
    · cases hx
  · cases hx
theorem opdFrom_canon {p q : Pkg} {a : Nat} {d : ArrData} {rows cols : Nat} {o : OpdSpec} {x : Opd}
    (hx : opdFrom p a d rows cols o = some (x, q)) (hp : Canon p) : Canon q := by
  unfold opdFrom at hx
  split at hx
  · cases hx; exact hp
  · split at hx
    · cases hx; exact takeUnits_canon ‹_› hp
    · cases hx
theorem mmaOp_canon {p q : Pkg} {a : Nat} (hx : mmaOp p a = some q) (hp : Canon p) : Canon q := by
  unfold mmaOp at hx
  dsimp only at hx
  split at hx
  · cases hx
  · next ha =>
    split at hx
    · cases hx
    · next hb =>
      cases hx
      exact wordDone_canon (modData_canon (opdFrom_canon hb (opdFrom_canon ha hp)) fun _ h => by rwa [setPlane_sram])
theorem rowfnOp_canon {p : Pkg} {a : Nat} (hp : Canon p) : Canon (rowfnOp p a) :=
  wordDone_canon (modData_canon hp fun _ _ => foldl_sram (by rw [setPlane_sram]; exact (hp.arr a).1) fun d _ hd => by
    dsimp only
    split <;> simpa [setPlane_sram] using hd)
theorem takeGather_canon {p : Pkg} {a c : Nat} {values : Bool} {g : Gathered} (hp : Canon p) : Canon (takeGather p a c values g) :=
  modArr_canon hp fun x h => ⟨intoRing_mem h.1, (intoRing_saved _ x _ _ _).symm ▸ h.2⟩
theorem fuseFrom_canon {p q : Pkg} {a : Nat} {d : ArrData} {rows cols : Nat} {values : Bool} {o : OpdSpec} {x : Nat → Opd}
    {g : Option Gathered} (hx : fuseFrom p a d rows cols values o = some (x, g, q)) (hp : Canon p) : Canon q := by
  unfold fuseFrom at hx
  dsimp only at hx
  split at hx <;> split at hx
  · cases hx; exact takeGather_canon hp
  · split at hx
    · cases hx; exact opdFrom_canon ‹_› hp
    · cases hx
  · cases hx; exact takeGather_canon hp
  · split at hx
    · cases hx; exact opdFrom_canon ‹_› hp
    · cases hx
theorem sendMasses_canon {p : Pkg} {n : Nat} {g : Option Gathered} {masses : List (Nat × Nat)} (hp : Canon p) :
    Canon (sendMasses p n g masses) := by
  unfold sendMasses
  dsimp only
  split
  · exact modStep_canon (growKeys_canon hp)
  · exact hp
theorem fuseWrite_canon {p p3 : Pkg} {a : Nat} {gb : Option Gathered} {v : Fuse} (hp : Canon p3) : Canon (fuseWrite p p3 a gb v) :=
  wordDone_canon (sendMasses_canon (nextFree_canon (modArr_canon hp fun _ => id)))
theorem fuse2Op_canon {p q : Pkg} {a : Nat} (hx : fuse2Op p a = some q) (hp : Canon p) : Canon q := by
  unfold fuse2Op at hx
  dsimp only at hx
  split at hx
  · cases hx
  · next ha =>
    split at hx
    · cases hx
    · next hb =>
      split at hx
      · cases hx
      · next hd =>
        cases hx
        exact fuseWrite_canon (fuseFrom_canon hd (fuseFrom_canon hb (opdFrom_canon ha hp)))
theorem readBuffer_canon {p : Pkg} {a b off count : Nat} (hp : Canon p) : Canon (readBuffer p a b off count).2 := retain_canon hp
theorem loadOp_canon {p q : Pkg} {a : Nat} (hx : loadOp p a = some q) (hp : Canon p) : Canon q := by
  unfold loadOp at hx
  dsimp only at hx
  have taken {us : List (Bytes × Int)} {p1 : Pkg} (hu : (if wbit (nextWord p a) 0 4 = true then
      some (readBuffer p a (wbits (nextWord p a) 0 19 8) (wbits (nextWord p a) 4 31 0) (wbits (nextWord p a) 12 19 0))
      else takeUnits p a (wbits (nextWord p a) 0 6 5) (wbits (nextWord p a) 12 19 0)) = some (us, p1)) : Canon p1 := by
    split at hu
    · cases hu; exact readBuffer_canon hp
    · exact takeUnits_canon hu hp
  split at hx
  · cases hx
  · next hu =>
    cases hx
    exact wordDone_canon (modData_canon (taken hu) fun _ => sramPut_mem)
theorem storeOwn_canon {p : Pkg} {a w len : Nat} (hp : Canon p) : Canon (storeOwn p a w len) := ite_canon (storedOver_canon hp) hp
theorem storeAt_canon {p : Pkg} {a w off : Nat} {b : Bytes} {base : Int} (hp : Canon p) : Canon (storeAt p a w off b base) :=
  ite_canon (bufPut_canon hp) (modData_canon hp fun _ => sramPut_mem)
theorem storeRow_canon {p : Pkg} {a w i : Nat} {r : LRec} {x : Plane} {d : ArrData} (hp : Canon p) :
    Canon (storeRow p a w i r x d).1 := by
  unfold storeRow
  dsimp only
  split
  · exact kvRow_canon hp
  · exact storeAt_canon (storeAt_canon hp)
theorem storeOp_canon {p : Pkg} {a : Nat} (hp : Canon p) : Canon (storeOp p a) := by
  unfold storeOp
  extract_lets n w d pl x layer r go pad p1 counted p2
  have rows : Canon go.1 := foldl_fst_canon (storeOwn_canon hp) fun _ _ hq => storeRow_canon hq
  have padded : Canon p1 := ite_canon rows (storeAt_canon rows)
  exact wordDone_canon (modData_canon (modStep_canon padded) fun _ h => by rwa [setPlane_sram])
theorem storeRowOp_canon {p : Pkg} {a : Nat} (hp : Canon p) : Canon (storeRowOp p a) :=
  wordDone_canon (foldl_canon (storeOwn_canon hp) fun _ _ hq => storeAt_canon hq)
theorem masksetOp_canon {p : Pkg} {a : Nat} (hp : Canon p) : Canon (masksetOp p a) :=
  wordDone_canon (modData_canon hp fun _ h => by
    dsimp only
    split <;> exact h)

/-! #### NV slots -/

theorem modNvw_canon {p : Pkg} {f : Nvw → Nvw} (hp : Canon p) : Canon (modNvw p f) := same_canon hp (by simp)
theorem judgeVerify_canon {p : Pkg} (hp : Canon p) : Canon (judgeVerify p) := same_canon hp (by simp)
theorem readReplica_canon {p : Pkg} {x : Replica} {off len : Nat} (hp : Canon p) : Canon (readReplica p x off len) :=
  same_canon hp (by simp)
theorem payloadDone_canon {p : Pkg} {x : Replica} {off len : Nat} (hp : Canon p) : Canon (payloadDone p x off len) :=
  same_canon hp (by simp)
theorem headerDone_canon {p : Pkg} {x : Replica} (hp : Canon p) : Canon (headerDone p x) := same_canon hp (by simp)
theorem slotBad_canon {p : Pkg} {k off : Nat} (hp : Canon p) : Canon (slotBad p k off) := same_canon hp (by simp)
theorem writeSpoiled_canon {p : Pkg} {k off : Nat} (hp : Canon p) : Canon (writeSpoiled p k off) := same_canon hp (by simp)
theorem modReplica_canon {p : Pkg} {i : Nat} {f : Replica → Replica} (hp : Canon p) : Canon (modReplica p i f) :=
  same_canon hp (by simp)

/-! #### The loader -/

theorem modLdr_canon {p : Pkg} {f : Ldr → Ldr} (hp : Canon p) : Canon (modLdr p f) := same_canon hp (by simp)
theorem claimAll_canon {p : Pkg} {n : Nat} {b : Bytes} {i : Image} (hp : Canon p) : Canon (claimAll p n b i).1 :=
  same_canon hp (by simp)
theorem dropClaims_canon {p : Pkg} {n : Nat} (hp : Canon p) : Canon (dropClaims p n) := same_canon hp (by simp)
theorem fillWeights_canon {p : Pkg} {n : Nat} {i : Image} (hp : Canon p) : Canon (fillWeights p n i) :=
  forAll_canon hp (fun _ _ hq => foldl_fst_canon hq (fun _ _ hr => by
    split
    · exact bufPut_canon hr
    · exact hr))
theorem ldrDone_canon {p : Pkg} {f : Ldr → Ldr} (hp : Canon p) : Canon (ldrDone p f) := same_canon hp (by simp)
theorem bindDone_canon {p : Pkg} {n : Nat} {i : Image} {cls : List Nat} (hp : Canon p) : Canon (bindDone p n i cls) := by
  unfold bindDone
  extract_lets g bufs p1 pl p2 p3 p4 p5 p6
  have h1 : Canon p1 :=
    nextFree_canon (modPen_canon hp fun _ h => ⟨foldl_inv _ (P := BufsOk) allOf_nil fun _ _ h => AllOf.set h memOk_nil _, h.2⟩)
  have h2 : Canon p2 := modPen_canon h1 fun _ h => ⟨h.1, bindPool_frames⟩
  have h5 : Canon p5 := log_canon (ldrDone_canon (placePen_canon (fillWeights_canon h2)))
  refine penTo_canon ?_
  unfold p6
  split
  · exact log_canon h5
  · exact h5
theorem bindRefused_canon {p : Pkg} {n : Nat} {f : LdrFail} (hp : Canon p) : Canon (bindRefused p n f) :=
  ite_canon (log_canon (ldrDone_canon hp)) (penTo_canon (dropClaims_canon (log_canon (ldrDone_canon hp))))
theorem askRechecks_canon {p : Pkg} {es : List Nat} (hp : Canon p) : Canon (askRechecks p es) := same_canon hp (by simp)
theorem askFills_canon {p : Pkg} {i : Image} {ks : List Nat} (hp : Canon p) : Canon (askFills p i ks) := same_canon hp (by simp)
theorem bindEnd_canon {p : Pkg} {n : Nat} {image : Option Bytes} {placed : Bool} (hp : Canon p) : Canon (bindEnd p n image placed) := by
  unfold bindEnd
  split
  · exact bindRefused_canon hp
  · exact bindRefused_canon hp
  · split
    · exact askRechecks_canon hp
    · exact askFills_canon hp
    · exact judgeVerify_canon (bindRefused_canon (ite_canon (claimAll_canon hp) hp))
    · exact judgeVerify_canon (bindDone_canon (claimAll_canon hp))
theorem unbindStart_canon {p : Pkg} {n : Nat} (hp : Canon p) : Canon (unbindStart p n) := penTo_canon (modLdr_canon hp)
theorem unbindEnd_canon {p : Pkg} {n : Nat} (hp : Canon p) : Canon (unbindEnd p n) := by
  unfold unbindEnd
  extract_lets i p1 p2
  have h2 : Canon p2 := dropClaims_canon (discardPool_canon (forAll_canon hp fun _ _ hq => endReq_canon hq))
  exact penTo_canon (log_canon (ldrDone_canon (modPen_canon h2 fun _ h => ⟨allOf_nil, h.2⟩)))
theorem bindTake_canon {p : Pkg} {n : Nat} (hp : Canon p) : Canon (bindTake p n) :=
  ite_canon (ite_canon (penTo_canon (modLdr_canon (modLdr_canon hp))) (send_canon (penTo_canon (modLdr_canon
    (modLdr_canon hp))))) (bindRefused_canon (modLdr_canon hp))
theorem unbindTake_canon {p : Pkg} {n : Nat} (hp : Canon p) : Canon (unbindTake p n) :=
  ite_canon (unbindStart_canon (modLdr_canon hp)) (ldrDone_canon (modLdr_canon hp))
theorem ldrCmd_canon {p : Pkg} {op n : Nat} (hp : Canon p) : Canon (ldrCmd p op n) :=
  ite_canon (modLdr_canon hp) (ite_canon (bindTake_canon hp) (ite_canon (unbindTake_canon hp) (modLdr_canon hp)))

/-! #### Runs of segments -/

theorem modSetRuns_canon {p : Pkg} {n : Nat} {ok : SegRun → Bool} {f : SegRun → SegRun} {g : SegRun → ArrData → ArrData} (hp : Canon p)
    (hg : ∀ r d, MemOk d.sram → MemOk (g r d).sram) : Canon (modSetRuns p n ok f g) :=
  forAll_canon hp fun _ _ hq => modArr_canon hq fun _ h => ⟨modRunsIf_mem h.1 hg, modRunsIf_saved h.2 hg⟩
theorem restartRuns_canon {p : Pkg} {n : Nat} {ok : SegRun → Bool} {layerOf : SegRun → Nat} (hp : Canon p) :
    Canon (restartRuns p n ok layerOf) := modStep_canon (modSetRuns_canon hp fun _ _ => id)
theorem moveWaiting_canon {p : Pkg} {n g : Nat} (hp : Canon p) : Canon (moveWaiting p n g) := restartRuns_canon (modStep_canon hp)

/-! #### The exchange -/

theorem selectHalf_canon {p : Pkg} {n e h : Nat} (hp : Canon p) : Canon (selectHalf p n e h) := by
  unfold selectHalf
  dsimp only
  split
  · exact hp
  · exact modStep_canon hp
theorem boardPut_canon {p : Pkg} {n off : Nat} {b : Bytes} (hp : Canon p) : Canon (boardPut p n off b) := by
  unfold boardPut
  split
  · exact bufPut_canon hp
  · exact hp
theorem keepRecord_canon {p : Pkg} {n : Nat} {r : CountRec} (hp : Canon p) : Canon (keepRecord p n r) :=
  modPen_canon (ite_canon (boardPut_canon hp) hp) fun _ => id
theorem keepMark_canon {p : Pkg} {n : Nat} {m : Mark} (hp : Canon p) : Canon (keepMark p n m) :=
  modPen_canon (boardPut_canon hp) fun _ => id
theorem sendRecord_canon {p : Pkg} {n : Nat} {step : Bool} {r : CountRec} (hp : Canon p) : Canon (sendRecord p n step r) :=
  keepRecord_canon (forAll_canon hp fun _ _ hq => fwStore_canon hq)
theorem sendMark_canon {p : Pkg} {n kind x round : Nat} {last : Bool} (hp : Canon p) : Canon (sendMark p n kind x round last) :=
  keepMark_canon (forAll_canon hp fun _ _ hq => fwStore_canon hq)
theorem wideEntryOp_canon {p : Pkg} {n e : Nat} (hp : Canon p) : Canon (wideEntryOp p n e) :=
  ite_canon hp (moveWaiting_canon (log_canon (modStep_canon hp)))
theorem logSpill_canon {p : Pkg} {n e h rounds top : Nat} (hp : Canon p) : Canon (logSpill p n e h rounds top) :=
  ite_canon (log_canon (modPen_canon hp (fun _ => id))) hp
theorem decideStepX_canon {p : Pkg} {n : Nat} (hp : Canon p) : Canon (decideStepX p n) := modStep_canon hp
theorem decideRouting_canon {p : Pkg} {n e h : Nat} (hp : Canon p) : Canon (decideRouting p n e h) :=
  ite_canon (logSpill_canon (modPen_canon (ite_canon (wideEntryOp_canon (modStep_canon hp)) (modStep_canon hp)) (fun _ => id)))
    (ite_canon (wideEntryOp_canon (modStep_canon hp)) (modStep_canon hp))
theorem decideNext_canon {p : Pkg} {n : Nat} (hp : Canon p) : Canon (decideNext p n) := by
  unfold decideNext
  dsimp only
  split
  · exact hp
  · exact ite_canon (ite_canon (decideStepX_canon hp) (decideRouting_canon hp)) hp
theorem writePiece_canon {p : Pkg} {n e f s : Nat} {a : Place} {pan : Nat} {b : Bytes} (hp : Canon p) :
    Canon (writePiece p n e f s a pan b) := bufPut_canon (bufPut_canon hp)
theorem writeTags_canon {p : Pkg} {n e region slot row : Nat} {b : Bytes} (hp : Canon p) : Canon (writeTags p n e region slot row b) :=
  bufPut_canon hp
theorem sendRow_canon {p : Pkg} {n : Nat} {d : Decided} {a : RowOf} (hp : Canon p) : Canon (sendRow p n d a) :=
  ite_canon (writeTags_canon (forAll_canon hp (fun _ _ hq => writePiece_canon hq))) (by
    split
    · exact hp
    · exact fwStore_canon (forAll_canon hp (fun _ _ hq => fwStore_canon hq)))
theorem modDecided_canon {p : Pkg} {n x : Nat} {f : Decided → Decided} (hp : Canon p) : Canon (modDecided p n x f) :=
  modStep_canon hp
theorem sendRound_canon {p : Pkg} {n : Nat} {d : Decided} (hp : Canon p) : Canon (sendRound p n d) :=
  modDecided_canon (sendMark_canon (forAll_canon hp fun _ _ hq => sendRow_canon hq))
theorem sendNext_canon {p : Pkg} {n : Nat} (hp : Canon p) : Canon (sendNext p n) :=
  modStep_canon (forAll_canon hp fun _ _ hq => ite_canon (sendRound_canon hq) hq)
theorem sendWaiting_canon {p : Pkg} {n : Nat} {fuel : Nat} (hp : Canon p) : Canon (sendWaiting p n fuel) := by
  induction fuel generalizing p with
  | zero => exact hp
  | succ k ih => exact ite_canon (sendNext_canon hp) (ih (sendNext_canon hp))
theorem drive1_canon {p : Pkg} {n : Nat} (hp : Canon p) : Canon (drive1 p n) := sendNext_canon (decideNext_canon hp)
theorem drive_canon {p : Pkg} {n : Nat} {fuel : Nat} (hp : Canon p) : Canon (drive p n fuel) := by
  induction fuel generalizing p with
  | zero => exact hp
  | succ k ih => exact ite_canon (drive1_canon hp) (ih (drive1_canon hp))
theorem recordIn_canon {p : Pkg} {n slot : Nat} {b : Bytes} (hp : Canon p) : Canon (recordIn p n slot b) := by
  unfold recordIn
  dsimp only
  split
  · exact log_canon hp
  · exact drive_canon (keepRecord_canon hp)
theorem markIn_canon {p : Pkg} {n kind slot w : Nat} (hp : Canon p) : Canon (markIn p n kind slot w) :=
  drive_canon (keepMark_canon hp)
theorem pieceIn_canon {p : Pkg} {n off : Nat} {b : Bytes} (hp : Canon p) : Canon (pieceIn p n off b).2 := by
  unfold pieceIn
  dsimp only
  split
  · split
    · exact hp
    · exact writePiece_canon hp
  · split
    · exact hp
    · exact writePiece_canon hp
theorem tagsIn_canon {p : Pkg} {n off : Nat} {b : Bytes} (hp : Canon p) : Canon (tagsIn p n off b).2 := by
  unfold tagsIn
  dsimp only
  split
  · exact hp
  · exact writeTags_canon hp
theorem combineIn_canon {p : Pkg} {n off : Nat} {b : Bytes} (hp : Canon p) : Canon (combineIn p n off b).2 := by
  unfold combineIn
  dsimp only
  split
  · exact hp
  · exact bufPut_canon hp
theorem openExchange_canon {p : Pkg} {n e h : Nat} (hp : Canon p) : Canon (openExchange p n e h) :=
  ite_canon hp (sendRecord_canon (selectHalf_canon hp))
theorem routerReleased_canon {p : Pkg} {n layer : Nat} (hp : Canon p) : Canon (routerReleased p n layer) := by
  unfold routerReleased
  dsimp only
  split
  · exact hp
  · exact drive_canon (ite_canon (openExchange_canon (openExchange_canon hp)) (openExchange_canon hp))
theorem sendBack_canon {p : Pkg} {n : Nat} {d : Decided} {f slot row : Nat} (hp : Canon p) : Canon (sendBack p n d f slot row) :=
  forAll_canon hp (fun _ _ hq => ite_canon (bufPut_canon hq) (by
    split
    · exact hq
    · exact forAll_canon hq (fun _ _ hr => fwStore_canon hr)))
theorem expertsReleased_canon {p : Pkg} {n layer : Nat} (hp : Canon p) : Canon (expertsReleased p n layer) := by
  unfold expertsReleased
  dsimp only
  split
  · exact hp
  · exact drive_canon (modDecided_canon (sendMark_canon (forAll_canon (sendMark_canon hp) fun _ _ hq => sendBack_canon hq)))
theorem combineHalf_canon {p : Pkg} {n : Nat} {d : Decided} (hp : Canon p) : Canon (combineHalf p n d) :=
  forAll_canon hp fun _ _ hq => bufPut_canon hq

/-! #### Fetches -/

theorem slotWordIn_canon {p : Pkg} {n off w : Nat} (hp : Canon p) : Canon (slotWordIn p n off w).2 := by
  unfold slotWordIn
  split
  · exact hp
  · split
    · exact hp
    · exact modPen_canon hp fun _ => id
theorem sendSlotWords_canon {p : Pkg} {n : Nat} (hp : Canon p) : Canon (sendSlotWords p n) :=
  forAll_canon hp fun _ _ hq => slotWordIn_canon (forAll_canon hq fun _ _ hr => fwStore_canon hr)
theorem candIn_canon {p : Pkg} {n off : Nat} {b : Bytes} (hp : Canon p) : Canon (candIn p n off b).2 := by
  unfold candIn
  dsimp only
  split
  · exact hp
  · split
    · exact hp
    · split
      · exact hp
      · split
        · exact hp
        · exact modStep_canon hp
theorem sendCands_canon {p : Pkg} {n : Nat} (hp : Canon p) : Canon (sendCands p n) :=
  forAll_canon hp (fun _ _ hq => ite_canon (candIn_canon hq) (by
    split
    · exact fwStore_canon hq
    · exact hq))
theorem noteDegenerate_canon {p : Pkg} {e k : Nat} (hp : Canon p) : Canon (noteDegenerate p e k) := same_canon hp (by simp)
theorem selectSlot_canon {p : Pkg} {n s : Nat} {u : SlotUse} (hp : Canon p) : Canon (selectSlot p n s u) :=
  forAll_canon (upd_canon (modStep_canon hp)) fun _ _ hq => noteDegenerate_canon hq

/-! #### Steps -/

theorem takeTokSlot_canon {p : Pkg} {e : Nat} (hp : Canon p) : Canon (takeTokSlot p e) :=
  ite_canon (modBind_canon (modReq_canon hp) (fun _ => id)) (modCtx_canon (modReq_canon hp))
theorem placeReq_canon {p : Pkg} {n : Nat} {f : Fill} {e : Nat} {ss : List Nat} {us : List SlotUse} {stop : Nat} (hp : Canon p) :
    Canon (placeReq p n f e ss us stop).1 := by
  unfold placeReq
  dsimp only
  refine modPool_canon (modCtx_canon (modReq_canon (takeTokSlot_canon (growBlocks_canon hp)))) fun _ h => ?_
  exact foldl_pin_frames h
theorem placeOne_canon {n : Nat} {a : Pkg × Fill} {x : Nat × Option (List Nat)} (hp : Canon a.1) : Canon (placeOne n a x).1 := by
  obtain ⟨p, f⟩ := a
  unfold placeOne
  refine ite_fst_canon hp (ite_fst_canon hp ?_)
  split
  · exact placeReq_canon (growFor_canon ‹_› hp)
  · exact hp
theorem fillStep_canon {p : Pkg} {n : Nat} (hp : Canon p) : Canon (fillStep p n).1 :=
  foldl_fst_canon hp fun _ _ hq => placeOne_canon hq
theorem fetchFirst_canon {p : Pkg} {r : Nat} (hp : Canon p) : Canon (fetchFirst p r) := same_canon hp (by simp)
theorem chooseShards_canon {p : Pkg} {n : Nat} (hp : Canon p) : Canon (chooseShards p n).1 :=
  foldl_fst_canon (modPen_canon hp (fun _ => id)) (fun _ _ hq => by
    split
    · exact fetchFirst_canon hq
    · exact hq)
theorem freshBuffers_canon {p : Pkg} {n : Nat} (hp : Canon p) : Canon (freshBuffers p n) := by
  refine nextFree_canon (mapBufs_canon hp fun _ _ hb => ?_)
  split
  · exact hb
  · exact memOk_nil
theorem setupStart_canon {p : Pkg} {n : Nat} (hp : Canon p) : Canon (setupStart p n) := by
  unfold setupStart
  extract_lets p1 p2
  have h1 : Canon p1 := ite_canon (placePen_canon hp) hp
  have h2 : Canon p2 := ite_canon h1 (modPen_canon h1 fun _ => id)
  split
  next p3 f hf =>
  have h3 : Canon p3 := by
    have := fillStep_canon (n := n) h2
    rwa [hf] at this
  extract_lets starved p3a p3b
  have starves {q : Pkg} (hq : Canon q) : Canon (starved q) := by
    unfold starved
    split
    · exact preemptFor_canon (logStarved_canon hq)
    · exact hq
  have h3b : Canon p3b := forAll_canon (forAll_canon h3 fun _ _ hq => stallCtx_canon hq) fun _ _ hq => judgeTq_canon hq
  split
  · exact starves h3b
  · split
    next p4 reps hc =>
    have h4 : Canon p4 := by
      have := chooseShards_canon (n := n) h3b
      rwa [hc] at this
    exact starves (forAll_canon (modPen_canon (freshBuffers_canon (predHere_canon h4)) fun _ => id) fun _ _ hq =>
      modArr_canon hq fun _ => loadArr_mem)
theorem setupDone_canon {p : Pkg} {n : Nat} (hp : Canon p) : Canon (setupDone p n) :=
  drive_canon (sendRecord_canon (sendSlotWords_canon (modStep_canon hp)))
theorem stepRelease_canon {p : Pkg} {n : Nat} (hp : Canon p) : Canon (stepRelease p n) :=
  modPen_canon (modStep_canon hp) fun _ => id
theorem startSeg_canon {p : Pkg} {a : Nat} (hp : Canon p) : Canon (startSeg p a) := modArr_canon hp fun _ => id
theorem switchSeg_canon {p : Pkg} {a : Nat} (hp : Canon p) : Canon (switchSeg p a) :=
  modArr_canon hp fun _ h => ⟨savedOk_getD h.2, savedOk_some h.1⟩
theorem completeGen_canon {p : Pkg} {n b : Nat} (hp : Canon p) : Canon (completeGen p n b) :=
  modSetRuns_canon (modStep_canon hp) fun _ _ => id
theorem syncOp_canon {p : Pkg} {a : Nat} {arr wait : Bool} (hp : Canon p) : Canon (syncOp p a arr wait) :=
  wordDone_canon (modArr_canon hp fun _ => id)
theorem layerEndOp_canon {p : Pkg} {a : Nat} (hp : Canon p) : Canon (layerEndOp p a) := modArr_canon hp fun _ => id
theorem endOp_canon {p : Pkg} {a : Nat} (hp : Canon p) : Canon (endOp p a) :=
  ite_canon (sendCands_canon (modArr_canon hp (fun _ => id))) (modArr_canon hp fun _ => id)
theorem scoreOp_canon {p : Pkg} {a : Nat} (hp : Canon p) : Canon (scoreOp p a) := wordDone_canon (modArr_canon hp fun _ => id)
theorem logLayer_canon {p : Pkg} {n layer code : Nat} {s : Summary} (hp : Canon p) : Canon (logLayer p n layer code s) :=
  log_canon hp
theorem releaseLayer_canon {p : Pkg} {n layer : Nat} (hp : Canon p) : Canon (releaseLayer p n layer) := by
  unfold releaseLayer
  refine expertsReleased_canon (routerReleased_canon (modSetRuns_canon (modStep_canon (completeGen_canon hp)) fun _ d h => ?_))
  rwa [fresh_sram]
theorem replayLayer_canon {p : Pkg} {n layer kind : Nat} (hp : Canon p) : Canon (replayLayer p n layer kind) :=
  restartRuns_canon (modStep_canon hp)
theorem rescale_canon {p : Pkg} {n layer : Nat} {r : LRec} {s : Summary} (hp : Canon p) : Canon (rescale p n layer r s) :=
  replayLayer_canon (ite_canon (logLayer_canon (modPen_canon (modPen_canon (modStep_canon hp) (fun _ => id)) (fun _ => id)))
    (modPen_canon (modStep_canon hp) fun _ => id))
theorem widenLayer_canon {p : Pkg} {n layer : Nat} {s : Summary} (hp : Canon p) : Canon (widenLayer p n layer s) :=
  replayLayer_canon (logLayer_canon (moveWaiting_canon (nextFree_canon (modPen_canon (modStep_canon hp) fun _ => id))))
theorem layerDoneOp_canon {p : Pkg} {n layer : Nat} (hp : Canon p) : Canon (layerDoneOp p n layer) :=
  ite_canon (releaseLayer_canon (modStep_canon hp)) (ite_canon (releaseLayer_canon (ite_canon (modStep_canon hp) (logLayer_canon
    (modStep_canon (modStep_canon hp))))) (ite_canon (rescale_canon (modStep_canon hp)) (widenLayer_canon (modStep_canon hp))))
theorem retireKv_canon {p : Pkg} {t : Step} {e : Nat} (hp : Canon p) : Canon (retireKv p t e) :=
  evictReq_canon (growBlocks_canon (forAll_canon (modReq_canon (modReq_canon hp)) fun _ _ hq => addMass_canon hq))
theorem turnEnd_canon {p : Pkg} {e : Nat} (hp : Canon p) : Canon (turnEnd p e) :=
  ite_canon (endReq_canon (modReq_canon hp)) (pauseReq_canon (logEvent_canon (modReq_canon hp)))
theorem deliver_canon {p : Pkg} {e : Nat} {s : Selection} (hp : Canon p) : Canon (deliver p e s) :=
  ite_canon (turnEnd_canon (growBlocks_canon (ite_canon (pushTok_canon (modReq_canon hp)) (pushCq_canon (modReq_canon hp)))))
    (growBlocks_canon (ite_canon (pushTok_canon (modReq_canon hp)) (pushCq_canon (modReq_canon hp))))
theorem retireOne_canon {p : Pkg} {t : Step} {e : Nat} (hp : Canon p) : Canon (retireOne p t e) :=
  ite_canon (retireReq_canon (dropTokSlot_canon (retireKv_canon (by
    split
    · exact ite_canon (upd_canon (modReq_canon hp)) (modReq_canon hp)
    · exact modReq_canon hp)))) (retireReq_canon (by
    split
    · exact deliver_canon (retireKv_canon (by
    split
    · exact ite_canon (upd_canon (modReq_canon hp)) (modReq_canon hp)
    · exact modReq_canon hp))
    · exact dropTokSlot_canon (retireKv_canon (by
    split
    · exact ite_canon (upd_canon (modReq_canon hp)) (modReq_canon hp)
    · exact modReq_canon hp))))
theorem stepDoneOp_canon {p : Pkg} {n : Nat} (hp : Canon p) : Canon (stepDoneOp p n) := by
  unfold stepDoneOp
  extract_lets _ _ _ p1 p2 p2a _ p3
  have h2 : Canon p2 := modPen_canon (haltArrays_canon hp) fun _ h => ⟨h.1, h.2⟩
  have h3 : Canon p3 := upd_canon (ite_canon h2 (newCount_canon h2))
  exact modPool_canon (forAll_canon h3 fun _ _ hq => retireOne_canon hq) fun _ => foldl_unpin_frames

/-! #### Rings -/

theorem judgeStall_canon {p : Pkg} {c : Nat} (hp : Canon p) : Canon (judgeStall p c) := same_canon hp (by simp)
theorem imprintRefuse_canon {p : Pkg} {c slot0 : Nat} {d : Desc} {status : Nat} (hp : Canon p) :
    Canon (imprintRefuse p c slot0 d status) := answer_canon (log_canon hp)
theorem answerOdd_canon {p : Pkg} {c : Nat} {d : Desc} (hp : Canon p) : Canon (answerOdd p c d) :=
  ite_canon (answer_canon hp) (ite_canon (imprintRefuse_canon hp) (answer_canon hp))
theorem flushOdd_canon {p : Pkg} {s : Src} {fuel : Nat} (hp : Canon p) : Canon (flushOdd p s fuel) := by
  induction fuel generalizing p with
  | zero => exact hp
  | succ k ih =>
    unfold flushOdd
    split
    · exact ite_canon (ih (answerOdd_canon hp)) hp
    · exact hp
theorem pumpRing_canon {p : Pkg} {c : Nat} (hp : Canon p) : Canon (pumpRing p c) := same_canon hp (by simp)
theorem beginDesc_canon {p : Pkg} {c : Nat} {d : Desc} {f : Desc → Desc} (hp : Canon p) : Canon (beginDesc p c d f) :=
  ite_canon (modCtx_canon hp) (modHcore_canon hp)
theorem evalDesc_canon {p : Pkg} {s : Src} {type : Nat} {f : Pkg → Nat → Desc → Pkg} (hp : Canon p)
    (hf : ∀ q c d, Canon q → Canon (f q c d)) : Canon (evalDesc p s type f) := by
  unfold evalDesc
  split
  · exact ite_canon (hf _ _ _ hp) (flushOdd_canon (hf _ _ _ (flushOdd_canon hp)))
  · exact ite_canon hp (flushOdd_canon hp)

/-! #### Contexts -/

theorem enableCtx_canon {p : Pkg} {c : Nat} (hp : Canon p) : Canon (enableCtx p c) := same_canon hp (by simp)
theorem ctxEnableBit_canon {p : Pkg} {c : Nat} {on : Bool} (hp : Canon p) : Canon (ctxEnableBit p c on) :=
  ite_canon (ite_canon (enableCtx_canon hp) hp) (ite_canon (ctxResetOp_canon (modCtx_canon hp)) hp)
theorem ctxCtrlWrite_canon {p : Pkg} {fn c v : Nat} (hp : Canon p) : Canon (ctxCtrlWrite p fn c v) :=
  ctxEnableBit_canon (ite_canon hp (ite_canon (modCtx_canon hp) (noteNotAllowed_canon hp)))
theorem irqModWrite_canon {p : Pkg} {c v : Nat} (hp : Canon p) : Canon (irqModWrite p c v) := same_canon hp (by simp)
theorem whileDisabled_canon {p : Pkg} {fn c off size : Nat} {f : Ctx → Ctx} (hp : Canon p) : Canon (whileDisabled p fn c off size f) :=
  same_canon hp (by simp)
theorem ctxRegWrite_canon {p : Pkg} {fn c off size v : Nat} (hp : Canon p) : Canon (ctxRegWrite p fn c off size v) := by
  unfold ctxRegWrite
  split
  · exact ctxCtrlWrite_canon hp
  · exact modCtx_canon hp
  · exact ite_canon (ctxResetOp_canon hp) hp
  · exact whileDisabled_canon hp
  · exact whileDisabled_canon hp
  · exact whileDisabled_canon hp
  · exact whileDisabled_canon hp
  · exact modCtx_canon hp
  · exact irqModWrite_canon hp
  · exact hp
theorem functionReset_canon {p : Pkg} {fn : Nat} (hp : Canon p) : Canon (functionReset p fn) :=
  forAll_canon hp fun _ _ hq => ctxResetOp_canon hq
theorem setNumVfs_canon {p : Pkg} {n : Nat} (hp : Canon p) : Canon (setNumVfs p n) :=
  forAll_canon (upd_canon hp) fun _ _ hq => modCtx_canon (ctxResetOp_canon hq)
theorem resetDone_canon {p : Pkg} {c : Nat} {failed : Option Nat} (hp : Canon p) : Canon (resetDone p c failed) :=
  ite_canon (by
    split
    · exact hostError_canon (send_canon (send_canon (forAll_canon hp (fun _ _ hq => closeReq_canon hq))))
    · exact log_canon (modCtx_canon (send_canon (send_canon (forAll_canon hp (fun _ _ hq => closeReq_canon hq)))))) (log_canon
      (modCtx_canon (forAll_canon hp (fun _ _ hq => closeReq_canon hq))))
theorem sendDue_canon {p : Pkg} {c : Nat} (hp : Canon p) : Canon (sendDue p c) := same_canon hp (by simp)

/-! #### Descriptors -/

theorem admitOp_canon {p : Pkg} {c : Nat} {d : Desc} (hp : Canon p) : Canon (admitOp p c d) := by
  unfold admitOp
  dsimp only
  split
  · exact answer_canon (noteDenied_canon (giveBack_canon hp))
  · exact hp
  · exact ite_canon (decideAdmit_canon (upd_canon (beginDesc_canon hp))) (upd_canon (beginDesc_canon hp))
theorem byHandle_canon {p : Pkg} {c : Nat} {d : Desc} {fields : List (Option Nat)} {f : Pkg → Nat → Pkg} (hp : Canon p)
    (hf : ∀ q e, Canon q → Canon (f q e)) : Canon (byHandle p c d fields f) := by
  unfold byHandle
  dsimp only
  split
  · exact answerReq_canon hp
  · exact answer_canon hp
  · exact hf _ _ hp
  · exact hp
theorem ended_canon {p : Pkg} {e : Nat} {d : Desc} {f : Pkg → Pkg} (hp : Canon p) (hf : ∀ q, Canon q → Canon (f q)) :
    Canon (ended p e d f) := ite_canon (answerReq_canon hp) (ite_canon (answerReq_canon hp) (hf _ hp))
theorem holdDesc_canon {p : Pkg} {e : Nat} {d : Desc} {front : Bool} (hp : Canon p) : Canon (holdDesc p e d front) :=
  modReq_canon (beginDesc_canon hp)
theorem appendOp_canon {p : Pkg} {c : Nat} {d : Desc} (hp : Canon p) : Canon (appendOp p c d) := by
  unfold appendOp
  exact byHandle_canon hp fun _ _ hq => ended_canon hq fun _ hr => issueRead_canon (modReq_canon (beginDesc_canon hr))
theorem cancelOp_canon {p : Pkg} {c : Nat} {d : Desc} (hp : Canon p) : Canon (cancelOp p c d) := by
  unfold cancelOp
  exact byHandle_canon hp fun _ _ hq => ite_canon (modReq_canon (endReq_canon (holdDesc_canon hq))) (ite_canon
    (answerReq_canon hq) (ite_canon (holdDesc_canon hq) (ite_canon (modReq_canon (holdDesc_canon hq)) (endReq_canon
    (holdDesc_canon hq)))))
theorem pauseOp_canon {p : Pkg} {c : Nat} {d : Desc} (hp : Canon p) : Canon (pauseOp p c d) := by
  unfold pauseOp
  exact byHandle_canon hp fun _ _ hq => ended_canon hq fun _ hr => ite_canon (modReq_canon (holdDesc_canon hr))
    (applyPause_canon hr)
theorem resumeReq_canon {p : Pkg} {c e : Nat} {d : Desc} (hp : Canon p) : Canon (resumeReq p c e d) :=
  ite_canon (answerReq_canon (modReq_canon (stopCopies_canon hp))) (startCopy_canon (modReq_canon (beginDesc_canon (modReq_canon
    (stopCopies_canon hp)))))
theorem resumeOp_canon {p : Pkg} {c : Nat} {d : Desc} (hp : Canon p) : Canon (resumeOp p c d) := by
  unfold resumeOp
  exact byHandle_canon hp fun _ _ hq => ended_canon hq fun _ hr => ite_canon (resumeReq_canon hr) (answerReq_canon hr)
theorem samplingOp_canon {p : Pkg} {c : Nat} {d : Desc} (hp : Canon p) : Canon (samplingOp p c d) := by
  unfold samplingOp
  dsimp only
  split
  · exact answer_canon hp
  · exact answer_canon (modCtx_canon hp)
theorem fenceOp_canon {p : Pkg} {c : Nat} {d : Desc} (hp : Canon p) : Canon (fenceOp p c d) := by
  unfold fenceOp
  dsimp only
  split
  · exact answer_canon hp
  · exact beginDesc_canon (modCtx_canon hp)
theorem rollcallOp_canon {p : Pkg} {c : Nat} {d : Desc} (hp : Canon p) : Canon (rollcallOp p c d) := by
  unfold rollcallOp
  dsimp only
  split
  · exact answer_canon hp
  · exact beginDesc_canon (modCtx_canon hp)

/-! #### Host copies -/

theorem copyAdvance_canon {p : Pkg} {n : Nat} {k : Copy} (hp : Canon p) : Canon (copyAdvance p n k) := by
  unfold copyAdvance
  exact modPool_canon hp fun _ => id
theorem landOut_canon {p : Pkg} {n : Nat} {k : Copy} {key : Nat} (hp : Canon p) : Canon (landOut p n k key) := by
  unfold landOut
  dsimp only
  split
  · exact noteKennelFull_canon hp
  · exact ite_canon hp (upd_canon (forAll_canon (modCtx_canon (send_canon hp)) fun _ _ hq =>
      modReq_canon (modPool_canon hq fun _ => dropRef_frames)))
  · exact hp
theorem frameBack_canon {p q : Pkg} {k : Copy} {key refs f : Nat} (hx : frameBack p k key refs = some (f, q)) (hp : Canon p) : Canon q := by
  unfold frameBack at hx
  dsimp only at hx
  split at hx
  · cases hx
  · next hf =>
    have taken := takeFrame_frames hf (hp.pool _)
    cases hx
    exact modReq_canon (modPool_canon hp fun _ _ => taken)
theorem landIn_canon {p : Pkg} {n : Nat} {k : Copy} {key : Nat} {b : Bytes} (hp : Canon p) : Canon (landIn p n k key b) := by
  unfold landIn
  dsimp only
  split
  · split
    · exact hp
    · exact upd_canon (forAll_canon (modCtx_canon (framePut_canon (frameBack_canon ‹_› hp))) fun _ _ hq => growBlocks_canon
      (modReq_canon hq))
  · exact hp
theorem readBack_canon {p : Pkg} {n : Nat} {k : Copy} (hp : Canon p) : Canon (readBack p n k) := same_canon hp (by simp)
theorem leaveSwapped_canon {p : Pkg} {e : Nat} (hp : Canon p) : Canon (leaveSwapped p e) :=
  ite_canon (applyHeld_canon (closeResume_canon (modReq_canon hp))) hp
theorem pagesBack_canon {p : Pkg} {e : Nat} (hp : Canon p) : Canon (pagesBack p e) := same_canon hp (by simp)
theorem leaveBack_canon {p : Pkg} {es : List Nat} (hp : Canon p) : Canon (leaveBack p es) :=
  forAll_canon hp fun _ _ hq => leaveSwapped_canon hq
theorem contextIn_canon {p : Pkg} {n c : Nat} (hp : Canon p) : Canon (contextIn p n c) :=
  forAll_canon (logEvent_canon (modCtx_canon (modPool_canon hp (fun _ => id)))) fun _ _ hq => pagesBack_canon hq
theorem judgeSwap_canon {p : Pkg} {n : Nat} (hp : Canon p) : Canon (judgeSwap p n) := by
  unfold judgeSwap
  split
  · exact ite_canon hp (ite_canon (contextIn_canon hp) (modPool_canon hp fun _ => id))
  · exact hp
theorem copyEnded_canon {p : Pkg} {k : Copy} (hp : Canon p) : Canon (copyEnded p k) :=
  ite_canon hp (ite_canon (closeResume_canon hp) (ite_canon (pagesBack_canon hp) (judgeSwap_canon hp)))
theorem copyLands_canon {p : Pkg} {n : Nat} {data : Option Bytes} (hp : Canon p) : Canon (copyLands p n data) := by
  unfold copyLands
  dsimp only
  split
  · exact hp
  · split
    · exact hostError_canon (ite_canon hp (readBack_canon hp))
    · exact forAll_canon (copyAdvance_canon (ite_canon (landOut_canon (ite_canon hp (readBack_canon hp))) (landIn_canon
      (ite_canon hp (readBack_canon hp))))) fun _ _ hq => copyEnded_canon hq
theorem beginReturn_canon {p : Pkg} {e : Nat} (hp : Canon p) : Canon (beginReturn p e) :=
  ite_canon (leaveSwapped_canon hp) (startCopy_canon hp)
theorem returnsOf_canon {p : Pkg} {n : Nat} (hp : Canon p) : Canon (returnsOf p n) :=
  forAll_canon (forAll_canon (leaveBack_canon hp) (fun _ _ hq => ite_canon
    (beginReturn_canon hq) hq)) fun _ _ hq => returnShort_canon hq
theorem swapIn_canon {p : Pkg} {n c : Nat} (hp : Canon p) : Canon (swapIn p n c) :=
  judgeSwap_canon (forAll_canon (modPool_canon hp (fun _ => id)) fun _ _ hq => startCopy_canon hq)
theorem swapOut_canon {p : Pkg} {n c : Nat} (hp : Canon p) : Canon (swapOut p n c) :=
  judgeSwap_canon (logEvent_canon (forAll_canon (modPool_canon (modCtx_canon hp) (fun _ => id)) fun _ _ hq => startCopy_canon
    (stopCopies_canon (ite_canon (modReq_canon hq) hq))))
theorem contextSwapOp_canon {p : Pkg} {n : Nat} (hp : Canon p) : Canon (contextSwapOp p n) :=
  ite_canon (judgeSwap_canon hp) (by
    split
    · exact judgeSwap_canon hp
    · exact ite_canon (swapIn_canon (judgeSwap_canon hp)) (by
    split
    · exact swapOut_canon (judgeSwap_canon hp)
    · exact judgeSwap_canon hp))

/-! #### Power -/

theorem modLsh_canon {p : Pkg} {f : Lsh → Lsh} (hp : Canon p) : Canon (modLsh p f) := same_canon hp (by simp)
theorem takeCap_canon {p : Pkg} {v tick : Nat} (hp : Canon p) : Canon (takeCap p v tick) := same_canon hp (by simp)
theorem markSlew_canon {p : Pkg} (hp : Canon p) : Canon (markSlew p) := same_canon hp (by simp)
theorem noteSlew_canon {p : Pkg} (hp : Canon p) : Canon (noteSlew p) := same_canon hp (by simp)
theorem hardApplies_canon {p : Pkg} {reason : Nat} (hp : Canon p) : Canon (hardApplies p reason) := same_canon hp (by simp)
theorem capReply_canon {p : Pkg} (hp : Canon p) : Canon (capReply p) := by
  unfold capReply
  dsimp only
  split
  · exact hp
  · exact mgtDone_canon (updParts_canon hp rfl rfl)
theorem applyCap_canon {p : Pkg} {c : CapCmd} (hp : Canon p) : Canon (applyCap p c) :=
  capReply_canon (ite_canon (hardApplies_canon (log_canon (modLsh_canon hp))) (noteSlew_canon (log_canon (modLsh_canon hp))))
theorem localCap_canon {p : Pkg} {w : Nat} (hp : Canon p) : Canon (localCap p w) := same_canon hp (by simp)
theorem hintOp_canon {p : Pkg} {c : Nat} {d : Desc} (hp : Canon p) : Canon (hintOp p c d) := by
  unfold hintOp
  dsimp only
  split
  · exact answer_canon hp
  · exact answer_canon (ite_canon hp (modLsh_canon hp))
theorem judgeRate_canon {p : Pkg} {b : BeatSample} (hp : Canon p) : Canon (judgeRate p b) :=
  ite_canon (quarantineNow_canon (log_canon (modLsh_canon hp))) (modLsh_canon hp)
theorem judgeRates_canon {p : Pkg} {samples : List BeatSample} (hp : Canon p) : Canon (judgeRates p samples) :=
  modLsh_canon (forAll_canon hp fun _ _ hq => judgeRate_canon hq)

/-! #### Looks ahead at resets -/

theorem markReset_canon {p : Pkg} (hp : Canon p) : Canon (markReset p) := same_canon hp (by simp)
theorem foreseen_canon {s : State} (hp : Canon s.pkg) : Canon (foreseen s) :=
  forAll_canon (ite_canon (markReset_canon hp) hp) fun _ _ hq => modPen_canon hq fun _ => id
theorem coldForeseen_canon {s : State} (hp : Canon s.pkg) : Canon (coldForeseen s) := ite_canon (markReset_canon hp) hp
theorem overridden_canon {s : State} {f : Pkg → Pkg} (hp : Canon s.pkg) (hf : ∀ q, Canon q → Canon (f q)) :
    Canon (overridden s f) := forAll_canon (upd_canon (hf _ (foreseen_canon hp))) fun _ _ hq => modPen_canon hq fun _ => id
theorem underResets_canon {s : State} {op : Nat} {f : Pkg → Pkg} (hp : Canon s.pkg) (hf : ∀ q, Canon q → Canon (f q)) :
    Canon (underResets s op f) := ite_canon (hf _ (coldForeseen_canon hp)) (ite_canon (overridden_canon hp hf) (hf _ hp))

/-! #### CtxFam -/

theorem ctxWrite_canon {p : Pkg} {fn c off size v : Nat} (hp : Canon p) : Canon (ctxWrite p fn c off size v) :=
  regWrite_canon hp fun _ hq => ite_canon (ctxRegWrite_canon hq) hq
theorem ringWriteFailed_canon {p : Pkg} {c ring : Nat} (hp : Canon p) : Canon (ringWriteFailed p c ring) :=
  ite_canon (ite_canon (resetDone_canon hp) hp) (hostError_canon hp)

/-! #### Packets that arrive -/

theorem boardStore_canon {p : Pkg} {n off : Nat} {b : Bytes} (hp : Canon p) : Canon (boardStore p n off b).2 := by
  unfold boardStore
  dsimp only
  split
  · exact hp
  · split
    · exact boardPut_canon hp
    · split
      · exact recordIn_canon hp
      · split
        · exact markIn_canon hp
        · exact boardPut_canon hp
theorem noticeStore_canon {p : Pkg} {h : Hdr} {b : Bytes} (hp : Canon p) : Canon (noticeStore p h b).2 := by
  unfold noticeStore
  dsimp only
  split
  · exact hp
  · split
    · exact hp
    · split
      · exact hp
      · exact fenceGroupOp_canon hp
theorem storeAt4_canon {p : Pkg} {h : Hdr} {b : Bytes} (hp : Canon p) : Canon (storeAt4 p h b).2 := by
  unfold storeAt4
  dsimp only
  split
  · exact hp
  · split
    · split
      · exact hp
      · split
        · exact boardStore_canon hp
        · split
          · split
            · exact tagsIn_canon hp
            · exact pieceIn_canon hp
          · split
            · exact combineIn_canon hp
            · split
              · split
                · split
                  · exact slotWordIn_canon hp
                  · exact hp
                · split
                  · exact candIn_canon hp
                  · exact hp
              · exact noticeStore_canon hp
    · split
      · split
        · exact hp
        · exact hp
        · exact modBind_canon hp fun _ => memOk_tsetList
      · split
        · split
          · exact hp
          · split
            · exact hp
            · exact wakeCores_canon (modBind_canon hp fun _ => id)
        · exact hp
theorem storeTo_canon {p : Pkg} {h : Hdr} {b : Bytes} (hp : Canon p) : Canon (storeTo p h b).2 := by
  unfold storeTo
  dsimp only
  split
  · split
    · exact hp
    · split
      · exact hp
      · exact bufPut_canon hp
  · split
    · exact hp
    · split
      · exact storeAt4_canon hp
      · exact hp
theorem atomicAt_canon {p : Pkg} {h : Hdr} {d : Bytes} (hp : Canon p) : Canon (atomicAt p h d).2.2 := by
  unfold atomicAt
  dsimp only
  split
  · split
    · exact hp
    · split
      · exact hp
      · exact bufPut_canon hp
  · split
    · exact hp
    · split
      · split
        · exact hp
        · split
          · split
            · exact hp
            · exact hp
            · exact modBind_canon hp fun _ => memOk_tsetList
          · exact hp
      · exact hp
theorem e2eDrop_canon {p : Pkg} {port : Nat} {b : Bytes} (hp : Canon p) : Canon (e2eDrop p port b) := same_canon hp (by simp)
theorem hear_canon {p : Pkg} {h : Hdr} (hp : Canon p) : Canon (hear p h) := same_canon hp (by simp)
theorem markSeq_canon {p : Pkg} {h : Hdr} {status : Nat} {old : Bytes} (hp : Canon p) : Canon (markSeq p h status old) :=
  same_canon hp (by simp)
theorem reply_canon {p : Pkg} {h : Hdr} {status : Nat} {data : Bytes} (hp : Canon p) : Canon (reply p h status data) :=
  same_canon hp (by simp)
theorem duplicate_canon {p : Pkg} {h : Hdr} (hp : Canon p) : Canon (duplicate p h) := same_canon hp (by simp)
theorem storePieces_canon {p : Pkg} {fuel : List RunPiece} (hp : Canon p) : Canon (storePieces p fuel).2 := by
  induction fuel generalizing p with
  | nil => exact hp
  | cons r t ih =>
    unfold storePieces
    split
    · exact hp
    · dsimp only
      split
      · exact ih (storeTo_canon hp)
      · exact hp
theorem storeRunAt_canon {p : Pkg} {rs : List RunPiece} (hp : Canon p) : Canon (storeRunAt p rs).2 := by
  unfold storeRunAt
  split
  · exact hp
  · split
    next st q hq =>
    have known {a : Nat × Pkg} (ha : Canon a.2) (e : a = (st, q)) : Canon q := by cases e; exact ha
    have tried : Canon q := by
      split at hq
      · split at hq
        · cases hq; exact hp
        · exact known (storeTo_canon hp) hq
      · exact known (storePieces_canon hp) hq
    split
    · exact tried
    · exact hp
theorem pieceOfRun_canon {p : Pkg} {piece : RunPiece} (hp : Canon p) : Canon (pieceOfRun p piece) :=
  ite_canon hp (ite_canon (modFab_canon hp) (ite_canon (modFab_canon hp) (forAll_canon (storeRunAt_canon (modFab_canon
    (modFab_canon hp))) fun _ _ hq => reply_canon (markSeq_canon hq))))
theorem pieceAgain_canon {p : Pkg} {r : RunPiece} (hp : Canon p) : Canon (pieceAgain p r) :=
  ite_canon (duplicate_canon hp) (pieceOfRun_canon hp)
theorem pumpRuns_canon {p : Pkg} (hp : Canon p) : Canon (pumpRuns p) :=
  forAll_canon (forAll_canon (modFab_canon hp) (fun _ _ hq => pieceAgain_canon hq)) fun _ _ hq => payCredits_canon hq
theorem applyReq_canon {p : Pkg} {e : LineReq} (hp : Canon p) : Canon (applyReq p e).2.2 := by
  unfold applyReq
  split
  · exact storeRunAt_canon hp
  · split
    · exact hp
    · exact atomicAt_canon hp
theorem applyLine_canon {p : Pkg} {e : LineReq} (hp : Canon p) : Canon (applyLine p e) :=
  ite_canon (duplicate_canon hp) (forAll_canon (forAll_canon (reply_canon (markSeq_canon (applyReq_canon hp)))
    fun _ _ hq => reply_canon (markSeq_canon hq)) fun _ _ hq => reply_canon hq)
theorem joinLine_canon {p : Pkg} {e : LineReq} (hp : Canon p) : Canon (joinLine p e) := same_canon hp (by simp)
theorem lineIn_canon {p : Pkg} {e : LineReq} (hp : Canon p) : Canon (lineIn p e) :=
  ite_canon (applyLine_canon (modFab_canon hp)) (joinLine_canon hp)
theorem serveLines_canon {p : Pkg} (hp : Canon p) : Canon (serveLines p) :=
  forAll_canon (forAll_canon (modFab_canon hp) (fun _ _ hq => forAll_canon (modFab_canon hq)
    (fun _ _ hr => applyLine_canon hr))) fun _ _ hq => payCredits_canon hq
theorem storeIn_canon {p : Pkg} {port : Nat} {k : Pkt} {bar : Option Nat} (hp : Canon p) : Canon (storeIn p port k bar) :=
  ite_canon (lineIn_canon hp) (pumpRuns_canon (pieceOfRun_canon hp))
theorem loadIn_canon {p : Pkg} {k : Pkt} {bar : Option Nat} (hp : Canon p) : Canon (loadIn p k bar) := same_canon hp (by simp)
theorem requestIn_canon {p : Pkg} {port type : Nat} {b : Bytes} (hp : Canon p) : Canon (requestIn p port type b) :=
  ite_canon (e2eDrop_canon hp) (ite_canon hp (ite_canon (reply_canon (staleRx_canon hp)) (ite_canon (duplicate_canon
    (hear_canon hp)) (ite_canon (loadIn_canon (hear_canon hp)) (ite_canon (storeIn_canon (hear_canon hp)) (lineIn_canon
    (hear_canon hp)))))))
theorem rrcFill_canon {p : Pkg} {t : Txn} {b : Bytes} (hp : Canon p) : Canon (rrcFill p t b) := same_canon hp (by simp)
theorem responseIn_canon {p : Pkg} {port type : Nat} {b : Bytes} (hp : Canon p) : Canon (responseIn p port type b) := by
  unfold responseIn
  refine ite_canon (e2eDrop_canon hp) ?_
  extract_lets k p1
  have heard : Canon p1 := hear_canon hp
  refine ite_canon hp ?_
  split
  · exact heard
  · exact ite_canon heard (completeTxn_canon (ite_canon (rrcFill_canon heard) heard))

/-! #### Ports -/

theorem emptyPort_canon {p : Pkg} {n : Nat} (hp : Canon p) : Canon (emptyPort p n) := same_canon hp (by simp)
theorem portTick_canon {p : Pkg} {n : Nat} (hp : Canon p) : Canon (portTick p n) := same_canon hp (by simp)
theorem portsTick_canon {p : Pkg} (hp : Canon p) : Canon (portsTick p) :=
  serveLines_canon (forAll_canon hp fun _ _ hq => portTick_canon hq)
theorem reevaluate_canon {p : Pkg} {n : Nat} (hp : Canon p) : Canon (reevaluate p n) := same_canon hp (by simp)

/-! #### FabFam -/

theorem fenceEnds_canon {p : Pkg} {f : FabFence} (hp : Canon p) : Canon (fenceEnds p f) := fqEnds_canon (modFab_canon hp)
theorem fencesTimeOut_canon {p : Pkg} {h : Hdr} (hp : Canon p) : Canon (fencesTimeOut p h) := same_canon hp (by simp)
theorem loadTimesOut_canon {p : Pkg} {t : Txn} (hp : Canon p) : Canon (loadTimesOut p t) :=
  completeTxn_canon (fencesTimeOut_canon (ite_canon (log_canon (modFab_canon (modFab_canon hp))) (modFab_canon hp)))
theorem storeTimesOut_canon {p : Pkg} {t : Txn} (hp : Canon p) : Canon (storeTimesOut p t) :=
  completeTxn_canon (fencesTimeOut_canon (ite_canon (log_canon (modFab_canon (modFab_canon hp))) (modFab_canon hp)))

/-! #### Imprints -/

theorem imprintWriteOp_canon {p : Pkg} {c : Nat} {d : Desc} (hp : Canon p) : Canon (imprintWriteOp p c d) := by
  unfold imprintWriteOp
  dsimp only
  split
  · exact imprintRefuse_canon hp
  · exact hp
  · exact send_canon (beginDesc_canon (modNvw_canon (modSlot_canon hp)))
theorem imprintRetireOp_canon {p : Pkg} {c : Nat} {d : Desc} (hp : Canon p) : Canon (imprintRetireOp p c d) := by
  unfold imprintRetireOp
  dsimp only
  split
  · exact imprintRefuse_canon hp
  · exact answer_canon (judgeVerify_canon (forAll_canon hp fun _ _ hq => emptySlotOp_canon (log_canon hq)))
theorem imprintEnd_canon {p : Pkg} {i : Imprint} {payload : Option Bytes} (hp : Canon p) : Canon (imprintEnd p i payload) := by
  unfold imprintEnd
  dsimp only
  split
  · exact answer_canon (log_canon (modNvw_canon (modSlot_canon hp)))
  · exact answer_canon (log_canon (modNvw_canon (emptySlotOp_canon hp)))
theorem fetchBlock_canon {p : Pkg} {k off : Nat} {tried : Option Nat} (hp : Canon p) : Canon (fetchBlock p k off tried) := by
  unfold fetchBlock
  dsimp only
  split
  · exact readReplica_canon (modNvw_canon hp)
  · exact ite_canon (ite_canon (modNvw_canon hp) hp) (faultStep_canon (ite_canon (modNvw_canon hp) hp))
theorem nvLose_canon {p : Pkg} {stack : Nat} (hp : Canon p) : Canon (nvLose p stack) := same_canon hp (by simp)
theorem nvStackFail_canon {p : Pkg} {stack : Nat} (hp : Canon p) : Canon (nvStackFail p stack) :=
  judgeVerify_canon (forAll_canon (nvLose_canon hp) fun _ _ hq => faultStep_canon hq)
theorem lineCorrected_canon {p : Pkg} {k off : Nat} (hp : Canon p) : Canon (lineCorrected p k off) := same_canon hp (by simp)
theorem uncorrectable_canon {p : Pkg} {k off : Nat} {ok : Bool} (hp : Canon p) : Canon (uncorrectable p k off ok) :=
  ite_canon (lineCorrected_canon (modNvw_canon hp)) (ite_canon (nvStackFail_canon (ite_canon (writeSpoiled_canon
    (modNvw_canon hp)) (slotBad_canon (modNvw_canon hp)))) (ite_canon (fetchBlock_canon (ite_canon (writeSpoiled_canon
    (modNvw_canon hp)) (slotBad_canon (modNvw_canon hp)))) (ite_canon (writeSpoiled_canon (modNvw_canon hp)) (slotBad_canon
    (modNvw_canon hp)))))
theorem lineRead_canon {p : Pkg} {k off bad again : Nat} (hp : Canon p) : Canon (lineRead p k off bad again) :=
  ite_canon hp (ite_canon (lineCorrected_canon (nextFree_canon hp)) (uncorrectable_canon (nextFree_canon (nextFree_canon hp))))
theorem blockArrives_canon {p : Pkg} {f : BlockFetch} {data : Option Bytes} (hp : Canon p) : Canon (blockArrives p f data) :=
  ite_canon (modNvw_canon hp) (fetchBlock_canon (modNvw_canon hp))
theorem replicaJudge_canon {p : Pkg} {i : Nat} {header : Option Bytes} (hp : Canon p) : Canon (replicaJudge p i header) :=
  same_canon hp (by simp)
theorem repeatChecks_canon {p : Pkg} (hp : Canon p) : Canon (repeatChecks p) := same_canon hp (by simp)

/-! #### Faults of parts -/

theorem startReturn_canon {p : Pkg} {a : Nat} (hp : Canon p) : Canon (startReturn p a) :=
  ite_canon (modArr_canon hp fun _ _ => ⟨memOk_nil, savedOk_none⟩) hp
theorem returnDone_canon {p : Pkg} {a : Nat} {pass : Bool} {ticks : Nat} (hp : Canon p) : Canon (returnDone p a pass ticks) :=
  ite_canon (fillShort_canon (log_canon (upd_canon (modArr_canon hp (fun _ => id))))) (ite_canon (log_canon (modArr_canon
    (log_canon (modArr_canon hp (fun _ => id))) (fun _ => id))) (log_canon (modArr_canon hp fun _ => id)))
theorem retireFrame_canon {p : Pkg} {n f : Nat} (hp : Canon p) : Canon (retireFrame p n f) := by
  unfold retireFrame
  exact modPool_canon (upd_canon hp) fun _ h => modFrame_frames h fun _ => id
theorem dramLine_canon {p : Pkg} {stack n : Nat} {loc : DramLoc} (hp : Canon p) : Canon (dramLine p stack n loc) := by
  unfold dramLine
  dsimp only
  split
  · exact logFault_canon (forAll_canon (retireFrame_canon hp) fun _ _ hq => endReq_canon hq)
  · exact ite_canon (penResetOp_canon (logFault_canon hp)) (faultStep_canon (logFault_canon hp))
  · exact penResetOp_canon (logFault_canon hp)
  · exact hp
theorem dramCorrected_canon {p : Pkg} {s lines : Nat} (hp : Canon p) : Canon (dramCorrected p s lines) := same_canon hp (by simp)
theorem dramStackFail_canon {p : Pkg} {s cause : Nat} (hp : Canon p) : Canon (dramStackFail p s cause) :=
  forAll_canon (logFault_canon (upd_canon hp)) fun _ _ hq => penResetOp_canon (modPen_canon hq fun _ => id)
theorem dramLineSampled_canon {p : Pkg} {s n : Nat} {loc : DramLoc} (hp : Canon p) : Canon (dramLineSampled p s n loc) :=
  ite_canon (dramStackFail_canon (dramLine_canon (upd_canon hp))) (dramLine_canon (upd_canon hp))
theorem opticsFail_canon {p : Pkg} {i : Nat} (hp : Canon p) : Canon (opticsFail p i) := same_canon hp (by simp)
theorem engineLose_canon {p : Pkg} {kind i : Nat} (hp : Canon p) : Canon (engineLose p kind i) := same_canon hp (by simp)
theorem engineFail_canon {p : Pkg} {kind i : Nat} (hp : Canon p) : Canon (engineFail p kind i) :=
  ite_canon (opticsFail_canon hp) (forAll_canon (engineLose_canon hp) fun _ _ hq => faultStep_canon hq)
theorem selfTest_canon {p : Pkg} {f : Parts} (hp : Canon p) : Canon (selfTest p f) :=
  upd_canon (forAll_canon (forAll_canon (forAll_canon (forAll_canon (forAll_canon hp (fun _ _ hq => quarantineOp_canon hq))
    (fun _ _ hq => dramStackFail_canon (nextFree_canon hq))) (fun _ _ hq => opticsFail_canon hq))
    (fun _ _ hq => nvLose_canon hq)) fun _ _ hq => ite_canon (engineLose_canon hq) (engineLose_canon hq))
theorem clearLog_canon {p : Pkg} {upto_ manager : Nat} (hp : Canon p) : Canon (clearLog p upto_ manager) :=
  same_canon hp (by simp)

/-! #### LeashFam -/

theorem capCommit_canon {p : Pkg} (hp : Canon p) : Canon (capCommit p) :=
  ite_canon hp (by
    split
    · exact modLsh_canon hp
    · exact takeCap_canon (updParts_canon hp rfl rfl))

/-! #### Pen registers -/

theorem penRefuse_canon {p : Pkg} {n off v : Nat} (hp : Canon p) : Canon (penRefuse p n off v) :=
  log_canon (modPen_canon hp fun _ => id)
theorem enablePen_canon {p : Pkg} {n : Nat} {compat : Bool} (hp : Canon p) : Canon (enablePen p n compat) :=
  fillSet_canon (setPenState_canon (modPen_canon hp fun _ => id))
theorem disablePen_canon {p : Pkg} {n : Nat} {compat : Bool} (hp : Canon p) : Canon (disablePen p n compat) :=
  fillShort_canon (modPen_canon (freeSet_canon (penTo_canon hp)) fun _ h => ⟨h.1, allOf_nil⟩)
theorem penCtrlWrite_canon {p : Pkg} {n v : Nat} (hp : Canon p) : Canon (penCtrlWrite p n v) :=
  ite_canon (ite_canon hp (penRefuse_canon hp)) (ite_canon (ite_canon (penRefuse_canon hp) (enablePen_canon hp)) (ite_canon
    (disablePen_canon hp) (modPen_canon hp fun _ => id)))
theorem rebudget_canon {p : Pkg} {n v : Nat} (hp : Canon p) : Canon (rebudget p n v) :=
  fillShort_canon (fillSet_canon (freeSet_canon (modPen_canon hp fun _ => id)))
theorem budgetWrite_canon {p : Pkg} {n off v : Nat} (hp : Canon p) : Canon (budgetWrite p n off v) := by
  unfold budgetWrite
  dsimp only
  split
  · exact hp
  · exact ite_canon (penRefuse_canon hp) (ite_canon (penRefuse_canon hp) (ite_canon hp (ite_canon
      (ite_canon (penRefuse_canon hp) (rebudget_canon hp))
      (modPen_canon hp fun x h => ⟨(withBudget_mem x _ _).1.symm ▸ h.1, (withBudget_mem x _ _).2.symm ▸ h.2⟩))))
theorem groupEntryWrite_canon {p : Pkg} {n m v : Nat} (hp : Canon p) : Canon (groupEntryWrite p n m v) :=
  ite_canon (penRefuse_canon hp) (modPen_canon hp fun _ h => ⟨h.1, h.2⟩)
theorem penRegWrite_canon {p : Pkg} {n off v : Nat} (hp : Canon p) : Canon (penRegWrite p n off v) :=
  ite_canon (groupEntryWrite_canon hp) (ite_canon (budgetWrite_canon hp) hp)
theorem activate_canon {p : Pkg} {n : Nat} (hp : Canon p) : Canon (activate p n) :=
  forAll_canon (modPen_canon (penTo_canon hp) (fun _ => id)) fun _ _ hq => decideAdmit_canon hq
theorem judgePen_canon {p : Pkg} {n : Nat} (hp : Canon p) : Canon (judgePen p n) :=
  ite_canon (ite_canon (penTo_canon hp) (ite_canon (ite_canon (activate_canon hp) (penTo_canon hp)) (ite_canon
    (penTo_canon hp) hp))) hp
theorem judgePens_canon {p : Pkg} (hp : Canon p) : Canon (judgePens p) := forAll_canon hp fun _ _ hq => judgePen_canon hq
theorem refreshOne_canon {p : Pkg} {n : Nat} (hp : Canon p) : Canon (refreshOne p n) :=
  ite_canon (predNext_canon hp) (predHere_canon hp)

/-! #### Hound programs -/

theorem whileUnbound_canon {p : Pkg} {c : Nat} {f : HBind → HBind} (hp : Canon p)
    (hm : ∀ x, MemOk x.mem → MemOk (f x).mem) : Canon (whileUnbound p c f) := ite_canon (modBind_canon hp hm) hp
theorem hndCtrlWrite_canon {p : Pkg} {c v : Nat} (hp : Canon p) : Canon (hndCtrlWrite p c v) :=
  whileUnbound_canon (modBind_canon hp (fun _ => id)) fun _ => id
theorem hndRegWrite_canon {p : Pkg} {fn c off v : Nat} (hp : Canon p) : Canon (hndRegWrite p fn c off v) := by
  unfold hndRegWrite
  split
  · exact ite_canon (hndCtrlWrite_canon hp) (noteNotAllowed_canon hp)
  · exact ite_canon (modBind_canon hp (fun _ => id)) hp
  · exact whileUnbound_canon hp fun _ => id
  · exact whileUnbound_canon hp fun _ => id
  · exact ite_canon (whileUnbound_canon hp (fun _ => id)) (noteNotAllowed_canon hp)
  · exact whileUnbound_canon hp fun _ => id
  · exact whileUnbound_canon hp fun _ => id
  · exact whileUnbound_canon hp fun _ => id
  · exact hp
theorem setResult_canon {p : Pkg} {c st : Nat} (hp : Canon p) : Canon (setResult p c st) := modBind_canon hp fun _ => id
theorem bindOp_canon {p : Pkg} {c : Nat} (hp : Canon p) : Canon (bindOp p c) := by
  unfold bindOp
  dsimp only
  split
  · exact setResult_canon hp
  · exact send_canon (modBind_canon (modPool_canon hp fun _ _ => takeFrames_frames (hp.pool _)) fun _ => id)
theorem imageLoaded_canon {p : Pkg} {c : Nat} {image : Option Bytes} (hp : Canon p) : Canon (imageLoaded p c image) := by
  unfold imageLoaded
  dsimp only
  split
  · exact setResult_canon (endBinding_canon hp)
  · exact ite_canon (log_canon (forAll_canon
    (modBind_canon hp fun _ _ => memOk_tsetList memOk_nil) fun _ _ hq => modHart_canon hq)) hp
theorem pageFault_canon {p : Pkg} {c k code a : Nat} (hp : Canon p) : Canon (pageFault p c k code a) :=
  nextFree_canon (faultBind_canon hp)
theorem loadedBy_canon {p : Pkg} {k : Nat} {b : Bytes} (hp : Canon p) : Canon (loadedBy p k b) := modHart_canon hp
theorem mailboxWrite_canon {p : Pkg} {k off size v : Nat} (hp : Canon p) : Canon (mailboxWrite p k off size v) :=
  modHcore_canon hp
theorem bindPageWrite_canon {p : Pkg} {c off size v : Nat} (hp : Canon p) : Canon (bindPageWrite p c off size v) :=
  modBind_canon hp fun _ h => by
    dsimp only
    (repeat' split) <;> exact h
theorem takeCmd_canon {p : Pkg} {k c : Nat} {b : Bytes} (hp : Canon p) : Canon (takeCmd p k c b) :=
  modCtx_canon (modHcore_canon hp)
theorem takeMail_canon {p : Pkg} {k c : Nat} {fuel : Nat} (hp : Canon p) : Canon (takeMail p k c fuel) := by
  induction fuel generalizing p with
  | zero => exact hp
  | succ k ih => exact ite_canon hp (ite_canon hp (ite_canon (stallCtx_canon hp) (ih (takeCmd_canon hp))))
theorem pumpMail_canon {p : Pkg} {k : Nat} (hp : Canon p) : Canon (pumpMail p k) := by
  unfold pumpMail
  dsimp only
  split
  · exact ite_canon (ite_canon (judgeStall_canon (takeMail_canon (modHcore_canon hp))) (ringFault_canon hp)) hp
  · exact hp
theorem mailDoorbell_canon {p : Pkg} {k v : Nat} (hp : Canon p) : Canon (mailDoorbell p k v) :=
  ite_canon hp (pumpMail_canon (modHcore_canon hp))
theorem mailWordWrite_canon {p : Pkg} {k off v : Nat} (hp : Canon p) : Canon (mailWordWrite p k off v) :=
  ite_canon (mailDoorbell_canon hp) (ite_canon (modHcore_canon hp) (mailboxWrite_canon hp))
theorem fqTailWrite_canon {p : Pkg} {c v : Nat} (hp : Canon p) : Canon (fqTailWrite p c v) :=
  modBind_canon hp fun _ h => by
    split <;> exact h
theorem tqHeadWrite_canon {p : Pkg} {c v : Nat} (hp : Canon p) : Canon (tqHeadWrite p c v) :=
  judgeTq_canon (modBind_canon hp fun _ => id)
theorem bindWordWrite_canon {p : Pkg} {c off v : Nat} (hp : Canon p) : Canon (bindWordWrite p c off v) :=
  ite_canon (tqHeadWrite_canon hp) (ite_canon (fqTailWrite_canon hp) (bindPageWrite_canon hp))
theorem ringBaseWrite_canon {p : Pkg} {k c off size v : Nat} (hp : Canon p) : Canon (ringBaseWrite p k c off size v) :=
  ite_canon (ite_canon (mailWordWrite_canon hp) (ite_canon (mailboxWrite_canon hp) (mailWordWrite_canon
    (mailWordWrite_canon hp)))) (ite_canon (ite_canon (bindWordWrite_canon hp) (ite_canon (bindPageWrite_canon hp)
    (bindWordWrite_canon (bindWordWrite_canon hp)))) hp)
theorem pageStore_canon {p : Pkg} {c a : Nat} {d : Bytes} (hp : Canon p) : Canon (pageStore p c a d) := by
  unfold pageStore
  exact ite_canon (ringBaseWrite_canon hp) (ringBaseWrite_canon hp)
theorem progAccess_canon {c k : Nat} {p : Pkg} {x : Access} (hp : Canon p) : Canon (progAccess c k p x) :=
  ite_canon hp (by
    split
    · exact ite_canon (modBind_canon hp fun _ => memOk_tsetList)
        (ite_canon (send_canon hp) (ite_canon (pageStore_canon hp) (pageFault_canon hp)))
    · exact ite_canon (send_canon hp) (ite_canon (loadedBy_canon hp) (ite_canon (loadedBy_canon hp) (pageFault_canon hp))))
theorem progStores_canon {p : Pkg} {c k : Nat} {l : Stores} (hp : Canon p) : Canon (progStores p c k l) :=
  nextFree_canon (forAll_canon (modHart_canon hp) fun _ _ hq => progAccess_canon hq)
theorem fqIssue_canon {p : Pkg} {c : Nat} (hp : Canon p) : Canon (fqIssue p c) := by
  unfold fqIssue
  dsimp only
  split
  · exact fqDone_canon (modBind_canon hp fun _ => id)
  · exact ite_canon (modFab_canon (modBind_canon (modBind_canon hp (fun _ => id)) (fun _ => id))) (issue_canon (modBind_canon
    (modBind_canon hp (fun _ => id)) fun _ => id))
theorem flushFq_canon {p : Pkg} {c : Nat} {fuel : Nat} (hp : Canon p) : Canon (flushFq p c fuel) := by
  induction fuel generalizing p with
  | zero => exact hp
  | succ k ih => exact ite_canon (ih (fqIssue_canon hp)) hp
theorem fqCommand_canon {p : Pkg} {c k op tail : Nat} {l : Stores} (hp : Canon p) : Canon (fqCommand p c k op tail l) :=
  ite_canon (progStores_canon hp) (ite_canon (fqTailWrite_canon (progStores_canon hp)) (ite_canon (flushFq_canon (fqIssue_canon
    (flushFq_canon (fqTailWrite_canon (progStores_canon hp))))) (flushFq_canon (fqTailWrite_canon (progStores_canon hp)))))
theorem callRegs_canon {p : Pkg} {k call a0 : Nat} (hp : Canon p) : Canon (callRegs p k call a0) := modHart_canon hp
theorem exitHart_canon {p : Pkg} {k c a0 : Nat} (hp : Canon p) : Canon (exitHart p k c a0) :=
  ite_canon (ite_canon (modBind_canon (modHcore_canon hp) (fun _ => id)) (log_canon (modBind_canon (modHcore_canon hp)
    (fun _ => id)))) (modHcore_canon hp)
theorem waitHart_canon {p : Pkg} {k a0 : Nat} (hp : Canon p) : Canon (waitHart p k a0) := nextFree_canon (modHcore_canon hp)
theorem setPc_canon {p : Pkg} {k pc : Nat} (hp : Canon p) : Canon (setPc p k pc) := nextFree_canon (modHart_canon hp)
theorem houndFaultOp_canon {p : Pkg} {c core kind code pc tval : Nat} (hp : Canon p) :
    Canon (houndFaultOp p c core kind code pc tval) :=
  ite_canon (faultBind_canon (setPc_canon (ite_canon (upd_canon hp) hp))) (ite_canon (upd_canon hp) hp)

/-! #### Managers' messages -/

theorem planCommitDo_canon {p : Pkg} {c : PendCmd} (hp : Canon p) : Canon (planCommitDo p c) := same_canon hp (by simp)
theorem leaseDo_canon {p : Pkg} {c : PendCmd} (hp : Canon p) : Canon (leaseDo p c) :=
  ite_canon (log_canon (modMgt_canon hp fun _ => id)) (modMgt_canon hp fun _ => id)
theorem leaseEnd_canon {p : Pkg} {code : Nat} (hp : Canon p) : Canon (leaseEnd p code) :=
  ite_canon (log_canon (modMgt_canon hp (fun _ => id))) hp
theorem loseMember_canon {p : Pkg} {n : Nat} (hp : Canon p) : Canon (loseMember p n).2 :=
  forAll_canon hp fun _ _ hq => endReq_canon hq
theorem noteMemberLost_canon {p : Pkg} {n ended : Nat} (hp : Canon p) : Canon (noteMemberLost p n ended) := logFault_canon hp
theorem readmitPen_canon {p : Pkg} {n : Nat} (hp : Canon p) : Canon (readmitPen p n) :=
  discardPool_canon (noteMemberLost_canon (loseMember_canon hp))
theorem readmitDo_canon {p : Pkg} {c : PendCmd} (hp : Canon p) : Canon (readmitDo p c) :=
  log_canon (modMgt_canon (forAll_canon (forAll_canon (setEpoch_canon hp) (fun _ _ hq => readmitPen_canon hq))
    (fun _ _ hq => startReturn_canon hq)) fun _ => id)
theorem groupWriteDo_canon {p : Pkg} {c : PendCmd} (hp : Canon p) : Canon (groupWriteDo p c) :=
  forAll_canon hp fun _ _ hq => modPen_canon hq fun _ h => ⟨h.1, h.2⟩
theorem resumeDo_canon {p : Pkg} {c : PendCmd} (hp : Canon p) : Canon (resumeDo p c) :=
  ite_canon (logFault_canon (modPen_canon hp (fun _ => id))) hp
theorem memberLostDo_canon {p : Pkg} {c : PendCmd} (hp : Canon p) : Canon (memberLostDo p c) :=
  ite_canon (noteMemberLost_canon (modMgt_canon (loseMember_canon hp) (fun _ => id))) (noteMemberLost_canon hp)
theorem imprintAuthDo_canon {p : Pkg} {c : PendCmd} (hp : Canon p) : Canon (imprintAuthDo p c) := same_canon hp (by simp)
theorem clearAuthDo_canon {p : Pkg} {c : PendCmd} (hp : Canon p) : Canon (clearAuthDo p c) := same_canon hp (by simp)
theorem inspectStart_canon {p : Pkg} {n : Nat} {c : PendCmd} (hp : Canon p) : Canon (inspectStart p n c) :=
  sendControl_canon (emptyPort_canon (modPort_canon hp))
theorem capDo_canon {p : Pkg} {c : PendCmd} (hp : Canon p) : Canon (capDo p c) := takeCap_canon (mgtHold_canon hp)
theorem setCountDo_canon {p : Pkg} {c : PendCmd} (hp : Canon p) : Canon (setCountDo p c) := upd_canon (mgtHold_canon hp)
theorem opDo_canon {p : Pkg} {c : PendCmd} (hp : Canon p) : Canon (opDo p c).1 := by
  unfold opDo
  split
  · exact leaseDo_canon hp
  · exact leaseEnd_canon hp
  · exact setEpoch_canon hp
  · dsimp only
    exact modMgt_canon hp fun _ => memOk_tsetList
  · exact planCommitDo_canon hp
  · exact readmitDo_canon hp
  · exact fenceGroupOp_canon hp
  · exact groupWriteDo_canon hp
  · exact resumeDo_canon hp
  · exact memberLostDo_canon hp
  · exact imprintAuthDo_canon hp
  · exact clearAuthDo_canon hp
  · exact quarantineNow_canon hp
  · exact startReturn_canon hp
  · exact penResetOp_canon hp
  · exact reevaluate_canon hp
  · exact hp
  · exact hp
theorem opAct_canon {p : Pkg} {c : PendCmd} (hp : Canon p) : Canon (opAct p c) := by
  unfold opAct
  dsimp only
  split
  · exact mgtRefuse_canon (ite_canon (upd_canon hp) hp)
  · exact ite_canon (by
    split
    · exact mgtRefuse_canon hp
    · exact mgtDone_canon (readmitDo_canon hp)) (ite_canon (mgtDone_canon (clearLog_canon hp)) (ite_canon (ite_canon
      (mgtDone_canon hp) (warmResetOp_canon (mgtDone_canon hp))) (ite_canon (inspectStart_canon hp) (mgtDone_canon
      (opDo_canon hp)))))
theorem opTake_canon {p : Pkg} {c : PendCmd} (hp : Canon p) : Canon (opTake p c) := by
  unfold opTake
  dsimp only
  split
  · exact ite_canon (opAct_canon hp) (mgtRefuse_canon hp)
  · exact ite_canon (setCountDo_canon (mgtPassed_canon hp)) (ite_canon (capDo_canon (mgtPassed_canon hp)) (ite_canon
    (opAct_canon (modMgt_canon (mgtPassed_canon hp) (fun _ => id))) (mgtHold_canon (mgtPassed_canon hp))))
theorem mgtCommand_canon {op : Nat} {path : Path} {msg : Bytes} {p : Pkg} (hp : Canon p) : Canon (mgtCommand op path msg p) :=
  ite_canon (mgtTaken_canon hp (fun _ _ hq => opTake_canon hq)) hp
theorem namedAct_canon {p : Pkg} {c : PendCmd} (hp : Canon p) : Canon (namedAct p c) := opAct_canon (modMgt_canon hp fun _ => id)
theorem mgtRegWrite_canon {p : Pkg} {fn off size v : Nat} (hp : Canon p) : Canon (mgtRegWrite p fn off size v) :=
  ite_canon (log_canon hp) (ite_canon (modMgt_canon hp (fun _ => id)) (ite_canon (modMgt_canon hp (fun _ => id)) hp))

/-! #### Register writes -/

theorem tickRegWrite_canon {p : Pkg} {o v : Nat} (hp : Canon p) : Canon (tickRegWrite p o v) := same_canon hp (by simp)
theorem penBlockWrite_canon {p : Pkg} {n o v : Nat} (hp : Canon p) : Canon (penBlockWrite p n o v) := by
  unfold penBlockWrite
  split
  · exact penCtrlWrite_canon hp
  · exact modPen_canon hp fun _ => id
  · exact modPen_canon hp fun _ => id
  · exact budgetWrite_canon hp
theorem penAreaWrite_canon {p : Pkg} {o v : Nat} (hp : Canon p) : Canon (penAreaWrite p o v) :=
  ite_canon (penBlockWrite_canon hp) (ite_canon (groupEntryWrite_canon hp) hp)
theorem ldrRegWrite_canon {p : Pkg} {o v : Nat} (hp : Canon p) : Canon (ldrRegWrite p o v) := by
  unfold ldrRegWrite
  split
  · exact modLdr_canon hp
  · exact ldrCmd_canon hp
  · exact modLdr_canon hp
  · exact hp
theorem sledRegWrite_canon {p : Pkg} {o v : Nat} (hp : Canon p) : Canon (sledRegWrite p o v) := same_canon hp (by simp)
theorem reqRegWrite_canon {p : Pkg} {o v : Nat} (hp : Canon p) : Canon (reqRegWrite p o v) := same_canon hp (by simp)
theorem hostRegionWrite_canon {p : Pkg} {fn c off size : Nat} {f : Ctx → Ctx} (hp : Canon p) :
    Canon (hostRegionWrite p fn c off size f) := same_canon hp (by simp)
theorem kvpRegWrite_canon {p : Pkg} {fn o size v : Nat} (hp : Canon p) : Canon (kvpRegWrite p fn o size v) := by
  unfold kvpRegWrite
  dsimp only
  split
  · exact upd_canon hp
  · exact upd_canon hp
  · exact ite_canon (modPool_canon hp fun o h => (poolRegWrite_tab o _ _).symm ▸ h) (ite_canon (hostRegionWrite_canon hp) hp)
theorem pkfRegWrite_canon {p : Pkg} {o v : Nat} (hp : Canon p) : Canon (pkfRegWrite p o v) := same_canon hp (by simp)
theorem lshRegWrite_canon {p : Pkg} {o v : Nat} (hp : Canon p) : Canon (lshRegWrite p o v) := by
  unfold lshRegWrite
  dsimp only
  split
  · exact modLsh_canon hp
  · exact modLsh_canon hp
  · exact localCap_canon hp
  · exact modLsh_canon hp
  · exact ite_canon (capCommit_canon hp) hp
  · exact markSlew_canon (modLsh_canon hp)
  · exact modLsh_canon hp
  · exact modLsh_canon hp
  · exact modLsh_canon hp
  · exact hp
theorem scnRegWrite_canon {p : Pkg} {o v : Nat} (hp : Canon p) : Canon (scnRegWrite p o v) := same_canon hp (by simp)
theorem hndCmdWrite_canon {p : Pkg} {c v : Nat} (hp : Canon p) : Canon (hndCmdWrite p c v) :=
  ite_canon (bindOp_canon hp) (ite_canon (setResult_canon (endBinding_canon hp)) hp)
theorem hndBlockWrite_canon {p : Pkg} {fn c o v : Nat} (hp : Canon p) : Canon (hndBlockWrite p fn c o v) :=
  ite_canon (hndCmdWrite_canon hp) (hndRegWrite_canon hp)
theorem pfRegWrite_canon {p : Pkg} {fn off size v : Nat} (hp : Canon p) : Canon (pfRegWrite p fn off size v) :=
  ite_canon (tickRegWrite_canon hp) (ite_canon (penAreaWrite_canon hp) (ite_canon (modLdr_canon hp) (ite_canon
    (ldrRegWrite_canon hp) (ite_canon (sledRegWrite_canon hp) (ite_canon (reqRegWrite_canon hp) (ite_canon
    (hostRegionWrite_canon hp) (ite_canon (kvpRegWrite_canon hp) (ite_canon (modFab_canon hp) (ite_canon (modFab_canon hp)
    (ite_canon (pkfRegWrite_canon hp) (ite_canon (modLsh_canon hp) (ite_canon (lshRegWrite_canon hp) (ite_canon
    (scnRegWrite_canon hp) (ite_canon (mgtRegWrite_canon hp) hp))))))))))))))
theorem regEffect_canon {p : Pkg} {fn off size v : Nat} (hp : Canon p) : Canon (regEffect p fn off size v) :=
  ite_canon (ite_canon (ctxRegWrite_canon hp) hp) (ite_canon (ite_canon (hndBlockWrite_canon hp) hp) (ite_canon
    (pfRegWrite_canon hp) hp))
theorem setHeld_canon {p : Pkg} {fn : Nat} {h : Option (Nat × Nat)} (hp : Canon p) : Canon (setHeld p fn h) :=
  same_canon hp (by simp)
theorem takeValue_canon {p : Pkg} {fn off size v : Nat} {gone : List Nat} (hp : Canon p) : Canon (takeValue p fn off size v gone) :=
  ite_canon hp (regEffect_canon hp)
theorem write4_canon {p : Pkg} {fn off size v : Nat} {gone : List Nat} (hp : Canon p) : Canon (write4 p fn off size v gone) :=
  ite_canon hp (ite_canon (setHeld_canon hp) (ite_canon (takeValue_canon (setHeld_canon hp)) (takeValue_canon hp)))
theorem invalidAccess_canon {p : Pkg} {fn off size : Nat} (hp : Canon p) : Canon (invalidAccess p fn off size) :=
  same_canon hp (by simp)
theorem bar0WriteOp_canon {p : Pkg} {fn off size v : Nat} {gone : List Nat} (hp : Canon p) :
    Canon (bar0WriteOp p fn off size v gone) :=
  ite_canon (invalidAccess_canon hp) (ite_canon (write4_canon (dropHeld_canon hp)) (ite_canon (ite_canon (takeValue_canon
    (dropHeld_canon hp)) (dropHeld_canon hp)) (write4_canon (write4_canon (dropHeld_canon hp)))))

/-! #### ExchFam -/

theorem modSegData_canon {p : Pkg} {n seg : Nat} {f : ArrData → ArrData} (hp : Canon p) (hf : ∀ d, MemOk d.sram → MemOk (f d).sram) :
    Canon (modSegData p n seg f) := by
  unfold modSegData
  refine forAll_canon hp fun _ _ hq => ?_
  split
  · exact hq
  · refine modArr_canon hq fun _ h => ?_
    split
    · exact ⟨hf _ h.1, h.2⟩
    · exact ⟨h.1, savedOk_map h.2 hf⟩
theorem recvGateOp_canon {p : Pkg} {n : Nat} {d : Decided} (hp : Canon p) : Canon (recvGateOp p n d) := by
  unfold recvGateOp
  refine completeGen_canon (modDecided_canon (modStep_canon (forAll_canon hp fun _ _ hq => ?_)))
  exact modSegData_canon hq fun _ => sramPut_mem

/-! #### ReqFam -/

theorem promptRead_canon {p : Pkg} {e : Nat} {ts : List Word32} (hp : Canon p) : Canon (promptRead p e ts) := by
  unfold promptRead
  dsimp only
  split
  · exact endReq_canon (logPromptInvalid_canon hp)
  · exact issueRead_canon (growBlocks_canon (modReq_canon hp))
theorem tokenReadFailed_canon {p : Pkg} {e : Nat} {d : Desc} (hp : Canon p) : Canon (tokenReadFailed p e d) := hostError_canon hp
theorem appendRead_canon {p : Pkg} {e : Nat} {t : TokRead} {ts : List Word32} (hp : Canon p) : Canon (appendRead p e t ts) :=
  ite_canon (issueRead_canon (modReq_canon hp)) (issueRead_canon (applyAppend_canon hp))
theorem missDeadline_canon {p : Pkg} {e : Nat} (hp : Canon p) : Canon (missDeadline p e) :=
  ite_canon (applyPolicy_canon (logEvent_canon (modReq_canon (upd_canon hp)))) (logEvent_canon (modReq_canon (upd_canon hp)))

/-! #### The end of a tick -/

theorem endTick_canon {p : Pkg} (hp : Canon p) : Canon (endTick p) :=
  upd_canon (forAll_canon (forAll_canon (closeDone_canon (judgePens_canon (leaveBack_canon hp)))
    (fun _ _ hq => sendDue_canon hq)) fun _ _ hq => sendPending_canon hq)
theorem countTick_canon {p : Pkg} (hp : Canon p) : Canon (countTick p) := same_canon hp (by simp)
theorem sweepPools_canon {p : Pkg} (hp : Canon p) : Canon (sweepPools p) := by
  have swept : AllOf PenMem (tmap {} (fun _ x => { x with pool := sweepFrames x.pool }) p.pens) :=
    AllOf.map hp.pens fun _ _ h => ⟨h.1, sweepFrames_frames h.2⟩
  exact ⟨hp.arrays, swept, hp.binds, hp.staging⟩
theorem judgeBlocked_canon {p : Pkg} {c : Nat} (hp : Canon p) : Canon (judgeBlocked p c) := same_canon hp (by simp)
theorem pumpSource_canon {p : Pkg} {i : Nat} (hp : Canon p) : Canon (pumpSource p i) :=
  ite_canon (pumpRing_canon hp) (pumpMail_canon hp)
theorem dispatchAll_canon {p : Pkg} (hp : Canon p) : Canon (dispatchAll p) := forAll_canon hp fun _ _ hq => sendWaiting_canon hq
theorem beginTick_canon {p : Pkg} (hp : Canon p) : Canon (beginTick p) :=
  forAll_canon (forAll_canon (judgeAlert_canon (dispatchAll_canon (repeatChecks_canon (sweepPools_canon hp))))
    (fun _ _ hq => judgeBlocked_canon hq)) fun _ _ hq => pumpSource_canon hq
theorem tickStep_canon {p : Pkg} (hp : Canon p) : Canon (tickStep p) :=
  ite_canon (judgeAlert_canon (portsTick_canon (countTick_canon hp))) (beginTick_canon (portsTick_canon (steerTick_canon
    (countTick_canon (endTick_canon hp)))))
theorem idleTime_canon {p : Pkg} (hp : Canon p) : Canon (idleTime p) := same_canon hp (by simp)

/-! #### Shifts of time -/

theorem shiftPkg_canon {d : Int} {p : Pkg} (hp : Canon p) : Canon (shiftPkg d p) := by
  have shifted : AllOf PenMem (tmap {} (fun _ x => shiftPen d x) p.pens) := AllOf.map hp.pens fun _ _ h => ⟨h.1, h.2⟩
  exact ⟨hp.arrays, shifted, hp.binds, hp.staging⟩

/-! #### TickFam -/

theorem refclkLostOp_canon {p : Pkg} {cause : Nat} (hp : Canon p) : Canon (refclkLostOp p cause) :=
  judgeAlert_canon (forAll_canon (logFault_canon (loseAlign_canon
    (updParts_canon hp rfl rfl))) fun _ _ hq => fenceGroupOp_canon hq)
theorem countLoadOp_canon {p : Pkg} (hp : Canon p) : Canon (countLoadOp p) := by
  unfold countLoadOp
  dsimp only
  split
  · exact hp
  · split
    · exact gainAlign_canon (upd_canon (shiftPkg_canon hp))
    · exact mgtDone_canon (log_canon (updParts_canon (gainAlign_canon (upd_canon (shiftPkg_canon hp))) rfl rfl))

/-! #### WeightFam -/

theorem setupRechecked_canon {p : Pkg} {idx n : Nat} (hp : Canon p) : Canon (setupRechecked p idx n) :=
  ite_canon (ite_canon (forAll_canon (modStep_canon hp) (fun _ _ hq => readReplica_canon hq)) (modStep_canon hp)) (forAll_canon
    (modStep_canon hp) (fun _ _ hq => by
    split
    · exact modStep_canon (fetchFirst_canon hq)
    · exact faultStep_canon hq))
theorem slowerLost_canon {p : Pkg} {n k r : Nat} (hp : Canon p) : Canon (slowerLost p n k r) := by
  unfold slowerLost
  dsimp only
  split
  · exact readReplica_canon (modStep_canon hp)
  · exact faultStep_canon (log_canon hp)
theorem slowerFetched_canon {p : Pkg} {n k r : Nat} {payload : Option Bytes} (hp : Canon p) : Canon (slowerFetched p n k r payload) := by
  unfold slowerFetched
  dsimp only
  split
  · exact slowerLost_canon hp
  · exact ite_canon (modStep_canon (modNvw_canon hp)) (faultStep_canon (log_canon (modReplica_canon (modNvw_canon
    (modNvw_canon hp)))))
theorem fillFetched_canon {p : Pkg} {k r : Nat} {payload : Option Bytes} (hp : Canon p) : Canon (fillFetched p k r payload) :=
  same_canon hp (by simp)

/-! #### Commands -/

/-- Whenever the command answers a next state, the byte memories have their canonical form in it. -/
def KeepsCanon (c : Instr) (s : State) : Prop := Canon s.pkg → ∀ t : State, exec c s = .next t → Canon t.pkg

theorem canon_of_act {c : Instr} {s : State} {ok : Bool} {f : Pkg → Pkg} (hc : exec c s = act ok f s)
    (hf : Canon s.pkg → Canon (f s.pkg)) : KeepsCanon c s := by
  intro hp t ht
  rw [hc, act_eq] at ht
  cases ht
  cases ok with
  | false => exact hp
  | true => exact hf hp

/-- The check of READY and the interrupts change no byte memory. -/
theorem canon_of_actS {c : Instr} {s : State} {ok : Bool} {f : Pkg → Pkg} (hc : exec c s = actS ok f s)
    (hf : Canon s.pkg → Canon (f s.pkg)) : KeepsCanon c s :=
  canon_of_act (f := fun p => settle p (judgeReady (f p))) hc fun hp => same_canon (hf hp) (by simp)

/-- A command whose frame holds no byte memory. -/
theorem canon_of_frame {c : Instr} {s : State} (ha : touches c .arrays = false) (hpens : touches c .pens = false)
    (hh : touches c .hnd = false) (hm : touches c .mgt = false) : KeepsCanon c s := by
  intro hp t h
  obtain ⟨-, hkeeps⟩ := framesOfCommands c s t h
  have hnd : t.pkg.hnd = s.pkg.hnd := hkeeps .hnd (not_mem_of_touches hh)
  have mgt : t.pkg.mgt = s.pkg.mgt := hkeeps .mgt (not_mem_of_touches hm)
  exact same_canon hp
    ⟨hkeeps .arrays (not_mem_of_touches ha), hkeeps .pens (not_mem_of_touches hpens), by rw [hnd], by rw [mgt]⟩

theorem canon_of_byHart {c : Instr} {s : State} {core : Nat} {mem : Stores} {f : Pkg → Nat → Pkg}
    (hc : exec c s = byHart core mem f s) (hf : ∀ p k, Canon p → Canon (f p k)) : KeepsCanon c s := by
  refine canon_of_act hc fun hp => ?_
  dsimp only
  split
  · exact ite_canon (hf _ _ (progStores_canon hp)) (progStores_canon hp)
  · exact hp

theorem canon_of_byPage {c : Instr} {s : State} {core : Nat} {mem : Stores} {f : Pkg → Nat → Pkg}
    (hc : exec c s = byPage core mem f s) (hf : ∀ p k, Canon p → Canon (f p k)) : KeepsCanon c s := by
  refine canon_of_act hc fun hp => ?_
  dsimp only
  split
  · exact ite_canon (ite_canon (hf _ _ (progStores_canon hp)) (progStores_canon hp)) hp
  · exact hp

theorem canon_of_byProgram {c : Instr} {s : State} {ctx : Nat} {f : Pkg → Nat → Pkg} (hc : exec c s = byProgram ctx f s)
    (hf : ∀ p k, Canon p → Canon (f p k)) : KeepsCanon c s := canon_of_act hc fun hp => hf _ _ hp

theorem descriptorFetchDone_keepsCanon (ctx : Nat) (data : Option Bytes) (s : State) :
    KeepsCanon (.descriptorFetchDone ctx data) s := by
  refine canon_of_act ((exec_descriptorFetchDone ctx data s).trans rfl) fun hp => ?_
  split
  · exact hostError_canon hp
  · exact ite_canon (pumpRing_canon (modCtx_canon hp)) hp
  · exact hp
theorem fabricFenceComplete_keepsCanon (srcId : Nat) (s : State) : KeepsCanon (.fabricFenceComplete srcId) s := by
  refine canon_of_act ((exec_fabricFenceComplete srcId s).trans rfl) fun hp => ?_
  split
  · exact fenceEnds_canon hp
  · exact hp
theorem loadTimeout_keepsCanon (tag : Nat) (s : State) : KeepsCanon (.loadTimeout tag) s := by
  refine canon_of_act ((exec_loadTimeout tag s).trans rfl) fun hp => ?_
  split
  · exact ite_canon (loadTimesOut_canon hp) hp
  · exact hp
theorem storeTimeout_keepsCanon (tag : Nat) (s : State) : KeepsCanon (.storeTimeout tag) s := by
  refine canon_of_act ((exec_storeTimeout tag s).trans rfl) fun hp => ?_
  split
  · exact ite_canon (storeTimesOut_canon hp) hp
  · exact hp
theorem memberUnreached_keepsCanon (pen member : Nat) (s : State) : KeepsCanon (.memberUnreached pen member) s := by
  refine canon_of_act ((exec_memberUnreached pen member s).trans rfl) fun hp => ?_
  dsimp only
  split
  · exact hp
  · exact ite_canon hp (fenceGroupOp_canon (log_canon hp))
theorem capSoftApplied_keepsCanon (s : State) : KeepsCanon (.capSoftApplied) s := by
  refine canon_of_act ((exec_capSoftApplied s).trans rfl) fun hp => ?_
  split
  · exact applyCap_canon hp
  · exact hp
theorem capHardApplied_keepsCanon (s : State) : KeepsCanon (.capHardApplied) s := by
  refine canon_of_act ((exec_capHardApplied s).trans rfl) fun hp => ?_
  split
  · exact applyCap_canon hp
  · exact hp
theorem capReleaseApplied_keepsCanon (s : State) : KeepsCanon (.capReleaseApplied) s := by
  refine canon_of_act ((exec_capReleaseApplied s).trans rfl) fun hp => ?_
  split
  · exact applyCap_canon hp
  · exact hp
theorem fenceComplete_keepsCanon (ctx : Nat) (s : State) : KeepsCanon (.fenceComplete ctx) s := by
  refine canon_of_act ((exec_fenceComplete ctx s).trans rfl) fun hp => ?_
  split
  · exact answer_canon (modCtx_canon hp)
  · exact hp
theorem recvGateComplete_keepsCanon (pen half : Nat) (s : State) : KeepsCanon (.recvGateComplete pen half) s := by
  refine canon_of_act ((exec_recvGateComplete pen half s).trans rfl) fun hp => ?_
  split
  · exact ite_canon (recvGateOp_canon hp) hp
  · exact hp
theorem combGateComplete_keepsCanon (pen half : Nat) (s : State) : KeepsCanon (.combGateComplete pen half) s := by
  refine canon_of_act ((exec_combGateComplete pen half s).trans rfl) fun hp => ?_
  split
  · exact ite_canon (completeGen_canon (modDecided_canon (combineHalf_canon hp))) hp
  · exact hp
theorem exchangeWatchdog_keepsCanon (pen : Nat) (s : State) : KeepsCanon (.exchangeWatchdog pen) s := by
  refine canon_of_act ((exec_exchangeWatchdog pen s).trans rfl) fun hp => ?_
  split
  · exact fenceGroupOp_canon (log_canon hp)
  · exact hp
theorem namedTickAction_keepsCanon (op : Nat) (s : State) : KeepsCanon (.namedTickAction op) s := by
  refine canon_of_actS ((exec_namedTickAction op s).trans rfl) fun hp => ?_
  split
  · exact underResets_canon hp (fun _ hq => namedAct_canon hq)
  · exact hp
theorem promptReadDone_keepsCanon (entry : Nat) (tokens : Option (List Word32)) (s : State) :
    KeepsCanon (.promptReadDone entry tokens) s := by
  refine canon_of_act ((exec_promptReadDone entry tokens s).trans rfl) fun hp => ?_
  split
  · exact tokenReadFailed_canon hp
  · exact ite_canon (promptRead_canon hp) hp
theorem appendReadDone_keepsCanon (entry : Nat) (tokens : Option (List Word32)) (s : State) :
    KeepsCanon (.appendReadDone entry tokens) s := by
  refine canon_of_act ((exec_appendReadDone entry tokens s).trans rfl) fun hp => ?_
  split
  · split
    · exact tokenReadFailed_canon hp
    · exact ite_canon (appendRead_canon hp) hp
  · exact hp
theorem tokenSelect_keepsCanon (pen slot : Nat) (s : State) : KeepsCanon (.tokenSelect pen slot) s := by
  refine canon_of_act ((exec_tokenSelect pen slot s).trans rfl) fun hp => ?_
  split
  · exact ite_canon (selectSlot_canon hp) hp
  · exact hp
theorem segmentStart_keepsCanon (pen seg : Nat) (s : State) : KeepsCanon (.segmentStart pen seg) s := by
  refine canon_of_act ((exec_segmentStart pen seg s).trans rfl) fun hp => ?_
  split
  · exact startSeg_canon hp
  · exact hp
theorem imprintWriteDone_keepsCanon (stack : Nat) (payload : Option Bytes) (s : State) :
    KeepsCanon (.imprintWriteDone stack payload) s := by
  refine canon_of_actS ((exec_imprintWriteDone stack payload s).trans rfl) fun hp => ?_
  dsimp only
  split
  · exact ite_canon (imprintEnd_canon hp) hp
  · exact hp
theorem nvBlockFetchDone_keepsCanon (replica : Nat) (data : Option Bytes) (s : State) :
    KeepsCanon (.nvBlockFetchDone replica data) s := by
  refine canon_of_actS ((exec_nvBlockFetchDone replica data s).trans rfl) fun hp => ?_
  dsimp only
  split
  · exact blockArrives_canon (payloadDone_canon hp)
  · exact hp
theorem slowerFetchDone_keepsCanon (pen shard : Nat) (payload : Option Bytes) (s : State) :
    KeepsCanon (.slowerFetchDone pen shard payload) s := by
  refine canon_of_act ((exec_slowerFetchDone pen shard payload s).trans rfl) fun hp => ?_
  dsimp only
  split
  · exact slowerFetched_canon (payloadDone_canon hp)
  · split
    · exact ite_canon (fillFetched_canon (payloadDone_canon hp)) hp
    · exact hp
/-- A boundary runs the tick where the clock runs, and passes the time else. -/
theorem tickBoundary_keepsCanon (s : State) : KeepsCanon .tickBoundary s := by
  have hc := (exec_tickBoundary s).trans (execTickBoundary.eq_1 s)
  split at hc
  · exact canon_of_actS hc tickStep_canon
  · exact canon_of_act hc idleTime_canon
theorem houndWake_keepsCanon (core : Nat) (s : State) : KeepsCanon (.houndWake core) s :=
  canon_of_act (f := fun p => modHart (modHcore p core _) core _) ((exec_houndWake core s).trans rfl) fun hp =>
    modHart_canon (modHcore_canon hp)
theorem dramUncorrectable_keepsCanon (stack pen : Nat) (loc : DramLoc) (s : State) :
    KeepsCanon (.dramUncorrectable stack pen loc) s := by
  cases loc with
  | corrected lines => exact canon_of_act (f := fun p => dramCorrected p stack lines) ((exec_dramUncorrectable _ _ _ s).trans rfl) dramCorrected_canon
  | _ => exact canon_of_actS ((exec_dramUncorrectable _ _ _ s).trans rfl) fun hp => overridden_canon hp fun _ => dramLineSampled_canon
theorem canon_of_mgtCommand {c : Instr} {s : State} {ok : Bool} {op : Nat} {path : Path} {msg : Bytes}
    (hc : exec c s = actS ok (mgtCommand op path msg) s) : KeepsCanon c s := canon_of_actS hc mgtCommand_canon
theorem canon_of_underResets {c : Instr} {s : State} {ok : Bool} {op : Nat} {path : Path} {msg : Bytes}
    (hc : exec c s = actS ok (fun _ => underResets s op (mgtCommand op path msg)) s) : KeepsCanon c s :=
  canon_of_actS hc fun hp => underResets_canon hp fun _ => mgtCommand_canon

/-- Every command keeps the canonical form of the byte memories. -/
theorem exec_keepsCanon (c : Instr) (s : State) : KeepsCanon c s := by
  cases c with
  -- The managers' messages.
  | lease path msg | release path msg | epoch path msg | setCount path msg | cap path msg | planWrite path msg
  | planCommit path msg | readmit path msg | fenceGroup path msg | groupWrite path msg | resumeGroup path msg
  | memberLost path msg | imprintAuth path msg | clearAuth path msg | logClear path msg | arrayRelease path msg
  | portReeval path msg | inspect path msg | status path msg =>
    exact canon_of_mgtCommand rfl
  | quarantine path msg | penReset path msg | warmReset path msg => exact canon_of_underResets rfl
  -- The other commands whose frame holds a byte memory.
  | mma array => exact canon_of_act ((exec_mma array s).trans rfl) fun hp => getD_canon hp fun _ hq => mmaOp_canon hq hp
  | fuse2 array => exact canon_of_act ((exec_fuse2 array s).trans rfl) fun hp => getD_canon hp fun _ hq => fuse2Op_canon hq hp
  | rowfn array => exact canon_of_act ((exec_rowfn array s).trans rfl) rowfnOp_canon
  | loadw array => exact canon_of_act ((exec_loadw array s).trans rfl) fun hp => getD_canon hp fun _ hq => loadOp_canon hq hp
  | loada array => exact canon_of_act ((exec_loada array s).trans rfl) fun hp => getD_canon hp fun _ hq => loadOp_canon hq hp
  | store array => exact canon_of_act ((exec_store array s).trans rfl) storeOp_canon
  | storeRowstate array => exact canon_of_act ((exec_storeRowstate array s).trans rfl) storeRowOp_canon
  | maskset array => exact canon_of_act ((exec_maskset array s).trans rfl) masksetOp_canon
  | syncDrain array => exact canon_of_act ((exec_syncDrain array s).trans rfl) syncOp_canon
  | syncBarrier array => exact canon_of_act ((exec_syncBarrier array s).trans rfl) syncOp_canon
  | syncArrive array => exact canon_of_act ((exec_syncArrive array s).trans rfl) syncOp_canon
  | syncWait array => exact canon_of_act ((exec_syncWait array s).trans rfl) syncOp_canon
  | syncLayerEnd array => exact canon_of_act ((exec_syncLayerEnd array s).trans rfl) layerEndOp_canon
  | syncEnd array => exact canon_of_act ((exec_syncEnd array s).trans rfl) endOp_canon
  | score array => exact canon_of_act ((exec_score array s).trans rfl) scoreOp_canon
  | ctxEnable fn ctx value => exact canon_of_act ((exec_ctxEnable fn ctx value s).trans rfl) ctxWrite_canon
  | ctxDisable fn ctx value =>
    exact canon_of_act ((exec_ctxDisable fn ctx value s).trans rfl) fun hp => overridden_canon hp fun _ hq => ctxWrite_canon hq
  | ctxCmdReset fn ctx =>
    exact canon_of_act ((exec_ctxCmdReset fn ctx s).trans rfl) fun hp => overridden_canon hp fun _ hq => ctxWrite_canon hq
  | contextResetDone ctx failed => exact canon_of_act ((exec_contextResetDone ctx failed s).trans rfl) resetDone_canon
  | flrVf vf => exact canon_of_act ((exec_flrVf vf s).trans rfl) fun hp => overridden_canon hp fun _ hq => functionReset_canon hq
  | flrPf => exact canon_of_act ((exec_flrPf s).trans rfl) fun hp => overridden_canon hp fun _ hq => functionReset_canon hq
  | vfEnableClear numVfs =>
    exact canon_of_act ((exec_vfEnableClear numVfs s).trans rfl) fun hp => overridden_canon hp fun _ hq => setNumVfs_canon hq
  | hostLinkDown ltssm =>
    exact canon_of_act ((exec_hostLinkDown ltssm s).trans rfl)
      fun hp => log_canon (upd_canon (forAll_canon hp (fun _ _ hq => faultCtx_canon hq)))
  | ringWriteFailed ctx ring => exact canon_of_act ((exec_ringWriteFailed ctx ring s).trans rfl) ringWriteFailed_canon
  | descriptorFetchDone ctx data => exact descriptorFetchDone_keepsCanon ctx data s
  | packetLoad port pkt => exact canon_of_act ((exec_packetLoad port pkt s).trans rfl) requestIn_canon
  | packetStore port pkt => exact canon_of_act ((exec_packetStore port pkt s).trans rfl) requestIn_canon
  | packetAtomic port pkt => exact canon_of_act ((exec_packetAtomic port pkt s).trans rfl) requestIn_canon
  | loadResp port pkt => exact canon_of_act ((exec_loadResp port pkt s).trans rfl) responseIn_canon
  | storeAck port pkt => exact canon_of_act ((exec_storeAck port pkt s).trans rfl) responseIn_canon
  | atomicResp port pkt => exact canon_of_act ((exec_atomicResp port pkt s).trans rfl) responseIn_canon
  | fabricFenceComplete srcId => exact fabricFenceComplete_keepsCanon srcId s
  | loadTimeout tag => exact loadTimeout_keepsCanon tag s
  | storeTimeout tag => exact storeTimeout_keepsCanon tag s
  | memberUnreached pen member => exact memberUnreached_keepsCanon pen member s
  | fenceNotice port pkt => exact canon_of_act ((exec_fenceNotice port pkt s).trans rfl) requestIn_canon
  | lshCapNextCommit fn =>
    exact canon_of_act ((exec_lshCapNextCommit fn s).trans rfl) fun hp => pfWrite_canon hp fun _ hq => capCommit_canon hq
  | capSoftApplied => exact capSoftApplied_keepsCanon s
  | capHardApplied => exact capHardApplied_keepsCanon s
  | capReleaseApplied => exact capReleaseApplied_keepsCanon s
  | beatRateCheck samples =>
    exact canon_of_actS ((exec_beatRateCheck samples s).trans rfl) fun hp => overridden_canon hp fun _ hq => judgeRates_canon hq
  | hint ctx => exact canon_of_act ((exec_hint ctx s).trans rfl) fun hp => evalDesc_canon hp fun _ _ _ hq => hintOp_canon hq
  | bar0Write fn off size value =>
    exact canon_of_actS ((exec_bar0Write fn off size value s).trans rfl)
      fun hp => ite_canon (overridden_canon hp (fun _ hq => bar0WriteOp_canon hq)) (bar0WriteOp_canon hp)
  | admitReq src =>
    exact canon_of_act ((exec_admitReq src s).trans rfl) fun hp => evalDesc_canon hp fun _ _ _ hq => admitOp_canon hq
  | append src => exact canon_of_act ((exec_append src s).trans rfl) fun hp => evalDesc_canon hp fun _ _ _ hq => appendOp_canon hq
  | cancel src => exact canon_of_act ((exec_cancel src s).trans rfl) fun hp => evalDesc_canon hp fun _ _ _ hq => cancelOp_canon hq
  | pause src => exact canon_of_act ((exec_pause src s).trans rfl) fun hp => evalDesc_canon hp fun _ _ _ hq => pauseOp_canon hq
  | resume src => exact canon_of_act ((exec_resume src s).trans rfl) fun hp => evalDesc_canon hp fun _ _ _ hq => resumeOp_canon hq
  | fence ctx => exact canon_of_act ((exec_fence ctx s).trans rfl) fun hp => evalDesc_canon hp fun _ _ _ hq => fenceOp_canon hq
  | fenceComplete ctx => exact fenceComplete_keepsCanon ctx s
  | rollcall ctx =>
    exact canon_of_act ((exec_rollcall ctx s).trans rfl) fun hp => evalDesc_canon hp fun _ _ _ hq => rollcallOp_canon hq
  | setSampling src =>
    exact canon_of_act ((exec_setSampling src s).trans rfl) fun hp => evalDesc_canon hp fun _ _ _ hq => samplingOp_canon hq
  | countRecord pen slot rec => exact canon_of_act ((exec_countRecord pen slot rec s).trans rfl) recordIn_canon
  | dispatchMark pen slot word => exact canon_of_act ((exec_dispatchMark pen slot word s).trans rfl) markIn_canon
  | freeMark pen slot word => exact canon_of_act ((exec_freeMark pen slot word s).trans rfl) markIn_canon
  | combineMark pen slot word => exact canon_of_act ((exec_combineMark pen slot word s).trans rfl) markIn_canon
  | dispatchPiece pen off data => exact canon_of_act ((exec_dispatchPiece pen off data s).trans rfl) pieceIn_canon
  | dispatchTagRun pen off data => exact canon_of_act ((exec_dispatchTagRun pen off data s).trans rfl) tagsIn_canon
  | combineStore pen off data => exact canon_of_act ((exec_combineStore pen off data s).trans rfl) combineIn_canon
  | recvGateComplete pen half => exact recvGateComplete_keepsCanon pen half s
  | combGateComplete pen half => exact combGateComplete_keepsCanon pen half s
  | exchangeWatchdog pen => exact exchangeWatchdog_keepsCanon pen s
  | selfTestDone failed => exact canon_of_actS ((exec_selfTestDone failed s).trans rfl) selfTest_canon
  | arrayWatchdog array =>
    exact canon_of_actS ((exec_arrayWatchdog array s).trans rfl) fun hp => overridden_canon hp fun _ hq => quarantineNow_canon hq
  | sramUncorrectable array =>
    exact canon_of_actS ((exec_sramUncorrectable array s).trans rfl)
      fun hp => overridden_canon hp fun _ hq => quarantineNow_canon hq
  | arraySelftestDone array pass ticks =>
    exact canon_of_actS ((exec_arraySelftestDone array pass ticks s).trans rfl) returnDone_canon
  | dramUncorrectable stack pen loc => exact dramUncorrectable_keepsCanon stack pen loc s
  | dramStackFailed stack cause =>
    exact canon_of_actS ((exec_dramStackFailed stack cause s).trans rfl)
      fun hp => overridden_canon hp fun _ hq => dramStackFail_canon hq
  | engineFault kind index => exact canon_of_actS ((exec_engineFault kind index s).trans rfl) engineFail_canon
  | houndBind fn ctx =>
    exact canon_of_act ((exec_houndBind fn ctx s).trans rfl)
      fun hp => regWrite_canon hp fun _ hq => ite_canon (bindOp_canon hq) hq
  | houndUnbind fn ctx =>
    exact canon_of_act ((exec_houndUnbind fn ctx s).trans rfl)
      fun hp => regWrite_canon hp fun _ hq => ite_canon (setResult_canon (endBinding_canon hq)) hq
  | houndImageLoaded ctx image => exact canon_of_act ((exec_houndImageLoaded ctx image s).trans rfl) imageLoaded_canon
  | hndMbCmdTail core value mem =>
    exact canon_of_byPage ((exec_hndMbCmdTail core value mem s).trans rfl) fun _ _ hp => ite_canon (mailDoorbell_canon hp) hp
  | hndMbReplyHead core value mem =>
    exact canon_of_byPage ((exec_hndMbReplyHead core value mem s).trans rfl) fun _ _ hp => ite_canon (modHcore_canon hp) hp
  | hndTqHead ctx value mem =>
    exact canon_of_byProgram ((exec_hndTqHead ctx value mem s).trans rfl) fun _ _ hp => ite_canon (tqHeadWrite_canon (progStores_canon hp)) (progStores_canon hp)
  | hndFqLoad ctx tail mem =>
    exact canon_of_byProgram ((exec_hndFqLoad ctx tail mem s).trans rfl) fun _ _ hp => fqCommand_canon hp
  | hndFqStore ctx tail mem =>
    exact canon_of_byProgram ((exec_hndFqStore ctx tail mem s).trans rfl) fun _ _ hp => fqCommand_canon hp
  | hndFqAtomic ctx tail mem =>
    exact canon_of_byProgram ((exec_hndFqAtomic ctx tail mem s).trans rfl) fun _ _ hp => fqCommand_canon hp
  | hndFqFence ctx tail mem =>
    exact canon_of_byProgram ((exec_hndFqFence ctx tail mem s).trans rfl) fun _ _ hp => fqCommand_canon hp
  | ecallExit core a0 mem =>
    exact canon_of_byHart ((exec_ecallExit core a0 mem s).trans rfl) fun _ _ hp => exitHart_canon (callRegs_canon hp)
  | ecallWait core a0 mem =>
    exact canon_of_byHart ((exec_ecallWait core a0 mem s).trans rfl) fun _ _ hp => waitHart_canon (callRegs_canon hp)
  | houndWake core => exact houndWake_keepsCanon core s
  | houndFault ctx core kind code pc tval =>
    exact canon_of_actS ((exec_houndFault ctx core kind code pc tval s).trans rfl) houndFaultOp_canon
  | hndRingBaseWrite core off write mem =>
    exact canon_of_byPage ((exec_hndRingBaseWrite core off write mem s).trans rfl) fun _ _ hp => ringBaseWrite_canon hp
  | kvHostCopyDone pen data => exact canon_of_act ((exec_kvHostCopyDone pen data s).trans rfl) copyLands_canon
  | kvCowCopyDone pen frame => exact canon_of_act ((exec_kvCowCopyDone pen frame s).trans rfl) cowDone_canon
  | swapReturn pen => exact canon_of_act ((exec_swapReturn pen s).trans rfl) returnsOf_canon
  | contextSwap pen => exact canon_of_act ((exec_contextSwap pen s).trans rfl) contextSwapOp_canon
  | bind fn pen => exact canon_of_actS ((exec_bind fn pen s).trans rfl) fun hp => pfWrite_canon hp fun _ hq => ldrCmd_canon hq
  | unbind fn pen => exact canon_of_actS ((exec_unbind fn pen s).trans rfl) fun hp => pfWrite_canon hp fun _ hq => ldrCmd_canon hq
  | bindComplete image placed => exact canon_of_actS ((exec_bindComplete image placed s).trans rfl) bindEnd_canon
  | unbindComplete => exact canon_of_actS ((exec_unbindComplete s).trans rfl) unbindEnd_canon
  | leaseExpired => exact canon_of_actS ((exec_leaseExpired s).trans rfl) leaseEnd_canon
  | namedTickAction op => exact namedTickAction_keepsCanon op s
  | i3cPrivateWrite msg =>
    exact canon_of_actS ((exec_i3cPrivateWrite msg s).trans rfl)
      fun hp => underResets_canon hp (fun _ hq => mgtTaken_canon hq (fun _ _ hr => opTake_canon hr))
  | penEnable fn pen value =>
    exact canon_of_act ((exec_penEnable fn pen value s).trans rfl) fun hp => pfWrite_canon hp fun _ hq => penCtrlWrite_canon hq
  | penDisable fn pen value =>
    exact canon_of_act ((exec_penDisable fn pen value s).trans rfl) fun hp => pfWrite_canon hp fun _ hq => penCtrlWrite_canon hq
  | penBudgetWrite fn pen off value =>
    exact canon_of_act ((exec_penBudgetWrite fn pen off value s).trans rfl)
      fun hp => pfWrite_canon hp fun _ hq => penRegWrite_canon hq
  | penActivate pen => exact canon_of_act ((exec_penActivate pen s).trans rfl) activate_canon
  | predStepRefresh =>
    exact canon_of_act ((exec_predStepRefresh s).trans rfl) fun hp => forAll_canon hp fun _ _ hq => refreshOne_canon hq
  | vin6Lockout => exact canon_of_act ((exec_vin6Lockout s).trans rfl) fun _ => pinCold_canon
  | auxRailFault => exact canon_of_act ((exec_auxRailFault s).trans rfl) fun _ => log_canon (nextFree_canon pinCold_canon)
  | resetNAssert =>
    exact canon_of_act ((exec_resetNAssert s).trans rfl) fun hp => ite_canon (log_canon pinCold_canon) (modPins_canon hp)
  | perstAssert =>
    exact canon_of_actS ((exec_perstAssert s).trans rfl)
      fun hp => ite_canon (warmResetOp_canon (modPins_canon hp)) (modPins_canon hp)
  | admitHoldExpiry entry => exact canon_of_act ((exec_admitHoldExpiry entry s).trans rfl) refuseAdmit_canon
  | promptReadDone entry tokens => exact promptReadDone_keepsCanon entry tokens s
  | appendReadDone entry tokens => exact appendReadDone_keepsCanon entry tokens s
  | deadlineMissed entry => exact canon_of_act ((exec_deadlineMissed entry s).trans rfl) missDeadline_canon
  | ttlExpiry entry => exact canon_of_act ((exec_ttlExpiry entry s).trans rfl) endReq_canon
  | slotWord pen off word => exact canon_of_act ((exec_slotWord pen off word s).trans rfl) slotWordIn_canon
  | candidateRecord pen off rec => exact canon_of_act ((exec_candidateRecord pen off rec s).trans rfl) candIn_canon
  | tokenSelect pen slot => exact tokenSelect_keepsCanon pen slot s
  | stepSetupStart pen => exact canon_of_act ((exec_stepSetupStart pen s).trans rfl) setupStart_canon
  | setupComplete pen => exact canon_of_act ((exec_setupComplete pen s).trans rfl) setupDone_canon
  | stepRelease pen => exact canon_of_act ((exec_stepRelease pen s).trans rfl) stepRelease_canon
  | segmentStart pen seg => exact segmentStart_keepsCanon pen seg s
  | segmentSwitch array => exact canon_of_act ((exec_segmentSwitch array s).trans rfl) switchSeg_canon
  | barrierComplete pen barrier => exact canon_of_act ((exec_barrierComplete pen barrier s).trans rfl) completeGen_canon
  | layerDone pen layer => exact canon_of_act ((exec_layerDone pen layer s).trans rfl) layerDoneOp_canon
  | stepDone pen => exact canon_of_act ((exec_stepDone pen s).trans rfl) stepDoneOp_canon
  | tickBoundary => exact tickBoundary_keepsCanon s
  | refclkLost cause => exact canon_of_actS ((exec_refclkLost cause s).trans rfl) refclkLostOp_canon
  | countLoad => exact canon_of_act ((exec_countLoad s).trans rfl) countLoadOp_canon
  | imprintWrite ctx =>
    exact canon_of_act ((exec_imprintWrite ctx s).trans rfl) fun hp => evalDesc_canon hp fun _ _ _ hq => imprintWriteOp_canon hq
  | imprintRetire ctx =>
    exact canon_of_actS ((exec_imprintRetire ctx s).trans rfl)
      fun hp => evalDesc_canon hp fun _ _ _ hq => imprintRetireOp_canon hq
  | imprintWriteDone stack payload => exact imprintWriteDone_keepsCanon stack payload s
  | nvUncorrectable slot off reads => exact canon_of_actS ((exec_nvUncorrectable slot off reads s).trans rfl) lineRead_canon
  | nvBlockFetchDone replica data => exact nvBlockFetchDone_keepsCanon replica data s
  | nvStackFailed stack => exact canon_of_actS ((exec_nvStackFailed stack s).trans rfl) nvStackFail_canon
  | replicaRecheck idx header =>
    exact canon_of_act ((exec_replicaRecheck idx header s).trans rfl)
      fun hp => forAll_canon (modLdr_canon (replicaJudge_canon (headerDone_canon hp))) fun _ _ hq => setupRechecked_canon hq
  | slowerFetchDone pen shard payload => exact slowerFetchDone_keepsCanon pen shard payload s
  -- Commands whose frame holds none.
  | _ => exact canon_of_frame rfl rfl rfl rfl

/-- Settles O4: the front command of the queue keeps the canonical form of every byte memory. -/
theorem stepKeepsMemory : Obligations.StepKeepsMemory := by
  intro s t hs hstep
  rw [memory_wf_iff] at hs ⊢
  obtain ⟨pkg, pending⟩ := s
  cases pending with
  | nil =>
    rw [step_of_empty rfl] at hstep
    cases hstep
    exact hs
  | cons c rest => exact exec_keepsCanon c ⟨pkg, rest⟩ hs t hstep

end Sys2Proof.Machine
end

section
/-! PROOFS. A step is released, its segments start and switch, and its barriers complete (R128, R155, R164, R179, R186). -/

namespace Sys2Proof.Machine

/-- After an operation on each array of a list, an array of the list is what the operation made of it. -/
theorem arrOf_forAll_modArr {l : List Nat} {a : Nat} (ha : a ∈ l) (f : Arr → Arr) (p : Pkg) :
    ∃ x, arrOf (forAll l (fun q b => modArr q b f) p) a = f x := by
  induction l using List.reverseRecOn with
  | nil => cases ha
  | append_singleton l b ih =>
    simp only [forAll, List.foldl_append, List.foldl_cons, List.foldl_nil] at ih ⊢
    by_cases hab : a = b
    · exact ⟨_, by rw [hab, arrOf_modArr_same]⟩
    · rw [arrOf_modArr_ne _ _ _ hab]
      exact ih (by simpa [hab] using ha)

/-- After a change of the runs that a test admits, each run is one of the change or one that the test does not admit. -/
theorem mem_runs_modSetRuns {p : Pkg} {n a : Nat} {ok : SegRun → Bool} {f : SegRun → SegRun} {g : SegRun → ArrData → ArrData} {r : SegRun}
    (ha : a ∈ setOf p n) (hr : r ∈ (arrOf (modSetRuns p n ok f g) a).runs) : (∃ r0, r = f r0) ∨ ok r = false := by
  obtain ⟨x, hx⟩ := arrOf_forAll_modArr ha (fun x => modRunsIf x ok f g) p
  rw [modSetRuns, hx] at hr
  obtain ⟨r0, -, rfl⟩ := List.mem_map.mp hr
  split
  · exact .inl ⟨r0, rfl⟩
  · next h => exact .inr (by simpa using h)

/-- No run of the set waits for a generation that is complete. -/
theorem completeGen_waits {p : Pkg} {n b a g : Nat} {r : SegRun} (ha : a ∈ setOf p n) (hr : r ∈ (arrOf (completeGen p n b) a).runs)
    (hw : r.waitFor = some (b, g)) : tget 0 (stepNow p n).barGen b + 1 < g := by
  rcases mem_runs_modSetRuns (by simpa [setOf, modStep] using ha) hr with ⟨r0, rfl⟩ | hok
  · cases hw
  · simpa [hw] using hok

theorem startable_isRun {p : Pkg} {n seg a : Nat} (h : startable p n seg = some a) : (arrOf p a).active < (arrOf p a).runs.length := by
  have := List.find?_some h
  simp only [Bool.and_eq_true, decide_eq_true_eq] at this
  exact this.1.1

theorem stepRelease_step {p : Pkg} {n : Nat} {t : Step} (h : (penOf p n).step = some t) :
    (penOf (stepRelease p n) n).step = some { t with released := true } := by
  simp [stepRelease, modStep, h]

theorem stepRelease_stepEnd {p : Pkg} {n : Nat} {t : Step} (h : (penOf p n).step = some t) :
    (penOf (stepRelease p n) n).stepEnd = t.t0 + (penOf p n).pred := by
  simp [stepRelease, modStep, h]

/-- Settles O19: each event by what its operation leaves of the step job, the runs and the data of the arrays. -/
theorem stepProgress : Obligations.StepProgress := by
  refine ⟨fun s pen t hpow hstep hdone hx hrel ht => ?_, fun s pen seg a hruns hstart ha => ?_, fun s a hpow hlt hmay => ?_,
    fun s pen b hruns hb hgate hctl harr => ?_⟩
  · refine does_of_act ((exec_stepRelease pen s).trans rfl) ?_ ⟨stepNow_of_step (stepRelease_step hstep), stepRelease_stepEnd hstep⟩
    simp [hpow, hstep, stepNow_of_step hstep, hdone, hx, hrel, ht]
  · refine does_of_act ((exec_segmentStart pen seg s).trans rfl) (by simp [hruns, hstart, ha]) ?_
    simp only [ha, startSeg]
    exact ⟨by rw [arrOf_modArr_same, runOf_modRun _ _ (startable_isRun ha)], fun c hc => arrOf_modArr_ne _ _ _ hc⟩
  · exact does_of_act ((exec_segmentSwitch a s).trans rfl) (by simp [hpow, hlt, hmay])
      ⟨arrOf_modArr_same _ _ _, fun c hc => arrOf_modArr_ne _ _ _ hc⟩
  · refine does_of_act ((exec_barrierComplete pen b s).trans rfl) (by rw [hruns, hgate, hctl, harr]; simpa using hb) ?_
    have hgen := stepNow_of_step (completeGen_step (step_of_stepRuns hruns) b)
    rw [hgen]
    refine ⟨by simp, fun k hk => by simp [tget_tset, hk], fun a ha r hr g hw => ?_⟩
    simpa using completeGen_waits ha hr hw

end Sys2Proof.Machine
end

section
/-! PROOFS. The words that compute nothing (R127 to R129, R146, R147), with what each array word leaves of the runs: it changes the array's own run
and its data, and goes on to the next word. -/

namespace Sys2Proof.Machine

/-! #### The run and the data of an array after its word -/

section Words
variable {p q : Pkg} {a : Nat}

@[simp] theorem modData_data (p : Pkg) (a : Nat) (f : ArrData → ArrData) : (arrOf (modData p a f) a).data = f (arrOf p a).data := by
  simp [modData]

@[simp] theorem modData_active (p : Pkg) (a : Nat) (f : ArrData → ArrData) : (arrOf (modData p a f) a).active = (arrOf p a).active := by
  simp [modData]

@[simp] theorem modData_runs (p : Pkg) (a : Nat) (f : ArrData → ArrData) : (arrOf (modData p a f) a).runs = (arrOf p a).runs := by
  simp [modData]

@[simp] theorem modData_runOf (p : Pkg) (a : Nat) (f : ArrData → ArrData) : runOf (arrOf (modData p a f) a) = runOf (arrOf p a) := by
  simp [runOf]

@[simp] theorem wordDone_data (p : Pkg) (a : Nat) : (arrOf (wordDone p a) a).data = (arrOf p a).data := by simp [wordDone]

theorem wordDone_runOf (h : (arrOf p a).active < (arrOf p a).runs.length) :
    runOf (arrOf (wordDone p a) a) = { runOf (arrOf p a) with pc := (runOf (arrOf p a)).pc + 1 } := by
  rw [wordDone, arrOf_modArr_same, runOf_modRun _ _ h]

theorem arrOf_wordDone_ne (p : Pkg) {a b : Nat} (h : b ≠ a) : arrOf (wordDone p a) b = arrOf p b := arrOf_modArr_ne p a _ h

theorem arrOf_modData_ne (p : Pkg) (f : ArrData → ArrData) {a b : Nat} (h : b ≠ a) : arrOf (modData p a f) b = arrOf p b :=
  arrOf_modArr_ne p a _ h

/-- The array's run and place are as they were, and so are the other arrays. -/
structure SameRuns (p q : Pkg) (a : Nat) : Prop where
  active : (arrOf q a).active = (arrOf p a).active
  length : (arrOf q a).runs.length = (arrOf p a).runs.length
  pc : (runOf (arrOf q a)).pc = (runOf (arrOf p a)).pc
  others : ∀ b, b ≠ a → arrOf q b = arrOf p b

theorem SameRuns.of_arrays (h : q.arrays = p.arrays) : SameRuns p q a := by
  constructor <;> simp [arrOf_congr h]

theorem SameRuns.modData (h : SameRuns p q a) (f : ArrData → ArrData) : SameRuns p (modData q a f) a :=
  ⟨by simp [h.active], by simp [h.length], by simp [h.pc], fun b hb => (arrOf_modData_ne q f hb).trans (h.others b hb)⟩

/-- A word that is done goes on to the next one. -/
theorem SameRuns.goesOn (h : SameRuns p q a) (hlt : (arrOf p a).active < (arrOf p a).runs.length) : goesOn p (wordDone q a) a := by
  refine ⟨?_, fun b hb => (arrOf_wordDone_ne q hb).trans (h.others b hb)⟩
  rw [wordDone_runOf (by rw [h.active, h.length]; exact hlt), ← h.pc]

end Words

/-! #### Masks -/

/-- The bits of a range of a mask register (R127). -/
theorem bitOf_rangeMask {lo n i : Nat} (hi : i < 128) : bitOf (rangeMask lo n) i = decide (lo ≤ i ∧ i < lo + n) := by
  have hbit : bitOf (rangeMask lo n) i = (rangeMask lo n).testBit i := by
    simp [bitOf, Nat.testBit, Nat.shiftRight_eq_div_pow, Nat.and_comm 1, Nat.and_one_is_mod, beq_eq_decide]
  rw [hbit, rangeMask, Nat.testBit_mod_two_pow, Nat.testBit_mul_two_pow, Nat.testBit_two_pow_sub_one]
  simp only [hi, decide_true, Bool.true_and, ← Bool.decide_and, decide_eq_decide]
  omega

theorem take_tgetList {α : Type} (d : α) (t : Tab α) (n k m : Nat) : (tgetList d t n (k + m)).take k = tgetList d t n k := by
  induction k generalizing n with
  | zero => simp [tgetList]
  | succ k ih => simpa [tgetList, Nat.succ_add_eq_add_succ] using ih (n + 1)

theorem drop_tgetList {α : Type} (d : α) (t : Tab α) (n k m : Nat) : (tgetList d t n (k + m)).drop k = tgetList d t (n + k) m := by
  induction k generalizing n with
  | zero => simp
  | succ k ih =>
    rw [Nat.succ_add]
    simpa [tgetList, Nat.add_assoc, Nat.add_comm 1] using ih (n + 1)

theorem masksetOp_goesOn {p : Pkg} {a : Nat} (h : (arrOf p a).active < (arrOf p a).runs.length) : goesOn p (masksetOp p a) a :=
  ((SameRuns.of_arrays rfl).modData _).goesOn h

/-! #### SYNC -/

/-- A word that changes the array's run alone. -/
theorem modRun_leaves {p : Pkg} {a : Nat} (h : (arrOf p a).active < (arrOf p a).runs.length) (f : SegRun → SegRun) :
    let q := modArr p a fun x => modRun x f
    runOf (arrOf q a) = f (runOf (arrOf p a)) ∧ (arrOf q a).data = (arrOf p a).data ∧ ∀ k, k ≠ a → arrOf q k = arrOf p k :=
  ⟨by rw [arrOf_modArr_same, runOf_modRun _ _ h], by simp, fun _ hk => arrOf_modArr_ne _ _ _ hk⟩

/-- What a SYNC that goes on to the next word leaves of the array's run (R128). -/
def syncRun (p : Pkg) (a : Nat) (arr wait : Bool) : SegRun :=
  let b := syncBar (nextWord p a)
  let r := runOf (arrOf p a)
  let r1 := if arr then arrive r b else r
  let r2 := if wait then await (stepNow p (penOfArr p a)) r1 b arr else r1
  { r2 with pc := r2.pc + 1 }

theorem syncOp_leaves {p : Pkg} {a : Nat} {arr wait : Bool} (h : (arrOf p a).active < (arrOf p a).runs.length) :
    runOf (arrOf (syncOp p a arr wait) a) = syncRun p a arr wait ∧ (arrOf (syncOp p a arr wait) a).data = (arrOf p a).data ∧
      ∀ k, k ≠ a → arrOf (syncOp p a arr wait) k = arrOf p k := by
  obtain ⟨hrun, hdata, hothers⟩ := modRun_leaves h fun r =>
    let r1 := if arr then arrive r (syncBar (nextWord p a)) else r
    if wait then await (stepNow p (penOfArr p a)) r1 (syncBar (nextWord p a)) arr else r1
  refine ⟨?_, (wordDone_data _ a).trans hdata, fun k hk => (arrOf_wordDone_ne _ hk).trans (hothers k hk)⟩
  rw [syncOp, wordDone_runOf (by simpa using h), hrun]
  rfl

/-- Waiting without an arrival (R128). -/
theorem await_of_not_arrived (t : Step) (r : SegRun) (b : Nat) (hw : r.waitFor = none) :
    await t r b false =
      { r with
        waits := tset 0 r.waits b (tget 0 r.waits b + 1)
        waitFor := if tget 0 r.waits b + 1 ≤ tget 0 t.barGen b then none else some (b, tget 0 r.waits b + 1) } := by
  simp only [await, Bool.false_eq_true, if_false, Nat.max_zero]
  split <;> simp [hw]

/-- Waiting after an arrival: for no generation before the one arrived for (R128). -/
theorem await_of_arrived (t : Step) (r : SegRun) (b : Nat) (hw : r.waitFor = none) :
    await t r b true =
      { r with
        waits := tset 0 r.waits b (max (tget 0 r.waits b + 1) (tget 0 r.arrs b))
        waitFor := if max (tget 0 r.waits b + 1) (tget 0 r.arrs b) ≤ tget 0 t.barGen b then none
          else some (b, max (tget 0 r.waits b + 1) (tget 0 r.arrs b)) } := by
  simp only [await, if_true]
  split <;> simp [hw]

theorem endOp_arrays (p : Pkg) (a : Nat) :
    (endOp p a).arrays = (modArr p a fun x => modRun x fun r => { r with ended := true }).arrays := by
  unfold endOp
  dsimp only
  split <;> simp

theorem atSync_atWord {p : Pkg} {a k : Nat} (h : atSync p a k = true) : atWord p a 8 = true := by
  simp only [atSync, Bool.and_eq_true] at h
  exact h.1

theorem atWord_waitFor {p : Pkg} {a k : Nat} (h : atWord p a k = true) : (runOf (arrOf p a)).waitFor = none := by
  simp only [atWord, Bool.and_eq_true] at h
  exact arrRuns_wait h.1

/-- Settles O25: each word by what it leaves of the array's run and of its data. -/
theorem masksScoreAndSync : Obligations.MasksScoreAndSync := by
  refine ⟨fun s a => ?_, fun s a => ?_⟩
  · refine ⟨fun hat => ?_, fun hat => ?_⟩
    · refine does_of_act ((exec_maskset a s).trans rfl) hat ⟨masksetOp_goesOn (atWord_lt hat), ?_, fun hmode => ?_, fun hmode => ?_⟩
      · simp only [masksetOp, wordDone_data, modData_data]
        split <;> rfl
      · simp only [masksetOp, wordDone_data, modData_data, hmode]
        exact fun i hi => ⟨bitOf_rangeMask hi, bitOf_rangeMask hi⟩
      · simp only [masksetOp, wordDone_data, modData_data, hmode]
        exact ⟨congrArg leNat (take_tgetList 0 _ _ 16 16), congrArg leNat (drop_tgetList 0 _ _ 16 16)⟩
    · obtain ⟨hrun, hdata, hothers⟩ := modRun_leaves (atWord_lt hat) fun r => { r with armed := true }
      have hdone := wordDone_runOf (p := modArr s.pkg a fun x => modRun x fun r => { r with armed := true }) (a := a)
        (by simpa using atWord_lt hat)
      refine does_of_act ((exec_score a s).trans rfl) hat
        ⟨⟨?_, fun b hb => (arrOf_wordDone_ne _ hb).trans (hothers b hb)⟩, ?_, (wordDone_data _ a).trans hdata⟩
      · rw [scoreOp, hdone, hrun]
      · rw [scoreOp, hdone, hrun]
  · extract_lets b r arrs waits stops gen both leaves
    have hlt {k : Nat} (hat : atSync s.pkg a k = true) := atWord_lt (atSync_atWord hat)
    have hw {k : Nat} (hat : atSync s.pkg a k = true) : r.waitFor = none := atWord_waitFor (atSync_atWord hat)
    refine ⟨fun hat => ?_, fun hat => ?_, fun hat => ?_, fun hat => ?_, fun hat => ?_, fun hat => ?_⟩
    · exact does_of_act ((exec_syncDrain a s).trans rfl) hat (syncOp_leaves (hlt hat))
    · obtain ⟨hrun, hrest⟩ := syncOp_leaves (arr := true) (wait := true) (hlt hat)
      refine does_of_act ((exec_syncBarrier a s).trans rfl) hat ⟨hrun.trans ?_, hrest⟩
      simp only [syncRun, if_true]
      rw [await_of_arrived _ (arrive r b) b (hw hat)]
      simp [arrive, arrs, gen, both, b, r]
    · exact does_of_act ((exec_syncArrive a s).trans rfl) hat (syncOp_leaves (hlt hat))
    · obtain ⟨hrun, hrest⟩ := syncOp_leaves (arr := false) (wait := true) (hlt hat)
      refine does_of_act ((exec_syncWait a s).trans rfl) hat ⟨hrun.trans ?_, hrest⟩
      simp [syncRun, await_of_not_arrived _ r b (hw hat), waits, stops, b, r]
    · exact does_of_act ((exec_syncLayerEnd a s).trans rfl) hat (modRun_leaves (hlt hat) _)
    · refine does_of_act ((exec_syncEnd a s).trans rfl) hat ?_
      simp only [leaves, arrOf_congr (endOp_arrays s.pkg a)]
      exact modRun_leaves (hlt hat) _

end Sys2Proof.Machine
end

section
/-! PROOFS. The words that compute (R118 to R122, R131, R136 to R144): what the operands' delivery leaves, what a fold over rows and columns writes,
and the elements and the row state that MMA, ROWFN and FUSE2 leave. -/

namespace Sys2Proof.Machine

/-! #### What the delivery of an operand leaves -/

theorem modRun_pc {x : Arr} {f : SegRun → SegRun} (hf : ∀ r, (f r).pc = r.pc) : (runOf (modRun x f)).pc = (runOf x).pc := by
  by_cases h : x.active < x.runs.length
  · rw [runOf_modRun _ _ h, hf]
  · have hx : x.runs.length ≤ x.active := Nat.le_of_not_lt h
    have hout : (x.runs.zip (upto x.runs.length))[x.active]? = none := List.getElem?_eq_none (by simpa [upto] using hx)
    simp [runOf, List.getD, List.getElem?_eq_none hx, modRun, hout]

/-- The planes, the row state and the masks are as they were. -/
structure SameRegs (d e : ArrData) : Prop where
  plane0 : e.plane0 = d.plane0
  plane1 : e.plane1 = d.plane1
  rowM : e.rowM = d.rowM
  rowL : e.rowL = d.rowL
  rowMask : e.rowMask = d.rowMask
  colMask : e.colMask = d.colMask

theorem SameRegs.refl (d : ArrData) : SameRegs d d := ⟨rfl, rfl, rfl, rfl, rfl, rfl⟩

theorem SameRegs.trans {d e g : ArrData} (h : SameRegs d e) (h' : SameRegs e g) : SameRegs d g :=
  ⟨h'.plane0.trans h.plane0, h'.plane1.trans h.plane1, h'.rowM.trans h.rowM, h'.rowL.trans h.rowL, h'.rowMask.trans h.rowMask,
    h'.colMask.trans h.colMask⟩

theorem SameRegs.planeOf {d e : ArrData} (h : SameRegs d e) (pl : Bool) : planeOf e pl = planeOf d pl := by
  cases pl
  · exact h.plane0
  · exact h.plane1

theorem sramPut_regs (d : ArrData) (off : Nat) (b : Bytes) (base : Nat → Int) : SameRegs d (sramPut d off b base) :=
  ⟨rfl, rfl, rfl, rfl, rfl, rfl⟩

theorem intoRing_regs (i : Image) (x : Arr) (c pos : Nat) (us : List (Bytes × Int)) : SameRegs x.data (intoRing i x c pos us).data := by
  unfold intoRing
  dsimp only
  split
  · exact .refl _
  · exact foldl_inv _ (P := SameRegs x.data) (.refl _) fun d _ h => h.trans (sramPut_regs d _ _ _)

theorem intoRing_runs (i : Image) (x : Arr) (c pos : Nat) (us : List (Bytes × Int)) :
    (intoRing i x c pos us).active = x.active ∧ (intoRing i x c pos us).runs.length = x.runs.length ∧
      (runOf (intoRing i x c pos us)).pc = (runOf x).pc := by
  have hpc (d : ArrData) (g : SegRun → SegRun) (hg : ∀ r, (g r).pc = r.pc) : (runOf { modRun x g with data := d }).pc = (runOf x).pc :=
    modRun_pc (x := x) hg
  unfold intoRing
  dsimp only
  split
  · exact ⟨rfl, modRun_length _ _, modRun_pc fun _ => rfl⟩
  · exact ⟨rfl, by simp only [modRun_length], hpc _ _ fun _ => by rfl⟩

/-- What the delivery of operands to an array leaves as it is. -/
structure Delivered (p q : Pkg) (a : Nat) : Prop extends SameRuns p q a where
  regs : SameRegs (arrOf p a).data (arrOf q a).data
  freeCtr : q.freeCtr = p.freeCtr

section Delivered
variable {p q r : Pkg} {a : Nat}

theorem Delivered.refl (p : Pkg) (a : Nat) : Delivered p p a := ⟨.of_arrays rfl, .refl _, rfl⟩

theorem Delivered.of_arrays (h : q.arrays = p.arrays) (hf : q.freeCtr = p.freeCtr) : Delivered p q a :=
  ⟨.of_arrays h, by rw [arrOf_congr h]; exact .refl _, hf⟩

theorem SameRuns.trans (h : SameRuns p q a) (h' : SameRuns q r a) : SameRuns p r a :=
  ⟨h'.active.trans h.active, h'.length.trans h.length, h'.pc.trans h.pc, fun b hb => (h'.others b hb).trans (h.others b hb)⟩

theorem SameRuns.modArr (p : Pkg) {f : Arr → Arr} (hactive : ∀ x, (f x).active = x.active)
    (hlength : ∀ x, (f x).runs.length = x.runs.length) (hpc : ∀ x, (runOf (f x)).pc = (runOf x).pc) : SameRuns p (modArr p a f) a := by
  refine ⟨?_, ?_, ?_, fun b hb => arrOf_modArr_ne p a f hb⟩ <;> rw [arrOf_modArr_same]
  · exact hactive _
  · exact hlength _
  · exact hpc _

theorem Delivered.modArr (p : Pkg) {f : Arr → Arr} (hactive : ∀ x, (f x).active = x.active)
    (hlength : ∀ x, (f x).runs.length = x.runs.length) (hpc : ∀ x, (runOf (f x)).pc = (runOf x).pc)
    (hregs : ∀ x, SameRegs x.data (f x).data) : Delivered p (modArr p a f) a :=
  ⟨.modArr p hactive hlength hpc, by rw [arrOf_modArr_same]; exact hregs _, rfl⟩

theorem Delivered.trans (h : Delivered p q a) (h' : Delivered q r a) : Delivered p r a :=
  ⟨h.toSameRuns.trans h'.toSameRuns, h.regs.trans h'.regs, h'.freeCtr.trans h.freeCtr⟩

theorem takeUnits_delivered {c n : Nat} {us : List (Bytes × Int)} (h : takeUnits p a c n = some (us, q)) : Delivered p q a := by
  unfold takeUnits at h
  dsimp only at h
  split at h
  · split at h
    · cases h
      refine .trans (.of_arrays ?_ ?_) (Delivered.modArr _ (fun x => (intoRing_runs _ x _ _ _).1) (fun x => (intoRing_runs _ x _ _ _).2.1)
        (fun x => (intoRing_runs _ x _ _ _).2.2) fun x => intoRing_regs _ x _ _ _)
      · simp
      · simp
    · cases h
  · cases h

theorem opdFrom_delivered {d : ArrData} {rows cols : Nat} {o : OpdSpec} {x : Opd} (h : opdFrom p a d rows cols o = some (x, q)) :
    Delivered p q a := by
  unfold opdFrom at h
  split at h
  · cases h
    exact .refl p a
  · split at h
    · cases h
      exact takeUnits_delivered ‹_›
    · cases h

theorem takeGather_delivered (p : Pkg) (a c : Nat) (values : Bool) (g : Gathered) : Delivered p (takeGather p a c values g) a := by
  refine Delivered.modArr p (fun x => ?_) (fun x => ?_) (fun x => ?_) fun x => intoRing_regs _ x _ _ _
  · exact (intoRing_runs _ x _ _ _).1
  · rw [modRun_length]
    exact (intoRing_runs _ x _ _ _).2.1
  · exact (modRun_pc fun _ => by rfl).trans (intoRing_runs _ x _ _ _).2.2

theorem fuseFrom_delivered {d : ArrData} {rows cols : Nat} {values : Bool} {o : OpdSpec} {x : Nat → Opd} {g : Option Gathered}
    (h : fuseFrom p a d rows cols values o = some (x, g, q)) : Delivered p q a := by
  unfold fuseFrom at h
  dsimp only at h
  split at h <;> split at h
  · cases h
    exact takeGather_delivered p a _ _ _
  · split at h
    · cases h
      exact opdFrom_delivered ‹_›
    · cases h
  · cases h
    exact takeGather_delivered p a _ _ _
  · split at h
    · cases h
      exact opdFrom_delivered ‹_›
    · cases h

end Delivered

/-! #### Planes -/

@[simp] theorem accPut_tscale (x : Plane) (i j : Nat) (w : Word32) : (accPut x i j w).tscale = x.tscale := rfl

/-- An element after a write to one: the columns of a plane are 0 to 127 (R107). -/
theorem accGet_accPut (x : Plane) {i j k l : Nat} (w : Word32) (hj : j < 128) (hl : l < 128) :
    accGet (accPut x i j w) k l = if k = i ∧ l = j then w else accGet x k l := by
  have hkey : 128 * k + l = 128 * i + j ↔ k = i ∧ l = j := by omega
  by_cases h : k = i ∧ l = j
  · obtain ⟨rfl, rfl⟩ := h
    simp [accGet, accPut]
  · have hread : tget none (tset none x.acc (128 * i + j) (some w)) (128 * k + l) = tget none x.acc (128 * k + l) :=
      tget_tset_ne _ _ _ (mt hkey.mp h)
    rw [if_neg h]
    simp only [accGet, accPut, hread]
    rfl

theorem mem_rowsIn {d : ArrData} {m i : Nat} : i ∈ rowsIn d m ↔ i < m ∧ bitOf d.rowMask i = true := by simp [rowsIn, upto]
theorem mem_colsIn {d : ArrData} {n j : Nat} : j ∈ colsIn d n ↔ j < n ∧ bitOf d.colMask j = true := by simp [colsIn, upto]
theorem rowsIn_nodup (d : ArrData) (m : Nat) : (rowsIn d m).Nodup := List.nodup_range.filter _
theorem colsIn_nodup (d : ArrData) (n : Nat) : (colsIn d n).Nodup := List.nodup_range.filter _

section Fold
variable {σ ι ν : Type} {read : σ → ι → ν} {f : σ → ι → σ} {P : ι → Prop} {l : List ι} {k : ι}

/-- A fold whose steps each change their own part alone leaves every other part. -/
theorem read_foldl_of_not_mem (other : ∀ s i, P i → i ≠ k → read (f s i) k = read s k) (hl : ∀ i ∈ l, P i) (hk : k ∉ l) (s : σ) :
    read (l.foldl f s) k = read s k := by
  induction l generalizing s with
  | nil => rfl
  | cons i l ih =>
    simp only [List.mem_cons, not_or] at hk
    rw [List.foldl_cons, ih (fun j hj => hl j (.tail _ hj)) hk.2, other s i (hl i (.head _)) (Ne.symm hk.1)]

/-- A part of the list is read as the one step on it left it, from a state that holds what stood there before the fold. -/
theorem read_foldl_of_mem (other : ∀ s i, P i → i ≠ k → read (f s i) k = read s k) (hl : ∀ i ∈ l, P i) (hn : l.Nodup) (hk : k ∈ l)
    (s : σ) : ∃ s', read s' k = read s k ∧ read (l.foldl f s) k = read (f s' k) k := by
  induction l generalizing s with
  | nil => cases hk
  | cons i l ih =>
    have htail : ∀ j ∈ l, P j := fun j hj => hl j (.tail _ hj)
    obtain ⟨hi, hn⟩ := List.nodup_cons.mp hn
    rw [List.foldl_cons]
    by_cases hki : k = i
    · subst hki
      exact ⟨s, rfl, read_foldl_of_not_mem other htail hi _⟩
    · obtain ⟨s', hs', hf⟩ := ih htail hn ((List.mem_cons.mp hk).resolve_left hki) (f s i)
      exact ⟨s', hs'.trans (other s i (hl i (.head _)) (Ne.symm hki)), hf⟩

end Fold

/-- One row's columns are written, each from the element that it held. -/
theorem accGet_foldl_cols {cols : List Nat} (hn : cols.Nodup) (hc : ∀ j ∈ cols, j < 128) (g : Nat → Word32 → Word32) (x : Plane)
    (i k : Nat) {l : Nat} (hl : l < 128) :
    accGet (cols.foldl (fun z j => accPut z i j (g j (accGet z i j))) x) k l =
      if k = i ∧ l ∈ cols then g l (accGet x i l) else accGet x k l := by
  have other (r : Nat) (z : Plane) (j : Nat) (hj : j < 128) (h : j ≠ l) :
      accGet (accPut z i j (g j (accGet z i j))) r l = accGet z r l := by
    rw [accGet_accPut _ _ hj hl, if_neg (by tauto)]
  by_cases hk : k = i
  · subst hk
    by_cases hmem : l ∈ cols
    · obtain ⟨z, hz, hf⟩ := read_foldl_of_mem (read := fun z j => accGet z k j) (other k) hc hn hmem x
      rw [if_pos ⟨rfl, hmem⟩, hf, accGet_accPut _ _ hl hl, if_pos ⟨rfl, rfl⟩, hz]
    · rw [if_neg (by tauto)]
      exact read_foldl_of_not_mem (read := fun z j => accGet z k j) (other k) hc hmem x
  · rw [if_neg (by tauto)]
    refine List.foldlRecOn (motive := fun z => accGet z k l = accGet x k l) cols _ rfl fun z h j hj => ?_
    rw [accGet_accPut _ _ (hc j hj) hl, if_neg (by tauto), h]

/-- The elements of a block of rows and columns are written, and every other one is as it was. -/
theorem accGet_planeMap {d : ArrData} {m n : Nat} (hn : n ≤ 128) (f : Nat → Nat → Word32) (x : Plane) (i : Nat) {j : Nat} (hj : j < 128) :
    accGet (planeMap x (rowsIn d m) (colsIn d n) f) i j = if i ∈ rowsIn d m ∧ j ∈ colsIn d n then f i j else accGet x i j := by
  have hcols : ∀ c ∈ colsIn d n, c < 128 := fun c hc => (mem_colsIn.mp hc).1.trans_le hn
  have hrow (z : Plane) (r k : Nat) :=
    accGet_foldl_cols (colsIn_nodup d n) hcols (fun c _ => f r c) z r k hj
  have other (z : Plane) (r : Nat) (_ : True) (hr : r ≠ i) :
      accGet ((colsIn d n).foldl (fun z c => accPut z r c (f r c)) z) i j = accGet z i j := by
    rw [hrow z r i, if_neg (by tauto)]
  by_cases hi : i ∈ rowsIn d m
  · obtain ⟨z, hz, hf⟩ := read_foldl_of_mem (read := fun z i => accGet z i j) other (fun _ _ => trivial) (rowsIn_nodup d m) hi x
    rw [planeMap, hf, hrow z i i, hz]
    simp [hi]
  · rw [planeMap, read_foldl_of_not_mem (read := fun z i => accGet z i j) other (fun _ _ => trivial) hi x, if_neg (by tauto)]

theorem planeMap_tscale (x : Plane) (rows cols : List Nat) (f : Nat → Nat → Word32) : (planeMap x rows cols f).tscale = x.tscale :=
  foldl_inv rows (P := fun z : Plane => z.tscale = x.tscale) rfl fun _ _ h =>
    foldl_inv cols (P := fun z : Plane => z.tscale = x.tscale) h fun _ _ h => h

@[simp] theorem planeOf_setPlane_same (d : ArrData) (pl : Bool) (x : Plane) : planeOf (setPlane d pl x) pl = x := by cases pl <;> rfl
@[simp] theorem planeOf_setPlane_other (d : ArrData) (pl : Bool) (x : Plane) : planeOf (setPlane d pl x) (!pl) = planeOf d (!pl) := by
  cases pl <;> rfl
@[simp] theorem setPlane_rowM (d : ArrData) (pl : Bool) (x : Plane) : (setPlane d pl x).rowM = d.rowM := by cases pl <;> rfl
@[simp] theorem setPlane_rowL (d : ArrData) (pl : Bool) (x : Plane) : (setPlane d pl x).rowL = d.rowL := by cases pl <;> rfl

/-! #### MMA -/

/-- What masks keep of a plane (R131). -/
def PlaneKept (d : ArrData) (x y : Plane) : Prop :=
  ∀ i j, j < 128 → (bitOf d.rowMask i = false ∨ bitOf d.colMask j = false) → accGet y i j = accGet x i j

theorem maskedKept_of {d e : ArrData} {pl : Bool} (hp : PlaneKept d (planeOf d pl) (planeOf e pl))
    (hm : ∀ i, bitOf d.rowMask i = false → tget fNegInf e.rowM i = tget fNegInf d.rowM i ∧ tget 0 e.rowL i = tget 0 d.rowL i) :
    maskedKept d e pl := ⟨fun i j _ hj => hp i j hj, fun i _ => hm i⟩

theorem planeKept_planeMap {d : ArrData} {m n : Nat} (hn : n ≤ 128) (f : Nat → Nat → Word32) (x : Plane) :
    PlaneKept d x (planeMap x (rowsIn d m) (colsIn d n) f) := by
  intro i j hj hmask
  rw [accGet_planeMap hn f x i hj, if_neg]
  rw [mem_rowsIn, mem_colsIn]
  rcases hmask with h | h <;> simp [h]

/-- The plane that MMA writes, with its pending tensor scale. -/
def mmaOut (p : Pkg) (a : Nat) (oa ob : Opd) : Plane :=
  let w := nextWord p a
  let d := (arrOf p a).data
  let y := mmaPlane d (planeOf d (wbit w 0 5)) oa ob (wbit w 0 4) (wM w) (wN w) (wbits w 4 20 0)
  if wbit w 0 4 then y
  else { y with tscale := if (mmaB w).sch = 2 then (recOf (imageOf p (penOfArr p a)) (stepNow p (penOfArr p a)) (wLayer w)).wts else fOne }

section Mma
variable {p p1 p2 : Pkg} {a : Nat} {oa ob : Opd}

theorem mmaOp_eq (ha : opdFrom p a (arrOf p a).data (wM (nextWord p a)) (wbits (nextWord p a) 4 20 0) (mmaA (nextWord p a)) = some (oa, p1))
    (hb : opdFrom p1 a (arrOf p a).data (wN (nextWord p a)) (wbits (nextWord p a) 4 20 0) (mmaB (nextWord p a)) = some (ob, p2)) :
    mmaOp p a = some (wordDone (modData p2 a fun v => setPlane v (wbit (nextWord p a) 0 5) (mmaOut p a oa ob)) a) := by
  simp only [mmaOp, ha, hb, mmaOut]

theorem accGet_mmaOut (hn : wN (nextWord p a) ≤ 128) (i : Nat) {j : Nat} (hj : j < 128) :
    accGet (mmaOut p a oa ob) i j =
      if i ∈ rowsIn (arrOf p a).data (wM (nextWord p a)) ∧ j ∈ colsIn (arrOf p a).data (wN (nextWord p a)) then
        dot oa ob i j (wbits (nextWord p a) 4 20 0)
          (if wbit (nextWord p a) 0 4 then accGet (planeOf (arrOf p a).data (wbit (nextWord p a) 0 5)) i j else 0#32)
      else accGet (planeOf (arrOf p a).data (wbit (nextWord p a) 0 5)) i j := by
  have hscale (x : Plane) (c : Prop) [Decidable c] (ts : Word32) : accGet (if c then x else { x with tscale := ts }) i j = accGet x i j := by
    split <;> rfl
  rw [mmaOut, hscale]
  exact accGet_planeMap hn _ _ i hj

theorem mma_computes (hn : wN (nextWord p a) ≤ 128) (hk : Delivered p p2 a) (hlt : (arrOf p a).active < (arrOf p a).runs.length) :
    let q := wordDone (modData p2 a fun v => setPlane v (wbit (nextWord p a) 0 5) (mmaOut p a oa ob)) a
    goesOn p q a ∧ (∀ pl, maskedKept (arrOf p a).data (arrOf q a).data pl) ∧ mmaResult p q a oa ob := by
  intro q
  have hdata : (arrOf q a).data = setPlane (arrOf p2 a).data (wbit (nextWord p a) 0 5) (mmaOut p a oa ob) := by simp [q]
  have hother : planeOf (arrOf q a).data (!wbit (nextWord p a) 0 5) = planeOf (arrOf p a).data (!wbit (nextWord p a) 0 5) := by
    rw [hdata, planeOf_setPlane_other, hk.regs.planeOf]
  refine ⟨(hk.toSameRuns.modData _).goesOn hlt, fun pl => maskedKept_of ?_ ?_, ?_, ?_, hother, ?_⟩
  · intro i j hj hmask
    by_cases hpl : pl = wbit (nextWord p a) 0 5
    · subst hpl
      rw [hdata, planeOf_setPlane_same, accGet_mmaOut hn i hj, if_neg]
      rw [mem_rowsIn, mem_colsIn]
      rcases hmask with h | h <;> simp [h]
    · rw [Bool.eq_not.mpr hpl, hother]
  · intro i _
    rw [hdata, setPlane_rowM, setPlane_rowL, hk.regs.rowM, hk.regs.rowL]
    exact ⟨rfl, rfl⟩
  · rintro i j ⟨hi, hj, hrow, hcol⟩
    rw [hdata, planeOf_setPlane_same, accGet_mmaOut hn i (by omega), if_pos ⟨mem_rowsIn.mpr ⟨hi, hrow⟩, mem_colsIn.mpr ⟨hj, hcol⟩⟩]
  · intro i j hj hout
    rw [hdata, planeOf_setPlane_same, accGet_mmaOut hn i hj, if_neg]
    rw [mem_rowsIn, mem_colsIn]
    omega
  · rw [hdata, planeOf_setPlane_same, mmaOut]
    split
    · exact planeMap_tscale _ _ _ _
    · rfl

end Mma

/-! #### ROWFN -/

/-- The element that ROWFN gives column j of row i (R122, R136 to R140). -/
def rowFnEl (fn n i qpos : Nat) (causal : Bool) (diag : Int) (v : Nat → Word32) (cols : List Nat) (j : Nat) : Word32 :=
  if fn = 1 then (if causalOut causal diag qpos i j then fNegInf else v j)
  else if fn = 2 then
    match (softmaxRow ((cols.filter fun j => !causalOut causal diag qpos i j).map fun j => (j, v j))).1.find? fun e => decide (e.1 = j) with
    | some e => e.2
    | none => 0#32
  else if fn = 3 then fmul (silu (v j)) (v (j + n / 2))
  else if fn = 4 then gelu (v j)
  else v j

theorem rowFn_fst (fn n i qpos : Nat) (causal : Bool) (diag : Int) (v : Nat → Word32) (cols : List Nat) :
    (rowFn fn n i qpos causal diag v cols).1 = cols.map fun j => (j, rowFnEl fn n i qpos causal diag v cols j) := by
  unfold rowFn rowFnEl
  split
  · rfl
  · rfl
  · rfl
  · rfl
  · next h1 h2 h3 h4 => simp only [if_neg h1, if_neg h2, if_neg h3, if_neg h4]

theorem rowFn_snd (fn n i qpos : Nat) (causal : Bool) (diag : Int) (v : Nat → Word32) (cols : List Nat) :
    (rowFn fn n i qpos causal diag v cols).2 =
      if fn = 2 then some (softmaxRow ((cols.filter fun j => !causalOut causal diag qpos i j).map fun j => (j, v j))).2 else none := by
  unfold rowFn
  split <;> simp_all

section Rowfn
variable (w : Nat) (d : ArrData)

/-- The first column that ROWFN writes. -/
def rowfnCol0 : Nat := if wbits w 0 26 24 = 3 then wbits w 4 6 0 else 0

/-- The columns that ROWFN works on. -/
def rowfnCols : List Nat :=
  if wbits w 0 26 24 = 3 then (upto (wN w / 2)).filter fun j => bitOf d.colMask (rowfnCol0 w + j) else colsIn d (wN w)

/-- An element as ROWFN reads it. -/
def rowfnIn (i j : Nat) : Word32 :=
  fmul (fmul (accGet (planeOf d (wbit w 0 4)) i j) (planeOf d (wbit w 0 4)).tscale) (BitVec.ofNat 32 (wbits w 8 31 0))

/-- An element as ROWFN writes it. -/
def rowfnEl (i j : Nat) : Word32 :=
  rowFnEl (wbits w 0 26 24) (wN w) i (wbits w 4 15 8) (wbit w 0 27) (signed32 (wbits w 12 31 0)) (rowfnIn w d i) (rowfnCols w d) j

/-- The softmax of a row. -/
def rowfnSoftmax (i : Nat) : List (Nat × Word32) × Word32 × Word32 :=
  softmaxRow (((rowfnCols w d).filter fun j => !causalOut (wbit w 0 27) (signed32 (wbits w 12 31 0)) (wbits w 4 15 8) i j).map fun j =>
    (j, rowfnIn w d i j))

/-- ROWFN on one row. -/
def rowfnRow (e : ArrData) (i : Nat) : ArrData :=
  let r := rowFn (wbits w 0 26 24) (wN w) i (wbits w 4 15 8) (wbit w 0 27) (signed32 (wbits w 12 31 0)) (rowfnIn w d i) (rowfnCols w d)
  let y := r.1.foldl (fun z c => accPut z i (rowfnCol0 w + c.1) c.2) (planeOf e (wbit w 0 5))
  let e1 := setPlane e (wbit w 0 5) y
  match r.2 with
  | some (m, l) => { e1 with rowM := tset fNegInf e1.rowM i m, rowL := tset 0 e1.rowL i l }
  | none => e1

/-- The data that ROWFN leaves. -/
def rowfnData : ArrData :=
  (rowsIn d (wM w)).foldl (rowfnRow w d) (setPlane d (wbit w 0 4) { planeOf d (wbit w 0 4) with tscale := fOne })

theorem rowfnOp_eq (p : Pkg) (a : Nat) :
    rowfnOp p a = wordDone (modData p a fun _ => rowfnData (nextWord p a) (arrOf p a).data) a := rfl

variable {w d} {e : ArrData} {i k l : Nat}

/-- The columns that ROWFN writes are columns of the plane, and none of them is masked. -/
theorem rowfnCols_range (hn : wN w ≤ 128) (h3 : wbits w 0 26 24 = 3 → wbits w 4 6 0 + wN w / 2 ≤ 128) {c : Nat}
    (hc : c ∈ (rowfnCols w d).map (rowfnCol0 w + ·)) : c < 128 ∧ bitOf d.colMask c = true := by
  obtain ⟨j, hj, rfl⟩ := List.mem_map.mp hc
  unfold rowfnCols at hj
  split at hj
  · next hfn =>
    have hcol0 : rowfnCol0 w = wbits w 4 6 0 := if_pos hfn
    simp only [upto, List.mem_filter, List.mem_range] at hj
    have := h3 hfn
    exact ⟨by omega, hj.2⟩
  · next hfn =>
    rw [rowfnCol0, if_neg hfn, Nat.zero_add]
    exact ⟨(mem_colsIn.mp hj).1.trans_le hn, (mem_colsIn.mp hj).2⟩

theorem rowfnCols_nodup (w : Nat) (d : ArrData) : ((rowfnCols w d).map (rowfnCol0 w + ·)).Nodup := by
  refine List.Nodup.map (fun _ _ h => Nat.add_left_cancel h) ?_
  unfold rowfnCols
  split
  · exact List.nodup_range.filter _
  · exact colsIn_nodup d _

theorem planeOf_rowfnRow (w : Nat) (d e : ArrData) (i : Nat) : planeOf (rowfnRow w d e i) (wbit w 0 5) =
    ((rowfnCols w d).map (rowfnCol0 w + ·)).foldl (fun z c => accPut z i c (rowfnEl w d i (c - rowfnCol0 w))) (planeOf e (wbit w 0 5)) := by
  have hplane (e1 : ArrData) (m l : Tab Word32) : planeOf { e1 with rowM := m, rowL := l } (wbit w 0 5) = planeOf e1 (wbit w 0 5) := rfl
  unfold rowfnRow
  dsimp only
  split <;> simp [hplane, rowFn_fst, List.foldl_map, rowfnEl]

theorem planeOf_rowfnRow_other (w : Nat) (d e : ArrData) (i : Nat) :
    planeOf (rowfnRow w d e i) (!wbit w 0 5) = planeOf e (!wbit w 0 5) := by
  have hplane (e1 : ArrData) (m l : Tab Word32) : planeOf { e1 with rowM := m, rowL := l } (!wbit w 0 5) = planeOf e1 (!wbit w 0 5) := rfl
  unfold rowfnRow
  dsimp only
  split <;> simp [hplane]

theorem rowState_rowfnRow (w : Nat) (d e : ArrData) (i k : Nat) :
    (tget fNegInf (rowfnRow w d e i).rowM k, tget 0 (rowfnRow w d e i).rowL k) =
      if k = i ∧ wbits w 0 26 24 = 2 then (rowfnSoftmax w d i).2 else (tget fNegInf e.rowM k, tget 0 e.rowL k) := by
  unfold rowfnRow
  dsimp only
  rw [rowFn_snd]
  by_cases hfn : wbits w 0 26 24 = 2
  · simp only [hfn, if_true, and_true, tget_tset, setPlane_rowM, setPlane_rowL]
    split <;> simp [rowfnSoftmax]
  · simp [hfn]

theorem accGet_rowfnRow (hn : wN w ≤ 128) (h3 : wbits w 0 26 24 = 3 → wbits w 4 6 0 + wN w / 2 ≤ 128) (e : ArrData) (i k : Nat) (hl : l < 128) :
    accGet (planeOf (rowfnRow w d e i) (wbit w 0 5)) k l =
      if k = i ∧ l ∈ (rowfnCols w d).map (rowfnCol0 w + ·) then rowfnEl w d i (l - rowfnCol0 w)
      else accGet (planeOf e (wbit w 0 5)) k l := by
  rw [planeOf_rowfnRow]
  exact accGet_foldl_cols (rowfnCols_nodup w d) (fun c hc => (rowfnCols_range hn h3 hc).1) (fun c _ => rowfnEl w d i (c - rowfnCol0 w)) _ i k hl

/-- A plane whose pending scale is taken keeps its elements. -/
theorem accGet_takeScale (d : ArrData) (pl pl' : Bool) (i j : Nat) :
    accGet (planeOf (setPlane d pl { planeOf d pl with tscale := fOne }) pl') i j = accGet (planeOf d pl') i j := by
  cases pl <;> cases pl' <;> rfl

/-- The elements that ROWFN leaves. -/
theorem accGet_rowfnData (hn : wN w ≤ 128) (h3 : wbits w 0 26 24 = 3 → wbits w 4 6 0 + wN w / 2 ≤ 128) (i : Nat) (hl : l < 128) :
    accGet (planeOf (rowfnData w d) (wbit w 0 5)) i l =
      if i ∈ rowsIn d (wM w) ∧ l ∈ (rowfnCols w d).map (rowfnCol0 w + ·) then rowfnEl w d i (l - rowfnCol0 w)
      else accGet (planeOf d (wbit w 0 5)) i l := by
  have other (e : ArrData) (r : Nat) (_ : True) (hr : r ≠ i) :
      accGet (planeOf (rowfnRow w d e r) (wbit w 0 5)) i l = accGet (planeOf e (wbit w 0 5)) i l := by
    rw [accGet_rowfnRow hn h3 e r i hl, if_neg (by tauto)]
  by_cases hi : i ∈ rowsIn d (wM w)
  · obtain ⟨e, he, hf⟩ := read_foldl_of_mem (read := fun e i => accGet (planeOf e (wbit w 0 5)) i l) other (fun _ _ => trivial)
      (rowsIn_nodup d _) hi (setPlane d (wbit w 0 4) { planeOf d (wbit w 0 4) with tscale := fOne })
    rw [rowfnData, hf, accGet_rowfnRow hn h3 e i i hl, he, accGet_takeScale]
    simp [hi]
  · rw [rowfnData, read_foldl_of_not_mem (read := fun e i => accGet (planeOf e (wbit w 0 5)) i l) other (fun _ _ => trivial) hi,
      accGet_takeScale, if_neg (by tauto)]

theorem accGet_rowfnData_other (w : Nat) (d : ArrData) (i j : Nat) :
    accGet (planeOf (rowfnData w d) (!wbit w 0 5)) i j = accGet (planeOf d (!wbit w 0 5)) i j := by
  rw [← accGet_takeScale d (wbit w 0 4)]
  exact congrArg (accGet · i j) (foldl_inv _ (P := fun e => planeOf e (!wbit w 0 5) = _) rfl fun e r h =>
    (planeOf_rowfnRow_other w d e r).trans h)

/-- The row state that ROWFN leaves. -/
theorem rowState_rowfnData (w : Nat) (d : ArrData) (i : Nat) :
    (tget fNegInf (rowfnData w d).rowM i, tget 0 (rowfnData w d).rowL i) =
      if i ∈ rowsIn d (wM w) ∧ wbits w 0 26 24 = 2 then (rowfnSoftmax w d i).2 else (tget fNegInf d.rowM i, tget 0 d.rowL i) := by
  have other (e : ArrData) (r : Nat) (_ : True) (hr : r ≠ i) :
      (tget fNegInf (rowfnRow w d e r).rowM i, tget 0 (rowfnRow w d e r).rowL i) = (tget fNegInf e.rowM i, tget 0 e.rowL i) := by
    rw [rowState_rowfnRow, if_neg (by tauto)]
  have hstart : (tget fNegInf (setPlane d (wbit w 0 4) { planeOf d (wbit w 0 4) with tscale := fOne }).rowM i,
      tget 0 (setPlane d (wbit w 0 4) { planeOf d (wbit w 0 4) with tscale := fOne }).rowL i) = (tget fNegInf d.rowM i, tget 0 d.rowL i) := by
    rw [setPlane_rowM, setPlane_rowL]
  by_cases hi : i ∈ rowsIn d (wM w)
  · obtain ⟨e, he, hf⟩ := read_foldl_of_mem (read := fun (e : ArrData) i => (tget fNegInf e.rowM i, tget 0 e.rowL i)) other
      (fun _ _ => trivial) (rowsIn_nodup d _) hi (setPlane d (wbit w 0 4) { planeOf d (wbit w 0 4) with tscale := fOne })
    rw [rowfnData, hf, rowState_rowfnRow, he, hstart]
    simp [hi]
  · rw [rowfnData, read_foldl_of_not_mem (read := fun (e : ArrData) i => (tget fNegInf e.rowM i, tget 0 e.rowL i)) other
      (fun _ _ => trivial) hi, hstart, if_neg (by tauto)]

end Rowfn

/-! #### The softmax of a row (R140) -/

section Softmax
variable (xs : List Nat) (v : Nat → Word32)

theorem softmaxRow_max : (softmaxRow (xs.map fun j => (j, v j))).2.1 =
    xs.foldl (fun m j => if isNan (v j) then m else fmax m (v j)) fNegInf := by
  simp only [softmaxRow, List.foldl_map]

theorem softmaxRow_sum {m : Word32} (hm : (softmaxRow (xs.map fun j => (j, v j))).2.1 = m) :
    (softmaxRow (xs.map fun j => (j, v j))).2.2 =
      xs.foldl (fun l j => fadd l (if m = fNegInf then 0#32 else exp32 (fsub (v j) m))) 0#32 := by
  subst hm
  simp only [softmaxRow, List.foldl_map]

theorem softmaxRow_fst {m l : Word32} (h : (softmaxRow (xs.map fun j => (j, v j))).2 = (m, l)) :
    (softmaxRow (xs.map fun j => (j, v j))).1 =
      xs.map fun j => (j, if l = 0#32 then 0#32 else fdiv (if m = fNegInf then 0#32 else exp32 (fsub (v j) m)) l) := by
  obtain ⟨rfl, rfl⟩ := Prod.mk.inj h
  simp only [softmaxRow, List.map_map]
  rfl

theorem find?_graph (g : Nat → Word32) (j : Nat) :
    (xs.map fun k => (k, g k)).find? (fun e => decide (e.1 = j)) = if j ∈ xs then some (j, g j) else none := by
  induction xs with
  | nil => rfl
  | cons x xs ih =>
    rw [List.map_cons, List.find?_cons]
    by_cases hx : x = j
    · simp [hx]
    · simp [hx, ih, Ne.symm hx]

end Softmax

section Rowfn
variable {p : Pkg} {a w : Nat} {d : ArrData}

theorem rowfnCol0_of_ne (h : wbits w 0 26 24 ≠ 3) : rowfnCol0 w = 0 := if_neg h
theorem rowfnCols_of_ne (h : wbits w 0 26 24 ≠ 3) : rowfnCols w d = colsIn d (wN w) := if_neg h

/-- The elements that ROWFN leaves where rows and columns take part as they stand. -/
theorem accGet_rowfnData_takesPart (hn : wN w ≤ 128) (h3 : wbits w 0 26 24 ≠ 3) {i j : Nat} (h : takesPart d (wM w) (wN w) i j) :
    accGet (planeOf (rowfnData w d) (wbit w 0 5)) i j = rowfnEl w d i j := by
  obtain ⟨hi, hj, hrow, hcol⟩ := h
  rw [accGet_rowfnData hn (fun h => absurd h h3) i (by omega), rowfnCol0_of_ne h3, rowfnCols_of_ne h3]
  simp [mem_rowsIn, mem_colsIn, hi, hj, hrow, hcol]

/-- SwiGLU of the two halves of a row's columns (R138). -/
theorem accGet_rowfnData_swiglu (hn : wN w ≤ 128) (h3 : wbits w 0 26 24 = 3) (hfit : wbits w 4 6 0 + wN w / 2 ≤ 128) {i j : Nat}
    (hi : i < wM w) (hrow : bitOf d.rowMask i = true) (hj : j < wN w / 2) (hcol : bitOf d.colMask (wbits w 4 6 0 + j) = true) :
    accGet (planeOf (rowfnData w d) (wbit w 0 5)) i (wbits w 4 6 0 + j) =
      fmul (silu (rowfnIn w d i j)) (rowfnIn w d i (j + wN w / 2)) := by
  have hcol0 : rowfnCol0 w = wbits w 4 6 0 := if_pos h3
  have hmem : j ∈ rowfnCols w d := by
    rw [rowfnCols, if_pos h3, hcol0]
    simp [upto, hj, hcol]
  rw [accGet_rowfnData hn (fun _ => hfit) i (by omega), if_pos ⟨mem_rowsIn.mpr ⟨hi, hrow⟩, List.mem_map.mpr ⟨j, hmem, by rw [hcol0]⟩⟩,
    hcol0, Nat.add_sub_cancel_left]
  simp [rowfnEl, rowFnEl, h3]

/-- ROWFN's softmax of an element, and its row state. -/
theorem rowfnEl_softmax (h2 : wbits w 0 26 24 = 2) {i j : Nat} {m l : Word32} (hs : (rowfnSoftmax w d i).2 = (m, l))
    (hj : j ∈ colsIn d (wN w)) :
    rowfnEl w d i j =
      if causalOut (wbit w 0 27) (signed32 (wbits w 12 31 0)) (wbits w 4 15 8) i j then 0#32
      else if l = 0#32 then 0#32 else fdiv (if m = fNegInf then 0#32 else exp32 (fsub (rowfnIn w d i j) m)) l := by
  have hcols : rowfnCols w d = colsIn d (wN w) := rowfnCols_of_ne (by omega)
  simp only [rowfnEl, rowFnEl, h2, if_true]
  rw [rowfnSoftmax] at hs
  rw [softmaxRow_fst _ _ hs, find?_graph]
  by_cases hout : causalOut (wbit w 0 27) (signed32 (wbits w 12 31 0)) (wbits w 4 15 8) i j = true <;> simp [hout, hcols, hj]

theorem rowfn_result (hn : wN (nextWord p a) ≤ 128)
    (h3 : wbits (nextWord p a) 0 26 24 = 3 → wbits (nextWord p a) 4 6 0 + wN (nextWord p a) / 2 ≤ 128) {q : Pkg}
    (hq : (arrOf q a).data = rowfnData (nextWord p a) (arrOf p a).data) : rowfnResult p q a := by
  unfold rowfnResult
  extract_lets w d e fn col0 src out v hidden
  have he : e = rowfnData w d := hq
  intro i hi hrow
  have hel {j : Nat} (hfn : fn ≠ 3) (h : takesPart d (wM w) (wN w) i j) : out i j = rowfnEl w d i j := by
    simp only [out, he]
    exact accGet_rowfnData_takesPart hn hfn h
  have hstate := rowState_rowfnData w d i
  rw [← he] at hstate
  refine ⟨fun hfn j hj => ?_, fun hfn j hj => ?_, fun hfn => ?_, fun hfn j hj hcol => ?_, fun hfn j hj => ?_⟩
  · rw [hel (by omega) hj, rowfnEl, rowFnEl, show wbits w 0 26 24 = 0 from hfn]
    rfl
  · rw [hel (by omega) hj, rowfnEl, rowFnEl, if_pos hfn]
    rfl
  · rw [if_pos ⟨mem_rowsIn.mpr ⟨hi, hrow⟩, hfn⟩] at hstate
    have hcols : rowfnCols w d = colsIn d (wN w) := rowfnCols_of_ne (by omega)
    intro xs m pr l
    have hm : (rowfnSoftmax w d i).2.1 = m := by rw [rowfnSoftmax, hcols]; exact softmaxRow_max xs (v i)
    have hl : (rowfnSoftmax w d i).2.2 = l := by
      rw [rowfnSoftmax, hcols] at hm ⊢
      exact softmaxRow_sum xs (v i) hm
    have hs : (rowfnSoftmax w d i).2 = (m, l) := Prod.ext hm hl
    rw [hs] at hstate
    obtain ⟨hM, hL⟩ := Prod.mk.inj hstate
    refine ⟨hM, hL, fun j hj => ?_⟩
    rw [hel (by omega) hj]
    exact rowfnEl_softmax hfn hs (mem_colsIn.mpr ⟨hj.2.1, hj.2.2.2⟩)
  · simp only [out, he]
    exact accGet_rowfnData_swiglu hn hfn (h3 hfn) hi hrow hj hcol
  · rw [hel (by omega) hj, rowfnEl, rowFnEl, show wbits w 0 26 24 = 4 from hfn]
    rfl

theorem rowfn_computes (hn : wN (nextWord p a) ≤ 128)
    (h3 : wbits (nextWord p a) 0 26 24 = 3 → wbits (nextWord p a) 4 6 0 + wN (nextWord p a) / 2 ≤ 128)
    (hlt : (arrOf p a).active < (arrOf p a).runs.length) :
    goesOn p (rowfnOp p a) a ∧ (∀ pl, maskedKept (arrOf p a).data (arrOf (rowfnOp p a) a).data pl) ∧ rowfnResult p (rowfnOp p a) a := by
  have hdata : (arrOf (rowfnOp p a) a).data = rowfnData (nextWord p a) (arrOf p a).data := by simp [rowfnOp_eq]
  refine ⟨?_, fun pl => maskedKept_of (fun i j hj hmask => ?_) fun i hmask => ?_, rowfn_result hn h3 hdata⟩
  · rw [rowfnOp_eq]
    exact ((SameRuns.of_arrays rfl).modData _).goesOn hlt
  · rw [hdata]
    by_cases hpl : pl = wbit (nextWord p a) 0 5
    · subst hpl
      rw [accGet_rowfnData hn h3 i hj, if_neg]
      rintro ⟨hi, hcol⟩
      have hrow := (mem_rowsIn.mp hi).2
      have hcol := (rowfnCols_range hn h3 hcol).2
      simp [hrow, hcol] at hmask
    · rw [Bool.eq_not.mpr hpl, accGet_rowfnData_other]
  · have hstate := rowState_rowfnData (nextWord p a) (arrOf p a).data i
    rw [if_neg (by simp [mem_rowsIn, hmask]), ← hdata] at hstate
    exact Prod.mk.inj hstate

end Rowfn

theorem accGet_congr {x y : Plane} (ha : x.acc = y.acc) (hf : x.free = y.free) (i j : Nat) : accGet x i j = accGet y i j := by
  simp only [accGet, ha, hf]

/-! #### FUSE2: one row of a chunk (R141) -/

/-- The state of a row of a FUSE2: m, l and the elements of its plane. -/
def rowOf (f : Fuse) (i : Nat) : Word32 × Word32 × (Fin 128 → Word32) :=
  (tget fNegInf f.rowM i, tget 0 f.rowL i, fun j => accGet f.plane i j)

section FuseRow
variable (k : FuseK) (a b : Opd) (c i : Nat)

/-- The keys of a chunk. -/
def fuseKeys : Nat := min 128 (k.keys - 128 * c)

/-- The score of a key. -/
def fuseScore (j : Nat) : Word32 := if j < fuseKeys k c then fmul (fmul (dot a b i j k.k1 0#32) k.tsB) k.scale else 0#32

/-- A key that is beyond the chunk's, or causally masked. -/
def fuseHides (j : Nat) : Bool := decide (fuseKeys k c ≤ j) || causalOut k.causal k.diag k.qpos i (128 * c + j)

/-- The maximum of a row of a chunk, from the one before it. -/
def fuseMax (m0 : Word32) : Word32 :=
  fmax m0 ((upto 128).foldl (fun m j => if fuseHides k c i j || isNan (fuseScore k a b c i j) then m else fmax m (fuseScore k a b c i j)) fNegInf)

/-- What scales the sums of the chunks before it. -/
def fuseAlpha (m0 : Word32) : Word32 :=
  if fuseMax k a b c i m0 = fNegInf then fOne else exp32 (fsub m0 (fuseMax k a b c i m0))

/-- The intermediate of a key. -/
def fuseP (m : Word32) (j : Nat) : Word32 :=
  if k.fn = 2 then (if m = fNegInf || fuseHides k c i j then 0#32 else exp32 (fsub (fuseScore k a b c i j) m))
  else if k.fn = 3 then
    (if fuseHides k c i j || decide (k.keys / 2 ≤ j) then 0#32
      else fmul (silu (fuseScore k a b c i j)) (fuseScore k a b c i (j + k.keys / 2)))
  else if fuseHides k c i j then 0#32 else if k.fn = 4 then gelu (fuseScore k a b c i j) else fuseScore k a b c i j

variable (d : ArrData) (f : Fuse)

theorem zip_map_self {α β : Type} (l : List α) (g : α → β) : l.zip (l.map g) = l.map fun x => (x, g x) := by
  induction l with
  | nil => rfl
  | cons x l ih => simp [ih]

/-- A row of a chunk under SOFTMAX. -/
theorem fuseRow_softmax (h : k.fn = 2) :
    fuseRow k d a b c i f =
      let m := fuseMax k a b c i (tget fNegInf f.rowM i)
      let alpha := fuseAlpha k a b c i (tget fNegInf f.rowM i)
      ((upto 128).map (fuseP k a b c i m),
        { f with
          plane := if alpha = fOne then f.plane else (colsIn d k.n2).foldl (fun z j => accPut z i j (fmul alpha (accGet z i j))) f.plane
          rowM := tset fNegInf f.rowM i m
          rowL := tset 0 f.rowL i ((upto 128).foldl (fun l j => fadd l (fuseP k a b c i m j)) (fmul alpha (tget 0 f.rowL i))) }) := by
  simp only [fuseRow, if_pos h, zip_map_self, List.foldl_map, List.map_map]
  have hp (m : Word32) : fuseP k a b c i m = fun j =>
      if m = fNegInf || fuseHides k c i j then 0#32 else exp32 (fsub (fuseScore k a b c i j) m) := by
    funext j
    rw [fuseP, if_pos h]
  simp only [hp]
  rfl

/-- A row of a chunk under any other row function. -/
theorem fuseRow_other (h : k.fn ≠ 2) (m : Word32) : fuseRow k d a b c i f = ((upto 128).map (fuseP k a b c i m), f) := by
  have hp : fuseP k a b c i m = fun j =>
      if k.fn = 3 then
        (if fuseHides k c i j || decide (k.keys / 2 ≤ j) then 0#32
          else fmul (silu (fuseScore k a b c i j)) (fuseScore k a b c i (j + k.keys / 2)))
      else if fuseHides k c i j then 0#32 else if k.fn = 4 then gelu (fuseScore k a b c i j) else fuseScore k a b c i j := by
    funext j
    rw [fuseP, if_neg h]
  rw [hp]
  by_cases h3 : k.fn = 3
  · simp only [fuseRow, if_neg h, if_pos h3]
    rfl
  · simp only [fuseRow, if_neg h, if_neg h3]
    rfl

end FuseRow

/-! #### FUSE2: the rows of a chunk -/

section FuseChunk
variable (k : FuseK) (d : ArrData) (a : Opd) (bOf dOf : Nat → Opd) (c : Nat)

/-- One row of a chunk, with what the masses need of it. -/
def fuseChunkRow (acc : List (List Word32 × Word32) × Fuse) (i : Nat) : List (List Word32 × Word32) × Fuse :=
  let (ps, f1) := fuseRow k d a (bOf c) c i acc.2
  let qs := convertQ k ps
  let real := if k.fn = 3 then k.keys / 2 else min 128 (k.keys - 128 * c)
  let cnt := qs.take real
  let q := qOpd k (qs.map (·.code))
  let pl := (colsIn d k.n2).foldl (fun z j => accPut z i j (dot q (dOf c) 0 j real (accGet z i j))) f1.plane
  let pl2 :=
    { pl with
      isat := satAdd 0xFFFFFFFF pl.isat (cnt.filter (·.sat)).length, iftz := satAdd 0xFFFFFFFF pl.iftz (cnt.filter (·.flush)).length
      iconv := satAdd 0xFFFFFFFF pl.iconv cnt.length, nan := pl.nan || (ps.take real).any isNan }
  (acc.1 ++ [(ps, tget 0 f1.rowL i)], { f1 with plane := pl2 })

theorem rowOf_fuseChunk (f : Fuse) (i : Nat) :
    rowOf (fuseChunk k d a bOf dOf f c) i = rowOf ((rowsIn d k.m).foldl (fuseChunkRow k d a bOf dOf c) ([], f)).2 i := by
  unfold fuseChunk
  dsimp only
  split <;> rfl

variable {k d a bOf dOf c}

/-- The intermediate of a row as the second product takes it. -/
def fuseQ (k : FuseK) (a b : Opd) (c i : Nat) (m : Word32) : Opd :=
  qOpd k ((convertQ k ((upto 128).map (fuseP k a b c i m))).map (·.code))

/-- The keys that the second product reduces over. -/
def fuseReal (k : FuseK) (c : Nat) : Nat := if k.fn = 3 then k.keys / 2 else fuseKeys k c

/-- m of a row after a chunk. -/
def fuseM (k : FuseK) (a b : Opd) (c i : Nat) (f : Fuse) : Word32 := fuseMax k a b c i (tget fNegInf f.rowM i)

/-- l of a row after a chunk under SOFTMAX. -/
def fuseL (k : FuseK) (a b : Opd) (c i : Nat) (f : Fuse) : Word32 :=
  (upto 128).foldl (fun l j => fadd l (fuseP k a b c i (fuseM k a b c i f) j))
    (fmul (fuseAlpha k a b c i (tget fNegInf f.rowM i)) (tget 0 f.rowL i))

theorem fuseRow_fst (b : Opd) (i : Nat) (f : Fuse) : (fuseRow k d a b c i f).1 = (upto 128).map (fuseP k a b c i (fuseM k a b c i f)) := by
  by_cases h : k.fn = 2
  · rw [fuseRow_softmax k a b c i d f h]
    rfl
  · rw [fuseRow_other k a b c i d f h (fuseM k a b c i f)]

theorem rowState_fuseRow (b : Opd) (i : Nat) (f : Fuse) (r : Nat) :
    (tget fNegInf (fuseRow k d a b c i f).2.rowM r, tget 0 (fuseRow k d a b c i f).2.rowL r) =
      if r = i ∧ k.fn = 2 then (fuseM k a b c i f, fuseL k a b c i f) else (tget fNegInf f.rowM r, tget 0 f.rowL r) := by
  by_cases h : k.fn = 2
  · simp only [fuseRow_softmax k a b c i d f h]
    by_cases hr : r = i
    · subst hr
      rw [if_pos ⟨rfl, h⟩, tget_tset_same, tget_tset_same]
      rfl
    · rw [if_neg (by tauto), tget_tset_ne _ _ _ hr, tget_tset_ne _ _ _ hr]
  · rw [fuseRow_other k a b c i d f h fNegInf, if_neg (by tauto)]

section Row
variable (hn : k.n2 ≤ 128)
include hn

theorem accGet_fuseRow (b : Opd) (i : Nat) (f : Fuse) (r : Nat) {j : Nat} (hj : j < 128) :
    accGet (fuseRow k d a b c i f).2.plane r j =
      if (r = i ∧ j ∈ colsIn d k.n2) ∧ k.fn = 2 ∧ fuseAlpha k a b c i (tget fNegInf f.rowM i) ≠ fOne then
        fmul (fuseAlpha k a b c i (tget fNegInf f.rowM i)) (accGet f.plane i j)
      else accGet f.plane r j := by
  by_cases h : k.fn = 2
  · simp only [fuseRow_softmax k a b c i d f h]
    by_cases h1 : fuseAlpha k a b c i (tget fNegInf f.rowM i) = fOne
    · rw [if_pos h1, if_neg (by tauto)]
    · rw [if_neg h1, accGet_foldl_cols (colsIn_nodup d _) (fun x hx => (mem_colsIn.mp hx).1.trans_le hn)
        (fun j z => fmul (fuseAlpha k a b c i (tget fNegInf f.rowM i)) z) _ i r hj]
      simp only [h, h1, ne_eq, not_false_eq_true, and_self, and_true]
  · rw [fuseRow_other k a b c i d f h fNegInf, if_neg (by tauto)]

variable (acc : List (List Word32 × Word32) × Fuse) (i : Nat)

/-- The elements after a row's step are those of the second product, over what its softmax scaled. -/
theorem accGet_fuseChunkRow (r : Nat) {j : Nat} (hj : j < 128) :
    accGet (fuseChunkRow k d a bOf dOf c acc i).2.plane r j =
      if r = i ∧ j ∈ colsIn d k.n2 then
        dot (fuseQ k a (bOf c) c i (fuseM k a (bOf c) c i acc.2)) (dOf c) 0 j (fuseReal k c)
          (accGet (fuseRow k d a (bOf c) c i acc.2).2.plane i j)
      else accGet acc.2.plane r j := by
  have hleft : (if r = i ∧ j ∈ colsIn d k.n2 then
        dot (fuseQ k a (bOf c) c i (fuseM k a (bOf c) c i acc.2)) (dOf c) 0 j (fuseReal k c)
          (accGet (fuseRow k d a (bOf c) c i acc.2).2.plane i j)
      else accGet acc.2.plane r j) =
      if r = i ∧ j ∈ colsIn d k.n2 then
        dot (fuseQ k a (bOf c) c i (fuseM k a (bOf c) c i acc.2)) (dOf c) 0 j (fuseReal k c)
          (accGet (fuseRow k d a (bOf c) c i acc.2).2.plane i j)
      else accGet (fuseRow k d a (bOf c) c i acc.2).2.plane r j := by
    split
    · rfl
    · rw [accGet_fuseRow hn (bOf c) i acc.2 r hj, if_neg (by tauto)]
  rw [hleft, fuseQ, ← fuseRow_fst (d := d), ← accGet_foldl_cols (colsIn_nodup d _) (fun x hx => (mem_colsIn.mp hx).1.trans_le hn) (fun j z =>
    dot (qOpd k ((convertQ k (fuseRow k d a (bOf c) c i acc.2).1).map (·.code))) (dOf c) 0 j (fuseReal k c) z) _ i r hj]
  exact accGet_congr rfl rfl r j

/-- A row's step leaves every other row. -/
theorem rowOf_fuseChunkRow_ne {r : Nat} (hr : r ≠ i) : rowOf (fuseChunkRow k d a bOf dOf c acc i).2 r = rowOf acc.2 r := by
  have hstate := rowState_fuseRow (d := d) (a := a) (c := c) (k := k) (bOf c) i acc.2 r
  rw [if_neg (by tauto)] at hstate
  obtain ⟨hm, hl⟩ := Prod.mk.inj hstate
  refine Prod.ext hm (Prod.ext hl (funext fun j => ?_))
  exact (accGet_fuseChunkRow hn acc i r j.isLt).trans (if_neg (by tauto))

end Row

/-! #### FUSE2: what its masks keep (R131) -/

/-- The masked elements of plane 0, and the masked rows' state, are those that a FUSE2 began from. -/
structure FuseKept (d : ArrData) (f : Fuse) : Prop where
  plane : PlaneKept d d.plane0 f.plane
  rows : ∀ i, bitOf d.rowMask i = false → tget fNegInf f.rowM i = tget fNegInf d.rowM i ∧ tget 0 f.rowL i = tget 0 d.rowL i

theorem tget_foldl_tset {α : Type} [DecidableEq α] (dflt v : α) (l : List Nat) (t : Tab α) (k : Nat) :
    tget dflt (l.foldl (fun m i => tset dflt m i v) t) k = if k ∈ l then v else tget dflt t k := by
  induction l generalizing t with
  | nil => simp
  | cons x l ih =>
    rw [List.foldl_cons, ih]
    by_cases hk : k ∈ l
    · simp [hk]
    · by_cases hx : k = x
      · simp [hx]
      · rw [if_neg hk, tget_tset_ne _ _ _ hx, if_neg (by simp [hx, hk])]

theorem fuseKept_fuseFirst (hn : k.n2 ≤ 128) (restart : Bool) : FuseKept d (fuseFirst restart k d) := by
  constructor
  · cases restart
    · exact fun _ _ _ _ => rfl
    · exact planeKept_planeMap hn _ _
  · intro i hi
    have hrow : i ∉ rowsIn d k.m := by simp [mem_rowsIn, hi]
    simp only [fuseFirst]
    constructor <;> split
    · rw [tget_foldl_tset, if_neg hrow]
    · rfl
    · rw [tget_foldl_tset, if_neg hrow]
    · rfl

theorem fuseKept_fuseChunkRow (hn : k.n2 ≤ 128) {acc : List (List Word32 × Word32) × Fuse} (h : FuseKept d acc.2) {i : Nat}
    (hi : bitOf d.rowMask i = true) : FuseKept d (fuseChunkRow k d a bOf dOf c acc i).2 := by
  constructor
  · intro r j hj hmask
    rw [accGet_fuseChunkRow hn acc i r hj, if_neg, h.plane r j hj hmask]
    rintro ⟨rfl, hcol⟩
    simp [hi, (mem_colsIn.mp hcol).2] at hmask
  · intro r hr
    have hrow := rowOf_fuseChunkRow_ne (d := d) (a := a) (bOf := bOf) (dOf := dOf) (c := c) hn acc i (r := r) (by rintro rfl; simp [hi] at hr)
    obtain ⟨hm, hl⟩ := h.rows r hr
    exact ⟨(congrArg Prod.fst hrow).trans hm, (congrArg (·.2.1) hrow).trans hl⟩

theorem fuseKept_fuseChunk (hn : k.n2 ≤ 128) {f : Fuse} (h : FuseKept d f) : FuseKept d (fuseChunk k d a bOf dOf f c) := by
  have hfold : FuseKept d ((rowsIn d k.m).foldl (fuseChunkRow k d a bOf dOf c) ([], f)).2 :=
    List.foldlRecOn (motive := fun acc : List (List Word32 × Word32) × Fuse => FuseKept d acc.2) _ _ h fun _ hacc _ hi =>
      fuseKept_fuseChunkRow hn hacc (mem_rowsIn.mp hi).2
  unfold fuseChunk
  dsimp only
  split
  · exact ⟨hfold.plane, hfold.rows⟩
  · exact hfold

theorem accGet_fuseEnd (hn : k.n2 ≤ 128) (f : Fuse) (i : Nat) {j : Nat} (hj : j < 128) :
    accGet (fuseEnd k d f).plane i j =
      if i ∈ rowsIn d k.m ∧ j ∈ colsIn d k.n2 then
        (if k.norm then
          (if tget 0 f.rowL i = 0#32 then 0#32 else fdiv (fscale (fmul (accGet f.plane i j) k.tsD) (-k.iscale)) (tget 0 f.rowL i))
        else fscale (fmul (accGet f.plane i j) k.tsD) (-k.iscale))
      else accGet f.plane i j :=
  accGet_planeMap hn _ _ i hj

theorem fuseKept_fuseEnd (hn : k.n2 ≤ 128) {f : Fuse} (h : FuseKept d f) : FuseKept d (fuseEnd k d f) := by
  refine ⟨fun i j hj hmask => ?_, h.rows⟩
  rw [accGet_fuseEnd hn f i hj, if_neg, h.plane i j hj hmask]
  rw [mem_rowsIn, mem_colsIn]
  rcases hmask with hb | hb <;> simp [hb]

/-! #### FUSE2: one chunk (R120, R141, R142) -/

/-- A row that takes part, after its chunk: what its own step made of the row before the chunk. -/
theorem rowOf_fuseChunk_mem (hn : k.n2 ≤ 128) (f : Fuse) {i : Nat} (hi : i ∈ rowsIn d k.m) :
    ∃ acc : List (List Word32 × Word32) × Fuse, rowOf acc.2 i = rowOf f i ∧
      rowOf (fuseChunk k d a bOf dOf f c) i = rowOf (fuseChunkRow k d a bOf dOf c acc i).2 i := by
  rw [rowOf_fuseChunk]
  exact read_foldl_of_mem (read := fun (acc : List (List Word32 × Word32) × Fuse) i => rowOf acc.2 i) (P := fun _ => True)
    (fun acc i _ hne => rowOf_fuseChunkRow_ne hn acc i hne.symm) (fun _ _ => trivial) (rowsIn_nodup d k.m) hi ([], f)

theorem rowState_fuseChunk (hn : k.n2 ≤ 128) (f : Fuse) {i : Nat} (hi : i ∈ rowsIn d k.m) :
    (tget fNegInf (fuseChunk k d a bOf dOf f c).rowM i, tget 0 (fuseChunk k d a bOf dOf f c).rowL i) =
      if k.fn = 2 then (fuseM k a (bOf c) c i f, fuseL k a (bOf c) c i f) else (tget fNegInf f.rowM i, tget 0 f.rowL i) := by
  obtain ⟨acc, hacc, hrow⟩ := rowOf_fuseChunk_mem (a := a) (bOf := bOf) (dOf := dOf) (c := c) hn f hi
  obtain ⟨hm, hl, -⟩ : tget fNegInf acc.2.rowM i = tget fNegInf f.rowM i ∧ tget 0 acc.2.rowL i = tget 0 f.rowL i ∧ True :=
    ⟨congrArg Prod.fst hacc, congrArg (·.2.1) hacc, trivial⟩
  have hstate := rowState_fuseRow (d := d) (a := a) (c := c) (k := k) (bOf c) i acc.2 i
  simp only [true_and, fuseL, fuseM, hm, hl] at hstate
  exact (congrArg (fun x => (x.1, x.2.1)) hrow).trans hstate

theorem accGet_fuseChunk (hn : k.n2 ≤ 128) (f : Fuse) {i j : Nat} (hi : i ∈ rowsIn d k.m) (hj : j ∈ colsIn d k.n2) :
    accGet (fuseChunk k d a bOf dOf f c).plane i j =
      dot (fuseQ k a (bOf c) c i (fuseM k a (bOf c) c i f)) (dOf c) 0 j (fuseReal k c)
        (if k.fn = 2 ∧ fuseAlpha k a (bOf c) c i (tget fNegInf f.rowM i) ≠ fOne then
          fmul (fuseAlpha k a (bOf c) c i (tget fNegInf f.rowM i)) (accGet f.plane i j) else accGet f.plane i j) := by
  have hj128 : j < 128 := (mem_colsIn.mp hj).1.trans_le hn
  obtain ⟨acc, hacc, hrow⟩ := rowOf_fuseChunk_mem (a := a) (bOf := bOf) (dOf := dOf) (c := c) hn f hi
  have hm : tget fNegInf acc.2.rowM i = tget fNegInf f.rowM i := congrArg Prod.fst hacc
  have hel : accGet acc.2.plane i j = accGet f.plane i j := congrFun (congrArg (·.2.2) hacc) ⟨j, hj128⟩
  refine (congrFun (congrArg (·.2.2) hrow) ⟨j, hj128⟩).trans ?_
  refine (accGet_fuseChunkRow hn acc i i hj128).trans ?_
  rw [if_pos ⟨rfl, hj⟩, accGet_fuseRow hn (bOf c) i acc.2 i hj128]
  simp only [true_and, hj, fuseM, hm, hel]

end FuseChunk

/-! #### FUSE2: the word -/

section FuseFirst
variable {k : FuseK} {d : ArrData} {i j : Nat} (hi : i ∈ rowsIn d k.m)
include hi

theorem rowState_fuseFirst (restart : Bool) (h : k.fn = 2) :
    tget fNegInf (fuseFirst restart k d).rowM i = (if restart then fNegInf else tget fNegInf d.rowM i) ∧
      tget 0 (fuseFirst restart k d).rowL i = if restart then 0#32 else tget 0 d.rowL i := by
  cases restart <;> simp [fuseFirst, h, tget_foldl_tset, hi]

theorem accGet_fuseFirst (hn : k.n2 ≤ 128) (restart : Bool) (hj : j ∈ colsIn d k.n2) :
    accGet (fuseFirst restart k d).plane i j = if restart then 0#32 else accGet d.plane0 i j := by
  cases restart
  · rfl
  · exact (accGet_planeMap hn _ _ i ((mem_colsIn.mp hj).1.trans_le hn)).trans (if_pos ⟨hi, hj⟩)

end FuseFirst

theorem fuseFirst_rowL_of_ne {k : FuseK} {d : ArrData} (restart : Bool) (h : k.fn ≠ 2) : (fuseFirst restart k d).rowL = d.rowL := by
  simp [fuseFirst, h]

/-- What FUSE2 leaves of plane 0 and the row state. -/
def fuseResult (k : FuseK) (d : ArrData) (oa : Opd) (ob od : Nat → Opd) (acc : Bool) : Fuse :=
  fuseEnd k d ((upto (ceilDiv k.keys 128)).foldl (fuseChunk k d oa ob od) (fuseFirst (!acc) k d))

theorem fuseKept_fuseResult {k : FuseK} {d : ArrData} (hn : k.n2 ≤ 128) (oa : Opd) (ob od : Nat → Opd) (acc : Bool) :
    FuseKept d (fuseResult k d oa ob od acc) :=
  fuseKept_fuseEnd hn (foldl_inv _ (P := FuseKept d) (fuseKept_fuseFirst hn _) fun _ _ h => fuseKept_fuseChunk hn h)

theorem fuseResult_oneChunk {k : FuseK} (h0 : 0 < k.keys) (h128 : k.keys ≤ 128) (d : ArrData) (oa : Opd) (ob od : Nat → Opd) (acc : Bool) :
    fuseResult k d oa ob od acc = fuseEnd k d (fuseChunk k d oa ob od (fuseFirst (!acc) k d) 0) := by
  have hone : ceilDiv k.keys 128 = 1 := by simp [ceilDiv]; omega
  rw [fuseResult, hone]
  rfl

theorem fuse2Chunk_of {p q : Pkg} {a : Nat} {k : FuseK} {oa : Opd} {ob od : Nat → Opd} (hn : k.n2 ≤ 128) (h0 : 0 < k.keys)
    (h128 : k.keys ≤ 128)
    (hM : (arrOf q a).data.rowM = (fuseResult k (arrOf p a).data oa ob od (wbit (nextWord p a) 0 4)).rowM)
    (hL : (arrOf q a).data.rowL = (fuseResult k (arrOf p a).data oa ob od (wbit (nextWord p a) 0 4)).rowL)
    (hp : ∀ i j, accGet (arrOf q a).data.plane0 i j = accGet (fuseResult k (arrOf p a).data oa ob od (wbit (nextWord p a) 0 4)).plane i j) :
    fuse2Chunk p q a k.keys k oa (ob 0) (od 0) := by
  rw [fuseResult_oneChunk h0 h128] at hM hL
  simp only [fuseResult_oneChunk h0 h128] at hp
  unfold fuse2Chunk
  extract_lets w d e acc real
  intro i hi hmask s hidden m0 l0 m alpha pr l qs
  have hrow : i ∈ rowsIn d k.m := mem_rowsIn.mpr ⟨hi, hmask⟩
  have hkeys : fuseKeys k 0 = k.keys := by simp [fuseKeys, h128]
  have hs : fuseScore k oa (ob 0) 0 i = s := by
    funext j
    rw [fuseScore, hkeys]
  have hhides : fuseHides k 0 i = hidden := by
    funext j
    rw [fuseHides, hkeys, Nat.mul_zero, Nat.zero_add]
  have hmax : fuseMax k oa (ob 0) 0 i m0 = m := by rw [fuseMax, hs, hhides]
  have halpha : fuseAlpha k oa (ob 0) 0 i m0 = alpha := by rw [fuseAlpha, hmax]
  have hpr (m' : Word32) (h : k.fn = 2 → m' = m) : fuseP k oa (ob 0) 0 i m' = pr := by
    funext j
    by_cases h2 : k.fn = 2
    · simp only [fuseP, pr, hs, hhides, h2, h h2]
    · simp only [fuseP, pr, hs, hhides, h2, if_false]
  have hreal : fuseReal k 0 = real := by rw [fuseReal, hkeys]
  have hstart (h2 : k.fn = 2) : tget fNegInf (fuseFirst (!acc) k d).rowM i = m0 ∧ tget 0 (fuseFirst (!acc) k d).rowL i = l0 := by
    obtain ⟨hm, hl⟩ := rowState_fuseFirst hrow (!acc) h2
    rw [hm, hl]
    cases hacc : acc <;> simp [m0, l0, hacc]
  have hfm (h2 : k.fn = 2) : fuseM k oa (ob 0) 0 i (fuseFirst (!acc) k d) = m := by rw [fuseM, (hstart h2).1, hmax]
  have hstate := rowState_fuseChunk (a := oa) (bOf := ob) (dOf := od) (c := 0) hn (fuseFirst (!acc) k d) hrow
  have hend : tget 0 (fuseChunk k d oa ob od (fuseFirst (!acc) k d) 0).rowL i = l := by
    by_cases h2 : k.fn = 2
    · rw [if_pos h2] at hstate
      rw [(Prod.mk.inj hstate).2, fuseL, hpr _ fun _ => hfm h2, (hstart h2).1, (hstart h2).2, halpha]
      exact (if_pos h2).symm
    · rw [if_neg h2] at hstate
      rw [(Prod.mk.inj hstate).2, fuseFirst_rowL_of_ne _ h2]
      exact (if_neg h2).symm
  refine ⟨fun h2 => ?_, fun j hj => ?_⟩
  · rw [if_pos h2] at hstate
    rw [hM, hL]
    exact ⟨(Prod.mk.inj hstate).1.trans (hfm h2), hend⟩
  · intro held x
    have hcol : j ∈ colsIn d k.n2 := mem_colsIn.mpr ⟨hj.2.1, hj.2.2.2⟩
    have hheld : accGet (fuseFirst (!acc) k d).plane i j = held := by
      rw [accGet_fuseFirst hrow hn _ hcol]
      cases hacc : acc <;> simp [held, hacc]
    have hsum : fscale (fmul (accGet (fuseChunk k d oa ob od (fuseFirst (!acc) k d) 0).plane i j) k.tsD) (-k.iscale) = x := by
      rw [accGet_fuseChunk hn _ hrow hcol, fuseQ, hpr _ hfm, hreal, hheld]
      by_cases h2 : k.fn = 2
      · rw [(hstart h2).1, halpha]
      · simp only [x, h2, false_and, if_false]
        rfl
    rw [hp, accGet_fuseEnd hn _ i (by have := hj.2.1; omega), if_pos ⟨hrow, hcol⟩, hend, hsum]

/-- What the word leaves of plane 0 and the row state; an empty slot's stream leaves them as ACC = 0 sets them (R144). -/
def fuseLeaves (k : FuseK) (d : ArrData) (oa : Opd) (ob od : Nat → Opd) (acc : Bool) : Fuse :=
  if k.keys = 0 then fuseFirst true k d else fuseResult k d oa ob od acc

theorem fuseKept_fuseLeaves {k : FuseK} {d : ArrData} (hn : k.n2 ≤ 128) (oa : Opd) (ob od : Nat → Opd) (acc : Bool) :
    FuseKept d (fuseLeaves k d oa ob od acc) := by
  unfold fuseLeaves
  split
  · exact fuseKept_fuseFirst hn _
  · exact fuseKept_fuseResult hn oa ob od acc

/-- The parameter block of a FUSE2. -/
def fuseBlock (p : Pkg) (a : Nat) : Bytes := sramGet (arrOf p a).data (32 * wbits (nextWord p a) 12 15 0) 64

/-- The keys of a FUSE2: the word's, or those of the stream's header. -/
def fuseCount (p : Pkg) (a : Nat) (gb : Option Gathered) : Nat :=
  if wbits (nextWord p a) 4 20 0 = 0 then (gb.map fun g => headerKeys g.header).getD 0 else wbits (nextWord p a) 4 20 0

section Fuse2
variable {p p1 p2 p3 : Pkg} {a : Nat} {oa : Opd} {ob od : Nat → Opd} {gb gd : Option Gathered}
variable (ha : opdFrom p a (arrOf p a).data (wM (nextWord p a)) (wbits (nextWord p a) 8 20 0) (fuseOpd (fuseBlock p a) 0) = some (oa, p1))
  (hb : fuseFrom p1 a (arrOf p a).data (wbits (nextWord p a) 4 20 0) (wbits (nextWord p a) 8 20 0) false (fuseOpd (fuseBlock p a) 1) =
    some (ob, gb, p2))
  (hd : fuseFrom p2 a (arrOf p a).data (wN (nextWord p a))
    (if wbits (nextWord p a) 0 7 5 = 3 then fuseCount p a gb / 2 else fuseCount p a gb) true (fuseOpd (fuseBlock p a) 2) = some (od, gd, p3))
include ha hb hd

theorem fuse2Op_eq : fuse2Op p a = some (fuseWrite p p3 a gb
    (fuseLeaves (fuseKOf p a (fuseCount p a gb) (fuseBlock p a) gb gd) (arrOf p a).data oa ob od (wbit (nextWord p a) 0 4))) := by
  have hempty (n1 keys h : Nat) (hk : keys = if n1 = 0 then h else n1) (k : FuseK) (hkk : k.keys = keys) :
      (if decide (n1 = 0 ∧ keys = 0) then fuseFirst (decide (n1 = 0 ∧ keys = 0) || !wbit (nextWord p a) 0 4) k (arrOf p a).data
        else fuseEnd k (arrOf p a).data ((upto (ceilDiv keys 128)).foldl (fuseChunk k (arrOf p a).data oa ob od)
          (fuseFirst (decide (n1 = 0 ∧ keys = 0) || !wbit (nextWord p a) 0 4) k (arrOf p a).data))) =
        fuseLeaves k (arrOf p a).data oa ob od (wbit (nextWord p a) 0 4) := by
    subst hkk
    by_cases h0 : k.keys = 0
    · have hn1 : n1 = 0 := by
        by_contra hne
        rw [if_neg hne] at hk
        omega
      simp [fuseLeaves, h0, hn1]
    · simp [fuseLeaves, fuseResult, h0]
  have hcount : fuseCount p a gb =
      if wbits (nextWord p a) 4 20 0 = 0 then (match gb with | some g => headerKeys g.header | none => 0) else wbits (nextWord p a) 4 20 0 := by
    cases gb <;> rfl
  rw [← hempty _ _ _ hcount _ rfl]
  rw [fuseBlock] at ha hb hd
  cases gb with
  | none =>
    simp only [fuseCount, Option.map_none, Option.getD_none] at hd
    simp only [fuse2Op, ha, hb, hd]
    rfl
  | some g =>
    simp only [fuseCount, Option.map_some, Option.getD_some] at hd
    simp only [fuse2Op, ha, hb, hd]
    rfl

end Fuse2

/-- A run whose score is no longer armed. -/
def disarmed (r : SegRun) : SegRun := { r with armed := false }

/-- The array after a FUSE2 word: what the word leaves, with plane 1 undefined. -/
def fuseArr (free : Nat) (f : Fuse) (v : Arr) : Arr :=
  { modRun v disarmed with
    data := { v.data with
              plane0 := { f.plane with tscale := fOne }, rowM := f.rowM, rowL := f.rowL
              plane1 := { v.data.plane1 with acc := [], free := free + 1 } } }

theorem fuseArr_runs (free : Nat) (f : Fuse) (v : Arr) : (fuseArr free f v).runs = (modRun v disarmed).runs := rfl

theorem sendMasses_nextFree_arrays (p : Pkg) (n : Nat) (g : Option Gathered) (masses : List (Nat × Nat)) :
    (sendMasses (nextFree p) n g masses).arrays = p.arrays := by simp

section FuseWrite
variable (p q : Pkg) (a : Nat) (gb : Option Gathered) (f : Fuse)

theorem fuseWrite_eq : fuseWrite p q a gb f =
    wordDone (sendMasses (nextFree (modArr q a (fuseArr p.freeCtr f))) (penOfArr p a) gb f.masses) a := rfl

theorem fuseWrite_data : (arrOf (fuseWrite p q a gb f) a).data =
    { (arrOf q a).data with
      plane0 := { f.plane with tscale := fOne }, rowM := f.rowM, rowL := f.rowL
      plane1 := { (arrOf q a).data.plane1 with acc := [], free := p.freeCtr + 1 } } := by
  rw [fuseWrite_eq, wordDone_data, arrOf_congr (sendMasses_nextFree_arrays _ _ _ _), arrOf_modArr_same]
  rfl

theorem fuseWrite_freeCtr : (fuseWrite p q a gb f).freeCtr = q.freeCtr + 1 := by
  rw [fuseWrite_eq]
  simp [wordDone, nextFree]

variable {p q a}

theorem fuseWrite_goesOn (hk : SameRuns p q a) (hlt : (arrOf p a).active < (arrOf p a).runs.length) :
    goesOn p (fuseWrite p q a gb f) a := by
  have hruns : SameRuns q (modArr q a (fuseArr p.freeCtr f)) a := by
    refine .modArr q (fun _ => rfl) (fun x => ?_) fun x => ?_
    · rw [fuseArr_runs, modRun_length]
    · exact modRun_pc (x := x) (f := disarmed) fun _ => rfl
  rw [fuseWrite_eq]
  exact ((hk.trans hruns).trans (.of_arrays (sendMasses_nextFree_arrays _ _ _ _))).goesOn hlt

end FuseWrite

section Fuse2
variable {p p3 : Pkg} {a : Nat} {k : FuseK} {oa : Opd} {ob od : Nat → Opd} {gb : Option Gathered}

theorem fuse2_computes (hn : k.n2 ≤ 128) (hkm : k.m = wM (nextWord p a)) (hkn : k.n2 = wN (nextWord p a)) (hk : Delivered p p3 a)
    (hlt : (arrOf p a).active < (arrOf p a).runs.length) :
    let w := nextWord p a
    let d := (arrOf p a).data
    let q := fuseWrite p p3 a gb (fuseLeaves k d oa ob od (wbit w 0 4))
    goesOn p q a ∧ maskedKept d (arrOf q a).data false ∧
      (arrOf q a).data.plane1.free = p.freeCtr + 1 ∧ (arrOf q a).data.plane1.acc = [] ∧ q.freeCtr = p.freeCtr + 1 ∧
      (k.keys = 0 → ∀ i j, takesPart d (wM w) (wN w) i j → accGet (arrOf q a).data.plane0 i j = 0#32 ∧
        (k.fn = 2 → tget fNegInf (arrOf q a).data.rowM i = fNegInf ∧ tget 0 (arrOf q a).data.rowL i = 0#32)) ∧
      (0 < k.keys → k.keys ≤ 128 → fuse2Chunk p q a k.keys k oa (ob 0) (od 0)) ∧
      (0 < k.keys →
        let f := fuseEnd k d ((upto (ceilDiv k.keys 128)).foldl (fuseChunk k d oa ob od) (fuseFirst (!wbit w 0 4) k d))
        (arrOf q a).data.rowM = f.rowM ∧ (arrOf q a).data.rowL = f.rowL ∧
          ∀ i j, accGet (arrOf q a).data.plane0 i j = accGet f.plane i j) := by
  intro w d q
  have hdata := fuseWrite_data p p3 a gb (fuseLeaves k d oa ob od (wbit w 0 4))
  have hM : (arrOf q a).data.rowM = (fuseLeaves k d oa ob od (wbit w 0 4)).rowM := by rw [hdata]
  have hL : (arrOf q a).data.rowL = (fuseLeaves k d oa ob od (wbit w 0 4)).rowL := by rw [hdata]
  have hel (i j : Nat) : accGet (arrOf q a).data.plane0 i j = accGet (fuseLeaves k d oa ob od (wbit w 0 4)).plane i j := by
    rw [hdata]
    exact accGet_congr rfl rfl i j
  have hkept := fuseKept_fuseLeaves hn (d := d) oa ob od (wbit w 0 4)
  have hsome (h : 0 < k.keys) : fuseLeaves k d oa ob od (wbit w 0 4) = fuseResult k d oa ob od (wbit w 0 4) := if_neg (by omega)
  refine ⟨fuseWrite_goesOn gb _ hk.toSameRuns hlt, maskedKept_of (fun i j hj hmask => ?_) (fun i hmask => ?_), ?_, ?_, ?_,
    fun h0 i j hpart => ?_, fun h0 h128 => ?_, fun h0 => ?_⟩
  · exact (hel i j).trans (hkept.plane i j hj hmask)
  · rw [hM, hL]
    exact hkept.rows i hmask
  · rw [hdata]
  · rw [hdata]
  · rw [fuseWrite_freeCtr, hk.freeCtr]
  · obtain ⟨hi, hj, hrow, hcol⟩ := hpart
    have hrow : i ∈ rowsIn d k.m := mem_rowsIn.mpr ⟨hkm ▸ hi, hrow⟩
    have hempty : fuseLeaves k d oa ob od (wbit w 0 4) = fuseFirst true k d := if_pos h0
    rw [hel, hM, hL, hempty]
    exact ⟨accGet_fuseFirst hrow hn true (mem_colsIn.mpr ⟨hkn ▸ hj, hcol⟩), fun h2 => rowState_fuseFirst hrow true h2⟩
  · rw [hsome h0] at hM hL
    simp only [hsome h0] at hel
    exact fuse2Chunk_of hn h0 h128 hM hL hel
  · rw [hsome h0] at hM hL
    simp only [hsome h0] at hel
    exact ⟨hM, hL, hel⟩

end Fuse2

/-- Settles O22: the operands' delivery leaves the planes, the row state and the masks; each word's fold over its rows and columns writes the
elements that take part one by one, and the word goes on. -/
theorem wordsCompute : Obligations.WordsCompute := by
  intro s a hm hn w d
  refine ⟨fun hat oa p1 ob p2 ha hb => ?_, fun hat h3 => ?_, fun hat => ?_⟩
  · have hk : Delivered s.pkg p2 a := (opdFrom_delivered ha).trans (opdFrom_delivered hb)
    refine does_of_act ((exec_mma a s).trans rfl) hat ?_
    rw [mmaOp_eq ha hb]
    exact mma_computes hn hk (atWord_lt hat)
  · exact does_of_act ((exec_rowfn a s).trans rfl) hat (rowfn_computes hn h3 (atWord_lt hat))
  · intro pb n1 oa p1 ob gb p2 od gd p3 ha hb keys hd k
    have hk : Delivered s.pkg p3 a := ((opdFrom_delivered ha).trans (fuseFrom_delivered hb)).trans (fuseFrom_delivered hd)
    refine does_of_act ((exec_fuse2 a s).trans rfl) hat ?_
    rw [fuse2Op_eq ha hb hd]
    exact fuse2_computes (k := k) hn rfl rfl hk (atWord_lt hat)

end Sys2Proof.Machine
end

section
/-! PROOFS. STORE (R124 to R126, R132) and the rows of KV pages (R318, R319): the bytes that one write of a panel leaves, what a fold of such
writes leaves of local SRAM and of the buffers, and the bytes of a row in its page. -/

namespace Sys2Proof.Machine

/-! #### Byte tables -/

theorem tget_tsetList_getD {α : Type} [DecidableEq α] (d : α) (xs : List α) (t : Tab α) (n m : Nat) :
    tget d (tsetList d t n xs) m = if n ≤ m ∧ m < n + xs.length then xs.getD (m - n) d else tget d t m := by
  rw [tget_tsetList]
  split
  · rw [List.getD_eq_getElem?_getD, List.getElem?_eq_getElem (by omega), Option.getD_some]
  · rfl

/-- A fold that writes one value at consecutive keys. -/
theorem tget_foldl_tset_from {α : Type} [DecidableEq α] (dflt v : α) (off n : Nat) (t : Tab α) (k : Nat) :
    tget dflt ((upto n).foldl (fun t j => tset dflt t (off + j) v) t) k = if off ≤ k ∧ k < off + n then v else tget dflt t k := by
  have h := tget_foldl_tset dflt v ((upto n).map (off + ·)) t k
  rw [List.foldl_map] at h
  rw [h]
  congr 1
  simp only [upto, List.mem_map, List.mem_range, eq_iff_iff]
  constructor
  · rintro ⟨j, hj, rfl⟩
    omega
  · exact fun hk => ⟨k - off, by omega, by omega⟩

/-- A byte of a buffer after a write of bytes. -/
theorem bufByte_bufPut (p : Pkg) (n k off : Nat) (d : Bytes) (base : Nat → Int) (b j : Nat) :
    bufByte n b (bufOf (bufPut p n k off d base) n b) j =
      if b = k ∧ off ≤ j ∧ j < off + d.length then d.getD (j - off) 0 else bufByte n b (bufOf p n b) j := by
  by_cases hb : b = k
  · subst hb
    simp only [bufOf, bufPut, penOf_modPen_same, tget_tmod_same, bufByte, tget_foldl_tset_from, tget_tsetList_getD, true_and]
    by_cases hj : off ≤ j ∧ j < off + d.length
    · simp [hj]
    · simp only [if_neg hj]
      rfl
  · have hsame : bufOf (bufPut p n k off d base) n b = bufOf p n b := by
      simp only [bufOf, bufPut, penOf_modPen_same]
      exact tget_tmod_ne _ _ _ hb
    rw [hsame, if_neg (by tauto)]

/-! #### One write of a STORE -/

/-- The first byte that a STORE names. -/
def storeBase (w : Nat) : Nat := if wbit w 0 4 then 32 * wbits w 8 31 0 else 32 * wbits w 4 15 0

/-- A byte of the memory that a STORE writes: of its buffer, or of local SRAM. -/
def storeCell (p : Pkg) (a w k : Nat) : Byte :=
  if wbit w 0 4 then bufByte (penOfArr p a) (wbits w 4 27 16) (bufOf p (penOfArr p a) (wbits w 4 27 16)) k
  else tget 0 (arrOf p a).data.sram k

/-- What the writes of a STORE leave as it is. -/
structure StoreLeaves (p q : Pkg) (a w : Nat) : Prop extends SameRuns p q a where
  pen : penOfArr q a = penOfArr p a
  regs : SameRegs (arrOf p a).data (arrOf q a).data
  image : (penOf q (penOfArr p a)).image = (penOf p (penOfArr p a)).image
  sram : wbit w 0 4 = true → (arrOf q a).data.sram = (arrOf p a).data.sram
  bufs : wbit w 0 4 = false → (penOf q (penOfArr p a)).bufs = (penOf p (penOfArr p a)).bufs
  other : ∀ b k, b ≠ wbits w 4 27 16 → bufByte (penOfArr p a) b (bufOf q (penOfArr p a) b) k =
    bufByte (penOfArr p a) b (bufOf p (penOfArr p a) b) k

section Store
variable {p q r : Pkg} {a w : Nat}

theorem StoreLeaves.refl (p : Pkg) (a w : Nat) : StoreLeaves p p a w :=
  ⟨.of_arrays rfl, rfl, .refl _, rfl, fun _ => rfl, fun _ => rfl, fun _ _ _ => rfl⟩

theorem StoreLeaves.trans (h : StoreLeaves p q a w) (h' : StoreLeaves q r a w) : StoreLeaves p r a w := by
  refine ⟨h.toSameRuns.trans h'.toSameRuns, h'.pen.trans h.pen, h.regs.trans h'.regs, ?_, fun hw => (h'.sram hw).trans (h.sram hw),
    fun hw => ?_, fun b k hb => ?_⟩
  · rw [← h.image, ← h.pen, h'.image]
  · rw [← h.bufs hw, ← h.pen, h'.bufs hw]
  · have h1 := h'.other b k hb
    rw [h.pen] at h1
    exact h1.trans (h.other b k hb)

/-- A change that leaves the arrays, and the image and the buffers of the array's pen. -/
theorem StoreLeaves.of_pen (harr : q.arrays = p.arrays) (himage : (penOf q (penOfArr p a)).image = (penOf p (penOfArr p a)).image)
    (hbufs : (penOf q (penOfArr p a)).bufs = (penOf p (penOfArr p a)).bufs) : StoreLeaves p q a w where
  toSameRuns := .of_arrays harr
  pen := by rw [penOfArr, arrOf_congr harr, penOfArr]
  regs := by rw [arrOf_congr harr]; exact .refl _
  image := himage
  sram _ := by rw [arrOf_congr harr]
  bufs _ := hbufs
  other b k _ := by rw [bufOf, hbufs, bufOf]

theorem StoreLeaves.imageOf (h : StoreLeaves p q a w) : imageOf q (penOfArr p a) = imageOf p (penOfArr p a) := by
  unfold Machine.imageOf
  rw [h.image]

theorem StoreLeaves.storesKv (h : StoreLeaves p q a w) : storesKv q a w = storesKv p a w := by
  unfold Machine.storesKv
  rw [h.pen, h.imageOf]

theorem storeCell_of_pen (harr : q.arrays = p.arrays) (hbufs : (penOf q (penOfArr p a)).bufs = (penOf p (penOfArr p a)).bufs) (k : Nat) :
    storeCell q a w k = storeCell p a w k := by
  have hpen : penOfArr q a = penOfArr p a := by rw [penOfArr, arrOf_congr harr, penOfArr]
  simp only [storeCell, hpen, bufOf, hbufs, arrOf_congr harr]

theorem storeAt_buf (h : wbit w 0 4 = true) (off : Nat) (b : Bytes) (base : Int) :
    storeAt p a w off b base = bufPut p (penOfArr p a) (wbits w 4 27 16) (32 * wbits w 8 31 0 + off) b fun _ => base := if_pos h

theorem storeAt_sram (h : wbit w 0 4 = false) (off : Nat) (b : Bytes) (base : Int) :
    storeAt p a w off b base = modData p a fun d => sramPut d (32 * wbits w 4 15 0 + off) b fun _ => base := if_neg (by simp [h])

theorem storeAt_leaves (p : Pkg) (a w off : Nat) (b : Bytes) (base : Int) : StoreLeaves p (storeAt p a w off b base) a w := by
  cases h : wbit w 0 4
  · rw [storeAt_sram h]
    exact ⟨(SameRuns.of_arrays rfl).modData _, by simp [penOfArr, modData], by rw [modData_data]; exact sramPut_regs _ _ _ _, rfl,
      by simp [h], fun _ => rfl, fun _ _ _ => rfl⟩
  · rw [storeAt_buf h]
    refine ⟨.of_arrays rfl, rfl, .refl _, by simp [bufPut], fun _ => rfl, by simp [h], fun b' k hb => ?_⟩
    rw [bufByte_bufPut, if_neg (by tauto)]

theorem storeCell_storeAt (p : Pkg) (a w off : Nat) (b : Bytes) (base : Int) (k : Nat) :
    storeCell (storeAt p a w off b base) a w k =
      if storeBase w + off ≤ k ∧ k < storeBase w + off + b.length then b.getD (k - (storeBase w + off)) 0 else storeCell p a w k := by
  cases h : wbit w 0 4
  · simp only [storeAt_sram h, storeCell, storeBase, h, modData_data, sramPut, tget_tsetList_getD, Bool.false_eq_true, if_false]
  · have hpen : penOfArr (bufPut p (penOfArr p a) (wbits w 4 27 16) (32 * wbits w 8 31 0 + off) b fun _ => base) a = penOfArr p a := rfl
    simp only [storeAt_buf h, storeCell, storeBase, h, hpen, bufByte_bufPut, if_true, true_and]

theorem storeOwn_leaves (p : Pkg) (a w len : Nat) : StoreLeaves p (storeOwn p a w len) a w := by
  unfold storeOwn
  dsimp only
  split
  · exact .of_pen (by simp) (by simp [storedOver, modStep]) (by simp [storedOver, modStep])
  · exact .refl p a w

theorem storeCell_storeOwn (p : Pkg) (a w len k : Nat) : storeCell (storeOwn p a w len) a w k = storeCell p a w k := by
  unfold storeOwn
  dsimp only
  split
  · exact storeCell_of_pen (by simp) (by simp [storedOver, modStep]) k
  · rfl

end Store

/-- A fold whose step on one of its elements writes a place, and on every other leaves it. -/
theorem read_foldl_write {σ ν : Type} {read : σ → ν} {f : σ → Nat → σ} {Inv : σ → Prop} {l : List Nat} {r : Nat} {v : ν}
    (hinv : ∀ s i, Inv s → Inv (f s i)) (hread : ∀ s, ∀ i ∈ l, Inv s → read (f s i) = if i = r then v else read s) (s : σ) (h : Inv s) :
    read (l.foldl f s) = if r ∈ l then v else read s := by
  induction l generalizing s with
  | nil => simp
  | cons i l ih =>
    rw [List.foldl_cons, ih (fun s j hj => hread s j (.tail _ hj)) _ (hinv s i h), hread s i (.head _) h]
    by_cases hl : r ∈ l
    · simp [hl]
    · by_cases hi : i = r
      · simp [hi]
      · rw [if_neg hl, if_neg hi, if_neg (by simp [Ne.symm hi, hl])]

/-- A part of a fold's state that its steps change by themselves. -/
theorem proj_foldl {σ τ : Type} {π : σ → τ} {f : σ → Nat → σ} {g : τ → Nat → τ} {Inv : σ → Prop} {l : List Nat}
    (hinv : ∀ s i, Inv s → Inv (f s i)) (hstep : ∀ s i, Inv s → π (f s i) = g (π s) i) (s : σ) (h : Inv s) :
    π (l.foldl f s) = l.foldl g (π s) := by
  induction l generalizing s with
  | nil => rfl
  | cons i l ih => rw [List.foldl_cons, List.foldl_cons, ih _ (hinv s i h), hstep s i h]

/-- Segment i of the segments that follow a place holds a byte when the byte's distance from the place says so. -/
theorem in_segment_iff {b k s i : Nat} (hb : b ≤ k) (hs : 0 < s) : (b + i * s ≤ k ∧ k < b + i * s + s) ↔ i = (k - b) / s := by
  rw [eq_comm, Nat.div_eq_iff hs]
  constructor <;> rintro ⟨h1, h2⟩ <;> constructor <;> omega

theorem sub_segment {b k s i : Nat} (h : i = (k - b) / s) : k - (b + i * s) = (k - b) % s := by
  subst h
  have := Nat.div_add_mod' (k - b) s
  omega

/-! #### The rows of a panel -/

theorem packCodes_length (f : Nat) (codes : List Nat) : (packCodes f codes).length = segBytes f := toLE_length _ _

theorem chunks_eq {α : Type} {n : Nat} (hn : 0 < n) (k : Nat) {l : List α} (hl : l.length = n * k) :
    chunks n k l = (upto k).map fun b => (l.drop (n * b)).take n := by
  induction k generalizing l with
  | zero => rfl
  | succ k ih =>
    have hne : l.isEmpty = false := by
      rw [List.isEmpty_eq_false_iff, ← List.length_pos_iff, hl]
      positivity
    simp only [chunks, hne, Bool.false_eq_true, if_false]
    rw [ih (by rw [List.length_drop, hl, Nat.mul_succ, Nat.add_sub_cancel]), upto, upto, List.range_succ_eq_map]
    simp [Nat.mul_succ, Nat.add_comm]

theorem convertRow_seg_length (f s c : Nat) (b : Int) (dew : Bool) (vs : List (Option Word32)) :
    (convertRow f s c b dew vs).seg.length = segBytes f := by
  unfold convertRow
  split
  · exact packCodes_length f _
  · exact packCodes_length f _
  · dsimp only
    split <;> exact packCodes_length f _

theorem convertRow_scales_length {s : Nat} (hs : s ≠ 2) (f c : Nat) (b : Int) (dew : Bool) {vs : List (Option Word32)}
    (hvs : vs.length = 128) : (convertRow f s c b dew vs).scales.length = scBytes s := by
  unfold convertRow
  split
  · simp [rowS1, rowOut, scBytes, List.length_flatMap, Function.comp_def, chunks_eq (n := 32) (by omega) 4 hvs, upto]
  · simp [rowS3, rowOut, scBytes, zeros]
  · dsimp only
    have hsc : scBytes s = 0 := by
      unfold scBytes
      split <;> simp_all
    split <;> simp [rowOut, hsc]

/-- Row i of a STORE's panel. -/
def panelRow (d : ArrData) (x : Plane) (r : LRec) (n i : Nat) : RowOut :=
  convertRow r.oFmt r.oSch r.clip r.base r.dewclaw
    ((upto 128).map fun j => if j < n ∧ bitOf d.colMask j then some (fmul (accGet x i j) x.tscale) else none)

section Rows
variable {p : Pkg} {a w : Nat} {d : ArrData} {x : Plane} {r : LRec}

theorem panelRow_seg_length (n i : Nat) : (panelRow d x r n i).seg.length = segBytes r.oFmt := convertRow_seg_length _ _ _ _ _ _

theorem panelRow_scales_length (hs : r.oSch ≠ 2) (n i : Nat) : (panelRow d x r n i).scales.length = scBytes r.oSch :=
  convertRow_scales_length hs _ _ _ _ (by simp [upto])

theorem storeRow_panel (h : storesKv p a w = false) (i : Nat) :
    storeRow p a w i r x d =
      (storeAt (storeAt p a w (i * segBytes r.oFmt) (panelRow d x r (wN w) i).seg 0) a w (wM w * segBytes r.oFmt + i * scBytes r.oSch)
        (panelRow d x r (wN w) i).scales r.base, panelRow d x r (wN w) i) := by
  simp only [storeRow, h, Bool.false_eq_true, if_false]
  rfl

theorem storeRow_kv (h : storesKv p a w = true) (i : Nat) :
    storeRow p a w i r x d =
      (kvRow p (penOfArr p a) (32 * wbits w 8 31 0 + i * segBytes r.oFmt) (kvRowOf d x r (wN w) i), panelRow d x r (wN w) i) := by
  simp only [storeRow, h, if_true]
  rfl

/-- The image and the buffers of a pen. -/
def penStore (n : Nat) (p : Pkg) : Option Image × Tab Buf := ((penOf p n).image, (penOf p n).bufs)

theorem penStore_modPool (p : Pkg) (n m : Nat) (f : Pool → Pool) : penStore n (modPool p m f) = penStore n p := by
  unfold penStore modPool
  rw [penOf_modPen]
  split
  · subst_vars
    rfl
  · rfl

theorem penStore_modStep (p : Pkg) (n m : Nat) (f : Step → Step) : penStore n (modStep p m f) = penStore n p := by
  unfold penStore modStep
  rw [penOf_modPen]
  split
  · subst_vars
    rfl
  · rfl

theorem penStore_framePut (p : Pkg) (n m f off : Nat) (b : Bytes) : penStore n (framePut p m f off b) = penStore n p := penStore_modPool _ _ _ _
theorem penStore_countSat (p : Pkg) (n m k : Nat) : penStore n (countSat p m k) = penStore n p := penStore_modPool _ _ _ _

/-- A row of KV leaves the image and the buffers of every pen. -/
theorem penStore_kvRow (p : Pkg) (n m off : Nat) (vs : List Val) : penStore n (kvRow p m off vs) = penStore n p := by
  unfold kvRow
  dsimp only
  split
  · split
    · rfl
    · split
      · rfl
      · split
        · rfl
        · split
          · exact putV_keep (penStore n) _ _ _ _ _ _ _ _ (fun _ _ _ => rfl) (fun _ _ _ _ _ => penStore_framePut _ _ _ _ _ _)
              (fun _ _ _ => penStore_countSat _ _ _ _) fun _ _ _ => penStore_modStep _ _ _ _
          · unfold putK
            dsimp only
            split <;> simp only [penStore_countSat, penStore_framePut]
  · rfl

theorem kvRow_leaves (p : Pkg) (a w off : Nat) (vs : List Val) : StoreLeaves p (kvRow p (penOfArr p a) off vs) a w := by
  have h := penStore_kvRow p (penOfArr p a) (penOfArr p a) off vs
  exact .of_pen (by simp) (congrArg Prod.fst h) (congrArg Prod.snd h)

theorem storeRow_leaves (p : Pkg) (a w i : Nat) (r : LRec) (x : Plane) (d : ArrData) : StoreLeaves p (storeRow p a w i r x d).1 a w := by
  cases h : storesKv p a w
  · rw [storeRow_panel h]
    exact (storeAt_leaves _ _ _ _ _ _).trans (storeAt_leaves _ _ _ _ _ _)
  · rw [storeRow_kv h]
    exact kvRow_leaves _ _ _ _ _

/-- One more row of a STORE, with what its conversion counted. -/
def storeStep (a w : Nat) (r : LRec) (x : Plane) (d : ArrData) (acc : Pkg × List RowOut) (i : Nat) : Pkg × List RowOut :=
  ((storeRow acc.1 a w i r x d).1, acc.2 ++ [(storeRow acc.1 a w i r x d).2])

/-- The rows of a STORE. -/
def storeRows (p : Pkg) (a w : Nat) (r : LRec) (x : Plane) (d : ArrData) : Pkg × List RowOut :=
  (rowsIn d (wM w)).foldl (storeStep a w r x d) (p, [])

theorem storeRows_leaves (p : Pkg) (a w : Nat) (r : LRec) (x : Plane) (d : ArrData) : StoreLeaves p (storeRows p a w r x d).1 a w :=
  foldl_inv _ (P := fun acc : Pkg × List RowOut => StoreLeaves p acc.1 a w) (.refl p a w) fun _ _ h => h.trans (storeRow_leaves _ _ _ _ _ _ _)

/-- A byte after one row of a panel. -/
theorem storeCell_storeRow (h : storesKv p a w = false) (hs : r.oSch ≠ 2) (i k : Nat) :
    storeCell (storeRow p a w i r x d).1 a w k =
      if storeBase w + wM w * segBytes r.oFmt + i * scBytes r.oSch ≤ k ∧
          k < storeBase w + wM w * segBytes r.oFmt + i * scBytes r.oSch + scBytes r.oSch then
        (panelRow d x r (wN w) i).scales.getD (k - (storeBase w + wM w * segBytes r.oFmt + i * scBytes r.oSch)) 0
      else if storeBase w + i * segBytes r.oFmt ≤ k ∧ k < storeBase w + i * segBytes r.oFmt + segBytes r.oFmt then
        (panelRow d x r (wN w) i).seg.getD (k - (storeBase w + i * segBytes r.oFmt)) 0
      else storeCell p a w k := by
  rw [storeRow_panel h]
  simp only [storeCell_storeAt, panelRow_seg_length, panelRow_scales_length hs, Nat.add_assoc]

/-- A byte of a panel's elements. -/
theorem panelByte_seg {m n k : Nat} (hk : k < m * segBytes r.oFmt) (old : Byte) :
    panelByte d x r m n k old =
      if k / segBytes r.oFmt ∈ rowsIn d m then (panelRow d x r n (k / segBytes r.oFmt)).seg.getD (k % segBytes r.oFmt) 0 else old := by
  have hrow : k / segBytes r.oFmt < m := Nat.div_lt_of_lt_mul (by rwa [Nat.mul_comm])
  rw [panelByte, if_pos hk]
  simp only [mem_rowsIn, hrow, true_and]
  rfl

/-- A byte of a panel's scales. -/
theorem panelByte_scale {m n k : Nat} (h0 : m * segBytes r.oFmt ≤ k) (hk : k < m * segBytes r.oFmt + m * scBytes r.oSch) (old : Byte) :
    panelByte d x r m n k old =
      if (k - m * segBytes r.oFmt) / scBytes r.oSch ∈ rowsIn d m then
        (panelRow d x r n ((k - m * segBytes r.oFmt) / scBytes r.oSch)).scales.getD ((k - m * segBytes r.oFmt) % scBytes r.oSch) 0
      else old := by
  have hin : k - m * segBytes r.oFmt < m * scBytes r.oSch := by omega
  have hrow : (k - m * segBytes r.oFmt) / scBytes r.oSch < m := Nat.div_lt_of_lt_mul (hin.trans_eq (Nat.mul_comm _ _))
  rw [panelByte, if_neg (by omega), if_pos hk]
  simp only [mem_rowsIn, hrow, true_and]
  rfl

/-- A byte after the scales fills their area up to a whole unit. -/
theorem panelByte_pad {m n k : Nat} (hk : m * segBytes r.oFmt + m * scBytes r.oSch ≤ k) (old : Byte) : panelByte d x r m n k old = 0 := by
  rw [panelByte, if_neg (by omega), if_neg (by omega)]

/-- The segments of rows before the M-th end where the next ones start. -/
theorem segment_end_le {i m : Nat} (h : i < m) (s : Nat) : i * s + s ≤ m * s := by
  rw [← Nat.succ_mul]
  exact Nat.mul_le_mul_right _ h

theorem pos_of_lt_mul {k m s : Nat} (h : k < m * s) : 0 < s := Nat.pos_of_ne_zero fun h0 => by simp [h0] at h

/-- A byte after all rows of a panel. -/
theorem storeCell_storeRows (h : storesKv p a w = false) (hs : r.oSch ≠ 2) (k : Nat) :
    storeCell (storeRows p a w r x d).1 a w k =
      if storeBase w ≤ k ∧ k < storeBase w + wM w * segBytes r.oFmt + wM w * scBytes r.oSch then
        panelByte d x r (wM w) (wN w) (k - storeBase w) (storeCell p a w k)
      else storeCell p a w k := by
  have hwrites {v : Byte} {row : Nat} (hread : ∀ q : Pkg, ∀ i, i < wM w → storesKv q a w = false →
      storeCell (storeRow q a w i r x d).1 a w k = if i = row then v else storeCell q a w k) :
      storeCell (storeRows p a w r x d).1 a w k = if row ∈ rowsIn d (wM w) then v else storeCell p a w k :=
    read_foldl_write (f := storeStep a w r x d) (read := fun acc : Pkg × List RowOut => storeCell acc.1 a w k)
      (Inv := fun acc => storesKv acc.1 a w = false) (fun acc i hacc => (storeRow_leaves _ _ _ _ _ _ _).storesKv.trans hacc)
      (fun acc i hi hacc => hread acc.1 i (mem_rowsIn.mp hi).1 hacc) (p, []) h
  by_cases hseg : storeBase w ≤ k ∧ k < storeBase w + wM w * segBytes r.oFmt
  · have hk : k - storeBase w < wM w * segBytes r.oFmt := by omega
    have hin : storeBase w ≤ k ∧ k < storeBase w + wM w * segBytes r.oFmt + wM w * scBytes r.oSch := ⟨hseg.1, by omega⟩
    rw [if_pos hin, panelByte_seg hk]
    refine hwrites fun q i _ hq => ?_
    rw [storeCell_storeRow hq hs, if_neg (by omega), if_congr (in_segment_iff hseg.1 (pos_of_lt_mul hk)) rfl rfl]
    split
    · rename_i hrow
      rw [sub_segment hrow, ← hrow]
    · rfl
  by_cases hsc : storeBase w ≤ k ∧ k < storeBase w + wM w * segBytes r.oFmt + wM w * scBytes r.oSch
  · have hk : k - (storeBase w + wM w * segBytes r.oFmt) < wM w * scBytes r.oSch := by omega
    have hplace : storeBase w + wM w * segBytes r.oFmt ≤ k := by omega
    rw [if_pos hsc, panelByte_scale (by omega) (by omega), Nat.sub_sub]
    refine hwrites fun q i hi hq => ?_
    rw [storeCell_storeRow hq hs, if_congr (in_segment_iff hplace (pos_of_lt_mul hk)) rfl rfl]
    split
    · rename_i hrow
      rw [sub_segment hrow, ← hrow]
    · have := segment_end_le hi (segBytes r.oFmt)
      rw [if_neg (by omega)]
  · rw [if_neg hsc]
    refine (hwrites (row := wM w) (v := 0) fun q i hi hq => ?_).trans (if_neg (by simp [mem_rowsIn]))
    have := segment_end_le hi (segBytes r.oFmt)
    have := segment_end_le hi (scBytes r.oSch)
    rw [storeCell_storeRow hq hs, if_neg (by omega), if_neg (by omega), if_neg (by omega)]

/-- The rows of a STORE to the KV buffer, one after another. -/
theorem storeRows_kv (h : storesKv p a w = true) :
    (storeRows p a w r x d).1 = (rowsIn d (wM w)).foldl (fun q i =>
      kvRow q (penOfArr p a) (32 * wbits w 8 31 0 + i * segBytes r.oFmt) (kvRowOf d x r (wN w) i)) p := by
  refine proj_foldl (f := storeStep a w r x d) (π := Prod.fst) (Inv := fun acc => storesKv acc.1 a w = true ∧ penOfArr acc.1 a = penOfArr p a)
    (fun acc i hacc => ?_) (fun acc i hacc => ?_) (p, []) ⟨h, rfl⟩
  · have hrow := storeRow_leaves acc.1 a w i r x d
    exact ⟨hrow.storesKv.trans hacc.1, hrow.pen.trans hacc.2⟩
  · rw [storeStep, storeRow_kv hacc.1, hacc.2]

end Rows

/-! #### STORE of a plane -/

/-- The record of the layer that a STORE belongs to. -/
def storeRecord (p : Pkg) (a : Nat) : LRec :=
  recOf (imageOf p (penOfArr p a)) (stepNow p (penOfArr p a)) (wLayer (nextWord p a))

/-- The bytes that a STORE writes. -/
def storeLength (p : Pkg) (a : Nat) : Nat := panelBytes (wM (nextWord p a)) (storeRecord p a).oFmt (storeRecord p a).oSch

/-- The bytes that fill the scale area up to a whole unit. -/
def storePad (p : Pkg) (a : Nat) : Nat :=
  roundUp (wM (nextWord p a) * scBytes (storeRecord p a).oSch) 32 - wM (nextWord p a) * scBytes (storeRecord p a).oSch

/-- The package after the rows of a STORE. -/
def storedRows (p : Pkg) (a : Nat) : Pkg × List RowOut :=
  storeRows (storeOwn p a (nextWord p a) (storeLength p a)) a (nextWord p a) (storeRecord p a)
    (planeOf (arrOf p a).data (wbit (nextWord p a) 0 5)) (arrOf p a).data

/-- The package after the panel of a STORE. -/
def storePanel (p : Pkg) (a : Nat) : Pkg :=
  if storesKv p a (nextWord p a) ∨ storePad p a = 0 then (storedRows p a).1
  else storeAt (storedRows p a).1 a (nextWord p a) (wM (nextWord p a) * segBytes (storeRecord p a).oFmt +
    wM (nextWord p a) * scBytes (storeRecord p a).oSch) (zeros (storePad p a)) 0

/-- What STORE of a plane does: its panel, the summary of its layer, and the plane's counts taken. -/
theorem storeOp_eq (p : Pkg) (a : Nat) : ∃ (f : Step → Step) (y : Plane),
    storeOp p a = wordDone (modData (modStep (storePanel p a) (penOfArr p a) f) a fun e =>
      setPlane e (wbit (nextWord p a) 0 5) (uncounted y)) a ∧
      y.acc = (planeOf (arrOf p a).data (wbit (nextWord p a) 0 5)).acc ∧
        y.free = (planeOf (arrOf p a).data (wbit (nextWord p a) 0 5)).free :=
  ⟨_, countRows (planeOf (arrOf p a).data (wbit (nextWord p a) 0 5)) (storedRows p a).2, rfl, rfl, rfl⟩

theorem le_roundUp (a : Nat) {m : Nat} (hm : 0 < m) : a ≤ roundUp a m := by
  have hdm := Nat.div_add_mod (a + m - 1) m
  have hlt := Nat.mod_lt (a + m - 1) hm
  rw [roundUp, ceilDiv, if_neg hm.ne', Nat.mul_comm]
  omega

section StoreOp
variable (p : Pkg) (a : Nat)

theorem storedRows_leaves : StoreLeaves p (storedRows p a).1 a (nextWord p a) :=
  (storeOwn_leaves p a _ _).trans (storeRows_leaves _ _ _ _ _ _)

theorem storePanel_leaves : StoreLeaves p (storePanel p a) a (nextWord p a) := by
  unfold storePanel
  split
  · exact storedRows_leaves p a
  · exact (storedRows_leaves p a).trans (storeAt_leaves _ _ _ _ _ _)

variable {p a}

/-- A byte after a STORE's panel. -/
theorem storeCell_storePanel (h : storesKv p a (nextWord p a) = false) (hs : (storeRecord p a).oSch ≠ 2) (k : Nat) :
    storeCell (storePanel p a) a (nextWord p a) k =
      if storeBase (nextWord p a) ≤ k ∧ k < storeBase (nextWord p a) + storeLength p a then
        panelByte (arrOf p a).data (planeOf (arrOf p a).data (wbit (nextWord p a) 0 5)) (storeRecord p a) (wM (nextWord p a))
          (wN (nextWord p a)) (k - storeBase (nextWord p a)) (storeCell p a (nextWord p a) k)
      else storeCell p a (nextWord p a) k := by
  have hle := le_roundUp (wM (nextWord p a) * scBytes (storeRecord p a).oSch) (m := 32) (by omega)
  have hlen : storeLength p a = wM (nextWord p a) * segBytes (storeRecord p a).oFmt + wM (nextWord p a) * scBytes (storeRecord p a).oSch +
      storePad p a := by
    rw [storeLength, panelBytes, storePad]
    omega
  have hrows := storeCell_storeRows (x := planeOf (arrOf p a).data (wbit (nextWord p a) 0 5)) (d := (arrOf p a).data)
    ((storeOwn_leaves p a (nextWord p a) (storeLength p a)).storesKv.trans h) hs k
  rw [storeCell_storeOwn] at hrows
  change storeCell (storedRows p a).1 a (nextWord p a) k = _ at hrows
  have hpanel : storeCell (storePanel p a) a (nextWord p a) k =
      if storeBase (nextWord p a) + (wM (nextWord p a) * segBytes (storeRecord p a).oFmt + wM (nextWord p a) * scBytes (storeRecord p a).oSch) ≤ k ∧
          k < storeBase (nextWord p a) + (wM (nextWord p a) * segBytes (storeRecord p a).oFmt +
            wM (nextWord p a) * scBytes (storeRecord p a).oSch) + storePad p a then 0
      else storeCell (storedRows p a).1 a (nextWord p a) k := by
    unfold storePanel
    split
    · rename_i hpad
      have hpad : storePad p a = 0 := by simpa [h] using hpad
      rw [if_neg (by omega)]
    · rw [storeCell_storeAt]
      simp [zeros]
  rw [hpanel, hrows]
  by_cases hpad : storeBase (nextWord p a) + (wM (nextWord p a) * segBytes (storeRecord p a).oFmt +
      wM (nextWord p a) * scBytes (storeRecord p a).oSch) ≤ k
  · by_cases hend : k < storeBase (nextWord p a) + storeLength p a
    · rw [if_pos ⟨hpad, by omega⟩, if_pos ⟨by omega, hend⟩, panelByte_pad (by omega)]
    · rw [if_neg (by omega), if_neg (by omega), if_neg (by omega)]
  · rw [if_neg (by omega)]
    by_cases hin : storeBase (nextWord p a) ≤ k
    · rw [if_pos ⟨hin, by omega⟩, if_pos ⟨hin, by omega⟩]
    · rw [if_neg (by omega), if_neg (by omega)]

/-- A STORE to the KV buffer fills no panel: its rows go to pages. -/
theorem storePanel_kv (h : storesKv p a (nextWord p a) = true) :
    storePanel p a = (rowsIn (arrOf p a).data (wM (nextWord p a))).foldl (fun q i =>
      kvRow q (penOfArr p a) (32 * wbits (nextWord p a) 8 31 0 + i * segBytes (storeRecord p a).oFmt)
        (kvRowOf (arrOf p a).data (planeOf (arrOf p a).data (wbit (nextWord p a) 0 5)) (storeRecord p a) (wN (nextWord p a)) i))
      (storeOwn p a (nextWord p a) (storeLength p a)) := by
  have hown := storeOwn_leaves p a (nextWord p a) (storeLength p a)
  rw [storePanel, if_pos (.inl h), storedRows, storeRows_kv (hown.storesKv.trans h), hown.pen]

theorem storesKv_external {w : Nat} (h : storesKv p a w = true) : wbit w 0 4 = true := by
  rw [storesKv, Bool.and_eq_true] at h
  exact h.1

/-- The rows of a STORE to the KV buffer leave every buffer. -/
theorem storePanel_kv_bufs (h : storesKv p a (nextWord p a) = true) :
    (penOf (storePanel p a) (penOfArr p a)).bufs = (penOf p (penOfArr p a)).bufs := by
  have hown : (penOf (storeOwn p a (nextWord p a) (storeLength p a)) (penOfArr p a)).bufs = (penOf p (penOfArr p a)).bufs := by
    simp [storeOwn, storesKv_external h, storedOver, modStep]
  rw [storePanel_kv h, ← hown]
  exact foldl_inv _ (P := fun q => (penOf q (penOfArr p a)).bufs = (penOf (storeOwn p a (nextWord p a) (storeLength p a)) (penOfArr p a)).bufs)
    rfl fun q i hq => (congrArg Prod.snd (penStore_kvRow q (penOfArr p a) _ _ _)).trans hq

end StoreOp

theorem penOf_wordDone (p : Pkg) (a n : Nat) : penOf (wordDone p a) n = penOf p n := rfl
theorem penOf_modData (p : Pkg) (a n : Nat) (f : ArrData → ArrData) : penOf (modData p a f) n = penOf p n := rfl

theorem accGet_uncounted {x y : Plane} (ha : y.acc = x.acc) (hf : y.free = x.free) (i j : Nat) : accGet (uncounted y) i j = accGet x i j :=
  accGet_congr ha hf i j

/-- STORE of a plane: what it leaves of the array and of the pen. -/
structure StoreDone (p q : Pkg) (a : Nat) : Prop where
  goesOn : goesOn p q a
  planes : ∀ pl i j, accGet (planeOf (arrOf q a).data pl) i j = accGet (planeOf (arrOf p a).data pl) i j
  conv : (planeOf (arrOf q a).data (wbit (nextWord p a) 0 5)).conv = 0
  sat : (planeOf (arrOf q a).data (wbit (nextWord p a) 0 5)).sat = 0
  sram : (arrOf q a).data.sram = (arrOf (storePanel p a) a).data.sram
  pool : (penOf q (penOfArr p a)).pool = (penOf (storePanel p a) (penOfArr p a)).pool
  bufs : (penOf q (penOfArr p a)).bufs = (penOf (storePanel p a) (penOfArr p a)).bufs
  reqs : q.reqs = (storePanel p a).reqs

theorem storeOp_done {p : Pkg} {a : Nat} (hlt : (arrOf p a).active < (arrOf p a).runs.length) : StoreDone p (storeOp p a) a := by
  obtain ⟨f, y, hop, hacc, hfree⟩ := storeOp_eq p a
  have hleaves := storePanel_leaves p a
  have hdata : (arrOf (storeOp p a) a).data = setPlane (arrOf (storePanel p a) a).data (wbit (nextWord p a) 0 5) (uncounted y) := by
    rw [hop, wordDone_data, modData_data]
    rfl
  have hother : planeOf (arrOf (storeOp p a) a).data (!wbit (nextWord p a) 0 5) = planeOf (arrOf p a).data (!wbit (nextWord p a) 0 5) := by
    rw [hdata, planeOf_setPlane_other, hleaves.regs.planeOf]
  refine ⟨?_, fun pl i j => ?_, ?_, ?_, ?_, ?_, ?_, ?_⟩
  · rw [hop]
    exact ((hleaves.toSameRuns.trans (.of_arrays (by simp))).modData _).goesOn hlt
  · by_cases hpl : pl = wbit (nextWord p a) 0 5
    · rw [hpl, hdata, planeOf_setPlane_same, accGet_uncounted hacc hfree]
    · rw [Bool.eq_not.mpr hpl, hother]
  · rw [hdata, planeOf_setPlane_same]
    rfl
  · rw [hdata, planeOf_setPlane_same]
    rfl
  · rw [hdata]
    cases wbit (nextWord p a) 0 5 <;> rfl
  · rw [hop, penOf_wordDone, penOf_modData, modStep, penOf_modPen_same]
  · rw [hop, penOf_wordDone, penOf_modData, modStep, penOf_modPen_same]
  · rw [hop]
    simp [wordDone]

/-! #### STORE of the row state -/

theorem length_flatMap_upto {α : Type} {s m : Nat} {f : Nat → List α} (hf : ∀ i < m, (f i).length = s) :
    ((upto m).flatMap f).length = m * s := by
  rw [List.length_flatMap, upto, List.map_congr_left (g := fun _ => s) fun i hi => hf i (List.mem_range.mp hi)]
  simp

/-- An element of parts of one length, one after another. -/
theorem getD_flatMap_upto {α : Type} {s m k : Nat} {f : Nat → List α} (hf : ∀ i < m, (f i).length = s) (dflt : α) (hk : k < m * s) :
    ((upto m).flatMap f).getD k dflt = (f (k / s)).getD (k % s) dflt := by
  have hs : 0 < s := pos_of_lt_mul hk
  induction m with
  | zero => omega
  | succ m ih =>
    have hsplit : (upto (m + 1)).flatMap f = (upto m).flatMap f ++ f m := by simp [upto, List.range_succ]
    have hlen := length_flatMap_upto fun i (hi : i < m) => hf i (by omega)
    rw [hsplit]
    by_cases hlt : k < m * s
    · rw [List.getD_append _ _ _ _ (by omega), ih (fun i hi => hf i (by omega)) hlt]
    · have hrow : m = k / s := by
        rw [eq_comm, Nat.div_eq_iff hs]
        rw [Nat.succ_mul] at hk
        omega
      have hmod : k - m * s = k % s := by
        have := Nat.div_add_mod' k s
        subst hrow
        omega
      rw [List.getD_append_right _ _ _ _ (by omega), hlen, hmod, ← hrow]

/-- The 8 bytes of a row's state (R125). -/
def rowStateBytes (d : ArrData) (i : Nat) : Bytes := toLE 4 (tget fNegInf d.rowM i).toNat ++ toLE 4 (tget 0 d.rowL i).toNat

theorem rowStateBytes_length (d : ArrData) (i : Nat) : (rowStateBytes d i).length = 8 := by simp [rowStateBytes]

/-- The package after the rows' states. -/
def storeStates (p : Pkg) (a : Nat) : Pkg :=
  (rowsIn (arrOf p a).data (wM (nextWord p a))).foldl
    (fun q i => storeAt q a (nextWord p a) (8 * i) (rowStateBytes (arrOf p a).data i) 0) (storeOwn p a (nextWord p a) (8 * wM (nextWord p a)))

theorem storeRowOp_eq (p : Pkg) (a : Nat) : storeRowOp p a = wordDone (storeStates p a) a := rfl

theorem storeStates_leaves (p : Pkg) (a : Nat) : StoreLeaves p (storeStates p a) a (nextWord p a) :=
  foldl_inv _ (P := fun q => StoreLeaves p q a (nextWord p a)) (storeOwn_leaves p a _ _) fun _ _ h => h.trans (storeAt_leaves _ _ _ _ _ _)

theorem storeCell_storeStates (p : Pkg) (a k : Nat) :
    storeCell (storeStates p a) a (nextWord p a) k =
      if storeBase (nextWord p a) ≤ k ∧ k < storeBase (nextWord p a) + 8 * wM (nextWord p a) ∧
          bitOf (arrOf p a).data.rowMask ((k - storeBase (nextWord p a)) / 8) = true then
        ((upto (wM (nextWord p a))).flatMap (rowStateBytes (arrOf p a).data)).getD (k - storeBase (nextWord p a)) 0
      else storeCell p a (nextWord p a) k := by
  have hwrites {v : Byte} {row : Nat} (hread : ∀ q : Pkg, ∀ i, i < wM (nextWord p a) →
      storeCell (storeAt q a (nextWord p a) (8 * i) (rowStateBytes (arrOf p a).data i) 0) a (nextWord p a) k =
        if i = row then v else storeCell q a (nextWord p a) k) :
      storeCell (storeStates p a) a (nextWord p a) k =
        if row ∈ rowsIn (arrOf p a).data (wM (nextWord p a)) then v else storeCell p a (nextWord p a) k := by
    rw [← storeCell_storeOwn p a (nextWord p a) (8 * wM (nextWord p a)) k]
    exact read_foldl_write (read := fun q => storeCell q a (nextWord p a) k) (Inv := fun _ => True) (fun _ _ _ => trivial)
      (fun q i hi _ => hread q i (mem_rowsIn.mp hi).1) _ trivial
  by_cases hb : storeBase (nextWord p a) ≤ k
  · refine (hwrites (row := (k - storeBase (nextWord p a)) / 8)
      (v := (rowStateBytes (arrOf p a).data ((k - storeBase (nextWord p a)) / 8)).getD ((k - storeBase (nextWord p a)) % 8) 0)
      fun q i _ => ?_).trans ?_
    · rw [storeCell_storeAt, rowStateBytes_length, Nat.mul_comm 8 i, if_congr (in_segment_iff hb (by omega)) rfl rfl]
      split
      · rename_i hrow
        rw [sub_segment hrow, ← hrow]
      · rfl
    · simp only [mem_rowsIn]
      by_cases hin : k < storeBase (nextWord p a) + 8 * wM (nextWord p a)
      · rw [getD_flatMap_upto (fun i _ => rowStateBytes_length _ i) 0 (by omega)]
        have hrow : (k - storeBase (nextWord p a)) / 8 < wM (nextWord p a) := by omega
        simp only [hb, hin, hrow, true_and]
      · rw [if_neg (by omega), if_neg (by omega)]
  · rw [if_neg (by omega)]
    refine (hwrites (row := wM (nextWord p a)) (v := 0) fun q i hi => ?_).trans (if_neg (by simp [mem_rowsIn]))
    rw [storeCell_storeAt, if_neg (by omega), if_neg (by omega)]

/-! #### The memories that a STORE names -/

section Memory
variable {p q : Pkg} {a w : Nat}

theorem storeCell_sram (h : wbit w 0 4 = false) (k : Nat) : storeCell p a w k = tget 0 (arrOf p a).data.sram k := if_neg (by simp [h])
theorem storeCell_buf (h : wbit w 0 4 = true) (k : Nat) :
    storeCell p a w k = bufByte (penOfArr p a) (wbits w 4 27 16) (bufOf p (penOfArr p a) (wbits w 4 27 16)) k := if_pos h
theorem storeBase_sram (h : wbit w 0 4 = false) : storeBase w = 32 * wbits w 4 15 0 := if_neg (by simp [h])
theorem storeBase_buf (h : wbit w 0 4 = true) : storeBase w = 32 * wbits w 8 31 0 := if_pos h

end Memory

/-- STORE of a plane, with the memory it writes. -/
theorem store_computes {p : Pkg} {a : Nat} (hlt : (arrOf p a).active < (arrOf p a).runs.length) (hs : (storeRecord p a).oSch ≠ 2) :
    let q := storeOp p a
    let w := nextWord p a
    let n := penOfArr p a
    let d := (arrOf p a).data
    let x := planeOf d (wbit w 0 5)
    let at_ := 32 * wbits w 8 31 0
    let sat_ := 32 * wbits w 4 15 0
    (wbit w 0 4 = false →
      (∀ k, tget 0 (arrOf q a).data.sram k =
        if sat_ ≤ k ∧ k < sat_ + storeLength p a then panelByte d x (storeRecord p a) (wM w) (wN w) (k - sat_) (tget 0 d.sram k)
        else tget 0 d.sram k) ∧
      (penOf q n).bufs = (penOf p n).bufs) ∧
    (wbit w 0 4 = true → (arrOf q a).data.sram = d.sram) ∧
    (wbit w 0 4 = true → storesKv p a w = false → ∀ b k, bufByte n b (bufOf q n b) k =
      if b = wbits w 4 27 16 ∧ at_ ≤ k ∧ k < at_ + storeLength p a then
        panelByte d x (storeRecord p a) (wM w) (wN w) (k - at_) (bufByte n b (bufOf p n b) k)
      else bufByte n b (bufOf p n b) k) ∧
    (storesKv p a w = true →
      let done := (rowsIn d (wM w)).foldl (fun o i => kvRow o n (at_ + i * segBytes (storeRecord p a).oFmt)
        (kvRowOf d x (storeRecord p a) (wN w) i)) (storeOwn p a w (storeLength p a))
      (penOf q n).pool = (penOf done n).pool ∧ q.reqs = done.reqs ∧ (penOf q n).bufs = (penOf p n).bufs) := by
  dsimp only
  have hdone := storeOp_done hlt
  have hleaves := storePanel_leaves p a
  refine ⟨fun h => ⟨fun k => ?_, ?_⟩, fun h => ?_, fun h hkv b k => ?_, fun hkv => ?_⟩
  · have hkv : storesKv p a (nextWord p a) = false := by simp [storesKv, h]
    have hcell := storeCell_storePanel hkv hs k
    simp only [storeCell_sram h, storeBase_sram h] at hcell
    rw [hdone.sram]
    exact hcell
  · exact hdone.bufs.trans (hleaves.bufs h)
  · exact hdone.sram.trans (hleaves.sram h)
  · have hbuf : bufOf (storeOp p a) (penOfArr p a) b = bufOf (storePanel p a) (penOfArr p a) b := by rw [bufOf, hdone.bufs, bufOf]
    rw [hbuf]
    by_cases hb : b = wbits (nextWord p a) 4 27 16
    · subst hb
      have hcell := storeCell_storePanel hkv hs k
      simp only [storeCell_buf h, storeBase_buf h, hleaves.pen] at hcell
      simp only [true_and]
      exact hcell
    · rw [if_neg (by tauto)]
      exact hleaves.other b k hb
  · have hrows := storePanel_kv hkv
    exact ⟨hdone.pool.trans (congrArg (fun r : Pkg => (penOf r (penOfArr p a)).pool) hrows), hdone.reqs.trans (congrArg Pkg.reqs hrows),
      hdone.bufs.trans (storePanel_kv_bufs hkv)⟩

theorem storeRowstate_computes {p : Pkg} {a : Nat} (hlt : (arrOf p a).active < (arrOf p a).runs.length) :
    let q := storeRowOp p a
    let w := nextWord p a
    let n := penOfArr p a
    let d := (arrOf p a).data
    let row : Bytes := (upto (wM w)).flatMap (rowStateBytes d)
    let at_ := 32 * wbits w 8 31 0
    let sat_ := 32 * wbits w 4 15 0
    goesOn p q a ∧
      (wbit w 0 4 = false → (∀ k, tget 0 (arrOf q a).data.sram k =
          if sat_ ≤ k ∧ k < sat_ + 8 * wM w ∧ bitOf d.rowMask ((k - sat_) / 8) = true then row.getD (k - sat_) 0 else tget 0 d.sram k) ∧
        (penOf q n).bufs = (penOf p n).bufs) ∧
      (wbit w 0 4 = true → (arrOf q a).data.sram = d.sram ∧ ∀ b k, bufByte n b (bufOf q n b) k =
          if b = wbits w 4 27 16 ∧ at_ ≤ k ∧ k < at_ + 8 * wM w ∧ bitOf d.rowMask ((k - at_) / 8) = true then row.getD (k - at_) 0
          else bufByte n b (bufOf p n b) k) := by
  dsimp only
  have hleaves := storeStates_leaves p a
  have hdata : (arrOf (storeRowOp p a) a).data = (arrOf (storeStates p a) a).data := by
    rw [storeRowOp_eq, wordDone_data]
  refine ⟨hleaves.goesOn hlt, fun h => ⟨fun k => ?_, hleaves.bufs h⟩, fun h => ⟨?_, fun b k => ?_⟩⟩
  · have hcell := storeCell_storeStates p a k
    simp only [storeCell_sram h, storeBase_sram h] at hcell
    rw [hdata]
    exact hcell
  · rw [hdata]
    exact hleaves.sram h
  · by_cases hb : b = wbits (nextWord p a) 4 27 16
    · subst hb
      have hcell := storeCell_storeStates p a k
      simp only [storeCell_buf h, storeBase_buf h, hleaves.pen] at hcell
      simp only [true_and]
      exact hcell
    · rw [if_neg (by tauto)]
      exact hleaves.other b k hb

/-! #### Codes of E2M1 (Table 3-2) -/

theorem rneShift_le {m b : Nat} {s : Int} (h : if 0 < s then m ≤ b * 2 ^ s.natAbs else m * 2 ^ s.natAbs ≤ b) : rneShift m s ≤ b := by
  unfold rneShift
  by_cases hs : 0 < s
  · rw [if_pos hs] at h
    rw [if_neg (by omega)]
    have hd : 0 < 2 ^ s.natAbs := by positivity
    have hdm := Nat.div_add_mod' m (2 ^ s.natAbs)
    have hq : m / 2 ^ s.natAbs ≤ b := Nat.div_le_of_le_mul (by rwa [Nat.mul_comm])
    dsimp only
    split
    · have hlt : m / 2 ^ s.natAbs < b := by
        refine lt_of_le_of_ne hq fun heq => ?_
        rw [heq] at hdm
        omega
      omega
    · exact hq
  · rw [if_neg hs] at h
    rw [if_pos (by omega)]
    exact h

theorem rneShift_nat_le {m b k : Nat} (h : m ≤ b * 2 ^ k) : rneShift m k ≤ b := by
  refine rneShift_le ?_
  obtain _ | k := k
  · simpa using h
  · rw [if_pos (by omega)]
    exact h

/-- A magnitude of at most 6 rounds to a code of at most 7 in E2M1. -/
theorem roundCode_e2m1_le {m : Nat} {e : Int} (h : magGt m e 3 1 = false) : roundCode fmtE2M1 m e ≤ 7 := by
  unfold roundCode
  split
  · omega
  rename_i hm
  have hlo := Nat.log2_self_le hm
  have hhi : m < 2 ^ (Nat.log2 m + 1) := Nat.lt_log2_self
  generalize Nat.log2 m = l at *
  have heMin : eMin fmtE2M1 = -1 := rfl
  have hmb : fmtE2M1.mb = 1 := rfl
  simp only [heMin, hmb, pow_one, Nat.cast_one, sub_neg_eq_add]
  simp only [magGt, decide_eq_false_iff_not, not_lt, gt_iff_lt] at h
  have hcode {q s : Int} {b : Nat} (hq : max (e + l - 1) (-1) = q) (hs : q - e = s) (hb : rneShift m s ≤ b) (hc : b + (q + 1).toNat * 2 ≤ 7) :
      rneShift m (max (e + l - 1) (-1) - e) + (max (e + l - 1) (-1) + 1).toNat * 2 ≤ 7 := by
    rw [hq, hs]
    exact (Nat.add_le_add_right hb _).trans hc
  by_cases he : e ≤ 1
  · obtain ⟨k, rfl⟩ : ∃ k : Nat, e = 1 - k := ⟨(1 - e).toNat, by omega⟩
    have hmk : m ≤ 3 * 2 ^ k := by
      have h1 : (1 - (k : Int) - min (1 - (k : Int)) 1).toNat = 0 := by omega
      have h2 : ((1 : Int) - min (1 - (k : Int)) 1).toNat = k := by omega
      rwa [h1, h2, pow_zero, Nat.mul_one] at h
    have hl : l ≤ k + 1 := by
      by_contra hlt
      have hpow : 2 ^ (k + 2) ≤ 2 ^ l := Nat.pow_le_pow_right (by omega) (by omega)
      have hpos : 0 < 2 ^ k := by positivity
      rw [pow_add] at hpow
      omega
    rcases Nat.lt_trichotomy l k with hlk | rfl | hlk
    · refine hcode (q := -1) (s := (k : Int) - 2) (b := 4) (by omega) (by omega) ?_ (by decide)
      have hpow : 2 ^ (l + 1) ≤ 2 ^ k := Nat.pow_le_pow_right (by omega) hlk
      obtain _ | _ | k := k
      · omega
      · refine rneShift_le ?_
        simp at hpow ⊢
        omega
      · rw [show ((k + 1 + 1 : Nat) : Int) - 2 = k by omega]
        refine rneShift_nat_le ?_
        rw [pow_add, pow_add] at hpow
        omega
    · refine hcode (q := 0) (s := (l : Int) - 1) (b := 4) (by omega) (by omega) ?_ (by decide)
      obtain _ | l := l
      · refine rneShift_le ?_
        simp at hhi ⊢
        omega
      · rw [show ((l + 1 : Nat) : Int) - 1 = l by omega]
        refine rneShift_nat_le ?_
        rw [pow_add, pow_add] at hhi
        omega
    · exact hcode (q := 1) (s := k) (b := 3) (by omega) (by omega) (rneShift_nat_le hmk) (by decide)
  · obtain ⟨k, rfl⟩ : ∃ k : Nat, e = 2 + k := ⟨(e - 2).toNat, by omega⟩
    have h1 : (2 + (k : Int) - min (2 + (k : Int)) 1).toNat = k + 1 := by omega
    have h2 : ((1 : Int) - min (2 + (k : Int)) 1).toNat = 0 := by omega
    rw [h1, h2, pow_zero, Nat.mul_one, pow_succ] at h
    have hk : k = 0 := by
      by_contra hk
      have hpow : 2 ^ 1 ≤ 2 ^ k := Nat.pow_le_pow_right (by omega) (by omega)
      nlinarith [Nat.pos_of_ne_zero hm]
    subst hk
    have hm1 : m = 1 := by omega
    subst hm1
    have hl0 : l = 0 := by
      by_contra hl
      have hpow : 2 ^ 1 ≤ 2 ^ l := Nat.pow_le_pow_right (by omega) (by omega)
      omega
    subst hl0
    decide

/-- A code of E2M1 takes four bits. -/
theorem convertFp_e2m1_lt (v : Val) : (convertFp fmtE2M1 v).code < 16 := by
  cases v with
  | nan => decide
  | inf n => cases n <;> decide
  | fin n m e =>
    have hsign (c : Nat) (hc : c ≤ 7) : c + (if n then 2 ^ (fmtE2M1.eb + fmtE2M1.mb) else 0) < 16 := by
      have hbit : 2 ^ (fmtE2M1.eb + fmtE2M1.mb) = 8 := by decide
      rw [hbit]
      split <;> omega
    have hmax : decodeFp fmtE2M1 (maxCode fmtE2M1) = .fin false 3 1 := by decide
    simp only [convertFp, hmax]
    split
    · exact hsign 0 (by omega)
    · split
      · exact hsign _ (by decide)
      · rename_i hgt
        exact hsign _ (roundCode_e2m1_le (Bool.eq_false_iff.mpr hgt))

/-- A block of E2M1 has a code for each value, of four bits. -/
theorem quantBlock_codes_length (vs : List Val) : (quantBlock vs).1.length = vs.length := by simp [quantBlock]

theorem quantBlock_codes_lt (vs : List Val) : ∀ c ∈ (quantBlock vs).1, c < 16 := by
  intro c hc
  simp only [quantBlock, List.map_map, List.mem_map] at hc
  obtain ⟨v, -, rfl⟩ := hc
  exact convertFp_e2m1_lt _

/-! #### Codes of four bits in their bytes (R75, R76) -/

theorem getD_toLE {n k : Nat} (h : k < n) (v : Nat) : (toLE n v).getD k 0 = BitVec.ofNat 8 (v / 256 ^ k) := by
  induction n generalizing k v with
  | zero => omega
  | succ n ih =>
    obtain _ | k := k
    · simp [toLE]
    · rw [toLE, List.getD_cons_succ, ih (by omega), Nat.div_div_eq_div_mul, pow_succ, Nat.mul_comm 256]

theorem leNat_take_mod (l : Bytes) {n : Nat} (hn : 0 < n) : leNat (l.take n) % 256 = (l.getD 0 0).toNat := by
  obtain _ | n := n
  · omega
  · cases l with
    | nil => rfl
    | cons b l =>
      have hb : b.toNat < 256 := b.isLt
      rw [List.take_succ_cons, leNat, List.getD_cons_zero]
      omega

/-- A code of four bits is a half of its byte. -/
theorem elCode_e2m1 (seg : Bytes) (i : Nat) : elCode 7 seg i = (seg.getD (i / 2) 0).toNat / 16 ^ (i % 2) % 16 := by
  have hbyte := leNat_take_mod (seg.drop (i / 2)) (n := 4) (by omega)
  rw [List.getD_eq_getElem?_getD, List.getElem?_drop, Nat.add_zero, ← List.getD_eq_getElem?_getD] at hbyte
  have hplace : 4 * i / 8 = i / 2 := by omega
  simp only [elCode, elBits, bitsOf, fieldAt, hplace, Nat.reduceEqDiff, if_false]
  rw [← hbyte]
  generalize leNat _ = x
  rcases Nat.mod_two_eq_zero_or_one i with h | h
  · rw [show 4 * i % 8 = 0 by omega, h]
    simp
  · rw [show 4 * i % 8 = 4 by omega, h]
    simp
    omega

/-- The digits of a number whose digits are given. -/
theorem foldr_digit {codes : List Nat} (h : ∀ c ∈ codes, c < 16) (i : Nat) :
    codes.foldr (fun c acc => acc * 16 + c) 0 / 16 ^ i % 16 = codes.getD i 0 := by
  induction codes generalizing i with
  | nil => simp
  | cons c codes ih =>
    have hc := h c (.head _)
    have htail := ih fun x hx => h x (.tail _ hx)
    obtain _ | i := i
    · simp
      omega
    · rw [List.foldr_cons, List.getD_cons_succ, ← htail i, pow_succ', ← Nat.div_div_eq_div_mul]
      congr 2
      omega

/-- A code of a packed row of E2M1. -/
theorem elCode_packCodes_e2m1 {codes : List Nat} (h : ∀ c ∈ codes, c < 16) {i : Nat} (hi : i < 128) :
    elCode 7 (packCodes 7 codes) i = codes.getD i 0 := by
  have hseg : segBytes 7 = 64 := rfl
  have hbits : 2 ^ elBits 7 = 16 := rfl
  rw [elCode_e2m1, packCodes, hseg, hbits, getD_toLE (by omega), BitVec.toNat_ofNat, ← foldr_digit h i]
  generalize codes.foldr _ 0 = v
  have h256 : 256 ^ (i / 2) = 16 ^ (2 * (i / 2)) := by
    rw [pow_mul]
    norm_num
  rcases Nat.mod_two_eq_zero_or_one i with h0 | h1
  · rw [h0, h256, show 2 * (i / 2) = i by omega]
    omega
  · rw [h1, h256]
    have hsplit : 16 ^ i = 16 ^ (2 * (i / 2)) * 16 := by
      rw [← pow_succ]
      congr 1
      omega
    rw [hsplit, ← Nat.div_div_eq_div_mul]
    omega

/-! #### Bytes of a frame (R319) -/

section Frame
variable {n : Nat}

theorem frameByte_framePut (p : Pkg) (n f off : Nat) (b : Bytes) (m k : Nat) :
    frameByte (framePut p n f off b) n m k =
      if m = f ∧ off ≤ k ∧ k < off + b.length then b.getD (k - off) 0 else frameByte p n m k := by
  simp only [frameByte, framePut, poolOf_modPool, if_true, tget_tmod]
  by_cases hm : m = f
  · subst hm
    simp only [if_true, tget_tsetList_getD, true_and]
  · simp only [hm, false_and, if_false]

/-- The bytes of the frames of a pen are a matter of its pool's frames. -/
theorem frameByte_congr {p q : Pkg} (h : (poolOf q n).tab = (poolOf p n).tab) (m k : Nat) : frameByte q n m k = frameByte p n m k := by
  simp only [frameByte, h]

theorem frameByte_countSat (p : Pkg) (n j m k : Nat) : frameByte (countSat p n j) n m k = frameByte p n m k :=
  frameByte_congr (by simp [countSat, poolOf_modPool]) m k

theorem frameByte_modReq (p : Pkg) (n e : Nat) (f : Req → Req) (m k : Nat) : frameByte (modReq p e f) n m k = frameByte p n m k := rfl

theorem frameByte_modStep (p : Pkg) (n : Nat) (f : Step → Step) (m k : Nat) : frameByte (modStep p n f) n m k = frameByte p n m k :=
  frameByte_congr (by simp [poolOf, modStep]) m k

end Frame

theorem zip_upto {α : Type} (l : List α) (m : Nat) (dflt : α) :
    l.zip (upto m) = (upto (min l.length m)).map fun c => (l.getD c dflt, c) := by
  refine List.ext_getElem (by simp [upto]) fun i h1 h2 => ?_
  have hi : i < l.length := by
    simp at h1
    exact h1.1
  simp [upto, List.getD_eq_getElem?_getD, List.getElem?_eq_getElem hi]

section Pages
variable {p : Pkg} {i : Image} {e n f tok panel : Nat} {h : HeadAt} {vs : List Val}

/-- A row of K in any format but E2M1. -/
theorem frameByte_putK (hk : i.kvK ≠ 7) (k : Nat) :
    frameByte (putK p i n f h panel tok vs) n f k =
      if h.off + panel * (pageTokens (penOf p n).compat * 128) + tok % pageTokens (penOf p n).compat * 128 ≤ k ∧
          k < h.off + panel * (pageTokens (penOf p n).compat * 128) + tok % pageTokens (penOf p n).compat * 128 + vs.length then
        BitVec.ofNat 8 (convertFp fmtE4M3 (vs.getD
          (k - (h.off + panel * (pageTokens (penOf p n).compat * 128) + tok % pageTokens (penOf p n).compat * 128)) (.fin false 0 0))).code
      else frameByte p n f k := by
  simp only [putK, if_neg hk, frameByte_countSat, frameByte_framePut, true_and, List.length_map]
  split
  · rename_i hin
    simp only [List.getD_eq_getElem?_getD, List.getElem?_map, Option.map_map]
    rw [List.getElem?_eq_getElem (by omega)]
    rfl
  · rfl

/-- The blocks of a row of K in E2M1. -/
def kBlock (vs : List Val) (b : Nat) : List Nat × Nat × Nat := quantBlock ((vs.drop (16 * b)).take 16)

theorem kBlock_codes_length (hvs : vs.length = 128) {b : Nat} (hb : b < 8) : (kBlock vs b).1.length = 16 := by
  rw [kBlock, quantBlock_codes_length]
  simp
  omega

/-- A row of K in E2M1. -/
theorem putK_e2m1 (hk : i.kvK = 7) (hvs : vs.length = 128) {pt : Nat} (hpt : pageTokens (penOf p n).compat = pt) :
    putK p i n f h panel tok vs =
      countSat (framePut (framePut p n f (h.off + panel * (pt * 72) + tok % pt * 64) (packCodes 7 ((upto 8).flatMap fun b => (kBlock vs b).1)))
        n f (h.off + panel * (pt * 72) + pt * 64 + tok % pt * 8) ((upto 8).map fun b => BitVec.ofNat 8 (kBlock vs b).2.1)) n
        (sumL ((upto 8).map fun b => (kBlock vs b).2.2)) := by
  subst hpt
  simp only [putK, if_pos hk, chunks_eq (n := 16) (by omega) 8 hvs, List.map_map, List.flatMap_map]
  rfl

theorem pageTokens_pos (c : Bool) : 0 < pageTokens c := by cases c <;> decide

theorem kBlock_code_lt (vs : List Val) : ∀ c ∈ (upto 8).flatMap fun b => (kBlock vs b).1, c < 16 := by
  intro c hc
  obtain ⟨b, -, hb⟩ := List.mem_flatMap.mp hc
  exact quantBlock_codes_lt _ c hb

section PutK
variable (hk : i.kvK = 7) (hvs : vs.length = 128) {pt b : Nat} (hpt : pageTokens (penOf p n).compat = pt) (hb : b < 8)
include hk hvs hpt hb

/-- The scale of a block of K in E2M1. -/
theorem frameByte_putK_scale :
    frameByte (putK p i n f h panel tok vs) n f (h.off + panel * (pt * 72) + pt * 64 + tok % pt * 8 + b) = BitVec.ofNat 8 (kBlock vs b).2.1 := by
  rw [putK_e2m1 hk hvs hpt, frameByte_countSat, frameByte_framePut, if_pos ⟨rfl, by omega, by simp [upto]; omega⟩, Nat.add_sub_cancel_left]
  simp [upto, List.getD_eq_getElem?_getD, List.getElem?_range hb]

/-- A code of a block of K in E2M1. -/
theorem elCode_putK {j : Nat} (hj : j < 16) :
    elCode 7 ((upto 64).map fun c => frameByte (putK p i n f h panel tok vs) n f (h.off + panel * (pt * 72) + tok % pt * 64 + c)) (16 * b + j) =
      (kBlock vs b).1.getD j 0 % 16 := by
  have ht : tok % pt < pt := Nat.mod_lt _ (hpt ▸ pageTokens_pos _)
  have hrow : ((upto 64).map fun c => frameByte (putK p i n f h panel tok vs) n f (h.off + panel * (pt * 72) + tok % pt * 64 + c)) =
      packCodes 7 ((upto 8).flatMap fun b => (kBlock vs b).1) := by
    refine List.ext_getElem (by simp [upto, packCodes_length, segBytes]) fun c h1 h2 => ?_
    have hc : c < 64 := by simpa [upto] using h1
    simp only [List.getElem_map, upto, List.getElem_range]
    rw [putK_e2m1 hk hvs hpt, frameByte_countSat, frameByte_framePut, if_neg (by omega), frameByte_framePut,
      if_pos ⟨rfl, by omega, by rw [packCodes_length]; exact Nat.add_lt_add_left hc _⟩, Nat.add_sub_cancel_left,
      List.getD_eq_getElem?_getD, List.getElem?_eq_getElem h2]
    rfl
  have hcode := getD_flatMap_upto (m := 8) (s := 16) (k := 16 * b + j) (fun b hb => kBlock_codes_length hvs hb) 0 (by omega)
  rw [show (16 * b + j) / 16 = b by omega, show (16 * b + j) % 16 = j by omega] at hcode
  have hlt : (kBlock vs b).1.getD j 0 < 16 := by
    rw [List.getD_eq_getElem?_getD, List.getElem?_eq_getElem (by rw [kBlock_codes_length hvs hb]; exact hj)]
    exact quantBlock_codes_lt _ _ (List.getElem_mem _)
  rw [hrow, elCode_packCodes_e2m1 (kBlock_code_lt vs) (by omega), hcode, Nat.mod_eq_of_lt hlt]

end PutK

/-- A row of V in any format but E2M1. -/
theorem frameByte_putV (hv : i.kvV ≠ 7) {pt : Nat} (hpt : pageTokens (penOf p n).compat = pt) {c : Nat} (hc : c < vs.length)
    (hdv : c < h.band.dv) :
    frameByte (putV p i e n f h tok vs) n f (h.off + kBytes i.kvK h.band.dk pt + c * pt + tok % pt) =
      BitVec.ofNat 8 (convertFp fmtE4M3 (vs.getD c (.fin false 0 0))).code := by
  have hpos : 0 < pt := hpt ▸ pageTokens_pos _
  simp only [putV, if_neg hv, forAll, zip_upto vs _ (.fin false 0 0), List.foldl_map, hpt]
  refine (read_foldl_write (read := fun q => frameByte q n f (h.off + kBytes i.kvK h.band.dk pt + c * pt + tok % pt)) (Inv := fun _ => True)
    (r := c) (v := BitVec.ofNat 8 (convertFp fmtE4M3 (vs.getD c (.fin false 0 0))).code) (fun _ _ _ => trivial) (fun q j _ _ => ?_) p
    trivial).trans (if_pos (by simp [upto, hc, hdv]))
  rw [frameByte_countSat, frameByte_framePut]
  by_cases hj : j = c
  · subst hj
    simp
  · have hne : j * pt ≠ c * pt := fun heq => hj (Nat.eq_of_mul_eq_mul_right hpos heq)
    rw [if_neg (by simp; omega), if_neg hj]

/-- The BF16 tail of a token's row of V. -/
def putTail (p : Pkg) (e : Nat) (h : HeadAt) (tok : Nat) (vs : List Val) : Pkg :=
  forAll (vs.zip (upto h.band.dv)) (fun q x => modReq q e fun r =>
    { r with tail := tset 0 r.tail (tailKey h.ordinal x.2 tok) (convertFp fmtBF16 x.1).code }) p

/-- The block of one value dimension, from its tail. -/
def putBlock (n e f pt at_ : Nat) (h : HeadAt) (tok : Nat) (q : Pkg) (c : Nat) : Pkg :=
  let b := tailBlock (reqOf q e) h.ordinal c (tok - tok % 16) 16
  countSat (framePut (framePut q n f (at_ + c * (pt / 2) + (tok % pt - tok % pt % 16) / 2) ((packCodes 7 b.1).take 8)) n f
    (at_ + h.band.dv * (pt / 2) + c * (pt / 16) + tok % pt / 16) [BitVec.ofNat 8 b.2.1]) n b.2.2

/-- The blocks of a row of V, all dimensions. -/
def putBlocks (n e f pt at_ : Nat) (h : HeadAt) (tok : Nat) (vs : List Val) (q : Pkg) : Pkg :=
  (upto (min vs.length h.band.dv)).foldl (putBlock n e f pt at_ h tok) q

section PutV
variable (hv : i.kvV = 7) {pt : Nat} (hpt : pageTokens (penOf p n).compat = pt)
include hv hpt

/-- A row of V in E2M1 whose block is written. -/
theorem putV_block (hb : tok % 16 = 15 ∨ tget false (stepNow p n).quantised (blockKey e h.ordinal tok) = true) :
    putV p i e n f h tok vs =
      modStep (putBlocks n e f pt (h.off + kBytes i.kvK h.band.dk pt) h tok vs (putTail p e h tok vs)) n fun y =>
        { y with quantised := tset false y.quantised (blockKey e h.ordinal tok) true } := by
  have hagain : tok % 16 = 15 ∨
      (match (penOf p n).step with | some y => tget false y.quantised (blockKey e h.ordinal tok) | none => false) = true := by
    cases hstep : (penOf p n).step <;> simpa [stepNow, hstep] using hb
  simp only [putV, if_pos hv, hpt]
  refine (if_pos hagain).trans ?_
  simp only [putBlocks, putTail, forAll, zip_upto vs _ (.fin false 0 0), List.foldl_map]
  rfl

/-- A row of V in E2M1 whose block is not written yet. -/
theorem putV_tail (hb : ¬ (tok % 16 = 15 ∨ tget false (stepNow p n).quantised (blockKey e h.ordinal tok) = true)) :
    putV p i e n f h tok vs = putTail p e h tok vs := by
  have hagain : ¬ (tok % 16 = 15 ∨
      (match (penOf p n).step with | some y => tget false y.quantised (blockKey e h.ordinal tok) | none => false) = true) := by
    cases hstep : (penOf p n).step <;> simpa [stepNow, hstep] using hb
  simp only [putV, if_pos hv, hpt]
  exact if_neg hagain

end PutV

theorem putBlock_reqs (n e f pt at_ : Nat) (h : HeadAt) (tok : Nat) (q : Pkg) (c : Nat) : (putBlock n e f pt at_ h tok q c).reqs = q.reqs := by
  simp [putBlock]

theorem putBlocks_reqs (n e f pt at_ : Nat) (h : HeadAt) (tok : Nat) (vs : List Val) (q : Pkg) :
    (putBlocks n e f pt at_ h tok vs q).reqs = q.reqs :=
  foldl_inv _ (P := fun r : Pkg => r.reqs = q.reqs) rfl fun _ _ hr => (putBlock_reqs _ _ _ _ _ _ _ _ _).trans hr

theorem putV_reqs (hv : i.kvV = 7) : (putV p i e n f h tok vs).reqs = (putTail p e h tok vs).reqs := by
  by_cases hb : tok % 16 = 15 ∨ tget false (stepNow p n).quantised (blockKey e h.ordinal tok) = true
  · rw [putV_block hv rfl hb]
    simp [putBlocks_reqs]
  · rw [putV_tail hv rfl hb]

theorem putTail_tail {c : Nat} (hc : c < vs.length) (hdv : c < h.band.dv) :
    tget 0 (reqOf (putTail p e h tok vs) e).tail (tailKey h.ordinal c tok) = (convertFp fmtBF16 (vs.getD c (.fin false 0 0))).code := by
  simp only [putTail, forAll, zip_upto vs _ (.fin false 0 0), List.foldl_map]
  refine (read_foldl_write (read := fun q => tget 0 (reqOf q e).tail (tailKey h.ordinal c tok)) (Inv := fun _ => True)
    (r := c) (v := (convertFp fmtBF16 (vs.getD c (.fin false 0 0))).code) (fun _ _ _ => trivial) (fun q j _ _ => ?_) p
    trivial).trans (if_pos (by simp [upto, hc, hdv]))
  have hkey : tailKey h.ordinal c tok = tailKey h.ordinal j tok ↔ j = c := by
    unfold tailKey
    omega
  rw [reqOf_modReq_same, tget_tset, if_congr hkey rfl rfl]
  split
  · rename_i hj
    rw [hj]
  · rfl

theorem putTail_frameByte (m k : Nat) : frameByte (putTail p e h tok vs) n m k = frameByte p n m k :=
  forAll_keep (fun q => frameByte q n m k) _ _ _ fun _ _ => rfl

/-- The scale of a block of V in E2M1. -/
theorem frameByte_putBlocks {pt at_ c : Nat} (h16 : 16 ∣ pt) (hpos : 0 < pt) (hc : c < vs.length) (hdv : c < h.band.dv) (q : Pkg) :
    frameByte (putBlocks n e f pt at_ h tok vs q) n f (at_ + h.band.dv * (pt / 2) + c * (pt / 16) + tok % pt / 16) =
      BitVec.ofNat 8 (tailBlock (reqOf q e) h.ordinal c (tok - tok % 16) 16).2.1 := by
  obtain ⟨u, rfl⟩ := h16
  refine (read_foldl_write (read := fun r => frameByte r n f (at_ + h.band.dv * (16 * u / 2) + c * (16 * u / 16) + tok % (16 * u) / 16))
    (Inv := fun r : Pkg => r.reqs = q.reqs) (r := c) (v := BitVec.ofNat 8 (tailBlock (reqOf q e) h.ordinal c (tok - tok % 16) 16).2.1)
    (fun r j hr => (putBlock_reqs _ _ _ _ _ _ _ _ _).trans hr) (fun r j hj hr => ?_) q rfl).trans (if_pos (by simp [upto, hc, hdv]))
  have hu : 0 < u := by omega
  have hj : j < h.band.dv := by
    have := List.mem_range.mp hj
    omega
  have hcodes : j * (8 * u) + 8 * u ≤ h.band.dv * (8 * u) := segment_end_le hj _
  have ht : tok % (16 * u) < 16 * u := Nat.mod_lt _ (by omega)
  have h2 : 16 * u / 2 = 8 * u := by omega
  have h16 : 16 * u / 16 = u := by omega
  have hlen (b : List Nat) : ((packCodes 7 b).take 8).length ≤ 8 := List.length_take_le _ _
  have hcell : at_ + h.band.dv * (8 * u) + j * u + tok % (16 * u) / 16 = at_ + h.band.dv * (8 * u) + c * u + tok % (16 * u) / 16 ↔ j = c := by
    rw [Nat.add_right_cancel_iff, Nat.add_left_cancel_iff]
    exact ⟨Nat.eq_of_mul_eq_mul_right hu, fun h => by rw [h]⟩
  simp only [putBlock, frameByte_countSat, frameByte_framePut, h2, h16, List.length_singleton, true_and]
  by_cases hjc : j = c
  · subst hjc
    rw [if_pos (by omega), if_pos rfl, reqOf_congr hr, Nat.sub_self]
    rfl
  · have hne := mt hcell.mp hjc
    rw [if_neg (by omega), if_neg hjc, if_neg]
    rintro ⟨-, hlt⟩
    have := hlen (tailBlock (reqOf r e) h.ordinal j (tok - tok % 16) 16).1
    omega

end Pages

/-- Settles O24: each write of a STORE leaves its own bytes of the memory that it names, and a fold of them leaves a panel; a row of KV is such
writes of one frame, and its tail of the request. -/
theorem storesWriteTheirPanel : Obligations.StoresWriteTheirPanel := by
  refine ⟨fun s a => ⟨fun hat hplane hs => ?_, fun hat hrow => ?_⟩, fun p i e n f tok panel h vs => ?_⟩
  · have hdone := storeOp_done (atWord_lt hat)
    exact does_of_act ((exec_store a s).trans rfl) (by simp [hat, hplane])
      ⟨hdone.goesOn, hdone.planes, hdone.conv, hdone.sat, store_computes (atWord_lt hat) hs⟩
  · exact does_of_act ((exec_storeRowstate a s).trans rfl) (by simp [hat, hrow]) (storeRowstate_computes (atWord_lt hat))
  · intro pt t kAt vAt code
    refine ⟨fun hk k => ?_, fun hk hvs b hb => ⟨?_, fun j hj => ?_⟩, fun hv c hc hdv => frameByte_putV hv rfl hc hdv,
      fun hv => ⟨fun c hc hdv _ => ?_, fun htok hq m k => ?_, fun htok hlen _ c hc => ?_⟩⟩
    · have hbase : kAt = h.off + panel * (pt * 128) := by simp only [kAt, hk, if_false]
      rw [hbase]
      exact frameByte_putK hk k
    · have hbase : kAt = h.off + panel * (pt * 72) := by simp only [kAt, hk, if_true]
      rw [hbase]
      exact frameByte_putK_scale hk hvs rfl hb
    · have hbase : kAt = h.off + panel * (pt * 72) := by simp only [kAt, hk, if_true]
      rw [hbase]
      exact elCode_putK hk hvs rfl hb hj
    · rw [reqOf_congr (putV_reqs hv)]
      exact putTail_tail hc hdv
    · rw [putV_tail hv rfl (by simp [htok, hq])]
      exact putTail_frameByte m k
    · have h16 : 16 ∣ pageTokens (penOf p n).compat := by cases (penOf p n).compat <;> decide
      rw [reqOf_congr (putV_reqs hv), putV_block hv rfl (.inl htok), frameByte_modStep]
      exact frameByte_putBlocks h16 (pageTokens_pos _) (by omega) hc _

end Sys2Proof.Machine
end

section
/-! PROOFS. The return of a SWAPPED request (R339) where two entries stand twice in the request table, in two pens. The requests of a pen are read
from the list of the table, a request's own pen from its first listing, so that the list of pen 0 names a request whose copy back runs in
pen 1: it is short of frames there and pre-empts the request that has just returned (R336). -/

namespace Sys2Proof.Machine

/-- Entry 1 is SWAPPED, to return to DECODE; the RESUME of entry 2, of higher priority, waits for its pages. The first listing of each is in
pen 1, the second in pen 0. -/
def listedTwice : Tab Req :=
  [(1, { st := rqSwapped, prev := rqDecode, pen := 1 }), (1, { st := rqPaused }), (2, { st := rqPaused, pen := 1, priority := 1 }),
   (2, { st := rqPaused })]

/-- A package that runs with these requests: their context is active and resident, with room in its host region, and the one copy is that of
the RESUME, in a pool of pen 1 that has no frame. -/
def listedTwiceState : State :=
  { pkg :=
      { pins := { resetN := true }, reqs := listedTwice
        ctxs := [(0, { st := ctxActive, resident := true, hostMib := 1 })]
        pens := [(1, { pool := { frameBytes := 1024, copies := [{ entry := 2, why := 3, keys := [0] }] } })] } }

/-- Entry 1 is the one SWAPPED request that the list of pen 0 names, and it may return. -/
theorem listedTwice_returns : (entriesOfPen listedTwiceState.pkg 0).filter (fun k => decide ((reqOf listedTwiceState.pkg k).st = rqSwapped)) = [1] ∧
    mayReturn listedTwiceState.pkg 1 = true := by decide

/-- It returns and is pre-empted: it is SWAPPED again after the returns of pen 0. -/
theorem listedTwice_preempted : (reqOf (returnsOf listedTwiceState.pkg 0) 1).st = rqSwapped := by decide

/-- Refutes O60: its clause of SWAP_RETURN does not ask that the request table be in canonical form (R339). Where an entry is listed twice,
the copies of the pen are not those of the requests that its list names, and the request does not end in the state that it left. -/
theorem not_commandsComplete : ¬ Obligations.CommandsComplete := by
  rintro ⟨-, -, -, -, -, -, -, hreturn, -⟩
  obtain ⟨hone, hmay⟩ := listedTwice_returns
  have hst := post_of_does ((exec_swapReturn 0 listedTwiceState).trans rfl) (by decide)
    (hreturn listedTwiceState 0 1 (by decide) (by decide) hone hmay (by decide) (by decide) (by decide))
  rw [listedTwice_preempted] at hst
  exact absurd hst (by decide)

end Sys2Proof.Machine
end

section
/-! PROOFS. The loader's commands and their ends (R168 to R172): what a write of LDR_CMD leaves of the loader and of the pen, and what the end of
a BIND or an UNBIND does. -/

namespace Sys2Proof.Machine

@[simp] theorem penOf_settle_judgeReady (p0 p : Pkg) (n : Nat) : penOf (settle p0 (judgeReady p)) n = penOf p n := penOf_congr (by simp) n

@[simp] theorem penOf_judgeVerify (p : Pkg) (n : Nat) : penOf (judgeVerify p) n = penOf p n := penOf_congr (by simp) n

@[simp] theorem penOf_dropHeld (p : Pkg) (fn off n : Nat) : penOf (dropHeld p fn off) n = penOf p n := penOf_congr (by simp) n

@[simp] theorem penOf_log (p : Pkg) (code source p0 p1 p2 n : Nat) : penOf (log p code source p0 p1 p2) n = penOf p n :=
  penOf_congr (by simp) n

@[simp] theorem penOf_modLdr (p : Pkg) (f : Ldr → Ldr) (n : Nat) : penOf (modLdr p f) n = penOf p n := rfl

@[simp] theorem penOf_ldrDone (p : Pkg) (f : Ldr → Ldr) (n : Nat) : penOf (ldrDone p f) n = penOf p n := penOf_congr (by simp [ldrDone, modLdr]) n

@[simp] theorem modLdr_ldr (p : Pkg) (f : Ldr → Ldr) : (modLdr p f).ldr = f p.ldr := rfl

/-- A pen that moves to another state keeps its image. -/
@[simp] theorem penTo_image (p : Pkg) (n st : Nat) : (penOf (penTo p n st) n).image = (penOf p n).image := by
  simpa [penHead, headOf] using congrArg PenHead.image (penTo_head (lv := false) p n st n)

/-- A write of a register of the physical function while READY stands. -/
theorem pfWrite_of_ready {p : Pkg} (h : p.glb.ready = true) (off : Nat) (f : Pkg → Pkg) : pfWrite p 0 off f = f (dropHeld p 0 off) := by
  simp [pfWrite, regWrite, h]

/-! #### A write of LDR_CMD -/

theorem cmdFail_congr {p q : Pkg} (h : q.ldr = p.ldr) : cmdFail q = cmdFail p := by
  unfold cmdFail
  rw [h]

section Taken

variable {p : Pkg} {n : Nat}

theorem ldrCmd_of_running {op : Nat} (hst : p.ldr.st = 1) (hop : op = 1 ∨ op = 2) : (ldrCmd p op n).ldr = { p.ldr with lost := true } := by
  rcases hop with rfl | rfl <;> simp [ldrCmd, hst]

theorem ldrCmd_bind (hst : p.ldr.st ≠ 1) : ldrCmd p 1 n = bindTake p n := by simp [ldrCmd, hst]

theorem ldrCmd_unbind (hst : p.ldr.st ≠ 1) : ldrCmd p 2 n = unbindTake p n := by simp [ldrCmd, hst]

/-- A BIND of an EMPTY pen begins, and the fetch of the image with it. -/
theorem bindTake_of_empty (hpen : (penOf p n).st = penEmpty) (hcmd : cmdFail p = none) :
    (bindTake p n).ldr = { p.ldr with op := 1, pen := n, result := 0, st := 1 } ∧ (penOf (bindTake p n) n).st = penBinding ∧
      Out.hostRead 0 p.ldr.addr p.ldr.bytes ∈ (bindTake p n).out := by
  have htake : bindTake p n = send (penTo (modLdr p fun l => { l with op := 1, pen := n, result := 0, st := 1 }) n penBinding)
      (.hostRead 0 p.ldr.addr p.ldr.bytes) := by simp [bindTake, hpen, hcmd, modLdr]
  rw [htake]
  exact ⟨by simp, penTo_st _ _ _, by simp [send]⟩

/-- Check 1: a BIND of any other pen is refused, and the pen stays. -/
theorem bindTake_of_not_empty (hpen : (penOf p n).st ≠ penEmpty) :
    bindTake p n =
      bindRefused (modLdr p fun l => { l with op := 1, pen := n, result := 0 }) n { check := 1, status := stPenUnavailable } := by
  simp [bindTake, hpen]

theorem penOf_bindRefused_check1 (f : LdrFail) (h : f.check = 1) : penOf (bindRefused p n f) n = penOf p n := by
  simp [bindRefused, h]

theorem unbindTake_of_image (hpen : (penOf p n).st ∈ [penBound, penActive, penUnavail]) :
    unbindTake p n = unbindStart (modLdr p fun l => { l with op := 2, pen := n, result := 0 }) n := by
  simp only [List.mem_cons, List.not_mem_nil, or_false] at hpen
  simp [unbindTake, hpen]

theorem unbindTake_of_no_image (hpen : (penOf p n).st ∉ [penBound, penActive, penUnavail]) :
    unbindTake p n =
      ldrDone (modLdr p fun l => { l with op := 2, pen := n, result := 0 }) fun l => { l with result := stPenUnavailable } := by
  simp only [List.mem_cons, List.not_mem_nil, or_false] at hpen
  simp [unbindTake, hpen]

end Taken

section Written

variable {s : State} {pen : Nat} {post : Pkg → Prop} (hruns : runsReady s) (hpen : pen < 16)

include hruns hpen

theorem does_bind (hpost : post (settle s.pkg (judgeReady (ldrCmd (dropHeld s.pkg 0 0x80000C) 1 pen)))) : Does (.bind 0 pen) s post :=
  does_of_actS ((exec_bind 0 pen s).trans rfl) (by simpa using hpen) (by rwa [pfWrite_of_ready hruns.2.1])

theorem does_unbind (hpost : post (settle s.pkg (judgeReady (ldrCmd (dropHeld s.pkg 0 0x80000C) 2 pen)))) : Does (.unbind 0 pen) s post :=
  does_of_actS ((exec_unbind 0 pen s).trans rfl) (by simpa using hpen) (by rwa [pfWrite_of_ready hruns.2.1])

end Written

/-- Settles O14: the write by the case of `ldrCmd` that it is, and each case by what it leaves of the loader and the pen. -/
theorem bindAndUnbindTaken : Obligations.BindAndUnbindTaken := by
  refine ⟨fun s pen hruns hlt hst hpen hcmd => does_bind hruns hlt ?_, fun s pen hruns hlt hst hpen => does_bind hruns hlt ?_,
    fun s pen hruns hlt hst hpen => does_unbind hruns hlt ?_, fun s pen hruns hlt hst hpen => does_unbind hruns hlt ?_,
    fun s pen hruns hlt hst => ⟨does_bind hruns hlt ?_, does_unbind hruns hlt ?_⟩⟩
  · obtain ⟨hldr, hbinding, hout⟩ := bindTake_of_empty (p := dropHeld s.pkg 0 0x80000C) (n := pen) (by simpa using hpen)
      ((cmdFail_congr (by simp)).trans hcmd)
    rw [ldrCmd_bind (by simpa using hst)]
    exact ⟨by simpa using hldr, by simpa using hbinding, mem_settle_out _ (by simpa using hout)⟩
  · rw [ldrCmd_bind (by simpa using hst), bindTake_of_not_empty (by simpa using hpen)]
    simp [bindRefused_ldr, penOf_bindRefused_check1]
  · rw [ldrCmd_unbind (by simpa using hst), unbindTake_of_image (by simpa using hpen)]
    simp [unbindStart, penTo_st]
  · rw [ldrCmd_unbind (by simpa using hst), unbindTake_of_no_image (by simpa using hpen)]
    simp
  · simpa using ldrCmd_of_running (p := dropHeld s.pkg 0 0x80000C) (by simpa using hst) (.inl rfl)
  · simpa using ldrCmd_of_running (p := dropHeld s.pkg 0 0x80000C) (by simpa using hst) (.inr rfl)

/-! #### The end of a BIND -/

/-- The header reads and the fetches that a BIND waits for leave the loader's results (R240, R242). -/
theorem askRechecks_ldr (p : Pkg) (es : List Nat) : ∃ a, (askRechecks p es).ldr = { p.ldr with asked := a } := by
  unfold askRechecks forAll
  induction es.filter fun r => decide (r ∉ p.ldr.asked) generalizing p with
  | nil => exact ⟨_, rfl⟩
  | cons r l ih =>
    obtain ⟨a, ha⟩ := ih (modLdr (readHeader p (replicaOf p r)) fun l => { l with asked := l.asked ++ [r] })
    exact ⟨a, by simpa using ha⟩

theorem askFills_ldr (p : Pkg) (i : Image) (ks : List Nat) : ∃ a, (askFills p i ks).ldr = { p.ldr with fillFrom := a } := by
  unfold askFills forAll
  induction ks.filter fun k => decide (tget 0 p.ldr.fillFrom k = 0) generalizing p with
  | nil => exact ⟨_, rfl⟩
  | cons k l ih =>
    rw [List.foldl_cons]
    split
    · next r _ =>
      obtain ⟨a, ha⟩ :=
        ih (modLdr (readReplica p (replicaOf p r) 0 (replicaOf p r).length) fun l => { l with fillFrom := tset 0 l.fillFrom k (r + 1) })
      exact ⟨a, by simpa using ha⟩
    · exact ih p

section BindDone

variable (p : Pkg) (n : Nat) (i : Image) (cls : List Nat)

/-- A BIND that passes every check is counted and reports no failed one (R171). -/
theorem bindDone_ldr : (bindDone p n i cls).ldr =
    { p.ldr with
      st := 2, result := stOk, bindCount := inc32 p.ldr.bindCount, failCheck := 0, failSection := 0, failIndex := 0, failOffset := 0
      rechecked := [], asked := [], fillFrom := [], fills := [] } := by
  unfold bindDone
  extract_lets g bufs p1 pl p2 p3 p4 p5 p6
  have h3 : p3.ldr = p.ldr := by simp [p3, p2, p1, nextFree]
  have h5 : p5.ldr = p4.ldr := by simp [p5]
  have h6 : p6.ldr = p5.ldr := by
    simp only [p6]
    split <;> simp
  have h7 : (penTo p6 n penBound).ldr = p4.ldr := by simp [h6, h5]
  rw [h7, ldrDone_ldr, h3]

theorem bindDone_st : (penOf (bindDone p n i cls) n).st = penBound := penTo_st _ _ _

theorem bindDone_image : (penOf (bindDone p n i cls) n).image = some i := by
  unfold bindDone
  extract_lets g bufs p1 pl p2 p3 p4 p5 p6
  have h3 : (penOf p3 n).image = (penOf p2 n).image :=
    penHead_image ((placePen_head (lv := false) _ n n).trans (fillWeights_head _ n i n))
  have h6 : penOf p6 n = penOf p3 n := by
    simp only [p6, p5, p4]
    split <;> simp
  rw [penTo_image, h6, h3]
  simp [p2, p1]

end BindDone

section Ended

variable {p : Pkg} {n : Nat} {b : Bytes} {placed : Bool}

theorem bindEnd_of_cmdFail {f : LdrFail} (image : Option Bytes) (h : cmdFail p = some f) : bindEnd p n image placed = bindRefused p n f := by
  simp [bindEnd, h]

/-- Check 3: the host refused the fetch. -/
theorem bindEnd_of_no_image (h : cmdFail p = none) :
    bindEnd p n none placed = bindRefused p n { check := 3, status := stPermission } := by
  simp [bindEnd, h]

theorem bindEnd_of_recheck {es : List Nat} (h : cmdFail p = none) (hv : bindView p n b placed = .recheck es) :
    bindEnd p n (some b) placed = askRechecks p es := by
  simp [bindEnd, h, hv]

theorem bindEnd_of_fetch {i : Image} {ks : List Nat} (h : cmdFail p = none) (hv : bindView p n b placed = .fetch i ks) :
    bindEnd p n (some b) placed = askFills p i ks := by
  simp [bindEnd, h, hv]

theorem bindEnd_of_ready {i : Image} {cls : List Nat} (h : cmdFail p = none) (hv : bindView p n b placed = .ready i cls) :
    bindEnd p n (some b) placed = judgeVerify (bindDone (claimAll p n b i).1 n i cls) := by
  simp [bindEnd, h, hv]

/-- An image that fails a check is refused, with the claims made so far where check 17 was reached (R233). -/
theorem bindEnd_of_failed {f : LdrFail} (h : cmdFail p = none) (hv : bindView p n b placed = .failed f) :
    ∃ q : Pkg, q.ldr = p.ldr ∧ bindEnd p n (some b) placed = judgeVerify (bindRefused q n f) := by
  refine ⟨if 17 ≤ f.check then (claimAll p n b (parseImage b)).1 else p, ?_, by simp [bindEnd, h, hv]⟩
  split <;> simp

end Ended

/-- What BIND_COMPLETE may leave: the BIND is done, or it is refused, or it runs on. -/
def BindEnded (p : Pkg) (n : Nat) (q : Pkg) : Prop :=
  q.ldr.op = 1 ∧ q.ldr.pen = p.ldr.pen ∧
    ((q.ldr.st = 2 ∧ q.ldr.result = stOk ∧ q.ldr.failCheck = 0 ∧ q.ldr.bindCount = inc32 p.ldr.bindCount ∧
        (penOf q n).st = penBound ∧ (penOf q n).image.isSome = true) ∨
      (q.ldr.st = 2 ∧ q.ldr.refuseCount = inc32 p.ldr.refuseCount ∧ q.ldr.bindCount = p.ldr.bindCount ∧
        (q.ldr.failCheck ≠ 1 → (penOf q n).st = penEmpty)) ∨
      (q.ldr.st = 1 ∧ q.ldr.refuseCount = p.ldr.refuseCount ∧ q.ldr.bindCount = p.ldr.bindCount ∧ q.pens = p.pens))

theorem bindEnded_congr {p q r : Pkg} {n : Nat} (hl : r.ldr = q.ldr) (hp : r.pens = q.pens) (h : BindEnded p n q) : BindEnded p n r := by
  unfold BindEnded
  rwa [hl, hp, penOf_congr hp]

section Outcomes

variable {p q : Pkg} (n : Nat) (hop : p.ldr.op = 1) (hq : q.ldr = p.ldr)

include hop hq

theorem bindEnded_bindRefused (f : LdrFail) : BindEnded p n (bindRefused q n f) := by
  refine ⟨?_, ?_, .inr (.inl ⟨?_, ?_, ?_, fun h => bindRefused_pen_st q n (by simpa [bindRefused_ldr] using h)⟩)⟩
  all_goals simp [bindRefused_ldr, hq, hop]

theorem bindEnded_bindDone (i : Image) (cls : List Nat) : BindEnded p n (bindDone q n i cls) := by
  refine ⟨?_, ?_, .inl ⟨?_, ?_, ?_, ?_, bindDone_st q n i cls, by simp [bindDone_image]⟩⟩
  all_goals simp [bindDone_ldr, hq, hop]

end Outcomes

/-- A running BIND ends by check 2 or 3, or as the view of its image says (R169). -/
theorem bindEnded_bindEnd {p : Pkg} (n : Nat) (image : Option Bytes) (placed : Bool) (hst : p.ldr.st = 1) (hop : p.ldr.op = 1) :
    BindEnded p n (bindEnd p n image placed) := by
  cases hcmd : cmdFail p with
  | some f =>
    rw [bindEnd_of_cmdFail image hcmd]
    exact bindEnded_bindRefused n hop rfl f
  | none =>
    cases image with
    | none =>
      rw [bindEnd_of_no_image hcmd]
      exact bindEnded_bindRefused n hop rfl _
    | some b =>
      cases hv : bindView p n b placed with
      | failed f =>
        obtain ⟨q, hq, heq⟩ := bindEnd_of_failed hcmd hv
        rw [heq]
        exact bindEnded_congr (by simp) (by simp) (bindEnded_bindRefused n hop hq f)
      | recheck es =>
        obtain ⟨a, ha⟩ := askRechecks_ldr p es
        rw [bindEnd_of_recheck hcmd hv]
        simp [BindEnded, ha, hst, hop]
      | fetch i ks =>
        obtain ⟨a, ha⟩ := askFills_ldr p i ks
        rw [bindEnd_of_fetch hcmd hv]
        simp [BindEnded, ha, hst, hop]
      | ready i cls =>
        rw [bindEnd_of_ready hcmd hv]
        have hldr : (judgeVerify (bindDone (claimAll p n b i).1 n i cls)).ldr = (bindDone (claimAll p n b i).1 n i cls).ldr := by simp
        exact bindEnded_congr hldr (by simp) (bindEnded_bindDone n hop (by simp) i cls)

/-! #### The end of an UNBIND -/

theorem unbindEnd_ends (p : Pkg) (n : Nat) :
    (unbindEnd p n).ldr.st = 2 ∧ (unbindEnd p n).ldr.result = stOk ∧ (penOf (unbindEnd p n) n).st = penEmpty ∧
      (penOf (unbindEnd p n) n).image = none := by
  simp [unbindEnd, penTo_st]

/-- BIND_COMPLETE of a running BIND. -/
theorem does_bindComplete {s : State} {image : Option Bytes} {placed : Bool} {post : Pkg → Prop} (hst : s.pkg.ldr.st = 1)
    (hop : s.pkg.ldr.op = 1) (hpost : post (settle s.pkg (judgeReady (bindEnd s.pkg s.pkg.ldr.pen image placed)))) :
    Does (.bindComplete image placed) s post :=
  does_of_actS ((exec_bindComplete image placed s).trans rfl) (by simp [hst, hop]) hpost

/-- Settles O16: each end of a BIND by the outcome of its checks, and the end of an UNBIND by what it leaves of the pen. -/
theorem loaderCompletions : Obligations.LoaderCompletions := by
  refine ⟨fun s image placed hst hop => does_bindComplete hst hop ?_,
    fun s b placed i cls hst hop hcmd hv => does_bindComplete hst hop ?_,
    fun s b placed f hst hop hcmd hv => does_bindComplete hst hop ?_,
    fun s placed hst hop hcmd => does_bindComplete hst hop ?_, fun s hst hop hstep => ?_⟩
  · exact bindEnded_congr (by simp) (by simp) (bindEnded_bindEnd s.pkg.ldr.pen image placed hst hop)
  · rw [bindEnd_of_ready hcmd hv]
    simp [bindDone_ldr, bindDone_st, bindDone_image]
  · obtain ⟨q, hq, heq⟩ := bindEnd_of_failed hcmd hv
    rw [heq]
    simpa [bindRefused_ldr, hq] using bindRefused_pen_st q s.pkg.ldr.pen (f := f)
  · rw [bindEnd_of_no_image hcmd]
    simp [bindRefused_ldr, bindRefused_pen_st]
  · refine does_of_actS ((exec_unbindComplete s).trans rfl) (by simp [hst, hop, hstep]) ?_
    simpa using unbindEnd_ends s.pkg s.pkg.ldr.pen

end Sys2Proof.Machine
end

section
/-! PROOFS. The registers of a pen, its activation and its prediction (R174, R176, R182): what each write of PEN_CTRL and of a budget leaves of the
pen, and that a refresh of every enabled pen gives each the rate and the prediction of the package as it stood. -/

namespace Sys2Proof.Machine

/-! #### Control -/

theorem arrayUsable_congr {p q : Pkg} (h : q.arrays = p.arrays) : arrayUsable q = arrayUsable p := by
  funext a
  unfold arrayUsable
  rw [arrOf_congr h]

theorem poolSize_congr {p q : Pkg} (h : q.arrays = p.arrays) : poolSize q = poolSize p := by
  have harr : arrOf q = arrOf p := funext (arrOf_congr h)
  unfold poolSize freeIn
  rw [harr, arrayUsable_congr h]

theorem budgetsFit_congr {p q : Pkg} (h : q.pens = p.pens) (n : Nat) (x : Pen) : budgetsFit q n x = budgetsFit p n x := by
  have hpen : penOf q = penOf p := funext (penOf_congr h)
  have henabled : enabledPens q = enabledPens p := by
    unfold enabledPens
    rw [h]
  unfold budgetsFit budgetSum
  rw [hpen, henabled]

section Control

variable {p : Pkg} {n v : Nat}

theorem penCtrlWrite_of_enable (hbit : bitOf v 0 = true) (hst : (penOf p n).st = penDisabled) (hen : (penOf p n).enable = false)
    (hpool : (penOf p n).arrays ≤ poolSize p) (hfit : budgetsFit p n (penOf p n) = true) :
    penCtrlWrite p n v = enablePen p n (bitOf v 1) := by
  simp [penCtrlWrite, hbit, hst, hen, hfit, Nat.not_lt.mpr hpool]

theorem penCtrlWrite_of_disable (hbit : bitOf v 0 = false) (hst : (penOf p n).st = penEmpty) (hen : (penOf p n).enable = true) :
    penCtrlWrite p n v = disablePen p n (bitOf v 1) := by
  simp [penCtrlWrite, hbit, hst, hen]

/-- A pen that is neither DISABLED nor EMPTY keeps its control. -/
theorem penCtrlWrite_of_refused (hbit : bitOf v 0 = false) (hempty : (penOf p n).st ≠ penEmpty) (hdisabled : (penOf p n).st ≠ penDisabled)
    (hen : (penOf p n).enable = true) : penCtrlWrite p n v = penRefuse p n (penBase n) v := by
  simp [penCtrlWrite, hbit, hempty, hdisabled, hen]

theorem penOf_penRefuse (p : Pkg) (n off v : Nat) : penOf (penRefuse p n off v) n = { penOf p n with budgetRefused := true } := by
  rw [penRefuse, penOf_log, penOf_modPen_same]

/-- An enabled pen is EMPTY, and its array set is filled behind it. -/
theorem enablePen_pen (p : Pkg) (n : Nat) (compat : Bool) :
    (penOf (enablePen p n compat) n).enable = true ∧ (penOf (enablePen p n compat) n).compat = compat ∧
      (penOf (enablePen p n compat) n).st = penEmpty := by
  have h : penHead false (enablePen p n compat) n =
      { headOf false { penOf p n with enable := true, compat := compat } with st := penEmpty } := by
    rw [enablePen, fillSet_head, setPenState_head, if_pos rfl, penHead, penOf_modPen_same]
  simp only [penHead, headOf, PenHead.mk.injEq] at h
  obtain ⟨henable, hcompat, -, -, -, -, -, -, -, hst, -⟩ := h
  exact ⟨henable, hcompat, hst⟩

/-! #### The array sets leave the page pools -/

theorem modPen_pool (p : Pkg) (n m : Nat) (f : Pen → Pen) (h : ∀ x, (f x).pool = x.pool) :
    (penOf (modPen p n f) m).pool = (penOf p m).pool := by
  rw [penOf_modPen]
  split
  · next hm => rw [h, hm]
  · rfl

theorem takeArray_pool (p : Pkg) (n a m : Nat) : (penOf (takeArray p n a) m).pool = (penOf p m).pool := by
  unfold takeArray
  exact modPen_pool _ _ _ _ fun _ => rfl

theorem fillSet_pool (p : Pkg) (n k m : Nat) : (penOf (fillSet p n k) m).pool = (penOf p m).pool := by
  induction k generalizing p with
  | zero => rfl
  | succ k ih =>
    unfold fillSet
    split
    · split
      · exact (ih _).trans (takeArray_pool _ _ _ _)
      · rfl
    · rfl

theorem predNext_pool (p : Pkg) (n m : Nat) : (penOf (predNext p n) m).pool = (penOf p m).pool := by
  unfold predNext
  split
  · rfl
  · exact modPen_pool _ _ _ _ fun _ => rfl

theorem refreshPred_pool (p : Pkg) (n m : Nat) : (penOf (refreshPred p n) m).pool = (penOf p m).pool := by
  unfold refreshPred
  split
  · refine Eq.trans (modPen_pool _ _ _ _ ?_) (predNext_pool p n m)
    exact fun _ => rfl
  · rfl

theorem fillOne_pool (p : Pkg) (n m : Nat) : (penOf (fillOne p n) m).pool = (penOf p m).pool := by
  unfold fillOne
  extract_lets q
  split
  · exact fillSet_pool _ _ _ _
  · exact (refreshPred_pool _ _ _).trans (fillSet_pool _ _ _ _)

theorem fillShort_pool (p : Pkg) (m : Nat) : (penOf (fillShort p) m).pool = (penOf p m).pool :=
  forAll_keep (fun q => (penOf q m).pool) _ _ _ fun q n => fillOne_pool q n m

/-- A disabled pen has a pool as reset leaves it (R343). -/
theorem disablePen_pen (p : Pkg) (n : Nat) (compat : Bool) :
    (penOf (disablePen p n compat) n).enable = false ∧ (penOf (disablePen p n compat) n).st = penDisabled ∧
      (penOf (disablePen p n compat) n).pool = {} := by
  unfold disablePen
  extract_lets p1
  have hst : (penOf p1 n).st = penDisabled := (congrArg Pen.st (penOf_congr (by simp [p1, freeSet]) n)).trans (penTo_st p n penDisabled)
  refine ⟨?_, ?_, ?_⟩
  · rw [penHead_enable (fillShort_head (lv := false) _ n), penOf_modPen_same]
  · rw [penHead_st (fillShort_head (lv := false) _ n), penOf_modPen_same, hst]
  · rw [fillShort_pool, penOf_modPen_same]

/-! #### Budgets -/

/-- An offset of a budget register lies in the pen's own block and outside every group table. -/
theorem penRegWrite_budget {o mask lo hi : Nat} (hn : n < 16) (hr : budgetRange o = some (mask, lo, hi)) :
    penRegWrite p n (penBase n + o) v = budgetWrite p n o v := by
  have ho : o ≤ 0x18 := by
    unfold budgetRange at hr
    split at hr
    on_goal 6 => cases hr
    all_goals decide
  have hgroup : ¬ groupBase n ≤ penBase n + o := by
    unfold groupBase penBase
    omega
  have hblock : penBase n + o < penBase n + 0x1000 := by omega
  simp [penRegWrite, hgroup, hblock]

/-- A disabled pen takes a value of the register's range and keeps its own otherwise (R11, R174). -/
theorem penOf_budgetWrite {o mask lo hi : Nat} (hst : (penOf p n).st = penDisabled) (hen : (penOf p n).enable = false)
    (hr : budgetRange o = some (mask, lo, hi)) (m : Nat) :
    penOf (budgetWrite p n o v) m =
      if m = n ∧ lo ≤ v % (mask + 1) ∧ v % (mask + 1) ≤ hi then withBudget (penOf p n) o (v % (mask + 1)) else penOf p m := by
  have hw : budgetWrite p n o v =
      if v % (mask + 1) < lo ∨ hi < v % (mask + 1) then p else modPen p n fun y => withBudget y o (v % (mask + 1)) := by
    simp [budgetWrite, hr, hst, hen]
  rw [hw]
  by_cases hrange : lo ≤ v % (mask + 1) ∧ v % (mask + 1) ≤ hi
  · rw [if_neg (by omega), penOf_modPen]
    simp [hrange]
  · rw [if_pos (by omega), if_neg fun h => hrange h.2]

end Control

/-! #### Activation -/

theorem activate_pen (p : Pkg) (n : Nat) :
    (penOf (activate p n) n).st = penActive ∧ (penOf (activate p n) n).image = (penOf p n).image ∧
      (penOf (activate p n) n).stepCount = (penOf p n).stepCount := by
  have h : penHead false (activate p n) n = { penHead false p n with st := penActive } := by
    unfold activate
    extract_lets p1 p2 es
    rw [forAll_head _ _ _ _ fun q e => decideAdmit_head q e n]
    have h2 : penHead false p2 n = penHead false p1 n := modPen_head _ _ _ _ fun _ => rfl
    exact h2.trans ((penTo_head p n penActive n).trans (if_pos rfl))
  simp only [penHead, headOf, PenHead.mk.injEq] at h
  obtain ⟨-, -, -, -, -, -, -, -, -, hst, himage, hcount, -⟩ := h
  exact ⟨hst, himage, hcount⟩

/-! #### The prediction -/

/-- A key that reads as a value of the test is among the keys of the test. -/
theorem mem_tkeys_of_tget {α : Type} {d : α} {t : Tab α} {n : Nat} {f : Nat → α → Bool} (hd : f n d = false)
    (h : f n (tget d t n) = true) : n ∈ tkeys f t := by
  induction t with
  | nil => simp [hd] at h
  | cons e t ih =>
    obtain ⟨k, v⟩ := e
    unfold tget at h
    unfold tkeys at ih ⊢
    split at h
    · next hk => simp [← hk, h]
    · rw [List.filter_cons]
      split
      · exact List.mem_cons_of_mem _ (ih h)
      · exact ih h

theorem mem_enabledPens {p : Pkg} {n : Nat} (h : (penOf p n).enable = true) : n ∈ enabledPens p := mem_tkeys_of_tget rfl h

/-- The arrays of the placement that a pen's prediction is for, and whether it folds: the one in force, or the next set-up's where the
pen's arrays have changed (R182). -/
def predPlace (p : Pkg) (n : Nat) (i : Image) (x : Pen) : List Nat × Bool :=
  if x.replace then ((placement p n i).2.map Prod.snd, decide (0 < foldsNext p n i))
  else (x.place.map fun e => e.2 - 1, decide (0 < x.folds))

/-- A pen with the rate and the prediction of the package as it stands (R182). -/
def refreshed (p : Pkg) (n : Nat) (x : Pen) : Pen :=
  match x.image with
  | none => x
  | some i => withPred p i (predPlace p n i x).1 (predPlace p n i x).2 x

theorem refreshed_of_image {x : Pen} {i : Image} (h : x.image = some i) (p : Pkg) (n : Nat) :
    refreshed p n x = withPred p i (predPlace p n i x).1 (predPlace p n i x).2 x := by
  simp [refreshed, h]

theorem penOf_refreshOne (p : Pkg) (n m : Nat) :
    penOf (refreshOne p n) m = if m = n then refreshed p n (penOf p n) else penOf p m := by
  cases himage : (penOf p n).image with
  | none =>
    have hkeep : refreshOne p n = p := by simp [refreshOne, predNext, predHere, himage]
    rw [hkeep, refreshed, himage]
    split
    · next hm => rw [hm]
    · rfl
  | some i =>
    rw [refreshed_of_image himage]
    unfold refreshOne predNext predHere predPlace
    simp only [himage]
    split <;> exact penOf_modPen _ _ _ _

/-- A second refresh with the same measured rates changes nothing: where none has been measured, the pen's own rate stands. -/
theorem withPred_withPred (p : Pkg) (i : Image) (arrs : List Nat) (folded : Bool) (x : Pen) :
    withPred p i arrs folded (withPred p i arrs folded x) = withPred p i arrs folded x := by
  have hrate : lowestOf p (withPred p i arrs folded x) arrs = lowestOf p x arrs := by
    simp only [withPred, lowestOf]
    cases firstBy (fun a b => decide (a < b)) (arrs.filterMap (beatRate p)) <;> rfl
  rw [withPred, hrate]
  rfl

theorem refreshed_refreshed (p : Pkg) (n : Nat) (x : Pen) : refreshed p n (refreshed p n x) = refreshed p n x := by
  cases himage : x.image with
  | none => simp [refreshed, himage]
  | some i =>
    rw [refreshed_of_image himage]
    generalize hplace : predPlace p n i x = place
    have himage' : (withPred p i place.1 place.2 x).image = some i := himage
    have hplace' : predPlace p n i (withPred p i place.1 place.2 x) = place := hplace
    rw [refreshed_of_image himage', hplace', withPred_withPred]

/-- What a refresh reads beside the pen: the arrays, the availability, the weight store and the measured rates. -/
def SameRates (p q : Pkg) : Prop := q.arrays = p.arrays ∧ q.glb = p.glb ∧ q.nvw = p.nvw ∧ q.lsh = p.lsh

theorem refreshOne_sameRates (p : Pkg) (n : Nat) : SameRates p (refreshOne p n) := by
  simp [SameRates]

theorem setOf_congr {p q : Pkg} (h : q.arrays = p.arrays) : setOf q = setOf p := by
  unfold setOf
  rw [h]

/-- The placement follows from the arrays, the availability and the weight store (R178). -/
theorem placement_congr {p q : Pkg} (harr : q.arrays = p.arrays) (hglb : q.glb = p.glb) (hnvw : q.nvw = p.nvw) :
    placement q = placement p := by
  have hclaim : claimOf q = claimOf p := by
    unfold claimOf
    rw [hnvw]
  have hlocal : shardLocal q = shardLocal p := by
    unfold shardLocal nvUsable
    rw [hclaim, hglb]
  have hbytes : groupBytes q = groupBytes p := by
    unfold groupBytes
    rw [hclaim, hlocal]
  unfold placement mapGroups
  rw [hbytes, setOf_congr harr, arrayUsable_congr harr]

theorem foldsNext_congr {p q : Pkg} (h : q.arrays = p.arrays) : foldsNext q = foldsNext p := by
  unfold foldsNext
  rw [setOf_congr h, arrayUsable_congr h]

theorem withPred_congr {p q : Pkg} (hnvw : q.nvw = p.nvw) (hlsh : q.lsh = p.lsh) : withPred q = withPred p := by
  have hrate : beatRate q = beatRate p := by
    unfold beatRate
    rw [hlsh]
  unfold withPred lowestOf predFor
  rw [hrate, hnvw]

theorem refreshed_congr {p q : Pkg} (h : SameRates p q) : refreshed q = refreshed p := by
  obtain ⟨harr, hglb, hnvw, hlsh⟩ := h
  unfold refreshed predPlace
  rw [placement_congr harr hglb hnvw, withPred_congr hnvw hlsh, foldsNext_congr harr]

/-- A pen in the list is refreshed as the package stood, however often it is listed, and any other stays. -/
theorem penOf_forAll_refreshOne (l : List Nat) (p : Pkg) (n : Nat) :
    penOf (forAll l refreshOne p) n = if n ∈ l then refreshed p n (penOf p n) else penOf p n := by
  induction l generalizing p with
  | nil => rfl
  | cons m l ih =>
    have hstep : penOf (forAll (m :: l) refreshOne p) n = penOf (forAll l refreshOne (refreshOne p m)) n := rfl
    rw [hstep, ih, refreshed_congr (refreshOne_sameRates p m), penOf_refreshOne]
    by_cases hm : n = m
    · subst hm
      simp [refreshed_refreshed]
    · simp [hm]

/-! #### The commands -/

/-- Settles O17: each write by the case of its register's operation, and the refresh pen by pen. -/
theorem penCommands : Obligations.PenCommands := by
  refine ⟨⟨fun s pen v hready hlatest hlt hbit hst hen hpool hfit => ?_, fun s pen v hready hlatest hlt hbit hst hen => ?_,
    fun s pen v hready hlatest hlt hbit hempty hdisabled hen => ?_,
    fun s pen o mask lo hi v hready hlt hst hen hrange hlatest => ?_⟩, fun s pen hruns hmay => ?_, fun s hruns => ?_⟩
  · refine does_of_act ((exec_penEnable 0 pen v s).trans rfl) (by simp [hlt, hbit, hlatest]) ?_
    have hdrop : (dropHeld s.pkg 0 (penBase pen)).arrays = s.pkg.arrays ∧ (dropHeld s.pkg 0 (penBase pen)).pens = s.pkg.pens := by simp
    rw [pfWrite_of_ready hready, penCtrlWrite_of_enable hbit (by simpa using hst) (by simpa using hen)
      (by simpa [poolSize_congr hdrop.1] using hpool) (by simpa [budgetsFit_congr hdrop.2] using hfit)]
    exact enablePen_pen _ _ _
  · refine does_of_act ((exec_penDisable 0 pen v s).trans rfl) (by simp [hlt, hbit, hlatest]) ?_
    rw [pfWrite_of_ready hready, penCtrlWrite_of_disable hbit (by simpa using hst) (by simpa using hen)]
    exact disablePen_pen _ _ _
  · refine does_of_act ((exec_penDisable 0 pen v s).trans rfl) (by simp [hlt, hbit, hlatest]) ?_
    rw [pfWrite_of_ready hready, penCtrlWrite_of_refused hbit (by simpa using hempty) (by simpa using hdisabled) (by simpa using hen),
      penOf_penRefuse, penOf_dropHeld]
  · refine does_of_act ((exec_penBudgetWrite 0 pen (penBase pen + o) v s).trans rfl) (by simp [hlt, hlatest]) ?_
    rw [pfWrite_of_ready hready, penRegWrite_budget hlt hrange]
    have hpen := penOf_budgetWrite (p := dropHeld s.pkg 0 (penBase pen + o)) (v := v.toNat) (by simpa using hst) (by simpa using hen) hrange
    refine ⟨by simp [hpen], fun m hm => by simp [hpen, hm]⟩
  · exact does_of_act ((exec_penActivate pen s).trans rfl) (by simp [hruns, hmay]) (activate_pen s.pkg pen)
  · refine does_of_act ((exec_predStepRefresh s).trans rfl) hruns fun n i hen himage => ?_
    rw [penOf_forAll_refreshOne, if_pos (mem_enabledPens hen)]
    rw [refreshed_of_image himage, predPlace]
    split <;> rfl

end Sys2Proof.Machine
end

section
/-! PROOFS. The set-up of a step job (R184, R185, R329): the job that it makes from what it placed, and its completion. -/

namespace Sys2Proof.Machine

/-- A set-up that places a request, with no request short of frames, makes a step job with the requests and the slots of the filling. The
arrays take their segments after it and leave the pens. -/
theorem setupStart_pen {p : Pkg} {n : Nat} (hreplace : (penOf p n).replace = false) (hepoch : (penOf p n).countEpoch = epochOf p)
    (hplaced : (fillStep p n).2.placed ≠ []) (hshort : (fillStep p n).2.short = none) :
    ∃ (x : Pen) (t : Step), penOf (setupStart p n) n = { x with step := some t, rerun := [] } ∧ t.start = now p ∧ t.setupDone = false ∧
      t.released = false ∧ t.placed = (fillStep p n).2.placed ∧ t.slots = (fillStep p n).2.slots := by
  have htick : (fillStep p n).1.tick = p.tick := by simp
  unfold setupStart
  extract_lets p1 p2
  have hp1 : p1 = p := if_neg (by simp [hreplace])
  have hp2 : p2 = p := by simp [p2, hp1, hepoch]
  rw [hp2]
  generalize fillStep p n = filled at hplaced hshort htick ⊢
  obtain ⟨p3, f⟩ := filled
  dsimp -zeta only at hplaced hshort htick ⊢
  extract_lets starved p3a p3b i p4 o smp t p5 p6
  have hstarved : starved p6 = p6 := by simp only [starved, hshort]
  have hnow : now p4 = now p := congrArg TickS.count (by simp [p4, p3b, p3a, htick])
  have hpens : p6.pens = p5.pens := by simp [p6]
  clear_value p4 p6
  have h6 : penOf p6 n = { penOf (freshBuffers p4 n) n with step := some t, rerun := [] } := by
    rw [penOf_congr hpens, penOf_modPen_same]
  rw [if_neg (by simpa using hplaced), hstarved, h6]
  exact ⟨_, t, rfl, hnow, rfl, rfl, rfl, rfl⟩

/-- The completion of a set-up: the slot words, the record and the exchange that follow it leave the progress of the step (R185, R186). -/
theorem setupDone_step {p : Pkg} {n : Nat} {t : Step} (h : (penOf p n).step = some t) :
    ∃ u : Step, (penOf (setupDone p n) n).step = some u ∧ u.setupDone = true ∧ u.earliest = now p + 1 ∧ u.start = t.start ∧
      u.released = t.released := by
  have hmark := modStep_step h fun t => { t with setupDone := true, earliest := now p + 1 }
  have hhead : penHead true (setupDone p n) n = penHead true (modStep p n fun t => { t with setupDone := true, earliest := now p + 1 }) n := by
    unfold setupDone
    dsimp only
    rw [drive_head, sendRecord_head, sendSlotWords_head]
  have hkey := penHead_step hhead
  rw [hmark] at hkey
  obtain ⟨u, hu, hkey⟩ := Option.map_eq_some_iff.mp hkey
  simp only [stepKey, Prod.mk.injEq] at hkey
  obtain ⟨hdone, hreleased, hstart, hearliest⟩ := hkey
  exact ⟨u, hu, hdone, hearliest, hstart, hreleased⟩

/-- Settles O18: the job that a set-up makes, and the progress that its completion leaves. -/
theorem stepSetUp : Obligations.StepSetUp := by
  refine ⟨fun s pen hmay hreplace hepoch hplaced hshort => ?_, fun s pen t hpow hstep hdone hcopies hunchecked => ?_⟩
  · obtain ⟨x, t, hpen, ht⟩ := setupStart_pen hreplace hepoch hplaced hshort
    refine does_of_act ((exec_stepSetupStart pen s).trans rfl) hmay ?_
    rw [stepNow_of_step (congrArg Pen.step hpen), hpen]
    simpa using ht
  · obtain ⟨u, hu, hend⟩ := setupDone_step hstep
    refine does_of_act ((exec_setupComplete pen s).trans rfl)
      (by simp [hpow, hstep, stepNow_of_step hstep, hdone, hcopies, hunchecked]) ?_
    rw [stepNow_of_step hu]
    exact hend

end Sys2Proof.Machine
end

section
/-! PROOFS. What the deciding and the sending of exchanges leave of a pen's board (R199 to R207, R212): its count records as they were, and
every marker in hand. -/

namespace Sys2Proof.Machine

/-- The count records of a pen are as they were, and no marker in hand is lost. -/
structure BoardKept (n : Nat) (p q : Pkg) : Prop where
  records : (penOf q n).records = (penOf p n).records
  marks : ∀ m ∈ (penOf p n).marks, m ∈ (penOf q n).marks

section Board
variable {n : Nat} {p0 p : Pkg}

theorem BoardKept.refl (n : Nat) (p : Pkg) : BoardKept n p p := ⟨rfl, fun _ => id⟩

theorem ite_boardKept {c : Prop} [Decidable c] {q r : Pkg} (hq : BoardKept n p0 q) (hr : BoardKept n p0 r) :
    BoardKept n p0 (if c then q else r) := by
  split
  · exact hq
  · exact hr

theorem forAll_boardKept {α : Type} {l : List α} {f : Pkg → α → Pkg} (hp : BoardKept n p0 p)
    (hf : ∀ q x, BoardKept n p0 q → BoardKept n p0 (f q x)) : BoardKept n p0 (forAll l f p) := foldl_inv l hp hf

theorem boardKept_of_pens {q : Pkg} (hp : BoardKept n p0 p) (h : q.pens = p.pens) : BoardKept n p0 q := by
  have hpen := penOf_congr h n
  exact ⟨by rw [hpen, hp.records], by rw [hpen]; exact hp.marks⟩

/-- A change of the pen that leaves its records and loses no marker. -/
theorem modPen_boardKept {f : Pen → Pen} (hp : BoardKept n p0 p) (hr : ∀ x, (f x).records = x.records) (hm : ∀ x, x.marks ⊆ (f x).marks) :
    BoardKept n p0 (modPen p n f) := by
  refine ⟨?_, fun m h => ?_⟩
  · rw [penOf_modPen_same, hr, hp.records]
  · rw [penOf_modPen_same]
    exact hm _ (hp.marks m h)

theorem modStep_boardKept {f : Step → Step} (hp : BoardKept n p0 p) : BoardKept n p0 (modStep p n f) :=
  modPen_boardKept hp (fun _ => rfl) fun _ _ => id

theorem bufPut_boardKept {k off : Nat} {d : Bytes} {base : Nat → Int} (hp : BoardKept n p0 p) : BoardKept n p0 (bufPut p n k off d base) :=
  modPen_boardKept hp (fun _ => rfl) fun _ _ => id

theorem boardPut_boardKept {off : Nat} {b : Bytes} (hp : BoardKept n p0 p) : BoardKept n p0 (boardPut p n off b) := by
  unfold boardPut
  split
  · exact bufPut_boardKept hp
  · exact hp

theorem log_boardKept {code source a b c : Nat} (hp : BoardKept n p0 p) : BoardKept n p0 (log p code source a b c) :=
  boardKept_of_pens hp (by simp)

theorem fwStore_boardKept {id chip addr : Nat} {flag : Bool} {d : Bytes} (hp : BoardKept n p0 p) :
    BoardKept n p0 (fwStore p id chip addr flag d) := boardKept_of_pens hp (by simp)

theorem keepMark_boardKept {m : Mark} (hp : BoardKept n p0 p) : BoardKept n p0 (keepMark p n m) := by
  refine modPen_boardKept (boardPut_boardKept hp) (fun _ => rfl) fun x y hy => ?_
  by_cases h : y = m
  · exact List.mem_append_right _ (by simp [h])
  · exact List.mem_append_left _ (List.mem_filter.mpr ⟨hy, by simpa using h⟩)

theorem sendMark_boardKept {kind x round : Nat} {last : Bool} (hp : BoardKept n p0 p) : BoardKept n p0 (sendMark p n kind x round last) :=
  keepMark_boardKept (forAll_boardKept hp fun _ _ => fwStore_boardKept)

/-! #### Deciding -/

theorem restartRuns_boardKept {ok : SegRun → Bool} {layerOf : SegRun → Nat} (hp : BoardKept n p0 p) :
    BoardKept n p0 (restartRuns p n ok layerOf) := modStep_boardKept (boardKept_of_pens hp (by simp))

theorem moveWaiting_boardKept {g : Nat} (hp : BoardKept n p0 p) : BoardKept n p0 (moveWaiting p n g) :=
  restartRuns_boardKept (modStep_boardKept hp)

theorem wideEntryOp_boardKept {e : Nat} (hp : BoardKept n p0 p) : BoardKept n p0 (wideEntryOp p n e) :=
  ite_boardKept hp (moveWaiting_boardKept (log_boardKept (modStep_boardKept hp)))

theorem logSpill_boardKept {e h rounds top : Nat} (hp : BoardKept n p0 p) : BoardKept n p0 (logSpill p n e h rounds top) :=
  ite_boardKept (log_boardKept (modPen_boardKept hp (fun _ => rfl) fun _ _ => id)) hp

theorem decideStepX_boardKept (hp : BoardKept n p0 p) : BoardKept n p0 (decideStepX p n) := modStep_boardKept hp

theorem decideRouting_boardKept {e h : Nat} (hp : BoardKept n p0 p) : BoardKept n p0 (decideRouting p n e h) := by
  have hwide {c : Prop} [Decidable c] {f : Step → Step} :
      BoardKept n p0 (if c then wideEntryOp (modStep p n f) n e else modStep p n f) :=
    ite_boardKept (wideEntryOp_boardKept (modStep_boardKept hp)) (modStep_boardKept hp)
  exact ite_boardKept (logSpill_boardKept (modPen_boardKept hwide (fun _ => rfl) fun _ _ => id)) hwide

theorem decideNext_boardKept (hp : BoardKept n p0 p) : BoardKept n p0 (decideNext p n) := by
  unfold decideNext
  split
  · exact hp
  · exact ite_boardKept (ite_boardKept (decideStepX_boardKept hp) (decideRouting_boardKept hp)) hp

/-! #### Sending -/

theorem writePiece_boardKept {e f s pan : Nat} {a : Place} {b : Bytes} (hp : BoardKept n p0 p) :
    BoardKept n p0 (writePiece p n e f s a pan b) := bufPut_boardKept (bufPut_boardKept hp)

theorem writeTags_boardKept {e region slot row : Nat} {b : Bytes} (hp : BoardKept n p0 p) :
    BoardKept n p0 (writeTags p n e region slot row b) := bufPut_boardKept hp

theorem sendRow_boardKept {d : Decided} {a : RowOf} (hp : BoardKept n p0 p) : BoardKept n p0 (sendRow p n d a) := by
  unfold sendRow
  dsimp only
  split
  · exact writeTags_boardKept (forAll_boardKept hp fun _ _ => writePiece_boardKept)
  · split
    · exact hp
    · exact fwStore_boardKept (forAll_boardKept hp fun _ _ => fwStore_boardKept)

theorem sendRound_boardKept {d : Decided} (hp : BoardKept n p0 p) : BoardKept n p0 (sendRound p n d) :=
  modStep_boardKept (sendMark_boardKept (forAll_boardKept hp fun _ _ => sendRow_boardKept))

theorem sendNext_boardKept (hp : BoardKept n p0 p) : BoardKept n p0 (sendNext p n) :=
  modStep_boardKept (forAll_boardKept hp fun _ _ hq => ite_boardKept (sendRound_boardKept hq) hq)

theorem drive_boardKept {fuel : Nat} (hp : BoardKept n p0 p) : BoardKept n p0 (drive p n fuel) := by
  induction fuel generalizing p with
  | zero => exact hp
  | succ k ih =>
    have hdrive : BoardKept n p0 (drive1 p n) := sendNext_boardKept (decideNext_boardKept hp)
    exact ite_boardKept hdrive (ih hdrive)

end Board

end Sys2Proof.Machine
end

section
/-! PROOFS. Count records that arrive on the board (R200, R201), and stores of another epoch (R381). -/

namespace Sys2Proof.Machine

/-- The checks of a record pass exactly where R201 names none of its conditions. -/
theorem recordBad_eq_none_iff (p : Pkg) (n slot : Nat) (b : Bytes) : recordBad p n slot b = none ↔ ¬ badRecord p n slot b := by
  simp only [recordBad, Option.map_eq_none_iff, List.findIdx?_eq_none_iff, List.forall_mem_cons, List.not_mem_nil, IsEmpty.forall_iff,
    implies_true, and_true, Bool.not_eq_false', Bool.and_eq_true, decide_eq_true_eq, List.all_eq_true, Bool.eq_not, ne_eq]
  simp only [badRecord, not_or, not_and_or, not_exists, Bool.not_eq_false, not_not, Nat.not_le, Nat.not_lt, ne_eq, and_assoc, imp_iff_not_or]

theorem recordBad_range {p : Pkg} {n slot k : Nat} {b : Bytes} (h : recordBad p n slot b = some k) : 1 ≤ k ∧ k ≤ 9 := by
  obtain ⟨i, hi, rfl⟩ := Option.map_eq_some_iff.mp h
  have hlt := (List.findIdx?_eq_some_iff_findIdx_eq.mp hi).1
  simp only [List.length_cons, List.length_nil] at hlt
  omega

theorem recordIn_of_bad {p : Pkg} {n slot k : Nat} {b : Bytes} (h : recordBad p n slot b = some k) :
    recordIn p n slot b = log p codeExchangeRecordInvalid n n (slot % groupCount p n) k := by
  simp only [recordIn, h]

theorem recordIn_of_good {p : Pkg} {n slot : Nat} {b : Bytes} (h : recordBad p n slot b = none) :
    recordIn p n slot b = drive (keepRecord p n (recordOf p n b)) n (driveFuel (keepRecord p n (recordOf p n b)) n) := by
  simp only [recordIn, h]

theorem keepRecord_records (p : Pkg) (n : Nat) (r : CountRec) : (penOf (keepRecord p n r) n).records =
    ((penOf p n).records.filter fun y => !decide (y.x = r.x ∧ y.member = r.member)) ++ [r] := by
  have hput : BoardKept n p (if 1 < groupCount p n then
      boardPut p n (8192 * boardSlot p n r.x r.member) (recordBytes p (decide (r.x % exchangesOf (imageOf p n) = 0)) r) else p) :=
    ite_boardKept (boardPut_boardKept (.refl n p)) (.refl n p)
  simp only [keepRecord, penOf_modPen_same, hput.records]

/-- The records in hand after one that is kept. -/
theorem recordIn_records {p : Pkg} {n slot : Nat} {b : Bytes} (h : recordBad p n slot b = none) :
    (penOf (recordIn p n slot b) n).records =
      ((penOf p n).records.filter fun y => !decide (y.x = (recordOf p n b).x ∧ y.member = (recordOf p n b).member)) ++ [recordOf p n b] := by
  rw [recordIn_of_good h, (drive_boardKept (.refl n _)).records, keepRecord_records]

theorem requestIn_of_stale {p : Pkg} {b : Bytes} (port : Nat) {type : Nat} (hs : pktSound b = true) (ht : (hdrOf b).type = type)
    (hd : (hdrOf b).dst = chipNo p) (he : (hdrOf b).epoch ≠ epochOf p) :
    requestIn p port type b = reply (staleRx p (hdrOf b)) (hdrOf b) stEpochStale [] := by
  simp [requestIn, hs, pktOf, ht, hd, he]

/-- Settles O26: a record by the outcome of its checks, and a store of another epoch by its answer. -/
theorem countRecords : Obligations.CountRecords := by
  refine ⟨fun s pen slot rec hon => ⟨fun hbad => ?discarded, fun hgood => ?kept⟩, fun s port b hc hs ht hd he => ?stale⟩
  case discarded =>
    obtain ⟨k, hk⟩ := Option.ne_none_iff_exists'.mp fun h => (recordBad_eq_none_iff _ _ _ _).mp h hbad
    exact does_of_act ((exec_countRecord pen slot rec s).trans rfl) hon ⟨k, recordIn_of_bad hk, recordBad_range hk⟩
  case kept =>
    have hin := recordIn_records ((recordBad_eq_none_iff _ _ _ _).mpr hgood)
    refine does_of_act ((exec_countRecord pen slot rec s).trans rfl) hon ?_
    rw [hin]
    refine ⟨by simp, fun r hr hx hm => ?_, fun r hr hother => ?_⟩
    · simpa [hx, hm] using hr
    · exact List.mem_append_left _ (List.mem_filter.mpr ⟨hr, by simpa [not_and_or] using hother⟩)
  case stale =>
    refine does_of_act ((exec_packetStore port b s).trans rfl) hc ?_
    rw [requestIn_of_stale port hs ht hd he]
    exact ⟨rfl, by simp⟩

end Sys2Proof.Machine
end

section
/-! PROOFS. Markers that arrive on the board (R199), and dispatch pieces, tag runs and combine stores at the places that their offsets name
(R207, R213). -/

namespace Sys2Proof.Machine

/-- A command whose operation changes nothing idles. -/
theorem idles_of_act {c : Instr} {s : State} {ok : Bool} {f : Pkg → Pkg} (hc : exec c s = act ok f s) (hf : f s.pkg = s.pkg) : Idles c s := by
  rw [Idles, hc, act_eq, hf, ite_self]

/-! #### Markers -/

theorem bitOf_eq_testBit (v k : Nat) : bitOf v k = v.testBit k := by
  simp [bitOf, Nat.testBit, Nat.shiftRight_eq_div_pow, Nat.and_comm 1, Nat.and_one_is_mod, beq_eq_decide]

theorem mem_marks_keepMark (p : Pkg) (n : Nat) (m : Mark) : m ∈ (penOf (keepMark p n m) n).marks := by simp [keepMark]

/-- The marker of a slot's source is in hand once its word has arrived. -/
theorem mem_marks_markIn (p : Pkg) (n kind slot w : Nat) :
    { kind := kind, member := slot % groupCount p n, x := w % 2 ^ 32, round := w / 2 ^ 32 % 2 ^ 24, last := w.testBit 56 : Mark } ∈
      (penOf (markIn p n kind slot w) n).marks := by
  rw [← bitOf_eq_testBit]
  exact (drive_boardKept (.refl n _)).marks _ (mem_marks_keepMark p n _)

theorem markIn_boardKept (p : Pkg) (n kind slot w : Nat) : BoardKept n p (markIn p n kind slot w) :=
  drive_boardKept (keepMark_boardKept (.refl n p))

/-! #### Stores -/

theorem writesBuffer_bufPut (p : Pkg) (n k off : Nat) (d : Bytes) (base : Nat → Int) : writesBuffer p (bufPut p n k off d base) n k off d :=
  bufByte_bufPut p n k off d base

/-- What stands above the last digit of a number to a base. -/
theorem mul_add_div_of_lt {m r : Nat} (h : r < m) (q : Nat) : (q * m + r) / m = q := by
  rw [Nat.mul_comm, Nat.mul_add_div (by omega), Nat.div_eq_of_lt h, Nat.add_zero]

theorem one_max_of_lt {a m : Nat} (h : a < m) : max 1 m = m := Nat.max_eq_right (Nat.one_le_of_lt h)

section Arrivals
variable {p : Pkg} {n e f sc region slot tile pan row : Nat} {wide : Bool} {b : Bytes}

/-- A piece at the offset of a row of a panel is written in that row of that panel. -/
theorem pieceIn_at (hr : (imageOf p n).routing.isNone = false) (hregion : region < 4) (hslot : slot < (routingNow p n).epm)
    (htile : tile < (imageOf p n).recvCapacity / 128) (hpan : pan < (routingNow p n).hiddenPanels) (hrow : row < 128)
    (he : entryOfHalf (stepNow p n) (region / 2) allGated = (e, wide)) (hf : exFormat p n e wide = (f, sc))
    (hb : b.length = segBytes f + scBytes sc) :
    (pieceIn p n (256 * ((((region * (routingNow p n).epm + slot) * ((imageOf p n).recvCapacity / 128) + tile) *
      (routingNow p n).hiddenPanels + pan) * 128 + row)) b).2 =
      writePiece p n e f sc { region := region, slot := slot, tile := tile, row := row } pan b := by
  simp only [pieceIn, Nat.mul_div_cancel_left _ (show 0 < 256 by decide), Nat.mul_mod_right, one_max_of_lt hslot,
    one_max_of_lt htile, one_max_of_lt hpan, mul_add_div_of_lt hrow, Nat.mul_add_mod_of_lt hrow, mul_add_div_of_lt hpan,
    Nat.mul_add_mod_of_lt hpan, mul_add_div_of_lt htile, Nat.mul_add_mod_of_lt htile, mul_add_div_of_lt hslot, Nat.mul_add_mod_of_lt hslot, he, hf, hb]
  simp [hr, Nat.not_le.mpr hregion]

theorem pieceIn_of_misplaced {off : Nat} (h : off % 256 ≠ 0) : (pieceIn p n off b).2 = p := by
  simp [pieceIn, h]

/-- A piece is two writes: of its segment, and of its scales. -/
theorem writePiece_writes (p : Pkg) (n e f sc : Nat) (a : Place) (pan : Nat) (b : Bytes) :
    let panel := a.region * regionSize p n + (a.slot * ((imageOf p n).recvCapacity / 128) + a.tile) *
      ((routingNow p n).hiddenPanels * 32768) + pan * panelBytes 128 f sc
    ∃ m : Pkg, writesBuffer p m n (entryNow p n e).recvBuf (panel + a.row * segBytes f) (b.take (segBytes f)) ∧
      writesBuffer m (writePiece p n e f sc a pan b) n (entryNow p n e).recvBuf (panel + 128 * segBytes f + a.row * scBytes sc)
        (b.drop (segBytes f)) :=
  ⟨_, writesBuffer_bufPut _ _ _ _ _ _, writesBuffer_bufPut _ _ _ _ _ _⟩

/-- A tag run at the offset of a row's tag is written from that row's tag on. -/
theorem tagsIn_at (hr : (imageOf p n).routing.isNone = false) (hregion : region < 4) (hslot : slot < (routingNow p n).epm)
    (hlen : b.length % 8 = 0) (hb : b ≠ []) (hrow : row + b.length / 8 ≤ (imageOf p n).recvCapacity)
    (hrun : 8 * ((region * (routingNow p n).epm + slot) * (imageOf p n).recvCapacity + row) % 256 + b.length ≤ 256) :
    (tagsIn p n (8 * ((region * (routingNow p n).epm + slot) * (imageOf p n).recvCapacity + row)) b).2 =
      writeTags p n (entryOfHalf (stepNow p n) (region / 2) allGated).1 region slot row b := by
  have hpos : 0 < b.length := List.length_pos_of_ne_nil hb
  have hcap : row < (imageOf p n).recvCapacity := by omega
  simp only [tagsIn, Nat.mul_div_cancel_left _ (show 0 < 8 by decide), Nat.mul_mod_right, one_max_of_lt hslot, one_max_of_lt hcap,
    mul_add_div_of_lt hcap, Nat.mul_add_mod_of_lt hcap, mul_add_div_of_lt hslot, Nat.mul_add_mod_of_lt hslot]
  rw [if_neg fun h => by
    simp only [hr, Bool.false_eq_true, false_or] at h
    omega]

theorem tagsIn_of_misplaced {off : Nat} (h : off % 8 ≠ 0 ∨ b.length % 8 ≠ 0 ∨ b = [] ∨ 256 < off % 256 + b.length) :
    (tagsIn p n off b).2 = p := by
  have hb : b = [] ↔ b.length = 0 := List.length_eq_zero_iff.symm
  unfold tagsIn
  dsimp only
  rw [if_pos (by rw [hb] at h; tauto)]

/-- The buffer that a combine store at an offset of exchange space names (R213). -/
def combBufAt (p : Pkg) (n off : Nat) : Nat :=
  (entryNow p n (entryOfHalf (stepNow p n) (off / max 1 (combHalf p n)) (·.combined)).1).combBuf

/-- A combine store that ends within the buffer is written at its offset. -/
theorem combineIn_within {off : Nat} (hr : (imageOf p n).routing.isNone = false)
    (h : off + b.length ≤ ((imageOf p n).relocs.getD (combBufAt p n off) {}).bytes) :
    (combineIn p n off b).2 = bufPut p n (combBufAt p n off) off b fun _ => 0 := by
  unfold combineIn
  dsimp only
  rw [if_neg (by simpa [hr, combBufAt] using h)]
  rfl

theorem combineIn_beyond {off : Nat} (h : ((imageOf p n).relocs.getD (combBufAt p n off) {}).bytes < off + b.length) :
    (combineIn p n off b).2 = p := by
  unfold combineIn
  dsimp only
  rw [if_pos (.inr h)]

end Arrivals

theorem routed_routing {p : Pkg} {n : Nat} (h : routed p n = true) : (imageOf p n).routing.isNone = false := by
  simp only [routed, Bool.and_eq_true] at h
  simpa using h.2

/-- Settles O27: the markers by what deciding and sending leave of the board, and each store by the write that it is. -/
theorem markersAndExchangeStores : Obligations.MarkersAndExchangeStores := by
  refine ⟨fun s pen slot kind w c hon hc => ?markers, fun s pen b hr => ⟨?pieces, ?tags, ?combines, ?misplaced⟩⟩
  case markers =>
    have hmark (kind : Nat) := And.intro (mem_marks_markIn s.pkg pen kind slot w.toNat) (markIn_boardKept s.pkg pen kind slot w.toNat).marks
    simp only [List.mem_cons, Prod.mk.injEq, List.not_mem_nil, or_false] at hc
    obtain ⟨rfl, rfl⟩ | ⟨rfl, rfl⟩ | ⟨rfl, rfl⟩ := hc
    · exact does_of_act ((exec_dispatchMark pen slot w s).trans rfl) hon (hmark 0)
    · exact does_of_act ((exec_freeMark pen slot w s).trans rfl) hon (hmark 1)
    · exact does_of_act ((exec_combineMark pen slot w s).trans rfl) hon (hmark 2)
  case pieces =>
    intro region slot tile pan row hregion hslot htile hpan hrow e f sc wide he hf hb panel
    refine does_of_act ((exec_dispatchPiece pen _ b s).trans rfl) hr ?_
    rw [pieceIn_at (routed_routing hr) hregion hslot htile hpan hrow he hf hb]
    exact writePiece_writes s.pkg pen e f sc ⟨region, slot, tile, row⟩ pan b
  case tags =>
    intro region slot row hregion hslot hlen hb hrow hrun
    refine does_of_act ((exec_dispatchTagRun pen _ b s).trans rfl) hr ?_
    rw [tagsIn_at (routed_routing hr) hregion hslot hlen hb hrow hrun]
    exact writesBuffer_bufPut _ _ _ _ _ _
  case combines =>
    intro off buf hbuf
    subst hbuf
    refine ⟨fun h => does_of_act ((exec_combineStore pen off b s).trans rfl) hr ?_, fun h =>
      idles_of_act ((exec_combineStore pen off b s).trans rfl) (combineIn_beyond h)⟩
    rw [combineIn_within (routed_routing hr) h]
    exact writesBuffer_bufPut _ _ _ _ _ _
  case misplaced =>
    exact fun off => ⟨fun h => idles_of_act ((exec_dispatchPiece pen off b s).trans rfl) (pieceIn_of_misplaced h),
      fun h => idles_of_act ((exec_dispatchTagRun pen off b s).trans rfl) (tagsIn_of_misplaced h)⟩

end Sys2Proof.Machine
end

section
/-! PROOFS. The gates of an exchange complete (R210, R211, R214): what a change of a pen's set leaves of the other arrays, and what a gate leaves
of the step job, the buffers and the arrays' data. -/

namespace Sys2Proof.Machine

/-! #### The arrays outside a set -/

theorem mem_of_mem_tdel {α : Type} {t : Tab α} {n : Nat} {e : Nat × α} (h : e ∈ tdel t n) : e ∈ t := by
  induction t with
  | nil => exact h
  | cons y t ih =>
    unfold tdel at h
    split at h
    · exact List.mem_cons_of_mem _ (ih h)
    · exact List.mem_cons.mpr ((List.mem_cons.mp h).imp_right ih)

theorem mem_tins {α : Type} {x : α} {t : Tab α} {n : Nat} {e : Nat × α} (h : e ∈ tins n x t) : e = (n, x) ∨ e ∈ t := by
  induction t with
  | nil => exact .inl (List.mem_singleton.mp h)
  | cons y t ih =>
    unfold tins at h
    split at h
    · exact List.mem_cons.mp h
    · split at h
      · exact (List.mem_cons.mp h).imp_right (List.mem_cons_of_mem _)
      · rcases List.mem_cons.mp h with rfl | h
        · exact .inr List.mem_cons_self
        · exact (ih h).imp_right (List.mem_cons_of_mem _)

/-- What a table lists after a write stands at the key written or was listed before. -/
theorem mem_tset {α : Type} [DecidableEq α] {d x : α} {t : Tab α} {n : Nat} {e : Nat × α} (h : e ∈ tset d t n x) : e.1 = n ∨ e ∈ t := by
  unfold tset at h
  split at h
  · exact .inr (mem_of_mem_tdel h)
  · exact (mem_tins h).imp_left (congrArg Prod.fst)

/-- The arrays of a pen's set are among those that it had, and every array outside is as it was. -/
structure OthersKept (n : Nat) (p q : Pkg) : Prop where
  set : ∀ a ∈ setOf q n, a ∈ setOf p n
  arrays : ∀ a, a ∉ setOf p n → arrOf q a = arrOf p a

section Others
variable {n : Nat} {p0 p : Pkg}

theorem OthersKept.refl (n : Nat) (p : Pkg) : OthersKept n p p := ⟨fun _ => id, fun _ _ => rfl⟩

theorem othersKept_of_arrays {q : Pkg} (hp : OthersKept n p0 p) (h : q.arrays = p.arrays) : OthersKept n p0 q :=
  ⟨by rw [setOf_congr h]; exact hp.set, fun a ha => (arrOf_congr h a).trans (hp.arrays a ha)⟩

theorem modArr_othersKept {a : Nat} {f : Arr → Arr} (hp : OthersKept n p0 p) (ha : a ∈ setOf p0 n) : OthersKept n p0 (modArr p a f) := by
  refine ⟨fun b hb => ?_, fun b hb => ?_⟩
  · obtain ⟨e, he, rfl⟩ := List.mem_map.mp hb
    obtain ⟨hmem, hpen⟩ := List.mem_filter.mp he
    rcases mem_tset hmem with heq | hmem
    · exact heq ▸ ha
    · exact hp.set _ (List.mem_map.mpr ⟨e, List.mem_filter.mpr ⟨hmem, hpen⟩, rfl⟩)
  · have hne : b ≠ a := fun h => hb (h ▸ ha)
    rw [arrOf_modArr_ne _ _ _ hne, hp.arrays b hb]

/-- An operation on each array of the set. -/
theorem forAll_setOf_othersKept {f : Pkg → Nat → Pkg} (hp : OthersKept n p0 p)
    (hf : ∀ q a, a ∈ setOf p0 n → OthersKept n p0 q → OthersKept n p0 (f q a)) : OthersKept n p0 (forAll (setOf p n) f p) :=
  List.foldlRecOn _ _ hp fun q hq a ha => hf q a (hp.set a ha) hq

theorem forAll_othersKept {α : Type} {l : List α} {f : Pkg → α → Pkg} (hp : OthersKept n p0 p)
    (hf : ∀ q x, OthersKept n p0 q → OthersKept n p0 (f q x)) : OthersKept n p0 (forAll l f p) := foldl_inv l hp hf

theorem modSegData_othersKept {seg : Nat} {f : ArrData → ArrData} (hp : OthersKept n p0 p) : OthersKept n p0 (modSegData p n seg f) :=
  forAll_setOf_othersKept hp fun q a ha hq => by
    split
    · exact hq
    · exact modArr_othersKept hq ha

theorem completeGen_othersKept {b : Nat} (hp : OthersKept n p0 p) : OthersKept n p0 (completeGen p n b) :=
  forAll_setOf_othersKept (othersKept_of_arrays hp rfl) fun _ _ ha hq => modArr_othersKept hq ha

theorem recvGateOp_othersKept (p : Pkg) (n : Nat) (d : Decided) : OthersKept n p (recvGateOp p n d) :=
  completeGen_othersKept (othersKept_of_arrays (forAll_othersKept (.refl n p) fun _ _ => modSegData_othersKept) rfl)

end Others

/-! #### What a gate leaves -/

theorem completeGen_bufs (p : Pkg) (n b : Nat) : (penOf (completeGen p n b) n).bufs = (penOf p n).bufs := by simp [completeGen, modStep]

/-- The array's data stay where a change is of the runs alone. -/
theorem modRunsIf_data (x : Arr) (ok : SegRun → Bool) (f : SegRun → SegRun) : (modRunsIf x ok f fun _ d => d).data = x.data := by
  simp [modRunsIf]

theorem completeGen_data (p : Pkg) (n b a : Nat) : (arrOf (completeGen p n b) a).data = (arrOf p a).data := by
  refine forAll_keep (fun q => (arrOf q a).data) _ _ _ fun q k => ?_
  rw [arrOf_modArr]
  split
  · next h => rw [modRunsIf_data, h]
  · rfl

theorem modDecided_step {p : Pkg} {n : Nat} {t : Step} (h : (penOf p n).step = some t) (x : Nat) (f : Decided → Decided) :
    (penOf (modDecided p n x f) n).step = some { t with decided := t.decided.map fun d => if d.x = x then f d else d } :=
  modStep_step h _

/-- RECV_GATE: the generation and the count of gated rounds of the step job, with every buffer as it was (R210). -/
theorem recvGateOp_pen {p : Pkg} {n : Nat} {t : Step} (h : (penOf p n).step = some t) (d : Decided) :
    (penOf (recvGateOp p n d) n).bufs = (penOf p n).bufs ∧ ∃ occ, (penOf (recvGateOp p n d) n).step = some
      { t with
        occ := occ, decided := t.decided.map fun y => if y.x = d.x then { y with gated := y.gated + 1 } else y
        barGen := tset 0 t.barGen (entryNow p n d.entry).recvGate (tget 0 t.barGen (entryNow p n d.entry).recvGate + 1) } := by
  unfold recvGateOp
  extract_lets i e rows at_ p1
  have hpen : penOf p1 n = penOf p n := penOf_congr (by simp [p1]) n
  clear_value p1
  refine ⟨?_, _, completeGen_step (modDecided_step (modStep_step (hpen ▸ h) _) _ _) _⟩
  simp [completeGen_bufs, modDecided, modStep, hpen]

/-- The route sorter writes the output buffer alone, and no step job (R214). -/
theorem combineHalf_step (p : Pkg) (n : Nat) (d : Decided) : (penOf (combineHalf p n d) n).step = (penOf p n).step :=
  forAll_keep (fun q => (penOf q n).step) _ _ _ fun q k => by simp [bufPut]

theorem combineHalf_bufByte (p : Pkg) (n : Nat) (d : Decided) {b : Nat} (hb : b ≠ (entryNow p n d.entry).outBuf) (k : Nat) :
    bufByte n b (bufOf (combineHalf p n d) n b) k = bufByte n b (bufOf p n b) k :=
  forAll_keep (fun q => bufByte n b (bufOf q n b) k) _ _ _ fun q _ => by
    dsimp only
    rw [bufByte_bufPut, if_neg fun h => hb h.1]

end Sys2Proof.Machine
end

section
/-! PROOFS. The exchange watchdog (R216) and its fence, which ends the step of its pen (R189, R384): the end of a request's step and what
waits for it change of every pen the pool, the step and its rerun alone. -/

namespace Sys2Proof.Machine

/-- A pen without its pool, its step and the slots of its rerun. -/
def penFace (x : Pen) : Pen := { x with pool := {}, step := none, rerun := [] }

/-- Every pen is as it was but for its pool, its step and its rerun. -/
def FaceKept (p q : Pkg) : Prop := ∀ m, penFace (penOf q m) = penFace (penOf p m)

section Face
variable {p0 p : Pkg}

theorem FaceKept.refl (p : Pkg) : FaceKept p p := fun _ => rfl

theorem faceKept_of_pens {q : Pkg} (hp : FaceKept p0 p) (h : q.pens = p.pens) : FaceKept p0 q :=
  fun m => by rw [penOf_congr h, hp m]

theorem ite_faceKept {c : Prop} [Decidable c] {q r : Pkg} (hq : FaceKept p0 q) (hr : FaceKept p0 r) : FaceKept p0 (if c then q else r) := by
  split
  · exact hq
  · exact hr

theorem forAll_faceKept {α : Type} {l : List α} {f : Pkg → α → Pkg} (hp : FaceKept p0 p)
    (hf : ∀ q x, FaceKept p0 q → FaceKept p0 (f q x)) : FaceKept p0 (forAll l f p) := foldl_inv l hp hf

theorem modPen_faceKept {n : Nat} {f : Pen → Pen} (hp : FaceKept p0 p) (hf : ∀ x, penFace (f x) = penFace x) : FaceKept p0 (modPen p n f) := by
  intro m
  rw [penOf_modPen]
  split
  · next h => rw [hf, ← h, hp m]
  · exact hp m

theorem modPool_faceKept {n : Nat} {f : Pool → Pool} (hp : FaceKept p0 p) : FaceKept p0 (modPool p n f) := modPen_faceKept hp fun _ => rfl

theorem modReq_faceKept {e : Nat} {f : Req → Req} (hp : FaceKept p0 p) : FaceKept p0 (modReq p e f) := faceKept_of_pens hp rfl

theorem setRq_faceKept {x : ReqGlob} (hp : FaceKept p0 p) : FaceKept p0 { p with rq := x } := hp

/-! #### Pages and copies -/

theorem growBlocks_faceKept {e : Nat} (hp : FaceKept p0 p) : FaceKept p0 (growBlocks p e) :=
  forAll_faceKept hp fun _ _ hq => ite_faceKept (by
    split
    · exact modReq_faceKept (modPool_faceKept hq)
    · exact hq) hq

theorem stopCopies_faceKept {e : Nat} {whys : List Nat} (hp : FaceKept p0 p) : FaceKept p0 (stopCopies p e whys) := modPool_faceKept hp

theorem copyOut_faceKept {e why : Nat} (hp : FaceKept p0 p) : FaceKept p0 (copyOut p e why) :=
  faceKept_of_pens (p := startCopy p e why ((ownKeys p e).take (hostRoom p (reqOf p e).ctx (reqOf p e).pen (upto 16))))
    (ite_faceKept hp (modPool_faceKept hp)) (by simp [copyOut])

theorem releasePages_faceKept {e : Nat} (hp : FaceKept p0 p) : FaceKept p0 (releasePages p e) := by
  have hshared : FaceKept p0 (endSharing (stopCopies p e allCopies) e) :=
    forAll_faceKept (stopCopies_faceKept hp) fun _ _ hq => modReq_faceKept (stopCopies_faceKept hq)
  refine modReq_faceKept (modPool_faceKept (forAll_faceKept (forAll_faceKept hshared fun q x hq => ?_) fun _ _ => modPool_faceKept))
  split
  · exact modPool_faceKept hq
  · exact ite_faceKept hq (faceKept_of_pens hq rfl)
  · exact hq

/-! #### Requests that leave their step -/

theorem refuseAdmit_faceKept {e status : Nat} (hp : FaceKept p0 p) : FaceKept p0 (refuseAdmit p e status) := by
  have hans : FaceKept p0 (answer (giveBack p (reqOf p e).ctx 1) (reqOf p e).ctx (reqOf p e).admitDesc status 0 false false) :=
    faceKept_of_pens hp (by simp)
  exact faceKept_of_pens (releasePages_faceKept (e := e) hans) (by simp [refuseAdmit])

theorem dropTokSlot_faceKept {e : Nat} (hp : FaceKept p0 p) : FaceKept p0 (dropTokSlot p e) := faceKept_of_pens hp (by simp)

theorem leaveStep_faceKept {e : Nat} (hp : FaceKept p0 p) : FaceKept p0 (leaveStep p e) :=
  modReq_faceKept (dropTokSlot_faceKept (modPen_faceKept hp fun _ => rfl))

theorem endReq_faceKept {e status : Nat} (hp : FaceKept p0 p) : FaceKept p0 (endReq p e status) :=
  ite_faceKept hp (ite_faceKept (refuseAdmit_faceKept hp) (ite_faceKept hp
    (setRq_faceKept (modReq_faceKept (leaveStep_faceKept (stopCopies_faceKept hp))))))

theorem logEvent_faceKept {c status code handle a b d : Nat} (hp : FaceKept p0 p) : FaceKept p0 (logEvent p c status code handle a b d) :=
  faceKept_of_pens hp (by simp)

theorem closeResume_faceKept {e status : Nat} (hp : FaceKept p0 p) : FaceKept p0 (closeResume p e status) := faceKept_of_pens hp (by simp)

theorem answerHeld_faceKept {e : Nat} {d : Desc} {status : Nat} (hp : FaceKept p0 p) : FaceKept p0 (answerHeld p e d status) :=
  faceKept_of_pens hp (by simp)

theorem applyPause_faceKept {e : Nat} {d : Desc} {ttl : Nat} (hp : FaceKept p0 p) : FaceKept p0 (applyPause p e d ttl) :=
  ite_faceKept (answerHeld_faceKept (modReq_faceKept hp))
    (answerHeld_faceKept (copyOut_faceKept (stopCopies_faceKept (modReq_faceKept (closeResume_faceKept hp)))))

theorem applyAppend_faceKept {e : Nat} {t : TokRead} {ts : List Word32} (hp : FaceKept p0 p) : FaceKept p0 (applyAppend p e t ts) := by
  unfold applyAppend
  dsimp only
  split
  · exact answerHeld_faceKept (faceKept_of_pens hp (by simp))
  · exact ite_faceKept (answerHeld_faceKept (modReq_faceKept hp)) (ite_faceKept (answerHeld_faceKept (modReq_faceKept hp))
      (growBlocks_faceKept (answerHeld_faceKept (modReq_faceKept (modPool_faceKept (modReq_faceKept hp))))))

theorem applyHeld_faceKept {e : Nat} (hp : FaceKept p0 p) : FaceKept p0 (applyHeld p e) :=
  forAll_faceKept hp fun _ _ hq => ite_faceKept hq (ite_faceKept (by
    split
    · split
      · exact applyAppend_faceKept hq
      · exact hq
    · exact hq) (ite_faceKept (applyPause_faceKept hq) hq))

theorem fallbackReq_faceKept {e : Nat} (hp : FaceKept p0 p) : FaceKept p0 (fallbackReq p e) := by
  unfold fallbackReq
  dsimp only
  split
  · exact faceKept_of_pens hp (by simp)
  · exact applyHeld_faceKept (growBlocks_faceKept (setRq_faceKept (logEvent_faceKept (modReq_faceKept (modPool_faceKept
      (closeResume_faceKept (releasePages_faceKept (leaveStep_faceKept hp))))))))

theorem applyPolicy_faceKept {e : Nat} (hp : FaceKept p0 p) : FaceKept p0 (applyPolicy p e) := by
  unfold applyPolicy
  dsimp only
  split
  · exact fallbackReq_faceKept hp
  · exact endReq_faceKept (setRq_faceKept (logEvent_faceKept hp))
  · exact hp

theorem haltArrays_faceKept {n : Nat} (hp : FaceKept p0 p) : FaceKept p0 (haltArrays p n) := faceKept_of_pens hp (by simp)

theorem retireReq_faceKept {e : Nat} (hp : FaceKept p0 p) : FaceKept p0 (retireReq p e) :=
  ite_faceKept (endReq_faceKept (modReq_faceKept hp))
    (applyHeld_faceKept (ite_faceKept (applyPolicy_faceKept (modReq_faceKept hp)) (modReq_faceKept hp)))

end Face

/-! #### The fence -/

theorem penOf_setPenState (p : Pkg) (n st : Nat) : penOf (setPenState p n st) n = { penOf p n with st := st } := by
  unfold setPenState
  dsimp only
  split
  · next h => rw [← h]
  · refine (penOf_congr (p := modPen p n fun x => { x with st := st }) (by simp) n).trans ?_
    rw [penOf_modPen_same]

/-- A pen whose step runs goes from ACTIVE back to BOUND with its step and its count of exchanges as they are. -/
theorem penTo_bound {p : Pkg} {n : Nat} (hst : (penOf p n).st = penActive) (hstep : (penOf p n).step.isSome = true) :
    penOf (penTo p n penBound) n = { penOf p n with st := penBound } := by
  have hsome : (penOf p n).step.isNone = false := by simpa using hstep
  simp [penTo, hst, hsome, penOf_setPenState]

theorem FaceKept.fence {p q : Pkg} (h : FaceKept p q) (n : Nat) :
    (penOf q n).fenced = (penOf p n).fenced ∧ (penOf q n).fenceEpoch = (penOf p n).fenceEpoch :=
  ⟨(congrArg Pen.fenced (h n) :), (congrArg Pen.fenceEpoch (h n) :)⟩

/-- Requests that retire give a pen no step. -/
theorem retireAll_step {p : Pkg} {n : Nat} (l : List Nat) (h : (penOf p n).step = none) :
    (penOf (forAll l (fun q e => retireReq (dropTokSlot q e) e) p) n).step = none := by
  have hhead : penHead true (forAll l (fun q e => retireReq (dropTokSlot q e) e) p) n = penHead true p n :=
    forAll_head _ _ _ _ fun q e => (retireReq_head _ _ _).trans (dropTokSlot_phc _ _ _)
  have hstep := penHead_step hhead
  rw [h] at hstep
  exact Option.map_eq_none_iff.mp hstep

/-- The end of a step by a fault leaves its pen no step and its fence as it is. -/
theorem dropStep_pen {p : Pkg} {n : Nat} (h : (penOf p n).step.isSome = true) :
    (penOf (dropStep p n) n).step = none ∧ (penOf (dropStep p n) n).fenced = (penOf p n).fenced ∧
      (penOf (dropStep p n) n).fenceEpoch = (penOf p n).fenceEpoch := by
  unfold dropStep
  split
  · next hnone => simp [hnone] at h
  · next t ht =>
    extract_lets p0 p1 p2 leash p3
    have hbefore : FaceKept p p1 := haltArrays_faceKept (modPool_faceKept (forAll_faceKept (.refl p) fun _ _ => modReq_faceKept))
    have hafter : FaceKept p3 (forAll t.placed (fun q e => retireReq (dropTokSlot q e) e) p3) :=
      forAll_faceKept (.refl p3) fun _ _ hq => retireReq_faceKept (dropTokSlot_faceKept hq)
    have hpen : penOf p3 n = { penOf p1 n with
        step := none, rerun := t.slots, records := [], marks := [], stepEnd := 0
        replace := (penOf p1 n).replace || decide ((penOf p1 n).groupSize ≤ 1) } :=
      (penOf_congr (p := p2) rfl n).trans (penOf_modPen_same _ _ _)
    obtain ⟨hfenced, hepoch⟩ := hafter.fence n
    obtain ⟨hfenced1, hepoch1⟩ := hbefore.fence n
    rw [hpen] at hfenced hepoch
    exact ⟨retireAll_step _ (by rw [hpen]), hfenced.trans hfenced1, hepoch.trans hepoch1⟩

/-- A fence marks its pen with the epoch of its begin and ends its step. -/
theorem fenceGroupOp_pen {p : Pkg} {n : Nat} (reason chip : Nat) (hmay : mayFence (penOf p n) = true) (hstep : (penOf p n).step.isSome = true) :
    (penOf (fenceGroupOp p n reason chip) n).fenced = true ∧ (penOf (fenceGroupOp p n reason chip) n).step = none ∧
      (penOf (fenceGroupOp p n reason chip) n).fenceEpoch = epochOf p := by
  unfold fenceGroupOp
  extract_lets x p1 p2 p3 p4
  have h1 : penOf p1 n = { penOf p n with fenced := true, fenceEpoch := epochOf p } := penOf_modPen_same _ _ _
  have h2 : (penOf p2 n).fenced = true ∧ (penOf p2 n).fenceEpoch = epochOf p ∧ (penOf p2 n).step.isSome = true := by
    simp only [p2]
    split
    · next hst =>
      rw [penTo_bound (by rw [h1]; exact hst) (by rw [h1]; exact hstep), h1]
      exact ⟨rfl, rfl, hstep⟩
    · rw [h1]
      exact ⟨rfl, rfl, hstep⟩
  obtain ⟨hfenced, hepoch, hrun⟩ := h2
  obtain ⟨hnone, hfenced3, hepoch3⟩ := dropStep_pen hrun
  have h4 : penOf (sendNotices p4 n reason) n = penOf p3 n := penOf_congr (by simp [p4]) n
  rw [if_neg (by simp [x, hmay]), h4]
  exact ⟨hfenced3.trans hfenced, hnone, hepoch3.trans hepoch⟩

/-- Settles O28: each gate by what it leaves of the step job, the buffers and the arrays, and the watchdog by its fence. -/
theorem exchangeGatesAndWatchdog : Obligations.ExchangeGatesAndWatchdog := by
  refine ⟨fun s pen half d hr hstep hnext hhalf hready => ?recv, fun s pen half d hr hstep hnext hhalf hdue hnow harr => ?comb,
    fun s pen x m hpow hpen hsize hstep hfenced hst hover => ?watchdog⟩
  case recv =>
    obtain ⟨t, ht⟩ := Option.isSome_iff_exists.mp hstep
    obtain ⟨hbufs, occ, hgate⟩ := recvGateOp_pen ht d
    refine does_of_act ((exec_recvGateComplete pen half s).trans rfl) (by simp [hr, hstep]) ?_
    simp only [hnext, hhalf, hready, and_self, if_true]
    rw [stepNow_of_step hgate, stepNow_of_step ht]
    exact ⟨by simp, rfl, hbufs, (recvGateOp_othersKept s.pkg pen d).arrays⟩
  case comb =>
    obtain ⟨t, ht⟩ := Option.isSome_iff_exists.mp hstep
    refine does_of_act ((exec_combGateComplete pen half s).trans rfl) (by simp [hr, hstep]) ?_
    simp only [hnext, hhalf, hnow, harr, ne_eq, hdue, not_false_eq_true, and_self, if_true]
    have hhalfStep := (combineHalf_step s.pkg pen d).trans ht
    rw [stepNow_of_step (completeGen_step (modDecided_step hhalfStep _ _) _), stepNow_of_step ht]
    refine ⟨by simp, rfl, fun b k hb => ?_, fun a => ?_⟩
    · rw [← combineHalf_bufByte s.pkg pen d hb k]
      simp [bufOf, completeGen_bufs, modDecided, modStep]
    · rw [completeGen_data, arrOf_congr (p := s.pkg) (by simp)]
  case watchdog =>
    refine does_of_act ((exec_exchangeWatchdog pen s).trans rfl) (by simp [hpow, hpen, hsize, hstep]) ?_
    simp only [hover]
    have hmay : mayFence (penOf s.pkg pen) = true := by
      simp only [List.mem_cons, List.not_mem_nil, or_false] at hst
      simp [mayFence, hsize, hfenced, hst]
    have hlog {code a b c e : Nat} := penOf_log s.pkg code a b c e pen
    have hfence := fenceGroupOp_pen (p := log s.pkg codeExchangeWatchdog 0 (x % 2 ^ 32) m 0) 4
      ((memberChip (penOf s.pkg pen) m).getD (chipNo s.pkg)) (by rwa [hlog]) (by rwa [hlog])
    simpa [epochOf] using hfence

end Sys2Proof.Machine
end

section
/-! PROOFS. IMPRINT_SHARD (R224 to R228): what a WRITE and a RETIRE make of the slots and of the authorisation, and how a write ends. -/

namespace Sys2Proof.Machine

/-! #### Reading the weight store -/

/-- A slot is read from the table of slots alone. -/
theorem slotOf_of_slots {p q : Pkg} (h : q.nvw.slots = p.nvw.slots) (k : Nat) : slotOf q k = slotOf p k := by
  unfold slotOf
  rw [h]

@[simp] theorem slotOf_settle (p0 p : Pkg) (k : Nat) : slotOf (settle p0 (judgeReady p)) k = slotOf p k := slotOf_congr (by simp) k

/-- The end of a verification moves its two flags alone (R230). -/
theorem judgeVerify_nvw (p : Pkg) :
    ∃ busy logged, (judgeVerify p).nvw = { p.nvw with verifyBusy := busy, verifyDoneLogged := logged } := by
  unfold judgeVerify
  dsimp only
  split
  · split
    · exact ⟨_, _, rfl⟩
    · exact ⟨_, _, by rw [log_keeps _ _ _ _ _ _ |>.2.2.2.2.2.2.1]; rfl⟩
  · exact ⟨_, _, rfl⟩

@[simp] theorem judgeVerify_store (p : Pkg) : (judgeVerify p).nvw.slots = p.nvw.slots ∧ (judgeVerify p).nvw.auth = p.nvw.auth ∧
    (judgeVerify p).nvw.imprints = p.nvw.imprints := by
  obtain ⟨busy, logged, h⟩ := judgeVerify_nvw p
  simp [h]

/-! #### Evaluation of a descriptor -/

/-- A descriptor of a ring that is no CANCEL is evaluated between those of no command's type (R265). -/
theorem evalDesc_of_due {p : Pkg} {ctx type : Nat} {d : Desc} (f : Pkg → Nat → Desc → Pkg) (h : due p (.ring ctx) type = some d)
    (htype : type ≠ 3) :
    evalDesc p (.ring ctx) type f = flushOdd (f (flushOdd p (.ring ctx) 4096) ctx d) (.ring ctx) 4096 := by
  simp [evalDesc, h, htype, srcCtx]

theorem noAuth_congr {p q : Pkg} (hn : q.nvw = p.nvw) (c : Nat) : noAuth q c = noAuth p c := by
  unfold noAuth
  rw [hn]

theorem imprintHead_congr {p q : Pkg} (hn : q.nvw = p.nvw) (c : Nat) (d : Desc) : imprintHead q c d = imprintHead p c d := by
  unfold imprintHead
  rw [noAuth_congr hn]

theorem imprintSlot_congr {p q : Pkg} (hn : q.nvw = p.nvw) (hg : q.glb = p.glb) : imprintSlot q = imprintSlot p := by
  have hslot : slotOf q = slotOf p := funext (slotOf_congr hn)
  have husable : nvUsable q = nvUsable p := by unfold nvUsable; rw [hg]
  unfold imprintSlot
  rw [hslot, husable]

/-- The checks of Table 7-3 read the weight store and the availability of its stacks. -/
theorem writeBar_congr {p q : Pkg} (hn : q.nvw = p.nvw) (hg : q.glb = p.glb) (c : Nat) (d : Desc) : writeBar q c d = writeBar p c d := by
  unfold writeBar
  rw [imprintHead_congr hn, imprintSlot_congr hn hg]

theorem retireSlots_congr {p q : Pkg} (hn : q.nvw = p.nvw) (shard length : Nat) (digest : Bytes) :
    retireSlots q shard length digest = retireSlots p shard length digest := by
  unfold retireSlots
  rw [hn]

theorem retireBar_congr {p q : Pkg} (hn : q.nvw = p.nvw) (c : Nat) (d : Desc) : retireBar q c d = retireBar p c d := by
  have hslot : slotOf q = slotOf p := funext (slotOf_congr hn)
  unfold retireBar
  rw [imprintHead_congr hn, retireSlots_congr hn, hslot]

/-! #### WRITE (R226) -/

/-- The slot that a WRITE has taken. -/
def takenSlot (d : Desc) (x : Slot) : Slot :=
  { x with
    st := nvWriting, cycles := x.cycles + 1, shard := impShard d, length := impLength d, digest := impDigest d
    origin := 0, authId := 0, payload := [], crcs := [], checks := [] }

/-- The imprint of a WRITE that was taken. -/
def takenImprint (c k : Nat) (d : Desc) (a : ImprintAuth) : Imprint :=
  { ctx := c, slot := k, tag := d.tag, irq := d.irq, sqIndex := d.index, num := d.num, addr := impAddr d, authId := a.id, counted := true }

theorem imprintWriteOp_nvw {p : Pkg} {c k : Nat} {d : Desc} {a : ImprintAuth} (hbar : writeBar p c d = none)
    (hslot : imprintSlot p = some k) (ha : p.nvw.auth = some a) : (imprintWriteOp p c d).nvw =
      { p.nvw with
        slots := tmod {} p.nvw.slots k (takenSlot d), auth := if a.left ≤ 1 then none else some { a with left := a.left - 1 }
        imprints := p.nvw.imprints ++ [takenImprint c k d a] } := by
  simp [imprintWriteOp, hbar, hslot, ha, modNvw, modSlot, takenImprint]
  rfl

theorem imprintWriteOp_refused {p : Pkg} {c st : Nat} {d : Desc} (hbar : writeBar p c d = some st) :
    imprintWriteOp p c d = imprintRefuse p c 0 d st := by
  simp [imprintWriteOp, hbar]

/-! #### RETIRE (R228) -/

/-- An emptied slot keeps its cycles alone, and the store forgets what it remembered of it. -/
theorem emptySlotOp_nvw (p : Pkg) (k : Nat) : (emptySlotOp p k).nvw =
    { p.nvw with
      slots := tmod {} p.nvw.slots k leftEmpty, stopped := p.nvw.stopped.filter fun j => decide (j ≠ k)
      dry := p.nvw.dry.filter fun j => decide (j ≠ k), spoiled := p.nvw.spoiled.filter fun j => decide (j ≠ k) } := by
  unfold emptySlotOp
  dsimp only
  split
  · rw [log_keeps _ _ _ _ _ _ |>.2.2.2.2.2.2.1]; rfl
  · rfl

theorem slotOf_emptySlotOp (p : Pkg) (k j : Nat) : slotOf (emptySlotOp p k) j = if j = k then leftEmpty (slotOf p k) else slotOf p j := by
  unfold slotOf
  rw [emptySlotOp_nvw]
  exact tget_tmod _ _ _ _ _

theorem leftEmpty_leftEmpty (x : Slot) : leftEmpty (leftEmpty x) = leftEmpty x := rfl

/-- Slots that are emptied one after another, however often one is named. -/
theorem slotOf_forAll_emptySlotOp (ks : List Nat) {g : Pkg → Nat → Pkg} (hg : ∀ q k, (g q k).nvw = q.nvw) (p : Pkg) (j : Nat) :
    slotOf (forAll ks (fun q k => emptySlotOp (g q k) k) p) j = if j ∈ ks then leftEmpty (slotOf p j) else slotOf p j := by
  induction ks generalizing p with
  | nil => simp [forAll]
  | cons k ks ih =>
    have hstep : slotOf (emptySlotOp (g p k) k) j = if j = k then leftEmpty (slotOf p k) else slotOf p j := by
      rw [slotOf_emptySlotOp, slotOf_congr (hg p k), slotOf_congr (hg p k)]
    refine (ih (emptySlotOp (g p k) k)).trans ?_
    rw [hstep]
    by_cases hj : j = k <;> by_cases hmem : j ∈ ks <;> simp [hj, hmem, leftEmpty_leftEmpty]

theorem imprintRetireOp_slots (p : Pkg) (c : Nat) (d : Desc) (k : Nat) : slotOf (imprintRetireOp p c d) k =
    if retireBar p c d = none ∧ k ∈ retireSlots p (impShard d) (impLength d) (impDigest d) then leftEmpty (slotOf p k)
    else slotOf p k := by
  unfold imprintRetireOp
  split
  next st h =>
    rw [slotOf_congr (p := p) (by simp), if_neg (by simp [h])]
  next h =>
    extract_lets ks p1
    have hslots : (answer (judgeVerify p1) c d stOk 0 false false).nvw.slots = p1.nvw.slots := by simp
    rw [slotOf_of_slots hslots, slotOf_forAll_emptySlotOp ks (by simp)]
    simp [h, ks]

theorem imprintRetireOp_auth (p : Pkg) (c : Nat) (d : Desc) : (imprintRetireOp p c d).nvw.auth = p.nvw.auth := by
  unfold imprintRetireOp
  split
  · simp
  · simp only [answer_keeps, (judgeVerify_store _).2.1]
    exact forAll_keep (fun q => q.nvw.auth) _ _ _ fun q k => by simp [emptySlotOp_nvw]

/-! #### The end of a write (R226) -/

/-- The slot of a shard that has been written. -/
def imprintedSlot (b : Bytes) (authId : Nat) (x : Slot) : Slot :=
  { x with st := nvVerified, payload := b, crcs := blockCrcs b, checks := lineChecks b, authId := authId }

/-- A write whose bytes carry the digest ends VERIFIED. -/
theorem imprintEnd_good {p : Pkg} {i : Imprint} {b : Bytes} (hb : sha256 b = (slotOf p i.slot).digest)
    (hs : i.slot ∉ p.nvw.spoiled) : (imprintEnd p i (some b)).nvw =
      { p.nvw with
        slots := tmod {} p.nvw.slots i.slot (imprintedSlot b i.authId)
        imprints := p.nvw.imprints.filter fun x => decide (x.slot ≠ i.slot) } := by
  simp [imprintEnd, hb, hs, modNvw, modSlot]
  rfl

theorem imprintEnd_good_slot {p : Pkg} {i : Imprint} {b : Bytes} (hb : sha256 b = (slotOf p i.slot).digest)
    (hs : i.slot ∉ p.nvw.spoiled) (j : Nat) : slotOf (imprintEnd p i (some b)) j =
      if j = i.slot then imprintedSlot b i.authId (slotOf p i.slot) else slotOf p j := by
  rw [slotOf, imprintEnd_good hb hs]
  exact tget_tmod _ _ _ _ _

/-- Any other write empties its slot and gives its count back. -/
theorem imprintEnd_bad {p : Pkg} {i : Imprint} {payload : Option Bytes}
    (h : ∀ b, payload = some b → sha256 b ≠ (slotOf p i.slot).digest ∨ i.slot ∈ p.nvw.spoiled) : (imprintEnd p i payload).nvw =
      { (emptySlotOp p i.slot).nvw with
        imprints := p.nvw.imprints.filter fun x => decide (x.slot ≠ i.slot)
        auth := p.nvw.auth.map fun a => { a with left := if i.counted then a.left + 1 else a.left } } := by
  cases payload with
  | none => simp [imprintEnd, modNvw, emptySlotOp_nvw]
  | some b =>
    have hbad : ¬ (sha256 b = (slotOf p i.slot).digest ∧ i.slot ∉ p.nvw.spoiled) := by
      have := h b rfl
      tauto
    simp [imprintEnd, hbad, modNvw, emptySlotOp_nvw]

theorem imprintEnd_bad_slot {p : Pkg} {i : Imprint} {payload : Option Bytes}
    (h : ∀ b, payload = some b → sha256 b ≠ (slotOf p i.slot).digest ∨ i.slot ∈ p.nvw.spoiled) (j : Nat) :
    slotOf (imprintEnd p i payload) j = if j = i.slot then leftEmpty (slotOf p i.slot) else slotOf p j := by
  rw [slotOf, imprintEnd_bad h, ← slotOf_emptySlotOp]
  rfl

/-- IMPRINT_WRITE_DONE ends the present write of its stack, when it brings the whole shard or an error. -/
theorem imprintWriteDone_next {s : State} {stack : Nat} {i : Imprint} {payload : Option Bytes} (hrun : fwRuns s.pkg = true)
    (hi : writingOn s.pkg stack = some i) (hlen : ∀ b, payload = some b → b.length = (slotOf s.pkg i.slot).length) :
    exec (.imprintWriteDone stack payload) s =
      .next { s with pkg := settle s.pkg (judgeReady (imprintEnd s.pkg i payload)) } := by
  rw [exec_imprintWriteDone, execImprintWriteDone, actS_next hrun]
  cases payload with
  | none => simp [hi]
  | some b => simp [hi, hlen b rfl]

/-- Settles O29: each command by the weight store that its operation leaves. -/
theorem imprintCommands : Obligations.ImprintCommands := by
  refine ⟨fun s ctx k d a hdue hop hbar hslot ha => ?write, fun s ctx st d hdue hop hbar => ?refused, fun s ctx d hdue hop => ?retire,
    fun s stack i payload hrun hi hlen => ?done, fun s a ha hexp => ?expiry⟩
  case write =>
    have hn : (flushOdd s.pkg (.ring ctx) 4096).nvw = s.pkg.nvw := by simp
    have hg : (flushOdd s.pkg (.ring ctx) 4096).glb = s.pkg.glb := by simp
    have htaken := imprintWriteOp_nvw ((writeBar_congr hn hg ctx d).trans hbar) ((imprintSlot_congr hn hg).trans hslot)
      ((congrArg Nvw.auth hn).trans ha)
    refine does_of_act ((exec_imprintWrite ctx s).trans rfl) (by simp [hdue, hop]) ?_
    rw [evalDesc_of_due _ hdue (by decide)]
    have hslots (j : Nat) : slotOf (flushOdd (imprintWriteOp (flushOdd s.pkg (.ring ctx) 4096) ctx d) (.ring ctx) 4096) j =
        if j = k then takenSlot d (slotOf s.pkg k) else slotOf s.pkg j := by
      rw [slotOf_congr (p := imprintWriteOp (flushOdd s.pkg (.ring ctx) 4096) ctx d) (by simp), slotOf, htaken, hn]
      exact tget_tmod _ _ _ _ _
    refine ⟨by simp [hslots, takenSlot], fun j hj => by simp [hslots, hj], by simp [htaken],
      takenImprint ctx k d a, by simp [htaken], rfl, rfl, rfl⟩
  case refused =>
    have hn : (flushOdd s.pkg (.ring ctx) 4096).nvw = s.pkg.nvw := by simp
    have hg : (flushOdd s.pkg (.ring ctx) 4096).glb = s.pkg.glb := by simp
    refine does_of_act ((exec_imprintWrite ctx s).trans rfl) (by simp [hdue, hop]) ?_
    rw [evalDesc_of_due _ hdue (by decide), imprintWriteOp_refused ((writeBar_congr hn hg ctx d).trans hbar)]
    simp
  case retire =>
    have hn : (flushOdd s.pkg (.ring ctx) 4096).nvw = s.pkg.nvw := by simp
    refine does_of_actS ((exec_imprintRetire ctx s).trans rfl) (by simp [hdue, hop]) ?_
    rw [evalDesc_of_due _ hdue (by decide)]
    refine ⟨by simp [imprintRetireOp_auth], fun k => ?_⟩
    rw [slotOf_settle, slotOf_congr (p := imprintRetireOp (flushOdd s.pkg (.ring ctx) 4096) ctx d) (by simp), imprintRetireOp_slots,
      retireBar_congr hn, retireSlots_congr hn, slotOf_congr hn]
  case done =>
    refine ⟨_, imprintWriteDone_next hrun hi hlen, ?_⟩
    simp only [slotOf_settle, settle_keeps, judgeReady_keeps]
    by_cases hgood : ∃ b, payload = some b ∧ sha256 b = (slotOf s.pkg i.slot).digest ∧ i.slot ∉ s.pkg.nvw.spoiled
    · obtain ⟨b, rfl, hb, hs⟩ := hgood
      have hslot (j : Nat) := imprintEnd_good_slot hb hs j
      refine ⟨fun j hj => by simp [hslot, hj], by simp [imprintEnd_good hb hs], fun b' hb' _ _ => ?_, fun hbad => ?_⟩
      · obtain rfl := Option.some.inj hb'
        simp [hslot, imprintedSlot]
      · exact absurd hs (by simpa [hb] using hbad b rfl)
    · have hbad (b : Bytes) (hb : payload = some b) : sha256 b ≠ (slotOf s.pkg i.slot).digest ∨ i.slot ∈ s.pkg.nvw.spoiled := by
        by_contra hno
        exact hgood ⟨b, hb, by tauto⟩
      have hslot (j : Nat) := imprintEnd_bad_slot hbad j
      refine ⟨fun j hj => by simp [hslot, hj], by simp [imprintEnd_bad hbad], fun b hb hd hs => ?_, fun _ => ⟨by simp [hslot], ?_⟩⟩
      · exact absurd ⟨b, hb, hd, hs⟩ hgood
      · intro hcounted a ha
        simp [imprintEnd_bad hbad, hcounted, ha]
  case expiry =>
    simp [execImprintAuthExpiry, ha, hexp, modNvw]

end Sys2Proof.Machine
end

section
/-! PROOFS. The end of a step by a fault (R189): what it leaves of the weight store and of the steps of the pens, and the order of preference of
replicas, which reads the replica table, the tiers enabled and the plan alone (R181, R241). -/

namespace Sys2Proof.Machine

/-! #### The weight store -/

/-- The weight store is as it was but for its block fetches, the slots that no replica serves and the two flags of the verification. -/
def StoreKept (p q : Pkg) : Prop :=
  ∃ fetches dry busy logged,
    q.nvw = { p.nvw with fetches := fetches, dry := dry, verifyBusy := busy, verifyDoneLogged := logged }

section Store
variable {p0 p : Pkg}

theorem StoreKept.refl (p : Pkg) : StoreKept p p := ⟨_, _, _, _, rfl⟩

theorem storeKept_of_nvw {q : Pkg} (hp : StoreKept p0 p) (h : q.nvw = p.nvw) : StoreKept p0 q := by
  obtain ⟨fetches, dry, busy, logged, e⟩ := hp
  exact ⟨fetches, dry, busy, logged, h.trans e⟩

theorem StoreKept.slot {q : Pkg} (h : StoreKept p q) (k : Nat) : slotOf q k = slotOf p k := by
  obtain ⟨_, _, _, _, e⟩ := h
  exact slotOf_of_slots (by rw [e]) k

theorem StoreKept.fields {q : Pkg} (h : StoreKept p q) : q.nvw.slots = p.nvw.slots ∧ q.nvw.spoiled = p.nvw.spoiled ∧
    q.nvw.eccUncorr = p.nvw.eccUncorr ∧ q.nvw.replicas = p.nvw.replicas ∧ q.nvw.hashFail = p.nvw.hashFail := by
  obtain ⟨_, _, _, _, e⟩ := h
  simp [e]

theorem ite_storeKept {c : Prop} [Decidable c] {q r : Pkg} (hq : StoreKept p0 q) (hr : StoreKept p0 r) :
    StoreKept p0 (if c then q else r) := by
  split
  · exact hq
  · exact hr

theorem forAll_storeKept {α : Type} {l : List α} {f : Pkg → α → Pkg} (hp : StoreKept p0 p)
    (hf : ∀ q x, StoreKept p0 q → StoreKept p0 (f q x)) : StoreKept p0 (forAll l f p) := foldl_inv l hp hf

theorem setFetches_storeKept {fs : List BlockFetch} (hp : StoreKept p0 p) : StoreKept p0 (modNvw p fun n => { n with fetches := fs }) := by
  obtain ⟨_, dry, busy, logged, e⟩ := hp
  exact ⟨fs, dry, busy, logged, by rw [modNvw, e]⟩

theorem setDry_storeKept {ks : List Nat} (hp : StoreKept p0 p) : StoreKept p0 (modNvw p fun n => { n with dry := ks }) := by
  obtain ⟨fetches, _, busy, logged, e⟩ := hp
  exact ⟨fetches, ks, busy, logged, by rw [modNvw, e]⟩

theorem judgeVerify_storeKept (hp : StoreKept p0 p) : StoreKept p0 (judgeVerify p) := by
  obtain ⟨fetches, dry, _, _, e⟩ := hp
  obtain ⟨busy, logged, h⟩ := judgeVerify_nvw p
  exact ⟨fetches, dry, busy, logged, by rw [h, e]⟩

/-- The block fetches of a pen's slots end with its step (R244). -/
theorem dropStep_nvw (p : Pkg) (n : Nat) : ∃ fetches, (dropStep p n).nvw = { p.nvw with fetches := fetches } := by
  unfold dropStep
  split
  · exact ⟨_, rfl⟩
  · extract_lets p0 p1 p2 leash p3
    have hp2 : p2.nvw = p.nvw := by simp [p2, p1, p0]
    have hp3 : p3.nvw = dropFetches p.nvw n := congrArg (dropFetches · n) hp2
    exact ⟨_, (forAll_nvw _ _ _ (by simp)).trans hp3⟩

theorem dropStep_storeKept {n : Nat} (hp : StoreKept p0 p) : StoreKept p0 (dropStep p n) := by
  obtain ⟨_, dry, busy, logged, e⟩ := hp
  obtain ⟨fetches, h⟩ := dropStep_nvw p n
  exact ⟨fetches, dry, busy, logged, by rw [h, e]⟩

theorem fenceGroupOp_storeKept {n reason chip : Nat} (hp : StoreKept p0 p) : StoreKept p0 (fenceGroupOp p n reason chip) := by
  unfold fenceGroupOp
  extract_lets x p1 p2 p3 p4
  have h2 : StoreKept p0 p2 := ite_storeKept (storeKept_of_nvw hp (by simp [p1])) hp
  exact ite_storeKept hp (storeKept_of_nvw (dropStep_storeKept (n := n) h2) (by simp [p4, p3]))

theorem faultStep_storeKept {n : Nat} (hp : StoreKept p0 p) : StoreKept p0 (faultStep p n) :=
  ite_storeKept hp (ite_storeKept (dropStep_storeKept hp) (fenceGroupOp_storeKept hp))

end Store

/-! #### The steps of the pens -/

theorem step_eq_none_iff {p : Pkg} {m : Nat} : (penOf p m).step = none ↔ (penHead true p m).key = some none := by
  simp [penHead, headOf]

theorem penHead_groupSize {lv : Bool} {p q : Pkg} {m : Nat} (h : penHead lv q m = penHead lv p m) :
    (penOf q m).groupSize = (penOf p m).groupSize := congrArg PenHead.groupSize h

theorem penTo_groupSize (p : Pkg) (n st m : Nat) : (penOf (penTo p n st) m).groupSize = (penOf p m).groupSize := by
  have h := penTo_head (lv := false) p n st m
  refine (congrArg PenHead.groupSize h).trans ?_
  split
  · next hm => subst hm; rfl
  · rfl

theorem penTo_step_eq_none {p : Pkg} {n st m : Nat} (h : (penOf p m).step = none) : (penOf (penTo p n st) m).step = none := by
  rw [step_eq_none_iff] at h ⊢
  rw [penTo_head]
  split
  · next hm => subst hm; exact h
  · exact h

/-- The end of a pen's step begins none of another pen. -/
theorem dropStep_step_eq_none {p : Pkg} {m : Nat} (n : Nat) (h : (penOf p m).step = none) : (penOf (dropStep p n) m).step = none := by
  unfold dropStep
  split
  · exact h
  · next t _ =>
    extract_lets p0 p1 p2 leash p3
    have h1 : penHead true p1 m = penHead true p m := by
      rw [show p1 = haltArrays (modPool p0 n fun o => t.pins.foldl unpinFrame o) n from rfl, haltArrays_phc, modPool_head]
      exact forAll_head _ _ _ _ fun _ _ => rfl
    have hnone : (penOf p1 m).step = none := by rwa [step_eq_none_iff, h1, ← step_eq_none_iff]
    refine retireAll_step _ ?_
    have h2 : penOf p3 m = penOf p2 m := rfl
    rw [h2, penOf_modPen]
    split
    · rfl
    · exact hnone

theorem fenceGroupOp_step_eq_none {p : Pkg} {m : Nat} (n reason chip : Nat) (h : (penOf p m).step = none) :
    (penOf (fenceGroupOp p n reason chip) m).step = none := by
  unfold fenceGroupOp
  extract_lets x p1 p2 p3 p4
  split
  · exact h
  · have h1 : (penOf p1 m).step = none := by
      rw [penOf_modPen]
      split
      · next hm => exact hm ▸ h
      · exact h
    have h2 : (penOf p2 m).step = none := by
      simp only [p2]
      split
      · exact penTo_step_eq_none h1
      · exact h1
    rw [penOf_congr (q := sendNotices p4 n reason) (p := p3) (by simp [p4]) m]
    exact dropStep_step_eq_none n h2

theorem faultStep_step_eq_none {p : Pkg} {m : Nat} (n : Nat) (h : (penOf p m).step = none) : (penOf (faultStep p n) m).step = none := by
  unfold faultStep
  split
  · exact h
  · split
    · exact dropStep_step_eq_none n h
    · exact fenceGroupOp_step_eq_none n 2 _ h

/-- A pen of one member loses its step. -/
theorem faultStep_step {p : Pkg} {n : Nat} (h : (penOf p n).groupSize ≤ 1) : (penOf (faultStep p n) n).step = none := by
  unfold faultStep
  split
  · next hnone => simpa using hnone
  · next hsome =>
    exact (dropStep_pen (by cases hs : (penOf p n).step <;> simp_all)).1

theorem faultStep_groupSize (p : Pkg) (n m : Nat) : (penOf (faultStep p n) m).groupSize = (penOf p m).groupSize := by
  unfold faultStep
  split
  · rfl
  · split
    · exact penHead_groupSize (dropStep_head p n m)
    · unfold fenceGroupOp
      extract_lets x p1 p2 p3 p4
      split
      · rfl
      · have h1 : (penOf p1 m).groupSize = (penOf p m).groupSize := penHead_groupSize (lv := false) (modPen_head p n m _ fun _ => rfl)
        have h2 : (penOf p2 m).groupSize = (penOf p1 m).groupSize := by
          simp only [p2]
          split
          · exact penTo_groupSize p1 n penBound m
          · rfl
        rw [penOf_congr (q := sendNotices p4 n 2) (p := p3) (by simp [p4]) m]
        exact (penHead_groupSize (dropStep_head p2 n m)).trans (h2.trans h1)

/-- Of the pens whose steps are ended in turn, each of one member is left without its step. -/
theorem forAll_faultStep_step {ns : List Nat} {p : Pkg} {n : Nat} (hn : n ∈ ns) (h : (penOf p n).groupSize ≤ 1) :
    (penOf (forAll ns faultStep p) n).step = none := by
  have hkept (l : List Nat) (q : Pkg) (hq : (penOf q n).step = none) : (penOf (forAll l faultStep q) n).step = none :=
    foldl_inv (P := fun r => (penOf r n).step = none) l hq fun r m hr => faultStep_step_eq_none m hr
  induction ns generalizing p with
  | nil => exact absurd hn List.not_mem_nil
  | cons m ns ih =>
    rcases List.mem_cons.mp hn with rfl | hmem
    · exact hkept ns _ (faultStep_step h)
    · exact ih hmem ((faultStep_groupSize p m n).trans_le h)

/-! #### Replicas in their order of preference -/

/-- What the order of preference among replicas reads is the same in two packages (R181, R241). -/
structure SameReplicas (p q : Pkg) : Prop where
  replicas : q.nvw.replicas = p.nvw.replicas
  tiers : q.nvw.sledCtrl = p.nvw.sledCtrl
  plan : q.fab.plan = p.fab.plan

theorem SameReplicas.rank {p q : Pkg} (h : SameReplicas p q) (i : Nat) (r : Replica) : replicaRank q i r = replicaRank p i r := by
  unfold replicaRank
  rw [h.plan]

theorem SameReplicas.usable {p q : Pkg} (h : SameReplicas p q) (e : ShardEnt) (r : Replica) : replicaUsable q e r = replicaUsable p e r := by
  unfold replicaUsable
  rw [h.tiers]

theorem SameReplicas.for {p q : Pkg} (h : SameReplicas p q) (e : ShardEnt) : replicasFor q e = replicasFor p e := by
  simp only [replicasFor, h.replicas, h.rank, h.usable]

theorem SameReplicas.after {p q : Pkg} (h : SameReplicas p q) (e : ShardEnt) (r : Nat) : replicaAfter q e r = replicaAfter p e r := by
  simp only [replicaAfter, h.for, h.replicas, h.rank]

/-- The next replica of a slot is that of its shard. -/
theorem SameReplicas.next {p q : Pkg} (h : SameReplicas p q) {k : Nat} (hk : entOfSlot (slotOf q k) = entOfSlot (slotOf p k))
    (tried : Option Nat) : nextReplica q k tried = nextReplica p k tried := by
  cases tried <;> simp only [nextReplica, replicasOfSlot, hk, h.for, h.after]

@[simp] theorem payloadDone_plan (p : Pkg) (x : Replica) (off len : Nat) : (payloadDone p x off len).fab.plan = p.fab.plan := by
  unfold payloadDone
  split <;> rfl

theorem payloadDone_sameReplicas (p : Pkg) (x : Replica) (off len : Nat) : SameReplicas p (payloadDone p x off len) :=
  ⟨by simp, by simp, by simp⟩

/-- A replica is read from the replica table alone. -/
theorem replicaOf_of_replicas {p q : Pkg} (h : q.nvw.replicas = p.nvw.replicas) (i : Nat) : replicaOf q i = replicaOf p i := by
  unfold replicaOf
  rw [h]

theorem stepNow_congr {p q : Pkg} (h : q.pens = p.pens) (n : Nat) : stepNow q n = stepNow p n := by
  unfold stepNow
  rw [penOf_congr h]

theorem imageOf_congr {p q : Pkg} (h : q.pens = p.pens) (n : Nat) : imageOf q n = imageOf p n := by
  unfold imageOf
  rw [penOf_congr h]

end Sys2Proof.Machine
end

section
/-! PROOFS. NV slots (R230, R244 to R246): their verification, their repair from replicas, lines that cannot be corrected with the blocks fetched for
them, and a stack that fails. -/

namespace Sys2Proof.Machine

theorem penOf_settle (p0 p : Pkg) (n : Nat) : penOf (settle p0 (judgeReady p)) n = penOf p n := penOf_congr (by simp) n

theorem nvw_settle (p0 p : Pkg) : (settle p0 (judgeReady p)).nvw = p.nvw := by simp

theorem pens_settle (p0 p : Pkg) : (settle p0 (judgeReady p)).pens = p.pens := by simp

/-! #### Verification (R230) -/

/-- The slot whose verification has ended. -/
def verifiedSlot (good : Bool) (x : Slot) : Slot :=
  if good then { x with st := nvVerified, crcs := blockCrcs x.payload } else { x with st := nvBad }

theorem verifySlot_nvw {p : Pkg} {k : Nat} (hst : (slotOf p k).st = nvUnverified) (readable : Bool) : (verifySlot p k readable).nvw =
    { p.nvw with slots := tmod {} p.nvw.slots k (verifiedSlot (readable && digestHolds (slotOf p k))) } := by
  unfold verifySlot
  cases hgood : readable && digestHolds (slotOf p k) <;> simp [hst, hgood, modSlot] <;> rfl

theorem slotOf_verifySlot {p : Pkg} {k : Nat} (hst : (slotOf p k).st = nvUnverified) (readable : Bool) (j : Nat) :
    slotOf (judgeVerify (verifySlot p k readable)) j =
      if j = k then verifiedSlot (readable && digestHolds (slotOf p k)) (slotOf p k) else slotOf p j := by
  rw [slotOf_of_slots (judgeVerify_store _).1, slotOf, verifySlot_nvw hst]
  exact tget_tmod _ _ _ _ _

/-- The verification goes on while a slot of a usable stack is UNVERIFIED. -/
theorem judgeVerify_waits {p : Pkg} (h : ∃ e ∈ p.nvw.slots, e.2.st = nvUnverified ∧ nvUsable p (e.1 / 32) = true) :
    judgeVerify p = p := by
  have hall : (p.nvw.slots.all fun e => decide (e.2.st ≠ nvUnverified) || !nvUsable p (e.1 / 32)) = false := by
    obtain ⟨e, he, hst, hus⟩ := h
    exact List.all_eq_false.mpr ⟨e, he, by simp [hst, hus]⟩
  unfold judgeVerify
  rw [hall, Bool.and_false, if_neg Bool.false_ne_true]

/-- With none left it is over, and recorded once. -/
theorem judgeVerify_over {p : Pkg} (hbusy : p.nvw.verifyBusy = true) (hlogged : p.nvw.verifyDoneLogged = false)
    (h : ∀ e ∈ p.nvw.slots, e.2.st = nvUnverified → nvUsable p (e.1 / 32) = false) :
    (judgeVerify p).nvw = { p.nvw with verifyBusy := false, verifyDoneLogged := true } := by
  have hall : (p.nvw.slots.all fun e => decide (e.2.st ≠ nvUnverified) || !nvUsable p (e.1 / 32)) = true := by
    refine List.all_eq_true.mpr fun e he => ?_
    by_cases hst : e.2.st = nvUnverified
    · simp [h e he hst]
    · simp [hst]
  unfold judgeVerify
  rw [hall, hbusy]
  simp [modNvw, hlogged]

/-! #### Repairs (R245) -/

/-- A slot that a repair begins to write. -/
def rewriting (x : Slot) : Slot := { x with st := nvWriting, cycles := x.cycles + 1 }

/-- A slot that a repair has written. -/
def rewritten (b : Bytes) (x : Slot) : Slot := { x with st := nvVerified, payload := b, crcs := blockCrcs b, checks := lineChecks b }

theorem repairFrom_nvw (p : Pkg) (k replica tries : Nat) : (repairFrom p k replica tries).nvw =
    { p.nvw with
      slots := tmod {} p.nvw.slots k rewriting
      repairs := (p.nvw.repairs.filter fun r => decide (r.slot ≠ k)) ++ [⟨k, replica, tries⟩] } := by
  simp [repairFrom, modNvw, modSlot]
  rfl

theorem slotOf_repairFrom (p : Pkg) (k replica tries j : Nat) :
    slotOf (repairFrom p k replica tries) j = if j = k then rewriting (slotOf p k) else slotOf p j := by
  rw [slotOf, repairFrom_nvw]
  exact tget_tmod _ _ _ _ _

/-- What a repair has brought is the payload of its slot's digest. -/
def repairGood (p : Pkg) (k : Nat) (b : Bytes) : Prop :=
  b.length = (slotOf p k).length ∧ sha256 b = (slotOf p k).digest ∧ k ∉ p.nvw.spoiled

theorem repairEnd_good {p : Pkg} {r : Repair} {b : Bytes} (h : repairGood p r.slot b) :
    (repairEnd p r (some b)).nvw.slots = tmod {} p.nvw.slots r.slot (rewritten b) ∧
      (repairEnd p r (some b)).nvw.repairs = p.nvw.repairs.filter fun x => decide (x.slot ≠ r.slot) := by
  obtain ⟨hlen, hsha, hspoiled⟩ := h
  simp [repairEnd, hlen, hsha, hspoiled, modNvw, modSlot]
  rfl

/-- The package in which a repair has failed: its slot is BAD again, and the repair is over. -/
def repairFailed (p : Pkg) (r : Repair) (data : Option Bytes) : Pkg :=
  modSlot (modNvw p fun n =>
    { n with
      repairs := n.repairs.filter fun x => decide (x.slot ≠ r.slot), spoiled := n.spoiled.filter fun j => decide (j ≠ r.slot)
      slowBytes := satAdd sat32 n.slowBytes (match data with | some b => b.length | none => 0) }) r.slot fun x => { x with st := nvBad }

theorem slotOf_repairFailed (p : Pkg) (r : Repair) (data : Option Bytes) (j : Nat) :
    slotOf (repairFailed p r data) j = if j = r.slot then { slotOf p r.slot with st := nvBad } else slotOf p j :=
  slotOf_modSlot _ _ _ _

theorem repairFailed_next (p : Pkg) (r : Repair) (data : Option Bytes) (tried : Option Nat) :
    nextReplica (repairFailed p r data) r.slot tried = nextReplica p r.slot tried :=
  SameReplicas.next (p := p) (q := repairFailed p r data) ⟨rfl, rfl, rfl⟩ (by simp [slotOf_repairFailed, entOfSlot]) tried

/-- A repair that failed is tried once more, from the next replica, where there is one and a cycle is left (R245). -/
theorem repairEnd_bad {p : Pkg} {r : Repair} {data : Option Bytes} (h : ∀ b, data = some b → ¬ repairGood p r.slot b) :
    repairEnd p r data = match nextReplica p r.slot (some r.replica) with
      | some k => if r.tries = 0 ∧ (slotOf p r.slot).cycles < 100000 then repairFrom (repairFailed p r data) r.slot k 1
        else repairStops (repairFailed p r data) r.slot
      | none => repairStops (repairFailed p r data) r.slot := by
  rw [← repairFailed_next p r data]
  cases data with
  | none => rfl
  | some b =>
    have hbad : ¬ (b.length = (slotOf p r.slot).length ∧ sha256 b = (slotOf p r.slot).digest ∧ r.slot ∉ p.nvw.spoiled) := h b rfl
    simp only [repairEnd, hbad, decide_false]
    rfl

theorem slotOf_repairStops (p : Pkg) (k j : Nat) : slotOf (repairStops p k) j = slotOf p j :=
  slotOf_of_slots (by simp [repairStops, modNvw]) j

/-- A repair's end leaves every other slot as it is. -/
theorem slotOf_repairEnd_ne (p : Pkg) (r : Repair) (data : Option Bytes) {j : Nat} (hj : j ≠ r.slot) :
    slotOf (repairEnd p r data) j = slotOf p j := by
  by_cases h : ∃ b, data = some b ∧ repairGood p r.slot b
  · obtain ⟨b, rfl, hb⟩ := h
    rw [slotOf, (repairEnd_good hb).1]
    exact tget_tmod_ne _ _ _ hj
  · have hfailed : slotOf (repairFailed p r data) j = slotOf p j := by rw [slotOf_repairFailed, if_neg hj]
    rw [repairEnd_bad fun b hb hgood => h ⟨b, hb, hgood⟩]
    split
    · split
      · rw [slotOf_repairFrom, if_neg hj, hfailed]
      · rw [slotOf_repairStops, hfailed]
    · rw [slotOf_repairStops, hfailed]

theorem payloadDone_repairGood {p : Pkg} {x : Replica} {off len k : Nat} {b : Bytes} :
    repairGood (payloadDone p x off len) k b ↔ repairGood p k b := by
  simp [repairGood, slotOf_congr (p := p) (q := payloadDone p x off len) (by simp)]

/-- NV_REPAIR_DONE ends the repair of its slot with what its fetch has brought. -/
theorem nvRepairDone_next {s : State} {slot : Nat} {r : Repair} (data : Option Bytes) (hrun : fwRuns s.pkg = true)
    (hr : s.pkg.nvw.repairs.find? (fun x => decide (x.slot = slot)) = some r) :
    exec (.nvRepairDone slot data) s = .next { s with pkg := settle s.pkg (judgeReady
      (repairEnd (payloadDone s.pkg (replicaOf s.pkg r.replica) 0 (replicaOf s.pkg r.replica).length) r
        (payloadBytes s.pkg (replicaOf s.pkg r.replica) 0 (replicaOf s.pkg r.replica).length data))) } := by
  rw [exec_nvRepairDone, execNvRepairDone, actS_next hrun]
  simp only [hr]

/-! #### Corrected lines (R221, R250) -/

theorem lineCorrected_nvw (p : Pkg) (k off : Nat) : ∃ at_, (lineCorrected p k off).nvw =
    { p.nvw with eccCorr := tset 0 p.nvw.eccCorr (k / 32) (inc32 (tget 0 p.nvw.eccCorr (k / 32))), corrLogAt := at_ } := by
  unfold lineCorrected
  dsimp only
  split
  · exact ⟨_, by simp [modNvw]; rfl⟩
  · exact ⟨_, rfl⟩

theorem lineRead_corrected {p : Pkg} {k off bad again : Nat} (hbad : bad ≠ 0) (h : lineOk p bad 0 = true) :
    lineRead p k off bad again = lineCorrected (nextFree p) k off := by
  simp [lineRead, hbad, h]

theorem lineRead_again {p : Pkg} {k off bad again : Nat} (hbad : bad ≠ 0) (h : lineOk p bad 0 = false) :
    lineRead p k off bad again = uncorrectable (nextFree (nextFree p)) k off (lineOk p again 1) := by
  simp [lineRead, hbad, h]

/-! #### Block fetches (R244) -/

theorem fetchBlock_some {p : Pkg} {k off r : Nat} {tried : Option Nat} (h : nextReplica p k tried = some r) :
    (fetchBlock p k off tried).nvw = { p.nvw with fetches := p.nvw.fetches ++ [⟨k, off, r⟩] } ∧ (fetchBlock p k off tried).pens = p.pens := by
  simp [fetchBlock, h, modNvw]

theorem fetchBlock_storeKept {p0 p : Pkg} {k off : Nat} {tried : Option Nat} (hp : StoreKept p0 p) :
    StoreKept p0 (fetchBlock p k off tried) := by
  unfold fetchBlock
  split
  · next r _ => exact storeKept_of_nvw (setFetches_storeKept (fs := p.nvw.fetches ++ [⟨k, off, r⟩]) hp) (by simp [modNvw])
  · have hdry : StoreKept p0 (if tried.isSome then modNvw p fun n => { n with dry := (n.dry.filter fun j => decide (j ≠ k)) ++ [k] } else p) :=
      ite_storeKept (setDry_storeKept hp) hp
    exact ite_storeKept hdry (faultStep_storeKept hdry)

/-- The package in which a block fetch has ended. -/
def blockTaken (p : Pkg) (f : BlockFetch) (data : Option Bytes) : Pkg :=
  modNvw p fun n =>
    { n with
      fetches := n.fetches.filter fun x => !decide (x = f)
      slowBytes := satAdd sat32 n.slowBytes (match data with | some b => b.length | none => 0) }

/-- What a block fetch has brought has the CRC-32C of the slot's block check table. -/
def blockGood (p : Pkg) (f : BlockFetch) (data : Option Bytes) : Prop :=
  ∃ b, data = some b ∧ (slotOf p f.slot).crcs[f.off / 65536]? = some (crc32c b)

theorem blockArrives_good {p : Pkg} {f : BlockFetch} {data : Option Bytes} (h : blockGood p f data) :
    blockArrives p f data = blockTaken p f data := by
  obtain ⟨b, rfl, hb⟩ := h
  unfold blockArrives
  extract_lets same p1 good
  exact if_pos (decide_eq_true hb)

theorem blockArrives_bad {p : Pkg} {f : BlockFetch} {data : Option Bytes} (h : ¬ blockGood p f data) :
    blockArrives p f data = fetchBlock (blockTaken p f data) f.slot f.off (some f.replica) := by
  unfold blockArrives
  extract_lets same p1 good
  refine if_neg fun hgood => h ?_
  cases data with
  | none => exact absurd hgood Bool.false_ne_true
  | some b => exact ⟨b, rfl, of_decide_eq_true hgood⟩

theorem blockArrives_slots (p : Pkg) (f : BlockFetch) (data : Option Bytes) : (blockArrives p f data).nvw.slots = p.nvw.slots := by
  by_cases h : blockGood p f data
  · rw [blockArrives_good h]; rfl
  · rw [blockArrives_bad h, (fetchBlock_storeKept (.refl _)).fields.1]; rfl

/-! #### A stack that fails (R246) -/

theorem nvStackFail_storeKept {p0 p : Pkg} {stack : Nat} (hp : StoreKept p0 p) : StoreKept p0 (nvStackFail p stack) :=
  judgeVerify_storeKept (forAll_storeKept (storeKept_of_nvw hp (by simp)) fun _ _ => faultStep_storeKept)

theorem judgeReady_nvLost (p : Pkg) : (judgeReady p).glb.nvLost = p.glb.nvLost := by
  unfold judgeReady
  dsimp only
  split
  · rfl
  · split <;> rfl

theorem nvStackFail_nvLost (p : Pkg) (stack : Nat) : (nvStackFail p stack).glb.nvLost = tset false p.glb.nvLost stack true := by
  have hglb : (nvStackFail p stack).glb = (nvLose p stack).glb := by simp [nvStackFail]
  rw [hglb]
  simp [nvLose]

/-- A step of a one-member pen that streams from the stack ends. -/
theorem nvStackFail_step {p : Pkg} {stack n k : Nat} (hn : n ∈ enabledPens p) (hk : k ∈ stackSlots stack) (hs : streamsSlot p n k = true)
    (hsize : (penOf p n).groupSize ≤ 1) : (penOf (nvStackFail p stack) n).step = none := by
  unfold nvStackFail
  extract_lets ns
  have hmem : n ∈ ns := List.mem_filter.mpr ⟨hn, List.any_eq_true.mpr ⟨k, hk, hs⟩⟩
  rw [penOf_congr (judgeVerify_keeps _).2.2.2.2.2.1]
  exact forAll_faultStep_step hmem (by rwa [penOf_congr (p := p) (by simp)])

/-! #### Lines that cannot be corrected (R244) -/

/-- The package in which an uncorrectable line of a slot has been counted. -/
def lineCounted (p : Pkg) (k : Nat) : Pkg :=
  modNvw p fun x =>
    { x with
      eccUncorr := tset 0 x.eccUncorr (k / 32) (inc32 (tget 0 x.eccUncorr (k / 32)))
      badLines := tset [] x.badLines (k / 32) (recentLines p (k / 32) ++ [now p]) }

/-- The package in which the line is lost: the slot is BAD, or its write is spoiled. -/
def lineLost (p : Pkg) (k off : Nat) : Pkg :=
  if decide ((slotOf p k).st = nvWriting) then writeSpoiled (lineCounted p k) k off else slotBad (lineCounted p k) k off

theorem uncorrectable_lost (p : Pkg) (k off : Nat) : uncorrectable p k off false =
    if 64 ≤ (recentLines p (k / 32)).length then nvStackFail (lineLost p k off) (k / 32)
    else if inStream p k = true ∧ (slotOf p k).st ≠ nvWriting then fetchBlock (lineLost p k off) k off none
    else lineLost p k off := by
  have h : uncorrectable p k off false =
      if 64 < (recentLines p (k / 32) ++ [now p]).length then nvStackFail (lineLost p k off) (k / 32)
      else if inStream p k && !decide ((slotOf p k).st = nvWriting) then fetchBlock (lineLost p k off) k off none
      else lineLost p k off := rfl
  simp only [h, List.length_append, List.length_singleton, Nat.lt_succ_iff, Bool.and_eq_true, Bool.not_eq_true', decide_eq_false_iff_not,
    ne_eq]

theorem lineLost_of_writing {p : Pkg} {k : Nat} (off : Nat) (h : (slotOf p k).st = nvWriting) :
    (lineLost p k off).nvw = { (lineCounted p k).nvw with spoiled := p.nvw.spoiled ++ [k] } := by
  rw [lineLost, if_pos (decide_eq_true h)]
  simp [writeSpoiled, logLine, modNvw, lineCounted]

theorem slotBad_nvw (p : Pkg) (k off : Nat) : ∃ busy logged, (slotBad p k off).nvw =
    { p.nvw with
      slots := tmod {} p.nvw.slots k fun x => { x with st := nvBad }, verifyBusy := busy, verifyDoneLogged := logged } := by
  have hline : (logLine (modSlot p k fun s => { s with st := nvBad }) k off).nvw = (modSlot p k fun s => { s with st := nvBad }).nvw := by
    simp [logLine]
  unfold slotBad
  extract_lets q
  split
  · obtain ⟨busy, logged, h⟩ := judgeVerify_nvw (logSlot q codeNvVerifyFail k 0)
    have hlog : (logSlot q codeNvVerifyFail k 0).nvw = q.nvw := by simp
    exact ⟨busy, logged, by rw [h, hlog, hline]; rfl⟩
  · exact ⟨p.nvw.verifyBusy, p.nvw.verifyDoneLogged, hline⟩

theorem lineLost_of_not_writing {p : Pkg} {k : Nat} (off : Nat) (h : (slotOf p k).st ≠ nvWriting) :
    ∃ busy logged, (lineLost p k off).nvw =
      { (lineCounted p k).nvw with
        slots := tmod {} p.nvw.slots k fun x => { x with st := nvBad }, verifyBusy := busy, verifyDoneLogged := logged } := by
  rw [lineLost, if_neg (by simpa using h)]
  exact slotBad_nvw (lineCounted p k) k off

/-- The slot of a lost line. -/
theorem slotOf_lineLost (p : Pkg) (k off j : Nat) : slotOf (lineLost p k off) j =
    if j = k ∧ (slotOf p k).st ≠ nvWriting then { slotOf p k with st := nvBad } else slotOf p j := by
  by_cases h : (slotOf p k).st = nvWriting
  · rw [slotOf, lineLost_of_writing off h, if_neg (by simp [h])]
    rfl
  · obtain ⟨busy, logged, e⟩ := lineLost_of_not_writing off h
    rw [slotOf, e]
    simp only [h, ne_eq, not_false_eq_true, and_true]
    exact tget_tmod _ _ _ _ _

/-- A lost line leaves the replicas, the plan and the pens as they are, and counts on its stack. -/
theorem lineLost_rest (p : Pkg) (k off : Nat) : (lineLost p k off).nvw.replicas = p.nvw.replicas ∧
    (lineLost p k off).nvw.sledCtrl = p.nvw.sledCtrl ∧ (lineLost p k off).nvw.fetches = p.nvw.fetches ∧
    (lineLost p k off).nvw.eccUncorr = tset 0 p.nvw.eccUncorr (k / 32) (inc32 (tget 0 p.nvw.eccUncorr (k / 32))) := by
  by_cases h : (slotOf p k).st = nvWriting
  · rw [lineLost_of_writing off h]
    exact ⟨rfl, rfl, rfl, rfl⟩
  · obtain ⟨busy, logged, e⟩ := lineLost_of_not_writing off h
    rw [e]
    exact ⟨rfl, rfl, rfl, rfl⟩

theorem lineLost_keeps (p : Pkg) (k off : Nat) : (lineLost p k off).pens = p.pens ∧ (lineLost p k off).fab = p.fab := by
  unfold lineLost
  split <;> simp [writeSpoiled, slotBad, logLine, modNvw, lineCounted]

theorem lineLost_next (p : Pkg) (k off : Nat) (tried : Option Nat) : nextReplica (lineLost p k off) k tried = nextReplica p k tried := by
  obtain ⟨hreplicas, htiers, -, -⟩ := lineLost_rest p k off
  refine SameReplicas.next ⟨hreplicas, htiers, by rw [(lineLost_keeps p k off).2]⟩ ?_ tried
  rw [slotOf_lineLost]
  split <;> rfl

/-- What follows a lost line leaves the slots, what is spoiled and the counts as the line left them. -/
theorem uncorrectable_storeKept (p : Pkg) (k off : Nat) : StoreKept (lineLost p k off) (uncorrectable p k off false) := by
  rw [uncorrectable_lost]
  exact ite_storeKept (nvStackFail_storeKept (.refl _)) (ite_storeKept (fetchBlock_storeKept (.refl _)) (.refl _))

theorem slotOf_nextFree (p : Pkg) (k : Nat) : slotOf (nextFree p) k = slotOf p k := rfl

/-- NV_BLOCK_FETCH_DONE ends the oldest block fetch from its replica with what it has brought. -/
theorem nvBlockFetchDone_next {s : State} {f : BlockFetch} (data : Option Bytes) (hrun : fwRuns s.pkg = true)
    (hf : s.pkg.nvw.fetches.find? (fun x => decide (x.replica = f.replica)) = some f) :
    let x := replicaOf s.pkg f.replica
    let blk := f.off / 65536 * 65536
    let len := min 65536 (x.length - blk)
    exec (.nvBlockFetchDone f.replica data) s = .next { s with pkg := settle s.pkg (judgeReady
      (blockArrives (payloadDone s.pkg x blk len) f (payloadBytes s.pkg x blk len data))) } := by
  rw [exec_nvBlockFetchDone, execNvBlockFetchDone, actS_next hrun]
  simp only [hf]

/-- Settles O30: a verification and a repair by the slot that they leave, a line by what its reads make of it, a block by its CRC, and a failed
stack by the steps that it ends. -/
theorem slotCommands : Obligations.SlotCommands := by
  refine ⟨⟨fun s hready hbusy hlogged => ?start, fun s slot readable hrun hbusy husable hnext => ?verified⟩,
    ⟨fun s slot r hrun hrep hstream hnext => ?repair, fun s slot r data hrun hr => ?repaired⟩, fun p n j => ?lineOk,
    fun s slot off bad again hrun hslot hreads hoff hbad => ⟨fun hok => ?corrected, fun hfirst hagain => ?lost⟩,
    fun s replica f data hrun hf => ?block, fun s stack hpow hstack husable => ?stack⟩
  case start =>
    refine does_of_actS ((exec_nvVerifyStart s).trans rfl) (by simp [hready, hbusy, hlogged]) ?_
    rw [settle_keeps _ _ |>.2.2.2.2.2.2.2.1, judgeReady_keeps _ |>.2.2.2.2.2.2.1]
    refine ⟨fun h => ?_, fun h => ?_⟩
    · rw [judgeVerify_waits (p := modNvw s.pkg fun n => { n with verifyBusy := true }) h]; rfl
    · rw [judgeVerify_over (p := modNvw s.pkg fun n => { n with verifyBusy := true }) rfl hlogged h]; rfl
  case verified =>
    have hst : (slotOf s.pkg slot).st = nvUnverified := by simpa using List.find?_some hnext
    refine does_of_actS ((exec_nvSlotVerifyDone slot readable s).trans rfl) (by simp [hrun, hbusy, husable, hnext]) ?_
    simp only [slotOf_settle, slotOf_verifySlot hst, if_true]
    refine ⟨fun hread hlen hsha => ?_, fun hno => ?_, fun k hk => if_neg hk⟩
    · simp [verifiedSlot, digestHolds, hread, hlen, hsha]
    · rcases hno with hread | hsha
      · simp [verifiedSlot, hread]
      · simp [verifiedSlot, digestHolds, hsha]
  case repair =>
    refine does_of_actS ((exec_nvRepairStart slot s).trans rfl) (by simp [hrun, hrep, hstream]) ?_
    simp only [hnext, slotOf_settle, slotOf_repairFrom]
    exact ⟨by simp [rewriting], fun k hk => if_neg hk, by simp [repairFrom_nvw], by simp [repairFrom_nvw]⟩
  case repaired =>
    obtain rfl : r.slot = slot := by simpa using List.find?_some hr
    intro brought
    refine ⟨_, nvRepairDone_next data hrun hr, ?_⟩
    simp only [slotOf_settle]
    have hslot (j : Nat) : slotOf (payloadDone s.pkg (replicaOf s.pkg r.replica) 0 (replicaOf s.pkg r.replica).length) j = slotOf s.pkg j :=
      slotOf_congr (by simp) j
    refine ⟨fun k hk => ?_, fun b hb hlen hsha hspoiled => ?_, fun hno => ?_⟩
    · rw [slotOf_repairEnd_ne _ _ _ hk, hslot]
    · have hgood := repairEnd_good ((payloadDone_repairGood (x := replicaOf s.pkg r.replica) (off := 0)
        (len := (replicaOf s.pkg r.replica).length)).mpr ⟨hlen, hsha, hspoiled⟩)
      simp only [brought] at hb
      rw [hb]
      refine ⟨?_, ?_⟩
      · rw [slotOf, hgood.1]
        simp [slotOf, rewritten]
      · simp [hgood.2]
    · have hbad : ∀ b, brought = some b →
          ¬ repairGood (payloadDone s.pkg (replicaOf s.pkg r.replica) 0 (replicaOf s.pkg r.replica).length) r.slot b := by
        intro b hb hgood
        obtain ⟨hlen, hsha, hspoiled⟩ := payloadDone_repairGood.mp hgood
        rcases hno b hb with h | h | h
        · exact h hlen
        · exact h hsha
        · exact hspoiled h
      have hafter := (payloadDone_sameReplicas s.pkg (replicaOf s.pkg r.replica) 0 (replicaOf s.pkg r.replica).length).next
        (congrArg entOfSlot (hslot r.slot)) (some r.replica)
      have hfailed := slotOf_repairFailed (payloadDone s.pkg (replicaOf s.pkg r.replica) 0 (replicaOf s.pkg r.replica).length) r brought r.slot
      rw [if_pos rfl, hslot] at hfailed
      rw [repairEnd_bad hbad, hafter, hslot]
      refine ⟨fun hstop => ?_, fun k htries hk hcycles => ?_⟩
      · split
        · next k hk =>
          rw [if_neg (by simp_all), slotOf_repairStops, hfailed]
        · rw [slotOf_repairStops, hfailed]
      · simp only [hk, htries, hcycles, and_self, if_true, slotOf_repairFrom, hfailed]
        exact ⟨rfl, by simp [repairFrom_nvw]⟩
  case lineOk =>
    exact ⟨fun h => by simp [lineOk, h], fun h3 h4 => by simp [lineOk]; omega⟩
  case corrected =>
    refine does_of_actS ((exec_nvUncorrectable slot off ⟨bad, again⟩ s).trans rfl) (by simp [hrun, hslot, hoff, hreads]) ?_
    by_cases hfirst : lineOk s.pkg bad 0 = true
    · obtain ⟨at_, h⟩ := lineCorrected_nvw (nextFree s.pkg) slot off
      rw [lineRead_corrected hbad hfirst]
      exact ⟨⟨at_, by rw [nvw_settle, h, if_pos hfirst]; rfl⟩, by simp [nextFree]⟩
    · have hfirst' : lineOk s.pkg bad 0 = false := by simpa using hfirst
      have hagain : lineOk s.pkg again 1 = true := hok.resolve_left hfirst
      obtain ⟨at_, h⟩ := lineCorrected_nvw (modNvw (nextFree (nextFree s.pkg)) fun n => { n with retryOk := inc32 n.retryOk }) slot off
      rw [lineRead_again hbad hfirst', hagain]
      refine ⟨⟨at_, ?_⟩, by simp [uncorrectable, nextFree, modNvw]⟩
      rw [nvw_settle, if_neg hfirst]
      exact h
  case lost =>
    refine does_of_actS ((exec_nvUncorrectable slot off ⟨bad, again⟩ s).trans rfl) (by simp [hrun, hslot, hoff, hreads]) ?_
    rw [lineRead_again hbad hfirst, hagain]
    have hkept := uncorrectable_storeKept (nextFree (nextFree s.pkg)) slot off
    obtain ⟨-, hspoiled, hecc, -, -⟩ := hkept.fields
    obtain ⟨-, -, hfetches, hcount⟩ := lineLost_rest (nextFree (nextFree s.pkg)) slot off
    simp only [slotOf_settle, hkept.slot, slotOf_lineLost, slotOf_nextFree]
    refine ⟨?_, fun k hk => by simp [hk], ?_, fun r hfew hst hstream hr => ?_⟩
    · split
      next hst => exact ⟨by simp [hst], by simp [hspoiled, lineLost_of_writing (p := nextFree (nextFree s.pkg)) off hst]⟩
      next hst => simp [hst]
    · rw [nvw_settle, hecc, hcount]
      exact tget_tset_same _ _ _ _
    · obtain ⟨hnvw, hpens⟩ := fetchBlock_some (off := off) ((lineLost_next (nextFree (nextFree s.pkg)) slot off none).trans hr)
      have hlines : ¬ 64 ≤ (recentLines (nextFree (nextFree s.pkg)) (slot / 32)).length := Nat.not_le.mpr hfew
      rw [uncorrectable_lost, if_neg hlines, if_pos ⟨hstream, hst⟩]
      refine ⟨by rw [nvw_settle, hnvw, hfetches]; rfl, ?_⟩
      rw [pens_settle, hpens, (lineLost_keeps _ slot off).1]
      rfl
  case block =>
    obtain rfl : f.replica = replica := by simpa using List.find?_some hf
    intro x blk brought
    refine ⟨_, nvBlockFetchDone_next data hrun hf, ?_⟩
    have hslot : slotOf (payloadDone s.pkg x blk (min 65536 (x.length - blk))) f.slot = slotOf s.pkg f.slot := slotOf_congr (by simp) _
    refine ⟨by simp [blockArrives_slots], fun hgood => ?_, fun hno r hr => ?_⟩
    · have hgood' : blockGood (payloadDone s.pkg x blk (min 65536 (x.length - blk))) f brought := by rwa [blockGood, hslot]
      rw [blockArrives_good hgood']
      simp [blockTaken, modNvw]
    · have hbad : ¬ blockGood (payloadDone s.pkg x blk (min 65536 (x.length - blk))) f brought := by
        rintro ⟨b, hb, hcrc⟩
        exact hno b hb (hslot ▸ hcrc)
      have hnext : nextReplica (blockTaken (payloadDone s.pkg x blk (min 65536 (x.length - blk))) f brought) f.slot (some f.replica) =
          some r := (SameReplicas.next ⟨by simp, by simp, by simp⟩
            (congrArg entOfSlot hslot) _).trans hr
      obtain ⟨hnvw, hpens⟩ := fetchBlock_some (off := f.off) hnext
      rw [blockArrives_bad hbad]
      refine ⟨by rw [nvw_settle, hnvw]; simp [blockTaken, modNvw], ?_⟩
      rw [pens_settle, hpens]
      simp [blockTaken, modNvw]
  case stack =>
    refine does_of_actS ((exec_nvStackFailed stack s).trans rfl) (by simp [hpow, hstack, husable]) ?_
    have husableAfter (k : Nat) : nvUsable (settle s.pkg (judgeReady (nvStackFail s.pkg stack))) k =
        !(tget false (tset false s.pkg.glb.nvLost stack true) k) := by
      rw [nvUsable, settle_glb, judgeReady_nvLost, nvStackFail_nvLost]
    refine ⟨by simp [husableAfter], fun k hk => by rw [husableAfter, tget_tset_ne _ _ _ hk]; rfl, fun n k hn hk hs hsize => ?_⟩
    rw [penOf_settle, nvStackFail_step hn hk hs hsize]

end Sys2Proof.Machine
end

section
/-! PROOFS. The replica table (R239 to R242): a write of KIND, what a fetch brings, the checks of peer and host entries, and the whole shards that a
running step reads from the slower tier. -/

namespace Sys2Proof.Machine

/-! #### The entries (R239) -/

/-- What a write of KIND leaves of an entry. -/
def kindWritten (kind : Nat) (x : Replica) : Replica :=
  if kind = 3 then x
  else if kind = 0 then { x with kind := 0, checking := false }
  else if x.kind = 0 then { x with kind := kind, was := kind, st := 0, checking := true }
  else { x with kind := kind, was := kind }

theorem replicaOf_replicaKind (p : Pkg) (i j : Nat) {kind : Nat} (h : kind < 4) :
    replicaOf (replicaKind p i kind) j = if j = i then kindWritten kind (replicaOf p i) else replicaOf p j := by
  unfold replicaKind kindWritten
  by_cases h3 : kind = 3
  · rw [if_pos (by omega), if_pos h3, ite_eq_right_iff.mpr fun hj => hj ▸ rfl]
  rw [if_neg (by omega), if_neg h3]
  by_cases h0 : kind = 0
  · rw [if_pos h0, if_pos h0, replicaOf_modReplica]
  rw [if_neg h0, if_neg h0]
  by_cases hx : (replicaOf p i).kind = 0
  · rw [if_pos hx, if_pos hx]
    extract_lets q
    refine (replicaOf_of_replicas (p := q) (by split <;> simp) j).trans ?_
    exact replicaOf_modReplica p i j fun r => { r with kind := kind, was := kind, st := 0, checking := true }
  · rw [if_neg hx, if_neg hx, replicaOf_modReplica]

/-- A write of the physical function while READY is 1 acts (R40, R43). -/
theorem replicaOf_pfWrite {p : Pkg} (hready : p.glb.ready = true) {off i kind : Nat} (h : kind < 4) (j : Nat) :
    replicaOf (pfWrite p 0 off fun q => replicaKind q i kind) j = if j = i then kindWritten kind (replicaOf p i) else replicaOf p j := by
  have hheld : (dropHeld p 0 off).glb.ready = true := by simp [hready]
  have hsame (k : Nat) : replicaOf (dropHeld p 0 off) k = replicaOf p k := replicaOf_of_replicas (by simp) k
  simp only [pfWrite, regWrite, hheld, if_true, replicaOf_replicaKind _ _ _ h, hsame]

@[simp] theorem replicaOf_replicaBack (p : Pkg) (i j : Nat) : replicaOf (replicaBack p i) j = replicaOf p j := by
  unfold replicaBack
  extract_lets x other
  split <;> rfl

/-! #### What a fetch brings (R368, R375 to R377) -/

/-- The loads that read a range cut its bytes without a gap: the first of them give its beginning. -/
theorem flatMap_pieces (b : Bytes) (off len m : Nat) :
    ((upto m).flatMap fun i =>
      let lo := max off (256 * (off / 256 + i))
      (b.drop (lo - off)).take (min (off + len) (256 * (off / 256 + i + 1)) - lo)) = b.take (min len (256 * (off / 256 + m) - off)) := by
  unfold upto
  induction m with
  | zero =>
    have h : min len (256 * (off / 256 + 0) - off) = 0 := by omega
    rw [h]
    rfl
  | succ m ih =>
    rw [List.range_succ, List.flatMap_append, ih]
    simp only [List.flatMap_cons, List.flatMap_nil, List.append_nil]
    by_cases hin : 256 * (off / 256 + m) ≤ off + len
    · have hlo : max off (256 * (off / 256 + m)) - off = min len (256 * (off / 256 + m) - off) := by omega
      rw [hlo, ← List.take_add]
      congr 1
      omega
    · have hnone : min (off + len) (256 * (off / 256 + m + 1)) - max off (256 * (off / 256 + m)) = 0 := by omega
      rw [hnone, List.take_zero, List.append_nil]
      congr 1
      omega

theorem flatMap_loadPieces (b : Bytes) (off len : Nat) :
    ((loadPieces off len).flatMap fun e => (b.drop (e.1 - off)).take e.2) = b.take len := by
  rw [loadPieces, List.flatMap_map, flatMap_pieces]
  congr 1
  rw [ceilDiv, if_neg (by decide)]
  omega

theorem loadPieces_ne_nil (off : Nat) {len : Nat} (h : 0 < len) : loadPieces off len ≠ [] := by
  simp [loadPieces, upto, ceilDiv]
  omega

section Reads
variable {p : Pkg} {chip window off len : Nat}

/-- With no load seen, the command that ends the fetch gives its bytes. -/
theorem readBytes_unseen (h : p.fab.fwReads = []) (b : Bytes) : readBytes p chip window off len (some b) = some b := by
  simp [readBytes, h, flatMap_loadPieces]

theorem readBytes_unseen_none (h : p.fab.fwReads = []) (hlen : 0 < len) : readBytes p chip window off len none = none := by
  have hany : (loadPieces off len).any (fun _ => true) = true := by simpa [List.any_eq_true] using List.exists_mem_of_ne_nil _ (loadPieces_ne_nil off hlen)
  simp [readBytes, h]
  simpa using hany

/-- A load that raised a fault leaves nothing of the fetch. -/
theorem readBytes_faulted {e : Nat × Nat} (he : e ∈ loadPieces off len)
    (hf : p.fab.fwReads.find? (fun r => decide (r.1 = gaddr chip window e.1)) = some (gaddr chip window e.1, none)) (data : Option Bytes) :
    readBytes p chip window off len data = none := by
  unfold readBytes
  rw [if_pos (List.any_eq_true.mpr ⟨e, he, by simp [hf]⟩)]

end Reads

/-- A peer's entry is read by loads of its window, a host's as the command gives it. -/
theorem payloadBytes_of_peer {p : Pkg} {x : Replica} (h : readsPeer x = true) (off len : Nat) (data : Option Bytes) :
    payloadBytes p x off len data = readBytes p x.chip 2 (x.slot * 0x10000000 + off) len data := if_pos h

theorem payloadBytes_of_host {p : Pkg} {x : Replica} (h : readsPeer x = false) (off len : Nat) (data : Option Bytes) :
    payloadBytes p x off len data = data := if_neg (by simp [h])

/-! #### The checks of entries (R240) -/

theorem headerGood_iff {r : Replica} {h : Bytes} : headerGood r h = true ↔
    fieldAt h 0 4 = r.shard ∧ fieldAt h 4 4 = r.length ∧ fieldAt h 8 1 = nvVerified ∧ (h.drop 16).take 32 = r.digest ∧
      fieldAt h 9 1 < 2 ∧ fieldAt h 10 1 < 32 ∧ fieldAt h 11 1 = 0 ∧ fieldAt h 56 8 = 0 := by
  simp [headerGood, and_assoc]

/-- A peer entry as the header read leaves it. -/
def judgedBy (header : Option Bytes) (r : Replica) : Replica :=
  match header with
  | none => { r with st := 0, checking := true }
  | some h => { r with st := if headerGood r h then 1 else 2, checking := false }

theorem replicaOf_replicaJudge (p : Pkg) (i j : Nat) (header : Option Bytes) :
    replicaOf (replicaJudge p i header) j = if j = i then judgedBy header (replicaOf p i) else replicaOf p j := by
  unfold replicaJudge
  rw [replicaOf_replicaBack]
  exact replicaOf_modReplica p i j (judgedBy header)

/-- The read of a header, ended, leaves the table. -/
theorem replicaOf_headerDone (p : Pkg) (x : Replica) (j : Nat) : replicaOf (headerDone p x) j = replicaOf p j := rfl

/-- A host entry is judged by its payload. -/
theorem replicaOf_replicaHostJudge (p : Pkg) (i : Nat) (payload : Option Bytes) : replicaOf (replicaHostJudge p i payload) i =
    { replicaOf p i with
      st := if ∃ b, payload = some b ∧ b.length = (replicaOf p i).length ∧ sha256 b = (replicaOf p i).digest then 1 else 2
      checking := false } := by
  unfold replicaHostJudge
  rw [replicaOf_replicaBack, replicaOf_modReplica, if_pos rfl]
  cases payload with
  | none => simp [replicaOf, modNvw]
  | some b =>
    simp only [Option.some.injEq, exists_eq_left']
    by_cases h : b.length = (replicaOf p i).length ∧ sha256 b = (replicaOf p i).digest
    · rw [if_pos h]
      exact congrArg (fun st => { replicaOf p i with st := st, checking := false }) (if_pos (decide_eq_true h))
    · rw [if_neg h]
      exact congrArg (fun st => { replicaOf p i with st := st, checking := false }) (if_neg (mt of_decide_eq_true h))

/-- A check repeated for the set-ups that use the entry leaves the table (R241). -/
theorem setupRechecked_storeKept {p0 p : Pkg} (idx n : Nat) (hp : StoreKept p0 p) : StoreKept p0 (setupRechecked p idx n) := by
  unfold setupRechecked
  extract_lets t x ks p1
  have h1 : StoreKept p0 p1 := storeKept_of_nvw hp (by simp [p1])
  refine ite_storeKept (ite_storeKept (forAll_storeKept h1 fun q _ hq => storeKept_of_nvw hq (by simp)) h1) (forAll_storeKept h1 fun q k hq => ?_)
  split
  · exact storeKept_of_nvw hq (by simp)
  · exact faultStep_storeKept hq

/-! #### Whole shards from the slower tier (R242) -/

section Slower
variable {p : Pkg} {n k r : Nat} {t : Step}

theorem step_of_replica (h : tget 0 (stepNow p n).replicas k = r + 1) : ∃ t, (penOf p n).step = some t := by
  unfold stepNow at h
  split at h
  · next t ht => exact ⟨t, ht⟩
  · simp [tget] at h

theorem slowerFetched_good (ht : (penOf p n).step = some t) {b : Bytes} (hlen : b.length = ((imageOf p n).shards.getD k {}).length)
    (hsha : sha256 b = ((imageOf p n).shards.getD k {}).digest) :
    tget none (stepNow (slowerFetched p n k r (some b)) n).slowDone k = some b ∧
      (slowerFetched p n k r (some b)).nvw.replicas = p.nvw.replicas := by
  unfold slowerFetched
  dsimp -zeta only
  extract_lets e p1
  rw [if_pos ⟨hlen, hsha⟩, stepNow_of_step (modStep_step (p := p1) ht _)]
  exact ⟨tget_tset_same none t.slowDone k (some b), by simp [p1, modNvw]⟩

theorem slowerFetched_bad {b : Bytes} (hsha : sha256 b ≠ ((imageOf p n).shards.getD k {}).digest) :
    (replicaOf (slowerFetched p n k r (some b)) r).st = 2 ∧ (slowerFetched p n k r (some b)).nvw.hashFail = inc32 p.nvw.hashFail ∧
      ((penOf p n).groupSize ≤ 1 → (penOf (slowerFetched p n k r (some b)) n).step = none) := by
  unfold slowerFetched
  dsimp -zeta only
  extract_lets e p1 p2
  rw [if_neg fun h => hsha h.2]
  obtain ⟨-, -, -, hreps, hfail⟩ := (faultStep_storeKept (n := n) (StoreKept.refl (log p2 codeSlowerHashFail 0 r e.shard 0))).fields
  refine ⟨?_, ?_, fun hsize => faultStep_step ?_⟩
  · have hq := replicaOf_of_replicas (p := p2) (hreps.trans (by simp)) r
    rw [hq, replicaOf_modReplica, if_pos rfl]
  · rw [hfail]
    simp [p2, p1, modReplica, modNvw]
  · rw [penOf_congr (q := log p2 _ _ _ _ _) (p := p) (by simp [p2, p1, modReplica])]
    exact hsize

/-- A running step whose shard a replica serves. -/
def servedFrom (k r : Nat) (t : Step) : Step := { t with replicas := tset 0 t.replicas k (r + 1) }

theorem slowerFetched_lost (ht : (penOf p n).step = some t) {r2 : Nat} (hr : replicaAfter p ((imageOf p n).shards.getD k {}) r = some r2) :
    tget 0 (stepNow (slowerFetched p n k r none) n).replicas k = r2 + 1 := by
  have hnow : stepNow (readReplica (modStep p n (servedFrom k r2)) (replicaOf p r2) 0 (replicaOf p r2).length) n = servedFrom k r2 t := by
    rw [stepNow_congr (p := modStep p n (servedFrom k r2)) (by simp), stepNow_of_step (modStep_step ht _)]
  simp only [slowerFetched, slowerLost, hr]
  exact (congrArg (fun u : Step => tget 0 u.replicas k) hnow).trans (tget_tset_same 0 t.replicas k (r2 + 1))

/-- The command, for a shard that a replica serves. -/
theorem slowerFetchDone_next {s : State} (payload : Option Bytes) (hrun : fwRuns s.pkg = true)
    (hopen : tget none (stepNow s.pkg n).slowDone k = none) (hr : tget 0 (stepNow s.pkg n).replicas k = r + 1) :
    exec (.slowerFetchDone n k payload) s = .next { s with
      pkg := slowerFetched (payloadDone s.pkg (replicaOf s.pkg r) 0 (replicaOf s.pkg r).length) n k r
        (payloadBytes s.pkg (replicaOf s.pkg r) 0 (replicaOf s.pkg r).length payload) } := by
  simp [execSlowerFetchDone, act, hrun, hopen, hr]

end Slower

/-! #### The claim -/

/-- Settles O31: a write of KIND by its four values, a fetch by its loads, a check by what it leaves of the entry, and a whole shard by its digest. -/
theorem replicaCommands : Obligations.ReplicaCommands := by
  refine ⟨fun s idx kind hready hidx hlatest => ?kind, fun p x off len b => ?bytes, fun s idx header c hrun hkind hc => ?checked,
    fun s idx payload hrun hkind hst hcheck => ?host, fun s pen shard r payload hrun hopen hr => ?slower⟩
  case kind =>
    obtain ⟨-, hready, -⟩ := hready
    refine does_of_act ((exec_replicaKindWrite 0 idx kind s).trans rfl) (by simp [hidx, hlatest]) ?_
    simp only [replicaOf_pfWrite hready (Nat.mod_lt kind (by decide : 4 > 0)), if_true]
    exact ⟨fun k hk => if_neg hk, rfl⟩
  case bytes =>
    by_cases hpeer : readsPeer x = true
    · simp only [payloadBytes_of_peer hpeer, hpeer, Bool.true_eq_false, false_or, true_implies]
      exact ⟨fun h => readBytes_unseen h b, fun hlen h => readBytes_unseen_none h hlen,
        fun e he hf => ⟨readBytes_faulted he hf _, readBytes_faulted he hf _⟩⟩
    · have hhost : readsPeer x = false := by simpa using hpeer
      simp [payloadBytes_of_host hhost, hhost]
  case checked =>
    intro brought
    have hjudged (q : Pkg) (hq : q.nvw.replicas =
        (replicaJudge (headerDone s.pkg (replicaOf s.pkg idx)) idx brought).nvw.replicas) :
        (brought = none → replicaOf q idx = { replicaOf s.pkg idx with st := 0, checking := true }) ∧
          (∀ h, brought = some h → replicaOf q idx = { replicaOf s.pkg idx with
            checking := false
            st := if fieldAt h 0 4 = (replicaOf s.pkg idx).shard ∧ fieldAt h 4 4 = (replicaOf s.pkg idx).length ∧
              fieldAt h 8 1 = nvVerified ∧ (h.drop 16).take 32 = (replicaOf s.pkg idx).digest ∧
              fieldAt h 9 1 < 2 ∧ fieldAt h 10 1 < 32 ∧ fieldAt h 11 1 = 0 ∧ fieldAt h 56 8 = 0 then 1 else 2 }) ∧
          ∀ k, k ≠ idx → replicaOf q k = replicaOf s.pkg k := by
      simp only [replicaOf_of_replicas hq, replicaOf_replicaJudge, replicaOf_headerDone, if_true, ← headerGood_iff]
      exact ⟨fun h => by rw [h]; rfl, fun h hb => by rw [hb]; rfl, fun k hk => if_neg hk⟩
    rcases hc with ⟨rfl, hst, hcheck, hat⟩ | ⟨rfl, hwhen⟩
    · exact does_of_act ((exec_replicaCheck idx header s).trans rfl) (by simp [hrun, beingChecked, hkind, hst, hcheck, hat])
        (hjudged _ rfl)
    · refine does_of_act ((exec_replicaRecheck idx header s).trans rfl) ?_ (hjudged _ ?_)
      · rcases hwhen with hst | ⟨hst, hcheck, hat⟩
        · simp [hrun, hkind, hst]
        · simp [hrun, hkind, beingChecked, hst, hcheck, hat]
      · exact (forAll_storeKept (StoreKept.refl _) fun q n => setupRechecked_storeKept idx n).fields.2.2.2.1
  case host =>
    refine does_of_act ((exec_replicaHostFetchDone idx payload s).trans rfl) (by simp [hrun, hkind, hst, hcheck]) ?_
    rw [replicaOf_replicaHostJudge]
    refine ⟨fun b hb hlen hsha => ?_, fun hno => ?_⟩
    · rw [if_pos ⟨b, hb, hlen, hsha⟩]
    · rw [if_neg fun ⟨b, hb, _, hsha⟩ => hno b hb hsha]
  case slower =>
    intro brought
    refine ⟨_, slowerFetchDone_next payload hrun hopen hr, ?_⟩
    obtain ⟨t, ht⟩ := step_of_replica hr
    have hkeep := payloadDone_sameReplicas s.pkg (replicaOf s.pkg r) 0 (replicaOf s.pkg r).length
    have hpens : (payloadDone s.pkg (replicaOf s.pkg r) 0 (replicaOf s.pkg r).length).pens = s.pkg.pens := by simp
    have hnvw : (payloadDone s.pkg (replicaOf s.pkg r) 0 (replicaOf s.pkg r).length).nvw = s.pkg.nvw := by simp
    have ht' : (penOf (payloadDone s.pkg (replicaOf s.pkg r) 0 (replicaOf s.pkg r).length) pen).step = some t := by rwa [penOf_congr hpens]
    rw [← imageOf_congr hpens pen, ← penOf_congr hpens pen, ← hnvw]
    refine ⟨fun b hb hlen hsha => ?_, fun b hb hsha => ?_, fun r2 hb hr2 => ?_⟩
    · simp only [brought] at hb
      rw [hb]
      exact slowerFetched_good ht' hlen hsha
    · simp only [brought] at hb
      rw [hb]
      exact slowerFetched_bad hsha
    · simp only [brought] at hb
      rw [hb]
      exact slowerFetched_lost ht' ((hkeep.after _ r).trans hr2)

end Sys2Proof.Machine
end

section
/-! PROOFS. The managers' commands of authorisations, clears of the log, arrays and held ports (R224, R355, R438, R439, R449): what a taken
command does, and what a record, a fault and the filling of a set leave. -/

namespace Sys2Proof.Machine

/-! #### A taken command -/

/-- The package in which a taken command acts differs from that of its sampling in the management block alone. -/
theorem mgtActing_eq (p : Pkg) (path : Path) (msg : Bytes) : ∃ m, mgtActing p path msg = { p with mgt := m } := by
  unfold mgtActing mgtSampled
  rcases raiseSeq_eq (linkSeen p path) path msg with e | ⟨t, e⟩ <;> rcases linkSeen_eq p path with e' | ⟨n, e'⟩ <;>
    rw [e, e'] <;> exact ⟨_, rfl⟩

@[simp] theorem mgtActing_parts (p : Pkg) (path : Path) (msg : Bytes) : (mgtActing p path msg).pins = p.pins ∧
    (mgtActing p path msg).arrays = p.arrays ∧ (mgtActing p path msg).nvw = p.nvw ∧ (mgtActing p path msg).ctxs = p.ctxs ∧
    (mgtActing p path msg).reqs = p.reqs ∧ (mgtActing p path msg).fab = p.fab := by
  obtain ⟨m, h⟩ := mgtActing_eq p path msg
  simp [h]

/-- Checks 1 to 5 of R455 read the management block alone. -/
theorem mgtVerdict_congr {p q : Pkg} (h : q.mgt = p.mgt) (path : Path) (msg : Bytes) : mgtVerdict q path msg = mgtVerdict p path msg := by
  have hfrom (m : Nat) : fromManager q path m = fromManager p path m := by
    cases path <;> simp [fromManager, h]
  have hset (m : Nat) : keySet q m = keySet p m := by rw [keySet, keySet, h]
  have hkey (m : Nat) (b : Bytes) : macOf q m b = macOf p m b := by rw [macOf, macOf, keyBytes, keyBytes, h]
  have hmac : authentic q msg = authentic p msg := by
    unfold authentic
    dsimp only
    rw [hset, hkey]
  simp only [mgtVerdict, hfrom, hmac, h]

/-- The marks of later resets in the tick do not change what is taken (R431). -/
theorem mgtNow_foreseen {s : State} {op : Nat} {path : Path} {msg : Bytes} (h : mgtNow s op path msg) :
    mgtNow { s with pkg := foreseen s } op path msg := by
  obtain ⟨hp, hop, hv, ht⟩ := h
  exact ⟨by simpa [powered] using hp, hop, (mgtVerdict_congr (by simp) path msg).trans hv, ht⟩

theorem mgtNow_coldForeseen {s : State} {op : Nat} {path : Path} {msg : Bytes} (h : mgtNow s op path msg) :
    mgtNow { s with pkg := coldForeseen s } op path msg := by
  obtain ⟨hp, hop, hv, ht⟩ := h
  exact ⟨by simpa [powered] using hp, hop, (mgtVerdict_congr (by simp) path msg).trans hv, ht⟩

/-- The commands of these OPs have no check but that of their length. -/
theorem opBar_eq_none {p : Pkg} {c : PendCmd} (hop : c.op ∈ [0x0E, 0x10, 0x11]) (h : bodyNeed c.op ≤ c.body.length) : opBar p c = none := by
  simp only [List.mem_cons, List.not_mem_nil, or_false] at hop
  rcases hop with hop | hop | hop <;> simp_all [opBar, firstFail, need]

section Taken
variable {s : State} {path : Path} {msg : Bytes}

theorem imprintAuth_acts (h : mgtNow s 0x0D path msg) (hlen : 24 ≤ (mgtBody msg).length) (h1 : 1 ≤ fieldAt (mgtBody msg) 4 4)
    (h256 : fieldAt (mgtBody msg) 4 4 ≤ 256) (hid : fieldAt (mgtBody msg) 16 8 ≠ 0) : mgtCommand 0x0D path msg s.pkg =
    mgtDone (imprintAuthDo (mgtActing s.pkg path msg) (cmdOf path msg)) (cmdOf path msg) [] := by
  have hop : (cmdOf path msg).op = 0x0D := h.2.1
  have hbody : (cmdOf path msg).body = mgtBody msg := rfl
  have hbar (p : Pkg) : opBar p (cmdOf path msg) = none := by
    simp [opBar, hop, bodyNeed, hbody, hlen, imprintAuthBar, firstFail, need, h1, h256, hid]
  simpa [opDo, hop] using mgtCommand_acts h (by decide) (hbar _) (by simp) (hbar _)

theorem clearAuth_acts (h : mgtNow s 0x0E path msg) (hlen : 16 ≤ (mgtBody msg).length) : mgtCommand 0x0E path msg s.pkg =
    mgtDone (clearAuthDo (mgtActing s.pkg path msg) (cmdOf path msg)) (cmdOf path msg) [] := by
  have hop : (cmdOf path msg).op = 0x0E := h.2.1
  have hbar (p : Pkg) : opBar p (cmdOf path msg) = none := opBar_eq_none (by simp [hop]) (by rw [hop]; exact hlen)
  simpa [opDo, hop] using mgtCommand_acts h (by decide) (hbar _) (by simp) (hbar _)

theorem quarantine_acts (h : mgtNow s 0x10 path msg) (hlen : 1 ≤ (mgtBody msg).length) : mgtCommand 0x10 path msg s.pkg =
    mgtDone (quarantineNow (mgtActing s.pkg path msg) (fieldAt (mgtBody msg) 0 1) 5) (cmdOf path msg) [] := by
  have hop : (cmdOf path msg).op = 0x10 := h.2.1
  have hbody : body0 (cmdOf path msg) = fieldAt (mgtBody msg) 0 1 := rfl
  have hbar (p : Pkg) : opBar p (cmdOf path msg) = none := opBar_eq_none (by simp [hop]) (by rw [hop]; exact hlen)
  simpa [opDo, hop, hbody] using mgtCommand_acts h (by decide) (hbar _) (by simp) (hbar _)

theorem arrayRelease_acts (h : mgtNow s 0x11 path msg) (hlen : 1 ≤ (mgtBody msg).length) : mgtCommand 0x11 path msg s.pkg =
    mgtDone (startReturn (mgtActing s.pkg path msg) (fieldAt (mgtBody msg) 0 1)) (cmdOf path msg) [] := by
  have hop : (cmdOf path msg).op = 0x11 := h.2.1
  have hbody : body0 (cmdOf path msg) = fieldAt (mgtBody msg) 0 1 := rfl
  have hbar (p : Pkg) : opBar p (cmdOf path msg) = none := opBar_eq_none (by simp [hop]) (by rw [hop]; exact hlen)
  simpa [opDo, hop, hbody] using mgtCommand_acts h (by decide) (hbar _) (by simp) (hbar _)

theorem portReeval_acts (h : mgtNow s 0x14 path msg) (hlen : 1 ≤ (mgtBody msg).length) (hn : fieldAt (mgtBody msg) 0 1 < 16) :
    mgtCommand 0x14 path msg s.pkg =
      mgtDone (reevaluate (mgtActing s.pkg path msg) (fieldAt (mgtBody msg) 0 1)) (cmdOf path msg) [] := by
  have hop : (cmdOf path msg).op = 0x14 := h.2.1
  have hbytes : (cmdOf path msg).body = mgtBody msg := rfl
  have hbody : body0 (cmdOf path msg) = fieldAt (mgtBody msg) 0 1 := rfl
  have hbar (p : Pkg) : opBar p (cmdOf path msg) = none := by
    simp [opBar, hop, bodyNeed, hbytes, hbody, hlen, firstFail, need, hn]
  simpa [opDo, hop, hbody] using mgtCommand_acts h (by decide) (hbar _) (by simp) (hbar _)

end Taken

/-! #### Clears of the log (R449) -/

/-- A record changes no result of a clear. -/
theorem logIrq_scn (p : Pkg) (r : Rec) : ∃ b, (logIrq p r).scn = { p.scn with irqInTick := b } := by
  unfold logIrq
  split
  · exact ⟨true, by simp⟩
  · exact ⟨_, rfl⟩

/-- The records held after one more are that one and records held before. -/
theorem mem_tset_cases {α : Type} [DecidableEq α] {d x : α} {t : Tab α} {n : Nat} {e : Nat × α} (h : e ∈ tset d t n x) :
    e = (n, x) ∨ e ∈ t := by
  unfold tset at h
  split at h
  · exact .inr (mem_of_mem_tdel h)
  · exact mem_tins h

theorem putRec_slots (s : Scn) (k : Nat) (r : Rec) : (putRec s k r).slots = tset {} s.slots k r ∧ (putRec s k r).clearResult = s.clearResult := by
  unfold putRec
  split <;> exact ⟨rfl, rfl⟩

theorem storeRec_slots (s : Scn) (r : Rec) : (storeRec s r).1.clearResult = s.clearResult ∧
    ∀ e ∈ (storeRec s r).1.slots, e.2 = r ∨ e ∈ s.slots := by
  have hput (t : Scn) (k : Nat) (ht : t.slots = s.slots) (hc : t.clearResult = s.clearResult) :
      (putRec t k r).clearResult = s.clearResult ∧ ∀ e ∈ (putRec t k r).slots, e.2 = r ∨ e ∈ s.slots := by
    obtain ⟨hslots, hclear⟩ := putRec_slots t k r
    refine ⟨hclear.trans hc, fun e he => ?_⟩
    rw [hslots, ht] at he
    exact (mem_tset_cases he).imp_left fun h => by rw [h]
  have hdrop : (dropRec s).clearResult = s.clearResult ∧ ∀ e ∈ (dropRec s).slots, e.2 = r ∨ e ∈ s.slots := ⟨rfl, fun _ => .inr⟩
  unfold storeRec
  split
  · exact hput s _ rfl rfl
  · split
    · split
      · exact hput s _ rfl rfl
      · exact hdrop
    · split
      · split
        · exact hput _ _ rfl rfl
        · exact hdrop
      · exact hdrop

theorem commitRec_slots (p : Pkg) (r : Rec) : (commitRec p r).1.scn.clearResult = p.scn.clearResult ∧
    ∀ e ∈ (commitRec p r).1.scn.slots, e.2 = r ∨ e ∈ p.scn.slots := by
  have h := storeRec_slots p.scn r
  unfold commitRec
  dsimp only
  split
  · obtain ⟨b, hb⟩ := logIrq_scn { p with scn := { (storeRec p.scn r).1 with storedInTick := (storeRec p.scn r).1.storedInTick + 1 } } r
    rw [hb]
    exact h
  · exact h

theorem logRec_clearResult (p : Pkg) (prot : Bool) (code source p0 p1 p2 : Nat) :
    (logRec p prot code source p0 p1 p2).1.scn.clearResult = p.scn.clearResult := by
  unfold logRec
  dsimp only
  (repeat' split) <;> simp [commitRec_slots, dropRec]

@[simp] theorem log_clearResult (p : Pkg) (code source p0 p1 p2 : Nat) :
    (log p code source p0 p1 p2).scn.clearResult = p.scn.clearResult := logRec_clearResult _ _ _ _ _ _ _

/-- A record is held at once while none waits and the tick has room (R445). -/
theorem mem_logRec_slots {p : Pkg} (hq : p.scn.queue = []) (ht : p.scn.storedInTick < 16) {prot : Bool} {code source p0 p1 p2 : Nat}
    {e : Nat × Rec} (he : e ∈ (logRec p prot code source p0 p1 p2).1.scn.slots) : e.2.prot = prot ∨ e ∈ p.scn.slots := by
  unfold logRec at he
  dsimp only at he
  rw [if_pos (c := p.scn.queue.isEmpty = true ∧ p.scn.storedInTick < 16) ⟨by simp [hq], ht⟩] at he
  split at he
  · exact .inr he
  · exact ((commitRec_slots _ _).2 e he).imp_left fun h => by rw [h]; rfl

/-- A clear leaves its own record, protected ones and those above its number. -/
theorem clearLog_scn {p : Pkg} (hq : p.scn.queue = []) (ht : p.scn.storedInTick < 16) (u manager : Nat) :
    (clearLog p u manager).scn.clearResult = stOk ∧ (clearLog p u manager).scn.dropped = 0 ∧ (clearLog p u manager).scn.overwritten = 0 ∧
      ∀ e ∈ (clearLog p u manager).scn.slots, e.2.prot = true ∨ fromFirst p.scn u < fromFirst p.scn e.2.seq := by
  refine ⟨rfl, rfl, rfl, fun e he => ?_⟩
  rcases mem_logRec_slots (p := { p with scn := { p.scn with slots := p.scn.slots.filter fun e =>
      !(!e.2.prot && decide (fromFirst p.scn e.2.seq ≤ fromFirst p.scn u)) } }) hq ht he with hown | hkept
  · exact .inl hown
  · simpa using (List.mem_filter.mp hkept).2

theorem clearBar_eq_none {s : Scn} {u : Nat} (hheld : clearsHeld s < 8192) (hslots : s.slots ≠ []) (hu : fromFirst s u ≤ fromFirst s s.seqLast) :
    clearBar s u = none := if_neg (by simp [Nat.not_le.mpr hheld, hslots, Nat.not_lt.mpr hu])

section Clear
variable {s : State} {path : Path} {msg : Bytes}

theorem opBar_logClear (p : Pkg) (h : mgtNow s 0x0F path msg) (hlen : 4 ≤ (mgtBody msg).length) :
    opBar p (cmdOf path msg) = clearBar p.scn (fieldAt (mgtBody msg) 0 4) := by
  have hop : (cmdOf path msg).op = 0x0F := h.2.1
  have hbody : (cmdOf path msg).body = mgtBody msg := rfl
  cases hbar : clearBar p.scn (fieldAt (mgtBody msg) 0 4) <;> simp [opBar, hop, bodyNeed, hbody, hlen, firstFail, need, hbar]

theorem logClear_acts (h : mgtNow s 0x0F path msg) (hlen : 4 ≤ (mgtBody msg).length)
    (hbar : clearBar s.pkg.scn (fieldAt (mgtBody msg) 0 4) = none) : mgtCommand 0x0F path msg s.pkg =
    mgtDone (clearLog (mgtActing s.pkg path msg) (fieldAt (mgtBody msg) 0 4) (cmdOf path msg).mgr) (cmdOf path msg) [] := by
  have hop : (cmdOf path msg).op = 0x0F := h.2.1
  have hbody : (cmdOf path msg).body = mgtBody msg := rfl
  have hfree (p : Pkg) (hp : p.scn = s.pkg.scn) : opBar p (cmdOf path msg) = none := by rw [opBar_logClear p h hlen, hp, hbar]
  have hacting : opAct (mgtActing s.pkg path msg) (cmdOf path msg) =
      mgtDone (clearLog (mgtActing s.pkg path msg) (fieldAt (mgtBody msg) 0 4) (cmdOf path msg).mgr) (cmdOf path msg) [] := by
    simp [opAct, hfree, hop, hbody]
  rw [mgtCommand_of_take h.2.1 h.2.2.1, ← hacting]
  simp [opTake, hfree, hop, firstFail, mgtActing, h.2.1]

theorem logClear_refused (h : mgtNow s 0x0F path msg) (hlen : 4 ≤ (mgtBody msg).length) {st : Nat}
    (hbar : clearBar s.pkg.scn (fieldAt (mgtBody msg) 0 4) = some st) : mgtCommand 0x0F path msg s.pkg =
    mgtRefuse { mgtSampled s.pkg path msg with scn := { s.pkg.scn with clearResult := st } } (cmdOf path msg) st [] := by
  have hop : (cmdOf path msg).op = 0x0F := h.2.1
  have hst : opBar (mgtSampled s.pkg path msg) (cmdOf path msg) = some st := by rw [opBar_logClear _ h hlen]; simpa using hbar
  rw [mgtCommand_of_take h.2.1 h.2.2.1]
  simp [opTake, hst, hop, firstFail, opAct]

end Clear

/-- A refusal is answered with its status. -/
theorem mgtRefuse_answered (p : Pkg) (path : Path) (msg : Bytes) {status : Nat} (hs : status < 256) :
    answered (mgtRefuse p (cmdOf path msg) status []) path msg status := mgtReply_answered _ path msg hs []

/-! #### Quarantine (R438) -/

/-- What quarantine says of an array: its state, its cause and the pen that holds it. -/
def arrFate (p : Pkg) (a : Nat) : Nat × Nat × Nat := ((arrOf p a).st, (arrOf p a).cause, (arrOf p a).pen)

theorem arrFate_congr {p q : Pkg} (h : q.arrays = p.arrays) (a : Nat) : arrFate q a = arrFate p a := by
  unfold arrFate arrOf
  rw [h]

theorem haltArrays_arrFate (p : Pkg) (n a : Nat) : arrFate (haltArrays p n) a = arrFate p a :=
  forAll_keep (fun q => arrFate q a) _ _ _ fun q b => by
    simp only [arrFate, arrOf_modArr]
    split
    · next h => rw [h]
    · rfl

theorem dropStep_arrFate (p : Pkg) (n a : Nat) : arrFate (dropStep p n) a = arrFate p a := by
  unfold dropStep
  split
  · rfl
  · extract_lets p0 p1 p2 leash p3
    have h1 : arrFate p1 a = arrFate p a := (haltArrays_arrFate _ n a).trans (arrFate_congr (by simp [p0]) a)
    rw [← h1]
    exact (forAll_keep (fun q => arrFate q a) _ _ _ fun q e => arrFate_congr (by simp) a).trans (arrFate_congr rfl a)

theorem faultStep_arrFate (p : Pkg) (n a : Nat) : arrFate (faultStep p n) a = arrFate p a := by
  unfold faultStep
  split
  · rfl
  · split
    · exact dropStep_arrFate p n a
    · unfold fenceGroupOp
      extract_lets x p1 p2 p3 p4
      split
      · rfl
      · have h2 : p2.arrays = p.arrays := by simp only [p2]; split <;> simp [p1]
        rw [arrFate_congr (q := sendNotices p4 n 2) (p := p3) (by simp [p4]) a]
        exact (dropStep_arrFate p2 n a).trans (arrFate_congr h2 a)

/-- The firmware takes usable arrays alone (R175). -/
theorem chooseOne_usable {p : Pkg} {a : Nat} (h : chooseOne p = some a) : (arrOf p a).st = 0 := by
  unfold chooseOne at h
  dsimp only at h
  split at h
  · have hmem := List.mem_of_head? h
    simpa [arrayUsable] using (Bool.and_eq_true_iff.mp (List.mem_filter.mp hmem).2).2
  · exact absurd h (by simp)

/-- A set that is filled takes no quarantined array. -/
theorem fillSet_arrFate {p : Pkg} {n a : Nat} (h : (arrOf p a).st ≠ 0) (k : Nat) : arrFate (fillSet p n k) a = arrFate p a := by
  induction k generalizing p with
  | zero => rfl
  | succ k ih =>
    unfold fillSet
    split
    · split
      · next b hb =>
        have hne : a ≠ b := fun hab => h (hab ▸ chooseOne_usable hb)
        have hsame : arrOf (takeArray p n b) a = arrOf p a := by
          simp only [takeArray, arrOf, modPen, modArr]
          exact tget_tmod_ne ({} : Arr) p.arrays _ hne
        have hfate : arrFate (takeArray p n b) a = arrFate p a := by simp only [arrFate, hsame]
        rw [ih (by rwa [hsame]), hfate]
      · rfl
    · rfl

/-- A usable array is QUARANTINED with its cause, and is no pen's (R438). -/
theorem quarantineOp_arrFate {p : Pkg} {a cause : Nat} (h : (arrOf p a).st = 0) (ha : a < 256) :
    arrFate (quarantineOp p a cause) a = (1, cause, 0) := by
  unfold quarantineOp
  extract_lets x n uses p1 p2 p3
  rw [if_neg (by simp [x, h, ha])]
  by_cases hpen : x.pen = 0
  · rw [if_pos hpen]
    have hlog (q : Pkg) : arrFate (log q codeArrayQuarantined a a cause 0xFF) a = arrFate q a := arrFate_congr (by simp) a
    rw [hlog, arrFate, arrOf_modArr, if_pos rfl]
    exact congrArg (fun k => (1, cause, k)) hpen
  · rw [if_neg hpen]
    have h1 : arrFate p1 a = (1, cause, 0) := by simp [arrFate, p1]
    have h2 : arrFate p2 a = arrFate p1 a := arrFate_congr (by simp [p2]) a
    have h3 : arrFate p3 a = (1, cause, 0) := by
      refine Eq.trans ?_ (h2.trans h1)
      simp only [p3]
      split
      · exact faultStep_arrFate p2 n a
      · rfl
    have hst : (arrOf p3 a).st = 1 := congrArg Prod.fst h3
    have h4 : arrFate (fillSet p3 n 256) a = (1, cause, 0) := (fillSet_arrFate (by simp [hst]) 256).trans h3
    exact (arrFate_congr (by simp) a).trans h4

/-- A quarantine acts but in the tick of a larger reset (R431). -/
theorem quarantineNow_acts {p : Pkg} {a : Nat} (cause : Nat) (hl : largerReset p = false)
    (hp : (arrOf p a).pen ≠ 0 → penReset p ((arrOf p a).pen - 1) = false) : quarantineNow p a cause = quarantineOp p a cause := by
  refine if_neg fun h => ?_
  rcases h with h | ⟨h0, h⟩
  · simp [hl] at h
  · simp [hp h0] at h

theorem quarantineNow_idle {p : Pkg} {a : Nat} (cause : Nat)
    (h : (arrOf p a).st ≠ 0 ∨ ¬ (largerReset p = false ∧ ((arrOf p a).pen ≠ 0 → penReset p ((arrOf p a).pen - 1) = false))) :
    quarantineNow p a cause = p := by
  unfold quarantineNow
  dsimp only
  split
  · rfl
  · next hno =>
    refine if_pos (.inl (h.resolve_right fun hr => hr ?_))
    simpa using hno

/-! #### A held port is judged again (R355) -/

theorem portOf_evaluate {p : Pkg} {n : Nat} (b : Bytes) (h : (portOf p n).st ≠ ptUp) :
    (portOf (evaluate p n b) n).st = (collarVerdict p n b).1 ∧ (portOf (evaluate p n b) n).holdReason = (collarVerdict p n b).2 ∧
      ∀ k, k ≠ n → portOf (evaluate p n b) k = portOf p k := by
  have hlog (q : Pkg) (code source x y z k : Nat) : portOf (log q code source x y z) k = portOf q k := portOf_congr (by simp) k
  rcases hv : collarVerdict p n b with ⟨st, why⟩
  unfold evaluate
  rw [hv]
  dsimp -zeta only
  extract_lets old p1 p2
  have h2 : p2 = p1 := if_neg fun hup => h hup.1
  have hn : (portOf p1 n).st = st ∧ (portOf p1 n).holdReason = why := by simp [p1]
  have hk (k : Nat) (hne : k ≠ n) : portOf p1 k = portOf p k := by simp [p1, portOf_modPort, hne]
  rw [h2]
  clear_value p1
  split
  · exact ⟨by rw [hlog, hn.1], by rw [hlog, hn.2], fun k hne => by rw [hlog, hk k hne]⟩
  · split
    · exact ⟨by rw [hlog, hn.1], by rw [hlog, hn.2], fun k hne => by rw [hlog, hk k hne]⟩
    · split
      · exact ⟨by rw [hlog, hn.1], by rw [hlog, hn.2], fun k hne => by rw [hlog, hk k hne]⟩
      · exact ⟨hn.1, hn.2, hk⟩

end Sys2Proof.Machine
end

section
/-! PROOFS. WARM_RESET (R431, R432): nothing of what was sent is taken back, every context's generation advances, and what the reset leaves. -/

namespace Sys2Proof.Machine

/-! #### What has been sent stays sent -/

theorem mem_logIrq_out {p : Pkg} {o : Out} (r : Rec) (h : o ∈ p.out) : o ∈ (logIrq p r).out := by
  unfold logIrq
  split
  · exact mem_msix_out 0 1025 h
  · exact h

theorem mem_logRec_out {p : Pkg} {o : Out} (prot : Bool) (code source a b c : Nat) (h : o ∈ p.out) :
    o ∈ (logRec p prot code source a b c).1.out := by
  have hcommit (q : Pkg) (r : Rec) (hq : o ∈ q.out) : o ∈ (commitRec q r).1.out := by
    unfold commitRec
    dsimp only
    split
    · exact mem_logIrq_out r hq
    · exact hq
  unfold logRec
  dsimp only
  split
  · exact h
  · split
    · exact hcommit _ _ h
    · (repeat' split) <;> exact h

theorem mem_log_out {p : Pkg} {o : Out} (code source a b c : Nat) (h : o ∈ p.out) : o ∈ (log p code source a b c).out :=
  mem_logRec_out false code source a b c h

theorem mem_endImprint_out {p : Pkg} {o : Out} (i : Imprint) (status : Nat) (h : o ∈ p.out) : o ∈ (endImprint p i status).out := by
  have hlog := mem_log_out codeImprintRefused i.ctx (i.slot + 256 * (i.slot / 32)) (slotOf p i.slot).shard status h
  unfold endImprint emptySlotOp
  dsimp only
  split
  · exact mem_log_out _ _ _ _ _ hlog
  · exact hlog

/-! #### The contexts -/

/-- A table written at the keys of a list. -/
theorem tget_foldl_tset_each {α : Type} [DecidableEq α] (d : α) (g : Nat → α) (l : List Nat) (t : Tab α) (k : Nat) :
    tget d (l.foldl (fun u i => tset d u i (g i)) t) k = if k ∈ l then g k else tget d t k := by
  induction l generalizing t with
  | nil => simp
  | cons i l ih =>
    rw [List.foldl_cons, ih]
    by_cases hk : k = i
    · subst hk
      by_cases hmem : k ∈ l <;> simp [hmem]
    · by_cases hmem : k ∈ l <;> simp [hmem, hk, tget_tset_ne]

/-! #### The reset -/

/-- The imprints that a warm reset interrupts (R229). -/
def imprintsEnded (p : Pkg) : Pkg := forAll p.nvw.imprints (fun q i => endImprint q i stContextReset) p

theorem imprintsEnded_keeps (p : Pkg) : (imprintsEnded p).tick = p.tick ∧ (imprintsEnded p).fab = p.fab ∧ (imprintsEnded p).ctxs = p.ctxs := by
  simp [imprintsEnded]

theorem mem_imprintsEnded_out {p : Pkg} {o : Out} (h : o ∈ p.out) : o ∈ (imprintsEnded p).out :=
  foldl_inv (P := fun q : Pkg => o ∈ q.out) p.nvw.imprints h fun _ i hq => mem_endImprint_out i _ hq

theorem warmResetOp_leaves (p : Pkg) (trigger : Nat) : (warmResetOp p trigger).tick = { p.tick with pendingCount := none } ∧
    (warmResetOp p trigger).glb.ready = false ∧ (warmResetOp p trigger).glb.selfTestDone = false ∧ (warmResetOp p trigger).pens = [] ∧
    (warmResetOp p trigger).reqs = [] ∧ (warmResetOp p trigger).hnd = {} ∧ (warmResetOp p trigger).mgt.lease = false ∧
    (warmResetOp p trigger).mgt.epoch = 0 ∧ (warmResetOp p trigger).mgt.stale = true ∧
    (warmResetOp p trigger).fab.plan = p.fab.plan := by
  simp [warmResetOp]

theorem warmResetOp_ctxOf (p : Pkg) (trigger : Nat) {c : Nat} (hc : c < 256) :
    ctxOf (warmResetOp p trigger) c = { gen := genNext (ctxOf p c).gen } := by
  have hctxs : (warmResetOp p trigger).ctxs =
      (upto 256).foldl (fun t c => tset {} t c { gen := genNext (ctxOf (imprintsEnded p) c).gen }) [] := by
    simp [warmResetOp, imprintsEnded]
  have hsame : ctxOf (imprintsEnded p) c = ctxOf p c := by rw [ctxOf, ctxOf, (imprintsEnded_keeps p).2.2]
  rw [ctxOf, hctxs, tget_foldl_tset_each, if_pos (by simpa [upto] using hc), hsame]

theorem mem_warmResetOp_out {p : Pkg} {o : Out} (trigger : Nat) (h : o ∈ p.out) : o ∈ (warmResetOp p trigger).out :=
  mem_log_out _ _ _ _ _ (mem_imprintsEnded_out h)

/-- A WARM_RESET that no cold reset of its tick overrides is answered and acts. -/
theorem warmReset_acts {s : State} {path : Path} {msg : Bytes} (h : mgtNow s 0x13 path msg) (hl : largerReset s.pkg = false) :
    mgtCommand 0x13 path msg s.pkg = warmResetOp (mgtDone (mgtActing s.pkg path msg) (cmdOf path msg) []) 3 := by
  have hop : (cmdOf path msg).op = 0x13 := h.2.1
  have hbar (p : Pkg) : opBar p (cmdOf path msg) = none := by simp [opBar, hop, bodyNeed, firstFail, need]
  have hnow : actsNow (mgtPassed (mgtSampled s.pkg path msg)) (cmdOf path msg) = true := by simp [actsNow, cmdOf, h.2.2.2]
  have hlarger : largerReset (mgtActing s.pkg path msg) = false := by
    obtain ⟨m, hm⟩ := mgtActing_eq s.pkg path msg
    rw [hm]
    exact hl
  have hact : opAct (mgtActing s.pkg path msg) (cmdOf path msg) =
      warmResetOp (mgtDone (mgtActing s.pkg path msg) (cmdOf path msg) []) 3 := by
    simp [opAct, hbar, hop, hlarger]
  rw [mgtCommand_of_take h.2.1 h.2.2.1, ← hact]
  simp [opTake, hbar, hop, firstFail, hnow, mgtActing, h.2.1]

end Sys2Proof.Machine
end

section
/-! PROOFS. The requests of a pen through the end of its step and its reset (R189, R287, R434): a request that is neither FREE nor ADMITTING and
holds no deadline policy stays an entry of its pen, and once DONE it stays DONE. -/

namespace Sys2Proof.Machine

/-! #### What a table lists after a write -/

theorem mem_tdel_of_ne {α : Type} {t : Tab α} {n : Nat} {e : Nat × α} (h : e ∈ t) (hne : e.1 ≠ n) : e ∈ tdel t n := by
  induction t with
  | nil => exact h
  | cons y t ih =>
    obtain ⟨k, v⟩ := y
    unfold tdel
    rcases List.mem_cons.mp h with rfl | h
    · rw [if_neg (Ne.symm hne)]
      exact List.mem_cons_self
    · split
      · exact ih h
      · exact List.mem_cons_of_mem _ (ih h)

theorem self_mem_tins {α : Type} (n : Nat) (x : α) (t : Tab α) : (n, x) ∈ tins n x t := by
  induction t with
  | nil => exact List.mem_cons_self
  | cons y t ih =>
    unfold tins
    split
    · exact List.mem_cons_self
    · split
      · exact List.mem_cons_self
      · exact List.mem_cons_of_mem _ ih

/-- What a table lists stays listed, or is the value replaced. -/
theorem mem_tins_of_mem {α : Type} (d x : α) {t : Tab α} {n : Nat} {e : Nat × α} (h : e ∈ t) :
    e ∈ tins n x t ∨ (e.1 = n ∧ e.2 = tget d t n) := by
  induction t with
  | nil => exact absurd h List.not_mem_nil
  | cons y t ih =>
    obtain ⟨k, v⟩ := y
    unfold tins
    split
    · exact .inl (List.mem_cons_of_mem _ h)
    · split
      · next hk =>
        rcases List.mem_cons.mp h with rfl | h
        · exact .inr ⟨hk.symm, by simp [tget, hk]⟩
        · exact .inl (List.mem_cons_of_mem _ h)
      · next hk =>
        rcases List.mem_cons.mp h with rfl | h
        · exact .inl List.mem_cons_self
        · refine (ih h).imp (List.mem_cons_of_mem _) fun ⟨h1, h2⟩ => ⟨h1, ?_⟩
          rw [h2, tget, if_neg hk]

theorem mem_tset_of_ne {α : Type} [DecidableEq α] {d : α} (x : α) {t : Tab α} {n : Nat} {e : Nat × α} (h : e ∈ t) (hne : e.1 ≠ n) :
    e ∈ tset d t n x := by
  unfold tset
  split
  · exact mem_tdel_of_ne h hne
  · exact (mem_tins_of_mem d x h).resolve_right fun hr => hne hr.1

theorem mem_entriesOfPen {p : Pkg} {n e : Nat} : e ∈ entriesOfPen p n ↔ ∃ r, (e, r) ∈ p.reqs ∧ r.st ≠ rqFree ∧ r.pen = n := by
  simp [entriesOfPen, tkeys]

/-! #### A request that stays -/

/-- A request lives and is an entry of a pen, with no deadline policy held; where `ended` holds it is DONE. -/
structure RequestStays (ended : Prop) (n e : Nat) (p : Pkg) : Prop where
  live : liveReq (reqOf p e) = true
  done : ended → (reqOf p e).st = rqDone
  policy : (reqOf p e).heldPolicy = false
  listed : e ∈ entriesOfPen p n

theorem liveReq_iff {r : Req} : liveReq r = true ↔ r.st ≠ rqFree ∧ r.st ≠ rqAdmitting := by simp [liveReq]

section Stays
variable {ended : Prop} {n e x : Nat} {p q : Pkg}

theorem RequestStays.of_reqs (h : RequestStays ended n e p) (hq : q.reqs = p.reqs) : RequestStays ended n e q := by
  obtain ⟨hlive, hdone, hpolicy, hlisted⟩ := h
  have hr : reqOf q e = reqOf p e := reqOf_congr hq e
  exact ⟨hr ▸ hlive, hr ▸ hdone, hr ▸ hpolicy, by rw [mem_entriesOfPen] at hlisted ⊢; rwa [hq]⟩

/-- A change of a request keeps it, where the request itself keeps its life, its pen and its policy. -/
theorem RequestStays.modReq (h : RequestStays ended n e p) {f : Req → Req}
    (hf : x = e → liveReq (f (reqOf p e)) = true ∧ (ended → (f (reqOf p e)).st = rqDone) ∧ (f (reqOf p e)).heldPolicy = false ∧
      (f (reqOf p e)).pen = (reqOf p e).pen) : RequestStays ended n e (Machine.modReq p x f) := by
  obtain ⟨hlive, hdone, hpolicy, hlisted⟩ := h
  obtain ⟨r, hr, hst, hpen⟩ := mem_entriesOfPen.mp hlisted
  by_cases hx : x = e
  · subst hx
    obtain ⟨flive, fdone, fpolicy, fpen⟩ := hf rfl
    have hnow : reqOf (Machine.modReq p x f) x = f (reqOf p x) := reqOf_modReq_same p x f
    have hnew : f (tget {} p.reqs x) ≠ {} := fun hd => (liveReq_iff.mp flive).1 (congrArg Req.st hd)
    refine ⟨hnow ▸ flive, hnow ▸ fdone, hnow ▸ fpolicy, mem_entriesOfPen.mpr ?_⟩
    have htab : (Machine.modReq p x f).reqs = tins x (f (tget {} p.reqs x)) p.reqs := if_neg hnew
    rw [htab]
    rcases mem_tins_of_mem ({} : Req) (f (tget {} p.reqs x)) hr with hkept | ⟨-, heq⟩
    · exact ⟨r, hkept, hst, hpen⟩
    · exact ⟨_, self_mem_tins _ _ _, (liveReq_iff.mp flive).1, (fpen.trans (congrArg Req.pen heq.symm)).trans hpen⟩
  · have hnow : reqOf (Machine.modReq p x f) e = reqOf p e := (reqOf_modReq p x e f).trans (if_neg (Ne.symm hx))
    exact ⟨hnow ▸ hlive, hnow ▸ hdone, hnow ▸ hpolicy, mem_entriesOfPen.mpr ⟨r, mem_tset_of_ne _ hr (Ne.symm hx), hst, hpen⟩⟩

/-- A change of no request's state, pen or policy keeps it. -/
theorem RequestStays.modReq_same (h : RequestStays ended n e p) {f : Req → Req}
    (hf : ∀ r, (f r).st = r.st ∧ (f r).pen = r.pen ∧ (f r).heldPolicy = r.heldPolicy) :
    RequestStays ended n e (Machine.modReq p x f) := by
  obtain ⟨hst, hpen, hpolicy⟩ := hf (reqOf p e)
  exact h.modReq fun _ => ⟨by simpa [liveReq, hst] using h.live, fun he => hst.trans (h.done he), hpolicy.trans h.policy, hpen⟩

theorem freeEntry_stays (h : RequestStays ended n e p) (hx : x ≠ e) : RequestStays ended n e (freeEntry p x) := by
  obtain ⟨hlive, hdone, hpolicy, hlisted⟩ := h
  obtain ⟨r, hr, hst, hpen⟩ := mem_entriesOfPen.mp hlisted
  have hnow : reqOf (freeEntry p x) e = reqOf p e := by
    simp only [freeEntry, reqOf]
    exact tget_tset_ne ({} : Req) p.reqs _ (Ne.symm hx)
  have hmem : (e, r) ∈ (freeEntry p x).reqs := mem_tset_of_ne (d := ({} : Req)) {} hr (Ne.symm hx)
  exact ⟨hnow ▸ hlive, hnow ▸ hdone, hnow ▸ hpolicy, mem_entriesOfPen.mpr ⟨r, hmem, hst, hpen⟩⟩

theorem stopCopies_stays {whys : List Nat} (h : RequestStays ended n e p) : RequestStays ended n e (stopCopies p x whys) := h.of_reqs rfl

theorem forAll_stays {α : Type} {l : List α} {f : Pkg → α → Pkg} (h : RequestStays ended n e p)
    (hf : ∀ q y, RequestStays ended n e q → RequestStays ended n e (f q y)) : RequestStays ended n e (forAll l f p) := foldl_inv l h hf

theorem endSharing_stays (h : RequestStays ended n e p) : RequestStays ended n e (endSharing p x) :=
  forAll_stays h fun _ _ hq => (stopCopies_stays hq).modReq_same fun _ => ⟨rfl, rfl, rfl⟩

theorem releasePages_stays (h : RequestStays ended n e p) : RequestStays ended n e (releasePages p x) := by
  unfold releasePages
  extract_lets r p1 p2 p3 p4
  have h1 : RequestStays ended n e p1 := endSharing_stays (stopCopies_stays h)
  have h2 : p2.reqs = p1.reqs := forAll_reqs _ _ _ fun q y => by
    split
    · simp
    · split <;> simp
    · rfl
  have h4 : p4.reqs = p2.reqs := by simp [p4, p3]
  exact (h1.of_reqs (h4.trans h2)).modReq_same fun _ => ⟨rfl, rfl, rfl⟩

theorem refuseAdmit_stays {status : Nat} (h : RequestStays ended n e p) (hx : x ≠ e) : RequestStays ended n e (refuseAdmit p x status) :=
  freeEntry_stays (releasePages_stays (h.of_reqs (by simp))) hx

theorem dropTokSlot_stays (h : RequestStays ended n e p) : RequestStays ended n e (dropTokSlot p x) := by
  have h1 : RequestStays ended n e (modReq p x fun y => { y with tokSlot := false }) := h.modReq_same fun _ => ⟨rfl, rfl, rfl⟩
  unfold dropTokSlot
  dsimp only
  split
  · split <;> exact h1.of_reqs (by simp)
  · exact h

theorem leaveStep_stays (h : RequestStays ended n e p) : RequestStays ended n e (leaveStep p x) := by
  unfold leaveStep
  extract_lets out p1
  have h1 : RequestStays ended n e p1 := h.of_reqs rfl
  exact (dropTokSlot_stays h1).modReq_same fun _ => ⟨rfl, rfl, rfl⟩

/-- A request that ends is DONE; the other ones stay (R287). -/
theorem endReq_stays {status : Nat} (h : RequestStays ended n e p) : RequestStays ended n e (endReq p x status) := by
  unfold endReq
  extract_lets r p1 p2
  have h1 : RequestStays ended n e p1 := leaveStep_stays (stopCopies_stays h)
  have h2 : RequestStays ended n e p2 := h1.modReq fun _ => ⟨rfl, fun _ => rfl, h1.policy, rfl⟩
  split
  · exact h
  · split
    · next hadm => exact refuseAdmit_stays h fun hx => (liveReq_iff.mp h.live).2 (hx ▸ hadm)
    · split
      · exact h
      · exact h2.of_reqs rfl

theorem endReq_ends {status : Nat} (h : RequestStays ended n e p) : RequestStays True n e (endReq p e status) := by
  have hkept : RequestStays ended n e (endReq p e status) := endReq_stays h
  refine ⟨hkept.live, fun _ => ?_, hkept.policy, hkept.listed⟩
  obtain ⟨hfree, hadm⟩ := liveReq_iff.mp h.live
  unfold endReq
  extract_lets r p1 p2
  rw [if_neg hfree, if_neg hadm]
  split
  · next hdone => exact hdone
  · have hnow : reqOf p2 e = { reqOf p1 e with st := rqDone, endStatus := status, nextDl := 0, ttlExp := 0 } := reqOf_modReq_same p1 e _
    exact congrArg Req.st hnow

/-- Of the requests that end in turn, each that lives is DONE. -/
theorem endAll_ends {status : Nat} {l : List Nat} (he : e ∈ l) (h : RequestStays ended n e p) :
    RequestStays True n e (forAll l (fun q x => endReq q x status) p) := by
  induction l generalizing p with
  | nil => exact absurd he List.not_mem_nil
  | cons y l ih =>
    rcases List.mem_cons.mp he with rfl | hmem
    · exact forAll_stays (p := endReq p e status) (endReq_ends h) fun _ _ => endReq_stays
    · exact ih hmem (endReq_stays h)

end Stays

/-! #### Requests at the retirement of their step (R189, R294, R301) -/

section Retires
variable {n e x : Nat} {p : Pkg}

theorem answerHeld_stays {d : Desc} {status : Nat} (h : RequestStays False n e p) : RequestStays False n e (answerHeld p x d status) :=
  (h.modReq_same (x := x) (f := fun y => { y with held := y.held.filter fun z => !sameDesc z d }) fun _ => ⟨rfl, rfl, rfl⟩).of_reqs (by simp [answerHeld])

theorem closeResume_stays {status : Nat} (h : RequestStays False n e p) : RequestStays False n e (closeResume p x status) := by
  unfold closeResume
  split
  · exact answerHeld_stays (h.modReq_same fun _ => ⟨rfl, rfl, rfl⟩)
  · exact h

theorem noteKennelFull_stays {rest : Nat} (h : RequestStays False n e p) : RequestStays False n e (noteKennelFull p x rest) := by
  unfold noteKennelFull
  dsimp only
  split
  · exact (h.modReq_same (x := x) (f := fun y => { y with kennelFull := true }) fun _ => ⟨rfl, rfl, rfl⟩).of_reqs (by simp)
  · exact h

theorem copyOut_stays {why : Nat} (h : RequestStays False n e p) : RequestStays False n e (copyOut p x why) := by
  unfold copyOut
  exact noteKennelFull_stays (h.of_reqs (by simp))

theorem pauseReq_stays {prev until_ : Nat} (h : RequestStays False n e p) : RequestStays False n e (pauseReq p x prev until_) := by
  unfold pauseReq
  extract_lets p1
  have h1 : RequestStays False n e p1 := h.modReq fun _ => ⟨rfl, False.elim, h.policy, rfl⟩
  exact copyOut_stays (stopCopies_stays h1)

theorem applyPause_stays {d : Desc} {ttl : Nat} (h : RequestStays False n e p) : RequestStays False n e (applyPause p x d ttl) := by
  unfold applyPause
  dsimp only
  split
  · exact answerHeld_stays (h.modReq_same fun _ => ⟨rfl, rfl, rfl⟩)
  · exact answerHeld_stays (pauseReq_stays (closeResume_stays h))

theorem growBlocks_stays (h : RequestStays False n e p) : RequestStays False n e (growBlocks p x) :=
  forAll_stays h fun q k hq => by
    split
    · split
      · exact (hq.of_reqs (by simp)).modReq_same fun _ => ⟨rfl, rfl, rfl⟩
      · exact hq
    · exact hq

theorem applyAppend_stays {t : TokRead} {ts : List Word32} (h : RequestStays False n e p) : RequestStays False n e (applyAppend p x t ts) := by
  unfold applyAppend
  extract_lets r p0 need p1 p2
  have h0 : RequestStays False n e p0 := h.modReq_same fun _ => ⟨rfl, rfl, rfl⟩
  have h1 : RequestStays False n e p1 := h0.of_reqs (by simp [p1])
  have h2 : RequestStays False n e p2 := h1.modReq fun _ => by
    obtain ⟨hfree, hadm⟩ := liveReq_iff.mp h1.live
    refine ⟨liveReq_iff.mpr ?_, False.elim, h1.policy, rfl⟩
    dsimp only
    split
    · decide
    · exact ⟨hfree, hadm⟩
  split
  · exact answerHeld_stays (h0.of_reqs (by simp))
  · split
    · exact answerHeld_stays h0
    · split
      · exact answerHeld_stays h0
      · exact growBlocks_stays (answerHeld_stays h2)

theorem applyHeld_stays (h : RequestStays False n e p) : RequestStays False n e (applyHeld p x) :=
  forAll_stays h fun q d hq => by
    dsimp only
    split
    · exact hq
    · split
      · split
        · split
          · exact applyAppend_stays hq
          · exact hq
        · exact hq
      · split
        · exact applyPause_stays hq
        · exact hq

theorem fallbackReq_stays (h : RequestStays False n e p) (hx : x ≠ e) : RequestStays False n e (fallbackReq p x) := by
  unfold fallbackReq
  extract_lets r m need p1 p2 p3 p4
  have h1 : RequestStays False n e p1 := closeResume_stays (releasePages_stays (leaveStep_stays h))
  have h2 : RequestStays False n e p2 := h1.of_reqs (by simp [p2])
  have h3 : RequestStays False n e p3 := h2.modReq fun hxe => absurd hxe hx
  split
  · exact h.of_reqs (by simp)
  · exact applyHeld_stays (growBlocks_stays (h3.of_reqs (by simp [p4])))

theorem applyPolicy_stays (h : RequestStays False n e p) (hx : x ≠ e) : RequestStays False n e (applyPolicy p x) := by
  unfold applyPolicy
  dsimp only
  split
  · exact fallbackReq_stays h hx
  · exact endReq_stays (h.of_reqs (by simp))
  · exact h

theorem retireReq_stays (h : RequestStays False n e p) : RequestStays False n e (retireReq p x) := by
  unfold retireReq
  extract_lets r p1 serving p2
  have h1 : RequestStays False n e p1 := h.modReq fun _ => ⟨h.live, False.elim, rfl, rfl⟩
  have h2 : RequestStays False n e p2 := by
    simp only [p2]
    split
    · next hpol =>
      refine applyPolicy_stays h1 fun hx => ?_
      subst hx
      have hp : r.heldPolicy = true := (Bool.and_eq_true_iff.mp hpol).1
      exact Bool.false_ne_true (h.policy.symm.trans hp)
    · exact h1
  split
  · exact endReq_stays h1
  · exact applyHeld_stays h2

theorem dropStep_stays {m : Nat} (h : RequestStays False n e p) : RequestStays False n e (dropStep p m) := by
  unfold dropStep
  split
  · exact h
  · extract_lets p0 p1 p2 leash p3
    have h0 : RequestStays False n e p0 := forAll_stays h fun _ _ hq => hq.modReq_same fun _ => ⟨rfl, rfl, rfl⟩
    have h1 : p1.reqs = p0.reqs := by simp [p1]
    have h3 : RequestStays False n e p3 := h0.of_reqs h1
    exact forAll_stays h3 fun _ _ hq => retireReq_stays (dropTokSlot_stays hq)

end Retires

end Sys2Proof.Machine
end

section
/-! PROOFS. PEN_RESET (R434), on the pen's step, its state and its requests, and the commands of authorisations and services together. -/

namespace Sys2Proof.Machine

/-! #### A pen goes back to BOUND -/

/-- The move to BOUND ends no binding and refuses no request. -/
theorem penTo_bound_eq (p : Pkg) (n : Nat) : ∃ q, (q = p ∨ q = newCount p n) ∧ penTo p n penBound = setPenState q n penBound := by
  refine ⟨if decide ((penOf p n).st = penActive ∧ penBound ≠ penActive) && (penOf p n).step.isNone then newCount p n else p, ?_, by simp [penTo]⟩
  split
  · exact .inr rfl
  · exact .inl rfl

theorem penTo_bound_keeps (p : Pkg) (n : Nat) : (penTo p n penBound).reqs = p.reqs ∧
    (penOf (penTo p n penBound) n).replace = (penOf p n).replace := by
  obtain ⟨q, hq, h⟩ := penTo_bound_eq p n
  rw [h, penOf_setPenState]
  rcases hq with rfl | rfl
  · exact ⟨by simp, rfl⟩
  · exact ⟨by simp, by simp [newCount]⟩

/-! #### A pen's reset -/

section Reset
variable {p : Pkg} {n e : Nat}

theorem faultStep_stays (hsize : (penOf p n).groupSize ≤ 1) (h : RequestStays False n e p) : RequestStays False n e (faultStep p n) := by
  unfold faultStep
  split
  · exact h
  · exact dropStep_stays h

theorem discardPool_stays (h : RequestStays True n e p) : RequestStays True n e (discardPool p n) :=
  (forAll_stays h fun _ _ => releasePages_stays).of_reqs (q := discardPool p n) rfl

/-- Every request of the pen that lives, but for one whose held policy acts, is DONE. -/
theorem penResetDo_done (cause : Nat) (hsize : (penOf p n).groupSize ≤ 1) (h : RequestStays False n e p) :
    (reqOf (penResetDo p n cause) e).st = rqDone := by
  unfold penResetDo
  extract_lets p1 p2 p3 p4 p5 p6
  have h1 : RequestStays False n e p1 := faultStep_stays hsize h
  have h2 : RequestStays True n e p2 := endAll_ends h1.listed h1
  have h3 : RequestStays True n e p3 := (discardPool_stays h2).of_reqs (by simp [p3])
  have h5 : p5.reqs = p3.reqs := by simp [p5, p4]
  have h6 : p6.reqs = p5.reqs := by
    simp only [p6]
    split
    · exact (penTo_bound_keeps p5 n).1
    · rfl
  rw [reqOf_congr (p := p3) (by simp [h6, h5])]
  exact h3.done trivial

/-- The pen is left without its step, not ACTIVE, and is placed again. -/
theorem penResetDo_pen (cause : Nat) (hsize : (penOf p n).groupSize ≤ 1) : (penOf (penResetDo p n cause) n).st ≠ penActive ∧
    (penOf (penResetDo p n cause) n).replace = true ∧ (penOf (penResetDo p n cause) n).step = none := by
  unfold penResetDo
  extract_lets p1 p2 p3 p4 p5 p6
  have h2 : penHead true p2 n = penHead true p1 n := forAll_head _ _ _ _ fun _ _ => endReq_head _ _ _ _
  have h3 : penHead true p3 n = penHead true p2 n := (loseBuffers_head _ _ _).trans (discardPool_head _ _ _)
  have h4 : penHead true p4 n = penHead true p3 n := forAll_head _ _ _ _ fun _ _ => endBinding_head _ _ _
  have hstep4 : (penOf p4 n).step = none := by
    rw [step_eq_none_iff, h4, h3, h2, ← step_eq_none_iff]
    exact faultStep_step hsize
  clear_value p4
  have hauths : penOf (endAuths p4) n = penOf p4 n := penOf_congr (by simp) n
  have hstep5 : (penOf p5 n).step = none := by simp only [p5, penOf_modPen_same, hauths, hstep4]
  have hreplace5 : (penOf p5 n).replace = true := by simp only [p5, penOf_modPen_same]
  clear_value p5
  rw [penOf_congr (p := p6) (by simp)]
  simp only [p6]
  split
  · refine ⟨?_, (penTo_bound_keeps p5 n).2.trans hreplace5, penTo_step_eq_none hstep5⟩
    rw [penTo_st]
    decide
  · next hst => exact ⟨fun h => hst (.inl h), hreplace5, hstep5⟩

end Reset

/-! #### The command, with the larger resets of its tick foreseen (R431) -/

theorem underResets_overrides {s : State} {op : Nat} (h : op = 0x10 ∨ op = 0x12) (f : Pkg → Pkg) : underResets s op f = overridden s f := by
  unfold underResets
  rw [if_neg (by omega), if_pos h]

/-- The marks of later resets are the pens' only change. -/
theorem foreseen_pen (s : State) (n : Nat) : (penOf (foreseen s) n).st = (penOf s.pkg n).st ∧
    (penOf (foreseen s) n).groupSize = (penOf s.pkg n).groupSize := by
  have hmark (π : Pen → Nat) (hπ : ∀ x k, π { x with resetAt := k } = π x) : π (penOf (foreseen s) n) = π (penOf s.pkg n) := by
    unfold foreseen
    extract_lets p
    refine (forAll_keep (fun q => π (penOf q n)) _ _ _ fun q m => ?_).trans (congrArg π (penOf_congr ?_ n))
    · rw [penOf_modPen]
      split
      · next h => rw [h, hπ]
      · rfl
    · simp only [p]
      split <;> rfl
  exact ⟨hmark Pen.st fun _ _ => rfl, hmark Pen.groupSize fun _ _ => rfl⟩

theorem overridden_pen (s : State) (f : Pkg → Pkg) (n : Nat) : (penOf (overridden s f) n).st = (penOf (f (foreseen s)) n).st ∧
    (penOf (overridden s f) n).replace = (penOf (f (foreseen s)) n).replace ∧
    (penOf (overridden s f) n).step = (penOf (f (foreseen s)) n).step := by
  have hmark {β : Type} (π : Pen → β) (hπ : ∀ x k, π { x with resetAt := k } = π x) :
      π (penOf (overridden s f) n) = π (penOf (f (foreseen s)) n) :=
    (forAll_keep (fun q => π (penOf q n)) _ _ _ fun q m => by
      rw [penOf_modPen]
      split
      · next h => rw [h, hπ]
      · rfl).trans rfl
  exact ⟨hmark Pen.st fun _ _ => rfl, hmark Pen.replace fun _ _ => rfl, hmark Pen.step fun _ _ => rfl⟩

theorem penReset_acts {s : State} {path : Path} {msg : Bytes} (h : mgtNow s 0x12 path msg) (hlen : 1 ≤ (mgtBody msg).length)
    (hn : fieldAt (mgtBody msg) 0 1 < 16) (hl : largerReset s.pkg = false)
    (hst : (penOf s.pkg (fieldAt (mgtBody msg) 0 1)).st = penBound ∨ (penOf s.pkg (fieldAt (mgtBody msg) 0 1)).st = penActive) :
    mgtCommand 0x12 path msg s.pkg =
      mgtDone (penResetDo (mgtActing s.pkg path msg) (fieldAt (mgtBody msg) 0 1) 0) (cmdOf path msg) [] := by
  have hop : (cmdOf path msg).op = 0x12 := h.2.1
  have hbytes : (cmdOf path msg).body = mgtBody msg := rfl
  have hbody : body0 (cmdOf path msg) = fieldAt (mgtBody msg) 0 1 := rfl
  have hbar (p : Pkg) (hp : p.pens = s.pkg.pens) : opBar p (cmdOf path msg) = none := by
    simp [opBar, hop, bodyNeed, hbytes, hlen, firstFail, need, penResetBar, penInBody, hbody, hn, penOf_congr hp, hst]
  have hnow : penResetOp (mgtActing s.pkg path msg) (fieldAt (mgtBody msg) 0 1) 0 =
      penResetDo (mgtActing s.pkg path msg) (fieldAt (mgtBody msg) 0 1) 0 := by
    obtain ⟨m, hm⟩ := mgtActing_eq s.pkg path msg
    rw [hm]
    exact if_neg fun hlarger => Bool.false_ne_true (hl.symm.trans hlarger)
  rw [← hnow]
  simpa [opDo, hop, hbody] using mgtCommand_acts h (by decide) (hbar _ (by simp)) (by simp) (hbar _ (by simp))

theorem quarantine_under {s : State} {path : Path} {msg : Bytes} (h : mgtNow s 0x10 path msg) (hlen : 1 ≤ (mgtBody msg).length) :
    (underResets s 0x10 (mgtCommand 0x10 path msg)).arrays =
      (quarantineNow (mgtActing (foreseen s) path msg) (fieldAt (mgtBody msg) 0 1) 5).arrays := by
  have hacts := quarantine_acts (mgtNow_foreseen h) hlen
  rw [underResets_overrides (.inl rfl)]
  simp [hacts]

/-- The quarantine that takes effect, and the one that does not. -/
theorem quarantine_leaves {s : State} {path : Path} {msg : Bytes} (h : mgtNow s 0x10 path msg) (hlen : 1 ≤ (mgtBody msg).length) {a : Nat}
    (ha : fieldAt (mgtBody msg) 0 1 = a) :
    ((arrOf s.pkg a).st = 0 → mayQuarantine s a → arrFate (underResets s 0x10 (mgtCommand 0x10 path msg)) a = (1, 5, 0)) ∧
      ((arrOf s.pkg a).st ≠ 0 ∨ ¬ mayQuarantine s a → (underResets s 0x10 (mgtCommand 0x10 path msg)).arrays = s.pkg.arrays) := by
  have hunder := quarantine_under h hlen
  have harr : arrOf (mgtActing (foreseen s) path msg) a = arrOf s.pkg a := arrOf_congr (by simp) a
  obtain ⟨m, hm⟩ := mgtActing_eq (foreseen s) path msg
  rw [ha] at hunder
  refine ⟨fun hst hmay => ?_, fun hno => ?_⟩
  · rw [arrFate_congr hunder, quarantineNow_acts 5 (by rw [hm]; exact hmay.1) (by rw [harr, hm]; exact hmay.2)]
    exact quarantineOp_arrFate (harr ▸ hst) (ha ▸ fieldAt_lt _ 0 1)
  · rw [hunder, quarantineNow_idle 5 (by rw [harr, hm]; exact hno)]
    simp

/-- A pen reset that takes effect, on the pen and on each of its requests. -/
theorem penReset_leaves {s : State} {path : Path} {msg : Bytes} (h : mgtNow s 0x12 path msg) (hlen : 1 ≤ (mgtBody msg).length) {n : Nat}
    (hfield : fieldAt (mgtBody msg) 0 1 = n) (hn : n < 16) (hst : (penOf s.pkg n).st = penBound ∨ (penOf s.pkg n).st = penActive)
    (hsize : (penOf s.pkg n).groupSize ≤ 1) (hl : largerReset (foreseen s) = false) :
    let q := underResets s 0x12 (mgtCommand 0x12 path msg)
    (penOf q n).st ≠ penActive ∧ (penOf q n).replace = true ∧ (penOf q n).step = none ∧
      ∀ e, RequestStays False n e s.pkg → (reqOf q e).st = rqDone := by
  obtain ⟨hforest, hforesize⟩ := foreseen_pen s n
  have hacts : mgtCommand 0x12 path msg (foreseen s) = mgtDone (penResetDo (mgtActing (foreseen s) path msg) n 0) (cmdOf path msg) [] := by
    subst hfield
    rw [← hforest] at hst
    have hmsg := mgtNow_foreseen h
    exact penReset_acts (s := { s with pkg := foreseen s }) hmsg hlen hn hl hst
  have hsize' : (penOf (mgtActing (foreseen s) path msg) n).groupSize ≤ 1 := by
    rw [penOf_congr (p := foreseen s) (by simp), hforesize]
    exact hsize
  have hpen : penOf (mgtCommand 0x12 path msg (foreseen s)) n = penOf (penResetDo (mgtActing (foreseen s) path msg) n 0) n := by
    rw [hacts]
    exact penOf_congr (by simp) n
  obtain ⟨hst', hreplace, hstep⟩ := overridden_pen s (mgtCommand 0x12 path msg) n
  obtain ⟨pst, preplace, pstep⟩ := penResetDo_pen 0 hsize'
  intro q
  simp only [q, underResets_overrides (.inr rfl), hst', hreplace, hstep, hpen]
  refine ⟨pst, preplace, pstep, fun e he => ?_⟩
  rw [reqOf_congr (p := penResetDo (mgtActing (foreseen s) path msg) n 0) (by simp [hacts])]
  exact penResetDo_done 0 hsize' (he.of_reqs (by simp))

/-! #### The claim -/

/-- Settles O56: each command by the effect that it has on the package in which it acts, a pen's reset by what stays of each request through
the end of the step. -/
theorem authorisationAndServiceCommands : Obligations.AuthorisationAndServiceCommands := by
  refine ⟨fun s path msg h hlen => ?imprintAuth, fun s path msg h hlen => ?clearAuth, fun s path msg h hlen => ?logClear,
    fun s path msg h hlen => ?quarantine, fun s path msg h hlen => ?release, fun s path msg h hlen => ?penReset,
    fun s path msg h hl => ?warmReset, fun s path msg b h hlen => ?reeval⟩
  case imprintAuth =>
    intro b h1 h256 hid
    refine does_of_actS (exec_imprintAuth path msg s) h.1 ?_
    rw [imprintAuth_acts h hlen h1 h256 hid]
    exact ⟨by simp [imprintAuthDo, cmdOf, body0, mgtBody, b], by simp [imprintAuthDo],
      answered_settle _ (mgtReply_answered _ _ _ (by decide) _)⟩
  case clearAuth =>
    refine does_of_actS (exec_clearAuth path msg s) h.1 ?_
    rw [clearAuth_acts h hlen]
    exact ⟨by simp [clearAuthDo, cmdOf, mgtBody], answered_settle _ (mgtReply_answered _ _ _ (by decide) _)⟩
  case logClear =>
    intro u
    refine ⟨fun hbar => ?_, fun hheld hslots hu hq ht => ?_⟩
    · refine does_of_actS (exec_logClear path msg s) h.1 ?_
      have hsome : clearBar s.pkg.scn u = some stLengthInvalid := if_pos (by simpa using hbar)
      rw [logClear_refused h hlen hsome]
      exact ⟨by simp [mgtRefuse], by simp [mgtRefuse], answered_settle _ (mgtRefuse_answered _ _ _ (by decide))⟩
    · refine does_of_actS (exec_logClear path msg s) h.1 ?_
      rw [logClear_acts h hlen (clearBar_eq_none hheld hslots hu)]
      obtain ⟨hresult, hdropped, hover, hrecs⟩ := clearLog_scn (p := mgtActing s.pkg path msg) (by simpa using hq) (by simpa using ht) u
        (cmdOf path msg).mgr
      refine ⟨by simpa using hresult, by simpa using hdropped, by simpa using hover,
        answered_settle _ (mgtReply_answered _ _ _ (by decide) _), fun e he => ?_⟩
      simpa using hrecs e (by simpa using he)
  case quarantine =>
    intro a
    obtain ⟨hacts, hidles⟩ := quarantine_leaves h hlen (a := a) rfl
    refine ⟨fun hst hmay => ?_, fun hno => ?_⟩
    · refine does_of_actS (exec_quarantine path msg s) h.1 ?_
      have hfate : arrFate (settle s.pkg (judgeReady (underResets s 0x10 (mgtCommand 0x10 path msg)))) a = (1, 5, 0) :=
        (arrFate_congr (by simp) a).trans (hacts hst hmay)
      simpa [arrFate] using hfate
    · exact does_of_actS (exec_quarantine path msg s) h.1 (by simpa using hidles hno)
  case release =>
    intro a
    have harr : arrOf (mgtActing s.pkg path msg) a = arrOf s.pkg a := arrOf_congr (by simp) a
    refine ⟨fun hst => ?_, fun hst => ?_⟩
    · refine does_of_actS (exec_arrayRelease path msg s) h.1 ?_
      rw [arrayRelease_acts h hlen]
      have hq (k : Nat) : arrOf (settle s.pkg (judgeReady (mgtDone (startReturn (mgtActing s.pkg path msg) a) (cmdOf path msg) []))) k =
          arrOf (startReturn (mgtActing s.pkg path msg) a) k := arrOf_congr (by simp) k
      have hkept (k : Nat) (hk : k ≠ a) : arrOf (startReturn (mgtActing s.pkg path msg) a) k = arrOf s.pkg k := by
        rw [startReturn, harr, if_pos hst, arrOf_modArr, if_neg hk]
        exact arrOf_congr (by simp) k
      refine ⟨?_, ?_, fun k hk => (hq k).trans (hkept k hk)⟩
      · rw [hq, startReturn, harr, if_pos hst, arrOf_modArr, if_pos rfl]
      · rw [hq, startReturn, harr, if_pos hst, arrOf_modArr, if_pos rfl, harr]
    · refine does_of_actS (exec_arrayRelease path msg s) h.1 ?_
      have hidle : startReturn (mgtActing s.pkg path msg) a = mgtActing s.pkg path msg := if_neg (by rwa [harr])
      rw [arrayRelease_acts h hlen]
      simp [show fieldAt (mgtBody msg) 0 1 = a from rfl, hidle]
  case penReset =>
    intro n hn hst hsize hl
    obtain ⟨hactive, hreplace, hstep, hreqs⟩ := penReset_leaves h hlen rfl hn hst hsize hl
    refine does_of_actS (exec_penReset path msg s) h.1 ?_
    rw [penOf_settle]
    refine ⟨hactive, hreplace, hstep, fun e he hlive hpolicy => ?_⟩
    rw [reqOf_congr (p := underResets s 0x12 (mgtCommand 0x12 path msg)) (by simp)]
    exact hreqs e ⟨hlive, False.elim, hpolicy, he⟩
  case warmReset =>
    refine does_of_actS (exec_warmReset path msg s) h.1 ?_
    have hacts := warmReset_acts (mgtNow_coldForeseen h) hl
    obtain ⟨htick, hready, htest, hpens, hreqs, hhnd, hlease, hepoch, hstale, hplan⟩ :=
      warmResetOp_leaves (mgtDone (mgtActing (coldForeseen s) path msg) (cmdOf path msg) []) 3
    obtain ⟨b, hb, hfields⟩ := mgtReply_answered (mgtActing (coldForeseen s) path msg) path msg (status := stOk) (by decide) []
    have hunder : underResets s 0x13 (mgtCommand 0x13 path msg) = warmResetOp (mgtDone (mgtActing (coldForeseen s) path msg) (cmdOf path msg) []) 3 :=
      (if_pos rfl).trans hacts
    rw [hunder, judgeReady_of_gate hready (.inl htest)]
    have hctx (c : Nat) (hc : c < 256) : ctxOf (settle s.pkg (warmResetOp (mgtDone (mgtActing (coldForeseen s) path msg) (cmdOf path msg) []) 3)) c =
        { gen := genNext (ctxOf s.pkg c).gen } := by
      rw [ctxOf_congr (settle_keeps _ _).2.2.2.2.2.2.2.2.1, warmResetOp_ctxOf _ 3 hc,
        ctxOf_congr (p := s.pkg) (by simp)]
    refine ⟨by simp, by simp [htick], by simp [hready], by simp [htest], by simp [hpens], by simp [hreqs], by simp [hhnd], by simp [hlease],
      by simp [hepoch], by simp [hstale], by simp [hplan], ⟨b, mem_settle_out _ (mem_warmResetOp_out 3 hb), hfields⟩, fun c hc => ?_⟩
    rw [hctx c hc]
    exact ⟨rfl, rfl⟩
  case reeval =>
    intro n hn hheld hcollar
    refine does_of_actS (exec_portReeval path msg s) h.1 ?_
    have hport (k : Nat) : portOf (mgtActing s.pkg path msg) k = portOf s.pkg k := portOf_congr (by simp) k
    have hverdict : collarVerdict (mgtActing s.pkg path msg) n b = collarVerdict s.pkg n b := by
      obtain ⟨m, hm⟩ := mgtActing_eq s.pkg path msg
      rw [hm]
      rfl
    have hjudge : reevaluate (mgtActing s.pkg path msg) n = evaluate (mgtActing s.pkg path msg) n b := by
      simp [reevaluate, hport, hheld, hcollar]
    have hup : (portOf (mgtActing s.pkg path msg) n).st ≠ ptUp := by
      rw [hport]
      intro hup
      rw [hup] at hheld
      exact absurd hheld (by decide)
    obtain ⟨hst, hwhy, hothers⟩ := portOf_evaluate b hup
    have hq (k : Nat) : portOf (settle s.pkg (judgeReady (mgtCommand 0x14 path msg s.pkg))) k = portOf (evaluate (mgtActing s.pkg path msg) n b) k := by
      rw [portReeval_acts h hlen hn, ← hjudge]
      exact portOf_congr (by simp [n]) k
    exact ⟨by rw [hq, hst, hverdict], by rw [hq, hwhy, hverdict], fun k hk => by rw [hq, hothers k hk, hport]⟩

end Sys2Proof.Machine
end

section
/-! PROOFS. What records and answers leave of a context (R263, R267, R268, R273): the indices and counts of its rings, its descriptors, its
reserved slots and its host pages move, and of a context that is not ACTIVE no index does. -/

namespace Sys2Proof.Machine

/-- A context that is not ACTIVE, without what requests and bindings that end still move of it: its descriptors, its reserved slots and its
host pages. -/
def ctxRest (x : Ctx) : Ctx := { x with live := [], mailFrom := 0, reserved := 0, hostMap := [] }

/-- A context without what records move of it as well: the tails and counts of its rings, its interrupts and its faults. -/
def ctxFrame (x : Ctx) : Ctx :=
  { ctxRest x with
    cqTail := 0, cqPhase := true, cqUsed := 0, records := 0, modC := {}, eqTail := 0, eqPhase := true, eqUsed := 0, modE := {}
    eqDropped := 0, eqLost := false, faults := [] }

theorem ctxFrame_of_rest {x y : Ctx} (h : ctxRest x = ctxRest y) : ctxFrame x = ctxFrame y :=
  show ctxFrame (ctxRest x) = ctxFrame (ctxRest y) by rw [h]

/-- Records, answers and requests that end have moved a context, and nothing else has. -/
structure CtxSteady (c : Nat) (p q : Pkg) : Prop where
  frame : ctxFrame (ctxOf q c) = ctxFrame (ctxOf p c)
  rest : (ctxOf p c).st ≠ ctxActive → ctxRest (ctxOf q c) = ctxRest (ctxOf p c)

section Steady
variable {c : Nat} {p0 p q : Pkg}

theorem CtxSteady.refl (c : Nat) (p : Pkg) : CtxSteady c p p := ⟨rfl, fun _ => rfl⟩

theorem CtxSteady.st (h : CtxSteady c p q) : (ctxOf q c).st = (ctxOf p c).st := (congrArg Ctx.st h.frame :)

theorem CtxSteady.trans {r : Pkg} (h : CtxSteady c p q) (h' : CtxSteady c q r) : CtxSteady c p r :=
  ⟨h'.frame.trans h.frame, fun hst => (h'.rest (h.st ▸ hst)).trans (h.rest hst)⟩

theorem CtxSteady.of_ctxs (h : CtxSteady c p0 p) (hq : q.ctxs = p.ctxs) : CtxSteady c p0 q := by
  obtain ⟨hframe, hrest⟩ := h
  rw [← ctxOf_congr hq c] at hframe hrest
  exact ⟨hframe, hrest⟩

theorem ite_steady {b : Prop} [Decidable b] {q r : Pkg} (hq : CtxSteady c p0 q) (hr : CtxSteady c p0 r) :
    CtxSteady c p0 (if b then q else r) := by
  split
  · exact hq
  · exact hr

theorem forAll_steady {α : Type} {l : List α} {f : Pkg → α → Pkg} (h : CtxSteady c p0 p)
    (hf : ∀ q x, CtxSteady c p0 q → CtxSteady c p0 (f q x)) : CtxSteady c p0 (forAll l f p) := foldl_inv l h hf

/-- A change of what requests and bindings still move. -/
theorem modCtx_steady {n : Nat} {f : Ctx → Ctx} (h : CtxSteady c p0 p) (hf : ∀ x, ctxRest (f x) = ctxRest x) :
    CtxSteady c p0 (modCtx p n f) := by
  refine h.trans ?_
  have hrest : ctxRest (ctxOf (modCtx p n f) c) = ctxRest (ctxOf p c) := by
    rw [ctxOf_modCtx]
    split
    · next hc => rw [hf, hc]
    · rfl
  exact ⟨ctxFrame_of_rest hrest, fun _ => hrest⟩

/-- A record is written to a context that is ACTIVE. -/
theorem modCtx_written {n : Nat} {f : Ctx → Ctx} (h : CtxSteady c p0 p) (hn : (ctxOf p n).st = ctxActive)
    (hf : ∀ x, ctxFrame (f x) = ctxFrame x) : CtxSteady c p0 (modCtx p n f) := by
  refine h.trans ⟨?_, fun hst => ?_⟩ <;> rw [ctxOf_modCtx]
  · split
    · next hc => rw [hf, hc]
    · rfl
  · rw [if_neg fun hc : c = n => hst (hc ▸ hn)]

theorem active_of_writes {n : Nat} (h : writes p n = true) : (ctxOf p n).st = ctxActive := by
  simp only [writes, Bool.and_eq_true, decide_eq_true_eq] at h
  exact h.1

/-! #### Records -/

theorem pushCq_steady {n : Nat} {b : Bytes} {irq : Bool} (h : CtxSteady c p0 p) : CtxSteady c p0 (pushCq p n b irq) := by
  unfold pushCq
  split
  · next hw => exact modCtx_written (h.of_ctxs rfl) (active_of_writes (p := p) hw) fun _ => rfl
  · exact h

theorem pushEq_steady {n : Nat} {b : Bytes} (h : CtxSteady c p0 p) (hn : (ctxOf p n).st = ctxActive) : CtxSteady c p0 (pushEq p n b) :=
  ite_steady (modCtx_written (h.of_ctxs rfl) hn fun _ => rfl) (modCtx_written h hn fun _ => rfl)

theorem ctxEvent_steady {n status code seq handle a b d : Nat} (h : CtxSteady c p0 p) :
    CtxSteady c p0 (ctxEvent p n status code seq handle a b d) := by
  unfold ctxEvent
  split
  · next hw =>
    have hn := active_of_writes hw
    have hpush := (pushEq_steady (b := eventBytes status code seq handle (now p) a b d) (.refl n p) hn).st.trans hn
    exact ite_steady (modCtx_written (pushEq_steady h hn) hpush fun _ => rfl) (pushEq_steady h hn)
  · exact h

theorem logEvent_steady {n status code handle a b d : Nat} (h : CtxSteady c p0 p) :
    CtxSteady c p0 (logEvent p n status code handle a b d) :=
  ctxEvent_steady (p := (logRec p false code n a b d).1) (h.of_ctxs (by simp))

theorem giveBack_steady {n k : Nat} (h : CtxSteady c p0 p) : CtxSteady c p0 (giveBack p n k) := modCtx_steady h fun _ => rfl

/-! #### Hound cores -/

theorem ringFault_steady {n core : Nat} (h : CtxSteady c p0 p) : CtxSteady c p0 (ringFault p n core) :=
  ite_steady ((logEvent_steady (h.of_ctxs (by simp))).of_ctxs rfl) h

theorem pushReply_steady {k n : Nat} {b : Bytes} (h : CtxSteady c p0 p) : CtxSteady c p0 (pushReply p k n b) :=
  ite_steady h (ite_steady (h.of_ctxs rfl) (ringFault_steady h))

theorem pushTok_steady {n : Nat} {b : Bytes} (h : CtxSteady c p0 p) : CtxSteady c p0 (pushTok p n b) :=
  ite_steady h (ite_steady (h.of_ctxs (by simp)) (ringFault_steady h))

theorem pushEnd_steady {n : Nat} {b : Bytes} (h : CtxSteady c p0 p) : CtxSteady c p0 (pushEnd p n b) :=
  ite_steady (pushTok_steady (h.of_ctxs rfl)) h

theorem endBinding_steady {n : Nat} (h : CtxSteady c p0 p) : CtxSteady c p0 (endBinding p n) := by
  unfold endBinding
  extract_lets b ends p1 frame p2 mine p3 bind
  have h1 : CtxSteady c p0 p1 := forAll_steady h fun q k hq => (giveBack_steady (n := n) (k := ends k) hq).of_ctxs rfl
  have h3 : CtxSteady c p0 p3 := h1.of_ctxs rfl
  exact ite_steady h ((modCtx_steady (n := n) (f := fun x => { x with mailFrom := x.descNum }) h3 fun _ => rfl).of_ctxs rfl)

/-! #### Answers -/

theorem answer_steady {n : Nat} {d : Desc} {status handle : Nat} {late fell : Bool} (h : CtxSteady c p0 p) :
    CtxSteady c p0 (answer p n d status handle late fell) :=
  ite_steady (pushCq_steady (modCtx_steady h fun _ => rfl)) (ite_steady h (pushReply_steady (h.of_ctxs rfl)))

theorem answerReq_steady {e : Nat} {d : Desc} {status : Nat} (h : CtxSteady c p0 p) : CtxSteady c p0 (answerReq p e d status) :=
  answer_steady h

/-! #### Requests that end -/

theorem releasePages_steady {e : Nat} (h : CtxSteady c p0 p) : CtxSteady c p0 (releasePages p e) := by
  unfold releasePages
  extract_lets r p1 p2 p3 p4
  have h1 : CtxSteady c p0 p1 := h.of_ctxs (by simp [p1])
  have h2 : CtxSteady c p0 p2 := forAll_steady h1 fun q x hq => by
    split
    · exact hq.of_ctxs rfl
    · exact ite_steady hq (modCtx_steady hq fun _ => rfl)
    · exact hq
  exact h2.of_ctxs (by simp [p4, p3])

theorem refuseAdmit_steady {e status : Nat} (h : CtxSteady c p0 p) : CtxSteady c p0 (refuseAdmit p e status) :=
  (releasePages_steady (e := e) (answer_steady (giveBack_steady h))).of_ctxs rfl

theorem dropTokSlot_steady {e : Nat} (h : CtxSteady c p0 p) : CtxSteady c p0 (dropTokSlot p e) :=
  ite_steady (ite_steady (h.of_ctxs rfl) (giveBack_steady (h.of_ctxs rfl))) h

theorem leaveStep_steady {e : Nat} (h : CtxSteady c p0 p) : CtxSteady c p0 (leaveStep p e) :=
  CtxSteady.of_ctxs (dropTokSlot_steady (e := e) (h.of_ctxs (q := modPen p (reqOf p e).pen _) rfl)) rfl

theorem endReq_steady {e status : Nat} (h : CtxSteady c p0 p) : CtxSteady c p0 (endReq p e status) :=
  ite_steady h (ite_steady (refuseAdmit_steady h) (ite_steady h
    (CtxSteady.of_ctxs (leaveStep_steady (e := e) (h.of_ctxs (q := stopCopies p e allCopies) rfl)) rfl)))

theorem closeReq_steady {e : Nat} (h : CtxSteady c p0 p) : CtxSteady c p0 (closeReq p e) := by
  unfold closeReq
  dsimp only
  refine ite_steady h (CtxSteady.of_ctxs (releasePages_steady (e := e) (forAll_steady ?_ fun _ _ => answerReq_steady)) rfl)
  exact ite_steady (pushEnd_steady (pushCq_steady h)) (pushCq_steady h)

theorem resetReq_steady {e : Nat} (h : CtxSteady c p0 p) : CtxSteady c p0 (resetReq p e) :=
  ite_steady (h.of_ctxs rfl) (closeReq_steady (endReq_steady h))

end Steady

end Sys2Proof.Machine
end

section
/-! PROOFS. The doorbells of a context (R261, R264): the values that are ignored, and what the others move. -/

namespace Sys2Proof.Machine

/-- The effect of the doorbell at an offset of the page (R259). -/
def doorbellOp (off : Nat) : Pkg → Nat → Nat → Pkg := if off = 0 then sqDoorbell else if off = 4 then cqDoorbell else eqDoorbell

section Doorbell
variable {p : Pkg} {c off v : Nat}

theorem dbIgnored_active (hst : (ctxOf p c).st = ctxActive) : dbIgnored p c off v =
    logEvent (modCtx p c fun x => { x with dbInvalid := true }) c stLengthInvalid codeDoorbellInvalid 0 off v 0 := by
  simp [dbIgnored, hst]

theorem dbIgnored_inactive (hst : (ctxOf p c).st ≠ ctxActive) : dbIgnored p c off v = modCtx p c fun x => { x with dbInvalid := true } := by
  simp [dbIgnored, hst]

/-- A head names no records where its index is beyond the ring or the way to it is longer than what the ring holds (R261). -/
theorem consumed_eq_none {size head used i : Nat} (h : size ≤ i ∨ used < ringSpan size head i) : consumed size head used i = none := by
  unfold consumed
  dsimp only
  rcases h with hsize | hused
  · rw [if_pos hsize]
  · rw [if_neg (by omega : ¬(ringSpan size head i = 0 ∧ used = size)), if_neg (by omega : ¬ringSpan size head i ≤ used), ite_self]

/-- A head between the last one and the tail gives back the records that it passes, and on a full ring the present head gives back all. -/
theorem consumed_eq_some {size head used i : Nat} (hi : i < size) (hk : ringSpan size head i ≤ used) :
    consumed size head used i = some (if ringSpan size head i = 0 ∧ used = size then used else ringSpan size head i) := by
  unfold consumed
  dsimp only
  rw [if_neg (by omega), if_pos hk]
  split
  · next h => rw [h.2]
  · rfl

theorem consumed_le {size head used i k : Nat} (h : consumed size head used i = some k) : k ≤ used := by
  unfold consumed at h
  dsimp only at h
  split_ifs at h with hsize hfull hk
  · exact (hfull.2.trans (Option.some.inj h)).ge
  · exact Option.some.inj h ▸ hk

/-! #### Values that are ignored -/

theorem sqDoorbell_ignored (h : (ctxOf p c).st ≠ ctxActive ∨ 2 ^ (ctxOf p c).sqLog ≤ v % 2 ^ 16) : sqDoorbell p c v = dbIgnored p c 0 v :=
  if_pos h

theorem cqDoorbell_ignored (h : (ctxOf p c).st ≠ ctxActive ∨ 2 ^ (ctxOf p c).cqLog ≤ v % 2 ^ 16 ∨
    (ctxOf p c).cqUsed < ringSpan (2 ^ (ctxOf p c).cqLog) (ctxOf p c).cqHead (v % 2 ^ 16)) : cqDoorbell p c v = dbIgnored p c 4 v := by
  unfold cqDoorbell
  dsimp only
  split
  · rfl
  · next hst => rw [consumed_eq_none (h.resolve_left hst)]

theorem eqDoorbell_ignored (h : (ctxOf p c).st ≠ ctxActive ∨ 2 ^ (ctxOf p c).eqLog ≤ v % 2 ^ 16 ∨
    (ctxOf p c).eqUsed < ringSpan (2 ^ (ctxOf p c).eqLog) (ctxOf p c).eqHead (v % 2 ^ 16)) : eqDoorbell p c v = dbIgnored p c 8 v := by
  unfold eqDoorbell
  dsimp only
  split
  · rfl
  · next hst => rw [consumed_eq_none (h.resolve_left hst)]

/-! #### Values that are taken -/

/-- A read of descriptors moves the read in flight alone, and starts where nothing of a read is in hand (R264). -/
theorem ctxOf_issueDescRead (p : Pkg) (c : Nat) :
    ∃ r, ctxOf (issueDescRead p c) c = { ctxOf p c with reading := r } ∧
      ((ctxOf p c).st = ctxActive → (ctxOf p c).reading = none → (ctxOf p c).fetched = [] → p.glb.fwFault = false →
        (ctxOf p c).sqHead < 2 ^ (ctxOf p c).sqLog → 0 < ringSpan (2 ^ (ctxOf p c).sqLog) (ctxOf p c).sqHead (ctxOf p c).sqTail →
        r = some ((ctxOf p c).sqHead, min (min 32 (ringSpan (2 ^ (ctxOf p c).sqLog) (ctxOf p c).sqHead (ctxOf p c).sqTail))
          (2 ^ (ctxOf p c).sqLog - (ctxOf p c).sqHead))) := by
  unfold issueDescRead
  extract_lets x n
  split
  · exact ⟨_, by rw [ctxOf_modCtx_same]; rfl, fun _ _ _ _ _ _ => rfl⟩
  · next hno => exact ⟨_, rfl, fun hst hread hfetched hfw hhead hspan => absurd ⟨hst, hread, hfetched, by simp only [n, x]; omega, hfw⟩ hno⟩

theorem sqDoorbell_taken (hst : (ctxOf p c).st = ctxActive) (hi : v % 2 ^ 16 < 2 ^ (ctxOf p c).sqLog) :
    sqDoorbell p c v = issueDescRead (modCtx p c fun y => { y with sqTail := v % 2 ^ 16 }) c :=
  if_neg (by simp only [hst]; omega)

theorem cqDoorbell_taken {k : Nat} (hst : (ctxOf p c).st = ctxActive)
    (hk : consumed (2 ^ (ctxOf p c).cqLog) (ctxOf p c).cqHead (ctxOf p c).cqUsed (v % 2 ^ 16) = some k) :
    (ctxOf (cqDoorbell p c v) c).cqHead = v % 2 ^ 16 ∧ (ctxOf (cqDoorbell p c v) c).cqUsed = (ctxOf p c).cqUsed - k := by
  unfold cqDoorbell
  dsimp only
  rw [if_neg (not_not.mpr hst), hk]
  simp

/-- Space that returns is told of first where events were lost (R268). -/
theorem eqDoorbell_taken {k : Nat} (hst : (ctxOf p c).st = ctxActive)
    (hk : consumed (2 ^ (ctxOf p c).eqLog) (ctxOf p c).eqHead (ctxOf p c).eqUsed (v % 2 ^ 16) = some k) :
    (ctxOf (eqDoorbell p c v) c).eqHead = v % 2 ^ 16 ∧
      ((ctxOf p c).eqDropped = 0 → (ctxOf (eqDoorbell p c v) c).eqUsed = (ctxOf p c).eqUsed - k) := by
  unfold eqDoorbell
  dsimp only
  rw [if_neg (not_not.mpr hst), hk]
  dsimp only
  split
  · next hlost =>
    exact ⟨(congrArg Ctx.eqHead (logEvent_steady (.refl c _)).frame :).trans (by simp [ctxFrame, ctxRest]), fun h0 => by omega⟩
  · simp

end Doorbell

/-- Settles O34: a value that is ignored by the mark that it leaves, and one that is taken by the index and the records that it moves. -/
theorem doorbells : Obligations.Doorbells := by
  intro s fn c off cmd v hreach hcmd x i log2 head used marked_
  have hexec : exec cmd s = act (latest cmd s) (fun p => doorbellOp off p c v.toNat) s ∧ (off = 0 ∨ off = 4 ∨ off = 8) := by
    simp only [List.mem_cons, Prod.mk.injEq, List.not_mem_nil, or_false] at hcmd
    rcases hcmd with ⟨rfl, rfl⟩ | ⟨rfl, rfl⟩ | ⟨rfl, rfl⟩
    · simp [execDbSqTail, hreach, doorbellOp]
    · simp [execDbCqHead, hreach, doorbellOp]
    · simp [execDbEqHead, hreach, doorbellOp]
  obtain ⟨hexec, hoff⟩ := hexec
  refine ⟨fun hlate => by rw [Idles, hexec, hlate, act_false], fun hlate => ?_⟩
  have hignored (hbad : x.st ≠ ctxActive ∨ 2 ^ log2 ≤ i ∨ (off ≠ 0 ∧ used < ringSpan (2 ^ log2) head i)) :
      exec cmd s = .next { s with pkg := dbIgnored s.pkg c off v.toNat } := by
    rw [hexec, act_next hlate]
    rcases hoff with rfl | rfl | rfl
    · simp only [doorbellOp, if_true]
      rw [sqDoorbell_ignored (hbad.imp_right fun h => h.resolve_right fun h0 => h0.1 rfl)]
    · simp only [doorbellOp, OfNat.ofNat_ne_zero, if_false, if_true]
      rw [cqDoorbell_ignored (hbad.imp_right fun h => h.imp_right And.right)]
    · simp only [doorbellOp, OfNat.ofNat_ne_zero, if_false]
      rw [if_neg (by decide), eqDoorbell_ignored (hbad.imp_right fun h => h.imp_right And.right)]
  refine ⟨fun hst => ?_, fun hst hbad => ?_, fun hst h0 hi => ?sqTail, fun hst h4 hi hk => ?cqHead, fun hst h8 hi hk => ?eqHead⟩
  · rw [hignored (.inl hst), dbIgnored_inactive hst]
  · rw [hignored (.inr hbad), dbIgnored_active hst]
  case sqTail =>
    subst h0
    refine does_of_act hexec hlate ?_
    simp only [doorbellOp, if_true]
    rw [sqDoorbell_taken hst hi]
    obtain ⟨r, hr, hread⟩ := ctxOf_issueDescRead (modCtx s.pkg c fun y => { y with sqTail := v.toNat % 2 ^ 16 }) c
    rw [hr]
    simp only [ctxOf_modCtx_same] at hread ⊢
    exact ⟨rfl, rfl, hread hst⟩
  case cqHead =>
    subst h4
    have hgiven := consumed_eq_some hi hk
    obtain ⟨hhead, hused⟩ := cqDoorbell_taken hst hgiven
    exact does_of_act hexec hlate ⟨hhead, (congrArg (· + _) hused).trans (Nat.sub_add_cancel (consumed_le hgiven))⟩
  case eqHead =>
    subst h8
    have hgiven := consumed_eq_some hi hk
    obtain ⟨hhead, hused⟩ := eqDoorbell_taken hst hgiven
    exact does_of_act hexec hlate
      ⟨hhead, fun hdropped => (congrArg (· + _) (hused hdropped)).trans (Nat.sub_add_cancel (consumed_le hgiven))⟩

end Sys2Proof.Machine
end

section
/-! PROOFS. ENABLE and the reset of a context (R257, R258, R280): a write of CTX_CTRL by what it assigns and by what its ENABLE bit does, and
a reset from its first step to its end. -/

namespace Sys2Proof.Machine

/-! #### The register block of a context -/

section Block
variable {p : Pkg} {fn c off size v : Nat}

theorem reaches_congr {q : Pkg} (hc : q.ctxs = p.ctxs) (hv : q.numVfs = p.numVfs) (fn c : Nat) : reaches q fn c = reaches p fn c := by
  unfold reaches
  rw [ctxOf_congr hc, hv]

theorem reaches_pf (p : Pkg) (hc : c < 256) : reaches p 0 c = true := by simp [reaches, hc]

/-- A write by a function that reaches the context, in a package that is READY. -/
theorem ctxWrite_ready (hready : p.glb.ready = true) (hreach : reaches p fn c = true) :
    ctxWrite p fn c off size v = ctxRegWrite (dropHeld p fn (ctxOff c off)) fn c off size v := by
  simp [ctxWrite, regWrite, hready, reaches_congr (p := p) (q := dropHeld p fn (ctxOff c off)) (by simp) (by simp), hreach]

/-- A lower half that is discarded leaves the marks of resets as they are. -/
theorem dropHeld_warmAt (p : Pkg) (fn off : Nat) : (dropHeld p fn off).glb.warmAt = p.glb.warmAt := by
  unfold dropHeld
  split
  · split <;> rfl
  · rfl

theorem noteNotAllowed_warmAt (p : Pkg) (fn off size : Nat) : (noteNotAllowed p fn off size).glb.warmAt = p.glb.warmAt := by
  unfold noteNotAllowed
  split
  · rfl
  · simp

/-- A write of CTX_CTRL by the physical function to a DISABLED context assigns it to the pen and the function of the value (R257). -/
theorem ctxCtrlWrite_disabled (hst : (ctxOf p c).st = ctxDisabled) :
    ∃ q, ctxCtrlWrite p 0 c v = ctxEnableBit q c (bitOf v 0) ∧ q.pens = p.pens ∧ q.numVfs = p.numVfs ∧
      ctxOf q c = { ctxOf p c with pen := bitsOf v 11 8, fn := bitsOf v 21 16 } ∧ ∀ k, k ≠ c → ctxOf q k = ctxOf p k := by
  unfold ctxCtrlWrite
  extract_lets x pen f same q
  refine ⟨q, rfl, ?_⟩
  simp only [q]
  split
  · next hsame =>
    obtain ⟨hpen, hfn⟩ := of_decide_eq_true hsame
    exact ⟨rfl, rfl, show ctxOf p c = { ctxOf p c with pen := pen, fn := f } by rw [← hpen, ← hfn], fun _ _ => rfl⟩
  · rw [if_pos ⟨trivial, hst⟩]
    exact ⟨rfl, rfl, ctxOf_modCtx_same _ _ _, fun k hk => by rw [ctxOf_modCtx, if_neg hk]⟩

/-- A write of CTX_CTRL at other times assigns nothing (R257). -/
theorem ctxCtrlWrite_enabled (hst : (ctxOf p c).st ≠ ctxDisabled) :
    ∃ q, ctxCtrlWrite p fn c v = ctxEnableBit q c (bitOf v 0) ∧ q.ctxs = p.ctxs ∧ q.pens = p.pens ∧ q.tick = p.tick ∧
      q.glb.warmAt = p.glb.warmAt := by
  unfold ctxCtrlWrite
  extract_lets x pen f same q
  refine ⟨q, rfl, ?_⟩
  simp only [q]
  split
  · exact ⟨rfl, rfl, rfl, rfl⟩
  · rw [if_neg fun h => hst h.2]
    exact ⟨by simp, by simp, by simp, noteNotAllowed_warmAt p fn _ _⟩

end Block

/-! #### ENABLE is set -/

section Enable
variable {p : Pkg} {c : Nat}

theorem ctxEnableBit_set (hst : (ctxOf p c).st = ctxDisabled) : ctxEnableBit p c true = enableCtx p c := by
  simp [ctxEnableBit, hst]

/-- A check that fails leaves its status alone (R258). -/
theorem enableCtx_refused {st : Nat} (h : enableBar p c = some st) : ctxOf (enableCtx p c) c = { ctxOf p c with enableErr := st } := by
  simp [enableCtx, h]

theorem enableCtx_taken (h : enableBar p c = none) : ctxOf (enableCtx p c) c =
    { ctxOf p c with
      enable := true, enableErr := stOk, st := ctxActive, resident := true
      sqHead := 0, sqTail := 0, cqHead := 0, cqTail := 0, cqPhase := true, eqHead := 0, eqTail := 0, eqPhase := true
      cqUsed := 0, eqUsed := 0, reserved := 0, sampling := [] } := by
  simp [enableCtx, h]

theorem enableCtx_others (p : Pkg) {c k : Nat} (hk : k ≠ c) : ctxOf (enableCtx p c) k = ctxOf p k := by
  unfold enableCtx
  split <;> rw [ctxOf_modCtx, if_neg hk]

theorem ctxOf_enableCtx_pen_fn (p : Pkg) (c : Nat) :
    (ctxOf (enableCtx p c) c).pen = (ctxOf p c).pen ∧ (ctxOf (enableCtx p c) c).fn = (ctxOf p c).fn := by
  unfold enableCtx
  split <;> simp

end Enable

/-! #### A reset is sampled -/

/-- A context as its reset leaves it at once (R280, steps 1 to 5). -/
def ctxUnderReset (x : Ctx) : Ctx :=
  { x with
    st := ctxResetting, reading := none, fetched := [], live := [], rollBusy := false, fencePending := false
    cqStall := false, faults := [], sampling := [], gen := genNext x.gen
    sqHead := 0, sqTail := 0, cqHead := 0, cqTail := 0, cqPhase := true, eqHead := 0, eqTail := 0, eqPhase := true
    cqUsed := 0, eqUsed := 0, reserved := 0, modC := {}, modE := {}, faultStatus := 0, faultCode := 0
    eqDropped := 0, eqLost := false, dbInvalid := false }

section Reset
variable {p q : Pkg} {c : Nat}

theorem largerReset_congr (ht : q.tick = p.tick) (hw : q.glb.warmAt = p.glb.warmAt) : largerReset q = largerReset p := by
  unfold largerReset now
  rw [ht, hw]

theorem penReset_congr (ht : q.tick = p.tick) (hp : q.pens = p.pens) (n : Nat) : penReset q n = penReset p n := by
  unfold penReset now
  rw [ht, penOf_congr hp]

/-- The end of its requests, imprints and binding moves of a context under reset what `ctxRest` leaves out alone. -/
theorem ctxResetOp_rest (hst : (ctxOf p c).st ≠ ctxResetting) (hlarger : largerReset p = false)
    (hpen : (ctxOf p c).st = ctxActive → penReset p (ctxOf p c).pen = false) :
    ctxRest (ctxOf (ctxResetOp p c) c) = ctxRest (ctxUnderReset (ctxOf p c)) := by
  unfold ctxResetOp
  rw [if_neg (by simpa [hst, hlarger] using hpen)]
  extract_lets p1 p2 p3 lsh p4
  have h1 : ctxOf p1 c = ctxUnderReset (ctxOf p c) := ctxOf_modCtx_same _ _ _
  have h2 : CtxSteady c p1 p2 := forAll_steady (.refl c p1) fun _ _ => resetReq_steady
  have h4 : CtxSteady c p1 (endBinding p4 c) := endBinding_steady (h2.of_ctxs (by simp [p4, p3]))
  rw [h4.rest (h1 ▸ (by decide : ctxResetting ≠ ctxActive)), h1]

/-- Clearing ENABLE is a reset. -/
theorem ctxEnableBit_clear (hen : (ctxOf p c).enable = true) :
    ctxEnableBit p c false = ctxResetOp (modCtx p c fun y => { y with enable := false }) c := by
  simp [ctxEnableBit, hen]

theorem exists_of_ctxRest {x y : Ctx} (h : ctxRest x = ctxRest y) :
    ∃ live mailFrom reserved hostMap, x = { y with live := live, mailFrom := mailFrom, reserved := reserved, hostMap := hostMap } :=
  ⟨x.live, x.mailFrom, x.reserved, x.hostMap,
    show { ctxRest x with live := x.live, mailFrom := x.mailFrom, reserved := x.reserved, hostMap := x.hostMap } = _ by rw [h]; rfl⟩

/-- What the reset leaves of the context, read field by field. -/
theorem resetSampled_of_rest {b : Bool} (h : ctxRest (ctxOf q c) = ctxRest (ctxUnderReset { ctxOf p c with enable := b })) :
    (ctxOf q c).enable = b ∧ (ctxOf q c).fn = (ctxOf p c).fn ∧ resetSampled p q c := by
  obtain ⟨live, mailFrom, reserved, hostMap, hq⟩ := exists_of_ctxRest h
  simp [resetSampled, hq, ctxUnderReset]

end Reset

/-! #### A reset ends -/

section Done
variable {p : Pkg} {c : Nat}

/-- The state in which a reset leaves a context (R258, R277, R280). -/
theorem resetDone_ctx (failed : Option Nat) (hst : (ctxOf p c).st = ctxResetting) :
    (ctxOf (resetDone p c failed) c).enable = (ctxOf p c).enable ∧
      ((ctxOf p c).enable = false → (ctxOf (resetDone p c failed) c).st = ctxDisabled) ∧
      ((ctxOf p c).enable = true → failed = none → (ctxOf (resetDone p c failed) c).st = ctxActive) ∧
      ((ctxOf p c).enable = true → failed.isSome = true → (ctxOf (resetDone p c failed) c).st = ctxFaulted ∧
        (ctxOf (resetDone p c failed) c).faultStatus = stPermission ∧ (ctxOf (resetDone p c failed) c).faultCode = codeRingWriteFailed) := by
  unfold resetDone
  extract_lets p1 x p2 p3
  have h1 : CtxSteady c p p1 := forAll_steady (.refl c p) fun _ _ => closeReq_steady
  have hen : x.enable = (ctxOf p c).enable := (congrArg Ctx.enable h1.frame :)
  have hst1 : x.st = ctxResetting := h1.st.trans hst
  have hlog (q : Pkg) (code source a b d : Nat) : ctxOf (log q code source a b d) c = ctxOf q c := ctxOf_congr (by simp) c
  split
  · next hon =>
    have h3 : ctxOf p3 c = x := rfl
    split
    · next ring =>
      have hfault : ctxOf (hostError p3 c codeRingWriteFailed ring 0 0) c =
          { ctxOf p3 c with st := ctxFaulted, faultStatus := stPermission, faultCode := codeRingWriteFailed, reading := none, fetched := [] } := by
        rw [hostError, if_pos (.inr (h3 ▸ hst1)), hlog, faultCtx]
        dsimp only
        rw [ctxOf_modCtx_same, ctxOf_congr (p := p3) (by simp)]
      rw [hfault, h3]
      exact ⟨hen, fun hoff => absurd (hen.trans hoff) (by simp [hon]), fun _ h => absurd h (by simp), fun _ _ => ⟨rfl, rfl, rfl⟩⟩
    · rw [hlog, ctxOf_modCtx_same, h3]
      exact ⟨hen, fun hoff => absurd (hen.trans hoff) (by simp [hon]), fun _ _ => rfl, fun _ h => absurd h (by simp)⟩
  · next hoff =>
    rw [hlog, ctxOf_modCtx_same]
    exact ⟨hen, fun _ => rfl, fun hon => absurd (hen.trans hon) hoff, fun hon => absurd (hen.trans hon) hoff⟩

end Done

/-! #### The claim -/

theorem ctxOf_dropHeld_foreseen (s : State) (fn off c : Nat) : ctxOf (dropHeld (foreseen s) fn off) c = ctxOf s.pkg c := ctxOf_congr (by simp) c

theorem ctxOf_overridden (s : State) (f : Pkg → Pkg) (c : Nat) : ctxOf (overridden s f) c = ctxOf (f (foreseen s)) c := ctxOf_congr (by simp) c

/-- Settles O32: a write of CTX_CTRL by the assignment before its ENABLE bit, a reset by the context that it leaves, and its end by its two
outcomes. -/
theorem contextEnableAndReset : Obligations.ContextEnableAndReset := by
  refine ⟨fun s c v hrun hc hv hst hen hlate => ?set, fun s c v hrun hc hv hst hen hmay hlate => ?clear,
    fun s fn c hrun hreach hvfs hst hmay => ?command, fun s c failed hst hout => ?done⟩
  case set =>
    obtain ⟨-, hready, -⟩ := hrun
    refine does_of_act (exec_ctxEnable 0 c v s) (by simp [hv, hlate]) ?_
    have hdropped : ctxOf (dropHeld s.pkg 0 (ctxOff c 0)) = ctxOf s.pkg := funext (ctxOf_congr (by simp))
    obtain ⟨q, hq, hpens, hvfs, hctx, hothers⟩ := ctxCtrlWrite_disabled (v := v.toNat)
      ((congrFun hdropped c ▸ hst : (ctxOf (dropHeld s.pkg 0 (ctxOff c 0)) c).st = ctxDisabled))
    rw [hdropped] at hctx hothers
    have hbit : bitOf v.toNat 0 = true := by simpa [bitOf] using hv
    have hwrite : ctxWrite s.pkg 0 c 0 4 v.toNat = enableCtx q c := by
      rw [ctxWrite_ready hready (reaches_pf s.pkg hc), ctxRegWrite, hq, hbit, ctxEnableBit_set (by rw [hctx]; exact hst)]
    have hpen (n : Nat) : penOf q n = penOf s.pkg n := penOf_congr (hpens.trans (by simp)) n
    have hnum : q.numVfs = s.pkg.numVfs := hvfs.trans (by simp)
    obtain ⟨hpenSame, hfnSame⟩ := ctxOf_enableCtx_pen_fn q c
    intro x pen f bad
    have hx : (ctxOf q c).pen = pen ∧ (ctxOf q c).fn = f ∧ (ctxOf q c).sqBase = x.sqBase ∧ (ctxOf q c).cqBase = x.cqBase ∧
        (ctxOf q c).eqBase = x.eqBase ∧ (ctxOf q c).enable = false ∧ (ctxOf q c).st = ctxDisabled := by
      rw [hctx]
      exact ⟨rfl, rfl, rfl, rfl, rfl, hen, hst⟩
    obtain ⟨hpn, hfn, hsqBase, hcqBase, heqBase, hoff, hdis⟩ := hx
    have hrefused {st : Nat} (hbar : enableBar q c = some st) : (ctxOf (enableCtx q c) c).enable = false ∧
        (ctxOf (enableCtx q c) c).st = ctxDisabled ∧ (ctxOf (enableCtx q c) c).enableErr = st := by
      rw [enableCtx_refused hbar]
      exact ⟨hoff, hdis, rfl⟩
    rw [hwrite]
    refine ⟨hpenSame.trans hpn, hfnSame.trans hfn, fun hpen0 => hrefused ?_, fun hpen1 hbeyond => hrefused ?_,
      fun hpen1 hin hbad => hrefused ?_, fun hpen1 hin hsq hcq heq => ?_, fun k hk => (enableCtx_others q hk).trans (hothers k hk)⟩
    · simp [enableBar, hpn, hpen, hpen0]
    · simp [enableBar, hpn, hpen, hpen1, hnum, hfn, hbeyond]
    · have hchecks : enableBar q c = if bad x.sqBase ∨ bad x.cqBase ∨ bad x.eqBase then some stAlignmentInvalid else none := by
        simp [enableBar, hpn, hpen, hpen1, hnum, hfn, not_lt.mpr hin, hsqBase, hcqBase, heqBase, bad, or_assoc]
      rw [hchecks, if_pos hbad]
    · have hbar : enableBar q c = none := by
        simp only [bad] at hsq hcq heq
        simp [enableBar, hpn, hpen, hpen1, hnum, hfn, not_lt.mpr hin, hsqBase, hcqBase, heqBase, hsq, hcq, heq]
      rw [enableCtx_taken hbar]
      exact ⟨rfl, rfl, rfl, rfl, rfl, rfl, rfl, rfl, rfl, rfl, rfl⟩
  case clear =>
    obtain ⟨-, hready, -⟩ := hrun
    obtain ⟨hlarger, hpenReset⟩ := hmay
    have hst0 : (ctxOf s.pkg c).st ≠ ctxDisabled ∧ (ctxOf s.pkg c).st ≠ ctxResetting := by
      rcases hst with h | h <;> rw [h] <;> decide
    refine does_of_act (exec_ctxDisable 0 c v s) (by simp [hv, hlate]) ?_
    have hp0 := ctxOf_dropHeld_foreseen s 0 (ctxOff c 0) c
    obtain ⟨q, hq, hctxs, hpens, htick, hwarm⟩ := ctxCtrlWrite_enabled (p := dropHeld (foreseen s) 0 (ctxOff c 0)) (fn := 0) (v := v.toNat)
      (by rw [hp0]; exact hst0.1)
    have hctx : ctxOf q c = ctxOf s.pkg c := (ctxOf_congr hctxs c).trans hp0
    have hbit : bitOf v.toNat 0 = false := by simpa [bitOf] using hv
    have hwrite : ctxWrite (foreseen s) 0 c 0 4 v.toNat = ctxResetOp (modCtx q c fun y => { y with enable := false }) c := by
      rw [ctxWrite_ready (by simpa using hready) (reaches_pf _ hc), ctxRegWrite, hq, hbit, ctxEnableBit_clear (by rw [hctx]; exact hen)]
    have hmark : q.tick = (foreseen s).tick ∧ q.pens = (foreseen s).pens ∧ q.glb.warmAt = (foreseen s).glb.warmAt :=
      ⟨htick.trans (by simp), hpens.trans (by simp), hwarm.trans (dropHeld_warmAt _ _ _)⟩
    have hrest := ctxResetOp_rest (p := modCtx q c fun y => { y with enable := false }) (c := c) (by simpa [hctx] using hst0.2)
      ((largerReset_congr (q := modCtx q c fun y => { y with enable := false }) hmark.1 hmark.2.2).trans hlarger) fun hact => by
        rw [ctxOf_modCtx_same, hctx] at hact ⊢
        exact (penReset_congr (q := modCtx q c fun y => { y with enable := false }) hmark.1 hmark.2.1 _).trans (hpenReset hact)
    rw [ctxOf_modCtx_same, hctx, ← hwrite] at hrest
    exact resetSampled_of_rest ((congrArg ctxRest (ctxOf_overridden s _ c)).trans hrest)
  case command =>
    obtain ⟨-, hready, -⟩ := hrun
    obtain ⟨hlarger, hpenReset⟩ := hmay
    refine does_of_act (exec_ctxCmdReset fn c s) rfl ?_
    have hp0 := ctxOf_dropHeld_foreseen s fn (ctxOff c 8) c
    have hwrite : ctxWrite (foreseen s) fn c 8 4 1 = ctxResetOp (dropHeld (foreseen s) fn (ctxOff c 8)) c :=
      ctxWrite_ready (by simpa using hready) ((reaches_congr (by simp) (by simp) fn c).trans hreach)
    have hrest := ctxResetOp_rest (p := dropHeld (foreseen s) fn (ctxOff c 8)) (c := c) (by rw [hp0]; exact hst)
      ((largerReset_congr (p := foreseen s) (by simp) (dropHeld_warmAt _ _ _)).trans hlarger) fun hact => by
        rw [hp0] at hact ⊢
        exact (penReset_congr (p := foreseen s) (by simp) (by simp) _).trans (hpenReset hact)
    rw [hp0, ← hwrite] at hrest
    exact resetSampled_of_rest ((congrArg ctxRest (ctxOf_overridden s _ c)).trans hrest)
  case done =>
    refine does_of_act (exec_contextResetDone c failed s) ?_ (resetDone_ctx failed hst)
    simpa [hst, outOfSteps] using hout

end Sys2Proof.Machine
end

section
/-! PROOFS. The evaluation of a descriptor (R265, R271): what the answers around it leave of the package, and the checks of its fields. -/

namespace Sys2Proof.Machine

/-! #### What answers leave -/

/-- Nothing has moved but what the answers of descriptors move: rings and descriptors, replies of Hound cores, the log and what is sent. A
binding may have faulted; none has begun or ended. -/
structure Answered (p q : Pkg) : Prop where
  reqs : q.reqs = p.reqs
  lastGen : q.lastGen = p.lastGen
  rq : q.rq = p.rq
  pens : q.pens = p.pens
  lsh : q.lsh = p.lsh
  tick : q.tick = p.tick
  ctx : ∀ c, CtxSteady c p q
  bound : ∀ c, (bindOf q c).st = 0 ↔ (bindOf p c).st = 0
  out : ∀ o ∈ p.out, o ∈ q.out

section Answers
variable {p q r : Pkg}

theorem Answered.refl (p : Pkg) : Answered p p := ⟨rfl, rfl, rfl, rfl, rfl, rfl, fun c => .refl c p, fun _ => .rfl, fun _ h => h⟩

theorem Answered.trans (h : Answered p q) (h' : Answered q r) : Answered p r :=
  ⟨h'.reqs.trans h.reqs, h'.lastGen.trans h.lastGen, h'.rq.trans h.rq, h'.pens.trans h.pens, h'.lsh.trans h.lsh, h'.tick.trans h.tick,
    fun c => (h.ctx c).trans (h'.ctx c), fun c => (h'.bound c).trans (h.bound c), fun o ho => h'.out o (h.out o ho)⟩

theorem Answered.reqOf (h : Answered p q) (e : Nat) : Machine.reqOf q e = Machine.reqOf p e := reqOf_congr h.reqs e

theorem Answered.penOf (h : Answered p q) (n : Nat) : Machine.penOf q n = Machine.penOf p n := penOf_congr h.pens n

theorem Answered.poolOf (h : Answered p q) (n : Nat) : Machine.poolOf q n = Machine.poolOf p n := congrArg Pen.pool (h.penOf n)

theorem Answered.now (h : Answered p q) : Machine.now q = Machine.now p := congrArg TickS.count h.tick

/-! #### What has been sent stays sent -/

theorem mem_pushCq_out {o : Out} {c : Nat} {b : Bytes} {irq : Bool} (h : o ∈ p.out) : o ∈ (pushCq p c b irq).out := by
  unfold pushCq
  split
  · exact List.mem_append_left _ h
  · exact h

theorem mem_pushEq_out {o : Out} {c : Nat} {b : Bytes} (h : o ∈ p.out) : o ∈ (pushEq p c b).out := by
  unfold pushEq
  dsimp only
  split
  · exact List.mem_append_left _ h
  · exact h

theorem mem_logEvent_out {o : Out} {c status code handle a b d : Nat} (h : o ∈ p.out) : o ∈ (logEvent p c status code handle a b d).out := by
  have hlog : o ∈ (logRec p false code c a b d).1.out := mem_logRec_out _ _ _ _ _ _ h
  have hevent (q : Pkg) (seq : Nat) (hq : o ∈ q.out) : o ∈ (ctxEvent q c status code seq handle a b d).out := by
    unfold ctxEvent
    dsimp only
    split
    · split <;> exact mem_pushEq_out hq
    · exact hq
  exact hevent _ _ hlog

theorem mem_ringFault_out {o : Out} {c core : Nat} (h : o ∈ p.out) : o ∈ (ringFault p c core).out := by
  unfold ringFault
  split
  · exact mem_logEvent_out (by simpa using h)
  · exact h

theorem mem_pushReply_out {o : Out} {k c : Nat} {b : Bytes} (h : o ∈ p.out) : o ∈ (pushReply p k c b).out := by
  unfold pushReply
  dsimp only
  split
  · exact h
  · split
    · exact h
    · exact mem_ringFault_out h

theorem mem_answer_out {o : Out} {c : Nat} {d : Desc} {status handle : Nat} {late fell : Bool} (h : o ∈ p.out) :
    o ∈ (answer p c d status handle late fell).out := by
  unfold answer
  dsimp only
  split
  · exact mem_pushCq_out h
  · split
    · exact h
    · exact mem_pushReply_out h

/-! #### Bindings -/

/-- A change of a binding that is there, or of one that is not, leaves it so. -/
theorem modBind_bound {n c : Nat} {f : HBind → HBind} (hf : (f (bindOf p n)).st = 0 ↔ (bindOf p n).st = 0) :
    (bindOf (modBind p n f) c).st = 0 ↔ (bindOf p c).st = 0 := by
  rw [bindOf_modBind]
  split
  · next hc => rw [hf, hc]
  · exact .rfl

/-- A ring beyond program memory makes a RUNNING binding FAULTED. -/
theorem ringFault_bound (c n core : Nat) : (bindOf (ringFault p n core) c).st = 0 ↔ (bindOf p c).st = 0 := by
  unfold ringFault
  split
  · next hrun =>
    unfold nextFree faultBind
    extract_lets w p1 p2
    have h1 (k : Nat) : bindOf p1 k = bindOf p k := forAll_keep (fun q => bindOf q k) _ _ _ fun _ _ => rfl
    have h2 : (bindOf p2 c).st = 0 ↔ (bindOf p1 c).st = 0 := modBind_bound (by simp [h1, hrun])
    rw [← h1, ← h2, ← bindOf_congr (p := p2) (q := logEvent p2 n stInternalFault codeHoundFault 0 n w _) (by simp)]
    exact .rfl
  · exact .rfl

theorem pushReply_bound (c k n : Nat) (b : Bytes) : (bindOf (pushReply p k n b) c).st = 0 ↔ (bindOf p c).st = 0 := by
  unfold pushReply
  dsimp only
  split
  · exact .rfl
  · split
    · exact modBind_bound (f := fun x => { x with mem := _ }) .rfl
    · exact ringFault_bound c n k

theorem answer_bound (c n : Nat) (d : Desc) (status handle : Nat) (late fell : Bool) :
    (bindOf (answer p n d status handle late fell) c).st = 0 ↔ (bindOf p c).st = 0 := by
  unfold answer
  dsimp only
  split
  · rw [bindOf_congr (p := p) (by simp)]
  · split
    · exact .rfl
    · exact pushReply_bound _ _ _ _

/-! #### Answers -/

theorem log_answered (code source a b d : Nat) : Answered p (log p code source a b d) :=
  ⟨by simp, by simp, by simp, by simp, by simp, by simp, fun c => (CtxSteady.refl c p).of_ctxs (by simp),
    fun c => by rw [bindOf_congr (p := p) (by simp)], fun _ => mem_log_out _ _ _ _ _⟩

theorem answer_answered (c : Nat) (d : Desc) (status handle : Nat) (late fell : Bool) :
    Answered p (answer p c d status handle late fell) :=
  ⟨by simp, by simp, by simp, by simp, by simp, by simp, fun n => answer_steady (.refl n p), fun n => answer_bound n c d status handle late fell,
    fun _ => mem_answer_out⟩

theorem answerOdd_answered (c : Nat) (d : Desc) : Answered p (answerOdd p c d) := by
  unfold answerOdd
  split
  · exact answer_answered _ _ _ _ _ _
  · split
    · exact (log_answered _ _ _ _ _).trans (answer_answered _ _ _ _ _ _)
    · exact answer_answered _ _ _ _ _ _

theorem flushOdd_answered (src : Src) (fuel : Nat) : Answered p (flushOdd p src fuel) := by
  induction fuel generalizing p with
  | zero => exact .refl p
  | succ k ih =>
    unfold flushOdd
    split
    · split
      · exact (answerOdd_answered _ _).trans ih
      · exact .refl p
    · exact .refl p

end Answers

/-- The meaning of the descriptor that is due runs between the answers of descriptors of no command's type (R265). -/
theorem does_of_due {cmd : Instr} {s : State} {src : Src} {type : Nat} {d : Desc} {f : Pkg → Nat → Desc → Pkg} {post : Pkg → Prop}
    (hcmd : exec cmd s = act true (fun p => evalDesc p src type f) s) (hd : due s.pkg src type = some d)
    (hpost : ∀ p q, Answered s.pkg p → Answered (f p (srcCtx s.pkg src) d) q → post q) : Does cmd s post := by
  refine does_of_act hcmd rfl ?_
  simp only [evalDesc, hd]
  split
  · exact hpost _ _ (.refl _) (.refl _)
  · exact hpost _ _ (flushOdd_answered _ _) (flushOdd_answered _ _)

/-! #### Checks of fields -/

/-- Every check of a list passes. -/
theorem firstFail_eq_none {l : List (Option Nat)} : firstFail l = none ↔ ∀ x ∈ l, x = none := List.findSome?_eq_none_iff

theorem firstFail_append_eq_none {l m : List (Option Nat)} : firstFail (l ++ m) = none ↔ firstFail l = none ∧ firstFail m = none := by
  simp [firstFail_eq_none, or_imp, forall_and]

theorem firstFail_cons_eq_none {x : Option Nat} {l : List (Option Nat)} : firstFail (x :: l) = none ↔ x = none ∧ firstFail l = none := by
  simp [firstFail_eq_none]

@[simp] theorem firstFail_nil : firstFail [] = none := rfl

/-- A check that fails gives the list a failure. -/
theorem exists_firstFail {x : Option Nat} {l : List (Option Nat)} (hx : x ∈ l) (hfail : x ≠ none) : ∃ st, firstFail l = some st :=
  Option.ne_none_iff_exists'.mp fun h => hfail (firstFail_eq_none.mp h x hx)

theorem need_eq_none {ok : Bool} {status : Nat} : need ok status = none ↔ ok = true := by cases ok <;> simp [need]

/-! #### Descriptors that are evaluated -/

/-- A descriptor whose evaluation begins stands on among those not answered. -/
theorem beginDesc_rest (p : Pkg) (n : Nat) (d : Desc) (f : Desc → Desc) (c : Nat) :
    ctxRest (ctxOf (beginDesc p n d f) c) = ctxRest (ctxOf p c) := by
  unfold beginDesc
  dsimp only
  split
  · rw [ctxOf_modCtx]
    split
    · next hc => rw [hc]; rfl
    · rfl
  · rfl

end Sys2Proof.Machine
end

section
/-! PROOFS. FENCE, ROLLCALL, SET_SAMPLING and HINT (R266, R272, R281, R404): what each leaves of its context or of the hints. -/

namespace Sys2Proof.Machine

/-! #### Answers of a ring -/

section Ring
variable {p : Pkg} {c : Nat} {d : Desc}

theorem modCtx_writes {f : Ctx → Ctx} (hw : writes p c = true) (hf : ∀ x, (f x).st = x.st) : writes (modCtx p c f) c = true := by
  rw [← hw, writes, ctxOf_modCtx_same, hf]
  rfl

theorem pushCq_written (hw : writes p c = true) (b : Bytes) (irq : Bool) :
    (ctxOf (pushCq p c b irq) c).live = (ctxOf p c).live ∧ (ctxOf (pushCq p c b irq) c).records = inc64 (ctxOf p c).records := by
  rw [pushCq, if_pos hw]
  dsimp only
  rw [ctxOf_modCtx_same]
  exact ⟨rfl, rfl⟩

/-- The DESC record of a descriptor of a ring takes it from those not answered and counts (R273). -/
theorem answer_ring (hcore : d.core = 0) (hw : writes p c = true) (status handle : Nat) (late fell : Bool) :
    (ctxOf (answer p c d status handle late fell) c).live = (ctxOf p c).live.filter (fun y => !sameDesc y d) ∧
      (ctxOf (answer p c d status handle late fell) c).records = inc64 (ctxOf p c).records := by
  unfold answer
  extract_lets b p1
  have h1 : ctxOf p1 c = { ctxOf p c with live := (ctxOf p c).live.filter fun y => !sameDesc y d } := ctxOf_modCtx_same _ _ _
  have hw1 : writes p1 c = true := modCtx_writes hw fun _ => rfl
  obtain ⟨hlive, hrecords⟩ := pushCq_written hw1 b d.irq
  rw [if_pos hcore, hlive, hrecords, h1]
  exact ⟨rfl, rfl⟩

theorem pushCq_faults (p : Pkg) (n : Nat) (b : Bytes) (irq : Bool) (c : Nat) : (ctxOf (pushCq p n b irq) c).faults = (ctxOf p c).faults := by
  unfold pushCq
  split
  · dsimp only
    rw [ctxOf_modCtx]
    split
    · next hc => rw [hc]; rfl
    · rfl
  · rfl

theorem answer_ring_faults (hcore : d.core = 0) (n status handle : Nat) (late fell : Bool) (c : Nat) :
    (ctxOf (answer p n d status handle late fell) c).faults = (ctxOf p c).faults := by
  unfold answer
  dsimp only
  rw [if_pos hcore, pushCq_faults, ctxOf_modCtx]
  split
  · next hc => rw [hc]
  · rfl

theorem answerOdd_ring_faults (hcore : d.core = 0) (n c : Nat) : (ctxOf (answerOdd p n d) c).faults = (ctxOf p c).faults := by
  unfold answerOdd
  rw [if_neg (not_not.mpr hcore)]
  split
  · rw [imprintRefuse, answer_ring_faults hcore, ctxOf_congr (p := p) (by simp)]
  · exact answer_ring_faults hcore _ _ _ _ _ _

theorem mem_of_nextDesc {l : List Desc} (h : nextDesc l = some d) : d ∈ l := by
  unfold nextDesc at h
  split at h
  · next hfind => exact Option.some.inj h ▸ List.mem_of_find?_eq_some hfind
  · exact List.mem_of_find?_eq_some h

/-- The answers of a ring are no faults of a context. -/
theorem flushOdd_ring_faults (p : Pkg) (n fuel c : Nat) : (ctxOf (flushOdd p (.ring n) fuel) c).faults = (ctxOf p c).faults := by
  induction fuel generalizing p with
  | zero => rfl
  | succ k ih =>
    unfold flushOdd
    split
    · next d hd =>
      have hcore : d.core = 0 := of_decide_eq_true (List.mem_filter.mp (mem_of_nextDesc hd)).2
      split
      · rw [ih, answerOdd_ring_faults hcore]
      · rfl
    · rfl

end Ring

/-! #### FENCE (R266) -/

section Fence
variable {p : Pkg} {c : Nat} {d : Desc}

theorem fenceOp_taken (h : firstFail (fenceFields d.raw) = none) :
    (fenceOp p c d).reqs = p.reqs ∧ (ctxOf (fenceOp p c d) c).fencePending = true := by
  unfold fenceOp
  simp only [h]
  refine ⟨by simp, (congrArg Ctx.fencePending (beginDesc_rest _ c d _ c) :).trans ?_⟩
  simp [ctxRest]

theorem fenceOp_refused {st : Nat} (h : firstFail (fenceFields d.raw) = some st) : fenceOp p c d = answer p c d st 0 false false := by
  simp [fenceOp, h]

/-- What a FENCE that is ready stands among: itself alone. -/
theorem fenceReady_alone (h : fenceReady p c = some d) : (ctxOf p c).live = [d] := by
  unfold fenceReady at h
  split at h
  · next x hx =>
    split_ifs at h with hready
    obtain rfl := Option.some.inj h
    have hlen : (ctxOf p c).live.length = 1 := of_decide_eq_true (Bool.and_eq_true_iff.mp hready).1
    obtain ⟨y, hy⟩ := List.length_eq_one_iff.mp hlen
    have hmem := List.mem_of_find?_eq_some hx
    rw [hy] at hmem ⊢
    rw [List.mem_singleton.mp hmem]
  · exact absurd h (by simp)

theorem sameDesc_self (d : Desc) : sameDesc d d = true := by simp [sameDesc]

end Fence

/-! #### ROLLCALL (R281) -/

section Rollcall
variable {p : Pkg} {c : Nat} {d : Desc}

theorem rollcallOp_taken (h : firstFail (rollFields d.raw) = none) :
    (ctxOf (rollcallOp p c d) c).rollBusy = true ∧ (ctxOf (rollcallOp p c d) c).faults = [] := by
  unfold rollcallOp
  simp only [h]
  have hrest (f : Ctx → Ctx) (g : Desc → Desc) : ctxRest (ctxOf (beginDesc (modCtx p c f) c d g) c) = ctxRest (f (ctxOf p c)) := by
    rw [beginDesc_rest, ctxOf_modCtx_same]
  exact ⟨(congrArg Ctx.rollBusy (hrest _ _) :), (congrArg Ctx.faults (hrest _ _) :)⟩

/-- The writes of a ROLLCALL's end, and what it leaves of the context (R281, R282). -/
theorem rollDone_leaves (p : Pkg) (c : Nat) (d : Desc) :
    (ctxOf (rollDone p c d) c).rollBusy = false ∧ (ctxOf (rollDone p c d) c).records = inc64 (ctxOf p c).records ∧
      (∀ y, y ∈ (ctxOf (rollDone p c d) c).live → sameDesc y d = false) ∧
      Out.hostWrite (ctxOf p c).fn ((ctxOf p c).cqBase + 32 * (d.snapIndex % 2 ^ 16))
        (withPhase (bitOf d.snapIndex 16) (descBytes p d stOk 0 false false)) ∈ (rollDone p c d).out := by
  unfold rollDone
  extract_lets x p1 p2 p3
  have h2 : ctxOf p2 c = x := ctxOf_congr (by simp [p2, p1]) c
  have hout : Out.hostWrite x.fn (x.cqBase + 32 * (d.snapIndex % 2 ^ 16))
      (withPhase (bitOf d.snapIndex 16) (descBytes p d stOk 0 false false)) ∈ p3.out := List.mem_append_right _ (List.mem_singleton.mpr rfl)
  have h3 : ctxOf p3 c = _ := ctxOf_modCtx_same _ _ _
  rw [ctxOf_congr (p := p3) (by simp), h3, h2]
  exact ⟨rfl, rfl, fun y hy => by simpa using (List.mem_filter.mp hy).2, mem_log_out _ _ _ _ _ hout⟩

end Rollcall

/-! #### SET_SAMPLING (R272) -/

section Sampling
variable {p : Pkg} {c : Nat} {d : Desc}

/-- The checks of the fields of a SET_SAMPLING (Table 8-12). -/
def samplingFields (b : Bytes) : List (Option Nat) :=
  headRsv b ++ [rsvHigh b 8 16, need (decide (fieldAt b 9 1 % 128 ≤ 64)) stLengthInvalid, rsvHigh b 9 128, rsv b 10 2,
    fpField b 12 fun x => isFinite x && fle 0#32 x, fpField b 16 fun x => flt 0#32 x && fle x fOne,
    fpField b 20 fun x => fle 0#32 x && flt x fOne, fpField b 24 isPos, count21 b 28 0, rsv b 32 32]

theorem samplingFields_pass {b : Bytes} : firstFail (samplingFields b) = none ↔
    firstFail (headRsv b ++ [rsvHigh b 8 16, rsv b 10 2, count21 b 28 0, rsv b 32 32]) = none ∧ fieldAt b 9 1 ≤ 64 ∧
      (isFinite (BitVec.ofNat 32 (fieldAt b 12 4)) = true ∧ fle 0#32 (BitVec.ofNat 32 (fieldAt b 12 4)) = true) ∧
      (flt 0#32 (BitVec.ofNat 32 (fieldAt b 16 4)) = true ∧ fle (BitVec.ofNat 32 (fieldAt b 16 4)) fOne = true) ∧
      (fle 0#32 (BitVec.ofNat 32 (fieldAt b 20 4)) = true ∧ flt (BitVec.ofNat 32 (fieldAt b 20 4)) fOne = true) ∧
      isPos (BitVec.ofNat 32 (fieldAt b 24 4)) = true := by
  have htopK : fieldAt b 9 1 ≤ 64 ↔ fieldAt b 9 1 % 128 ≤ 64 ∧ fieldAt b 9 1 < 128 := by omega
  simp only [htopK, samplingFields, firstFail_append_eq_none, firstFail_cons_eq_none, firstFail_nil, fpField, need_eq_none, rsvHigh,
    decide_eq_true_eq, Bool.and_eq_true]
  tauto

theorem lt_of_rsvHigh {b : Bytes} {off lim : Nat} (h : rsvHigh b off lim = none) : fieldAt b off 1 < lim := by
  simpa [rsvHigh, need_eq_none] using h

/-- The entry that a SET_SAMPLING writes. -/
def samplingEntry (b : Bytes) : Sample :=
  { topK := fieldAt b 9 1 % 128, temp := BitVec.ofNat 32 (fieldAt b 12 4), topP := BitVec.ofNat 32 (fieldAt b 16 4)
    minP := BitVec.ofNat 32 (fieldAt b 20 4), repPenalty := BitVec.ofNat 32 (fieldAt b 24 4), repWindow := fieldAt b 28 4 }

theorem samplingOp_eq (p : Pkg) (c : Nat) (d : Desc) : samplingOp p c d = match firstFail (samplingFields d.raw) with
    | some st => answer p c d st 0 false false
    | none => answer (modCtx p c fun x => { x with sampling := tset {} x.sampling (fieldAt d.raw 8 1 % 16) (samplingEntry d.raw) })
        c d stOk 0 false false := rfl

theorem samplingOp_refused {st : Nat} (h : firstFail (samplingFields d.raw) = some st) : samplingOp p c d = answer p c d st 0 false false := by
  rw [samplingOp_eq, h]

theorem samplingOp_taken (h : firstFail (samplingFields d.raw) = none) : samplingOp p c d =
    answer (modCtx p c fun x => { x with sampling := tset {} x.sampling (fieldAt d.raw 8 1 % 16) (samplingEntry d.raw) }) c d stOk 0 false false := by
  rw [samplingOp_eq, h]

end Sampling

/-! #### HINT (R404) -/

section Hint
variable {p : Pkg} {c : Nat} {d : Desc}

/-- The checks of a HINT (Table 8-8, R404). -/
def hintChecks (p : Pkg) (c : Nat) (b : Bytes) : List (Option Nat) :=
  headRsv b ++ [need (decide (1 ≤ fieldAt b 16 4 ∧ fieldAt b 16 4 < 2 ^ 32 - 1)) stLengthInvalid,
    need (decide (1 ≤ fieldAt b 20 4 % 8192 ∧ fieldAt b 20 4 % 8192 ≤ 4200)) stLengthInvalid,
    need (decide (fieldAt b 20 4 < 8192)) stFormatInvalid, rsv b 24 40,
    need (decide ((penOf p (ctxOf p c).pen).st = penBound ∨ (penOf p (ctxOf p c).pen).st = penActive)) stPenUnavailable,
    need (decide (fieldAt b 8 8 ≤ now p + 100000000)) stLengthInvalid,
    need (decide ((p.lsh.hints.filter fun h => decide (h.pen = (ctxOf p c).pen ∧ now p < h.stop)).length < 8)) stLengthInvalid]

/-- The hint that a HINT makes, where its time has not passed and hints are taken. -/
def hintMade (p : Pkg) (c : Nat) (b : Bytes) : List Hint :=
  if now p < fieldAt b 8 8 + fieldAt b 16 4 ∧ p.lsh.hintEn = true then
    [{ ctx := c, pen := (ctxOf p c).pen, watts := fieldAt b 20 4 % 8192, start := fieldAt b 8 8, stop := fieldAt b 8 8 + fieldAt b 16 4 }]
  else []

theorem hintChecks_pass {b : Bytes} : firstFail (hintChecks p c b) = none ↔
    firstFail (headRsv b ++ [rsv b 24 40]) = none ∧ (1 ≤ fieldAt b 16 4 ∧ fieldAt b 16 4 < 2 ^ 32 - 1) ∧
      (1 ≤ fieldAt b 20 4 ∧ fieldAt b 20 4 ≤ 4200) ∧
      ((penOf p (ctxOf p c).pen).st = penBound ∨ (penOf p (ctxOf p c).pen).st = penActive) ∧ fieldAt b 8 8 ≤ now p + 100000000 ∧
      (p.lsh.hints.filter fun h => decide (h.pen = (ctxOf p c).pen ∧ now p < h.stop)).length < 8 := by
  have hwatts : 1 ≤ fieldAt b 20 4 ∧ fieldAt b 20 4 ≤ 4200 ↔
      (1 ≤ fieldAt b 20 4 % 8192 ∧ fieldAt b 20 4 % 8192 ≤ 4200) ∧ fieldAt b 20 4 < 8192 := by omega
  simp only [hwatts, hintChecks, firstFail_append_eq_none, firstFail_cons_eq_none, firstFail_nil, need_eq_none, decide_eq_true_eq]
  tauto

theorem hintOp_eq (p : Pkg) (c : Nat) (d : Desc) : hintOp p c d = match firstFail (hintChecks p c d.raw) with
    | some st => answer p c d st 0 false false
    | none => answer (if fieldAt d.raw 8 8 + fieldAt d.raw 16 4 ≤ now p ∨ p.lsh.hintEn = false then p
        else modLsh p fun l => { l with
          hints := l.hints ++ [{ ctx := c, pen := (ctxOf p c).pen, watts := fieldAt d.raw 20 4 % 8192, start := fieldAt d.raw 8 8
                                 stop := fieldAt d.raw 8 8 + fieldAt d.raw 16 4 }] }) c d stOk 0 false false := rfl

theorem hintOp_refused {st : Nat} (h : firstFail (hintChecks p c d.raw) = some st) : (hintOp p c d).lsh = p.lsh := by
  simp [hintOp_eq, h]

theorem hintOp_taken (h : firstFail (hintChecks p c d.raw) = none) : (hintOp p c d).lsh.hints = p.lsh.hints ++ hintMade p c d.raw := by
  simp only [hintOp_eq, h, (answer_answered _ _ _ _ _ _).lsh, hintMade]
  by_cases hlive : now p < fieldAt d.raw 8 8 + fieldAt d.raw 16 4 ∧ p.lsh.hintEn = true
  · rw [if_neg (by simp [hlive]), if_pos hlive]
    rfl
  · rw [if_pos (by simpa [imp_iff_not_or] using hlive), if_neg hlive, List.append_nil]

/-- The checks read the tick, the pen and the hints, none of which an answer moves. -/
theorem hintChecks_congr {q : Pkg} (h : Answered p q) (c : Nat) (b : Bytes) : hintChecks q c b = hintChecks p c b := by
  have hpen : (ctxOf q c).pen = (ctxOf p c).pen := (congrArg Ctx.pen (h.ctx c).frame :)
  simp only [hintChecks, hpen, h.penOf, h.now, h.lsh]

theorem hintMade_congr {q : Pkg} (h : Answered p q) (c : Nat) (b : Bytes) : hintMade q c b = hintMade p c b := by
  have hpen : (ctxOf q c).pen = (ctxOf p c).pen := (congrArg Ctx.pen (h.ctx c).frame :)
  simp only [hintMade, hpen, h.now, h.lsh]

end Hint

/-! #### The claim -/

/-- Settles O36: each descriptor by what its meaning leaves between the answers that surround it. -/
theorem otherDescriptors : Obligations.OtherDescriptors := by
  refine ⟨fun s c d hd => ⟨fun hscope hrsv => ?fence, fun hscope => ?fenceRefused⟩,
    fun s c hst hfw => ⟨fun d hready => ?complete, fun hnone => ?waits⟩,
    fun s c d hd hfields hlow hones => ?rollcall, fun s c d hst hfw hroll => ?rollDone, fun s src d hd => ?sampling, fun s c d hd => ?hint⟩
  case fence =>
    have hfields : firstFail (fenceFields d.raw) = none := by
      simp_all [fenceFields, firstFail_append_eq_none, firstFail_cons_eq_none, need_eq_none]
    refine does_of_due (exec_fence c s) hd fun p q hp hq => ?_
    obtain ⟨hreqs, hpending⟩ := fenceOp_taken (p := p) (c := c) hfields
    exact ⟨(congrArg Ctx.fencePending (hq.ctx c).frame :).trans hpending, hq.reqs.trans (hreqs.trans hp.reqs)⟩
  case fenceRefused =>
    obtain ⟨st, hbar⟩ := exists_firstFail (l := fenceFields d.raw) (x := need (decide (fieldAt d.raw 8 1 < 2)) stFormatInvalid)
      (by simp [fenceFields]) (by simpa [need_eq_none, Nat.succ_le_iff] using hscope)
    refine does_of_due (exec_fence c s) hd fun p q hp hq => ?_
    rw [fenceOp_refused hbar] at hq
    exact (congrArg Ctx.fencePending (((hp.trans (answer_answered _ _ _ _ _ _)).trans hq).ctx c).frame :)
  case complete =>
    have hw : writes s.pkg c = true := by simp [writes, hst, hfw]
    refine does_of_act (exec_fenceComplete c s) hw ?_
    simp only [hready]
    have h1 : ctxOf (modCtx s.pkg c fun x => { x with fencePending := false }) c = { ctxOf s.pkg c with fencePending := false } :=
      ctxOf_modCtx_same _ _ _
    have hw1 : writes (modCtx s.pkg c fun x => { x with fencePending := false }) c = true :=
      modCtx_writes hw fun _ => rfl
    refine ⟨?_, fun hcore => ?_⟩
    · refine (congrArg Ctx.fencePending (answer_steady (.refl c _)).frame :).trans ?_
      rw [h1]
      rfl
    · obtain ⟨hlive, hrecords⟩ := answer_ring hcore hw1 stOk 0 false false
      rw [hlive, hrecords, h1]
      exact ⟨by simp [fenceReady_alone hready, sameDesc_self], rfl⟩
  case waits =>
    have hw : writes s.pkg c = true := by simp [writes, hst, hfw]
    rw [Idles, exec_fenceComplete, execFenceComplete, act_next hw, hnone]
  case rollcall =>
    have hall : firstFail (rollFields d.raw) = none := by
      simp_all [rollFields, firstFail_append_eq_none, firstFail_cons_eq_none, need_eq_none]
    refine does_of_act (exec_rollcall c s) rfl ?_
    rw [evalDesc_of_due rollcallOp hd (by decide)]
    obtain ⟨hbusy, hfaults⟩ := rollcallOp_taken (p := flushOdd s.pkg (.ring c) 4096) (c := c) hall
    exact ⟨(congrArg Ctx.rollBusy ((flushOdd_answered _ _).ctx c).frame :).trans hbusy, (flushOdd_ring_faults _ c _ c).trans hfaults⟩
  case rollDone =>
    refine does_of_act (exec_rollcallDone c s) (by simp [writes, hst, hfw]) ?_
    simp only [hroll]
    exact rollDone_leaves s.pkg c d
  case sampling =>
    intro c b w
    have hsame {p q : Pkg} (h : Answered p q) : (ctxOf q c).sampling = (ctxOf p c).sampling := (congrArg Ctx.sampling (h.ctx c).frame :)
    refine ⟨fun hrsv hk htemp htemp0 htopP htopP1 hminP hminP1 hrep => ?_, fun hbad => ?_⟩
    · have hfields : firstFail (samplingFields b) = none :=
        samplingFields_pass.mpr ⟨hrsv, hk, ⟨htemp, htemp0⟩, ⟨htopP, htopP1⟩, ⟨hminP, hminP1⟩, hrep⟩
      have hentry : fieldAt b 8 1 < 16 := lt_of_rsvHigh (firstFail_eq_none.mp hrsv _ (by simp))
      refine does_of_due (exec_setSampling src s) hd fun p q hp hq => ?_
      rw [samplingOp_taken hfields] at hq
      have hset : (ctxOf q c).sampling = tset {} (ctxOf s.pkg c).sampling (fieldAt b 8 1) (samplingEntry b) := by
        rw [hsame hq, hsame (answer_answered _ _ _ _ _ _), ctxOf_modCtx_same, hsame hp, Nat.mod_eq_of_lt hentry]
      rw [hset]
      refine ⟨?_, fun k hk => tget_tset_ne _ _ _ hk⟩
      rw [tget_tset_same, samplingEntry, Nat.mod_eq_of_lt (by omega)]
    · have hfail : firstFail (samplingFields b) ≠ none := by
        intro hpass
        obtain ⟨-, hk, -, ⟨htopP, -⟩, -, hrep⟩ := samplingFields_pass.mp hpass
        rcases hbad with hbig | hzero | hneg
        · omega
        · exact Bool.false_ne_true (hzero.symm.trans htopP)
        · exact Bool.false_ne_true (hneg.symm.trans hrep)
      obtain ⟨st, hbar⟩ := Option.ne_none_iff_exists'.mp hfail
      refine does_of_due (exec_setSampling src s) hd fun p q hp hq => ?_
      rw [samplingOp_refused hbar] at hq
      rw [hsame hq, hsame (answer_answered _ _ _ _ _ _), hsame hp]
  case hint =>
    intro n start len watts
    refine ⟨fun hrsv hlen hones hwatts hmax hpen hstart hheld => ?_, fun hbad => ?_⟩
    · have hchecks : firstFail (hintChecks s.pkg c d.raw) = none :=
        hintChecks_pass.mpr ⟨hrsv, ⟨hlen, hones⟩, ⟨hwatts, hmax⟩, hpen, hstart, hheld⟩
      refine does_of_due (exec_hint c s) hd fun p q hp hq => ?_
      change Answered (hintOp p c d) q at hq
      rw [hq.lsh, hintOp_taken ((congrArg firstFail (hintChecks_congr hp c d.raw)).trans hchecks), hintMade_congr hp,
        hp.lsh, hintMade, Nat.mod_eq_of_lt (by omega)]
    · have hfail : firstFail (hintChecks s.pkg c d.raw) ≠ none := by
        intro hpass
        obtain ⟨-, ⟨hlen, -⟩, ⟨-, hwatts⟩, -, hstart, -⟩ := hintChecks_pass.mp hpass
        omega
      obtain ⟨st, hbar⟩ := Option.ne_none_iff_exists'.mp hfail
      refine does_of_due (exec_hint c s) hd fun p q hp hq => ?_
      change Answered (hintOp p c d) q at hq
      rw [hq.lsh, hintOp_refused ((congrArg firstFail (hintChecks_congr hp c d.raw)).trans hbar), hp.lsh]

end Sys2Proof.Machine
end

section
/-! PROOFS. APPEND, CANCEL, PAUSE and RESUME (R274, R299 to R301, R336): what each leaves of the request that its handle names. -/

namespace Sys2Proof.Machine

/-! #### Operations of requests, by what they leave of them -/

section Requests
variable {p q : Pkg} {c e k : Nat} {d : Desc}

theorem reqOf_modReq_ne (f : Req → Req) (hk : k ≠ e) : reqOf (modReq p e f) k = reqOf p k := by rw [reqOf_modReq, if_neg hk]

theorem entryOf_congr (h : q.reqs = p.reqs) (c handle : Nat) : entryOf q c handle = entryOf p c handle := by
  simp only [entryOf, reqOf_congr h]

theorem liveReq_of_entryOf {handle : Nat} (h : entryOf p c handle = some e) : liveReq (reqOf p e) = true := by
  unfold entryOf at h
  extract_lets x r at h
  split_ifs at h with hlive
  exact Option.some.inj h ▸ hlive.1

theorem beginDesc_reqs (p : Pkg) (c : Nat) (d : Desc) (f : Desc → Desc) : (beginDesc p c d f).reqs = p.reqs := by
  unfold beginDesc
  dsimp only
  split <;> rfl

@[simp] theorem reqOf_beginDesc (p : Pkg) (c : Nat) (d : Desc) (f : Desc → Desc) (k : Nat) : reqOf (beginDesc p c d f) k = reqOf p k :=
  reqOf_congr (beginDesc_reqs p c d f) k

@[simp] theorem reqOf_stopCopies (p : Pkg) (e : Nat) (whys : List Nat) (k : Nat) : reqOf (stopCopies p e whys) k = reqOf p k := rfl

@[simp] theorem reqOf_startCopy (p : Pkg) (e why : Nat) (keys : List Nat) (k : Nat) : reqOf (startCopy p e why keys) k = reqOf p k :=
  reqOf_congr (by simp) k

@[simp] theorem reqOf_answerReq (p : Pkg) (e : Nat) (d : Desc) (status k : Nat) : reqOf (answerReq p e d status) k = reqOf p k :=
  reqOf_congr (by simp) k

theorem reqOf_holdDesc (p : Pkg) (e : Nat) (d : Desc) (front : Bool) :
    reqOf (holdDesc p e d front) e = { reqOf p e with held := (reqOf p e).held ++ [{ d with begun := true, front := front }] } := by
  rw [holdDesc, reqOf_modReq_same, reqOf_beginDesc]

theorem reqOf_answerHeld (p : Pkg) (e : Nat) (d : Desc) (status : Nat) :
    reqOf (answerHeld p e d status) e = { reqOf p e with held := (reqOf p e).held.filter fun y => !sameDesc y d } := by
  rw [answerHeld, reqOf_answerReq, reqOf_modReq_same]

theorem reqOf_dropTokSlot (p : Pkg) (e : Nat) : reqOf (dropTokSlot p e) e = { reqOf p e with tokSlot := false } := by
  unfold dropTokSlot
  dsimp only
  split
  · have hmod : reqOf (modReq p e fun x => { x with tokSlot := false }) e = { reqOf p e with tokSlot := false } := reqOf_modReq_same _ _ _
    split <;> exact hmod
  · next hslot => rw [← Bool.eq_false_iff.mpr hslot]

theorem reqOf_leaveStep (p : Pkg) (e : Nat) : reqOf (leaveStep p e) e = { reqOf p e with tokSlot := false, inStep := false } := by
  unfold leaveStep
  extract_lets out p1
  rw [reqOf_modReq_same, reqOf_dropTokSlot, reqOf_congr (p := p) (q := p1) rfl]

/-- A live request that is not DONE ends: it is DONE, and among those that have ended in this tick (R287). -/
theorem endReq_live (hlive : liveReq (reqOf p e) = true) (hdone : (reqOf p e).st ≠ rqDone) (status : Nat) :
    reqOf (endReq p e status) e =
        { reqOf p e with tokSlot := false, inStep := false, st := rqDone, endStatus := status, nextDl := 0, ttlExp := 0 } ∧
      e ∈ (endReq p e status).rq.doneQ := by
  obtain ⟨hfree, hadmitting⟩ := liveReq_iff.mp hlive
  unfold endReq
  extract_lets r p1 p2
  have h1 : reqOf p1 e = { reqOf p e with tokSlot := false, inStep := false } := reqOf_leaveStep (stopCopies p e allCopies) e
  have h2 : reqOf p2 e = _ := reqOf_modReq_same p1 e _
  rw [if_neg hfree, if_neg hadmitting, if_neg hdone]
  exact ⟨h2.trans (by rw [h1]), List.mem_append_right _ (List.mem_singleton.mpr rfl)⟩

theorem endReq_done (hdone : (reqOf p e).st = rqDone) (status : Nat) : endReq p e status = p := by simp [endReq, hdone]

/-! #### The request that a handle names -/

/-- Without a request that its handle names, a descriptor is only answered. -/
theorem byHandle_none {fields : List (Option Nat)} {f : Pkg → Nat → Pkg} (h : entryOf p c (fieldAt d.raw 8 4) = none) :
    Answered p (byHandle p c d fields f) := by
  simp only [byHandle, h]
  split
  · next hsome => exact absurd hsome.symm (by simp)
  · exact answer_answered _ _ _ _ _ _
  · next hsome => exact absurd hsome.symm (by simp)
  · exact .refl p

theorem byHandle_some (fields : List (Option Nat)) (f : Pkg → Nat → Pkg) (h : entryOf p c (fieldAt d.raw 8 4) = some e) :
    byHandle p c d fields f = match firstFail fields with
      | some st => answerReq p e d st
      | none => f p e := by
  have hok : handleOk p c (fieldAt d.raw 8 4) = none := by simp [handleOk, h, need]
  have happ : firstFail (fields ++ [none]) = firstFail fields := by simp [firstFail]
  simp only [byHandle, h, hok, happ]
  cases firstFail fields <;> rfl

theorem byHandle_pass {fields : List (Option Nat)} (f : Pkg → Nat → Pkg) (h : entryOf p c (fieldAt d.raw 8 4) = some e)
    (hpass : firstFail fields = none) : byHandle p c d fields f = f p e := by
  rw [byHandle_some fields f h, hpass]

/-- What answers does no more where the meaning does no more. -/
theorem byHandle_answered {fields : List (Option Nat)} {f : Pkg → Nat → Pkg} (h : entryOf p c (fieldAt d.raw 8 4) = some e)
    (hf : Answered p (f p e)) : Answered p (byHandle p c d fields f) := by
  rw [byHandle_some fields f h]
  split
  · exact answer_answered _ _ _ _ _ _
  · exact hf

/-- A request that ends or has ended answers what is asked of it. -/
theorem ended_answered {f : Pkg → Pkg} (h : (reqOf p e).st = rqDraining ∨ (reqOf p e).st = rqDone) : Answered p (ended p e d f) := by
  unfold ended
  dsimp only
  split
  · exact answer_answered _ _ _ _ _ _
  · next hdraining => rw [if_pos (h.resolve_left hdraining)]; exact answer_answered _ _ _ _ _ _

theorem ended_of_running (f : Pkg → Pkg) (hdraining : (reqOf p e).st ≠ rqDraining) (hdone : (reqOf p e).st ≠ rqDone) : ended p e d f = f p := by
  simp [ended, hdraining, hdone]

/-! #### APPEND (R274) -/

/-- The read that an APPEND asks for. -/
def askedRead (d : Desc) : TokRead :=
  { desc := { d with begun := true }, count := fieldAt d.raw 12 4, maxNew := fieldAt d.raw 24 4, addr := fieldAt d.raw 16 8 }

/-- The package in which a request has asked for the read of an APPEND. -/
def askRead (p : Pkg) (c e : Nat) (d : Desc) : Pkg := modReq (beginDesc p c d id) e fun r => { r with appends := r.appends ++ [askedRead d] }

/-- The checks of the fields of an APPEND (Table 8-6). -/
def appendFields (b : Bytes) : List (Option Nat) := headRsv b ++ [count21 b 12 1, hostAddrOk b 16 4, count21 b 24 0, rsv b 28 36]

theorem appendOp_eq (p : Pkg) (c : Nat) (d : Desc) : appendOp p c d = byHandle p c d (appendFields d.raw) fun q e => ended q e d fun q =>
    issueRead (askRead q c e d) e := rfl

/-- A read that is issued is marked so, and is otherwise as it was. -/
theorem issueRead_reqs (p : Pkg) (e : Nat) :
    ∃ mark : TokRead → TokRead, (∀ y, mark y = y ∨ mark y = { y with issued := true }) ∧
      reqOf (issueRead p e) e = { reqOf p e with appends := (reqOf p e).appends.map mark } ∧
      ∀ k, k ≠ e → reqOf (issueRead p e) k = reqOf p k := by
  have hnone : ∃ mark : TokRead → TokRead, (∀ y, mark y = y ∨ mark y = { y with issued := true }) ∧
      reqOf p e = { reqOf p e with appends := (reqOf p e).appends.map mark } ∧ ∀ k, k ≠ e → reqOf p k = reqOf p k :=
    ⟨id, fun _ => .inl rfl, by simp, fun _ _ => rfl⟩
  unfold issueRead
  extract_lets r
  split
  · next t _ =>
    extract_lets mark p1
    have hmark (y : TokRead) : mark y = y ∨ mark y = { y with issued := true } := by
      by_cases hsame : sameDesc y.desc t.desc = true
      · exact .inr (if_pos hsame)
      · exact .inl (if_neg hsame)
    split
    · exact ⟨mark, hmark, (reqOf_modReq_same p e fun x => { x with appends := x.appends.map mark } :),
        fun k hk => (reqOf_modReq_ne (p := p) (fun x => { x with appends := x.appends.map mark }) hk :)⟩
    · exact hnone
  · exact hnone

/-- An APPEND waits for its read, at the end of those of its request. -/
theorem append_leaves (p : Pkg) (c e : Nat) (d : Desc) :
    ∃ mark : TokRead → TokRead, (∀ y, mark y = y ∨ mark y = { y with issued := true }) ∧
      reqOf (issueRead (askRead p c e d) e) e = { reqOf p e with appends := ((reqOf p e).appends ++ [askedRead d]).map mark } ∧
      ∀ k, k ≠ e → reqOf (issueRead (askRead p c e d) e) k = reqOf p k := by
  obtain ⟨mark, hmark, hsame, hothers⟩ := issueRead_reqs (askRead p c e d) e
  refine ⟨mark, hmark, by rw [hsame, askRead, reqOf_modReq_same, reqOf_beginDesc], fun k hk => ?_⟩
  rw [hothers k hk, askRead, reqOf_modReq_ne _ hk, reqOf_beginDesc]

/-! #### CANCEL (R299) -/

/-- The checks of the fields of a CANCEL or a RESUME (Table 8-7). -/
def handleFields (b : Bytes) : List (Option Nat) := headRsv b ++ [rsv b 12 52]

theorem cancelOp_eq (p : Pkg) (c : Nat) (d : Desc) : cancelOp p c d = byHandle p c d (handleFields d.raw) fun q e =>
    if (reqOf q e).turnEnded then
      modReq (endReq (holdDesc q e d true) e stOkCancelLate) e fun x => { x with endStatus := stOkCancelLate }
    else if (reqOf q e).st = rqDone then answerReq q e d stEpochStale
    else if (reqOf q e).st = rqDraining then holdDesc q e d false
    else if (reqOf q e).inStep then modReq (holdDesc q e d false) e fun x => { x with st := rqDraining, endStatus := stCancelled }
    else endReq (holdDesc q e d true) e stCancelled := rfl

theorem cancel_late (hlive : liveReq (reqOf p e) = true) :
    let x := reqOf (modReq (endReq (holdDesc p e d true) e stOkCancelLate) e fun x => { x with endStatus := stOkCancelLate }) e
    x.st = rqDone ∧ x.endStatus = stOkCancelLate ∧ x.held.length = (reqOf p e).held.length + 1 := by
  have hhold := reqOf_holdDesc p e d true
  dsimp only
  rw [reqOf_modReq_same]
  by_cases hdone : (reqOf p e).st = rqDone
  · rw [endReq_done (by rw [hhold]; exact hdone), hhold]
    exact ⟨hdone, rfl, by simp⟩
  · rw [(endReq_live (p := holdDesc p e d true) (by rw [hhold]; exact hlive) (by rw [hhold]; exact hdone) _).1, hhold]
    exact ⟨rfl, rfl, by simp⟩

/-! #### PAUSE (R300, R301) -/

/-- The checks of the fields of a PAUSE (Table 8-7). -/
def pauseFields (b : Bytes) : List (Option Nat) :=
  headRsv b ++ [need (decide (1 ≤ fieldAt b 12 4 ∧ fieldAt b 12 4 ≠ 0xFFFFFFFF)) stLengthInvalid, rsv b 16 48]

theorem pauseOp_eq (p : Pkg) (c : Nat) (d : Desc) : pauseOp p c d = byHandle p c d (pauseFields d.raw) fun q e => ended q e d fun q =>
    if (reqOf q e).inStep ∨ (reqOf q e).st = rqSwapped then modReq (holdDesc q e d false) e fun x => { x with pausePending := true }
    else applyPause q e d (fieldAt d.raw 12 4) := rfl

theorem reqOf_copyOut (p : Pkg) (e why : Nat) : ∃ full, reqOf (copyOut p e why) e = { reqOf p e with kennelFull := full } := by
  unfold copyOut noteKennelFull
  extract_lets r keys room r1
  split
  · have hmod := reqOf_modReq_same (startCopy p e why (keys.take room)) e fun x => { x with kennelFull := true }
    rw [reqOf_startCopy] at hmod
    exact ⟨true, (reqOf_congr (by simp) e).trans hmod⟩
  · rw [reqOf_startCopy]
    exact ⟨_, rfl⟩

theorem reqOf_pauseReq (p : Pkg) (e prev until_ : Nat) : ∃ full, reqOf (pauseReq p e prev until_) e =
    { reqOf p e with st := rqPaused, prev := prev, ttlExp := until_, nextDl := 0, pausePending := false, kennelFull := full } := by
  unfold pauseReq
  extract_lets p1
  obtain ⟨full, hout⟩ := reqOf_copyOut (stopCopies p1 e [0, 1, 3, 4]) e 0
  have h1 : reqOf p1 e = _ := reqOf_modReq_same p e _
  exact ⟨full, by rw [hout, reqOf_stopCopies, h1]⟩

theorem applyPause_leaves (p : Pkg) (e : Nat) (d : Desc) (ttl : Nat) :
    (reqOf (applyPause p e d ttl) e).st = rqPaused ∧ (reqOf (applyPause p e d ttl) e).ttlExp = now p + ttl ∧
      ((reqOf p e).st ≠ rqPaused → (reqOf (applyPause p e d ttl) e).prev = (reqOf p e).st ∧ (reqOf (applyPause p e d ttl) e).nextDl = 0) := by
  unfold applyPause
  extract_lets r
  split
  · next hpaused =>
    rw [reqOf_answerHeld, reqOf_modReq_same]
    exact ⟨hpaused, rfl, fun h => absurd hpaused h⟩
  · obtain ⟨full, hpause⟩ := reqOf_pauseReq (closeResume p e stOk) e r.st (now p + ttl)
    rw [reqOf_answerHeld, hpause]
    exact ⟨rfl, rfl, fun _ => ⟨rfl, rfl⟩⟩

/-! #### RESUME (R336) -/

theorem resumeOp_eq (p : Pkg) (c : Nat) (d : Desc) : resumeOp p c d = byHandle p c d (handleFields d.raw) fun q e => ended q e d fun q =>
    if (reqOf q e).st = rqPaused then resumeReq q c e d else answerReq q e d stOk := rfl

theorem hostKeys_congr (h : (reqOf q e).parts = (reqOf p e).parts) : hostKeys q e = hostKeys p e := by simp only [hostKeys, h]

theorem resumeReq_leaves (p : Pkg) (c e : Nat) (d : Desc) :
    ∃ x, reqOf (resumeReq p c e d) e =
        { reqOf p e with st := (reqOf p e).prev, ttlExp := 0, nextDl := dlAfter p (reqOf p e).firstDl, resumeD := x } ∧
      (hostKeys p e ≠ [] → x.isSome = true) := by
  unfold resumeReq
  extract_lets p1 keys
  have h1 : reqOf p1 e = { reqOf p e with st := (reqOf p e).prev, ttlExp := 0, nextDl := dlAfter p (reqOf p e).firstDl } :=
    reqOf_modReq_same _ _ _
  have hkeys : keys = hostKeys p e := hostKeys_congr (by rw [h1])
  split
  · next hempty => exact ⟨_, by rw [reqOf_answerReq, h1], fun h => absurd (List.isEmpty_iff.mp hempty) (hkeys ▸ h)⟩
  · exact ⟨_, by rw [reqOf_startCopy, reqOf_modReq_same, reqOf_beginDesc, h1], fun _ => rfl⟩

end Requests

/-! #### Descriptors of requests, evaluated -/

section Evaluated
variable {cmd : Instr} {s : State} {src : Src} {type e : Nat} {d : Desc} {fields : List (Option Nat)}
  {op : Pkg → Nat → Desc → Pkg} {f : Pkg → Nat → Pkg} {post : Pkg → Prop}

/-- A descriptor whose handle names no request changes none. -/
theorem does_of_no_handle (hcmd : exec cmd s = act true (fun p => evalDesc p src type op) s)
    (hop : ∀ p, op p (srcCtx s.pkg src) d = byHandle p (srcCtx s.pkg src) d fields f) (hd : due s.pkg src type = some d)
    (hnone : entryOf s.pkg (srcCtx s.pkg src) (fieldAt d.raw 8 4) = none) : Does cmd s fun q => q.reqs = s.pkg.reqs := by
  refine does_of_due hcmd hd fun p q hp hq => ?_
  rw [hop] at hq
  exact (hp.trans ((byHandle_none ((entryOf_congr hp.reqs _ _).trans hnone)).trans hq)).reqs

/-- A descriptor whose meaning only answers changes no request. -/
theorem does_of_handle_answered (hcmd : exec cmd s = act true (fun p => evalDesc p src type op) s)
    (hop : ∀ p, op p (srcCtx s.pkg src) d = byHandle p (srcCtx s.pkg src) d fields f) (hd : due s.pkg src type = some d)
    (he : entryOf s.pkg (srcCtx s.pkg src) (fieldAt d.raw 8 4) = some e) (hf : ∀ p, Answered s.pkg p → Answered p (f p e)) :
    Does cmd s fun q => q.reqs = s.pkg.reqs := by
  refine does_of_due hcmd hd fun p q hp hq => ?_
  rw [hop] at hq
  exact (hp.trans ((byHandle_answered ((entryOf_congr hp.reqs _ _).trans he) (hf p hp)).trans hq)).reqs

/-- The meaning of a descriptor whose fields pass acts on the request that its handle names. -/
theorem does_of_handle (hcmd : exec cmd s = act true (fun p => evalDesc p src type op) s)
    (hop : ∀ p, op p (srcCtx s.pkg src) d = byHandle p (srcCtx s.pkg src) d fields f) (hd : due s.pkg src type = some d)
    (he : entryOf s.pkg (srcCtx s.pkg src) (fieldAt d.raw 8 4) = some e) (hpass : firstFail fields = none)
    (hpost : ∀ p q, Answered s.pkg p → Answered (f p e) q → post q) : Does cmd s post := by
  refine does_of_due hcmd hd fun p q hp hq => ?_
  rw [hop, byHandle_pass f ((entryOf_congr hp.reqs _ _).trans he) hpass] at hq
  exact hpost p q hp hq

end Evaluated

end Sys2Proof.Machine
end

section
/-! PROOFS. ADMIT (R285, R288 to R290): the request that it makes, the frames and the time that decide it, and what the decision leaves. -/

namespace Sys2Proof.Machine

/-! #### Tables and sums -/

section Tables
variable {α : Type} {n : Nat}

theorem filter_tins_ne (n : Nat) (x : α) (t : Tab α) :
    (tins n x t).filter (fun y => decide (y.1 ≠ n)) = t.filter fun y => decide (y.1 ≠ n) := by
  induction t with
  | nil => simp [tins]
  | cons y t ih =>
    obtain ⟨k, v⟩ := y
    rw [tins]
    split
    · simp
    · split
      · next hk => simp [hk]
      · simp only [List.filter_cons, ih]

theorem filter_tdel_ne (n : Nat) (t : Tab α) : (tdel t n).filter (fun y => decide (y.1 ≠ n)) = t.filter fun y => decide (y.1 ≠ n) := by
  induction t with
  | nil => rfl
  | cons y t ih =>
    obtain ⟨k, v⟩ := y
    rw [tdel]
    split
    · next hk =>
      rw [ih, List.filter_cons_of_neg (by simp [hk])]
    · simp only [List.filter_cons, ih]

/-- Writing one entry leaves the keys of the others. -/
theorem tkeys_tset_ne [DecidableEq α] (f : Nat → α → Bool) (d x : α) (t : Tab α) (n : Nat) :
    (tkeys f (tset d t n x)).filter (fun k => decide (k ≠ n)) = (tkeys f t).filter fun k => decide (k ≠ n) := by
  have htset : (tset d t n x).filter (fun y => decide (y.1 ≠ n)) = t.filter fun y => decide (y.1 ≠ n) := by
    unfold tset
    split
    · exact filter_tdel_ne n t
    · exact filter_tins_ne n x t
  have hkeys (l : Tab α) : (tkeys f l).filter (fun k => decide (k ≠ n)) =
      ((l.filter fun y => decide (y.1 ≠ n)).filter fun y => f y.1 y.2).map Prod.fst := by
    rw [List.filter_comm, tkeys, List.filter_map]
    rfl
  rw [hkeys, hkeys, htset]

theorem sumL_eq_sum (l : List Nat) : sumL l = l.sum := List.sum_eq_foldl.symm

end Tables

/-! #### The request that an ADMIT makes -/

section Admit
variable {p0 p q : Pkg} {c e : Nat} {d : Desc} {b : Bytes}

theorem Answered.ctxFn (h : Answered p q) (c : Nat) : (ctxOf q c).fn = (ctxOf p c).fn := (congrArg Ctx.fn (h.ctx c).frame :)

theorem Answered.ctxPen (h : Answered p q) (c : Nat) : (ctxOf q c).pen = (ctxOf p c).pen := (congrArg Ctx.pen (h.ctx c).frame :)

theorem Answered.ctxQuota (h : Answered p q) (c : Nat) : (ctxOf q c).quota = (ctxOf p c).quota := (congrArg Ctx.quota (h.ctx c).frame :)

theorem freeEntryOf_congr (h : q.reqs = p.reqs) : freeEntryOf q = freeEntryOf p := by simp only [freeEntryOf, reqOf_congr h]

theorem free_of_freeEntryOf (h : freeEntryOf p = some e) : (reqOf p e).st = rqFree := by
  simpa using List.find?_some h

theorem positionsOf_congr (h : q.pens = p.pens) (n : Nat) : positionsOf q n = positionsOf p n := by simp only [positionsOf, penOf_congr h]

/-- The checks of an ADMIT read nothing that answers move. -/
theorem admitEarly_congr (h : Answered p q) (c : Nat) (b : Bytes) : admitEarly q c b = admitEarly p c b := by
  have hbound : decide ((bindOf q c).st ≠ 0) = decide ((bindOf p c).st ≠ 0) := decide_eq_decide.mpr (not_congr (h.bound c))
  simp only [admitEarly, admitChecks, handleOk, hbound, entryOf_congr h.reqs, freeEntryOf_congr h.reqs, entriesOf, h.reqs, h.ctxPen,
    h.ctxQuota, h.penOf, h.reqOf, positionsOf_congr h.pens]
  rfl

theorem reqFrom_congr (h : Answered p q) (c e : Nat) (d : Desc) : reqFrom q c e d = reqFrom p c e d := by
  simp only [reqFrom, h.lastGen, h.ctxPen, h.now]

theorem entryOf_eq_mod {handle : Nat} (h : entryOf p c handle = some e) : e = handle % 4096 := by
  unfold entryOf at h
  extract_lets x r at h
  split_ifs at h
  exact (Option.some.inj h).symm

/-- The PREFIX handle of an ADMIT that no check refuses names a request with its tokens in KV. -/
theorem prefix_of_admitEarly (h : admitEarly p c b = none) (hpre : fieldAt b 44 4 ≠ 0) :
    entryOf p c (fieldAt b 44 4) = some (fieldAt b 44 4 % 4096) ∧ fieldAt b 48 4 ≤ (reqOf p (fieldAt b 44 4 % 4096)).kvDone := by
  have hpass := firstFail_append_eq_none.mp (h : firstFail (_ ++ admitChecks p c b) = none)
  obtain ⟨hhandle, hchecks⟩ := hpass
  rw [firstFail_append_eq_none, if_neg hpre, firstFail_cons_eq_none, handleOk, need_eq_none] at hhandle
  obtain ⟨x, hentry⟩ := Option.isSome_iff_exists.mp hhandle.2.1
  have hmod := entryOf_eq_mod hentry
  subst hmod
  simp only [admitChecks, firstFail_cons_eq_none, need_eq_none, hentry, decide_eq_true_eq] at hchecks
  obtain ⟨-, ⟨-, -, hzero, hkv⟩, -⟩ := hchecks
  exact ⟨hentry, (hkv.resolve_left fun h0 => hpre (hzero.mp h0)).2⟩

/-- The package with the request that an ADMIT makes, in ADMITTING. -/
def heldAdmit (p : Pkg) (c : Nat) (d : Desc) (e : Nat) : Pkg :=
  { beginDesc p c d id with reqs := tset {} p.reqs e (reqFrom p c e d), lastGen := tset 0 p.lastGen e (reqFrom p c e d).gen }

theorem admitOp_refused {st : Nat} (h : admitEarly p c d.raw = some st) :
    (admitOp p c d).reqs = p.reqs ∧ (admitOp p c d).lastGen = p.lastGen := by
  have hop : admitOp p c d = answer (noteDenied (giveBack p c 1) st) c d st 0 false false := by simp only [admitOp, h]
  rw [hop]
  exact ⟨by simp, by simp⟩

theorem admitOp_passed (h : admitEarly p c d.raw = none) (hfree : freeEntryOf p = some e) : admitOp p c d =
    if (penOf (heldAdmit p c d e) (ctxOf p c).pen).st = penActive then decideAdmit (heldAdmit p c d e) e else heldAdmit p c d e := by
  simp only [admitOp, h, hfree]
  rfl

/-- A package as another one was, but for the answers of descriptors and for the request that an ADMIT has made in an entry. -/
structure HoldsAdmit (p0 : Pkg) (c : Nat) (d : Desc) (e : Nat) (p : Pkg) : Prop where
  reqs : p.reqs = tset {} p0.reqs e (reqFrom p0 c e d)
  lastGen : p.lastGen = tset 0 p0.lastGen e (reqFrom p0 c e d).gen
  pens : p.pens = p0.pens
  rq : p.rq = p0.rq
  tick : p.tick = p0.tick
  fn : (ctxOf p c).fn = (ctxOf p0 c).fn

theorem beginDesc_keep (p : Pkg) (c : Nat) (d : Desc) (f : Desc → Desc) :
    (beginDesc p c d f).pens = p.pens ∧ (beginDesc p c d f).rq = p.rq ∧ (beginDesc p c d f).tick = p.tick := by
  unfold beginDesc
  dsimp only
  split <;> exact ⟨rfl, rfl, rfl⟩

theorem heldAdmit_holds (h : Answered p0 p) (c : Nat) (d : Desc) (e : Nat) : HoldsAdmit p0 c d e (heldAdmit p c d e) := by
  obtain ⟨hpens, hrq, htick⟩ := beginDesc_keep p c d id
  have hfn : (ctxOf (heldAdmit p c d e) c).fn = (ctxOf p c).fn := (congrArg Ctx.fn (beginDesc_rest p c d id c) :)
  exact ⟨by rw [heldAdmit, reqFrom_congr h, h.reqs], by rw [heldAdmit, reqFrom_congr h, h.lastGen], hpens.trans h.pens, hrq.trans h.rq,
    htick.trans h.tick, hfn.trans (h.ctxFn c)⟩

end Admit

section Held
variable {p0 p : Pkg} {c e : Nat} {d : Desc}

theorem HoldsAdmit.self (h : HoldsAdmit p0 c d e p) : reqOf p e = reqFrom p0 c e d := by
  rw [reqOf, h.reqs, tget_tset_same]

theorem HoldsAdmit.others (h : HoldsAdmit p0 c d e p) {k : Nat} (hk : k ≠ e) : reqOf p k = reqOf p0 k := by
  rw [reqOf, h.reqs, tget_tset_ne _ _ _ hk, reqOf]

theorem HoldsAdmit.penOf (h : HoldsAdmit p0 c d e p) (n : Nat) : Machine.penOf p n = Machine.penOf p0 n := penOf_congr h.pens n

theorem HoldsAdmit.poolOf (h : HoldsAdmit p0 c d e p) (n : Nat) : Machine.poolOf p n = Machine.poolOf p0 n := congrArg Pen.pool (h.penOf n)

theorem HoldsAdmit.now (h : HoldsAdmit p0 c d e p) : Machine.now p = Machine.now p0 := congrArg TickS.count h.tick

theorem reqFrom_gen (p : Pkg) (c e : Nat) (d : Desc) : (reqFrom p c e d).gen ≠ 0 := by
  have hgen : (reqFrom p c e d).gen = if tget 0 p.lastGen e = 0xFFFFF then 1 else tget 0 p.lastGen e + 1 := rfl
  rw [hgen]
  split <;> omega

/-! #### The frames -/

/-- The frames that the prompt of a request needs, less those that it shares (R288). -/
def admitFrames (p : Pkg) (r : Req) : Nat :=
  (ceilDiv (r.promptTokens + positionsOf p r.pen) (pageSize p r.pen) -
    if r.prefixH = 0 then 0 else sharedWhole p (r.prefixH % 4096) r.prefixTokens r.pen) * gOf (poolOf p r.pen)

theorem partInHost_congr {q : Pkg} {x : Nat} (hpens : q.pens = p.pens) (hreq : reqOf q x = reqOf p x) (key : Nat) :
    partInHost q x key = partInHost p x key := by
  simp only [partInHost, poolOf, penOf_congr hpens, hreq]

theorem sharedWhole_congr {q : Pkg} {x : Nat} (hpens : q.pens = p.pens) (hreq : reqOf q x = reqOf p x) (tokens n : Nat) :
    sharedWhole q x tokens n = sharedWhole p x tokens n := by
  simp only [sharedWhole, pageSize, poolOf, penOf_congr hpens, partInHost_congr hpens hreq, hreq]

theorem admitFrames_held (h : HoldsAdmit p0 c d e p) {r : Req} (hpre : r.prefixH ≠ 0 → r.prefixH % 4096 ≠ e) :
    admitFrames p r = admitFrames p0 r := by
  have hshared : (if r.prefixH = 0 then 0 else sharedWhole p (r.prefixH % 4096) r.prefixTokens r.pen) =
      if r.prefixH = 0 then 0 else sharedWhole p0 (r.prefixH % 4096) r.prefixTokens r.pen := by
    split
    · rfl
    · next hr => exact sharedWhole_congr h.pens (h.others (hpre hr)) _ _
  simp only [admitFrames, hshared, positionsOf_congr h.pens, pageSize, h.penOf, h.poolOf]

/-- A request of the checks that an ADMIT passes is not the FREE entry that it takes. -/
theorem prefix_ne (hearly : admitEarly p c d.raw = none) (hfree : freeEntryOf p = some e) (hpre : (reqFrom p c e d).prefixH ≠ 0) :
    (reqFrom p c e d).prefixH % 4096 ≠ e := by
  intro he
  have hlive := liveReq_of_entryOf (prefix_of_admitEarly hearly hpre).1
  exact (liveReq_iff.mp hlive).1 (by rw [show fieldAt d.raw 44 4 % 4096 = e from he, free_of_freeEntryOf hfree])

/-- The PREFIX request still stands when the ADMIT is decided. -/
theorem prefixBar_held (h : HoldsAdmit p0 c d e p) (hearly : admitEarly p0 c d.raw = none) (hfree : freeEntryOf p0 = some e) :
    prefixBar p (reqFrom p0 c e d).ctx (reqFrom p0 c e d).prefixH (reqFrom p0 c e d).prefixTokens = none := by
  have hne := prefix_ne (c := c) hearly hfree
  have hpass : (reqFrom p0 c e d).prefixH ≠ 0 →
      entryOf p0 (reqFrom p0 c e d).ctx (reqFrom p0 c e d).prefixH = some ((reqFrom p0 c e d).prefixH % 4096) ∧
        (reqFrom p0 c e d).prefixTokens ≤ (reqOf p0 ((reqFrom p0 c e d).prefixH % 4096)).kvDone := prefix_of_admitEarly hearly
  generalize reqFrom p0 c e d = r at hne hpass
  unfold prefixBar
  split
  · rfl
  · next hpre =>
    obtain ⟨hentry, hkv⟩ := hpass hpre
    have hsame := h.others (hne hpre)
    have hentry' : entryOf p r.ctx r.prefixH = some (r.prefixH % 4096) := by
      rw [← hentry]
      simp only [entryOf, hsame]
    rw [hentry']
    dsimp only
    rw [hsame, if_neg (Nat.not_lt.mpr hkv)]

/-! #### The time -/

/-- The requests of the pen that a request would wait behind (R288). -/
def servedAhead (p : Pkg) (r : Req) (e : Nat) : List Nat :=
  (entriesOfPen p r.pen).filter fun a =>
    decide ((reqOf p a).st = rqPrefill ∨ (reqOf p a).st = rqDecode) &&
      servedBefore (reqOf p a).nextDl (reqOf p a).priority a (dlAfter p r.firstDl) r.priority e

/-- What is left of the step that runs in a pen. -/
def stepLeft (p : Pkg) (n : Nat) : Nat := if (penOf p n).step.isSome then (penOf p n).stepEnd - now p else 0

/-- The steps of a request's own prompt. -/
def ownSteps (p : Pkg) (r : Req) : Nat := ceilDiv (r.promptTokens - r.prefixTokens) (p.rq.prefillSlots * positionsOf p r.pen)

/-- The prediction of a request's first token (R289). -/
def firstToken (p : Pkg) (r : Req) (e : Nat) : Nat := predictFirst p r.pen r.promptTokens r.prefixTokens r.firstDl r.priority e

theorem stepLeft_held (h : HoldsAdmit p0 c d e p) (n : Nat) : stepLeft p n = stepLeft p0 n := by simp only [stepLeft, h.penOf, h.now]

theorem ownSteps_held (h : HoldsAdmit p0 c d e p) (r : Req) : ownSteps p r = ownSteps p0 r := by
  simp only [ownSteps, h.rq, positionsOf_congr h.pens]

/-- A first token waits for the step that runs and for the steps of its own prompt. -/
theorem le_firstToken (h : HoldsAdmit p0 c d e p) (r : Req) :
    stepLeft p0 r.pen + ownSteps p0 r * (penOf p0 r.pen).pred ≤ firstToken p r e := by
  rw [← stepLeft_held h, ← ownSteps_held h, ← h.penOf]
  exact Nat.add_le_add_left (Nat.mul_le_mul_right _ (Nat.le_add_right _ _)) _

theorem st_of_eligible {a : Nat} (h : eligible p a = true) : (reqOf p a).st = rqPrefill ∨ (reqOf p a).st = rqDecode := by
  simp only [eligible, eligibleBase, Bool.and_eq_true, decide_eq_true_eq] at h
  tauto

theorem slotsOf_held (h : HoldsAdmit p0 c d e p) {a : Nat} (ha : a ≠ e) : slotsOf p a = slotsOf p0 a := by
  simp only [slotsOf, h.others ha, h.rq, positionsOf_congr h.pens]

/-- A request in ADMITTING waits behind no more slots than the requests in PREFILL and DECODE ask for. -/
theorem slots_le (h : HoldsAdmit p0 c d e p) (r : Req) :
    sumL (((eligibleOf p r.pen).filter fun a =>
        servedBefore (reqOf p a).nextDl (reqOf p a).priority a (dlAfter p r.firstDl) r.priority e).map (slotsOf p)) ≤
      sumL ((servedAhead p0 r e).map (slotsOf p0)) := by
  set served : Nat → Bool := fun a => servedBefore (reqOf p a).nextDl (reqOf p a).priority a (dlAfter p r.firstDl) r.priority e
  have hself : (reqOf p e).st = rqAdmitting := by rw [h.self]; rfl
  have hne {a : Nat} (ha : eligible p a = true) : a ≠ e := by
    rintro rfl
    exact absurd (st_of_eligible ha) (by rw [hself]; decide)
  have hentries : (entriesOfPen p r.pen).filter (fun a => decide (a ≠ e)) = (entriesOfPen p0 r.pen).filter fun a => decide (a ≠ e) := by
    rw [entriesOfPen, h.reqs]
    exact tkeys_tset_ne _ _ _ _ _
  have hperm : ((eligibleOf p r.pen).filter served).Perm ((entriesOfPen p r.pen).filter fun a => served a && eligible p a) := by
    rw [← List.filter_filter]
    exact (sortBy_perm _ _).filter served
  have hothers : ((entriesOfPen p r.pen).filter fun a => served a && eligible p a) =
      (entriesOfPen p0 r.pen).filter fun a => (served a && eligible p a) && decide (a ≠ e) := by
    have hwithout : ((entriesOfPen p r.pen).filter fun a => served a && eligible p a) =
        (entriesOfPen p r.pen).filter fun a => (served a && eligible p a) && decide (a ≠ e) := by
      refine List.filter_congr fun a _ => ?_
      by_cases ha : eligible p a = true
      · simp [hne ha]
      · simp [ha]
    rw [hwithout, ← List.filter_filter (q := fun a => decide (a ≠ e)), hentries, List.filter_filter]
  have hsub : ((entriesOfPen p0 r.pen).filter fun a => (served a && eligible p a) && decide (a ≠ e)).Sublist (servedAhead p0 r e) := by
    refine List.monotone_filter_right _ fun a ha => ?_
    simp only [Bool.and_eq_true, decide_eq_true_eq] at ha ⊢
    obtain ⟨⟨hserved, helig⟩, hae⟩ := ha
    have hdl : dlAfter p r.firstDl = dlAfter p0 r.firstDl := by simp only [dlAfter, h.now]
    have hst := st_of_eligible helig
    simp only [served, h.others hae, hdl] at hserved hst
    exact ⟨hst, hserved⟩
  have hslots : ((eligibleOf p r.pen).filter served).map (slotsOf p) = ((eligibleOf p r.pen).filter served).map (slotsOf p0) := by
    refine List.map_congr_left fun a ha => slotsOf_held h ?_
    have helig := (sortBy_perm _ _).mem_iff.mp (List.mem_of_mem_filter ha)
    exact hne (List.mem_filter.mp helig).2
  rw [hslots, sumL_eq_sum, sumL_eq_sum, (hperm.map (slotsOf p0)).sum_eq, hothers]
  exact (hsub.map (slotsOf p0)).sum_le_sum fun _ _ => Nat.zero_le _

/-- A first token waits for no more than the requests in PREFILL and DECODE that are served before it. -/
theorem firstToken_le (h : HoldsAdmit p0 c d e p) (r : Req) : firstToken p r e ≤
    stepLeft p0 r.pen + (ownSteps p0 r + sumL ((servedAhead p0 r e).map (slotsOf p0)) / batchOf p0 r.pen) * (penOf p0 r.pen).pred := by
  have hbatch : batchOf p r.pen = batchOf p0 r.pen := by simp only [batchOf, h.penOf]
  have hslots := Nat.div_le_div_right (c := batchOf p0 r.pen) (slots_le h r)
  rw [← hbatch] at hslots ⊢
  rw [← stepLeft_held h, ← ownSteps_held h, ← h.penOf]
  exact Nat.add_le_add_left (Nat.mul_le_mul_right _ (Nat.add_le_add_left hslots _)) _

end Held

/-! #### What sharing and releasing pages leaves -/

section Pages
variable {p : Pkg} {e : Nat}

theorem modPool_reserved {m : Nat} {f : Pool → Pool} (hf : (f (poolOf p m)).reserved = (poolOf p m).reserved) (n : Nat) :
    (poolOf (modPool p m f) n).reserved = (poolOf p n).reserved := by
  rw [poolOf_modPool]
  split
  · next hn => rw [hf, hn]
  · rfl

/-- A request without its pages. -/
def pageless (r : Req) : Req := { r with parts := [], blocks := [] }

/-- The requests, but for the pages of one of them, and what is reserved in each pool. -/
def pagedView (e : Nat) (p : Pkg) : (Nat → Req) × (Nat → Nat) :=
  (fun k => if k = e then pageless (reqOf p k) else reqOf p k, fun n => (poolOf p n).reserved)

theorem modReq_pagedView {f : Req → Req} (hf : ∀ r, pageless (f r) = pageless r) : pagedView e (modReq p e f) = pagedView e p := by
  refine Prod.ext (funext fun k => ?_) rfl
  dsimp only [pagedView]
  split
  · next hk => rw [hk, reqOf_modReq_same, hf]
  · next hk => exact reqOf_modReq_ne f hk

theorem pageless_of_view {q : Pkg} (h : pagedView e q = pagedView e p) : pageless (reqOf q e) = pageless (reqOf p e) := by
  simpa [pagedView] using congrFun (congrArg Prod.fst h) e

theorem reqOf_of_view {q : Pkg} (h : pagedView e q = pagedView e p) {k : Nat} (hk : k ≠ e) : reqOf q k = reqOf p k := by
  simpa [pagedView, hk] using congrFun (congrArg Prod.fst h) k

theorem reserved_of_view {q : Pkg} (h : pagedView e q = pagedView e p) (n : Nat) : (poolOf q n).reserved = (poolOf p n).reserved :=
  congrFun (congrArg Prod.snd h) n

theorem modReq_pagedView_congr {q : Pkg} {f g : Req → Req} (h : pagedView e q = pagedView e p)
    (hf : ∀ r, pageless (f r) = pageless (g (pageless r))) (hg : ∀ r, pageless (g r) = pageless (g (pageless r))) :
    pagedView e (modReq q e f) = pagedView e (modReq p e g) := by
  refine Prod.ext (funext fun k => ?_) (congrArg Prod.snd h :)
  dsimp only [pagedView]
  split
  · next hk => rw [hk, reqOf_modReq_same, reqOf_modReq_same, hf, pageless_of_view h, ← hg]
  · next hk => rw [reqOf_modReq_ne f hk, reqOf_modReq_ne g hk, reqOf_of_view h hk]

theorem modPool_pagedView {n : Nat} {f : Pool → Pool} (hf : (f (poolOf p n)).reserved = (poolOf p n).reserved) :
    pagedView e (modPool p n f) = pagedView e p := Prod.ext rfl (funext (modPool_reserved hf))

theorem pagedView_of_keeps {q : Pkg} (hreqs : q.reqs = p.reqs) (hpools : ∀ n, (poolOf q n).reserved = (poolOf p n).reserved) :
    pagedView e q = pagedView e p := by
  refine Prod.ext (funext fun k => ?_) (funext hpools)
  simp only [pagedView, reqOf_congr hreqs]

theorem startCopy_reserved (p : Pkg) (e why : Nat) (keys : List Nat) (n : Nat) :
    (poolOf (startCopy p e why keys) n).reserved = (poolOf p n).reserved := by
  unfold startCopy
  split
  · rfl
  · exact modPool_reserved rfl n

theorem takeBlock_reserved {o o' : Pool} {b : Nat} (h : takeBlock o = some (b, o')) : o'.reserved = o.reserved := by
  unfold takeBlock at h
  dsimp only at h
  split at h
  · obtain ⟨-, rfl⟩ := Prod.mk.inj (Option.some.inj h)
    rfl
  · split at h
    · exact absurd h (by simp)
    · obtain ⟨-, rfl⟩ := Prod.mk.inj (Option.some.inj h)
      rfl

theorem growBlocks_pagedView (p : Pkg) (e : Nat) : pagedView e (growBlocks p e) = pagedView e p := by
  refine forAll_keep (pagedView e) _ _ _ fun q k => ?_
  split
  · split
    · next b o htake =>
      refine (modReq_pagedView ?_).trans (modPool_pagedView ?_)
      · exact fun _ => rfl
      · exact takeBlock_reserved htake
    · rfl
  · rfl

/-- The pages that a request shares with its PREFIX request change nothing but its pages and the positions that it counts as done (R330). -/
theorem sharePrefix_pagedView (p : Pkg) (e : Nat) : pagedView e (sharePrefix p e) = pagedView e (modReq p e fun x =>
    { x with kvDone := if (reqOf p e).prefixH ≠ 0 ∧ (reqOf p ((reqOf p e).prefixH % 4096)).pen = (reqOf p e).pen then (reqOf p e).prefixTokens
                       else x.kvDone }) := by
  unfold sharePrefix
  extract_lets r pe g keys src p1 hosts p2
  have h1 : pagedView e p1 = pagedView e p := forAll_keep (pagedView e) _ _ _ fun q k => by
    split
    · refine (modReq_pagedView ?_).trans (modPool_pagedView rfl)
      exact fun _ => rfl
    · exact modReq_pagedView fun _ => rfl
    · rfl
  by_cases hshare : r.prefixH ≠ 0 ∧ (reqOf p pe).pen = r.pen
  · rw [if_neg hshare.1, if_neg (not_not.mpr hshare.2)]
    refine (pagedView_of_keeps (by simp) (startCopy_reserved p2 e 6 hosts)).trans (modReq_pagedView_congr h1 (fun x => ?_) fun _ => rfl)
    rw [if_pos hshare]
    rfl
  · have hkeep : pagedView e (modReq p e fun x => { x with kvDone := if r.prefixH ≠ 0 ∧ (reqOf p pe).pen = r.pen then r.prefixTokens
        else x.kvDone }) = pagedView e p := modReq_pagedView fun x => by rw [if_neg hshare]
    rw [hkeep]
    split
    · rfl
    · next hpre => rw [if_pos fun hpen => hshare ⟨hpre, hpen⟩]

/-- What is reserved, for each request and in each pool. -/
def reservedView (p : Pkg) : (Nat → Nat) × (Nat → Nat) := (fun k => (reqOf p k).reserved, fun n => (poolOf p n).reserved)

theorem modReq_reservedView {k : Nat} {f : Req → Req} (hf : ∀ r, (f r).reserved = r.reserved) : reservedView (modReq p k f) = reservedView p := by
  refine Prod.ext (funext fun x => ?_) rfl
  dsimp only [reservedView]
  rw [reqOf_modReq]
  split
  · next hx => rw [hf, hx]
  · rfl

theorem modPool_reservedView {n : Nat} {f : Pool → Pool} (hf : ∀ o, (f o).reserved = o.reserved) :
    reservedView (modPool p n f) = reservedView p := Prod.ext rfl (funext (modPool_reserved (hf _)))

theorem stopCopies_reservedView (p : Pkg) (e : Nat) (whys : List Nat) : reservedView (stopCopies p e whys) = reservedView p :=
  modPool_reservedView fun _ => rfl

/-- What is reserved for a request is taken back from its pool, and no more, when its pages are released (R332). -/
theorem releasePages_reserved (p : Pkg) (e n : Nat) : (poolOf (releasePages p e) n).reserved =
    (poolOf p n).reserved - if n = (reqOf p e).pen then (reqOf p e).reserved else 0 := by
  unfold releasePages
  extract_lets r p1 p2 p3 p4
  have h1 : reservedView p1 = reservedView p := by
    refine (forAll_keep reservedView _ _ _ fun q k => ?_).trans (stopCopies_reservedView p e allCopies)
    extract_lets first
    refine (modReq_reservedView ?_).trans (stopCopies_reservedView q k.entry [6])
    exact fun _ => rfl
  have h2 : reservedView p2 = reservedView p1 := forAll_keep reservedView _ _ _ fun q x => by
    split
    · exact modPool_reservedView fun _ => rfl
    · split <;> rfl
    · rfl
  have h3 : reservedView p3 = reservedView p2 := forAll_keep reservedView _ _ _ fun q x => modPool_reservedView fun _ => rfl
  have hreq : (reqOf p3 e).reserved = r.reserved := congrFun (congrArg Prod.fst (h3.trans (h2.trans h1))) e
  have hpool (m : Nat) : (poolOf p3 m).reserved = (poolOf p m).reserved := congrFun (congrArg Prod.snd (h3.trans (h2.trans h1))) m
  change (poolOf p4 n).reserved = _
  rw [poolOf_modPool]
  split
  · next hn => rw [hreq, hpool, hn]
  · exact hpool n

end Pages

end Sys2Proof.Machine
end

section
/-! PROOFS. ADMIT, APPEND, CANCEL, PAUSE and RESUME (R288 to R290, R299 to R301, R336): the decision of an ADMIT, and the claim. -/

namespace Sys2Proof.Machine

/-! #### The decision of an ADMIT -/

section Decision
variable {p : Pkg} {e : Nat}

theorem admitBar_eq (p : Pkg) (e : Nat) : admitBar p e =
    if freeAdmit (poolOf p (reqOf p e).pen) < admitFrames p (reqOf p e) then some stAdmitDeniedMem
    else if p.rq.timeAdmit && ((decide ((reqOf p e).firstDl ≠ 0) && decide ((reqOf p e).firstDl < firstToken p (reqOf p e) e)) ||
      (decide ((reqOf p e).interval ≠ 0) && decide ((reqOf p e).interval < (penOf p (reqOf p e).pen).pred))) then some stAdmitDeniedTime
    else none := rfl

/-- A request of a pen as its ADMIT takes its frames. -/
def grantedReq (p : Pkg) (n frames : Nat) (r : Req) : Req :=
  { r with
    st := rqPrefill, prev := rqPrefill, reserved := frames, nextDl := dlAfter p r.firstDl, limit := r.promptTokens + r.maxNew
    spec := min r.spec (positionsOf p n - 1) }

/-- The package in which an ADMIT has taken its frames. -/
def grantAdmit (p : Pkg) (e : Nat) : Pkg :=
  let r := reqOf p e
  let p1 := modReq (modPool p r.pen fun o => { o with reserved := o.reserved + admitFrames p r }) e (grantedReq p r.pen (admitFrames p r))
  { p1 with rq := { p1.rq with admitted := inc64 p1.rq.admitted } }

theorem reqOf_grantAdmit (p : Pkg) (e : Nat) :
    reqOf (grantAdmit p e) e = grantedReq p (reqOf p e).pen (admitFrames p (reqOf p e)) (reqOf p e) :=
  reqOf_modReq_same (modPool p (reqOf p e).pen fun o => { o with reserved := o.reserved + admitFrames p (reqOf p e) }) e
    (grantedReq p (reqOf p e).pen (admitFrames p (reqOf p e)))

theorem reqOf_grantAdmit_ne {k : Nat} (hk : k ≠ e) : reqOf (grantAdmit p e) k = reqOf p k :=
  reqOf_modReq_ne (p := modPool p (reqOf p e).pen fun o => { o with reserved := o.reserved + admitFrames p (reqOf p e) })
    (grantedReq p (reqOf p e).pen (admitFrames p (reqOf p e))) hk

theorem grantAdmit_pen (p : Pkg) (e k : Nat) : (reqOf (grantAdmit p e) k).pen = (reqOf p k).pen := by
  by_cases hk : k = e
  · rw [hk, reqOf_grantAdmit]
    rfl
  · rw [reqOf_grantAdmit_ne hk]

theorem grantAdmit_reserved (p : Pkg) (e : Nat) : (poolOf (grantAdmit p e) (reqOf p e).pen).reserved =
    (poolOf p (reqOf p e).pen).reserved + admitFrames p (reqOf p e) := by
  change (poolOf (modPool p (reqOf p e).pen fun o => { o with reserved := o.reserved + admitFrames p (reqOf p e) }) _).reserved = _
  rw [poolOf_modPool, if_pos rfl]

/-- A request that its ADMIT has brought to PREFILL. -/
def admittedReq (p : Pkg) (r : Req) : Req :=
  { grantedReq p r.pen (admitFrames p r) r with
    kvDone := if r.prefixH ≠ 0 ∧ (reqOf p (r.prefixH % 4096)).pen = r.pen then r.prefixTokens else r.kvDone }

/-- An ADMIT that nothing bars has its request, its frames, its count and the read of its prompt (R288, R290). -/
theorem decideAdmit_taken (hprefix : prefixBar p (reqOf p e).ctx (reqOf p e).prefixH (reqOf p e).prefixTokens = none)
    (hbar : admitBar p e = none) :
    pageless (reqOf (decideAdmit p e) e) = pageless (admittedReq p (reqOf p e)) ∧
      (∀ k, k ≠ e → reqOf (decideAdmit p e) k = reqOf p k) ∧
      (poolOf (decideAdmit p e) (reqOf p e).pen).reserved = (poolOf p (reqOf p e).pen).reserved + admitFrames p (reqOf p e) ∧
      (decideAdmit p e).rq.admitted = inc64 p.rq.admitted ∧
      Out.hostRead (ctxOf p (reqOf p e).ctx).fn (fieldAt (reqOf p e).admitDesc.raw 16 8) (4 * (reqOf p e).promptTokens) ∈
        (decideAdmit p e).out := by
  set r := reqOf p e
  set p1 := growBlocks (sharePrefix (grantAdmit p e) e) e
  have hop : decideAdmit p e = send (answer p1 r.ctx r.admitDesc stOk (handleOf p1 e) false false)
      (.hostRead (ctxOf p r.ctx).fn (fieldAt r.admitDesc.raw 16 8) (4 * r.promptTokens)) := by
    simp only [decideAdmit, r, hprefix, hbar]
    rfl
  have hans : Answered p1 (answer p1 r.ctx r.admitDesc stOk (handleOf p1 e) false false) := answer_answered _ _ _ _ _ _
  have hview : pagedView e (decideAdmit p e) = pagedView e p1 := by
    rw [hop]
    exact pagedView_of_keeps (q := send _ _) hans.reqs fun n => congrArg Pool.reserved (hans.poolOf n)
  have hshare := hview.trans ((growBlocks_pagedView _ _).trans (sharePrefix_pagedView (grantAdmit p e) e))
  refine ⟨?_, fun k hk => ?_, ?_, ?_, ?_⟩
  · rw [pageless_of_view hshare, reqOf_modReq_same, grantAdmit_pen, grantAdmit_pen, reqOf_grantAdmit]
    rfl
  · rw [reqOf_of_view hshare hk, reqOf_modReq_ne _ hk, reqOf_grantAdmit_ne hk]
  · rw [reserved_of_view hshare]
    exact grantAdmit_reserved p e
  · rw [hop]
    exact (congrArg ReqGlob.admitted hans.rq).trans (by simp [p1]; rfl)
  · rw [hop]
    exact List.mem_append_right _ (List.mem_singleton.mpr rfl)

theorem refuseAdmit_reserved (h : (reqOf p e).reserved = 0) (status n : Nat) :
    (poolOf (refuseAdmit p e status) n).reserved = (poolOf p n).reserved := by
  unfold refuseAdmit
  extract_lets r p1
  have hans : Answered p1 (answer p1 r.ctx r.admitDesc status 0 false false) := answer_answered _ _ _ _ _ _
  refine (releasePages_reserved (answer p1 r.ctx r.admitDesc status 0 false false) e n).trans ?_
  rw [hans.reqOf, hans.poolOf, show (reqOf p1 e).reserved = 0 from h, ite_self, Nat.sub_zero]
  rfl

/-- An ADMIT that its frames or its time bar is counted and logged, and leaves no request (R288, R289). -/
theorem decideAdmit_refused {st : Nat} (hprefix : prefixBar p (reqOf p e).ctx (reqOf p e).prefixH (reqOf p e).prefixTokens = none)
    (hbar : admitBar p e = some st) (hst : st = stAdmitDeniedMem ∨ st = stAdmitDeniedTime) (hreserved : (reqOf p e).reserved = 0) :
    (reqOf (decideAdmit p e) e).st = rqFree ∧ (decideAdmit p e).rq = (noteDenied p st).rq ∧
      ∀ n, (poolOf (decideAdmit p e) n).reserved = (poolOf p n).reserved := by
  have hop : decideAdmit p e = refuseAdmit (logDenied (noteDenied p st) (reqOf p e).ctx (reqOf p e).pen e st) e st := by
    simp only [decideAdmit, hprefix, hbar, if_pos hst]
  rw [hop]
  refine ⟨?_, by simp, fun n => ?_⟩
  · rw [refuseAdmit, freeEntry, reqOf, tget_tset_same]
  · have hreqs : (logDenied (noteDenied p st) (reqOf p e).ctx (reqOf p e).pen e st).reqs = p.reqs := by simp
    have hpens : (logDenied (noteDenied p st) (reqOf p e).ctx (reqOf p e).pen e st).pens = p.pens := by simp
    rw [refuseAdmit_reserved (by rw [reqOf_congr hreqs, hreserved])]
    exact congrArg (fun x => x.pool.reserved) (penOf_congr hpens n)

end Decision

section Verdict
variable {s : State} {src : Src} {p0 p : Pkg} {c e : Nat} {d : Desc} {post : Pkg → Prop}

/-- The bar of an ADMIT, read from the package before it. -/
theorem admitBar_held (h : HoldsAdmit p0 c d e p) (hearly : admitEarly p0 c d.raw = none) (hfree : freeEntryOf p0 = some e) : admitBar p e =
    if freeAdmit (poolOf p0 (reqFrom p0 c e d).pen) < admitFrames p0 (reqFrom p0 c e d) then some stAdmitDeniedMem
    else if p0.rq.timeAdmit && ((decide ((reqFrom p0 c e d).firstDl ≠ 0) &&
          decide ((reqFrom p0 c e d).firstDl < firstToken p (reqFrom p0 c e d) e)) ||
        (decide ((reqFrom p0 c e d).interval ≠ 0) && decide ((reqFrom p0 c e d).interval < (penOf p0 (reqFrom p0 c e d).pen).pred))) then
      some stAdmitDeniedTime
    else none := by
  rw [admitBar_eq, h.self, h.poolOf, h.penOf, h.rq, admitFrames_held h (prefix_ne hearly hfree)]

theorem admitBar_eq_mem (h : HoldsAdmit p0 c d e p) (hearly : admitEarly p0 c d.raw = none) (hfree : freeEntryOf p0 = some e)
    (hmem : freeAdmit (poolOf p0 (reqFrom p0 c e d).pen) < admitFrames p0 (reqFrom p0 c e d)) : admitBar p e = some stAdmitDeniedMem := by
  rw [admitBar_held h hearly hfree, if_pos hmem]

theorem admitBar_eq_time (h : HoldsAdmit p0 c d e p) (hearly : admitEarly p0 c d.raw = none) (hfree : freeEntryOf p0 = some e)
    (hmem : admitFrames p0 (reqFrom p0 c e d) ≤ freeAdmit (poolOf p0 (reqFrom p0 c e d).pen)) (htime : p0.rq.timeAdmit = true)
    (hlate : (0 < (reqFrom p0 c e d).firstDl ∧ (reqFrom p0 c e d).firstDl < firstToken p (reqFrom p0 c e d) e) ∨
      (0 < (reqFrom p0 c e d).interval ∧ (reqFrom p0 c e d).interval < (penOf p0 (reqFrom p0 c e d).pen).pred)) :
    admitBar p e = some stAdmitDeniedTime := by
  simp only [Nat.pos_iff_ne_zero] at hlate
  rw [admitBar_held h hearly hfree, if_neg (Nat.not_lt.mpr hmem), if_pos (by simpa [htime] using hlate)]

theorem admitBar_eq_none (h : HoldsAdmit p0 c d e p) (hearly : admitEarly p0 c d.raw = none) (hfree : freeEntryOf p0 = some e)
    (hmem : admitFrames p0 (reqFrom p0 c e d) ≤ freeAdmit (poolOf p0 (reqFrom p0 c e d).pen))
    (htime : p0.rq.timeAdmit = true → ((reqFrom p0 c e d).firstDl = 0 ∨ firstToken p (reqFrom p0 c e d) e ≤ (reqFrom p0 c e d).firstDl) ∧
      ((reqFrom p0 c e d).interval = 0 ∨ (penOf p0 (reqFrom p0 c e d).pen).pred ≤ (reqFrom p0 c e d).interval)) :
    admitBar p e = none := by
  rw [admitBar_held h hearly hfree, if_neg (Nat.not_lt.mpr hmem), if_neg]
  intro hlate
  simp only [Bool.and_eq_true, Bool.or_eq_true, decide_eq_true_eq] at hlate
  obtain ⟨hen, hlate⟩ := hlate
  have hmet := htime hen
  omega

theorem admittedReq_held (h : HoldsAdmit p0 c d e p) (hearly : admitEarly p0 c d.raw = none) (hfree : freeEntryOf p0 = some e) :
    admittedReq p (reqFrom p0 c e d) = admittedReq p0 (reqFrom p0 c e d) := by
  have hne := prefix_ne (c := c) hearly hfree
  generalize reqFrom p0 c e d = r at hne
  have hshare : (r.prefixH ≠ 0 ∧ (reqOf p (r.prefixH % 4096)).pen = r.pen) ↔ (r.prefixH ≠ 0 ∧ (reqOf p0 (r.prefixH % 4096)).pen = r.pen) :=
    and_congr_right fun hpre => by rw [h.others (hne hpre)]
  simp only [admittedReq, grantedReq, admitFrames_held h hne, dlAfter, h.now, positionsOf_congr h.pens, hshare]

/-- An ADMIT that passes its checks at an ACTIVE pen is decided at once. -/
theorem does_of_decided (hd : due s.pkg src 1 = some d) (hearly : admitEarly s.pkg (srcCtx s.pkg src) d.raw = none)
    (hfree : freeEntryOf s.pkg = some e) (hactive : (penOf s.pkg (ctxOf s.pkg (srcCtx s.pkg src)).pen).st = penActive)
    (hpost : ∀ p q, HoldsAdmit s.pkg (srcCtx s.pkg src) d e p → Answered (decideAdmit p e) q → post q) : Does (.admitReq src) s post := by
  refine does_of_due (exec_admitReq src s) hd fun p q hp hq => ?_
  have hholds := heldAdmit_holds hp (srcCtx s.pkg src) d e
  change Answered (admitOp p _ d) q at hq
  rw [admitOp_passed ((admitEarly_congr hp _ _).trans hearly) ((freeEntryOf_congr hp.reqs).trans hfree),
    if_pos (by rw [hholds.penOf, hp.ctxPen, hactive])] at hq
  exact hpost _ q hholds hq

/-- An ADMIT that its frames or its time bar leaves no request, and counts. -/
theorem does_of_barred {st : Nat} (hd : due s.pkg src 1 = some d) (hearly : admitEarly s.pkg (srcCtx s.pkg src) d.raw = none)
    (hfree : freeEntryOf s.pkg = some e) (hactive : (penOf s.pkg (ctxOf s.pkg (srcCtx s.pkg src)).pen).st = penActive)
    (hst : st = stAdmitDeniedMem ∨ st = stAdmitDeniedTime)
    (hbar : ∀ p, HoldsAdmit s.pkg (srcCtx s.pkg src) d e p → admitBar p e = some st) : Does (.admitReq src) s fun q =>
      (reqOf q e).st = rqFree ∧ q.rq = (noteDenied s.pkg st).rq ∧ ∀ n, (poolOf q n).reserved = (poolOf s.pkg n).reserved := by
  refine does_of_decided hd hearly hfree hactive fun p q hp hq => ?_
  obtain ⟨hreq, hrq, hpools⟩ := decideAdmit_refused (by rw [hp.self]; exact prefixBar_held hp hearly hfree) (hbar p hp) hst (by rw [hp.self]; rfl)
  refine ⟨by rw [hq.reqOf, hreq], ?_, fun n => by rw [hq.poolOf, hpools, hp.poolOf]⟩
  rw [hq.rq, hrq]
  unfold noteDenied
  split_ifs <;> simp only [hp.rq]

end Verdict

/-! #### The claim -/

/-- Settles O35: ADMIT by the request that it makes and the bar that decides it; the others by what their meanings leave of the request that
the handle names. -/
theorem requestDescriptors : Obligations.RequestDescriptors := by
  intro s src d c h
  refine ⟨fun st hd hearly => ?refused, fun e hd hearly hfree hpen => ?waits, fun e hd hearly hfree hpen => ?decided,
    fun cmd type hmem hd hnone => ?noHandle, fun cmd type e hmem hd he hst => ?gone, fun e he => ?named⟩
  case refused =>
    refine does_of_due (exec_admitReq src s) hd fun p q hp hq => ?_
    obtain ⟨hreqs, hlast⟩ := admitOp_refused ((admitEarly_congr hp c d.raw).trans hearly)
    exact ⟨hq.reqs.trans (hreqs.trans hp.reqs), hq.lastGen.trans (hlast.trans hp.lastGen)⟩
  case waits =>
    refine does_of_due (exec_admitReq src s) hd fun p q hp hq => ?_
    have hholds := heldAdmit_holds hp c d e
    change Answered (admitOp p c d) q at hq
    rw [admitOp_passed ((admitEarly_congr hp _ _).trans hearly) ((freeEntryOf_congr hp.reqs).trans hfree),
      if_neg (by rwa [hholds.penOf, hp.ctxPen])] at hq
    have hself : reqOf q e = reqFrom s.pkg c e d := (hq.reqOf e).trans hholds.self
    refine ⟨hself, by rw [hself]; rfl, by rw [hself]; exact reqFrom_gen _ _ _ _, ?_, fun k hk => (hq.reqOf k).trans (hholds.others hk)⟩
    rw [hq.lastGen, hholds.lastGen, tget_tset_same, hself]
  case decided =>
    intro r n x pe whole frames own ahead wait
    refine ⟨fun hmem htime => ?taken, fun hmem => ?noFrames, fun hmem htime hlate => ?noTime⟩
    case taken =>
      refine does_of_decided hd hearly hfree hpen fun p q hp hq => ?_
      have hbar := admitBar_eq_none hp hearly hfree hmem fun hen =>
        (htime hen).imp_left fun hfirst => hfirst.imp_right (firstToken_le hp r).trans
      obtain ⟨hreq, hothers, hpool, hcount, hread⟩ := decideAdmit_taken (by rw [hp.self]; exact prefixBar_held hp hearly hfree) hbar
      rw [hp.self] at hreq hpool hread
      have hface : pageless (reqOf q e) = pageless (admittedReq s.pkg r) := by rw [hq.reqOf, hreq, admittedReq_held hp hearly hfree]
      refine ⟨(congrArg Req.st hface :), (congrArg Req.gen hface :), (congrArg Req.nextDl hface :), (congrArg Req.limit hface :),
        (congrArg Req.spec hface :), (congrArg Req.reserved hface :), ?_, (congrArg Req.kvDone hface :), ?_, ?_, fun k hk => ?_⟩
      · rw [hq.poolOf, hpool, hp.poolOf, admitFrames_held hp (prefix_ne hearly hfree)]
        rfl
      · rw [hq.rq, hcount, hp.rq]
      · exact hq.out _ (hp.fn ▸ hread)
      · rw [hq.reqOf, hothers k hk, hp.others hk]
    case noFrames =>
      refine (does_of_barred hd hearly hfree hpen (.inl rfl) fun p hp => ?_).imp fun q ⟨hq, hst, hrq, hpools⟩ => ⟨hq, hst, ?_, ?_, hpools n⟩
      · exact admitBar_eq_mem hp hearly hfree hmem
      · rw [hrq]; rfl
      · rw [hrq]; rfl
    case noTime =>
      refine (does_of_barred hd hearly hfree hpen (.inr rfl) fun p hp => ?_).imp fun q ⟨hq, hst, hrq, hpools⟩ => ⟨hq, hst, ?_, ?_, hpools n⟩
      · exact admitBar_eq_time hp hearly hfree hmem htime (hlate.imp_left (And.imp_right fun hfirst => hfirst.trans_le (le_firstToken hp r)))
      · rw [hrq]; rfl
      · rw [hrq]; rfl
  case noHandle =>
    simp only [List.mem_cons, Prod.mk.injEq, List.not_mem_nil, or_false] at hmem
    obtain ⟨rfl, rfl⟩ | ⟨rfl, rfl⟩ | ⟨rfl, rfl⟩ | ⟨rfl, rfl⟩ := hmem
    · exact does_of_no_handle (exec_append src s) (fun p => appendOp_eq p c d) hd hnone
    · exact does_of_no_handle (exec_cancel src s) (fun p => cancelOp_eq p c d) hd hnone
    · exact does_of_no_handle (exec_pause src s) (fun p => pauseOp_eq p c d) hd hnone
    · exact does_of_no_handle (exec_resume src s) (fun p => resumeOp_eq p c d) hd hnone
  case gone =>
    have hended (f : Pkg → Pkg) (p : Pkg) (hp : Answered s.pkg p) : Answered p (ended p e d f) := ended_answered (by rwa [hp.reqOf])
    simp only [List.mem_cons, Prod.mk.injEq, List.not_mem_nil, or_false] at hmem
    obtain ⟨rfl, rfl⟩ | ⟨rfl, rfl⟩ | ⟨rfl, rfl⟩ := hmem
    · exact does_of_handle_answered (exec_append src s) (fun p => appendOp_eq p c d) hd he (hended _)
    · exact does_of_handle_answered (exec_pause src s) (fun p => pauseOp_eq p c d) hd he (hended _)
    · exact does_of_handle_answered (exec_resume src s) (fun p => resumeOp_eq p c d) hd he (hended _)
  case named =>
    intro r
    have hr {p : Pkg} (hp : Answered s.pkg p) : reqOf p e = r := hp.reqOf e
    have hlive {p : Pkg} (hp : Answered s.pkg p) : liveReq (reqOf p e) = true := liveReq_of_entryOf ((entryOf_congr hp.reqs _ _).trans he)
    refine ⟨fun hd hdraining hdone hfields => ?append, fun hd hfields hturn => ?late,
      fun hd hfields hturn => ⟨fun hdraining => ?draining, fun hdone => ?done, fun hdone hdraining hstep => ?inStep,
        fun hdone hdraining hstep => ?ends⟩,
      fun hd hdraining hdone hlow hones hrsv => ?pause, fun hd hfields => ⟨fun hdraining hdone hpaused => ?running, fun hpaused => ?resume⟩⟩
    case append =>
      refine does_of_handle (exec_append src s) (fun p => appendOp_eq p c d) hd he hfields fun p q hp hq => ?_
      rw [ended_of_running _ (by rwa [hr hp]) (by rwa [hr hp])] at hq
      obtain ⟨mark, hmark, hself, hothers⟩ := append_leaves p c e d
      rw [← hq.reqOf, hr hp] at hself
      rw [hself]
      refine ⟨rfl, by simp, ⟨mark (askedRead d), List.mem_map_of_mem (by simp), ?_⟩, fun k hk => ?_⟩
      · obtain hm | hm := hmark (askedRead d) <;> rw [hm] <;> exact ⟨rfl, rfl, rfl⟩
      · rw [hq.reqOf, hothers k hk, hp.reqOf]
    case late =>
      refine does_of_handle (exec_cancel src s) (fun p => cancelOp_eq p c d) hd he hfields fun p q hp hq => ?_
      rw [if_pos (by rwa [hr hp])] at hq
      obtain ⟨hst, hend, hheld⟩ := cancel_late (d := d) (hlive hp)
      rw [hq.reqOf]
      exact ⟨hst, hend, by rw [hheld, hr hp]⟩
    case draining =>
      refine does_of_handle (exec_cancel src s) (fun p => cancelOp_eq p c d) hd he hfields fun p q hp hq => ?_
      rw [hr hp, if_neg (by simp [hturn]), if_neg (by rw [hdraining]; decide), if_pos hdraining] at hq
      rw [hq.reqOf, reqOf_holdDesc, hr hp]
      exact ⟨hdraining, rfl, by simp⟩
    case done =>
      refine does_of_handle_answered (exec_cancel src s) (fun p => cancelOp_eq p c d) hd he fun p hp => ?_
      rw [hr hp, if_neg (by simp [hturn]), if_pos hdone]
      exact answer_answered _ _ _ _ _ _
    case inStep =>
      refine does_of_handle (exec_cancel src s) (fun p => cancelOp_eq p c d) hd he hfields fun p q hp hq => ?_
      rw [hr hp, if_neg (by simp [hturn]), if_neg hdone, if_neg hdraining, if_pos hstep] at hq
      rw [hq.reqOf, reqOf_modReq_same, reqOf_holdDesc, hr hp]
      exact ⟨rfl, rfl, by simp⟩
    case ends =>
      refine does_of_handle (exec_cancel src s) (fun p => cancelOp_eq p c d) hd he hfields fun p q hp hq => ?_
      rw [hr hp, if_neg (by simp [hturn]), if_neg hdone, if_neg hdraining, if_neg (by simp [hstep])] at hq
      have hhold := reqOf_holdDesc p e d true
      obtain ⟨hself, hqueue⟩ := endReq_live (p := holdDesc p e d true) (e := e) (by rw [hhold]; exact hlive hp)
        (by rw [hhold, hr hp]; exact hdone) stCancelled
      rw [hq.reqOf, hq.rq, hself]
      exact ⟨rfl, rfl, rfl, hqueue⟩
    case pause =>
      have hfields : firstFail (pauseFields d.raw) = none := by
        simp_all [pauseFields, firstFail_append_eq_none, firstFail_cons_eq_none, need_eq_none]
      refine ⟨fun hwaits => ?_, fun hstep hswapped => ?_⟩ <;>
        refine does_of_handle (exec_pause src s) (fun p => pauseOp_eq p c d) hd he hfields fun p q hp hq => ?_ <;>
        rw [ended_of_running _ (by rwa [hr hp]) (by rwa [hr hp]), hr hp] at hq
      · rw [if_pos hwaits] at hq
        rw [hq.reqOf, reqOf_modReq_same, reqOf_holdDesc, hr hp]
        exact ⟨rfl, rfl⟩
      · rw [if_neg (by simp [hstep, hswapped])] at hq
        rw [hq.reqOf, ← hp.now, ← hr hp]
        exact applyPause_leaves p e d _
    case running =>
      refine does_of_handle_answered (exec_resume src s) (fun p => resumeOp_eq p c d) hd he fun p hp => ?_
      rw [ended_of_running _ (by rwa [hr hp]) (by rwa [hr hp]), if_neg (by rwa [hr hp])]
      exact answer_answered _ _ _ _ _ _
    case resume =>
      refine does_of_handle (exec_resume src s) (fun p => resumeOp_eq p c d) hd he hfields fun p q hp hq => ?_
      rw [ended_of_running _ (by rw [hr hp, hpaused]; decide) (by rw [hr hp, hpaused]; decide), if_pos (by rwa [hr hp])] at hq
      obtain ⟨x, hself, hx⟩ := resumeReq_leaves p c e d
      rw [hostKeys_congr (congrArg Req.parts (hr hp))] at hx
      rw [hq.reqOf, hself, hr hp, dlAfter, hp.now]
      exact ⟨rfl, rfl, rfl, hx⟩

end Sys2Proof.Machine
end
